-- ==== Sys2Proof/Word.lean ====
section
/-! DEFINITION. The word types, exact rounding, and the one sparse table in canonical form. -/

namespace Sys2Proof

/-- A 32-bit register word (00_scope.md, Conventions). -/
abbrev Word := BitVec 32
abbrev Byte := BitVec 8

/-- A sparse table: (key, value) pairs, keys strictly rising, no value equal to what an unlisted key reads as. -/
abbrev Tab (α : Type) := List (Nat × α)

/-- Sparse byte memory: a table of `Host.Cell`. -/
abbrev Mem := List Host.Cell

namespace Tab
variable {α : Type}

/-- The value at key `k`; `d` says what an unlisted key reads as. -/
def get (d : Nat → α) : Tab α → Nat → α
  | [], k => d k
  | (j, v) :: r, k => if j = k then v else get d r k

/-- Remove key `k`. -/
def erase (t : Tab α) (k : Nat) : Tab α := t.filter fun e => e.1 != k

/-- Put `v` at `k` in a table sorted by key. -/
def put : Tab α → Nat → α → Tab α
  | [], k, v => [(k, v)]
  | (j, w) :: r, k, v =>
    if k < j then (k, v) :: (j, w) :: r
    else if j = k then (k, v) :: r
    else (j, w) :: put r k v

/-- A write in canonical form: writing what an unlisted key reads as removes the entry. -/
def set [DecidableEq α] (d : Nat → α) (t : Tab α) (k : Nat) (v : α) : Tab α :=
  if v = d k then t.erase k else t.put k v

/-- Keep the entries whose key is not in `[lo, hi)`. -/
def clearRange (t : Tab α) (lo hi : Nat) : Tab α :=
  t.filter fun e => !(decide (lo ≤ e.1) && decide (e.1 < hi))

/-- Every key of the table exceeds `b`, keys rise strictly, and no entry is the unlisted value. -/
def wfFrom [DecidableEq α] (d : Nat → α) : Option Nat → Tab α → Bool
  | _, [] => true
  | b, (k, v) :: r => (match b with | none => true | some j => decide (j < k)) && decide (v ≠ d k) && wfFrom d (some k) r

/-- The canonical form. -/
def wf [DecidableEq α] (d : Nat → α) (t : Tab α) : Bool := wfFrom d none t

end Tab

/-- The lookup of a sparse table of optional entries. -/
def Tab.find {α : Type} (t : Tab α) (k : Nat) : Option α := (List.find? (fun e => e.1 == k) t).map (·.2)

/-- What an unlisted byte of a memory reads as: zero (R21 for SRAM, R418 step 5 for DRAM). -/
def Mem.dflt : Nat → Byte := fun _ => 0

def Mem.read (m : Mem) (a : Nat) : Byte := Tab.get Mem.dflt m a
def Mem.write (m : Mem) (a : Nat) (b : Byte) : Mem := Tab.set Mem.dflt m a b

/-- The canonical form of a memory. -/
def Mem.wf (m : Mem) : Bool := Tab.wf Mem.dflt m

/-- Floor division rounded to nearest, ties away from zero (R107's rnd); 0 when the divisor is 0. -/
def rnd (u v : Int) : Int :=
  let v' := v.natAbs
  if v' = 0 then 0 else
    let q : Int := ((2 * u.natAbs + v') / (2 * v') : Nat)
    if (u < 0) = (v < 0) then q else -q

end Sys2Proof
end

