-- ==== Sys2Proof/Syntax.lean ====
section
/-! DEFINITION. The commands the block takes: one constructor per row of the command table, with the row's operands. -/

namespace Sys2Proof

/-- Header check of a CSI-2 packet (R58): no error, one bit corrected, or uncorrectable. -/
inductive EccResult where
  | ok | corrected | bad
deriving DecidableEq, Repr

/-- A CSI-2 packet header (R58): virtual channel, data type, word count. -/
structure Csi2Header where
  vc : Nat
  dt : Nat
  wc : Nat
  ecc : EccResult := .ok
deriving DecidableEq, Repr

/-- The three grades of R2. -/
inductive Grade where
  | avk4840 | avk4828 | avk4818
deriving DecidableEq, Repr

/-- Who writes a register that two parties may write (R63, R333, R350). -/
inductive Party where
  | host | mgt
deriving DecidableEq, Repr

/-- The header of a command entry (R377) with what the fetch finds: the phase matches the count, reserved fields are zero. -/
structure CmdHdr where
  fn : Fin 8
  ctag : Nat := 0
  tnEff : Nat := 0
  phaseOk : Bool := true
  rsvdOk : Bool := true
deriving DecidableEq, Repr

/-- An IP or link-layer destination class of a received frame (R347 to R349). -/
inductive DstKind where
  | station | ptpMulticast | ndpMulticast | other
deriving DecidableEq, Repr

/-- What a received Ethernet frame carries (R347). -/
inductive EthBody where
  | pause
  | ptpL2
  | arp
  | ndp
  | icmpEcho (payload : Nat)
  | udp (dport : Nat)
  | tcp
  | other
deriving DecidableEq, Repr

/-- A received Ethernet frame: length with FCS, VLAN tags, outcome of the FCS check. -/
structure EthFrame where
  len : Nat
  tags : List Nat := []
  fcsOk : Bool := true
  dst : DstKind := .station
  /-- fragment, IPv4 options or IPv6 extension headers (R347) -/
  unsupported : Bool := false
  body : EthBody
deriving DecidableEq, Repr

/-- The data set of a PTP Announce message that the best master clock algorithm compares (R352). -/
structure Announce where
  prio1 : Nat
  clockClass : Nat
  accuracy : Nat
  variance : Nat
  prio2 : Nat
  identity : Nat
  stepsRemoved : Nat
deriving DecidableEq, Repr

/-- What a PTP message says, beside its bytes (R349, R352); instants in ns, corrections in ns. -/
inductive PtpBody where
  | sync (twoStep : Bool) (t1 : Int) (corr : Int)
  | followUp (t1 : Int) (corr : Int)
  | delayReq
  | delayResp (t4 : Int) (corr : Int)
  | pdelayReq
  | pdelayResp (t2 : Int) (corr : Int)
  | pdelayRespFollowUp (t3 : Int) (corr : Int)
  | announce (a : Announce)
  | other
deriving DecidableEq, Repr

/-- A received PTP frame (R349). -/
structure PtpFrame where
  msgType : Nat
  domain : Nat := 0
  /-- how it is carried: 0 L2, 1 UDP over IPv4, 2 UDP over IPv6 (R349, PTP_CTRL.TRANSPORT) -/
  transport : Nat := 0
  source : Nat := 0
  seq : Nat := 0
  len : Nat
  vlan : Bool := false
  bytes : List Byte := []
  body : PtpBody := .other
deriving DecidableEq, Repr

/-- How an NVMe command ended, with the data that a bring-up step or a read returns (R454, R460). -/
inductive NvmeReply where
  /-- link trained and controller reset: bring-up step done -/
  | ok
  /-- the command failed, or the step's condition did not come -/
  | error
  /-- Identify: LBA data size, namespace size in 4 KB units, serial number of the store, no metadata (R453) -/
  | identify (lbaSize units serial : Nat) (plain : Bool)
  /-- a superblock read: valid CRC; the log it leads to is the store's own content -/
  | superblock (valid : Bool)
  /-- a group read back: its CRC checks -/
  | group (crcOk : Bool)
deriving DecidableEq, Repr

/-- The outcome of self-test of one die at bring-up or compute reset (R418 step 8, R437): good units, KAT failures, levels. -/
structure DieTest where
  trained : Bool := true
  /-- the training that failed, as LOST_WHY names it: 1 die-to-die path, 2 DRAM (R420, R438) -/
  why : Nat := 1
  engGood : BitVec 18 := 0x3FFFF
  bankGood : BitVec 18 := 0x3FFFF
  feGood : BitVec 5 := 0x1F
  tleGood : BitVec 2 := 3
  sliceGood : BitVec 9 := 0x1FF
  engKatFail : BitVec 18 := 0
  tleKatFail : BitVec 2 := 0
  levels : List Nat := List.replicate 18 7
deriving DecidableEq, Repr

/-- What the bring-up finds (R418 to R423): straps as sampled, PLL, firmware verification, die tests, whether the
journal log checks (R283). -/
structure BootInfo where
  bootSel : Nat := 0
  clkMode : Nat := 0
  sbAddr : Nat := 0
  testMode : Bool := false
  pllOk : Bool := true
  /-- verification of the active bank and of the other one (R423) -/
  fwOk : Bool := true
  fwOtherOk : Bool := true
  dies : Vector DieTest 4 := Vector.replicate 4 {}
  /-- GSEQ of the groups of the log whose bytes fail their CRC when the log is read (R283, R457) -/
  badGroups : List Nat := []
  scGood : BitVec 17 := 0x1FFFF
deriving DecidableEq, Repr

/-- A TRAIN frame's contents (R393). -/
structure TrainFrame where
  levelMax : Nat
  levelMin : Nat := 1
  credits : List Nat
  pkg : Nat
  resume : Bool
  expect : Nat
deriving DecidableEq, Repr

/-- A DATA frame (R395). -/
structure LinkFrame where
  vl : Fin 4
  som : Bool
  eom : Bool
  seq : Nat
  payload : List Byte
deriving DecidableEq, Repr

/-- An RRT ACK datagram (R354, R356, R358). -/
structure RrtAckPkt where
  /-- source address and UDP port match the destination -/
  srcOk : Bool := true
  /-- the Ethernet port it arrived on -/
  port : Fin 2
  auth : Bool := false
  /-- the 16 bytes of its tag, checked against HMAC-SHA-256 of the header under the destination's key -/
  tag : List Byte := []
  header : List Byte := []
  fn : Fin 8
  cls : Fin 4
  rsn : Nat
  dseq : Nat := 0
deriving DecidableEq, Repr

/-- The header that a ring slot in host memory holds (R284): TYPE or OPCODE, RSN or CSEQ, PHASE. -/
structure SlotHdr where
  typ : Nat := 0
  rsn : Nat := 0
  phase : Bool := false
deriving DecidableEq, Repr

/-- The ring settings of a RING_ENABLE write: RING_BASE and RING_CFG (R370). -/
structure RingCfg where
  keep : Bool
  sz : Nat
  /-- what the host's current slot holds, for the check of R284 -/
  slot : SlotHdr := {}
deriving DecidableEq, Repr

/-- An edge at an input pin of an encoder or IMU unit, with its direction, which IDX_POL and DRDY_POL judge (R200, R207). -/
structure PinEdge where
  unit : Fin 4
  rising : Bool
deriving DecidableEq, Repr

/-- The commands. -/
inductive Instr where
  -- the tick (02_tick.md)
  | tickBoundary
  | curdGridClose
  | admission
  | patchCut (p : Fin 16)
  | tickDeadline
  | tickWdog
  -- sensor ports (03_sensor_ports.md)
  | csi2LongPacket (p : Fin 16) (hdr : Csi2Header) (payload : List Byte) (crcOk fifoOvf : Bool)
  | csi2Raw8Packet (p : Fin 16) (hdr : Csi2Header) (payload : List Byte) (crcOk : Bool)
  | csi2ShortPacket (p : Fin 16) (hdr : Csi2Header)
  | packetTimeout (p : Fin 16)
  | syncEdge (p : Fin 16)
  | syncPulseEnd (p : Fin 16)
  | fitLost (p : Fin 16)
  | flushApply (p : Fin 16)
  | portStop (p : Fin 16)
  | ingCtrlEn (p : Fin 16)
  | ingCtrlDisable (p : Fin 16)
  | ingCtrlFlush (p : Fin 16)
  | sciGo (p : Fin 16) (party : Party) (addr wlen rlen : Nat)
  | sciTransferDone (p : Fin 16) (result : Nat) (data : List Byte)
  | sciTimeout (p : Fin 16)
  | ingFitRateRead (p : Fin 16)
  -- event front end (04_event_front_end.md)
  | feEvent (p : Fin 16)
  | agerSweepStart (p : Fin 16)
  | agerSweepEnd (p : Fin 16)
  | surfaceZeroDone (p : Fin 16)
  | feCtrlLearn (p : Fin 16)
  | feCtrlHotApply (p : Fin 16)
  | learnEnd (p : Fin 16)
  -- engines (05_engines.md)
  | descriptorStart (e : Fin 72)
  | descriptorComplete (e : Fin 72)
  | tleRequestStart (d : Fin 4)
  | tleRequestDone (d : Fin 4) (t : Fin 2)
  | edgeError (e : Fin 72) (neuron : Bool)
  | engSrst (e : Fin 72)
  | engResetDone (e : Fin 72)
  | engTripClear (d : Fin 4)
  -- spiking populations (06_spiking.md)
  | populationPhase (f : Fin 8)
  | spikeMessage (f : Fin 8)
  | roleLoadDone (e : Fin 72)
  | streamPrefetch (e : Fin 72) (sid : Nat)
  -- motion inputs (08_motion_inputs.md)
  | encCountEdge (n : Fin 4) (a b : Bool)
  | encIndex (n : PinEdge)
  | encCapture
  | mdQueryAnswer (n : Fin 4) (t : Int)
  | motEncEn (n : Fin 4) (en : Bool)
  | motEncRebase (n : Fin 4)
  | motEncRescale (n : Fin 4)
  | motEncPosRead (n : Fin 4)
  | motEncIdxRead (n : Fin 4)
  | imuDrdy (n : PinEdge)
  | imuTransferDone (n : Fin 4) (bytes : List Byte)
  | imuTimeout (n : Fin 4)
  | motImuEn (n : Fin 4) (en : Bool)
  | motImuOutRead (n : Fin 4)
  -- fusion (09_fusion_tracking.md)
  | fusionTick
  | hoOfferRepeat
  | calIntervalEnd
  | calSolveDone
  | fusPHRead (p : Fin 16)
  -- reports, journal, actions (10_reports_actions.md)
  | reportDelivery (f : Fin 8) (cls : Fin 4)
  | commitGroupForm
  | commitGroupDurable
  | holdupSample (mv : Nat)
  | powerFail
  | finalCommitDone
  | pwrRecoverExpired
  | actionTriggerTime
  | actionTriggerPosition
  | actionPulseEnd (o : Fin 8)
  | actCtrlEn (en : Bool)
  | jnlFRsnRead (f : Fin 8) (cls : Fin 4)
  -- energy, levels, sleep (11_energy_scheduling.md)
  | pmbusTelemetry (g : Fin 6) (mw : Option Nat)
  | avsVoltageReached (d : Fin 4)
  | avsTimeout (d : Fin 4)
  | clkManualWrite (d : Fin 4) (val : BitVec 32)
  | droopDetected (d : Fin 4)
  | droopRecovered (d : Fin 4)
  | thermalThrottle (sensor : Fin 24) (reading : Int)
  | throttleRepeat (sensor : Fin 24) (reading : Int)
  | thermalTlRise (d : Fin 4)
  | thermalTrip (sensor : Fin 24)
  | s2Entry
  | s2PowerDown
  | s3Entry
  | pwrSleepGoS3
  | wake (source unit : Nat)
  | pwrWakeTRead
  -- station time (12_time_network.md)
  | timSnap (party : Party)
  | stagedStepGo (force atEn adj : Bool)
  | stagedStepCancel
  | stagedStepApply
  | servoOffsetWrite (hi : BitVec 32)
  | servoEnWrite (en : Bool)
  | ppsInEdge
  | holdoverTimeout
  | slewEnd
  | timSrvLastRead
  | trigOutCtrlWrite (o : Fin 8) (val : BitVec 32)
  | trigOutPulseStart (o : Fin 8)
  | trigOutPositionPulse (o : Fin 8)
  | trigOutPulseEnd (o : Fin 8)
  | ppsOutPulse
  | ppsOutPulseEnd
  | trigInEdge (k : Fin 4) (rise : Bool)
  | trigInFifoRead (k : Fin 4)
  -- Ethernet, PTP, RRT
  | ethFrameRx (p : Fin 2) (frame : EthFrame)
  | arpRequest (p : Fin 2) (target : BitVec 32) (sender : List Byte)
  | arpReply (p : Fin 2) (d : Fin 8) (mac : List Byte)
  | neighborSolicitation (p : Fin 2) (target : List Byte)
  | icmpEchoRequest (p : Fin 2) (v6 : Bool) (payload : Nat)
  | nextHopRefresh
  | ptpFrameRx (p : Fin 2) (frame : PtpFrame)
  | ptpTxGo (party : Party) (cmd : BitVec 32)
  | ptpTxDone
  | ptpRxPop (party : Party)
  | ptpTxTsRead
  | ptpFailover
  | ethLinkChange (p : Fin 2) (up : Bool)
  | rrtDataSend (d : Fin 8) (stream : Fin 32)
  | rrtResend (d : Fin 8) (stream : Fin 32)
  | rrtAck (d : Fin 8) (ack : RrtAckPkt)
  | rrtFbProbe (d : Fin 8)
  | rrtDestDisable (d : Fin 8)
  | rrtDAckRead (d : Fin 8)
  -- commands of the CMD rings (13_host_interface.md)
  | fence (h : CmdHdr)
  | query (h : CmdHdr) (item arg dst len : Nat)
  | loadGraph (h : CmdHdr) (image : List Byte) (len dst : Nat) (replaces : Option Nat)
  | unloadGraph (h : CmdHdr) (slot : Nat)
  | mapRoles (h : CmdHdr) (table : List Byte)
  | portConfigWrites (h : CmdHdr) (p : Fin 16) (count : Nat) (pairs : List (Nat × BitVec 32))
  | portConfigSci (h : CmdHdr) (p : Fin 16) (addr rlen : Nat) (data : List Byte)
  | portEnable (h : CmdHdr) (p : Fin 16)
  | portDisable (h : CmdHdr) (p : Fin 16)
  | portFlush (h : CmdHdr) (p : Fin 16)
  | setTickChange (h : CmdHdr) (period : Nat)
  | setTickLoad (h : CmdHdr) (period : Nat) (origin : Int)
  | setQuality (h : CmdHdr) (q : Nat)
  | setEnergyCap (h : CmdHdr) (cap : Nat)
  | setPlLimit (h : CmdHdr) (dieMask : Nat) (level : Nat)
  | calibSet (h : CmdHdr) (mask : Nat) (table : List (List Int × Nat))
  | calibLock (h : CmdHdr) (mask : Nat) (lock : Bool)
  | actionAdd (h : CmdHdr) (out : Fin 8) (position : Bool) (enc : Fin 4) (fire : Bool) (width : Nat) (trigger : Int)
  | actionCancel (h : CmdHdr) (id : Nat)
  | ruleSet (h : CmdHdr) (first count : Nat) (rules : List Byte)
  | extMeas (h : CmdHdr) (ts md cd : Int) (var cid cls : Nat) (clsValid spawn : Bool)
  | tapConfig (h : CmdHdr) (mask shift : Nat) (en : Bool)
  | assign (h : CmdHdr) (kind : Nat) (dest : Fin 8) (first count : Nat)
  | washDone (kind unit : Nat)
  | washQuery (h : CmdHdr)
  | rptResume (h : CmdHdr) (mask : Nat) (slots : List SlotHdr)
  | rptDiscard (h : CmdHdr) (mask : Nat)
  | pkgReset (h : CmdHdr)
  -- host interface
  | doorbell (f : Fin 8) (ring : Fin 7) (val : BitVec 32) (size32 : Bool)
  | ringEnable (f : Fin 8) (ring : Fin 7) (cfg : RingCfg)
  | msixModerationTimer (f : Fin 8) (v : Fin 6)
  | hifFCseqRead (f : Fin 8)
  | flr (f : Fin 8)
  | flrComplete (f : Fin 8)
  | flrWedgeTimeout (f : Fin 8)
  | vfEnableClear
  | unmappedAccess (f : Fin 8) (off : Nat) (write : Bool)
  | offBlockAccess (off : Nat) (write : Bool)
  | registerWrite (f : Fin 8) (off : Nat) (val : BitVec 32) (be : BitVec 4)
  | mailboxGo
  | version
  | fptCopy
  | telemetry
  | fwStage (sigOk : Bool) (antiRollback : Nat)
  | logRead (entries : List Int)
  | calStatus
  | mailboxSci
  | debugUnlock (sigOk : Bool) (serial nonce : Nat)
  | mgtWdog
  -- line links (14_line_links.md)
  | linkEnable (l : Fin 4) (en : Bool)
  | linkRetrain (l : Fin 4)
  | linkLockLoss (l : Fin 4)
  | trainFrameSend (l : Fin 4)
  | train (l : Fin 4) (frame : TrainFrame)
  | linkTrainTimeout (l : Fin 4)
  | dataFrameSend (l : Fin 4)
  | data (l : Fin 4) (frame : LinkFrame) (crcOk : Bool) (ack : Nat) (cred : List Nat)
  | nak (l : Fin 4) (seq ack : Nat) (cred : List Nat)
  | credit (l : Fin 4) (ack : Nat) (cred : List Nat)
  | creditFrameSend (l : Fin 4)
  | replayTimeout (l : Fin 4)
  | ttSend (l : Fin 4)
  | tt (l : Fin 4)
  | advertSend (l : Fin 4)
  | advert (l : Fin 4)
  | hoOffer (l : Fin 4)
  | hoReply (l : Fin 4)
  | curds (l : Fin 4)
  | linkPairing (l : Fin 4)
  | lnkOfsRead (l : Fin 4)
  -- reset and bring-up (15_reset_bringup.md)
  | powerOnReset
  | warmResetStart (perst : Bool)
  | endpointReset
  | supplyFault (rail : Nat)
  | resetHoldEnd (info : BootInfo)
  | bootGo (verified : Bool)
  | ready (info : BootInfo)
  | computeReset
  | blockReset (kind unit : Nat)
  | blockResetIdle
  | blockResetTimeout (inFlight : Nat)
  | iocRelease (mask : BitVec 5)
  | rstTLastRead
  | status
  | loadData (bytes : List Byte) (pecOk stop : Bool)
  | loadEnd (pecOk stop verified : Bool)
  | sidebandReset (key : Nat) (pecOk stop : Bool)
  | dieLost (d : Fin 4) (why : Nat)
  | autoComputeReset
  | secRelock
  | secNonceRead
  -- memory and store (16_memory_store.md)
  | memRegWrite (d : Fin 4) (k : Fin 16) (val : BitVec 32)
  | dramUe (addr : Nat) (reader : Nat) (unit : Nat)
  | dramScrub (d : Fin 4) (addr : Nat) (correctable : Bool)
  | memUeAddrRead (d : Fin 4)
  | nvsReinit
  | nvsReinitRetry
  | nvmeCompletion (reply : NvmeReply)
  | nvmeTimeout
  | nvmeRetry
  | superblockWrite
  | nvsGseqRead
  | loadGraphCopyDone (f : Fin 8)
  | mirrorBack (copy : Fin 4)
  | pwrFailNReturn
  | resetOutNRelease
  | hostCmdReset
  | sidebandBusTimeout
  | i3cDynamicAddressAssignment (addr : Nat)
  | delayReqSend (p : Fin 2)
  | jtagInstruction (ir : BitVec 4) (trst : Bool)
deriving DecidableEq, Repr

end Sys2Proof
end

