-- ==== Sys2Proof/Decode.lean ====
section
/-! DEFINITION. The command a word spells: no row of the command table gives bits, so no word spells a command. -/

namespace Sys2Proof

/-- The rows of the command table have no fields and no fixed bits (opcode_table.json), so a word names no row. -/
def decodeTableWord (_nbits _w : Nat) : Option Instr := none

end Sys2Proof
end

