-- ==== Sys2Proof/Config.lean ====
section
/-! DEFINITION. What an implementation fixes and the spec leaves open: constants with no body. -/

namespace Sys2Proof.Config

/-- The k-th fresh value where a result is open and the machine goes on (R138 edge-level sums, R443 nonce, R310
estimator readings): nothing is known of it. -/
opaque freeNat : Nat → Nat

/-- The same as a signed number. -/
opaque freeInt : Nat → Int

/-- The first half of the FIR coefficients of response F, in Q1.17 (R210 states width, symmetry, gain and the bypass F7, not the
numbers): tap j of the half. -/
opaque firHalf : Nat → Nat → BitVec 18

/-- What the PCIe link has negotiated with the host (R363): HIF_LINK shows it. -/
opaque pcieWidth : Nat
opaque pcieSpeed : Nat

/-- The set of its bank that a line of the system cache falls in, and of its slice a line of a synapse cache (R450, R451 give the slice,
the ways and the sets, not which address bits choose the set). -/
opaque cacheSet : Nat → Nat
opaque synSet : Nat → Nat

/-- REM_FAULT, LOC_FAULT and FEC_LOCK of an Ethernet port (R362): the state of the wire. -/
opaque phyBits : Nat → Nat

end Sys2Proof.Config
end

