-- ==== Sys2Proof/Machine/State.lean ====
section
/-! DEFINITION. The block's state, as plain data; every default value is the value after power-on reset. -/

namespace Sys2Proof.Machine

/-! ## Station time (12_time_network.md) -/

/-- Time quality, coded as TQ of R254. -/
inductive Quality where
  | locked | holdover | free | stepped
deriving DecidableEq, Repr

/-- One snapshot set of R333. -/
structure Snapshot where
  /-- TIME_SEC latched (R333) -/
  sec : Nat := 0
  /-- TIME_NS latched (R333) -/
  ns : Nat := 0
  /-- T32 latched (R333) -/
  t32 : Nat := 0
  /-- TN latched (R333) -/
  tn : Nat := 0
deriving DecidableEq, Repr

/-- A staged write of station time that is pending (R334). -/
structure Staged where
  adj : Bool
  v : Int
  ns : Nat
  at? : Option Int
  force : Bool
deriving DecidableEq, Repr

/-- A slew in progress (R341); `endsAt` counts elapsed ns, not station time. -/
structure Slew where
  endsAt : Int
  yHold : Int
deriving DecidableEq, Repr

/-- The servo (R337 to R342). -/
structure Servo where
  /-- integrator I, ppb (R338) -/
  integ : Int := 0
  /-- running average y_avg, ppb (R338) -/
  yAvg : Int := 0
  /-- consecutive applied samples within LOCK_NS (R339) -/
  lockRun : Nat := 0
  /-- consecutive samples beyond SPIKE_NS (R339) -/
  spikeRun : Nat := 0
  /-- the next applied sample is a returning sample (R340) -/
  returning : Bool := true
  /-- step decided for the next boundary (R340) -/
  stepNext : Option Int := none
  /-- slew in progress (R341) -/
  slew : Option Slew := none
  /-- station time of the previous received sample (R338) -/
  lastAt : Option Int := none
  /-- last offset sample (R362 TIM_SRV_LAST) -/
  lastTheta : Int := 0
  /-- elapsed ns of the last SERVO_CLAMP HEALTH (R338) -/
  clampAt : Option Int := none
deriving DecidableEq, Repr

/-- One TRIG_OUT output (R343, R344) and its action-table pulse (R288, R289). -/
structure TrigOut where
  /-- ARMED: awaiting START or POS (R344) -/
  armed : Bool := false
  /-- next start instant of SINGLE or PERIODIC (R343) -/
  next : Int := 0
  /-- position in force for POSITION (R343) -/
  pos : Int := 0
  /-- PERIOD, WIDTH and POSPER taken when the output was armed (R344) -/
  period : Nat := 0
  width : Nat := 0
  posPer : Nat := 0
  /-- a POSITION output whose POS the live MD has reached at a count edge (R343) -/
  reached : Bool := false
  /-- elapsed ns at which the pulse in progress ends -/
  highUntil : Option Int := none
  /-- elapsed ns at which the action-table pulse ends (R289) -/
  actUntil : Option Int := none
deriving DecidableEq, Repr

/-- One TRIG_IN FIFO (R346): stamps and edge directions, head first, at most 16. -/
structure TrigIn where
  fifo : List (Int × Bool) := []
  /-- HI word latched by a read of TIM_TI_LO (R346) -/
  latchHi : Word := 0
deriving DecidableEq, Repr

/-- The time unit. -/
structure TimeUnit where
  /-- N, the integer part of the counter, ns (R331; reset 0) -/
  n : Int := 0
  /-- F, the fraction in units of 2^-32 ns (R331; reset 0) -/
  f : Nat := 0
  /-- y, the frequency adjustment in ppb (R331; reset 0) -/
  y : Int := 0
  /-- the sum of the steps applied, so that n - stepSum is elapsed time (the model's own; R336) -/
  stepSum : Int := 0
  /-- steps applied since power-on reset, and the counter just before and after the last (R336, R401; the model's own) -/
  steps : Nat := 0
  lastStep : Option (Int × Int) := none
  /-- the size of the last step (R336) -/
  stepBy : Int := 0
  /-- TIM_STAT.QUALITY (R339; reset FREE) -/
  quality : Quality := .free
  /-- elapsed ns at which the holdover timer last restarted (R338; reset 0) -/
  holdFrom : Int := 0
  servo : Servo := {}
  /-- staged write pending (R334) -/
  staged : Option Staged := none
  snapPf : Snapshot := {}
  snapMc : Snapshot := {}
  trigIn : Vector TrigIn 4 := Vector.replicate 4 {}
  trigOut : Vector TrigOut 8 := Vector.replicate 8 {}
  /-- elapsed ns at which the PPS_OUT pulse in progress ends (R345) -/
  ppsUntil : Option Int := none
  /-- last PPS_OUT instant that fired: a backward step never fires it again (R336) -/
  ppsLast : Option Int := none
deriving DecidableEq, Repr

/-! ## Boundary-bound changes and the tick (02_tick.md) -/

/-- A port homography (R217): nine signed 64-bit entries and a VERSION. -/
structure Hom where
  h : List Int := [0, 0, 0, 0, 0, 0, 0, 0, 0]
  version : Nat := 0
  online : Bool := false
deriving DecidableEq, Repr

/-- One rule of the rule table (R293). -/
structure Rule where
  valid : Bool := false
  src : Nat := 0
  kind : Bool := false
  out : Nat := 0
  policy : Bool := false
  causes : Nat := 0
  mtch : Nat := 0
  width : Nat := 0
  offset : Int := 0
  cdMin : Int := 0
  cdMax : Int := 0
  minLen : Nat := 0
deriving DecidableEq, Repr

/-- A role map of one epoch: pairs of role and engine index 18·d + e (R192). -/
structure RoleMap where
  epoch : Nat := 0
  binds : List (Nat × Nat) := []
deriving DecidableEq, Repr

/-- A value in force, the one before it, and the tick from which the first holds (R37). -/
structure Versioned (α : Type) where
  cur : α
  prev : α
  eff : Nat
deriving DecidableEq, Repr

/-- A change that waits for a boundary (R43). -/
inductive Change where
  | tickChange (period : Nat)
  /-- period, origin and the number of the first boundary of these values after the acceptance (R50) -/
  | tickLoad (period : Nat) (origin : Int) (first : Int)
  | loadGraph (slot : Nat) (replaces : Option Nat)
  | unloadGraph (slot : Nat)
  | mapRoles (epoch : Nat) (binds : List (Nat × Nat))
  | calibSet (homs : List (Nat × Hom))
  | calibLock (mask : Nat) (lock : Bool)
  | ruleSet (first : Nat) (rules : List Rule)
  | quality (q : Nat)
deriving DecidableEq, Repr

/-- A pending change with the command it came from (R45). -/
structure Pending where
  fn : Fin 8
  op : Nat
  ctag : Nat
  cseq : Nat
  tnEff : Nat
  change : Change
deriving DecidableEq, Repr

/-- What one tick has counted so far, until its TICK_SUMMARY (R56). -/
structure TickAcct where
  tn : Nat
  start : Int
  /-- the instant the tick ended, T_valid of its work (R52); none while it runs -/
  tEnd : Option Int := none
  /-- the boundary, or the instant of the step that ended it, from which its grace and step 3 count (R51) -/
  graceFrom : Int := 0
  /-- the tick's actual length, known when it has ended (R51) -/
  length : Int := 0
  period : Nat := 100
  stepped : Bool := false
  /-- the sum of the steps applied while it ran (R51) -/
  stepIn : Int := 0
  /-- B_k, from which its phases count (R34) -/
  bk : Int := 0
  /-- a step has been applied within it: earlier stamps join it (R51) -/
  joins : Bool := false
  jump : Bool := false
  /-- it produces work (R55) -/
  works : Bool := true
  /-- ports enabled and out of warm-up since the start of the window (R57) -/
  ready : List Nat := []
  /-- ports enabled in the window, or in a part of it -/
  enabled : List Nat := []
  /-- ports enabled in it: its end is their first boundary (R262) -/
  fresh : List Nat := []
  /-- it has overrun (R38) -/
  overrun : Bool := false
  events : Nat := 0
  whey : Nat := 0
  stragglers : Nat := 0
  early : Nat := 0
  dropRoi : Nat := 0
  dropNorm : Nat := 0
  curds : Nat := 0
  ovf : Nat := 0
  abandoned : Nat := 0
  kinematic : Nat := 0
  refused : Nat := 0
  late : Nat := 0
  energy : Int := 0
  budget : Int := 0
  level : Nat := 0
  edge : Bool := false
  gridClosed : Bool := false
  admitted : Bool := false
  fused : Bool := false
  calAdmitted : Bool := false
  /-- (port, GAP cause of R262) pairs met in the tick -/
  bad : List (Nat × Nat) := []
  /-- (port, packets dropped) -/
  drops : List (Nat × Nat) := []
  /-- functions and CIDs of the handoffs given up in its fusion, whose GAP records it writes (R246, R257, R262) -/
  handGaps : List (Fin 8 × Nat) := []
deriving DecidableEq, Repr

/-- A port is in warm-up in the tick (R114, R254). -/
def TickAcct.warm (a : TickAcct) (p : Nat) : Bool := a.bad.any fun b => b == (p, 1)

/-- The tick unit. -/
structure TickUnit where
  /-- TICK_ORIGIN, signed 64-bit ns (R30, R32; reset 0; AON island) -/
  origin : Int := 0
  /-- TICK_PERIOD, µs, 50 to 1,000 (R30, R32; reset 100; AON island) -/
  period : Nat := 100
  /-- number of the running tick (R31; 48 bits) -/
  tn : Nat := 0
  /-- start of the running tick (R51) -/
  start : Int := 0
  /-- accounts of the running tick and of the ticks before their deadline, newest first -/
  accts : List TickAcct := [{ tn := 0, start := 0, works := false }]
  /-- per function: the last tick whose summary its stream admitted (R55, R261) -/
  lastSum : Vector (Option Nat) 8 := Vector.replicate 8 none
  /-- last tick whose deadline has passed (R55, R262; the model's own) -/
  lastDone : Option Nat := none
  /-- per function: refused records since its last admitted summary (R261, R278) -/
  refusedCarry : Vector Nat 8 := Vector.replicate 8 0
  /-- the first tick under renumbered values carries TN_JUMP (R50) -/
  jumpNext : Bool := false
  /-- the tick watchdog (R40; reset disarmed) -/
  wdogArmed : Bool := false
  wdogCount : Nat := 0
  pending : List Pending := []
deriving DecidableEq, Repr

/-! ## Sensor ports (03_sensor_ports.md) -/

/-- Decoder state of one virtual channel (R64; zeroed at enable and reset). -/
structure DecState where
  stc : Nat := 0
  ybase : Nat := 0
  xbase : Nat := 0
deriving DecidableEq, Repr

/-- An internal event word, R76, field by field. -/
structure EvWord where
  unchecked : Bool
  coarse : Bool
  t32 : Nat
  region : Bool
  port : Nat
  pol : Bool
  y : Nat
  x : Nat
deriving DecidableEq, Repr

/-- A committed packet in the vat (R79). -/
structure VatPacket where
  roi : Bool
  trunc : Bool
  words : List EvWord
  /-- the reader's burst under way covers words of it (R80) -/
  granted : Bool := false
deriving DecidableEq, Repr

/-- The packet in read (R80): its words, and how many have been read. -/
structure VatRead where
  roi : Bool
  trunc : Bool
  words : List EvWord
  pos : Nat
deriving DecidableEq, Repr

/-- A long packet in reception (R79, R84). -/
structure Rx where
  hdr : Csi2Header
  /-- station time and elapsed time at which the header arrived -/
  headerAt : Int
  headerEl : Int
  /-- field map of its virtual channel (R64) -/
  map : Nat
  got : Nat
  carry : List Byte
  dec : DecState
  /-- event words written so far, newest first -/
  events : List EvWord
  /-- sync markers of the packet: sensor time u in ns (R72) -/
  markers : List Int
  roi : Bool
  raw : List Byte
  region : List Word
deriving DecidableEq, Repr

/-- The re-stamping fit (R73 to R75). -/
structure Fit where
  valid : Bool := false
  r : Int := 0
  sa : Int := 0
  ua : Int := 0
  prev : Option (Int × Int) := none
deriving DecidableEq, Repr

/-- A driven sync edge (R71): S_j, the instant it was driven, and whether a marker has paired with it. -/
structure SyncEdge where
  s : Int
  t : Int
  used : Bool
deriving DecidableEq, Repr

/-- Who asked for a sensor-control transfer (R63, R380, R390). -/
inductive SciBy where
  | host | mgt | cmd (fn : Fin 8) (ctag cseq : Nat)
deriving DecidableEq, Repr

/-- A sensor-control transfer under way (R62): its asker, the elapsed time at which it started, the bytes to read. -/
structure SciRun where
  who : SciBy
  startEl : Int
  rlen : Nat
deriving DecidableEq, Repr

/-- One sensor port with its vat. -/
structure Port where
  /-- ING_STAT.ENABLED: reception running (R85; reset 0) -/
  running : Bool := false
  /-- reception stops at the next packet boundary (R85) -/
  stopReq : Bool := false
  /-- enabled since the last tick boundary (R262) -/
  fresh : Bool := false
  /-- decoder state by virtual channel (R64) -/
  dec : Vector DecState 16 := Vector.replicate 16 {}
  /-- committed packets the reader has not started, oldest first (R79, R80) -/
  vat : List VatPacket := []
  /-- the packet in read (R80) -/
  reading : Option VatRead := none
  /-- the packet in reception (R79) -/
  rx : Option Rx := none
  /-- ING_STAT.FLUSH_BUSY (R83) -/
  flushPend : Bool := false
  /-- flush commands owed a DONE: function, CTAG, CSEQ (R379) -/
  flushOwed : List (Fin 8 × Nat × Nat) := []
  /-- flow control asserted by the watermarks (R82) -/
  wmFc : Bool := false
  fit : Fit := {}
  /-- sync edges driven within the pairing window, newest first (R71, R72) -/
  edges : List SyncEdge := []
  /-- elapsed ns at which the SENS_SYNC pulse ends; none: pin low (R71) -/
  syncUntil : Option Int := none
  /-- latest sync instant reached (R336: never fired twice) -/
  syncLast : Option Int := none
  /-- sensor-control transfer running (R62) -/
  sci : Option SciRun := none
  /-- words left of the burst that the vat has granted its reader (R80) -/
  burst : Nat := 0
  /-- settings that writes since the last packet header have replaced: register key and value in force (R85) -/
  inForce : Tab Word := []
  /-- the port's region map in force, taken at the packet header (R78) -/
  region : List Word := []
  /-- disabled because its pipeline or a surface bank failed self-test: its GAP records carry DIE (R429) -/
  failed : Bool := false
deriving DecidableEq, Repr

/-! ## Event front end (04_event_front_end.md) -/

/-- Flicker state of one 16×16 cell (R101). -/
structure Flk where
  o : Int := 0
  l : Int := 0
  p : Nat := 0
  lock : Nat := 0
deriving DecidableEq, Repr

/-- One cell of a curd grid (R109). -/
structure Cell where
  n0 : Nat := 0
  n1 : Nat := 0
  sx : Nat := 0
  sy : Nat := 0
  sOff : Int := 0
  minOff : Int := 0
  maxOff : Int := 0
  corners : Nat := 0
  flowN : Nat := 0
  svx : Int := 0
  svy : Int := 0
  coarse : Bool := false
  unchecked : Bool := false
deriving DecidableEq, Repr

/-- A curd grid open for one tick (R109). -/
structure Grid where
  tn : Nat
  start : Int
  cells : Tab Cell := []
deriving DecidableEq, Repr

/-- A curd (R111). -/
structure Curd where
  tn : Nat
  port : Nat
  index : Nat
  edge : Bool
  unchecked : Bool
  coarse : Bool
  overflow : Bool
  patch : Bool
  cells : Nat
  xMin : Nat
  yMin : Nat
  xMax : Nat
  yMax : Nat
  cx : Nat
  cy : Nat
  evOff : Nat
  evOn : Nat
  tMean : Int
  tFirst : Int
  tLast : Int
  vx : Int
  vy : Int
  flowN : Nat
  corners : Nat
  patchAddr : Nat
  /-- the window's start, from which the offsets count -/
  start : Int
  /-- admitted for classification (R306), abandoned (R38), or scored (R124) -/
  admitted : Bool := false
  abandoned : Bool := false
  score : Option (List Int × Bool × Bool) := none
  /-- admitted before its patch was cut: the estimate that was debited (R113, R306) -/
  waiting : Option Int := none
deriving DecidableEq, Repr

/-- A learning run (R98): its first boundary and, once known, its last. -/
structure Learn where
  bs : Int
  be : Option Int
deriving DecidableEq, Repr

/-- An event word that waits in the pipeline, as judged when it was read (R33, R36, R93). -/
structure HeldEv where
  w : EvWord
  s : Int
  tn : Nat
  strag : Bool
deriving DecidableEq, Repr

/-- The front-end pipeline, surface and curd state of one port. -/
structure Fe where
  /-- time surface: 32-bit cell by its byte address in the die's surface SRAM, bank first (R90; zero by R21) -/
  surf : Tab Word := []
  flk : Tab Flk := []
  grids : List Grid := []
  curds : List Curd := []
  learning : Option Learn := none
  learnReq : Bool := false
  hotReq : Bool := false
  /-- zeroing and hot list under way: no vat word is read (R95) -/
  zeroing : Bool := false
  /-- that zeroing is step 3 of a learning run, and LEARN_DONE comes after it (R98) -/
  learned : Bool := false
  /-- FE_STAT.WARMING (R114; reset 1) -/
  warming : Bool := true
  /-- station stamp of the first event read after the zeroing (R114) -/
  tauW : Option Int := none
  /-- epoch whose sweep has started (R93) -/
  sweep : Int := 0
  sweeping : Bool := false
  /-- an early event waits in the pipeline for the sweep's end (R93) -/
  held : Option HeldEv := none
  /-- first tick out of warm-up (R114) -/
  warmTn : Nat := 0
  /-- staged register writes (R115) -/
  staged : Tab Word := []
  /-- normal packets are held back until the next boundary (R307) -/
  normHeld : Bool := false
deriving DecidableEq, Repr

/-! ## Engines (05_engines.md) -/

/-- A work descriptor (R121) with its estimate (R305) and flags of its result (R124). -/
structure Desc where
  kind : Nat
  epoch : Nat
  fn : Fin 8
  role : Nat
  image : Nat
  lFirst : Nat
  lLast : Nat
  result : Bool
  loadIn : Bool
  tn : Nat
  port : Nat
  index : Nat
  inAddr : Nat
  outAddr : Nat
  /-- the estimate debited for the classification, and what its parts have used so far (R305) -/
  est : Int := 0
  used : Int := 0
  passes : Nat := 0
  tleClk : Nat := 0
  bytes : Nat := 0
  /-- the tensor that a continuation hands on (R121) -/
  input : List Byte := []
  sat : Bool := false
  replayed : Bool := false
  edge : Bool := false
deriving DecidableEq, Repr

/-- A stream's prefetch position (R185): next element to fetch, elements ready in the ring, elements consumed. -/
structure StreamPos where
  sid : Nat
  fetched : Nat
  used : Nat
deriving DecidableEq, Repr

/-- The running descriptor (R120): the next layer, and whether it waits for a thin-layer engine. -/
structure Run where
  desc : Desc
  layer : Nat
  waitTle : Bool
  streams : List StreamPos
  /-- passes of the layer in progress ran at an edge level that has ended (R138) -/
  edgeLayer : Bool := false
deriving DecidableEq, Repr

/-- A pending arrival of the arrival queue (R159) or of a dense tile (R162): `step` is the arrival step. -/
inductive Arrival where
  | syn (pop : Nat) (step : Int) (target : Nat) (w : Int) (typ : Nat)
  | vec (tile : Nat) (step : Int) (block : Nat) (mask : Nat)
deriving DecidableEq, Repr

/-- One engine. -/
structure Engine where
  queue : List Desc := []
  run : Option Run := none
  /-- local SRAM, 0x0_0000 to 0x13_FFFF (R118; zero by R21) -/
  sram : Mem := []
  inReset : Bool := false
  /-- an INIT load is under way (R195) -/
  loading : Bool := false
  /-- the function, role and image slot whose INIT the SRAM holds (R195) -/
  holds : Option (Fin 8 × Nat × Nat) := none
  /-- what the load under way brings (R195) -/
  want : Option (Fin 8 × Nat × Nat) := none
  /-- population data moved in while the engine loads: local addresses and bytes (R166) -/
  incoming : List (Nat × List Byte) := []
  arrivals : List Arrival := []
  /-- a detector has flagged a group of 16 neurons of the step in progress (R170) -/
  flagged : Bool := false
deriving DecidableEq, Repr

/-- A request in a die's thin-layer queue (R136). -/
structure TleReq where
  eng : Nat
  layer : Nat
  tn : Nat
  /-- the request was abandoned while its layer ran (R123) -/
  dropped : Bool := false
deriving DecidableEq, Repr

/-! ## Spiking populations (06_spiking.md) -/

/-- What an output neuron did in the tick (R172). -/
structure SpikeLog where
  neuron : Nat
  count : Nat
  first : Nat
  last : Nat
  v : Int
  forced : Bool
  sigma : Int
  mark : Int
deriving DecidableEq, Repr

/-- One population (R145 to R153) with its counters (R173). -/
structure Pop where
  fn : Fin 8
  slot : Nat
  recIdx : Nat
  role : Nat
  pop : Nat
  sigma : Int := 0
  high : Int := 0
  started : Bool := false
  restart : Bool := true
  warmUntil : Int := 0
  /-- starts of lost phases whose web position is not answered yet: their steps are owed (R168, R204) -/
  owed : List Int := []
  firstRec : Bool := false
  log : List SpikeLog := []
  lost : Bool := false
  lag : Bool := false
  replayed : Bool := false
  edge : Bool := false
  spikes : Nat := 0
  synEvents : Nat := 0
  stimOor : Nat := 0
  synOor : Nat := 0
  qovf : Nat := 0
  arriveLost : Nat := 0
  phasesLost : Nat := 0
  stepLag : Nat := 0
deriving DecidableEq, Repr

/-- A spike message under way (R163): its 64-bit word and the engine that sent it. -/
structure SpikeMsg where
  word : BitVec 64
  src : Nat
deriving DecidableEq, Repr

/-- A function's population tick under way (R167): the tick and the next phase. -/
structure PopTick where
  tn : Nat
  phase : Nat
deriving DecidableEq, Repr

/-! ## Graph images (07_graph_images.md) -/

structure FeSetRec where
  ports : Nat
  off : Nat
  value : Nat
deriving DecidableEq, Repr

structure RoleRec where
  role : Nat
  dense : Bool
  spiking : Bool
  replica : Bool
  affine : Bool
  minPl : Nat
  template : Nat
  affineRole : Nat
  dieMask : Nat
  lFirst : Nat
  lLast : Nat
  initFirst : Nat
  initCount : Nat
  strFirst : Nat
  strCount : Nat
  localUse : Nat
deriving DecidableEq, Repr

structure InitRec where
  blob : Nat
  loc : Nat
  len : Nat
deriving DecidableEq, Repr

structure LayerRec where
  op : Nat
  unit : Nat
  mode : Nat
  actSigned : Bool
  outType : Nat
  role : Nat
  last : Bool
  nextValid : Bool
  nextRole : Nat
  k : Nat
  stride : Nat
  pt : Nat
  pl : Nat
  pb : Nat
  pr : Nat
  cIn : Nat
  cOut : Nat
  hIn : Nat
  wIn : Nat
  inA : Nat
  in2A : Nat
  outA : Nat
  wgtA : Nat
  biasA : Nat
  multA : Nat
  sh : Int
  wgtStrm : Bool
  wgtSid : Nat
  lo : Nat
  hi : Nat
  ma : Int
  mb : Int
  scale : Nat
deriving DecidableEq, Repr

structure StreamRec where
  base : Nat
  sid : Nat
  depth : Nat
  stride : Int
  len : Nat
  count : Nat
  ring : Nat
deriving DecidableEq, Repr

structure PopRec where
  role : Nat
  pop : Nat
  encMode : Bool
  enc : Nat
  div : Nat
  n : Nat
  psetFirst : Nat
  psetCount : Nat
  stimCount : Nat
  stimFirst : Nat
  neuronA : Nat
  stepUm : Nat
  org : Int
  ptr : Nat
  list : Nat
  outFirst : Nat
  outCount : Nat
  outMax : Nat
deriving DecidableEq, Repr

structure PsetRec where
  first : Nat
  sub : Bool
  ref : Nat
  thr : Nat
  lsh : List Nat
  wsh : List Nat
deriving DecidableEq, Repr

structure StimRec where
  source : Nat
  enc : Nat
  ports : Nat
  classes : Nat
  binPx : Nat
  base : Nat
  stride : Nat
  count : Nat
  binUm : Nat
  cdOrg : Int
deriving DecidableEq, Repr

structure TileRec where
  role : Nat
  tile : Nat
  dstPop : Nat
  srcPop : Nat
  srcRole : Nat
  wb : Nat
  td : Nat
  tsh : Nat
  srcFirst : Nat
  srcCount : Nat
  dstFirst : Nat
  dstCount : Nat
  wgt : Nat
deriving DecidableEq, Repr

/-- A resident graph image (R174 to R188); its BLOB bytes lie in DRAM from `blob`. -/
structure Image where
  fn : Fin 8
  imageId : Nat
  dst : Nat
  len : Nat
  ports : Nat
  clsRole : Nat
  clsCount : Nat
  blob : Nat
  fe : List FeSetRec := []
  roles : List RoleRec := []
  inits : List InitRec := []
  layers : List LayerRec := []
  streams : List StreamRec := []
  pops : List PopRec := []
  psets : List PsetRec := []
  stims : List StimRec := []
  tiles : List TileRec := []
  /-- first tick the image serves; none before its activation (R187) -/
  activeFrom : Option Nat := none
  /-- first tick it no longer serves (R188, R189) -/
  activeTo : Option Nat := none
  /-- the UNLOAD_GRAPH that owes a DONE when the slot is freed: CTAG, CSEQ (R189) -/
  unloadOwed : Option (Nat × Nat) := none
deriving DecidableEq, Repr

/-- A LOAD_GRAPH whose copy runs (R186). -/
structure LoadJob where
  ctag : Nat
  cseq : Nat
  tnEff : Nat
  dst : Nat
  replaces : Option Nat
  bytes : List Byte
deriving DecidableEq, Repr

/-! ## Motion inputs (08_motion_inputs.md) -/

/-- Captures of consecutive whole microseconds with one count and one edge stamp (R199): instants first, first + 1,000,
..., last; `mark` is the step mark of R205, with the counter before and after the step, and stands on the first of them. -/
structure Capture where
  first : Int
  last : Int
  p : Int
  e : Int
  mark : Option (Int × Int)
deriving DecidableEq, Repr

/-- A value set of R203 and the capture instant from which it holds. -/
structure ValSet where
  cb : Int := 0
  base : Int := 0
  cpm : Nat := 256000000
  from? : Option Int := none
deriving DecidableEq, Repr

/-- One encoder input. -/
structure Encoder where
  /-- the signed 64-bit count (R198; reset 0) -/
  count : Int := 0
  a : Bool := false
  b : Bool := false
  /-- E, the stamp of the last count edge (R199) -/
  e : Int := 0
  /-- instant of the enable (R199) -/
  enabledAt : Option Int := none
  /-- history ring, newest run first, at most 4,096 captures in all (R199) -/
  caps : List Capture := []
  set : ValSet := {}
  old : Option ValSet := none
  pendRebase : Bool := false
  pendRescale : Bool := false
  /-- count and stamp of the last index (R200) -/
  idx : Option (Int × Int) := none
  /-- index captures kept for the INDEX stimuli: the stamp, and the tick that it joins where a step has been applied in that tick
  (R51, R154) -/
  idxLog : List (Int × Option Nat) := []
deriving DecidableEq, Repr

/-- One FIR input sample: value, stamp, FILL (R208, R211). -/
structure Sample where
  x : Int
  t : Int
  fill : Bool
deriving DecidableEq, Repr

/-- One channel's decimation chain (R209 to R213); histories newest first. -/
structure ImuChan where
  n1 : Nat := 0
  h1 : List Sample := []
  n2 : Nat := 0
  h2 : List Sample := []
  outs : List Sample := []
deriving DecidableEq, Repr

/-- One IMU port. -/
structure Imu where
  busy : Bool := false
  /-- stamp of the edge that started the transfer (R207) -/
  stamp : Int := 0
  /-- stamps of edges missed while the transfer ran, oldest first (R208) -/
  missed : List Int := []
  last : List Int := []
  chans : Vector ImuChan 8 := Vector.replicate 8 {}
  /-- elapsed ns at which the DRDY timeout last restarted (R208) -/
  lastDrdy : Option Int := none
deriving DecidableEq, Repr

/-! ## Fusion (09_fusion_tracking.md) -/

/-- A comet (R227). -/
structure Comet where
  pkg : Nat
  serial : Nat
  state : Nat
  cls : Nat := 0
  clsValid : Bool := false
  hoPend : Bool := false
  remote : Bool := false
  kinematic : Bool := false
  vibStale : Bool := false
  coarse : Bool := false
  warming : Bool := false
  port : Nat := 0
  hits : Nat := 0
  tLast : Int := 0
  md : Int := 0
  md0 : Int := 0
  cd : Int := 0
  cd0 : Int := 0
  vmd : Int := 0
  vcd : Int := 0
  lenMd : Nat := 0
  widCd : Nat := 0
  pMd : Nat := 0
  pCd : Nat := 0
  pVmd : Nat := 0
  pVcd : Nat := 0
  tSpawn : Int := 0
  age : Nat := 0
  misses : Nat := 0
  coast : Nat := 0
  votes : Nat := 0
  measAge : Nat := 0
  hist : List Nat := List.replicate 16 0
  tailHead : Nat := 0
  tail : List (Nat × Int × Int) := List.replicate 16 (0, 0, 0)
deriving DecidableEq, Repr

/-- Why a comet leaves (R258). -/
inductive Leave where
  | exit | coast | side | gap
deriving DecidableEq, Repr

/-- A comet in its slot, with its function and handoff bookkeeping (R244, R406). -/
structure Track where
  fn : Fin 8
  c : Comet
  /-- link of the offer, tick it was last sent in, and whether it is outstanding (R406) -/
  offer : Option (Nat × Nat × Bool) := none
  deferred : Option Leave := none
  /-- the reply of the offer freed it: it leaves at the end of the fusion tick (R245) -/
  acked : Bool := false
deriving DecidableEq, Repr

/-- An accepted external measurement that waits for its fusion (R223). -/
structure ExtWait where
  fn : Fin 8
  ctag : Nat
  cseq : Nat
  ts : Int
  md : Int
  cd : Int
  var : Nat
  cid : Nat
  cls : Option Nat
  spawn : Bool
  /-- LATE: it joins the tick that runs at its acceptance, the instant held here (R223) -/
  late : Option Int
deriving DecidableEq, Repr

/-- Calibration sums of one overlap entry (R248). -/
structure CalSum where
  n : Nat := 0
  sCd : Int := 0
  sMd : Int := 0
  sCd2 : Int := 0
  sMd2 : Int := 0
deriving DecidableEq, Repr

/-- An on-line correction waiting for its boundary (R250). -/
structure CalInst where
  port : Nat
  dCd : Int
  dMd : Int
  tnEff : Nat
  pairs : Nat
deriving DecidableEq, Repr

/-- Vibration state after one output of an axis (R222): stamp, station time of its receipt, pos and v. -/
structure VibPoint where
  stamp : Int
  got : Int
  pos : Int
  v : Int
deriving DecidableEq, Repr

/-- Vibration state of one axis (R222), with the states after its latest outputs, newest first. -/
structure VibAxis where
  vel : Int := 0
  pos : Int := 0
  v : Int := 0
  stamp : Option Int := none
  hist : List VibPoint := []
deriving DecidableEq, Repr

/-- A curd measured by the neighbour (R407). -/
structure RemoteCurd where
  link : Nat
  tn : Nat
  md : Int
  cd : Int
  ev : Nat
  port : Nat
  index : Nat
  bad : Bool
deriving DecidableEq, Repr

/-- A local curd's measurement, kept for pairing and for CURDS messages (R248, R407). -/
structure LocalCurd where
  tn : Nat
  port : Nat
  index : Nat
  md : Int
  cd : Int
  ev : Nat
  bad : Bool
deriving DecidableEq, Repr

/-- A run of consecutive ticks in which a port is not covered (R262): the tick that its next GAP record starts with, and what the whole
run has met. -/
structure GapRun where
  first : Nat
  cause : Nat
  causes : Nat
  packets : Nat
deriving DecidableEq, Repr

/-- The fusion and tracking unit. -/
structure Fusion where
  /-- the comet store by slot (R226; reset empty) -/
  store : Tab Track := []
  /-- comets confirmed in the fusion of a tick: tick, function, class, CD (R154 COMET stimuli) -/
  confirms : List (Nat × Fin 8 × Nat × Int) := []
  /-- last serial given (R227) -/
  serial : Nat := 0
  homs : Vector (Versioned Hom) 16 := Vector.replicate 16 { cur := {}, prev := {}, eff := 0 }
  ext : List ExtWait := []
  sums : Vector CalSum 16 := Vector.replicate 16 {}
  /-- sums handed to the management core (R249, R252) -/
  waiting : Option (Vector CalSum 16) := none
  /-- the solve that runs takes these sums (R252) -/
  solving : Option (Vector CalSum 16) := none
  /-- elapsed ns at which the calibration interval under way began (R249) -/
  calFrom : Int := 0
  /-- ports whose correction from the solve that runs, and from the sums that wait, a CALIB_SET or CALIB_LOCK discards (R251) -/
  calStale : List Nat := []
  waitStale : List Nat := []
  installs : List CalInst := []
  vib : Vector (VibAxis × VibAxis) 16 := Vector.replicate 16 ({}, {})
  remote : List RemoteCurd := []
  mine : List LocalCurd := []
  /-- staged FUS register writes (R253) -/
  staged : Tab Word := []
  /-- per port: MD_START of the coverage runs (R262); none: cleared -/
  mdStart : Vector (Option Int) 16 := Vector.replicate 16 none
  /-- per port: the run of uncovered ticks under way (R262) -/
  runs : Vector (Option GapRun) 16 := Vector.replicate 16 none
deriving DecidableEq, Repr

/-! ## Reports, journal and actions (10_reports_actions.md) -/

/-- A record's body (R258 to R266, R172). -/
inductive Body where
  | comet (final : Bool) (c : Comet) (cause : Nat) (confirms : Bool) (ticks : Nat)
  | curd (c : Curd) (meas : Option (Int × Int)) (size : Option (Nat × Nat)) (cid : Nat) (assigned : Bool)
  | summary (a : TickAcct) (skipped coverage : Nat)
  | gap (first port cause causes : Nat) (warming unknown isOpen : Bool) (ticks cid : Nat) (mdFrom mdTo cdFrom cdTo : Int) (packets : Nat)
  | action (missed : Bool) (id out : Nat) (kind : Bool) (enc : Nat) (late overlap : Bool) (cause width : Nat)
      (trigger actual : Int) (mdAt : Option Int) (origRsn origClass rule cid : Nat)
  | calib (tnEff port : Nat) (online locked : Bool) (version oldVersion : Nat) (dCd dMd : Int) (pairs : Nat)
  | timeStatus (t offset : Int) (freq : Int) (old new : Quality) (source cause : Nat) (step : Int) (tn : Nat)
  | health (code : Nat) (critical : Bool) (kind unit counter : Nat) (t : Int) (detail : List Nat)
  | snn (tn neuron role pop spikes first last : Nat) (encMode : Bool) (v : Int) (forced restart lost lag replayed edge warming : Bool)
      (step : Int) (suppressed : Nat) (mark : Int)
deriving DecidableEq, Repr

/-- A record of the journal (R254, R271). -/
structure JRec where
  fn : Fin 8
  cls : Nat
  /-- the count of its RSN, bits [47:0] (R256) -/
  count : Nat
  epoch : Nat
  body : Body
  mirrorLost : Bool
  flags : Nat
  tq : Quality
  pkg : Nat
  /-- station time at which it received its RSN -/
  at_ : Int
  /-- the bank it is written to, 0 or 1 (R271) -/
  bank : Nat
  /-- its delivery bound, set at its release (R41, R268) -/
  bound : Int := 0
  released : Bool := false
  committed : Bool := false
  hostDone : Bool := false
  /-- RRT destinations that have not acknowledged it (R270) -/
  dests : List Nat := []
  /-- its slot was freed for space; it is read back from the store (R273, R460) -/
  early : Bool := false
  /-- its slot in the bank's circular buffer (R271) -/
  slot : Nat := 0
deriving DecidableEq, Repr

/-- CAUSE of ACTION_MISSED (R263). -/
inductive MissCause where
  | late | reset | power | cancelled | tableFull | outputMode | encoder
deriving DecidableEq, Repr

/-- A pending action entry (R287). -/
structure Action where
  gen : Nat
  slot : Nat
  out : Fin 8
  kind : Bool
  enc : Fin 4
  fire : Bool
  origClass : Nat
  fn : Fin 8
  width : Nat
  trigger : Int
  origRsn : Nat
  cid : Nat
  rule : Nat
  /-- judged late, with this cause, while the table was frozen, or with the FIRE policy while its pads were held (R280, R290, R299) -/
  lateBy : Option MissCause := none
  /-- a position entry whose trigger the live MD has reached at a count edge (R288) -/
  reached : Bool := false
deriving DecidableEq, Repr

/-- The delivery state of one ring in retention SRAM (R284). -/
structure Delivery where
  base : Nat := 0
  size : Nat := 0
  slot : Nat := 0
  phase : Bool := true
  /-- next RSN (or CSEQ) to deliver -/
  next : Nat := 1
deriving DecidableEq, Repr

/-- A commit group (R274). -/
structure Group where
  gseq : Nat
  recs : List JRec
  snapshot : Nat
  final : Bool
  mirrorLost : Bool
  epoch : Nat
  t : Int
deriving DecidableEq, Repr

/-- Where the final commit stands (R280): committing, with the snapshot groups that are durable, or done. -/
inductive PfPhase where
  | committing (parts : Nat) | done
deriving DecidableEq, Repr

/-- The snapshot of R282. -/
structure SnapData where
  /-- station time, and GSEQ of the first group of the final commit (R458) -/
  t : Int
  firstGseq : Nat
  epoch : Nat
  actions : Tab Action
  next : List Nat
  delivery : List Delivery
  rules : List (List Rule)
deriving DecidableEq, Repr

/-- Report queues, journal control and the action table. -/
structure Journal where
  /-- JNL_EPOCH (R256; kept in the boot flash) -/
  epoch : Nat := 0
  /-- next count of stream 4·f + c (R256; reset 1) -/
  next : Vector Nat 32 := Vector.replicate 32 1
  /-- live records, oldest first (R271) -/
  recs : List JRec := []
  /-- delivery states, ring 5·f + (CPL, RPT0 to RPT3) (R284, R458) -/
  delivery : Vector Delivery 40 := Vector.ofFn fun i => { next := if i.1 % 5 = 0 then 0 else 1 }
  /-- the group being made durable (R275) -/
  group : Option Group := none
  gseq : Nat := 0
  /-- copies that are reachable, by die (R272) -/
  copies : Vector Bool 4 := Vector.replicate 4 true
  /-- next slot of each bank's circular buffer (R271) -/
  slots : Vector Nat 2 := Vector.replicate 2 0
  /-- tries of the next write of each copy that will fail (R271; the model's own: the DRAM's answer) -/
  failNext : Vector Nat 4 := Vector.replicate 4 0
  /-- copies that have become unreachable and are not yet reported (R272) -/
  unsaid : List (Fin 4) := []
  /-- the final commit (R280) -/
  pf : Option PfPhase := none
  /-- GSEQ of the first group of the final commit (R458) -/
  pfFirst : Nat := 0
  /-- elapsed ns from which RECOVER counts (R281) -/
  recoverFrom : Option Int := none
  /-- PWR_FAIL_N as last sampled (R481) -/
  pfLow : Bool := false
  /-- HEALTH codes written in this tick, for the once-per-tick limits (R273, R278) -/
  onceTick : List Nat := []
  /-- CURD records written by each function for the tick in fusion (R259) -/
  curdRecs : Vector Nat 8 := Vector.replicate 8 0
  /-- staged JNL_F_CLASS and JNL_F_CFG writes (R299) -/
  staged : Tab Word := []
  /-- the action table by slot (R286; retention SRAM) -/
  actions : Tab Action := []
  /-- generation of each table slot (R287) -/
  gens : Tab Nat := []
  /-- rule tables (R293) -/
  rules : Vector (Versioned (List Rule)) 8 := Vector.replicate 8 { cur := List.replicate 32 {}, prev := List.replicate 32 {}, eff := 0 }
deriving DecidableEq, Repr

/-! ## The journal store (16_memory_store.md) -/

/-- The NVMe command in flight (R453). -/
inductive NvmeOp where
  | bringUp (step : Nat) | groupWrite | groupFlush | sbWrite | sbFlush | readBack (fn : Fin 8) (cls count : Nat)
deriving DecidableEq, Repr

/-- The store: its controller's state and the log's durable contents. -/
structure Store where
  /-- NVS_STAT.STATE (R454; reset ABSENT): 0 ABSENT, 1 INIT, 2 UP, 3 FAULTED, 4 FULL -/
  state : Nat := 0
  why : Nat := 0
  op : Option NvmeOp := none
  /-- retries used by the command (R459) -/
  tries : Nat := 0
  /-- the command failed and waits for its retry delay (R459) -/
  retryWait : Bool := false
  /-- elapsed ns at which the command was issued or failed -/
  opAt : Int := 0
  /-- the group being committed has had its Flush (R275) -/
  flushed : Bool := false
  /-- the store has been FAULTED since it was last UP (R459) -/
  back : Bool := false
  /-- durable groups, oldest first, each with its first unit (R456) -/
  log : List (Nat × Group) := []
  snap : Option SnapData := none
  /-- next free unit (R456) -/
  unit : Nat := 2
  /-- superblock sequence, and durable groups since it was written (R455) -/
  sbSeq : Nat := 0
  sbGroups : Nat := 0
  sbEpoch : Nat := 0
  hasSb : Bool := false
  /-- elapsed ns at which a superblock was last written, or the store came UP (R455) -/
  sbAt : Int := 0
  /-- serial number of the store in its superblock and of the store that answers (R460) -/
  serial : Nat := 0
  sbSerial : Nat := 0
  /-- partition values in force, taken at the last initialisation (R463) -/
  lbaFirst : Nat := 0
  lbaCount : Nat := 0
  nsid : Nat := 1
  /-- the log's size in 4 KB units (R455) -/
  units : Nat := 0
  lastGseq : Nat := 0
deriving DecidableEq, Repr

/-! ## Energy (11_energy_scheduling.md) -/

/-- The kinds of work that are priced (R303). -/
inductive Work where
  | ev | pass | tle | syn | touch | byte | fus
deriving DecidableEq, Repr

/-- The ledger (R300 to R309). -/
structure Ledger where
  bal : Int := 0
  eTick : Int := 0
  prevETick : Int := 0
  r1 : Int := 0
  r2 : Int := 0
  r4 : Int := 0
  s1 : Int := 0
  s2 : Int := 0
  s4 : Int := 0
  overRun : Nat := 0
  overNow : Bool := false
  goodRun : Nat := 0
  /-- temperature factors of the open window by rail group (R304) -/
  tf : Vector Nat 6 := Vector.replicate 6 65536
  /-- C_raw by rail group in the open window (R310) -/
  raw : Vector Int 6 := Vector.replicate 6 0
  /-- cost of each function's last admitted population tick (R305) -/
  popLast : Vector (Option Int) 8 := Vector.replicate 8 none
  /-- units of work of the population tick that runs, by kind and die (R303, R305) -/
  popWork : Vector (List (Work × Fin 4 × Nat)) 8 := Vector.replicate 8 []
  popEst : Vector Int 8 := Vector.replicate 8 0
  /-- G values that wait for the next window boundary (R311) -/
  gNext : Vector (Option Nat) 6 := Vector.replicate 6 none
  pmbFails : Vector Nat 6 := Vector.replicate 6 0
  frozen : Vector Bool 6 := Vector.replicate 6 false
  /-- LEDGER_CLAMP was written at this elapsed time (R312) -/
  clampAt : Option Int := none
  staged : Tab Word := []
deriving DecidableEq, Repr

/-- Level and voltage of one compute die (R313 to R318). -/
structure DieLevel where
  /-- level whose frequency the die runs, and that of its voltage (R316; reset PL0) -/
  freq : Nat := 0
  volt : Nat := 0
  voltEdge : Bool := false
  /-- PWR_D_STAT.EDGE: the edge variant is in force -/
  edge : Bool := false
  /-- emergency step-down since the last boundary -/
  emerg : Bool := false
  /-- the emergency was an edge trip: level to settle to (R141) -/
  trip : Option Nat := none
  /-- a raise under way: target level and edge variant (R316) -/
  raising : Option (Nat × Bool) := none
  /-- elapsed ns at which the raise's voltage was sent (R316) -/
  avsAt : Int := 0
  /-- no rise until AVS_FAIL is cleared (R316) -/
  blocked : Bool := false
  /-- PL_LIMIT in force and its staged value (R315) -/
  limit : Nat := 7
  limitNext : Option Nat := none
  /-- thermal limit (R321; reset PL7) -/
  tl : Nat := 7
  /-- elapsed ns of the last throttle step or rise of TL (R321) -/
  tlFrom : Int := 0
  /-- elapsed ns of the last reading, of a sensor that acts on the die, at THROTTLE − HYST or more (R321) -/
  warmAt : Int := 0
  /-- ledger level (R314) -/
  ledger : Nat := 7
  /-- HOLD_LEFT (R141) -/
  holdLeft : Nat := 0
  /-- EDGE_TRIPS, saturating at 255 (R141) -/
  trips : Nat := 0
  /-- clock stretched by a droop since this elapsed time (R320) -/
  stretch : Option Int := none
deriving DecidableEq, Repr

/-- S0 to S3 and the wake (R323). -/
structure Sleep where
  /-- 0, 2 or 3 for S0, S2 and S3; S1 is S0 with every unit gated (R323, R324; reset S0) -/
  state : Nat := 0
  /-- S2 entry under way: tick at which it began (R325) -/
  entering : Option Nat := none
  /-- elapsed ns of step 2 of the entry (R325) -/
  stepAt : Option Int := none
  /-- waiting for the first working boundary after a wake (R327) -/
  waking : Bool := false
  /-- elapsed ns since which the idle conditions hold (R325) -/
  idleFrom : Int := 0
  /-- elapsed ns at which S2 was reached (R326) -/
  s2At : Option Int := none
  /-- S3 entry waits for its records to be committed (R326) -/
  goS3 : Bool := false
  /-- station time of the last wake (R328) -/
  wakeT : Int := 0
deriving DecidableEq, Repr

/-! ## Host interface (13_host_interface.md) -/

/-- A completion entry (R382). -/
structure Cpl where
  op : Nat
  ctag : Nat
  status : Nat
  result : Nat
  cseq : Nat
  d10 : Nat := 0
  d18 : Nat := 0
  data : List Byte := []
deriving DecidableEq, Repr

/-- One ring (R370 to R373). -/
structure Ring where
  /-- the AVK's own count: fetched or written (R371) -/
  count : Nat := 0
  /-- the host's tail or consumed count (R372) -/
  host : Nat := 0
deriving DecidableEq, Repr

/-- Moderation state of one MSI-X vector (R375): entries since the last message, and the first one's instant. -/
structure Moder where
  n : Nat := 0
  since : Option Int := none
deriving DecidableEq, Repr

/-- TAP configuration and its partly filled entry (R380, R381). -/
structure Tap where
  en : Bool := false
  mask : Nat := 0
  shift : Nat := 0
  seen : Nat := 0
  dropped : Nat := 0
  buf : List EvWord := []
deriving DecidableEq, Repr

/-- One function FN0 to FN7. -/
structure Func where
  rings : Vector Ring 7 := Vector.replicate 7 {}
  /-- next CSEQ (R376; reset 0) -/
  cseq : Nat := 0
  /-- DONE completions kept in the command log while CPL is disabled (R385) -/
  owed : List Cpl := []
  /-- commands accepted whose DONE has not come: CSEQ (R376, R379) -/
  openCmds : List Nat := []
  /-- FENCE commands waiting: CTAG and CSEQ (R379) -/
  fences : List (Nat × Nat) := []
  flrBusy : Bool := false
  /-- station time of the FLR write (R387) -/
  flrAt : Option Int := none
  /-- the boundary step of an FLR is still to come (R386 step 3) -/
  flrEdge : Bool := false
  wedged : Bool := false
  /-- RETAINED: classes that wait for RPT_RESUME or RPT_DISCARD (R388) -/
  retained : List Nat := []
  mods : Vector Moder 6 := Vector.replicate 6 {}
  tap : Tap := {}
  quality : Versioned Nat := { cur := 0, prev := 0, eff := 0 }
  /-- role maps: the current epoch and the one before it (R122, R193) -/
  roles : Versioned RoleMap := { cur := {}, prev := {}, eff := 0 }
  /-- MAP_ROLES in force whose loads may still run: CTAG, CSEQ (R379) -/
  mapOwed : List (Nat × Nat) := []
  /-- newest epoch numbered (R193) -/
  newest : Nat := 0
  /-- the LOAD_GRAPH whose copy runs (R186) -/
  load : Option LoadJob := none
  popTick : Option PopTick := none
  reroute : Nat := 0
  routeDrop : Nat := 0
  streamWait : Nat := 0
deriving DecidableEq, Repr

/-- A wash under way (R369): the unit and the ASSIGN that owes a DONE. -/
structure Wash where
  kind : Nat
  unit : Nat
  /-- comet slots of one range are washed together -/
  count : Nat := 1
  /-- CSEQ, CTAG of the ASSIGN; none for a wash without a command (R366, R448) -/
  owed : Option (Nat × Nat)
deriving DecidableEq, Repr

/-- Owners (R366, R367; after reset FN0 owns everything). -/
structure Owners where
  port : Vector (Fin 8) 16 := Vector.replicate 16 0
  eng : Vector (Fin 8) 72 := Vector.replicate 72 0
  fmap : Vector (Fin 8) 8 := Vector.replicate 8 0
  trig : Vector (Fin 8) 8 := Vector.replicate 8 0
  rrt : Vector (Fin 8) 8 := Vector.replicate 8 0
  tick : Fin 8 := 0
  /-- 2 MB granules owned by a function other than FN0 -/
  gran : Tab (Fin 8) := []
  /-- comet partitions: first slot and count -/
  part : Vector (Nat × Nat) 8 := (Vector.replicate 8 (0, 0)).set 0 (0, 16384)
  washes : List Wash := []
deriving DecidableEq, Repr

/-- A management request (R390), taken from MGT_MB_REQ. -/
structure MgtReq where
  code : Nat
  tag : Nat
  resp : Nat
  rlen : Nat
  args : List Word
deriving DecidableEq, Repr

/-! ## Ethernet, PTP and RRT (12_time_network.md) -/

/-- An entry of the PTP receive queue (R349). -/
structure PtpEntry where
  stamp : Int
  len : Nat
  vlan : Bool
  trunc : Bool
  event : Bool
  port : Nat
  bytes : List Byte
deriving DecidableEq, Repr

/-- What an Ethernet port sends of its own accord (R348, R350, R352). -/
inductive EthTx where
  | arpRequest (target : BitVec 32)
  | arpReply (mac : List Byte) (ip : BitVec 32) (dest : List Byte)
  | neighborSolicitation (target : List Byte)
  | neighborAdvertisement (target mac : List Byte)
  | echoReply (v6 : Bool) (payload : Nat)
  | ptp (mode : Nat) (bytes : List Byte)
  | delayReq (peer : Bool) (transport domain : Nat)
  /-- Pdelay_Resp, sent in mode 3: what is added to its correctionField (R350, R352) -/
  | pdelayResp (transport : Nat) (corr : Int)
deriving DecidableEq, Repr

/-- The management core's slave-only PTP clock (R352): the master chosen, the Sync that waits for its Follow_Up, the
path-delay exchange under way, and meanPathDelay. -/
structure PtpClock where
  master : Option (Nat × Announce) := none
  /-- source, sequence, receive stamp, correction -/
  sync : Option (Nat × Nat × Int × Int) := none
  /-- t1, and t2 less its correction, of the last complete Sync -/
  t12 : Option (Int × Int) := none
  /-- stamp of the path-delay request sent -/
  reqAt : Option Int := none
  /-- stamp of the Pdelay_Resp received, its t2 and correction -/
  resp : Option (Int × Int × Int) := none
  /-- twice meanPathDelay, ns -/
  path2 : Int := 0
deriving DecidableEq, Repr

/-- A DATA datagram sent and not wholly acknowledged (R355): first and last RSN, elapsed ns of its latest sending. -/
structure RrtFlight where
  first : Nat
  last : Nat
  t : Int
deriving DecidableEq, Repr

/-- One RRT destination's sending state (R353 to R359). -/
structure RrtDest where
  /-- acknowledgement base by stream, as full RSNs (R353, R356) -/
  base : Tab Nat := []
  /-- datagrams in flight by stream, oldest first (R355) -/
  flight : Tab (List RrtFlight) := []
  /-- resends without the base advancing (R359) -/
  resends : Nat := 0
  down : Bool := false
  onFb : Bool := false
  /-- elapsed ns of the last probe (R359) -/
  probeAt : Int := 0
  /-- next hop resolved on each Ethernet port (R348) -/
  hops : Vector (Option (List Byte)) 2 := Vector.replicate 2 none
  /-- RRT_D_DSEQ: last DSEQ sent (R354) -/
  dseq : Nat := 0
deriving DecidableEq, Repr

/-- Ethernet ports, PTP and RRT. -/
structure Net where
  link : Vector Bool 2 := Vector.replicate 2 false
  rxq : List PtpEntry := []
  /-- head index of the receive queue (PTP_RX_STAT.HEAD) -/
  rxHead : Nat := 0
  /-- PTP frame being sent: mode and port (R350) -/
  tx : Option (Nat × Nat) := none
  txStamp : Int := 0
  /-- OWNER_NOW: the management core (R351; reset host) -/
  ptpMgt : Bool := false
  /-- the PCIe data link layer is down (R351) -/
  pcieDown : Bool := false
  dests : Vector RrtDest 8 := Vector.replicate 8 {}
  /-- elapsed ns of the last refresh of the next hops (R348) -/
  refreshAt : Int := 0
  /-- elapsed ns of the last RRT_AUTH_FAIL HEALTH (R358) -/
  authAt : Option Int := none
  /-- the management core's PTP clock (R352) -/
  clock : PtpClock := {}
deriving DecidableEq, Repr

/-! ## Line links (14_line_links.md) -/

/-- A message taken from a link (R398): its header's fields, its bytes from 0x00, its lane, the frames it occupies and
the station time at which its first block arrived. -/
structure LinkMsg where
  mtype : Nat
  fmt : Nat
  func : Nat
  count : Nat
  tn : Nat
  vl : Fin 4
  frames : Nat
  bytes : List Byte
  arrived : Int
  /-- the receiver's tick when the message was complete (R408) -/
  doneTn : Nat
deriving DecidableEq, Repr

/-- A frame that a link port sends (R395). -/
inductive LinkTx where
  | data (f : LinkFrame) (ack : Nat) (cred : List Nat)
  | nak (seq ack : Nat) (cred : List Nat)
  | credit (ack : Nat) (cred : List Nat)
  | train (f : TrainFrame)
deriving DecidableEq, Repr

/-- One line-link port. -/
structure Link where
  /-- LNK_STAT.STATE (R393; reset DOWN): 0 DOWN, 1 TRAINING, 2 UP -/
  state : Nat := 0
  level : Nat := 0
  /-- lanes locked: TRAIN frames are exchanged (R393 step 2) -/
  locked : Bool := false
  /-- matching TRAIN frames received, and the last one (R393) -/
  trained : Nat := 0
  peerTrain : Option TrainFrame := none
  /-- elapsed ns of the last TRAIN frame sent (R393) -/
  trainSent : Option Int := none
  /-- elapsed ns at which training started (R393) -/
  trainFrom : Int := 0
  /-- sequence state kept since the link was last up (R393 RESUME) -/
  resume : Bool := false
  txSeq : Nat := 0
  rxSeq : Nat := 0
  /-- a NAK was sent since the last taken frame (R396) -/
  naked : Bool := false
  owesAck : Bool := false
  /-- frames kept for replay, oldest first, with the elapsed ns of their latest sending (R396) -/
  replay : List (LinkFrame × Int) := []
  /-- elapsed ns since which nothing has been sent while something is owed (R396) -/
  quietFrom : Int := 0
  /-- replays without progress (R393) -/
  replays : Nat := 0
  /-- frames waiting to be sent, by lane -/
  sendq : Vector (List LinkFrame) 4 := Vector.replicate 4 []
  /-- credits left, by lane (R397) -/
  credits : Vector Nat 4 := #v[4, 32, 64, 8]
  /-- credits owed to the peer, by lane -/
  owed : Vector Nat 4 := Vector.replicate 4 0
  /-- payload of the message being received, by lane, and its frames (R398) -/
  rxPart : Vector (List Byte × Nat) 4 := Vector.replicate 4 ([], 0)
  /-- complete messages not yet handled, oldest first (R398, R399) -/
  rxMsgs : List LinkMsg := []
  /-- T_TX and arrival of the last TT taken (R400) -/
  echo : Option (Int × Int) := none
  /-- θ and d (R401); none: no θ formed since link-up (NO_OFS) -/
  theta : Option (Int × Int) := none
  /-- LNK_OFS and LNK_DELAY: the θ and d formed last (R401; reset 0) -/
  ofs : Int × Int := (0, 0)
  /-- LNK_STAT.SKEW (R402) -/
  skew : Bool := false
  tickCfg : Bool := false
  dup : Bool := false
  loop : Bool := false
  /-- HO messages held for a future tick (R408), oldest first -/
  held : List LinkMsg := []
  /-- the last 256 CIDs replied ACK or MERGED, with the reply (R405), newest first -/
  replied : List (Nat × Nat × Nat) := []
  peerPkg : Nat := 0
  peerLevel : Nat := 0
  peerFw : Nat := 0
  /-- values of the last ADVERT sent: PKG_ID, LEVEL_MAX, TICK_PERIOD, TICK_ORIGIN; and the elapsed ns of its sending (R403) -/
  advertised : Option (Nat × Nat × Nat × Int) := none
  advAt : Int := 0
  /-- station time of the last TT instant used (R400) -/
  ttAt : Option Int := none
  /-- T_TX of the last TTs sent, newest first, with the steps applied by then (R401) -/
  ttSent : List (Int × Nat) := []
  /-- ticks below this one have had their link pairing (R407) -/
  pairedTo : Nat := 0
  lateTick : Option Nat := none
  staged : Tab Word := []
deriving DecidableEq, Repr

/-! ## Reset, floor plan, debug (15_reset_bringup.md, 17_package_electrical.md) -/

/-- One die of the floor plan (R438). -/
structure DiePlan where
  lost : Bool := false
  why : Nat := 0
  engPresent : BitVec 18 := 0x3FFFF
  engGood : BitVec 18 := 0
  bankPresent : BitVec 18 := 0x3FFFF
  bankGood : BitVec 18 := 0
  fePresent : BitVec 5 := 0x1F
  feGood : BitVec 5 := 0
  tlePresent : BitVec 2 := 3
  tleGood : BitVec 2 := 0
  slicePresent : BitVec 9 := 0x1FF
  sliceGood : BitVec 9 := 0
  engKatFail : BitVec 18 := 0
  tleKatFail : BitVec 2 := 0
  levels : List Nat := List.replicate 18 0
deriving DecidableEq, Repr

/-- What kind of reset runs. -/
inductive Hold where
  | por | warm (cause : Nat)
deriving DecidableEq, Repr

/-- A block reset under way (R424, R425). -/
structure BlkRun where
  kind : Nat
  unit : Nat
  at_ : Int
deriving DecidableEq, Repr

/-- The reset controller, floor plan, pads, straps, sideband and debug state. -/
structure ResetUnit where
  /-- the reset in its hold (R417; power-on reset begins in it) -/
  hold : Option Hold := some .por
  /-- elapsed ns at which the hold began (R417) -/
  holdAt : Int := 0
  /-- RESET_OUT_N low (R416) -/
  outLow : Bool := true
  outFrom : Option Int := none
  /-- THERM_TRIP_N low (R322) -/
  thermLow : Bool := false
  /-- GLB_STAT.READY and STAGE (R436, R418; reset 0) -/
  ready : Bool := false
  stage : Nat := 0
  bootErr : Nat := 0
  fwBank : Nat := 0
  fwVerified : Bool := false
  /-- station time at which the last reset began (R433) -/
  tLast : Int := 0
  /-- the cause of the bring-up in progress (R412, FPT CAUSE) -/
  cause : Nat := 1
  /-- a power-on bring-up is in progress: journal restore applies (R283) -/
  fromPor : Bool := true
  /-- compute reset under way (R427): its step -/
  compute : Option Nat := none
  /-- elapsed ns of the last AUTO_CMP compute reset, and of the pending one's die loss (R440) -/
  autoAt : Option Int := none
  lostAt : Option Int := none
  blk : Option BlkRun := none
  /-- an accepted PKG_RESET waits 10 µs from this elapsed time (R380) -/
  pkgReset : Option Int := none
  /-- FW_STAGE has put an image into the inactive bank (R390) -/
  fwStaged : Bool := false
  /-- groups held (R430; reset all five) -/
  held : BitVec 5 := 0x1F
  /-- latched levels of the pads: none is high impedance (R430) -/
  padTrig : List (Option Bool) := List.replicate 8 none
  padPps : Option Bool := none
  padSens : List (Option Bool × Option Bool × Option Bool) := List.replicate 16 (none, none, none)
  /-- SCLK, MOSI and CS_N of each IMU port (R430, group 4); group 3 is only ever high impedance -/
  padImu : List (Option Bool × Option Bool × Option Bool) := List.replicate 4 (none, none, none)
  dies : Vector DiePlan 4 := Vector.replicate 4 {}
  scGood : BitVec 17 := 0
  gen : Nat := 0
  fptCause : Nat := 0
  tPub : Int := 0
  /-- bytes 0x000 to 0x4FF of the floor plan as last published (R438); none before the first publication -/
  fpt : List Byte := []
  /-- bytes of an image that the sideband loads (R434) -/
  sbImage : List Byte := []
  /-- I3C dynamic address (R434) -/
  sbDyn : Option Nat := none
  /-- debug unlock in force (R443) -/
  unlocked : Bool := false
  /-- nonce counter: the nonce is a free value of it (R443) -/
  nonce : Nat := 0
  /-- TAP instruction register (R483; IEEE 1149.1 resets it to IDCODE) and the instruction in effect -/
  jtagIr : Nat := 2
  jtagEff : Nat := 2
deriving DecidableEq, Repr

/-- What identifies the package: set by its order and its factory test, never changed by a step. -/
structure Chip where
  grade : Grade := .avk4840
  rev : Nat := 1
  serial : Nat := 0
  katVer : Nat := 0
  keyId : Nat := 0
  rollback : Nat := 0
  bootSel : Nat := 0
  clkMode : Nat := 0
  sbAddr : Nat := 0
  testMode : Bool := false
  fwVer : Nat := 0
deriving DecidableEq, Repr

/-! ## Outputs -/

/-- What the package has sent outside. -/
inductive Out where
  | cpl (fn : Fin 8) (slot : Nat) (phase : Bool) (e : Cpl) (entry : List Byte)
  | report (fn : Fin 8) (cls slot : Nat) (phase : Bool) (r : JRec) (entry : List Byte)
  | tap (fn : Fin 8) (slot : Nat) (dropped : Nat) (words : List EvWord) (entry : List Byte)
  | shadow (fn : Fin 8) (counts : List Nat) (cseq : Nat) (bytes : List Byte)
  | msix (fn : Fin 8) (vec : Nat)
  | hostWrite (addr : Nat) (bytes : List Byte)
  | query (fn : Fin 8) (addr : Nat) (item : Nat) (values : List Int)
  /-- `header`: the 64 bytes of R390 before the data -/
  | mgtResp (addr code tag status : Nat) (values : List Int) (header : List Byte)
  | readValue (reg : Nat) (v : Word)
  | md (enc : Fin 4) (t : Int) (md : Option Int)
  | sci (port mode addr : Nat) (w : List Byte) (rlen : Nat)
  | sciRecover (port : Nat)
  | spi (imu mode sckDiv : Nat) (cmd : List Byte) (rd : Nat)
  | eth (port : Nat) (what : EthTx)
  | rrt (port dest : Nat) (stream : Nat) (first count dseq : Nat) (t : Int) (resend : Bool) (data : List Byte)
  /-- `wire`: the frame as R395 lays it out; empty for a TRAIN frame, whose payload has no layout -/
  | link (port : Nat) (f : LinkTx) (wire : List Byte)
  | nvme (op : NvmeOp) (data : List Byte)
  | avs (die level : Nat) (edge : Bool)
  | sideband (bytes : List Byte)
deriving DecidableEq, Repr

/-! ## Caches and staging SRAM (R13, R19, R20, R450, R451) -/

/-- What the hub's system cache, the dies' synapse caches and the thin-layer engines' SRAM hold. A cached line always equals the DRAM
bytes behind it (R450: no reader ever sees a stale line), so a cache is the lines that it holds, by number (address / 64). -/
structure Caches where
  /-- system cache: the lines of each set, the most recently used first (R450); sets of slice s are numbered from 4,096·s -/
  sys : Tab (List Nat) := []
  /-- synapse cache of each die: the lines of each set (R451); sets of good slice s are numbered from 1,024·s -/
  syn : Vector (Tab (List Nat)) 4 := Vector.replicate 4 []
  /-- SRAM of each thin-layer engine: the weights staged for the layer it runs (R134) -/
  tle : Vector (List Byte) 8 := Vector.replicate 8 []
deriving DecidableEq, Repr

/-! ## The whole state -/

/-- The package: everything but the queue of commands that wait. -/
structure Mach where
  /-- what identifies the package: straps, fuses, grade (R2, R3, R421, R443) -/
  chip : Chip := {}
  /-- every 32-bit register of R27's blocks: offsets whose value differs from the reset value -/
  regs : Tab Word := []
  time : TimeUnit := {}
  tick : TickUnit := {}
  port : Vector Port 16 := Vector.replicate 16 {}
  fe : Vector Fe 16 := Vector.replicate 16 {}
  eng : Vector Engine 72 := Vector.replicate 72 {}
  /-- thin-layer queue of each die, and the request each thin-layer engine runs (R136) -/
  tleq : Vector (List TleReq) 4 := Vector.replicate 4 []
  tle : Vector (Option TleReq) 8 := Vector.replicate 8 none
  /-- descriptors the schedulers hold back for a full queue or a reset (R120, R144): engine and descriptor -/
  heldDesc : List (Nat × Desc) := []
  /-- next index of each die's patch ring (R447) -/
  patchNext : Vector Nat 4 := Vector.replicate 4 0
  pops : List Pop := []
  spikes : List SpikeMsg := []
  /-- resident images by package slot 0 to 15 (R187) -/
  images : Tab Image := []
  enc : Vector Encoder 4 := Vector.replicate 4 {}
  imu : Vector Imu 4 := Vector.replicate 4 {}
  fus : Fusion := {}
  jnl : Journal := {}
  nvs : Store := {}
  led : Ledger := {}
  lvl : Vector DieLevel 4 := Vector.replicate 4 {}
  sleep : Sleep := {}
  fn : Vector Func 8 := Vector.replicate 8 {}
  own : Owners := {}
  /-- management requests queued or in service (R390) -/
  mgt : List MgtReq := []
  /-- port of the SCI request in service at the head of the queue (R390) -/
  mgtSci : Option (Fin 16) := none
  net : Net := {}
  link : Vector Link 4 := Vector.replicate 4 {}
  rst : ResetUnit := {}
  /-- DRAM bytes by device physical address (R444; zero after power-on reset, R418 step 5) -/
  dram : Mem := []
  /-- caches and the thin-layer engines' SRAM (R13, R19, R20; zero or empty after power-on reset, R21) -/
  cache : Caches := {}
  /-- addresses of 64-byte lines with an uncorrectable error (R449) -/
  ueLines : List Nat := []
  /-- how many free values have been drawn (the model's own) -/
  draws : Nat := 0
  /-- what the package has sent outside, newest first (the model's own) -/
  out : List Out := []
deriving DecidableEq, Repr

/-- The block: the package, and the commands waiting for it, first in, first out. -/
structure State extends Mach where
  /-- commands waiting, oldest first (the block's queue; the model's own) -/
  pending : List Instr := []
deriving DecidableEq, Repr

/-- Why the machine stops. No command of the table stops it. -/
inductive Fault where
  /-- no command raises it: the spec names no event that stops the package for good (safe) -/
  | none
deriving DecidableEq, Repr

/-- Why a command is refused. -/
inductive Refusal where
  /-- raised by an arm whose command has no meaning yet (safe) -/
  | notModelled (mnemonic : String)
  /-- raised by a command whose effect the spec leaves to a unit outside it (safe) -/
  | outside (what : String)
deriving DecidableEq, Repr

/-- The machine right after power-on reset: every field at the default of its structure. -/
def State.reset : State := {}

end Sys2Proof.Machine
end

