-- ==== Sys2Proof/Machine/Fields.lean ====
section
/-! DEFINITION. The named fields of the register map that the meanings use: address, high bit, low bit. -/

namespace Sys2Proof.Machine

/-- A field of a register: the register's offset, its high bit and its low bit. -/
structure Fld where
  a : Nat
  hi : Nat
  lo : Nat
deriving DecidableEq, Repr

/-- Where function f's page is kept: FN0's at HIF + 0x1000 (R365), a VF's outside PF BAR0. -/
def fnPage (f : Nat) : Nat := if f = 0 then 0x081000 else 0x1000000 + f * 0x10000

/-- Where function f's JNL page is kept: + 0x100 + f·0x40, but FN4's page would lie on the counters at + 0x200, which the
offset names (log entry 9), so FN4's words are kept outside BAR0. -/
def jnlPage (f : Nat) : Nat := if f = 4 then 0x2001000 else 0x1F0100 + f * 0x40

namespace R

/-- R299 -/
def ACT_CANCELLED : Fld := ⟨0x1E004C, 31, 0⟩
/-- R299 -/
def ACT_CTRL_EN : Fld := ⟨0x1E0000, 0, 0⟩
/-- R299 -/
def ACT_FIRED : Fld := ⟨0x1E0040, 31, 0⟩
/-- R299 -/
def ACT_FIRED_LATE : Fld := ⟨0x1E0044, 31, 0⟩
/-- R299 -/
def ACT_FULL : Fld := ⟨0x1E0050, 31, 0⟩
/-- R292 -/
def ACT_F_OUT_OUT_MASK (k : Nat) : Fld := ⟨0x1E0010 + k * 0x4, 7, 0⟩
/-- R290 -/
def ACT_LEAD_POS_LEAD : Fld := ⟨0x1E0004, 31, 16⟩
/-- R290 -/
def ACT_LEAD_T_LEAD : Fld := ⟨0x1E0004, 15, 0⟩
/-- R299 -/
def ACT_MISSED : Fld := ⟨0x1E0048, 31, 0⟩
/-- R299 -/
def ACT_OVERLAP : Fld := ⟨0x1E0058, 31, 0⟩
/-- R299 -/
def ACT_RULE_HITS : Fld := ⟨0x1E005C, 31, 0⟩
/-- R299 -/
def ACT_RULE_OUT : Fld := ⟨0x1E0054, 31, 0⟩
/-- R316 -/
def CLK_AVS_AVS_TMO : Fld := ⟨0x30804, 31, 16⟩
/-- R316 -/
def CLK_AVS_PL_SETTLE : Fld := ⟨0x30804, 15, 0⟩
/-- R320 -/
def CLK_DROOP_LONG : Fld := ⟨0x30800, 15, 0⟩
/-- R318 -/
def CLK_D_CTRL_A (i : Nat) : Nat := 0x30000 + i * 0x100
/-- R318 -/
def CLK_D_CTRL_DROOP_MIN (i : Nat) : Fld := ⟨0x30000 + i * 0x100, 7, 0⟩
/-- R318 -/
def CLK_D_CTRL_MAN_EN (i : Nat) : Fld := ⟨0x30000 + i * 0x100, 31, 31⟩
/-- R320 -/
def CLK_D_DROOP_EVENTS (i : Nat) : Fld := ⟨0x30010 + i * 0x100, 31, 0⟩
/-- R320 -/
def CLK_D_DROOP_LONG (i : Nat) : Fld := ⟨0x30018 + i * 0x100, 31, 0⟩
/-- R320 -/
def CLK_D_DROOP_NS (i : Nat) : Fld := ⟨0x30014 + i * 0x100, 31, 0⟩
/-- R318 -/
def CLK_D_STAT_CFG_WR (i : Nat) : Fld := ⟨0x30004 + i * 0x100, 0, 0⟩
/-- R144 -/
def ENG_DESC_ABANDON (i : Nat) : Fld := ⟨0x181044 + i / 18 * 0x10000 + i % 18 * 0x200, 31, 0⟩
/-- R144 -/
def ENG_DESC_DONE (i : Nat) : Fld := ⟨0x181040 + i / 18 * 0x10000 + i % 18 * 0x200, 31, 0⟩
/-- R144 -/
def ENG_DESC_STALE (i : Nat) : Fld := ⟨0x181048 + i / 18 * 0x10000 + i % 18 * 0x200, 31, 0⟩
/-- R141 -/
def ENG_D_DCTRL_EDGE_EN (i : Nat) : Fld := ⟨0x180000 + i * 0x10000, 0, 0⟩
/-- R141 -/
def ENG_D_DCTRL_EDGE_HOLD (i : Nat) : Fld := ⟨0x180000 + i * 0x10000, 31, 16⟩
/-- R141 -/
def ENG_D_DSTAT_TRIP (i : Nat) : Fld := ⟨0x180004 + i * 0x10000, 2, 2⟩
/-- R144 -/
def ENG_EDGE_ERR (i : Nat) : Fld := ⟨0x181058 + i / 18 * 0x10000 + i % 18 * 0x200, 31, 0⟩
/-- R144 -/
def ENG_ERR_ABANDON (i : Nat) : Fld := ⟨0x18100C + i / 18 * 0x10000 + i % 18 * 0x200, 3, 3⟩
/-- R144 -/
def ENG_ERR_EDGE_ERR (i : Nat) : Fld := ⟨0x18100C + i / 18 * 0x10000 + i % 18 * 0x200, 0, 0⟩
/-- R144 -/
def ENG_ERR_SAT (i : Nat) : Fld := ⟨0x18100C + i / 18 * 0x10000 + i % 18 * 0x200, 1, 1⟩
/-- R144 -/
def ENG_ERR_STALE (i : Nat) : Fld := ⟨0x18100C + i / 18 * 0x10000 + i % 18 * 0x200, 2, 2⟩
/-- R144 -/
def ENG_PASSES (i : Nat) : Fld := ⟨0x18104C + i / 18 * 0x10000 + i % 18 * 0x200, 31, 0⟩
/-- R144 -/
def ENG_REPLAYS (i : Nat) : Fld := ⟨0x18105C + i / 18 * 0x10000 + i % 18 * 0x200, 31, 0⟩
/-- R144 -/
def ENG_ROWS_SKIPPED (i : Nat) : Fld := ⟨0x181050 + i / 18 * 0x10000 + i % 18 * 0x200, 31, 0⟩
/-- R144 -/
def ENG_SAT_COUNT (i : Nat) : Fld := ⟨0x181054 + i / 18 * 0x10000 + i % 18 * 0x200, 31, 0⟩
/-- R362 -/
def ETH_ARP (i : Nat) : Fld := ⟨0x60118 + i * 0x8000, 31, 0⟩
/-- R347 -/
def ETH_CTRL_EN (i : Nat) : Fld := ⟨0x60000 + i * 0x8000, 0, 0⟩
/-- R347 -/
def ETH_CTRL_RX_UNTAG (i : Nat) : Fld := ⟨0x60000 + i * 0x8000, 6, 6⟩
/-- R347 -/
def ETH_CTRL_VLAN_TX (i : Nat) : Fld := ⟨0x60000 + i * 0x8000, 7, 7⟩
/-- R362 -/
def ETH_ICMP (i : Nat) : Fld := ⟨0x60120 + i * 0x8000, 31, 0⟩
/-- R348 -/
def ETH_IP4 (i : Nat) : Fld := ⟨0x60014 + i * 0x8000, 31, 0⟩
/-- R348 -/
def ETH_IP4_CFG (i : Nat) : Fld := ⟨0x60018 + i * 0x8000, 5, 0⟩
/-- R348 -/
def ETH_IP4_GW (i : Nat) : Fld := ⟨0x6001C + i * 0x8000, 31, 0⟩
/-- R348 -/
def ETH_IP6_A (i k : Nat) : Nat := 0x60020 + i * 0x8000 + k * 0x4
/-- R348 -/
def ETH_IP6_CFG (i : Nat) : Fld := ⟨0x60030 + i * 0x8000, 7, 0⟩
/-- R348 -/
def ETH_IP6_GW_A (i k : Nat) : Nat := 0x60040 + i * 0x8000 + k * 0x4
/-- R348 -/
def ETH_MAC_HI (i : Nat) : Fld := ⟨0x6000C + i * 0x8000, 15, 0⟩
/-- R348 -/
def ETH_MAC_LO (i : Nat) : Fld := ⟨0x60008 + i * 0x8000, 31, 0⟩
/-- R362 -/
def ETH_NDP (i : Nat) : Fld := ⟨0x6011C + i * 0x8000, 31, 0⟩
/-- R362 -/
def ETH_PTP (i : Nat) : Fld := ⟨0x60124 + i * 0x8000, 31, 0⟩
/-- R362 -/
def ETH_RRT_RX (i : Nat) : Fld := ⟨0x60128 + i * 0x8000, 31, 0⟩
/-- R362 -/
def ETH_RX_DROP (i : Nat) : Fld := ⟨0x60110 + i * 0x8000, 31, 0⟩
/-- R362 -/
def ETH_RX_FCS (i : Nat) : Fld := ⟨0x60104 + i * 0x8000, 31, 0⟩
/-- R362 -/
def ETH_RX_FRAMES (i : Nat) : Fld := ⟨0x60100 + i * 0x8000, 31, 0⟩
/-- R362 -/
def ETH_RX_OVERSIZE (i : Nat) : Fld := ⟨0x60108 + i * 0x8000, 31, 0⟩
/-- R362 -/
def ETH_RX_PAUSE (i : Nat) : Fld := ⟨0x6010C + i * 0x8000, 31, 0⟩
/-- R361 -/
def ETH_STAT_LINK_CHG (i : Nat) : Fld := ⟨0x60004 + i * 0x8000, 4, 4⟩
/-- R349 -/
def ETH_TS_COMP_RX_COMP (i : Nat) : Fld := ⟨0x60050 + i * 0x8000, 15, 0⟩
/-- R349 -/
def ETH_TS_COMP_TX_COMP (i : Nat) : Fld := ⟨0x60050 + i * 0x8000, 31, 16⟩
/-- R362 -/
def ETH_TX_FRAMES (i : Nat) : Fld := ⟨0x60114 + i * 0x8000, 31, 0⟩
/-- R347 -/
def ETH_VLAN_PCP (i : Nat) : Fld := ⟨0x60010 + i * 0x8000, 15, 13⟩
/-- R347 -/
def ETH_VLAN_VID (i : Nat) : Fld := ⟨0x60010 + i * 0x8000, 11, 0⟩
/-- R102 -/
def FE_AGER_EARLY (i : Nat) : Fld := ⟨0x1400B8 + i / 4 * 0x10000 + i % 4 * 0x2000, 31, 0⟩
/-- R102 -/
def FE_CORNERS (i : Nat) : Fld := ⟨0x14009C + i / 4 * 0x10000 + i % 4 * 0x2000, 31, 0⟩
/-- R104 -/
def FE_CORNER_CQ_SHIFT (i : Nat) : Fld := ⟨0x140024 + i / 4 * 0x10000 + i % 4 * 0x2000, 3, 0⟩
/-- R102 -/
def FE_CORNER_EXACT (i : Nat) : Fld := ⟨0x1400A0 + i / 4 * 0x10000 + i % 4 * 0x2000, 31, 0⟩
/-- R104 -/
def FE_CORNER_L16_MAX (i : Nat) : Fld := ⟨0x140024 + i / 4 * 0x10000 + i % 4 * 0x2000, 15, 12⟩
/-- R104 -/
def FE_CORNER_L16_MIN (i : Nat) : Fld := ⟨0x140024 + i / 4 * 0x10000 + i % 4 * 0x2000, 11, 8⟩
/-- R104 -/
def FE_CORNER_L20_MAX (i : Nat) : Fld := ⟨0x140024 + i / 4 * 0x10000 + i % 4 * 0x2000, 28, 24⟩
/-- R104 -/
def FE_CORNER_L20_MIN (i : Nat) : Fld := ⟨0x140024 + i / 4 * 0x10000 + i % 4 * 0x2000, 20, 16⟩
/-- R115 -/
def FE_CTRL_BA_EN (i : Nat) : Fld := ⟨0x140000 + i / 4 * 0x10000 + i % 4 * 0x2000, 2, 2⟩
/-- R115 -/
def FE_CTRL_FLK_EN (i : Nat) : Fld := ⟨0x140000 + i / 4 * 0x10000 + i % 4 * 0x2000, 3, 3⟩
/-- R115 -/
def FE_CTRL_HOT_EN (i : Nat) : Fld := ⟨0x140000 + i / 4 * 0x10000 + i % 4 * 0x2000, 0, 0⟩
/-- R115 -/
def FE_CTRL_LEARN (i : Nat) : Fld := ⟨0x140000 + i / 4 * 0x10000 + i % 4 * 0x2000, 5, 5⟩
/-- R115 -/
def FE_CTRL_REF_EN (i : Nat) : Fld := ⟨0x140000 + i / 4 * 0x10000 + i % 4 * 0x2000, 1, 1⟩
/-- R110 -/
def FE_CURD (i : Nat) : Fld := ⟨0x14002C + i / 4 * 0x10000 + i % 4 * 0x2000, 15, 0⟩
/-- R102 -/
def FE_CURDS (i : Nat) : Fld := ⟨0x1400AC + i / 4 * 0x10000 + i % 4 * 0x2000, 31, 0⟩
/-- R112 -/
def FE_DECAY_DEC_SHIFT (i : Nat) : Fld := ⟨0x140034 + i / 4 * 0x10000 + i % 4 * 0x2000, 3, 0⟩
/-- R112 -/
def FE_DECAY_T0_A (i : Nat) : Nat := 0x140040 + i / 4 * 0x10000 + i % 4 * 0x2000
/-- R116 -/
def FE_D_BANKS0_A (i : Nat) : Nat := 0x148010 + i * 0x10000
/-- R115 -/
def FE_D_DSTAT_CFG_WR (i : Nat) : Fld := ⟨0x148020 + i * 0x10000, 0, 0⟩
/-- R116 -/
def FE_D_PIPE_A (i : Nat) : Nat := 0x148000 + i * 0x10000
/-- R102 -/
def FE_EARLY (i : Nat) : Fld := ⟨0x140098 + i / 4 * 0x10000 + i % 4 * 0x2000, 31, 0⟩
/-- R102 -/
def FE_EVENTS (i : Nat) : Fld := ⟨0x140080 + i / 4 * 0x10000 + i % 4 * 0x2000, 31, 0⟩
/-- R99 -/
def FE_FILT_REFRACT (i : Nat) : Fld := ⟨0x140008 + i / 4 * 0x10000 + i % 4 * 0x2000, 15, 0⟩
/-- R99 -/
def FE_FILT_T_SUPPORT (i : Nat) : Fld := ⟨0x140008 + i / 4 * 0x10000 + i % 4 * 0x2000, 31, 16⟩
/-- R101 -/
def FE_FLK_CFG_LOCK (i : Nat) : Fld := ⟨0x140020 + i / 4 * 0x10000 + i % 4 * 0x2000, 3, 0⟩
/-- R101 -/
def FE_FLK_P_PMAX (i : Nat) : Fld := ⟨0x14001C + i / 4 * 0x10000 + i % 4 * 0x2000, 31, 16⟩
/-- R101 -/
def FE_FLK_P_PMIN (i : Nat) : Fld := ⟨0x14001C + i / 4 * 0x10000 + i % 4 * 0x2000, 15, 0⟩
/-- R102 -/
def FE_FLOW_EXACT (i : Nat) : Fld := ⟨0x1400A8 + i / 4 * 0x10000 + i % 4 * 0x2000, 31, 0⟩
/-- R106 -/
def FE_FLOW_FLOW_MIN (i : Nat) : Fld := ⟨0x140028 + i / 4 * 0x10000 + i % 4 * 0x2000, 20, 16⟩
/-- R106 -/
def FE_FLOW_FLOW_WIN (i : Nat) : Fld := ⟨0x140028 + i / 4 * 0x10000 + i % 4 * 0x2000, 15, 0⟩
/-- R102 -/
def FE_FLOW_VALID (i : Nat) : Fld := ⟨0x1400A4 + i / 4 * 0x10000 + i % 4 * 0x2000, 31, 0⟩
/-- R97 -/
def FE_HOT_BASE_HI_A (i : Nat) : Nat := 0x140014 + i / 4 * 0x10000 + i % 4 * 0x2000
/-- R97 -/
def FE_HOT_BASE_LO_A (i : Nat) : Nat := 0x140010 + i / 4 * 0x10000 + i % 4 * 0x2000
/-- R97 -/
def FE_HOT_CNT_HOT_COUNT (i : Nat) : Fld := ⟨0x140018 + i / 4 * 0x10000 + i % 4 * 0x2000, 12, 0⟩
/-- R97 -/
def FE_HOT_CNT_HOT_MAX (i : Nat) : Fld := ⟨0x140018 + i / 4 * 0x10000 + i % 4 * 0x2000, 28, 16⟩
/-- R98 -/
def FE_HOT_RATE (i : Nat) : Fld := ⟨0x14000C + i / 4 * 0x10000 + i % 4 * 0x2000, 31, 0⟩
/-- R102 -/
def FE_OVF_CURDS (i : Nat) : Fld := ⟨0x1400B0 + i / 4 * 0x10000 + i % 4 * 0x2000, 31, 0⟩
/-- R102 -/
def FE_PATCHES (i : Nat) : Fld := ⟨0x1400B4 + i / 4 * 0x10000 + i % 4 * 0x2000, 31, 0⟩
/-- R115 -/
def FE_STAT_CFG_WR (i : Nat) : Fld := ⟨0x140004 + i / 4 * 0x10000 + i % 4 * 0x2000, 0, 0⟩
/-- R115 -/
def FE_STAT_HOT_OVF (i : Nat) : Fld := ⟨0x140004 + i / 4 * 0x10000 + i % 4 * 0x2000, 4, 4⟩
/-- R115 -/
def FE_STAT_LEARN_DONE (i : Nat) : Fld := ⟨0x140004 + i / 4 * 0x10000 + i % 4 * 0x2000, 3, 3⟩
/-- R102 -/
def FE_STRAGGLERS (i : Nat) : Fld := ⟨0x140094 + i / 4 * 0x10000 + i % 4 * 0x2000, 31, 0⟩
/-- R114 -/
def FE_WARMUP (i : Nat) : Fld := ⟨0x140030 + i / 4 * 0x10000 + i % 4 * 0x2000, 19, 0⟩
/-- R102 -/
def FE_WHEY_BA (i : Nat) : Fld := ⟨0x14008C + i / 4 * 0x10000 + i % 4 * 0x2000, 31, 0⟩
/-- R102 -/
def FE_WHEY_FLK (i : Nat) : Fld := ⟨0x140090 + i / 4 * 0x10000 + i % 4 * 0x2000, 31, 0⟩
/-- R102 -/
def FE_WHEY_HOT (i : Nat) : Fld := ⟨0x140084 + i / 4 * 0x10000 + i % 4 * 0x2000, 31, 0⟩
/-- R102 -/
def FE_WHEY_REF (i : Nat) : Fld := ⟨0x140088 + i / 4 * 0x10000 + i % 4 * 0x2000, 31, 0⟩
/-- R64 -/
def FMAP_CFG_A (i : Nat) : Nat := 0x120000 + i * 0x100
/-- R64 -/
def FMAP_CFG_BSWAP (i : Nat) : Fld := ⟨0x120000 + i * 0x100, 15, 15⟩
/-- R64 -/
def FMAP_CFG_HSHIFT (i : Nat) : Fld := ⟨0x120000 + i * 0x100, 13, 8⟩
/-- R64 -/
def FMAP_CFG_LOW_CARRY (i : Nat) : Fld := ⟨0x120000 + i * 0x100, 14, 14⟩
/-- R64 -/
def FMAP_CFG_TYPE_POS (i : Nat) : Fld := ⟨0x120000 + i * 0x100, 7, 2⟩
/-- R64 -/
def FMAP_CFG_WSIZE (i : Nat) : Fld := ⟨0x120000 + i * 0x100, 1, 0⟩
/-- R85 -/
def FMAP_G_STAT_IN_USE_WR : Fld := ⟨0x120800, 0, 0⟩
/-- R85 -/
def FMAP_G_STAT_LAST_MAP : Fld := ⟨0x120800, 18, 16⟩
/-- R64 -/
def FMAP_UNIT (i : Nat) : Fld := ⟨0x120004 + i * 0x100, 15, 0⟩
/-- R66 -/
def FMAP_WT0_A (i k : Nat) : Nat := 0x120040 + i * 0x100 + k * 0x8
/-- R66 -/
def FMAP_WT1_A (i k : Nat) : Nat := 0x120044 + i * 0x100 + k * 0x8
/-- R253 -/
def FUS_ASSIGNED : Fld := ⟨0x1D0204, 31, 0⟩
/-- R253 -/
def FUS_BEYOND : Fld := ⟨0x1D0238, 31, 0⟩
/-- R253 -/
def FUS_BID_OVF : Fld := ⟨0x1D022C, 31, 0⟩
/-- R253 -/
def FUS_BLOCKS : Fld := ⟨0x1D0220, 31, 0⟩
/-- R253 -/
def FUS_BLOCK_OVF : Fld := ⟨0x1D0224, 31, 0⟩
/-- R244 -/
def FUS_BOUND_L : Fld := ⟨0x1D0018, 31, 0⟩
/-- R244 -/
def FUS_BOUND_R : Fld := ⟨0x1D001C, 31, 0⟩
/-- R249 -/
def FUS_CAL_CFG_MIN_PAIRS : Fld := ⟨0x1D0008, 15, 8⟩
/-- R249 -/
def FUS_CAL_CFG_REF_LINK : Fld := ⟨0x1D0008, 3, 3⟩
/-- R249 -/
def FUS_CAL_CFG_REF_PORT : Fld := ⟨0x1D0008, 7, 4⟩
/-- R253 -/
def FUS_CAL_DEFER : Fld := ⟨0x1D0248, 31, 0⟩
/-- R248 -/
def FUS_CAL_EV : Fld := ⟨0x1D0014, 15, 0⟩
/-- R253 -/
def FUS_CAL_INSTALL : Fld := ⟨0x1D0240, 31, 0⟩
/-- R250 -/
def FUS_CAL_LIM_MAX_STEP : Fld := ⟨0x1D000C, 15, 0⟩
/-- R250 -/
def FUS_CAL_LIM_PAIR_GATE : Fld := ⟨0x1D000C, 31, 16⟩
/-- R251 -/
def FUS_CAL_LOCK : Fld := ⟨0x1D0010, 15, 0⟩
/-- R253 -/
def FUS_CAL_PAIRS : Fld := ⟨0x1D023C, 31, 0⟩
/-- R253 -/
def FUS_CAL_REJECT : Fld := ⟨0x1D0244, 31, 0⟩
/-- R239 -/
def FUS_CD_MAX : Fld := ⟨0x1D0024, 31, 0⟩
/-- R239 -/
def FUS_CD_MIN : Fld := ⟨0x1D0020, 31, 0⟩
/-- R253 -/
def FUS_CONFIRMED : Fld := ⟨0x1D0214, 31, 0⟩
/-- R253 -/
def FUS_CTRL_CAL_EN : Fld := ⟨0x1D0000, 1, 1⟩
/-- R253 -/
def FUS_CTRL_EN : Fld := ⟨0x1D0000, 0, 0⟩
/-- R253 -/
def FUS_CTRL_ENC : Fld := ⟨0x1D0000, 3, 2⟩
/-- R253 -/
def FUS_CTRL_HO_L : Fld := ⟨0x1D0000, 4, 4⟩
/-- R253 -/
def FUS_CTRL_HO_R : Fld := ⟨0x1D0000, 5, 5⟩
/-- R253 -/
def FUS_CTRL_PKG_ID : Fld := ⟨0x1D0000, 15, 8⟩
/-- R253 -/
def FUS_CURDS_IN : Fld := ⟨0x1D0200, 31, 0⟩
/-- R253 -/
def FUS_EXT_IN : Fld := ⟨0x1D0258, 31, 0⟩
/-- R231 -/
def FUS_CAL_CFG_CAL_INTERVAL : Fld := ⟨0x1D0008, 31, 16⟩
/-- R253 -/
def FUS_FX_PEN_A (k : Nat) : Nat := 0x1D1800 + k * 0x4
/-- R234 -/
def FUS_F_COST_MISS_COST (i : Nat) : Fld := ⟨0x1D1008 + i * 0x100, 15, 0⟩
/-- R234 -/
def FUS_F_COST_SPAWN_COST (i : Nat) : Fld := ⟨0x1D1008 + i * 0x100, 31, 16⟩
/-- R239 -/
def FUS_F_EXIT (i : Nat) : Fld := ⟨0x1D1010 + i * 0x100, 31, 0⟩
/-- R223 -/
def FUS_F_EXT (i : Nat) : Fld := ⟨0x1D1028 + i * 0x100, 15, 0⟩
/-- R236 -/
def FUS_F_FILT_BETA (i : Nat) : Fld := ⟨0x1D1014 + i * 0x100, 31, 24⟩
/-- R236 -/
def FUS_F_FILT_CLASS_MIN (i : Nat) : Fld := ⟨0x1D1014 + i * 0x100, 15, 0⟩
/-- R236 -/
def FUS_F_FILT_HSH (i : Nat) : Fld := ⟨0x1D1014 + i * 0x100, 19, 16⟩
/-- R230 -/
def FUS_F_GATE_BID_MAX (i : Nat) : Fld := ⟨0x1D1004 + i * 0x100, 15, 0⟩
/-- R230 -/
def FUS_F_GATE_GATE (i : Nat) : Fld := ⟨0x1D1004 + i * 0x100, 31, 16⟩
/-- R239 -/
def FUS_F_LIFE_COAST_MAX (i : Nat) : Fld := ⟨0x1D100C + i * 0x100, 15, 0⟩
/-- R239 -/
def FUS_F_LIFE_CONFIRM_N (i : Nat) : Fld := ⟨0x1D100C + i * 0x100, 31, 24⟩
/-- R239 -/
def FUS_F_LIFE_TENT_MISS (i : Nat) : Fld := ⟨0x1D100C + i * 0x100, 23, 16⟩
/-- R226 -/
def FUS_F_PART_SLOT_COUNT (i : Nat) : Fld := ⟨0x1D1000 + i * 0x100, 31, 16⟩
/-- R226 -/
def FUS_F_PART_SLOT_FIRST (i : Nat) : Fld := ⟨0x1D1000 + i * 0x100, 15, 0⟩
/-- R231 -/
def FUS_F_PEN_A (i k : Nat) : Nat := 0x1D1040 + i * 0x100 + k * 0x4
/-- R238 -/
def FUS_F_PVINIT (i : Nat) : Fld := ⟨0x1D1024 + i * 0x100, 31, 0⟩
/-- R236 -/
def FUS_F_PVMIN (i : Nat) : Fld := ⟨0x1D1020 + i * 0x100, 31, 0⟩
/-- R229 -/
def FUS_F_QP (i : Nat) : Fld := ⟨0x1D1018 + i * 0x100, 31, 0⟩
/-- R229 -/
def FUS_F_QV (i : Nat) : Fld := ⟨0x1D101C + i * 0x100, 31, 0⟩
/-- R253 -/
def FUS_GATE_TIGHT : Fld := ⟨0x1D0228, 31, 0⟩
/-- R253 -/
def FUS_HO_DUP : Fld := ⟨0x1D0250, 31, 0⟩
/-- R244 -/
def FUS_HO_HO_HYST : Fld := ⟨0x1D0028, 15, 0⟩
/-- R244 -/
def FUS_HO_HO_TMO : Fld := ⟨0x1D0028, 31, 16⟩
/-- R253 -/
def FUS_HO_NAK : Fld := ⟨0x1D0254, 31, 0⟩
/-- R253 -/
def FUS_HO_OUT : Fld := ⟨0x1D024C, 31, 0⟩
/-- R253 -/
def FUS_KINEMATIC : Fld := ⟨0x1D021C, 31, 0⟩
/-- R253 -/
def FUS_NO_CAL : Fld := ⟨0x1D0234, 31, 0⟩
/-- R253 -/
def FUS_NO_MD : Fld := ⟨0x1D0230, 31, 0⟩
/-- R248 -/
def FUS_OVL_CDMAX (k : Nat) : Fld := ⟨0x1D0108 + k * 0x10, 31, 0⟩
/-- R248 -/
def FUS_OVL_CDMIN (k : Nat) : Fld := ⟨0x1D0104 + k * 0x10, 31, 0⟩
/-- R248 -/
def FUS_OVL_CFG_LINK (k : Nat) : Fld := ⟨0x1D0100 + k * 0x10, 30, 30⟩
/-- R248 -/
def FUS_OVL_CFG_LNK (k : Nat) : Fld := ⟨0x1D0100 + k * 0x10, 9, 8⟩
/-- R248 -/
def FUS_OVL_CFG_PORT_A (k : Nat) : Fld := ⟨0x1D0100 + k * 0x10, 3, 0⟩
/-- R248 -/
def FUS_OVL_CFG_PORT_B (k : Nat) : Fld := ⟨0x1D0100 + k * 0x10, 7, 4⟩
/-- R248 -/
def FUS_OVL_CFG_VALID (k : Nat) : Fld := ⟨0x1D0100 + k * 0x10, 31, 31⟩
/-- R242 -/
def FUS_P_FIELD (i k : Nat) : Fld := ⟨0x1D4004 + i * 0x100 + k * 0x4, 31, 0⟩
/-- R217 -/
def FUS_P_HVER_LOCKED (i : Nat) : Fld := ⟨0x1D4024 + i * 0x100, 16, 16⟩
/-- R217 -/
def FUS_P_HVER_SRC (i : Nat) : Fld := ⟨0x1D4024 + i * 0x100, 17, 17⟩
/-- R217 -/
def FUS_P_HVER_VERSION (i : Nat) : Fld := ⟨0x1D4024 + i * 0x100, 15, 0⟩
/-- R217 -/
def FUS_P_H_A (i k : Nat) : Nat := 0x1D4040 + i * 0x100 + k * 0x4
/-- R230 -/
def FUS_P_NOISE (i : Nat) : Fld := ⟨0x1D4000 + i * 0x100, 31, 0⟩
/-- R222 -/
def FUS_P_VBR (i : Nat) : Fld := ⟨0x1D4020 + i * 0x100, 31, 0⟩
/-- R222 -/
def FUS_P_VIB_AX_EN (i : Nat) : Fld := ⟨0x1D4014 + i * 0x100, 19, 18⟩
/-- R222 -/
def FUS_P_VIB_CH_CD (i : Nat) : Fld := ⟨0x1D4014 + i * 0x100, 22, 20⟩
/-- R222 -/
def FUS_P_VIB_CH_MD (i : Nat) : Fld := ⟨0x1D4014 + i * 0x100, 26, 24⟩
/-- R222 -/
def FUS_P_VIB_EN (i : Nat) : Fld := ⟨0x1D4014 + i * 0x100, 31, 31⟩
/-- R222 -/
def FUS_P_VIB_IMU (i : Nat) : Fld := ⟨0x1D4014 + i * 0x100, 29, 28⟩
/-- R222 -/
def FUS_P_VIB_KIND_CD (i : Nat) : Fld := ⟨0x1D4014 + i * 0x100, 23, 23⟩
/-- R222 -/
def FUS_P_VIB_KIND_MD (i : Nat) : Fld := ⟨0x1D4014 + i * 0x100, 27, 27⟩
/-- R222 -/
def FUS_P_VIB_LK (i : Nat) : Fld := ⟨0x1D4014 + i * 0x100, 4, 0⟩
/-- R222 -/
def FUS_P_VSCD (i : Nat) : Fld := ⟨0x1D401C + i * 0x100, 31, 0⟩
/-- R222 -/
def FUS_P_VSMD (i : Nat) : Fld := ⟨0x1D4018 + i * 0x100, 31, 0⟩
/-- R253 -/
def FUS_RETIRED : Fld := ⟨0x1D0218, 31, 0⟩
/-- R253 -/
def FUS_SPAWNED : Fld := ⟨0x1D0208, 31, 0⟩
/-- R253 -/
def FUS_SPAWN_FULL : Fld := ⟨0x1D020C, 31, 0⟩
/-- R253 -/
def FUS_STAT_CAL_DEFER : Fld := ⟨0x1D0004, 2, 2⟩
/-- R253 -/
def FUS_STAT_NO_MD : Fld := ⟨0x1D0004, 3, 3⟩
/-- R253 -/
def FUS_TENT_DROP : Fld := ⟨0x1D0210, 31, 0⟩
/-- R253 -/
def FUS_VIB_STALE : Fld := ⟨0x1D025C, 31, 0⟩
/-- R423 -/
def GLB_BOOT_STAT : Fld := ⟨0x30, 1, 0⟩
/-- R436 -/
def GLB_FPT_DST_HI : Fld := ⟨0xC, 31, 0⟩
/-- R436 -/
def GLB_FPT_DST_LO_ADDR_LO : Fld := ⟨0x8, 31, 12⟩
/-- R436 -/
def GLB_FPT_DST_LO_EN : Fld := ⟨0x8, 0, 0⟩
/-- R436 -/
def GLB_STAT_FW_FALLBACK : Fld := ⟨0x4, 18, 18⟩
/-- R389 -/
def HIF_CMD_FETCHED : Fld := ⟨0x80100, 31, 0⟩
/-- R389 -/
def HIF_CMD_REJECTED : Fld := ⟨0x80104, 31, 0⟩
/-- R389 -/
def HIF_DB_ERRORS : Fld := ⟨0x80108, 31, 0⟩
/-- R28 -/
def HIF_ERR_ADDR_OFFSET : Fld := ⟨0x80004, 23, 0⟩
/-- R389 -/
def HIF_ERR_BLOCK : Fld := ⟨0x80000, 23, 12⟩
/-- R389 -/
def HIF_ERR_OFF_ACCESS : Fld := ⟨0x80000, 31, 31⟩
/-- R389 -/
def HIF_ERR_UNMAPPED : Fld := ⟨0x80000, 30, 30⟩
/-- R389 -/
def HIF_FLR_COUNT : Fld := ⟨0x8010C, 31, 0⟩
/-- R376 -/
def HIF_F_CSEQ_HI_A (i : Nat) : Nat := fnPage i + 0x14
/-- R376 -/
def HIF_F_CSEQ_LO_A (i : Nat) : Nat := fnPage i + 0x10
/-- R374 -/
def HIF_F_CTRL_SHADOW_EN (i : Nat) : Fld := ⟨fnPage i + 0x0, 0, 0⟩
/-- R375 -/
def HIF_F_MOD_A (i k : Nat) : Nat := fnPage i + 0x200 + k * 0x4
/-- R375 -/
def HIF_F_MOD_COUNT (i k : Nat) : Fld := ⟨fnPage i + 0x200 + k * 0x4, 31, 16⟩
/-- R375 -/
def HIF_F_MOD_TIMER (i k : Nat) : Fld := ⟨fnPage i + 0x200 + k * 0x4, 15, 0⟩
/-- R370 -/
def HIF_F_RING_BASE_HI_A (i k : Nat) : Nat := fnPage i + 0x104 + k * 0x20
/-- R370 -/
def HIF_F_RING_BASE_LO_A (i k : Nat) : Nat := fnPage i + 0x100 + k * 0x20
/-- R370 -/
def HIF_F_RING_CFG_EN (i k : Nat) : Fld := ⟨fnPage i + 0x108 + k * 0x20, 31, 31⟩
/-- R370 -/
def HIF_F_RING_CFG_KEEP (i k : Nat) : Fld := ⟨fnPage i + 0x108 + k * 0x20, 30, 30⟩
/-- R370 -/
def HIF_F_RING_CFG_SZ (i k : Nat) : Fld := ⟨fnPage i + 0x108 + k * 0x20, 4, 0⟩
/-- R386 -/
def HIF_F_STAT_CFG_ERR (i : Nat) : Fld := ⟨fnPage i + 0x4, 0, 0⟩
/-- R386 -/
def HIF_F_STAT_DB_ERR (i : Nat) : Fld := ⟨fnPage i + 0x4, 1, 1⟩
/-- R386 -/
def HIF_F_STAT_UNMAPPED (i : Nat) : Fld := ⟨fnPage i + 0x4, 8, 8⟩
/-- R58 -/
def ING_BAD_MAP (i : Nat) : Fld := ⟨0x1000B8 + i * 0x1000, 31, 0⟩
/-- R58 -/
def ING_CRC_BAD (i : Nat) : Fld := ⟨0x10008C + i * 0x1000, 31, 0⟩
/-- R85 -/
def ING_CTRL_EN (i : Nat) : Fld := ⟨0x100000 + i * 0x1000, 0, 0⟩
/-- R85 -/
def ING_CTRL_FC_EN (i : Nat) : Fld := ⟨0x100000 + i * 0x1000, 3, 3⟩
/-- R85 -/
def ING_CTRL_SRST (i : Nat) : Fld := ⟨0x100000 + i * 0x1000, 4, 4⟩
/-- R85 -/
def ING_CTRL_SYNC_EN (i : Nat) : Fld := ⟨0x100000 + i * 0x1000, 2, 2⟩
/-- R58 -/
def ING_DROP_NORM (i : Nat) : Fld := ⟨0x1000A8 + i * 0x1000, 31, 0⟩
/-- R58 -/
def ING_DROP_ROI (i : Nat) : Fld := ⟨0x1000A4 + i * 0x1000, 31, 0⟩
/-- R58 -/
def ING_DT_DT_EN (i : Nat) : Fld := ⟨0x100010 + i * 0x1000, 7, 0⟩
/-- R58 -/
def ING_DT_OFF (i : Nat) : Fld := ⟨0x100094 + i * 0x1000, 31, 0⟩
/-- R58 -/
def ING_DT_RAW8_EN (i : Nat) : Fld := ⟨0x100010 + i * 0x1000, 8, 8⟩
/-- R58 -/
def ING_EVENTS (i : Nat) : Fld := ⟨0x1000D4 + i * 0x1000, 31, 0⟩
/-- R74 -/
def ING_FIT_RATE_A (i : Nat) : Nat := 0x100040 + i * 0x1000
/-- R74 -/
def ING_FIT_SA_HI_A (i : Nat) : Nat := 0x100048 + i * 0x1000
/-- R74 -/
def ING_FIT_SA_LO_A (i : Nat) : Nat := 0x100044 + i * 0x1000
/-- R74 -/
def ING_FIT_UA_HI_A (i : Nat) : Nat := 0x100050 + i * 0x1000
/-- R74 -/
def ING_FIT_UA_LO_A (i : Nat) : Nat := 0x10004C + i * 0x1000
/-- R58 -/
def ING_FLUSHED (i : Nat) : Fld := ⟨0x1000AC + i * 0x1000, 31, 0⟩
/-- R78 -/
def ING_GEOM_HEIGHT (i : Nat) : Fld := ⟨0x10001C + i * 0x1000, 28, 16⟩
/-- R78 -/
def ING_GEOM_WIDTH (i : Nat) : Fld := ⟨0x10001C + i * 0x1000, 12, 0⟩
/-- R58 -/
def ING_HDR_BAD (i : Nat) : Fld := ⟨0x100088 + i * 0x1000, 31, 0⟩
/-- R58 -/
def ING_HDR_CORR (i : Nat) : Fld := ⟨0x100084 + i * 0x1000, 31, 0⟩
/-- R58 -/
def ING_OOR (i : Nat) : Fld := ⟨0x1000B4 + i * 0x1000, 31, 0⟩
/-- R58 -/
def ING_PHY_LANES (i : Nat) : Fld := ⟨0x10000C + i * 0x1000, 2, 0⟩
/-- R58 -/
def ING_PHY_VCX_EN (i : Nat) : Fld := ⟨0x10000C + i * 0x1000, 4, 4⟩
/-- R58 -/
def ING_RAW8 (i : Nat) : Fld := ⟨0x1000A0 + i * 0x1000, 31, 0⟩
/-- R59 -/
def ING_RAW_A (i k : Nat) : Nat := 0x100200 + i * 0x1000 + k * 0x4
/-- R59 -/
def ING_RAW_LEN (i : Nat) : Fld := ⟨0x100240 + i * 0x1000, 15, 0⟩
/-- R78 -/
def ING_ROI_A (i k : Nat) : Nat := 0x100100 + i * 0x1000 + k * 0x4
/-- R58 -/
def ING_RX_OVF (i : Nat) : Fld := ⟨0x100090 + i * 0x1000, 31, 0⟩
/-- R58 -/
def ING_RX_PKTS (i : Nat) : Fld := ⟨0x100080 + i * 0x1000, 31, 0⟩
/-- R62 -/
def ING_SCI_BUF_A (i k : Nat) : Nat := 0x100320 + i * 0x1000 + k * 0x4
/-- R63 -/
def ING_SCI_CFG_OWNER (i : Nat) : Fld := ⟨0x100300 + i * 0x1000, 8, 8⟩
/-- R62 -/
def ING_SCI_CFG_MODE (i : Nat) : Fld := ⟨0x100300 + i * 0x1000, 2, 0⟩
/-- R62 -/
def ING_SCI_CMD_ADDR (i : Nat) : Fld := ⟨0x100304 + i * 0x1000, 22, 16⟩
/-- R62 -/
def ING_SCI_CMD_GO (i : Nat) : Fld := ⟨0x100304 + i * 0x1000, 31, 31⟩
/-- R62 -/
def ING_SCI_CMD_RLEN (i : Nat) : Fld := ⟨0x100304 + i * 0x1000, 5, 0⟩
/-- R62 -/
def ING_SCI_CMD_WLEN (i : Nat) : Fld := ⟨0x100304 + i * 0x1000, 13, 8⟩
/-- R62 -/
def ING_SCI_STAT_CMD_LOST (i : Nat) : Fld := ⟨0x100308 + i * 0x1000, 3, 3⟩
/-- R62 -/
def ING_SCI_STAT_OWN_ERR (i : Nat) : Fld := ⟨0x100308 + i * 0x1000, 4, 4⟩
/-- R62 -/
def ING_SCI_STAT_RESULT (i : Nat) : Fld := ⟨0x100308 + i * 0x1000, 2, 0⟩
/-- R58 -/
def ING_SHORT (i : Nat) : Fld := ⟨0x10009C + i * 0x1000, 31, 0⟩
/-- R58 -/
def ING_SKIP (i : Nat) : Fld := ⟨0x1000BC + i * 0x1000, 31, 0⟩
/-- R85 -/
def ING_STAT_CFG_WR (i : Nat) : Fld := ⟨0x100004 + i * 0x1000, 6, 6⟩
/-- R85 -/
def ING_STAT_EN_ERR (i : Nat) : Fld := ⟨0x100004 + i * 0x1000, 7, 7⟩
/-- R58 -/
def ING_SYNC_BAD (i : Nat) : Fld := ⟨0x1000C8 + i * 0x1000, 31, 0⟩
/-- R71 -/
def ING_SYNC_CFG_FIT_HOLD (i : Nat) : Fld := ⟨0x10002C + i * 0x1000, 23, 16⟩
/-- R71 -/
def ING_SYNC_CFG_RATE_SHIFT (i : Nat) : Fld := ⟨0x10002C + i * 0x1000, 15, 12⟩
/-- R71 -/
def ING_SYNC_CFG_SYNC_CH (i : Nat) : Fld := ⟨0x10002C + i * 0x1000, 11, 8⟩
/-- R71 -/
def ING_SYNC_CFG_SYNC_WIDTH (i : Nat) : Fld := ⟨0x10002C + i * 0x1000, 31, 24⟩
/-- R58 -/
def ING_SYNC_LOST (i : Nat) : Fld := ⟨0x1000CC + i * 0x1000, 31, 0⟩
/-- R71 -/
def ING_SYNC_PER (i : Nat) : Fld := ⟨0x100028 + i * 0x1000, 19, 0⟩
/-- R71 -/
def ING_SYNC_PHASE (i : Nat) : Fld := ⟨0x100030 + i * 0x1000, 29, 0⟩
/-- R58 -/
def ING_SYNC_UNPAIRED (i : Nat) : Fld := ⟨0x1000C4 + i * 0x1000, 31, 0⟩
/-- R71 -/
def ING_SYNC_WIN_PAIR_WIN (i : Nat) : Fld := ⟨0x100034 + i * 0x1000, 15, 0⟩
/-- R71 -/
def ING_SYNC_WIN_SYNC_COMP (i : Nat) : Fld := ⟨0x100034 + i * 0x1000, 31, 16⟩
/-- R58 -/
def ING_TAIL (i : Nat) : Fld := ⟨0x1000C0 + i * 0x1000, 31, 0⟩
/-- R84 -/
def ING_TMO_ARRIVAL_COMP (i : Nat) : Fld := ⟨0x100024 + i * 0x1000, 31, 16⟩
/-- R84 -/
def ING_TMO_PKT_TIMEOUT (i : Nat) : Fld := ⟨0x100024 + i * 0x1000, 15, 0⟩
/-- R58 -/
def ING_TRIG_OTHER (i : Nat) : Fld := ⟨0x1000D0 + i * 0x1000, 31, 0⟩
/-- R58 -/
def ING_TRUNC (i : Nat) : Fld := ⟨0x1000B0 + i * 0x1000, 31, 0⟩
/-- R64 -/
def ING_VCMAP_A (i k : Nat) : Nat := 0x100014 + i * 0x1000 + k * 0x4
/-- R58 -/
def ING_VC_OFF (i : Nat) : Fld := ⟨0x100098 + i * 0x1000, 31, 0⟩
/-- R82 -/
def ING_WM_HWM (i : Nat) : Fld := ⟨0x100020 + i * 0x1000, 31, 16⟩
/-- R82 -/
def ING_WM_LWM (i : Nat) : Fld := ⟨0x100020 + i * 0x1000, 15, 0⟩
/-- R431 -/
def IOC_CFG_AUTO_REL : Fld := ⟨0xB0008, 12, 8⟩
/-- R431 -/
def IOC_CFG_TRIG_SAFE : Fld := ⟨0xB0008, 0, 0⟩
/-- R431 -/
def IOC_STAT_TRUNC_MASK : Fld := ⟨0xB000C, 15, 8⟩
/-- R431 -/
def IOC_STAT_TRUNC_PULSE : Fld := ⟨0xB000C, 0, 0⟩
/-- R299 -/
def JNL_ADMITTED : Fld := ⟨0x1F0200, 31, 0⟩
/-- R299 -/
def JNL_COMMITS : Fld := ⟨0x1F0214, 31, 0⟩
/-- R275 -/
def JNL_COMMIT_MAX_AGE : Fld := ⟨0x1F0054, 15, 0⟩
/-- R299 -/
def JNL_COMMIT_RETRY : Fld := ⟨0x1F0218, 31, 0⟩
/-- R299 -/
def JNL_CTRL_HU_EN : Fld := ⟨0x1F0000, 2, 2⟩
/-- R299 -/
def JNL_CTRL_MIRROR_EN : Fld := ⟨0x1F0000, 1, 1⟩
/-- R299 -/
def JNL_CTRL_STORE_EN : Fld := ⟨0x1F0000, 0, 0⟩
/-- R259 -/
def JNL_CURD_CAP : Fld := ⟨0x1F0060, 15, 0⟩
/-- R299 -/
def JNL_CURD_SKIP : Fld := ⟨0x1F0224, 31, 0⟩
/-- R271 -/
def JNL_F_CFG_BANK (i : Nat) : Fld := ⟨jnlPage i + 0x0, 0, 0⟩
/-- R271 -/
def JNL_F_CFG_CURD_PORTS (i : Nat) : Fld := ⟨jnlPage i + 0x0, 31, 16⟩
/-- R255 -/
def JNL_F_CLASS_CLASS_1 (i : Nat) : Fld := ⟨jnlPage i + 0x4, 1, 0⟩
/-- R255 -/
def JNL_F_CLASS_CLASS_12 (i : Nat) : Fld := ⟨jnlPage i + 0x4, 23, 22⟩
/-- R255 -/
def JNL_F_CLASS_CLASS_2 (i : Nat) : Fld := ⟨jnlPage i + 0x4, 3, 2⟩
/-- R255 -/
def JNL_F_CLASS_CLASS_3 (i : Nat) : Fld := ⟨jnlPage i + 0x4, 5, 4⟩
/-- R255 -/
def JNL_F_CLASS_CLASS_8 (i : Nat) : Fld := ⟨jnlPage i + 0x4, 15, 14⟩
/-- R255 -/
def JNL_F_CLASS_CLASS_9 (i : Nat) : Fld := ⟨jnlPage i + 0x4, 17, 16⟩
/-- R299 -/
def JNL_F_RSN_A (i k : Nat) : Nat := jnlPage i + 0x8 + k * 0x4
/-- R262 -/
def JNL_GAP_MAX_TICKS : Fld := ⟨0x1F005C, 31, 16⟩
/-- R276 -/
def JNL_HU_C : Fld := ⟨0x1F0010, 31, 0⟩
/-- R276 -/
def JNL_HU_C_C : Fld := ⟨0x1F0010, 31, 0⟩
/-- R276 -/
def JNL_HU_DIV : Fld := ⟨0x1F0018, 31, 0⟩
/-- R276 -/
def JNL_HU_E : Fld := ⟨0x1F0044, 31, 0⟩
/-- R277 -/
def JNL_HU_ECFIX_E : Fld := ⟨0x1F001C, 31, 0⟩
/-- R277 -/
def JNL_HU_ECKB_E : Fld := ⟨0x1F0020, 31, 0⟩
/-- R276 -/
def JNL_HU_E_E : Fld := ⟨0x1F0044, 31, 0⟩
/-- R277 -/
def JNL_HU_MARGIN_MARGIN : Fld := ⟨0x1F0030, 15, 0⟩
/-- R277 -/
def JNL_HU_P0_P : Fld := ⟨0x1F002C, 31, 0⟩
/-- R278 -/
def JNL_HU_RESKEEP_R : Fld := ⟨0x1F0034, 31, 0⟩
/-- R278 -/
def JNL_HU_RESP2_R : Fld := ⟨0x1F0038, 31, 0⟩
/-- R278 -/
def JNL_HU_RESP3_R : Fld := ⟨0x1F003C, 31, 0⟩
/-- R277 -/
def JNL_HU_TCFIX_T : Fld := ⟨0x1F0024, 31, 0⟩
/-- R277 -/
def JNL_HU_TCKB_T : Fld := ⟨0x1F0028, 31, 0⟩
/-- R276 -/
def JNL_HU_V : Fld := ⟨0x1F0040, 31, 0⟩
/-- R276 -/
def JNL_HU_VMIN : Fld := ⟨0x1F0014, 31, 0⟩
/-- R280 -/
def JNL_PF : Fld := ⟨0x1F0050, 31, 16⟩
/-- R299 -/
def JNL_PF_COUNT : Fld := ⟨0x1F0228, 31, 0⟩
/-- R299 -/
def JNL_RECONCILED : Fld := ⟨0x1F0220, 31, 0⟩
/-- R299 -/
def JNL_MIRROR_ERR : Fld := ⟨0x1F021C, 31, 0⟩
def JNL_REFUSED_P0 : Fld := ⟨0x1F0204, 31, 0⟩
/-- R299 -/
def JNL_REFUSED_P1 : Fld := ⟨0x1F0208, 31, 0⟩
/-- R299 -/
def JNL_REFUSED_P2 : Fld := ⟨0x1F020C, 31, 0⟩
/-- R299 -/
def JNL_REFUSED_P3 : Fld := ⟨0x1F0210, 31, 0⟩
/-- R299 -/
def JNL_SLOT_FREED_EARLY : Fld := ⟨0x1F022C, 31, 0⟩
/-- R299 -/
def JNL_STAT_FINAL_DONE : Fld := ⟨0x1F0004, 6, 6⟩
/-- R401 -/
def LNK_ASYM (i : Nat) : Fld := ⟨0x240014 + i * 0x4000, 31, 0⟩
/-- R411 -/
def LNK_CRC_BAD (i : Nat) : Fld := ⟨0x240108 + i * 0x4000, 31, 0⟩
/-- R411 -/
def LNK_CREDIT_STALL (i : Nat) : Fld := ⟨0x24011C + i * 0x4000, 31, 0⟩
/-- R393 -/
def LNK_CTRL_EN (i : Nat) : Fld := ⟨0x240000 + i * 0x4000, 0, 0⟩
/-- R393 -/
def LNK_CTRL_LEVEL_MAX (i : Nat) : Fld := ⟨0x240000 + i * 0x4000, 7, 4⟩
/-- R411 -/
def LNK_CURD_LATE (i : Nat) : Fld := ⟨0x240148 + i * 0x4000, 31, 0⟩
/-- R411 -/
def LNK_CURD_RX (i : Nat) : Fld := ⟨0x240144 + i * 0x4000, 31, 0⟩
/-- R411 -/
def LNK_CURD_TX (i : Nat) : Fld := ⟨0x240140 + i * 0x4000, 31, 0⟩
/-- R411 -/
def LNK_DELAY_A (i : Nat) : Nat := 0x240020 + i * 0x4000
/-- R404 -/
def LNK_FMAP_A (i : Nat) : Nat := 0x240024 + i * 0x4000
/-- R411 -/
def LNK_FRAMES_RX (i : Nat) : Fld := ⟨0x240104 + i * 0x4000, 31, 0⟩
/-- R411 -/
def LNK_FRAMES_TX (i : Nat) : Fld := ⟨0x240100 + i * 0x4000, 31, 0⟩
/-- R411 -/
def LNK_HELD (i : Nat) : Fld := ⟨0x24013C + i * 0x4000, 31, 0⟩
/-- R411 -/
def LNK_HO_LATE (i : Nat) : Fld := ⟨0x240138 + i * 0x4000, 31, 0⟩
/-- R411 -/
def LNK_HO_OFFER_RX (i : Nat) : Fld := ⟨0x240134 + i * 0x4000, 31, 0⟩
/-- R411 -/
def LNK_HO_OFFER_TX (i : Nat) : Fld := ⟨0x240130 + i * 0x4000, 31, 0⟩
/-- R411 -/
def LNK_MSG_BAD (i : Nat) : Fld := ⟨0x240128 + i * 0x4000, 31, 0⟩
/-- R411 -/
def LNK_MSG_FMT (i : Nat) : Fld := ⟨0x24012C + i * 0x4000, 31, 0⟩
/-- R411 -/
def LNK_NAK_TX (i : Nat) : Fld := ⟨0x240110 + i * 0x4000, 31, 0⟩
/-- R411 -/
def LNK_OFS_HI_A (i : Nat) : Nat := 0x24001C + i * 0x4000
/-- R411 -/
def LNK_OFS_LO_A (i : Nat) : Nat := 0x240018 + i * 0x4000
/-- R411 -/
def LNK_REPLAYS (i : Nat) : Fld := ⟨0x240114 + i * 0x4000, 31, 0⟩
/-- R396 -/
def LNK_REPLAY_LINK_TMO (i : Nat) : Fld := ⟨0x24000C + i * 0x4000, 31, 16⟩
/-- R396 -/
def LNK_REPLAY_REPLAY_MAX (i : Nat) : Fld := ⟨0x24000C + i * 0x4000, 15, 8⟩
/-- R396 -/
def LNK_REPLAY_REPLAY_TMO (i : Nat) : Fld := ⟨0x24000C + i * 0x4000, 7, 0⟩
/-- R411 -/
def LNK_RETRAINS (i : Nat) : Fld := ⟨0x240118 + i * 0x4000, 31, 0⟩
/-- R411 -/
def LNK_SEQ_BAD (i : Nat) : Fld := ⟨0x24010C + i * 0x4000, 31, 0⟩
/-- R402 -/
def LNK_SKEW_LINK_WAIT (i : Nat) : Fld := ⟨0x240008 + i * 0x4000, 31, 16⟩
/-- R402 -/
def LNK_SKEW_SKEW_GUARD (i : Nat) : Fld := ⟨0x240008 + i * 0x4000, 15, 0⟩
/-- R411 -/
def LNK_STAT_CHG (i : Nat) : Fld := ⟨0x240004 + i * 0x4000, 1, 1⟩
/-- R411 -/
def LNK_STAT_LEVEL_ERR (i : Nat) : Fld := ⟨0x240004 + i * 0x4000, 2, 2⟩
/-- R400 -/
def LNK_TS_COMP_RX_COMP (i : Nat) : Fld := ⟨0x240010 + i * 0x4000, 15, 0⟩
/-- R400 -/
def LNK_TS_COMP_TX_COMP (i : Nat) : Fld := ⟨0x240010 + i * 0x4000, 31, 16⟩
/-- R411 -/
def LNK_TT_BAD (i : Nat) : Fld := ⟨0x240124 + i * 0x4000, 31, 0⟩
/-- R411 -/
def LNK_TT_RX (i : Nat) : Fld := ⟨0x240120 + i * 0x4000, 31, 0⟩
/-- R463 -/
def MEM_CE (i : Nat) : Fld := ⟨0x200080 + i * 0x10000, 31, 0⟩
/-- R448 -/
def MEM_DSTAT_CFG_WR (i : Nat) : Fld := ⟨0x200040 + i * 0x10000, 0, 0⟩
/-- R448 -/
def MEM_REG_ECC (i k : Nat) : Fld := ⟨0x200000 + i * 0x10000 + k * 0x4, 0, 0⟩
/-- R448 -/
def MEM_REG_INTLV (i k : Nat) : Fld := ⟨0x200000 + i * 0x10000 + k * 0x4, 1, 1⟩
/-- R449 -/
def MEM_SCRUB_HOURS (i : Nat) : Fld := ⟨0x20004C + i * 0x10000, 7, 0⟩
/-- R463 -/
def MEM_SC_HIT (i : Nat) : Fld := ⟨0x200088 + i * 0x10000, 31, 0⟩
/-- R463 -/
def MEM_SC_MISS (i : Nat) : Fld := ⟨0x20008C + i * 0x10000, 31, 0⟩
/-- R463 -/
def MEM_UE (i : Nat) : Fld := ⟨0x200084 + i * 0x10000, 31, 0⟩
/-- R449 -/
def MEM_UE_ADDR_HI_A (i : Nat) : Nat := 0x200048 + i * 0x10000
/-- R449 -/
def MEM_UE_ADDR_LO (i : Nat) : Fld := ⟨0x200044 + i * 0x10000, 31, 0⟩
/-- R449 -/
def MEM_UE_ADDR_LO_A (i : Nat) : Nat := 0x200044 + i * 0x10000
/-- R390 -/
def MGT_MB_BUSY : Fld := ⟨0xA0204, 31, 0⟩
/-- R390 -/
def MGT_MB_DONE : Fld := ⟨0xA0200, 31, 0⟩
/-- R390 -/
def MGT_MB_REQ_A (k : Nat) : Nat := 0xA0100 + k * 0x4
/-- R390 -/
def MGT_MB_RES_RESULT : Fld := ⟨0xA0044, 7, 0⟩
/-- R197 -/
def MOT_ENC_COMP (i : Nat) : Fld := ⟨0x1C0044 + i * 0x100, 15, 0⟩
/-- R203 -/
def MOT_ENC_CPM (i : Nat) : Fld := ⟨0x1C0018 + i * 0x100, 31, 0⟩
/-- R203 -/
def MOT_ENC_CTRL_EN (i : Nat) : Fld := ⟨0x1C0000 + i * 0x100, 0, 0⟩
/-- R203 -/
def MOT_ENC_CTRL_FILT (i : Nat) : Fld := ⟨0x1C0000 + i * 0x100, 11, 10⟩
/-- R200 -/
def MOT_ENC_CTRL_IDX_POL (i : Nat) : Fld := ⟨0x1C0000 + i * 0x100, 9, 9⟩
/-- R203 -/
def MOT_ENC_CTRL_MD_NEG (i : Nat) : Fld := ⟨0x1C0000 + i * 0x100, 3, 3⟩
/-- R203 -/
def MOT_ENC_CTRL_STALL (i : Nat) : Fld := ⟨0x1C0000 + i * 0x100, 31, 16⟩
/-- R203 -/
def MOT_ENC_CTRL_SWAP (i : Nat) : Fld := ⟨0x1C0000 + i * 0x100, 2, 2⟩
/-- R203 -/
def MOT_ENC_CTRL_WAKE_EN (i : Nat) : Fld := ⟨0x1C0000 + i * 0x100, 8, 8⟩
/-- R199 -/
def MOT_ENC_EDGE_HI_A (i : Nat) : Nat := 0x1C0014 + i * 0x100
/-- R199 -/
def MOT_ENC_EDGE_LO_A (i : Nat) : Nat := 0x1C0010 + i * 0x100
/-- R200 -/
def MOT_ENC_HIST_MISS (i : Nat) : Fld := ⟨0x1C005C + i * 0x100, 31, 0⟩
/-- R200 -/
def MOT_ENC_IDXT_HI_A (i : Nat) : Nat := 0x1C003C + i * 0x100
/-- R200 -/
def MOT_ENC_IDXT_LO_A (i : Nat) : Nat := 0x1C0038 + i * 0x100
/-- R200 -/
def MOT_ENC_IDX_COUNT (i : Nat) : Fld := ⟨0x1C0050 + i * 0x100, 31, 0⟩
/-- R200 -/
def MOT_ENC_IDX_ERR (i : Nat) : Fld := ⟨0x1C0054 + i * 0x100, 31, 0⟩
/-- R200 -/
def MOT_ENC_IDX_HI_A (i : Nat) : Nat := 0x1C0034 + i * 0x100
/-- R200 -/
def MOT_ENC_IDX_LO_A (i : Nat) : Nat := 0x1C0030 + i * 0x100
/-- R200 -/
def MOT_ENC_IDX_PER (i : Nat) : Fld := ⟨0x1C0040 + i * 0x100, 31, 0⟩
/-- R203 -/
def MOT_ENC_MDB_HI_A (i : Nat) : Nat := 0x1C0020 + i * 0x100
/-- R203 -/
def MOT_ENC_MDB_LO_A (i : Nat) : Nat := 0x1C001C + i * 0x100
/-- R199 -/
def MOT_ENC_POS_A (i : Nat) : Nat := 0x1C0008 + i * 0x100
/-- R199 -/
def MOT_ENC_POS_HI_A (i : Nat) : Nat := 0x1C000C + i * 0x100
/-- R200 -/
def MOT_ENC_QERR (i : Nat) : Fld := ⟨0x1C0058 + i * 0x100, 31, 0⟩
/-- R202 -/
def MOT_ENC_STAT_DISCONT (i : Nat) : Fld := ⟨0x1C0004 + i * 0x100, 3, 3⟩
/-- R202 -/
def MOT_ENC_STAT_HIST_MISS (i : Nat) : Fld := ⟨0x1C0004 + i * 0x100, 1, 1⟩
/-- R202 -/
def MOT_ENC_STAT_QERR (i : Nat) : Fld := ⟨0x1C0004 + i * 0x100, 2, 2⟩
/-- R207 -/
def MOT_IMU_CMD_A (i k : Nat) : Nat := 0x1C1008 + i * 0x200 + k * 0x4
/-- R207 -/
def MOT_IMU_CTRL_BIG_END (i : Nat) : Fld := ⟨0x1C1000 + i * 0x200, 4, 4⟩
/-- R207 -/
def MOT_IMU_CTRL_DRDY_POL (i : Nat) : Fld := ⟨0x1C1000 + i * 0x200, 3, 3⟩
/-- R206 -/
def MOT_IMU_CTRL_SPI_MODE (i : Nat) : Fld := ⟨0x1C1000 + i * 0x200, 2, 1⟩
/-- R206 -/
def MOT_IMU_CTRL_SCK_DIV (i : Nat) : Fld := ⟨0x1C1000 + i * 0x200, 15, 8⟩
/-- R207 -/
def MOT_IMU_CTRL_EN (i : Nat) : Fld := ⟨0x1C1000 + i * 0x200, 0, 0⟩
/-- R213 -/
def MOT_IMU_DRDY_OVR (i : Nat) : Fld := ⟨0x1C1084 + i * 0x200, 31, 0⟩
/-- R209 -/
def MOT_IMU_FIR_S2_EN (i : Nat) : Fld := ⟨0x1C1014 + i * 0x200, 8, 8⟩
/-- R209 -/
def MOT_IMU_FIR_STAGE1 (i : Nat) : Fld := ⟨0x1C1014 + i * 0x200, 2, 0⟩
/-- R209 -/
def MOT_IMU_FIR_STAGE2 (i : Nat) : Fld := ⟨0x1C1014 + i * 0x200, 6, 4⟩
/-- R213 -/
def MOT_IMU_OSTMP_HI_A (i : Nat) : Nat := 0x1C1064 + i * 0x200
/-- R213 -/
def MOT_IMU_OSTMP_LO_A (i : Nat) : Nat := 0x1C1060 + i * 0x200
/-- R213 -/
def MOT_IMU_OUT_A (i k : Nat) : Nat := 0x1C1040 + i * 0x200 + k * 0x4
/-- R213 -/
def MOT_IMU_RAW_A (i k : Nat) : Nat := 0x1C1020 + i * 0x200 + k * 0x4
/-- R213 -/
def MOT_IMU_SAMPLES (i : Nat) : Fld := ⟨0x1C1080 + i * 0x200, 31, 0⟩
/-- R213 -/
def MOT_IMU_SAT (i : Nat) : Fld := ⟨0x1C108C + i * 0x200, 31, 0⟩
/-- R208 -/
def MOT_IMU_STAT_CFG_WR (i : Nat) : Fld := ⟨0x1C1018 + i * 0x200, 3, 3⟩
/-- R208 -/
def MOT_IMU_STAT_SAT (i : Nat) : Fld := ⟨0x1C1018 + i * 0x200, 4, 4⟩
/-- R208 -/
def MOT_IMU_STAT_TMO (i : Nat) : Fld := ⟨0x1C1018 + i * 0x200, 2, 2⟩
/-- R208 -/
def MOT_IMU_TIM_DRDY_COMP (i : Nat) : Fld := ⟨0x1C1010 + i * 0x200, 31, 16⟩
/-- R208 -/
def MOT_IMU_TIM_IMU_TMO (i : Nat) : Fld := ⟨0x1C1010 + i * 0x200, 15, 0⟩
/-- R213 -/
def MOT_IMU_TMO (i : Nat) : Fld := ⟨0x1C1088 + i * 0x200, 31, 0⟩
/-- R207 -/
def MOT_IMU_XFER_CH_EN (i : Nat) : Fld := ⟨0x1C1004 + i * 0x200, 31, 24⟩
/-- R207 -/
def MOT_IMU_XFER_CMD_LEN (i : Nat) : Fld := ⟨0x1C1004 + i * 0x200, 3, 0⟩
/-- R207 -/
def MOT_IMU_XFER_RD_LEN (i : Nat) : Fld := ⟨0x1C1004 + i * 0x200, 20, 16⟩
/-- R207 -/
def MOT_IMU_XFER_SKIP (i : Nat) : Fld := ⟨0x1C1004 + i * 0x200, 9, 8⟩
/-- R463 -/
def MSC_HIT : Fld := ⟨0x208000, 31, 0⟩
/-- R463 -/
def MSC_MISS : Fld := ⟨0x208004, 31, 0⟩
/-- R454 -/
def NVS_CTRL_EN : Fld := ⟨0x250000, 0, 0⟩
/-- R463 -/
def NVS_FAULTS : Fld := ⟨0x250110, 31, 0⟩
/-- R463 -/
def NVS_FLUSHES : Fld := ⟨0x250104, 31, 0⟩
/-- R463 -/
def NVS_GSEQ_HI_A : Nat := 0x250028
/-- R463 -/
def NVS_GSEQ_LO_A : Nat := 0x250024
/-- R455 -/
def NVS_LBA_COUNT_HI_A : Nat := 0x250014
/-- R455 -/
def NVS_LBA_COUNT_LO_A : Nat := 0x250010
/-- R455 -/
def NVS_LBA_FIRST_HI_A : Nat := 0x25000C
/-- R455 -/
def NVS_LBA_FIRST_LO_A : Nat := 0x250008
/-- R463 -/
def NVS_LOST_EARLY : Fld := ⟨0x250118, 31, 0⟩
/-- R453 -/
def NVS_NSID : Fld := ⟨0x250018, 31, 0⟩
/-- R463 -/
def NVS_READBACK : Fld := ⟨0x250114, 31, 0⟩
/-- R463 -/
def NVS_READS : Fld := ⟨0x250108, 31, 0⟩
/-- R463 -/
def NVS_RETRIES : Fld := ⟨0x25010C, 31, 0⟩
/-- R459 -/
def NVS_TMO : Fld := ⟨0x25001C, 15, 0⟩
/-- R463 -/
def NVS_WRITES : Fld := ⟨0x250100, 31, 0⟩
/-- R351 -/
def PTP_CTRL_DOMAIN : Fld := ⟨0x50000, 31, 24⟩
/-- R351 -/
def PTP_CTRL_EN0 : Fld := ⟨0x50000, 0, 0⟩
/-- R351 -/
def PTP_CTRL_EN1 : Fld := ⟨0x50000, 1, 1⟩
/-- R351 -/
def PTP_CTRL_FAILOVER : Fld := ⟨0x50000, 3, 3⟩
/-- R351 -/
def PTP_CTRL_OWNER : Fld := ⟨0x50000, 2, 2⟩
/-- R351 -/
def PTP_CTRL_PROFILE : Fld := ⟨0x50000, 19, 18⟩
/-- PTP_CTRL.TRANSPORT. -/
def PTP_CTRL_TRANSPORT : Fld := ⟨0x50000, 17, 16⟩
/-- R362 -/
def PTP_FAILOVERS : Fld := ⟨0x50090, 31, 0⟩
/-- R362 -/
def PTP_RX_DROP : Fld := ⟨0x50088, 31, 0⟩
/-- R362 -/
def PTP_RX_EVENT : Fld := ⟨0x50080, 31, 0⟩
/-- R362 -/
def PTP_RX_GEN : Fld := ⟨0x50084, 31, 0⟩
/-- R349 -/
def PTP_RX_STAT_OVF : Fld := ⟨0x50030, 31, 31⟩
/-- R351 -/
def PTP_STAT_OWN_ERR : Fld := ⟨0x50004, 1, 1⟩
/-- R362 -/
def PTP_TX : Fld := ⟨0x5008C, 31, 0⟩
/-- R350 -/
def PTP_TX_BUF_A (k : Nat) : Nat := 0x51000 + k * 0x4
/-- R350 -/
def PTP_TX_CMD_A : Nat := 0x50010
/-- R350 -/
def PTP_TX_CMD_GO : Fld := ⟨0x50010, 31, 31⟩
/-- R350 -/
def PTP_TX_CMD_LEN : Fld := ⟨0x50010, 10, 0⟩
/-- R350 -/
def PTP_TX_STAT_DONE : Fld := ⟨0x5001C, 31, 31⟩
/-- R350 -/
def PTP_TX_STAT_ERR : Fld := ⟨0x5001C, 30, 28⟩
/-- R350 -/
def PTP_TX_TREF_HI_A : Nat := 0x50018
/-- R350 -/
def PTP_TX_TREF_LO_A : Nat := 0x50014
/-- R350 -/
def PTP_TX_TS_HI_A : Nat := 0x50024
/-- R350 -/
def PTP_TX_TS_LO_A : Nat := 0x50020
/-- R302 -/
def PWR_CAP : Fld := ⟨0x20008, 15, 0⟩
/-- R303 -/
def PWR_COEF_BYTE : Fld := ⟨0x20034, 15, 0⟩
/-- R303 -/
def PWR_COEF_EV : Fld := ⟨0x20020, 15, 0⟩
/-- R303 -/
def PWR_COEF_FUS : Fld := ⟨0x20038, 15, 0⟩
/-- R303 -/
def PWR_COEF_PASS : Fld := ⟨0x20024, 15, 0⟩
/-- R303 -/
def PWR_COEF_SYN : Fld := ⟨0x2002C, 15, 0⟩
/-- R303 -/
def PWR_COEF_TLE : Fld := ⟨0x20028, 15, 0⟩
/-- R303 -/
def PWR_COEF_TOUCH : Fld := ⟨0x20030, 15, 0⟩
/-- R330 -/
def PWR_CTRL_EDGE_PREF : Fld := ⟨0x20000, 1, 1⟩
/-- R330 -/
def PWR_CTRL_G_SHIFT : Fld := ⟨0x20000, 11, 8⟩
/-- R330 -/
def PWR_CTRL_K_SHIFT : Fld := ⟨0x20000, 15, 12⟩
/-- R330 -/
def PWR_CTRL_LEDGER_EN : Fld := ⟨0x20000, 0, 0⟩
/-- R330 -/
def PWR_CTRL_UP_FRAC : Fld := ⟨0x20000, 31, 24⟩
/-- R330 -/
def PWR_EMERG : Fld := ⟨0x20408, 31, 0⟩
/-- R326 -/
def PWR_IDLE3 : Fld := ⟨0x20304, 31, 0⟩
/-- R330 -/
def PWR_K_CLAMP : Fld := ⟨0x20428, 31, 0⟩
/-- R330 -/
def PWR_OVER_WIN : Fld := ⟨0x20424, 31, 0⟩
/-- R301 -/
def PWR_PFIX : Fld := ⟨0x20010, 31, 0⟩
/-- R330 -/
def PWR_PMB_ERR : Fld := ⟨0x2042C, 31, 0⟩
/-- R305 -/
def PWR_POPMIN : Fld := ⟨0x20018, 31, 0⟩
/-- R311 -/
def PWR_R_CFG_PMB_EN (i : Nat) : Fld := ⟨0x20200 + i * 0x10, 31, 31⟩
/-- R310 -/
def PWR_R_K_G (i : Nat) : Fld := ⟨0x20204 + i * 0x10, 31, 16⟩
/-- R310 -/
def PWR_R_K_K (i : Nat) : Fld := ⟨0x20204 + i * 0x10, 15, 0⟩
/-- R311 -/
def PWR_R_P (i : Nat) : Fld := ⟨0x20208 + i * 0x10, 31, 0⟩
/-- R330 -/
def PWR_S2_ENTRY : Fld := ⟨0x20430, 31, 0⟩
/-- R330 -/
def PWR_S3_ENTRY : Fld := ⟨0x20434, 31, 0⟩
/-- R330 -/
def PWR_SHED_CAL : Fld := ⟨0x2041C, 31, 0⟩
/-- R330 -/
def PWR_SHED_CLASS : Fld := ⟨0x20410, 31, 0⟩
/-- R330 -/
def PWR_SHED_KNOWN : Fld := ⟨0x20418, 31, 0⟩
/-- R330 -/
def PWR_SHED_NORM : Fld := ⟨0x20414, 31, 0⟩
/-- R330 -/
def PWR_SHED_POP : Fld := ⟨0x2040C, 31, 0⟩
/-- R330 -/
def PWR_SHED_TAP : Fld := ⟨0x20420, 31, 0⟩
/-- R325 -/
def PWR_SLEEP_ETH_ON : Fld := ⟨0x20300, 0, 0⟩
/-- R325 -/
def PWR_SLEEP_IDLE_S2 : Fld := ⟨0x20300, 31, 16⟩
/-- R325 -/
def PWR_SLEEP_LNK_ON : Fld := ⟨0x20300, 1, 1⟩
/-- R330 -/
def PWR_STAT_AVS_FAIL : Fld := ⟨0x20004, 6, 6⟩
/-- R330 -/
def PWR_STAT_K_CLAMP : Fld := ⟨0x20004, 4, 4⟩
/-- R330 -/
def PWR_STAT_PL_SEQ_ERR : Fld := ⟨0x20004, 7, 7⟩
/-- R330 -/
def PWR_STAT_PMB_FAIL : Fld := ⟨0x20004, 5, 5⟩
/-- R330 -/
def PWR_STEP_DOWN : Fld := ⟨0x20400, 31, 0⟩
/-- R330 -/
def PWR_STEP_UP : Fld := ⟨0x20404, 31, 0⟩
/-- R304 -/
def PWR_TF_TF_SLOPE : Fld := ⟨0x20014, 15, 0⟩
/-- R314 -/
def PWR_UPT : Fld := ⟨0x2000C, 31, 16⟩
/-- R328 -/
def PWR_WAKE_LAST_FROM : Fld := ⟨0x20308, 31, 28⟩
/-- R328 -/
def PWR_WAKE_LAST_SOURCE : Fld := ⟨0x20308, 7, 0⟩
/-- R328 -/
def PWR_WAKE_LAST_UNIT : Fld := ⟨0x20308, 15, 8⟩
/-- R328 -/
def PWR_WAKE_T_HI_A : Nat := 0x20310
/-- R328 -/
def PWR_WAKE_T_LO_A : Nat := 0x2030C
/-- R362 -/
def RRT_ACK_BAD : Fld := ⟨0x64110, 31, 0⟩
/-- R362 -/
def RRT_ACK_RX : Fld := ⟨0x6410C, 31, 0⟩
/-- R362 -/
def RRT_AUTH_FAIL : Fld := ⟨0x64114, 31, 0⟩
/-- R355 -/
def RRT_CFG2_DOWN_N : Fld := ⟨0x64004, 31, 24⟩
/-- R355 -/
def RRT_CFG2_FB_PROBE : Fld := ⟨0x64004, 15, 0⟩
/-- R355 -/
def RRT_CFG2_MAX_REC : Fld := ⟨0x64004, 20, 16⟩
/-- R355 -/
def RRT_CFG_RESEND : Fld := ⟨0x64000, 31, 16⟩
/-- R355 -/
def RRT_CFG_UDP_PORT : Fld := ⟨0x64000, 15, 0⟩
/-- R362 -/
def RRT_DEST_DOWN : Fld := ⟨0x64118, 31, 0⟩
/-- R362 -/
def RRT_DEST_DROP : Fld := ⟨0x64120, 31, 0⟩
/-- R362 -/
def RRT_DG_RESENT : Fld := ⟨0x64104, 31, 0⟩
/-- R362 -/
def RRT_DG_TX : Fld := ⟨0x64100, 31, 0⟩
/-- R356 -/
def RRT_D_ACK_HI_A (i : Nat) : Nat := 0x64228 + i * 0x40
/-- R356 -/
def RRT_D_ACK_LO_A (i : Nat) : Nat := 0x64224 + i * 0x40
/-- R360 -/
def RRT_D_CTRL_AUTH (i : Nat) : Fld := ⟨0x64200 + i * 0x40, 29, 29⟩
/-- R360 -/
def RRT_D_CTRL_EN (i : Nat) : Fld := ⟨0x64200 + i * 0x40, 31, 31⟩
/-- R360 -/
def RRT_D_CTRL_FB_EN (i : Nat) : Fld := ⟨0x64200 + i * 0x40, 28, 28⟩
/-- R360 -/
def RRT_D_CTRL_KEY (i : Nat) : Fld := ⟨0x64200 + i * 0x40, 26, 24⟩
/-- R360 -/
def RRT_D_CTRL_PORT (i : Nat) : Fld := ⟨0x64200 + i * 0x40, 27, 27⟩
/-- R360 -/
def RRT_D_CTRL_STATIC (i : Nat) : Fld := ⟨0x64200 + i * 0x40, 23, 23⟩
/-- R360 -/
def RRT_D_CTRL_V6 (i : Nat) : Fld := ⟨0x64200 + i * 0x40, 30, 30⟩
/-- R353 -/
def RRT_D_IP_A (i k : Nat) : Nat := 0x64204 + i * 0x40 + k * 0x4
/-- R356 -/
def RRT_D_SEL (i : Nat) : Fld := ⟨0x64220 + i * 0x40, 4, 0⟩
/-- R362 -/
def RRT_FB_SWITCH : Fld := ⟨0x6411C, 31, 0⟩
/-- R358 -/
def RRT_KEY_A (k : Nat) : Nat := 0x64400 + k * 0x4
/-- R362 -/
def RRT_REC_TX : Fld := ⟨0x64108, 31, 0⟩
/-- R353 -/
def RRT_STREAM_DEST_MASK (k : Nat) : Fld := ⟨0x64010 + k * 0x4, 7, 0⟩
/-- R442 -/
def RST_BLK_COUNT : Fld := ⟨0x10108, 31, 0⟩
/-- R424 -/
def RST_BLK_KIND : Fld := ⟨0x10030, 11, 8⟩
/-- R425 -/
def RST_BLK_STAT_CMD_LOST : Fld := ⟨0x10034, 28, 28⟩
/-- R425 -/
def RST_BLK_STAT_DISCARDED : Fld := ⟨0x10034, 15, 0⟩
/-- R425 -/
def RST_BLK_STAT_OFF : Fld := ⟨0x10034, 29, 29⟩
/-- R425 -/
def RST_BLK_STAT_TMO : Fld := ⟨0x10034, 30, 30⟩
/-- R442 -/
def RST_BLK_TMO : Fld := ⟨0x1010C, 31, 0⟩
/-- R424 -/
def RST_BLK_UNIT : Fld := ⟨0x10030, 6, 0⟩
/-- R433 -/
def RST_CAUSE_LAST_CODE : Fld := ⟨0x10010, 7, 0⟩
/-- R433 -/
def RST_CAUSE_LAST_DETAIL : Fld := ⟨0x10010, 15, 8⟩
/-- R433 -/
def RST_CAUSE_STICKY_CAUSES : Fld := ⟨0x10014, 17, 1⟩
/-- R416 -/
def RST_CFG_AUTO_CMP : Fld := ⟨0x10004, 2, 2⟩
/-- R416 -/
def RST_CFG_PERST_MODE : Fld := ⟨0x10004, 1, 1⟩
/-- R416 -/
def RST_CFG_RST_OUT_MIN : Fld := ⟨0x10004, 31, 24⟩
/-- R416 -/
def RST_CFG_STICKY_EN : Fld := ⟨0x10004, 0, 0⟩
/-- R442 -/
def RST_CMP_COUNT : Fld := ⟨0x10104, 31, 0⟩
/-- R427 -/
def RST_CMP_STAT_REFUSED : Fld := ⟨0x10020, 30, 30⟩
/-- R442 -/
def RST_DIE_LOST : Fld := ⟨0x10110, 31, 0⟩
/-- R425 -/
def RST_IDLE : Fld := ⟨0x10008, 15, 0⟩
/-- R433 -/
def RST_T_LAST_HI_A : Nat := 0x1001C
/-- R433 -/
def RST_T_LAST_LO_A : Nat := 0x10018
/-- R442 -/
def RST_WARM_COUNT : Fld := ⟨0x10100, 31, 0⟩
/-- R434 -/
def SBI_CFG_RST_EN : Fld := ⟨0xC0000, 8, 8⟩
/-- R442 -/
def SBI_CMDS : Fld := ⟨0xC0100, 31, 0⟩
/-- R442 -/
def SBI_INCOMPLETE : Fld := ⟨0xC010C, 31, 0⟩
/-- R435 -/
def SBI_KEY : Fld := ⟨0xC0004, 15, 0⟩
/-- R442 -/
def SBI_KEY_ERR : Fld := ⟨0xC0108, 31, 0⟩
/-- R442 -/
def SBI_PEC_ERR : Fld := ⟨0xC0104, 31, 0⟩
/-- R442 -/
def SBI_RESETS : Fld := ⟨0xC0110, 31, 0⟩
/-- R435 -/
def SBI_STAT_INCOMPLETE : Fld := ⟨0xC0008, 0, 0⟩
/-- R435 -/
def SBI_STAT_KEY_BAD : Fld := ⟨0xC0008, 2, 2⟩
/-- R435 -/
def SBI_STAT_LAST_CMD : Fld := ⟨0xC0008, 31, 24⟩
/-- R435 -/
def SBI_STAT_PEC_BAD : Fld := ⟨0xC0008, 1, 1⟩
/-- R443 -/
def SEC_FW_VERIFY_FAIL : Fld := ⟨0x90108, 31, 0⟩
/-- R443 -/
def SEC_NONCE_HI_A : Nat := 0x9000C
/-- R443 -/
def SEC_NONCE_LO_A : Nat := 0x90008
/-- R443 -/
def SEC_UNLOCK_FAIL : Fld := ⟨0x90104, 31, 0⟩
/-- R443 -/
def SEC_UNLOCK_OK : Fld := ⟨0x90100, 31, 0⟩
/-- R322 -/
def THM_COOL : Fld := ⟨0xD0008, 15, 0⟩
/-- R321 -/
def THM_CTRL_HYST : Fld := ⟨0xD0000, 23, 16⟩
/-- R321 -/
def THM_CTRL_REPEAT : Fld := ⟨0xD0000, 15, 0⟩
/-- R321 -/
def THM_CTRL_THROTTLE : Fld := ⟨0xD0000, 31, 24⟩
/-- R321 -/
def THM_RISE : Fld := ⟨0xD0004, 15, 0⟩
/-- R321 -/
def THM_S (k : Nat) : Fld := ⟨0xD0040 + k * 0x4, 15, 0⟩
/-- R321 -/
def THM_S_T (k : Nat) : Fld := ⟨0xD0040 + k * 0x4, 15, 0⟩
/-- R321 -/
def THM_THROTTLE_EVENTS : Fld := ⟨0xD0100, 31, 0⟩
/-- R333 -/
def TIM_CTRL_PPS_EN : Fld := ⟨0x40000, 1, 1⟩
/-- R333 -/
def TIM_CTRL_PPS_GATE : Fld := ⟨0x40000, 2, 2⟩
/-- R362 -/
def TIM_HOLDOVERS : Fld := ⟨0x40414, 31, 0⟩
/-- R346 -/
def TIM_PPSIN_COMP : Fld := ⟨0x400C8, 31, 16⟩
/-- R346 -/
def TIM_PPSIN_FILT : Fld := ⟨0x400C8, 3, 0⟩
/-- R345 -/
def TIM_PPS_OFS : Fld := ⟨0x400C4, 31, 0⟩
/-- R345 -/
def TIM_PPS_WIDTH : Fld := ⟨0x400C0, 31, 16⟩
/-- R362 -/
def TIM_SAMPLES : Fld := ⟨0x40400, 31, 0⟩
/-- R362 -/
def TIM_SLEWS : Fld := ⟨0x40410, 31, 0⟩
/-- R362 -/
def TIM_SPIKES : Fld := ⟨0x40404, 31, 0⟩
/-- R337 -/
def TIM_SRV_CFG_EN : Fld := ⟨0x40080, 5, 5⟩
/-- R337 -/
def TIM_SRV_CFG_FORCE : Fld := ⟨0x40080, 4, 4⟩
/-- R337 -/
def TIM_SRV_CFG_LNK : Fld := ⟨0x40080, 3, 2⟩
/-- R337 -/
def TIM_SRV_CFG_SRC : Fld := ⟨0x40080, 1, 0⟩
/-- R338 -/
def TIM_SRV_HOLD_AVG_SHIFT : Fld := ⟨0x4008C, 31, 28⟩
/-- R338 -/
def TIM_SRV_HOLD_HOLD_TIMEOUT : Fld := ⟨0x4008C, 15, 0⟩
/-- R338 -/
def TIM_SRV_KI_KI : Fld := ⟨0x40088, 31, 0⟩
/-- R338 -/
def TIM_SRV_KP_KP : Fld := ⟨0x40084, 31, 0⟩
/-- R362 -/
def TIM_SRV_LAST_HI_A : Nat := 0x400B4
/-- R362 -/
def TIM_SRV_LAST_LO_A : Nat := 0x400B0
/-- R339 -/
def TIM_SRV_LOCK_LOCK_N : Fld := ⟨0x40090, 31, 24⟩
/-- R339 -/
def TIM_SRV_LOCK_LOCK_NS : Fld := ⟨0x40090, 23, 0⟩
/-- R337 -/
def TIM_SRV_OFS_LO_A : Nat := 0x400A0
/-- R340 -/
def TIM_SRV_SLEWMAX_SLEW_MAX : Fld := ⟨0x4009C, 31, 0⟩
/-- R341 -/
def TIM_SRV_SLEW_SLEW_PPB : Fld := ⟨0x40098, 19, 0⟩
/-- R339 -/
def TIM_SRV_SPIKE_SPIKE_N : Fld := ⟨0x40094, 31, 28⟩
/-- R339 -/
def TIM_SRV_SPIKE_SPIKE_NS : Fld := ⟨0x40094, 27, 0⟩
/-- R362 -/
def TIM_STAT_CLAMP : Fld := ⟨0x40004, 4, 4⟩
/-- R362 -/
def TIM_STAT_SAMPLE_LOST : Fld := ⟨0x40004, 1, 1⟩
/-- R362 -/
def TIM_STAT_STG_ERR : Fld := ⟨0x40004, 2, 2⟩
/-- R362 -/
def TIM_STAT_STG_REFUSED : Fld := ⟨0x40004, 3, 3⟩
/-- R362 -/
def TIM_STEPS : Fld := ⟨0x40408, 31, 0⟩
/-- R362 -/
def TIM_STEP_REFUSED : Fld := ⟨0x4040C, 31, 0⟩
/-- R334 -/
def TIM_STG_AT_HI_A : Nat := 0x40054
/-- R334 -/
def TIM_STG_AT_LO_A : Nat := 0x40050
/-- R334 -/
def TIM_STG_CTRL_AT_EN : Fld := ⟨0x40040, 28, 28⟩
/-- R334 -/
def TIM_STG_CTRL_FORCE : Fld := ⟨0x40040, 29, 29⟩
/-- R334 -/
def TIM_STG_CTRL_MODE : Fld := ⟨0x40040, 27, 27⟩
/-- R334 -/
def TIM_STG_NS : Fld := ⟨0x4004C, 29, 0⟩
/-- R334 -/
def TIM_STG_V_HI : Fld := ⟨0x40048, 31, 0⟩
/-- R334 -/
def TIM_STG_V_HI_A : Nat := 0x40048
/-- R334 -/
def TIM_STG_V_LO : Fld := ⟨0x40044, 31, 0⟩
/-- R334 -/
def TIM_STG_V_LO_A : Nat := 0x40044
/-- R346 -/
def TIM_TI_CFG_COMP (i : Nat) : Fld := ⟨0x40300 + i * 0x10, 31, 16⟩
/-- R346 -/
def TIM_TI_CFG_EDGE (i : Nat) : Fld := ⟨0x40300 + i * 0x10, 1, 0⟩
/-- R346 -/
def TIM_TI_CFG_FILT (i : Nat) : Fld := ⟨0x40300 + i * 0x10, 7, 4⟩
/-- R346 -/
def TIM_TI_HI_A (i : Nat) : Nat := 0x40308 + i * 0x10
/-- R346 -/
def TIM_TI_LO_A (i : Nat) : Nat := 0x40304 + i * 0x10
/-- R362 -/
def TIM_TI_OVF : Fld := ⟨0x40418, 31, 0⟩
/-- R346 -/
def TIM_TI_STAT_OVF (i : Nat) : Fld := ⟨0x4030C + i * 0x10, 29, 29⟩
/-- R343 -/
def TIM_TO_CTRL_ENC (i : Nat) : Fld := ⟨0x40200 + i * 0x20, 7, 6⟩
/-- R343 -/
def TIM_TO_CTRL_LATE (i : Nat) : Fld := ⟨0x40200 + i * 0x20, 31, 31⟩
/-- R343 -/
def TIM_TO_CTRL_LEVEL (i : Nat) : Fld := ⟨0x40200 + i * 0x20, 5, 5⟩
/-- R343 -/
def TIM_TO_CTRL_MODE (i : Nat) : Fld := ⟨0x40200 + i * 0x20, 2, 0⟩
/-- R343 -/
def TIM_TO_CTRL_POL (i : Nat) : Fld := ⟨0x40200 + i * 0x20, 4, 4⟩
/-- R343 -/
def TIM_TO_PERIOD (i : Nat) : Fld := ⟨0x4020C + i * 0x20, 31, 0⟩
/-- R343 -/
def TIM_TO_POSPER (i : Nat) : Fld := ⟨0x4021C + i * 0x20, 31, 0⟩
/-- R343 -/
def TIM_TO_POS_HI_A (i : Nat) : Nat := 0x40218 + i * 0x20
/-- R343 -/
def TIM_TO_POS_LO_A (i : Nat) : Nat := 0x40214 + i * 0x20
/-- R343 -/
def TIM_TO_START_HI_A (i : Nat) : Nat := 0x40208 + i * 0x20
/-- R343 -/
def TIM_TO_START_LO_A (i : Nat) : Nat := 0x40204 + i * 0x20
/-- R343 -/
def TIM_TO_WIDTH (i : Nat) : Fld := ⟨0x40210 + i * 0x20, 31, 0⟩
/-- R144 -/
def TLE_ABANDONED (i : Nat) : Fld := ⟨0x18081C + i / 2 * 0x10000 + i % 2 * 0x100, 31, 0⟩
/-- R144 -/
def TLE_CLOCKS (i : Nat) : Fld := ⟨0x180814 + i / 2 * 0x10000 + i % 2 * 0x100, 31, 0⟩
/-- R144 -/
def TLE_LAYERS (i : Nat) : Fld := ⟨0x180810 + i / 2 * 0x10000 + i % 2 * 0x100, 31, 0⟩
/-- R144 -/
def TLE_SAT_COUNT (i : Nat) : Fld := ⟨0x180818 + i / 2 * 0x10000 + i % 2 * 0x100, 31, 0⟩
/-- R136 -/
def TLE_STAT_SAT (i : Nat) : Fld := ⟨0x180800 + i / 2 * 0x10000 + i % 2 * 0x100, 1, 1⟩

end R

end Sys2Proof.Machine
end

