-- ==== Sys2Proof/Machine/RegMap.lean ====
section
/-! DEFINITION. The register map of R27: every block, row, write mask and reset value, as the register tables give them. -/

namespace Sys2Proof.Machine

/-- A row of a register table: place, repetition, masks by field type (R9) and the reset value, which may depend on the
unit or the element. -/
structure RegRow where
  off : Nat
  cnt : Nat := 1
  st : Nat := 4
  rw : Nat := 0
  rws : Nat := 0
  w1c : Nat := 0
  w1s : Nat := 0
  wo : Nat := 0
  rst : Nat → Nat := fun _ => 0

/-- A block: base, number of units and their stride, and a second level of units. -/
structure RegBlock where
  base : Nat
  n : Nat := 1
  stride : Nat := 0x1000000
  n2 : Nat := 1
  stride2 : Nat := 0x1000000
  rows : List RegRow

namespace RegMap

/-- GLB registers, part 0 (R442). -/
def rowsGLB_0 : List RegRow := [
  { off := 0x0, rst := fun _ => 0x48400100 },
  { off := 0x4, w1c := 0x40000 },
  { off := 0x8, rws := 0xFFFFF001 },
  { off := 0xC, rws := 0xFFFFFFFF },
  { off := 0x10 },
  { off := 0x20, rw := 0xFFFFFFFF },
  { off := 0x24, rw := 0xFFFFFFFF },
  { off := 0x28, rw := 0xFFFFFFFF },
  { off := 0x2C, wo := 0x1 },
  { off := 0x30 }]

/-- GLB (R442). -/
def blkGLB : RegBlock := { base := 0x0, rows := rowsGLB_0 }

/-- RST registers, part 0 (R442). -/
def rowsRST_0 : List RegRow := [
  { off := 0x0, wo := 0x2 },
  { off := 0x4, rws := 0xFF000007, rst := fun _ => 0x14000001 },
  { off := 0x8, rws := 0xFFFF, rst := fun _ => 0x3E8 },
  { off := 0x10, rst := fun _ => 0x1 },
  { off := 0x14, w1c := 0x3FFFE, rst := fun _ => 0x2 },
  { off := 0x18 },
  { off := 0x1C },
  { off := 0x20, w1c := 0x40000000 },
  { off := 0x30, rw := 0xF7F, w1s := 0x80000000 },
  { off := 0x34, w1c := 0x70000000 },
  { off := 0x100 },
  { off := 0x104 }]

/-- RST registers, part 1 (R442). -/
def rowsRST_1 : List RegRow := [
  { off := 0x108 },
  { off := 0x10C },
  { off := 0x110 }]

/-- RST (R442). -/
def blkRST : RegBlock := { base := 0x10000, rows := rowsRST_0 ++ rowsRST_1 }

/-- PWR registers, part 0 (R330). -/
def rowsPWR_0 : List RegRow := [
  { off := 0x0, rw := 0xFF00FF03, rst := fun _ => 0x40003203 },
  { off := 0x4, w1c := 0xF0 },
  { off := 0x8, rst := fun _ => 0x9C40 },
  { off := 0xC, rw := 0xFFFF0000, rst := fun _ => 0x640000 },
  { off := 0x10, rw := 0xFFFFFFFF, rst := fun _ => 0x2328 },
  { off := 0x14, rw := 0xFFFF, rst := fun _ => 0xA4 },
  { off := 0x18, rw := 0xFFFFFFFF, rst := fun _ => 0x2710 },
  { off := 0x20, rw := 0xFFFF, rst := fun _ => 0x82 },
  { off := 0x24, rw := 0xFFFF, rst := fun _ => 0x78 },
  { off := 0x28, rw := 0xFFFF, rst := fun _ => 0x28 },
  { off := 0x2C, rw := 0xFFFF, rst := fun _ => 0x3 },
  { off := 0x30, rw := 0xFFFF, rst := fun _ => 0x4 }]

/-- PWR registers, part 1 (R330). -/
def rowsPWR_1 : List RegRow := [
  { off := 0x34, rw := 0xFFFF, rst := fun _ => 0x28 },
  { off := 0x38, rw := 0xFFFF, rst := fun _ => 0x7D0 },
  { off := 0x300, rw := 0xFFFF0003, wo := 0x4, rst := fun _ => 0xA0003 },
  { off := 0x304, rw := 0xFFFFFFFF },
  { off := 0x308 },
  { off := 0x30C },
  { off := 0x310 },
  { off := 0x400 },
  { off := 0x404 },
  { off := 0x408 },
  { off := 0x40C },
  { off := 0x410 }]

/-- PWR registers, part 2 (R330). -/
def rowsPWR_2 : List RegRow := [
  { off := 0x414 },
  { off := 0x418 },
  { off := 0x41C },
  { off := 0x420 },
  { off := 0x424 },
  { off := 0x428 },
  { off := 0x42C },
  { off := 0x430 },
  { off := 0x434 }]

/-- PWR (R330). -/
def blkPWR : RegBlock := { base := 0x20000, rows := rowsPWR_0 ++ rowsPWR_1 ++ rowsPWR_2 }

/-- PWR_D registers, part 0 (R330). -/
def rowsPWR_D_0 : List RegRow := [
  { off := 0x0, rst := fun _ => 0x1DDDC00 }]

/-- PWR_D (R330). -/
def blkPWR_D : RegBlock := { base := 0x20100, n := 4, stride := 0x20, rows := rowsPWR_D_0 }

/-- PWR_R registers, part 0 (R330). -/
def rowsPWR_R_0 : List RegRow := [
  { off := 0x0, rw := 0xFFF00000, rst := fun i => 0x80000000 + (0x40 + i) * 16777216 + i * 1048576 },
  { off := 0x4, rst := fun _ => 0x40004000 },
  { off := 0x8 }]

/-- PWR_R (R330). -/
def blkPWR_R : RegBlock := { base := 0x20200, n := 6, stride := 0x10, rows := rowsPWR_R_0 }

/-- CLK registers, part 0 (R330). -/
def rowsCLK_0 : List RegRow := [
  { off := 0x800, rw := 0xFFFF, rst := fun _ => 0xA },
  { off := 0x804, rw := 0xFFFFFFFF, rst := fun _ => 0xC80014 }]

/-- CLK (R330). -/
def blkCLK : RegBlock := { base := 0x30000, rows := rowsCLK_0 }

/-- CLK_D registers, part 0 (R330). -/
def rowsCLK_D_0 : List RegRow := [
  { off := 0x0, rw := 0x8FF8FFFF, rst := fun _ => 0x2840 },
  { off := 0x4, w1c := 0x1 },
  { off := 0x10 },
  { off := 0x14 },
  { off := 0x18 }]

/-- CLK_D (R330). -/
def blkCLK_D : RegBlock := { base := 0x30000, n := 4, stride := 0x100, rows := rowsCLK_D_0 }

/-- TIM registers, part 0 (R362). -/
def rowsTIM_0 : List RegRow := [
  { off := 0x0, rw := 0x6, wo := 0x1 },
  { off := 0x4, w1c := 0x1E, rst := fun _ => 0x80000000 },
  { off := 0x10 },
  { off := 0x14 },
  { off := 0x18 },
  { off := 0x1C },
  { off := 0x20 },
  { off := 0x24 },
  { off := 0x40, rw := 0x38000000, w1s := 0x80000000, wo := 0x40000000 },
  { off := 0x44, rw := 0xFFFFFFFF },
  { off := 0x48, rw := 0xFFFFFFFF },
  { off := 0x4C, rw := 0x3FFFFFFF }]

/-- TIM registers, part 1 (R362). -/
def rowsTIM_1 : List RegRow := [
  { off := 0x50, rw := 0xFFFFFFFF },
  { off := 0x54, rw := 0xFFFFFFFF },
  { off := 0x80, rw := 0x3F, rst := fun _ => 0x20 },
  { off := 0x84, rw := 0xFFFFFFFF, rst := fun _ => 0xB333 },
  { off := 0x88, rw := 0xFFFFFFFF, rst := fun _ => 0x4CCD },
  { off := 0x8C, rw := 0xF000FFFF, rst := fun _ => 0x40000BB8 },
  { off := 0x90, rw := 0xFFFFFFFF, rst := fun _ => 0x80003E8 },
  { off := 0x94, rw := 0xFFFFFFFF, rst := fun _ => 0x300186A0 },
  { off := 0x98, rw := 0xFFFFF, rst := fun _ => 0x186A0 },
  { off := 0x9C, rw := 0xFFFFFFFF, rst := fun _ => 0xF4240 },
  { off := 0xA0, wo := 0xFFFFFFFF },
  { off := 0xA4, wo := 0xFFFFFFFF }]

/-- TIM registers, part 2 (R362). -/
def rowsTIM_2 : List RegRow := [
  { off := 0xA8 },
  { off := 0xAC },
  { off := 0xB0 },
  { off := 0xB4 },
  { off := 0xC0, rw := 0xFFFF0000, rst := fun _ => 0x640000 },
  { off := 0xC4, rw := 0xFFFFFFFF },
  { off := 0xC8, rw := 0xFFFF000F, rst := fun _ => 0x2 },
  { off := 0x100 },
  { off := 0x104 },
  { off := 0x108, rst := fun _ => 0x64 },
  { off := 0x400 },
  { off := 0x404 }]

/-- TIM registers, part 3 (R362). -/
def rowsTIM_3 : List RegRow := [
  { off := 0x408 },
  { off := 0x40C },
  { off := 0x410 },
  { off := 0x414 },
  { off := 0x418 }]

/-- TIM (R362). -/
def blkTIM : RegBlock := { base := 0x40000, rows := rowsTIM_0 ++ rowsTIM_1 ++ rowsTIM_2 ++ rowsTIM_3 }

/-- TIM_TO registers, part 0 (R362). -/
def rowsTIM_TO_0 : List RegRow := [
  { off := 0x0, rw := 0xF7, w1c := 0x80000000, rst := fun _ => 0x4 },
  { off := 0x4, rw := 0xFFFFFFFF },
  { off := 0x8, rw := 0xFFFFFFFF },
  { off := 0xC, rw := 0xFFFFFFFF },
  { off := 0x10, rw := 0xFFFFFFFF, rst := fun _ => 0x3E8 },
  { off := 0x14, rw := 0xFFFFFFFF },
  { off := 0x18, rw := 0xFFFFFFFF },
  { off := 0x1C, rw := 0xFFFFFFFF }]

/-- TIM_TO (R362). -/
def blkTIM_TO : RegBlock := { base := 0x40200, n := 8, stride := 0x20, rows := rowsTIM_TO_0 }

/-- TIM_TI registers, part 0 (R362). -/
def rowsTIM_TI_0 : List RegRow := [
  { off := 0x0, rw := 0xFFFF00F3, rst := fun _ => 0x20 },
  { off := 0x4 },
  { off := 0x8 },
  { off := 0xC, w1c := 0x20000000 }]

/-- TIM_TI (R362). -/
def blkTIM_TI : RegBlock := { base := 0x40300, n := 4, stride := 0x10, rows := rowsTIM_TI_0 }

/-- PTP registers, part 0 (R362). -/
def rowsPTP_0 : List RegRow := [
  { off := 0x0, rw := 0xFF0F000F, rst := fun _ => 0x8 },
  { off := 0x4, w1c := 0x2 },
  { off := 0x10, rw := 0xE0007FF, w1s := 0x80000000 },
  { off := 0x14, rw := 0xFFFFFFFF },
  { off := 0x18, rw := 0xFFFFFFFF },
  { off := 0x1C, w1c := 0x80000000 },
  { off := 0x20 },
  { off := 0x24 },
  { off := 0x30, w1c := 0x80000000 },
  { off := 0x34, wo := 0x1 },
  { off := 0x80 },
  { off := 0x84 }]

/-- PTP registers, part 1 (R362). -/
def rowsPTP_1 : List RegRow := [
  { off := 0x88 },
  { off := 0x8C },
  { off := 0x90 },
  { off := 0x1000, cnt := 512, rw := 0xFFFFFFFF },
  { off := 0x4000, cnt := 2048 }]

/-- PTP (R362). -/
def blkPTP : RegBlock := { base := 0x50000, rows := rowsPTP_0 ++ rowsPTP_1 }

/-- ETH registers, part 0 (R362). -/
def rowsETH_0 : List RegRow := [
  { off := 0x0, rw := 0xF1, rst := fun _ => 0x70 },
  { off := 0x4, w1c := 0x10 },
  { off := 0x8, rw := 0xFFFFFFFF },
  { off := 0xC, rw := 0xFFFF },
  { off := 0x10, rw := 0xEFFF },
  { off := 0x14, rw := 0xFFFFFFFF },
  { off := 0x18, rw := 0x3F, rst := fun _ => 0x18 },
  { off := 0x1C, rw := 0xFFFFFFFF },
  { off := 0x20, cnt := 4, rw := 0xFFFFFFFF },
  { off := 0x30, rw := 0xFF },
  { off := 0x40, cnt := 4, rw := 0xFFFFFFFF },
  { off := 0x50, rw := 0xFFFFFFFF }]

/-- ETH registers, part 1 (R362). -/
def rowsETH_1 : List RegRow := [
  { off := 0x100 },
  { off := 0x104 },
  { off := 0x108 },
  { off := 0x10C },
  { off := 0x110 },
  { off := 0x114 },
  { off := 0x118 },
  { off := 0x11C },
  { off := 0x120 },
  { off := 0x124 },
  { off := 0x128 },
  { off := 0x12C }]

/-- ETH registers, part 2 (R362). -/
def rowsETH_2 : List RegRow := [
  { off := 0x130 }]

/-- ETH (R362). -/
def blkETH : RegBlock := { base := 0x60000, n := 2, stride := 0x8000, rows := rowsETH_0 ++ rowsETH_1 ++ rowsETH_2 }

/-- RRT registers, part 0 (R362). -/
def rowsRRT_0 : List RegRow := [
  { off := 0x0, rw := 0xFFFFFFFF, rst := fun _ => 0x7D0A32A },
  { off := 0x4, rw := 0xFF1FFFFF, rst := fun _ => 0x321403E8 },
  { off := 0x10, cnt := 32, rw := 0xFF },
  { off := 0x100 },
  { off := 0x104 },
  { off := 0x108 },
  { off := 0x10C },
  { off := 0x110 },
  { off := 0x114 },
  { off := 0x118 },
  { off := 0x11C },
  { off := 0x120 }]

/-- RRT registers, part 1 (R362). -/
def rowsRRT_1 : List RegRow := [
  { off := 0x400, cnt := 64, wo := 0xFFFFFFFF }]

/-- RRT (R362). -/
def blkRRT : RegBlock := { base := 0x64000, rows := rowsRRT_0 ++ rowsRRT_1 }

/-- RRT_D registers, part 0 (R362). -/
def rowsRRT_D_0 : List RegRow := [
  { off := 0x0, rw := 0xFF80FFFF, rst := fun _ => 0xA32A },
  { off := 0x4, cnt := 4, rw := 0xFFFFFFFF },
  { off := 0x14, rw := 0xFFFFFFFF },
  { off := 0x18, rw := 0xFFFF },
  { off := 0x1C },
  { off := 0x20, rw := 0x1F },
  { off := 0x24 },
  { off := 0x28 },
  { off := 0x2C }]

/-- RRT_D (R362). -/
def blkRRT_D : RegBlock := { base := 0x64200, n := 8, stride := 0x40, rows := rowsRRT_D_0 }

/-- HIF registers, part 0 (R389). -/
def rowsHIF_0 : List RegRow := [
  { off := 0x0, w1c := 0xC0000000 },
  { off := 0x4 },
  { off := 0x8 },
  { off := 0xC },
  { off := 0x10 },
  { off := 0x100 },
  { off := 0x104 },
  { off := 0x108 },
  { off := 0x10C },
  { off := 0x400, cnt := 4 },
  { off := 0x420, cnt := 18 },
  { off := 0x480, cnt := 2 }]

/-- HIF registers, part 1 (R389). -/
def rowsHIF_1 : List RegRow := [
  { off := 0x488, cnt := 2 },
  { off := 0x490, cnt := 2 }]

/-- HIF (R389). -/
def blkHIF : RegBlock := { base := 0x80000, rows := rowsHIF_0 ++ rowsHIF_1 }

/-- HIF_SUM registers, part 0 (R389). -/
def rowsHIF_SUM_0 : List RegRow := [
  { off := 0x0 }]

/-- HIF_SUM (R389). -/
def blkHIF_SUM : RegBlock := { base := 0x82000, n := 8, stride := 0x10, rows := rowsHIF_SUM_0 }

/-- HIF_F registers, part 0 (R365). -/
def rowsHIF_F_0 : List RegRow := [
  { off := 0x0, rw := 0x1 },
  { off := 0x4, w1c := 0x103 },
  { off := 0x8, rw := 0xFFFFFFC0 },
  { off := 0xC, rw := 0xFFFFFFFF },
  { off := 0x10 },
  { off := 0x14 },
  { off := 0x200, cnt := 6, rw := 0xFFFFFFFF, rst := fun _ => 0x10000 },
  { off := 0x100, cnt := 7, st := 32, rw := 0xFFFFF000 },
  { off := 0x104, cnt := 7, st := 32, rw := 0xFFFFFFFF },
  { off := 0x108, cnt := 7, st := 32, rw := 0xC000001F },
  { off := 0x10C, cnt := 7, st := 32 },
  { off := 0x110, cnt := 7, st := 32 }]

/-- HIF_F (R365). -/
def blkHIF_F : RegBlock := { base := 0x81000, rows := rowsHIF_F_0 }

/-- HIF_F (R365). -/
def blkHIF_F_VF : RegBlock := { base := 0x1010000, n := 7, stride := 0x10000, rows := rowsHIF_F_0 }

/-- SEC registers, part 0 (R443). -/
def rowsSEC_0 : List RegRow := [
  { off := 0x0, rst := fun _ => 0x80000000 },
  { off := 0x8 },
  { off := 0xC },
  { off := 0x10, wo := 0x1 },
  { off := 0x100 },
  { off := 0x104 },
  { off := 0x108 }]

/-- SEC (R443). -/
def blkSEC : RegBlock := { base := 0x90000, rows := rowsSEC_0 }

/-- MGT registers, part 0 (R390). -/
def rowsMGT_0 : List RegRow := [
  { off := 0x0 },
  { off := 0x4 },
  { off := 0x8, rw := 0xFFFF, rst := fun _ => 0x3E8 },
  { off := 0x40, wo := 0x1 },
  { off := 0x44 },
  { off := 0x100, cnt := 16, rw := 0xFFFFFFFF },
  { off := 0x200 },
  { off := 0x204 }]

/-- MGT (R390). -/
def blkMGT : RegBlock := { base := 0xA0000, rows := rowsMGT_0 }

/-- IOC registers, part 0 (R442). -/
def rowsIOC_0 : List RegRow := [
  { off := 0x0, rst := fun _ => 0x1F },
  { off := 0x4, wo := 0x1F },
  { off := 0x8, rws := 0x1F01, rst := fun _ => 0x1 },
  { off := 0xC, w1c := 0x1 }]

/-- IOC (R442). -/
def blkIOC : RegBlock := { base := 0xB0000, rows := rowsIOC_0 }

/-- SBI registers, part 0 (R442). -/
def rowsSBI_0 : List RegRow := [
  { off := 0x0, rws := 0x100, rst := fun _ => 0x58 },
  { off := 0x4, wo := 0xFFFF },
  { off := 0x8, w1c := 0x7 },
  { off := 0x100 },
  { off := 0x104 },
  { off := 0x108 },
  { off := 0x10C },
  { off := 0x110 }]

/-- SBI (R442). -/
def blkSBI : RegBlock := { base := 0xC0000, rows := rowsSBI_0 }

/-- THM registers, part 0 (R330). -/
def rowsTHM_0 : List RegRow := [
  { off := 0x0, rw := 0xFFFFFFFF, rst := fun _ => 0x640503E8 },
  { off := 0x4, rw := 0xFFFF, rst := fun _ => 0x64 },
  { off := 0x8, rws := 0xFFFF, rst := fun _ => 0x7D0 },
  { off := 0xC },
  { off := 0x40, cnt := 24 },
  { off := 0x100 }]

/-- THM (R330). -/
def blkTHM : RegBlock := { base := 0xD0000, rows := rowsTHM_0 }

/-- ING registers, part 0 (R85). -/
def rowsING_0 : List RegRow := [
  { off := 0x0, rw := 0x1D, wo := 0x2, rst := fun _ => 0x18 },
  { off := 0x4, w1c := 0xC0, rst := fun _ => 0xA },
  { off := 0x8 },
  { off := 0xC, rw := 0x17, rst := fun _ => 0x4 },
  { off := 0x10, rw := 0x1FF },
  { off := 0x14, cnt := 2, rw := 0xFFFFFFFF },
  { off := 0x1C, rw := 0x1FFF1FFF, rst := fun _ => 0x4000400 },
  { off := 0x20, rw := 0xFFFFFFFF, rst := fun _ => 0x60004000 },
  { off := 0x24, rw := 0xFFFFFFFF, rst := fun _ => 0x14 },
  { off := 0x28, rw := 0xFFFFF, rst := fun _ => 0x3E8 },
  { off := 0x2C, rw := 0xFFFFFF00, rst := fun _ => 0xA102000 },
  { off := 0x30, rw := 0x3FFFFFFF }]

/-- ING registers, part 1 (R85). -/
def rowsING_1 : List RegRow := [
  { off := 0x34, rw := 0xFFFFFFFF, rst := fun _ => 0x1F4 },
  { off := 0x40 },
  { off := 0x44 },
  { off := 0x48 },
  { off := 0x4C },
  { off := 0x50 },
  { off := 0x80 },
  { off := 0x84 },
  { off := 0x88 },
  { off := 0x8C },
  { off := 0x90 },
  { off := 0x94 }]

/-- ING registers, part 2 (R85). -/
def rowsING_2 : List RegRow := [
  { off := 0x98 },
  { off := 0x9C },
  { off := 0xA0 },
  { off := 0xA4 },
  { off := 0xA8 },
  { off := 0xAC },
  { off := 0xB0 },
  { off := 0xB4 },
  { off := 0xB8 },
  { off := 0xBC },
  { off := 0xC0 },
  { off := 0xC4 }]

/-- ING registers, part 3 (R85). -/
def rowsING_3 : List RegRow := [
  { off := 0xC8 },
  { off := 0xCC },
  { off := 0xD0 },
  { off := 0xD4 },
  { off := 0x100, cnt := 32, rw := 0xFFFFFFFF },
  { off := 0x200, cnt := 16 },
  { off := 0x240 },
  { off := 0x300, rw := 0x107 },
  { off := 0x304, rw := 0x7F3F3F, w1s := 0x80000000 },
  { off := 0x308, w1c := 0x18 },
  { off := 0x320, cnt := 8, rw := 0xFFFFFFFF }]

/-- ING (R85). -/
def blkING : RegBlock := { base := 0x100000, n := 16, stride := 0x1000, rows := rowsING_0 ++ rowsING_1 ++ rowsING_2 ++ rowsING_3 }

/-- FMAP registers, part 0 (R64). -/
def rowsFMAP_0 : List RegRow := [
  { off := 0x0, rw := 0xFFFF, rst := fun _ => 0x1 },
  { off := 0x4, rw := 0xFFFF, rst := fun _ => 0x3E8 },
  { off := 0x40, cnt := 16, st := 8, rw := 0xFFFFFF7F },
  { off := 0x44, cnt := 16, st := 8, rw := 0xFFFFFF00 }]

/-- FMAP (R64). -/
def blkFMAP : RegBlock := { base := 0x120000, n := 8, stride := 0x100, rows := rowsFMAP_0 }

/-- FMAP_G registers, part 0 (R85). -/
def rowsFMAP_G_0 : List RegRow := [
  { off := 0x0, w1c := 0x1 }]

/-- FMAP_G (R85). -/
def blkFMAP_G : RegBlock := { base := 0x120800, rows := rowsFMAP_G_0 }

/-- FE registers, part 0 (R115). -/
def rowsFE_0 : List RegRow := [
  { off := 0x0, rw := 0xF, w1s := 0x20, wo := 0x10, rst := fun _ => 0xF },
  { off := 0x4, w1c := 0x19, rst := fun _ => 0x2 },
  { off := 0x8, rw := 0xFFFFFFFF, rst := fun _ => 0x3E80019 },
  { off := 0xC, rw := 0xFFFFFFFF, rst := fun _ => 0x3E8 },
  { off := 0x10, rw := 0xFFFFFFC0 },
  { off := 0x14, rw := 0xFF },
  { off := 0x18, rw := 0x1FFF1FFF, rst := fun _ => 0x10000000 },
  { off := 0x1C, rw := 0xFFFFFFFF, rst := fun _ => 0x15B40F06 },
  { off := 0x20, rw := 0xF, rst := fun _ => 0x4 },
  { off := 0x24, rw := 0x1F1FFF0F, rst := fun _ => 0x8046304 },
  { off := 0x28, rw := 0x1FFFFF, rst := fun _ => 0x509C4 },
  { off := 0x2C, rw := 0xFFFF, rst := fun _ => 0x8 }]

/-- FE registers, part 1 (R115). -/
def rowsFE_1 : List RegRow := [
  { off := 0x30, rw := 0xFFFFF, rst := fun _ => 0x4E20 },
  { off := 0x34, rw := 0xF, rst := fun _ => 0x7 },
  { off := 0x40, rw := 0xFFFFFFFF, rst := fun _ => 0x5A80B4FF },
  { off := 0x44, rw := 0xFFFFFFFF, rst := fun _ => 0x17202D40 },
  { off := 0x48, rw := 0xFFFFFFFF, rst := fun _ => 0x6080B10 },
  { off := 0x4C, rw := 0xFFFFFFFF, rst := fun _ => 0x1020304 },
  { off := 0x80 },
  { off := 0x84 },
  { off := 0x88 },
  { off := 0x8C },
  { off := 0x90 },
  { off := 0x94 }]

/-- FE registers, part 2 (R115). -/
def rowsFE_2 : List RegRow := [
  { off := 0x98 },
  { off := 0x9C },
  { off := 0xA0 },
  { off := 0xA4 },
  { off := 0xA8 },
  { off := 0xAC },
  { off := 0xB0 },
  { off := 0xB4 },
  { off := 0xB8 }]

/-- FE (R115). -/
def blkFE : RegBlock := { base := 0x140000, n := 4, stride := 0x10000, n2 := 4, stride2 := 0x2000, rows := rowsFE_0 ++ rowsFE_1 ++ rowsFE_2 }

/-- FE_D registers, part 0 (R115). -/
def rowsFE_D_0 : List RegRow := [
  { off := 0x0, rw := 0x7070707, rst := fun _ => 0x3020100 },
  { off := 0x10, rw := 0x1F1F1F1F, rst := fun _ => 0x3020100 },
  { off := 0x14, rw := 0x1F1F1F1F, rst := fun _ => 0x7060504 },
  { off := 0x18, rw := 0x1F1F1F1F, rst := fun _ => 0xB0A0908 },
  { off := 0x1C, rw := 0x1F1F1F1F, rst := fun _ => 0xF0E0D0C },
  { off := 0x20, w1c := 0x1 }]

/-- FE_D (R115). -/
def blkFE_D : RegBlock := { base := 0x148000, n := 4, stride := 0x10000, rows := rowsFE_D_0 }

/-- ENG_D registers, part 0 (R144). -/
def rowsENG_D_0 : List RegRow := [
  { off := 0x0, rw := 0xFFFF0001, rst := fun _ => 0x3E80001 },
  { off := 0x4, w1c := 0x4 }]

/-- ENG_D (R144). -/
def blkENG_D : RegBlock := { base := 0x180000, n := 4, stride := 0x10000, rows := rowsENG_D_0 }

/-- TLE registers, part 0 (R144). -/
def rowsTLE_0 : List RegRow := [
  { off := 0x0, w1c := 0x2 },
  { off := 0x10 },
  { off := 0x14 },
  { off := 0x18 },
  { off := 0x1C }]

/-- TLE (R144). -/
def blkTLE : RegBlock := { base := 0x180800, n := 4, stride := 0x10000, n2 := 2, stride2 := 0x100, rows := rowsTLE_0 }

/-- ENG registers, part 0 (R144). -/
def rowsENG_0 : List RegRow := [
  { off := 0x0, wo := 0x1 },
  { off := 0x4 },
  { off := 0x8 },
  { off := 0xC, w1c := 0xF },
  { off := 0x40 },
  { off := 0x44 },
  { off := 0x48 },
  { off := 0x4C },
  { off := 0x50 },
  { off := 0x54 },
  { off := 0x58 },
  { off := 0x5C }]

/-- ENG (R144). -/
def blkENG : RegBlock := { base := 0x181000, n := 4, stride := 0x10000, n2 := 18, stride2 := 0x200, rows := rowsENG_0 }

/-- MOT_ENC registers, part 0 (R197). -/
def rowsMOT_ENC_0 : List RegRow := [
  { off := 0x0, rw := 0xFFFF0F0D, wo := 0x30, rst := fun _ => 0xA0900 },
  { off := 0x4, w1c := 0xE },
  { off := 0x8 },
  { off := 0xC },
  { off := 0x10 },
  { off := 0x14 },
  { off := 0x18, rw := 0xFFFFFFFF, rst := fun _ => 0xF424000 },
  { off := 0x1C, rw := 0xFFFFFFFF },
  { off := 0x20, rw := 0xFFFFFFFF },
  { off := 0x24 },
  { off := 0x28 },
  { off := 0x30 }]

/-- MOT_ENC registers, part 1 (R197). -/
def rowsMOT_ENC_1 : List RegRow := [
  { off := 0x34 },
  { off := 0x38 },
  { off := 0x3C },
  { off := 0x40, rw := 0xFFFFFFFF },
  { off := 0x44, rw := 0xFFFF },
  { off := 0x50 },
  { off := 0x54 },
  { off := 0x58 },
  { off := 0x5C }]

/-- MOT_ENC (R197). -/
def blkMOT_ENC : RegBlock := { base := 0x1C0000, n := 4, stride := 0x100, rows := rowsMOT_ENC_0 ++ rowsMOT_ENC_1 }

/-- MOT_IMU registers, part 0 (R207). -/
def rowsMOT_IMU_0 : List RegRow := [
  { off := 0x0, rw := 0xFF1F, rst := fun _ => 0x3B10 },
  { off := 0x4, rw := 0xFF1F030F, rst := fun _ => 0xC0001 },
  { off := 0x8, cnt := 2, rw := 0xFFFFFFFF },
  { off := 0x10, rw := 0xFFFFFFFF, rst := fun _ => 0x2710 },
  { off := 0x14, rw := 0x177, rst := fun _ => 0x77 },
  { off := 0x18, w1c := 0x1C, rst := fun _ => 0x2 },
  { off := 0x20, cnt := 4 },
  { off := 0x40, cnt := 8 },
  { off := 0x60 },
  { off := 0x64 },
  { off := 0x80 },
  { off := 0x84 }]

/-- MOT_IMU registers, part 1 (R207). -/
def rowsMOT_IMU_1 : List RegRow := [
  { off := 0x88 },
  { off := 0x8C }]

/-- MOT_IMU (R207). -/
def blkMOT_IMU : RegBlock := { base := 0x1C1000, n := 4, stride := 0x200, rows := rowsMOT_IMU_0 ++ rowsMOT_IMU_1 }

/-- MOT_FIR registers, part 0 (R210). -/
def rowsMOT_FIR_0 : List RegRow := [
  { off := 0x0, cnt := 1018 }]

/-- MOT_FIR (R210). -/
def blkMOT_FIR : RegBlock := { base := 0x1C4000, rows := rowsMOT_FIR_0 }

/-- FUS registers, part 0 (R253). -/
def rowsFUS_0 : List RegRow := [
  { off := 0x0, rw := 0xFF3F, rst := fun _ => 0x2 },
  { off := 0x4, w1c := 0xC },
  { off := 0x8, rw := 0xFFFFFFF8, rst := fun _ => 0xA4000 },
  { off := 0xC, rw := 0xFFFFFFFF, rst := fun _ => 0x7D001F4 },
  { off := 0x10 },
  { off := 0x14, rw := 0xFFFF, rst := fun _ => 0x20 },
  { off := 0x18, rw := 0xFFFFFFFF, rst := fun _ => 0x80000000 },
  { off := 0x1C, rw := 0xFFFFFFFF, rst := fun _ => 0x7FFFFFFF },
  { off := 0x20, rw := 0xFFFFFFFF, rst := fun _ => 0x80000000 },
  { off := 0x24, rw := 0xFFFFFFFF, rst := fun _ => 0x7FFFFFFF },
  { off := 0x28, rw := 0xFFFFFFFF, rst := fun _ => 0x403E8 },
  { off := 0x100, cnt := 16, st := 16, rw := 0xC00003FF }]

/-- FUS registers, part 1 (R253). -/
def rowsFUS_1 : List RegRow := [
  { off := 0x104, cnt := 16, st := 16, rw := 0xFFFFFFFF },
  { off := 0x108, cnt := 16, st := 16, rw := 0xFFFFFFFF },
  { off := 0x200 },
  { off := 0x204 },
  { off := 0x208 },
  { off := 0x20C },
  { off := 0x210 },
  { off := 0x214 },
  { off := 0x218 },
  { off := 0x21C },
  { off := 0x220 },
  { off := 0x224 }]

/-- FUS registers, part 2 (R253). -/
def rowsFUS_2 : List RegRow := [
  { off := 0x228 },
  { off := 0x22C },
  { off := 0x230 },
  { off := 0x234 },
  { off := 0x238 },
  { off := 0x23C },
  { off := 0x240 },
  { off := 0x244 },
  { off := 0x248 },
  { off := 0x24C },
  { off := 0x250 },
  { off := 0x254 }]

/-- FUS registers, part 3 (R253). -/
def rowsFUS_3 : List RegRow := [
  { off := 0x258 },
  { off := 0x25C }]

/-- FUS (R253). -/
def blkFUS : RegBlock := { base := 0x1D0000, rows := rowsFUS_0 ++ rowsFUS_1 ++ rowsFUS_2 ++ rowsFUS_3 }

/-- FUS_F registers, part 0 (R253). -/
def rowsFUS_F_0 : List RegRow := [
  { off := 0x0, rst := fun i => (if i = 0 then 16384 else 0) * 65536 },
  { off := 0x4, rw := 0xFFFFFFFF, rst := fun _ => 0x9008000 },
  { off := 0x8, rw := 0xFFFFFFFF, rst := fun _ => 0x6000600 },
  { off := 0xC, rw := 0xFFFFFFFF, rst := fun _ => 0x3010014 },
  { off := 0x10, rw := 0xFFFFFFFF, rst := fun _ => 0x11170 },
  { off := 0x14, rw := 0xFF0FFFFF, rst := fun _ => 0x8030002 },
  { off := 0x18, rw := 0xFFFFFFFF, rst := fun _ => 0x64 },
  { off := 0x1C, rw := 0xFFFFFFFF, rst := fun _ => 0x100 },
  { off := 0x20, rw := 0xFFFFFFFF, rst := fun _ => 0x10 },
  { off := 0x24, rw := 0xFFFFFFFF, rst := fun _ => 0x6400 },
  { off := 0x28, rw := 0xFFFF, rst := fun _ => 0x2710 },
  { off := 0x40, cnt := 64, rw := 0xFFFFFFFF }]

/-- FUS_F (R253). -/
def blkFUS_F : RegBlock := { base := 0x1D1000, n := 8, stride := 0x100, rows := rowsFUS_F_0 }

/-- FUS_P registers, part 0 (R253). -/
def rowsFUS_P_0 : List RegRow := [
  { off := 0x0, rw := 0xFFFFFFFF, rst := fun _ => 0x57E4 },
  { off := 0x4, cnt := 4, rw := 0xFFFFFFFF },
  { off := 0x14, rw := 0xBFFC001F, rst := fun _ => 0x10000A },
  { off := 0x18, rw := 0xFFFFFFFF },
  { off := 0x1C, rw := 0xFFFFFFFF },
  { off := 0x20, rw := 0xFFFFFFFF, rst := fun _ => 0x1F40 },
  { off := 0x24 },
  { off := 0x40, cnt := 18 }]

/-- FUS_P (R253). -/
def blkFUS_P : RegBlock := { base := 0x1D4000, n := 16, stride := 0x100, rows := rowsFUS_P_0 }

/-- ACT registers, part 0 (R299). -/
def rowsACT_0 : List RegRow := [
  { off := 0x0, rw := 0x1, rst := fun _ => 0x1 },
  { off := 0x4, rw := 0xFFFFFFFF, rst := fun _ => 0x6407D0 },
  { off := 0x8 },
  { off := 0x10, cnt := 8, rw := 0xFF, rst := fun i => (if i = 0 then 0xFF else 0) * 1 },
  { off := 0x40 },
  { off := 0x44 },
  { off := 0x48 },
  { off := 0x4C },
  { off := 0x50 },
  { off := 0x54 },
  { off := 0x58 },
  { off := 0x5C }]

/-- ACT registers, part 1 (R299). -/
def rowsACT_1 : List RegRow := [
  { off := 0x1000, cnt := 2048 }]

/-- ACT (R299). -/
def blkACT : RegBlock := { base := 0x1E0000, rows := rowsACT_0 ++ rowsACT_1 }

/-- JNL registers, part 0 (R299). -/
def rowsJNL_0 : List RegRow := [
  { off := 0x0, rw := 0x7, rst := fun _ => 0x7 },
  { off := 0x4, w1c := 0x40 },
  { off := 0x10, rw := 0xFFFFFFFF },
  { off := 0x14, rw := 0xFFFFFFFF },
  { off := 0x18, rw := 0xFFFFFFFF, rst := fun _ => 0x1000000 },
  { off := 0x1C, rw := 0xFFFFFFFF },
  { off := 0x20, rw := 0xFFFFFFFF },
  { off := 0x24, rw := 0xFFFFFFFF },
  { off := 0x28, rw := 0xFFFFFFFF },
  { off := 0x2C, rw := 0xFFFFFFFF },
  { off := 0x30, rw := 0xFFFF, rst := fun _ => 0x180 },
  { off := 0x34, rw := 0xFFFFFFFF, rst := fun _ => 0x40 }]

/-- JNL registers, part 1 (R299). -/
def rowsJNL_1 : List RegRow := [
  { off := 0x38, rw := 0xFFFFFFFF, rst := fun _ => 0x100 },
  { off := 0x3C, rw := 0xFFFFFFFF, rst := fun _ => 0x400 },
  { off := 0x40 },
  { off := 0x44 },
  { off := 0x48 },
  { off := 0x4C },
  { off := 0x50, rw := 0xFFFF0000, rst := fun _ => 0x640000 },
  { off := 0x54, rw := 0xFFFF, rst := fun _ => 0x2710 },
  { off := 0x58 },
  { off := 0x5C, rw := 0xFFFF0000, rst := fun _ => 0x3E80000 },
  { off := 0x60, rw := 0xFFFF, rst := fun _ => 0x100 },
  { off := 0x200 }]

/-- JNL registers, part 2 (R299). -/
def rowsJNL_2 : List RegRow := [
  { off := 0x204 },
  { off := 0x208 },
  { off := 0x20C },
  { off := 0x210 },
  { off := 0x214 },
  { off := 0x218 },
  { off := 0x21C },
  { off := 0x220 },
  { off := 0x224 },
  { off := 0x228 },
  { off := 0x22C }]

/-- JNL (R299). -/
def blkJNL : RegBlock := { base := 0x1F0000, rows := rowsJNL_0 ++ rowsJNL_1 ++ rowsJNL_2 }

/-- JNL_F registers, part 0 (R299). -/
def rowsJNL_F_0 : List RegRow := [
  { off := 0x0, rw := 0xFFFF0001, rst := fun i => (i % 2) * 1 },
  { off := 0x4, rw := 0xC3C03F, rst := fun _ => 0x83C026 },
  { off := 0x8, cnt := 8 }]

/-- JNL_F (R299). -/
def blkJNL_F : RegBlock := { base := 0x1F0100, n := 8, stride := 0x40, rows := rowsJNL_F_0 }

/-- MEM registers, part 0 (R463). -/
def rowsMEM_0 : List RegRow := [
  { off := 0x0, cnt := 16, rw := 0x3, rst := fun _ => 0x1 },
  { off := 0x40, w1c := 0x1 },
  { off := 0x44 },
  { off := 0x48 },
  { off := 0x4C, rw := 0xFF, rst := fun _ => 0x18 },
  { off := 0x80 },
  { off := 0x84 },
  { off := 0x88 },
  { off := 0x8C }]

/-- MEM (R463). -/
def blkMEM : RegBlock := { base := 0x200000, n := 4, stride := 0x10000, rows := rowsMEM_0 }

/-- MSC registers, part 0 (R463). -/
def rowsMSC_0 : List RegRow := [
  { off := 0x0 },
  { off := 0x4 },
  { off := 0x8 }]

/-- MSC (R463). -/
def blkMSC : RegBlock := { base := 0x208000, rows := rowsMSC_0 }

/-- LNK registers, part 0 (R411). -/
def rowsLNK_0 : List RegRow := [
  { off := 0x0, rw := 0xF1, wo := 0x2, rst := fun _ => 0x20 },
  { off := 0x4, w1c := 0x6, rst := fun _ => 0x60 },
  { off := 0x8, rw := 0xFFFFFFFF, rst := fun _ => 0x1E2710 },
  { off := 0xC, rw := 0xFFFFFFFF, rst := fun _ => 0x640814 },
  { off := 0x10, rw := 0xFFFFFFFF },
  { off := 0x14, rw := 0xFFFFFFFF },
  { off := 0x18 },
  { off := 0x1C },
  { off := 0x20 },
  { off := 0x24, rw := 0xFFFFFFFF, rst := fun _ => 0xFEDCBA98 },
  { off := 0x28 },
  { off := 0x2C }]

/-- LNK registers, part 1 (R411). -/
def rowsLNK_1 : List RegRow := [
  { off := 0x100 },
  { off := 0x104 },
  { off := 0x108 },
  { off := 0x10C },
  { off := 0x110 },
  { off := 0x114 },
  { off := 0x118 },
  { off := 0x11C },
  { off := 0x120 },
  { off := 0x124 },
  { off := 0x128 },
  { off := 0x12C }]

/-- LNK registers, part 2 (R411). -/
def rowsLNK_2 : List RegRow := [
  { off := 0x130 },
  { off := 0x134 },
  { off := 0x138 },
  { off := 0x13C },
  { off := 0x140 },
  { off := 0x144 },
  { off := 0x148 }]

/-- LNK (R411). -/
def blkLNK : RegBlock := { base := 0x240000, n := 4, stride := 0x4000, rows := rowsLNK_0 ++ rowsLNK_1 ++ rowsLNK_2 }

/-- NVS registers, part 0 (R463). -/
def rowsNVS_0 : List RegRow := [
  { off := 0x0, rw := 0x1, wo := 0x2, rst := fun _ => 0x1 },
  { off := 0x4 },
  { off := 0x8, rw := 0xFFFFFFFF },
  { off := 0xC, rw := 0xFFFFFFFF },
  { off := 0x10, rw := 0xFFFFFFFF },
  { off := 0x14, rw := 0xFFFFFFFF },
  { off := 0x18, rw := 0xFFFFFFFF, rst := fun _ => 0x1 },
  { off := 0x1C, rw := 0xFFFF, rst := fun _ => 0x64 },
  { off := 0x20 },
  { off := 0x24 },
  { off := 0x28 },
  { off := 0x100 }]

/-- NVS registers, part 1 (R463). -/
def rowsNVS_1 : List RegRow := [
  { off := 0x104 },
  { off := 0x108 },
  { off := 0x10C },
  { off := 0x110 },
  { off := 0x114 },
  { off := 0x118 }]

/-- NVS (R463). -/
def blkNVS : RegBlock := { base := 0x250000, rows := rowsNVS_0 ++ rowsNVS_1 }

/-- FPT registers, part 0 (R438). -/
def rowsFPT_0 : List RegRow := [
  { off := 0x0, cnt := 16384 }]

/-- FPT (R438). -/
def blkFPT : RegBlock := { base := 0x400000, rows := rowsFPT_0 }

/-- FUS_FX registers, part 0 (R253). -/
def rowsFUS_FX_0 : List RegRow := [
  { off := 0x0, cnt := 16, rw := 0xFFFFFFFF }]

/-- FUS_FX (R253). -/
def blkFUS_FX : RegBlock := { base := 0x1D1800, rows := rowsFUS_FX_0 }

/-- FUS_PX registers, part 0 (R253). -/
def rowsFUS_PX_0 : List RegRow := [
  { off := 0x0, cnt := 5, rw := 0xFFFFFFFF }]

/-- FUS_PX (R253): the penalty words 59 to 63 of FN0 to FN6, which lie on the next function's page where it has no register. -/
def blkFUS_PX : RegBlock := { base := 0x1D112C, n := 7, stride := 0x100, rows := rowsFUS_PX_0 }

/-- JNL_F4 registers, part 0 (R299). -/
def rowsJNL_F4_0 : List RegRow := [
  { off := 0x0, rw := 0xFFFF0001, rst := fun i => (i % 2) * 1 },
  { off := 0x4, rw := 0xC3C03F, rst := fun _ => 0x83C026 },
  { off := 0x8, cnt := 8 }]

/-- JNL_F4 (R299). -/
def blkJNL_F4 : RegBlock := { base := 0x2001000, rows := rowsJNL_F4_0 }

/-- Every block. -/
def blocks : List RegBlock :=
  [blkGLB, blkRST, blkPWR, blkPWR_D, blkPWR_R, blkCLK, blkCLK_D, blkTIM] ++
  [blkTIM_TO, blkTIM_TI, blkPTP, blkETH, blkRRT, blkRRT_D, blkHIF, blkHIF_SUM] ++
  [blkHIF_F, blkHIF_F_VF, blkSEC, blkMGT, blkIOC, blkSBI, blkTHM, blkING] ++
  [blkFMAP, blkFMAP_G, blkFE, blkFE_D, blkENG_D, blkTLE, blkENG, blkMOT_ENC] ++
  [blkMOT_IMU, blkMOT_FIR, blkFUS, blkFUS_F, blkFUS_P, blkACT, blkJNL, blkJNL_F] ++
  [blkMEM, blkMSC, blkLNK, blkNVS, blkFPT, blkFUS_FX, blkFUS_PX, blkJNL_F4]

end RegMap

end Sys2Proof.Machine
end

