-- ==== Sys2Proof/Machine/Ops.lean ====
section
/-! DEFINITION. The named operations over the register file, the counter, the free values and the owners. -/

namespace Sys2Proof.Machine

/-! ## Vectors and small helpers -/

/-- Replace element i by f of it. -/
def vmod {α : Type} {n : Nat} (v : Vector α n) (i : Fin n) (f : α → α) : Vector α n := v.set i.1 (f (v.get i)) i.2

/-- Replace element i. -/
def vput {α : Type} {n : Nat} (v : Vector α n) (i : Fin n) (a : α) : Vector α n := v.set i.1 a i.2

/-- Element k of a vector of a positive size, k taken modulo the size. -/
def vat {α : Type} {n : Nat} [NeZero n] (v : Vector α n) (k : Nat) : α := v.get (Fin.ofNat n k)

/-- Bit k of a number. -/
def bitN (v k : Nat) : Bool := v / 2 ^ k % 2 == 1

/-- Bits [hi:lo] of a number. -/
def bitsN (v hi lo : Nat) : Nat := v / 2 ^ lo % 2 ^ (hi + 1 - lo)

/-- A number below 2^w read as two's complement (R8). -/
def toSigned (w v : Nat) : Int := if v % 2 ^ w < 2 ^ (w - 1) then ((v % 2 ^ w : Nat) : Int) else ((v % 2 ^ w : Nat) : Int) - (2 ^ w : Nat)

/-- An integer reduced to w bits. -/
def toBits (w : Nat) (v : Int) : Nat := (v % ((2 ^ w : Nat) : Int)).toNat

/-- clamp to [lo, hi]. -/
def clampI (v lo hi : Int) : Int := if v < lo then lo else if hi < v then hi else v

/-- Upper bound of a saturating count. -/
def satN (v top : Nat) : Nat := if top < v then top else v

/-- 0 acts as 1. -/
def atLeast1 (v : Nat) : Nat := if v = 0 then 1 else v

/-- The integer square root, rounded down, by bisection on w bits. -/
def sqrtN (v : Nat) : Nat → Nat → Nat
  | 0, r => r
  | w + 1, r => let c := r + 2 ^ w; if c * c ≤ v then sqrtN v w c else sqrtN v w r

/-- Apply f for every element of a list, in order. -/
def forEach {α σ : Type} (l : List α) (f : α → σ → σ) (s : σ) : σ := l.foldl (fun t a => f a t) s

/-- The indices of the set bits of a mask below n, ascending. -/
def maskBits (mask n : Nat) : List Nat := (List.range n).filter fun k => bitN mask k

/-! ## The register file (R9, R11, R27) -/

/-- The row, unit and element of an offset inside a block. -/
def RegBlock.lookup (b : RegBlock) (off : Nat) : Option (RegRow × Nat × Nat) :=
  if off < b.base then none
  else
    let rel := off - b.base
    let i := rel / b.stride
    let rel1 := rel % b.stride
    let j := rel1 / b.stride2
    let r := rel1 % b.stride2
    if i < b.n ∧ j < b.n2 then
      match b.rows.find? (fun w => decide (w.off ≤ r) && (r - w.off) % w.st == 0 && decide ((r - w.off) / w.st < w.cnt)) with
      | some w => some (w, i * b.n2 + j, (r - w.off) / w.st)
      | none => none
    else none

/-- The row of an assigned, aligned offset: none where R28 calls it unmapped. -/
def regLookup (off : Nat) : Option (RegRow × Nat × Nat) :=
  RegMap.blocks.findSome? fun b => b.lookup off

/-- What a word reads as after the reset that reaches its block (R9). A row of repeated words takes its reset from the
element, a row of a repeated block from the unit. -/
def regReset (off : Nat) : Word :=
  match regLookup off with
  | some (w, u, k) => BitVec.ofNat 32 (w.rst (if w.cnt = 1 then u else k))
  | none => 0

namespace Mach

/-- The stored word of a register. -/
def rd (m : Mach) (a : Nat) : Word := Tab.get regReset m.regs a

/-- Store a register word. -/
def wr (m : Mach) (a : Nat) (w : Word) : Mach := { m with regs := Tab.set regReset m.regs a w }

/-- A field, unsigned. -/
def g (m : Mach) (f : Fld) : Nat := bitsN (m.rd f.a).toNat f.hi f.lo

/-- A field, two's complement (R8). -/
def gi (m : Mach) (f : Fld) : Int := toSigned (f.hi + 1 - f.lo) (m.g f)

/-- A field that is not zero. -/
def on (m : Mach) (f : Fld) : Bool := m.g f != 0

/-- Write a field, leaving the word's other bits. -/
def put (f : Fld) (v : Nat) (m : Mach) : Mach :=
  let old := (m.rd f.a).toNat
  let w := f.hi + 1 - f.lo
  m.wr f.a (BitVec.ofNat 32 (old - bitsN old f.hi f.lo * 2 ^ f.lo + v % 2 ^ w * 2 ^ f.lo))

/-- Set a one-bit field. -/
def set1 (f : Fld) (m : Mach) : Mach := m.put f 1

/-- Clear a field. -/
def clr (f : Fld) (m : Mach) : Mach := m.put f 0

/-- Add to a counter or field, wrapping at its width. -/
def addTo (f : Fld) (k : Nat) (m : Mach) : Mach := m.put f (m.g f + k)

/-- Count one. -/
def inc (f : Fld) (m : Mach) : Mach := m.addTo f 1

/-- A 64-bit value in two registers, low word first. -/
def g64 (m : Mach) (lo hi : Nat) : Nat := (m.rd lo).toNat + (m.rd hi).toNat * 2 ^ 32

/-- The same, two's complement. -/
def gi64 (m : Mach) (lo hi : Nat) : Int := toSigned 64 (m.g64 lo hi)

/-- Store a 64-bit value in two registers, low word first. -/
def put64 (lo hi : Nat) (v : Int) (m : Mach) : Mach :=
  (m.wr lo (BitVec.ofNat 32 (toBits 64 v))).wr hi (BitVec.ofNat 32 (toBits 64 v / 2 ^ 32))

/-- Return every register of offsets [lo, hi) to its reset value; with `keepRws`, RWS fields keep theirs (R9). -/
def resetRegs (lo hi : Nat) (keepRws : Bool) (m : Mach) : Mach :=
  { m with regs := m.regs.filterMap fun e =>
      if lo ≤ e.1 ∧ e.1 < hi then
        if keepRws then
          match regLookup e.1 with
          | some (w, _, _) =>
            let mask := BitVec.ofNat 32 w.rws
            let v := (e.2 &&& mask) ||| (regReset e.1 &&& ~~~mask)
            if v = regReset e.1 then none else some (e.1, v)
          | none => none
        else none
      else some e }

/-! ## Free values -/

/-- Draw a fresh open value, unsigned. -/
def drawNat (m : Mach) : Nat × Mach := (Config.freeNat m.draws, { m with draws := m.draws + 1 })

/-- Draw a fresh open value, signed. -/
def drawInt (m : Mach) : Int × Mach := (Config.freeInt m.draws, { m with draws := m.draws + 1 })

/-! ## Outputs -/

/-- Send something outside. -/
def emit (o : Out) (m : Mach) : Mach := { m with out := o :: m.out }

/-! ## The counter (R331) -/

/-- The addend A of one increment, in units of 2^-32 ns; y lies between -1,000,000 and 1,000,000 (R331). -/
def addend (m : Mach) : Int := 4 * 2 ^ 32 + rnd (4 * 2 ^ 32 * clampI m.time.y (-1000000) 1000000) 1000000000

/-- The counter as one number in units of 2^-32 ns. -/
def count64 (m : Mach) : Int := m.time.n * 2 ^ 32 + m.time.f

/-- Elapsed time in ns: station time less every step that was applied. -/
def elapsed (m : Mach) : Int := m.time.n - m.time.stepSum

/-- Put a counter value of units of 2^-32 ns. -/
def setCount (v : Int) (m : Mach) : Mach :=
  { m with time := { m.time with n := v.fdiv (2 ^ 32), f := (v.fmod (2 ^ 32)).toNat } }

/-- The least number of increments after which N is at least t. -/
def incsTo (m : Mach) (t : Int) : Nat :=
  if t ≤ m.time.n then 0
  else
    let gap := t * 2 ^ 32 - m.count64
    ((gap + m.addend - 1).fdiv m.addend).toNat

/-- k increments of the counter. -/
def tickClock (k : Nat) (m : Mach) : Mach := m.setCount (m.count64 + k * m.addend)

/-- T32 of an instant. -/
def t32Of (t : Int) : Nat := toBits 32 t

/-- Station time some increments ago: before the last step where that lies nearer (R336, R346). -/
def incsAgo (m : Mach) (k : Nat) : Int :=
  let t := (m.count64 - k * m.addend).fdiv (2 ^ 32)
  match m.time.lastStep with
  | some (_, after) => if t < after then t - m.time.stepBy else t
  | none => t

/-! ## Ticks (R30, R31) -/

/-- Boundary B_k of the values in force (R31). -/
def bnd (m : Mach) (k : Nat) : Int := m.tick.origin + (k : Int) * m.tick.period * 1000

/-- The tick that holds an instant under the values in force (R31). -/
def tnAt (m : Mach) (t : Int) : Int := (t - m.tick.origin).fdiv (m.tick.period * 1000)

/-- The account of a tick. -/
def acct? (m : Mach) (tn : Nat) : Option TickAcct := m.tick.accts.find? fun a => a.tn == tn

/-- Change the account of a tick. -/
def onAcct (tn : Nat) (f : TickAcct → TickAcct) (m : Mach) : Mach :=
  { m with tick := { m.tick with accts := m.tick.accts.map fun a => if a.tn = tn then f a else a } }

/-- Change the account of the running tick. -/
def onRunning (f : TickAcct → TickAcct) (m : Mach) : Mach := m.onAcct m.tick.tn f

/-- A cause of R262 keeps a port from being covered in a tick. -/
def addBad (tn p cause : Nat) (m : Mach) : Mach :=
  m.onAcct tn fun a => if a.bad.contains (p, cause) then a else { a with bad := a.bad ++ [(p, cause)] }

/-- The period, in ns, of a tick: of its account where it has one. -/
def periodOf (m : Mach) (tn : Nat) : Int :=
  match m.acct? tn with
  | some a => a.period * 1000
  | none => m.tick.period * 1000

/-! ## Updates of the parts of State -/

def onPort (p : Fin 16) (f : Port → Port) (m : Mach) : Mach := { m with port := vmod m.port p f }
def onFe (p : Fin 16) (f : Fe → Fe) (m : Mach) : Mach := { m with fe := vmod m.fe p f }
def onEng (e : Fin 72) (f : Engine → Engine) (m : Mach) : Mach := { m with eng := vmod m.eng e f }
def onEnc (n : Fin 4) (f : Encoder → Encoder) (m : Mach) : Mach := { m with enc := vmod m.enc n f }
def onImu (n : Fin 4) (f : Imu → Imu) (m : Mach) : Mach := { m with imu := vmod m.imu n f }
def onFn (n : Fin 8) (f : Func → Func) (m : Mach) : Mach := { m with fn := vmod m.fn n f }
def onLvl (d : Fin 4) (f : DieLevel → DieLevel) (m : Mach) : Mach := { m with lvl := vmod m.lvl d f }
def onLink (l : Fin 4) (f : Link → Link) (m : Mach) : Mach := { m with link := vmod m.link l f }
def onDest (d : Fin 8) (f : RrtDest → RrtDest) (m : Mach) : Mach :=
  { m with net := { m.net with dests := vmod m.net.dests d f } }
def onTrig (o : Fin 8) (f : TrigOut → TrigOut) (m : Mach) : Mach :=
  { m with time := { m.time with trigOut := vmod m.time.trigOut o f } }
def onDie (d : Fin 4) (f : DiePlan → DiePlan) (m : Mach) : Mach :=
  { m with rst := { m.rst with dies := vmod m.rst.dies d f } }
def onTime (f : TimeUnit → TimeUnit) (m : Mach) : Mach := { m with time := f m.time }
def onServo (f : Servo → Servo) (m : Mach) : Mach := { m with time := { m.time with servo := f m.time.servo } }
def onTick (f : TickUnit → TickUnit) (m : Mach) : Mach := { m with tick := f m.tick }
def onJnl (f : Journal → Journal) (m : Mach) : Mach := { m with jnl := f m.jnl }
def onFus (f : Fusion → Fusion) (m : Mach) : Mach := { m with fus := f m.fus }
def onLed (f : Ledger → Ledger) (m : Mach) : Mach := { m with led := f m.led }
def onSleep (f : Sleep → Sleep) (m : Mach) : Mach := { m with sleep := f m.sleep }
def onRst (f : ResetUnit → ResetUnit) (m : Mach) : Mach := { m with rst := f m.rst }
def onNvs (f : Store → Store) (m : Mach) : Mach := { m with nvs := f m.nvs }
def onCache (f : Caches → Caches) (m : Mach) : Mach := { m with cache := f m.cache }
def onNet (f : Net → Net) (m : Mach) : Mach := { m with net := f m.net }
def onOwn (f : Owners → Owners) (m : Mach) : Mach := { m with own := f m.own }

/-- Something that R325 counts as activity has happened. -/
def touchIdle (m : Mach) : Mach := m.onSleep fun s => { s with idleFrom := m.elapsed }

/-- The tick watchdog is armed, its count at 0; from step 1 of a final commit it stays disarmed (R40). -/
def armWdog (m : Mach) : Mach := m.onTick fun t => { t with wdogArmed := m.jnl.pf.isNone, wdogCount := 0 }

/-- The entry to S2 is abandoned: ticks resume at the next boundary (R325 step 3). -/
def abandonEntry (m : Mach) : Mach :=
  (m.onSleep fun s => { s with entering := none, stepAt := none }).armWdog

/-! ## Dies, units and owners -/

/-- The compute die that serves a sensor port (R15). -/
def dieOfPort (p : Nat) : Fin 4 := Fin.ofNat 4 (p / 4)

/-- The die of an engine by index 18·d + e (R367). -/
def dieOfEng (e : Nat) : Fin 4 := Fin.ofNat 4 (e / 18)

/-- A die is LOST (R440). -/
def dieLost (m : Mach) (d : Nat) : Bool := (vat m.rst.dies d).lost

/-- The grade's PF device ID, cap ceiling in mW and highest level (R2). -/
def gradeId (m : Mach) : Nat := match m.chip.grade with | .avk4840 => 0x4840 | .avk4828 => 0x4828 | .avk4818 => 0x4818
def gradeCap (m : Mach) : Nat := match m.chip.grade with | .avk4840 => 40000 | .avk4828 => 28000 | .avk4818 => 18000
def gradePl (m : Mach) : Nat := match m.chip.grade with | .avk4840 => 7 | .avk4828 => 5 | .avk4818 => 3

/-- The good mask of an engine in the floor plan (R438). -/
def engGood (m : Mach) (e : Nat) : Bool := (vat m.rst.dies (e / 18)).engGood.getLsbD (e % 18) && !m.dieLost (e / 18)

/-- The sensor-port group of a port stays powered in S2: one of its four ports is enabled (R319, R323). -/
def portGroupOn (m : Mach) (p : Nat) : Bool := (List.range 4).any fun j => m.on (R.ING_CTRL_EN (4 * (p / 4) + j))

/-- A function holds at least one port, role or report ring (R255). -/
def holdsSomething (m : Mach) (f : Fin 8) : Bool :=
  m.own.port.toList.any (· == f) || !(m.fn.get f).roles.cur.binds.isEmpty ||
    (List.range 4).any fun c => m.on (R.HIF_F_RING_CFG_EN f (2 + c))

/-- The functions that receive a package-wide record (R255). -/
def widely (m : Mach) : List (Fin 8) := (List.finRange 8).filter fun f => m.holdsSomething f

/-! ## S1 (R323, R324) -/

/-- A front-end pipeline has no queued work: no word to read, no sweep, no zeroing. -/
def feIdle (m : Mach) (p : Fin 16) : Bool :=
  let x := m.port.get p
  let f := m.fe.get p
  x.reading.isNone && x.vat.isEmpty && f.held.isNone && !f.zeroing && !f.sweeping

/-- An engine has no queued work. -/
def engIdle (m : Mach) (e : Fin 72) : Bool :=
  let x := m.eng.get e
  x.queue.isEmpty && x.run.isNone && !x.loading && !x.inReset && x.arrivals.isEmpty

/-- Every front-end pipeline, engine and thin-layer engine is gated: none of them has queued work, and no population tick runs. -/
def allGated (m : Mach) : Bool :=
  (List.finRange 16).all m.feIdle && (List.finRange 72).all m.engIdle && m.tleq.toList.all (·.isEmpty) &&
    m.tle.toList.all (·.isNone) && m.spikes.isEmpty && m.fn.toList.all fun f => f.popTick.isNone

/-- PWR_STAT.STATE: S1 while everything is gated in S0. The model gates a unit at once and not within 8 of its clocks, and the S1 of a
package that is not READY reads S0 (DESIGN CHOICE, log 87). -/
def shownState (m : Mach) : Nat := if m.sleep.state = 0 ∧ m.rst.ready ∧ m.allGated then 1 else m.sleep.state

/-- The package does work: READY, awake, no reset and no final commit (R55). -/
def working (m : Mach) : Bool :=
  m.rst.ready && m.rst.hold.isNone && m.rst.compute.isNone && m.sleep.state == 0 && m.sleep.entering.isNone && m.jnl.pf.isNone

end Mach

end Sys2Proof.Machine
end

