-- ==== Sys2Proof/Machine/CacheOps.lean ====
section
/-! DEFINITION. The system cache and the synapse caches (R14, R450, R451), and where a journal slot lies in DRAM (R271, R447). -/

namespace Sys2Proof.Machine

/-- The slice of the system cache that an address belongs to (R450). -/
def scSlice (a : Nat) : Nat := (a / 2 ^ 6 ^^^ a / 2 ^ 12 ^^^ a / 2 ^ 18) % 4

/-- The banks of a slice: four each, and five of slice 3, in ascending order (R13; which numbers they have is DEDUCED, log 36). -/
def sliceBanks (s : Nat) : List Nat := (List.range (if s = 3 then 5 else 4)).map (4 * s + ·)

/-- The set of the system cache that holds a line. -/
def scSet (line : Nat) : Nat := 4096 * scSlice (64 * line) + Config.cacheSet line % 4096

/-- The numbers of the lines that n bytes from an address touch. -/
def linesOf (a n : Nat) : List Nat := if n = 0 then [] else (List.range ((a + n - 1) / 64 + 1 - a / 64)).map (a / 64 + ·)

/-- Device address of slot i of the journal copy on die d (R271, R447): offset 64·i of the die's concatenated system regions. -/
def slotAddr (d : Nat) (i : Nat) : Nat :=
  let u := 0x38000000
  (16 * d + 13 + 64 * i / u) * 2 ^ 30 + 64 * i % u

/-- A table of sets without the lines that meet a condition. -/
def dropLines (p : Nat → Bool) (t : Tab (List Nat)) : Tab (List Nat) :=
  (t.map fun e => (e.1, e.2.filter fun l => !p l)).filter fun e => !e.2.isEmpty

/-- The lines of a set. -/
def setLines (t : Tab (List Nat)) (k : Nat) : List Nat := Tab.get (fun _ => []) t k

namespace Mach

/-- Ways of the system cache for a line: four for each good bank of its slice (R14, R450). -/
def scWays (m : Mach) (line : Nat) : Nat := 4 * ((sliceBanks (scSlice (64 * line))).filter fun b => m.rst.scGood.getLsbD b).length

/-- The system cache holds a line. -/
def scHas (m : Mach) (line : Nat) : Bool := (setLines m.cache.sys (scSet line)).contains line

/-- A line is read through the system cache (R450): counted as a hit or a miss, allocated, and the most recently used of its set; the
least recently used line beyond the ways leaves. -/
def scRead (line : Nat) (m : Mach) : Mach :=
  let l := setLines m.cache.sys (scSet line)
  let new := (line :: l.erase line).take (m.scWays line)
  (m.onCache fun c => { c with sys := Tab.set (fun _ => []) c.sys (scSet line) new }).inc (if l.contains line then R.MSC_HIT else R.MSC_MISS)

/-- Lines leave the system cache: a write that passes the hub, or a wash (R450). -/
def scDrop (p : Nat → Bool) (m : Mach) : Mach := m.onCache fun c => { c with sys := dropLines p c.sys }

/-- Good slices of a die's synapse cache (R451). -/
def synSlices (m : Mach) (d : Fin 4) : Nat := ((List.range 9).filter fun k => (m.rst.dies.get d).sliceGood.getLsbD k).length

/-- The set of a die's synapse cache that holds a line: of good slice (a >> 6) mod G (R451). -/
def synSetOf (m : Mach) (d : Fin 4) (line : Nat) : Nat := 1024 * (line % m.synSlices d) + Config.synSet line % 1024

/-- A die's synapse cache holds a line. -/
def synHas (m : Mach) (d : Fin 4) (line : Nat) : Bool := (setLines (m.cache.syn.get d) (m.synSetOf d line)).contains line

/-- A line enters a die's synapse cache, of 8 ways (R451). Which line of a full set it replaces is not stated: a free choice. -/
def synFill (d : Fin 4) (line : Nat) (m : Mach) : Mach :=
  if m.synSlices d = 0 ∨ m.synHas d line then m
  else
    let k := m.synSetOf d line
    let l := setLines (m.cache.syn.get d) k
    let (v, m1) := if l.length < 8 then (0, m) else m.drawNat
    let kept := if l.length < 8 then l else l.eraseIdx (v % 8)
    m1.onCache fun c => { c with syn := vput c.syn d (Tab.put (c.syn.get d) k (kept ++ [line])) }

/-- Lines leave every synapse cache: an image's slot is freed (R451). -/
def synDrop (p : Nat → Bool) (m : Mach) : Mach := m.onCache fun c => { c with syn := c.syn.map (dropLines p) }

end Mach

end Sys2Proof.Machine
end

