-- ==== Sys2Proof/Machine/Operands.lean ====
section
/-! DEFINITION. Operand forms: little-endian fields of byte strings (R7) and the published check codes. -/

namespace Sys2Proof.Machine

/-- Byte i of a byte string; 0 past its end. -/
def byteAt (b : List Byte) (i : Nat) : Nat := ((b[i]?).getD 0).toNat

/-- n bytes from offset i, little-endian (R7). -/
def leN (b : List Byte) (i : Nat) : Nat → Nat
  | 0 => 0
  | n + 1 => byteAt b i + 256 * leN b (i + 1) n

/-- Signed little-endian field of n bytes. -/
def leI (b : List Byte) (i n : Nat) : Int := toSigned (8 * n) (leN b i n)

/-- n bytes from offset i: what lies past the end reads 0. -/
def sliceB (b : List Byte) (i n : Nat) : List Byte :=
  let t := (b.drop i).take n
  t ++ List.replicate (n - t.length) 0

/-- The n little-endian bytes of a number. -/
def bytesOf : Nat → Nat → List Byte
  | 0, _ => []
  | n + 1, v => BitVec.ofNat 8 v :: bytesOf n (v / 256)

/-- The n little-endian bytes of an integer. -/
def bytesOfI (n : Nat) (v : Int) : List Byte := bytesOf n (toBits (8 * n) v)

/-- Bytes are all zero. -/
def allZero (b : List Byte) : Bool := b.all (· == 0)

/-- The largest r below 2^bits, over what is found so far, whose k-th power does not exceed v. -/
def floorRoot (k v : Nat) : Nat → Nat → Nat
  | 0, found => found
  | bits + 1, found => floorRoot k v bits (if (found + 2 ^ bits) ^ k ≤ v then found + 2 ^ bits else found)

/-- One bit of the reflected CRC-32C register (Castagnoli polynomial, PRESUMED standard, log entry 10). -/
def crcBit (c : BitVec 32) : BitVec 32 := if c.getLsbD 0 then (c >>> 1) ^^^ 0x82F63B78#32 else c >>> 1

/-- One byte into the CRC-32C register. -/
def crcByte (c : BitVec 32) (b : Byte) : BitVec 32 :=
  crcBit (crcBit (crcBit (crcBit (crcBit (crcBit (crcBit (crcBit (c ^^^ b.zeroExtend 32))))))))

/-- CRC-32C of a byte string: initial all ones, reflected, final complement. -/
def crc32c (b : List Byte) : BitVec 32 := ~~~ (b.foldl crcByte 0xFFFFFFFF#32)

/-! ## SHA-256 and HMAC (R358; FIPS 180-4 and RFC 2104, PRESUMED standards, log entry 10)

The standard's constants are computed from what it says they are: the first 32 bits of the fractional parts of the cube roots
of the first 64 primes, and of the square roots of the first 8. The message schedule is a window of sixteen words that moves on
with the rounds. -/

namespace Sha

/-- The primes below 312: the first 64. -/
def primes : List Nat := (List.range 312).filter fun n => 2 ≤ n && (List.range 18).all fun d => d < 2 || n ≤ d || n % d != 0

/-- 32 bits of the fractional part of the k-th root of p. -/
def frac (k p : Nat) : BitVec 32 := BitVec.ofNat 32 (floorRoot k (p * 2 ^ (32 * k)) 37 0)

/-- The combination of three rotations. -/
def spin (x : BitVec 32) (i j k : Nat) : BitVec 32 := x.rotateRight i ^^^ x.rotateRight j ^^^ x.rotateRight k

/-- The combination of two rotations and a shift. -/
def slide (x : BitVec 32) (i j k : Nat) : BitVec 32 := (x >>> k) ^^^ x.rotateRight i ^^^ x.rotateRight j

/-- One bit of each place by the choice of the first operand, and by the majority of the three. -/
def choose (x y z : BitVec 32) : BitVec 32 := z ^^^ (x &&& (y ^^^ z))
def major (x y z : BitVec 32) : BitVec 32 := (x &&& y) ||| (z &&& (x ||| y))

/-- The eight working words. -/
structure Work where
  lo : Vector (BitVec 32) 4
  hi : Vector (BitVec 32) 4

/-- One round: `kw` is the round's constant plus its schedule word. -/
def Work.turn (v : Work) (kw : BitVec 32) : Work :=
  let mix := v.hi[3] + spin v.hi[0] 6 11 25 + choose v.hi[0] v.hi[1] v.hi[2] + kw
  { lo := #v[mix + spin v.lo[0] 2 13 22 + major v.lo[0] v.lo[1] v.lo[2], v.lo[0], v.lo[1], v.lo[2]],
    hi := #v[v.lo[3] + mix, v.hi[0], v.hi[1], v.hi[2]] }

/-- The rounds of a block, over the window of the next sixteen schedule words. -/
def turns : List Nat → List (BitVec 32) → Work → Work
  | p :: ps, w :: win, v =>
    let next := slide ((win[13]?).getD 0) 17 19 10 + (win[8]?).getD 0 + slide ((win[0]?).getD 0) 7 18 3 + w
    turns ps (win ++ [next]) (v.turn (frac 3 p + w))
  | _, _, v => v

/-- The big-endian number of a byte string. -/
def beN (b : List Byte) : Nat := b.foldl (fun acc x => acc * 256 + x.toNat) 0

/-- Compress one 64-byte block. -/
def block (v : Work) (b : List Byte) : Work :=
  let win := (List.range 16).map fun i => BitVec.ofNat 32 (beN ((b.drop (4 * i)).take 4))
  let u := turns primes win v
  { lo := Vector.zipWith (· + ·) v.lo u.lo, hi := Vector.zipWith (· + ·) v.hi u.hi }

/-- The working words before the first block. -/
def start : Work := { lo := #v[frac 2 2, frac 2 3, frac 2 5, frac 2 7], hi := #v[frac 2 11, frac 2 13, frac 2 17, frac 2 19] }

/-- The bytes of a number, big-endian. -/
def be (n v : Nat) : List Byte := (bytesOf n v).reverse

/-- The hash of a byte string, 32 bytes: a 1 bit, zeros and the length in bits fill the last block. -/
def hash (m : List Byte) : List Byte :=
  let full := m ++ 0x80 :: List.replicate ((119 - m.length % 64) % 64) 0 ++ be 8 (8 * m.length)
  let v := (List.range (full.length / 64)).foldl (fun acc i => block acc ((full.drop (64 * i)).take 64)) start
  (v.lo.toList ++ v.hi.toList).flatMap fun w => be 4 w.toNat

/-- HMAC of a message under a 32-byte key. -/
def hmac (key msg : List Byte) : List Byte :=
  let pad := fun (x : Byte) => (key ++ List.replicate (64 - key.length) 0).map (x ^^^ ·)
  hash (pad 0x5C ++ hash (pad 0x36 ++ msg))

end Sha

end Sys2Proof.Machine
end

