-- ==== Sys2Proof/Machine/Layout.lean ====
section
/-! DEFINITION. The bytes of what leaves the package or lies in its memories: report records, event words, curds, commit groups, the
snapshot, completions, tap entries (R7, R76, R111, R172, R254 to R266, R274, R287, R293, R374, R381, R382, R458). -/

namespace Sys2Proof.Machine

/-! ## Helpers -/

/-- A flag at bit k of a number. -/
def b2n (b : Bool) (k : Nat) : Nat := b.toNat * 2 ^ k

/-- n zero bytes. -/
def zeros (n : Nat) : List Byte := List.replicate n 0

/-- The code of a time quality (R254). -/
def Quality.code : Quality → Nat
  | .locked => 0 | .holdover => 1 | .free => 2 | .stepped => 3

/-- The index of the highest score outside `skip`; lowest index on a tie (R124). -/
def topScore (s : List Int) (skip : Option Nat) : Nat :=
  (s.zipIdx.foldl (fun (b : Option (Int × Nat)) a =>
    if some a.2 = skip then b
    else match b with
      | some x => if x.1 < a.1 then some a else b
      | none => some a) none).elim 0 (·.2)

/-- The index of the largest entry other than `skip`, the lowest on a tie (R237, R258). -/
def topHist (h : List Nat) (skip : Option Nat) : Nat :=
  ((h.mapIdx fun i v => (i, v)).foldl (fun (b : Option (Nat × Nat)) x =>
    if some x.1 = skip then b else match b with | some y => if y.2 < x.2 then some x else b | none => some x) none).elim 0 (·.1)

/-- MARGIN of a list of scores (R124). -/
def marginOf (s : List Int) : Nat :=
  let top := topScore s none
  (((s[top]?).getD 0) - ((s[topScore s (some top)]?).getD 0)).toNat

/-- CID: PKG and SERIAL (R227). -/
def Comet.cid (c : Comet) : Nat := c.pkg * 2 ^ 24 + c.serial

/-- The ID of an entry: GEN and SLOT (R287). -/
def Action.id (a : Action) : Nat := a.gen % 2 ^ 20 * 4096 + a.slot

/-- A length in units of 16 µm, rounded down, saturating (R258). -/
def len16 (v : Nat) : Nat := satN (v / 16) 65535

/-- The standard deviation of a variance in µm, rounded down, saturating (R258). -/
def sigma16 (v : Nat) : Nat := floorRoot 2 v 16 0

/-- What an MD that is not known reads as (R262, R263). -/
def mdNone : Int := -(2 ^ 63)

/-! ## Event words and curds (R76, R111) -/

/-- The 64-bit event word (R76). -/
def EvWord.word (e : EvWord) : BitVec 64 :=
  BitVec.ofNat 64 (b2n e.unchecked 63 + b2n e.coarse 62 + e.t32 % 2 ^ 32 * 2 ^ 30 + b2n e.region 29 + e.port % 16 * 2 ^ 25 + b2n e.pol 24 +
    e.y % 4096 * 4096 + e.x % 4096)

/-- The 64 bytes of a curd (R111). -/
def Curd.bytes (c : Curd) : List Byte :=
  bytesOf 6 c.tn ++
  bytesOf 2 (c.port * 4096 + b2n c.edge 4 + b2n c.unchecked 3 + b2n c.coarse 2 + b2n c.overflow 1 + b2n c.patch 0) ++
  bytesOf 2 (c.index % 1024) ++ bytesOf 2 c.cells ++ bytesOf 2 c.xMin ++ bytesOf 2 c.yMin ++ bytesOf 2 c.xMax ++ bytesOf 2 c.yMax ++
  bytesOf 2 c.cx ++ bytesOf 2 c.cy ++ bytesOf 4 c.evOff ++ bytesOf 4 c.evOn ++ bytesOfI 4 c.tMean ++ bytesOfI 4 c.tFirst ++
  bytesOfI 4 c.tLast ++ bytesOfI 2 c.vx ++ bytesOfI 2 c.vy ++ bytesOf 4 c.flowN ++ bytesOf 4 c.corners ++ bytesOf 5 c.patchAddr ++ zeros 3

/-! ## Record bodies (R172, R258 to R266) -/

/-- Bytes 0x10 to 0x3F of COMET_UPDATE and COMET_FINAL (R258). -/
def cometBody (final : Bool) (c : Comet) (cause ticks : Nat) : List Byte :=
  let second := topHist c.hist (some c.cls)
  let h := fun (i : Nat) => (c.hist[i]?).getD 0
  bytesOf 4 c.cid ++ bytesOf 1 ((if final then cause else c.state) * 16 + c.cls) ++
  bytesOf 1 (b2n c.clsValid 7 + b2n c.kinematic 6 + b2n c.remote 5 + b2n c.hoPend 4 + c.port % 16) ++ bytesOf 1 c.hits ++
  bytesOf 1 (if final then second * 16 else 0) ++ bytesOfI 8 c.tLast ++ bytesOfI 8 c.md ++ bytesOfI 4 c.cd ++ bytesOf 4 c.age ++
  (if final then bytesOf 2 (h c.cls) ++ bytesOf 2 (h second) else bytesOfI 4 c.vmd) ++
  (if final then bytesOf 4 ticks else bytesOfI 4 c.vcd) ++
  bytesOf 2 (len16 c.lenMd) ++ bytesOf 2 (len16 c.widCd) ++ bytesOf 2 (sigma16 c.pMd) ++ bytesOf 2 (sigma16 c.pCd)

/-- Bytes 0x10 to 0x3F of CURD (R259). -/
def curdBody (c : Curd) (meas : Option (Int × Int)) (size : Option (Nat × Nat)) (cid : Nat) (assigned : Bool) : List Byte :=
  let s := (c.score.map (·.1)).getD []
  let (md, cd) := meas.getD (0, 0)
  let (l, w) := size.getD (0, 0)
  bytesOf 6 c.tn ++ bytesOf 2 (c.port * 4096 + c.index % 1024) ++
  bytesOf 1 (topScore s none * 16 + b2n c.score.isSome 3 + b2n c.overflow 2 + b2n meas.isSome 1 + b2n assigned 0) ++
  bytesOf 1 (marginOf s) ++ bytesOf 2 c.cells ++ bytesOf 2 c.cx ++ bytesOf 2 c.cy ++ bytesOfI 8 md ++ bytesOfI 4 cd ++
  bytesOf 4 (c.evOff + c.evOn) ++ bytesOfI 4 c.tMean ++ bytesOfI 2 c.vx ++ bytesOfI 2 c.vy ++ bytesOf 4 cid ++
  bytesOf 2 (len16 l) ++ bytesOf 2 (len16 w)

/-- The numbers of a TICK_SUMMARY, each with the width of its field (R260). -/
def summaryNumbers (a : TickAcct) (skipped : Nat) : List (Nat × Nat) :=
  [(a.length.toNat, 32), (skipped, 16), (a.events, 26), (a.whey, 26), (a.kinematic, 12), (a.stragglers, 12), (a.early, 12), (a.dropRoi, 8),
   (a.dropNorm, 8), (a.refused, 8), (a.late, 8), (a.curds, 14), (a.abandoned, 13), (a.ovf, 5), ((a.energy / 1000).toNat, 16),
   ((a.budget / 1000).toNat, 16)]

/-- SAT: some number exceeds its field (R260). -/
def summarySat (a : TickAcct) (skipped : Nat) : Bool := (summaryNumbers a skipped).any fun x => decide (2 ^ x.2 ≤ x.1)

/-- Bytes 0x10 to 0x3F of TICK_SUMMARY, each number held at its field's maximum (R260). -/
def summaryBody (a : TickAcct) (skipped coverage : Nat) : List Byte :=
  let f := fun (v w : Nat) => satN v (2 ^ w - 1)
  bytesOf 6 a.tn ++ bytesOf 2 (b2n a.overrun 15 + b2n a.stepped 14 + b2n a.jump 13 + b2n (summarySat a skipped) 12) ++ bytesOfI 8 a.start ++
  bytesOf 4 (f a.length.toNat 32) ++ bytesOf 4 (f skipped 16 * 2 ^ 16 + coverage % 2 ^ 16) ++
  bytesOf 8 (f a.events 26 * 2 ^ 38 + f a.whey 26 * 2 ^ 12 + f a.kinematic 12) ++
  bytesOf 4 (f a.stragglers 12 * 2 ^ 20 + f a.early 12 * 2 ^ 8 + a.level % 8 * 16 + b2n a.edge 3) ++
  bytesOf 4 (f a.dropRoi 8 * 2 ^ 24 + f a.dropNorm 8 * 2 ^ 16 + f a.refused 8 * 2 ^ 8 + f a.late 8) ++
  bytesOf 4 (f a.curds 14 * 2 ^ 18 + f a.abandoned 13 * 2 ^ 5 + f a.ovf 5) ++
  bytesOf 4 (f (a.energy / 1000).toNat 16 * 2 ^ 16 + f (a.budget / 1000).toNat 16)

/-- The 32 bytes of a HEALTH record's detail. No rule gives a layout: RESET_DONE holds the cause in two bytes and the length of each
step in three, and every other code's numbers stand in eight bytes each (DESIGN CHOICE, log entry 49). -/
def detailBytes (code : Nat) (l : List Nat) : List Byte :=
  let b := match code, l with
    | 0x0401, cause :: steps => bytesOf 2 cause ++ steps.flatMap (bytesOf 3)
    | _, _ => l.flatMap (bytesOf 8)
  sliceB b 0 32

/-- Bytes 0x10 to 0x3F of a record (R172, R258 to R266). -/
def Body.bytes : Body → List Byte
  | .comet final c cause _ ticks => cometBody final c cause ticks
  | .curd c meas size cid assigned => curdBody c meas size cid assigned
  | .summary a skipped coverage => summaryBody a skipped coverage
  | .gap first port cause causes warming unknown isOpen ticks cid mdFrom mdTo cdFrom cdTo packets =>
    bytesOf 6 first ++ bytesOf 2 (port * 4096 + cause * 256 + b2n warming 7 + b2n unknown 6 + b2n isOpen 5) ++ bytesOf 4 ticks ++ bytesOf 4 cid ++
    bytesOfI 8 mdFrom ++ bytesOfI 8 mdTo ++ bytesOfI 4 cdFrom ++ bytesOfI 4 cdTo ++ bytesOf 4 packets ++ bytesOf 2 causes ++ zeros 2
  | .action _ id out kind enc late overlap cause width trigger actual mdAt origRsn origClass rule cid =>
    bytesOf 4 id ++ bytesOf 1 (out * 32 + b2n kind 4 + enc * 4 + b2n late 1 + b2n overlap 0) ++ bytesOf 1 cause ++ bytesOf 2 width ++
    bytesOfI 8 trigger ++ bytesOfI 8 actual ++ bytesOfI 8 (mdAt.getD mdNone) ++ bytesOf 8 origRsn ++
    bytesOf 1 (origClass % 4 * 64 + rule % 64) ++ zeros 3 ++ bytesOf 4 cid
  | .calib tnEff port online locked version oldVersion dCd dMd pairs =>
    bytesOf 6 tnEff ++ bytesOf 2 (port * 4096 + b2n online 11 + b2n locked 10) ++ bytesOf 2 version ++ bytesOf 2 oldVersion ++ bytesOfI 4 dCd ++
    bytesOfI 4 dMd ++ bytesOf 4 pairs ++ zeros 24
  | .timeStatus t offset freq old new source cause step tn =>
    bytesOfI 8 t ++ bytesOfI 8 offset ++ bytesOfI 4 freq ++ bytesOf 1 (old.code * 16 + new.code) ++ bytesOf 1 source ++ bytesOf 2 cause ++
    bytesOfI 8 step ++ bytesOf 6 tn ++ zeros 10
  | .health code critical kind unit counter t detail =>
    bytesOf 2 code ++ bytesOf 1 (b2n critical 7 + kind % 128) ++ bytesOf 1 unit ++ bytesOf 4 counter ++ bytesOfI 8 t ++ detailBytes code detail
  | .snn tn neuron role pop spikes first last encMode v forced restart lost lag replayed edge warming step suppressed mark =>
    bytesOf 6 tn ++ bytesOf 2 neuron ++ bytesOf 1 role ++ bytesOf 1 (b2n encMode 6 + pop % 64) ++ bytesOf 1 spikes ++
    bytesOf 1 (first % 16 * 16 + last % 16) ++ bytesOfI 3 v ++
    bytesOf 1 (b2n forced 6 + b2n restart 5 + b2n lost 4 + b2n lag 3 + b2n replayed 2 + b2n edge 1 + b2n warming 0) ++
    bytesOfI 6 step ++ bytesOf 2 suppressed ++ bytesOfI 8 mark ++ zeros 16

/-! ## Records (R254, R255) -/

/-- The type code of a record's body (R255). -/
def Body.typ : Body → Nat
  | .comet final .. => if final then 2 else 1
  | .curd .. => 3
  | .summary .. => 4
  | .gap .. => 5
  | .action missed .. => if missed then 7 else 6
  | .calib .. => 8
  | .timeStatus .. => 9
  | .health .. => 10
  | .snn .. => 12

/-- The body of an ACTION_DONE with OVERLAP set (R263, R289). -/
def Body.merged : Body → Body
  | .action missed id out kind enc late _ cause width trigger actual mdAt origRsn origClass rule cid =>
    .action missed id out kind enc late true cause width trigger actual mdAt origRsn origClass rule cid
  | b => b

/-- The body is an ACTION_DONE whose pulse on an output lasts beyond a station time (R263, R289). -/
def Body.pulses (out : Nat) (t : Int) : Body → Bool
  | .action missed _ o _ _ _ _ _ width _ actual _ _ _ _ _ => !missed && o == out && decide (t < actual + width * 1000)
  | _ => false

/-- The full RSN of a record (R256). -/
def JRec.rsn (r : JRec) : Nat := r.epoch * 2 ^ 48 + r.count

/-- The 64 bytes of a record; PHASE is 0 in the journal and on RRT (R254). -/
def JRec.bytes (r : JRec) (phase : Bool) : List Byte :=
  bytesOf 1 r.body.typ ++ bytesOf 1 (16 + r.cls % 4) ++ bytesOf 2 (b2n r.mirrorLost 7 + r.flags + r.tq.code) ++
  bytesOf 1 (b2n phase 7 + r.fn.1) ++ bytesOf 1 r.pkg ++ zeros 2 ++ bytesOf 8 r.rsn ++ r.body.bytes

/-! ## The action table, rules and the snapshot (R287, R293, R458) -/

/-- The 32 bytes of an action entry (R287). -/
def Action.bytes (a : Action) : List Byte :=
  bytesOf 4 a.id ++ bytesOf 1 (a.out.1 * 32 + b2n a.kind 4 + a.enc.1 * 4 + b2n a.fire 1 + 1) ++
  bytesOf 1 (a.origClass % 4 * 64 + a.fn.1) ++ bytesOf 2 a.width ++ bytesOfI 8 a.trigger ++ bytesOf 8 a.origRsn ++ bytesOf 4 a.cid ++
  bytesOf 4 (a.rule % 64)

/-- The 32 bytes of a rule (R293). -/
def Rule.bytes (r : Rule) : List Byte :=
  bytesOf 1 (b2n r.valid 7 + r.src * 32 + b2n r.kind 4 + r.out * 2 + b2n r.policy 0) ++ bytesOf 1 r.causes ++ bytesOf 2 r.mtch ++
  bytesOf 2 r.width ++ zeros 2 ++ bytesOfI 4 r.offset ++ bytesOfI 4 r.cdMin ++ bytesOfI 4 r.cdMax ++ bytesOf 4 r.minLen ++ zeros 8

/-- The 32 bytes of a ring state (R458). -/
def Delivery.bytes (d : Delivery) : List Byte :=
  bytesOf 8 d.base ++ bytesOf 1 d.size.log2 ++ bytesOf 4 d.slot ++ bytesOf 1 d.phase.toNat ++ zeros 2 ++ bytesOf 8 d.next ++ zeros 8

/-- The 139,264 bytes of the snapshot (R458). The header's fields stand at 0, 8 and 16 (DESIGN CHOICE, log entry 49). -/
def SnapData.bytes (s : SnapData) : List Byte :=
  ((List.range 4096).flatMap fun k => match s.actions.find k with | some a => a.bytes | none => zeros 32) ++
  (bytesOf 4 0x53504E53 ++ zeros 4 ++ bytesOfI 8 s.t ++ bytesOf 8 s.firstGseq ++ zeros 40) ++
  s.next.flatMap (fun n => bytesOf 8 (s.epoch * 2 ^ 48 + n)) ++ s.delivery.flatMap Delivery.bytes ++
  s.rules.flatMap (fun l => l.flatMap fun r => r.bytes.take 24) ++ zeros 448

/-! ## Commit groups (R274) -/

/-- RECORDS of a group: its records, or its snapshot bytes ÷ 64 (R274, R458). -/
def Group.count (g : Group) : Nat := match g.snapshot with | 0 => g.recs.length | 3 => 144 | _ => 1016

/-- FIRST_RSN and COUNT of a stream in a group. -/
def Group.streamHead (g : Group) (s : Nat) : List Byte :=
  let l := g.recs.filter fun r => 4 * r.fn.1 + r.cls == s
  bytesOf 8 ((l.head?.map JRec.rsn).getD 0) ++ bytesOf 2 l.length ++ zeros 2

/-- What follows the header: the records, or a part of the snapshot. -/
def Group.content (g : Group) (snap : List Byte) : List Byte :=
  if g.snapshot = 0 then g.recs.flatMap fun r => r.bytes false else (snap.drop (65024 * (g.snapshot - 1))).take (64 * g.count)

/-- The bytes of a group with a value of its CRC field; the tail is zero. -/
def Group.withCrc (g : Group) (snap : List Byte) (crc : Nat) : List Byte :=
  sliceB (bytesOf 4 0x4C4A5641 ++ bytesOf 2 1 ++ bytesOf 2 (b2n g.mirrorLost 2 + b2n (g.snapshot != 0) 1 + b2n g.final 0) ++ bytesOf 8 g.gseq ++
    bytesOf 2 g.epoch ++ bytesOf 2 g.count ++ bytesOf 4 crc ++ bytesOfI 8 g.t ++ zeros 96 ++ (List.range 32).flatMap g.streamHead ++
    g.content snap) 0 65536

/-- The 65,536 bytes of a group (R274). -/
def Group.bytes (g : Group) (snap : List Byte) : List Byte := g.withCrc snap (crc32c (g.withCrc snap 0)).toNat

/-- 4 KB units that a commit group writes (R456). -/
def Group.units (g : Group) : Nat := (512 + 64 * g.count + 4095) / 4096

/-! ## Host rings (R284, R374, R381, R382) -/

/-- A ring slot holds the entry that the delivery state expects next: it landed before the reset, in this lap (R284). -/
def slotHolds (e : SlotHdr) (next : Nat) (phase : Bool) : Bool := e.typ != 0 && e.phase == phase && e.rsn == next

/-- A completion entry (R382, R384). -/
def Cpl.bytes (e : Cpl) (phase : Bool) : List Byte :=
  bytesOf 1 e.op ++ bytesOf 1 (b2n phase 7) ++ bytesOf 2 e.ctag ++ bytesOf 1 e.status ++ bytesOf 1 e.result ++ zeros 2 ++ bytesOf 8 e.cseq ++
  bytesOf 8 e.d10 ++ bytesOf 8 e.d18 ++ sliceB e.data 0 32

/-- A TAP entry (R381). -/
def tapEntry (phase : Bool) (dropped : Nat) (words : List EvWord) : List Byte :=
  sliceB (bytesOf 1 (b2n phase 7 + words.length % 8) ++ zeros 1 ++ bytesOf 2 dropped ++ zeros 4 ++ words.flatMap fun w => bytesOf 8 w.word.toNat) 0 64

/-- A line-link frame: header, payload and CRC-32C over both (R395). -/
def frameBytes (kind vl : Nat) (som eom : Bool) (seq ack : Nat) (cred : List Nat) (payload : List Byte) : List Byte :=
  let b := bytesOf 1 (64 * kind + 16 * vl + b2n som 3 + b2n eom 2) ++ bytesOf 1 (payload.length / 4) ++ bytesOf 2 seq ++ bytesOf 2 ack ++
    bytesOf 2 ((cred.mapIdx fun v c => c % 16 * 16 ^ v).sum) ++ zeros 8 ++ payload
  b ++ bytesOf 4 (crc32c b).toNat

/-- A frame on the wire (R395). -/
def LinkTx.wire : LinkTx → List Byte
  | .data f ack cred => frameBytes 0 f.vl.1 f.som f.eom f.seq ack cred f.payload
  | .nak seq ack cred => frameBytes 1 0 false false seq ack cred []
  | .credit ack cred => frameBytes 3 0 false false 0 ack cred []
  | .train _ => []

/-- The header of a mailbox response: CODE, TAG, STATUS and LEN (R390); the data follow from 0x40. -/
def respHeader (code tag status len : Nat) : List Byte :=
  sliceB (bytesOf 1 code ++ zeros 1 ++ bytesOf 2 tag ++ bytesOf 1 status ++ zeros 3 ++ bytesOf 8 len) 0 64

/-- The head shadow: the counts of the seven rings and the next CSEQ (R374). -/
def shadowBytes (counts : List Nat) (cseq : Nat) : List Byte :=
  sliceB (sliceB (counts.flatMap (bytesOf 4)) 0 32 ++ bytesOf 8 cseq) 0 64

end Sys2Proof.Machine
end

