-- ==== Sys2Proof/Machine/Journal.lean ====
section
/-! DEFINITION. Records: classes, hold-up admission, sequence numbers, the journal's slots, HEALTH (R254 to R279). -/

namespace Sys2Proof.Machine

/-- The unit kinds of a HEALTH record (R266). -/
inductive HUnit where
  | package | die (d : Nat) | engine (e : Nat) | port (p : Nat) | encoder (n : Nat) | imu (i : Nat) | link (l : Nat)
  | eth (p : Nat) | store
deriving DecidableEq, Repr

/-- Unit kind and number of R266; an engine carries its die in bits [7:6] and the engine in [4:0]. -/
def HUnit.code : HUnit → Nat × Nat
  | .package => (0, 0)
  | .die d => (1, d)
  | .engine e => (2, e / 18 * 64 + e % 18)
  | .port p => (3, p)
  | .encoder n => (4, n)
  | .imu i => (5, i)
  | .link l => (6, l)
  | .eth p => (7, p)
  | .store => (8, 0)

/-- HEALTH codes (R267, R329, R361, R410, R441, R462) with whether they are critical. -/
structure HCode where
  code : Nat
  critical : Bool
deriving DecidableEq, Repr

namespace H
def syncLost : HCode := ⟨0x0001, false⟩
def qerr : HCode := ⟨0x0002, false⟩
def imuTmo : HCode := ⟨0x0003, false⟩
def noMd : HCode := ⟨0x0004, true⟩
def calReject : HCode := ⟨0x0005, false⟩
def mirrorLost : HCode := ⟨0x0010, true⟩
def mirrorBack : HCode := ⟨0x0011, false⟩
def holdupShort : HCode := ⟨0x0012, true⟩
def journalFull : HCode := ⟨0x0013, true⟩
def journalTorn : HCode := ⟨0x0014, true⟩
def powerRestored : HCode := ⟨0x0015, false⟩
def ledgerOver : HCode := ⟨0x0101, false⟩
def ledgerClamp : HCode := ⟨0x0102, false⟩
def pmbusFail : HCode := ⟨0x0103, false⟩
def avsFail : HCode := ⟨0x0104, true⟩
def throttle : HCode := ⟨0x0105, false⟩
def droopLong : HCode := ⟨0x0106, false⟩
def sleep : HCode := ⟨0x0107, false⟩
def wake : HCode := ⟨0x0108, false⟩
def servoClamp : HCode := ⟨0x0201, false⟩
def ptpFailover : HCode := ⟨0x0202, false⟩
def ethLink : HCode := ⟨0x0203, false⟩
def rrtDestDown : HCode := ⟨0x0204, true⟩
def rrtFallback : HCode := ⟨0x0205, false⟩
def rrtAuthFail : HCode := ⟨0x0206, false⟩
def linkUp : HCode := ⟨0x0301, false⟩
def linkDown : HCode := ⟨0x0302, true⟩
def linkLevel : HCode := ⟨0x0303, true⟩
def linkSkew : HCode := ⟨0x0304, false⟩
def linkTickCfg : HCode := ⟨0x0305, true⟩
def linkLate : HCode := ⟨0x0306, false⟩
def resetDone : HCode := ⟨0x0401, false⟩
def katFail : HCode := ⟨0x0402, true⟩
def bistFail : HCode := ⟨0x0403, true⟩
def dieLost : HCode := ⟨0x0404, true⟩
def roleOnFailed : HCode := ⟨0x0405, true⟩
def blockRstTmo : HCode := ⟨0x0406, false⟩
def fwFallback : HCode := ⟨0x0407, false⟩
def endpointReset : HCode := ⟨0x0408, false⟩
def dramUe : HCode := ⟨0x0501, true⟩
def storeFault : HCode := ⟨0x0502, true⟩
def storeUp : HCode := ⟨0x0503, false⟩
def storeFull : HCode := ⟨0x0504, true⟩
def storeLost : HCode := ⟨0x0505, true⟩
end H

namespace Mach

/-- The class of a record of function f: fixed types take R255's class, the others JNL_F_CLASS (R255, R299). -/
def classOf (m : Mach) (f : Fin 8) (b : Body) : Fin 4 :=
  match b with
  | .comet final .. => Fin.ofNat 4 (m.g (if final then R.JNL_F_CLASS_CLASS_2 f else R.JNL_F_CLASS_CLASS_1 f))
  | .curd .. => Fin.ofNat 4 (m.g (R.JNL_F_CLASS_CLASS_3 f))
  | .summary .. => 1
  | .gap .. => 1
  | .action .. => 0
  | .calib .. => Fin.ofNat 4 (m.g (R.JNL_F_CLASS_CLASS_8 f))
  | .timeStatus .. => Fin.ofNat 4 (m.g (R.JNL_F_CLASS_CLASS_9 f))
  | .health _ critical .. => if critical then 0 else 3
  | .snn .. => Fin.ofNat 4 (m.g (R.JNL_F_CLASS_CLASS_12 f))

/-- The stream of a function and class (R256). -/
def stream (f : Fin 8) (c : Fin 4) : Fin 32 := ⟨4 * f.1 + c.1, by omega⟩

/-- The dies whose copies of a bank are in use and reachable (R271, R272). -/
def copiesOf (m : Mach) (bank : Nat) : List (Fin 4) :=
  let all : List (Fin 4) := if bank = 0 then [0, 2] else [1, 3]
  let used := if m.on R.JNL_CTRL_MIRROR_EN then all else all.take 1
  used.filter fun d => m.jnl.copies.get d

/-- The cost in µJ of committing b bytes (R277), rounded up. -/
def holdCost (m : Mach) (b : Nat) : Nat :=
  let kb := (b + 1023) / 1024
  let p0 := m.g R.JNL_HU_P0_P
  let num := m.g R.JNL_HU_MARGIN_MARGIN *
    (m.g R.JNL_HU_ECFIX_E * 1000000 + m.g R.JNL_HU_ECKB_E * kb * 1000 + p0 * m.g R.JNL_HU_TCFIX_T * 1000 + p0 * m.g R.JNL_HU_TCKB_T * kb)
  (num + 255999999) / 256000000

/-- The size of the snapshot of R282. -/
def sFin : Nat := 139264

/-- U: the bytes of every admitted, uncommitted record (R278). -/
def uncommitted (m : Mach) : Nat := 64 * (m.jnl.recs.filter fun r => !r.committed).length

/-- X of R278 in bytes. -/
def reserveOf (m : Mach) (b : Body) (cls : Nat) : Nat :=
  let keep := 1024 * m.g R.JNL_HU_RESKEEP_R
  let p2 := 1024 * m.g R.JNL_HU_RESP2_R
  let p3 := 1024 * m.g R.JNL_HU_RESP3_R
  match b with
  | .summary .. => 0
  | .gap .. => 0
  | _ => if cls ≤ 1 then keep else if cls = 2 then keep + p2 else keep + p2 + p3

/-- The hold-up check is in use (R279). -/
def holdupValid (m : Mach) : Bool := m.g R.JNL_HU_C_C != 0 && m.on R.JNL_CTRL_HU_EN

/-- The hold-up check of R278. -/
def holdupOk (m : Mach) (b : Body) (cls : Nat) : Bool :=
  !m.holdupValid || decide (m.holdCost (m.uncommitted + 64 + sFin + m.reserveOf b cls) ≤ m.g R.JNL_HU_E_E)

/-- Slots of one journal copy (R271). -/
def bankSlots : Nat := 33554432

/-- Slots of a bank that hold a record. -/
def bankUsed (m : Mach) (bank : Nat) : Nat := (m.jnl.recs.filter fun r => r.bank == bank && !r.early).length

/-- The first free slot of a bank's circular buffer from a position on (R271). -/
def slotFrom (l : List JRec) (bank : Nat) : Nat → Nat → Nat
  | 0, k => k
  | n + 1, k =>
    if l.any fun r => r.bank == bank && !r.early && r.slot == k then slotFrom l bank n ((k + 1) % bankSlots) else k

/-- The slot that the next record of a bank takes (R271). -/
def nextSlot (m : Mach) (bank : Nat) : Nat := slotFrom m.jnl.recs bank (m.bankUsed bank) (vat m.jnl.slots bank)

/-- A record is written to the copies of its bank (R271): a try that fails is repeated in the same slot and counted, and a copy that
three tries could not write is unreachable, to be reported. -/
def writeCopies (bank : Nat) (m : Mach) : Mach :=
  forEach (m.copiesOf bank) (fun (d : Fin 4) t =>
    let n := t.jnl.failNext.get d
    let t1 := (t.addTo R.JNL_MIRROR_ERR (min n 2)).onJnl fun j => { j with failNext := vput j.failNext d 0 }
    if n < 3 then t1 else t1.onJnl fun j => { j with copies := vput j.copies d false, unsaid := j.unsaid ++ [d] }) m

/-- The journal store is in use (R273, R454). -/
def storeInUse (m : Mach) : Bool := m.on R.JNL_CTRL_STORE_EN && m.on R.NVS_CTRL_EN && m.nvs.state != 0

/-- Free the slot of the oldest committed, undelivered record of a bank (R273); none: no change. -/
def freeEarly (bank : Nat) (m : Mach) : Bool × Mach :=
  match m.jnl.recs.findIdx? (fun r => r.bank == bank && r.committed && !r.early) with
  | some i =>
    (true, (m.onJnl fun j => { j with recs := j.recs.modify i fun r => { r with early := true } }).inc R.JNL_SLOT_FREED_EARLY)
  | none => (false, m)

/-- Destinations of R270 that a new record of a stream must reach: enabled, and owned by its function (R368). -/
def destsOf (m : Mach) (s : Fin 32) : List Nat :=
  (maskBits (m.g (R.RRT_STREAM_DEST_MASK s)) 8).filter fun d => m.on (R.RRT_D_CTRL_EN d) && (vat m.own.rrt d).1 == s.1 / 4

/-- Free the slots of records that are committed and delivered on every path (R273). -/
def freeSlots (m : Mach) : Mach :=
  m.onJnl fun j => { j with recs := j.recs.filter fun r =>
    !(r.hostDone && r.dests.isEmpty && (r.committed || !m.storeInUse)) }

/-- Count a refused record, for the next summary of every stream (R261, R278). -/
def countRefused (cls : Nat) (m : Mach) : Mach :=
  let f := match cls with
    | 0 => R.JNL_REFUSED_P0 | 1 => R.JNL_REFUSED_P1 | 2 => R.JNL_REFUSED_P2 | _ => R.JNL_REFUSED_P3
  (m.inc f).onTick fun t => { t with refusedCarry := t.refusedCarry.map (· + 1) }

/-- Why a record is refused: no copy, no slot, hold-up (R271, R273, R278). -/
inductive Refused where
  | noCopy | noSlot | holdUp
deriving DecidableEq, Repr

/-- Write one record into one function's stream, without the HEALTH records a refusal may cause: the record's count on
success (R257, R271, R278). From step 1 of a final commit nothing is written or counted (R280). -/
def admitRec (f : Fin 8) (b : Body) (flags : Nat) (m : Mach) : Except (Option Refused) Nat × Mach :=
  if m.jnl.pf.isSome then (.error none, m)
  else
    let cls := m.classOf f b
    let bank := m.g (R.JNL_F_CFG_BANK f)
    let slotNeed := 1 + m.reserveOf b cls / 64
    let (_, m1) := if bankSlots < m.bankUsed bank + slotNeed then m.freeEarly bank else (false, m)
    if (m.copiesOf bank).isEmpty then (.error (some .noCopy), m.countRefused cls)
    else if bankSlots < m1.bankUsed bank + slotNeed then (.error (some .noSlot), m1.countRefused cls)
    else if !m1.holdupOk b cls then (.error (some .holdUp), m1.countRefused cls)
    else
      let m2 := m1.writeCopies bank
      let copies := m2.copiesOf bank
      if copies.isEmpty then (.error (some .noCopy), m2.countRefused cls)
      else
        let s := stream f cls
        let n := m2.jnl.next.get s
        let slot := m2.nextSlot bank
        let r : JRec :=
          { fn := f, cls := cls, count := n, epoch := m2.jnl.epoch, body := b, mirrorLost := copies.length < 2, flags := flags,
            tq := m2.time.quality, pkg := m2.g R.FUS_CTRL_PKG_ID, at_ := m2.time.n, bank := bank, dests := m2.destsOf s, slot := slot }
        let m3 := m2.scDrop fun l => copies.any fun (d : Fin 4) => l == slotAddr d.1 slot / 64
        (.ok n, (m3.onJnl fun j =>
          { j with next := vput j.next s (n + 1), recs := j.recs ++ [r], slots := vmod j.slots (Fin.ofNat 2 bank) fun _ => (slot + 1) % bankSlots }).inc
            R.JNL_ADMITTED)

/-- The RSN of a stream's count in the epoch in force (R256). -/
def rsn (m : Mach) (count : Nat) : Nat := m.jnl.epoch * 2 ^ 48 + count

/-- The value of the counter that a HEALTH code reports on (R266): where a block keeps a counter of the event, that one; a code
without one has 0 (DEDUCED, log entry 83). The refusals of R273 and R278 name the counter of the refused class themselves. -/
def related (m : Mach) (h : HCode) (u : HUnit) : Nat :=
  let n := u.code.2
  match h.code with
  | 0x0001 => m.g (R.ING_SYNC_LOST n)
  | 0x0002 => m.g (R.MOT_ENC_QERR n)
  | 0x0003 => m.g (R.MOT_IMU_TMO n)
  | 0x0004 => m.g R.FUS_NO_MD
  | 0x0005 => m.g R.FUS_CAL_REJECT
  | 0x0010 => m.g R.JNL_MIRROR_ERR
  | 0x0011 => m.g R.JNL_MIRROR_ERR
  | 0x0101 => m.g R.PWR_OVER_WIN
  | 0x0102 => m.g R.PWR_K_CLAMP
  | 0x0103 => m.g R.PWR_PMB_ERR
  | 0x0105 => m.g R.THM_THROTTLE_EVENTS
  | 0x0106 => m.g (R.CLK_D_DROOP_LONG n)
  | 0x0202 => m.g R.PTP_FAILOVERS
  | 0x0204 => m.g R.RRT_DEST_DOWN
  | 0x0205 => m.g R.RRT_FB_SWITCH
  | 0x0206 => m.g R.RRT_AUTH_FAIL
  | 0x0301 => m.g (R.LNK_RETRAINS n)
  | 0x0302 => m.g (R.LNK_RETRAINS n)
  | 0x0306 => m.g (R.LNK_HO_LATE n)
  | 0x0404 => m.g R.RST_DIE_LOST
  | 0x0406 => m.g R.RST_BLK_TMO
  | 0x0408 => m.g R.HIF_FLR_COUNT
  | 0x0501 => m.g (R.MEM_UE n)
  | 0x0502 => m.g R.NVS_FAULTS
  | 0x0503 => m.g R.NVS_FAULTS
  | 0x0505 => m.g R.NVS_LOST_EARLY
  | _ => 0

/-- The counter of refused records of a class (R299). -/
def refusedOf (m : Mach) (cls : Nat) : Nat :=
  m.g (match cls with | 0 => R.JNL_REFUSED_P0 | 1 => R.JNL_REFUSED_P1 | 2 => R.JNL_REFUSED_P2 | _ => R.JNL_REFUSED_P3)

/-- A HEALTH body (R266). -/
def healthBody (h : HCode) (u : HUnit) (counter : Nat) (detail : List Nat) (m : Mach) : Body :=
  .health h.code h.critical u.code.1 u.code.2 counter m.time.n detail

/-- One copy of a record for every function of R255, refusals not reported further. -/
def admitAll (b : Body) (flags : Nat) (m : Mach) : Mach :=
  forEach m.widely (fun f t => (t.admitRec f b flags).2) m

/-- A HEALTH code at most once in a tick (R273, R278). -/
def onceHealth (h : HCode) (u : HUnit) (counter : Nat) (m : Mach) : Mach :=
  if m.jnl.onceTick.contains h.code then m
  else (m.onJnl fun j => { j with onceTick := h.code :: j.onceTick }).admitAll (m.healthBody h u counter []) 0

/-- What a refusal brings about: JOURNAL_FULL for want of a slot, HOLDUP_SHORT for a refusal by the hold-up check of a
record other than P3 (R273, R278). -/
def afterRefusal (cls : Nat) (why : Option Refused) (m : Mach) : Mach :=
  match why with
  | some .noSlot => m.onceHealth H.journalFull .package (m.refusedOf cls)
  | some .holdUp => if cls = 3 then m else m.onceHealth H.holdupShort .package (m.refusedOf cls)
  | _ => m

/-- The record that a stream owes its host ring next (R270). -/
def streamHead (m : Mach) (f : Fin 8) (c : Nat) : Option JRec := m.jnl.recs.find? fun r => r.fn == f && r.cls == c && !r.hostDone

/-- The next RSN that a stream delivers to its host ring (R284): that of its oldest record not delivered, or of the next to be written. -/
def nextRsn (m : Mach) (f : Fin 8) (c : Fin 4) : Nat :=
  match m.streamHead f c.1 with | some r => r.rsn | none => m.rsn (m.jnl.next.get (stream f c))

/-- The delivery states take the RSN that each stream delivers next, after an epoch has begun or records are gone (R256, R284). -/
def syncDelivery (m : Mach) : Mach :=
  m.onJnl fun j => { j with delivery := Vector.ofFn fun (i : Fin 40) =>
    let d := j.delivery.get i
    if i.1 % 5 = 0 then d else { d with next := m.nextRsn (Fin.ofNat 8 (i.1 / 5)) (Fin.ofNat 4 (i.1 % 5 - 1)) } }

/-- Copies that failing writes have made unreachable are reported; when both copies of a bank are gone while it holds records not yet
delivered on every path, the epoch rises and every stream counts from 1 again (R256, R271, R272). -/
def sayLost (m : Mach) : Mach :=
  forEach m.jnl.unsaid (fun (d : Fin 4) t =>
    let t1 := (t.onJnl fun j => { j with unsaid := j.unsaid.filter (· != d) }).admitAll (t.healthBody H.mirrorLost (.die d) (t.related H.mirrorLost (.die d)) [d.1 % 2]) 0
    let bank := d.1 % 2
    if (t1.copiesOf bank).isEmpty ∧ (t1.jnl.recs.any fun r => r.bank == bank && !(r.hostDone && r.dests.isEmpty)) then
      (t1.onJnl fun j => { j with epoch := j.epoch + 1, next := Vector.replicate 32 1, recs := j.recs.filter fun r => r.bank != bank }).syncDelivery
    else t1) m

/-- Write a record: its count where it was admitted. -/
def write (f : Fin 8) (b : Body) (flags : Nat) (m : Mach) : Option Nat × Mach :=
  match m.admitRec f b flags with
  | (.ok n, m1) => (some n, m1.sayLost)
  | (.error why, m1) => (none, (m1.afterRefusal (m.classOf f b) why).sayLost)

/-- Write a record and drop its count. -/
def write' (f : Fin 8) (b : Body) (flags : Nat) (m : Mach) : Mach := (m.write f b flags).2

/-- Write a package-wide record (R255). -/
def writeAll (b : Body) (flags : Nat) (m : Mach) : Mach := forEach m.widely (fun f t => t.write' f b flags) m

/-- Write a HEALTH record (R266). -/
def health (h : HCode) (u : HUnit) (detail : List Nat) (m : Mach) : Mach :=
  m.writeAll (m.healthBody h u (m.related h u) detail) 0

/-- Write a TIME_STATUS record (R265). -/
def timeStatus (offset : Int) (old new : Quality) (source cause : Nat) (step : Int) (m : Mach) : Mach :=
  m.writeAll (.timeStatus m.time.n offset m.time.y old new source cause step m.tick.tn) 0

/-- A copy becomes unreachable (R272). -/
def loseCopy (d : Fin 4) (m : Mach) : Mach :=
  if m.jnl.copies.get d then (m.onJnl fun j => { j with copies := vput j.copies d false, unsaid := j.unsaid ++ [d] }).sayLost else m

end Mach

end Sys2Proof.Machine
end

