-- ==== Sys2Proof/Machine/MotionOps.lean ====
section
/-! DEFINITION. Web position: the MD of a count, the capture ring, MD at an instant (R198 to R205). -/

namespace Sys2Proof.Machine

/-- MD of a count in Q56.8 under a value set (R202). -/
def ValSet.md (v : ValSet) (neg : Bool) (c8 : Int) : Int :=
  let d := rnd ((c8 - v.cb * 256) * 1000000) v.cpm
  if neg then v.base - d else v.base + d

/-- A point of R204: edge stamp, count, and how many step marks lie before it. -/
structure Pt where
  e : Int
  p : Int
  seg : Nat
deriving DecidableEq, Repr

/-- Insert a point after those whose stamp is not greater. -/
def Pt.insert (x : Pt) : List Pt → List Pt
  | [] => [x]
  | y :: r => if x.e < y.e then x :: y :: r else y :: Pt.insert x r

/-- The points of a ring given oldest run first (R199, R204, R205). A marked capture still belongs to the side before its
mark, since its edge stamp was given under the counter before the step. -/
def pointsOf : List Capture → Nat → Option Int → List Pt → List Pt
  | [], _, _, acc => acc
  | c :: r, seg, last, acc =>
    let acc' := if last = some c.e then acc else Pt.insert ⟨c.e, c.p, seg⟩ acc
    pointsOf r (if c.mark.isSome then seg + 1 else seg) (some c.e) acc'

/-- The answer to a request for MD at an instant (R204): not yet, INVALID (counted in HIST_MISS or not), or a position. -/
inductive MdAns where
  | notYet
  | invalid (miss : Bool)
  | ok (md : Int)
deriving DecidableEq, Repr

/-- STALL in µs (R204): values outside 1 to 1,000 act as 1,000. -/
def stallUs (m : Mach) (n : Fin 4) : Int :=
  let v := m.g (R.MOT_ENC_CTRL_STALL n)
  if v = 0 ∨ 1000 < v then 1000 else v

/-- The count at t, in Q56.8, from the points (R204). -/
def count8 (pts : List Pt) (stall t : Int) : Option Int :=
  match (pts.filter fun x => decide (x.e ≤ t)).getLast? with
  | none => none
  | some a =>
    match pts.find? fun x => decide (t < x.e) with
    | some b =>
      if b.e - a.e ≤ stall * 1000 ∧ a.seg = b.seg then some (a.p * 256 + rnd (256 * (b.p - a.p) * (t - a.e)) (b.e - a.e))
      else some (a.p * 256)
    | none => some (a.p * 256)

namespace Mach

/-- MD of encoder n is valid (R202): enabled, and the CPM in force is at least 1,000 counts per metre. -/
def mdValid (m : Mach) (n : Fin 4) : Bool :=
  m.on (R.MOT_ENC_CTRL_EN n) && decide (256000 ≤ (m.enc.get n).set.cpm)

/-- The live MD: of the current count (R203). -/
def liveMd (m : Mach) (n : Fin 4) : Option Int :=
  if m.mdValid n then some ((m.enc.get n).set.md (m.on (R.MOT_ENC_CTRL_MD_NEG n)) ((m.enc.get n).count * 256)) else none

/-- The value set in force at t (R203): none before the older set. -/
def setAt (e : Encoder) (t : Int) : Option ValSet :=
  match e.set.from? with
  | none => some e.set
  | some s =>
    if s ≤ t then some e.set
    else
      match e.old with
      | none => none
      | some o =>
        match o.from? with
        | none => some o
        | some s' => if s' ≤ t then some o else none

/-- The capture of a forward step that jumped over an instant (R205). -/
def jumpedAt (e : Encoder) (t : Int) : Option Capture :=
  e.caps.find? fun c => match c.mark with | some (a, b) => decide (a < t) && decide (t < b) | none => false

/-- MD of encoder n at instant t (R204, R205). An instant that a step jumped over is answered as the instant of the step: with the
count held there, and the value set in force at the stepping capture. -/
def mdAt (m : Mach) (n : Fin 4) (t0 : Int) : MdAns :=
  let e := m.enc.get n
  let jump := jumpedAt e t0
  let t := match jump with | some c => c.first | none => t0
  if !m.on (R.MOT_ENC_CTRL_EN n) then .invalid false
  else
    let stall := stallUs m n
    let oldest := (e.caps.getLast?.map (·.first)).getD m.time.n
    if t < oldest then .invalid true
    else
      match setAt e t with
      | none => .invalid true
      | some v =>
        if v.cpm < 256000 then .invalid false
        else
          let neg := m.on (R.MOT_ENC_CTRL_MD_NEG n)
          match jump with
          | some c => .ok (v.md neg (c.p * 256))
          | none =>
            let pts := pointsOf e.caps.reverse 0 none []
            if (pts.any fun x => decide (t < x.e)) || (e.caps.any fun c => decide (t + stall * 1000 ≤ c.last)) then
              match count8 pts stall t with
              | some c8 => .ok (v.md neg c8)
              | none => .invalid true
            else .notYet

/-- A request for MD at t: the answer, with HIST_MISS counted where R204 says so. -/
def mdAsk (n : Fin 4) (t : Int) (m : Mach) : MdAns × Mach :=
  match m.mdAt n t with
  | .invalid true => (.invalid true, (m.inc (R.MOT_ENC_HIST_MISS n)).set1 (R.MOT_ENC_STAT_HIST_MISS n))
  | a => (a, m)

/-- The web encoder of fusion (R253). -/
def webEnc (m : Mach) : Fin 4 := Fin.ofNat 4 (m.g R.FUS_CTRL_ENC)

end Mach

/-- Keep the newest `room` captures of a ring given newest run first (R199). -/
def trimCaps : Nat → List Capture → List Capture
  | _, [] => []
  | 0, _ :: _ => []
  | room, c :: r =>
    let k := ((c.last - c.first).fdiv 1000).toNat + 1
    if k ≤ room then c :: trimCaps (room - k) r
    else [{ c with first := c.last - ((room : Int) - 1) * 1000, mark := none }]

/-- Write the captures of the whole microseconds first to last, with one count and edge stamp (R199). -/
def Encoder.capture (first last : Int) (mark : Option (Int × Int)) (e : Encoder) : Encoder :=
  let c : Capture := { first := first, last := last, p := e.count, e := e.e, mark := mark }
  let caps := match e.caps with
    | [] => [c]
    | h :: r => if mark.isNone ∧ h.p = c.p ∧ h.e = c.e ∧ h.last + 1000 = first then { h with last := last } :: r else c :: h :: r
  { e with caps := trimCaps 4096 caps }

end Sys2Proof.Machine
end

