-- ==== Sys2Proof/Machine/ActionOps.lean ====
section
/-! DEFINITION. The action table and the rule table: programming, firing, late entries (R286 to R294). -/

namespace Sys2Proof.Machine

/-- The codes of CAUSE (R263). -/
def MissCause.code : MissCause → Nat
  | .late => 0 | .reset => 1 | .power => 2 | .cancelled => 3 | .tableFull => 4 | .outputMode => 5 | .encoder => 6

namespace Mach

/-- Entries in the table. -/
def actionsInUse (m : Mach) : Nat := m.jnl.actions.length

/-- The pads of TRIG_OUT are held (R430). -/
def trigHeld (m : Mach) : Bool := m.rst.held.getLsbD 0

/-- The action unit fires: enabled, not held by a package reset or by a final commit (R280, R290, R299). -/
def actionsRun (m : Mach) : Bool := m.on R.ACT_CTRL_EN && m.rst.hold.isNone && m.jnl.pf.isNone && m.rst.stage == 9

/-- The body of ACTION_DONE or ACTION_MISSED (R263). -/
def actionBody (m : Mach) (missed : Bool) (id : Nat) (a : Action) (late overlap : Bool) (cause : Nat) : Body :=
  .action missed id a.out a.kind a.enc late overlap cause a.width a.trigger m.time.n (m.liveMd a.enc) a.origRsn a.origClass a.rule a.cid

/-- Remove an entry. -/
def dropAction (a : Action) (m : Mach) : Mach := m.onJnl fun j => { j with actions := Tab.erase j.actions a.slot }

/-- Resolve an entry without a pulse (R286). -/
def missAction (c : MissCause) (a : Action) (m : Mach) : Mach :=
  let m1 := (m.write' a.fn (m.actionBody true a.id a false false c.code) 0).dropAction a
  m1.inc (if c = .cancelled then R.ACT_CANCELLED else R.ACT_MISSED)

/-- The output is in action-table mode (R289, R343). -/
def actionMode (m : Mach) (o : Fin 8) : Bool := m.g (R.TIM_TO_CTRL_MODE o) == 4

/-- The output is high from another entry (R289). -/
def actionHigh (m : Mach) (o : Fin 8) : Bool :=
  match (m.time.trigOut.get o).actUntil with
  | some u => decide (m.elapsed < u)
  | none => false

/-- The table is frozen: by step 1 of a final commit, or with ACT_CTRL.EN = 0 (R280, R299). -/
def tableFrozen (m : Mach) : Bool := !m.on R.ACT_CTRL_EN || m.jnl.pf.isSome

/-- The ACTION_DONE of a pulse that is merged with a later one takes OVERLAP too (R289), as long as its record has not left the journal
(DEDUCED, log entry 85). -/
def markMerged (o : Fin 8) (m : Mach) : Mach :=
  m.onJnl fun j => { j with recs := j.recs.map fun r =>
    if !r.released && !r.committed && r.body.pulses o m.time.n then { r with body := r.body.merged } else r }

/-- Start the pulse of an entry and resolve it (R288, R289). `also` says that another entry starts on the output at the
same instant. -/
def fireAction (late also : Bool) (a : Action) (m : Mach) : Mach :=
  if !m.actionMode a.out then m.missAction .outputMode a
  else
    let ovl := m.actionHigh a.out || also
    let stop := m.elapsed + a.width * 1000
    let m0 := if m.actionHigh a.out then m.markMerged a.out else m
    let m1 := m0.onTrig a.out fun t =>
      { t with actUntil := some (match t.actUntil with | some u => if m.elapsed < u then max u stop else stop | none => stop) }
    let m2 := (m1.write' a.fn (m1.actionBody false a.id a late ovl 0) 0).dropAction a
    let m3 := m2.inc (if late then R.ACT_FIRED_LATE else R.ACT_FIRED)
    if ovl then m3.inc R.ACT_OVERLAP else m3

/-- A late entry takes its policy (R290, R291): DROP misses, FIRE pulses now, or at its pad's release while held. A frozen table
resolves nothing: the entry keeps its cause until the freeze ends (R280, R299). -/
def lateAction (c : MissCause) (a : Action) (m : Mach) : Mach :=
  if m.tableFrozen || a.fire && (m.trigHeld || !m.actionsRun) then
    m.onJnl fun j => { j with actions := Tab.put j.actions a.slot { a with lateBy := some (a.lateBy.getD c) } }
  else if a.fire then m.fireAction true false a
  else m.missAction (a.lateBy.getD c) a

/-- The lowest free slot of the table. -/
def freeSlotFrom : Tab Action → Nat → Nat
  | [], k => k
  | (s, _) :: r, k => if s = k then freeSlotFrom r (k + 1) else k

/-- An entry is late when it is programmed (R290). -/
def lateNow (m : Mach) (a : Action) : Bool :=
  if a.kind then
    match m.liveMd a.enc with
    | some md => decide (a.trigger - md < m.g R.ACT_LEAD_POS_LEAD)
    | none => false
  else decide (a.trigger - m.time.n < m.g R.ACT_LEAD_T_LEAD)

/-- An action entry that arrives in step 3 of an entry to S2 abandons that entry (R325). -/
def keepAwake (m : Mach) : Mach := if m.sleep.stepAt.isSome && !m.sleep.goS3 then m.abandonEntry else m

/-- Program an entry: its slot and generation, then R290's judgement. Call it only while the table has room. -/
def programAction (a : Action) (m : Mach) : Nat × Mach :=
  let slot := freeSlotFrom m.jnl.actions 0
  let gen := Tab.get (fun _ => 0) m.jnl.gens slot + 1
  let a' := { a with slot := slot, gen := gen }
  let m1 := (m.onJnl fun j => { j with gens := Tab.put j.gens slot gen, actions := Tab.put j.actions slot a' }).keepAwake
  (a'.id, if m1.lateNow a' then m1.lateAction .late a' else m1)

/-- Insert an entry in ascending ID order. -/
def insertAction (x : Action) : List Action → List Action
  | [] => [x]
  | y :: r => if x.id < y.id then x :: y :: r else y :: insertAction x r

/-- Entries that fire in one hub clock, in firing order (R286). -/
def sortActions (l : List Action) : List Action := l.foldl (fun acc x => insertAction x acc) []

/-- Fire a batch of entries that start in one hub clock (R286). -/
def fireBatch (l : List Action) (m : Mach) : Mach :=
  forEach (sortActions l) (fun a t =>
    if t.trigHeld then t.lateAction .reset a
    else t.fireAction false (decide (1 < (l.filter fun b => b.out == a.out).length)) a) m

/-- A position entry's trigger has been reached by the live MD (R288). -/
def posReached (m : Mach) (a : Action) : Bool :=
  a.kind && (match m.liveMd a.enc with | some md => decide (a.trigger ≤ md) | none => false)

/-- Mark the position entries on encoder n whose trigger the live MD has reached (R288, R291). -/
def markReached (n : Fin 4) (m : Mach) : Mach :=
  m.onJnl fun j => { j with actions := j.actions.map fun e =>
    if e.2.enc = n ∧ m.posReached e.2 then (e.1, { e.2 with reached := true }) else e }

/-- Resolve every pending position entry on encoder n as late (R291). -/
def encoderLost (n : Fin 4) (m : Mach) : Mach :=
  forEach (m.jnl.actions.filter fun e => e.2.kind && e.2.enc == n) (fun e t => t.lateAction .encoder e.2) m

/-- The late entries that waited take their policy where nothing holds them any more (R280, R290, R299). -/
def fireHeldLate (m : Mach) : Mach :=
  if m.tableFrozen then m
  else forEach (m.jnl.actions.filter fun e => e.2.lateBy.isSome && !(e.2.fire && (m.trigHeld || !m.actionsRun)))
    (fun e t => t.lateAction .late e.2) m

/-- Entries whose trigger passed while the unit was held or frozen are late (R26, R290); after a package warm reset every
position entry is. -/
def judgeHeld (allPositions : Bool) (m : Mach) : Mach :=
  forEach (m.jnl.actions.filter fun e => e.2.lateBy.isNone &&
      (if e.2.kind then allPositions || e.2.reached || m.posReached e.2 else decide (e.2.trigger ≤ m.time.n)))
    (fun e t => t.lateAction .reset e.2) m

/-- Outputs in action-table mode go low (R280 step 1, R299). -/
def actionsLow (m : Mach) : Mach :=
  forEach (List.finRange 8) (fun o t => t.onTrig o fun x => { x with actUntil := none }) m

/-! ## Rules (R293, R294) -/

/-- The rule table that judges the records of a tick's step 3 (R43). -/
def rulesAt (m : Mach) (f : Fin 8) (tn : Nat) : List Rule :=
  let v := m.jnl.rules.get f
  if tn < v.eff then v.prev else v.cur

/-- A rule matches a record (R294). -/
def Rule.hit (r : Rule) (b : Body) : Bool :=
  r.valid &&
    match b with
    | .comet final c cause confirms _ =>
      (if final then r.src == 1 && bitN r.causes cause else r.src == 0 && confirms) &&
        c.clsValid && bitN r.mtch c.cls && decide (r.cdMin ≤ c.cd) && decide (c.cd ≤ r.cdMax) && decide (r.minLen ≤ c.lenMd)
    | .snn _ _ role pop .. => r.src == 2 && r.mtch / 256 == role && r.mtch % 64 == pop
    | _ => false

/-- Kind and trigger of the entry that a rule makes of a record (R294). -/
def ruleTrigger (m : Mach) (r : Rule) (tValid : Int) (popEnc : Fin 4) (b : Body) : Bool × Fin 4 × Int × Nat :=
  match b with
  | .comet _ c .. =>
    if r.kind then (true, m.webEnc, c.md + r.offset, c.pkg * 2 ^ 24 + c.serial)
    else (false, m.webEnc, tValid + r.offset * 1000, c.pkg * 2 ^ 24 + c.serial)
  | .snn _ _ _ _ _ _ _ encMode _ _ _ _ _ _ _ _ _ _ mark =>
    if encMode then (true, popEnc, mark + r.offset, 0) else (false, popEnc, mark + r.offset * 1000, 0)
  | _ => (false, 0, 0, 0)

/-- The first rule that matches a record makes one entry, or an ACTION_MISSED with ID 0 (R294); while the table is frozen no rule makes
one (R280, R299). -/
def applyRules (f : Fin 8) (tn : Nat) (tValid : Int) (popEnc : Fin 4) (b : Body) (count : Nat) (m : Mach) : Mach :=
  let rules := m.rulesAt f tn
  match rules.findIdx? (fun r => Rule.hit r b) with
  | none => m
  | some i =>
    match rules[i]? with
    | none => m
    | some r =>
      if m.tableFrozen then m else
      let (kind, enc, trig, cid) := m.ruleTrigger r tValid popEnc b
      let a : Action :=
        { gen := 0, slot := 0, out := Fin.ofNat 8 r.out, kind := kind, enc := enc, fire := r.policy, origClass := m.classOf f b,
          fn := f, width := r.width, trigger := trig, origRsn := m.rsn count, cid := cid, rule := i }
      let m1 := m.inc R.ACT_RULE_HITS
      if !bitN (m1.g (R.ACT_F_OUT_OUT_MASK f)) r.out then
        (m1.write' f (m1.actionBody true 0 a false false MissCause.outputMode.code) 0).inc R.ACT_RULE_OUT
      else if kind ∧ !m1.on (R.MOT_ENC_CTRL_EN enc) then
        (m1.write' f (m1.actionBody true 0 a false false MissCause.encoder.code) 0).inc R.ACT_RULE_OUT
      else if 4096 ≤ m1.actionsInUse then
        (m1.write' f (m1.actionBody true 0 a false false MissCause.tableFull.code) 0).inc R.ACT_FULL
      else (m1.programAction a).2

/-- Write a step 3 record and try the rules on it when it receives its RSN (R294). -/
def writeStep3 (f : Fin 8) (tn : Nat) (tValid : Int) (popEnc : Fin 4) (b : Body) (flags : Nat) (m : Mach) : Mach :=
  match m.write f b flags with
  | (some n, m1) => m1.applyRules f tn tValid popEnc b n
  | (none, m1) => m1

end Mach

end Sys2Proof.Machine
end

