-- ==== Sys2Proof/Machine/Clock.lean ====
section
/-! DEFINITION. The counter runs forward: increments with the captures they write (R199, R203, R331). -/

namespace Sys2Proof.Machine

/-- The value set that a REBASE brings at capture S (R203). -/
def Encoder.rebased (e : Encoder) (s : Int) (mdb : Int) (cpm : Nat) : Encoder :=
  { e with set := { cb := e.count, base := mdb, cpm := cpm, from? := some s }, old := some e.set, pendRebase := false,
           pendRescale := false }

namespace Mach

/-- The staged MD_BASE and CPM of an encoder (R203). -/
def stagedMdb (m : Mach) (n : Fin 4) : Int := m.gi64 (R.MOT_ENC_MDB_LO_A n) (R.MOT_ENC_MDB_HI_A n)
def stagedCpm (m : Mach) (n : Fin 4) : Nat := m.g (R.MOT_ENC_CPM n)

/-- A pending REBASE or RESCALE applies at the capture of instant s (R203); a REBASE resolves position entries (R291). -/
def applyValueSet (n : Fin 4) (s : Int) (m : Mach) : Mach :=
  let e := m.enc.get n
  if e.pendRebase then
    let m1 := m.onEnc n fun e => e.rebased s (m.stagedMdb n) (m.stagedCpm n)
    (m1.encoderLost n).markReached n
  else if e.pendRescale then
    let base := match m.liveMd n with | some md => md | none => m.stagedMdb n
    (m.onEnc n fun e => e.rebased s base (m.stagedCpm n)).markReached n
  else m

/-- Every enabled encoder writes the captures of the whole microseconds first to last (R199). -/
def captureAll (first last : Int) (mark : Option (Int × Int)) (m : Mach) : Mach :=
  forEach ((List.finRange 4).filter fun (n : Fin 4) => m.on (R.MOT_ENC_CTRL_EN n))
    (fun (n : Fin 4) t => (t.onEnc n fun e => e.capture first last mark).applyValueSet n first) m

/-- k increments of the counter, with the captures of the whole microseconds that N reaches or passes (R199). -/
def runIncs (k : Nat) (m : Mach) : Mach :=
  let m1 := m.tickClock k
  let first := (m.time.n.fdiv 1000 + 1) * 1000
  let last := m1.time.n.fdiv 1000 * 1000
  if last < first then m1 else m1.captureAll first last none

/-- Run to the first increment at which N reaches or passes t. -/
def runTo (t : Int) (m : Mach) : Mach := m.runIncs (m.incsTo t)

/-- Run until an elapsed time has been reached. The spec does not say whether a timeout that spans a step of station time counts
the step (R12, R336): the model's timeouts run on elapsed increments, which no step changes (DESIGN CHOICE, log 78). -/
def runToElapsed (t : Int) (m : Mach) : Mach := m.runTo (t + m.time.stepSum)

/-- What an empty queue brings: one increment (log entry 2). -/
def idle (m : Mach) : Mach := m.runIncs 1

end Mach

/-- A meaning that changes the package: it always answers a next state, and the queue stays. -/
def State.act (s : State) (f : Mach → Mach) : Host.Outcome State Fault Refusal := .next { s with toMach := f s.toMach }

end Sys2Proof.Machine
end

