-- ==== Sys2Proof/Machine/TimeOps.lean ====
section
/-! DEFINITION. The servo and the time quality (R337 to R342). -/

namespace Sys2Proof.Machine

namespace Mach

/-- The source code of TIME_STATUS (R265): SRC 0 to 2; a servo without a source counts as the host. -/
def srvSource (m : Mach) : Nat := let s := m.g R.TIM_SRV_CFG_SRC; if s = 3 then 0 else s

/-- A change of quality other than to STEPPED by a step writes a TIME_STATUS record with cause 0 (R339). -/
def setQuality (q : Quality) (m : Mach) : Mach :=
  if m.time.quality = q then m
  else
    let old := m.time.quality
    (m.onTime fun t => { t with quality := q }).timeStatus m.time.servo.lastTheta old q m.srvSource 0 0

/-- HOLDOVER is entered, and the next sample is a returning one (R339, R340). y takes the running average; after a timeout I takes it
too, and after a run of spikes I stays. -/
def enterHoldover (spikes : Bool) (m : Mach) : Mach :=
  let avg := m.time.servo.yAvg
  let m1 := m.onTime fun t =>
    { t with y := avg,
             servo := { t.servo with integ := if spikes then t.servo.integ else avg, returning := true, lockRun := 0, spikeRun := 0 } }
  (m1.inc R.TIM_HOLDOVERS).setQuality .holdover

/-- A clamp of y sets CLAMP and writes SERVO_CLAMP at most once a second (R338). -/
def servoClamped (m : Mach) : Mach :=
  let m1 := m.set1 R.TIM_STAT_CLAMP
  let fresh := match m1.time.servo.clampAt with | some a => decide (1000000000 ≤ m1.elapsed - a) | none => true
  if fresh then (m1.onServo fun v => { v with clampAt := some m1.elapsed }).health H.servoClamp .package [] else m1

/-- A sample applied to the PI servo (R338), with the lock count of R339. -/
def applySample (theta delta : Int) (m : Mach) : Mach :=
  let v := m.time.servo
  let r := clampI (rnd (theta * 1000000000) delta) (-1000000) 1000000
  let i := clampI (v.integ - rnd ((m.g R.TIM_SRV_KI_KI : Int) * r) 65536) (-1000000) 1000000
  let raw := i - rnd ((m.g R.TIM_SRV_KP_KP : Int) * r) 65536
  let y := clampI raw (-1000000) 1000000
  let avg := v.yAvg + (y - v.yAvg).fdiv (2 ^ m.g R.TIM_SRV_HOLD_AVG_SHIFT)
  let inLock := theta.natAbs ≤ m.g R.TIM_SRV_LOCK_LOCK_NS
  let run := if inLock then v.lockRun + 1 else 0
  let m1 := m.onTime fun t => { t with y := y, servo := { t.servo with integ := i, yAvg := avg, lockRun := run, returning := false } }
  let m2 := if raw = y then m1 else m1.servoClamped
  if m2.time.quality ≠ .locked ∧ atLeast1 (m2.g R.TIM_SRV_LOCK_LOCK_N) ≤ run then m2.setQuality .locked else m2

/-- A slew starts (R341). When y already stands at its limit the manual states no duration: it is a free value. -/
def startSlew (theta : Int) (m : Mach) : Mach :=
  let yHold := m.time.y
  let sgn : Int := if theta < 0 then -1 else if theta = 0 then 0 else 1
  let ys := clampI (yHold - sgn * m.g R.TIM_SRV_SLEW_SLEW_PPB) (-1000000) 1000000
  let gap : Int := (ys - yHold).natAbs
  let (free, m0) := if gap = 0 then m.drawNat else (0, m)
  let dur : Int := if gap = 0 then free else ((theta.natAbs : Int) * 1000000000 + gap - 1).fdiv gap
  let m1 := m0.onTime fun t =>
    { t with y := ys, servo := { t.servo with slew := some { endsAt := m.elapsed + dur, yHold := yHold }, returning := false } }
  (m1.inc R.TIM_SLEWS).timeStatus theta m1.time.quality m1.time.quality m1.srvSource 2 0

/-- A returning sample (R340). -/
def returningSample (theta delta : Int) (m : Mach) : Mach :=
  let slewMax : Int := m.g R.TIM_SRV_SLEWMAX_SLEW_MAX
  if theta.natAbs ≤ m.g R.TIM_SRV_LOCK_LOCK_NS then m.applySample theta delta
  else if (theta.natAbs : Int) ≤ slewMax then m.startSlew theta
  else if theta < 0 ∨ theta ≤ m.tick.period * 500 ∨ m.on R.TIM_SRV_CFG_FORCE then
    m.onServo fun v => { v with stepNext := some (-theta), returning := false }
  else
    ((m.inc R.TIM_STEP_REFUSED).timeStatus theta m.time.quality m.time.quality m.srvSource 4 (-theta)).startSlew theta

/-- The servo takes no samples: in S3, and in the hold of a reset (R342). -/
def servoOff (m : Mach) : Bool := m.sleep.state == 3 || m.rst.hold.isSome

/-- An offset sample reaches the servo (R337 to R342). It restarts the holdover timer; during a slew, with EN = 0, or
while a decided step waits for its boundary it is not applied. -/
def servoSample (theta at_ : Int) (m : Mach) : Mach :=
  if m.servoOff then m else
  let v := m.time.servo
  let delta : Int := match v.lastAt with | some a => max 100000 (at_ - a) | none => 100000
  let m1 := (m.onTime fun t =>
    { t with holdFrom := m.elapsed, servo := { t.servo with lastAt := some at_, lastTheta := theta } }).inc R.TIM_SAMPLES
  if !m1.on R.TIM_SRV_CFG_EN || v.slew.isSome || v.stepNext.isSome then m1
  else if m1.time.quality = .locked ∧ m1.g R.TIM_SRV_SPIKE_SPIKE_NS < theta.natAbs then
    if v.spikeRun < m1.g R.TIM_SRV_SPIKE_SPIKE_N then
      (m1.onServo fun w => { w with spikeRun := w.spikeRun + 1 }).inc R.TIM_SPIKES
    else (m1.enterHoldover true).returningSample theta delta
  else
    let m2 := m1.onServo fun w => { w with spikeRun := 0 }
    if v.returning then m2.returningSample theta delta else m2.applySample theta delta

/-- TN now (R31): the running tick's, or that of the boundary which N has passed already; under R51 the running tick keeps its
number. -/
def tnNow (m : Mach) : Nat := if m.bnd (m.tick.tn + 1) ≤ m.time.n then toBits 48 (m.tnAt m.time.n) else m.tick.tn

/-- TIME_SEC, TIME_NS, T32 and TN of one increment (R333). -/
def snapshot (m : Mach) : Snapshot :=
  { sec := toBits 48 (m.time.n.fdiv 1000000000), ns := (m.time.n.fmod 1000000000).toNat, t32 := t32Of m.time.n, tn := m.tnNow }

/-- The next PPS_OUT instant (R345): the least whole-second instant of PPS_OFS at or after now that has not fired. -/
def ppsDue (m : Mach) : Int :=
  let ofs := (m.gi R.TIM_PPS_OFS).fmod 1000000000
  let lo := match m.time.ppsLast with | some l => max m.time.n (l + 1) | none => m.time.n
  lo + (ofs - lo).fmod 1000000000

/-- The pulse of PPS_OUT begins at its instant (R345); ppsLevel says what the gate leaves of it. -/
def ppsFire (at_ : Int) (m : Mach) : Mach :=
  m.onTime fun t => { t with ppsLast := some at_, ppsUntil := some (m.elapsed + atLeast1 (m.g R.TIM_PPS_WIDTH) * 1000) }

/-- The gate holds PPS_OUT low (R345). -/
def ppsGated (m : Mach) : Bool := m.on R.TIM_CTRL_PPS_GATE && m.time.quality != .locked

/-- The level of PPS_OUT: high in its pulse, but for the gate, which holds it low whenever it closes (R345). -/
def ppsLevel (m : Mach) : Bool := (match m.time.ppsUntil with | some u => decide (m.elapsed < u) | none => false) && !m.ppsGated

/-- The first start of a PERIODIC output after an instant (R343). -/
def nextPeriodic (start period now : Int) : Int :=
  if now < start then start else start + ((now - start).fdiv period + 1) * period

/-- Arm TRIG_OUTo with the registers in force (R344). -/
def armTrig (o : Fin 8) (m : Mach) : Mach :=
  let start := m.gi64 (R.TIM_TO_START_LO_A o) (R.TIM_TO_START_HI_A o)
  let width := m.g (R.TIM_TO_WIDTH o)
  let period := m.g (R.TIM_TO_PERIOD o)
  let idle := m.onTrig o fun t =>
    { t with armed := false, reached := false, highUntil := none, actUntil := none, width := width, period := period,
             posPer := m.g (R.TIM_TO_POSPER o) }
  match m.g (R.TIM_TO_CTRL_MODE o) with
  | 1 =>
    if start ≤ m.time.n then idle.set1 (R.TIM_TO_CTRL_LATE o)
    else idle.onTrig o fun t => { t with armed := true, next := start }
  | 2 =>
    if 8 ≤ width ∧ width < period then
      idle.onTrig o fun t => { t with armed := true, next := nextPeriodic start period m.time.n }
    else idle.set1 (R.TIM_TO_CTRL_LATE o)
  | 3 => idle.onTrig o fun t => { t with armed := true, pos := m.gi64 (R.TIM_TO_POS_LO_A o) (R.TIM_TO_POS_HI_A o) }
  | _ => idle

/-- Mark the POSITION outputs on encoder n whose POS the live MD has reached (R343, R344). -/
def markTrig (n : Fin 4) (m : Mach) : Mach :=
  match m.liveMd n with
  | none => m
  | some md =>
    forEach (List.finRange 8) (fun (o : Fin 8) t =>
      if t.g (R.TIM_TO_CTRL_MODE o) = 3 ∧ t.g (R.TIM_TO_CTRL_ENC o) = n.1 then
        t.onTrig o fun x => if x.armed ∧ x.pos ≤ md then { x with reached := true } else x
      else t) m

end Mach

end Sys2Proof.Machine
end

