-- ==== Sys2Proof/Machine/HostOps.lean ====
section
/-! DEFINITION. Rings, completions, the head shadow and interrupts (R370 to R385). -/

namespace Sys2Proof.Machine

/-! ## Completion status codes (R383) -/

namespace St
def accepted : Nat := 0x00
def done : Nat := 0x01
def format : Nat := 0x10
def owner : Nat := 0x11
def busy : Nat := 0x12
def state : Nat := 0x13
def late : Nat := 0x14
def nospace : Nat := 0x15
def wedged : Nat := 0x1F
end St

namespace Mach

/-- A ring is enabled (R370). -/
def ringEn (m : Mach) (f : Fin 8) (r : Fin 7) : Bool := m.on (R.HIF_F_RING_CFG_EN f r)

/-- SIZE of a ring (R370). -/
def ringSize (m : Mach) (f : Fin 8) (r : Fin 7) : Nat := 2 ^ m.g (R.HIF_F_RING_CFG_SZ f r)

/-- The ring's counts (R371). -/
def ring (m : Mach) (f : Fin 8) (r : Fin 7) : Ring := (m.fn.get f).rings.get r

def onRing (f : Fin 8) (r : Fin 7) (g : Ring → Ring) (m : Mach) : Mach :=
  m.onFn f fun x => { x with rings := vmod x.rings r g }

/-- Entries that a CPL, RPT or TAP ring still takes (R373): none while it is disabled. -/
def ringRoom (m : Mach) (f : Fin 8) (r : Fin 7) : Nat :=
  if m.ringEn f r then
    let c := m.ring f r
    m.ringSize f r - toBits 32 ((c.count : Int) - c.host)
  else 0

/-- The PHASE of an entry's count (R371). -/
def phaseOf (size count : Nat) : Bool := count / size % 2 == 0

/-- A message of an MSI-X vector (R375). -/
def msix (f : Fin 8) (v : Nat) (m : Mach) : Mach := m.emit (.msix f v)

/-- An error event of a function: vector 6 (R375). -/
def errEvent (f : Fin 8) (m : Mach) : Mach := m.msix f 6

/-- The head shadow (R374). -/
def shadow (f : Fin 8) (m : Mach) : Mach :=
  if m.on (R.HIF_F_CTRL_SHADOW_EN f) then
    let counts := (m.fn.get f).rings.toList.map (·.count)
    m.emit (.shadow f counts (m.fn.get f).cseq (shadowBytes counts (m.fn.get f).cseq))
  else m

/-- Send the message of a moderated vector (R375). -/
def modSend (f : Fin 8) (v : Fin 6) (m : Mach) : Mach :=
  (m.onFn f fun x => { x with mods := vput x.mods v {} }).msix f v.1

/-- One more entry for a moderated vector (R375): at COUNT entries, or at once with TIMER 0, its message goes. -/
def modEntry (f : Fin 8) (v : Fin 6) (m : Mach) : Mach :=
  let m1 := m.onFn f fun x => { x with mods := vmod x.mods v fun d =>
    { n := d.n + 1, since := match d.since with | some t => some t | none => some m.elapsed } }
  let d := (m1.fn.get f).mods.get v
  if m1.g (R.HIF_F_MOD_TIMER f v) = 0 ∨ atLeast1 (m1.g (R.HIF_F_MOD_COUNT f v)) ≤ d.n then m1.modSend f v else m1

/-- One entry has been written to ring r: its count rises, the shadow follows, then the vector (R371, R374, R375). -/
def ringWrote (f : Fin 8) (r : Fin 7) (v : Fin 6) (m : Mach) : Mach :=
  ((m.onRing f r fun c => { c with count := (c.count + 1) % 2 ^ 32 }).shadow f).modEntry f v

/-- The delivery state of ring k of a function: 0 CPL, 1 to 4 RPT0 to RPT3 (R284, R385). -/
def onDelivery (f : Fin 8) (k : Fin 5) (g : Delivery → Delivery) (m : Mach) : Mach :=
  m.onJnl fun j => { j with delivery := vmod j.delivery ⟨5 * f.1 + k.1, by omega⟩ g }

def deliveryOf (m : Mach) (f : Fin 8) (k : Fin 5) : Delivery := m.jnl.delivery.get ⟨5 * f.1 + k.1, by omega⟩

/-- The base address of a ring (R370). -/
def ringBase (m : Mach) (f : Fin 8) (r : Fin 7) : Nat := m.g64 (R.HIF_F_RING_BASE_LO_A f r) (R.HIF_F_RING_BASE_HI_A f r)

/-- The delivery state takes the ring's position after an entry whose successor is `next` (R284). -/
def advanceDelivery (f : Fin 8) (k : Fin 5) (r : Fin 7) (next : Nat) (m : Mach) : Mach :=
  let size := m.ringSize f r
  let c := (m.ring f r).count
  m.onDelivery f k fun _ =>
    { base := m.ringBase f r, size := size, slot := c % size, phase := phaseOf size c, next := next }

/-- Write a completion entry (R373, R382). Room is reserved for it by R376; while CPL is disabled a DONE waits in the
command log (R385). -/
def cplWrite (f : Fin 8) (e : Cpl) (m : Mach) : Mach :=
  if m.ringEn f 1 then
    let c := (m.ring f 1).count
    let size := m.ringSize f 1
    ((m.emit (.cpl f (c % size) (phaseOf size c) e (e.bytes (phaseOf size c)))).ringWrote f 1 0).advanceDelivery f 0 1 (e.cseq + 1)
  else if e.status = St.done then m.onFn f fun x => { x with owed := x.owed ++ [e] }
  else m

/-- Write one DONE and take the command off the open list. -/
def doneOne (f : Fin 8) (e : Cpl) (m : Mach) : Mach :=
  (m.onFn f fun x => { x with openCmds := x.openCmds.filter (· != e.cseq) }).cplWrite f e

/-- The fences of a function whose earlier commands all have their final completion (R379). -/
def fencesDone (f : Fin 8) (m : Mach) : Mach :=
  forEach (m.fn.get f).fences (fun q t =>
    if (t.fn.get f).openCmds.any (fun c => decide (c < q.2)) then t
    else (t.doneOne f { op := 0x01, ctag := q.1, status := St.done, result := 0, cseq := q.2 }).onFn f fun x =>
      { x with fences := x.fences.filter (· != q) }) m

/-- A command has finished: its DONE, then the fences it held up (R379, R385). -/
def done (f : Fin 8) (op ctag cseq result : Nat) (d10 : Nat) (data : List Byte) (m : Mach) : Mach :=
  (m.doneOne f { op := op, ctag := ctag, status := St.done, result := result, cseq := cseq, d10 := d10, data := data }).fencesDone f

/-- A pending change is finished or cancelled: its DONE (R385). -/
def donePending (p : Pending) (result : Nat) (m : Mach) : Mach := m.done p.fn p.op p.ctag p.cseq result 0 []

/-- Pending changes are cancelled, each with its DONE of RESULT 0x13 (R45, R50, R53, R385). -/
def cancelPending (which : Pending → Bool) (m : Mach) : Mach :=
  forEach (m.tick.pending.filter which) (fun q t => t.donePending q St.state)
    (m.onTick fun t => { t with pending := t.pending.filter fun p => !which p })

/-- DONE completions owed to a function (R376). -/
def owedDone (m : Mach) (f : Fin 8) : Nat := (m.fn.get f).openCmds.length + (m.fn.get f).owed.length

/-- The command unit fetches the next command of a function (R376): the ring holds one, CPL has room for every owed DONE
and one more, no FLR runs, and no LOAD_GRAPH still waits for its first completion. -/
def fetchable (m : Mach) (f : Fin 8) : Bool :=
  m.ringEn f 0 && (m.ring f 0).count != (m.ring f 0).host && decide (m.owedDone f + 1 < m.ringRoom f 1) &&
    !(m.fn.get f).flrBusy && (m.fn.get f).load.isNone && m.rst.hold.isNone

/-- Fetch: the count and the next CSEQ (R376). -/
def fetch (f : Fin 8) (m : Mach) : Mach :=
  ((m.onRing f 0 fun c => { c with count := (c.count + 1) % 2 ^ 32 }).onFn f fun x => { x with cseq := x.cseq + 1 }).touchIdle.inc R.HIF_CMD_FETCHED

/-- The checks of R378 in order, with a final commit's REJ_BUSY (R280) last. -/
def preCheck (h : CmdHdr) (op : Nat) (m : Mach) : Option Nat :=
  if !h.phaseOk then some St.format
  else if (m.fn.get h.fn).wedged then some St.wedged
  else if !h.rsvdOk then some St.format
  else if (op = 0x80 ∨ op = 0xF0) ∧ h.fn ≠ 0 then some St.owner
  else if (op = 0x30 ∨ op = 0x32 ∨ op = 0x33) ∧ m.own.tick ≠ h.fn then some St.owner
  else if m.jnl.pf.isSome then some St.busy
  else none

/-- What the first completion of an accepted command carries, and what the command then does. -/
structure Accept where
  m : Mach
  d10 : Nat := 0
  d18 : Nat := 0
  after : Mach → Mach := id

/-- Judge and run one command (R376 to R383): `judge` gives its own rejection, `accept` its effect at acceptance given its
CSEQ, and `owes` says whether it owes a DONE. Where the command unit cannot fetch, nothing happens. -/
def command (h : CmdHdr) (op : Nat) (owes : Bool) (judge : Mach → Option Nat) (accept : Nat → Mach → Accept) (m : Mach) : Mach :=
  if !m.fetchable h.fn then m
  else
    let cseq := (m.fn.get h.fn).cseq
    let m1 := m.fetch h.fn
    match (m1.preCheck h op).or (judge m1) with
    | some c =>
      (m1.inc R.HIF_CMD_REJECTED).cplWrite h.fn { op := op, ctag := h.ctag, status := c, result := 0, cseq := cseq }
    | none =>
      let m2 := if owes then m1.onFn h.fn fun x => { x with openCmds := x.openCmds ++ [cseq] } else m1
      let a := accept cseq m2
      a.after (a.m.cplWrite h.fn
        { op := op, ctag := h.ctag, status := St.accepted, result := 0, cseq := cseq, d10 := a.d10, d18 := a.d18 })

/-- TN_EFF of a boundary-bound command (R44): the tick in force, or the rejection. -/
def effTn (h : CmdHdr) (m : Mach) : Except Nat Nat :=
  let cur := m.tick.tn
  if h.tnEff = 2 ^ 48 - 1 then .ok (cur + 2)
  else if h.tnEff < cur + 2 then .error St.late
  else if cur + 2 ^ 32 < h.tnEff then .error St.format
  else .ok h.tnEff

/-- The kinds of R43, for the limit of R45. -/
def changeKind : Change → Nat
  | .tickChange .. => 0 | .tickLoad .. => 0
  | .loadGraph .. => 1 | .unloadGraph .. => 1
  | .mapRoles .. => 2
  | .calibSet .. => 3 | .calibLock .. => 3
  | .ruleSet .. => 4
  | .quality .. => 5

/-- The function holds a pending change of this kind (R45). -/
def hasPending (m : Mach) (f : Fin 8) (kind : Nat) : Bool :=
  m.tick.pending.any fun p => p.fn == f && changeKind p.change == kind

/-- Add a pending change. -/
def pend (p : Pending) (m : Mach) : Mach := m.onTick fun t => { t with pending := t.pending ++ [p] }

/-- The rejection of a boundary-bound command by R44 and R45. -/
def judgeEff (h : CmdHdr) (kind : Nat) (m : Mach) : Option Nat :=
  match m.effTn h with
  | .error c => some c
  | .ok _ => if m.hasPending h.fn kind then some St.busy else none

/-- TN_EFF in force of an accepted command. -/
def effOf (h : CmdHdr) (m : Mach) : Nat := match m.effTn h with | .ok n => n | .error _ => 0

/-! ## The management mailbox (R390) -/

/-- The request at the head of the queue gets its response, with `len` bytes of data after the header. -/
def mbAnswer (status : Nat) (values : List Int) (len : Nat) (m : Mach) : Mach :=
  match m.mgt with
  | [] => m
  | q :: rest =>
    (({ m with mgt := rest, mgtSci := none }.emit
      (.mgtResp q.resp q.code q.tag status values (respHeader q.code q.tag status len))).inc R.MGT_MB_DONE).msix 0 7

/-- Requests of unknown codes at the head of the queue are refused. -/
def mbDrain : Nat → Mach → Mach
  | 0, m => m
  | n + 1, m =>
    match m.mgt with
    | q :: _ => if q.code = 0 ∨ 8 < q.code then mbDrain n (m.mbAnswer St.format [] 0) else m
    | [] => m

/-- The head request is answered, and the queue moves on. -/
def mbReply (status : Nat) (values : List Int) (len : Nat) (m : Mach) : Mach := mbDrain 64 (m.mbAnswer status values len)

/-- The response space of the head request. -/
def mbRoom (m : Mach) : Nat := match m.mgt with | q :: _ => q.rlen | [] => 0

/-- The same where the data's layout is not stated: how many bytes they take is a free value of at most the response space. -/
def mbServe (status : Nat) (values : List Int) (m : Mach) : Mach :=
  if values.isEmpty then m.mbReply status [] 0 else let (n, m1) := m.drawNat; m1.mbReply status values (n % (m.mbRoom + 1))

/-- The head of the queue, when it is of this code and no transfer of it runs. -/
def mbHead (m : Mach) (code : Nat) : Option MgtReq :=
  match m.mgt with
  | q :: _ => if q.code = code ∧ m.mgtSci.isNone then some q else none
  | [] => none

end Mach

end Sys2Proof.Machine
end

