-- ==== Sys2Proof/Machine/MemOps.lean ====
section
/-! DEFINITION. DRAM's address space: regions, granules, ECC, owners, washes (R22, R369, R444 to R448). -/

namespace Sys2Proof.Machine

/-- The kinds of ASSIGN (R367), with the memory regions' washes of R448. -/
def kindPort : Nat := 0
def kindEngine : Nat := 1
def kindGranule : Nat := 2
def kindSlot : Nat := 3
def kindMap : Nat := 4
def kindTrig : Nat := 5
def kindDest : Nat := 6
def kindTick : Nat := 7
def kindRegion : Nat := 8

/-- Where a byte address is stored (R446): the die, and the usable offset in that die's slot (r mod 16). -/
def placeOfAddr (intlv ecc : Bool) (a : Nat) : Nat × Nat :=
  let r := a / 2 ^ 30
  if !intlv then (r / 16 % 4, a % 2 ^ 30)
  else
    let u := if ecc then 0x38000000 else 0x40000000
    let o := r / 16 * u + a % 2 ^ 30
    let j := o / 4096
    (j % 4, j / 4 * 4096 + o % 4096)

/-- The compute die that stores a byte address (R446). -/
def dieOfAddr (intlv ecc : Bool) (a : Nat) : Nat := (placeOfAddr intlv ecc a).1

namespace Mach

/-- ECC and interleaving of a region (R445, R446, R448). -/
def regionEcc (m : Mach) (r : Nat) : Bool := m.on (R.MEM_REG_ECC (r / 16) (r % 16))
def regionIntlv (m : Mach) (r : Nat) : Bool := m.on (R.MEM_REG_INTLV (r / 16) (r % 16))

/-- Slots 13 to 15 are system regions (R447). -/
def systemRegion (r : Nat) : Bool := decide (13 ≤ r % 16)

/-- An address is formed by some unit (R444, R445). -/
def addrExists (m : Mach) (a : Nat) : Bool :=
  decide (a < 2 ^ 36) && (!m.regionEcc (a / 2 ^ 30) || decide (a % 2 ^ 30 < 0x38000000))

/-- The die that stores an address. -/
def dieAt (m : Mach) (a : Nat) : Nat := dieOfAddr (m.regionIntlv (a / 2 ^ 30)) (m.regionEcc (a / 2 ^ 30)) a

/-- The owner of a 2 MB granule; system regions are reserved (R367, R447). -/
def granOwner (m : Mach) (g : Nat) : Option (Fin 8) :=
  if systemRegion (g / 512) then none else some (Tab.get (fun _ => 0) m.own.gran g)

/-- The granules of a byte range. -/
def granulesOf (a len : Nat) : List Nat :=
  if len = 0 then [] else (List.range ((a + len - 1) / 2 ^ 21 + 1 - a / 2 ^ 21)).map (a / 2 ^ 21 + ·)

/-- A granule holds a resident image, or one being loaded. -/
def granResident (m : Mach) (g : Nat) : Bool := m.images.any fun s => (granulesOf s.2.dst s.2.len).contains g

/-- A unit is still in a wash (R369). -/
def washing (m : Mach) (kind unit : Nat) : Bool := m.own.washes.any fun w => w.kind == kind && decide (w.unit ≤ unit) && decide (unit < w.unit + w.count)

/-- A granule, or the region that holds it, is in a wash. -/
def granWashing (m : Mach) (g : Nat) : Bool := m.washing kindGranule g || m.washing kindRegion (g / 512)

/-! ## Reads of resident images through the hub (R446, R450) -/

/-- Die d reads bytes of a resident image: its own stack's directly, another die's through the system cache. The answer is how many
lines DRAM was read for. -/
def hubRead (d : Nat) (a n : Nat) (m : Mach) : Nat × Mach :=
  (linesOf a n).foldl (fun (s : Nat × Mach) l =>
    if s.2.dieAt (64 * l) = d then (s.1 + 1, s.2) else (s.1 + (!s.2.scHas l).toNat, s.2.scRead l)) (0, m)

/-- A die's synapse cache is asked for lines that belong together (R451): each is counted as a hit or a miss, and when one is missing all
of them are fetched, in order. The answer is how many lines DRAM was read for. -/
def synAsk (d : Fin 4) (lines : List Nat) (m : Mach) : Nat × Mach :=
  let absent := (lines.filter fun l => !m.synHas d l).length
  let m1 := (m.addTo (R.MEM_SC_HIT d) (lines.length - absent)).addTo (R.MEM_SC_MISS d) absent
  if absent = 0 then (0, m1)
  else lines.foldl (fun (s : Nat × Mach) l => let (k, t) := s.2.hubRead d.1 (64 * l) 64; (s.1 + k, t.synFill d l)) (0, m1)

/-! ## Uncorrectable errors (R449) -/

/-- The whole address that MEM_UE_ADDR of a die holds: its high word stands beside the registers until a read latches it. -/
def ueHigh (d : Nat) : Nat := 0x2003000 + 4 * d

/-- An uncorrectable error is met at an address: counted, latched, reported. -/
def ueHit (a : Nat) (m : Mach) : Mach :=
  let d := m.dieAt a
  (((m.inc (R.MEM_UE d)).put (R.MEM_UE_ADDR_LO d) a).wr (ueHigh d) (BitVec.ofNat 32 (a / 2 ^ 32))).health H.dramUe (.die d) [a]

/-- The first failing line that a byte range reads. -/
def ueIn (m : Mach) (a n : Nat) : Option Nat := m.ueLines.find? fun l => decide (a < l + 64) && decide (l < a + n)

/-- Uncorrectable errors counted on all dies. -/
def ueCount (m : Mach) : Nat := ((List.range 4).map fun d => m.g (R.MEM_UE d)).sum

end Mach

end Sys2Proof.Machine
end

