-- ==== Sys2Proof/Machine/ActionCmds.lean ====
section
/-! DEFINITION. Meanings of ACTION_ADD, ACTION_CANCEL and RULE_SET (R292, R293). -/

namespace Sys2Proof.Machine

/-- A rule of 32 bytes at an offset (R293). -/
def Rule.of (b : List Byte) (o : Nat) : Rule :=
  let x := byteAt b o
  { valid := bitN x 7, src := bitsN x 6 5, kind := bitN x 4, out := bitsN x 3 1, policy := bitN x 0,
    causes := byteAt b (o + 1) % 16, mtch := leN b (o + 2) 2, width := leN b (o + 4) 2, offset := leI b (o + 8) 4,
    cdMin := leI b (o + 12) 4, cdMax := leI b (o + 16) 4, minLen := leN b (o + 20) 4 }

/-- A valid rule names a source and a width (R293). -/
def Rule.ok (r : Rule) : Bool := !r.valid || (decide (r.src < 3) && decide (0 < r.width))

namespace Mach

/-- R292. A table that ACT_CTRL.EN = 0 freezes takes no entry and cancels none: REJ_BUSY, as in step 1 of R280 (R299; DEDUCED, log
entry 85). -/
def actionAdd (h : CmdHdr) (out : Fin 8) (position : Bool) (enc : Fin 4) (fire : Bool) (width : Nat) (trigger : Int) (m : Mach) : Mach :=
  m.command h 0x50 false
    (fun t =>
      if !bitN (t.g (R.ACT_F_OUT_OUT_MASK h.fn)) out.1 then some St.owner
      else if t.washing kindTrig out.1 || t.tableFrozen then some St.busy
      else if width = 0 ∨ 65535 < width ∨ (position ∧ !t.on (R.MOT_ENC_CTRL_EN enc)) then some St.format
      else if 4096 ≤ t.actionsInUse then some St.nospace
      else none)
    (fun _ t =>
      let a : Action :=
        { gen := 0, slot := 0, out := out, kind := position, enc := enc, fire := fire, origClass := 0, fn := h.fn, width := width,
          trigger := trigger, origRsn := 0, cid := 0, rule := 0x3F }
      let (id, t1) := t.programAction a
      { m := t1, d10 := id })

/-- R292. -/
def actionCancel (h : CmdHdr) (id : Nat) (m : Mach) : Mach :=
  let entry := fun (t : Mach) => (t.jnl.actions.find? fun e => e.2.id == id).map (·.2)
  m.command h 0x51 false
    (fun t =>
      match entry t with
      | some a => if a.fn ≠ h.fn then some St.owner else if t.tableFrozen then some St.busy else none
      | none => some St.state)
    (fun _ t => { m := match entry t with | some a => t.missAction .cancelled a | none => t })

/-- R293. -/
def ruleSet (h : CmdHdr) (first count : Nat) (rules : List Byte) (m : Mach) : Mach :=
  let rs := (List.range count).map fun i => Rule.of rules (32 * i)
  m.command h 0x52 true
    (fun t => (t.judgeEff h 4).or
      (if count = 0 ∨ 32 < count ∨ 32 < first + count ∨ !rs.all Rule.ok then some St.format else none))
    (fun cseq t =>
      let e := t.effOf h
      { m := t.pend { fn := h.fn, op := 0x52, ctag := h.ctag, cseq := cseq, tnEff := e, change := .ruleSet first rs }, d18 := e })

end Mach

/-- ACTION_ADD (R292). -/
def execActionAdd (h : CmdHdr) (out : Fin 8) (position : Bool) (enc : Fin 4) (fire : Bool) (width : Nat) (trigger : Int) (s : State) :=
  s.act (Mach.actionAdd h out position enc fire width trigger)
/-- ACTION_CANCEL (R292). -/
def execActionCancel (h : CmdHdr) (id : Nat) (s : State) := s.act (Mach.actionCancel h id)
/-- RULE_SET (R293). -/
def execRuleSet (h : CmdHdr) (first count : Nat) (rules : List Byte) (s : State) := s.act (Mach.ruleSet h first count rules)

end Sys2Proof.Machine
end

