-- ==== Sys2Proof/Machine/Actions.lean ====
section
/-! DEFINITION. Meanings of the action unit's own commands (R288 to R290, R299). -/

namespace Sys2Proof.Machine

namespace Mach

/-- The earliest trigger of the pending time entries (R286). -/
def nextTimeTrigger (m : Mach) : Option Int :=
  ((m.jnl.actions.filter fun e => !e.2.kind && e.2.lateBy.isNone).map fun e => e.2.trigger).min?

/-- R286, R288: station time reaches the earliest time trigger, and every time entry due then pulses. -/
def fireTime (m : Mach) : Mach :=
  match m.nextTimeTrigger with
  | none => m
  | some t =>
    let m1 := m.runTo t
    if !m1.actionsRun then m1
    else m1.fireBatch ((m1.jnl.actions.filter fun e => !e.2.kind && e.2.lateBy.isNone && decide (e.2.trigger ≤ m1.time.n)).map (·.2))

/-- R288: the position entries whose trigger a count edge has reached pulse. -/
def firePosition (m : Mach) : Mach :=
  if !m.actionsRun then m
  else m.fireBatch ((m.jnl.actions.filter fun e => e.2.kind && e.2.reached && e.2.lateBy.isNone).map (·.2))

/-- R289, R336: an action pulse ends after its width in elapsed time. -/
def actionEnd (o : Fin 8) (m : Mach) : Mach :=
  match (m.time.trigOut.get o).actUntil with
  | some u => (m.runToElapsed u).onTrig o fun x => { x with actUntil := none }
  | none => m

/-- R299: EN 0 freezes the table as step 1 of R280 does; EN 1 judges what passed meanwhile (R290). -/
def actEn (en : Bool) (m : Mach) : Mach :=
  let was := m.on R.ACT_CTRL_EN
  let m1 := m.put R.ACT_CTRL_EN en.toNat
  if !en then m1.actionsLow
  else if was || !m1.actionsRun then m1
  else m1.fireHeldLate.judgeHeld false

/-- R299: a read of JNL_F_RSN_c_LO latches the high word of the next RSN. -/
def rsnRead (f : Fin 8) (c : Fin 4) (m : Mach) : Mach :=
  let v := m.rsn (m.jnl.next.get (stream f c))
  let m1 := m.put64 (R.JNL_F_RSN_A f (2 * c.1)) (R.JNL_F_RSN_A f (2 * c.1 + 1)) v
  m1.emit (.readValue (R.JNL_F_RSN_A f (2 * c.1)) (m1.rd (R.JNL_F_RSN_A f (2 * c.1))))

end Mach

/-- ACTION_TRIGGER_TIME (R288). -/
def execActionTriggerTime (s : State) := s.act Mach.fireTime
/-- ACTION_TRIGGER_POSITION (R288). -/
def execActionTriggerPosition (s : State) := s.act Mach.firePosition
/-- ACTION_PULSE_END (R289). -/
def execActionPulseEnd (o : Fin 8) (s : State) := s.act (Mach.actionEnd o)
/-- ACT_CTRL_EN (R299). -/
def execActCtrlEn (en : Bool) (s : State) := s.act (Mach.actEn en)
/-- JNL_F_RSN_READ (R299). -/
def execJnlFRsnRead (f : Fin 8) (cls : Fin 4) (s : State) := s.act (Mach.rsnRead f cls)

end Sys2Proof.Machine
end

