-- ==== Sys2Proof/Machine/EnergyOps.lean ====
section
/-! DEFINITION. Energy: prices, debits and the tests of the ledger (R303 to R309); frequencies and voltages of levels (R313). -/

namespace Sys2Proof.Machine

/-- Clock of a level in kHz (R313). -/
def plKhz : Nat → Nat
  | 0 => 400000 | 1 => 600000 | 2 => 800000 | 3 => 950000 | 4 => 1100000 | 5 => 1250000 | 6 => 1400000 | _ => 1550000

/-- Voltage of a level in mV, in its edge variant or not (R313). -/
def plMv (l : Nat) (edge : Bool) : Nat := 550 + 50 * l - (if edge ∧ 2 ≤ l then 25 else 0)

/-- Voltage factor (R313). -/
def plVf (l : Nat) (edge : Bool) : Int := rnd (65536 * ((plMv l edge : Int) * plMv l edge)) 722500

namespace Mach

/-- The coefficient of a kind, in pJ (R303). -/
def coefOf (m : Mach) : Work → Nat
  | .ev => m.g R.PWR_COEF_EV
  | .pass => m.g R.PWR_COEF_PASS
  | .tle => m.g R.PWR_COEF_TLE
  | .syn => m.g R.PWR_COEF_SYN
  | .touch => m.g R.PWR_COEF_TOUCH
  | .byte => m.g R.PWR_COEF_BYTE
  | .fus => m.g R.PWR_COEF_FUS

/-- The rail group of a kind of work on a die (R303, R330): 0 to 3 CD, 4 HUB, 5 DRAM. -/
def groupOf (k : Work) (d : Fin 4) : Fin 6 :=
  match k with
  | .byte => 5
  | .fus => 4
  | _ => ⟨d.1, by omega⟩

/-- The voltage factor that prices a group (R304). -/
def groupVf (m : Mach) (grp : Fin 6) : Int :=
  if grp.1 < 4 then let l := vat m.lvl grp.1; plVf l.volt l.voltEdge else 65536

/-- The price of n units with a correction K (R304). -/
def priceK (m : Mach) (k : Work) (d : Fin 4) (n : Nat) (kk : Int) : Int :=
  let grp := groupOf k d
  rnd (m.coefOf k * n * m.groupVf grp * (if grp = 5 then 65536 else (m.led.tf.get grp : Int)) * kk) (2 ^ 46 * 1000)

/-- The price of n units (R304). -/
def price (m : Mach) (k : Work) (d : Fin 4) (n : Nat) : Int := m.priceK k d n (m.g (R.PWR_R_K_K (groupOf k d)))

/-- The items of R306 that a debit belongs to. -/
inductive Item where
  | roi | fusion | class_ | norm | known | cal | tap
deriving DecidableEq, Repr

/-- An amount is debited for an item; the reserves of items 1, 2 and 4 fall with it (R306). -/
def debitNj (it : Item) (c : Int) (m : Mach) : Mach :=
  m.onLed fun l =>
    let l1 := { l with bal := l.bal - c }
    match it with
    | .roi => { l1 with r1 := max 0 (l.r1 - c), s1 := l.s1 + c }
    | .fusion => { l1 with r2 := max 0 (l.r2 - c), s2 := l.s2 + c }
    | .norm => { l1 with r4 := max 0 (l.r4 - c), s4 := l.s4 + c }
    | _ => l1

/-- Energy spent on tick tn's work (R308). -/
def spend (tn : Nat) (c : Int) (m : Mach) : Mach := m.onAcct tn fun a => { a with energy := a.energy + c }

/-- Work of one kind has run: it counts in C_raw of its group (R310). -/
def rawWork (k : Work) (d : Fin 4) (n : Nat) (m : Mach) : Mach :=
  let c := m.priceK k d n 16384
  m.onLed fun l => { l with raw := vmod l.raw (groupOf k d) (· + c) }

/-- Work is debited and spent as it runs. -/
def debit (it : Item) (k : Work) (d : Fin 4) (n tn : Nat) (m : Mach) : Mach :=
  let c := m.price k d n
  ((m.debitNj it c).spend tn c).rawWork k d n

/-- The balance that an item's test compares with its cost (R306). -/
def headroom (m : Mach) (it : Item) : Int :=
  match it with
  | .roi => m.led.bal
  | .fusion => m.led.bal
  | .class_ => m.led.bal - m.led.r1 - m.led.r2
  | .norm => m.led.bal - m.led.r1 - m.led.r2
  | _ => m.led.bal - m.led.r1 - m.led.r2 - m.led.r4

/-- The test of R306; with LEDGER_EN = 0 every test passes (R309). -/
def affords (m : Mach) (it : Item) (c : Int) : Bool :=
  !m.on R.PWR_CTRL_LEDGER_EN || it == .roi || it == .fusion || decide (c ≤ m.headroom it)

/-- Temperature factor of a whole temperature (R304). -/
def tfOf (m : Mach) (t : Int) : Nat := 65536 + m.g R.PWR_TF_TF_SLOPE * (t - 25).toNat

/-- A sensor's reading in Q8.8 °C (R321). -/
def sensor (m : Mach) (i : Nat) : Int := m.gi (R.THM_S i)

/-- The sensors of a die, or of the hub for 4 (R321). -/
def sensorsOf (d : Nat) : List Nat := if d < 4 then (List.range 5).map (5 * d + ·) else (List.range 4).map (20 + ·)

/-- The hottest sensor of a list, in whole °C. -/
def hottest (m : Mach) (l : List Nat) : Int := ((l.map m.sensor).foldl max (-32768)).fdiv 256

end Mach

end Sys2Proof.Machine
end

