-- ==== Sys2Proof/Machine/PortOps.lean ====
section
/-! DEFINITION. Sensor ports: field maps, the decoder, re-stamping, the vat and its drops (R58 to R86). -/

namespace Sys2Proof.Machine

/-! ## Field maps (R64 to R69) -/

/-- Actions of a word type (R67). -/
inductive FmAction where
  | skip | timeHigh | timeLow | rowBase | event | vector | trigger | reserved
deriving DecidableEq, Repr

/-- One word-type entry of a field map. -/
structure FmEntry where
  action : FmAction
  count : Bool
  xadv : Bool
  pol : Nat
  aPos : Nat
  aWid : Nat
  bPos : Nat
  bWid : Nat
  cPos : Nat
  cWid : Nat
  dPos : Nat
  dWid : Nat
deriving DecidableEq, Repr

/-- A field map's configuration. -/
structure FmCfg where
  wsize : Nat
  typePos : Nat
  hshift : Nat
  lowCarry : Bool
  bswap : Bool
  unit : Nat
deriving DecidableEq, Repr

def FmAction.of : Nat → FmAction
  | 0 => .skip | 1 => .timeHigh | 2 => .timeLow | 3 => .rowBase | 4 => .event | 5 => .vector | 6 => .trigger | _ => .reserved

/-- Word width in bits of WSIZE (R65). -/
def FmCfg.width (c : FmCfg) : Nat := if c.wsize = 0 then 16 else if c.wsize = 1 then 32 else 64

/-- A map is invalid (R69). -/
def FmCfg.valid (c : FmCfg) : Bool := c.wsize != 3 && decide (c.typePos + 4 ≤ c.width) && c.unit != 0

/-- field(w, pos, wid) (R66). -/
def fieldOf (w pos wid : Nat) : Nat := w / 2 ^ pos % 2 ^ wid

/-- A present field lies within the word (R69). -/
def fits (width pos wid : Nat) : Bool := wid == 0 || decide (pos + wid ≤ width)

/-- An entry is valid (R69). -/
def FmEntry.valid (c : FmCfg) (e : FmEntry) : Bool :=
  let w := c.width
  let a := fits w e.aPos e.aWid
  let b := fits w e.bPos e.bWid
  let cc := fits w e.cPos e.cWid
  let d := fits w e.dPos e.dWid
  let polOk := e.pol != 0 || (b && e.bWid == 1)
  e.pol != 1 &&
    match e.action with
    | .reserved => false
    | .skip => true
    | .timeHigh => a && e.aWid != 0 && decide (c.hshift + e.aWid ≤ 64)
    | .timeLow => a && e.aWid != 0 && decide (e.aWid ≤ c.hshift)
    | .rowBase => a && b && decide (e.aWid ≤ 12) && decide (e.bWid ≤ 12)
    | .event => a && cc && d && polOk && decide (e.dWid ≤ c.hshift) && e.aWid != 0 && decide (e.aWid ≤ 12) && decide (e.cWid ≤ 12)
    | .vector => a && cc && d && polOk && (e.aWid == 8 || e.aWid == 16 || e.aWid == 32) && decide (e.cWid ≤ 12) && decide (e.dWid ≤ 12)
    | .trigger => a && d && decide (e.dWid ≤ c.hshift) && decide (e.aWid ≤ 4)

/-- Polarity of an event (R67). -/
def FmEntry.polOf (e : FmEntry) (b : Nat) : Bool := if e.pol = 0 then b == 1 else e.pol == 3

/-- set_low of R68. -/
def setLow (c : FmCfg) (v n : Nat) (s : DecState) : DecState :=
  let stc := if c.lowCarry ∧ v < s.stc % 2 ^ n then (s.stc + 2 ^ n) % 2 ^ 64 else s.stc
  { s with stc := stc / 2 ^ n * 2 ^ n + v }

/-- TIME_HIGH of R68. -/
def setHigh (c : FmCfg) (wid v : Nat) (s : DecState) : DecState :=
  let top := c.hshift + wid
  let stc := if top < 64 ∧ v < fieldOf s.stc c.hshift wid then (s.stc + 2 ^ top) % 2 ^ 64 else s.stc
  { s with stc := (if top < 64 then stc / 2 ^ top * 2 ^ top else 0) + v * 2 ^ c.hshift }

namespace Mach

/-- Field map k's configuration. -/
def fmCfg (m : Mach) (k : Nat) : FmCfg :=
  { wsize := m.g (R.FMAP_CFG_WSIZE k), typePos := m.g (R.FMAP_CFG_TYPE_POS k), hshift := m.g (R.FMAP_CFG_HSHIFT k),
    lowCarry := m.on (R.FMAP_CFG_LOW_CARRY k), bswap := m.on (R.FMAP_CFG_BSWAP k), unit := m.g (R.FMAP_UNIT k) }

/-- Entry t of field map k. -/
def fmEntry (m : Mach) (k t : Nat) : FmEntry :=
  let w0 := (m.rd (R.FMAP_WT0_A k t)).toNat
  let w1 := (m.rd (R.FMAP_WT1_A k t)).toNat
  { action := .of (bitsN w0 6 4), count := bitN w0 3, xadv := bitN w0 2, pol := bitsN w0 1 0,
    aPos := bitsN w0 31 26, aWid := bitsN w0 25 20, bPos := bitsN w0 19 14, bWid := bitsN w0 13 8,
    cPos := bitsN w1 31 26, cWid := bitsN w1 25 20, dPos := bitsN w1 19 14, dWid := bitsN w1 13 8 }

/-- The nibble of a virtual channel: VC_EN and MAP (R64). -/
def vcNibble (m : Mach) (p vc : Nat) : Nat := (m.rd (R.ING_VCMAP_A p (vc / 8 % 2))).toNat / 2 ^ (4 * (vc % 8)) % 16

/-- A virtual channel is enabled (R64). -/
def vcOn (m : Mach) (p vc : Nat) : Bool :=
  decide (vc < 16) && (decide (vc < 4) || m.on (R.ING_PHY_VCX_EN p)) && decide (8 ≤ m.vcNibble p vc)

/-- The field maps that a port's enabled virtual channels select. -/
def mapsOf (m : Mach) (p : Nat) : List Nat := ((List.range 16).filter fun v => m.vcOn p v).map fun v => m.vcNibble p v % 8

/-- FMAP_STAT.IN_USE: a map is selected by an enabled port (R85). -/
def mapInUse (m : Mach) (k : Nat) : Bool := (List.range 16).any fun p => m.on (R.ING_CTRL_EN p) && (m.mapsOf p).contains k

/-! ## Enabling (R69, R71, R78, R82, R85, R116) -/

/-- The sync settings let edges be driven (R71). -/
def syncOk (m : Mach) (p : Nat) : Bool :=
  let per := m.g (R.ING_SYNC_PER p)
  let wid := m.g (R.ING_SYNC_CFG_SYNC_WIDTH p)
  let ph := m.g (R.ING_SYNC_PHASE p)
  decide (100 ≤ per) && decide (per ≤ 100000) && decide (wid * 1000 + ph < per * 1000) && decide (wid < per)

/-- R78's geometry limits. -/
def geomOk (w h : Nat) : Bool :=
  w != 0 && h != 0 && decide (w * h ≤ 1048576) && decide ((w + 31) / 32 * ((h + 31) / 32) ≤ 1024)

/-- The ranges that the ING tables give the settings of a port to enable (R85): rows and columns, and, with SYNC_EN, the sync
pulse and the hold of the fit. DEDUCED (log 76): R85 names no check of its own for these and says that none is ever outside. -/
def rangesOk (m : Mach) (p : Nat) : Bool :=
  decide (m.g (R.ING_GEOM_WIDTH p) ≤ 4096) && decide (m.g (R.ING_GEOM_HEIGHT p) ≤ 4096) &&
    (!m.on (R.ING_CTRL_SYNC_EN p) || (m.g (R.ING_SYNC_CFG_SYNC_WIDTH p) != 0 && m.g (R.ING_SYNC_CFG_FIT_HOLD p) != 0))

/-- The pipeline of a port (R116). -/
def pipeOf (m : Mach) (p : Nat) : Nat := (m.rd (R.FE_D_PIPE_A (p / 4))).toNat / 2 ^ (8 * (p % 4)) % 8

/-- Surface bank b of a port (R90). -/
def bankOf (m : Mach) (p b : Nat) : Nat := (m.rd (R.FE_D_BANKS0_A (p / 4) + 4 * (p % 4))).toNat / 2 ^ (8 * b) % 32

def banksOf (m : Mach) (p : Nat) : List Nat := (List.range 4).map (m.bankOf p)

/-- The enable checks that give REJ_FORMAT. -/
def enableFormat (m : Mach) (p : Nat) : Bool :=
  let lanes := m.g (R.ING_PHY_LANES p)
  let hwm := m.g (R.ING_WM_HWM p)
  let others := (List.range 4).map (fun k => p / 4 * 4 + k) |>.filter fun q => q != p && m.on (R.ING_CTRL_EN q)
  !(lanes == 1 || lanes == 2 || lanes == 4) || m.g (R.ING_TMO_PKT_TIMEOUT p) == 0 ||
    (m.mapsOf p).any (fun k => !(m.fmCfg k).valid) ||
    (m.on (R.ING_CTRL_SYNC_EN p) && !m.syncOk p) ||
    !geomOk (m.g (R.ING_GEOM_WIDTH p)) (m.g (R.ING_GEOM_HEIGHT p)) || !m.rangesOk p ||
    decide (hwm ≤ m.g (R.ING_WM_LWM p)) || decide (32768 < hwm) ||
    !(decide (m.banksOf p).Nodup) ||
    others.any fun q => m.pipeOf q == m.pipeOf p || (m.banksOf q).any fun b => (m.banksOf p).contains b

/-- The enable checks that give REJ_STATE: a pipeline or bank that the floor plan does not show as good (R116). -/
def enableState (m : Mach) (p : Nat) : Bool :=
  let d := vat m.rst.dies (p / 4)
  d.lost || !d.feGood.getLsbD (m.pipeOf p) || (m.banksOf p).any fun b => !d.bankGood.getLsbD b

/-- The rejection of an enable, if any. -/
def enableReject (m : Mach) (p : Nat) : Option Nat :=
  if m.enableFormat p then some St.format else if m.enableState p then some St.state else none

/-- The settings that port p works with (R85): the registers, where a write since the last packet header has replaced none. -/
def settings (p : Fin 16) (m : Mach) : Mach := forEach (m.port.get p).inForce (fun e t => t.wr e.1 e.2) m

/-- A write of a setting of a port in reception takes effect at the next packet header: the value before it stays in force
(R85). -/
def keepSetting (p : Fin 16) (key : Nat) (m : Mach) : Mach :=
  if (m.port.get p).running ∧ ((m.port.get p).inForce.find key).isNone then
    m.onPort p fun x => { x with inForce := x.inForce.put key (m.rd key) }
  else m

/-- The fit becomes invalid and forgets the previous pair (R75). -/
def fitOff (p : Fin 16) (m : Mach) : Mach := m.onPort p fun x => { x with fit := { x.fit with valid := false, prev := none } }

/-- A port's surface, flicker state and curd grids are zeroed, and the pipeline waits (R95). The events of the open grids
are gone; warm-up begins when the zeroing is done (R114). -/
def zeroSurface (p : Fin 16) (m : Mach) : Mach :=
  m.onFe p fun x =>
    { x with surf := [], flk := [], grids := [], zeroing := true, warming := true, tauW := none, held := none }

/-- Reception starts: decoder state zeroed, fit invalid, surface zeroed (R85, R95). MD_START waits for the first boundary
after the enable (R262). Where EN is written 0 and again 1 while a packet is in reception, the spec names no fate for that packet:
the model goes on receiving it, from zeroed decoder state (DESIGN CHOICE, log 75). -/
def enablePort (p : Fin 16) (m : Mach) : Mach :=
  let m1 := (m.set1 (R.ING_CTRL_EN p)).onPort p fun x =>
    { x with running := true, stopReq := false, failed := false, fresh := true, dec := Vector.replicate 16 {}, rx := x.rx.map fun r => { r with dec := {} } }
  let m2 := (m1.fitOff p).zeroSurface p
  m2.onFe p fun x => { x with sweep := (m.time.n.fdiv 2000).fdiv 16384, sweeping := false }

/-- Disable: reception stops at the next packet boundary (R85). -/
def disablePort (p : Fin 16) (m : Mach) : Mach :=
  let m1 := m.clr (R.ING_CTRL_EN p)
  if (m.port.get p).running then m1.onPort p fun x => { x with stopReq := true } else m1

/-! ## Station time of stamps (R33, R51) -/

/-- The station time nearest to now with the given low 32 bits (R33). -/
def extend (m : Mach) (t32 : Nat) : Int := m.time.n + toSigned 32 (toBits 32 ((t32 : Int) - m.time.n))

/-- End of the running tick: B_(TN+1) (R31, R51). -/
def tickEnd (m : Mach) : Int := m.bnd (m.tick.tn + 1)

/-- The tick that an event stamp belongs to (R33, R51): a stamp past the running tick's window joins it, and so does one
before its window when a step has been applied within it. -/
def tickOf (m : Mach) (s : Int) : Int :=
  let k := m.tick.tn
  if m.tickEnd ≤ s then k
  else if m.tick.start ≤ s then k
  else
    let joins := match m.acct? k with | some a => a.joins | none => false
    if joins then k
    else
      match m.tick.accts.find? (fun a => decide (a.start ≤ s) && (match a.tEnd with | some e => decide (s < e) | none => true)) with
      | some a => a.tn
      | none => min (m.tnAt s) ((k : Int) - 1)

/-! ## The vat (R77 to R86) -/

/-- Blocks of n words. -/
def blocksOf (n : Nat) : Nat := (n + 31) / 32

/-- Blocks of the packet in read that the reader has not finished (R77). -/
def readBlocks (r : VatRead) : Nat := if r.words.length ≤ r.pos then 0 else blocksOf r.words.length - r.pos / 32

/-- Blocks in use (R77). -/
def blocksUsed (x : Port) : Nat :=
  (x.vat.map fun k => blocksOf k.words.length).sum + (match x.reading with | some r => readBlocks r | none => 0) +
    (match x.rx with | some r => blocksOf r.events.length | none => 0)

/-- FILL (R77). -/
def fillOf (x : Port) : Nat := 32 * blocksUsed x

/-- The watermarks judge FILL (R82). -/
def evalFc (p : Fin 16) (m : Mach) : Mach :=
  let s := m.settings p
  let f := fillOf (m.port.get p)
  if s.g (R.ING_WM_HWM p) ≤ f then m.onPort p fun x => { x with wmFc := true }
  else if f ≤ s.g (R.ING_WM_LWM p) then m.onPort p fun x => { x with wmFc := false }
  else m

/-- A packet header arrives: the settings written since the last one take effect, and the watermarks judge FILL (R82, R85). -/
def headerIn (p : Fin 16) (m : Mach) : Mach := (m.onPort p fun x => { x with inForce := [] }).evalFc p

/-- A drop of a packet counts in the account of a tick, as its class, and the port is not covered there (R57, R86). -/
def dropIn (p : Nat) (roi : Bool) (tn : Nat) (m : Mach) : Mach :=
  m.onAcct tn fun a =>
    { a with dropRoi := a.dropRoi + roi.toNat, dropNorm := a.dropNorm + (!roi).toNat,
             bad := if a.bad.contains (p, 2) then a.bad else a.bad ++ [(p, 2)], drops := a.drops ++ [(p, 1)] }

/-- A packet that had not committed is lost (R86). -/
def lostRaw (p : Fin 16) (m : Mach) : Mach := m.dropIn p.1 false m.tick.tn

/-- A committed packet is lost: it counts for every tick that holds one of its stamps (R86). -/
def lostPacket (p : Fin 16) (k : VatPacket) (m : Mach) : Mach :=
  let ticks := (k.words.map fun w => (m.tickOf (m.extend w.t32)).toNat).dedup
  forEach ticks (fun t s => s.dropIn p.1 k.roi t) m

/-- The packet in reception is dropped whole: nothing of it takes effect (R60, R79, R81). -/
def dropRx (p : Fin 16) (c : Fld) (m : Mach) : Mach :=
  (((m.onPort p fun x => { x with rx := none }).inc c).lostRaw p).evalFc p

/-- The most recently committed normal packet that the reader has not started (R81). -/
def lastNorm (l : List VatPacket) : Option (VatPacket × List VatPacket) :=
  match l.reverse.findIdx? (fun k => !k.roi) with
  | none => none
  | some i =>
    let j := l.length - 1 - i
    match l[j]? with
    | some k => some (k, l.eraseIdx j)
    | none => none

/-- The packet in reception needs a block (R81): the machine after room was made, or with the packet dropped. The fuel is
the number of packets that can be dropped for it. -/
def needBlock (p : Fin 16) : Nat → Mach → Mach
  | 0, m => m.dropRx p (R.ING_DROP_ROI p)
  | n + 1, m =>
    let x := m.port.get p
    match x.rx with
    | none => m
    | some r =>
      let ctr := if r.roi then R.ING_DROP_ROI p else R.ING_DROP_NORM p
      if 1024 ≤ blocksOf r.events.length then m.dropRx p ctr
      else if blocksUsed x < 1024 then m
      else if !r.roi then m.dropRx p ctr
      else
        match lastNorm x.vat with
        | none => m.dropRx p ctr
        | some (k, rest) => needBlock p n (((m.onPort p fun y => { y with vat := rest }).inc (R.ING_DROP_NORM p)).lostPacket p k)

/-- Append an event word to the packet in reception (R79, R81). Its own region counts for the packet's class. -/
def putWord (p : Fin 16) (w : EvWord) (m : Mach) : Mach :=
  let m1 := m.onPort p fun x => { x with rx := x.rx.map fun r => { r with roi := r.roi || w.region } }
  match (m1.port.get p).rx with
  | none => m1
  | some r =>
    let fresh := r.events.length % 32 == 0
    let m2 := if fresh then m1.needBlock p 1025 else m1
    if (m2.port.get p).rx.isNone then m2
    else
      let m3 := ((m2.onPort p fun x => { x with rx := x.rx.map fun r => { r with events := w :: r.events } }).inc (R.ING_EVENTS p)).touchIdle
      if fresh then m3.evalFc p else m3

/-! ## The decoder (R65 to R70, R74, R75) -/

/-- The region class of a pixel (R78). -/
def regionOf (region : List Word) (width x y : Nat) : Bool :=
  let c := y / 32 * ((width + 31) / 32) + x / 32
  match region[c / 32]? with
  | some w => w.getLsbD (c % 32)
  | none => false

/-- The station time of an event of sensor time u, and whether the stamp is coarse (R74, R75). -/
def stampOf (m : Mach) (p : Fin 16) (headerAt : Int) (u : Int) : Int × Bool :=
  let f := (m.port.get p).fit
  if f.valid then (f.sa + (f.r * (u - f.ua) + 2 ^ 30).fdiv (2 ^ 31), false)
  else (headerAt - (m.settings p).g (R.ING_TMO_ARRIVAL_COMP p), true)

/-- emit (R70). -/
def emitEv (p : Fin 16) (unit : Nat) (x y : Nat) (pol : Bool) (stc : Nat) (m : Mach) : Mach :=
  match (m.port.get p).rx with
  | none => m
  | some r =>
    let s := m.settings p
    let w := s.g (R.ING_GEOM_WIDTH p)
    if w ≤ x ∨ s.g (R.ING_GEOM_HEIGHT p) ≤ y ∨ 4095 < x then m.inc (R.ING_OOR p)
    else
      let (s, coarse) := m.stampOf p r.headerAt ((stc : Int) * unit)
      m.putWord p { unchecked := false, coarse := coarse, t32 := t32Of s, region := regionOf r.region w x y, port := p.1, pol := pol, y := y, x := x }

/-- Put the decoder state of the packet in reception. -/
def setDec (p : Fin 16) (f : DecState → DecState) (m : Mach) : Mach :=
  m.onPort p fun x => { x with rx := x.rx.map fun r => { r with dec := f r.dec } }

/-- One word (R68). A marker of the sync channel waits for the commit (R72). -/
def decodeWord (p : Fin 16) (w : Nat) (m : Mach) : Mach :=
  match (m.port.get p).rx with
  | none => m
  | some r =>
    let c := m.fmCfg r.map
    let e := m.fmEntry r.map (fieldOf w c.typePos 4)
    if !e.valid c then m.inc (R.ING_BAD_MAP p)
    else
      let a := fieldOf w e.aPos e.aWid
      let b := fieldOf w e.bPos e.bWid
      let cc := fieldOf w e.cPos e.cWid
      let d := fieldOf w e.dPos e.dWid
      match e.action with
      | .skip => if e.count then m.inc (R.ING_SKIP p) else m
      | .timeHigh => m.setDec p (setHigh c e.aWid a)
      | .timeLow => m.setDec p (setLow c a e.aWid)
      | .rowBase => m.setDec p fun s =>
          { s with ybase := if e.aWid = 0 then s.ybase else a, xbase := if e.bWid = 0 then s.xbase else b }
      | .event =>
        let s := if e.dWid = 0 then r.dec else setLow c d e.dWid r.dec
        (m.setDec p fun _ => s).emitEv p c.unit a (if e.cWid = 0 then s.ybase else cc) (e.polOf b) s.stc
      | .vector =>
        let y := if e.cWid = 0 then r.dec.ybase else cc
        let x0 := if e.dWid = 0 then r.dec.xbase else d
        let m1 := forEach (maskBits a e.aWid) (fun i t => t.emitEv p c.unit (x0 + i) y (e.polOf b) r.dec.stc) m
        if e.xadv then m1.setDec p fun s => { s with xbase := (x0 + e.aWid) % 4096 } else m1
      | .trigger =>
        let s := if e.dWid = 0 then r.dec else setLow c d e.dWid r.dec
        let m1 := m.setDec p fun _ => s
        if a = (m.settings p).g (R.ING_SYNC_CFG_SYNC_CH p) then
          m1.onPort p fun x => { x with rx := x.rx.map fun r => { r with markers := r.markers ++ [(s.stc : Int) * c.unit] } }
        else m1.inc (R.ING_TRIG_OTHER p)
      | .reserved => m

/-- The words of a payload, in order, with the bytes left over (R65). -/
def wordsOf (bswap : Bool) (n : Nat) : Nat → List Byte → List Nat × List Byte
  | 0, b => ([], b)
  | k + 1, b =>
    if n ≤ b.length then
      let h := b.take n
      let (ws, t) := wordsOf bswap n k (b.drop n)
      (leN (if bswap then h.reverse else h) 0 n :: ws, t)
    else ([], b)

/-- Payload bytes reach the decoder. -/
def feed (p : Fin 16) (bytes : List Byte) (m : Mach) : Mach :=
  match (m.port.get p).rx with
  | none => m
  | some r =>
    let c := m.fmCfg r.map
    let all := r.carry ++ bytes
    let (ws, t) := wordsOf c.bswap (c.width / 8) all.length all
    let m1 := m.onPort p fun x => { x with rx := some { r with carry := t, got := r.got + bytes.length } }
    forEach ws (fun w s => s.decodeWord p w) m1

/-! ## Sync markers and the fit (R72, R73) -/

/-- A new pair updates the fit (R73); while SYNC_EN = 0 the fit stays invalid and no pair is stored (R75). -/
def fitPair (p : Fin 16) (u s : Int) (m : Mach) : Mach :=
  if !m.on (R.ING_CTRL_SYNC_EN p) then m else
  let f := (m.port.get p).fit
  let m1 := m.onPort p fun x => { x with fit := { x.fit with prev := some (u, s) } }
  match f.prev with
  | none => m1
  | some (u0, s0) =>
    if u ≤ u0 then (m1.onPort p fun x => { x with fit := { x.fit with valid := false } }).inc (R.ING_SYNC_BAD p)
    else
      let r := (2 * (2 ^ 31 * (s - s0)) + (u - u0)).fdiv (2 * (u - u0))
      if (2 : Int) ^ 21 < (r - 2 ^ 31).natAbs then m1.inc (R.ING_SYNC_BAD p)
      else
        let r' := if f.valid then f.r + (r - f.r).fdiv (2 ^ min 8 ((m.settings p).g (R.ING_SYNC_CFG_RATE_SHIFT p))) else r
        m1.onPort p fun x => { x with fit := { x.fit with valid := true, r := r', sa := s, ua := u } }

/-- A committed marker looks for its edge (R72). -/
def marker (p : Fin 16) (headerEl u : Int) (m : Mach) : Mach :=
  let x := m.port.get p
  match x.edges.findIdx? (fun e => decide (e.t ≤ headerEl)) with
  | none => m.inc (R.ING_SYNC_UNPAIRED p)
  | some i =>
    match x.edges[i]? with
    | none => m
    | some e =>
      if e.used ∨ ((m.settings p).g (R.ING_SYNC_WIN_PAIR_WIN p) : Int) * 1000 < headerEl - e.t then m.inc (R.ING_SYNC_UNPAIRED p)
      else (m.onPort p fun y => { y with edges := y.edges.modify i fun e => { e with used := true } }).fitPair p u e.s

/-- The packet in reception commits (R79, R84). -/
def commitRx (p : Fin 16) (trunc : Bool) (m : Mach) : Mach :=
  match (m.port.get p).rx with
  | none => m
  | some r =>
    let words := r.events.reverse.map fun w => if trunc then { w with unchecked := true } else w
    let m1 := m.onPort p fun x =>
      { x with rx := none, dec := x.dec.set (r.hdr.vc % 16) r.dec (Nat.mod_lt _ (by decide)),
               vat := if words.isEmpty then x.vat else x.vat ++ [{ roi := r.roi, trunc := trunc, words := words }] }
    forEach r.markers (fun u t => t.marker p r.headerEl u) m1

/-! ## Flush, stop, discard (R83, R85) -/

/-- Reception stops (R85): what was written meanwhile is in force when it starts again. -/
def stopPort (p : Fin 16) (m : Mach) : Mach := (m.onPort p fun y => { y with running := false, stopReq := false, inForce := [] }).evalFc p

/-- The flush takes place at a packet boundary (R83), and the commands that asked for it are done. FLUSH_BUSY clears and DONE is
written at the discard: the spec's "until this is done" is read as the discard alone, without waiting until the packet in read has
been delivered to its end (DESIGN CHOICE, log 74). -/
def flushNow (p : Fin 16) (m : Mach) : Mach :=
  let x := m.port.get p
  let m1 := (m.onPort p fun y => { y with vat := [], flushPend := false, flushOwed := [] }).addTo (R.ING_FLUSHED p) x.vat.length
  let m2 := forEach x.vat (fun k t => t.lostPacket p k) m1
  forEach x.flushOwed (fun o t => t.done o.1 0x22 o.2.1 o.2.2 0 0 []) (m2.evalFc p)

/-- What waits for a packet boundary on the input (R83, R85). -/
def atBoundary (p : Fin 16) (m : Mach) : Mach :=
  let x := m.port.get p
  if x.rx.isSome then m
  else
    let m1 := if x.flushPend then m.flushNow p else m
    if x.stopReq then m1.stopPort p else m1

/-- Every packet of a vat is discarded, the ones in read and in reception with it; with `count` each counts in FLUSHED and
as a drop (R85, R86). A RAW8 packet is no drop (R59). -/
def discardVat (p : Fin 16) (count : Bool) (m : Mach) : Mach :=
  let x := m.port.get p
  let m1 := m.onPort p fun y => { y with vat := [], reading := none, rx := none, burst := 0, dec := Vector.replicate 16 {} }
  if !count then m1.evalFc p
  else
    let inRead : List VatPacket := match x.reading with | some r => [{ roi := r.roi, trunc := r.trunc, words := r.words }] | none => []
    let committed := inRead ++ x.vat
    let m2 := m1.addTo (R.ING_FLUSHED p) (committed.length + x.rx.isSome.toNat)
    let m3 := forEach committed (fun k t => t.lostPacket p k) m2
    let m4 := match x.rx with | some r => if r.hdr.dt = 0x2A then m3 else m3.lostRaw p | none => m3
    m4.evalFc p

/-! ## The sensor control interface (R62, R63) -/

/-- Byte i of ING_SCI_BUF. -/
def sciBuf (m : Mach) (p : Nat) : List Byte :=
  (List.range 8).flatMap fun k => bytesOf 4 (m.rd (R.ING_SCI_BUF_A p k)).toNat

/-- Store bytes at the start of ING_SCI_BUF. -/
def sciPut (p : Nat) (b : List Byte) (m : Mach) : Mach :=
  let all := b.take 32 ++ (m.sciBuf p).drop (b.take 32).length
  forEach (List.range 8) (fun k t => t.wr (R.ING_SCI_BUF_A p k) (BitVec.ofNat 32 (leN all (4 * k) 4))) m

/-- What a transfer ends with: RESULT, the bytes read, and what its asker is owed (R62, R384). RLEN is the one that was given with
GO, whatever ING_SCI_CMD holds by then; with a RESULT other than OK, ING_SCI_BUF keeps its bytes: the spec says neither (DESIGN
CHOICE, log 77). -/
def sciEnd (p : Fin 16) (result : Nat) (data : List Byte) (m : Mach) : Mach :=
  match (m.port.get p).sci with
  | none => m
  | some run =>
    let got := if result = 0 then data.take run.rlen else []
    let m1 := ((m.onPort p fun x => { x with sci := none }).put (R.ING_SCI_STAT_RESULT p) result).clr (R.ING_SCI_CMD_GO p)
    let m2 := if result = 0 then m1.sciPut p got else m1
    match run.who with
    | .cmd f ctag cseq => m2.done f 0x20 ctag cseq 0 result got
    | .mgt => if m2.mgtSci = some p then m2.mbServe 0 ((result : Int) :: got.map fun b => (b.toNat : Int)) else m2
    | .host => m2

/-- MODE selects a bus (R62, table of ING_SCI_CFG): 0 and 5 to 7 are off. -/
def sciMode (m : Mach) (p : Nat) : Nat := m.g (R.ING_SCI_CFG_MODE p)

/-- A transfer starts in the mode of ING_SCI_CFG (R62). A length above 32 ends it at once with RESULT 3. With the interface off the
spec gives no result: nothing goes out, and the transfer ends with a RESULT other than OK that is free (log 77). -/
def sciStart (p : Fin 16) (who : SciBy) (addr wlen rlen : Nat) (m : Mach) : Mach :=
  let m1 := ((m.put (R.ING_SCI_CMD_ADDR p) addr).put (R.ING_SCI_CMD_WLEN p) wlen).put (R.ING_SCI_CMD_RLEN p) rlen
  let m2 := (m1.set1 (R.ING_SCI_CMD_GO p)).onPort p fun x => { x with sci := some { who := who, startEl := m1.elapsed, rlen := rlen } }
  if 32 < wlen ∨ 32 < rlen then m2.sciEnd p 3 []
  else if m2.sciMode p = 0 ∨ 4 < m2.sciMode p then
    let (v, m3) := m2.drawNat
    m3.sciEnd p (1 + v % 4) []
  else m2.emit (.sci p.1 (m2.sciMode p) addr ((m2.sciBuf p).take wlen) rlen)

end Mach

end Sys2Proof.Machine
end

