-- ==== Sys2Proof/Machine/FrontEndOps.lean ====
section
/-! DEFINITION. Event front end: time surface, filters, corners, flow, curd grids and patches (R87 to R116). -/

namespace Sys2Proof.Machine

/-- The value in force for a tick (R37). -/
def Versioned.at_ {α : Type} (v : Versioned α) (tn : Nat) : α := if tn < v.eff then v.prev else v.cur

/-- A new value holds from tick `eff` on. -/
def Versioned.push {α : Type} (v : Versioned α) (a : α) (eff : Nat) : Versioned α := { cur := a, prev := v.cur, eff := eff }

/-! ## Surface time (R91, R92) -/

/-- Surface time of a station instant. -/
def tauOf (s : Int) : Int := s.fdiv 2000

/-- Epoch of a surface time. -/
def epochOf (tau : Int) : Int := tau.fdiv 16384

/-- The tag of an epoch. -/
def tagOf (e : Int) : Nat := (e.fmod 3).toNat + 1

/-- The code of a surface time (R91). -/
def encodeTau (tau : Int) : Nat := tagOf (epochOf tau) * 16384 + (tau.fmod 16384).toNat

/-- The age d of a code relative to a reference time (R92); none: never. -/
def ageOf (ref : Int) (code : Nat) : Option Int :=
  let e := epochOf ref
  let off : Int := (code % 16384 : Nat)
  if code / 16384 = tagOf e then some (ref - (e * 16384 + off))
  else if code / 16384 = tagOf (e + 2) then some (ref - ((e - 1) * 16384 + off))
  else none

namespace Mach

def feWidth (m : Mach) (p : Fin 16) : Nat := m.g (R.ING_GEOM_WIDTH p)
def feHeight (m : Mach) (p : Fin 16) : Nat := m.g (R.ING_GEOM_HEIGHT p)

/-- The byte address of cell i of a port in its die's surface SRAM (R90): bank i >> 18 of FE_BANKS, each of 1 MB. -/
def cellPlace (m : Mach) (p : Fin 16) (i : Nat) : Nat := m.bankOf p (i / 262144) * 0x100000 + i % 262144 * 4

/-- The surface cell of a pixel (R90). -/
def cellOf (m : Mach) (p : Fin 16) (x y : Nat) : Nat :=
  (Tab.get (fun _ => (0 : Word)) (m.fe.get p).surf (m.cellPlace p (y * m.feWidth p + x))).toNat

/-- The cells of a port's surface that are not zero, by ascending index. -/
def cellsUp (m : Mach) (p : Fin 16) : List (Nat × Word) :=
  (List.range 4).flatMap fun b =>
    ((m.fe.get p).surf.filter fun c => c.1 / 0x100000 == m.bankOf p b).map fun c => (b * 262144 + c.1 % 0x100000 / 4, c.2)

/-- The code of a pixel and polarity; 0 outside the frame. -/
def codeAt (m : Mach) (p : Fin 16) (pol : Bool) (x y : Int) : Nat :=
  if 0 ≤ x ∧ 0 ≤ y ∧ x < m.feWidth p ∧ y < m.feHeight p then
    let c := m.cellOf p x.toNat y.toNat
    if pol then c / 65536 else c % 65536
  else 0

/-- A pixel is marked HOT (R91). -/
def isHot (m : Mach) (p : Fin 16) (x y : Nat) : Bool := m.cellOf p x y % 65536 == 1

/-- Store a code of one polarity. -/
def putCode (p : Fin 16) (pol : Bool) (x y code : Nat) (m : Mach) : Mach :=
  let i := m.cellPlace p (y * m.feWidth p + x)
  let c := m.cellOf p x y
  let v := if pol then c % 65536 + code * 65536 else c / 65536 * 65536 + code
  m.onFe p fun f => { f with surf := Tab.set (fun _ => (0 : Word)) f.surf i (BitVec.ofNat 32 v) }

/-- The surface write (R94). -/
def surfWrite (p : Fin 16) (pol : Bool) (x y : Nat) (tau : Int) (m : Mach) : Mach :=
  if m.isHot p x y then m
  else
    match ageOf tau (m.codeAt p pol x y) with
    | some d => if 0 ≤ d then m.putCode p pol x y (encodeTau tau) else m
    | none => m.putCode p pol x y (encodeTau tau)

/-! ## The ager (R93) -/

/-- Clear the codes of epoch E - 2 in a cell. -/
def sweepCell (e : Int) (w : Word) : Word :=
  let t := tagOf (e + 1)
  let lo := w.toNat % 65536
  let hi := w.toNat / 65536
  BitVec.ofNat 32 ((if lo / 16384 = t then 0 else lo) + (if hi / 16384 = t then 0 else hi) * 65536)

/-- The sweep for epoch E begins: it takes effect for every result at once. -/
def startSweep (p : Fin 16) (e : Int) (m : Mach) : Mach :=
  m.onFe p fun f =>
    { f with sweep := e, sweeping := true,
             surf := f.surf.filterMap fun c => let v := sweepCell e c.2; if v = 0 then none else some (c.1, v) }

/-- A sweep whose epoch has begun comes before the next word read. The spec does not say what a step of station time does to
sweeps: an epoch begun again after a backward step gets no second sweep, and epochs that a forward step jumps over get none of
their own (DESIGN CHOICE, log 79). -/
def dueSweep (p : Fin 16) (m : Mach) : Mach :=
  let e := epochOf (tauOf m.time.n)
  let f := m.fe.get p
  if m.on (R.ING_CTRL_EN p) && f.learning.isNone && decide (f.sweep < e) then m.startSweep p e else m

/-! ## Zeroing and the hot list (R95, R97) -/

/-- Apply the hot list: marks in the polarity-0 codes of the listed pixels. -/
def applyHot (p : Fin 16) (m : Mach) : Mach :=
  let base := m.g64 (R.FE_HOT_BASE_LO_A p) (R.FE_HOT_BASE_HI_A p)
  let n := m.g (R.FE_HOT_CNT_HOT_COUNT p)
  forEach (List.range n) (fun k t =>
    let e := leN ((List.range 4).map fun i => Mem.read t.dram (base + 4 * k + i)) 0 4
    let x := bitsN e 11 0
    let y := bitsN e 27 16
    if x < t.feWidth p ∧ y < t.feHeight p then t.putCode p false x y 1 else t) m

/-- Write bytes to DRAM; a line that is written reads without its error again, and leaves the system cache (R450). -/
def dramPut (a : Nat) (b : List Byte) (m : Mach) : Mach :=
  { m.scDrop (fun l => decide (a < 64 * l + 64) && decide (64 * l < a + b.length)) with
           ueLines := m.ueLines.filter fun l => decide (l + 64 ≤ a) || decide (a + b.length ≤ l),
           dram := (b.foldl (fun (s : Nat × Mem) x => (s.1 + 1, Mem.write s.2 s.1 x)) (a, m.dram)).2 }

/-- Read bytes of DRAM. -/
def dramGet (m : Mach) (a n : Nat) : List Byte := (List.range n).map fun i => Mem.read m.dram (a + i)

/-! ## Filters (R96 to R101) -/

/-- R99: refractory. -/
def refrWhey (m : Mach) (p : Fin 16) (x y : Nat) (tau : Int) : Bool :=
  [false, true].any fun pol =>
    match ageOf tau (m.codeAt p pol x y) with
    | some d => decide (d.natAbs < m.g (R.FE_FILT_REFRACT p))
    | none => false

/-- R100: support from a neighbour. -/
def supported (m : Mach) (p : Fin 16) (x y : Nat) (tau : Int) : Bool :=
  ([(-1, -1), (0, -1), (1, -1), (-1, 0), (1, 0), (-1, 1), (0, 1), (1, 1)] : List (Int × Int)).any fun o =>
    [false, true].any fun pol =>
      match ageOf tau (m.codeAt p pol (x + o.1) (y + o.2)) with
      | some d => decide (d.natAbs ≤ m.g (R.FE_FILT_T_SUPPORT p))
      | none => false

/-- The 16×16 cell of a pixel (R101). -/
def cell16 (m : Mach) (p : Fin 16) (x y : Nat) : Nat := y / 16 * ((m.feWidth p + 15) / 16) + x / 16

/-- One event through the flicker filter (R101): whether it is whey, and the cell's new state. -/
def flkStep (en : Bool) (lockMin pmin pmax : Nat) (tau : Int) (pol : Bool) (s : Flk) : Bool × Flk :=
  let s1 := if s.lock ≠ 0 ∧ (s.p + s.p / 8 : Int) < tau - s.o then { s with lock := 0 } else s
  let s2 :=
    if pol then
      let s' :=
        if (pmin / 2 : Int) < tau - s1.l then
          let dt := tau - s1.o
          let t :=
            if (pmin : Int) ≤ dt ∧ dt ≤ pmax then
              { s1 with lock := if (dt - s1.p).natAbs ≤ s1.p / 16 then min (s1.lock + 1) 15 else 1, p := dt.toNat }
            else { s1 with lock := 0 }
          { t with o := tau }
        else s1
      { s' with l := tau }
    else s1
  if !en || decide (s2.lock < lockMin) then (false, s2)
  else
    let ph := (tau - s2.o).fmod s2.p
    let w : Int := s2.p / 8
    (if pol then decide (ph < w) else decide ((ph - (s2.p / 2 : Nat)).natAbs ≤ w), s2)

/-! ## Corners (R103 to R105) -/

/-- The ring of radius 3. -/
def ring16 : List (Int × Int) :=
  [(0, -3), (1, -3), (2, -2), (3, -1), (3, 0), (3, 1), (2, 2), (1, 3), (0, 3), (-1, 3), (-2, 2), (-3, 1), (-3, 0), (-3, -1), (-2, -2), (-1, -3)]

/-- The ring of radius 4. -/
def ring20 : List (Int × Int) :=
  [(0, -4), (1, -4), (2, -3), (3, -2), (4, -1), (4, 0), (4, 1), (3, 2), (2, 3), (1, 4), (0, 4), (-1, 4), (-2, 3), (-3, 2), (-4, 1), (-4, 0),
   (-4, -1), (-3, -2), (-2, -3), (-1, -4)]

/-- The ages of a ring (R103). -/
def ringAges (m : Mach) (p : Fin 16) (pol : Bool) (x y : Nat) (tau : Int) (ring : List (Int × Int)) : List Int :=
  ring.map fun o =>
    match ageOf tau (m.codeAt p pol (x + o.1) (y + o.2)) with
    | some d => clampI d 0 32767
    | none => 32767

/-- The margin of a ring (R104): the largest, over the arcs, of the least age outside less the greatest inside. -/
def ringMargin (lmin lmax : Nat) (a : List Int) : Int :=
  let n := a.length
  let arcs := (List.range n).flatMap fun s => ((List.range (lmax + 1)).filter fun l => decide (lmin ≤ l)).map fun l =>
    let rot := a.drop s ++ a.take s
    (rot.drop l).foldl min 32767 - (rot.take l).foldl max 0
  arcs.foldl max (-32767)

/-- The corner decision and whether the exact path ran (R104, R105). -/
def cornerTest (m : Mach) (p : Fin 16) (q : Nat) (pol : Bool) (x y : Nat) (tau : Int) : Bool × Bool :=
  let a16 := m.ringAges p pol x y tau ring16
  let a20 := m.ringAges p pol x y tau ring20
  let sh := m.g (R.FE_CORNER_CQ_SHIFT p)
  let cheap := fun (l : List Int) => l.map fun a => min 15 (a.fdiv (2 ^ sh))
  let m16 := ringMargin (m.g (R.FE_CORNER_L16_MIN p)) (m.g (R.FE_CORNER_L16_MAX p))
  let m20 := ringMargin (m.g (R.FE_CORNER_L20_MIN p)) (m.g (R.FE_CORNER_L20_MAX p))
  let q16 := m16 (cheap a16)
  let q20 := m20 (cheap a20)
  let c := min q16.natAbs q20.natAbs
  if c + q ≤ 15 then (decide (1 ≤ m16 a16) && decide (1 ≤ m20 a20), true) else (decide (1 ≤ q16) && decide (1 ≤ q20), false)

/-! ## Flow (R106 to R108) -/

/-- The sums of a fit. -/
structure FitSums where
  n : Int := 0
  sx : Int := 0
  sy : Int := 0
  sxx : Int := 0
  syy : Int := 0
  sxy : Int := 0
  st : Int := 0
  sxt : Int := 0
  syt : Int := 0
deriving DecidableEq, Repr

/-- The offsets of a square neighbourhood. -/
def square (r : Nat) : List (Int × Int) :=
  (List.range (2 * r + 1)).flatMap fun j => (List.range (2 * r + 1)).map fun i => ((i : Int) - r, (j : Int) - r)

/-- The valid pixels of a neighbourhood, as (i, j, t) (R106). -/
def flowPixels (m : Mach) (p : Fin 16) (pol : Bool) (x y : Nat) (tau : Int) (r : Nat) : List (Int × Int × Int) :=
  (square r).filterMap fun o =>
    match ageOf tau (m.codeAt p pol (x + o.1) (y + o.2)) with
    | some d => if 0 ≤ d ∧ d ≤ m.g (R.FE_FLOW_FLOW_WIN p) then some (o.1, o.2, -d) else none
    | none => none

def FitSums.of (l : List (Int × Int × Int)) : FitSums :=
  l.foldl (fun s e =>
    let (i, j, t) := e
    { n := s.n + 1, sx := s.sx + i, sy := s.sy + j, sxx := s.sxx + i * i, syy := s.syy + j * j, sxy := s.sxy + i * j,
      st := s.st + t, sxt := s.sxt + i * t, syt := s.syt + j * t }) {}

/-- sat16 (R107). -/
def sat16 (v : Int) : Int := clampI v (-32768) 32767

/-- The normal flow of a plane fit (R107); none: no flow. -/
def FitSums.flow (s : FitSums) (minN : Nat) : Option (Int × Int) :=
  if s.n < minN then none
  else
    let d := s.sxx * (s.syy * s.n - s.sy * s.sy) - s.sxy * (s.sxy * s.n - s.sy * s.sx) + s.sx * (s.sxy * s.sy - s.syy * s.sx)
    let da := s.sxt * (s.syy * s.n - s.sy * s.sy) - s.sxy * (s.syt * s.n - s.sy * s.st) + s.sx * (s.syt * s.sy - s.syy * s.st)
    let db := s.sxx * (s.syt * s.n - s.sy * s.st) - s.sxt * (s.sxy * s.n - s.sy * s.sx) + s.sx * (s.sxy * s.st - s.syt * s.sx)
    let g := da * da + db * db
    if d = 0 ∨ g = 0 then none else some (sat16 (rnd (128000 * da * d) g), sat16 (rnd (128000 * db * d) g))

/-- The flow of an event and whether the exact path ran (R108). -/
def flowFit (m : Mach) (p : Fin 16) (q : Nat) (pol : Bool) (x y : Nat) (tau : Int) : Option (Int × Int) × Bool :=
  let near := m.flowPixels p pol x y tau 1
  let exact := decide (near.length + (q + 1) / 2 ≤ 9)
  let px := if exact then m.flowPixels p pol x y tau 2 else near
  ((FitSums.of px).flow (m.g (R.FE_FLOW_FLOW_MIN p)), exact)

/-! ## Curd grids and curds (R109 to R111) -/

/-- Count one event into a cell. -/
def countCell (w : EvWord) (off : Int) (corner : Bool) (flow : Option (Int × Int)) (c : Cell) : Cell :=
  let first := c.n0 + c.n1 == 0
  let (fx, fy) := flow.getD (0, 0)
  { n0 := c.n0 + (!w.pol).toNat, n1 := c.n1 + w.pol.toNat, sx := c.sx + w.x, sy := c.sy + w.y, sOff := c.sOff + off,
    minOff := if first then off else min c.minOff off, maxOff := if first then off else max c.maxOff off,
    corners := c.corners + corner.toNat, flowN := c.flowN + flow.isSome.toNat, svx := c.svx + fx, svy := c.svy + fy,
    coarse := c.coarse || w.coarse, unchecked := c.unchecked || w.unchecked }

/-- The sum of two cells. -/
def addCells (a b : Cell) : Cell :=
  { n0 := a.n0 + b.n0, n1 := a.n1 + b.n1, sx := a.sx + b.sx, sy := a.sy + b.sy, sOff := a.sOff + b.sOff,
    minOff := min a.minOff b.minOff, maxOff := max a.maxOff b.maxOff, corners := a.corners + b.corners,
    flowN := a.flowN + b.flowN, svx := a.svx + b.svx, svy := a.svy + b.svy, coarse := a.coarse || b.coarse,
    unchecked := a.unchecked || b.unchecked }

/-- Two cells touch, corners included (R110). -/
def touches (wc a b : Nat) : Bool :=
  decide (((a % wc : Nat) : Int) - (b % wc : Nat) ≤ 1) && decide (((b % wc : Nat) : Int) - (a % wc : Nat) ≤ 1) &&
    decide (a / wc ≤ b / wc + 1) && decide (b / wc ≤ a / wc + 1)

/-- Grow a component: cells still to look at, those not yet reached, those in it. -/
def grow (wc : Nat) : Nat → List Nat → List Nat → List Nat → List Nat × List Nat
  | 0, _, rest, comp => (comp, rest)
  | _, [], rest, comp => (comp, rest)
  | n + 1, c :: front, rest, comp =>
    let near := rest.filter (touches wc c)
    grow wc n (front ++ near) (rest.filter fun x => !touches wc c x) (comp ++ near)

/-- The components of active cells given in ascending order; each starts with its lowest index. -/
def components (wc : Nat) : Nat → List Nat → List (List Nat)
  | 0, _ => []
  | _, [] => []
  | n + 1, c :: rest =>
    let (comp, left) := grow wc (rest.length + 1) [c] rest [c]
    comp :: components wc n left

/-- At most 1,024 components: those from 1,023 on are merged (R110). -/
def capComponents (l : List (List Nat)) : List (List Nat) × Nat :=
  if l.length ≤ 1024 then (l, 0) else (l.take 1023 ++ [(l.drop 1023).flatten], l.length - 1023)

/-- A curd of a component (R111). -/
def curdOf (m : Mach) (p : Fin 16) (g : Grid) (index : Nat) (overflow : Bool) (comp : List Nat) : Curd :=
  let wc := (m.feWidth p + 15) / 16
  let w := m.feWidth p
  let h := m.feHeight p
  let cells := comp.map fun i => Tab.get (fun _ => ({} : Cell)) g.cells i
  let sum : Cell := match cells with | [] => ({} : Cell) | c :: r => r.foldl addCells c
  let n : Int := (sum.n0 + sum.n1 : Nat)
  let cx := comp.map (· % wc)
  let cy := comp.map (· / wc)
  let xMin := 16 * cx.foldl min wc
  let yMin := 16 * cy.foldl min 4096
  let xMax := min (16 * cx.foldl max 0 + 15) (w - 1)
  let yMax := min (16 * cy.foldl max 0 + 15) (h - 1)
  let mean := fun (v : Int) => (2 * v + n).fdiv (2 * n)
  let sat32 := fun (v : Int) => clampI v (-(2 ^ 31)) (2 ^ 31 - 1)
  { tn := g.tn, port := p.1, index := index, edge := xMin == 0 || yMin == 0 || xMax == w - 1 || yMax == h - 1,
    unchecked := sum.unchecked, coarse := sum.coarse, overflow := overflow, patch := false, cells := comp.length % 65536,
    xMin := xMin, yMin := yMin, xMax := xMax, yMax := yMax, cx := (mean (16 * (sum.sx : Int))).toNat, cy := (mean (16 * (sum.sy : Int))).toNat,
    evOff := sum.n0, evOn := sum.n1, tMean := sat32 (mean sum.sOff), tFirst := sat32 sum.minOff, tLast := sat32 sum.maxOff,
    vx := if sum.flowN = 0 then 0 else rnd sum.svx sum.flowN, vy := if sum.flowN = 0 then 0 else rnd sum.svy sum.flowN,
    flowN := sum.flowN, corners := sum.corners, patchAddr := 0, start := g.start }

/-- The curds of one port's grid, and the components merged away (R110). The spec does not say which CURD_MIN judges the cells of
tick n at B_(n+1) + 5 µs: the model takes the one in force then, after the writes staged for B_(n+1) (DESIGN CHOICE, log 79). -/
def curdsOf (m : Mach) (p : Fin 16) (g : Grid) : List Curd × Nat :=
  let wc := (m.feWidth p + 15) / 16
  let active := (g.cells.filter fun c => decide (m.g (R.FE_CURD p) ≤ c.2.n0 + c.2.n1)).map (·.1)
  let (comps, extra) := capComponents (components wc active.length active)
  (comps.mapIdx fun i c => m.curdOf p g i (extra != 0 && i == 1023) c, extra)

/-! ## Patches (R112, R447) -/

/-- DECAY[k] (R112). -/
def decay (m : Mach) (p : Fin 16) (k : Nat) : Nat := (m.rd (R.FE_DECAY_T0_A p + 4 * (k / 4))).toNat / 2 ^ (8 * (k % 4)) % 256

/-- The value of a patch byte (R112); the HOT code decodes as never. -/
def patchByte (m : Mach) (p : Fin 16) (pol : Bool) (x y ref : Int) : Byte :=
  match ageOf ref (m.codeAt p pol x y) with
  | none => 0
  | some d =>
    let k := (max 0 d).toNat / 2 ^ m.g (R.FE_DECAY_DEC_SHIFT p)
    if k < 16 then BitVec.ofNat 8 (m.decay p k) else 0

/-- The 2,048 bytes of a curd's patch (R112). -/
def patchBytes (m : Mach) (p : Fin 16) (c : Curd) (ref : Int) : List Byte :=
  let x0 : Int := ((c.cx + 8) / 16 : Nat) - 16
  let y0 : Int := ((c.cy + 8) / 16 : Nat) - 16
  [false, true].flatMap fun pol => (List.range 32).flatMap fun r => (List.range 32).map fun k => m.patchByte p pol (x0 + k) (y0 + r) ref

/-- Device address of entry i of a die's patch ring (R447). -/
def patchAddr (d i : Nat) : Nat := (16 * d + 15) * 2 ^ 30 + 0x10000000 + 2048 * (i % 32768)

/-- Device address of the classification result beside patch i (R124, R447). -/
def resultAddr (d i : Nat) : Nat := (16 * d + 15) * 2 ^ 30 + 0x14000000 + 32 * (i % 32768)

/-- Replace a curd of a port. -/
def onCurd (p : Fin 16) (tn index : Nat) (f : Curd → Curd) (m : Mach) : Mach :=
  m.onFe p fun x => { x with curds := x.curds.map fun c => if c.tn = tn ∧ c.index = index then f c else c }

/-! ## Staged register writes (R115) -/

/-- A staged value lies in the range its table gives. -/
def feValueOk (r : Nat) (v : Nat) : Bool :=
  match r with
  | 0x008 => decide (1 ≤ bitsN v 31 16) && decide (bitsN v 31 16 ≤ 16383) && decide (bitsN v 15 0 ≤ 16383)
  | 0x00C => v != 0
  | 0x018 => decide (bitsN v 28 16 ≤ 4096) && decide (bitsN v 12 0 ≤ 4096)
  | 0x01C => decide (16 ≤ bitsN v 15 0) && decide (bitsN v 15 0 < bitsN v 31 16)
  | 0x020 => bitsN v 3 0 != 0
  | 0x024 =>
    decide (1 ≤ bitsN v 20 16) && decide (bitsN v 20 16 ≤ bitsN v 28 24) && decide (bitsN v 28 24 ≤ 19) &&
      decide (1 ≤ bitsN v 11 8) && decide (bitsN v 11 8 ≤ bitsN v 15 12) && decide (bitsN v 3 0 ≤ 11)
  | 0x028 => decide (3 ≤ bitsN v 20 16) && decide (bitsN v 20 16 ≤ 25) && decide (1 ≤ bitsN v 15 0) && decide (bitsN v 15 0 ≤ 16383)
  | 0x02C => bitsN v 15 0 != 0
  | 0x030 => decide (bitsN v 19 0 ≤ 1000000)
  | 0x034 => decide (bitsN v 3 0 ≤ 11)
  | _ => true

/-- Offset of a port's FE page (R116). -/
def fePage (p : Nat) : Nat := 0x140000 + p / 4 * 0x10000 + p % 4 * 0x2000

/-- The staged writes of a port take effect (R115). -/
def applyStagedFe (p : Fin 16) (m : Mach) : Mach :=
  let st := (m.fe.get p).staged
  forEach st (fun e t =>
    if feValueOk (e.1 - fePage p) e.2.toNat then t.wr e.1 (if e.1 = fePage p then (t.rd e.1 &&& ~~~0xF#32) ||| (e.2 &&& 0xF#32) else e.2)
    else t.set1 (R.FE_STAT_CFG_WR p))
    (m.onFe p fun x => { x with staged := [] })

end Mach

end Sys2Proof.Machine
end

