-- ==== Sys2Proof/Machine/GraphOps.lean ====
section
/-! DEFINITION. Graph images: their layout, records and checks (R174 to R184, R118, R130, R135, R145, R146, R161). -/

namespace Sys2Proof.Machine

/-- One byte's bits. -/
def byBits (b : List Byte) (o hi lo : Nat) : Nat := bitsN (byteAt b o) hi lo

/-- Size of local SRAM (R118). -/
def localTop : Nat := 0x140000

/-- Sections of an image: type, count, offset (R175). -/
structure Sect where
  typ : Nat
  count : Nat
  off : Nat
deriving DecidableEq, Repr

/-- Record size and most records by section type (R175). -/
def sectShape (total : Nat) : Nat → Option (Nat × Nat)
  | 0x01 => some (8, 256) | 0x02 => some (32, 256) | 0x03 => some (16, 4096) | 0x04 => some (64, 256) | 0x05 => some (32, 8192)
  | 0x06 => some (64, 16384) | 0x07 => some (32, 65536) | 0x08 => some (32, 65536) | 0x09 => some (32, 4096) | 0x0A => some (1, total)
  | _ => none

/-- The directory. -/
def directory (b : List Byte) : List Sect :=
  (List.range (leN b 0x18 2)).map fun i =>
    { typ := byteAt b (0x40 + 16 * i), count := leN b (0x44 + 16 * i) 4, off := leN b (0x48 + 16 * i) 5 }

/-- Bytes of a section. The records of tool data have a size that is not stated and are not read: they count none. -/
def Sect.size (total : Nat) (s : Sect) : Nat := match sectShape total s.typ with | some (r, _) => s.count * r | none => 0

/-- R175, R176: types known, each at most once, counts, alignment, extents, no overlap. -/
def dirOk (total : Nat) (d : List Sect) : Bool :=
  let head := 64 + 16 * d.length
  decide (d.map (·.typ)).Nodup &&
    d.all (fun s =>
      (match sectShape total s.typ with | some (_, mx) => decide (s.count ≤ mx) | none => decide (0x80 ≤ s.typ)) &&
        s.off % 64 == 0 && decide (head ≤ s.off) && decide (s.off + s.size total ≤ total)) &&
    d.Pairwise fun s t => s.off + s.size total ≤ t.off ∨ t.off + t.size total ≤ s.off

/-- The bytes of the records of a section type, in order. -/
def recordsOf (b : List Byte) (d : List Sect) (typ size : Nat) : List (List Byte) :=
  match d.find? (·.typ == typ) with
  | some s => (List.range s.count).map fun i => sliceB b (s.off + i * size) size
  | none => []

/-! ## Records -/

def FeSetRec.of (r : List Byte) : FeSetRec := { ports := leN r 0 2, off := leN r 2 2, value := leN r 4 4 }

def RoleRec.of (r : List Byte) : RoleRec :=
  { role := byteAt r 0, dense := bitN (byteAt r 1) 7, spiking := bitN (byteAt r 1) 6, replica := bitN (byteAt r 1) 5,
    affine := bitN (byteAt r 1) 4, minPl := byBits r 1 3 0, template := byteAt r 2, affineRole := byteAt r 3, dieMask := byBits r 4 3 0,
    lFirst := byteAt r 5, lLast := byteAt r 6, initFirst := leN r 8 2, initCount := leN r 0xA 2, strFirst := leN r 0xC 2,
    strCount := byBits r 0xE 5 0, localUse := leN r 0x10 4 }

def InitRec.of (r : List Byte) : InitRec := { blob := leN r 0 5, loc := leN r 8 4, len := leN r 0xC 4 }

def LayerRec.of (r : List Byte) : LayerRec :=
  { op := byteAt r 0, unit := byBits r 1 7 6, mode := byBits r 1 5 4, actSigned := bitN (byteAt r 1) 3, outType := byBits r 1 2 0,
    role := byteAt r 2, last := bitN (byteAt r 3) 7, nextValid := bitN (byteAt r 3) 6, nextRole := byteAt r 4,
    k := byBits r 5 7 5, stride := byBits r 5 4 2, pt := byBits r 7 7 4, pl := byBits r 7 3 0, pb := byBits r 6 7 4, pr := byBits r 6 3 0,
    cIn := leN r 8 2, cOut := leN r 0xA 2, hIn := leN r 0xC 2, wIn := leN r 0xE 2, inA := leN r 0x10 4, in2A := leN r 0x14 4,
    outA := leN r 0x18 4, wgtA := leN r 0x1C 4, biasA := leN r 0x20 4, multA := leN r 0x24 4, sh := leI r 0x28 1,
    wgtStrm := bitN (byteAt r 0x29) 7, wgtSid := byBits r 0x29 4 0, lo := leN r 0x2C 2, hi := leN r 0x2E 2,
    ma := leI r 0x30 4, mb := leI r 0x34 4, scale := leN r 0x38 4 }

def StreamRec.of (r : List Byte) : StreamRec :=
  { base := leN r 0 5, sid := byBits r 5 4 0, depth := byteAt r 6, stride := leI r 8 4, len := leN r 0xC 4, count := leN r 0x10 4,
    ring := leN r 0x14 4 }

def PopRec.of (r : List Byte) : PopRec :=
  { role := byteAt r 0, pop := byBits r 1 5 0, encMode := bitN (byteAt r 2) 7, enc := byBits r 2 1 0, div := byteAt r 3 + 1,
    n := leN r 4 2 + 1, psetFirst := leN r 6 2, psetCount := byBits r 8 4 0, stimCount := byBits r 9 2 0, stimFirst := leN r 0xA 2,
    neuronA := leN r 0xC 4, stepUm := leN r 0x10 4, org := leI r 0x18 8, ptr := leN r 0x20 5, list := leN r 0x28 5,
    outFirst := leN r 0x30 2, outCount := leN r 0x32 2, outMax := byBits r 0x34 6 0 }

def PsetRec.of (r : List Byte) : PsetRec :=
  { first := leN r 0 2, sub := bitN (byteAt r 2) 7, ref := byBits r 2 5 0, thr := leN r 4 3,
    lsh := (List.range 16).map fun j => byBits r (8 + j) 4 0, wsh := (List.range 4).map fun j => bitsN (leN r 0x18 2) (4 * j + 3) (4 * j) }

def StimRec.of (r : List Byte) : StimRec :=
  { source := byBits r 0 1 0, enc := byBits r 1 1 0, ports := leN r 2 2, classes := leN r 4 2, binPx := leN r 6 2, base := leN r 8 2,
    stride := leN r 0xA 2, count := leN r 0xC 4, binUm := leN r 0x10 4, cdOrg := leI r 0x18 4 }

def TileRec.of (r : List Byte) : TileRec :=
  { role := byteAt r 0, tile := byBits r 1 3 0, dstPop := byBits r 2 5 0, srcPop := byBits r 3 5 0, srcRole := byteAt r 4,
    wb := 2 ^ byBits r 5 7 6, td := byBits r 5 5 0, tsh := byBits r 6 3 0, srcFirst := leN r 8 2, srcCount := leN r 0xA 2,
    dstFirst := leN r 0xC 2, dstCount := leN r 0xE 2, wgt := leN r 0x10 4 }

/-! ## The record of a layer -/

namespace LayerRec

/-- Output height and width (R179). -/
def hOut (l : LayerRec) : Nat := if l.stride = 0 then 0 else (l.hIn + l.pt + l.pb - l.k) / l.stride + 1
def wOut (l : LayerRec) : Nat := if l.stride = 0 then 0 else (l.wIn + l.pl + l.pr - l.k) / l.stride + 1

/-- Bytes per pixel of a channel group of a value type: 0, 1 eight bits; 2, 3 four bits; 4 BF16 (R125). -/
def groupBytes (t : Nat) : Nat := if t = 2 ∨ t = 3 then 8 else if t = 4 then 32 else 16

/-- Type of the layer's activations, coded as OUT_TYPE. -/
def inType (l : LayerRec) : Nat :=
  let s := if l.actSigned then 0 else 1
  match l.op with
  | 0x05 => if l.mode = 2 then 2 + s else s
  | 0x06 => 4
  | _ => if l.mode = 3 then 4 else if l.mode = 2 then 2 + s else s

/-- Bytes of a tensor in channel groups (R125). -/
def tensorBytes (t h w c : Nat) : Nat := (c + 15) / 16 * (h * w) * groupBytes t

/-- Bytes of one weight block (R126). -/
def blockBytes (l : LayerRec) : Nat := if l.mode = 3 then 512 else if l.mode = 0 then 256 else 128

/-- Weight blocks of a layer (R126). -/
def wgtBlocks (l : LayerRec) : Nat := l.k * l.k * ((l.cOut + 15) / 16) * ((l.cIn + 15) / 16)

/-- Output shape: height, width, channels. -/
def outShape (l : LayerRec) : Nat × Nat × Nat :=
  match l.op with
  | 0x01 => (l.hOut, l.wOut, l.cOut)
  | 0x02 => (l.hOut, l.wOut, l.cIn)
  | 0x03 => (l.hOut, l.wOut, l.cIn)
  | _ => (l.hIn, l.wIn, l.cIn)

/-- Type of the output values; a maximum keeps its input's type (R133). -/
def outT (l : LayerRec) : Nat := if l.op = 0x05 then 4 else if l.op = 0x02 then l.inType else l.outType

/-- Bytes of the input tensor: planar in thin-input mode (R125). -/
def inBytes (l : LayerRec) : Nat := if l.unit = 1 then l.cIn * (l.hIn * l.wIn) else tensorBytes l.inType l.hIn l.wIn l.cIn

/-- Bytes of the output tensor; SCORE writes none beyond its scores. -/
def outBytes (l : LayerRec) : Nat := let s := l.outShape; if l.op = 0x07 then 0 else tensorBytes l.outT s.1 s.2.1 s.2.2

/-- Signed value of a bound field. -/
def loI (l : LayerRec) : Int := toSigned 16 l.lo
def hiI (l : LayerRec) : Int := toSigned 16 l.hi

/-- Range of an integer type (R132). -/
def typeMin (t : Nat) : Int := if t = 0 then -128 else if t = 2 then -8 else 0
def typeMax (t : Nat) : Int := if t = 0 then 127 else if t = 1 then 255 else if t = 2 then 7 else 15

/-- Integer clamp bounds and shift are in range (R132). -/
def reqOk (l : LayerRec) : Bool :=
  decide (l.outType ≤ 3) && decide (-8 ≤ l.sh) && decide (l.sh ≤ 31) && decide (l.loI ≤ l.hiI) &&
    decide (typeMin l.outType ≤ l.loI) && decide (l.hiI ≤ typeMax l.outType)

/-- A local range lies in SRAM (R118). -/
def within (a n : Nat) : Bool := decide (a + n ≤ localTop)

/-- Limits of a window (R130, R133). -/
def windowOk (l : LayerRec) : Bool :=
  decide (l.pt < l.k) && decide (l.pb < l.k) && decide (l.pl < l.k) && decide (l.pr < l.k) &&
    decide (l.k ≤ l.hIn + l.pt + l.pb) && decide (l.k ≤ l.wIn + l.pl + l.pr) &&
    decide (1 ≤ l.hOut) && decide (l.hOut ≤ 256) && decide (1 ≤ l.wOut) && decide (l.wOut ≤ 256)

/-- A layer by itself obeys R118, R124 and R130 to R136. -/
def ok (l : LayerRec) : Bool :=
  let chan := decide (1 ≤ l.cIn) && decide (l.cIn ≤ 4096) && decide (1 ≤ l.hIn) && decide (1 ≤ l.wIn)
  let mem := within l.inA l.inBytes && within l.outA l.outBytes
  chan && mem && (l.unit == 0 || l.op == 0x01) && (!l.last || l.op == 0x07) &&
    match l.op with
    | 0x01 =>
      decide (1 ≤ l.k) && (l.stride == 1 || l.stride == 2 || l.stride == 4) && l.windowOk && decide (1 ≤ l.cOut) && decide (l.cOut ≤ 4096) &&
        (if l.mode = 3 then l.outType == 4 else l.reqOk) &&
        (match l.unit with
         | 0 => true
         | 1 => decide (l.cIn ≤ 4) && l.mode != 3
         | 2 => decide (l.cOut ≤ 4) && decide (4 < l.cIn) && l.mode != 3
         | _ => false) &&
        (l.wgtStrm || within l.wgtA (l.wgtBlocks * l.blockBytes)) && within l.biasA (4 * l.cOut) &&
        (l.mode == 3 || within l.multA (4 * l.cOut))
    | 0x02 => (l.k == 2 || l.k == 3) && decide (1 ≤ l.stride) && decide (l.stride ≤ 3) && l.windowOk
    | 0x03 => decide (1 ≤ l.k) && decide (1 ≤ l.stride) && decide (l.stride ≤ 3) && l.windowOk && l.reqOk
    | 0x04 => within l.in2A l.inBytes && l.reqOk
    | 0x05 => true
    | 0x06 => l.reqOk
    | 0x07 => l.cIn == 16 && l.hIn == 1 && l.wIn == 1 && l.inType == 0
    | _ => false

end LayerRec

/-! ## The whole image -/

/-- FE registers that an FE_SET record may name (R177). -/
def feSetOffsets : List Nat :=
  [0x000, 0x008, 0x00C, 0x01C, 0x020, 0x024, 0x028, 0x02C, 0x030, 0x034, 0x040, 0x044, 0x048, 0x04C]

/-- An FE_SET record respects the register's ranges and reserved bits (R177). -/
def FeSetRec.ok (r : FeSetRec) : Bool :=
  feSetOffsets.contains r.off && Mach.feValueOk r.off r.value &&
    (match regLookup (0x140000 + r.off) with
     | some (w, _, _) => BitVec.ofNat 32 r.value &&& ~~~(BitVec.ofNat 32 (w.rw ||| w.rws ||| w.w1s ||| w.wo)) == 0
     | none => false)

/-- An image's records, as one value: the header's fields and the sections. -/
def parseImage (fn : Fin 8) (dst : Nat) (b : List Byte) : Image :=
  let d := directory b
  { fn := fn, imageId := leN b 0x10 4, dst := dst, len := b.length, ports := leN b 0x20 2, clsRole := byteAt b 0x22,
    clsCount := byteAt b 0x23, blob := dst + (match d.find? (·.typ == 0x0A) with | some s => s.off | none => 0),
    fe := (recordsOf b d 0x01 8).map FeSetRec.of, roles := (recordsOf b d 0x02 32).map RoleRec.of,
    inits := (recordsOf b d 0x03 16).map InitRec.of, layers := (recordsOf b d 0x04 64).map LayerRec.of,
    streams := (recordsOf b d 0x05 32).map StreamRec.of, pops := (recordsOf b d 0x06 64).map PopRec.of,
    psets := (recordsOf b d 0x07 32).map PsetRec.of, stims := (recordsOf b d 0x08 32).map StimRec.of,
    tiles := (recordsOf b d 0x09 32).map TileRec.of }

namespace Image

/-- The role record of a role. -/
def roleOf (im : Image) (r : Nat) : Option RoleRec := im.roles.find? (·.role == r)

/-- The record that a role's layers, INIT and streams come from (R178). -/
def sourceOf (im : Image) (r : Nat) : Option RoleRec :=
  match im.roleOf r with
  | some x => if x.replica then im.roleOf x.template else some x
  | none => none

def popOf (im : Image) (role pop : Nat) : Option PopRec := im.pops.find? fun p => p.role == role && p.pop == pop

/-- The streams of a role. -/
def streamsOf (im : Image) (r : RoleRec) : List StreamRec := (im.streams.drop r.strFirst).take r.strCount

/-- The initial records of a role. -/
def initsOf (im : Image) (r : RoleRec) : List InitRec := (im.inits.drop r.initFirst).take r.initCount

/-- ROLE records (R178). -/
def rolesOk (im : Image) (topPl : Nat) : Bool :=
  decide (im.roles.map (·.role)).Nodup &&
    im.roles.all fun r =>
      r.dieMask != 0 && decide (r.minPl ≤ 7) && decide (r.minPl ≤ topPl) &&
        if r.replica then
          !r.spiking && (match im.roleOf r.template with | some t => !t.replica && !t.spiking | none => false) &&
            r.lFirst == 0 && r.lLast == 0 && r.initFirst == 0 && r.initCount == 0 && r.strFirst == 0 && r.strCount == 0 && r.localUse == 0
        else
          decide (r.initCount ≤ 4096) && decide (r.initFirst + r.initCount ≤ im.inits.length) && decide (r.strCount ≤ 32) &&
            decide (r.strFirst + r.strCount ≤ im.streams.length) && decide (r.localUse ≤ localTop) &&
            decide ((im.streamsOf r).map (·.sid)).Nodup &&
            (!r.dense || (decide (r.lFirst ≤ r.lLast) && decide (r.lLast < im.layers.length) &&
              (((im.layers.drop r.lFirst).take (r.lLast + 1 - r.lFirst)).all fun l => l.role == r.role)))

/-- LAYER records (R179): each by itself, its streams, and where its role hands on. -/
def layersOk (im : Image) : Bool :=
  im.layers.all fun l =>
    l.ok &&
      (match im.roleOf l.role with
       | some r =>
         !r.replica && r.dense &&
           (!l.wgtStrm || (match (im.streamsOf r).find? (·.sid == l.wgtSid) with
             | some s => s.len % l.blockBytes == 0
             | none => false))
       | none => false) &&
      (!l.nextValid || (match im.roleOf l.nextRole with | some r => r.dense | none => false))

/-- STREAM and INIT records (R178, R184) with a BLOB of n bytes. -/
def dataOk (im : Image) (n : Nat) : Bool :=
  (im.inits.all fun i => i.loc % 64 == 0 && i.len % 64 == 0 && LayerRec.within i.loc i.len && decide (i.blob + i.len ≤ n)) &&
    im.streams.all fun s =>
      decide (1 ≤ s.depth) && decide (s.depth ≤ 64) && s.stride % 64 == 0 && s.len % 64 == 0 && decide (64 ≤ s.len) &&
        decide (s.len ≤ 65536) && decide (1 ≤ s.count) && LayerRec.within s.ring (s.depth * s.len) &&
        decide ((s.base : Int) + s.len ≤ n) && decide (0 ≤ (s.base : Int) + (s.count - 1) * s.stride) &&
        decide ((s.base : Int) + (s.count - 1) * s.stride + s.len ≤ n)

/-- POP, PSET and STIM records (R145, R146, R180 to R182). -/
def popsOk (im : Image) (n : Nat) : Bool :=
  decide (im.pops.map fun p => (p.role, p.pop)).Nodup &&
    (im.roles.all fun r =>
      decide (((im.pops.filter (·.role == r.role)).map (·.n)).sum ≤ 65536) && decide ((im.pops.filter (·.role == r.role)).length ≤ 64)) &&
    (im.psets.all fun s => decide (1 ≤ s.thr) && decide (s.thr < 2 ^ 23)) &&
    (im.stims.all fun s =>
      decide (s.source ≤ 2) && decide (1 ≤ s.count) && decide (s.count ≤ 65536) && (s.source != 0 || s.binPx != 0) &&
        (s.source != 1 || s.binUm != 0)) &&
    im.pops.all fun p =>
      (match im.roleOf p.role with | some r => r.spiking | none => false) &&
        decide (1 ≤ p.psetCount) && decide (p.psetCount ≤ 16) && decide (p.psetFirst + p.psetCount ≤ im.psets.length) &&
        decide (p.stimCount ≤ 4) && decide (p.stimFirst + p.stimCount ≤ im.stims.length) && p.neuronA % 8 == 0 &&
        LayerRec.within p.neuronA (8 * p.n) && (!p.encMode || (decide (1 ≤ p.stepUm) && decide (p.stepUm < 2 ^ 31))) &&
        (p.ptr == 0 || decide (p.ptr + 4 * p.n ≤ n)) && p.list % 64 == 0 && decide (p.outFirst + p.outCount ≤ p.n) &&
        decide (1 ≤ p.outMax) && decide (p.outMax ≤ 64) &&
        (let fs := ((im.psets.drop p.psetFirst).take p.psetCount).map (·.first)
         fs.head? == some 0 && decide (fs.Pairwise (· < ·)))

/-- TILE records (R161, R183). -/
def tilesOk (im : Image) : Bool :=
  decide (im.tiles.map fun t => (t.role, t.tile)).Nodup &&
    im.tiles.all fun t =>
      (match im.popOf t.role t.dstPop with | some p => decide (t.dstFirst + t.dstCount ≤ p.n) | none => false) &&
        (match im.popOf t.srcRole t.srcPop with | some p => decide (t.srcFirst + t.srcCount ≤ p.n) | none => false) &&
        decide (t.srcCount ≤ 4096) && decide (t.dstCount ≤ 4096) && t.srcFirst % 16 == 0 &&
        LayerRec.within t.wgt ((t.srcCount + 15) / 16 * ((t.dstCount + 15) / 16) * (32 * t.wb))

/-- The role that a role's last layer hands on to: a replica adds its distance from its template (R190). -/
def nextRoleOf (im : Image) (role nextRole : Nat) : Nat :=
  match im.roleOf role with
  | some r => if r.replica then nextRole + (role - r.template) else nextRole
  | none => nextRole

/-- From a role on, through the roles that it hands on to, a classifier ends in a layer that is LAST and writes the scores (R124,
R179). -/
def endsInScores (im : Image) : Nat → Nat → Bool
  | 0, _ => false
  | n + 1, role =>
    match (im.sourceOf role).bind fun r => im.layers[r.lLast]? with
    | some l => if l.last then l.op == 0x07 else l.nextValid && endsInScores im n (nextRoleOf im role l.nextRole)
    | none => false

/-- Classifier roles (R124, R190): the first is no replica, the others are replicas of it, and each one's last layer writes the
scores. -/
def clsOk (im : Image) : Bool :=
  decide (im.clsCount ≤ 64) &&
    (List.range im.clsCount).all fun i =>
      im.endsInScores 256 (im.clsRole + i) &&
      match im.roleOf (im.clsRole + i) with
      | some r => if i = 0 then !r.replica && r.dense else r.replica && r.template == im.clsRole
      | none => false

end Image

/-- The image with its CRC field taken as zero (R174). -/
def crcBytes (b : List Byte) : List Byte := b.take 0x1C ++ List.replicate 4 0 ++ b.drop 0x20

/-- MAGIC, version, grade, MIN_PL, CRC and every record (R174 to R186). -/
def imageOk (device topPl : Nat) (b : List Byte) : Bool :=
  let total := leN b 8 5
  let gm := leN b 6 2
  let d := directory b
  let im := parseImage 0 0 b
  let blob := match d.find? (·.typ == 0x0A) with | some s => s.count | none => 0
  leN b 0 4 == 0x49475641 && byteAt b 4 == 0 && byteAt b 5 == 1 &&
    (gm == 0 || gm == 0x4818 || gm == 0x4828 || gm == 0x4840) && decide (gm ≤ device) &&
    total % 64 == 0 && decide (128 ≤ total) && decide (total ≤ 2 ^ 32) &&
    decide (1 ≤ leN b 0x18 2) && decide (leN b 0x18 2 ≤ 16) && dirOk total d &&
    (crc32c (crcBytes b)).toNat == leN b 0x1C 4 &&
    im.fe.all FeSetRec.ok && im.rolesOk topPl && im.layersOk && im.dataOk blob && im.popsOk blob && im.tilesOk && im.clsOk

end Sys2Proof.Machine
end

