-- ==== Sys2Proof/Machine/Dense.lean ====
section
/-! DEFINITION. Dense arithmetic: FP32 and BF16 values, tensors in local SRAM, layers, requantisation (R125 to R138). -/

namespace Sys2Proof.Machine

/-! ## FP32 and BF16 (R131, R133) -/

/-- A floating-point value: exact m · 2^e, an infinity, or NaN. Zeros have no sign: subnormals read as +0. -/
inductive FV where
  | nan
  | inf (neg : Bool)
  | fin (m e : Int)
deriving DecidableEq, Repr

namespace FV

/-- The value of an FP32 pattern. -/
def of32 (w : Nat) : FV :=
  let s := bitN w 31
  let ex := bitsN w 30 23
  let fr := bitsN w 22 0
  if ex = 255 then (if fr = 0 then .inf s else .nan)
  else if ex = 0 then .fin 0 0
  else let m : Int := (2 ^ 23 + fr : Nat); .fin (if s then -m else m) ((ex : Int) - 150)

/-- The value of a BF16 pattern: the upper half of an FP32 pattern. -/
def of16 (w : Nat) : FV := of32 (w % 65536 * 65536)

/-- m shifted so that its exponent is e', which is at most its own. -/
def align (m e e' : Int) : Int := m * 2 ^ (e - e').toNat

/-- Exact sum. -/
def add : FV → FV → FV
  | .nan, _ => .nan
  | _, .nan => .nan
  | .inf a, .inf b => if a = b then .inf a else .nan
  | .inf a, .fin _ _ => .inf a
  | .fin _ _, .inf b => .inf b
  | .fin m e, .fin n f => let g := min e f; .fin (align m e g + align n f g) g

/-- Exact product. -/
def mul : FV → FV → FV
  | .nan, _ => .nan
  | _, .nan => .nan
  | .inf a, .inf b => .inf (a != b)
  | .inf a, .fin m _ => if m = 0 then .nan else .inf (a != decide (m < 0))
  | .fin m _, .inf b => if m = 0 then .nan else .inf (b != decide (m < 0))
  | .fin m e, .fin n f => .fin (m * n) (e + f)

/-- a < b; false where either is NaN. -/
def lt : FV → FV → Bool
  | .nan, _ => false
  | _, .nan => false
  | .inf a, .inf b => a && !b
  | .inf a, .fin _ _ => a
  | .fin _ _, .inf b => !b
  | .fin m e, .fin n f => let g := min e f; decide (align m e g < align n f g)

/-- a ÷ 2^k rounded to nearest, ties to even. -/
def halfEven (a k : Nat) : Nat :=
  let q := a / 2 ^ k
  let r := a % 2 ^ k
  if 2 ^ k < 2 * r ∨ (2 * r = 2 ^ k ∧ q % 2 = 1) then q + 1 else q

/-- The pattern of a value with `prec` significant bits and an 8-bit exponent, rounded once to nearest even; subnormal
results are +0, NaN is canonical (R131). -/
def pattern (prec : Nat) (v : FV) : Nat :=
  let fb := prec - 1
  match v with
  | .nan => 255 * 2 ^ fb + 2 ^ (fb - 1)
  | .inf s => (if s then 2 ^ (fb + 8) else 0) + 255 * 2 ^ fb
  | .fin m e =>
    let a := m.natAbs
    if a = 0 then 0
    else
      let len := Nat.log2 a + 1
      let q0 := if prec < len then halfEven a (len - prec) else a * 2 ^ (prec - len)
      let carry := decide (q0 = 2 ^ prec)
      let q := if carry then q0 / 2 else q0
      let ex : Int := e + len - prec + carry.toNat + fb + 127
      let s := if m < 0 then 2 ^ (fb + 8) else 0
      if 255 ≤ ex then s + 255 * 2 ^ fb
      else if ex ≤ 0 then 0
      else s + ex.toNat * 2 ^ fb + (q - 2 ^ fb)

def to32 (v : FV) : Nat := pattern 24 v
def to16 (v : FV) : Nat := pattern 8 v

/-- The nearest integer, ties to even; none for NaN. Infinities answer a number outside every type. -/
def toInt : FV → Option Int
  | .nan => none
  | .inf s => some (if s then -(2 ^ 40) else 2 ^ 40)
  | .fin m e =>
    let a : Nat := if 0 ≤ e then m.natAbs * 2 ^ e.toNat else halfEven m.natAbs (-e).toNat
    some (if m < 0 then -(a : Int) else a)

end FV

/-! ## Tensors (R125, R126) -/

/-- One value of a type at a byte offset: `k` is its place among the 16 of its pixel. -/
def valueAt (mem : Mem) (t a k : Nat) : Int :=
  let b := fun i => (Mem.read mem (a + i)).toNat
  match t with
  | 0 => toSigned 8 (b k)
  | 1 => b k
  | 2 => toSigned 4 (b (k / 2) / 2 ^ (4 * (k % 2)))
  | 3 => (b (k / 2) / 2 ^ (4 * (k % 2)) % 16 : Nat)
  | _ => (b (2 * k) + 256 * b (2 * k + 1) : Nat)

/-- The activation of channel c at pixel (y, x) of a tensor at `base`; outside the tensor it reads zero. BF16 answers its
pattern. In thin-input mode the input is planar, a 4-bit value in the low half of its byte. -/
def LayerRec.actAt (l : LayerRec) (mem : Mem) (base : Nat) (y x : Int) (c : Nat) : Int :=
  if y < 0 ∨ x < 0 ∨ (l.hIn : Int) ≤ y ∨ (l.wIn : Int) ≤ x ∨ l.cIn ≤ c then 0
  else
    let px := y.toNat * l.wIn + x.toNat
    let t := l.inType
    if l.unit = 1 then valueAt mem t (base + c * (l.hIn * l.wIn) + px) 0
    else valueAt mem t (base + (c / 16 * (l.hIn * l.wIn) + px) * LayerRec.groupBytes t) (c % 16)

/-- The weight of (input row i, output column j) of block b (R126). -/
def LayerRec.wgtAt (l : LayerRec) (mem : Mem) (base b i j : Nat) : Int :=
  let t := if l.mode = 3 then 4 else if l.mode = 0 then 0 else 2
  valueAt mem t (base + b * l.blockBytes) (16 * i + j)

/-- The bytes of a list of values of a type, in order. -/
def packValues (t : Nat) : List Int → List Byte
  | a :: b :: r =>
    if t ≤ 1 then BitVec.ofInt 8 a :: BitVec.ofInt 8 b :: packValues t r
    else if t ≤ 3 then BitVec.ofNat 8 (toBits 4 a + 16 * toBits 4 b) :: packValues t r
    else bytesOfI 2 a ++ bytesOfI 2 b ++ packValues t r
  | [a] => if t ≤ 1 then [BitVec.ofInt 8 a] else if t ≤ 3 then [BitVec.ofNat 8 (toBits 4 a)] else bytesOfI 2 a
  | [] => []

/-! ## Requantisation (R132) -/

/-- q and its clamp: the output value and whether it saturated the type. -/
def LayerRec.clampT (l : LayerRec) (q : Int) : Int × Bool :=
  (clampI q l.loI l.hiI, decide (q < LayerRec.typeMin l.outType) || decide (LayerRec.typeMax l.outType < q))

/-- An exact value v rounded at shift 31 + SH, nearest with ties to even, then clamped. -/
def LayerRec.requant (l : LayerRec) (v : Int) : Int × Bool :=
  let t := (31 + l.sh).toNat
  let q := v.fdiv (2 ^ t)
  let r := v - q * 2 ^ t
  let h : Int := 2 ^ (t - 1)
  l.clampT (if h < r ∨ (r = h ∧ q % 2 = 1) then q + 1 else q)

/-! ## Convolution (R128 to R131, R134, R138) -/

/-- An accumulator after an addition at an edge level: its low six bits are open (R138). -/
def edgeLow (edge : Bool) (fresh : Nat) (v : Nat) : Nat := if edge then v / 64 * 64 + fresh % 64 else v

/-- Taps (ky, kx) of a layer in raster order. -/
def LayerRec.taps (l : LayerRec) : List (Nat × Nat) :=
  (List.range l.k).flatMap fun ky => (List.range l.k).map fun kx => (ky, kx)

/-- The 16 activations of an input row: tap (ky, kx), input tile `it`, output pixel p. -/
def LayerRec.row (l : LayerRec) (mem : Mem) (ky kx it p : Nat) : List Int :=
  let y : Int := ((p / l.wOut) * l.stride + ky : Nat) - (l.pt : Int)
  let x : Int := ((p % l.wOut) * l.stride + kx : Nat) - (l.pl : Int)
  (List.range 16).map fun i => l.actAt mem l.inA y x (16 * it + i)

/-- A row of zeros takes no clock and adds nothing (R128). -/
def LayerRec.rowZero (l : LayerRec) (r : List Int) : Bool :=
  r.all fun a => if l.mode = 3 then FV.of16 a.toNat == .fin 0 0 else a == 0

/-- One addition to an accumulator of 32 bits: an integer modulo 2^32 (R129), or an FP32 pattern (R131). -/
def LayerRec.addRow (l : LayerRec) (wmem : Mem) (wbase b j : Nat) (acc : Nat) (r : List Int) : Nat :=
  let ps := r.zipIdx.map fun a => (a.1, l.wgtAt wmem wbase b a.2 j)
  if l.mode = 3 then
    (ps.foldl (fun s q => s.add ((FV.of16 q.1.toNat).mul (FV.of16 q.2.toNat))) (FV.of32 acc)).to32
  else toBits 32 ((acc : Int) + (ps.map fun q => q.1 * q.2).sum)

/-- The accumulator of output channel c at output pixel p. `fresh i` are the open values of its additions. -/
def LayerRec.accum (l : LayerRec) (mem wmem : Mem) (wbase : Nat) (edge : Bool) (fresh : Nat → Nat) (c p : Nat) : Nat :=
  let nIn := (l.cIn + 15) / 16
  let nOut := (l.cOut + 15) / 16
  let bias := leN ((List.range 4).map fun i => Mem.read mem (l.biasA + 4 * c + i)) 0 4
  l.taps.zipIdx.foldl (fun acc t =>
    (List.range nIn).foldl (fun acc it =>
      let r := l.row mem t.1.1 t.1.2 it p
      if l.rowZero r then acc
      else edgeLow edge (fresh (t.2 * nIn + it)) (l.addRow wmem wbase ((t.2 * nOut + c / 16) * nIn + it) (c % 16) acc r)) acc) bias

/-- An output value of a CONV layer: REQUANT, or BF16_OUT (R132, R133). -/
def LayerRec.convOut (l : LayerRec) (mem : Mem) (acc c : Nat) : Int × Bool :=
  if l.mode = 3 then
    let v := FV.of32 acc
    let lo := FV.of16 l.lo
    let hi := FV.of16 l.hi
    ((if v.lt lo then lo else if hi.lt v then hi else v).to16, false)
  else
    let mult := leI ((List.range 4).map fun i => Mem.read mem (l.multA + 4 * c + i)) 0 4
    l.requant (toSigned 32 acc * mult)

/-- Non-zero and zero rows of one sweep: tap and input tile. -/
def LayerRec.sweepRows (l : LayerRec) (mem : Mem) (ky kx it : Nat) : Nat × Nat :=
  let px := l.hOut * l.wOut
  let z := ((List.range px).filter fun p => l.rowZero (l.row mem ky kx it p)).length
  (px - z, z)

/-- Array clocks of one sweep of n rows that carry products (R127, R128). -/
def LayerRec.clocks (l : LayerRec) (n : Nat) : Nat := if l.mode = 3 then 4 * n else if l.mode = 0 then n else (n + 1) / 2

/-- PASSES and ROWS_SKIPPED of a CONV layer on the array. -/
def LayerRec.passes (l : LayerRec) (mem : Mem) : Nat × Nat :=
  let nOut := (l.cOut + 15) / 16
  let sweeps := l.taps.flatMap fun t => (List.range ((l.cIn + 15) / 16)).map fun it => l.sweepRows mem t.1 t.2 it
  (nOut * (sweeps.map fun s => l.clocks s.1).sum, nOut * (sweeps.map fun s => s.2).sum)

/-- Thin-layer clocks (R134). -/
def LayerRec.tleClocks (l : LayerRec) : Nat :=
  let p := l.hOut * l.wOut
  if l.unit = 1 then (p + 63) / 64 * (l.k * l.k) * l.cOut else p * ((l.k * l.k * l.cIn + 63) / 64)

/-! ## The vector unit (R133) -/

/-- The positions of a window inside the tensor. -/
def LayerRec.window (l : LayerRec) (p : Nat) : List (Int × Int) :=
  l.taps.filterMap fun t =>
    let y : Int := ((p / l.wOut) * l.stride + t.1 : Nat) - (l.pt : Int)
    let x : Int := ((p % l.wOut) * l.stride + t.2 : Nat) - (l.pl : Int)
    if 0 ≤ y ∧ 0 ≤ x ∧ y < l.hIn ∧ x < l.wIn then some (y, x) else none

/-- The greatest of BF16 patterns; a NaN among them leaves the result open. -/
def maxBf16 (fresh : Nat) (l : List Int) : Int :=
  if l.any fun a => FV.of16 a.toNat == .nan then (fresh % 65536 : Nat)
  else match l with
    | [] => 0
    | a :: r => r.foldl (fun b c => if (FV.of16 b.toNat).lt (FV.of16 c.toNat) then c else b) a

/-- An output value of a vector layer at channel c, output pixel p. The integer operations of R133 on BF16 tensors have no
stated result: `freshI` is theirs. -/
def LayerRec.vecOut (l : LayerRec) (mem : Mem) (fresh : Nat) (freshI : Int) (c p : Nat) : Int × Bool :=
  let bf := l.inType == 4
  let at_ := fun (base p : Nat) => l.actAt mem base (p / l.wIn : Nat) (p % l.wIn : Nat) c
  match l.op with
  | 0x02 =>
    let vs := (l.window p).map fun q => l.actAt mem l.inA q.1 q.2 c
    (if bf then maxBf16 fresh vs else match vs with | [] => 0 | a :: r => r.foldl max a, false)
  | 0x03 =>
    let s := ((l.window p).map fun q => l.actAt mem l.inA q.1 q.2 c).sum
    l.requant (if bf then freshI else s * l.ma)
  | 0x04 => l.requant (if bf then freshI else at_ l.inA p * l.ma + at_ l.in2A p * l.mb)
  | 0x05 => (((FV.of32 ((FV.fin (at_ l.inA p) 0).mul (FV.of32 l.scale)).to32)).to16, false)
  | 0x06 =>
    match (FV.of32 ((FV.of16 (at_ l.inA p).toNat).mul (FV.of32 l.scale)).to32).toInt with
    | some q => l.clampT q
    | none => (0, true)
  | _ => (0, false)

/-! ## A layer -/

/-- What a layer leaves: the bytes of its output tensor, saturations, array clocks, skipped rows, thin-layer clocks, and the
open values it may use. -/
structure LayerOut where
  bytes : List Byte
  sats : Nat
  passes : Nat
  skipped : Nat
  tle : Nat
  draws : Nat

/-- Run a layer over local SRAM `mem` with weight blocks at `wbase` of `wmem`; `base` is the first open value. -/
def LayerRec.run (l : LayerRec) (mem wmem : Mem) (wbase : Nat) (edge : Bool) (base : Nat) : LayerOut :=
  let (h, w, c) := l.outShape
  let px := h * w
  let conv := l.op == 0x01
  let edge' := edge && conv && l.unit == 0
  let adds := if conv then l.k * l.k * ((l.cIn + 15) / 16) else 1
  let one := fun (ch p : Nat) =>
    let at0 := base + (ch * px + p) * adds
    if conv then l.convOut mem (l.accum mem wmem wbase edge' (fun i => Config.freeNat (at0 + i)) ch p) ch
    else l.vecOut mem (Config.freeNat at0) (Config.freeInt at0) ch p
  let outs : List (Int × Bool) := (List.range ((c + 15) / 16)).flatMap fun g => (List.range px).flatMap fun p =>
    (List.range 16).map fun k => if 16 * g + k < c then one (16 * g + k) p else (0, false)
  let (ps, sk) := if conv ∧ l.unit = 0 then l.passes mem else (0, 0)
  { bytes := if l.op = 0x07 then [] else packValues l.outT (outs.map (·.1)), sats := (outs.filter (·.2)).length,
    passes := ps, skipped := sk, tle := if conv ∧ l.unit ≠ 0 then l.tleClocks else 0,
    draws := if edge' ∨ !conv ∧ l.inType = 4 then c * px * adds else 0 }

/-- Array clocks of a layer with no zero skipping (R305). -/
def LayerRec.estPasses (l : LayerRec) : Nat :=
  if l.op = 0x01 ∧ l.unit = 0 then
    l.k * l.k * ((l.cIn + 15) / 16) * ((l.cOut + 15) / 16) * l.clocks (l.hOut * l.wOut)
  else 0

/-! ## Scores (R124) -/

/-- The 16 signed scores at a local address. -/
def scoresAt (mem : Mem) (a : Nat) : List Int := (List.range 16).map fun i => toSigned 8 (Mem.read mem (a + i)).toNat

/-- The 32-byte result (R124). -/
def resultBytes (d : Desc) (s : List Int) (e : Nat) : List Byte :=
  let top := topScore s none
  let sec := topScore s (some top)
  bytesOf 6 d.tn ++ bytesOf 2 (d.port * 4096 + d.index) ++ s.map (BitVec.ofInt 8) ++
    [BitVec.ofNat 8 (sec * 16 + top), BitVec.ofNat 8 (marginOf s),
     BitVec.ofNat 8 (d.sat.toNat * 4 + d.replayed.toNat * 2 + d.edge.toNat), BitVec.ofNat 8 (e / 18 * 64 + e % 18),
     BitVec.ofNat 8 d.epoch, BitVec.ofNat 8 d.image, 0, 0]

end Sys2Proof.Machine
end

