-- ==== Sys2Proof/Machine/EngineOps.lean ====
section
/-! DEFINITION. Engines: role maps, descriptors, prefetch streams, role loads (R119 to R124, R136, R144, R185, R190 to R195). -/

namespace Sys2Proof.Machine

namespace Mach

/-! ## Role maps (R122, R192, R193) -/

/-- The map of an epoch, while the routers hold it: the current epoch, and the one before until B_(TN_EFF+1) (R193). -/
def mapOfEpoch (m : Mach) (f : Fin 8) (epoch : Nat) : Option RoleMap :=
  let r := (m.fn.get f).roles
  if r.cur.epoch = epoch then some r.cur else if r.prev.epoch = epoch ∧ m.tick.tn ≤ r.eff then some r.prev else none

/-- The engine bound to a role in a map. -/
def RoleMap.engine (r : RoleMap) (role : Nat) : Option Nat := (r.binds.find? (·.1 == role)).map (·.2)

/-- The engine that a function's role is bound to in an epoch. -/
def engOf (m : Mach) (f : Fin 8) (epoch role : Nat) : Option (Fin 72) :=
  match m.mapOfEpoch f epoch with
  | some r => (RoleMap.engine r role).map (Fin.ofNat 72)
  | none => none

/-- The role that an engine holds under the maps of a tick, with its function. -/
def roleAt (m : Mach) (tn : Nat) (e : Fin 72) : Option (Fin 8 × Nat) :=
  (List.finRange 8).findSome? fun f =>
    (((m.fn.get f).roles.at_ tn).binds.find? (·.2 == e.1)).map fun b => (f, b.1)

/-- An image is active in a tick (R187, R188). -/
def imageActive (tn : Nat) (im : Image) : Bool :=
  (match im.activeFrom with | some a => decide (a ≤ tn) | none => false) &&
    (match im.activeTo with | some a => decide (tn < a) | none => true)

/-- The active image of a function that declares a role in a tick: its slot and contents. -/
def imageOfRole (m : Mach) (f : Fin 8) (tn role : Nat) : Option (Nat × Image) :=
  m.images.find? fun s => s.2.fn == f && imageActive tn s.2 && (s.2.roleOf role).isSome

/-- The active image of a function that claims a port in a tick (R187). -/
def imageOfPort (m : Mach) (f : Fin 8) (tn p : Nat) : Option (Nat × Image) :=
  m.images.find? fun s => s.2.fn == f && imageActive tn s.2 && bitN s.2.ports p

/-- What an engine should hold in a tick: function, role, image slot (R195). -/
def loadTarget (m : Mach) (tn : Nat) (e : Fin 72) : Option (Fin 8 × Nat × Nat) :=
  match m.roleAt tn e with
  | some (f, r) => (m.imageOfRole f tn r).map fun s => (f, r, s.1)
  | none => none

/-! ## Local SRAM -/

/-- Write bytes at a local address; what lies past the SRAM's end does not exist (R118). -/
def sramPut (e : Fin 72) (a : Nat) (b : List Byte) (m : Mach) : Mach :=
  let fit := b.take (localTop - a)
  m.onEng e fun x => { x with sram := (fit.foldl (fun (s : Nat × Mem) v => (s.1 + 1, Mem.write s.2 s.1 v)) (a, x.sram)).2 }

/-- Read bytes of local SRAM. -/
def sramGet (m : Mach) (e : Fin 72) (a n : Nat) : List Byte := (List.range n).map fun i => Mem.read (m.eng.get e).sram (a + i)

/-- A load begins (R195). -/
def beginLoad (e : Fin 72) (t : Fin 8 × Nat × Nat) (m : Mach) : Mach :=
  m.onEng e fun x => { x with loading := true, want := some t, holds := none }

/-- The load of an engine ends: SRAM zeroed, the role's INIT records in order, then what R166 moved in. -/
def endLoad (e : Fin 72) (m : Mach) : Mach :=
  let x := m.eng.get e
  if !x.loading then m
  else
    let m1 := m.onEng e fun y => { y with sram := [], loading := false, want := none, holds := y.want, incoming := [] }
    let m2 := match x.want with
      | some (_, r, slot) =>
        match m.images.find slot with
        | some im =>
          match im.sourceOf r with
          | some rec => forEach (im.initsOf rec) (fun i t =>
              (t.hubRead (dieOfEng e).1 (im.blob + i.blob) i.len).2.sramPut e i.loc (t.dramGet (im.blob + i.blob) i.len)) m1
          | none => m1
        | none => m1
      | none => m1
    forEach x.incoming (fun c t => t.sramPut e c.1 c.2) m2

/-! ## Descriptors -/

/-- A classification ends without a result: the estimate's rest is credited (R305), the curd counts as abandoned (R38). -/
def classLost (d : Desc) (m : Mach) : Mach :=
  let m1 := (m.debitNj .class_ (d.used - d.est)).spend d.tn (d.used - d.est)
  ((m1.onAcct d.tn fun a => { a with abandoned := a.abandoned + 1 }).addBad d.tn d.port 3).onCurd (Fin.ofNat 16 d.port) d.tn d.index fun c =>
    { c with abandoned := true }

/-- A curd that is not admitted, or that has no patch at the deadline, is an abandoned classification (R38, R113, R307); what was
debited for it is credited back (R305). -/
def refuseCurd (n : Nat) (p : Fin 16) (c : Curd) (m : Mach) : Mach :=
  let m1 := match c.waiting with | some est => (m.debitNj .class_ (-est)).spend n (-est) | none => m
  ((m1.onAcct n fun a => { a with abandoned := a.abandoned + 1 }).addBad n p.1 3).onCurd p n c.index fun k =>
    { k with abandoned := true, waiting := none }

/-- A descriptor is dropped as stale: the engine counts it, and the classification is lost (R122). -/
def descStale (e : Fin 72) (d : Desc) (m : Mach) : Mach :=
  ((m.inc (R.ENG_DESC_STALE e)).set1 (R.ENG_ERR_STALE e)).classLost d

/-- The engine whose DESC_STALE counts a descriptor that no engine can take. The counters belong to engines and R122 names none: the
model takes the engine that the role is bound to in the current map, else in the one before, else engine 0 of the die of the
descriptor's port (DEDUCED, log 34). -/
def staleEngine (m : Mach) (d : Desc) : Fin 72 :=
  let r := (m.fn.get d.fn).roles
  Fin.ofNat 72 (((RoleMap.engine r.cur d.role).or (RoleMap.engine r.prev d.role)).getD (18 * (d.port / 4)))

/-- Deliver a descriptor to its engine (R120, R122, R144). -/
def issue (d : Desc) (m : Mach) : Mach :=
  match m.engOf d.fn d.epoch d.role with
  | none => m.descStale (m.staleEngine d) d
  | some e =>
    if !m.engGood e then m.descStale e d
    else
      let x := m.eng.get e
      if x.inReset || decide (64 ≤ x.queue.length) || m.heldDesc.any (·.1 == e.1) then { m with heldDesc := m.heldDesc ++ [(e.1, d)] }
      else m.onEng e fun y => { y with queue := y.queue ++ [d] }

/-- Descriptors that the scheduler held for an engine enter its queue while it has room (R120). -/
def pumpHeld (e : Fin 72) (m : Mach) : Mach :=
  let x := m.eng.get e
  if x.inReset then m
  else
    let mine : List (Nat × Desc) := m.heldDesc.filter fun h => h.1 == e.1
    let room := 64 - x.queue.length
    let m1 := { m with heldDesc := m.heldDesc.filter (fun (h : Nat × Desc) => h.1 != e.1) ++ mine.drop room }
    m1.onEng e fun y => { y with queue := y.queue ++ (mine.take room).map Prod.snd }

/-- What the parts of a descriptor's work that ran cost on the engine's die (R304, R305). -/
def workCost (m : Mach) (e : Fin 72) (d : Desc) : Int :=
  m.price .pass (dieOfEng e) d.passes + m.price .tle (dieOfEng e) d.tleClk + m.price .byte (dieOfEng e) d.bytes

/-- The work of a descriptor that leaves its engine is accounted. -/
def closeWork (e : Fin 72) (d : Desc) (m : Mach) : Desc × Mach :=
  let d1 := { d with used := d.used + m.workCost e d, passes := 0, tleClk := 0, bytes := 0 }
  let die := dieOfEng e
  (d1, ((m.rawWork .pass die d.passes).rawWork .tle die d.tleClk).rawWork .byte die d.bytes)

/-- One descriptor is abandoned, and its engine counts it (R123). -/
def abandonDesc (e : Fin 72) (d : Desc) (m : Mach) : Mach :=
  ((m.inc (R.ENG_DESC_ABANDON e)).set1 (R.ENG_ERR_ABANDON e)).classLost d

/-- The queued and running descriptors of an engine that `which` selects end as `one` says; the work that the running one has used is
accounted first (R305). -/
def endQueued (one : Desc → Mach → Mach) (e : Fin 72) (which : Desc → Bool) (m : Mach) : Mach :=
  let x := m.eng.get e
  let m3 := forEach (x.queue.filter which) one (m.onEng e fun y => { y with queue := y.queue.filter fun d => !which d })
  match x.run with
  | some r =>
    if which r.desc then
      let (d, m4) := m3.closeWork e r.desc
      let m5 := m4.onEng e fun y => { y with run := none }
      let mine := fun (q : TleReq) => q.eng == e.1
      let m6 := { m5 with tleq := m5.tleq.map fun q => q.filter fun r => !mine r,
                          tle := m5.tle.map fun q => q.map fun r => if mine r then { r with dropped := true } else r }
      one d m6
    else m3
  | none => m3

/-- The same with those that the scheduler holds for the engine; what it still holds then moves up (R120). -/
def endDescs (one : Desc → Mach → Mach) (e : Fin 72) (which : Desc → Bool) (m : Mach) : Mach :=
  let held := ((m.heldDesc.filter fun h => h.1 == e.1).map (·.2)).filter which
  let m1 := { m with heldDesc := m.heldDesc.filter fun h => h.1 != e.1 || !which h.2 }
  (forEach held one (m1.endQueued one e which)).pumpHeld e

/-- The queued and running descriptors of an engine that `which` selects are abandoned (R123, R144). -/
def abandonQueued (e : Fin 72) (which : Desc → Bool) (m : Mach) : Mach := m.endQueued (abandonDesc e) e which

/-- Descriptors of an engine are abandoned: those that `which` selects, queued, running, and held by the scheduler (R120, R123). -/
def abandonEng (e : Fin 72) (which : Desc → Bool) (m : Mach) : Mach := m.endDescs (abandonDesc e) e which

/-! ## Prefetch streams (R185) -/

/-- Fetch the next element of a stream into its ring slot. A line of it that fails abandons the descriptor (R449). -/
def fetchElement (e : Fin 72) (im : Image) (s : StreamRec) (m : Mach) : Mach :=
  match (m.eng.get e).run with
  | none => m
  | some r =>
    match r.streams.find? (·.sid == s.sid) with
    | none => m
    | some p =>
      let at_ := ((im.blob : Int) + s.base + (p.fetched % s.count : Nat) * s.stride).toNat
      match m.ueIn at_ s.len with
      | some a => (m.ueHit a).abandonEng e fun d => d == r.desc
      | none =>
      let m1 := (m.hubRead (dieOfEng e).1 at_ s.len).2.sramPut e (s.ring + p.fetched % s.depth * s.len) (m.dramGet at_ s.len)
      m1.onEng e fun x => { x with run := x.run.map fun q =>
        { q with streams := q.streams.map (fun t => if t.sid = s.sid then { t with fetched := t.fetched + 1 } else t),
                 desc := { q.desc with bytes := q.desc.bytes + s.len } } }

/-- Take the next n elements of a stream: an element that is not ready is waited for (R185). -/
def takeElements (e : Fin 72) (im : Image) (s : StreamRec) : Nat → Mach → List Byte × Mach
  | 0, m => ([], m)
  | n + 1, m =>
    match (m.eng.get e).run with
    | none => ([], m)
    | some r =>
      match r.streams.find? (·.sid == s.sid) with
      | none => ([], m)
      | some p =>
        let m1 := if p.used < p.fetched then m
          else (m.onFn im.fn fun x => { x with streamWait := (x.streamWait + 1) % 2 ^ 32 }).fetchElement e im s
        let b := m1.sramGet e (s.ring + p.used % s.depth * s.len) s.len
        let m2 := m1.onEng e fun x => { x with run := x.run.map fun q =>
          { q with streams := q.streams.map fun t => if t.sid = s.sid then { t with used := t.used + 1 } else t } }
        let (rest, m3) := takeElements e im s n m2
        (b ++ rest, m3)

/-- A memory that holds a byte string from address 0. -/
def memOfBytes (b : List Byte) : Mem := (b.zipIdx.map fun v => (v.2, v.1)).filter fun c => c.2 != 0

/-! ## Running layers -/

/-- The image and the role record of a descriptor's layers. -/
def descImage (m : Mach) (d : Desc) : Option (Image × RoleRec) :=
  match m.images.find d.image with
  | some im => (im.sourceOf d.role).map fun r => (im, r)
  | none => none

/-- Run the layer that the descriptor stands at on the array or the vector unit, or as a thin-layer engine's result: its
saturations and thin-layer clocks, and the machine after it. -/
def layerStep (e : Fin 72) (m : Mach) : Nat × Nat × Mach :=
  match (m.eng.get e).run with
  | none => (0, 0, m)
  | some r =>
    match m.descImage r.desc with
    | none => (0, 0, m)
    | some (im, rec) =>
      match im.layers[r.layer]? with
      | none => (0, 0, m)
      | some l =>
        let strm := (im.streamsOf rec).find? (·.sid == l.wgtSid)
        let (wmem, wbase, m1) := match l.wgtStrm && l.op == 0x01, strm with
          | true, some s =>
            let n := (l.wgtBlocks * l.blockBytes + s.len - 1) / s.len
            let (b, t) := m.takeElements e im s n
            (memOfBytes b, 0, t)
          | _, _ => ((m.eng.get e).sram, l.wgtA, m)
        if (m1.eng.get e).run.isNone then (0, 0, m1)
        else
        let edge := (m1.lvl.get (dieOfEng e)).edge || r.edgeLayer
        let o := l.run (m1.eng.get e).sram wmem wbase edge m1.draws
        let m2 := { m1.sramPut e l.outA o.bytes with draws := m1.draws + o.draws }
        let m3 := m2.onEng e fun x => { x with run := x.run.map fun q =>
          { q with layer := q.layer + 1, waitTle := false, edgeLayer := false,
                   desc := { q.desc with passes := q.desc.passes + o.passes, tleClk := q.desc.tleClk + o.tle,
                                         sat := q.desc.sat || o.sats != 0, edge := q.desc.edge || edge } } }
        (o.sats, o.tle, (m3.addTo (R.ENG_PASSES e) o.passes).addTo (R.ENG_ROWS_SKIPPED e) o.skipped)

/-- A layer on the array or the vector unit, with its engine's counts. -/
def runLayer (e : Fin 72) (m : Mach) : Mach :=
  let (sats, _, m1) := m.layerStep e
  if sats = 0 then m1 else (m1.addTo (R.ENG_SAT_COUNT e) sats).set1 (R.ENG_ERR_SAT e)

/-- A layer that a thin-layer engine runs (R134). -/
def isThin (l : LayerRec) : Bool := l.op == 0x01 && l.unit != 0

/-- Layers run up to the next thin layer of the descriptor, whose request is queued (R136); without one they wait for the
descriptor's completion. The fuel bounds the number of layers. -/
def advance (e : Fin 72) : Nat → Mach → Mach
  | 0, m => m
  | n + 1, m =>
    match (m.eng.get e).run with
    | none => m
    | some r =>
      match m.descImage r.desc with
      | none => m
      | some (im, _) =>
        let ahead := (im.layers.drop r.layer).take (r.desc.lLast + 1 - r.layer)
        if !ahead.any isThin then m
        else
          match ahead.head? with
          | none => m
          | some l =>
            if isThin l then
              let d := dieOfEng e
              let q : TleReq := { eng := e.1, layer := r.layer, tn := r.desc.tn }
              let m1 := { m with tleq := vmod m.tleq d (· ++ [q]) }
              m1.onEng e fun x => { x with run := x.run.map fun y => { y with waitTle := true } }
            else advance e n (m.runLayer e)

/-- Run at most k of the layers that are left. -/
def runSome (e : Fin 72) : Nat → Mach → Mach
  | 0, m => m
  | n + 1, m =>
    match (m.eng.get e).run with
    | none => m
    | some r => if r.layer ≤ r.desc.lLast then runSome e n (m.runLayer e) else m

/-- Run every layer that is left. -/
def runRest (e : Fin 72) : Nat → Mach → Mach
  | 0, m => m
  | n + 1, m =>
    match (m.eng.get e).run with
    | none => m
    | some r => if r.layer ≤ r.desc.lLast then runRest e n (m.runLayer e) else m

/-- A descriptor of a role's layers carries RESULT when its last layer is the classifier's final one (R121, R179). -/
def rolesResult (im : Image) (r : RoleRec) : Bool := match im.layers[r.lLast]? with | some l => l.last | none => false

/-- The layers of a classifier from a role on, through the roles it hands on to (R305). -/
def classLayers (im : Image) : Nat → Nat → List (LayerRec × RoleRec)
  | 0, _ => []
  | n + 1, role =>
    match im.sourceOf role with
    | none => []
    | some r =>
      let ls := (im.layers.drop r.lFirst).take (r.lLast + 1 - r.lFirst)
      let here := ls.map fun l => (l, r)
      match ls.getLast? with
      | some l => if l.nextValid then here ++ classLayers im n (im.nextRoleOf role l.nextRole) else here
      | none => here

/-- The estimate of a classification (R305), at the prices of the die of its first role's engine. -/
def classEst (m : Mach) (im : Image) (role : Nat) (die : Fin 4) : Int :=
  let ls := classLayers im 256 role
  let bytes := (ls.map fun x =>
    if x.1.wgtStrm then
      match (im.streamsOf x.2).find? (·.sid == x.1.wgtSid) with
      | some s => (x.1.wgtBlocks * x.1.blockBytes + s.len - 1) / s.len * s.len
      | none => 0
    else 0).sum
  m.price .pass die (ls.map fun x => x.1.estPasses).sum +
    m.price .tle die (ls.map fun x => if isThin x.1 then x.1.tleClocks else 0).sum + m.price .byte die (2080 + bytes)

/-! ## Edge variants begin and end (R138, R140, R317) -/

/-- How far a running descriptor has come when its die takes or leaves an edge variant is timing, and free: some of its layers have
run, and of the layer in progress there may have been passes (log 31). -/
def settleRun (e : Fin 72) (m : Mach) : Mach :=
  match (m.eng.get e).run with
  | none => m
  | some r =>
    if r.waitTle then m
    else
      let (v, m1) := m.drawNat
      let m2 := m1.runSome e (v / 2 % (r.desc.lLast + 2 - r.layer))
      let part := (m.lvl.get (dieOfEng e)).edge && v % 2 == 1
      m2.onEng e fun x => { x with run := x.run.map fun q => { q with edgeLayer := q.edgeLayer || part } }

/-- A die takes or leaves its edge variant. -/
def setEdge (d : Fin 4) (edge : Bool) (m : Mach) : Mach :=
  if (m.lvl.get d).edge = edge then m
  else (forEach ((List.finRange 72).filter fun (e : Fin 72) => dieOfEng e == d) settleRun m).onLvl d fun x => { x with edge := edge }

/-- An emergency step-down of a die to the frequency of a lower level (R317): at once, the voltage stays, what was raising
is cancelled and the edge variant ends. `trip` is the level to settle to after an edge trip (R141). -/
def emergency (d : Fin 4) (target : Nat) (trip : Option Nat) (m : Mach) : Mach :=
  ((m.setEdge d false).onLvl d fun l =>
    { l with freq := min l.freq target, emerg := true, raising := none, trip := if trip.isSome then trip else l.trip }).inc
    R.PWR_EMERG

/-- The engine runs: no reset, no load, and the package's compute side is up. -/
def engReady (m : Mach) (e : Fin 72) : Bool :=
  let x := m.eng.get e
  !x.inReset && !x.loading && m.engGood e && m.rst.hold.isNone && m.rst.compute.isNone

end Mach

end Sys2Proof.Machine
end

