-- ==== Sys2Proof/Machine/Engines.lean ====
section
/-! DEFINITION. Meanings of the engines' commands (R117 to R144) with role loads and prefetch (R185, R195). -/

namespace Sys2Proof.Machine

namespace Mach

/-- R120, R122: the engine takes the next descriptor; its input is loaded, its streams restart, and its layers up to the
next thin layer run. -/
def descStart (e : Fin 72) (m : Mach) : Mach :=
  let m := m.pumpHeld e
  let x := m.eng.get e
  if !m.engReady e || x.run.isSome then m
  else
    match x.queue with
    | [] => m
    | d :: rest =>
      let m1 := (m.onEng e fun y => { y with queue := rest }).pumpHeld e
      match decide (m1.engOf d.fn d.epoch d.role = some e), m1.descImage d with
      | true, some (im, rec) =>
        let inA := match im.layers[d.lFirst]? with | some l => l.inA | none => 0
        let m2 := if d.loadIn then m1.sramPut e inA (m1.dramGet d.inAddr 2048) else m1.sramPut e inA d.input
        let d1 := { d with bytes := if d.loadIn then 2048 else 0, input := [] }
        let r : Run :=
          { desc := d1, layer := d.lFirst, waitTle := false,
            streams := (im.streamsOf rec).map fun s => { sid := s.sid, fetched := 0, used := 0 } }
        (m2.onEng e fun y => { y with run := some r }).advance e 257
      | _, _ => m1.descStale e d

/-- R124: the result is written, or the next part is asked for (R121), and the estimate's rest is credited (R305). -/
def descComplete (e : Fin 72) (m : Mach) : Mach :=
  match (m.eng.get e).run with
  | none => m
  | some r0 =>
    if r0.waitTle || !m.engReady e then m
    else
      let m1 := m.runRest e 257
      match (m1.eng.get e).run, m1.descImage r0.desc with
      | some r, some (im, _) =>
        let last := im.layers[r.desc.lLast]?
        let dw := if r.desc.result then { r.desc with bytes := r.desc.bytes + 32 } else r.desc
        let (d, m2) := m1.closeWork e dw
        let m3 := (m2.onEng e fun y => { y with run := none }).inc (R.ENG_DESC_DONE e)
        let credit := fun (t : Mach) => (t.debitNj .class_ (d.used - d.est)).spend d.tn (d.used - d.est)
        match last with
        | none => credit m3
        | some l =>
          if d.result then
            let s := scoresAt (m3.eng.get e).sram l.inA
            let m4 := m3.dramPut d.outAddr (resultBytes d s e)
            credit (m4.onCurd (Fin.ofNat 16 d.port) d.tn d.index fun c => { c with score := some (s, d.edge, d.replayed) })
          else if l.nextValid then
            let role := im.nextRoleOf d.role l.nextRole
            match im.sourceOf role with
            | none => m3.descStale e d
            | some nr =>
              m3.issue { d with kind := 2, role := role, lFirst := nr.lFirst, lLast := nr.lLast, result := rolesResult im nr,
                                loadIn := false, input := m3.sramGet e l.outA l.outBytes, sat := false, replayed := false }
          else credit m3
      | _, _ => m1

/-- The weights of a request's layer in the requesting engine's SRAM, which the thin-layer engine stages in its own (R134); streamed ones
come as the layer runs. -/
def tleWeights (m : Mach) (q : TleReq) : List Byte :=
  let e : Fin 72 := Fin.ofNat 72 q.eng
  match (m.eng.get e).run.bind fun r => (m.descImage r.desc).bind fun x => x.1.layers[q.layer]? with
  | some l => if l.wgtStrm then [] else m.sramGet e l.wgtA (l.wgtBlocks * l.blockBytes)
  | none => []

/-- R136: a free good thin-layer engine takes the oldest request of its die, engine 0 first. -/
def tleStart (d : Fin 4) (m : Mach) : Mach :=
  match m.tleq.get d with
  | [] => m
  | q :: rest =>
    let free := (List.range 2).find? fun t => (m.rst.dies.get d).tleGood.getLsbD t && (vat m.tle (2 * d.1 + t)).isNone
    match free with
    | some t =>
      let i : Fin 8 := Fin.ofNat 8 (2 * d.1 + t)
      { m with tleq := vput m.tleq d rest, tle := vput m.tle i (some q), cache := { m.cache with tle := vput m.cache.tle i (m.tleWeights q) } }
    | none => m

/-- R134: the layer is done; its output lies in the requesting engine's SRAM and the engine goes on. -/
def tleDone (d : Fin 4) (t : Fin 2) (m : Mach) : Mach :=
  let i : Fin 8 := ⟨2 * d.1 + t.1, by omega⟩
  match m.tle.get i with
  | none => m
  | some q =>
    let m1 := { m with tle := vput m.tle i none }
    if q.dropped then m1
    else
      let e := Fin.ofNat 72 q.eng
      match (m1.eng.get e).run with
      | none => m1
      | some _ =>
        let (sats, clk, m2) := m1.layerStep e
        let m3 := ((m2.inc (R.TLE_LAYERS i)).addTo (R.TLE_CLOCKS i) clk).addTo (R.TLE_SAT_COUNT i) sats
        (if sats = 0 then m3 else m3.set1 (R.TLE_STAT_SAT i)).advance e 257

/-- The populations of the roles that an engine holds. -/
def onPopsOf (e : Fin 72) (f : Pop → Pop) (m : Mach) : Mach :=
  let here := fun (p : Pop) => (m.fn.get p.fn).roles.cur.binds.any fun b => b.1 == p.role && b.2 == e.1
  { m with pops := m.pops.map fun p => if here p then f p else p }

/-- R140, R141, R170: a detector flags a guarded bit while the die runs an edge variant. How many passes are replayed is open: at most
the eight held passes, at least one. Of a step in progress one group of 16 neurons is replayed; which, the step's touches settle. -/
def edgeError (e : Fin 72) (neuron : Bool) (m : Mach) : Mach :=
  let d := dieOfEng e
  let l := m.lvl.get d
  if !l.edge then m
  else
    let (k, m1) := m.drawNat
    let n := if neuron then 1 else 1 + k % 8
    let m2 := ((m1.inc (R.ENG_EDGE_ERR e)).set1 (R.ENG_ERR_EDGE_ERR e)).addTo (R.ENG_REPLAYS e) n
    let m3 := (m2.emergency d (l.freq - 1) (some l.freq)).onLvl d fun x => { x with trips := satN (x.trips + 1) 255 }
    let m4 := m3.set1 (R.ENG_D_DSTAT_TRIP d)
    if neuron then m4.onEng e fun x => { x with flagged := true }
    else m4.onEng e fun x => { x with run := x.run.map fun r => { r with desc := { r.desc with replayed := true } } }

/-- R144: the engine is reset: its queued and running descriptors abandoned, those held by the scheduler waiting on, SRAM zeroed, and its populations restart when they next run (R169). -/
def engReset (e : Fin 72) (m : Mach) : Mach :=
  if (m.eng.get e).inReset then m
  else
    let m1 := m.abandonQueued e fun _ => true
    (m1.onEng e fun x => { x with inReset := true, sram := [], arrivals := [] }).onPopsOf e fun p => { p with restart := true }

/-- ENG_SRST: an engine held off or powered down takes no reset (R426). -/
def engSrst (e : Fin 72) (m : Mach) : Mach := if m.engGood e && m.sleep.state ≤ 1 then m.engReset e else m

/-- R144: the zeroing ends and the descriptors held for the engine proceed. -/
def engResetDone (e : Fin 72) (m : Mach) : Mach :=
  if (m.eng.get e).inReset then (m.onEng e fun x => { x with inReset := false }).pumpHeld e else m

/-- R141: writing TRIP clears TRIP and EDGE_TRIPS. -/
def tripClear (d : Fin 4) (m : Mach) : Mach := (m.clr (R.ENG_D_DSTAT_TRIP d)).onLvl d fun x => { x with trips := 0 }

/-- R185: the prefetcher fetches the next element into a free ring slot. -/
def prefetch (e : Fin 72) (sid : Nat) (m : Mach) : Mach :=
  match (m.eng.get e).run with
  | none => m
  | some r =>
    match m.descImage r.desc, r.streams.find? (·.sid == sid) with
    | some (im, rec), some p =>
      match (im.streamsOf rec).find? (·.sid == sid) with
      | some s => if p.fetched - p.used < s.depth then m.fetchElement e im s else m
      | none => m
    | _, _ => m

end Mach

/-- DESCRIPTOR_START (R120). -/
def execDescriptorStart (e : Fin 72) (s : State) := s.act (Mach.descStart e)
/-- DESCRIPTOR_COMPLETE (R124). -/
def execDescriptorComplete (e : Fin 72) (s : State) := s.act (Mach.descComplete e)
/-- TLE_REQUEST_START (R136). -/
def execTleRequestStart (d : Fin 4) (s : State) := s.act (Mach.tleStart d)
/-- TLE_REQUEST_DONE (R134). -/
def execTleRequestDone (d : Fin 4) (t : Fin 2) (s : State) := s.act (Mach.tleDone d t)
/-- EDGE_ERROR (R140). -/
def execEdgeError (e : Fin 72) (neuron : Bool) (s : State) := s.act (Mach.edgeError e neuron)
/-- ENG_SRST (R144). -/
def execEngSrst (e : Fin 72) (s : State) := s.act (Mach.engSrst e)
/-- ENG_RESET_DONE (R144). -/
def execEngResetDone (e : Fin 72) (s : State) := s.act (Mach.engResetDone e)
/-- ENG_TRIP_CLEAR (R141). -/
def execEngTripClear (d : Fin 4) (s : State) := s.act (Mach.tripClear d)
/-- STREAM_PREFETCH (R185). -/
def execStreamPrefetch (e : Fin 72) (sid : Nat) (s : State) := s.act (Mach.prefetch e sid)

end Sys2Proof.Machine
end

