-- ==== Sys2Proof/Machine/FrontEnd.lean ====
section
/-! DEFINITION. Meanings of the event front end's commands (R87 to R116) with the event tap (R380, R381). -/

namespace Sys2Proof.Machine

namespace Mach

/-! ## The event tap -/

/-- Write the TAP entry being filled (R381): to the ring, or its samples are lost to a full ring. -/
def tapFlush (f : Fin 8) (m : Mach) : Mach :=
  let t := (m.fn.get f).tap
  if t.buf.isEmpty then m
  else if 0 < m.ringRoom f 6 then
    let c := (m.ring f 6).count
    let phase := phaseOf (m.ringSize f 6) c
    let lost := satN t.dropped 65535
    ((m.emit (.tap f (c % m.ringSize f 6) lost t.buf (tapEntry phase lost t.buf))).ringWrote f 6 5).onFn f fun x =>
      { x with tap := { x.tap with buf := [], dropped := 0 } }
  else m.onFn f fun x => { x with tap := { x.tap with buf := [], dropped := satN (x.tap.dropped + x.tap.buf.length) 65535 } }

/-- An event word read from a vat is offered to the tap of the port's owner (R380): the last of each 2^SHIFT is sampled. What a sample costs is
not stated: a free value (R306 item 7). -/
def tapWord (p : Fin 16) (w : EvWord) (m : Mach) : Mach :=
  let f := m.own.port.get p
  let t := (m.fn.get f).tap
  if t.en && bitN t.mask p then
    let seen := t.seen + 1
    if seen < 2 ^ t.shift then m.onFn f fun x => { x with tap := { x.tap with seen := seen } }
    else
      let m1 := m.onFn f fun x => { x with tap := { x.tap with seen := 0 } }
      let (c, m2) := m1.drawNat
      if m2.affords .tap c then
        let m3 := (m2.debitNj .tap c).onFn f fun x => { x with tap := { x.tap with buf := x.tap.buf ++ [w] } }
        if 7 ≤ (m3.fn.get f).tap.buf.length then m3.tapFlush f else m3
      else (m2.inc R.PWR_SHED_TAP).onFn f fun x => { x with tap := { x.tap with dropped := satN (x.tap.dropped + 1) 65535 } }
  else m

/-! ## Reading (R80, R306, R307) -/

/-- The place in the vat of the packet that the order of R80 takes first among those that `ok` admits: the oldest ROI packet, else
the oldest normal one. -/
def firstPacket (ok : VatPacket → Bool) (l : List VatPacket) : Option Nat :=
  (l.findIdx? fun k => ok k && k.roi).or (l.findIdx? ok)

/-- The packet that the reader starts next (R80): the next one of the burst granted, where that covers any more. -/
def nextPacket (l : List VatPacket) : Option (VatPacket × List VatPacket) :=
  match (firstPacket (·.granted) l).or (firstPacket (fun _ => true) l) with
  | some i => match l[i]? with | some k => some (k, l.eraseIdx i) | none => none
  | none => none

/-- A grant of n words takes in whole waiting packets in R80's order, the last of them as far as the words go: the vat with its marks,
and the words of the grant left over. -/
def grantFrom : Nat → Nat → List VatPacket → List VatPacket × Nat
  | 0, n, l => (l, n)
  | _, 0, l => (l, 0)
  | fuel + 1, n, l =>
    match firstPacket (fun k => !k.granted) l with
    | none => (l, n)
    | some i =>
      let k := ((l[i]?).map fun k => k.words.length).getD 0
      grantFrom fuel (n - k) (l.modify i fun k => { k with granted := true })

/-- The reader asks for its next burst (R80). How many words it asks for, at most 256, is its own: a free value. The grant is
shortened to the words of the packet in progress and of the committed packets that follow it. -/
def askBurst (p : Fin 16) (m : Mach) : Mach :=
  let x := m.port.get p
  if x.burst ≠ 0 ∧ (x.reading.isSome ∨ x.vat.any (·.granted)) then m
  else
    let (v, m1) := m.drawNat
    let want := v % 256 + 1
    let here := match x.reading with | some r => min want (r.words.length - r.pos) | none => 0
    let (vat, left) := grantFrom x.vat.length (want - here) (x.vat.map fun k => { k with granted := false })
    m1.onPort p fun y => { y with vat := vat, burst := want - left }

/-- The rest of the burst is void: a packet it covers was not taken. -/
def dropBurst (p : Fin 16) (m : Mach) : Mach :=
  m.onPort p fun y => { y with burst := 0, vat := y.vat.map fun k => { k with granted := false } }

/-- Start a packet if none is in read (R80), with the ledger's test and debit (R306); a refused normal packet holds normal
packets back until the next boundary (R307). -/
def openPacket (p : Fin 16) (m : Mach) : Mach :=
  let x := m.port.get p
  if x.reading.isSome then m
  else
    match nextPacket x.vat with
    | none => m
    | some (k, rest) =>
      let d := dieOfPort p
      let n := k.words.length
      let take := fun (it : Item) (t : Mach) =>
        (t.debit it .ev d n t.tick.tn).onPort p fun y =>
          { y with vat := rest, reading := some { roi := k.roi, trunc := k.trunc, words := k.words, pos := 0 } }
      if k.roi then take .roi m
      else if (m.fe.get p).normHeld then m.dropBurst p
      else if m.affords .norm (m.price .ev d n) then take .norm m
      else ((m.inc R.PWR_SHED_NORM).onFe p fun f => { f with normHeld := true }).dropBurst p

/-- Take the next word of the packet in read, one of the burst's (R77, R80). -/
def takeWord (p : Fin 16) (m : Mach) : Option (EvWord × Mach) :=
  match (m.port.get p).reading with
  | none => none
  | some r =>
    match r.words[r.pos]? with
    | none => none
    | some w =>
      let m1 := m.onPort p fun x =>
        { x with burst := x.burst - 1,
                 reading := if r.pos + 1 < r.words.length then some { r with pos := r.pos + 1 } else none }
      some (w, ((m1.evalFc p).inc (R.FE_EVENTS p)).tapWord p w)

/-! ## One event (R87) -/

/-- Whey of a reason (R102). -/
def whey (c : Fld) (tn : Nat) (m : Mach) : Mach := (m.inc c).onAcct tn fun a => { a with whey := a.whey + 1 }

/-- Corner, flow and curd count (R87 steps 7 to 9). -/
def countEvent (p : Fin 16) (h : HeldEv) (m : Mach) : Mach :=
  let w := h.w
  let tau := tauOf h.s
  let q := (m.fn.get (m.own.port.get p)).quality.at_ h.tn
  let (corner, cex) := m.cornerTest p q w.pol w.x w.y tau
  let (flow, fex) := m.flowFit p q w.pol w.x w.y tau
  let m1 := if corner then m.inc (R.FE_CORNERS p) else m
  let m2 := if cex then m1.inc (R.FE_CORNER_EXACT p) else m1
  let m3 := if flow.isSome then m2.inc (R.FE_FLOW_VALID p) else m2
  let m4 := if fex then m3.inc (R.FE_FLOW_EXACT p) else m3
  let start := match m.acct? h.tn with | some a => a.start | none => m.bnd h.tn
  let i := m.cell16 p w.x w.y
  m4.onFe p fun x =>
    let gs := if x.grids.any (·.tn == h.tn) then x.grids else { tn := h.tn, start := start } :: x.grids
    { x with grids := gs.map fun g =>
        if g.tn = h.tn then
          { g with cells := Tab.put g.cells i (countCell w (h.s - start) corner flow (Tab.get (fun _ => ({} : Cell)) g.cells i)) }
        else g }

/-- Steps 2 to 9 of R87. -/
def filterEvent (p : Fin 16) (h : HeldEv) (m : Mach) : Mach :=
  let w := h.w
  let tau := tauOf h.s
  if m.on (R.FE_CTRL_HOT_EN p) && m.isHot p w.x w.y then m.whey (R.FE_WHEY_HOT p) h.tn
  else if m.on (R.FE_CTRL_REF_EN p) && m.refrWhey p w.x w.y tau then m.whey (R.FE_WHEY_REF p) h.tn
  else
    let m1 := if epochOf (tauOf m.time.n) - 1 ≤ epochOf tau then m.surfWrite p w.pol w.x w.y tau else m
    if h.strag then (m1.inc (R.FE_STRAGGLERS p)).onRunning fun a => { a with stragglers := a.stragglers + 1 }
    else if m1.on (R.FE_CTRL_BA_EN p) && !m1.supported p w.x w.y tau then m1.whey (R.FE_WHEY_BA p) h.tn
    else
      let i := m1.cell16 p w.x w.y
      let (flk, st) := flkStep (m1.on (R.FE_CTRL_FLK_EN p)) (m1.g (R.FE_FLK_CFG_LOCK p)) (m1.g (R.FE_FLK_P_PMIN p))
        (m1.g (R.FE_FLK_P_PMAX p)) tau w.pol (Tab.get (fun _ => ({} : Flk)) (m1.fe.get p).flk i)
      let m2 := m1.onFe p fun x => { x with flk := Tab.set (fun _ => ({} : Flk)) x.flk i st }
      if flk then m2.whey (R.FE_WHEY_FLK p) h.tn
      else if (m2.fe.get p).warming || decide (h.tn < (m2.fe.get p).warmTn) then m2
      else m2.countEvent p h

/-- A tick's curd grid still takes events (R35, R36). -/
def gridOpen (m : Mach) (tn : Nat) : Bool :=
  tn == m.tick.tn ||
    match m.acct? tn with
    | some a => !a.gridClosed && (a.tEnd.isNone || decide (m.time.n ≤ a.graceFrom + 5000))
    | none => false

/-- B_e of a learning run: the boundary that ended it, or, while it runs, the first one to come that lies a second after B_s. -/
def learnTo (m : Mach) (l : Learn) : Int :=
  match l.be with
  | some e => e
  | none => m.bnd (max (m.tick.tn + 1) (m.tnAt (l.bs + 999999999) + 1).toNat)

/-- An event counted during learning (R98). -/
def learnEvent (p : Fin 16) (l : Learn) (w : EvWord) (m : Mach) : Mach :=
  let s := m.extend w.t32
  let inside := decide (l.bs ≤ s) && decide (s < m.learnTo l)
  if inside then
    let i := m.cellPlace p (w.y * m.feWidth p + w.x)
    m.onFe p fun x =>
      let c := (Tab.get (fun _ => (0 : Word)) x.surf i).toNat
      { x with surf := Tab.set (fun _ => (0 : Word)) x.surf i (BitVec.ofNat 32 (satN (c + 1) (2 ^ 32 - 1))) }
  else m

/-- The first event after a zeroing gives τ_w (R114). Where a boundary at or after τ_w + WARMUP has already fallen, warm-up ended
there, and curds are formed from its tick. -/
def firstEvent (p : Fin 16) (s : Int) (m : Mach) : Mach :=
  let f := m.fe.get p
  if f.warming && f.tauW.isNone then
    let past := m.tick.accts.filter fun a => decide (s + m.g (R.FE_WARMUP p) * 1000 ≤ a.start)
    match past.getLast? with
    | some a => m.onFe p fun x => { x with tauW := some s, warming := false, warmTn := a.tn }
    | none => m.onFe p fun x => { x with tauW := some s }
  else m

/-- A word enters the front end (R33, R56): it counts among the events of its tick, and as early where it lies past the running
tick. -/
def enterEvent (p : Fin 16) (w : EvWord) (m : Mach) : Mach :=
  let s := m.extend w.t32
  let m1 := m.onAcct (m.tickOf s).toNat fun a => { a with events := a.events + 1 }
  if m.tickEnd ≤ s then (m1.inc (R.FE_EARLY p)).onRunning fun a => { a with early := a.early + 1 } else m1

/-- A word read outside learning: stamp, tick, warm-up's first event, the ager's wait (R33, R36, R93, R114). -/
def judgeEvent (p : Fin 16) (w : EvWord) (m : Mach) : Mach :=
  let s := m.extend w.t32
  let tn := (m.tickOf s).toNat
  let h : HeldEv := { w := w, s := s, tn := tn, strag := !m.gridOpen tn }
  let m3 := m.firstEvent p s
  if (m3.fe.get p).sweeping ∧ epochOf (tauOf s) = (m3.fe.get p).sweep + 1 then
    (m3.inc (R.FE_AGER_EARLY p)).onFe p fun x => { x with held := some h }
  else m3.filterEvent p h

/-- The pipeline of a port reads words (R55, R93, R95, R98). -/
def feRuns (m : Mach) (p : Fin 16) : Bool :=
  let f := m.fe.get p
  m.rst.ready && m.rst.compute.isNone && m.rst.hold.isNone && m.sleep.state == 0 && !f.zeroing && f.held.isNone &&
    !(match f.learning with | some l => (match l.be with | some e => decide (e + 5000 ≤ m.time.n) | none => false) | none => false)

/-- FE_EVENT. -/
def feEvent (p : Fin 16) (m : Mach) : Mach :=
  if !m.feRuns p then m
  else
    let m1 := ((m.dueSweep p).askBurst p).openPacket p
    match m1.takeWord p with
    | none => m1
    | some (w, m2) =>
      match (m2.fe.get p).learning with
      | some l => (m2.enterEvent p w).learnEvent p l w
      | none => (m2.enterEvent p w).judgeEvent p w

/-! ## Ager, zeroing, learning -/

/-- R93: the sweep of the epoch that has begun, or of the next one, starts. -/
def agerStart (p : Fin 16) (m : Mach) : Mach :=
  if m.on (R.ING_CTRL_EN p) && (m.fe.get p).learning.isNone then
    let e := epochOf (tauOf m.time.n)
    if (m.fe.get p).sweep < e then m.startSweep p e
    else (m.runTo ((e + 1) * 16384 * 2000)).startSweep p (e + 1)
  else m

/-- R93: the sweep ends and a held event goes on. -/
def agerEnd (p : Fin 16) (m : Mach) : Mach :=
  let h := (m.fe.get p).held
  let m1 := m.onFe p fun x => { x with sweeping := false, held := none }
  match h with
  | some e => m1.filterEvent p e
  | none => m1

/-- R98, step 4: LEARN_DONE, and LEARN reads 0 unless learning has been asked for again. -/
def learnDone (p : Fin 16) (m : Mach) : Mach :=
  let m1 := (m.set1 (R.FE_STAT_LEARN_DONE p)).onFe p fun x => { x with learned := false }
  if (m.fe.get p).learnReq then m1 else m1.clr (R.FE_CTRL_LEARN p)

/-- R95: zeroing and hot list are done, and warm-up begins (R114). After learning, LEARN_DONE follows (R98). -/
def zeroDone (p : Fin 16) (m : Mach) : Mach :=
  if (m.fe.get p).zeroing then
    let m1 := (m.applyHot p).onFe p fun x => { x with zeroing := false, warming := true, tauW := none }
    if (m.fe.get p).learned then m1.learnDone p else m1
  else m

/-- R98: LEARN reads 1 until LEARN_DONE. Written 1 again while learning runs, which the spec leaves open, the request is kept, and
learning starts again at the first boundary after it has ended (DESIGN CHOICE, log 79). -/
def learnAsk (p : Fin 16) (m : Mach) : Mach := (m.set1 (R.FE_CTRL_LEARN p)).onFe p fun x => { x with learnReq := true }

/-- R97. -/
def hotAsk (p : Fin 16) (m : Mach) : Mach := m.onFe p fun x => { x with hotReq := true }

/-- R98, steps 1 to 3: at B_e + 5 µs the hot pixels are judged and listed, and the zeroing starts. The next sweep is that of the
next epoch (R93). -/
def learnEnd (p : Fin 16) (m : Mach) : Mach :=
  match (m.fe.get p).learning with
  | some { bs := bs, be := some e } =>
    let m1 := m.runTo (e + 5000)
    let rate : Int := m1.g (R.FE_HOT_RATE p)
    let hot := ((m1.cellsUp p).filter fun c => decide (rate * (e - bs) < (c.2.toNat : Int) * 1000000000)).map (·.1)
    let kept := hot.take (m1.g (R.FE_HOT_CNT_HOT_MAX p))
    let base := m1.g64 (R.FE_HOT_BASE_LO_A p) (R.FE_HOT_BASE_HI_A p)
    let w := m1.feWidth p
    let bytes := kept.flatMap fun i => bytesOf 4 (i / w * 65536 + i % w)
    let m2 := (m1.dramPut base bytes).put (R.FE_HOT_CNT_HOT_COUNT p) kept.length
    let m3 := if kept.length < hot.length then m2.set1 (R.FE_STAT_HOT_OVF p) else m2
    (m3.zeroSurface p).onFe p fun x =>
      { x with learning := none, learned := true, sweep := epochOf (tauOf m3.time.n), sweeping := false }
  | _ => m

/-! ## Closing a grid -/

/-- The oldest tick that has ended and whose grid is open. -/
def nextGrid (m : Mach) : Option TickAcct := (m.tick.accts.filter fun a => a.tEnd.isSome && !a.gridClosed).getLast?

/-- R110: at B_(n+1) + 5 µs the grids of tick n close and its curds are formed. -/
def closeGrid (m : Mach) : Mach :=
  match m.nextGrid with
  | none => m
  | some a =>
    let m1 := m.runTo (a.graceFrom + 5000)
    let m2 := m1.onAcct a.tn fun x => { x with gridClosed := true }
    forEach (List.finRange 16) (fun (p : Fin 16) t =>
      let (cs, extra) :=
        match (t.fe.get p).grids.find? (·.tn == a.tn) with
        | some g => if a.works then t.curdsOf p g else ([], 0)
        | none => ([], 0)
      let t1 := t.onFe p fun x => { x with grids := x.grids.filter fun g => g.tn != a.tn, curds := x.curds ++ cs }
      let t2 := (t1.addTo (R.FE_CURDS p) cs.length).addTo (R.FE_OVF_CURDS p) extra
      t2.onAcct a.tn fun x => { x with curds := x.curds + cs.length, ovf := x.ovf + extra }) m2

end Mach

/-- FE_EVENT (R87). -/
def execFeEvent (p : Fin 16) (s : State) := s.act (Mach.feEvent p)
/-- AGER_SWEEP_START (R93). -/
def execAgerSweepStart (p : Fin 16) (s : State) := s.act (Mach.agerStart p)
/-- AGER_SWEEP_END (R93). -/
def execAgerSweepEnd (p : Fin 16) (s : State) := s.act (Mach.agerEnd p)
/-- SURFACE_ZERO_DONE (R95). -/
def execSurfaceZeroDone (p : Fin 16) (s : State) := s.act (Mach.zeroDone p)
/-- FE_CTRL_LEARN (R98). -/
def execFeCtrlLearn (p : Fin 16) (s : State) := s.act (Mach.learnAsk p)
/-- FE_CTRL_HOT_APPLY (R97). -/
def execFeCtrlHotApply (p : Fin 16) (s : State) := s.act (Mach.hotAsk p)
/-- LEARN_END (R98). -/
def execLearnEnd (p : Fin 16) (s : State) := s.act (Mach.learnEnd p)
/-- CURD_GRID_CLOSE (R110). -/
def execCurdGridClose (s : State) := s.act Mach.closeGrid

end Sys2Proof.Machine
end

