-- ==== Sys2Proof/Machine/LinkMsgs.lean ====
section
/-! DEFINITION. Messages of the line links: headers, frames, the comet record, the refusal of handoffs (R227, R395, R398 to R404). -/

namespace Sys2Proof.Machine

/-- MTYPE (R398). -/
def mtOffer : Nat := 1
def mtReply : Nat := 2
def mtCurds : Nat := 3
def mtTt : Nat := 4
def mtAdvert : Nat := 5

/-- The lane of a message type (R397). -/
def laneOf (mtype : Nat) : Fin 4 := if mtype = 4 then 0 else if mtype = 3 then 2 else if mtype = 5 then 3 else 1

/-- A message with its header (R398). -/
def msgBytes (mtype fmt func count tn : Nat) (body : List Byte) : List Byte :=
  bytesOf 1 mtype ++ bytesOf 1 (16 * fmt + func) ++ bytesOf 2 (16 + body.length) ++ bytesOf 1 count ++ [0, 0, 0] ++ bytesOf 6 tn ++
    [0, 0] ++ body

/-- The DATA frames of a message, 59 words at most in each (R395, R398); sequence numbers come with the sending. -/
def framesOf (vl : Fin 4) (b : List Byte) : List LinkFrame :=
  let n := (b.length + 235) / 236
  (List.range n).map fun i =>
    { vl := vl, som := i == 0, eom := i + 1 == n, seq := 0, payload := (b.drop (236 * i)).take 236 }

/-! ## The comet record (R227) -/

/-- The 256 bytes of a comet. -/
def Comet.bytes (c : Comet) : List Byte :=
  bytesOf 4 (c.pkg * 2 ^ 24 + c.serial) ++
  [BitVec.ofNat 8 (c.state * 16 + c.cls),
   BitVec.ofNat 8 (b2n c.clsValid 7 + b2n c.hoPend 6 + b2n c.remote 5 + b2n c.kinematic 4 + b2n c.vibStale 3 + b2n c.coarse 2 + b2n c.warming 1),
   BitVec.ofNat 8 (c.tailHead * 16 + c.port), BitVec.ofNat 8 c.hits] ++
  bytesOfI 8 c.tLast ++ bytesOfI 8 c.md ++ bytesOfI 8 c.md0 ++ bytesOfI 4 c.cd ++ bytesOfI 4 c.cd0 ++ bytesOfI 4 c.vmd ++ bytesOfI 4 c.vcd ++
  bytesOf 4 c.lenMd ++ bytesOf 4 c.widCd ++ bytesOf 4 c.pMd ++ bytesOf 4 c.pCd ++ bytesOf 4 c.pVmd ++ bytesOf 4 c.pVcd ++
  bytesOfI 8 c.tSpawn ++ bytesOf 4 c.age ++ bytesOf 2 c.misses ++ bytesOf 2 c.coast ++ bytesOf 2 c.votes ++ [0, 0] ++ bytesOf 4 c.measAge ++
  c.hist.flatMap (bytesOf 2) ++ c.tail.flatMap fun e => bytesOf 2 e.1 ++ bytesOfI 2 e.2.1 ++ bytesOfI 4 e.2.2

/-- The comet that 256 bytes spell. -/
def Comet.of (b : List Byte) : Comet :=
  let w := leN b 4 4
  { pkg := byteAt b 3, serial := leN b 0 3, state := bitsN w 7 4, cls := bitsN w 3 0, clsValid := bitN w 15, hoPend := bitN w 14,
    remote := bitN w 13, kinematic := bitN w 12, vibStale := bitN w 11, coarse := bitN w 10, warming := bitN w 9,
    tailHead := bitsN w 23 20, port := bitsN w 19 16, hits := bitsN w 31 24, tLast := leI b 8 8, md := leI b 0x10 8, md0 := leI b 0x18 8,
    cd := leI b 0x20 4, cd0 := leI b 0x24 4, vmd := leI b 0x28 4, vcd := leI b 0x2C 4, lenMd := leN b 0x30 4, widCd := leN b 0x34 4,
    pMd := leN b 0x38 4, pCd := leN b 0x3C 4, pVmd := leN b 0x40 4, pVcd := leN b 0x44 4, tSpawn := leI b 0x48 8, age := leN b 0x50 4,
    misses := leN b 0x54 2, coast := leN b 0x56 2, votes := leN b 0x58 2, measAge := leN b 0x5C 4,
    hist := (List.range 16).map fun i => leN b (0x60 + 2 * i) 2,
    tail := (List.range 16).map fun i => (leN b (0x80 + 8 * i) 2, leI b (0x82 + 8 * i) 2, leI b (0x84 + 8 * i) 4) }

namespace Mach

/-- The port refuses handoffs (R402). -/
def hoRefuse (m : Mach) (l : Fin 4) : Bool :=
  let x := m.link.get l
  x.state != 2 || x.theta.isNone || x.tickCfg || x.dup ||
    (match x.theta with | some (t, _) => decide ((m.tick.period : Int) * 1000 < (t.natAbs : Int)) | none => true)

/-- Queue a message on an UP port (R398). -/
def sendMsg (l : Fin 4) (mtype fmt func count tn : Nat) (body : List Byte) (m : Mach) : Mach :=
  if (m.link.get l).state = 2 then
    m.onLink l fun x => { x with sendq := vmod x.sendq (laneOf mtype) (· ++ framesOf (laneOf mtype) (msgBytes mtype fmt func count tn body)) }
  else m

/-- A message has been handled: its buffers return their credits (R397). -/
def freeMsg (l : Fin 4) (x : LinkMsg) (m : Mach) : Mach := m.onLink l fun k => { k with owed := vmod k.owed x.vl (· + x.frames) }

/-- The local function that FMAP gives for a peer's function (R404). -/
def mapFunc (m : Mach) (l : Fin 4) (f : Nat) : Option (Fin 8) :=
  let n := (m.rd (R.LNK_FMAP_A l)).toNat / 2 ^ (4 * (f % 8)) % 16
  if bitN n 3 then some (Fin.ofNat 8 (n % 8)) else none

/-- The body of an offer (R244, R404). -/
def offerBody (t : Int) (c : Comet) : List Byte := bytesOfI 8 t ++ List.replicate 8 0 ++ c.bytes

end Mach

end Sys2Proof.Machine
end

