-- ==== Sys2Proof/Machine/VibOps.lean ====
section
/-! DEFINITION. Vibration offsets of the ports from the IMU outputs (R222). -/

namespace Sys2Proof.Machine

/-- An output reaches an axis (R222): `rate` chooses RATE, `lk` is the leak shift. -/
def VibAxis.feed (rate : Bool) (scale : Int) (lk : Nat) (out stamp got : Int) (x : VibAxis) : VibAxis :=
  let dt := match x.stamp with | some s => stamp - s | none => 0
  let r := rnd (out * scale) (2 ^ 24)
  let vel := if rate then x.vel else x.vel + (rnd (r * dt) 1000000 - x.vel.fdiv (2 ^ lk))
  let v := if rate then 1000 * r else vel
  let pos := x.pos + (rnd (v * dt) 1000000 - x.pos.fdiv (2 ^ lk))
  { vel := vel, pos := pos, v := v, stamp := some stamp,
    hist := ({ stamp := stamp, got := got, pos := pos, v := v } :: x.hist).take 256 }

/-- The offset at an instant in µm, the stamp it rests on, and whether it holds at its limit (R222); none: no offset. -/
def VibAxis.offset (tValid limit bridge : Int) (x : VibAxis) : Option (Int × Int × Bool) :=
  (x.hist.find? fun h => decide (h.stamp ≤ tValid) && decide (h.got ≤ limit)).map fun h =>
    let age := tValid - h.stamp
    (rnd (h.pos + rnd (h.v * min age (bridge * 1000)) 1000000) 1000000, h.stamp, decide (bridge * 1000 < age))

namespace Mach

/-- Output of channel k of IMU i: every port that uses it moves its state on. -/
def vibFeed (i : Fin 4) (k : Fin 8) (x : Sample) (m : Mach) : Mach :=
  forEach (List.finRange 16) (fun (p : Fin 16) t =>
    if t.on (R.FUS_P_VIB_EN p) ∧ t.g (R.FUS_P_VIB_IMU p) = i.1 then
      let lk := atLeast1 (t.g (R.FUS_P_VIB_LK p))
      let step := fun (rate : Bool) (scale : Int) (a : VibAxis) => a.feed rate scale lk x.x x.t t.time.n
      t.onFus fun u => { u with vib := vmod u.vib p fun v =>
        (if t.g (R.FUS_P_VIB_CH_MD p) = k.1 then step (t.on (R.FUS_P_VIB_KIND_MD p)) (t.gi (R.FUS_P_VSMD p)) v.1 else v.1,
         if t.g (R.FUS_P_VIB_CH_CD p) = k.1 then step (t.on (R.FUS_P_VIB_KIND_CD p)) (t.gi (R.FUS_P_VSCD p)) v.2 else v.2) }
    else t) m

/-- The filters of an IMU start empty: the states that rest on them are zero (R212, R222). -/
def vibZero (i : Nat) (m : Mach) : Mach :=
  forEach (List.finRange 16) (fun (p : Fin 16) t =>
    if t.g (R.FUS_P_VIB_IMU p) = i then t.onFus fun u => { u with vib := vput u.vib p ({}, {}) } else t) m

/-- The offset of a port's axis: MD where `md`, else CD (R222). -/
def vibAt (m : Mach) (p : Fin 16) (md : Bool) (tValid graceFrom : Int) : Option (Int × Int × Bool) :=
  let v := m.fus.vib.get p
  if m.on (R.FUS_P_VIB_EN p) && bitN (m.g (R.FUS_P_VIB_AX_EN p)) md.toNat then
    (if md then v.1 else v.2).offset tValid (graceFrom + 12000) (m.g (R.FUS_P_VBR p))
  else none

end Mach

end Sys2Proof.Machine
end

