-- ==== Sys2Proof/Machine/FusionOps.lean ====
section
/-! DEFINITION. Fusion: measurements, prediction, gating, the assignment solver, updates (R214 to R238). -/

namespace Sys2Proof.Machine

/-! ## Homographies (R217) -/

/-- Entry i of a homography, in the order h00 to h22. -/
def Hom.at_ (h : Hom) (i : Nat) : Int := (h.h[i]?).getD 0

/-- The denominator of the map. -/
def Hom.dn (h : Hom) (x y : Int) : Int := h.at_ 6 * x + h.at_ 7 * y + h.at_ 8

/-- F_CD and F_MD of a point in Q12.4 pixels; none without a frame position. -/
def Hom.map (h : Hom) (x y : Int) : Option (Int × Int) :=
  let dn := h.dn x y
  if 0 < dn then
    some (rnd (h.at_ 0 * x + h.at_ 1 * y + h.at_ 2) dn, rnd (h.at_ 3 * x + h.at_ 4 * y + h.at_ 5) dn)
  else none

/-- The smallest and largest of a list of integers. -/
def rangeOf : List Int → Option (Int × Int)
  | [] => none
  | v :: r => some (r.foldl min v, r.foldl max v)

/-- The extent of a curd's four corners: F_CD and F_MD ranges (R221, R243); none where a corner has no frame position. -/
def Hom.box (h : Hom) (c : Curd) : Option ((Int × Int) × (Int × Int)) :=
  let x0 : Int := 16 * c.xMin
  let x1 : Int := 16 * (c.xMax + 1)
  let y0 : Int := 16 * c.yMin
  let y1 : Int := 16 * (c.yMax + 1)
  let l := [h.map x0 y0, h.map x1 y0, h.map x0 y1, h.map x1 y1]
  if l.any (·.isNone) then none
  else
    match rangeOf (l.filterMap fun v => v.map Prod.fst), rangeOf (l.filterMap fun v => v.map Prod.snd) with
    | some a, some b => some (a, b)
    | _, _ => none

/-- LEN_MD and WID_CD of a curd (R221). -/
def Hom.size (h : Hom) (c : Curd) : Option (Nat × Nat) :=
  (h.box c).map fun b => ((b.2.2 - b.2.1).toNat, (b.1.2 - b.1.1).toNat)

/-! ## Measurements (R220, R223, R224) -/

/-- A measurement of a tick. -/
structure Meas where
  fn : Fin 8
  ext : Bool
  /-- the curd's port and INDEX, or 0 and the place among the tick's external measurements -/
  port : Nat
  idx : Nat
  md : Int
  cd : Int
  /-- V_m (R230) -/
  var : Nat
  /-- class and the weight it adds to the histogram (R231, R237) -/
  cls : Option (Nat × Nat)
  /-- its earliest source stamp (R225) -/
  stamp : Int
  size : Option (Nat × Nat)
  coarse : Bool := false
  stale : Bool := false
  /-- its port was in warm-up (R254) -/
  warming : Bool := false
  edge : Bool := false
  replayed : Bool := false
  /-- its classification was abandoned (R232) -/
  lost : Bool := false
  /-- the overflow curd: it takes no part in gating (R232, R243) -/
  excess : Bool := false
  /-- it may start a comet (R224, R247) -/
  spawn : Bool := true
  beyond : Bool := false
  /-- the comet it names, or 0 (R224) -/
  cid : Nat := 0
deriving DecidableEq, Repr

/-- What measuring a curd gives: no web position, no frame position, or a measurement. -/
inductive MeasRes where
  | noMd | noCal | ok (x : Meas)
deriving DecidableEq, Repr

/-- TOP and 64 + MARGIN of a curd's result (R124, R237). -/
def curdClass (c : Curd) : Option (Nat × Nat) :=
  c.score.map fun s => (topScore s.1 none, 64 + marginOf s.1)

namespace Mach

/-- E of the interpolation point a of MD_enc at t (R204, R225). -/
def mdStamp (m : Mach) (n : Fin 4) (t : Int) : Int :=
  let e := m.enc.get n
  match e.caps.find? fun c => match c.mark with | some (a, b) => decide (a < t) && decide (t < b) | none => false with
  | some c => c.e
  | none => ((((pointsOf e.caps.reverse 0 none []).filter fun x => decide (x.e ≤ t)).getLast?).map (·.e)).getD t

/-- A curd beyond an enabled boundary, on the neighbour's side (R247). -/
def beyondBound (m : Mach) (cd : Int) : Bool :=
  (m.on R.FUS_CTRL_HO_L && decide (cd < m.gi R.FUS_BOUND_L)) || (m.on R.FUS_CTRL_HO_R && decide (m.gi R.FUS_BOUND_R < cd))

/-- The measurement of a curd of tick n with T_valid `tv` (R220, R221, R225); `mdv` is MD_enc(T_valid). -/
def measure (n : Nat) (tv : Int) (mdv : Int) (p : Fin 16) (c : Curd) (m : Mach) : MeasRes × Mach :=
  let hom := (m.fus.homs.get p).at_ n
  let flow := decide (0 < c.flowN)
  let tm := c.start + c.tMean
  let (em, m1) : Option Int × Mach := if flow then (some mdv, m) else
    match m.mdAsk m.webEnc tm with
    | (.ok v, t) => (some v, t)
    | (_, t) => (none, t)
  let dt := tv - tm
  let x : Int := if flow then c.cx + rnd (c.vx * dt) 16000000 else c.cx
  let y : Int := if flow then c.cy + rnd (c.vy * dt) 16000000 else c.cy
  match hom.map x y with
  | none => (.noCal, m1)
  | some (fcd, fmd) =>
    match em with
    | none => (.noMd, m1)
    | some e =>
      let g := ((m1.acct? n).map (·.graceFrom)).getD tv
      let bm := m1.vibAt p true tv g
      let bc := m1.vibAt p false tv g
      let off := fun (b : Option (Int × Int × Bool)) => (b.map (·.1)).getD 0
      let stamps := [some (c.start + c.tFirst), some (m1.mdStamp m1.webEnc (if flow then tv else tm)), bm.map (·.2.1), bc.map (·.2.1)].filterMap id
      let cd := fcd + off bc
      (.ok { fn := m1.own.port.get p, ext := false, port := p.1, idx := c.index, md := e - fmd - off bm, cd := cd,
             var := m1.g (R.FUS_P_NOISE p), cls := curdClass c, stamp := (stamps.min?).getD tv, size := hom.size c,
             coarse := c.coarse || c.unchecked, stale := [bm, bc].any fun b => (b.map (·.2.2)).getD false,
             edge := (c.score.map (·.2.1)).getD false, replayed := (c.score.map (·.2.2)).getD false, lost := c.abandoned,
             warming := ((m1.acct? n).map fun a => a.warm p.1).getD false,
             beyond := m1.beyondBound cd }, m1)

/-- The curds of a tick in (port, INDEX) order. -/
def curdsOfTick (m : Mach) (n : Nat) : List (Fin 16 × Curd) :=
  (List.finRange 16).flatMap fun (p : Fin 16) => ((m.fe.get p).curds.filter (·.tn == n)).map fun c => (p, c)

/-- The measurements of a tick's curds; those without a position are counted (R216, R219, R243). -/
def measureAll (n : Nat) (tv : Int) (mdv : Option Int) (m : Mach) : List Meas × Mach :=
  (m.curdsOfTick n).foldl (fun (s : List Meas × Mach) x =>
    let t := s.2.inc R.FUS_CURDS_IN
    match mdv with
    | none => (s.1, (t.inc R.FUS_NO_MD).addBad n x.1 5)
    | some v =>
      match t.measure n tv v x.1 x.2 with
      | (.ok y, u) => (s.1 ++ [{ y with excess := x.2.overflow }], u)
      | (.noCal, u) => (s.1, u.inc R.FUS_NO_CAL)
      | (.noMd, u) => (s.1, (u.inc R.FUS_NO_MD).addBad n x.1 5)) ([], m)

/-- A curd without flow waits for MD at its mean time (R204, R220). -/
def curdMdWaits (m : Mach) (n : Nat) : Bool :=
  (m.curdsOfTick n).any fun x => x.2.flowN == 0 && m.mdAt m.webEnc (x.2.start + x.2.tMean) == .notYet

/-- The external measurements that join the fusion of the tick that ends at `tv` (R223). -/
def extJoin (tv : Int) (x : ExtWait) : Bool := match x.late with | some t => decide (t < tv) | none => decide (x.ts < tv)

/-- The measurement of an EXT_MEAS, the i-th of its tick. -/
def extMeas (i : Nat) (x : ExtWait) : Meas :=
  { fn := x.fn, ext := true, port := 0, idx := i, md := x.md, cd := x.cd, var := x.var, cls := x.cls.map fun k => (k, 128), stamp := x.ts,
    size := none, spawn := x.spawn, cid := x.cid }

end Mach

/-! ## Prediction and gating (R229 to R231) -/

/-- A prediction, before its variances saturate. -/
structure Pred where
  md : Int
  cd : Int
  pMd : Int
  pCd : Int
  pVmd : Int
  pVcd : Int
deriving DecidableEq, Repr

/-- The prediction of R229; `per` is P · 1,000. -/
def Comet.predict (tv per : Int) (qp qv : Nat) (c : Comet) : Pred :=
  let dt := tv - c.tLast
  let k := dt.fdiv per
  let pos := fun (p v : Int) => p + rnd (v * (dt * dt)) (256 * 1000000000000) + qp * k
  { md := c.md + rnd (c.vmd * dt) (65536 * 1000000), cd := c.cd + rnd (c.vcd * dt) (65536 * 1000000),
    pMd := pos c.pMd c.pVmd, pCd := pos c.pCd c.pVcd, pVmd := c.pVmd + qv * k, pVcd := c.pVcd + qv * k }

/-- Saturate to 32 bits, unsigned. -/
def satU32 (v : Int) : Nat := (clampI v 0 (2 ^ 32 - 1)).toNat

/-- Saturate to 32 bits, signed. -/
def satS32 (v : Int) : Int := clampI v (-(2 ^ 31)) (2 ^ 31 - 1)

/-- A comet at its prediction. -/
def Comet.moved (tv : Int) (q : Pred) (age : Nat) (c : Comet) : Comet :=
  { c with md := q.md, cd := q.cd, pMd := satU32 q.pMd, pCd := satU32 q.pCd, pVmd := satU32 q.pVmd, pVcd := satU32 q.pVcd, tLast := tv,
           age := age, measAge := satN (c.measAge + ((tv - c.tLast).fdiv 1000).toNat) (2 ^ 32 - 1) }

/-- A kinematic update (R232). -/
def Comet.kin (tv : Int) (q : Pred) (age : Nat) (stale : Bool) (c : Comet) : Comet :=
  { c.moved tv q age with kinematic := true, vibStale := stale, coarse := false, warming := false }

/-- d² of R230 in Q8.8. -/
def dist2 (x : Meas) (q : Pred) : Int :=
  rnd (256 * ((x.md - q.md) * (x.md - q.md))) (q.pMd + x.var) + rnd (256 * ((x.cd - q.cd) * (x.cd - q.cd))) (q.pCd + x.var)

namespace Mach

/-- Penalty entry k of a function (R231). The words from 48 on lie on the next function's page, and those from 48 to 58 at offsets that
its registers claim (log entry 9). -/
def penalty (m : Mach) (f : Fin 8) (k : Nat) : Nat :=
  let w := k / 4
  let a := if w < 48 ∨ 59 ≤ w ∨ f = 7 then R.FUS_F_PEN_A f w else 0x2002000 + f * 0x100 + 4 * w
  (m.rd a).toNat / 2 ^ (8 * (k % 4)) % 256

/-- The prediction of a track. -/
def predOf (m : Mach) (tv per : Int) (t : Track) : Pred := t.c.predict tv per (m.g (R.FUS_F_QP t.fn)) (m.g (R.FUS_F_QV t.fn))

/-- The cost of a pair, where it is gated (R230, R231). -/
def gate (m : Mach) (x : Meas) (t : Track) (q : Pred) : Option Nat :=
  if x.fn ≠ t.fn ∨ (x.cid ≠ 0 ∧ x.cid ≠ t.c.cid) then none
  else
    let d2 := dist2 x q
    let pen := if t.c.clsValid then (match x.cls with | some (k, _) => m.penalty t.fn (16 * t.c.cls + k) | none => 0) else 0
    if d2 ≤ m.g (R.FUS_F_GATE_GATE t.fn) ∧ pen ≠ 0xFF then some (min 65535 (d2 + 16 * (pen : Int))).toNat else none

end Mach

/-! ## Blocks (R233) -/

/-- A gated pair: measurement, comet slot, cost. -/
structure GPair where
  mi : Nat
  slot : Nat
  cost : Nat
deriving DecidableEq, Repr

/-- The measurements and comets that a set of measurements reaches. -/
def reach (ps : List GPair) : Nat → List Nat → List Nat × List Nat
  | 0, ms => (ms, ((ps.filter fun p => ms.contains p.mi).map (·.slot)).eraseDups)
  | k + 1, ms =>
    let cs := ((ps.filter fun p => ms.contains p.mi).map (·.slot)).eraseDups
    let ms' := ((ps.filter fun p => cs.contains p.slot).map (·.mi)).eraseDups
    if ms'.length ≤ ms.length then (ms, cs) else reach ps k ms'

/-- The components, in order of their lowest measurement. -/
def blocksIn : Nat → List GPair → List (List GPair)
  | 0, _ => []
  | k + 1, ps =>
    match (ps.map (·.mi)).min? with
    | none => []
    | some i =>
      let (ms, _) := reach ps ps.length [i]
      (ps.filter fun p => ms.contains p.mi) :: blocksIn k (ps.filter fun p => !ms.contains p.mi)

/-- The pair that a cut removes: highest cost, then higher slot, then higher measurement. -/
def worstPair : List GPair → Option GPair
  | [] => none
  | p :: r => some (r.foldl (fun b x =>
      if b.cost < x.cost ∨ (b.cost = x.cost ∧ (b.slot < x.slot ∨ (b.slot = x.slot ∧ b.mi < x.mi))) then x else b) p)

/-- A component has more than 64 measurements or comets. -/
def tooBig (b : List GPair) : Bool :=
  decide (64 < ((b.map (·.mi)).eraseDups).length) || decide (64 < ((b.map (·.slot)).eraseDups).length)

/-- Cut until every block fits: the blocks, and how many pairs were removed. -/
def cutBlocks : Nat → List GPair → List (List GPair) × Nat
  | 0, ps => (blocksIn ps.length ps, 0)
  | k + 1, ps =>
    let bs := blocksIn ps.length ps
    match bs.find? tooBig with
    | none => (bs, 0)
    | some b =>
      match worstPair b with
      | none => (bs, 0)
      | some w => let (r, c) := cutBlocks k (ps.filter (· != w)); (r, c + 1)

/-! ## The auction (R234, R235) -/

/-- The state of an auction: prices and owners by column, and ε. -/
structure Auction where
  price : List Int
  owner : List (Option Nat)
  eps : Int
deriving DecidableEq, Repr

/-- The best column of a list of (column, value), lowest column on a tie. -/
def bestCol : List (Nat × Int) → Option (Nat × Int)
  | [] => none
  | x :: r => some (r.foldl (fun b y => if b.2 < y.2 then y else b) x)

/-- The bid of row i. -/
def Auction.bid (n : Nat) (a : Nat → Nat → Option Int) (i : Nat) (s : Auction) : Auction :=
  let vals := (List.range n).filterMap fun j => (a i j).map fun v => (j, v - (s.price[j]?).getD 0)
  match bestCol vals with
  | none => s
  | some (j, v1) =>
    let v2 := match bestCol (vals.filter fun x => x.1 != j) with | some x => x.2 | none => v1 - 2 * 65535 * ((n : Int) + 1)
    { s with price := s.price.modify j fun p => p + (v1 - v2 + s.eps), owner := s.owner.set j (some i) }

/-- The auction, with one bid for each unit of fuel but the last: the owners of the columns, or none at BID_MAX. -/
def Auction.run (n : Nat) (a : Nat → Nat → Option Int) : Nat → Auction → Option (List (Option Nat))
  | 0, _ => none
  | k + 1, s =>
    match (List.range n).find? fun i => !s.owner.contains (some i) with
    | some i => Auction.run n a k (s.bid n a i)
    | none =>
      if s.eps = 1 then some s.owner
      else Auction.run n a k (({ s with eps := max 1 (s.eps / 4), owner := List.replicate n none } : Auction).bid n a 0)

/-- The benefit of row i and column j of a block of measurements ms and comets cs. -/
def benefit (b : List GPair) (ms cs : List Nat) (spawn miss : Nat) (i j : Nat) : Option Int :=
  let mN := ms.length
  let n := cs.length
  let k : Int := (mN + n + 1 : Nat)
  if i < mN then
    if j < n then
      (b.find? fun p => some p.mi == ms[i]? && some p.slot == cs[j]?).map fun p => -(k * p.cost)
    else if j = n + i then some (-(k * spawn)) else none
  else if j = i - mN then some (-(k * miss))
  else if n ≤ j then some 0
  else none

/-- Insert a number after those not greater; a list in ascending order. -/
def insNat (x : Nat) : List Nat → List Nat
  | [] => [x]
  | y :: r => if x < y then x :: y :: r else y :: insNat x r

def sortNat (l : List Nat) : List Nat := l.foldl (fun acc x => insNat x acc) []

/-- A block solved: every measurement with its comet slot or none; none: unsolved. -/
def solveBlock (spawn miss bidMax : Nat) (b : List GPair) : Option (List (Nat × Option Nat)) :=
  let ms := sortNat ((b.map (·.mi)).eraseDups)
  let cs := sortNat ((b.map (·.slot)).eraseDups)
  let n := ms.length + cs.length
  let k : Int := (n + 1 : Nat)
  let s0 : Auction := { price := List.replicate n 0, owner := List.replicate n none, eps := max 1 (65535 * k / 64) }
  (Auction.run n (benefit b ms cs spawn miss) ((if bidMax = 0 then 65536 else bidMax) + 1) s0).map fun own =>
    ms.mapIdx fun i x => (x, match own.findIdx? (· == some i) with | some j => if j < cs.length then cs[j]? else none | none => none)

/-! ## Updates (R228, R236 to R238) -/

/-- One tail entry (R228). -/
def Comet.tailed (tn : Nat) (c : Comet) : Comet :=
  { c with tail := c.tail.set c.tailHead (tn % 65536, clampI (rnd (c.cd - c.cd0) 16) (-32768) 32767, satS32 (c.md - c.md0)),
           tailHead := (c.tailHead + 1) % 16 }

/-- A vote (R237). -/
def Comet.vote (hsh classMin : Nat) (v : Nat × Nat) (c : Comet) : Comet :=
  let h := (c.hist.map fun x => x - x / 2 ^ hsh).modify v.1 fun x => satN (x + v.2) 65535
  let votes := satN (c.votes + 1) 65535
  { c with hist := h, votes := votes, cls := topHist h none, clsValid := decide (classMin ≤ votes) }

/-- AGE (R225). -/
def ageTo (tv stamp : Int) : Nat := satN (tv - stamp).toNat (2 ^ 32 - 1)

namespace Mach

/-- The vote of a measurement. -/
def voted (m : Mach) (f : Fin 8) (x : Meas) (c : Comet) : Comet :=
  match x.cls with
  | some v => c.vote (m.g (R.FUS_F_FILT_HSH f)) (m.g (R.FUS_F_FILT_CLASS_MIN f)) v
  | none => c

/-- A measured update (R236). The size is set at the first one after the spawn, whose hit is HITS = 1, and where no size came before. -/
def updated (m : Mach) (tn : Nat) (tv : Int) (f : Fin 8) (x : Meas) (q : Pred) (c : Comet) : Comet :=
  let beta : Int := m.g (R.FUS_F_FILT_BETA f)
  let dT := (tv - c.tLast) + 1000 * (c.measAge : Int)
  let pos := fun (p pv v : Int) => p + rnd (pv * (v - p)) (pv + x.var)
  let var := fun (pv : Int) => satU32 (max 1 (rnd (pv * x.var) (pv + x.var)))
  let vel := fun (old nu : Int) => satS32 (old + rnd (beta * nu * 65536 * 1000000) (256 * dT))
  let pvel := fun (pv : Int) => satU32 (max (m.g (R.FUS_F_PVMIN f) : Int) (pv - rnd (beta * pv) 256))
  let (len, wid) := match x.size with
    | none => (c.lenMd, c.widCd)
    | some (l, w) =>
      if c.hits ≤ 1 ∨ (c.lenMd = 0 ∧ c.widCd = 0) then (satU32 l, satU32 w)
      else (satU32 ((c.lenMd : Int) + rnd ((l : Int) - c.lenMd) 4), satU32 ((c.widCd : Int) + rnd ((w : Int) - c.widCd) 4))
  let c1 : Comet := { c with
    md := pos q.md q.pMd x.md, cd := pos q.cd q.pCd x.cd, pMd := var q.pMd, pCd := var q.pCd,
    vmd := vel c.vmd (x.md - q.md), vcd := vel c.vcd (x.cd - q.cd), pVmd := pvel q.pVmd, pVcd := pvel q.pVcd, lenMd := len, widCd := wid,
    tLast := tv, age := ageTo tv x.stamp, port := if x.ext then c.port else x.port, hits := satN (c.hits + 1) 255, misses := 0, coast := 0,
    measAge := 0, kinematic := false, vibStale := x.stale, coarse := x.coarse, warming := x.warming }
  (m.voted f x c1).tailed tn

/-- A spawned comet (R238). -/
def spawned (m : Mach) (tn : Nat) (tv : Int) (f : Fin 8) (x : Meas) (serial : Nat) : Comet :=
  let (len, wid) := x.size.getD (0, 0)
  let v := m.g (R.FUS_F_PVINIT f)
  let c : Comet :=
    { pkg := m.g R.FUS_CTRL_PKG_ID, serial := serial, state := 1, port := x.port, hits := 1, tLast := tv, md := x.md, md0 := x.md, cd := x.cd,
      cd0 := x.cd, lenMd := satU32 len, widCd := satU32 wid, pMd := x.var, pCd := x.var, pVmd := v, pVcd := v, tSpawn := tv,
      age := ageTo tv x.stamp, vibStale := x.stale, coarse := x.coarse, warming := x.warming }
  (m.voted f x c).tailed tn

/-- The lowest free slot of a function's partition (R226). -/
def freeComet (m : Mach) (f : Fin 8) : Option Nat :=
  let (first, count) := m.own.part.get f
  (List.range' first count).find? fun k => (m.fus.store.find k).isNone

def setTrack (k : Nat) (t : Track) (m : Mach) : Mach := m.onFus fun u => { u with store := Tab.put u.store k t }
def dropTrack (k : Nat) (m : Mach) : Mach := m.onFus fun u => { u with store := Tab.erase u.store k }

/-- The next serial: it wraps to 1 (R227). -/
def nextSerial (m : Mach) : Nat := if 2 ^ 24 - 1 ≤ m.fus.serial then 1 else m.fus.serial + 1

/-- The age and staleness of an update by prediction alone: the encoder and the vibration of the comet's port (R225). -/
def kinAge (m : Mach) (tv : Int) (mdOk : Bool) (port : Nat) : Option Nat × Bool :=
  let p := Fin.ofNat 16 port
  let bm := m.vibAt p true tv tv
  let bc := m.vibAt p false tv tv
  let stamps := [if mdOk then some (m.mdStamp m.webEnc tv) else none, bm.map (·.2.1), bc.map (·.2.1)].filterMap id
  ((stamps.min?).map (ageTo tv), [bm, bc].any fun b => (b.map (·.2.2)).getD false)

/-- The same, with a free value where no contribution gives an age. -/
def kinAge' (tv : Int) (mdOk : Bool) (port : Nat) (m : Mach) : (Nat × Bool) × Mach :=
  match m.kinAge tv mdOk port with
  | (some a, s) => ((a, s), m)
  | (none, s) => let (v, t) := m.drawNat; ((v % 2 ^ 32, s), t)

/-- A port is covered in a tick (R57). -/
def covered (m : Mach) (a : TickAcct) (p : Fin 16) : Bool :=
  a.works && a.ready.contains p.1 && !(a.bad.any fun b => b.1 == p.1) && !m.dieLost (dieOfPort p)

end Mach

end Sys2Proof.Machine
end

