-- ==== Sys2Proof/Machine/FuseTick.lean ====
section
/-! DEFINITION. The fusion of one tick: handoffs taken, comets that leave, assignment, fates, spawns, records (R232 to R248). -/

namespace Sys2Proof.Machine

/-- A record that fusion writes, with the CID that orders it (R257). -/
structure FRec where
  cid : Nat
  fn : Fin 8
  body : Body
  flags : Nat
deriving DecidableEq, Repr

/-- Insert a record after those whose CID is not greater. -/
def insRec (x : FRec) : List FRec → List FRec
  | [] => [x]
  | y :: r => if x.cid < y.cid then x :: y :: r else y :: insRec x r

/-- The flags of a record's header (R254). -/
def flagBits (replayed edge stale coarse warming : Bool) : Nat :=
  b2n replayed 6 + b2n edge 5 + b2n stale 4 + b2n coarse 3 + b2n warming 2

def Leave.code : Leave → Nat
  | .exit => 0 | .coast => 1 | .side => 2 | .gap => 3

/-- What happens to a comet that stays (R232, R239, R242). -/
inductive Fate where
  /-- assigned the i-th measurement -/
  | upd (i : Nat)
  /-- kinematic; `r38` for an abandoned classification or an unsolved block -/
  | kin (r38 : Bool)
  | miss
  | stay
deriving DecidableEq, Repr

/-- What the fusion of a tick has gathered. -/
structure FuseOut where
  recs : List FRec := []
  /-- functions and CIDs of handoffs given up (R246) -/
  gaps : List (Fin 8 × Nat) := []
  /-- the comet that a measurement updated or started -/
  cids : List (Nat × Nat × Bool) := []
deriving DecidableEq, Repr

/-- The tick being fused. -/
structure FuseCtx where
  a : TickAcct
  tv : Int
  md : Option Int
  late : Bool
  /-- R204 answers INVALID for T_valid (R216) -/
  noMd : Bool := false

namespace FuseCtx
def tn (x : FuseCtx) : Nat := x.a.tn
def per (x : FuseCtx) : Int := x.a.period * 1000
end FuseCtx

namespace Mach

/-! ## Handoffs taken (R245, R405, R408) -/

/-- A comet of the receiver gates with a received comet, both at their predictions (R245, R230). -/
def gatesComet (m : Mach) (f : Fin 8) (c : Comet) (q : Pred) (t : Track) (r : Pred) : Bool :=
  let d2 := rnd (256 * ((q.md - r.md) * (q.md - r.md))) (q.pMd + r.pMd) + rnd (256 * ((q.cd - r.cd) * (q.cd - r.cd))) (q.pCd + r.pCd)
  let pen := if t.c.clsValid ∧ c.clsValid then m.penalty f (16 * t.c.cls + c.cls) else 0
  t.fn == f && decide (d2 ≤ m.g (R.FUS_F_GATE_GATE f)) && pen != 0xFF

/-- Reply to an offer and keep the reply (R404, R405). -/
def replyOffer (l : Fin 4) (f : Nat) (tn cid status own : Nat) (m : Mach) : Mach :=
  let m1 := if status ≤ 1 then m.onLink l fun x => { x with replied := ((cid, status, own) :: x.replied).take 256 } else m
  m1.sendMsg l mtReply 1 f 0 tn (bytesOf 4 cid ++ [BitVec.ofNat 8 status, 0, 0, 0] ++ bytesOf 4 own)

/-- An HO message two or more ticks old is counted, and named once per tick (R408). -/
def noteLate (l : Fin 4) (x : LinkMsg) (r cid : Nat) (m : Mach) : Mach :=
  if x.tn + 2 ≤ r then
    let t := m.inc (R.LNK_HO_LATE l)
    if (t.link.get l).lateTick = some r then t
    else (t.onLink l fun k => { k with lateTick := some r }).health H.linkLate (.link l) [cid]
  else m

/-- A reply ends its offer (R245, R406): the comet is freed at the end of the fusion tick, or a deferred retirement takes
place in it. -/
def takeReply (l : Fin 4) (x : LinkMsg) (r : Nat) (m : Mach) : Mach :=
  let cid := leN x.bytes 0x10 4
  let m1 := (m.freeMsg l x).noteLate l x r cid
  let ack := decide (byteAt x.bytes 0x14 ≤ 1)
  m1.onFus fun u => { u with store := u.store.map fun e =>
    match e.2.offer with
    | some (k, n, true) =>
      if k = l.1 ∧ e.2.c.cid = cid then (e.1, { e.2 with offer := some (k, n, false), acked := ack }) else e
    | _ => e }

/-- The replies that join the fusion of tick n are taken (R408). -/
def takeReplies (n : Nat) (m : Mach) : Mach :=
  forEach (List.finRange 4) (fun (l : Fin 4) t =>
    let mine := fun (x : LinkMsg) => x.mtype == mtReply && decide (x.doneTn ≤ n)
    let l0 := (t.link.get l).rxMsgs.filter mine
    forEach l0 (fun x u => u.takeReply l x n)
      (t.onLink l fun k => { k with rxMsgs := k.rxMsgs.filter fun x => !mine x })) m

/-- An offer joins the fusion of tick r (R245). -/
def takeOffer (l : Fin 4) (x : LinkMsg) (r : Nat) (tv per : Int) (m : Mach) : Mach :=
  let c := { Comet.of (x.bytes.drop 0x20) with remote := true, hoPend := false }
  let cid := c.cid
  let m1 := (m.freeMsg l x).inc (R.LNK_HO_OFFER_RX l)
  let m2 := m1.noteLate l x r cid
  if m2.hoRefuse l then m2.replyOffer l 0 r cid 4 0
  else
    match m2.mapFunc l x.func with
    | none => m2.replyOffer l 0 r cid 3 0
    | some f =>
      match (m2.link.get l).replied.find? (·.1 == cid) with
      | some (_, st, own) => (m2.inc R.FUS_HO_DUP).replyOffer l f r cid st own
      | none =>
        if m2.fus.store.any fun e => e.2.fn == f && e.2.c.cid == cid && e.2.c.remote then (m2.inc R.FUS_HO_DUP).replyOffer l f r cid 0 0
        else
          let q := c.predict tv per (m2.g (R.FUS_F_QP f)) (m2.g (R.FUS_F_QV f))
          let near := m2.fus.store.filter fun e => m2.gatesComet f c q e.2 (m2.predOf tv per e.2)
          let m3 := forEach (near.filter fun e => e.2.c.state == 1) (fun e t => t.dropTrack e.1) m2
          match near.find? fun e => e.2.c.state != 1 with
          | some e => m3.replyOffer l f r cid 1 e.2.c.cid
          | none =>
            match m3.freeComet f with
            | some k => (m3.setTrack k { fn := f, c := c }).replyOffer l f r cid 0 0
            | none => (m3.inc R.FUS_HO_NAK).replyOffer l f r cid 2 0

/-- The offers that join the fusion of tick n are taken (R408). -/
def takeOffers (n : Nat) (tv per : Int) (m : Mach) : Mach :=
  forEach (List.finRange 4) (fun (l : Fin 4) t =>
    let mine := fun (x : LinkMsg) => x.mtype == mtOffer && decide (x.doneTn ≤ n)
    let l0 := (t.link.get l).rxMsgs.filter mine
    forEach l0 (fun x u => u.takeOffer l x n tv per)
      (t.onLink l fun k => { k with rxMsgs := k.rxMsgs.filter fun x => !mine x })) m

/-! ## Comets that leave (R239, R246, R406) -/

/-- Whether a track leaves before assignment, or defers it while an offer is outstanding. -/
def leaveOf (m : Mach) (x : FuseCtx) (t : Track) (q : Pred) : Option Leave × Track :=
  let live := t.c.state != 1
  let out := (t.offer.map (·.2.2)).getD false
  let refused := t.c.hoPend && (match t.offer with | some (l, _, _) => m.hoRefuse (Fin.ofNat 4 l) | none => false)
  let low := decide (q.cd < m.gi R.FUS_CD_MIN)
  let high := decide (m.gi R.FUS_CD_MAX < q.cd)
  let ho := live && ((low && m.on R.FUS_CTRL_HO_L && decide (q.cd < m.gi R.FUS_BOUND_L)) ||
    (high && m.on R.FUS_CTRL_HO_R && decide (m.gi R.FUS_BOUND_R < q.cd)))
  let exits := match x.md with | some e => decide (m.gi (R.FUS_F_EXIT t.fn) < e - q.md) | none => false
  let now : Option Leave := if exits then some .exit else if low || high then (if ho then some .gap else some .side) else none
  if t.acked then (none, t)
  else if live && refused then (some .gap, t)
  else if out then (none, { t with deferred := t.deferred.or now })
  else (t.deferred.or now, t)

/-- A comet leaves: its COMET_FINAL if it was ever confirmed, and a GAP for a handoff given up (R239, R240, R246). -/
def retire (x : FuseCtx) (k : Nat) (t : Track) (q : Pred) (why : Leave) (s : FuseOut × Mach) : FuseOut × Mach :=
  let ((age, stale), m1) := s.2.kinAge' x.tv x.md.isSome t.c.port
  let c := { t.c.moved x.tv q age with vibStale := stale }
  let ticks := satN ((x.tv - c.tSpawn).fdiv x.per).toNat (2 ^ 32 - 1)
  let r : FRec := { cid := c.cid, fn := t.fn, body := .comet true c why.code false ticks, flags := flagBits false false stale c.coarse c.warming }
  let o := if t.c.state = 1 then s.1 else
    { s.1 with recs := s.1.recs ++ [r], gaps := if why = .gap then s.1.gaps ++ [(t.fn, c.cid)] else s.1.gaps }
  (o, (m1.dropTrack k).inc R.FUS_RETIRED)

/-! ## Sighting (R242, R243) -/

/-- The frame rectangles of the tick's overflow curds (R243): F_CD and F_MD ranges. -/
def overflowBoxes (m : Mach) (n : Nat) : List ((Int × Int) × (Int × Int)) :=
  (m.curdsOfTick n).filterMap fun x => if x.2.overflow then ((m.fus.homs.get x.1).at_ n).box x.2 else none

/-- A predicted comet is sighted. -/
def sighted (m : Mach) (x : FuseCtx) (boxes : List ((Int × Int) × (Int × Int))) (f : Fin 8) (q : Pred) : Bool :=
  match x.md with
  | none => false
  | some e =>
    let d := e - q.md
    ((List.finRange 16).any fun (p : Fin 16) =>
      m.own.port.get p == f && m.covered x.a p && decide (m.gi (R.FUS_P_FIELD p 0) ≤ q.cd) && decide (q.cd ≤ m.gi (R.FUS_P_FIELD p 1)) &&
        decide (m.gi (R.FUS_P_FIELD p 2) ≤ d) && decide (d ≤ m.gi (R.FUS_P_FIELD p 3))) &&
    !boxes.any fun b => decide (b.1.1 ≤ q.cd) && decide (q.cd ≤ b.1.2) && decide (b.2.1 ≤ d) && decide (d ≤ b.2.2)

/-! ## Fates (R232, R239) -/

/-- The COMET_UPDATE record of a comet. -/
def updRec (f : Fin 8) (c : Comet) (confirms edge replayed : Bool) : FRec :=
  { cid := c.cid, fn := f, body := .comet false c 0 confirms 0, flags := flagBits replayed edge c.vibStale c.coarse c.warming }

/-- One comet's fate takes effect. -/
def applyFate (x : FuseCtx) (ms : List Meas) (k : Nat) (t : Track) (q : Pred) (fate : Fate) (s : FuseOut × Mach) : FuseOut × Mach :=
  let m := s.2
  match fate with
  | .stay => (s.1, m.setTrack k t)
  | .upd i =>
    match ms[i]? with
    | none => (s.1, m.setTrack k t)
    | some y =>
      let c := m.updated x.tn x.tv t.fn y q t.c
      let confirms := t.c.state == 1 && decide (m.g (R.FUS_F_LIFE_CONFIRM_N t.fn) ≤ c.hits)
      let c1 := { c with state := if t.c.state = 1 ∧ !confirms then 1 else 2 }
      let m1 := (m.setTrack k { t with c := c1 }).inc R.FUS_ASSIGNED
      let m2 := if y.stale then m1.inc R.FUS_VIB_STALE else m1
      let m3 := if confirms then (m2.inc R.FUS_CONFIRMED).onFus fun u => { u with confirms := u.confirms ++ [(x.tn, t.fn, c1.cls, c1.cd)] } else m2
      let o := { s.1 with cids := s.1.cids ++ [(i, c1.cid, true)] }
      (if c1.state = 2 then { o with recs := o.recs ++ [updRec t.fn c1 confirms y.edge y.replayed] } else o, m3)
  | .kin r38 =>
    let ((age, stale), m0) := m.kinAge' x.tv x.md.isSome t.c.port
    let c := t.c.kin x.tv q age stale
    let m1 := (m0.setTrack k { t with c := c }).inc R.FUS_KINEMATIC
    let m2 := if stale then m1.inc R.FUS_VIB_STALE else m1
    let m3 := if r38 then m2.onAcct x.tn fun a => { a with kinematic := a.kinematic + 1 } else m2
    (if c.state = 1 then s.1 else { s.1 with recs := s.1.recs ++ [updRec t.fn c false false false] }, m3)
  | .miss =>
    let misses := satN (t.c.misses + 1) 65535
    if t.c.state = 1 then
      if m.g (R.FUS_F_LIFE_TENT_MISS t.fn) < misses then (s.1, (m.dropTrack k).inc R.FUS_TENT_DROP)
      else (s.1, m.setTrack k { t with c := { t.c with misses := misses } })
    else if t.c.state = 2 then (s.1, m.setTrack k { t with c := { t.c with state := 3, coast := 1, misses := misses } })
    else if t.c.coast + 1 ≤ m.g (R.FUS_F_LIFE_COAST_MAX t.fn) then
      (s.1, m.setTrack k { t with c := { t.c with coast := t.c.coast + 1, misses := misses } })
    else if (t.offer.map (·.2.2)).getD false ∨ t.acked then
      (s.1, m.setTrack k { t with c := { t.c with coast := satN (t.c.coast + 1) 65535, misses := misses }, deferred := t.deferred.or (some .coast) })
    else retire x k t q .coast s

/-- An unassigned measurement (R238, R247). -/
def spawn (x : FuseCtx) (i : Nat) (y : Meas) (s : FuseOut × Mach) : FuseOut × Mach :=
  let m := s.2
  if y.beyond ∧ !y.ext then (s.1, m.inc R.FUS_BEYOND)
  else if !y.spawn then s
  else
    match m.freeComet y.fn with
    | none => (s.1, let t := m.inc R.FUS_SPAWN_FULL; if y.ext then t else t.addBad x.tn y.port 6)
    | some k =>
      let n := m.nextSerial
      let c := m.spawned x.tn x.tv y.fn y n
      let m1 := ((m.onFus fun u => { u with serial := n }).setTrack k { fn := y.fn, c := c }).inc R.FUS_SPAWNED
      ({ s.1 with cids := s.1.cids ++ [(i, c.cid, false)] }, if y.stale then m1.inc R.FUS_VIB_STALE else m1)

/-! ## Assignment -/

/-- What the blocks decide: assigned pairs (measurement, slot), measurements of unsolved blocks, comets of unsolved blocks. -/
structure Solved where
  pairs : List (Nat × Nat) := []
  badM : List Nat := []
  badC : List Nat := []
deriving DecidableEq, Repr

/-- Solve the blocks in order (R233 to R235). -/
def solveBlocks (late : Bool) (ms : List Meas) : List (List GPair) → Nat → Solved × Mach → Solved × Mach
  | [], _, s => s
  | b :: r, i, s =>
    let bad : Solved := { s.1 with badM := s.1.badM ++ b.map (·.mi), badC := s.1.badC ++ b.map (·.slot) }
    let s1 : Solved × Mach :=
      if late then (bad, s.2)
      else if 128 ≤ i then (bad, s.2.inc R.FUS_BLOCK_OVF)
      else
        let f := match b with | p :: _ => (match ms[p.mi]? with | some y => y.fn | none => 0) | [] => 0
        match solveBlock (s.2.g (R.FUS_F_COST_SPAWN_COST f)) (s.2.g (R.FUS_F_COST_MISS_COST f)) (s.2.g (R.FUS_F_GATE_BID_MAX f)) b with
        | some l => ({ s.1 with pairs := s.1.pairs ++ l.filterMap fun x => x.2.map fun k => (x.1, k) }, s.2)
        | none => (bad, s.2.inc R.FUS_BID_OVF)
    solveBlocks late ms r (i + 1) s1

/-! ## Handoffs offered (R244) -/

/-- The link that a comet is offered to, by its predicted CD. -/
def offerLink (m : Mach) (cd : Int) : Option (Fin 4) :=
  let h : Int := m.g R.FUS_HO_HO_HYST
  if m.on R.FUS_CTRL_HO_L && decide (cd < m.gi R.FUS_BOUND_L - h) then some 0
  else if m.on R.FUS_CTRL_HO_R && decide (m.gi R.FUS_BOUND_R + h < cd) then some 1
  else none

/-- Send the offer of a track. -/
def sendOffer (l : Fin 4) (tn : Nat) (tv : Int) (k : Nat) (t : Track) (m : Mach) : Mach :=
  ((m.sendMsg l mtOffer 1 t.fn 0 tn (offerBody tv t.c)).setTrack k
    { t with c := { t.c with hoPend := true }, offer := some (l, tn, true) }).inc (R.LNK_HO_OFFER_TX l)

/-- The first offers of a tick. -/
def offerAll (x : FuseCtx) (preds : List (Nat × Pred)) (m : Mach) : Mach :=
  forEach preds (fun (p : Nat × Pred) t =>
    match t.fus.store.find p.1 with
    | some k =>
      if k.c.state = 1 ∨ k.c.hoPend ∨ k.acked then t
      else
        match t.offerLink p.2.cd with
        | some l => if t.hoRefuse l then t else t.sendOffer l x.tn x.tv p.1 k
        | none => t
    | none => t) m

/-! ## Calibration pairs (R248, R407) -/

/-- A measured curd as calibration sees it. -/
def localCurd (n : Nat) (c : Curd) (y : Meas) : LocalCurd :=
  { tn := n, port := y.port, index := y.idx, md := y.md, cd := y.cd, ev := c.evOff + c.evOn,
    bad := c.overflow || c.coarse || c.unchecked || c.edge }

/-- A curd may pair under entry i. -/
def pairable (m : Mach) (i : Nat) (cd : Int) (ev : Nat) (bad : Bool) : Bool :=
  !bad && decide (m.g R.FUS_CAL_EV ≤ ev) && decide (m.gi (R.FUS_OVL_CDMIN i) ≤ cd) && decide (cd ≤ m.gi (R.FUS_OVL_CDMAX i))

/-- The differences of the pairs of two lists of positions (MD, CD) within PAIR_GATE, each the other's only candidate. -/
def pairUp (gate : Int) (la lb : List (Int × Int)) : List (Int × Int) :=
  let near := fun (u v : Int × Int) => decide (((u.1 - v.1).natAbs : Int) ≤ gate) && decide (((u.2 - v.2).natAbs : Int) ≤ gate)
  la.filterMap fun u =>
    match lb.filter (near u) with
    | [v] => if (la.filter fun w => near w v).length = 1 then some (u.1 - v.1, u.2 - v.2) else none
    | _ => none

/-- The sums of entry i take pairs of differences (ΔMD, ΔCD). -/
def addPairs (i : Fin 16) (l : List (Int × Int)) (m : Mach) : Mach :=
  (m.onFus fun u => { u with sums := vmod u.sums i fun s => l.foldl (fun a d =>
    { n := a.n + 1, sCd := a.sCd + d.2, sMd := a.sMd + d.1, sCd2 := a.sCd2 + d.2 * d.2, sMd2 := a.sMd2 + d.1 * d.1 }) s }).addTo R.FUS_CAL_PAIRS l.length

/-- The local pairs of a tick. -/
def pairLocal (n : Nat) (m : Mach) : Mach :=
  forEach (List.finRange 16) (fun (i : Fin 16) t =>
    if t.on (R.FUS_OVL_CFG_VALID i) ∧ !t.on (R.FUS_OVL_CFG_LINK i) then
      let side := fun (p : Nat) => ((t.fus.mine.filter fun c => c.tn == n && c.port == p && t.pairable i c.cd c.ev c.bad)).map fun c => (c.md, c.cd)
      t.addPairs i (pairUp (t.g R.FUS_CAL_LIM_PAIR_GATE) (side (t.g (R.FUS_OVL_CFG_PORT_A i))) (side (t.g (R.FUS_OVL_CFG_PORT_B i))))
    else t) m

/-- One entry of a CURDS message (R407). -/
def curdEntry (c : Curd) (y : LocalCurd) : List Byte :=
  bytesOfI 8 y.md ++ bytesOfI 4 y.cd ++ bytesOf 4 y.ev ++ bytesOf 2 (y.port * 4096 + y.index) ++
    [BitVec.ofNat 8 (b2n c.overflow 3 + b2n c.coarse 2 + b2n c.unchecked 1 + b2n c.edge 0)] ++ List.replicate 13 0

/-- Lists of at most k elements. -/
def chunks {α : Type} (k : Nat) : Nat → List α → List (List α)
  | 0, _ => []
  | n + 1, l => if l.isEmpty then [] else l.take k :: chunks k n (l.drop k)

/-- The CURDS messages of a tick. -/
def sendCurds (n : Nat) (l : List (Curd × LocalCurd)) (m : Mach) : Mach :=
  forEach (List.finRange 4) (fun (k : Fin 4) t =>
    let want := fun (y : LocalCurd) => (List.range 16).any fun i =>
      t.on (R.FUS_OVL_CFG_VALID i) && t.on (R.FUS_OVL_CFG_LINK i) && t.g (R.FUS_OVL_CFG_LNK i) == k.1 &&
        decide (t.gi (R.FUS_OVL_CDMIN i) ≤ y.cd) && decide (y.cd ≤ t.gi (R.FUS_OVL_CDMAX i))
    let es := l.filter fun x => want x.2
    let lv := (t.link.get k).level
    if (t.link.get k).state = 2 then
      forEach (chunks (if 2 ≤ lv then 6 else 1) es.length es) (fun (g : List (Curd × LocalCurd)) u =>
        (u.sendMsg k mtCurds (if 2 ≤ lv then 2 else 1) 0 g.length n (g.flatMap fun x => curdEntry x.1 x.2)).inc (R.LNK_CURD_TX k)) t
    else t) m

/-! ## CURD records (R259) -/

/-- The CURD records of a tick. -/
def writeCurds (x : FuseCtx) (ms : List Meas) (cids : List (Nat × Nat × Bool)) (m : Mach) : Mach :=
  forEach (m.curdsOfTick x.tn) (fun (pc : Fin 16 × Curd) t =>
    let f := t.own.port.get pc.1
    if !bitN (t.g (R.JNL_F_CFG_CURD_PORTS f)) pc.1 then t
    else if t.g R.JNL_CURD_CAP ≤ t.jnl.curdRecs.get f then t.inc R.JNL_CURD_SKIP
    else
      let i := ms.findIdx? fun y => !y.ext && y.port == pc.1.1 && y.idx == pc.2.index
      let y := i.bind fun k => ms[k]?
      let got := i.bind fun k => cids.find? (·.1 == k)
      let b : Body := .curd pc.2 (y.map fun v => (v.md, v.cd)) (y.bind fun v => v.size) ((got.map (·.2.1)).getD 0) ((got.map (·.2.2)).getD false)
      let flags := flagBits ((pc.2.score.map (·.2.2)).getD false) ((pc.2.score.map (·.2.1)).getD false) ((y.map (·.stale)).getD false)
        (pc.2.coarse || pc.2.unchecked) (x.a.warm pc.1.1)
      match t.write f b flags with
      | (some _, u) => u.onJnl fun j => { j with curdRecs := vmod j.curdRecs f (· + 1) }
      | (none, u) => u) m

/-! ## The fusion of a tick -/

/-- The external measurements of the tick: those that name a comet their function does not hold are discarded (R224). -/
def takeExt (tv : Int) (m : Mach) : List ExtWait × Mach :=
  let now := m.fus.ext.filter (extJoin tv)
  let here := fun (x : ExtWait) => x.cid == 0 || m.fus.store.any fun e => e.2.fn == x.fn && e.2.c.cid == x.cid
  let m1 := m.onFus fun u => { u with ext := u.ext.filter fun x => !extJoin tv x }
  (now.filter here, forEach (now.filter fun x => !here x) (fun x t => t.done x.fn 0x60 x.ctag x.cseq St.state 0 []) m1)

/-- Leaving comets go; the others remain with their predictions. -/
def leaveAll (x : FuseCtx) (s : FuseOut × Mach) : List (Nat × Track × Pred) × FuseOut × Mach :=
  s.2.fus.store.foldl (fun (r : List (Nat × Track × Pred) × FuseOut × Mach) e =>
    let q := r.2.2.predOf x.tv x.per e.2
    if x.late then (r.1 ++ [(e.1, e.2, q)], r.2)
    else
      match r.2.2.leaveOf x e.2 q with
      | (some why, t) => (r.1, retire x e.1 t q why r.2)
      | (none, t) => (r.1 ++ [(e.1, t, q)], r.2)) ([], s)

/-- What a tick without a web position reports (R216). Which unit the HEALTH record names is not stated: the web encoder. -/
def reportNoMd (a : TickAcct) (m : Mach) : Mach :=
  let m1 := forEach a.enabled (fun p t => t.addBad a.tn p 5) (m.set1 R.FUS_STAT_NO_MD)
  m1.health H.noMd (.encoder m1.webEnc.1) []

/-- The whole of step 3's fusion for one tick (R232). In the late form nothing has been solved by the deadline, and every
comet takes a kinematic update (R38). Spawns come before misses are judged, so that a port that a full partition leaves not covered
sights no comet in the tick (R238, R242; DEDUCED, log entry 82). -/
def fuse (x : FuseCtx) (m : Mach) : Mach :=
  let n := x.tn
  let m0 := ((m.takeReplies n).takeOffers n x.tv x.per).onJnl fun j => { j with curdRecs := Vector.replicate 8 0 }
  let (ms0, m1) := if x.late && x.md.isNone && !x.noMd then ([], m0) else m0.measureAll n x.tv x.md
  let m1 := if x.noMd then m1.reportNoMd x.a else m1
  let (exts, m2) := m1.takeExt x.tv
  let ms := ms0 ++ exts.mapIdx extMeas
  let (stay, o1, m3) := leaveAll x ({}, m2)
  let pairs := stay.flatMap fun e => (ms.mapIdx fun i y => (i, y)).filterMap fun y =>
    if y.2.lost || y.2.excess then none else (m3.gate y.2 e.2.1 e.2.2).map fun c => ({ mi := y.1, slot := e.1, cost := c } : GPair)
  let awaits := fun (e : Nat × Track × Pred) => ms.any fun y => y.lost && !y.excess && (m3.gate y e.2.1 e.2.2).isSome
  let (bs, cut) := cutBlocks pairs.length pairs
  let m4 := if x.late then m3 else (m3.addTo R.FUS_GATE_TIGHT cut).addTo R.FUS_BLOCKS bs.length
  let (sol, m5) := solveBlocks x.late ms bs 0 ({}, m4)
  let m6 := if x.late then m5 else m5.debit .fusion .fus 0 ((ms.filter fun y => !y.lost && !y.excess).length + stay.length) n
  let free := (ms.mapIdx fun i y => (i, y)).filter fun y =>
    !x.late && !y.2.lost && !y.2.excess && !sol.badM.contains y.1 && !sol.pairs.any (·.1 == y.1)
  let (o2, m7) := free.foldl (fun (s : FuseOut × Mach) y => spawn x y.1 y.2 s) (o1, m6)
  let boxes := m7.overflowBoxes n
  let x7 := { x with a := (m7.acct? n).getD x.a }
  let fate := fun (e : Nat × Track × Pred) =>
    if x.late then Fate.kin true
    else
      match sol.pairs.find? (·.2 == e.1) with
      | some p => .upd p.1
      | none =>
        if sol.badC.contains e.1 ∨ awaits e then .kin true
        else if m7.sighted x7 boxes e.2.1.fn e.2.2 then .miss
        else if e.2.1.c.state = 1 then .stay else .kin false
  let (o3, m8) := (stay.map fun e => (e, fate e)).foldl (fun (s : FuseOut × Mach) e => applyFate x ms e.1.1 e.1.2.1 e.1.2.2 e.2 s) (o2, m7)
  let m9 := forEach (o3.recs.foldl (fun acc r => insRec r acc) []) (fun r t => t.writeStep3 r.fn n x.tv 0 r.body r.flags) m8
  let m10 := m9.writeCurds x ms o3.cids
  let m11 := m10.onAcct n fun a => { a with handGaps := a.handGaps ++ o3.gaps }
  let acked := m11.fus.store.filter fun e => e.2.acked
  let m12 := forEach acked (fun e t => (t.dropTrack e.1).inc R.FUS_HO_OUT) m11
  let m13 := if x.late then m12 else m12.offerAll x (stay.map fun e => (e.1, e.2.2))
  let m14 := forEach (exts.mapIdx fun i e => (i, e)) (fun e t =>
    let got := o3.cids.find? fun c => c.1 == ms0.length + e.1
    t.done e.2.fn 0x60 e.2.ctag e.2.cseq 0 ((got.map (·.2.1)).getD 0) []) m13
  let locals := (m14.curdsOfTick n).filterMap fun pc =>
    (ms0.find? fun y => y.port == pc.1.1 && y.idx == pc.2.index).map fun y => (pc.2, localCurd n pc.2 y)
  let m15 :=
    if x.a.calAdmitted && !x.late && m14.on R.FUS_CTRL_CAL_EN then
      ((m14.onFus fun u => { u with mine := (u.mine.filter fun c => decide (n ≤ c.tn + 64)) ++ locals.map (·.2) }).pairLocal n).sendCurds n locals
    else m14
  (m15.onAcct n fun a => { a with fused := true }).onFus fun u => { u with confirms := u.confirms.filter fun c => decide (n ≤ c.1 + 1) }

/-- The oldest tick that has ended, does work and has not been fused. -/
def nextFuse (m : Mach) : Option TickAcct := (m.tick.accts.filter fun a => a.tEnd.isSome && a.works && !a.fused).getLast?

/-- A classification of the tick is still under way. -/
def classPending (m : Mach) (n : Nat) : Bool :=
  (List.finRange 16).any fun (p : Fin 16) => (m.fe.get p).curds.any fun c => c.tn == n && c.admitted && !c.abandoned && c.score.isNone

/-- A tick with fusion disabled: no measurement is formed and no comet changes; its CURD records are written (R259), and an
external measurement that joins it completes without a comet (DEDUCED, log entry 40). -/
def passTick (x : FuseCtx) (m : Mach) : Mach :=
  let (exts, m1) := (m.onJnl fun j => { j with curdRecs := Vector.replicate 8 0 }).takeExt x.tv
  let m2 := m1.writeCurds x [] []
  let m3 := forEach exts (fun e t => t.done e.fn 0x60 e.ctag e.cseq 0 0 []) m2
  m3.onAcct x.tn fun b => { b with fused := true }

/-- Fuse the oldest tick, once its grid is closed, its work admitted and its classifications finished (R35, R232). -/
def fusionTick (m : Mach) : Mach :=
  match m.nextFuse with
  | none => m
  | some a =>
    if !m.working ∨ !a.gridClosed ∨ !a.admitted ∨ m.classPending a.tn then m
    else
      let tv := a.tEnd.getD 0
      if !m.on R.FUS_CTRL_EN then m.passTick { a := a, tv := tv, md := none, late := false }
      else
        match m.mdAsk m.webEnc tv with
        | (.notYet, _) => m
        | (.ok v, m1) => if m1.curdMdWaits a.tn then m else m1.fuse { a := a, tv := tv, md := some v, late := false }
        | (.invalid _, m1) => m1.fuse { a := a, tv := tv, md := none, late := false, noMd := true }

/-- The deadline of a tick that was never fused (R38). -/
def fuseLate (a : TickAcct) (m : Mach) : Mach :=
  let tv := a.tEnd.getD 0
  if !m.on R.FUS_CTRL_EN then m.passTick { a := a, tv := tv, md := none, late := true }
  else
    match m.mdAsk m.webEnc tv with
    | (.ok v, m1) => m1.fuse { a := a, tv := tv, md := some v, late := true }
    | (.notYet, m1) => m1.fuse { a := a, tv := tv, md := none, late := true }
    | (.invalid _, m1) => m1.fuse { a := a, tv := tv, md := none, late := true, noMd := true }

end Mach

end Sys2Proof.Machine
end

