-- ==== Sys2Proof/Machine/Fusion.lean ====
section
/-! DEFINITION. Meanings of the fusion unit's commands (R218, R223, R232, R244, R248 to R253). -/

namespace Sys2Proof.Machine

/-! ## The translation solve (R249, R250) -/

/-- An overlap entry as the solve sees it: port A, local port B (none: a remote one), its sums. -/
structure CalEntry where
  a : Nat
  b : Option Nat
  s : CalSum
deriving DecidableEq, Repr

/-- The ports that are connected to a fixed one. -/
def calReach (es : List CalEntry) : Nat → List Nat → List Nat
  | 0, l => l
  | k + 1, l =>
    let add := es.filterMap fun e =>
      match e.b with
      | none => if l.contains e.a then none else some e.a
      | some b => if l.contains e.a && !l.contains b then some b else if l.contains b && !l.contains e.a then some e.a else none
    if add.isEmpty then l else calReach es k (l ++ add.eraseDups)

/-- One step of Gauss-Jordan elimination on column k. -/
def gaussStep (rows : List (List Rat)) (k : Nat) : List (List Rat) :=
  match rows[k]? with
  | none => rows
  | some r =>
    let p := (r[k]?).getD 1
    let r' := r.map (· / p)
    rows.mapIdx fun i x => if i = k then r' else let f := (x[k]?).getD 0; List.zipWith (fun u v => u - f * v) x r'

/-- The least-squares corrections of the unknown ports on one axis, exactly (R249): `d` gives an entry's sum of differences. -/
def calSolve (es : List CalEntry) (us : List Nat) (d : CalSum → Int) : List Rat :=
  let sgn := fun (e : CalEntry) (p : Nat) => (if e.a = p then (1 : Int) else 0) - (if e.b = some p then 1 else 0)
  let rows : List (List Rat) := us.map fun p =>
    us.map (fun q => (((es.map fun e => sgn e p * sgn e q * (e.s.n : Int)).sum : Int) : Rat)) ++
      [((-(es.map fun e => sgn e p * d e.s).sum : Int) : Rat)]
  let done := (List.range us.length).foldl gaussStep rows
  done.map fun r => (r[us.length]?).getD 0

namespace Mach

/-- A correction in whole µm (R107, R249). The double-precision operations are not stated: within 2^-20 µm of a tie the rounding
is a free value. -/
def roundDelta (q : Rat) (m : Mach) : Int × Mach :=
  let lo := q.num.fdiv q.den
  let gap : Rat := q - ((lo : Rat) + 1 / 2)
  if -(1 / 1048576 : Rat) < gap ∧ gap < 1 / 1048576 then
    let (v, t) := m.drawNat
    (if v % 2 = 0 then lo else lo + 1, t)
  else (rnd q.num q.den, m)

/-- The entries that the solve uses: valid, with at least MIN_PAIRS pairs (R249). -/
def calEntries (m : Mach) (s : Vector CalSum 16) : List CalEntry :=
  ((List.finRange 16).filter fun (i : Fin 16) =>
      m.on (R.FUS_OVL_CFG_VALID i) && decide (atLeast1 (m.g R.FUS_CAL_CFG_MIN_PAIRS) ≤ (s.get i).n)).map fun (i : Fin 16) =>
    { a := m.g (R.FUS_OVL_CFG_PORT_A i), b := if m.on (R.FUS_OVL_CFG_LINK i) then none else some (m.g (R.FUS_OVL_CFG_PORT_B i)), s := s.get i }

/-- The port is a fixed reference (R249, R251). -/
def calFixed (m : Mach) (p : Nat) : Bool :=
  bitN (m.g R.FUS_CAL_LOCK) p || (!m.on R.FUS_CAL_CFG_REF_LINK && m.g R.FUS_CAL_CFG_REF_PORT == p)

/-- The corrections of R249 and their judgement by R250. -/
def solveCal (s : Vector CalSum 16) (m : Mach) : Mach :=
  let es := m.calEntries s
  let fixed := (List.range 16).filter m.calFixed
  let remote := (es.filter fun e => e.b.isNone).map (·.a)
  let reach := calReach es 16 (fixed ++ remote).eraseDups
  let us := (List.range 16).filter fun p => reach.contains p && !fixed.contains p
  let pairs := (s.toList.map (·.n)).sum
  let ds := List.zip us (List.zip (calSolve es us (·.sCd)) (calSolve es us (·.sMd)))
  let lim : Int := m.g R.FUS_CAL_LIM_MAX_STEP
  forEach ds (fun (x : Nat × Rat × Rat) t =>
    let (cd, t1) := t.roundDelta x.2.1
    let (md, t2) := t1.roundDelta x.2.2
    if cd = 0 ∧ md = 0 then t2
    else if t2.fus.calStale.contains x.1 then t2.inc R.FUS_CAL_REJECT
    else if lim < (cd.natAbs : Int) ∨ lim < (md.natAbs : Int) then
      let t3 := t2.inc R.FUS_CAL_REJECT
      t3.health H.calReject (.port x.1) []
    else t2.onFus fun u => { u with installs := u.installs ++ [{ port := x.1, dCd := cd, dMd := md, tnEff := m.tick.tn + 2, pairs := pairs }] }) m

/-- CAL_SOLVE_DONE. -/
def calSolveDone (m : Mach) : Mach :=
  match m.fus.solving with
  | none => m
  | some s => (m.solveCal s).onFus fun u =>
    { u with solving := u.waiting, waiting := none, calStale := u.waitStale, waitStale := [] }

/-- Two intervals' sums. -/
def addSums (a b : CalSum) : CalSum :=
  { n := a.n + b.n, sCd := a.sCd + b.sCd, sMd := a.sMd + b.sMd, sCd2 := a.sCd2 + b.sCd2, sMd2 := a.sMd2 + b.sMd2 }

/-- New sums start. -/
def clearSums (m : Mach) : Mach := m.onFus fun u => { u with sums := Vector.replicate 16 {} }

/-- R249: the calibration interval under way ends, CAL_INTERVAL seconds after it began; where that is past, the next multiple counts. -/
def calDue (m : Mach) : Int :=
  let len : Int := atLeast1 (m.g R.FUS_CAL_CFG_CAL_INTERVAL) * 1000000000
  m.fus.calFrom + len * max 1 (-((m.fus.calFrom - m.elapsed).fdiv len))

/-- R249, R252: at the end of the interval the sums go to the management core, or to those that wait while it solves. -/
def calInterval (m0 : Mach) : Mach :=
  if !m0.on R.FUS_CTRL_CAL_EN then m0
  else
    let m := (m0.runToElapsed m0.calDue).onFus fun u => { u with calFrom := m0.calDue }
    let s := m.fus.sums
    if m.fus.solving.isNone then (m.onFus fun u => { u with solving := some s }).clearSums
    else
      let w := match m.fus.waiting with | some v => Vector.zipWith addSums v s | none => s
      (((m.onFus fun u => { u with waiting := some w }).inc R.FUS_CAL_DEFER).set1 R.FUS_STAT_CAL_DEFER).clearSums

/-! ## Homographies -/

/-- The words of a homography, low word first. -/
def homWords (h : Hom) : List Nat := (List.range 18).map fun k => toBits 64 (h.at_ (k / 2)) / 2 ^ (32 * (k % 2)) % 2 ^ 32

/-- R253: a read of FUS_P_H_0_LO latches the set. -/
def homRead (p : Fin 16) (m : Mach) : Mach :=
  let h := (m.fus.homs.get p).at_ m.tick.tn
  let m1 := forEach ((homWords h).mapIdx fun k w => (k, w)) (fun x t => t.wr (R.FUS_P_H_A p x.1) (BitVec.ofNat 32 x.2)) m
  let m2 := ((m1.put (R.FUS_P_HVER_SRC p) h.online.toNat).put (R.FUS_P_HVER_LOCKED p) (bitN (m.g R.FUS_CAL_LOCK) p).toNat).put (R.FUS_P_HVER_VERSION p) h.version
  m2.emit (.readValue (R.FUS_P_H_A p 0) (m2.rd (R.FUS_P_H_A p 0)))

/-- The ports of a mask. -/
def portsOf (mask : Nat) : List (Fin 16) := (List.finRange 16).filter fun (p : Fin 16) => bitN mask p.1

/-- The homographies of a CALIB_SET table (R380): one for each set bit in ascending order. -/
def homsOf (mask : Nat) (table : List (List Int × Nat)) : List (Fin 16 × Hom) :=
  (portsOf mask).mapIdx fun i p => (p, match table[i]? with | some (h, v) => { h := h, version := v % 65536 } | none => {})

/-- A named port is another function's, or in a wash (R369). -/
def portsJudge (m : Mach) (f : Fin 8) (mask : Nat) : Option Nat :=
  if (portsOf mask).any fun p => m.own.port.get p != f then some St.owner
  else if (portsOf mask).any fun p => m.washing kindPort p then some St.busy
  else none

/-- R218: dn must be positive at the four corner pixels. -/
def homCorners (m : Mach) (x : Fin 16 × Hom) : Bool :=
  let w : Int := 16 * ((m.g (R.ING_GEOM_WIDTH x.1) : Int) - 1)
  let h : Int := 16 * ((m.g (R.ING_GEOM_HEIGHT x.1) : Int) - 1)
  [((0 : Int), (0 : Int)), (w, 0), (0, h), (w, h)].all fun c => decide (0 < x.2.dn c.1 c.2)

/-- CALIB_SET. -/
def calibSet (h : CmdHdr) (mask : Nat) (table : List (List Int × Nat)) (m : Mach) : Mach :=
  let hs := homsOf mask table
  m.command h 0x40 true
    (fun t => (t.judgeEff h 3).or (if !hs.all t.homCorners then some St.format else t.portsJudge h.fn mask))
    (fun cseq t =>
      let e := t.effOf h
      { m := t.pend { fn := h.fn, op := 0x40, ctag := h.ctag, cseq := cseq, tnEff := e, change := .calibSet (hs.map fun x => (x.1.1, x.2)) },
        d18 := e })

/-- CALIB_LOCK. -/
def calibLock (h : CmdHdr) (mask : Nat) (lock : Bool) (m : Mach) : Mach :=
  m.command h 0x41 true
    (fun t => (t.judgeEff h 3).or (t.portsJudge h.fn mask))
    (fun cseq t =>
      let e := t.effOf h
      { m := t.pend { fn := h.fn, op := 0x41, ctag := h.ctag, cseq := cseq, tnEff := e, change := .calibLock mask lock }, d18 := e })

/-! ## External measurements (R223, R224) -/

/-- Accepted too late for the tick whose window holds the stamp. -/
def extLate (m : Mach) (ts : Int) : Bool :=
  if m.tick.start ≤ ts then false
  else
    match m.tick.accts.find? fun a => decide (a.start ≤ ts) && (match a.tEnd with | some e => decide (ts < e) | none => false) with
    | some a => a.fused || (a.tEnd.isSome && decide (a.graceFrom + 12000 < m.time.n))
    | none => true

/-- EXT_MEAS. -/
def extMeasCmd (h : CmdHdr) (ts md cd : Int) (var cid cls : Nat) (clsValid spawn : Bool) (m : Mach) : Mach :=
  m.command h 0x60 true
    (fun t =>
      if var = 0 then some St.format
      else if ts + 1000 * (t.g (R.FUS_F_EXT h.fn) : Int) < t.time.n then some St.late
      else none)
    (fun cseq t =>
      let x : ExtWait := { fn := h.fn, ctag := h.ctag, cseq := cseq, ts := ts, md := md, cd := cd, var := var, cid := cid,
                           cls := if clsValid then some cls else none, spawn := spawn, late := if t.extLate ts then some t.time.n else none }
      { m := (t.onFus fun u => { u with ext := u.ext ++ [x] }).inc R.FUS_EXT_IN })

/-! ## Repeated offers (R244) -/

/-- The offers whose HO_TMO ticks have passed are sent again. -/
def repeatOffers (m : Mach) : Mach :=
  forEach m.fus.store (fun e t =>
    match e.2.offer with
    | some (l, k, _) =>
      let l := Fin.ofNat 4 l
      if e.2.c.hoPend && !e.2.acked && decide (k + 1 + atLeast1 (t.g R.FUS_HO_HO_TMO) ≤ t.tick.tn) && !t.hoRefuse l then
        t.sendOffer l (t.tick.tn - 1) t.tick.start e.1 e.2
      else t
    | none => t) m

end Mach

/-- FUSION_TICK (R232). -/
def execFusionTick (s : State) := s.act Mach.fusionTick
/-- HO_OFFER_REPEAT (R244). -/
def execHoOfferRepeat (s : State) := s.act Mach.repeatOffers
/-- CAL_INTERVAL_END (R249). -/
def execCalIntervalEnd (s : State) := s.act Mach.calInterval
/-- CAL_SOLVE_DONE (R250). -/
def execCalSolveDone (s : State) := s.act Mach.calSolveDone
/-- FUS_P_H_READ (R253). -/
def execFusPHRead (p : Fin 16) (s : State) := s.act (Mach.homRead p)
/-- CALIB_SET (R218). -/
def execCalibSet (h : CmdHdr) (mask : Nat) (table : List (List Int × Nat)) (s : State) := s.act (Mach.calibSet h mask table)
/-- CALIB_LOCK (R251). -/
def execCalibLock (h : CmdHdr) (mask : Nat) (lock : Bool) (s : State) := s.act (Mach.calibLock h mask lock)
/-- EXT_MEAS (R223). -/
def execExtMeas (h : CmdHdr) (ts md cd : Int) (var cid cls : Nat) (clsValid spawn : Bool) (s : State) :=
  s.act (Mach.extMeasCmd h ts md cd var cid cls clsValid spawn)

end Sys2Proof.Machine
end

