-- ==== Sys2Proof/Machine/SpikingOps.lean ====
section
/-! DEFINITION. Spiking populations: neuron words, touches, stimuli, synapses, phases (R145 to R173). -/

namespace Sys2Proof.Machine

/-! ## The neuron (R149, R150) -/

/-- A neuron word. -/
structure Neuron where
  refEnd : Nat
  last : Nat
  pset : Nat
  v : Int
deriving DecidableEq, Repr

/-- The fields of a 64-bit neuron word (R149). -/
def Neuron.of (w : Nat) : Neuron :=
  { refEnd := bitsN w 63 48, last := bitsN w 47 32, pset := bitsN w 27 24, v := toSigned 24 (bitsN w 23 0) }

/-- The word of a neuron; its reserved bits are zero. -/
def Neuron.word (n : Neuron) : Nat := n.refEnd % 65536 * 2 ^ 48 + n.last % 65536 * 2 ^ 32 + n.pset % 16 * 2 ^ 24 + toBits 24 n.v

/-- sat24 (R150). -/
def sat24 (v : Int) : Int := clampI v (-(2 ^ 23)) (2 ^ 23 - 1)

/-- A membrane potential after an addition or a leak subtraction at an edge level: its low six bits are open (R170). -/
def edgeV (edge : Bool) (fresh : Nat) (v : Int) : Int := if edge then v.fdiv 64 * 64 + (fresh % 64 : Nat) else v

/-- The lazy leak over n elapsed steps, ascending j (R150). -/
def leak (p : PsetRec) (edge : Bool) (fresh : Nat → Nat) (n : Nat) (v : Int) : Int :=
  (List.range 16).foldl (fun v j =>
    let sh := (p.lsh[j]?).getD 0
    if bitN n j ∧ sh ≠ 31 then edgeV edge (fresh j) (v - v.fdiv (2 ^ sh)) else v) v

/-- One touch at step s (R150, R151): the neuron after it and whether it spikes. A neuron that already spiked at s spikes no
second time. -/
def touch (p : PsetRec) (edge : Bool) (fresh : Nat → Nat) (s : Int) (forced : Bool) (input : Option Int) (x : Neuron) : Neuron × Bool :=
  let s16 := toBits 16 s
  let n := toBits 16 (s - x.last)
  let v := leak p edge fresh n x.v
  let re := toBits 16 (s + p.ref)
  let y := { x with last := s16, v := v }
  if forced then ({ y with v := 0, refEnd := re }, !(x.last == s16 && x.refEnd == re))
  else if toSigned 16 (toBits 16 (s - x.refEnd)) ≤ 0 then (y, false)
  else
    match input with
    | none => (y, false)
    | some i =>
      let u := edgeV edge (fresh 16) (sat24 (v + i))
      if (p.thr : Int) ≤ u then ({ y with v := if p.sub then u - p.thr else 0, refEnd := re }, true) else ({ y with v := u }, false)

/-- An accumulator or a potential built up by additions, in order, at an edge level or exactly (R138). -/
def edgeSum (edge : Bool) (fresh : Nat → Nat) (l : List Int) : Int :=
  (l.foldl (fun (s : Int × Nat) w => (edgeV edge (fresh s.2) (s.1 + w), s.2 + 1)) (0, 0)).1

/-! ## The message word (R163) -/

/-- The fields that SYN and VEC share. -/
def SpikeMsg.fn (s : SpikeMsg) : Fin 8 := Fin.ofNat 8 (bitsN s.word.toNat 61 59)
def SpikeMsg.epoch (s : SpikeMsg) : Nat := bitsN s.word.toNat 58 51
def SpikeMsg.role (s : SpikeMsg) : Nat := bitsN s.word.toNat 50 43

/-- KIND, POP or TILE, ARRIVE and the rest of a message's word. Reserved bits are zero. -/
def arrivalBits : Arrival → Nat
  | .syn pop step t w typ =>
    pop % 64 * 2 ^ 37 + (step.emod 64).toNat * 2 ^ 31 + typ % 4 * 2 ^ 29 + toBits 8 w * 2 ^ 21 + t % 65536
  | .vec tile step b mask => 2 ^ 62 + tile % 16 * 2 ^ 39 + (step.emod 64).toNat * 2 ^ 31 + b % 256 * 2 ^ 23 + mask % 65536

/-- The word of a message. -/
def spikeWord (f : Fin 8) (epoch role : Nat) (a : Arrival) : BitVec 64 :=
  BitVec.ofNat 64 (f.1 * 2 ^ 59 + epoch % 256 * 2 ^ 51 + role % 256 * 2 ^ 43 + arrivalBits a)

/-- What a message carries; its arrival step is known mod 64. -/
def SpikeMsg.arr (s : SpikeMsg) : Arrival :=
  let w := s.word.toNat
  if bitsN w 63 62 = 0 then .syn (bitsN w 42 37) (bitsN w 36 31 : Nat) (bitsN w 15 0) (toSigned 8 (bitsN w 28 21)) (bitsN w 30 29)
  else .vec (bitsN w 42 39) (bitsN w 36 31 : Nat) (bitsN w 30 23) (bitsN w 15 0)

namespace Mach

/-! ## Populations in force -/

/-- The record of a population. -/
def popRec (m : Mach) (p : Pop) : Option (Image × PopRec) :=
  match m.images.find p.slot with
  | some im => (im.pops[p.recIdx]?).map fun r => (im, r)
  | none => none

/-- The engine of a function's role under the maps of a tick. -/
def roleEng (m : Mach) (f : Fin 8) (tn role : Nat) : Option (Fin 72) :=
  (RoleMap.engine ((m.fn.get f).roles.at_ tn) role).map (Fin.ofNat 72)

/-- The engine of a population under the maps of a tick. -/
def popEng (m : Mach) (tn : Nat) (p : Pop) : Option (Fin 72) := m.roleEng p.fn tn p.role

/-- The oldest tick that waits for its deadline: its maps say which engines hold the populations (R37, R166). -/
def heldTick (m : Mach) : Nat := match m.tick.accts.getLast? with | some a => a.tn | none => m.tick.tn

/-- A population whose image is active in a tick. -/
def popActive (m : Mach) (tn : Nat) (p : Pop) : Bool :=
  match m.images.find p.slot with | some im => imageActive tn im | none => false

/-- Same population. -/
def samePop (a b : Pop) : Bool := a.fn == b.fn && a.slot == b.slot && a.recIdx == b.recIdx

def onPop (p : Pop) (f : Pop → Pop) (m : Mach) : Mach := { m with pops := m.pops.map fun q => if samePop p q then f q else q }

/-- The populations of a function in a tick. -/
def popsIn (m : Mach) (f : Fin 8) (tn : Nat) : List Pop := m.pops.filter fun p => p.fn == f && m.popActive tn p

/-- The engine of a population can run it: bound, good, out of reset, its load done. -/
def popRuns (m : Mach) (tn : Nat) (p : Pop) : Option (Fin 72) :=
  match m.popEng tn p with
  | some e => if m.engReady e then some e else none
  | none => none

/-- The parameter set of a neuron at a start (R181). -/
def psetIndex (im : Image) (r : PopRec) (neuron : Nat) : Nat :=
  (((im.psets.drop r.psetFirst).take r.psetCount).filter fun s => decide (s.first ≤ neuron)).length - 1

def psetOf (im : Image) (r : PopRec) (k : Nat) : PsetRec :=
  (im.psets[r.psetFirst + k]?).getD { first := 0, sub := false, ref := 0, thr := 1, lsh := [], wsh := [] }

/-- A neuron of a population. -/
def neuron (m : Mach) (e : Fin 72) (r : PopRec) (i : Nat) : Neuron := .of (leN (m.sramGet e (r.neuronA + 8 * i) 8) 0 8)

def putNeuron (e : Fin 72) (r : PopRec) (i : Nat) (x : Neuron) (m : Mach) : Mach := m.sramPut e (r.neuronA + 8 * i) (bytesOf 8 x.word)

/-- Start or restart (R153, R169): every word rewritten, the population's arrivals cleared, 64 steps of warming. -/
def startPop (e : Fin 72) (p : Pop) (im : Image) (r : PopRec) (sigma : Int) (m : Mach) : Mach :=
  let words := (List.range r.n).flatMap fun i =>
    bytesOf 8 (Neuron.word { refEnd := toBits 16 (sigma - 1), last := toBits 16 sigma, pset := psetIndex im r i, v := 0 })
  let mine := fun (a : Arrival) => match a with
    | .syn q .. => q == p.pop
    | .vec t .. => (im.tiles.find? fun x => x.role == p.role && x.tile == t).elim false fun x => x.dstPop == p.pop
  let m1 := if (m.eng.get e).loading then m.onEng e fun x => { x with incoming := x.incoming ++ [(r.neuronA, words)] }
    else m.sramPut e r.neuronA words
  (m1.onEng e fun x => { x with arrivals := x.arrivals.filter fun a => !mine a }).onPop p fun q =>
    { q with started := true, restart := false, warmUntil := sigma + 64, firstRec := true, sigma := sigma, high := sigma }

/-! ## Steps (R147, R148) -/

/-- B_n of a tick (R31). -/
def bkOf (m : Mach) (tn : Nat) : Int := match m.acct? tn with | some a => a.bk | none => m.bnd tn

/-- The start of phase i of a tick (R34). -/
def phaseStart (m : Mach) (tn i : Nat) : Int := m.bkOf tn + (i * (m.periodOf tn).toNat / 16 : Nat)

/-- Ask for the mark of a population at a phase start (R147): none while the position is not answered (R204); no mark in PHASE mode,
or where the position is INVALID. -/
def askMark (r : PopRec) (t : Int) (m : Mach) : Option (Option Int × Mach) :=
  if !r.encMode then some (none, m)
  else
    match m.mdAsk (Fin.ofNat 4 r.enc) t with
    | (.notYet, _) => none
    | (.invalid _, m1) => some (none, m1)
    | (.ok md, m1) => some (some ((md - r.org).fdiv r.stepUm), m1)

/-- The step of a phase start, of global number g, with the mark there: the population after it and whether it stepped (R147, R148).
Without a mark H stays (DEDUCED, log 35). -/
def stepPop (r : PopRec) (g : Nat) (mark : Option Int) (p : Pop) : Pop × Bool :=
  if !r.encMode then
    if g % r.div = 0 then ({ p with sigma := (g / r.div : Nat) }, true) else (p, false)
  else
    let h := match mark with | some k => max p.high k | none => p.high
    let lag := decide (1 < h - p.sigma)
    let q := { p with high := h, lag := p.lag || lag, stepLag := (p.stepLag + lag.toNat) % 2 ^ 32 }
    if p.sigma < h then ({ q with sigma := p.sigma + 1 }, true) else (q, false)

/-- The step counter at a start (R147, R153). The spec gives no mark to start from where the web position is INVALID: the model takes
the step counter that the population had, 0 at first (DESIGN CHOICE, log 35). -/
def startSigma (r : PopRec) (g : Nat) (mark : Option Int) (p : Pop) : Int :=
  if !r.encMode then (g / r.div : Nat) else mark.getD p.sigma

/-- A phase's step for one population that runs: a start, a restart, or a step; whether it stepped. -/
def popStep (tn i : Nat) (p : Pop) (m : Mach) : Bool × Mach :=
  match m.popRec p, m.popRuns tn p with
  | some (im, r), some e =>
    match m.askMark r (m.phaseStart tn i) with
    | none => (false, m)
    | some (mark, m1) =>
      if !p.started || p.restart then (true, m1.startPop e p im r (startSigma r (16 * tn + i) mark p))
      else let (q, b) := stepPop r (16 * tn + i) mark p; (b, m1.onPop p fun _ => q)
  | _, _ => (false, m)

/-- The arrivals of a population that are due at its step are discarded and counted (R159). -/
def discardDue (tn : Nat) (p : Pop) (im : Image) (m : Mach) : Mach :=
  match m.popEng tn p with
  | none => m
  | some e =>
    let due := fun (a : Arrival) => match a with
      | .syn k s .. => k == p.pop && decide (s ≤ p.sigma)
      | .vec t s .. => decide (s ≤ p.sigma) && (im.tiles.find? fun x => x.role == p.role && x.tile == t).elim false fun x => x.dstPop == p.pop
    let n := ((m.eng.get e).arrivals.filter due).length
    (m.onEng e fun x => { x with arrivals := x.arrivals.filter fun a => !due a }).onPop p fun q =>
      { q with arriveLost := (q.arriveLost + n) % 2 ^ 32 }

/-- The step of a lost phase (R168). A population whose role is bound starts there (R153), but a restart waits for a tick that runs
(R169). -/
def lostStep (tn g : Nat) (mark : Option Int) (p : Pop) (im : Image) (r : PopRec) (m : Mach) : Mach :=
  if !p.started then
    match m.popEng tn p with
    | some e => if m.engGood e && !(m.eng.get e).inReset then m.startPop e p im r (startSigma r g mark p) else m
    | none => m
  else
    let (q, _) := stepPop r g mark p
    (m.onPop p fun _ => q).discardDue tn q im

/-- The steps that lost phases owe are taken as their positions are answered (R168, R204). -/
def settleOwed (tn : Nat) (p : Pop) : List Int → Mach → Mach
  | [], m => m.onPop p fun q => { q with owed := [] }
  | t :: r, m =>
    match m.pops.find? (samePop p), m.popRec p with
    | some q, some (im, rec_) =>
      match m.askMark rec_ t with
      | none => m.onPop p fun q => { q with owed := t :: r }
      | some (mark, m1) => settleOwed tn p r (m1.lostStep tn 0 mark q im rec_)
    | _, _ => m

/-- A lost phase (R168): the step is taken, or owed until its position is answered, and its arrivals are discarded. -/
def lostPhase (tn i : Nat) (p : Pop) (m : Mach) : Mach :=
  match m.popRec p with
  | none => m
  | some (im, r) =>
    let m1 := m.onPop p fun q => { q with lost := true, phasesLost := (q.phasesLost + 1) % 2 ^ 32 }
    let q : Pop := { p with lost := true, phasesLost := (p.phasesLost + 1) % 2 ^ 32 }
    let owe := m1.onPop p fun x => { x with owed := x.owed ++ [m.phaseStart tn i] }
    if !p.owed.isEmpty then owe
    else
      match m1.askMark r (m.phaseStart tn i) with
      | none => owe
      | some (mark, m2) => m2.lostStep tn (16 * tn + i) mark q im r

/-- The owed steps of a function's populations, as far as they are answered. -/
def settleFn (f : Fin 8) (tn : Nat) (m : Mach) : Mach := forEach (m.popsIn f tn) (fun p t => t.settleOwed tn p p.owed) m

/-- The phases from i on of a function's population tick are lost. -/
def lostPhases (f : Fin 8) (tn i : Nat) (m : Mach) : Mach :=
  forEach ((List.range 16).drop i) (fun k t =>
    forEach ((t.popsIn f tn).filter fun p => p.started || (t.popEng tn p).isSome) (fun p u =>
      match u.pops.find? (samePop p) with | some q => u.lostPhase tn k q | none => u) t) (m.settleFn f tn)

/-- A population's step waits for its web position (R147, R204). -/
def marksWait (m : Mach) (f : Fin 8) (tn i : Nat) : Bool :=
  (m.popsIn f tn).any fun p =>
    !p.owed.isEmpty || (match m.popRec p with | some (_, r) => (m.popRuns tn p).isSome && (m.askMark r (m.phaseStart tn i)).isNone | none => false)

/-! ## Stimuli (R154, R155) -/

/-- The phase of a tick that holds an instant, clamped to phases 0 to 15 (R34, R154). -/
def stimPhase (m : Mach) (tn : Nat) (t : Int) : Nat := ((List.range 16).filter fun i => decide (m.phaseStart tn i ≤ t)).length - 1

/-- An index capture is stamped in a tick (R33, R51, R154). -/
def stampedIn (a : TickAcct) (x : Int × Option Nat) : Bool :=
  match x.2 with
  | some k => k == a.tn
  | none => decide (a.start ≤ x.1) && (a.tEnd.isNone || decide (x.1 < a.graceFrom))

/-- The rank of a port among the set bits of a mask. -/
def rankIn (mask p : Nat) : Nat := (maskBits mask p).length

/-- The neurons that a stimulus forces in a phase of a tick, before the range check. -/
def stimItems (m : Mach) (f : Fin 8) (tn i : Nat) (s : StimRec) : List Int :=
  match s.source with
  | 0 =>
    (List.finRange 16).flatMap fun (p : Fin 16) =>
      if bitN s.ports p.1 && m.own.port.get p == f then
        ((m.fe.get p).curds.filter fun c => c.tn == tn && !c.overflow && m.stimPhase tn (c.start + c.tMean) == i).map fun c =>
          ((s.base + rankIn s.ports p.1 * s.stride + c.cx / 16 / s.binPx : Nat) : Int)
      else []
  | 1 =>
    if i = 0 then
      (m.fus.confirms.filter fun c => c.1 + 1 == tn && c.2.1 == f && bitN s.classes c.2.2.1).map fun c =>
        (s.base : Int) + (c.2.2.2 - s.cdOrg).fdiv s.binUm
    else []
  | _ =>
    match m.acct? tn with
    | none => []
    | some a => ((m.enc.get (Fin.ofNat 4 s.enc)).idxLog.filter fun x => stampedIn a x && m.stimPhase tn x.1 == i).map fun _ => (s.base : Int)

/-- The forced neurons of a population in a phase, and the stimuli outside their range (R155). -/
def forcedOf (m : Mach) (im : Image) (r : PopRec) (f : Fin 8) (tn i : Nat) : List Nat × Nat :=
  let items := ((im.stims.drop r.stimFirst).take r.stimCount).flatMap fun s => (m.stimItems f tn i s).map fun n => (s, n)
  let ok := fun (x : StimRec × Int) => decide ((x.1.base : Int) ≤ x.2) && decide (x.2 < x.1.base + x.1.count) && decide (x.2 < r.n)
  (((items.filter ok).map fun x => x.2.toNat).dedup, (items.filter fun x => !ok x).length)

/-! ## Arrivals and touches -/

/-- The weight of a dense tile from source neuron i of block b to target j (R161, R183). -/
def tileWeight (m : Mach) (e : Fin 72) (t : TileRec) (b i j : Nat) : Int :=
  let nSrc := (t.srcCount + 15) / 16
  let row := t.wgt + (j / 16 * nSrc + b) * (32 * t.wb) + i * (2 * t.wb)
  let bit := j % 16 * t.wb
  let v := (Mem.read (m.eng.get e).sram (row + bit / 8)).toNat / 2 ^ (bit % 8) % 2 ^ t.wb
  if t.wb = 1 then (if v = 1 then 1 else -1) else toSigned t.wb v

/-- The inputs of a population's neurons from its due arrivals: neuron and weighted input. At an edge level the array's sums carry
open low bits (R138, R170). -/
def inputsOf (m : Mach) (e : Fin 72) (im : Image) (r : PopRec) (p : Pop) (edge : Bool) (due : List Arrival) : List (Nat × Int) :=
  due.zipIdx.flatMap fun a =>
    match a.1 with
    | .syn _ _ t w typ =>
      let ps := psetOf im r (m.neuron e r t).pset
      [(t, w * 2 ^ ((ps.wsh[typ]?).getD 0))]
    | .vec tl _ b mask =>
      match im.tiles.find? fun x => x.role == p.role && x.tile == tl with
      | none => []
      | some t => (List.range t.dstCount).map fun j =>
          (t.dstFirst + j, edgeSum edge (fun k => Config.freeNat (m.draws + 65536 * a.2 + 16 * j + k))
            ((maskBits mask 16).map fun i => m.tileWeight e t b i j * 2 ^ t.tsh))

/-- Array clocks that the due VEC masks take: one for each block of 16 targets (R128, R162; DEDUCED, log 35). -/
def tileClocks (im : Image) (p : Pop) (due : List Arrival) : Nat :=
  (due.map fun a => match a with
    | .vec tl .. => (im.tiles.find? fun x => x.role == p.role && x.tile == tl).elim 0 fun t => (t.dstCount + 15) / 16
    | .syn .. => 0).sum

/-- Log what an output neuron does in the tick (R172). -/
def logSpike (m : Mach) (r : PopRec) (tn i : Nat) (forced : Bool) (n : Nat) (v : Int) (p : Pop) : Pop :=
  if r.outFirst ≤ n ∧ n < r.outFirst + r.outCount then
    let mark := if r.encMode then r.org + p.sigma * r.stepUm else m.phaseStart tn i
    if p.log.any (·.neuron == n) then
      { p with log := p.log.map fun l => if l.neuron = n then { l with count := l.count + 1, last := i, v := v, forced := l.forced || forced } else l }
    else { p with log := p.log ++ [{ neuron := n, count := 1, first := i, last := i, v := v, forced := forced, sigma := p.sigma, mark := mark }] }
  else p

/-- Units of work are added to a sum by kind and die. -/
def addWork (k : Work) (d : Fin 4) (n : Nat) : List (Work × Fin 4 × Nat) → List (Work × Fin 4 × Nat)
  | [] => [(k, d, n)]
  | x :: r => if x.1 = k ∧ x.2.1 = d then (k, d, x.2.2 + n) :: r else x :: addWork k d n r

/-- Work of a function's population tick is accounted (R303). -/
def popWork (f : Fin 8) (k : Work) (e : Fin 72) (n : Nat) (m : Mach) : Mach :=
  if n = 0 then m else m.onLed fun l => { l with popWork := vmod l.popWork f (addWork k (dieOfEng e) n) }

/-- Touch one neuron of a population (R150), at an edge level or exactly: its spike, if any. -/
def touchOne (e : Fin 72) (im : Image) (r : PopRec) (p : Pop) (tn i n : Nat) (edge forced : Bool) (input : Option Int) (m : Mach) :
    Bool × Mach :=
  match m.pops.find? (samePop p) with
  | none => (false, m)
  | some q =>
    let x := m.neuron e r n
    let d := m.draws
    let (y, sp) := touch (psetOf im r x.pset) edge (fun j => Config.freeNat (d + j)) q.sigma forced input x
    let m1 := { m.putNeuron e r n y with draws := if edge then d + 17 else d }
    (sp, m1.onPop p fun q =>
      let q1 := { q with edge := q.edge || edge, log := q.log.map fun l => if l.neuron = n then { l with v := y.v } else l }
      if sp then m.logSpike r tn i forced n y.v { q1 with spikes := (q1.spikes + 1) % 2 ^ 32 } else q1)

/-- Where a detector flagged a group of the step in progress, how many of a population's touches were done at the edge level before
that group is timing, and free: all of them where the group lies in another population. The flagged group is computed again from
its words before it, and with the rest of the step exactly, at the lower frequency (R170). -/
def flaggedAt (e : Fin 72) (touches : Nat) (m : Mach) : Option Nat × Mach :=
  if !(m.eng.get e).flagged ∨ touches = 0 then (none, m)
  else
    let groups := (touches + 15) / 16
    let (v, m1) := m.drawNat
    let g := v % (groups + 1)
    if g = groups then (some touches, m1) else (some (16 * g), m1.onEng e fun x => { x with flagged := false })

/-- The touches of one population in a phase: the neurons that spiked, ascending. -/
def popTouches (tn i : Nat) (p : Pop) (stepped : Bool) (m : Mach) : List Nat × Mach :=
  match m.pops.find? (samePop p), m.popRec p, m.popRuns tn p with
  | some q, some (im, r), some e =>
    let isDue := fun (a : Arrival) => stepped && match a with
      | .syn k s .. => k == p.pop && decide (s ≤ q.sigma)
      | .vec t s .. => decide (s ≤ q.sigma) && (im.tiles.find? fun x => x.role == p.role && x.tile == t).elim false fun x => x.dstPop == p.pop
    let due := (m.eng.get e).arrivals.filter isDue
    let edge := (m.lvl.get (dieOfEng e)).edge
    let ins := m.inputsOf e im r p edge due
    let (forced, oor) := m.forcedOf im r p.fn tn i
    let ns := (ins.map (·.1) ++ forced).dedup.mergeSort
    let m1 := (m.onEng e fun x => { x with arrivals := x.arrivals.filter fun a => !isDue a }).onPop p fun q =>
      { q with stimOor := (q.stimOor + oor) % 2 ^ 32 }
    let clocks := tileClocks im p due
    let m2 := ({ m1 with draws := if edge then m1.draws + 65536 * due.length else m1.draws }.addTo (R.ENG_PASSES e) clocks).popWork p.fn .pass e clocks
    let (flag, m3) := m2.flaggedAt e ns.length
    let m4 := match flag with
      | some k => if k < ns.length then m3.onPop p fun q => { q with replayed := true, edge := true } else m3
      | none => m3
    let at_ := fun (k : Nat) => edge || flag.elim false fun g => decide (k < g)
    let (sp, m5) := ns.zipIdx.foldl (fun (s : List Nat × Mach) n =>
      let mine := ins.filter (·.1 == n.1)
      let inp := if mine.isEmpty then none else some (mine.map (·.2)).sum
      let (b, t) := s.2.touchOne e im r p tn i n.1 (at_ n.2) (forced.contains n.1) inp
      (if b then s.1 ++ [n.1] else s.1, t)) ([], m4)
    (sp, m5.popWork p.fn .touch e ns.length)
  | _, _, _ => ([], m)

/-! ## Spikes leave (R156 to R163) -/

/-- The next step after sigma that is congruent to an arrival step mod 64 (R163). -/
def arriveStep (sigma arrive : Int) : Int := sigma + 1 + (arrive - (sigma + 1)).fmod 64

/-- The population that an arrival is for, among those of a role of an image. -/
def destPop (m : Mach) (f : Fin 8) (slot : Nat) (im : Image) (role : Nat) (a : Arrival) : Option Pop :=
  let k : Option Nat := match a with
    | .syn k .. => some k
    | .vec t .. => (im.tiles.find? fun (x : TileRec) => x.role == role && x.tile == t).map fun (x : TileRec) => x.dstPop
  match k with
  | some k => m.pops.find? fun (q : Pop) => q.fn == f && q.slot == slot && q.role == role && q.pop == k
  | none => none

/-- Count a dropped message or event (R165). -/
def routeDrop (f : Fin 8) (m : Mach) : Mach := m.onFn f fun x => { x with routeDrop := (x.routeDrop + 1) % 2 ^ 32 }

/-- A synaptic event or VEC mask reaches the engine that holds its role (R157, R159). -/
def arrive (f : Fin 8) (tn role : Nat) (e : Fin 72) (a : Arrival) (m : Mach) : Mach :=
  match m.imageOfRole f tn role with
  | none => m.routeDrop f
  | some (slot, im) =>
    match m.destPop f slot im role a with
    | none => m.routeDrop f
    | some q =>
      match a with
      | .syn k s t w typ =>
        let n := match im.pops[q.recIdx]? with | some r => r.n | none => 0
        if n ≤ t then m.onPop q fun q => { q with synOor := (q.synOor + 1) % 2 ^ 32 }
        else
          let held := ((m.eng.get e).arrivals.filter fun x => match x with | .syn .. => true | .vec .. => false).length
          if 32768 ≤ held then m.onPop q fun q => { q with qovf := (q.qovf + 1) % 2 ^ 32 }
          else m.onEng e fun x => { x with arrivals := x.arrivals ++ [Arrival.syn k (arriveStep q.sigma s) t w typ] }
      | .vec t s b mask => m.onEng e fun x => { x with arrivals := x.arrivals ++ [Arrival.vec t (arriveStep q.sigma s) b mask] }

/-- Send an event to a role: to the sender's own engine at once, else as a spike message (R163). -/
def sendSpike (f : Fin 8) (tn epoch role : Nat) (e : Fin 72) (a : Arrival) (m : Mach) : Mach :=
  if m.roleEng f tn role = some e then m.arrive f tn role e a
  else { m with spikes := m.spikes ++ [{ word := spikeWord f epoch role a, src := e.1 }] }

/-- The map of an epoch as the routers resolve it: that of the engines' present work counts until its populations have moved
(R165, R166, R193). -/
def routerMap (m : Mach) (f : Fin 8) (epoch : Nat) : Option RoleMap :=
  let here := (m.fn.get f).roles.at_ m.heldTick
  if here.epoch = epoch then some here else m.mapOfEpoch f epoch

/-- R165: the oldest message of a function arrives, is rerouted once, or is dropped. An engine holds a role under the map of the tick
whose work it does: the map of the oldest tick before its deadline. -/
def spikeMessage (f : Fin 8) (m : Mach) : Mach :=
  match m.spikes.find? (·.fn == f) with
  | none => m
  | some s =>
    let m1 := { m with spikes := m.spikes.erase s }
    let tn := m.heldTick
    let deliver := fun (e : Fin 72) (t : Mach) => if (t.eng.get e).inReset then t.routeDrop f else t.arrive f tn s.role e s.arr
    match (m.routerMap f s.epoch).bind fun r => (RoleMap.engine r s.role).map (Fin.ofNat 72) with
    | none => m1.routeDrop f
    | some e =>
      match m.roleEng f tn s.role with
      | none => m1.routeDrop f
      | some here =>
        if here = e then deliver e m1 else deliver here (m1.onFn f fun x => { x with reroute := (x.reroute + 1) % 2 ^ 32 })

/-- A phase in progress completes: its messages are delivered or dropped (R164, R168). -/
def drainSpikes (f : Fin 8) (m : Mach) : Mach := forEach (m.spikes.filter (·.fn == f)) (fun _ t => t.spikeMessage f) m

/-- The entries of a list block: target, weight, delay, type (R157). -/
def blockEntries (b : List Byte) : List (Nat × Int × Nat × Nat) :=
  let ws := ((List.range 15).map fun k => leN b (4 + 4 * k) 4).takeWhile (· != 0)
  (ws.foldl (fun (s : Nat × List (Nat × Int × Nat × Nat)) w =>
    let t := (s.1 + bitsN w 31 16) % 65536
    (t, s.2 ++ [(t, toSigned 8 (bitsN w 15 8), bitsN w 7 2, bitsN w 1 0)])) (bitsN (leN b 0 4) 15 0, [])).2

/-- Expand one spike of a population (R158): its pointer and its list come through the die's synapse cache (R156, R451), its blocks in
order. A block whose line fails is not expanded (R449). -/
def expandList (tn epoch : Nat) (e : Fin 72) (im : Image) (r : PopRec) (p : Pop) (sigma : Int) (n : Nat) (m : Mach) : Mach :=
  if r.ptr = 0 then m
  else
    let ptr := leN (m.dramGet (im.blob + r.ptr + 4 * n) 4) 0 4
    let nblk := bitsN ptr 31 24
    let base := im.blob + r.list + 64 * bitsN ptr 23 0
    let (k1, m1) := m.synAsk (dieOfEng e) (linesOf (im.blob + r.ptr + 4 * n) 4)
    let (k2, m2) := m1.synAsk (dieOfEng e) (linesOf base (64 * nblk))
    let m3 := if k1 + k2 = 0 then m2 else m2.popWork p.fn .byte e (64 * (k1 + k2))
    forEach (List.range nblk) (fun k t =>
      match t.ueIn (base + 64 * k) 64 with
      | some a => t.ueHit a
      | none =>
      let b := t.dramGet (base + 64 * k) 64
      let hdr := leN b 0 4
      forEach (blockEntries b) (fun x u =>
        let u1 := u.onPop p fun q => { q with synEvents := (q.synEvents + 1) % 2 ^ 32 }
        (u1.popWork p.fn .syn e 1).sendSpike p.fn tn epoch (bitsN hdr 31 24) e
          (.syn (bitsN hdr 23 18) (sigma + 1 + x.2.2.1) x.1 x.2.1 x.2.2.2)) t) m3

/-- The VEC messages of one step's spikes of a population (R162). -/
def expandTiles (tn epoch : Nat) (e : Fin 72) (im : Image) (p : Pop) (sigma : Int) (spikes : List Nat) (m : Mach) : Mach :=
  forEach (im.tiles.filter fun t => t.srcRole == p.role && t.srcPop == p.pop) (fun t u =>
    let rel := (spikes.filter fun n => decide (t.srcFirst ≤ n) && decide (n < t.srcFirst + t.srcCount)).map (· - t.srcFirst)
    forEach (rel.map (· / 16)).dedup.mergeSort (fun b v =>
      let mask := ((rel.filter fun n => n / 16 == b).map fun n => 2 ^ (n % 16)).sum
      v.sendSpike p.fn tn epoch t.role e (.vec t.tile (sigma + 1 + t.td) b mask)) u) m

/-- The spikes of a population in a phase leave it. -/
def popSpikes (tn : Nat) (p : Pop) (spikes : List Nat) (m : Mach) : Mach :=
  if spikes.isEmpty then m
  else
    match m.pops.find? (samePop p), m.popRec p, m.popRuns tn p with
    | some q, some (im, r), some e =>
      let epoch := ((m.fn.get p.fn).roles.at_ tn).epoch
      let m1 := forEach spikes (fun n t => t.expandList tn epoch e im r p q.sigma n) m
      m1.expandTiles tn epoch e im p q.sigma spikes
    | _, _, _ => m

/-- A spiking engine of the function still loads. -/
def popsLoading (m : Mach) (f : Fin 8) (tn : Nat) : Bool :=
  (m.popsIn f tn).any fun p => match m.popEng tn p with | some e => (m.eng.get e).loading | none => false

/-- One phase of a function's populations (R164, R167): every population steps, then the arrivals, stimuli and touches of
each, then their spikes. A population that cannot run loses the phase. -/
def runPhase (f : Fin 8) (tn i : Nat) (m : Mach) : Mach :=
  let ps := m.popsIn f tn
  let (st, m1) := ps.foldl (fun (s : List (Pop × Bool) × Mach) p =>
    if (s.2.popRuns tn p).isSome then let (b, t) := s.2.popStep tn i p; (s.1 ++ [(p, b)], t)
    else (s.1, if p.started ∨ (s.2.popEng tn p).isSome then s.2.lostPhase tn i p else s.2)) ([], m)
  let (sp, m2) := st.foldl (fun (s : List (Pop × List Nat) × Mach) x =>
    let (l, t) := s.2.popTouches tn i x.1 x.2; (s.1 ++ [(x.1, l)], t)) ([], m1)
  forEach sp (fun x t => t.popSpikes tn x.1 x.2) m2

/-- The population tick of a function is over: the units of each kind are priced together, and the excess of the estimate is credited
back (R304, R305). -/
def endPopTick (f : Fin 8) (tn : Nat) (m : Mach) : Mach :=
  let est := m.led.popEst.get f
  let work := m.led.popWork.get f
  let act := (work.map fun w => m.price w.1 w.2.1 w.2.2).sum
  let m1 := forEach work (fun w t => t.rawWork w.1 w.2.1 w.2.2) ((m.debitNj .class_ (act - est)).spend tn (act - est))
  (m1.onLed fun l => { l with popLast := vput l.popLast f (some act), popWork := vput l.popWork f [], popEst := vput l.popEst f 0 }).onFn f
    fun x => { x with popTick := none }

/-- A function's population tick ends early: the phase in progress completes, and the phases from i on are lost (R168, R449). -/
def abandonPop (f : Fin 8) (tn i : Nat) (m : Mach) : Mach := ((m.drainSpikes f).lostPhases f tn i).endPopTick f tn

/-- The sweep of a boundary (R152): neurons 64·(n mod 1,024) on of every engine that holds a role, numbered population by
population, on the engines that hold their words. Its touches are priced with those of the tick that opens: the spec names no item of
R306 for them (DESIGN CHOICE, log 35). -/
def neuronSweep (n : Nat) (m : Mach) : Mach :=
  let held := m.heldTick
  forEach (m.pops.filter fun p => p.started && !p.restart && (m.popActive n p || m.popActive held p)) (fun p t =>
    match t.popRec p, t.popRuns held p with
    | some (im, r), some e =>
      let before := ((im.pops.take p.recIdx).filter (·.role == p.role)).map (·.n)
      let base := before.sum
      let first := 64 * (n % 1024)
      let mine := (List.range 64).filterMap fun k => if base ≤ first + k ∧ first + k < base + r.n then some (first + k - base) else none
      forEach mine (fun i u =>
        let x := u.neuron e r i
        let edge := (u.lvl.get (dieOfEng e)).edge
        let d := u.draws
        let (y, _) := touch (psetOf im r x.pset) edge (fun j => Config.freeNat (d + j)) p.sigma false none x
        let z := if 0 < toSigned 16 (toBits 16 (p.sigma - y.refEnd)) then { y with refEnd := toBits 16 (p.sigma - 1) } else y
        { u.putNeuron e r i z with draws := if edge then d + 17 else d })
        (if mine.isEmpty then t else t.debit .class_ .touch (dieOfEng e) mine.length n)
    | _, _ => t) m

end Mach

end Sys2Proof.Machine
end

