-- ==== Sys2Proof/Machine/GraphCmdOps.lean ====
section
/-! DEFINITION. Images come and go: claims, activation, freeing, role loads at boundaries (R186 to R195). -/

namespace Sys2Proof.Machine

namespace Mach

/-- The images of a function that will be active in a tick once its pending graph change has applied (R186, R192). -/
def imagesAt (m : Mach) (f : Fin 8) (tn : Nat) : List (Nat × Image) :=
  let ch := m.tick.pending.filter fun p => p.fn == f && decide (p.tnEff ≤ tn)
  m.images.filter fun s =>
    s.2.fn == f &&
      (ch.any (fun p => match p.change with | .loadGraph k _ => k == s.1 | _ => false) ||
        (imageActive tn s.2 &&
          !ch.any fun p => match p.change with
            | .loadGraph _ r => r == some s.1
            | .unloadGraph k => k == s.1
            | _ => false))

/-- An image claims a port or a role that the other will hold (R186). -/
def claims (a b : Image) : Bool :=
  (List.range 16).any (fun p => bitN a.ports p && bitN b.ports p) || a.roles.any fun r => (b.roleOf r.role).isSome

/-- The checks of LOAD_GRAPH that come before its copy (R186), after TN_EFF and R45. A copy under way for another function has its
slot reserved. -/
def loadReject (m : Mach) (f : Fin 8) (image : List Byte) (len dst : Nat) (replaces : Option Nat) : Option Nat :=
  let im := parseImage f dst image
  let gs := granulesOf dst len
  let masks := im.ports :: im.fe.map (·.ports)
  let badRepl : Bool := match replaces with
    | some k => (match m.images.find k with | some o => o.fn != f || !imageActive m.tick.tn o | none => true)
    | none => false
  if dst % 2 ^ 21 ≠ 0 ∨ len ≠ leN image 8 5 ∨ len = 0 ∨ badRepl ∨ 2 ^ 36 < dst + len ∨
      (gs.any fun g => m.regionEcc (g / 512) && decide (448 ≤ g % 512)) then some St.format
  else if (gs.any fun g => m.granOwner g != some f) ∨
      (masks.any fun k => (List.finRange 16).any fun (p : Fin 16) => bitN k p.1 && m.own.port.get p != f) then some St.owner
  else if (gs.any m.granWashing) ∨ masks.any (fun k => (List.range 16).any fun p => bitN k p && m.washing kindPort p) then some St.busy
  else if gs.any fun g => !m.regionEcc (g / 512) then some St.state
  else if gs.any m.granResident then some St.state
  else if 4 ≤ (m.images.filter fun s => s.2.fn == f).length ∨
      16 ≤ m.images.length + (m.fn.toList.filter fun x => x.load.isSome).length then some St.nospace
  else none

/-- The FE_SET records of an image reach its function's ports (R187); at offset 0 they carry FE_CTRL[3:0] only (R177). -/
def applyFeSets (im : Image) (m : Mach) : Mach :=
  forEach im.fe (fun r t =>
    forEach ((List.finRange 16).filter fun (p : Fin 16) => bitN r.ports p.1 && t.own.port.get p == im.fn) (fun (p : Fin 16) u =>
      let a := fePage p.1 + r.off
      u.wr a (if r.off = 0 then (u.rd a &&& ~~~0xF#32) ||| (BitVec.ofNat 32 r.value &&& 0xF#32) else BitVec.ofNat 32 r.value)) t) m

/-- An image becomes active at tick k, in place of the one it replaces (R187, R188). -/
def activate (slot : Nat) (replaces : Option Nat) (k : Nat) (m : Mach) : Mach :=
  match m.images.find slot with
  | none => m
  | some im =>
    let put := fun (s : Nat × Image) =>
      if s.1 = slot then (s.1, { s.2 with activeFrom := some k })
      else if replaces = some s.1 then (s.1, { s.2 with activeTo := some k })
      else s
    ({ m with images := m.images.map put }).applyFeSets im

/-- Free a slot (R188, R189, R451): its populations end, engines that hold its roles hold them no longer. -/
def freeSlot (slot : Nat) (m : Mach) : Mach :=
  match m.images.find slot with
  | none => m
  | some im =>
    let m0 := m.synDrop fun l => decide (im.dst < 64 * l + 64) && decide (64 * l < im.dst + im.len)
    let m1 := { m0 with
      images := m.images.erase slot, pops := m.pops.filter fun p => p.slot != slot,
      eng := m.eng.map fun e =>
        { e with holds := if (e.holds.elim false fun h => h.2.2 == slot) then none else e.holds,
                 want := if (e.want.elim false fun h => h.2.2 == slot) then none else e.want } }
    match im.unloadOwed with
    | some o => m1.done im.fn 0x11 o.1 o.2 0 0 []
    | none => m1

/-- The slots whose last tick has reached its deadline are freed at boundary k (R188). -/
def freeDue (k : Nat) (m : Mach) : Mach :=
  forEach (m.images.filter fun s => match s.2.activeTo with | some a => decide (a + 1 ≤ k) | none => false) (fun s t => t.freeSlot s.1) m

/-- The engines of a function's map in a tick that do not hold what it binds, while an image declares it. -/
def loadsLeft (m : Mach) (f : Fin 8) (tn : Nat) : Bool :=
  ((m.fn.get f).roles.at_ tn).binds.any fun b =>
    match m.imageOfRole f tn b.1 with
    | some s => let e := m.eng.get (Fin.ofNat 72 b.2); e.loading || e.holds != some (f, b.1, s.1)
    | none => false

/-- MAP_ROLES commands whose map is in force and whose loads are done (R379). -/
def mapsDone (m : Mach) : Mach :=
  forEach (List.finRange 8) (fun (f : Fin 8) t =>
    if (t.fn.get f).mapOwed.isEmpty ∨ t.loadsLeft f t.tick.tn then t
    else
      forEach (t.fn.get f).mapOwed (fun o u => u.done f 0x12 o.1 o.2 0 0 [])
        (t.onFn f fun x => { x with mapOwed := [] })) m

/-- A role of an engine comes with boundary k or with a map that is pending (R195). -/
def roleComes (m : Mach) (k : Nat) (e : Fin 72) : Bool :=
  (m.roleAt k e).isSome || m.tick.pending.any fun p => match p.change with
    | .mapRoles _ bs => bs.any fun b => b.2 == e.1
    | _ => false

/-- At boundary k the loads of the maps and images in force since the boundary before it begin. An engine that has given up its role
holds it no longer: taken again, it is loaded again (R195). -/
def loadsAt (k : Nat) (m : Mach) : Mach :=
  forEach (List.finRange 72) (fun (e : Fin 72) t =>
    match t.loadTarget (k - 1) e with
    | some x => if (t.eng.get e).holds = some x ∨ (t.eng.get e).want = some x then t else t.beginLoad e x
    | none => if t.roleComes k e then t else t.onEng e fun y => { y with holds := none }) m

/-- A role whose populations stay where they run but whose engine changed (R166): the neuron words and dense-tile weights of
the old engine, and its arrivals, move to the new one; without a usable old engine the populations restart. -/
def movePops (n : Nat) (m : Mach) : Mach :=
  forEach (m.pops.filter fun p => p.started) (fun p t =>
    let roles := (t.fn.get p.fn).roles
    if roles.eff ≠ n + 1 then t
    else
      match RoleMap.engine roles.prev p.role, RoleMap.engine roles.cur p.role, t.popRec p with
      | some a, some b, some (im, r) =>
        let ea : Fin 72 := Fin.ofNat 72 a
        let eb : Fin 72 := Fin.ofNat 72 b
        if a = b then t
        else if !t.engGood ea || (t.eng.get ea).inReset then t.onPop p fun q => { q with restart := true }
        else
          let tiles := im.tiles.filter fun x => x.role == p.role && x.dstPop == p.pop
          let data := (r.neuronA, t.sramGet ea r.neuronA (8 * r.n)) :: tiles.map fun x =>
            (x.wgt, t.sramGet ea x.wgt ((x.srcCount + 15) / 16 * ((x.dstCount + 15) / 16) * (32 * x.wb)))
          let mine := fun (v : Arrival) => match v with
            | .syn k .. => k == p.pop
            | .vec k .. => tiles.any (·.tile == k)
          let arr := (t.eng.get ea).arrivals.filter mine
          let t1 := (t.onEng ea fun x => { x with arrivals := x.arrivals.filter fun v => !mine v }).onEng eb fun x =>
            { x with arrivals := x.arrivals ++ arr }
          if (t1.eng.get eb).loading then t1.onEng eb fun x => { x with incoming := x.incoming ++ data }
          else forEach data (fun c u => u.sramPut eb c.1 c.2) t1
      | _, _, _ => t) m

end Mach

end Sys2Proof.Machine
end

