-- ==== Sys2Proof/Machine/LevelOps.lean ====
section
/-! DEFINITION. Levels, voltages, corrections and throttling of the dies (R310 to R321). -/

namespace Sys2Proof.Machine

namespace Mach

/-- An engine holds a role now: in the map in force, or in the one before it until B_(TN_EFF+1) (R193, R194). -/
def engHoldsRole (m : Mach) (e : Nat) : Bool :=
  (m.roleAt m.tick.tn (Fin.ofNat 72 e)).isSome ||
    m.fn.toList.any fun x => decide (m.tick.tn ≤ x.roles.eff) && x.roles.prev.binds.any fun b => b.2 == e

/-- The engines of a die that hold a role. -/
def roleEngines (m : Mach) (d : Nat) : List Nat := ((List.range 18).map (18 * d + ·)).filter m.engHoldsRole

/-- The floor plan's level of an engine (R438). -/
def engLevel (m : Mach) (e : Nat) : Nat := ((vat m.rst.dies (e / 18)).levels[e % 18]?).getD 0

/-- The lowest floor-plan level among the engines of a die that hold a role (R194, R314). -/
def fptCap (m : Mach) (d : Nat) : Nat := (m.roleEngines d).foldl (fun b e => min b (m.engLevel e)) 7

/-- The highest level that the limits other than the ledger allow (R314). -/
def levelCeiling (m : Mach) (d : Fin 4) : Nat :=
  let l := m.lvl.get d
  min (min m.gradePl l.limit) (min (m.fptCap d) l.tl)

/-- The level of a die (R314); with LEDGER_EN = 0 the other limits alone set it (R309). -/
def levelOf (m : Mach) (d : Fin 4) : Nat :=
  if m.on R.PWR_CTRL_LEDGER_EN then min (m.levelCeiling d) (m.lvl.get d).ledger else m.levelCeiling d

/-- The functions that R139 asks for Q ≥ 8: a role on the die, or a port it serves. -/
def dieFns (m : Mach) (d : Fin 4) : List (Fin 8) :=
  (List.finRange 8).filter fun f =>
    (List.finRange 16).any (fun (p : Fin 16) => p.1 / 4 == d.1 && m.own.port.get p == f) ||
      ((m.fn.get f).roles.at_ m.tick.tn).binds.any fun b => b.2 / 18 == d.1

/-- R139 but for the ledger's choice: the die may run the edge variant of a level in a tick. -/
def edgeElig (m : Mach) (d : Fin 4) (level tn : Nat) : Bool :=
  let l := m.lvl.get d
  decide (2 ≤ level) && decide (level ≤ m.gradePl) && m.on (R.ENG_D_DCTRL_EDGE_EN d) && l.holdLeft == 0 &&
    (m.dieFns d).all (fun f => let q := (m.fn.get f).quality; decide (8 ≤ (if tn < q.eff then q.prev else q.cur))) &&
    (m.roleEngines d).all (fun e => decide (level ≤ m.engLevel e))

/-- R139: the die runs the edge variant of its level in a tick where it may and EDGE_PREF is set (R314). -/
def edgeAllowed (m : Mach) (d : Fin 4) (level tn : Nat) : Bool := m.edgeElig d level tn && m.on R.PWR_CTRL_EDGE_PREF

/-- A die does not rise while AVS_FAIL stands after its own failure (R316). -/
def riseBlocked (m : Mach) (d : Fin 4) : Bool := (m.lvl.get d).blocked && m.on R.PWR_STAT_AVS_FAIL

/-- A die leaves the edge variant while its voltage is still the edge one: until a raise has brought the level's own voltage, the
clock runs at the next lower level, as after R140. R316 speaks of the old frequency there, but R139 allows no edge variant in such a
tick (DEDUCED, log 53). -/
def leaveEdge (d : Fin 4) (m : Mach) : Mach :=
  if (m.lvl.get d).edge then (m.setEdge d false).onLvl d fun x => { x with freq := min x.freq (x.volt - 1) } else m

/-- A die moves towards a level and variant at a boundary (R316): down at once, up by the voltage first. -/
def changeLevel (d : Fin 4) (level : Nat) (edge : Bool) (m : Mach) : Mach :=
  let l := m.lvl.get d
  if l.freq = level ∧ l.volt = level ∧ l.voltEdge = edge then (m.setEdge d edge).onLvl d fun x => { x with raising := none }
  else if plMv level edge ≤ plMv l.volt l.voltEdge then
    ((m.setEdge d edge).onLvl d fun x => { x with freq := level, volt := level, voltEdge := edge, raising := none }).emit
      (.avs d.1 level edge)
  else
    let m1 := if edge then m else m.leaveEdge d
    if m.riseBlocked d || l.raising == some (level, edge) then m1
    else
      (m1.onLvl d fun x => { x with freq := min x.freq level, raising := some (level, edge), avsAt := m.elapsed }).emit (.avs d.1 level edge)

/-- R312: hold a correction in its range; a clamp is counted and reported. -/
def clampK (lo hi : Int) (v : Int) (m : Mach) : Nat × Mach :=
  let c := clampI v lo hi
  if c = v then (c.toNat, m)
  else
    let m1 := (m.inc R.PWR_K_CLAMP).set1 R.PWR_STAT_K_CLAMP
    let fresh := match m1.led.clampAt with | some t => decide (10000000 ≤ m1.elapsed - t) | none => true
    (c.toNat, if fresh then (m1.onLed fun l => { l with clampAt := some m1.elapsed }).health H.ledgerClamp .package [] else m1)

/-- The quotient that R310 and R311 form with an estimator's energy. A quotient by 0 is stated nowhere: a free value. -/
def ratio (a b : Int) (m : Mach) : Int × Mach := if b = 0 then m.drawInt else (rnd a b, m)

/-- R311: a telemetry reading, in mW, or its failure. The estimator's energy of the 10 ms is open: a free value. -/
def telemetry (g : Fin 6) (mw : Option Nat) (m : Mach) : Mach :=
  if !m.on (R.PWR_R_CFG_PMB_EN g) then m
  else
    match mw with
    | some p =>
      let (est, m1) := m.drawNat
      let old : Int := m1.g (R.PWR_R_K_G g)
      let (v, m1) := m1.ratio (16384 * ((p : Int) * 10000)) est
      let (target, m2) := m1.clampK 8192 32768 v
      let s := min (m2.g R.PWR_CTRL_G_SHIFT) 8
      let new := old + ((target : Int) - old).fdiv (2 ^ s)
      (m2.put (R.PWR_R_P g) p).onLed fun l =>
        { l with gNext := vput l.gNext g (some new.toNat), pmbFails := vput l.pmbFails g 0, frozen := vput l.frozen g false }
    | none =>
      let n := m.led.pmbFails.get g + 1
      let m1 := (m.inc R.PWR_PMB_ERR).onLed fun l => { l with pmbFails := vput l.pmbFails g n }
      if n = 3 then
        ((m1.onLed fun l => { l with frozen := vput l.frozen g true }).set1 R.PWR_STAT_PMB_FAIL).health H.pmbusFail .package [g.1]
      else m1

/-! ## Raises, manual levels, droop (R316, R318, R320) -/

/-- R316: the regulator reports the target; the clock switches PL_SETTLE µs after the command at the earliest. -/
def avsReached (d : Fin 4) (m : Mach) : Mach :=
  match (m.lvl.get d).raising with
  | none => m
  | some (level, edge) =>
    let m1 := m.runToElapsed ((m.lvl.get d).avsAt + m.g R.CLK_AVS_PL_SETTLE * 1000)
    (m1.setEdge d edge).onLvl d fun x => { x with freq := level, volt := level, voltEdge := edge, raising := none }

/-- R316: no report within AVS_TMO µs. The die does not rise again until AVS_FAIL is cleared; dies that failed before a clearing of
AVS_FAIL are no longer held back. -/
def avsTimeout (d : Fin 4) (m : Mach) : Mach :=
  match (m.lvl.get d).raising with
  | none => m
  | some _ =>
    let l := m.lvl.get d
    let m0 := m.runToElapsed (l.avsAt + m.g R.CLK_AVS_AVS_TMO * 1000)
    let still := m0.on R.PWR_STAT_AVS_FAIL
    let ms : Mach := { m0 with lvl := m0.lvl.map fun x => { x with blocked := x.blocked && still } }
    let m1 := ms.onLvl d fun x => { x with raising := none, blocked := true }
    ((m1.emit (.avs d.1 l.volt l.voltEdge)).set1 R.PWR_STAT_AVS_FAIL).health H.avsFail (.die d.1) []

/-- Manual mode is permitted on a die (R318). -/
def manualOk (m : Mach) (d : Fin 4) : Bool :=
  !((List.range 4).any fun j => m.on (R.ING_CTRL_EN (4 * d.1 + j))) && (m.roleEngines d).isEmpty

/-- R318: a write to CLK_D_CTRL. Neither the levels written nor the step from those in force may put the frequency above the
voltage, and levels above 7 name none. A frequency at the level of an edge voltage is the edge variant, which R139 must allow
(DEDUCED, log 53). -/
def clkManual (d : Fin 4) (val : Word) (m : Mach) : Mach :=
  let v := val.toNat
  let man := bitN v 31
  let f := bitsN v 27 24
  let u := bitsN v 23 20
  let l := m.lvl.get d
  let e := bitN v 19 && decide (2 ≤ u)
  if man && !m.manualOk d then m.set1 (R.CLK_D_STAT_CFG_WR d)
  else if decide (u < f) || man && (decide (7 < f) || decide (7 < u) || decide (l.volt < f) || decide (u < l.freq) ||
      (e && f == u && !m.edgeElig d u m.tick.tn)) then
    m.set1 R.PWR_STAT_PL_SEQ_ERR
  else
    let m1 := m.wr (R.CLK_D_CTRL_A d) (val &&& 0x8FF8FFFF#32)
    if man then
      ((m1.setEdge d (e && f == u)).onLvl d fun x => { x with freq := f, volt := u, voltEdge := e, raising := none }).emit (.avs d.1 u e)
    else m1

/-- R320: the clock runs at half its frequency. -/
def droop (d : Fin 4) (m : Mach) : Mach :=
  match (m.lvl.get d).stretch with
  | some _ => m
  | none => (m.onLvl d fun x => { x with stretch := some m.elapsed }).inc (R.CLK_D_DROOP_EVENTS d)

/-- R320: the stretch ends, DROOP_MIN clocks of the halved clock after its start at the earliest. -/
def droopEnd (d : Fin 4) (m : Mach) : Mach :=
  match (m.lvl.get d).stretch with
  | none => m
  | some t =>
    let khz := plKhz (m.lvl.get d).freq
    let m1 := m.runToElapsed (t + ((m.g (R.CLK_D_CTRL_DROOP_MIN d) * 2000000 + khz - 1) / khz : Nat))
    let len := (m1.elapsed - t).toNat
    let m2 := (m1.onLvl d fun x => { x with stretch := none }).addTo (R.CLK_D_DROOP_NS d) len
    if m2.g R.CLK_DROOP_LONG * 1000 < len then
      let m3 := m2.inc (R.CLK_D_DROOP_LONG d)
      m3.health H.droopLong (.die d.1) []
    else m2

/-! ## Temperature (R321) -/

/-- THROTTLE in whole °C; values outside 85 to 110 act as 110. -/
def throttleAt (m : Mach) : Int := let t := m.g R.THM_CTRL_THROTTLE; if 85 ≤ t ∧ t ≤ 110 then t else 110

/-- The dies that a sensor acts on. -/
def sensorDies (s : Fin 24) : List (Fin 4) := if s.1 < 20 then [Fin.ofNat 4 (s.1 / 5)] else List.finRange 4

/-- One throttle step of a die. -/
def throttleDie (d : Fin 4) (m : Mach) : Mach :=
  let f := (m.lvl.get d).freq
  if f = 0 then m.onLvl d fun x => { x with tl := 0, tlFrom := m.elapsed }
  else
    let m1 := (m.emergency d (f - 1) none).onLvl d fun x => { x with tl := f - 1, tlFrom := m.elapsed }
    let m2 := m1.inc R.THM_THROTTLE_EVENTS
    m2.health H.throttle (.die d.1) []

/-- A sensor's reading, in Q8.8 °C, arrives; at THROTTLE or more its dies step down. -/
def thermal (s : Fin 24) (reading : Int) (m : Mach) : Mach :=
  let m1 := m.put (R.THM_S s) (toBits 16 reading)
  let m2 := if (m1.throttleAt - m1.g R.THM_CTRL_HYST) * 256 ≤ m1.sensor s then
      forEach (sensorDies s) (fun d t => t.onLvl d fun l => { l with warmAt := m1.elapsed }) m1
    else m1
  if m2.throttleAt * 256 ≤ m2.sensor s then forEach (sensorDies s) (fun d t => t.throttleDie d) m2 else m2

/-- The same after THM_REPEAT µs. -/
def thermalRepeat (s : Fin 24) (reading : Int) (m : Mach) : Mach :=
  let from_ := (sensorDies s).foldl (fun b d => max b (m.lvl.get d).tlFrom) 0
  (m.runToElapsed (from_ + atLeast1 (m.g R.THM_CTRL_REPEAT) * 1000)).thermal s reading

/-- Every sensor that acts on a die has read below THROTTLE − HYST for THM_RISE ms: TL rises one level. The readings
themselves are not given: those that stood higher become free values below the threshold. -/
def tlRise (d : Fin 4) (m : Mach) : Mach :=
  let l := m.lvl.get d
  if 7 ≤ l.tl then m
  else
    let top : Int := (m.throttleAt - m.g R.THM_CTRL_HYST) * 256
    let m1 := m.runToElapsed (max l.tlFrom l.warmAt + atLeast1 (m.g R.THM_RISE) * 1000000)
    let m2 := forEach (sensorsOf d ++ sensorsOf 4) (fun (s : Nat) t =>
      if t.sensor s < top then t else let (v, t1) := t.drawNat; t1.put (R.THM_S s) (toBits 16 (top - 1 - (v % 32768 : Nat)))) m1
    m2.onLvl d fun x => { x with tl := x.tl + 1, tlFrom := m2.elapsed }

end Mach

end Sys2Proof.Machine
end

