-- ==== Sys2Proof/Machine/GraphCmds.lean ====
section
/-! DEFINITION. Meanings of LOAD_GRAPH, its copy, UNLOAD_GRAPH, MAP_ROLES and the end of a role load (R186 to R195). -/

namespace Sys2Proof.Machine

namespace Mach

/-- R186: the checks before the copy; the first completion comes when the copy is done. -/
def loadGraph (h : CmdHdr) (image : List Byte) (len dst : Nat) (replaces : Option Nat) (m : Mach) : Mach :=
  if !m.fetchable h.fn then m
  else
    let cseq := (m.fn.get h.fn).cseq
    let m1 := m.fetch h.fn
    match ((m1.preCheck h 0x10).or (m1.judgeEff h 1)).or (m1.loadReject h.fn image len dst replaces) with
    | some c => (m1.inc R.HIF_CMD_REJECTED).cplWrite h.fn { op := 0x10, ctag := h.ctag, status := c, result := 0, cseq := cseq }
    | none =>
      (m1.shadow h.fn).onFn h.fn fun x =>
        { x with load := some { ctag := h.ctag, cseq := cseq, tnEff := m1.effOf h, dst := dst, replaces := replaces, bytes := sliceB image 0 len } }

/-- The lowest free package slot (R187). -/
def freeSlotNo (m : Mach) : Option Nat := (List.range 16).find? fun k => (m.images.find k).isNone

/-- R186, R187: the copy is done, the image is checked, and the first completion is written. -/
def loadCopyDone (f : Fin 8) (m : Mach) : Mach :=
  match (m.fn.get f).load with
  | none => m
  | some j =>
    let m0 := m.onFn f fun x => { x with load := none }
    let reject := fun (c : Nat) =>
      (m0.inc R.HIF_CMD_REJECTED).cplWrite f { op := 0x10, ctag := j.ctag, status := c, result := 0, cseq := j.cseq }
    let im := parseImage f j.dst j.bytes
    if !imageOk m.gradeId m.gradePl j.bytes then reject St.format
    else if (m0.imagesAt f j.tnEff).any fun s => some s.1 != j.replaces && claims im s.2 then reject St.state
    else match m0.freeSlotNo with
    | none => reject St.nospace
    | some slot =>
      let m1 := { m0.dramPut j.dst j.bytes with
        images := Tab.put m0.images slot im,
        pops := m0.pops ++ im.pops.mapIdx fun i (r : PopRec) => ({ fn := f, slot := slot, recIdx := i, role := r.role, pop := r.pop } : Pop) }
      let m2 := m1.onFn f fun x => { x with reroute := 0, routeDrop := 0, openCmds := x.openCmds ++ [j.cseq] }
      let m3 := m2.cplWrite f
        { op := 0x10, ctag := j.ctag, status := St.accepted, result := 0, cseq := j.cseq, d10 := slot, d18 := j.tnEff }
      if m3.tick.tn < j.tnEff then
        m3.pend { fn := f, op := 0x10, ctag := j.ctag, cseq := j.cseq, tnEff := j.tnEff, change := .loadGraph slot j.replaces }
      else (m3.activate slot j.replaces m3.tick.tn).done f 0x10 j.ctag j.cseq 0 0 []

/-- R189. -/
def unloadGraph (h : CmdHdr) (slot : Nat) (m : Mach) : Mach :=
  m.command h 0x11 true
    (fun t => (t.judgeEff h 1).or
      (match t.images.find slot with
       | some im => if im.fn == h.fn && imageActive t.tick.tn im then none else some St.format
       | none => some St.format))
    (fun cseq t =>
      let e := t.effOf h
      { m := t.pend { fn := h.fn, op := 0x11, ctag := h.ctag, cseq := cseq, tnEff := e, change := .unloadGraph slot }, d18 := e })

/-- The bindings of a MAP_ROLES table (R192): role, and the entry's die and engine number. -/
def mapEntries (table : List Byte) : List (Nat × Nat × Nat) :=
  (List.range 256).filterMap fun i =>
    let w := leN table (4 * i) 4
    if bitN w 31 then some (i, bitsN w 7 6, bitsN w 4 0) else none

/-- The checks of R192 after R44 and R45, in its order; a washing engine gives REJ_BUSY (R369). -/
def mapReject (m : Mach) (f : Fin 8) (tn : Nat) (es : List (Nat × Nat × Nat)) : Option Nat :=
  let idx := fun (x : Nat × Nat × Nat) => 18 * x.2.1 + x.2.2
  let real := es.filter fun x => decide (x.2.2 < 18)
  let ims := m.imagesAt f tn
  let breaks := fun (x : Nat × Nat × Nat) =>
    ims.any fun s =>
      match s.2.roleOf x.1 with
      | some r =>
        !bitN r.dieMask x.2.1 || decide (((vat m.rst.dies x.2.1).levels[x.2.2]?).getD 0 < r.minPl) ||
          (r.affine && es.any fun y => y.1 == r.affineRole && y.2.1 != x.2.1)
      | none => false
  if real.any fun x => !m.engGood (idx x) then some St.state
  else if real.any fun x => vat m.own.eng (idx x) != f then some St.owner
  else if real.any fun x => m.washing kindEngine (idx x) then some St.busy
  else if (es.any fun x => decide (17 < x.2.2)) || !decide (es.map idx).Nodup || es.any breaks then some St.format
  else none

/-- R192, R193, R195: the map is numbered; engines that hold no role load at once. -/
def mapRoles (h : CmdHdr) (table : List Byte) (m : Mach) : Mach :=
  let es := mapEntries table
  m.command h 0x12 true
    (fun t => (t.judgeEff h 2).or (t.mapReject h.fn (t.effOf h) es))
    (fun cseq t =>
      let eff := t.effOf h
      let epoch := ((t.fn.get h.fn).newest + 1) % 256
      let binds := es.map fun x => (x.1, 18 * x.2.1 + x.2.2)
      let ims := t.imagesAt h.fn eff
      let t1 := (t.onFn h.fn fun x => { x with newest := epoch }).pend
        { fn := h.fn, op := 0x12, ctag := h.ctag, cseq := cseq, tnEff := eff, change := .mapRoles epoch binds }
      let t2 := forEach binds (fun b u =>
        let e : Fin 72 := Fin.ofNat 72 b.2
        if u.engHoldsRole b.2 then u
        else
          match ims.find? fun s => (s.2.roleOf b.1).isSome with
          | some s => u.beginLoad e (h.fn, b.1, s.1)
          | none => u) t1
      { m := t2, d10 := epoch, d18 := eff })

/-- R195, R379: the load of an engine is done, and with the last of them the MAP_ROLES that asked for it. -/
def roleLoadDone (e : Fin 72) (m : Mach) : Mach := if (m.eng.get e).loading then (m.endLoad e).mapsDone else m

end Mach

/-- LOAD_GRAPH (R186). -/
def execLoadGraph (h : CmdHdr) (image : List Byte) (len dst : Nat) (replaces : Option Nat) (s : State) :=
  s.act (Mach.loadGraph h image len dst replaces)
/-- LOAD_GRAPH_COPY_DONE (R186). -/
def execLoadGraphCopyDone (f : Fin 8) (s : State) := s.act (Mach.loadCopyDone f)
/-- UNLOAD_GRAPH (R189). -/
def execUnloadGraph (h : CmdHdr) (slot : Nat) (s : State) := s.act (Mach.unloadGraph h slot)
/-- MAP_ROLES (R192). -/
def execMapRoles (h : CmdHdr) (table : List Byte) (s : State) := s.act (Mach.mapRoles h table)
/-- ROLE_LOAD_DONE (R195). -/
def execRoleLoadDone (e : Fin 72) (s : State) := s.act (Mach.roleLoadDone e)

end Sys2Proof.Machine
end

