-- ==== Sys2Proof/Machine/LinkOps.lean ====
section
/-! DEFINITION. The line-link ports: training, frames, replay, credits, time transfer, advertisements (R392 to R411). -/

namespace Sys2Proof.Machine

namespace Mach

/-! ## The refusal of handoffs (R402, R406) -/

/-- Every outstanding offer on a port that refuses handoffs ends, and its comet is given up (R246). -/
def refuseCheck (l : Fin 4) (m : Mach) : Mach :=
  if m.hoRefuse l then
    m.onFus fun u => { u with store := u.store.map fun (e : Nat × Track) =>
      match e.2.offer with
      | some (k, n, true) => if k = l.1 then (e.1, { e.2 with offer := some (k, n, false), deferred := some .gap }) else e
      | _ => e }
  else m

/-! ## Training (R393, R394) -/

/-- The level this side advertises. -/
def myLevel (m : Mach) (l : Fin 4) : Nat := min 2 (m.g (R.LNK_CTRL_LEVEL_MAX l))

/-- The line-link ports are off: in a package reset, in S3, and in S2 without LNK_ON (R323, R409). -/
def linksOff (m : Mach) : Bool :=
  m.rst.hold.isSome || m.sleep.state == 3 || (m.sleep.state == 2 && !m.on R.PWR_SLEEP_LNK_ON)

/-- The port trains. -/
def training (m : Mach) (l : Fin 4) : Bool := m.on (R.LNK_CTRL_EN l) && (m.link.get l).state != 2 && !m.linksOff

/-- STATE takes a value; CHG marks a change. -/
def setLinkState (l : Fin 4) (st : Nat) (m : Mach) : Mach :=
  if (m.link.get l).state = st then m else (m.onLink l fun x => { x with state := st }).set1 (R.LNK_STAT_CHG l)

/-- Training starts at step 1. -/
def startTraining (l : Fin 4) (m : Mach) : Mach :=
  let m1 := m.onLink l fun x =>
    { x with locked := false, trained := 0, peerTrain := none, trainSent := none, trainFrom := m.elapsed }
  (m1.setLinkState l 1).refuseCheck l

/-- A write of EN. -/
def linkEnable (l : Fin 4) (en : Bool) (m : Mach) : Mach :=
  if m.linksOff then m else
  let was := m.on (R.LNK_CTRL_EN l)
  let m1 := m.put (R.LNK_CTRL_EN l) en.toNat
  if en && !was then m1.startTraining l
  else if !en && was then (m1.setLinkState l 0).refuseCheck l
  else m1

/-- Training runs again. -/
def retrain (l : Fin 4) (m : Mach) : Mach :=
  if m.on (R.LNK_CTRL_EN l) && !m.linksOff then (m.inc (R.LNK_RETRAINS l)).startTraining l else m

/-- The TRAIN frame that this side sends. -/
def trainFrame (m : Mach) (l : Fin 4) : TrainFrame :=
  let x := m.link.get l
  { levelMax := m.myLevel l, levelMin := 1, credits := [4, 32, 64, 8], pkg := m.g R.FUS_CTRL_PKG_ID, resume := x.resume, expect := x.rxSeq }

/-- Step 2: a TRAIN frame every 10 µs once the lanes are locked. -/
def trainSend (l : Fin 4) (m : Mach) : Mach :=
  if !m.training l then m
  else
    let m1 := match (m.link.get l).trainSent with | some t => m.runToElapsed (t + 10000) | none => m
    let m2 := (m1.onLink l fun x => { x with locked := true, trainSent := some m1.elapsed }).setLinkState l 1
    (m2.inc (R.LNK_FRAMES_TX l)).emit (.link l (.train (m2.trainFrame l)) [])

/-! ## Replay (R396) -/

/-- Credits that a frame returns: at most 15 a lane. -/
def credOf (x : Link) : List Nat := x.owed.toList.map fun n => min n 15

/-- A frame leaves: it carries the acknowledgement and the credits owed. -/
def linkSend (l : Fin 4) (mk : Nat → List Nat → LinkTx) (m : Mach) : Mach :=
  let x := m.link.get l
  let tx := mk ((x.rxSeq + 65535) % 65536) (credOf x)
  let m1 := (m.emit (.link l tx tx.wire)).inc (R.LNK_FRAMES_TX l)
  m1.onLink l fun k => { k with owesAck := false, owed := k.owed.map (fun n => n - min n 15), quietFrom := m1.elapsed }

/-- A TT is stamped as it departs (R400). -/
def stampTt (l : Fin 4) (f : LinkFrame) (m : Mach) : LinkFrame × Mach :=
  if f.vl = 0 ∧ f.som then
    let t := m.time.n + m.gi (R.LNK_TS_COMP_TX_COMP l)
    ({ f with payload := f.payload.take 16 ++ bytesOfI 8 t ++ f.payload.drop 24 },
     m.onLink l fun x => { x with ttSent := ((t, m.time.steps) :: x.ttSent).take 8 })
  else (f, m)

/-- One kept frame is sent, again or for the first time. -/
def sendKept (l : Fin 4) (f : LinkFrame) (m : Mach) : Mach :=
  let (g, m1) := m.stampTt l f
  (m1.linkSend l fun a c => .data g a c).onLink l fun x => { x with replay := x.replay ++ [(g, m1.elapsed)] }

/-- Every kept frame is sent again, in order. -/
def resendAll (l : Fin 4) (m : Mach) : Mach :=
  let kept := (m.link.get l).replay.map (·.1)
  let m1 := (m.onLink l fun x => { x with replay := [], replays := x.replays + 1 }).inc (R.LNK_REPLAYS l)
  forEach kept (fun f t => t.sendKept l f) m1

/-- A replay is due: after REPLAY_MAX of them without progress the port retrains instead. -/
def replayOrRetrain (l : Fin 4) (m : Mach) : Mach :=
  if atLeast1 (m.g (R.LNK_REPLAY_REPLAY_MAX l)) ≤ (m.link.get l).replays then m.retrain l else m.resendAll l

/-- An acknowledgement covers the kept frames up to a sequence. -/
def ackTo (l : Fin 4) (seq : Nat) (m : Mach) : Mach :=
  m.onLink l fun x =>
    match x.replay.findIdx? fun f => f.1.seq == seq % 65536 with
    | some i => { x with replay := x.replay.drop (i + 1), replays := 0 }
    | none => x

/-- Returned credits. -/
def takeCredits (l : Fin 4) (cred : List Nat) (m : Mach) : Mach :=
  m.onLink l fun x => { x with credits := Vector.ofFn fun (v : Fin 4) => x.credits.get v + ((cred[v.1]?).getD 0) % 16 }

/-! ## Going UP (R393, R394) -/

/-- A lane's waiting frames after a restart: a message already begun is lost. -/
def dropTorn (fs : List LinkFrame) : List LinkFrame := fs.dropWhile fun f => !f.som

/-- Step 3. -/
def linkUp (l : Fin 4) (f : TrainFrame) (m : Mach) : Mach :=
  let x := m.link.get l
  let level := min (m.myLevel l) f.levelMax
  let m1 :=
    if x.resume && f.resume then
      ((m.onLink l fun k => { k with replays := 0 }).ackTo l (f.expect + 65535)).onLink l fun k => { k with replays := 0 }
    else
      m.onLink l fun k =>
        { k with txSeq := 0, rxSeq := 0, replay := [], replays := 0, owed := Vector.replicate 4 0, owesAck := false,
                 rxPart := Vector.replicate 4 ([], 0), sendq := k.sendq.map dropTorn,
                 rxMsgs := k.rxMsgs.map (fun (y : LinkMsg) => { y with frames := 0 }), held := k.held.map (fun (y : LinkMsg) => { y with frames := 0 }),
                 credits := Vector.ofFn fun (v : Fin 4) => (f.credits[v.1]?).getD 0 }
  let m2 := m1.onLink l fun k =>
    { k with level := level, resume := true, naked := false, trained := 0, peerTrain := none, theta := none, quietFrom := m1.elapsed, advertised := none }
  let m3 := (m2.setLinkState l 2).health H.linkUp (.link l) []
  if x.resume && f.resume && !(m3.link.get l).replay.isEmpty then m3.resendAll l else m3

/-- A TRAIN frame arrives. -/
def trainRx (l : Fin 4) (f : TrainFrame) (m : Mach) : Mach :=
  if !m.training l then m
  else
    let x := m.link.get l
    let n := if x.peerTrain = some f then x.trained + 1 else 1
    let m1 := ((m.inc (R.LNK_FRAMES_RX l)).onLink l fun k => { k with locked := true, trained := n, peerTrain := some f }).setLinkState l 1
    if n < 3 then m1
    else if f.levelMax = 0 then
      if m1.on (R.LNK_STAT_LEVEL_ERR l) then m1 else (m1.set1 (R.LNK_STAT_LEVEL_ERR l)).health H.linkLevel (.link l) []
    else m1.linkUp l f

/-- LINK_TMO ms pass without step 3. -/
def trainTimeout (l : Fin 4) (m : Mach) : Mach :=
  if !m.training l then m
  else
    let m1 := m.runToElapsed ((m.link.get l).trainFrom + atLeast1 (m.g (R.LNK_REPLAY_LINK_TMO l)) * 1000000)
    let m2 := m1.onLink l fun x =>
      { x with replay := [], resume := false, locked := false, trained := 0, peerTrain := none, trainSent := none, trainFrom := m1.elapsed }
    (m2.setLinkState l 0).health H.linkDown (.link l) []

/-! ## DATA frames (R395 to R399) -/

/-- Bytes of a frame on the wire. -/
def frameSize (f : LinkFrame) : Nat := 20 + f.payload.length

/-- Lanes with frames to send, in their priority (R397). -/
def lanesWaiting (x : Link) : List (Fin 4) := (List.finRange 4).filter fun (v : Fin 4) => !(x.sendq.get v).isEmpty

/-- The lane that sends next: the first with a frame and a credit for it (R397). -/
def laneNext (x : Link) : Option (Fin 4) := (lanesWaiting x).find? fun (v : Fin 4) => x.credits.get v != 0

/-- The replay buffer has room for a new frame (R396). -/
def replayRoom (x : Link) (f : LinkFrame) : Bool := decide ((x.replay.map fun k => frameSize k.1).sum + frameSize f ≤ 65536)

/-- The port has a frame that it may send now (R396, R397). -/
def mayPutFrame (x : Link) : Bool :=
  match laneNext x with
  | some v => (x.sendq.get v).head?.elim false (replayRoom x)
  | none => false

/-- R396, R397: the next frame of the first lane that has one and a credit for it. -/
def dataSend (l : Fin 4) (m : Mach) : Mach :=
  let x := m.link.get l
  let waits := lanesWaiting x
  if x.state ≠ 2 ∨ waits.isEmpty then m
  else
    let lane := laneNext x
    let stalled := (waits.filter fun (v : Fin 4) => x.credits.get v == 0 && (match lane with | some k => decide (v.1 < k.1) | none => true)).length
    let m1 := m.addTo (R.LNK_CREDIT_STALL l) stalled
    match lane with
    | none => m1
    | some v =>
      match x.sendq.get v with
      | [] => m1
      | f :: rest =>
        if !replayRoom x f then m1
        else
          let m2 := m1.onLink l fun k =>
            { k with sendq := vput k.sendq v rest, credits := vmod k.credits v (· - 1), txSeq := (k.txSeq + 1) % 65536 }
          m2.sendKept l { f with seq := x.txSeq }

/-- A DATA frame is discarded: one NAK after the last taken frame. -/
def dataDiscard (l : Fin 4) (c : Fld) (m : Mach) : Mach :=
  let m1 := m.inc c
  if (m1.link.get l).naked then m1
  else
    let seq := (m1.link.get l).rxSeq
    ((m1.onLink l fun x => { x with naked := true }).inc (R.LNK_NAK_TX l)).linkSend l fun a cr => .nak seq a cr

/-- The highest format of a type at a level (R399). -/
def topFmt (mtype level : Nat) : Nat := if mtype = mtTt ∨ mtype = mtCurds then level else 1

/-- The fewest bytes that a message of a type holds (R398 to R407): its header and what its rule puts behind it. -/
def leastSize (mtype fmt count : Nat) : Nat :=
  if mtype = mtOffer then 0x120
  else if mtype = mtReply then 0x18
  else if mtype = mtCurds then 16 + 32 * count
  else if mtype = mtTt then (if 2 ≤ fmt then 0x2C else 0x28)
  else 0x24

/-- A complete message: judged by lane, type, length and format (R399), then held for its tick or laid ready (R408). -/
def messageDone (l : Fin 4) (vl : Fin 4) (b : List Byte) (frames : Nat) (m : Mach) : Mach :=
  let x : LinkMsg :=
    { mtype := byteAt b 0, fmt := byteAt b 1 / 16, func := byteAt b 1 % 8, count := byteAt b 4, tn := leN b 8 6, vl := vl, frames := frames,
      bytes := b, arrived := m.time.n, doneTn := m.tick.tn }
  let size := leN b 2 2
  if x.mtype = 0 ∨ 5 < x.mtype ∨ laneOf x.mtype ≠ vl ∨ (size + 3) / 4 * 4 ≠ b.length ∨ size < leastSize x.mtype x.fmt x.count then (m.inc (R.LNK_MSG_BAD l)).freeMsg l x
  else if topFmt x.mtype (m.link.get l).level < x.fmt then (m.inc (R.LNK_MSG_FMT l)).freeMsg l x
  else
    let m1 := if x.mtype = mtTt then m else m.touchIdle
    if x.mtype ≤ 3 ∧ m1.tick.tn < x.tn then
      (if x.mtype = mtCurds then m1 else m1.inc (R.LNK_HELD l)).onLink l fun k => { k with held := k.held ++ [x] }
    else m1.onLink l fun k => { k with rxMsgs := k.rxMsgs ++ [x] }

/-- A taken frame's payload joins its lane's message (R398). -/
def segment (l : Fin 4) (f : LinkFrame) (m : Mach) : Mach :=
  let (have_, n) := (m.link.get l).rxPart.get f.vl
  if !f.som && n == 0 then
    (m.inc (R.LNK_MSG_BAD l)).onLink l fun x => { x with owed := vmod x.owed f.vl (· + 1) }
  else
    let torn := f.som && n != 0
    let m1 := if torn then (m.inc (R.LNK_MSG_BAD l)).onLink l fun x => { x with owed := vmod x.owed f.vl (· + n) } else m
    let b := if f.som then f.payload else have_ ++ f.payload
    let k := if f.som then 1 else n + 1
    if f.eom then (m1.onLink l fun x => { x with rxPart := vput x.rxPart f.vl ([], 0) }).messageDone l f.vl b k
    else m1.onLink l fun x => { x with rxPart := vput x.rxPart f.vl (b, k) }

/-- R396: a DATA frame arrives. -/
def dataRx (l : Fin 4) (f : LinkFrame) (crcOk : Bool) (ack : Nat) (cred : List Nat) (m : Mach) : Mach :=
  let x := m.link.get l
  if x.state ≠ 2 then m
  else
    let m1 := m.inc (R.LNK_FRAMES_RX l)
    if !crcOk then m1.dataDiscard l (R.LNK_CRC_BAD l)
    else if f.seq ≠ x.rxSeq then m1.dataDiscard l (R.LNK_SEQ_BAD l)
    else
      let fresh := !x.owesAck && x.owed.toList.all (· == 0)
      let m2 := m1.onLink l fun k =>
        { k with rxSeq := (k.rxSeq + 1) % 65536, naked := false, owesAck := true, quietFrom := if fresh then m1.elapsed else k.quietFrom }
      ((m2.ackTo l ack).takeCredits l cred).segment l f

/-- A NAK arrives: it acknowledges what lies below the sequence expected, and the rest is replayed. -/
def nakRx (l : Fin 4) (seq ack : Nat) (cred : List Nat) (m : Mach) : Mach :=
  if (m.link.get l).state ≠ 2 then m
  else
    let m1 := ((((m.inc (R.LNK_FRAMES_RX l)).ackTo l ack).ackTo l (seq + 65535)).takeCredits l cred)
    if (m1.link.get l).replay.isEmpty then m1 else m1.replayOrRetrain l

/-- A CREDIT frame arrives. -/
def creditRx (l : Fin 4) (ack : Nat) (cred : List Nat) (m : Mach) : Mach :=
  if (m.link.get l).state ≠ 2 then m else ((m.inc (R.LNK_FRAMES_RX l)).ackTo l ack).takeCredits l cred

/-- R396: 1 µs with nothing to send while something is owed. -/
def creditSend (l : Fin 4) (m : Mach) : Mach :=
  let x := m.link.get l
  if x.state ≠ 2 ∨ mayPutFrame x ∨ !(x.owesAck || x.owed.toList.any (· != 0)) then m
  else (m.runToElapsed (x.quietFrom + 1000)).linkSend l fun a c => .credit a c

/-- REPLAY_TMO µs pass without the oldest kept frame being acknowledged. -/
def replayTmo (l : Fin 4) (m : Mach) : Mach :=
  let x := m.link.get l
  match x.state, x.replay with
  | 2, (_, t) :: _ => (m.runToElapsed (t + atLeast1 (m.g (R.LNK_REPLAY_REPLAY_TMO l)) * 1000)).replayOrRetrain l
  | _, _ => m

/-! ## Messages taken in their order -/

/-- Take the oldest complete message of a type. -/
def takeMsg (l : Fin 4) (mtype : Nat) (m : Mach) : Option LinkMsg × Mach :=
  let x := m.link.get l
  match x.rxMsgs.findIdx? fun y => y.mtype == mtype with
  | some i => (x.rxMsgs[i]?, m.onLink l fun k => { k with rxMsgs := k.rxMsgs.eraseIdx i })
  | none => (none, m)

/-! ## Time transfer (R400, R401) -/

/-- Staged LNK registers take effect at a TT instant (R411). -/
def applyLinkStaged (l : Fin 4) (m : Mach) : Mach :=
  let m1 := forEach (m.link.get l).staged (fun (e : Nat × Word) t => t.wr e.1 e.2) m
  m1.onLink l fun x => { x with staged := [] }

/-- The servo takes its samples from this link. -/
def srcLink (m : Mach) (l : Fin 4) : Bool := m.g R.TIM_SRV_CFG_SRC == 1 && m.g R.TIM_SRV_CFG_LNK == l.1

/-- At the next whole millisecond, a TT message from an UP port. -/
def ttSend (l : Fin 4) (m : Mach) : Mach :=
  let next := -((-m.time.n).fdiv 1000000) * 1000000
  let at_ := if (m.link.get l).ttAt = some next then next + 1000000 else next
  let m1 := ((m.runTo at_).onLink l fun x => { x with ttAt := some at_ }).applyLinkStaged l
  let x := m1.link.get l
  let (e1, e2) := x.echo.getD (0, 0)
  let tail : List Byte := if 2 ≤ x.level then [BitVec.ofNat 8 (m1.time.quality.code + b2n (m1.srcLink l) 2), 0, 0, 0] else []
  m1.sendMsg l mtTt (topFmt mtTt x.level) 0 0 m1.tick.tn (List.replicate 8 0 ++ bytesOfI 8 e1 ++ bytesOfI 8 e2 ++ tail)

/-- A step of local station time lies between t1 and t4 (R401). -/
def stepBetween (m : Mach) (l : Fin 4) (t1 t4 : Int) : Bool :=
  match (m.link.get l).ttSent.find? fun e => e.1 == t1 with
  | some (_, k) => k != m.time.steps
  | none => match m.time.lastStep with | some (b, a) => decide (t1 ≤ b) && decide (a ≤ t4) | none => false

/-- The offset is judged against SKEW_GUARD (R402). -/
def judgeSkew (l : Fin 4) (theta : Int) (m : Mach) : Mach :=
  let guard := m.g (R.LNK_SKEW_SKEW_GUARD l)
  let x := m.link.get l
  if guard < theta.natAbs ∧ !x.skew then (m.onLink l fun k => { k with skew := true }).health H.linkSkew (.link l) []
  else if 2 * theta.natAbs ≤ guard then m.onLink l fun k => { k with skew := false }
  else m

/-- R401: the oldest TT. -/
def ttRx (l : Fin 4) (m : Mach) : Mach :=
  match m.takeMsg l mtTt with
  | (none, _) => m
  | (some x, m1) =>
    let t4 := x.arrived + m.gi (R.LNK_TS_COMP_RX_COMP l)
    let t3 := leI x.bytes 0x10 8
    let t1 := leI x.bytes 0x18 8
    let t2 := leI x.bytes 0x20 8
    let m2 := ((m1.freeMsg l x).inc (R.LNK_TT_RX l)).onLink l fun k => { k with echo := some (t3, t4) }
    if t1 = 0 ∨ t2 = 0 ∨ 2000000 < t4 - t1 ∨ m2.stepBetween l t1 t4 then m2.inc (R.LNK_TT_BAD l)
    else
      let theta := rnd ((t4 - t3) - (t2 - t1) - m2.gi (R.LNK_ASYM l)) 2
      let d := rnd ((t4 - t3) + (t2 - t1)) 2
      let loop := decide (2 ≤ x.fmt) && bitN (byteAt x.bytes 0x28) 2 && m2.srcLink l
      let m3 := (m2.onLink l fun k => { k with theta := some (theta, d), ofs := (theta, d), loop := loop }).judgeSkew l theta
      (if m3.srcLink l && !loop then m3.servoSample theta t4 else m3).refuseCheck l

/-- R411: a read of LNK_OFS_LO. -/
def ofsRead (l : Fin 4) (m : Mach) : Mach :=
  let (theta, d) := (m.link.get l).ofs
  let v := toBits 64 theta
  ((m.wr (R.LNK_OFS_HI_A l) (BitVec.ofNat 32 (v / 2 ^ 32))).wr (R.LNK_DELAY_A l) (BitVec.ofNat 32 (toBits 32 d))).emit
    (.readValue (R.LNK_OFS_LO_A l) (BitVec.ofNat 32 v))

/-! ## Advertisements (R403) -/

/-- The values an ADVERT carries now. -/
def advertNow (m : Mach) (l : Fin 4) : Nat × Nat × Nat × Int := (m.g R.FUS_CTRL_PKG_ID, m.myLevel l, m.tick.period, m.tick.origin)

/-- At link-up and on a change at once, else every 100 ms. -/
def advertSend (l : Fin 4) (m : Mach) : Mach :=
  let x := m.link.get l
  if x.state ≠ 2 then m
  else
    let m1 := if x.advertised = some (m.advertNow l) then m.runToElapsed (x.advAt + 100000000) else m
    let v := m1.advertNow l
    (m1.onLink l fun k => { k with advertised := some v, advAt := m1.elapsed }).sendMsg l mtAdvert 1 0 0 m1.tick.tn
      (bytesOf 1 v.1 ++ bytesOf 1 v.2.1 ++ bytesOf 2 v.2.2.1 ++ [0, 0, 0, 0] ++ bytesOfI 8 v.2.2.2 ++ bytesOf 4 m1.chip.fwVer)

/-- A tick change moves the origin so that its boundary stays where it was (R47). -/
def changedOrigin (origin : Int) (period tn newPeriod : Nat) : Int :=
  origin + (tn : Int) * period * 1000 - (tn : Int) * newPeriod * 1000

/-- TICK_PERIOD and TICK_ORIGIN in force at a tick, pending changes included (R403). -/
def tickValuesAt (m : Mach) (tn : Nat) : Nat × Int :=
  if m.tick.tn < tn then
    m.tick.pending.foldl (fun (v : Nat × Int) p =>
      if tn < p.tnEff then v
      else match p.change with
        | .tickChange q => (q, changedOrigin v.2 v.1 p.tnEff q)
        | _ => v) (m.tick.period, m.tick.origin)
  else
    match m.acct? tn with
    | some a => if a.period = m.tick.period then (m.tick.period, m.tick.origin) else (a.period, changedOrigin m.tick.origin m.tick.period (tn + 1) a.period)
    | none => (m.tick.period, m.tick.origin)

/-- The oldest ADVERT. -/
def advertRx (l : Fin 4) (m : Mach) : Mach :=
  match m.takeMsg l mtAdvert with
  | (none, _) => m
  | (some x, m1) =>
    let pkg := byteAt x.bytes 0x10
    let agree := decide (m.tickValuesAt x.tn = (leN x.bytes 0x12 2, leI x.bytes 0x18 8))
    let was := (m.link.get l).tickCfg
    let m2 := (m1.freeMsg l x).onLink l fun k =>
      { k with peerPkg := pkg, peerLevel := byteAt x.bytes 0x11 % 16, peerFw := leN x.bytes 0x20 4, tickCfg := !agree,
               dup := pkg == m.g R.FUS_CTRL_PKG_ID }
    (if !agree && !was then m2.health H.linkTickCfg (.link l) [] else m2).refuseCheck l

/-! ## Handoffs and curds (R404 to R408) -/

/-- The oldest offer, when it can be answered without the fusion of its tick: the port refuses, no mapping, or a CID it has
replied to. Every other offer waits for that fusion (R408). -/
def offerRx (l : Fin 4) (m : Mach) : Mach :=
  match m.takeMsg l mtOffer with
  | (none, _) => m
  | (some x, m1) =>
    let cid := (Comet.of (x.bytes.drop 0x20)).cid
    if m1.hoRefuse l || (m1.mapFunc l x.func).isNone || (m1.link.get l).replied.any (·.1 == cid) then
      m1.takeOffer l x x.doneTn m1.time.n (m1.tick.period * 1000)
    else m

/-- The oldest reply, once no earlier tick waits for its fusion. -/
def replyRx (l : Fin 4) (m : Mach) : Mach :=
  match m.takeMsg l mtReply with
  | (none, _) => m
  | (some x, m1) =>
    let early := match m1.nextFuse with | some a => decide (a.tn < x.doneTn) | none => false
    if early then m else m1.takeReply l x x.doneTn

/-- The end of a tick: of its account, or as the values in force give it. -/
def endOfTick (m : Mach) (n : Nat) : Int := match (m.acct? n).bind (·.tEnd) with | some t => t | none => m.bnd (n + 1)

/-- A curd measured by the neighbour (R407). -/
def remoteCurd (l : Fin 4) (tn : Nat) (b : List Byte) : RemoteCurd :=
  let w := leN b 0x10 2
  { link := l.1, tn := tn, md := leI b 0 8, cd := leI b 8 4, ev := leN b 0xC 4, port := w / 4096, index := w % 1024, bad := byteAt b 0x12 % 16 != 0 }

/-- The oldest CURDS message: it waits for its pairing, or comes too late (R407 to R409). -/
def curdsRx (l : Fin 4) (m : Mach) : Mach :=
  match m.takeMsg l mtCurds with
  | (none, _) => m
  | (some x, m1) =>
    let m2 := m1.freeMsg l x
    let tooOld := decide (x.tn + 2 ≤ x.doneTn)
    let afterPairing := decide (x.tn < x.doneTn) && decide (m2.endOfTick x.tn + m2.g (R.LNK_SKEW_LINK_WAIT l) * 1000 < x.arrived)
    if tooOld || afterPairing || !m2.working then m2.inc (R.LNK_CURD_LATE l)
    else
      let n := min x.count ((x.bytes.length - 16) / 32)
      (m2.inc (R.LNK_CURD_RX l)).onFus fun u =>
        { u with remote := u.remote ++ (List.range n).map fun i => remoteCurd l x.tn (sliceB x.bytes (16 + 32 * i) 32) }

/-- R407: the pairing of a port's LINK entries for the oldest tick that waits for it. -/
def linkPairing (l : Fin 4) (m : Mach) : Mach :=
  match sortNat ((m.fus.mine.filter fun c => decide ((m.link.get l).pairedTo ≤ c.tn)).map (·.tn)) with
  | [] => m
  | n :: _ =>
    let m1 := m.runTo (m.endOfTick n + m.g (R.LNK_SKEW_LINK_WAIT l) * 1000)
    let m2 := forEach (List.finRange 16) (fun (i : Fin 16) t =>
      if t.on (R.FUS_OVL_CFG_VALID i) && t.on (R.FUS_OVL_CFG_LINK i) && t.g (R.FUS_OVL_CFG_LNK i) == l.1 then
        let la := (t.fus.mine.filter fun c => c.tn == n && c.port == t.g (R.FUS_OVL_CFG_PORT_A i) && t.pairable i c.cd c.ev c.bad).map fun c => (c.md, c.cd)
        let lb := (t.fus.remote.filter fun c => c.tn == n && c.link == l.1 && t.pairable i c.cd c.ev c.bad).map fun c => (c.md, c.cd)
        t.addPairs i (pairUp (t.g R.FUS_CAL_LIM_PAIR_GATE) la lb)
      else t) m1
    (m2.onLink l fun x => { x with pairedTo := n + 1 }).onFus fun u =>
      { u with remote := u.remote.filter fun c => !(c.link == l.1 && decide (c.tn ≤ n)) }

/-- Messages held for tick k are handled when B_k arrives (R408). -/
def releaseHeld (k : Nat) (m : Mach) : Mach :=
  forEach (List.finRange 4) (fun (l : Fin 4) t =>
    t.onLink l fun x =>
      { x with rxMsgs := x.rxMsgs ++ (x.held.filter fun y => decide (y.tn ≤ k)).map (fun (y : LinkMsg) => { y with doneTn := k }),
               held := x.held.filter fun y => !decide (y.tn ≤ k) }) m

end Mach

end Sys2Proof.Machine
end

