-- ==== Sys2Proof/Machine/RecOps.lean ====
section
/-! DEFINITION. Records on their way: delivery to host rings, commit groups, the journal store (R269 to R283, R453 to R460). -/

namespace Sys2Proof.Machine

/-- The report ring of a class (R270). -/
def rptRing (c : Fin 4) : Fin 7 := ⟨2 + c.1, by omega⟩

/-- The delivery state of a class's report ring, and its interrupt vector (R284, R375). -/
def rptDelivery (c : Fin 4) : Fin 5 := ⟨1 + c.1, by omega⟩
def rptVector (c : Fin 4) : Fin 6 := ⟨1 + c.1, by omega⟩

/-- The same record: a stream issues an RSN once (R256). -/
def JRec.same (a b : JRec) : Bool := a.fn == b.fn && a.cls == b.cls && a.epoch == b.epoch && a.count == b.count

namespace Mach

/-! ## Delivery to the host (R269, R270, R284) -/

/-- Change one record of the journal. -/
def onRec (r : JRec) (f : JRec → JRec) (m : Mach) : Mach :=
  m.onJnl fun j => { j with recs := j.recs.map fun x => if x.same r then f x else x }

/-- Ring writes have stopped: a reset, step 2 of R280, or a hub that is off. -/
def ringsStopped (m : Mach) : Bool := m.jnl.pf.isSome || m.rst.hold.isSome || decide (2 ≤ m.sleep.state)

/-- The report ring of a class takes an entry now (R373, R386, R388). -/
def rptOpen (m : Mach) (f : Fin 8) (c : Fin 4) : Bool :=
  !m.ringsStopped && !(m.fn.get f).flrBusy && !(m.fn.get f).retained.contains c.1 && decide (0 < m.ringRoom f (rptRing c))

/-- The store can start a command. -/
def storeIdle (m : Mach) : Bool := m.nvs.state == 2 && m.nvs.op.isNone

/-- The record is the next of its stream, released, and its ring has room; one freed early needs the store (R460). -/
def deliverable (m : Mach) (r : JRec) : Bool :=
  (match m.streamHead r.fn r.cls with | some h => h.same r | none => false) && r.released && m.rptOpen r.fn (Fin.ofNat 4 r.cls) &&
    (!r.early || m.storeIdle)

/-- The reader's next record (R269): the lowest class, then the order in which records were written. -/
def readerNext (m : Mach) : Option JRec :=
  (m.jnl.recs.filter m.deliverable).foldl (fun b r =>
    match b with
    | some x => if r.cls < x.cls then some r else b
    | none => some r) none

/-- The snapshot of R282. -/
def snapshotData (m : Mach) : SnapData :=
  { t := m.time.n, firstGseq := m.jnl.pfFirst, epoch := m.jnl.epoch, actions := m.jnl.actions, next := m.jnl.next.toList,
    delivery := m.jnl.delivery.toList, rules := m.jnl.rules.toList.map (·.cur) }

/-- What an NVMe command writes: the units of the group that is being made durable (R456). The superblock's layout is not stated. -/
def nvmeData (m : Mach) (op : NvmeOp) : List Byte :=
  match op, m.jnl.group with
  | .groupWrite, some g => (g.bytes m.snapshotData.bytes).take (4096 * g.units)
  | _, _ => []

/-- Issue an NVMe command (R453). -/
def nvmeIssue (op : NvmeOp) (m : Mach) : Mach :=
  (m.onNvs fun n => { n with op := some op, tries := 0, retryWait := false, opAt := m.elapsed }).emit (.nvme op (m.nvmeData op))

/-- A record that leaves after its bound counts as late in the tick that runs (R42). -/
def countLate (r : JRec) (m : Mach) : Mach :=
  if r.bound < m.time.n then m.onRunning fun a => { a with late := a.late + 1 } else m

/-- Delivery reads a record's journal slot through the system cache (R450), from the first copy of its bank that is reachable. Whether
the journal prefetcher has read the slot before (R452), and so brought the line in, is a free choice. -/
def readSlot (r : JRec) (m : Mach) : Mach :=
  match m.copiesOf r.bank with
  | [] => m
  | d :: _ =>
    let line := slotAddr d.1 r.slot / 64
    let (ahead, m1) := m.drawNat
    (if ahead % 2 = 1 then m1.scRead line else m1).scRead line

/-- One record has been delivered to its host ring: its 64 bytes with the slot's phase, the delivery state, the late count, its slot
(R41, R42, R254, R273, R284). -/
def deliverRec (r : JRec) (m : Mach) : Mach :=
  let c : Fin 4 := Fin.ofNat 4 r.cls
  let ring := rptRing c
  let size := m.ringSize r.fn ring
  let k := (m.ring r.fn ring).count
  let phase := phaseOf size k
  let m0 := m.readSlot r
  let m1 := ((m0.emit (.report r.fn r.cls (k % size) phase r (r.bytes phase))).ringWrote r.fn ring (rptVector c)).onRec r fun x =>
    { x with hostDone := true }
  let m2 := m1.advanceDelivery r.fn (rptDelivery c) ring (m1.nextRsn r.fn c)
  (m2.countLate r).freeSlots

/-- R269: the reader takes its next record, when that is one of this stream. -/
def deliver (f : Fin 8) (c : Fin 4) (m : Mach) : Mach :=
  match m.readerNext with
  | some r =>
    if r.fn = f ∧ r.cls = c.1 then
      if r.early then m.nvmeIssue (.readBack r.fn r.cls r.count) else m.deliverRec r
    else m
  | none => m

/-! ## Commit groups (R273 to R275, R456) -/

/-- A durable group still holds a record that is not delivered on every path (R456). -/
def groupLive (m : Mach) (g : Group) : Bool := g.recs.any fun r => m.jnl.recs.any fun x => x.same r

/-- Units of the log that hold undelivered groups (NVS_LIVE). -/
def liveUnits (m : Mach) : Nat := ((m.nvs.log.filter fun e => m.groupLive e.2).map fun e => e.2.units).sum

/-- The unit a group of n units starts at (R456). -/
def placeGroup (m : Mach) (n : Nat) : Nat := if m.nvs.units < m.nvs.unit + n then 2 else m.nvs.unit

/-- Two ranges of units meet. -/
def overlaps (a n b k : Nat) : Bool := decide (a < b + k) && decide (b < a + n)

/-- The uncommitted records, in the order they were written. -/
def toCommit (m : Mach) : List JRec := m.jnl.recs.filter fun r => !r.committed

/-- A group's common fields. -/
def newGroup (m : Mach) (recs : List JRec) (snapshot : Nat) : Group :=
  { gseq := m.jnl.gseq + 1, recs := recs, snapshot := snapshot, final := snapshot == 3,
    mirrorLost := !m.jnl.copies.toList.all id || !m.on R.JNL_CTRL_MIRROR_EN, epoch := m.jnl.epoch, t := m.time.n }

/-- Write the next group, or find the log full (R456). -/
def startGroup (g : Group) (m : Mach) : Mach :=
  let n := g.units
  let u := m.placeGroup n
  let hit := fun (e : Nat × Group) => overlaps u n e.1 e.2.units
  if m.nvs.log.any fun e => hit e && m.groupLive e.2 then
    if m.nvs.state = 4 then m
    else (m.onNvs fun x => { x with state := 4 }).health H.storeFull .store []
  else
    let m1 := m.onNvs fun x => { x with state := 2, unit := u, flushed := false, log := x.log.filter fun e => !hit e }
    (m1.onJnl fun j => { j with gseq := g.gseq, group := some g }).nvmeIssue .groupWrite

/-- The store takes groups: in use, UP or FULL, nothing in flight. -/
def canCommit (m : Mach) : Bool :=
  m.storeInUse && (m.nvs.state == 2 || m.nvs.state == 4) && m.nvs.op.isNone && m.jnl.group.isNone && m.rst.hold.isNone

/-- R275: 1,016 uncommitted records, or MAX_AGE after the oldest; in a final commit at once, and then the snapshot (R280). -/
def formGroup (m : Mach) : Mach :=
  if !m.canCommit then m
  else
    let l := m.toCommit
    match m.jnl.pf with
    | some (.committing parts) =>
      if !l.isEmpty then m.startGroup (m.newGroup (l.take 1016) 0)
      else if parts < 3 then m.startGroup (m.newGroup [] (parts + 1))
      else m
    | some .done => m
    | none =>
      match l with
      | [] => m
      | r :: _ =>
        let m1 := if 1016 ≤ l.length then m else m.runTo (r.at_ + m.g R.JNL_COMMIT_MAX_AGE * 1000)
        m1.startGroup (m1.newGroup (l.take 1016) 0)

/-- R275: the group's Flush has completed; its records are committed. -/
def groupDurable (m : Mach) : Mach :=
  match m.jnl.group with
  | none => m
  | some g =>
    if !m.nvs.flushed then m
    else
      let m1 := m.onNvs fun n =>
        { n with flushed := false, log := n.log ++ [(n.unit, g)], unit := n.unit + g.units, sbGroups := n.sbGroups + 1,
                 lastGseq := g.gseq, snap := if g.final then some m.snapshotData else n.snap }
      let m2 := m1.onJnl fun j =>
        { j with group := none, recs := j.recs.map fun r => if g.recs.any (JRec.same r) then { r with committed := true } else r,
                 pf := match j.pf with
                   | some (.committing p) => some (.committing (if 0 < g.snapshot then g.snapshot else p))
                   | o => o }
      (m2.inc R.JNL_COMMITS).freeSlots

/-! ## Hold-up (R276) and power failure (R280, R281) -/

/-- R276: the sample at the next whole multiple of 10,000 ns; an input above 1.2 V reads 1,200 mV (R480). -/
def holdupSample (mv : Nat) (m : Mach) : Mach :=
  let m1 := m.runTo ((m.time.n.fdiv 10000 + 1) * 10000)
  let v := (rnd ((min mv 1200 : Nat) * m1.g R.JNL_HU_DIV) (2 ^ 24)).toNat
  let vmin := m1.g R.JNL_HU_VMIN
  let e := if v ≤ vmin then 0 else m1.g R.JNL_HU_C * (v * v - vmin * vmin) / 2000000
  (m1.put R.JNL_HU_V (satN v (2 ^ 32 - 1))).put R.JNL_HU_E (satN e (2 ^ 32 - 1))

/-- R280, R281: PWR_FAIL_N has been low for 1 µs. A low after the final commit began only restarts the RECOVER count. The AON island,
which samples the pin (R481), runs in S3 and through every reset but power-on reset, so the final commit starts there too. -/
def powerFail (m : Mach) : Mach :=
  if m.rst.hold = some .por then m
  else if m.jnl.pf.isSome then m.onJnl fun j => { j with pfLow := true, recoverFrom := none }
  else
    let m1 := (m.onJnl fun j =>
      { j with pf := some (.committing 0), pfFirst := j.gseq + 1, pfLow := true, recoverFrom := none }).actionsLow
    let m2 := forEach (List.finRange 4) (fun (d : Fin 4) t => t.emergency d 0 none) m1
    (m2.onTick fun t => { t with wdogArmed := false, wdogCount := 0 }).inc R.JNL_PF_COUNT

/-- The final commit has nothing left to write, or no store to write it to: none in use, or a FAULTED one, for which it writes nothing
(R459). While the store is in INIT or FULL the commit waits for it. -/
def finalDone (m : Mach) : Bool :=
  m.jnl.pf == some (.committing 3) && m.toCommit.isEmpty && m.jnl.group.isNone || !m.storeInUse || m.nvs.state == 3

/-- R280 step 4. -/
def finalCommitDone (m : Mach) : Mach :=
  match m.jnl.pf with
  | some (.committing _) =>
    if m.finalDone then
      (m.set1 R.JNL_STAT_FINAL_DONE).onJnl fun j => { j with pf := some .done, recoverFrom := if j.pfLow then none else some m.elapsed }
    else m
  | _ => m

/-- R281: PWR_FAIL_N sampled high; RECOVER counts from the later of this instant and FINAL_DONE. -/
def pwrFailReturn (m : Mach) : Mach :=
  m.onJnl fun j => { j with pfLow := false, recoverFrom :=
    match j.pf, j.recoverFrom with
    | some .done, none => some m.elapsed
    | _, o => o }

/-! ## The store (R453 to R460) -/

/-- FAULTED, with its cause (R454, R459). -/
def storeFault (why : Nat) (m : Mach) : Mach :=
  (m.onNvs fun n => { n with state := 3, why := why, op := none, retryWait := false, opAt := m.elapsed, back := true }).inc R.NVS_FAULTS

/-- Initialisation (R454), which takes the partition registers (R463); with EN = 0 the store is ABSENT. -/
def storeInit (m : Mach) : Mach :=
  if m.on R.NVS_CTRL_EN then
    (m.onNvs fun n =>
      { n with state := 1, why := 0, lbaFirst := m.g64 R.NVS_LBA_FIRST_LO_A R.NVS_LBA_FIRST_HI_A,
               lbaCount := m.g64 R.NVS_LBA_COUNT_LO_A R.NVS_LBA_COUNT_HI_A, nsid := m.g R.NVS_NSID }).nvmeIssue (.bringUp 1)
  else m.onNvs fun n => { n with state := 0, why := 0, op := none, retryWait := false }

/-- Records that were freed early are lost: counted, reported once per stream, and gone (R298, R460). -/
def loseEarly (l : List JRec) (m : Mach) : Mach :=
  let streams := (l.map fun r => (r.fn, r.cls)).eraseDups
  let m1 := ((m.addTo R.NVS_LOST_EARLY l.length).onJnl fun j => { j with recs := j.recs.filter fun r => !l.any (JRec.same r) }).syncDelivery
  forEach streams (fun _ t => t.health H.storeLost .store []) m1

/-- Step 5 of R454 is done: STATE reads UP, with what R459 and R460 say of a store that comes back. -/
def storeUp (valid : Bool) (m : Mach) : Mach :=
  let other := m.nvs.hasSb && m.nvs.serial != m.nvs.sbSerial
  let m1 := m.onNvs fun n =>
    if other || !valid then
      { n with state := 2, op := none, back := false, log := [], snap := none, unit := 2, hasSb := false, sbSeq := 0, sbGroups := 0, sbAt := m.elapsed }
    else { n with state := 2, op := none, back := false, sbAt := m.elapsed }
  let m2 := if m.nvs.back then m1.health H.storeUp .store [] else m1
  let m3 := if other then m2.loseEarly (m2.jnl.recs.filter (·.early)) else m2
  if m3.jnl.group.isSome && !m3.nvs.flushed then (m3.onNvs fun n => { n with unit := max 2 n.unit }).nvmeIssue .groupWrite else m3

/-- A command failed: it waits for its next retry, or the store faults after the third retry (R459). -/
def nvmeFailed (m : Mach) : Mach :=
  if m.nvs.tries < 3 then m.onNvs fun n => { n with retryWait := true, opAt := m.elapsed }
  else (m.storeFault 5).health H.storeFault .store []

/-- A read-back ends (R460): the record can be delivered, or every early record of its group is lost. -/
def readBackDone (f : Fin 8) (cls count : Nat) (ok : Bool) (m : Mach) : Mach :=
  let m1 := (m.onNvs fun n => { n with op := none }).inc R.NVS_READS
  let mine := fun (r : JRec) => r.fn == f && r.cls == cls && r.count == count
  if ok then
    (m1.inc R.NVS_READBACK).onJnl fun j => { j with recs := j.recs.map fun r => if mine r then { r with early := false } else r }
  else
    let grp := (m1.nvs.log.filter fun e => e.2.recs.any mine).flatMap fun e => e.2.recs
    m1.loseEarly (m1.jnl.recs.filter fun r => r.early && (mine r || grp.any (JRec.same r)))

/-- The superblock is durable (R455). -/
def sbDone (m : Mach) : Mach :=
  m.onNvs fun n =>
    { n with op := none, hasSb := true, sbSeq := n.sbSeq + 1, sbGroups := 0, sbEpoch := m.jnl.epoch, sbSerial := n.serial, sbAt := m.elapsed }

/-- Identify's answer (R453 to R455): the LBA format, then the partition. -/
def identified (lbaSize units serial : Nat) (plain : Bool) (m : Mach) : Mach :=
  let n := m.nvs.lbaCount * lbaSize / 4096
  if !(lbaSize == 512 || lbaSize == 4096) || !plain then m.storeFault 3
  else if n < 1024 ∨ units * 4096 < (m.nvs.lbaFirst + m.nvs.lbaCount) * lbaSize then m.storeFault 4
  else (m.onNvs fun x => { x with serial := serial, units := n }).nvmeIssue (.bringUp 4)

/-- R454, R459, R460: a command completes. An answer that is not one of its command's changes nothing. -/
def nvmeDone (reply : NvmeReply) (m : Mach) : Mach :=
  if m.nvs.retryWait then m
  else
    match m.nvs.op, reply with
    | none, _ => m
    | some (.bringUp 1), .ok => m.nvmeIssue (.bringUp 2)
    | some (.bringUp 1), .error => m.storeFault 1
    | some (.bringUp 2), .ok => m.nvmeIssue (.bringUp 3)
    | some (.bringUp 2), .error => m.storeFault 2
    | some (.bringUp 3), .identify s u k p => m.identified s u k p
    | some (.bringUp 4), .ok => m.nvmeIssue (.bringUp 5)
    | some (.bringUp 5), .superblock v => m.storeUp v
    | some .groupWrite, .ok => (m.inc R.NVS_WRITES).nvmeIssue .groupFlush
    | some .groupFlush, .ok => (m.inc R.NVS_FLUSHES).onNvs fun n => { n with op := none, flushed := true }
    | some .sbWrite, .ok => (m.inc R.NVS_WRITES).nvmeIssue .sbFlush
    | some .sbFlush, .ok => (m.inc R.NVS_FLUSHES).sbDone
    | some (.readBack f c k), .group ok => m.readBackDone f c k ok
    | some _, .error => m.nvmeFailed
    | some _, _ => m

/-- A command takes longer than NVS_TMO ms (R459); training and readiness fail the bring-up (R454). -/
def nvmeTimeout (m : Mach) : Mach :=
  if m.nvs.retryWait then m
  else
    match m.nvs.op with
    | none => m
    | some (.bringUp 1) => m.storeFault 1
    | some (.bringUp 2) => m.storeFault 2
    | some _ => (m.runToElapsed (m.nvs.opAt + atLeast1 (m.g R.NVS_TMO) * 1000000)).nvmeFailed

/-- The retry delays of R459, in ms. -/
def retryDelay : Nat → Int
  | 0 => 1
  | 1 => 10
  | _ => 100

/-- R459: the delay has passed and the command is issued again. -/
def nvmeRetry (m : Mach) : Mach :=
  match m.nvs.op with
  | some op =>
    if !m.nvs.retryWait then m
    else
      let m1 := m.runToElapsed (m.nvs.opAt + retryDelay m.nvs.tries * 1000000)
      let m2 := ((m1.onNvs fun n => { n with tries := n.tries + 1, retryWait := false, opAt := m1.elapsed }).emit (.nvme op (m1.nvmeData op))).inc R.NVS_RETRIES
      match op with
      | .groupWrite => m2.inc R.JNL_COMMIT_RETRY
      | .groupFlush => m2.inc R.JNL_COMMIT_RETRY
      | _ => m2
  | none => m

/-- R459: every 10 s while FAULTED. -/
def reinitRetry (m : Mach) : Mach :=
  if m.nvs.state = 3 then (m.runToElapsed (m.nvs.opAt + 10000000000)).storeInit else m

/-- R455: every 1,024 groups and every 10 s. -/
def superblock (m : Mach) : Mach :=
  if (m.nvs.state = 2 ∨ m.nvs.state = 4) ∧ m.nvs.op = none then
    (if 1024 ≤ m.nvs.sbGroups then m else m.runToElapsed (m.nvs.sbAt + 10000000000)).nvmeIssue .sbWrite
  else m

/-- R463: a read of NVS_GSEQ_LO latches the high word. -/
def gseqRead (m : Mach) : Mach :=
  let m1 := m.put64 R.NVS_GSEQ_LO_A R.NVS_GSEQ_HI_A m.nvs.lastGseq
  m1.emit (.readValue R.NVS_GSEQ_LO_A (m1.rd R.NVS_GSEQ_LO_A))

end Mach

end Sys2Proof.Machine
end

