-- ==== Sys2Proof/Machine/FloorPlan.lean ====
section
/-! DEFINITION. The floor plan's bytes and its publication (R438, R440). -/

namespace Sys2Proof.Machine

namespace Mach

/-- A die of the floor plan after its tests (R437, R438): a failed training leaves it LOST. -/
def planOf (old : DiePlan) (t : DieTest) : DiePlan :=
  if !t.trained then { old with lost := true, why := t.why, engGood := 0, bankGood := 0, feGood := 0, tleGood := 0, sliceGood := 0 }
  else
    { old with lost := false, why := 0, engGood := t.engGood &&& old.engPresent, bankGood := t.bankGood &&& old.bankPresent,
               feGood := t.feGood &&& old.fePresent, tleGood := t.tleGood &&& old.tlePresent,
               sliceGood := t.sliceGood &&& old.slicePresent, engKatFail := t.engKatFail, tleKatFail := t.tleKatFail, levels := t.levels }

/-- STATE of a die: 0 GOOD, 1 DEGRADED, 2 LOST. -/
def dieState (d : DiePlan) : Nat :=
  if d.lost then 2
  else if d.engGood = d.engPresent ∧ d.bankGood = d.bankPresent ∧ d.feGood = d.fePresent ∧ d.tleGood = d.tlePresent ∧
      d.sliceGood = d.slicePresent then 0
  else 1

/-- GOOD masks read zero on a LOST die. -/
def goodOf (d : DiePlan) (v : Nat) : Nat := if d.lost then 0 else v

/-- The 256 bytes of a die. -/
def dieBytes (d : DiePlan) : List Byte :=
  bytesOf 4 (dieState d + d.why % 256 * 256) ++
    bytesOf 4 d.engPresent.toNat ++ bytesOf 4 (goodOf d d.engGood.toNat) ++
    bytesOf 4 d.bankPresent.toNat ++ bytesOf 4 (goodOf d d.bankGood.toNat) ++
    bytesOf 4 (d.fePresent.toNat + 256 * goodOf d d.feGood.toNat) ++
    bytesOf 4 (d.tlePresent.toNat + 256 * goodOf d d.tleGood.toNat) ++
    bytesOf 4 (d.slicePresent.toNat + 65536 * goodOf d d.sliceGood.toNat) ++
    bytesOf 4 d.engKatFail.toNat ++ bytesOf 4 d.tleKatFail.toNat ++ bytesOf 4 (if d.lost then 0 else 16) ++
    List.replicate 20 0 ++
    ((List.range 18).map fun e =>
      BitVec.ofNat 8 (if d.engGood.getLsbD e && !d.lost then 128 + (d.levels[e]?).getD 0 % 8 else 0)) ++
    List.replicate 174 0

/-- The floor plan's bytes before the CRC field, and after it. -/
def fptHead (m : Mach) : List Byte :=
  bytesOf 4 0x54504641 ++ bytesOf 2 1 ++ bytesOf 2 m.gradeId ++ bytesOf 4 m.rst.gen
def fptTail (m : Mach) : List Byte :=
  bytesOf 8 m.chip.serial ++ bytesOfI 8 m.rst.tPub ++ bytesOf 1 m.rst.fptCause ++ bytesOf 1 m.chip.rev ++ bytesOf 2 m.chip.katVer ++
    bytesOf 4 m.rst.scGood.toNat ++ List.replicate 216 0 ++ m.rst.dies.toList.flatMap dieBytes

/-- Bytes 0x000 to 0x4FF of the floor plan that the block's state gives (R438). -/
def planBytes (m : Mach) : List Byte :=
  m.fptHead ++ bytesOf 4 (crc32c (m.fptHead ++ [0, 0, 0, 0] ++ m.fptTail)).toNat ++ m.fptTail

/-- Bytes 0x000 to 0x4FF of FPT: the floor plan last published. Before the first publication FPT reads zeros (DESIGN CHOICE, log 88). -/
def fptBytes (m : Mach) : List Byte := if m.rst.fpt.isEmpty then List.replicate 1280 0 else m.rst.fpt

/-- The floor plan is published with a cause (R436, R440). -/
def publish (cause : Nat) (m : Mach) : Mach :=
  let m1 := m.onRst fun r => { r with gen := r.gen + 1, fptCause := cause, tPub := m.time.n }
  m1.onRst fun r => { r with fpt := m1.planBytes }

end Mach

end Sys2Proof.Machine
end

