-- ==== Sys2Proof/Machine/ResetOps.lean ====
section
/-! DEFINITION. Resets: pads, causes, what a warm reset keeps, FLR, the journal's restore (R24 to R26, R283, R386, R412 to R440). -/

namespace Sys2Proof.Machine

/-! Cause codes (R412). -/

namespace Cause
def resetN : Nat := 0x02
def perstN : Nat := 0x03
def hostCmd : Nat := 0x04
def sideband : Nat := 0x05
def mgtWdog : Nat := 0x06
def tickWdog : Nat := 0x07
def thermTrip : Nat := 0x08
def supply : Nat := 0x09
def pwrFail : Nat := 0x0A
def wakeS3 : Nat := 0x0B
def compute : Nat := 0x10
def endpoint : Nat := 0x11
end Cause

namespace Mach

/-! ## Pads (R343, R430, R431) -/

/-- A pulse that ends at an elapsed time is still high. -/
def pulseHigh (m : Mach) (u : Option Int) : Bool := match u with | some t => decide (m.elapsed < t) | none => false

/-- The level that the time unit gives TRIG_OUTo (R343). -/
def trigLevel (m : Mach) (o : Fin 8) : Bool :=
  let t := m.time.trigOut.get o
  let high : Bool := match m.g (R.TIM_TO_CTRL_MODE o) with
    | 0 => m.on (R.TIM_TO_CTRL_LEVEL o)
    | 1 => m.pulseHigh t.highUntil
    | 2 => m.pulseHigh t.highUntil
    | 3 => m.pulseHigh t.highUntil
    | 4 => m.pulseHigh t.actUntil
    | _ => false
  high != m.on (R.TIM_TO_CTRL_POL o)

/-- The flow-control state of a port (R82, R280): ING_STAT.FC. -/
def fcState (m : Mach) (p : Fin 16) : Bool :=
  let x := m.port.get p
  !m.on (R.ING_CTRL_EN p) || x.flushPend || m.rst.compute.isSome || m.jnl.pf.isSome || x.wmFc

/-- SENS_FC_N is low (R82). -/
def fcOn (m : Mach) (p : Fin 16) : Bool := m.fcState p && m.on (R.ING_CTRL_FC_EN p)

/-- The levels of an IMU port's SCLK, MOSI and CS_N (R206): idle, SCLK stands at the level of its mode; MOSI, and SCLK in a transfer,
are free values. -/
def imuPads (n : Fin 4) (m : Mach) : (Option Bool × Option Bool × Option Bool) × Mach :=
  let (a, m1) := m.drawNat
  let (b, m2) := m1.drawNat
  let busy := (m.imu.get n).busy
  ((some (if busy then bitN a 0 else bitN (m.g (R.MOT_IMU_CTRL_SPI_MODE n)) 1), some (bitN b 0), some (!busy)), m2)

/-- Latch the pads' levels (R430, R431). A pad that is held already keeps what its latch drives. -/
def latchPads (m : Mach) : Mach :=
  let cut := m.on R.IOC_CFG_TRIG_SAFE
  let trig := (List.finRange 8).map fun (o : Fin 8) => if m.rst.held.getLsbD 0 then (m.rst.padTrig[o.1]?).getD none else some (m.trigLevel o)
  let mask := ((List.range 8).map fun k => if cut && (trig[k]?).getD none == some true then 2 ^ k else 0).sum
  let safe := trig.map fun v => if cut && v == some true then some false else v
  let pps := if m.rst.held.getLsbD 1 then m.rst.padPps else some m.ppsLevel
  let sens := (List.finRange 16).map fun (p : Fin 16) =>
    if m.rst.held.getLsbD 2 then (m.rst.padSens[p.1]?).getD (none, none, none)
    else (some (m.pulseHigh (m.port.get p).syncUntil), some (!m.fcOn p), some (!m.on (R.ING_CTRL_SRST p)))
  let (imu, m0) := (List.finRange 4).foldl (fun (s : List (Option Bool × Option Bool × Option Bool) × Mach) n =>
    let (x, t) := s.2.imuPads n
    (s.1 ++ [if m.rst.held.getLsbD 4 then (m.rst.padImu[n.1]?).getD (none, none, none) else x], t)) ([], m)
  let m1 := m0.put R.IOC_STAT_TRUNC_MASK mask
  (if mask = 0 then m1 else m1.set1 R.IOC_STAT_TRUNC_PULSE).onRst fun r =>
    { r with held := 0x1F, padTrig := safe, padPps := pps, padSens := sens, padImu := imu }

/-! ## Causes (R433) -/

/-- The cause registers take a code at the start of a reset. -/
def recordCause (code detail : Nat) (m : Mach) : Mach :=
  let m1 := ((m.put R.RST_CAUSE_LAST_CODE code).put R.RST_CAUSE_LAST_DETAIL detail).onRst fun r => { r with tLast := m.time.n }
  let old := if m1.on R.RST_CFG_STICKY_EN then m1.g R.RST_CAUSE_STICKY_CAUSES else 0
  let bit := 2 ^ (code - 1)
  m1.put R.RST_CAUSE_STICKY_CAUSES (if bitN old (code - 1) then old else old + bit)

/-! ## What commands are still owed (R383, R385) -/

/-- Every command of a function whose DONE has not come: opcode, CTAG, CSEQ; a reset ends them with RESULT 0x13. -/
def owedCmds (m : Mach) (f : Fin 8) : List (Nat × Nat × Nat) :=
  let x := m.fn.get f
  (m.tick.pending.filter fun p => p.fn == f).map (fun p => (p.op, p.ctag, p.cseq)) ++
    x.mapOwed.map (fun o => (0x12, o.1, o.2)) ++
    (m.images.filterMap fun s => if s.2.fn = f then s.2.unloadOwed.map fun o => (0x11, o.1, o.2) else none) ++
    m.port.toList.flatMap (fun p =>
      (p.flushOwed.filter fun o => o.1 == f).map (fun o => (0x22, o.2.1, o.2.2)) ++
        (match p.sci with | some { who := .cmd g c s, .. } => if g = f then [(0x20, c, s)] else [] | _ => [])) ++
    (m.fus.ext.filter fun e => e.fn == f).map (fun e => (0x60, e.ctag, e.cseq)) ++
    (if f = 0 then (m.own.washes.filterMap (·.owed)).eraseDups.map fun o => (0x80, o.2, o.1) else [])

/-- They get their DONE, then the fences behind them. -/
def endOwed (f : Fin 8) (m : Mach) : Mach :=
  (forEach ((m.owedCmds f).filter fun o => (m.fn.get f).openCmds.contains o.2.2)
    (fun o t => t.doneOne f { op := o.1, ctag := o.2.1, status := St.done, result := St.state, cseq := o.2.2 }) m).fencesDone f

/-! ## The functions through a reset (R371, R386, R388) -/

/-- The rings stop: EN cleared, counts, base and size retained, moderation reset, and the report rings wait (R386, R388). -/
def stopRings (f : Fin 8) (m : Mach) : Mach :=
  let m1 := m.onFn f fun x =>
    { x with retained := [0, 1, 2, 3], mods := Vector.replicate 6 {}, load := none, tap := { x.tap with buf := [] } }
  let m2 := forEach (List.finRange 7) (fun (r : Fin 7) t => t.clr (R.HIF_F_RING_CFG_EN f r)) m1
  forEach (List.finRange 6) (fun (v : Fin 6) t => t.wr (R.HIF_F_MOD_A f v) (regReset (R.HIF_F_MOD_A f v))) m2

/-- Steps 1 and 2 of R386. The EXT_MEAS, flush, transfer and wash commands of the function run on. -/
def flrStart (f : Fin 8) (m : Mach) : Mach :=
  if (m.fn.get f).flrBusy then m
  else
    let m1 := (m.stopRings f).onFn f fun x => { x with flrBusy := true, flrAt := some m.elapsed, flrEdge := true }
    (m1.cancelPending fun p => p.fn == f).inc R.HIF_FLR_COUNT

/-- Step 3 of R386 at boundary k: work abandoned, images inactive, map emptied, populations stopped, comet slots freed. -/
def flrBoundary (f : Fin 8) (k : Nat) (m : Mach) : Mach :=
  let m0 := forEach (List.finRange 72) (fun (e : Fin 72) t => t.abandonEng e fun d => d.fn == f) m
  let m1 := match (m0.fn.get f).popTick with | some t => m0.abandonPop f t.tn t.phase | none => m0
  let m2 := { m1 with
    images := m1.images.map fun (s : Nat × Image) => if s.2.fn = f && (s.2.activeTo.elim true fun a => decide (k < a)) then (s.1, { s.2 with activeTo := some k }) else s,
    pops := m1.pops.map fun (p : Pop) => if p.fn = f then { p with started := false, restart := true } else p,
    spikes := m1.spikes.filter fun (x : SpikeMsg) => x.fn != f }
  let m3 := m2.onFn f fun x =>
    let e := (x.newest + 1) % 256
    { x with flrEdge := false, popTick := none, newest := e, roles := x.roles.push { epoch := e, binds := [] } k }
  let n := (m3.fus.store.filter fun (t : Nat × Track) => t.2.fn == f).length
  (m3.onFus fun u => { u with store := u.store.filter fun t => t.2.fn != f }).addTo R.FUS_RETIRED n

/-! ## The package warm reset (R24, R415 to R417, R430, R433) -/

/-- The registers that the AON island holds (R24, R328, R362, R442). -/
def aonReg (a : Nat) : Bool :=
  (decide (0x010000 ≤ a) && decide (a < 0x020000)) || (decide (0x0B0000 ≤ a) && decide (a < 0x0D0000)) ||
    (decide (0x020308 ≤ a) && decide (a < 0x020314)) ||
    (decide (0x040000 ≤ a) && decide (a < 0x050000) && !(decide (0x040080 ≤ a) && decide (a < 0x0400C0)) &&
      !(decide (0x040200 ≤ a) && decide (a < 0x040300)))

/-- A function after a package warm reset: what retention SRAM and R371 keep. -/
def warmFunc (x : Func) : Func :=
  { rings := x.rings, cseq := x.cseq, owed := x.owed, retained := x.retained }

/-- The tick unit runs on; no tick under way produces a summary (R55). -/
def warmTick (t : TickUnit) : TickUnit :=
  { t with pending := [], wdogArmed := false, wdogCount := 0, accts := t.accts.map fun a => { a with works := false } }

/-- The time counter, its y and the AON parts of the time unit run on; the servo starts again from y, and the TRIG_OUT
outputs are reset (R24, R342, R362). -/
def warmTime (t : TimeUnit) : TimeUnit :=
  { t with quality := (match t.quality with | .free => .free | _ => .holdover),
           servo := { integ := t.y, yAvg := t.y }, trigOut := Vector.replicate 8 {} }

/-- The journal is rebuilt from its DRAM copies; the action table and delivery states stand in retention SRAM (R24, R271). -/
def warmJournal (j : Journal) : Journal :=
  { epoch := j.epoch, next := j.next, recs := j.recs, delivery := j.delivery, gseq := j.gseq, copies := j.copies, slots := j.slots,
    unsaid := j.unsaid, pfLow := j.pfLow, actions := j.actions, gens := j.gens }

/-- What the store itself holds through any reset (R455 to R457). -/
def durable (n : Store) : Store :=
  { log := n.log, snap := n.snap, unit := n.unit, sbSeq := n.sbSeq, sbGroups := n.sbGroups, sbEpoch := n.sbEpoch, hasSb := n.hasSb,
    sbSerial := n.sbSerial, lastGseq := n.lastGseq, back := n.back }

/-- Every block that R24 marks is reset; the reset controller's own state is left to the caller. -/
def warmClear (m : Mach) : Mach :=
  let regs := m.regs.filterMap fun e =>
    if aonReg e.1 then some e
    else
      match regLookup e.1 with
      | some (w, _, _) =>
        let mask := BitVec.ofNat 32 w.rws
        let v := (e.2 &&& mask) ||| (regReset e.1 &&& ~~~mask)
        if v = regReset e.1 then none else some (e.1, v)
      | none => none
  { ({} : Mach) with
    chip := m.chip, regs := regs, time := warmTime m.time, tick := warmTick m.tick, jnl := warmJournal m.jnl, nvs := durable m.nvs,
    fn := m.fn.map warmFunc, rst := m.rst, sleep := { wakeT := m.sleep.wakeT, idleFrom := m.elapsed }, dram := m.dram,
    ueLines := m.ueLines, draws := m.draws, out := m.out }

/-- The reset controller at the start of a warm reset; a new nonce, debug locked (R415, R417, R443). -/
def warmUnit (code : Nat) (at_ : Int) (r : ResetUnit) : ResetUnit :=
  { r with hold := some (.warm code), holdAt := at_, outLow := true, outFrom := none, ready := false, stage := 0, bootErr := 0,
           fwVerified := false, cause := code, fromPor := false, compute := none, autoAt := r.autoAt, lostAt := none, blk := none,
           pkgReset := none, sbImage := [], unlocked := false, nonce := r.nonce + 1 }

/-- A package warm reset begins (R412 to R417); power-on reset overrides it. -/
def warmReset (code detail : Nat) (m : Mach) : Mach :=
  if m.rst.hold = some .por then m
  else
    let m0 := m.latchPads.recordCause code detail
    let m1 := if m0.time.quality = .locked ∨ m0.time.quality = .stepped then m0.setQuality .holdover else m0
    let m2 := forEach (List.finRange 8) (fun (f : Fin 8) t => (t.stopRings f).endOwed f) m1
    ((m2.warmClear.onRst (warmUnit code m.elapsed)).put R.PWR_CAP m.gradeCap).inc R.RST_WARM_COUNT

/-- Power-on reset reaches every block (R24): what stays is the chip with its factory test, the boot flash's epoch and the
store's log. -/
def powerOn (m : Mach) : Mach :=
  let m1 : Mach := { ({} : Mach) with
    chip := m.chip, nvs := durable m.nvs, jnl := { epoch := m.jnl.epoch, pfLow := m.jnl.pfLow }, draws := m.draws, out := m.out,
    rst := { fwBank := m.rst.fwBank, fwStaged := m.rst.fwStaged, nonce := m.rst.nonce + 1,
             dies := m.rst.dies.map fun (d : DiePlan) =>
               { engPresent := d.engPresent, bankPresent := d.bankPresent, fePresent := d.fePresent, tlePresent := d.tlePresent,
                 slicePresent := d.slicePresent } } }
  m1.put R.PWR_CAP m.gradeCap

/-! ## Bring-up (R418 to R423) -/

/-- The straps are sampled (R421). -/
def takeStraps (b : BootInfo) (m : Mach) : Mach :=
  { m with chip := { m.chip with bootSel := b.bootSel % 4, clkMode := b.clkMode % 4, sbAddr := b.sbAddr % 4, testMode := b.testMode } }

/-- Bring-up halts at a step with an error. -/
def haltAt (stage err : Nat) (m : Mach) : Mach := m.onRst fun r => { r with stage := stage, bootErr := err }

/-- Another image boots: its version is not stated. -/
def otherFirmware (m : Mach) : Mach := let (v, m1) := m.drawNat; { m1 with chip := { m1.chip with fwVer := v } }

/-- The other bank becomes the one to boot. -/
def otherBank (m : Mach) : Mach := (m.onRst fun r => { r with fwBank := 1 - r.fwBank % 2, fwStaged := false }).otherFirmware

/-- Firmware verification under BOOT_SEL 00 (R423): the active bank, which FW_STAGE has changed (R390), then the other. -/
def verifyBanks (b : BootInfo) (m : Mach) : Bool × Mach :=
  let m0 := if m.rst.fwStaged then m.otherBank else m
  if b.fwOk then (true, m0.onRst fun r => { r with fwVerified := true })
  else
    let m1 := m0.inc R.SEC_FW_VERIFY_FAIL
    if b.fwOtherOk then (true, (m1.otherBank.set1 R.GLB_STAT_FW_FALLBACK).onRst fun r => { r with fwVerified := true })
    else (false, m1.inc R.SEC_FW_VERIFY_FAIL)

/-- Steps 3 to 8 of R418: dies that do not train are LOST, the store is brought up, the release waits at step 9. -/
def release (b : BootInfo) (m : Mach) : Mach :=
  if !b.pllOk then m.haltAt 3 3
  else
    let m1 := m.onRst fun r =>
      { r with stage := 9, scGood := b.scGood,
               dies := Vector.ofFn fun (d : Fin 4) => { (r.dies.get d) with lost := !(b.dies.get d).trained, why := if (b.dies.get d).trained then 0 else (b.dies.get d).why } }
    let m2 := if m1.chip.bootSel = 0 then m1 else m1.put R.GLB_BOOT_STAT 1
    m2.storeInit

/-- The hold ends and domains are released (R418 to R423). -/
def bringUp (b : BootInfo) (m : Mach) : Mach :=
  let fresh := m.rst.hold = some .por ∨ m.rst.hold = some (.warm Cause.resetN)
  let m1 := (if fresh then m.takeStraps b else m).onRst fun r =>
    { r with hold := none, outFrom := some m.elapsed, thermLow := false, stage := 1, fromPor := r.fromPor || r.hold == some .por }
  if m1.chip.testMode then m1.haltAt 2 5
  else if m1.chip.bootSel = 3 ∨ m1.chip.clkMode = 3 then m1.haltAt 2 1
  else if m1.chip.bootSel = 0 then
    let (ok, m2) := m1.verifyBanks b
    if ok then m2.release b else m2.haltAt 2 2
  else m1.release b

/-! ## The journal's restore (R256, R283) -/

/-- The epoch rises and every stream counts from 1 again. -/
def newEpoch (m : Mach) : Mach :=
  (m.onJnl fun j => { j with epoch := j.epoch + 1, next := Vector.replicate 32 1, recs := [] }).syncDelivery

/-- The log as bring-up reads it: forward, as long as each group passes its CRC (R457). -/
def readableLog (m : Mach) (bad : List Nat) : List Group := (m.nvs.log.map (·.2)).takeWhile fun g => !bad.contains g.gseq

/-- Restore from the log after a power-on reset (R256, R283). Of a restored record the ring states say whether its host ring has it; which
RRT destinations have acknowledged it no medium tells, so it goes again to those of its commit, whose duplicate rule discards what they
hold (R357; DEDUCED, log entry 86). -/
def restoreJournal (bad : List Nat) (m : Mach) : Mach :=
  let log := m.readableLog bad
  let recs := (log.flatMap (·.recs)).filter fun r => r.epoch == m.jnl.epoch
  match log.getLast?, m.nvs.state == 2 with
  | some g, true =>
    let m1 := m.onJnl fun j => { j with gseq := g.gseq }
    match g.final, m1.nvs.snap with
    | true, some s =>
      let pos := fun (r : JRec) => match s.delivery[5 * r.fn.1 + 1 + r.cls]? with | some d => d.next | none => 1
      let back := (recs.map fun r => { r with committed := true, hostDone := decide (r.rsn < pos r), early := false }).filter fun r =>
        !(r.hostDone && r.dests.isEmpty)
      let m2 := m1.onJnl fun j =>
        { j with next := Vector.ofFn (fun (i : Fin 32) => (s.next[i.1]?).getD 1),
                 delivery := Vector.ofFn (fun (i : Fin 40) => (s.delivery[i.1]?).getD {}), recs := back,
                 rules := Vector.ofFn (fun (f : Fin 8) => let l := (s.rules[f.1]?).getD []; { cur := l, prev := l, eff := 0 }) }
      let m3 := forEach s.actions (fun e t => t.missAction .power e.2) m2
      m3.health H.powerRestored .package []
    | _, _ =>
      let top := fun (i : Nat) => (recs.filter fun r => 4 * r.fn.1 + r.cls == i).foldl (fun b r => max b r.count) 0
      (m1.onJnl fun j => { j with next := Vector.ofFn (fun (i : Fin 32) => top i.1 + 1) }).syncDelivery.health H.journalTorn .package []
  | _, _ => m.newEpoch

end Mach

end Sys2Proof.Machine
end

