-- ==== Sys2Proof/Machine/HostCmdOps.lean ====
section
/-! DEFINITION. Commands of the CMD rings without a family of their own: queries, ports, ticks, ownership and washes, report
rings (R366 to R380, R388). -/

namespace Sys2Proof.Machine

namespace Mach

/-- FENCE (R379). -/
def fenceCmd (h : CmdHdr) (m : Mach) : Mach :=
  m.command h 0x01 true (fun _ => none)
    (fun cseq t => { m := t.onFn h.fn fun x => { x with fences := x.fences ++ [(h.ctag, cseq)] }, after := fun u => u.fencesDone h.fn })

/-! ## QUERY (R380) -/

/-- The bytes of an item that the spec lays out. -/
def queryBytes (m : Mach) (f : Fin 8) (item arg : Nat) : Option (List Byte) :=
  match item with
  | 1 => some m.fptBytes
  | 5 => some ((m.jnl.actions.filter fun (e : Nat × Action) => e.2.fn == f).flatMap fun e => e.2.bytes)
  | 8 => some (match m.fus.store.find arg with | some t => t.c.bytes | none => List.replicate 256 0)
  | _ => none

/-- What the other items say; their layout in memory is not stated. -/
def queryValues (m : Mach) (f : Fin 8) (item arg : Nat) : List Int :=
  let x := m.fn.get f
  match item with
  | 2 => let s := m.snapshot; [s.sec, s.ns, s.t32, s.tn]
  | 3 => (m.images.filter fun (s : Nat × Image) => s.2.fn == f).flatMap fun s =>
      [(s.1 : Int), s.2.imageId, (if imageActive m.tick.tn s.2 then 1 else if s.2.activeFrom.isNone then 0 else 2 : Nat)]
  | 4 => ((m.pops.filter fun p => p.fn == f && p.role == arg).flatMap fun p =>
      [p.pop, p.spikes, p.synEvents, p.stimOor, p.synOor, p.qovf, p.arriveLost, p.phasesLost, p.stepLag].map Int.ofNat) ++
        [(x.reroute : Int), x.routeDrop]
  | 6 => [(x.streamWait : Int)]
  | 7 =>
    let mine := fun (kind : Nat) (l : List (Fin 8)) => (l.zipIdx.filter fun u => u.1 == f).flatMap fun u => [(kind : Int), u.2]
    mine kindPort m.own.port.toList ++ mine kindEngine m.own.eng.toList ++
      ((m.own.gran.filter fun (g : Nat × Fin 8) => g.2 == f).flatMap fun g => [(kindGranule : Int), g.1]) ++
      [(kindSlot : Int), (m.own.part.get f).1, (m.own.part.get f).2] ++ mine kindMap m.own.fmap.toList ++ mine kindTrig m.own.trig.toList ++
      mine kindDest m.own.rrt.toList ++ (if m.own.tick = f then [(kindTick : Int)] else [])
  | _ => []

/-- QUERY. Where the layout of an item is not stated, the number of bytes written is a free value of at most LEN. -/
def queryCmd (h : CmdHdr) (item arg dst len : Nat) (m : Mach) : Mach :=
  m.command h 0x02 false
    (fun t =>
      if item = 0 ∨ 8 < item then some St.format
      else
        let p := t.own.part.get h.fn
        if item = 8 ∧ ¬ (p.1 ≤ arg ∧ arg < p.1 + p.2) then some St.owner else none)
    (fun _ t =>
      match t.queryBytes h.fn item arg with
      | some b =>
        let c := b.take len
        { m := t.emit (.query h.fn dst item (c.map fun x => (x.toNat : Int))), d10 := c.length }
      | none =>
        let (n, t1) := t.drawNat
        { m := t1.emit (.query h.fn dst item (t1.queryValues h.fn item arg)), d10 := n % (len + 1) })

/-! ## Ports (R380, R83, R85) -/

/-- A port that the function owns and that is not in a wash (R368, R369). -/
def portJudge (m : Mach) (f : Fin 8) (p : Fin 16) : Option Nat :=
  if m.own.port.get p ≠ f then some St.owner else if m.washing kindPort p then some St.busy else none

/-- PORT_CONFIG SCI. -/
def portSci (h : CmdHdr) (p : Fin 16) (addr rlen : Nat) (data : List Byte) (m : Mach) : Mach :=
  m.command h 0x20 true
    (fun t => (t.portJudge h.fn p).or
      (if t.on (R.ING_SCI_CFG_OWNER p) || (t.port.get p).sci.isSome then some St.state else none))
    (fun cseq t => { m := t.sciPut p data, after := fun u => u.sciStart p (.cmd h.fn h.ctag cseq) addr data.length rlen })

/-- PORT_ENABLE, EN = 1. -/
def portEnableCmd (h : CmdHdr) (p : Fin 16) (m : Mach) : Mach :=
  m.command h 0x21 false
    (fun t => (t.portJudge h.fn p).or (t.enableReject p))
    (fun _ t => { m := if t.on (R.ING_CTRL_EN p) then t else t.enablePort p })

/-- PORT_ENABLE, EN = 0. -/
def portDisableCmd (h : CmdHdr) (p : Fin 16) (m : Mach) : Mach :=
  m.command h 0x21 false (fun t => t.portJudge h.fn p) (fun _ t => { m := t.disablePort p })

/-- PORT_FLUSH. -/
def portFlushCmd (h : CmdHdr) (p : Fin 16) (m : Mach) : Mach :=
  m.command h 0x22 true (fun t => t.portJudge h.fn p)
    (fun cseq t => { m := t.onPort p fun x => { x with flushPend := true, flushOwed := x.flushOwed ++ [(h.fn, h.ctag, cseq)] } })

/-- TAP_CONFIG. Of the ports of the mask those that the function owns are sampled, as their words are read (tapWord). -/
def tapConfigCmd (h : CmdHdr) (mask shift : Nat) (en : Bool) (m : Mach) : Mach :=
  m.command h 0x70 false (fun _ => none)
    (fun _ t => { m := t.onFn h.fn fun x => { x with tap := { x.tap with en := en, mask := mask, shift := shift % 32, seen := 0 } } })

/-! ## Ticks and the quality knob (R48 to R50, R142) -/

/-- SET_TICK CHANGE. -/
def setTickChange (h : CmdHdr) (period : Nat) (m : Mach) : Mach :=
  m.command h 0x30 true
    (fun t => (t.judgeEff h 0).or (if period < 50 ∨ 1000 < period then some St.format else none))
    (fun cseq t =>
      let e := t.effOf h
      { m := t.pend { fn := h.fn, op := 0x30, ctag := h.ctag, cseq := cseq, tnEff := e, change := .tickChange period }, d18 := e })

/-- SET_TICK LOAD, which ignores TN_EFF. -/
def setTickLoad (h : CmdHdr) (period : Nat) (origin : Int) (m : Mach) : Mach :=
  m.command h 0x30 true
    (fun t =>
      if period < 50 ∨ 1000 < period then some St.format
      else if t.hasPending h.fn 0 then some St.busy
      else if !t.images.isEmpty || (t.fn.toList.any fun x => x.load.isSome) || (List.range 16).any (fun p => t.on (R.ING_CTRL_EN p)) then some St.state
      else none)
    (fun cseq t =>
      let o := toSigned 64 (toBits 64 origin)
      { m := t.pend { fn := h.fn, op := 0x30, ctag := h.ctag, cseq := cseq, tnEff := 0,
                      change := .tickLoad period o ((t.time.n - o).fdiv (period * 1000) + 1) } })

/-- SET_QUALITY. -/
def setQualityCmd (h : CmdHdr) (q : Nat) (m : Mach) : Mach :=
  m.command h 0x31 true
    (fun t => (t.judgeEff h 5).or (if 15 < q then some St.format else none))
    (fun cseq t =>
      let e := t.effOf h
      { m := t.pend { fn := h.fn, op := 0x31, ctag := h.ctag, cseq := cseq, tnEff := e, change := .quality q }, d18 := e })

/-! ## Ownership (R366 to R369) -/

/-- How many units a kind has. -/
def kindUnits : Nat → Nat
  | 0 => 16 | 1 => 72 | 2 => 32768 | 3 => 16384 | 4 => 8 | 5 => 8 | 6 => 8 | _ => 1

/-- The owner of a unit: none for a granule of a system region or a slot of no partition. -/
def ownerOf (m : Mach) (kind u : Nat) : Option (Fin 8) :=
  match kind with
  | 0 => some (vat m.own.port u)
  | 1 => some (vat m.own.eng u)
  | 2 => m.granOwner u
  | 3 => (List.finRange 8).find? fun (f : Fin 8) => decide ((m.own.part.get f).1 ≤ u) && decide (u < (m.own.part.get f).1 + (m.own.part.get f).2)
  | 4 => some (vat m.own.fmap u)
  | 5 => some (vat m.own.trig u)
  | 6 => some (vat m.own.rrt u)
  | _ => some m.own.tick

/-- A partition less a range that another function takes; none: two pieces would remain. -/
def cutPart (p : Nat × Nat) (first count : Nat) : Option (Nat × Nat) :=
  let e := p.1 + p.2
  let e2 := first + count
  if p.2 = 0 ∨ e ≤ first ∨ e2 ≤ p.1 then some p
  else if first ≤ p.1 ∧ e ≤ e2 then some (0, 0)
  else if first ≤ p.1 then some (e2, e - e2)
  else if e ≤ e2 then some (p.1, first - p.1)
  else none

/-- A role in a live epoch is bound to an engine (R193, R367): in force, before its drop, or accepted and pending. -/
def engBound (m : Mach) (e : Nat) : Bool :=
  m.fn.toList.any (fun x =>
    x.roles.cur.binds.any (fun b => b.2 == e) || (decide (m.tick.tn < x.roles.eff + 1) && x.roles.prev.binds.any fun b => b.2 == e)) ||
  m.tick.pending.any fun p => match p.change with | .mapRoles _ bs => bs.any fun b => b.2 == e | _ => false

/-- What the table of R367 gives REJ_STATE for. -/
def assignState (m : Mach) (kind u : Nat) (to_ : Fin 8) : Bool :=
  match kind with
  | 0 => m.on (R.ING_CTRL_EN u) || (vat m.fe u).learning.isSome || (vat m.fe u).learnReq ||
      m.images.any fun (s : Nat × Image) => imageActive m.tick.tn s.2 && bitN s.2.ports u
  | 1 => m.engBound u
  | 2 => m.granResident u
  | 3 => (m.fus.store.find u).isSome
  | 4 => m.mapInUse u
  | 5 => m.jnl.actions.any fun (e : Nat × Action) => e.2.out.1 == u && e.2.fn != to_
  | 6 => m.on (R.RRT_D_CTRL_EN u)
  | _ => false

/-- The named units. Comet slots are judged by the range, so that only those that hold a comet are looked at. -/
def unitsOf (first count : Nat) : List Nat := (List.range count).map (first + ·)

/-- The checks of ASSIGN after those of R378: format, wedged owner, wash, state. -/
def assignJudge (m : Mach) (kind first count : Nat) (to_ : Fin 8) : Option Nat :=
  let us := if kind = 3 then (m.fus.store.map (·.1)).filter (fun k => decide (first ≤ k) && decide (k < first + count)) else unitsOf first count
  let others := (List.finRange 8).filter fun (f : Fin 8) => f != to_
  let owners := if kind = 3 then others.filter (fun (f : Fin 8) => cutPart (m.own.part.get f) first count != some (m.own.part.get f))
    else us.filterMap (m.ownerOf kind)
  if 7 < kind ∨ count = 0 ∨ kindUnits kind < first + count then some St.format
  else if kind = 2 ∧ us.any (fun u => (m.granOwner u).isNone) then some St.format
  else if kind = 3 ∧ others.any (fun (f : Fin 8) => (cutPart (m.own.part.get f) first count).isNone) then some St.format
  else if owners.any fun f => (m.fn.get f).wedged then some St.wedged
  else if (if kind = 3 then m.own.washes.any (fun w => w.kind == 3 && decide (w.unit < first + count) && decide (first < w.unit + w.count))
      else if kind = 2 then us.any m.granWashing else us.any (m.washing kind)) then some St.busy
  else if us.any fun u => m.assignState kind u to_ then some St.state
  else none

/-- ACT_F_OUT follows the outputs that a function owns (R368). -/
def actFollow (m : Mach) : Mach :=
  forEach (List.finRange 8) (fun (f : Fin 8) t =>
    t.put (R.ACT_F_OUT_OUT_MASK f) (((List.finRange 8).map fun (o : Fin 8) => if t.own.trig.get o = f then 2 ^ o.1 else 0).sum)) m

/-- FUS_F_PART follows the partitions (R226). -/
def partFollow (m : Mach) : Mach :=
  forEach (List.finRange 8) (fun (f : Fin 8) t =>
    (t.put (R.FUS_F_PART_SLOT_COUNT f) (t.own.part.get f).2).put (R.FUS_F_PART_SLOT_FIRST f) (t.own.part.get f).1) m

/-- One unit takes its new owner. -/
def setOwner (kind u : Nat) (f : Fin 8) (m : Mach) : Mach :=
  m.onOwn fun o =>
    match kind with
    | 0 => { o with port := vput o.port (Fin.ofNat 16 u) f }
    | 1 => { o with eng := vput o.eng (Fin.ofNat 72 u) f }
    | 2 => { o with gran := Tab.set (fun _ => 0) o.gran u f }
    | 4 => { o with fmap := vput o.fmap (Fin.ofNat 8 u) f }
    | 5 => { o with trig := vput o.trig (Fin.ofNat 8 u) f }
    | 6 => { o with rrt := vput o.rrt (Fin.ofNat 8 u) f }
    | 7 => { o with tick := f }
    | _ => o

/-- The pieces of a range that lie outside a partition. -/
def outsidePart (p : Nat × Nat) (first count : Nat) : List (Nat × Nat) :=
  let e := first + count
  let low := if p.2 = 0 then (first, count) else (first, min e p.1 - first)
  let high := if p.2 = 0 then (e, 0) else (max first (p.1 + p.2), e - max first (p.1 + p.2))
  [low, high].filter fun r => r.2 != 0

/-- The units of an ASSIGN change owner, and those that did are washed, but for the tick (R367, R369). -/
def moveUnits (kind first count : Nat) (to_ : Fin 8) (owed : Option (Nat × Nat)) (m : Mach) : Mach :=
  if kind = 3 then
    let new := outsidePart (m.own.part.get to_) first count
    let m1 := m.onOwn fun o =>
      { o with part := Vector.ofFn (fun (f : Fin 8) => if f = to_ then (first, count) else (cutPart (o.part.get f) first count).getD (0, 0)),
               washes := o.washes ++ new.map (fun (r : Nat × Nat) => ({ kind := 3, unit := r.1, count := r.2, owed := owed } : Wash)) }
    m1.partFollow
  else
    let us := (unitsOf first count).filter fun u => m.ownerOf kind u != some to_
    let m1 := forEach us (fun u t => t.setOwner kind u to_) m
    let m2 := if kind = 7 then m1 else m1.onOwn fun o =>
      { o with washes := o.washes ++ us.map (fun (u : Nat) => ({ kind := kind, unit := u, owed := owed } : Wash)) }
    if kind = 5 then m2.actFollow else m2

/-- ASSIGN's DONE, when no wash of it is left. -/
def assignDone (cseq ctag : Nat) (m : Mach) : Mach :=
  if m.own.washes.any fun w => w.owed == some (cseq, ctag) then m else m.done 0 0x80 ctag cseq 0 0 []

/-- ASSIGN. -/
def assignCmd (h : CmdHdr) (kind : Nat) (dest : Fin 8) (first count : Nat) (m : Mach) : Mach :=
  m.command h 0x80 true (fun t => t.assignJudge kind first count dest)
    (fun cseq t => { m := t.moveUnits kind first count dest (some (cseq, h.ctag)), after := fun u => u.assignDone cseq h.ctag })

/-- Zero a range of DRAM, with the error marks of its lines and its lines in the system cache (R369, R448, R450). -/
def zeroDram (lo hi : Nat) (m : Mach) : Mach :=
  { m.scDrop (fun l => decide (lo ≤ 64 * l) && decide (64 * l < hi)) with dram := Tab.clearRange m.dram lo hi, ueLines := m.ueLines.filter fun a => !(decide (lo ≤ a) && decide (a < hi)) }

/-- What a wash does to its unit (R369). -/
def washUnit (w : Wash) (m : Mach) : Mach :=
  let u := w.unit
  match w.kind with
  | 0 =>
    let p : Fin 16 := Fin.ofNat 16 u
    let m1 := m.discardVat p true
    let m2 := ((m1.resetRegs (0x100000 + 0x1000 * u) (0x101000 + 0x1000 * u) false).resetRegs (fePage u) (fePage u + 0x2000) false).resetRegs
      (0x1D4000 + 0x100 * u) (0x1D4100 + 0x100 * u) false
    let old := m2.port.get p
    let m3 := { m2 with
      port := vput m2.port p { sci := old.sci, flushPend := old.flushPend, flushOwed := old.flushOwed }, fe := vput m2.fe p {} }
    m3.onFus fun x => { x with homs := vput x.homs p { cur := {}, prev := {}, eff := 0 } }
  | 1 =>
    let a := 0x181000 + u / 18 * 0x10000 + u % 18 * 0x200
    (m.resetRegs (a + 0x40) (a + 0x60) false).onEng (Fin.ofNat 72 u) fun x => { x with sram := [], holds := none }
  | 2 => m.zeroDram (u * 2 ^ 21) ((u + 1) * 2 ^ 21)
  | 3 => m.onFus fun x => { x with store := Tab.clearRange x.store u (u + w.count) }
  | 4 => m.resetRegs (R.FMAP_CFG_A u) (R.FMAP_CFG_A (u + 1)) false
  | 5 => (m.resetRegs (0x040200 + 0x20 * u) (0x040220 + 0x20 * u) false).onTrig (Fin.ofNat 8 u) fun _ => {}
  | 6 =>
    let k := m.g (R.RRT_D_CTRL_KEY u)
    ((m.resetRegs (R.RRT_KEY_A (8 * k)) (R.RRT_KEY_A (8 * k) + 32) false).resetRegs (0x064200 + 0x40 * u) (0x064240 + 0x40 * u) false).onDest
      (Fin.ofNat 8 u) fun _ => {}
  | 8 => m.zeroDram (u * 2 ^ 30) ((u + 1) * 2 ^ 30)
  | _ => m

/-- A wash ends: the unit is clean, and the last wash of an ASSIGN brings its DONE. -/
def washDone (kind unit : Nat) (m : Mach) : Mach :=
  match m.own.washes.find? fun w => w.kind == kind && w.unit == unit with
  | none => m
  | some w =>
    let m1 := (m.washUnit w).onOwn fun o => { o with washes := o.washes.filter fun x => !(x.kind == kind && x.unit == unit) }
    match w.owed with
    | some (cseq, ctag) => m1.assignDone cseq ctag
    | none => m1

/-- The owner of a unit in a wash. -/
def washOwner (m : Mach) (w : Wash) : Option (Fin 8) := if w.kind = 8 then none else m.ownerOf w.kind w.unit

/-- WASH_QUERY. -/
def washQueryCmd (h : CmdHdr) (m : Mach) : Mach :=
  m.command h 0x81 false (fun _ => none)
    (fun _ t =>
      let l := t.own.washes.filter fun w => t.washOwner w == some h.fn
      { m := t, d10 := (l.map (·.count)).sum, d18 := (l.filter fun w => w.kind == kindGranule).length * 2 ^ 21 })

/-- Every resource of the VFs returns to FN0 with a wash (R366). -/
def vfReturn (m : Mach) : Mach :=
  let m1 := forEach [0, 1, 4, 5, 6, 7] (fun k t => t.moveUnits k 0 (kindUnits k) 0 none) m
  let grans := (m1.own.gran.map (·.1))
  let m2 := forEach grans (fun g t => t.moveUnits 2 g 1 0 none) m1
  (m2.moveUnits 3 0 16384 0 none)

/-- FLR of a function (R386); an FLR of the PF clears VF Enable, so that each VF takes one and its resources return. -/
def flr (f : Fin 8) (m : Mach) : Mach :=
  if f = 0 then (forEach (List.finRange 8) (fun (g : Fin 8) t => t.flrStart g) m).vfReturn else m.flrStart f

/-- The PF clears VF Enable (R366): the VFs stop, and their resources return. -/
def vfClear (m : Mach) : Mach := (forEach ((List.finRange 8).filter fun (g : Fin 8) => g != 0) (fun (g : Fin 8) t => t.flrStart g) m).vfReturn

/-- Step 4 of R386. -/
def flrComplete (f : Fin 8) (m : Mach) : Mach :=
  let x := m.fn.get f
  if x.flrBusy && !x.flrEdge then m.onFn f fun x => { x with flrBusy := false, flrAt := none } else m

/-- R387. -/
def flrWedge (f : Fin 8) (m : Mach) : Mach :=
  match (m.fn.get f).flrBusy, (m.fn.get f).flrAt with
  | true, some t =>
    if (m.fn.get f).wedged then m
    else ((m.runToElapsed (t + 90000000)).onFn f fun x => { x with wedged := true }).errEvent 0
  | _, _ => m

/-! ## Report rings after a reset (R284, R388) -/

/-- Delivery of a class starts again: with KEEP and the retained base and size, from the retained state after the check of R284; or at
the ring's count 0 (R388). -/
def resumeClass (f : Fin 8) (c : Fin 4) (found : SlotHdr) (m : Mach) : Mach :=
  let r := rptRing c
  let d := m.deliveryOf f (rptDelivery c)
  let m1 := m.onFn f fun x => { x with retained := x.retained.filter (· != c.1) }
  if m1.on (R.HIF_F_RING_CFG_KEEP f r) ∧ (d.base, d.size) = (m1.ringBase f r, m1.ringSize f r) then
    if slotHolds found d.next d.phase then
      let m2 := m1.onJnl fun j => { j with recs := j.recs.map fun (x : JRec) =>
        if x.fn = f ∧ x.cls = c.1 ∧ x.rsn = d.next then { x with hostDone := true } else x }
      let m3 := m2.onRing f r fun k => { k with count := (k.count + 1) % 2 ^ 32 }
      ((m3.advanceDelivery f (rptDelivery c) r (m3.nextRsn f c)).inc R.JNL_RECONCILED).freeSlots
    else m1
  else
    (m1.onRing f r fun _ => {}).onDelivery f (rptDelivery c) fun x => { base := m1.ringBase f r, size := m1.ringSize f r, next := x.next }

/-- The classes of a mask. -/
def classesOf (mask : Nat) : List (Fin 4) := (List.finRange 4).filter fun (c : Fin 4) => bitN mask c.1

/-- RPT_RESUME; `slots` says what the host's slot of each named class holds, in ascending order. -/
def rptResumeCmd (h : CmdHdr) (mask : Nat) (slots : List SlotHdr) (m : Mach) : Mach :=
  m.command h 0x90 false
    (fun t => if (classesOf mask).any fun (c : Fin 4) => !t.ringEn h.fn (rptRing c) then some St.state else none)
    (fun _ t =>
      { m := forEach (classesOf mask).zipIdx (fun (c : Fin 4 × Nat) u =>
          if (u.fn.get h.fn).retained.contains c.1.1 then u.resumeClass h.fn c.1 ((slots[c.2]?).getD {}) else u) t })

/-- RPT_DISCARD: the retained records of the named classes count as delivered on the host path. -/
def rptDiscardCmd (h : CmdHdr) (mask : Nat) (m : Mach) : Mach :=
  m.command h 0x91 false (fun _ => none)
    (fun _ t =>
      let cs := (t.fn.get h.fn).retained.filter fun c => bitN mask c
      let mine := fun (r : JRec) => r.fn == h.fn && cs.contains r.cls && !r.hostDone
      let n := (t.jnl.recs.filter mine).length
      let t1 := t.onJnl fun j => { j with recs := j.recs.map fun r => if mine r then { r with hostDone := true } else r }
      let t2 := forEach ((List.finRange 4).filter fun (c : Fin 4) => cs.contains c.1) (fun (c : Fin 4) u =>
        u.onDelivery h.fn (rptDelivery c) fun d => { d with next := u.nextRsn h.fn c }) t1
      { m := (t2.onFn h.fn fun x => { x with retained := x.retained.filter fun c => !bitN mask c }).freeSlots, d10 := n })

/-- PKG_RESET: the reset begins 10 µs after the completion. -/
def pkgResetCmd (h : CmdHdr) (m : Mach) : Mach :=
  m.command h 0xF0 false (fun _ => none) (fun _ t => { m := t.onRst fun r => { r with pkgReset := some t.elapsed } })

end Mach

end Sys2Proof.Machine
end

