-- ==== Sys2Proof/Machine/HostIfOps.lean ====
section
/-! DEFINITION. Doorbells, rings, moderation, the mailbox, debug unlock (R370 to R375, R385, R390, R443). -/

namespace Sys2Proof.Machine

namespace Mach

/-! ## Doorbells (R372) -/

/-- A doorbell value that is ignored sets DB_ERR. -/
def dbError (f : Fin 8) (m : Mach) : Mach := ((m.set1 (R.HIF_F_STAT_DB_ERR f)).inc R.HIF_DB_ERRORS).errEvent f

/-- A doorbell write. -/
def doorbell (f : Fin 8) (r : Fin 7) (val : Word) (size32 : Bool) (m : Mach) : Mach :=
  if !size32 || !m.ringEn f r || (m.fn.get f).flrBusy then m
  else
    let c := m.ring f r
    let v := val.toNat
    let back := decide (2 ^ 31 ≤ toBits 32 ((v : Int) - c.host))
    let gap := (toSigned 32 (toBits 32 ((v : Int) - c.count))).natAbs
    if back || decide (m.ringSize f r < gap) then m.dbError f
    else m.onRing f r fun k => { k with host := v }

/-! ## Enabling a ring (R370, R371, R385) -/

/-- The CPL ring's slot is checked as R284 says, with CSEQ in place of RSN. -/
def cplReconcile (f : Fin 8) (cfg : RingCfg) (m : Mach) : Mach :=
  let d := m.deliveryOf f 0
  if cfg.keep ∧ (d.base, d.size) = (m.ringBase f 1, m.ringSize f 1) ∧ slotHolds cfg.slot d.next d.phase then
    ((m.onRing f 1 fun k => { k with count := (k.count + 1) % 2 ^ 32 }).advanceDelivery f 0 1 (d.next + 1)).inc R.JNL_RECONCILED
  else m

/-- DONE completions that wait in the command log are written before any other completion. -/
def payOwed (f : Fin 8) (m : Mach) : Mach :=
  let l := (m.fn.get f).owed
  forEach l (fun e t => t.cplWrite f e) (m.onFn f fun x => { x with owed := [] })

/-- A write of EN = 1 to HIF_F_RING_CFG. -/
def ringEnable (f : Fin 8) (r : Fin 7) (cfg : RingCfg) (m : Mach) : Mach :=
  if m.ringEn f r || (m.fn.get f).flrBusy then m
  else
    let m0 := (m.put (R.HIF_F_RING_CFG_KEEP f r) cfg.keep.toNat).put (R.HIF_F_RING_CFG_SZ f r) cfg.sz
    if cfg.sz < 6 ∨ 16 < cfg.sz then (m0.set1 (R.HIF_F_STAT_CFG_ERR f)).errEvent f
    else
      let m1 := m0.set1 (R.HIF_F_RING_CFG_EN f r)
      let m2 := if cfg.keep then m1 else m1.onRing f r fun _ => {}
      let open_ := fun (k : Fin 5) (t : Mach) =>
        if cfg.keep then t else t.onDelivery f k fun d => { base := t.ringBase f r, size := t.ringSize f r, next := d.next }
      match r with
      | 1 => ((open_ 0 m2).cplReconcile f cfg).payOwed f
      | 2 => open_ 1 m2
      | 3 => open_ 2 m2
      | 4 => open_ 3 m2
      | 5 => open_ 4 m2
      | _ => m2

/-- A write of EN = 0: the ring stops. -/
def ringDisable (f : Fin 8) (r : Fin 7) (m : Mach) : Mach := m.clr (R.HIF_F_RING_CFG_EN f r)

/-- R375: TIMER µs after the first entry since the vector's last message. -/
def modTimer (f : Fin 8) (v : Fin 6) (m : Mach) : Mach :=
  match ((m.fn.get f).mods.get v).since with
  | some t => (m.runToElapsed (t + m.g (R.HIF_F_MOD_TIMER f v) * 1000)).modSend f v
  | none => m

/-- A read of HIF_F_CSEQ_LO latches CSEQ_HI (R376). -/
def cseqRead (f : Fin 8) (m : Mach) : Mach :=
  let v := (m.fn.get f).cseq
  (m.wr (R.HIF_F_CSEQ_HI_A f) (BitVec.ofNat 32 (v / 2 ^ 32))).emit (.readValue (R.HIF_F_CSEQ_LO_A f) (BitVec.ofNat 32 v))

/-! ## The mailbox (R390) -/

/-- The request in MGT_MB_REQ. -/
def mbRequest (m : Mach) : MgtReq :=
  let b := (List.range 16).flatMap fun k => bytesOf 4 (m.rd (R.MGT_MB_REQ_A k)).toNat
  { code := byteAt b 0, tag := leN b 2 2, resp := leN b 8 8, rlen := leN b 0x10 4,
    args := (List.range 10).map fun k => BitVec.ofNat 32 (leN b (0x18 + 4 * k) 4) }

/-- MGT_MB_GO. -/
def mailboxGo (m : Mach) : Mach :=
  if 64 ≤ m.mgt.length then (m.put R.MGT_MB_RES_RESULT St.busy).inc R.MGT_MB_BUSY
  else mbDrain 64 ({ m with mgt := m.mgt ++ [m.mbRequest] }.put R.MGT_MB_RES_RESULT 0)

/-- Data cut to the response space of the head request. -/
def mbBytes (m : Mach) (b : List Byte) : List Int := (b.take m.mbRoom).map fun x => (x.toNat : Int)

/-- VERSION: firmware, boot ROM (a free value: it is not stated) and known-answer versions. -/
def mbVersion (m : Mach) : Mach :=
  match m.mbHead 1 with
  | none => m
  | some _ => let (rom, m1) := m.drawNat; m1.mbServe 0 [(m.chip.fwVer : Int), rom, m.chip.katVer]

/-- FPT_COPY. -/
def mbFpt (m : Mach) : Mach := match m.mbHead 2 with | none => m | some _ => m.mbReply 0 (m.mbBytes m.fptBytes) (min m.fptBytes.length m.mbRoom)

/-- TELEMETRY: the last reading of each rail group. -/
def mbTelemetry (m : Mach) : Mach :=
  match m.mbHead 3 with
  | none => m
  | some _ => m.mbServe 0 ((List.range 6).map fun g => (m.g (R.PWR_R_P g) : Int))

/-- FW_STAGE: the image is verified against the key slot and the rollback fuse, then it lies in the inactive bank. -/
def mbFwStage (sigOk : Bool) (antiRollback : Nat) (m : Mach) : Mach :=
  match m.mbHead 4 with
  | none => m
  | some _ =>
    if sigOk && decide (m.chip.rollback ≤ antiRollback) then (m.onRst fun r => { r with fwStaged := true }).mbServe 0 []
    else (m.inc R.SEC_FW_VERIFY_FAIL).mbServe St.state []

/-- LOG_READ: the management core's own log, as given. -/
def mbLog (entries : List Int) (m : Mach) : Mach := match m.mbHead 5 with | none => m | some _ => m.mbServe 0 entries

/-- CAL_STATUS: the pending sums and CAL_DEFER. -/
def mbCal (m : Mach) : Mach :=
  match m.mbHead 6 with
  | none => m
  | some _ =>
    let s := m.fus.waiting.getD (Vector.replicate 16 {})
    m.mbServe 0 ((s.toList.flatMap fun (c : CalSum) => [(c.n : Int), c.sCd, c.sMd, c.sCd2, c.sMd2]) ++ [(m.g R.FUS_STAT_CAL_DEFER : Int)])

/-- SCI: PORT 0x18 [3:0], ADDR and lengths and data as in PORT_CONFIG SCI, eight bytes later. -/
def mbSci (m : Mach) : Mach :=
  match m.mbHead 7 with
  | none => m
  | some q =>
    let b := q.args.flatMap fun w => bytesOf 4 w.toNat
    let p : Fin 16 := Fin.ofNat 16 (byteAt b 0)
    let wlen := byteAt b 3 % 64
    if !m.on (R.ING_SCI_CFG_OWNER p) || (m.port.get p).sci.isSome then m.mbServe St.state []
    else ({ m with mgtSci := some p }.sciPut p (sliceB b 8 (min 32 wlen))).sciStart p .mgt (byteAt b 2 % 128) wlen (byteAt b 4 % 64)

/-- SEC_NONCE: a free value of the nonce counter. -/
def nonceNow (m : Mach) : Nat := Config.freeNat (2 ^ 64 + m.rst.nonce) % 2 ^ 64

/-- DEBUG_UNLOCK (R443). -/
def mbUnlock (sigOk : Bool) (serial nonce : Nat) (m : Mach) : Mach :=
  match m.mbHead 8 with
  | none => m
  | some _ =>
    if sigOk && serial == m.chip.serial && nonce == m.nonceNow then
      ((m.onRst fun r => { r with unlocked := true }).inc R.SEC_UNLOCK_OK).mbServe 0 []
    else ((m.onRst fun r => { r with nonce := r.nonce + 1 }).inc R.SEC_UNLOCK_FAIL).mbServe St.state []

/-! ## Security registers (R443) -/

/-- SEC_LOCK.RELOCK. -/
def secRelock (m : Mach) : Mach := m.onRst fun r => { r with unlocked := false }

/-- A read of SEC_NONCE_LO latches NONCE_HI. -/
def nonceRead (m : Mach) : Mach :=
  (m.wr R.SEC_NONCE_HI_A (BitVec.ofNat 32 (m.nonceNow / 2 ^ 32))).emit (.readValue R.SEC_NONCE_LO_A (BitVec.ofNat 32 m.nonceNow))

end Mach

end Sys2Proof.Machine
end

