-- ==== Sys2Proof/Machine/NetOps.lean ====
section
/-! DEFINITION. The Ethernet ports, PTP and the management core's PTP clock (R347 to R352). -/

namespace Sys2Proof.Machine

namespace Mach

/-! ## The stations (R347, R348) -/

/-- A port is enabled and its link is up (R350, R359). -/
def ethUp (m : Mach) (p : Fin 2) : Bool := m.on (R.ETH_CTRL_EN p) && m.net.link.get p

/-- The six bytes of a port's MAC address. -/
def ethMac (m : Mach) (p : Fin 2) : List Byte := bytesOf 4 (m.g (R.ETH_MAC_LO p)) ++ bytesOf 2 (m.g (R.ETH_MAC_HI p))

/-- The link-local IPv6 address, by modified EUI-64. -/
def linkLocal (m : Mach) (p : Fin 2) : List Byte :=
  let a := m.ethMac p
  [0xFE, 0x80, 0, 0, 0, 0, 0, 0, BitVec.ofNat 8 (byteAt a 0) ^^^ 0x02] ++ sliceB a 1 2 ++ [0xFF, 0xFE] ++ sliceB a 3 3

/-- The global IPv6 address, when PREFIX is not 0. -/
def globalIp6 (m : Mach) (p : Fin 2) : Option (List Byte) :=
  if m.on (R.ETH_IP6_CFG p) then some ((List.range 4).flatMap fun k => bytesOf 4 (m.rd (R.ETH_IP6_A p k)).toNat) else none

/-- A frame leaves a port. -/
def ethSend (p : Fin 2) (x : EthTx) (m : Mach) : Mach := (m.emit (.eth p.1 x)).inc (R.ETH_TX_FRAMES p)

/-- The tags of a received frame are supported (R347). -/
def vlanOk (m : Mach) (p : Fin 2) (tags : List Nat) : Bool :=
  match tags with
  | [] => m.on (R.ETH_CTRL_RX_UNTAG p)
  | [t] => t % 4096 == m.g (R.ETH_VLAN_VID p)
  | _ => false

/-- The counter of a frame that R347 supports; none: it is outside the subset. -/
def rxCounter (m : Mach) (p : Fin 2) (fr : EthFrame) : Option Fld :=
  let mine := fr.dst == .station
  match fr.body with
  | .arp => some (R.ETH_ARP p)
  | .ndp => if mine || fr.dst == .ndpMulticast then some (R.ETH_NDP p) else none
  | .icmpEcho n => if mine && decide (n ≤ 1472) then some (R.ETH_ICMP p) else none
  | .ptpL2 => if mine || fr.dst == .ptpMulticast then some (R.ETH_PTP p) else none
  | .udp d =>
    if (d == 319 || d == 320) && (mine || fr.dst == .ptpMulticast) then some (R.ETH_PTP p)
    else if mine && d == m.g R.RRT_CFG_UDP_PORT then some (R.ETH_RRT_RX p)
    else none
  | .pause => none
  | .tcp => none
  | .other => none

/-- R347: a frame is classified, or discarded and counted. -/
def ethFrameRx (p : Fin 2) (fr : EthFrame) (m : Mach) : Mach :=
  if !m.ethUp p then m
  else
    let m1 := m.inc (R.ETH_RX_FRAMES p)
    if !fr.fcsOk then m1.inc (R.ETH_RX_FCS p)
    else if 1522 < fr.len then m1.inc (R.ETH_RX_OVERSIZE p)
    else if fr.body = .pause then m1.inc (R.ETH_RX_PAUSE p)
    else if fr.len < 64 ∨ fr.unsupported ∨ !m1.vlanOk p fr.tags then m1.inc (R.ETH_RX_DROP p)
    else m1.inc ((m1.rxCounter p fr).getD (R.ETH_RX_DROP p))

/-- The frame is a supported UDP datagram to the station's RRT port: wake source 4 (R327). -/
def rrtFrame (m : Mach) (p : Fin 2) (fr : EthFrame) : Bool :=
  m.ethUp p && fr.fcsOk && decide (64 ≤ fr.len) && decide (fr.len ≤ 1522) && !fr.unsupported && m.vlanOk p fr.tags &&
    fr.dst == .station && fr.body == .udp (m.g R.RRT_CFG_UDP_PORT)

/-- A supported frame of a kind has arrived. -/
def ethArrived (p : Fin 2) (f : Fld) (m : Mach) : Mach := (m.inc (R.ETH_RX_FRAMES p)).inc f

/-- R348: an ARP request is answered when it asks for the station's address. -/
def arpRequest (p : Fin 2) (target : BitVec 32) (sender : List Byte) (m : Mach) : Mach :=
  if !m.ethUp p then m
  else
    let m1 := m.ethArrived p (R.ETH_ARP p)
    if target.toNat = m1.g (R.ETH_IP4 p) then m1.ethSend p (.arpReply (m1.ethMac p) target sender) else m1

/-- R348: a neighbour solicitation is answered for the station's IPv6 addresses. -/
def neighborSolicitation (p : Fin 2) (target : List Byte) (m : Mach) : Mach :=
  if !m.ethUp p then m
  else
    let m1 := m.ethArrived p (R.ETH_NDP p)
    if target = m1.linkLocal p ∨ m1.globalIp6 p = some target then m1.ethSend p (.neighborAdvertisement target (m1.ethMac p)) else m1

/-- R348: an echo request is answered up to 1,472 bytes of payload; a longer one is outside the subset. -/
def echoRequest (p : Fin 2) (v6 : Bool) (payload : Nat) (m : Mach) : Mach :=
  if !m.ethUp p then m
  else if payload ≤ 1472 then (m.ethArrived p (R.ETH_ICMP p)).ethSend p (.echoReply v6 payload)
  else m.ethArrived p (R.ETH_RX_DROP p)

/-! ## The PTP receive queue (R349, R351) -/

/-- The four message types that are stamped. -/
def ptpEvent (t : Nat) : Bool := decide (t % 16 ≤ 3)

/-- The party is the owner of the PTP queue and PTP_TX_CMD (R351). -/
def ptpOwns (m : Mach) (party : Party) : Bool := (party == .mgt) == m.net.ptpMgt

/-- A PTP frame enters the queue, or finds it full. -/
def ptpQueue (p : Fin 2) (fr : PtpFrame) (m : Mach) : Mach :=
  if 32 ≤ m.net.rxq.length then (m.inc R.PTP_RX_DROP).set1 R.PTP_RX_STAT_OVF
  else
    let ev := ptpEvent fr.msgType
    let e : PtpEntry :=
      { stamp := if ev then m.time.n + m.gi (R.ETH_TS_COMP_RX_COMP p) else 0, len := fr.len, vlan := fr.vlan,
        trunc := decide (240 < fr.len), event := ev, port := p.1, bytes := sliceB fr.bytes 0 (min 240 fr.len) }
    (m.onNet fun n => { n with rxq := n.rxq ++ [e] }).inc (if ev then R.PTP_RX_EVENT else R.PTP_RX_GEN)

/-- R351: PTP_RX_POP frees the head entry. -/
def ptpPop (party : Party) (m : Mach) : Mach :=
  if !m.ptpOwns party then m.set1 R.PTP_STAT_OWN_ERR
  else
    match m.net.rxq with
    | [] => m
    | _ :: r => m.onNet fun n => { n with rxq := r, rxHead := (n.rxHead + 1) % 32 }

/-! ## Sending a PTP frame (R350) -/

/-- The frame in PTP_TX_BUF. -/
def txFrame (m : Mach) (len : Nat) : List Byte :=
  ((List.range ((len + 3) / 4)).flatMap fun k => bytesOf 4 (m.rd (R.PTP_TX_BUF_A k)).toNat).take len

/-- A big-endian half word of a frame. -/
def be16 (b : List Byte) (i : Nat) : Nat := 256 * byteAt b i + byteAt b (i + 1)

/-- Where the PTP header lies, and with which IP version, and where the UDP header lies: none for a frame that is not PTP. -/
def ptpHeader (b : List Byte) : Option (Nat × Option (Nat × Nat)) :=
  let l3 := if be16 b 12 = 0x8100 then 18 else 14
  let et := be16 b (l3 - 2)
  let port := fun (u : Nat) => be16 b (u + 2) == 319 || be16 b (u + 2) == 320
  if et = 0x88F7 then some (l3, none)
  else if et = 0x0800 ∧ byteAt b l3 = 0x45 ∧ byteAt b (l3 + 9) = 17 ∧ port (l3 + 20) then some (l3 + 28, some (4, l3 + 20))
  else if et = 0x86DD ∧ byteAt b l3 / 16 = 6 ∧ byteAt b (l3 + 6) = 17 ∧ port (l3 + 40) then some (l3 + 48, some (6, l3 + 40))
  else none

/-- Replace bytes from offset i. -/
def patch (b : List Byte) (i : Nat) (new : List Byte) : List Byte := b.take i ++ new ++ b.drop (i + new.length)

/-- The sum of the half words from offset i. -/
def sum16 (b : List Byte) (i n : Nat) : Nat := ((List.range n).map fun k => be16 b (i + 2 * k)).sum

/-- Fold a sum into a one's complement half word. -/
def fold16 (v : Nat) : Nat := let a := v % 65536 + v / 65536; let c := a % 65536 + a / 65536; c % 65536 + c / 65536

/-- The departing frame of modes 2 and 3, with its UDP checksum: 0 over IPv4, corrected incrementally over IPv6. -/
def ptpEdit (mode : Nat) (stamp tref : Int) (hdr : Nat) (ip : Option (Nat × Nat)) (b : List Byte) : List Byte :=
  let (off, new) : Nat × List Byte :=
    if mode = 2 then
      (hdr + 34, (bytesOfI 6 (stamp.fdiv 1000000000)).reverse ++ (bytesOfI 4 (stamp.fmod 1000000000)).reverse)
    else if mode = 3 then
      let old := leI (sliceB b (hdr + 8) 8).reverse 0 8
      (hdr + 8, (bytesOfI 8 (old + (stamp - tref) * 65536)).reverse)
    else (hdr, [])
  let b1 := patch b off new
  match ip, new.isEmpty with
  | some (4, u), false => patch b1 (u + 6) [0, 0]
  | some (_, u), false =>
    let n := new.length / 2
    let c := 65535 - fold16 (65535 - be16 b (u + 6) + (65535 * n - sum16 b off n) + sum16 b1 off n)
    patch b1 (u + 6) (bytesOf 2 c).reverse
  | _, _ => b1

/-- The VLAN tag of a sent frame (R347). -/
def ethTag (m : Mach) (p : Fin 2) (b : List Byte) : List Byte :=
  if m.on (R.ETH_CTRL_VLAN_TX p) && be16 b 12 != 0x8100 then
    b.take 12 ++ [0x81, 0x00] ++ (bytesOf 2 (m.g (R.ETH_VLAN_PCP p) * 8192 + m.g (R.ETH_VLAN_VID p))).reverse ++ b.drop 12
  else b

/-- R350, R351: GO. A command of the party that does not own PTP is discarded. -/
def ptpTxGo (party : Party) (cmd : Word) (m : Mach) : Mach :=
  if !m.ptpOwns party then
    let m1 := m.set1 R.PTP_STAT_OWN_ERR
    if m.net.tx.isNone then m1.put R.PTP_TX_STAT_ERR 4 else m1
  else if m.net.tx.isSome then m
  else
    let v := cmd.toNat
    let m1 := m.wr R.PTP_TX_CMD_A (BitVec.ofNat 32 (bitsN v 27 26 * 2 ^ 26 + bitsN v 25 25 * 2 ^ 25 + bitsN v 10 0))
    if bitN v 31 then
      ((m1.set1 R.PTP_TX_CMD_GO).put R.PTP_TX_STAT_ERR 0).onNet fun n => { n with tx := some (bitsN v 27 26, bitsN v 25 25) }
    else m1

/-- R350: the frame has departed, or failed. -/
def ptpTxDone (m : Mach) : Mach :=
  match m.net.tx with
  | none => m
  | some (mode, port) =>
    let p : Fin 2 := Fin.ofNat 2 port
    let len := m.g R.PTP_TX_CMD_LEN
    let b := m.txFrame len
    let m1 := ((m.clr R.PTP_TX_CMD_GO).set1 R.PTP_TX_STAT_DONE).onNet fun n => { n with tx := none }
    if len < 60 ∨ 1518 < len then m1.put R.PTP_TX_STAT_ERR 2
    else
      match ptpHeader b with
      | none => m1.put R.PTP_TX_STAT_ERR 1
      | some (hdr, ip) =>
        if !m1.ethUp p then m1.put R.PTP_TX_STAT_ERR 3
        else
          let stamp := m1.time.n + m1.gi (R.ETH_TS_COMP_TX_COMP p)
          let out := m1.ethTag p (ptpEdit mode stamp (m1.gi64 R.PTP_TX_TREF_LO_A R.PTP_TX_TREF_HI_A) hdr ip b)
          let m2 := ((m1.put R.PTP_TX_STAT_ERR 0).ethSend p (.ptp mode out)).inc R.PTP_TX
          if mode = 0 then m2 else m2.onNet fun n => { n with txStamp := stamp }

/-- R350: a read of TS_LO latches TS_HI. -/
def ptpTsRead (m : Mach) : Mach :=
  let v := toBits 64 m.net.txStamp
  (m.wr R.PTP_TX_TS_HI_A (BitVec.ofNat 32 (v / 2 ^ 32))).emit (.readValue R.PTP_TX_TS_LO_A (BitVec.ofNat 32 v))

/-- R351: the PCIe data link layer goes down. -/
def ptpFailover (m : Mach) : Mach :=
  let m1 := m.onNet fun n => { n with pcieDown := true }
  if m1.on R.PTP_CTRL_FAILOVER && !m1.on R.PTP_CTRL_OWNER && !m1.net.ptpMgt then
    ((m1.onNet fun n => { n with ptpMgt := true }).inc R.PTP_FAILOVERS).health H.ptpFailover .package []
  else m1

/-! ## The management core's clock (R352) -/

/-- The clock runs on a port. -/
def clockOn (m : Mach) (p : Fin 2) : Bool := m.net.ptpMgt && m.on (if p = 0 then R.PTP_CTRL_EN0 else R.PTP_CTRL_EN1)

/-- The path delay is measured peer to peer: profiles 1 and 2. -/
def peerDelay (m : Mach) : Bool := m.g R.PTP_CTRL_PROFILE == 1 || m.g R.PTP_CTRL_PROFILE == 2

/-- The transport of the clock's messages: 802.1AS always uses L2, and 3 acts as 0 (R352). -/
def ptpTransport (m : Mach) : Nat :=
  let t := m.g R.PTP_CTRL_TRANSPORT
  if m.g R.PTP_CTRL_PROFILE = 2 ∨ t = 3 then 0 else t

def onClock (f : PtpClock → PtpClock) (m : Mach) : Mach := m.onNet fun n => { n with clock := f n.clock }

/-- One Announce is better than another by the default best master clock algorithm: the lower data set, and with the same
grandmaster the fewer steps. -/
def betterMaster (a b : Announce) : Bool :=
  let key := fun (x : Announce) => [x.prio1, x.clockClass, x.accuracy, x.variance, x.prio2, x.identity]
  if a.identity = b.identity then decide (a.stepsRemoved < b.stepsRemoved) else decide (key a < key b)

/-- An offset sample of SRC 0 (R337). -/
def submitSample (theta : Int) (m : Mach) : Mach :=
  if m.g R.TIM_SRV_CFG_SRC = 0 then m.servoSample theta m.time.n else m.set1 R.TIM_STAT_SAMPLE_LOST

/-- A Sync is complete: theta = t2 - t1 - meanPathDelay - correction. meanPathDelay is held in half ns; how theta is rounded
from a half is open, so that half is a free value. -/
def syncComplete (t1 t2 corr : Int) (m : Mach) : Mach :=
  let m1 := m.onClock fun c => { c with sync := none, t12 := some (t1, t2 - corr) }
  let (half, m2) := m1.drawNat
  m2.submitSample ((2 * (t2 - corr - t1) - m2.net.clock.path2 + (half % 2 : Nat)).fdiv 2)

/-- A message that the clock takes, stamped at t. -/
def clockTakes (p : Fin 2) (fr : PtpFrame) (t : Int) (m : Mach) : Mach :=
  let c := m.net.clock
  let fromMaster := match c.master with | some (s, _) => s == fr.source | none => false
  match fr.body with
  | .announce a =>
    let take := match c.master with | none => true | some (s, b) => s == fr.source || betterMaster a b
    if take then m.onClock fun c => { c with master := some (fr.source, a) } else m
  | .sync twoStep t1 corr =>
    if !fromMaster then m
    else if twoStep then m.onClock fun c => { c with sync := some (fr.source, fr.seq, t, corr) }
    else m.syncComplete t1 t corr
  | .followUp t1 corr =>
    match c.sync with
    | some (s, q, t2, k) => if s = fr.source ∧ q = fr.seq then m.syncComplete t1 t2 (k + corr) else m
    | none => m
  | .delayResp t4 corr =>
    match c.t12, c.reqAt with
    | some (t1, t2), some t3 =>
      if fromMaster && !m.peerDelay then m.onClock fun c => { c with path2 := t2 - t1 + (t4 - t3 - corr), reqAt := none } else m
    | _, _ => m
  | .pdelayReq =>
    (m.ethSend p (.pdelayResp m.ptpTransport ((m.time.n + m.gi (R.ETH_TS_COMP_TX_COMP p) - t) * 65536))).inc R.PTP_TX
  | .pdelayResp t2 corr => if m.peerDelay then m.onClock fun c => { c with resp := some (t, t2, corr) } else m
  | .pdelayRespFollowUp t3 corr =>
    match c.reqAt, c.resp with
    | some t1, some (t4, t2, k) =>
      if m.peerDelay then m.onClock fun c => { c with path2 := t4 - t1 - (t3 - t2) - k - corr, reqAt := none, resp := none } else m
    | _, _ => m
  | .delayReq => m
  | .other => m

/-- R349, R352: a PTP frame arrives. -/
def ptpFrameRx (p : Fin 2) (fr : PtpFrame) (m : Mach) : Mach :=
  if !m.ethUp p then m
  else
    let t := m.time.n + m.gi (R.ETH_TS_COMP_RX_COMP p)
    let full := decide (32 ≤ m.net.rxq.length)
    let m1 := (m.ethArrived p (R.ETH_PTP p)).ptpQueue p fr
    if !full && m1.clockOn p && fr.domain == m1.g R.PTP_CTRL_DOMAIN && fr.transport == m1.ptpTransport then m1.clockTakes p fr t else m1

/-- R352: the management core sends its path-delay request. -/
def delayReqSend (p : Fin 2) (m : Mach) : Mach :=
  if m.clockOn p && m.ethUp p && (m.peerDelay || m.net.clock.master.isSome) then
    let m1 := (m.ethSend p (.delayReq m.peerDelay m.ptpTransport (m.g R.PTP_CTRL_DOMAIN))).inc R.PTP_TX
    m1.onClock fun c => { c with reqAt := some (m1.time.n + m1.gi (R.ETH_TS_COMP_TX_COMP p)), resp := none }
  else m

end Mach

end Sys2Proof.Machine
end

