-- ==== Sys2Proof/Machine/RrtOps.lean ====
section
/-! DEFINITION. The report transport: next hops, sending, resending, acknowledgement, fallback (R348, R353 to R360). -/

namespace Sys2Proof.Machine

namespace Mach

/-- The primary port of a destination, and the other one (R353). -/
def destPort (m : Mach) (d : Fin 8) : Fin 2 := Fin.ofNat 2 (m.g (R.RRT_D_CTRL_PORT d))
def otherPort (m : Mach) (d : Fin 8) : Fin 2 := Fin.ofNat 2 (m.g (R.RRT_D_CTRL_PORT d) + 1)

/-- The next hop of a destination stands on a port (R348). -/
def hopKnown (m : Mach) (d : Fin 8) (p : Fin 2) : Bool :=
  m.on (R.RRT_D_CTRL_STATIC d) || ((m.net.dests.get d).hops.get p).isSome

/-- A port carries datagrams to a destination (R348, R359). -/
def hopUsable (m : Mach) (d : Fin 8) (p : Fin 2) : Bool := m.ethUp p && m.hopKnown d p

/-- The fallback is enabled and usable. -/
def fbUsable (m : Mach) (d : Fin 8) : Bool := m.on (R.RRT_D_CTRL_FB_EN d) && m.hopUsable d (m.otherPort d)

/-! ## Next-hop resolution (R348) -/

/-- The IPv6 address of a destination. -/
def destIp6 (m : Mach) (d : Fin 8) : List Byte := (List.range 4).flatMap fun k => bytesOf 4 (m.rd (R.RRT_D_IP_A d k)).toNat

/-- A bit of an address in network order: bit 0 is the top bit of the first byte. -/
def netBit (b : List Byte) (i : Nat) : Bool := bitN (byteAt b (i / 8)) (7 - i % 8)

/-- Two addresses agree in their first n bits. -/
def samePrefix (a b : List Byte) (n : Nat) : Bool := (List.range n).all fun i => netBit a i == netBit b i

/-- What the AVK asks for on a port to reach a destination: the destination, or the gateway when it lies off-prefix. -/
def hopQuery (m : Mach) (d : Fin 8) (p : Fin 2) : EthTx :=
  if m.on (R.RRT_D_CTRL_V6 d) then
    let ip := m.destIp6 d
    let near := samePrefix ip [0xFE, 0x80] 10 ||
      (match m.globalIp6 p with | some a => samePrefix ip a (m.g (R.ETH_IP6_CFG p)) | none => false)
    .neighborSolicitation (if near then ip else (List.range 4).flatMap fun k => bytesOf 4 (m.rd (R.ETH_IP6_GW_A p k)).toNat)
  else
    let ip := (m.rd (R.RRT_D_IP_A d 0)).toNat
    let near := samePrefix (bytesOf 4 ip) (bytesOf 4 (m.g (R.ETH_IP4 p))) (m.g (R.ETH_IP4_CFG p))
    .arpRequest (BitVec.ofNat 32 (if near then ip else m.g (R.ETH_IP4_GW p)))

/-- Ask for a destination's next hop on every port that it may use. -/
def askHops (d : Fin 8) (m : Mach) : Mach :=
  if !m.on (R.RRT_D_CTRL_EN d) || m.on (R.RRT_D_CTRL_STATIC d) then m
  else
    let ports := if m.on (R.RRT_D_CTRL_FB_EN d) then [m.destPort d, m.otherPort d] else [m.destPort d]
    forEach (ports.filter m.ethUp) (fun (p : Fin 2) t => t.ethSend p (t.hopQuery d p)) m

/-- R348: every 60 s each entry is refreshed. -/
def refreshHops (m : Mach) : Mach :=
  let m1 := m.runToElapsed (m.net.refreshAt + 60000000000)
  forEach (List.finRange 8) (fun (d : Fin 8) t => t.askHops d) (m1.onNet fun n => { n with refreshAt := m1.elapsed })

/-! ## DOWN and fallback (R359) -/

/-- A destination goes DOWN. -/
def destDown (d : Fin 8) (m : Mach) : Mach :=
  if (m.net.dests.get d).down then m
  else
    ((m.onDest d fun x => { x with down := true, resends := 0, probeAt := m.elapsed }).inc R.RRT_DEST_DOWN).health H.rrtDestDown
      (.eth (m.destPort d)) []

/-- A DOWN destination goes to its fallback when that is usable. -/
def destFallback (d : Fin 8) (m : Mach) : Mach :=
  let x := m.net.dests.get d
  if x.down && !x.onFb && m.fbUsable d then
    ((m.onDest d fun y => { y with onFb := true, probeAt := m.elapsed }).inc R.RRT_FB_SWITCH).health H.rrtFallback
      (.eth (m.otherPort d)) []
  else m

/-- A destination is judged again after its ports or next hops have changed. -/
def judgeDest (d : Fin 8) (m : Mach) : Mach :=
  if !m.on (R.RRT_D_CTRL_EN d) then m
  else
    let m1 := if (m.net.dests.get d).onFb && !m.fbUsable d then m.onDest d fun x => { x with onFb := false } else m
    let m2 := if !m1.hopUsable d (m1.destPort d) && !(m1.net.dests.get d).onFb then m1.destDown d else m1
    m2.destFallback d

/-- R348: an answer resolves the next hop of a destination on a port. -/
def hopReply (p : Fin 2) (d : Fin 8) (mac : List Byte) (m : Mach) : Mach :=
  if !m.ethUp p then m
  else
    let m1 := m.ethArrived p (if m.on (R.RRT_D_CTRL_V6 d) then R.ETH_NDP p else R.ETH_ARP p)
    if m1.on (R.RRT_D_CTRL_EN d) && !m1.on (R.RRT_D_CTRL_STATIC d) then
      (m1.onDest d fun x => { x with hops := vput x.hops p (some (sliceB mac 0 6)) }).judgeDest d
    else m1

/-- R361, R359: an Ethernet port's link changes. -/
def ethLink (p : Fin 2) (up : Bool) (m : Mach) : Mach :=
  if m.net.link.get p == up || (up && !m.on (R.ETH_CTRL_EN p)) then m
  else
    let m1 := ((m.onNet fun n => { n with link := vput n.link p up }).set1 (R.ETH_STAT_LINK_CHG p)).health H.ethLink (.eth p) []
    forEach (List.finRange 8) (fun (d : Fin 8) t => (if up then t.askHops d else t).judgeDest d) m1

/-! ## Records of a stream on a path (R353 to R356) -/

/-- The full RSN of a record (R256). -/
def rsnOf (r : JRec) : Nat := r.rsn

/-- Records of a stream that a destination has not acknowledged, in RSN order. -/
def waitingFor (m : Mach) (d : Fin 8) (s : Fin 32) : List JRec :=
  m.jnl.recs.filter fun r => 4 * r.fn.1 + r.cls == s.1 && r.dests.contains d.1

/-- The acknowledgement base: everything up to it is acknowledged. -/
def baseOf (m : Mach) (d : Fin 8) (s : Fin 32) : Nat :=
  match m.waitingFor d s with
  | r :: _ => rsnOf r - 1
  | [] => ((m.net.dests.get d).base.find s).getD (m.jnl.epoch * 2 ^ 48 + m.jnl.next.get s - 1)

/-- Datagrams in flight: those with a record above the base. -/
def flightOf (m : Mach) (d : Fin 8) (s : Fin 32) : List RrtFlight :=
  (((m.net.dests.get d).flight.find s).getD []).filter fun x => decide (m.baseOf d s < x.last)

/-- The highest RSN sent. -/
def topSent (m : Mach) (d : Fin 8) (s : Fin 32) : Nat :=
  match (m.flightOf d s).getLast? with | some x => x.last | none => m.baseOf d s

/-- Records of one datagram: consecutive RSNs of one epoch, present in the journal, at most n. -/
def runOf : Nat → Option JRec → List JRec → List JRec
  | 0, _, _ => []
  | _, _, [] => []
  | n + 1, prev, r :: l =>
    let next := match prev with | some q => rsnOf q + 1 == rsnOf r | none => true
    if next && r.released && !r.early then r :: runOf n (some r) l else []

/-- MAX_REC (R355). -/
def maxRec (m : Mach) : Nat := let v := m.g R.RRT_CFG2_MAX_REC; if 1 ≤ v ∧ v ≤ 20 then v else 20

/-- Datagrams leave: not before READY's epoch is known, not in a final commit or a reset. -/
def rrtRuns (m : Mach) : Bool := m.rst.ready && !m.ringsStopped

/-- The 32 bytes of key k. -/
def rrtKey (m : Mach) (k : Nat) : List Byte := (List.range 8).flatMap fun w => bytesOf 4 (m.rd (R.RRT_KEY_A (8 * k + w))).toNat

/-- The records of a stream from one RSN to another. -/
def recsFrom (m : Mach) (s : Fin 32) (first last : Nat) : List JRec :=
  m.jnl.recs.filter fun r => 4 * r.fn.1 + r.cls == s.1 && decide (first ≤ rsnOf r) && decide (rsnOf r ≤ last)

/-- The UDP payload of a DATA datagram: header, records with PHASE 0, and the tag with AUTH (R354, R358). -/
def dataBytes (m : Mach) (d : Fin 8) (s : Fin 32) (first last : Nat) : List Byte :=
  let auth := m.on (R.RRT_D_CTRL_AUTH d)
  let key := m.g (R.RRT_D_CTRL_KEY d)
  let b := bytesOf 2 0x5252 ++ bytesOf 1 0x11 ++ bytesOf 1 (b2n auth 7) ++ bytesOf 1 (m.g R.FUS_CTRL_PKG_ID) ++ bytesOf 1 s.1 ++
    bytesOf 1 (last + 1 - first) ++ bytesOf 1 (if auth then key % 8 else 0) ++ bytesOf 8 first ++ bytesOfI 8 m.time.n ++
    bytesOf 4 (m.net.dests.get d).dseq ++ zeros 4 ++ (m.recsFrom s first last).flatMap fun r => r.bytes false
  if auth then b ++ (Sha.hmac (m.rrtKey key) b).take 16 else b

/-- One DATA datagram with records first to last leaves a port (R354). -/
def sendData (d : Fin 8) (s : Fin 32) (p : Fin 2) (first last : Nat) (resend : Bool) (m : Mach) : Mach :=
  let n := last + 1 - first
  let m1 := (((m.onDest d fun x => { x with dseq := (x.dseq + 1) % 2 ^ 32 }).inc R.RRT_DG_TX).addTo R.RRT_REC_TX n).inc (R.ETH_TX_FRAMES p)
  let m2 := if resend then m1.inc R.RRT_DG_RESENT else m1
  let m3 := forEach (m2.recsFrom s first last) (fun r t => t.readSlot r) m2
  m3.emit (.rrt p.1 d.1 s.1 first n (m3.net.dests.get d).dseq m3.time.n resend (m3.dataBytes d s first last))

/-- Records that are sent for the first time: those beyond their bound are late (R42). -/
def countSent (d : Fin 8) (s : Fin 32) (first last : Nat) (m : Mach) : Mach :=
  forEach ((m.recsFrom s first last).filter fun r => r.dests.contains d.1) (fun r t => t.countLate r) m

def setFlight (d : Fin 8) (s : Fin 32) (l : List RrtFlight) (m : Mach) : Mach :=
  m.onDest d fun x => { x with flight := if l.isEmpty then x.flight.erase s else x.flight.put s l }

/-- The port that a destination's datagrams take now: none while it is DOWN without a fallback. -/
def txPort (m : Mach) (d : Fin 8) : Option (Fin 2) :=
  let x := m.net.dests.get d
  if x.onFb then some (m.otherPort d)
  else if x.down || !m.hopUsable d (m.destPort d) then none
  else some (m.destPort d)

/-- The record that a destination is to be sent next of a stream: the first above the highest sent, released and within the window, while
the destination has a port to send on (R353, R355). One freed early needs the store (R273, R460). -/
def rrtHead (m : Mach) (d : Fin 8) (s : Fin 32) : Option JRec :=
  if !m.on (R.RRT_D_CTRL_EN d) || (m.txPort d).isNone then none
  else
    match (m.waitingFor d s).find? fun r => decide (m.topSent d s < rsnOf r) with
    | some r => if r.released && decide (rsnOf r ≤ m.baseOf d s + 65536) && (!r.early || m.storeIdle) then some r else none
    | none => none

/-- The record that goes to RRT next (R269): of the lowest class, then the first that was written. One whose window is closed holds back
no other stream. -/
def rrtNext (m : Mach) : Option JRec :=
  let heads := (List.finRange 8).flatMap fun (d : Fin 8) => (List.finRange 32).filterMap fun (s : Fin 32) => m.rrtHead d s
  (m.jnl.recs.filter fun r => heads.any (JRec.same r)).foldl (fun b r =>
    match b with
    | some x => if r.cls < x.cls then some r else b
    | none => some r) none

/-- R355: released records of a stream go to a destination within its window, when they are the reader's next (R269). A record freed early
is read back first (R273). -/
def rrtSend (d : Fin 8) (s : Fin 32) (m : Mach) : Mach :=
  if !m.rrtRuns then m
  else
    match m.txPort d, m.rrtHead d s, m.rrtNext with
    | some p, some r, some x =>
      if !r.same x then m
      else if r.early then m.nvmeIssue (.readBack r.fn r.cls r.count)
      else
        match (runOf m.maxRec none ((m.waitingFor d s).filter fun y => decide (rsnOf r ≤ rsnOf y) && decide (rsnOf y ≤ m.baseOf d s + 65536))).getLast? with
        | none => m
        | some e =>
          ((m.setFlight d s (m.flightOf d s ++ [{ first := rsnOf r, last := rsnOf e, t := m.elapsed }])).sendData d s p (rsnOf r) (rsnOf e)
            false).countSent d s (rsnOf r) (rsnOf e)
    | _, _, _ => m

/-- R355, R359: RESEND µs after the oldest unacknowledged record was sent, everything from it onward is sent again, in order;
DOWN_N resends without progress make the destination DOWN. RESEND is held at 100 or more. -/
def rrtResend (d : Fin 8) (s : Fin 32) (m : Mach) : Mach :=
  if !m.rrtRuns || !m.on (R.RRT_D_CTRL_EN d) || (m.txPort d).isNone then m
  else
    match m.flightOf d s with
    | [] => m
    | x :: _ =>
      match (m.recsFrom s x.first (m.topSent d s)).find? fun r => r.early && r.dests.contains d.1 with
      | some r => if m.storeIdle then m.nvmeIssue (.readBack r.fn r.cls r.count) else m
      | none =>
      let m1 := m.runToElapsed (x.t + max 100 (m.g R.RRT_CFG_RESEND) * 1000)
      match m1.txPort d with
      | none => m1
      | some p =>
        let l := m1.flightOf d s
        let base := m1.baseOf d s
        let m2 := forEach l (fun (y : RrtFlight) t => t.sendData d s p (max y.first (base + 1)) y.last true) m1
        let m3 := m2.setFlight d s (l.map fun y => { y with first := max y.first (base + 1), t := m2.elapsed })
        let m4 := m3.onDest d fun y => { y with resends := y.resends + 1 }
        if atLeast1 (m4.g R.RRT_CFG2_DOWN_N) ≤ (m4.net.dests.get d).resends then
          if (m4.net.dests.get d).down then m4 else (m4.destDown d).destFallback d
        else m4

/-- The oldest unacknowledged datagram of a destination: its stream and what it holds. -/
def oldestFlight (m : Mach) (d : Fin 8) : Option (Fin 32 × RrtFlight) :=
  (List.finRange 32).foldl (fun b s =>
    match (m.flightOf d s).head?, b with
    | some x, some (_, y) => if x.t < y.t then some (s, x) else b
    | some x, none => some (s, x)
    | none, _ => b) none

/-- The first datagram that a destination would be sent, when nothing is in flight. -/
def firstDatagram (m : Mach) (d : Fin 8) : Option (Fin 32 × Nat × Nat) :=
  (List.finRange 32).findSome? fun s =>
    match runOf m.maxRec none (m.waitingFor d s) with
    | [] => none
    | r :: l => some (s, rsnOf r, rsnOf ((r :: l).getLast?.getD r))

/-- R359: every FB_PROBE ms a destination on fallback, or DOWN without one, is sent its oldest unacknowledged datagram on
the primary port. -/
def rrtProbe (d : Fin 8) (m : Mach) : Mach :=
  let x := m.net.dests.get d
  if !m.rrtRuns || !m.on (R.RRT_D_CTRL_EN d) || !(x.onFb || x.down) then m
  else
    let m0 := m.runToElapsed (x.probeAt + atLeast1 (m.g R.RRT_CFG2_FB_PROBE) * 1000000)
    let m1 := m0.onDest d fun y => { y with probeAt := m0.elapsed }
    let p := m1.destPort d
    if !m1.hopUsable d p then m1
    else
      match m1.oldestFlight d with
      | some (s, y) => m1.sendData d s p (max y.first (m1.baseOf d s + 1)) y.last true
      | none =>
        match m1.firstDatagram d with
        | some (s, a, b) => ((m1.setFlight d s [{ first := a, last := b, t := m1.elapsed }]).sendData d s p a b false).countSent d s a b
        | none => m1

/-- An ACK passes authentication (R358). -/
def ackAuthentic (m : Mach) (d : Fin 8) (a : RrtAckPkt) : Bool :=
  !m.on (R.RRT_D_CTRL_AUTH d) ||
    (a.auth && a.tag == (Sha.hmac (m.rrtKey (m.g (R.RRT_D_CTRL_KEY d))) (sliceB a.header 0 32)).take 16)

/-- R358: an ACK without its tag. -/
def authFail (p : Fin 2) (m : Mach) : Mach :=
  let m1 := m.inc R.RRT_AUTH_FAIL
  let fresh := match m1.net.authAt with | some t => decide (1000000000 ≤ m1.elapsed - t) | none => true
  if fresh then (m1.onNet fun n => { n with authAt := some m1.elapsed }).health H.rrtAuthFail (.eth p) [] else m1

/-- The base of a stream moves: records up to it are delivered on that path (R270, R356), and DOWN is cleared (R359). -/
def ackAdvance (d : Fin 8) (s : Fin 32) (rsn : Nat) (m : Mach) : Mach :=
  let fl := (m.flightOf d s).filter fun x => decide (rsn < x.last)
  let m1 := m.onDest d fun x => { x with base := x.base.put s rsn, resends := 0, down := false }
  let m2 := m1.onJnl fun j => { j with recs := j.recs.map fun r =>
    if 4 * r.fn.1 + r.cls = s.1 ∧ rsnOf r ≤ rsn then { r with dests := r.dests.filter (· != d.1) } else r }
  (m2.setFlight d s (fl.map fun x => { x with first := max x.first (rsn + 1) })).freeSlots

/-- R356, R358, R359: an ACK arrives. -/
def rrtAck (d : Fin 8) (a : RrtAckPkt) (m : Mach) : Mach :=
  if !m.ethUp a.port then m
  else
    let m1 := m.ethArrived a.port (R.ETH_RRT_RX a.port)
    if !a.srcOk || !m1.on (R.RRT_D_CTRL_EN d) then m1
    else if !m1.ackAuthentic d a then m1.authFail a.port
    else
      let s := stream a.fn a.cls
      let m2 := m1.inc R.RRT_ACK_RX
      let m3 := if a.port = m2.destPort d then m2.onDest d fun x => { x with onFb := false } else m2
      if m3.topSent d s < a.rsn then m3.inc R.RRT_ACK_BAD
      else if m3.baseOf d s < a.rsn then m3.ackAdvance d s a.rsn
      else m3

/-- R360: delivery to a destination ends. Each record that waits for it is counted (R298), and those that wait only for it are freed. -/
def destDisable (d : Fin 8) (m : Mach) : Mach :=
  let waiting := (m.jnl.recs.filter fun r => r.dests.contains d.1).length
  let m1 := ((m.clr (R.RRT_D_CTRL_EN d)).addTo R.RRT_DEST_DROP waiting).onJnl fun j =>
    { j with recs := j.recs.map fun r => { r with dests := r.dests.filter (· != d.1) } }
  (m1.onDest d fun x => { dseq := x.dseq }).freeSlots

/-- R353, R359: a destination is enabled: its next hop is asked for, and it is judged. -/
def destEnable (d : Fin 8) (m : Mach) : Mach := ((m.set1 (R.RRT_D_CTRL_EN d)).askHops d).judgeDest d

/-- R356: a read of ACK_LO latches ACK_HI. -/
def destAckRead (d : Fin 8) (m : Mach) : Mach :=
  let v := m.baseOf d (Fin.ofNat 32 (m.g (R.RRT_D_SEL d)))
  (m.wr (R.RRT_D_ACK_HI_A d) (BitVec.ofNat 32 (v / 2 ^ 32))).emit (.readValue (R.RRT_D_ACK_LO_A d) (BitVec.ofNat 32 v))

end Mach

end Sys2Proof.Machine
end

