-- ==== Sys2Proof/Machine/ComputeOps.lean ====
section
/-! DEFINITION. The compute side stops and starts again: compute reset, READY, loss of a die, per-block reset
(R424 to R440), and what a sleep state takes away (R323). -/

namespace Sys2Proof.Machine

namespace Mach

/-! ## The compute side stops (R55, R427, step 1) -/

/-- Every tick under way ends without a summary; every descriptor and population tick is abandoned. The spike messages under way find
their engines in reset (R169). -/
def abandonWork (m : Mach) : Mach :=
  let m0 := forEach (List.finRange 72) (fun (e : Fin 72) t => t.abandonEng e fun _ => true) m
  let m1 := forEach m0.spikes (fun s t => t.routeDrop s.fn) { m0 with spikes := [] }
  let m2 := forEach (List.finRange 8) (fun (f : Fin 8) t =>
    match (t.fn.get f).popTick with | some k => t.abandonPop f k.tn k.phase | none => t) m1
  m2.onTick fun t => { t with accts := t.accts.map fun a => { a with works := false } }

/-- The contents of the compute dies' units are gone (R21, R24): engines, thin-layer engines, synapse caches, front ends; the clocks stand at PL0. -/
def clearCompute (m : Mach) : Mach :=
  { m with
    eng := Vector.replicate 72 {}, tleq := Vector.replicate 4 [], tle := Vector.replicate 8 none, heldDesc := [], spikes := [],
    cache := { sys := m.cache.sys },
    pops := m.pops.map fun (p : Pop) => { p with restart := true },
    fe := m.fe.map fun (x : Fe) =>
      { staged := x.staged, sweep := x.sweep, warmTn := x.warmTn },
    lvl := m.lvl.map fun (l : DieLevel) =>
      { l with freq := 0, volt := 0, voltEdge := false, edge := false, emerg := false, raising := none, stretch := none } }

/-- Every vat is flushed at once, its packets counted (R427), or powered off with what it held (R325). -/
def flushVats (count : Bool) (m : Mach) : Mach :=
  forEach (List.finRange 16) (fun (p : Fin 16) t =>
    let t1 := if (t.port.get p).flushPend then t.flushNow p else t
    ((t1.discardVat p count).onPort p fun x => { x with wmFc := false }).fitOff p) m

/-- No learning run goes on, and FE_CTRL.LEARN reads 0 (R25). -/
def stopLearning (m : Mach) : Mach := forEach (List.range 16) (fun p t => t.clr (R.FE_CTRL_LEARN p)) m

/-- A package warm reset, or the bring-up behind it, is under way (R415). -/
def inWarm (m : Mach) : Bool := !m.rst.ready && m.rst.compute.isNone

/-- R427, step 1: a compute reset begins, or is refused (R415). -/
def computeStart (m : Mach) : Mach :=
  if m.inWarm || m.rst.compute.isSome || decide (2 ≤ m.sleep.state) || m.jnl.pf.isSome then m.set1 R.RST_CMP_STAT_REFUSED
  else
    let m1 := ((m.recordCause Cause.compute 0).inc R.RST_CMP_COUNT).abandonWork
    let m2 := ((m1.flushVats true).clearCompute.stopLearning).onRst fun r =>
      { r with compute := some 1, ready := false, cause := Cause.compute, blk := none, lostAt := none }
    (m2.onTick fun t => { t with wdogArmed := false, wdogCount := 0 }).onSleep fun s => { s with entering := none, stepAt := none }

/-! ## The compute side starts (R25, R95, R195, R429) -/

/-- Every bound engine loads (R195). -/
def loadBound (m : Mach) : Mach :=
  forEach (List.finRange 72) (fun (e : Fin 72) t =>
    match t.loadTarget t.tick.tn e with
    | some x => if t.engGood e then t.beginLoad e x else t
    | none => t) m

/-- A port's surface is zeroed and its warm-up begins; its reception starts again as at enable (R25, R95). -/
def restartPort (p : Fin 16) (m : Mach) : Mach :=
  let m1 := m.onPort p fun x => { x with running := true, stopReq := false, dec := Vector.replicate 16 {} }
  ((m1.fitOff p).zeroSurface p).onFe p fun x => { x with sweep := (m.time.n.fdiv 2000).fdiv 16384, sweeping := false }

/-- The enabled ports start again; one whose pipeline or bank is no longer good is disabled (R429). -/
def restartPorts (m : Mach) : Mach :=
  forEach ((List.finRange 16).filter fun (p : Fin 16) => m.on (R.ING_CTRL_EN p)) (fun (p : Fin 16) t =>
    if t.enableState p then
      (t.clr (R.ING_CTRL_EN p)).onPort p fun x => { x with running := false, stopReq := false, failed := true }
    else t.restartPort p) m

/-! ## READY (R436, R437) -/

/-- Draw n free values. -/
def drawList : Nat → Mach → List Nat × Mach
  | 0, m => ([], m)
  | n + 1, m =>
    let (v, m1) := m.drawNat
    let (l, m2) := drawList n m1
    (v :: l, m2)

/-- The units of a die that have failed: with `old` only those that passed before (R429). -/
def failedUnits (mask good now : Nat) (n : Nat) : List Nat := (maskBits mask n).filter fun k => bitN good k && !bitN now k

/-- KAT_FAIL for each unit that failed its known-answer test, and after a compute reset BIST_FAIL for each other unit that
passed before and failed (R429, R437). -/
def reportFails (compute : Bool) (d : Fin 4) (old : DiePlan) (m : Mach) : Mach :=
  let new := m.rst.dies.get d
  if new.lost then m
  else
    let m1 := forEach (maskBits new.engKatFail.toNat 18) (fun e t => t.health H.katFail (.engine (18 * d.1 + e)) []) m
    let m2 := forEach (maskBits new.tleKatFail.toNat 2) (fun k t => t.health H.katFail (.die d.1) [3, k]) m1
    if !compute || old.lost then m2
    else
      let e := (failedUnits (2 ^ 18 - 1) old.engGood.toNat new.engGood.toNat 18).filter fun k => !new.engKatFail.getLsbD k
      let tl := (failedUnits 3 old.tleGood.toNat new.tleGood.toNat 2).filter fun k => !new.tleKatFail.getLsbD k
      let m3 := forEach e (fun k t => t.health H.bistFail (.engine (18 * d.1 + k)) []) m2
      let other := (failedUnits (2 ^ 18 - 1) old.bankGood.toNat new.bankGood.toNat 18).map (fun k => [1, k]) ++
        (failedUnits 31 old.feGood.toNat new.feGood.toNat 5).map (fun k => [2, k]) ++ tl.map (fun k => [3, k]) ++
        (failedUnits 511 old.sliceGood.toNat new.sliceGood.toNat 9).map (fun k => [4, k])
      forEach other (fun l t => t.health H.bistFail (.die d.1) l) m3

/-- A critical HEALTH ROLE_ON_FAILED for each role that stays bound to an engine that failed (R429). -/
def reportRoles (old : Vector DiePlan 4) (m : Mach) : Mach :=
  forEach (List.finRange 8) (fun (f : Fin 8) t =>
    forEach ((t.fn.get f).roles.cur.binds.filter fun b =>
        (vat old (b.2 / 18)).engGood.getLsbD (b.2 % 18) && !(vat old (b.2 / 18)).lost && !t.engGood b.2)
      (fun b u => u.health H.roleOnFailed (.engine b.2) [f.1, b.1]) t) m

/-- The copies on a die that has become LOST are gone (R272, R440). -/
def loseCopies (m : Mach) : Mach :=
  forEach (List.finRange 4) (fun (d : Fin 4) t => if t.dieLost d.1 then t.loseCopy d else t) m

/-- R436, in its order: the floor plan, READY, its copy to the host, RESET_DONE with the steps' lengths, which are free
values, and the watchdog. Then what else falls due at READY. -/
def declareReady (cause steps : Nat) (m : Mach) : Mach :=
  let m1 := (m.publish cause).onRst fun r => { r with ready := true, compute := none }
  let m2 := if m1.on R.GLB_FPT_DST_LO_EN then
      (m1.emit (.hostWrite (m1.g R.GLB_FPT_DST_LO_ADDR_LO * 4096 + m1.g R.GLB_FPT_DST_HI * 2 ^ 32) m1.fptBytes)).msix 0 6
    else m1
  let (lens, m3) := m2.drawList steps
  let m4 := m3.health H.resetDone .package (cause :: lens)
  let m5 := m4.armWdog
  forEach (List.finRange 4) (fun (d : Fin 4) t => t.onLvl d fun l => { l with ledger := t.levelCeiling d }) m5

/-- Groups of pads are released (R430, R432), and the late entries that waited for group 0 pulse (R290). -/
def releasePads (mask : BitVec 5) (m : Mach) : Mach :=
  let m1 := m.onRst fun r =>
    { r with held := r.held &&& ~~~mask, padTrig := if mask.getLsbD 0 then List.replicate 8 none else r.padTrig,
             padPps := if mask.getLsbD 1 then none else r.padPps,
             padSens := if mask.getLsbD 2 then List.replicate 16 (none, none, none) else r.padSens,
             padImu := if mask.getLsbD 4 then List.replicate 4 (none, none, none) else r.padImu }
  m1.fireHeldLate

/-- The management core sets PWR_PFIX at bring-up from telemetry taken with the engines and front ends idle (R301): what it reads is
a free value. -/
def setFixedLoad (m : Mach) : Mach := let (v, m1) := m.drawNat; m1.put R.PWR_PFIX (v % 2 ^ 32)

/-- READY at the end of a bring-up (R283, R301, R436): the journal is restored or rebuilt, the fixed load is measured, entries of the
table are judged (R26). -/
def readyBringUp (b : BootInfo) (m : Mach) : Mach :=
  if m.rst.ready || m.rst.hold.isSome || m.rst.compute.isSome || m.rst.stage != 9 || !m.rst.fwVerified || m.nvs.state == 1 then m
  else
    let old := m.rst.dies
    let m1 := m.onRst fun r => { r with dies := Vector.ofFn fun (d : Fin 4) => planOf (r.dies.get d) (b.dies.get d), scGood := b.scGood }
    let m2 := if m1.rst.fromPor then m1.restoreJournal b.badGroups else m1
    let m3 := m2.loseCopies.setFixedLoad
    let m4 := m3.declareReady m3.rst.cause 9
    let m5 := forEach (List.finRange 4) (fun (d : Fin 4) t => t.reportFails false d (old.get d)) m4
    let m6 := if m5.on R.GLB_STAT_FW_FALLBACK then m5.health H.fwFallback .package [] else m5
    let m7 := m6.releasePads (BitVec.ofNat 5 (m6.g R.IOC_CFG_AUTO_REL))
    (m7.judgeHeld true).onRst fun r => { r with fromPor := false }

/-- READY at the end of a compute reset (R427 step 8, R429, R432). -/
def readyCompute (b : BootInfo) (m : Mach) : Mach :=
  if m.rst.compute.isNone then m
  else
    let old := m.rst.dies
    let m1 := m.onRst fun r => { r with dies := Vector.ofFn fun (d : Fin 4) => planOf (r.dies.get d) (b.dies.get d) }
    let m2 := m1.restartPorts.loadBound.loseCopies
    let m3 := m2.declareReady Cause.compute 8
    let m4 := forEach (List.finRange 4) (fun (d : Fin 4) t => t.reportFails true d (old.get d)) m3
    (m4.reportRoles old).releasePads (BitVec.ofNat 5 (m4.g R.IOC_CFG_AUTO_REL))

/-! ## A die is lost (R440) -/

/-- Descriptors for a lost die's engines, and work that needs its DRAM, are dropped as stale, wherever they wait or run (R122, R440). -/
def dropDieWork (d : Fin 4) (m : Mach) : Mach :=
  let gone := fun (e : Fin 72) (x : Desc) => e.1 / 18 == d.1 || x.port / 4 == d.1 ||
    (match m.images.find x.image with | some im => m.dieAt im.blob == d.1 | none => false)
  forEach (List.finRange 72) (fun (e : Fin 72) t => t.endDescs (descStale e) e (gone e)) m

/-- R440. -/
def loseDie (d : Fin 4) (why : Nat) (m : Mach) : Mach :=
  if m.dieLost d.1 || m.rst.hold.isSome || decide (why < 1) || decide (3 < why) then m
  else
    let m1 := (m.onDie d fun x => { x with lost := true, why := why }).inc R.RST_DIE_LOST
    let m2 := (m1.publish 0).health H.dieLost (.die d.1) [why]
    let m3 := (m2.loseCopy d).dropDieWork d
    let m4 := forEach ((List.finRange 72).filter fun (e : Fin 72) => e.1 / 18 == d.1) (fun (e : Fin 72) t =>
      (t.onEng e fun _ => {}).onPopsOf e fun p => { p with restart := true }) m3
    if m4.rst.ready then m4.onRst fun r => { r with lostAt := some m4.elapsed } else m4

/-- R440: one second after the loss, at most once in 600 s, while AUTO_CMP is set. -/
def autoCompute (m : Mach) : Mach :=
  match m.rst.lostAt with
  | none => m
  | some t =>
    let due := t + 1000000000
    let open_ := match m.rst.autoAt with | some a => decide (600000000000 ≤ due - a) | none => true
    if !m.on R.RST_CFG_AUTO_CMP || !open_ then m
    else
      let m1 := m.runToElapsed due
      (m1.onRst fun r => { r with autoAt := some m1.elapsed, lostAt := none }).computeStart

/-! ## Per-block reset (R424 to R426) -/

/-- A unit of the table exists, is good and is powered. -/
def blockOn (m : Mach) (kind unit : Nat) : Bool :=
  let awake := decide (m.sleep.state < 2)
  match kind with
  | 0 => decide (unit < 16) && (awake || m.sleep.state == 2 && m.portGroupOn unit)
  | 1 => decide (unit < 16) && awake && !m.dieLost (unit / 4) && (vat m.rst.dies (unit / 4)).feGood.getLsbD (m.pipeOf unit)
  | 2 => decide (unit < 72) && awake && m.engGood unit
  | 3 => decide (unit < 8) && awake && !m.dieLost (unit / 2) && (vat m.rst.dies (unit / 2)).tleGood.getLsbD (unit % 2)
  | 4 => decide (unit < 4) && decide (m.sleep.state < 3)
  | 5 => decide (unit < 4) && decide (m.sleep.state < 3)
  | 6 => decide (unit < 2) && (awake || m.sleep.state == 2 && m.on R.PWR_SLEEP_ETH_ON)
  | 7 => decide (unit < 4) && (awake || m.sleep.state == 2 && m.on R.PWR_SLEEP_LNK_ON)
  | 8 => decide (unit = 0) && awake
  | _ => false

/-- A write of GO to RST_BLK. -/
def blockGo (kind unit : Nat) (m : Mach) : Mach :=
  let m1 := (m.put R.RST_BLK_KIND kind).put R.RST_BLK_UNIT unit
  if m.inWarm || m.rst.compute.isSome || m.rst.blk.isSome then m1.set1 R.RST_BLK_STAT_CMD_LOST
  else if !m.blockOn (kind % 16) (unit % 128) then m1.set1 R.RST_BLK_STAT_OFF
  else m1.onRst fun r => { r with blk := some { kind := kind % 16, unit := unit % 128, at_ := m.elapsed } }

/-- An encoder starts again (R424). -/
def blockEncoder (n : Fin 4) (m : Mach) : Mach :=
  let on := m.on (R.MOT_ENC_CTRL_EN n)
  let m1 := m.onEnc n fun x =>
    { a := x.a, b := x.b, e := m.time.n, enabledAt := if on then some m.time.n else none,
      set := if on then { cb := 0, base := m.stagedMdb n, cpm := m.stagedCpm n, from? := none } else {} }
  (m1.encoderLost n).set1 (R.MOT_ENC_STAT_DISCONT n)

/-- A thin-layer engine's request is abandoned with its descriptor, and its SRAM reads zero (R21, R123, R424). -/
def blockTle (i : Fin 8) (m0 : Mach) : Mach :=
  let m := m0.onCache fun c => { c with tle := vput c.tle i [] }
  match m.tle.get i with
  | none => m
  | some q =>
    let e : Fin 72 := Fin.ofNat 72 q.eng
    let m1 := match (m.eng.get e).run with
      | some r => if q.dropped then m else m.abandonEng e fun d => d == r.desc
      | none => m
    { m1 with tle := vput m1.tle i none }

/-- The effect of R424's table. -/
def blockEffect (kind unit : Nat) (m : Mach) : Mach :=
  match kind with
  | 0 =>
    let p : Fin 16 := Fin.ofNat 16 unit
    let m1 := ((m.clr (R.ING_CTRL_EN p)).discardVat p true).onPort p fun x =>
      { x with running := false, stopReq := false, dec := Vector.replicate 16 {}, rx := none }
    (if (m1.port.get p).flushPend then m1.flushNow p else m1).fitOff p
  | 1 => m.zeroSurface (Fin.ofNat 16 unit)
  | 2 => m.engReset (Fin.ofNat 72 unit)
  | 3 => m.blockTle (Fin.ofNat 8 unit)
  | 4 => m.blockEncoder (Fin.ofNat 4 unit)
  | 5 => let i : Fin 4 := Fin.ofNat 4 unit; (m.vibZero i).onImu i fun _ => { lastDrdy := if m.on (R.MOT_IMU_CTRL_EN i) then some m.elapsed else none }
  | 6 => m.ethLink (Fin.ofNat 2 unit) false
  | 7 => let l : Fin 4 := Fin.ofNat 4 unit; (m.onLink l fun x => { x with replay := [], resume := false }).retrain l
  | 8 => ((m.storeFault 0).health H.storeFault .store []).storeInit
  | _ => m

/-- The unit that HEALTH BLOCK_RST_TMO names. -/
def blockUnit (kind unit : Nat) : HUnit :=
  match kind with
  | 0 => .port unit | 1 => .port unit | 2 => .engine unit | 3 => .die (unit / 2) | 4 => .encoder unit | 5 => .imu unit
  | 6 => .eth unit | 7 => .link unit | _ => .store

/-- R425: the unit has acknowledged. -/
def blockIdle (m : Mach) : Mach :=
  match m.rst.blk with
  | none => m
  | some b => ((m.onRst fun r => { r with blk := none }).inc R.RST_BLK_COUNT).blockEffect b.kind b.unit

/-- R425: no acknowledgement within RST_IDLE_TMO µs. -/
def blockTimeout (inFlight : Nat) (m : Mach) : Mach :=
  match m.rst.blk with
  | none => m
  | some b =>
    let m1 := (m.runToElapsed (b.at_ + atLeast1 (m.g R.RST_IDLE) * 1000)).blockIdle
    let m2 := ((m1.put R.RST_BLK_STAT_DISCARDED (satN inFlight 65535)).set1 R.RST_BLK_STAT_TMO).inc R.RST_BLK_TMO
    m2.health H.blockRstTmo (blockUnit b.kind b.unit) []

end Mach

end Sys2Proof.Machine
end

