-- ==== Sys2Proof/Machine/SleepCmds.lean ====
section
/-! DEFINITION. Meanings of the sleep states' commands (R323 to R328). -/

namespace Sys2Proof.Machine

namespace Mach

/-! ## Going to sleep -/

/-- The ticks that run produce no work, and the watchdog is disarmed (R325 step 1). -/
def stopTicks (m : Mach) : Mach :=
  (m.onTick fun t =>
    { t with wdogArmed := false, wdogCount := 0, accts := t.accts.map fun a => if a.tn = t.tn then { a with works := false } else a }).onSleep fun s =>
    { s with entering := some m.tick.tn, stepAt := none }

/-- R325: at a boundary, once the idle conditions have held for IDLE_S2 seconds. IDLE_S2 = 0 disables S2. -/
def s2Entry (m : Mach) : Mach :=
  let idle : Int := m.g R.PWR_SLEEP_IDLE_S2
  if m.working && idle != 0 && m.jnl.actions.isEmpty && decide (m.sleep.idleFrom + idle * 1000000000 ≤ m.elapsed) &&
      decide (m.time.n < m.tick.start + 8) then m.stopTicks
  else m

/-- Nothing is left to commit, or there is no store to commit it to. -/
def allCommitted (m : Mach) : Bool := m.toCommit.isEmpty || !(m.storeInUse && m.nvs.state == 2)

/-- The Ethernet ports and line links that sleep turns off (R323). -/
def sleepLinks (m : Mach) : Mach :=
  let m1 := if m.on R.PWR_SLEEP_ETH_ON then m else forEach (List.finRange 2) (fun (p : Fin 2) t => t.ethLink p false) m
  if m1.on R.PWR_SLEEP_LNK_ON then m1
  else forEach (List.finRange 4) (fun (l : Fin 4) t => (t.setLinkState l 0).refuseCheck l) m1

/-- R325 step 4. -/
def s2PowerDown (m : Mach) : Mach :=
  match m.sleep.entering, m.sleep.stepAt with
  | some _, some t =>
    if m.sleep.goS3 then m
    else if !m.jnl.actions.isEmpty then m.abandonEntry
    else
      let m1 := if m.allCommitted then m else m.runToElapsed (t + 100000000)
      let m2 := (((m1.abandonWork.flushVats false).clearCompute.scDrop fun _ => true)).sleepLinks
      (m2.onSleep fun s => { s with state := 2, entering := none, stepAt := none, s2At := some m1.elapsed }).inc R.PWR_S2_ENTRY
  | _, _ => m

/-- R326: the record of the way to S3. -/
def s3Ask (m : Mach) : Mach :=
  if m.sleep.goS3 then m else (m.onSleep fun s => { s with goS3 := true }).health H.sleep .package [3]

/-- R326: a write of GO_S3, in any state. -/
def goS3 (m : Mach) : Mach :=
  if m.rst.hold.isSome || m.inWarm || m.sleep.state == 3 then m
  else if m.sleep.state = 2 then m.s3Ask
  else m.s3Ask.stopTicks

/-- R326: IDLE_S3 expires in S2, or GO_S3 was written; the domains power off once every record is committed. -/
def s3Entry (m : Mach) : Mach :=
  let idle : Int := m.g R.PWR_IDLE3
  let m1 := match m.sleep.goS3, m.sleep.s2At with
    | false, some t => if m.sleep.state = 2 ∧ idle ≠ 0 then (m.runToElapsed (t + idle * 1000000000)).s3Ask else m
    | _, _ => m
  if m1.sleep.goS3 && m1.allCommitted then
    let m2 := ((m1.cancelPending (fun _ => true)).abandonWork.clearCompute).onRst fun r => { r with compute := none }
    (m2.onSleep fun s => { s with state := 3, entering := none, stepAt := none, s2At := none, goS3 := false }).inc R.PWR_S3_ENTRY
  else m1

/-! ## Waking (R327, R328) -/

/-- A source wakes from a state. -/
def wakesFrom (source state : Nat) : Bool :=
  if state = 2 then decide (1 ≤ source) && decide (source ≤ 7) else state == 3 && (source == 1 || source == 2)

/-- Encoder motion is a source only of an enabled encoder with WAKE_EN (R201). -/
def wakeUnitOk (m : Mach) (source unit : Nat) : Bool :=
  source != 6 || (decide (unit < 4) && m.on (R.MOT_ENC_CTRL_EN unit) && m.on (R.MOT_ENC_CTRL_WAKE_EN unit))

/-- PWR_WAKE_LAST and PWR_WAKE_T. -/
def recordWake (source unit : Nat) (m : Mach) : Mach :=
  (((m.put R.PWR_WAKE_LAST_FROM m.sleep.state).put R.PWR_WAKE_LAST_UNIT unit).put R.PWR_WAKE_LAST_SOURCE source).onSleep fun s => { s with wakeT := m.time.n }

/-- A wake from S2: engines reload, surfaces are zeroed, ticks resume at the next boundary. -/
def wakeS2 (m : Mach) : Mach :=
  let m1 := m.onSleep fun s => { s with state := 0, s2At := none, goS3 := false, waking := true, idleFrom := m.elapsed }
  let m2 := m1.restartPorts.loadBound
  if m2.on R.PWR_SLEEP_LNK_ON then m2
  else forEach ((List.finRange 4).filter fun (l : Fin 4) => m2.on (R.LNK_CTRL_EN l)) (fun (l : Fin 4) t => t.startTraining l) m2

/-- A wake from S3: bring-up as after a package warm reset; encoders that were enabled are discontinuous (R201). -/
def wakeS3 (code : Nat) (m : Mach) : Mach :=
  let encs := (List.finRange 4).filter fun (n : Fin 4) => m.on (R.MOT_ENC_CTRL_EN n)
  let m1 := (m.warmReset code 0).onSleep fun s => { s with waking := true }
  forEach encs (fun (n : Fin 4) t => t.set1 (R.MOT_ENC_STAT_DISCONT n)) m1

/-- R327: a wake source arrives. RESET_N also resets. During an entry to S2 a source abandons it (R325). -/
def wake (source unit : Nat) (m : Mach) : Mach :=
  if m.sleep.state = 0 ∧ m.sleep.entering.isSome ∧ !m.sleep.goS3 ∧ 1 ≤ source ∧ source ≤ 7 ∧ m.wakeUnitOk source unit then m.abandonEntry
  else if !wakesFrom source m.sleep.state || !m.wakeUnitOk source unit then m
  else
    let m1 := m.recordWake source unit
    if m.sleep.state = 3 then m1.wakeS3 (if source = 2 then Cause.resetN else Cause.wakeS3)
    else if source = 2 then (m1.warmReset Cause.resetN 0).onSleep fun s => { s with waking := true }
    else m1.wakeS2

/-- A command that is a wake source as it arrives (R327): a doorbell, a datagram, a frame, a transfer. Awake, it is nothing more. -/
def stir (source unit : Nat) (m : Mach) : Mach :=
  if m.sleep.state = 0 ∧ m.sleep.entering.isNone then m else m.wake source unit

/-- R328: a read of PWR_WAKE_T_LO latches the high word. -/
def wakeTRead (m : Mach) : Mach :=
  let m1 := m.put64 R.PWR_WAKE_T_LO_A R.PWR_WAKE_T_HI_A m.sleep.wakeT
  m1.emit (.readValue R.PWR_WAKE_T_LO_A (m1.rd R.PWR_WAKE_T_LO_A))

end Mach

/-- S2_ENTRY (R325). -/
def execS2Entry (s : State) := s.act Mach.s2Entry
/-- S2_POWER_DOWN (R325). -/
def execS2PowerDown (s : State) := s.act Mach.s2PowerDown
/-- S3_ENTRY (R326). -/
def execS3Entry (s : State) := s.act Mach.s3Entry
/-- PWR_SLEEP_GO_S3 (R326). -/
def execPwrSleepGoS3 (s : State) := s.act Mach.goS3
/-- WAKE (R327). -/
def execWake (source unit : Nat) (s : State) := s.act (Mach.wake source unit)
/-- PWR_WAKE_T_READ (R328). -/
def execPwrWakeTRead (s : State) := s.act Mach.wakeTRead

end Sys2Proof.Machine
end

