-- ==== Sys2Proof/Machine/HostCmds.lean ====
section
/-! DEFINITION. Commands of the CMD rings, of the function pages and of the management mailbox. -/

namespace Sys2Proof.Machine

/-- R379. -/
def execFence (h : CmdHdr) (s : State) := s.act (Mach.fenceCmd h)
/-- R380. -/
def execQuery (h : CmdHdr) (item arg dst len : Nat) (s : State) := s.act (Mach.queryCmd h item arg dst len)
/-- R380, R62. -/
def execPortConfigSci (h : CmdHdr) (p : Fin 16) (addr rlen : Nat) (data : List Byte) (s : State) := s.act (Mach.portSci h p addr rlen data)
/-- R380, R85. -/
def execPortEnable (h : CmdHdr) (p : Fin 16) (s : State) := s.act (Mach.portEnableCmd h p)
/-- R85. -/
def execPortDisable (h : CmdHdr) (p : Fin 16) (s : State) := s.act (Mach.portDisableCmd h p)
/-- R83, R379. -/
def execPortFlush (h : CmdHdr) (p : Fin 16) (s : State) := s.act (Mach.portFlushCmd h p)
/-- R49. -/
def execSetTickChange (h : CmdHdr) (period : Nat) (s : State) := s.act (Mach.setTickChange h period)
/-- R50. -/
def execSetTickLoad (h : CmdHdr) (period : Nat) (origin : Int) (s : State) := s.act (Mach.setTickLoad h period origin)
/-- R142. -/
def execSetQuality (h : CmdHdr) (q : Nat) (s : State) := s.act (Mach.setQualityCmd h q)
/-- R380, R381. -/
def execTapConfig (h : CmdHdr) (mask shift : Nat) (en : Bool) (s : State) := s.act (Mach.tapConfigCmd h mask shift en)
/-- R367. -/
def execAssign (h : CmdHdr) (kind : Nat) (dest : Fin 8) (first count : Nat) (s : State) := s.act (Mach.assignCmd h kind dest first count)
/-- R369. -/
def execWashDone (kind unit : Nat) (s : State) := s.act (Mach.washDone kind unit)
/-- R384. -/
def execWashQuery (h : CmdHdr) (s : State) := s.act (Mach.washQueryCmd h)
/-- R284, R388. -/
def execRptResume (h : CmdHdr) (mask : Nat) (slots : List SlotHdr) (s : State) := s.act (Mach.rptResumeCmd h mask slots)
/-- R388. -/
def execRptDiscard (h : CmdHdr) (mask : Nat) (s : State) := s.act (Mach.rptDiscardCmd h mask)
/-- R380. -/
def execPkgReset (h : CmdHdr) (s : State) := s.act (Mach.pkgResetCmd h)
/-- R372. -/
def execDoorbell (f : Fin 8) (ring : Fin 7) (val : BitVec 32) (size32 : Bool) (s : State) := s.act fun m => (m.stir 3 0).doorbell f ring val size32
/-- R370, R371, R385. -/
def execRingEnable (f : Fin 8) (ring : Fin 7) (cfg : RingCfg) (s : State) := s.act (Mach.ringEnable f ring cfg)
/-- R375. -/
def execMsixModerationTimer (f : Fin 8) (v : Fin 6) (s : State) := s.act (Mach.modTimer f v)
/-- R376. -/
def execHifFCseqRead (f : Fin 8) (s : State) := s.act (Mach.cseqRead f)
/-- R386. -/
def execFlr (f : Fin 8) (s : State) := s.act fun m => (m.stir 3 0).flr f
/-- R386. -/
def execFlrComplete (f : Fin 8) (s : State) := s.act (Mach.flrComplete f)
/-- R387. -/
def execFlrWedgeTimeout (f : Fin 8) (s : State) := s.act (Mach.flrWedge f)
/-- R366. -/
def execVfEnableClear (s : State) := s.act fun m => (m.stir 3 0).vfClear
/-- R390. -/
def execMailboxGo (s : State) := s.act Mach.mailboxGo
/-- R390. -/
def execVersion (s : State) := s.act Mach.mbVersion
/-- R390. -/
def execFptCopy (s : State) := s.act Mach.mbFpt
/-- R390. -/
def execTelemetry (s : State) := s.act Mach.mbTelemetry
/-- R390, R443. -/
def execFwStage (sigOk : Bool) (antiRollback : Nat) (s : State) := s.act (Mach.mbFwStage sigOk antiRollback)
/-- R390. -/
def execLogRead (entries : List Int) (s : State) := s.act (Mach.mbLog entries)
/-- R390. -/
def execCalStatus (s : State) := s.act Mach.mbCal
/-- R390. -/
def execMailboxSci (s : State) := s.act Mach.mbSci
/-- R443. -/
def execDebugUnlock (sigOk : Bool) (serial nonce : Nat) (s : State) := s.act (Mach.mbUnlock sigOk serial nonce)
/-- R443. -/
def execSecRelock (s : State) := s.act Mach.secRelock
/-- R443. -/
def execSecNonceRead (s : State) := s.act Mach.nonceRead

end Sys2Proof.Machine
end

