-- ==== Sys2Proof/Machine/Levels.lean ====
section
/-! DEFINITION. Meanings of the commands of levels, telemetry, droop and temperature, and the two limit commands (R302, R311 to R321). -/

namespace Sys2Proof.Machine

namespace Mach

/-- R302, R380. -/
def setCap (h : CmdHdr) (cap : Nat) (m : Mach) : Mach :=
  m.command h 0x32 false (fun t => if cap < 8000 ∨ t.gradeCap < cap then some St.format else none)
    (fun _ t => { m := t.put R.PWR_CAP cap })

/-- R315. -/
def setLimit (h : CmdHdr) (mask level : Nat) (m : Mach) : Mach :=
  m.command h 0x33 false (fun t => if t.gradePl < level then some St.format else none)
    (fun _ t => { m := (forEach ((List.finRange 4).filter fun (d : Fin 4) => bitN mask d.1)
      (fun d u => u.onLvl d fun l => { l with limitNext := some level }) t) })

end Mach

/-- PMBUS_TELEMETRY (R311). -/
def execPmbusTelemetry (g : Fin 6) (mw : Option Nat) (s : State) := s.act (Mach.telemetry g mw)
/-- AVS_VOLTAGE_REACHED (R316). -/
def execAvsVoltageReached (d : Fin 4) (s : State) := s.act (Mach.avsReached d)
/-- AVS_TIMEOUT (R316). -/
def execAvsTimeout (d : Fin 4) (s : State) := s.act (Mach.avsTimeout d)
/-- CLK_MANUAL_WRITE (R318). -/
def execClkManualWrite (d : Fin 4) (val : BitVec 32) (s : State) := s.act (Mach.clkManual d val)
/-- DROOP_DETECTED (R320). -/
def execDroopDetected (d : Fin 4) (s : State) := s.act (Mach.droop d)
/-- DROOP_RECOVERED (R320). -/
def execDroopRecovered (d : Fin 4) (s : State) := s.act (Mach.droopEnd d)
/-- THERMAL_THROTTLE (R321). -/
def execThermalThrottle (sensor : Fin 24) (reading : Int) (s : State) := s.act (Mach.thermal sensor reading)
/-- THROTTLE_REPEAT (R321). -/
def execThrottleRepeat (sensor : Fin 24) (reading : Int) (s : State) := s.act (Mach.thermalRepeat sensor reading)
/-- THERMAL_TL_RISE (R321). -/
def execThermalTlRise (d : Fin 4) (s : State) := s.act (Mach.tlRise d)
/-- SET_ENERGY_CAP (R302). -/
def execSetEnergyCap (h : CmdHdr) (cap : Nat) (s : State) := s.act (Mach.setCap h cap)
/-- SET_PL_LIMIT (R315). -/
def execSetPlLimit (h : CmdHdr) (dieMask : Nat) (level : Nat) (s : State) := s.act (Mach.setLimit h dieMask level)

end Sys2Proof.Machine
end

