-- ==== Sys2Proof/Machine/Links.lean ====
section
/-! DEFINITION. The commands of the line links. -/

namespace Sys2Proof.Machine

/-- R393. -/
def execLinkEnable (l : Fin 4) (en : Bool) (s : State) := s.act (Mach.linkEnable l en)
/-- R393. -/
def execLinkRetrain (l : Fin 4) (s : State) := s.act (Mach.retrain l)
/-- R393: lock is lost on a lane of a port that trains or is UP. -/
def execLinkLockLoss (l : Fin 4) (s : State) := s.act (Mach.retrain l)
/-- R393. -/
def execTrainFrameSend (l : Fin 4) (s : State) := s.act (Mach.trainSend l)
/-- R393, R394. -/
def execTrain (l : Fin 4) (frame : TrainFrame) (s : State) := s.act (Mach.trainRx l frame)
/-- R393. -/
def execLinkTrainTimeout (l : Fin 4) (s : State) := s.act (Mach.trainTimeout l)
/-- R396, R397. -/
def execDataFrameSend (l : Fin 4) (s : State) := s.act (Mach.dataSend l)
/-- R396, R398, R399. -/
def execData (l : Fin 4) (frame : LinkFrame) (crcOk : Bool) (ack : Nat) (cred : List Nat) (s : State) :=
  s.act fun m =>
    (if crcOk && (m.link.get l).state == 2 && (frame.vl == 1 || frame.vl == 2) then m.stir 7 l.1 else m).dataRx l frame crcOk ack cred
/-- R396. -/
def execNak (l : Fin 4) (seq ack : Nat) (cred : List Nat) (s : State) := s.act (Mach.nakRx l seq ack cred)
/-- R397. -/
def execCredit (l : Fin 4) (ack : Nat) (cred : List Nat) (s : State) := s.act (Mach.creditRx l ack cred)
/-- R396. -/
def execCreditFrameSend (l : Fin 4) (s : State) := s.act (Mach.creditSend l)
/-- R396. -/
def execReplayTimeout (l : Fin 4) (s : State) := s.act (Mach.replayTmo l)
/-- R400. -/
def execTtSend (l : Fin 4) (s : State) := s.act (Mach.ttSend l)
/-- R401, R402. -/
def execTt (l : Fin 4) (s : State) := s.act (Mach.ttRx l)
/-- R403. -/
def execAdvertSend (l : Fin 4) (s : State) := s.act (Mach.advertSend l)
/-- R403. -/
def execAdvert (l : Fin 4) (s : State) := s.act (Mach.advertRx l)
/-- R404, R405. -/
def execHoOffer (l : Fin 4) (s : State) := s.act (Mach.offerRx l)
/-- R406. -/
def execHoReply (l : Fin 4) (s : State) := s.act (Mach.replyRx l)
/-- R407. -/
def execCurds (l : Fin 4) (s : State) := s.act (Mach.curdsRx l)
/-- R407. -/
def execLinkPairing (l : Fin 4) (s : State) := s.act (Mach.linkPairing l)
/-- R411. -/
def execLnkOfsRead (l : Fin 4) (s : State) := s.act (Mach.ofsRead l)

end Sys2Proof.Machine
end

