-- ==== Sys2Proof/Machine/MemCmds.lean ====
section
/-! DEFINITION. Meanings of the commands of DRAM: region settings, errors, scrubbing, the journal's copies (R272, R448, R449, R463). -/

namespace Sys2Proof.Machine

namespace Mach

/-- The curd whose patch or result lies at an address (R112, R124). -/
def curdAt (m : Mach) (a : Nat) : Option (Fin 16 × Nat × Nat) :=
  (List.finRange 16).findSome? fun (p : Fin 16) =>
    ((m.fe.get p).curds.find? fun c =>
      c.patch &&
        (let i := (c.patchAddr % 2 ^ 30 - 0x10000000) / 2048
         (decide (c.patchAddr ≤ a) && decide (a < c.patchAddr + 2048)) ||
           (let r := resultAddr (p.1 / 4) i; decide (r ≤ a) && decide (a < r + 32)))).map fun c => (p, c.tn, c.index)

/-- The classification of a curd is abandoned: its descriptor with it, wherever it waits or runs, counted once (R38, R56, R449). -/
def abandonCurd (p : Fin 16) (tn index : Nat) (m : Mach) : Mach :=
  let mine := fun (d : Desc) => d.port == p.1 && d.tn == tn && d.index == index
  let m1 := forEach (List.finRange 72) (fun (e : Fin 72) t => t.abandonEng e mine) m
  match (m1.fe.get p).curds.find? fun c => c.tn == tn && c.index == index && !c.abandoned with
  | some c => (m1.refuseCurd tn p c).onCurd p tn index fun c => { c with score := none }
  | none => m1

/-- The reader of a failing line is handled (R449): 0 journal copy, 1 the descriptor that engine `unit` runs, 2 the population
tick of function `unit`, 3 a patch or a result; another code reads nothing that the manual names. -/
def ueReader (a reader unit : Nat) (m : Mach) : Mach :=
  match reader with
  | 0 => m.loseCopy (Fin.ofNat 4 (m.dieAt a))
  | 1 =>
    match (m.eng.get (Fin.ofNat 72 unit)).run with
    | some r => m.abandonEng (Fin.ofNat 72 unit) fun d => d == r.desc
    | none => m
  | 2 =>
    let f : Fin 8 := Fin.ofNat 8 unit
    match (m.fn.get f).popTick with
    | some t => m.abandonPop f t.tn t.phase
    | none => m
  | 3 =>
    match m.curdAt a with
    | some (p, tn, i) => m.abandonCurd p tn i
    | none => m
  | _ => m

/-- R449: a read finds an uncorrectable error, in a region with ECC on. A line of a resident image fails again until the
image is reloaded. Reader 5 is the DRAM's answer to the next write of the journal copy that the address's die holds: `unit` of its
tries fail (R271; DESIGN CHOICE, log entry 84). -/
def dramUe (a reader unit : Nat) (m : Mach) : Mach :=
  if reader = 5 then m.onJnl fun j => { j with failNext := vput j.failNext (Fin.ofNat 4 (m.dieAt a)) (min unit 3) }
  else if !m.addrExists a || !m.regionEcc (a / 2 ^ 30) then m
  else
    let line := a / 64 * 64
    let m1 := (m.ueHit a).ueReader a reader unit
    if m1.granResident (a / 2 ^ 21) && !m1.ueLines.contains line then { m1 with ueLines := m1.ueLines ++ [line] } else m1

/-- R449: the scrubber reads a line of die d. -/
def dramScrub (d : Fin 4) (a : Nat) (correctable : Bool) (m : Mach) : Mach :=
  if !m.on (R.MEM_SCRUB_HOURS d) || !m.addrExists a || !m.regionEcc (a / 2 ^ 30) || m.dieAt a != d.1 then m
  else if correctable then m.inc (R.MEM_CE d)
  else m.dramUe a 4 0

/-- A granule keeps its region's settings from changing (R448): one of a virtual function, or one that holds a resident image. A
granule into which an accepted image is being copied counts, for an image is placed only where ECC is on (R22; DEDUCED, log entry
68). -/
def regionHeld (m : Mach) (r : Nat) : Bool :=
  let in_ := fun (dst len : Nat) => (granulesOf dst len).any fun g => g / 512 == r
  (m.own.gran.any fun e => e.1 / 512 == r) || (m.images.any fun s => in_ s.2.dst s.2.len) ||
    m.fn.toList.any fun x => x.load.elim false fun j => in_ j.dst j.bytes.length

/-- R448, R463: a write to MEM_REG_k of die d. INTLV is writable in die 0's page only; slots 13 to 15 are read-only. -/
def memReg (d : Fin 4) (k : Fin 16) (val : Word) (m : Mach) : Mach :=
  if 13 ≤ k.1 then m
  else
    let ecc := val.getLsbD 0
    let intlv := if d = 0 then val.getLsbD 1 else m.on (R.MEM_REG_INTLV d k)
    let newEcc := ecc != m.on (R.MEM_REG_ECC d k)
    let newIntlv := intlv != m.on (R.MEM_REG_INTLV d k)
    let affected := if newIntlv then (List.range 4).map fun h => 16 * h + k.1 else if newEcc then [16 * d.1 + k.1] else []
    if affected.isEmpty then m
    else if affected.any m.regionHeld then m.set1 (R.MEM_DSTAT_CFG_WR d)
    else
      let m1 := m.put (R.MEM_REG_ECC d k) ecc.toNat
      let m2 := forEach (List.range 4) (fun h t => t.put (R.MEM_REG_INTLV h k) intlv.toNat) m1
      m2.onOwn fun o => { o with washes := o.washes ++ affected.map fun (r : Nat) => ({ kind := kindRegion, unit := r, owed := none } : Wash) }

/-- R463: a read of MEM_UE_ADDR_LO latches the high word. -/
def ueAddrRead (d : Fin 4) (m : Mach) : Mach :=
  (m.wr (R.MEM_UE_ADDR_HI_A d) (m.rd (ueHigh d))).emit (.readValue (R.MEM_UE_ADDR_LO_A d) (m.rd (R.MEM_UE_ADDR_LO_A d)))

/-- R272: the live slots of a bank have been copied back into a copy whose die has returned. JNL_STAT.MIRROR_LOST falls with
the last copy that was missing, and stays set while MIRROR_EN is 0. -/
def mirrorBack (copy : Fin 4) (m : Mach) : Mach :=
  if m.jnl.copies.get copy || m.dieLost copy.1 then m
  else
    (m.onJnl fun j => { j with copies := vput j.copies copy true, failNext := vput j.failNext copy 0 }).health H.mirrorBack (.die copy.1) [copy.1 % 2]

end Mach

/-- MEM_REG_WRITE (R448). -/
def execMemRegWrite (d : Fin 4) (k : Fin 16) (val : BitVec 32) (s : State) := s.act (Mach.memReg d k val)
/-- DRAM_UE (R449). -/
def execDramUe (addr reader unit : Nat) (s : State) := s.act (Mach.dramUe addr reader unit)
/-- DRAM_SCRUB (R449). -/
def execDramScrub (d : Fin 4) (addr : Nat) (correctable : Bool) (s : State) := s.act (Mach.dramScrub d addr correctable)
/-- MEM_UE_ADDR_READ (R449, R463). -/
def execMemUeAddrRead (d : Fin 4) (s : State) := s.act (Mach.ueAddrRead d)
/-- MIRROR_BACK (R272). -/
def execMirrorBack (copy : Fin 4) (s : State) := s.act (Mach.mirrorBack copy)

end Sys2Proof.Machine
end

