-- ==== Sys2Proof/Machine/Motion.lean ====
section
/-! DEFINITION. Meanings of the motion inputs' commands: encoders and IMU ports (R197 to R213). -/

namespace Sys2Proof.Machine

/-- The count step of a change of (A, B) by one line (R198): none where both or neither changed. -/
def quadStep (a b a' b' : Bool) : Option Int :=
  match a, b, a', b' with
  | false, false, true, false => some 1
  | true, false, true, true => some 1
  | true, true, false, true => some 1
  | false, true, false, false => some 1
  | false, false, false, true => some (-1)
  | false, true, true, true => some (-1)
  | true, true, true, false => some (-1)
  | true, false, false, false => some (-1)
  | _, _, _, _ => none

/-- A response of the FIR ROM (R209): decimation and taps. -/
def firShape : Nat → Nat × Nat
  | 0 => (2, 31) | 1 => (4, 63) | 2 => (8, 127) | 3 => (16, 255) | 4 => (32, 511) | 5 => (1, 15) | 6 => (2, 15) | _ => (1, 1)

/-- The sum of the taps below k of the first half. -/
def firHalfSum (f : Nat) : Nat → Int
  | 0 => 0
  | k + 1 => firHalfSum f k + (Config.firHalf f k).toInt

/-- Coefficient j (R210): symmetric, with a sum of exactly 2^17; the taps of the half are the ROM's, signed 18-bit values which the
manual does not print (log entry 81). -/
def firCoef (f j : Nat) : Int :=
  let n := (firShape f).2
  let c := (n - 1) / 2
  if f = 7 then 131072
  else if j = c then 131072 - 2 * firHalfSum f c
  else if j < c then (Config.firHalf f j).toInt
  else (Config.firHalf f (n - 1 - j)).toInt

/-- Rounding to nearest, ties to even, of u divided by a power of two (R211). -/
def rndEven (u : Int) (p : Nat) : Int :=
  let q := u.fdiv (2 ^ p)
  let r2 := 2 * (u - q * 2 ^ p)
  if r2 < 2 ^ p then q else if (2 ^ p : Int) < r2 then q + 1 else if q % 2 = 0 then q else q + 1

/-- Clamp to signed 24-bit (R211). -/
def firSat (v : Int) : Int := clampI v (-8388608) 8388607

/-- One stage of R211: its history with the new sample, newest first, and the output it produces, with whether it saturated.
`n` is the new sample's index. -/
def firStage (f s n : Nat) (hist : List Sample) : Option (Sample × Bool) :=
  let (d, taps) := firShape f
  if taps ≤ n + 1 ∧ (n + 1 - taps) % d = 0 then
    let w := hist.take taps
    let sum := (w.foldl (fun (a : Int × Nat) x => (a.1 + firCoef f a.2 * x.x, a.2 + 1)) (0, 0)).1
    let raw := rndEven sum s
    let t := match hist[(taps - 1) / 2]? with | some x => x.t | none => 0
    some ({ x := firSat raw, t := t, fill := w.any (·.fill) }, decide (firSat raw ≠ raw))
  else none

/-- A channel takes one raw sample (R209, R211): the channel after it, how many outputs saturated, and its valid output. -/
def ImuChan.feed (stage1 stage2 : Nat) (s2 : Bool) (x : Sample) (c : ImuChan) : ImuChan × Nat × Option Sample :=
  let h1 := (x :: c.h1).take (firShape stage1).2
  let c1 := { c with h1 := h1, n1 := c.n1 + 1 }
  match firStage stage1 9 c.n1 h1 with
  | none => (c1, 0, none)
  | some (y, sat) =>
    if s2 then
      let h2 := (y :: c.h2).take (firShape stage2).2
      let c2 := { c1 with h2 := h2, n2 := c.n2 + 1 }
      match firStage stage2 17 c.n2 h2 with
      | none => (c2, sat.toNat, none)
      | some (z, sat2) => ({ c2 with outs := (z :: c2.outs).take 256 }, sat.toNat + sat2.toNat, some z)
    else ({ c1 with outs := (y :: c1.outs).take 256 }, sat.toNat, some y)

namespace Mach

/-- Station time some ns ago: before the last step where that lies nearer than this (R197, R336). -/
def timeAgo (m : Mach) (ns : Int) : Int :=
  let t := m.time.n - ns
  match m.time.lastStep with
  | some (_, after) => if t < after then t - m.time.stepBy else t
  | none => t

/-- The stamp of a change accepted now: the station time of the first of FILT + 1 samples, which lies FILT samples back, truncated to
10 ns, plus COMP (R197). The commands bring accepted levels: the sampling and the stability test lie before them (log entry 81). -/
def encStamp (m : Mach) (n : Fin 4) : Int :=
  (m.timeAgo (10 * m.g (R.MOT_ENC_CTRL_FILT n))).fdiv 10 * 10 + m.gi (R.MOT_ENC_COMP n)

/-- A count change on an encoder with WAKE_EN is activity, and wakes the package from S2 or abandons the entry to it (R201, R325,
R327). -/
def encWake (n : Fin 4) (m : Mach) : Mach :=
  if !m.on (R.MOT_ENC_CTRL_WAKE_EN n) then m
  else if m.sleep.state = 0 ∧ m.sleep.entering.isNone then m.touchIdle
  else m.wake 6 n.1

/-- R198: an accepted change of A or B. -/
def encEdge (n : Fin 4) (a b : Bool) (m : Mach) : Mach :=
  let (a, b) := if m.on (R.MOT_ENC_CTRL_SWAP n) then (b, a) else (a, b)
  let e := m.enc.get n
  let m1 := m.onEnc n fun x => { x with a := a, b := b }
  if !m.on (R.MOT_ENC_CTRL_EN n) || m.sleep.state == 3 then m1
  else
    match quadStep e.a e.b a b with
    | some d =>
      let m2 := m1.onEnc n fun x => { x with count := x.count + d, e := m.encStamp n }
      ((m2.markReached n).markTrig n).encWake n
    | none =>
      if e.a ≠ a ∧ e.b ≠ b then
        let m2 := (m1.inc (R.MOT_ENC_QERR n)).set1 (R.MOT_ENC_STAT_QERR n)
        m2.health H.qerr (.encoder n) []
      else m1

/-- R200: an accepted edge of the index pin; IDX_POL says which edge is an index. -/
def encIndex (n : Fin 4) (rising : Bool) (m : Mach) : Mach :=
  if !m.on (R.MOT_ENC_CTRL_EN n) || m.sleep.state == 3 || rising == m.on (R.MOT_ENC_CTRL_IDX_POL n) then m
  else
    let e := m.enc.get n
    let per := m.g (R.MOT_ENC_IDX_PER n)
    let stamp := m.encStamp n
    let joined := (m.acct? m.tick.tn).bind fun a => if a.joins && decide (stamp < a.start) then some a.tn else none
    let bad := match e.idx with | some (p, _) => per != 0 && (e.count - p).natAbs != per | none => false
    let m1 := (m.onEnc n fun x => { x with idx := some (x.count, stamp), idxLog := x.idxLog ++ [(stamp, joined)] }).inc (R.MOT_ENC_IDX_COUNT n)
    if bad then m1.inc (R.MOT_ENC_IDX_ERR n) else m1

/-- R199: the next whole microsecond. -/
def encCapture (m : Mach) : Mach := m.runTo ((m.time.n.fdiv 1000 + 1) * 1000)

/-- R204: a request for MD at t is answered: where it waits and no further edge comes, by the first capture with S ≥ t + STALL. -/
def mdQuery (n : Fin 4) (t : Int) (m : Mach) : Mach :=
  let wait := m.runTo ((t + stallUs m n * 1000 + 999).fdiv 1000 * 1000)
  match (match m.mdAt n t with | .notYet => wait | _ => m).mdAsk n t with
  | (.notYet, m1) => m1
  | (.invalid _, m1) => m1.emit (.md n t none)
  | (.ok md, m1) => m1.emit (.md n t (some md))

/-- R203, R291: a write to EN. -/
def encEn (n : Fin 4) (en : Bool) (m : Mach) : Mach :=
  let was := m.on (R.MOT_ENC_CTRL_EN n)
  let m1 := m.put (R.MOT_ENC_CTRL_EN n) en.toNat
  if en ∧ !was then
    (m1.onEnc n fun x =>
      { x with count := 0, e := m.time.n, enabledAt := some m.time.n, caps := [],
               set := { cb := 0, base := m.stagedMdb n, cpm := m.stagedCpm n, from? := none }, old := none }).encoderLost n
  else if !en ∧ was then m1.encoderLost n
  else m1

/-- R199: a read of MOT_ENC_POS latches the count and the edge stamp of the latest capture. -/
def encPosRead (n : Fin 4) (m : Mach) : Mach :=
  let (p, e) := match (m.enc.get n).caps with | c :: _ => (c.p, c.e) | [] => (0, 0)
  let m1 := (m.put64 (R.MOT_ENC_POS_A n) (R.MOT_ENC_POS_HI_A n) p).put64 (R.MOT_ENC_EDGE_LO_A n) (R.MOT_ENC_EDGE_HI_A n) e
  m1.emit (.readValue (R.MOT_ENC_POS_A n) (m1.rd (R.MOT_ENC_POS_A n)))

/-- R200: a read of MOT_ENC_IDX_LO latches the rest of the index capture. -/
def encIdxRead (n : Fin 4) (m : Mach) : Mach :=
  let (p, t) := (m.enc.get n).idx.getD (0, 0)
  let m1 := (m.put64 (R.MOT_ENC_IDX_LO_A n) (R.MOT_ENC_IDX_HI_A n) p).put64 (R.MOT_ENC_IDXT_LO_A n) (R.MOT_ENC_IDXT_HI_A n) t
  m1.emit (.readValue (R.MOT_ENC_IDX_LO_A n) (m1.rd (R.MOT_ENC_IDX_LO_A n)))

/-- Bytes an SPI transfer keeps (R207). -/
def imuKept (m : Mach) (i : Fin 4) : Nat := m.g (R.MOT_IMU_XFER_RD_LEN i) - m.g (R.MOT_IMU_XFER_SKIP i)

/-- The command bytes of a port (R207). -/
def imuCmd (m : Mach) (i : Fin 4) : List Byte :=
  (bytesOf 4 (m.rd (R.MOT_IMU_CMD_A i 0)).toNat ++ bytesOf 4 (m.rd (R.MOT_IMU_CMD_A i 1)).toNat).take (m.g (R.MOT_IMU_XFER_CMD_LEN i))

/-- SCK_DIV, whose values below 29 act as 29 (R206). -/
def sckDiv (m : Mach) (i : Fin 4) : Nat := max 29 (m.g (R.MOT_IMU_CTRL_SCK_DIV i))

/-- R207, R208: a DRDY edge; DRDY_POL says which one is active. -/
def imuDrdy (i : Fin 4) (rising : Bool) (m : Mach) : Mach :=
  if !m.on (R.MOT_IMU_CTRL_EN i) || rising == m.on (R.MOT_IMU_CTRL_DRDY_POL i) then m
  else
    let stamp := m.time.n.fdiv 10 * 10 + m.gi (R.MOT_IMU_TIM_DRDY_COMP i)
    let m1 := m.onImu i fun x => { x with lastDrdy := some m.elapsed }
    if (m.imu.get i).busy then (m1.onImu i fun x => { x with missed := x.missed ++ [stamp] }).inc (R.MOT_IMU_DRDY_OVR i)
    else (m1.onImu i fun x => { x with busy := true, stamp := stamp }).emit
      (.spi i (m.g (R.MOT_IMU_CTRL_SPI_MODE i)) (m.sckDiv i) (m.imuCmd i) (m.g (R.MOT_IMU_XFER_RD_LEN i)))

/-- One sample into every enabled channel's filters (R208, R209). -/
def imuFeed (i : Fin 4) (vals : List Int) (stamp : Int) (fill : Bool) (m : Mach) : Mach :=
  forEach (List.finRange 8) (fun (k : Fin 8) t =>
    if bitN (t.g (R.MOT_IMU_XFER_CH_EN i)) k ∧ k.1 < vals.length then
      let (c, sats, out) := ((t.imu.get i).chans.get k).feed (t.g (R.MOT_IMU_FIR_STAGE1 i)) (t.g (R.MOT_IMU_FIR_STAGE2 i))
        (t.on (R.MOT_IMU_FIR_S2_EN i)) { x := (vals[k.1]?).getD 0, t := stamp, fill := fill }
      let t0 := t.onImu i fun x => { x with chans := vput x.chans k c }
      let t1 := match out with | some y => t0.vibFeed i k y | none => t0
      if sats = 0 then t1 else (t1.addTo (R.MOT_IMU_SAT i) sats).set1 (R.MOT_IMU_STAT_SAT i)
    else t) m

/-- R207, R208, R211: a transfer ends; missed edges enter the filters after it, with its values. -/
def imuDone (i : Fin 4) (bytes : List Byte) (m : Mach) : Mach :=
  let x := m.imu.get i
  if !x.busy then m
  else
    let kept := sliceB (bytes.drop (m.g (R.MOT_IMU_XFER_SKIP i))) 0 (m.imuKept i)
    let vals : List Int := (List.range (m.imuKept i / 2)).map fun k =>
      if m.on (R.MOT_IMU_CTRL_BIG_END i) then toSigned 16 (byteAt kept (2 * k) * 256 + byteAt kept (2 * k + 1)) else leI kept (2 * k) 2
    let m1 := (m.onImu i fun y => { y with busy := false, missed := [], last := vals }).inc (R.MOT_IMU_SAMPLES i)
    let m2 := forEach (List.range 4) (fun k t => t.wr (R.MOT_IMU_RAW_A i k)
      (BitVec.ofNat 32 (toBits 16 ((vals[2 * k]?).getD 0) + toBits 16 ((vals[2 * k + 1]?).getD 0) * 65536))) m1
    forEach x.missed (fun s t => t.imuFeed i vals s true) (m2.imuFeed i vals x.stamp false)

/-- R208: no DRDY edge for IMU_TMO µs. -/
def imuTimeout (i : Fin 4) (m : Mach) : Mach :=
  if !m.on (R.MOT_IMU_CTRL_EN i) then m
  else
    let due := ((m.imu.get i).lastDrdy.getD 0) + atLeast1 (m.g (R.MOT_IMU_TIM_IMU_TMO i)) * 1000
    let m1 := m.runToElapsed due
    let m2 := ((m1.onImu i fun x => { x with chans := Vector.replicate 8 {}, lastDrdy := some m1.elapsed }).inc (R.MOT_IMU_TMO i)).set1 (R.MOT_IMU_STAT_TMO i)
    (m2.vibZero i).health H.imuTmo (.imu i) []

/-- R207, R212: a write to EN. -/
def imuEn (i : Fin 4) (en : Bool) (m : Mach) : Mach :=
  if !en then (m.clr (R.MOT_IMU_CTRL_EN i)).onImu i fun x => { x with busy := false, missed := [] }
  else
    let rd := m.g (R.MOT_IMU_XFER_RD_LEN i)
    let skip := m.g (R.MOT_IMU_XFER_SKIP i)
    if rd < skip + 2 ∨ (rd - skip) % 2 = 1 ∨ 16 < rd - skip ∨ 8 < m.g (R.MOT_IMU_XFER_CMD_LEN i) then m.set1 (R.MOT_IMU_STAT_CFG_WR i)
    else ((m.set1 (R.MOT_IMU_CTRL_EN i)).vibZero i).onImu i fun _ => { lastDrdy := some m.elapsed }

/-- The latest output of a channel. -/
def imuOut (m : Mach) (i : Fin 4) (k : Fin 8) : Option Sample := ((m.imu.get i).chans.get k).outs.head?

/-- R213: a read of MOT_IMU_OUT0 latches the other outputs and its stamp. -/
def imuOutRead (i : Fin 4) (m : Mach) : Mach :=
  let m1 := forEach (List.finRange 8) (fun (k : Fin 8) t =>
    t.wr (R.MOT_IMU_OUT_A i k) (BitVec.ofNat 32 (toBits 32 (((m.imuOut i k).map (·.x)).getD 0)))) m
  let m2 := m1.put64 (R.MOT_IMU_OSTMP_LO_A i) (R.MOT_IMU_OSTMP_HI_A i) (((m.imuOut i 0).map (·.t)).getD 0)
  m2.emit (.readValue (R.MOT_IMU_OUT_A i 0) (m2.rd (R.MOT_IMU_OUT_A i 0)))

end Mach

/-- ENC_COUNT_EDGE (R198). -/
def execEncCountEdge (n : Fin 4) (a b : Bool) (s : State) := s.act (Mach.encEdge n a b)
/-- ENC_INDEX (R200). -/
def execEncIndex (e : PinEdge) (s : State) := s.act (Mach.encIndex e.unit e.rising)
/-- ENC_CAPTURE (R199). -/
def execEncCapture (s : State) := s.act Mach.encCapture
/-- MD_QUERY_ANSWER (R204). -/
def execMdQueryAnswer (n : Fin 4) (t : Int) (s : State) := s.act (Mach.mdQuery n t)
/-- MOT_ENC_EN (R203, R291). -/
def execMotEncEn (n : Fin 4) (en : Bool) (s : State) := s.act (Mach.encEn n en)
/-- MOT_ENC_REBASE (R203). -/
def execMotEncRebase (n : Fin 4) (s : State) := s.act (Mach.onEnc n fun x => { x with pendRebase := true })
/-- MOT_ENC_RESCALE (R203). -/
def execMotEncRescale (n : Fin 4) (s : State) := s.act (Mach.onEnc n fun x => { x with pendRescale := true })
/-- MOT_ENC_POS_READ (R199). -/
def execMotEncPosRead (n : Fin 4) (s : State) := s.act (Mach.encPosRead n)
/-- MOT_ENC_IDX_READ (R200). -/
def execMotEncIdxRead (n : Fin 4) (s : State) := s.act (Mach.encIdxRead n)
/-- IMU_DRDY (R207, R208). -/
def execImuDrdy (e : PinEdge) (s : State) := s.act (Mach.imuDrdy e.unit e.rising)
/-- IMU_TRANSFER_DONE (R211). -/
def execImuTransferDone (i : Fin 4) (bytes : List Byte) (s : State) := s.act (Mach.imuDone i bytes)
/-- IMU_TIMEOUT (R208). -/
def execImuTimeout (i : Fin 4) (s : State) := s.act (Mach.imuTimeout i)
/-- MOT_IMU_EN (R207). -/
def execMotImuEn (i : Fin 4) (en : Bool) (s : State) := s.act (Mach.imuEn i en)
/-- MOT_IMU_OUT_READ (R213). -/
def execMotImuOutRead (i : Fin 4) (s : State) := s.act (Mach.imuOutRead i)

end Sys2Proof.Machine
end

