-- ==== Sys2Proof/Machine/Net.lean ====
section
/-! DEFINITION. The commands of the Ethernet ports: stations, PTP, RRT. -/

namespace Sys2Proof.Machine

/-- R347. -/
def execEthFrameRx (p : Fin 2) (frame : EthFrame) (s : State) := 
  s.act fun m => (if m.rrtFrame p frame then m.stir 4 p.1 else m).ethFrameRx p frame
/-- R348. -/
def execArpRequest (p : Fin 2) (target : BitVec 32) (sender : List Byte) (s : State) := s.act (Mach.arpRequest p target sender)
/-- R348. -/
def execArpReply (p : Fin 2) (d : Fin 8) (mac : List Byte) (s : State) := s.act (Mach.hopReply p d mac)
/-- R348. -/
def execNeighborSolicitation (p : Fin 2) (target : List Byte) (s : State) := s.act (Mach.neighborSolicitation p target)
/-- R348. -/
def execIcmpEchoRequest (p : Fin 2) (v6 : Bool) (payload : Nat) (s : State) := s.act (Mach.echoRequest p v6 payload)
/-- R348. -/
def execNextHopRefresh (s : State) := s.act Mach.refreshHops
/-- R349, R352. -/
def execPtpFrameRx (p : Fin 2) (frame : PtpFrame) (s : State) := s.act (Mach.ptpFrameRx p frame)
/-- R350, R351. -/
def execPtpTxGo (party : Party) (cmd : BitVec 32) (s : State) := s.act (Mach.ptpTxGo party cmd)
/-- R350. -/
def execPtpTxDone (s : State) := s.act Mach.ptpTxDone
/-- R351. -/
def execPtpRxPop (party : Party) (s : State) := s.act (Mach.ptpPop party)
/-- R350. -/
def execPtpTxTsRead (s : State) := s.act Mach.ptpTsRead
/-- R351. -/
def execPtpFailover (s : State) := s.act Mach.ptpFailover
/-- R359, R361. -/
def execEthLinkChange (p : Fin 2) (up : Bool) (s : State) := s.act (Mach.ethLink p up)
/-- R352. -/
def execDelayReqSend (p : Fin 2) (s : State) := s.act (Mach.delayReqSend p)
/-- R353 to R355. -/
def execRrtDataSend (d : Fin 8) (stream : Fin 32) (s : State) := s.act (Mach.rrtSend d stream)
/-- R355, R359. -/
def execRrtResend (d : Fin 8) (stream : Fin 32) (s : State) := s.act (Mach.rrtResend d stream)
/-- R356, R358, R359. -/
def execRrtAck (d : Fin 8) (ack : RrtAckPkt) (s : State) := s.act fun m => (if m.ethUp ack.port then m.stir 4 ack.port else m).rrtAck d ack
/-- R359. -/
def execRrtFbProbe (d : Fin 8) (s : State) := s.act (Mach.rrtProbe d)
/-- R360. -/
def execRrtDestDisable (d : Fin 8) (s : State) := s.act (Mach.destDisable d)
/-- R356. -/
def execRrtDAckRead (d : Fin 8) (s : State) := s.act (Mach.destAckRead d)

end Sys2Proof.Machine
end

