-- ==== Sys2Proof/Machine/Ports.lean ====
section
/-! DEFINITION. Meanings of the sensor ports' commands (R58 to R86). -/

namespace Sys2Proof.Machine

namespace Mach

/-- A long packet header starts a packet (R78, R79): region map and decoder state are taken. -/
def startRx (p : Fin 16) (h : Csi2Header) (m : Mach) : Mach :=
  m.onPort p fun x =>
    { x with rx := some { hdr := h, headerAt := m.time.n, headerEl := m.elapsed, map := m.vcNibble p h.vc % 8, got := 0, carry := [],
                          dec := x.dec.get (Fin.ofNat 16 h.vc), events := [], markers := [], roi := false, raw := [],
                          region := (List.range 32).map fun k => m.rd (R.ING_ROI_A p k) } }

/-- R59: a complete RAW8 packet. -/
def raw8 (p : Fin 16) (payload : List Byte) (crcOk : Bool) (m : Mach) : Mach :=
  if crcOk then
    let b := sliceB (payload.take 64) 0 64
    let m1 := forEach (List.range 16) (fun k t => t.wr (R.ING_RAW_A p k) (BitVec.ofNat 32 (leN b (4 * k) 4))) m
    (m1.put (R.ING_RAW_LEN p) payload.length).inc (R.ING_RAW8 p)
  else m.inc (R.ING_CRC_BAD p)

/-- The end of a decoded packet: leftover bytes, then commit or drop (R65, R79). -/
def endRx (p : Fin 16) (crcOk : Bool) (m : Mach) : Mach :=
  match (m.port.get p).rx with
  | none => m
  | some r =>
    let m1 := if r.carry.isEmpty then m else m.inc (R.ING_TAIL p)
    if crcOk then m1.commitRx p false else m1.dropRx p (R.ING_CRC_BAD p)

/-- A packet comes over the lanes of a port. In S2 an enabled port's lanes leaving LP-11 wake the package; the packet that wakes it finds
the decoder idle and is not received (R325, R327; DEDUCED, log 87). -/
def overLanes (p : Fin 16) (receive : Mach → Mach) (m : Mach) : Mach :=
  let m1 := if m.on (R.ING_CTRL_EN p) then m.stir 5 p.1 else m
  if m.sleep.state = 0 then receive m1 else m1

/-- A long packet arrives (R58 to R60, R79). With `ovf` the input FIFO overflows after the given bytes. RX_PKTS counts every long
packet whose header can be read while the package is READY, the ones that VC_OFF, DT_OFF or RAW8 then take among them; a packet whose
header is uncorrectable counts in HDR_BAD and as a vat drop even if its data type reads 0x2A, since no field of such a header can be
trusted (both DESIGN CHOICE, log 74). -/
def longPacket (p : Fin 16) (h : Csi2Header) (payload : List Byte) (crcOk ovf : Bool) (m : Mach) : Mach :=
  let m := m.atBoundary p
  let x := m.port.get p
  if !x.running || x.rx.isSome then m
  else
  let m := m.headerIn p
  if !m.rst.ready then
    let m1 := m.inc (R.ING_FLUSHED p)
    if h.dt = 0x2A then m1 else m1.lostRaw p
  else if h.ecc = .bad then (m.inc (R.ING_HDR_BAD p)).lostRaw p
  else
    let m1 := (if h.ecc = .corrected then m.inc (R.ING_HDR_CORR p) else m).inc (R.ING_RX_PKTS p)
    let data := payload.take h.wc
    if !m1.vcOn p h.vc then m1.inc (R.ING_VC_OFF p)
    else if h.dt = 0x2A ∧ m1.on (R.ING_DT_RAW8_EN p) then
      if ovf then m1.inc (R.ING_RX_OVF p)
      else if data.length < h.wc then
        (m1.startRx p h).onPort p fun y => { y with rx := y.rx.map fun r => { r with raw := data, got := data.length } }
      else m1.raw8 p data crcOk
    else if 0x30 ≤ h.dt ∧ h.dt ≤ 0x37 ∧ bitN (m1.g (R.ING_DT_DT_EN p)) (h.dt - 0x30) then
      let m2 := (m1.startRx p h).feed p data
      if (m2.port.get p).rx.isNone then m2
      else if ovf then m2.dropRx p (R.ING_RX_OVF p)
      else if data.length < h.wc then m2
      else m2.endRx p crcOk
    else m1.inc (R.ING_DT_OFF p)

/-- A short packet arrives (R58). -/
def shortPacket (p : Fin 16) (h : Csi2Header) (m : Mach) : Mach :=
  let m := m.atBoundary p
  let x := m.port.get p
  if !x.running || x.rx.isSome then m
  else
  let m := m.headerIn p
  if !m.rst.ready then m
  else if h.ecc = .bad then (m.inc (R.ING_HDR_BAD p)).lostRaw p
  else
    let m1 := if h.ecc = .corrected then m.inc (R.ING_HDR_CORR p) else m
    if !m1.vcOn p h.vc then m1.inc (R.ING_VC_OFF p)
    else if 4 ≤ h.dt ∧ h.dt ≤ 7 then m1.inc (R.ING_DT_OFF p)
    else m1.inc (R.ING_SHORT p)

/-- R84: an incomplete packet is closed when PKT_TIMEOUT µs have passed since its last byte. The bytes of a packet arrive with its
header (log 27). -/
def packetTimeout (p : Fin 16) (m : Mach) : Mach :=
  match (m.port.get p).rx with
  | none => m
  | some r =>
    let m1 := (m.runToElapsed (r.headerEl + (m.settings p).g (R.ING_TMO_PKT_TIMEOUT p) * 1000)).inc (R.ING_TRUNC p)
    if r.hdr.dt = 0x2A then m1.onPort p fun x => { x with rx := none }
    else (if r.carry.isEmpty then m1 else m1.inc (R.ING_TAIL p)).commitRx p true

/-- The next sync instant that has not been driven (R71, R336). -/
def syncDue (m : Mach) (p : Fin 16) : Int :=
  let s := m.settings p
  let per : Int := s.g (R.ING_SYNC_PER p) * 1000
  let lo := match (m.port.get p).syncLast with | some l => max m.time.n (l + 1) | none => m.time.n
  lo + ((s.g (R.ING_SYNC_PHASE p) : Int) - lo).fmod per

/-- A sync edge is driven now for the instant `at_` (R71): only the latest edges that a packet in reception may still look
for are kept. -/
def syncFire (p : Fin 16) (at_ : Int) (m : Mach) : Mach :=
  let now := m.settings p
  let e : SyncEdge := { s := m.time.n + now.gi (R.ING_SYNC_WIN_SYNC_COMP p), t := m.elapsed, used := false }
  let x := m.port.get p
  let older := match x.rx with
    | none => []
    | some r =>
      let later := x.edges.takeWhile fun o => decide (r.headerEl < o.t)
      later ++ (x.edges.drop later.length).take 1
  m.onPort p fun y =>
    { y with edges := e :: older, syncLast := some at_,
             syncUntil := some (m.elapsed + now.g (R.ING_SYNC_CFG_SYNC_WIDTH p) * 1000) }

/-- R71. -/
def syncEdge (p : Fin 16) (m : Mach) : Mach :=
  if m.on (R.ING_CTRL_SYNC_EN p) && (m.settings p).syncOk p then
    let d := m.syncDue p
    (m.runTo d).syncFire p d
  else m

/-- R71. -/
def syncPulseEnd (p : Fin 16) (m : Mach) : Mach :=
  match (m.port.get p).syncUntil with
  | some u => (m.runToElapsed u).onPort p fun x => { x with syncUntil := none }
  | none => m

/-- R75: the fit is lost when FIT_HOLD periods have passed after S_a. -/
def fitLost (p : Fin 16) (m : Mach) : Mach :=
  let f := (m.port.get p).fit
  if f.valid then
    let s := m.settings p
    let m1 := m.runTo (f.sa + s.g (R.ING_SYNC_CFG_FIT_HOLD p) * s.g (R.ING_SYNC_PER p) * 1000)
    let m2 := (m1.fitOff p).inc (R.ING_SYNC_LOST p)
    m2.health H.syncLost (.port p) []
  else m

/-- R83 at the boundary. -/
def flushApply (p : Fin 16) (m : Mach) : Mach :=
  let x := m.port.get p
  if x.flushPend && x.rx.isNone then m.flushNow p else m

/-- R85 at the boundary. -/
def portStop (p : Fin 16) (m : Mach) : Mach :=
  let x := m.port.get p
  if x.stopReq && x.rx.isNone then m.stopPort p else m

/-- R85: a write of 1 to EN while EN reads 0 is judged. -/
def ctrlEn (p : Fin 16) (m : Mach) : Mach :=
  if m.on (R.ING_CTRL_EN p) then m
  else if (m.enableReject p).isSome then m.set1 (R.ING_STAT_EN_ERR p)
  else m.enablePort p

/-- R83. -/
def flushAsk (p : Fin 16) (m : Mach) : Mach := m.onPort p fun x => { x with flushPend := true }

/-- R62, R63: GO. -/
def sciGo (p : Fin 16) (who : Party) (addr wlen rlen : Nat) (m : Mach) : Mach :=
  let granted := m.on (R.ING_SCI_CFG_OWNER p) == (who == .mgt)
  if !granted then m.set1 (R.ING_SCI_STAT_OWN_ERR p)
  else if (m.port.get p).sci.isSome then m.set1 (R.ING_SCI_STAT_CMD_LOST p)
  else m.sciStart p (match who with | .host => .host | .mgt => .mgt) addr wlen rlen

/-- R62: SCL has been low for 25 ms, so not before 25 ms of the transfer: TIMEOUT, nine SCL pulses and a STOP. -/
def sciTimeout (p : Fin 16) (m : Mach) : Mach :=
  match (m.port.get p).sci with
  | some run => ((m.runToElapsed (run.startEl + 25000001)).emit (.sciRecover p.1)).sciEnd p 4 []
  | none => m

/-- R74: a read of ING_FIT_RATE latches the anchor. -/
def fitRateRead (p : Fin 16) (m : Mach) : Mach :=
  let f := (m.port.get p).fit
  let m1 := (((m.wr (R.ING_FIT_RATE_A p) (BitVec.ofNat 32 (toBits 32 f.r))).put64 (R.ING_FIT_SA_LO_A p) (R.ING_FIT_SA_HI_A p) f.sa).put64
    (R.ING_FIT_UA_LO_A p) (R.ING_FIT_UA_HI_A p) f.ua)
  m1.emit (.readValue (R.ING_FIT_RATE_A p) (m1.rd (R.ING_FIT_RATE_A p)))

end Mach

/-- CSI2_LONG_PACKET (R79). -/
def execCsi2LongPacket (p : Fin 16) (hdr : Csi2Header) (payload : List Byte) (crcOk fifoOvf : Bool) (s : State) :=
  s.act (Mach.overLanes p (Mach.longPacket p hdr payload crcOk fifoOvf))
/-- CSI2_RAW8_PACKET (R59). -/
def execCsi2Raw8Packet (p : Fin 16) (hdr : Csi2Header) (payload : List Byte) (crcOk : Bool) (s : State) :=
  s.act (Mach.overLanes p (Mach.longPacket p { hdr with dt := 0x2A } payload crcOk false))
/-- CSI2_SHORT_PACKET (R58). -/
def execCsi2ShortPacket (p : Fin 16) (hdr : Csi2Header) (s : State) := s.act (Mach.overLanes p (Mach.shortPacket p hdr))
/-- PACKET_TIMEOUT (R84). -/
def execPacketTimeout (p : Fin 16) (s : State) := s.act (Mach.packetTimeout p)
/-- SYNC_EDGE (R71). -/
def execSyncEdge (p : Fin 16) (s : State) := s.act (Mach.syncEdge p)
/-- SYNC_PULSE_END (R71). -/
def execSyncPulseEnd (p : Fin 16) (s : State) := s.act (Mach.syncPulseEnd p)
/-- FIT_LOST (R75). -/
def execFitLost (p : Fin 16) (s : State) := s.act (Mach.fitLost p)
/-- FLUSH_APPLY (R83). -/
def execFlushApply (p : Fin 16) (s : State) := s.act (Mach.flushApply p)
/-- PORT_STOP (R85). -/
def execPortStop (p : Fin 16) (s : State) := s.act (Mach.portStop p)
/-- ING_CTRL_EN (R85). -/
def execIngCtrlEn (p : Fin 16) (s : State) := s.act (Mach.ctrlEn p)
/-- ING_CTRL_DISABLE (R85). -/
def execIngCtrlDisable (p : Fin 16) (s : State) := s.act (Mach.disablePort p)
/-- ING_CTRL_FLUSH (R83). -/
def execIngCtrlFlush (p : Fin 16) (s : State) := s.act (Mach.flushAsk p)
/-- SCI_GO (R62, R63). -/
def execSciGo (p : Fin 16) (party : Party) (addr wlen rlen : Nat) (s : State) := s.act (Mach.sciGo p party addr wlen rlen)
/-- SCI_TRANSFER_DONE (R62). -/
def execSciTransferDone (p : Fin 16) (result : Nat) (data : List Byte) (s : State) := s.act (Mach.sciEnd p result data)
/-- SCI_TIMEOUT (R62). -/
def execSciTimeout (p : Fin 16) (s : State) := s.act (Mach.sciTimeout p)
/-- ING_FIT_RATE_READ (R74). -/
def execIngFitRateRead (p : Fin 16) (s : State) := s.act (Mach.fitRateRead p)

end Sys2Proof.Machine
end

