-- ==== Sys2Proof/Machine/Records.lean ====
section
/-! DEFINITION. Meanings of delivery, commit, hold-up, power failure and the journal store (R269 to R281, R453 to R463). -/

namespace Sys2Proof.Machine

/-- REPORT_DELIVERY (R269). -/
def execReportDelivery (f : Fin 8) (cls : Fin 4) (s : State) := s.act (Mach.deliver f cls)
/-- COMMIT_GROUP_FORM (R275). -/
def execCommitGroupForm (s : State) := s.act Mach.formGroup
/-- COMMIT_GROUP_DURABLE (R275). -/
def execCommitGroupDurable (s : State) := s.act Mach.groupDurable
/-- HOLDUP_SAMPLE (R276). -/
def execHoldupSample (mv : Nat) (s : State) := s.act (Mach.holdupSample mv)
/-- POWER_FAIL (R280). -/
def execPowerFail (s : State) := s.act Mach.powerFail
/-- FINAL_COMMIT_DONE (R280). -/
def execFinalCommitDone (s : State) := s.act Mach.finalCommitDone
/-- PWR_FAIL_N_RETURN (R281). -/
def execPwrFailNReturn (s : State) := s.act Mach.pwrFailReturn
/-- NVS_REINIT (R454). -/
def execNvsReinit (s : State) := s.act Mach.storeInit
/-- NVS_REINIT_RETRY (R459). -/
def execNvsReinitRetry (s : State) := s.act Mach.reinitRetry
/-- NVME_COMPLETION (R454, R459, R460). -/
def execNvmeCompletion (reply : NvmeReply) (s : State) := s.act (Mach.nvmeDone reply)
/-- NVME_TIMEOUT (R459). -/
def execNvmeTimeout (s : State) := s.act Mach.nvmeTimeout
/-- NVME_RETRY (R459). -/
def execNvmeRetry (s : State) := s.act Mach.nvmeRetry
/-- SUPERBLOCK_WRITE (R455). -/
def execSuperblockWrite (s : State) := s.act Mach.superblock
/-- NVS_GSEQ_READ (R463). -/
def execNvsGseqRead (s : State) := s.act Mach.gseqRead

end Sys2Proof.Machine
end

