-- ==== Sys2Proof/Machine/ResetCmds.lean ====
section
/-! DEFINITION. Meanings of resets, bring-up, sideband, TAP and die loss (R40, R281, R322, R391, R412 to R443, R483). -/

namespace Sys2Proof.Machine

namespace Mach

/-! ## Package warm resets (R412 to R417) -/

/-- R40: sixteen boundaries have passed without a summary. -/
def tickWdog (m : Mach) : Mach :=
  if m.tick.wdogArmed ∧ 16 ≤ m.tick.wdogCount then m.warmReset Cause.tickWdog 0 else m

/-- R281: PWR_FAIL_N has been high for RECOVER ms since the later of its return and FINAL_DONE. -/
def recoverExpired (m : Mach) : Mach :=
  match m.jnl.pf, m.jnl.recoverFrom with
  | some .done, some t => (m.runToElapsed (t + m.g R.JNL_PF * 1000000)).warmReset Cause.pwrFail 0
  | _, _ => m

/-- R322: THERM_TRIP_N goes low; the comparator of a sensor reads 115 °C or more. -/
def thermalTrip (s : Fin 24) (m : Mach) : Mach :=
  if m.rst.hold = some .por then m
  else ((m.put (R.THM_S s) (max (toSigned 16 (m.g (R.THM_S s))) (115 * 256)).toNat).warmReset Cause.thermTrip 0).onRst fun r => { r with thermLow := true }

/-- R414, R417: RESET_N, or PERST_N while PERST_MODE is 0. Asleep, each is a wake source too, RESET_N from S2 and S3 and PERST_N from
S2; in S3 the endpoint is off, and PERST_N does nothing (R327; DEDUCED, log 87). -/
def pinReset (perst : Bool) (m : Mach) : Mach :=
  let code := if perst then Cause.perstN else Cause.resetN
  if perst && (m.on R.RST_CFG_PERST_MODE || m.sleep.state == 3) then m
  else if m.sleep.state = 0 then m.warmReset code 0
  else ((m.recordWake (if perst then 3 else 2) 0).warmReset code 0).onSleep fun s => { s with waking := true }

/-- R414: PERST_N while PERST_MODE is 1. -/
def endpointReset (m : Mach) : Mach :=
  if !m.on R.RST_CFG_PERST_MODE || m.rst.hold.isSome || m.sleep.state == 3 then m
  else (((m.stir 3 0).recordCause Cause.endpoint 0).flr 0).health H.endpointReset .package []

/-- R413: rails 0 to 11 are monitored. -/
def supplyFault (rail : Nat) (m : Mach) : Mach := if rail < 12 then m.warmReset Cause.supply rail else m

/-- R391. -/
def mgtWdog (m : Mach) : Mach := if m.rst.hold.isSome then m else m.warmReset Cause.mgtWdog 0

/-- R380: 10 µs after PKG_RESET was accepted. -/
def hostCmdReset (m : Mach) : Mach :=
  match m.rst.pkgReset with
  | some t => (m.runToElapsed (t + 10000)).warmReset Cause.hostCmd 0
  | none => m

/-! ## Release (R416 to R423) -/

/-- How long the hold of a cause lasts (R417): a pin's lasts as long as the pin is low. -/
def holdLength (m : Mach) (code : Nat) : Int :=
  if code = Cause.thermTrip then m.g R.THM_COOL * 1000000
  else if code = Cause.resetN ∨ code = Cause.perstN then 0
  else 1000000

/-- The hold ends, and bring-up runs up to what it waits for. -/
def holdEnd (b : BootInfo) (m : Mach) : Mach :=
  match m.rst.hold with
  | none => m
  | some .por => m.bringUp b
  | some (.warm c) => (m.runToElapsed (m.rst.holdAt + m.holdLength c)).bringUp b

/-- R416: RESET_OUT_N rises. -/
def resetOutRelease (m : Mach) : Mach :=
  match m.rst.outFrom with
  | some t =>
    let ms := m.g R.RST_CFG_RST_OUT_MIN
    (m.runToElapsed (t + (if ms = 0 then 1 else min ms 100 : Nat) * 1000000)).onRst fun r => { r with outLow := false, outFrom := none }
  | none => m

/-- The ROM waits at step 9 for an image under a boot mode (R423). -/
def romWaits (m : Mach) (mode : Nat) : Bool :=
  m.rst.hold.isNone && m.rst.stage == 9 && !m.rst.fwVerified && m.chip.bootSel == mode

/-- A loaded image has been verified, or failed. -/
def imageLoaded (ok : Bool) (m : Mach) : Mach :=
  if ok then ((m.onRst fun r => { r with fwVerified := true, bootErr := 0, sbImage := [] }).put R.GLB_BOOT_STAT 0).otherFirmware
  else ((m.onRst fun r => { r with bootErr := 4, sbImage := [] }).put R.GLB_BOOT_STAT 3).inc R.SEC_FW_VERIFY_FAIL

/-- R423, BOOT_SEL 01. -/
def bootGo (ok : Bool) (m : Mach) : Mach := if m.romWaits 1 then m.imageLoaded ok else m

/-- R436: READY ends a bring-up or a compute reset. -/
def readyAny (b : BootInfo) (m : Mach) : Mach := if m.rst.compute.isSome then m.readyCompute b else m.readyBringUp b

/-! ## Pads and cause registers -/

/-- R433: a read of RST_T_LAST_LO latches the high word. -/
def tLastRead (m : Mach) : Mach :=
  let m1 := m.put64 R.RST_T_LAST_LO_A R.RST_T_LAST_HI_A m.rst.tLast
  m1.emit (.readValue R.RST_T_LAST_LO_A (m1.rd R.RST_T_LAST_LO_A))

/-! ## The sideband interface (R434, R435) -/

/-- The last command byte taken. -/
def sbLast (code : Nat) (m : Mach) : Mach := m.put R.SBI_STAT_LAST_CMD code

/-- A command has taken effect. -/
def sbTaken (code : Nat) (m : Mach) : Mach := (m.sbLast code).inc R.SBI_CMDS

/-- A write that is discarded as incomplete, or as not allowed now. -/
def sbIncomplete (m : Mach) : Mach := (m.set1 R.SBI_STAT_INCOMPLETE).inc R.SBI_INCOMPLETE

/-- A write command: a STOP and a valid PEC, then the command's own conditions. -/
def sbWrite (code : Nat) (pecOk stop : Bool) (f : Mach → Mach) (m : Mach) : Mach :=
  let m1 := m.sbLast code
  if !stop then m1.sbIncomplete
  else if !pecOk then (m1.set1 R.SBI_STAT_PEC_BAD).inc R.SBI_PEC_ERR
  else f m1

/-- STATUS: eight bytes. -/
def statusBytes (m : Mach) : List Byte :=
  [BitVec.ofNat 8 ((if m.rst.ready then 128 else 0) + m.rst.stage % 16), BitVec.ofNat 8 m.rst.bootErr,
   BitVec.ofNat 8 (m.g R.RST_CAUSE_LAST_CODE), BitVec.ofNat 8 m.shownState] ++ bytesOf 4 (t32Of m.rst.tLast)

def sbStatus (m : Mach) : Mach := (m.sbTaken 0x01).emit (.sideband m.statusBytes)

/-- LOAD_DATA. -/
def sbLoadData (bytes : List Byte) (pecOk stop : Bool) (m : Mach) : Mach :=
  m.sbWrite 0xB0 pecOk stop fun t =>
    if t.romWaits 2 && decide (1 ≤ bytes.length) && decide (bytes.length ≤ 32) then
      (t.sbTaken 0xB0).onRst fun r => { r with sbImage := r.sbImage ++ bytes }
    else t.sbIncomplete

/-- LOAD_END: verification of what was loaded. -/
def sbLoadEnd (pecOk stop ok : Bool) (m : Mach) : Mach :=
  m.sbWrite 0xB1 pecOk stop fun t => if t.romWaits 2 then (t.sbTaken 0xB1).imageLoaded ok else t.sbIncomplete

/-- RESET. -/
def sbReset (key : Nat) (pecOk stop : Bool) (m : Mach) : Mach :=
  m.sbWrite 0xE5 pecOk stop fun t =>
    if t.on R.SBI_CFG_RST_EN ∧ key = t.g R.SBI_KEY then ((t.sbTaken 0xE5).inc R.SBI_RESETS).warmReset Cause.sideband 0
    else (t.set1 R.SBI_STAT_KEY_BAD).inc R.SBI_KEY_ERR

/-- R434: a dynamic address. -/
def i3cAddress (a : Nat) (m : Mach) : Mach := if a < 128 then m.onRst fun r => { r with sbDyn := some a } else m

/-! ## The TAP (R483, R484) -/

/-- The codes of the public set: EXTEST, SAMPLE/PRELOAD, IDCODE, CLAMP, HIGHZ, BYPASS. -/
def tapPublic (ir : Nat) : Bool := decide (ir ≤ 4) || ir == 15

/-- EXTEST, CLAMP and HIGHZ take pads. -/
def tapTakesPads (ir : Nat) : Bool := ir == 0 || ir == 3 || ir == 4

/-- The instruction that a code loads as. -/
def tapEffect (m : Mach) (ir : Nat) : Nat :=
  if m.rst.ready && tapTakesPads ir then 15 else if tapPublic ir || m.rst.unlocked then ir else 15

/-- What IDCODE shifts out. -/
def tapId (m : Mach) : Nat := m.chip.rev % 16 * 2 ^ 28 + m.gradeId * 2 ^ 12 + 0x4E7 * 2 + 1

/-- An instruction is loaded, or TRST_N resets the TAP. -/
def jtag (ir : BitVec 4) (trst : Bool) (m : Mach) : Mach :=
  if trst then m.onRst fun r => { r with jtagIr := 2, jtagEff := 2 }
  else m.onRst fun r => { r with jtagIr := ir.toNat, jtagEff := m.tapEffect ir.toNat }

end Mach

/-- TICK_WDOG (R40). -/
def execTickWdog (s : State) := s.act Mach.tickWdog
/-- PWR_RECOVER_EXPIRED (R281). -/
def execPwrRecoverExpired (s : State) := s.act Mach.recoverExpired
/-- THERMAL_TRIP (R322). -/
def execThermalTrip (sensor : Fin 24) (s : State) := s.act (Mach.thermalTrip sensor)
/-- MGT_WDOG (R391). -/
def execMgtWdog (s : State) := s.act Mach.mgtWdog
/-- POWER_ON_RESET (R412). -/
def execPowerOnReset (s : State) := s.act Mach.powerOn
/-- WARM_RESET_START (R417). -/
def execWarmResetStart (perst : Bool) (s : State) := s.act (Mach.pinReset perst)
/-- ENDPOINT_RESET (R414). -/
def execEndpointReset (s : State) := s.act Mach.endpointReset
/-- SUPPLY_FAULT (R413). -/
def execSupplyFault (rail : Nat) (s : State) := s.act (Mach.supplyFault rail)
/-- RESET_HOLD_END (R418). -/
def execResetHoldEnd (info : BootInfo) (s : State) := s.act (Mach.holdEnd info)
/-- BOOT_GO (R423). -/
def execBootGo (verified : Bool) (s : State) := s.act (Mach.bootGo verified)
/-- READY (R436). -/
def execReady (info : BootInfo) (s : State) := s.act (Mach.readyAny info)
/-- COMPUTE_RESET (R427). -/
def execComputeReset (s : State) := s.act Mach.computeStart
/-- BLOCK_RESET (R424). -/
def execBlockReset (kind unit : Nat) (s : State) := s.act (Mach.blockGo kind unit)
/-- BLOCK_RESET_IDLE (R425). -/
def execBlockResetIdle (s : State) := s.act Mach.blockIdle
/-- BLOCK_RESET_TIMEOUT (R425). -/
def execBlockResetTimeout (inFlight : Nat) (s : State) := s.act (Mach.blockTimeout inFlight)
/-- IOC_RELEASE (R430). -/
def execIocRelease (mask : BitVec 5) (s : State) := s.act (Mach.releasePads mask)
/-- RST_T_LAST_READ (R433). -/
def execRstTLastRead (s : State) := s.act Mach.tLastRead
/-- STATUS (R434). -/
def execStatus (s : State) := s.act fun m => (m.stir 1 0).sbStatus
/-- LOAD_DATA (R434). -/
def execLoadData (bytes : List Byte) (pecOk stop : Bool) (s : State) := s.act fun m => (m.stir 1 0).sbLoadData bytes pecOk stop
/-- LOAD_END (R434). -/
def execLoadEnd (pecOk stop verified : Bool) (s : State) := s.act fun m => (m.stir 1 0).sbLoadEnd pecOk stop verified
/-- SIDEBAND_RESET (R434). -/
def execSidebandReset (key : Nat) (pecOk stop : Bool) (s : State) := s.act fun m => (m.stir 1 0).sbReset key pecOk stop
/-- SIDEBAND_BUS_TIMEOUT (R435). -/
def execSidebandBusTimeout (s : State) := s.act fun m => (m.stir 1 0).sbIncomplete
/-- I3C_DYNAMIC_ADDRESS_ASSIGNMENT (R434). -/
def execI3cDynamicAddressAssignment (addr : Nat) (s : State) := s.act (Mach.i3cAddress addr)
/-- DIE_LOST (R440). -/
def execDieLost (d : Fin 4) (why : Nat) (s : State) := s.act (Mach.loseDie d why)
/-- AUTO_COMPUTE_RESET (R440). -/
def execAutoComputeReset (s : State) := s.act Mach.autoCompute
/-- RESET_OUT_N_RELEASE (R416). -/
def execResetOutNRelease (s : State) := s.act Mach.resetOutRelease
/-- HOST_CMD_RESET (R380). -/
def execHostCmdReset (s : State) := s.act Mach.hostCmdReset
/-- JTAG_INSTRUCTION (R483). -/
def execJtagInstruction (ir : BitVec 4) (trst : Bool) (s : State) := s.act (Mach.jtag ir trst)

end Sys2Proof.Machine
end

