-- ==== Sys2Proof/Machine/TimeUnit.lean ====
section
/-! DEFINITION. Meanings of the time unit's commands but for the staged step (R333 to R346, R362). -/

namespace Sys2Proof.Machine

namespace Mach

/-- R333, R362: both snapshot sets exist; a write latches the writer's on the next increment. -/
def timSnap (p : Party) (m : Mach) : Mach :=
  let m1 := m.runIncs 1
  match p with
  | .host => m1.onTime fun t => { t with snapPf := m1.snapshot }
  | .mgt => m1.onTime fun t => { t with snapMc := m1.snapshot }

/-- R334, R335: GO arms a staged step, or is discarded with STG_ERR. -/
def stagedGo (force atEn adj : Bool) (m : Mach) : Mach :=
  let m1 := ((m.put R.TIM_STG_CTRL_FORCE force.toNat).put R.TIM_STG_CTRL_AT_EN atEn.toNat).put R.TIM_STG_CTRL_MODE adj.toNat
  let ns := m1.g R.TIM_STG_NS
  let sec := m1.g R.TIM_STG_V_LO + m1.g R.TIM_STG_V_HI % 2 ^ 16 * 2 ^ 32
  let bad := m1.time.staged.isSome || (!adj && (decide (1000000000 ≤ ns) || decide (9223372036 ≤ (sec * 1000000000 + ns) / 1000000000)))
  if bad then m1.set1 R.TIM_STAT_STG_ERR
  else
    let v : Int := if adj then m1.gi64 R.TIM_STG_V_LO_A R.TIM_STG_V_HI_A else sec
    let at_ := if atEn then some (m1.gi64 R.TIM_STG_AT_LO_A R.TIM_STG_AT_HI_A) else none
    let st : Staged := { adj := adj, v := v, ns := ns, at? := at_, force := force }
    m1.onTime fun t => { t with staged := some st }

/-- R334: CANCEL discards a pending write. -/
def stagedCancel (m : Mach) : Mach := m.onTime fun t => { t with staged := none }

/-- R337: the write to TIM_SRV_OFS_HI submits a sample, or sets SAMPLE_LOST while SRC is not 0. -/
def servoOffset (hi : Word) (m : Mach) : Mach :=
  if m.g R.TIM_SRV_CFG_SRC = 0 then
    m.servoSample (toSigned 64 ((m.rd R.TIM_SRV_OFS_LO_A).toNat + hi.toNat * 2 ^ 32)) m.time.n
  else m.set1 R.TIM_STAT_SAMPLE_LOST

/-- R338, R339: EN written 0 makes the quality FREE. -/
def servoEn (en : Bool) (m : Mach) : Mach :=
  let m1 := m.put R.TIM_SRV_CFG_EN en.toNat
  if en then m1
  else (m1.onServo fun v => { v with returning := true, lockRun := 0, spikeRun := 0 }).setQuality .free

/-- R337: a PPS_IN edge stamped S_e gives the phase within the second. The edge is accepted FILT increments after the
stamped one (R346). -/
def ppsIn (m : Mach) : Mach :=
  let se := m.incsAgo (m.g R.TIM_PPSIN_FILT)
  if m.g R.TIM_SRV_CFG_SRC = 2 then
    let u := (se - m.gi R.TIM_PPSIN_COMP).fmod 1000000000
    m.servoSample (if 500000000 ≤ u then u - 1000000000 else u) se
  else m

/-- R339: HOLD_TIMEOUT ms after the last sample or step, LOCKED and STEPPED become HOLDOVER. -/
def holdTimeout (m : Mach) : Mach :=
  if !m.servoOff && (m.time.quality == .locked || m.time.quality == .stepped) then
    (m.runToElapsed (m.time.holdFrom + atLeast1 (m.g R.TIM_SRV_HOLD_HOLD_TIMEOUT) * 1000000)).enterHoldover false
  else m

/-- R341: the slew ends, y and I return to the value held. -/
def slewEnd (m : Mach) : Mach :=
  match m.time.servo.slew with
  | none => m
  | some w =>
    let m1 := (m.runToElapsed w.endsAt).onTime fun t => { t with y := w.yHold, servo := { t.servo with integ := w.yHold, slew := none } }
    m1.timeStatus m1.time.servo.lastTheta m1.time.quality m1.time.quality m1.srvSource 3 0

/-- R362: a read of TIM_SRV_LAST_LO latches the high word of the last θ. -/
def srvLastRead (m : Mach) : Mach :=
  let v := toBits 64 m.time.servo.lastTheta
  let m1 := (m.wr R.TIM_SRV_LAST_LO_A (BitVec.ofNat 32 v)).wr R.TIM_SRV_LAST_HI_A (BitVec.ofNat 32 (v / 2 ^ 32))
  m1.emit (.readValue R.TIM_SRV_LAST_LO_A (m1.rd R.TIM_SRV_LAST_LO_A))

/-- R344: a write to TIM_TO_CTRL ends any pulse in progress and arms SINGLE, PERIODIC or POSITION. -/
def trigCtrl (o : Fin 8) (val : Word) (m : Mach) : Mach :=
  let v := val.toNat
  let m1 := if bitN v 31 then m.clr (R.TIM_TO_CTRL_LATE o) else m
  let m2 := (((m1.put (R.TIM_TO_CTRL_ENC o) (bitsN v 7 6)).put (R.TIM_TO_CTRL_LEVEL o) (bitsN v 5 5)).put
    (R.TIM_TO_CTRL_POL o) (bitsN v 4 4)).put (R.TIM_TO_CTRL_MODE o) (bitsN v 2 0)
  m2.armTrig o

/-- R343: a SINGLE or PERIODIC output reaches its start instant. -/
def trigStart (o : Fin 8) (m : Mach) : Mach :=
  let mode := m.g (R.TIM_TO_CTRL_MODE o)
  let t := m.time.trigOut.get o
  if t.armed ∧ (mode = 1 ∨ mode = 2) then
    let m1 := m.runTo t.next
    m1.onTrig o fun x =>
      { x with highUntil := some (m1.elapsed + x.width), armed := mode == 2,
               next := if mode = 2 then nextPeriodic x.next x.period m1.time.n else x.next }
  else m

/-- R343, R344: the live MD has reached POS; with POSPER the output re-arms. -/
def trigPosition (o : Fin 8) (m : Mach) : Mach :=
  let t := m.time.trigOut.get o
  if m.g (R.TIM_TO_CTRL_MODE o) = 3 ∧ t.armed ∧ t.reached then
    m.onTrig o fun x =>
      { x with highUntil := some (m.elapsed + x.width), armed := x.posPer != 0, reached := false, pos := x.pos + x.posPer }
  else m

/-- R343, R336: the pulse ends after its width in elapsed time. -/
def trigPulseEnd (o : Fin 8) (m : Mach) : Mach :=
  match (m.time.trigOut.get o).highUntil with
  | some u => (m.runToElapsed u).onTrig o fun x => { x with highUntil := none }
  | none => m

/-- R345. -/
def ppsOut (m : Mach) : Mach :=
  if m.on R.TIM_CTRL_PPS_EN then let d := m.ppsDue; (m.runTo d).ppsFire d else m

/-- R345, R336. -/
def ppsOutEnd (m : Mach) : Mach :=
  match m.time.ppsUntil with
  | some u => (m.runToElapsed u).onTime fun t => { t with ppsUntil := none }
  | none => m

/-- R346: an accepted edge that EDGE selects enters the FIFO, or is counted as an overflow. -/
def trigIn (k : Fin 4) (rise : Bool) (m : Mach) : Mach :=
  let e := m.g (R.TIM_TI_CFG_EDGE k)
  if (e == 3) || (e == 1 && rise) || (e == 2 && !rise) then
    let stamp := m.incsAgo (m.g (R.TIM_TI_CFG_FILT k)) + m.gi (R.TIM_TI_CFG_COMP k)
    if (m.time.trigIn.get k).fifo.length < 16 then
      m.onTime fun t => { t with trigIn := vmod t.trigIn k fun x => { x with fifo := x.fifo ++ [(stamp, rise)] } }
    else (m.set1 (R.TIM_TI_STAT_OVF k)).inc R.TIM_TI_OVF
  else m

/-- R346: a read of TIM_TI_LO returns the head, latches HI and removes the entry. On an empty FIFO the value read is not
stated: a free value. -/
def trigInRead (k : Fin 4) (m : Mach) : Mach :=
  match (m.time.trigIn.get k).fifo with
  | [] => let (v, m1) := m.drawNat; m1.emit (.readValue (R.TIM_TI_LO_A k) (BitVec.ofNat 32 v))
  | (t, _) :: r =>
    let hi := BitVec.ofNat 32 (toBits 64 t / 2 ^ 32)
    let m1 := m.onTime fun u => { u with trigIn := vmod u.trigIn k fun x => { x with fifo := r, latchHi := hi } }
    (m1.wr (R.TIM_TI_HI_A k) hi).emit (.readValue (R.TIM_TI_LO_A k) (BitVec.ofNat 32 (toBits 64 t)))

end Mach

/-- TIM_SNAP (R333). -/
def execTimSnap (party : Party) (s : State) := s.act (Mach.timSnap party)
/-- STAGED_STEP_GO (R334, R335). -/
def execStagedStepGo (force atEn adj : Bool) (s : State) := s.act (Mach.stagedGo force atEn adj)
/-- STAGED_STEP_CANCEL (R334). -/
def execStagedStepCancel (s : State) := s.act Mach.stagedCancel
/-- SERVO_OFFSET_WRITE (R337). -/
def execServoOffsetWrite (hi : BitVec 32) (s : State) := s.act (Mach.servoOffset hi)
/-- SERVO_EN_WRITE (R339). -/
def execServoEnWrite (en : Bool) (s : State) := s.act (Mach.servoEn en)
/-- PPS_IN_EDGE (R337, R346). -/
def execPpsInEdge (s : State) := s.act Mach.ppsIn
/-- HOLDOVER_TIMEOUT (R339). -/
def execHoldoverTimeout (s : State) := s.act Mach.holdTimeout
/-- SLEW_END (R341). -/
def execSlewEnd (s : State) := s.act Mach.slewEnd
/-- TIM_SRV_LAST_READ (R362). -/
def execTimSrvLastRead (s : State) := s.act Mach.srvLastRead
/-- TRIG_OUT_CTRL_WRITE (R344). -/
def execTrigOutCtrlWrite (o : Fin 8) (val : BitVec 32) (s : State) := s.act (Mach.trigCtrl o val)
/-- TRIG_OUT_PULSE_START (R343). -/
def execTrigOutPulseStart (o : Fin 8) (s : State) := s.act (Mach.trigStart o)
/-- TRIG_OUT_POSITION_PULSE (R344). -/
def execTrigOutPositionPulse (o : Fin 8) (s : State) := s.act (Mach.trigPosition o)
/-- TRIG_OUT_PULSE_END (R343). -/
def execTrigOutPulseEnd (o : Fin 8) (s : State) := s.act (Mach.trigPulseEnd o)
/-- PPS_OUT_PULSE (R345). -/
def execPpsOutPulse (s : State) := s.act Mach.ppsOut
/-- PPS_OUT_PULSE_END (R345). -/
def execPpsOutPulseEnd (s : State) := s.act Mach.ppsOutEnd
/-- TRIG_IN_EDGE (R346). -/
def execTrigInEdge (k : Fin 4) (rise : Bool) (s : State) := s.act (Mach.trigIn k rise)
/-- TRIG_IN_FIFO_READ (R346). -/
def execTrigInFifoRead (k : Fin 4) (s : State) := s.act (Mach.trigInRead k)

end Sys2Proof.Machine
end

