-- ==== Sys2Proof/Machine/RegOps.lean ====
section
/-! DEFINITION. Accesses to registers: where an offset leads, switched-off blocks, and the write of one word with what each
register's own rules make of it (R9 to R11, R27, R28, R85, R115, R253, R299, R330, R389, R411, R485). -/

namespace Sys2Proof.Machine

/-! ## Where an offset leads (R27, R28, R365, R485) -/

/-- A register: its key in the register file, its block's base, its unit and element, its row. -/
structure RegPlace where
  key : Nat
  base : Nat
  unit : Nat
  elem : Nat
  row : RegRow

/-- The register at a key; none: unmapped. -/
def regPlace (key : Nat) : Option RegPlace :=
  RegMap.blocks.findSome? fun b => (b.lookup key).map fun x => { key := key, base := b.base, unit := x.2.1, elem := x.2.2, row := x.1 }

/-- The key of a word of a function's BAR0: the PF's blocks, or a VF's page; none: outside every BAR (R365). -/
def barKey (f : Fin 8) (off : Nat) : Option Nat :=
  let a := off / 4 * 4
  if f = 0 then if a < 0x1000000 then some a else none
  else if a < 0x10000 then some (0x1000000 + f.1 * 0x10000 + a) else none

/-- A VF's offset is assigned only within its own function page (R365). -/
def barPlace (f : Fin 8) (off : Nat) : Option RegPlace := (barKey f off).bind regPlace

/-- The bits of the bytes that an access addresses (R485). -/
def byteMask (be : BitVec 4) : Word :=
  (if be.getLsbD 0 then 0x000000FF#32 else 0#32) ||| (if be.getLsbD 1 then 0x0000FF00#32 else 0#32) |||
    (if be.getLsbD 2 then 0x00FF0000#32 else 0#32) ||| (if be.getLsbD 3 then 0xFF000000#32 else 0#32)

namespace Mach

/-- Blocks of the AON island, which no state switches off (R319, R362, R442). -/
def aonBlock (base : Nat) : Bool := base == 0x10000 || base == 0xB0000 || base == 0xC0000 || base == 0x40000 || base == 0x40200 || base == 0x40300

/-- A compute-die domain other than the uncore is off or in reset (R16, R325, R427, R440). -/
def dieOff (m : Mach) (d : Nat) : Bool := m.dieLost d || m.rst.compute.isSome || m.sleep.state == 2 || decide (m.rst.stage < 8)

/-- The register belongs to a block that is powered off, held off, or in reset (R16, R323, R389, R418). -/
def placeOff (m : Mach) (x : RegPlace) : Bool :=
  let s2 := m.sleep.state == 2
  let early := decide (m.rst.stage < 7)
  if aonBlock x.base then false
  else if m.rst.hold.isSome || m.sleep.state == 3 then true
  else
    match x.base with
    | 0x140000 => m.dieOff (x.unit / 4) || !(vat m.rst.dies (x.unit / 4)).feGood.getLsbD (m.pipeOf x.unit)
    | 0x148000 => m.dieOff x.unit
    | 0x180000 => m.dieOff x.unit
    | 0x180800 => m.dieOff (x.unit / 2) || !(vat m.rst.dies (x.unit / 2)).tleGood.getLsbD (x.unit % 2)
    | 0x181000 => m.dieOff (x.unit / 18) || !m.engGood x.unit
    | 0x200000 => m.dieLost x.unit
    | 0x100000 => early || (s2 && !m.portGroupOn x.unit)
    | 0x60000 => s2 && !m.on R.PWR_SLEEP_ETH_ON
    | 0x240000 => s2 && !m.on R.PWR_SLEEP_LNK_ON
    | 0x250000 => s2
    | 0x1C0000 => early
    | 0x1C1000 => early
    | 0x1C4000 => early
    | 0x1D0000 => early || s2
    | 0x1D1000 => early || s2
    | 0x1D4000 => early || s2
    | 0x1E0000 => early
    | 0x1F0000 => early
    | 0x1F0100 => early
    | _ => false

/-- An unmapped offset is accessed (R28); of a VF's BAR0 (R365). Nothing else changes. -/
def unmapped (f : Fin 8) (off : Nat) (m : Mach) : Mach :=
  let m1 := (m.set1 (R.HIF_F_STAT_UNMAPPED f)).errEvent f
  if f = 0 then
    let m2 := if m.on R.HIF_ERR_UNMAPPED then m1 else m1.put R.HIF_ERR_ADDR_OFFSET (off / 4 * 4)
    m2.set1 R.HIF_ERR_UNMAPPED
  else m1

/-- A register of a switched-off block is accessed (R389). -/
def offAccess (off : Nat) (m : Mach) : Mach :=
  let m1 := if m.on R.HIF_ERR_OFF_ACCESS then m else m.put R.HIF_ERR_BLOCK (off / 4096 % 4096)
  (m1.set1 R.HIF_ERR_OFF_ACCESS).errEvent 0

end Mach

/-! ## The write of one word -/

/-- One word's write: where, the value and the bits of the addressed bytes. -/
structure RegWr where
  at_ : RegPlace
  v : Word
  msk : Word

namespace RegWr

/-- The word's bits as written; bytes that are not addressed act as 0 (R485). -/
def hit (w : RegWr) : Nat := (w.v &&& w.msk).toNat

/-- A bit is written with 1. -/
def one (w : RegWr) (k : Nat) : Bool := (w.v &&& w.msk).getLsbD k

/-- A bit lies in an addressed byte. -/
def has (w : RegWr) (k : Nat) : Bool := w.msk.getLsbD k

/-- The word that results when unaddressed bytes keep `old`. -/
def over_ (w : RegWr) (old : Word) : Word := (old &&& ~~~w.msk) ||| (w.v &&& w.msk)

/-- Bits that a write of value sets (R9). -/
def rwMask (w : RegWr) : Word := BitVec.ofNat 32 (w.at_.row.rw ||| w.at_.row.rws)

/-- The value of the RW and RWS bits after the write, from `old`. -/
def value (w : RegWr) (old : Word) : Word := (old &&& ~~~(w.rwMask &&& w.msk)) ||| (w.v &&& w.msk &&& w.rwMask)

end RegWr

namespace Mach

/-- R9 by field type, on the bits outside `own`: RW and RWS take the value, W1C bits written with 1 clear. RO, reserved and
WO bits stay. -/
def plainWrite (own : Nat) (w : RegWr) (m : Mach) : Mach :=
  let keep := BitVec.ofNat 32 own
  let old := m.rd w.at_.key
  let mask := w.rwMask &&& w.msk &&& ~~~keep
  let clear := BitVec.ofNat 32 w.at_.row.w1c &&& w.v &&& w.msk &&& ~~~keep
  m.wr w.at_.key (((old &&& ~~~mask) ||| (w.v &&& mask)) &&& ~~~clear)

/-- A WO word that later commands use is held (R337, R358, R435); WO bits of bytes not addressed act as written with 0 (R485). -/
def holdWrite (w : RegWr) (m : Mach) : Mach := m.wr w.at_.key (w.v &&& w.msk &&& BitVec.ofNat 32 w.at_.row.wo)

/-- The value that a staged write leaves for its boundary, in place of any staged before it. -/
def stageIn (t : Tab Word) (w : RegWr) (m : Mach) : Tab Word :=
  t.put w.at_.key (w.value ((t.find w.at_.key).getD (m.rd w.at_.key)))

/-- Change a one-bit field that has an operation of its own when the write addresses it and changes it. -/
def onChange (w : RegWr) (k : Nat) (f : Fld) (op : Bool → Mach → Mach) (m : Mach) : Mach :=
  if w.has k && w.one k != m.on f then op (w.one k) m else m

/-- Run an operation when the write puts 1 on a bit. -/
def onOne (w : RegWr) (k : Nat) (op : Mach → Mach) (m : Mach) : Mach := if w.one k then op m else m

/-! ### Sensor ports (R62, R63, R71, R83, R85) -/

/-- A setting of a port (R85): one of the fixed ones is not written while EN = 1; any other write takes effect at the next packet
header, or at once while the port receives nothing. -/
def ingSetting (p : Fin 16) (fixed : Bool) (w : RegWr) (m : Mach) : Mach :=
  if fixed && m.on (R.ING_CTRL_EN p) then m.set1 (R.ING_STAT_CFG_WR p)
  else
    let m1 := (m.keepSetting p w.at_.key).plainWrite 0 w
    if (m.port.get p).running then m1 else m1.evalFc p

/-- ING_CTRL acts at once; of the settings, ING_ROI is taken with each packet's header (log 76). -/
def ingWrite (w : RegWr) (m : Mach) : Mach :=
  let p : Fin 16 := Fin.ofNat 16 w.at_.unit
  match w.at_.row.off with
  | 0x000 =>
    let m1 := (m.plainWrite 1 w).onOne w 1 (Mach.flushAsk p)
    let m2 := if m1.on (R.ING_CTRL_SYNC_EN p) then m1 else m1.fitOff p
    if !w.has 0 then m2
    else if !w.one 0 then if m2.on (R.ING_CTRL_EN p) then m2.disablePort p else m2
    else if !m.on (R.ING_CTRL_EN p) && (m2.enableReject p).isSome then m.set1 (R.ING_STAT_EN_ERR p)
    else m2.ctrlEn p
  | 0x00C => m.ingSetting p true w
  | 0x010 => m.ingSetting p true w
  | 0x014 => m.ingSetting p true w
  | 0x01C => m.ingSetting p true w
  | 0x020 => m.ingSetting p false w
  | 0x024 => m.ingSetting p false w
  | 0x028 => m.ingSetting p false w
  | 0x02C => m.ingSetting p false w
  | 0x030 => m.ingSetting p false w
  | 0x034 => m.ingSetting p false w
  | 0x304 =>
    let n := (w.over_ (m.rd w.at_.key)).toNat
    if w.one 31 then m.sciGo p .host (bitsN n 22 16) (bitsN n 13 8) (bitsN n 5 0)
    else if m.on (R.ING_SCI_CFG_OWNER p) then m.set1 (R.ING_SCI_STAT_OWN_ERR p)
    else m.plainWrite 0 w
  | 0x320 => if m.on (R.ING_SCI_CFG_OWNER p) then m.set1 (R.ING_SCI_STAT_OWN_ERR p) else m.plainWrite 0 w
  | _ => m.plainWrite 0 w

/-- A field map that an enabled port selects is not written (R85). -/
def fmapWrite (w : RegWr) (m : Mach) : Mach :=
  if m.mapInUse w.at_.unit then (m.set1 R.FMAP_G_STAT_IN_USE_WR).put R.FMAP_G_STAT_LAST_MAP w.at_.unit else m.plainWrite 0 w

/-! ### Front ends (R97, R98, R115) -/

/-- Writes of a port's page wait for the boundary, but for LEARN, HOT_APPLY and the W1C bits. -/
def feWrite (w : RegWr) (m : Mach) : Mach :=
  let p : Fin 16 := Fin.ofNat 16 w.at_.unit
  let stage := fun (t : Mach) => t.onFe p fun x => { x with staged := m.stageIn x.staged w }
  match w.at_.row.off with
  | 0x000 => ((stage m).onOne w 5 (Mach.learnAsk p)).onOne w 4 (Mach.hotAsk p)
  | 0x004 => m.plainWrite 0 w
  | _ => if w.at_.row.rw = 0 then m else stage m

/-- FE_PIPE and FE_BANKS of a die (R115). -/
def feDieWrite (w : RegWr) (m : Mach) : Mach :=
  let busy := (List.range 4).any fun k => m.on (R.ING_CTRL_EN (4 * w.at_.unit + k))
  if w.at_.row.off = 0x020 then m.plainWrite 0 w
  else if busy then m.set1 (R.FE_D_DSTAT_CFG_WR w.at_.unit)
  else m.plainWrite 0 w

/-! ### Motion inputs (R197, R203, R207, R213) -/

def encWrite (w : RegWr) (m : Mach) : Mach :=
  let n : Fin 4 := Fin.ofNat 4 w.at_.unit
  if w.at_.row.off = 0 then
    let m1 := (m.plainWrite 1 w).onChange w 0 (R.MOT_ENC_CTRL_EN n) (Mach.encEn n)
    (m1.onOne w 4 fun t => t.onEnc n fun x => { x with pendRebase := true }).onOne w 5 fun t =>
      t.onEnc n fun x => { x with pendRescale := true }
  else m.plainWrite 0 w

def imuWrite (w : RegWr) (m : Mach) : Mach :=
  let i : Fin 4 := Fin.ofNat 4 w.at_.unit
  let fixed := w.at_.row.off == 0x004 || w.at_.row.off == 0x008 || w.at_.row.off == 0x014
  if w.at_.row.off = 0 then (m.plainWrite 1 w).onChange w 0 (R.MOT_IMU_CTRL_EN i) (Mach.imuEn i)
  else if fixed && m.on (R.MOT_IMU_CTRL_EN i) then m.set1 (R.MOT_IMU_STAT_CFG_WR i)
  else m.plainWrite 0 w

/-! ### Fusion, reports and actions (R253, R299) -/

def fusWrite (w : RegWr) (m : Mach) : Mach :=
  if w.at_.row.rw = 0 then m.plainWrite 0 w else m.onFus fun u => { u with staged := m.stageIn u.staged w }

def actWrite (w : RegWr) (m : Mach) : Mach :=
  if w.at_.row.off = 0 then (m.plainWrite 1 w).onChange w 0 R.ACT_CTRL_EN Mach.actEn else m.plainWrite 0 w

/-- A write that takes the store out of use lets the records go that waited for it only (R273). -/
def jnlWrite (w : RegWr) (m : Mach) : Mach := if w.at_.row.off = 0 then (m.plainWrite 0 w).freeSlots else m.plainWrite 0 w

def jnlFnWrite (w : RegWr) (m : Mach) : Mach :=
  if w.at_.row.rw = 0 then m else m.onJnl fun j => { j with staged := m.stageIn j.staged w }

/-! ### Energy and clocks (R318, R326, R330) -/

def pwrWrite (w : RegWr) (m : Mach) : Mach :=
  let o := w.at_.row.off
  if o = 0x000 ∨ o = 0x00C ∨ o = 0x010 ∨ o = 0x014 ∨ (0x020 ≤ o ∧ o ≤ 0x038) then
    m.onLed fun l => { l with staged := m.stageIn l.staged w }
  else if o = 0x300 then (m.plainWrite 0 w).onOne w 2 Mach.goS3
  else m.plainWrite 0 w

def clkDieWrite (w : RegWr) (m : Mach) : Mach :=
  if w.at_.row.off = 0 then m.clkManual (Fin.ofNat 4 w.at_.unit) (w.over_ (m.rd w.at_.key)) else m.plainWrite 0 w

/-! ### Station time, PTP, Ethernet, RRT (R333 to R344, R350, R351, R360) -/

def timWrite (w : RegWr) (m : Mach) : Mach :=
  match w.at_.row.off with
  | 0x000 => (m.plainWrite 0 w).onOne w 0 (Mach.timSnap .host)
  | 0x040 =>
    let m1 := (m.plainWrite 0 w).onOne w 30 Mach.stagedCancel
    m1.onOne w 31 fun t => t.stagedGo (t.on R.TIM_STG_CTRL_FORCE) (t.on R.TIM_STG_CTRL_AT_EN) (t.on R.TIM_STG_CTRL_MODE)
  | 0x080 => (m.plainWrite 32 w).onChange w 5 R.TIM_SRV_CFG_EN Mach.servoEn
  | 0x0A0 => if m.g R.TIM_SRV_CFG_SRC = 0 then m.holdWrite w else m.set1 R.TIM_STAT_SAMPLE_LOST
  | 0x0A4 => m.servoOffset (w.v &&& w.msk)
  | _ => m.plainWrite 0 w

def trigWrite (w : RegWr) (m : Mach) : Mach :=
  if w.at_.row.off = 0 then
    m.trigCtrl (Fin.ofNat 8 w.at_.unit) ((w.over_ (m.rd w.at_.key) &&& 0x7FFFFFFF#32) ||| (w.v &&& w.msk &&& 0x80000000#32))
  else m.plainWrite 0 w

def ptpWrite (w : RegWr) (m : Mach) : Mach :=
  match w.at_.row.off with
  | 0x000 =>
    let m1 := m.plainWrite 0 w
    if w.has 2 then m1.onNet fun n => { n with ptpMgt := w.one 2, pcieDown := false } else m1
  | 0x010 => m.ptpTxGo .host (w.over_ (m.rd w.at_.key) &&& (0x7FFFFFFF#32 ||| (w.v &&& w.msk)))
  | 0x034 => m.onOne w 0 (Mach.ptpPop .host)
  | _ => m.plainWrite 0 w

def ethWrite (w : RegWr) (m : Mach) : Mach :=
  let p : Fin 2 := Fin.ofNat 2 w.at_.unit
  let m1 := m.plainWrite 0 w
  if w.at_.row.off = 0 ∧ !m1.on (R.ETH_CTRL_EN p) then m1.ethLink p false else m1

/-- While EN = 1 only EN is written. -/
def rrtDestWrite (w : RegWr) (m : Mach) : Mach :=
  let d : Fin 8 := Fin.ofNat 8 w.at_.unit
  let was := m.on (R.RRT_D_CTRL_EN d)
  let m1 := if was then m else m.plainWrite 0x80000000 w
  if w.at_.row.off = 0 ∧ w.has 31 then
    if was && !w.one 31 then m1.destDisable d else if !was && w.one 31 then m1.destEnable d else m1
  else m1

def rrtWrite (w : RegWr) (m : Mach) : Mach := if w.at_.row.wo ≠ 0 then m.holdWrite w else m.plainWrite 0 w

/-! ### Host interface (R370, R371) -/

/-- RING_CFG: with KEEP = 1 an enable looks at the host's slot, whose content this command does not carry: free values. -/
def hifFnWrite (f : Fin 8) (w : RegWr) (m : Mach) : Mach :=
  if w.at_.row.off = 0x108 ∧ w.at_.row.st = 0x20 then
    let r : Fin 7 := Fin.ofNat 7 w.at_.elem
    if m.ringEn f r then if w.has 31 && !w.one 31 then (m.plainWrite 0x80000000 w).ringDisable f r else m
    else if w.one 31 then
      let n := (w.over_ (m.rd w.at_.key)).toNat
      let keep := bitN n 30
      let (c, m1) := if keep then m.drawNat else (0, m)
      let (ph, m2) := if keep then m1.drawNat else (0, m1)
      let (typ, m3) := if keep then m2.drawNat else (0, m2)
      m3.ringEnable f r { keep := keep, sz := bitsN n 4 0, slot := { typ := typ % 256, rsn := c, phase := ph % 2 == 1 } }
    else m.plainWrite 0x80000000 w
  else m.plainWrite 0 w

/-! ### Engines, memory, links, store, management, reset -/

def engDieWrite (w : RegWr) (m : Mach) : Mach :=
  if w.at_.row.off = 0x004 then (m.plainWrite 4 w).onOne w 2 (Mach.tripClear (Fin.ofNat 4 w.at_.unit)) else m.plainWrite 0 w

def engWrite (w : RegWr) (m : Mach) : Mach :=
  if w.at_.row.off = 0 then m.onOne w 0 (Mach.engSrst (Fin.ofNat 72 w.at_.unit)) else m.plainWrite 0 w

def memWrite (w : RegWr) (m : Mach) : Mach :=
  if w.at_.row.off = 0 then m.memReg (Fin.ofNat 4 w.at_.unit) (Fin.ofNat 16 w.at_.elem) (w.value (m.rd w.at_.key)) else m.plainWrite 0 w

/-- LNK_CTRL at once, the others at the next TT instant; W1C bits at once. -/
def lnkWrite (w : RegWr) (m : Mach) : Mach :=
  let l : Fin 4 := Fin.ofNat 4 w.at_.unit
  match w.at_.row.off with
  | 0x000 => ((m.plainWrite 1 w).onChange w 0 (R.LNK_CTRL_EN l) (Mach.linkEnable l)).onOne w 1 (Mach.retrain l)
  | 0x004 => m.plainWrite 0 w
  | _ => if w.at_.row.rw = 0 then m else m.onLink l fun x => { x with staged := m.stageIn x.staged w }

def nvsWrite (w : RegWr) (m : Mach) : Mach :=
  if w.at_.row.off = 0 then (m.plainWrite 0 w).onOne w 1 Mach.storeInit else m.plainWrite 0 w

def rstWrite (w : RegWr) (m : Mach) : Mach :=
  match w.at_.row.off with
  | 0x000 => m.onOne w 1 Mach.computeStart
  | 0x030 =>
    let m1 := m.plainWrite 0 w
    m1.onOne w 31 fun t => t.blockGo (t.g R.RST_BLK_KIND) (t.g R.RST_BLK_UNIT)
  | _ => m.plainWrite 0 w

def sbiWrite (w : RegWr) (m : Mach) : Mach := if w.at_.row.wo ≠ 0 then m.holdWrite w else m.plainWrite 0 w

def secWrite (w : RegWr) (m : Mach) : Mach := if w.at_.row.off = 0x010 then m.onOne w 0 Mach.secRelock else m.plainWrite 0 w

def mgtWrite (w : RegWr) (m : Mach) : Mach := if w.at_.row.off = 0x040 then m.onOne w 0 Mach.mailboxGo else m.plainWrite 0 w

/-- GLB_BOOT_GO.GO (R423, R442): whether the image that waits verifies is not the write's to say, a free choice. -/
def glbWrite (w : RegWr) (m : Mach) : Mach :=
  if w.at_.row.off = 0x02C then m.onOne w 0 fun t => let (v, u) := t.drawNat; u.bootGo (v % 2 == 1) else m.plainWrite 0 w

def iocWrite (w : RegWr) (m : Mach) : Mach :=
  if w.at_.row.off = 0x004 then m.releasePads (BitVec.ofNat 5 w.hit) else m.plainWrite 0 w

/-! ## A write of one word -/

/-- What the register's own rules make of a write. -/
def writeIn (w : RegWr) (m : Mach) : Mach :=
  match w.at_.base with
  | 0x000000 => m.glbWrite w
  | 0x010000 => m.rstWrite w
  | 0x020000 => m.pwrWrite w
  | 0x030000 => if w.at_.row.off < 0x100 then m.clkDieWrite w else m.plainWrite 0 w
  | 0x040000 => m.timWrite w
  | 0x040200 => m.trigWrite w
  | 0x050000 => m.ptpWrite w
  | 0x060000 => m.ethWrite w
  | 0x064000 => m.rrtWrite w
  | 0x064200 => m.rrtDestWrite w
  | 0x081000 => m.hifFnWrite 0 w
  | 0x1010000 => m.hifFnWrite (Fin.ofNat 8 (w.at_.unit + 1)) w
  | 0x090000 => m.secWrite w
  | 0x0A0000 => m.mgtWrite w
  | 0x0B0000 => m.iocWrite w
  | 0x0C0000 => m.sbiWrite w
  | 0x100000 => m.ingWrite w
  | 0x120000 => m.fmapWrite w
  | 0x140000 => m.feWrite w
  | 0x148000 => m.feDieWrite w
  | 0x180000 => m.engDieWrite w
  | 0x181000 => m.engWrite w
  | 0x1C0000 => m.encWrite w
  | 0x1C1000 => m.imuWrite w
  | 0x1D0000 => m.fusWrite w
  | 0x1D1000 => m.fusWrite w
  | 0x1D112C => m.fusWrite w
  | 0x1D1800 => m.fusWrite w
  | 0x1D4000 => m.fusWrite w
  | 0x1E0000 => m.actWrite w
  | 0x1F0000 => m.jnlWrite w
  | 0x1F0100 => m.jnlFnWrite w
  | 0x200000 => m.memWrite w
  | 0x240000 => m.lnkWrite w
  | 0x250000 => m.nvsWrite w
  | _ => m.plainWrite 0 w

/-- A write of one word of a function's BAR0 (R9, R28, R365, R389, R485). -/
def registerWrite (f : Fin 8) (off : Nat) (val : Word) (be : BitVec 4) (m : Mach) : Mach :=
  match barKey f off with
  | none => m
  | some key =>
    match regPlace key with
    | none => if be = 0 then m else m.unmapped f off
    | some x =>
      if be = 0 then m
      else if m.placeOff x then m.offAccess off
      else m.writeIn { at_ := x, v := val, msk := byteMask be } 

/-- UNMAPPED_ACCESS: the offset is unmapped for the function; a read returns 0 (R28, R365). -/
def unmappedAccess (f : Fin 8) (off : Nat) (write : Bool) (m : Mach) : Mach :=
  match barKey f off with
  | none => m
  | some key =>
    match regPlace key with
    | some _ => m
    | none => let m1 := m.unmapped f off; if write then m1 else m1.emit (.readValue key 0)

/-- OFF_BLOCK_ACCESS: the register's block is switched off; a read returns 0x0FF0_DEAD (R389). -/
def offBlockAccess (off : Nat) (write : Bool) (m : Mach) : Mach :=
  match barPlace 0 off with
  | none => m
  | some x =>
    if m.placeOff x then
      let m1 := m.offAccess off
      if write then m1 else m1.emit (.readValue x.key 0x0FF0DEAD#32)
    else m

/-! ## PORT_CONFIG WRITES (R85, R380) -/

/-- The register that an offset of the port's windows names. -/
def portPlace (m : Mach) (f : Fin 8) (p : Fin 16) (off : Nat) : Option RegPlace :=
  if off % 4 ≠ 0 then none
  else if off < 0x1000 then regPlace (0x100000 + p.1 * 0x1000 + off)
  else if off < 0x2000 then regPlace (0x140000 + p.1 / 4 * 0x10000 + p.1 % 4 * 0x2000 + (off - 0x1000))
  else if off < 0x2100 then regPlace (0x1D4000 + p.1 * 0x100 + (off - 0x2000))
  else if 0x3000 ≤ off ∧ off < 0x3800 then
    if vat m.own.fmap ((off - 0x3000) / 0x100) = f then regPlace (0x120000 + (off - 0x3000)) else none
  else none

/-- Why a pair is rejected, on the machine that the pairs before it leave. -/
def pairJudge (m : Mach) (p : Fin 16) (x : RegPlace) (v : Word) : Option Nat :=
  let r := x.row
  let ing := x.base == 0x100000
  if r.rw = 0 ∧ r.rws = 0 ∧ r.w1c = 0 ∧ r.w1s = 0 ∧ r.wo = 0 then some St.format
  else if ing && r.off == 0x300 && v.getLsbD 8 != m.on (R.ING_SCI_CFG_OWNER p) then some St.format
  else if ing && r.off == 0x01C && !geomOk (bitsN v.toNat 12 0) (bitsN v.toNat 28 16) then some St.format
  else if ing && (r.off == 0x00C || r.off == 0x010 || r.off == 0x014 || r.off == 0x01C) && m.on (R.ING_CTRL_EN p) then some St.state
  else if x.base == 0x120000 && m.mapInUse x.unit then some St.state
  else if ing && r.off == 0 && v.getLsbD 0 && !m.on (R.ING_CTRL_EN p) then
    let t := m.plainWrite 1 { at_ := x, v := v, msk := 0xFFFFFFFF#32 }
    if (t.enableReject p).isSome then some St.state else none
  else none

/-- The pairs in order, as register writes, or the first rejection. -/
def applyPairs (f : Fin 8) (p : Fin 16) : List (Nat × Word) → Mach → Except Nat Mach
  | [], m => .ok m
  | (off, v) :: rest, m =>
    match m.portPlace f p off with
    | none => .error St.format
    | some x =>
      match m.pairJudge p x v with
      | some c => .error c
      | none => applyPairs f p rest (m.writeIn { at_ := x, v := v, msk := 0xFFFFFFFF#32 })

/-- The outcome of the whole list: none where all its pairs apply. -/
def pairsReject (f : Fin 8) (p : Fin 16) (count : Nat) (pairs : List (Nat × Word)) (m : Mach) : Option Nat :=
  if 1024 < count then some St.format
  else match applyPairs f p (pairs.take count) m with | .error c => some c | .ok _ => none

/-- PORT_CONFIG WRITES. -/
def portWrites (h : CmdHdr) (p : Fin 16) (count : Nat) (pairs : List (Nat × Word)) (m : Mach) : Mach :=
  m.command h 0x20 false (fun t => (t.portJudge h.fn p).or (t.pairsReject h.fn p count pairs))
    (fun _ t => { m := match applyPairs h.fn p (pairs.take count) t with | .ok u => u | .error _ => t })

end Mach

end Sys2Proof.Machine
end

