-- ==== Sys2Proof/Machine/RegCmds.lean ====
section
/-! DEFINITION. Meanings of register writes and of accesses that reach no register (R9, R28, R380, R389). -/

namespace Sys2Proof.Machine

/-- REGISTER_WRITE (R9). -/
def execRegisterWrite (f : Fin 8) (off : Nat) (val : BitVec 32) (be : BitVec 4) (s : State) := s.act (Mach.registerWrite f off val be)
/-- UNMAPPED_ACCESS (R28). -/
def execUnmappedAccess (f : Fin 8) (off : Nat) (write : Bool) (s : State) := s.act (Mach.unmappedAccess f off write)
/-- OFF_BLOCK_ACCESS (R389). -/
def execOffBlockAccess (off : Nat) (write : Bool) (s : State) := s.act (Mach.offBlockAccess off write)
/-- PORT_CONFIG_WRITES (R380). -/
def execPortConfigWrites (h : CmdHdr) (p : Fin 16) (count : Nat) (pairs : List (Nat × BitVec 32)) (s : State) :=
  s.act (Mach.portWrites h p count pairs)

end Sys2Proof.Machine
end

