-- ==== Sys2Proof/Machine/Spiking.lean ====
section
/-! DEFINITION. Meanings of the spiking commands (R163 to R168). -/

namespace Sys2Proof.Machine

namespace Mach

/-- R164, R167: the next phase of a function's admitted population tick runs once every message of the last one is gone and every web
position that it needs is answered (R204). A failing line of a list abandons the tick (R449). -/
def popPhase (f : Fin 8) (m : Mach) : Mach :=
  match (m.fn.get f).popTick with
  | none => m
  | some t =>
    let m0 := m.settleFn f t.tn
    if m.spikes.any (·.fn == f) || m.popsLoading f t.tn || m0.marksWait f t.tn t.phase then m
    else
      let m1 := m0.runPhase f t.tn t.phase
      if m1.ueCount ≠ m.ueCount then m1.abandonPop f t.tn (t.phase + 1)
      else if 15 ≤ t.phase then m1.endPopTick f t.tn
      else m1.onFn f fun x => { x with popTick := some { t with phase := t.phase + 1 } }

end Mach

/-- POPULATION_PHASE (R164). -/
def execPopulationPhase (f : Fin 8) (s : State) := s.act (Mach.popPhase f)
/-- SPIKE_MESSAGE (R165). -/
def execSpikeMessage (f : Fin 8) (s : State) := s.act (Mach.spikeMessage f)
end Sys2Proof.Machine
end

