-- ==== Sys2Proof/Machine/LedgerOps.lean ====
section
/-! DEFINITION. The ledger's window at a tick boundary and the levels that move there (R141, R300 to R318). -/

namespace Sys2Proof.Machine

namespace Mach

/-! ## Closing a window (R309, R310, R314) -/

/-- The new K of one group (R310, R312). The estimator's energy is not given: a free value. -/
def updateK (g : Fin 6) (m : Mach) : Mach :=
  let raw := m.led.raw.get g
  if raw ≤ 0 then m
  else
    let (est, m1) := m.drawNat
    let k : Int := m1.g (R.PWR_R_K_K g)
    let (t, m2) := m1.clampK 13107 26214 (rnd (16384 * (m1.g (R.PWR_R_K_G g) : Int) * est) (16384 * raw))
    m2.put (R.PWR_R_K_K g) (k + ((t : Int) - k).fdiv (2 ^ min (m2.g R.PWR_CTRL_K_SHIFT) 8)).toNat

/-- A G that waits takes effect (R311). -/
def applyG (g : Fin 6) (m : Mach) : Mach :=
  match m.led.gNext.get g with
  | some v => (m.put (R.PWR_R_K_G g) v).onLed fun l => { l with gNext := vput l.gNext g none }
  | none => m

/-- The dies that run. -/
def liveDies (m : Mach) : List (Fin 4) := (List.finRange 4).filter fun d => !m.dieLost d.1

/-- Rank of a die's ledger level: with its edge variant in force it counts as below the same level without (R314). -/
def ledgerRank (m : Mach) (d : Fin 4) : Nat := let l := m.lvl.get d; 2 * l.ledger + (!l.edge).toNat

/-- Every die with the highest ledger level drops one (R314). -/
def ledgerDown (m : Mach) : Mach :=
  let top := (m.liveDies.map m.ledgerRank).foldl max 0
  forEach (m.liveDies.filter fun d => m.ledgerRank d == top && (m.lvl.get d).ledger != 0)
    (fun d t => (t.onLvl d fun l => { l with ledger := l.ledger - 1 }).inc R.PWR_STEP_DOWN) m

/-- Every die with the lowest ledger level rises one, if its other limits allow (R314). -/
def ledgerUp (m : Mach) : Mach :=
  let low := (m.liveDies.map m.ledgerRank).foldl min 15
  forEach (m.liveDies.filter fun d => m.ledgerRank d == low && decide ((m.lvl.get d).ledger < m.levelCeiling d))
    (fun d t => (t.onLvl d fun l => { l with ledger := l.ledger + 1 }).inc R.PWR_STEP_UP) m

/-- A window closes: over budget or not, and the ledger levels that follow (R309, R314). -/
def judgeWindow (m : Mach) : Mach :=
  let broke := m.on R.PWR_CTRL_LEDGER_EN && decide (m.led.bal < 0)
  let run := if broke then m.led.overRun + 1 else 0
  let good := if decide ((m.g R.PWR_CTRL_UP_FRAC : Int) * m.led.eTick ≤ 256 * m.led.bal) then m.led.goodRun + 1 else 0
  let m1 := m.onLed fun l => { l with overRun := run, overNow := broke, goodRun := good }
  let m2 := if broke then m1.inc R.PWR_OVER_WIN else m1
  let m3 := if 3 ≤ run then
      (m2.onLed fun l => { l with overRun := 0 }).ledgerDown.health H.ledgerOver .package []
    else m2
  if m3.on R.PWR_CTRL_LEDGER_EN && decide (atLeast1 (m3.g R.PWR_UPT) ≤ good) then
    (m3.onLed fun l => { l with goodRun := 0 }).ledgerUp
  else m3

/-! ## Opening a window (R300, R301, R304) -/

/-- E_fixed in nJ (R301). -/
def eFixed (m : Mach) : Int :=
  rnd ((m.g R.PWR_PFIX : Int) * m.tick.period * m.tfOf (m.hottest (List.range 24)) * m.g (R.PWR_R_K_K 4)) (2 ^ 30)

/-- The temperature factor of each rail group (R304). -/
def tfGroups (m : Mach) : Vector Nat 6 :=
  Vector.ofFn fun (g : Fin 6) => if g = 5 then 65536 else m.tfOf (m.hottest (sensorsOf g.1))

/-- A window opens with E_tick, and the reserves are what their items spent in the window before (R300, R306). -/
def openWindow (m : Mach) : Mach :=
  let e : Int := (m.g R.PWR_CAP : Int) * m.tick.period - m.eFixed
  m.onLed fun l =>
    { l with bal := e, prevETick := l.eTick, eTick := e, r1 := l.s1, r2 := l.s2, r4 := l.s4, s1 := 0, s2 := 0, s4 := 0,
             tf := m.tfGroups, raw := Vector.replicate 6 0 }

/-! ## Levels at a boundary (R141, R314 to R317) -/

/-- What every boundary brings to a die, run or not: the limit of R315 takes effect, and the hold after an edge trip starts or
counts down; EDGE_HOLD = 0 acts as 1 (R141, R144). -/
def holdAt (d : Fin 4) (m : Mach) : Mach :=
  m.onLvl d fun l =>
    { l with limit := l.limitNext.getD l.limit, limitNext := none, emerg := false, trip := none,
             holdLeft := if l.trip.isSome then atLeast1 (m.g (R.ENG_D_DCTRL_EDGE_HOLD d)) else l.holdLeft - 1 }

/-- One die at boundary k. After an edge trip it goes to the non-edge variant of its former level; after another emergency the
voltage goes down to the level whose frequency runs; else it moves to its level (R141, R314, R317). A die in manual mode stays while
R318 permits that mode and, at an edge level, R139 does; else R194 and R139 prevail (DEDUCED, log 53). -/
def levelAt (k : Nat) (d : Fin 4) (m : Mach) : Mach :=
  let l0 := m.lvl.get d
  let m1 := m.holdAt d
  if m1.dieLost d.1 then m1
  else if m1.on (R.CLK_D_CTRL_MAN_EN d) && m1.manualOk d then if m1.edgeElig d l0.volt k then m1 else m1.leaveEdge d
  else
    match l0.emerg, l0.trip with
    | true, some l => m1.changeLevel d (min l (m1.levelOf d)) false
    | true, none => m1.changeLevel d (min l0.freq (m1.levelOf d)) false
    | false, _ => let l := m1.levelOf d; m1.changeLevel d l (m1.edgeAllowed d l k)

/-- The staged PWR writes of R330 take effect. -/
def applyStagedPwr (m : Mach) : Mach :=
  forEach m.led.staged (fun (e : Nat × Word) t => t.wr e.1 e.2) (m.onLed fun l => { l with staged := [] })

/-- The ledger levels of the four dies, put as given. -/
def putLedger (v : Vector Nat 4) (m : Mach) : Mach :=
  { m with lvl := Vector.ofFn fun (d : Fin 4) => { (m.lvl.get d) with ledger := v.get d } }

/-- The whole of a boundary's energy work: K, the ledger's judgement, the staged settings, the levels, the new window. A
change of the ledger level acts on a die at the boundary after (R47), so the levels still see the old one. -/
def ledgerBoundary (k : Nat) (m : Mach) : Mach :=
  let m1 := forEach (List.finRange 6) (fun g t => (t.updateK g).applyG g) m
  let old := m1.lvl.map fun (l : DieLevel) => l.ledger
  let m2 := m1.judgeWindow.applyStagedPwr
  let new := m2.lvl.map fun (l : DieLevel) => l.ledger
  ((forEach (List.finRange 4) (fun d t => t.levelAt k d) (m2.putLedger old)).putLedger new).openWindow

end Mach

end Sys2Proof.Machine
end

