-- ==== Sys2Proof/Machine/TickOps.lean ====
section
/-! DEFINITION. A tick begins: what closes with the tick before it, the changes that waited, the staged settings
(R31, R43 to R53). -/

namespace Sys2Proof.Machine

namespace Mach

/-! ## Changes that waited (R43 to R50, R53) -/

/-- Image changes (R187 to R189). -/
def applyGraphChange (k : Nat) (p : Pending) (m : Mach) : Mach :=
  match p.change with
  | .loadGraph slot r => (m.activate slot r k).donePending p 0
  | .unloadGraph slot =>
    { m with images := m.images.map fun (s : Nat × Image) =>
        if s.1 = slot then (s.1, { s.2 with activeTo := some k, unloadOwed := some (p.ctag, p.cseq) }) else s }
  | _ => m

/-- A role map comes into force; its DONE waits for the loads (R193, R379). -/
def applyMapChange (k : Nat) (p : Pending) (m : Mach) : Mach :=
  match p.change with
  | .mapRoles epoch binds =>
    m.onFn p.fn fun x => { x with roles := x.roles.push { epoch := epoch, binds := binds } k, mapOwed := x.mapOwed ++ [(p.ctag, p.cseq)] }
  | _ => m

/-- A homography is installed with its record (R218, R264). -/
def installHom (k : Nat) (p : Fin 16) (h : Hom) (tnEff : Nat) (dCd dMd : Int) (pairs : Nat) (m : Mach) : Mach :=
  let old := (m.fus.homs.get p).cur
  let m1 := m.onFus fun u => { u with homs := vmod u.homs p fun v => v.push h k }
  m1.write' (m1.own.port.get p) (.calib tnEff p.1 h.online (bitN (m1.g R.FUS_CAL_LOCK) p.1) h.version old.version dCd dMd pairs) 0

/-- The on-line corrections that wait for a port, and those that the sums already taken will give, are discarded (R251). -/
def dropInstalls (p : Nat) (m : Mach) : Mach :=
  let n := (m.fus.installs.filter fun i => i.port == p).length
  (m.onFus fun u =>
    { u with installs := u.installs.filter fun i => i.port != p,
             calStale := if u.solving.isSome then p :: u.calStale.erase p else u.calStale,
             waitStale := if u.waiting.isSome then p :: u.waitStale.erase p else u.waitStale }).addTo R.FUS_CAL_REJECT n

/-- The sums of a port's overlap entries start again (R251). -/
def dropSums (p : Nat) (m : Mach) : Mach :=
  let names := fun (i : Fin 16) =>
    m.g (R.FUS_OVL_CFG_PORT_A i) == p || (m.g (R.FUS_OVL_CFG_PORT_B i) == p && !m.on (R.FUS_OVL_CFG_LINK i))
  m.onFus fun u => { u with sums := Vector.ofFn fun (i : Fin 16) => if names i then {} else u.sums.get i }

/-- Calibrations of a command (R218, R251). -/
def applyCalChange (k : Nat) (p : Pending) (m : Mach) : Mach :=
  match p.change with
  | .calibSet homs =>
    (forEach homs (fun (h : Nat × Hom) t =>
      (((t.dropInstalls h.1).dropSums h.1).installHom k (Fin.ofNat 16 h.1) { h.2 with online := false } p.tnEff 0 0 0)) m).donePending p 0
  | .calibLock mask lock =>
    (forEach (maskBits mask 16) (fun (q : Nat) t =>
      let now := t.g R.FUS_CAL_LOCK
      let bit := 2 ^ q
      (t.dropInstalls q).put R.FUS_CAL_LOCK (if bitN now q = lock then now else if lock then now + bit else now - bit)) m).donePending p 0
  | _ => m

/-- An entry in the 64-bit format: the result of a sum outside it is not stated, a free value. -/
def fit64 (v : Int) (m : Mach) : Int × Mach :=
  if v = toSigned 64 (toBits 64 v) then (v, m) else let (x, t) := m.drawInt; (toSigned 64 (toBits 64 x), t)

/-- An on-line correction is installed (R250). -/
def installOnline (k : Nat) (i : CalInst) (m : Mach) : Mach :=
  let p : Fin 16 := Fin.ofNat 16 i.port
  let h := (m.fus.homs.get p).cur
  let raw := (List.range 9).map fun j =>
    if j < 3 then h.at_ j + i.dCd * h.at_ (6 + j) else if j < 6 then h.at_ j - i.dMd * h.at_ (3 + j) else h.at_ j
  let (es, m1) := raw.foldl (fun (s : List Int × Mach) v => let (x, t) := s.2.fit64 v; (s.1 ++ [x], t)) ([], m)
  (m1.installHom k p { h := es, version := (h.version + 1) % 65536, online := true } i.tnEff i.dCd i.dMd i.pairs).inc R.FUS_CAL_INSTALL

/-- The on-line corrections that fall due (R250). -/
def installsDue (k : Nat) (m : Mach) : Mach :=
  let due := m.fus.installs.filter fun i => decide (i.tnEff ≤ k)
  forEach due (fun i t => t.installOnline k i) (m.onFus fun u => { u with installs := u.installs.filter fun i => !decide (i.tnEff ≤ k) })

/-- A rule table change (R293). -/
def applyRuleChange (k : Nat) (p : Pending) (m : Mach) : Mach :=
  match p.change with
  | .ruleSet first rules =>
    let change := fun (l : List Rule) => l.take first ++ rules ++ l.drop (first + rules.length)
    (m.onJnl fun j => { j with rules := vmod j.rules p.fn fun v => v.push (change v.cur) k }).donePending p 0
  | _ => m

/-- The quality knob (R142). -/
def applyQualityChange (k : Nat) (p : Pending) (m : Mach) : Mach :=
  match p.change with
  | .quality q => (m.onFn p.fn fun x => { x with quality := x.quality.push q k }).donePending p 0
  | _ => m

/-- The due changes of one kind, in ascending function number (R46). -/
def eachDue (due : List Pending) (kind : Nat) (f : Pending → Mach → Mach) (m : Mach) : Mach :=
  forEach (List.finRange 8) (fun (n : Fin 8) t => forEach (due.filter fun p => p.fn == n && changeKind p.change == kind) f t) m

/-- The changes other than the tick period that fall due at tick k, in the order of R46. -/
def applyDue (k : Nat) (m : Mach) : Mach :=
  let isDue := fun (p : Pending) => decide (p.tnEff ≤ k) && changeKind p.change != 0
  let due := m.tick.pending.filter isDue
  let m1 := m.onTick fun t => { t with pending := t.pending.filter fun p => !isDue p }
  let m2 := (m1.eachDue due 1 (applyGraphChange k)).eachDue due 2 (applyMapChange k)
  let m3 := (m2.eachDue due 3 (applyCalChange k)).installsDue k
  (m3.eachDue due 4 (applyRuleChange k)).eachDue due 5 (applyQualityChange k)

/-- A tick-period CHANGE that falls due at tick k or before it takes effect with the values of R49 (R49, R53). -/
def applyPeriod (k : Nat) (m : Mach) : Mach :=
  let isDue := fun (p : Pending) => match p.change with | .tickChange _ => decide (p.tnEff ≤ k) | _ => false
  let due := m.tick.pending.filter isDue
  let m1 := m.onTick fun t => { t with pending := t.pending.filter fun p => !isDue p }
  forEach due (fun p t =>
    match p.change with
    | .tickChange q =>
      (t.onTick fun u => { u with origin := changedOrigin u.origin u.period p.tnEff q, period := q }).donePending p 0
    | _ => t) m1

/-- A pending LOAD (R50): the change, its values and B′, the first boundary of the new values after its acceptance. -/
structure LoadDue where
  p : Pending
  period : Nat
  origin : Int
  b : Int

/-- The pending LOAD. -/
def pendingLoad (m : Mach) : Option LoadDue :=
  m.tick.pending.findSome? fun p => match p.change with
    | .tickLoad q o j => some { p := p, period := q, origin := o, b := o + j * (q * 1000) }
    | _ => none

/-- A setting in force stays in force under a new numbering that goes back to tick j or below tick k (R50). -/
def renumbered {α : Type} (k j : Nat) (v : Versioned α) : Versioned α := if k < j then v else { v with prev := v.cur, eff := 0 }

/-- What the block keeps by tick number follows a LOAD under which tick j begins after tick k of the old numbering (R50). Where
the numbers go back, work of the old numbering that is left uses the settings in force too (DEDUCED, log entry 17). -/
def renumber (k j : Nat) (m : Mach) : Mach :=
  let from_ := fun (e : Option Nat) => e.map fun a => if k < j then a else if a ≤ k then 0 else a
  { m with
    fn := m.fn.map fun (x : Func) => { x with roles := renumbered k j x.roles, quality := renumbered k j x.quality },
    fus := { m.fus with
      homs := m.fus.homs.map (renumbered k j),
      installs := m.fus.installs.map fun i => { i with tnEff := i.tnEff + j - (k + 1) } },
    jnl := { m.jnl with rules := m.jnl.rules.map (renumbered k j) },
    fe := m.fe.map fun (x : Fe) => { x with warmTn := if k < j then x.warmTn else 0 },
    images := m.images.map fun s => (s.1, { s.2 with activeFrom := from_ s.2.activeFrom, activeTo := from_ s.2.activeTo }),
    link := m.link.map fun (x : Link) => { x with pairedTo := if k < j then x.pairedTo else 0 } }

/-- A LOAD applies and tick j begins under it: its values, TN_JUMP for that tick, and every other pending change cancelled
(R50). -/
def applyLoad (l : LoadDue) (j : Nat) (m : Mach) : Mach :=
  let m1 := (m.renumber m.tick.tn j).onTick fun t => { t with origin := l.origin, period := l.period, jumpNext := true }
  ((m1.cancelPending (· != l.p)).onTick fun t => { t with pending := [] }).donePending l.p 0

/-! ## Front ends at a boundary (R97, R98, R114, R115, R307) -/

/-- One port at the boundary that begins tick k at `start`. What was staged waits through a compute reset (R25). As learning starts the ager stops (R93), and an event that waited for
its sweep is counted as R98 says. -/
def feBoundary (k : Nat) (start : Int) (p : Fin 16) (m : Mach) : Mach :=
  let m0 := if m.rst.compute.isSome then m else m.applyStagedFe p
  let m1 := m0.onFe p fun x => { x with normHeld := false }
  let m2 := if (m1.fe.get p).hotReq then (m1.applyHot p).onFe p fun x => { x with hotReq := false } else m1
  let f := m2.fe.get p
  match f.learning with
  | some l =>
    if l.be.isNone ∧ l.bs + 1000000000 ≤ start then m2.onFe p fun x => { x with learning := some { l with be := some start } } else m2
  | none =>
    if f.learnReq then
      let m3 := m2.onFe p fun x =>
        { x with learnReq := false, learning := some { bs := start, be := none }, surf := [], sweeping := false, held := none }
      match f.held with
      | some h => m3.learnEvent p { bs := start, be := none } h.w
      | none => m3
    else
      match f.warming, f.tauW with
      | true, some t =>
        if t + m2.g (R.FE_WARMUP p) * 1000 ≤ start then m2.onFe p fun x => { x with warming := false, warmTn := k } else m2
      | _, _ => m2

/-! ## The account of a tick (R56, R57) -/

/-- Ports that R57 and R262 judge: enabled, or disabled by a failed self-test (R429). -/
def judgedPorts (m : Mach) : List Nat := (List.range 16).filter fun p => m.on (R.ING_CTRL_EN p) || (vat m.port p).failed

/-- What keeps a port from being covered as its tick opens: LEARNING, WARMUP or DIE (R98, R114, R429). -/
def openCause (m : Mach) (p : Nat) : Option Nat :=
  let f := vat m.fe p
  if (vat m.port p).failed then some 4 else if f.learning.isSome then some 8 else if f.warming then some 1 else none

/-- The running tick ends (R51, R52): T_valid is `tEnd`, its length runs to `lenEnd` and its grace starts at `graceFrom`. A port that was enabled for a part of a working tick is judged in it, and is not
covered; no cause of R262 is stated for such a tick: WARMUP is taken (DEDUCED, log entry 41). -/
def closeTick (tEnd lenEnd graceFrom : Int) (m : Mach) : Mach :=
  let here := m.judgedPorts
  m.onRunning fun a =>
    let en := (List.range 16).filter fun p => if a.works then a.enabled.contains p || here.contains p else a.enabled.contains p && here.contains p
    let whole := fun (p : Nat) => a.enabled.contains p && here.contains p
    let broken := (en.filter fun p => ((m.openCause p).isSome || !whole p) && !a.bad.any fun b => b.1 == p).map fun p =>
      (p, if whole p then (m.openCause p).getD 1 else 1)
    { a with tEnd := some tEnd, graceFrom := graceFrom, length := lenEnd - a.start - a.stepIn, enabled := en, bad := a.bad ++ broken,
             fresh := here.filter fun p => (vat m.port p).fresh,
             ready := a.ready.filter fun p => here.contains p && (m.openCause p).isNone }

/-- The new tick's account (R55, R57). -/
def openAcct (k : Nat) (start : Int) (stepped : Bool) (m : Mach) : Mach :=
  let en := m.judgedPorts
  let a : TickAcct :=
    { tn := k, start := start, bk := m.bnd k, period := m.tick.period, stepped := stepped, jump := m.tick.jumpNext, works := m.working, enabled := en }
  { m with tick := { m.tick with tn := k, start := start, jumpNext := false, accts := a :: m.tick.accts },
           port := m.port.map fun (x : Port) => { x with fresh := false } }

/-- Its ports, once the settings of the boundary stand. -/
def openPorts (m : Mach) : Mach :=
  m.onRunning fun a =>
    { a with ready := a.enabled.filter fun p => (m.openCause p).isNone,
             bad := a.enabled.filterMap fun p => (m.openCause p).map fun c => (p, c) }

/-- Budget and level of the tick that has just ended (R56, R308). Which die's level is meant is not stated: a free choice. -/
def closeEnergy (n : Nat) (m : Mach) : Mach :=
  let (d, m1) := m.drawNat
  let l := vat m1.lvl d
  m1.onAcct n fun a => { a with budget := m1.led.eTick, level := l.freq, edge := l.edge }

/-! ## Release (R268) -/

/-- Records that satisfy `which` are released, with their delivery bound (R41, R268). -/
def releaseRecs (which : JRec → Bool) (m : Mach) : Mach :=
  let b := m.time.n + m.tick.period * 1000 + 10000
  m.onJnl fun j => { j with recs := j.recs.map fun r => if !r.released && which r then { r with released := true, bound := b } else r }

/-! ## Sleep at a boundary (R325, R327, R328) -/

/-- Step 2 of the entry to S2, or the record of a wake. -/
def sleepBoundary (m : Mach) : Mach :=
  match m.sleep.entering with
  | some _ =>
    if !m.jnl.actions.isEmpty && !m.sleep.goS3 then m.abandonEntry
    else if m.sleep.stepAt.isNone ∧ !m.sleep.goS3 then (m.onSleep fun s => { s with stepAt := some m.elapsed }).health H.sleep .package [2]
    else m
  | none =>
    if m.sleep.waking && m.working then
      (m.onSleep fun s => { s with waking := false }).armWdog.health H.wake .package []
    else m

/-! ## A tick begins -/

/-- The staged registers of the fusion unit and of the journal (R253, R299). -/
def applyStagedHub (m : Mach) : Mach :=
  let m1 := forEach m.fus.staged (fun (e : Nat × Word) t => t.wr e.1 e.2) (m.onFus fun u => { u with staged := [] })
  forEach m1.jnl.staged (fun (e : Nat × Word) t => t.wr e.1 e.2) (m1.onJnl fun j => { j with staged := [] })

/-- Tick k begins at `start`; the tick before it has ended, with T_valid `tEnd` and its length counted to `lenEnd` (R51, R52). -/
def beginTick (k : Nat) (start tEnd lenEnd : Int) (stepped : Bool) (m : Mach) : Mach :=
  let n := m.tick.tn
  let awake := m.rst.ready && m.rst.hold.isNone && m.sleep.state == 0
  let m1 := (((m.closeTick tEnd lenEnd start).sleepBoundary).openAcct k start stepped).onJnl fun j => { j with onceTick := [] }
  let m2 := forEach ((List.finRange 8).filter fun f => (m1.fn.get f).flrEdge) (fun f t => t.flrBoundary f k) m1
  let m3 := if m2.working then (m2.applyDue k).loadsAt k else m2
  let m4 := forEach (List.finRange 16) (feBoundary k start) m3
  let m5 := m4.applyStagedHub.mapsDone
  let m6 := if awake then (m5.ledgerBoundary k).closeEnergy n else forEach (List.finRange 4) holdAt m5.applyStagedPwr
  let m7 := if m6.working then m6.neuronSweep k else m6
  let m8 := forEach (List.finRange 8) (fun f t => t.tapFlush f) m7
  let m9 := forEach (List.finRange 4) (fun l t => t.refuseCheck l) (m8.releaseHeld k).openPorts
  let m10 := m9.onTick fun t => { t with wdogCount := if t.wdogArmed then t.wdogCount + 1 else t.wdogCount }
  m10.releaseRecs fun _ => true

end Mach

end Sys2Proof.Machine
end

