-- ==== Sys2Proof/Machine/StepOps.lean ====
section
/-! DEFINITION. Steps of station time: the shared step, the staged write, the servo's step (R51 to R53, R199, R205, R334 to
R336, R340). -/

namespace Sys2Proof.Machine

namespace Mach

/-! ## Scheduled instants that a forward step jumps over (R336) -/

/-- SINGLE and PERIODIC outputs whose start lies at or before now fire once here (R343). -/
def stepTrig (m : Mach) : Mach :=
  forEach (List.finRange 8) (fun (o : Fin 8) t =>
    let mode := t.g (R.TIM_TO_CTRL_MODE o)
    let x := t.time.trigOut.get o
    if x.armed ∧ (mode = 1 ∨ mode = 2) ∧ x.next ≤ t.time.n then
      t.onTrig o fun y => { y with highUntil := some (t.elapsed + y.width), armed := mode == 2,
                                   next := if mode = 2 then nextPeriodic y.next y.period t.time.n else y.next }
    else t) m

/-- The PPS_OUT instants and sync instants jumped over fire once at the step (R71, R345); `before` is the machine before it. -/
def stepPulses (before m : Mach) : Mach :=
  let m1 := if before.on R.TIM_CTRL_PPS_EN && decide (before.ppsDue ≤ m.time.n) then m.ppsFire m.time.n else m
  forEach (List.finRange 16) (fun (p : Fin 16) t =>
    if before.on (R.ING_CTRL_SYNC_EN p) && before.syncOk p && decide (before.syncDue p ≤ t.time.n) then t.syncFire p t.time.n else t) m1

/-- Time entries jumped over fire at the step (R288). -/
def stepActions (m : Mach) : Mach :=
  match m.nextTimeTrigger with
  | some t => if t ≤ m.time.n then m.fireTime else m
  | none => m

/-! ## The running tick (R51 to R53) -/

/-- A LOAD whose boundary the step has jumped over (R50). -/
def jumpedLoad (m : Mach) : Option LoadDue :=
  match m.pendingLoad with
  | some l => if l.b ≤ m.time.n then some l else none
  | none => none

/-- The running tick after a step of `step` ns from `nOld` (R51, R52): it goes on, or it ends at the step and another begins
there. Period changes jumped over take effect at the step (R53). -/
def stepTick (nOld step : Int) (m : Mach) : Mach :=
  let k := m.tick.tn
  let m1 := m.onRunning fun a => { a with stepped := true }
  match jumpedLoad m1 with
  | some l =>
    let j := toBits 48 ((m1.time.n - l.origin).fdiv (l.period * 1000))
    (m1.applyLoad l j).beginTick j m1.time.n nOld (m1.time.n - step) true
  | none =>
    if (k : Int) < m1.tnAt m1.time.n then
      let m2 := m1.applyPeriod (m1.tnAt m1.time.n).toNat
      m2.beginTick (m2.tnAt m2.time.n).toNat m2.time.n nOld (m2.time.n - step) true
    else m1.onRunning fun a => { a with stepIn := a.stepIn + step, joins := true }

/-! ## The shared step (R336) -/

/-- A step is applied on one increment: the counter takes the value `count`, in units of 2^-32 ns, where it would have been
`would`. -/
def applyStep (count would : Int) (source : Nat) (m : Mach) : Mach :=
  let nOld := m.time.n
  let step := count.fdiv (2 ^ 32) - would.fdiv (2 ^ 32)
  let old := m.time.quality
  let m1 := (m.setCount count).onTime fun t =>
    { t with stepSum := t.stepSum + step, steps := t.steps + 1, lastStep := some (nOld, count.fdiv (2 ^ 32)), stepBy := step, quality := .stepped,
             servo := { t.servo with returning := false, lockRun := 0 } }
  let m2 := m1.onTime fun t => { t with holdFrom := m1.elapsed }
  let m3 := (m2.timeStatus m2.time.servo.lastTheta old .stepped source 1 step).inc R.TIM_STEPS
  let at_ := m3.time.n.fdiv 1000 * 1000
  let m4 := m3.captureAll at_ at_ (some (nOld, m3.time.n))
  let m5 := stepTick nOld step m4
  (stepPulses m m5.stepTrig).stepActions

/-- The increment that the staged write falls due on (R334): the machine one increment before it, and the counter's value
without the step. -/
def stagedDue (s : Staged) (m : Mach) : Mach × Int :=
  let m1 := match s.at? with | some t => m.runIncs (m.incsTo t - 1) | none => m
  (m1, m1.count64 + m1.addend)

/-- A servo step falls due on the same increment (R336): the tick boundary lies on it. -/
def servoStepDue (would : Int) (m : Mach) : Bool :=
  m.time.servo.stepNext.isSome && decide (m.time.n < m.bnd (m.tick.tn + 1)) && decide (m.bnd (m.tick.tn + 1) ≤ would.fdiv (2 ^ 32))

/-- R334 to R336: the staged write is applied, discarded for its range, or refused. -/
def stagedApply (m : Mach) : Mach :=
  match m.time.staged with
  | none => m
  | some s =>
    let (m1, would) := m.stagedDue s
    let m2 := m1.onTime fun t => { t with staged := none }
    let count := if s.adj then would + s.v * 2 ^ 32 else (s.v * 1000000000 + s.ns) * 2 ^ 32
    let n := count.fdiv (2 ^ 32)
    let drop := would.fdiv (2 ^ 32) - n
    if s.adj && (decide (n < 0) || decide (9223372036 ≤ n.fdiv 1000000000)) then (m2.runIncs 1).set1 R.TIM_STAT_STG_ERR
    else if decide (m2.tick.period * 500 < drop) && !s.force then
      let m3 := ((m2.runIncs 1).set1 R.TIM_STAT_STG_REFUSED).inc R.TIM_STEP_REFUSED
      m3.timeStatus m3.time.servo.lastTheta m3.time.quality m3.time.quality 0 4 (-drop)
    else
      let m3 := if m2.servoStepDue would then m2.onServo fun v => { v with stepNext := none } else m2
      let m4 := m3.applyStep count would 0
      if m2.servoStepDue would then m4.onServo fun v => { v with returning := true } else m4

/-- R340: the step that the servo decided is applied on the increment after the boundary's, unless a staged write falls due
there. -/
def servoStep (m : Mach) : Mach :=
  match m.time.servo.stepNext with
  | none => m
  | some d =>
    let m1 := m.onServo fun v => { v with stepNext := none }
    let would := m1.count64 + m1.addend
    let taken := match m1.time.staged with
      | some s => (match s.at? with | some t => decide (t ≤ would.fdiv (2 ^ 32)) | none => true)
      | none => false
    if taken then m1.onServo fun v => { v with returning := true }
    else m1.applyStep (would + d * 2 ^ 32) would m1.srvSource

end Mach

end Sys2Proof.Machine
end

