-- ==== Sys2Proof/Machine/AdmitOps.lean ====
section
/-! DEFINITION. Admission of a tick's work by the ledger (R190, R305 to R307). -/

namespace Sys2Proof.Machine

namespace Mach

/-! ## Populations (item 3, R168) -/

/-- The estimate of a function's population work (R305). -/
def popEstimate (m : Mach) (f : Fin 8) : Int := (m.led.popLast.get f).getD (m.g R.PWR_POPMIN)

/-- The functions with population work in a tick. -/
def popFns (m : Mach) (n : Nat) : List (Fin 8) :=
  (List.finRange 8).filter fun f => (m.popsIn f n).any fun p => p.started || (m.popEng n p).isSome

/-- A function's population tick is admitted. -/
def admitPop (f : Fin 8) (n : Nat) (m : Mach) : Mach :=
  let c := m.popEstimate f
  (((m.debitNj .class_ c).spend n c).onFn f fun x => { x with popTick := some { tn := n, phase := 0 } }).onLed fun l =>
    { l with popEst := vput l.popEst f c, popWork := vput l.popWork f [] }

/-- The populations in ascending function number: whether item 3 is still open, and the machine after it (R306, R307). -/
def admitPops (n : Nat) (m : Mach) : Bool × Mach :=
  (m.popFns n).foldl (fun (s : Bool × Mach) f =>
    if !s.1 then (false, s.2.lostPhases f n 0)
    else if s.2.affords .class_ (s.2.popEstimate f) then (true, s.2.admitPop f n)
    else (false, (s.2.inc R.PWR_SHED_POP).lostPhases f n 0)) (true, m)

/-! ## Curds (items 3 and 5) -/

/-- The classifier roles of an image that are bound under the maps of a tick, ascending, with their engines. -/
def boundCls (m : Mach) (n : Nat) (im : Image) : List (Nat × Fin 72) :=
  (List.range im.clsCount).filterMap fun r =>
    (RoleMap.engine ((m.fn.get im.fn).roles.at_ n) (im.clsRole + r)).map fun e => (im.clsRole + r, Fin.ofNat 72 e)

/-- Descriptors queued for an engine. -/
def queuedFor (m : Mach) (e : Fin 72) : Nat := (m.eng.get e).queue.length + (m.heldDesc.filter fun h => h.1 == e.1).length

/-- The role with the fewest descriptors queued, the lowest on a tie (R190). -/
def clsChoice (m : Mach) (n : Nat) (im : Image) : Option (Nat × Fin 72) :=
  (m.boundCls n im).foldl (fun (b : Option (Nat × Fin 72)) x =>
    match b with
    | some y => if m.queuedFor x.2 < m.queuedFor y.2 then some x else b
    | none => some x) none

/-- The die that an estimate is priced at: that of the chosen engine. -/
def clsDie (m : Mach) (n : Nat) (im : Image) : Fin 4 := match m.clsChoice n im with | some x => dieOfEng x.2 | none => 0

/-- The CLASSIFY descriptor of a curd (R121, R190). -/
def clsDesc (m : Mach) (n : Nat) (p : Fin 16) (c : Curd) (slot : Nat) (im : Image) (est : Int) : Desc :=
  let role := match m.clsChoice n im with | some x => x.1 | none => im.clsRole
  let rec_ := im.sourceOf role
  { kind := 1, epoch := ((m.fn.get im.fn).roles.at_ n).epoch, fn := im.fn, role := role, image := slot,
    lFirst := (rec_.map (·.lFirst)).getD 0, lLast := (rec_.map (·.lLast)).getD 0,
    result := (rec_.map (rolesResult im)).getD false, loadIn := true, tn := n, port := p.1, index := c.index, inAddr := c.patchAddr,
    outAddr := resultAddr (p.1 / 4) ((c.patchAddr - patchAddr (p.1 / 4) 0) / 2048), est := est }

/-- A classification is admitted (R306). Its descriptor is issued once its patch is cut (R113). -/
def admitCurd (it : Item) (n : Nat) (p : Fin 16) (c : Curd) (slot : Nat) (im : Image) (m : Mach) : Mach :=
  let est := m.classEst im ((m.clsChoice n im).elim im.clsRole (·.1)) (m.clsDie n im)
  let m1 := ((m.debitNj it est).spend n est).onCurd p n c.index fun k =>
    { k with admitted := true, waiting := if c.patch then none else some est }
  if c.patch then m1.issue (m.clsDesc n p c slot im est) else m1

/-- The patch of an admitted curd has been cut: its CLASSIFY is issued (R121, R190). -/
def issueWaiting (n : Nat) (p : Fin 16) (index : Nat) (m : Mach) : Mach :=
  match (m.fe.get p).curds.find? fun c => c.tn == n && c.index == index with
  | some c =>
    match c.waiting, m.imageOfPort (m.own.port.get p) n p.1 with
    | some est, some s => (m.onCurd p n index fun k => { k with waiting := none }).issue (m.clsDesc n p c s.1 s.2 est)
    | _, _ => m
  | none => m

/-- The admitted curds of a tick that still have no patch (R113). -/
def unpatched (m : Mach) (n : Nat) : List (Fin 16 × Curd) := (m.curdsOfTick n).filter fun x => x.2.waiting.isSome && !x.2.abandoned

/-- The curds that can be scored: not the overflow curd, and from a port that an active image of its function claims and classifies
(R112, R174, R189). -/
def scorable (m : Mach) (n : Nat) : List (Fin 16 × Curd × Nat × Image) :=
  (m.curdsOfTick n).filterMap fun x =>
    if x.2.overflow ∨ x.2.abandoned ∨ x.2.admitted then none
    else ((m.imageOfPort (m.own.port.get x.1) n x.1.1).filter fun s => s.2.clsCount != 0).map fun s => (x.1, x.2, s.1, s.2)

/-- A curd is known when its measurement gates with a CONFIRMED comet whose class is valid (R306). Before MD_enc(T_valid) is
to be had no measurement exists, and the curd counts as new. -/
def known (m : Mach) (a : TickAcct) (p : Fin 16) (c : Curd) : Bool :=
  let tv := a.tEnd.getD 0
  match m.mdAt m.webEnc tv with
  | .ok md =>
    match (m.measure a.tn tv md p c).1 with
    | .ok y => m.fus.store.any fun t =>
        t.2.c.state == 2 && t.2.c.clsValid && (m.gate y t.2 (m.predOf tv (a.period * 1000) t.2)).isSome
    | _ => false
  | _ => false

/-- A list of curds under one item: the first refusal ends the item (R307). `open_` says whether the item is still open. -/
def admitCurds (it : Item) (shed : Fld) (n : Nat) (open_ : Bool) (l : List (Fin 16 × Curd × Nat × Image)) (m : Mach) : Mach :=
  (l.foldl (fun (s : Bool × Mach) (x : Fin 16 × Curd × Nat × Image) =>
    if !s.1 then (false, s.2.refuseCurd n x.1 x.2.1)
    else
      let est := s.2.classEst x.2.2.2 ((s.2.clsChoice n x.2.2.2).elim x.2.2.2.clsRole (·.1)) (s.2.clsDie n x.2.2.2)
      if s.2.affords it est then (true, s.2.admitCurd it n x.1 x.2.1 x.2.2.1 x.2.2.2)
      else (false, (s.2.inc shed).refuseCurd n x.1 x.2.1)) (open_, m)).2

/-! ## Calibration (item 6) -/

/-- What accumulating the tick's curds costs is not stated: a free value. -/
def admitCal (n : Nat) (m : Mach) : Mach :=
  if !m.on R.FUS_CTRL_CAL_EN then m
  else
    let (c, m1) := m.drawNat
    if m1.affords .cal c then ((m1.debitNj .cal c).spend n c).onAcct n fun a => { a with calAdmitted := true }
    else m1.inc R.PWR_SHED_CAL

/-! ## Patches (R113) -/

/-- R113: the next curd of the port, in index order, gets its patch, and its CLASSIFY follows if it has been admitted. -/
def patchCut (p : Fin 16) (m : Mach) : Mach :=
  match (m.fe.get p).curds.find? (fun c => !c.overflow && !c.patch && !c.abandoned) with
  | none => m
  | some c =>
    match m.acct? c.tn with
    | none => m
    | some a =>
      let tEnd := a.tEnd.getD 0
      let m1 := (m.runTo (a.graceFrom + 12000)).dueSweep p
      let d := dieOfPort p
      let i := m1.patchNext.get d
      let addr := patchAddr d i
      let m2 := m1.dramPut addr (m1.patchBytes p c (tauOf tEnd))
      let m3 := { m2 with patchNext := vput m2.patchNext d ((i + 1) % 32768) }
      ((m3.onCurd p c.tn c.index fun k => { k with patch := true, patchAddr := addr }).inc (R.FE_PATCHES p)).issueWaiting c.tn p c.index

/-! ## The tick -/

/-- The oldest tick that has ended, does work and has not been admitted. -/
def nextAdmit (m : Mach) : Option TickAcct := (m.tick.accts.filter fun a => a.tEnd.isSome && a.works && !a.admitted).getLast?

/-- An earlier tick still waits for its deadline, which has come with the boundary that ended tick n (R38, R166). -/
def earlierLeft (m : Mach) (n : Nat) : Bool := m.tick.accts.any fun a => decide (a.tn < n)

/-- R306: at B_(n+1) + 12 µs, once the tick's grid is closed and the deadline that fell on B_(n+1) has been handled. -/
def admission (m : Mach) : Mach :=
  match m.nextAdmit with
  | none => m
  | some a =>
    if !m.working ∨ !a.gridClosed ∨ m.earlierLeft a.tn then m
    else
      let m1 := m.runTo (a.graceFrom + 12000)
      let l := m1.scorable a.tn
      let ks := l.map fun x => (x, m1.known a x.1 x.2.1)
      let (open_, m2) := m1.admitPops a.tn
      let m3 := m2.admitCurds .class_ R.PWR_SHED_CLASS a.tn open_ ((ks.filter fun x => !x.2).map Prod.fst)
      let m4 := m3.admitCurds .known R.PWR_SHED_KNOWN a.tn true ((ks.filter fun x => x.2).map Prod.fst)
      (m4.admitCal a.tn).onAcct a.tn fun b => { b with admitted := true }

end Mach

end Sys2Proof.Machine
end

