-- ==== Sys2Proof/Machine/DeadlineOps.lean ====
section
/-! DEFINITION. The deadline of a tick: what is unfinished, SNN_OUT, GAP runs, TICK_SUMMARY (R38, R55 to R57, R171, R172,
R257, R260 to R262). -/

namespace Sys2Proof.Machine

namespace Mach

/-! ## Unfinished work (R38, R168) -/

/-- The oldest tick that waits for its deadline, with the tick after it: the deadline is that one's end (R38). -/
def dueDeadline (m : Mach) : Option (TickAcct × TickAcct) :=
  match m.tick.accts.reverse with
  | a :: b :: _ => if b.tEnd.isSome then some (a, b) else none
  | _ => none

/-- A function's population work of the tick is not finished. -/
def popsLeft (m : Mach) (n : Nat) : Bool := m.fn.toList.any fun x => x.popTick.elim false fun t => t.tn == n

/-- Step 3 work of the tick is unfinished (R38). -/
def workLeft (m : Mach) (a : TickAcct) : Bool :=
  !a.admitted || (m.on R.FUS_CTRL_EN && !a.fused) || m.classPending a.tn || m.popsLeft a.tn

/-- Requests of tick n leave the thin-layer queues (R136). ABANDONED is a counter of one engine and the queue is shared: the die's
first good thin-layer engine counts them (DESIGN CHOICE, log 80). -/
def dropTleReqs (n : Nat) (m : Mach) : Mach :=
  forEach (List.finRange 4) (fun (d : Fin 4) t =>
    let i := 2 * d.1 + (!(t.rst.dies.get d).tleGood.getLsbD 0).toNat
    { t.addTo (R.TLE_ABANDONED i) ((t.tleq.get d).filter (·.tn == n)).length with tleq := vmod t.tleq d (·.filter fun q => q.tn != n) }) m

/-- Unfinished classifications are abandoned, curds never admitted and curds without a patch among them (R38, R113). -/
def dropClasses (a : TickAcct) (m : Mach) : Mach :=
  let m1 := forEach (List.finRange 72) (fun (e : Fin 72) t => t.abandonEng e fun d => d.tn == a.tn) (m.dropTleReqs a.tn)
  let m2 := forEach (m1.unpatched a.tn) (fun (x : Fin 16 × Curd) t => t.refuseCurd a.tn x.1 x.2) m1
  if a.admitted then m2
  else forEach (m2.scorable a.tn) (fun (x : Fin 16 × Curd × Nat × Image) t => t.refuseCurd a.tn x.1 x.2.1) m2

/-- Phases that have not started are lost (R168). -/
def dropPhases (a : TickAcct) (m : Mach) : Mach :=
  let m1 := forEach (List.finRange 8) (fun (f : Fin 8) t =>
    match (t.fn.get f).popTick with
    | some x => if x.tn = a.tn then t.abandonPop f a.tn x.phase else t
    | none => t) m
  if a.admitted then m1 else forEach (m1.popFns a.tn) (fun (f : Fin 8) t => t.lostPhases f a.tn 0) m1

/-- The overrun handling of R38. Every port of an overrun tick counts as not covered. -/
def overrun (a : TickAcct) (m : Mach) : Mach :=
  let left := m.workLeft a
  let m1 := m.dropClasses a
  let m2 := if a.fused then m1 else m1.fuseLate ((m1.acct? a.tn).getD a)
  let m3 := m2.dropPhases a
  if left then
    (forEach a.enabled (fun p t => t.addBad a.tn p 3) m3).onAcct a.tn fun b => { b with overrun := true }
  else m3

/-! ## SNN_OUT (R171, R172) -/

/-- Insert a spike log in ascending neuron index. -/
def insLog (x : SpikeLog) : List SpikeLog → List SpikeLog
  | [] => [x]
  | y :: r => if x.neuron < y.neuron then x :: y :: r else y :: insLog x r

/-- The SNN_OUT body of one output neuron. -/
def snnBody (n : Nat) (p : Pop) (r : PopRec) (suppressed : Nat) (restart : Bool) (l : SpikeLog) : Body :=
  .snn n (l.neuron - r.outFirst) p.role p.pop l.count l.first l.last r.encMode l.v l.forced restart p.lost p.lag p.replayed p.edge
    (decide (l.sigma < p.warmUntil)) (toBits 48 l.sigma) suppressed l.mark

/-- The records of one population. -/
def snnOne (n : Nat) (tv : Int) (p : Pop) (m : Mach) : Mach :=
  match m.popRec p with
  | none => m
  | some (_, r) =>
    let logs := p.log.foldl (fun acc l => insLog l acc) []
    let out := logs.take r.outMax
    let more := logs.length - out.length
    let m1 := forEach (out.mapIdx fun i l => (i, l)) (fun (x : Nat × SpikeLog) t =>
      let b := snnBody n p r more (p.firstRec && x.1 == 0) x.2
      t.writeStep3 p.fn n tv (Fin.ofNat 4 r.enc) b (flagBits p.replayed p.edge false false (decide (x.2.sigma < p.warmUntil)))) m
    m1.onPop p fun q =>
      { q with log := [], lost := false, lag := false, replayed := false, edge := false, firstRec := q.firstRec && out.isEmpty }

/-- Every population's records, in ascending function number. -/
def snnAll (n : Nat) (tv : Int) (m : Mach) : Mach :=
  forEach (List.finRange 8) (fun (f : Fin 8) t => forEach (t.popsIn f n) (fun p u => u.snnOne n tv p) t) m

/-! ## GAP runs (R262) -/

/-- MD_enc at an instant; none where R204 gives no value. -/
def mdThen (t : Int) (m : Mach) : Option Int × Mach :=
  match m.mdAsk m.webEnc t with
  | (.ok v, m1) => (some v, m1)
  | (_, m1) => (none, m1)

/-- Write the GAP record of a port's run up to tick k2, whose end is at `tEnd`, and end the run, or, with OPEN, let it go on from the next
tick (R262). A run whose last record carried OPEN at its last tick ends with a record of no further tick (DEDUCED, log entry 21). -/
def writeGap (p : Fin 16) (k2 : Int) (tEnd : Int) (isOpen : Bool) (m : Mach) : Mach :=
  match m.fus.runs.get p with
  | none => m
  | some r =>
    let (mdEnd, m1) := m.mdThen tEnd
    let from_ := (m1.fus.mdStart.get p).map (· - m1.gi (R.FUS_P_FIELD p.1 3))
    let to_ := mdEnd.map (· - m1.gi (R.FUS_P_FIELD p.1 2))
    let b : Body := .gap r.first p.1 r.cause r.causes (bitN r.causes 1) (from_.isNone || to_.isNone) isOpen (toBits 32 (k2 - r.first + 1)) 0
      (from_.getD mdNone) (to_.getD mdNone) (m1.gi (R.FUS_P_FIELD p.1 0)) (m1.gi (R.FUS_P_FIELD p.1 1)) r.packets
    let m2 := m1.onFus fun u =>
      { u with runs := vput u.runs p (if isOpen then some { r with first := (k2 + 1).toNat } else none),
               mdStart := if isOpen then vput u.mdStart p to_ else u.mdStart }
    m2.write' (m2.own.port.get p) b 0

/-- Tick k joins a port's run with a mask of causes and its dropped packets (R262). -/
def extendRun (p : Fin 16) (k causes packets : Nat) (m : Mach) : Mach :=
  m.onFus fun u =>
    let r : GapRun := match u.runs.get p with
      | some r => { r with causes := r.causes ||| causes, packets := r.packets + packets }
      | none => { first := k, cause := ((maskBits causes 16).head?).getD 0, causes := causes, packets := packets }
    { u with runs := vput u.runs p (some r) }

/-- The GAP records of the handoffs that the tick's fusion gave up (R246, R262): PORT 0, cause HANDOFF and the CID. The extent that such a
record shows is not stated: free values. -/
def handoffGaps (a : TickAcct) (m : Mach) : Mach :=
  forEach a.handGaps (fun g t =>
    let (mdFrom, t1) := t.drawInt
    let (mdTo, t2) := t1.drawInt
    let (cdFrom, t3) := t2.drawInt
    let (cdTo, t4) := t3.drawInt
    t4.write' g.1 (.gap a.tn 0 7 128 false false false 1 g.2 mdFrom mdTo cdFrom cdTo 0) 0) m

/-- The causes met by a port in a tick in which it is not covered. -/
def gapCauses (m : Mach) (a : TickAcct) (p : Fin 16) : Nat :=
  let seen := ((a.bad.filter fun b => b.1 == p.1).map (·.2)).foldl (fun acc c => acc ||| 2 ^ c) 0
  let die := if m.dieLost (dieOfPort p.1) then 16 else 0
  seen ||| die ||| (if a.works then 0 else 1)

/-- MD_START is taken at an instant (R262). -/
def takeMdStart (p : Fin 16) (t : Int) (m : Mach) : Mach :=
  let (v, m1) := m.mdThen t
  m1.onFus fun u => { u with mdStart := vput u.mdStart p v }

/-- One port at the deadline of tick a; ticks without an account since `last` were skipped (R55, R262). -/
def gapPort (a : TickAcct) (p : Fin 16) (m : Mach) : Mach :=
  let n := a.tn
  let tEnd := a.tEnd.getD 0
  let m1 := if a.fresh.contains p.1 then (m.writeGap p (n - 1) a.start false).takeMdStart p tEnd else m
  if !a.enabled.contains p.1 then
    if a.fresh.contains p.1 then m1
    else (m1.writeGap p (n - 1) a.start false).onFus fun u => { u with mdStart := vput u.mdStart p none }
  else
    let m2 := match m1.tick.lastDone with
      | some l => if l + 1 < n ∧ !a.jump ∧ !a.fresh.contains p.1 then m1.extendRun p (l + 1) 1 0 else m1
      | none => m1
    if m2.covered a p then (m2.writeGap p (n - 1) a.start false).takeMdStart p tEnd
    else
      let m3 := m2.extendRun p n (m2.gapCauses a p) (((a.drops.filter fun d => d.1 == p.1).map (·.2)).sum)
      match m3.fus.runs.get p with
      | some r =>
        if (atLeast1 (m3.g R.JNL_GAP_MAX_TICKS) : Int) ≤ (n : Int) - r.first + 1 then m3.writeGap p n tEnd true else m3
      | none => m3

/-- The ports in ascending order, while the report unit runs (R257, R262). -/
def gapAll (a : TickAcct) (m : Mach) : Mach :=
  if m.rst.hold.isSome ∨ m.jnl.pf.isSome ∨ m.sleep.state ≠ 0 then
    forEach (List.finRange 16) (fun (p : Fin 16) t =>
      if a.enabled.contains p.1 then t.extendRun p a.tn (t.gapCauses a p) 0 else t) m
  else forEach (List.finRange 16) (fun (p : Fin 16) t => t.gapPort a p) m

/-! ## TICK_SUMMARY (R55, R56, R260, R261) -/

/-- The coverage mask (R57). -/
def coverage (m : Mach) (a : TickAcct) : Nat :=
  ((List.finRange 16).filter fun (p : Fin 16) => m.covered a p && a.enabled.contains p.1).foldl (fun acc p => acc + 2 ^ p.1) 0

/-- SKIPPED of a function's summary: the ticks since the last that its stream admitted (R55, R261). What it counts before the first
summary, and across a renumbering, is not stated (a free value). -/
def skippedTicks (f : Fin 8) (a : TickAcct) (m : Mach) : Nat × Mach :=
  match m.tick.lastSum.get f with
  | some l => if l < a.tn ∧ !a.jump then (a.tn - l - 1, m) else m.drawNat
  | none => m.drawNat

/-- One function's copy of the summary: refused, its tick counts in SKIPPED of the next that is admitted, and so do its refused records
(R261). -/
def summaryFor (f : Fin 8) (a : TickAcct) (m : Mach) : Mach :=
  let rep := m.tick.refusedCarry.get f
  let (sk, m1) := m.skippedTicks f a
  match m1.write f (.summary { a with refused := rep } sk (m1.coverage a)) 0 with
  | (some _, t) => t.onTick fun u =>
      { u with lastSum := vput u.lastSum f (some a.tn), refusedCarry := vmod u.refusedCarry f (· - rep) }
  | (none, t) => t

/-- The summary goes to every function of R255; formed, it feeds the watchdog whether it is admitted or not (R40). -/
def writeSummary (a : TickAcct) (m : Mach) : Mach :=
  (forEach m.widely (fun f t => t.summaryFor f a) m).onTick fun t => { t with wdogCount := 0 }

/-! ## The deadline -/

/-- The tick leaves the block: its account, its curds and grids, and the slots whose last tick it was (R188). -/
def dropTick (n : Nat) (m : Mach) : Mach :=
  let m1 := m.onTick fun t => { t with accts := t.accts.dropLast, lastDone := some n }
  let m2 := { m1 with fe := m1.fe.map fun (f : Fe) =>
    { f with curds := f.curds.filter fun c => c.tn != n, grids := f.grids.filter fun g => g.tn != n } }
  m2.freeDue (n + 2)

/-- The deadline of the oldest tick passes (R38, R56). -/
def tickDeadline (m : Mach) : Mach :=
  match m.dueDeadline with
  | none => m
  | some (a, b) =>
    let n := a.tn
    let before := m.jnl.next
    let m1 := if a.works then m.overrun a else m
    let m2 := m1.movePops (b.tn - 1)
    let m3 := if a.works then m2.snnAll n (a.tEnd.getD 0) else m2
    let m4 := (m3.handoffGaps ((m3.acct? n).getD a)).gapAll ((m3.acct? n).getD a)
    let m5 := if a.works then m4.writeSummary ((m4.acct? n).getD a) else m4
    (m5.dropTick n).releaseRecs fun r => decide (before.get (stream r.fn (Fin.ofNat 4 r.cls)) ≤ r.count)

/-! ## The boundary (R31, R50) -/

/-- Station time reaches the next boundary: of the values in force, or of a pending LOAD where that comes first. -/
def tickBoundary (m : Mach) : Mach :=
  let k := m.tick.tn + 1
  let b := m.bnd k
  let plain := fun (u : Mach) => ((u.runTo b).applyPeriod k).beginTick k b b b false
  let m1 := match m.pendingLoad with
    | some l =>
      let j := toBits 48 ((l.b - l.origin).fdiv (l.period * 1000))
      if l.b ≤ b then ((m.runTo l.b).applyLoad l j).beginTick j l.b l.b l.b false else plain m
    | none => plain m
  m1.servoStep

end Mach

end Sys2Proof.Machine
end

