-- ==== Sys2Proof/Machine/TickCmds.lean ====
section
/-! DEFINITION. Meanings of the tick's own commands (R31, R38, R306, R334). -/

namespace Sys2Proof.Machine

/-- TICK_BOUNDARY (R31). -/
def execTickBoundary (s : State) := s.act Mach.tickBoundary
/-- ADMISSION (R306). -/
def execAdmission (s : State) := s.act Mach.admission
/-- PATCH_CUT (R113). -/
def execPatchCut (p : Fin 16) (s : State) := s.act (Mach.patchCut p)
/-- TICK_DEADLINE (R38). -/
def execTickDeadline (s : State) := s.act Mach.tickDeadline
/-- STAGED_STEP_APPLY (R334). -/
def execStagedStepApply (s : State) := s.act Mach.stagedApply

end Sys2Proof.Machine
end

