-- ==== Sys2Proof/Machine/Dispatch.lean ====
section
/-! DEFINITION. One arm per command: its meaning, or its rejection by name. -/

namespace Sys2Proof.Machine

/-- The effect of a command on everything but the queue. -/
def exec (i : Instr) (s : State) : Host.Outcome State Fault Refusal :=
  match i with
  | .tickBoundary => Sys2Proof.Machine.execTickBoundary s
  | .curdGridClose => Sys2Proof.Machine.execCurdGridClose s
  | .admission => Sys2Proof.Machine.execAdmission s
  | .patchCut p => Sys2Proof.Machine.execPatchCut p s
  | .tickDeadline => Sys2Proof.Machine.execTickDeadline s
  | .tickWdog => Sys2Proof.Machine.execTickWdog s
  | .csi2LongPacket p hdr payload crcOk fifoOvf => Sys2Proof.Machine.execCsi2LongPacket p hdr payload crcOk fifoOvf s
  | .csi2Raw8Packet p hdr payload crcOk => Sys2Proof.Machine.execCsi2Raw8Packet p hdr payload crcOk s
  | .csi2ShortPacket p hdr => Sys2Proof.Machine.execCsi2ShortPacket p hdr s
  | .packetTimeout p => Sys2Proof.Machine.execPacketTimeout p s
  | .syncEdge p => Sys2Proof.Machine.execSyncEdge p s
  | .syncPulseEnd p => Sys2Proof.Machine.execSyncPulseEnd p s
  | .fitLost p => Sys2Proof.Machine.execFitLost p s
  | .flushApply p => Sys2Proof.Machine.execFlushApply p s
  | .portStop p => Sys2Proof.Machine.execPortStop p s
  | .ingCtrlEn p => Sys2Proof.Machine.execIngCtrlEn p s
  | .ingCtrlDisable p => Sys2Proof.Machine.execIngCtrlDisable p s
  | .ingCtrlFlush p => Sys2Proof.Machine.execIngCtrlFlush p s
  | .sciGo p party addr wlen rlen => Sys2Proof.Machine.execSciGo p party addr wlen rlen s
  | .sciTransferDone p result data => Sys2Proof.Machine.execSciTransferDone p result data s
  | .sciTimeout p => Sys2Proof.Machine.execSciTimeout p s
  | .ingFitRateRead p => Sys2Proof.Machine.execIngFitRateRead p s
  | .feEvent p => Sys2Proof.Machine.execFeEvent p s
  | .agerSweepStart p => Sys2Proof.Machine.execAgerSweepStart p s
  | .agerSweepEnd p => Sys2Proof.Machine.execAgerSweepEnd p s
  | .surfaceZeroDone p => Sys2Proof.Machine.execSurfaceZeroDone p s
  | .feCtrlLearn p => Sys2Proof.Machine.execFeCtrlLearn p s
  | .feCtrlHotApply p => Sys2Proof.Machine.execFeCtrlHotApply p s
  | .learnEnd p => Sys2Proof.Machine.execLearnEnd p s
  | .descriptorStart e => Sys2Proof.Machine.execDescriptorStart e s
  | .descriptorComplete e => Sys2Proof.Machine.execDescriptorComplete e s
  | .tleRequestStart d => Sys2Proof.Machine.execTleRequestStart d s
  | .tleRequestDone d t => Sys2Proof.Machine.execTleRequestDone d t s
  | .edgeError e neuron => Sys2Proof.Machine.execEdgeError e neuron s
  | .engSrst e => Sys2Proof.Machine.execEngSrst e s
  | .engResetDone e => Sys2Proof.Machine.execEngResetDone e s
  | .engTripClear d => Sys2Proof.Machine.execEngTripClear d s
  | .populationPhase f => Sys2Proof.Machine.execPopulationPhase f s
  | .spikeMessage f => Sys2Proof.Machine.execSpikeMessage f s
  | .roleLoadDone e => Sys2Proof.Machine.execRoleLoadDone e s
  | .streamPrefetch e sid => Sys2Proof.Machine.execStreamPrefetch e sid s
  | .encCountEdge n a b => Sys2Proof.Machine.execEncCountEdge n a b s
  | .encIndex n => Sys2Proof.Machine.execEncIndex n s
  | .encCapture => Sys2Proof.Machine.execEncCapture s
  | .mdQueryAnswer n t => Sys2Proof.Machine.execMdQueryAnswer n t s
  | .motEncEn n en => Sys2Proof.Machine.execMotEncEn n en s
  | .motEncRebase n => Sys2Proof.Machine.execMotEncRebase n s
  | .motEncRescale n => Sys2Proof.Machine.execMotEncRescale n s
  | .motEncPosRead n => Sys2Proof.Machine.execMotEncPosRead n s
  | .motEncIdxRead n => Sys2Proof.Machine.execMotEncIdxRead n s
  | .imuDrdy n => Sys2Proof.Machine.execImuDrdy n s
  | .imuTransferDone n bytes => Sys2Proof.Machine.execImuTransferDone n bytes s
  | .imuTimeout n => Sys2Proof.Machine.execImuTimeout n s
  | .motImuEn n en => Sys2Proof.Machine.execMotImuEn n en s
  | .motImuOutRead n => Sys2Proof.Machine.execMotImuOutRead n s
  | .fusionTick => Sys2Proof.Machine.execFusionTick s
  | .hoOfferRepeat => Sys2Proof.Machine.execHoOfferRepeat s
  | .calIntervalEnd => Sys2Proof.Machine.execCalIntervalEnd s
  | .calSolveDone => Sys2Proof.Machine.execCalSolveDone s
  | .fusPHRead p => Sys2Proof.Machine.execFusPHRead p s
  | .reportDelivery f cls => Sys2Proof.Machine.execReportDelivery f cls s
  | .commitGroupForm => Sys2Proof.Machine.execCommitGroupForm s
  | .commitGroupDurable => Sys2Proof.Machine.execCommitGroupDurable s
  | .holdupSample mv => Sys2Proof.Machine.execHoldupSample mv s
  | .powerFail => Sys2Proof.Machine.execPowerFail s
  | .finalCommitDone => Sys2Proof.Machine.execFinalCommitDone s
  | .pwrRecoverExpired => Sys2Proof.Machine.execPwrRecoverExpired s
  | .actionTriggerTime => Sys2Proof.Machine.execActionTriggerTime s
  | .actionTriggerPosition => Sys2Proof.Machine.execActionTriggerPosition s
  | .actionPulseEnd o => Sys2Proof.Machine.execActionPulseEnd o s
  | .actCtrlEn en => Sys2Proof.Machine.execActCtrlEn en s
  | .jnlFRsnRead f cls => Sys2Proof.Machine.execJnlFRsnRead f cls s
  | .pmbusTelemetry g mw => Sys2Proof.Machine.execPmbusTelemetry g mw s
  | .avsVoltageReached d => Sys2Proof.Machine.execAvsVoltageReached d s
  | .avsTimeout d => Sys2Proof.Machine.execAvsTimeout d s
  | .clkManualWrite d val => Sys2Proof.Machine.execClkManualWrite d val s
  | .droopDetected d => Sys2Proof.Machine.execDroopDetected d s
  | .droopRecovered d => Sys2Proof.Machine.execDroopRecovered d s
  | .thermalThrottle sensor reading => Sys2Proof.Machine.execThermalThrottle sensor reading s
  | .throttleRepeat sensor reading => Sys2Proof.Machine.execThrottleRepeat sensor reading s
  | .thermalTlRise d => Sys2Proof.Machine.execThermalTlRise d s
  | .thermalTrip sensor => Sys2Proof.Machine.execThermalTrip sensor s
  | .s2Entry => Sys2Proof.Machine.execS2Entry s
  | .s2PowerDown => Sys2Proof.Machine.execS2PowerDown s
  | .s3Entry => Sys2Proof.Machine.execS3Entry s
  | .pwrSleepGoS3 => Sys2Proof.Machine.execPwrSleepGoS3 s
  | .wake source unit => Sys2Proof.Machine.execWake source unit s
  | .pwrWakeTRead => Sys2Proof.Machine.execPwrWakeTRead s
  | .timSnap party => Sys2Proof.Machine.execTimSnap party s
  | .stagedStepGo force atEn adj => Sys2Proof.Machine.execStagedStepGo force atEn adj s
  | .stagedStepCancel => Sys2Proof.Machine.execStagedStepCancel s
  | .stagedStepApply => Sys2Proof.Machine.execStagedStepApply s
  | .servoOffsetWrite hi => Sys2Proof.Machine.execServoOffsetWrite hi s
  | .servoEnWrite en => Sys2Proof.Machine.execServoEnWrite en s
  | .ppsInEdge => Sys2Proof.Machine.execPpsInEdge s
  | .holdoverTimeout => Sys2Proof.Machine.execHoldoverTimeout s
  | .slewEnd => Sys2Proof.Machine.execSlewEnd s
  | .timSrvLastRead => Sys2Proof.Machine.execTimSrvLastRead s
  | .trigOutCtrlWrite o val => Sys2Proof.Machine.execTrigOutCtrlWrite o val s
  | .trigOutPulseStart o => Sys2Proof.Machine.execTrigOutPulseStart o s
  | .trigOutPositionPulse o => Sys2Proof.Machine.execTrigOutPositionPulse o s
  | .trigOutPulseEnd o => Sys2Proof.Machine.execTrigOutPulseEnd o s
  | .ppsOutPulse => Sys2Proof.Machine.execPpsOutPulse s
  | .ppsOutPulseEnd => Sys2Proof.Machine.execPpsOutPulseEnd s
  | .trigInEdge k rise => Sys2Proof.Machine.execTrigInEdge k rise s
  | .trigInFifoRead k => Sys2Proof.Machine.execTrigInFifoRead k s
  | .ethFrameRx p frame => Sys2Proof.Machine.execEthFrameRx p frame s
  | .arpRequest p target sender => Sys2Proof.Machine.execArpRequest p target sender s
  | .arpReply p d mac => Sys2Proof.Machine.execArpReply p d mac s
  | .neighborSolicitation p target => Sys2Proof.Machine.execNeighborSolicitation p target s
  | .icmpEchoRequest p v6 payload => Sys2Proof.Machine.execIcmpEchoRequest p v6 payload s
  | .nextHopRefresh => Sys2Proof.Machine.execNextHopRefresh s
  | .ptpFrameRx p frame => Sys2Proof.Machine.execPtpFrameRx p frame s
  | .ptpTxGo party cmd => Sys2Proof.Machine.execPtpTxGo party cmd s
  | .ptpTxDone => Sys2Proof.Machine.execPtpTxDone s
  | .ptpRxPop party => Sys2Proof.Machine.execPtpRxPop party s
  | .ptpTxTsRead => Sys2Proof.Machine.execPtpTxTsRead s
  | .ptpFailover => Sys2Proof.Machine.execPtpFailover s
  | .ethLinkChange p up => Sys2Proof.Machine.execEthLinkChange p up s
  | .rrtDataSend d stream => Sys2Proof.Machine.execRrtDataSend d stream s
  | .rrtResend d stream => Sys2Proof.Machine.execRrtResend d stream s
  | .rrtAck d ack => Sys2Proof.Machine.execRrtAck d ack s
  | .rrtFbProbe d => Sys2Proof.Machine.execRrtFbProbe d s
  | .rrtDestDisable d => Sys2Proof.Machine.execRrtDestDisable d s
  | .rrtDAckRead d => Sys2Proof.Machine.execRrtDAckRead d s
  | .fence h => Sys2Proof.Machine.execFence h s
  | .query h item arg dst len => Sys2Proof.Machine.execQuery h item arg dst len s
  | .loadGraph h image len dst replaces => Sys2Proof.Machine.execLoadGraph h image len dst replaces s
  | .unloadGraph h slot => Sys2Proof.Machine.execUnloadGraph h slot s
  | .mapRoles h table => Sys2Proof.Machine.execMapRoles h table s
  | .portConfigWrites h p count pairs => Sys2Proof.Machine.execPortConfigWrites h p count pairs s
  | .portConfigSci h p addr rlen data => Sys2Proof.Machine.execPortConfigSci h p addr rlen data s
  | .portEnable h p => Sys2Proof.Machine.execPortEnable h p s
  | .portDisable h p => Sys2Proof.Machine.execPortDisable h p s
  | .portFlush h p => Sys2Proof.Machine.execPortFlush h p s
  | .setTickChange h period => Sys2Proof.Machine.execSetTickChange h period s
  | .setTickLoad h period origin => Sys2Proof.Machine.execSetTickLoad h period origin s
  | .setQuality h q => Sys2Proof.Machine.execSetQuality h q s
  | .setEnergyCap h cap => Sys2Proof.Machine.execSetEnergyCap h cap s
  | .setPlLimit h dieMask level => Sys2Proof.Machine.execSetPlLimit h dieMask level s
  | .calibSet h mask table => Sys2Proof.Machine.execCalibSet h mask table s
  | .calibLock h mask lock => Sys2Proof.Machine.execCalibLock h mask lock s
  | .actionAdd h out position enc fire width trigger => Sys2Proof.Machine.execActionAdd h out position enc fire width trigger s
  | .actionCancel h id => Sys2Proof.Machine.execActionCancel h id s
  | .ruleSet h first count rules => Sys2Proof.Machine.execRuleSet h first count rules s
  | .extMeas h ts md cd var cid cls clsValid spawn => Sys2Proof.Machine.execExtMeas h ts md cd var cid cls clsValid spawn s
  | .tapConfig h mask shift en => Sys2Proof.Machine.execTapConfig h mask shift en s
  | .assign h kind dest first count => Sys2Proof.Machine.execAssign h kind dest first count s
  | .washDone kind unit => Sys2Proof.Machine.execWashDone kind unit s
  | .washQuery h => Sys2Proof.Machine.execWashQuery h s
  | .rptResume h mask slots => Sys2Proof.Machine.execRptResume h mask slots s
  | .rptDiscard h mask => Sys2Proof.Machine.execRptDiscard h mask s
  | .pkgReset h => Sys2Proof.Machine.execPkgReset h s
  | .doorbell f ring val size32 => Sys2Proof.Machine.execDoorbell f ring val size32 s
  | .ringEnable f ring cfg => Sys2Proof.Machine.execRingEnable f ring cfg s
  | .msixModerationTimer f v => Sys2Proof.Machine.execMsixModerationTimer f v s
  | .hifFCseqRead f => Sys2Proof.Machine.execHifFCseqRead f s
  | .flr f => Sys2Proof.Machine.execFlr f s
  | .flrComplete f => Sys2Proof.Machine.execFlrComplete f s
  | .flrWedgeTimeout f => Sys2Proof.Machine.execFlrWedgeTimeout f s
  | .vfEnableClear => Sys2Proof.Machine.execVfEnableClear s
  | .unmappedAccess f off write => Sys2Proof.Machine.execUnmappedAccess f off write s
  | .offBlockAccess off write => Sys2Proof.Machine.execOffBlockAccess off write s
  | .registerWrite f off val be => Sys2Proof.Machine.execRegisterWrite f off val be s
  | .mailboxGo => Sys2Proof.Machine.execMailboxGo s
  | .version => Sys2Proof.Machine.execVersion s
  | .fptCopy => Sys2Proof.Machine.execFptCopy s
  | .telemetry => Sys2Proof.Machine.execTelemetry s
  | .fwStage sigOk antiRollback => Sys2Proof.Machine.execFwStage sigOk antiRollback s
  | .logRead entries => Sys2Proof.Machine.execLogRead entries s
  | .calStatus => Sys2Proof.Machine.execCalStatus s
  | .mailboxSci => Sys2Proof.Machine.execMailboxSci s
  | .debugUnlock sigOk serial nonce => Sys2Proof.Machine.execDebugUnlock sigOk serial nonce s
  | .mgtWdog => Sys2Proof.Machine.execMgtWdog s
  | .linkEnable l en => Sys2Proof.Machine.execLinkEnable l en s
  | .linkRetrain l => Sys2Proof.Machine.execLinkRetrain l s
  | .linkLockLoss l => Sys2Proof.Machine.execLinkLockLoss l s
  | .trainFrameSend l => Sys2Proof.Machine.execTrainFrameSend l s
  | .train l frame => Sys2Proof.Machine.execTrain l frame s
  | .linkTrainTimeout l => Sys2Proof.Machine.execLinkTrainTimeout l s
  | .dataFrameSend l => Sys2Proof.Machine.execDataFrameSend l s
  | .data l frame crcOk ack cred => Sys2Proof.Machine.execData l frame crcOk ack cred s
  | .nak l seq ack cred => Sys2Proof.Machine.execNak l seq ack cred s
  | .credit l ack cred => Sys2Proof.Machine.execCredit l ack cred s
  | .creditFrameSend l => Sys2Proof.Machine.execCreditFrameSend l s
  | .replayTimeout l => Sys2Proof.Machine.execReplayTimeout l s
  | .ttSend l => Sys2Proof.Machine.execTtSend l s
  | .tt l => Sys2Proof.Machine.execTt l s
  | .advertSend l => Sys2Proof.Machine.execAdvertSend l s
  | .advert l => Sys2Proof.Machine.execAdvert l s
  | .hoOffer l => Sys2Proof.Machine.execHoOffer l s
  | .hoReply l => Sys2Proof.Machine.execHoReply l s
  | .curds l => Sys2Proof.Machine.execCurds l s
  | .linkPairing l => Sys2Proof.Machine.execLinkPairing l s
  | .lnkOfsRead l => Sys2Proof.Machine.execLnkOfsRead l s
  | .powerOnReset => Sys2Proof.Machine.execPowerOnReset s
  | .warmResetStart perst => Sys2Proof.Machine.execWarmResetStart perst s
  | .endpointReset => Sys2Proof.Machine.execEndpointReset s
  | .supplyFault rail => Sys2Proof.Machine.execSupplyFault rail s
  | .resetHoldEnd info => Sys2Proof.Machine.execResetHoldEnd info s
  | .bootGo verified => Sys2Proof.Machine.execBootGo verified s
  | .ready info => Sys2Proof.Machine.execReady info s
  | .computeReset => Sys2Proof.Machine.execComputeReset s
  | .blockReset kind unit => Sys2Proof.Machine.execBlockReset kind unit s
  | .blockResetIdle => Sys2Proof.Machine.execBlockResetIdle s
  | .blockResetTimeout inFlight => Sys2Proof.Machine.execBlockResetTimeout inFlight s
  | .iocRelease mask => Sys2Proof.Machine.execIocRelease mask s
  | .rstTLastRead => Sys2Proof.Machine.execRstTLastRead s
  | .status => Sys2Proof.Machine.execStatus s
  | .loadData bytes pecOk stop => Sys2Proof.Machine.execLoadData bytes pecOk stop s
  | .loadEnd pecOk stop verified => Sys2Proof.Machine.execLoadEnd pecOk stop verified s
  | .sidebandReset key pecOk stop => Sys2Proof.Machine.execSidebandReset key pecOk stop s
  | .dieLost d why => Sys2Proof.Machine.execDieLost d why s
  | .autoComputeReset => Sys2Proof.Machine.execAutoComputeReset s
  | .secRelock => Sys2Proof.Machine.execSecRelock s
  | .secNonceRead => Sys2Proof.Machine.execSecNonceRead s
  | .memRegWrite d k val => Sys2Proof.Machine.execMemRegWrite d k val s
  | .dramUe addr reader unit => Sys2Proof.Machine.execDramUe addr reader unit s
  | .dramScrub d addr correctable => Sys2Proof.Machine.execDramScrub d addr correctable s
  | .memUeAddrRead d => Sys2Proof.Machine.execMemUeAddrRead d s
  | .nvsReinit => Sys2Proof.Machine.execNvsReinit s
  | .nvsReinitRetry => Sys2Proof.Machine.execNvsReinitRetry s
  | .nvmeCompletion reply => Sys2Proof.Machine.execNvmeCompletion reply s
  | .nvmeTimeout => Sys2Proof.Machine.execNvmeTimeout s
  | .nvmeRetry => Sys2Proof.Machine.execNvmeRetry s
  | .superblockWrite => Sys2Proof.Machine.execSuperblockWrite s
  | .nvsGseqRead => Sys2Proof.Machine.execNvsGseqRead s
  | .loadGraphCopyDone f => Sys2Proof.Machine.execLoadGraphCopyDone f s
  | .mirrorBack copy => Sys2Proof.Machine.execMirrorBack copy s
  | .pwrFailNReturn => Sys2Proof.Machine.execPwrFailNReturn s
  | .resetOutNRelease => Sys2Proof.Machine.execResetOutNRelease s
  | .hostCmdReset => Sys2Proof.Machine.execHostCmdReset s
  | .sidebandBusTimeout => Sys2Proof.Machine.execSidebandBusTimeout s
  | .i3cDynamicAddressAssignment addr => Sys2Proof.Machine.execI3cDynamicAddressAssignment addr s
  | .delayReqSend p => Sys2Proof.Machine.execDelayReqSend p s
  | .jtagInstruction ir trst => Sys2Proof.Machine.execJtagInstruction ir trst s

end Sys2Proof.Machine
end

