-- ==== Sys2Proof/Machine/Flags.lean ====
section
/-! DEFINITION. What a read of a register shows: the status fields that the block's state gives (the RO fields of the
register tables), over the stored word. -/

namespace Sys2Proof.Machine

/-- A field that a read shows: its high and low bits and its value. -/
abbrev Shown := Nat × Nat × Nat

/-- A word with fields put over it. -/
def overlay (w : Nat) (l : List Shown) : Nat :=
  l.foldl (fun acc x => acc - bitsN acc x.1 x.2.1 * 2 ^ x.2.1 + x.2.2 % 2 ^ (x.1 + 1 - x.2.1) * 2 ^ x.2.1) w

/-- A flag at one bit. -/
def flagAt (k : Nat) (b : Bool) : Shown := (k, k, b.toNat)

/-- A whole word. -/
def wordShown (v : Int) : List Shown := [(31, 0, toBits 32 v)]

/-- The low or the high word of a 64-bit value. -/
def halfShown (v : Int) (high : Bool) : List Shown := wordShown (if high then v.fdiv (2 ^ 32) else v)

/-- The four bytes of a list from an offset, as one word. -/
def wordOf (b : List Byte) (o : Nat) : List Shown := [(31, 0, leN b o 4)]

namespace Mach

/-! ## Package, reset, security, management (R390, R424 to R443) -/

def glbShown (m : Mach) (off : Nat) : List Shown :=
  match off with
  | 0x000 => [(31, 16, m.gradeId), (15, 8, m.chip.rev)]
  | 0x004 =>
    [flagAt 31 m.rst.ready, (27, 24, m.rst.stage), (23, 20, m.rst.bootErr), (19, 19, m.rst.fwBank), (17, 16, m.chip.bootSel),
     (15, 14, m.chip.clkMode), (13, 12, m.chip.sbAddr), flagAt 11 m.chip.testMode,
     (3, 0, ((List.range 4).map fun d => (m.dieLost d).toNat * 2 ^ d).sum)]
  | 0x010 => wordShown m.rst.gen
  | _ => []

def rstShown (m : Mach) (off : Nat) : List Shown :=
  match off with
  | 0x020 => [flagAt 31 m.rst.compute.isSome, (27, 24, m.rst.compute.getD 0)]
  | 0x030 => [flagAt 31 m.rst.blk.isSome]
  | 0x034 => [flagAt 31 m.rst.blk.isSome]
  | _ => []

def secShown (m : Mach) (off : Nat) : List Shown :=
  match off with
  | 0x000 =>
    [flagAt 31 (!m.rst.unlocked), flagAt 30 m.rst.unlocked, flagAt 29 m.rst.fwVerified, (23, 16, m.chip.keyId), (15, 0, m.chip.rollback)]
  | 0x008 => halfShown m.nonceNow false
  | _ => []

def mgtShown (m : Mach) (off : Nat) : List Shown :=
  match off with
  | 0x000 => [flagAt 31 (m.rst.stage == 9 && m.rst.fwVerified), (6, 0, m.mgt.length)]
  | 0x004 => wordShown m.chip.fwVer
  | _ => []

/-! ## Energy, levels, clocks, temperature (R318, R321, R330) -/

def pwrShown (m : Mach) (off : Nat) : List Shown :=
  if off = 0x004 then [(31, 28, m.shownState), flagAt 3 m.led.overNow, (2, 0, m.led.overRun)] else []

def pwrDieShown (m : Mach) (d : Fin 4) : List Shown :=
  let l := m.lvl.get d
  [(31, 28, l.freq), flagAt 27 l.edge, flagAt 26 l.emerg, (25, 22, min l.limit m.gradePl), (21, 18, l.tl), (17, 14, m.fptCap d.1), (13, 10, l.ledger)]

def clkDieShown (m : Mach) (d : Fin 4) : List Shown :=
  let l := m.lvl.get d
  [(23, 20, l.freq), (19, 16, l.volt), flagAt 15 l.voltEdge, flagAt 14 l.stretch.isSome, flagAt 13 l.raising.isSome]

/-- The readings of the 24 sensors, signed. -/
def temps (m : Mach) : List Int := (List.range 24).map fun k => toSigned 16 (m.g (R.THM_S_T k))

def thmShown (m : Mach) (off : Nat) : List Shown :=
  if off = 0x00C then
    let t := m.temps
    let top := t.foldl max (t.headD 0)
    [(31, 24, (t.findIdx? (· == top)).getD 0), flagAt 16 (decide ((m.g R.THM_CTRL_THROTTLE : Int) * 256 ≤ top)), (15, 0, toBits 16 top)]
  else []

/-! ## Station time, PTP, Ethernet, RRT (R333, R341, R346, R351, R359, R361) -/

def timShown (m : Mach) (off : Nat) : List Shown :=
  let s := m.time.snapPf
  match off with
  | 0x004 => [(31, 30, m.time.quality.code), flagAt 29 m.time.servo.slew.isSome, flagAt 28 m.time.staged.isSome]
  | 0x010 => wordShown s.sec
  | 0x014 => [(15, 0, s.sec / 2 ^ 32)]
  | 0x018 => [(29, 0, s.ns)]
  | 0x01C => wordShown s.t32
  | 0x020 => wordShown s.tn
  | 0x024 => [(15, 0, s.tn / 2 ^ 32)]
  | 0x040 => [flagAt 31 m.time.staged.isSome]
  | 0x0A8 => wordShown m.time.y
  | 0x0AC => wordShown m.time.servo.yAvg
  | 0x0B0 => halfShown m.time.servo.lastTheta false
  | 0x100 => halfShown m.tick.origin false
  | 0x104 => halfShown m.tick.origin true
  | 0x108 => [(9, 0, m.tick.period)]
  | _ => []

def trigInShown (m : Mach) (k : Fin 4) (off : Nat) : List Shown :=
  let q := (m.time.trigIn.get k).fifo
  match off with
  | 0x004 => match q with | (t, _) :: _ => halfShown t false | [] => []
  | 0x008 => wordShown (m.time.trigIn.get k).latchHi.toNat
  | 0x00C => [flagAt 31 (!q.isEmpty), flagAt 30 ((q.head?.map (·.2)).getD false), (4, 0, q.length)]
  | _ => []

/-- The 256 bytes of a receive queue entry (R349). -/
def PtpEntry.image (e : PtpEntry) : List Byte :=
  bytesOf 8 (toBits 64 e.stamp) ++ bytesOf 2 e.len ++
    bytesOf 1 (e.vlan.toNat * 8 + e.trunc.toNat * 4 + e.event.toNat * 2 + e.port % 2) ++ bytesOf 5 0 ++ e.bytes.take 240

def ptpShown (m : Mach) (off elem : Nat) : List Shown :=
  match off with
  | 0x004 => [flagAt 2 m.net.ptpMgt, flagAt 0 m.net.tx.isSome]
  | 0x010 => [flagAt 31 m.net.tx.isSome]
  | 0x020 => halfShown m.net.txStamp false
  | 0x030 => [(13, 8, m.net.rxq.length), (4, 0, m.net.rxHead)]
  | 0x4000 =>
    let place := (elem / 64 + 32 - m.net.rxHead % 32) % 32
    match m.net.rxq[place]? with
    | some e => wordOf (PtpEntry.image e) (elem % 64 * 4)
    | none => []
  | _ => []

/-- Faults of the PHY are not the package's to know: free values. -/
def ethShown (m : Mach) (p : Fin 2) (off : Nat) : List Shown :=
  if off = 0x004 then [(3, 1, Config.phyBits p.1), flagAt 0 (m.net.link.get p)] else []

def rrtDestShown (m : Mach) (d : Fin 8) (off : Nat) : List Shown :=
  let x := m.net.dests.get d
  match off with
  | 0x01C => [flagAt 31 x.down, flagAt 30 x.onFb, flagAt 29 (m.on (R.RRT_D_CTRL_EN d) && !m.hopKnown d (m.destPort d))]
  | 0x024 => wordShown (m.baseOf d (Fin.ofNat 32 (m.g (R.RRT_D_SEL d))))
  | 0x02C => wordShown x.dseq
  | _ => []

/-! ## Host interface (R366, R369, R371, R376, R386 to R389) -/

/-- One byte of an ownership register. -/
def ownByte (m : Mach) (kind unit : Nat) (f : Fin 8) : Nat := (m.washing kind unit).toNat * 128 + f.1

/-- Four units of an ownership register. -/
def ownShown (m : Mach) (kind first : Nat) (who : Nat → Fin 8) : List Shown :=
  (List.range 4).map fun j => (8 * j + 7, 8 * j, m.ownByte kind (first + j) (who (first + j)))

def hifShown (m : Mach) (off elem : Nat) : List Shown :=
  match off with
  | 0x008 => [(7, 4, Config.pcieWidth), (3, 0, Config.pcieSpeed)]
  | 0x00C =>
    let n := (m.own.washes.map (·.count)).sum
    [flagAt 31 (!m.own.washes.isEmpty), (15, 0, satN n 65535)]
  | 0x010 => [(2, 0, m.own.tick.1)]
  | 0x400 => m.ownShown kindPort (4 * elem) (vat m.own.port)
  | 0x420 => m.ownShown kindEngine (4 * elem) (vat m.own.eng)
  | 0x480 => m.ownShown kindMap (4 * elem) (vat m.own.fmap)
  | 0x488 => m.ownShown kindTrig (4 * elem) (vat m.own.trig)
  | 0x490 => m.ownShown kindDest (4 * elem) (vat m.own.rrt)
  | _ => []

def fnStatShown (m : Mach) (f : Fin 8) : List Shown :=
  let x := m.fn.get f
  [(7, 4, ((List.range 4).map fun c => (x.retained.contains c).toNat * 2 ^ c).sum), flagAt 3 x.wedged, flagAt 2 x.flrBusy]

def hifFnShown (m : Mach) (f : Fin 8) (x : RegPlace) : List Shown :=
  let ring := m.ring f (Fin.ofNat 7 x.elem)
  match x.row.off with
  | 0x004 => m.fnStatShown f
  | 0x010 => wordShown (m.fn.get f).cseq
  | 0x10C => wordShown ring.count
  | 0x110 => wordShown ring.host
  | _ => []

/-- HIF_F_STAT of a function, whole. -/
def fnStat (m : Mach) (f : Fin 8) : Nat :=
  overlay ((m.g (R.HIF_F_STAT_UNMAPPED f)) * 256 + m.g (R.HIF_F_STAT_DB_ERR f) * 2 + m.g (R.HIF_F_STAT_CFG_ERR f)) (m.fnStatShown f)

/-! ## Sensor ports and front ends (R77, R79, R82, R85, R114, R115) -/

def ingShown (m : Mach) (p : Fin 16) (off : Nat) : List Shown :=
  let x := m.port.get p
  match off with
  | 0x004 =>
    [(31, 16, fillOf x), flagAt 5 x.running, flagAt 4 x.flushPend, flagAt 3 (m.fcState p), flagAt 2 x.fit.valid, flagAt 1 (!x.fit.valid),
     flagAt 0 x.rx.isSome]
  | 0x008 => [(31, 16, (x.vat.filter (·.roi)).length), (15, 0, (x.vat.filter fun v => !v.roi).length)]
  | 0x308 => [flagAt 31 x.sci.isSome]
  | _ => []

def fmapStatShown (m : Mach) : List Shown := [(15, 8, ((List.range 8).map fun k => (m.mapInUse k).toNat * 2 ^ k).sum)]

def feShown (m : Mach) (p : Fin 16) (off : Nat) : List Shown :=
  if off = 0x004 then
    [(31, 28, (m.fn.get (m.own.port.get p)).quality.cur), flagAt 2 (m.fe.get p).learning.isSome, flagAt 1 (m.fe.get p).warming]
  else []

/-! ## Engines (R141, R144) -/

def engDieShown (m : Mach) (d : Fin 4) (off : Nat) : List Shown :=
  let l := m.lvl.get d
  if off = 0x004 then
    [(31, 16, l.holdLeft), (15, 8, l.trips), flagAt 1 (m.edgeElig d (m.levelOf d) m.tick.tn), flagAt 0 l.edge]
  else []

def tleShown (m : Mach) (i : Fin 8) (off : Nat) : List Shown :=
  if off = 0 then [(31, 16, (vat m.tleq (i.1 / 2)).length), flagAt 0 (m.tle.get i).isSome] else []

/-- The function, epoch and role that bind an engine under one of the two maps kept. -/
def boundAs (m : Mach) (e : Nat) (pick : Versioned RoleMap → RoleMap) : Option (Nat × Nat × Nat) :=
  (List.finRange 8).findSome? fun (f : Fin 8) =>
    let r := pick (m.fn.get f).roles
    (r.binds.find? fun b => b.2 == e).map fun b => (f.1, r.epoch, b.1)

/-- The binding of an engine as ENG_STAT and ENG_PREV show it. With no role bound the table does not say of which function EPOCH is:
the model reads 0 (DESIGN CHOICE, log 80). -/
def boundShown (b : Option (Nat × Nat × Nat)) : List Shown :=
  match b with | some (f, ep, role) => [(31, 24, ep), (23, 16, role), (15, 13, f), flagAt 12 true] | none => []

def engShown (m : Mach) (e : Fin 72) (off : Nat) : List Shown :=
  let x := m.eng.get e
  match off with
  | 0x004 => m.boundAs e.1 (fun v => v.at_ m.tick.tn) |> fun b => boundShown b ++ [flagAt 11 x.inReset, (6, 0, x.queue.length)]
  | 0x008 => boundShown (m.boundAs e.1 fun v => v.prev)
  | _ => []

/-! ## Motion inputs and fusion (R202, R203, R210, R217, R253) -/

def encShown (m : Mach) (n : Fin 4) (off : Nat) : List Shown :=
  let x := m.enc.get n
  match off with
  | 0x004 => [flagAt 4 (m.mdValid n), flagAt 0 (x.pendRebase || x.pendRescale)]
  | 0x024 => halfShown x.set.cb false
  | 0x028 => halfShown x.set.cb true
  | _ => []

def imuShown (m : Mach) (i : Fin 4) (off : Nat) : List Shown :=
  let x := m.imu.get i
  if off = 0x018 then
    [flagAt 1 (!x.chans.toList.any fun (c : ImuChan) => !c.outs.isEmpty), flagAt 0 x.busy]
  else []

/-- The response and the tap of a word of MOT_FIR_COEF (R213's table). -/
def firPlace (j : Nat) : Nat × Nat :=
  if j < 31 then (0, j) else if j < 94 then (1, j - 31) else if j < 221 then (2, j - 94) else if j < 476 then (3, j - 221)
  else if j < 987 then (4, j - 476) else if j < 1002 then (5, j - 987) else if j < 1017 then (6, j - 1002) else (7, j - 1017)

def firShown (elem : Nat) : List Shown := let (f, j) := firPlace elem; wordShown (firCoef f j)

def fusShown (m : Mach) (off : Nat) : List Shown :=
  if off = 0x004 then [flagAt 1 m.fus.solving.isSome, flagAt 0 (m.mdValid m.webEnc)] else []

/-! ## Reports, actions, store, memory (R272 to R279, R293, R299, R448, R463) -/

/-- The 32 bytes of a rule (R293). -/
def Rule.image (r : Rule) : List Byte :=
  bytesOf 1 (r.valid.toNat * 128 + r.src % 4 * 32 + r.kind.toNat * 16 + r.out % 8 * 2 + r.policy.toNat) ++ bytesOf 1 (r.causes % 16) ++
    bytesOf 2 r.mtch ++ bytesOf 2 r.width ++ bytesOf 2 0 ++ bytesOf 4 (toBits 32 r.offset) ++ bytesOf 4 (toBits 32 r.cdMin) ++
    bytesOf 4 (toBits 32 r.cdMax) ++ bytesOf 4 r.minLen ++ bytesOf 8 0

def actShown (m : Mach) (off elem : Nat) : List Shown :=
  match off with
  | 0x008 => [(12, 0, m.actionsInUse)]
  | 0x1000 =>
    match (m.rulesAt (Fin.ofNat 8 (elem / 256)) m.tick.tn)[elem / 8 % 32]? with
    | some r => wordOf (Rule.image r) (elem % 8 * 4)
    | none => []
  | _ => []

/-- A class of records is refused for want of hold-up energy (R278). -/
def refusing (m : Mach) (cls : Nat) : Bool :=
  m.holdupValid && decide (m.g R.JNL_HU_E_E <
    m.holdCost (m.uncommitted + 64 + sFin + 1024 * (m.g R.JNL_HU_RESKEEP_R + m.g R.JNL_HU_RESP2_R + (if cls = 3 then m.g R.JNL_HU_RESP3_R else 0))))

/-- MIRROR_LOST: a copy is missing, or MIRROR_EN = 0 (R272). -/
def mirrorLost (m : Mach) : Bool := !m.on R.JNL_CTRL_MIRROR_EN || m.jnl.copies.toList.any (!·)

def jnlShown (m : Mach) (off : Nat) : List Shown :=
  match off with
  | 0x004 =>
    [flagAt 5 m.jnl.pf.isSome, flagAt 4 (m.refusing 2), flagAt 3 (m.refusing 3), flagAt 2 (m.nvs.state == 2), flagAt 1 m.mirrorLost,
     flagAt 0 m.holdupValid]
  | 0x048 => wordShown (m.holdCost (m.uncommitted + sFin))
  | 0x04C => wordShown m.uncommitted
  | 0x058 => [(15, 0, m.jnl.epoch)]
  | _ => []

def memShown (m : Mach) (d : Nat) (off : Nat) : List Shown :=
  if off = 0x040 then [flagAt 0 (m.own.washes.any fun w => w.kind == kindRegion && w.unit / 16 == d)] else []

def linkShown (m : Mach) (l : Fin 4) (off : Nat) : List Shown :=
  let x := m.link.get l
  match off with
  | 0x004 =>
    [(31, 28, x.state), (27, 26, x.level), flagAt 8 x.loop, flagAt 7 x.dup, flagAt 6 x.theta.isNone, flagAt 5 (m.hoRefuse l),
     flagAt 4 x.tickCfg, flagAt 3 x.skew]
  | 0x028 => [(31, 24, x.peerPkg), (23, 20, x.peerLevel)]
  | 0x02C => wordShown x.peerFw
  | _ => []

def nvsShown (m : Mach) (off : Nat) : List Shown :=
  match off with
  | 0x004 => [(31, 28, m.nvs.state), (27, 24, m.nvs.why)]
  | 0x020 => wordShown m.liveUnits
  | _ => []

/-! ## The word that a read shows -/

/-- The fields that the state gives a register. -/
def shown (m : Mach) (x : RegPlace) : List Shown :=
  let o := x.row.off
  match x.base with
  | 0x000000 => m.glbShown o
  | 0x010000 => m.rstShown o
  | 0x020000 => m.pwrShown o
  | 0x020100 => m.pwrDieShown (Fin.ofNat 4 x.unit)
  | 0x030000 => if o = 0x004 then m.clkDieShown (Fin.ofNat 4 x.unit) else []
  | 0x040000 => m.timShown o
  | 0x040200 => if o = 0 then [flagAt 30 (vat m.time.trigOut x.unit).armed] else []
  | 0x040300 => m.trigInShown (Fin.ofNat 4 x.unit) o
  | 0x050000 => m.ptpShown o x.elem
  | 0x060000 => m.ethShown (Fin.ofNat 2 x.unit) o
  | 0x064200 => m.rrtDestShown (Fin.ofNat 8 x.unit) o
  | 0x080000 => m.hifShown o x.elem
  | 0x081000 => m.hifFnShown 0 x
  | 0x1010000 => m.hifFnShown (Fin.ofNat 8 (x.unit + 1)) x
  | 0x082000 => [(8, 0, m.fnStat (Fin.ofNat 8 x.unit))]
  | 0x090000 => m.secShown o
  | 0x0A0000 => m.mgtShown o
  | 0x0B0000 => if o = 0 then [(4, 0, m.rst.held.toNat)] else []
  | 0x0C0000 => if o = 0 then [(6, 0, m.rst.sbDyn.getD (0x58 + m.chip.sbAddr))] else []
  | 0x0D0000 => m.thmShown o
  | 0x100000 => m.ingShown (Fin.ofNat 16 x.unit) o
  | 0x120800 => m.fmapStatShown
  | 0x140000 => m.feShown (Fin.ofNat 16 x.unit) o
  | 0x180000 => m.engDieShown (Fin.ofNat 4 x.unit) o
  | 0x180800 => m.tleShown (Fin.ofNat 8 x.unit) o
  | 0x181000 => m.engShown (Fin.ofNat 72 x.unit) o
  | 0x1C0000 => m.encShown (Fin.ofNat 4 x.unit) o
  | 0x1C1000 => m.imuShown (Fin.ofNat 4 x.unit) o
  | 0x1C4000 => firShown x.elem
  | 0x1D0000 => m.fusShown o
  | 0x1E0000 => m.actShown o x.elem
  | 0x1F0000 => m.jnlShown o
  | 0x200000 => m.memShown x.unit o
  | 0x208000 => if o = 0x008 then [(16, 0, m.rst.scGood.toNat)] else []
  | 0x240000 => m.linkShown (Fin.ofNat 4 x.unit) o
  | 0x250000 => m.nvsShown o
  | 0x400000 => wordOf m.fptBytes (4 * x.elem)
  | _ => []

/-- The value of a register as a read shows it; WO fields read 0 (R9). -/
def regValue (m : Mach) (x : RegPlace) : Word :=
  BitVec.ofNat 32 (overlay (m.rd x.key &&& ~~~(BitVec.ofNat 32 x.row.wo)).toNat (m.shown x))

/-- What a function's read of a word returns, without the read's side effects: 0 where it is unmapped, 0x0FF0_DEAD where
the block is switched off (R28, R389, R485). -/
def readValue (m : Mach) (f : Fin 8) (off : Nat) : Word :=
  match barPlace f off with
  | none => 0
  | some x => if m.placeOff x then 0x0FF0DEAD#32 else m.regValue x

end Mach

end Sys2Proof.Machine
end

