-- ==== Sys2Proof/WellFormed.lean ====
section
/-! DEFINITION. When a command is well formed: every operand fits the field that carries it. -/

namespace Sys2Proof

/-- A number fits w bits. -/
def fits (w v : Nat) : Bool := decide (v < 2 ^ w)

/-- An integer fits w bits in two's complement (R8). -/
def fitsI (w : Nat) (v : Int) : Bool := decide (-(2 ^ (w - 1) : Int) ≤ v) && decide (v < 2 ^ (w - 1))

/-- A CSI-2 header: virtual channel 0 to 15, 6-bit data type, 16-bit word count (R58). -/
def Csi2Header.wf (h : Csi2Header) : Bool := fits 4 h.vc && fits 6 h.dt && fits 16 h.wc

/-- The header of a command entry: 16-bit CTAG, 48-bit TN_EFF (R377). -/
def CmdHdr.wf (h : CmdHdr) : Bool := fits 16 h.ctag && fits 48 h.tnEff

/-- A pair of an RPT_RESUME: an RSN count of 48 bits (R256). -/
def SlotHdr.wf (x : SlotHdr) : Bool := fits 8 x.typ && fits 64 x.rsn

/-- A pair of a PORT_CONFIG list: a 32-bit offset (R380). -/
def pairWf (x : Nat × BitVec 32) : Bool := fits 32 x.1

/-- A row of a CALIB_SET table: nine signed 64-bit entries and a 16-bit VERSION (R380). -/
def homWf (x : List Int × Nat) : Bool := x.1.length == 9 && x.1.all (fitsI 64) && fits 16 x.2

/-- A received frame: 16-bit tags, a 16-bit port, an echo payload that the frame holds (R347, R348). -/
def EthFrame.wf (f : EthFrame) : Bool :=
  f.tags.all (fits 16) &&
    match f.body with
    | .udp p => fits 16 p
    | .icmpEcho n => decide (n ≤ f.len)
    | _ => true

/-- A PTP frame: 4-bit message type, 8-bit domain, 64-bit source, 16-bit sequence, bytes no longer than the frame (R349). -/
def PtpFrame.wf (f : PtpFrame) : Bool :=
  fits 4 f.msgType && fits 8 f.domain && decide (f.transport < 3) && fits 64 f.source && fits 16 f.seq && decide (f.bytes.length ≤ f.len)

/-- An NVMe reply: block size, units and serial numbers as 64-bit numbers (R453, R454). -/
def NvmeReply.wf : NvmeReply → Bool
  | .identify b u s _ => fits 64 b && fits 64 u && fits 64 s
  | _ => true

/-- A self-test report: levels PL0 to PL7, one for each engine (R437, R438). -/
def DieTest.wf (t : DieTest) : Bool := (t.why == 1 || t.why == 2) && t.levels.length == 18 && t.levels.all (fits 3)

/-- What the bring-up finds: two-bit straps, good die reports (R421, R437). -/
def BootInfo.wf (i : BootInfo) : Bool :=
  fits 2 i.bootSel && fits 2 i.clkMode && fits 2 i.sbAddr && i.dies.toList.all (·.wf)

/-- A TRAIN frame: 4-bit levels, credits of four lanes, 8-bit package, 16-bit sequence (R393). -/
def TrainFrame.wf (f : TrainFrame) : Bool :=
  fits 4 f.levelMax && fits 4 f.levelMin && f.credits.length == 4 && fits 8 f.pkg && fits 16 f.expect

/-- A DATA frame: 16-bit sequence, a payload of whole words, at most 59 (R395). -/
def LinkFrame.wf (f : LinkFrame) : Bool := fits 16 f.seq && f.payload.length % 4 == 0 && decide (f.payload.length ≤ 236)

/-- ACK and CRED of a frame: a 16-bit sequence, four 4-bit credits (R395). -/
def ackWf (ack : Nat) (cred : List Nat) : Bool := fits 16 ack && cred.length == 4 && cred.all (fits 4)

/-- An RRT ACK datagram: a 64-bit RSN, a 32-bit DSEQ, a 32-byte header, a 16-byte tag when AUTH is set (R354). -/
def RrtAckPkt.wf (a : RrtAckPkt) : Bool :=
  fits 64 a.rsn && fits 32 a.dseq && (!a.auth || (a.header.length == 32 && a.tag.length == 16))

/-- Ring settings: SZ of 4 bits, a slot's count of 48 bits (R370, R284). -/
def RingCfg.wf (c : RingCfg) : Bool := fits 5 c.sz && c.slot.wf

/-- Every operand fits its field. -/
def Instr.wf (i : Instr) : Bool :=
  match i with
  | .csi2LongPacket _ hdr payload _ _ | .csi2Raw8Packet _ hdr payload _ => hdr.wf && decide (payload.length ≤ hdr.wc)
  | .csi2ShortPacket _ hdr => hdr.wf
  | .sciGo _ _ addr wlen rlen => fits 7 addr && fits 6 wlen && fits 6 rlen
  | .sciTransferDone _ result got => fits 3 result && decide (got.length ≤ 32)
  | .streamPrefetch _ sid => fits 8 sid
  | .mdQueryAnswer _ t => fitsI 64 t
  | .imuTransferDone _ bytes => decide (bytes.length ≤ 255)
  | .holdupSample mv => fits 16 mv
  | .pmbusTelemetry _ mw => match mw with | some v => fits 32 v | none => true
  | .thermalThrottle _ reading | .throttleRepeat _ reading => fitsI 16 reading
  | .wake source unit => fits 4 source && fits 8 unit
  | .ethFrameRx _ frame => frame.wf
  | .arpRequest _ _ sender => sender.length == 10
  | .arpReply _ _ mac => mac.length == 6
  | .neighborSolicitation _ target => target.length == 16
  | .icmpEchoRequest _ _ payload => fits 16 payload
  | .ptpFrameRx _ frame => frame.wf
  | .rrtAck _ ack => ack.wf
  | .fence h | .washQuery h | .pkgReset h | .portEnable h _ | .portDisable h _ | .portFlush h _ => h.wf
  | .query h item arg dst len => h.wf && fits 8 item && fits 32 arg && fits 64 dst && fits 32 len
  | .loadGraph h image len dst replaces =>
    h.wf && fits 40 len && fits 40 dst && decide (image.length ≤ len) && (match replaces with | some s => fits 4 s | none => true)
  | .unloadGraph h slot => h.wf && fits 4 slot
  | .mapRoles h table => h.wf && decide (0 < table.length)
  | .portConfigWrites h _ count pairs => h.wf && fits 16 count && pairs.all pairWf
  | .portConfigSci h _ addr rlen put => h.wf && fits 7 addr && decide (rlen ≤ 63) && decide (put.length ≤ 63)
  | .setTickChange h period => h.wf && fits 10 period
  | .setTickLoad h period origin => h.wf && fits 10 period && fitsI 64 origin
  | .setQuality h q => h.wf && fits 4 q
  | .setEnergyCap h cap => h.wf && fits 16 cap
  | .setPlLimit h dieMask level => h.wf && fits 4 dieMask && fits 3 level
  | .calibSet h mask table => h.wf && fits 16 mask && table.all homWf
  | .calibLock h mask _ => h.wf && fits 16 mask
  | .actionAdd h _ _ _ _ width trigger => h.wf && fits 16 width && fitsI 64 trigger
  | .actionCancel h id => h.wf && fits 32 id
  | .ruleSet h first count _ => h.wf && fits 5 first && fits 6 count
  | .extMeas h ts md cd var cid cls _ _ =>
    h.wf && fitsI 64 ts && fitsI 64 md && fitsI 32 cd && fits 32 var && fits 32 cid && fits 4 cls
  | .tapConfig h mask shift _ => h.wf && fits 16 mask && fits 5 shift
  | .assign h kind _ first count => h.wf && fits 3 kind && fits 32 first && fits 32 count
  | .rptResume h mask slots => h.wf && fits 4 mask && slots.all SlotHdr.wf
  | .rptDiscard h mask => h.wf && fits 4 mask
  | .ringEnable _ _ cfg => cfg.wf
  | .unmappedAccess _ off _ | .registerWrite _ off _ _ => fits 32 off
  | .offBlockAccess off _ => fits 21 off
  | .fwStage _ antiRollback => fits 16 antiRollback
  | .debugUnlock _ serial nonce => fits 64 serial && fits 64 nonce
  | .logRead entries => entries.all (fitsI 64)
  | .train _ frame => frame.wf
  | .data _ frame _ ack cred => frame.wf && ackWf ack cred
  | .nak _ seq ack cred => fits 16 seq && ackWf ack cred
  | .credit _ ack cred => ackWf ack cred
  | .supplyFault rail => fits 6 rail
  | .resetHoldEnd info | .ready info => info.wf
  | .blockReset kind unit => fits 4 kind && fits 8 unit
  | .blockResetTimeout inFlight => fits 32 inFlight
  | .loadData bytes _ _ => decide (bytes.length ≤ 32)
  | .sidebandReset key _ _ => fits 16 key
  | .dieLost _ why => fits 4 why
  | .dramUe addr _ _ | .dramScrub _ addr _ => fits 36 addr
  | .nvmeCompletion reply => reply.wf
  | .i3cDynamicAddressAssignment addr => fits 7 addr
  | .washDone kind unit => fits 4 kind && fits 18 unit
  | .tickBoundary | .curdGridClose | .admission | .patchCut .. | .tickDeadline | .tickWdog | .packetTimeout .. | .syncEdge ..
  | .syncPulseEnd .. | .fitLost .. | .flushApply .. | .portStop .. | .ingCtrlEn .. | .ingCtrlDisable .. | .ingCtrlFlush ..
  | .sciTimeout .. | .ingFitRateRead .. | .feEvent .. | .agerSweepStart .. | .agerSweepEnd .. | .surfaceZeroDone ..
  | .feCtrlLearn .. | .feCtrlHotApply .. | .learnEnd .. | .descriptorStart .. | .descriptorComplete .. | .tleRequestStart ..
  | .tleRequestDone .. | .edgeError .. | .engSrst .. | .engResetDone .. | .engTripClear .. | .populationPhase ..
  | .spikeMessage .. | .roleLoadDone .. | .encCountEdge .. | .encIndex .. | .encCapture | .motEncEn .. | .motEncRebase ..
  | .motEncRescale .. | .motEncPosRead .. | .motEncIdxRead .. | .imuDrdy .. | .imuTimeout .. | .motImuEn .. | .motImuOutRead ..
  | .fusionTick | .hoOfferRepeat | .calIntervalEnd | .calSolveDone | .fusPHRead .. | .reportDelivery .. | .commitGroupForm
  | .commitGroupDurable | .powerFail | .finalCommitDone | .pwrRecoverExpired | .actionTriggerTime | .actionTriggerPosition
  | .actionPulseEnd .. | .actCtrlEn .. | .jnlFRsnRead .. | .avsVoltageReached .. | .avsTimeout .. | .clkManualWrite ..
  | .droopDetected .. | .droopRecovered .. | .thermalTlRise .. | .thermalTrip .. | .s2Entry | .s2PowerDown | .s3Entry
  | .pwrSleepGoS3 | .pwrWakeTRead | .timSnap .. | .stagedStepGo .. | .stagedStepCancel | .stagedStepApply | .servoOffsetWrite ..
  | .servoEnWrite .. | .ppsInEdge | .holdoverTimeout | .slewEnd | .timSrvLastRead | .trigOutCtrlWrite .. | .trigOutPulseStart ..
  | .trigOutPositionPulse .. | .trigOutPulseEnd .. | .ppsOutPulse | .ppsOutPulseEnd | .trigInEdge .. | .trigInFifoRead ..
  | .nextHopRefresh | .ptpTxGo .. | .ptpTxDone | .ptpRxPop .. | .ptpTxTsRead | .ptpFailover | .ethLinkChange .. | .rrtDataSend ..
  | .rrtResend .. | .rrtFbProbe .. | .rrtDestDisable .. | .rrtDAckRead .. | .doorbell .. | .msixModerationTimer .. | .hifFCseqRead ..
  | .flr .. | .flrComplete .. | .flrWedgeTimeout .. | .vfEnableClear | .mailboxGo | .version | .fptCopy | .telemetry | .calStatus
  | .mailboxSci | .mgtWdog | .linkEnable .. | .linkRetrain .. | .linkLockLoss .. | .trainFrameSend .. | .linkTrainTimeout ..
  | .dataFrameSend .. | .creditFrameSend .. | .replayTimeout .. | .ttSend .. | .tt .. | .advertSend .. | .advert .. | .hoOffer ..
  | .hoReply .. | .curds .. | .linkPairing .. | .lnkOfsRead .. | .powerOnReset | .warmResetStart .. | .endpointReset | .bootGo ..
  | .computeReset | .blockResetIdle | .iocRelease .. | .rstTLastRead | .status | .loadEnd .. | .autoComputeReset | .secRelock
  | .secNonceRead | .memRegWrite .. | .memUeAddrRead .. | .nvsReinit | .nvsReinitRetry | .nvmeTimeout | .nvmeRetry
  | .superblockWrite | .nvsGseqRead | .loadGraphCopyDone .. | .mirrorBack .. | .pwrFailNReturn | .resetOutNRelease | .hostCmdReset
  | .sidebandBusTimeout | .delayReqSend .. | .jtagInstruction .. => true

end Sys2Proof
end

