-- ==== Sys2Proof/Safety.lean ====
section
/-! DEFINITION. The terms that statements are made in: a command that runs, the parts of State, what stays unchanged, and the
invariants. -/

namespace Sys2Proof.Machine

/-- The parts of the package's state, one for each field. -/
inductive Part where
  | chip | regs | time | tick | port | fe | eng | tleq | tle | heldDesc | patchNext
  | pops | spikes | images | enc | imu | fus | jnl | nvs | led | lvl | sleep
  | fn | own | mgt | mgtSci | net | link | rst | dram | cache | ueLines | draws | out
deriving DecidableEq, Repr

/-- A part is the same in two states. -/
def Part.same (p : Part) (a b : Mach) : Prop :=
  match p with
  | .chip => b.chip = a.chip
  | .regs => b.regs = a.regs
  | .time => b.time = a.time
  | .tick => b.tick = a.tick
  | .port => b.port = a.port
  | .fe => b.fe = a.fe
  | .eng => b.eng = a.eng
  | .tleq => b.tleq = a.tleq
  | .tle => b.tle = a.tle
  | .heldDesc => b.heldDesc = a.heldDesc
  | .patchNext => b.patchNext = a.patchNext
  | .pops => b.pops = a.pops
  | .spikes => b.spikes = a.spikes
  | .images => b.images = a.images
  | .enc => b.enc = a.enc
  | .imu => b.imu = a.imu
  | .fus => b.fus = a.fus
  | .jnl => b.jnl = a.jnl
  | .nvs => b.nvs = a.nvs
  | .led => b.led = a.led
  | .lvl => b.lvl = a.lvl
  | .sleep => b.sleep = a.sleep
  | .fn => b.fn = a.fn
  | .own => b.own = a.own
  | .mgt => b.mgt = a.mgt
  | .mgtSci => b.mgtSci = a.mgtSci
  | .net => b.net = a.net
  | .link => b.link = a.link
  | .rst => b.rst = a.rst
  | .dram => b.dram = a.dram
  | .cache => b.cache = a.cache
  | .ueLines => b.ueLines = a.ueLines
  | .draws => b.draws = a.draws
  | .out => b.out = a.out

/-- Everything but the named parts is unchanged. -/
def OnlyIn (l : List Part) (a b : Mach) : Prop := ∀ p : Part, p ∉ l → p.same a b

/-- Every register but those at the named offsets reads as before. -/
def RegsBut (l : List Nat) (a b : Mach) : Prop := ∀ off : Nat, off ∉ l → b.rd off = a.rd off

/-- Every register outside the offsets [lo, hi) reads as before. -/
def RegsOutside (lo hi : Nat) (a b : Mach) : Prop := ∀ off : Nat, off < lo ∨ hi ≤ off → b.rd off = a.rd off

/-- The memories are in their one canonical form: the register file, DRAM and every engine's SRAM. -/
def Canonical (m : Mach) : Prop :=
  Tab.wf regReset m.regs = true ∧ Mem.wf m.dram = true ∧ ∀ e : Fin 72, Mem.wf (m.eng.get e).sram = true

/-- A package warm reset with a cause has begun (R24, R412 to R417, R433): every function block is as its reset leaves it, what
the AON island, retention SRAM, DRAM and the store hold stays; a quality that falls to HOLDOVER adds its TIME_STATUS record (R339). -/
def Warmed (code : Nat) (a b : Mach) : Prop :=
  b.rst.hold = some (.warm code) ∧ b.rst.holdAt = a.elapsed ∧ b.rst.outLow = true ∧ b.rst.ready = false ∧ b.rst.stage = 0 ∧
  b.rst.held = 0x1F ∧ b.rst.unlocked = false ∧ b.rst.nonce = a.rst.nonce + 1 ∧ b.rst.compute = none ∧ b.rst.blk = none ∧
  b.rst.dies = a.rst.dies ∧ b.rst.tLast = a.time.n ∧
  b.g R.RST_CAUSE_LAST_CODE = code ∧ b.g R.RST_WARM_COUNT = (a.g R.RST_WARM_COUNT + 1) % 2 ^ 32 ∧
  (∀ off, Mach.aonReg off = true →
    off ∉ [R.RST_CAUSE_LAST_CODE.a, R.RST_CAUSE_STICKY_CAUSES.a, R.RST_WARM_COUNT.a, R.IOC_STAT_TRUNC_MASK.a] → b.rd off = a.rd off) ∧
  b.time.n = a.time.n ∧ b.time.f = a.time.f ∧ b.time.y = a.time.y ∧ b.time.stepSum = a.time.stepSum ∧
  b.tick.origin = a.tick.origin ∧ b.tick.period = a.tick.period ∧ b.tick.tn = a.tick.tn ∧ b.tick.start = a.tick.start ∧
  b.tick.pending = [] ∧ b.tick.wdogArmed = false ∧ b.tick.wdogCount = 0 ∧ (∀ x ∈ b.tick.accts, x.works = false) ∧
  b.time.quality = (if a.time.quality = .free then .free else .holdover) ∧
  (a.time.quality = .free ∨ a.time.quality = .holdover →
    b.jnl.recs = a.jnl.recs ∧ b.jnl.next = a.jnl.next ∧ b.jnl.copies = a.jnl.copies ∧ b.jnl.slots = a.jnl.slots) ∧
  b.jnl.epoch = a.jnl.epoch ∧ b.jnl.actions = a.jnl.actions ∧ b.jnl.delivery = a.jnl.delivery ∧ b.jnl.pf = none ∧ b.cache = {} ∧
  b.nvs.log = a.nvs.log ∧ b.nvs.snap = a.nvs.snap ∧ b.nvs.state = 0 ∧ b.dram = a.dram ∧ b.ueLines = a.ueLines ∧ b.chip = a.chip ∧
  (∀ p : Fin 16, b.port.get p = {} ∧ b.fe.get p = {}) ∧ (∀ e : Fin 72, b.eng.get e = {}) ∧ (∀ n : Fin 4, b.enc.get n = {} ∧ b.imu.get n = {}) ∧
  b.fus = {} ∧ b.images = [] ∧ b.pops = [] ∧ b.spikes = [] ∧ b.led = {} ∧ b.net = {} ∧ (∀ l : Fin 4, b.link.get l = {}) ∧ b.own = {} ∧ b.mgt = [] ∧
  b.sleep.state = 0 ∧
  ∀ f : Fin 8, (b.fn.get f).cseq = (a.fn.get f).cseq ∧ (b.fn.get f).roles.cur.binds = [] ∧ (b.fn.get f).openCmds = [] ∧
    ∀ r : Fin 7, b.ring f r = a.ring f r ∧ b.ringEn f r = false

/-- A command runs: it answers a next state, the queue of waiting commands is as it was, and the package meets P. -/
def Does (c : Instr) (s : State) (P : Mach → Prop) : Prop :=
  ∃ t : State, exec c s = .next t ∧ t.pending = s.pending ∧ P t.toMach

/-- A command runs and changes nothing. -/
def Idles (c : Instr) (s : State) : Prop := exec c s = .next s

/-- What one fetch of a function's CMD ring changes (R376). -/
def Fetches (h : CmdHdr) (a b : Mach) : Prop :=
  (b.ring h.fn 0).count = ((a.ring h.fn 0).count + 1) % 2 ^ 32 ∧ (b.fn.get h.fn).cseq = (a.fn.get h.fn).cseq + 1 ∧
  b.g R.HIF_CMD_FETCHED = (a.g R.HIF_CMD_FETCHED + 1) % 2 ^ 32

/-- The first completion of the command that a function's ring brings next: where the CPL ring stands, with the next CSEQ (R371,
R376, R382). -/
def cplOf (h : CmdHdr) (op status d10 d18 : Nat) (a : Mach) : Out :=
  let phase := Mach.phaseOf (a.ringSize h.fn 1) (a.ring h.fn 1).count
  let e : Cpl := { op := op, ctag := h.ctag, status := status, result := 0, cseq := (a.fn.get h.fn).cseq, d10 := d10, d18 := d18 }
  .cpl h.fn ((a.ring h.fn 1).count % a.ringSize h.fn 1) phase e (e.bytes phase)

/-- A command is fetched and rejected with a status: it has no other effect (R378). -/
def Rejects (c : Instr) (h : CmdHdr) (op status : Nat) (s : State) : Prop :=
  Does c s fun t =>
    Fetches h s.toMach t ∧ cplOf h op status 0 0 s.toMach ∈ t.out ∧ t.g R.HIF_CMD_REJECTED = (s.g R.HIF_CMD_REJECTED + 1) % 2 ^ 32 ∧
    RegsBut [R.HIF_CMD_FETCHED.a, R.HIF_CMD_REJECTED.a] s.toMach t ∧ (t.fn.get h.fn).openCmds = (s.fn.get h.fn).openCmds ∧
    (∀ g : Fin 8, g ≠ h.fn → t.fn.get g = s.fn.get g) ∧ t.jnl.recs = s.jnl.recs ∧ t.jnl.actions = s.jnl.actions ∧
    t.jnl.rules = s.jnl.rules ∧ t.sleep.state = s.sleep.state ∧ OnlyIn [.regs, .jnl, .sleep, .fn, .out] s.toMach t

/-- A command is fetched and accepted with what its first completion carries, and the package meets P (R376, R379). -/
def Accepts (c : Instr) (h : CmdHdr) (op d10 d18 : Nat) (s : State) (P : Mach → Prop) : Prop :=
  Does c s fun t => Fetches h s.toMach t ∧ cplOf h op St.accepted d10 d18 s.toMach ∈ t.out ∧
    t.g R.HIF_CMD_REJECTED = s.g R.HIF_CMD_REJECTED ∧ P t

/-- No command is lost, added or put out of order: the queue of a state reached from s in k steps. -/
def Consumed (k : Nat) (s t : State) : Prop := t.pending = s.pending.drop k

/-- A port after a packet header: what was written since the last one is in force, and the watermarks have judged FILL (R82, R85). -/
def Mach.headerPort (m : Mach) (p : Fin 16) : Port :=
  let x := m.port.get p
  { x with inForce := [], wmFc := if m.g (R.ING_WM_HWM p) ≤ fillOf x then true else if fillOf x ≤ m.g (R.ING_WM_LWM p) then false else x.wmFc }

/-- The package is awake and not on its way to S2: a wake source that arrives changes nothing (R325, R327). -/
def Mach.Awake (m : Mach) : Prop := m.sleep.state = 0 ∧ m.sleep.entering = none

/-- What a command changes that is a wake source for S2 alone (R327): awake or in S3 the named parts, and from S2 the package wakes. -/
def Stirred (l : List Part) (a b : Mach) : Prop :=
  (a.Awake ∨ a.sleep.state = 3 → OnlyIn l a b) ∧ (a.sleep.state = 2 → b.sleep.state = 0 ∧ b.sleep.waking = true) ∧
  OnlyIn ([.regs, .tick, .port, .fe, .eng, .fus, .sleep, .link] ++ l) a b

/-- Every waiting command is well formed. -/
def QueueWf (s : State) : Prop := ∀ c ∈ s.pending, c.wf = true

/-- The machine goes on: k steps answer a state. -/
def Runs (k : Nat) (s : State) : Prop := ∃ t : State, core.run k s = .next t

end Sys2Proof.Machine
end

