-- ==== Sys2Proof/Certificates/Slice0/Obligations.lean ====
section
/-! DEFINITION. The statements for the provers. Every statement says what a command does: that it answers a next state, what
that state holds, and what it leaves unchanged. -/

open Sys2Proof Sys2Proof.Machine

/-! ## The queue, the memories and the state after reset -/

/-- The queue of waiting commands is first in, first out; what an empty queue brings is the model's own choice (log entry 2). -/
def Obligations.StepRunsTheFrontCommand : Prop :=
  (∀ (s : State) (c : Instr) (rest : List Instr), s.pending = c :: rest → step s = exec c { s with pending := rest }) ∧
  (∀ s : State, s.pending = [] → step s = .next { s with toMach := s.runIncs 1 })

/-- No command stops the machine: ordinary data never ends a run. -/
def Obligations.EveryRunContinuesInQueueOrder : Prop :=
  ∀ (k : Nat) (s : State), ∃ t : State, core.run k s = .next t ∧ Consumed k s t

/-- R9 (what an unlisted register reads as), R21 and R444 (memories that read zero): equal contents are equal data. -/
def Obligations.MemoriesStayCanonical : Prop :=
  ∀ s t : State, Canonical s.toMach → step s = .next t → Canonical t.toMach

/-- The last sentence of R316: "No frequency is ever applied above the level of the voltage in force." -/
def Obligations.FrequencyNeverAboveVoltage : Prop :=
  ∀ s t : State, (∀ d : Fin 4, (s.lvl.get d).freq ≤ (s.lvl.get d).volt) → step s = .next t →
    ∀ d : Fin 4, (t.lvl.get d).freq ≤ (t.lvl.get d).volt

/-- R32, R142, R219, R256, R312, R321, R331, R366, R394, R430 and the Reset columns of FE_DECAY, JNL_F_CFG and RST_CFG. -/
def Obligations.PowerOnResetState : Prop :=
  let z := State.reset
  Canonical z.toMach ∧ QueueWf z ∧ z.pending = [] ∧ z.time.n = 0 ∧ z.time.quality = .free ∧
  z.tick.origin = 0 ∧ z.tick.period = 100 ∧
  (∀ p : Fin 16, z.own.port.get p = 0 ∧ (z.fus.homs.get p).cur.h = List.replicate 9 0) ∧ (∀ e : Fin 72, z.own.eng.get e = 0) ∧
  (∀ k : Fin 8, z.own.fmap.get k = 0 ∧ z.own.trig.get k = 0 ∧ z.own.rrt.get k = 0) ∧ z.own.tick = 0 ∧
  z.own.part.get 0 = (0, 16384) ∧ (∀ f : Fin 8, f ≠ 0 → z.own.part.get f = (0, 0)) ∧
  (∀ k : Fin 32, z.jnl.next.get k = 1) ∧ z.jnl.recs = [] ∧ z.fus.store = [] ∧ (∀ f : Fin 8, (z.fn.get f).quality.cur = 0) ∧
  (∀ g : Fin 6, z.g (R.PWR_R_K_K g) = 16384 ∧ z.g (R.PWR_R_K_G g) = 16384) ∧
  (∀ d : Fin 4, (z.lvl.get d).tl = 7 ∧ (z.lvl.get d).freq ≤ (z.lvl.get d).volt) ∧
  z.rst.held = 0x1F ∧ z.rst.padTrig = List.replicate 8 none ∧ z.rst.padPps = none ∧ z.rst.outLow = true ∧ z.rst.ready = false ∧
  (∀ f : Fin 8, z.g (R.JNL_F_CFG_BANK f) = f % 2) ∧ (∀ l : Fin 4, z.g (R.LNK_CTRL_LEVEL_MAX l) = 2) ∧
  z.g R.RST_CFG_PERST_MODE = 0 ∧
  ∀ p : Fin 16, z.rd (R.FE_DECAY_T0_A p) = 0x5A80B4FF#32 ∧ z.rd (R.FE_DECAY_T0_A p + 4) = 0x17202D40#32 ∧
    z.rd (R.FE_DECAY_T0_A p + 8) = 0x06080B10#32 ∧ z.rd (R.FE_DECAY_T0_A p + 12) = 0x01020304#32

/-! ## Motion inputs (08_motion_inputs.md) -/

/-- R198 to R200. -/
def Obligations.EncoderEdgesIndexAndCapture : Prop :=
  (∀ (s : State) (n : Fin 4) (a b : Bool),
     let e := s.enc.get n
     let sw := s.on (R.MOT_ENC_CTRL_SWAP n)
     let a' := if sw then b else a
     let b' := if sw then a else b
     (s.on (R.MOT_ENC_CTRL_EN n) = false ∨ s.sleep.state = 3 ∨ (a' = e.a ∧ b' = e.b) →
       Does (.encCountEdge n a b) s fun t =>
         t.enc.get n = { e with a := a', b := b' } ∧ (∀ k, k ≠ n → t.enc.get k = s.enc.get k) ∧ OnlyIn [.enc] s.toMach t) ∧
     (s.on (R.MOT_ENC_CTRL_EN n) = true → s.sleep.state ≠ 3 →
     ((a' ≠ e.a ∧ b' = e.b) ∨ (a' = e.a ∧ b' ≠ e.b) →
       Does (.encCountEdge n a b) s fun t =>
         (t.enc.get n).count = e.count + (if a' ≠ e.a then (if a' = e.b then -1 else 1) else (if b' = e.a then 1 else -1)) ∧
         (t.enc.get n).a = a' ∧ (t.enc.get n).b = b' ∧ (t.enc.get n).e = s.encStamp n ∧
         (∀ k, k ≠ n → t.enc.get k = s.enc.get k) ∧
         (s.on (R.MOT_ENC_CTRL_WAKE_EN n) = false ∨ (s.sleep.state = 0 ∧ s.sleep.entering = none) →
           OnlyIn [.enc, .jnl, .time, .sleep] s.toMach t) ∧
         (s.on (R.MOT_ENC_CTRL_WAKE_EN n) = true → s.sleep.state = 2 → t.sleep.state = 0) ∧
         (s.on (R.MOT_ENC_CTRL_WAKE_EN n) = true → s.sleep.state = 0 → s.sleep.goS3 = false → t.sleep.entering = none)) ∧
     (a' ≠ e.a → b' ≠ e.b →
       Does (.encCountEdge n a b) s fun t =>
         (t.enc.get n).count = e.count ∧ (t.enc.get n).a = a' ∧ (t.enc.get n).b = b' ∧ (t.enc.get n).e = e.e ∧
         t.g (R.MOT_ENC_QERR n) = (s.g (R.MOT_ENC_QERR n) + 1) % 2 ^ 32 ∧ t.g (R.MOT_ENC_STAT_QERR n) = 1 ∧
         (∀ k, k ≠ n → t.enc.get k = s.enc.get k) ∧ OnlyIn [.enc, .jnl, .regs, .tick, .cache] s.toMach t))) ∧
  (∀ (s : State) (n : Fin 4) (rising : Bool),
     (s.on (R.MOT_ENC_CTRL_EN n) = false ∨ s.sleep.state = 3 ∨ rising = s.on (R.MOT_ENC_CTRL_IDX_POL n) → Idles (.encIndex ⟨n, rising⟩) s) ∧
     (s.on (R.MOT_ENC_CTRL_EN n) = true → s.sleep.state ≠ 3 → rising ≠ s.on (R.MOT_ENC_CTRL_IDX_POL n) →
       Does (.encIndex ⟨n, rising⟩) s fun t =>
         (t.enc.get n).count = (s.enc.get n).count ∧ (t.enc.get n).idx = some ((s.enc.get n).count, s.encStamp n) ∧
         t.g (R.MOT_ENC_IDX_COUNT n) = (s.g (R.MOT_ENC_IDX_COUNT n) + 1) % 2 ^ 32 ∧
         (∀ k, k ≠ n → t.enc.get k = s.enc.get k) ∧ OnlyIn [.enc, .regs] s.toMach t) ∧
     (
       Does .encCapture s fun t =>
         (s.time.n.fdiv 1000 + 1) * 1000 ≤ t.time.n ∧
         (s.on (R.MOT_ENC_CTRL_EN n) = true → ∃ c ∈ (t.enc.get n).caps.head?,
           c.last = t.time.n.fdiv 1000 * 1000 ∧ c.p = (s.enc.get n).count ∧ c.e = (s.enc.get n).e) ∧
         OnlyIn [.enc, .time, .jnl, .regs, .tick, .cache] s.toMach t))

/-- R203. -/
def Obligations.EncoderEnableAndValueSet : Prop :=
  ∀ (s : State) (n : Fin 4),
    (s.on (R.MOT_ENC_CTRL_EN n) = false →
      Does (.motEncEn n true) s fun t =>
        (t.enc.get n).count = 0 ∧ (t.enc.get n).e = s.time.n ∧ (t.enc.get n).old = none ∧ (t.enc.get n).caps = [] ∧
        (t.enc.get n).set = { cb := 0, base := s.stagedMdb n, cpm := s.stagedCpm n, from? := none } ∧
        t.g (R.MOT_ENC_CTRL_EN n) = 1 ∧ OnlyIn [.enc, .regs, .jnl, .tick, .time, .cache] s.toMach t) ∧
    Does (.motEncEn n false) s (fun t =>
      t.g (R.MOT_ENC_CTRL_EN n) = 0 ∧ t.enc = s.enc ∧ OnlyIn [.regs, .jnl, .tick, .time, .cache] s.toMach t) ∧
    Does (.motEncRebase n) s (fun t =>
      (t.enc.get n) = { s.enc.get n with pendRebase := true } ∧ (∀ k, k ≠ n → t.enc.get k = s.enc.get k) ∧
      OnlyIn [.enc] s.toMach t) ∧
    Does (.motEncRescale n) s (fun t =>
      (t.enc.get n) = { s.enc.get n with pendRescale := true } ∧ (∀ k, k ≠ n → t.enc.get k = s.enc.get k) ∧
      OnlyIn [.enc] s.toMach t)

/-- R199, R200, R204, R213. -/
def Obligations.MotionReadsLatch : Prop :=
  ∀ (s : State) (n : Fin 4) (at_ : Int),
    (∀ c ∈ (s.enc.get n).caps.head?,
      Does (.motEncPosRead n) s fun t =>
        t.g64 (R.MOT_ENC_POS_A n) (R.MOT_ENC_POS_HI_A n) = toBits 64 c.p ∧
        t.g64 (R.MOT_ENC_EDGE_LO_A n) (R.MOT_ENC_EDGE_HI_A n) = toBits 64 c.e ∧
        t.out = .readValue (R.MOT_ENC_POS_A n) (BitVec.ofNat 32 (toBits 64 c.p)) :: s.out ∧
        OnlyIn [.regs, .out] s.toMach t) ∧
    (∀ x ∈ (s.enc.get n).idx,
      Does (.motEncIdxRead n) s fun t =>
        t.g64 (R.MOT_ENC_IDX_LO_A n) (R.MOT_ENC_IDX_HI_A n) = toBits 64 x.1 ∧
        t.g64 (R.MOT_ENC_IDXT_LO_A n) (R.MOT_ENC_IDXT_HI_A n) = toBits 64 x.2 ∧ OnlyIn [.regs, .out] s.toMach t) ∧
    Does (.motImuOutRead n) s (fun t =>
      (∀ k : Fin 8, ∀ y ∈ s.imuOut n k, t.rd (R.MOT_IMU_OUT_A n k) = BitVec.ofNat 32 (toBits 32 y.x)) ∧
      (∀ y ∈ s.imuOut n 0, t.g64 (R.MOT_IMU_OSTMP_LO_A n) (R.MOT_IMU_OSTMP_HI_A n) = toBits 64 y.t) ∧
      OnlyIn [.regs, .out] s.toMach t) ∧
    (∀ md : Int, s.mdAt n at_ = .ok md → Does (.mdQueryAnswer n at_) s fun t =>
      t.out = .md n at_ (some md) :: s.out ∧ OnlyIn [.out] s.toMach t) ∧
    (∀ miss : Bool, s.mdAt n at_ = .invalid miss → Does (.mdQueryAnswer n at_) s fun t =>
      t.out = .md n at_ none :: s.out ∧
      t.g (R.MOT_ENC_HIST_MISS n) = (s.g (R.MOT_ENC_HIST_MISS n) + miss.toNat) % 2 ^ 32 ∧ OnlyIn [.regs, .out] s.toMach t) ∧
    (s.mdAt n at_ = .notYet → Does (.mdQueryAnswer n at_) s fun t =>
      at_ + stallUs s.toMach n * 1000 ≤ t.time.n ∧ OnlyIn [.enc, .time, .jnl, .regs, .tick, .cache, .out] s.toMach t) ∧
    (s.on (R.MOT_ENC_CTRL_EN n) = false →
      exec (.mdQueryAnswer n at_) s = .next { s with out := .md n at_ none :: s.out })

/-- R207, R208, R212. -/
def Obligations.ImuPortCommands : Prop :=
  ∀ (s : State) (n : Fin 4) (bytes : List Byte) (rising : Bool),
    let stamp := s.time.n.fdiv 10 * 10 + s.gi (R.MOT_IMU_TIM_DRDY_COMP n)
    let rdLen := s.g (R.MOT_IMU_XFER_RD_LEN n)
    let skip := s.g (R.MOT_IMU_XFER_SKIP n)
    let illegal := decide (rdLen < skip + 2 ∨ (rdLen - skip) % 2 = 1 ∨ 16 < rdLen - skip ∨ 8 < s.g (R.MOT_IMU_XFER_CMD_LEN n))
    (s.on (R.MOT_IMU_CTRL_EN n) = false ∨ rising = s.on (R.MOT_IMU_CTRL_DRDY_POL n) → Idles (.imuDrdy ⟨n, rising⟩) s) ∧
    (s.on (R.MOT_IMU_CTRL_EN n) = true → rising ≠ s.on (R.MOT_IMU_CTRL_DRDY_POL n) → (s.imu.get n).busy = false →
      Does (.imuDrdy ⟨n, rising⟩) s fun t =>
        (t.imu.get n).busy = true ∧ (t.imu.get n).stamp = stamp ∧ (t.imu.get n).chans = (s.imu.get n).chans ∧
        t.out = .spi n (s.g (R.MOT_IMU_CTRL_SPI_MODE n)) (max 29 (s.g (R.MOT_IMU_CTRL_SCK_DIV n))) (s.imuCmd n) rdLen :: s.out ∧
        (∀ k, k ≠ n → t.imu.get k = s.imu.get k) ∧ OnlyIn [.imu, .out] s.toMach t) ∧
    (s.on (R.MOT_IMU_CTRL_EN n) = true → rising ≠ s.on (R.MOT_IMU_CTRL_DRDY_POL n) → (s.imu.get n).busy = true →
      Does (.imuDrdy ⟨n, rising⟩) s fun t =>
        (t.imu.get n).missed = (s.imu.get n).missed ++ [stamp] ∧ (t.imu.get n).busy = true ∧
        t.g (R.MOT_IMU_DRDY_OVR n) = (s.g (R.MOT_IMU_DRDY_OVR n) + 1) % 2 ^ 32 ∧ OnlyIn [.imu, .regs] s.toMach t) ∧
    ((s.imu.get n).busy = true →
      Does (.imuTransferDone n bytes) s fun t =>
        (t.imu.get n).busy = false ∧ (t.imu.get n).missed = [] ∧
        t.g (R.MOT_IMU_SAMPLES n) = (s.g (R.MOT_IMU_SAMPLES n) + 1) % 2 ^ 32 ∧ OnlyIn [.imu, .regs, .fus] s.toMach t) ∧
    (s.on (R.MOT_IMU_CTRL_EN n) = true →
      Does (.imuTimeout n) s fun t =>
        (t.imu.get n).chans = Vector.replicate 8 {} ∧ t.g (R.MOT_IMU_STAT_TMO n) = 1 ∧
        t.g (R.MOT_IMU_TMO n) = (s.g (R.MOT_IMU_TMO n) + 1) % 2 ^ 32 ∧ (∀ k, k ≠ n → t.imu.get k = s.imu.get k)) ∧
    (illegal = true → Does (.motImuEn n true) s fun t =>
      t.g (R.MOT_IMU_STAT_CFG_WR n) = 1 ∧ t.g (R.MOT_IMU_CTRL_EN n) = s.g (R.MOT_IMU_CTRL_EN n) ∧ OnlyIn [.regs] s.toMach t) ∧
    (illegal = false → Does (.motImuEn n true) s fun t =>
      t.g (R.MOT_IMU_CTRL_EN n) = 1 ∧ (t.imu.get n).chans = Vector.replicate 8 {} ∧ (t.imu.get n).busy = false ∧
      OnlyIn [.regs, .imu, .fus] s.toMach t) ∧
    Does (.motImuEn n false) s (fun t => t.g (R.MOT_IMU_CTRL_EN n) = 0 ∧ (t.imu.get n).busy = false ∧ OnlyIn [.regs, .imu] s.toMach t)

/-! ## Sensor ports (03_sensor_ports.md) -/

/-- R58, R59. Which packets RX_PKTS counts is the model's choice (log entry 74). -/
def Obligations.ShortAndRaw8Packets : Prop :=
  (∀ (s : State) (p : Fin 16) (h : Csi2Header),
     let x := s.port.get p
     let c : Fld := if s.vcOn p h.vc = false then R.ING_VC_OFF p else if 4 ≤ h.dt ∧ h.dt ≤ 7 then R.ING_DT_OFF p else R.ING_SHORT p
     let settled := x.flushPend = false ∧ x.stopReq = false
     let awake := s.sleep.state = 0 ∧ s.sleep.entering = none
     let header := fun (t : Mach) => t.port.get p = Mach.headerPort s.toMach p ∧ ∀ q, q ≠ p → t.port.get q = s.port.get q
     (awake → exec (.csi2ShortPacket p h) s = exec (.csi2ShortPacket p h) { s with toMach := s.atBoundary p }) ∧
     (awake → settled → x.running = false ∨ x.rx ≠ none → Idles (.csi2ShortPacket p h) s) ∧
     (s.sleep.state = 3 ∨ (s.sleep.state = 2 ∧ s.on (R.ING_CTRL_EN p) = false) → Idles (.csi2ShortPacket p h) s) ∧
     (s.sleep.state = 2 → s.on (R.ING_CTRL_EN p) = true → Does (.csi2ShortPacket p h) s fun t => t.sleep.state = 0) ∧
     (awake → x.running = true → x.rx = none → settled → s.rst.ready = false →
       Does (.csi2ShortPacket p h) s fun t => header t ∧ OnlyIn [.port] s.toMach t) ∧
     (awake → x.running = true → x.rx = none → settled → s.rst.ready = true →
     (h.ecc = .ok → Does (.csi2ShortPacket p h) s fun t =>
       t.g c = (s.g c + 1) % 2 ^ 32 ∧ RegsBut [c.a] s.toMach t ∧ header t ∧ OnlyIn [.regs, .port] s.toMach t) ∧
     (h.ecc = .corrected → Does (.csi2ShortPacket p h) s fun t =>
       t.g c = (s.g c + 1) % 2 ^ 32 ∧ t.g (R.ING_HDR_CORR p) = (s.g (R.ING_HDR_CORR p) + 1) % 2 ^ 32 ∧
       RegsBut [c.a, (R.ING_HDR_CORR p).a] s.toMach t ∧ header t ∧ OnlyIn [.regs, .port] s.toMach t) ∧
     (h.ecc = .bad → Does (.csi2ShortPacket p h) s fun t =>
       t.g (R.ING_HDR_BAD p) = (s.g (R.ING_HDR_BAD p) + 1) % 2 ^ 32 ∧ RegsBut [(R.ING_HDR_BAD p).a] s.toMach t ∧
       header t ∧ OnlyIn [.regs, .tick, .port] s.toMach t))) ∧
  (∀ (s : State) (p : Fin 16) (h : Csi2Header) (payload : List Byte) (crcOk : Bool),
     let x := s.port.get p
     let settled := x.flushPend = false ∧ x.stopReq = false
     let awake := s.sleep.state = 0 ∧ s.sleep.entering = none
     let header := fun (t : Mach) => t.port.get p = Mach.headerPort s.toMach p ∧ ∀ q, q ≠ p → t.port.get q = s.port.get q
     let counts := fun (c : Fld) (t : Mach) =>
       t.g c = (s.g c + 1) % 2 ^ 32 ∧ RegsBut [c.a, (R.ING_RX_PKTS p).a] s.toMach t ∧ header t ∧ OnlyIn [.regs, .tick, .port] s.toMach t
     let open_ := awake ∧ x.running = true ∧ x.rx = none ∧ settled ∧ s.rst.ready = true
     (awake → exec (.csi2Raw8Packet p h payload crcOk) s = exec (.csi2Raw8Packet p h payload crcOk) { s with toMach := s.atBoundary p }) ∧
     (awake → settled → x.running = false ∨ x.rx ≠ none → Idles (.csi2Raw8Packet p h payload crcOk) s) ∧
     (s.sleep.state = 3 ∨ (s.sleep.state = 2 ∧ s.on (R.ING_CTRL_EN p) = false) → Idles (.csi2Raw8Packet p h payload crcOk) s) ∧
     (awake → x.running = true → x.rx = none → settled → s.rst.ready = false →
       Does (.csi2Raw8Packet p h payload crcOk) s (counts (R.ING_FLUSHED p))) ∧
     (open_ → h.ecc = .bad → Does (.csi2Raw8Packet p h payload crcOk) s (counts (R.ING_HDR_BAD p))) ∧
     (open_ → h.ecc = .ok → s.vcOn p h.vc = false → Does (.csi2Raw8Packet p h payload crcOk) s (counts (R.ING_VC_OFF p))) ∧
     (open_ → h.ecc = .ok → s.vcOn p h.vc = true → s.on (R.ING_DT_RAW8_EN p) = false → Does (.csi2Raw8Packet p h payload crcOk) s (counts (R.ING_DT_OFF p))) ∧
     (open_ → h.ecc = .ok → s.vcOn p h.vc = true → s.on (R.ING_DT_RAW8_EN p) = true → payload.length = h.wc →
     Does (.csi2Raw8Packet p h payload true) s (fun t =>
       (∀ k : Fin 16, (t.rd (R.ING_RAW_A p k)).toNat = leN (sliceB (payload.take 64) 0 64) (4 * k) 4) ∧
       t.g (R.ING_RAW_LEN p) = payload.length % 2 ^ 16 ∧ t.g (R.ING_RAW8 p) = (s.g (R.ING_RAW8 p) + 1) % 2 ^ 32 ∧
       t.g (R.ING_RX_PKTS p) = (s.g (R.ING_RX_PKTS p) + 1) % 2 ^ 32 ∧ header t ∧ OnlyIn [.regs, .port] s.toMach t) ∧
     Does (.csi2Raw8Packet p h payload false) s (fun t =>
       t.g (R.ING_CRC_BAD p) = (s.g (R.ING_CRC_BAD p) + 1) % 2 ^ 32 ∧
       RegsBut [(R.ING_CRC_BAD p).a, (R.ING_RX_PKTS p).a] s.toMach t ∧ header t ∧ OnlyIn [.regs, .port] s.toMach t)))

/-- R68, R79, R84. -/
def Obligations.DecodedPacketsAndSensorTime : Prop :=
  (∀ (s : State) (p : Fin 16) (h : Csi2Header) (payload : List Byte),
     let x := s.port.get p
     let m2 := (((s.toMach.headerIn p).inc (R.ING_RX_PKTS p)).startRx p h).feed p payload
     let vat2 := (m2.port.get p).vat
     let settled := x.flushPend = false ∧ x.stopReq = false
     let awake := s.sleep.state = 0 ∧ s.sleep.entering = none
     let due := fun (r : Rx) => r.headerEl + (s.settings p).g (R.ING_TMO_PKT_TIMEOUT p) * 1000
     (awake → settled → x.running = false ∨ x.rx ≠ none → Idles (.csi2LongPacket p h payload true false) s) ∧
     (awake → x.running = true → x.rx = none → settled → s.rst.ready = false → Does (.csi2LongPacket p h payload true false) s fun t =>
       t.g (R.ING_FLUSHED p) = (s.g (R.ING_FLUSHED p) + 1) % 2 ^ 32 ∧ RegsBut [(R.ING_FLUSHED p).a] s.toMach t ∧
       t.port.get p = s.headerPort p ∧ OnlyIn [.regs, .tick, .port] s.toMach t) ∧
     (x.rx = none → Idles (.packetTimeout p) s) ∧
     (∀ r ∈ x.rx, r.hdr.dt = 0x2A → Does (.packetTimeout p) s fun t =>
       t.port.get p = { x with rx := none } ∧ t.g (R.ING_TRUNC p) = (s.g (R.ING_TRUNC p) + 1) % 2 ^ 32 ∧ due r ≤ t.elapsed ∧
       (∀ off, off ≠ (R.ING_TRUNC p).a → off < 0x1E0000 ∨ 0x200000 ≤ off → t.rd off = s.rd off) ∧
       OnlyIn [.regs, .port, .time, .enc, .jnl, .tick, .cache] s.toMach t) ∧
     (awake → x.running = true → x.rx = none → x.flushPend = false → x.stopReq = false → s.rst.ready = true →
       h.ecc = .ok → h.vc < 16 → s.vcOn p h.vc = true → 0x30 ≤ h.dt → h.dt ≤ 0x37 → bitN (s.g (R.ING_DT_DT_EN p)) (h.dt - 0x30) = true →
       payload.length = h.wc →
       ∀ r ∈ (m2.port.get p).rx,
         Does (.csi2LongPacket p h payload true false) s (fun t =>
           (t.port.get p).rx = none ∧
           (t.port.get p).vat = (if r.events = [] then vat2 else vat2 ++ [{ roi := r.roi, trunc := false, words := r.events.reverse }]) ∧
           (t.port.get p).dec.get (Fin.ofNat 16 h.vc) = r.dec) ∧
         Does (.csi2LongPacket p h payload false false) s (fun t =>
           (t.port.get p).rx = none ∧ (t.port.get p).vat = vat2 ∧ (t.port.get p).dec = x.dec ∧
           t.g (R.ING_CRC_BAD p) = (m2.g (R.ING_CRC_BAD p) + 1) % 2 ^ 32)) ∧
     (∀ r ∈ x.rx, r.hdr.dt ≠ 0x2A →
       Does (.packetTimeout p) s fun t =>
         (t.port.get p).rx = none ∧
         (t.port.get p).vat = (if r.events = [] then x.vat else
           x.vat ++ [{ roi := r.roi, trunc := true, words := r.events.reverse.map fun w => { w with unchecked := true } }]) ∧
         due r ≤ t.elapsed ∧ t.g (R.ING_TRUNC p) = (s.g (R.ING_TRUNC p) + 1) % 2 ^ 32)) ∧
  (∀ (c : FmCfg) (v n : Nat) (d : DecState), v < 2 ^ n → n ≤ 36 → d.stc + 2 ^ n < 2 ^ 64 →
     (setLow c v n d).stc % 2 ^ n = v ∧
     (c.lowCarry = true → d.stc ≤ (setLow c v n d).stc ∧ (setLow c v n d).stc < d.stc + 2 ^ n) ∧
     (c.lowCarry = false → (setLow c v n d).stc / 2 ^ n = d.stc / 2 ^ n) ∧
     (setLow c v n d).ybase = d.ybase ∧ (setLow c v n d).xbase = d.xbase)

/-- R71, R74, R75. The pulse runs on elapsed time, the hold of the fit from S_a (log entry 78). -/
def Obligations.SyncEdgesAndFit : Prop :=
  ∀ (s : State) (p : Fin 16),
    let x := s.port.get p
    let now := s.settings p
    (s.on (R.ING_CTRL_SYNC_EN p) = false ∨ now.syncOk p = false → Idles (.syncEdge p) s) ∧
    (x.syncUntil = none → Idles (.syncPulseEnd p) s) ∧ (x.fit.valid = false → Idles (.fitLost p) s) ∧
    (s.on (R.ING_CTRL_SYNC_EN p) = true → now.syncOk p = true →
      Does (.syncEdge p) s fun t =>
        s.syncDue p ≤ t.time.n ∧ (t.port.get p).syncLast = some (s.syncDue p) ∧
        (∃ e ∈ (t.port.get p).edges.head?, e.s = t.time.n + now.gi (R.ING_SYNC_WIN_SYNC_COMP p) ∧ e.t = t.elapsed ∧ e.used = false) ∧
        (t.port.get p).syncUntil = some (t.elapsed + now.g (R.ING_SYNC_CFG_SYNC_WIDTH p) * 1000) ∧
        (∀ q, q ≠ p → t.port.get q = s.port.get q) ∧ OnlyIn [.port, .time, .enc, .jnl, .regs, .tick, .cache] s.toMach t) ∧
    (∀ u ∈ x.syncUntil,
      Does (.syncPulseEnd p) s fun t =>
        u ≤ t.elapsed ∧ t.port.get p = { x with syncUntil := none } ∧ OnlyIn [.port, .time, .enc, .jnl, .regs, .tick, .cache] s.toMach t) ∧
    (x.fit.valid = true →
      Does (.fitLost p) s fun t =>
        (t.port.get p).fit = { x.fit with valid := false, prev := none } ∧
        x.fit.sa + now.g (R.ING_SYNC_CFG_FIT_HOLD p) * now.g (R.ING_SYNC_PER p) * 1000 ≤ t.time.n ∧
        t.g (R.ING_SYNC_LOST p) = (s.g (R.ING_SYNC_LOST p) + 1) % 2 ^ 32 ∧
        OnlyIn [.port, .time, .enc, .jnl, .regs, .tick, .cache] s.toMach t) ∧
    Does (.ingFitRateRead p) s (fun t =>
      t.g64 (R.ING_FIT_SA_LO_A p) (R.ING_FIT_SA_HI_A p) = toBits 64 x.fit.sa ∧
      t.g64 (R.ING_FIT_UA_LO_A p) (R.ING_FIT_UA_HI_A p) = toBits 64 x.fit.ua ∧
      t.rd (R.ING_FIT_RATE_A p) = BitVec.ofNat 32 (toBits 32 x.fit.r) ∧ OnlyIn [.regs, .out] s.toMach t)

/-- R83, R85. A flush is done at its discard, and a packet in reception goes on across EN = 0 and 1: the model's choices (log
entries 74, 75). -/
def Obligations.PortEnableDisableFlush : Prop :=
  ∀ (s : State) (p : Fin 16),
    let x := s.port.get p
    (s.on (R.ING_CTRL_EN p) = true → Idles (.ingCtrlEn p) s) ∧
    (x.flushPend = false ∨ x.rx ≠ none → Idles (.flushApply p) s) ∧ (x.stopReq = false ∨ x.rx ≠ none → Idles (.portStop p) s) ∧
    (s.on (R.ING_CTRL_EN p) = false → s.enableReject p = none →
      Does (.ingCtrlEn p) s fun t =>
        t.g (R.ING_CTRL_EN p) = 1 ∧ (t.port.get p).running = true ∧ (t.port.get p).dec = Vector.replicate 16 {} ∧
        (t.port.get p).fit.valid = false ∧ (t.fe.get p).zeroing = true ∧ (t.fe.get p).surf = [] ∧
        RegsBut [(R.ING_CTRL_EN p).a] s.toMach t ∧ (∀ q, q ≠ p → t.port.get q = s.port.get q ∧ t.fe.get q = s.fe.get q) ∧
        OnlyIn [.regs, .port, .fe] s.toMach t) ∧
    (s.on (R.ING_CTRL_EN p) = false → s.enableReject p ≠ none →
      Does (.ingCtrlEn p) s fun t =>
        t.g (R.ING_STAT_EN_ERR p) = 1 ∧ RegsBut [(R.ING_STAT_EN_ERR p).a] s.toMach t ∧ OnlyIn [.regs] s.toMach t) ∧
    Does (.ingCtrlDisable p) s (fun t =>
      t.g (R.ING_CTRL_EN p) = 0 ∧ t.port.get p = { x with stopReq := x.running || x.stopReq } ∧
      RegsBut [(R.ING_CTRL_EN p).a] s.toMach t ∧ OnlyIn [.regs, .port] s.toMach t) ∧
    Does (.ingCtrlFlush p) s (fun t => t.port.get p = { x with flushPend := true } ∧ OnlyIn [.port] s.toMach t) ∧
    (x.flushPend = true → x.rx = none →
      Does (.flushApply p) s fun t =>
        (t.port.get p).vat = [] ∧ (t.port.get p).flushPend = false ∧ (t.port.get p).reading = x.reading ∧
        t.g (R.ING_FLUSHED p) = (s.g (R.ING_FLUSHED p) + x.vat.length) % 2 ^ 32) ∧
    (x.stopReq = true → x.rx = none →
      Does (.portStop p) s fun t => t.port.get p = { s.headerPort p with running := false, stopReq := false } ∧ OnlyIn [.port] s.toMach t)

/-- R62, R63. The buffer after an error, and the end in an off mode, are the model's choice (log entry 77). -/
def Obligations.SensorControlTransfers : Prop :=
  ∀ (s : State) (p : Fin 16) (who : Party) (addr wlen rlen result : Nat) (got : List Byte),
    let x := s.port.get p
    let granted := s.on (R.ING_SCI_CFG_OWNER p) == (who == .mgt)
    let quiet := who = .host ∨ s.mgtSci ≠ some p
    (granted = false → Does (.sciGo p who addr wlen rlen) s fun t =>
      t.g (R.ING_SCI_STAT_OWN_ERR p) = 1 ∧ RegsBut [(R.ING_SCI_STAT_OWN_ERR p).a] s.toMach t ∧ OnlyIn [.regs] s.toMach t) ∧
    (granted = true → x.sci ≠ none → Does (.sciGo p who addr wlen rlen) s fun t =>
      t.g (R.ING_SCI_STAT_CMD_LOST p) = 1 ∧ RegsBut [(R.ING_SCI_STAT_CMD_LOST p).a] s.toMach t ∧ OnlyIn [.regs] s.toMach t) ∧
    (granted = true → x.sci = none → addr < 128 → wlen ≤ 32 → rlen ≤ 32 → s.sciMode p ≠ 0 → s.sciMode p ≤ 4 → Does (.sciGo p who addr wlen rlen) s fun t =>
      (t.port.get p).sci = some { who := match who with | .host => .host | .mgt => .mgt, startEl := s.elapsed, rlen := rlen } ∧
      t.g (R.ING_SCI_CMD_ADDR p) = addr ∧ t.g (R.ING_SCI_CMD_WLEN p) = wlen ∧ t.g (R.ING_SCI_CMD_RLEN p) = rlen ∧
      t.out = .sci p.1 (s.sciMode p) addr ((s.sciBuf p).take wlen) rlen :: s.out ∧ OnlyIn [.regs, .port, .out] s.toMach t) ∧
    (granted = true → x.sci = none → quiet → wlen ≤ 32 → rlen ≤ 32 → s.sciMode p = 0 ∨ 4 < s.sciMode p → Does (.sciGo p who addr wlen rlen) s fun t =>
      (t.port.get p).sci = none ∧ t.g (R.ING_SCI_STAT_RESULT p) ≠ 0 ∧ t.out = s.out ∧ OnlyIn [.regs, .port, .draws] s.toMach t) ∧
    (x.sci = none → Idles (.sciTransferDone p result got) s ∧ Idles (.sciTimeout p) s) ∧
    (x.sci ≠ none → result < 8 → Does (.sciTransferDone p result got) s fun t =>
      (t.port.get p).sci = none ∧ t.g (R.ING_SCI_STAT_RESULT p) = result) ∧
    (granted = true → x.sci = none → quiet → 32 < wlen ∨ 32 < rlen → Does (.sciGo p who addr wlen rlen) s fun t =>
      (t.port.get p).sci = none ∧ t.g (R.ING_SCI_STAT_RESULT p) = 3 ∧ t.out = s.out ∧ OnlyIn [.regs, .port] s.toMach t) ∧
    (∀ run ∈ x.sci, run.who = .host → result < 8 → Does (.sciTransferDone p result got) s fun t =>
      (t.port.get p).sci = none ∧ t.g (R.ING_SCI_STAT_RESULT p) = result ∧
      (result = 0 → (got.take run.rlen).length ≤ 32 → (t.sciBuf p).take (got.take run.rlen).length = got.take run.rlen) ∧
      (result ≠ 0 → t.sciBuf p = s.sciBuf p) ∧ OnlyIn [.regs, .port] s.toMach t) ∧
    (∀ run ∈ x.sci, run.who = .host → Does (.sciTimeout p) s fun t =>
      (t.port.get p).sci = none ∧ t.g (R.ING_SCI_STAT_RESULT p) = 4 ∧ t.out = .sciRecover p.1 :: s.out ∧
      run.startEl + 25000000 ≤ t.elapsed ∧ OnlyIn [.regs, .port, .out, .time, .enc, .jnl, .tick, .cache] s.toMach t)

/-! ## Event front end (04_event_front_end.md) -/

/-- R92. -/
def Obligations.SurfaceCodesDecode : Prop :=
  ∀ (ref tau : Int) (code : Nat), code < 65536 →
    let e := epochOf ref
    let off : Int := (code % 16384 : Nat)
    (code / 16384 = (e % 3).toNat + 1 → ageOf ref code = some (ref - (e * 16384 + off))) ∧
    (code / 16384 = ((e + 2) % 3).toNat + 1 → ageOf ref code = some (ref - ((e - 1) * 16384 + off))) ∧
    (code / 16384 ≠ (e % 3).toNat + 1 → code / 16384 ≠ ((e + 2) % 3).toNat + 1 → ageOf ref code = none) ∧
    (∀ d ∈ ageOf ref code, -16384 ≤ d ∧ d ≤ 32767) ∧
    (epochOf tau = e ∨ epochOf tau = e - 1 → ageOf ref (encodeTau tau) = some (ref - tau))

/-- R77, R80, R87 (steps 1 to 3), R96, R98, R99, R102. -/
def Obligations.EventReadsOneWord : Prop :=
  ∀ (s : State) (p : Fin 16),
    let x := s.port.get p
    let f := s.fe.get p
    (s.feRuns p = false → Idles (.feEvent p) s) ∧
    (∀ r ∈ x.reading, ∀ w ∈ r.words[r.pos]?,
      s.feRuns p = true → epochOf (tauOf s.time.n) ≤ f.sweep → (s.fn.get (s.own.port.get p)).tap.en = false →
      w.x < s.feWidth p → w.y < s.feHeight p →
      Does (.feEvent p) s (fun t =>
        (t.port.get p).reading = (if r.pos + 1 < r.words.length then some { r with pos := r.pos + 1 } else none) ∧
        (t.port.get p).vat.map (·.words) = x.vat.map (·.words) ∧ t.g (R.FE_EVENTS p) = (s.g (R.FE_EVENTS p) + 1) % 2 ^ 32 ∧
        (x.burst ≠ 0 → (t.port.get p).burst = x.burst - 1 ∧ (t.port.get p).vat = x.vat ∧ t.draws = s.draws) ∧
        (x.burst = 0 → (t.port.get p).burst < 256 ∧ t.draws = s.draws + 1) ∧
        (∀ q, q ≠ p → t.port.get q = s.port.get q ∧ t.fe.get q = s.fe.get q) ∧ OnlyIn [.port, .fe, .regs, .tick, .draws] s.toMach t) ∧
      (∀ l ∈ f.learning, s.extend w.t32 < s.tickEnd → Does (.feEvent p) s fun t =>
        RegsBut [(R.FE_EVENTS p).a] s.toMach t ∧ (t.fe.get p).curds = f.curds ∧ (t.fe.get p).grids = f.grids ∧
        t.tick = (s.onAcct (s.tickOf (s.extend w.t32)).toNat fun a => { a with events := a.events + 1 }).tick) ∧
      (f.learning = none → f.sweeping = false → s.on (R.FE_CTRL_HOT_EN p) = true → s.isHot p w.x w.y = true → s.extend w.t32 < s.tickEnd →
        Does (.feEvent p) s fun t =>
          t.g (R.FE_WHEY_HOT p) = (s.g (R.FE_WHEY_HOT p) + 1) % 2 ^ 32 ∧ RegsBut [(R.FE_EVENTS p).a, (R.FE_WHEY_HOT p).a] s.toMach t ∧
          (t.fe.get p).surf = f.surf ∧ (t.fe.get p).flk = f.flk ∧ (t.fe.get p).grids = f.grids) ∧
      (f.learning = none → f.sweeping = false → s.on (R.FE_CTRL_HOT_EN p) = false → s.on (R.FE_CTRL_REF_EN p) = true →
        s.refrWhey p w.x w.y (tauOf (s.extend w.t32)) = true → s.extend w.t32 < s.tickEnd →
        Does (.feEvent p) s fun t =>
          t.g (R.FE_WHEY_REF p) = (s.g (R.FE_WHEY_REF p) + 1) % 2 ^ 32 ∧ RegsBut [(R.FE_EVENTS p).a, (R.FE_WHEY_REF p).a] s.toMach t ∧
          (t.fe.get p).surf = f.surf ∧ (t.fe.get p).flk = f.flk ∧ (t.fe.get p).grids = f.grids))

/-- R93, R95, R97, R98, R114. Sweeps across a step, and LEARN written again, are the model's choice (log entry 79). -/
def Obligations.SurfacesAreSweptZeroedAndLearned : Prop :=
  (∀ (s : State) (p : Fin 16),
     let f := s.fe.get p
     let e0 := epochOf (tauOf s.time.n)
     let e := if f.sweep < e0 then e0 else e0 + 1
     let gone := ((e + 1) % 3).toNat + 1
     (s.on (R.ING_CTRL_EN p) = false ∨ f.learning ≠ none → Idles (.agerSweepStart p) s) ∧
     (s.on (R.ING_CTRL_EN p) = true → f.learning = none →
       Does (.agerSweepStart p) s fun t =>
         (t.fe.get p).sweep = e ∧ (t.fe.get p).sweeping = true ∧
         (∀ c ∈ (t.fe.get p).surf, c.2.toNat % 65536 / 16384 ≠ gone ∧ c.2.toNat / 65536 / 16384 ≠ gone) ∧
         (∀ c ∈ f.surf, c.2 ≠ 0 → c.2.toNat % 65536 / 16384 ≠ gone → c.2.toNat / 65536 / 16384 ≠ gone → c ∈ (t.fe.get p).surf) ∧
         (∀ c ∈ f.surf, c.2.toNat % 65536 / 16384 = gone → c.2.toNat / 65536 / 16384 ≠ gone → c.2.toNat / 65536 ≠ 0 →
           (c.1, BitVec.ofNat 32 (c.2.toNat / 65536 * 65536)) ∈ (t.fe.get p).surf) ∧
         (∀ c ∈ f.surf, c.2.toNat / 65536 / 16384 = gone → c.2.toNat % 65536 / 16384 ≠ gone → c.2.toNat % 65536 ≠ 0 →
           (c.1, BitVec.ofNat 32 (c.2.toNat % 65536)) ∈ (t.fe.get p).surf) ∧
         (∀ q, q ≠ p → t.fe.get q = s.fe.get q) ∧ OnlyIn [.fe, .time, .enc, .jnl, .regs, .tick, .cache] s.toMach t) ∧
     (f.held = none → Does (.agerSweepEnd p) s fun t =>
       t.fe.get p = { f with sweeping := false } ∧ (∀ q, q ≠ p → t.fe.get q = s.fe.get q) ∧ OnlyIn [.fe] s.toMach t) ∧
     (∀ h ∈ f.held, Does (.agerSweepEnd p) s fun t =>
       (t.fe.get p).sweeping = false ∧ (t.fe.get p).held = none ∧ OnlyIn [.fe, .regs, .tick] s.toMach t)) ∧
  (∀ (s : State) (p : Fin 16),
     let f := s.fe.get p
     (f.zeroing = false → Idles (.surfaceZeroDone p) s) ∧ ((f.learning.bind (·.be)) = none → Idles (.learnEnd p) s) ∧
     (f.zeroing = true → Does (.surfaceZeroDone p) s fun t =>
       (t.fe.get p).zeroing = false ∧ (t.fe.get p).warming = true ∧ (t.fe.get p).tauW = none ∧
       (t.fe.get p).surf = ((s.applyHot p).fe.get p).surf ∧ (∀ q, q ≠ p → t.fe.get q = s.fe.get q) ∧
       (f.learned = false → OnlyIn [.fe] s.toMach t) ∧
       (f.learned = true → t.g (R.FE_STAT_LEARN_DONE p) = 1 ∧ (f.learnReq = false → t.g (R.FE_CTRL_LEARN p) = 0) ∧
         (t.fe.get p).learned = false ∧ OnlyIn [.fe, .regs] s.toMach t)) ∧
     Does (.feCtrlLearn p) s (fun t =>
       t.g (R.FE_CTRL_LEARN p) = 1 ∧ t.fe.get p = { f with learnReq := true } ∧
       RegsBut [(R.FE_CTRL_LEARN p).a] s.toMach t ∧ OnlyIn [.fe, .regs] s.toMach t) ∧
     Does (.feCtrlHotApply p) s (fun t => t.fe.get p = { f with hotReq := true } ∧ OnlyIn [.fe] s.toMach t) ∧
     (∀ l ∈ f.learning, ∀ be ∈ l.be,
       let hot := ((s.cellsUp p).filter fun c => decide ((s.g (R.FE_HOT_RATE p) : Int) * (be - l.bs) < (c.2.toNat : Int) * 1000000000)).map (·.1)
       let kept := hot.take (s.g (R.FE_HOT_CNT_HOT_MAX p))
       Does (.learnEnd p) s fun t =>
         t.g (R.FE_HOT_CNT_HOT_COUNT p) = kept.length % 2 ^ 13 ∧
         (kept.length < hot.length → t.g (R.FE_STAT_HOT_OVF p) = 1) ∧ be + 5000 ≤ t.time.n ∧
         t.g (R.FE_CTRL_LEARN p) = s.g (R.FE_CTRL_LEARN p) ∧ (t.fe.get p).learning = none ∧ (t.fe.get p).learned = true ∧
         (t.fe.get p).zeroing = true ∧ (t.fe.get p).surf = [] ∧
         (∀ q, q ≠ p → t.fe.get q = s.fe.get q) ∧ OnlyIn [.fe, .regs, .dram, .ueLines, .cache, .time, .enc, .jnl, .tick] s.toMach t))

/-- R35, R110, R112, R113, R447. The CURD_MIN of a closing grid is the model's choice (log entry 79). -/
def Obligations.GridsFormCurdsAndPatches : Prop :=
  (∀ (s : State) (p : Fin 16),
     (s.nextGrid = none → Idles .curdGridClose s) ∧
     (∀ a ∈ s.nextGrid, ∀ g ∈ ((s.fe.get p).grids.find? fun (g : Grid) => g.tn == a.tn),
       let cs := if a.works then (s.curdsOf p g).1 else []
       cs.length ≤ 1024 ∧
       Does .curdGridClose s fun t =>
         a.graceFrom + 5000 ≤ t.time.n ∧ (t.fe.get p).curds = (s.fe.get p).curds ++ cs ∧
         (t.fe.get p).grids = (s.fe.get p).grids.filter (fun g => g.tn != a.tn) ∧ (t.fe.get p).surf = (s.fe.get p).surf ∧
         t.g (R.FE_CURDS p) = (s.g (R.FE_CURDS p) + cs.length) % 2 ^ 32 ∧
         (∀ b ∈ t.acct? a.tn, b.gridClosed = true) ∧
         OnlyIn [.fe, .regs, .tick, .time, .enc, .jnl, .cache] s.toMach t)) ∧
  (∀ (s : State) (p : Fin 16) (a : Nat),
     let d := Mach.dieOfPort p
     let addr := Mach.patchAddr d (s.patchNext.get d)
     ((s.fe.get p).curds.find? (fun (c : Curd) => !c.overflow && !c.patch && !c.abandoned) = none → Idles (.patchCut p) s) ∧
     (∀ c ∈ (s.fe.get p).curds.find? (fun (c : Curd) => !c.overflow && !c.patch && !c.abandoned), s.acct? c.tn ≠ none →
       Does (.patchCut p) s fun t =>
         (a < addr ∨ addr + 2048 ≤ a → Mem.read t.dram a = Mem.read s.dram a) ∧
         t.patchNext.get d = (s.patchNext.get d + 1) % 32768 ∧ (∀ d', d' ≠ d → t.patchNext.get d' = s.patchNext.get d') ∧
         t.g (R.FE_PATCHES p) = (s.g (R.FE_PATCHES p) + 1) % 2 ^ 32 ∧
         ((t.fe.get p).curds.find? (fun k => k.tn == c.tn && k.index == c.index)).map (fun k => (k.patch, k.patchAddr)) = some (true, addr) ∧
         (∀ b ∈ s.acct? c.tn, b.graceFrom + 12000 ≤ t.time.n) ∧
         (c.waiting = none → (∀ q, q ≠ p → t.fe.get q = s.fe.get q) ∧
           OnlyIn [.fe, .regs, .dram, .ueLines, .cache, .patchNext, .time, .enc, .jnl, .tick] s.toMach t) ∧
         OnlyIn [.fe, .regs, .dram, .ueLines, .cache, .patchNext, .time, .enc, .jnl, .tick, .eng, .heldDesc, .led] s.toMach t))

/-! ## The tick (02_tick.md) -/

/-- R31, R35, R46, R50, R268, R307. -/
def Obligations.BoundaryBeginsNextTick : Prop :=
  (∀ (s : State),
     let k := s.tick.tn + 1
     let b := s.bnd k
     s.pendingLoad = none → s.time.servo.stepNext = none →
     Does .tickBoundary s fun t =>
       t.tick.tn = k ∧ t.tick.start = b ∧ b ≤ t.time.n ∧ t.tick.jumpNext = false ∧
       (∃ a ∈ t.tick.accts.head?, a.tn = k ∧ a.start = b ∧ a.tEnd = none) ∧
       (∀ a ∈ s.acct? s.tick.tn, ∃ a' ∈ t.acct? s.tick.tn, a'.start = a.start ∧ a'.tEnd = some b) ∧
       (∀ r ∈ t.jnl.recs, r.released = true) ∧ (∀ p, (t.fe.get p).normHeld = false) ∧
       (∀ c ∈ t.tick.pending, Mach.changeKind c.change = 0 → k < c.tnEff) ∧
       OnlyIn [.regs, .time, .tick, .port, .fe, .eng, .tleq, .tle, .heldDesc, .pops, .spikes, .images, .enc, .fus, .jnl, .led, .lvl, .sleep, .fn,
         .link, .cache, .draws, .out] s.toMach t) ∧
  (∀ (s : State) (l : Mach.LoadDue),
     s.pendingLoad = some l → l.b ≤ s.bnd (s.tick.tn + 1) → s.time.servo.stepNext = none →
     Does .tickBoundary s fun t =>
       t.tick.origin = l.origin ∧ t.tick.period = l.period ∧ t.tick.tn = toBits 48 ((l.b - l.origin).fdiv (l.period * 1000)) ∧
       t.tick.start = l.b ∧ l.b ≤ t.time.n ∧ t.tick.pending = [] ∧ (∃ a ∈ t.tick.accts.head?, a.jump = true ∧ a.start = l.b))

/-- R49. -/
def Obligations.PeriodChangeKeepsBoundary : Prop :=
  ∀ (s : State) (c : Pending) (q : Nat),
    let n := s.tick.tn + 1
    s.tick.pending = [c] → c.change = .tickChange q → c.tnEff = n → s.time.servo.stepNext = none →
    Does .tickBoundary s fun t =>
      t.tick.origin = s.bnd n - n * q * 1000 ∧ t.tick.period = q ∧ t.tick.tn = n ∧ t.tick.start = s.bnd n ∧ t.bnd n = s.bnd n

/-- R305 to R307. -/
def Obligations.AdmissionSettlesEveryCurd : Prop :=
  ∀ (s : State),
    (s.nextAdmit = none → Idles .admission s) ∧
    (∀ a ∈ s.nextAdmit,
      (s.working = false ∨ a.gridClosed = false ∨ s.earlierLeft a.tn = true → Idles .admission s) ∧
      (s.working = true → a.gridClosed = true → s.earlierLeft a.tn = false →
        Does .admission s fun t =>
          a.graceFrom + 12000 ≤ t.time.n ∧ (∃ b ∈ t.acct? a.tn, b.admitted = true) ∧
          (∀ x ∈ s.scorable a.tn, ∀ c ∈ (t.fe.get x.1).curds, c.tn = a.tn → c.index = x.2.1.index → c.admitted = true ∨ c.abandoned = true) ∧
          OnlyIn [.regs, .time, .tick, .fe, .eng, .heldDesc, .pops, .enc, .jnl, .led, .fn, .cache, .draws] s.toMach t))

/-- R38, R40, R55, R56. -/
def Obligations.DeadlineDropsTheTick : Prop :=
  ∀ (s : State),
    (s.dueDeadline = none → Idles .tickDeadline s) ∧
    (∀ x ∈ s.dueDeadline,
      Does .tickDeadline s fun t =>
        t.tick.lastDone = some x.1.tn ∧ t.tick.accts.length + 1 = s.tick.accts.length ∧
        (∀ p, (∀ c ∈ (t.fe.get p).curds, c.tn ≠ x.1.tn) ∧ (∀ g ∈ (t.fe.get p).grids, g.tn ≠ x.1.tn)) ∧
        (x.1.works = true → t.tick.wdogCount = 0) ∧
        (x.1.works = false → t.tick.wdogCount = s.tick.wdogCount ∧ t.tick.lastSum = s.tick.lastSum) ∧
        t.tick.tn = s.tick.tn ∧ t.tick.start = s.tick.start ∧ t.time.n = s.time.n ∧
        OnlyIn [.regs, .time, .tick, .fe, .eng, .tleq, .tle, .heldDesc, .pops, .spikes, .images, .fus, .jnl, .led, .sleep, .fn, .link, .cache, .draws,
          .out] s.toMach t)

/-! ## Engines and spiking populations (05_engines.md, 06_spiking.md, 07_graph_images.md) -/

/-- R120, R122, R124, R144, R426. -/
def Obligations.DescriptorLifecycle : Prop :=
  ∀ (s : State) (e : Fin 72) (a : Nat),
    let x := s.eng.get e
    ((∀ h ∈ s.heldDesc, h.1 ≠ e.1) → s.engReady e = false ∨ x.run.isSome = true ∨ x.queue = [] → Idles (.descriptorStart e) s) ∧
    (∀ d ∈ x.queue.head?, s.engReady e = true → x.run = none →
      (s.engOf d.fn d.epoch d.role ≠ some e ∨ s.descImage d = none →
        Does (.descriptorStart e) s fun t =>
          t.g (R.ENG_DESC_STALE e) = (s.g (R.ENG_DESC_STALE e) + 1) % 2 ^ 32 ∧ t.g (R.ENG_ERR_STALE e) = 1 ∧
          (t.eng.get e).run = none ∧ (t.eng.get e).sram = x.sram ∧ OnlyIn [.regs, .tick, .fe, .eng, .heldDesc, .led] s.toMach t) ∧
      (∀ i ∈ s.descImage d, ∀ l ∈ i.1.layers[d.lFirst]?,
        s.engOf d.fn d.epoch d.role = some e → d.loadIn = true → l.inA + 2048 ≤ localTop →
        ((i.1.layers.drop d.lFirst).take (d.lLast + 1 - d.lFirst)).any Mach.isThin = false →
        Does (.descriptorStart e) s fun t =>
          (∃ r ∈ (t.eng.get e).run, r.layer = d.lFirst ∧ r.waitTle = false ∧ r.desc.outAddr = d.outAddr ∧ r.desc.tn = d.tn) ∧
          t.sramGet e l.inA 2048 = s.dramGet d.inAddr 2048 ∧
          (a < l.inA ∨ l.inA + 2048 ≤ a → Mem.read (t.eng.get e).sram a = Mem.read x.sram a) ∧
          (∀ e', e' ≠ e → t.eng.get e' = s.eng.get e') ∧ OnlyIn [.eng, .heldDesc] s.toMach t)) ∧
    (∀ r ∈ x.run, ∀ i ∈ s.descImage r.desc, ∀ l ∈ i.1.layers[r.desc.lLast]?,
      r.waitTle = false → s.engReady e = true → r.desc.lLast < r.layer → r.desc.result = true →
      Does (.descriptorComplete e) s fun t =>
        t.g (R.ENG_DESC_DONE e) = (s.g (R.ENG_DESC_DONE e) + 1) % 2 ^ 32 ∧ (t.eng.get e).run = none ∧
        t.dramGet r.desc.outAddr 32 = resultBytes r.desc (scoresAt x.sram l.inA) e ∧
        (a < r.desc.outAddr ∨ r.desc.outAddr + 32 ≤ a → Mem.read t.dram a = Mem.read s.dram a) ∧
        (∀ c ∈ (t.fe.get (Fin.ofNat 16 r.desc.port)).curds, c.tn = r.desc.tn → c.index = r.desc.index →
          c.score = some (scoresAt x.sram l.inA, r.desc.edge, r.desc.replayed)) ∧
        RegsBut [(R.ENG_DESC_DONE e).a] s.toMach t ∧ OnlyIn [.regs, .tick, .fe, .eng, .led, .dram, .cache, .ueLines] s.toMach t) ∧
    (s.engGood e = false ∨ 1 < s.sleep.state → Idles (.engSrst e) s) ∧
    (s.engGood e = true → s.sleep.state ≤ 1 → x.inReset = false →
      Does (.engSrst e) s fun t =>
        (t.eng.get e).inReset = true ∧ (t.eng.get e).sram = [] ∧ (t.eng.get e).arrivals = [] ∧ (t.eng.get e).queue = [] ∧
        (t.eng.get e).run = none ∧ (∀ e', e' ≠ e → t.eng.get e' = s.eng.get e') ∧
        OnlyIn [.regs, .tick, .fe, .eng, .tleq, .tle, .pops, .led] s.toMach t) ∧
    (x.inReset = true →
      Does (.engResetDone e) s fun t =>
        (t.eng.get e).inReset = false ∧
        (t.eng.get e).queue = x.queue ++ ((s.heldDesc.filter fun h => h.1 == e.1).take (64 - x.queue.length)).map Prod.snd ∧
        (t.eng.get e).sram = x.sram ∧ (∀ e', e' ≠ e → t.eng.get e' = s.eng.get e') ∧ OnlyIn [.eng, .heldDesc] s.toMach t)

/-- R134, R136, R140, R141, R170, R185. How many passes are replayed is the model's free value. -/
def Obligations.ThinLayersEdgeAndPrefetch : Prop :=
  ∀ (s : State) (e : Fin 72) (d : Fin 4) (k : Fin 2) (neuron : Bool) (sid : Nat),
    let die := Mach.dieOfEng e
    let l := s.lvl.get die
    let unit : Fin 8 := ⟨2 * d.1 + k.1, by omega⟩
    let free := fun (j : Nat) => (s.rst.dies.get d).tleGood.getLsbD j && (vat s.tle (2 * d.1 + j)).isNone
    (s.tleq.get d = [] ∨ (free 0 = false ∧ free 1 = false) → Idles (.tleRequestStart d) s) ∧
    (∀ q ∈ (s.tleq.get d).head?, free k.1 = true → (k.1 = 1 → free 0 = false) →
      Does (.tleRequestStart d) s fun t =>
        t.tle.get unit = some q ∧ t.tleq.get d = (s.tleq.get d).tail ∧ (∀ u, u ≠ unit → t.tle.get u = s.tle.get u) ∧
        t.cache.tle.get unit = s.tleWeights q ∧ OnlyIn [.tle, .tleq, .cache] s.toMach t) ∧
    (∀ q ∈ s.tle.get unit,
      (q.dropped = true → Does (.tleRequestDone d k) s fun t => t.tle.get unit = none ∧ OnlyIn [.tle] s.toMach t) ∧
      (q.dropped = false → (s.eng.get (Fin.ofNat 72 q.eng)).run.isSome = true →
        Does (.tleRequestDone d k) s fun t =>
          t.tle.get unit = none ∧ t.g (R.TLE_LAYERS unit) = (s.g (R.TLE_LAYERS unit) + 1) % 2 ^ 32 ∧
          OnlyIn [.regs, .tick, .fe, .eng, .tleq, .tle, .heldDesc, .jnl, .led, .fn, .cache, .draws] s.toMach t)) ∧
    (l.edge = false → Idles (.edgeError e neuron) s) ∧
    (l.edge = true → Does (.edgeError e neuron) s fun t =>
      t.g (R.ENG_EDGE_ERR e) = (s.g (R.ENG_EDGE_ERR e) + 1) % 2 ^ 32 ∧ t.g (R.ENG_ERR_EDGE_ERR e) = 1 ∧ t.g (R.ENG_D_DSTAT_TRIP die) = 1 ∧
      (neuron = false → ∃ n ∈ List.range 9, 1 ≤ n ∧ t.g (R.ENG_REPLAYS e) = (s.g (R.ENG_REPLAYS e) + n) % 2 ^ 32) ∧
      (neuron = true → t.g (R.ENG_REPLAYS e) = (s.g (R.ENG_REPLAYS e) + 1) % 2 ^ 32 ∧ (t.eng.get e).flagged = true) ∧
      (t.lvl.get die).freq = l.freq - 1 ∧ (t.lvl.get die).volt = l.volt ∧ (t.lvl.get die).edge = false ∧ (t.lvl.get die).emerg = true ∧
      (t.lvl.get die).trips = min (l.trips + 1) 255 ∧ t.g R.PWR_EMERG = (s.g R.PWR_EMERG + 1) % 2 ^ 32 ∧
      (∀ d', d' ≠ die → t.lvl.get d' = s.lvl.get d') ∧
      OnlyIn [.regs, .tick, .fe, .eng, .tleq, .tle, .heldDesc, .jnl, .led, .lvl, .fn, .cache, .draws] s.toMach t) ∧
    Does (.engTripClear d) s (fun t =>
      t.g (R.ENG_D_DSTAT_TRIP d) = 0 ∧ t.lvl.get d = { s.lvl.get d with trips := 0 } ∧
      RegsBut [(R.ENG_D_DSTAT_TRIP d).a] s.toMach t ∧ OnlyIn [.regs, .lvl] s.toMach t) ∧
    ((s.eng.get e).run = none → Idles (.streamPrefetch e sid) s) ∧
    (∀ r ∈ (s.eng.get e).run, ∀ i ∈ s.descImage r.desc, ∀ p ∈ r.streams.find? (fun (p : StreamPos) => p.sid == sid),
      ∀ st ∈ (i.1.streamsOf i.2).find? (fun (q : StreamRec) => q.sid == sid),
      let src := ((i.1.blob : Int) + st.base + (p.fetched % st.count : Nat) * st.stride).toNat
      let slot := st.ring + p.fetched % st.depth * st.len
      (st.depth ≤ p.fetched - p.used → Idles (.streamPrefetch e sid) s) ∧
      (p.fetched - p.used < st.depth → s.ueIn src st.len = none → slot + st.len ≤ localTop →
        Does (.streamPrefetch e sid) s fun t =>
          t.sramGet e slot st.len = s.dramGet src st.len ∧
          (∃ r' ∈ (t.eng.get e).run, r'.layer = r.layer ∧
            (∃ p' ∈ r'.streams.find? (fun (p : StreamPos) => p.sid == sid), p'.fetched = p.fetched + 1 ∧ p'.used = p.used)) ∧
          (∀ e', e' ≠ e → t.eng.get e' = s.eng.get e') ∧ OnlyIn [.eng, .cache] s.toMach t))

/-- R150, R151, R164, R165, R167, R195. -/
def Obligations.NeuronsPhasesAndLoads : Prop :=
  ∀ (s : State) (f : Fin 8) (e : Fin 72) (ps : PsetRec) (edge : Bool) (at_ : Int) (n : Neuron) (inp inp' : Option Int) (a : Nat),
    let fresh := fun (j : Nat) => Config.freeNat (s.draws + j)
    let y := touch ps edge fresh at_ true inp n
    let z := touch ps false fresh at_ false inp n
    (y.1.v = 0 ∧ y.1.refEnd = toBits 16 (at_ + ps.ref) ∧ y.1.last = toBits 16 at_ ∧ y = touch ps edge fresh at_ true inp' n ∧
      (n.last ≠ toBits 16 at_ ∨ n.refEnd ≠ toBits 16 (at_ + ps.ref) → y.2 = true) ∧ (touch ps edge fresh at_ true inp' y.1).2 = false) ∧
    (z.2 = true → ps.ref < 32768 →
      (touch ps false fresh at_ false inp' z.1).2 = false ∧ (touch ps false fresh at_ false inp' z.1).1.v = z.1.v) ∧
    ((s.fn.get f).popTick = none → Idles (.populationPhase f) s) ∧
    (∀ t0 ∈ (s.fn.get f).popTick,
      (s.spikes.any (·.fn == f) = true ∨ s.popsLoading f t0.tn = true ∨ (s.settleFn f t0.tn).marksWait f t0.tn t0.phase = true →
        Idles (.populationPhase f) s) ∧
      (s.spikes.any (·.fn == f) = false → s.popsLoading f t0.tn = false → (s.settleFn f t0.tn).marksWait f t0.tn t0.phase = false → s.ueLines = [] →
        Does (.populationPhase f) s fun t =>
          (t.fn.get f).popTick = (if t0.phase < 15 then some { t0 with phase := t0.phase + 1 } else none) ∧
          (15 ≤ t0.phase → (t.led.popLast.get f).isSome = true ∧ t.led.popWork.get f = [] ∧ t.led.popEst.get f = 0) ∧
          OnlyIn [.regs, .tick, .eng, .pops, .spikes, .jnl, .led, .fn, .cache, .draws] s.toMach t)) ∧
    (s.spikes.find? (·.fn == f) = none → Idles (.spikeMessage f) s) ∧
    (∀ m ∈ s.spikes.find? (fun (x : SpikeMsg) => x.fn == f),
      Does (.spikeMessage f) s (fun t => t.spikes = s.spikes.erase m ∧ OnlyIn [.eng, .pops, .spikes, .fn] s.toMach t) ∧
      (((s.routerMap f m.epoch).bind fun r => Mach.RoleMap.engine r m.role) = none ∨ s.roleEng f s.heldTick m.role = none →
       Does (.spikeMessage f) s fun t =>
        (t.fn.get f).routeDrop = ((s.fn.get f).routeDrop + 1) % 2 ^ 32 ∧ OnlyIn [.spikes, .fn] s.toMach t)) ∧
    ((s.eng.get e).loading = false → Idles (.roleLoadDone e) s) ∧
    ((s.eng.get e).loading = true → (s.eng.get e).incoming = [] →
      ∀ w ∈ (s.eng.get e).want, ∀ im ∈ s.images.find w.2.2, ∀ rec ∈ im.sourceOf w.2.1, ∀ i ∈ (im.initsOf rec).head?,
        (im.initsOf rec).length = 1 → i.loc + i.len ≤ localTop →
        Does (.roleLoadDone e) s fun t =>
          (t.eng.get e).loading = false ∧ (t.eng.get e).holds = some w ∧
          t.sramGet e i.loc i.len = s.dramGet (im.blob + i.blob) i.len ∧
          (a < i.loc ∨ i.loc + i.len ≤ a → Mem.read (t.eng.get e).sram a = 0) ∧
          (∀ e', e' ≠ e → t.eng.get e' = s.eng.get e') ∧ OnlyIn [.regs, .eng, .jnl, .fn, .cache, .out] s.toMach t)

/-! ## Fusion (09_fusion_tracking.md) -/

/-- R234, R235. -/
def Obligations.AuctionIsLeastCost : Prop :=
  ∀ (b : List GPair) (spawn miss bids : Nat) (own : List (Option Nat)),
    let ms := sortNat ((b.map (·.mi)).eraseDups)
    let cs := sortNat ((b.map (·.slot)).eraseDups)
    let n := ms.length + cs.length
    let a := benefit b ms cs spawn miss
    Auction.run n a (bids + 1)
      { price := List.replicate n 0, owner := List.replicate n none, eps := max 1 (65535 * ((n + 1 : Nat) : Int) / 64) } = some own →
    own.length = n ∧ (∀ i < n, own.count (some i) = 1) ∧
    (∀ j < n, ∀ i ∈ (own[j]?).join, i < n ∧ (a i j).isSome = true) ∧
    ∀ σ : Equiv.Perm (Fin n), (∀ i : Fin n, (a i (σ i)).isSome = true) →
      ((List.finRange n).map fun (i : Fin n) => (a i (σ i)).getD 0).sum ≤
        ((List.finRange n).map fun (j : Fin n) => match (own[j.1]?).join with | some i => (a i j).getD 0 | none => 0).sum

/-- R35, R216, R232, R244; EN = 0 is the model's reading (log entry 40). -/
def Obligations.FusionWaitsAndFinishes : Prop :=
  ∀ (s : State),
    (s.nextFuse = none → Idles .fusionTick s) ∧
    (∀ a ∈ s.nextFuse,
      (s.working = false ∨ a.gridClosed = false ∨ a.admitted = false ∨ s.classPending a.tn = true → Idles .fusionTick s) ∧
      (s.working = true → a.gridClosed = true → a.admitted = true → s.classPending a.tn = false →
        (s.on R.FUS_CTRL_EN = true → s.mdAt s.webEnc (a.tEnd.getD 0) = .notYet → Idles .fusionTick s) ∧
        (s.on R.FUS_CTRL_EN = true → ∀ v, s.mdAt s.webEnc (a.tEnd.getD 0) = .ok v → s.curdMdWaits a.tn = true → Idles .fusionTick s) ∧
        (s.on R.FUS_CTRL_EN = true → s.mdAt s.webEnc (a.tEnd.getD 0) ≠ .notYet →
          (∀ v, s.mdAt s.webEnc (a.tEnd.getD 0) = .ok v → s.curdMdWaits a.tn = false) → Does .fusionTick s fun t =>
          (∃ b ∈ t.acct? a.tn, b.fused = true) ∧ t.tick.tn = s.tick.tn ∧ t.time.n = s.time.n ∧
          OnlyIn [.regs, .time, .tick, .fus, .jnl, .led, .sleep, .fn, .link, .cache, .draws, .out] s.toMach t) ∧
        (s.on R.FUS_CTRL_EN = false → Does .fusionTick s fun t =>
          (∃ b ∈ t.acct? a.tn, b.fused = true) ∧ t.fus.store = s.fus.store ∧ t.fus.serial = s.fus.serial ∧
          OnlyIn [.regs, .tick, .fus, .jnl, .fn, .cache, .out] s.toMach t))) ∧
    (s.fus.store.all (fun (e : Nat × Track) => e.2.offer.isNone) = true → Idles .hoOfferRepeat s) ∧
    (∀ e ∈ s.fus.store.head?, ∀ o ∈ e.2.offer,
      let l := Fin.ofNat 4 o.1
      s.fus.store = [e] → e.2.c.hoPend = true → e.2.acked = false → o.2.1 + 1 + atLeast1 (s.g R.FUS_HO_HO_TMO) ≤ s.tick.tn → s.hoRefuse l = false →
        Does .hoOfferRepeat s fun t =>
          (∃ e' ∈ t.fus.store.find e.1, e'.offer = some (l.1, s.tick.tn - 1, true) ∧ e'.c.md = e.2.c.md ∧ e'.fn = e.2.fn) ∧
          t.g (R.LNK_HO_OFFER_TX l) = (s.g (R.LNK_HO_OFFER_TX l) + 1) % 2 ^ 32 ∧ (∀ k, k ≠ l → t.link.get k = s.link.get k) ∧
          OnlyIn [.regs, .fus, .link] s.toMach t)

/-- R249, R252, R253. -/
def Obligations.CalibrationIntervals : Prop :=
  ∀ (s : State) (p : Fin 16),
    let u := s.fus
    (s.on R.FUS_CTRL_CAL_EN = false → Idles .calIntervalEnd s) ∧
    (s.on R.FUS_CTRL_CAL_EN = true → u.solving = none → Does .calIntervalEnd s fun t =>
      t.fus = { u with solving := some u.sums, sums := Vector.replicate 16 {}, calFrom := s.calDue } ∧ s.calDue ≤ t.elapsed ∧
      OnlyIn [.fus, .time, .enc, .jnl, .regs, .tick, .cache] s.toMach t) ∧
    (s.on R.FUS_CTRL_CAL_EN = true → u.solving ≠ none → Does .calIntervalEnd s fun t =>
      t.fus.solving = u.solving ∧ t.fus.sums = Vector.replicate 16 {} ∧
      (u.waiting = none → t.fus.waiting = some u.sums) ∧
      (∀ w ∈ u.waiting, ∃ w' ∈ t.fus.waiting, ∀ i : Fin 16, (w'.get i).n = (w.get i).n + (u.sums.get i).n ∧ (w'.get i).sCd = (w.get i).sCd + (u.sums.get i).sCd ∧
        (w'.get i).sMd = (w.get i).sMd + (u.sums.get i).sMd) ∧
      t.g R.FUS_CAL_DEFER = (s.g R.FUS_CAL_DEFER + 1) % 2 ^ 32 ∧ t.g R.FUS_STAT_CAL_DEFER = 1 ∧ t.fus.store = u.store ∧
      s.calDue ≤ t.elapsed ∧ OnlyIn [.fus, .time, .enc, .jnl, .regs, .tick, .cache] s.toMach t) ∧
    (u.solving = none → Idles .calSolveDone s) ∧
    (u.solving ≠ none → Does .calSolveDone s fun t =>
      t.fus.solving = u.waiting ∧ t.fus.waiting = none ∧ t.fus.store = u.store ∧ t.fus.homs = u.homs ∧ t.fus.sums = u.sums ∧
      (∀ c ∈ t.fus.installs, c ∈ u.installs ∨ (c.tnEff = s.tick.tn + 2 ∧ s.calFixed c.port = false)) ∧
      OnlyIn [.regs, .tick, .fus, .jnl, .cache, .draws] s.toMach t) ∧
    (let h := (u.homs.get p).at_ s.tick.tn
     Does (.fusPHRead p) s fun t =>
      (∀ k : Fin 18, (t.rd (R.FUS_P_H_A p k)).toNat = toBits 64 (h.at_ (k.1 / 2)) / 2 ^ (32 * (k.1 % 2)) % 2 ^ 32) ∧
      t.g (R.FUS_P_HVER_VERSION p) = h.version % 2 ^ 16 ∧ t.g (R.FUS_P_HVER_SRC p) = h.online.toNat ∧
      t.out.length = s.out.length + 1 ∧ OnlyIn [.regs, .out] s.toMach t)

/-! ## Reports, the journal, power failure and the store (10_reports_actions.md, 16_memory_store.md) -/

/-- R269, R270, R284, R460. -/
def Obligations.ReaderTakesLowestClass : Prop :=
  ∀ (s : State) (f : Fin 8) (c : Fin 4),
    (s.readerNext = none → Idles (.reportDelivery f c) s ∧ ∀ x ∈ s.jnl.recs, s.deliverable x = false) ∧
    (∀ r ∈ s.readerNext,
      r ∈ s.jnl.recs ∧ s.deliverable r = true ∧ (∀ x ∈ s.jnl.recs, s.deliverable x = true → r.cls ≤ x.cls) ∧
      (r.fn ≠ f ∨ r.cls ≠ c.1 → Idles (.reportDelivery f c) s) ∧
      (r.fn = f → r.cls = c.1 → r.early = true → Does (.reportDelivery f c) s fun t =>
        t.nvs.op = some (.readBack f c.1 r.count) ∧ OnlyIn [.nvs, .out] s.toMach t) ∧
      (r.fn = f → r.cls = c.1 → r.early = false → Does (.reportDelivery f c) s fun t =>
        let k := (s.ring f (rptRing c)).count
        .report f c.1 (k % s.ringSize f (rptRing c)) (Mach.phaseOf (s.ringSize f (rptRing c)) k) r
          (r.bytes (Mach.phaseOf (s.ringSize f (rptRing c)) k)) ∈ t.out ∧
        (t.ring f (rptRing c)).count = (k + 1) % 2 ^ 32 ∧ (∀ x ∈ t.jnl.recs, x.same r = true → x.hostDone = true) ∧
        (∀ g : Fin 8, ∀ q : Fin 7, g ≠ f ∨ q ≠ rptRing c → t.ring g q = s.ring g q) ∧
        t.jnl.next = s.jnl.next ∧ t.jnl.actions = s.jnl.actions ∧
        OnlyIn [.regs, .tick, .jnl, .fn, .cache, .draws, .out] s.toMach t))

/-- R275, R280 step 3, R282, R456. -/
def Obligations.GroupsFormAndBecomeDurable : Prop :=
  ∀ (s : State),
    let l := s.toCommit
    let now : Option Group := match s.jnl.pf with
      | some (.committing parts) => if l ≠ [] then some (s.newGroup (l.take 1016) 0) else if parts < 3 then some (s.newGroup [] (parts + 1)) else none
      | some .done => none
      | none => if 1016 ≤ l.length then some (s.newGroup (l.take 1016) 0) else none
    (s.canCommit = false → Idles .commitGroupForm s) ∧
    (now = none → s.jnl.pf ≠ none ∨ l = [] → Idles .commitGroupForm s) ∧
    (s.canCommit = true → ∀ g ∈ now,
      let hits := fun (e : Nat × Group) => Mach.overlaps (s.placeGroup g.units) g.units e.1 e.2.units && s.groupLive e.2
      (s.nvs.log.any hits = false → Does .commitGroupForm s fun t =>
        t.jnl.group = some g ∧ t.jnl.gseq = s.jnl.gseq + 1 ∧ t.jnl.recs = s.jnl.recs ∧ t.nvs.op = some .groupWrite ∧
        t.nvs.unit = s.placeGroup g.units ∧ t.nvs.state = 2 ∧ (∀ e ∈ s.nvs.log, s.groupLive e.2 = true → e ∈ t.nvs.log) ∧
        OnlyIn [.jnl, .nvs, .out] s.toMach t) ∧
      (s.nvs.log.any hits = true → Does .commitGroupForm s fun t =>
        t.jnl.group = none ∧ t.nvs.state = 4 ∧ t.nvs.log = s.nvs.log ∧ OnlyIn [.regs, .tick, .jnl, .nvs, .cache] s.toMach t)) ∧
    (s.canCommit = true → s.jnl.pf = none → l.length < 1016 → ∀ r ∈ l.head?,
      Does .commitGroupForm s fun t =>
        r.at_ + s.g R.JNL_COMMIT_MAX_AGE * 1000 ≤ t.time.n ∧ (t.jnl.group = none → t.nvs.state = 4) ∧
        (∀ g ∈ t.jnl.group, g.snapshot = 0 ∧ ∃ r' ∈ g.recs.head?, r'.same r = true) ∧
        OnlyIn [.regs, .time, .tick, .enc, .jnl, .nvs, .cache, .out] s.toMach t) ∧
    (s.jnl.group = none ∨ s.nvs.flushed = false → Idles .commitGroupDurable s) ∧
    (s.nvs.flushed = true → ∀ g ∈ s.jnl.group, Does .commitGroupDurable s fun t =>
      t.jnl.group = none ∧ t.nvs.flushed = false ∧ t.nvs.log = s.nvs.log ++ [(s.nvs.unit, g)] ∧ t.nvs.unit = s.nvs.unit + g.units ∧
      t.nvs.lastGseq = g.gseq ∧ (g.final = true → t.nvs.snap = some s.snapshotData) ∧ (g.final = false → t.nvs.snap = s.nvs.snap) ∧
      (∀ x ∈ t.jnl.recs, g.recs.any (JRec.same x) = true → x.committed = true) ∧
      (∀ x ∈ t.jnl.recs, x ∈ s.jnl.recs ∨ ∃ y ∈ s.jnl.recs, g.recs.any (JRec.same y) = true ∧ x = { y with committed := true }) ∧
      t.g R.JNL_COMMITS = (s.g R.JNL_COMMITS + 1) % 2 ^ 32 ∧ RegsBut [R.JNL_COMMITS.a] s.toMach t ∧ OnlyIn [.regs, .jnl, .nvs] s.toMach t)

/-- R276, R280, R281, R40. -/
def Obligations.HoldupAndFinalCommit : Prop :=
  ∀ (s : State) (mv : Nat),
    let v := (rnd ((min mv 1200 : Nat) * (s.g R.JNL_HU_DIV : Int)) (2 ^ 24)).toNat
    let vmin := s.g R.JNL_HU_VMIN
    Does (.holdupSample mv) s (fun t =>
      (s.time.n.fdiv 10000 + 1) * 10000 ≤ t.time.n ∧ t.g R.JNL_HU_V = min v (2 ^ 32 - 1) ∧
      t.g R.JNL_HU_E = (if v ≤ vmin then 0 else min (s.g R.JNL_HU_C * (v * v - vmin * vmin) / 2000000) (2 ^ 32 - 1)) ∧
      RegsOutside 0x1E0000 0x200000 s.toMach t ∧ OnlyIn [.regs, .time, .tick, .enc, .jnl, .cache] s.toMach t) ∧
    (s.rst.hold = some .por → Idles .powerFail s) ∧
    (s.rst.hold ≠ some .por →
      (s.jnl.pf ≠ none → Does .powerFail s fun t => t.jnl = { s.jnl with pfLow := true, recoverFrom := none } ∧ OnlyIn [.jnl] s.toMach t) ∧
      (s.jnl.pf = none → Does .powerFail s fun t =>
        t.jnl.pf = some (.committing 0) ∧ t.jnl.pfFirst = s.jnl.gseq + 1 ∧ t.jnl.pfLow = true ∧ t.jnl.recoverFrom = none ∧
        (∀ d : Fin 4, (t.lvl.get d).freq = 0 ∧ (t.lvl.get d).emerg = true ∧ (t.lvl.get d).volt = (s.lvl.get d).volt) ∧
        (∀ o : Fin 8, (t.time.trigOut.get o).actUntil = none) ∧ t.time.n = s.time.n ∧ t.tick.wdogArmed = false ∧
        t.g R.JNL_PF_COUNT = (s.g R.JNL_PF_COUNT + 1) % 2 ^ 32 ∧
        ((∀ d : Fin 4, (s.lvl.get d).edge = false) →
          t.jnl = { s.jnl with pf := some (.committing 0), pfFirst := s.jnl.gseq + 1, pfLow := true, recoverFrom := none } ∧
          RegsBut [R.JNL_PF_COUNT.a, R.PWR_EMERG.a] s.toMach t ∧ OnlyIn [.regs, .time, .tick, .jnl, .lvl] s.toMach t) ∧
        OnlyIn [.regs, .time, .tick, .fe, .eng, .tleq, .tle, .heldDesc, .jnl, .led, .lvl, .fn, .cache, .draws] s.toMach t)) ∧
    (s.jnl.pf = none ∨ s.jnl.pf = some .done ∨ s.finalDone = false → Idles .finalCommitDone s) ∧
    (s.jnl.pf ≠ none → s.jnl.pf ≠ some .done → s.finalDone = true → Does .finalCommitDone s fun t =>
      t.jnl = { s.jnl with pf := some .done, recoverFrom := if s.jnl.pfLow then none else some s.elapsed } ∧
      t.g R.JNL_STAT_FINAL_DONE = 1 ∧ RegsBut [R.JNL_STAT_FINAL_DONE.a] s.toMach t ∧ OnlyIn [.regs, .jnl] s.toMach t) ∧
    Does .pwrFailNReturn s (fun t =>
      t.jnl.pfLow = false ∧ t.jnl.pf = s.jnl.pf ∧ t.jnl.recs = s.jnl.recs ∧
      (s.jnl.pf = some .done → s.jnl.recoverFrom = none → t.jnl.recoverFrom = some s.elapsed) ∧
      (s.jnl.pf ≠ some .done ∨ s.jnl.recoverFrom ≠ none → t.jnl.recoverFrom = s.jnl.recoverFrom) ∧ OnlyIn [.jnl] s.toMach t)

/-- R286, R288 to R290, R299. A table frozen by EN = 0 is the reading of log entry 85. -/
def Obligations.ActionsResolveAtTheirTrigger : Prop :=
  ∀ (s : State) (o : Fin 8) (f : Fin 8) (c : Fin 4) (a : Action),
    let fires := fun (t : Mach) =>
      t.jnl.actions = [] ∧ (∃ u ∈ (t.time.trigOut.get a.out).actUntil, t.elapsed + a.width * 1000 ≤ u) ∧
      t.g R.ACT_FIRED = (s.g R.ACT_FIRED + 1) % 2 ^ 32 ∧ t.g R.ACT_MISSED = s.g R.ACT_MISSED
    let misses := fun (t : Mach) =>
      t.jnl.actions = [] ∧ t.time.trigOut = s.time.trigOut ∧ t.g R.ACT_MISSED = (s.g R.ACT_MISSED + 1) % 2 ^ 32 ∧ t.g R.ACT_FIRED = s.g R.ACT_FIRED
    (s.nextTimeTrigger = none → Idles .actionTriggerTime s) ∧
    (∀ t0 ∈ s.nextTimeTrigger, Does .actionTriggerTime s fun t =>
      t0 ≤ t.time.n ∧
      (s.actionsRun = true → ∀ e ∈ s.jnl.actions, e.2.slot = e.1 → e.2.kind = false → e.2.lateBy = none → e.2.trigger ≤ t.time.n →
        ∀ x ∈ Tab.find t.jnl.actions e.1, x.lateBy ≠ none) ∧
      (s.actionsRun = true → s.jnl.actions = [(a.slot, a)] → s.trigHeld = false →
        (s.actionMode a.out = true → fires t) ∧ (s.actionMode a.out = false → misses t)) ∧
      OnlyIn [.regs, .time, .tick, .enc, .jnl, .cache] s.toMach t) ∧
    (s.actionsRun = false → Idles .actionTriggerPosition s) ∧
    (s.actionsRun = true → Does .actionTriggerPosition s fun t =>
      (∀ e ∈ s.jnl.actions, e.2.slot = e.1 → e.2.kind = true → e.2.reached = true → e.2.lateBy = none →
        ∀ x ∈ Tab.find t.jnl.actions e.1, x.lateBy ≠ none) ∧
      (s.jnl.actions = [(a.slot, a)] → a.kind = true → a.reached = true → a.lateBy = none → s.trigHeld = false →
        (s.actionMode a.out = true → fires t) ∧ (s.actionMode a.out = false → misses t)) ∧
      OnlyIn [.regs, .time, .tick, .jnl, .cache] s.toMach t) ∧
    ((s.time.trigOut.get o).actUntil = none → Idles (.actionPulseEnd o) s) ∧
    (∀ u ∈ (s.time.trigOut.get o).actUntil, Does (.actionPulseEnd o) s fun t =>
      u ≤ t.elapsed ∧ (t.time.trigOut.get o).actUntil = none ∧ OnlyIn [.regs, .time, .tick, .enc, .jnl, .cache] s.toMach t) ∧
    Does (.actCtrlEn false) s (fun t =>
      t.g R.ACT_CTRL_EN = 0 ∧ (∀ k : Fin 8, (t.time.trigOut.get k).actUntil = none) ∧ t.time.n = s.time.n ∧
      RegsBut [R.ACT_CTRL_EN.a] s.toMach t ∧ OnlyIn [.regs, .time] s.toMach t) ∧
    Does (.actCtrlEn true) s (fun t =>
      t.g R.ACT_CTRL_EN = 1 ∧ (s.on R.ACT_CTRL_EN = true → t.jnl = s.jnl ∧ t.time = s.time) ∧ OnlyIn [.regs, .time, .tick, .jnl, .cache] s.toMach t) ∧
    Does (.jnlFRsnRead f c) s (fun t =>
      let v := s.jnl.epoch * 2 ^ 48 + s.jnl.next.get (Mach.stream f c)
      t.g64 (R.JNL_F_RSN_A f (2 * c.1)) (R.JNL_F_RSN_A f (2 * c.1 + 1)) = v % 2 ^ 64 ∧
      t.out = .readValue (R.JNL_F_RSN_A f (2 * c.1)) (BitVec.ofNat 32 v) :: s.out ∧
      RegsBut [R.JNL_F_RSN_A f (2 * c.1), R.JNL_F_RSN_A f (2 * c.1 + 1)] s.toMach t ∧ OnlyIn [.regs, .out] s.toMach t)

/-- R454, R455, R459, R463. -/
def Obligations.StoreCommandsAndRetries : Prop :=
  ∀ (s : State) (reply : NvmeReply),
    let fault := fun (why : Nat) (t : Mach) => t.nvs.state = 3 ∧ t.nvs.why = why ∧ t.nvs.op = none ∧ t.nvs.log = s.nvs.log
    let waits := fun (op : NvmeOp) (t : Mach) => t.nvs.op = some op ∧ t.nvs.retryWait = true ∧ t.nvs.tries = s.nvs.tries ∧ t.nvs.state = s.nvs.state
    let issues := fun (op : NvmeOp) (t : Mach) => t.nvs.op = some op ∧ t.nvs.tries = 0 ∧ t.nvs.retryWait = false ∧ t.out.head? = some (.nvme op (t.nvmeData op))
    (s.on R.NVS_CTRL_EN = false → Does .nvsReinit s fun t => t.nvs.state = 0 ∧ t.nvs.op = none ∧ t.nvs.log = s.nvs.log ∧ OnlyIn [.nvs] s.toMach t) ∧
    (s.on R.NVS_CTRL_EN = true → Does .nvsReinit s fun t =>
      t.nvs.state = 1 ∧ issues (.bringUp 1) t ∧ t.nvs.lbaFirst = s.g64 R.NVS_LBA_FIRST_LO_A R.NVS_LBA_FIRST_HI_A ∧
      t.nvs.lbaCount = s.g64 R.NVS_LBA_COUNT_LO_A R.NVS_LBA_COUNT_HI_A ∧ t.nvs.log = s.nvs.log ∧ OnlyIn [.nvs, .out] s.toMach t) ∧
    (s.nvs.state ≠ 3 → Idles .nvsReinitRetry s) ∧
    (s.nvs.state = 3 → Does .nvsReinitRetry s fun t =>
      s.nvs.opAt + 10000000000 ≤ t.elapsed ∧ t.nvs.state = (s.on R.NVS_CTRL_EN).toNat ∧
      OnlyIn [.regs, .time, .tick, .enc, .jnl, .nvs, .cache, .out] s.toMach t) ∧
    (s.nvs.retryWait = true ∨ s.nvs.op = none → Idles (.nvmeCompletion reply) s ∧ Idles .nvmeTimeout s) ∧
    (s.nvs.retryWait = false → ∀ op ∈ s.nvs.op,
      (op = .bringUp 1 → Does (.nvmeCompletion .ok) s fun t => issues (.bringUp 2) t ∧ OnlyIn [.nvs, .out] s.toMach t) ∧
      (op = .bringUp 1 ∨ op = .bringUp 2 → ∀ k ∈ [1, 2], op = .bringUp k →
        Does (.nvmeCompletion .error) s (fun t => fault k t ∧ OnlyIn [.regs, .nvs] s.toMach t) ∧
        Does .nvmeTimeout s (fun t => fault k t ∧ OnlyIn [.regs, .nvs] s.toMach t)) ∧
      (op = .groupWrite → Does (.nvmeCompletion .ok) s fun t =>
        issues .groupFlush t ∧ t.g R.NVS_WRITES = (s.g R.NVS_WRITES + 1) % 2 ^ 32 ∧ RegsBut [R.NVS_WRITES.a] s.toMach t ∧ OnlyIn [.regs, .nvs, .out] s.toMach t) ∧
      (op = .groupFlush → Does (.nvmeCompletion .ok) s fun t =>
        t.nvs.op = none ∧ t.nvs.flushed = true ∧ t.g R.NVS_FLUSHES = (s.g R.NVS_FLUSHES + 1) % 2 ^ 32 ∧ RegsBut [R.NVS_FLUSHES.a] s.toMach t ∧
        OnlyIn [.regs, .nvs] s.toMach t) ∧
      ((∀ k ∈ [1, 2], op ≠ .bringUp k) → s.nvs.tries < 3 →
        Does (.nvmeCompletion .error) s (fun t => waits op t ∧ OnlyIn [.nvs] s.toMach t) ∧
        Does .nvmeTimeout s (fun t => waits op t ∧ s.nvs.opAt + atLeast1 (s.g R.NVS_TMO) * 1000000 ≤ t.elapsed ∧
          OnlyIn [.regs, .time, .tick, .enc, .jnl, .nvs, .cache] s.toMach t)) ∧
      ((∀ k ∈ [1, 2], op ≠ .bringUp k) → 3 ≤ s.nvs.tries →
        Does (.nvmeCompletion .error) s (fun t => fault 5 t ∧ t.g R.NVS_FAULTS = (s.g R.NVS_FAULTS + 1) % 2 ^ 32 ∧
          OnlyIn [.regs, .tick, .jnl, .nvs, .cache] s.toMach t))) ∧
    (s.nvs.retryWait = false ∨ s.nvs.op = none → Idles .nvmeRetry s) ∧
    (s.nvs.retryWait = true → ∀ op ∈ s.nvs.op, Does .nvmeRetry s fun t =>
      s.nvs.opAt + (if s.nvs.tries = 0 then 1 else if s.nvs.tries = 1 then 10 else 100) * 1000000 ≤ t.elapsed ∧ t.nvs.op = some op ∧
      t.nvs.tries = s.nvs.tries + 1 ∧ t.nvs.retryWait = false ∧ t.out = .nvme op (t.nvmeData op) :: s.out ∧ t.g R.NVS_RETRIES = (s.g R.NVS_RETRIES + 1) % 2 ^ 32 ∧
      OnlyIn [.regs, .time, .tick, .enc, .jnl, .nvs, .cache, .out] s.toMach t) ∧
    ((s.nvs.state ≠ 2 ∧ s.nvs.state ≠ 4) ∨ s.nvs.op ≠ none → Idles .superblockWrite s) ∧
    (s.nvs.state = 2 ∨ s.nvs.state = 4 → s.nvs.op = none → Does .superblockWrite s fun t =>
      issues .sbWrite t ∧ (s.nvs.sbGroups < 1024 → s.nvs.sbAt + 10000000000 ≤ t.elapsed) ∧ t.nvs.log = s.nvs.log ∧
      OnlyIn [.regs, .time, .tick, .enc, .jnl, .nvs, .cache, .out] s.toMach t) ∧
    Does .nvsGseqRead s (fun t =>
      t.g64 R.NVS_GSEQ_LO_A R.NVS_GSEQ_HI_A = s.nvs.lastGseq % 2 ^ 64 ∧ t.out = .readValue R.NVS_GSEQ_LO_A (BitVec.ofNat 32 s.nvs.lastGseq) :: s.out ∧
      RegsBut [R.NVS_GSEQ_LO_A, R.NVS_GSEQ_HI_A] s.toMach t ∧ OnlyIn [.regs, .out] s.toMach t)

/-! ## Levels, temperature and sleep (11_energy_scheduling.md) -/

/-- R311, R312, R316, R318. That levels above 7 are rejected is the model's reading (log entry 53). -/
def Obligations.LevelChangesKeepOrder : Prop :=
  ∀ (s : State) (g : Fin 6) (mw : Nat) (d : Fin 4) (val : Word),
    let l := s.lvl.get d
    let v := val.toNat
    let man := bitN v 31
    let f := bitsN v 27 24
    let u := bitsN v 23 20
    let edge := bitN v 19 && decide (2 ≤ u) && f == u
    let bad : Bool := decide (7 < f) || decide (7 < u) || decide (u < f) || decide (l.volt < f) || decide (u < l.freq) ||
      (edge && !s.edgeElig d u s.tick.tn)
    (s.on (R.PWR_R_CFG_PMB_EN g) = false → Idles (.pmbusTelemetry g (some mw)) s ∧ Idles (.pmbusTelemetry g none) s) ∧
    (s.on (R.PWR_R_CFG_PMB_EN g) = true →
      Does (.pmbusTelemetry g (some mw)) s (fun t =>
        t.g (R.PWR_R_P g) = mw % 2 ^ 32 ∧ t.led.pmbFails.get g = 0 ∧ t.led.frozen.get g = false ∧
        (∃ n ∈ t.led.gNext.get g, 8192 ≤ s.g (R.PWR_R_K_G g) → s.g (R.PWR_R_K_G g) ≤ 32768 → 8192 ≤ n ∧ n ≤ 32768) ∧
        (∀ k : Fin 6, k ≠ g → t.led.gNext.get k = s.led.gNext.get k ∧ t.led.pmbFails.get k = s.led.pmbFails.get k) ∧
        OnlyIn [.regs, .tick, .jnl, .led, .cache, .draws] s.toMach t) ∧
      Does (.pmbusTelemetry g none) s (fun t =>
        t.led.pmbFails.get g = s.led.pmbFails.get g + 1 ∧ t.g R.PWR_PMB_ERR = (s.g R.PWR_PMB_ERR + 1) % 2 ^ 32 ∧ t.led.gNext = s.led.gNext ∧
        (s.led.pmbFails.get g = 2 → t.led.frozen.get g = true ∧ t.g R.PWR_STAT_PMB_FAIL = 1) ∧
        (s.led.pmbFails.get g ≠ 2 → t.led.frozen = s.led.frozen ∧ RegsBut [R.PWR_PMB_ERR.a] s.toMach t ∧ t.jnl = s.jnl) ∧
        OnlyIn [.regs, .tick, .jnl, .led, .cache] s.toMach t)) ∧
    (l.raising = none → Idles (.avsVoltageReached d) s ∧ Idles (.avsTimeout d) s) ∧
    (∀ x ∈ l.raising,
      Does (.avsVoltageReached d) s (fun t =>
        l.avsAt + s.g R.CLK_AVS_PL_SETTLE * 1000 ≤ t.elapsed ∧
        t.lvl.get d = { l with freq := x.1, volt := x.1, voltEdge := x.2, edge := x.2, raising := none } ∧
        (∀ k, k ≠ d → t.lvl.get k = s.lvl.get k) ∧
        (l.edge = x.2 → RegsOutside 0x1E0000 0x200000 s.toMach t ∧ OnlyIn [.regs, .time, .tick, .enc, .jnl, .lvl, .cache] s.toMach t) ∧
        OnlyIn [.regs, .time, .tick, .fe, .eng, .tleq, .tle, .heldDesc, .enc, .jnl, .led, .lvl, .fn, .cache, .draws] s.toMach t) ∧
      Does (.avsTimeout d) s (fun t =>
        l.avsAt + s.g R.CLK_AVS_AVS_TMO * 1000 ≤ t.elapsed ∧ t.lvl.get d = { l with raising := none, blocked := true } ∧
        (∀ k, k ≠ d → t.lvl.get k = { s.lvl.get k with blocked := (s.lvl.get k).blocked && s.on R.PWR_STAT_AVS_FAIL }) ∧
        t.g R.PWR_STAT_AVS_FAIL = 1 ∧ t.out = .avs d.1 l.volt l.voltEdge :: s.out ∧
        OnlyIn [.regs, .time, .tick, .enc, .jnl, .lvl, .cache, .out] s.toMach t)) ∧
    (man = true → s.manualOk d = false → Does (.clkManualWrite d val) s fun t =>
      t.g (R.CLK_D_STAT_CFG_WR d) = 1 ∧ RegsBut [(R.CLK_D_STAT_CFG_WR d).a] s.toMach t ∧ OnlyIn [.regs] s.toMach t) ∧
    (man = true → s.manualOk d = true → bad = true → Does (.clkManualWrite d val) s fun t =>
      t.g R.PWR_STAT_PL_SEQ_ERR = 1 ∧ RegsBut [R.PWR_STAT_PL_SEQ_ERR.a] s.toMach t ∧ OnlyIn [.regs] s.toMach t) ∧
    (man = true → s.manualOk d = true → bad = false → Does (.clkManualWrite d val) s fun t =>
      (t.lvl.get d).freq = f ∧ (t.lvl.get d).volt = u ∧ (t.lvl.get d).raising = none ∧ (t.lvl.get d).edge = edge ∧
      t.rd (R.CLK_D_CTRL_A d) = val &&& 0x8FF8FFFF#32 ∧ (∀ k, k ≠ d → t.lvl.get k = s.lvl.get k) ∧
      (l.edge = edge → RegsBut [R.CLK_D_CTRL_A d] s.toMach t ∧ OnlyIn [.regs, .lvl, .out] s.toMach t) ∧
      OnlyIn [.regs, .tick, .fe, .eng, .tleq, .tle, .heldDesc, .jnl, .led, .lvl, .fn, .cache, .draws, .out] s.toMach t) ∧
    (man = false → u < f → Does (.clkManualWrite d val) s fun t =>
      t.g R.PWR_STAT_PL_SEQ_ERR = 1 ∧ RegsBut [R.PWR_STAT_PL_SEQ_ERR.a] s.toMach t ∧ OnlyIn [.regs] s.toMach t) ∧
    (man = false → f ≤ u → Does (.clkManualWrite d val) s fun t =>
      t.rd (R.CLK_D_CTRL_A d) = val &&& 0x8FF8FFFF#32 ∧ RegsBut [R.CLK_D_CTRL_A d] s.toMach t ∧ OnlyIn [.regs] s.toMach t)

/-- R317, R320, R321. That a die at PL0 takes no further step is the model's reading (log entry 53). -/
def Obligations.DroopAndThrottle : Prop :=
  ∀ (s : State) (d : Fin 4) (k : Fin 24) (reading : Int),
    let l := s.lvl.get d
    let hot := toSigned 16 (toBits 16 reading) ≥ s.throttleAt * 256
    let warm := toSigned 16 (toBits 16 reading) ≥ (s.throttleAt - s.g R.THM_CTRL_HYST) * 256
    let plain := ∀ j : Fin 4, (s.lvl.get j).edge = false
    let stepped := fun (t : Mach) =>
      (∀ j ∈ Mach.sensorDies k, (t.lvl.get j).freq = (s.lvl.get j).freq - 1 ∧ (t.lvl.get j).tl = (s.lvl.get j).freq - 1 ∧
        (t.lvl.get j).volt = (s.lvl.get j).volt ∧ (t.lvl.get j).tlFrom = t.elapsed ∧ ((s.lvl.get j).freq ≠ 0 → (t.lvl.get j).emerg = true)) ∧
      (∀ j : Fin 4, j ∉ Mach.sensorDies k → t.lvl.get j = s.lvl.get j)
    (l.stretch ≠ none → Idles (.droopDetected d) s) ∧
    (l.stretch = none → Does (.droopDetected d) s fun t =>
      t.lvl.get d = { l with stretch := some s.elapsed } ∧ (∀ j, j ≠ d → t.lvl.get j = s.lvl.get j) ∧
      t.g (R.CLK_D_DROOP_EVENTS d) = (s.g (R.CLK_D_DROOP_EVENTS d) + 1) % 2 ^ 32 ∧ RegsBut [(R.CLK_D_DROOP_EVENTS d).a] s.toMach t ∧
      OnlyIn [.regs, .lvl] s.toMach t) ∧
    (l.stretch = none → Idles (.droopRecovered d) s) ∧
    (∀ t0 ∈ l.stretch, Does (.droopRecovered d) s fun t =>
      t.lvl.get d = { l with stretch := none } ∧ (∀ j, j ≠ d → t.lvl.get j = s.lvl.get j) ∧ s.elapsed ≤ t.elapsed ∧ t0 ≤ t.elapsed ∧
      t.g (R.CLK_D_DROOP_NS d) = (s.g (R.CLK_D_DROOP_NS d) + (t.elapsed - t0).toNat) % 2 ^ 32 ∧ OnlyIn [.regs, .time, .tick, .enc, .jnl, .lvl, .cache] s.toMach t) ∧
    (¬ hot → Does (.thermalThrottle k reading) s fun t =>
      t.g (R.THM_S k) = toBits 16 reading ∧ RegsBut [(R.THM_S k).a] s.toMach t ∧ (¬ warm → t.lvl = s.lvl) ∧
      (warm → ∀ j ∈ Mach.sensorDies k, t.lvl.get j = { s.lvl.get j with warmAt := s.elapsed }) ∧
      (∀ j : Fin 4, j ∉ Mach.sensorDies k → t.lvl.get j = s.lvl.get j) ∧ OnlyIn [.regs, .lvl] s.toMach t) ∧
    (hot → Does (.thermalThrottle k reading) s (fun t => stepped t ∧ t.g (R.THM_S k) = toBits 16 reading ∧
        (plain → OnlyIn [.regs, .tick, .jnl, .lvl, .cache] s.toMach t) ∧
        OnlyIn [.regs, .tick, .fe, .eng, .tleq, .tle, .heldDesc, .jnl, .led, .lvl, .fn, .cache, .draws] s.toMach t) ∧
      Does (.throttleRepeat k reading) s fun t =>
        stepped t ∧ (∀ j ∈ Mach.sensorDies k, (s.lvl.get j).tlFrom + atLeast1 (s.g R.THM_CTRL_REPEAT) * 1000 ≤ t.elapsed) ∧
        (plain → OnlyIn [.regs, .time, .tick, .enc, .jnl, .lvl, .cache] s.toMach t) ∧
        OnlyIn [.regs, .time, .tick, .fe, .eng, .tleq, .tle, .heldDesc, .enc, .jnl, .led, .lvl, .fn, .cache, .draws] s.toMach t) ∧
    (7 ≤ l.tl → Idles (.thermalTlRise d) s) ∧
    (l.tl < 7 → Does (.thermalTlRise d) s fun t =>
      t.lvl.get d = { l with tl := l.tl + 1, tlFrom := t.elapsed } ∧ l.tlFrom + atLeast1 (s.g R.THM_RISE) * 1000000 ≤ t.elapsed ∧
      l.warmAt + atLeast1 (s.g R.THM_RISE) * 1000000 ≤ t.elapsed ∧
      (∀ j, j ≠ d → t.lvl.get j = s.lvl.get j) ∧ OnlyIn [.regs, .time, .tick, .enc, .jnl, .lvl, .cache, .draws] s.toMach t)

/-- R325 to R328. Corners of an entry and of wake sources are the readings of log entries 51 and 87. -/
def Obligations.SleepAndWake : Prop :=
  ∀ (s : State) (source unit : Nat),
    let z := s.sleep
    let idle2 : Int := s.g R.PWR_SLEEP_IDLE_S2
    let idle3 : Int := s.g R.PWR_IDLE3
    let due := s.working = true ∧ idle2 ≠ 0 ∧ s.jnl.actions = [] ∧ z.idleFrom + idle2 * 1000000000 ≤ s.elapsed ∧ s.time.n < s.tick.start + 8
    let off := fun (t : Mach) => (∀ e : Fin 72, t.eng.get e = {}) ∧ (∀ d : Fin 4, (t.lvl.get d).freq = 0 ∧ (t.lvl.get d).volt = 0) ∧ t.spikes = [] ∧ t.heldDesc = []
    let abandons := z.state = 0 ∧ z.entering ≠ none ∧ z.goS3 = false ∧ 1 ≤ source ∧ source ≤ 7 ∧ s.wakeUnitOk source unit = true
    (¬ due → Idles .s2Entry s) ∧
    (due → Does .s2Entry s fun t =>
      t.sleep = { z with entering := some s.tick.tn, stepAt := none } ∧ t.tick.wdogArmed = false ∧ t.tick.tn = s.tick.tn ∧
      (∀ a ∈ t.tick.accts, a.tn = s.tick.tn → a.works = false) ∧ OnlyIn [.tick, .sleep] s.toMach t) ∧
    (z.entering = none ∨ z.stepAt = none ∨ z.goS3 = true → Idles .s2PowerDown s) ∧
    (z.entering ≠ none → z.goS3 = false → ∀ t0 ∈ z.stepAt,
      (s.jnl.actions ≠ [] → Does .s2PowerDown s fun t =>
        t.sleep = { z with entering := none, stepAt := none } ∧ t.tick.wdogArmed = s.jnl.pf.isNone ∧ OnlyIn [.tick, .sleep] s.toMach t) ∧
      (s.jnl.actions = [] → Does .s2PowerDown s fun t =>
        t.sleep.state = 2 ∧ t.sleep.entering = none ∧ off t ∧ (s.allCommitted = false → t0 + 100000000 ≤ t.elapsed) ∧
        (∀ p : Fin 16, (t.port.get p).vat = [] ∧ (t.port.get p).reading = none) ∧ t.g R.PWR_S2_ENTRY = (s.g R.PWR_S2_ENTRY + 1) % 2 ^ 32 ∧
        t.dram = s.dram ∧ t.time.y = s.time.y ∧ t.tick.tn = s.tick.tn ∧
        OnlyIn [.regs, .time, .tick, .port, .fe, .eng, .tleq, .tle, .heldDesc, .pops, .spikes, .enc, .fus, .jnl, .led, .lvl, .sleep, .fn, .net, .link, .cache,
          .out] s.toMach t)) ∧
    (z.goS3 = false → z.state ≠ 2 ∨ idle3 = 0 ∨ z.s2At = none → Idles .s3Entry s) ∧
    (z.goS3 = true → s.allCommitted = false → Idles .s3Entry s) ∧
    (z.goS3 = true → s.allCommitted = true → Does .s3Entry s fun t =>
      t.sleep.state = 3 ∧ t.sleep.goS3 = false ∧ off t ∧ t.g R.PWR_S3_ENTRY = (s.g R.PWR_S3_ENTRY + 1) % 2 ^ 32 ∧ t.time = s.time ∧ t.dram = s.dram ∧
      t.tick.pending = [] ∧
      OnlyIn [.regs, .tick, .fe, .eng, .tleq, .tle, .heldDesc, .pops, .spikes, .jnl, .led, .lvl, .sleep, .fn, .rst, .cache, .out] s.toMach t) ∧
    (z.goS3 = false → z.state = 2 → idle3 ≠ 0 → ∀ t0 ∈ z.s2At, Does .s3Entry s fun t =>
      t0 + idle3 * 1000000000 ≤ t.elapsed ∧ (t.sleep.state = 3 ∨ (t.sleep.state = 2 ∧ t.sleep.goS3 = true))) ∧
    (s.rst.hold.isSome = true ∨ s.inWarm = true ∨ z.state = 3 → Idles .pwrSleepGoS3 s) ∧
    (s.rst.hold = none → s.inWarm = false → z.state ≠ 3 → Does .pwrSleepGoS3 s fun t =>
      t.sleep.goS3 = true ∧ t.sleep.state = z.state ∧ (z.state ≠ 2 → t.sleep.entering = some s.tick.tn ∧ t.tick.wdogArmed = false) ∧
      OnlyIn [.regs, .tick, .jnl, .sleep, .cache] s.toMach t) ∧
    (abandons → Does (.wake source unit) s fun t =>
      t.sleep = { z with entering := none, stepAt := none } ∧ t.tick.wdogArmed = s.jnl.pf.isNone ∧ OnlyIn [.tick, .sleep] s.toMach t) ∧
    (¬ abandons → (z.state ≠ 2 ∧ z.state ≠ 3) ∨ source = 0 ∨ 7 < source ∨ s.wakeUnitOk source unit = false ∨
      (z.state = 3 ∧ source ≠ 1 ∧ source ≠ 2) → Idles (.wake source unit) s) ∧
    (z.state = 2 → 1 ≤ source → source ≤ 7 → source ≠ 2 → s.wakeUnitOk source unit = true → Does (.wake source unit) s fun t =>
      t.sleep.state = 0 ∧ t.sleep.waking = true ∧ t.sleep.goS3 = false ∧ t.sleep.wakeT = s.time.n ∧ t.g R.PWR_WAKE_LAST_SOURCE = source ∧
      t.g R.PWR_WAKE_LAST_FROM = 2 ∧ t.g R.PWR_WAKE_LAST_UNIT = unit % 2 ^ 8 ∧
      (∀ p : Fin 16, s.on (R.ING_CTRL_EN p) = true → t.on (R.ING_CTRL_EN p) = false ∨ (t.fe.get p).zeroing = true) ∧
      OnlyIn [.regs, .tick, .port, .fe, .eng, .fus, .jnl, .sleep, .link, .draws, .out] s.toMach t) ∧
    (z.state = 2 ∧ source = 2 ∨ z.state = 3 ∧ (source = 1 ∨ source = 2) → s.rst.hold ≠ some .por → Does (.wake source unit) s fun t =>
      t.rst.hold = some (.warm (if source = 2 then Cause.resetN else Cause.wakeS3)) ∧ t.sleep.state = 0 ∧ t.sleep.waking = true ∧
      t.sleep.wakeT = s.time.n ∧ t.dram = s.dram ∧ (s.time.quality = .free ∨ s.time.quality = .holdover → t.jnl.recs = s.jnl.recs) ∧ t.jnl.actions = s.jnl.actions ∧
      t.time.n = s.time.n ∧
      (z.state = 3 → ∀ n : Fin 4, s.on (R.MOT_ENC_CTRL_EN n) = true → t.g (R.MOT_ENC_STAT_DISCONT n) = 1)) ∧
    Does .pwrWakeTRead s (fun t =>
      t.g64 R.PWR_WAKE_T_LO_A R.PWR_WAKE_T_HI_A = toBits 64 z.wakeT ∧ t.out = .readValue R.PWR_WAKE_T_LO_A (BitVec.ofNat 32 (toBits 64 z.wakeT)) :: s.out ∧
      RegsBut [R.PWR_WAKE_T_LO_A, R.PWR_WAKE_T_HI_A] s.toMach t ∧ OnlyIn [.regs, .out] s.toMach t)

/-! ## Station time (12_time_network.md) -/

/-- R333 to R336; and that each command of the servo (R337 to R341) completes. -/
def Obligations.StagedStepApplies : Prop :=
  ∀ (s : State) (force atEn adj : Bool) (hi : Word),
    let shot := fun (x : Snapshot) (t : Mach) => t.time.n = (s.runIncs 1).time.n ∧ (x.sec : Int) = t.time.n.fdiv 1000000000 % 2 ^ 48 ∧
      (x.ns : Int) = t.time.n.fmod 1000000000 ∧ (x.t32 : Int) = t.time.n % 2 ^ 32 ∧ x.tn = t.tnNow ∧
      OnlyIn [.regs, .time, .tick, .enc, .jnl, .cache] s.toMach t
    let v := s.time.servo
    let sec : Nat := s.g R.TIM_STG_V_LO + s.g R.TIM_STG_V_HI % 2 ^ 16 * 2 ^ 32
    let bad := s.time.staged ≠ none ∨ (adj = false ∧ (1000000000 ≤ s.g R.TIM_STG_NS ∨ 9223372036 ≤ sec))
    let new : Staged := { adj := adj, v := if adj then s.gi64 R.TIM_STG_V_LO_A R.TIM_STG_V_HI_A else (sec : Int), ns := s.g R.TIM_STG_NS,
                          at? := if atEn then some (s.gi64 R.TIM_STG_AT_LO_A R.TIM_STG_AT_HI_A) else none, force := force }
    Does (.timSnap .host) s (fun t => shot t.time.snapPf t ∧ t.time.snapMc = s.time.snapMc) ∧
    Does (.timSnap .mgt) s (fun t => shot t.time.snapMc t ∧ t.time.snapPf = s.time.snapPf) ∧
    (bad → Does (.stagedStepGo force atEn adj) s fun t =>
      t.g R.TIM_STAT_STG_ERR = 1 ∧ RegsBut [R.TIM_STAT_STG_ERR.a, R.TIM_STG_CTRL_FORCE.a] s.toMach t ∧ OnlyIn [.regs] s.toMach t) ∧
    (¬ bad → Does (.stagedStepGo force atEn adj) s fun t =>
      t.time = { s.time with staged := some new } ∧
      RegsBut [R.TIM_STG_CTRL_FORCE.a] s.toMach t ∧ OnlyIn [.regs, .time] s.toMach t) ∧
    Does .stagedStepCancel s (fun t => t.time = { s.time with staged := none } ∧ OnlyIn [.time] s.toMach t) ∧
    (s.time.staged = none → Idles .stagedStepApply s) ∧
    (∀ st ∈ s.time.staged,
      let would := (s.stagedDue st).2
      let count := if st.adj then would + st.v * 2 ^ 32 else (st.v * 1000000000 + st.ns) * 2 ^ 32
      let n := count.fdiv (2 ^ 32)
      let out : Bool := st.adj && (decide (n < 0) || decide (9223372036 ≤ n.fdiv 1000000000))
      let back : Bool := decide (s.tick.period * 500 < would.fdiv (2 ^ 32) - n) && !st.force
      (∀ a ∈ st.at?, s.time.n < a → a ≤ would.fdiv (2 ^ 32)) ∧
      (out = true → Does .stagedStepApply s fun t =>
        t.g R.TIM_STAT_STG_ERR = 1 ∧ t.time.staged = none ∧ t.time.n = would.fdiv (2 ^ 32) ∧ t.time.steps = s.time.steps ∧
        t.time.stepSum = s.time.stepSum ∧ OnlyIn [.regs, .time, .tick, .enc, .jnl, .cache] s.toMach t) ∧
      (out = false → back = true → Does .stagedStepApply s fun t =>
        t.g R.TIM_STAT_STG_REFUSED = 1 ∧ t.g R.TIM_STEP_REFUSED = (s.g R.TIM_STEP_REFUSED + 1) % 2 ^ 32 ∧ t.time.staged = none ∧
        t.time.n = would.fdiv (2 ^ 32) ∧ t.time.steps = s.time.steps ∧ t.time.stepSum = s.time.stepSum ∧ OnlyIn [.regs, .time, .tick, .enc, .jnl, .cache] s.toMach t) ∧
      (out = false → back = false → Does .stagedStepApply s fun t =>
        t.time.n = n ∧ t.time.staged = none ∧ t.time.quality = .stepped ∧ t.time.steps = s.time.steps + 1 ∧ t.time.y = s.time.y ∧
        t.time.stepSum = s.time.stepSum + n - would.fdiv (2 ^ 32) ∧ t.g R.TIM_STEPS = (s.g R.TIM_STEPS + 1) % 2 ^ 32 ∧
        OnlyIn [.regs, .time, .tick, .port, .fe, .eng, .tleq, .tle, .heldDesc, .pops, .spikes, .images, .enc, .fus, .jnl, .led, .lvl, .sleep, .fn, .link,
          .cache, .draws, .out] s.toMach t)) ∧
    (s.g R.TIM_SRV_CFG_SRC = 0 → s.servoOff = false → Does (.servoOffsetWrite hi) s fun t =>
      t.time.servo.lastTheta = toSigned 64 ((s.rd R.TIM_SRV_OFS_LO_A).toNat + hi.toNat * 2 ^ 32) ∧ t.time.servo.lastAt = some s.time.n ∧
      t.g R.TIM_SAMPLES = (s.g R.TIM_SAMPLES + 1) % 2 ^ 32 ∧ t.time.n = s.time.n) ∧
    (s.g R.TIM_SRV_CFG_SRC = 2 → s.servoOff = false → Does .ppsInEdge s fun t =>
      t.time.servo.lastAt = some (s.incsAgo (s.g R.TIM_PPSIN_FILT)) ∧ (t.time.servo.lastTheta - s.incsAgo (s.g R.TIM_PPSIN_FILT) + s.gi R.TIM_PPSIN_COMP) % 1000000000 = 0 ∧
      t.g R.TIM_SAMPLES = (s.g R.TIM_SAMPLES + 1) % 2 ^ 32 ∧ t.time.n = s.time.n) ∧
    Does (.servoEnWrite atEn) s (fun t => t.g R.TIM_SRV_CFG_EN = atEn.toNat ∧ t.time.quality = (if atEn then s.time.quality else .free) ∧ t.time.n = s.time.n) ∧
    (s.servoOff = false → s.time.quality = .locked ∨ s.time.quality = .stepped → Does .holdoverTimeout s fun t =>
      t.time.quality = .holdover ∧ t.time.y = v.yAvg ∧ s.time.n ≤ t.time.n) ∧
    (∀ w ∈ v.slew, Does .slewEnd s fun t => t.time.y = w.yHold ∧ t.time.servo.slew = none ∧ w.endsAt ≤ t.elapsed) ∧
    Does .timSrvLastRead s fun t => t.out = .readValue R.TIM_SRV_LAST_LO_A (BitVec.ofNat 32 (toBits 64 v.lastTheta)) :: s.out

/-- R337 to R341, R362. -/
def Obligations.ServoDisciplinesTheClock : Prop :=
  ∀ (s : State) (hi : Word),
    let v := s.time.servo
    let src := s.g R.TIM_SRV_CFG_SRC
    let theta := toSigned 64 ((s.rd R.TIM_SRV_OFS_LO_A).toNat + hi.toNat * 2 ^ 32)
    let se := s.incsAgo (s.g R.TIM_PPSIN_FILT)
    let phase := (se - s.gi R.TIM_PPSIN_COMP).fmod 1000000000
    let asleep := s.on R.TIM_SRV_CFG_EN = false ∨ v.slew ≠ none ∨ v.stepNext ≠ none
    let awake := s.on R.TIM_SRV_CFG_EN = true ∧ v.slew = none ∧ v.stepNext = none
    let plain := fun (x : Int) => awake ∧ v.returning = false ∧
      (s.time.quality ≠ .locked ∨ x.natAbs ≤ s.g R.TIM_SRV_SPIKE_SPIKE_NS)
    let taken := fun (x at_ : Int) (t : Mach) =>
      let d : Int := match v.lastAt with | some a => max 100000 (at_ - a) | none => 100000
      let r := clampI (rnd (x * 1000000000) d) (-1000000) 1000000
      let i := clampI (v.integ - rnd ((s.g R.TIM_SRV_KI_KI : Int) * r) 65536) (-1000000) 1000000
      let y := clampI (i - rnd ((s.g R.TIM_SRV_KP_KP : Int) * r) 65536) (-1000000) 1000000
      t.time.servo.lastTheta = x ∧ t.time.servo.lastAt = some at_ ∧ t.time.holdFrom = s.elapsed ∧ t.time.n = s.time.n ∧
      t.g R.TIM_SAMPLES = (s.g R.TIM_SAMPLES + 1) % 2 ^ 32 ∧ (asleep → t.time.y = s.time.y ∧ t.time.quality = s.time.quality) ∧
      (plain x → t.time.y = y ∧ t.time.servo.integ = i ∧ t.time.servo.yAvg = v.yAvg + (y - v.yAvg).fdiv (2 ^ s.g R.TIM_SRV_HOLD_AVG_SHIFT) ∧
        t.time.servo.lockRun = if x.natAbs ≤ s.g R.TIM_SRV_LOCK_LOCK_NS then v.lockRun + 1 else 0) ∧
      (awake → s.time.quality = .locked → s.g R.TIM_SRV_SPIKE_SPIKE_NS < x.natAbs → v.spikeRun < s.g R.TIM_SRV_SPIKE_SPIKE_N →
        t.time.y = s.time.y ∧ t.time.quality = .locked ∧ t.time.servo.spikeRun = v.spikeRun + 1 ∧ t.g R.TIM_SPIKES = (s.g R.TIM_SPIKES + 1) % 2 ^ 32) ∧
      (awake → s.time.quality ≠ .locked → v.returning = true → s.g R.TIM_SRV_LOCK_LOCK_NS < x.natAbs →
        (x.natAbs ≤ s.g R.TIM_SRV_SLEWMAX_SLEW_MAX → (∃ w ∈ t.time.servo.slew, w.yHold = s.time.y) ∧ t.time.quality = s.time.quality ∧
          t.g R.TIM_SLEWS = (s.g R.TIM_SLEWS + 1) % 2 ^ 32) ∧
        (s.g R.TIM_SRV_SLEWMAX_SLEW_MAX < x.natAbs → x < 0 ∨ x ≤ s.tick.period * 500 ∨ s.on R.TIM_SRV_CFG_FORCE = true →
          t.time.servo.stepNext = some (-x) ∧ t.time.y = s.time.y ∧ t.time.quality = s.time.quality))
    (src ≠ 0 → Does (.servoOffsetWrite hi) s fun t =>
      t.g R.TIM_STAT_SAMPLE_LOST = 1 ∧ RegsBut [R.TIM_STAT_SAMPLE_LOST.a] s.toMach t ∧ OnlyIn [.regs] s.toMach t) ∧
    (src = 0 → s.servoOff = true → Idles (.servoOffsetWrite hi) s) ∧
    (src = 0 → s.servoOff = false → Does (.servoOffsetWrite hi) s fun t =>
      taken theta s.time.n t ∧ OnlyIn [.regs, .time, .tick, .jnl, .cache, .draws] s.toMach t) ∧
    (src ≠ 2 ∨ s.servoOff = true → Idles .ppsInEdge s) ∧
    (src = 2 → s.servoOff = false → Does .ppsInEdge s fun t =>
      taken (if 500000000 ≤ phase then phase - 1000000000 else phase) se t ∧ OnlyIn [.regs, .time, .tick, .jnl, .cache, .draws] s.toMach t) ∧
    Does (.servoEnWrite true) s (fun t =>
      t.g R.TIM_SRV_CFG_EN = 1 ∧ RegsBut [R.TIM_SRV_CFG_EN.a] s.toMach t ∧ OnlyIn [.regs] s.toMach t) ∧
    Does (.servoEnWrite false) s (fun t =>
      t.g R.TIM_SRV_CFG_EN = 0 ∧ t.time.quality = .free ∧ t.time.y = s.time.y ∧ t.time.n = s.time.n ∧ OnlyIn [.regs, .time, .tick, .jnl, .cache] s.toMach t) ∧
    (s.servoOff = true ∨ (s.time.quality ≠ .locked ∧ s.time.quality ≠ .stepped) → Idles .holdoverTimeout s) ∧
    (s.servoOff = false → s.time.quality = .locked ∨ s.time.quality = .stepped → Does .holdoverTimeout s fun t =>
      s.time.holdFrom + atLeast1 (s.g R.TIM_SRV_HOLD_HOLD_TIMEOUT) * 1000000 ≤ t.elapsed ∧ t.time.quality = .holdover ∧ t.time.y = v.yAvg ∧
      t.time.servo.integ = v.yAvg ∧ t.time.servo.returning = true ∧ t.g R.TIM_HOLDOVERS = (s.g R.TIM_HOLDOVERS + 1) % 2 ^ 32 ∧
      OnlyIn [.regs, .time, .tick, .enc, .jnl, .cache] s.toMach t) ∧
    (v.slew = none → Idles .slewEnd s) ∧
    (∀ w ∈ v.slew, Does .slewEnd s fun t =>
      w.endsAt ≤ t.elapsed ∧ t.time.y = w.yHold ∧ t.time.servo.integ = w.yHold ∧ t.time.servo.slew = none ∧ t.time.quality = s.time.quality ∧
      OnlyIn [.regs, .time, .tick, .enc, .jnl, .cache] s.toMach t) ∧
    Does .timSrvLastRead s (fun t =>
      t.g64 R.TIM_SRV_LAST_LO_A R.TIM_SRV_LAST_HI_A = toBits 64 v.lastTheta ∧
      t.out = .readValue R.TIM_SRV_LAST_LO_A (BitVec.ofNat 32 (toBits 64 v.lastTheta)) :: s.out ∧
      RegsBut [R.TIM_SRV_LAST_LO_A, R.TIM_SRV_LAST_HI_A] s.toMach t ∧ OnlyIn [.regs, .out] s.toMach t)

/-- R343 to R345. -/
def Obligations.TriggerOutputsFollowTheirMode : Prop :=
  ∀ (s : State) (o : Fin 8) (val : Word),
    let x := s.time.trigOut.get o
    let mode := bitsN val.toNat 2 0
    let start := s.gi64 (R.TIM_TO_START_LO_A o) (R.TIM_TO_START_HI_A o)
    let width := s.g (R.TIM_TO_WIDTH o)
    let period := s.g (R.TIM_TO_PERIOD o)
    let ok := (mode = 1 ∧ s.time.n < start) ∨ (mode = 2 ∧ 8 ≤ width ∧ width < period) ∨ mode = 3
    let held := s.g (R.TIM_TO_CTRL_MODE o)
    let runs := x.armed = true ∧ (held = 1 ∨ held = 2)
    let hits := x.armed = true ∧ held = 3 ∧ x.reached = true
    Does (.trigOutCtrlWrite o val) s (fun t =>
      let y := t.time.trigOut.get o
      y.highUntil = none ∧ y.actUntil = none ∧ y.reached = false ∧ y.width = width ∧ y.period = period ∧ y.posPer = s.g (R.TIM_TO_POSPER o) ∧
      t.g (R.TIM_TO_CTRL_MODE o) = mode ∧ t.g (R.TIM_TO_CTRL_ENC o) = bitsN val.toNat 7 6 ∧
      (ok → y.armed = true) ∧ (¬ ok → y.armed = false) ∧ (¬ ok → mode = 1 ∨ mode = 2 → t.g (R.TIM_TO_CTRL_LATE o) = 1) ∧
      (mode = 1 → ok → y.next = start) ∧ (mode = 2 → ok → s.time.n < y.next ∧ (y.next - start) % (period : Int) = 0) ∧
      (mode = 3 → y.pos = s.gi64 (R.TIM_TO_POS_LO_A o) (R.TIM_TO_POS_HI_A o)) ∧
      (∀ k, k ≠ o → t.time.trigOut.get k = s.time.trigOut.get k) ∧ t.time.n = s.time.n ∧
      RegsBut [(R.TIM_TO_CTRL_MODE o).a] s.toMach t ∧ OnlyIn [.regs, .time] s.toMach t) ∧
    (¬ runs → Idles (.trigOutPulseStart o) s) ∧
    (runs → Does (.trigOutPulseStart o) s fun t =>
      let y := t.time.trigOut.get o
      x.next ≤ t.time.n ∧ y.highUntil = some (t.elapsed + x.width) ∧ (held = 1 → y.armed = false) ∧
      (held = 2 → y.armed = true ∧ (0 < x.period → t.time.n < y.next ∧ (y.next - x.next) % (x.period : Int) = 0)) ∧
      RegsOutside 0x1E0000 0x200000 s.toMach t ∧ OnlyIn [.regs, .time, .tick, .enc, .jnl, .cache] s.toMach t) ∧
    (¬ hits → Idles (.trigOutPositionPulse o) s) ∧
    (hits → Does (.trigOutPositionPulse o) s fun t =>
      let y := t.time.trigOut.get o
      y.highUntil = some (s.elapsed + x.width) ∧ y.reached = false ∧ y.pos = x.pos + x.posPer ∧ (x.posPer = 0 → y.armed = false) ∧
      (x.posPer ≠ 0 → y.armed = true) ∧ (∀ k, k ≠ o → t.time.trigOut.get k = s.time.trigOut.get k) ∧ t.time.n = s.time.n ∧ OnlyIn [.time] s.toMach t) ∧
    (x.highUntil = none → Idles (.trigOutPulseEnd o) s) ∧
    (∀ u ∈ x.highUntil, Does (.trigOutPulseEnd o) s fun t =>
      u ≤ t.elapsed ∧ (t.time.trigOut.get o).highUntil = none ∧ (t.time.trigOut.get o).armed = x.armed ∧ OnlyIn [.regs, .time, .tick, .enc, .jnl, .cache] s.toMach t) ∧
    (s.on R.TIM_CTRL_PPS_EN = false → Idles .ppsOutPulse s) ∧
    (s.on R.TIM_CTRL_PPS_EN = true → Does .ppsOutPulse s fun t =>
      (∃ d ∈ t.time.ppsLast, s.time.n ≤ d ∧ d ≤ t.time.n ∧ (d - s.gi R.TIM_PPS_OFS) % 1000000000 = 0 ∧ (∀ l ∈ s.time.ppsLast, l < d)) ∧
      t.time.ppsUntil = some (t.elapsed + atLeast1 (s.g R.TIM_PPS_WIDTH) * 1000) ∧
      (s.on R.TIM_CTRL_PPS_GATE = true → s.time.quality ≠ .locked → t.ppsLevel = false) ∧
      (s.on R.TIM_CTRL_PPS_GATE = false ∨ s.time.quality = .locked → t.ppsLevel = true) ∧
      OnlyIn [.regs, .time, .tick, .enc, .jnl, .cache] s.toMach t) ∧
    (s.time.ppsUntil = none → Idles .ppsOutPulseEnd s) ∧
    (∀ u ∈ s.time.ppsUntil, Does .ppsOutPulseEnd s fun t =>
      u ≤ t.elapsed ∧ t.time.ppsUntil = none ∧ t.time.ppsLast = s.time.ppsLast ∧ OnlyIn [.regs, .time, .tick, .enc, .jnl, .cache] s.toMach t)

/-- R346. -/
def Obligations.TriggerInputsQueueStamps : Prop :=
  ∀ (s : State) (k : Fin 4) (rise : Bool),
    let q := (s.time.trigIn.get k).fifo
    let e := s.g (R.TIM_TI_CFG_EDGE k)
    let sel := e = 3 ∨ (e = 1 ∧ rise = true) ∨ (e = 2 ∧ rise = false)
    let stamp := s.incsAgo (s.g (R.TIM_TI_CFG_FILT k)) + s.gi (R.TIM_TI_CFG_COMP k)
    (¬ sel → Idles (.trigInEdge k rise) s) ∧
    (sel → q.length < 16 → Does (.trigInEdge k rise) s fun t =>
      (t.time.trigIn.get k).fifo = q ++ [(stamp, rise)] ∧ (∀ j, j ≠ k → t.time.trigIn.get j = s.time.trigIn.get j) ∧
      t.time = { s.time with trigIn := t.time.trigIn } ∧ OnlyIn [.time] s.toMach t) ∧
    (sel → 16 ≤ q.length → Does (.trigInEdge k rise) s fun t =>
      t.g (R.TIM_TI_STAT_OVF k) = 1 ∧ t.g R.TIM_TI_OVF = (s.g R.TIM_TI_OVF + 1) % 2 ^ 32 ∧
      RegsBut [(R.TIM_TI_STAT_OVF k).a, R.TIM_TI_OVF.a] s.toMach t ∧ OnlyIn [.regs] s.toMach t) ∧
    (q = [] → Does (.trigInFifoRead k) s fun t =>
      t.out.length = s.out.length + 1 ∧ t.draws = s.draws + 1 ∧ OnlyIn [.draws, .out] s.toMach t) ∧
    (∀ h ∈ q.head?, Does (.trigInFifoRead k) s fun t =>
      (t.time.trigIn.get k).fifo = q.tail ∧ t.rd (R.TIM_TI_HI_A k) = BitVec.ofNat 32 (toBits 64 h.1 / 2 ^ 32) ∧
      t.out = .readValue (R.TIM_TI_LO_A k) (BitVec.ofNat 32 (toBits 64 h.1)) :: s.out ∧ (∀ j, j ≠ k → t.time.trigIn.get j = s.time.trigIn.get j) ∧
      RegsBut [R.TIM_TI_HI_A k] s.toMach t ∧ OnlyIn [.regs, .time, .out] s.toMach t)

/-! ## Ethernet, PTP and the report transport (12_time_network.md) -/

/-- R347, R348, R359, R361. -/
def Obligations.StationsAnswerTheirSubset : Prop :=
  ∀ (s : State) (p : Fin 2) (fr : EthFrame) (ip : BitVec 32) (mac : List Byte) (v6 : Bool) (n : Nat) (d : Fin 8) (up : Bool),
    let kind : Fld :=
      if fr.fcsOk = false then R.ETH_RX_FCS p
      else if 1522 < fr.len then R.ETH_RX_OVERSIZE p
      else if fr.body = .pause then R.ETH_RX_PAUSE p
      else if fr.len < 64 ∨ fr.unsupported = true ∨ s.vlanOk p fr.tags = false then R.ETH_RX_DROP p
      else (s.rxCounter p fr).getD (R.ETH_RX_DROP p)
    let seen := fun (c : Fld) (t : Mach) => t.g (R.ETH_RX_FRAMES p) = (s.g (R.ETH_RX_FRAMES p) + 1) % 2 ^ 32 ∧ t.g c = (s.g c + 1) % 2 ^ 32
    let answered := fun (x : EthTx) (t : Mach) => t.out = .eth p.1 x :: s.out ∧ t.g (R.ETH_TX_FRAMES p) = (s.g (R.ETH_TX_FRAMES p) + 1) % 2 ^ 32
    let quiet := fun (c : Fld) (t : Mach) => RegsBut [(R.ETH_RX_FRAMES p).a, c.a] s.toMach t ∧ OnlyIn [.regs] s.toMach t
    (s.ethUp p = false → Idles (.ethFrameRx p fr) s ∧ Idles (.arpRequest p ip mac) s ∧ Idles (.arpReply p d mac) s ∧
      Idles (.neighborSolicitation p mac) s ∧ Idles (.icmpEchoRequest p v6 n) s) ∧
    (s.ethUp p = true →
      Does (.ethFrameRx p fr) s (fun t =>
        seen kind t ∧ (s.Awake ∨ s.rrtFrame p fr = false → quiet kind t) ∧
        (s.rrtFrame p fr = true → Stirred [.regs] s.toMach t ∧ (s.sleep.state = 2 → t.g R.PWR_WAKE_LAST_SOURCE = 4))) ∧
      (ip.toNat = s.g (R.ETH_IP4 p) → Does (.arpRequest p ip mac) s fun t =>
        seen (R.ETH_ARP p) t ∧ answered (.arpReply (s.ethMac p) ip mac) t ∧ OnlyIn [.regs, .out] s.toMach t) ∧
      (ip.toNat ≠ s.g (R.ETH_IP4 p) → Does (.arpRequest p ip mac) s fun t => seen (R.ETH_ARP p) t ∧ quiet (R.ETH_ARP p) t) ∧
      (mac = s.linkLocal p ∨ s.globalIp6 p = some mac → Does (.neighborSolicitation p mac) s fun t =>
        seen (R.ETH_NDP p) t ∧ answered (.neighborAdvertisement mac (s.ethMac p)) t ∧ OnlyIn [.regs, .out] s.toMach t) ∧
      (mac ≠ s.linkLocal p → s.globalIp6 p ≠ some mac → Does (.neighborSolicitation p mac) s fun t => seen (R.ETH_NDP p) t ∧ quiet (R.ETH_NDP p) t) ∧
      (n ≤ 1472 → Does (.icmpEchoRequest p v6 n) s fun t => seen (R.ETH_ICMP p) t ∧ answered (.echoReply v6 n) t ∧ OnlyIn [.regs, .out] s.toMach t) ∧
      (1472 < n → Does (.icmpEchoRequest p v6 n) s fun t => seen (R.ETH_RX_DROP p) t ∧ quiet (R.ETH_RX_DROP p) t) ∧
      Does (.arpReply p d mac) s (fun t =>
        seen (if s.on (R.RRT_D_CTRL_V6 d) then R.ETH_NDP p else R.ETH_ARP p) t ∧
        (s.on (R.RRT_D_CTRL_EN d) = true → s.on (R.RRT_D_CTRL_STATIC d) = false →
          (t.net.dests.get d).hops = vput (s.net.dests.get d).hops p (some (sliceB mac 0 6))) ∧
        (s.on (R.RRT_D_CTRL_EN d) = false ∨ s.on (R.RRT_D_CTRL_STATIC d) = true → t.net = s.net ∧ t.jnl = s.jnl) ∧
        (∀ k, k ≠ d → t.net.dests.get k = s.net.dests.get k) ∧ OnlyIn [.regs, .tick, .jnl, .net, .cache] s.toMach t)) ∧
    Does .nextHopRefresh s (fun t =>
      t.net = { s.net with refreshAt := t.elapsed } ∧ s.net.refreshAt + 60000000000 ≤ t.elapsed ∧
      (s.on (R.RRT_D_CTRL_EN d) = true → s.on (R.RRT_D_CTRL_STATIC d) = false → s.ethUp (s.destPort d) = true →
        .eth (s.destPort d).1 (s.hopQuery d (s.destPort d)) ∈ t.out) ∧
      OnlyIn [.regs, .time, .tick, .enc, .jnl, .net, .cache, .out] s.toMach t) ∧
    (s.net.link.get p = up ∨ (up = true ∧ s.on (R.ETH_CTRL_EN p) = false) → Idles (.ethLinkChange p up) s) ∧
    (s.net.link.get p ≠ up → up = false ∨ s.on (R.ETH_CTRL_EN p) = true → Does (.ethLinkChange p up) s fun t =>
      t.net.link.get p = up ∧ (∀ k, k ≠ p → t.net.link.get k = s.net.link.get k) ∧ t.g (R.ETH_STAT_LINK_CHG p) = 1 ∧
      (up = false → s.on (R.RRT_D_CTRL_EN d) = true → s.destPort d = p → s.on (R.RRT_D_CTRL_FB_EN d) = false → (t.net.dests.get d).down = true) ∧
      t.net.rxq = s.net.rxq ∧ OnlyIn [.regs, .tick, .jnl, .net, .cache, .out] s.toMach t)

/-- R349 to R352. -/
def Obligations.PtpQueueAndSending : Prop :=
  ∀ (s : State) (p : Fin 2) (fr : PtpFrame) (who : Party) (cmd : Word),
    let v := cmd.toNat
    let mine := (who == .mgt) = s.net.ptpMgt
    let ev := decide (fr.msgType % 16 ≤ 3)
    let e : PtpEntry := { stamp := if ev then s.time.n + s.gi (R.ETH_TS_COMP_RX_COMP p) else 0, len := fr.len, vlan := fr.vlan, trunc := decide (240 < fr.len), event := ev, port := p.1, bytes := sliceB fr.bytes 0 (min 240 fr.len) }
    let asks : Bool := s.clockOn p && s.ethUp p && (s.peerDelay || s.net.clock.master.isSome)
    let full := 32 ≤ s.net.rxq.length
    (s.ethUp p = false → Idles (.ptpFrameRx p fr) s) ∧
    (s.ethUp p = true → full → Does (.ptpFrameRx p fr) s fun t =>
      t.g R.PTP_RX_DROP = (s.g R.PTP_RX_DROP + 1) % 2 ^ 32 ∧ t.g R.PTP_RX_STAT_OVF = 1 ∧ OnlyIn [.regs] s.toMach t) ∧
    (s.ethUp p = true → ¬ full → Does (.ptpFrameRx p fr) s fun t =>
      t.net.rxq = s.net.rxq ++ [e] ∧ t.net.rxHead = s.net.rxHead ∧ t.net.dests = s.net.dests ∧
      t.g (if ev then R.PTP_RX_EVENT else R.PTP_RX_GEN) = (s.g (if ev then R.PTP_RX_EVENT else R.PTP_RX_GEN) + 1) % 2 ^ 32 ∧
      (s.clockOn p = false → t.net.clock = s.net.clock ∧ OnlyIn [.regs, .net] s.toMach t) ∧
      OnlyIn [.regs, .time, .tick, .jnl, .net, .cache, .draws, .out] s.toMach t) ∧
    (¬ mine →
      Does (.ptpRxPop who) s (fun t => t.g R.PTP_STAT_OWN_ERR = 1 ∧ RegsBut [R.PTP_STAT_OWN_ERR.a] s.toMach t ∧ OnlyIn [.regs] s.toMach t) ∧
      Does (.ptpTxGo who cmd) s (fun t => t.g R.PTP_STAT_OWN_ERR = 1 ∧ (s.net.tx = none → t.g R.PTP_TX_STAT_ERR = 4) ∧
        RegsBut [R.PTP_STAT_OWN_ERR.a, R.PTP_TX_STAT_ERR.a] s.toMach t ∧ OnlyIn [.regs] s.toMach t)) ∧
    (mine → (s.net.rxq = [] → Idles (.ptpRxPop who) s) ∧
      (s.net.rxq ≠ [] → Does (.ptpRxPop who) s fun t =>
        t.net = { s.net with rxq := s.net.rxq.tail, rxHead := (s.net.rxHead + 1) % 32 } ∧ OnlyIn [.net] s.toMach t) ∧
      (s.net.tx ≠ none → Idles (.ptpTxGo who cmd) s) ∧
      (s.net.tx = none → Does (.ptpTxGo who cmd) s fun t =>
        t.g R.PTP_TX_CMD_LEN = bitsN v 10 0 ∧ (bitN v 31 = false → t.net = s.net) ∧
        (bitN v 31 = true → t.net = { s.net with tx := some (bitsN v 27 26, bitsN v 25 25) } ∧ t.g R.PTP_TX_CMD_GO = 1 ∧ t.g R.PTP_TX_STAT_ERR = 0) ∧
        RegsBut [R.PTP_TX_CMD_A, R.PTP_TX_STAT_ERR.a] s.toMach t ∧ OnlyIn [.regs, .net] s.toMach t)) ∧
    (s.net.tx = none → Idles .ptpTxDone s) ∧
    (∀ x ∈ s.net.tx,
      let q : Fin 2 := Fin.ofNat 2 x.2
      let len := s.g R.PTP_TX_CMD_LEN
      let hdr := Mach.ptpHeader (s.txFrame len)
      let err := if len < 60 ∨ 1518 < len then 2 else if hdr = none then 1 else if s.ethUp q = false then 3 else 0
      Does .ptpTxDone s fun t =>
        t.net.tx = none ∧ t.g R.PTP_TX_CMD_GO = 0 ∧ t.g R.PTP_TX_STAT_DONE = 1 ∧ t.g R.PTP_TX_STAT_ERR = err ∧
        (err ≠ 0 → t.out = s.out ∧ t.net = { s.net with tx := none }) ∧
        (err = 0 → t.out.length = s.out.length + 1 ∧ t.g R.PTP_TX = (s.g R.PTP_TX + 1) % 2 ^ 32 ∧
          t.net.txStamp = if x.1 = 0 then s.net.txStamp else s.time.n + s.gi (R.ETH_TS_COMP_TX_COMP q)) ∧ OnlyIn [.regs, .net, .out] s.toMach t) ∧
    Does .ptpTxTsRead s (fun t =>
      t.rd R.PTP_TX_TS_HI_A = BitVec.ofNat 32 (toBits 64 s.net.txStamp / 2 ^ 32) ∧
      t.out = .readValue R.PTP_TX_TS_LO_A (BitVec.ofNat 32 (toBits 64 s.net.txStamp)) :: s.out ∧ RegsBut [R.PTP_TX_TS_HI_A] s.toMach t ∧
      OnlyIn [.regs, .out] s.toMach t) ∧
    Does .ptpFailover s (fun t =>
      t.net.pcieDown = true ∧ (s.on R.PTP_CTRL_FAILOVER = true → s.on R.PTP_CTRL_OWNER = false → t.net.ptpMgt = true) ∧
      (s.on R.PTP_CTRL_FAILOVER = false ∨ s.on R.PTP_CTRL_OWNER = true → t.net.ptpMgt = s.net.ptpMgt ∧ OnlyIn [.net] s.toMach t) ∧
      t.net.rxq = s.net.rxq ∧ OnlyIn [.regs, .tick, .jnl, .net, .cache] s.toMach t) ∧
    (asks = false → Idles (.delayReqSend p) s) ∧
    (asks = true → Does (.delayReqSend p) s fun t =>
      t.out = .eth p.1 (.delayReq s.peerDelay s.ptpTransport (s.g R.PTP_CTRL_DOMAIN)) :: s.out ∧ t.net.clock = { s.net.clock with reqAt := some (s.time.n + s.gi (R.ETH_TS_COMP_TX_COMP p)), resp := none } ∧
      t.g R.PTP_TX = (s.g R.PTP_TX + 1) % 2 ^ 32 ∧ OnlyIn [.regs, .net, .out] s.toMach t)

/-- R270, R353 to R360. -/
def Obligations.RrtDeliversInWindow : Prop :=
  ∀ (s : State) (d : Fin 8) (k : Fin 32) (a : RrtAckPkt),
    let x := s.net.dests.get d
    let base := s.baseOf d k
    let head := s.rrtHead d k
    let turn : Bool := s.rrtRuns && match head, s.rrtNext with | some r, some y => r.same y | _, _ => false
    let able : Bool := s.rrtRuns && s.on (R.RRT_D_CTRL_EN d) && (s.txPort d).isSome
    let others := fun (t : Mach) => ∀ j, j ≠ d → t.net.dests.get j = s.net.dests.get j
    let ks := Mach.stream a.fn a.cls
    (able = false → Idles (.rrtDataSend d k) s ∧ Idles (.rrtResend d k) s) ∧
    (turn = false → Idles (.rrtDataSend d k) s) ∧
    (∀ r ∈ head, r ∈ s.jnl.recs ∧ r.dests.contains d.1 = true ∧ r.released = true ∧ s.topSent d k < Mach.rsnOf r ∧ Mach.rsnOf r ≤ base + 65536) ∧
    (turn = true → ∀ r ∈ head, r.early = true → Does (.rrtDataSend d k) s fun t =>
      t.nvs.op = some (.readBack r.fn r.cls r.count) ∧ t.net = s.net ∧ t.jnl = s.jnl ∧ OnlyIn [.nvs, .out] s.toMach t) ∧
    (turn = true → ∀ r ∈ head, r.early = false →
      ∀ e ∈ (Mach.runOf s.maxRec none ((s.waitingFor d k).filter fun (y : JRec) =>
        decide (Mach.rsnOf r ≤ Mach.rsnOf y) && decide (Mach.rsnOf y ≤ base + 65536))).getLast?,
      ∀ p ∈ s.txPort d, Does (.rrtDataSend d k) s fun t =>
        let n := Mach.rsnOf e + 1 - Mach.rsnOf r
        n ≤ s.maxRec ∧ Mach.rsnOf e ≤ base + 65536 ∧
        t.out = .rrt p.1 d.1 k.1 (Mach.rsnOf r) n ((x.dseq + 1) % 2 ^ 32) s.time.n false (t.dataBytes d k (Mach.rsnOf r) (Mach.rsnOf e)) :: s.out ∧
        (t.net.dests.get d).dseq = (x.dseq + 1) % 2 ^ 32 ∧ t.topSent d k = Mach.rsnOf e ∧ t.baseOf d k = base ∧ others t ∧
        t.g R.RRT_DG_TX = (s.g R.RRT_DG_TX + 1) % 2 ^ 32 ∧ t.jnl = s.jnl ∧
        OnlyIn [.regs, .tick, .net, .cache, .draws, .out] s.toMach t) ∧
    (s.flightOf d k = [] → Idles (.rrtResend d k) s) ∧
    (able = true → ∀ y ∈ (s.flightOf d k).head?,
      let gone := (s.recsFrom k y.first (s.topSent d k)).find? fun (r : JRec) => r.early && r.dests.contains d.1
      (∀ r ∈ gone, (s.storeIdle = false → Idles (.rrtResend d k) s) ∧
        (s.storeIdle = true → Does (.rrtResend d k) s fun t =>
          t.nvs.op = some (.readBack r.fn r.cls r.count) ∧ t.net = s.net ∧ t.jnl = s.jnl ∧ OnlyIn [.nvs, .out] s.toMach t)) ∧
      (gone = none → Does (.rrtResend d k) s fun t =>
      y.t + max 100 (s.g R.RRT_CFG_RESEND) * 1000 ≤ t.elapsed ∧ others t ∧
      (atLeast1 (s.g R.RRT_CFG2_DOWN_N) ≤ x.resends + 1 → (t.net.dests.get d).down = true) ∧
      (x.resends + 1 < atLeast1 (s.g R.RRT_CFG2_DOWN_N) → (t.net.dests.get d).resends = x.resends + 1 ∧ (t.net.dests.get d).down = x.down) ∧
      OnlyIn [.regs, .time, .tick, .enc, .jnl, .net, .cache, .draws, .out] s.toMach t)) ∧
    (s.ethUp a.port = false → Idles (.rrtAck d a) s) ∧
    (s.ethUp a.port = true →
      (a.srcOk = false ∨ s.on (R.RRT_D_CTRL_EN d) = false → Does (.rrtAck d a) s fun t =>
        t.g (R.ETH_RRT_RX a.port) = (s.g (R.ETH_RRT_RX a.port) + 1) % 2 ^ 32 ∧ t.jnl = s.jnl ∧ t.net = s.net ∧ Stirred [.regs] s.toMach t) ∧
      (a.srcOk = true → s.on (R.RRT_D_CTRL_EN d) = true → s.ackAuthentic d a = false → Does (.rrtAck d a) s fun t =>
        t.g R.RRT_AUTH_FAIL = (s.g R.RRT_AUTH_FAIL + 1) % 2 ^ 32 ∧ t.net.dests = s.net.dests ∧ Stirred [.regs, .tick, .jnl, .net, .cache] s.toMach t) ∧
      (a.srcOk = true → s.on (R.RRT_D_CTRL_EN d) = true → s.ackAuthentic d a = true → Does (.rrtAck d a) s fun t =>
        t.g R.RRT_ACK_RX = (s.g R.RRT_ACK_RX + 1) % 2 ^ 32 ∧ others t ∧
        (s.topSent d ks < a.rsn → t.g R.RRT_ACK_BAD = (s.g R.RRT_ACK_BAD + 1) % 2 ^ 32 ∧ t.jnl = s.jnl ∧ (t.net.dests.get d).base = x.base) ∧
        (a.rsn ≤ s.topSent d ks → a.rsn ≤ s.baseOf d ks → t.jnl = s.jnl ∧ (t.net.dests.get d).base = x.base) ∧
        (a.rsn ≤ s.topSent d ks → s.baseOf d ks < a.rsn →
          (∀ r ∈ t.jnl.recs, 4 * r.fn.1 + r.cls = ks.1 → Mach.rsnOf r ≤ a.rsn → r.dests.contains d.1 = false) ∧
          (t.net.dests.get d).down = false ∧ (t.net.dests.get d).resends = 0 ∧ (t.net.dests.get d).base.find ks.1 = some a.rsn ∧
          (∀ r ∈ t.jnl.recs, r ∈ s.jnl.recs ∨ ∃ y ∈ s.jnl.recs, r = { y with dests := y.dests.filter (· != d.1) })) ∧
        Stirred [.regs, .jnl, .net] s.toMach t)) ∧
    (s.rrtRuns = false ∨ s.on (R.RRT_D_CTRL_EN d) = false ∨ (x.onFb = false ∧ x.down = false) → Idles (.rrtFbProbe d) s) ∧
    (s.rrtRuns = true → s.on (R.RRT_D_CTRL_EN d) = true → x.onFb = true ∨ x.down = true → Does (.rrtFbProbe d) s fun t =>
      x.probeAt + atLeast1 (s.g R.RRT_CFG2_FB_PROBE) * 1000000 ≤ t.elapsed ∧ (t.net.dests.get d).probeAt = t.elapsed ∧ others t ∧
      (t.net.dests.get d).down = x.down ∧ (t.net.dests.get d).onFb = x.onFb ∧
      OnlyIn [.regs, .time, .tick, .enc, .jnl, .net, .cache, .draws, .out] s.toMach t) ∧
    Does (.rrtDestDisable d) s (fun t =>
      t.g (R.RRT_D_CTRL_EN d) = 0 ∧ t.net.dests.get d = { dseq := x.dseq } ∧ others t ∧ (∀ r ∈ t.jnl.recs, r.dests.contains d.1 = false) ∧
      t.g R.RRT_DEST_DROP = (s.g R.RRT_DEST_DROP + (s.jnl.recs.filter fun r => r.dests.contains d.1).length) % 2 ^ 32 ∧
      RegsBut [(R.RRT_D_CTRL_EN d).a, R.RRT_DEST_DROP.a] s.toMach t ∧ OnlyIn [.regs, .jnl, .net] s.toMach t) ∧
    Does (.rrtDAckRead d) s (fun t =>
      let v := s.baseOf d (Fin.ofNat 32 (s.g (R.RRT_D_SEL d)))
      t.rd (R.RRT_D_ACK_HI_A d) = BitVec.ofNat 32 (v / 2 ^ 32) ∧ t.out = .readValue (R.RRT_D_ACK_LO_A d) (BitVec.ofNat 32 v) :: s.out ∧
      RegsBut [R.RRT_D_ACK_HI_A d] s.toMach t ∧ OnlyIn [.regs, .out] s.toMach t)

/-! ## Commands of the CMD rings (13_host_interface.md) -/

/-- R376, R378, R280. -/
def Obligations.CommandsAreJudgedInOrder : Prop :=
  ∀ (s : State) (h : CmdHdr) (a b c d : Nat) (i j k : Int) (p : Fin 16) (g : Fin 8) (n : Fin 4) (e : Bool) (bytes : List Byte)
    (pairs : List (Nat × BitVec 32)) (table : List (List Int × Nat)) (slots : List SlotHdr) (o : Option Nat),
    let all : List (Instr × Nat) := [(.fence h, 0x01), (.query h a b c d, 0x02), (.loadGraph h bytes a b o, 0x10), (.unloadGraph h a, 0x11),
      (.mapRoles h bytes, 0x12), (.portConfigWrites h p a pairs, 0x20), (.portConfigSci h p a b bytes, 0x20), (.portEnable h p, 0x21),
      (.portDisable h p, 0x21), (.portFlush h p, 0x22), (.setTickChange h a, 0x30), (.setTickLoad h a i, 0x30), (.setQuality h a, 0x31),
      (.setEnergyCap h a, 0x32), (.setPlLimit h a b, 0x33), (.calibSet h a table, 0x40), (.calibLock h a e, 0x41), (.actionAdd h g e n e a i, 0x50),
      (.actionCancel h a, 0x51), (.ruleSet h a b bytes, 0x52), (.extMeas h i j k a b c e e, 0x60), (.tapConfig h a b e, 0x70),
      (.assign h a g b c, 0x80), (.washQuery h, 0x81), (.rptResume h a slots, 0x90), (.rptDiscard h a, 0x91), (.pkgReset h, 0xF0)]
    ∀ x ∈ all,
      (s.fetchable h.fn = false → Idles x.1 s) ∧
      (s.fetchable h.fn = true →
        (h.phaseOk = false → Rejects x.1 h x.2 0x10 s) ∧
        (h.phaseOk = true → (s.fn.get h.fn).wedged = true → Rejects x.1 h x.2 0x1F s) ∧
        (h.phaseOk = true → (s.fn.get h.fn).wedged = false → h.rsvdOk = false → Rejects x.1 h x.2 0x10 s) ∧
        (h.phaseOk = true → (s.fn.get h.fn).wedged = false → h.rsvdOk = true →
          ((x.2 = 0x80 ∨ x.2 = 0xF0) ∧ h.fn ≠ 0) ∨ ((x.2 = 0x30 ∨ x.2 = 0x32 ∨ x.2 = 0x33) ∧ s.own.tick ≠ h.fn) → Rejects x.1 h x.2 0x11 s) ∧
        (h.phaseOk = true → (s.fn.get h.fn).wedged = false → h.rsvdOk = true → ((x.2 = 0x80 ∨ x.2 = 0xF0) → h.fn = 0) →
          ((x.2 = 0x30 ∨ x.2 = 0x32 ∨ x.2 = 0x33) → s.own.tick = h.fn) → s.jnl.pf ≠ none → Rejects x.1 h x.2 0x12 s))

/-- R368, R369, R380, R381, R62, R83, R85. -/
def Obligations.PortCommandsComplete : Prop :=
  ∀ (s : State) (h : CmdHdr) (p : Fin 16) (n : Nat) (pairs : List (Nat × BitVec 32)) (addr rlen : Nat) (bytes : List Byte) (mask shift : Nat) (en : Bool),
    let f := h.fn
    let cseq := (s.fn.get f).cseq
    let others := fun (t : Mach) => ∀ q : Fin 16, q ≠ p → t.port.get q = s.port.get q ∧ t.fe.get q = s.fe.get q
    let isOpen := fun (t : Mach) => (t.fn.get f).openCmds = (s.fn.get f).openCmds ++ [cseq]
    let same := fun (t : Mach) => (t.fn.get f).openCmds = (s.fn.get f).openCmds
    let judge := s.portJudge f p
    let mode := s.sciMode p
    s.fetchable f = true →
    (s.preCheck h 0x20 = none →
      (∀ code ∈ judge, Rejects (.portConfigWrites h p n pairs) h 0x20 code s ∧ Rejects (.portConfigSci h p addr rlen bytes) h 0x20 code s) ∧
      (judge = none → (∀ code ∈ Mach.pairsReject f p n pairs s.toMach, Rejects (.portConfigWrites h p n pairs) h 0x20 code s) ∧
        (Mach.pairsReject f p n pairs s.toMach = none → Accepts (.portConfigWrites h p n pairs) h 0x20 0 0 s fun t =>
          (∀ u ∈ (Mach.applyPairs f p (pairs.take n) s.toMach).toOption,
            RegsBut [R.HIF_CMD_FETCHED.a] u t ∧ t.port = u.port ∧ t.fe = u.fe ∧ t.fus = u.fus) ∧ others t ∧ same t) ∧
        (s.on (R.ING_SCI_CFG_OWNER p) = true ∨ (s.port.get p).sci ≠ none → Rejects (.portConfigSci h p addr rlen bytes) h 0x20 0x13 s) ∧
        (s.on (R.ING_SCI_CFG_OWNER p) = false → (s.port.get p).sci = none → bytes.length ≤ 32 → rlen ≤ 32 →
          Accepts (.portConfigSci h p addr rlen bytes) h 0x20 0 0 s fun t =>
            (mode = 0 ∨ 4 < mode → (t.port.get p).sci = none ∧ 1 ≤ t.g (R.ING_SCI_STAT_RESULT p) ∧ t.g (R.ING_SCI_STAT_RESULT p) ≤ 4) ∧
            (1 ≤ mode → mode ≤ 4 → (t.port.get p).sci = some { who := .cmd f h.ctag cseq, startEl := s.elapsed, rlen := rlen } ∧
              t.out.head? = some (.sci p.1 mode addr bytes rlen) ∧ isOpen t) ∧
            others t ∧ OnlyIn [.regs, .port, .jnl, .sleep, .fn, .draws, .out] s.toMach t) ∧
        (s.on (R.ING_SCI_CFG_OWNER p) = false → (s.port.get p).sci = none → 32 < bytes.length ∨ 32 < rlen →
          Accepts (.portConfigSci h p addr rlen bytes) h 0x20 0 0 s fun t =>
            (t.port.get p).sci = none ∧ t.g (R.ING_SCI_STAT_RESULT p) = 3 ∧ others t ∧ OnlyIn [.regs, .port, .jnl, .sleep, .fn, .out] s.toMach t))) ∧
    (s.preCheck h 0x21 = none →
      (∀ code ∈ judge, Rejects (.portEnable h p) h 0x21 code s ∧ Rejects (.portDisable h p) h 0x21 code s) ∧
      (judge = none →
        (∀ code ∈ s.enableReject p, Rejects (.portEnable h p) h 0x21 code s) ∧
        (s.enableReject p = none →
          (s.on (R.ING_CTRL_EN p) = true → Accepts (.portEnable h p) h 0x21 0 0 s fun t =>
            t.port = s.port ∧ t.fe = s.fe ∧ RegsBut [R.HIF_CMD_FETCHED.a] s.toMach t ∧ OnlyIn [.regs, .jnl, .sleep, .fn, .out] s.toMach t) ∧
          (s.on (R.ING_CTRL_EN p) = false → Accepts (.portEnable h p) h 0x21 0 0 s fun t =>
            t.g (R.ING_CTRL_EN p) = 1 ∧ (t.port.get p).running = true ∧ (t.port.get p).stopReq = false ∧ (t.port.get p).fit.valid = false ∧
            (t.port.get p).vat = (s.port.get p).vat ∧ (t.fe.get p).surf = [] ∧ (t.fe.get p).zeroing = true ∧ (t.fe.get p).warming = true ∧ others t ∧
            same t ∧ RegsBut [R.HIF_CMD_FETCHED.a, (R.ING_CTRL_EN p).a] s.toMach t ∧ OnlyIn [.regs, .port, .fe, .jnl, .sleep, .fn, .out] s.toMach t)) ∧
        Accepts (.portDisable h p) h 0x21 0 0 s (fun t =>
          t.g (R.ING_CTRL_EN p) = 0 ∧ (t.port.get p).running = (s.port.get p).running ∧ ((s.port.get p).running = true → (t.port.get p).stopReq = true) ∧
          (t.port.get p).vat = (s.port.get p).vat ∧ others t ∧ same t ∧ RegsBut [R.HIF_CMD_FETCHED.a, (R.ING_CTRL_EN p).a] s.toMach t ∧
          OnlyIn [.regs, .port, .jnl, .sleep, .fn, .out] s.toMach t))) ∧
    (s.preCheck h 0x22 = none →
      (∀ code ∈ judge, Rejects (.portFlush h p) h 0x22 code s) ∧
      (judge = none → Accepts (.portFlush h p) h 0x22 0 0 s fun t =>
        t.port.get p = { s.port.get p with flushPend := true, flushOwed := (s.port.get p).flushOwed ++ [(f, h.ctag, cseq)] } ∧ isOpen t ∧ others t ∧
        RegsBut [R.HIF_CMD_FETCHED.a] s.toMach t ∧ OnlyIn [.regs, .port, .jnl, .sleep, .fn, .out] s.toMach t)) ∧
    (s.preCheck h 0x70 = none → Accepts (.tapConfig h mask shift en) h 0x70 0 0 s fun t =>
      (t.fn.get f).tap.en = en ∧ (t.fn.get f).tap.shift = shift % 32 ∧ (t.fn.get f).tap.seen = 0 ∧
      (t.fn.get f).tap.mask = mask ∧ (t.fn.get f).tap.buf = (s.fn.get f).tap.buf ∧ same t ∧
      (∀ g : Fin 8, g ≠ f → t.fn.get g = s.fn.get g) ∧ RegsBut [R.HIF_CMD_FETCHED.a] s.toMach t ∧ OnlyIn [.regs, .jnl, .sleep, .fn, .out] s.toMach t)

/-- R43 to R45, R48 to R50, R142, R186 to R193, R218, R251, R293. -/
def Obligations.BoundaryCommandsWait : Prop :=
  ∀ (s : State) (h : CmdHdr) (period : Nat) (origin : Int) (q mask : Nat) (table : List (List Int × Nat)) (lock : Bool) (first count slot : Nat)
    (bytes : List Byte) (len dst : Nat) (repl : Option Nat),
    let f := h.fn
    let cseq := (s.fn.get f).cseq
    let eff := if h.tnEff = 2 ^ 48 - 1 then s.tick.tn + 2 else h.tnEff
    let tnBad : Option Nat :=
      if h.tnEff = 2 ^ 48 - 1 then none else if h.tnEff < s.tick.tn + 2 then some 0x14 else if s.tick.tn + 2 ^ 32 < h.tnEff then some 0x10 else none
    let effBad := fun (kind : Nat) => tnBad.or (if s.tick.pending.any (fun p => p.fn == f && Mach.changeKind p.change == kind) then some 0x12 else none)
    let isOpen := fun (t : Mach) => (t.fn.get f).openCmds = (s.fn.get f).openCmds ++ [cseq]
    let waits := fun (op tn : Nat) (c : Change) (t : Mach) =>
      t.tick = { s.tick with pending := s.tick.pending ++ [{ fn := f, op := op, ctag := h.ctag, cseq := cseq, tnEff := tn, change := c }] } ∧ isOpen t
    let frame := fun (t : Mach) => RegsBut [R.HIF_CMD_FETCHED.a] s.toMach t ∧ OnlyIn [.regs, .tick, .jnl, .sleep, .fn, .out] s.toMach t
    let o64 := toSigned 64 (toBits 64 origin)
    let hs := Mach.homsOf mask table
    let rules := (List.range count).map fun i => Rule.of bytes (32 * i)
    let badPeriod := period < 50 ∨ 1000 < period
    let change := (effBad 0).or (if badPeriod then some 0x10 else none)
    let load := if badPeriod then some 0x10 else if s.tick.pending.any (fun p => p.fn == f && Mach.changeKind p.change == 0) then some 0x12
      else if !s.images.isEmpty || (s.fn.toList.any fun (x : Func) => x.load.isSome) || (List.range 16).any (fun p => s.on (R.ING_CTRL_EN p)) then some 0x13 else none
    let quality := (effBad 5).or (if 15 < q then some 0x10 else none)
    let calib := (effBad 3).or (if !hs.all s.homCorners then some 0x10 else s.portsJudge f mask)
    let locks := (effBad 3).or (s.portsJudge f mask)
    let ruled := (effBad 4).or (if count = 0 ∨ 32 < count ∨ 32 < first + count ∨ !rules.all Rule.ok then some 0x10 else none)
    let unload := (effBad 1).or (match s.images.find slot with | some im => if im.fn == f && Mach.imageActive s.tick.tn im then none else some 0x10 | none => some 0x10)
    let es := Mach.mapEntries bytes
    let maps := (effBad 2).or (s.mapReject f eff es)
    let epoch := ((s.fn.get f).newest + 1) % 256
    let loads := (effBad 1).or (s.loadReject f bytes len dst repl)
    s.fetchable f = true →
    (h.phaseOk = true → (s.fn.get f).wedged = false → h.rsvdOk = true → s.own.tick ≠ f →
      Rejects (.setTickChange h period) h 0x30 0x11 s ∧ Rejects (.setTickLoad h period origin) h 0x30 0x11 s) ∧
    (s.preCheck h 0x30 = none →
      (∀ code ∈ change, Rejects (.setTickChange h period) h 0x30 code s) ∧
      (change = none → Accepts (.setTickChange h period) h 0x30 0 eff s fun t => waits 0x30 eff (.tickChange period) t ∧ frame t) ∧
      (∀ code ∈ load, Rejects (.setTickLoad h period origin) h 0x30 code s) ∧
      (load = none → Accepts (.setTickLoad h period origin) h 0x30 0 0 s fun t => waits 0x30 0 (.tickLoad period o64 ((s.time.n - o64).fdiv (period * 1000) + 1)) t ∧ frame t)) ∧
    (s.preCheck h 0x31 = none →
      (∀ code ∈ quality, Rejects (.setQuality h q) h 0x31 code s) ∧
      (quality = none → Accepts (.setQuality h q) h 0x31 0 eff s fun t => waits 0x31 eff (.quality q) t ∧ frame t)) ∧
    (s.preCheck h 0x40 = none →
      (∀ code ∈ calib, Rejects (.calibSet h mask table) h 0x40 code s) ∧
      (calib = none → Accepts (.calibSet h mask table) h 0x40 0 eff s fun t => waits 0x40 eff (.calibSet (hs.map fun x => (x.1.1, x.2))) t ∧ frame t)) ∧
    (s.preCheck h 0x41 = none →
      (∀ code ∈ locks, Rejects (.calibLock h mask lock) h 0x41 code s) ∧
      (locks = none → Accepts (.calibLock h mask lock) h 0x41 0 eff s fun t => waits 0x41 eff (.calibLock mask lock) t ∧ frame t)) ∧
    (s.preCheck h 0x52 = none →
      (∀ code ∈ ruled, Rejects (.ruleSet h first count bytes) h 0x52 code s) ∧
      (ruled = none → Accepts (.ruleSet h first count bytes) h 0x52 0 eff s fun t => waits 0x52 eff (.ruleSet first rules) t ∧ frame t)) ∧
    (s.preCheck h 0x11 = none →
      (∀ code ∈ unload, Rejects (.unloadGraph h slot) h 0x11 code s) ∧
      (unload = none → Accepts (.unloadGraph h slot) h 0x11 0 eff s fun t => waits 0x11 eff (.unloadGraph slot) t ∧ frame t)) ∧
    (s.preCheck h 0x12 = none →
      (∀ code ∈ maps, Rejects (.mapRoles h bytes) h 0x12 code s) ∧
      (maps = none → Accepts (.mapRoles h bytes) h 0x12 epoch eff s fun t =>
        waits 0x12 eff (.mapRoles epoch (es.map fun x => (x.1, 18 * x.2.1 + x.2.2))) t ∧ (t.fn.get f).newest = epoch ∧ (t.fn.get f).roles = (s.fn.get f).roles ∧
        (∀ e : Fin 72, (s.roleAt s.tick.tn e).isSome = true → t.eng.get e = s.eng.get e) ∧ OnlyIn [.regs, .tick, .eng, .jnl, .sleep, .fn, .out] s.toMach t)) ∧
    (s.preCheck h 0x10 = none →
      (∀ code ∈ loads, Rejects (.loadGraph h bytes len dst repl) h 0x10 code s) ∧
      (loads = none → Does (.loadGraph h bytes len dst repl) s fun t =>
        Fetches h s.toMach t ∧ (s.on (R.HIF_F_CTRL_SHADOW_EN f) = false → t.out = s.out) ∧
        (s.on (R.HIF_F_CTRL_SHADOW_EN f) = true → t.out.length = s.out.length + 1) ∧ t.jnl = s.jnl ∧
        (t.fn.get f).load = some { ctag := h.ctag, cseq := cseq, tnEff := eff, dst := dst, replaces := repl, bytes := sliceB bytes 0 len } ∧
        RegsBut [R.HIF_CMD_FETCHED.a] s.toMach t ∧ OnlyIn [.regs, .sleep, .fn, .out] s.toMach t))

/-- R186, R187. -/
def Obligations.LoadedImageTakesItsSlot : Prop :=
  ∀ (s : State) (f : Fin 8),
    ((s.fn.get f).load = none → Idles (.loadGraphCopyDone f) s) ∧
    (∀ j ∈ (s.fn.get f).load,
      let im := parseImage f j.dst j.bytes
      let ok := imageOk s.gradeId s.gradePl j.bytes
      let clash : Bool := (s.imagesAt f j.tnEff).any fun x => some x.1 != j.replaces && Mach.claims im x.2
      let cpl := fun (status d10 d18 : Nat) =>
        let phase := Mach.phaseOf (s.ringSize f 1) (s.ring f 1).count
        let e : Cpl := { op := 0x10, ctag := j.ctag, status := status, result := 0, cseq := j.cseq, d10 := d10, d18 := d18 }
        Out.cpl f ((s.ring f 1).count % s.ringSize f 1) phase e (e.bytes phase)
      let refused := fun (code : Nat) (t : Mach) =>
        (t.fn.get f).load = none ∧ t.images = s.images ∧ t.dram = s.dram ∧ t.g R.HIF_CMD_REJECTED = (s.g R.HIF_CMD_REJECTED + 1) % 2 ^ 32 ∧
        (s.ringEn f 1 = true → cpl code 0 0 ∈ t.out) ∧ OnlyIn [.regs, .jnl, .fn, .out] s.toMach t
      (ok = false → Does (.loadGraphCopyDone f) s (refused 0x10)) ∧
      (ok = true → clash = true → Does (.loadGraphCopyDone f) s (refused 0x13)) ∧
      (ok = true → clash = false → s.freeSlotNo = none → Does (.loadGraphCopyDone f) s (refused 0x15)) ∧
      (ok = true → clash = false → ∀ slot ∈ s.freeSlotNo, Does (.loadGraphCopyDone f) s fun t =>
        s.images.find slot = none ∧ (t.fn.get f).load = none ∧ (∃ x ∈ t.images.find slot, x.fn = f ∧ x.imageId = im.imageId ∧ x.dst = j.dst ∧ x.layers = im.layers ∧
          (s.tick.tn < j.tnEff → x.activeFrom = none) ∧ (j.tnEff ≤ s.tick.tn → x.activeFrom = some s.tick.tn)) ∧
        t.dram = (s.dramPut j.dst j.bytes).dram ∧ t.pops.length = s.pops.length + im.pops.length ∧
        (s.ringEn f 1 = true → cpl 0 slot j.tnEff ∈ t.out) ∧ (s.tick.tn < j.tnEff → t.tick.pending.length = s.tick.pending.length + 1) ∧
        t.tick.tn = s.tick.tn ∧ t.eng = s.eng ∧ OnlyIn [.regs, .tick, .images, .pops, .jnl, .fn, .dram, .cache, .ueLines, .out] s.toMach t))

/-- R223, R292, R302, R315, R379, R380, R384, R388. -/
def Obligations.ImmediateCommandsComplete : Prop :=
  ∀ (s : State) (h : CmdHdr) (cap mask level : Nat) (out : Fin 8) (position : Bool) (enc : Fin 4) (fire : Bool) (width : Nat) (trigger : Int) (id : Nat)
    (ts md cd : Int) (var cid cls : Nat) (clsValid spawn : Bool) (item arg dst len : Nat) (slots : List SlotHdr),
    let f := h.fn
    let x := s.fn.get f
    let isOpen := fun (t : Mach) => (t.fn.get f).openCmds = x.openCmds ++ [x.cseq]
    let quiet := fun (t : Mach) => RegsBut [R.HIF_CMD_FETCHED.a] s.toMach t ∧ OnlyIn [.regs, .jnl, .sleep, .fn, .out] s.toMach t
    let addBad : Option Nat := if bitN (s.g (R.ACT_F_OUT_OUT_MASK f)) out.1 = false then some 0x11 else if (s.washing kindTrig out.1 || s.tableFrozen) = true then some 0x12
      else if width = 0 ∨ 65535 < width ∨ (position = true ∧ s.on (R.MOT_ENC_CTRL_EN enc) = false) then some 0x10
      else if 4096 ≤ s.jnl.actions.length then some 0x15 else none
    let slot := Mach.freeSlotFrom s.jnl.actions 0
    let act : Action := { gen := Tab.get (fun _ => 0) s.jnl.gens slot + 1, slot := slot, out := out, kind := position, enc := enc, fire := fire, origClass := 0, fn := f, width := width, trigger := trigger, origRsn := 0, cid := 0, rule := 0x3F }
    let qBad : Option Nat := if item = 0 ∨ 8 < item then some 0x10
      else if item = 8 ∧ ¬ ((s.own.part.get f).1 ≤ arg ∧ arg < (s.own.part.get f).1 + (s.own.part.get f).2) then some 0x11 else none
    let washes := s.own.washes.filter fun (w : Wash) => s.washOwner w == some f
    let late := ts + 1000 * (s.g (R.FUS_F_EXT f) : Int) < s.time.n
    s.fetchable f = true →
    (s.preCheck h 0x32 = none →
      (cap < 8000 ∨ s.gradeCap < cap → Rejects (.setEnergyCap h cap) h 0x32 0x10 s) ∧
      (8000 ≤ cap → cap ≤ s.gradeCap → Accepts (.setEnergyCap h cap) h 0x32 0 0 s fun t =>
        t.g R.PWR_CAP = cap ∧ RegsBut [R.HIF_CMD_FETCHED.a, R.PWR_CAP.a] s.toMach t ∧ OnlyIn [.regs, .jnl, .sleep, .fn, .out] s.toMach t)) ∧
    (s.preCheck h 0x33 = none →
      (s.gradePl < level → Rejects (.setPlLimit h mask level) h 0x33 0x10 s) ∧
      (level ≤ s.gradePl → Accepts (.setPlLimit h mask level) h 0x33 0 0 s fun t =>
        (∀ d : Fin 4, t.lvl.get d = if bitN mask d.1 then { s.lvl.get d with limitNext := some level } else s.lvl.get d) ∧
        RegsBut [R.HIF_CMD_FETCHED.a] s.toMach t ∧ OnlyIn [.regs, .lvl, .jnl, .sleep, .fn, .out] s.toMach t)) ∧
    (s.preCheck h 0x50 = none →
      (∀ code ∈ addBad, Rejects (.actionAdd h out position enc fire width trigger) h 0x50 code s) ∧
      (addBad = none → Accepts (.actionAdd h out position enc fire width trigger) h 0x50 act.id 0 s fun t =>
        (s.lateNow act = false → t.jnl.actions = Tab.put s.jnl.actions slot act ∧ t.jnl.recs = s.jnl.recs ∧ t.time = s.time) ∧
        (s.lateNow act = true → ∀ e ∈ Tab.find t.jnl.actions slot, e.lateBy = some .late) ∧
        (s.sleep.stepAt ≠ none → s.sleep.goS3 = false → t.sleep.entering = none) ∧
        OnlyIn [.regs, .time, .tick, .jnl, .sleep, .fn, .cache, .out] s.toMach t)) ∧
    (s.preCheck h 0x51 = none →
      (∀ e ∈ s.jnl.actions.find? (fun e => e.2.id == id),
        (e.2.fn ≠ f → Rejects (.actionCancel h id) h 0x51 0x11 s) ∧
        (e.2.fn = f → s.tableFrozen = true → Rejects (.actionCancel h id) h 0x51 0x12 s) ∧
        (e.2.fn = f → s.tableFrozen = false → Accepts (.actionCancel h id) h 0x51 0 0 s fun t =>
          t.jnl.actions = Tab.erase s.jnl.actions e.2.slot ∧ t.g R.ACT_CANCELLED = (s.g R.ACT_CANCELLED + 1) % 2 ^ 32 ∧ t.time = s.time ∧
          OnlyIn [.regs, .tick, .jnl, .sleep, .fn, .cache, .out] s.toMach t)) ∧
      (s.jnl.actions.find? (fun e => e.2.id == id) = none → Rejects (.actionCancel h id) h 0x51 0x13 s)) ∧
    (s.preCheck h 0x60 = none →
      (var = 0 → Rejects (.extMeas h ts md cd var cid cls clsValid spawn) h 0x60 0x10 s) ∧
      (var ≠ 0 → late → Rejects (.extMeas h ts md cd var cid cls clsValid spawn) h 0x60 0x14 s) ∧
      (var ≠ 0 → ¬ late → Accepts (.extMeas h ts md cd var cid cls clsValid spawn) h 0x60 0 0 s fun t =>
        (∃ e ∈ t.fus.ext.getLast?, t.fus.ext = s.fus.ext ++ [e] ∧ e.fn = f ∧ e.cseq = x.cseq ∧ e.ts = ts ∧ e.md = md ∧ e.cd = cd ∧ e.var = var ∧ e.cid = cid ∧
          e.cls = (if clsValid then some cls else none) ∧ e.spawn = spawn) ∧
        t.fus.store = s.fus.store ∧ isOpen t ∧ t.g R.FUS_EXT_IN = (s.g R.FUS_EXT_IN + 1) % 2 ^ 32 ∧ OnlyIn [.regs, .fus, .jnl, .sleep, .fn, .out] s.toMach t)) ∧
    (s.preCheck h 0x02 = none →
      (∀ code ∈ qBad, Rejects (.query h item arg dst len) h 0x02 code s) ∧
      (qBad = none → (∀ b ∈ s.queryBytes f item arg, Accepts (.query h item arg dst len) h 0x02 (min len b.length) 0 s fun t =>
          .query f dst item ((b.take len).map fun y => (y.toNat : Int)) ∈ t.out ∧ quiet t) ∧
        (s.queryBytes f item arg = none → Accepts (.query h item arg dst len) h 0x02 (Config.freeNat s.draws % (len + 1)) 0 s fun t =>
          RegsBut [R.HIF_CMD_FETCHED.a] s.toMach t ∧ OnlyIn [.regs, .jnl, .sleep, .fn, .draws, .out] s.toMach t))) ∧
    (s.preCheck h 0x01 = none → Accepts (.fence h) h 0x01 0 0 s fun t =>
      (x.openCmds = [] → x.fences = [] → (t.fn.get f).openCmds = [] ∧ (t.fn.get f).fences = []) ∧
      (x.openCmds.any (fun c => decide (c < x.cseq)) = true → x.fences = [] → isOpen t ∧ (t.fn.get f).fences = [(h.ctag, x.cseq)]) ∧ quiet t) ∧
    (s.preCheck h 0x81 = none → Accepts (.washQuery h) h 0x81 ((washes.map (·.count)).sum) ((washes.filter fun (w : Wash) => w.kind == 2).length * 2 ^ 21) s fun t =>
      (t.fn.get f).openCmds = x.openCmds ∧ quiet t) ∧
    (s.preCheck h 0x90 = none →
      ((Mach.classesOf mask).any (fun (c : Fin 4) => !s.ringEn f (rptRing c)) = true → Rejects (.rptResume h mask slots) h 0x90 0x13 s) ∧
      ((Mach.classesOf mask).any (fun (c : Fin 4) => !s.ringEn f (rptRing c)) = false → Accepts (.rptResume h mask slots) h 0x90 0 0 s fun t =>
        (∀ c : Fin 4, (t.fn.get f).retained.contains c.1 = (x.retained.contains c.1 && !bitN mask c.1)) ∧
        (∀ g : Fin 8, g ≠ f → t.fn.get g = s.fn.get g) ∧ OnlyIn [.regs, .jnl, .sleep, .fn, .out] s.toMach t)) ∧
    (s.preCheck h 0x91 = none →
      let gone := s.jnl.recs.filter fun (r : JRec) => r.fn == f && x.retained.contains r.cls && bitN mask r.cls && !r.hostDone
      Accepts (.rptDiscard h mask) h 0x91 gone.length 0 s fun t =>
        (∀ r ∈ t.jnl.recs, r.fn = f → x.retained.contains r.cls = true → bitN mask r.cls = true → r.hostDone = true) ∧
        (∀ k ∈ x.retained, (t.fn.get f).retained.contains k = !bitN mask k) ∧ quiet t) ∧
    (s.preCheck h 0xF0 = none → Accepts (.pkgReset h) h 0xF0 0 0 s fun t =>
      t.rst = { s.rst with pkgReset := some s.elapsed } ∧ RegsBut [R.HIF_CMD_FETCHED.a] s.toMach t ∧ OnlyIn [.regs, .jnl, .sleep, .fn, .rst, .out] s.toMach t)

/-- R366, R367, R369, R386, R387. -/
def Obligations.OwnershipMovesWithAWash : Prop :=
  ∀ (s : State) (h : CmdHdr) (kind : Nat) (dest : Fin 8) (first count : Nat) (unit : Nat) (f : Fin 8),
    let stopped := fun (g : Fin 8) (t : Mach) => (t.fn.get g).flrBusy = true ∧
      ((s.fn.get g).flrBusy = false → (t.fn.get g).flrEdge = true ∧ (t.fn.get g).flrAt = some s.elapsed ∧ (∀ r : Fin 7, t.ringEn g r = false) ∧
        (∀ p ∈ t.tick.pending, p.fn ≠ g))
    let allPf := fun (t : Mach) => (∀ p : Fin 16, t.own.port.get p = 0) ∧ (∀ e : Fin 72, t.own.eng.get e = 0) ∧ (∀ k : Fin 8, t.own.fmap.get k = 0) ∧
      (∀ o : Fin 8, t.own.trig.get o = 0) ∧ (∀ d : Fin 8, t.own.rrt.get d = 0) ∧ t.own.tick = 0 ∧ (∀ e ∈ s.own.gran, t.granOwner e.1 = some 0 ∨ t.granOwner e.1 = none) ∧
      t.own.part.get 0 = (0, 16384)
    (s.fetchable h.fn = true → s.preCheck h 0x80 = none →
      (∀ code ∈ s.assignJudge kind first count dest, Rejects (.assign h kind dest first count) h 0x80 code s) ∧
      (s.assignJudge kind first count dest = none → Accepts (.assign h kind dest first count) h 0x80 0 0 s fun t =>
        (∀ u ∈ Mach.unitsOf first count, t.ownerOf kind u = some dest) ∧
        (kind ≠ 7 → kind ≠ 3 → ∀ u ∈ Mach.unitsOf first count, s.ownerOf kind u ≠ some dest →
          ({ kind := kind, unit := u, owed := some ((s.fn.get h.fn).cseq, h.ctag) } : Wash) ∈ t.own.washes) ∧
        (kind = 3 → ∀ u ∈ Mach.unitsOf first count, ¬ ((s.own.part.get dest).1 ≤ u ∧ u < (s.own.part.get dest).1 + (s.own.part.get dest).2) →
          ∃ w ∈ t.own.washes, w.kind = 3 ∧ w.unit ≤ u ∧ u < w.unit + w.count ∧ w.owed = some ((s.fn.get h.fn).cseq, h.ctag)) ∧
        (∀ w ∈ s.own.washes, w ∈ t.own.washes) ∧ t.dram = s.dram ∧ t.port = s.port ∧ t.eng = s.eng ∧ OnlyIn [.regs, .jnl, .sleep, .fn, .own, .out] s.toMach t)) ∧
    (s.own.washes.any (fun w => w.kind == kind && w.unit == unit) = false → Idles (.washDone kind unit) s) ∧
    (∀ w ∈ s.own.washes.find? (fun w => w.kind == kind && w.unit == unit), Does (.washDone kind unit) s fun t =>
      t.own.washes.any (fun w => w.kind == kind && w.unit == unit) = false ∧
      (kind = 0 → (let x := s.port.get (Fin.ofNat 16 unit)
        t.port.get (Fin.ofNat 16 unit) = { sci := x.sci, flushPend := x.flushPend, flushOwed := x.flushOwed }) ∧ t.fe.get (Fin.ofNat 16 unit) = {} ∧ (t.fus.homs.get (Fin.ofNat 16 unit)).cur = {}) ∧
      (kind = 1 → t.eng.get (Fin.ofNat 72 unit) = { s.eng.get (Fin.ofNat 72 unit) with sram := [], holds := none }) ∧ (kind = 5 → t.time.trigOut.get (Fin.ofNat 8 unit) = {}) ∧
      (kind = 6 → t.net.dests.get (Fin.ofNat 8 unit) = {}) ∧
      (kind = 3 → ∀ e ∈ t.fus.store, e.1 < unit ∨ unit + w.count ≤ e.1) ∧
      (kind = 2 → t.dram = Tab.clearRange s.dram (unit * 2 ^ 21) ((unit + 1) * 2 ^ 21)) ∧
      (kind = 8 → t.dram = Tab.clearRange s.dram (unit * 2 ^ 30) ((unit + 1) * 2 ^ 30)) ∧
      (kind ≠ 2 → kind ≠ 8 → t.dram = s.dram) ∧ t.own = { s.own with washes := t.own.washes } ∧ t.time.n = s.time.n ∧
      OnlyIn [.regs, .time, .tick, .port, .fe, .eng, .fus, .jnl, .fn, .own, .net, .dram, .cache, .ueLines, .out] s.toMach t) ∧
    (f ≠ 0 → (s.fn.get f).flrBusy = true → (s.Awake ∨ s.sleep.state = 3 → Idles (.flr f) s) ∧
      Does (.flr f) s fun t => t.fn = s.fn ∧ t.own = s.own ∧ Stirred [] s.toMach t) ∧
    (f ≠ 0 → (s.fn.get f).flrBusy = false → Does (.flr f) s fun t =>
      stopped f t ∧ t.g R.HIF_FLR_COUNT = (s.g R.HIF_FLR_COUNT + 1) % 2 ^ 32 ∧ (∀ g : Fin 8, g ≠ f → t.fn.get g = s.fn.get g) ∧ t.own = s.own ∧
      (∀ p ∈ s.tick.pending, p.fn ≠ f → p ∈ t.tick.pending) ∧ Stirred [.regs, .tick, .jnl, .fn, .out] s.toMach t) ∧
    Does (.flr 0) s (fun t => (∀ g : Fin 8, stopped g t) ∧ allPf t ∧ Stirred [.regs, .tick, .jnl, .fn, .own, .out] s.toMach t) ∧
    Does .vfEnableClear s (fun t =>
      (∀ g : Fin 8, g ≠ 0 → stopped g t) ∧ (t.fn.get 0).flrBusy = (s.fn.get 0).flrBusy ∧ allPf t ∧ Stirred [.regs, .tick, .jnl, .fn, .own, .out] s.toMach t) ∧
    ((s.fn.get f).flrBusy = false ∨ (s.fn.get f).flrEdge = true → Idles (.flrComplete f) s) ∧
    ((s.fn.get f).flrBusy = true → (s.fn.get f).flrEdge = false → Does (.flrComplete f) s fun t =>
      t.fn.get f = { s.fn.get f with flrBusy := false, flrAt := none } ∧ (∀ g : Fin 8, g ≠ f → t.fn.get g = s.fn.get g) ∧ OnlyIn [.fn] s.toMach t) ∧
    ((s.fn.get f).flrBusy = false ∨ (s.fn.get f).flrAt = none ∨ (s.fn.get f).wedged = true → Idles (.flrWedgeTimeout f) s) ∧
    ((s.fn.get f).flrBusy = true → (s.fn.get f).wedged = false → ∀ t0 ∈ (s.fn.get f).flrAt, Does (.flrWedgeTimeout f) s fun t =>
      t0 + 90000000 ≤ t.elapsed ∧ t.fn.get f = { s.fn.get f with wedged := true } ∧ t.out.head? = some (.msix 0 6) ∧
      OnlyIn [.regs, .time, .tick, .enc, .jnl, .fn, .cache, .out] s.toMach t)

/-! ## Registers, doorbells, rings and the mailbox (01_architecture.md, 13_host_interface.md) -/

/-- R9, R28, R85, R115, R365, R389, R485. The error events on vector 6 are R375's. -/
def Obligations.RegisterAccessesFollowTheirFields : Prop :=
  ∀ (s : State) (f : Fin 8) (off : Nat) (val : Word) (be : BitVec 4) (w : Bool),
    let key := barKey f off
    let unmapped := fun (t : Mach) =>
      t.g (R.HIF_F_STAT_UNMAPPED f) = 1 ∧ .msix f 6 ∈ t.out ∧
      (f = 0 → t.g R.HIF_ERR_UNMAPPED = 1 ∧ t.g R.HIF_ERR_ADDR_OFFSET = if s.on R.HIF_ERR_UNMAPPED = true then s.g R.HIF_ERR_ADDR_OFFSET else off / 4 * 4) ∧
      RegsBut (if f = 0 then [(R.HIF_F_STAT_UNMAPPED f).a, R.HIF_ERR_UNMAPPED.a, R.HIF_ERR_ADDR_OFFSET.a] else [(R.HIF_F_STAT_UNMAPPED f).a]) s.toMach t ∧
      OnlyIn [.regs, .out] s.toMach t
    let isOff := fun (t : Mach) =>
      t.g R.HIF_ERR_OFF_ACCESS = 1 ∧ (t.g R.HIF_ERR_BLOCK = if s.on R.HIF_ERR_OFF_ACCESS = true then s.g R.HIF_ERR_BLOCK else off / 4096 % 4096) ∧
      .msix 0 6 ∈ t.out ∧ RegsBut [R.HIF_ERR_OFF_ACCESS.a, R.HIF_ERR_BLOCK.a] s.toMach t ∧ OnlyIn [.regs, .out] s.toMach t
    (key = none → Idles (.registerWrite f off val be) s ∧ Idles (.unmappedAccess f off w) s) ∧
    (barPlace 0 off = none → Idles (.offBlockAccess off w) s) ∧
    (be = 0 → Idles (.registerWrite f off val be) s) ∧
    (∀ k ∈ key,
      ((regPlace k).isNone = true →
        (be ≠ 0 → Does (.registerWrite f off val be) s unmapped) ∧ Does (.unmappedAccess f off w) s unmapped ∧
        (w = false → Does (.unmappedAccess f off w) s fun t => .readValue k 0 ∈ t.out)) ∧
      (∀ x ∈ regPlace k,
        let hit := byteMask be
        let o := x.row.off
        let rw : Word := BitVec.ofNat 32 (x.row.rw ||| x.row.rws)
        let w1c : Word := BitVec.ofNat 32 x.row.w1c
        let port : Fin 16 := Fin.ofNat 16 x.unit
        let fixed : Bool := x.base == 0x100000 && [0xC, 0x10, 0x14, 0x1C].contains o
        let setting : Bool := x.base == 0x100000 && [0xC, 0x10, 0x14, 0x1C, 0x20, 0x24, 0x28, 0x2C, 0x30, 0x34].contains o
        let bits := fun (t : Mach) => ∀ i : Fin 32, (t.rd k).getLsbD i.1 =
          if hit.getLsbD i.1 && w1c.getLsbD i.1 && val.getLsbD i.1 then false
          else if hit.getLsbD i.1 && rw.getLsbD i.1 then val.getLsbD i.1 else (s.rd k).getLsbD i.1
        let plain : Bool := [0x20100, 0x20200, 0x40300, 0x80000, 0x82000, 0xD0000, 0x120800, 0x180800, 0x1C4000, 0x208000, 0x400000].contains x.base ||
          (x.base == 0x10000 && o != 0 && o != 0x30) || (x.base == 0x20000 && decide (0x40 ≤ o) && o != 0x300) ||
          (x.base == 0 && o != 0x2C) || (x.base == 0x100000 && !setting && o != 0 && o != 0x304 && o != 0x320)
        let staged : List (Nat × Part × Nat) := [(0x140000, .fe, 8), (0x1D0000, .fus, 0), (0x1D1000, .fus, 0), (0x1D112C, .fus, 0), (0x1D1800, .fus, 0), (0x1D4000, .fus, 0), (0x1F0100, .jnl, 0), (0x240000, .link, 8)]
        Idles (.unmappedAccess f off w) s ∧
        (s.placeOff x = true → be ≠ 0 → Does (.registerWrite f off val be) s isOff) ∧
        (f = 0 → s.placeOff x = true → Does (.offBlockAccess off w) s isOff ∧
          (w = false → Does (.offBlockAccess off w) s fun t => .readValue k 0x0FF0DEAD#32 ∈ t.out)) ∧
        (f = 0 → s.placeOff x = false → Idles (.offBlockAccess off w) s) ∧
        (s.placeOff x = false → be ≠ 0 → plain = true → Does (.registerWrite f off val be) s fun t =>
          bits t ∧ RegsBut [k] s.toMach t ∧ OnlyIn [.regs] s.toMach t) ∧
        (s.placeOff x = false → be ≠ 0 → setting = true → ¬ (fixed = true ∧ s.on (R.ING_CTRL_EN port) = true) → Does (.registerWrite f off val be) s fun t =>
          bits t ∧ ((s.port.get port).running = true →
            (t.port.get port).inForce.find k = some (((s.port.get port).inForce.find k).getD (s.rd k)) ∧ (t.port.get port).wmFc = (s.port.get port).wmFc) ∧
          ((s.port.get port).running = false → (t.port.get port).inForce = (s.port.get port).inForce) ∧
          (∀ q : Fin 16, q ≠ port → t.port.get q = s.port.get q) ∧ RegsBut [k] s.toMach t ∧ OnlyIn [.regs, .port] s.toMach t) ∧
        (s.placeOff x = false → be ≠ 0 → x.base = 0x64000 ∨ x.base = 0xC0000 → x.row.wo ≠ 0 → Does (.registerWrite f off val be) s fun t =>
          t.rd k = (val &&& hit &&& BitVec.ofNat 32 x.row.wo) ∧ RegsBut [k] s.toMach t ∧ OnlyIn [.regs] s.toMach t) ∧
        (s.placeOff x = false → be ≠ 0 → x.base = 0 → o = 0x2C →
          (val.getLsbD 0 = false ∨ be.getLsbD 0 = false → Idles (.registerWrite f off val be) s) ∧
          (val.getLsbD 0 = true → be.getLsbD 0 = true → Does (.registerWrite f off val be) s fun t =>
            (s.romWaits 1 = true → t.rst.fwVerified = true ∨ t.rst.bootErr = 4) ∧ (s.romWaits 1 = false → t.rst = s.rst ∧ OnlyIn [.draws] s.toMach t) ∧
            OnlyIn [.chip, .regs, .rst, .draws] s.toMach t)) ∧
        (∀ z ∈ staged, s.placeOff x = false → be ≠ 0 → x.base = z.1 → z.2.2 ≤ o → x.row.rw ≠ 0 →
          Does (.registerWrite f off val be) s fun t => OnlyIn [z.2.1] s.toMach t) ∧
        (s.placeOff x = false → be ≠ 0 → fixed = true → s.on (R.ING_CTRL_EN port) = true →
          Does (.registerWrite f off val be) s fun t =>
            t.g (R.ING_STAT_CFG_WR port) = 1 ∧ RegsBut [(R.ING_STAT_CFG_WR port).a] s.toMach t ∧ OnlyIn [.regs] s.toMach t)))

/-- R370 to R372, R375, R376, R385. -/
def Obligations.DoorbellsAndRings : Prop :=
  ∀ (s : State) (f : Fin 8) (r : Fin 7) (val : BitVec 32) (size32 : Bool) (cfg : RingCfg) (v : Fin 6),
    let c := s.ring f r
    let busy := (s.fn.get f).flrBusy
    let back : Bool := decide (2 ^ 31 ≤ toBits 32 ((val.toNat : Int) - c.host))
    let far : Bool := decide (s.ringSize f r < (toSigned 32 (toBits 32 ((val.toNat : Int) - c.count))).natAbs)
    let others := fun (t : Mach) => ∀ g : Fin 8, g ≠ f → t.fn.get g = s.fn.get g
    let still := s.Awake ∨ s.sleep.state = 3
    (size32 = false ∨ s.ringEn f r = false ∨ busy = true → (still → Idles (.doorbell f r val size32) s) ∧
      Does (.doorbell f r val size32) s fun t => t.fn = s.fn ∧ Stirred [] s.toMach t) ∧
    (s.ringEn f r = true → busy = false →
      (back = true ∨ far = true → Does (.doorbell f r val true) s fun t =>
        t.g (R.HIF_F_STAT_DB_ERR f) = 1 ∧ t.g R.HIF_DB_ERRORS = (s.g R.HIF_DB_ERRORS + 1) % 2 ^ 32 ∧ .msix f 6 ∈ t.out ∧
        (still → RegsBut [(R.HIF_F_STAT_DB_ERR f).a, R.HIF_DB_ERRORS.a] s.toMach t) ∧ Stirred [.regs, .out] s.toMach t) ∧
      (back = false → far = false → Does (.doorbell f r val true) s fun t =>
        t.ring f r = { c with host := val.toNat } ∧ (∀ q : Fin 7, q ≠ r → t.ring f q = s.ring f q) ∧ (t.fn.get f).cseq = (s.fn.get f).cseq ∧
        others t ∧ Stirred [.fn] s.toMach t)) ∧
    (s.ringEn f r = true ∨ busy = true → Idles (.ringEnable f r cfg) s) ∧
    (s.ringEn f r = false → busy = false →
      (cfg.sz < 6 ∨ 16 < cfg.sz → Does (.ringEnable f r cfg) s fun t =>
        t.g (R.HIF_F_STAT_CFG_ERR f) = 1 ∧ t.ringEn f r = false ∧ .msix f 6 ∈ t.out ∧
        RegsBut [(R.HIF_F_STAT_CFG_ERR f).a, (R.HIF_F_RING_CFG_EN f r).a] s.toMach t ∧ OnlyIn [.regs, .out] s.toMach t) ∧
      (6 ≤ cfg.sz → cfg.sz ≤ 16 → Does (.ringEnable f r cfg) s fun t =>
        t.ringEn f r = true ∧ t.ringSize f r = 2 ^ cfg.sz ∧ (∀ q : Fin 7, q ≠ r → t.ring f q = s.ring f q ∧ t.ringEn f q = s.ringEn f q) ∧
        (r ≠ 1 → cfg.keep = false → t.ring f r = { count := 0, host := 0 }) ∧ (r ≠ 1 → cfg.keep = true → t.ring f r = c) ∧
        (r = 1 → (t.fn.get f).owed = [] ∧ (cfg.keep = false → (t.ring f r).count = (s.fn.get f).owed.length % 2 ^ 32)) ∧
        (r ≠ 1 → RegsBut [(R.HIF_F_RING_CFG_EN f r).a] s.toMach t ∧ (t.fn.get f).owed = (s.fn.get f).owed) ∧
        (∀ k : Fin 5, cfg.keep = false → r.1 = k.1 + 1 → k ≠ 0 →
          t.deliveryOf f k = { base := s.ringBase f r, size := 2 ^ cfg.sz, next := (s.deliveryOf f k).next }) ∧
        t.jnl.recs = s.jnl.recs ∧ others t ∧ OnlyIn [.regs, .jnl, .fn, .out] s.toMach t)) ∧
    (((s.fn.get f).mods.get v).since = none → Idles (.msixModerationTimer f v) s) ∧
    (∀ t0 ∈ ((s.fn.get f).mods.get v).since, Does (.msixModerationTimer f v) s fun t =>
      t0 + 1000 * (s.g (R.HIF_F_MOD_TIMER f v) : Int) ≤ t.elapsed ∧ t.out.head? = some (.msix f v.1) ∧ (t.fn.get f).mods.get v = { n := 0, since := none } ∧
      (∀ u : Fin 6, u ≠ v → (t.fn.get f).mods.get u = (s.fn.get f).mods.get u) ∧ others t ∧ t.jnl.recs = s.jnl.recs ∧
      (∀ q : Fin 7, t.ring f q = s.ring f q) ∧ OnlyIn [.regs, .time, .tick, .enc, .jnl, .fn, .cache, .out] s.toMach t) ∧
    Does (.hifFCseqRead f) s fun t =>
      t.rd (R.HIF_F_CSEQ_HI_A f) = BitVec.ofNat 32 ((s.fn.get f).cseq / 2 ^ 32) ∧
      t.out.head? = some (.readValue (R.HIF_F_CSEQ_LO_A f) (BitVec.ofNat 32 (s.fn.get f).cseq)) ∧
      RegsBut [R.HIF_F_CSEQ_HI_A f] s.toMach t ∧ OnlyIn [.regs, .out] s.toMach t

/-- R390, R443, R62. -/
def Obligations.MailboxServesInOrder : Prop :=
  ∀ (s : State) (sigOk : Bool) (anti serial nonce : Nat) (entries : List Int),
    let q := s.mbRequest
    let known := fun (k : Nat) => 1 ≤ k ∧ k ≤ 8
    let served := fun (x : MgtReq) (status : Nat) (values : List Int) (t : Mach) =>
      (∃ n, n ≤ x.rlen ∧ (values = [] → n = 0) ∧ .mgtResp x.resp x.code x.tag status values (respHeader x.code x.tag status n) ∈ t.out) ∧ .msix 0 7 ∈ t.out ∧ t.mgt <:+ s.mgt.tail ∧
      ((∀ y ∈ s.mgt.tail.head?, known y.code) → t.mgt = s.mgt.tail ∧ t.g R.MGT_MB_DONE = (s.g R.MGT_MB_DONE + 1) % 2 ^ 32) ∧ t.mgtSci = none
    let sums := (s.fus.waiting.getD (Vector.replicate 16 {})).toList
    let regs := fun (l : List Nat) (t : Mach) => RegsBut ([R.MGT_MB_DONE.a] ++ l) s.toMach t ∧ OnlyIn [.regs, .mgt, .mgtSci, .draws, .out] s.toMach t
    let regsRst := fun (l : List Nat) (t : Mach) => RegsBut ([R.MGT_MB_DONE.a] ++ l) s.toMach t ∧ OnlyIn [.regs, .mgt, .mgtSci, .rst, .draws, .out] s.toMach t
    (64 ≤ s.mgt.length → Does .mailboxGo s fun t =>
      t.g R.MGT_MB_RES_RESULT = 0x12 ∧ t.g R.MGT_MB_BUSY = (s.g R.MGT_MB_BUSY + 1) % 2 ^ 32 ∧ RegsBut [R.MGT_MB_RES_RESULT.a, R.MGT_MB_BUSY.a] s.toMach t ∧
      OnlyIn [.regs] s.toMach t) ∧
    (s.mgt.length < 64 →
      ((∀ y ∈ (s.mgt ++ [q]).head?, known y.code) → Does .mailboxGo s fun t =>
        t.mgt = s.mgt ++ [q] ∧ t.g R.MGT_MB_RES_RESULT = 0 ∧ RegsBut [R.MGT_MB_RES_RESULT.a] s.toMach t ∧ OnlyIn [.regs, .mgt] s.toMach t) ∧
      (s.mgt = [] → ¬ known q.code → Does .mailboxGo s fun t =>
        t.mgt = [] ∧ t.g R.MGT_MB_RES_RESULT = 0 ∧ .mgtResp q.resp q.code q.tag 0x10 [] (respHeader q.code q.tag 0x10 0) ∈ t.out ∧ .msix 0 7 ∈ t.out ∧ OnlyIn [.regs, .mgt, .mgtSci, .out] s.toMach t)) ∧
    (∀ x ∈ ([(1, .version), (2, .fptCopy), (3, .telemetry), (4, .fwStage sigOk anti), (5, .logRead entries), (6, .calStatus), (7, .mailboxSci),
      (8, .debugUnlock sigOk serial nonce)] : List (Nat × Instr)), s.mbHead x.1 = none → Idles x.2 s) ∧
    (∀ x ∈ s.mbHead 1, Does .version s fun t =>
      served x 0 [(s.chip.fwVer : Int), Config.freeNat s.draws, s.chip.katVer] t ∧ RegsBut [R.MGT_MB_DONE.a] s.toMach t ∧
      OnlyIn [.regs, .mgt, .mgtSci, .draws, .out] s.toMach t) ∧
    (∀ x ∈ s.mbHead 2, Does .fptCopy s fun t => served x 0 ((s.fptBytes.take x.rlen).map fun b => (b.toNat : Int)) t ∧ regs [] t) ∧
    (∀ x ∈ s.mbHead 3, Does .telemetry s fun t => served x 0 ((List.range 6).map fun g => (s.g (R.PWR_R_P g) : Int)) t ∧ regs [] t) ∧
    (∀ x ∈ s.mbHead 4,
      (sigOk = true ∧ s.chip.rollback ≤ anti → Does (.fwStage sigOk anti) s fun t =>
        served x 0 [] t ∧ t.rst = { s.rst with fwStaged := true } ∧ regsRst [] t) ∧
      (sigOk = false ∨ anti < s.chip.rollback → Does (.fwStage sigOk anti) s fun t =>
        served x 0x13 [] t ∧ t.g R.SEC_FW_VERIFY_FAIL = (s.g R.SEC_FW_VERIFY_FAIL + 1) % 2 ^ 32 ∧ regs [R.SEC_FW_VERIFY_FAIL.a] t)) ∧
    (∀ x ∈ s.mbHead 5, Does (.logRead entries) s fun t => served x 0 entries t ∧ regs [] t) ∧
    (∀ x ∈ s.mbHead 6, Does .calStatus s fun t =>
      served x 0 ((sums.flatMap fun (c : CalSum) => [(c.n : Int), c.sCd, c.sMd, c.sCd2, c.sMd2]) ++ [(s.g R.FUS_STAT_CAL_DEFER : Int)]) t ∧ regs [] t) ∧
    (∀ x ∈ s.mbHead 7,
      let b := x.args.flatMap fun (w : BitVec 32) => bytesOf 4 w.toNat
      let p : Fin 16 := Fin.ofNat 16 (byteAt b 0)
      let wlen := byteAt b 3 % 64
      let rlen := byteAt b 4 % 64
      let free := s.on (R.ING_SCI_CFG_OWNER p) && (s.port.get p).sci.isNone
      (free = false → Does .mailboxSci s fun t => served x 0x13 [] t ∧ regs [] t) ∧
      let mode := s.sciMode p
      (free = true → wlen ≤ 32 → rlen ≤ 32 → mode = 0 ∨ 4 < mode → Does .mailboxSci s fun t =>
        (∃ r : Nat, 1 ≤ r ∧ r ≤ 4 ∧ served x 0 [(r : Int)] t) ∧ (t.port.get p).sci = none ∧ (∀ k : Fin 16, k ≠ p → t.port.get k = s.port.get k) ∧
        OnlyIn [.regs, .port, .mgt, .mgtSci, .draws, .out] s.toMach t) ∧
      (free = true → wlen ≤ 32 → rlen ≤ 32 → 1 ≤ mode → mode ≤ 4 → Does .mailboxSci s fun t =>
        t.mgt = s.mgt ∧ t.mgtSci = some p ∧ (t.port.get p).sci = some { who := .mgt, startEl := s.elapsed, rlen := rlen } ∧
        t.out.head? = some (.sci p.1 mode (byteAt b 2 % 128) (t.sciBuf p |>.take wlen) rlen) ∧
        (∀ k : Fin 16, k ≠ p → t.port.get k = s.port.get k) ∧ OnlyIn [.regs, .port, .mgtSci, .out] s.toMach t) ∧
      (free = true → 32 < wlen ∨ 32 < rlen → Does .mailboxSci s fun t => served x 0 [3] t ∧ (t.port.get p).sci = none ∧
        (∀ k : Fin 16, k ≠ p → t.port.get k = s.port.get k) ∧ OnlyIn [.regs, .port, .mgt, .mgtSci, .draws, .out] s.toMach t)) ∧
    (∀ x ∈ s.mbHead 8,
      let ok := sigOk && serial == s.chip.serial && nonce == s.nonceNow
      (ok = true → Does (.debugUnlock sigOk serial nonce) s fun t =>
        served x 0 [] t ∧ t.rst = { s.rst with unlocked := true } ∧ t.g R.SEC_UNLOCK_OK = (s.g R.SEC_UNLOCK_OK + 1) % 2 ^ 32 ∧ regsRst [R.SEC_UNLOCK_OK.a] t) ∧
      (ok = false → Does (.debugUnlock sigOk serial nonce) s fun t =>
        served x 0x13 [] t ∧ t.rst = { s.rst with nonce := s.rst.nonce + 1 } ∧ t.g R.SEC_UNLOCK_FAIL = (s.g R.SEC_UNLOCK_FAIL + 1) % 2 ^ 32 ∧
        regsRst [R.SEC_UNLOCK_FAIL.a] t)) ∧
    Does .secRelock s (fun t => t.rst = { s.rst with unlocked := false } ∧ OnlyIn [.rst] s.toMach t) ∧
    Does .secNonceRead s fun t =>
      t.rd R.SEC_NONCE_HI_A = BitVec.ofNat 32 (s.nonceNow / 2 ^ 32) ∧ t.out.head? = some (.readValue R.SEC_NONCE_LO_A (BitVec.ofNat 32 s.nonceNow)) ∧
      RegsBut [R.SEC_NONCE_HI_A] s.toMach t ∧ OnlyIn [.regs, .out] s.toMach t

/-! ## Line links (14_line_links.md) -/

/-- R393, R394. -/
def Obligations.LinkTraining : Prop :=
  ∀ (s : State) (l : Fin 4) (en : Bool) (f : TrainFrame),
    let x := s.link.get l
    let was := s.on (R.LNK_CTRL_EN l)
    let trains := s.training l
    let others := fun (t : Mach) => ∀ k : Fin 4, k ≠ l → t.link.get k = s.link.get k
    let starts := fun (t : Mach) => (t.link.get l).state = 1 ∧ (t.link.get l).locked = false ∧ (t.link.get l).trained = 0 ∧ (t.link.get l).peerTrain = none ∧
      (t.link.get l).trainFrom = s.elapsed ∧ (t.link.get l).txSeq = x.txSeq ∧ (t.link.get l).rxSeq = x.rxSeq ∧ (t.link.get l).replay = x.replay ∧
      (t.link.get l).sendq = x.sendq ∧ others t
    let n := if x.peerTrain = some f then x.trained + 1 else 1
    let mine := min 2 (s.g (R.LNK_CTRL_LEVEL_MAX l))
    let rx := fun (t : Mach) => t.g (R.LNK_FRAMES_RX l) = (s.g (R.LNK_FRAMES_RX l) + 1) % 2 ^ 32 ∧ others t ∧ t.time = s.time
    let off := s.linksOff
    (off = true → Idles (.linkEnable l en) s) ∧
    (off = false → was = en → Does (.linkEnable l en) s fun t => t.link = s.link ∧ t.fus = s.fus ∧ RegsBut [] s.toMach t ∧ OnlyIn [.regs] s.toMach t) ∧
    (off = false → was = false → en = true → Does (.linkEnable l en) s fun t =>
      starts t ∧ t.g (R.LNK_CTRL_EN l) = 1 ∧ RegsBut [(R.LNK_CTRL_EN l).a, (R.LNK_STAT_CHG l).a] s.toMach t ∧ OnlyIn [.regs, .fus, .link] s.toMach t) ∧
    (off = false → was = true → en = false → Does (.linkEnable l en) s fun t =>
      (t.link.get l) = { x with state := 0 } ∧ t.g (R.LNK_CTRL_EN l) = 0 ∧ (x.state ≠ 0 → t.g (R.LNK_STAT_CHG l) = 1) ∧ others t ∧
      RegsBut [(R.LNK_CTRL_EN l).a, (R.LNK_STAT_CHG l).a] s.toMach t ∧ OnlyIn [.regs, .fus, .link] s.toMach t) ∧
    (was = false ∨ off = true → Idles (.linkRetrain l) s ∧ Idles (.linkLockLoss l) s) ∧
    (was = true → off = false → ∀ c ∈ [Instr.linkRetrain l, .linkLockLoss l], Does c s fun t =>
      starts t ∧ t.g (R.LNK_RETRAINS l) = (s.g (R.LNK_RETRAINS l) + 1) % 2 ^ 32 ∧ (x.state ≠ 1 → t.g (R.LNK_STAT_CHG l) = 1) ∧
      RegsBut [(R.LNK_RETRAINS l).a, (R.LNK_STAT_CHG l).a] s.toMach t ∧ OnlyIn [.regs, .fus, .link] s.toMach t) ∧
    (trains = false → Idles (.trainFrameSend l) s ∧ Idles (.train l f) s ∧ Idles (.linkTrainTimeout l) s) ∧
    (trains = true →
      Does (.trainFrameSend l) s (fun t =>
        (∀ t0 ∈ x.trainSent, t0 + 10000 ≤ t.elapsed) ∧ (x.trainSent = none → t.time = s.time) ∧ (t.link.get l).trainSent = some t.elapsed ∧
        (t.link.get l).state = 1 ∧ (t.link.get l).locked = true ∧ t.g (R.LNK_FRAMES_TX l) = (s.g (R.LNK_FRAMES_TX l) + 1) % 2 ^ 32 ∧
        t.out.head? = some (.link l (.train { levelMax := mine, levelMin := 1, credits := [4, 32, 64, 8], pkg := s.g R.FUS_CTRL_PKG_ID, resume := x.resume, expect := x.rxSeq }) []) ∧
        others t ∧ OnlyIn [.regs, .time, .tick, .enc, .jnl, .link, .cache, .out] s.toMach t) ∧
      (n < 3 → Does (.train l f) s fun t =>
        rx t ∧ (t.link.get l) = { x with locked := true, trained := n, peerTrain := some f, state := 1 } ∧ t.jnl = s.jnl ∧ OnlyIn [.regs, .link] s.toMach t) ∧
      (3 ≤ n → f.levelMax = 0 → Does (.train l f) s fun t =>
        rx t ∧ (t.link.get l).state = 1 ∧ t.g (R.LNK_STAT_LEVEL_ERR l) = 1 ∧ OnlyIn [.regs, .tick, .jnl, .link, .cache] s.toMach t) ∧
      (3 ≤ n → f.levelMax ≠ 0 → Does (.train l f) s fun t =>
        rx t ∧ (t.link.get l).state = 2 ∧ (t.link.get l).level = min mine f.levelMax ∧ (t.link.get l).resume = true ∧ t.g (R.LNK_STAT_CHG l) = 1 ∧
        (t.link.get l).theta = none ∧ (t.link.get l).replays ≤ 1 ∧
        (x.resume = true ∧ f.resume = true → (t.link.get l).txSeq = x.txSeq ∧ (t.link.get l).rxSeq = x.rxSeq ∧ (t.link.get l).sendq = x.sendq ∧
          (t.link.get l).credits = x.credits ∧ (∀ k ∈ (t.link.get l).replay, k.1.seq ∈ x.replay.map fun (e : LinkFrame × Int) => e.1.seq)) ∧
        (x.resume = false ∨ f.resume = false → (t.link.get l).txSeq = 0 ∧ (t.link.get l).rxSeq = 0 ∧ (t.link.get l).replay = [] ∧
          (∀ v : Fin 4, (t.link.get l).credits.get v = (f.credits[v.1]?).getD 0) ∧ t.out = s.out) ∧
        OnlyIn [.regs, .tick, .jnl, .link, .cache, .out] s.toMach t) ∧
      Does (.linkTrainTimeout l) s fun t =>
        x.trainFrom + atLeast1 (s.g (R.LNK_REPLAY_LINK_TMO l)) * 1000000 ≤ t.elapsed ∧ (t.link.get l).state = 0 ∧ (t.link.get l).replay = [] ∧
        (t.link.get l).resume = false ∧ (t.link.get l).locked = false ∧ others t ∧ OnlyIn [.regs, .time, .tick, .enc, .jnl, .link, .cache] s.toMach t)

/-- R395 to R399. -/
def Obligations.LinkDataIsDeliveredInSequence : Prop :=
  ∀ (s : State) (l : Fin 4) (f : LinkFrame) (crcOk : Bool) (ack seq : Nat) (cred : List Nat),
    let x := s.link.get l
    let others := fun (t : Mach) => ∀ k : Fin 4, k ≠ l → t.link.get k = s.link.get k
    let waits := (List.finRange 4).filter fun (v : Fin 4) => !(x.sendq.get v).isEmpty
    let lane := waits.find? fun (v : Fin 4) => x.credits.get v != 0
    let credOf := x.owed.toList.map fun n => min n 15
    let ackNow := (x.rxSeq + 65535) % 65536
    let size := fun (g : LinkFrame) => 20 + g.payload.length
    let cut := fun (a : Nat) (r : List (LinkFrame × Int)) => match r.findIdx? (fun k => k.1.seq == a % 65536) with | some i => r.drop (i + 1) | none => r
    let rx := fun (t : Mach) => t.g (R.LNK_FRAMES_RX l) = (s.g (R.LNK_FRAMES_RX l) + 1) % 2 ^ 32
    let credited := fun (t : Mach) => ∀ v : Fin 4, (t.link.get l).credits.get v = x.credits.get v + ((cred[v.1]?).getD 0) % 16
    let sent := fun (tx : LinkTx) (t : Mach) => t.out.head? = some (.link l tx tx.wire)
    let wakes : Bool := crcOk && (f.vl == 1 || f.vl == 2)
    let frame := fun (parts : List Part) (t : Mach) => (wakes = false → OnlyIn parts s.toMach t) ∧ (wakes = true → Stirred parts s.toMach t)
    let discard := fun (c : Fld) (t : Mach) =>
      rx t ∧ t.g c = (s.g c + 1) % 2 ^ 32 ∧ (t.link.get l).rxSeq = x.rxSeq ∧ (t.link.get l).naked = true ∧ (t.link.get l).rxMsgs = x.rxMsgs ∧
      (t.link.get l).replay = x.replay ∧ (t.link.get l).credits = x.credits ∧ (x.naked = true → t.out = s.out ∧ t.link.get l = x) ∧
      (x.naked = false → sent (.nak x.rxSeq ackNow credOf) t ∧ t.g (R.LNK_NAK_TX l) = (s.g (R.LNK_NAK_TX l) + 1) % 2 ^ 32) ∧
      others t ∧ frame [.regs, .link, .out] t
    let lit := s.sleep.state ≠ 2 ∨ s.on R.PWR_SLEEP_LNK_ON = true
    let replayed := fun (kept : List (LinkFrame × Int)) (done : Nat) (t : Mach) =>
      (atLeast1 (s.g (R.LNK_REPLAY_REPLAY_MAX l)) ≤ done → (s.on (R.LNK_CTRL_EN l) = true → (t.link.get l).state = 1) ∧ t.out = s.out) ∧
      (done < atLeast1 (s.g (R.LNK_REPLAY_REPLAY_MAX l)) →
        (t.link.get l).state = 2 ∧ (t.link.get l).replays = done + 1 ∧ (t.link.get l).replay.map (·.1.seq) = kept.map (·.1.seq) ∧
        t.g (R.LNK_REPLAYS l) = (s.g (R.LNK_REPLAYS l) + 1) % 2 ^ 32 ∧ t.out.length = s.out.length + kept.length) ∧ others t
    (x.state ≠ 2 ∨ waits.isEmpty = true → Idles (.dataFrameSend l) s) ∧
    (x.state = 2 → waits.isEmpty = false →
      (lane = none → Does (.dataFrameSend l) s fun t =>
        t.g (R.LNK_CREDIT_STALL l) = (s.g (R.LNK_CREDIT_STALL l) + waits.length) % 2 ^ 32 ∧ RegsBut [(R.LNK_CREDIT_STALL l).a] s.toMach t ∧ OnlyIn [.regs] s.toMach t) ∧
      (∀ v ∈ lane, ∀ g ∈ (x.sendq.get v).head?,
        (65536 < (x.replay.map fun (k : LinkFrame × Int) => size k.1).sum + size g → Does (.dataFrameSend l) s fun t => t.link = s.link ∧ OnlyIn [.regs] s.toMach t) ∧
        ((x.replay.map fun (k : LinkFrame × Int) => size k.1).sum + size g ≤ 65536 → Does (.dataFrameSend l) s fun t =>
          (∃ e ∈ (t.link.get l).replay.getLast?, e.1.seq = x.txSeq ∧ e.1.vl = g.vl ∧ e.1.som = g.som ∧ e.1.eom = g.eom ∧ (g.vl ≠ 0 → e.1.payload = g.payload) ∧
            sent (.data e.1 ackNow credOf) t) ∧
          (t.link.get l).replay.length = x.replay.length + 1 ∧ (t.link.get l).sendq.get v = (x.sendq.get v).tail ∧
          (t.link.get l).credits.get v = x.credits.get v - 1 ∧ (t.link.get l).txSeq = (x.txSeq + 1) % 65536 ∧
          (∀ u : Fin 4, u ≠ v → (t.link.get l).sendq.get u = x.sendq.get u ∧ (t.link.get l).credits.get u = x.credits.get u) ∧
          (t.link.get l).owesAck = false ∧ t.g (R.LNK_FRAMES_TX l) = (s.g (R.LNK_FRAMES_TX l) + 1) % 2 ^ 32 ∧ others t ∧ OnlyIn [.regs, .link, .out] s.toMach t))) ∧
    (x.state ≠ 2 → Idles (.data l f crcOk ack cred) s ∧ Idles (.nak l seq ack cred) s ∧ Idles (.credit l ack cred) s) ∧
    (x.state = 2 →
      (crcOk = false → Does (.data l f crcOk ack cred) s (discard (R.LNK_CRC_BAD l))) ∧
      (¬ lit → wakes = true → Does (.data l f crcOk ack cred) s fun t => t.sleep.state = 0 ∧ t.sleep.waking = true) ∧
      (wakes = false ∨ lit → crcOk = true → f.seq ≠ x.rxSeq → Does (.data l f crcOk ack cred) s (discard (R.LNK_SEQ_BAD l))) ∧
      (wakes = false ∨ lit → crcOk = true → f.seq = x.rxSeq → Does (.data l f crcOk ack cred) s fun t =>
        let b := if f.som then f.payload else (x.rxPart.get f.vl).1 ++ f.payload
        let mtype := byteAt b 0
        let tn := leN b 8 6
        let orphan : Bool := !f.som && (x.rxPart.get f.vl).2 == 0
        let good : Bool := decide (1 ≤ mtype) && decide (mtype ≤ 5) && laneOf mtype == f.vl && (leN b 2 2 + 3) / 4 * 4 == b.length &&
          decide (Mach.leastSize mtype (byteAt b 1 / 16) (byteAt b 4) ≤ leN b 2 2) && decide (byteAt b 1 / 16 ≤ (if mtype = 3 ∨ mtype = 4 then x.level else 1))
        rx t ∧ (t.link.get l).rxSeq = (x.rxSeq + 1) % 65536 ∧ (t.link.get l).naked = false ∧ (t.link.get l).owesAck = true ∧
        (t.link.get l).replay = cut ack x.replay ∧ credited t ∧ t.out = s.out ∧
        (orphan = true → (t.link.get l).rxMsgs = x.rxMsgs ∧ (t.link.get l).held = x.held ∧ (t.link.get l).rxPart = x.rxPart ∧
          t.g (R.LNK_MSG_BAD l) = (s.g (R.LNK_MSG_BAD l) + 1) % 2 ^ 32) ∧
        (orphan = false → f.eom = false → (t.link.get l).rxPart.get f.vl = (b, if f.som then 1 else (x.rxPart.get f.vl).2 + 1) ∧ (t.link.get l).rxMsgs = x.rxMsgs) ∧
        (orphan = false → f.eom = true → (t.link.get l).rxPart.get f.vl = ([], 0) ∧
          (good = false → (t.link.get l).rxMsgs = x.rxMsgs ∧ (t.link.get l).held = x.held) ∧
          (good = true → tn ≤ s.tick.tn ∨ 3 < mtype → (t.link.get l).rxMsgs.map (·.bytes) = x.rxMsgs.map (·.bytes) ++ [b] ∧ (t.link.get l).held = x.held) ∧
          (good = true → s.tick.tn < tn → mtype ≤ 3 → (t.link.get l).held.map (·.bytes) = x.held.map (·.bytes) ++ [b] ∧ (t.link.get l).rxMsgs = x.rxMsgs)) ∧
        others t ∧ frame [.regs, .sleep, .link] t) ∧
      (let kept := cut (seq + 65535) (cut ack x.replay)
       let done := if (cut ack x.replay).length < x.replay.length ∨ kept.length < x.replay.length then 0 else x.replays
       (kept = [] → Does (.nak l seq ack cred) s fun t => rx t ∧ (t.link.get l).replay = [] ∧ credited t ∧ t.out = s.out ∧ others t ∧ OnlyIn [.regs, .link] s.toMach t) ∧
       (kept ≠ [] → Does (.nak l seq ack cred) s fun t => rx t ∧ credited t ∧ replayed kept done t ∧ OnlyIn [.regs, .fus, .link, .out] s.toMach t)) ∧
      Does (.credit l ack cred) s (fun t =>
        rx t ∧ (t.link.get l).replay = cut ack x.replay ∧ credited t ∧ (t.link.get l).rxSeq = x.rxSeq ∧ others t ∧
        RegsBut [(R.LNK_FRAMES_RX l).a] s.toMach t ∧ OnlyIn [.regs, .link] s.toMach t)) ∧
    (let owes := x.owesAck || x.owed.toList.any (· != 0)
     (x.state ≠ 2 ∨ owes = false ∨ Mach.mayPutFrame x = true → Idles (.creditFrameSend l) s) ∧
     (x.state = 2 → owes = true → Mach.mayPutFrame x = false → Does (.creditFrameSend l) s fun t =>
       x.quietFrom + 1000 ≤ t.elapsed ∧ sent (.credit ackNow credOf) t ∧ (t.link.get l).owesAck = false ∧
       (∀ v : Fin 4, (t.link.get l).owed.get v = x.owed.get v - min (x.owed.get v) 15) ∧ (t.link.get l).replay = x.replay ∧ (t.link.get l).rxSeq = x.rxSeq ∧
       others t ∧ OnlyIn [.regs, .time, .tick, .enc, .jnl, .link, .cache, .out] s.toMach t)) ∧
    (x.state ≠ 2 ∨ x.replay = [] → Idles (.replayTimeout l) s) ∧
    (x.state = 2 → ∀ e ∈ x.replay.head?, Does (.replayTimeout l) s fun t =>
      e.2 + atLeast1 (s.g (R.LNK_REPLAY_REPLAY_TMO l)) * 1000 ≤ t.elapsed ∧ replayed x.replay x.replays t ∧
      OnlyIn [.regs, .time, .tick, .enc, .fus, .jnl, .link, .cache, .out] s.toMach t)

/-- R400 to R408, R411. Pairing after LINK_WAIT from the tick's end is the reading of log entry 43. -/
def Obligations.LinkMessagesAreTaken : Prop :=
  ∀ (s : State) (l : Fin 4),
    let x := s.link.get l
    let others := fun (t : Mach) => ∀ k : Fin 4, k ≠ l → t.link.get k = s.link.get k
    let oldest := fun (mtype : Nat) => x.rxMsgs.find? fun (y : LinkMsg) => y.mtype == mtype
    let taken := fun (y : LinkMsg) (t : Mach) =>
      (t.link.get l).rxMsgs.length + 1 = x.rxMsgs.length ∧ (t.link.get l).rxMsgs = x.rxMsgs.eraseP (fun (z : LinkMsg) => z.mtype == y.mtype) ∧
      (∀ v : Fin 4, (t.link.get l).owed.get v = x.owed.get v + if v = y.vl then y.frames else 0) ∧ others t
    let now : Nat × Nat × Nat × Int := (s.g R.FUS_CTRL_PKG_ID, min 2 (s.g (R.LNK_CTRL_LEVEL_MAX l)), s.tick.period, s.tick.origin)
    Does (.ttSend l) s (fun t =>
      (∃ a ∈ (t.link.get l).ttAt, a % 1000000 = 0 ∧ s.time.n ≤ a ∧ a ≤ t.time.n ∧ a ≤ s.time.n + 2000000) ∧ (t.link.get l).staged = [] ∧
      (x.state ≠ 2 → (t.link.get l).sendq = x.sendq) ∧
      (x.state = 2 → ∃ g ∈ ((t.link.get l).sendq.get 0).getLast?, ((t.link.get l).sendq.get 0) = x.sendq.get 0 ++ [g] ∧ g.vl = 0 ∧ g.som = true ∧ g.eom = true ∧
        byteAt g.payload 0 = 4 ∧ byteAt g.payload 1 = 16 * x.level ∧ (g.payload.length = if 2 ≤ x.level then 44 else 40) ∧
        ∀ v : Fin 4, v ≠ 0 → (t.link.get l).sendq.get v = x.sendq.get v) ∧
      others t ∧ OnlyIn [.regs, .time, .tick, .enc, .jnl, .link, .cache] s.toMach t) ∧
    (oldest 4 = none → Idles (.tt l) s) ∧
    (∀ y ∈ oldest 4,
      let t4 := y.arrived + s.gi (R.LNK_TS_COMP_RX_COMP l)
      let t3 := leI y.bytes 0x10 8
      let t1 := leI y.bytes 0x18 8
      let t2 := leI y.bytes 0x20 8
      let loop : Bool := decide (2 ≤ y.fmt) && bitN (byteAt y.bytes 0x28) 2 && s.srcLink l
      let bad := t1 = 0 ∨ t2 = 0 ∨ 2000000 < t4 - t1 ∨ s.stepBetween l t1 t4 = true
      Does (.tt l) s fun t =>
        taken y t ∧ (t.link.get l).echo = some (t3, t4) ∧ t.g (R.LNK_TT_RX l) = (s.g (R.LNK_TT_RX l) + 1) % 2 ^ 32 ∧
        (bad → (t.link.get l).theta = x.theta ∧ (t.link.get l).ofs = x.ofs ∧ t.g (R.LNK_TT_BAD l) = (s.g (R.LNK_TT_BAD l) + 1) % 2 ^ 32 ∧ OnlyIn [.regs, .link] s.toMach t) ∧
        (¬ bad → (t.link.get l).theta = some (rnd ((t4 - t3) - (t2 - t1) - s.gi (R.LNK_ASYM l)) 2, rnd ((t4 - t3) + (t2 - t1)) 2) ∧
          (t.link.get l).theta = some (t.link.get l).ofs ∧ (t.link.get l).loop = loop ∧
          t.g (R.LNK_TT_BAD l) = s.g (R.LNK_TT_BAD l) ∧ (s.srcLink l = false ∨ loop = true → t.time = s.time) ∧
          OnlyIn [.regs, .time, .tick, .fus, .jnl, .link, .cache, .draws] s.toMach t)) ∧
    (x.state ≠ 2 → Idles (.advertSend l) s) ∧
    (x.state = 2 → Does (.advertSend l) s fun t =>
      (x.advertised = some now → x.advAt + 100000000 ≤ t.elapsed) ∧ (x.advertised ≠ some now → t.time = s.time) ∧
      (t.link.get l).advertised = some now ∧ (t.link.get l).advAt = t.elapsed ∧
      (∃ g ∈ ((t.link.get l).sendq.get 3).getLast?, (t.link.get l).sendq.get 3 = x.sendq.get 3 ++ [g] ∧ byteAt g.payload 0 = 5 ∧ byteAt g.payload 1 = 16 ∧
        byteAt g.payload 0x10 = now.1 % 256 ∧ byteAt g.payload 0x11 = now.2.1 ∧ leN g.payload 0x12 2 = now.2.2.1 % 65536 ∧
        g.payload.length = 36) ∧
      others t ∧ OnlyIn [.regs, .time, .tick, .enc, .jnl, .link, .cache] s.toMach t) ∧
    (oldest 5 = none → Idles (.advert l) s) ∧
    (∀ y ∈ oldest 5,
      let agree : Bool := decide (s.tickValuesAt y.tn = (leN y.bytes 0x12 2, leI y.bytes 0x18 8))
      Does (.advert l) s fun t =>
        taken y t ∧ (t.link.get l).peerPkg = byteAt y.bytes 0x10 ∧ (t.link.get l).peerLevel = byteAt y.bytes 0x11 % 16 ∧
        (t.link.get l).peerFw = leN y.bytes 0x20 4 ∧ (t.link.get l).tickCfg = !agree ∧ (t.link.get l).dup = (byteAt y.bytes 0x10 == s.g R.FUS_CTRL_PKG_ID) ∧
        (agree = true → t.jnl = s.jnl) ∧ t.time = s.time ∧ OnlyIn [.regs, .tick, .fus, .jnl, .link, .cache] s.toMach t) ∧
    (oldest 1 = none → Idles (.hoOffer l) s) ∧
    (∀ y ∈ oldest 1,
      let cid := (Comet.of (y.bytes.drop 0x20)).cid
      let answered : Bool := s.hoRefuse l || (s.mapFunc l y.func).isNone || x.replied.any (·.1 == cid)
      let status := if s.hoRefuse l then 4 else if (s.mapFunc l y.func).isNone then 3 else ((x.replied.find? (·.1 == cid)).map (·.2.1)).getD 0
      (answered = false → Idles (.hoOffer l) s) ∧
      (answered = true → Does (.hoOffer l) s fun t =>
        taken y t ∧ t.g (R.LNK_HO_OFFER_RX l) = (s.g (R.LNK_HO_OFFER_RX l) + 1) % 2 ^ 32 ∧ t.fus = s.fus ∧
        (x.state = 2 → ∃ g ∈ ((t.link.get l).sendq.get 1).getLast?, (t.link.get l).sendq.get 1 = x.sendq.get 1 ++ [g] ∧ byteAt g.payload 0 = 2 ∧
          leN g.payload 0x10 4 = cid % 2 ^ 32 ∧ byteAt g.payload 0x14 = status % 256) ∧
        OnlyIn [.regs, .tick, .jnl, .link, .cache] s.toMach t)) ∧
    (oldest 2 = none → Idles (.hoReply l) s) ∧
    (∀ y ∈ oldest 2,
      let cid := leN y.bytes 0x10 4
      let early : Bool := match s.nextFuse with | some a => decide (a.tn < y.doneTn) | none => false
      (early = true → Idles (.hoReply l) s) ∧
      (early = false → Does (.hoReply l) s fun t =>
        taken y t ∧ t.fus.store.map (fun e => (e.1, e.2.fn, e.2.c)) = s.fus.store.map (fun e => (e.1, e.2.fn, e.2.c)) ∧
        (∀ e ∈ t.fus.store, e.2.c.cid = cid → ∀ o ∈ e.2.offer, o.1 = l.1 → o.2.2 = false) ∧
        (∀ e ∈ s.fus.store, e.2.c.cid ≠ cid → e ∈ t.fus.store) ∧ t.time = s.time ∧ OnlyIn [.regs, .tick, .fus, .jnl, .link, .cache] s.toMach t)) ∧
    (oldest 3 = none → Idles (.curds l) s) ∧
    (∀ y ∈ oldest 3,
      let late : Bool := decide (y.tn + 2 ≤ y.doneTn) ||
        (decide (y.tn < y.doneTn) && decide (s.endOfTick y.tn + s.g (R.LNK_SKEW_LINK_WAIT l) * 1000 < y.arrived)) || !s.working
      (late = true → Does (.curds l) s fun t =>
        taken y t ∧ t.g (R.LNK_CURD_LATE l) = (s.g (R.LNK_CURD_LATE l) + 1) % 2 ^ 32 ∧ RegsBut [(R.LNK_CURD_LATE l).a] s.toMach t ∧ OnlyIn [.regs, .link] s.toMach t) ∧
      (late = false → Does (.curds l) s fun t =>
        taken y t ∧ t.g (R.LNK_CURD_RX l) = (s.g (R.LNK_CURD_RX l) + 1) % 2 ^ 32 ∧ t.fus.store = s.fus.store ∧ t.fus.mine = s.fus.mine ∧
        t.fus.remote.length = s.fus.remote.length + min y.count ((y.bytes.length - 16) / 32) ∧ t.fus.remote.take s.fus.remote.length = s.fus.remote ∧
        (∀ c ∈ t.fus.remote.drop s.fus.remote.length, c.link = l.1 ∧ c.tn = y.tn) ∧ RegsBut [(R.LNK_CURD_RX l).a] s.toMach t ∧
        OnlyIn [.regs, .fus, .link] s.toMach t)) ∧
    (let due := s.fus.mine.filter fun c => decide (x.pairedTo ≤ c.tn)
     (due = [] → Idles (.linkPairing l) s) ∧
     (due ≠ [] → Does (.linkPairing l) s fun t =>
       (∃ c ∈ due, (∀ d ∈ due, c.tn ≤ d.tn) ∧ s.endOfTick c.tn + s.g (R.LNK_SKEW_LINK_WAIT l) * 1000 ≤ t.time.n ∧ (t.link.get l) = { x with pairedTo := c.tn + 1 } ∧
         t.fus.remote = s.fus.remote.filter (fun d => !(d.link == l.1 && decide (d.tn ≤ c.tn)))) ∧
       t.fus.store = s.fus.store ∧ t.fus.mine = s.fus.mine ∧
       (∀ i : Fin 16, (s.on (R.FUS_OVL_CFG_VALID i) && s.on (R.FUS_OVL_CFG_LINK i) && s.g (R.FUS_OVL_CFG_LNK i) == l.1) = false → t.fus.sums.get i = s.fus.sums.get i) ∧
       others t ∧ OnlyIn [.regs, .time, .tick, .enc, .fus, .jnl, .link, .cache] s.toMach t)) ∧
    Does (.lnkOfsRead l) s fun t =>
      let o := x.ofs
      t.rd (R.LNK_OFS_HI_A l) = BitVec.ofNat 32 (toBits 64 o.1 / 2 ^ 32) ∧ t.rd (R.LNK_DELAY_A l) = BitVec.ofNat 32 (toBits 32 o.2) ∧
      t.out.head? = some (.readValue (R.LNK_OFS_LO_A l) (BitVec.ofNat 32 (toBits 64 o.1))) ∧
      RegsBut [R.LNK_OFS_HI_A l, R.LNK_DELAY_A l] s.toMach t ∧ OnlyIn [.regs, .out] s.toMach t

/-! ## Resets, bring-up, sideband and pads (15_reset_bringup.md) -/

/-- R24, R40, R281, R322, R380, R391, R412 to R417, R433, R434. A RESET_N or PERST_N assertion of the model is one command. -/
def Obligations.WarmResetsKeepWhatTheyMust : Prop :=
  ∀ (s : State) (rail : Nat) (sensor : Fin 24) (key : Nat),
    let por : Bool := decide (s.rst.hold = some .por)
    let wdog : Bool := s.tick.wdogArmed && decide (16 ≤ s.tick.wdogCount)
    let sb := ((((s.stir 1 0).put R.SBI_STAT_LAST_CMD 0xE5).put R.SBI_STAT_LAST_CMD 0xE5).inc R.SBI_CMDS).inc R.SBI_RESETS
    (wdog = false ∨ por = true → Idles .tickWdog s) ∧
    (wdog = true → por = false → Does .tickWdog s (Warmed 0x07 s.toMach)) ∧
    (por = true → s.sleep.state = 0 → Idles (.warmResetStart false) s) ∧
    (por = false → s.sleep.state = 0 → Does (.warmResetStart false) s (Warmed 0x02 s.toMach)) ∧
    (por = false → s.sleep.state ≠ 0 → Does (.warmResetStart false) s fun t => Warmed 0x02 (s.recordWake 2 0) t ∧ t.sleep.waking = true) ∧
    (s.on R.RST_CFG_PERST_MODE = true ∨ s.sleep.state = 3 ∨ (por = true ∧ s.sleep.state = 0) → Idles (.warmResetStart true) s) ∧
    (por = false → s.on R.RST_CFG_PERST_MODE = false → s.sleep.state = 0 → Does (.warmResetStart true) s (Warmed 0x03 s.toMach)) ∧
    (por = false → s.on R.RST_CFG_PERST_MODE = false → s.sleep.state = 2 → Does (.warmResetStart true) s fun t =>
      Warmed 0x03 (s.recordWake 3 0) t ∧ t.sleep.waking = true) ∧
    (por = true ∨ 12 ≤ rail → Idles (.supplyFault rail) s) ∧
    (por = false → rail < 12 → Does (.supplyFault rail) s fun t => Warmed 0x09 s.toMach t ∧ t.g R.RST_CAUSE_LAST_DETAIL = rail) ∧
    (s.rst.hold.isSome = true → Idles .mgtWdog s) ∧
    (s.rst.hold = none → Does .mgtWdog s (Warmed 0x06 s.toMach)) ∧
    (por = true → Idles (.thermalTrip sensor) s) ∧
    (por = false → Does (.thermalTrip sensor) s fun t => Warmed 0x08 s.toMach t ∧ t.rst.thermLow = true) ∧
    (s.rst.pkgReset = none → Idles .hostCmdReset s) ∧
    (por = false → ∀ t0 ∈ s.rst.pkgReset, Does .hostCmdReset s fun t => t0 + 10000 ≤ t.elapsed ∧ Warmed 0x04 (s.runToElapsed (t0 + 10000)) t) ∧
    (s.jnl.pf ≠ some .done ∨ s.jnl.recoverFrom = none → Idles .pwrRecoverExpired s) ∧
    (por = false → s.jnl.pf = some .done → ∀ t0 ∈ s.jnl.recoverFrom, Does .pwrRecoverExpired s fun t =>
      t0 + s.g R.JNL_PF * 1000000 ≤ t.elapsed ∧ Warmed 0x0A (s.runToElapsed (t0 + s.g R.JNL_PF * 1000000)) t) ∧
    (por = false → s.on R.SBI_CFG_RST_EN = true → key = s.g R.SBI_KEY → Does (.sidebandReset key true true) s fun t =>
      Warmed 0x05 sb t ∧ t.g R.SBI_RESETS = (s.g R.SBI_RESETS + 1) % 2 ^ 32 ∧ t.g R.SBI_CMDS = (s.g R.SBI_CMDS + 1) % 2 ^ 32) ∧
    (s.on R.SBI_CFG_RST_EN = false ∨ key ≠ s.g R.SBI_KEY → Does (.sidebandReset key true true) s fun t =>
      t.g R.SBI_STAT_KEY_BAD = 1 ∧ t.g R.SBI_KEY_ERR = (s.g R.SBI_KEY_ERR + 1) % 2 ^ 32 ∧
      (s.Awake → RegsBut [R.SBI_STAT_KEY_BAD.a, R.SBI_KEY_ERR.a] s.toMach t ∧ OnlyIn [.regs] s.toMach t)) ∧
    Does .powerOnReset s fun t =>
      t.rst.hold = some .por ∧ t.rst.ready = false ∧ t.rst.stage = 0 ∧ t.rst.fromPor = true ∧ t.rst.held = 0x1F ∧ t.rst.unlocked = false ∧
      t.rst.nonce = s.rst.nonce + 1 ∧
      t.rst.dies = s.rst.dies.map (fun (d : DiePlan) =>
        { engPresent := d.engPresent, bankPresent := d.bankPresent, fePresent := d.fePresent, tlePresent := d.tlePresent, slicePresent := d.slicePresent }) ∧ t.g R.PWR_CAP = s.gradeCap ∧ RegsBut [R.PWR_CAP.a] ({} : Mach) t ∧
      t.chip = s.chip ∧ t.nvs.log = s.nvs.log ∧ t.nvs.snap = s.nvs.snap ∧ t.nvs.state = 0 ∧ t.jnl.epoch = s.jnl.epoch ∧ t.jnl.recs = [] ∧
      t.jnl.actions = [] ∧ t.draws = s.draws ∧ t.out = s.out ∧ OnlyIn [.chip, .regs, .nvs, .jnl, .draws, .out, .rst] ({} : Mach) t

/-- R416 to R423, R436. -/
def Obligations.BringUpReachesReady : Prop :=
  ∀ (s : State) (b : BootInfo) (ok : Bool),
    let fresh : Bool := decide (s.rst.hold = some .por ∨ s.rst.hold = some (.warm 0x02))
    let bootSel := if fresh then b.bootSel % 4 else s.chip.bootSel
    let clkMode := if fresh then b.clkMode % 4 else s.chip.clkMode
    let test := if fresh then b.testMode else s.chip.testMode
    let fails : Bool := !b.fwOk && !b.fwOtherOk
    let ended := fun (t : Mach) =>
      t.rst.hold = none ∧ t.rst.outFrom = some t.elapsed ∧ t.rst.ready = s.rst.ready ∧ t.chip.bootSel = bootSel ∧ t.chip.clkMode = clkMode ∧
      t.chip.testMode = test ∧ (s.rst.hold = some .por → t.time = s.time) ∧ (∀ c, c < 32 → s.rst.hold = some (.warm c) → s.rst.holdAt + s.holdLength c ≤ t.elapsed) ∧
      OnlyIn [.chip, .regs, .time, .tick, .enc, .jnl, .nvs, .rst, .cache, .draws, .out] s.toMach t
    let halts := fun (stage err : Nat) (t : Mach) => ended t ∧ t.rst.stage = stage ∧ t.rst.bootErr = err ∧ t.rst.dies = s.rst.dies
    let loaded := fun (t : Mach) =>
      t.rst = (if ok then { s.rst with fwVerified := true, bootErr := 0, sbImage := [] } else { s.rst with bootErr := 4, sbImage := [] }) ∧
      t.g R.GLB_BOOT_STAT = (if ok then 0 else 3) ∧ (ok = false → t.g R.SEC_FW_VERIFY_FAIL = (s.g R.SEC_FW_VERIFY_FAIL + 1) % 2 ^ 32 ∧ t.chip = s.chip) ∧
      (ok = true → t.chip = { s.chip with fwVer := Config.freeNat s.draws }) ∧ RegsBut [R.GLB_BOOT_STAT.a, R.SEC_FW_VERIFY_FAIL.a] s.toMach t ∧
      OnlyIn [.chip, .regs, .rst, .draws] s.toMach t
    let waits : Bool := s.rst.hold.isNone && s.rst.stage == 9 && !s.rst.fwVerified && s.chip.bootSel == 1
    let compute := s.rst.compute.isSome
    let mayReady : Bool := !s.rst.ready && s.rst.hold.isNone && s.rst.stage == 9 && s.rst.fwVerified && s.nvs.state != 1
    let isReady := fun (t : Mach) =>
      t.rst.ready = true ∧ t.rst.compute = none ∧ t.rst.gen = s.rst.gen + 1 ∧ t.tick.wdogArmed = s.jnl.pf.isNone ∧ t.tick.wdogCount = 0 ∧
      (∀ d : Fin 4, (t.rst.dies.get d).lost = !(b.dies.get d).trained ∧
        ((b.dies.get d).trained = true → (t.rst.dies.get d).engGood = (b.dies.get d).engGood &&& (s.rst.dies.get d).engPresent))
    (s.rst.hold = none → Idles (.resetHoldEnd b) s) ∧
    (s.rst.hold ≠ none →
      (test = true → Does (.resetHoldEnd b) s (halts 2 5)) ∧
      (test = false → bootSel = 3 ∨ clkMode = 3 → Does (.resetHoldEnd b) s (halts 2 1)) ∧
      (test = false → bootSel = 0 → clkMode ≠ 3 → fails = true → Does (.resetHoldEnd b) s (halts 2 2)) ∧
      (test = false → bootSel ≠ 3 → clkMode ≠ 3 → ¬ (bootSel = 0 ∧ fails = true) → b.pllOk = false → Does (.resetHoldEnd b) s (halts 3 3)) ∧
      (test = false → bootSel ≠ 3 → clkMode ≠ 3 → ¬ (bootSel = 0 ∧ fails = true) → b.pllOk = true → Does (.resetHoldEnd b) s fun t =>
        ended t ∧ t.rst.stage = 9 ∧ t.rst.scGood = b.scGood ∧ (bootSel = 0 → t.rst.fwVerified = true ∧ (b.fwOk = false → t.g R.GLB_STAT_FW_FALLBACK = 1)) ∧
        (bootSel ≠ 0 → t.rst.fwVerified = s.rst.fwVerified ∧ t.g R.GLB_BOOT_STAT = 1) ∧
        (∀ d : Fin 4, (t.rst.dies.get d).lost = !(b.dies.get d).trained ∧ (t.rst.dies.get d).why = if (b.dies.get d).trained then 0 else (b.dies.get d).why) ∧
        t.nvs.state = if t.on R.NVS_CTRL_EN = true then 1 else 0)) ∧
    (waits = false → Idles (.bootGo ok) s) ∧ (waits = true → Does (.bootGo ok) s loaded) ∧
    (compute = false → mayReady = false → Idles (.ready b) s) ∧
    (compute = false → mayReady = true → Does (.ready b) s fun t =>
      isReady t ∧ t.rst.fptCause = s.rst.cause ∧ t.rst.fromPor = false ∧ t.rst.held = s.rst.held &&& ~~~(BitVec.ofNat 5 (s.g R.IOC_CFG_AUTO_REL)) ∧
      t.rst.scGood = b.scGood ∧ (s.rst.fromPor = false → t.jnl.next.toList.length = 32 ∧ (∀ i : Fin 32, s.jnl.next.get i ≤ t.jnl.next.get i ∨ s.jnl.epoch < t.jnl.epoch)) ∧
      OnlyIn [.regs, .time, .tick, .jnl, .lvl, .rst, .cache, .draws, .out] s.toMach t) ∧
    (compute = true → Does (.ready b) s fun t =>
      isReady t ∧ t.rst.fptCause = 0x10 ∧ t.rst.held = s.rst.held &&& ~~~(BitVec.ofNat 5 (s.g R.IOC_CFG_AUTO_REL)) ∧
      (∀ p : Fin 16, s.on (R.ING_CTRL_EN p) = true → t.on (R.ING_CTRL_EN p) = true →
        (t.port.get p).running = true ∧ (t.fe.get p).surf = [] ∧ (t.fe.get p).zeroing = true ∧ (t.fe.get p).warming = true) ∧
      (∀ p : Fin 16, s.on (R.ING_CTRL_EN p) = true → t.on (R.ING_CTRL_EN p) = false → (t.port.get p).running = false ∧ (t.port.get p).failed = true) ∧
      OnlyIn [.regs, .time, .tick, .port, .fe, .eng, .jnl, .lvl, .rst, .cache, .draws, .out] s.toMach t) ∧
    (s.rst.outFrom = none → Idles .resetOutNRelease s) ∧
    (∀ t0 ∈ s.rst.outFrom, Does .resetOutNRelease s fun t =>
      t0 + (if s.g R.RST_CFG_RST_OUT_MIN = 0 then 1 else min (s.g R.RST_CFG_RST_OUT_MIN) 100 : Nat) * 1000000 ≤ t.elapsed ∧
      t.rst = { s.rst with outLow := false, outFrom := none } ∧ OnlyIn [.regs, .time, .tick, .enc, .jnl, .rst, .cache] s.toMach t)

/-- R414, R415, R424 to R429, R440. An endpoint reset as an FLR is the reading of log entry 47. -/
def Obligations.ComputeAndBlockResets : Prop :=
  ∀ (s : State) (kind unit inFlight : Nat) (d : Fin 4) (why : Nat),
    let inWarm : Bool := !s.rst.ready && s.rst.compute.isNone
    let refused : Bool := inWarm || s.rst.compute.isSome || decide (2 ≤ s.sleep.state) || s.jnl.pf.isSome
    let stopped := fun (a t : Mach) =>
      t.rst.compute = some 1 ∧ t.rst.ready = false ∧ t.g R.RST_CAUSE_LAST_CODE = 0x10 ∧ t.g R.RST_CMP_COUNT = (a.g R.RST_CMP_COUNT + 1) % 2 ^ 32 ∧
      (∀ e : Fin 72, t.eng.get e = {}) ∧ (∀ p : Fin 16, (t.port.get p).vat = [] ∧ (t.port.get p).reading = none ∧ (t.fe.get p).surf = []) ∧
      t.tick.wdogArmed = false ∧ t.tick.tn = a.tick.tn ∧ t.tick.period = a.tick.period ∧ t.tick.origin = a.tick.origin ∧ t.tick.pending = a.tick.pending ∧
      (∀ x ∈ t.tick.accts, x.works = false) ∧
      OnlyIn [.regs, .tick, .port, .fe, .eng, .tleq, .tle, .heldDesc, .pops, .spikes, .jnl, .led, .lvl, .sleep, .fn, .rst, .cache, .out] a t
    let due : Bool := match s.rst.lostAt with
      | none => false
      | some t0 => s.on R.RST_CFG_AUTO_CMP && (match s.rst.autoAt with | some a => decide (600000000000 ≤ t0 + 1000000000 - a) | none => true)
    let blkRegs := [R.RST_BLK_KIND.a, R.RST_BLK_UNIT.a, R.RST_BLK_STAT_CMD_LOST.a]
    let reached := fun (k : BlkRun) (t : Mach) =>
      t.rst.blk = none ∧ t.g R.RST_BLK_COUNT = (s.g R.RST_BLK_COUNT + 1) % 2 ^ 32 ∧
      (k.kind = 0 → let p : Fin 16 := Fin.ofNat 16 k.unit
        t.on (R.ING_CTRL_EN p) = false ∧ (t.port.get p).running = false ∧ (t.port.get p).vat = [] ∧ ∀ q : Fin 16, q ≠ p → t.port.get q = s.port.get q ∧ t.fe.get q = s.fe.get q) ∧
      (k.kind = 1 → let p : Fin 16 := Fin.ofNat 16 k.unit
        (t.fe.get p).surf = [] ∧ (t.fe.get p).zeroing = true ∧ t.port = s.port ∧ ∀ q : Fin 16, q ≠ p → t.fe.get q = s.fe.get q) ∧
      (k.kind = 2 → let e : Fin 72 := Fin.ofNat 72 k.unit
        (t.eng.get e).inReset = true ∧ ((s.eng.get e).inReset = false → (t.eng.get e).sram = []) ∧ t.port = s.port ∧ ∀ g : Fin 72, g ≠ e → (t.eng.get g).sram = (s.eng.get g).sram) ∧
      (k.kind = 3 → t.tle.get (Fin.ofNat 8 k.unit) = none ∧ t.cache = { s.cache with tle := vput s.cache.tle (Fin.ofNat 8 k.unit) [] }) ∧
      (k.kind = 4 → let n : Fin 4 := Fin.ofNat 4 k.unit
        t.g (R.MOT_ENC_STAT_DISCONT n) = 1 ∧ ∀ q : Fin 4, q ≠ n → t.enc.get q = s.enc.get q) ∧
      (k.kind = 5 → ∀ q : Fin 4, q ≠ Fin.ofNat 4 k.unit → t.imu.get q = s.imu.get q) ∧
      (k.kind = 6 → t.net.link.get (Fin.ofNat 2 k.unit) = false) ∧
      (k.kind = 7 → let l : Fin 4 := Fin.ofNat 4 k.unit
        (t.link.get l).replay = [] ∧ (t.link.get l).resume = false ∧ (s.on (R.LNK_CTRL_EN l) = true → s.linksOff = false → (t.link.get l).state = 1) ∧ ∀ q : Fin 4, q ≠ l → t.link.get q = s.link.get q) ∧
      (k.kind = 8 → t.g R.NVS_FAULTS = (s.g R.NVS_FAULTS + 1) % 2 ^ 32 ∧ t.nvs.state = if s.on R.NVS_CTRL_EN = true then 1 else 0) ∧
      OnlyIn (match k.kind with
        | 0 => [.regs, .tick, .port, .jnl, .fn, .rst, .out] | 1 => [.regs, .fe, .rst]
        | 2 => [.regs, .tick, .fe, .eng, .tleq, .tle, .heldDesc, .pops, .led, .rst] | 3 => [.regs, .tick, .fe, .eng, .tleq, .tle, .heldDesc, .led, .cache, .rst]
        | 4 => [.regs, .time, .tick, .enc, .jnl, .cache, .rst] | 5 => [.regs, .imu, .fus, .rst] | 6 => [.regs, .tick, .jnl, .net, .cache, .rst, .out]
        | 7 => [.regs, .fus, .link, .rst] | 8 => [.regs, .tick, .jnl, .nvs, .cache, .rst, .out] | _ => [.regs, .rst]) s.toMach t
    (refused = true → Does .computeReset s fun t => t.g R.RST_CMP_STAT_REFUSED = 1 ∧ RegsBut [R.RST_CMP_STAT_REFUSED.a] s.toMach t ∧ OnlyIn [.regs] s.toMach t) ∧
    (refused = false → Does .computeReset s (stopped s.toMach)) ∧
    (inWarm = true ∨ s.rst.compute.isSome = true ∨ s.rst.blk.isSome = true → Does (.blockReset kind unit) s fun t =>
      t.g R.RST_BLK_STAT_CMD_LOST = 1 ∧ t.rst = s.rst ∧ RegsBut blkRegs s.toMach t ∧ OnlyIn [.regs] s.toMach t) ∧
    (inWarm = false → s.rst.compute = none → s.rst.blk = none →
      (s.blockOn (kind % 16) (unit % 128) = false → Does (.blockReset kind unit) s fun t =>
        t.g R.RST_BLK_STAT_OFF = 1 ∧ t.rst = s.rst ∧ RegsBut blkRegs s.toMach t ∧ OnlyIn [.regs] s.toMach t) ∧
      (s.blockOn (kind % 16) (unit % 128) = true → Does (.blockReset kind unit) s fun t =>
        t.rst = { s.rst with blk := some { kind := kind % 16, unit := unit % 128, at_ := s.elapsed } } ∧ t.g R.RST_BLK_KIND = kind % 16 ∧
        t.g R.RST_BLK_UNIT = unit % 128 ∧ RegsBut blkRegs s.toMach t ∧ OnlyIn [.regs, .rst] s.toMach t)) ∧
    (s.rst.blk = none → Idles .blockResetIdle s ∧ Idles (.blockResetTimeout inFlight) s) ∧
    (∀ k ∈ s.rst.blk, Does .blockResetIdle s (reached k) ∧
      Does (.blockResetTimeout inFlight) s fun t =>
        k.at_ + atLeast1 (s.g R.RST_IDLE) * 1000 ≤ t.elapsed ∧ t.g R.RST_BLK_STAT_TMO = 1 ∧ t.g R.RST_BLK_STAT_DISCARDED = min inFlight 65535 ∧
        t.g R.RST_BLK_TMO = (s.g R.RST_BLK_TMO + 1) % 2 ^ 32 ∧ t.rst.blk = none ∧ t.g R.RST_BLK_COUNT = (s.g R.RST_BLK_COUNT + 1) % 2 ^ 32 ∧
        OnlyIn [.regs, .time, .tick, .port, .fe, .eng, .tleq, .tle, .heldDesc, .pops, .enc, .imu, .fus, .jnl, .nvs, .led, .fn, .net, .link, .rst, .cache, .out] s.toMach t) ∧
    (s.dieLost d.1 = true ∨ s.rst.hold.isSome = true ∨ why < 1 ∨ 3 < why → Idles (.dieLost d why) s) ∧
    (s.dieLost d.1 = false → s.rst.hold = none → 1 ≤ why → why ≤ 3 → Does (.dieLost d why) s fun t =>
      (t.rst.dies.get d).lost = true ∧ (t.rst.dies.get d).why = why ∧ t.g R.RST_DIE_LOST = (s.g R.RST_DIE_LOST + 1) % 2 ^ 32 ∧ t.rst.gen = s.rst.gen + 1 ∧
      (∀ e : Fin 72, e.1 / 18 = d.1 → t.eng.get e = {}) ∧ (∀ e : Fin 72, e.1 / 18 ≠ d.1 → (t.eng.get e).sram = (s.eng.get e).sram) ∧
      t.jnl.copies.get d = false ∧ (∀ g : Fin 4, g ≠ d → t.rst.dies.get g = s.rst.dies.get g ∧ t.jnl.copies.get g = s.jnl.copies.get g) ∧
      (s.rst.ready = true → t.rst.lostAt = some s.elapsed) ∧ t.dram = s.dram ∧ t.time = s.time ∧
      OnlyIn [.regs, .tick, .fe, .eng, .tleq, .tle, .heldDesc, .pops, .jnl, .led, .rst, .cache] s.toMach t) ∧
    (due = false → Idles .autoComputeReset s) ∧
    (due = true → ∀ t0 ∈ s.rst.lostAt, Does .autoComputeReset s fun t =>
      t0 + 1000000000 ≤ t.elapsed ∧ t.rst.autoAt = some t.elapsed ∧ t.rst.lostAt = none ∧
      (refused = true → t.g R.RST_CMP_STAT_REFUSED = 1 ∧ t.rst.compute = s.rst.compute) ∧
      (refused = false → t.rst.compute = some 1 ∧ ∀ e : Fin 72, t.eng.get e = {}) ∧
      OnlyIn [.regs, .time, .tick, .port, .fe, .eng, .tleq, .tle, .heldDesc, .pops, .spikes, .enc, .jnl, .led, .lvl, .sleep, .fn, .rst, .cache, .out] s.toMach t) ∧
    (s.on R.RST_CFG_PERST_MODE = false ∨ s.rst.hold.isSome = true ∨ s.sleep.state = 3 → Idles .endpointReset s) ∧
    (s.on R.RST_CFG_PERST_MODE = true → s.rst.hold = none → s.sleep.state ≠ 3 → Does .endpointReset s fun t =>
      t.g R.RST_CAUSE_LAST_CODE = 0x11 ∧ t.rst.tLast = s.time.n ∧ t.rst.hold = none ∧ t.rst.ready = s.rst.ready ∧
      (∀ f : Fin 8, (t.fn.get f).flrBusy = true ∧ ∀ r : Fin 7, (s.fn.get f).flrBusy = false → t.ringEn f r = false) ∧ t.own.tick = 0 ∧
      Stirred [.regs, .tick, .jnl, .fn, .own, .rst, .cache, .out] s.toMach t)

/-- R430, R433 to R435, R483, R484. TRST_N loading IDCODE is IEEE 1149.1's, log entry 47. -/
def Obligations.SidebandPadsAndTap : Prop :=
  ∀ (s : State) (bytes : List Byte) (pecOk ok : Bool) (key a : Nat) (mask : BitVec 5) (ir : BitVec 4) (trst : Bool),
    let waits : Bool := s.rst.hold.isNone && s.rst.stage == 9 && !s.rst.fwVerified && s.chip.bootSel == 2
    let counted := fun (t : Mach) => t.g R.SBI_CMDS = (s.g R.SBI_CMDS + 1) % 2 ^ 32
    let woken := fun (t : Mach) => s.sleep.state = 2 ∨ s.sleep.state = 3 → s.rst.hold ≠ some .por →
      t.sleep.state = 0 ∧ t.sleep.waking = true ∧ t.g R.PWR_WAKE_LAST_SOURCE = 1
    let incomplete := fun (t : Mach) =>
      t.g R.SBI_STAT_INCOMPLETE = 1 ∧ t.g R.SBI_INCOMPLETE = (s.g R.SBI_INCOMPLETE + 1) % 2 ^ 32 ∧ t.g R.SBI_CMDS = s.g R.SBI_CMDS ∧
      (s.Awake → RegsBut [R.SBI_STAT_INCOMPLETE.a, R.SBI_INCOMPLETE.a] s.toMach t ∧ OnlyIn [.regs] s.toMach t) ∧ woken t
    let badPec := fun (t : Mach) =>
      t.g R.SBI_STAT_PEC_BAD = 1 ∧ t.g R.SBI_PEC_ERR = (s.g R.SBI_PEC_ERR + 1) % 2 ^ 32 ∧ t.g R.SBI_CMDS = s.g R.SBI_CMDS ∧
      (s.Awake → RegsBut [R.SBI_STAT_PEC_BAD.a, R.SBI_PEC_ERR.a] s.toMach t ∧ OnlyIn [.regs] s.toMach t) ∧ woken t
    let loads : Bool := waits && decide (1 ≤ bytes.length) && decide (bytes.length ≤ 32)
    let i := ir.toNat
    (∀ c ∈ [Instr.loadData bytes pecOk false, .loadEnd pecOk false ok, .sidebandReset key pecOk false], Does c s incomplete) ∧
    (∀ c ∈ [Instr.loadData bytes false true, .loadEnd false true ok, .sidebandReset key false true], Does c s badPec) ∧
    Does .sidebandBusTimeout s incomplete ∧
    (s.on R.SBI_CFG_RST_EN = false ∨ key ≠ s.g R.SBI_KEY → Does (.sidebandReset key true true) s fun t =>
      t.g R.SBI_STAT_KEY_BAD = 1 ∧ t.g R.SBI_KEY_ERR = (s.g R.SBI_KEY_ERR + 1) % 2 ^ 32 ∧ t.g R.SBI_CMDS = s.g R.SBI_CMDS ∧
      (s.Awake → RegsBut [R.SBI_STAT_KEY_BAD.a, R.SBI_KEY_ERR.a] s.toMach t ∧ OnlyIn [.regs] s.toMach t) ∧ woken t) ∧
    (loads = false → Does (.loadData bytes true true) s incomplete) ∧
    (loads = true → s.Awake → Does (.loadData bytes true true) s fun t =>
      t.rst = { s.rst with sbImage := s.rst.sbImage ++ bytes } ∧ counted t ∧ t.g R.SBI_STAT_LAST_CMD = 0xB0 ∧
      RegsBut [R.SBI_STAT_LAST_CMD.a, R.SBI_CMDS.a] s.toMach t ∧ OnlyIn [.regs, .rst] s.toMach t) ∧
    (waits = false → Does (.loadEnd true true ok) s incomplete) ∧
    (waits = true → s.Awake → Does (.loadEnd true true ok) s fun t =>
      t.rst = (if ok then { s.rst with fwVerified := true, bootErr := 0, sbImage := [] } else { s.rst with bootErr := 4, sbImage := [] }) ∧
      counted t ∧ t.g R.SBI_STAT_LAST_CMD = 0xB1 ∧ t.g R.GLB_BOOT_STAT = (if ok then 0 else 3) ∧
      (ok = false → t.g R.SEC_FW_VERIFY_FAIL = (s.g R.SEC_FW_VERIFY_FAIL + 1) % 2 ^ 32) ∧
      RegsBut [R.SBI_STAT_LAST_CMD.a, R.SBI_CMDS.a, R.GLB_BOOT_STAT.a, R.SEC_FW_VERIFY_FAIL.a] s.toMach t ∧ OnlyIn [.chip, .regs, .rst, .draws] s.toMach t) ∧
    Does .status s (fun t =>
      t.out.head? = some (.sideband ([BitVec.ofNat 8 ((if t.rst.ready then 128 else 0) + t.rst.stage % 16), BitVec.ofNat 8 t.rst.bootErr,
        BitVec.ofNat 8 (t.g R.RST_CAUSE_LAST_CODE), BitVec.ofNat 8 t.shownState] ++ bytesOf 4 (Mach.t32Of t.rst.tLast))) ∧
      counted t ∧ t.g R.SBI_STAT_LAST_CMD = 0x01 ∧ woken t ∧
      (s.Awake → RegsBut [R.SBI_STAT_LAST_CMD.a, R.SBI_CMDS.a] s.toMach t ∧ OnlyIn [.regs, .out] s.toMach t)) ∧
    (a < 128 → Does (.i3cDynamicAddressAssignment a) s fun t => t.rst = { s.rst with sbDyn := some a } ∧ OnlyIn [.rst] s.toMach t) ∧
    (128 ≤ a → Idles (.i3cDynamicAddressAssignment a) s) ∧
    Does (.iocRelease mask) s (fun t =>
      t.rst.held = s.rst.held &&& ~~~mask ∧ (mask.getLsbD 0 = true → t.rst.padTrig = List.replicate 8 none) ∧ (mask.getLsbD 0 = false → t.rst.padTrig = s.rst.padTrig) ∧
      (mask.getLsbD 1 = false → t.rst.padPps = s.rst.padPps) ∧ (mask.getLsbD 2 = false → t.rst.padSens = s.rst.padSens) ∧ (mask.getLsbD 4 = false → t.rst.padImu = s.rst.padImu) ∧
      t.rst.ready = s.rst.ready ∧
      (s.jnl.actions.all (fun (e : Nat × Action) => e.2.lateBy.isNone) = true → OnlyIn [.rst] s.toMach t) ∧
      OnlyIn [.regs, .time, .tick, .jnl, .rst, .cache] s.toMach t) ∧
    Does .rstTLastRead s (fun t =>
      t.rd R.RST_T_LAST_LO_A = BitVec.ofNat 32 (toBits 64 s.rst.tLast) ∧ t.rd R.RST_T_LAST_HI_A = BitVec.ofNat 32 (toBits 64 s.rst.tLast / 2 ^ 32) ∧
      t.out.head? = some (.readValue R.RST_T_LAST_LO_A (BitVec.ofNat 32 (toBits 64 s.rst.tLast))) ∧
      RegsBut [R.RST_T_LAST_LO_A, R.RST_T_LAST_HI_A] s.toMach t ∧ OnlyIn [.regs, .out] s.toMach t) ∧
    Does (.jtagInstruction ir trst) s fun t =>
      (trst = true → t.rst = { s.rst with jtagIr := 2, jtagEff := 2 }) ∧
      (trst = false → t.rst.jtagIr = i ∧
        t.rst.jtagEff = (if s.rst.ready = true ∧ (i = 0 ∨ i = 3 ∨ i = 4) then 15 else if i ≤ 4 ∨ i = 15 ∨ s.rst.unlocked = true then i else 15) ∧
        t.rst.ready = s.rst.ready ∧ t.rst.unlocked = s.rst.unlocked) ∧ OnlyIn [.rst] s.toMach t

/-! ## Memory (16_memory_store.md) -/

/-- R272, R444 to R449, R463. The codes of the reader are the model's, log entry 46. -/
def Obligations.RegionSettingsAndMemoryErrors : Prop :=
  ∀ (s : State) (d : Fin 4) (k : Fin 16) (val : BitVec 32) (addr reader unit : Nat) (correctable : Bool),
    let ecc := val.getLsbD 0
    let intlv := if d = 0 then val.getLsbD 1 else s.on (R.MEM_REG_INTLV d k)
    let affected : List Nat := if intlv != s.on (R.MEM_REG_INTLV d k) then (List.range 4).map fun h => 16 * h + k.1
      else if ecc != s.on (R.MEM_REG_ECC d k) then [16 * d.1 + k.1] else []
    let held := affected.any s.regionHeld
    let die := s.dieAt addr
    let meets : Bool := s.addrExists addr && s.regionEcc (addr / 2 ^ 30)
    let line := addr / 64 * 64
    let hit := fun (t : Mach) =>
      t.g (R.MEM_UE die) = (s.g (R.MEM_UE die) + 1) % 2 ^ 32 ∧ t.g (R.MEM_UE_ADDR_LO die) = addr % 2 ^ 32 ∧ t.rd (Mach.ueHigh die) = BitVec.ofNat 32 (addr / 2 ^ 32) ∧
      t.dram = s.dram ∧ t.time = s.time ∧ (s.granResident (addr / 2 ^ 21) = true → line ∈ t.ueLines) ∧ (∀ l ∈ s.ueLines, l ∈ t.ueLines) ∧
      (∀ l ∈ t.ueLines, l ∈ s.ueLines ∨ l = line)
    (13 ≤ k.1 ∨ affected = [] → Idles (.memRegWrite d k val) s) ∧
    (k.1 < 13 → affected ≠ [] →
      (held = true → Does (.memRegWrite d k val) s fun t =>
        t.g (R.MEM_DSTAT_CFG_WR d) = 1 ∧ RegsBut [(R.MEM_DSTAT_CFG_WR d).a] s.toMach t ∧ OnlyIn [.regs] s.toMach t) ∧
      (held = false → Does (.memRegWrite d k val) s fun t =>
        t.on (R.MEM_REG_ECC d k) = ecc ∧ (∀ h : Fin 4, t.on (R.MEM_REG_INTLV h k) = intlv ∧ (h ≠ d → t.on (R.MEM_REG_ECC h k) = s.on (R.MEM_REG_ECC h k))) ∧
        t.own = { s.own with washes := s.own.washes ++ affected.map fun (r : Nat) => ({ kind := 8, unit := r, owed := none } : Wash) } ∧
        RegsBut ((List.range 4).map fun h => (R.MEM_REG_INTLV h k).a) s.toMach t ∧ OnlyIn [.regs, .own] s.toMach t)) ∧
    (meets = false → reader ≠ 5 → Idles (.dramUe addr reader unit) s) ∧
    (reader = 5 → Does (.dramUe addr reader unit) s fun t =>
      t.jnl = { s.jnl with failNext := vput s.jnl.failNext (Fin.ofNat 4 die) (min unit 3) } ∧ OnlyIn [.jnl] s.toMach t) ∧
    (meets = true → reader ≠ 5 → Does (.dramUe addr reader unit) s fun t =>
      hit t ∧ (reader = 0 → t.jnl.copies.get (Fin.ofNat 4 die) = false) ∧
      (reader = 1 → ∀ r ∈ (s.eng.get (Fin.ofNat 72 unit)).run, (t.eng.get (Fin.ofNat 72 unit)).run.map (·.desc) ≠ some r.desc) ∧
      (4 ≤ reader → t.eng = s.eng ∧ t.fe = s.fe ∧ t.fn = s.fn ∧ OnlyIn [.regs, .jnl, .ueLines, .tick, .cache] s.toMach t) ∧
      OnlyIn [.regs, .tick, .fe, .eng, .tleq, .tle, .heldDesc, .pops, .spikes, .jnl, .led, .fn, .cache, .ueLines] s.toMach t) ∧
    (s.on (R.MEM_SCRUB_HOURS d) = false ∨ meets = false ∨ die ≠ d.1 → Idles (.dramScrub d addr correctable) s) ∧
    (s.on (R.MEM_SCRUB_HOURS d) = true → meets = true → die = d.1 →
      (correctable = true → Does (.dramScrub d addr correctable) s fun t =>
        t.g (R.MEM_CE d) = (s.g (R.MEM_CE d) + 1) % 2 ^ 32 ∧ RegsBut [(R.MEM_CE d).a] s.toMach t ∧ OnlyIn [.regs] s.toMach t) ∧
      (correctable = false → Does (.dramScrub d addr correctable) s fun t => hit t ∧ OnlyIn [.regs, .jnl, .ueLines, .tick, .cache] s.toMach t)) ∧
    Does (.memUeAddrRead d) s (fun t =>
      t.rd (R.MEM_UE_ADDR_HI_A d) = s.rd (Mach.ueHigh d) ∧ t.out.head? = some (.readValue (R.MEM_UE_ADDR_LO_A d) (s.rd (R.MEM_UE_ADDR_LO_A d))) ∧
      RegsBut [R.MEM_UE_ADDR_HI_A d] s.toMach t ∧ OnlyIn [.regs, .out] s.toMach t) ∧
    (s.jnl.copies.get d = true ∨ s.dieLost d.1 = true → Idles (.mirrorBack d) s) ∧
    (s.jnl.copies.get d = false → s.dieLost d.1 = false → Does (.mirrorBack d) s fun t =>
      t.jnl.copies.get d = true ∧ (∀ g : Fin 4, g ≠ d → t.jnl.copies.get g = s.jnl.copies.get g) ∧ t.dram = s.dram ∧
      OnlyIn [.regs, .jnl, .tick, .cache] s.toMach t)
end

