-- ==== Sys2Proof/Laws/Tab.lean ====
section
/-! SUPPORT. The sparse table and the byte memory: a read after a write, other places unchanged, and the canonical form
kept by every operation. -/

namespace Sys2Proof

namespace Tab
variable {α : Type}

theorem get_erase_self (d : Nat → α) (t : Tab α) (k : Nat) : get d (t.erase k) k = d k := by
  induction t with
  | nil => rfl
  | cons e r ih =>
    obtain ⟨j, v⟩ := e
    by_cases h : j = k
    · subst h; simpa [erase] using ih
    · have : (erase ((j, v) :: r) k) = (j, v) :: erase r k := by simp [erase, h]
      simp [this, get, h, ih]

theorem get_erase_ne (d : Nat → α) (t : Tab α) {k b : Nat} (hb : b ≠ k) : get d (t.erase k) b = get d t b := by
  induction t with
  | nil => rfl
  | cons e r ih =>
    obtain ⟨j, v⟩ := e
    by_cases h : j = k
    · subst h
      have : (erase ((j, v) :: r) j) = erase r j := by simp [erase]
      simp [this, get, ih, Ne.symm hb]
    · have : (erase ((j, v) :: r) k) = (j, v) :: erase r k := by simp [erase, h]
      simp [this, get, ih]

theorem get_put_self (d : Nat → α) (t : Tab α) (k : Nat) (v : α) : get d (t.put k v) k = v := by
  induction t with
  | nil => simp [put, get]
  | cons e r ih =>
    obtain ⟨j, w⟩ := e
    simp only [put]
    split
    · simp [get]
    · split
      · simp [get]
      · rename_i h; simp [get, h, ih]

theorem get_put_ne (d : Nat → α) (t : Tab α) {k b : Nat} (v : α) (hb : b ≠ k) : get d (t.put k v) b = get d t b := by
  induction t with
  | nil => simp [put, get, Ne.symm hb]
  | cons e r ih =>
    obtain ⟨j, w⟩ := e
    simp only [put]
    split
    · simp [get, Ne.symm hb]
    · split
      · rename_i h; subst h; simp [get, Ne.symm hb]
      · simp [get, ih]

/-- A read after a write to the same key gives the value written. -/
@[simp] theorem get_set_self [DecidableEq α] (d : Nat → α) (t : Tab α) (k : Nat) (v : α) : get d (t.set d k v) k = v := by
  unfold set
  split
  · rename_i h; rw [get_erase_self, h]
  · exact get_put_self d t k v

/-- A write leaves every other key alone. -/
theorem get_set_ne [DecidableEq α] (d : Nat → α) (t : Tab α) {k b : Nat} (v : α) (hb : b ≠ k) :
    get d (t.set d k v) b = get d t b := by
  unfold set
  split
  · exact get_erase_ne d t hb
  · exact get_put_ne d t v hb

theorem get_set [DecidableEq α] (d : Nat → α) (t : Tab α) (k b : Nat) (v : α) :
    get d (t.set d k v) b = if b = k then v else get d t b := by
  by_cases h : b = k
  · subst h; simp
  · simp [h, get_set_ne d t v h]

/-! ## The canonical form -/

/-- The canonical form over a list: keys above the bound, strictly rising, no entry equal to the unlisted value. -/
def Canon (d : Nat → α) (t : Tab α) : Prop := t.Pairwise (fun a b => a.1 < b.1) ∧ ∀ e ∈ t, e.2 ≠ d e.1

theorem wfFrom_iff [DecidableEq α] (d : Nat → α) (t : Tab α) (b : Option Nat) :
    wfFrom d b t = true ↔ (∀ j, b = some j → ∀ e ∈ t, j < e.1) ∧ Canon d t := by
  induction t generalizing b with
  | nil => simp [wfFrom, Canon]
  | cons e r ih =>
    obtain ⟨k, v⟩ := e
    simp only [wfFrom, Bool.and_eq_true, ih, Canon, List.pairwise_cons, List.mem_cons, forall_eq_or_imp, decide_eq_true_eq]
    constructor
    · rintro ⟨⟨hb, hv⟩, hk, hp, hr⟩
      have hk' := hk k rfl
      refine ⟨?_, ⟨hk', hp⟩, hv, hr⟩
      rintro j rfl
      have hb' : j < k := by simpa using hb
      exact ⟨hb', fun e he => lt_trans hb' (hk' e he)⟩
    · rintro ⟨hb, ⟨hk, hp⟩, hv, hr⟩
      refine ⟨⟨?_, hv⟩, ?_, hp, hr⟩
      · cases b with
        | none => rfl
        | some j => simpa using (hb j rfl).1
      · rintro j hj; cases hj; exact hk

theorem wf_iff [DecidableEq α] (d : Nat → α) (t : Tab α) : wf d t = true ↔ Canon d t := by
  simp [wf, wfFrom_iff]

theorem Canon.filter {d : Nat → α} {t : Tab α} (h : Canon d t) (p : Nat × α → Bool) : Canon d (t.filter p) :=
  ⟨h.1.filter p, fun e he => h.2 e (List.mem_filter.1 he).1⟩

theorem mem_put {t : Tab α} {k : Nat} {v : α} {e : Nat × α} (h : e ∈ t.put k v) : e = (k, v) ∨ e ∈ t := by
  induction t with
  | nil => left; simpa [put] using h
  | cons x r ih =>
    obtain ⟨j, w⟩ := x
    simp only [put] at h
    split at h
    · simpa using h
    · split at h
      · rcases List.mem_cons.1 h with h | h
        · exact .inl h
        · exact .inr (List.mem_cons_of_mem _ h)
      · rcases List.mem_cons.1 h with h | h
        · exact .inr (h ▸ List.mem_cons_self)
        · rcases ih h with h | h
          · exact .inl h
          · exact .inr (List.mem_cons_of_mem _ h)

theorem Canon.put {d : Nat → α} {t : Tab α} (h : Canon d t) {k : Nat} {v : α} (hv : v ≠ d k) : Canon d (t.put k v) := by
  induction t with
  | nil => exact ⟨by simp [Tab.put], by simpa [Tab.put] using hv⟩
  | cons x r ih =>
    obtain ⟨j, w⟩ := x
    have hr : Canon d r := ⟨(List.pairwise_cons.1 h.1).2, fun e he => h.2 e (List.mem_cons_of_mem _ he)⟩
    have hj := (List.pairwise_cons.1 h.1).1
    have hw := h.2 (j, w) List.mem_cons_self
    simp only [Tab.put]
    split
    · rename_i hk
      refine ⟨List.pairwise_cons.2 ⟨?_, h.1⟩, ?_⟩
      · intro e he
        rcases List.mem_cons.1 he with rfl | he
        · exact hk
        · exact lt_trans hk (hj e he)
      · intro e he
        rcases List.mem_cons.1 he with rfl | he
        · exact hv
        · exact h.2 e he
    · split
      · rename_i hk; subst hk
        refine ⟨List.pairwise_cons.2 ⟨hj, hr.1⟩, ?_⟩
        intro e he
        rcases List.mem_cons.1 he with rfl | he
        · exact hv
        · exact hr.2 e he
      · rename_i h1 h2
        have ih' := ih hr
        refine ⟨List.pairwise_cons.2 ⟨?_, ih'.1⟩, ?_⟩
        · intro e he
          rcases mem_put he with rfl | he
          · show j < k; omega
          · exact hj e he
        · intro e he
          rcases List.mem_cons.1 he with rfl | he
          · exact hw
          · exact ih'.2 e he

/-- A write keeps the canonical form. -/
theorem wf_set [DecidableEq α] (d : Nat → α) (t : Tab α) (k : Nat) (v : α) (h : wf d t = true) :
    wf d (t.set d k v) = true := by
  rw [wf_iff] at h ⊢
  unfold set
  split
  · exact h.filter _
  · rename_i hv; exact h.put hv

/-- Clearing a range keeps the canonical form. -/
theorem wf_clearRange [DecidableEq α] (d : Nat → α) (t : Tab α) (lo hi : Nat) (h : wf d t = true) :
    wf d (t.clearRange lo hi) = true := by
  rw [wf_iff] at h ⊢
  exact h.filter _

/-- A listed key reads as its entry. -/
theorem get_of_mem {d : Nat → α} {t : Tab α} (h : t.Pairwise (fun a b => a.1 < b.1)) {e : Nat × α} (he : e ∈ t) :
    get d t e.1 = e.2 := by
  induction t with
  | nil => cases he
  | cons x r ih =>
    obtain ⟨j, w⟩ := x
    rcases List.mem_cons.1 he with rfl | he'
    · simp [get]
    · have := (List.pairwise_cons.1 h).1 e he'
      have hne : j ≠ e.1 := by simp at this; omega
      simp [get, hne, ih (List.pairwise_cons.1 h).2 he']

end Tab

/-- A read after a write of one byte. -/
theorem Mem.read_write (m : Mem) (a b : Nat) (v : Byte) : Mem.read (Mem.write m a v) b = if b = a then v else Mem.read m b :=
  Tab.get_set _ _ _ _ _

@[simp] theorem Mem.read_write_self (m : Mem) (a : Nat) (v : Byte) : Mem.read (Mem.write m a v) a = v := by
  simp [Mem.read_write]

/-- A write of one byte keeps the canonical form. -/
theorem Mem.wf_write (m : Mem) (a : Nat) (v : Byte) (h : m.wf = true) : (m.write a v).wf = true := Tab.wf_set _ _ _ _ h

/-- Clearing a range of bytes keeps the canonical form. -/
theorem Mem.wf_clearRange (m : Mem) (lo hi : Nat) (h : m.wf = true) : Mem.wf (Tab.clearRange m lo hi) = true :=
  Tab.wf_clearRange _ _ _ _ h

@[simp] theorem Mem.wf_nil : Mem.wf [] = true := rfl

end Sys2Proof
end

