-- ==== Sys2Proof/Laws/Regs.lean ====
section
/-! SUPPORT. The register file: a read after a write, a field after a write of it, other registers and fields unchanged. -/

namespace Sys2Proof.Machine

/-! ## Bit fields of a number -/

/-- Bits outside the field written are unchanged, and the field reads as written. -/
theorem bitsN_lt (v hi lo : Nat) : bitsN v hi lo < 2 ^ (hi + 1 - lo) := Nat.mod_lt _ (by positivity)

/-- The number with the field [hi:lo] replaced, as three parts: above, the field, below. -/
theorem replace_eq (old hi lo v : Nat) (h : lo ≤ hi) :
    old - bitsN old hi lo * 2 ^ lo + v % 2 ^ (hi + 1 - lo) * 2 ^ lo =
      (old / 2 ^ (hi + 1) * 2 ^ (hi + 1 - lo) + v % 2 ^ (hi + 1 - lo)) * 2 ^ lo + old % 2 ^ lo := by
  have hp : 2 ^ (hi + 1) = 2 ^ lo * 2 ^ (hi + 1 - lo) := by rw [← pow_add]; congr 1; omega
  have e1 : old = 2 ^ lo * (old / 2 ^ lo) + old % 2 ^ lo := (Nat.div_add_mod old (2 ^ lo)).symm
  have e2 : old / 2 ^ lo = 2 ^ (hi + 1 - lo) * (old / 2 ^ (hi + 1)) + bitsN old hi lo := by
    unfold bitsN
    rw [hp, ← Nat.div_div_eq_div_mul]
    exact (Nat.div_add_mod _ _).symm
  generalize bitsN old hi lo = b at *
  generalize old / 2 ^ (hi + 1) = q at *
  generalize old / 2 ^ lo = r at *
  generalize old % 2 ^ lo = z at *
  generalize v % 2 ^ (hi + 1 - lo) = w at *
  have : old - b * 2 ^ lo = 2 ^ lo * (2 ^ (hi + 1 - lo) * q) + z := by
    rw [e1, e2]
    have : 2 ^ lo * (2 ^ (hi + 1 - lo) * q + b) + z = (2 ^ lo * (2 ^ (hi + 1 - lo) * q) + z) + b * 2 ^ lo := by ring
    rw [this, Nat.add_sub_cancel]
  rw [this]; ring

namespace Mach

/-! ## Words -/

/-- A register reads as the word stored in it. -/
@[simp] theorem rd_wr_self (m : Mach) (a : Nat) (w : Word) : (m.wr a w).rd a = w := Tab.get_set_self _ _ _ _

/-- Storing one register leaves every other alone. -/
theorem rd_wr_ne (m : Mach) {a b : Nat} (w : Word) (h : b ≠ a) : (m.wr a w).rd b = m.rd b := Tab.get_set_ne _ _ _ h

theorem rd_wr (m : Mach) (a b : Nat) (w : Word) : (m.wr a w).rd b = if b = a then w else m.rd b := Tab.get_set _ _ _ _ _

/-- Writing a field leaves every other register alone. -/
theorem rd_put_ne (m : Mach) (f : Fld) (v : Nat) {b : Nat} (h : b ≠ f.a) : (m.put f v).rd b = m.rd b := rd_wr_ne _ _ h

/-- The word of a register after a write of one of its fields, as a number. -/
theorem rd_put_toNat (m : Mach) (f : Fld) (v : Nat) (h1 : f.lo ≤ f.hi) (h2 : f.hi < 32) :
    ((m.put f v).rd f.a).toNat =
      ((m.rd f.a).toNat / 2 ^ (f.hi + 1) * 2 ^ (f.hi + 1 - f.lo) + v % 2 ^ (f.hi + 1 - f.lo)) * 2 ^ f.lo +
        (m.rd f.a).toNat % 2 ^ f.lo := by
  unfold put
  rw [rd_wr_self, BitVec.toNat_ofNat, replace_eq _ _ _ _ h1]
  apply Nat.mod_eq_of_lt
  have hw : v % 2 ^ (f.hi + 1 - f.lo) < 2 ^ (f.hi + 1 - f.lo) := Nat.mod_lt _ (by positivity)
  have hz : (m.rd f.a).toNat % 2 ^ f.lo < 2 ^ f.lo := Nat.mod_lt _ (by positivity)
  have hq : (m.rd f.a).toNat / 2 ^ (f.hi + 1) < 2 ^ (31 - f.hi) := by
    rw [Nat.div_lt_iff_lt_mul (by positivity), ← pow_add]
    have : 31 - f.hi + (f.hi + 1) = 32 := by omega
    rw [this]; exact (m.rd f.a).isLt
  generalize (m.rd f.a).toNat / 2 ^ (f.hi + 1) = q at *
  generalize (m.rd f.a).toNat % 2 ^ f.lo = z at *
  generalize v % 2 ^ (f.hi + 1 - f.lo) = w at *
  have e : 2 ^ 32 = 2 ^ (31 - f.hi) * 2 ^ (f.hi + 1 - f.lo) * 2 ^ f.lo := by
    rw [← pow_add, ← pow_add]; congr 1; omega
  rw [e]
  calc (q * 2 ^ (f.hi + 1 - f.lo) + w) * 2 ^ f.lo + z
      < (q * 2 ^ (f.hi + 1 - f.lo) + w) * 2 ^ f.lo + 2 ^ f.lo := by omega
    _ = (q * 2 ^ (f.hi + 1 - f.lo) + w + 1) * 2 ^ f.lo := by ring
    _ ≤ ((q + 1) * 2 ^ (f.hi + 1 - f.lo)) * 2 ^ f.lo := by
        apply Nat.mul_le_mul_right; rw [Nat.add_mul]; omega
    _ ≤ _ := by
        apply Nat.mul_le_mul_right; apply Nat.mul_le_mul_right; omega

/-- A field reads as written, at its width. -/
theorem g_put_self (m : Mach) (f : Fld) (v : Nat) (h1 : f.lo ≤ f.hi) (h2 : f.hi < 32) :
    (m.put f v).g f = v % 2 ^ (f.hi + 1 - f.lo) := by
  unfold g
  rw [rd_put_toNat m f v h1 h2]
  unfold bitsN
  have hz : (m.rd f.a).toNat % 2 ^ f.lo < 2 ^ f.lo := Nat.mod_lt _ (by positivity)
  rw [mul_comm _ (2 ^ f.lo), Nat.mul_add_div (by positivity), Nat.div_eq_of_lt hz, Nat.add_zero,
    Nat.mul_add_mod_self_right, Nat.mod_mod]

/-- A field of another register is unchanged. -/
theorem g_put_ne (m : Mach) (f e : Fld) (v : Nat) (h : e.a ≠ f.a) : (m.put f v).g e = m.g e := by
  unfold g; rw [rd_put_ne m f v h]

/-- A field of the same register above the one written is unchanged. -/
theorem g_put_above (m : Mach) (f e : Fld) (v : Nat) (ha : e.a = f.a) (h1 : f.lo ≤ f.hi) (h2 : f.hi < 32) (h : f.hi < e.lo) :
    (m.put f v).g e = m.g e := by
  unfold g
  rw [ha, rd_put_toNat m f v h1 h2]
  unfold bitsN
  congr 1
  have hp : ∀ x : Nat, x / 2 ^ e.lo = x / 2 ^ (f.hi + 1) / 2 ^ (e.lo - (f.hi + 1)) := by
    intro x; rw [Nat.div_div_eq_div_mul, ← pow_add]; congr 2; omega
  rw [hp, hp (m.rd f.a).toNat]
  congr 1
  have hw : v % 2 ^ (f.hi + 1 - f.lo) < 2 ^ (f.hi + 1 - f.lo) := Nat.mod_lt _ (by positivity)
  have hz : (m.rd f.a).toNat % 2 ^ f.lo < 2 ^ f.lo := Nat.mod_lt _ (by positivity)
  have e2 : 2 ^ (f.hi + 1) = 2 ^ f.lo * 2 ^ (f.hi + 1 - f.lo) := by rw [← pow_add]; congr 1; omega
  conv_lhs => rw [e2, ← Nat.div_div_eq_div_mul, mul_comm _ (2 ^ f.lo), Nat.mul_add_div (by positivity), Nat.div_eq_of_lt hz, Nat.add_zero]
  rw [mul_comm, Nat.mul_add_div (by positivity), Nat.div_eq_of_lt hw, Nat.add_zero, ← e2]

/-- A field of the same register below the one written is unchanged. -/
theorem g_put_below (m : Mach) (f e : Fld) (v : Nat) (ha : e.a = f.a) (h1 : f.lo ≤ f.hi) (h2 : f.hi < 32) (he : e.lo ≤ e.hi)
    (h : e.hi < f.lo) : (m.put f v).g e = m.g e := by
  unfold g
  rw [ha, rd_put_toNat m f v h1 h2]
  unfold bitsN
  have key : ∀ x : Nat, x / 2 ^ e.lo % 2 ^ (e.hi + 1 - e.lo) = x % 2 ^ f.lo / 2 ^ e.lo % 2 ^ (e.hi + 1 - e.lo) := by
    intro x
    have hp : 2 ^ f.lo = 2 ^ e.lo * (2 ^ (e.hi + 1 - e.lo) * 2 ^ (f.lo - (e.hi + 1))) := by
      rw [← pow_add, ← pow_add]; congr 1; omega
    rw [hp, Nat.mod_mul_right_div_self, Nat.mod_mul_right_mod]
  rw [key, key (m.rd f.a).toNat]
  congr 2
  rw [Nat.mul_add_mod_self_right, Nat.mod_mod]

/-- Setting a one-bit field makes it 1. -/
theorem g_set1 (m : Mach) (f : Fld) (h1 : f.lo = f.hi) (h2 : f.hi < 32) : (m.set1 f).g f = 1 := by
  unfold set1
  rw [g_put_self m f 1 (by omega) h2, h1]
  norm_num

/-- Clearing a field makes it 0. -/
theorem g_clr (m : Mach) (f : Fld) (h1 : f.lo ≤ f.hi) (h2 : f.hi < 32) : (m.clr f).g f = 0 := by
  unfold clr
  rw [g_put_self m f 0 h1 h2, Nat.zero_mod]

/-- A counter counts one, at its width. -/
theorem g_inc (m : Mach) (f : Fld) (h1 : f.lo ≤ f.hi) (h2 : f.hi < 32) :
    (m.inc f).g f = (m.g f + 1) % 2 ^ (f.hi + 1 - f.lo) := by
  unfold inc addTo
  exact g_put_self m f _ h1 h2

/-- A write of a register or a field changes the register file only. -/
theorem wr_eq (m : Mach) (a : Nat) (w : Word) : m.wr a w = { m with regs := (m.wr a w).regs } := rfl
theorem put_eq (m : Mach) (f : Fld) (v : Nat) : m.put f v = { m with regs := (m.put f v).regs } := rfl

/-- Every write keeps the register file in canonical form. -/
theorem wf_wr (m : Mach) (a : Nat) (w : Word) (h : Tab.wf regReset m.regs = true) : Tab.wf regReset (m.wr a w).regs = true :=
  Tab.wf_set _ _ _ _ h

theorem wf_put (m : Mach) (f : Fld) (v : Nat) (h : Tab.wf regReset m.regs = true) : Tab.wf regReset (m.put f v).regs = true :=
  wf_wr _ _ _ h

/-- A selection from a table whose entries keep their keys and are not the unlisted value is in canonical form. -/
theorem canon_filterMap {α : Type} {d : Nat → α} {t : Tab α} (h : Tab.Canon d t) (f : Nat × α → Option (Nat × α))
    (hk : ∀ e x, f e = some x → x.1 = e.1) (hv : ∀ e ∈ t, ∀ x, f e = some x → x.2 ≠ d x.1) : Tab.Canon d (t.filterMap f) := by
  refine ⟨?_, ?_⟩
  · refine List.pairwise_filterMap.2 (h.1.imp ?_)
    intro a b hab x hx y hy
    rw [hk a x hx, hk b y hy]; exact hab
  · intro x hx
    obtain ⟨e, he, hfe⟩ := List.mem_filterMap.1 hx
    exact hv e he x hfe

/-- A reset of a block's registers keeps the canonical form. -/
theorem wf_resetRegs (m : Mach) (lo hi : Nat) (k : Bool) (h : Tab.wf regReset m.regs = true) :
    Tab.wf regReset (m.resetRegs lo hi k).regs = true := by
  rw [Tab.wf_iff] at h ⊢
  refine canon_filterMap h _ ?_ ?_
  · intro e x hx
    dsimp only at hx
    split at hx
    · split at hx
      · split at hx
        · split at hx
          · cases hx
          · cases hx; rfl
        · cases hx
      · cases hx
    · cases hx; rfl
  · intro e he x hx
    dsimp only at hx
    split at hx
    · split at hx
      · split at hx
        · split at hx
          · cases hx
          · cases hx; assumption
        · cases hx
      · cases hx
    · cases hx; exact h.2 e he

/-! ## Two-word values -/

/-- The low word of a 64-bit value that was stored. -/
theorem rd_put64_lo (m : Mach) {lo hi : Nat} (v : Int) (h : lo ≠ hi) :
    (m.put64 lo hi v).rd lo = BitVec.ofNat 32 (toBits 64 v) := by
  unfold put64; rw [rd_wr_ne _ _ h, rd_wr_self]

/-- The high word of a 64-bit value that was stored. -/
theorem rd_put64_hi (m : Mach) (lo hi : Nat) (v : Int) :
    (m.put64 lo hi v).rd hi = BitVec.ofNat 32 (toBits 64 v / 2 ^ 32) := by
  unfold put64; rw [rd_wr_self]

theorem toBits_lt (w : Nat) (v : Int) : toBits w v < 2 ^ w := by
  unfold toBits
  have h0 : ((2 ^ w : Nat) : Int) ≠ 0 := by positivity
  have h1 := Int.emod_nonneg v h0
  have h2 := Int.emod_lt_of_pos v (b := ((2 ^ w : Nat) : Int)) (by positivity)
  omega

/-- A stored 64-bit value reads back modulo 2^64. -/
theorem g64_put64 (m : Mach) {lo hi : Nat} (v : Int) (h : lo ≠ hi) : (m.put64 lo hi v).g64 lo hi = toBits 64 v := by
  unfold g64
  rw [rd_put64_lo m v h, rd_put64_hi]
  have := toBits_lt 64 v
  simp only [BitVec.toNat_ofNat]
  omega

/-- Storing a 64-bit value leaves every other register alone. -/
theorem rd_put64_ne (m : Mach) {lo hi b : Nat} (v : Int) (h1 : b ≠ lo) (h2 : b ≠ hi) : (m.put64 lo hi v).rd b = m.rd b := by
  unfold put64; rw [rd_wr_ne _ _ h2, rd_wr_ne _ _ h1]

end Mach

end Sys2Proof.Machine
end

