-- ==== Sys2Proof/Laws/State.lean ====
section
/-! SUPPORT. What each named update of State changes, and that it changes nothing else: one lemma per field and update. -/

namespace Sys2Proof.Machine

/-! ## Vectors -/

theorem vmod_get {α : Type} {n : Nat} (v : Vector α n) (i j : Fin n) (f : α → α) :
    (vmod v i f).get j = if j = i then f (v.get i) else v.get j := by
  have e : ∀ w : Vector α n, ∀ k : Fin n, w.get k = w[k.1] := fun _ _ => rfl
  rw [e, e, vmod, Vector.getElem_set]
  by_cases h : j = i
  · subst h; simp [e]
  · have : (i : Nat) ≠ j := fun c => h (Fin.ext c.symm)
    simp [h, this, e]

@[simp] theorem vmod_get_self {α : Type} {n : Nat} (v : Vector α n) (i : Fin n) (f : α → α) : (vmod v i f).get i = f (v.get i) := by
  simp [vmod_get]

theorem vmod_get_ne {α : Type} {n : Nat} (v : Vector α n) {i j : Fin n} (f : α → α) (h : j ≠ i) : (vmod v i f).get j = v.get j := by
  simp [vmod_get, h]

theorem vput_get {α : Type} {n : Nat} (v : Vector α n) (i j : Fin n) (a : α) :
    (vput v i a).get j = if j = i then a else v.get j := by
  have : vput v i a = vmod v i (fun _ => a) := rfl
  rw [this, vmod_get]

@[simp] theorem vput_get_self {α : Type} {n : Nat} (v : Vector α n) (i : Fin n) (a : α) : (vput v i a).get i = a := by
  simp [vput_get]

namespace Mach

/-! ## The updates of Ops.lean, field by field -/

@[simp] theorem wr_chip (m : Mach) (a : Nat) (w : Word) : (m.wr a w).chip = m.chip := rfl
@[simp] theorem wr_regs (m : Mach) (a : Nat) (w : Word) : (m.wr a w).regs = Tab.set regReset m.regs a w := rfl
@[simp] theorem wr_time (m : Mach) (a : Nat) (w : Word) : (m.wr a w).time = m.time := rfl
@[simp] theorem wr_tick (m : Mach) (a : Nat) (w : Word) : (m.wr a w).tick = m.tick := rfl
@[simp] theorem wr_port (m : Mach) (a : Nat) (w : Word) : (m.wr a w).port = m.port := rfl
@[simp] theorem wr_fe (m : Mach) (a : Nat) (w : Word) : (m.wr a w).fe = m.fe := rfl
@[simp] theorem wr_eng (m : Mach) (a : Nat) (w : Word) : (m.wr a w).eng = m.eng := rfl
@[simp] theorem wr_tleq (m : Mach) (a : Nat) (w : Word) : (m.wr a w).tleq = m.tleq := rfl
@[simp] theorem wr_tle (m : Mach) (a : Nat) (w : Word) : (m.wr a w).tle = m.tle := rfl
@[simp] theorem wr_heldDesc (m : Mach) (a : Nat) (w : Word) : (m.wr a w).heldDesc = m.heldDesc := rfl
@[simp] theorem wr_patchNext (m : Mach) (a : Nat) (w : Word) : (m.wr a w).patchNext = m.patchNext := rfl
@[simp] theorem wr_cache (m : Mach) (a : Nat) (w : Word) : (m.wr a w).cache = m.cache := rfl
@[simp] theorem wr_pops (m : Mach) (a : Nat) (w : Word) : (m.wr a w).pops = m.pops := rfl
@[simp] theorem wr_spikes (m : Mach) (a : Nat) (w : Word) : (m.wr a w).spikes = m.spikes := rfl
@[simp] theorem wr_images (m : Mach) (a : Nat) (w : Word) : (m.wr a w).images = m.images := rfl
@[simp] theorem wr_enc (m : Mach) (a : Nat) (w : Word) : (m.wr a w).enc = m.enc := rfl
@[simp] theorem wr_imu (m : Mach) (a : Nat) (w : Word) : (m.wr a w).imu = m.imu := rfl
@[simp] theorem wr_fus (m : Mach) (a : Nat) (w : Word) : (m.wr a w).fus = m.fus := rfl
@[simp] theorem wr_jnl (m : Mach) (a : Nat) (w : Word) : (m.wr a w).jnl = m.jnl := rfl
@[simp] theorem wr_nvs (m : Mach) (a : Nat) (w : Word) : (m.wr a w).nvs = m.nvs := rfl
@[simp] theorem wr_led (m : Mach) (a : Nat) (w : Word) : (m.wr a w).led = m.led := rfl
@[simp] theorem wr_lvl (m : Mach) (a : Nat) (w : Word) : (m.wr a w).lvl = m.lvl := rfl
@[simp] theorem wr_sleep (m : Mach) (a : Nat) (w : Word) : (m.wr a w).sleep = m.sleep := rfl
@[simp] theorem wr_fn (m : Mach) (a : Nat) (w : Word) : (m.wr a w).fn = m.fn := rfl
@[simp] theorem wr_own (m : Mach) (a : Nat) (w : Word) : (m.wr a w).own = m.own := rfl
@[simp] theorem wr_mgt (m : Mach) (a : Nat) (w : Word) : (m.wr a w).mgt = m.mgt := rfl
@[simp] theorem wr_mgtSci (m : Mach) (a : Nat) (w : Word) : (m.wr a w).mgtSci = m.mgtSci := rfl
@[simp] theorem wr_net (m : Mach) (a : Nat) (w : Word) : (m.wr a w).net = m.net := rfl
@[simp] theorem wr_link (m : Mach) (a : Nat) (w : Word) : (m.wr a w).link = m.link := rfl
@[simp] theorem wr_rst (m : Mach) (a : Nat) (w : Word) : (m.wr a w).rst = m.rst := rfl
@[simp] theorem wr_dram (m : Mach) (a : Nat) (w : Word) : (m.wr a w).dram = m.dram := rfl
@[simp] theorem wr_ueLines (m : Mach) (a : Nat) (w : Word) : (m.wr a w).ueLines = m.ueLines := rfl
@[simp] theorem wr_draws (m : Mach) (a : Nat) (w : Word) : (m.wr a w).draws = m.draws := rfl
@[simp] theorem wr_out (m : Mach) (a : Nat) (w : Word) : (m.wr a w).out = m.out := rfl
@[simp] theorem put_chip (m : Mach) (x : Fld) (v : Nat) : (m.put x v).chip = m.chip := rfl
@[simp] theorem put_time (m : Mach) (x : Fld) (v : Nat) : (m.put x v).time = m.time := rfl
@[simp] theorem put_tick (m : Mach) (x : Fld) (v : Nat) : (m.put x v).tick = m.tick := rfl
@[simp] theorem put_port (m : Mach) (x : Fld) (v : Nat) : (m.put x v).port = m.port := rfl
@[simp] theorem put_fe (m : Mach) (x : Fld) (v : Nat) : (m.put x v).fe = m.fe := rfl
@[simp] theorem put_eng (m : Mach) (x : Fld) (v : Nat) : (m.put x v).eng = m.eng := rfl
@[simp] theorem put_tleq (m : Mach) (x : Fld) (v : Nat) : (m.put x v).tleq = m.tleq := rfl
@[simp] theorem put_tle (m : Mach) (x : Fld) (v : Nat) : (m.put x v).tle = m.tle := rfl
@[simp] theorem put_heldDesc (m : Mach) (x : Fld) (v : Nat) : (m.put x v).heldDesc = m.heldDesc := rfl
@[simp] theorem put_patchNext (m : Mach) (x : Fld) (v : Nat) : (m.put x v).patchNext = m.patchNext := rfl
@[simp] theorem put_cache (m : Mach) (x : Fld) (v : Nat) : (m.put x v).cache = m.cache := rfl
@[simp] theorem put_pops (m : Mach) (x : Fld) (v : Nat) : (m.put x v).pops = m.pops := rfl
@[simp] theorem put_spikes (m : Mach) (x : Fld) (v : Nat) : (m.put x v).spikes = m.spikes := rfl
@[simp] theorem put_images (m : Mach) (x : Fld) (v : Nat) : (m.put x v).images = m.images := rfl
@[simp] theorem put_enc (m : Mach) (x : Fld) (v : Nat) : (m.put x v).enc = m.enc := rfl
@[simp] theorem put_imu (m : Mach) (x : Fld) (v : Nat) : (m.put x v).imu = m.imu := rfl
@[simp] theorem put_fus (m : Mach) (x : Fld) (v : Nat) : (m.put x v).fus = m.fus := rfl
@[simp] theorem put_jnl (m : Mach) (x : Fld) (v : Nat) : (m.put x v).jnl = m.jnl := rfl
@[simp] theorem put_nvs (m : Mach) (x : Fld) (v : Nat) : (m.put x v).nvs = m.nvs := rfl
@[simp] theorem put_led (m : Mach) (x : Fld) (v : Nat) : (m.put x v).led = m.led := rfl
@[simp] theorem put_lvl (m : Mach) (x : Fld) (v : Nat) : (m.put x v).lvl = m.lvl := rfl
@[simp] theorem put_sleep (m : Mach) (x : Fld) (v : Nat) : (m.put x v).sleep = m.sleep := rfl
@[simp] theorem put_fn (m : Mach) (x : Fld) (v : Nat) : (m.put x v).fn = m.fn := rfl
@[simp] theorem put_own (m : Mach) (x : Fld) (v : Nat) : (m.put x v).own = m.own := rfl
@[simp] theorem put_mgt (m : Mach) (x : Fld) (v : Nat) : (m.put x v).mgt = m.mgt := rfl
@[simp] theorem put_mgtSci (m : Mach) (x : Fld) (v : Nat) : (m.put x v).mgtSci = m.mgtSci := rfl
@[simp] theorem put_net (m : Mach) (x : Fld) (v : Nat) : (m.put x v).net = m.net := rfl
@[simp] theorem put_link (m : Mach) (x : Fld) (v : Nat) : (m.put x v).link = m.link := rfl
@[simp] theorem put_rst (m : Mach) (x : Fld) (v : Nat) : (m.put x v).rst = m.rst := rfl
@[simp] theorem put_dram (m : Mach) (x : Fld) (v : Nat) : (m.put x v).dram = m.dram := rfl
@[simp] theorem put_ueLines (m : Mach) (x : Fld) (v : Nat) : (m.put x v).ueLines = m.ueLines := rfl
@[simp] theorem put_draws (m : Mach) (x : Fld) (v : Nat) : (m.put x v).draws = m.draws := rfl
@[simp] theorem put_out (m : Mach) (x : Fld) (v : Nat) : (m.put x v).out = m.out := rfl
@[simp] theorem set1_chip (m : Mach) (x : Fld) : (m.set1 x).chip = m.chip := rfl
@[simp] theorem set1_time (m : Mach) (x : Fld) : (m.set1 x).time = m.time := rfl
@[simp] theorem set1_tick (m : Mach) (x : Fld) : (m.set1 x).tick = m.tick := rfl
@[simp] theorem set1_port (m : Mach) (x : Fld) : (m.set1 x).port = m.port := rfl
@[simp] theorem set1_fe (m : Mach) (x : Fld) : (m.set1 x).fe = m.fe := rfl
@[simp] theorem set1_eng (m : Mach) (x : Fld) : (m.set1 x).eng = m.eng := rfl
@[simp] theorem set1_tleq (m : Mach) (x : Fld) : (m.set1 x).tleq = m.tleq := rfl
@[simp] theorem set1_tle (m : Mach) (x : Fld) : (m.set1 x).tle = m.tle := rfl
@[simp] theorem set1_heldDesc (m : Mach) (x : Fld) : (m.set1 x).heldDesc = m.heldDesc := rfl
@[simp] theorem set1_patchNext (m : Mach) (x : Fld) : (m.set1 x).patchNext = m.patchNext := rfl
@[simp] theorem set1_cache (m : Mach) (x : Fld) : (m.set1 x).cache = m.cache := rfl
@[simp] theorem set1_pops (m : Mach) (x : Fld) : (m.set1 x).pops = m.pops := rfl
@[simp] theorem set1_spikes (m : Mach) (x : Fld) : (m.set1 x).spikes = m.spikes := rfl
@[simp] theorem set1_images (m : Mach) (x : Fld) : (m.set1 x).images = m.images := rfl
@[simp] theorem set1_enc (m : Mach) (x : Fld) : (m.set1 x).enc = m.enc := rfl
@[simp] theorem set1_imu (m : Mach) (x : Fld) : (m.set1 x).imu = m.imu := rfl
@[simp] theorem set1_fus (m : Mach) (x : Fld) : (m.set1 x).fus = m.fus := rfl
@[simp] theorem set1_jnl (m : Mach) (x : Fld) : (m.set1 x).jnl = m.jnl := rfl
@[simp] theorem set1_nvs (m : Mach) (x : Fld) : (m.set1 x).nvs = m.nvs := rfl
@[simp] theorem set1_led (m : Mach) (x : Fld) : (m.set1 x).led = m.led := rfl
@[simp] theorem set1_lvl (m : Mach) (x : Fld) : (m.set1 x).lvl = m.lvl := rfl
@[simp] theorem set1_sleep (m : Mach) (x : Fld) : (m.set1 x).sleep = m.sleep := rfl
@[simp] theorem set1_fn (m : Mach) (x : Fld) : (m.set1 x).fn = m.fn := rfl
@[simp] theorem set1_own (m : Mach) (x : Fld) : (m.set1 x).own = m.own := rfl
@[simp] theorem set1_mgt (m : Mach) (x : Fld) : (m.set1 x).mgt = m.mgt := rfl
@[simp] theorem set1_mgtSci (m : Mach) (x : Fld) : (m.set1 x).mgtSci = m.mgtSci := rfl
@[simp] theorem set1_net (m : Mach) (x : Fld) : (m.set1 x).net = m.net := rfl
@[simp] theorem set1_link (m : Mach) (x : Fld) : (m.set1 x).link = m.link := rfl
@[simp] theorem set1_rst (m : Mach) (x : Fld) : (m.set1 x).rst = m.rst := rfl
@[simp] theorem set1_dram (m : Mach) (x : Fld) : (m.set1 x).dram = m.dram := rfl
@[simp] theorem set1_ueLines (m : Mach) (x : Fld) : (m.set1 x).ueLines = m.ueLines := rfl
@[simp] theorem set1_draws (m : Mach) (x : Fld) : (m.set1 x).draws = m.draws := rfl
@[simp] theorem set1_out (m : Mach) (x : Fld) : (m.set1 x).out = m.out := rfl
@[simp] theorem clr_chip (m : Mach) (x : Fld) : (m.clr x).chip = m.chip := rfl
@[simp] theorem clr_time (m : Mach) (x : Fld) : (m.clr x).time = m.time := rfl
@[simp] theorem clr_tick (m : Mach) (x : Fld) : (m.clr x).tick = m.tick := rfl
@[simp] theorem clr_port (m : Mach) (x : Fld) : (m.clr x).port = m.port := rfl
@[simp] theorem clr_fe (m : Mach) (x : Fld) : (m.clr x).fe = m.fe := rfl
@[simp] theorem clr_eng (m : Mach) (x : Fld) : (m.clr x).eng = m.eng := rfl
@[simp] theorem clr_tleq (m : Mach) (x : Fld) : (m.clr x).tleq = m.tleq := rfl
@[simp] theorem clr_tle (m : Mach) (x : Fld) : (m.clr x).tle = m.tle := rfl
@[simp] theorem clr_heldDesc (m : Mach) (x : Fld) : (m.clr x).heldDesc = m.heldDesc := rfl
@[simp] theorem clr_patchNext (m : Mach) (x : Fld) : (m.clr x).patchNext = m.patchNext := rfl
@[simp] theorem clr_cache (m : Mach) (x : Fld) : (m.clr x).cache = m.cache := rfl
@[simp] theorem clr_pops (m : Mach) (x : Fld) : (m.clr x).pops = m.pops := rfl
@[simp] theorem clr_spikes (m : Mach) (x : Fld) : (m.clr x).spikes = m.spikes := rfl
@[simp] theorem clr_images (m : Mach) (x : Fld) : (m.clr x).images = m.images := rfl
@[simp] theorem clr_enc (m : Mach) (x : Fld) : (m.clr x).enc = m.enc := rfl
@[simp] theorem clr_imu (m : Mach) (x : Fld) : (m.clr x).imu = m.imu := rfl
@[simp] theorem clr_fus (m : Mach) (x : Fld) : (m.clr x).fus = m.fus := rfl
@[simp] theorem clr_jnl (m : Mach) (x : Fld) : (m.clr x).jnl = m.jnl := rfl
@[simp] theorem clr_nvs (m : Mach) (x : Fld) : (m.clr x).nvs = m.nvs := rfl
@[simp] theorem clr_led (m : Mach) (x : Fld) : (m.clr x).led = m.led := rfl
@[simp] theorem clr_lvl (m : Mach) (x : Fld) : (m.clr x).lvl = m.lvl := rfl
@[simp] theorem clr_sleep (m : Mach) (x : Fld) : (m.clr x).sleep = m.sleep := rfl
@[simp] theorem clr_fn (m : Mach) (x : Fld) : (m.clr x).fn = m.fn := rfl
@[simp] theorem clr_own (m : Mach) (x : Fld) : (m.clr x).own = m.own := rfl
@[simp] theorem clr_mgt (m : Mach) (x : Fld) : (m.clr x).mgt = m.mgt := rfl
@[simp] theorem clr_mgtSci (m : Mach) (x : Fld) : (m.clr x).mgtSci = m.mgtSci := rfl
@[simp] theorem clr_net (m : Mach) (x : Fld) : (m.clr x).net = m.net := rfl
@[simp] theorem clr_link (m : Mach) (x : Fld) : (m.clr x).link = m.link := rfl
@[simp] theorem clr_rst (m : Mach) (x : Fld) : (m.clr x).rst = m.rst := rfl
@[simp] theorem clr_dram (m : Mach) (x : Fld) : (m.clr x).dram = m.dram := rfl
@[simp] theorem clr_ueLines (m : Mach) (x : Fld) : (m.clr x).ueLines = m.ueLines := rfl
@[simp] theorem clr_draws (m : Mach) (x : Fld) : (m.clr x).draws = m.draws := rfl
@[simp] theorem clr_out (m : Mach) (x : Fld) : (m.clr x).out = m.out := rfl
@[simp] theorem addTo_chip (m : Mach) (x : Fld) (k : Nat) : (m.addTo x k).chip = m.chip := rfl
@[simp] theorem addTo_time (m : Mach) (x : Fld) (k : Nat) : (m.addTo x k).time = m.time := rfl
@[simp] theorem addTo_tick (m : Mach) (x : Fld) (k : Nat) : (m.addTo x k).tick = m.tick := rfl
@[simp] theorem addTo_port (m : Mach) (x : Fld) (k : Nat) : (m.addTo x k).port = m.port := rfl
@[simp] theorem addTo_fe (m : Mach) (x : Fld) (k : Nat) : (m.addTo x k).fe = m.fe := rfl
@[simp] theorem addTo_eng (m : Mach) (x : Fld) (k : Nat) : (m.addTo x k).eng = m.eng := rfl
@[simp] theorem addTo_tleq (m : Mach) (x : Fld) (k : Nat) : (m.addTo x k).tleq = m.tleq := rfl
@[simp] theorem addTo_tle (m : Mach) (x : Fld) (k : Nat) : (m.addTo x k).tle = m.tle := rfl
@[simp] theorem addTo_heldDesc (m : Mach) (x : Fld) (k : Nat) : (m.addTo x k).heldDesc = m.heldDesc := rfl
@[simp] theorem addTo_patchNext (m : Mach) (x : Fld) (k : Nat) : (m.addTo x k).patchNext = m.patchNext := rfl
@[simp] theorem addTo_cache (m : Mach) (x : Fld) (k : Nat) : (m.addTo x k).cache = m.cache := rfl
@[simp] theorem addTo_pops (m : Mach) (x : Fld) (k : Nat) : (m.addTo x k).pops = m.pops := rfl
@[simp] theorem addTo_spikes (m : Mach) (x : Fld) (k : Nat) : (m.addTo x k).spikes = m.spikes := rfl
@[simp] theorem addTo_images (m : Mach) (x : Fld) (k : Nat) : (m.addTo x k).images = m.images := rfl
@[simp] theorem addTo_enc (m : Mach) (x : Fld) (k : Nat) : (m.addTo x k).enc = m.enc := rfl
@[simp] theorem addTo_imu (m : Mach) (x : Fld) (k : Nat) : (m.addTo x k).imu = m.imu := rfl
@[simp] theorem addTo_fus (m : Mach) (x : Fld) (k : Nat) : (m.addTo x k).fus = m.fus := rfl
@[simp] theorem addTo_jnl (m : Mach) (x : Fld) (k : Nat) : (m.addTo x k).jnl = m.jnl := rfl
@[simp] theorem addTo_nvs (m : Mach) (x : Fld) (k : Nat) : (m.addTo x k).nvs = m.nvs := rfl
@[simp] theorem addTo_led (m : Mach) (x : Fld) (k : Nat) : (m.addTo x k).led = m.led := rfl
@[simp] theorem addTo_lvl (m : Mach) (x : Fld) (k : Nat) : (m.addTo x k).lvl = m.lvl := rfl
@[simp] theorem addTo_sleep (m : Mach) (x : Fld) (k : Nat) : (m.addTo x k).sleep = m.sleep := rfl
@[simp] theorem addTo_fn (m : Mach) (x : Fld) (k : Nat) : (m.addTo x k).fn = m.fn := rfl
@[simp] theorem addTo_own (m : Mach) (x : Fld) (k : Nat) : (m.addTo x k).own = m.own := rfl
@[simp] theorem addTo_mgt (m : Mach) (x : Fld) (k : Nat) : (m.addTo x k).mgt = m.mgt := rfl
@[simp] theorem addTo_mgtSci (m : Mach) (x : Fld) (k : Nat) : (m.addTo x k).mgtSci = m.mgtSci := rfl
@[simp] theorem addTo_net (m : Mach) (x : Fld) (k : Nat) : (m.addTo x k).net = m.net := rfl
@[simp] theorem addTo_link (m : Mach) (x : Fld) (k : Nat) : (m.addTo x k).link = m.link := rfl
@[simp] theorem addTo_rst (m : Mach) (x : Fld) (k : Nat) : (m.addTo x k).rst = m.rst := rfl
@[simp] theorem addTo_dram (m : Mach) (x : Fld) (k : Nat) : (m.addTo x k).dram = m.dram := rfl
@[simp] theorem addTo_ueLines (m : Mach) (x : Fld) (k : Nat) : (m.addTo x k).ueLines = m.ueLines := rfl
@[simp] theorem addTo_draws (m : Mach) (x : Fld) (k : Nat) : (m.addTo x k).draws = m.draws := rfl
@[simp] theorem addTo_out (m : Mach) (x : Fld) (k : Nat) : (m.addTo x k).out = m.out := rfl
@[simp] theorem inc_chip (m : Mach) (x : Fld) : (m.inc x).chip = m.chip := rfl
@[simp] theorem inc_time (m : Mach) (x : Fld) : (m.inc x).time = m.time := rfl
@[simp] theorem inc_tick (m : Mach) (x : Fld) : (m.inc x).tick = m.tick := rfl
@[simp] theorem inc_port (m : Mach) (x : Fld) : (m.inc x).port = m.port := rfl
@[simp] theorem inc_fe (m : Mach) (x : Fld) : (m.inc x).fe = m.fe := rfl
@[simp] theorem inc_eng (m : Mach) (x : Fld) : (m.inc x).eng = m.eng := rfl
@[simp] theorem inc_tleq (m : Mach) (x : Fld) : (m.inc x).tleq = m.tleq := rfl
@[simp] theorem inc_tle (m : Mach) (x : Fld) : (m.inc x).tle = m.tle := rfl
@[simp] theorem inc_heldDesc (m : Mach) (x : Fld) : (m.inc x).heldDesc = m.heldDesc := rfl
@[simp] theorem inc_patchNext (m : Mach) (x : Fld) : (m.inc x).patchNext = m.patchNext := rfl
@[simp] theorem inc_cache (m : Mach) (x : Fld) : (m.inc x).cache = m.cache := rfl
@[simp] theorem inc_pops (m : Mach) (x : Fld) : (m.inc x).pops = m.pops := rfl
@[simp] theorem inc_spikes (m : Mach) (x : Fld) : (m.inc x).spikes = m.spikes := rfl
@[simp] theorem inc_images (m : Mach) (x : Fld) : (m.inc x).images = m.images := rfl
@[simp] theorem inc_enc (m : Mach) (x : Fld) : (m.inc x).enc = m.enc := rfl
@[simp] theorem inc_imu (m : Mach) (x : Fld) : (m.inc x).imu = m.imu := rfl
@[simp] theorem inc_fus (m : Mach) (x : Fld) : (m.inc x).fus = m.fus := rfl
@[simp] theorem inc_jnl (m : Mach) (x : Fld) : (m.inc x).jnl = m.jnl := rfl
@[simp] theorem inc_nvs (m : Mach) (x : Fld) : (m.inc x).nvs = m.nvs := rfl
@[simp] theorem inc_led (m : Mach) (x : Fld) : (m.inc x).led = m.led := rfl
@[simp] theorem inc_lvl (m : Mach) (x : Fld) : (m.inc x).lvl = m.lvl := rfl
@[simp] theorem inc_sleep (m : Mach) (x : Fld) : (m.inc x).sleep = m.sleep := rfl
@[simp] theorem inc_fn (m : Mach) (x : Fld) : (m.inc x).fn = m.fn := rfl
@[simp] theorem inc_own (m : Mach) (x : Fld) : (m.inc x).own = m.own := rfl
@[simp] theorem inc_mgt (m : Mach) (x : Fld) : (m.inc x).mgt = m.mgt := rfl
@[simp] theorem inc_mgtSci (m : Mach) (x : Fld) : (m.inc x).mgtSci = m.mgtSci := rfl
@[simp] theorem inc_net (m : Mach) (x : Fld) : (m.inc x).net = m.net := rfl
@[simp] theorem inc_link (m : Mach) (x : Fld) : (m.inc x).link = m.link := rfl
@[simp] theorem inc_rst (m : Mach) (x : Fld) : (m.inc x).rst = m.rst := rfl
@[simp] theorem inc_dram (m : Mach) (x : Fld) : (m.inc x).dram = m.dram := rfl
@[simp] theorem inc_ueLines (m : Mach) (x : Fld) : (m.inc x).ueLines = m.ueLines := rfl
@[simp] theorem inc_draws (m : Mach) (x : Fld) : (m.inc x).draws = m.draws := rfl
@[simp] theorem inc_out (m : Mach) (x : Fld) : (m.inc x).out = m.out := rfl
@[simp] theorem put64_chip (m : Mach) (lo hi : Nat) (v : Int) : (m.put64 lo hi v).chip = m.chip := rfl
@[simp] theorem put64_time (m : Mach) (lo hi : Nat) (v : Int) : (m.put64 lo hi v).time = m.time := rfl
@[simp] theorem put64_tick (m : Mach) (lo hi : Nat) (v : Int) : (m.put64 lo hi v).tick = m.tick := rfl
@[simp] theorem put64_port (m : Mach) (lo hi : Nat) (v : Int) : (m.put64 lo hi v).port = m.port := rfl
@[simp] theorem put64_fe (m : Mach) (lo hi : Nat) (v : Int) : (m.put64 lo hi v).fe = m.fe := rfl
@[simp] theorem put64_eng (m : Mach) (lo hi : Nat) (v : Int) : (m.put64 lo hi v).eng = m.eng := rfl
@[simp] theorem put64_tleq (m : Mach) (lo hi : Nat) (v : Int) : (m.put64 lo hi v).tleq = m.tleq := rfl
@[simp] theorem put64_tle (m : Mach) (lo hi : Nat) (v : Int) : (m.put64 lo hi v).tle = m.tle := rfl
@[simp] theorem put64_heldDesc (m : Mach) (lo hi : Nat) (v : Int) : (m.put64 lo hi v).heldDesc = m.heldDesc := rfl
@[simp] theorem put64_patchNext (m : Mach) (lo hi : Nat) (v : Int) : (m.put64 lo hi v).patchNext = m.patchNext := rfl
@[simp] theorem put64_cache (m : Mach) (lo hi : Nat) (v : Int) : (m.put64 lo hi v).cache = m.cache := rfl
@[simp] theorem put64_pops (m : Mach) (lo hi : Nat) (v : Int) : (m.put64 lo hi v).pops = m.pops := rfl
@[simp] theorem put64_spikes (m : Mach) (lo hi : Nat) (v : Int) : (m.put64 lo hi v).spikes = m.spikes := rfl
@[simp] theorem put64_images (m : Mach) (lo hi : Nat) (v : Int) : (m.put64 lo hi v).images = m.images := rfl
@[simp] theorem put64_enc (m : Mach) (lo hi : Nat) (v : Int) : (m.put64 lo hi v).enc = m.enc := rfl
@[simp] theorem put64_imu (m : Mach) (lo hi : Nat) (v : Int) : (m.put64 lo hi v).imu = m.imu := rfl
@[simp] theorem put64_fus (m : Mach) (lo hi : Nat) (v : Int) : (m.put64 lo hi v).fus = m.fus := rfl
@[simp] theorem put64_jnl (m : Mach) (lo hi : Nat) (v : Int) : (m.put64 lo hi v).jnl = m.jnl := rfl
@[simp] theorem put64_nvs (m : Mach) (lo hi : Nat) (v : Int) : (m.put64 lo hi v).nvs = m.nvs := rfl
@[simp] theorem put64_led (m : Mach) (lo hi : Nat) (v : Int) : (m.put64 lo hi v).led = m.led := rfl
@[simp] theorem put64_lvl (m : Mach) (lo hi : Nat) (v : Int) : (m.put64 lo hi v).lvl = m.lvl := rfl
@[simp] theorem put64_sleep (m : Mach) (lo hi : Nat) (v : Int) : (m.put64 lo hi v).sleep = m.sleep := rfl
@[simp] theorem put64_fn (m : Mach) (lo hi : Nat) (v : Int) : (m.put64 lo hi v).fn = m.fn := rfl
@[simp] theorem put64_own (m : Mach) (lo hi : Nat) (v : Int) : (m.put64 lo hi v).own = m.own := rfl
@[simp] theorem put64_mgt (m : Mach) (lo hi : Nat) (v : Int) : (m.put64 lo hi v).mgt = m.mgt := rfl
@[simp] theorem put64_mgtSci (m : Mach) (lo hi : Nat) (v : Int) : (m.put64 lo hi v).mgtSci = m.mgtSci := rfl
@[simp] theorem put64_net (m : Mach) (lo hi : Nat) (v : Int) : (m.put64 lo hi v).net = m.net := rfl
@[simp] theorem put64_link (m : Mach) (lo hi : Nat) (v : Int) : (m.put64 lo hi v).link = m.link := rfl
@[simp] theorem put64_rst (m : Mach) (lo hi : Nat) (v : Int) : (m.put64 lo hi v).rst = m.rst := rfl
@[simp] theorem put64_dram (m : Mach) (lo hi : Nat) (v : Int) : (m.put64 lo hi v).dram = m.dram := rfl
@[simp] theorem put64_ueLines (m : Mach) (lo hi : Nat) (v : Int) : (m.put64 lo hi v).ueLines = m.ueLines := rfl
@[simp] theorem put64_draws (m : Mach) (lo hi : Nat) (v : Int) : (m.put64 lo hi v).draws = m.draws := rfl
@[simp] theorem put64_out (m : Mach) (lo hi : Nat) (v : Int) : (m.put64 lo hi v).out = m.out := rfl
@[simp] theorem resetRegs_chip (m : Mach) (lo hi : Nat) (k : Bool) : (m.resetRegs lo hi k).chip = m.chip := rfl
@[simp] theorem resetRegs_time (m : Mach) (lo hi : Nat) (k : Bool) : (m.resetRegs lo hi k).time = m.time := rfl
@[simp] theorem resetRegs_tick (m : Mach) (lo hi : Nat) (k : Bool) : (m.resetRegs lo hi k).tick = m.tick := rfl
@[simp] theorem resetRegs_port (m : Mach) (lo hi : Nat) (k : Bool) : (m.resetRegs lo hi k).port = m.port := rfl
@[simp] theorem resetRegs_fe (m : Mach) (lo hi : Nat) (k : Bool) : (m.resetRegs lo hi k).fe = m.fe := rfl
@[simp] theorem resetRegs_eng (m : Mach) (lo hi : Nat) (k : Bool) : (m.resetRegs lo hi k).eng = m.eng := rfl
@[simp] theorem resetRegs_tleq (m : Mach) (lo hi : Nat) (k : Bool) : (m.resetRegs lo hi k).tleq = m.tleq := rfl
@[simp] theorem resetRegs_tle (m : Mach) (lo hi : Nat) (k : Bool) : (m.resetRegs lo hi k).tle = m.tle := rfl
@[simp] theorem resetRegs_heldDesc (m : Mach) (lo hi : Nat) (k : Bool) : (m.resetRegs lo hi k).heldDesc = m.heldDesc := rfl
@[simp] theorem resetRegs_patchNext (m : Mach) (lo hi : Nat) (k : Bool) : (m.resetRegs lo hi k).patchNext = m.patchNext := rfl
@[simp] theorem resetRegs_cache (m : Mach) (lo hi : Nat) (k : Bool) : (m.resetRegs lo hi k).cache = m.cache := rfl
@[simp] theorem resetRegs_pops (m : Mach) (lo hi : Nat) (k : Bool) : (m.resetRegs lo hi k).pops = m.pops := rfl
@[simp] theorem resetRegs_spikes (m : Mach) (lo hi : Nat) (k : Bool) : (m.resetRegs lo hi k).spikes = m.spikes := rfl
@[simp] theorem resetRegs_images (m : Mach) (lo hi : Nat) (k : Bool) : (m.resetRegs lo hi k).images = m.images := rfl
@[simp] theorem resetRegs_enc (m : Mach) (lo hi : Nat) (k : Bool) : (m.resetRegs lo hi k).enc = m.enc := rfl
@[simp] theorem resetRegs_imu (m : Mach) (lo hi : Nat) (k : Bool) : (m.resetRegs lo hi k).imu = m.imu := rfl
@[simp] theorem resetRegs_fus (m : Mach) (lo hi : Nat) (k : Bool) : (m.resetRegs lo hi k).fus = m.fus := rfl
@[simp] theorem resetRegs_jnl (m : Mach) (lo hi : Nat) (k : Bool) : (m.resetRegs lo hi k).jnl = m.jnl := rfl
@[simp] theorem resetRegs_nvs (m : Mach) (lo hi : Nat) (k : Bool) : (m.resetRegs lo hi k).nvs = m.nvs := rfl
@[simp] theorem resetRegs_led (m : Mach) (lo hi : Nat) (k : Bool) : (m.resetRegs lo hi k).led = m.led := rfl
@[simp] theorem resetRegs_lvl (m : Mach) (lo hi : Nat) (k : Bool) : (m.resetRegs lo hi k).lvl = m.lvl := rfl
@[simp] theorem resetRegs_sleep (m : Mach) (lo hi : Nat) (k : Bool) : (m.resetRegs lo hi k).sleep = m.sleep := rfl
@[simp] theorem resetRegs_fn (m : Mach) (lo hi : Nat) (k : Bool) : (m.resetRegs lo hi k).fn = m.fn := rfl
@[simp] theorem resetRegs_own (m : Mach) (lo hi : Nat) (k : Bool) : (m.resetRegs lo hi k).own = m.own := rfl
@[simp] theorem resetRegs_mgt (m : Mach) (lo hi : Nat) (k : Bool) : (m.resetRegs lo hi k).mgt = m.mgt := rfl
@[simp] theorem resetRegs_mgtSci (m : Mach) (lo hi : Nat) (k : Bool) : (m.resetRegs lo hi k).mgtSci = m.mgtSci := rfl
@[simp] theorem resetRegs_net (m : Mach) (lo hi : Nat) (k : Bool) : (m.resetRegs lo hi k).net = m.net := rfl
@[simp] theorem resetRegs_link (m : Mach) (lo hi : Nat) (k : Bool) : (m.resetRegs lo hi k).link = m.link := rfl
@[simp] theorem resetRegs_rst (m : Mach) (lo hi : Nat) (k : Bool) : (m.resetRegs lo hi k).rst = m.rst := rfl
@[simp] theorem resetRegs_dram (m : Mach) (lo hi : Nat) (k : Bool) : (m.resetRegs lo hi k).dram = m.dram := rfl
@[simp] theorem resetRegs_ueLines (m : Mach) (lo hi : Nat) (k : Bool) : (m.resetRegs lo hi k).ueLines = m.ueLines := rfl
@[simp] theorem resetRegs_draws (m : Mach) (lo hi : Nat) (k : Bool) : (m.resetRegs lo hi k).draws = m.draws := rfl
@[simp] theorem resetRegs_out (m : Mach) (lo hi : Nat) (k : Bool) : (m.resetRegs lo hi k).out = m.out := rfl
@[simp] theorem emit_chip (m : Mach) (o : Out) : (m.emit o).chip = m.chip := rfl
@[simp] theorem emit_regs (m : Mach) (o : Out) : (m.emit o).regs = m.regs := rfl
@[simp] theorem emit_time (m : Mach) (o : Out) : (m.emit o).time = m.time := rfl
@[simp] theorem emit_tick (m : Mach) (o : Out) : (m.emit o).tick = m.tick := rfl
@[simp] theorem emit_port (m : Mach) (o : Out) : (m.emit o).port = m.port := rfl
@[simp] theorem emit_fe (m : Mach) (o : Out) : (m.emit o).fe = m.fe := rfl
@[simp] theorem emit_eng (m : Mach) (o : Out) : (m.emit o).eng = m.eng := rfl
@[simp] theorem emit_tleq (m : Mach) (o : Out) : (m.emit o).tleq = m.tleq := rfl
@[simp] theorem emit_tle (m : Mach) (o : Out) : (m.emit o).tle = m.tle := rfl
@[simp] theorem emit_heldDesc (m : Mach) (o : Out) : (m.emit o).heldDesc = m.heldDesc := rfl
@[simp] theorem emit_patchNext (m : Mach) (o : Out) : (m.emit o).patchNext = m.patchNext := rfl
@[simp] theorem emit_cache (m : Mach) (o : Out) : (m.emit o).cache = m.cache := rfl
@[simp] theorem emit_pops (m : Mach) (o : Out) : (m.emit o).pops = m.pops := rfl
@[simp] theorem emit_spikes (m : Mach) (o : Out) : (m.emit o).spikes = m.spikes := rfl
@[simp] theorem emit_images (m : Mach) (o : Out) : (m.emit o).images = m.images := rfl
@[simp] theorem emit_enc (m : Mach) (o : Out) : (m.emit o).enc = m.enc := rfl
@[simp] theorem emit_imu (m : Mach) (o : Out) : (m.emit o).imu = m.imu := rfl
@[simp] theorem emit_fus (m : Mach) (o : Out) : (m.emit o).fus = m.fus := rfl
@[simp] theorem emit_jnl (m : Mach) (o : Out) : (m.emit o).jnl = m.jnl := rfl
@[simp] theorem emit_nvs (m : Mach) (o : Out) : (m.emit o).nvs = m.nvs := rfl
@[simp] theorem emit_led (m : Mach) (o : Out) : (m.emit o).led = m.led := rfl
@[simp] theorem emit_lvl (m : Mach) (o : Out) : (m.emit o).lvl = m.lvl := rfl
@[simp] theorem emit_sleep (m : Mach) (o : Out) : (m.emit o).sleep = m.sleep := rfl
@[simp] theorem emit_fn (m : Mach) (o : Out) : (m.emit o).fn = m.fn := rfl
@[simp] theorem emit_own (m : Mach) (o : Out) : (m.emit o).own = m.own := rfl
@[simp] theorem emit_mgt (m : Mach) (o : Out) : (m.emit o).mgt = m.mgt := rfl
@[simp] theorem emit_mgtSci (m : Mach) (o : Out) : (m.emit o).mgtSci = m.mgtSci := rfl
@[simp] theorem emit_net (m : Mach) (o : Out) : (m.emit o).net = m.net := rfl
@[simp] theorem emit_link (m : Mach) (o : Out) : (m.emit o).link = m.link := rfl
@[simp] theorem emit_rst (m : Mach) (o : Out) : (m.emit o).rst = m.rst := rfl
@[simp] theorem emit_dram (m : Mach) (o : Out) : (m.emit o).dram = m.dram := rfl
@[simp] theorem emit_ueLines (m : Mach) (o : Out) : (m.emit o).ueLines = m.ueLines := rfl
@[simp] theorem emit_draws (m : Mach) (o : Out) : (m.emit o).draws = m.draws := rfl
@[simp] theorem emit_out (m : Mach) (o : Out) : (m.emit o).out = o :: m.out := rfl
@[simp] theorem emit_rd (m : Mach) (o : Out) (off : Nat) : (m.emit o).rd off = m.rd off := rfl
@[simp] theorem emit_g (m : Mach) (o : Out) (fd : Fld) : (m.emit o).g fd = m.g fd := rfl
@[simp] theorem emit_on (m : Mach) (o : Out) (fd : Fld) : (m.emit o).on fd = m.on fd := rfl
@[simp] theorem onPort_chip (m : Mach) (p : Fin 16) (f : Port → Port) : (m.onPort p f).chip = m.chip := rfl
@[simp] theorem onPort_regs (m : Mach) (p : Fin 16) (f : Port → Port) : (m.onPort p f).regs = m.regs := rfl
@[simp] theorem onPort_time (m : Mach) (p : Fin 16) (f : Port → Port) : (m.onPort p f).time = m.time := rfl
@[simp] theorem onPort_tick (m : Mach) (p : Fin 16) (f : Port → Port) : (m.onPort p f).tick = m.tick := rfl
@[simp] theorem onPort_port (m : Mach) (p : Fin 16) (f : Port → Port) : (m.onPort p f).port = vmod m.port p f := rfl
@[simp] theorem onPort_fe (m : Mach) (p : Fin 16) (f : Port → Port) : (m.onPort p f).fe = m.fe := rfl
@[simp] theorem onPort_eng (m : Mach) (p : Fin 16) (f : Port → Port) : (m.onPort p f).eng = m.eng := rfl
@[simp] theorem onPort_tleq (m : Mach) (p : Fin 16) (f : Port → Port) : (m.onPort p f).tleq = m.tleq := rfl
@[simp] theorem onPort_tle (m : Mach) (p : Fin 16) (f : Port → Port) : (m.onPort p f).tle = m.tle := rfl
@[simp] theorem onPort_heldDesc (m : Mach) (p : Fin 16) (f : Port → Port) : (m.onPort p f).heldDesc = m.heldDesc := rfl
@[simp] theorem onPort_patchNext (m : Mach) (p : Fin 16) (f : Port → Port) : (m.onPort p f).patchNext = m.patchNext := rfl
@[simp] theorem onPort_cache (m : Mach) (p : Fin 16) (f : Port → Port) : (m.onPort p f).cache = m.cache := rfl
@[simp] theorem onPort_pops (m : Mach) (p : Fin 16) (f : Port → Port) : (m.onPort p f).pops = m.pops := rfl
@[simp] theorem onPort_spikes (m : Mach) (p : Fin 16) (f : Port → Port) : (m.onPort p f).spikes = m.spikes := rfl
@[simp] theorem onPort_images (m : Mach) (p : Fin 16) (f : Port → Port) : (m.onPort p f).images = m.images := rfl
@[simp] theorem onPort_enc (m : Mach) (p : Fin 16) (f : Port → Port) : (m.onPort p f).enc = m.enc := rfl
@[simp] theorem onPort_imu (m : Mach) (p : Fin 16) (f : Port → Port) : (m.onPort p f).imu = m.imu := rfl
@[simp] theorem onPort_fus (m : Mach) (p : Fin 16) (f : Port → Port) : (m.onPort p f).fus = m.fus := rfl
@[simp] theorem onPort_jnl (m : Mach) (p : Fin 16) (f : Port → Port) : (m.onPort p f).jnl = m.jnl := rfl
@[simp] theorem onPort_nvs (m : Mach) (p : Fin 16) (f : Port → Port) : (m.onPort p f).nvs = m.nvs := rfl
@[simp] theorem onPort_led (m : Mach) (p : Fin 16) (f : Port → Port) : (m.onPort p f).led = m.led := rfl
@[simp] theorem onPort_lvl (m : Mach) (p : Fin 16) (f : Port → Port) : (m.onPort p f).lvl = m.lvl := rfl
@[simp] theorem onPort_sleep (m : Mach) (p : Fin 16) (f : Port → Port) : (m.onPort p f).sleep = m.sleep := rfl
@[simp] theorem onPort_fn (m : Mach) (p : Fin 16) (f : Port → Port) : (m.onPort p f).fn = m.fn := rfl
@[simp] theorem onPort_own (m : Mach) (p : Fin 16) (f : Port → Port) : (m.onPort p f).own = m.own := rfl
@[simp] theorem onPort_mgt (m : Mach) (p : Fin 16) (f : Port → Port) : (m.onPort p f).mgt = m.mgt := rfl
@[simp] theorem onPort_mgtSci (m : Mach) (p : Fin 16) (f : Port → Port) : (m.onPort p f).mgtSci = m.mgtSci := rfl
@[simp] theorem onPort_net (m : Mach) (p : Fin 16) (f : Port → Port) : (m.onPort p f).net = m.net := rfl
@[simp] theorem onPort_link (m : Mach) (p : Fin 16) (f : Port → Port) : (m.onPort p f).link = m.link := rfl
@[simp] theorem onPort_rst (m : Mach) (p : Fin 16) (f : Port → Port) : (m.onPort p f).rst = m.rst := rfl
@[simp] theorem onPort_dram (m : Mach) (p : Fin 16) (f : Port → Port) : (m.onPort p f).dram = m.dram := rfl
@[simp] theorem onPort_ueLines (m : Mach) (p : Fin 16) (f : Port → Port) : (m.onPort p f).ueLines = m.ueLines := rfl
@[simp] theorem onPort_draws (m : Mach) (p : Fin 16) (f : Port → Port) : (m.onPort p f).draws = m.draws := rfl
@[simp] theorem onPort_out (m : Mach) (p : Fin 16) (f : Port → Port) : (m.onPort p f).out = m.out := rfl
@[simp] theorem onPort_rd (m : Mach) (p : Fin 16) (f : Port → Port) (off : Nat) : (m.onPort p f).rd off = m.rd off := rfl
@[simp] theorem onPort_g (m : Mach) (p : Fin 16) (f : Port → Port) (fd : Fld) : (m.onPort p f).g fd = m.g fd := rfl
@[simp] theorem onPort_on (m : Mach) (p : Fin 16) (f : Port → Port) (fd : Fld) : (m.onPort p f).on fd = m.on fd := rfl
@[simp] theorem onFe_chip (m : Mach) (p : Fin 16) (f : Fe → Fe) : (m.onFe p f).chip = m.chip := rfl
@[simp] theorem onFe_regs (m : Mach) (p : Fin 16) (f : Fe → Fe) : (m.onFe p f).regs = m.regs := rfl
@[simp] theorem onFe_time (m : Mach) (p : Fin 16) (f : Fe → Fe) : (m.onFe p f).time = m.time := rfl
@[simp] theorem onFe_tick (m : Mach) (p : Fin 16) (f : Fe → Fe) : (m.onFe p f).tick = m.tick := rfl
@[simp] theorem onFe_port (m : Mach) (p : Fin 16) (f : Fe → Fe) : (m.onFe p f).port = m.port := rfl
@[simp] theorem onFe_fe (m : Mach) (p : Fin 16) (f : Fe → Fe) : (m.onFe p f).fe = vmod m.fe p f := rfl
@[simp] theorem onFe_eng (m : Mach) (p : Fin 16) (f : Fe → Fe) : (m.onFe p f).eng = m.eng := rfl
@[simp] theorem onFe_tleq (m : Mach) (p : Fin 16) (f : Fe → Fe) : (m.onFe p f).tleq = m.tleq := rfl
@[simp] theorem onFe_tle (m : Mach) (p : Fin 16) (f : Fe → Fe) : (m.onFe p f).tle = m.tle := rfl
@[simp] theorem onFe_heldDesc (m : Mach) (p : Fin 16) (f : Fe → Fe) : (m.onFe p f).heldDesc = m.heldDesc := rfl
@[simp] theorem onFe_patchNext (m : Mach) (p : Fin 16) (f : Fe → Fe) : (m.onFe p f).patchNext = m.patchNext := rfl
@[simp] theorem onFe_cache (m : Mach) (p : Fin 16) (f : Fe → Fe) : (m.onFe p f).cache = m.cache := rfl
@[simp] theorem onFe_pops (m : Mach) (p : Fin 16) (f : Fe → Fe) : (m.onFe p f).pops = m.pops := rfl
@[simp] theorem onFe_spikes (m : Mach) (p : Fin 16) (f : Fe → Fe) : (m.onFe p f).spikes = m.spikes := rfl
@[simp] theorem onFe_images (m : Mach) (p : Fin 16) (f : Fe → Fe) : (m.onFe p f).images = m.images := rfl
@[simp] theorem onFe_enc (m : Mach) (p : Fin 16) (f : Fe → Fe) : (m.onFe p f).enc = m.enc := rfl
@[simp] theorem onFe_imu (m : Mach) (p : Fin 16) (f : Fe → Fe) : (m.onFe p f).imu = m.imu := rfl
@[simp] theorem onFe_fus (m : Mach) (p : Fin 16) (f : Fe → Fe) : (m.onFe p f).fus = m.fus := rfl
@[simp] theorem onFe_jnl (m : Mach) (p : Fin 16) (f : Fe → Fe) : (m.onFe p f).jnl = m.jnl := rfl
@[simp] theorem onFe_nvs (m : Mach) (p : Fin 16) (f : Fe → Fe) : (m.onFe p f).nvs = m.nvs := rfl
@[simp] theorem onFe_led (m : Mach) (p : Fin 16) (f : Fe → Fe) : (m.onFe p f).led = m.led := rfl
@[simp] theorem onFe_lvl (m : Mach) (p : Fin 16) (f : Fe → Fe) : (m.onFe p f).lvl = m.lvl := rfl
@[simp] theorem onFe_sleep (m : Mach) (p : Fin 16) (f : Fe → Fe) : (m.onFe p f).sleep = m.sleep := rfl
@[simp] theorem onFe_fn (m : Mach) (p : Fin 16) (f : Fe → Fe) : (m.onFe p f).fn = m.fn := rfl
@[simp] theorem onFe_own (m : Mach) (p : Fin 16) (f : Fe → Fe) : (m.onFe p f).own = m.own := rfl
@[simp] theorem onFe_mgt (m : Mach) (p : Fin 16) (f : Fe → Fe) : (m.onFe p f).mgt = m.mgt := rfl
@[simp] theorem onFe_mgtSci (m : Mach) (p : Fin 16) (f : Fe → Fe) : (m.onFe p f).mgtSci = m.mgtSci := rfl
@[simp] theorem onFe_net (m : Mach) (p : Fin 16) (f : Fe → Fe) : (m.onFe p f).net = m.net := rfl
@[simp] theorem onFe_link (m : Mach) (p : Fin 16) (f : Fe → Fe) : (m.onFe p f).link = m.link := rfl
@[simp] theorem onFe_rst (m : Mach) (p : Fin 16) (f : Fe → Fe) : (m.onFe p f).rst = m.rst := rfl
@[simp] theorem onFe_dram (m : Mach) (p : Fin 16) (f : Fe → Fe) : (m.onFe p f).dram = m.dram := rfl
@[simp] theorem onFe_ueLines (m : Mach) (p : Fin 16) (f : Fe → Fe) : (m.onFe p f).ueLines = m.ueLines := rfl
@[simp] theorem onFe_draws (m : Mach) (p : Fin 16) (f : Fe → Fe) : (m.onFe p f).draws = m.draws := rfl
@[simp] theorem onFe_out (m : Mach) (p : Fin 16) (f : Fe → Fe) : (m.onFe p f).out = m.out := rfl
@[simp] theorem onFe_rd (m : Mach) (p : Fin 16) (f : Fe → Fe) (off : Nat) : (m.onFe p f).rd off = m.rd off := rfl
@[simp] theorem onFe_g (m : Mach) (p : Fin 16) (f : Fe → Fe) (fd : Fld) : (m.onFe p f).g fd = m.g fd := rfl
@[simp] theorem onFe_on (m : Mach) (p : Fin 16) (f : Fe → Fe) (fd : Fld) : (m.onFe p f).on fd = m.on fd := rfl
@[simp] theorem onEng_chip (m : Mach) (e : Fin 72) (f : Engine → Engine) : (m.onEng e f).chip = m.chip := rfl
@[simp] theorem onEng_regs (m : Mach) (e : Fin 72) (f : Engine → Engine) : (m.onEng e f).regs = m.regs := rfl
@[simp] theorem onEng_time (m : Mach) (e : Fin 72) (f : Engine → Engine) : (m.onEng e f).time = m.time := rfl
@[simp] theorem onEng_tick (m : Mach) (e : Fin 72) (f : Engine → Engine) : (m.onEng e f).tick = m.tick := rfl
@[simp] theorem onEng_port (m : Mach) (e : Fin 72) (f : Engine → Engine) : (m.onEng e f).port = m.port := rfl
@[simp] theorem onEng_fe (m : Mach) (e : Fin 72) (f : Engine → Engine) : (m.onEng e f).fe = m.fe := rfl
@[simp] theorem onEng_eng (m : Mach) (e : Fin 72) (f : Engine → Engine) : (m.onEng e f).eng = vmod m.eng e f := rfl
@[simp] theorem onEng_tleq (m : Mach) (e : Fin 72) (f : Engine → Engine) : (m.onEng e f).tleq = m.tleq := rfl
@[simp] theorem onEng_tle (m : Mach) (e : Fin 72) (f : Engine → Engine) : (m.onEng e f).tle = m.tle := rfl
@[simp] theorem onEng_heldDesc (m : Mach) (e : Fin 72) (f : Engine → Engine) : (m.onEng e f).heldDesc = m.heldDesc := rfl
@[simp] theorem onEng_patchNext (m : Mach) (e : Fin 72) (f : Engine → Engine) : (m.onEng e f).patchNext = m.patchNext := rfl
@[simp] theorem onEng_cache (m : Mach) (e : Fin 72) (f : Engine → Engine) : (m.onEng e f).cache = m.cache := rfl
@[simp] theorem onEng_pops (m : Mach) (e : Fin 72) (f : Engine → Engine) : (m.onEng e f).pops = m.pops := rfl
@[simp] theorem onEng_spikes (m : Mach) (e : Fin 72) (f : Engine → Engine) : (m.onEng e f).spikes = m.spikes := rfl
@[simp] theorem onEng_images (m : Mach) (e : Fin 72) (f : Engine → Engine) : (m.onEng e f).images = m.images := rfl
@[simp] theorem onEng_enc (m : Mach) (e : Fin 72) (f : Engine → Engine) : (m.onEng e f).enc = m.enc := rfl
@[simp] theorem onEng_imu (m : Mach) (e : Fin 72) (f : Engine → Engine) : (m.onEng e f).imu = m.imu := rfl
@[simp] theorem onEng_fus (m : Mach) (e : Fin 72) (f : Engine → Engine) : (m.onEng e f).fus = m.fus := rfl
@[simp] theorem onEng_jnl (m : Mach) (e : Fin 72) (f : Engine → Engine) : (m.onEng e f).jnl = m.jnl := rfl
@[simp] theorem onEng_nvs (m : Mach) (e : Fin 72) (f : Engine → Engine) : (m.onEng e f).nvs = m.nvs := rfl
@[simp] theorem onEng_led (m : Mach) (e : Fin 72) (f : Engine → Engine) : (m.onEng e f).led = m.led := rfl
@[simp] theorem onEng_lvl (m : Mach) (e : Fin 72) (f : Engine → Engine) : (m.onEng e f).lvl = m.lvl := rfl
@[simp] theorem onEng_sleep (m : Mach) (e : Fin 72) (f : Engine → Engine) : (m.onEng e f).sleep = m.sleep := rfl
@[simp] theorem onEng_fn (m : Mach) (e : Fin 72) (f : Engine → Engine) : (m.onEng e f).fn = m.fn := rfl
@[simp] theorem onEng_own (m : Mach) (e : Fin 72) (f : Engine → Engine) : (m.onEng e f).own = m.own := rfl
@[simp] theorem onEng_mgt (m : Mach) (e : Fin 72) (f : Engine → Engine) : (m.onEng e f).mgt = m.mgt := rfl
@[simp] theorem onEng_mgtSci (m : Mach) (e : Fin 72) (f : Engine → Engine) : (m.onEng e f).mgtSci = m.mgtSci := rfl
@[simp] theorem onEng_net (m : Mach) (e : Fin 72) (f : Engine → Engine) : (m.onEng e f).net = m.net := rfl
@[simp] theorem onEng_link (m : Mach) (e : Fin 72) (f : Engine → Engine) : (m.onEng e f).link = m.link := rfl
@[simp] theorem onEng_rst (m : Mach) (e : Fin 72) (f : Engine → Engine) : (m.onEng e f).rst = m.rst := rfl
@[simp] theorem onEng_dram (m : Mach) (e : Fin 72) (f : Engine → Engine) : (m.onEng e f).dram = m.dram := rfl
@[simp] theorem onEng_ueLines (m : Mach) (e : Fin 72) (f : Engine → Engine) : (m.onEng e f).ueLines = m.ueLines := rfl
@[simp] theorem onEng_draws (m : Mach) (e : Fin 72) (f : Engine → Engine) : (m.onEng e f).draws = m.draws := rfl
@[simp] theorem onEng_out (m : Mach) (e : Fin 72) (f : Engine → Engine) : (m.onEng e f).out = m.out := rfl
@[simp] theorem onEng_rd (m : Mach) (e : Fin 72) (f : Engine → Engine) (off : Nat) : (m.onEng e f).rd off = m.rd off := rfl
@[simp] theorem onEng_g (m : Mach) (e : Fin 72) (f : Engine → Engine) (fd : Fld) : (m.onEng e f).g fd = m.g fd := rfl
@[simp] theorem onEng_on (m : Mach) (e : Fin 72) (f : Engine → Engine) (fd : Fld) : (m.onEng e f).on fd = m.on fd := rfl
@[simp] theorem onEnc_chip (m : Mach) (n : Fin 4) (f : Encoder → Encoder) : (m.onEnc n f).chip = m.chip := rfl
@[simp] theorem onEnc_regs (m : Mach) (n : Fin 4) (f : Encoder → Encoder) : (m.onEnc n f).regs = m.regs := rfl
@[simp] theorem onEnc_time (m : Mach) (n : Fin 4) (f : Encoder → Encoder) : (m.onEnc n f).time = m.time := rfl
@[simp] theorem onEnc_tick (m : Mach) (n : Fin 4) (f : Encoder → Encoder) : (m.onEnc n f).tick = m.tick := rfl
@[simp] theorem onEnc_port (m : Mach) (n : Fin 4) (f : Encoder → Encoder) : (m.onEnc n f).port = m.port := rfl
@[simp] theorem onEnc_fe (m : Mach) (n : Fin 4) (f : Encoder → Encoder) : (m.onEnc n f).fe = m.fe := rfl
@[simp] theorem onEnc_eng (m : Mach) (n : Fin 4) (f : Encoder → Encoder) : (m.onEnc n f).eng = m.eng := rfl
@[simp] theorem onEnc_tleq (m : Mach) (n : Fin 4) (f : Encoder → Encoder) : (m.onEnc n f).tleq = m.tleq := rfl
@[simp] theorem onEnc_tle (m : Mach) (n : Fin 4) (f : Encoder → Encoder) : (m.onEnc n f).tle = m.tle := rfl
@[simp] theorem onEnc_heldDesc (m : Mach) (n : Fin 4) (f : Encoder → Encoder) : (m.onEnc n f).heldDesc = m.heldDesc := rfl
@[simp] theorem onEnc_patchNext (m : Mach) (n : Fin 4) (f : Encoder → Encoder) : (m.onEnc n f).patchNext = m.patchNext := rfl
@[simp] theorem onEnc_cache (m : Mach) (n : Fin 4) (f : Encoder → Encoder) : (m.onEnc n f).cache = m.cache := rfl
@[simp] theorem onEnc_pops (m : Mach) (n : Fin 4) (f : Encoder → Encoder) : (m.onEnc n f).pops = m.pops := rfl
@[simp] theorem onEnc_spikes (m : Mach) (n : Fin 4) (f : Encoder → Encoder) : (m.onEnc n f).spikes = m.spikes := rfl
@[simp] theorem onEnc_images (m : Mach) (n : Fin 4) (f : Encoder → Encoder) : (m.onEnc n f).images = m.images := rfl
@[simp] theorem onEnc_enc (m : Mach) (n : Fin 4) (f : Encoder → Encoder) : (m.onEnc n f).enc = vmod m.enc n f := rfl
@[simp] theorem onEnc_imu (m : Mach) (n : Fin 4) (f : Encoder → Encoder) : (m.onEnc n f).imu = m.imu := rfl
@[simp] theorem onEnc_fus (m : Mach) (n : Fin 4) (f : Encoder → Encoder) : (m.onEnc n f).fus = m.fus := rfl
@[simp] theorem onEnc_jnl (m : Mach) (n : Fin 4) (f : Encoder → Encoder) : (m.onEnc n f).jnl = m.jnl := rfl
@[simp] theorem onEnc_nvs (m : Mach) (n : Fin 4) (f : Encoder → Encoder) : (m.onEnc n f).nvs = m.nvs := rfl
@[simp] theorem onEnc_led (m : Mach) (n : Fin 4) (f : Encoder → Encoder) : (m.onEnc n f).led = m.led := rfl
@[simp] theorem onEnc_lvl (m : Mach) (n : Fin 4) (f : Encoder → Encoder) : (m.onEnc n f).lvl = m.lvl := rfl
@[simp] theorem onEnc_sleep (m : Mach) (n : Fin 4) (f : Encoder → Encoder) : (m.onEnc n f).sleep = m.sleep := rfl
@[simp] theorem onEnc_fn (m : Mach) (n : Fin 4) (f : Encoder → Encoder) : (m.onEnc n f).fn = m.fn := rfl
@[simp] theorem onEnc_own (m : Mach) (n : Fin 4) (f : Encoder → Encoder) : (m.onEnc n f).own = m.own := rfl
@[simp] theorem onEnc_mgt (m : Mach) (n : Fin 4) (f : Encoder → Encoder) : (m.onEnc n f).mgt = m.mgt := rfl
@[simp] theorem onEnc_mgtSci (m : Mach) (n : Fin 4) (f : Encoder → Encoder) : (m.onEnc n f).mgtSci = m.mgtSci := rfl
@[simp] theorem onEnc_net (m : Mach) (n : Fin 4) (f : Encoder → Encoder) : (m.onEnc n f).net = m.net := rfl
@[simp] theorem onEnc_link (m : Mach) (n : Fin 4) (f : Encoder → Encoder) : (m.onEnc n f).link = m.link := rfl
@[simp] theorem onEnc_rst (m : Mach) (n : Fin 4) (f : Encoder → Encoder) : (m.onEnc n f).rst = m.rst := rfl
@[simp] theorem onEnc_dram (m : Mach) (n : Fin 4) (f : Encoder → Encoder) : (m.onEnc n f).dram = m.dram := rfl
@[simp] theorem onEnc_ueLines (m : Mach) (n : Fin 4) (f : Encoder → Encoder) : (m.onEnc n f).ueLines = m.ueLines := rfl
@[simp] theorem onEnc_draws (m : Mach) (n : Fin 4) (f : Encoder → Encoder) : (m.onEnc n f).draws = m.draws := rfl
@[simp] theorem onEnc_out (m : Mach) (n : Fin 4) (f : Encoder → Encoder) : (m.onEnc n f).out = m.out := rfl
@[simp] theorem onEnc_rd (m : Mach) (n : Fin 4) (f : Encoder → Encoder) (off : Nat) : (m.onEnc n f).rd off = m.rd off := rfl
@[simp] theorem onEnc_g (m : Mach) (n : Fin 4) (f : Encoder → Encoder) (fd : Fld) : (m.onEnc n f).g fd = m.g fd := rfl
@[simp] theorem onEnc_on (m : Mach) (n : Fin 4) (f : Encoder → Encoder) (fd : Fld) : (m.onEnc n f).on fd = m.on fd := rfl
@[simp] theorem onImu_chip (m : Mach) (n : Fin 4) (f : Imu → Imu) : (m.onImu n f).chip = m.chip := rfl
@[simp] theorem onImu_regs (m : Mach) (n : Fin 4) (f : Imu → Imu) : (m.onImu n f).regs = m.regs := rfl
@[simp] theorem onImu_time (m : Mach) (n : Fin 4) (f : Imu → Imu) : (m.onImu n f).time = m.time := rfl
@[simp] theorem onImu_tick (m : Mach) (n : Fin 4) (f : Imu → Imu) : (m.onImu n f).tick = m.tick := rfl
@[simp] theorem onImu_port (m : Mach) (n : Fin 4) (f : Imu → Imu) : (m.onImu n f).port = m.port := rfl
@[simp] theorem onImu_fe (m : Mach) (n : Fin 4) (f : Imu → Imu) : (m.onImu n f).fe = m.fe := rfl
@[simp] theorem onImu_eng (m : Mach) (n : Fin 4) (f : Imu → Imu) : (m.onImu n f).eng = m.eng := rfl
@[simp] theorem onImu_tleq (m : Mach) (n : Fin 4) (f : Imu → Imu) : (m.onImu n f).tleq = m.tleq := rfl
@[simp] theorem onImu_tle (m : Mach) (n : Fin 4) (f : Imu → Imu) : (m.onImu n f).tle = m.tle := rfl
@[simp] theorem onImu_heldDesc (m : Mach) (n : Fin 4) (f : Imu → Imu) : (m.onImu n f).heldDesc = m.heldDesc := rfl
@[simp] theorem onImu_patchNext (m : Mach) (n : Fin 4) (f : Imu → Imu) : (m.onImu n f).patchNext = m.patchNext := rfl
@[simp] theorem onImu_cache (m : Mach) (n : Fin 4) (f : Imu → Imu) : (m.onImu n f).cache = m.cache := rfl
@[simp] theorem onImu_pops (m : Mach) (n : Fin 4) (f : Imu → Imu) : (m.onImu n f).pops = m.pops := rfl
@[simp] theorem onImu_spikes (m : Mach) (n : Fin 4) (f : Imu → Imu) : (m.onImu n f).spikes = m.spikes := rfl
@[simp] theorem onImu_images (m : Mach) (n : Fin 4) (f : Imu → Imu) : (m.onImu n f).images = m.images := rfl
@[simp] theorem onImu_enc (m : Mach) (n : Fin 4) (f : Imu → Imu) : (m.onImu n f).enc = m.enc := rfl
@[simp] theorem onImu_imu (m : Mach) (n : Fin 4) (f : Imu → Imu) : (m.onImu n f).imu = vmod m.imu n f := rfl
@[simp] theorem onImu_fus (m : Mach) (n : Fin 4) (f : Imu → Imu) : (m.onImu n f).fus = m.fus := rfl
@[simp] theorem onImu_jnl (m : Mach) (n : Fin 4) (f : Imu → Imu) : (m.onImu n f).jnl = m.jnl := rfl
@[simp] theorem onImu_nvs (m : Mach) (n : Fin 4) (f : Imu → Imu) : (m.onImu n f).nvs = m.nvs := rfl
@[simp] theorem onImu_led (m : Mach) (n : Fin 4) (f : Imu → Imu) : (m.onImu n f).led = m.led := rfl
@[simp] theorem onImu_lvl (m : Mach) (n : Fin 4) (f : Imu → Imu) : (m.onImu n f).lvl = m.lvl := rfl
@[simp] theorem onImu_sleep (m : Mach) (n : Fin 4) (f : Imu → Imu) : (m.onImu n f).sleep = m.sleep := rfl
@[simp] theorem onImu_fn (m : Mach) (n : Fin 4) (f : Imu → Imu) : (m.onImu n f).fn = m.fn := rfl
@[simp] theorem onImu_own (m : Mach) (n : Fin 4) (f : Imu → Imu) : (m.onImu n f).own = m.own := rfl
@[simp] theorem onImu_mgt (m : Mach) (n : Fin 4) (f : Imu → Imu) : (m.onImu n f).mgt = m.mgt := rfl
@[simp] theorem onImu_mgtSci (m : Mach) (n : Fin 4) (f : Imu → Imu) : (m.onImu n f).mgtSci = m.mgtSci := rfl
@[simp] theorem onImu_net (m : Mach) (n : Fin 4) (f : Imu → Imu) : (m.onImu n f).net = m.net := rfl
@[simp] theorem onImu_link (m : Mach) (n : Fin 4) (f : Imu → Imu) : (m.onImu n f).link = m.link := rfl
@[simp] theorem onImu_rst (m : Mach) (n : Fin 4) (f : Imu → Imu) : (m.onImu n f).rst = m.rst := rfl
@[simp] theorem onImu_dram (m : Mach) (n : Fin 4) (f : Imu → Imu) : (m.onImu n f).dram = m.dram := rfl
@[simp] theorem onImu_ueLines (m : Mach) (n : Fin 4) (f : Imu → Imu) : (m.onImu n f).ueLines = m.ueLines := rfl
@[simp] theorem onImu_draws (m : Mach) (n : Fin 4) (f : Imu → Imu) : (m.onImu n f).draws = m.draws := rfl
@[simp] theorem onImu_out (m : Mach) (n : Fin 4) (f : Imu → Imu) : (m.onImu n f).out = m.out := rfl
@[simp] theorem onImu_rd (m : Mach) (n : Fin 4) (f : Imu → Imu) (off : Nat) : (m.onImu n f).rd off = m.rd off := rfl
@[simp] theorem onImu_g (m : Mach) (n : Fin 4) (f : Imu → Imu) (fd : Fld) : (m.onImu n f).g fd = m.g fd := rfl
@[simp] theorem onImu_on (m : Mach) (n : Fin 4) (f : Imu → Imu) (fd : Fld) : (m.onImu n f).on fd = m.on fd := rfl
@[simp] theorem onFn_chip (m : Mach) (n : Fin 8) (f : Func → Func) : (m.onFn n f).chip = m.chip := rfl
@[simp] theorem onFn_regs (m : Mach) (n : Fin 8) (f : Func → Func) : (m.onFn n f).regs = m.regs := rfl
@[simp] theorem onFn_time (m : Mach) (n : Fin 8) (f : Func → Func) : (m.onFn n f).time = m.time := rfl
@[simp] theorem onFn_tick (m : Mach) (n : Fin 8) (f : Func → Func) : (m.onFn n f).tick = m.tick := rfl
@[simp] theorem onFn_port (m : Mach) (n : Fin 8) (f : Func → Func) : (m.onFn n f).port = m.port := rfl
@[simp] theorem onFn_fe (m : Mach) (n : Fin 8) (f : Func → Func) : (m.onFn n f).fe = m.fe := rfl
@[simp] theorem onFn_eng (m : Mach) (n : Fin 8) (f : Func → Func) : (m.onFn n f).eng = m.eng := rfl
@[simp] theorem onFn_tleq (m : Mach) (n : Fin 8) (f : Func → Func) : (m.onFn n f).tleq = m.tleq := rfl
@[simp] theorem onFn_tle (m : Mach) (n : Fin 8) (f : Func → Func) : (m.onFn n f).tle = m.tle := rfl
@[simp] theorem onFn_heldDesc (m : Mach) (n : Fin 8) (f : Func → Func) : (m.onFn n f).heldDesc = m.heldDesc := rfl
@[simp] theorem onFn_patchNext (m : Mach) (n : Fin 8) (f : Func → Func) : (m.onFn n f).patchNext = m.patchNext := rfl
@[simp] theorem onFn_cache (m : Mach) (n : Fin 8) (f : Func → Func) : (m.onFn n f).cache = m.cache := rfl
@[simp] theorem onFn_pops (m : Mach) (n : Fin 8) (f : Func → Func) : (m.onFn n f).pops = m.pops := rfl
@[simp] theorem onFn_spikes (m : Mach) (n : Fin 8) (f : Func → Func) : (m.onFn n f).spikes = m.spikes := rfl
@[simp] theorem onFn_images (m : Mach) (n : Fin 8) (f : Func → Func) : (m.onFn n f).images = m.images := rfl
@[simp] theorem onFn_enc (m : Mach) (n : Fin 8) (f : Func → Func) : (m.onFn n f).enc = m.enc := rfl
@[simp] theorem onFn_imu (m : Mach) (n : Fin 8) (f : Func → Func) : (m.onFn n f).imu = m.imu := rfl
@[simp] theorem onFn_fus (m : Mach) (n : Fin 8) (f : Func → Func) : (m.onFn n f).fus = m.fus := rfl
@[simp] theorem onFn_jnl (m : Mach) (n : Fin 8) (f : Func → Func) : (m.onFn n f).jnl = m.jnl := rfl
@[simp] theorem onFn_nvs (m : Mach) (n : Fin 8) (f : Func → Func) : (m.onFn n f).nvs = m.nvs := rfl
@[simp] theorem onFn_led (m : Mach) (n : Fin 8) (f : Func → Func) : (m.onFn n f).led = m.led := rfl
@[simp] theorem onFn_lvl (m : Mach) (n : Fin 8) (f : Func → Func) : (m.onFn n f).lvl = m.lvl := rfl
@[simp] theorem onFn_sleep (m : Mach) (n : Fin 8) (f : Func → Func) : (m.onFn n f).sleep = m.sleep := rfl
@[simp] theorem onFn_fn (m : Mach) (n : Fin 8) (f : Func → Func) : (m.onFn n f).fn = vmod m.fn n f := rfl
@[simp] theorem onFn_own (m : Mach) (n : Fin 8) (f : Func → Func) : (m.onFn n f).own = m.own := rfl
@[simp] theorem onFn_mgt (m : Mach) (n : Fin 8) (f : Func → Func) : (m.onFn n f).mgt = m.mgt := rfl
@[simp] theorem onFn_mgtSci (m : Mach) (n : Fin 8) (f : Func → Func) : (m.onFn n f).mgtSci = m.mgtSci := rfl
@[simp] theorem onFn_net (m : Mach) (n : Fin 8) (f : Func → Func) : (m.onFn n f).net = m.net := rfl
@[simp] theorem onFn_link (m : Mach) (n : Fin 8) (f : Func → Func) : (m.onFn n f).link = m.link := rfl
@[simp] theorem onFn_rst (m : Mach) (n : Fin 8) (f : Func → Func) : (m.onFn n f).rst = m.rst := rfl
@[simp] theorem onFn_dram (m : Mach) (n : Fin 8) (f : Func → Func) : (m.onFn n f).dram = m.dram := rfl
@[simp] theorem onFn_ueLines (m : Mach) (n : Fin 8) (f : Func → Func) : (m.onFn n f).ueLines = m.ueLines := rfl
@[simp] theorem onFn_draws (m : Mach) (n : Fin 8) (f : Func → Func) : (m.onFn n f).draws = m.draws := rfl
@[simp] theorem onFn_out (m : Mach) (n : Fin 8) (f : Func → Func) : (m.onFn n f).out = m.out := rfl
@[simp] theorem onFn_rd (m : Mach) (n : Fin 8) (f : Func → Func) (off : Nat) : (m.onFn n f).rd off = m.rd off := rfl
@[simp] theorem onFn_g (m : Mach) (n : Fin 8) (f : Func → Func) (fd : Fld) : (m.onFn n f).g fd = m.g fd := rfl
@[simp] theorem onFn_on (m : Mach) (n : Fin 8) (f : Func → Func) (fd : Fld) : (m.onFn n f).on fd = m.on fd := rfl
@[simp] theorem onLvl_chip (m : Mach) (d : Fin 4) (f : DieLevel → DieLevel) : (m.onLvl d f).chip = m.chip := rfl
@[simp] theorem onLvl_regs (m : Mach) (d : Fin 4) (f : DieLevel → DieLevel) : (m.onLvl d f).regs = m.regs := rfl
@[simp] theorem onLvl_time (m : Mach) (d : Fin 4) (f : DieLevel → DieLevel) : (m.onLvl d f).time = m.time := rfl
@[simp] theorem onLvl_tick (m : Mach) (d : Fin 4) (f : DieLevel → DieLevel) : (m.onLvl d f).tick = m.tick := rfl
@[simp] theorem onLvl_port (m : Mach) (d : Fin 4) (f : DieLevel → DieLevel) : (m.onLvl d f).port = m.port := rfl
@[simp] theorem onLvl_fe (m : Mach) (d : Fin 4) (f : DieLevel → DieLevel) : (m.onLvl d f).fe = m.fe := rfl
@[simp] theorem onLvl_eng (m : Mach) (d : Fin 4) (f : DieLevel → DieLevel) : (m.onLvl d f).eng = m.eng := rfl
@[simp] theorem onLvl_tleq (m : Mach) (d : Fin 4) (f : DieLevel → DieLevel) : (m.onLvl d f).tleq = m.tleq := rfl
@[simp] theorem onLvl_tle (m : Mach) (d : Fin 4) (f : DieLevel → DieLevel) : (m.onLvl d f).tle = m.tle := rfl
@[simp] theorem onLvl_heldDesc (m : Mach) (d : Fin 4) (f : DieLevel → DieLevel) : (m.onLvl d f).heldDesc = m.heldDesc := rfl
@[simp] theorem onLvl_patchNext (m : Mach) (d : Fin 4) (f : DieLevel → DieLevel) : (m.onLvl d f).patchNext = m.patchNext := rfl
@[simp] theorem onLvl_cache (m : Mach) (d : Fin 4) (f : DieLevel → DieLevel) : (m.onLvl d f).cache = m.cache := rfl
@[simp] theorem onLvl_pops (m : Mach) (d : Fin 4) (f : DieLevel → DieLevel) : (m.onLvl d f).pops = m.pops := rfl
@[simp] theorem onLvl_spikes (m : Mach) (d : Fin 4) (f : DieLevel → DieLevel) : (m.onLvl d f).spikes = m.spikes := rfl
@[simp] theorem onLvl_images (m : Mach) (d : Fin 4) (f : DieLevel → DieLevel) : (m.onLvl d f).images = m.images := rfl
@[simp] theorem onLvl_enc (m : Mach) (d : Fin 4) (f : DieLevel → DieLevel) : (m.onLvl d f).enc = m.enc := rfl
@[simp] theorem onLvl_imu (m : Mach) (d : Fin 4) (f : DieLevel → DieLevel) : (m.onLvl d f).imu = m.imu := rfl
@[simp] theorem onLvl_fus (m : Mach) (d : Fin 4) (f : DieLevel → DieLevel) : (m.onLvl d f).fus = m.fus := rfl
@[simp] theorem onLvl_jnl (m : Mach) (d : Fin 4) (f : DieLevel → DieLevel) : (m.onLvl d f).jnl = m.jnl := rfl
@[simp] theorem onLvl_nvs (m : Mach) (d : Fin 4) (f : DieLevel → DieLevel) : (m.onLvl d f).nvs = m.nvs := rfl
@[simp] theorem onLvl_led (m : Mach) (d : Fin 4) (f : DieLevel → DieLevel) : (m.onLvl d f).led = m.led := rfl
@[simp] theorem onLvl_lvl (m : Mach) (d : Fin 4) (f : DieLevel → DieLevel) : (m.onLvl d f).lvl = vmod m.lvl d f := rfl
@[simp] theorem onLvl_sleep (m : Mach) (d : Fin 4) (f : DieLevel → DieLevel) : (m.onLvl d f).sleep = m.sleep := rfl
@[simp] theorem onLvl_fn (m : Mach) (d : Fin 4) (f : DieLevel → DieLevel) : (m.onLvl d f).fn = m.fn := rfl
@[simp] theorem onLvl_own (m : Mach) (d : Fin 4) (f : DieLevel → DieLevel) : (m.onLvl d f).own = m.own := rfl
@[simp] theorem onLvl_mgt (m : Mach) (d : Fin 4) (f : DieLevel → DieLevel) : (m.onLvl d f).mgt = m.mgt := rfl
@[simp] theorem onLvl_mgtSci (m : Mach) (d : Fin 4) (f : DieLevel → DieLevel) : (m.onLvl d f).mgtSci = m.mgtSci := rfl
@[simp] theorem onLvl_net (m : Mach) (d : Fin 4) (f : DieLevel → DieLevel) : (m.onLvl d f).net = m.net := rfl
@[simp] theorem onLvl_link (m : Mach) (d : Fin 4) (f : DieLevel → DieLevel) : (m.onLvl d f).link = m.link := rfl
@[simp] theorem onLvl_rst (m : Mach) (d : Fin 4) (f : DieLevel → DieLevel) : (m.onLvl d f).rst = m.rst := rfl
@[simp] theorem onLvl_dram (m : Mach) (d : Fin 4) (f : DieLevel → DieLevel) : (m.onLvl d f).dram = m.dram := rfl
@[simp] theorem onLvl_ueLines (m : Mach) (d : Fin 4) (f : DieLevel → DieLevel) : (m.onLvl d f).ueLines = m.ueLines := rfl
@[simp] theorem onLvl_draws (m : Mach) (d : Fin 4) (f : DieLevel → DieLevel) : (m.onLvl d f).draws = m.draws := rfl
@[simp] theorem onLvl_out (m : Mach) (d : Fin 4) (f : DieLevel → DieLevel) : (m.onLvl d f).out = m.out := rfl
@[simp] theorem onLvl_rd (m : Mach) (d : Fin 4) (f : DieLevel → DieLevel) (off : Nat) : (m.onLvl d f).rd off = m.rd off := rfl
@[simp] theorem onLvl_g (m : Mach) (d : Fin 4) (f : DieLevel → DieLevel) (fd : Fld) : (m.onLvl d f).g fd = m.g fd := rfl
@[simp] theorem onLvl_on (m : Mach) (d : Fin 4) (f : DieLevel → DieLevel) (fd : Fld) : (m.onLvl d f).on fd = m.on fd := rfl
@[simp] theorem onLink_chip (m : Mach) (l : Fin 4) (f : Link → Link) : (m.onLink l f).chip = m.chip := rfl
@[simp] theorem onLink_regs (m : Mach) (l : Fin 4) (f : Link → Link) : (m.onLink l f).regs = m.regs := rfl
@[simp] theorem onLink_time (m : Mach) (l : Fin 4) (f : Link → Link) : (m.onLink l f).time = m.time := rfl
@[simp] theorem onLink_tick (m : Mach) (l : Fin 4) (f : Link → Link) : (m.onLink l f).tick = m.tick := rfl
@[simp] theorem onLink_port (m : Mach) (l : Fin 4) (f : Link → Link) : (m.onLink l f).port = m.port := rfl
@[simp] theorem onLink_fe (m : Mach) (l : Fin 4) (f : Link → Link) : (m.onLink l f).fe = m.fe := rfl
@[simp] theorem onLink_eng (m : Mach) (l : Fin 4) (f : Link → Link) : (m.onLink l f).eng = m.eng := rfl
@[simp] theorem onLink_tleq (m : Mach) (l : Fin 4) (f : Link → Link) : (m.onLink l f).tleq = m.tleq := rfl
@[simp] theorem onLink_tle (m : Mach) (l : Fin 4) (f : Link → Link) : (m.onLink l f).tle = m.tle := rfl
@[simp] theorem onLink_heldDesc (m : Mach) (l : Fin 4) (f : Link → Link) : (m.onLink l f).heldDesc = m.heldDesc := rfl
@[simp] theorem onLink_patchNext (m : Mach) (l : Fin 4) (f : Link → Link) : (m.onLink l f).patchNext = m.patchNext := rfl
@[simp] theorem onLink_cache (m : Mach) (l : Fin 4) (f : Link → Link) : (m.onLink l f).cache = m.cache := rfl
@[simp] theorem onLink_pops (m : Mach) (l : Fin 4) (f : Link → Link) : (m.onLink l f).pops = m.pops := rfl
@[simp] theorem onLink_spikes (m : Mach) (l : Fin 4) (f : Link → Link) : (m.onLink l f).spikes = m.spikes := rfl
@[simp] theorem onLink_images (m : Mach) (l : Fin 4) (f : Link → Link) : (m.onLink l f).images = m.images := rfl
@[simp] theorem onLink_enc (m : Mach) (l : Fin 4) (f : Link → Link) : (m.onLink l f).enc = m.enc := rfl
@[simp] theorem onLink_imu (m : Mach) (l : Fin 4) (f : Link → Link) : (m.onLink l f).imu = m.imu := rfl
@[simp] theorem onLink_fus (m : Mach) (l : Fin 4) (f : Link → Link) : (m.onLink l f).fus = m.fus := rfl
@[simp] theorem onLink_jnl (m : Mach) (l : Fin 4) (f : Link → Link) : (m.onLink l f).jnl = m.jnl := rfl
@[simp] theorem onLink_nvs (m : Mach) (l : Fin 4) (f : Link → Link) : (m.onLink l f).nvs = m.nvs := rfl
@[simp] theorem onLink_led (m : Mach) (l : Fin 4) (f : Link → Link) : (m.onLink l f).led = m.led := rfl
@[simp] theorem onLink_lvl (m : Mach) (l : Fin 4) (f : Link → Link) : (m.onLink l f).lvl = m.lvl := rfl
@[simp] theorem onLink_sleep (m : Mach) (l : Fin 4) (f : Link → Link) : (m.onLink l f).sleep = m.sleep := rfl
@[simp] theorem onLink_fn (m : Mach) (l : Fin 4) (f : Link → Link) : (m.onLink l f).fn = m.fn := rfl
@[simp] theorem onLink_own (m : Mach) (l : Fin 4) (f : Link → Link) : (m.onLink l f).own = m.own := rfl
@[simp] theorem onLink_mgt (m : Mach) (l : Fin 4) (f : Link → Link) : (m.onLink l f).mgt = m.mgt := rfl
@[simp] theorem onLink_mgtSci (m : Mach) (l : Fin 4) (f : Link → Link) : (m.onLink l f).mgtSci = m.mgtSci := rfl
@[simp] theorem onLink_net (m : Mach) (l : Fin 4) (f : Link → Link) : (m.onLink l f).net = m.net := rfl
@[simp] theorem onLink_link (m : Mach) (l : Fin 4) (f : Link → Link) : (m.onLink l f).link = vmod m.link l f := rfl
@[simp] theorem onLink_rst (m : Mach) (l : Fin 4) (f : Link → Link) : (m.onLink l f).rst = m.rst := rfl
@[simp] theorem onLink_dram (m : Mach) (l : Fin 4) (f : Link → Link) : (m.onLink l f).dram = m.dram := rfl
@[simp] theorem onLink_ueLines (m : Mach) (l : Fin 4) (f : Link → Link) : (m.onLink l f).ueLines = m.ueLines := rfl
@[simp] theorem onLink_draws (m : Mach) (l : Fin 4) (f : Link → Link) : (m.onLink l f).draws = m.draws := rfl
@[simp] theorem onLink_out (m : Mach) (l : Fin 4) (f : Link → Link) : (m.onLink l f).out = m.out := rfl
@[simp] theorem onLink_rd (m : Mach) (l : Fin 4) (f : Link → Link) (off : Nat) : (m.onLink l f).rd off = m.rd off := rfl
@[simp] theorem onLink_g (m : Mach) (l : Fin 4) (f : Link → Link) (fd : Fld) : (m.onLink l f).g fd = m.g fd := rfl
@[simp] theorem onLink_on (m : Mach) (l : Fin 4) (f : Link → Link) (fd : Fld) : (m.onLink l f).on fd = m.on fd := rfl
@[simp] theorem onDest_chip (m : Mach) (d : Fin 8) (f : RrtDest → RrtDest) : (m.onDest d f).chip = m.chip := rfl
@[simp] theorem onDest_regs (m : Mach) (d : Fin 8) (f : RrtDest → RrtDest) : (m.onDest d f).regs = m.regs := rfl
@[simp] theorem onDest_time (m : Mach) (d : Fin 8) (f : RrtDest → RrtDest) : (m.onDest d f).time = m.time := rfl
@[simp] theorem onDest_tick (m : Mach) (d : Fin 8) (f : RrtDest → RrtDest) : (m.onDest d f).tick = m.tick := rfl
@[simp] theorem onDest_port (m : Mach) (d : Fin 8) (f : RrtDest → RrtDest) : (m.onDest d f).port = m.port := rfl
@[simp] theorem onDest_fe (m : Mach) (d : Fin 8) (f : RrtDest → RrtDest) : (m.onDest d f).fe = m.fe := rfl
@[simp] theorem onDest_eng (m : Mach) (d : Fin 8) (f : RrtDest → RrtDest) : (m.onDest d f).eng = m.eng := rfl
@[simp] theorem onDest_tleq (m : Mach) (d : Fin 8) (f : RrtDest → RrtDest) : (m.onDest d f).tleq = m.tleq := rfl
@[simp] theorem onDest_tle (m : Mach) (d : Fin 8) (f : RrtDest → RrtDest) : (m.onDest d f).tle = m.tle := rfl
@[simp] theorem onDest_heldDesc (m : Mach) (d : Fin 8) (f : RrtDest → RrtDest) : (m.onDest d f).heldDesc = m.heldDesc := rfl
@[simp] theorem onDest_patchNext (m : Mach) (d : Fin 8) (f : RrtDest → RrtDest) : (m.onDest d f).patchNext = m.patchNext := rfl
@[simp] theorem onDest_cache (m : Mach) (d : Fin 8) (f : RrtDest → RrtDest) : (m.onDest d f).cache = m.cache := rfl
@[simp] theorem onDest_pops (m : Mach) (d : Fin 8) (f : RrtDest → RrtDest) : (m.onDest d f).pops = m.pops := rfl
@[simp] theorem onDest_spikes (m : Mach) (d : Fin 8) (f : RrtDest → RrtDest) : (m.onDest d f).spikes = m.spikes := rfl
@[simp] theorem onDest_images (m : Mach) (d : Fin 8) (f : RrtDest → RrtDest) : (m.onDest d f).images = m.images := rfl
@[simp] theorem onDest_enc (m : Mach) (d : Fin 8) (f : RrtDest → RrtDest) : (m.onDest d f).enc = m.enc := rfl
@[simp] theorem onDest_imu (m : Mach) (d : Fin 8) (f : RrtDest → RrtDest) : (m.onDest d f).imu = m.imu := rfl
@[simp] theorem onDest_fus (m : Mach) (d : Fin 8) (f : RrtDest → RrtDest) : (m.onDest d f).fus = m.fus := rfl
@[simp] theorem onDest_jnl (m : Mach) (d : Fin 8) (f : RrtDest → RrtDest) : (m.onDest d f).jnl = m.jnl := rfl
@[simp] theorem onDest_nvs (m : Mach) (d : Fin 8) (f : RrtDest → RrtDest) : (m.onDest d f).nvs = m.nvs := rfl
@[simp] theorem onDest_led (m : Mach) (d : Fin 8) (f : RrtDest → RrtDest) : (m.onDest d f).led = m.led := rfl
@[simp] theorem onDest_lvl (m : Mach) (d : Fin 8) (f : RrtDest → RrtDest) : (m.onDest d f).lvl = m.lvl := rfl
@[simp] theorem onDest_sleep (m : Mach) (d : Fin 8) (f : RrtDest → RrtDest) : (m.onDest d f).sleep = m.sleep := rfl
@[simp] theorem onDest_fn (m : Mach) (d : Fin 8) (f : RrtDest → RrtDest) : (m.onDest d f).fn = m.fn := rfl
@[simp] theorem onDest_own (m : Mach) (d : Fin 8) (f : RrtDest → RrtDest) : (m.onDest d f).own = m.own := rfl
@[simp] theorem onDest_mgt (m : Mach) (d : Fin 8) (f : RrtDest → RrtDest) : (m.onDest d f).mgt = m.mgt := rfl
@[simp] theorem onDest_mgtSci (m : Mach) (d : Fin 8) (f : RrtDest → RrtDest) : (m.onDest d f).mgtSci = m.mgtSci := rfl
@[simp] theorem onDest_net (m : Mach) (d : Fin 8) (f : RrtDest → RrtDest) : (m.onDest d f).net = { m.net with dests := vmod m.net.dests d f } := rfl
@[simp] theorem onDest_link (m : Mach) (d : Fin 8) (f : RrtDest → RrtDest) : (m.onDest d f).link = m.link := rfl
@[simp] theorem onDest_rst (m : Mach) (d : Fin 8) (f : RrtDest → RrtDest) : (m.onDest d f).rst = m.rst := rfl
@[simp] theorem onDest_dram (m : Mach) (d : Fin 8) (f : RrtDest → RrtDest) : (m.onDest d f).dram = m.dram := rfl
@[simp] theorem onDest_ueLines (m : Mach) (d : Fin 8) (f : RrtDest → RrtDest) : (m.onDest d f).ueLines = m.ueLines := rfl
@[simp] theorem onDest_draws (m : Mach) (d : Fin 8) (f : RrtDest → RrtDest) : (m.onDest d f).draws = m.draws := rfl
@[simp] theorem onDest_out (m : Mach) (d : Fin 8) (f : RrtDest → RrtDest) : (m.onDest d f).out = m.out := rfl
@[simp] theorem onDest_rd (m : Mach) (d : Fin 8) (f : RrtDest → RrtDest) (off : Nat) : (m.onDest d f).rd off = m.rd off := rfl
@[simp] theorem onDest_g (m : Mach) (d : Fin 8) (f : RrtDest → RrtDest) (fd : Fld) : (m.onDest d f).g fd = m.g fd := rfl
@[simp] theorem onDest_on (m : Mach) (d : Fin 8) (f : RrtDest → RrtDest) (fd : Fld) : (m.onDest d f).on fd = m.on fd := rfl
@[simp] theorem onTrig_chip (m : Mach) (o : Fin 8) (f : TrigOut → TrigOut) : (m.onTrig o f).chip = m.chip := rfl
@[simp] theorem onTrig_regs (m : Mach) (o : Fin 8) (f : TrigOut → TrigOut) : (m.onTrig o f).regs = m.regs := rfl
@[simp] theorem onTrig_time (m : Mach) (o : Fin 8) (f : TrigOut → TrigOut) : (m.onTrig o f).time = { m.time with trigOut := vmod m.time.trigOut o f } := rfl
@[simp] theorem onTrig_tick (m : Mach) (o : Fin 8) (f : TrigOut → TrigOut) : (m.onTrig o f).tick = m.tick := rfl
@[simp] theorem onTrig_port (m : Mach) (o : Fin 8) (f : TrigOut → TrigOut) : (m.onTrig o f).port = m.port := rfl
@[simp] theorem onTrig_fe (m : Mach) (o : Fin 8) (f : TrigOut → TrigOut) : (m.onTrig o f).fe = m.fe := rfl
@[simp] theorem onTrig_eng (m : Mach) (o : Fin 8) (f : TrigOut → TrigOut) : (m.onTrig o f).eng = m.eng := rfl
@[simp] theorem onTrig_tleq (m : Mach) (o : Fin 8) (f : TrigOut → TrigOut) : (m.onTrig o f).tleq = m.tleq := rfl
@[simp] theorem onTrig_tle (m : Mach) (o : Fin 8) (f : TrigOut → TrigOut) : (m.onTrig o f).tle = m.tle := rfl
@[simp] theorem onTrig_heldDesc (m : Mach) (o : Fin 8) (f : TrigOut → TrigOut) : (m.onTrig o f).heldDesc = m.heldDesc := rfl
@[simp] theorem onTrig_patchNext (m : Mach) (o : Fin 8) (f : TrigOut → TrigOut) : (m.onTrig o f).patchNext = m.patchNext := rfl
@[simp] theorem onTrig_cache (m : Mach) (o : Fin 8) (f : TrigOut → TrigOut) : (m.onTrig o f).cache = m.cache := rfl
@[simp] theorem onTrig_pops (m : Mach) (o : Fin 8) (f : TrigOut → TrigOut) : (m.onTrig o f).pops = m.pops := rfl
@[simp] theorem onTrig_spikes (m : Mach) (o : Fin 8) (f : TrigOut → TrigOut) : (m.onTrig o f).spikes = m.spikes := rfl
@[simp] theorem onTrig_images (m : Mach) (o : Fin 8) (f : TrigOut → TrigOut) : (m.onTrig o f).images = m.images := rfl
@[simp] theorem onTrig_enc (m : Mach) (o : Fin 8) (f : TrigOut → TrigOut) : (m.onTrig o f).enc = m.enc := rfl
@[simp] theorem onTrig_imu (m : Mach) (o : Fin 8) (f : TrigOut → TrigOut) : (m.onTrig o f).imu = m.imu := rfl
@[simp] theorem onTrig_fus (m : Mach) (o : Fin 8) (f : TrigOut → TrigOut) : (m.onTrig o f).fus = m.fus := rfl
@[simp] theorem onTrig_jnl (m : Mach) (o : Fin 8) (f : TrigOut → TrigOut) : (m.onTrig o f).jnl = m.jnl := rfl
@[simp] theorem onTrig_nvs (m : Mach) (o : Fin 8) (f : TrigOut → TrigOut) : (m.onTrig o f).nvs = m.nvs := rfl
@[simp] theorem onTrig_led (m : Mach) (o : Fin 8) (f : TrigOut → TrigOut) : (m.onTrig o f).led = m.led := rfl
@[simp] theorem onTrig_lvl (m : Mach) (o : Fin 8) (f : TrigOut → TrigOut) : (m.onTrig o f).lvl = m.lvl := rfl
@[simp] theorem onTrig_sleep (m : Mach) (o : Fin 8) (f : TrigOut → TrigOut) : (m.onTrig o f).sleep = m.sleep := rfl
@[simp] theorem onTrig_fn (m : Mach) (o : Fin 8) (f : TrigOut → TrigOut) : (m.onTrig o f).fn = m.fn := rfl
@[simp] theorem onTrig_own (m : Mach) (o : Fin 8) (f : TrigOut → TrigOut) : (m.onTrig o f).own = m.own := rfl
@[simp] theorem onTrig_mgt (m : Mach) (o : Fin 8) (f : TrigOut → TrigOut) : (m.onTrig o f).mgt = m.mgt := rfl
@[simp] theorem onTrig_mgtSci (m : Mach) (o : Fin 8) (f : TrigOut → TrigOut) : (m.onTrig o f).mgtSci = m.mgtSci := rfl
@[simp] theorem onTrig_net (m : Mach) (o : Fin 8) (f : TrigOut → TrigOut) : (m.onTrig o f).net = m.net := rfl
@[simp] theorem onTrig_link (m : Mach) (o : Fin 8) (f : TrigOut → TrigOut) : (m.onTrig o f).link = m.link := rfl
@[simp] theorem onTrig_rst (m : Mach) (o : Fin 8) (f : TrigOut → TrigOut) : (m.onTrig o f).rst = m.rst := rfl
@[simp] theorem onTrig_dram (m : Mach) (o : Fin 8) (f : TrigOut → TrigOut) : (m.onTrig o f).dram = m.dram := rfl
@[simp] theorem onTrig_ueLines (m : Mach) (o : Fin 8) (f : TrigOut → TrigOut) : (m.onTrig o f).ueLines = m.ueLines := rfl
@[simp] theorem onTrig_draws (m : Mach) (o : Fin 8) (f : TrigOut → TrigOut) : (m.onTrig o f).draws = m.draws := rfl
@[simp] theorem onTrig_out (m : Mach) (o : Fin 8) (f : TrigOut → TrigOut) : (m.onTrig o f).out = m.out := rfl
@[simp] theorem onTrig_rd (m : Mach) (o : Fin 8) (f : TrigOut → TrigOut) (off : Nat) : (m.onTrig o f).rd off = m.rd off := rfl
@[simp] theorem onTrig_g (m : Mach) (o : Fin 8) (f : TrigOut → TrigOut) (fd : Fld) : (m.onTrig o f).g fd = m.g fd := rfl
@[simp] theorem onTrig_on (m : Mach) (o : Fin 8) (f : TrigOut → TrigOut) (fd : Fld) : (m.onTrig o f).on fd = m.on fd := rfl
@[simp] theorem onDie_chip (m : Mach) (d : Fin 4) (f : DiePlan → DiePlan) : (m.onDie d f).chip = m.chip := rfl
@[simp] theorem onDie_regs (m : Mach) (d : Fin 4) (f : DiePlan → DiePlan) : (m.onDie d f).regs = m.regs := rfl
@[simp] theorem onDie_time (m : Mach) (d : Fin 4) (f : DiePlan → DiePlan) : (m.onDie d f).time = m.time := rfl
@[simp] theorem onDie_tick (m : Mach) (d : Fin 4) (f : DiePlan → DiePlan) : (m.onDie d f).tick = m.tick := rfl
@[simp] theorem onDie_port (m : Mach) (d : Fin 4) (f : DiePlan → DiePlan) : (m.onDie d f).port = m.port := rfl
@[simp] theorem onDie_fe (m : Mach) (d : Fin 4) (f : DiePlan → DiePlan) : (m.onDie d f).fe = m.fe := rfl
@[simp] theorem onDie_eng (m : Mach) (d : Fin 4) (f : DiePlan → DiePlan) : (m.onDie d f).eng = m.eng := rfl
@[simp] theorem onDie_tleq (m : Mach) (d : Fin 4) (f : DiePlan → DiePlan) : (m.onDie d f).tleq = m.tleq := rfl
@[simp] theorem onDie_tle (m : Mach) (d : Fin 4) (f : DiePlan → DiePlan) : (m.onDie d f).tle = m.tle := rfl
@[simp] theorem onDie_heldDesc (m : Mach) (d : Fin 4) (f : DiePlan → DiePlan) : (m.onDie d f).heldDesc = m.heldDesc := rfl
@[simp] theorem onDie_patchNext (m : Mach) (d : Fin 4) (f : DiePlan → DiePlan) : (m.onDie d f).patchNext = m.patchNext := rfl
@[simp] theorem onDie_cache (m : Mach) (d : Fin 4) (f : DiePlan → DiePlan) : (m.onDie d f).cache = m.cache := rfl
@[simp] theorem onDie_pops (m : Mach) (d : Fin 4) (f : DiePlan → DiePlan) : (m.onDie d f).pops = m.pops := rfl
@[simp] theorem onDie_spikes (m : Mach) (d : Fin 4) (f : DiePlan → DiePlan) : (m.onDie d f).spikes = m.spikes := rfl
@[simp] theorem onDie_images (m : Mach) (d : Fin 4) (f : DiePlan → DiePlan) : (m.onDie d f).images = m.images := rfl
@[simp] theorem onDie_enc (m : Mach) (d : Fin 4) (f : DiePlan → DiePlan) : (m.onDie d f).enc = m.enc := rfl
@[simp] theorem onDie_imu (m : Mach) (d : Fin 4) (f : DiePlan → DiePlan) : (m.onDie d f).imu = m.imu := rfl
@[simp] theorem onDie_fus (m : Mach) (d : Fin 4) (f : DiePlan → DiePlan) : (m.onDie d f).fus = m.fus := rfl
@[simp] theorem onDie_jnl (m : Mach) (d : Fin 4) (f : DiePlan → DiePlan) : (m.onDie d f).jnl = m.jnl := rfl
@[simp] theorem onDie_nvs (m : Mach) (d : Fin 4) (f : DiePlan → DiePlan) : (m.onDie d f).nvs = m.nvs := rfl
@[simp] theorem onDie_led (m : Mach) (d : Fin 4) (f : DiePlan → DiePlan) : (m.onDie d f).led = m.led := rfl
@[simp] theorem onDie_lvl (m : Mach) (d : Fin 4) (f : DiePlan → DiePlan) : (m.onDie d f).lvl = m.lvl := rfl
@[simp] theorem onDie_sleep (m : Mach) (d : Fin 4) (f : DiePlan → DiePlan) : (m.onDie d f).sleep = m.sleep := rfl
@[simp] theorem onDie_fn (m : Mach) (d : Fin 4) (f : DiePlan → DiePlan) : (m.onDie d f).fn = m.fn := rfl
@[simp] theorem onDie_own (m : Mach) (d : Fin 4) (f : DiePlan → DiePlan) : (m.onDie d f).own = m.own := rfl
@[simp] theorem onDie_mgt (m : Mach) (d : Fin 4) (f : DiePlan → DiePlan) : (m.onDie d f).mgt = m.mgt := rfl
@[simp] theorem onDie_mgtSci (m : Mach) (d : Fin 4) (f : DiePlan → DiePlan) : (m.onDie d f).mgtSci = m.mgtSci := rfl
@[simp] theorem onDie_net (m : Mach) (d : Fin 4) (f : DiePlan → DiePlan) : (m.onDie d f).net = m.net := rfl
@[simp] theorem onDie_link (m : Mach) (d : Fin 4) (f : DiePlan → DiePlan) : (m.onDie d f).link = m.link := rfl
@[simp] theorem onDie_rst (m : Mach) (d : Fin 4) (f : DiePlan → DiePlan) : (m.onDie d f).rst = { m.rst with dies := vmod m.rst.dies d f } := rfl
@[simp] theorem onDie_dram (m : Mach) (d : Fin 4) (f : DiePlan → DiePlan) : (m.onDie d f).dram = m.dram := rfl
@[simp] theorem onDie_ueLines (m : Mach) (d : Fin 4) (f : DiePlan → DiePlan) : (m.onDie d f).ueLines = m.ueLines := rfl
@[simp] theorem onDie_draws (m : Mach) (d : Fin 4) (f : DiePlan → DiePlan) : (m.onDie d f).draws = m.draws := rfl
@[simp] theorem onDie_out (m : Mach) (d : Fin 4) (f : DiePlan → DiePlan) : (m.onDie d f).out = m.out := rfl
@[simp] theorem onDie_rd (m : Mach) (d : Fin 4) (f : DiePlan → DiePlan) (off : Nat) : (m.onDie d f).rd off = m.rd off := rfl
@[simp] theorem onDie_g (m : Mach) (d : Fin 4) (f : DiePlan → DiePlan) (fd : Fld) : (m.onDie d f).g fd = m.g fd := rfl
@[simp] theorem onDie_on (m : Mach) (d : Fin 4) (f : DiePlan → DiePlan) (fd : Fld) : (m.onDie d f).on fd = m.on fd := rfl
@[simp] theorem onTime_chip (m : Mach) (f : TimeUnit → TimeUnit) : (m.onTime f).chip = m.chip := rfl
@[simp] theorem onTime_regs (m : Mach) (f : TimeUnit → TimeUnit) : (m.onTime f).regs = m.regs := rfl
@[simp] theorem onTime_time (m : Mach) (f : TimeUnit → TimeUnit) : (m.onTime f).time = f m.time := rfl
@[simp] theorem onTime_tick (m : Mach) (f : TimeUnit → TimeUnit) : (m.onTime f).tick = m.tick := rfl
@[simp] theorem onTime_port (m : Mach) (f : TimeUnit → TimeUnit) : (m.onTime f).port = m.port := rfl
@[simp] theorem onTime_fe (m : Mach) (f : TimeUnit → TimeUnit) : (m.onTime f).fe = m.fe := rfl
@[simp] theorem onTime_eng (m : Mach) (f : TimeUnit → TimeUnit) : (m.onTime f).eng = m.eng := rfl
@[simp] theorem onTime_tleq (m : Mach) (f : TimeUnit → TimeUnit) : (m.onTime f).tleq = m.tleq := rfl
@[simp] theorem onTime_tle (m : Mach) (f : TimeUnit → TimeUnit) : (m.onTime f).tle = m.tle := rfl
@[simp] theorem onTime_heldDesc (m : Mach) (f : TimeUnit → TimeUnit) : (m.onTime f).heldDesc = m.heldDesc := rfl
@[simp] theorem onTime_patchNext (m : Mach) (f : TimeUnit → TimeUnit) : (m.onTime f).patchNext = m.patchNext := rfl
@[simp] theorem onTime_cache (m : Mach) (f : TimeUnit → TimeUnit) : (m.onTime f).cache = m.cache := rfl
@[simp] theorem onTime_pops (m : Mach) (f : TimeUnit → TimeUnit) : (m.onTime f).pops = m.pops := rfl
@[simp] theorem onTime_spikes (m : Mach) (f : TimeUnit → TimeUnit) : (m.onTime f).spikes = m.spikes := rfl
@[simp] theorem onTime_images (m : Mach) (f : TimeUnit → TimeUnit) : (m.onTime f).images = m.images := rfl
@[simp] theorem onTime_enc (m : Mach) (f : TimeUnit → TimeUnit) : (m.onTime f).enc = m.enc := rfl
@[simp] theorem onTime_imu (m : Mach) (f : TimeUnit → TimeUnit) : (m.onTime f).imu = m.imu := rfl
@[simp] theorem onTime_fus (m : Mach) (f : TimeUnit → TimeUnit) : (m.onTime f).fus = m.fus := rfl
@[simp] theorem onTime_jnl (m : Mach) (f : TimeUnit → TimeUnit) : (m.onTime f).jnl = m.jnl := rfl
@[simp] theorem onTime_nvs (m : Mach) (f : TimeUnit → TimeUnit) : (m.onTime f).nvs = m.nvs := rfl
@[simp] theorem onTime_led (m : Mach) (f : TimeUnit → TimeUnit) : (m.onTime f).led = m.led := rfl
@[simp] theorem onTime_lvl (m : Mach) (f : TimeUnit → TimeUnit) : (m.onTime f).lvl = m.lvl := rfl
@[simp] theorem onTime_sleep (m : Mach) (f : TimeUnit → TimeUnit) : (m.onTime f).sleep = m.sleep := rfl
@[simp] theorem onTime_fn (m : Mach) (f : TimeUnit → TimeUnit) : (m.onTime f).fn = m.fn := rfl
@[simp] theorem onTime_own (m : Mach) (f : TimeUnit → TimeUnit) : (m.onTime f).own = m.own := rfl
@[simp] theorem onTime_mgt (m : Mach) (f : TimeUnit → TimeUnit) : (m.onTime f).mgt = m.mgt := rfl
@[simp] theorem onTime_mgtSci (m : Mach) (f : TimeUnit → TimeUnit) : (m.onTime f).mgtSci = m.mgtSci := rfl
@[simp] theorem onTime_net (m : Mach) (f : TimeUnit → TimeUnit) : (m.onTime f).net = m.net := rfl
@[simp] theorem onTime_link (m : Mach) (f : TimeUnit → TimeUnit) : (m.onTime f).link = m.link := rfl
@[simp] theorem onTime_rst (m : Mach) (f : TimeUnit → TimeUnit) : (m.onTime f).rst = m.rst := rfl
@[simp] theorem onTime_dram (m : Mach) (f : TimeUnit → TimeUnit) : (m.onTime f).dram = m.dram := rfl
@[simp] theorem onTime_ueLines (m : Mach) (f : TimeUnit → TimeUnit) : (m.onTime f).ueLines = m.ueLines := rfl
@[simp] theorem onTime_draws (m : Mach) (f : TimeUnit → TimeUnit) : (m.onTime f).draws = m.draws := rfl
@[simp] theorem onTime_out (m : Mach) (f : TimeUnit → TimeUnit) : (m.onTime f).out = m.out := rfl
@[simp] theorem onTime_rd (m : Mach) (f : TimeUnit → TimeUnit) (off : Nat) : (m.onTime f).rd off = m.rd off := rfl
@[simp] theorem onTime_g (m : Mach) (f : TimeUnit → TimeUnit) (fd : Fld) : (m.onTime f).g fd = m.g fd := rfl
@[simp] theorem onTime_on (m : Mach) (f : TimeUnit → TimeUnit) (fd : Fld) : (m.onTime f).on fd = m.on fd := rfl
@[simp] theorem onServo_chip (m : Mach) (f : Servo → Servo) : (m.onServo f).chip = m.chip := rfl
@[simp] theorem onServo_regs (m : Mach) (f : Servo → Servo) : (m.onServo f).regs = m.regs := rfl
@[simp] theorem onServo_time (m : Mach) (f : Servo → Servo) : (m.onServo f).time = { m.time with servo := f m.time.servo } := rfl
@[simp] theorem onServo_tick (m : Mach) (f : Servo → Servo) : (m.onServo f).tick = m.tick := rfl
@[simp] theorem onServo_port (m : Mach) (f : Servo → Servo) : (m.onServo f).port = m.port := rfl
@[simp] theorem onServo_fe (m : Mach) (f : Servo → Servo) : (m.onServo f).fe = m.fe := rfl
@[simp] theorem onServo_eng (m : Mach) (f : Servo → Servo) : (m.onServo f).eng = m.eng := rfl
@[simp] theorem onServo_tleq (m : Mach) (f : Servo → Servo) : (m.onServo f).tleq = m.tleq := rfl
@[simp] theorem onServo_tle (m : Mach) (f : Servo → Servo) : (m.onServo f).tle = m.tle := rfl
@[simp] theorem onServo_heldDesc (m : Mach) (f : Servo → Servo) : (m.onServo f).heldDesc = m.heldDesc := rfl
@[simp] theorem onServo_patchNext (m : Mach) (f : Servo → Servo) : (m.onServo f).patchNext = m.patchNext := rfl
@[simp] theorem onServo_cache (m : Mach) (f : Servo → Servo) : (m.onServo f).cache = m.cache := rfl
@[simp] theorem onServo_pops (m : Mach) (f : Servo → Servo) : (m.onServo f).pops = m.pops := rfl
@[simp] theorem onServo_spikes (m : Mach) (f : Servo → Servo) : (m.onServo f).spikes = m.spikes := rfl
@[simp] theorem onServo_images (m : Mach) (f : Servo → Servo) : (m.onServo f).images = m.images := rfl
@[simp] theorem onServo_enc (m : Mach) (f : Servo → Servo) : (m.onServo f).enc = m.enc := rfl
@[simp] theorem onServo_imu (m : Mach) (f : Servo → Servo) : (m.onServo f).imu = m.imu := rfl
@[simp] theorem onServo_fus (m : Mach) (f : Servo → Servo) : (m.onServo f).fus = m.fus := rfl
@[simp] theorem onServo_jnl (m : Mach) (f : Servo → Servo) : (m.onServo f).jnl = m.jnl := rfl
@[simp] theorem onServo_nvs (m : Mach) (f : Servo → Servo) : (m.onServo f).nvs = m.nvs := rfl
@[simp] theorem onServo_led (m : Mach) (f : Servo → Servo) : (m.onServo f).led = m.led := rfl
@[simp] theorem onServo_lvl (m : Mach) (f : Servo → Servo) : (m.onServo f).lvl = m.lvl := rfl
@[simp] theorem onServo_sleep (m : Mach) (f : Servo → Servo) : (m.onServo f).sleep = m.sleep := rfl
@[simp] theorem onServo_fn (m : Mach) (f : Servo → Servo) : (m.onServo f).fn = m.fn := rfl
@[simp] theorem onServo_own (m : Mach) (f : Servo → Servo) : (m.onServo f).own = m.own := rfl
@[simp] theorem onServo_mgt (m : Mach) (f : Servo → Servo) : (m.onServo f).mgt = m.mgt := rfl
@[simp] theorem onServo_mgtSci (m : Mach) (f : Servo → Servo) : (m.onServo f).mgtSci = m.mgtSci := rfl
@[simp] theorem onServo_net (m : Mach) (f : Servo → Servo) : (m.onServo f).net = m.net := rfl
@[simp] theorem onServo_link (m : Mach) (f : Servo → Servo) : (m.onServo f).link = m.link := rfl
@[simp] theorem onServo_rst (m : Mach) (f : Servo → Servo) : (m.onServo f).rst = m.rst := rfl
@[simp] theorem onServo_dram (m : Mach) (f : Servo → Servo) : (m.onServo f).dram = m.dram := rfl
@[simp] theorem onServo_ueLines (m : Mach) (f : Servo → Servo) : (m.onServo f).ueLines = m.ueLines := rfl
@[simp] theorem onServo_draws (m : Mach) (f : Servo → Servo) : (m.onServo f).draws = m.draws := rfl
@[simp] theorem onServo_out (m : Mach) (f : Servo → Servo) : (m.onServo f).out = m.out := rfl
@[simp] theorem onServo_rd (m : Mach) (f : Servo → Servo) (off : Nat) : (m.onServo f).rd off = m.rd off := rfl
@[simp] theorem onServo_g (m : Mach) (f : Servo → Servo) (fd : Fld) : (m.onServo f).g fd = m.g fd := rfl
@[simp] theorem onServo_on (m : Mach) (f : Servo → Servo) (fd : Fld) : (m.onServo f).on fd = m.on fd := rfl
@[simp] theorem onTick_chip (m : Mach) (f : TickUnit → TickUnit) : (m.onTick f).chip = m.chip := rfl
@[simp] theorem onTick_regs (m : Mach) (f : TickUnit → TickUnit) : (m.onTick f).regs = m.regs := rfl
@[simp] theorem onTick_time (m : Mach) (f : TickUnit → TickUnit) : (m.onTick f).time = m.time := rfl
@[simp] theorem onTick_tick (m : Mach) (f : TickUnit → TickUnit) : (m.onTick f).tick = f m.tick := rfl
@[simp] theorem onTick_port (m : Mach) (f : TickUnit → TickUnit) : (m.onTick f).port = m.port := rfl
@[simp] theorem onTick_fe (m : Mach) (f : TickUnit → TickUnit) : (m.onTick f).fe = m.fe := rfl
@[simp] theorem onTick_eng (m : Mach) (f : TickUnit → TickUnit) : (m.onTick f).eng = m.eng := rfl
@[simp] theorem onTick_tleq (m : Mach) (f : TickUnit → TickUnit) : (m.onTick f).tleq = m.tleq := rfl
@[simp] theorem onTick_tle (m : Mach) (f : TickUnit → TickUnit) : (m.onTick f).tle = m.tle := rfl
@[simp] theorem onTick_heldDesc (m : Mach) (f : TickUnit → TickUnit) : (m.onTick f).heldDesc = m.heldDesc := rfl
@[simp] theorem onTick_patchNext (m : Mach) (f : TickUnit → TickUnit) : (m.onTick f).patchNext = m.patchNext := rfl
@[simp] theorem onTick_cache (m : Mach) (f : TickUnit → TickUnit) : (m.onTick f).cache = m.cache := rfl
@[simp] theorem onTick_pops (m : Mach) (f : TickUnit → TickUnit) : (m.onTick f).pops = m.pops := rfl
@[simp] theorem onTick_spikes (m : Mach) (f : TickUnit → TickUnit) : (m.onTick f).spikes = m.spikes := rfl
@[simp] theorem onTick_images (m : Mach) (f : TickUnit → TickUnit) : (m.onTick f).images = m.images := rfl
@[simp] theorem onTick_enc (m : Mach) (f : TickUnit → TickUnit) : (m.onTick f).enc = m.enc := rfl
@[simp] theorem onTick_imu (m : Mach) (f : TickUnit → TickUnit) : (m.onTick f).imu = m.imu := rfl
@[simp] theorem onTick_fus (m : Mach) (f : TickUnit → TickUnit) : (m.onTick f).fus = m.fus := rfl
@[simp] theorem onTick_jnl (m : Mach) (f : TickUnit → TickUnit) : (m.onTick f).jnl = m.jnl := rfl
@[simp] theorem onTick_nvs (m : Mach) (f : TickUnit → TickUnit) : (m.onTick f).nvs = m.nvs := rfl
@[simp] theorem onTick_led (m : Mach) (f : TickUnit → TickUnit) : (m.onTick f).led = m.led := rfl
@[simp] theorem onTick_lvl (m : Mach) (f : TickUnit → TickUnit) : (m.onTick f).lvl = m.lvl := rfl
@[simp] theorem onTick_sleep (m : Mach) (f : TickUnit → TickUnit) : (m.onTick f).sleep = m.sleep := rfl
@[simp] theorem onTick_fn (m : Mach) (f : TickUnit → TickUnit) : (m.onTick f).fn = m.fn := rfl
@[simp] theorem onTick_own (m : Mach) (f : TickUnit → TickUnit) : (m.onTick f).own = m.own := rfl
@[simp] theorem onTick_mgt (m : Mach) (f : TickUnit → TickUnit) : (m.onTick f).mgt = m.mgt := rfl
@[simp] theorem onTick_mgtSci (m : Mach) (f : TickUnit → TickUnit) : (m.onTick f).mgtSci = m.mgtSci := rfl
@[simp] theorem onTick_net (m : Mach) (f : TickUnit → TickUnit) : (m.onTick f).net = m.net := rfl
@[simp] theorem onTick_link (m : Mach) (f : TickUnit → TickUnit) : (m.onTick f).link = m.link := rfl
@[simp] theorem onTick_rst (m : Mach) (f : TickUnit → TickUnit) : (m.onTick f).rst = m.rst := rfl
@[simp] theorem onTick_dram (m : Mach) (f : TickUnit → TickUnit) : (m.onTick f).dram = m.dram := rfl
@[simp] theorem onTick_ueLines (m : Mach) (f : TickUnit → TickUnit) : (m.onTick f).ueLines = m.ueLines := rfl
@[simp] theorem onTick_draws (m : Mach) (f : TickUnit → TickUnit) : (m.onTick f).draws = m.draws := rfl
@[simp] theorem onTick_out (m : Mach) (f : TickUnit → TickUnit) : (m.onTick f).out = m.out := rfl
@[simp] theorem onTick_rd (m : Mach) (f : TickUnit → TickUnit) (off : Nat) : (m.onTick f).rd off = m.rd off := rfl
@[simp] theorem onTick_g (m : Mach) (f : TickUnit → TickUnit) (fd : Fld) : (m.onTick f).g fd = m.g fd := rfl
@[simp] theorem onTick_on (m : Mach) (f : TickUnit → TickUnit) (fd : Fld) : (m.onTick f).on fd = m.on fd := rfl
@[simp] theorem onAcct_chip (m : Mach) (tn : Nat) (f : TickAcct → TickAcct) : (m.onAcct tn f).chip = m.chip := rfl
@[simp] theorem onAcct_regs (m : Mach) (tn : Nat) (f : TickAcct → TickAcct) : (m.onAcct tn f).regs = m.regs := rfl
@[simp] theorem onAcct_time (m : Mach) (tn : Nat) (f : TickAcct → TickAcct) : (m.onAcct tn f).time = m.time := rfl
@[simp] theorem onAcct_port (m : Mach) (tn : Nat) (f : TickAcct → TickAcct) : (m.onAcct tn f).port = m.port := rfl
@[simp] theorem onAcct_fe (m : Mach) (tn : Nat) (f : TickAcct → TickAcct) : (m.onAcct tn f).fe = m.fe := rfl
@[simp] theorem onAcct_eng (m : Mach) (tn : Nat) (f : TickAcct → TickAcct) : (m.onAcct tn f).eng = m.eng := rfl
@[simp] theorem onAcct_tleq (m : Mach) (tn : Nat) (f : TickAcct → TickAcct) : (m.onAcct tn f).tleq = m.tleq := rfl
@[simp] theorem onAcct_tle (m : Mach) (tn : Nat) (f : TickAcct → TickAcct) : (m.onAcct tn f).tle = m.tle := rfl
@[simp] theorem onAcct_heldDesc (m : Mach) (tn : Nat) (f : TickAcct → TickAcct) : (m.onAcct tn f).heldDesc = m.heldDesc := rfl
@[simp] theorem onAcct_patchNext (m : Mach) (tn : Nat) (f : TickAcct → TickAcct) : (m.onAcct tn f).patchNext = m.patchNext := rfl
@[simp] theorem onAcct_cache (m : Mach) (tn : Nat) (f : TickAcct → TickAcct) : (m.onAcct tn f).cache = m.cache := rfl
@[simp] theorem onAcct_pops (m : Mach) (tn : Nat) (f : TickAcct → TickAcct) : (m.onAcct tn f).pops = m.pops := rfl
@[simp] theorem onAcct_spikes (m : Mach) (tn : Nat) (f : TickAcct → TickAcct) : (m.onAcct tn f).spikes = m.spikes := rfl
@[simp] theorem onAcct_images (m : Mach) (tn : Nat) (f : TickAcct → TickAcct) : (m.onAcct tn f).images = m.images := rfl
@[simp] theorem onAcct_enc (m : Mach) (tn : Nat) (f : TickAcct → TickAcct) : (m.onAcct tn f).enc = m.enc := rfl
@[simp] theorem onAcct_imu (m : Mach) (tn : Nat) (f : TickAcct → TickAcct) : (m.onAcct tn f).imu = m.imu := rfl
@[simp] theorem onAcct_fus (m : Mach) (tn : Nat) (f : TickAcct → TickAcct) : (m.onAcct tn f).fus = m.fus := rfl
@[simp] theorem onAcct_jnl (m : Mach) (tn : Nat) (f : TickAcct → TickAcct) : (m.onAcct tn f).jnl = m.jnl := rfl
@[simp] theorem onAcct_nvs (m : Mach) (tn : Nat) (f : TickAcct → TickAcct) : (m.onAcct tn f).nvs = m.nvs := rfl
@[simp] theorem onAcct_led (m : Mach) (tn : Nat) (f : TickAcct → TickAcct) : (m.onAcct tn f).led = m.led := rfl
@[simp] theorem onAcct_lvl (m : Mach) (tn : Nat) (f : TickAcct → TickAcct) : (m.onAcct tn f).lvl = m.lvl := rfl
@[simp] theorem onAcct_sleep (m : Mach) (tn : Nat) (f : TickAcct → TickAcct) : (m.onAcct tn f).sleep = m.sleep := rfl
@[simp] theorem onAcct_fn (m : Mach) (tn : Nat) (f : TickAcct → TickAcct) : (m.onAcct tn f).fn = m.fn := rfl
@[simp] theorem onAcct_own (m : Mach) (tn : Nat) (f : TickAcct → TickAcct) : (m.onAcct tn f).own = m.own := rfl
@[simp] theorem onAcct_mgt (m : Mach) (tn : Nat) (f : TickAcct → TickAcct) : (m.onAcct tn f).mgt = m.mgt := rfl
@[simp] theorem onAcct_mgtSci (m : Mach) (tn : Nat) (f : TickAcct → TickAcct) : (m.onAcct tn f).mgtSci = m.mgtSci := rfl
@[simp] theorem onAcct_net (m : Mach) (tn : Nat) (f : TickAcct → TickAcct) : (m.onAcct tn f).net = m.net := rfl
@[simp] theorem onAcct_link (m : Mach) (tn : Nat) (f : TickAcct → TickAcct) : (m.onAcct tn f).link = m.link := rfl
@[simp] theorem onAcct_rst (m : Mach) (tn : Nat) (f : TickAcct → TickAcct) : (m.onAcct tn f).rst = m.rst := rfl
@[simp] theorem onAcct_dram (m : Mach) (tn : Nat) (f : TickAcct → TickAcct) : (m.onAcct tn f).dram = m.dram := rfl
@[simp] theorem onAcct_ueLines (m : Mach) (tn : Nat) (f : TickAcct → TickAcct) : (m.onAcct tn f).ueLines = m.ueLines := rfl
@[simp] theorem onAcct_draws (m : Mach) (tn : Nat) (f : TickAcct → TickAcct) : (m.onAcct tn f).draws = m.draws := rfl
@[simp] theorem onAcct_out (m : Mach) (tn : Nat) (f : TickAcct → TickAcct) : (m.onAcct tn f).out = m.out := rfl
@[simp] theorem onAcct_rd (m : Mach) (tn : Nat) (f : TickAcct → TickAcct) (off : Nat) : (m.onAcct tn f).rd off = m.rd off := rfl
@[simp] theorem onAcct_g (m : Mach) (tn : Nat) (f : TickAcct → TickAcct) (fd : Fld) : (m.onAcct tn f).g fd = m.g fd := rfl
@[simp] theorem onAcct_on (m : Mach) (tn : Nat) (f : TickAcct → TickAcct) (fd : Fld) : (m.onAcct tn f).on fd = m.on fd := rfl
@[simp] theorem onJnl_chip (m : Mach) (f : Journal → Journal) : (m.onJnl f).chip = m.chip := rfl
@[simp] theorem onJnl_regs (m : Mach) (f : Journal → Journal) : (m.onJnl f).regs = m.regs := rfl
@[simp] theorem onJnl_time (m : Mach) (f : Journal → Journal) : (m.onJnl f).time = m.time := rfl
@[simp] theorem onJnl_tick (m : Mach) (f : Journal → Journal) : (m.onJnl f).tick = m.tick := rfl
@[simp] theorem onJnl_port (m : Mach) (f : Journal → Journal) : (m.onJnl f).port = m.port := rfl
@[simp] theorem onJnl_fe (m : Mach) (f : Journal → Journal) : (m.onJnl f).fe = m.fe := rfl
@[simp] theorem onJnl_eng (m : Mach) (f : Journal → Journal) : (m.onJnl f).eng = m.eng := rfl
@[simp] theorem onJnl_tleq (m : Mach) (f : Journal → Journal) : (m.onJnl f).tleq = m.tleq := rfl
@[simp] theorem onJnl_tle (m : Mach) (f : Journal → Journal) : (m.onJnl f).tle = m.tle := rfl
@[simp] theorem onJnl_heldDesc (m : Mach) (f : Journal → Journal) : (m.onJnl f).heldDesc = m.heldDesc := rfl
@[simp] theorem onJnl_patchNext (m : Mach) (f : Journal → Journal) : (m.onJnl f).patchNext = m.patchNext := rfl
@[simp] theorem onJnl_cache (m : Mach) (f : Journal → Journal) : (m.onJnl f).cache = m.cache := rfl
@[simp] theorem onJnl_pops (m : Mach) (f : Journal → Journal) : (m.onJnl f).pops = m.pops := rfl
@[simp] theorem onJnl_spikes (m : Mach) (f : Journal → Journal) : (m.onJnl f).spikes = m.spikes := rfl
@[simp] theorem onJnl_images (m : Mach) (f : Journal → Journal) : (m.onJnl f).images = m.images := rfl
@[simp] theorem onJnl_enc (m : Mach) (f : Journal → Journal) : (m.onJnl f).enc = m.enc := rfl
@[simp] theorem onJnl_imu (m : Mach) (f : Journal → Journal) : (m.onJnl f).imu = m.imu := rfl
@[simp] theorem onJnl_fus (m : Mach) (f : Journal → Journal) : (m.onJnl f).fus = m.fus := rfl
@[simp] theorem onJnl_jnl (m : Mach) (f : Journal → Journal) : (m.onJnl f).jnl = f m.jnl := rfl
@[simp] theorem onJnl_nvs (m : Mach) (f : Journal → Journal) : (m.onJnl f).nvs = m.nvs := rfl
@[simp] theorem onJnl_led (m : Mach) (f : Journal → Journal) : (m.onJnl f).led = m.led := rfl
@[simp] theorem onJnl_lvl (m : Mach) (f : Journal → Journal) : (m.onJnl f).lvl = m.lvl := rfl
@[simp] theorem onJnl_sleep (m : Mach) (f : Journal → Journal) : (m.onJnl f).sleep = m.sleep := rfl
@[simp] theorem onJnl_fn (m : Mach) (f : Journal → Journal) : (m.onJnl f).fn = m.fn := rfl
@[simp] theorem onJnl_own (m : Mach) (f : Journal → Journal) : (m.onJnl f).own = m.own := rfl
@[simp] theorem onJnl_mgt (m : Mach) (f : Journal → Journal) : (m.onJnl f).mgt = m.mgt := rfl
@[simp] theorem onJnl_mgtSci (m : Mach) (f : Journal → Journal) : (m.onJnl f).mgtSci = m.mgtSci := rfl
@[simp] theorem onJnl_net (m : Mach) (f : Journal → Journal) : (m.onJnl f).net = m.net := rfl
@[simp] theorem onJnl_link (m : Mach) (f : Journal → Journal) : (m.onJnl f).link = m.link := rfl
@[simp] theorem onJnl_rst (m : Mach) (f : Journal → Journal) : (m.onJnl f).rst = m.rst := rfl
@[simp] theorem onJnl_dram (m : Mach) (f : Journal → Journal) : (m.onJnl f).dram = m.dram := rfl
@[simp] theorem onJnl_ueLines (m : Mach) (f : Journal → Journal) : (m.onJnl f).ueLines = m.ueLines := rfl
@[simp] theorem onJnl_draws (m : Mach) (f : Journal → Journal) : (m.onJnl f).draws = m.draws := rfl
@[simp] theorem onJnl_out (m : Mach) (f : Journal → Journal) : (m.onJnl f).out = m.out := rfl
@[simp] theorem onJnl_rd (m : Mach) (f : Journal → Journal) (off : Nat) : (m.onJnl f).rd off = m.rd off := rfl
@[simp] theorem onJnl_g (m : Mach) (f : Journal → Journal) (fd : Fld) : (m.onJnl f).g fd = m.g fd := rfl
@[simp] theorem onJnl_on (m : Mach) (f : Journal → Journal) (fd : Fld) : (m.onJnl f).on fd = m.on fd := rfl
@[simp] theorem onFus_chip (m : Mach) (f : Fusion → Fusion) : (m.onFus f).chip = m.chip := rfl
@[simp] theorem onFus_regs (m : Mach) (f : Fusion → Fusion) : (m.onFus f).regs = m.regs := rfl
@[simp] theorem onFus_time (m : Mach) (f : Fusion → Fusion) : (m.onFus f).time = m.time := rfl
@[simp] theorem onFus_tick (m : Mach) (f : Fusion → Fusion) : (m.onFus f).tick = m.tick := rfl
@[simp] theorem onFus_port (m : Mach) (f : Fusion → Fusion) : (m.onFus f).port = m.port := rfl
@[simp] theorem onFus_fe (m : Mach) (f : Fusion → Fusion) : (m.onFus f).fe = m.fe := rfl
@[simp] theorem onFus_eng (m : Mach) (f : Fusion → Fusion) : (m.onFus f).eng = m.eng := rfl
@[simp] theorem onFus_tleq (m : Mach) (f : Fusion → Fusion) : (m.onFus f).tleq = m.tleq := rfl
@[simp] theorem onFus_tle (m : Mach) (f : Fusion → Fusion) : (m.onFus f).tle = m.tle := rfl
@[simp] theorem onFus_heldDesc (m : Mach) (f : Fusion → Fusion) : (m.onFus f).heldDesc = m.heldDesc := rfl
@[simp] theorem onFus_patchNext (m : Mach) (f : Fusion → Fusion) : (m.onFus f).patchNext = m.patchNext := rfl
@[simp] theorem onFus_cache (m : Mach) (f : Fusion → Fusion) : (m.onFus f).cache = m.cache := rfl
@[simp] theorem onFus_pops (m : Mach) (f : Fusion → Fusion) : (m.onFus f).pops = m.pops := rfl
@[simp] theorem onFus_spikes (m : Mach) (f : Fusion → Fusion) : (m.onFus f).spikes = m.spikes := rfl
@[simp] theorem onFus_images (m : Mach) (f : Fusion → Fusion) : (m.onFus f).images = m.images := rfl
@[simp] theorem onFus_enc (m : Mach) (f : Fusion → Fusion) : (m.onFus f).enc = m.enc := rfl
@[simp] theorem onFus_imu (m : Mach) (f : Fusion → Fusion) : (m.onFus f).imu = m.imu := rfl
@[simp] theorem onFus_fus (m : Mach) (f : Fusion → Fusion) : (m.onFus f).fus = f m.fus := rfl
@[simp] theorem onFus_jnl (m : Mach) (f : Fusion → Fusion) : (m.onFus f).jnl = m.jnl := rfl
@[simp] theorem onFus_nvs (m : Mach) (f : Fusion → Fusion) : (m.onFus f).nvs = m.nvs := rfl
@[simp] theorem onFus_led (m : Mach) (f : Fusion → Fusion) : (m.onFus f).led = m.led := rfl
@[simp] theorem onFus_lvl (m : Mach) (f : Fusion → Fusion) : (m.onFus f).lvl = m.lvl := rfl
@[simp] theorem onFus_sleep (m : Mach) (f : Fusion → Fusion) : (m.onFus f).sleep = m.sleep := rfl
@[simp] theorem onFus_fn (m : Mach) (f : Fusion → Fusion) : (m.onFus f).fn = m.fn := rfl
@[simp] theorem onFus_own (m : Mach) (f : Fusion → Fusion) : (m.onFus f).own = m.own := rfl
@[simp] theorem onFus_mgt (m : Mach) (f : Fusion → Fusion) : (m.onFus f).mgt = m.mgt := rfl
@[simp] theorem onFus_mgtSci (m : Mach) (f : Fusion → Fusion) : (m.onFus f).mgtSci = m.mgtSci := rfl
@[simp] theorem onFus_net (m : Mach) (f : Fusion → Fusion) : (m.onFus f).net = m.net := rfl
@[simp] theorem onFus_link (m : Mach) (f : Fusion → Fusion) : (m.onFus f).link = m.link := rfl
@[simp] theorem onFus_rst (m : Mach) (f : Fusion → Fusion) : (m.onFus f).rst = m.rst := rfl
@[simp] theorem onFus_dram (m : Mach) (f : Fusion → Fusion) : (m.onFus f).dram = m.dram := rfl
@[simp] theorem onFus_ueLines (m : Mach) (f : Fusion → Fusion) : (m.onFus f).ueLines = m.ueLines := rfl
@[simp] theorem onFus_draws (m : Mach) (f : Fusion → Fusion) : (m.onFus f).draws = m.draws := rfl
@[simp] theorem onFus_out (m : Mach) (f : Fusion → Fusion) : (m.onFus f).out = m.out := rfl
@[simp] theorem onFus_rd (m : Mach) (f : Fusion → Fusion) (off : Nat) : (m.onFus f).rd off = m.rd off := rfl
@[simp] theorem onFus_g (m : Mach) (f : Fusion → Fusion) (fd : Fld) : (m.onFus f).g fd = m.g fd := rfl
@[simp] theorem onFus_on (m : Mach) (f : Fusion → Fusion) (fd : Fld) : (m.onFus f).on fd = m.on fd := rfl
@[simp] theorem onLed_chip (m : Mach) (f : Ledger → Ledger) : (m.onLed f).chip = m.chip := rfl
@[simp] theorem onLed_regs (m : Mach) (f : Ledger → Ledger) : (m.onLed f).regs = m.regs := rfl
@[simp] theorem onLed_time (m : Mach) (f : Ledger → Ledger) : (m.onLed f).time = m.time := rfl
@[simp] theorem onLed_tick (m : Mach) (f : Ledger → Ledger) : (m.onLed f).tick = m.tick := rfl
@[simp] theorem onLed_port (m : Mach) (f : Ledger → Ledger) : (m.onLed f).port = m.port := rfl
@[simp] theorem onLed_fe (m : Mach) (f : Ledger → Ledger) : (m.onLed f).fe = m.fe := rfl
@[simp] theorem onLed_eng (m : Mach) (f : Ledger → Ledger) : (m.onLed f).eng = m.eng := rfl
@[simp] theorem onLed_tleq (m : Mach) (f : Ledger → Ledger) : (m.onLed f).tleq = m.tleq := rfl
@[simp] theorem onLed_tle (m : Mach) (f : Ledger → Ledger) : (m.onLed f).tle = m.tle := rfl
@[simp] theorem onLed_heldDesc (m : Mach) (f : Ledger → Ledger) : (m.onLed f).heldDesc = m.heldDesc := rfl
@[simp] theorem onLed_patchNext (m : Mach) (f : Ledger → Ledger) : (m.onLed f).patchNext = m.patchNext := rfl
@[simp] theorem onLed_cache (m : Mach) (f : Ledger → Ledger) : (m.onLed f).cache = m.cache := rfl
@[simp] theorem onLed_pops (m : Mach) (f : Ledger → Ledger) : (m.onLed f).pops = m.pops := rfl
@[simp] theorem onLed_spikes (m : Mach) (f : Ledger → Ledger) : (m.onLed f).spikes = m.spikes := rfl
@[simp] theorem onLed_images (m : Mach) (f : Ledger → Ledger) : (m.onLed f).images = m.images := rfl
@[simp] theorem onLed_enc (m : Mach) (f : Ledger → Ledger) : (m.onLed f).enc = m.enc := rfl
@[simp] theorem onLed_imu (m : Mach) (f : Ledger → Ledger) : (m.onLed f).imu = m.imu := rfl
@[simp] theorem onLed_fus (m : Mach) (f : Ledger → Ledger) : (m.onLed f).fus = m.fus := rfl
@[simp] theorem onLed_jnl (m : Mach) (f : Ledger → Ledger) : (m.onLed f).jnl = m.jnl := rfl
@[simp] theorem onLed_nvs (m : Mach) (f : Ledger → Ledger) : (m.onLed f).nvs = m.nvs := rfl
@[simp] theorem onLed_led (m : Mach) (f : Ledger → Ledger) : (m.onLed f).led = f m.led := rfl
@[simp] theorem onLed_lvl (m : Mach) (f : Ledger → Ledger) : (m.onLed f).lvl = m.lvl := rfl
@[simp] theorem onLed_sleep (m : Mach) (f : Ledger → Ledger) : (m.onLed f).sleep = m.sleep := rfl
@[simp] theorem onLed_fn (m : Mach) (f : Ledger → Ledger) : (m.onLed f).fn = m.fn := rfl
@[simp] theorem onLed_own (m : Mach) (f : Ledger → Ledger) : (m.onLed f).own = m.own := rfl
@[simp] theorem onLed_mgt (m : Mach) (f : Ledger → Ledger) : (m.onLed f).mgt = m.mgt := rfl
@[simp] theorem onLed_mgtSci (m : Mach) (f : Ledger → Ledger) : (m.onLed f).mgtSci = m.mgtSci := rfl
@[simp] theorem onLed_net (m : Mach) (f : Ledger → Ledger) : (m.onLed f).net = m.net := rfl
@[simp] theorem onLed_link (m : Mach) (f : Ledger → Ledger) : (m.onLed f).link = m.link := rfl
@[simp] theorem onLed_rst (m : Mach) (f : Ledger → Ledger) : (m.onLed f).rst = m.rst := rfl
@[simp] theorem onLed_dram (m : Mach) (f : Ledger → Ledger) : (m.onLed f).dram = m.dram := rfl
@[simp] theorem onLed_ueLines (m : Mach) (f : Ledger → Ledger) : (m.onLed f).ueLines = m.ueLines := rfl
@[simp] theorem onLed_draws (m : Mach) (f : Ledger → Ledger) : (m.onLed f).draws = m.draws := rfl
@[simp] theorem onLed_out (m : Mach) (f : Ledger → Ledger) : (m.onLed f).out = m.out := rfl
@[simp] theorem onLed_rd (m : Mach) (f : Ledger → Ledger) (off : Nat) : (m.onLed f).rd off = m.rd off := rfl
@[simp] theorem onLed_g (m : Mach) (f : Ledger → Ledger) (fd : Fld) : (m.onLed f).g fd = m.g fd := rfl
@[simp] theorem onLed_on (m : Mach) (f : Ledger → Ledger) (fd : Fld) : (m.onLed f).on fd = m.on fd := rfl
@[simp] theorem onSleep_chip (m : Mach) (f : Sleep → Sleep) : (m.onSleep f).chip = m.chip := rfl
@[simp] theorem onSleep_regs (m : Mach) (f : Sleep → Sleep) : (m.onSleep f).regs = m.regs := rfl
@[simp] theorem onSleep_time (m : Mach) (f : Sleep → Sleep) : (m.onSleep f).time = m.time := rfl
@[simp] theorem onSleep_tick (m : Mach) (f : Sleep → Sleep) : (m.onSleep f).tick = m.tick := rfl
@[simp] theorem onSleep_port (m : Mach) (f : Sleep → Sleep) : (m.onSleep f).port = m.port := rfl
@[simp] theorem onSleep_fe (m : Mach) (f : Sleep → Sleep) : (m.onSleep f).fe = m.fe := rfl
@[simp] theorem onSleep_eng (m : Mach) (f : Sleep → Sleep) : (m.onSleep f).eng = m.eng := rfl
@[simp] theorem onSleep_tleq (m : Mach) (f : Sleep → Sleep) : (m.onSleep f).tleq = m.tleq := rfl
@[simp] theorem onSleep_tle (m : Mach) (f : Sleep → Sleep) : (m.onSleep f).tle = m.tle := rfl
@[simp] theorem onSleep_heldDesc (m : Mach) (f : Sleep → Sleep) : (m.onSleep f).heldDesc = m.heldDesc := rfl
@[simp] theorem onSleep_patchNext (m : Mach) (f : Sleep → Sleep) : (m.onSleep f).patchNext = m.patchNext := rfl
@[simp] theorem onSleep_cache (m : Mach) (f : Sleep → Sleep) : (m.onSleep f).cache = m.cache := rfl
@[simp] theorem onSleep_pops (m : Mach) (f : Sleep → Sleep) : (m.onSleep f).pops = m.pops := rfl
@[simp] theorem onSleep_spikes (m : Mach) (f : Sleep → Sleep) : (m.onSleep f).spikes = m.spikes := rfl
@[simp] theorem onSleep_images (m : Mach) (f : Sleep → Sleep) : (m.onSleep f).images = m.images := rfl
@[simp] theorem onSleep_enc (m : Mach) (f : Sleep → Sleep) : (m.onSleep f).enc = m.enc := rfl
@[simp] theorem onSleep_imu (m : Mach) (f : Sleep → Sleep) : (m.onSleep f).imu = m.imu := rfl
@[simp] theorem onSleep_fus (m : Mach) (f : Sleep → Sleep) : (m.onSleep f).fus = m.fus := rfl
@[simp] theorem onSleep_jnl (m : Mach) (f : Sleep → Sleep) : (m.onSleep f).jnl = m.jnl := rfl
@[simp] theorem onSleep_nvs (m : Mach) (f : Sleep → Sleep) : (m.onSleep f).nvs = m.nvs := rfl
@[simp] theorem onSleep_led (m : Mach) (f : Sleep → Sleep) : (m.onSleep f).led = m.led := rfl
@[simp] theorem onSleep_lvl (m : Mach) (f : Sleep → Sleep) : (m.onSleep f).lvl = m.lvl := rfl
@[simp] theorem onSleep_sleep (m : Mach) (f : Sleep → Sleep) : (m.onSleep f).sleep = f m.sleep := rfl
@[simp] theorem onSleep_fn (m : Mach) (f : Sleep → Sleep) : (m.onSleep f).fn = m.fn := rfl
@[simp] theorem onSleep_own (m : Mach) (f : Sleep → Sleep) : (m.onSleep f).own = m.own := rfl
@[simp] theorem onSleep_mgt (m : Mach) (f : Sleep → Sleep) : (m.onSleep f).mgt = m.mgt := rfl
@[simp] theorem onSleep_mgtSci (m : Mach) (f : Sleep → Sleep) : (m.onSleep f).mgtSci = m.mgtSci := rfl
@[simp] theorem onSleep_net (m : Mach) (f : Sleep → Sleep) : (m.onSleep f).net = m.net := rfl
@[simp] theorem onSleep_link (m : Mach) (f : Sleep → Sleep) : (m.onSleep f).link = m.link := rfl
@[simp] theorem onSleep_rst (m : Mach) (f : Sleep → Sleep) : (m.onSleep f).rst = m.rst := rfl
@[simp] theorem onSleep_dram (m : Mach) (f : Sleep → Sleep) : (m.onSleep f).dram = m.dram := rfl
@[simp] theorem onSleep_ueLines (m : Mach) (f : Sleep → Sleep) : (m.onSleep f).ueLines = m.ueLines := rfl
@[simp] theorem onSleep_draws (m : Mach) (f : Sleep → Sleep) : (m.onSleep f).draws = m.draws := rfl
@[simp] theorem onSleep_out (m : Mach) (f : Sleep → Sleep) : (m.onSleep f).out = m.out := rfl
@[simp] theorem onSleep_rd (m : Mach) (f : Sleep → Sleep) (off : Nat) : (m.onSleep f).rd off = m.rd off := rfl
@[simp] theorem onSleep_g (m : Mach) (f : Sleep → Sleep) (fd : Fld) : (m.onSleep f).g fd = m.g fd := rfl
@[simp] theorem onSleep_on (m : Mach) (f : Sleep → Sleep) (fd : Fld) : (m.onSleep f).on fd = m.on fd := rfl
@[simp] theorem onRst_chip (m : Mach) (f : ResetUnit → ResetUnit) : (m.onRst f).chip = m.chip := rfl
@[simp] theorem onRst_regs (m : Mach) (f : ResetUnit → ResetUnit) : (m.onRst f).regs = m.regs := rfl
@[simp] theorem onRst_time (m : Mach) (f : ResetUnit → ResetUnit) : (m.onRst f).time = m.time := rfl
@[simp] theorem onRst_tick (m : Mach) (f : ResetUnit → ResetUnit) : (m.onRst f).tick = m.tick := rfl
@[simp] theorem onRst_port (m : Mach) (f : ResetUnit → ResetUnit) : (m.onRst f).port = m.port := rfl
@[simp] theorem onRst_fe (m : Mach) (f : ResetUnit → ResetUnit) : (m.onRst f).fe = m.fe := rfl
@[simp] theorem onRst_eng (m : Mach) (f : ResetUnit → ResetUnit) : (m.onRst f).eng = m.eng := rfl
@[simp] theorem onRst_tleq (m : Mach) (f : ResetUnit → ResetUnit) : (m.onRst f).tleq = m.tleq := rfl
@[simp] theorem onRst_tle (m : Mach) (f : ResetUnit → ResetUnit) : (m.onRst f).tle = m.tle := rfl
@[simp] theorem onRst_heldDesc (m : Mach) (f : ResetUnit → ResetUnit) : (m.onRst f).heldDesc = m.heldDesc := rfl
@[simp] theorem onRst_patchNext (m : Mach) (f : ResetUnit → ResetUnit) : (m.onRst f).patchNext = m.patchNext := rfl
@[simp] theorem onRst_cache (m : Mach) (f : ResetUnit → ResetUnit) : (m.onRst f).cache = m.cache := rfl
@[simp] theorem onRst_pops (m : Mach) (f : ResetUnit → ResetUnit) : (m.onRst f).pops = m.pops := rfl
@[simp] theorem onRst_spikes (m : Mach) (f : ResetUnit → ResetUnit) : (m.onRst f).spikes = m.spikes := rfl
@[simp] theorem onRst_images (m : Mach) (f : ResetUnit → ResetUnit) : (m.onRst f).images = m.images := rfl
@[simp] theorem onRst_enc (m : Mach) (f : ResetUnit → ResetUnit) : (m.onRst f).enc = m.enc := rfl
@[simp] theorem onRst_imu (m : Mach) (f : ResetUnit → ResetUnit) : (m.onRst f).imu = m.imu := rfl
@[simp] theorem onRst_fus (m : Mach) (f : ResetUnit → ResetUnit) : (m.onRst f).fus = m.fus := rfl
@[simp] theorem onRst_jnl (m : Mach) (f : ResetUnit → ResetUnit) : (m.onRst f).jnl = m.jnl := rfl
@[simp] theorem onRst_nvs (m : Mach) (f : ResetUnit → ResetUnit) : (m.onRst f).nvs = m.nvs := rfl
@[simp] theorem onRst_led (m : Mach) (f : ResetUnit → ResetUnit) : (m.onRst f).led = m.led := rfl
@[simp] theorem onRst_lvl (m : Mach) (f : ResetUnit → ResetUnit) : (m.onRst f).lvl = m.lvl := rfl
@[simp] theorem onRst_sleep (m : Mach) (f : ResetUnit → ResetUnit) : (m.onRst f).sleep = m.sleep := rfl
@[simp] theorem onRst_fn (m : Mach) (f : ResetUnit → ResetUnit) : (m.onRst f).fn = m.fn := rfl
@[simp] theorem onRst_own (m : Mach) (f : ResetUnit → ResetUnit) : (m.onRst f).own = m.own := rfl
@[simp] theorem onRst_mgt (m : Mach) (f : ResetUnit → ResetUnit) : (m.onRst f).mgt = m.mgt := rfl
@[simp] theorem onRst_mgtSci (m : Mach) (f : ResetUnit → ResetUnit) : (m.onRst f).mgtSci = m.mgtSci := rfl
@[simp] theorem onRst_net (m : Mach) (f : ResetUnit → ResetUnit) : (m.onRst f).net = m.net := rfl
@[simp] theorem onRst_link (m : Mach) (f : ResetUnit → ResetUnit) : (m.onRst f).link = m.link := rfl
@[simp] theorem onRst_rst (m : Mach) (f : ResetUnit → ResetUnit) : (m.onRst f).rst = f m.rst := rfl
@[simp] theorem onRst_dram (m : Mach) (f : ResetUnit → ResetUnit) : (m.onRst f).dram = m.dram := rfl
@[simp] theorem onRst_ueLines (m : Mach) (f : ResetUnit → ResetUnit) : (m.onRst f).ueLines = m.ueLines := rfl
@[simp] theorem onRst_draws (m : Mach) (f : ResetUnit → ResetUnit) : (m.onRst f).draws = m.draws := rfl
@[simp] theorem onRst_out (m : Mach) (f : ResetUnit → ResetUnit) : (m.onRst f).out = m.out := rfl
@[simp] theorem onRst_rd (m : Mach) (f : ResetUnit → ResetUnit) (off : Nat) : (m.onRst f).rd off = m.rd off := rfl
@[simp] theorem onRst_g (m : Mach) (f : ResetUnit → ResetUnit) (fd : Fld) : (m.onRst f).g fd = m.g fd := rfl
@[simp] theorem onRst_on (m : Mach) (f : ResetUnit → ResetUnit) (fd : Fld) : (m.onRst f).on fd = m.on fd := rfl
@[simp] theorem onNvs_chip (m : Mach) (f : Store → Store) : (m.onNvs f).chip = m.chip := rfl
@[simp] theorem onNvs_regs (m : Mach) (f : Store → Store) : (m.onNvs f).regs = m.regs := rfl
@[simp] theorem onNvs_time (m : Mach) (f : Store → Store) : (m.onNvs f).time = m.time := rfl
@[simp] theorem onNvs_tick (m : Mach) (f : Store → Store) : (m.onNvs f).tick = m.tick := rfl
@[simp] theorem onNvs_port (m : Mach) (f : Store → Store) : (m.onNvs f).port = m.port := rfl
@[simp] theorem onNvs_fe (m : Mach) (f : Store → Store) : (m.onNvs f).fe = m.fe := rfl
@[simp] theorem onNvs_eng (m : Mach) (f : Store → Store) : (m.onNvs f).eng = m.eng := rfl
@[simp] theorem onNvs_tleq (m : Mach) (f : Store → Store) : (m.onNvs f).tleq = m.tleq := rfl
@[simp] theorem onNvs_tle (m : Mach) (f : Store → Store) : (m.onNvs f).tle = m.tle := rfl
@[simp] theorem onNvs_heldDesc (m : Mach) (f : Store → Store) : (m.onNvs f).heldDesc = m.heldDesc := rfl
@[simp] theorem onNvs_patchNext (m : Mach) (f : Store → Store) : (m.onNvs f).patchNext = m.patchNext := rfl
@[simp] theorem onNvs_cache (m : Mach) (f : Store → Store) : (m.onNvs f).cache = m.cache := rfl
@[simp] theorem onNvs_pops (m : Mach) (f : Store → Store) : (m.onNvs f).pops = m.pops := rfl
@[simp] theorem onNvs_spikes (m : Mach) (f : Store → Store) : (m.onNvs f).spikes = m.spikes := rfl
@[simp] theorem onNvs_images (m : Mach) (f : Store → Store) : (m.onNvs f).images = m.images := rfl
@[simp] theorem onNvs_enc (m : Mach) (f : Store → Store) : (m.onNvs f).enc = m.enc := rfl
@[simp] theorem onNvs_imu (m : Mach) (f : Store → Store) : (m.onNvs f).imu = m.imu := rfl
@[simp] theorem onNvs_fus (m : Mach) (f : Store → Store) : (m.onNvs f).fus = m.fus := rfl
@[simp] theorem onNvs_jnl (m : Mach) (f : Store → Store) : (m.onNvs f).jnl = m.jnl := rfl
@[simp] theorem onNvs_nvs (m : Mach) (f : Store → Store) : (m.onNvs f).nvs = f m.nvs := rfl
@[simp] theorem onNvs_led (m : Mach) (f : Store → Store) : (m.onNvs f).led = m.led := rfl
@[simp] theorem onNvs_lvl (m : Mach) (f : Store → Store) : (m.onNvs f).lvl = m.lvl := rfl
@[simp] theorem onNvs_sleep (m : Mach) (f : Store → Store) : (m.onNvs f).sleep = m.sleep := rfl
@[simp] theorem onNvs_fn (m : Mach) (f : Store → Store) : (m.onNvs f).fn = m.fn := rfl
@[simp] theorem onNvs_own (m : Mach) (f : Store → Store) : (m.onNvs f).own = m.own := rfl
@[simp] theorem onNvs_mgt (m : Mach) (f : Store → Store) : (m.onNvs f).mgt = m.mgt := rfl
@[simp] theorem onNvs_mgtSci (m : Mach) (f : Store → Store) : (m.onNvs f).mgtSci = m.mgtSci := rfl
@[simp] theorem onNvs_net (m : Mach) (f : Store → Store) : (m.onNvs f).net = m.net := rfl
@[simp] theorem onNvs_link (m : Mach) (f : Store → Store) : (m.onNvs f).link = m.link := rfl
@[simp] theorem onNvs_rst (m : Mach) (f : Store → Store) : (m.onNvs f).rst = m.rst := rfl
@[simp] theorem onNvs_dram (m : Mach) (f : Store → Store) : (m.onNvs f).dram = m.dram := rfl
@[simp] theorem onNvs_ueLines (m : Mach) (f : Store → Store) : (m.onNvs f).ueLines = m.ueLines := rfl
@[simp] theorem onNvs_draws (m : Mach) (f : Store → Store) : (m.onNvs f).draws = m.draws := rfl
@[simp] theorem onNvs_out (m : Mach) (f : Store → Store) : (m.onNvs f).out = m.out := rfl
@[simp] theorem onNvs_rd (m : Mach) (f : Store → Store) (off : Nat) : (m.onNvs f).rd off = m.rd off := rfl
@[simp] theorem onNvs_g (m : Mach) (f : Store → Store) (fd : Fld) : (m.onNvs f).g fd = m.g fd := rfl
@[simp] theorem onNvs_on (m : Mach) (f : Store → Store) (fd : Fld) : (m.onNvs f).on fd = m.on fd := rfl
@[simp] theorem onNet_chip (m : Mach) (f : Net → Net) : (m.onNet f).chip = m.chip := rfl
@[simp] theorem onNet_regs (m : Mach) (f : Net → Net) : (m.onNet f).regs = m.regs := rfl
@[simp] theorem onNet_time (m : Mach) (f : Net → Net) : (m.onNet f).time = m.time := rfl
@[simp] theorem onNet_tick (m : Mach) (f : Net → Net) : (m.onNet f).tick = m.tick := rfl
@[simp] theorem onNet_port (m : Mach) (f : Net → Net) : (m.onNet f).port = m.port := rfl
@[simp] theorem onNet_fe (m : Mach) (f : Net → Net) : (m.onNet f).fe = m.fe := rfl
@[simp] theorem onNet_eng (m : Mach) (f : Net → Net) : (m.onNet f).eng = m.eng := rfl
@[simp] theorem onNet_tleq (m : Mach) (f : Net → Net) : (m.onNet f).tleq = m.tleq := rfl
@[simp] theorem onNet_tle (m : Mach) (f : Net → Net) : (m.onNet f).tle = m.tle := rfl
@[simp] theorem onNet_heldDesc (m : Mach) (f : Net → Net) : (m.onNet f).heldDesc = m.heldDesc := rfl
@[simp] theorem onNet_patchNext (m : Mach) (f : Net → Net) : (m.onNet f).patchNext = m.patchNext := rfl
@[simp] theorem onNet_cache (m : Mach) (f : Net → Net) : (m.onNet f).cache = m.cache := rfl
@[simp] theorem onNet_pops (m : Mach) (f : Net → Net) : (m.onNet f).pops = m.pops := rfl
@[simp] theorem onNet_spikes (m : Mach) (f : Net → Net) : (m.onNet f).spikes = m.spikes := rfl
@[simp] theorem onNet_images (m : Mach) (f : Net → Net) : (m.onNet f).images = m.images := rfl
@[simp] theorem onNet_enc (m : Mach) (f : Net → Net) : (m.onNet f).enc = m.enc := rfl
@[simp] theorem onNet_imu (m : Mach) (f : Net → Net) : (m.onNet f).imu = m.imu := rfl
@[simp] theorem onNet_fus (m : Mach) (f : Net → Net) : (m.onNet f).fus = m.fus := rfl
@[simp] theorem onNet_jnl (m : Mach) (f : Net → Net) : (m.onNet f).jnl = m.jnl := rfl
@[simp] theorem onNet_nvs (m : Mach) (f : Net → Net) : (m.onNet f).nvs = m.nvs := rfl
@[simp] theorem onNet_led (m : Mach) (f : Net → Net) : (m.onNet f).led = m.led := rfl
@[simp] theorem onNet_lvl (m : Mach) (f : Net → Net) : (m.onNet f).lvl = m.lvl := rfl
@[simp] theorem onNet_sleep (m : Mach) (f : Net → Net) : (m.onNet f).sleep = m.sleep := rfl
@[simp] theorem onNet_fn (m : Mach) (f : Net → Net) : (m.onNet f).fn = m.fn := rfl
@[simp] theorem onNet_own (m : Mach) (f : Net → Net) : (m.onNet f).own = m.own := rfl
@[simp] theorem onNet_mgt (m : Mach) (f : Net → Net) : (m.onNet f).mgt = m.mgt := rfl
@[simp] theorem onNet_mgtSci (m : Mach) (f : Net → Net) : (m.onNet f).mgtSci = m.mgtSci := rfl
@[simp] theorem onNet_net (m : Mach) (f : Net → Net) : (m.onNet f).net = f m.net := rfl
@[simp] theorem onNet_link (m : Mach) (f : Net → Net) : (m.onNet f).link = m.link := rfl
@[simp] theorem onNet_rst (m : Mach) (f : Net → Net) : (m.onNet f).rst = m.rst := rfl
@[simp] theorem onNet_dram (m : Mach) (f : Net → Net) : (m.onNet f).dram = m.dram := rfl
@[simp] theorem onNet_ueLines (m : Mach) (f : Net → Net) : (m.onNet f).ueLines = m.ueLines := rfl
@[simp] theorem onNet_draws (m : Mach) (f : Net → Net) : (m.onNet f).draws = m.draws := rfl
@[simp] theorem onNet_out (m : Mach) (f : Net → Net) : (m.onNet f).out = m.out := rfl
@[simp] theorem onNet_rd (m : Mach) (f : Net → Net) (off : Nat) : (m.onNet f).rd off = m.rd off := rfl
@[simp] theorem onNet_g (m : Mach) (f : Net → Net) (fd : Fld) : (m.onNet f).g fd = m.g fd := rfl
@[simp] theorem onNet_on (m : Mach) (f : Net → Net) (fd : Fld) : (m.onNet f).on fd = m.on fd := rfl
@[simp] theorem onCache_chip (m : Mach) (f : Caches → Caches) : (m.onCache f).chip = m.chip := rfl
@[simp] theorem onCache_regs (m : Mach) (f : Caches → Caches) : (m.onCache f).regs = m.regs := rfl
@[simp] theorem onCache_time (m : Mach) (f : Caches → Caches) : (m.onCache f).time = m.time := rfl
@[simp] theorem onCache_tick (m : Mach) (f : Caches → Caches) : (m.onCache f).tick = m.tick := rfl
@[simp] theorem onCache_port (m : Mach) (f : Caches → Caches) : (m.onCache f).port = m.port := rfl
@[simp] theorem onCache_fe (m : Mach) (f : Caches → Caches) : (m.onCache f).fe = m.fe := rfl
@[simp] theorem onCache_eng (m : Mach) (f : Caches → Caches) : (m.onCache f).eng = m.eng := rfl
@[simp] theorem onCache_tleq (m : Mach) (f : Caches → Caches) : (m.onCache f).tleq = m.tleq := rfl
@[simp] theorem onCache_tle (m : Mach) (f : Caches → Caches) : (m.onCache f).tle = m.tle := rfl
@[simp] theorem onCache_heldDesc (m : Mach) (f : Caches → Caches) : (m.onCache f).heldDesc = m.heldDesc := rfl
@[simp] theorem onCache_patchNext (m : Mach) (f : Caches → Caches) : (m.onCache f).patchNext = m.patchNext := rfl
@[simp] theorem onCache_cache (m : Mach) (f : Caches → Caches) : (m.onCache f).cache = f m.cache := rfl
@[simp] theorem onCache_pops (m : Mach) (f : Caches → Caches) : (m.onCache f).pops = m.pops := rfl
@[simp] theorem onCache_spikes (m : Mach) (f : Caches → Caches) : (m.onCache f).spikes = m.spikes := rfl
@[simp] theorem onCache_images (m : Mach) (f : Caches → Caches) : (m.onCache f).images = m.images := rfl
@[simp] theorem onCache_enc (m : Mach) (f : Caches → Caches) : (m.onCache f).enc = m.enc := rfl
@[simp] theorem onCache_imu (m : Mach) (f : Caches → Caches) : (m.onCache f).imu = m.imu := rfl
@[simp] theorem onCache_fus (m : Mach) (f : Caches → Caches) : (m.onCache f).fus = m.fus := rfl
@[simp] theorem onCache_jnl (m : Mach) (f : Caches → Caches) : (m.onCache f).jnl = m.jnl := rfl
@[simp] theorem onCache_nvs (m : Mach) (f : Caches → Caches) : (m.onCache f).nvs = m.nvs := rfl
@[simp] theorem onCache_led (m : Mach) (f : Caches → Caches) : (m.onCache f).led = m.led := rfl
@[simp] theorem onCache_lvl (m : Mach) (f : Caches → Caches) : (m.onCache f).lvl = m.lvl := rfl
@[simp] theorem onCache_sleep (m : Mach) (f : Caches → Caches) : (m.onCache f).sleep = m.sleep := rfl
@[simp] theorem onCache_fn (m : Mach) (f : Caches → Caches) : (m.onCache f).fn = m.fn := rfl
@[simp] theorem onCache_own (m : Mach) (f : Caches → Caches) : (m.onCache f).own = m.own := rfl
@[simp] theorem onCache_mgt (m : Mach) (f : Caches → Caches) : (m.onCache f).mgt = m.mgt := rfl
@[simp] theorem onCache_mgtSci (m : Mach) (f : Caches → Caches) : (m.onCache f).mgtSci = m.mgtSci := rfl
@[simp] theorem onCache_net (m : Mach) (f : Caches → Caches) : (m.onCache f).net = m.net := rfl
@[simp] theorem onCache_link (m : Mach) (f : Caches → Caches) : (m.onCache f).link = m.link := rfl
@[simp] theorem onCache_rst (m : Mach) (f : Caches → Caches) : (m.onCache f).rst = m.rst := rfl
@[simp] theorem onCache_dram (m : Mach) (f : Caches → Caches) : (m.onCache f).dram = m.dram := rfl
@[simp] theorem onCache_ueLines (m : Mach) (f : Caches → Caches) : (m.onCache f).ueLines = m.ueLines := rfl
@[simp] theorem onCache_draws (m : Mach) (f : Caches → Caches) : (m.onCache f).draws = m.draws := rfl
@[simp] theorem onCache_out (m : Mach) (f : Caches → Caches) : (m.onCache f).out = m.out := rfl
@[simp] theorem onCache_rd (m : Mach) (f : Caches → Caches) (off : Nat) : (m.onCache f).rd off = m.rd off := rfl
@[simp] theorem onCache_g (m : Mach) (f : Caches → Caches) (fd : Fld) : (m.onCache f).g fd = m.g fd := rfl
@[simp] theorem onCache_on (m : Mach) (f : Caches → Caches) (fd : Fld) : (m.onCache f).on fd = m.on fd := rfl
@[simp] theorem onOwn_chip (m : Mach) (f : Owners → Owners) : (m.onOwn f).chip = m.chip := rfl
@[simp] theorem onOwn_regs (m : Mach) (f : Owners → Owners) : (m.onOwn f).regs = m.regs := rfl
@[simp] theorem onOwn_time (m : Mach) (f : Owners → Owners) : (m.onOwn f).time = m.time := rfl
@[simp] theorem onOwn_tick (m : Mach) (f : Owners → Owners) : (m.onOwn f).tick = m.tick := rfl
@[simp] theorem onOwn_port (m : Mach) (f : Owners → Owners) : (m.onOwn f).port = m.port := rfl
@[simp] theorem onOwn_fe (m : Mach) (f : Owners → Owners) : (m.onOwn f).fe = m.fe := rfl
@[simp] theorem onOwn_eng (m : Mach) (f : Owners → Owners) : (m.onOwn f).eng = m.eng := rfl
@[simp] theorem onOwn_tleq (m : Mach) (f : Owners → Owners) : (m.onOwn f).tleq = m.tleq := rfl
@[simp] theorem onOwn_tle (m : Mach) (f : Owners → Owners) : (m.onOwn f).tle = m.tle := rfl
@[simp] theorem onOwn_heldDesc (m : Mach) (f : Owners → Owners) : (m.onOwn f).heldDesc = m.heldDesc := rfl
@[simp] theorem onOwn_patchNext (m : Mach) (f : Owners → Owners) : (m.onOwn f).patchNext = m.patchNext := rfl
@[simp] theorem onOwn_cache (m : Mach) (f : Owners → Owners) : (m.onOwn f).cache = m.cache := rfl
@[simp] theorem onOwn_pops (m : Mach) (f : Owners → Owners) : (m.onOwn f).pops = m.pops := rfl
@[simp] theorem onOwn_spikes (m : Mach) (f : Owners → Owners) : (m.onOwn f).spikes = m.spikes := rfl
@[simp] theorem onOwn_images (m : Mach) (f : Owners → Owners) : (m.onOwn f).images = m.images := rfl
@[simp] theorem onOwn_enc (m : Mach) (f : Owners → Owners) : (m.onOwn f).enc = m.enc := rfl
@[simp] theorem onOwn_imu (m : Mach) (f : Owners → Owners) : (m.onOwn f).imu = m.imu := rfl
@[simp] theorem onOwn_fus (m : Mach) (f : Owners → Owners) : (m.onOwn f).fus = m.fus := rfl
@[simp] theorem onOwn_jnl (m : Mach) (f : Owners → Owners) : (m.onOwn f).jnl = m.jnl := rfl
@[simp] theorem onOwn_nvs (m : Mach) (f : Owners → Owners) : (m.onOwn f).nvs = m.nvs := rfl
@[simp] theorem onOwn_led (m : Mach) (f : Owners → Owners) : (m.onOwn f).led = m.led := rfl
@[simp] theorem onOwn_lvl (m : Mach) (f : Owners → Owners) : (m.onOwn f).lvl = m.lvl := rfl
@[simp] theorem onOwn_sleep (m : Mach) (f : Owners → Owners) : (m.onOwn f).sleep = m.sleep := rfl
@[simp] theorem onOwn_fn (m : Mach) (f : Owners → Owners) : (m.onOwn f).fn = m.fn := rfl
@[simp] theorem onOwn_own (m : Mach) (f : Owners → Owners) : (m.onOwn f).own = f m.own := rfl
@[simp] theorem onOwn_mgt (m : Mach) (f : Owners → Owners) : (m.onOwn f).mgt = m.mgt := rfl
@[simp] theorem onOwn_mgtSci (m : Mach) (f : Owners → Owners) : (m.onOwn f).mgtSci = m.mgtSci := rfl
@[simp] theorem onOwn_net (m : Mach) (f : Owners → Owners) : (m.onOwn f).net = m.net := rfl
@[simp] theorem onOwn_link (m : Mach) (f : Owners → Owners) : (m.onOwn f).link = m.link := rfl
@[simp] theorem onOwn_rst (m : Mach) (f : Owners → Owners) : (m.onOwn f).rst = m.rst := rfl
@[simp] theorem onOwn_dram (m : Mach) (f : Owners → Owners) : (m.onOwn f).dram = m.dram := rfl
@[simp] theorem onOwn_ueLines (m : Mach) (f : Owners → Owners) : (m.onOwn f).ueLines = m.ueLines := rfl
@[simp] theorem onOwn_draws (m : Mach) (f : Owners → Owners) : (m.onOwn f).draws = m.draws := rfl
@[simp] theorem onOwn_out (m : Mach) (f : Owners → Owners) : (m.onOwn f).out = m.out := rfl
@[simp] theorem onOwn_rd (m : Mach) (f : Owners → Owners) (off : Nat) : (m.onOwn f).rd off = m.rd off := rfl
@[simp] theorem onOwn_g (m : Mach) (f : Owners → Owners) (fd : Fld) : (m.onOwn f).g fd = m.g fd := rfl
@[simp] theorem onOwn_on (m : Mach) (f : Owners → Owners) (fd : Fld) : (m.onOwn f).on fd = m.on fd := rfl
@[simp] theorem setCount_chip (m : Mach) (v : Int) : (m.setCount v).chip = m.chip := rfl
@[simp] theorem setCount_regs (m : Mach) (v : Int) : (m.setCount v).regs = m.regs := rfl
@[simp] theorem setCount_tick (m : Mach) (v : Int) : (m.setCount v).tick = m.tick := rfl
@[simp] theorem setCount_port (m : Mach) (v : Int) : (m.setCount v).port = m.port := rfl
@[simp] theorem setCount_fe (m : Mach) (v : Int) : (m.setCount v).fe = m.fe := rfl
@[simp] theorem setCount_eng (m : Mach) (v : Int) : (m.setCount v).eng = m.eng := rfl
@[simp] theorem setCount_tleq (m : Mach) (v : Int) : (m.setCount v).tleq = m.tleq := rfl
@[simp] theorem setCount_tle (m : Mach) (v : Int) : (m.setCount v).tle = m.tle := rfl
@[simp] theorem setCount_heldDesc (m : Mach) (v : Int) : (m.setCount v).heldDesc = m.heldDesc := rfl
@[simp] theorem setCount_patchNext (m : Mach) (v : Int) : (m.setCount v).patchNext = m.patchNext := rfl
@[simp] theorem setCount_cache (m : Mach) (v : Int) : (m.setCount v).cache = m.cache := rfl
@[simp] theorem setCount_pops (m : Mach) (v : Int) : (m.setCount v).pops = m.pops := rfl
@[simp] theorem setCount_spikes (m : Mach) (v : Int) : (m.setCount v).spikes = m.spikes := rfl
@[simp] theorem setCount_images (m : Mach) (v : Int) : (m.setCount v).images = m.images := rfl
@[simp] theorem setCount_enc (m : Mach) (v : Int) : (m.setCount v).enc = m.enc := rfl
@[simp] theorem setCount_imu (m : Mach) (v : Int) : (m.setCount v).imu = m.imu := rfl
@[simp] theorem setCount_fus (m : Mach) (v : Int) : (m.setCount v).fus = m.fus := rfl
@[simp] theorem setCount_jnl (m : Mach) (v : Int) : (m.setCount v).jnl = m.jnl := rfl
@[simp] theorem setCount_nvs (m : Mach) (v : Int) : (m.setCount v).nvs = m.nvs := rfl
@[simp] theorem setCount_led (m : Mach) (v : Int) : (m.setCount v).led = m.led := rfl
@[simp] theorem setCount_lvl (m : Mach) (v : Int) : (m.setCount v).lvl = m.lvl := rfl
@[simp] theorem setCount_sleep (m : Mach) (v : Int) : (m.setCount v).sleep = m.sleep := rfl
@[simp] theorem setCount_fn (m : Mach) (v : Int) : (m.setCount v).fn = m.fn := rfl
@[simp] theorem setCount_own (m : Mach) (v : Int) : (m.setCount v).own = m.own := rfl
@[simp] theorem setCount_mgt (m : Mach) (v : Int) : (m.setCount v).mgt = m.mgt := rfl
@[simp] theorem setCount_mgtSci (m : Mach) (v : Int) : (m.setCount v).mgtSci = m.mgtSci := rfl
@[simp] theorem setCount_net (m : Mach) (v : Int) : (m.setCount v).net = m.net := rfl
@[simp] theorem setCount_link (m : Mach) (v : Int) : (m.setCount v).link = m.link := rfl
@[simp] theorem setCount_rst (m : Mach) (v : Int) : (m.setCount v).rst = m.rst := rfl
@[simp] theorem setCount_dram (m : Mach) (v : Int) : (m.setCount v).dram = m.dram := rfl
@[simp] theorem setCount_ueLines (m : Mach) (v : Int) : (m.setCount v).ueLines = m.ueLines := rfl
@[simp] theorem setCount_draws (m : Mach) (v : Int) : (m.setCount v).draws = m.draws := rfl
@[simp] theorem setCount_out (m : Mach) (v : Int) : (m.setCount v).out = m.out := rfl
@[simp] theorem setCount_rd (m : Mach) (v : Int) (off : Nat) : (m.setCount v).rd off = m.rd off := rfl
@[simp] theorem setCount_g (m : Mach) (v : Int) (fd : Fld) : (m.setCount v).g fd = m.g fd := rfl
@[simp] theorem setCount_on (m : Mach) (v : Int) (fd : Fld) : (m.setCount v).on fd = m.on fd := rfl
@[simp] theorem touchIdle_chip (m : Mach) : m.touchIdle.chip = m.chip := rfl
@[simp] theorem touchIdle_regs (m : Mach) : m.touchIdle.regs = m.regs := rfl
@[simp] theorem touchIdle_time (m : Mach) : m.touchIdle.time = m.time := rfl
@[simp] theorem touchIdle_tick (m : Mach) : m.touchIdle.tick = m.tick := rfl
@[simp] theorem touchIdle_port (m : Mach) : m.touchIdle.port = m.port := rfl
@[simp] theorem touchIdle_fe (m : Mach) : m.touchIdle.fe = m.fe := rfl
@[simp] theorem touchIdle_eng (m : Mach) : m.touchIdle.eng = m.eng := rfl
@[simp] theorem touchIdle_tleq (m : Mach) : m.touchIdle.tleq = m.tleq := rfl
@[simp] theorem touchIdle_tle (m : Mach) : m.touchIdle.tle = m.tle := rfl
@[simp] theorem touchIdle_heldDesc (m : Mach) : m.touchIdle.heldDesc = m.heldDesc := rfl
@[simp] theorem touchIdle_patchNext (m : Mach) : m.touchIdle.patchNext = m.patchNext := rfl
@[simp] theorem touchIdle_cache (m : Mach) : m.touchIdle.cache = m.cache := rfl
@[simp] theorem touchIdle_pops (m : Mach) : m.touchIdle.pops = m.pops := rfl
@[simp] theorem touchIdle_spikes (m : Mach) : m.touchIdle.spikes = m.spikes := rfl
@[simp] theorem touchIdle_images (m : Mach) : m.touchIdle.images = m.images := rfl
@[simp] theorem touchIdle_enc (m : Mach) : m.touchIdle.enc = m.enc := rfl
@[simp] theorem touchIdle_imu (m : Mach) : m.touchIdle.imu = m.imu := rfl
@[simp] theorem touchIdle_fus (m : Mach) : m.touchIdle.fus = m.fus := rfl
@[simp] theorem touchIdle_jnl (m : Mach) : m.touchIdle.jnl = m.jnl := rfl
@[simp] theorem touchIdle_nvs (m : Mach) : m.touchIdle.nvs = m.nvs := rfl
@[simp] theorem touchIdle_led (m : Mach) : m.touchIdle.led = m.led := rfl
@[simp] theorem touchIdle_lvl (m : Mach) : m.touchIdle.lvl = m.lvl := rfl
@[simp] theorem touchIdle_sleep (m : Mach) : m.touchIdle.sleep = { m.sleep with idleFrom := m.elapsed } := rfl
@[simp] theorem touchIdle_fn (m : Mach) : m.touchIdle.fn = m.fn := rfl
@[simp] theorem touchIdle_own (m : Mach) : m.touchIdle.own = m.own := rfl
@[simp] theorem touchIdle_mgt (m : Mach) : m.touchIdle.mgt = m.mgt := rfl
@[simp] theorem touchIdle_mgtSci (m : Mach) : m.touchIdle.mgtSci = m.mgtSci := rfl
@[simp] theorem touchIdle_net (m : Mach) : m.touchIdle.net = m.net := rfl
@[simp] theorem touchIdle_link (m : Mach) : m.touchIdle.link = m.link := rfl
@[simp] theorem touchIdle_rst (m : Mach) : m.touchIdle.rst = m.rst := rfl
@[simp] theorem touchIdle_dram (m : Mach) : m.touchIdle.dram = m.dram := rfl
@[simp] theorem touchIdle_ueLines (m : Mach) : m.touchIdle.ueLines = m.ueLines := rfl
@[simp] theorem touchIdle_draws (m : Mach) : m.touchIdle.draws = m.draws := rfl
@[simp] theorem touchIdle_out (m : Mach) : m.touchIdle.out = m.out := rfl
@[simp] theorem touchIdle_rd (m : Mach) (off : Nat) : m.touchIdle.rd off = m.rd off := rfl
@[simp] theorem touchIdle_g (m : Mach) (fd : Fld) : m.touchIdle.g fd = m.g fd := rfl
@[simp] theorem touchIdle_on (m : Mach) (fd : Fld) : m.touchIdle.on fd = m.on fd := rfl

end Mach

/-! ## The queue -/

/-- A meaning over the package answers a next state. -/
theorem State.act_eq (s : State) (f : Mach → Mach) : s.act f = .next { s with toMach := f s.toMach } := rfl

end Sys2Proof.Machine
end

