-- ==== Sys2Proof/Laws/Frames.lean ====
section
/-! SUPPORT. What stays unchanged: `OnlyIn` and `RegsBut` compose, and loops keep them. -/

namespace Sys2Proof.Machine

theorem OnlyIn.refl (l : List Part) (a : Mach) : OnlyIn l a a := by
  intro p _; cases p <;> rfl

theorem OnlyIn.trans {l : List Part} {a b c : Mach} (h1 : OnlyIn l a b) (h2 : OnlyIn l b c) : OnlyIn l a c := by
  intro p hp
  have x := h1 p hp
  have y := h2 p hp
  cases p <;> exact Eq.trans y x

theorem OnlyIn.mono {l k : List Part} {a b : Mach} (h : OnlyIn l a b) (hs : ∀ p ∈ l, p ∈ k) : OnlyIn k a b :=
  fun p hp => h p fun hm => hp (hs p hm)

/-- Two updates after one another. -/
theorem OnlyIn.append {l k : List Part} {a b c : Mach} (h1 : OnlyIn l a b) (h2 : OnlyIn k b c) : OnlyIn (l ++ k) a c :=
  (h1.mono fun _ h => List.mem_append_left _ h).trans (h2.mono fun _ h => List.mem_append_right _ h)

/-- A loop keeps what each of its rounds keeps. -/
theorem OnlyIn.forEach {α : Type} {l : List Part} (xs : List α) (f : α → Mach → Mach) (h : ∀ x m, OnlyIn l m (f x m)) (m : Mach) :
    OnlyIn l m (forEach xs f m) := by
  unfold Machine.forEach
  induction xs generalizing m with
  | nil => exact OnlyIn.refl l m
  | cons x r ih => exact (h x m).trans (ih _)

/-- A property that each round of a loop keeps holds after the loop. -/
theorem forEach_keeps {α σ : Type} (P : σ → Prop) (xs : List α) (f : α → σ → σ) (h : ∀ x s, P s → P (f x s)) (s : σ) (hs : P s) :
    P (forEach xs f s) := by
  unfold forEach
  induction xs generalizing s with
  | nil => exact hs
  | cons x r ih => exact ih _ (h x s hs)

theorem RegsBut.refl (l : List Nat) (a : Mach) : RegsBut l a a := fun _ _ => rfl

theorem RegsBut.trans {l : List Nat} {a b c : Mach} (h1 : RegsBut l a b) (h2 : RegsBut l b c) : RegsBut l a c :=
  fun off hp => (h2 off hp).trans (h1 off hp)

theorem OnlyIn.wr (m : Mach) (a : Nat) (w : Word) : OnlyIn [.regs] m (m.wr a w) := by intro p hp; cases p <;> first | rfl | simp at hp
theorem OnlyIn.put (m : Mach) (f : Fld) (v : Nat) : OnlyIn [.regs] m (m.put f v) := OnlyIn.wr m _ _
theorem OnlyIn.inc (m : Mach) (f : Fld) : OnlyIn [.regs] m (m.inc f) := OnlyIn.wr m _ _
theorem OnlyIn.set1 (m : Mach) (f : Fld) : OnlyIn [.regs] m (m.set1 f) := OnlyIn.wr m _ _
theorem OnlyIn.clr (m : Mach) (f : Fld) : OnlyIn [.regs] m (m.clr f) := OnlyIn.wr m _ _
theorem OnlyIn.addTo (m : Mach) (f : Fld) (k : Nat) : OnlyIn [.regs] m (m.addTo f k) := OnlyIn.wr m _ _
theorem OnlyIn.onJnl (m : Mach) (f : Journal → Journal) : OnlyIn [.jnl] m (m.onJnl f) := by
  intro p hp; cases p <;> first | rfl | simp at hp
theorem OnlyIn.onTick (m : Mach) (f : TickUnit → TickUnit) : OnlyIn [.tick] m (m.onTick f) := by
  intro p hp; cases p <;> first | rfl | simp at hp
theorem OnlyIn.onTime (m : Mach) (f : TimeUnit → TimeUnit) : OnlyIn [.time] m (m.onTime f) := by
  intro p hp; cases p <;> first | rfl | simp at hp
theorem OnlyIn.onTrig (m : Mach) (o : Fin 8) (f : TrigOut → TrigOut) : OnlyIn [.time] m (m.onTrig o f) := by
  intro p hp; cases p <;> first | rfl | simp at hp
theorem OnlyIn.onCache (m : Mach) (f : Caches → Caches) : OnlyIn [.cache] m (m.onCache f) := by
  intro p hp; cases p <;> first | rfl | simp at hp
theorem OnlyIn.onEnc (m : Mach) (n : Fin 4) (f : Encoder → Encoder) : OnlyIn [.enc] m (m.onEnc n f) := by
  intro p hp; cases p <;> first | rfl | simp at hp

/-! ## What writing a record may change (R254 to R279) -/

/-- Only the journal, the counters of the JNL and ACT blocks, the count of refused records and the system cache (which the written slot's
line leaves, R450) change. -/
structure RecOnly (a b : Mach) : Prop where
  parts : OnlyIn [.jnl, .regs, .tick, .cache] a b
  tick : b.tick = { a.tick with refusedCarry := b.tick.refusedCarry }
  regs : ∀ off, ¬ (0x1E0000 ≤ off ∧ off < 0x200000) → b.rd off = a.rd off

namespace RecOnly

theorem refl (a : Mach) : RecOnly a a := ⟨OnlyIn.refl _ _, rfl, fun _ _ => rfl⟩

theorem trans {a b c : Mach} (h1 : RecOnly a b) (h2 : RecOnly b c) : RecOnly a c := by
  refine ⟨h1.parts.trans h2.parts, ?_, fun off h => (h2.regs off h).trans (h1.regs off h)⟩
  rw [h2.tick, h1.tick]

theorem forEach {α : Type} (xs : List α) (f : α → Mach → Mach) (h : ∀ x m, RecOnly m (f x m)) (m : Mach) :
    RecOnly m (forEach xs f m) := by
  unfold Machine.forEach
  induction xs generalizing m with
  | nil => exact refl m
  | cons x r ih => exact (h x m).trans (ih _)

theorem onJnl (m : Mach) (f : Journal → Journal) : RecOnly m (m.onJnl f) :=
  ⟨(OnlyIn.onJnl m f).mono (by simp), rfl, fun _ _ => rfl⟩

theorem scDrop (m : Mach) (p : Nat → Bool) : RecOnly m (m.scDrop p) :=
  ⟨(OnlyIn.onCache m _).mono (by simp), rfl, fun _ _ => rfl⟩

theorem put (m : Mach) (f : Fld) (v : Nat) (h1 : 0x1E0000 ≤ f.a) (h2 : f.a < 0x200000) : RecOnly m (m.put f v) :=
  ⟨(OnlyIn.put m f v).mono (by simp), rfl, fun off h => Mach.rd_put_ne m f v (fun e => h (e ▸ ⟨h1, h2⟩))⟩

theorem inc (m : Mach) (f : Fld) (h1 : 0x1E0000 ≤ f.a) (h2 : f.a < 0x200000) : RecOnly m (m.inc f) := put m f _ h1 h2

/-- A field outside the JNL and ACT blocks keeps its value. -/
theorem g {a b : Mach} (h : RecOnly a b) (f : Fld) (hf : ¬ (0x1E0000 ≤ f.a ∧ f.a < 0x200000)) : b.g f = a.g f := by
  unfold Mach.g; rw [h.regs _ hf]

theorem on {a b : Mach} (h : RecOnly a b) (f : Fld) (hf : ¬ (0x1E0000 ≤ f.a ∧ f.a < 0x200000)) : b.on f = a.on f := by
  unfold Mach.on; rw [h.g f hf]

end RecOnly

namespace Mach

theorem freeEarly_recOnly (bank : Nat) (m : Mach) : RecOnly m (m.freeEarly bank).2 := by
  unfold freeEarly
  split
  · exact (RecOnly.onJnl m _).trans (RecOnly.inc _ _ (by decide) (by decide))
  · exact RecOnly.refl m

theorem countRefused_recOnly (cls : Nat) (m : Mach) : RecOnly m (m.countRefused cls) := by
  unfold countRefused
  have tick : ∀ (x : Mach) (f : TickUnit → TickUnit), (∀ t, f t = { t with refusedCarry := (f t).refusedCarry }) → RecOnly x (x.onTick f) :=
    fun x f hf => ⟨(OnlyIn.onTick x f).mono (by simp), hf x.tick, fun _ _ => rfl⟩
  refine RecOnly.trans (RecOnly.inc m _ ?_ ?_) (tick _ _ fun _ => rfl)
  · split <;> decide
  · split <;> decide

theorem RecOnly_addTo (m : Mach) (f : Fld) (k : Nat) (h1 : 0x1E0000 ≤ f.a) (h2 : f.a < 0x200000) : RecOnly m (m.addTo f k) :=
  RecOnly.put m f _ h1 h2

theorem writeCopies_recOnly (bank : Nat) (m : Mach) : RecOnly m (m.writeCopies bank) := by
  refine RecOnly.forEach _ _ (fun d t => ?_) m
  have h := (RecOnly_addTo t R.JNL_MIRROR_ERR (min (t.jnl.failNext.get d) 2) (by decide) (by decide)).trans
    (RecOnly.onJnl _ fun j => { j with failNext := vput j.failNext d 0 })
  dsimp only
  split
  · exact h
  · exact h.trans (RecOnly.onJnl _ _)

/-- Writing a record: only the journal, its counters and the count of refusals change. -/
theorem admitRec_recOnly (f : Fin 8) (b : Body) (flags : Nat) (m : Mach) : RecOnly m (m.admitRec f b flags).2 := by
  unfold admitRec
  dsimp only
  have e : RecOnly m (if bankSlots < m.bankUsed (m.g (R.JNL_F_CFG_BANK f)) + (1 + m.reserveOf b (m.classOf f b) / 64) then
      m.freeEarly (m.g (R.JNL_F_CFG_BANK f)) else (false, m)).2 := by
    split
    · exact freeEarly_recOnly _ m
    · exact RecOnly.refl m
  split
  · exact RecOnly.refl m
  · generalize (if bankSlots < m.bankUsed (m.g (R.JNL_F_CFG_BANK f)) + (1 + m.reserveOf b (m.classOf f b) / 64) then
      m.freeEarly (m.g (R.JNL_F_CFG_BANK f)) else (false, m)).2 = m1 at e ⊢
    split
    · exact countRefused_recOnly _ m
    · split
      · exact e.trans (countRefused_recOnly _ _)
      · split
        · exact e.trans (countRefused_recOnly _ _)
        · have w := e.trans (writeCopies_recOnly (m.g (R.JNL_F_CFG_BANK f)) m1)
          split
          · exact w.trans (countRefused_recOnly _ _)
          · exact w.trans ((RecOnly.scDrop _ _).trans <| (RecOnly.onJnl _ _).trans (RecOnly.inc _ R.JNL_ADMITTED (by decide) (by decide)))

theorem admitAll_recOnly (b : Body) (flags : Nat) (m : Mach) : RecOnly m (m.admitAll b flags) :=
  RecOnly.forEach _ _ (fun f t => admitRec_recOnly f b flags t) m

theorem onceHealth_recOnly (h : HCode) (u : HUnit) (n : Nat) (m : Mach) : RecOnly m (m.onceHealth h u n) := by
  unfold onceHealth
  split
  · exact RecOnly.refl m
  · exact (RecOnly.onJnl _ _).trans (admitAll_recOnly _ _ _)

theorem afterRefusal_recOnly (cls : Nat) (why : Option Refused) (m : Mach) : RecOnly m (m.afterRefusal cls why) := by
  unfold afterRefusal
  split
  · exact onceHealth_recOnly _ _ _ m
  · split
    · exact RecOnly.refl m
    · exact onceHealth_recOnly _ _ _ m
  · exact RecOnly.refl m

theorem syncDelivery_recOnly (m : Mach) : RecOnly m m.syncDelivery := RecOnly.onJnl m _

theorem sayLost_recOnly (m : Mach) : RecOnly m m.sayLost := by
  refine RecOnly.forEach _ _ (fun d t => ?_) m
  have h := (RecOnly.onJnl t fun j => { j with unsaid := j.unsaid.filter (· != d) }).trans
    (admitAll_recOnly (t.healthBody H.mirrorLost (.die d) (t.related H.mirrorLost (.die d)) [d.1 % 2]) 0 _)
  dsimp only
  split
  · exact (h.trans (RecOnly.onJnl _ _)).trans (syncDelivery_recOnly _)
  · exact h

theorem write_recOnly (f : Fin 8) (b : Body) (flags : Nat) (m : Mach) : RecOnly m (m.write f b flags).2 := by
  unfold write
  have h := admitRec_recOnly f b flags m
  split
  · rename_i n m1 heq; rw [heq] at h; exact h.trans (sayLost_recOnly _)
  · rename_i w m1 heq; rw [heq] at h; exact (h.trans (afterRefusal_recOnly _ _ _)).trans (sayLost_recOnly _)

theorem write'_recOnly (f : Fin 8) (b : Body) (flags : Nat) (m : Mach) : RecOnly m (m.write' f b flags) := write_recOnly f b flags m

theorem writeAll_recOnly (b : Body) (flags : Nat) (m : Mach) : RecOnly m (m.writeAll b flags) :=
  RecOnly.forEach _ _ (fun f t => write'_recOnly f b flags t) m

/-- A HEALTH record changes the journal, its counters and the count of refusals only. -/
theorem health_recOnly (h : HCode) (u : HUnit) (d : List Nat) (m : Mach) : RecOnly m (m.health h u d) :=
  writeAll_recOnly _ _ m

theorem timeStatus_recOnly (o : Int) (p q : Quality) (s c : Nat) (st : Int) (m : Mach) : RecOnly m (m.timeStatus o p q s c st) :=
  writeAll_recOnly _ _ m

end Mach

end Sys2Proof.Machine
end

