-- ==== Sys2Proof/Laws/Clock.lean ====
section
/-! SUPPORT. What an increment of the counter may change: the counter, captures, and the action entries that a staged REBASE
resolves (R199, R203, R291, R331). -/

namespace Sys2Proof.Machine

/-- The action unit's operations: the journal and action table with their counters, the pulses of TRIG_OUT, the count of
refused records. -/
structure ActOnly (a b : Mach) : Prop where
  parts : OnlyIn [.jnl, .regs, .tick, .time, .cache] a b
  tick : b.tick = { a.tick with refusedCarry := b.tick.refusedCarry }
  time : b.time = { a.time with trigOut := b.time.trigOut }
  regs : ∀ off, ¬ (0x1E0000 ≤ off ∧ off < 0x200000) → b.rd off = a.rd off

namespace ActOnly

theorem refl (a : Mach) : ActOnly a a := ⟨OnlyIn.refl _ _, rfl, rfl, fun _ _ => rfl⟩

theorem trans {a b c : Mach} (h1 : ActOnly a b) (h2 : ActOnly b c) : ActOnly a c := by
  refine ⟨h1.parts.trans h2.parts, ?_, ?_, fun off h => (h2.regs off h).trans (h1.regs off h)⟩
  · rw [h2.tick, h1.tick]
  · rw [h2.time, h1.time]

theorem forEach {α : Type} (xs : List α) (f : α → Mach → Mach) (h : ∀ x m, ActOnly m (f x m)) (m : Mach) :
    ActOnly m (forEach xs f m) := by
  unfold Machine.forEach
  induction xs generalizing m with
  | nil => exact refl m
  | cons x r ih => exact (h x m).trans (ih _)

theorem ofRec {a b : Mach} (h : RecOnly a b) : ActOnly a b :=
  ⟨h.parts.mono (by simp), h.tick, by rw [show b.time = a.time from h.parts .time (by decide)], h.regs⟩

theorem onTrig (m : Mach) (o : Fin 8) (f : TrigOut → TrigOut) : ActOnly m (m.onTrig o f) :=
  ⟨(OnlyIn.onTrig m o f).mono (by simp), rfl, rfl, fun _ _ => rfl⟩

theorem onJnl (m : Mach) (f : Journal → Journal) : ActOnly m (m.onJnl f) := ofRec (RecOnly.onJnl m f)

theorem inc (m : Mach) (f : Fld) (h1 : 0x1E0000 ≤ f.a) (h2 : f.a < 0x200000) : ActOnly m (m.inc f) := ofRec (RecOnly.inc m f h1 h2)

end ActOnly

namespace Mach

theorem missAction_actOnly (c : MissCause) (a : Action) (m : Mach) : ActOnly m (m.missAction c a) := by
  unfold missAction
  refine ActOnly.trans ((ActOnly.ofRec (write'_recOnly _ _ _ m)).trans (ActOnly.onJnl _ _)) (ActOnly.inc _ _ ?_ ?_) <;> split <;> decide

theorem fireAction_actOnly (late also : Bool) (a : Action) (m : Mach) : ActOnly m (m.fireAction late also a) := by
  unfold fireAction
  split
  · exact missAction_actOnly _ a m
  · dsimp only
    have h0 : ActOnly m (if m.actionHigh a.out then m.markMerged a.out else m) := by
      split
      · exact ActOnly.onJnl _ _
      · exact ActOnly.refl m
    generalize (if m.actionHigh a.out then m.markMerged a.out else m) = m0 at h0 ⊢
    have h : ∀ f B, ActOnly m ((((m0.onTrig a.out f).write' a.fn B 0).dropAction a).inc (if late then R.ACT_FIRED_LATE else R.ACT_FIRED)) :=
      fun f B => (((h0.trans (ActOnly.onTrig m0 a.out f)).trans (ActOnly.ofRec (write'_recOnly a.fn B 0 _))).trans (ActOnly.onJnl _ _)).trans
        (ActOnly.inc _ _ (by split <;> decide) (by split <;> decide))
    split
    · exact (h _ _).trans (ActOnly.inc _ R.ACT_OVERLAP (by decide) (by decide))
    · exact h _ _

theorem lateAction_actOnly (c : MissCause) (a : Action) (m : Mach) : ActOnly m (m.lateAction c a) := by
  unfold lateAction
  split
  · exact ActOnly.onJnl _ _
  · split
    · exact fireAction_actOnly _ _ a m
    · exact missAction_actOnly _ a m

theorem encoderLost_actOnly (n : Fin 4) (m : Mach) : ActOnly m (m.encoderLost n) := by
  unfold encoderLost
  exact ActOnly.forEach _ _ (fun (e : Nat × Action) t => lateAction_actOnly _ e.2 t) m

theorem markReached_actOnly (n : Fin 4) (m : Mach) : ActOnly m (m.markReached n) := ActOnly.onJnl _ _

theorem fireBatch_actOnly (l : List Action) (m : Mach) : ActOnly m (m.fireBatch l) := by
  refine ActOnly.forEach _ _ (fun a t => ?_) m
  split
  · exact lateAction_actOnly _ a t
  · exact fireAction_actOnly _ _ a t

end Mach

/-! ## The counter -/

/-- What running the counter may change. -/
structure ClockOnly (a b : Mach) : Prop where
  parts : OnlyIn [.jnl, .regs, .tick, .time, .enc, .cache] a b
  tick : b.tick = { a.tick with refusedCarry := b.tick.refusedCarry }
  time : b.time = { a.time with n := b.time.n, f := b.time.f, trigOut := b.time.trigOut }
  regs : ∀ off, ¬ (0x1E0000 ≤ off ∧ off < 0x200000) → b.rd off = a.rd off
  count : ∀ n : Fin 4, (b.enc.get n).count = (a.enc.get n).count ∧ (b.enc.get n).a = (a.enc.get n).a ∧
    (b.enc.get n).b = (a.enc.get n).b ∧ (b.enc.get n).e = (a.enc.get n).e

namespace ClockOnly

theorem refl (a : Mach) : ClockOnly a a := ⟨OnlyIn.refl _ _, rfl, rfl, fun _ _ => rfl, fun _ => ⟨rfl, rfl, rfl, rfl⟩⟩

theorem trans {a b c : Mach} (h1 : ClockOnly a b) (h2 : ClockOnly b c) : ClockOnly a c := by
  refine ⟨h1.parts.trans h2.parts, ?_, ?_, fun off h => (h2.regs off h).trans (h1.regs off h), fun n => ?_⟩
  · rw [h2.tick, h1.tick]
  · rw [h2.time, h1.time]
  · obtain ⟨x1, x2, x3, x4⟩ := h1.count n
    obtain ⟨y1, y2, y3, y4⟩ := h2.count n
    exact ⟨y1.trans x1, y2.trans x2, y3.trans x3, y4.trans x4⟩

theorem ofAct {a b : Mach} (h : ActOnly a b) : ClockOnly a b :=
  ⟨h.parts.mono (by simp), h.tick, by rw [h.time], h.regs, fun n => by
    rw [show b.enc = a.enc from h.parts .enc (by decide)]; exact ⟨rfl, rfl, rfl, rfl⟩⟩

theorem onEnc (m : Mach) (n : Fin 4) (f : Encoder → Encoder)
    (hf : ∀ e, (f e).count = e.count ∧ (f e).a = e.a ∧ (f e).b = e.b ∧ (f e).e = e.e) : ClockOnly m (m.onEnc n f) := by
  refine ⟨(OnlyIn.onEnc m n f).mono (by simp), rfl, rfl, fun _ _ => rfl, fun k => ?_⟩
  rw [Mach.onEnc_enc, vmod_get]
  split
  · rename_i h; subst h; exact hf _
  · exact ⟨rfl, rfl, rfl, rfl⟩

/-- A field outside the JNL and ACT blocks keeps its value. -/
theorem g {a b : Mach} (h : ClockOnly a b) (f : Fld) (hf : ¬ (0x1E0000 ≤ f.a ∧ f.a < 0x200000)) : b.g f = a.g f := by
  unfold Mach.g; rw [h.regs _ hf]

theorem on {a b : Mach} (h : ClockOnly a b) (f : Fld) (hf : ¬ (0x1E0000 ≤ f.a ∧ f.a < 0x200000)) : b.on f = a.on f := by
  unfold Mach.on; rw [h.g f hf]

end ClockOnly

namespace Mach

theorem applyValueSet_clockOnly (n : Fin 4) (s : Int) (m : Mach) : ClockOnly m (m.applyValueSet n s) := by
  unfold applyValueSet
  have base : ∀ b c, ClockOnly m (m.onEnc n fun e => e.rebased s b c) :=
    fun b c => ClockOnly.onEnc m n _ fun e => ⟨rfl, rfl, rfl, rfl⟩
  dsimp only
  split
  · exact (base _ _).trans ((ClockOnly.ofAct (encoderLost_actOnly n _)).trans (ClockOnly.ofAct (markReached_actOnly n _)))
  · split
    · exact (base _ _).trans (ClockOnly.ofAct (markReached_actOnly n _))
    · exact ClockOnly.refl m

theorem capture_same (e : Encoder) (first last : Int) (mark : Option (Int × Int)) :
    (e.capture first last mark).count = e.count ∧ (e.capture first last mark).a = e.a ∧ (e.capture first last mark).b = e.b ∧
      (e.capture first last mark).e = e.e := ⟨rfl, rfl, rfl, rfl⟩

theorem forEach_clockOnly {α : Type} (xs : List α) (f : α → Mach → Mach) (h : ∀ x m, ClockOnly m (f x m)) (m : Mach) :
    ClockOnly m (forEach xs f m) := by
  unfold forEach
  induction xs generalizing m with
  | nil => exact ClockOnly.refl m
  | cons x r ih => exact (h x m).trans (ih _)

theorem captureAll_clockOnly (first last : Int) (mark : Option (Int × Int)) (m : Mach) : ClockOnly m (m.captureAll first last mark) := by
  refine forEach_clockOnly _ _ (fun n t => ?_) m
  exact (ClockOnly.onEnc t n _ fun e => capture_same e first last mark).trans (applyValueSet_clockOnly n first _)

/-- Captures leave the counter alone. -/
theorem captureAll_count (first last : Int) (mark : Option (Int × Int)) (m : Mach) :
    (m.captureAll first last mark).time.n = m.time.n ∧ (m.captureAll first last mark).time.f = m.time.f := by
  refine forEach_keeps (fun t : Mach => t.time.n = m.time.n ∧ t.time.f = m.time.f) _ _ (fun n t ht => ?_) m ⟨rfl, rfl⟩
  have key : ∀ x : Mach, (x.applyValueSet n first).time.n = x.time.n ∧ (x.applyValueSet n first).time.f = x.time.f := by
    intro x
    unfold applyValueSet
    dsimp only
    split
    · rw [(markReached_actOnly n _).time, (encoderLost_actOnly n _).time]; exact ⟨rfl, rfl⟩
    · split
      · rw [(markReached_actOnly n _).time]; exact ⟨rfl, rfl⟩
      · exact ⟨rfl, rfl⟩
  rw [(key _).1, (key _).2]
  exact ht

/-- The counter as the two parts of a number of units of 2^-32 ns. -/
theorem count64_setCount (v : Int) (m : Mach) : (m.setCount v).count64 = v := by
  have h0 : (0 : Int) < 2 ^ 32 := by norm_num
  have h : 0 ≤ v.fmod (2 ^ 32) := Int.fmod_nonneg_of_pos v h0
  show v.fdiv (2 ^ 32) * 2 ^ 32 + ((v.fmod (2 ^ 32)).toNat : Int) = v
  rw [Int.toNat_of_nonneg h]
  have := Int.mul_fdiv_add_fmod v (2 ^ 32)
  linarith

/-- k increments add k times A to the counter (R331). -/
theorem runIncs_count64 (k : Nat) (m : Mach) : (m.runIncs k).count64 = m.count64 + k * m.addend := by
  have h : ∀ x : Mach, ∀ a b c, (x.captureAll a b c).count64 = x.count64 := fun x a b c => by
    unfold count64; rw [(captureAll_count a b c x).1, (captureAll_count a b c x).2]
  unfold runIncs
  dsimp only
  split
  · exact count64_setCount _ _
  · rw [h]; exact count64_setCount _ _

/-- Running the counter changes nothing but the counter, captures, and what a staged REBASE resolves. -/
theorem runIncs_clockOnly (k : Nat) (m : Mach) : ClockOnly m (m.runIncs k) := by
  have h : ClockOnly m (m.tickClock k) :=
    ⟨by intro p hp; cases p <;> first | rfl | simp at hp, rfl, rfl, fun _ _ => rfl, fun _ => ⟨rfl, rfl, rfl, rfl⟩⟩
  unfold runIncs
  dsimp only
  split
  · exact h
  · exact h.trans (captureAll_clockOnly _ _ _ _)

theorem runTo_clockOnly (t : Int) (m : Mach) : ClockOnly m (m.runTo t) := runIncs_clockOnly _ m

theorem runToElapsed_clockOnly (t : Int) (m : Mach) : ClockOnly m (m.runToElapsed t) := runIncs_clockOnly _ m

/-- An instant that has passed costs no increment. -/
theorem incsTo_past (m : Mach) (t : Int) (h : t ≤ m.time.n) : m.incsTo t = 0 := by simp [incsTo, h]

theorem tickClock_zero (m : Mach) (hf : m.time.f < 2 ^ 32) : m.tickClock 0 = m := by
  have h0 : (0 : Int) < 2 ^ 32 := by norm_num
  have e : m.count64 + (0 : Nat) * m.addend = m.time.n * 2 ^ 32 + m.time.f := by simp [count64]
  unfold tickClock
  rw [e]
  have hf' : (m.time.f : Int) < 2 ^ 32 := by exact_mod_cast hf
  have h1 : (m.time.n * 2 ^ 32 + (m.time.f : Int)).fdiv (2 ^ 32) = m.time.n := by
    rw [Int.fdiv_eq_ediv_of_nonneg _ (le_of_lt h0)]; omega
  have h2 : ((m.time.n * 2 ^ 32 + (m.time.f : Int)).fmod (2 ^ 32)).toNat = m.time.f := by
    rw [Int.fmod_eq_emod_of_nonneg _ (le_of_lt h0)]; omega
  unfold setCount
  rw [h1, h2]

/-- Running to an instant that has passed changes nothing. -/
theorem runTo_past (m : Mach) (t : Int) (h : t ≤ m.time.n) (hf : m.time.f < 2 ^ 32) : m.runTo t = m := by
  unfold runTo
  rw [incsTo_past m t h]
  unfold runIncs
  rw [tickClock_zero m hf]
  dsimp only
  have : ¬ (m.time.n.fdiv 1000 + 1) * 1000 ≤ m.time.n.fdiv 1000 * 1000 := by omega
  rw [if_pos (by omega)]

/-- Every increment moves the counter forward (R331). -/
theorem addend_pos (m : Mach) : 0 < m.addend := by
  have hc : -1000000 ≤ clampI m.time.y (-1000000) 1000000 ∧ clampI m.time.y (-1000000) 1000000 ≤ 1000000 := by
    unfold clampI; split
    · omega
    · split <;> omega
  have key : ∀ y : Int, -1000000 ≤ y → y ≤ 1000000 → -17179870 ≤ rnd (4 * 2 ^ 32 * y) 1000000000 := by
    intro y h1 h2
    unfold rnd
    simp only [show (1000000000 : Int).natAbs = 1000000000 from rfl]
    rw [if_neg (by norm_num)]
    split <;> omega
  have := key _ hc.1 hc.2
  unfold addend
  omega

/-- The counter reaches the instant it runs to (R331). -/
theorem runTo_reaches (m : Mach) (t : Int) : t ≤ (m.runTo t).time.n := by
  have ha := m.addend_pos
  have h0 : (0 : Int) < 2 ^ 32 := by norm_num
  have hc := runIncs_count64 (m.incsTo t) m
  by_cases h : t ≤ m.time.n
  · have hn : (m.runIncs 0).count64 = m.count64 := by rw [runIncs_count64]; simp
    unfold runTo
    rw [incsTo_past m t h]
    have key : ∀ x : Mach, ∀ a b c, (x.captureAll a b c).time.n = x.time.n := fun x a b c => (captureAll_count a b c x).1
    have hm : (m.tickClock 0).time.n = (m.time.n * 2 ^ 32 + m.time.f).fdiv (2 ^ 32) := by
      unfold tickClock setCount count64; simp
    have hge : m.time.n ≤ (m.tickClock 0).time.n := by
      rw [hm, Int.fdiv_eq_ediv_of_nonneg _ (le_of_lt h0)]; omega
    unfold runIncs
    dsimp only
    split
    · omega
    · rw [key]; omega
  · have e : m.incsTo t = ((t * 2 ^ 32 - m.count64 + m.addend - 1).fdiv m.addend).toNat := by simp [incsTo, h]
    have hcnt : t * 2 ^ 32 ≤ (m.runTo t).count64 := by
      unfold runTo
      rw [hc, e]
      have hgap : 0 ≤ t * 2 ^ 32 - m.count64 + m.addend - 1 ∨ t * 2 ^ 32 - m.count64 + m.addend - 1 < 0 := le_or_gt _ _
      rcases hgap with hg | hg
      · rw [Int.toNat_of_nonneg (Int.fdiv_nonneg hg (le_of_lt ha))]
        have hdm := Int.mul_fdiv_add_fmod (t * 2 ^ 32 - m.count64 + m.addend - 1) m.addend
        have hlt := Int.fmod_lt_of_pos (t * 2 ^ 32 - m.count64 + m.addend - 1) ha
        rw [mul_comm] at hdm
        linarith
      · have : (0 : Int) ≤ ((((t * 2 ^ 32 - m.count64 + m.addend - 1).fdiv m.addend).toNat : Nat) : Int) * m.addend := by positivity
        linarith
    have hf : (m.runTo t).time.f < 2 ^ 32 := by
      have hs : ∀ v (x : Mach), (x.setCount v).time.f < 2 ^ 32 := by
        intro v x
        have h1 := Int.fmod_nonneg_of_pos v h0
        have h2 := Int.fmod_lt_of_pos v h0
        show (v.fmod (2 ^ 32)).toNat < 2 ^ 32
        omega
      unfold runTo runIncs
      dsimp only
      split
      · exact hs _ _
      · rw [(captureAll_count _ _ _ _).2]; exact hs _ _
    have hd : (m.runTo t).count64 = (m.runTo t).time.n * 2 ^ 32 + ((m.runTo t).time.f : Int) := rfl
    have hf' : ((m.runTo t).time.f : Int) < 2 ^ 32 := by exact_mod_cast hf
    by_contra hlt
    have hlt' : (m.runTo t).time.n + 1 ≤ t := by omega
    have hmul : ((m.runTo t).time.n + 1) * 2 ^ 32 ≤ t * 2 ^ 32 := by nlinarith
    linarith

end Mach

end Sys2Proof.Machine
end

