-- ==== Sys2Proof/Laws/Layout.lean ====
section
/-! SUPPORT. How many bytes each layout writes: every entry that leaves the block has the size its rule gives it. -/

namespace Sys2Proof.Machine

@[simp] theorem bytesOf_length (n v : Nat) : (bytesOf n v).length = n := by
  induction n generalizing v with
  | zero => rfl
  | succ n ih => simp [bytesOf, ih]

@[simp] theorem bytesOfI_length (n : Nat) (v : Int) : (bytesOfI n v).length = n := bytesOf_length ..

@[simp] theorem zeros_length (n : Nat) : (zeros n).length = n := List.length_replicate

@[simp] theorem sliceB_length (b : List Byte) (i n : Nat) : (sliceB b i n).length = n := by
  have : ((b.drop i).take n).length ≤ n := List.length_take_le ..
  simp only [sliceB, List.length_append, List.length_replicate]
  omega

@[simp] theorem detailBytes_length (code : Nat) (l : List Nat) : (detailBytes code l).length = 32 := by
  unfold detailBytes
  exact sliceB_length ..

/-- A curd is 64 bytes (R111). -/
theorem Curd.bytes_length (c : Curd) : c.bytes.length = 64 := by
  delta Curd.bytes
  repeat rw [List.length_append]
  simp only [bytesOf_length, bytesOfI_length, zeros_length]

/-- A record's body fills bytes 0x10 to 0x3F (R254). -/
theorem Body.bytes_length (b : Body) : b.bytes.length = 48 := by
  cases b with
  | comet final => cases final <;> simp [Body.bytes, cometBody]
  | _ => simp [Body.bytes, curdBody, summaryBody]

/-- A record is 64 bytes (R254). -/
theorem JRec.bytes_length (r : JRec) (phase : Bool) : (r.bytes phase).length = 64 := by simp [JRec.bytes, Body.bytes_length]

/-- An action entry is 32 bytes (R287), and so are a rule (R293) and a ring state (R458). -/
theorem Action.bytes_length (a : Action) : a.bytes.length = 32 := by simp [Action.bytes]

theorem Rule.bytes_length (r : Rule) : r.bytes.length = 32 := by simp [Rule.bytes]

theorem Delivery.bytes_length (d : Delivery) : d.bytes.length = 32 := by simp [Delivery.bytes]

/-- A commit group is 65,536 bytes (R274). -/
theorem Group.bytes_length (g : Group) (snap : List Byte) : (g.bytes snap).length = 65536 := by
  unfold Group.bytes Group.withCrc
  exact sliceB_length ..

/-- A completion entry is 64 bytes (R382), and so is a TAP entry (R381). -/
theorem Cpl.bytes_length (e : Cpl) (phase : Bool) : (e.bytes phase).length = 64 := by simp [Cpl.bytes]

theorem tapEntry_length (phase : Bool) (dropped : Nat) (words : List EvWord) : (tapEntry phase dropped words).length = 64 := by
  unfold tapEntry
  exact sliceB_length ..

/-- The length of a list of equally long pieces laid end to end. -/
theorem flatMap_length {α : Type} (l : List α) (f : α → List Byte) (n : Nat) (h : ∀ a ∈ l, (f a).length = n) :
    (l.flatMap f).length = n * l.length := by
  induction l with
  | nil => rfl
  | cons a l ih =>
    rw [List.flatMap_cons, List.length_append, h a (by simp), ih fun b hb => h b (List.mem_cons_of_mem _ hb), List.length_cons]
    ring

/-- The snapshot is 139,264 bytes when it holds 32 streams' RSNs, 40 ring states and eight tables of 32 rules (R458). -/
theorem SnapData.bytes_length (s : SnapData) (h1 : s.next.length = 32) (h2 : s.delivery.length = 40) (h3 : s.rules.length = 8)
    (h4 : ∀ l ∈ s.rules, l.length = 32) : s.bytes.length = 139264 := by
  have a2 := flatMap_length s.next (fun n => bytesOf 8 (s.epoch * 2 ^ 48 + n)) 8 (fun _ _ => bytesOf_length ..)
  have a3 := flatMap_length s.delivery Delivery.bytes 32 (fun _ _ => Delivery.bytes_length _)
  have a4 := flatMap_length s.rules (fun l => l.flatMap fun r => r.bytes.take 24) 768
    (fun l hl => by rw [flatMap_length l _ 24 fun r _ => by simp [Rule.bytes_length], h4 l hl])
  simp only [SnapData.bytes, List.length_append, a2, a3, a4, h1, h2, h3, bytesOf_length, bytesOfI_length, zeros_length]
  rw [flatMap_length (List.range 4096) _ 32 fun k _ => by split <;> simp [Action.bytes_length], List.length_range]

end Sys2Proof.Machine
end

