-- ==== Sys2Proof/Tests/Slice0.lean ====
section
/-! SUPPORT. Tests: ill-formed commands are refused, every hypothesis of the statements is met by a concrete state, and single
commands answer what the spec's own examples and tables give. -/

namespace Sys2Proof.Machine.Test

section

set_option Elab.async false

/-- A die whose self-test found everything good. -/
def good : DiePlan :=
  { engGood := 0x3FFFF, bankGood := 0x3FFFF, feGood := 0x1F, tleGood := 3, sliceGood := 0x1FF, levels := List.replicate 18 7 }

/-- The package after its bring-up. -/
def up : Mach :=
  { rst := { hold := none, outLow := false, ready := true, stage := 9, held := 0, fwVerified := true, fromPor := false,
             dies := Vector.replicate 4 good, scGood := 0x1FFFF } }

/-- A package with fields set. -/
def setF (l : List (Fld × Nat)) (m : Mach) : Mach := l.foldl (fun (m : Mach) x => m.put x.1 x.2) m

/-- A state with two commands waiting. -/
def st (m : Mach) : State := { toMach := m, pending := [.encCapture, .fusionTick] }

/-! ## Hypotheses met: motion inputs -/

def enc1 (m : Mach) : Mach := (setF [(R.MOT_ENC_CTRL_EN 1, 1), (R.MOT_IMU_CTRL_EN 1, 1)] m).onEnc 1 fun e =>
  { e with a := true, count := 41, e := 7, idx := some (3, 4), caps := [{ first := 0, last := 0, p := 41, e := 7, mark := none }] }

theorem meets_EncoderEdgesIndexAndCapture :
    let s := st (enc1 up)
    let dis := st up
    let w := st ((enc1 up).put (R.MOT_ENC_CTRL_WAKE_EN 1) 1 |>.onSleep fun x => { x with state := 2 })
    let ent := st ((enc1 up).put (R.MOT_ENC_CTRL_WAKE_EN 1) 1 |>.onSleep fun x => { x with entering := some 4 })
    (dis.on (R.MOT_ENC_CTRL_EN 1) = false) ∧ (st (up.onSleep fun x => { x with state := 3 })).sleep.state = 3 ∧
    (s.on (R.MOT_ENC_CTRL_EN 1) = true ∧ s.sleep.state ≠ 3 ∧ s.on (R.MOT_ENC_CTRL_SWAP 1) = false ∧
      (s.enc.get 1).a = true ∧ (s.enc.get 1).b = false) ∧
    (s.sleep.state = 0 ∧ s.sleep.entering = none) ∧
    (w.on (R.MOT_ENC_CTRL_EN 1) = true ∧ w.on (R.MOT_ENC_CTRL_WAKE_EN 1) = true ∧ w.sleep.state = 2) ∧
    (ent.on (R.MOT_ENC_CTRL_EN 1) = true ∧ ent.on (R.MOT_ENC_CTRL_WAKE_EN 1) = true ∧ ent.sleep.state = 0 ∧ ent.sleep.goS3 = false) ∧
    (s.on (R.MOT_ENC_CTRL_IDX_POL 1) = false ∧ true ≠ s.on (R.MOT_ENC_CTRL_IDX_POL 1)) := by decide +kernel

theorem meets_MotionReadsLatch :
    let s := st (enc1 up)
    let ring : List Capture := [{ first := 9000000, last := 10000000, p := 41, e := 9000000, mark := none }]
    let c := st { (enc1 up).onEnc 1 (fun x => { x with e := 9000000, caps := ring, set := { x.set with cpm := 512000 } }) with
      time := { up.time with n := 10050000 } }
    let o := st ((enc1 up).onImu 1 fun x => { x with chans := vput x.chans 0 { outs := [{ x := -5, t := 9000, fill := false }] } })
    (s.enc.get 1).caps.head?.isSome = true ∧ (s.enc.get 1).idx = some (3, 4) ∧ (st up).on (R.MOT_ENC_CTRL_EN 1) = false ∧
    (o.imuOut 1 0).isSome = true ∧ c.mdAt 1 10000000 = .notYet ∧ c.mdAt 1 5 = .invalid true ∧ s.mdAt 0 1 = .invalid false ∧
    (match c.mdAt 1 9000000 with | .ok _ => true | _ => false) = true := by
  decide +kernel

theorem meets_EncoderEnableAndValueSet : (st up).on (R.MOT_ENC_CTRL_EN 3) = false := by decide +kernel

theorem meets_ImuPortCommands :
    let s := st (enc1 up)
    let b := st ((enc1 up).onImu 1 fun x => { x with busy := true })
    let ok := st (setF [(R.MOT_IMU_XFER_RD_LEN 1, 16), (R.MOT_IMU_XFER_SKIP 1, 0), (R.MOT_IMU_XFER_CMD_LEN 1, 8)] up)
    let odd := st (setF [(R.MOT_IMU_XFER_RD_LEN 1, 1), (R.MOT_IMU_XFER_SKIP 1, 0)] up)
    (true ≠ s.on (R.MOT_IMU_CTRL_DRDY_POL 1) ∧ true ≠ b.on (R.MOT_IMU_CTRL_DRDY_POL 1) ∧ false = s.on (R.MOT_IMU_CTRL_DRDY_POL 1)) ∧
    (s.on (R.MOT_IMU_CTRL_EN 1) = true ∧ (s.imu.get 1).busy = false) ∧ (b.on (R.MOT_IMU_CTRL_EN 1) = true ∧ (b.imu.get 1).busy = true) ∧
    ok.g (R.MOT_IMU_XFER_RD_LEN 1) = 16 ∧ ok.g (R.MOT_IMU_XFER_SKIP 1) = 0 ∧ ok.g (R.MOT_IMU_XFER_CMD_LEN 1) = 8 ∧
    odd.g (R.MOT_IMU_XFER_RD_LEN 1) < odd.g (R.MOT_IMU_XFER_SKIP 1) + 2 := by decide +kernel

/-! ## Hypotheses met: the queue and the invariants -/

theorem meets_StepRunsTheFrontCommand :
    (∃ rest, (st up).pending = .encCapture :: rest) ∧ State.reset.pending = [] := ⟨⟨_, rfl⟩, rfl⟩

/-- A command that stores to a register, then one that runs the counter. -/
def two : State := { toMach := up, pending := [.registerWrite 0 0 1#32 0xF#4, .encCapture] }

theorem meets_MemoriesStayCanonical : Canonical two.toMach ∧ (∃ t, step two = .next t) := by
  refine ⟨?_, ⟨_, rfl⟩⟩
  unfold Canonical
  decide +kernel

theorem meets_FrequencyNeverAboveVoltage :
    (∀ d : Fin 4, (two.lvl.get d).freq ≤ (two.lvl.get d).volt) ∧ (∃ t, step two = .next t) := by
  refine ⟨?_, ⟨_, rfl⟩⟩
  decide +kernel

/-! ## Hypotheses met: sensor ports -/

def le16 (w : Nat) : List Byte := [BitVec.ofNat 8 w, BitVec.ofNat 8 (w / 256)]

/-- R69's example map in flow map 0: 16-bit words, the type in [15:12]. -/
def fmapA : List (Fld × Nat) :=
  [(⟨R.FMAP_WT0_A 0 2, 31, 0⟩, 0x00B00030), (⟨R.FMAP_WT0_A 0 3, 31, 0⟩, 0x00C00020), (⟨R.FMAP_WT0_A 0 6, 31, 0⟩, 0x00000B30),
   (⟨R.FMAP_WT0_A 0 8, 31, 0⟩, 0x00C00010), (R.FMAP_CFG_WSIZE 0, 0), (R.FMAP_CFG_TYPE_POS 0, 12), (R.FMAP_CFG_HSHIFT 0, 12)]

/-- Port 5 enabled on virtual channel 0. -/
def port5 : Mach :=
  (setF (fmapA ++ [(R.ING_CTRL_EN 5, 1), (⟨R.ING_VCMAP_A 5 0, 31, 0⟩, 0x88), (R.ING_DT_DT_EN 5, 3), (R.ING_DT_RAW8_EN 5, 1)]) up).onPort 5
    fun x => { x with running := true }

def pay5 : List Byte := [0x8123, 0x3456, 0x2192, 0x6260].flatMap le16
def hdr5 (vc dt wc : Nat) (e : EccResult) : Csi2Header := { vc := vc, dt := dt, wc := wc, ecc := e }

/-- Port 5 with a long packet in reception. -/
def rx5 (dt : Nat) : Mach := (port5.startRx 5 (hdr5 0 dt 12 .ok)).feed 5 pay5

theorem meets_ShortAndRaw8Packets :
    let s := st port5
    let idle := st up
    let boot := st (port5.onRst fun r => { r with ready := false })
    let no8 := st (port5.put (R.ING_DT_RAW8_EN 5) 0)
    let s2 := fun (on : Nat) => st ((port5.put (R.ING_CTRL_EN 5) on).onSleep fun z => { z with state := 2 })
    (s.sleep.state = 0 ∧ s.sleep.entering = none ∧ idle.sleep.state = 0 ∧ idle.sleep.entering = none ∧ boot.sleep.state = 0 ∧
      boot.sleep.entering = none ∧ no8.sleep.state = 0 ∧ no8.sleep.entering = none ∧ (no8.port.get 5).flushPend = false ∧
      (no8.port.get 5).stopReq = false ∧ no8.rst.ready = true) ∧
    ((s2 1).sleep.state = 2 ∧ (s2 1).on (R.ING_CTRL_EN 5) = true ∧ (s2 0).sleep.state = 2 ∧ (s2 0).on (R.ING_CTRL_EN 5) = false) ∧
    (let x := s.port.get 5
     x.flushPend = false ∧ x.stopReq = false ∧ x.running = true ∧ x.rx = none ∧ s.rst.ready = true ∧ s.vcOn 5 0 = true ∧ s.vcOn 5 15 = false ∧
     s.on (R.ING_DT_RAW8_EN 5) = true ∧ (hdr5 0 0x2A 8 .ok).wc = pay5.length) ∧
    (let x := idle.port.get 5
     x.flushPend = false ∧ x.stopReq = false ∧ x.running = false) ∧
    (let x := boot.port.get 5
     x.running = true ∧ x.rx = none ∧ x.flushPend = false ∧ x.stopReq = false ∧ boot.rst.ready = false) ∧
    (no8.vcOn 5 0 = true ∧ no8.on (R.ING_DT_RAW8_EN 5) = false ∧ (no8.port.get 5).running = true ∧ (no8.port.get 5).rx = none) := by
  decide +kernel

theorem meets_DecodedPacketsAndSensorTime :
    let s := st port5
    let boot := st (port5.onRst fun r => { r with ready := false })
    let h := hdr5 0 0x30 8 .ok
    (s.sleep.state = 0 ∧ s.sleep.entering = none ∧ boot.sleep.state = 0 ∧ boot.sleep.entering = none ∧ (boot.port.get 5).rx = none ∧
      (boot.port.get 5).flushPend = false ∧ (boot.port.get 5).stopReq = false) ∧
    (let x := s.port.get 5
     x.running = true ∧ x.rx = none ∧ x.flushPend = false ∧ x.stopReq = false ∧ s.rst.ready = true ∧ h.ecc = .ok ∧ h.vc < 16 ∧
     s.vcOn 5 h.vc = true ∧ 0x30 ≤ h.dt ∧ h.dt ≤ 0x37 ∧ bitN (s.g (R.ING_DT_DT_EN 5)) (h.dt - 0x30) = true ∧ pay5.length = h.wc) ∧
    (((((s.toMach.headerIn 5).inc (R.ING_RX_PKTS 5)).startRx 5 h).feed 5 pay5).port.get 5).rx.isSome = true ∧
    ((st up).port.get 5).running = false ∧ ((boot.port.get 5).running = true ∧ boot.rst.ready = false) ∧
    (((rx5 0x2A).port.get 5).rx.map fun r => r.hdr.dt) = some 0x2A ∧ (((rx5 0x30).port.get 5).rx.map fun r => r.hdr.dt) = some 0x30 ∧
    (3 < 2 ^ 4 ∧ 4 ≤ 36 ∧ 100 + 2 ^ 4 < 2 ^ 64) := by decide +kernel

theorem meets_SyncEdgesAndFit :
    let s := st ((port5.put (R.ING_CTRL_SYNC_EN 5) 1).onPort 5 fun x => { x with syncUntil := some 5000, fit := { x.fit with valid := true } })
    let z := st up
    (s.on (R.ING_CTRL_SYNC_EN 5) = true ∧ (s.settings 5).syncOk 5 = true ∧ (z.settings 5).syncOk 5 = true) ∧ (s.port.get 5).syncUntil = some 5000 ∧ (s.port.get 5).fit.valid = true ∧
    z.on (R.ING_CTRL_SYNC_EN 5) = false ∧ (z.port.get 5).syncUntil = none ∧ (z.port.get 5).fit.valid = false := by decide +kernel

theorem meets_PortEnableDisableFlush :
    let s := st port5
    let bad := st ((port5.put (R.ING_CTRL_EN 5) 0).put (R.ING_PHY_LANES 5) 3)
    let banked := st ((port5.put (R.ING_CTRL_EN 5) 0).put ⟨R.FE_D_BANKS0_A 1 + 4, 31, 0⟩ 0x03020100)
    let p := st (port5.onPort 5 fun x => { x with flushPend := true, stopReq := true })
    s.on (R.ING_CTRL_EN 5) = true ∧ ((s.port.get 5).flushPend = false ∧ (s.port.get 5).stopReq = false) ∧
    (bad.on (R.ING_CTRL_EN 5) = false ∧ (bad.enableReject 5).isSome = true) ∧
    (p.port.get 5).flushPend = true ∧ (p.port.get 5).stopReq = true ∧ (p.port.get 5).rx = none ∧
    (banked.on (R.ING_CTRL_EN 5) = false ∧ banked.enableReject 5 = none) := by decide +kernel

theorem meets_SensorControlTransfers :
    let s := st up
    let mg := st (up.put (R.ING_SCI_CFG_OWNER 5) 1)
    let b := st (up.onPort 5 fun x => { x with sci := some { who := .host, startEl := 0, rlen := 4 } })
    let i3c := st (up.put (R.ING_SCI_CFG_MODE 5) 3)
    let resv := st (up.put (R.ING_SCI_CFG_MODE 5) 5)
    (s.sciMode 5 = 0 ∧ i3c.sciMode 5 = 3 ∧ (i3c.port.get 5).sci = none ∧ 4 < resv.sciMode 5) ∧ s.mgtSci ≠ some 5 ∧
    (s.on (R.ING_SCI_CFG_OWNER 5) == (Party.host == .mgt)) = true ∧ (s.on (R.ING_SCI_CFG_OWNER 5) == (Party.mgt == .mgt)) = false ∧
    (mg.on (R.ING_SCI_CFG_OWNER 5) == (Party.mgt == .mgt)) = true ∧ (s.port.get 5).sci = none ∧ (b.port.get 5).sci = some { who := .host, startEl := 0, rlen := 4 } ∧
    (127 < 128 ∧ 32 ≤ 32 ∧ 32 < 33 ∧ 7 < 8) := by decide +kernel

/-! ## Hypotheses met: the event front end -/

def ev (x y t : Nat) : EvWord := ⟨false, false, t, false, 5, true, y, x⟩

/-- Port 5 with two events to read, in the tick that starts at 0. -/
def fe5 : Mach :=
  let m := (setF [(R.ING_CTRL_EN 5, 1), (R.ING_GEOM_WIDTH 5, 1280), (R.ING_GEOM_HEIGHT 5, 720), (R.FE_CTRL_HOT_EN 5, 1), (R.FE_CTRL_REF_EN 5, 1),
    (R.FE_FILT_REFRACT 5, 100), (R.FE_CURD 5, 1)] up).onPort 5 fun x =>
      { x with running := true, reading := some { roi := false, trunc := false, words := [ev 3 4 50000, ev 5 4 51000], pos := 0 } }
  { m with time := { m.time with n := 60000 }, tick := { m.tick with start := 0, accts := [{ tn := 0, start := 0, works := true }] } }

theorem meets_SurfaceCodesDecode :
    (let e := epochOf 20000
     16389 < 65536 ∧ 32773 / 16384 = (e % 3).toNat + 1 ∧ 16389 / 16384 = ((e + 2) % 3).toNat + 1 ∧
     (5 / 16384 ≠ (e % 3).toNat + 1 ∧ 5 / 16384 ≠ ((e + 2) % 3).toNat + 1) ∧ (ageOf 20000 16389).isSome = true ∧
     epochOf 20005 = e ∧ epochOf 5 = e - 1) := by decide +kernel

theorem meets_EventReadsOneWord :
    let learn := st (fe5.onFe 5 fun x => { x with learning := some { bs := 0, be := none } })
    let hot2 := st (fe5.onFe 5 fun x => { x with surf := [(fe5.cellPlace 5 (4 * 1280 + 3), 1#32)] })
    let refr := st ((fe5.put (R.FE_CTRL_HOT_EN 5) 0).onFe 5 fun x => { x with surf := [(fe5.cellPlace 5 (4 * 1280 + 3), BitVec.ofNat 32 (encodeTau (tauOf 50000)))] })
    let base := fun (s : State) => s.feRuns 5 = true ∧ epochOf (tauOf s.time.n) ≤ (s.fe.get 5).sweep ∧
      (s.fn.get (s.own.port.get 5)).tap.en = false ∧ 3 < s.feWidth 5 ∧ 4 < s.feHeight 5 ∧
      ((s.port.get 5).reading.bind fun r => r.words[r.pos]?) = some (ev 3 4 50000) ∧ s.extend 50000 < s.tickEnd ∧ (s.fe.get 5).sweeping = false
    (st (fe5.onFe 5 fun x => { x with zeroing := true })).feRuns 5 = false ∧ (base learn ∧ (learn.fe.get 5).learning.isSome = true) ∧
    (base hot2 ∧ (hot2.fe.get 5).learning = none ∧ hot2.on (R.FE_CTRL_HOT_EN 5) = true ∧ hot2.isHot 5 3 4 = true) ∧
    ((hot2.port.get 5).burst = 0 ∧ ((st (fe5.onPort 5 fun x => { x with burst := 3 })).port.get 5).burst ≠ 0) ∧
    (base refr ∧ (refr.fe.get 5).learning = none ∧ refr.on (R.FE_CTRL_HOT_EN 5) = false ∧ refr.on (R.FE_CTRL_REF_EN 5) = true ∧
      refr.refrWhey 5 3 4 (tauOf (refr.extend 50000)) = true) := by decide +kernel

theorem meets_SurfacesAreSweptZeroedAndLearned :
    let s := st (fe5.onFe 5 fun x => { x with held := some { w := ev 3 4 50000, s := 50000, tn := 0, strag := false }, zeroing := true })
    let l := st (fe5.onFe 5 fun x => { x with learning := some { bs := 0, be := some 100000 }, surf := [(fe5.cellPlace 5 4, 7#32)] })
    let d := st (fe5.onFe 5 fun x => { x with zeroing := true, learned := true })
    (st up).on (R.ING_CTRL_EN 5) = false ∧ (s.on (R.ING_CTRL_EN 5) = true ∧ (s.fe.get 5).learning = none) ∧ (l.fe.get 5).held = none ∧
    (s.fe.get 5).held.isSome = true ∧ (l.fe.get 5).zeroing = false ∧ (s.fe.get 5).zeroing = true ∧
    (s.fe.get 5).learned = false ∧ ((d.fe.get 5).zeroing = true ∧ (d.fe.get 5).learned = true ∧ (d.fe.get 5).learnReq = false) ∧ (l.cellsUp 5).map (·.1) = [4] ∧
    ((s.fe.get 5).learning.bind (·.be)) = none ∧ ((l.fe.get 5).learning.bind (·.be)) = some 100000 := by decide +kernel

/-- Port 5 with an open grid of tick 0 while tick 1 runs. -/
def grid5 : Mach :=
  let m := fe5.onFe 5 fun x => { x with grids := [{ tn := 0, start := 0, cells := [(3, { n0 := 2, n1 := 3, sx := 250, sy := 20 })] }] }
  let now : TickAcct := { tn := 1, start := 100000, works := true }
  let last : TickAcct := { tn := 0, start := 0, tEnd := some 100000, graceFrom := 100000, works := true }
  { m with time := { m.time with n := 101000 }, tick := { m.tick with tn := 1, start := 100000, accts := [now, last] } }

theorem meets_GridsFormCurdsAndPatches :
    let s := st grid5
    let c := st grid5.closeGrid
    (st up).nextGrid = none ∧ (s.nextGrid.map fun a => a.tn) = some 0 ∧
    ((s.fe.get 5).grids.find? fun (g : Grid) => g.tn == 0).isSome = true ∧
    ((s.fe.get 5).curds.find? (fun (c : Curd) => !c.overflow && !c.patch && !c.abandoned)) = none ∧
    (((c.fe.get 5).curds.find? (fun (c : Curd) => !c.overflow && !c.patch && !c.abandoned)).map fun c => c.tn) = some 0 ∧
    (((c.fe.get 5).curds.find? (fun (c : Curd) => !c.overflow && !c.patch && !c.abandoned)).map fun c => c.waiting.isNone) = some true ∧
    (c.acct? 0).isSome = true := by decide +kernel

/-! ## Hypotheses met: the tick -/

def change (tn : Nat) (c : Change) : Pending := { fn := 0, op := 0x30, ctag := 1, cseq := 1, tnEff := tn, change := c }

theorem meets_BoundaryBeginsNextTick :
    let s := st grid5
    let l := st (grid5.onTick fun t => { t with pending := [change 0 (.tickLoad 50 (-7) 2)] })
    s.pendingLoad = none ∧ s.time.servo.stepNext = none ∧
    (l.pendingLoad.map fun x => (x.period, x.origin, x.b)) = some (50, -7, 99993) ∧ 99993 ≤ l.bnd (l.tick.tn + 1) ∧
    l.time.servo.stepNext = none := by decide +kernel

theorem meets_PeriodChangeKeepsBoundary :
    let s := st (grid5.onTick fun t => { t with pending := [change 2 (.tickChange 250)] })
    s.tick.pending = [change 2 (.tickChange 250)] ∧ 2 = s.tick.tn + 1 ∧ s.time.servo.stepNext = none := by decide +kernel

theorem meets_AdmissionSettlesEveryCurd :
    let s := st grid5
    let late : TickAcct := { tn := 2, start := 200000, works := true }
    let c := st (grid5.closeGrid.patchCut 5)
    let e := st (grid5.closeGrid.onTick fun t => { t with accts := { late with tn := 1, tEnd := some 200000, gridClosed := true } :: t.accts.map fun a => { a with admitted := true } })
    (e.nextAdmit.map fun a => (a.tn, a.gridClosed)) = some (1, true) ∧ e.earlierLeft 1 = true ∧ c.earlierLeft 0 = false ∧
    (st up).nextAdmit = none ∧ (s.nextAdmit.map fun a => (a.tn, a.gridClosed)) = some (0, false) ∧
    (c.nextAdmit.map fun a => (a.tn, a.gridClosed)) = some (0, true) ∧ c.working = true := by decide +kernel

theorem meets_DeadlineDropsTheTick :
    let c := st grid5.closeGrid.tickBoundary
    (st up).dueDeadline = none ∧ (c.dueDeadline.map fun x => (x.1.tn, x.1.works)) = some (0, true) ∧
    (let i := st (c.onTick fun t => { t with accts := t.accts.map fun a => { a with works := false } })
     (i.dueDeadline.map fun x => (x.1.tn, x.1.works)) = some (0, false)) := by decide +kernel

/-! ## Hypotheses met: engines and spiking populations -/

def desc14 (role last : Nat) : Desc :=
  { kind := 1, epoch := 0, fn := 0, role := role, image := 0, lFirst := 0, lLast := last, result := true, loadIn := true, tn := 0, port := 5, index := 1,
    inAddr := 64, outAddr := 5001 }

def layer14 : LayerRec :=
  { op := 1, unit := 0, mode := 0, actSigned := false, outType := 0, role := 5, last := true, nextValid := false, nextRole := 0, k := 1, stride := 1,
    pt := 0, pl := 0, pb := 0, pr := 0, cIn := 16, cOut := 16, hIn := 1, wIn := 1, inA := 128, in2A := 0, outA := 4096, wgtA := 8192, biasA := 9000,
    multA := 9200, sh := 0, wgtStrm := false, wgtSid := 0, lo := 0, hi := 255, ma := 0, mb := 0, scale := 0 }

def role14 : RoleRec :=
  { role := 5, dense := true, spiking := false, replica := false, affine := false, minPl := 0, template := 0, affineRole := 0, dieMask := 15,
    lFirst := 0, lLast := 0, initFirst := 0, initCount := 1, strFirst := 0, strCount := 1, localUse := 0 }

def image14 : Image :=
  { fn := 0, imageId := 3, dst := 0, len := 64, ports := 0xFFFF, clsRole := 5, clsCount := 1, blob := 64, activeFrom := some 0, roles := [role14],
    layers := [layer14], inits := [{ blob := 1, loc := 100, len := 20 }],
    streams := [{ base := 4, sid := 2, depth := 2, stride := 3, len := 8, count := 5, ring := 3000 }] }

/-- Engine 7 holds role 5 of FN0 with a queue and a running descriptor. -/
def eng7 (queue : List Desc) (run : Option Run) : Mach :=
  (({ up with images := [(0, image14)] } : Mach).onFn 0 fun x =>
    { x with roles := { x.roles with cur := { epoch := 0, binds := [(5, 7)] } } }).onEng 7 fun x => { x with queue := queue, run := run }

def run14 (layer fetched : Nat) : Run := { desc := desc14 5 0, layer := layer, waitTle := false, streams := [{ sid := 2, fetched := fetched, used := 0 }] }

theorem meets_DescriptorLifecycle :
    let s := st (eng7 [desc14 5 0] none)
    let stale := st (eng7 [desc14 6 0] none)
    let done := st (eng7 [] (some (run14 1 0)))
    let r := st ((eng7 [] none).onEng 7 fun x => { x with inReset := true })
    let s3 := st (up.onSleep fun x => { x with state := 3 })
    ((st (eng7 [] none)).eng.get 7).queue = [] ∧ (s.engReady 7 = true ∧ (s.eng.get 7).run = none ∧ (s.eng.get 7).queue.head? = some (desc14 5 0)) ∧
    s.engOf 0 0 5 = some 7 ∧ ((s.descImage (desc14 5 0)).bind fun i => i.1.layers[0]?) = some layer14 ∧ layer14.inA + 2048 ≤ localTop ∧
    (((s.descImage (desc14 5 0)).map fun i => ((i.1.layers.drop 0).take (0 + 1 - 0)).any Mach.isThin) = some false) ∧
    (stale.engReady 7 = true ∧ stale.engOf 0 0 6 = none) ∧
    ((done.eng.get 7).run = some (run14 1 0) ∧ done.engReady 7 = true ∧ (run14 1 0).desc.lLast < (run14 1 0).layer ∧ (run14 1 0).desc.result = true ∧
      ((done.descImage (run14 1 0).desc).bind fun i => i.1.layers[0]?) = some layer14) ∧
    1 < s3.sleep.state ∧ (s.engGood 7 = true ∧ s.sleep.state ≤ 1 ∧ (s.eng.get 7).inReset = false) ∧ (r.eng.get 7).inReset = true := by
  decide +kernel

theorem meets_ThinLayersEdgeAndPrefetch :
    let q : TleReq := { eng := 7, layer := 0, tn := 0, dropped := false }
    let m := eng7 [] (some (run14 0 1))
    let s := st ({ m with tleq := vput m.tleq 0 [q], tle := vput m.tle 1 (some q) }.onLvl 0 fun l => { l with edge := true, freq := 2, volt := 2 })
    let one := st { m with tleq := vput m.tleq 0 [q], tle := vput m.tle 0 (some { q with dropped := true }) }
    let full := st (eng7 [] (some (run14 0 2)))
    (st up).tleq.get 0 = [] ∧
    ((s.tleq.get 0).head? = some q ∧ ((s.rst.dies.get 0).tleGood.getLsbD 0 && (vat s.tle 0).isNone) = true) ∧
    ((one.tleq.get 0).head? = some q ∧ ((one.rst.dies.get 0).tleGood.getLsbD 0 && (vat one.tle 0).isNone) = false ∧
      ((one.rst.dies.get 0).tleGood.getLsbD 1 && (vat one.tle 1).isNone) = true) ∧
    (one.tle.get 0).map (fun x => x.dropped) = some true ∧ (s.tle.get 1 = some q ∧ (s.eng.get (Fin.ofNat 72 q.eng)).run.isSome = true) ∧
    ((st up).lvl.get 0).edge = false ∧ (s.lvl.get (Mach.dieOfEng 7)).edge = true ∧ ((st up).eng.get 7).run = none ∧
    ((s.eng.get 7).run = some (run14 0 1) ∧
      ((run14 0 1).streams.find? (fun (p : StreamPos) => p.sid == 2)) = some { sid := 2, fetched := 1, used := 0 } ∧
      ((s.descImage (run14 0 1).desc).bind fun i => (i.1.streamsOf i.2).find? (fun (q : StreamRec) => q.sid == 2)) =
        some { base := 4, sid := 2, depth := 2, stride := 3, len := 8, count := 5, ring := 3000 } ∧
      1 - 0 < 2 ∧ s.ueIn (64 + 4 + 1 % 5 * 3) 8 = none ∧ 3000 + 1 % 2 * 8 + 8 ≤ localTop) ∧
    ((full.eng.get 7).run = some (run14 0 2) ∧ 2 ≤ 2 - 0) := by decide +kernel

theorem meets_NeuronsPhasesAndLoads :
    let m := eng7 [] none
    let msg : SpikeMsg := { word := spikeWord 0 0 5 (.syn 0 1 2 3 0), src := 7 }
    let p := st (m.onFn 0 fun x => { x with popTick := some { tn := 0, phase := 3 } })
    let q := st { m with spikes := [msg] }
    let lost := st { m with spikes := [{ msg with word := spikeWord 0 3 5 (.syn 0 1 2 3 0) }] }
    let both := st ({ m with spikes := [msg] }.onFn 0 fun x => { x with popTick := some { tn := 0, phase := 15 } })
    let load := st (m.onEng 7 fun x => { x with loading := true, want := some (0, 5, 0) })
    let ps : PsetRec := { first := 0, sub := false, ref := 4, thr := 100, lsh := List.replicate 16 31, wsh := [0, 0, 0, 0] }
    let last := st (m.onFn 0 fun x => { x with popTick := some { tn := 0, phase := 15 } })
    ((p.settleFn 0 0).marksWait 0 0 3 = false ∧ (last.settleFn 0 0).marksWait 0 0 15 = false ∧ last.spikes.any (·.fn == 0) = false ∧
      last.popsLoading 0 0 = false ∧ last.ueLines = []) ∧
    (touch ps true (fun _ => 0) 10 true none { refEnd := 5, last := 9, pset := 0, v := 90 }).2 = true ∧
    (p.fn.get 1).popTick = none ∧
    ((p.fn.get 0).popTick = some { tn := 0, phase := 3 } ∧ p.spikes.any (·.fn == 0) = false ∧ p.popsLoading 0 0 = false ∧ p.ueLines = []) ∧
    ((both.fn.get 0).popTick.isSome = true ∧ both.spikes.any (·.fn == 0) = true) ∧ p.spikes.find? (·.fn == 0) = none ∧
    q.spikes.find? (fun (x : SpikeMsg) => x.fn == 0) = some msg ∧ (msg.epoch = 0 ∧ msg.role = 5 ∧ msg.fn = 0) ∧
    ((lost.spikes.find? (·.fn == 0)).map (fun x => ((lost.routerMap 0 x.epoch).bind fun r => Mach.RoleMap.engine r x.role))) = some none ∧
    (touch ps false (fun _ => 0) 10 false (some 500) { refEnd := 5, last := 9, pset := 0, v := 90 }).2 = true ∧
    (p.eng.get 7).loading = false ∧
    ((load.eng.get 7).loading = true ∧ (load.eng.get 7).incoming = [] ∧ (load.eng.get 7).want = some (0, 5, 0) ∧ load.images.find 0 = some image14 ∧
      image14.sourceOf 5 = some role14 ∧ image14.initsOf role14 = [{ blob := 1, loc := 100, len := 20 }] ∧ 100 + 20 ≤ localTop) := by
  decide +kernel

/-! ## Hypotheses met: fusion -/

theorem meets_AuctionIsLeastCost :
    let b : List GPair := [{ mi := 0, slot := 3, cost := 7 }]
    (Auction.run 2 (benefit b [0] [3] 20 30) 101 { price := [0, 0], owner := [none, none], eps := 3071 }).isSome = true := by decide +kernel

def comet15 (pend : Bool) : Track :=
  { fn := 0, c := { pkg := 1, serial := 7, state := 2, md := 100, cd := 500, pMd := 100, pCd := 100, hoPend := pend }, offer := some (1, 0, true) }

/-- Tick 99 waits for its fusion while tick 100 runs. -/
def fuse15 (on enc closed : Nat) : Mach :=
  let now : TickAcct := { tn := 100, start := 10000000 }
  let last : TickAcct :=
    { tn := 99, start := 9900000, tEnd := some 10000000, graceFrom := 10000000, gridClosed := closed == 1, admitted := closed == 1, works := true }
  let m := setF [(R.FUS_CTRL_EN, on), (R.FUS_CTRL_CAL_EN, 1), (R.MOT_ENC_CTRL_EN 0, enc), (R.MOT_ENC_CTRL_STALL 0, 1000)] up
  { m with time := { m.time with n := 10050000 }, tick := { m.tick with tn := 100, start := 10000000, accts := [now, last] } }

theorem meets_FusionWaitsAndFinishes :
    let s := st (fuse15 1 0 1)
    let off := st (fuse15 0 0 1)
    let early := st (fuse15 1 0 0)
    let wait := st ((fuse15 1 1 1).onEnc 0 fun e => 
      { e with enabledAt := some 0, caps := [{ first := 9000000, last := 10000000, p := 4, e := 9000000, mark := none }] })
    let ho := st (((fuse15 1 0 1).onFus fun u => { u with store := [(3, comet15 true)] }).onLink 1 fun x =>
      { x with state := 2, theta := some (5, 0) })
    let stopped : Curd :=
      { tn := 99, port := 5, index := 1, edge := false, unchecked := false, coarse := false, overflow := false, patch := false, cells := 1, xMin := 0,
        yMin := 0, xMax := 0, yMax := 0, cx := 8, cy := 8, evOff := 1, evOn := 0, tMean := 200000, tFirst := 0, tLast := 200000, vx := 0, vy := 0,
        flowN := 0, corners := 0, patchAddr := 0, start := 9900000 }
    let known := fun (curds : List Curd) => st (((fuse15 1 1 1).onEnc 0 fun e =>
      { e with enabledAt := some 0, set := { e.set with cpm := 512000 },
               caps := [{ first := 9000000, last := 11000000, p := 4, e := 9000000, mark := none }] }).onFe 5 fun x => { x with curds := curds })
    ([known [], known [stopped]].all fun s => s.nextFuse.any (fun a => a.tn == 99 && a.gridClosed && a.admitted && a.tEnd == some 10000000) &&
      s.working && !s.classPending 99 && s.on R.FUS_CTRL_EN && (match s.mdAt s.webEnc 10000000 with | .ok _ => true | _ => false)) = true ∧
    (known []).curdMdWaits 99 = false ∧ (known [stopped]).curdMdWaits 99 = true ∧
    ho.hoRefuse 1 = false ∧
    (st up).nextFuse = none ∧ (early.nextFuse.map fun a => a.gridClosed) = some false ∧
    ((s.nextFuse.map fun a => (a.tn, a.gridClosed, a.admitted, a.tEnd)) = some (99, true, true, some 10000000) ∧ s.working = true ∧
      s.classPending 99 = false ∧ s.on R.FUS_CTRL_EN = true ∧ s.mdAt s.webEnc 10000000 ≠ .notYet) ∧
    ((wait.nextFuse.map fun a => a.tn) = some 99 ∧ wait.working = true ∧ wait.mdAt wait.webEnc 10000000 = .notYet) ∧
    ((off.nextFuse.map fun a => (a.tn, a.gridClosed, a.admitted)) = some (99, true, true) ∧ off.working = true ∧ off.on R.FUS_CTRL_EN = false) ∧
    (s.fus.store.all (fun (e : Nat × Track) => e.2.offer.isNone) = true) ∧
    (ho.fus.store = [(3, comet15 true)] ∧ (comet15 true).c.hoPend = true ∧ (comet15 true).acked = false ∧
      0 + 1 + atLeast1 (ho.g R.FUS_HO_HO_TMO) ≤ ho.tick.tn) := by decide +kernel

theorem meets_CalibrationIntervals :
    let s := st (fuse15 1 0 1)
    let sums : Vector CalSum 16 := Vector.replicate 16 { n := 80, sCd := 8000, sMd := 800 }
    let b := st ((fuse15 1 0 1).onFus fun u => { u with solving := some sums })
    let w := st ((fuse15 1 0 1).onFus fun u => { u with solving := some sums, waiting := some sums })
    (st (up.put R.FUS_CTRL_CAL_EN 0)).on R.FUS_CTRL_CAL_EN = false ∧ (s.on R.FUS_CTRL_CAL_EN = true ∧ s.fus.solving = none) ∧
    (b.on R.FUS_CTRL_CAL_EN = true ∧ b.fus.solving ≠ none ∧ b.fus.waiting = none) ∧ (w.fus.solving ≠ none ∧ w.fus.waiting = some sums) := by
  decide +kernel

/-! ## Hypotheses met: reports, the journal, power failure and the store -/

def rec16 (f : Fin 8) (cls count : Nat) (committed early : Bool) : JRec :=
  { fn := f, cls := cls, count := count, epoch := 0, body := .health 0x401 false 0 0 0 5 [], mirrorLost := false, flags := 0, tq := .free, pkg := 0,
    at_ := 1000, bank := f.1 % 2, committed := committed, released := true, early := early, hostDone := false, bound := 5 }

/-- The store in use, and ring RPT1 of FN0 open with eight slots. -/
def jnl16 (recs : List JRec) (state : Nat) : Mach :=
  let m := setF [(R.NVS_CTRL_EN, 1), (R.JNL_CTRL_STORE_EN, 1), (R.ACT_CTRL_EN, 1), (R.TIM_TO_CTRL_MODE 2, 4), (R.TIM_TO_CTRL_MODE 4, 1), (R.HIF_F_RING_CFG_EN 0 3, 1),
    (R.HIF_F_RING_CFG_SZ 0 3, 8)] up
  ((m.onRing 0 3 fun x => { x with host := 3, count := 5 }).onJnl fun j => { j with recs := recs }).onNvs fun n =>
    { n with state := state, units := 2000, unit := 7 }

theorem meets_ReaderTakesLowestClass :
    let r := rec16 0 1 1 false false
    let e := rec16 0 1 1 true true
    let s := st (jnl16 [r] 2)
    let back := st (jnl16 [e] 2)
    (st up).readerNext = none ∧ (s.readerNext = some r ∧ r.early = false) ∧ (back.readerNext = some e ∧ e.early = true) ∧ r.fn ≠ 3 := by
  decide +kernel

theorem meets_GroupsFormAndBecomeDurable :
    let r := rec16 0 1 1 false false
    let one := st (jnl16 [r] 2)
    let pf := st ((jnl16 [r] 2).onJnl fun j => { j with pf := some (.committing 0) })
    let last := st ((jnl16 [] 2).onJnl fun j => { j with pf := some (.committing 2) })
    let full := st (pf.onNvs fun n =>
      { n with log := [(7, { gseq := 4, recs := [r], snapshot := 0, final := false, mirrorLost := false, epoch := 0, t := 6 })] })
    let g : Group := pf.newGroup [r] 0
    let g3 : Group := { gseq := 5, recs := [], snapshot := 3, final := true, mirrorLost := false, epoch := 0, t := 6 }
    let dur := st ((jnl16 [r] 2).onNvs (fun n => { n with flushed := true }) |>.onJnl fun j => { j with group := some g })
    let durF := st ((jnl16 [r] 2).onNvs (fun n => { n with flushed := true }) |>.onJnl fun j => { j with group := some g3 })
    (st up).canCommit = false ∧ ((st (jnl16 [] 2)).toCommit = [] ∧ (st (jnl16 [] 2)).jnl.pf = none) ∧
    (pf.canCommit = true ∧ pf.jnl.pf = some (.committing 0) ∧ pf.toCommit ≠ []) ∧ (last.canCommit = true ∧ last.toCommit = [] ∧ 2 < 3) ∧
    pf.nvs.log.any (fun e => Mach.overlaps (pf.placeGroup g.units) g.units e.1 e.2.units && pf.groupLive e.2) = false ∧
    full.nvs.log.any (fun e => Mach.overlaps (full.placeGroup g.units) g.units e.1 e.2.units && full.groupLive e.2) = true ∧
    (one.canCommit = true ∧ one.jnl.pf = none ∧ one.toCommit = [r]) ∧ (one.jnl.group = none ∧ one.nvs.flushed = false) ∧
    (dur.nvs.flushed = true ∧ dur.jnl.group = some g ∧ g.final = false) ∧ (durF.nvs.flushed = true ∧ durF.jnl.group = some g3 ∧ g3.final = true) := by
  decide +kernel

theorem meets_HoldupAndFinalCommit :
    let s := st (jnl16 [] 2)
    let busy := st ((jnl16 [] 2).onJnl fun j => { j with pf := some (.committing 3) })
    let open_ := st ((jnl16 [rec16 0 1 1 false false] 2).onJnl fun j => { j with pf := some (.committing 1) })
    let fin := st ((jnl16 [] 2).onJnl fun j => { j with pf := some .done })
    State.reset.rst.hold.isSome = true ∧ State.reset.rst.hold = some .por ∧ (s.rst.hold ≠ some .por ∧ s.jnl.pf = none ∧ ∀ d : Fin 4, (s.lvl.get d).edge = false) ∧
    (busy.rst.hold ≠ some .por ∧ busy.jnl.pf ≠ none ∧ busy.jnl.pf ≠ some .done ∧ busy.finalDone = true) ∧ open_.finalDone = false ∧
    (fin.jnl.pf = some .done ∧ fin.jnl.recoverFrom = none) := by decide +kernel

def act16 (position : Bool) (out : Fin 8) : Action :=
  { gen := 1, slot := 3, out := out, kind := position, enc := 0, fire := true, origClass := 0, fn := 0, width := 20, trigger := 500, origRsn := 0,
    cid := 0, rule := 0, reached := position }

theorem meets_ActionsResolveAtTheirTrigger :
    let set := fun (a : Action) => st ((jnl16 [] 2).onJnl fun j => { j with actions := [(3, a)] })
    let t := set (act16 false 2)
    let t4 := set (act16 false 4)
    let p := set (act16 true 2)
    let off := st (jnl16 [] 2 |>.put R.ACT_CTRL_EN 0)
    let high := st (up.onTrig 2 fun x => { x with actUntil := some 700 })
    (st up).nextTimeTrigger = none ∧
    (t.nextTimeTrigger = some 500 ∧ t.actionsRun = true ∧ t.jnl.actions = [(3, act16 false 2)] ∧ (act16 false 2).slot = 3 ∧ t.trigHeld = false ∧
      t.actionMode 2 = true) ∧
    ((act16 false 2).kind = false ∧ (act16 false 2).lateBy = none ∧ (act16 false 2).trigger ≤ 500) ∧
    (t4.nextTimeTrigger = some 500 ∧ t4.actionsRun = true ∧ t4.actionMode 4 = false) ∧ off.actionsRun = false ∧
    (p.actionsRun = true ∧ p.jnl.actions = [(3, act16 true 2)] ∧ (act16 true 2).reached = true ∧ (act16 true 2).lateBy = none ∧
      p.trigHeld = false ∧ p.actionMode 2 = true) ∧
    (high.time.trigOut.get 1).actUntil = none ∧ (high.time.trigOut.get 2).actUntil = some 700 := by decide +kernel

theorem meets_StoreCommandsAndRetries :
    let withOp := fun (op : Option NvmeOp) (wait : Bool) (tries : Nat) => st ((jnl16 [] 2).onNvs fun n => { n with op := op, retryWait := wait, tries := tries })
    let f := st (jnl16 [] 3)
    (st (up.put R.NVS_CTRL_EN 0)).on R.NVS_CTRL_EN = false ∧ f.on R.NVS_CTRL_EN = true ∧ (st (jnl16 [] 2)).nvs.state ≠ 3 ∧ f.nvs.state = 3 ∧
    (withOp (some .groupWrite) true 2).nvs.retryWait = true ∧
    ((withOp (some (.bringUp 1)) false 0).nvs.retryWait = false ∧ (withOp (some (.bringUp 1)) false 0).nvs.op = some (.bringUp 1)) ∧
    (withOp (some (.bringUp 2)) false 0).nvs.op = some (.bringUp 2) ∧ (withOp (some .groupWrite) false 2).nvs.tries < 3 ∧
    (withOp (some .groupFlush) false 3).nvs.op = some .groupFlush ∧ 3 ≤ (withOp (some .groupFlush) false 3).nvs.tries ∧
    (∀ k ∈ [1, 2], NvmeOp.groupFlush ≠ .bringUp k) ∧
    ((withOp none false 0).nvs.state = 2 ∧ (withOp none false 0).nvs.op = none ∧ (withOp none false 0).nvs.sbGroups < 1024) := by decide +kernel

/-! ## Hypotheses met: levels, temperature and sleep -/

def lvl17 (f : DieLevel → DieLevel) : State := st ((setF [(R.PWR_R_CFG_PMB_EN 4, 1)] up).onLvl 1 f)

theorem meets_LevelChangesKeepOrder :
    let s := lvl17 fun x => { x with freq := 2, volt := 3 }
    let r := lvl17 fun x => { x with raising := some (4, true) }
    let busy := st ((setF [(R.ING_CTRL_EN 5, 1)] up))
    let three := st (s.onLed fun l => { l with pmbFails := vput l.pmbFails 4 2 })
    let bad := fun (v : Nat) => decide (7 < bitsN v 27 24) || decide (7 < bitsN v 23 20) || decide (bitsN v 23 20 < bitsN v 27 24) ||
      decide (3 < bitsN v 27 24) || decide (bitsN v 23 20 < 2)
    (st (up.put (R.PWR_R_CFG_PMB_EN 4) 0)).on (R.PWR_R_CFG_PMB_EN 4) = false ∧ (s.on (R.PWR_R_CFG_PMB_EN 4) = true ∧ s.led.pmbFails.get 4 ≠ 2) ∧ three.led.pmbFails.get 4 = 2 ∧
    (s.lvl.get 1).raising = none ∧ (r.lvl.get 1).raising = some (4, true) ∧
    (bitN 0x80000000 31 = true ∧ busy.manualOk 1 = false) ∧ (bitN 0x83300000 31 = true ∧ s.manualOk 1 = true ∧ bad 0x83300000 = false) ∧
    (bitN 0x84700000 31 = true ∧ bad 0x84700000 = true) ∧ (8192 ≤ s.g (R.PWR_R_K_G 4) ∧ s.g (R.PWR_R_K_G 4) ≤ 32768) ∧ bitN 0 31 = false ∧
    (bitN 0x01000000 31 = false ∧ bitsN 0x01000000 23 20 < bitsN 0x01000000 27 24) ∧ (bitN 0x833C0000 19 = true ∧ s.edgeElig 1 3 s.tick.tn = false) ∧
    ((s.lvl.get 1).edge = false ∧ bitN 0x83300000 19 = false) := by
  decide +kernel

theorem meets_DroopAndThrottle :
    let s := lvl17 fun x => { x with freq := 3, volt := 5, tl := 4 }
    let w := lvl17 fun x => { x with stretch := some 3 }
    (w.lvl.get 1).stretch = some 3 ∧ (s.lvl.get 1).stretch = none ∧ ¬ (toSigned 16 (toBits 16 21759) ≥ s.throttleAt * 256) ∧
    toSigned 16 (toBits 16 28160) ≥ s.throttleAt * 256 ∧ (s.lvl.get 1).tl < 7 ∧ 7 ≤ (s.lvl.get 0).tl ∧
    (∀ j : Fin 4, (s.lvl.get j).edge = false) ∧ toSigned 16 (toBits 16 24500) ≥ (s.throttleAt - s.g R.THM_CTRL_HYST) * 256 ∧
    ¬ (toSigned 16 (toBits 16 24500) ≥ s.throttleAt * 256) ∧ ¬ (toSigned 16 (toBits 16 21759) ≥ (s.throttleAt - s.g R.THM_CTRL_HYST) * 256) ∧
    (1 ∈ Mach.sensorDies 5) ∧ (0 ∉ Mach.sensorDies 5) := by decide +kernel

/-- 60 s after reset, at the start of a tick. -/
def late17 (f : Sleep → Sleep) : Mach :=
  let m := (jnl16 [] 2).onSleep f
  { m with time := { m.time with n := 60000000005 },
           tick := { m.tick with tn := 600000, start := 60000000000, accts := [{ tn := 600000, start := 60000000000 }] } }

theorem meets_SleepAndWake :
    let s := st ((late17 id).put R.PWR_SLEEP_IDLE_S2 10)
    let off := st ((late17 id).put R.PWR_SLEEP_IDLE_S2 0)
    let ent := fun (acts : Tab Action) => st ((late17 fun z => { z with entering := some 600000, stepAt := some 60000000000 }).onJnl fun j => { j with actions := acts })
    let s2 := fun (k : Nat) => st ((late17 fun z => { z with state := 2, s2At := some 30000000000 }).put R.PWR_IDLE3 k)
    let s3 := st (late17 fun z => { z with state := 3 })
    let go := st (late17 fun z => { z with goS3 := true })
    let owe := st ((late17 fun z => { z with goS3 := true }).onJnl fun j => { j with recs := [rec16 0 1 1 false false] })
    (s.working = true ∧ s.g R.PWR_SLEEP_IDLE_S2 ≠ 0 ∧ s.jnl.actions = [] ∧ s.sleep.idleFrom + 10 * 1000000000 ≤ s.elapsed ∧
      s.time.n < s.tick.start + 8) ∧
    off.g R.PWR_SLEEP_IDLE_S2 = 0 ∧ s.sleep.entering = none ∧
    ((ent []).sleep.entering ≠ none ∧ (ent []).sleep.goS3 = false ∧ (ent []).sleep.stepAt = some 60000000000 ∧ (ent []).jnl.actions = [] ∧
      (ent []).sleep.state = 0) ∧
    (ent [(3, act16 false 2)]).jnl.actions ≠ [] ∧ ((s2 0).sleep.state = 2 ∧ (s2 0).g R.PWR_IDLE3 = 0 ∧ (s2 0).sleep.goS3 = false) ∧
    ((s2 10).sleep.state = 2 ∧ (s2 10).g R.PWR_IDLE3 ≠ 0 ∧ (s2 10).sleep.s2At = some 30000000000) ∧ s3.sleep.state = 3 ∧
    (go.sleep.goS3 = true ∧ go.allCommitted = true) ∧ (owe.sleep.goS3 = true ∧ owe.allCommitted = false) ∧
    (s.rst.hold = none ∧ s.rst.ready = true ∧ s.sleep.state ≠ 3) ∧ s.sleep.state ≠ 2 ∧ State.reset.rst.ready = false ∧
    s3.rst.hold ≠ some .por ∧ ((s2 0).rst.hold ≠ some .por ∧ (s2 0).time.quality = .free) ∧ s.inWarm = false ∧
    (s.wakeUnitOk 4 0 = true ∧ s.wakeUnitOk 6 5 = false) ∧ ((ent []).sleep.state = 0 ∧ (ent []).allCommitted = true) := by decide +kernel

/-! ## Hypotheses met: station time -/

def step18 (x : Staged) : State := st { up with time := { up.time with n := 3000050007, staged := some x } }

def servo18 (src : Nat) (q : Quality) (v : Servo) : State :=
  st { (setF [(R.TIM_SRV_CFG_SRC, src), (R.TIM_SRV_CFG_EN, 1)] up) with time := { up.time with n := 10050003, quality := q, servo := v } }

theorem meets_StagedStepApplies :
    let busy := step18 { adj := true, v := 5000, ns := 0, at? := some 3000060000, force := false }
    let out := step18 { adj := true, v := -1000000000000, ns := 0, at? := none, force := true }
    let back := step18 { adj := true, v := -70000, ns := 0, at? := none, force := false }
    let s := st up
    let late := st (up.put R.TIM_STG_NS 1000000000)
    let would := fun (s : State) (x : Staged) => (s.stagedDue x).2
    let locked := servo18 2 .locked { slew := some { endsAt := 20000000, yHold := 77 } }
    ((servo18 0 .free {}).g R.TIM_SRV_CFG_SRC = 0 ∧ (servo18 0 .free {}).servoOff = false) ∧
    (locked.g R.TIM_SRV_CFG_SRC = 2 ∧ locked.servoOff = false ∧ locked.time.quality = .locked ∧ locked.time.servo.slew.isSome = true) ∧
    (let x : Staged := { adj := true, v := 5000, ns := 0, at? := some 3000060000, force := false }
     3000060000 ≤ (would busy x).fdiv (2 ^ 32)) ∧
    busy.time.staged ≠ none ∧ 1000000000 ≤ late.g R.TIM_STG_NS ∧ (s.time.staged = none ∧ s.g R.TIM_STG_NS < 1000000000) ∧
    (would out { adj := true, v := -1000000000000, ns := 0, at? := none, force := true } + -1000000000000 * 2 ^ 32).fdiv (2 ^ 32) < 0 ∧
    (let w := would back { adj := true, v := -70000, ns := 0, at? := none, force := false }
     (back.tick.period : Int) * 500 < w.fdiv (2 ^ 32) - (w + -70000 * 2 ^ 32).fdiv (2 ^ 32)) ∧
    (let w := would busy { adj := true, v := 5000, ns := 0, at? := some 3000060000, force := false }
     busy.time.n < 3000060000 ∧ 0 ≤ (w + 5000 * 2 ^ 32).fdiv (2 ^ 32) ∧ (w + 5000 * 2 ^ 32).fdiv (2 ^ 32) < 9223372036000000000) := by
  decide +kernel

theorem meets_ServoDisciplinesTheClock :
    let s := servo18 0 .free { returning := false }
    let off := st (s.put R.TIM_SRV_CFG_EN 0)
    let slew := servo18 2 .locked { slew := some { endsAt := 20000000, yHold := 77 } }
    s.g R.TIM_SRV_CFG_SRC = 0 ∧ slew.g R.TIM_SRV_CFG_SRC = 2 ∧ (servo18 1 .free {}).g R.TIM_SRV_CFG_SRC ≠ 0 ∧
    (servo18 1 .free {}).g R.TIM_SRV_CFG_SRC ≠ 2 ∧ off.on R.TIM_SRV_CFG_EN = false ∧
    (s.on R.TIM_SRV_CFG_EN = true ∧ s.time.servo.slew = none ∧ s.time.servo.stepNext = none ∧ s.time.servo.returning = false ∧
      s.time.quality ≠ .locked ∧ s.time.quality ≠ .stepped) ∧
    slew.time.quality = .locked ∧ slew.time.servo.slew = some { endsAt := 20000000, yHold := 77 } ∧
    (s.servoOff = false ∧ slew.servoOff = false ∧ (st (s.onSleep fun z => { z with state := 3 })).servoOff = true) ∧
    (let spike := servo18 0 .locked {}
     spike.on R.TIM_SRV_CFG_EN = true ∧ spike.time.servo.slew = none ∧ spike.time.servo.stepNext = none ∧
      spike.g R.TIM_SRV_SPIKE_SPIKE_NS < (1000000000 : Int).natAbs ∧ spike.time.servo.spikeRun < spike.g R.TIM_SRV_SPIKE_SPIKE_N ∧
      (7 : Int).natAbs ≤ spike.g R.TIM_SRV_SPIKE_SPIKE_NS) ∧
    (let back := servo18 0 .holdover { returning := true }
     let slewMax := back.g R.TIM_SRV_SLEWMAX_SLEW_MAX
     back.on R.TIM_SRV_CFG_EN = true ∧ back.time.servo.slew = none ∧ back.time.servo.stepNext = none ∧ back.time.quality ≠ .locked ∧
      back.g R.TIM_SRV_LOCK_LOCK_NS < slewMax ∧ (-((slewMax : Int) + 1)).natAbs = slewMax + 1 ∧ -((slewMax : Int) + 1) < 0) := by decide +kernel

def out18 (mode : Nat) (x : TrigOut) : State :=
  st { (setF [(R.TIM_TO_CTRL_MODE 2, mode), (R.TIM_TO_WIDTH 2, 8), (R.TIM_TO_PERIOD 2, 9), (R.TIM_CTRL_PPS_EN, 1), (R.TIM_CTRL_PPS_GATE, 1)]
      (up.put64 (R.TIM_TO_START_LO_A 2) (R.TIM_TO_START_HI_A 2) 10060003)) with
    time := { up.time with n := 10050003, trigOut := vput up.time.trigOut 2 x, ppsUntil := some 10070000 } }

theorem meets_TriggerOutputsFollowTheirMode :
    let s := out18 1 { armed := true, next := 10060000, period := 9 }
    let p := out18 3 { armed := true, reached := true, posPer := 20, highUntil := some 10070000 }
    let p0 := out18 3 { armed := true, reached := true, posPer := 0 }
    let z := st up
    let free := st (up.put R.TIM_CTRL_PPS_EN 0)
    (s.time.n < s.gi64 (R.TIM_TO_START_LO_A 2) (R.TIM_TO_START_HI_A 2)) ∧ (8 ≤ s.g (R.TIM_TO_WIDTH 2) ∧ s.g (R.TIM_TO_WIDTH 2) < s.g (R.TIM_TO_PERIOD 2)) ∧
    ¬ (8 ≤ z.g (R.TIM_TO_WIDTH 2) ∧ z.g (R.TIM_TO_WIDTH 2) < z.g (R.TIM_TO_PERIOD 2)) ∧
    ((s.time.trigOut.get 2).armed = true ∧ s.g (R.TIM_TO_CTRL_MODE 2) = 1) ∧ (out18 2 { armed := true, period := 9 }).g (R.TIM_TO_CTRL_MODE 2) = 2 ∧
    (z.time.trigOut.get 2).armed = false ∧
    ((p.time.trigOut.get 2).armed = true ∧ p.g (R.TIM_TO_CTRL_MODE 2) = 3 ∧ (p.time.trigOut.get 2).reached = true ∧ (p.time.trigOut.get 2).posPer ≠ 0) ∧
    (p0.time.trigOut.get 2).posPer = 0 ∧ (z.time.trigOut.get 2).highUntil = none ∧ (p.time.trigOut.get 2).highUntil = some 10070000 ∧
    free.on R.TIM_CTRL_PPS_EN = false ∧ (s.on R.TIM_CTRL_PPS_EN = true ∧ s.on R.TIM_CTRL_PPS_GATE = true ∧ s.time.quality ≠ .locked) ∧
    z.time.ppsUntil = none ∧ s.time.ppsUntil = some 10070000 := by decide +kernel

theorem meets_TriggerInputsQueueStamps :
    let q := fun (e len : Nat) => st { (setF [(R.TIM_TI_CFG_EDGE 1, e)] up) with
      time := { up.time with trigIn := vput up.time.trigIn 1 { fifo := List.replicate len (-3, true) } } }
    (q 0 0).g (R.TIM_TI_CFG_EDGE 1) = 0 ∧ ((q 1 15).g (R.TIM_TI_CFG_EDGE 1) = 1 ∧ ((q 1 15).time.trigIn.get 1).fifo.length < 16) ∧
    ((q 3 16).g (R.TIM_TI_CFG_EDGE 1) = 3 ∧ 16 ≤ ((q 3 16).time.trigIn.get 1).fifo.length) ∧ ((q 0 0).time.trigIn.get 1).fifo = [] ∧
    ((q 2 1).time.trigIn.get 1).fifo.head? = some (-3, true) := by decide +kernel

/-! ## Hypotheses met: Ethernet, PTP and the report transport -/

/-- Both Ethernet ports enabled, port 0 up. -/
def net19 : Mach :=
  let m := setF [(R.ETH_CTRL_EN 0, 1), (R.ETH_CTRL_EN 1, 1), (R.ETH_IP4 0, 0xC0A80105), (R.ETH_MAC_LO 0, 0x12345678), (R.ETH_IP6_CFG 0, 1)] up
  { m with net := { m.net with link := vput m.net.link 0 true } }

/-- Destination 3 enabled with its next hop resolved and two records to send. -/
def rrt19 (f : RrtDest → RrtDest) : Mach :=
  let r := fun (k : Nat) => { rec16 0 1 k true false with dests := [3] }
  ((net19.put (R.RRT_D_CTRL_EN 3) 1).onJnl fun j => { j with recs := [r 2, r 3] }).onDest 3 fun x =>
    f { x with hops := Vector.replicate 2 (some [1, 2, 3, 4, 5, 6]) }

theorem meets_StationsAnswerTheirSubset :
    let s := st net19
    let d := st (rrt19 id)
    let rrt := fun (k : Nat) => ({ len := 64, body := .udp k } : EthFrame)
    let asleep := st (net19.onSleep fun z => { z with state := 2 })
    (s.rrtFrame 0 (rrt 5) = false ∧ s.rrtFrame 0 (rrt (s.g R.RRT_CFG_UDP_PORT)) = true ∧ s.sleep.state = 0 ∧ s.sleep.entering = none) ∧
    (asleep.sleep.state = 2 ∧ asleep.ethUp 0 = true ∧ asleep.rrtFrame 0 (rrt (s.g R.RRT_CFG_UDP_PORT)) = true) ∧
    s.ethUp 1 = false ∧ s.ethUp 0 = true ∧ (0xC0A80105 : BitVec 32).toNat = s.g (R.ETH_IP4 0) ∧ (0 : BitVec 32).toNat ≠ s.g (R.ETH_IP4 0) ∧
    s.globalIp6 0 = some (List.replicate 16 0) ∧ List.replicate 16 1 ≠ s.linkLocal 0 ∧ s.globalIp6 0 ≠ some (List.replicate 16 1) ∧
    (d.on (R.RRT_D_CTRL_EN 3) = true ∧ d.on (R.RRT_D_CTRL_STATIC 3) = false ∧ d.ethUp (d.destPort 3) = true ∧ d.on (R.RRT_D_CTRL_FB_EN 3) = false) ∧
    s.on (R.RRT_D_CTRL_EN 3) = false ∧ s.net.link.get 0 = true ∧ (s.net.link.get 1 ≠ true ∧ s.on (R.ETH_CTRL_EN 1) = true) := by decide +kernel

theorem meets_PtpQueueAndSending :
    let s := st net19
    let e : PtpEntry := { stamp := 3, len := 5, vlan := false, trunc := false, event := true, port := 0, bytes := [1] }
    let full := st { net19 with net := { net19.net with rxq := List.replicate 32 e } }
    let tx := st { net19 with net := { net19.net with tx := some (1, 0) } }
    let clk := st { (setF [(R.PTP_CTRL_EN0, 1), (R.PTP_CTRL_PROFILE, 1)] net19) with net := { net19.net with ptpMgt := true } }
    let fo := st (setF [(R.PTP_CTRL_FAILOVER, 1), (R.PTP_CTRL_OWNER, 0)] net19)
    s.ethUp 1 = false ∧ (s.ethUp 0 = true ∧ ¬ 32 ≤ s.net.rxq.length) ∧ (full.ethUp 0 = true ∧ 32 ≤ full.net.rxq.length) ∧
    ¬ ((Party.mgt == .mgt) = s.net.ptpMgt) ∧ ((Party.host == .mgt) = s.net.ptpMgt ∧ s.net.rxq = [] ∧ s.net.tx = none) ∧
    ((Party.host == .mgt) = full.net.ptpMgt ∧ full.net.rxq ≠ []) ∧ tx.net.tx = some (1, 0) ∧
    (s.clockOn 0 && s.ethUp 0 && (s.peerDelay || s.net.clock.master.isSome)) = false ∧
    (clk.clockOn 0 && clk.ethUp 0 && (clk.peerDelay || clk.net.clock.master.isSome)) = true ∧
    (fo.on R.PTP_CTRL_FAILOVER = true ∧ fo.on R.PTP_CTRL_OWNER = false) := by decide +kernel

theorem meets_RrtDeliversInWindow :
    let s := st (rrt19 id)
    let r2 : JRec := { rec16 0 1 2 true false with dests := [3] }
    let fl := st (rrt19 fun x => { x with flight := [(1, [{ first := 2, last := 3, t := 500 }])], down := true })
    let sent := st (rrt19 fun x => { x with flight := [(1, [{ first := 2, last := 3, t := 500 }])] })
    let auth := st ((rrt19 id).put (R.RRT_D_CTRL_AUTH 3) 1)
    let ack := fun (ok : Bool) (rsn : Nat) => ({ srcOk := ok, port := 0, fn := 0, cls := 1, rsn := rsn } : RrtAckPkt)
    let freed := st (((rrt19 id).onJnl fun j => { j with recs := j.recs.map fun (r : JRec) => { r with early := true } }).onNvs fun n => { n with state := 2 })
    let flown := st (freed.onDest 3 fun x => { x with flight := [(1, [{ first := 2, last := 3, t := 500 }])] })
    let run := (s.waitingFor 3 1).filter fun (r : JRec) => decide (Mach.rsnOf r2 ≤ Mach.rsnOf r) && decide (Mach.rsnOf r ≤ s.baseOf 3 1 + 65536)
    let turn := fun (s : State) => s.rrtRuns && match s.rrtHead 3 1, s.rrtNext with | some r, some y => r.same y | _, _ => false
    (s.rrtRuns = true ∧ s.on (R.RRT_D_CTRL_EN 3) = true ∧ s.txPort 3 = some 0) ∧ (st up).on (R.RRT_D_CTRL_EN 3) = false ∧
    (turn s = true ∧ s.rrtHead 3 1 = some r2 ∧ r2.early = false ∧ (Mach.runOf s.maxRec none run).getLast?.isSome = true) ∧ s.flightOf 3 1 = [] ∧
    (turn freed = true ∧ freed.rrtHead 3 1 = some { r2 with early := true }) ∧ turn (st up) = false ∧
    ((flown.flightOf 3 1).head? = some { first := 2, last := 3, t := 500 } ∧ flown.txPort 3 = some 0 ∧ flown.storeIdle = true ∧
      ((flown.recsFrom 1 2 (flown.topSent 3 1)).find? fun (r : JRec) => r.early && r.dests.contains 3).isSome = true) ∧
    ((sent.recsFrom 1 2 (sent.topSent 3 1)).find? fun (r : JRec) => r.early && r.dests.contains 3) = none ∧
    ((sent.flightOf 3 1).head? = some { first := 2, last := 3, t := 500 } ∧ sent.txPort 3 = some 0 ∧
      (sent.net.dests.get 3).resends + 1 < atLeast1 (sent.g R.RRT_CFG2_DOWN_N)) ∧
    s.ethUp 1 = false ∧ ((ack false 3).srcOk = false ∧ s.ethUp 0 = true) ∧ auth.ackAuthentic 3 (ack true 3) = false ∧
    (sent.ackAuthentic 3 (ack true 3) = true ∧ (ack true 3).rsn ≤ sent.topSent 3 1 ∧ sent.baseOf 3 1 < (ack true 3).rsn) ∧
    ((ack true 1).rsn ≤ sent.topSent 3 1 ∧ (ack true 1).rsn ≤ sent.baseOf 3 1) ∧ sent.topSent 3 1 < (ack true 4).rsn ∧
    ((s.net.dests.get 3).onFb = false ∧ (s.net.dests.get 3).down = false) ∧ (fl.rrtRuns = true ∧ (fl.net.dests.get 3).down = true) := by decide +kernel

/-! ## Hypotheses met: the commands of the CMD rings -/

/-- FN0's CMD and CPL rings open with commands to bring, in tick 10. -/
def cmd20 : Mach :=
  let m := setF [(R.HIF_F_RING_CFG_EN 0 0, 1), (R.HIF_F_RING_CFG_EN 0 1, 1), (R.HIF_F_RING_CFG_SZ 0 0, 8), (R.HIF_F_RING_CFG_SZ 0 1, 8),
    (R.ING_GEOM_WIDTH 3, 1280), (R.ING_GEOM_HEIGHT 3, 720), (R.ACT_F_OUT_OUT_MASK 0, 0x3F), (R.MOT_ENC_CTRL_EN 2, 1)] up
  let m := m.onFn 0 fun x => { x with rings := vput (vput x.rings 0 { count := 3, host := 7 }) 1 { count := 300, host := 290 }, cseq := 5 }
  { m with time := { m.time with n := 1050000000 }, tick := { m.tick with tn := 10, start := 1049950000 } }

def h20 (fn : Fin 8) (tn : Nat) : CmdHdr := { fn := fn, ctag := 77, tnEff := tn }

theorem meets_CommandsAreJudgedInOrder :
    let s := st cmd20
    let w := st (cmd20.onFn 0 fun x => { x with wedged := true })
    let pf := st (cmd20.onJnl fun j => { j with pf := some .done })
    let vf := st (cmd20.onOwn fun o => { o with tick := 1 })
    s.fetchable 1 = false ∧ s.fetchable 0 = true ∧ (w.fetchable 0 = true ∧ (w.fn.get 0).wedged = true) ∧ (vf.fetchable 0 = true ∧ vf.own.tick ≠ 0) ∧
    (pf.fetchable 0 = true ∧ pf.jnl.pf ≠ none ∧ pf.own.tick = 0 ∧ (pf.fn.get 0).wedged = false) := by decide +kernel

theorem meets_PortCommandsComplete :
    let s := st cmd20
    let vf := st (cmd20.onOwn fun o => { o with port := vput o.port 3 1 })
    let mg := st (cmd20.put (R.ING_SCI_CFG_OWNER 3) 1)
    let b := st (cmd20.onPort 3 fun p => { p with sci := some { who := .host, startEl := 0, rlen := 4 } })
    let i2c := st (cmd20.put (R.ING_SCI_CFG_MODE 3) 2)
    let e := st (cmd20.put (R.ING_CTRL_EN 3) 1)
    let bad := st (cmd20.put (R.ING_GEOM_WIDTH 3) 0)
    (s.sciMode 3 = 0 ∧ i2c.sciMode 3 = 2 ∧ i2c.fetchable 0 = true ∧ i2c.preCheck (h20 0 12) 0x20 = none ∧ i2c.portJudge 0 3 = none ∧
      i2c.on (R.ING_SCI_CFG_OWNER 3) = false ∧ (i2c.port.get 3).sci = none) ∧
    e.enableReject 3 = none ∧
    s.fetchable 0 = true ∧ ([0x20, 0x21, 0x22, 0x70].all fun op => (s.preCheck (h20 0 12) op).isNone) = true ∧ (vf.portJudge 0 3).isSome = true ∧
    s.portJudge 0 3 = none ∧ (Mach.pairsReject 0 3 1 [(3, 0)] s.toMach).isSome = true ∧ Mach.pairsReject 0 3 1 [(0x1C, 0x02D00500)] s.toMach = none ∧
    mg.on (R.ING_SCI_CFG_OWNER 3) = true ∧ (b.port.get 3).sci ≠ none ∧ (s.on (R.ING_SCI_CFG_OWNER 3) = false ∧ (s.port.get 3).sci = none) ∧
    e.on (R.ING_CTRL_EN 3) = true ∧ (s.on (R.ING_CTRL_EN 3) = false ∧ s.enableReject 3 = none) ∧
    (bad.on (R.ING_CTRL_EN 3) = false ∧ (bad.enableReject 3).isSome = true) := by decide +kernel

def le20 (n k : Nat) : List Byte := (List.range k).map fun i => BitVec.ofNat 8 (n / 256 ^ i)

/-- An image of 192 bytes that claims ports 0 and 2: header, one directory entry of type 1, zeros; its CRC given. -/
def image20 (crc : Nat) : List Byte :=
  [0x41, 0x56, 0x47, 0x49, 0, 1] ++ le20 0 2 ++ le20 192 5 ++ le20 0 3 ++ le20 0x1234 4 ++ le20 0 4 ++ le20 1 2 ++ le20 0 2 ++ le20 crc 4 ++
    le20 5 2 ++ le20 0 30 ++ le20 1 4 ++ le20 0 4 ++ le20 128 5 ++ le20 0 3 ++ le20 0 112

def goodImage : List Byte := image20 0x4072ADA6

/-- Six pieces of the image as its CRC sees it. -/
def piece (k : Nat) : List Byte := ((image20 0).drop (32 * k)).take 32

theorem crc_0 : (piece 0).foldl crcByte 0xFFFFFFFF#32 = 0xDD81D6F1#32 := by decide +kernel
theorem crc_1 : (piece 1).foldl crcByte 0xDD81D6F1#32 = 0x7836F0A5#32 := by decide +kernel
theorem crc_2 : (piece 2).foldl crcByte 0x7836F0A5#32 = 0x6F0C09F5#32 := by decide +kernel
theorem crc_3 : (piece 3).foldl crcByte 0x6F0C09F5#32 = 0xCEE28DFD#32 := by decide +kernel
theorem crc_4 : (piece 4).foldl crcByte 0xCEE28DFD#32 = 0x9060E5EF#32 := by decide +kernel
theorem crc_5 : (piece 5).foldl crcByte 0x9060E5EF#32 = 0xBF8D5259#32 := by decide +kernel

theorem crc_goodImage : crc32c (crcBytes goodImage) = 0x4072ADA6#32 := by
  have h : crcBytes goodImage = piece 0 ++ piece 1 ++ piece 2 ++ piece 3 ++ piece 4 ++ piece 5 := by decide +kernel
  rw [crc32c, h]
  simp only [List.foldl_append, crc_0, crc_1, crc_2, crc_3, crc_4, crc_5]
  decide

theorem goodImage_ok : imageOk up.gradeId up.gradePl goodImage = true := by
  rw [imageOk, crc_goodImage]
  decide +kernel

theorem meets_BoundaryCommandsWait :
    let s := st cmd20
    let busy := st (cmd20.onTick fun t => { t with pending := [{ fn := 0, op := 0x31, ctag := 1, cseq := 2, tnEff := 12, change := .quality 3 }] })
    let im := st { cmd20 with images := [(2, { parseImage 0 0 [] with activeFrom := some 5 })] }
    s.fetchable 0 = true ∧ ([0x10, 0x11, 0x12, 0x30, 0x31, 0x40, 0x41, 0x52].all fun op => (s.preCheck (h20 0 12) op).isNone) = true ∧
    (11 < s.tick.tn + 2 ∧ s.tick.tn + 2 ≤ 12 ∧ s.tick.tn + 2 ^ 32 < 2 ^ 40) ∧
    busy.tick.pending.any (fun p => p.fn == 0 && Mach.changeKind p.change == 5) = true ∧
    (s.images.isEmpty = true ∧ (s.fn.toList.any fun (x : Func) => x.load.isSome) = false ∧ (List.range 16).any (fun p => s.on (R.ING_CTRL_EN p)) = false) ∧
    (let o := st (cmd20.onOwn fun w => { w with tick := 1 })
     o.fetchable 0 = true ∧ (h20 0 12).phaseOk = true ∧ (o.fn.get 0).wedged = false ∧ (h20 0 12).rsvdOk = true ∧ o.own.tick ≠ 0) ∧
    im.images.isEmpty = false ∧ s.portsJudge 0 8 = none ∧ ([Rule.of (le20 0 32) 0].all Rule.ok) = true ∧
    (im.images.find 2).isSome = true ∧ s.images.find 2 = none ∧ s.mapReject 0 12 (Mach.mapEntries []) = none ∧
    s.loadReject 0 goodImage 192 (2 ^ 21) none = none ∧ (s.loadReject 0 goodImage 192 5 none).isSome = true := by decide +kernel

theorem meets_LoadedImageTakesItsSlot :
    let job := fun (b : List Byte) => ({ ctag := 3, cseq := 4, tnEff := 12, dst := 2 ^ 21, replaces := none, bytes := b } : LoadJob)
    let s := st (cmd20.onFn 0 fun x => { x with load := some (job goodImage) })
    let was := st { s.toMach with images := [(2, { parseImage 0 0 goodImage with activeFrom := some 5 })] }
    let full := st { s.toMach with images := (List.range 16).map fun k => (k, parseImage 1 0 []) }
    ((st cmd20).fn.get 0).load = none ∧ (s.fn.get 0).load = some (job goodImage) ∧ (s.gradeId = up.gradeId ∧ s.gradePl = up.gradePl) ∧
    imageOk s.gradeId s.gradePl [] = false ∧
    (s.imagesAt 0 12).any (fun x => some x.1 != none && Mach.claims (parseImage 0 (2 ^ 21) goodImage) x.2) = false ∧
    (was.imagesAt 0 12).any (fun x => some x.1 != none && Mach.claims (parseImage 0 (2 ^ 21) goodImage) x.2) = true ∧
    s.freeSlotNo = some 0 ∧ (full.freeSlotNo = none ∧
      (full.imagesAt 0 12).any (fun x => some x.1 != none && Mach.claims (parseImage 0 (2 ^ 21) goodImage) x.2) = false) := by decide +kernel

theorem meets_ImmediateCommandsComplete :
    let s := st ((setF [(R.HIF_F_RING_CFG_EN 0 3, 1), (R.HIF_F_RING_CFG_SZ 0 3, 8)] cmd20).onFn 0 fun x => { x with retained := [1] })
    let a : Action := { act16 false 1 with slot := 3 }
    let acts := st (cmd20.onJnl fun j => { j with actions := [(3, a)] })
    let vf := st (cmd20.onJnl fun j => { j with actions := [(3, { a with fn := 1 })] })
    let owe := st (cmd20.onFn 0 fun x => { x with openCmds := [4] })
    let no := st (cmd20.onOwn fun o => { o with washes := [{ kind := kindTrig, unit := 1, owed := none }] })
    s.fetchable 0 = true ∧ ([0x01, 0x02, 0x32, 0x33, 0x50, 0x51, 0x60, 0x81, 0x90, 0x91, 0xF0].all fun op => (s.preCheck (h20 0 12) op).isNone) = true ∧
    (7999 < 8000 ∧ 8000 ≤ s.gradeCap) ∧ (s.gradePl < 100 ∧ 0 ≤ s.gradePl) ∧
    (bitN (s.g (R.ACT_F_OUT_OUT_MASK 0)) 1 = true ∧ s.washing kindTrig 1 = false ∧ s.on (R.MOT_ENC_CTRL_EN 2) = true ∧ s.jnl.actions.length < 4096) ∧
    bitN (s.g (R.ACT_F_OUT_OUT_MASK 0)) 7 = false ∧ no.washing kindTrig 1 = true ∧
    (acts.jnl.actions.find? (fun e => e.2.id == a.id)) = some (3, a) ∧ ((vf.jnl.actions.find? (fun e => e.2.id == a.id)).map fun e => e.2.fn) = some 1 ∧
    s.jnl.actions.find? (fun e => e.2.id == 5) = none ∧
    (0 + 1000 * (s.g (R.FUS_F_EXT 0) : Int) < s.time.n ∧ ¬ (1050000000 + 1000 * (s.g (R.FUS_F_EXT 0) : Int) < s.time.n)) ∧
    (s.queryBytes 0 5 0 = some [] ∧ s.queryBytes 0 2 0 = none) ∧ (s.tableFrozen = false ∧ (st (s.put R.ACT_CTRL_EN 0)).tableFrozen = true) ∧
    (s.lateNow { a with trigger := 2000000000 } = false ∧ s.lateNow a = true) ∧ ((s.fn.get 0).openCmds = [] ∧ (s.fn.get 0).fences = []) ∧
    (owe.fn.get 0).openCmds.any (fun c => decide (c < (owe.fn.get 0).cseq)) = true ∧
    (Mach.classesOf 2).any (fun (c : Fin 4) => !s.ringEn 0 (rptRing c)) = false ∧ (Mach.classesOf 4).any (fun (c : Fin 4) => !s.ringEn 0 (rptRing c)) = true ∧
    1 ∈ (s.fn.get 0).retained := by decide +kernel

theorem meets_OwnershipMovesWithAWash :
    let s := st cmd20
    let w := st (cmd20.onOwn fun o => { o with washes := [{ kind := 0, unit := 3, owed := none }] })
    let flr := st (cmd20.onFn 1 fun x => { x with flrBusy := true, flrAt := some 5 })
    let edge := st (cmd20.onFn 1 fun x => { x with flrBusy := true, flrEdge := true })
    (s.fetchable 0 = true ∧ s.preCheck (h20 0 0) 0x80 = none) ∧ s.assignJudge 0 3 2 1 = none ∧ (s.assignJudge 0 15 2 1).isSome = true ∧
    s.own.washes.any (fun w => w.kind == 0 && w.unit == 3) = false ∧ (w.own.washes.find? (fun w => w.kind == 0 && w.unit == 3)).isSome = true ∧
    (1 : Fin 8) ≠ 0 ∧ (s.fn.get 1).flrBusy = false ∧
    ((flr.fn.get 1).flrBusy = true ∧ (flr.fn.get 1).flrEdge = false ∧ (flr.fn.get 1).wedged = false ∧ (flr.fn.get 1).flrAt = some 5) ∧
    (edge.fn.get 1).flrEdge = true := by decide +kernel

/-! ## Hypotheses met: registers, doorbells, rings and the mailbox -/

theorem meets_RegisterAccessesFollowTheirFields :
    let s := st up
    let base := fun (off : Nat) => ((barPlace 0 off).map fun x => (x.base, s.placeOff x))
    let e := st (up.put (R.ING_CTRL_EN 3) 1)
    barKey 0 0xFFFFFFF = none ∧ barPlace 0 0xFFFFFFF = none ∧ ((barKey 0 0x108).map fun k => (regPlace k).isNone) = some true ∧
    ((barKey 0 0x10008).bind regPlace).isSome = true ∧ base 0x10008 = some (0x10000, false) ∧
    (barPlace 0 0x100000).isSome = true ∧
    (base 0x140008 = some (0x140000, false) ∧ ((barPlace 0 0x140008).map fun x => decide (x.row.rw ≠ 0)) = some true) ∧
    ((barPlace 0 0x10301C).map fun x => (x.base, x.row.off, x.unit)) = some (0x100000, 0x1C, 3) ∧ e.on (R.ING_CTRL_EN 3) = true ∧
    ((State.reset.placeOff <$> barPlace 0 0x10301C) = some true) ∧
    (base 0x10301C = some (0x100000, false) ∧ base 0x100034 = some (0x100000, false) ∧ ((barPlace 0 0x100034).map fun x => x.row.off) = some 0x34 ∧
      s.on (R.ING_CTRL_EN 3) = false ∧ (s.port.get 0).running = false ∧ ((st (up.onPort 0 fun x => { x with running := true })).port.get 0).running = true) ∧
    ((barPlace 0 (R.RRT_KEY_A 0)).map fun x => (x.base, decide (x.row.wo ≠ 0), s.placeOff x)) = some (0x64000, true, false) ∧
    ((barPlace 0 R.SBI_KEY.a).map fun x => (x.base, decide (x.row.wo ≠ 0), s.placeOff x)) = some (0xC0000, true, false) ∧
    ((barPlace 0 0x2C).map fun x => (x.base, x.row.off, s.placeOff x)) = some (0, 0x2C, false) ∧ s.romWaits 1 = false ∧
    (st { (up.onRst fun r => { r with fwVerified := false }) with chip := { up.chip with bootSel := 1 } }).romWaits 1 = true := by decide +kernel

def bell21 : Mach :=
  (setF [(R.HIF_F_RING_CFG_EN 2 0, 1), (R.HIF_F_RING_CFG_SZ 2 0, 8)] up).onFn 2 fun x =>
    { x with rings := vput x.rings 0 { count := 5, host := 6 }, mods := vput x.mods 3 { n := 2, since := some 1000 } }

theorem meets_DoorbellsAndRings :
    let s := st bell21
    let b := st (bell21.onFn 2 fun x => { x with flrBusy := true })
    (s.sleep.state = 0 ∧ s.sleep.entering = none) ∧ (st (bell21.onSleep fun z => { z with state := 3 })).sleep.state = 3 ∧
    (s.ringEn 2 0 = true ∧ (s.fn.get 2).flrBusy = false) ∧ s.ringEn 2 1 = false ∧ (b.fn.get 2).flrBusy = true ∧
    2 ^ 31 ≤ toBits 32 ((5 : Int) - (s.ring 2 0).host) ∧ toBits 32 ((261 : Int) - (s.ring 2 0).host) < 2 ^ 31 ∧ s.ringSize 2 0 = 256 ∧
    s.ringSize 2 0 < (toSigned 32 (toBits 32 ((262 : Int) - (s.ring 2 0).count))).natAbs ∧
    (toSigned 32 (toBits 32 ((261 : Int) - (s.ring 2 0).count))).natAbs ≤ s.ringSize 2 0 ∧ (5 < 6 ∧ 16 < 17 ∧ 6 ≤ 6 ∧ 16 ≤ 16) ∧
    ((s.fn.get 2).mods.get 0).since = none ∧ ((s.fn.get 2).mods.get 3).since = some 1000 := by decide +kernel

theorem meets_MailboxServesInOrder :
    let rq := fun (c : Nat) => ({ code := c, tag := 7, resp := 0x1000, rlen := 10, args := [0x02050003, 4] } : MgtReq)
    let s := fun (l : List Nat) => st { up with mgt := l.map rq }
    let sci := st { (up.put (R.ING_SCI_CFG_OWNER 3) 1) with mgt := [rq 7] }
    let big := st { (up.put (R.ING_SCI_CFG_OWNER 3) 1) with mgt := [{ rq 7 with args := [0x3F050003, 4] }] }
    let i2c := st { ((up.put (R.ING_SCI_CFG_OWNER 3) 1).put (R.ING_SCI_CFG_MODE 3) 1) with mgt := [rq 7] }
    (sci.sciMode 3 = 0 ∧ i2c.sciMode 3 = 1 ∧ i2c.mbHead 7 = some (rq 7) ∧ (i2c.on (R.ING_SCI_CFG_OWNER 3) && (i2c.port.get 3).sci.isNone) = true) ∧
    64 ≤ (s (List.replicate 64 3)).mgt.length ∧ (s (List.replicate 63 3)).mgt.length < 64 ∧ ¬ (1 ≤ (s []).mbRequest.code ∧ (s []).mbRequest.code ≤ 8) ∧
    (s []).mgt = [] ∧ ([1, 2, 3, 4, 5, 6, 7, 8].all fun k => (s [k]).mbHead k == some (rq k)) = true ∧
    ([1, 2, 3, 4, 5, 6, 7, 8].all fun k => (s []).mbHead k == none) = true ∧
    (s [4]).chip.rollback ≤ 65535 ∧ ((s [7]).on (R.ING_SCI_CFG_OWNER 3) && ((s [7]).port.get 3).sci.isNone) = false ∧
    (sci.mbHead 7 = some (rq 7) ∧ (sci.on (R.ING_SCI_CFG_OWNER 3) && (sci.port.get 3).sci.isNone) = true) ∧
    ((big.mbHead 7).isSome = true ∧ 32 < byteAt (bytesOf 4 0x3F050003) 3 % 64) := by decide +kernel

/-! ## Hypotheses met: line links -/

def train22 (level : Nat) : TrainFrame := { levelMax := level, credits := [4, 32, 64, 8], pkg := 3, resume := true, expect := 5 }
def frame22 (vl : Fin 4) (som eom : Bool) (seq : Nat) (b : List Byte) : LinkFrame := { vl := vl, som := som, eom := eom, seq := seq, payload := b }

/-- Link 1 enabled, in tick 100. -/
def link22 (f : Link → Link) : State :=
  let m := (setF [(R.LNK_CTRL_EN 1, 1)] up).onLink 1 f
  st { m with time := { m.time with n := 10050000 }, tick := { m.tick with tn := 100, start := 10000000, accts := [{ tn := 100, start := 10000000 }] } }

theorem meets_LinkTraining :
    let s := link22 fun x => { x with state := 1, trained := 2, peerTrain := some (train22 2), trainSent := some 5, resume := true }
    let upl := link22 fun x => { x with state := 2 }
    s.linksOff = false ∧ (st up).linksOff = false ∧ (st (up.onSleep fun z => { z with state := 3 })).linksOff = true ∧
    s.on (R.LNK_CTRL_EN 1) = true ∧ (st up).on (R.LNK_CTRL_EN 1) = false ∧ upl.training 1 = false ∧ s.training 1 = true ∧
    (s.link.get 1).trainSent = some 5 ∧ ((s.link.get 1).peerTrain = some (train22 2) ∧ 3 ≤ (s.link.get 1).trained + 1 ∧ (train22 2).levelMax ≠ 0) ∧
    ((s.link.get 1).peerTrain ≠ some (train22 1) ∧ 1 < 3) ∧
    (let z := link22 fun x => { x with state := 1, trained := 2, peerTrain := some (train22 0) }
     (z.link.get 1).peerTrain = some (train22 0) ∧ 3 ≤ (z.link.get 1).trained + 1 ∧ (train22 0).levelMax = 0) ∧
    ((s.link.get 1).resume = true ∧ (train22 2).resume = true ∧ ((link22 id).link.get 1).resume = false) := by decide +kernel

theorem meets_LinkDataIsDeliveredInSequence :
    let b : List Byte := [2, 17, 24, 0, 1, 0, 0, 0, 100, 0, 0, 0, 0, 0, 0, 0, 3, 3, 3, 3, 0, 0, 0, 0]
    let later : List Byte := [2, 17, 24, 0, 1, 0, 0, 0, 101, 0, 0, 0, 0, 0, 0, 0, 3, 3, 3, 3, 0, 0, 0, 0]
    let s := link22 fun x => { x with
      state := 2, rxSeq := 9, sendq := vput x.sendq 1 [frame22 1 true true 0 b], replay := [(frame22 1 true true 4 b, 30), (frame22 1 true true 5 b, 70)],
      owesAck := true }
    let poor := link22 fun x => { x with state := 2, credits := #v[0, 0, 0, 0], sendq := vput x.sendq 1 [frame22 1 true true 0 b] }
    let full := link22 fun x => { x with state := 2, replay := List.replicate 256 (frame22 1 true true 4 (List.replicate 236 0), 20), sendq := vput x.sendq 1 [frame22 1 true true 0 b] }
    let x := s.link.get 1
    let good := fun (b : List Byte) (v : Fin 4) => decide (1 ≤ byteAt b 0) && decide (byteAt b 0 ≤ 5) && laneOf (byteAt b 0) == v && (leN b 2 2 + 3) / 4 * 4 == b.length &&
      decide (Mach.leastSize (byteAt b 0) (byteAt b 1 / 16) (byteAt b 4) ≤ leN b 2 2) && decide (byteAt b 1 / 16 ≤ 1)
    let idle := link22 fun x => { x with state := 2, owesAck := true }
    let dark := st ((s.onSleep fun z => { z with state := 2 }).put R.PWR_SLEEP_LNK_ON 0)
    let lit := fun (s : State) => decide (s.sleep.state ≠ 2) || s.on R.PWR_SLEEP_LNK_ON
    (lit s = true ∧ lit dark = false ∧ (dark.link.get 1).state = 2) ∧ (((1 : Fin 4) == 1 || (1 : Fin 4) == 2) = true ∧ ((0 : Fin 4) == 1 || (0 : Fin 4) == 2) = false) ∧
    ((idle.link.get 1).state = 2 ∧ (idle.link.get 1).owesAck = true ∧ Mach.mayPutFrame (idle.link.get 1) = false ∧ Mach.mayPutFrame (s.link.get 1) = true) ∧
    laneOf 2 = 1 ∧
    ((link22 id).link.get 1).state ≠ 2 ∧
    (x.state = 2 ∧ (x.sendq.get 1).isEmpty = false ∧ x.credits.get 1 ≠ 0 ∧ (x.sendq.get 0).isEmpty = true ∧
      (x.replay.map fun (k : LinkFrame × Int) => 20 + k.1.payload.length).sum + 40 ≤ 65536) ∧
    ((poor.link.get 1).state = 2 ∧ ((poor.link.get 1).sendq.get 1).isEmpty = false ∧ (poor.link.get 1).credits.get 1 = 0) ∧
    (65536 < ((full.link.get 1).replay.map fun (k : LinkFrame × Int) => 20 + k.1.payload.length).sum + 40) ∧
    (frame22 1 true true 8 b).seq ≠ x.rxSeq ∧ (frame22 1 true true 9 b).seq = x.rxSeq ∧ x.naked = false ∧
    (good b 1 = true ∧ leN b 8 6 ≤ s.tick.tn) ∧ (good later 1 = true ∧ s.tick.tn < leN later 8 6) ∧ good [1] 1 = false ∧ (x.rxPart.get 2).2 = 0 ∧
    (x.replay.findIdx? (fun k => k.1.seq == 4) = some 0 ∧ x.replay.findIdx? (fun k => k.1.seq == 5) = some 1) ∧
    (x.owesAck = true ∧ x.replay.head? = some (frame22 1 true true 4 b, 30)) ∧ (poor.link.get 1).replay = [] ∧
    ((poor.link.get 1).owesAck || (poor.link.get 1).owed.toList.any (· != 0)) = false := by decide +kernel

theorem meets_LinkMessagesAreTaken :
    let le8 := fun (v : Nat) => bytesOf 8 v
    let msg := fun (k tn doneTn : Nat) (v : Fin 4) (b : List Byte) =>
      ({ mtype := k, fmt := 1, func := 1, count := 1, tn := tn, vl := v, frames := 1, bytes := List.replicate 16 0 ++ b, arrived := 10040000, doneTn := doneTn } : LinkMsg)
    let s := link22 fun x => { x with state := 2, rxMsgs := [msg 4 100 100 0 (le8 10030000 ++ le8 10000000 ++ le8 10010000), msg 5 100 100 3 (List.replicate 20 0),
      msg 1 100 100 1 (List.replicate 80 0), msg 2 100 100 1 (List.replicate 12 0), msg 3 100 100 2 (List.replicate 32 0)] }
    let bad := link22 fun x => { x with state := 2, rxMsgs := [msg 4 100 100 0 (le8 10030000 ++ le8 0 ++ le8 0), msg 3 98 100 2 (List.replicate 32 0)] }
    let adv := link22 fun x => { x with state := 2, advertised := some (0, 2, 100, 0) }
    let pair := st (s.onFus fun u => { u with mine := [{ tn := 98, port := 2, index := 1, md := 1000, cd := 50, ev := 3, bad := false }] })
    let oldest := fun (s : State) (k : Nat) => (s.link.get 1).rxMsgs.find? fun (y : LinkMsg) => y.mtype == k
    let z := link22 id
    let src := fun (flags : Nat) => st (((setF [(R.TIM_SRV_CFG_SRC, 1), (R.TIM_SRV_CFG_LNK, 1)] s.toMach)).onLink 1 fun x =>
      { x with rxMsgs := [{ msg 4 100 100 0 (le8 10030000 ++ le8 10000000 ++ le8 10010000 ++ bytesOf 4 flags) with fmt := 2 }] })
    let offers := fun (replied : List (Nat × Nat × Nat)) => st ((s.put ⟨R.LNK_FMAP_A 1, 31, 0⟩ 0x90).onLink 1 fun x =>
      { x with theta := some (5, 0), replied := replied })
    let agree := link22 fun x => { x with state := 2, rxMsgs := [msg 5 100 100 3 ([3, 2, 100, 0] ++ List.replicate 16 0)] }
    let early := st ((fuse15 1 0 1).onLink 1 fun x => { x with state := 2, rxMsgs := [msg 2 100 100 1 (List.replicate 12 0)] })
    ([(src 4, true), (src 0, false)].all fun e => (oldest e.1 4).any (fun y => (decide (2 ≤ y.fmt) && bitN (byteAt y.bytes 0x28) 2 && e.1.srcLink 1) == e.2)) = true ∧
    ((oldest (offers []) 1).isSome = true ∧ (offers []).hoRefuse 1 = false ∧ (offers []).mapFunc 1 1 = some 1 ∧ ((offers []).link.get 1).replied = []) ∧
    (((offers [((Comet.of (List.replicate 64 0)).cid, 2, 100)]).link.get 1).replied.any (fun r => r.1 == (Comet.of ((List.replicate 96 0).drop 0x20)).cid)) = true ∧
    ((oldest agree 5).map fun y => decide (agree.tickValuesAt y.tn = (leN y.bytes 0x12 2, leI y.bytes 0x18 8))) = some true ∧
    ((oldest s 5).map fun y => decide (s.tickValuesAt y.tn = (leN y.bytes 0x12 2, leI y.bytes 0x18 8))) = some false ∧
    ((oldest early 2).map (fun y => match early.nextFuse with | some a => decide (a.tn < y.doneTn) | none => false)) = some true ∧
    (s.link.get 1).state = 2 ∧ (z.link.get 1).state ≠ 2 ∧ oldest z 4 = none ∧
    ((oldest s 4).map (fun y => (leI y.bytes 0x18 8, leI y.bytes 0x20 8)) = some (10000000, 10010000) ∧ s.stepBetween 1 10000000 10040000 = false) ∧
    ((oldest bad 4).map fun y => leI y.bytes 0x18 8) = some 0 ∧ (adv.link.get 1).advertised = some (0, 2, 100, 0) ∧ (s.link.get 1).advertised = none ∧
    (oldest s 5).isSome = true ∧ ((oldest s 1).isSome = true ∧ s.hoRefuse 1 = true) ∧ ((oldest s 2).isSome = true ∧ s.nextFuse.isNone = true) ∧
    ((oldest s 3).map (fun y => decide (y.tn + 2 ≤ y.doneTn) ||
      (decide (y.tn < y.doneTn) && decide (s.endOfTick y.tn + s.g (R.LNK_SKEW_LINK_WAIT 1) * 1000 < y.arrived)) || !s.working) = some false) ∧
    ((oldest bad 3).map fun y => decide (y.tn + 2 ≤ y.doneTn)) = some true ∧ s.fus.mine = [] ∧
    pair.fus.mine.filter (fun c => decide ((pair.link.get 1).pairedTo ≤ c.tn)) ≠ [] := by decide +kernel

/-! ## Hypotheses met: resets, bring-up, sideband and pads -/

def rst23 (f : ResetUnit → ResetUnit) : State := st (up.onRst f)

theorem meets_WarmResetsKeepWhatTheyMust :
    let s := st up
    let z := State.reset
    let w := st (up.onTick fun t => { t with wdogArmed := true, wdogCount := 16 })
    let w15 := st (up.onTick fun t => { t with wdogArmed := true, wdogCount := 15 })
    let perst := st (up.put R.RST_CFG_PERST_MODE 1)
    let host := rst23 fun r => { r with pkgReset := some 9000 }
    let rec_ := st (up.onJnl fun j => { j with pf := some .done, recoverFrom := some 7000 })
    let sb := st (up.put R.SBI_CFG_RST_EN 1)
    let por := fun (s : State) => decide (s.rst.hold = some .por)
    let slept := fun (k : Nat) => st (up.onSleep fun x => { x with state := k })
    (s.sleep.state = 0 ∧ z.sleep.state = 0 ∧ s.time.quality = .free) ∧ (por (slept 2) = false ∧ (slept 2).sleep.state = 2 ∧
      (slept 2).on R.RST_CFG_PERST_MODE = false) ∧ (slept 3).sleep.state = 3 ∧ (por rec_ = false ∧ por w = false) ∧
    ((s.stir 1 0).sleep.state = 0 ∧ sb.sleep.state = 0 ∧ sb.sleep.entering = none) ∧
    por z = true ∧ z.rst.hold.isSome = true ∧ (por s = false ∧ s.rst.hold = none) ∧
    (w.tick.wdogArmed && decide (16 ≤ w.tick.wdogCount)) = true ∧ (w15.tick.wdogArmed && decide (16 ≤ w15.tick.wdogCount)) = false ∧
    perst.on R.RST_CFG_PERST_MODE = true ∧ s.on R.RST_CFG_PERST_MODE = false ∧ (11 < 12 ∧ 12 ≤ 12) ∧ s.rst.pkgReset = none ∧
    (por host = false ∧ host.rst.pkgReset = some 9000) ∧ s.jnl.recoverFrom = none ∧ (rec_.jnl.pf = some .done ∧ rec_.jnl.recoverFrom = some 7000) ∧
    (por sb = false ∧ sb.on R.SBI_CFG_RST_EN = true ∧ sb.g R.SBI_KEY = sb.g R.SBI_KEY) ∧ 0x12345 ≠ sb.g R.SBI_KEY := by decide +kernel

theorem meets_BringUpReachesReady :
    let z := State.reset
    let s := st up
    let warm := rst23 fun r => { r with hold := some (.warm 7) }
    let host := st { (rst23 fun r => { r with fwVerified := false, ready := false }).toMach with chip := { up.chip with bootSel := 1 } }
    let soon := rst23 fun r => { r with ready := false }
    let cmp := rst23 fun r => { r with compute := some 1 }
    let out := rst23 fun r => { r with outFrom := some 5000 }
    let boot := fun (sel : Nat) (fw pll : Bool) => ({ bootSel := sel, fwOk := fw, fwOtherOk := fw, pllOk := pll } : BootInfo)
    (z.chip.testMode = false ∧ (boot 0 false true).testMode = false ∧ (boot 0 false true).clkMode % 4 ≠ 3 ∧ (boot 0 false true).bootSel % 4 = 0 ∧
      (!(boot 0 false true).fwOk && !(boot 0 false true).fwOtherOk) = true ∧ (!(boot 0 true false).fwOk && !(boot 0 true false).fwOtherOk) = false ∧
      (boot 0 true false).pllOk = false ∧ (boot 1 true true).pllOk = true ∧ (boot 3 true true).bootSel % 4 = 3) ∧
    (∀ d : Fin 4, ((boot 1 true true).dies.get d).trained = true) ∧
    s.rst.hold = none ∧ z.rst.hold = some .por ∧ warm.rst.hold = some (.warm 7) ∧
    (host.rst.hold.isNone && host.rst.stage == 9 && !host.rst.fwVerified && host.chip.bootSel == 1) = true ∧
    (s.rst.hold.isNone && s.rst.stage == 9 && !s.rst.fwVerified && s.chip.bootSel == 1) = false ∧
    (soon.rst.compute.isSome = false ∧
      (!soon.rst.ready && soon.rst.hold.isNone && soon.rst.stage == 9 && soon.rst.fwVerified && soon.nvs.state != 1) = true) ∧
    (s.rst.compute.isSome = false ∧ (!s.rst.ready && s.rst.hold.isNone && s.rst.stage == 9 && s.rst.fwVerified && s.nvs.state != 1) = false) ∧
    cmp.rst.compute.isSome = true ∧ s.rst.outFrom = none ∧ out.rst.outFrom = some 5000 := by decide +kernel

theorem meets_ComputeAndBlockResets :
    let s := st up
    let refused := fun (s : State) => (!s.rst.ready && s.rst.compute.isNone) || s.rst.compute.isSome || decide (2 ≤ s.sleep.state) || s.jnl.pf.isSome
    let cmp := rst23 fun r => { r with compute := some 1 }
    let blk := rst23 fun r => { r with blk := some { kind := 8, unit := 0, at_ := 5000 } }
    let lost := st ((up.onDie 1 fun d => { d with lost := true }))
    let auto := st ((up.put R.RST_CFG_AUTO_CMP 1).onRst fun r => { r with lostAt := some 5000 })
    let due := fun (s : State) => match s.rst.lostAt with
      | none => false
      | some t0 => s.on R.RST_CFG_AUTO_CMP && (match s.rst.autoAt with | some a => decide (600000000000 ≤ t0 + 1000000000 - a) | none => true)
    let perst := st (up.put R.RST_CFG_PERST_MODE 1)
    let kinds : List (Nat × Nat) := [(0, 5), (1, 5), (2, 7), (3, 1), (4, 1), (5, 1), (6, 1), (7, 1), (8, 0)]
    (kinds.all fun k => s.blockOn k.1 k.2) = true ∧ s.linksOff = false ∧ (perst.sleep.state ≠ 3) ∧ refused auto = false ∧
    refused cmp = true ∧ refused s = false ∧ cmp.rst.compute.isSome = true ∧
    ((!s.rst.ready && s.rst.compute.isNone) = false ∧ s.rst.compute = none ∧ s.rst.blk = none ∧ s.blockOn 9 0 = false ∧ s.blockOn 8 0 = true) ∧
    blk.rst.blk = some { kind := 8, unit := 0, at_ := 5000 } ∧ lost.dieLost 1 = true ∧ (s.dieLost 1 = false ∧ s.rst.hold = none ∧ 1 ≤ 3) ∧
    due s = false ∧ (due auto = true ∧ auto.rst.lostAt = some 5000) ∧ s.on R.RST_CFG_PERST_MODE = false ∧
    (perst.on R.RST_CFG_PERST_MODE = true ∧ perst.rst.hold = none) := by decide +kernel

theorem meets_SidebandPadsAndTap :
    let s := st up
    let sb := st { (rst23 fun r => { r with fwVerified := false, ready := false }).toMach with chip := { up.chip with bootSel := 2 } }
    let waits := fun (s : State) => s.rst.hold.isNone && s.rst.stage == 9 && !s.rst.fwVerified && s.chip.bootSel == 2
    waits s = false ∧ waits sb = true ∧ ((st (up.put R.SBI_CFG_RST_EN 0)).on R.SBI_CFG_RST_EN = false ∧ s.g R.SBI_KEY + 1 ≠ s.g R.SBI_KEY) ∧ (127 < 128 ∧ 128 ≤ 128) ∧
    (sb.sleep.state = 0 ∧ sb.sleep.entering = none ∧ 1 ≤ ([5] : List Byte).length ∧ ([5] : List Byte).length ≤ 32) ∧
    (let z := st (up.onSleep fun x => { x with state := 2 })
     z.sleep.state = 2 ∧ z.rst.hold ≠ some .por) ∧ s.jnl.actions.all (fun (e : Nat × Action) => e.2.lateBy.isNone) = true := by
  decide +kernel

/-! ## Hypotheses met: memory -/

theorem meets_RegionSettingsAndMemoryErrors :
    let s := st (up.put (R.MEM_REG_ECC 0 2) 1)
    let im := st { (up.put (R.MEM_REG_ECC 0 2) 1) with images := [(0, { parseImage 0 (2 * 2 ^ 30) [] with activeFrom := some 0, len := 64 })] }
    let scr := st ((up.put (R.MEM_REG_ECC 0 2) 1).put (R.MEM_SCRUB_HOURS 0) 24)
    let lost := st (s.onJnl fun j => { j with copies := vput j.copies 0 false })
    let meets := fun (s : State) (a : Nat) => s.addrExists a && s.regionEcc (a / 2 ^ 30)
    s.on (R.MEM_REG_ECC 0 2) = true ∧ s.regionHeld 2 = false ∧ im.regionHeld 2 = true ∧ meets s (2 * 2 ^ 30 + 64) = true ∧
    meets s (2 ^ 36) = false ∧ s.dieAt (2 * 2 ^ 30 + 64) = 0 ∧ scr.on (R.MEM_SCRUB_HOURS 0) = true ∧
    (0 ≠ 5 ∧ 4 ≠ 5) ∧ (s.on (R.MEM_REG_INTLV 0 2) = (1#32).getLsbD 1 ∧ s.on (R.MEM_REG_ECC 0 2) ≠ (0#32).getLsbD 0) ∧
    s.jnl.copies.get 0 = true ∧ (lost.jnl.copies.get 0 = false ∧ lost.dieLost 0 = false) := by decide +kernel

/-! ## Ill-formed commands are refused by the check -/

theorem refuses_headers :
    Instr.wf (.csi2ShortPacket 0 { vc := 16, dt := 0, wc := 0 }) = false ∧ Instr.wf (.csi2ShortPacket 0 { vc := 0, dt := 64, wc := 0 }) = false ∧
    Instr.wf (.csi2ShortPacket 0 { vc := 0, dt := 0, wc := 65536 }) = false ∧
    Instr.wf (.csi2LongPacket 0 { vc := 0, dt := 0x30, wc := 0 } [1] true false) = false ∧
    Instr.wf (.csi2Raw8Packet 0 { vc := 0, dt := 0x2A, wc := 0 } [1] true) = false ∧
    Instr.wf (.fence { fn := 0, ctag := 65536 }) = false ∧ Instr.wf (.washQuery { fn := 0, tnEff := 2 ^ 48 }) = false ∧
    Instr.wf (.csi2ShortPacket 0 { vc := 15, dt := 63, wc := 65535 }) = true := by decide +kernel

theorem refuses_port_and_motion_operands :
    Instr.wf (.sciGo 0 .host 128 0 0) = false ∧ Instr.wf (.sciGo 0 .host 0 64 0) = false ∧ Instr.wf (.sciGo 0 .host 0 0 64) = false ∧
    Instr.wf (.sciTransferDone 0 8 []) = false ∧ Instr.wf (.sciTransferDone 0 0 (List.replicate 33 0)) = false ∧
    Instr.wf (.streamPrefetch 0 256) = false ∧ Instr.wf (.mdQueryAnswer 0 (2 ^ 63)) = false ∧
    Instr.wf (.imuTransferDone 0 (List.replicate 256 0)) = false ∧ Instr.wf (.sciGo 0 .mgt 127 63 63) = true := by decide +kernel

theorem refuses_power_operands :
    Instr.wf (.holdupSample 65536) = false ∧ Instr.wf (.pmbusTelemetry 0 (some (2 ^ 32))) = false ∧ Instr.wf (.thermalThrottle 0 32768) = false ∧
    Instr.wf (.throttleRepeat 0 (-32769)) = false ∧ Instr.wf (.wake 16 0) = false ∧ Instr.wf (.wake 0 256) = false ∧
    Instr.wf (.supplyFault 64) = false ∧ Instr.wf (.thermalThrottle 0 (-32768)) = true ∧ Instr.wf (.pmbusTelemetry 0 none) = true := by
  decide +kernel

theorem refuses_frames :
    Instr.wf (.ethFrameRx 0 { len := 64, body := .udp 65536 }) = false ∧ Instr.wf (.ethFrameRx 0 { len := 64, body := .icmpEcho 65 }) = false ∧
    Instr.wf (.ethFrameRx 0 { len := 64, tags := [65536], body := .other }) = false ∧ Instr.wf (.arpRequest 0 0 []) = false ∧
    Instr.wf (.arpReply 0 0 []) = false ∧ Instr.wf (.neighborSolicitation 0 []) = false ∧ Instr.wf (.icmpEchoRequest 0 false 65536) = false ∧
    Instr.wf (.ptpFrameRx 0 { msgType := 16, len := 64 }) = false ∧ Instr.wf (.ptpFrameRx 0 { msgType := 0, transport := 3, len := 64 }) = false ∧
    Instr.wf (.ptpFrameRx 0 { msgType := 0, domain := 256, len := 64 }) = false ∧
    Instr.wf (.ptpFrameRx 0 { msgType := 0, source := 2 ^ 64, len := 64 }) = false ∧
    Instr.wf (.ptpFrameRx 0 { msgType := 0, seq := 65536, len := 64 }) = false ∧
    Instr.wf (.ptpFrameRx 0 { msgType := 0, len := 0, bytes := [0] }) = false ∧
    Instr.wf (.ethFrameRx 0 { len := 64, tags := [1], body := .udp 319 }) = true := by decide +kernel

theorem refuses_rrt_and_ring_operands :
    Instr.wf (.rrtAck 0 { port := 0, fn := 0, cls := 0, rsn := 2 ^ 64 }) = false ∧
    Instr.wf (.rrtAck 0 { port := 0, fn := 0, cls := 0, rsn := 0, dseq := 2 ^ 32 }) = false ∧
    Instr.wf (.rrtAck 0 { port := 0, fn := 0, cls := 0, rsn := 0, auth := true }) = false ∧
    Instr.wf (.ringEnable 0 0 { keep := false, sz := 32 }) = false ∧ Instr.wf (.ringEnable 0 0 { keep := true, sz := 3, slot := { rsn := 2 ^ 64 } }) = false ∧
    Instr.wf (.ringEnable 0 0 { keep := false, sz := 16 }) = true ∧
    Instr.wf (.unmappedAccess 0 (2 ^ 32) false) = false ∧ Instr.wf (.registerWrite 0 (2 ^ 32) 0 15) = false ∧
    Instr.wf (.offBlockAccess (2 ^ 21) false) = false ∧ Instr.wf (.registerWrite 0 0 0 15) = true := by decide +kernel

theorem refuses_command_operands :
    Instr.wf (.query { fn := 0 } 256 0 0 0) = false ∧ Instr.wf (.loadGraph { fn := 0 } [1] 0 0 none) = false ∧
    Instr.wf (.loadGraph { fn := 0 } [] 0 (2 ^ 40) none) = false ∧ Instr.wf (.loadGraph { fn := 0 } [] 0 0 (some 16)) = false ∧
    Instr.wf (.unloadGraph { fn := 0 } 16) = false ∧ Instr.wf (.mapRoles { fn := 0 } []) = false ∧
    Instr.wf (.portConfigWrites { fn := 0 } 0 1 [(2 ^ 32, 0)]) = false ∧ Instr.wf (.portConfigSci { fn := 0 } 0 128 0 []) = false ∧
    Instr.wf (.portConfigSci { fn := 0 } 0 0 64 []) = false ∧ Instr.wf (.portConfigSci { fn := 0 } 0 0 0 (List.replicate 64 0)) = false ∧
    Instr.wf (.setTickChange { fn := 0 } 1024) = false ∧ Instr.wf (.setTickLoad { fn := 0 } 100 (2 ^ 63)) = false ∧
    Instr.wf (.setQuality { fn := 0 } 16) = false ∧ Instr.wf (.setEnergyCap { fn := 0 } 65536) = false ∧
    Instr.wf (.setPlLimit { fn := 0 } 16 0) = false ∧ Instr.wf (.setPlLimit { fn := 0 } 0 8) = false ∧
    Instr.wf (.setTickLoad { fn := 0 } 100 (-(2 ^ 63))) = true := by decide +kernel

theorem refuses_more_command_operands :
    Instr.wf (.calibSet { fn := 0 } 65536 []) = false ∧ Instr.wf (.calibSet { fn := 0 } 1 [(List.replicate 8 0, 0)]) = false ∧
    Instr.wf (.calibSet { fn := 0 } 1 [(List.replicate 9 (2 ^ 63), 0)]) = false ∧ Instr.wf (.calibSet { fn := 0 } 1 [(List.replicate 9 0, 65536)]) = false ∧
    Instr.wf (.calibLock { fn := 0 } 65536 true) = false ∧ Instr.wf (.actionAdd { fn := 0 } 0 true 0 true 65536 0) = false ∧
    Instr.wf (.actionAdd { fn := 0 } 0 true 0 true 1 (2 ^ 63)) = false ∧ Instr.wf (.actionCancel { fn := 0 } (2 ^ 32)) = false ∧
    Instr.wf (.ruleSet { fn := 0 } 32 0 []) = false ∧ Instr.wf (.ruleSet { fn := 0 } 0 64 []) = false ∧
    Instr.wf (.extMeas { fn := 0 } 0 0 (2 ^ 31) 0 0 0 false false) = false ∧ Instr.wf (.extMeas { fn := 0 } 0 0 0 0 0 16 false false) = false ∧
    Instr.wf (.tapConfig { fn := 0 } 65536 0 true) = false ∧ Instr.wf (.tapConfig { fn := 0 } 0 32 true) = false ∧
    Instr.wf (.assign { fn := 0 } 8 0 0 0) = false ∧ Instr.wf (.rptResume { fn := 0 } 16 []) = false ∧
    Instr.wf (.rptResume { fn := 0 } 1 [{ rsn := 2 ^ 64 }]) = false ∧ Instr.wf (.rptDiscard { fn := 0 } 16) = false ∧
    Instr.wf (.calibSet { fn := 0 } 1 [(List.replicate 9 (-1), 3)]) = true := by decide +kernel

theorem refuses_management_and_link_operands :
    Instr.wf (.fwStage true 65536) = false ∧ Instr.wf (.debugUnlock true (2 ^ 64) 0) = false ∧ Instr.wf (.debugUnlock true 0 (2 ^ 64)) = false ∧
    Instr.wf (.logRead [2 ^ 63]) = false ∧ Instr.wf (.train 0 { levelMax := 16, credits := [0, 0, 0, 0], pkg := 0, resume := false, expect := 0 }) = false ∧
    Instr.wf (.train 0 { levelMax := 1, credits := [], pkg := 0, resume := false, expect := 0 }) = false ∧
    Instr.wf (.train 0 { levelMax := 1, levelMin := 16, credits := [0, 0, 0, 0], pkg := 0, resume := false, expect := 0 }) = false ∧
    Instr.wf (.data 0 { vl := 0, som := true, eom := true, seq := 0, payload := [0] } true 0 [0, 0, 0, 0]) = false ∧
    Instr.wf (.data 0 { vl := 0, som := true, eom := true, seq := 0, payload := List.replicate 240 0 } true 0 [0, 0, 0, 0]) = false ∧
    Instr.wf (.nak 0 65536 0 [0, 0, 0, 0]) = false ∧ Instr.wf (.credit 0 0 [0, 0, 0, 16]) = false ∧ Instr.wf (.credit 0 0 [0]) = false ∧
    Instr.wf (.credit 0 65535 [15, 15, 15, 15]) = true := by decide +kernel

theorem refuses_reset_and_store_operands :
    Instr.wf (.resetHoldEnd { bootSel := 4 }) = false ∧ Instr.wf (.resetHoldEnd { sbAddr := 4 }) = false ∧
    Instr.wf (.ready { dies := Vector.replicate 4 { why := 3 } }) = false ∧ Instr.wf (.ready { dies := Vector.replicate 4 { levels := [] } }) = false ∧
    Instr.wf (.ready { dies := Vector.replicate 4 { levels := List.replicate 18 8 } }) = false ∧ Instr.wf (.blockReset 16 0) = false ∧
    Instr.wf (.blockReset 0 256) = false ∧ Instr.wf (.blockResetTimeout (2 ^ 32)) = false ∧
    Instr.wf (.loadData (List.replicate 33 0) true true) = false ∧ Instr.wf (.sidebandReset 65536 true true) = false ∧
    Instr.wf (.dieLost 0 16) = false ∧ Instr.wf (.dramUe (2 ^ 36) 0 0) = false ∧ Instr.wf (.dramScrub 0 (2 ^ 36) true) = false ∧
    Instr.wf (.nvmeCompletion (.identify (2 ^ 64) 0 0 true)) = false ∧ Instr.wf (.i3cDynamicAddressAssignment 128) = false ∧
    Instr.wf (.washDone 16 0) = false ∧ Instr.wf (.washDone 0 (2 ^ 18)) = false ∧ Instr.wf (.ready {}) = true := by decide +kernel

/-! ## The spec's own worked examples -/

/-- 02_tick.md: the tick and the phase of an event, and the new origin of a period change. -/
theorem test_tick_and_origin :
    let m := up.onTick fun t => { t with period := 100, origin := 0 }
    m.bnd 17180000000001 = 1718000000000100000 ∧ m.bnd 17180000000002 = 1718000000000200000 ∧
    (1718000000000123456 - m.bnd 17180000000001) / 6250 = 3 ∧
    Mach.changedOrigin 0 100 17180000010001 125 = -429500000250025000 := by decide +kernel

/-- 03_sensor_ports.md: the fit of sensor B on SP5, and the station time of its event. -/
theorem test_fit_and_stamp :
    let m := setF [(R.ING_CTRL_SYNC_EN 5, 1), (R.ING_SYNC_CFG_RATE_SHIFT 5, 2)] up
    let m2 := Mach.fitPair 5 60001000040 1718000000001000000 (Mach.fitPair 5 60000000000 1718000000000000000 m)
    (m2.port.get 5).fit.valid = true ∧ (m2.port.get 5).fit.r = 2147397752 ∧
    m2.stampOf 5 0 60001020000 = (1718000000001019959, false) := by decide +kernel

/-- 03_sensor_ports.md: the 64-bit word of the event of the example. -/
theorem test_event_word :
    ({ unchecked := false, coarse := false, t32 := 1718000000001019959 % 2 ^ 32, region := false, port := 5, pol := true, y := 402, x := 611 } :
      EvWord).word = 0x330BA40DCB192263#64 := by decide +kernel

/-- 06_spiking.md, the layout of R163: a SYN message of FN2 to population 9 of role 3, and the fields read back. -/
theorem test_spike_word :
    spikeWord 2 5 3 (.syn 9 70 300 (-2) 1) = 0x102819233FC0012C#64 ∧
    ({ word := spikeWord 2 5 3 (.syn 9 70 300 (-2) 1), src := 0 } : SpikeMsg).arr = .syn 9 6 300 (-2) 1 := by decide +kernel

/-- 04_event_front_end.md: the surface code of the event, its age and the cell it is written to. -/
theorem test_surface_code :
    let m := setF [(R.ING_GEOM_WIDTH 5, 1280), (R.ING_GEOM_HEIGHT 5, 720)] up
    encodeTau (tauOf 1718000000001019959) = 0xB1FD ∧ ageOf 859000000000550 0xB1FD = some 41 ∧
    (Mach.putCode 5 true 611 402 0xB1FD m).codeAt 5 true 611 402 = 0xB1FD ∧ (Mach.putCode 5 true 611 402 0xB1FD m).codeAt 5 false 611 402 = 0 := by
  decide +kernel

/-- 04_event_front_end.md: the two ring margins and the cheap margins of the corner example. -/
theorem test_corner_margins :
    let a16 : List Int := [40, 38, 9, 5, 4, 6, 30, 41, 44, 50, 47, 52, 60, 55, 48, 45]
    let a20 : List Int := [50, 46, 42, 12, 8, 7, 9, 14, 40, 52, 58, 61, 66, 70, 64, 62, 57, 55, 53, 51]
    Mach.ringMargin 3 6 a16 = 21 ∧ Mach.ringMargin 3 6 (a16.map fun a => min 15 (a.fdiv 16)) = 1 ∧
    Mach.ringMargin 4 8 a20 = 26 ∧ Mach.ringMargin 4 8 (a20.map fun a => min 15 (a.fdiv 16)) = 2 := by decide +kernel

/-- 04_event_front_end.md: the flow of an edge that crosses a row every 8 units. -/
theorem test_flow :
    let s : Mach.FitSums := { n := 15, sx := 0, sy := -15, sxx := 30, syy := 25, sxy := 0, st := -120, sxt := 0, syt := 200 }
    s.flow 3 = some (0, 16000) := by decide +kernel

/-- 09_fusion_tracking.md: the homography of SP5, and where it puts (611.25, 402.0) and the carried point. -/
theorem test_homography :
    let h : Hom := { h := [157286400, 0, 14428405760000, 0, 157286400, -1006632960000, 0, 0, 16777216] }
    h.map 9780 6432 = some (951688, 300) ∧ h.map 9780 6487 = some (951688, 816) ∧ rnd (17067 * 52000) 16000000 = 55 := by decide +kernel

/-- 09_fusion_tracking.md: the comet of the gating example. -/
def comet31 : Comet :=
  { pkg := 0, serial := 1, state := 2, port := 5, hits := 3, tLast := 1718000000001000000, md := 36700159690, md0 := 36700159690, cd := 951700,
    cd0 := 951700, lenMd := 0, widCd := 0, pMd := 900, pCd := 900, vmd := 0, vcd := 0, pVmd := 0, pVcd := 0, tSpawn := 0, age := 0,
    vibStale := false, coarse := false }

/-- 09_fusion_tracking.md: the measurement of the gating example. -/
def meas31 : Mach → Meas := fun _ =>
  { fn := 0, ext := false, port := 5, idx := 0, md := 36700159683, cd := 951686, var := 22500, cls := none, stamp := 1718000000001031000, size := none }

/-- 09_fusion_tracking.md: cost 3, and the state after the update. -/
theorem test_gate_and_update :
    let m := setF [(R.FUS_F_FILT_BETA 0, 8)] up
    let q := comet31.predict 1718000000001100000 100000 100 0
    let c := m.updated 17180000000010 1718000000001100000 0 (meas31 m) q comet31
    q.pMd = 1000 ∧ dist2 (meas31 m) q = 3 ∧ c.md = 36700159690 ∧ c.cd = 951699 ∧ c.pMd = 957 ∧ c.vmd = -143360 := by decide +kernel

/-- 11_energy_scheduling.md: the temperature factor and the raw charge of the example. -/
theorem test_price :
    let m := setF [(R.PWR_TF_TF_SLOPE, 164), (R.PWR_COEF_PASS, 120)] up
    m.tfOf 95 = 77016 ∧ plKhz 6 = 1400000 ∧ plMv 6 false = 850 ∧ plVf 6 false = 65536 ∧
    rnd (16384 * 325000) 252709 = 21071 := by decide +kernel

/-- 14_line_links.md: offset and delay of the TT example, taken from the two TT messages' instants. -/
theorem test_tt_offset :
    rnd ((240 : Int) - 312 - 0) 2 = -36 ∧ rnd ((240 : Int) + 312) 2 = 276 := by decide +kernel

/-- 16_memory_store.md: the die of an interleaved address with ECC on. -/
theorem test_interleave : dieOfAddr true true 0x480003000 = 3 ∧ dieOfAddr false true 0x480003000 = 1 := by decide +kernel

/-- The check value of CRC-32C over the nine digits, and SHA-256 of no bytes (the standards of log entry 10). -/
theorem test_crc_and_sha :
    crc32c [0x31, 0x32, 0x33, 0x34, 0x35, 0x36, 0x37, 0x38, 0x39] = 0xE3069283#32 ∧
    (Sha.hash []).take 4 = [0xE3, 0xB0, 0xC4, 0x42] := by decide +kernel

end

end Sys2Proof.Machine.Test
end

namespace Sys2Proof.Machine

theorem OnlyIn.onFn (m : Mach) (f : Fin 8) (u : Func → Func) : OnlyIn [.fn] m (m.onFn f u) := by
  intro p hp; cases p <;> first | rfl | simp at hp

theorem OnlyIn.onSleep (m : Mach) (u : Sleep → Sleep) : OnlyIn [.sleep] m (m.onSleep u) := by
  intro p hp; cases p <;> first | rfl | simp at hp

theorem OnlyIn.emit (m : Mach) (o : Out) : OnlyIn [.out] m (m.emit o) := by
  intro p hp; cases p <;> first | rfl | simp at hp

/-! ## What writing a completion may change (R371 to R375, R382, R385) -/

/-- Writing completions of function f: the delivery state, the CPL ring and the lists of what the function still owes, and outputs are
only added. -/
structure CplOnly (f : Fin 8) (a b : Mach) : Prop where
  parts : OnlyIn [.jnl, .fn, .out] a b
  jnl : b.jnl = { a.jnl with delivery := b.jnl.delivery }
  others : ∀ g : Fin 8, g ≠ f → b.fn.get g = a.fn.get g
  own : b.fn.get f = { a.fn.get f with rings := (b.fn.get f).rings, mods := (b.fn.get f).mods, owed := (b.fn.get f).owed }
  rings : ∀ r : Fin 7, r ≠ 1 → (b.fn.get f).rings.get r = (a.fn.get f).rings.get r
  out : ∀ o ∈ a.out, o ∈ b.out

namespace CplOnly

theorem refl (f : Fin 8) (a : Mach) : CplOnly f a a :=
  ⟨OnlyIn.refl _ _, rfl, fun _ _ => rfl, rfl, fun _ _ => rfl, fun _ h => h⟩

theorem trans {f : Fin 8} {a b c : Mach} (h1 : CplOnly f a b) (h2 : CplOnly f b c) : CplOnly f a c := by
  refine ⟨h1.parts.trans h2.parts, ?_, fun g hg => (h2.others g hg).trans (h1.others g hg), ?_,
    fun r hr => (h2.rings r hr).trans (h1.rings r hr), fun o ho => h2.out o (h1.out o ho)⟩
  · rw [h2.jnl, h1.jnl]
  · rw [h2.own, h1.own]

theorem emit (f : Fin 8) (m : Mach) (o : Out) : CplOnly f m (m.emit o) :=
  ⟨(OnlyIn.emit m o).mono (by simp), rfl, fun _ _ => rfl, rfl, fun _ _ => rfl, fun _ h => List.mem_cons_of_mem _ h⟩

theorem onDelivery (f g : Fin 8) (k : Fin 5) (u : Delivery → Delivery) (m : Mach) : CplOnly f m (m.onDelivery g k u) :=
  ⟨(OnlyIn.onJnl m _).mono (by simp), rfl, fun _ _ => rfl, rfl, fun _ _ => rfl, fun _ h => h⟩

/-- An update of the function that leaves all but its CPL ring, its vectors' counts and its owed completions. -/
theorem onFn (f : Fin 8) (m : Mach) (u : Func → Func)
    (hu : ∀ x, u x = { x with rings := (u x).rings, mods := (u x).mods, owed := (u x).owed })
    (hr : ∀ x (r : Fin 7), r ≠ 1 → (u x).rings.get r = x.rings.get r) : CplOnly f m (m.onFn f u) := by
  refine ⟨(OnlyIn.onFn m f u).mono (by simp), rfl, fun g hg => vmod_get_ne _ _ hg, ?_, fun r h => ?_, fun _ h => h⟩
  · rw [Mach.onFn_fn, vmod_get_self, hu]
  · rw [Mach.onFn_fn, vmod_get_self, hr _ r h]

end CplOnly

namespace Mach

theorem shadow_cplOnly (f : Fin 8) (m : Mach) : CplOnly f m (m.shadow f) := by
  unfold shadow
  split
  · exact CplOnly.emit f m _
  · exact CplOnly.refl f m

theorem modSend_cplOnly (f : Fin 8) (v : Fin 6) (m : Mach) : CplOnly f m (m.modSend f v) :=
  (CplOnly.onFn f m (fun x => { x with mods := vput x.mods v {} }) (fun _ => rfl) fun _ _ _ => rfl).trans (CplOnly.emit f _ _)

theorem modEntry_cplOnly (f : Fin 8) (v : Fin 6) (m : Mach) : CplOnly f m (m.modEntry f v) := by
  unfold modEntry
  have count := fun (u : Moder → Moder) =>
    CplOnly.onFn f m (fun x => { x with mods := vmod x.mods v u }) (fun _ => rfl) (fun _ _ _ => rfl)
  dsimp only
  split
  · exact (count _).trans (modSend_cplOnly f v _)
  · exact count _

theorem ringWrote_cplOnly (f : Fin 8) (v : Fin 6) (m : Mach) : CplOnly f m (m.ringWrote f 1 v) := by
  unfold ringWrote onRing
  exact ((CplOnly.onFn f m _ (fun _ => rfl) fun _ _ h => vmod_get_ne _ _ h).trans (shadow_cplOnly f _)).trans (modEntry_cplOnly f v _)

theorem cplWrite_cplOnly (f : Fin 8) (e : Cpl) (m : Mach) : CplOnly f m (m.cplWrite f e) := by
  unfold cplWrite
  split
  · exact ((CplOnly.emit f m _).trans (ringWrote_cplOnly f 0 _)).trans (CplOnly.onDelivery f f 0 _ _)
  · split
    · exact CplOnly.onFn f m _ (fun _ => rfl) fun _ _ _ => rfl
    · exact CplOnly.refl f m

/-- With the CPL ring enabled the completion goes out at the ring's place and phase (R371, R373). -/
theorem cplWrite_emits {f : Fin 8} {m : Mach} (e : Cpl) (h : m.ringEn f 1 = true) :
    let phase := phaseOf (m.ringSize f 1) (m.ring f 1).count
    Out.cpl f ((m.ring f 1).count % m.ringSize f 1) phase e (e.bytes phase) ∈ (m.cplWrite f e).out := by
  unfold cplWrite
  rw [if_pos h]
  exact (CplOnly.onDelivery f f 0 _ _).out _ ((ringWrote_cplOnly f 0 _).out _ List.mem_cons_self)

end Mach

end Sys2Proof.Machine

namespace Sys2Proof.Machine

namespace CplOnly

variable {f : Fin 8} {a b : Mach}

theorem regs (h : CplOnly f a b) : b.regs = a.regs := h.parts .regs (by decide)
theorem tick (h : CplOnly f a b) : b.tick = a.tick := h.parts .tick (by decide)
theorem sleep (h : CplOnly f a b) : b.sleep = a.sleep := h.parts .sleep (by decide)

theorem rd (h : CplOnly f a b) (off : Nat) : b.rd off = a.rd off := by
  unfold Mach.rd; rw [h.regs]

theorem g (h : CplOnly f a b) (fd : Fld) : b.g fd = a.g fd := by
  unfold Mach.g; rw [h.rd]

end CplOnly

namespace Mach

/-- A counter of a whole word counts one. -/
theorem g_inc_word (m : Mach) (f : Fld) (hh : f.hi = 31) (hl : f.lo = 0) : (m.inc f).g f = (m.g f + 1) % 2 ^ 32 := by
  rw [g_inc m f (by omega) (by omega), hh, hl]

/-! ## The fetch of a command (R376) -/

/-- The first completion of the command that function h.fn fetches next. -/
def firstCpl (h : CmdHdr) (op status d10 d18 : Nat) (m : Mach) : Cpl :=
  { op := op, ctag := h.ctag, status := status, result := 0, cseq := (m.fn.get h.fn).cseq, d10 := d10, d18 := d18 }

/-- A function's page lies above the command unit's counters. -/
theorem fnPage_ge (f : Nat) : 0x81000 ≤ fnPage f := by
  unfold fnPage; split <;> omega

theorem fetch_onlyIn (f : Fin 8) (m : Mach) : OnlyIn [.regs, .sleep, .fn] m (m.fetch f) := by
  unfold fetch touchIdle onRing
  exact ((((OnlyIn.onFn m f _).trans (OnlyIn.onFn _ f _)).mono (by simp)).trans ((OnlyIn.onSleep _ _).mono (by simp))).trans
    ((OnlyIn.inc _ _).mono (by simp))

@[simp] theorem fetch_tick (f : Fin 8) (m : Mach) : (m.fetch f).tick = m.tick := fetch_onlyIn f m .tick (by decide)
@[simp] theorem fetch_own (f : Fin 8) (m : Mach) : (m.fetch f).own = m.own := fetch_onlyIn f m .own (by decide)
@[simp] theorem fetch_images (f : Fin 8) (m : Mach) : (m.fetch f).images = m.images := fetch_onlyIn f m .images (by decide)
@[simp] theorem fetch_jnl (f : Fin 8) (m : Mach) : (m.fetch f).jnl = m.jnl := fetch_onlyIn f m .jnl (by decide)
@[simp] theorem fetch_rst (f : Fin 8) (m : Mach) : (m.fetch f).rst = m.rst := fetch_onlyIn f m .rst (by decide)
@[simp] theorem fetch_out (f : Fin 8) (m : Mach) : (m.fetch f).out = m.out := fetch_onlyIn f m .out (by decide)

theorem fetch_sleep (f : Fin 8) (m : Mach) : (m.fetch f).sleep = { m.sleep with idleFrom := m.elapsed } := by
  unfold fetch; rw [inc_sleep, touchIdle_sleep]; rfl

theorem fetch_fn_other {f g : Fin 8} (m : Mach) (h : g ≠ f) : (m.fetch f).fn.get g = m.fn.get g :=
  (vmod_get_ne _ _ h).trans (vmod_get_ne _ _ h)

/-- Of its function a fetch changes the CMD ring's count and the next CSEQ. -/
theorem fetch_fn_self (f : Fin 8) (m : Mach) :
    (m.fetch f).fn.get f = { m.fn.get f with
      rings := vmod (m.fn.get f).rings 0 (fun c => { c with count := (c.count + 1) % 2 ^ 32 }), cseq := (m.fn.get f).cseq + 1 } := by
  unfold fetch onRing
  rw [inc_fn, touchIdle_fn, onFn_fn, vmod_get_self, onFn_fn, vmod_get_self]

theorem fetch_regsBut (f : Fin 8) (m : Mach) : RegsBut [R.HIF_CMD_FETCHED.a] m (m.fetch f) :=
  fun _ h => rd_put_ne _ R.HIF_CMD_FETCHED _ fun e => h (e ▸ List.mem_singleton_self _)

/-- A field of another register is as before the fetch. -/
theorem fetch_g {f : Fin 8} (m : Mach) (fd : Fld) (h : fd.a ≠ R.HIF_CMD_FETCHED.a) : (m.fetch f).g fd = m.g fd := by
  unfold g; rw [fetch_regsBut f m fd.a (by simpa using h)]

theorem fetch_on {f : Fin 8} (m : Mach) (fd : Fld) (h : fd.a ≠ R.HIF_CMD_FETCHED.a) : (m.fetch f).on fd = m.on fd := by
  unfold on; rw [fetch_g m fd h]

/-- What a function shows that neither its rings nor its CSEQ hold reads the same after a fetch. -/
theorem fetch_fn_get {α : Type} (f g : Fin 8) (m : Mach) (u : Func → α) (hu : ∀ x r c, u { x with rings := r, cseq := c } = u x) :
    u ((m.fetch f).fn.get g) = u (m.fn.get g) := by
  by_cases h : g = f
  · subst h; rw [fetch_fn_self, hu]
  · rw [fetch_fn_other m h]

/-- The checks that every command meets judge the state before the fetch (R378). -/
theorem preCheck_fetch (f : Fin 8) (h : CmdHdr) (op : Nat) (m : Mach) : (m.fetch f).preCheck h op = m.preCheck h op := by
  unfold preCheck
  rw [fetch_fn_get f h.fn m (·.wedged) fun _ _ _ => rfl, fetch_own, fetch_jnl]

/-- A command is fetched only while the CPL ring is enabled (R376). -/
theorem ringEn_of_fetchable {f : Fin 8} {m : Mach} (h : m.fetchable f = true) : m.ringEn f 1 = true := by
  unfold fetchable ringRoom at h
  by_contra hn
  simp [hn] at h

end Mach

/-! ## A function whose next command has been fetched -/

/-- Function f has fetched one command since a, and its CPL ring is where it was. -/
structure Fetched (f : Fin 8) (a b : Mach) : Prop where
  head : (b.ring f 0).count = ((a.ring f 0).count + 1) % 2 ^ 32
  cseq : (b.fn.get f).cseq = (a.fn.get f).cseq + 1
  fetched : b.g R.HIF_CMD_FETCHED = (a.g R.HIF_CMD_FETCHED + 1) % 2 ^ 32
  cpl : b.ring f 1 = a.ring f 1
  cplEn : b.ringEn f 1 = a.ringEn f 1
  cplSize : b.ringSize f 1 = a.ringSize f 1

namespace Fetched

theorem fetch (f : Fin 8) (m : Mach) : Fetched f m (m.fetch f) where
  head := by unfold Mach.ring; rw [Mach.fetch_fn_self, vmod_get_self]
  cseq := by rw [Mach.fetch_fn_self]
  fetched := Mach.g_inc_word _ R.HIF_CMD_FETCHED rfl rfl
  cpl := by unfold Mach.ring; rw [Mach.fetch_fn_self]; exact vmod_get_ne _ _ (by decide)
  cplEn := Mach.fetch_on m _ (by have := Mach.fnPage_ge f; simp only [R.HIF_F_RING_CFG_EN, R.HIF_CMD_FETCHED]; omega)
  cplSize := by
    unfold Mach.ringSize
    rw [Mach.fetch_g m _ (by have := Mach.fnPage_ge f; simp only [R.HIF_F_RING_CFG_SZ, R.HIF_CMD_FETCHED]; omega)]

/-- An effect that leaves the register file and the function's rings and CSEQ. -/
theorem effect {f : Fin 8} {a b c : Mach} (h : Fetched f a b) (hr : c.regs = b.regs) (hf : (c.fn.get f).rings = (b.fn.get f).rings)
    (hs : (c.fn.get f).cseq = (b.fn.get f).cseq) : Fetched f a c := by
  have ring : ∀ r, c.ring f r = b.ring f r := fun r => by unfold Mach.ring; rw [hf]
  have g : ∀ fd, c.g fd = b.g fd := fun fd => by unfold Mach.g Mach.rd; rw [hr]
  refine ⟨by rw [ring]; exact h.head, hs.trans h.cseq, (g _).trans h.fetched, (ring 1).trans h.cpl, ?_, ?_⟩
  · rw [← h.cplEn]; unfold Mach.ringEn Mach.on; rw [g]
  · rw [← h.cplSize]; unfold Mach.ringSize; rw [g]

/-- A count of a rejection. -/
theorem rejected {f : Fin 8} {a b : Mach} (h : Fetched f a b) : Fetched f a (b.inc R.HIF_CMD_REJECTED) := by
  have g : ∀ fd : Fld, fd.a ≠ R.HIF_CMD_REJECTED.a → (b.inc R.HIF_CMD_REJECTED).g fd = b.g fd := fun fd hd => Mach.g_put_ne b _ fd _ hd
  have page := Mach.fnPage_ge f
  refine ⟨h.head, h.cseq, (g _ (by decide)).trans h.fetched, h.cpl, ?_, ?_⟩
  · rw [← h.cplEn]; unfold Mach.ringEn Mach.on
    rw [g _ (by simp only [R.HIF_F_RING_CFG_EN, R.HIF_CMD_REJECTED]; omega)]
  · rw [← h.cplSize]; unfold Mach.ringSize
    rw [g _ (by simp only [R.HIF_F_RING_CFG_SZ, R.HIF_CMD_REJECTED]; omega)]

/-- The first completion leaves what the fetch changed as it is. -/
theorem fetches {h : CmdHdr} {a b t : Mach} (hb : Fetched h.fn a b) (ht : CplOnly h.fn b t) : Fetches h a t :=
  ⟨by rw [← hb.head]; exact congrArg Ring.count (ht.rings 0 (by decide)), by rw [ht.own]; exact hb.cseq, (ht.g _).trans hb.fetched⟩

/-- The first completion goes out where the CPL ring stood, with the CSEQ that the fetch took (R376, R382). -/
theorem cplOf_mem {h : CmdHdr} {a b : Mach} (hb : Fetched h.fn a b) (he : a.ringEn h.fn 1 = true) (op status d10 d18 : Nat) :
    cplOf h op status d10 d18 a ∈ (b.cplWrite h.fn (a.firstCpl h op status d10 d18)).out := by
  have hm := Mach.cplWrite_emits (a.firstCpl h op status d10 d18) (hb.cplEn.trans he)
  rw [hb.cplSize, hb.cpl] at hm
  exact hm

end Fetched

/-! ## A command that is judged (R376 to R383) -/

namespace Mach

/-- The state on which an accepted command has its effect: fetched, and on the open list where it owes a DONE (R376, R379). -/
def taken (h : CmdHdr) (owes : Bool) (m : Mach) : Mach :=
  if owes then (m.fetch h.fn).onFn h.fn fun x => { x with openCmds := x.openCmds ++ [(m.fn.get h.fn).cseq] } else m.fetch h.fn

theorem taken_fetched (h : CmdHdr) (owes : Bool) (m : Mach) : Fetched h.fn m (m.taken h owes) := by
  unfold taken
  split
  · exact (Fetched.fetch h.fn m).effect rfl (by rw [onFn_fn, vmod_get_self]) (by rw [onFn_fn, vmod_get_self])
  · exact Fetched.fetch h.fn m

theorem taken_onlyIn (h : CmdHdr) (owes : Bool) (m : Mach) : OnlyIn [.regs, .sleep, .fn] m (m.taken h owes) := by
  unfold taken
  split
  · exact (fetch_onlyIn h.fn m).trans fun p hp => by cases p <;> first | rfl | simp at hp
  · exact fetch_onlyIn h.fn m

/-- A command that owes a DONE stands on the open list; nothing else of its function but the CMD ring and the CSEQ has changed. -/
theorem taken_fn_self (h : CmdHdr) (m : Mach) :
    (m.taken h true).fn.get h.fn = { (m.fetch h.fn).fn.get h.fn with openCmds := (m.fn.get h.fn).openCmds ++ [(m.fn.get h.fn).cseq] } := by
  show (vmod _ _ _).get _ = _
  rw [vmod_get_self, fetch_fn_self]

theorem taken_regsBut (h : CmdHdr) (owes : Bool) (m : Mach) : RegsBut [R.HIF_CMD_FETCHED.a] m (m.taken h owes) := by
  unfold taken; split <;> exact fetch_regsBut h.fn m

variable {h : CmdHdr} {op : Nat} {owes : Bool} {judge : Mach → Option Nat} {accept : Nat → Mach → Mach.Accept} {m : Mach}

/-- A rejected command: fetched, counted and answered (R378). -/
theorem command_rejected {code : Nat} (hf : m.fetchable h.fn = true) (hj : (m.preCheck h op).or (judge (m.fetch h.fn)) = some code) :
    m.command h op owes judge accept = ((m.fetch h.fn).inc R.HIF_CMD_REJECTED).cplWrite h.fn (m.firstCpl h op code 0 0) := by
  unfold command firstCpl
  simp only [hf, Bool.not_true, Bool.false_eq_true, if_false, preCheck_fetch, hj]

/-- An accepted command: its effect, its first completion, and what it does after that (R379). -/
theorem command_accepted (hf : m.fetchable h.fn = true) (hp : m.preCheck h op = none) (hj : judge (m.fetch h.fn) = none) :
    m.command h op owes judge accept =
      let a := accept (m.fn.get h.fn).cseq (m.taken h owes)
      a.after (a.m.cplWrite h.fn (m.firstCpl h op St.accepted a.d10 a.d18)) := by
  unfold command taken firstCpl
  simp only [hf, Bool.not_true, Bool.false_eq_true, if_false, preCheck_fetch, hp, hj, Option.or_none]

end Mach

/-- A meaning over the package does what its result meets. -/
theorem does_of_act {c : Instr} {s : State} {f : Mach → Mach} {t : Mach} {P : Mach → Prop} (hx : exec c s = s.act f) (ht : f s.toMach = t)
    (hP : P t) : Does c s P :=
  ⟨{ s with toMach := t }, by rw [hx, State.act_eq, ht], rfl, hP⟩

/-- What is fetched, counted as rejected and answered is rejected, with no other effect (R378). -/
theorem rejects_of_act {c : Instr} {h : CmdHdr} {op code : Nat} {s : State} {f : Mach → Mach} (hx : exec c s = s.act f)
    (hf : s.fetchable h.fn = true)
    (hm : f s.toMach = ((s.fetch h.fn).inc R.HIF_CMD_REJECTED).cplWrite h.fn (s.firstCpl h op code 0 0)) : Rejects c h op code s := by
  have hb := (Fetched.fetch h.fn s.toMach).rejected
  have ht := Mach.cplWrite_cplOnly h.fn (s.firstCpl h op code 0 0) ((s.fetch h.fn).inc R.HIF_CMD_REJECTED)
  have hg : (s.fetch h.fn).g R.HIF_CMD_REJECTED = s.g R.HIF_CMD_REJECTED := Mach.fetch_g _ _ (by decide)
  refine does_of_act hx hm ⟨hb.fetches ht, hb.cplOf_mem (Mach.ringEn_of_fetchable hf) op code 0 0, ?_, ?_, ?_, fun g hg => ?_, ?_, ?_, ?_, ?_, ?_⟩
  · rw [ht.g, Mach.g_inc_word _ R.HIF_CMD_REJECTED rfl rfl, hg]
  · intro off ho
    simp only [List.mem_cons, List.not_mem_nil, or_false, not_or] at ho
    exact (ht.rd off).trans ((Mach.rd_put_ne _ _ _ ho.2).trans (Mach.fetch_regsBut h.fn s.toMach off (by simpa using ho.1)))
  · rw [ht.own, Mach.inc_fn]; exact Mach.fetch_fn_get h.fn h.fn s.toMach Func.openCmds fun _ _ _ => rfl
  · rw [ht.others g hg, Mach.inc_fn, Mach.fetch_fn_other _ hg]
  · rw [ht.jnl, Mach.inc_jnl, Mach.fetch_jnl]
  · rw [ht.jnl, Mach.inc_jnl, Mach.fetch_jnl]
  · rw [ht.jnl, Mach.inc_jnl, Mach.fetch_jnl]
  · rw [ht.sleep, Mach.inc_sleep, Mach.fetch_sleep]
  · exact (((Mach.fetch_onlyIn h.fn s.toMach).mono (by simp)).trans ((OnlyIn.inc _ R.HIF_CMD_REJECTED).mono (by simp))).trans
      (ht.parts.mono (by simp))

section
variable {c : Instr} {h : CmdHdr} {op : Nat} {owes : Bool} {judge : Mach → Option Nat} {accept : Nat → Mach → Mach.Accept} {s : State}

theorem command_rejects {code : Nat} (hx : exec c s = s.act (Mach.command h op owes judge accept)) (hf : s.fetchable h.fn = true)
    (hj : (s.preCheck h op).or (judge (s.fetch h.fn)) = some code) : Rejects c h op code s :=
  rejects_of_act hx hf (Mach.command_rejected hf hj)

/-- An accepted command whose effect leaves its function's rings and CSEQ, and which does nothing after its first completion, meets what
its effect and any completion of it meet. -/
theorem command_accepts {a : Mach.Accept} {P : Mach → Prop} (hx : exec c s = s.act (Mach.command h op owes judge accept))
    (hf : s.fetchable h.fn = true) (hp : s.preCheck h op = none) (hj : judge (s.fetch h.fn) = none)
    (ha : accept (s.fn.get h.fn).cseq (s.taken h owes) = a) (hafter : a.after = id) (hb : Fetched h.fn s.toMach a.m)
    (hr : a.m.g R.HIF_CMD_REJECTED = s.g R.HIF_CMD_REJECTED) (hP : ∀ t, CplOnly h.fn a.m t → P t) :
    Accepts c h op a.d10 a.d18 s P := by
  have ht := Mach.cplWrite_cplOnly h.fn (s.firstCpl h op St.accepted a.d10 a.d18) a.m
  exact does_of_act hx (by rw [Mach.command_accepted hf hp hj, ha]; exact congrFun hafter _)
    ⟨hb.fetches ht, hb.cplOf_mem (Mach.ringEn_of_fetchable hf) op St.accepted _ _, (ht.g _).trans hr, hP _ ht⟩

end

end Sys2Proof.Machine

namespace Sys2Proof.Machine

namespace Mach

/-! ## TN_EFF of a boundary-bound command (R44, R45) -/

/-- A command below the range of R44 is late, one above it malformed, and a second one of its kind finds the function busy (R45). -/
theorem judgeEff_eq (h : CmdHdr) (kind : Nat) (m : Mach) :
    m.judgeEff h kind =
      (if h.tnEff = 2 ^ 48 - 1 then none else if h.tnEff < m.tick.tn + 2 then some St.late
        else if m.tick.tn + 2 ^ 32 < h.tnEff then some St.format else none).or
      (if m.tick.pending.any (fun p => p.fn == h.fn && changeKind p.change == kind) then some St.busy else none) := by
  unfold judgeEff effTn hasPending
  dsimp only
  split_ifs <;> rfl

/-- TN_EFF as the command names it: the all-ones value means the earliest possible tick (R44). -/
def effNamed (h : CmdHdr) (m : Mach) : Nat := if h.tnEff = 2 ^ 48 - 1 then m.tick.tn + 2 else h.tnEff

/-- The tick in force of a command that R44 accepts. -/
theorem effOf_of_judgeEff {h : CmdHdr} {kind : Nat} {m : Mach} (hj : m.judgeEff h kind = none) :
    m.effOf h = m.effNamed h := by
  unfold judgeEff effTn at hj
  unfold effOf effTn effNamed
  dsimp only at hj ⊢
  split_ifs at hj ⊢ <;> rfl

theorem judgeEff_congr {a b : Mach} (h : CmdHdr) (kind : Nat) (ht : b.tick = a.tick) : b.judgeEff h kind = a.judgeEff h kind := by
  unfold judgeEff effTn hasPending; rw [ht]

theorem effOf_congr {a b : Mach} (h : CmdHdr) (ht : b.tick = a.tick) : b.effOf h = a.effOf h := by
  unfold effOf effTn; rw [ht]

@[simp] theorem judgeEff_fetch (f : Fin 8) (h : CmdHdr) (kind : Nat) (m : Mach) : (m.fetch f).judgeEff h kind = m.judgeEff h kind :=
  judgeEff_congr h kind (fetch_tick f m)

@[simp] theorem effOf_fetch (f : Fin 8) (h : CmdHdr) (m : Mach) : (m.fetch f).effOf h = m.effOf h := effOf_congr h (fetch_tick f m)

@[simp] theorem taken_tick (h : CmdHdr) (owes : Bool) (m : Mach) : (m.taken h owes).tick = m.tick := taken_onlyIn h owes m .tick (by decide)
@[simp] theorem taken_time (h : CmdHdr) (owes : Bool) (m : Mach) : (m.taken h owes).time = m.time := taken_onlyIn h owes m .time (by decide)

@[simp] theorem effOf_taken (h : CmdHdr) (owes : Bool) (m : Mach) : (m.taken h owes).effOf h = m.effOf h := effOf_congr h (taken_tick h owes m)

/-- Where the tick's owner is another function, SET_TICK goes no further (R48, R378). -/
theorem preCheck_setTick_notOwner {h : CmdHdr} {m : Mach} (hphase : h.phaseOk = true) (hw : (m.fn.get h.fn).wedged = false)
    (hr : h.rsvdOk = true) (ho : m.own.tick ≠ h.fn) : m.preCheck h 0x30 = some St.owner := by
  unfold preCheck
  simp [hphase, hw, hr, ho]

theorem taken_g (h : CmdHdr) (owes : Bool) (m : Mach) (fd : Fld) (hd : fd.a ≠ R.HIF_CMD_FETCHED.a) : (m.taken h owes).g fd = m.g fd := by
  unfold g; rw [taken_regsBut h owes m fd.a (by simpa using hd)]

end Mach

/-! ## Commands that become a pending change (R43) -/

/-- A change of function h.fn waits for its tick, its command is on the open list, and beside the fetch and the first completion nothing
else has changed. -/
def Waits (h : CmdHdr) (a : Mach) (p : Pending) (t : Mach) : Prop :=
  (t.tick = { a.tick with pending := a.tick.pending ++ [p] } ∧ (t.fn.get h.fn).openCmds = (a.fn.get h.fn).openCmds ++ [(a.fn.get h.fn).cseq]) ∧
    RegsBut [R.HIF_CMD_FETCHED.a] a t ∧ OnlyIn [.regs, .tick, .jnl, .sleep, .fn, .out] a t

/-- The pending change of a command. -/
def pendingOf (h : CmdHdr) (op tn : Nat) (ch : Change) (a : Mach) : Pending :=
  { fn := h.fn, op := op, ctag := h.ctag, cseq := (a.fn.get h.fn).cseq, tnEff := tn, change := ch }

theorem taken_pend_fetched (h : CmdHdr) (p : Pending) (a : Mach) : Fetched h.fn a ((a.taken h true).pend p) :=
  (Mach.taken_fetched h true a).effect rfl rfl rfl

/-- A change appended to the pending ones waits, whatever its first completion writes. -/
theorem waits_of_pend {h : CmdHdr} {a t : Mach} {p : Pending} (ht : CplOnly h.fn ((a.taken h true).pend p) t) : Waits h a p t := by
  refine ⟨⟨?_, ?_⟩, fun off ho => ?_, ?_⟩
  · rw [ht.tick]; unfold Mach.pend; rw [Mach.onTick_tick, Mach.taken_tick]
  · rw [ht.own]; unfold Mach.pend; rw [Mach.onTick_fn, Mach.taken_fn_self]
  · exact (ht.rd off).trans (Mach.taken_regsBut h true a off ho)
  · exact (((Mach.taken_onlyIn h true a).mono (by simp)).trans ((OnlyIn.onTick _ _).mono (by simp))).trans (ht.parts.mono (by simp))

section
variable {c : Instr} {h : CmdHdr} {op : Nat} {judge : Mach → Option Nat} {s : State}

/-- A boundary-bound command is rejected as its judge says, or its change waits for the tick that its first completion names. -/
theorem pending_command {judged : Option Nat} {eff : Nat} {ch : Change} {tn : Mach → Nat} {change : Mach → Change}
    (hf : s.fetchable h.fn = true) (hp : s.preCheck h op = none)
    (hx : exec c s = s.act (Mach.command h op true judge fun cseq t =>
      { m := t.pend { fn := h.fn, op := op, ctag := h.ctag, cseq := cseq, tnEff := tn t, change := change t }, d18 := tn t }))
    (hj : judge (s.fetch h.fn) = judged) (htn : judged = none → tn (s.taken h true) = eff) (hc : change (s.taken h true) = ch) :
    (∀ code ∈ judged, Rejects c h op code s) ∧
      (judged = none → Accepts c h op 0 eff s (Waits h s.toMach (pendingOf h op eff ch s.toMach))) := by
  refine ⟨fun code hcode => command_rejects hx hf (by rw [hp, hj]; exact hcode), fun hn => ?_⟩
  have he := htn hn
  subst hc he
  exact command_accepts hx hf hp (hj.trans hn) rfl rfl (taken_pend_fetched h _ _) (Mach.taken_g h true _ R.HIF_CMD_REJECTED (by decide))
    fun t ht => waits_of_pend ht

/-- The same for a command that names its tick: R44 and R45 come before its own checks. -/
theorem boundary_command {own : Option Nat} {kind : Nat} {ch : Change} (hf : s.fetchable h.fn = true) (hp : s.preCheck h op = none)
    (hx : exec c s = s.act (Mach.command h op true judge fun cseq t =>
      { m := t.pend { fn := h.fn, op := op, ctag := h.ctag, cseq := cseq, tnEff := t.effOf h, change := ch }, d18 := t.effOf h }))
    (hj : judge (s.fetch h.fn) = (s.judgeEff h kind).or own) :
    (∀ code ∈ (s.judgeEff h kind).or own, Rejects c h op code s) ∧
      ((s.judgeEff h kind).or own = none → Accepts c h op 0 (s.effNamed h) s (Waits h s.toMach (pendingOf h op (s.effNamed h) ch s.toMach))) :=
  pending_command (tn := fun t => t.effOf h) hf hp hx hj
    (fun hn => (Mach.effOf_taken h true s.toMach).trans (Mach.effOf_of_judgeEff (Option.or_eq_none_iff.1 hn).1)) rfl

end

/-! ## What the commands' own checks look at is not touched by the fetch -/

namespace Mach

/-- What every function shows that neither its rings nor its CSEQ hold. -/
theorem fetch_fn_map {α : Type} (f : Fin 8) (m : Mach) (u : Func → α) (hu : ∀ x r c, u { x with rings := r, cseq := c } = u x) :
    (m.fetch f).fn.toList.map u = m.fn.toList.map u := by
  refine List.ext_getElem (by simp) fun i h1 _ => ?_
  have hi : i < 8 := by simpa using h1
  simpa [Vector.get] using fetch_fn_get f ⟨i, hi⟩ m u hu

/-- A copy of LOAD_GRAPH is under way for some function (R50, R186). -/
theorem fetch_loading (f : Fin 8) (m : Mach) : ((m.fetch f).fn.toList.any fun x => x.load.isSome) = m.fn.toList.any fun x => x.load.isSome := by
  have h := congrArg (List.any · id) (fetch_fn_map f m (fun x => x.load.isSome) fun _ _ _ => rfl)
  simpa only [List.any_map, Function.id_comp] using h

theorem fetch_loadCount (f : Fin 8) (m : Mach) :
    ((m.fetch f).fn.toList.filter fun x => x.load.isSome).length = (m.fn.toList.filter fun x => x.load.isSome).length := by
  have h := congrArg (List.countP id) (fetch_fn_map f m (fun x => x.load.isSome) fun _ _ _ => rfl)
  rw [← List.countP_eq_length_filter, ← List.countP_eq_length_filter]
  simpa only [List.countP_map, Function.id_comp] using h

theorem fetch_portsOn (f : Fin 8) (m : Mach) : (fun p => (m.fetch f).on (R.ING_CTRL_EN p)) = fun p => m.on (R.ING_CTRL_EN p) :=
  funext fun p => fetch_on m _ (by simp only [R.ING_CTRL_EN, R.HIF_CMD_FETCHED]; omega)

theorem fetch_regionEcc (f : Fin 8) (m : Mach) : (m.fetch f).regionEcc = m.regionEcc :=
  funext fun r => fetch_on m _ (by simp only [R.MEM_REG_ECC, R.HIF_CMD_FETCHED]; omega)

theorem fetch_homCorners (f : Fin 8) (m : Mach) : (m.fetch f).homCorners = m.homCorners := by
  funext x
  unfold homCorners
  rw [fetch_g m (R.ING_GEOM_WIDTH x.1) (by simp only [R.ING_GEOM_WIDTH, R.HIF_CMD_FETCHED]; omega),
    fetch_g m (R.ING_GEOM_HEIGHT x.1) (by simp only [R.ING_GEOM_HEIGHT, R.HIF_CMD_FETCHED]; omega)]

theorem fetch_portsJudge (f g : Fin 8) (mask : Nat) (m : Mach) : (m.fetch f).portsJudge g mask = m.portsJudge g mask := by
  unfold portsJudge washing; rw [fetch_own]

/-- UNLOAD_GRAPH names an image of its function that is active (R189). -/
def unloadReject (f : Fin 8) (slot : Nat) (m : Mach) : Option Nat :=
  match m.images.find slot with
  | some im => if im.fn == f && imageActive m.tick.tn im then none else some St.format
  | none => some St.format

theorem fetch_unloadReject (f g : Fin 8) (slot : Nat) (m : Mach) : (m.fetch f).unloadReject g slot = m.unloadReject g slot := by
  unfold unloadReject; rw [fetch_images, fetch_tick]

theorem fetch_mapReject (f g : Fin 8) (tn : Nat) (es : List (Nat × Nat × Nat)) (m : Mach) :
    (m.fetch f).mapReject g tn es = m.mapReject g tn es := by
  unfold mapReject engGood dieLost washing imagesAt; rw [fetch_rst, fetch_own, fetch_tick, fetch_images]

theorem fetch_loadReject (f g : Fin 8) (image : List Byte) (len dst : Nat) (replaces : Option Nat) (m : Mach) :
    (m.fetch f).loadReject g image len dst replaces = m.loadReject g image len dst replaces := by
  unfold loadReject granResident granWashing granOwner washing
  rw [fetch_regionEcc, fetch_loadCount, fetch_own, fetch_tick, fetch_images]

end Mach

/-! ## The commands (R48 to R50, R142, R189, R218, R251, R293) -/

section
variable {h : CmdHdr} {s : State} (hf : s.fetchable h.fn = true)
include hf

theorem setTick_notOwner {c : Instr} {judge : Mach → Option Nat} {accept : Nat → Mach → Mach.Accept}
    (hx : exec c s = s.act (Mach.command h 0x30 true judge accept)) (hphase : h.phaseOk = true) (hw : (s.fn.get h.fn).wedged = false)
    (hr : h.rsvdOk = true) (ho : s.own.tick ≠ h.fn) : Rejects c h 0x30 St.owner s :=
  command_rejects hx hf (by rw [Mach.preCheck_setTick_notOwner hphase hw hr ho]; rfl)

theorem setTickChange_waits (period : Nat) (hp : s.preCheck h 0x30 = none) :
    let judged := (s.judgeEff h 0).or (if period < 50 ∨ 1000 < period then some St.format else none)
    (∀ code ∈ judged, Rejects (.setTickChange h period) h 0x30 code s) ∧
      (judged = none → Accepts (.setTickChange h period) h 0x30 0 (s.effNamed h) s
        (Waits h s.toMach (pendingOf h 0x30 (s.effNamed h) (.tickChange period) s.toMach))) :=
  boundary_command hf hp rfl (by rw [Mach.judgeEff_fetch])

theorem setTickLoad_waits (period : Nat) (origin : Int) (hp : s.preCheck h 0x30 = none) :
    let o := toSigned 64 (toBits 64 origin)
    let judged :=
      if period < 50 ∨ 1000 < period then some St.format
      else if s.hasPending h.fn 0 then some St.busy
      else if !s.images.isEmpty || (s.fn.toList.any fun x => x.load.isSome) || (List.range 16).any (fun p => s.on (R.ING_CTRL_EN p)) then some St.state
      else none
    (∀ code ∈ judged, Rejects (.setTickLoad h period origin) h 0x30 code s) ∧
      (judged = none → Accepts (.setTickLoad h period origin) h 0x30 0 0 s
        (Waits h s.toMach (pendingOf h 0x30 0 (.tickLoad period o ((s.time.n - o).fdiv (period * 1000) + 1)) s.toMach))) :=
  pending_command (tn := fun _ => 0)
    (change := fun t => let o := toSigned 64 (toBits 64 origin); .tickLoad period o ((t.time.n - o).fdiv (period * 1000) + 1)) hf hp rfl
    (by unfold Mach.hasPending; rw [Mach.fetch_tick, Mach.fetch_images, Mach.fetch_loading, Mach.fetch_portsOn]) (fun _ => rfl)
    (by simp only [Mach.taken_time])

theorem setQuality_waits (q : Nat) (hp : s.preCheck h 0x31 = none) :
    let judged := (s.judgeEff h 5).or (if 15 < q then some St.format else none)
    (∀ code ∈ judged, Rejects (.setQuality h q) h 0x31 code s) ∧
      (judged = none → Accepts (.setQuality h q) h 0x31 0 (s.effNamed h) s
        (Waits h s.toMach (pendingOf h 0x31 (s.effNamed h) (.quality q) s.toMach))) :=
  boundary_command hf hp rfl (by rw [Mach.judgeEff_fetch])

theorem calibSet_waits (mask : Nat) (table : List (List Int × Nat)) (hp : s.preCheck h 0x40 = none) :
    let hs := Mach.homsOf mask table
    let judged := (s.judgeEff h 3).or (if !hs.all s.homCorners then some St.format else s.portsJudge h.fn mask)
    (∀ code ∈ judged, Rejects (.calibSet h mask table) h 0x40 code s) ∧
      (judged = none → Accepts (.calibSet h mask table) h 0x40 0 (s.effNamed h) s
        (Waits h s.toMach (pendingOf h 0x40 (s.effNamed h) (.calibSet (hs.map fun x => (x.1.1, x.2))) s.toMach))) :=
  boundary_command (judge := fun t => (t.judgeEff h 3).or (if !(Mach.homsOf mask table).all t.homCorners then some St.format else
    t.portsJudge h.fn mask)) hf hp rfl (by rw [Mach.judgeEff_fetch, Mach.fetch_homCorners, Mach.fetch_portsJudge])

theorem calibLock_waits (mask : Nat) (lock : Bool) (hp : s.preCheck h 0x41 = none) :
    let judged := (s.judgeEff h 3).or (s.portsJudge h.fn mask)
    (∀ code ∈ judged, Rejects (.calibLock h mask lock) h 0x41 code s) ∧
      (judged = none → Accepts (.calibLock h mask lock) h 0x41 0 (s.effNamed h) s
        (Waits h s.toMach (pendingOf h 0x41 (s.effNamed h) (.calibLock mask lock) s.toMach))) :=
  boundary_command hf hp rfl (by rw [Mach.judgeEff_fetch, Mach.fetch_portsJudge])

theorem ruleSet_waits (first count : Nat) (bytes : List Byte) (hp : s.preCheck h 0x52 = none) :
    let rules := (List.range count).map fun i => Rule.of bytes (32 * i)
    let judged := (s.judgeEff h 4).or
      (if count = 0 ∨ 32 < count ∨ 32 < first + count ∨ !rules.all Rule.ok then some St.format else none)
    (∀ code ∈ judged, Rejects (.ruleSet h first count bytes) h 0x52 code s) ∧
      (judged = none → Accepts (.ruleSet h first count bytes) h 0x52 0 (s.effNamed h) s
        (Waits h s.toMach (pendingOf h 0x52 (s.effNamed h) (.ruleSet first rules) s.toMach))) :=
  boundary_command (judge := fun t => (t.judgeEff h 4).or (if count = 0 ∨ 32 < count ∨ 32 < first + count ∨
    !((List.range count).map fun i => Rule.of bytes (32 * i)).all Rule.ok then some St.format else none)) hf hp rfl (by rw [Mach.judgeEff_fetch])

theorem unloadGraph_waits (slot : Nat) (hp : s.preCheck h 0x11 = none) :
    let judged := (s.judgeEff h 1).or (s.unloadReject h.fn slot)
    (∀ code ∈ judged, Rejects (.unloadGraph h slot) h 0x11 code s) ∧
      (judged = none → Accepts (.unloadGraph h slot) h 0x11 0 (s.effNamed h) s
        (Waits h s.toMach (pendingOf h 0x11 (s.effNamed h) (.unloadGraph slot) s.toMach))) :=
  boundary_command (judge := fun t => (t.judgeEff h 1).or (t.unloadReject h.fn slot)) hf hp rfl
    (by rw [Mach.judgeEff_fetch, Mach.fetch_unloadReject])

end

end Sys2Proof.Machine

namespace Sys2Proof.Machine

namespace Mach

/-! ## MAP_ROLES: the map waits, and engines without a role load at once (R192, R193, R195) -/

/-- The loads that a map begins at its acceptance: of the engines that hold no role, for the roles that some image declares (R195). -/
def earlyLoads (binds : List (Nat × Nat)) (ims : List (Nat × Image)) (f : Fin 8) (m : Mach) : Mach :=
  forEach binds (fun b u =>
    if u.engHoldsRole b.2 then u
    else
      match ims.find? fun s => (s.2.roleOf b.1).isSome with
      | some s => u.beginLoad (Fin.ofNat 72 b.2) (f, b.1, s.1)
      | none => u) m

theorem beginLoad_onlyIn (e : Fin 72) (x : Fin 8 × Nat × Nat) (m : Mach) : OnlyIn [.eng] m (m.beginLoad e x) := by
  intro p hp; cases p <;> first | rfl | simp at hp

theorem earlyLoads_onlyIn (binds : List (Nat × Nat)) (ims : List (Nat × Image)) (f : Fin 8) (m : Mach) :
    OnlyIn [.eng] m (m.earlyLoads binds ims f) := by
  refine OnlyIn.forEach _ _ (fun b u => ?_) m
  split
  · exact OnlyIn.refl _ u
  · split
    · exact beginLoad_onlyIn _ _ u
    · exact OnlyIn.refl _ u

/-- The roles that engines hold under the maps of a tick follow from the functions' maps. -/
theorem roleAt_congr {a b : Mach} (h : ∀ f : Fin 8, (b.fn.get f).roles = (a.fn.get f).roles) (tn : Nat) (e : Fin 72) :
    b.roleAt tn e = a.roleAt tn e := by
  unfold roleAt
  simp only [h]

/-- An engine that holds a role keeps its state (R195). -/
theorem earlyLoads_eng (binds : List (Nat × Nat)) (ims : List (Nat × Image)) (f : Fin 8) {m : Mach} {e : Fin 72}
    (he : (m.roleAt m.tick.tn e).isSome = true) : (m.earlyLoads binds ims f).eng.get e = m.eng.get e := by
  refine (forEach_keeps (fun u : Mach => OnlyIn [.eng] m u ∧ u.eng.get e = m.eng.get e) _ _ (fun b u hu => ?_) m ⟨OnlyIn.refl _ m, rfl⟩).2
  obtain ⟨hm, hu⟩ := hu
  have role : (u.roleAt u.tick.tn e).isSome = true := by
    rw [roleAt_congr (a := m) (fun g => by rw [show u.fn = m.fn from hm .fn (by decide)]), show u.tick = m.tick from hm .tick (by decide)]
    exact he
  split
  · exact ⟨hm, hu⟩
  · rename_i hn
    split
    · refine ⟨hm.trans (beginLoad_onlyIn _ _ u), ?_⟩
      have hne : e ≠ Fin.ofNat 72 b.2 := fun heq => hn (by unfold engHoldsRole; rw [← heq, role]; rfl)
      exact (vmod_get_ne _ _ hne).trans hu
    · exact ⟨hm, hu⟩

/-- The epoch that a function's next map is numbered with (R193). -/
def nextEpoch (f : Fin 8) (m : Mach) : Nat := ((m.fn.get f).newest + 1) % 256

/-- The bindings of a table, by engine index (R192). -/
def bindsOf (es : List (Nat × Nat × Nat)) : List (Nat × Nat) := es.map fun x => (x.1, 18 * x.2.1 + x.2.2)

/-- A map is numbered and waits for its tick. -/
def mapPended (h : CmdHdr) (es : List (Nat × Nat × Nat)) (m : Mach) : Mach :=
  ((m.taken h true).onFn h.fn fun x => { x with newest := m.nextEpoch h.fn }).pend
    (pendingOf h 0x12 (m.effOf h) (.mapRoles (m.nextEpoch h.fn) (bindsOf es)) m)

/-- Of its function an accepted map changes the CMD ring, the CSEQ, the open list and the newest epoch. -/
theorem mapPended_fn_self (h : CmdHdr) (es : List (Nat × Nat × Nat)) (m : Mach) :
    (m.mapPended h es).fn.get h.fn = { (m.taken h true).fn.get h.fn with newest := m.nextEpoch h.fn } := by
  unfold mapPended pend; rw [onTick_fn, onFn_fn, vmod_get_self]

theorem mapPended_fn_other {h : CmdHdr} (es : List (Nat × Nat × Nat)) (m : Mach) {g : Fin 8} (hg : g ≠ h.fn) :
    (m.mapPended h es).fn.get g = (m.fetch h.fn).fn.get g := by
  unfold mapPended pend taken; rw [onTick_fn, onFn_fn, vmod_get_ne _ _ hg]; exact vmod_get_ne _ _ hg

/-- A map that waits is not in force. -/
theorem mapPended_roles (h : CmdHdr) (es : List (Nat × Nat × Nat)) (m : Mach) (g : Fin 8) :
    ((m.mapPended h es).fn.get g).roles = (m.fn.get g).roles := by
  by_cases hg : g = h.fn
  · subst hg; rw [mapPended_fn_self, taken_fn_self]; exact fetch_fn_get _ _ m Func.roles fun _ _ _ => rfl
  · rw [mapPended_fn_other es m hg]; exact fetch_fn_get _ _ m Func.roles fun _ _ _ => rfl

theorem mapPended_tick (h : CmdHdr) (es : List (Nat × Nat × Nat)) (m : Mach) :
    (m.mapPended h es).tick = { m.tick with
      pending := m.tick.pending ++ [pendingOf h 0x12 (m.effOf h) (.mapRoles (m.nextEpoch h.fn) (bindsOf es)) m] } := by
  unfold mapPended pend; rw [onTick_tick, onFn_tick, taken_tick]

theorem mapPended_onlyIn (h : CmdHdr) (es : List (Nat × Nat × Nat)) (m : Mach) : OnlyIn [.regs, .sleep, .fn, .tick] m (m.mapPended h es) := by
  unfold mapPended pend
  exact (((taken_onlyIn h true m).mono (by simp)).trans ((OnlyIn.onFn _ _ _).mono (by simp))).trans ((OnlyIn.onTick _ _).mono (by simp))

/-- The early loads leave the function's rings. -/
theorem mapPended_earlyLoads_fetched (h : CmdHdr) (es : List (Nat × Nat × Nat)) (ims : List (Nat × Image)) (m : Mach) :
    Fetched h.fn m ((m.mapPended h es).earlyLoads (bindsOf es) ims h.fn) := by
  have hl := earlyLoads_onlyIn (bindsOf es) ims h.fn (m.mapPended h es)
  have hfn : ((m.mapPended h es).earlyLoads (bindsOf es) ims h.fn).fn = (m.mapPended h es).fn := hl .fn (by decide)
  exact (taken_fetched h true m).effect (hl .regs (by decide)) (by rw [hfn, mapPended_fn_self]) (by rw [hfn, mapPended_fn_self])

theorem mapPended_earlyLoads_rejected (h : CmdHdr) (es : List (Nat × Nat × Nat)) (ims : List (Nat × Image)) (m : Mach) :
    ((m.mapPended h es).earlyLoads (bindsOf es) ims h.fn).g R.HIF_CMD_REJECTED = m.g R.HIF_CMD_REJECTED := by
  have hregs : ((m.mapPended h es).earlyLoads (bindsOf es) ims h.fn).regs = (m.mapPended h es).regs :=
    earlyLoads_onlyIn _ _ _ _ .regs (by decide)
  unfold g rd
  rw [hregs]
  exact taken_g h true m R.HIF_CMD_REJECTED (by decide)

theorem nextEpoch_taken (h : CmdHdr) (m : Mach) : (m.taken h true).nextEpoch h.fn = m.nextEpoch h.fn := by
  unfold nextEpoch
  rw [taken_fn_self]
  exact congrArg (fun n => (n + 1) % 256) (fetch_fn_get h.fn h.fn m Func.newest fun _ _ _ => rfl)

end Mach

/-- What MAP_ROLES does at its acceptance (R192, R193, R195). -/
theorem exec_mapRoles (h : CmdHdr) (table : List Byte) (s : State) :
    exec (.mapRoles h table) s = s.act (Mach.command h 0x12 true
      (fun t => (t.judgeEff h 2).or (t.mapReject h.fn (t.effOf h) (Mach.mapEntries table)))
      (fun cseq t =>
        { m := Mach.earlyLoads (Mach.bindsOf (Mach.mapEntries table)) (t.imagesAt h.fn (t.effOf h)) h.fn
            ((t.onFn h.fn fun x => { x with newest := t.nextEpoch h.fn }).pend
              { fn := h.fn, op := 0x12, ctag := h.ctag, cseq := cseq, tnEff := t.effOf h,
                change := .mapRoles (t.nextEpoch h.fn) (Mach.bindsOf (Mach.mapEntries table)) }),
          d10 := t.nextEpoch h.fn, d18 := t.effOf h })) := rfl

/-- The map that a command brings waits for its tick and is numbered, and no engine that holds a role has changed. -/
def MapWaits (h : CmdHdr) (a : Mach) (p : Pending) (t : Mach) : Prop :=
  (t.tick = { a.tick with pending := a.tick.pending ++ [p] } ∧ (t.fn.get h.fn).openCmds = (a.fn.get h.fn).openCmds ++ [(a.fn.get h.fn).cseq]) ∧
    (t.fn.get h.fn).newest = a.nextEpoch h.fn ∧ (t.fn.get h.fn).roles = (a.fn.get h.fn).roles ∧
    (∀ e : Fin 72, (a.roleAt a.tick.tn e).isSome = true → t.eng.get e = a.eng.get e) ∧
    OnlyIn [.regs, .tick, .eng, .jnl, .sleep, .fn, .out] a t

/-- A numbered map waits, whatever loads begin early and whatever its first completion writes. -/
theorem mapWaits_of_earlyLoads {h : CmdHdr} {a t : Mach} {es : List (Nat × Nat × Nat)} {ims : List (Nat × Image)}
    (ht : CplOnly h.fn ((a.mapPended h es).earlyLoads (Mach.bindsOf es) ims h.fn) t) :
    MapWaits h a (pendingOf h 0x12 (a.effOf h) (.mapRoles (a.nextEpoch h.fn) (Mach.bindsOf es)) a) t := by
  have hl := Mach.earlyLoads_onlyIn (Mach.bindsOf es) ims h.fn (a.mapPended h es)
  have hfn : ((a.mapPended h es).earlyLoads (Mach.bindsOf es) ims h.fn).fn = (a.mapPended h es).fn := hl .fn (by decide)
  refine ⟨⟨?_, ?_⟩, ?_, ?_, fun e he => ?_, ?_⟩
  · rw [ht.tick, ← Mach.mapPended_tick]; exact hl .tick (by decide)
  · rw [ht.own, hfn, Mach.mapPended_fn_self, Mach.taken_fn_self]
  · rw [ht.own, hfn, Mach.mapPended_fn_self]
  · rw [ht.own, hfn]; exact Mach.mapPended_roles h es a h.fn
  · have hrole : ((a.mapPended h es).roleAt (a.mapPended h es).tick.tn e).isSome = true := by
      rw [Mach.mapPended_tick, Mach.roleAt_congr (Mach.mapPended_roles h es a)]; exact he
    rw [show t.eng = _ from ht.parts .eng (by decide), Mach.earlyLoads_eng _ _ _ hrole]
    exact congrArg (·.get e) (Mach.mapPended_onlyIn h es a .eng (by decide))
  · exact (((Mach.mapPended_onlyIn h es a).mono (by simp)).trans (hl.mono (by simp))).trans (ht.parts.mono (by simp))

/-- MAP_ROLES is rejected as R44, R45 and R192 say, or its map is numbered and waits. -/
theorem mapRoles_waits {h : CmdHdr} {s : State} (hf : s.fetchable h.fn = true) (table : List Byte) (hp : s.preCheck h 0x12 = none) :
    let es := Mach.mapEntries table
    let judged := (s.judgeEff h 2).or (s.mapReject h.fn (s.effNamed h) es)
    (∀ code ∈ judged, Rejects (.mapRoles h table) h 0x12 code s) ∧
      (judged = none → Accepts (.mapRoles h table) h 0x12 (s.nextEpoch h.fn) (s.effNamed h) s
        (MapWaits h s.toMach (pendingOf h 0x12 (s.effNamed h) (.mapRoles (s.nextEpoch h.fn) (Mach.bindsOf es)) s.toMach))) := by
  intro es judged
  have hx := exec_mapRoles h table s
  have hj : ((s.fetch h.fn).judgeEff h 2).or ((s.fetch h.fn).mapReject h.fn ((s.fetch h.fn).effOf h) es) = judged := by
    rw [Mach.judgeEff_fetch, Mach.effOf_fetch, Mach.fetch_mapReject]
    cases hk : s.judgeEff h 2 with
    | some c => simp only [judged, hk, Option.some_or]
    | none => simp only [judged, hk, Mach.effOf_of_judgeEff hk]
  refine ⟨fun code hcode => command_rejects hx hf (by rw [hp]; exact hj.trans hcode), fun hn => ?_⟩
  rw [← Mach.effOf_of_judgeEff (Option.or_eq_none_iff.1 hn).1]
  refine command_accepts
    (a := { m := (s.mapPended h es).earlyLoads (Mach.bindsOf es) ((s.taken h true).imagesAt h.fn (s.effOf h)) h.fn,
            d10 := s.nextEpoch h.fn, d18 := s.effOf h })
    hx hf hp (hj.trans hn) ?_ rfl (Mach.mapPended_earlyLoads_fetched h es _ s.toMach) (Mach.mapPended_earlyLoads_rejected h es _ s.toMach)
    fun t ht => mapWaits_of_earlyLoads ht
  simp only [Mach.effOf_taken, Mach.nextEpoch_taken]
  rfl

/-! ## LOAD_GRAPH starts its copy with no completion (R186) -/

/-- The state that LOAD_GRAPH leaves where its checks pass: fetched, the head shadow written, and the copy under way. -/
def Mach.copyBegun (h : CmdHdr) (job : LoadJob) (m : Mach) : Mach := ((m.fetch h.fn).shadow h.fn).onFn h.fn fun x => { x with load := some job }

theorem shadow_onlyIn (f : Fin 8) (m : Mach) : OnlyIn [.out] m (m.shadow f) := by
  unfold Mach.shadow
  split
  · exact OnlyIn.emit m _
  · exact OnlyIn.refl _ m

theorem shadow_out_of_off {f : Fin 8} {m : Mach} (h : m.on (R.HIF_F_CTRL_SHADOW_EN f) = false) : (m.shadow f).out = m.out := by
  unfold Mach.shadow; rw [h]; rfl

theorem shadow_out_of_on {f : Fin 8} {m : Mach} (h : m.on (R.HIF_F_CTRL_SHADOW_EN f) = true) :
    (m.shadow f).out.length = m.out.length + 1 := by
  unfold Mach.shadow; rw [if_pos h]; rfl

theorem fetch_shadowOn (f : Fin 8) (m : Mach) : (m.fetch f).on (R.HIF_F_CTRL_SHADOW_EN f) = m.on (R.HIF_F_CTRL_SHADOW_EN f) :=
  Mach.fetch_on m _ (by have := Mach.fnPage_ge f; simp only [R.HIF_F_CTRL_SHADOW_EN, R.HIF_CMD_FETCHED]; omega)

theorem copyBegun_fn_self (h : CmdHdr) (job : LoadJob) (m : Mach) :
    (m.copyBegun h job).fn.get h.fn = { (m.fetch h.fn).fn.get h.fn with load := some job } := by
  unfold Mach.copyBegun
  rw [Mach.onFn_fn, vmod_get_self, show ((m.fetch h.fn).shadow h.fn).fn = (m.fetch h.fn).fn from shadow_onlyIn _ _ .fn (by decide)]

theorem copyBegun_regs (h : CmdHdr) (job : LoadJob) (m : Mach) : (m.copyBegun h job).regs = (m.fetch h.fn).regs :=
  shadow_onlyIn h.fn (m.fetch h.fn) .regs (by decide)

theorem copyBegun_onlyIn (h : CmdHdr) (job : LoadJob) (m : Mach) : OnlyIn [.regs, .sleep, .fn, .out] m (m.copyBegun h job) :=
  (((Mach.fetch_onlyIn h.fn m).mono (by simp)).trans ((shadow_onlyIn h.fn _).mono (by simp))).trans ((OnlyIn.onFn _ _ _).mono (by simp))

theorem copyBegun_fetches (h : CmdHdr) (job : LoadJob) (m : Mach) : Fetches h m (m.copyBegun h job) := by
  have hb := (Fetched.fetch h.fn m).effect (c := m.copyBegun h job) (copyBegun_regs h job m) (by rw [copyBegun_fn_self])
    (by rw [copyBegun_fn_self])
  exact ⟨hb.head, hb.cseq, hb.fetched⟩

section
variable {h : CmdHdr} {s : State} (bytes : List Byte) (len dst : Nat) (repl : Option Nat) (hp : s.preCheck h 0x10 = none)
include hp

/-- The checks of LOAD_GRAPH judge the state before the fetch. -/
theorem loadGraph_judged :
    (((s.fetch h.fn).preCheck h 0x10).or ((s.fetch h.fn).judgeEff h 1)).or ((s.fetch h.fn).loadReject h.fn bytes len dst repl) =
      (s.judgeEff h 1).or (s.loadReject h.fn bytes len dst repl) := by
  rw [Mach.preCheck_fetch, hp, Mach.judgeEff_fetch, Mach.fetch_loadReject]; rfl

variable (hf : s.fetchable h.fn = true)
include hf

theorem loadGraph_rejects {code : Nat} (hj : (s.judgeEff h 1).or (s.loadReject h.fn bytes len dst repl) = some code) :
    Rejects (.loadGraph h bytes len dst repl) h 0x10 code s := by
  refine rejects_of_act (f := Mach.loadGraph h bytes len dst repl) rfl hf ?_
  unfold Mach.loadGraph
  simp only [hf, Bool.not_true, Bool.false_eq_true, if_false, loadGraph_judged bytes len dst repl hp, hj]
  rfl

theorem loadGraph_begins (hj : (s.judgeEff h 1).or (s.loadReject h.fn bytes len dst repl) = none) :
    s.loadGraph h bytes len dst repl = s.copyBegun h
      { ctag := h.ctag, cseq := (s.fn.get h.fn).cseq, tnEff := s.effNamed h, dst := dst, replaces := repl, bytes := sliceB bytes 0 len } := by
  unfold Mach.loadGraph
  simp only [hf, Bool.not_true, Bool.false_eq_true, if_false, loadGraph_judged bytes len dst repl hp, hj, Mach.effOf_fetch,
    Mach.effOf_of_judgeEff (Option.or_eq_none_iff.1 hj).1]
  rfl

/-- What LOAD_GRAPH has done when its copy is under way: it was fetched, and nothing is completed yet. -/
theorem loadGraph_copies (hj : (s.judgeEff h 1).or (s.loadReject h.fn bytes len dst repl) = none) :
    Does (.loadGraph h bytes len dst repl) s fun t =>
      Fetches h s.toMach t ∧ (s.on (R.HIF_F_CTRL_SHADOW_EN h.fn) = false → t.out = s.out) ∧
      (s.on (R.HIF_F_CTRL_SHADOW_EN h.fn) = true → t.out.length = s.out.length + 1) ∧ t.jnl = s.jnl ∧
      (t.fn.get h.fn).load = some { ctag := h.ctag, cseq := (s.fn.get h.fn).cseq, tnEff := s.effNamed h, dst := dst, replaces := repl,
                                    bytes := sliceB bytes 0 len } ∧
      RegsBut [R.HIF_CMD_FETCHED.a] s.toMach t ∧ OnlyIn [.regs, .sleep, .fn, .out] s.toMach t := by
  refine does_of_act (f := Mach.loadGraph h bytes len dst repl) rfl (loadGraph_begins bytes len dst repl hp hf hj)
    ⟨copyBegun_fetches h _ s.toMach, fun hs => ?_, fun hs => ?_, copyBegun_onlyIn h _ s.toMach .jnl (by decide), ?_, fun off ho => ?_,
      copyBegun_onlyIn h _ s.toMach⟩
  · exact (shadow_out_of_off ((fetch_shadowOn h.fn s.toMach).trans hs)).trans (Mach.fetch_out h.fn s.toMach)
  · rw [← Mach.fetch_out h.fn s.toMach]; exact shadow_out_of_on ((fetch_shadowOn h.fn s.toMach).trans hs)
  · rw [copyBegun_fn_self]
  · unfold Mach.rd; rw [copyBegun_regs]; exact Mach.fetch_regsBut h.fn s.toMach off ho

end

end Sys2Proof.Machine

namespace Sys2Proof.Machine

/-- Settles O46: each command is judged by R44 and R45, then by its own checks, on the state before its fetch; accepted, it appends its one
pending change, or starts its copy. -/
theorem boundaryCommandsWait : Obligations.BoundaryCommandsWait := by
  intro s h period origin q mask table lock first count slot bytes len dst repl f cseq eff tnBad effBad isOpen waits frame o64 hs rules
    badPeriod change load quality calib locks ruled unload es maps epoch loads hf
  have hE : effBad = fun kind => s.judgeEff h kind := funext fun kind => (Mach.judgeEff_eq h kind s.toMach).symm
  clear_value effBad
  subst hE
  refine ⟨fun hphase hw hr ho => ⟨?_, ?_⟩, fun hp => ?_, fun hp => ?_, fun hp => ?_, fun hp => ?_, fun hp => ?_, fun hp => ?_, fun hp => ?_,
    fun hp => ?_⟩
  · exact setTick_notOwner hf rfl hphase hw hr ho
  · exact setTick_notOwner hf rfl hphase hw hr ho
  · obtain ⟨hrej, hacc⟩ := setTickChange_waits hf period hp
    obtain ⟨lrej, lacc⟩ := setTickLoad_waits hf period origin hp
    exact ⟨hrej, hacc, lrej, lacc⟩
  · exact setQuality_waits hf q hp
  · exact calibSet_waits hf mask table hp
  · exact calibLock_waits hf mask lock hp
  · exact ruleSet_waits hf first count bytes hp
  · exact unloadGraph_waits hf slot hp
  · exact mapRoles_waits hf bytes hp
  · exact ⟨fun code hc => loadGraph_rejects bytes len dst repl hp hf hc, fun hn => loadGraph_copies bytes len dst repl hp hf hn⟩
end Sys2Proof.Machine

namespace Sys2Proof.Machine

/-! ## The values that a boundary sets (R31, R49)

Everything a boundary does is followed through to the tick's own values. A function that sets none of them has one lemma, tagged
`simp`, which says so; the two that set them, `applyPeriod` and `openAcct`, have a lemma with what they set. -/

/-- TICK_ORIGIN, TICK_PERIOD, the running tick with its start, and the servo: what only a boundary, a step of station time and the servo's
own commands change. -/
structure TickValues where
  origin : Int
  period : Nat
  tn : Nat
  start : Int
  servo : Servo

namespace Mach

def tickValues (m : Mach) : TickValues :=
  { origin := m.tick.origin, period := m.tick.period, tn := m.tick.tn, start := m.tick.start, servo := m.time.servo }

section
variable (m : Mach)

theorem tickValues_eq {a b : Mach} (ht : b.tick = a.tick) (hs : b.time = a.time) : b.tickValues = a.tickValues := by
  unfold tickValues; rw [ht, hs]

theorem tickValues_of_onlyIn {l : List Part} {a b : Mach} (h : OnlyIn l a b) (ht : Part.tick ∉ l) (hs : Part.time ∉ l) :
    b.tickValues = a.tickValues := tickValues_eq (h .tick ht) (h .time hs)

theorem tickValues_of_recOnly {a b : Mach} (h : RecOnly a b) : b.tickValues = a.tickValues := by
  unfold tickValues
  rw [h.tick, show b.time = a.time from h.parts .time (by decide)]

theorem tickValues_of_clockOnly {a b : Mach} (h : ClockOnly a b) : b.tickValues = a.tickValues := by
  unfold tickValues
  rw [h.tick, h.time]

@[simp] theorem wr_tickValues (a : Nat) (w : Word) : (m.wr a w).tickValues = m.tickValues := tickValues_eq rfl rfl
@[simp] theorem put_tickValues (f : Fld) (v : Nat) : (m.put f v).tickValues = m.tickValues := tickValues_eq rfl rfl
@[simp] theorem set1_tickValues (f : Fld) : (m.set1 f).tickValues = m.tickValues := put_tickValues m f 1
@[simp] theorem addTo_tickValues (f : Fld) (k : Nat) : (m.addTo f k).tickValues = m.tickValues := put_tickValues m f _
@[simp] theorem inc_tickValues (f : Fld) : (m.inc f).tickValues = m.tickValues := addTo_tickValues m f 1
@[simp] theorem emit_tickValues (o : Out) : (m.emit o).tickValues = m.tickValues := tickValues_eq rfl rfl
@[simp] theorem onFe_tickValues (p : Fin 16) (u : Fe → Fe) : (m.onFe p u).tickValues = m.tickValues := tickValues_eq rfl rfl
@[simp] theorem onEng_tickValues (e : Fin 72) (u : Engine → Engine) : (m.onEng e u).tickValues = m.tickValues := tickValues_eq rfl rfl
@[simp] theorem onFn_tickValues (f : Fin 8) (u : Func → Func) : (m.onFn f u).tickValues = m.tickValues := tickValues_eq rfl rfl
@[simp] theorem onLvl_tickValues (d : Fin 4) (u : DieLevel → DieLevel) : (m.onLvl d u).tickValues = m.tickValues := tickValues_eq rfl rfl
@[simp] theorem onLink_tickValues (l : Fin 4) (u : Link → Link) : (m.onLink l u).tickValues = m.tickValues := tickValues_eq rfl rfl
@[simp] theorem onJnl_tickValues (u : Journal → Journal) : (m.onJnl u).tickValues = m.tickValues := tickValues_eq rfl rfl
@[simp] theorem onFus_tickValues (u : Fusion → Fusion) : (m.onFus u).tickValues = m.tickValues := tickValues_eq rfl rfl
@[simp] theorem onLed_tickValues (u : Ledger → Ledger) : (m.onLed u).tickValues = m.tickValues := tickValues_eq rfl rfl
@[simp] theorem onSleep_tickValues (u : Sleep → Sleep) : (m.onSleep u).tickValues = m.tickValues := tickValues_eq rfl rfl
@[simp] theorem onCache_tickValues (u : Caches → Caches) : (m.onCache u).tickValues = m.tickValues := tickValues_eq rfl rfl
@[simp] theorem onPop_tickValues (p : Pop) (u : Pop → Pop) : (m.onPop p u).tickValues = m.tickValues := tickValues_eq rfl rfl
@[simp] theorem onAcct_tickValues (n : Nat) (u : TickAcct → TickAcct) : (m.onAcct n u).tickValues = m.tickValues := by
  unfold onAcct tickValues; rfl
@[simp] theorem onRunning_tickValues (u : TickAcct → TickAcct) : (m.onRunning u).tickValues = m.tickValues := onAcct_tickValues m _ u
@[simp] theorem addBad_tickValues (n p c : Nat) : (m.addBad n p c).tickValues = m.tickValues := onAcct_tickValues m n _
@[simp] theorem drawNat_tickValues : m.drawNat.2.tickValues = m.tickValues := tickValues_eq rfl rfl
@[simp] theorem drawInt_tickValues : m.drawInt.2.tickValues = m.tickValues := tickValues_eq rfl rfl
@[simp] theorem write'_tickValues (f : Fin 8) (b : Body) (k : Nat) : (m.write' f b k).tickValues = m.tickValues :=
  tickValues_of_recOnly (write'_recOnly f b k m)
@[simp] theorem health_tickValues (h : HCode) (u : HUnit) (d : List Nat) : (m.health h u d).tickValues = m.tickValues :=
  tickValues_of_recOnly (health_recOnly h u d m)

theorem draws_tickValues (n : Nat) : { m with draws := n }.tickValues = m.tickValues := rfl
theorem spikes_tickValues (l : List SpikeMsg) : { m with spikes := l }.tickValues = m.tickValues := rfl
theorem images_tickValues (l : Tab Image) : { m with images := l }.tickValues = m.tickValues := rfl
theorem retired_tickValues (l : Tab Image) (p : List Pop) (q : List SpikeMsg) :
    { m with images := l, pops := p, spikes := q }.tickValues = m.tickValues := rfl
theorem wdogCount_tickValues (u : TickUnit → Nat) : (m.onTick fun t => { t with wdogCount := u t }).tickValues = m.tickValues := rfl
theorem heldDesc_tickValues (l : List (Nat × Desc)) : { m with heldDesc := l }.tickValues = m.tickValues := rfl
theorem thinQueues_tickValues (q : Vector (List TleReq) 4) (t : Vector (Option TleReq) 8) :
    { m with tleq := q, tle := t }.tickValues = m.tickValues := rfl

@[simp] theorem ite_tickValues (c : Prop) {_ : Decidable c} (a b : Mach) :
    (if c then a else b).tickValues = if c then a.tickValues else b.tickValues := apply_ite tickValues c a b

/-- A loop whose rounds keep the values keeps them. -/
@[simp] theorem forEach_tickValues {α : Type} (l : List α) (f : α → Mach → Mach) (h : ∀ x t, (f x t).tickValues = t.tickValues) :
    (forEach l f m).tickValues = m.tickValues :=
  forEach_keeps (fun t => t.tickValues = m.tickValues) l f (fun x t ht => (h x t).trans ht) m rfl

/-- A fold that carries the machine beside a value keeps what its steps keep. -/
theorem foldl_tickValues {α β : Type} (l : List α) {step : β × Mach → α → β × Mach} (h : ∀ s a, (step s a).2.tickValues = s.2.tickValues)
    (s : β × Mach) : (l.foldl step s).2.tickValues = s.2.tickValues := by
  induction l generalizing s with
  | nil => rfl
  | cons x r ih => rw [List.foldl_cons, ih, h]

/-! ## Completions -/

@[simp] theorem msix_tickValues (f : Fin 8) (v : Nat) : (m.msix f v).tickValues = m.tickValues := emit_tickValues m _
@[simp] theorem cplWrite_tickValues (f : Fin 8) (e : Cpl) : (m.cplWrite f e).tickValues = m.tickValues :=
  tickValues_of_onlyIn (cplWrite_cplOnly f e m).parts (by decide) (by decide)

@[simp] theorem shadow_tickValues (f : Fin 8) : (m.shadow f).tickValues = m.tickValues :=
  tickValues_of_onlyIn (shadow_onlyIn f m) (by decide) (by decide)

@[simp] theorem ringWrote_tickValues (f : Fin 8) (r : Fin 7) (v : Fin 6) : (m.ringWrote f r v).tickValues = m.tickValues := by
  simp [ringWrote, onRing, modEntry, modSend]

@[simp] theorem doneOne_tickValues (f : Fin 8) (e : Cpl) : (m.doneOne f e).tickValues = m.tickValues := by simp [doneOne]

@[simp] theorem fencesDone_tickValues (f : Fin 8) : (m.fencesDone f).tickValues = m.tickValues := by simp [fencesDone]

@[simp] theorem done_tickValues (f : Fin 8) (op ctag cseq r d : Nat) (b : List Byte) :
    (m.done f op ctag cseq r d b).tickValues = m.tickValues := by simp [done]

@[simp] theorem donePending_tickValues (p : Pending) (r : Nat) : (m.donePending p r).tickValues = m.tickValues := by simp [donePending]

/-! ## Front ends, and what is abandoned -/

@[simp] theorem debitNj_tickValues (i : Item) (c : Int) : (m.debitNj i c).tickValues = m.tickValues := by simp [debitNj]
@[simp] theorem spend_tickValues (n : Nat) (c : Int) : (m.spend n c).tickValues = m.tickValues := by simp [spend]
@[simp] theorem rawWork_tickValues (k : Work) (d : Fin 4) (n : Nat) : (m.rawWork k d n).tickValues = m.tickValues := by simp [rawWork]
@[simp] theorem debit_tickValues (i : Item) (k : Work) (d : Fin 4) (n t : Nat) : (m.debit i k d n t).tickValues = m.tickValues := by
  simp [debit]
@[simp] theorem putCode_tickValues (p : Fin 16) (pol : Bool) (x y c : Nat) : (m.putCode p pol x y c).tickValues = m.tickValues := by
  simp [putCode]
@[simp] theorem applyHot_tickValues (p : Fin 16) : (m.applyHot p).tickValues = m.tickValues := by simp [applyHot]
@[simp] theorem onCurd_tickValues (p : Fin 16) (n i : Nat) (u : Curd → Curd) : (m.onCurd p n i u).tickValues = m.tickValues := by
  simp [onCurd]
@[simp] theorem applyStagedFe_tickValues (p : Fin 16) : (m.applyStagedFe p).tickValues = m.tickValues := by simp [applyStagedFe]
@[simp] theorem learnEvent_tickValues (p : Fin 16) (l : Learn) (w : EvWord) : (m.learnEvent p l w).tickValues = m.tickValues := by
  simp [learnEvent]
@[simp] theorem sramPut_tickValues (e : Fin 72) (a : Nat) (b : List Byte) : (m.sramPut e a b).tickValues = m.tickValues := by
  simp [sramPut]
@[simp] theorem beginLoad_tickValues (e : Fin 72) (x : Fin 8 × Nat × Nat) : (m.beginLoad e x).tickValues = m.tickValues := by
  simp [beginLoad]
@[simp] theorem classLost_tickValues (d : Desc) : (m.classLost d).tickValues = m.tickValues := by simp [classLost]
@[simp] theorem abandonDesc_tickValues (e : Fin 72) (d : Desc) : (m.abandonDesc e d).tickValues = m.tickValues := by simp [abandonDesc]

/-- What an engine's queue takes from the descriptors that wait at the hub. -/
@[simp] theorem pumpHeld_tickValues (e : Fin 72) : (m.pumpHeld e).tickValues = m.tickValues := by
  unfold pumpHeld
  dsimp only
  split
  · rfl
  · rw [onEng_tickValues, heldDesc_tickValues]

@[simp] theorem closeWork_tickValues (e : Fin 72) (d : Desc) : (m.closeWork e d).2.tickValues = m.tickValues := by simp [closeWork]

theorem endQueued_tickValues {one : Desc → Mach → Mach} (h : ∀ d t, (one d t).tickValues = t.tickValues) (e : Fin 72) (which : Desc → Bool) :
    (m.endQueued one e which).tickValues = m.tickValues := by
  unfold endQueued
  have queued := fun u => (forEach_tickValues (m.onEng e u) ((m.eng.get e).queue.filter which) one h).trans (onEng_tickValues m e u)
  dsimp only
  split
  · split
    · rw [h, thinQueues_tickValues, onEng_tickValues, closeWork_tickValues, queued]
    · exact queued _
  · exact queued _

theorem endDescs_tickValues {one : Desc → Mach → Mach} (h : ∀ d t, (one d t).tickValues = t.tickValues) (e : Fin 72) (which : Desc → Bool) :
    (m.endDescs one e which).tickValues = m.tickValues := by
  unfold endDescs
  rw [pumpHeld_tickValues, forEach_tickValues _ _ _ h, endQueued_tickValues _ h, heldDesc_tickValues]

@[simp] theorem abandonEng_tickValues (e : Fin 72) (which : Desc → Bool) : (m.abandonEng e which).tickValues = m.tickValues :=
  endDescs_tickValues m (fun d t => abandonDesc_tickValues t e d) e which

/-! ## A run that a change of EDGE settles (R144) -/

@[simp] theorem scRead_tickValues (line : Nat) : (m.scRead line).tickValues = m.tickValues := by simp [scRead]

@[simp] theorem hubRead_tickValues (d a n : Nat) : (m.hubRead d a n).2.tickValues = m.tickValues := by
  unfold hubRead
  refine foldl_tickValues _ (fun s l => ?_) _
  split
  · rfl
  · exact scRead_tickValues s.2 l

@[simp] theorem ueHit_tickValues (a : Nat) : (m.ueHit a).tickValues = m.tickValues := by simp [ueHit]

@[simp] theorem fetchElement_tickValues (e : Fin 72) (im : Image) (r : StreamRec) : (m.fetchElement e im r).tickValues = m.tickValues := by
  unfold fetchElement
  split
  · rfl
  · split
    · rfl
    · dsimp only
      split <;> simp

@[simp] theorem takeElements_tickValues (e : Fin 72) (im : Image) (r : StreamRec) (n : Nat) :
    (m.takeElements e im r n).2.tickValues = m.tickValues := by
  induction n generalizing m with
  | zero => rfl
  | succ n ih =>
    unfold takeElements
    split
    · rfl
    · split
      · rfl
      · simp [ih]

@[simp] theorem layerStep_tickValues (e : Fin 72) : (m.layerStep e).2.2.tickValues = m.tickValues := by
  unfold layerStep
  split
  · rfl
  · split
    · rfl
    · split
      · rfl
      · dsimp only
        split <;> dsimp only <;> split <;>
          simp only [addTo_tickValues, onEng_tickValues, draws_tickValues, sramPut_tickValues, takeElements_tickValues]

@[simp] theorem runLayer_tickValues (e : Fin 72) : (m.runLayer e).tickValues = m.tickValues := by simp [runLayer]

@[simp] theorem runSome_tickValues (e : Fin 72) (n : Nat) : (m.runSome e n).tickValues = m.tickValues := by
  induction n generalizing m with
  | zero => rfl
  | succ n ih => unfold runSome; split <;> simp [ih]

@[simp] theorem settleRun_tickValues (e : Fin 72) : (m.settleRun e).tickValues = m.tickValues := by
  unfold settleRun; split <;> simp

@[simp] theorem setEdge_tickValues (d : Fin 4) (edge : Bool) : (m.setEdge d edge).tickValues = m.tickValues := by simp [setEdge]
@[simp] theorem leaveEdge_tickValues (d : Fin 4) : (m.leaveEdge d).tickValues = m.tickValues := by simp [leaveEdge]

@[simp] theorem changeLevel_tickValues (d : Fin 4) (level : Nat) (edge : Bool) : (m.changeLevel d level edge).tickValues = m.tickValues := by
  simp [changeLevel]

/-! ## Populations -/

@[simp] theorem putNeuron_tickValues (e : Fin 72) (r : PopRec) (i : Nat) (x : Neuron) : (m.putNeuron e r i x).tickValues = m.tickValues := by
  simp [putNeuron]

@[simp] theorem startPop_tickValues (e : Fin 72) (p : Pop) (im : Image) (r : PopRec) (t : Int) :
    (m.startPop e p im r t).tickValues = m.tickValues := by simp [startPop]

@[simp] theorem mdAsk_tickValues (n : Fin 4) (t : Int) : (m.mdAsk n t).2.tickValues = m.tickValues := by
  unfold mdAsk; split <;> simp

theorem askMark_tickValues {r : PopRec} {t : Int} {x : Option Int × Mach} (h : m.askMark r t = some x) : x.2.tickValues = m.tickValues := by
  have hm := mdAsk_tickValues m (Fin.ofNat 4 r.enc) t
  unfold askMark at h
  split at h
  · cases h; rfl
  · split at h
    · cases h
    · rename_i heq; rw [heq] at hm; cases h; exact hm
    · rename_i heq; rw [heq] at hm; cases h; exact hm

@[simp] theorem discardDue_tickValues (n : Nat) (p : Pop) (im : Image) : (m.discardDue n p im).tickValues = m.tickValues := by
  unfold discardDue; split <;> simp

@[simp] theorem lostStep_tickValues (n g : Nat) (mark : Option Int) (p : Pop) (im : Image) (r : PopRec) :
    (m.lostStep n g mark p im r).tickValues = m.tickValues := by
  unfold lostStep
  split
  · split <;> simp
  · simp

@[simp] theorem settleOwed_tickValues (n : Nat) (p : Pop) (l : List Int) : (m.settleOwed n p l).tickValues = m.tickValues := by
  induction l generalizing m with
  | nil => simp [settleOwed]
  | cons t r ih =>
    unfold settleOwed
    split
    · split
      · simp
      · rename_i h; rw [ih, lostStep_tickValues]; exact askMark_tickValues m h
    · rfl

@[simp] theorem lostPhase_tickValues (n i : Nat) (p : Pop) : (m.lostPhase n i p).tickValues = m.tickValues := by
  unfold lostPhase
  split
  · rfl
  · dsimp only
    split
    · simp
    · split
      · simp
      · rename_i h; rw [lostStep_tickValues, askMark_tickValues _ h, onPop_tickValues]

@[simp] theorem settleFn_tickValues (f : Fin 8) (n : Nat) : (m.settleFn f n).tickValues = m.tickValues := by simp [settleFn]

@[simp] theorem lostPhases_tickValues (f : Fin 8) (n i : Nat) : (m.lostPhases f n i).tickValues = m.tickValues := by
  unfold lostPhases
  rw [forEach_tickValues, settleFn_tickValues]
  refine fun k t => forEach_tickValues t _ _ fun p u => ?_
  split <;> simp

@[simp] theorem routeDrop_tickValues (f : Fin 8) : (m.routeDrop f).tickValues = m.tickValues := by simp [routeDrop]

@[simp] theorem arrive_tickValues (f : Fin 8) (n role : Nat) (e : Fin 72) (a : Arrival) : (m.arrive f n role e a).tickValues = m.tickValues := by
  unfold arrive
  split
  · simp
  · split
    · simp
    · split <;> simp

@[simp] theorem spikeMessage_tickValues (f : Fin 8) : (m.spikeMessage f).tickValues = m.tickValues := by
  unfold spikeMessage
  split
  · rfl
  · dsimp only
    split
    · rw [routeDrop_tickValues, spikes_tickValues]
    · split
      · rw [routeDrop_tickValues, spikes_tickValues]
      · simp only [ite_tickValues, routeDrop_tickValues, arrive_tickValues, onFn_tickValues, spikes_tickValues, ite_self]

@[simp] theorem drainSpikes_tickValues (f : Fin 8) : (m.drainSpikes f).tickValues = m.tickValues := by simp [drainSpikes]
@[simp] theorem endPopTick_tickValues (f : Fin 8) (n : Nat) : (m.endPopTick f n).tickValues = m.tickValues := by simp [endPopTick]
@[simp] theorem abandonPop_tickValues (f : Fin 8) (n i : Nat) : (m.abandonPop f n i).tickValues = m.tickValues := by simp [abandonPop]

@[simp] theorem neuronSweep_tickValues (n : Nat) : (m.neuronSweep n).tickValues = m.tickValues := by
  unfold neuronSweep
  refine forEach_tickValues m _ _ fun p t => ?_
  split
  · rw [forEach_tickValues]
    · simp
    · intro i u; dsimp only; rw [draws_tickValues, putNeuron_tickValues]
  · rfl

/-! ## The steps of a boundary -/

@[simp] theorem armWdog_tickValues : m.armWdog.tickValues = m.tickValues := by unfold armWdog tickValues; rfl
@[simp] theorem abandonEntry_tickValues : m.abandonEntry.tickValues = m.tickValues := by simp [abandonEntry]

@[simp] theorem closeTick_tickValues (a b c : Int) : (m.closeTick a b c).tickValues = m.tickValues := by simp [closeTick]

@[simp] theorem sleepBoundary_tickValues : m.sleepBoundary.tickValues = m.tickValues := by
  unfold sleepBoundary; split <;> simp

@[simp] theorem flrBoundary_tickValues (f : Fin 8) (k : Nat) : (m.flrBoundary f k).tickValues = m.tickValues := by
  unfold flrBoundary
  dsimp only
  rw [addTo_tickValues, onFus_tickValues, onFn_tickValues, retired_tickValues]
  split <;> simp

@[simp] theorem applyFeSets_tickValues (im : Image) : (m.applyFeSets im).tickValues = m.tickValues := by simp [applyFeSets]

@[simp] theorem activate_tickValues (slot : Nat) (r : Option Nat) (k : Nat) : (m.activate slot r k).tickValues = m.tickValues := by
  unfold activate
  split
  · rfl
  · dsimp only; rw [applyFeSets_tickValues, images_tickValues]

@[simp] theorem applyGraphChange_tickValues (k : Nat) (p : Pending) : (m.applyGraphChange k p).tickValues = m.tickValues := by
  unfold applyGraphChange
  split
  · simp
  · rfl
  · rfl

@[simp] theorem applyMapChange_tickValues (k : Nat) (p : Pending) : (m.applyMapChange k p).tickValues = m.tickValues := by
  unfold applyMapChange; split <;> simp

@[simp] theorem installHom_tickValues (k : Nat) (p : Fin 16) (h : Hom) (n : Nat) (a b : Int) (c : Nat) :
    (m.installHom k p h n a b c).tickValues = m.tickValues := by simp [installHom]
@[simp] theorem dropInstalls_tickValues (p : Nat) : (m.dropInstalls p).tickValues = m.tickValues := by simp [dropInstalls]
@[simp] theorem dropSums_tickValues (p : Nat) : (m.dropSums p).tickValues = m.tickValues := by simp [dropSums]

@[simp] theorem applyCalChange_tickValues (k : Nat) (p : Pending) : (m.applyCalChange k p).tickValues = m.tickValues := by
  unfold applyCalChange; split <;> simp

@[simp] theorem fit64_tickValues (v : Int) : (m.fit64 v).2.tickValues = m.tickValues := by
  unfold fit64; split
  · rfl
  · exact drawInt_tickValues m

@[simp] theorem installOnline_tickValues (k : Nat) (i : CalInst) : (m.installOnline k i).tickValues = m.tickValues := by
  unfold installOnline
  dsimp only
  rw [inc_tickValues, installHom_tickValues]
  refine foldl_tickValues _ (fun s v => ?_) _
  exact fit64_tickValues s.2 v

@[simp] theorem installsDue_tickValues (k : Nat) : (m.installsDue k).tickValues = m.tickValues := by simp [installsDue]

@[simp] theorem applyRuleChange_tickValues (k : Nat) (p : Pending) : (m.applyRuleChange k p).tickValues = m.tickValues := by
  unfold applyRuleChange; split <;> simp

@[simp] theorem applyQualityChange_tickValues (k : Nat) (p : Pending) : (m.applyQualityChange k p).tickValues = m.tickValues := by
  unfold applyQualityChange; split <;> simp

theorem eachDue_tickValues {f : Pending → Mach → Mach} (h : ∀ p t, (f p t).tickValues = t.tickValues) (due : List Pending) (kind : Nat) :
    (m.eachDue due kind f).tickValues = m.tickValues := by simp [eachDue, h]

@[simp] theorem applyDue_tickValues (k : Nat) : (m.applyDue k).tickValues = m.tickValues := by
  simp only [applyDue, eachDue_tickValues, applyGraphChange_tickValues, applyMapChange_tickValues, applyCalChange_tickValues,
    installsDue_tickValues, applyRuleChange_tickValues, applyQualityChange_tickValues, implies_true]
  rfl

@[simp] theorem loadsAt_tickValues (k : Nat) : (m.loadsAt k).tickValues = m.tickValues := by
  unfold loadsAt
  refine forEach_tickValues m _ _ fun e t => ?_
  split <;> simp

@[simp] theorem mapsDone_tickValues : m.mapsDone.tickValues = m.tickValues := by simp [mapsDone]

@[simp] theorem feBoundary_tickValues (k : Nat) (start : Int) (p : Fin 16) : (m.feBoundary k start p).tickValues = m.tickValues := by
  unfold feBoundary
  extract_lets m0 m1 m2 f
  have h2 : m2.tickValues = m.tickValues := by
    simp only [m2, m1, m0, ite_tickValues, onFe_tickValues, applyHot_tickValues, applyStagedFe_tickValues, ite_self]
  clear_value m2
  split
  · rw [ite_tickValues, onFe_tickValues, h2, ite_self]
  · split
    · split
      · rw [learnEvent_tickValues, onFe_tickValues, h2]
      · rw [onFe_tickValues, h2]
    · split
      · rw [ite_tickValues, onFe_tickValues, h2, ite_self]
      · exact h2

@[simp] theorem applyStagedHub_tickValues : m.applyStagedHub.tickValues = m.tickValues := by simp [applyStagedHub]

/-! ## The ledger at a boundary -/

@[simp] theorem clampK_tickValues (lo hi v : Int) : (m.clampK lo hi v).2.tickValues = m.tickValues := by
  unfold clampK
  dsimp only
  split
  · rfl
  · dsimp only
    split <;> simp

@[simp] theorem updateK_tickValues (g : Fin 6) : (m.updateK g).tickValues = m.tickValues := by simp [updateK]
@[simp] theorem applyG_tickValues (g : Fin 6) : (m.applyG g).tickValues = m.tickValues := by unfold applyG; split <;> simp
@[simp] theorem ledgerDown_tickValues : m.ledgerDown.tickValues = m.tickValues := by simp [ledgerDown]
@[simp] theorem ledgerUp_tickValues : m.ledgerUp.tickValues = m.tickValues := by simp [ledgerUp]
@[simp] theorem judgeWindow_tickValues : m.judgeWindow.tickValues = m.tickValues := by simp [judgeWindow]
@[simp] theorem openWindow_tickValues : m.openWindow.tickValues = m.tickValues := by simp [openWindow]
@[simp] theorem holdAt_tickValues (d : Fin 4) : (m.holdAt d).tickValues = m.tickValues := by simp [holdAt]

@[simp] theorem levelAt_tickValues (k : Nat) (d : Fin 4) : (m.levelAt k d).tickValues = m.tickValues := by
  unfold levelAt
  dsimp only
  split
  · simp
  · split
    · simp
    · split <;> simp

@[simp] theorem applyStagedPwr_tickValues : m.applyStagedPwr.tickValues = m.tickValues := by simp [applyStagedPwr]
@[simp] theorem putLedger_tickValues (v : Vector Nat 4) : (m.putLedger v).tickValues = m.tickValues := rfl
@[simp] theorem ledgerBoundary_tickValues (k : Nat) : (m.ledgerBoundary k).tickValues = m.tickValues := by simp [ledgerBoundary]
@[simp] theorem closeEnergy_tickValues (n : Nat) : (m.closeEnergy n).tickValues = m.tickValues := by simp [closeEnergy]

/-! ## A tick begins -/

@[simp] theorem tapFlush_tickValues (f : Fin 8) : (m.tapFlush f).tickValues = m.tickValues := by simp [tapFlush]
@[simp] theorem refuseCheck_tickValues (l : Fin 4) : (m.refuseCheck l).tickValues = m.tickValues := by simp [refuseCheck]
@[simp] theorem releaseHeld_tickValues (k : Nat) : (m.releaseHeld k).tickValues = m.tickValues := by simp [releaseHeld]
@[simp] theorem openPorts_tickValues : m.openPorts.tickValues = m.tickValues := by simp [openPorts]
@[simp] theorem releaseRecs_tickValues (which : JRec → Bool) : (m.releaseRecs which).tickValues = m.tickValues := by simp [releaseRecs]

/-- The account that opens is that of tick k, from its start. -/
theorem openAcct_tickValues (k : Nat) (start : Int) (stepped : Bool) :
    (m.openAcct k start stepped).tickValues = { m.tickValues with tn := k, start := start } := rfl

/-- A tick that begins is the running one from its start; origin, period and the servo stay. -/
theorem beginTick_tickValues (k : Nat) (start tEnd lenEnd : Int) (stepped : Bool) :
    (m.beginTick k start tEnd lenEnd stepped).tickValues = { m.tickValues with tn := k, start := start } := by
  unfold beginTick
  extract_lets n awake m1 m2 m3 m4 m5 m6 m7 m8 m9 m10
  have h1 : m1.tickValues = { m.tickValues with tn := k, start := start } := by
    simp only [m1, onJnl_tickValues, openAcct_tickValues, sleepBoundary_tickValues, closeTick_tickValues]
  have h2 : m2.tickValues = m1.tickValues := forEach_tickValues _ _ _ fun f t => flrBoundary_tickValues t f k
  have h3 : m3.tickValues = m2.tickValues := by simp only [m3, ite_tickValues, loadsAt_tickValues, applyDue_tickValues, ite_self]
  have h4 : m4.tickValues = m3.tickValues := forEach_tickValues _ _ _ fun p t => feBoundary_tickValues t k start p
  have h5 : m5.tickValues = m4.tickValues := by simp only [m5, mapsDone_tickValues, applyStagedHub_tickValues]
  have h6 : m6.tickValues = m5.tickValues := by
    unfold m6
    split
    · rw [closeEnergy_tickValues, ledgerBoundary_tickValues]
    · rw [forEach_tickValues _ _ _ fun d t => holdAt_tickValues t d, applyStagedPwr_tickValues]
  have h7 : m7.tickValues = m6.tickValues := by simp only [m7, ite_tickValues, neuronSweep_tickValues, ite_self]
  have h8 : m8.tickValues = m7.tickValues := forEach_tickValues _ _ _ fun f t => tapFlush_tickValues t f
  have h9 : m9.tickValues = m8.tickValues := by
    simp only [m9, forEach_tickValues, refuseCheck_tickValues, openPorts_tickValues, releaseHeld_tickValues, implies_true]
  rw [releaseRecs_tickValues, wdogCount_tickValues, h9, h8, h7, h6, h5, h4, h3, h2, h1]

end

end Mach

end Sys2Proof.Machine

namespace Sys2Proof.Machine

namespace Mach

section
variable (m : Mach)

/-! ## A change of the tick's period at its boundary (R49) -/

/-- The boundary of a tick is computed from the values alone (R31). -/
theorem bnd_eq_tickValues (k : Nat) : m.bnd k = m.tickValues.origin + k * m.tickValues.period * 1000 := rfl

theorem servo_of_tickValues {v : TickValues} (h : m.tickValues = v) : m.time.servo = v.servo := h ▸ rfl

/-- The new origin leaves the boundary of the tick where it was (R49). -/
theorem bnd_of_changedOrigin {t : Mach} {n q : Nat} (ho : t.tick.origin = m.bnd n - n * q * 1000) (hq : t.tick.period = q) :
    t.bnd n = m.bnd n := by
  unfold bnd at ho ⊢
  rw [ho, hq]; ring

variable {m}

/-- A waiting CHANGE is no LOAD. -/
theorem pendingLoad_of_tickChange {c : Pending} {q : Nat} (hp : m.tick.pending = [c]) (hc : c.change = .tickChange q) :
    m.pendingLoad = none := by
  unfold pendingLoad
  rw [hp]; simp [hc]

/-- The CHANGE that waits alone takes effect at its tick: the origin that keeps the boundary, and the new period. -/
theorem applyPeriod_tickValues {c : Pending} {q : Nat} (hp : m.tick.pending = [c]) (hc : c.change = .tickChange q) :
    (m.applyPeriod c.tnEff).tickValues = { m.tickValues with origin := m.bnd c.tnEff - c.tnEff * q * 1000, period := q } := by
  unfold applyPeriod
  simp only [hp, hc, List.filter_cons, List.filter_nil, le_refl, decide_true, if_true, forEach, List.foldl_cons, List.foldl_nil,
    donePending_tickValues]
  rfl

/-- With no step decided for the boundary the servo does nothing (R340). -/
theorem servoStep_of_none (h : m.time.servo.stepNext = none) : m.servoStep = m := by
  unfold servoStep; rw [h]

/-- Where no LOAD waits, the clock runs to the boundary, a CHANGE that falls due applies, and the next tick begins. -/
theorem tickBoundary_eq_of_noLoad {k : Nat} {b : Int} (hl : m.pendingLoad = none) (hk : m.tick.tn + 1 = k) (hb : m.bnd k = b) :
    m.tickBoundary = (((m.runTo b).applyPeriod k).beginTick k b b b false).servoStep := by
  subst hk hb
  unfold tickBoundary
  rw [hl]

/-- The values after the boundary at which a CHANGE that waits alone takes effect. -/
theorem tickBoundary_tickValues {c : Pending} {q : Nat} (hp : m.tick.pending = [c]) (hc : c.change = .tickChange q)
    (hn : c.tnEff = m.tick.tn + 1) (hs : m.time.servo.stepNext = none) :
    m.tickBoundary.tickValues = { m.tickValues with
      origin := m.bnd c.tnEff - c.tnEff * q * 1000, period := q, tn := c.tnEff, start := m.bnd c.tnEff } := by
  have hrun := runTo_clockOnly (m.bnd c.tnEff) m
  have hv := tickValues_of_clockOnly hrun
  have hpend : (m.runTo (m.bnd c.tnEff)).tick.pending = [c] := by rw [hrun.tick]; exact hp
  generalize hb : m.bnd c.tnEff = b at *
  have hb' : (m.runTo b).bnd c.tnEff = b := by rw [bnd_eq_tickValues, hv, ← bnd_eq_tickValues, hb]
  have hbegin := beginTick_tickValues ((m.runTo b).applyPeriod c.tnEff) c.tnEff b b b false
  rw [applyPeriod_tickValues hpend hc, hb', hv] at hbegin
  rw [tickBoundary_eq_of_noLoad (pendingLoad_of_tickChange hp hc) hn.symm hb, servoStep_of_none, hbegin]
  rw [servo_of_tickValues _ hbegin]
  exact hs

end

end Mach

/-- Settles O20: the boundary's functions set the tick's values only where a period change applies and where the next tick begins. -/
theorem periodChangeKeepsBoundary : Obligations.PeriodChangeKeepsBoundary := by
  unfold Obligations.PeriodChangeKeepsBoundary
  intro s c q n hp hc hn hs
  have hv := Mach.tickBoundary_tickValues hp hc hn hs
  rw [hn] at hv
  have ho : s.toMach.tickBoundary.tick.origin = s.bnd n - n * q * 1000 := congrArg (·.origin) hv
  have hq : s.toMach.tickBoundary.tick.period = q := congrArg (·.period) hv
  exact does_of_act (f := Mach.tickBoundary) rfl rfl
    ⟨ho, hq, congrArg (·.tn) hv, congrArg (·.start) hv, Mach.bnd_of_changedOrigin s.toMach ho hq⟩

end Sys2Proof.Machine

namespace Sys2Proof.Machine

/-! ## Surface time and codes (R91, R92) -/

theorem tagOf_eq (e : Int) : tagOf e = (e % 3).toNat + 1 := by
  rw [tagOf, Int.fmod_eq_emod_of_nonneg e (by decide)]

/-- Two epochs share a tag exactly when they differ by a multiple of three. -/
theorem tagOf_eq_tagOf_iff {e f : Int} : tagOf e = tagOf f ↔ e % 3 = f % 3 := by
  rw [tagOf_eq, tagOf_eq]; omega

theorem tagOf_add_two_ne (e : Int) : tagOf (e + 2) ≠ tagOf e := by
  rw [Ne, tagOf_eq_tagOf_iff]; omega

/-- R92 names the previous epoch's tag by adding two. -/
theorem tagOf_sub_one (e : Int) : tagOf (e - 1) = tagOf (e + 2) := by
  rw [tagOf_eq_tagOf_iff]; omega

/-- The offset of a surface time within its epoch. -/
theorem fmod_eq_sub_epochOf (tau : Int) : tau.fmod 16384 = tau - epochOf tau * 16384 := by
  rw [Int.fmod_def, epochOf, Int.mul_comm]

theorem epochOf_bounds (tau : Int) : 0 ≤ tau - epochOf tau * 16384 ∧ tau - epochOf tau * 16384 < 16384 := by
  rw [← fmod_eq_sub_epochOf]
  exact ⟨Int.fmod_nonneg_of_pos tau (by decide), Int.fmod_lt_of_pos tau (by decide)⟩

theorem encodeTau_eq (tau : Int) : encodeTau tau = tagOf (epochOf tau) * 16384 + (tau - epochOf tau * 16384).toNat := by
  rw [encodeTau, fmod_eq_sub_epochOf]

/-- The upper bits of a time's code are its epoch's tag. -/
theorem encodeTau_div (tau : Int) : encodeTau tau / 16384 = tagOf (epochOf tau) := by
  have := epochOf_bounds tau
  rw [encodeTau_eq]; omega

/-- The lower bits of a time's code are its offset in its epoch. -/
theorem encodeTau_mod (tau : Int) : ((encodeTau tau % 16384 : Nat) : Int) = tau - epochOf tau * 16384 := by
  have := epochOf_bounds tau
  rw [encodeTau_eq]; omega

section
variable {ref : Int} {code : Nat}

theorem ageOf_of_currentTag (h : code / 16384 = tagOf (epochOf ref)) :
    ageOf ref code = some (ref - (epochOf ref * 16384 + (code % 16384 : Nat))) :=
  if_pos h

theorem ageOf_of_previousTag (h : code / 16384 = tagOf (epochOf ref + 2)) :
    ageOf ref code = some (ref - ((epochOf ref - 1) * 16384 + (code % 16384 : Nat))) :=
  (if_neg fun hc => tagOf_add_two_ne _ (h.symm.trans hc)).trans (if_pos h)

theorem ageOf_of_otherTag (hc : code / 16384 ≠ tagOf (epochOf ref)) (hp : code / 16384 ≠ tagOf (epochOf ref + 2)) :
    ageOf ref code = none :=
  (if_neg hc).trans (if_neg hp)

/-- An age lies between one epoch ahead of the reference and two epochs behind it (R92). -/
theorem ageOf_bounds {d : Int} (h : ageOf ref code = some d) : -16384 ≤ d ∧ d ≤ 32767 := by
  have href := epochOf_bounds ref
  by_cases hc : code / 16384 = tagOf (epochOf ref)
  · rw [ageOf_of_currentTag hc, Option.some_inj] at h
    omega
  by_cases hp : code / 16384 = tagOf (epochOf ref + 2)
  · rw [ageOf_of_previousTag hp, Option.some_inj] at h
    omega
  · rw [ageOf_of_otherTag hc hp] at h
    contradiction

/-- A time of the reference's epoch or of the one before it decodes to its own age. -/
theorem ageOf_encodeTau {tau : Int} (h : epochOf tau = epochOf ref ∨ epochOf tau = epochOf ref - 1) :
    ageOf ref (encodeTau tau) = some (ref - tau) := by
  have hdiv := encodeTau_div tau
  have hmod := encodeTau_mod tau
  rcases h with he | he <;> rw [he] at hdiv hmod
  · rw [ageOf_of_currentTag hdiv, hmod, add_sub_cancel]
  · rw [ageOf_of_previousTag (hdiv.trans (tagOf_sub_one _)), hmod, add_sub_cancel]

end

/-- Settles O15: the tags of an epoch and of the one before it differ, and an offset is less than an epoch. -/
theorem surfaceCodesDecode : Obligations.SurfaceCodesDecode := by
  unfold Obligations.SurfaceCodesDecode
  intro ref tau code _
  dsimp only
  rw [← tagOf_eq, ← tagOf_eq]
  exact ⟨ageOf_of_currentTag, ageOf_of_previousTag, ageOf_of_otherTag, fun _ => ageOf_bounds, ageOf_encodeTau⟩

end Sys2Proof.Machine

namespace Sys2Proof.Machine

/-! ## The checks that every command of the CMD rings meets (R376, R378, R280) -/

namespace Mach

section
variable {h : CmdHdr} (op : Nat) {m : Mach}

theorem preCheck_of_wrongPhase (hphase : h.phaseOk = false) : m.preCheck h op = some St.format := by
  unfold preCheck
  simp [hphase]

variable (hphase : h.phaseOk = true)
include hphase

theorem preCheck_of_wedged (hw : (m.fn.get h.fn).wedged = true) : m.preCheck h op = some St.wedged := by
  unfold preCheck
  simp [hphase, hw]

variable (hw : (m.fn.get h.fn).wedged = false)
include hw

theorem preCheck_of_reserved (hr : h.rsvdOk = false) : m.preCheck h op = some St.format := by
  unfold preCheck
  simp [hphase, hw, hr]

variable (hr : h.rsvdOk = true)
include hr

/-- The commands that only FN0 may give, and those that only the tick's owner may give. -/
theorem preCheck_of_notOwner
    (ho : ((op = 0x80 ∨ op = 0xF0) ∧ h.fn ≠ 0) ∨ ((op = 0x30 ∨ op = 0x32 ∨ op = 0x33) ∧ m.own.tick ≠ h.fn)) :
    m.preCheck h op = some St.owner := by
  unfold preCheck
  rcases ho with ho | ho <;> simp [hphase, hw, hr, ho]

theorem preCheck_of_finalCommit (hpf : (op = 0x80 ∨ op = 0xF0) → h.fn = 0)
    (htick : (op = 0x30 ∨ op = 0x32 ∨ op = 0x33) → m.own.tick = h.fn) (hj : m.jnl.pf ≠ none) : m.preCheck h op = some St.busy := by
  unfold preCheck
  rw [if_neg (by simp [hphase]), if_neg (by simp [hw]), if_neg (by simp [hr]), if_neg fun ho => ho.2 (hpf ho.1),
    if_neg fun ho => ho.2 (htick ho.1), if_pos (Option.isSome_iff_ne_none.2 hj)]

end

theorem command_of_not_fetchable {h : CmdHdr} {op : Nat} {owes : Bool} {judge : Mach → Option Nat} {accept : Nat → Mach → Accept}
    {m : Mach} (hf : m.fetchable h.fn = false) : m.command h op owes judge accept = m := by
  unfold command
  simp [hf]

theorem loadGraph_of_not_fetchable {h : CmdHdr} {m : Mach} (bytes : List Byte) (len dst : Nat) (repl : Option Nat)
    (hf : m.fetchable h.fn = false) : m.loadGraph h bytes len dst repl = m := by
  unfold loadGraph
  simp [hf]

end Mach

theorem idles_of_act {c : Instr} {s : State} {f : Mach → Mach} (hx : exec c s = s.act f) (hm : f s.toMach = s.toMach) : Idles c s := by
  unfold Idles
  rw [hx, State.act_eq, hm]

/-- A command of a CMD ring waits in its ring while it is not fetched, and where it is fetched the common checks judge it before its own. -/
structure JudgedFirst (c : Instr) (h : CmdHdr) (op : Nat) (s : State) : Prop where
  idles : s.fetchable h.fn = false → Idles c s
  rejects : s.fetchable h.fn = true → ∀ {code}, s.preCheck h op = some code → Rejects c h op code s

namespace JudgedFirst

theorem of_command {c : Instr} {h : CmdHdr} {op : Nat} {owes : Bool} {judge : Mach → Option Nat} {accept : Nat → Mach → Mach.Accept}
    {s : State} (hx : exec c s = s.act (Mach.command h op owes judge accept)) : JudgedFirst c h op s where
  idles hf := idles_of_act hx (Mach.command_of_not_fetchable hf)
  rejects hf code hc := command_rejects hx hf (by rw [hc]; rfl)

section
variable (h : CmdHdr) (s : State)

theorem mapRoles (bytes : List Byte) : JudgedFirst (.mapRoles h bytes) h 0x12 s := of_command (exec_mapRoles h bytes s)

/-! Three more commands name a value before they come to `Mach.command`. -/

theorem calibSet (mask : Nat) (table : List (List Int × Nat)) : JudgedFirst (.calibSet h mask table) h 0x40 s :=
  of_command (by show s.act (Mach.calibSet h mask table) = _; unfold Mach.calibSet; rfl)

theorem actionCancel (id : Nat) : JudgedFirst (.actionCancel h id) h 0x51 s :=
  of_command (by show s.act (Mach.actionCancel h id) = _; unfold Mach.actionCancel; rfl)

theorem ruleSet (first count : Nat) (bytes : List Byte) : JudgedFirst (.ruleSet h first count bytes) h 0x52 s :=
  of_command (by show s.act (Mach.ruleSet h first count bytes) = _; unfold Mach.ruleSet; rfl)

/-- LOAD_GRAPH, which has no first completion at its acceptance (R186), meets the same checks. -/
theorem loadGraph (bytes : List Byte) (len dst : Nat) (repl : Option Nat) :
    JudgedFirst (.loadGraph h bytes len dst repl) h 0x10 s where
  idles hf := idles_of_act (f := Mach.loadGraph h bytes len dst repl) rfl (Mach.loadGraph_of_not_fetchable bytes len dst repl hf)
  rejects hf code hc := by
    refine rejects_of_act (f := Mach.loadGraph h bytes len dst repl) rfl hf ?_
    unfold Mach.loadGraph
    simp only [hf, Bool.not_true, Bool.false_eq_true, if_false, Mach.preCheck_fetch, hc, Option.some_or]
    rfl

end

end JudgedFirst

/-- Settles O44: LOAD_GRAPH and the commands that `Mach.command` runs are all judged by `Mach.preCheck` first, whose checks stand in the
order of R378 with the final commit's last. -/
theorem commandsAreJudgedInOrder : Obligations.CommandsAreJudgedInOrder := by
  unfold Obligations.CommandsAreJudgedInOrder
  intro s h a b c d i j k p g n e bytes pairs table slots o all x hx
  have judged : ∀ y ∈ all, JudgedFirst y.1 h y.2 s := by
    simp only [all, List.forall_mem_cons, List.not_mem_nil, false_implies, implies_true, and_true]
    refine ⟨?_, ?_, .loadGraph h s bytes a b o, ?_, .mapRoles h s bytes, ?_, ?_, ?_, ?_, ?_, ?_, ?_, ?_, ?_, ?_, .calibSet h s a table, ?_, ?_,
      .actionCancel h s a, .ruleSet h s a b bytes, ?_, ?_, ?_, ?_, ?_, ?_, ?_⟩ <;> exact .of_command rfl
  obtain ⟨idles, rejects⟩ := judged x hx
  exact ⟨idles, fun hf =>
    ⟨fun hphase => rejects hf (Mach.preCheck_of_wrongPhase x.2 hphase),
      fun hphase hw => rejects hf (Mach.preCheck_of_wedged x.2 hphase hw),
      fun hphase hw hr => rejects hf (Mach.preCheck_of_reserved x.2 hphase hw hr),
      fun hphase hw hr ho => rejects hf (Mach.preCheck_of_notOwner x.2 hphase hw hr ho),
      fun hphase hw hr hpf htick hj => rejects hf (Mach.preCheck_of_finalCommit x.2 hphase hw hr hpf htick hj)⟩⟩

end Sys2Proof.Machine

namespace Sys2Proof.Tab

/-- A table whose entries at a key stay reads the same there. -/
theorem get_filterMap {α : Type} (d : Nat → α) (t : Tab α) (f : Nat × α → Option (Nat × α)) {k : Nat}
    (hk : ∀ e x, f e = some x → x.1 = e.1) (hs : ∀ e : Nat × α, e.1 = k → f e = some e) : get d (t.filterMap f) k = get d t k := by
  induction t with
  | nil => rfl
  | cons e r ih =>
    by_cases he : e.1 = k
    · rw [List.filterMap_cons_some (hs e he), get, get, if_pos he, if_pos he]
    · rw [get, if_neg he, ← ih]
      cases hf : f e with
      | none => rw [List.filterMap_cons_none hf]
      | some x => rw [List.filterMap_cons_some hf, get, if_neg (by rw [hk e x hf]; exact he)]

end Sys2Proof.Tab

namespace Sys2Proof.Machine

/-! ## The words that a wake leaves as they are (R24, R327) -/

/-- The sideband's registers, and the word that says which source woke the package: both on the AON island, which no wake and no warm
reset reaches (R24, R328). -/
def wakeKeeps (off : Nat) : Bool := decide (0x0C0000 ≤ off ∧ off < 0x0D0000) || decide (off = R.PWR_WAKE_LAST_SOURCE.a)

theorem wakeKeeps_iff {off : Nat} : wakeKeeps off = true ↔ (0x0C0000 ≤ off ∧ off < 0x0D0000) ∨ off = 0x20308 := by
  unfold wakeKeeps
  rw [Bool.or_eq_true, decide_eq_true_iff, decide_eq_true_iff]
  exact Iff.rfl

/-- Those words read as before. -/
def WordsKept (a b : Mach) : Prop := ∀ off, wakeKeeps off = true → b.rd off = a.rd off

namespace WordsKept

theorem refl (a : Mach) : WordsKept a a := fun _ _ => rfl

theorem trans {a b c : Mach} (h1 : WordsKept a b) (h2 : WordsKept b c) : WordsKept a c :=
  fun off h => (h2 off h).trans (h1 off h)

theorem forEach {α : Type} (xs : List α) (f : α → Mach → Mach) (h : ∀ x m, WordsKept m (f x m)) (m : Mach) :
    WordsKept m (forEach xs f m) :=
  forEach_keeps (WordsKept m) xs f (fun x t ht => ht.trans (h x t)) m (refl m)

theorem of_regs_eq {a b : Mach} (h : b.regs = a.regs) : WordsKept a b := fun _ _ => by unfold Mach.rd; rw [h]

theorem wr (m : Mach) {off : Nat} (w : Word) (h : wakeKeeps off = false) : WordsKept m (m.wr off w) :=
  fun _ ho => Mach.rd_wr_ne m w fun e => by rw [e, h] at ho; cases ho

theorem put (m : Mach) (f : Fld) (v : Nat) (h : wakeKeeps f.a = false) : WordsKept m (m.put f v) := wr m _ h

theorem set1 (m : Mach) (f : Fld) (h : wakeKeeps f.a = false) : WordsKept m (m.set1 f) := put m f 1 h

theorem of_recOnly {a b : Mach} (h : RecOnly a b) : WordsKept a b :=
  fun off ho => h.regs off (by rcases wakeKeeps_iff.1 ho with ho | ho <;> omega)

/-- Words of a block above the AON island's. -/
theorem wr_above (m : Mach) {off : Nat} (w : Word) (h : 0x0D0000 ≤ off) : WordsKept m (m.wr off w) :=
  wr m w (Bool.eq_false_iff.2 fun hk => by rcases wakeKeeps_iff.1 hk with hk | hk <;> omega)

theorem put_above (m : Mach) (f : Fld) (v : Nat) (h : 0x0D0000 ≤ f.a) : WordsKept m (m.put f v) := wr_above m _ h

end WordsKept

namespace Mach

/-! ### A package warm reset -/

/-- A fold that carries the machine beside a value keeps the registers that its steps keep. -/
theorem foldl_regs {α β : Type} (l : List α) {step : β × Mach → α → β × Mach} (h : ∀ s a, (step s a).2.regs = s.2.regs)
    (s : β × Mach) : (l.foldl step s).2.regs = s.2.regs := by
  induction l generalizing s with
  | nil => rfl
  | cons x r ih => rw [List.foldl_cons, ih, h]

theorem latchPads_wordsKept (m : Mach) : WordsKept m m.latchPads := by
  unfold latchPads
  extract_lets cut trig mask safe pps sens
  split
  rename_i imu m0 heq
  have h0 : m0.regs = m.regs := by
    rw [show m0 = (imu, m0).2 from rfl, ← heq]
    refine foldl_regs _ (fun s n => ?_) _
    rfl
  extract_lets m1
  have h1 : WordsKept m m1 := (WordsKept.of_regs_eq h0).trans (WordsKept.put m0 _ _ (by decide))
  refine WordsKept.trans ?_ (WordsKept.of_regs_eq (onRst_regs _ _))
  split
  · exact h1
  · exact h1.trans (WordsKept.set1 m1 R.IOC_STAT_TRUNC_PULSE (by decide))

theorem recordCause_wordsKept (code detail : Nat) (m : Mach) : WordsKept m (m.recordCause code detail) := by
  unfold recordCause
  refine WordsKept.trans ?_ (WordsKept.put _ R.RST_CAUSE_STICKY_CAUSES _ (by decide))
  refine WordsKept.trans ?_ (WordsKept.of_regs_eq (onRst_regs _ _))
  exact (WordsKept.put m R.RST_CAUSE_LAST_CODE code (by decide)).trans (WordsKept.put _ R.RST_CAUSE_LAST_DETAIL detail (by decide))

theorem setQuality_wordsKept (q : Quality) (m : Mach) : WordsKept m (m.setQuality q) := by
  unfold setQuality
  split
  · exact WordsKept.refl m
  · exact (WordsKept.of_regs_eq (b := m.onTime _) rfl).trans (WordsKept.of_recOnly (timeStatus_recOnly _ _ _ _ _ _ _))

theorem doneOne_regs (f : Fin 8) (e : Cpl) (m : Mach) : (m.doneOne f e).regs = m.regs := (cplWrite_cplOnly f e _).regs

theorem fencesDone_wordsKept (f : Fin 8) (m : Mach) : WordsKept m (m.fencesDone f) := by
  refine WordsKept.forEach _ _ (fun q t => ?_) m
  split
  · exact WordsKept.refl t
  · exact WordsKept.of_regs_eq (doneOne_regs f _ t)

theorem endOwed_wordsKept (f : Fin 8) (m : Mach) : WordsKept m (m.endOwed f) :=
  (WordsKept.forEach _ _ (fun _ t => WordsKept.of_regs_eq (doneOne_regs f _ t)) m).trans (fencesDone_wordsKept f _)

/-- A function's page does not reach the words of the AON island. -/
theorem wakeKeeps_fnPage (f : Nat) {k : Nat} (h : k < 0x1000) : wakeKeeps (fnPage f + k) = false := by
  refine Bool.eq_false_iff.2 fun hk => ?_
  have := wakeKeeps_iff.1 hk
  unfold fnPage at this
  split at this <;> omega

theorem stopRings_wordsKept (f : Fin 8) (m : Mach) : WordsKept m (m.stopRings f) := by
  unfold stopRings
  refine ((WordsKept.of_regs_eq (b := m.onFn f _) rfl).trans (WordsKept.forEach _ _ (fun r t => ?_) _)).trans
    (WordsKept.forEach _ _ (fun v t => ?_) _)
  · exact WordsKept.put t _ _ (by rw [R.HIF_F_RING_CFG_EN, Nat.add_assoc]; exact wakeKeeps_fnPage f (by omega))
  · exact WordsKept.wr t _ (by rw [R.HIF_F_MOD_A, Nat.add_assoc]; exact wakeKeeps_fnPage f (by omega))

theorem aonReg_of_wakeKeeps {off : Nat} (h : wakeKeeps off = true) : aonReg off = true := by
  rcases wakeKeeps_iff.1 h with h | rfl
  · simp only [aonReg, Bool.or_eq_true, Bool.and_eq_true, decide_eq_true_eq]; omega
  · decide

/-- The clearing of a warm reset keeps the AON island's registers (R24). -/
theorem warmClear_rd (m : Mach) {off : Nat} (h : aonReg off = true) : m.warmClear.rd off = m.rd off := by
  unfold warmClear rd
  refine Tab.get_filterMap _ _ _ (fun e x hx => ?_) fun e he => by rw [he, if_pos h]
  dsimp only at hx
  split at hx
  · cases hx; rfl
  · split at hx
    · split at hx
      · cases hx
      · cases hx; rfl
    · cases hx

theorem warmReset_wordsKept (code detail : Nat) (m : Mach) : WordsKept m (m.warmReset code detail) := by
  unfold warmReset
  split
  · exact WordsKept.refl m
  · extract_lets m0 m1 m2
    have h0 : WordsKept m m0 := (latchPads_wordsKept m).trans (recordCause_wordsKept code detail _)
    have h1 : WordsKept m0 m1 := by
      unfold m1
      split
      · exact setQuality_wordsKept _ _
      · exact WordsKept.refl m0
    have h2 : WordsKept m1 m2 := WordsKept.forEach _ _ (fun f t => (stopRings_wordsKept f t).trans (endOwed_wordsKept f _)) m1
    have h3 : WordsKept m2 (m2.warmClear.onRst (warmUnit code m.elapsed)) :=
      fun off h => (onRst_rd _ _ off).trans (warmClear_rd m2 (aonReg_of_wakeKeeps h))
    refine (((h0.trans h1).trans h2).trans h3).trans ?_
    generalize m2.warmClear.onRst (warmUnit code m.elapsed) = m3
    exact (WordsKept.put m3 R.PWR_CAP _ (by decide)).trans (WordsKept.put _ R.RST_WARM_COUNT _ (by decide))

/-- A warm reset that power-on reset does not override holds the package, awake (R24, R412, R417). -/
theorem warmReset_of_not_por (code detail : Nat) {m : Mach} (h : m.rst.hold ≠ some .por) :
    (m.warmReset code detail).rst.hold = some (.warm code) ∧ (m.warmReset code detail).sleep.state = 0 := by
  unfold warmReset
  rw [if_neg h]
  exact ⟨rfl, rfl⟩

/-- While a warm reset or power-on reset holds the package, the ROM waits for no image. -/
theorem warmReset_hold (code detail : Nat) (m : Mach) : (m.warmReset code detail).rst.hold ≠ none := by
  by_cases h : m.rst.hold = some .por
  · unfold warmReset; rw [if_pos h, h]; simp
  · rw [(warmReset_of_not_por code detail h).1]; simp

end Mach

/-! ### A wake from S2 -/

/-- The ports, engines and links that start again: none of them reaches the AON island. -/
structure Restarted (a b : Mach) : Prop where
  parts : OnlyIn [.regs, .port, .fe, .eng, .fus, .link] a b
  words : WordsKept a b

namespace Restarted

theorem refl (a : Mach) : Restarted a a := ⟨OnlyIn.refl _ a, WordsKept.refl a⟩

theorem trans {a b c : Mach} (h1 : Restarted a b) (h2 : Restarted b c) : Restarted a c :=
  ⟨h1.parts.trans h2.parts, h1.words.trans h2.words⟩

theorem forEach {α : Type} (xs : List α) (f : α → Mach → Mach) (h : ∀ x m, Restarted m (f x m)) (m : Mach) :
    Restarted m (forEach xs f m) :=
  forEach_keeps (Restarted m) xs f (fun x t ht => ht.trans (h x t)) m (refl m)

/-- A field of a block above the AON island. -/
theorem put (m : Mach) (f : Fld) (v : Nat) (h : 0x0D0000 ≤ f.a) : Restarted m (m.put f v) :=
  ⟨(OnlyIn.put m f v).mono (by simp), WordsKept.put_above m f v h⟩

theorem onPort (m : Mach) (p : Fin 16) (u : Port → Port) : Restarted m (m.onPort p u) :=
  ⟨fun q hq => by cases q <;> first | rfl | simp at hq, WordsKept.of_regs_eq (Mach.onPort_regs m p u)⟩

theorem onFe (m : Mach) (p : Fin 16) (u : Fe → Fe) : Restarted m (m.onFe p u) :=
  ⟨fun q hq => by cases q <;> first | rfl | simp at hq, WordsKept.of_regs_eq (Mach.onFe_regs m p u)⟩

theorem onEng (m : Mach) (e : Fin 72) (u : Engine → Engine) : Restarted m (m.onEng e u) :=
  ⟨fun q hq => by cases q <;> first | rfl | simp at hq, WordsKept.of_regs_eq (Mach.onEng_regs m e u)⟩

theorem onFus (m : Mach) (u : Fusion → Fusion) : Restarted m (m.onFus u) :=
  ⟨fun q hq => by cases q <;> first | rfl | simp at hq, WordsKept.of_regs_eq (Mach.onFus_regs m u)⟩

theorem onLink (m : Mach) (l : Fin 4) (u : Link → Link) : Restarted m (m.onLink l u) :=
  ⟨fun q hq => by cases q <;> first | rfl | simp at hq, WordsKept.of_regs_eq (Mach.onLink_regs m l u)⟩

end Restarted

namespace Mach

theorem restartPort_restarted (p : Fin 16) (m : Mach) : Restarted m (m.restartPort p) := by
  unfold restartPort fitOff zeroSurface
  exact (((Restarted.onPort m p _).trans (Restarted.onPort _ p _)).trans (Restarted.onFe _ p _)).trans (Restarted.onFe _ p _)

theorem restartPorts_restarted (m : Mach) : Restarted m m.restartPorts := by
  refine Restarted.forEach _ _ (fun p t => ?_) m
  split
  · exact (Restarted.put t (R.ING_CTRL_EN p) 0 (by simp only [R.ING_CTRL_EN]; omega)).trans (Restarted.onPort _ p _)
  · exact restartPort_restarted p t

theorem loadBound_restarted (m : Mach) : Restarted m m.loadBound := by
  refine Restarted.forEach _ _ (fun e t => ?_) m
  split
  · split
    · exact Restarted.onEng t e _
    · exact Restarted.refl t
  · exact Restarted.refl t

theorem setLinkState_restarted (l : Fin 4) (st : Nat) (m : Mach) : Restarted m (m.setLinkState l st) := by
  unfold setLinkState
  split
  · exact Restarted.refl m
  · exact (Restarted.onLink m l _).trans (Restarted.put _ (R.LNK_STAT_CHG l) 1 (by simp only [R.LNK_STAT_CHG]; omega))

theorem refuseCheck_restarted (l : Fin 4) (m : Mach) : Restarted m (m.refuseCheck l) := by
  unfold refuseCheck
  split
  · exact Restarted.onFus m _
  · exact Restarted.refl m

theorem startTraining_restarted (l : Fin 4) (m : Mach) : Restarted m (m.startTraining l) :=
  ((Restarted.onLink m l _).trans (setLinkState_restarted l 1 _)).trans (refuseCheck_restarted l _)

/-- A wake from S2 sets the sleep unit, and starts ports, engines and links again. -/
theorem wakeS2_restarted (m : Mach) :
    Restarted (m.onSleep fun s => { s with state := 0, s2At := none, goS3 := false, waking := true, idleFrom := m.elapsed }) m.wakeS2 := by
  unfold wakeS2
  extract_lets m1 m2
  have h2 : Restarted m1 m2 := (restartPorts_restarted m1).trans (loadBound_restarted _)
  split
  · exact h2
  · exact h2.trans (Restarted.forEach _ _ (fun l t => startTraining_restarted l t) m2)

/-! ### The sideband as a wake source -/

theorem wakeS3_wordsKept (code : Nat) (m : Mach) : WordsKept m (m.wakeS3 code) := by
  unfold wakeS3
  refine ((warmReset_wordsKept code 0 m).trans (WordsKept.of_regs_eq (onSleep_regs _ _))).trans (WordsKept.forEach _ _ (fun n t => ?_) _)
  exact WordsKept.put_above t (R.MOT_ENC_STAT_DISCONT n) 1 (by simp only [R.MOT_ENC_STAT_DISCONT]; omega)

/-- Of a wake from S3 the loop over the encoders changes registers only. -/
theorem wakeS3_onlyIn (code : Nat) (m : Mach) :
    OnlyIn [.regs] ((m.warmReset code 0).onSleep fun s => { s with waking := true }) (m.wakeS3 code) :=
  OnlyIn.forEach _ _ (fun _ t => OnlyIn.set1 t _) _

/-- A wake records its source in one register, and its instant. -/
theorem recordWake_rd (source unit : Nat) (m : Mach) {off : Nat} (h : off ≠ R.PWR_WAKE_LAST_SOURCE.a) :
    (m.recordWake source unit).rd off = m.rd off := by
  unfold recordWake
  rw [onSleep_rd, rd_put_ne _ _ _ h, rd_put_ne _ R.PWR_WAKE_LAST_UNIT _ h, rd_put_ne _ R.PWR_WAKE_LAST_FROM _ h]

theorem recordWake_source {source : Nat} (unit : Nat) (m : Mach) (h : source < 2 ^ 8) :
    (m.recordWake source unit).g R.PWR_WAKE_LAST_SOURCE = source := by
  unfold recordWake
  rw [onSleep_g, g_put_self _ _ _ (by decide) (by decide)]
  exact Nat.mod_eq_of_lt h

theorem recordWake_onlyIn (source unit : Nat) (m : Mach) : OnlyIn [.regs, .sleep] m (m.recordWake source unit) := by
  unfold recordWake
  exact ((((OnlyIn.put m _ _).trans (OnlyIn.put _ _ _)).trans (OnlyIn.put _ _ _)).mono (by simp)).trans ((OnlyIn.onSleep _ _).mono (by simp))

theorem recordWake_rst (source unit : Nat) (m : Mach) : (m.recordWake source unit).rst = m.rst :=
  recordWake_onlyIn source unit m .rst (by decide)

theorem recordWake_chip (source unit : Nat) (m : Mach) : (m.recordWake source unit).chip = m.chip :=
  recordWake_onlyIn source unit m .chip (by decide)

/-- Whether the ROM waits is up to the reset unit and the straps. -/
theorem romWaits_congr {a b : Mach} (hr : b.rst = a.rst) (hc : b.chip = a.chip) (mode : Nat) : b.romWaits mode = a.romWaits mode := by
  unfold romWaits; rw [hr, hc]

theorem romWaits_of_held {m : Mach} (h : m.rst.hold ≠ none) (mode : Nat) : m.romWaits mode = false := by
  unfold romWaits; rw [Option.isNone_eq_false_iff.2 (Option.isSome_iff_ne_none.2 h)]; rfl

theorem abandonEntry_onlyIn (m : Mach) : OnlyIn [.sleep, .tick] m m.abandonEntry :=
  ((OnlyIn.onSleep m _).mono (by simp)).trans ((OnlyIn.onTick _ _).mono (by simp))

end Mach

/-- What a sideband transfer finds once it has acted as a wake source (R327): the sideband's registers as they were, no image awaited that
was not awaited before, an awake package as it was, and a sleeping one woken by it. -/
structure Stirs (a b : Mach) : Prop where
  words : ∀ off, 0x0C0000 ≤ off → off < 0x0D0000 → b.rd off = a.rd off
  waits : ∀ mode, a.romWaits mode = false → b.romWaits mode = false
  awake : a.Awake → b = a
  woken : a.sleep.state = 2 ∨ a.sleep.state = 3 → a.rst.hold ≠ some .por →
    b.sleep.state = 0 ∧ b.sleep.waking = true ∧ b.g R.PWR_WAKE_LAST_SOURCE = 1

namespace Stirs

theorem refl {a : Mach} (h2 : a.sleep.state ≠ 2) (h3 : a.sleep.state ≠ 3) : Stirs a a :=
  ⟨fun _ _ _ => rfl, fun _ h => h, fun _ => rfl, fun h => absurd h (by simp [h2, h3])⟩

theorem abandonEntry {a : Mach} (h : a.sleep.state = 0) (he : a.sleep.entering ≠ none) : Stirs a a.abandonEntry := by
  have hp := Mach.abandonEntry_onlyIn a
  refine ⟨fun off _ _ => ?_, fun mode hw => ?_, fun ha => absurd ha.2 he, fun hs => by simp [h] at hs⟩
  · unfold Mach.rd; rw [show a.abandonEntry.regs = a.regs from hp .regs (by decide)]
  · rw [Mach.romWaits_congr (hp .rst (by decide)) (hp .chip (by decide)), hw]

/-- The words that the wake itself keeps, behind the record of its source. -/
theorem words_of_recordWake {a b : Mach} (h : WordsKept (a.recordWake 1 0) b) :
    (∀ off, 0x0C0000 ≤ off → off < 0x0D0000 → b.rd off = a.rd off) ∧ b.g R.PWR_WAKE_LAST_SOURCE = 1 := by
  refine ⟨fun off hlo hhi => ?_, ?_⟩
  · rw [h off (wakeKeeps_iff.2 (.inl ⟨hlo, hhi⟩))]
    exact Mach.recordWake_rd 1 0 a (by rw [R.PWR_WAKE_LAST_SOURCE]; dsimp only; omega)
  · rw [← Mach.recordWake_source 0 a (source := 1) (by decide)]
    unfold Mach.g
    rw [h R.PWR_WAKE_LAST_SOURCE.a (wakeKeeps_iff.2 (.inr rfl))]

theorem wakeS2 {a : Mach} (h : a.sleep.state = 2) : Stirs a (a.recordWake 1 0).wakeS2 := by
  have hr := Mach.wakeS2_restarted (a.recordWake 1 0)
  have hp := (OnlyIn.onSleep (a.recordWake 1 0) _).append hr.parts
  obtain ⟨hwords, hsource⟩ := words_of_recordWake ((WordsKept.of_regs_eq (Mach.onSleep_regs _ _)).trans hr.words)
  have hsleep := (hr.parts .sleep (by decide)).trans (Mach.onSleep_sleep _ _)
  refine ⟨hwords, fun mode hw => ?_, fun ha => absurd (ha.1.symm.trans h) (by decide), fun _ _ => ⟨?_, ?_, hsource⟩⟩
  · rw [Mach.romWaits_congr ((hp .rst (by decide)).trans (Mach.recordWake_rst 1 0 a))
      ((hp .chip (by decide)).trans (Mach.recordWake_chip 1 0 a)), hw]
  · rw [hsleep]
  · rw [hsleep]

theorem wakeS3 {a : Mach} (h : a.sleep.state = 3) (code : Nat) : Stirs a ((a.recordWake 1 0).wakeS3 code) := by
  have hp := Mach.wakeS3_onlyIn code (a.recordWake 1 0)
  obtain ⟨hwords, hsource⟩ := words_of_recordWake (Mach.wakeS3_wordsKept code (a.recordWake 1 0))
  have hsleep := (hp .sleep (by decide)).trans (Mach.onSleep_sleep _ _)
  have hrst := (hp .rst (by decide)).trans (Mach.onSleep_rst _ _)
  refine ⟨hwords, fun mode _ => ?_, fun ha => absurd (ha.1.symm.trans h) (by decide), fun _ hpor => ⟨?_, ?_, hsource⟩⟩
  · exact Mach.romWaits_of_held (by rw [hrst]; exact Mach.warmReset_hold code 0 _) mode
  · rw [← Mach.recordWake_rst 1 0 a] at hpor
    rw [hsleep]; exact (Mach.warmReset_of_not_por code 0 hpor).2
  · rw [hsleep]

end Stirs

/-- A sideband transfer is a wake source (R327, R434). -/
theorem stir_stirs (m : Mach) : Stirs m (m.stir 1 0) := by
  unfold Mach.stir
  split
  · case isTrue h => exact .refl (by simp [h.1]) (by simp [h.1])
  · case isFalse hawake =>
    unfold Mach.wake
    split
    · case isTrue h => exact .abandonEntry h.1 (Option.isSome_iff_ne_none.1 h.2.1)
    · split
      · case isTrue h =>
        have h' : m.sleep.state ≠ 2 ∧ m.sleep.state ≠ 3 := by
          constructor <;> intro e <;> simp [e, Mach.wakesFrom, Mach.wakeUnitOk] at h
        exact .refl h'.1 h'.2
      · case isFalse h =>
        extract_lets m1
        split
        · case isTrue h3 => exact .wakeS3 h3 _
        · case isFalse h3 =>
          have h2 : m.sleep.state = 2 := by
            by_contra h2; simp [Mach.wakesFrom, h2] at h; exact h3 h.1
          rw [if_neg (by decide)]
          exact .wakeS2 h2

theorem OnlyIn.onRst (m : Mach) (u : ResetUnit → ResetUnit) : OnlyIn [.rst] m (m.onRst u) := by
  intro p hp; cases p <;> first | rfl | simp at hp

/-! ## The sideband's commands (R434, R435) -/

/-- A sideband transfer has woken the package where it slept (R327). -/
def WokenBySideband (a t : Mach) : Prop :=
  a.sleep.state = 2 ∨ a.sleep.state = 3 → a.rst.hold ≠ some .por →
    t.sleep.state = 0 ∧ t.sleep.waking = true ∧ t.g R.PWR_WAKE_LAST_SOURCE = 1

/-- A sideband write is discarded: a flag says why and a counter counts it, and no command counts as taken (R435). -/
def Discards (flag count : Fld) (a t : Mach) : Prop :=
  t.g flag = 1 ∧ t.g count = (a.g count + 1) % 2 ^ 32 ∧ t.g R.SBI_CMDS = a.g R.SBI_CMDS ∧
    (a.Awake → RegsBut [flag.a, count.a] a t ∧ OnlyIn [.regs] a t) ∧ WokenBySideband a t

namespace Mach

/-! ### A write without a STOP, with a bad PEC, and a valid one -/

section
variable (code : Nat) (f : Mach → Mach) (m : Mach)

theorem sbWrite_of_noStop (pecOk : Bool) : m.sbWrite code pecOk false f = (m.sbLast code).sbIncomplete := by
  unfold sbWrite; rw [Bool.not_false, if_pos rfl]

theorem sbWrite_of_badPec : m.sbWrite code false true f = ((m.sbLast code).set1 R.SBI_STAT_PEC_BAD).inc R.SBI_PEC_ERR := by
  unfold sbWrite; rw [Bool.not_true, if_neg Bool.false_ne_true, Bool.not_false, if_pos rfl]

theorem sbWrite_of_valid : m.sbWrite code true true f = f (m.sbLast code) := by
  unfold sbWrite; rw [Bool.not_true, if_neg Bool.false_ne_true, if_neg Bool.false_ne_true]

end

/-! ### The last command, and a command taken -/

theorem sbLast_rd (code : Nat) (m : Mach) {off : Nat} (h : off ≠ R.SBI_STAT_LAST_CMD.a) : (m.sbLast code).rd off = m.rd off :=
  rd_put_ne m R.SBI_STAT_LAST_CMD code h

theorem sbLast_g (code : Nat) (m : Mach) {fd : Fld} (h : fd.a ≠ R.SBI_STAT_LAST_CMD.a) : (m.sbLast code).g fd = m.g fd :=
  g_put_ne m R.SBI_STAT_LAST_CMD fd code h

theorem sbLast_regsBut (code : Nat) (m : Mach) : RegsBut [R.SBI_STAT_LAST_CMD.a] m (m.sbLast code) := fun _ h =>
  sbLast_rd code m (by rwa [List.mem_singleton] at h)

theorem sbLast_onlyIn (code : Nat) (m : Mach) : OnlyIn [.regs] m (m.sbLast code) := OnlyIn.put m _ _

theorem sbLast_romWaits (code mode : Nat) (m : Mach) : (m.sbLast code).romWaits mode = m.romWaits mode :=
  romWaits_congr (sbLast_onlyIn code m .rst (by decide)) (sbLast_onlyIn code m .chip (by decide)) mode

theorem sbTaken_rd (code : Nat) (m : Mach) {off : Nat} (hl : off ≠ R.SBI_STAT_LAST_CMD.a) (hc : off ≠ R.SBI_CMDS.a) :
    (m.sbTaken code).rd off = m.rd off :=
  (rd_put_ne _ R.SBI_CMDS _ hc).trans (sbLast_rd code m hl)

theorem sbTaken_g_cmds (code : Nat) (m : Mach) : (m.sbTaken code).g R.SBI_CMDS = (m.g R.SBI_CMDS + 1) % 2 ^ 32 := by
  unfold sbTaken; rw [g_inc_word _ R.SBI_CMDS rfl rfl, sbLast_g code m (by decide)]

theorem sbTaken_g_last {code : Nat} (m : Mach) (h : code < 2 ^ 8) : (m.sbTaken code).g R.SBI_STAT_LAST_CMD = code := by
  unfold sbTaken inc addTo sbLast
  rw [g_put_ne _ _ _ _ (by decide), g_put_self _ _ _ (by decide) (by decide)]
  exact Nat.mod_eq_of_lt h

theorem sbTaken_onlyIn (code : Nat) (m : Mach) : OnlyIn [.regs] m (m.sbTaken code) := (sbLast_onlyIn code m).trans (OnlyIn.inc _ _)

theorem emit_statusBytes (m : Mach) (o : Out) : (m.emit o).statusBytes = m.statusBytes := rfl

theorem put_shownState (m : Mach) (f : Fld) (v : Nat) : (m.put f v).shownState = m.shownState := rfl

theorem sbTaken_shownState (code : Nat) (m : Mach) : (m.sbTaken code).shownState = m.shownState := by
  unfold sbTaken sbLast inc addTo; rw [put_shownState, put_shownState]

/-- No byte of STATUS shows the sideband's own registers. -/
theorem sbTaken_statusBytes (code : Nat) (m : Mach) : (m.sbTaken code).statusBytes = m.statusBytes := by
  have hcause : (m.sbTaken code).g R.RST_CAUSE_LAST_CODE = m.g R.RST_CAUSE_LAST_CODE := by
    unfold g; rw [sbTaken_rd code m (by decide) (by decide)]
  unfold statusBytes
  rw [hcause, sbTaken_shownState, show (m.sbTaken code).rst = m.rst from sbTaken_onlyIn code m .rst (by decide)]

theorem sbStatus_out (m : Mach) : m.sbStatus.out.head? = some (.sideband m.sbStatus.statusBytes) := by
  unfold sbStatus
  rw [emit_statusBytes, sbTaken_statusBytes, emit_out, List.head?_cons]

/-! ### A loaded image -/

theorem otherFirmware_regs (m : Mach) : m.otherFirmware.regs = m.regs := rfl

theorem otherFirmware_onlyIn (m : Mach) : OnlyIn [.chip, .draws] m m.otherFirmware := by
  intro p hp; cases p <;> first | rfl | simp at hp

theorem imageLoaded_onlyIn (ok : Bool) (m : Mach) : OnlyIn [.chip, .regs, .rst, .draws] m (m.imageLoaded ok) := by
  have booted : ∀ u v, OnlyIn [.chip, .regs, .rst, .draws] m ((m.onRst u).put R.GLB_BOOT_STAT v) := fun u v =>
    ((OnlyIn.onRst m u).mono (by simp)).trans ((OnlyIn.put _ _ _).mono (by simp))
  unfold imageLoaded
  cases ok with
  | true => exact (booted _ _).trans ((otherFirmware_onlyIn _).mono (by simp))
  | false => exact (booted _ _).trans ((OnlyIn.inc _ _).mono (by simp))

theorem imageLoaded_rst (ok : Bool) (m : Mach) :
    (m.imageLoaded ok).rst =
      if ok then { m.rst with fwVerified := true, bootErr := 0, sbImage := [] } else { m.rst with bootErr := 4, sbImage := [] } := by
  unfold imageLoaded
  cases ok with
  | true => exact otherFirmware_onlyIn _ .rst (by decide)
  | false => rw [if_neg Bool.false_ne_true, if_neg Bool.false_ne_true, inc_rst, put_rst, onRst_rst]

theorem imageLoaded_rd (ok : Bool) (m : Mach) {off : Nat} (hb : off ≠ R.GLB_BOOT_STAT.a) (hf : off ≠ R.SEC_FW_VERIFY_FAIL.a) :
    (m.imageLoaded ok).rd off = m.rd off := by
  unfold imageLoaded
  cases ok with
  | true => rw [if_pos rfl, rd, otherFirmware_regs]; exact rd_put_ne _ R.GLB_BOOT_STAT 0 hb
  | false => exact (rd_put_ne _ R.SEC_FW_VERIFY_FAIL _ hf).trans (rd_put_ne _ R.GLB_BOOT_STAT 3 hb)

theorem imageLoaded_bootStat (ok : Bool) (m : Mach) : (m.imageLoaded ok).g R.GLB_BOOT_STAT = if ok then 0 else 3 := by
  unfold imageLoaded
  cases ok with
  | true => rw [if_pos rfl, if_pos rfl, g, rd, otherFirmware_regs]; exact g_put_self _ R.GLB_BOOT_STAT 0 (by decide) (by decide)
  | false =>
    rw [if_neg Bool.false_ne_true, if_neg Bool.false_ne_true, inc, addTo, g_put_ne _ _ _ _ (by decide)]
    exact g_put_self _ R.GLB_BOOT_STAT 3 (by decide) (by decide)

theorem imageLoaded_fails (m : Mach) :
    (m.imageLoaded false).g R.SEC_FW_VERIFY_FAIL = (m.g R.SEC_FW_VERIFY_FAIL + 1) % 2 ^ 32 := by
  unfold imageLoaded
  rw [if_neg Bool.false_ne_true, g_inc_word _ R.SEC_FW_VERIFY_FAIL rfl rfl, g_put_ne _ _ _ _ (by decide), onRst_g]

/-! ### Pads (R430) -/

theorem fireHeldLate_actOnly (m : Mach) : ActOnly m m.fireHeldLate := by
  unfold fireHeldLate
  split
  · exact ActOnly.refl m
  · exact ActOnly.forEach _ _ (fun (e : Nat × Action) t => lateAction_actOnly _ e.2 t) m

/-- Where no late entry waits, nothing pulses. -/
theorem fireHeldLate_of_none {m : Mach} (h : m.jnl.actions.all (fun (e : Nat × Action) => e.2.lateBy.isNone) = true) : m.fireHeldLate = m := by
  unfold fireHeldLate
  split
  · rfl
  · rw [List.filter_eq_nil_iff.2 fun (e : Nat × Action) he => ?_]
    · rfl
    · have := Option.isNone_iff_eq_none.1 (List.all_eq_true.1 h e he)
      simp [this]

/-- The reset unit with groups of pads released. -/
def padsReleased (mask : BitVec 5) (r : ResetUnit) : ResetUnit :=
  { r with held := r.held &&& ~~~mask, padTrig := if mask.getLsbD 0 then List.replicate 8 none else r.padTrig,
           padPps := if mask.getLsbD 1 then none else r.padPps,
           padSens := if mask.getLsbD 2 then List.replicate 16 (none, none, none) else r.padSens,
           padImu := if mask.getLsbD 4 then List.replicate 4 (none, none, none) else r.padImu }

theorem releasePads_eq (mask : BitVec 5) (m : Mach) : m.releasePads mask = (m.onRst (padsReleased mask)).fireHeldLate := rfl

theorem releasePads_rst (mask : BitVec 5) (m : Mach) : (m.releasePads mask).rst = padsReleased mask m.rst := by
  rw [releasePads_eq]; exact (fireHeldLate_actOnly _).parts .rst (by decide)

theorem releasePads_onlyIn (mask : BitVec 5) (m : Mach) : OnlyIn [.regs, .time, .tick, .jnl, .rst, .cache] m (m.releasePads mask) := by
  rw [releasePads_eq]
  exact ((OnlyIn.onRst m _).mono (by simp)).trans ((fireHeldLate_actOnly _).parts.mono (by simp))

theorem releasePads_onlyIn_of_none (mask : BitVec 5) {m : Mach} (h : m.jnl.actions.all (fun (e : Nat × Action) => e.2.lateBy.isNone) = true) :
    OnlyIn [.rst] m (m.releasePads mask) := by
  rw [releasePads_eq, fireHeldLate_of_none (by rw [onRst_jnl]; exact h)]; exact OnlyIn.onRst m _

/-! ### The TAP (R483, R484) -/

/-- The codes of the public set work always, but for those that take pads once READY; the others work only unlocked. -/
theorem tapEffect_eq (ir : Nat) (m : Mach) :
    m.tapEffect ir = if m.rst.ready = true ∧ (ir = 0 ∨ ir = 3 ∨ ir = 4) then 15
      else if ir ≤ 4 ∨ ir = 15 ∨ m.rst.unlocked = true then ir else 15 := by
  unfold tapEffect tapTakesPads tapPublic
  simp only [Bool.and_eq_true, Bool.or_eq_true, beq_iff_eq, decide_eq_true_eq, or_assoc]

end Mach

/-! ## What each transfer does -/

namespace Mach

/-- A flag is set and its counter counts one: what a discarded write leaves. -/
def flagged (flag count : Fld) (m : Mach) : Mach := (m.set1 flag).inc count

section
variable {flag count : Fld} (m : Mach)

theorem flagged_onlyIn : OnlyIn [.regs] m (m.flagged flag count) := (OnlyIn.set1 m flag).trans (OnlyIn.inc _ count)

theorem flagged_rd {off : Nat} (hf : off ≠ flag.a) (hc : off ≠ count.a) : (m.flagged flag count).rd off = m.rd off :=
  (rd_put_ne _ count _ hc).trans (rd_put_ne m flag 1 hf)

theorem flagged_flag (hone : flag.lo = flag.hi) (hlt : flag.hi < 32) (hne : flag.a ≠ count.a) : (m.flagged flag count).g flag = 1 :=
  (g_put_ne _ count flag _ hne).trans (g_set1 m flag hone hlt)

theorem flagged_count (hhi : count.hi = 31) (hlo : count.lo = 0) (hne : count.a ≠ flag.a) :
    (m.flagged flag count).g count = (m.g count + 1) % 2 ^ 32 := by
  unfold flagged set1
  rw [g_inc_word _ count hhi hlo, g_put_ne m flag count 1 hne]

end

end Mach

/-- A flag of SBI_STAT with a counter of the discarded writes. -/
structure DiscardPair (flag count : Fld) : Prop where
  flagReg : flag.a = R.SBI_STAT_LAST_CMD.a
  flagBit : flag.lo = flag.hi ∧ flag.hi < 32
  countReg : R.SBI_CMDS.a < count.a ∧ count.a < 0x0D0000
  countWord : count.hi = 31 ∧ count.lo = 0

theorem incomplete_discardPair : DiscardPair R.SBI_STAT_INCOMPLETE R.SBI_INCOMPLETE := by constructor <;> decide
theorem badPec_discardPair : DiscardPair R.SBI_STAT_PEC_BAD R.SBI_PEC_ERR := by constructor <;> decide
theorem badKey_discardPair : DiscardPair R.SBI_STAT_KEY_BAD R.SBI_KEY_ERR := by constructor <;> decide

/-- What is flagged on the package as the transfer finds it, the last command apart, is discarded. -/
theorem DiscardPair.discards {flag count : Fld} {a b x : Mach} (h : DiscardPair flag count) (hb : Stirs a b)
    (hxr : RegsBut [R.SBI_STAT_LAST_CMD.a] b x) (hxp : OnlyIn [.regs] b x) : Discards flag count a (x.flagged flag count) := by
  obtain ⟨hflag, ⟨hone, hlt⟩, ⟨hlo, hhi⟩, hword, hzero⟩ := h
  have hlast : R.SBI_STAT_LAST_CMD.a = 0x0C0008 := rfl
  have hcmds : R.SBI_CMDS.a = 0x0C0100 := rfl
  have hrd : ∀ off, off ≠ flag.a → off ≠ count.a → (x.flagged flag count).rd off = b.rd off := fun off h1 h2 =>
    (x.flagged_rd h1 h2).trans (hxr off (by rw [List.mem_singleton, ← hflag]; exact h1))
  have hparts := hxp.trans (x.flagged_onlyIn (flag := flag) (count := count))
  refine ⟨x.flagged_flag hone hlt (by omega), ?_, ?_, fun hawake => ?_, fun hs hpor => ?_⟩
  · rw [x.flagged_count hword hzero (by omega)]
    unfold Mach.g
    rw [hxr _ (by rw [List.mem_singleton]; omega), hb.words _ (by omega) hhi]
  · unfold Mach.g
    rw [hrd _ (by omega) (by omega), hb.words _ (by decide) (by decide)]
  · obtain rfl := hb.awake hawake
    refine ⟨fun off ho => ?_, hparts⟩
    simp only [List.mem_cons, List.not_mem_nil, or_false, not_or] at ho
    exact hrd off ho.1 ho.2
  · have hsource : R.PWR_WAKE_LAST_SOURCE.a = 0x020308 := rfl
    rw [hparts .sleep (by decide), Mach.g, hrd _ (by omega) (by omega)]
    exact hb.woken hs hpor

section
variable {c : Instr} {s : State} {code : Nat} {f : Mach → Mach}

/-- A write command without a STOP is incomplete. -/
theorem noStop_incomplete {pecOk : Bool} (hx : exec c s = s.act fun m => (m.stir 1 0).sbWrite code pecOk false f) :
    Does c s (Discards R.SBI_STAT_INCOMPLETE R.SBI_INCOMPLETE s.toMach) :=
  does_of_act hx (Mach.sbWrite_of_noStop code f _ pecOk)
    (incomplete_discardPair.discards (stir_stirs s.toMach) (Mach.sbLast_regsBut code _) (Mach.sbLast_onlyIn code _))

theorem badPec_discards (hx : exec c s = s.act fun m => (m.stir 1 0).sbWrite code false true f) :
    Does c s (Discards R.SBI_STAT_PEC_BAD R.SBI_PEC_ERR s.toMach) :=
  does_of_act hx (Mach.sbWrite_of_badPec code f _)
    (badPec_discardPair.discards (stir_stirs s.toMach) (Mach.sbLast_regsBut code _) (Mach.sbLast_onlyIn code _))

/-- A valid write that its own conditions turn away is incomplete too. -/
theorem valid_incomplete (hx : exec c s = s.act fun m => (m.stir 1 0).sbWrite code true true f)
    (hf : f ((s.stir 1 0).sbLast code) = ((s.stir 1 0).sbLast code).sbIncomplete) :
    Does c s (Discards R.SBI_STAT_INCOMPLETE R.SBI_INCOMPLETE s.toMach) :=
  does_of_act hx ((Mach.sbWrite_of_valid code f _).trans hf)
    (incomplete_discardPair.discards (stir_stirs s.toMach) (Mach.sbLast_regsBut code _) (Mach.sbLast_onlyIn code _))

end

section
variable {s : State}

theorem loadData_turnedAway {bytes : List Byte}
    (h : (s.romWaits 2 && decide (1 ≤ bytes.length) && decide (bytes.length ≤ 32)) = false) :
    Does (.loadData bytes true true) s (Discards R.SBI_STAT_INCOMPLETE R.SBI_INCOMPLETE s.toMach) := by
  refine valid_incomplete rfl (if_neg ?_)
  rw [Mach.sbLast_romWaits]
  intro hb
  simp only [Bool.and_eq_true] at hb
  rw [hb.1.2, hb.2, Bool.and_true, Bool.and_true] at h
  exact Bool.false_ne_true (((stir_stirs s.toMach).waits 2 h).symm.trans hb.1.1)

theorem loadEnd_turnedAway {ok : Bool} (h : s.romWaits 2 = false) :
    Does (.loadEnd true true ok) s (Discards R.SBI_STAT_INCOMPLETE R.SBI_INCOMPLETE s.toMach) := by
  refine valid_incomplete rfl (if_neg ?_)
  rw [Mach.sbLast_romWaits, (stir_stirs s.toMach).waits 2 h]
  exact Bool.false_ne_true

/-- A RESET whose key is wrong, or that is not enabled (R434). -/
theorem sidebandReset_turnedAway {key : Nat} (h : s.on R.SBI_CFG_RST_EN = false ∨ key ≠ s.g R.SBI_KEY) :
    Does (.sidebandReset key true true) s (Discards R.SBI_STAT_KEY_BAD R.SBI_KEY_ERR s.toMach) := by
  have hb := stir_stirs s.toMach
  have hg : ∀ fd : Fld, 0x0C0000 ≤ fd.a → fd.a < 0x0D0000 → fd.a ≠ R.SBI_STAT_LAST_CMD.a →
      ((s.stir 1 0).sbLast 0xE5).g fd = s.g fd := fun fd h1 h2 h3 => by
    rw [Mach.sbLast_g _ _ h3]; unfold Mach.g; rw [hb.words _ h1 h2]
  refine does_of_act (f := fun m => (m.stir 1 0).sbReset key true true) rfl ((Mach.sbWrite_of_valid _ _ _).trans (if_neg ?_))
    (badKey_discardPair.discards hb (Mach.sbLast_regsBut 0xE5 _) (Mach.sbLast_onlyIn 0xE5 _))
  rw [hg R.SBI_KEY (by decide) (by decide) (by decide), Mach.on, hg R.SBI_CFG_RST_EN (by decide) (by decide) (by decide)]
  rintro ⟨hon, hkey⟩
  rcases h with h | h
  · exact Bool.false_ne_true (h.symm.trans hon)
  · exact h hkey

theorem stir_of_awake (h : s.Awake) : s.stir 1 0 = s.toMach := (stir_stirs s.toMach).awake h

/-- LOAD_DATA while the ROM waits for the sideband: the bytes follow those of the image so far. -/
theorem loadData_taken {bytes : List Byte}
    (h : (s.romWaits 2 && decide (1 ≤ bytes.length) && decide (bytes.length ≤ 32)) = true) (ha : s.Awake) :
    Does (.loadData bytes true true) s fun t =>
      t.rst = { s.rst with sbImage := s.rst.sbImage ++ bytes } ∧ t.g R.SBI_CMDS = (s.g R.SBI_CMDS + 1) % 2 ^ 32 ∧
      t.g R.SBI_STAT_LAST_CMD = 0xB0 ∧ RegsBut [R.SBI_STAT_LAST_CMD.a, R.SBI_CMDS.a] s.toMach t ∧ OnlyIn [.regs, .rst] s.toMach t := by
  have hp := (Mach.sbLast_onlyIn 0xB0 s.toMach).trans (Mach.sbTaken_onlyIn 0xB0 _)
  refine does_of_act (f := fun m => (m.stir 1 0).sbLoadData bytes true true)
    (t := ((s.sbLast 0xB0).sbTaken 0xB0).onRst fun r => { r with sbImage := r.sbImage ++ bytes }) rfl ?_ ⟨?_, ?_, ?_, fun off ho => ?_, ?_⟩
  · rw [stir_of_awake ha]
    exact (Mach.sbWrite_of_valid _ _ _).trans (if_pos (by rw [Mach.sbLast_romWaits]; exact h))
  · rw [Mach.onRst_rst, show ((s.sbLast 0xB0).sbTaken 0xB0).rst = s.rst from hp .rst (by decide)]
  · rw [Mach.onRst_g, Mach.sbTaken_g_cmds, Mach.sbLast_g _ _ (by decide)]
  · rw [Mach.onRst_g, Mach.sbTaken_g_last _ (by decide)]
  · simp only [List.mem_cons, List.not_mem_nil, or_false, not_or] at ho
    rw [Mach.onRst_rd, Mach.sbTaken_rd _ _ ho.1 ho.2, Mach.sbLast_rd _ _ ho.1]
  · exact (hp.mono (by simp)).trans ((OnlyIn.onRst _ _).mono (by simp))

/-- LOAD_END while the ROM waits for the sideband: the image is verified, or the boot error says that it was not. -/
theorem loadEnd_taken {ok : Bool} (h : s.romWaits 2 = true) (ha : s.Awake) :
    Does (.loadEnd true true ok) s fun t =>
      t.rst = (if ok then { s.rst with fwVerified := true, bootErr := 0, sbImage := [] } else { s.rst with bootErr := 4, sbImage := [] }) ∧
      t.g R.SBI_CMDS = (s.g R.SBI_CMDS + 1) % 2 ^ 32 ∧ t.g R.SBI_STAT_LAST_CMD = 0xB1 ∧ t.g R.GLB_BOOT_STAT = (if ok then 0 else 3) ∧
      (ok = false → t.g R.SEC_FW_VERIFY_FAIL = (s.g R.SEC_FW_VERIFY_FAIL + 1) % 2 ^ 32) ∧
      RegsBut [R.SBI_STAT_LAST_CMD.a, R.SBI_CMDS.a, R.GLB_BOOT_STAT.a, R.SEC_FW_VERIFY_FAIL.a] s.toMach t ∧
      OnlyIn [.chip, .regs, .rst, .draws] s.toMach t := by
  have hp := (Mach.sbLast_onlyIn 0xB1 s.toMach).trans (Mach.sbTaken_onlyIn 0xB1 _)
  have hg : ∀ fd : Fld, fd.a ≠ R.GLB_BOOT_STAT.a → fd.a ≠ R.SEC_FW_VERIFY_FAIL.a →
      (((s.sbLast 0xB1).sbTaken 0xB1).imageLoaded ok).g fd = ((s.sbLast 0xB1).sbTaken 0xB1).g fd := fun fd h1 h2 => by
    unfold Mach.g; rw [Mach.imageLoaded_rd _ _ h1 h2]
  refine does_of_act (f := fun m => (m.stir 1 0).sbLoadEnd true true ok) (t := ((s.sbLast 0xB1).sbTaken 0xB1).imageLoaded ok) rfl ?_
    ⟨?_, ?_, ?_, Mach.imageLoaded_bootStat ok _, fun hok => ?_, fun off ho => ?_, ?_⟩
  · rw [stir_of_awake ha]
    exact (Mach.sbWrite_of_valid _ _ _).trans (if_pos (by rw [Mach.sbLast_romWaits]; exact h))
  · rw [Mach.imageLoaded_rst, show ((s.sbLast 0xB1).sbTaken 0xB1).rst = s.rst from hp .rst (by decide)]
  · rw [hg _ (by decide) (by decide), Mach.sbTaken_g_cmds, Mach.sbLast_g _ _ (by decide)]
  · rw [hg _ (by decide) (by decide), Mach.sbTaken_g_last _ (by decide)]
  · subst hok
    rw [Mach.imageLoaded_fails]
    unfold Mach.g
    rw [Mach.sbTaken_rd _ _ (by decide) (by decide), Mach.sbLast_rd _ _ (by decide)]
  · simp only [List.mem_cons, List.not_mem_nil, or_false, not_or] at ho
    obtain ⟨hl, hc, hb, hf⟩ := ho
    rw [Mach.imageLoaded_rd _ _ hb hf, Mach.sbTaken_rd _ _ hl hc, Mach.sbLast_rd _ _ hl]
  · exact (hp.mono (by simp)).trans (Mach.imageLoaded_onlyIn ok _)

/-- STATUS answers from the package as the transfer leaves it, and counts as taken. -/
theorem status_answers :
    Does .status s fun t =>
      t.out.head? = some (.sideband t.statusBytes) ∧ t.g R.SBI_CMDS = (s.g R.SBI_CMDS + 1) % 2 ^ 32 ∧ t.g R.SBI_STAT_LAST_CMD = 0x01 ∧
      WokenBySideband s.toMach t ∧
      (s.Awake → RegsBut [R.SBI_STAT_LAST_CMD.a, R.SBI_CMDS.a] s.toMach t ∧ OnlyIn [.regs, .out] s.toMach t) := by
  have hb := stir_stirs s.toMach
  refine does_of_act (f := fun m => (m.stir 1 0).sbStatus) rfl rfl
    ⟨Mach.sbStatus_out _, ?_, ?_, fun hs hpor => ?_, fun ha => ⟨fun off ho => ?_, ?_⟩⟩
  · unfold Mach.sbStatus
    rw [Mach.emit_g, Mach.sbTaken_g_cmds]
    unfold Mach.g
    rw [hb.words _ (by decide) (by decide)]
  · unfold Mach.sbStatus
    rw [Mach.emit_g, Mach.sbTaken_g_last _ (by decide)]
  · obtain ⟨hstate, hwaking, hsource⟩ := hb.woken hs hpor
    unfold Mach.sbStatus
    rw [Mach.emit_sleep, show ((s.stir 1 0).sbTaken 1).sleep = _ from Mach.sbTaken_onlyIn 1 _ .sleep (by decide), Mach.emit_g]
    refine ⟨hstate, hwaking, ?_⟩
    unfold Mach.g
    rw [Mach.sbTaken_rd _ _ (by decide) (by decide)]
    exact hsource
  · simp only [List.mem_cons, List.not_mem_nil, or_false, not_or] at ho
    unfold Mach.sbStatus
    rw [Mach.emit_rd, Mach.sbTaken_rd _ _ ho.1 ho.2, stir_of_awake ha]
  · rw [stir_of_awake ha]
    exact ((Mach.sbTaken_onlyIn 1 s.toMach).mono (by simp)).trans ((OnlyIn.emit _ _).mono (by simp))

/-! ## What each other command does -/

theorem iocRelease_releases (mask : BitVec 5) :
    Does (.iocRelease mask) s fun t =>
      t.rst = Mach.padsReleased mask s.rst ∧
      (s.jnl.actions.all (fun (e : Nat × Action) => e.2.lateBy.isNone) = true → OnlyIn [.rst] s.toMach t) ∧
      OnlyIn [.regs, .time, .tick, .jnl, .rst, .cache] s.toMach t :=
  does_of_act (f := Mach.releasePads mask) rfl rfl
    ⟨Mach.releasePads_rst mask s.toMach, Mach.releasePads_onlyIn_of_none mask, Mach.releasePads_onlyIn mask s.toMach⟩

theorem rstTLastRead_latches :
    Does .rstTLastRead s fun t =>
      t.rd R.RST_T_LAST_LO_A = BitVec.ofNat 32 (toBits 64 s.rst.tLast) ∧
      t.rd R.RST_T_LAST_HI_A = BitVec.ofNat 32 (toBits 64 s.rst.tLast / 2 ^ 32) ∧
      t.out.head? = some (.readValue R.RST_T_LAST_LO_A (BitVec.ofNat 32 (toBits 64 s.rst.tLast))) ∧
      RegsBut [R.RST_T_LAST_LO_A, R.RST_T_LAST_HI_A] s.toMach t ∧ OnlyIn [.regs, .out] s.toMach t := by
  have hlo : (s.put64 R.RST_T_LAST_LO_A R.RST_T_LAST_HI_A s.rst.tLast).rd R.RST_T_LAST_LO_A = BitVec.ofNat 32 (toBits 64 s.rst.tLast) :=
    Mach.rd_put64_lo _ _ (by decide)
  refine does_of_act (f := Mach.tLastRead) rfl rfl ?_
  unfold Mach.tLastRead
  extract_lets m1
  refine ⟨hlo, Mach.rd_put64_hi _ _ _ _, ?_, fun off ho => ?_, ?_⟩
  · rw [show m1.rd R.RST_T_LAST_LO_A = _ from hlo]; rfl
  · simp only [List.mem_cons, List.not_mem_nil, or_false, not_or] at ho
    rw [Mach.emit_rd, Mach.rd_put64_ne _ _ ho.1 ho.2]
  · exact (((OnlyIn.wr _ _ _).trans (OnlyIn.wr _ _ _)).mono (by simp)).trans ((OnlyIn.emit _ _).mono (by simp))

/-- A TAP instruction changes the reset unit only. -/
theorem jtagInstruction_loads (ir : BitVec 4) (trst : Bool) :
    Does (.jtagInstruction ir trst) s fun t =>
      t.rst = (if trst then { s.rst with jtagIr := 2, jtagEff := 2 }
        else { s.rst with jtagIr := ir.toNat, jtagEff := s.tapEffect ir.toNat }) ∧ OnlyIn [.rst] s.toMach t := by
  refine does_of_act (f := Mach.jtag ir trst) rfl rfl ?_
  unfold Mach.jtag
  cases trst with
  | true => exact ⟨Mach.onRst_rst _ _, OnlyIn.onRst _ _⟩
  | false => exact ⟨Mach.onRst_rst _ _, OnlyIn.onRst _ _⟩

end

/-- A command that does one thing does what follows from it. -/
theorem Does.imp {c : Instr} {s : State} {P Q : Mach → Prop} (h : Does c s P) (hPQ : ∀ t, P t → Q t) : Does c s Q := by
  obtain ⟨t, hx, hq, hP⟩ := h
  exact ⟨t, hx, hq, hPQ _ hP⟩

/-- Settles O59: every sideband transfer first acts as a wake source, which leaves the sideband's registers as they were (`stir_stirs`); then
a write is discarded with its flag and count, or taken. The pads and the TAP are the reset unit's alone. -/
theorem sidebandPadsAndTap : Obligations.SidebandPadsAndTap := by
  unfold Obligations.SidebandPadsAndTap
  intro s bytes pecOk ok key a mask ir trst waits counted woken incomplete badPec loads i
  refine ⟨?_, ?_, ?_, sidebandReset_turnedAway, loadData_turnedAway, loadData_taken, loadEnd_turnedAway, loadEnd_taken, status_answers,
    fun ha => ?_, fun ha => ?_, ?_, rstTLastRead_latches, ?_⟩
  · simp only [List.forall_mem_cons, List.not_mem_nil, false_implies, implies_true, and_true]
    exact ⟨noStop_incomplete rfl, noStop_incomplete rfl, noStop_incomplete rfl⟩
  · simp only [List.forall_mem_cons, List.not_mem_nil, false_implies, implies_true, and_true]
    exact ⟨badPec_discards rfl, badPec_discards rfl, badPec_discards rfl⟩
  · exact does_of_act (f := fun m => (m.stir 1 0).sbIncomplete) rfl rfl
      (incomplete_discardPair.discards (stir_stirs s.toMach) (RegsBut.refl _ _) (OnlyIn.refl _ _))
  · exact does_of_act (f := Mach.i3cAddress a) rfl (if_pos ha) ⟨rfl, OnlyIn.onRst _ _⟩
  · exact idles_of_act (f := Mach.i3cAddress a) rfl (if_neg (Nat.not_lt.2 ha))
  · refine (iocRelease_releases mask).imp fun t ⟨hrst, hnone, hparts⟩ => ?_
    rw [hrst]
    exact ⟨rfl, fun h => if_pos h, fun h => if_neg (Bool.eq_false_iff.1 h), fun h => if_neg (Bool.eq_false_iff.1 h),
      fun h => if_neg (Bool.eq_false_iff.1 h), fun h => if_neg (Bool.eq_false_iff.1 h), rfl, hnone, hparts⟩
  · refine (jtagInstruction_loads ir trst).imp fun t ⟨hrst, hparts⟩ => ?_
    rw [hrst]
    cases trst with
    | true => exact ⟨fun _ => rfl, fun h => absurd h (by decide), hparts⟩
    | false => exact ⟨fun h => absurd h (by decide), fun _ => ⟨rfl, Mach.tapEffect_eq i s.toMach, rfl, rfl⟩, hparts⟩

end Sys2Proof.Machine

namespace Sys2Proof.Machine

/-! ## The queue -/

/-- Every command is a meaning over the package (`State.act`): it answers a next state and leaves the queue as it is. -/
theorem exec_next (c : Instr) (s : State) : ∃ t : State, exec c s = .next t ∧ t.pending = s.pending := by
  cases c <;> exact ⟨_, rfl, rfl⟩

/-- A step answers a next state whose queue has lost its front command, if any. -/
theorem step_next (s : State) : ∃ t : State, step s = .next t ∧ t.pending = s.pending.tail := by
  unfold step
  cases hq : s.pending with
  | nil => exact ⟨_, rfl, rfl⟩
  | cons c rest => exact exec_next c { s with pending := rest }

/-- A run's first step, then the others. -/
theorem run_succ {s u : State} (k : Nat) (h : step s = .next u) : core.run (k + 1) s = core.run k u := by
  have hs : core.step s = .next u := h
  simp only [Host.Core.run, hs]

/-- Settles O1: both clauses are the two arms of `step`. -/
theorem stepRunsTheFrontCommand : Obligations.StepRunsTheFrontCommand := by
  unfold Obligations.StepRunsTheFrontCommand
  constructor
  · intro s c rest hq
    unfold step
    rw [hq]
  · intro s hq
    unfold step
    rw [hq]
    rfl

/-- Settles O2, by induction on the number of steps: each takes the front of the queue (`step_next`). -/
theorem everyRunContinuesInQueueOrder : Obligations.EveryRunContinuesInQueueOrder := by
  unfold Obligations.EveryRunContinuesInQueueOrder Consumed
  intro k
  induction k with
  | zero => exact fun s => ⟨s, rfl, rfl⟩
  | succ k ih =>
    intro s
    obtain ⟨u, hu, hqu⟩ := step_next s
    obtain ⟨t, ht, hqt⟩ := ih u
    exact ⟨t, (run_succ k hu).trans ht, by rw [hqt, hqu, List.drop_tail]⟩

/-- Settles O5: the reset state is a closed value, and each clause is read off it. -/
theorem powerOnResetState : Obligations.PowerOnResetState := by
  unfold Obligations.PowerOnResetState Canonical QueueWf
  refine ⟨⟨rfl, rfl, by decide +kernel⟩, by decide, rfl, rfl, rfl, rfl, rfl, by decide +kernel, by decide +kernel,
    by decide +kernel, rfl, by decide +kernel, by decide +kernel, by decide +kernel, rfl, rfl, by decide +kernel, by decide +kernel,
    by decide +kernel, rfl, rfl, rfl, rfl, rfl, by decide +kernel, by decide +kernel, by decide +kernel, by decide +kernel⟩

end Sys2Proof.Machine

namespace Sys2Proof.Machine

/-! ## The auction (R234, R235)

The argument is the usual one for an auction with ε-scaling: prices are such that every owner of a column is content with it up to ε
(ε-complementary slackness), so at ε = 1 the assignment is within n of every other, and benefits are multiples of n + 1. -/

/-- The best column of a list stands in it and no other has a greater value. -/
theorem bestCol_spec {l : List (Nat × Int)} {x : Nat × Int} (h : bestCol l = some x) : x ∈ l ∧ ∀ y ∈ l, y.2 ≤ x.2 := by
  cases l with
  | nil => exact absurd h (by simp [bestCol])
  | cons z r =>
    obtain rfl : _ = x := Option.some.inj h
    clear h
    induction r generalizing z with
    | nil => simp
    | cons y r ih =>
      obtain ⟨hm, hle⟩ := ih (if z.2 < y.2 then y else z)
      have hz : z.2 ≤ (if z.2 < y.2 then y else z).2 ∧ y.2 ≤ (if z.2 < y.2 then y else z).2 := by split <;> omega
      have hpick : (if z.2 < y.2 then y else z) = z ∨ (if z.2 < y.2 then y else z) = y := by split <;> simp
      rw [List.foldl_cons]
      refine ⟨?_, fun w hw => ?_⟩
      · rcases List.mem_cons.1 hm with e | e
        · rw [e]; rcases hpick with q | q <;> rw [q] <;> simp
        · exact List.mem_cons_of_mem _ (List.mem_cons_of_mem _ e)
      · have hhead := hle _ List.mem_cons_self
        rcases List.mem_cons.1 hw with rfl | hw
        · exact hz.1.trans hhead
        · rcases List.mem_cons.1 hw with rfl | hw
          · exact hz.2.trans hhead
          · exact hle w (List.mem_cons_of_mem _ hw)

namespace Auction

variable {n : Nat} {a : Nat → Nat → Option Int}

/-- The price of a column. -/
def cost (s : Auction) (j : Nat) : Int := (s.price[j]?).getD 0

/-- Row i is content with column j: it may take j, and no column that it may take is worth more to it by more than ε. -/
structure Content (n : Nat) (a : Nat → Nat → Option Int) (s : Auction) (i j : Nat) : Prop where
  row : i < n
  may : (a i j).isSome = true
  best : ∀ k < n, ∀ v ∈ a i k, v - s.cost k ≤ (a i j).getD 0 - s.cost j + s.eps

/-- What every bid keeps: a price and an owner for each column, and every owner is content. -/
structure Sound (n : Nat) (a : Nat → Nat → Option Int) (s : Auction) : Prop where
  prices : s.price.length = n
  owners : s.owner.length = n
  eps : 1 ≤ s.eps
  content : ∀ i j, s.owner[j]? = some (some i) → Content n a s i j

/-- Without owners only the lengths and ε matter. -/
theorem Sound.start {s : Auction} (hp : s.price.length = n) (he : 1 ≤ s.eps) : Sound n a { s with owner := List.replicate n none } :=
  ⟨hp, List.length_replicate, he, fun i j h => by simp [List.getElem?_replicate] at h⟩

/-- What a bid does: nothing where the row may take no column, and otherwise it takes a column j that it may take, whose price rises at
least by ε and at most to where j is worth to the row what the best other column is, less ε. -/
theorem bid_cases (s : Auction) (i : Nat) :
    s.bid n a i = s ∨
    ∃ j < n, ∃ d v : Int, s.bid n a i = { s with price := s.price.modify j (· + d), owner := s.owner.set j (some i) } ∧ s.eps ≤ d ∧
      a i j = some v ∧ ∀ k < n, k ≠ j → ∀ w ∈ a i k, w - s.cost k ≤ v - s.cost j - d + s.eps := by
  unfold bid
  set vals := (List.range n).filterMap fun j => (a i j).map fun v => (j, v - (s.price[j]?).getD 0) with hvals
  have mem_vals : ∀ k w, (k, w) ∈ vals ↔ k < n ∧ ∃ v ∈ a i k, v - s.cost k = w := by
    intro k w
    simp [hvals, cost]
  dsimp only
  split
  · exact .inl rfl
  · rename_i j v1 hbest
    right
    obtain ⟨hin, hmax⟩ := bestCol_spec hbest
    obtain ⟨hj, v, hv, rfl⟩ := (mem_vals j v1).1 hin
    have bids : ∀ v2 : Int, v2 ≤ v - s.cost j → (∀ x ∈ vals, x.1 ≠ j → x.2 ≤ v2) →
        ∃ c < n, ∃ d u : Int,
          ({ s with price := s.price.modify j fun p => p + (v - s.cost j - v2 + s.eps), owner := s.owner.set j (some i) } : Auction) =
            { s with price := s.price.modify c (· + d), owner := s.owner.set c (some i) } ∧ s.eps ≤ d ∧
          a i c = some u ∧ ∀ k < n, k ≠ c → ∀ w ∈ a i k, w - s.cost k ≤ u - s.cost c - d + s.eps := by
      refine fun v2 hle hall => ⟨j, hj, v - s.cost j - v2 + s.eps, v, rfl, by omega, hv, fun k hk hkj w hw => ?_⟩
      have := hall (k, w - s.cost k) ((mem_vals _ _).2 ⟨hk, w, hw, rfl⟩) hkj
      dsimp only at this
      omega
    split
    · rename_i x hb
      obtain ⟨hx, hxmax⟩ := bestCol_spec hb
      exact bids _ (hmax x (List.mem_of_mem_filter hx)) fun y hy hne => hxmax y (List.mem_filter.2 ⟨hy, by simpa using hne⟩)
    · rename_i hb
      refine bids (v - s.cost j - 2 * 65535 * ((n : Int) + 1)) (by omega) fun y hy hne => ?_
      have hin : y ∈ vals.filter fun x => x.1 != j := List.mem_filter.2 ⟨hy, by simpa using hne⟩
      cases hf : vals.filter fun x => x.1 != j with
      | nil => rw [hf] at hin; cases hin
      | cons x r => rw [hf] at hb; cases hb

/-- The prices after a bid on column j. -/
theorem cost_modify (s : Auction) {j : Nat} (d : Int) (o : List (Option Nat)) (hj : j < s.price.length) (k : Nat) :
    ({ s with price := s.price.modify j (· + d), owner := o } : Auction).cost k = if k = j then s.cost j + d else s.cost k := by
  unfold cost
  rw [List.getElem?_modify]
  by_cases h : k = j
  · subst h; simp [hj]
  · simp [h, Ne.symm h]

theorem Sound.bid {s : Auction} (h : Sound n a s) {i : Nat} (hi : i < n) : Sound n a (s.bid n a i) := by
  rcases bid_cases (n := n) (a := a) s i with e | ⟨j, hj, d, v, e, hd, hv, hbest⟩
  · rwa [e]
  · rw [e]
    have heps := h.eps
    have hc := cost_modify s d (s.owner.set j (some i)) (h.prices.symm ▸ hj)
    refine ⟨by simp [h.prices], by simp [h.owners], heps, fun r c hrc => ?_⟩
    by_cases hcj : c = j
    · subst hcj
      have hr : i = r := by simpa [h.owners, hj] using hrc
      subst hr
      refine ⟨hi, by simp [hv], fun k hk w hw => ?_⟩
      rw [hc, hc, if_pos rfl, hv]
      by_cases hkc : k = c
      · subst hkc
        have : v = w := by simpa [hv] using hw
        simp [this]; omega
      · have := hbest k hk hkc w hw
        simp [hkc]; omega
    · have hold : s.owner[c]? = some (some r) := by simpa [Ne.symm hcj] using hrc
      obtain ⟨hrow, hmay, hold⟩ := h.content r c hold
      refine ⟨hrow, hmay, fun k hk w hw => ?_⟩
      have := hold k hk w hw
      rw [hc, hc, if_neg hcj]
      dsimp only
      split <;> rename_i hkj
      · subst hkj; omega
      · exact this

/-- A run that ends within its bids ends in a sound state at ε = 1 in which every row owns a column. -/
theorem run_spec {k : Nat} {s : Auction} {own : List (Option Nat)} (h : Sound n a s) (hr : run n a k s = some own) :
    ∃ t, Sound n a t ∧ t.eps = 1 ∧ t.owner = own ∧ ∀ i < n, some i ∈ own := by
  induction k generalizing s with
  | zero => exact absurd hr (by simp [run])
  | succ k ih =>
    unfold run at hr
    split at hr
    · rename_i i hi
      exact ih (h.bid (List.mem_range.1 (List.mem_of_find?_eq_some hi))) hr
    · rename_i hnone
      split at hr
      · rename_i heps
        refine ⟨s, h, heps, Option.some.inj hr, fun i hi => ?_⟩
        have := List.find?_eq_none.1 hnone i (List.mem_range.2 hi)
        rw [← Option.some.inj hr]
        simpa using this
      · have hs : Sound n a { s with eps := max 1 (s.eps / 4), owner := List.replicate n none } :=
          Sound.start (s := { s with eps := max 1 (s.eps / 4) }) h.prices (le_max_left _ _)
        rcases Nat.eq_zero_or_pos n with hn | hn
        · refine ih (s := ({ s with eps := max 1 (s.eps / 4), owner := List.replicate n none } : Auction).bid n a 0) ?_ hr
          have : ({ s with eps := max 1 (s.eps / 4), owner := List.replicate n none } : Auction).bid n a 0 =
              { s with eps := max 1 (s.eps / 4), owner := List.replicate n none } := by
            subst hn; rfl
          rw [this]; exact hs
        · exact ih (hs.bid hn) hr

end Auction

/-- Every benefit is a multiple of the number of rows plus 1 (R234). -/
theorem benefit_dvd (b : List GPair) (ms cs : List Nat) (spawn miss i j : Nat) :
    ∀ v ∈ benefit b ms cs spawn miss i j, ((ms.length + cs.length + 1 : Nat) : Int) ∣ v := by
  intro v hv
  unfold benefit at hv
  dsimp only at hv
  have neg : ∀ c : Int, ((ms.length + cs.length + 1 : Nat) : Int) ∣ -(((ms.length + cs.length + 1 : Nat) : Int) * c) :=
    fun c => (Dvd.intro _ rfl).neg_right
  split at hv
  · split at hv
    · obtain ⟨p, -, rfl⟩ := Option.map_eq_some_iff.1 hv
      exact neg _
    · split at hv
      · obtain rfl := Option.some.inj hv; exact neg _
      · cases hv
  · split at hv
    · obtain rfl := Option.some.inj hv; exact neg _
    · split at hv
      · obtain rfl := Option.some.inj hv; exact dvd_zero _
      · cases hv

/-- Where n columns are owned by each of n rows, every column belongs to one row and the other way round. -/
theorem exists_perm_of_owners {n : Nat} {own : List (Option Nat)} (hlen : own.length = n) (hall : ∀ i < n, some i ∈ own) :
    ∃ τ : Equiv.Perm (Fin n), own = List.ofFn fun j => some (τ j).1 := by
  have hcol : ∀ i : Fin n, ∃ j : Fin n, own[j.1]? = some (some i.1) := fun i => by
    obtain ⟨j, hj, e⟩ := List.mem_iff_getElem.1 (hall i.1 i.2)
    exact ⟨⟨j, hlen ▸ hj⟩, by simp [hj, e]⟩
  choose col hcol using hcol
  have hinj : Function.Injective col := fun i k e => by
    have := (hcol i).symm.trans (e ▸ hcol k)
    simpa [Fin.ext_iff] using this
  let τ := Equiv.ofBijective col (Finite.injective_iff_bijective.1 hinj)
  refine ⟨τ.symm, List.ext_getElem (by simp [hlen]) fun j hj _ => ?_⟩
  have := hcol (τ.symm ⟨j, hlen ▸ hj⟩)
  rw [show col (τ.symm ⟨j, hlen ▸ hj⟩) = ⟨j, hlen ▸ hj⟩ from τ.apply_symm_apply _] at this
  simpa [hj] using this

/-- A sound auction at ε = 1 in which row τ j owns column j is at least as good as any other assignment, where benefits are multiples of
n + 1. -/
theorem Auction.Sound.optimal {n : Nat} {a : Nat → Nat → Option Int} {t : Auction} (h : t.Sound n a) (he : t.eps = 1)
    (τ σ : Equiv.Perm (Fin n)) (hown : t.owner = List.ofFn fun j => some (τ j).1) (hσ : ∀ i : Fin n, (a i (σ i)).isSome = true)
    (hdvd : ∀ i j, ∀ v ∈ a i j, ((n + 1 : Nat) : Int) ∣ v) :
    ∑ i : Fin n, (a i (σ i)).getD 0 ≤ ∑ j : Fin n, (a (τ j) j).getD 0 := by
  have hdvd' : ∀ i j, ((n + 1 : Nat) : Int) ∣ (a i j).getD 0 := fun i j => by
    cases hv : a i j with
    | none => exact dvd_zero _
    | some v => exact hdvd i j v hv
  have hcs : ∀ j : Fin n, (a (τ j) (σ (τ j))).getD 0 - t.cost (σ (τ j)) ≤ (a (τ j) j).getD 0 - t.cost j + 1 := fun j => by
    obtain ⟨v, hv⟩ := Option.isSome_iff_exists.1 (hσ (τ j))
    have := (h.content (τ j) j (by rw [hown]; simp)).best (σ (τ j)) (σ (τ j)).2 v hv
    rw [hv, ← he]
    exact this
  have hsum := Finset.sum_le_sum fun j (_ : j ∈ Finset.univ) => hcs j
  simp only [Finset.sum_sub_distrib, Finset.sum_add_distrib, Finset.sum_const, Finset.card_univ, Fintype.card_fin, nsmul_eq_mul,
    mul_one] at hsum
  have hprice : ∑ j : Fin n, t.cost (σ (τ j)) = ∑ j : Fin n, t.cost j := Equiv.sum_comp (τ.trans σ) fun j : Fin n => t.cost j
  have hleft : ∑ j : Fin n, (a (τ j) (σ (τ j))).getD 0 = ∑ i : Fin n, (a i (σ i)).getD 0 :=
    Equiv.sum_comp τ fun i : Fin n => (a i (σ i)).getD 0
  obtain ⟨x, hx⟩ := Finset.dvd_sum fun (i : Fin n) (_ : i ∈ Finset.univ) => hdvd' i (σ i)
  obtain ⟨y, hy⟩ := Finset.dvd_sum fun (j : Fin n) (_ : j ∈ Finset.univ) => hdvd' (τ j) j
  rw [hprice, hleft, hx, hy] at hsum
  rw [hx, hy]
  have hxy : x ≤ y := by
    by_contra hlt
    have : ((n + 1 : Nat) : Int) * (y + 1) ≤ ((n + 1 : Nat) : Int) * x := Int.mul_le_mul_of_nonneg_left (by omega) (by positivity)
    push_cast at this hsum
    linarith
  exact Int.mul_le_mul_of_nonneg_left hxy (by positivity)

/-- Settles O26: a run that ends is sound at ε = 1 with every row an owner (`Auction.run_spec`), and such a state is optimal
(`Auction.Sound.optimal`). -/
theorem auctionIsLeastCost : Obligations.AuctionIsLeastCost := by
  unfold Obligations.AuctionIsLeastCost
  intro b spawn miss bids own ms cs n a hrun
  obtain ⟨t, ht, heps, rfl, hall⟩ := Auction.run_spec (Auction.Sound.start (s := ⟨_, [], _⟩) List.length_replicate (le_max_left _ _)) hrun
  obtain ⟨τ, hτ⟩ := exists_perm_of_owners ht.owners hall
  refine ⟨ht.owners, fun i hi => ?_, fun j _ i hi => ?_, fun σ hσ => ?_⟩
  · refine List.count_eq_one_of_mem ?_ (hall i hi)
    rw [hτ]
    exact List.nodup_ofFn.2 fun j k e => τ.injective (Fin.ext (Option.some.inj e))
  · have := ht.content i j (by simpa [Option.join_eq_some_iff] using hi)
    exact ⟨this.row, this.may⟩
  · have := ht.optimal heps τ σ hτ hσ (benefit_dvd b ms cs spawn miss)
    rw [Fin.sum_univ_def, Fin.sum_univ_def] at this
    refine this.trans_eq (congrArg List.sum (List.map_congr_left fun j _ => ?_))
    rw [hτ]
    simp

end Sys2Proof.Machine

namespace Sys2Proof.Machine

/-! ## What a function of the model may change

`Within l a b`: from a to b only the parts of l change, the memories stay canonical, and no frequency rises above the level of its
voltage. One lemma `f_within` for each function f of the model says which parts f may change; longer ones follow from shorter ones. -/

/-- On every die the level of the frequency is at most the level of the voltage in force (R316). -/
def LevelsOk (m : Mach) : Prop := ∀ d : Fin 4, (m.lvl.get d).freq ≤ (m.lvl.get d).volt

/-- Only the parts of l change, and the invariants of the memories and of the levels are kept. -/
structure Within (l : List Part) (a b : Mach) : Prop where
  parts : OnlyIn l a b
  canonical : Canonical a → Canonical b
  levels : LevelsOk a → LevelsOk b

namespace Within

theorem refl (l : List Part) (a : Mach) : Within l a a := ⟨OnlyIn.refl l a, id, id⟩

theorem trans {l : List Part} {a b c : Mach} (h1 : Within l a b) (h2 : Within l b c) : Within l a c :=
  ⟨h1.parts.trans h2.parts, h2.canonical ∘ h1.canonical, h2.levels ∘ h1.levels⟩

theorem mono {k l : List Part} {a b : Mach} (h : Within k a b) (hs : ∀ p ∈ k, p ∈ l := by decide +kernel) : Within l a b :=
  ⟨h.parts.mono hs, h.canonical, h.levels⟩

/-- A further update whose parts are among those named. -/
theorem after {k l : List Part} {a b c : Mach} (h2 : Within k b c) (h1 : Within l a b) (hs : ∀ p ∈ k, p ∈ l := by decide +kernel) : Within l a c :=
  h1.trans (h2.mono hs)

/-- An update of parts that hold neither a memory nor a level. -/
theorem of_onlyIn {l : List Part} {a b : Mach} (h : OnlyIn l a b)
    (hl : Part.regs ∉ l ∧ Part.dram ∉ l ∧ Part.eng ∉ l ∧ Part.lvl ∉ l := by decide +kernel) : Within l a b := by
  obtain ⟨hr, hd, he, hv⟩ := hl
  have regs : b.regs = a.regs := h .regs hr
  have dram : b.dram = a.dram := h .dram hd
  have eng : b.eng = a.eng := h .eng he
  have lvl : b.lvl = a.lvl := h .lvl hv
  refine ⟨h, fun hc => ?_, fun hc => ?_⟩
  · unfold Canonical; rw [regs, dram, eng]; exact hc
  · unfold LevelsOk; rw [lvl]; exact hc

/-- A loop changes what each of its rounds may change. -/
theorem loop {α : Type} {l : List Part} {a m : Mach} {xs : List α} {f : α → Mach → Mach} (h : ∀ x t, Within l t (f x t))
    (hm : Within l a m) : Within l a (forEach xs f m) :=
  forEach_keeps (Within l a) xs f (fun x t ht => ht.trans (h x t)) m hm

/-- The same for a loop that folds over a list. -/
theorem foldl {α : Type} {l : List Part} {a m : Mach} {xs : List α} {f : Mach → α → Mach} (h : ∀ t x, Within l t (f t x))
    (hm : Within l a m) : Within l a (xs.foldl f m) := by
  induction xs generalizing m with
  | nil => exact hm
  | cons x r ih => exact ih (hm.trans (h m x))

/-- The second component of a pair that is known. -/
theorem snd {α : Type} {l : List Part} {b c : Mach} {p : α × Mach} {x : α} (he : p = (x, c)) (h : Within l b p.2) : Within l b c := by
  rwa [he] at h

/-- The third component of a triple that is known. -/
theorem snd_snd {α β : Type} {l : List Part} {b c : Mach} {p : α × β × Mach} {x : α} {y : β} (he : p = (x, y, c)) (h : Within l b p.2.2) :
    Within l b c := by
  rwa [he] at h

/-- The first component of a pair that is known. -/
theorem fst {α : Type} {l : List Part} {b c : Mach} {p : Mach × α} {x : α} (he : p = (c, x)) (h : Within l b p.1) : Within l b c := by
  rwa [he] at h

/-- A fold that carries a value beside the package. -/
theorem foldl_snd {α β : Type} {l : List Part} {a : Mach} {i : β × Mach} {xs : List α} {f : β × Mach → α → β × Mach}
    (h : ∀ s x, Within l s.2 (f s x).2) (hi : Within l a i.2) : Within l a (xs.foldl f i).2 := by
  induction xs generalizing i with
  | nil => exact hi
  | cons x r ih => exact ih (hi.trans (h i x))

/-- A fold that carries a value behind the package. -/
theorem foldl_fst {α β : Type} {l : List Part} {a : Mach} {i : Mach × β} {xs : List α} {f : Mach × β → α → Mach × β}
    (h : ∀ s x, Within l s.1 (f s x).1) (hi : Within l a i.1) : Within l a (xs.foldl f i).1 := by
  induction xs generalizing i with
  | nil => exact hi
  | cons x r ih => exact ih (hi.trans (h i x))

end Within

/-- Every part. -/
def everyPart : List Part :=
  [.chip, .regs, .time, .tick, .port, .fe, .eng, .tleq, .tle, .heldDesc, .patchNext, .pops, .spikes, .images, .enc, .imu, .fus, .jnl, .nvs,
    .led, .lvl, .sleep, .fn, .own, .mgt, .mgtSci, .net, .link, .rst, .dram, .cache, .ueLines, .draws, .out]

namespace Mach

/-! ### The updates of Ops.lean -/

theorem regs_within {m : Mach} {r : Tab Word} (h : Tab.wf regReset m.regs = true → Tab.wf regReset r = true) :
    Within [.regs] m { m with regs := r } :=
  ⟨fun p hp => by cases p <;> simp_all [Part.same], fun ⟨hr, hd, he⟩ => ⟨h hr, hd, he⟩, id⟩

theorem wr_within (a : Nat) (w : Word) (m : Mach) : Within [.regs] m (m.wr a w) := regs_within (wf_wr m a w)
theorem put_within (f : Fld) (v : Nat) (m : Mach) : Within [.regs] m (m.put f v) := wr_within _ _ m
theorem set1_within (f : Fld) (m : Mach) : Within [.regs] m (m.set1 f) := put_within f 1 m
theorem clr_within (f : Fld) (m : Mach) : Within [.regs] m (m.clr f) := put_within f 0 m
theorem addTo_within (f : Fld) (k : Nat) (m : Mach) : Within [.regs] m (m.addTo f k) := put_within f _ m
theorem inc_within (f : Fld) (m : Mach) : Within [.regs] m (m.inc f) := addTo_within f 1 m
theorem put64_within (lo hi : Nat) (v : Int) (m : Mach) : Within [.regs] m (m.put64 lo hi v) :=
  (wr_within _ _ _).after (wr_within _ _ _)
theorem resetRegs_within (lo hi : Nat) (k : Bool) (m : Mach) : Within [.regs] m (m.resetRegs lo hi k) := regs_within (wf_resetRegs m lo hi k)

theorem dram_within {m : Mach} {d : Mem} (h : m.dram.wf = true → d.wf = true) : Within [.dram] m { m with dram := d } :=
  ⟨fun p hp => by cases p <;> simp_all [Part.same], fun ⟨hr, hd, he⟩ => ⟨hr, h hd, he⟩, id⟩

/-- An update of an engine that keeps its SRAM canonical. -/
theorem onEng_within {e : Fin 72} {f : Engine → Engine} {m : Mach}
    (h : ∀ x : Engine, x.sram.wf = true → (f x).sram.wf = true := by intro x hx; simp [hx]) : Within [.eng] m (m.onEng e f) := by
  refine ⟨fun p hp => by cases p <;> simp_all [Part.same], fun ⟨hr, hd, he⟩ => ⟨hr, hd, fun k => ?_⟩, id⟩
  rw [onEng_eng, vmod_get]
  split
  · exact h _ (he e)
  · exact he k

/-- An update of all engines that keeps each SRAM canonical. -/
theorem engs_within {f : Engine → Engine} {m : Mach} (h : ∀ x : Engine, x.sram.wf = true → (f x).sram.wf = true) :
    Within [.eng] m { m with eng := m.eng.map f } := by
  refine ⟨fun p hp => by cases p <;> simp_all [Part.same], fun ⟨hr, hd, he⟩ => ⟨hr, hd, fun k => ?_⟩, id⟩
  have : (m.eng.map f).get k = f (m.eng.get k) := Vector.getElem_map ..
  rw [this]
  exact h _ (he k)

/-- An update of a die's levels that keeps the frequency at or below the voltage. -/
theorem onLvl_within {d : Fin 4} {f : DieLevel → DieLevel} {m : Mach}
    (h : ∀ x : DieLevel, x.freq ≤ x.volt → (f x).freq ≤ (f x).volt := by intro x hx; dsimp only; omega) : Within [.lvl] m (m.onLvl d f) := by
  refine ⟨fun p hp => by cases p <;> simp_all [Part.same], id, fun hl k => ?_⟩
  rw [onLvl_lvl, vmod_get]
  split
  · exact h _ (hl d)
  · exact hl k

/-- An update of all dies' levels that keeps each frequency at or below its voltage. -/
theorem lvls_within {f : DieLevel → DieLevel} {m : Mach} (h : ∀ x : DieLevel, x.freq ≤ x.volt → (f x).freq ≤ (f x).volt) :
    Within [.lvl] m { m with lvl := m.lvl.map f } := by
  refine ⟨fun p hp => by cases p <;> simp_all [Part.same], id, fun hl k => ?_⟩
  have : (m.lvl.map f).get k = f (m.lvl.get k) := Vector.getElem_map ..
  show ((m.lvl.map f).get k).freq ≤ ((m.lvl.map f).get k).volt
  rw [this]
  exact h _ (hl k)

theorem onPort_within (p : Fin 16) (f : Port → Port) (m : Mach) : Within [.port] m (m.onPort p f) :=
  Within.of_onlyIn fun p hp => by cases p <;> simp_all [Part.same]
theorem onFe_within (p : Fin 16) (f : Fe → Fe) (m : Mach) : Within [.fe] m (m.onFe p f) :=
  Within.of_onlyIn fun p hp => by cases p <;> simp_all [Part.same]
theorem onEnc_within (n : Fin 4) (f : Encoder → Encoder) (m : Mach) : Within [.enc] m (m.onEnc n f) :=
  Within.of_onlyIn fun p hp => by cases p <;> simp_all [Part.same]
theorem onImu_within (n : Fin 4) (f : Imu → Imu) (m : Mach) : Within [.imu] m (m.onImu n f) :=
  Within.of_onlyIn fun p hp => by cases p <;> simp_all [Part.same]
theorem onFn_within (n : Fin 8) (f : Func → Func) (m : Mach) : Within [.fn] m (m.onFn n f) :=
  Within.of_onlyIn fun p hp => by cases p <;> simp_all [Part.same]
theorem onLink_within (l : Fin 4) (f : Link → Link) (m : Mach) : Within [.link] m (m.onLink l f) :=
  Within.of_onlyIn fun p hp => by cases p <;> simp_all [Part.same]
theorem onDest_within (d : Fin 8) (f : RrtDest → RrtDest) (m : Mach) : Within [.net] m (m.onDest d f) :=
  Within.of_onlyIn fun p hp => by cases p <;> simp_all [Part.same]
theorem onTrig_within (o : Fin 8) (f : TrigOut → TrigOut) (m : Mach) : Within [.time] m (m.onTrig o f) :=
  Within.of_onlyIn fun p hp => by cases p <;> simp_all [Part.same]
theorem onDie_within (d : Fin 4) (f : DiePlan → DiePlan) (m : Mach) : Within [.rst] m (m.onDie d f) :=
  Within.of_onlyIn fun p hp => by cases p <;> simp_all [Part.same]
theorem onTime_within (f : TimeUnit → TimeUnit) (m : Mach) : Within [.time] m (m.onTime f) :=
  Within.of_onlyIn fun p hp => by cases p <;> simp_all [Part.same]
theorem onServo_within (f : Servo → Servo) (m : Mach) : Within [.time] m (m.onServo f) :=
  Within.of_onlyIn fun p hp => by cases p <;> simp_all [Part.same]
theorem onTick_within (f : TickUnit → TickUnit) (m : Mach) : Within [.tick] m (m.onTick f) :=
  Within.of_onlyIn fun p hp => by cases p <;> simp_all [Part.same]
theorem onJnl_within (f : Journal → Journal) (m : Mach) : Within [.jnl] m (m.onJnl f) :=
  Within.of_onlyIn fun p hp => by cases p <;> simp_all [Part.same]
theorem onFus_within (f : Fusion → Fusion) (m : Mach) : Within [.fus] m (m.onFus f) :=
  Within.of_onlyIn fun p hp => by cases p <;> simp_all [Part.same]
theorem onLed_within (f : Ledger → Ledger) (m : Mach) : Within [.led] m (m.onLed f) :=
  Within.of_onlyIn fun p hp => by cases p <;> simp_all [Part.same]
theorem onSleep_within (f : Sleep → Sleep) (m : Mach) : Within [.sleep] m (m.onSleep f) :=
  Within.of_onlyIn fun p hp => by cases p <;> simp_all [Part.same]
theorem onRst_within (f : ResetUnit → ResetUnit) (m : Mach) : Within [.rst] m (m.onRst f) :=
  Within.of_onlyIn fun p hp => by cases p <;> simp_all [Part.same]
theorem onNvs_within (f : Store → Store) (m : Mach) : Within [.nvs] m (m.onNvs f) :=
  Within.of_onlyIn fun p hp => by cases p <;> simp_all [Part.same]
theorem onCache_within (f : Caches → Caches) (m : Mach) : Within [.cache] m (m.onCache f) :=
  Within.of_onlyIn fun p hp => by cases p <;> simp_all [Part.same]
theorem onNet_within (f : Net → Net) (m : Mach) : Within [.net] m (m.onNet f) :=
  Within.of_onlyIn fun p hp => by cases p <;> simp_all [Part.same]
theorem onOwn_within (f : Owners → Owners) (m : Mach) : Within [.own] m (m.onOwn f) :=
  Within.of_onlyIn fun p hp => by cases p <;> simp_all [Part.same]
theorem onAcct_within (tn : Nat) (f : TickAcct → TickAcct) (m : Mach) : Within [.tick] m (m.onAcct tn f) :=
  Within.of_onlyIn fun p hp => by cases p <;> simp_all [Part.same]
theorem emit_within (o : Out) (m : Mach) : Within [.out] m (m.emit o) :=
  Within.of_onlyIn fun p hp => by cases p <;> simp_all [Part.same]
theorem setCount_within (v : Int) (m : Mach) : Within [.time] m (m.setCount v) :=
  Within.of_onlyIn fun p hp => by cases p <;> simp_all [Part.same]
theorem drawNat_within (m : Mach) : Within [.draws] m m.drawNat.2 := Within.of_onlyIn fun p hp => by cases p <;> simp_all [Part.same, drawNat]
theorem drawInt_within (m : Mach) : Within [.draws] m m.drawInt.2 := Within.of_onlyIn fun p hp => by cases p <;> simp_all [Part.same, drawInt]

end Mach

end Sys2Proof.Machine

namespace Sys2Proof.Machine

set_option Elab.async false

namespace Mach

/-! ### The functions of the model, in the order in which they use one another -/

theorem pumpHeld_within (e : Fin 72) (m : Mach) : Within [.eng, .heldDesc] m (pumpHeld e m) := by
  unfold pumpHeld
  extract_lets x mine room m1
  have hm1 : Within [.eng, .heldDesc] m m1 := by
    unfold m1
    refine Within.after (b := m) (Within.of_onlyIn (l := [.heldDesc]) fun p hp => by cases p <;> first | exact absurd (by decide) hp | rfl) ?_
    exact Within.refl _ _
  split
  · exact Within.refl _ _
  · exact (onEng_within).after <| hm1.mono

theorem rawWork_within (k : Work) (d : Fin 4) (n : ℕ) (m : Mach) : Within [.led] m (rawWork k d n m) := by
  unfold rawWork
  extract_lets c
  exact (onLed_within _ _).mono

theorem closeWork_within (e : Fin 72) (d : Desc) (m : Mach) : Within [.led] m (closeWork e d m).2 := by
  unfold closeWork
  extract_lets d1 die
  exact (rawWork_within _ _ _ _).after <| (rawWork_within _ _ _ _).after <| (rawWork_within _ _ _ _).after <| .refl _ _

theorem dropLayers_within (mine : TleReq → Bool) (m : Mach) :
    Within [.tleq, .tle] m { m with tleq := m.tleq.map fun q => q.filter fun r => !mine r,
                                    tle := m.tle.map fun q => q.map fun r => if mine r then { r with dropped := true } else r } :=
  Within.of_onlyIn fun p hp => by cases p <;> first | exact absurd (by decide) hp | rfl

theorem endQueued_loop {l : List Part} {a m : Mach} {one : Desc → Mach → Mach} {e : Fin 72} {which : Desc → Bool}
    (h : ∀ d t, Within l t (one d t)) (hm : Within l a m) (hs : ∀ p ∈ [Part.eng, .tleq, .tle, .regs, .tick, .led], p ∈ l := by decide +kernel) :
    Within l a (endQueued one e which m) := by
  have sub : ∀ k : List Part, (∀ p ∈ k, p ∈ [Part.eng, .tleq, .tle, .regs, .tick, .led]) → ∀ p ∈ k, p ∈ l := fun k hk p hp => hs p (hk p hp)
  unfold endQueued
  extract_lets x m3
  have hm3 : Within l a m3 := by
    refine Within.loop h ?_
    exact (onEng_within (e := e)).after hm (sub _ (by decide))
  clear_value m3
  split
  · rename_i r _
    split
    · have hm4 := (closeWork_within e r.desc m3).after hm3 (sub _ (by decide))
      have hm5 := (onEng_within (e := e) (f := fun y => { y with run := none })).after hm4 (sub _ (by decide))
      exact (h _ _).after ((dropLayers_within _ _).after hm5 (sub _ (by decide))) fun _ hp => hp
    · exact hm3
  · exact hm3

theorem endDescs_loop {l : List Part} {a m : Mach} {one : Desc → Mach → Mach} {e : Fin 72} {which : Desc → Bool}
    (h : ∀ d t, Within l t (one d t)) (hm : Within l a m)
    (hs : ∀ p ∈ [Part.eng, .tleq, .tle, .regs, .tick, .led, .heldDesc], p ∈ l := by decide +kernel) :
    Within l a (endDescs one e which m) := by
  have sub : ∀ k : List Part, (∀ p ∈ k, p ∈ [Part.eng, .tleq, .tle, .regs, .tick, .led, .heldDesc]) → ∀ p ∈ k, p ∈ l :=
    fun k hk p hp => hs p (hk p hp)
  unfold endDescs
  extract_lets held m1
  have hm1 : Within l a m1 :=
    Within.after (Within.of_onlyIn (l := [.heldDesc]) fun p hp => by cases p <;> first | exact absurd (by decide) hp | rfl) hm (sub _ (by decide))
  exact (pumpHeld_within _ _).after (Within.loop h (endQueued_loop h hm1 (sub _ (by decide)))) (sub _ (by decide))

theorem spend_within (tn : ℕ) (c : ℤ) (m : Mach) : Within [.tick] m (spend tn c m) := by
  unfold spend
  exact (onAcct_within _ _ _).mono

theorem debitNj_within (it : Item) (c : ℤ) (m : Mach) : Within [.led] m (debitNj it c m) := by
  unfold debitNj
  exact (onLed_within _ _).mono

theorem onCurd_within (p : Fin 16) (tn : ℕ) (index : ℕ) (f : Curd → Curd) (m : Mach) : Within [.fe] m (onCurd p tn index f m) := by
  unfold onCurd
  exact (onFe_within _ _ _).mono

theorem addBad_within (tn : ℕ) (p : ℕ) (cause : ℕ) (m : Mach) : Within [.tick] m (addBad tn p cause m) := by
  unfold addBad
  exact (onAcct_within _ _ _).mono

theorem classLost_within (d : Desc) (m : Mach) : Within [.tick, .fe, .led] m (classLost d m) := by
  unfold classLost
  extract_lets m1
  exact (onCurd_within _ _ _ _ _).after <| (addBad_within _ _ _ _).after <| (onAcct_within _ _ _).after <| (spend_within _ _ _).after <| (debitNj_within _ _ _).after <| .refl _ _

theorem abandonDesc_within (e : Fin 72) (d : Desc) (m : Mach) : Within [.regs, .tick, .fe, .led] m (abandonDesc e d m) := by
  unfold abandonDesc
  exact (classLost_within _ _).after <| (set1_within _ _).after <| (inc_within _ _).after <| .refl _ _

theorem abandonEng_within (e : Fin 72) (which : Desc → Bool) (m : Mach) : Within [.regs, .tick, .fe, .eng, .tleq, .tle, .heldDesc, .led] m (abandonEng e which m) := by
  unfold abandonEng
  exact endDescs_loop (fun d t => (abandonDesc_within _ _ _).mono) (Within.refl _ _)

theorem refuseCurd_within (n : ℕ) (p : Fin 16) (c : Curd) (m : Mach) : Within [.tick, .fe, .led] m (refuseCurd n p c m) := by
  unfold refuseCurd
  extract_lets m1
  have hm1 : Within [.tick, .fe, .led] m m1 := by
    unfold m1
    split
    · exact (spend_within _ _ _).after <| (debitNj_within _ _ _).after <| .refl _ _
    · exact Within.refl _ _
  exact (onCurd_within _ _ _ _ _).after <| (addBad_within _ _ _ _).after <| (onAcct_within _ _ _).after <| hm1.mono

theorem abandonCurd_within (p : Fin 16) (tn : ℕ) (index : ℕ) (m : Mach) : Within [.regs, .tick, .fe, .eng, .tleq, .tle, .heldDesc, .led] m (abandonCurd p tn index m) := by
  unfold abandonCurd
  extract_lets mine m1
  have hm1 : Within [.regs, .tick, .fe, .eng, .tleq, .tle, .heldDesc, .led] m m1 := by
    unfold m1
    exact Within.loop (fun x t => (abandonEng_within _ _ _).mono) (Within.refl _ _)
  split
  · exact (onCurd_within _ _ _ _ _).after <| (refuseCurd_within _ _ _ _).after <| hm1.mono
  · exact hm1.mono

theorem armWdog_within (m : Mach) : Within [.tick] m (armWdog m) := by
  unfold armWdog
  exact (onTick_within _ _).mono

theorem abandonEntry_within (m : Mach) : Within [.tick, .sleep] m (abandonEntry m) := by
  unfold abandonEntry
  exact (armWdog_within _).after <| (onSleep_within _ _).after <| .refl _ _

theorem endPopTick_within (f : Fin 8) (tn : ℕ) (m : Mach) : Within [.tick, .led, .fn] m (endPopTick f tn m) := by
  unfold endPopTick
  extract_lets est work act m1
  have hm1 : Within [.tick, .led, .fn] m m1 := by
    unfold m1
    exact Within.loop (fun x t => (rawWork_within _ _ _ _).mono) ((spend_within _ _ _).after <| (debitNj_within _ _ _).after <| .refl _ _)
  exact (onFn_within _ _ _).after <| (onLed_within _ _).after <| hm1.mono

theorem onPop_within (p : Pop) (f : Pop → Pop) (m : Mach) : Within [.pops] m (onPop p f m) := by
  unfold onPop
  refine Within.after (b := m) (Within.of_onlyIn (l := [.pops]) fun p hp => by cases p <;> first | exact absurd (by decide) hp | rfl) ?_
  exact Within.refl _ _

theorem mdAsk_within (n : Fin 4) (t : ℤ) (m : Mach) : Within [.regs] m (mdAsk n t m).2 := by
  unfold mdAsk
  split
  · exact (set1_within _ _).after <| (inc_within _ _).after <| .refl _ _
  · exact Within.refl _ _

theorem askMark_within {r : PopRec} {t : Int} {m m1 : Mach} {v : Option Int} (h : m.askMark r t = some (v, m1)) : Within [.regs] m m1 := by
  unfold askMark at h
  have ask := mdAsk_within (Fin.ofNat 4 r.enc) t m
  split at h
  · obtain ⟨-, rfl⟩ := Prod.mk.inj (Option.some.inj h)
    exact Within.refl _ _
  · split at h
    · cases h
    · rename_i heq
      obtain ⟨-, rfl⟩ := Prod.mk.inj (Option.some.inj h)
      exact Within.snd heq ask
    · rename_i heq
      obtain ⟨-, rfl⟩ := Prod.mk.inj (Option.some.inj h)
      exact Within.snd heq ask

theorem Mem.wf_writes (b : List Byte) (a : Nat) (m : Mem) (h : m.wf = true) :
    Mem.wf (b.foldl (fun (s : Nat × Mem) v => (s.1 + 1, Mem.write s.2 s.1 v)) (a, m)).2 = true := by
  induction b generalizing a m with
  | nil => exact h
  | cons v r ih => exact ih _ _ (Mem.wf_write m a v h)

theorem sramPut_within (e : Fin 72) (a : Nat) (b : List Byte) (m : Mach) : Within [.eng] m (m.sramPut e a b) :=
  onEng_within fun x hx => Mem.wf_writes _ a x.sram hx

theorem startPop_within (e : Fin 72) (p : Pop) (im : Image) (r : PopRec) (sigma : ℤ) (m : Mach) : Within [.eng, .pops] m (startPop e p im r sigma m) := by
  unfold startPop
  extract_lets words mine m1
  have hm1 : Within [.eng, .pops] m m1 := by
    unfold m1
    split
    · exact (onEng_within).mono
    · exact (sramPut_within _ _ _ _).mono
  exact (onPop_within _ _ _).after <| (onEng_within).after <| hm1.mono

theorem discardDue_within (tn : ℕ) (p : Pop) (im : Image) (m : Mach) : Within [.eng, .pops] m (discardDue tn p im m) := by
  unfold discardDue
  split
  · exact Within.refl _ _
  · extract_lets due n
    exact (onPop_within _ _ _).after <| (onEng_within).after <| .refl _ _

theorem lostStep_within (tn : ℕ) (g : ℕ) (mark : Option ℤ) (p : Pop) (im : Image) (r : PopRec) (m : Mach) : Within [.eng, .pops] m (lostStep tn g mark p im r m) := by
  unfold lostStep
  split
  · split
    · split
      · exact (startPop_within _ _ _ _ _ _).mono
      · exact Within.refl _ _
    · exact Within.refl _ _
  · split
    exact (discardDue_within _ _ _ _).after <| (onPop_within _ _ _).after <| .refl _ _

theorem lostPhase_within (tn i : Nat) (p : Pop) (m : Mach) : Within [.regs, .eng, .pops] m (lostPhase tn i p m) := by
  unfold lostPhase
  split
  · exact Within.refl _ _
  · extract_lets m1 q owe
    split
    · exact (onPop_within _ _ _).after (onPop_within _ _ _).mono
    · split
      · exact (onPop_within _ _ _).after (onPop_within _ _ _).mono
      · rename_i h
        exact (lostStep_within _ _ _ _ _ _ _).after <| (askMark_within h).after (onPop_within _ _ _).mono

theorem settleOwed_within (tn : Nat) (p : Pop) (l : List Int) (m : Mach) : Within [.regs, .eng, .pops] m (m.settleOwed tn p l) := by
  induction l generalizing m with
  | nil => exact (onPop_within _ _ _).mono
  | cons t r ih =>
    unfold settleOwed
    split
    · split
      · exact (onPop_within _ _ _).mono
      · rename_i h
        exact (ih _).after <| (lostStep_within _ _ _ _ _ _ _).after (askMark_within h).mono
    · exact Within.refl _ _

theorem settleFn_within (f : Fin 8) (tn : ℕ) (m : Mach) : Within [.regs, .eng, .pops] m (settleFn f tn m) := by
  unfold settleFn
  exact Within.loop (fun x t => (settleOwed_within _ _ _ _).mono) (Within.refl _ _)

theorem lostPhases_within (f : Fin 8) (tn : ℕ) (i : ℕ) (m : Mach) : Within [.regs, .eng, .pops] m (lostPhases f tn i m) := by
  unfold lostPhases
  refine Within.loop (fun x t => ?_) ?_
  · refine Within.loop (fun x1 t1 => ?_) ?_
    · split
      · exact (lostPhase_within _ _ _ _).mono
      · exact Within.refl _ _
    · exact Within.refl _ _
  · exact (settleFn_within _ _ _).mono

theorem routeDrop_within (f : Fin 8) (m : Mach) : Within [.fn] m (routeDrop f m) := by
  unfold routeDrop
  exact (onFn_within _ _ _).mono

theorem arrive_within (f : Fin 8) (tn : ℕ) (role : ℕ) (e : Fin 72) (a : Arrival) (m : Mach) : Within [.eng, .pops, .fn] m (arrive f tn role e a m) := by
  unfold arrive
  split
  · exact (routeDrop_within _ _).mono
  · split
    · exact (routeDrop_within _ _).mono
    · split
      · extract_lets n held
        split
        · exact (onPop_within _ _ _).mono
        · split
          · exact (onPop_within _ _ _).mono
          · exact (onEng_within).mono
      · exact (onEng_within).mono

theorem spikeMessage_within (f : Fin 8) (m : Mach) : Within [.eng, .pops, .spikes, .fn] m (spikeMessage f m) := by
  unfold spikeMessage
  split
  · exact Within.refl _ _
  · extract_lets m1 tn deliver
    have hm1 : Within [.eng, .pops, .spikes, .fn] m m1 := by
      unfold m1
      refine Within.after (b := m) (Within.of_onlyIn (l := [.spikes]) fun p hp => by cases p <;> first | exact absurd (by decide) hp | rfl) ?_
      exact Within.refl _ _
    split
    · exact (routeDrop_within _ _).after <| hm1.mono
    · split
      · exact (routeDrop_within _ _).after <| hm1.mono
      · split
        · unfold deliver
          split
          · exact (routeDrop_within _ _).after <| hm1.mono
          · exact (arrive_within _ _ _ _ _ _).after <| hm1.mono
        · unfold deliver
          split
          · exact (routeDrop_within _ _).after <| (onFn_within _ _ _).after <| hm1.mono
          · exact (arrive_within _ _ _ _ _ _).after <| (onFn_within _ _ _).after <| hm1.mono

theorem drainSpikes_within (f : Fin 8) (m : Mach) : Within [.eng, .pops, .spikes, .fn] m (drainSpikes f m) := by
  unfold drainSpikes
  exact Within.loop (fun x t => (spikeMessage_within _ _).mono) (Within.refl _ _)

theorem abandonPop_within (f : Fin 8) (tn : ℕ) (i : ℕ) (m : Mach) : Within [.regs, .tick, .eng, .pops, .spikes, .led, .fn] m (abandonPop f tn i m) := by
  unfold abandonPop
  exact (endPopTick_within _ _ _).after <| (lostPhases_within _ _ _ _).after <| (drainSpikes_within _ _).after <| .refl _ _

theorem abandonQueued_within (e : Fin 72) (which : Desc → Bool) (m : Mach) : Within [.regs, .tick, .fe, .eng, .tleq, .tle, .led] m (abandonQueued e which m) := by
  unfold abandonQueued
  exact endQueued_loop (fun d t => (abandonDesc_within _ _ _).mono) (Within.refl _ _)

theorem abandonWork_within (m : Mach) : Within [.regs, .tick, .fe, .eng, .tleq, .tle, .heldDesc, .pops, .spikes, .led, .fn] m (abandonWork m) := by
  unfold abandonWork
  extract_lets m0 m1 m2
  have hm0 : Within [.regs, .tick, .fe, .eng, .tleq, .tle, .heldDesc, .pops, .spikes, .led, .fn] m m0 := by
    unfold m0
    exact Within.loop (fun x t => (abandonEng_within _ _ _).mono) (Within.refl _ _)
  have hm1 : Within [.regs, .tick, .fe, .eng, .tleq, .tle, .heldDesc, .pops, .spikes, .led, .fn] m m1 := by
    unfold m1
    refine Within.loop (fun x t => ?_) ?_
    · exact (routeDrop_within _ _).mono
    · have hm01 : Within [.regs, .tick, .fe, .eng, .tleq, .tle, .heldDesc, .pops, .spikes, .led, .fn] m m0 := by
        exact hm0.mono
      clear_value m0
      refine Within.after (b := m0) (Within.of_onlyIn (l := [.spikes]) fun p hp => by cases p <;> first | exact absurd (by decide) hp | rfl) ?_
      exact hm0.mono
  have hm2 : Within [.regs, .tick, .fe, .eng, .tleq, .tle, .heldDesc, .pops, .spikes, .led, .fn] m m2 := by
    unfold m2
    refine Within.loop (fun x t => ?_) ?_
    · split
      · exact (abandonPop_within _ _ _ _).mono
      · exact Within.refl _ _
    · exact hm1.mono
  exact (onTick_within _ _).after <| hm2.mono

theorem freeSlots_within (m : Mach) : Within [.jnl] m (freeSlots m) := by
  unfold freeSlots
  exact (onJnl_within _ _).mono

theorem setFlight_within (d : Fin 8) (s : Fin 32) (l : List RrtFlight) (m : Mach) : Within [.net] m (setFlight d s l m) := by
  unfold setFlight
  exact (onDest_within _ _ _).mono

theorem ackAdvance_within (d : Fin 8) (s : Fin 32) (rsn : ℕ) (m : Mach) : Within [.jnl, .net] m (ackAdvance d s rsn m) := by
  unfold ackAdvance
  extract_lets fl m1 m2
  exact (freeSlots_within _).after <| (setFlight_within _ _ _ _).after <| (onJnl_within _ _).after <| (onDest_within _ _ _).after <| .refl _ _

theorem ackTo_within (l : Fin 4) (seq : ℕ) (m : Mach) : Within [.link] m (ackTo l seq m) := by
  unfold ackTo
  exact (onLink_within _ _ _).mono

theorem actionsLow_within (m : Mach) : Within [.time] m (actionsLow m) := by
  unfold actionsLow
  exact Within.loop (fun x t => (onTrig_within _ _ _).mono) (Within.refl _ _)

theorem dropAction_within (a : Action) (m : Mach) : Within [.jnl] m (dropAction a m) := by
  unfold dropAction
  exact (onJnl_within _ _).mono

theorem freeEarly_within (bank : ℕ) (m : Mach) : Within [.regs, .jnl] m (freeEarly bank m).2 := by
  unfold freeEarly
  split
  · exact (inc_within _ _).after <| (onJnl_within _ _).after <| .refl _ _
  · exact Within.refl _ _

theorem countRefused_within (cls : ℕ) (m : Mach) : Within [.regs, .tick] m (countRefused cls m) := by
  unfold countRefused
  extract_lets f
  exact (onTick_within _ _).after <| (inc_within _ _).after <| .refl _ _

theorem writeCopies_within (bank : ℕ) (m : Mach) : Within [.regs, .jnl] m (writeCopies bank m) := by
  unfold writeCopies
  refine Within.loop (fun x t => ?_) ?_
  · extract_lets n t1
    split
    · exact (onJnl_within _ _).after <| (addTo_within _ _ _).after <| .refl _ _
    · exact (onJnl_within _ _).after <| (onJnl_within _ _).after <| (addTo_within _ _ _).after <| .refl _ _
  · exact Within.refl _ _

theorem scDrop_within (p : ℕ → Bool) (m : Mach) : Within [.cache] m (scDrop p m) := by
  unfold scDrop
  exact (onCache_within _ _).mono

theorem admitRec_within (f : Fin 8) (b : Body) (flags : ℕ) (m : Mach) : Within [.regs, .tick, .jnl, .cache] m (admitRec f b flags m).2 := by
  unfold admitRec
  split
  · exact Within.refl _ _
  · extract_lets cls bank slotNeed s
    split
    rename_i x fst m1 heq
    split
    · exact (countRefused_within _ _).mono
    · split
      · refine (countRefused_within _ _).after <| ?_
        have hm1 : Within [.regs, .tick, .jnl, .cache] m m1 := by
          refine Within.snd heq ?_
          split
          · exact (freeEarly_within _ _).mono
          · exact Within.refl _ _
        exact hm1.mono
      · split
        · refine (countRefused_within _ _).after <| ?_
          have hm1 : Within [.regs, .tick, .jnl, .cache] m m1 := by
            refine Within.snd heq ?_
            split
            · exact (freeEarly_within _ _).mono
            · exact Within.refl _ _
          exact hm1.mono
        · extract_lets m2 copies n slot r m3
          have hm2 : Within [.regs, .tick, .jnl, .cache] m m2 := by
            unfold m2
            refine (writeCopies_within _ _).after <| ?_
            have hm1 : Within [.regs, .tick, .jnl, .cache] m m1 := by
              refine Within.snd heq ?_
              split
              · exact (freeEarly_within _ _).mono
              · exact Within.refl _ _
            exact hm1.mono
          split
          · exact (countRefused_within _ _).after <| hm2.mono
          · exact (inc_within _ _).after <| (onJnl_within _ _).after <| (scDrop_within _ _).after <| hm2.mono

theorem admitAll_within (b : Body) (flags : ℕ) (m : Mach) : Within [.regs, .tick, .jnl, .cache] m (admitAll b flags m) := by
  unfold admitAll
  exact Within.loop (fun x t => (admitRec_within _ _ _ _).mono) (Within.refl _ _)

theorem syncDelivery_within (m : Mach) : Within [.jnl] m (syncDelivery m) := by
  unfold syncDelivery
  exact (onJnl_within _ _).mono

theorem sayLost_within (m : Mach) : Within [.regs, .tick, .jnl, .cache] m (sayLost m) := by
  unfold sayLost
  refine Within.loop (fun x t => ?_) ?_
  · extract_lets t1 bank
    split
    · exact (syncDelivery_within _).after <| (onJnl_within _ _).after <| (admitAll_within _ _ _).after <| (onJnl_within _ _).after <| .refl _ _
    · exact (admitAll_within _ _ _).after <| (onJnl_within _ _).after <| .refl _ _
  · exact Within.refl _ _

theorem onceHealth_within (h : HCode) (u : HUnit) (counter : ℕ) (m : Mach) : Within [.regs, .tick, .jnl, .cache] m (onceHealth h u counter m) := by
  unfold onceHealth
  split
  · exact Within.refl _ _
  · exact (admitAll_within _ _ _).after <| (onJnl_within _ _).after <| .refl _ _

theorem afterRefusal_within (cls : ℕ) (why : Option Refused) (m : Mach) : Within [.regs, .tick, .jnl, .cache] m (afterRefusal cls why m) := by
  unfold afterRefusal
  split
  · exact (onceHealth_within _ _ _ _).mono
  · split
    · exact Within.refl _ _
    · exact (onceHealth_within _ _ _ _).mono
  · exact Within.refl _ _

theorem write_within (f : Fin 8) (b : Body) (flags : ℕ) (m : Mach) : Within [.regs, .tick, .jnl, .cache] m (write f b flags m).2 := by
  unfold write
  split
  · rename_i x n m1 heq
    exact (sayLost_within _).after <| (Within.snd heq (admitRec_within _ _ _ _)).after <| .refl _ _
  · rename_i x why m1 heq
    exact (sayLost_within _).after <| (afterRefusal_within _ _ _).after <| (Within.snd heq (admitRec_within _ _ _ _)).after <| .refl _ _

theorem write'_within (f : Fin 8) (b : Body) (flags : ℕ) (m : Mach) : Within [.regs, .tick, .jnl, .cache] m (write' f b flags m) := by
  unfold write'
  exact (write_within _ _ _ _).mono

theorem missAction_within (c : MissCause) (a : Action) (m : Mach) : Within [.regs, .tick, .jnl, .cache] m (missAction c a m) := by
  unfold missAction
  extract_lets m1
  exact (inc_within _ _).after <| (dropAction_within _ _).after <| (write'_within _ _ _ _).after <| .refl _ _

theorem markMerged_within (o : Fin 8) (m : Mach) : Within [.jnl] m (markMerged o m) := by
  unfold markMerged
  exact (onJnl_within _ _).mono

theorem fireAction_within (late : Bool) (also : Bool) (a : Action) (m : Mach) : Within [.regs, .time, .tick, .jnl, .cache] m (fireAction late also a m) := by
  unfold fireAction
  split
  · exact (missAction_within _ _ _).mono
  · extract_lets ovl stop m0 m1 m2 m3
    have hm0 : Within [.regs, .time, .tick, .jnl, .cache] m m0 := by
      unfold m0
      split
      · exact (markMerged_within _ _).mono
      · exact Within.refl _ _
    split
    · exact (inc_within _ _).after <| (inc_within _ _).after <| (dropAction_within _ _).after <| (write'_within _ _ _ _).after <| (onTrig_within _ _ _).after <| hm0.mono
    · exact (inc_within _ _).after <| (dropAction_within _ _).after <| (write'_within _ _ _ _).after <| (onTrig_within _ _ _).after <| hm0.mono

theorem lateAction_within (c : MissCause) (a : Action) (m : Mach) : Within [.regs, .time, .tick, .jnl, .cache] m (lateAction c a m) := by
  unfold lateAction
  split
  · exact (onJnl_within _ _).mono
  · split
    · exact (fireAction_within _ _ _ _).mono
    · exact (missAction_within _ _ _).mono

theorem judgeHeld_within (allPositions : Bool) (m : Mach) : Within [.regs, .time, .tick, .jnl, .cache] m (judgeHeld allPositions m) := by
  unfold judgeHeld
  exact Within.loop (fun x t => (lateAction_within _ _ _).mono) (Within.refl _ _)

theorem fireHeldLate_within (m : Mach) : Within [.regs, .time, .tick, .jnl, .cache] m (fireHeldLate m) := by
  unfold fireHeldLate
  split
  · exact Within.refl _ _
  · exact Within.loop (fun x t => (lateAction_within _ _ _).mono) (Within.refl _ _)

theorem actEn_within (en : Bool) (m : Mach) : Within [.regs, .time, .tick, .jnl, .cache] m (actEn en m) := by
  unfold actEn
  extract_lets was m1
  split
  · exact (actionsLow_within _).after <| (put_within _ _ _).after <| .refl _ _
  · split
    · exact (put_within _ _ _).mono
    · exact (judgeHeld_within _ _).after <| (fireHeldLate_within _).after <| (put_within _ _ _).after <| .refl _ _

theorem actFollow_within (m : Mach) : Within [.regs] m (actFollow m) := by
  unfold actFollow
  exact Within.loop (fun x t => (put_within _ _ _).mono) (Within.refl _ _)

theorem onChange_loop {l : List Part} {a m : Mach} {w : RegWr} {k : Nat} {f : Fld} {op : Bool → Mach → Mach} (h : ∀ b t, Within l t (op b t))
    (hm : Within l a m) : Within l a (onChange w k f op m) := by
  unfold onChange
  split
  · exact hm.trans (h _ m)
  · exact hm

theorem plainWrite_within (own : ℕ) (w : RegWr) (m : Mach) : Within [.regs] m (plainWrite own w m) := by
  unfold plainWrite
  extract_lets keep old mask clear
  exact (wr_within _ _ _).mono

theorem actWrite_within (w : RegWr) (m : Mach) : Within [.regs, .time, .tick, .jnl, .cache] m (actWrite w m) := by
  unfold actWrite
  split
  · exact onChange_loop (fun b t => (actEn_within _ _).mono) ((plainWrite_within _ _ _).mono)
  · exact (plainWrite_within _ _ _).mono

theorem touchIdle_within (m : Mach) : Within [.sleep] m (touchIdle m) := by
  unfold touchIdle
  exact (onSleep_within _ _).mono

theorem onRing_within (f : Fin 8) (r : Fin 7) (g : Ring → Ring) (m : Mach) : Within [.fn] m (onRing f r g m) := by
  unfold onRing
  exact (onFn_within _ _ _).mono

theorem fetch_within (f : Fin 8) (m : Mach) : Within [.regs, .sleep, .fn] m (fetch f m) := by
  unfold fetch
  exact (inc_within _ _).after <| (touchIdle_within _).after <| (onFn_within _ _ _).after <| (onRing_within _ _ _ _).after <| .refl _ _

theorem onDelivery_within (f : Fin 8) (k : Fin 5) (g : Delivery → Delivery) (m : Mach) : Within [.jnl] m (onDelivery f k g m) := by
  unfold onDelivery
  exact (onJnl_within _ _).mono

theorem advanceDelivery_within (f : Fin 8) (k : Fin 5) (r : Fin 7) (next : ℕ) (m : Mach) : Within [.jnl] m (advanceDelivery f k r next m) := by
  unfold advanceDelivery
  extract_lets size c
  exact (onDelivery_within _ _ _ _).mono

theorem msix_within (f : Fin 8) (v : ℕ) (m : Mach) : Within [.out] m (msix f v m) := by
  unfold msix
  exact (emit_within _ _).mono

theorem modSend_within (f : Fin 8) (v : Fin 6) (m : Mach) : Within [.fn, .out] m (modSend f v m) := by
  unfold modSend
  exact (msix_within _ _ _).after <| (onFn_within _ _ _).after <| .refl _ _

theorem modEntry_within (f : Fin 8) (v : Fin 6) (m : Mach) : Within [.fn, .out] m (modEntry f v m) := by
  unfold modEntry
  extract_lets m1 d
  split
  · exact (modSend_within _ _ _).after <| (onFn_within _ _ _).after <| .refl _ _
  · exact (onFn_within _ _ _).mono

theorem shadow_within (f : Fin 8) (m : Mach) : Within [.out] m (shadow f m) := by
  unfold shadow
  split
  · extract_lets counts
    exact (emit_within _ _).mono
  · exact Within.refl _ _

theorem ringWrote_within (f : Fin 8) (r : Fin 7) (v : Fin 6) (m : Mach) : Within [.fn, .out] m (ringWrote f r v m) := by
  unfold ringWrote
  exact (modEntry_within _ _ _).after <| (shadow_within _ _).after <| (onRing_within _ _ _ _).after <| .refl _ _

theorem cplWrite_within (f : Fin 8) (e : Cpl) (m : Mach) : Within [.jnl, .fn, .out] m (cplWrite f e m) := by
  unfold cplWrite
  split
  · extract_lets c size
    exact (advanceDelivery_within _ _ _ _ _).after <| (ringWrote_within _ _ _ _).after <| (emit_within _ _).after <| .refl _ _
  · split
    · exact (onFn_within _ _ _).mono
    · exact Within.refl _ _

theorem command_loop {l : List Part} {a m : Mach} {h : CmdHdr} {op : Nat} {owes : Bool} {judge : Mach → Option Nat} {accept : Nat → Mach → Accept}
    (hm : ∀ c t, Within l t (accept c t).m) (hafter : ∀ c t u, Within l u ((accept c t).after u)) (hstart : Within l a m)
    (hs : ∀ p ∈ [Part.regs, .jnl, .sleep, .fn, .out], p ∈ l := by decide +kernel) : Within l a (command h op owes judge accept m) := by
  have sub : ∀ k : List Part, (∀ p ∈ k, p ∈ [Part.regs, .jnl, .sleep, .fn, .out]) → ∀ p ∈ k, p ∈ l := fun k hk p hp => hs p (hk p hp)
  unfold command
  split
  · exact hstart
  · extract_lets cseq m1
    have hm1 : Within l a m1 := (fetch_within _ _).after hstart (sub _ (by decide))
    split
    · exact (cplWrite_within _ _ _).after ((inc_within _ _).after hm1 (sub _ (by decide))) (sub _ (by decide))
    · rename_i m2 x _ _
      have hm2 : Within l a m2 := by
        unfold m2
        split
        · exact (onFn_within _ _ _).after hm1 (sub _ (by decide))
        · exact hm1
      exact (hafter _ _ _).after ((cplWrite_within _ _ _).after ((hm _ _).after hm2 fun _ hp => hp) (sub _ (by decide))) fun _ hp => hp

theorem keepAwake_within (m : Mach) : Within [.tick, .sleep] m (keepAwake m) := by
  unfold keepAwake
  split
  · exact (abandonEntry_within _).mono
  · exact Within.refl _ _

theorem programAction_within (a : Action) (m : Mach) : Within [.regs, .time, .tick, .jnl, .sleep, .cache] m (programAction a m).2 := by
  unfold programAction
  extract_lets slot gen a' m1
  split
  · exact (lateAction_within _ _ _).after <| (keepAwake_within _).after <| (onJnl_within _ _).after <| .refl _ _
  · exact (keepAwake_within _).after <| (onJnl_within _ _).after <| .refl _ _

theorem actionAdd_within (h : CmdHdr) (out : Fin 8) (position : Bool) (enc : Fin 4) (fire : Bool) (width : ℕ) (trigger : ℤ) (m : Mach) : Within [.regs, .time, .tick, .jnl, .sleep, .fn, .cache, .out] m (actionAdd h out position enc fire width trigger m) := by
  unfold actionAdd
  refine command_loop (fun c t => ?_) (fun c t u => ?_) ?_
  · extract_lets a
    split
    rename_i x v m1 heq
    exact (Within.snd heq (programAction_within _ _)).mono
  · extract_lets a
    split
    rename_i x v m1 heq
    exact Within.refl _ _
  · exact Within.refl _ _

theorem actionCancel_within (h : CmdHdr) (id : ℕ) (m : Mach) : Within [.regs, .tick, .jnl, .sleep, .fn, .cache, .out] m (actionCancel h id m) := by
  unfold actionCancel
  extract_lets entry
  refine command_loop (fun c t => ?_) (fun c t u => ?_) ?_
  · split
    · exact (missAction_within _ _ _).mono
    · exact Within.refl _ _
  · exact Within.refl _ _
  · exact Within.refl _ _

theorem tickClock_within (k : ℕ) (m : Mach) : Within [.time] m (tickClock k m) := by
  unfold tickClock
  exact (setCount_within _ _).mono

theorem markReached_within (n : Fin 4) (m : Mach) : Within [.jnl] m (markReached n m) := by
  unfold markReached
  exact (onJnl_within _ _).mono

theorem encoderLost_within (n : Fin 4) (m : Mach) : Within [.regs, .time, .tick, .jnl, .cache] m (encoderLost n m) := by
  unfold encoderLost
  exact Within.loop (fun x t => (lateAction_within _ _ _).mono) (Within.refl _ _)

theorem applyValueSet_within (n : Fin 4) (s : ℤ) (m : Mach) : Within [.regs, .time, .tick, .enc, .jnl, .cache] m (applyValueSet n s m) := by
  unfold applyValueSet
  extract_lets e m1 base
  split
  · exact (markReached_within _ _).after <| (encoderLost_within _ _).after <| (onEnc_within _ _ _).after <| .refl _ _
  · split
    · exact (markReached_within _ _).after <| (onEnc_within _ _ _).after <| .refl _ _
    · exact Within.refl _ _

theorem captureAll_within (first : ℤ) (last : ℤ) (mark : Option (ℤ × ℤ)) (m : Mach) : Within [.regs, .time, .tick, .enc, .jnl, .cache] m (captureAll first last mark m) := by
  unfold captureAll
  exact Within.loop (fun x t => (applyValueSet_within _ _ _).after <| (onEnc_within _ _ _).after <| .refl _ _) (Within.refl _ _)

theorem runIncs_within (k : ℕ) (m : Mach) : Within [.regs, .time, .tick, .enc, .jnl, .cache] m (runIncs k m) := by
  unfold runIncs
  extract_lets m1 first last
  split
  · exact (tickClock_within _ _).mono
  · exact (captureAll_within _ _ _ _).after <| (tickClock_within _ _).after <| .refl _ _

theorem runTo_within (t : ℤ) (m : Mach) : Within [.regs, .time, .tick, .enc, .jnl, .cache] m (runTo t m) := by
  unfold runTo
  exact (runIncs_within _ _).mono

theorem runToElapsed_within (t : ℤ) (m : Mach) : Within [.regs, .time, .tick, .enc, .jnl, .cache] m (runToElapsed t m) := by
  unfold runToElapsed
  exact (runTo_within _ _).mono

theorem actionEnd_within (o : Fin 8) (m : Mach) : Within [.regs, .time, .tick, .enc, .jnl, .cache] m (actionEnd o m) := by
  unfold actionEnd
  split
  · exact (onTrig_within _ _ _).after <| (runToElapsed_within _ _).after <| .refl _ _
  · exact Within.refl _ _

theorem applyFeSets_within (im : Image) (m : Mach) : Within [.regs] m (applyFeSets im m) := by
  unfold applyFeSets
  refine Within.loop (fun x t => ?_) ?_
  · refine Within.loop (fun x1 t1 => ?_) ?_
    · extract_lets a
      exact (wr_within _ _ _).mono
    · exact Within.refl _ _
  · exact Within.refl _ _

theorem activate_within (slot : ℕ) (replaces : Option ℕ) (k : ℕ) (m : Mach) : Within [.regs, .images] m (activate slot replaces k m) := by
  unfold activate
  split
  · exact Within.refl _ _
  · extract_lets put
    refine (applyFeSets_within _ _).after <| ?_
    refine Within.after (b := m) (Within.of_onlyIn (l := [.images]) fun p hp => by cases p <;> first | exact absurd (by decide) hp | rfl) ?_
    exact Within.refl _ _

theorem addPairs_within (i : Fin 16) (l : List (ℤ × ℤ)) (m : Mach) : Within [.regs, .fus] m (addPairs i l m) := by
  unfold addPairs
  exact (addTo_within _ _ _).after <| (onFus_within _ _).after <| .refl _ _

theorem admitPop_within (f : Fin 8) (n : ℕ) (m : Mach) : Within [.tick, .led, .fn] m (admitPop f n m) := by
  unfold admitPop
  extract_lets c
  exact (onLed_within _ _).after <| (onFn_within _ _ _).after <| (spend_within _ _ _).after <| (debitNj_within _ _ _).after <| .refl _ _

theorem admitPops_within (n : Nat) (m : Mach) : Within [.regs, .tick, .eng, .pops, .led, .fn] m (admitPops n m).2 := by
  have skip : ∀ (f : Fin 8) (t : Mach), Within [.regs, .tick, .eng, .pops, .led, .fn] t (t.lostPhases f n 0) := fun f t => (lostPhases_within f n 0 t).mono
  have take : ∀ (f : Fin 8) (t : Mach), Within [.regs, .tick, .eng, .pops, .led, .fn] t (t.admitPop f n) := fun f t => (admitPop_within f n t).mono
  unfold admitPops
  refine Within.foldl_snd (fun s f => ?_) (Within.refl _ _)
  split
  · dsimp only
    exact skip f s.2
  · split
    · exact take f s.2
    · dsimp only
      exact (skip f _).after (inc_within _ _).mono

theorem descStale_within (e : Fin 72) (d : Desc) (m : Mach) : Within [.regs, .tick, .fe, .led] m (descStale e d m) := by
  unfold descStale
  exact (classLost_within _ _).after <| (set1_within _ _).after <| (inc_within _ _).after <| .refl _ _

theorem issue_within (d : Desc) (m : Mach) : Within [.regs, .tick, .fe, .eng, .heldDesc, .led] m (issue d m) := by
  unfold issue
  split
  · exact (descStale_within _ _ _).mono
  · split
    · exact (descStale_within _ _ _).mono
    · extract_lets x
      split
      · refine Within.after (b := m) (Within.of_onlyIn (l := [.heldDesc]) fun p hp => by cases p <;> first | exact absurd (by decide) hp | rfl) ?_
        exact Within.refl _ _
      · exact (onEng_within).mono

theorem admitCurd_within (it : Item) (n : ℕ) (p : Fin 16) (c : Curd) (slot : ℕ) (im : Image) (m : Mach) : Within [.regs, .tick, .fe, .eng, .heldDesc, .led] m (admitCurd it n p c slot im m) := by
  unfold admitCurd
  extract_lets est m1
  split
  · exact (issue_within _ _).after <| (onCurd_within _ _ _ _ _).after <| (spend_within _ _ _).after <| (debitNj_within _ _ _).after <| .refl _ _
  · exact (onCurd_within _ _ _ _ _).after <| (spend_within _ _ _).after <| (debitNj_within _ _ _).after <| .refl _ _

theorem admitCurds_within (it : Item) (shed : Fld) (n : ℕ) (open_ : Bool) (l : List (Fin 16 × Curd × ℕ × Image)) (m : Mach) : Within [.regs, .tick, .fe, .eng, .heldDesc, .led] m (admitCurds it shed n open_ l m) := by
  unfold admitCurds
  refine Within.foldl_snd (fun s x => ?_) ?_
  · split
    · exact (refuseCurd_within _ _ _ _).mono
    · extract_lets est
      split
      · exact (admitCurd_within _ _ _ _ _ _ _).mono
      · exact (refuseCurd_within _ _ _ _).after <| (inc_within _ _).after <| .refl _ _
  · exact Within.refl _ _

theorem admitCal_within (n : ℕ) (m : Mach) : Within [.regs, .tick, .led, .draws] m (admitCal n m) := by
  unfold admitCal
  split
  · exact Within.refl _ _
  · split
    rename_i x v m1 heq
    split
    · exact (onAcct_within _ _ _).after <| (spend_within _ _ _).after <| (debitNj_within _ _ _).after <| (Within.snd heq (drawNat_within _)).after <| .refl _ _
    · exact (inc_within _ _).after <| (Within.snd heq (drawNat_within _)).after <| .refl _ _

theorem admission_within (m : Mach) : Within [.regs, .time, .tick, .fe, .eng, .heldDesc, .pops, .enc, .jnl, .led, .fn, .cache, .draws] m (admission m) := by
  unfold admission
  split
  · exact Within.refl _ _
  · split
    · exact Within.refl _ _
    · extract_lets m1 l ks
      split
      rename_i x fst m11 heq
      extract_lets m3 m4
      exact (onAcct_within _ _ _).after <| (admitCal_within _ _).after <| (admitCurds_within _ _ _ _ _ _).after <| (admitCurds_within _ _ _ _ _ _).after <| (Within.snd heq (admitPops_within _ _)).after <| (runTo_within _ _).after <| .refl _ _

theorem writeAll_within (b : Body) (flags : ℕ) (m : Mach) : Within [.regs, .tick, .jnl, .cache] m (writeAll b flags m) := by
  unfold writeAll
  exact Within.loop (fun x t => (write'_within _ _ _ _).mono) (Within.refl _ _)

theorem health_within (h : HCode) (u : HUnit) (detail : List ℕ) (m : Mach) : Within [.regs, .tick, .jnl, .cache] m (health h u detail m) := by
  unfold health
  exact (writeAll_within _ _ _).mono

theorem ueHit_within (a : ℕ) (m : Mach) : Within [.regs, .tick, .jnl, .cache] m (ueHit a m) := by
  unfold ueHit
  extract_lets d
  exact (health_within _ _ _ _).after <| (wr_within _ _ _).after <| (put_within _ _ _).after <| (inc_within _ _).after <| .refl _ _

theorem scRead_within (line : ℕ) (m : Mach) : Within [.regs, .cache] m (scRead line m) := by
  unfold scRead
  extract_lets l new
  exact (inc_within _ _).after <| (onCache_within _ _).after <| .refl _ _

theorem hubRead_within (d : ℕ) (a : ℕ) (n : ℕ) (m : Mach) : Within [.regs, .cache] m (hubRead d a n m).2 := by
  unfold hubRead
  refine Within.foldl_snd (fun s x => ?_) ?_
  · split
    · exact Within.refl _ _
    · exact (scRead_within _ _).mono
  · exact Within.refl _ _

theorem fetchElement_within (e : Fin 72) (im : Image) (s : StreamRec) (m : Mach) : Within [.regs, .tick, .fe, .eng, .tleq, .tle, .heldDesc, .jnl, .led, .cache] m (fetchElement e im s m) := by
  unfold fetchElement
  split
  · exact Within.refl _ _
  · split
    · exact Within.refl _ _
    · extract_lets at_ m1
      split
      · exact (abandonEng_within _ _ _).after <| (ueHit_within _ _).after <| .refl _ _
      · exact (onEng_within).after <| (sramPut_within _ _ _ _).after <| (hubRead_within _ _ _ _).after <| .refl _ _

theorem takeElements_within (e : Fin 72) (im : Image) (s : StreamRec) (n : Nat) (m : Mach) :
    Within [.regs, .tick, .fe, .eng, .tleq, .tle, .heldDesc, .jnl, .led, .fn, .cache] m (takeElements e im s n m).2 := by
  induction n generalizing m with
  | zero => exact Within.refl _ _
  | succ n ih =>
    unfold takeElements
    split
    · exact Within.refl _ _
    · split
      · exact Within.refl _ _
      · extract_lets m1 b m2
        have hm1 : Within [.regs, .tick, .fe, .eng, .tleq, .tle, .heldDesc, .jnl, .led, .fn, .cache] m m1 := by
          unfold m1
          split
          · exact Within.refl _ _
          · exact (fetchElement_within _ _ _ _).after (onFn_within _ _ _).mono
        exact (ih _).after <| (onEng_within (e := e)).after hm1

theorem layerStep_within (e : Fin 72) (m : Mach) : Within [.regs, .tick, .fe, .eng, .tleq, .tle, .heldDesc, .jnl, .led, .fn, .cache, .draws] m (layerStep e m).2.2 := by
  unfold layerStep
  split
  · exact Within.refl _ _
  · split
    · exact Within.refl _ _
    · split
      · exact Within.refl _ _
      · extract_lets strm
        split
        rename_i x wmem wbase m1 heq
        split
        · have hm1 : Within [.regs, .tick, .fe, .eng, .tleq, .tle, .heldDesc, .jnl, .led, .fn, .cache, .draws] m m1 := by
            refine Within.snd_snd heq ?_
            clear_value strm
            split
            · extract_lets n
              split
              rename_i x1 rest m3 heq1
              exact (Within.snd heq1 (takeElements_within _ _ _ _ _)).mono
            · exact Within.refl _ _
          exact hm1.mono
        · extract_lets edge o x1 m2 m3
          have hx1 : Within [.regs, .tick, .fe, .eng, .tleq, .tle, .heldDesc, .jnl, .led, .fn, .cache, .draws] m x1 := by
            unfold x1
            refine (sramPut_within _ _ _ _).after <| ?_
            have hm1 : Within [.regs, .tick, .fe, .eng, .tleq, .tle, .heldDesc, .jnl, .led, .fn, .cache, .draws] m m1 := by
              refine Within.snd_snd heq ?_
              clear_value strm
              split
              · extract_lets n
                split
                rename_i x2 rest m31 heq1
                exact (Within.snd heq1 (takeElements_within _ _ _ _ _)).mono
              · exact Within.refl _ _
            exact hm1.mono
          have hm2 : Within [.regs, .tick, .fe, .eng, .tleq, .tle, .heldDesc, .jnl, .led, .fn, .cache, .draws] m m2 := by
            unfold m2
            have hx11 : Within [.regs, .tick, .fe, .eng, .tleq, .tle, .heldDesc, .jnl, .led, .fn, .cache, .draws] m x1 := by
              exact hx1.mono
            clear_value x1
            refine Within.after (b := x1) (Within.of_onlyIn (l := [.draws]) fun p hp => by cases p <;> first | exact absurd (by decide) hp | rfl) ?_
            exact hx1.mono
          exact (addTo_within _ _ _).after <| (addTo_within _ _ _).after <| (onEng_within).after <| hm2.mono

theorem runLayer_within (e : Fin 72) (m : Mach) : Within [.regs, .tick, .fe, .eng, .tleq, .tle, .heldDesc, .jnl, .led, .fn, .cache, .draws] m (runLayer e m) := by
  unfold runLayer
  split
  rename_i x sats fst m1 heq
  split
  · have hm1 : Within [.regs, .tick, .fe, .eng, .tleq, .tle, .heldDesc, .jnl, .led, .fn, .cache, .draws] m m1 := by
      refine Within.snd_snd heq ?_
      exact (layerStep_within _ _).mono
    exact hm1.mono
  · refine (set1_within _ _).after <| (addTo_within _ _ _).after <| ?_
    have hm1 : Within [.regs, .tick, .fe, .eng, .tleq, .tle, .heldDesc, .jnl, .led, .fn, .cache, .draws] m m1 := by
      refine Within.snd_snd heq ?_
      exact (layerStep_within _ _).mono
    exact hm1.mono

theorem advance_within (e : Fin 72) (n : Nat) (m : Mach) : Within [.regs, .tick, .fe, .eng, .tleq, .tle, .heldDesc, .jnl, .led, .fn, .cache, .draws] m (advance e n m) := by
  induction n generalizing m with
  | zero => exact Within.refl _ _
  | succ n ih =>
    unfold advance
    split
    · exact Within.refl _ _
    · split
      · exact Within.refl _ _
      · extract_lets ahead
        split
        · exact Within.refl _ _
        · split
          · exact Within.refl _ _
          · split
            · exact (onEng_within (e := e)).after <|
                (Within.of_onlyIn (l := [.tleq]) fun p hp => by cases p <;> first | exact absurd (by decide) hp | rfl).mono
            · exact (ih _).after (runLayer_within _ _).mono

theorem takeMsg_within (l : Fin 4) (mtype : ℕ) (m : Mach) : Within [.link] m (takeMsg l mtype m).2 := by
  unfold takeMsg
  extract_lets x
  split
  · exact (onLink_within _ _ _).mono
  · exact Within.refl _ _

theorem freeMsg_within (l : Fin 4) (x : LinkMsg) (m : Mach) : Within [.link] m (freeMsg l x m) := by
  unfold freeMsg
  exact (onLink_within _ _ _).mono

theorem refuseCheck_within (l : Fin 4) (m : Mach) : Within [.fus] m (refuseCheck l m) := by
  unfold refuseCheck
  split
  · exact (onFus_within _ _).mono
  · exact Within.refl _ _

theorem advertRx_within (l : Fin 4) (m : Mach) : Within [.regs, .tick, .fus, .jnl, .link, .cache] m (advertRx l m) := by
  unfold advertRx
  split
  · rename_i x snd heq
    exact Within.refl _ _
  · rename_i x x1 m1 heq
    extract_lets pkg agree was m2
    refine (refuseCheck_within _ _).after <| ?_
    split
    · exact (health_within _ _ _ _).after <| (onLink_within _ _ _).after <| (freeMsg_within _ _ _).after <| (Within.snd heq (takeMsg_within _ _ _)).after <| .refl _ _
    · exact (onLink_within _ _ _).after <| (freeMsg_within _ _ _).after <| (Within.snd heq (takeMsg_within _ _ _)).after <| .refl _ _

theorem sendMsg_within (l : Fin 4) (mtype : ℕ) (fmt : ℕ) (func : ℕ) (count : ℕ) (tn : ℕ) (body : List Byte) (m : Mach) : Within [.link] m (sendMsg l mtype fmt func count tn body m) := by
  unfold sendMsg
  split
  · exact (onLink_within _ _ _).mono
  · exact Within.refl _ _

theorem advertSend_within (l : Fin 4) (m : Mach) : Within [.regs, .time, .tick, .enc, .jnl, .link, .cache] m (advertSend l m) := by
  unfold advertSend
  extract_lets x m1 v
  have hm1 : Within [.regs, .time, .tick, .enc, .jnl, .link, .cache] m m1 := by
    unfold m1
    split
    · exact (runToElapsed_within _ _).mono
    · exact Within.refl _ _
  split
  · exact Within.refl _ _
  · exact (sendMsg_within _ _ _ _ _ _ _ _).after <| (onLink_within _ _ _).after <| hm1.mono

theorem whey_within (c : Fld) (tn : ℕ) (m : Mach) : Within [.regs, .tick] m (whey c tn m) := by
  unfold whey
  exact (onAcct_within _ _ _).after <| (inc_within _ _).after <| .refl _ _

theorem putCode_within (p : Fin 16) (pol : Bool) (x : ℕ) (y : ℕ) (code : ℕ) (m : Mach) : Within [.fe] m (putCode p pol x y code m) := by
  unfold putCode
  extract_lets i c v
  exact (onFe_within _ _ _).mono

theorem surfWrite_within (p : Fin 16) (pol : Bool) (x : ℕ) (y : ℕ) (tau : ℤ) (m : Mach) : Within [.fe] m (surfWrite p pol x y tau m) := by
  unfold surfWrite
  split
  · exact Within.refl _ _
  · split
    · split
      · exact (putCode_within _ _ _ _ _ _).mono
      · exact Within.refl _ _
    · exact (putCode_within _ _ _ _ _ _).mono

theorem onRunning_within (f : TickAcct → TickAcct) (m : Mach) : Within [.tick] m (onRunning f m) := by
  unfold onRunning
  exact (onAcct_within _ _ _).mono

theorem countEvent_within (p : Fin 16) (h : HeldEv) (m : Mach) : Within [.regs, .fe] m (countEvent p h m) := by
  unfold countEvent
  extract_lets w tau q start i
  split
  split
  extract_lets m1 m2 m3 m4
  have hm1 : Within [.regs, .fe] m m1 := by
    unfold m1
    split
    · exact (inc_within _ _).mono
    · exact Within.refl _ _
  have hm2 : Within [.regs, .fe] m m2 := by
    unfold m2
    split
    · exact (inc_within _ _).after <| hm1.mono
    · exact hm1.mono
  have hm3 : Within [.regs, .fe] m m3 := by
    unfold m3
    split
    · exact (inc_within _ _).after <| hm2.mono
    · exact hm2.mono
  have hm4 : Within [.regs, .fe] m m4 := by
    unfold m4
    split
    · exact (inc_within _ _).after <| hm3.mono
    · exact hm3.mono
  exact (onFe_within _ _ _).after <| hm4.mono

theorem filterEvent_within (p : Fin 16) (h : HeldEv) (m : Mach) : Within [.regs, .tick, .fe] m (filterEvent p h m) := by
  unfold filterEvent
  extract_lets w tau m1 i
  have hm1 : Within [.regs, .tick, .fe] m m1 := by
    unfold m1
    split
    · exact (surfWrite_within _ _ _ _ _ _).mono
    · exact Within.refl _ _
  split
  · exact (whey_within _ _ _).mono
  · split
    · exact (whey_within _ _ _).mono
    · split
      · exact (onRunning_within _ _).after <| (inc_within _ _).after <| hm1.mono
      · split
        · exact (whey_within _ _ _).after <| hm1.mono
        · split
          extract_lets m2
          split
          · exact (whey_within _ _ _).after <| (onFe_within _ _ _).after <| hm1.mono
          · split
            · exact (onFe_within _ _ _).after <| hm1.mono
            · exact (countEvent_within _ _ _).after <| (onFe_within _ _ _).after <| hm1.mono

theorem agerEnd_within (p : Fin 16) (m : Mach) : Within [.regs, .tick, .fe] m (agerEnd p m) := by
  unfold agerEnd
  extract_lets h m1
  clear_value h
  split
  · exact (filterEvent_within _ _ _).after <| (onFe_within _ _ _).after <| .refl _ _
  · exact (onFe_within _ _ _).mono

theorem startSweep_within (p : Fin 16) (e : ℤ) (m : Mach) : Within [.fe] m (startSweep p e m) := by
  unfold startSweep
  exact (onFe_within _ _ _).mono

theorem agerStart_within (p : Fin 16) (m : Mach) : Within [.regs, .time, .tick, .fe, .enc, .jnl, .cache] m (agerStart p m) := by
  unfold agerStart
  split
  · extract_lets e
    split
    · exact (startSweep_within _ _ _).mono
    · exact (startSweep_within _ _ _).after <| (runTo_within _ _).after <| .refl _ _
  · exact Within.refl _ _

theorem doneOne_within (f : Fin 8) (e : Cpl) (m : Mach) : Within [.jnl, .fn, .out] m (doneOne f e m) := by
  unfold doneOne
  exact (cplWrite_within _ _ _).after <| (onFn_within _ _ _).after <| .refl _ _

theorem fencesDone_within (f : Fin 8) (m : Mach) : Within [.jnl, .fn, .out] m (fencesDone f m) := by
  unfold fencesDone
  refine Within.loop (fun x t => ?_) ?_
  · split
    · exact Within.refl _ _
    · exact (onFn_within _ _ _).after <| (doneOne_within _ _ _).after <| .refl _ _
  · exact Within.refl _ _

theorem done_within (f : Fin 8) (op : ℕ) (ctag : ℕ) (cseq : ℕ) (result : ℕ) (d10 : ℕ) (data : List Byte) (m : Mach) : Within [.jnl, .fn, .out] m (done f op ctag cseq result d10 data m) := by
  unfold done
  exact (fencesDone_within _ _).after <| (doneOne_within _ _ _).after <| .refl _ _

theorem donePending_within (p : Pending) (result : ℕ) (m : Mach) : Within [.jnl, .fn, .out] m (donePending p result m) := by
  unfold donePending
  exact (done_within _ _ _ _ _ _ _ _).mono

theorem installHom_within (k : ℕ) (p : Fin 16) (h : Hom) (tnEff : ℕ) (dCd : ℤ) (dMd : ℤ) (pairs : ℕ) (m : Mach) : Within [.regs, .tick, .fus, .jnl, .cache] m (installHom k p h tnEff dCd dMd pairs m) := by
  unfold installHom
  extract_lets old m1
  exact (write'_within _ _ _ _).after <| (onFus_within _ _).after <| .refl _ _

theorem dropSums_within (p : ℕ) (m : Mach) : Within [.fus] m (dropSums p m) := by
  unfold dropSums
  extract_lets names
  exact (onFus_within _ _).mono

theorem dropInstalls_within (p : ℕ) (m : Mach) : Within [.regs, .fus] m (dropInstalls p m) := by
  unfold dropInstalls
  extract_lets n
  exact (addTo_within _ _ _).after <| (onFus_within _ _).after <| .refl _ _

theorem applyCalChange_within (k : ℕ) (p : Pending) (m : Mach) : Within [.regs, .tick, .fus, .jnl, .fn, .cache, .out] m (applyCalChange k p m) := by
  unfold applyCalChange
  split
  · refine (donePending_within _ _ _).after <| ?_
    exact Within.loop (fun x t => (installHom_within _ _ _ _ _ _ _ _).after <| (dropSums_within _ _).after <| (dropInstalls_within _ _).after <| .refl _ _) (Within.refl _ _)
  · refine (donePending_within _ _ _).after <| ?_
    refine Within.loop (fun x t => ?_) ?_
    · extract_lets now bit
      exact (put_within _ _ _).after <| (dropInstalls_within _ _).after <| .refl _ _
    · exact Within.refl _ _
  · exact Within.refl _ _

theorem eachDue_loop {l : List Part} {a m : Mach} {due : List Pending} {kind : Nat} {f : Pending → Mach → Mach} (h : ∀ p t, Within l t (f p t))
    (hm : Within l a m) : Within l a (eachDue due kind f m) := by
  unfold eachDue
  exact Within.loop (fun n t => Within.loop h (Within.refl _ _)) hm

theorem applyMapChange_within (k : ℕ) (p : Pending) (m : Mach) : Within [.fn] m (applyMapChange k p m) := by
  unfold applyMapChange
  split
  · exact (onFn_within _ _ _).mono
  · exact Within.refl _ _

theorem applyGraphChange_within (k : ℕ) (p : Pending) (m : Mach) : Within [.regs, .images, .jnl, .fn, .out] m (applyGraphChange k p m) := by
  unfold applyGraphChange
  split
  · exact (donePending_within _ _ _).after <| (activate_within _ _ _ _).after <| .refl _ _
  · refine Within.after (b := m) (Within.of_onlyIn (l := [.images]) fun p hp => by cases p <;> first | exact absurd (by decide) hp | rfl) ?_
    exact Within.refl _ _
  · exact Within.refl _ _

theorem fit64_within (v : ℤ) (m : Mach) : Within [.draws] m (fit64 v m).2 := by
  unfold fit64
  split
  · exact Within.refl _ _
  · split
    rename_i x md t2 heq
    exact (Within.snd heq (drawInt_within _)).mono

theorem installOnline_within (k : ℕ) (i : CalInst) (m : Mach) : Within [.regs, .tick, .fus, .jnl, .cache, .draws] m (installOnline k i m) := by
  unfold installOnline
  extract_lets p h raw
  split
  rename_i x es m1 heq
  refine (inc_within _ _).after <| (installHom_within _ _ _ _ _ _ _ _).after <| ?_
  have hm1 : Within [.regs, .tick, .fus, .jnl, .cache, .draws] m m1 := by
    refine Within.snd heq ?_
    refine Within.foldl_snd (fun s x1 => ?_) ?_
    · split
      rename_i x2 md t2 heq1
      exact (Within.snd heq1 (fit64_within _ _)).mono
    · exact Within.refl _ _
  exact hm1.mono

theorem installsDue_within (k : ℕ) (m : Mach) : Within [.regs, .tick, .fus, .jnl, .cache, .draws] m (installsDue k m) := by
  unfold installsDue
  extract_lets due
  exact Within.loop (fun x t => (installOnline_within _ _ _).mono) ((onFus_within _ _).mono)

theorem applyQualityChange_within (k : ℕ) (p : Pending) (m : Mach) : Within [.jnl, .fn, .out] m (applyQualityChange k p m) := by
  unfold applyQualityChange
  split
  · exact (donePending_within _ _ _).after <| (onFn_within _ _ _).after <| .refl _ _
  · exact Within.refl _ _

theorem applyRuleChange_within (k : ℕ) (p : Pending) (m : Mach) : Within [.jnl, .fn, .out] m (applyRuleChange k p m) := by
  unfold applyRuleChange
  split
  · extract_lets change
    exact (donePending_within _ _ _).after <| (onJnl_within _ _).after <| .refl _ _
  · exact Within.refl _ _

theorem applyDue_within (k : ℕ) (m : Mach) : Within [.regs, .tick, .images, .fus, .jnl, .fn, .cache, .draws, .out] m (applyDue k m) := by
  unfold applyDue
  extract_lets isDue due m1 m2 m3
  have hm2 : Within [.regs, .tick, .images, .fus, .jnl, .fn, .cache, .draws, .out] m m2 := by
    unfold m2
    exact eachDue_loop (fun p t => (applyMapChange_within _ _ _).mono) (eachDue_loop (fun p t => (applyGraphChange_within _ _ _).mono) ((onTick_within _ _).mono))
  have hm3 : Within [.regs, .tick, .images, .fus, .jnl, .fn, .cache, .draws, .out] m m3 := by
    unfold m3
    refine (installsDue_within _ _).after <| ?_
    exact eachDue_loop (fun p t => (applyCalChange_within _ _ _).mono) (hm2.mono)
  exact eachDue_loop (fun p t => (applyQualityChange_within _ _ _).mono) (eachDue_loop (fun p t => (applyRuleChange_within _ _ _).mono) (hm3.mono))

theorem setTrack_within (k : ℕ) (t : Track) (m : Mach) : Within [.fus] m (setTrack k t m) := by
  unfold setTrack
  exact (onFus_within _ _).mono

theorem kinAge'_within (tv : ℤ) (mdOk : Bool) (port : ℕ) (m : Mach) : Within [.draws] m (kinAge' tv mdOk port m).2 := by
  unfold kinAge'
  split
  · exact Within.refl _ _
  · split
    rename_i x v m1 heq
    exact (Within.snd heq (drawNat_within _)).mono

theorem dropTrack_within (k : ℕ) (m : Mach) : Within [.fus] m (dropTrack k m) := by
  unfold dropTrack
  exact (onFus_within _ _).mono

theorem retire_within (x : FuseCtx) (k : Nat) (t : Track) (q : Pred) (why : Leave) (s : FuseOut × Mach) :
    Within [.regs, .fus, .draws] s.2 (retire x k t q why s).2 :=
  (inc_within _ _).after <| (dropTrack_within _ _).after (kinAge'_within _ _ _ _).mono

theorem applyFate_within (x : FuseCtx) (ms : List Meas) (k : Nat) (t : Track) (q : Pred) (fate : Fate) (s : FuseOut × Mach) :
    Within [.regs, .tick, .fus, .draws] s.2 (applyFate x ms k t q fate s).2 := by
  unfold applyFate
  cases fate with
  | stay => exact (setTrack_within _ _ _).mono
  | upd i =>
    dsimp only
    split
    · exact (setTrack_within _ _ _).mono
    · have h0 : ∀ v, Within [.regs, .tick, .fus, .draws] s.2 ((s.2.setTrack k v).inc R.FUS_ASSIGNED) :=
        fun v => (inc_within _ _).after (setTrack_within _ _ _).mono
      have h1 : ∀ v b, Within [.regs, .tick, .fus, .draws] s.2
          (if b = true then ((s.2.setTrack k v).inc R.FUS_ASSIGNED).inc R.FUS_VIB_STALE else (s.2.setTrack k v).inc R.FUS_ASSIGNED) := by
        intro v b
        split
        · exact (inc_within _ _).after (h0 v)
        · exact h0 v
      have h2 : ∀ v b c f, Within [.regs, .tick, .fus, .draws] s.2
          (if c = true then
            ((if b = true then ((s.2.setTrack k v).inc R.FUS_ASSIGNED).inc R.FUS_VIB_STALE
              else (s.2.setTrack k v).inc R.FUS_ASSIGNED).inc R.FUS_CONFIRMED).onFus f
          else
            if b = true then ((s.2.setTrack k v).inc R.FUS_ASSIGNED).inc R.FUS_VIB_STALE else (s.2.setTrack k v).inc R.FUS_ASSIGNED) := by
        intro v b c f
        split
        · exact (onFus_within _ _).after <| (inc_within _ _).after (h1 v b)
        · exact h1 v b
      exact h2 _ _ _ _
  | kin r38 =>
    dsimp only
    have hm0 : Within [.regs, .tick, .fus, .draws] s.2 (kinAge' x.tv x.md.isSome t.c.port s.2).2 := (kinAge'_within _ _ _ _).mono
    generalize kinAge' x.tv x.md.isSome t.c.port s.2 = r at hm0 ⊢
    obtain ⟨⟨age, stale⟩, m0⟩ := r
    have h1 : ∀ v, Within [.regs, .tick, .fus, .draws] s.2 ((m0.setTrack k v).inc R.FUS_KINEMATIC) :=
      fun v => (inc_within _ _).after <| (setTrack_within _ _ _).after hm0
    have h2 : ∀ v, Within [.regs, .tick, .fus, .draws] s.2
        (if stale = true then ((m0.setTrack k v).inc R.FUS_KINEMATIC).inc R.FUS_VIB_STALE else (m0.setTrack k v).inc R.FUS_KINEMATIC) := by
      intro v
      split
      · exact (inc_within _ _).after (h1 v)
      · exact h1 v
    dsimp only
    split
    · exact (onAcct_within _ _ _).after (h2 _)
    · exact h2 _
  | miss =>
    dsimp only
    split
    · split
      · exact (inc_within _ _).after (dropTrack_within _ _).mono
      · exact (setTrack_within _ _ _).mono
    · split
      · exact (setTrack_within _ _ _).mono
      · split
        · exact (setTrack_within _ _ _).mono
        · split
          · exact (setTrack_within _ _ _).mono
          · exact (retire_within _ _ _ _ _ _).mono

theorem applyG_within (g : Fin 6) (m : Mach) : Within [.regs, .led] m (applyG g m) := by
  unfold applyG
  split
  · exact (onLed_within _ _).after <| (put_within _ _ _).after <| .refl _ _
  · exact Within.refl _ _

theorem applyHot_within (p : Fin 16) (m : Mach) : Within [.fe] m (applyHot p m) := by
  unfold applyHot
  extract_lets base n
  refine Within.loop (fun x t => ?_) ?_
  · extract_lets e x1 y
    split
    · exact (putCode_within _ _ _ _ _ _).mono
    · exact Within.refl _ _
  · exact Within.refl _ _

theorem applyLinkStaged_within (l : Fin 4) (m : Mach) : Within [.regs, .link] m (applyLinkStaged l m) := by
  unfold applyLinkStaged
  extract_lets m1
  have hm1 : Within [.regs, .link] m m1 := by
    unfold m1
    exact Within.loop (fun x t => (wr_within _ _ _).mono) (Within.refl _ _)
  exact (onLink_within _ _ _).after <| hm1.mono

theorem renumber_within (k : ℕ) (j : ℕ) (m : Mach) : Within [.fe, .images, .fus, .jnl, .fn, .link] m (renumber k j m) := by
  unfold renumber
  extract_lets from_ x __src_1
  refine Within.after (b := m) (Within.of_onlyIn (l := [.fe, .images, .fus, .jnl, .fn, .link]) fun p hp => by cases p <;> first | exact absurd (by decide) hp | rfl) ?_
  exact Within.refl _ _

theorem cancelPending_within (which : Pending → Bool) (m : Mach) : Within [.tick, .jnl, .fn, .out] m (cancelPending which m) := by
  unfold cancelPending
  exact Within.loop (fun x t => (donePending_within _ _ _).mono) ((onTick_within _ _).mono)

theorem applyLoad_within (l : LoadDue) (j : ℕ) (m : Mach) : Within [.tick, .fe, .images, .fus, .jnl, .fn, .link, .out] m (applyLoad l j m) := by
  unfold applyLoad
  extract_lets m1
  exact (donePending_within _ _ _).after <| (onTick_within _ _).after <| (cancelPending_within _ _).after <| (onTick_within _ _).after <| (renumber_within _ _ _).after <| .refl _ _

theorem onOne_loop {l : List Part} {a m : Mach} {w : RegWr} {k : Nat} {op : Mach → Mach} (h : ∀ t, Within l t (op t)) (hm : Within l a m) :
    Within l a (onOne w k op m) := by
  unfold onOne
  split
  · exact hm.trans (h m)
  · exact hm

theorem otherFirmware_within (m : Mach) : Within [.chip, .draws] m (otherFirmware m) := by
  unfold otherFirmware
  split
  rename_i x v m1 heq
  refine Within.after (b := m1) (Within.of_onlyIn (l := [.chip]) fun p hp => by cases p <;> first | exact absurd (by decide) hp | rfl) ?_
  exact (Within.snd heq (drawNat_within _)).mono

theorem imageLoaded_within (ok : Bool) (m : Mach) : Within [.chip, .regs, .rst, .draws] m (imageLoaded ok m) := by
  unfold imageLoaded
  split
  · exact (otherFirmware_within _).after <| (put_within _ _ _).after <| (onRst_within _ _).after <| .refl _ _
  · exact (inc_within _ _).after <| (put_within _ _ _).after <| (onRst_within _ _).after <| .refl _ _

theorem bootGo_within (ok : Bool) (m : Mach) : Within [.chip, .regs, .rst, .draws] m (bootGo ok m) := by
  unfold bootGo
  split
  · exact (imageLoaded_within _ _).mono
  · exact Within.refl _ _

theorem glbWrite_within (w : RegWr) (m : Mach) : Within [.chip, .regs, .rst, .draws] m (glbWrite w m) := by
  unfold glbWrite
  split
  · refine onOne_loop (fun t => ?_) ?_
    · split
      rename_i x v m1 heq
      exact (bootGo_within _ _).after <| (Within.snd heq (drawNat_within _)).after <| .refl _ _
    · exact Within.refl _ _
  · exact (plainWrite_within _ _ _).mono

theorem recordCause_within (code : ℕ) (detail : ℕ) (m : Mach) : Within [.regs, .rst] m (recordCause code detail m) := by
  unfold recordCause
  extract_lets m1 old bit
  exact (put_within _ _ _).after <| (onRst_within _ _).after <| (put_within _ _ _).after <| (put_within _ _ _).after <| .refl _ _

theorem stopLearning_within (m : Mach) : Within [.regs] m (stopLearning m) := by
  unfold stopLearning
  exact Within.loop (fun x t => (clr_within _ _).mono) (Within.refl _ _)

theorem clearCompute_within (m : Mach) : Within [.fe, .eng, .tleq, .tle, .heldDesc, .pops, .spikes, .lvl, .cache] m (clearCompute m) := by
  refine ⟨fun p hp => by cases p <;> first | exact absurd (by decide) hp | rfl, fun ⟨hr, hd, _⟩ => ⟨hr, hd, fun e => ?_⟩, fun _ d => ?_⟩
  · show Mem.wf ((Vector.replicate 72 ({} : Engine)).get e).sram = true
    rw [show (Vector.replicate 72 ({} : Engine)).get e = {} from Vector.getElem_replicate ..]
    rfl
  · have hd : (clearCompute m).lvl.get d = { m.lvl.get d with freq := 0, volt := 0, voltEdge := false, edge := false, emerg := false, raising := none, stretch := none } :=
      Vector.getElem_map ..
    rw [hd]

theorem dropIn_within (p : ℕ) (roi : Bool) (tn : ℕ) (m : Mach) : Within [.tick] m (dropIn p roi tn m) := by
  unfold dropIn
  exact (onAcct_within _ _ _).mono

theorem lostPacket_within (p : Fin 16) (k : VatPacket) (m : Mach) : Within [.tick] m (lostPacket p k m) := by
  unfold lostPacket
  extract_lets ticks
  exact Within.loop (fun x t => (dropIn_within _ _ _ _).mono) (Within.refl _ _)

theorem settings_within (p : Fin 16) (m : Mach) : Within [.regs] m (settings p m) := by
  unfold settings
  exact Within.loop (fun x t => (wr_within _ _ _).mono) (Within.refl _ _)

theorem evalFc_within (p : Fin 16) (m : Mach) : Within [.regs, .port] m (evalFc p m) := by
  unfold evalFc
  extract_lets s f
  split
  · exact (onPort_within _ _ _).mono
  · split
    · exact (onPort_within _ _ _).mono
    · exact Within.refl _ _

theorem flushNow_within (p : Fin 16) (m : Mach) : Within [.regs, .tick, .port, .jnl, .fn, .out] m (flushNow p m) := by
  unfold flushNow
  extract_lets x m1 m2
  have hm2 : Within [.regs, .tick, .port, .jnl, .fn, .out] m m2 := by
    unfold m2
    exact Within.loop (fun x1 t => (lostPacket_within _ _ _).mono) ((addTo_within _ _ _).after <| (onPort_within _ _ _).after <| .refl _ _)
  exact Within.loop (fun x1 t => (done_within _ _ _ _ _ _ _ _).mono) ((evalFc_within _ _).after <| hm2.mono)

theorem fitOff_within (p : Fin 16) (m : Mach) : Within [.port] m (fitOff p m) := by
  unfold fitOff
  exact (onPort_within _ _ _).mono

theorem lostRaw_within (p : Fin 16) (m : Mach) : Within [.tick] m (lostRaw p m) := by
  unfold lostRaw
  exact (dropIn_within _ _ _ _).mono

theorem discardVat_within (p : Fin 16) (count : Bool) (m : Mach) : Within [.regs, .tick, .port] m (discardVat p count m) := by
  unfold discardVat
  extract_lets x m1 inRead committed m2 m3 m4
  have hm3 : Within [.regs, .tick, .port] m m3 := by
    unfold m3
    exact Within.loop (fun x1 t => (lostPacket_within _ _ _).mono) ((addTo_within _ _ _).after <| (onPort_within _ _ _).after <| .refl _ _)
  have hm4 : Within [.regs, .tick, .port] m m4 := by
    unfold m4
    split
    · split
      · exact hm3.mono
      · exact (lostRaw_within _ _).after <| hm3.mono
    · exact hm3.mono
  split
  · exact (evalFc_within _ _).after <| (onPort_within _ _ _).after <| .refl _ _
  · exact (evalFc_within _ _).after <| hm4.mono

theorem flushVats_within (count : Bool) (m : Mach) : Within [.regs, .tick, .port, .jnl, .fn, .out] m (flushVats count m) := by
  unfold flushVats
  refine Within.loop (fun x t => ?_) ?_
  · extract_lets t1
    have ht1 : Within [.regs, .tick, .port, .jnl, .fn, .out] t t1 := by
      unfold t1
      split
      · exact (flushNow_within _ _).mono
      · exact Within.refl _ _
    exact (fitOff_within _ _).after <| (onPort_within _ _ _).after <| (discardVat_within _ _ _).after <| ht1.mono
  · exact Within.refl _ _

theorem computeStart_within (m : Mach) : Within [.regs, .tick, .port, .fe, .eng, .tleq, .tle, .heldDesc, .pops, .spikes, .jnl, .led, .lvl, .sleep, .fn, .rst, .cache, .out] m (computeStart m) := by
  unfold computeStart
  split
  · exact (set1_within _ _).mono
  · extract_lets m1 m2
    exact (onSleep_within _ _).after <| (onTick_within _ _).after <| (onRst_within _ _).after <| (stopLearning_within _).after <| (clearCompute_within _).after <| (flushVats_within _ _).after <| (abandonWork_within _).after <| (inc_within _ _).after <| (recordCause_within _ _ _).after <| .refl _ _

theorem blockGo_within (kind : ℕ) (unit : ℕ) (m : Mach) : Within [.regs, .rst] m (blockGo kind unit m) := by
  unfold blockGo
  extract_lets m1
  split
  · exact (set1_within _ _).after <| (put_within _ _ _).after <| (put_within _ _ _).after <| .refl _ _
  · split
    · exact (set1_within _ _).after <| (put_within _ _ _).after <| (put_within _ _ _).after <| .refl _ _
    · exact (onRst_within _ _).after <| (put_within _ _ _).after <| (put_within _ _ _).after <| .refl _ _

theorem rstWrite_within (w : RegWr) (m : Mach) : Within [.regs, .tick, .port, .fe, .eng, .tleq, .tle, .heldDesc, .pops, .spikes, .jnl, .led, .lvl, .sleep, .fn, .rst, .cache, .out] m (rstWrite w m) := by
  unfold rstWrite
  split
  · exact onOne_loop (fun t => (computeStart_within _).mono) (Within.refl _ _)
  · extract_lets m1
    exact onOne_loop (fun t => (blockGo_within _ _ _).mono) ((plainWrite_within _ _ _).mono)
  · exact (plainWrite_within _ _ _).mono

theorem s3Ask_within (m : Mach) : Within [.regs, .tick, .jnl, .sleep, .cache] m (s3Ask m) := by
  unfold s3Ask
  split
  · exact Within.refl _ _
  · exact (health_within _ _ _ _).after <| (onSleep_within _ _).after <| .refl _ _

theorem stopTicks_within (m : Mach) : Within [.tick, .sleep] m (stopTicks m) := by
  unfold stopTicks
  exact (onSleep_within _ _).after <| (onTick_within _ _).after <| .refl _ _

theorem goS3_within (m : Mach) : Within [.regs, .tick, .jnl, .sleep, .cache] m (goS3 m) := by
  unfold goS3
  split
  · exact Within.refl _ _
  · split
    · exact (s3Ask_within _).mono
    · exact (stopTicks_within _).after <| (s3Ask_within _).after <| .refl _ _

theorem pwrWrite_within (w : RegWr) (m : Mach) : Within [.regs, .tick, .jnl, .led, .sleep, .cache] m (pwrWrite w m) := by
  unfold pwrWrite
  extract_lets o
  split
  · exact (onLed_within _ _).mono
  · split
    · exact onOne_loop (fun t => (goS3_within _).mono) ((plainWrite_within _ _ _).mono)
    · exact (plainWrite_within _ _ _).mono

theorem runSome_within (e : Fin 72) (n : Nat) (m : Mach) : Within [.regs, .tick, .fe, .eng, .tleq, .tle, .heldDesc, .jnl, .led, .fn, .cache, .draws] m (runSome e n m) := by
  induction n generalizing m with
  | zero => exact Within.refl _ _
  | succ n ih =>
    unfold runSome
    split
    · exact Within.refl _ _
    · split
      · exact (ih _).after (runLayer_within _ _).mono
      · exact Within.refl _ _

theorem settleRun_within (e : Fin 72) (m : Mach) : Within [.regs, .tick, .fe, .eng, .tleq, .tle, .heldDesc, .jnl, .led, .fn, .cache, .draws] m (settleRun e m) := by
  unfold settleRun
  split
  · exact Within.refl _ _
  · split
    · exact Within.refl _ _
    · split
      rename_i x v m1 heq
      extract_lets m2 part
      exact (onEng_within).after <| (runSome_within _ _ _).after <| (Within.snd heq (drawNat_within _)).after <| .refl _ _

theorem setEdge_within (d : Fin 4) (edge : Bool) (m : Mach) : Within [.regs, .tick, .fe, .eng, .tleq, .tle, .heldDesc, .jnl, .led, .lvl, .fn, .cache, .draws] m (setEdge d edge m) := by
  unfold setEdge
  split
  · exact Within.refl _ _
  · refine (onLvl_within).after <| ?_
    exact Within.loop (fun x t => (settleRun_within _ _).mono) (Within.refl _ _)

theorem clkManual_within (d : Fin 4) (val : Word) (m : Mach) : Within [.regs, .tick, .fe, .eng, .tleq, .tle, .heldDesc, .jnl, .led, .lvl, .fn, .cache, .draws, .out] m (clkManual d val m) := by
  unfold clkManual
  extract_lets v man f u l e
  split
  · exact (set1_within _ _).mono
  · split
    · exact (set1_within _ _).mono
    · rename_i hok
      have hfu : f ≤ u := by
        simp only [Bool.or_eq_true, decide_eq_true_eq, not_or, Nat.not_lt] at hok
        exact hok.1
      split
      · exact (emit_within _ _).after <| (onLvl_within (by intro _ _; exact hfu)).after <| (setEdge_within _ _ _).after (wr_within _ _ _).mono
      · exact (wr_within _ _ _).mono

theorem clkDieWrite_within (w : RegWr) (m : Mach) : Within [.regs, .tick, .fe, .eng, .tleq, .tle, .heldDesc, .jnl, .led, .lvl, .fn, .cache, .draws, .out] m (clkDieWrite w m) := by
  unfold clkDieWrite
  split
  · exact (clkManual_within _ _ _).mono
  · exact (plainWrite_within _ _ _).mono

theorem timSnap_within (p : Party) (m : Mach) : Within [.regs, .time, .tick, .enc, .jnl, .cache] m (timSnap p m) := by
  unfold timSnap
  extract_lets m1
  split
  · exact (onTime_within _ _).after <| (runIncs_within _ _).after <| .refl _ _
  · exact (onTime_within _ _).after <| (runIncs_within _ _).after <| .refl _ _

theorem stagedCancel_within (m : Mach) : Within [.time] m (stagedCancel m) := by
  unfold stagedCancel
  exact (onTime_within _ _).mono

theorem stagedGo_within (force : Bool) (atEn : Bool) (adj : Bool) (m : Mach) : Within [.regs, .time] m (stagedGo force atEn adj m) := by
  unfold stagedGo
  extract_lets m1 ns sec bad v at_ st
  split
  · exact (set1_within _ _).after <| (put_within _ _ _).after <| (put_within _ _ _).after <| (put_within _ _ _).after <| .refl _ _
  · exact (onTime_within _ _).after <| (put_within _ _ _).after <| (put_within _ _ _).after <| (put_within _ _ _).after <| .refl _ _

theorem timeStatus_within (offset : ℤ) (old : Quality) (new : Quality) (source : ℕ) (cause : ℕ) (step : ℤ) (m : Mach) : Within [.regs, .tick, .jnl, .cache] m (timeStatus offset old new source cause step m) := by
  unfold timeStatus
  exact (writeAll_within _ _ _).mono

theorem setQuality_within (q : Quality) (m : Mach) : Within [.regs, .time, .tick, .jnl, .cache] m (setQuality q m) := by
  unfold setQuality
  split
  · exact Within.refl _ _
  · extract_lets old
    exact (timeStatus_within _ _ _ _ _ _ _).after <| (onTime_within _ _).after <| .refl _ _

theorem servoEn_within (en : Bool) (m : Mach) : Within [.regs, .time, .tick, .jnl, .cache] m (servoEn en m) := by
  unfold servoEn
  extract_lets m1
  split
  · exact (put_within _ _ _).mono
  · exact (setQuality_within _ _).after <| (onServo_within _ _).after <| (put_within _ _ _).after <| .refl _ _

theorem holdWrite_within (w : RegWr) (m : Mach) : Within [.regs] m (holdWrite w m) := by
  unfold holdWrite
  exact (wr_within _ _ _).mono

theorem servoClamped_within (m : Mach) : Within [.regs, .time, .tick, .jnl, .cache] m (servoClamped m) := by
  unfold servoClamped
  extract_lets m1 fresh
  split
  · exact (health_within _ _ _ _).after <| (onServo_within _ _).after <| (set1_within _ _).after <| .refl _ _
  · exact (set1_within _ _).mono

theorem applySample_within (theta : ℤ) (delta : ℤ) (m : Mach) : Within [.regs, .time, .tick, .jnl, .cache] m (applySample theta delta m) := by
  unfold applySample
  extract_lets v r i raw y avg inLock run m1 m2
  have hm2 : Within [.regs, .time, .tick, .jnl, .cache] m m2 := by
    unfold m2
    split
    · exact (onTime_within _ _).mono
    · exact (servoClamped_within _).after <| (onTime_within _ _).after <| .refl _ _
  split
  · exact (setQuality_within _ _).after <| hm2.mono
  · exact hm2.mono

theorem startSlew_within (theta : ℤ) (m : Mach) : Within [.regs, .time, .tick, .jnl, .cache, .draws] m (startSlew theta m) := by
  unfold startSlew
  extract_lets yHold sgn ys gap
  split
  rename_i x v m1 heq
  extract_lets dur m11
  have hm11 : Within [.regs, .time, .tick, .jnl, .cache, .draws] m m11 := by
    unfold m11
    refine (onTime_within _ _).after <| ?_
    have hm1 : Within [.regs, .time, .tick, .jnl, .cache, .draws] m m1 := by
      refine Within.snd heq ?_
      split
      · exact (drawNat_within _).mono
      · exact Within.refl _ _
    exact hm1.mono
  exact (timeStatus_within _ _ _ _ _ _ _).after <| (inc_within _ _).after <| hm11.mono

theorem returningSample_within (theta : ℤ) (delta : ℤ) (m : Mach) : Within [.regs, .time, .tick, .jnl, .cache, .draws] m (returningSample theta delta m) := by
  unfold returningSample
  extract_lets slewMax
  split
  · exact (applySample_within _ _ _).mono
  · split
    · exact (startSlew_within _ _).mono
    · split
      · exact (onServo_within _ _).mono
      · exact (startSlew_within _ _).after <| (timeStatus_within _ _ _ _ _ _ _).after <| (inc_within _ _).after <| .refl _ _

theorem enterHoldover_within (spikes : Bool) (m : Mach) : Within [.regs, .time, .tick, .jnl, .cache] m (enterHoldover spikes m) := by
  unfold enterHoldover
  extract_lets avg m1
  exact (setQuality_within _ _).after <| (inc_within _ _).after <| (onTime_within _ _).after <| .refl _ _

theorem servoSample_within (theta : ℤ) (at_ : ℤ) (m : Mach) : Within [.regs, .time, .tick, .jnl, .cache, .draws] m (servoSample theta at_ m) := by
  unfold servoSample
  split
  · exact Within.refl _ _
  · extract_lets v delta m1 m2
    split
    · exact (inc_within _ _).after <| (onTime_within _ _).after <| .refl _ _
    · split
      · split
        · exact (inc_within _ _).after <| (onServo_within _ _).after <| (inc_within _ _).after <| (onTime_within _ _).after <| .refl _ _
        · exact (returningSample_within _ _ _).after <| (enterHoldover_within _ _).after <| (inc_within _ _).after <| (onTime_within _ _).after <| .refl _ _
      · split
        · exact (returningSample_within _ _ _).after <| (onServo_within _ _).after <| (inc_within _ _).after <| (onTime_within _ _).after <| .refl _ _
        · exact (applySample_within _ _ _).after <| (onServo_within _ _).after <| (inc_within _ _).after <| (onTime_within _ _).after <| .refl _ _

theorem servoOffset_within (hi : Word) (m : Mach) : Within [.regs, .time, .tick, .jnl, .cache, .draws] m (servoOffset hi m) := by
  unfold servoOffset
  split
  · exact (servoSample_within _ _ _).mono
  · exact (set1_within _ _).mono

theorem timWrite_within (w : RegWr) (m : Mach) : Within [.regs, .time, .tick, .enc, .jnl, .cache, .draws] m (timWrite w m) := by
  unfold timWrite
  split
  · exact onOne_loop (fun t => (timSnap_within _ _).mono) ((plainWrite_within _ _ _).mono)
  · extract_lets m1
    have hm1 : Within [.regs, .time, .tick, .enc, .jnl, .cache, .draws] m m1 := by
      unfold m1
      exact onOne_loop (fun t => (stagedCancel_within _).mono) ((plainWrite_within _ _ _).mono)
    exact onOne_loop (fun t => (stagedGo_within _ _ _ _).mono) (hm1.mono)
  · exact onChange_loop (fun b t => (servoEn_within _ _).mono) ((plainWrite_within _ _ _).mono)
  · split
    · exact (holdWrite_within _ _).mono
    · exact (set1_within _ _).mono
  · exact (servoOffset_within _ _).mono
  · exact (plainWrite_within _ _ _).mono

theorem armTrig_within (o : Fin 8) (m : Mach) : Within [.regs, .time] m (armTrig o m) := by
  unfold armTrig
  extract_lets start width period idle
  split
  · split
    · exact (set1_within _ _).after <| (onTrig_within _ _ _).after <| .refl _ _
    · exact (onTrig_within _ _ _).after <| (onTrig_within _ _ _).after <| .refl _ _
  · split
    · exact (onTrig_within _ _ _).after <| (onTrig_within _ _ _).after <| .refl _ _
    · exact (set1_within _ _).after <| (onTrig_within _ _ _).after <| .refl _ _
  · exact (onTrig_within _ _ _).after <| (onTrig_within _ _ _).after <| .refl _ _
  · exact (onTrig_within _ _ _).mono

theorem trigCtrl_within (o : Fin 8) (val : Word) (m : Mach) : Within [.regs, .time] m (trigCtrl o val m) := by
  unfold trigCtrl
  extract_lets v m1 m2
  have hm1 : Within [.regs, .time] m m1 := by
    unfold m1
    split
    · exact (clr_within _ _).mono
    · exact Within.refl _ _
  exact (armTrig_within _ _).after <| (put_within _ _ _).after <| (put_within _ _ _).after <| (put_within _ _ _).after <| (put_within _ _ _).after <| hm1.mono

theorem trigWrite_within (w : RegWr) (m : Mach) : Within [.regs, .time] m (trigWrite w m) := by
  unfold trigWrite
  split
  · exact (trigCtrl_within _ _ _).mono
  · exact (plainWrite_within _ _ _).mono

theorem ptpTxGo_within (party : Party) (cmd : Word) (m : Mach) : Within [.regs, .net] m (ptpTxGo party cmd m) := by
  unfold ptpTxGo
  split
  · extract_lets m1
    split
    · exact (put_within _ _ _).after <| (set1_within _ _).after <| .refl _ _
    · exact (set1_within _ _).mono
  · split
    · exact Within.refl _ _
    · extract_lets v m1
      split
      · exact (onNet_within _ _).after <| (put_within _ _ _).after <| (set1_within _ _).after <| (wr_within _ _ _).after <| .refl _ _
      · exact (wr_within _ _ _).mono

theorem ptpPop_within (party : Party) (m : Mach) : Within [.regs, .net] m (ptpPop party m) := by
  unfold ptpPop
  split
  · exact (set1_within _ _).mono
  · split
    · exact Within.refl _ _
    · exact (onNet_within _ _).mono

theorem ptpWrite_within (w : RegWr) (m : Mach) : Within [.regs, .net] m (ptpWrite w m) := by
  unfold ptpWrite
  split
  · extract_lets m1
    split
    · exact (onNet_within _ _).after <| (plainWrite_within _ _ _).after <| .refl _ _
    · exact (plainWrite_within _ _ _).mono
  · exact (ptpTxGo_within _ _ _).mono
  · exact onOne_loop (fun t => (ptpPop_within _ _).mono) (Within.refl _ _)
  · exact (plainWrite_within _ _ _).mono

theorem destDown_within (d : Fin 8) (m : Mach) : Within [.regs, .tick, .jnl, .net, .cache] m (destDown d m) := by
  unfold destDown
  split
  · exact Within.refl _ _
  · exact (health_within _ _ _ _).after <| (inc_within _ _).after <| (onDest_within _ _ _).after <| .refl _ _

theorem destFallback_within (d : Fin 8) (m : Mach) : Within [.regs, .tick, .jnl, .net, .cache] m (destFallback d m) := by
  unfold destFallback
  extract_lets x
  split
  · exact (health_within _ _ _ _).after <| (inc_within _ _).after <| (onDest_within _ _ _).after <| .refl _ _
  · exact Within.refl _ _

theorem judgeDest_within (d : Fin 8) (m : Mach) : Within [.regs, .tick, .jnl, .net, .cache] m (judgeDest d m) := by
  unfold judgeDest
  split
  · exact Within.refl _ _
  · extract_lets m1 m2
    have hm1 : Within [.regs, .tick, .jnl, .net, .cache] m m1 := by
      unfold m1
      split
      · exact (onDest_within _ _ _).mono
      · exact Within.refl _ _
    have hm2 : Within [.regs, .tick, .jnl, .net, .cache] m m2 := by
      unfold m2
      split
      · exact (destDown_within _ _).after <| hm1.mono
      · exact hm1.mono
    exact (destFallback_within _ _).after <| hm2.mono

theorem ethSend_within (p : Fin 2) (x : EthTx) (m : Mach) : Within [.regs, .out] m (ethSend p x m) := by
  unfold ethSend
  exact (inc_within _ _).after <| (emit_within _ _).after <| .refl _ _

theorem askHops_within (d : Fin 8) (m : Mach) : Within [.regs, .out] m (askHops d m) := by
  unfold askHops
  split
  · exact Within.refl _ _
  · extract_lets ports
    exact Within.loop (fun x t => (ethSend_within _ _ _).mono) (Within.refl _ _)

theorem ethLink_within (p : Fin 2) (up : Bool) (m : Mach) : Within [.regs, .tick, .jnl, .net, .cache, .out] m (ethLink p up m) := by
  unfold ethLink
  split
  · exact Within.refl _ _
  · extract_lets m1
    refine Within.loop (fun x t => ?_) ?_
    · refine (judgeDest_within _ _).after <| ?_
      split
      · exact (askHops_within _ _).mono
      · exact Within.refl _ _
    · exact (health_within _ _ _ _).after <| (set1_within _ _).after <| (onNet_within _ _).after <| .refl _ _

theorem ethWrite_within (w : RegWr) (m : Mach) : Within [.regs, .tick, .jnl, .net, .cache, .out] m (ethWrite w m) := by
  unfold ethWrite
  extract_lets p m1
  split
  · exact (ethLink_within _ _ _).after <| (plainWrite_within _ _ _).after <| .refl _ _
  · exact (plainWrite_within _ _ _).mono

theorem rrtWrite_within (w : RegWr) (m : Mach) : Within [.regs] m (rrtWrite w m) := by
  unfold rrtWrite
  split
  · exact (holdWrite_within _ _).mono
  · exact (plainWrite_within _ _ _).mono

theorem destDisable_within (d : Fin 8) (m : Mach) : Within [.regs, .jnl, .net] m (destDisable d m) := by
  unfold destDisable
  extract_lets waiting m1
  exact (freeSlots_within _).after <| (onDest_within _ _ _).after <| (onJnl_within _ _).after <| (addTo_within _ _ _).after <| (clr_within _ _).after <| .refl _ _

theorem destEnable_within (d : Fin 8) (m : Mach) : Within [.regs, .tick, .jnl, .net, .cache, .out] m (destEnable d m) := by
  unfold destEnable
  exact (judgeDest_within _ _).after <| (askHops_within _ _).after <| (set1_within _ _).after <| .refl _ _

theorem rrtDestWrite_within (w : RegWr) (m : Mach) : Within [.regs, .tick, .jnl, .net, .cache, .out] m (rrtDestWrite w m) := by
  unfold rrtDestWrite
  extract_lets d was m1
  have hm1 : Within [.regs, .tick, .jnl, .net, .cache, .out] m m1 := by
    unfold m1
    split
    · exact Within.refl _ _
    · exact (plainWrite_within _ _ _).mono
  split
  · split
    · exact (destDisable_within _ _).after <| hm1.mono
    · split
      · exact (destEnable_within _ _).after <| hm1.mono
      · exact hm1.mono
  · exact hm1.mono

theorem ringDisable_within (f : Fin 8) (r : Fin 7) (m : Mach) : Within [.regs] m (ringDisable f r m) := by
  unfold ringDisable
  exact (clr_within _ _).mono

theorem errEvent_within (f : Fin 8) (m : Mach) : Within [.out] m (errEvent f m) := by
  unfold errEvent
  exact (msix_within _ _ _).mono

theorem payOwed_within (f : Fin 8) (m : Mach) : Within [.jnl, .fn, .out] m (payOwed f m) := by
  unfold payOwed
  extract_lets l
  exact Within.loop (fun x t => (cplWrite_within _ _ _).mono) ((onFn_within _ _ _).mono)

theorem cplReconcile_within (f : Fin 8) (cfg : RingCfg) (m : Mach) : Within [.regs, .jnl, .fn] m (cplReconcile f cfg m) := by
  unfold cplReconcile
  extract_lets d
  split
  · exact (inc_within _ _).after <| (advanceDelivery_within _ _ _ _ _).after <| (onRing_within _ _ _ _).after <| .refl _ _
  · exact Within.refl _ _

theorem ringEnable_within (f : Fin 8) (r : Fin 7) (cfg : RingCfg) (m : Mach) : Within [.regs, .jnl, .fn, .out] m (ringEnable f r cfg m) := by
  unfold ringEnable
  split
  · exact Within.refl _ _
  · extract_lets m0 m1 m2 open_
    have hm2 : Within [.regs, .jnl, .fn, .out] m m2 := by
      unfold m2
      split
      · exact (set1_within _ _).after <| (put_within _ _ _).after <| (put_within _ _ _).after <| .refl _ _
      · exact (onRing_within _ _ _ _).after <| (set1_within _ _).after <| (put_within _ _ _).after <| (put_within _ _ _).after <| .refl _ _
    split
    · exact (errEvent_within _ _).after <| (set1_within _ _).after <| (put_within _ _ _).after <| (put_within _ _ _).after <| .refl _ _
    · split
      · refine (payOwed_within _ _).after <| (cplReconcile_within _ _ _).after <| ?_
        unfold open_
        split
        · exact hm2.mono
        · exact (onDelivery_within _ _ _ _).after <| hm2.mono
      · unfold open_
        split
        · exact hm2.mono
        · exact (onDelivery_within _ _ _ _).after <| hm2.mono
      · unfold open_
        split
        · exact hm2.mono
        · exact (onDelivery_within _ _ _ _).after <| hm2.mono
      · unfold open_
        split
        · exact hm2.mono
        · exact (onDelivery_within _ _ _ _).after <| hm2.mono
      · unfold open_
        split
        · exact hm2.mono
        · exact (onDelivery_within _ _ _ _).after <| hm2.mono
      · exact hm2.mono

theorem hifFnWrite_within (f : Fin 8) (w : RegWr) (m : Mach) : Within [.regs, .jnl, .fn, .draws, .out] m (hifFnWrite f w m) := by
  unfold hifFnWrite
  split
  · extract_lets r n keep
    split
    · split
      · exact (ringDisable_within _ _ _).after <| (plainWrite_within _ _ _).after <| .refl _ _
      · exact Within.refl _ _
    · split
      · split
        rename_i x v m1 heq
        split
        rename_i x1 v1 m11 heq1
        split
        rename_i x2 v2 m12 heq2
        refine (ringEnable_within _ _ _ _).after <| ?_
        have hm12 : Within [.regs, .jnl, .fn, .draws, .out] m m12 := by
          refine Within.snd heq2 ?_
          split
          · refine (drawNat_within _).after <| ?_
            have hm11 : Within [.regs, .jnl, .fn, .draws, .out] m m11 := by
              refine Within.snd heq1 ?_
              split
              · refine (drawNat_within _).after <| ?_
                have hm1 : Within [.regs, .jnl, .fn, .draws, .out] m m1 := by
                  refine Within.snd heq ?_
                  split
                  · exact (drawNat_within _).mono
                  · exact (drawNat_within _).mono
                exact hm1.mono
              · refine (drawNat_within _).after <| ?_
                have hm1 : Within [.regs, .jnl, .fn, .draws, .out] m m1 := by
                  refine Within.snd heq ?_
                  split
                  · exact (drawNat_within _).mono
                  · exact (drawNat_within _).mono
                exact hm1.mono
            exact hm11.mono
          · have hm11 : Within [.regs, .jnl, .fn, .draws, .out] m m11 := by
              refine Within.snd heq1 ?_
              split
              · refine (drawNat_within _).after <| ?_
                have hm1 : Within [.regs, .jnl, .fn, .draws, .out] m m1 := by
                  refine Within.snd heq ?_
                  split
                  · exact (drawNat_within _).mono
                  · exact (drawNat_within _).mono
                exact hm1.mono
              · have hm1 : Within [.regs, .jnl, .fn, .draws, .out] m m1 := by
                  refine Within.snd heq ?_
                  split
                  · exact (drawNat_within _).mono
                  · exact Within.refl _ _
                exact hm1.mono
            exact hm11.mono
        exact hm12.mono
      · exact (plainWrite_within _ _ _).mono
  · exact (plainWrite_within _ _ _).mono

theorem secRelock_within (m : Mach) : Within [.rst] m (secRelock m) := by
  unfold secRelock
  exact (onRst_within _ _).mono

theorem secWrite_within (w : RegWr) (m : Mach) : Within [.regs, .rst] m (secWrite w m) := by
  unfold secWrite
  split
  · exact onOne_loop (fun t => (secRelock_within _).mono) (Within.refl _ _)
  · exact (plainWrite_within _ _ _).mono

theorem mbAnswer_within (status : ℕ) (values : List ℤ) (len : ℕ) (m : Mach) : Within [.regs, .mgt, .mgtSci, .out] m (mbAnswer status values len m) := by
  unfold mbAnswer
  split
  · exact Within.refl _ _
  · refine (msix_within _ _ _).after <| (inc_within _ _).after <| (emit_within _ _).after <| ?_
    refine Within.after (b := m) (Within.of_onlyIn (l := [.mgt, .mgtSci]) fun p hp => by cases p <;> first | exact absurd (by decide) hp | rfl) ?_
    exact Within.refl _ _

theorem mbDrain_within (n : Nat) (m : Mach) : Within [.regs, .mgt, .mgtSci, .out] m (mbDrain n m) := by
  induction n generalizing m with
  | zero => exact Within.refl _ _
  | succ n ih =>
    unfold mbDrain
    split
    · split
      · exact (ih _).after (mbAnswer_within _ _ _ _).mono
      · exact Within.refl _ _
    · exact Within.refl _ _

theorem mailboxGo_within (m : Mach) : Within [.regs, .mgt, .mgtSci, .out] m (mailboxGo m) := by
  unfold mailboxGo
  split
  · exact (inc_within _ _).after <| (put_within _ _ _).after <| .refl _ _
  · refine (mbDrain_within _ _).after <| (put_within _ _ _).after <| ?_
    refine Within.after (b := m) (Within.of_onlyIn (l := [.mgt]) fun p hp => by cases p <;> first | exact absurd (by decide) hp | rfl) ?_
    exact Within.refl _ _

theorem mgtWrite_within (w : RegWr) (m : Mach) : Within [.regs, .mgt, .mgtSci, .out] m (mgtWrite w m) := by
  unfold mgtWrite
  split
  · exact onOne_loop (fun t => (mailboxGo_within _).mono) (Within.refl _ _)
  · exact (plainWrite_within _ _ _).mono

theorem releasePads_within (mask : BitVec 5) (m : Mach) : Within [.regs, .time, .tick, .jnl, .rst, .cache] m (releasePads mask m) := by
  unfold releasePads
  extract_lets m1
  exact (fireHeldLate_within _).after <| (onRst_within _ _).after <| .refl _ _

theorem iocWrite_within (w : RegWr) (m : Mach) : Within [.regs, .time, .tick, .jnl, .rst, .cache] m (iocWrite w m) := by
  unfold iocWrite
  split
  · exact (releasePads_within _ _).mono
  · exact (plainWrite_within _ _ _).mono

theorem sbiWrite_within (w : RegWr) (m : Mach) : Within [.regs] m (sbiWrite w m) := by
  unfold sbiWrite
  split
  · exact (holdWrite_within _ _).mono
  · exact (plainWrite_within _ _ _).mono

theorem flushAsk_within (p : Fin 16) (m : Mach) : Within [.port] m (flushAsk p m) := by
  unfold flushAsk
  exact (onPort_within _ _ _).mono

theorem disablePort_within (p : Fin 16) (m : Mach) : Within [.regs, .port] m (disablePort p m) := by
  unfold disablePort
  extract_lets m1
  split
  · exact (onPort_within _ _ _).after <| (clr_within _ _).after <| .refl _ _
  · exact (clr_within _ _).mono

theorem zeroSurface_within (p : Fin 16) (m : Mach) : Within [.fe] m (zeroSurface p m) := by
  unfold zeroSurface
  exact (onFe_within _ _ _).mono

theorem enablePort_within (p : Fin 16) (m : Mach) : Within [.regs, .port, .fe] m (enablePort p m) := by
  unfold enablePort
  extract_lets m1 m2
  exact (onFe_within _ _ _).after <| (zeroSurface_within _ _).after <| (fitOff_within _ _).after <| (onPort_within _ _ _).after <| (set1_within _ _).after <| .refl _ _

theorem ctrlEn_within (p : Fin 16) (m : Mach) : Within [.regs, .port, .fe] m (ctrlEn p m) := by
  unfold ctrlEn
  split
  · exact Within.refl _ _
  · split
    · exact (set1_within _ _).mono
    · exact (enablePort_within _ _).mono

theorem keepSetting_within (p : Fin 16) (key : ℕ) (m : Mach) : Within [.port] m (keepSetting p key m) := by
  unfold keepSetting
  split
  · exact (onPort_within _ _ _).mono
  · exact Within.refl _ _

theorem ingSetting_within (p : Fin 16) (fixed : Bool) (w : RegWr) (m : Mach) : Within [.regs, .port] m (ingSetting p fixed w m) := by
  unfold ingSetting
  split
  · exact (set1_within _ _).mono
  · extract_lets m1
    split
    · exact (plainWrite_within _ _ _).after <| (keepSetting_within _ _ _).after <| .refl _ _
    · exact (evalFc_within _ _).after <| (plainWrite_within _ _ _).after <| (keepSetting_within _ _ _).after <| .refl _ _

theorem sciPut_within (p : ℕ) (b : List Byte) (m : Mach) : Within [.regs] m (sciPut p b m) := by
  unfold sciPut
  extract_lets all
  exact Within.loop (fun x t => (wr_within _ _ _).mono) (Within.refl _ _)

theorem mbReply_within (status : ℕ) (values : List ℤ) (len : ℕ) (m : Mach) : Within [.regs, .mgt, .mgtSci, .out] m (mbReply status values len m) := by
  unfold mbReply
  exact (mbDrain_within _ _).after <| (mbAnswer_within _ _ _ _).after <| .refl _ _

theorem mbServe_within (status : ℕ) (values : List ℤ) (m : Mach) : Within [.regs, .mgt, .mgtSci, .draws, .out] m (mbServe status values m) := by
  unfold mbServe
  split
  · exact (mbReply_within _ _ _ _).mono
  · split
    rename_i x v m1 heq
    exact (mbReply_within _ _ _ _).after <| (Within.snd heq (drawNat_within _)).after <| .refl _ _

theorem sciEnd_within (p : Fin 16) (result : ℕ) (data : List Byte) (m : Mach) : Within [.regs, .port, .jnl, .fn, .mgt, .mgtSci, .draws, .out] m (sciEnd p result data m) := by
  unfold sciEnd
  split
  · exact Within.refl _ _
  · extract_lets got m1 m2
    have hm2 : Within [.regs, .port, .jnl, .fn, .mgt, .mgtSci, .draws, .out] m m2 := by
      unfold m2
      split
      · exact (sciPut_within _ _ _).after <| (clr_within _ _).after <| (put_within _ _ _).after <| (onPort_within _ _ _).after <| .refl _ _
      · exact (clr_within _ _).after <| (put_within _ _ _).after <| (onPort_within _ _ _).after <| .refl _ _
    split
    · exact (done_within _ _ _ _ _ _ _ _).after <| hm2.mono
    · split
      · exact (mbServe_within _ _ _).after <| hm2.mono
      · exact hm2.mono
    · exact hm2.mono

theorem sciStart_within (p : Fin 16) (who : SciBy) (addr : ℕ) (wlen : ℕ) (rlen : ℕ) (m : Mach) : Within [.regs, .port, .jnl, .fn, .mgt, .mgtSci, .draws, .out] m (sciStart p who addr wlen rlen m) := by
  unfold sciStart
  extract_lets m1 m2
  split
  · exact (sciEnd_within _ _ _ _).after <| (onPort_within _ _ _).after <| (set1_within _ _).after <| (put_within _ _ _).after <| (put_within _ _ _).after <| (put_within _ _ _).after <| .refl _ _
  · split
    · split
      rename_i x v m11 heq
      exact (sciEnd_within _ _ _ _).after <| (Within.snd heq (drawNat_within _)).after <| (onPort_within _ _ _).after <| (set1_within _ _).after <| (put_within _ _ _).after <| (put_within _ _ _).after <| (put_within _ _ _).after <| .refl _ _
    · exact (emit_within _ _).after <| (onPort_within _ _ _).after <| (set1_within _ _).after <| (put_within _ _ _).after <| (put_within _ _ _).after <| (put_within _ _ _).after <| .refl _ _

theorem sciGo_within (p : Fin 16) (who : Party) (addr : ℕ) (wlen : ℕ) (rlen : ℕ) (m : Mach) : Within [.regs, .port, .jnl, .fn, .mgt, .mgtSci, .draws, .out] m (sciGo p who addr wlen rlen m) := by
  unfold sciGo
  extract_lets granted
  split
  · exact (set1_within _ _).mono
  · split
    · exact (set1_within _ _).mono
    · exact (sciStart_within _ _ _ _ _ _).mono

theorem ingWrite_within (w : RegWr) (m : Mach) : Within [.regs, .port, .fe, .jnl, .fn, .mgt, .mgtSci, .draws, .out] m (ingWrite w m) := by
  unfold ingWrite
  extract_lets p m1 m2 n
  have hm1 : Within [.regs, .port, .fe, .jnl, .fn, .mgt, .mgtSci, .draws, .out] m m1 := by
    unfold m1
    exact onOne_loop (fun t => (flushAsk_within _ _).mono) ((plainWrite_within _ _ _).mono)
  have hm2 : Within [.regs, .port, .fe, .jnl, .fn, .mgt, .mgtSci, .draws, .out] m m2 := by
    unfold m2
    split
    · exact hm1.mono
    · exact (fitOff_within _ _).after <| hm1.mono
  split
  · split
    · exact hm2.mono
    · split
      · split
        · exact (disablePort_within _ _).after <| hm2.mono
        · exact hm2.mono
      · split
        · exact (set1_within _ _).mono
        · exact (ctrlEn_within _ _).after <| hm2.mono
  · exact (ingSetting_within _ _ _ _).mono
  · exact (ingSetting_within _ _ _ _).mono
  · exact (ingSetting_within _ _ _ _).mono
  · exact (ingSetting_within _ _ _ _).mono
  · exact (ingSetting_within _ _ _ _).mono
  · exact (ingSetting_within _ _ _ _).mono
  · exact (ingSetting_within _ _ _ _).mono
  · exact (ingSetting_within _ _ _ _).mono
  · exact (ingSetting_within _ _ _ _).mono
  · exact (ingSetting_within _ _ _ _).mono
  · split
    · exact (sciGo_within _ _ _ _ _ _).mono
    · split
      · exact (set1_within _ _).mono
      · exact (plainWrite_within _ _ _).mono
  · split
    · exact (set1_within _ _).mono
    · exact (plainWrite_within _ _ _).mono
  · exact (plainWrite_within _ _ _).mono

theorem fmapWrite_within (w : RegWr) (m : Mach) : Within [.regs] m (fmapWrite w m) := by
  unfold fmapWrite
  split
  · exact (put_within _ _ _).after <| (set1_within _ _).after <| .refl _ _
  · exact (plainWrite_within _ _ _).mono

theorem hotAsk_within (p : Fin 16) (m : Mach) : Within [.fe] m (hotAsk p m) := by
  unfold hotAsk
  exact (onFe_within _ _ _).mono

theorem learnAsk_within (p : Fin 16) (m : Mach) : Within [.regs, .fe] m (learnAsk p m) := by
  unfold learnAsk
  exact (onFe_within _ _ _).after <| (set1_within _ _).after <| .refl _ _

theorem feWrite_within (w : RegWr) (m : Mach) : Within [.regs, .fe] m (feWrite w m) := by
  unfold feWrite
  extract_lets p stage
  split
  · exact onOne_loop (fun t => (hotAsk_within _ _).mono) (onOne_loop (fun t => (learnAsk_within _ _).mono) ((onFe_within _ _ _).mono))
  · exact (plainWrite_within _ _ _).mono
  · split
    · exact Within.refl _ _
    · exact (onFe_within _ _ _).mono

theorem feDieWrite_within (w : RegWr) (m : Mach) : Within [.regs] m (feDieWrite w m) := by
  unfold feDieWrite
  extract_lets busy
  split
  · exact (plainWrite_within _ _ _).mono
  · split
    · exact (set1_within _ _).mono
    · exact (plainWrite_within _ _ _).mono

theorem tripClear_within (d : Fin 4) (m : Mach) : Within [.regs, .lvl] m (tripClear d m) := by
  unfold tripClear
  exact (onLvl_within).after <| (clr_within _ _).after <| .refl _ _

theorem engDieWrite_within (w : RegWr) (m : Mach) : Within [.regs, .lvl] m (engDieWrite w m) := by
  unfold engDieWrite
  split
  · exact onOne_loop (fun t => (tripClear_within _ _).mono) ((plainWrite_within _ _ _).mono)
  · exact (plainWrite_within _ _ _).mono

theorem onPopsOf_within (e : Fin 72) (f : Pop → Pop) (m : Mach) : Within [.pops] m (onPopsOf e f m) := by
  unfold onPopsOf
  extract_lets here
  refine Within.after (b := m) (Within.of_onlyIn (l := [.pops]) fun p hp => by cases p <;> first | exact absurd (by decide) hp | rfl) ?_
  exact Within.refl _ _

theorem engReset_within (e : Fin 72) (m : Mach) : Within [.regs, .tick, .fe, .eng, .tleq, .tle, .pops, .led] m (engReset e m) := by
  unfold engReset
  split
  · exact Within.refl _ _
  · extract_lets m1
    exact (onPopsOf_within _ _ _).after <| (onEng_within).after <| (abandonQueued_within _ _ _).after <| .refl _ _

theorem engSrst_within (e : Fin 72) (m : Mach) : Within [.regs, .tick, .fe, .eng, .tleq, .tle, .pops, .led] m (engSrst e m) := by
  unfold engSrst
  split
  · exact (engReset_within _ _).mono
  · exact Within.refl _ _

theorem engWrite_within (w : RegWr) (m : Mach) : Within [.regs, .tick, .fe, .eng, .tleq, .tle, .pops, .led] m (engWrite w m) := by
  unfold engWrite
  split
  · exact onOne_loop (fun t => (engSrst_within _ _).mono) (Within.refl _ _)
  · exact (plainWrite_within _ _ _).mono

theorem encEn_within (n : Fin 4) (en : Bool) (m : Mach) : Within [.regs, .time, .tick, .enc, .jnl, .cache] m (encEn n en m) := by
  unfold encEn
  extract_lets was m1
  split
  · exact (encoderLost_within _ _).after <| (onEnc_within _ _ _).after <| (put_within _ _ _).after <| .refl _ _
  · split
    · exact (encoderLost_within _ _).after <| (put_within _ _ _).after <| .refl _ _
    · exact (put_within _ _ _).mono

theorem encWrite_within (w : RegWr) (m : Mach) : Within [.regs, .time, .tick, .enc, .jnl, .cache] m (encWrite w m) := by
  unfold encWrite
  extract_lets n m1
  have hm1 : Within [.regs, .time, .tick, .enc, .jnl, .cache] m m1 := by
    unfold m1
    exact onChange_loop (fun b t => (encEn_within _ _ _).mono) ((plainWrite_within _ _ _).mono)
  split
  · exact onOne_loop (fun t => (onEnc_within _ _ _).mono) (onOne_loop (fun t => (onEnc_within _ _ _).mono) (hm1.mono))
  · exact (plainWrite_within _ _ _).mono

theorem vibZero_within (i : ℕ) (m : Mach) : Within [.fus] m (vibZero i m) := by
  unfold vibZero
  refine Within.loop (fun x t => ?_) ?_
  · split
    · exact (onFus_within _ _).mono
    · exact Within.refl _ _
  · exact Within.refl _ _

theorem imuEn_within (i : Fin 4) (en : Bool) (m : Mach) : Within [.regs, .imu, .fus] m (imuEn i en m) := by
  unfold imuEn
  split
  · exact (onImu_within _ _ _).after <| (clr_within _ _).after <| .refl _ _
  · extract_lets rd skip
    split
    · exact (set1_within _ _).mono
    · exact (onImu_within _ _ _).after <| (vibZero_within _ _).after <| (set1_within _ _).after <| .refl _ _

theorem imuWrite_within (w : RegWr) (m : Mach) : Within [.regs, .imu, .fus] m (imuWrite w m) := by
  unfold imuWrite
  extract_lets i fixed
  split
  · exact onChange_loop (fun b t => (imuEn_within _ _ _).mono) ((plainWrite_within _ _ _).mono)
  · split
    · exact (set1_within _ _).mono
    · exact (plainWrite_within _ _ _).mono

theorem fusWrite_within (w : RegWr) (m : Mach) : Within [.regs, .fus] m (fusWrite w m) := by
  unfold fusWrite
  split
  · exact (plainWrite_within _ _ _).mono
  · exact (onFus_within _ _).mono

theorem jnlWrite_within (w : RegWr) (m : Mach) : Within [.regs, .jnl] m (jnlWrite w m) := by
  unfold jnlWrite
  split
  · exact (freeSlots_within _).after <| (plainWrite_within _ _ _).after <| .refl _ _
  · exact (plainWrite_within _ _ _).mono

theorem jnlFnWrite_within (w : RegWr) (m : Mach) : Within [.jnl] m (jnlFnWrite w m) := by
  unfold jnlFnWrite
  split
  · exact Within.refl _ _
  · exact (onJnl_within _ _).mono

theorem memReg_within (d : Fin 4) (k : Fin 16) (val : Word) (m : Mach) : Within [.regs, .own] m (memReg d k val m) := by
  unfold memReg
  split
  · exact Within.refl _ _
  · extract_lets ecc intlv newEcc newIntlv affected m1 m2
    have hm2 : Within [.regs, .own] m m2 := by
      unfold m2
      exact Within.loop (fun x t => (put_within _ _ _).mono) ((put_within _ _ _).mono)
    split
    · exact Within.refl _ _
    · split
      · exact (set1_within _ _).mono
      · exact (onOwn_within _ _).after <| hm2.mono

theorem memWrite_within (w : RegWr) (m : Mach) : Within [.regs, .own] m (memWrite w m) := by
  unfold memWrite
  split
  · exact (memReg_within _ _ _ _).mono
  · exact (plainWrite_within _ _ _).mono

theorem setLinkState_within (l : Fin 4) (st : ℕ) (m : Mach) : Within [.regs, .link] m (setLinkState l st m) := by
  unfold setLinkState
  split
  · exact Within.refl _ _
  · exact (set1_within _ _).after <| (onLink_within _ _ _).after <| .refl _ _

theorem startTraining_within (l : Fin 4) (m : Mach) : Within [.regs, .fus, .link] m (startTraining l m) := by
  unfold startTraining
  extract_lets m1
  exact (refuseCheck_within _ _).after <| (setLinkState_within _ _ _).after <| (onLink_within _ _ _).after <| .refl _ _

theorem retrain_within (l : Fin 4) (m : Mach) : Within [.regs, .fus, .link] m (retrain l m) := by
  unfold retrain
  split
  · exact (startTraining_within _ _).after <| (inc_within _ _).after <| .refl _ _
  · exact Within.refl _ _

theorem linkEnable_within (l : Fin 4) (en : Bool) (m : Mach) : Within [.regs, .fus, .link] m (linkEnable l en m) := by
  unfold linkEnable
  split
  · exact Within.refl _ _
  · extract_lets was m1
    split
    · exact (startTraining_within _ _).after <| (put_within _ _ _).after <| .refl _ _
    · split
      · exact (refuseCheck_within _ _).after <| (setLinkState_within _ _ _).after <| (put_within _ _ _).after <| .refl _ _
      · exact (put_within _ _ _).mono

theorem lnkWrite_within (w : RegWr) (m : Mach) : Within [.regs, .fus, .link] m (lnkWrite w m) := by
  unfold lnkWrite
  extract_lets l
  split
  · exact onOne_loop (fun t => (retrain_within _ _).mono) (onChange_loop (fun b t => (linkEnable_within _ _ _).mono) ((plainWrite_within _ _ _).mono))
  · exact (plainWrite_within _ _ _).mono
  · split
    · exact Within.refl _ _
    · exact (onLink_within _ _ _).mono

theorem nvmeIssue_within (op : NvmeOp) (m : Mach) : Within [.nvs, .out] m (nvmeIssue op m) := by
  unfold nvmeIssue
  exact (emit_within _ _).after <| (onNvs_within _ _).after <| .refl _ _

theorem storeInit_within (m : Mach) : Within [.nvs, .out] m (storeInit m) := by
  unfold storeInit
  split
  · exact (nvmeIssue_within _ _).after <| (onNvs_within _ _).after <| .refl _ _
  · exact (onNvs_within _ _).mono

theorem nvsWrite_within (w : RegWr) (m : Mach) : Within [.regs, .nvs, .out] m (nvsWrite w m) := by
  unfold nvsWrite
  split
  · exact onOne_loop (fun t => (storeInit_within _).mono) ((plainWrite_within _ _ _).mono)
  · exact (plainWrite_within _ _ _).mono

theorem writeIn_within (w : RegWr) (m : Mach) : Within [.chip, .regs, .time, .tick, .port, .fe, .eng, .tleq, .tle, .heldDesc, .pops, .spikes, .enc, .imu, .fus, .jnl, .nvs, .led, .lvl, .sleep, .fn, .own, .mgt, .mgtSci, .net, .link, .rst, .cache, .draws, .out] m (writeIn w m) := by
  unfold writeIn
  split
  · exact (glbWrite_within _ _).mono
  · exact (rstWrite_within _ _).mono
  · exact (pwrWrite_within _ _).mono
  · split
    · exact (clkDieWrite_within _ _).mono
    · exact (plainWrite_within _ _ _).mono
  · exact (timWrite_within _ _).mono
  · exact (trigWrite_within _ _).mono
  · exact (ptpWrite_within _ _).mono
  · exact (ethWrite_within _ _).mono
  · exact (rrtWrite_within _ _).mono
  · exact (rrtDestWrite_within _ _).mono
  · exact (hifFnWrite_within _ _ _).mono
  · exact (hifFnWrite_within _ _ _).mono
  · exact (secWrite_within _ _).mono
  · exact (mgtWrite_within _ _).mono
  · exact (iocWrite_within _ _).mono
  · exact (sbiWrite_within _ _).mono
  · exact (ingWrite_within _ _).mono
  · exact (fmapWrite_within _ _).mono
  · exact (feWrite_within _ _).mono
  · exact (feDieWrite_within _ _).mono
  · exact (engDieWrite_within _ _).mono
  · exact (engWrite_within _ _).mono
  · exact (encWrite_within _ _).mono
  · exact (imuWrite_within _ _).mono
  · exact (fusWrite_within _ _).mono
  · exact (fusWrite_within _ _).mono
  · exact (fusWrite_within _ _).mono
  · exact (fusWrite_within _ _).mono
  · exact (fusWrite_within _ _).mono
  · exact (actWrite_within _ _).mono
  · exact (jnlWrite_within _ _).mono
  · exact (jnlFnWrite_within _ _).mono
  · exact (memWrite_within _ _).mono
  · exact (lnkWrite_within _ _).mono
  · exact (nvsWrite_within _ _).mono
  · exact (plainWrite_within _ _ _).mono

theorem applyPairs_within {f : Fin 8} {p : Fin 16} {l : List (Nat × Word)} {m u : Mach} (h : applyPairs f p l m = .ok u) :
    Within [.chip, .regs, .time, .tick, .port, .fe, .eng, .tleq, .tle, .heldDesc, .pops, .spikes, .enc, .imu, .fus, .jnl, .nvs, .led, .lvl, .sleep, .fn, .own, .mgt, .mgtSci, .net, .link, .rst, .cache, .draws, .out] m u := by
  induction l generalizing m with
  | nil => cases h; exact Within.refl _ _
  | cons x r ih =>
    unfold applyPairs at h
    split at h
    · cases h
    · split at h
      · cases h
      · exact (ih h).after (writeIn_within _ _).mono

theorem applyPeriod_within (k : ℕ) (m : Mach) : Within [.tick, .jnl, .fn, .out] m (applyPeriod k m) := by
  unfold applyPeriod
  extract_lets isDue due m1
  refine Within.loop (fun x t => ?_) ?_
  · split
    · exact (donePending_within _ _ _).after <| (onTick_within _ _).after <| .refl _ _
    · exact Within.refl _ _
  · exact (onTick_within _ _).mono

theorem applyRules_within (f : Fin 8) (tn : ℕ) (tValid : ℤ) (popEnc : Fin 4) (b : Body) (count : ℕ) (m : Mach) : Within [.regs, .time, .tick, .jnl, .sleep, .cache] m (applyRules f tn tValid popEnc b count m) := by
  unfold applyRules
  extract_lets rules m1
  split
  · exact Within.refl _ _
  · split
    · exact Within.refl _ _
    · split
      · exact Within.refl _ _
      · split
        extract_lets a
        split
        · exact (inc_within _ _).after <| (write'_within _ _ _ _).after <| (inc_within _ _).after <| .refl _ _
        · split
          · exact (inc_within _ _).after <| (write'_within _ _ _ _).after <| (inc_within _ _).after <| .refl _ _
          · split
            · exact (inc_within _ _).after <| (write'_within _ _ _ _).after <| (inc_within _ _).after <| .refl _ _
            · exact (programAction_within _ _).after <| (inc_within _ _).after <| .refl _ _

theorem applyStagedFe_within (p : Fin 16) (m : Mach) : Within [.regs, .fe] m (applyStagedFe p m) := by
  unfold applyStagedFe
  extract_lets st
  refine Within.loop (fun x t => ?_) ?_
  · split
    · exact (wr_within _ _ _).mono
    · exact (set1_within _ _).mono
  · exact (onFe_within _ _ _).mono

theorem applyStagedHub_within (m : Mach) : Within [.regs, .fus, .jnl] m (applyStagedHub m) := by
  unfold applyStagedHub
  extract_lets m1
  have hm1 : Within [.regs, .fus, .jnl] m m1 := by
    unfold m1
    exact Within.loop (fun x t => (wr_within _ _ _).mono) ((onFus_within _ _).mono)
  exact Within.loop (fun x t => (wr_within _ _ _).mono) ((onJnl_within _ _).after <| hm1.mono)

theorem applyStagedPwr_within (m : Mach) : Within [.regs, .led] m (applyStagedPwr m) := by
  unfold applyStagedPwr
  exact Within.loop (fun x t => (wr_within _ _ _).mono) ((onLed_within _ _).mono)

theorem openAcct_within (k : ℕ) (start : ℤ) (stepped : Bool) (m : Mach) : Within [.tick, .port] m (openAcct k start stepped m) := by
  unfold openAcct
  extract_lets en a x
  refine Within.after (b := m) (Within.of_onlyIn (l := [.tick, .port]) fun p hp => by cases p <;> first | exact absurd (by decide) hp | rfl) ?_
  exact Within.refl _ _

theorem sleepBoundary_within (m : Mach) : Within [.regs, .tick, .jnl, .sleep, .cache] m (sleepBoundary m) := by
  unfold sleepBoundary
  split
  · split
    · exact (abandonEntry_within _).mono
    · split
      · exact (health_within _ _ _ _).after <| (onSleep_within _ _).after <| .refl _ _
      · exact Within.refl _ _
  · split
    · exact (health_within _ _ _ _).after <| (armWdog_within _).after <| (onSleep_within _ _).after <| .refl _ _
    · exact Within.refl _ _

theorem closeTick_within (tEnd : ℤ) (lenEnd : ℤ) (graceFrom : ℤ) (m : Mach) : Within [.tick] m (closeTick tEnd lenEnd graceFrom m) := by
  unfold closeTick
  extract_lets here
  exact (onRunning_within _ _).mono

theorem flrBoundary_within (f : Fin 8) (k : ℕ) (m : Mach) : Within [.regs, .tick, .fe, .eng, .tleq, .tle, .heldDesc, .pops, .spikes, .images, .fus, .led, .fn] m (flrBoundary f k m) := by
  unfold flrBoundary
  extract_lets m0 m1 m2 m3 n
  have hm0 : Within [.regs, .tick, .fe, .eng, .tleq, .tle, .heldDesc, .pops, .spikes, .images, .fus, .led, .fn] m m0 := by
    unfold m0
    exact Within.loop (fun x t => (abandonEng_within _ _ _).mono) (Within.refl _ _)
  have hm1 : Within [.regs, .tick, .fe, .eng, .tleq, .tle, .heldDesc, .pops, .spikes, .images, .fus, .led, .fn] m m1 := by
    unfold m1
    split
    · exact (abandonPop_within _ _ _ _).after <| hm0.mono
    · exact hm0.mono
  have hm2 : Within [.regs, .tick, .fe, .eng, .tleq, .tle, .heldDesc, .pops, .spikes, .images, .fus, .led, .fn] m m2 := by
    unfold m2
    have hm11 : Within [.regs, .tick, .fe, .eng, .tleq, .tle, .heldDesc, .pops, .spikes, .images, .fus, .led, .fn] m m1 := by
      exact hm1.mono
    clear_value m1
    refine Within.after (b := m1) (Within.of_onlyIn (l := [.pops, .spikes, .images]) fun p hp => by cases p <;> first | exact absurd (by decide) hp | rfl) ?_
    exact hm1.mono
  exact (addTo_within _ _ _).after <| (onFus_within _ _).after <| (onFn_within _ _ _).after <| hm2.mono

theorem beginLoad_within (e : Fin 72) (t : Fin 8 × ℕ × ℕ) (m : Mach) : Within [.eng] m (beginLoad e t m) := by
  unfold beginLoad
  exact (onEng_within).mono

theorem loadsAt_within (k : ℕ) (m : Mach) : Within [.eng] m (loadsAt k m) := by
  unfold loadsAt
  refine Within.loop (fun x t => ?_) ?_
  · split
    · split
      · exact Within.refl _ _
      · exact (beginLoad_within _ _ _).mono
    · split
      · exact Within.refl _ _
      · exact (onEng_within).mono
  · exact Within.refl _ _

theorem learnEvent_within (p : Fin 16) (l : Learn) (w : EvWord) (m : Mach) : Within [.fe] m (learnEvent p l w m) := by
  unfold learnEvent
  extract_lets s inside i
  split
  · exact (onFe_within _ _ _).mono
  · exact Within.refl _ _

theorem feBoundary_within (k : ℕ) (start : ℤ) (p : Fin 16) (m : Mach) : Within [.regs, .fe] m (feBoundary k start p m) := by
  unfold feBoundary
  extract_lets m0 m1 m2 f m3
  have hm0 : Within [.regs, .fe] m m0 := by
    unfold m0
    split
    · exact Within.refl _ _
    · exact (applyStagedFe_within _ _).mono
  have hm2 : Within [.regs, .fe] m m2 := by
    unfold m2
    split
    · exact (onFe_within _ _ _).after <| (applyHot_within _ _).after <| (onFe_within _ _ _).after <| hm0.mono
    · exact (onFe_within _ _ _).after <| hm0.mono
  split
  · split
    · exact (onFe_within _ _ _).after <| hm2.mono
    · exact hm2.mono
  · split
    · split
      · exact (learnEvent_within _ _ _ _).after <| (onFe_within _ _ _).after <| hm2.mono
      · exact (onFe_within _ _ _).after <| hm2.mono
    · split
      · split
        · exact (onFe_within _ _ _).after <| hm2.mono
        · exact hm2.mono
      · exact hm2.mono

theorem mapsDone_within (m : Mach) : Within [.jnl, .fn, .out] m (mapsDone m) := by
  unfold mapsDone
  refine Within.loop (fun x t => ?_) ?_
  · split
    · exact Within.refl _ _
    · exact Within.loop (fun x1 t1 => (done_within _ _ _ _ _ _ _ _).mono) ((onFn_within _ _ _).mono)
  · exact Within.refl _ _

theorem closeEnergy_within (n : ℕ) (m : Mach) : Within [.tick, .draws] m (closeEnergy n m) := by
  unfold closeEnergy
  split
  rename_i x v m1 heq
  extract_lets l
  exact (onAcct_within _ _ _).after <| (Within.snd heq (drawNat_within _)).after <| .refl _ _

theorem clampK_within (lo : ℤ) (hi : ℤ) (v : ℤ) (m : Mach) : Within [.regs, .tick, .jnl, .led, .cache] m (clampK lo hi v m).2 := by
  unfold clampK
  extract_lets c m1 fresh
  split
  · exact Within.refl _ _
  · split
    · exact (health_within _ _ _ _).after <| (onLed_within _ _).after <| (set1_within _ _).after <| (inc_within _ _).after <| .refl _ _
    · exact (set1_within _ _).after <| (inc_within _ _).after <| .refl _ _

theorem updateK_within (g : Fin 6) (m : Mach) : Within [.regs, .tick, .jnl, .led, .cache, .draws] m (updateK g m) := by
  unfold updateK
  extract_lets raw
  split
  · exact Within.refl _ _
  · split
    rename_i x v m1 heq
    extract_lets k
    split
    rename_i x1 v1 m11 heq1
    exact (put_within _ _ _).after <| (Within.snd heq1 (clampK_within _ _ _ _)).after <| (Within.snd heq (drawNat_within _)).after <| .refl _ _

theorem ledgerDown_within (m : Mach) : Within [.regs, .lvl] m (ledgerDown m) := by
  unfold ledgerDown
  extract_lets top
  exact Within.loop (fun x t => (inc_within _ _).after <| (onLvl_within).after <| .refl _ _) (Within.refl _ _)

theorem ledgerUp_within (m : Mach) : Within [.regs, .lvl] m (ledgerUp m) := by
  unfold ledgerUp
  extract_lets low
  exact Within.loop (fun x t => (inc_within _ _).after <| (onLvl_within).after <| .refl _ _) (Within.refl _ _)

theorem judgeWindow_within (m : Mach) : Within [.regs, .tick, .jnl, .led, .lvl, .cache] m (judgeWindow m) := by
  unfold judgeWindow
  extract_lets broke run good m1 m2 m3
  have hm2 : Within [.regs, .tick, .jnl, .led, .lvl, .cache] m m2 := by
    unfold m2
    split
    · exact (inc_within _ _).after <| (onLed_within _ _).after <| .refl _ _
    · exact (onLed_within _ _).mono
  have hm3 : Within [.regs, .tick, .jnl, .led, .lvl, .cache] m m3 := by
    unfold m3
    split
    · exact (health_within _ _ _ _).after <| (ledgerDown_within _).after <| (onLed_within _ _).after <| hm2.mono
    · exact hm2.mono
  split
  · exact (ledgerUp_within _).after <| (onLed_within _ _).after <| hm3.mono
  · exact hm3.mono

theorem openWindow_within (m : Mach) : Within [.led] m (openWindow m) := by
  unfold openWindow
  extract_lets e
  exact (onLed_within _ _).mono

theorem putLedger_within (v : Vector Nat 4) (m : Mach) : Within [.lvl] m (m.putLedger v) := by
  refine ⟨fun p hp => by cases p <;> first | exact absurd (by decide) hp | rfl, id, fun h d => ?_⟩
  have hd : (m.putLedger v).lvl.get d = { m.lvl.get d with ledger := v.get d } := Vector.getElem_ofFn ..
  rw [hd]
  exact h d

theorem holdAt_within (d : Fin 4) (m : Mach) : Within [.lvl] m (holdAt d m) := by
  unfold holdAt
  exact (onLvl_within).mono

theorem leaveEdge_within (d : Fin 4) (m : Mach) : Within [.regs, .tick, .fe, .eng, .tleq, .tle, .heldDesc, .jnl, .led, .lvl, .fn, .cache, .draws] m (leaveEdge d m) := by
  unfold leaveEdge
  split
  · exact (onLvl_within).after <| (setEdge_within _ _ _).after <| .refl _ _
  · exact Within.refl _ _

theorem changeLevel_within (d : Fin 4) (level : ℕ) (edge : Bool) (m : Mach) : Within [.regs, .tick, .fe, .eng, .tleq, .tle, .heldDesc, .jnl, .led, .lvl, .fn, .cache, .draws, .out] m (changeLevel d level edge m) := by
  unfold changeLevel
  extract_lets l m1
  have hm1 : Within [.regs, .tick, .fe, .eng, .tleq, .tle, .heldDesc, .jnl, .led, .lvl, .fn, .cache, .draws, .out] m m1 := by
    unfold m1
    split
    · exact Within.refl _ _
    · exact (leaveEdge_within _ _).mono
  split
  · exact (onLvl_within).after <| (setEdge_within _ _ _).after <| .refl _ _
  · split
    · exact (emit_within _ _).after <| (onLvl_within).after <| (setEdge_within _ _ _).after <| .refl _ _
    · split
      · exact hm1.mono
      · exact (emit_within _ _).after <| (onLvl_within).after <| hm1.mono

theorem levelAt_within (k : ℕ) (d : Fin 4) (m : Mach) : Within [.regs, .tick, .fe, .eng, .tleq, .tle, .heldDesc, .jnl, .led, .lvl, .fn, .cache, .draws, .out] m (levelAt k d m) := by
  unfold levelAt
  extract_lets l0 m1 l
  split
  · exact (holdAt_within _ _).mono
  · split
    · split
      · exact (holdAt_within _ _).mono
      · exact (leaveEdge_within _ _).after <| (holdAt_within _ _).after <| .refl _ _
    · split
      · exact (changeLevel_within _ _ _ _).after <| (holdAt_within _ _).after <| .refl _ _
      · exact (changeLevel_within _ _ _ _).after <| (holdAt_within _ _).after <| .refl _ _
      · exact (changeLevel_within _ _ _ _).after <| (holdAt_within _ _).after <| .refl _ _

theorem ledgerBoundary_within (k : ℕ) (m : Mach) : Within [.regs, .tick, .fe, .eng, .tleq, .tle, .heldDesc, .jnl, .led, .lvl, .fn, .cache, .draws, .out] m (ledgerBoundary k m) := by
  unfold ledgerBoundary
  extract_lets m1 old m2 new
  have hm1 : Within [.regs, .tick, .fe, .eng, .tleq, .tle, .heldDesc, .jnl, .led, .lvl, .fn, .cache, .draws, .out] m m1 := by
    unfold m1
    exact Within.loop (fun x t => (applyG_within _ _).after <| (updateK_within _ _).after <| .refl _ _) (Within.refl _ _)
  refine (openWindow_within _).after <| (putLedger_within _ _).after <| ?_
  exact Within.loop (fun x t => (levelAt_within _ _ _).mono) ((putLedger_within _ _).after <| (applyStagedPwr_within _).after <| (judgeWindow_within _).after <| hm1.mono)

theorem putNeuron_within (e : Fin 72) (r : PopRec) (i : ℕ) (x : Neuron) (m : Mach) : Within [.eng] m (putNeuron e r i x m) := by
  unfold putNeuron
  exact (sramPut_within _ _ _ _).mono

theorem debit_within (it : Item) (k : Work) (d : Fin 4) (n : ℕ) (tn : ℕ) (m : Mach) : Within [.tick, .led] m (debit it k d n tn m) := by
  unfold debit
  extract_lets c
  exact (rawWork_within _ _ _ _).after <| (spend_within _ _ _).after <| (debitNj_within _ _ _).after <| .refl _ _

theorem neuronSweep_within (n : ℕ) (m : Mach) : Within [.tick, .eng, .led, .draws] m (neuronSweep n m) := by
  unfold neuronSweep
  extract_lets held first
  refine Within.loop (fun x t => ?_) ?_
  · split
    · extract_lets before base mine
      refine Within.loop (fun x1 t1 => ?_) ?_
      · extract_lets x2 edge d
        split
        extract_lets z x3
        have hx3 : Within [.tick, .eng, .led, .draws] t1 x3 := by
          exact (putNeuron_within _ _ _ _ _).mono
        clear_value x3
        refine Within.after (b := x3) (Within.of_onlyIn (l := [.draws]) fun p hp => by cases p <;> first | exact absurd (by decide) hp | rfl) ?_
        exact hx3.mono
      · split
        · exact Within.refl _ _
        · exact (debit_within _ _ _ _ _ _).mono
    · exact Within.refl _ _
  · exact Within.refl _ _

theorem tapFlush_within (f : Fin 8) (m : Mach) : Within [.fn, .out] m (tapFlush f m) := by
  unfold tapFlush
  extract_lets t c phase lost
  split
  · exact Within.refl _ _
  · split
    · exact (onFn_within _ _ _).after <| (ringWrote_within _ _ _ _).after <| (emit_within _ _).after <| .refl _ _
    · exact (onFn_within _ _ _).mono

theorem openPorts_within (m : Mach) : Within [.tick] m (openPorts m) := by
  unfold openPorts
  exact (onRunning_within _ _).mono

theorem releaseHeld_within (k : ℕ) (m : Mach) : Within [.link] m (releaseHeld k m) := by
  unfold releaseHeld
  exact Within.loop (fun x t => (onLink_within _ _ _).mono) (Within.refl _ _)

theorem releaseRecs_within (which : JRec → Bool) (m : Mach) : Within [.jnl] m (releaseRecs which m) := by
  unfold releaseRecs
  extract_lets b
  exact (onJnl_within _ _).mono

theorem beginTick_within (k : ℕ) (start : ℤ) (tEnd : ℤ) (lenEnd : ℤ) (stepped : Bool) (m : Mach) : Within [.regs, .tick, .port, .fe, .eng, .tleq, .tle, .heldDesc, .pops, .spikes, .images, .fus, .jnl, .led, .lvl, .sleep, .fn, .link, .cache, .draws, .out] m (beginTick k start tEnd lenEnd stepped m) := by
  unfold beginTick
  extract_lets n awake m1 m2 m3 m4 m5 m6 m7 m8 m9 m10
  have hm2 : Within [.regs, .tick, .port, .fe, .eng, .tleq, .tle, .heldDesc, .pops, .spikes, .images, .fus, .jnl, .led, .lvl, .sleep, .fn, .link, .cache, .draws, .out] m m2 := by
    unfold m2
    exact Within.loop (fun x t => (flrBoundary_within _ _ _).mono) ((onJnl_within _ _).after <| (openAcct_within _ _ _ _).after <| (sleepBoundary_within _).after <| (closeTick_within _ _ _ _).after <| .refl _ _)
  have hm3 : Within [.regs, .tick, .port, .fe, .eng, .tleq, .tle, .heldDesc, .pops, .spikes, .images, .fus, .jnl, .led, .lvl, .sleep, .fn, .link, .cache, .draws, .out] m m3 := by
    unfold m3
    split
    · exact (loadsAt_within _ _).after <| (applyDue_within _ _).after <| hm2.mono
    · exact hm2.mono
  have hm4 : Within [.regs, .tick, .port, .fe, .eng, .tleq, .tle, .heldDesc, .pops, .spikes, .images, .fus, .jnl, .led, .lvl, .sleep, .fn, .link, .cache, .draws, .out] m m4 := by
    unfold m4
    exact Within.loop (fun x t => (feBoundary_within _ _ _ _).mono) (hm3.mono)
  have hm6 : Within [.regs, .tick, .port, .fe, .eng, .tleq, .tle, .heldDesc, .pops, .spikes, .images, .fus, .jnl, .led, .lvl, .sleep, .fn, .link, .cache, .draws, .out] m m6 := by
    unfold m6
    split
    · exact (closeEnergy_within _ _).after <| (ledgerBoundary_within _ _).after <| (mapsDone_within _).after <| (applyStagedHub_within _).after <| hm4.mono
    · exact Within.loop (fun x t => (holdAt_within _ _).mono) ((applyStagedPwr_within _).after <| (mapsDone_within _).after <| (applyStagedHub_within _).after <| hm4.mono)
  have hm7 : Within [.regs, .tick, .port, .fe, .eng, .tleq, .tle, .heldDesc, .pops, .spikes, .images, .fus, .jnl, .led, .lvl, .sleep, .fn, .link, .cache, .draws, .out] m m7 := by
    unfold m7
    split
    · exact (neuronSweep_within _ _).after <| hm6.mono
    · exact hm6.mono
  have hm8 : Within [.regs, .tick, .port, .fe, .eng, .tleq, .tle, .heldDesc, .pops, .spikes, .images, .fus, .jnl, .led, .lvl, .sleep, .fn, .link, .cache, .draws, .out] m m8 := by
    unfold m8
    exact Within.loop (fun x t => (tapFlush_within _ _).mono) (hm7.mono)
  have hm9 : Within [.regs, .tick, .port, .fe, .eng, .tleq, .tle, .heldDesc, .pops, .spikes, .images, .fus, .jnl, .led, .lvl, .sleep, .fn, .link, .cache, .draws, .out] m m9 := by
    unfold m9
    exact Within.loop (fun x t => (refuseCheck_within _ _).mono) ((openPorts_within _).after <| (releaseHeld_within _ _).after <| hm8.mono)
  exact (releaseRecs_within _ _).after <| (onTick_within _ _).after <| hm9.mono

theorem stepTick_within (nOld : ℤ) (step : ℤ) (m : Mach) : Within [.regs, .tick, .port, .fe, .eng, .tleq, .tle, .heldDesc, .pops, .spikes, .images, .fus, .jnl, .led, .lvl, .sleep, .fn, .link, .cache, .draws, .out] m (stepTick nOld step m) := by
  unfold stepTick
  extract_lets k m1 m2
  split
  · extract_lets j
    exact (beginTick_within _ _ _ _ _ _).after <| (applyLoad_within _ _ _).after <| (onRunning_within _ _).after <| .refl _ _
  · split
    · exact (beginTick_within _ _ _ _ _ _).after <| (applyPeriod_within _ _).after <| (onRunning_within _ _).after <| .refl _ _
    · exact (onRunning_within _ _).after <| (onRunning_within _ _).after <| .refl _ _

theorem fireBatch_within (l : List Action) (m : Mach) : Within [.regs, .time, .tick, .jnl, .cache] m (fireBatch l m) := by
  unfold fireBatch
  refine Within.loop (fun x t => ?_) ?_
  · split
    · exact (lateAction_within _ _ _).mono
    · exact (fireAction_within _ _ _ _).mono
  · exact Within.refl _ _

theorem fireTime_within (m : Mach) : Within [.regs, .time, .tick, .enc, .jnl, .cache] m (fireTime m) := by
  unfold fireTime
  split
  · exact Within.refl _ _
  · extract_lets m1
    split
    · exact (runTo_within _ _).mono
    · exact (fireBatch_within _ _).after <| (runTo_within _ _).after <| .refl _ _

theorem stepActions_within (m : Mach) : Within [.regs, .time, .tick, .enc, .jnl, .cache] m (stepActions m) := by
  unfold stepActions
  split
  · split
    · exact (fireTime_within _).mono
    · exact Within.refl _ _
  · exact Within.refl _ _

theorem ppsFire_within (at_ : ℤ) (m : Mach) : Within [.time] m (ppsFire at_ m) := by
  unfold ppsFire
  exact (onTime_within _ _).mono

theorem syncFire_within (p : Fin 16) (at_ : ℤ) (m : Mach) : Within [.regs, .port] m (syncFire p at_ m) := by
  unfold syncFire
  extract_lets now e x older
  exact (onPort_within _ _ _).mono

theorem stepPulses_within (before m : Mach) : Within [.regs, .time, .port] m (stepPulses before m) := by
  unfold stepPulses
  extract_lets m1
  have hm1 : Within [.regs, .time, .port] m m1 := by
    unfold m1
    split
    · exact (ppsFire_within _ _).mono
    · exact Within.refl _ _
  refine Within.loop (fun p t => ?_) hm1
  split
  · exact (syncFire_within _ _ _).mono
  · exact Within.refl _ _

theorem stepTrig_within (m : Mach) : Within [.time] m (stepTrig m) := by
  unfold stepTrig
  refine Within.loop (fun x t => ?_) ?_
  · extract_lets mode x1
    split
    · exact (onTrig_within _ _ _).mono
    · exact Within.refl _ _
  · exact Within.refl _ _

theorem applyStep_within (count would : Int) (source : Nat) (m : Mach) : Within [.regs, .time, .tick, .port, .fe, .eng, .tleq, .tle, .heldDesc, .pops, .spikes, .images, .enc, .fus, .jnl, .led, .lvl, .sleep, .fn, .link, .cache, .draws, .out] m (applyStep count would source m) := by
  unfold applyStep
  extract_lets nOld step old m1 m2 m3 at_ m4 m5
  have hm2 : Within [.regs, .time, .tick, .port, .fe, .eng, .tleq, .tle, .heldDesc, .pops, .spikes, .images, .enc, .fus, .jnl, .led, .lvl, .sleep, .fn, .link, .cache, .draws, .out] m m2 := (onTime_within _ _).after <| (onTime_within _ _).after (setCount_within _ _).mono
  have hm4 : Within [.regs, .time, .tick, .port, .fe, .eng, .tleq, .tle, .heldDesc, .pops, .spikes, .images, .enc, .fus, .jnl, .led, .lvl, .sleep, .fn, .link, .cache, .draws, .out] m m4 :=
    (captureAll_within _ _ _ _).after <| (inc_within _ _).after <| (timeStatus_within _ _ _ _ _ _ _).after hm2
  have hm5 : Within [.regs, .time, .tick, .port, .fe, .eng, .tleq, .tle, .heldDesc, .pops, .spikes, .images, .enc, .fus, .jnl, .led, .lvl, .sleep, .fn, .link, .cache, .draws, .out] m m5 := (stepTick_within _ _ _).after hm4
  exact (stepActions_within _).after <| (stepPulses_within _ _).after <| (stepTrig_within _).after hm5

theorem ethArrived_within (p : Fin 2) (f : Fld) (m : Mach) : Within [.regs] m (ethArrived p f m) := by
  unfold ethArrived
  exact (inc_within _ _).after <| (inc_within _ _).after <| .refl _ _

theorem arpRequest_within (p : Fin 2) (target : BitVec 32) (sender : List Byte) (m : Mach) : Within [.regs, .out] m (arpRequest p target sender m) := by
  unfold arpRequest
  split
  · exact Within.refl _ _
  · extract_lets m1
    split
    · exact (ethSend_within _ _ _).after <| (ethArrived_within _ _ _).after <| .refl _ _
    · exact (ethArrived_within _ _ _).mono

theorem askBurst_within (p : Fin 16) (m : Mach) : Within [.port, .draws] m (askBurst p m) := by
  unfold askBurst
  extract_lets x
  split
  · exact Within.refl _ _
  · split
    rename_i x1 v m1 heq
    extract_lets want here
    split
    exact (onPort_within _ _ _).after <| (Within.snd heq (drawNat_within _)).after <| .refl _ _

theorem partFollow_within (m : Mach) : Within [.regs] m (partFollow m) := by
  unfold partFollow
  exact Within.loop (fun x t => (put_within _ _ _).after <| (put_within _ _ _).after <| .refl _ _) (Within.refl _ _)

theorem setOwner_within (kind : ℕ) (u : ℕ) (f : Fin 8) (m : Mach) : Within [.own] m (setOwner kind u f m) := by
  unfold setOwner
  exact (onOwn_within _ _).mono

theorem moveUnits_within (kind : ℕ) (first : ℕ) (count : ℕ) (to_ : Fin 8) (owed : Option (ℕ × ℕ)) (m : Mach) : Within [.regs, .own] m (moveUnits kind first count to_ owed m) := by
  unfold moveUnits
  split
  · extract_lets new m1
    exact (partFollow_within _).after <| (onOwn_within _ _).after <| .refl _ _
  · extract_lets us m1 m2
    have hm1 : Within [.regs, .own] m m1 := by
      unfold m1
      exact Within.loop (fun x t => (setOwner_within _ _ _ _).mono) (Within.refl _ _)
    have hm2 : Within [.regs, .own] m m2 := by
      unfold m2
      split
      · exact hm1.mono
      · exact (onOwn_within _ _).after <| hm1.mono
    split
    · exact (actFollow_within _).after <| hm2.mono
    · exact hm2.mono

theorem assignDone_within (cseq : ℕ) (ctag : ℕ) (m : Mach) : Within [.jnl, .fn, .out] m (assignDone cseq ctag m) := by
  unfold assignDone
  split
  · exact Within.refl _ _
  · exact (done_within _ _ _ _ _ _ _ _).mono

theorem assignCmd_within (h : CmdHdr) (kind : ℕ) (dest : Fin 8) (first : ℕ) (count : ℕ) (m : Mach) : Within [.regs, .jnl, .sleep, .fn, .own, .out] m (assignCmd h kind dest first count m) := by
  unfold assignCmd
  exact command_loop (fun c t => (moveUnits_within _ _ _ _ _ _).mono) (fun c t u => (assignDone_within _ _ _).mono) (Within.refl _ _)

theorem stopPort_within (p : Fin 16) (m : Mach) : Within [.regs, .port] m (stopPort p m) := by
  unfold stopPort
  exact (evalFc_within _ _).after <| (onPort_within _ _ _).after <| .refl _ _

theorem atBoundary_within (p : Fin 16) (m : Mach) : Within [.regs, .tick, .port, .jnl, .fn, .out] m (atBoundary p m) := by
  unfold atBoundary
  extract_lets x m1
  have hm1 : Within [.regs, .tick, .port, .jnl, .fn, .out] m m1 := by
    unfold m1
    split
    · exact (flushNow_within _ _).mono
    · exact Within.refl _ _
  split
  · exact Within.refl _ _
  · split
    · exact (stopPort_within _ _).after <| hm1.mono
    · exact hm1.mono

theorem authFail_within (p : Fin 2) (m : Mach) : Within [.regs, .tick, .jnl, .net, .cache] m (authFail p m) := by
  unfold authFail
  extract_lets m1 fresh
  split
  · exact (health_within _ _ _ _).after <| (onNet_within _ _).after <| (inc_within _ _).after <| .refl _ _
  · exact (inc_within _ _).mono

theorem autoCompute_within (m : Mach) : Within [.regs, .time, .tick, .port, .fe, .eng, .tleq, .tle, .heldDesc, .pops, .spikes, .enc, .jnl, .led, .lvl, .sleep, .fn, .rst, .cache, .out] m (autoCompute m) := by
  unfold autoCompute
  split
  · exact Within.refl _ _
  · extract_lets due open_ m1
    split
    · exact Within.refl _ _
    · exact (computeStart_within _).after <| (onRst_within _ _).after <| (runToElapsed_within _ _).after <| .refl _ _

theorem avsReached_within (d : Fin 4) (m : Mach) : Within [.regs, .time, .tick, .fe, .eng, .tleq, .tle, .heldDesc, .enc, .jnl, .led, .lvl, .fn, .cache, .draws] m (avsReached d m) := by
  unfold avsReached
  split
  · exact Within.refl _ _
  · extract_lets m1
    exact (onLvl_within).after <| (setEdge_within _ _ _).after <| (runToElapsed_within _ _).after <| .refl _ _

theorem avsTimeout_within (d : Fin 4) (m : Mach) : Within [.regs, .time, .tick, .enc, .jnl, .lvl, .cache, .out] m (avsTimeout d m) := by
  unfold avsTimeout
  split
  · exact Within.refl _ _
  · extract_lets l m0 still ms m1
    have hms : Within [.regs, .time, .tick, .enc, .jnl, .lvl, .cache, .out] m ms := (lvls_within (by intro x hx; exact hx)).after (runToElapsed_within _ _).mono
    exact (health_within _ _ _ _).after <| (set1_within _ _).after <| (emit_within _ _).after <| (onLvl_within (d := d)).after hms

theorem blockTle_within (i : Fin 8) (m0 : Mach) : Within [.regs, .tick, .fe, .eng, .tleq, .tle, .heldDesc, .led, .cache] m0 (blockTle i m0) := by
  unfold blockTle
  extract_lets m
  split
  · exact (onCache_within _ _).mono
  · extract_lets e m1
    have hm1 : Within [.regs, .tick, .fe, .eng, .tleq, .tle, .heldDesc, .led, .cache] m0 m1 := by
      unfold m1
      split
      · split
        · exact (onCache_within _ _).mono
        · exact (abandonEng_within _ _ _).after <| (onCache_within _ _).after <| .refl _ _
      · exact (onCache_within _ _).mono
    have hm11 : Within [.regs, .tick, .fe, .eng, .tleq, .tle, .heldDesc, .led, .cache] m0 m1 := by
      exact hm1.mono
    clear_value m1
    refine Within.after (b := m1) (Within.of_onlyIn (l := [.tle]) fun p hp => by cases p <;> first | exact absurd (by decide) hp | rfl) ?_
    exact hm1.mono

theorem blockEncoder_within (n : Fin 4) (m : Mach) : Within [.regs, .time, .tick, .enc, .jnl, .cache] m (blockEncoder n m) := by
  unfold blockEncoder
  extract_lets on m1
  exact (set1_within _ _).after <| (encoderLost_within _ _).after <| (onEnc_within _ _ _).after <| .refl _ _

theorem storeFault_within (why : ℕ) (m : Mach) : Within [.regs, .nvs] m (storeFault why m) := by
  unfold storeFault
  exact (inc_within _ _).after <| (onNvs_within _ _).after <| .refl _ _

theorem blockEffect_within (kind : ℕ) (unit : ℕ) (m : Mach) : Within [.regs, .time, .tick, .port, .fe, .eng, .tleq, .tle, .heldDesc, .pops, .enc, .imu, .fus, .jnl, .nvs, .led, .fn, .net, .link, .cache, .out] m (blockEffect kind unit m) := by
  unfold blockEffect
  split
  · extract_lets p m1
    refine (fitOff_within _ _).after <| ?_
    split
    · exact (flushNow_within _ _).after <| (onPort_within _ _ _).after <| (discardVat_within _ _ _).after <| (clr_within _ _).after <| .refl _ _
    · exact (onPort_within _ _ _).after <| (discardVat_within _ _ _).after <| (clr_within _ _).after <| .refl _ _
  · exact (zeroSurface_within _ _).mono
  · exact (engReset_within _ _).mono
  · exact (blockTle_within _ _).mono
  · exact (blockEncoder_within _ _).mono
  · extract_lets i
    exact (onImu_within _ _ _).after <| (vibZero_within _ _).after <| .refl _ _
  · exact (ethLink_within _ _ _).mono
  · extract_lets l
    exact (retrain_within _ _).after <| (onLink_within _ _ _).after <| .refl _ _
  · exact (storeInit_within _).after <| (health_within _ _ _ _).after <| (storeFault_within _ _).after <| .refl _ _
  · exact Within.refl _ _

theorem blockIdle_within (m : Mach) : Within [.regs, .time, .tick, .port, .fe, .eng, .tleq, .tle, .heldDesc, .pops, .enc, .imu, .fus, .jnl, .nvs, .led, .fn, .net, .link, .rst, .cache, .out] m (blockIdle m) := by
  unfold blockIdle
  split
  · exact Within.refl _ _
  · exact (blockEffect_within _ _ _).after <| (inc_within _ _).after <| (onRst_within _ _).after <| .refl _ _

theorem blockTimeout_within (inFlight : ℕ) (m : Mach) : Within [.regs, .time, .tick, .port, .fe, .eng, .tleq, .tle, .heldDesc, .pops, .enc, .imu, .fus, .jnl, .nvs, .led, .fn, .net, .link, .rst, .cache, .out] m (blockTimeout inFlight m) := by
  unfold blockTimeout
  split
  · exact Within.refl _ _
  · extract_lets m1 m2
    exact (health_within _ _ _ _).after <| (inc_within _ _).after <| (set1_within _ _).after <| (put_within _ _ _).after <| (blockIdle_within _).after <| (runToElapsed_within _ _).after <| .refl _ _

theorem takeStraps_within (b : BootInfo) (m : Mach) : Within [.chip] m (takeStraps b m) := by
  unfold takeStraps
  refine Within.after (b := m) (Within.of_onlyIn (l := [.chip]) fun p hp => by cases p <;> first | exact absurd (by decide) hp | rfl) ?_
  exact Within.refl _ _

theorem haltAt_within (stage : ℕ) (err : ℕ) (m : Mach) : Within [.rst] m (haltAt stage err m) := by
  unfold haltAt
  exact (onRst_within _ _).mono

theorem otherBank_within (m : Mach) : Within [.chip, .rst, .draws] m (otherBank m) := by
  unfold otherBank
  exact (otherFirmware_within _).after <| (onRst_within _ _).after <| .refl _ _

theorem verifyBanks_within (b : BootInfo) (m : Mach) : Within [.chip, .regs, .rst, .draws] m (verifyBanks b m).2 := by
  unfold verifyBanks
  extract_lets m0 m1
  have hm0 : Within [.chip, .regs, .rst, .draws] m m0 := by
    unfold m0
    split
    · exact (otherBank_within _).mono
    · exact Within.refl _ _
  split
  · dsimp only
    exact (onRst_within _ _).after <| hm0.mono
  · split
    · dsimp only
      exact (onRst_within _ _).after <| (set1_within _ _).after <| (otherBank_within _).after <| (inc_within _ _).after <| hm0.mono
    · exact (inc_within _ _).after <| (inc_within _ _).after <| hm0.mono

theorem release_within (b : BootInfo) (m : Mach) : Within [.regs, .nvs, .rst, .out] m (release b m) := by
  unfold release
  split
  · exact (haltAt_within _ _ _).mono
  · extract_lets m1 m2
    have hm2 : Within [.regs, .nvs, .rst, .out] m m2 := by
      unfold m2
      split
      · exact (onRst_within _ _).mono
      · exact (put_within _ _ _).after <| (onRst_within _ _).after <| .refl _ _
    exact (storeInit_within _).after <| hm2.mono

theorem bringUp_within (b : BootInfo) (m : Mach) : Within [.chip, .regs, .nvs, .rst, .draws, .out] m (bringUp b m) := by
  unfold bringUp
  extract_lets fresh m1
  have hm1 : Within [.chip, .regs, .nvs, .rst, .draws, .out] m m1 := by
    unfold m1
    refine (onRst_within _ _).after <| ?_
    split
    · exact (takeStraps_within _ _).mono
    · exact Within.refl _ _
  split
  · exact (haltAt_within _ _ _).after <| hm1.mono
  · split
    · exact (haltAt_within _ _ _).after <| hm1.mono
    · split
      · split
        rename_i x fst m11 heq
        split
        · exact (release_within _ _).after <| (Within.snd heq (verifyBanks_within _ _)).after <| hm1.mono
        · exact (haltAt_within _ _ _).after <| (Within.snd heq (verifyBanks_within _ _)).after <| hm1.mono
      · exact (release_within _ _).after <| hm1.mono

theorem clearSums_within (m : Mach) : Within [.fus] m (clearSums m) := by
  unfold clearSums
  exact (onFus_within _ _).mono

theorem calInterval_within (m0 : Mach) : Within [.regs, .time, .tick, .enc, .fus, .jnl, .cache] m0 (calInterval m0) := by
  unfold calInterval
  split
  · exact Within.refl _ _
  · extract_lets m s w
    split
    · exact (clearSums_within _).after <| (onFus_within _ _).after <| (onFus_within _ _).after <| (runToElapsed_within _ _).after <| .refl _ _
    · exact (clearSums_within _).after <| (set1_within _ _).after <| (inc_within _ _).after <| (onFus_within _ _).after <| (onFus_within _ _).after <| (runToElapsed_within _ _).after <| .refl _ _

theorem roundDelta_within (q : ℚ) (m : Mach) : Within [.draws] m (roundDelta q m).2 := by
  unfold roundDelta
  extract_lets lo gap
  split
  · split
    rename_i x v m1 heq
    exact (Within.snd heq (drawNat_within _)).mono
  · exact Within.refl _ _

theorem solveCal_within (s : Vector CalSum 16) (m : Mach) : Within [.regs, .tick, .fus, .jnl, .cache, .draws] m (solveCal s m) := by
  unfold solveCal
  extract_lets es fixed remote reach us pairs ds lim
  refine Within.loop (fun x t => ?_) ?_
  · split
    rename_i x1 md t2 heq
    split
    rename_i x2 md1 t21 heq1
    split
    · exact (Within.snd heq1 (roundDelta_within _ _)).after <| (Within.snd heq (roundDelta_within _ _)).after <| .refl _ _
    · split
      · exact (inc_within _ _).after <| (Within.snd heq1 (roundDelta_within _ _)).after <| (Within.snd heq (roundDelta_within _ _)).after <| .refl _ _
      · split
        · extract_lets t3
          exact (health_within _ _ _ _).after <| (inc_within _ _).after <| (Within.snd heq1 (roundDelta_within _ _)).after <| (Within.snd heq (roundDelta_within _ _)).after <| .refl _ _
        · exact (onFus_within _ _).after <| (Within.snd heq1 (roundDelta_within _ _)).after <| (Within.snd heq (roundDelta_within _ _)).after <| .refl _ _
  · exact Within.refl _ _

theorem calSolveDone_within (m : Mach) : Within [.regs, .tick, .fus, .jnl, .cache, .draws] m (calSolveDone m) := by
  unfold calSolveDone
  split
  · exact Within.refl _ _
  · exact (onFus_within _ _).after <| (solveCal_within _ _).after <| .refl _ _

theorem pend_within (p : Pending) (m : Mach) : Within [.tick] m (pend p m) := by
  unfold pend
  exact (onTick_within _ _).mono

theorem calibLock_within (h : CmdHdr) (mask : ℕ) (lock : Bool) (m : Mach) : Within [.regs, .tick, .jnl, .sleep, .fn, .out] m (calibLock h mask lock m) := by
  unfold calibLock
  refine command_loop (fun c t => ?_) (fun c t u => ?_) ?_
  · extract_lets e
    exact (pend_within _ _).mono
  · extract_lets e
    exact Within.refl _ _
  · exact Within.refl _ _

theorem calibSet_within (h : CmdHdr) (mask : ℕ) (table : List (List ℤ × ℕ)) (m : Mach) : Within [.regs, .tick, .jnl, .sleep, .fn, .out] m (calibSet h mask table m) := by
  unfold calibSet
  extract_lets hs
  refine command_loop (fun c t => ?_) (fun c t u => ?_) ?_
  · extract_lets e
    exact (pend_within _ _).mono
  · extract_lets e
    exact Within.refl _ _
  · exact Within.refl _ _

theorem onClock_within (f : PtpClock → PtpClock) (m : Mach) : Within [.net] m (onClock f m) := by
  unfold onClock
  exact (onNet_within _ _).mono

theorem submitSample_within (theta : ℤ) (m : Mach) : Within [.regs, .time, .tick, .jnl, .cache, .draws] m (submitSample theta m) := by
  unfold submitSample
  split
  · exact (servoSample_within _ _ _).mono
  · exact (set1_within _ _).mono

theorem syncComplete_within (t1 : ℤ) (t2 : ℤ) (corr : ℤ) (m : Mach) : Within [.regs, .time, .tick, .jnl, .net, .cache, .draws] m (syncComplete t1 t2 corr m) := by
  unfold syncComplete
  extract_lets m1
  split
  rename_i x v m11 heq
  exact (submitSample_within _ _).after <| (Within.snd heq (drawNat_within _)).after <| (onClock_within _ _).after <| .refl _ _

theorem clockTakes_within (p : Fin 2) (fr : PtpFrame) (t : ℤ) (m : Mach) : Within [.regs, .time, .tick, .jnl, .net, .cache, .draws, .out] m (clockTakes p fr t m) := by
  unfold clockTakes
  extract_lets c fromMaster
  split
  · extract_lets take
    split
    · exact (onClock_within _ _).mono
    · exact Within.refl _ _
  · split
    · exact Within.refl _ _
    · split
      · exact (onClock_within _ _).mono
      · exact (syncComplete_within _ _ _ _).mono
  · split
    · split
      · exact (syncComplete_within _ _ _ _).mono
      · exact Within.refl _ _
    · exact Within.refl _ _
  · split
    · split
      · exact (onClock_within _ _).mono
      · exact Within.refl _ _
    · exact Within.refl _ _
  · exact (inc_within _ _).after <| (ethSend_within _ _ _).after <| .refl _ _
  · split
    · exact (onClock_within _ _).mono
    · exact Within.refl _ _
  · split
    · split
      · exact (onClock_within _ _).mono
      · exact Within.refl _ _
    · exact Within.refl _ _
  · exact Within.refl _ _
  · exact Within.refl _ _

theorem closeGrid_within (m : Mach) : Within [.regs, .time, .tick, .fe, .enc, .jnl, .cache] m (closeGrid m) := by
  unfold closeGrid
  split
  · exact Within.refl _ _
  · extract_lets m1 m2
    refine Within.loop (fun x t => ?_) ?_
    · split
      extract_lets t1 t2
      exact (onAcct_within _ _ _).after <| (addTo_within _ _ _).after <| (addTo_within _ _ _).after <| (onFe_within _ _ _).after <| .refl _ _
    · exact (onAcct_within _ _ _).after <| (runTo_within _ _).after <| .refl _ _

theorem fitPair_within (p : Fin 16) (u : ℤ) (s : ℤ) (m : Mach) : Within [.regs, .port] m (fitPair p u s m) := by
  unfold fitPair
  split
  · exact Within.refl _ _
  · extract_lets f m1
    split
    · exact (onPort_within _ _ _).mono
    · split
      · exact (inc_within _ _).after <| (onPort_within _ _ _).after <| (onPort_within _ _ _).after <| .refl _ _
      · extract_lets r r'
        split
        · exact (inc_within _ _).after <| (onPort_within _ _ _).after <| .refl _ _
        · exact (onPort_within _ _ _).after <| (onPort_within _ _ _).after <| .refl _ _

theorem marker_within (p : Fin 16) (headerEl : ℤ) (u : ℤ) (m : Mach) : Within [.regs, .port] m (marker p headerEl u m) := by
  unfold marker
  extract_lets x
  split
  · exact (inc_within _ _).mono
  · split
    · exact Within.refl _ _
    · split
      · exact (inc_within _ _).mono
      · exact (fitPair_within _ _ _ _).after <| (onPort_within _ _ _).after <| .refl _ _

theorem commitRx_within (p : Fin 16) (trunc : Bool) (m : Mach) : Within [.regs, .port] m (commitRx p trunc m) := by
  unfold commitRx
  split
  · exact Within.refl _ _
  · extract_lets words m1
    exact Within.loop (fun x t => (marker_within _ _ _ _).mono) ((onPort_within _ _ _).mono)

theorem copyBegun_within (h : CmdHdr) (job : LoadJob) (m : Mach) : Within [.regs, .sleep, .fn, .out] m (copyBegun h job m) := by
  unfold copyBegun
  exact (onFn_within _ _ _).after <| (shadow_within _ _).after <| (fetch_within _ _).after <| .refl _ _

theorem countLate_within (r : JRec) (m : Mach) : Within [.tick] m (countLate r m) := by
  unfold countLate
  split
  · exact (onRunning_within _ _).mono
  · exact Within.refl _ _

theorem countSent_within (d : Fin 8) (s : Fin 32) (first : ℕ) (last : ℕ) (m : Mach) : Within [.tick] m (countSent d s first last m) := by
  unfold countSent
  exact Within.loop (fun x t => (countLate_within _ _).mono) (Within.refl _ _)

theorem takeCredits_within (l : Fin 4) (cred : List ℕ) (m : Mach) : Within [.link] m (takeCredits l cred m) := by
  unfold takeCredits
  exact (onLink_within _ _ _).mono

theorem creditRx_within (l : Fin 4) (ack : ℕ) (cred : List ℕ) (m : Mach) : Within [.regs, .link] m (creditRx l ack cred m) := by
  unfold creditRx
  split
  · exact Within.refl _ _
  · exact (takeCredits_within _ _ _).after <| (ackTo_within _ _ _).after <| (inc_within _ _).after <| .refl _ _

theorem linkSend_within (l : Fin 4) (mk : ℕ → List ℕ → LinkTx) (m : Mach) : Within [.regs, .link, .out] m (linkSend l mk m) := by
  unfold linkSend
  extract_lets x tx m1
  exact (onLink_within _ _ _).after <| (inc_within _ _).after <| (emit_within _ _).after <| .refl _ _

theorem creditSend_within (l : Fin 4) (m : Mach) : Within [.regs, .time, .tick, .enc, .jnl, .link, .cache, .out] m (creditSend l m) := by
  unfold creditSend
  extract_lets x
  split
  · exact Within.refl _ _
  · exact (linkSend_within _ _ _).after <| (runToElapsed_within _ _).after <| .refl _ _

theorem cseqRead_within (f : Fin 8) (m : Mach) : Within [.regs, .out] m (cseqRead f m) := by
  unfold cseqRead
  extract_lets v
  exact (emit_within _ _).after <| (wr_within _ _ _).after <| .refl _ _

theorem curdsRx_within (l : Fin 4) (m : Mach) : Within [.regs, .fus, .link] m (curdsRx l m) := by
  unfold curdsRx
  split
  · rename_i x snd heq
    exact Within.refl _ _
  · rename_i x x1 m1 heq
    extract_lets m2 tooOld afterPairing n
    split
    · exact (inc_within _ _).after <| (freeMsg_within _ _ _).after <| (Within.snd heq (takeMsg_within _ _ _)).after <| .refl _ _
    · exact (onFus_within _ _).after <| (inc_within _ _).after <| (freeMsg_within _ _ _).after <| (Within.snd heq (takeMsg_within _ _ _)).after <| .refl _ _

theorem dataDiscard_within (l : Fin 4) (c : Fld) (m : Mach) : Within [.regs, .link, .out] m (dataDiscard l c m) := by
  unfold dataDiscard
  extract_lets m1 seq
  split
  · exact (inc_within _ _).mono
  · exact (linkSend_within _ _ _).after <| (inc_within _ _).after <| (onLink_within _ _ _).after <| (inc_within _ _).after <| .refl _ _

theorem messageDone_within (l : Fin 4) (vl : Fin 4) (b : List Byte) (frames : ℕ) (m : Mach) : Within [.regs, .sleep, .link] m (messageDone l vl b frames m) := by
  unfold messageDone
  extract_lets x size m1
  have hm1 : Within [.regs, .sleep, .link] m m1 := by
    unfold m1
    split
    · exact Within.refl _ _
    · exact (touchIdle_within _).mono
  split
  · exact (freeMsg_within _ _ _).after <| (inc_within _ _).after <| .refl _ _
  · split
    · exact (freeMsg_within _ _ _).after <| (inc_within _ _).after <| .refl _ _
    · split
      · refine (onLink_within _ _ _).after <| ?_
        split
        · exact hm1.mono
        · exact (inc_within _ _).after <| hm1.mono
      · exact (onLink_within _ _ _).after <| hm1.mono

theorem segment_within (l : Fin 4) (f : LinkFrame) (m : Mach) : Within [.regs, .sleep, .link] m (segment l f m) := by
  unfold segment
  split
  split
  · exact (onLink_within _ _ _).after <| (inc_within _ _).after <| .refl _ _
  · extract_lets torn m1 b k
    have hm1 : Within [.regs, .sleep, .link] m m1 := by
      unfold m1
      split
      · exact (onLink_within _ _ _).after <| (inc_within _ _).after <| .refl _ _
      · exact Within.refl _ _
    split
    · exact (messageDone_within _ _ _ _ _).after <| (onLink_within _ _ _).after <| hm1.mono
    · exact (onLink_within _ _ _).after <| hm1.mono

theorem dataRx_within (l : Fin 4) (f : LinkFrame) (crcOk : Bool) (ack : ℕ) (cred : List ℕ) (m : Mach) : Within [.regs, .sleep, .link, .out] m (dataRx l f crcOk ack cred m) := by
  unfold dataRx
  extract_lets x m1 fresh m2
  split
  · exact Within.refl _ _
  · split
    · exact (dataDiscard_within _ _ _).after <| (inc_within _ _).after <| .refl _ _
    · split
      · exact (dataDiscard_within _ _ _).after <| (inc_within _ _).after <| .refl _ _
      · exact (segment_within _ _ _).after <| (takeCredits_within _ _ _).after <| (ackTo_within _ _ _).after <| (onLink_within _ _ _).after <| (inc_within _ _).after <| .refl _ _

theorem stampTt_within (l : Fin 4) (f : LinkFrame) (m : Mach) : Within [.link] m (stampTt l f m).2 := by
  unfold stampTt
  split
  · extract_lets t
    exact (onLink_within _ _ _).mono
  · exact Within.refl _ _

theorem sendKept_within (l : Fin 4) (f : LinkFrame) (m : Mach) : Within [.regs, .link, .out] m (sendKept l f m) := by
  unfold sendKept
  split
  rename_i x g m1 heq
  exact (onLink_within _ _ _).after <| (linkSend_within _ _ _).after <| (Within.snd heq (stampTt_within _ _ _)).after <| .refl _ _

theorem dataSend_within (l : Fin 4) (m : Mach) : Within [.regs, .link, .out] m (dataSend l m) := by
  unfold dataSend
  extract_lets x waits lane stalled m1
  split
  · exact Within.refl _ _
  · clear_value lane
    split
    · exact (addTo_within _ _ _).mono
    · split
      · exact (addTo_within _ _ _).mono
      · split
        · exact (addTo_within _ _ _).mono
        · extract_lets m2
          exact (sendKept_within _ _ _).after <| (onLink_within _ _ _).after <| (addTo_within _ _ _).after <| .refl _ _

theorem dbError_within (f : Fin 8) (m : Mach) : Within [.regs, .out] m (dbError f m) := by
  unfold dbError
  exact (errEvent_within _ _).after <| (inc_within _ _).after <| (set1_within _ _).after <| .refl _ _

theorem publish_within (cause : ℕ) (m : Mach) : Within [.rst] m (publish cause m) := by
  unfold publish
  extract_lets m1
  exact (onRst_within _ _).after <| (onRst_within _ _).after <| .refl _ _

theorem drawList_within (n : Nat) (m : Mach) : Within [.draws] m (drawList n m).2 := by
  induction n generalizing m with
  | zero => exact Within.refl _ _
  | succ n ih => exact (ih _).after (drawNat_within _)

theorem declareReady_within (cause : ℕ) (steps : ℕ) (m : Mach) : Within [.regs, .tick, .jnl, .lvl, .rst, .cache, .draws, .out] m (declareReady cause steps m) := by
  unfold declareReady
  extract_lets m1 m2
  have hm2 : Within [.regs, .tick, .jnl, .lvl, .rst, .cache, .draws, .out] m m2 := by
    unfold m2
    split
    · exact (msix_within _ _ _).after <| (emit_within _ _).after <| (onRst_within _ _).after <| (publish_within _ _).after <| .refl _ _
    · exact (onRst_within _ _).after <| (publish_within _ _).after <| .refl _ _
  split
  rename_i x sp m5 heq
  extract_lets m4 m51
  exact Within.loop (fun x1 t => (onLvl_within).mono) ((armWdog_within _).after <| (health_within _ _ _ _).after <| (Within.snd heq (drawList_within _ _)).after <| hm2.mono)

theorem setDec_within (p : Fin 16) (f : DecState → DecState) (m : Mach) : Within [.port] m (setDec p f m) := by
  unfold setDec
  exact (onPort_within _ _ _).mono

theorem dropRx_within (p : Fin 16) (c : Fld) (m : Mach) : Within [.regs, .tick, .port] m (dropRx p c m) := by
  unfold dropRx
  exact (evalFc_within _ _).after <| (lostRaw_within _ _).after <| (inc_within _ _).after <| (onPort_within _ _ _).after <| .refl _ _

theorem needBlock_within (p : Fin 16) (n : Nat) (m : Mach) : Within [.regs, .tick, .port] m (needBlock p n m) := by
  induction n generalizing m with
  | zero => exact (dropRx_within _ _ _).mono
  | succ n ih =>
    unfold needBlock
    extract_lets x
    split
    · exact Within.refl _ _
    · extract_lets ctr
      split
      · exact (dropRx_within _ _ _).mono
      · split
        · exact Within.refl _ _
        · split
          · exact (dropRx_within _ _ _).mono
          · split
            · exact (dropRx_within _ _ _).mono
            · exact (ih _).after <| (lostPacket_within _ _ _).after <| (inc_within _ _).after (onPort_within _ _ _).mono

theorem putWord_within (p : Fin 16) (w : EvWord) (m : Mach) : Within [.regs, .tick, .port, .sleep] m (putWord p w m) := by
  unfold putWord
  extract_lets m1
  split
  · exact (onPort_within _ _ _).mono
  · extract_lets fresh m2 m3
    have hm2 : Within [.regs, .tick, .port, .sleep] m m2 := by
      unfold m2
      split
      · exact (needBlock_within _ _ _).after <| (onPort_within _ _ _).after <| .refl _ _
      · exact (onPort_within _ _ _).mono
    split
    · exact hm2.mono
    · split
      · exact (evalFc_within _ _).after <| (touchIdle_within _).after <| (inc_within _ _).after <| (onPort_within _ _ _).after <| hm2.mono
      · exact (touchIdle_within _).after <| (inc_within _ _).after <| (onPort_within _ _ _).after <| hm2.mono

theorem emitEv_within (p : Fin 16) (unit : ℕ) (x : ℕ) (y : ℕ) (pol : Bool) (stc : ℕ) (m : Mach) : Within [.regs, .tick, .port, .sleep] m (emitEv p unit x y pol stc m) := by
  unfold emitEv
  split
  · exact Within.refl _ _
  · extract_lets s w
    split
    · exact (inc_within _ _).mono
    · split
      exact (putWord_within _ _ _).mono

theorem decodeWord_within (p : Fin 16) (w : ℕ) (m : Mach) : Within [.regs, .tick, .port, .sleep] m (decodeWord p w m) := by
  unfold decodeWord
  split
  · exact Within.refl _ _
  · extract_lets c e a b cc d s y x0 m1 m1_1
    have hm1 : Within [.regs, .tick, .port, .sleep] m m1 := by
      unfold m1
      exact Within.loop (fun x t => (emitEv_within _ _ _ _ _ _ _).mono) (Within.refl _ _)
    split
    · exact (inc_within _ _).mono
    · split
      · split
        · exact (inc_within _ _).mono
        · exact Within.refl _ _
      · exact (setDec_within _ _ _).mono
      · exact (setDec_within _ _ _).mono
      · exact (setDec_within _ _ _).mono
      · exact (emitEv_within _ _ _ _ _ _ _).after <| (setDec_within _ _ _).after <| .refl _ _
      · split
        · exact (setDec_within _ _ _).after <| hm1.mono
        · exact hm1.mono
      · split
        · exact (onPort_within _ _ _).after <| (setDec_within _ _ _).after <| .refl _ _
        · exact (inc_within _ _).after <| (setDec_within _ _ _).after <| .refl _ _
      · exact Within.refl _ _

theorem delayReqSend_within (p : Fin 2) (m : Mach) : Within [.regs, .net, .out] m (delayReqSend p m) := by
  unfold delayReqSend
  split
  · extract_lets m1
    exact (onClock_within _ _).after <| (inc_within _ _).after <| (ethSend_within _ _ _).after <| .refl _ _
  · exact Within.refl _ _

theorem readSlot_within (r : JRec) (m : Mach) : Within [.regs, .cache, .draws] m (readSlot r m) := by
  unfold readSlot
  split
  · exact Within.refl _ _
  · extract_lets line
    split
    rename_i x v m1 heq
    refine (scRead_within _ _).after <| ?_
    split
    · exact (scRead_within _ _).after <| (Within.snd heq (drawNat_within _)).after <| .refl _ _
    · exact (Within.snd heq (drawNat_within _)).mono

theorem onRec_within (r : JRec) (f : JRec → JRec) (m : Mach) : Within [.jnl] m (onRec r f m) := by
  unfold onRec
  exact (onJnl_within _ _).mono

theorem deliverRec_within (r : JRec) (m : Mach) : Within [.regs, .tick, .jnl, .fn, .cache, .draws, .out] m (deliverRec r m) := by
  unfold deliverRec
  extract_lets c ring size k phase m0 m1 m2
  exact (freeSlots_within _).after <| (countLate_within _ _).after <| (advanceDelivery_within _ _ _ _ _).after <| (onRec_within _ _ _).after <| (ringWrote_within _ _ _ _).after <| (emit_within _ _).after <| (readSlot_within _ _).after <| .refl _ _

theorem deliver_within (f : Fin 8) (c : Fin 4) (m : Mach) : Within [.regs, .tick, .jnl, .nvs, .fn, .cache, .draws, .out] m (deliver f c m) := by
  unfold deliver
  split
  · split
    · split
      · exact (nvmeIssue_within _ _).mono
      · exact (deliverRec_within _ _).mono
    · exact Within.refl _ _
  · exact Within.refl _ _

theorem runRest_within (e : Fin 72) (n : Nat) (m : Mach) : Within [.regs, .tick, .fe, .eng, .tleq, .tle, .heldDesc, .jnl, .led, .fn, .cache, .draws] m (runRest e n m) := by
  induction n generalizing m with
  | zero => exact Within.refl _ _
  | succ n ih =>
    unfold runRest
    split
    · exact Within.refl _ _
    · split
      · exact (ih _).after (runLayer_within _ _).mono
      · exact Within.refl _ _

theorem dramPut_within (a : Nat) (b : List Byte) (m : Mach) : Within [.dram, .cache, .ueLines] m (m.dramPut a b) :=
  Within.after (b := { m with dram := (b.foldl (fun (s : Nat × Mem) x => (s.1 + 1, Mem.write s.2 s.1 x)) (a, m.dram)).2 })
    (Within.of_onlyIn (l := [.cache, .ueLines]) fun p hp => by cases p <;> first | exact absurd (by decide) hp | rfl)
    ((dram_within (Mem.wf_writes b a m.dram)).mono)

theorem descComplete_within (e : Fin 72) (m : Mach) : Within [.regs, .tick, .fe, .eng, .tleq, .tle, .heldDesc, .jnl, .led, .fn, .dram, .cache, .ueLines, .draws] m (descComplete e m) := by
  unfold descComplete
  split
  · exact Within.refl _ _
  · split
    · exact Within.refl _ _
    · extract_lets m1
      split
      · extract_lets last x dw
        split
        rename_i x1 d m4 heq
        extract_lets m3 credit
        clear_value last
        split
        · exact (spend_within _ _ _).after <| (debitNj_within _ _ _).after <| (inc_within _ _).after <| (onEng_within).after <| (Within.snd heq (closeWork_within _ _ _)).after <| (runRest_within _ _ _).after <| .refl _ _
        · split
          · extract_lets s m41
            exact (spend_within _ _ _).after <| (debitNj_within _ _ _).after <| (onCurd_within _ _ _ _ _).after <| (dramPut_within _ _ _).after <| (inc_within _ _).after <| (onEng_within).after <| (Within.snd heq (closeWork_within _ _ _)).after <| (runRest_within _ _ _).after <| .refl _ _
          · split
            · extract_lets role
              split
              · exact (descStale_within _ _ _).after <| (inc_within _ _).after <| (onEng_within).after <| (Within.snd heq (closeWork_within _ _ _)).after <| (runRest_within _ _ _).after <| .refl _ _
              · exact (issue_within _ _).after <| (inc_within _ _).after <| (onEng_within).after <| (Within.snd heq (closeWork_within _ _ _)).after <| (runRest_within _ _ _).after <| .refl _ _
            · exact (spend_within _ _ _).after <| (debitNj_within _ _ _).after <| (inc_within _ _).after <| (onEng_within).after <| (Within.snd heq (closeWork_within _ _ _)).after <| (runRest_within _ _ _).after <| .refl _ _
      · exact (runRest_within _ _ _).mono

theorem descStart_within (e : Fin 72) (m : Mach) : Within [.regs, .tick, .fe, .eng, .tleq, .tle, .heldDesc, .jnl, .led, .fn, .cache, .draws] m (descStart e m) := by
  unfold descStart
  extract_lets m1 x
  split
  · exact (pumpHeld_within _ _).mono
  · split
    · exact (pumpHeld_within _ _).mono
    · extract_lets m11 d1
      split
      · extract_lets inA m2 r
        have hm2 : Within [.regs, .tick, .fe, .eng, .tleq, .tle, .heldDesc, .jnl, .led, .fn, .cache, .draws] m m2 := by
          unfold m2
          split
          · exact (sramPut_within _ _ _ _).after <| (pumpHeld_within _ _).after <| (onEng_within).after <| (pumpHeld_within _ _).after <| .refl _ _
          · exact (sramPut_within _ _ _ _).after <| (pumpHeld_within _ _).after <| (onEng_within).after <| (pumpHeld_within _ _).after <| .refl _ _
        exact (advance_within _ _ _).after <| (onEng_within).after <| hm2.mono
      · exact (descStale_within _ _ _).after <| (pumpHeld_within _ _).after <| (onEng_within).after <| (pumpHeld_within _ _).after <| .refl _ _

theorem destAckRead_within (d : Fin 8) (m : Mach) : Within [.regs, .out] m (destAckRead d m) := by
  unfold destAckRead
  extract_lets v
  exact (emit_within _ _).after <| (wr_within _ _ _).after <| .refl _ _

theorem doorbell_within (f : Fin 8) (r : Fin 7) (val : Word) (size32 : Bool) (m : Mach) : Within [.regs, .fn, .out] m (doorbell f r val size32 m) := by
  unfold doorbell
  split
  · exact Within.refl _ _
  · extract_lets c v back gap
    split
    · exact (dbError_within _ _).mono
    · exact (onRing_within _ _ _ _).mono

theorem loseCopy_within (d : Fin 4) (m : Mach) : Within [.regs, .tick, .jnl, .cache] m (loseCopy d m) := by
  unfold loseCopy
  split
  · exact (sayLost_within _).after <| (onJnl_within _ _).after <| .refl _ _
  · exact Within.refl _ _

theorem ueReader_within (a : ℕ) (reader : ℕ) (unit : ℕ) (m : Mach) : Within [.regs, .tick, .fe, .eng, .tleq, .tle, .heldDesc, .pops, .spikes, .jnl, .led, .fn, .cache] m (ueReader a reader unit m) := by
  unfold ueReader
  split
  · exact (loseCopy_within _ _).mono
  · split
    · exact (abandonEng_within _ _ _).mono
    · exact Within.refl _ _
  · extract_lets f
    split
    · exact (abandonPop_within _ _ _ _).mono
    · exact Within.refl _ _
  · split
    · exact (abandonCurd_within _ _ _ _).mono
    · exact Within.refl _ _
  · exact Within.refl _ _

theorem dramUe_within (a : ℕ) (reader : ℕ) (unit : ℕ) (m : Mach) : Within [.regs, .tick, .fe, .eng, .tleq, .tle, .heldDesc, .pops, .spikes, .jnl, .led, .fn, .cache, .ueLines] m (dramUe a reader unit m) := by
  unfold dramUe
  split
  · exact (onJnl_within _ _).mono
  · split
    · exact Within.refl _ _
    · extract_lets line m1
      split
      · have hm1 : Within [.regs, .tick, .fe, .eng, .tleq, .tle, .heldDesc, .pops, .spikes, .jnl, .led, .fn, .cache, .ueLines] m m1 := by
          exact (ueReader_within _ _ _ _).after <| (ueHit_within _ _).after <| .refl _ _
        clear_value m1
        refine Within.after (b := m1) (Within.of_onlyIn (l := [.ueLines]) fun p hp => by cases p <;> first | exact absurd (by decide) hp | rfl) ?_
        exact hm1.mono
      · exact (ueReader_within _ _ _ _).after <| (ueHit_within _ _).after <| .refl _ _

theorem dramScrub_within (d : Fin 4) (a : ℕ) (correctable : Bool) (m : Mach) : Within [.regs, .tick, .fe, .eng, .tleq, .tle, .heldDesc, .pops, .spikes, .jnl, .led, .fn, .cache, .ueLines] m (dramScrub d a correctable m) := by
  unfold dramScrub
  split
  · exact Within.refl _ _
  · split
    · exact (inc_within _ _).mono
    · exact (dramUe_within _ _ _ _).mono

theorem droop_within (d : Fin 4) (m : Mach) : Within [.regs, .lvl] m (droop d m) := by
  unfold droop
  split
  · exact Within.refl _ _
  · exact (inc_within _ _).after <| (onLvl_within).after <| .refl _ _

theorem droopEnd_within (d : Fin 4) (m : Mach) : Within [.regs, .time, .tick, .enc, .jnl, .lvl, .cache] m (droopEnd d m) := by
  unfold droopEnd
  split
  · exact Within.refl _ _
  · extract_lets khz m1 len m2 m3
    split
    · exact (health_within _ _ _ _).after <| (inc_within _ _).after <| (addTo_within _ _ _).after <| (onLvl_within).after <| (runToElapsed_within _ _).after <| .refl _ _
    · exact (addTo_within _ _ _).after <| (onLvl_within).after <| (runToElapsed_within _ _).after <| .refl _ _

theorem dropBurst_within (p : Fin 16) (m : Mach) : Within [.port] m (dropBurst p m) := by
  unfold dropBurst
  exact (onPort_within _ _ _).mono

theorem dropTleReqs_within (n : ℕ) (m : Mach) : Within [.regs, .tleq] m (dropTleReqs n m) := by
  unfold dropTleReqs
  refine Within.loop (fun x t => ?_) ?_
  · extract_lets i x1
    have hx1 : Within [.regs, .tleq] t x1 := by
      exact (addTo_within _ _ _).mono
    clear_value x1
    refine Within.after (b := x1) (Within.of_onlyIn (l := [.tleq]) fun p hp => by cases p <;> first | exact absurd (by decide) hp | rfl) ?_
    exact hx1.mono
  · exact Within.refl _ _

theorem dropClasses_within (a : TickAcct) (m : Mach) : Within [.regs, .tick, .fe, .eng, .tleq, .tle, .heldDesc, .led] m (dropClasses a m) := by
  unfold dropClasses
  extract_lets m1 m2
  have hm1 : Within [.regs, .tick, .fe, .eng, .tleq, .tle, .heldDesc, .led] m m1 := by
    unfold m1
    exact Within.loop (fun x t => (abandonEng_within _ _ _).mono) ((dropTleReqs_within _ _).mono)
  have hm2 : Within [.regs, .tick, .fe, .eng, .tleq, .tle, .heldDesc, .led] m m2 := by
    unfold m2
    exact Within.loop (fun x t => (refuseCurd_within _ _ _ _).mono) (hm1.mono)
  split
  · exact hm2.mono
  · exact Within.loop (fun x t => (refuseCurd_within _ _ _ _).mono) (hm2.mono)

theorem dropDieWork_within (d : Fin 4) (m : Mach) : Within [.regs, .tick, .fe, .eng, .tleq, .tle, .heldDesc, .led] m (dropDieWork d m) := by
  unfold dropDieWork
  extract_lets gone
  exact Within.loop (fun x t => endDescs_loop (fun d t => (descStale_within _ _ _).mono) (Within.refl _ _)) (Within.refl _ _)

theorem dropPhases_within (a : TickAcct) (m : Mach) : Within [.regs, .tick, .eng, .pops, .spikes, .led, .fn] m (dropPhases a m) := by
  unfold dropPhases
  extract_lets m1
  have hm1 : Within [.regs, .tick, .eng, .pops, .spikes, .led, .fn] m m1 := by
    unfold m1
    refine Within.loop (fun x t => ?_) ?_
    · split
      · split
        · exact (abandonPop_within _ _ _ _).mono
        · exact Within.refl _ _
      · exact Within.refl _ _
    · exact Within.refl _ _
  split
  · exact hm1.mono
  · exact Within.loop (fun x t => (lostPhases_within _ _ _ _).mono) (hm1.mono)

theorem synDrop_within (p : ℕ → Bool) (m : Mach) : Within [.cache] m (synDrop p m) := by
  unfold synDrop
  exact (onCache_within _ _).mono

theorem freeSlot_within (slot : Nat) (m : Mach) : Within [.eng, .pops, .images, .jnl, .fn, .cache, .out] m (m.freeSlot slot) := by
  unfold freeSlot
  split
  · exact Within.refl _ _
  · extract_lets m0 m1
    have hm1 : Within [.eng, .pops, .images, .jnl, .fn, .cache, .out] m m1 :=
      Within.after (b := { m with eng := m1.eng })
        (Within.of_onlyIn (l := [.images, .pops, .cache]) fun p hp => by cases p <;> first | exact absurd (by decide) hp | rfl)
        ((engs_within (by intro x hx; exact hx)).mono)
    clear_value m1
    split
    · exact (done_within _ _ _ _ _ _ _ _).after hm1
    · exact hm1

theorem freeDue_within (k : ℕ) (m : Mach) : Within [.eng, .pops, .images, .jnl, .fn, .cache, .out] m (freeDue k m) := by
  unfold freeDue
  exact Within.loop (fun x t => (freeSlot_within _ _).mono) (Within.refl _ _)

theorem dropTick_within (n : ℕ) (m : Mach) : Within [.tick, .fe, .eng, .pops, .images, .jnl, .fn, .cache, .out] m (dropTick n m) := by
  unfold dropTick
  extract_lets m1 m2
  have hm2 : Within [.tick, .fe, .eng, .pops, .images, .jnl, .fn, .cache, .out] m m2 := by
    unfold m2
    have hm1 : Within [.tick, .fe, .eng, .pops, .images, .jnl, .fn, .cache, .out] m m1 := by
      exact (onTick_within _ _).mono
    clear_value m1
    refine Within.after (b := m1) (Within.of_onlyIn (l := [.fe]) fun p hp => by cases p <;> first | exact absurd (by decide) hp | rfl) ?_
    exact hm1.mono
  exact (freeDue_within _ _).after <| hm2.mono

theorem dueSweep_within (p : Fin 16) (m : Mach) : Within [.fe] m (dueSweep p m) := by
  unfold dueSweep
  extract_lets e f
  split
  · exact (startSweep_within _ _ _).mono
  · exact Within.refl _ _

theorem earlyLoads_within (binds : List (ℕ × ℕ)) (ims : List (ℕ × Image)) (f : Fin 8) (m : Mach) : Within [.eng] m (earlyLoads binds ims f m) := by
  unfold earlyLoads
  refine Within.loop (fun x t => ?_) ?_
  · split
    · exact Within.refl _ _
    · split
      · exact (beginLoad_within _ _ _).mono
      · exact Within.refl _ _
  · exact Within.refl _ _

theorem echoRequest_within (p : Fin 2) (v6 : Bool) (payload : ℕ) (m : Mach) : Within [.regs, .out] m (echoRequest p v6 payload m) := by
  unfold echoRequest
  split
  · exact Within.refl _ _
  · split
    · exact (ethSend_within _ _ _).after <| (ethArrived_within _ _ _).after <| .refl _ _
    · exact (ethArrived_within _ _ _).mono

theorem emergency_within (d : Fin 4) (target : ℕ) (trip : Option ℕ) (m : Mach) : Within [.regs, .tick, .fe, .eng, .tleq, .tle, .heldDesc, .jnl, .led, .lvl, .fn, .cache, .draws] m (emergency d target trip m) := by
  unfold emergency
  exact (inc_within _ _).after <| (onLvl_within).after <| (setEdge_within _ _ _).after <| .refl _ _

theorem edgeError_within (e : Fin 72) (neuron : Bool) (m : Mach) : Within [.regs, .tick, .fe, .eng, .tleq, .tle, .heldDesc, .jnl, .led, .lvl, .fn, .cache, .draws] m (edgeError e neuron m) := by
  unfold edgeError
  extract_lets d l
  split
  · exact Within.refl _ _
  · split
    rename_i x v m1 heq
    extract_lets n m2 m3 m4
    split
    · exact (onEng_within).after <| (set1_within _ _).after <| (onLvl_within).after <| (emergency_within _ _ _ _).after <| (addTo_within _ _ _).after <| (set1_within _ _).after <| (inc_within _ _).after <| (Within.snd heq (drawNat_within _)).after <| .refl _ _
    · exact (onEng_within).after <| (set1_within _ _).after <| (onLvl_within).after <| (emergency_within _ _ _ _).after <| (addTo_within _ _ _).after <| (set1_within _ _).after <| (inc_within _ _).after <| (Within.snd heq (drawNat_within _)).after <| .refl _ _

theorem encCapture_within (m : Mach) : Within [.regs, .time, .tick, .enc, .jnl, .cache] m (encCapture m) := by
  unfold encCapture
  exact (runTo_within _ _).mono

theorem recordWake_within (source : ℕ) (unit : ℕ) (m : Mach) : Within [.regs, .sleep] m (recordWake source unit m) := by
  unfold recordWake
  exact (onSleep_within _ _).after <| (put_within _ _ _).after <| (put_within _ _ _).after <| (put_within _ _ _).after <| .refl _ _

theorem imuPads_within (n : Fin 4) (m : Mach) : Within [.draws] m (imuPads n m).2 := by
  unfold imuPads
  split
  rename_i x v m1 heq
  split
  rename_i x1 v1 m11 heq1
  extract_lets busy
  exact (Within.snd heq1 (drawNat_within _)).after <| (Within.snd heq (drawNat_within _)).after <| .refl _ _

theorem latchPads_within (m : Mach) : Within [.regs, .rst, .draws] m (latchPads m) := by
  unfold latchPads
  extract_lets cut trig mask safe pps sens
  split
  rename_i x imu m0 heq
  extract_lets m1
  have hm1 : Within [.regs, .rst, .draws] m m1 := by
    unfold m1
    refine (put_within _ _ _).after <| ?_
    have hm0 : Within [.regs, .rst, .draws] m m0 := by
      refine Within.snd heq ?_
      refine Within.foldl_snd (fun s x1 => ?_) ?_
      · split
        rename_i x2 x1 t heq1
        exact (Within.snd heq1 (imuPads_within _ _)).mono
      · exact Within.refl _ _
    exact hm0.mono
  refine (onRst_within _ _).after <| ?_
  split
  · exact hm1.mono
  · exact (set1_within _ _).after <| hm1.mono

theorem endOwed_within (f : Fin 8) (m : Mach) : Within [.jnl, .fn, .out] m (endOwed f m) := by
  unfold endOwed
  refine (fencesDone_within _ _).after <| ?_
  exact Within.loop (fun x t => (doneOne_within _ _ _).mono) (Within.refl _ _)

theorem stopRings_within (f : Fin 8) (m : Mach) : Within [.regs, .fn] m (stopRings f m) := by
  unfold stopRings
  extract_lets m1 m2
  have hm2 : Within [.regs, .fn] m m2 := by
    unfold m2
    exact Within.loop (fun x t => (clr_within _ _).mono) ((onFn_within _ _ _).mono)
  exact Within.loop (fun x t => (wr_within _ _ _).mono) (hm2.mono)

theorem wf_warmClear (m : Mach) (h : Tab.wf regReset m.regs = true) : Tab.wf regReset m.warmClear.regs = true := by
  rw [Tab.wf_iff] at h ⊢
  refine canon_filterMap h _ ?_ ?_
  · intro e x hx
    dsimp only at hx
    split at hx
    · cases hx; rfl
    · split at hx
      · split at hx
        · cases hx
        · cases hx; rfl
      · cases hx
  · intro e he x hx
    dsimp only at hx
    split at hx
    · cases hx; exact h.2 e he
    · split at hx
      · split at hx
        · cases hx
        · cases hx; assumption
      · cases hx

theorem warmClear_within (m : Mach) : Within everyPart m m.warmClear :=
  ⟨fun p hp => by cases p <;> simp [everyPart] at hp, fun ⟨hr, hd, _⟩ => ⟨wf_warmClear m hr, hd, (by decide +kernel : ∀ e : Fin 72, Mem.wf (({} : Mach).eng.get e).sram = true)⟩,
    fun _ => (by decide +kernel : ∀ d : Fin 4, (({} : Mach).lvl.get d).freq ≤ (({} : Mach).lvl.get d).volt)⟩

theorem warmReset_within (code : ℕ) (detail : ℕ) (m : Mach) : Within everyPart m (warmReset code detail m) := by
  unfold warmReset
  split
  · exact Within.refl _ _
  · extract_lets m0 m1 m2
    have hm1 : Within everyPart m m1 := by
      unfold m1
      split
      · exact (setQuality_within _ _).after <| (recordCause_within _ _ _).after <| (latchPads_within _).after <| .refl _ _
      · exact (recordCause_within _ _ _).after <| (latchPads_within _).after <| .refl _ _
    have hm2 : Within everyPart m m2 := by
      unfold m2
      exact Within.loop (fun x t => (endOwed_within _ _).after <| (stopRings_within _ _).after <| .refl _ _) (hm1.mono)
    exact (inc_within _ _).after <| (put_within _ _ _).after <| (onRst_within _ _).after <| (warmClear_within _).after <| hm2.mono

theorem wakeS3_within (code : ℕ) (m : Mach) : Within everyPart m (wakeS3 code m) := by
  unfold wakeS3
  extract_lets encs m1
  exact Within.loop (fun x t => (set1_within _ _).mono) ((onSleep_within _ _).after <| (warmReset_within _ _ _).after <| .refl _ _)

theorem loadBound_within (m : Mach) : Within [.eng] m (loadBound m) := by
  unfold loadBound
  refine Within.loop (fun x t => ?_) ?_
  · split
    · split
      · exact (beginLoad_within _ _ _).mono
      · exact Within.refl _ _
    · exact Within.refl _ _
  · exact Within.refl _ _

theorem restartPort_within (p : Fin 16) (m : Mach) : Within [.port, .fe] m (restartPort p m) := by
  unfold restartPort
  extract_lets m1
  exact (onFe_within _ _ _).after <| (zeroSurface_within _ _).after <| (fitOff_within _ _).after <| (onPort_within _ _ _).after <| .refl _ _

theorem restartPorts_within (m : Mach) : Within [.regs, .port, .fe] m (restartPorts m) := by
  unfold restartPorts
  refine Within.loop (fun x t => ?_) ?_
  · split
    · exact (onPort_within _ _ _).after <| (clr_within _ _).after <| .refl _ _
    · exact (restartPort_within _ _).mono
  · exact Within.refl _ _

theorem wakeS2_within (m : Mach) : Within [.regs, .port, .fe, .eng, .fus, .sleep, .link] m (wakeS2 m) := by
  unfold wakeS2
  extract_lets m1 m2
  split
  · exact (loadBound_within _).after <| (restartPorts_within _).after <| (onSleep_within _ _).after <| .refl _ _
  · exact Within.loop (fun x t => (startTraining_within _ _).mono) ((loadBound_within _).after <| (restartPorts_within _).after <| (onSleep_within _ _).after <| .refl _ _)

theorem wake_within (source : ℕ) (unit : ℕ) (m : Mach) : Within everyPart m (wake source unit m) := by
  unfold wake
  split
  · exact (abandonEntry_within _).mono
  · split
    · exact Within.refl _ _
    · extract_lets m1
      split
      · exact (wakeS3_within _ _).after <| (recordWake_within _ _ _).after <| .refl _ _
      · split
        · exact (onSleep_within _ _).after <| (warmReset_within _ _ _).after <| (recordWake_within _ _ _).after <| .refl _ _
        · exact (wakeS2_within _).after <| (recordWake_within _ _ _).after <| .refl _ _

theorem encWake_within (n : Fin 4) (m : Mach) : Within everyPart m (encWake n m) := by
  unfold encWake
  split
  · exact Within.refl _ _
  · split
    · exact (touchIdle_within _).mono
    · exact (wake_within _ _ _).mono

theorem markTrig_within (n : Fin 4) (m : Mach) : Within [.time] m (markTrig n m) := by
  unfold markTrig
  split
  · exact Within.refl _ _
  · refine Within.loop (fun x t => ?_) ?_
    · split
      · exact (onTrig_within _ _ _).mono
      · exact Within.refl _ _
    · exact Within.refl _ _

theorem encEdge_within (n : Fin 4) (a : Bool) (b : Bool) (m : Mach) : Within everyPart m (encEdge n a b m) := by
  unfold encEdge
  split
  extract_lets e m1 m2
  split
  · exact (onEnc_within _ _ _).mono
  · split
    · extract_lets m21
      exact (encWake_within _ _).after <| (markTrig_within _ _).after <| (markReached_within _ _).after <| (onEnc_within _ _ _).after <| (onEnc_within _ _ _).after <| .refl _ _
    · split
      · exact (health_within _ _ _ _).after <| (set1_within _ _).after <| (inc_within _ _).after <| (onEnc_within _ _ _).after <| .refl _ _
      · exact (onEnc_within _ _ _).mono

theorem encIdxRead_within (n : Fin 4) (m : Mach) : Within [.regs, .out] m (encIdxRead n m) := by
  unfold encIdxRead
  split
  extract_lets m1
  exact (emit_within _ _).after <| (put64_within _ _ _ _).after <| (put64_within _ _ _ _).after <| .refl _ _

theorem encIndex_within (n : Fin 4) (rising : Bool) (m : Mach) : Within [.regs, .enc] m (encIndex n rising m) := by
  unfold encIndex
  split
  · exact Within.refl _ _
  · extract_lets e per stamp joined bad m1
    split
    · exact (inc_within _ _).after <| (inc_within _ _).after <| (onEnc_within _ _ _).after <| .refl _ _
    · exact (inc_within _ _).after <| (onEnc_within _ _ _).after <| .refl _ _

theorem encPosRead_within (n : Fin 4) (m : Mach) : Within [.regs, .out] m (encPosRead n m) := by
  unfold encPosRead
  split
  extract_lets m1
  exact (emit_within _ _).after <| (put64_within _ _ _ _).after <| (put64_within _ _ _ _).after <| .refl _ _

theorem endLoad_within (e : Fin 72) (m : Mach) : Within [.regs, .eng, .cache] m (endLoad e m) := by
  unfold endLoad
  extract_lets x m1 m2
  have hm2 : Within [.regs, .eng, .cache] m m2 := by
    unfold m2
    split
    · split
      · split
        · exact Within.loop (fun x1 t => (sramPut_within _ _ _ _).after <| (hubRead_within _ _ _ _).after <| .refl _ _) ((onEng_within).mono)
        · exact (onEng_within).mono
      · exact (onEng_within).mono
    · exact (onEng_within).mono
  split
  · exact Within.refl _ _
  · exact Within.loop (fun x1 t => (sramPut_within _ _ _ _).mono) (hm2.mono)

theorem endRx_within (p : Fin 16) (crcOk : Bool) (m : Mach) : Within [.regs, .tick, .port] m (endRx p crcOk m) := by
  unfold endRx
  split
  · exact Within.refl _ _
  · extract_lets m1
    have hm1 : Within [.regs, .tick, .port] m m1 := by
      unfold m1
      split
      · exact Within.refl _ _
      · exact (inc_within _ _).mono
    split
    · exact (commitRx_within _ _ _).after <| hm1.mono
    · exact (dropRx_within _ _ _).after <| hm1.mono

theorem vfReturn_within (m : Mach) : Within [.regs, .own] m (vfReturn m) := by
  unfold vfReturn
  extract_lets m1 grans m2
  have hm1 : Within [.regs, .own] m m1 := by
    unfold m1
    exact Within.loop (fun x t => (moveUnits_within _ _ _ _ _ _).mono) (Within.refl _ _)
  have hm2 : Within [.regs, .own] m m2 := by
    unfold m2
    exact Within.loop (fun x t => (moveUnits_within _ _ _ _ _ _).mono) (hm1.mono)
  exact (moveUnits_within _ _ _ _ _ _).after <| hm2.mono

theorem flrStart_within (f : Fin 8) (m : Mach) : Within [.regs, .tick, .jnl, .fn, .out] m (flrStart f m) := by
  unfold flrStart
  split
  · exact Within.refl _ _
  · extract_lets m1
    exact (inc_within _ _).after <| (cancelPending_within _ _).after <| (onFn_within _ _ _).after <| (stopRings_within _ _).after <| .refl _ _

theorem flr_within (f : Fin 8) (m : Mach) : Within [.regs, .tick, .jnl, .fn, .own, .out] m (flr f m) := by
  unfold flr
  split
  · refine (vfReturn_within _).after <| ?_
    exact Within.loop (fun x t => (flrStart_within _ _).mono) (Within.refl _ _)
  · exact (flrStart_within _ _).mono

theorem stir_within (source : ℕ) (unit : ℕ) (m : Mach) : Within everyPart m (stir source unit m) := by
  unfold stir
  split
  · exact Within.refl _ _
  · exact (wake_within _ _ _).mono

theorem endpointReset_within (m : Mach) : Within everyPart m (endpointReset m) := by
  unfold endpointReset
  split
  · exact Within.refl _ _
  · exact (health_within _ _ _ _).after <| (flr_within _ _).after <| (recordCause_within _ _ _).after <| (stir_within _ _ _).after <| .refl _ _

theorem engResetDone_within (e : Fin 72) (m : Mach) : Within [.eng, .heldDesc] m (engResetDone e m) := by
  unfold engResetDone
  split
  · exact (pumpHeld_within _ _).after <| (onEng_within).after <| .refl _ _
  · exact Within.refl _ _

theorem enterEvent_within (p : Fin 16) (w : EvWord) (m : Mach) : Within [.regs, .tick] m (enterEvent p w m) := by
  unfold enterEvent
  extract_lets s m1
  split
  · exact (onRunning_within _ _).after <| (inc_within _ _).after <| (onAcct_within _ _ _).after <| .refl _ _
  · exact (onAcct_within _ _ _).mono

theorem ethFrameRx_within (p : Fin 2) (fr : EthFrame) (m : Mach) : Within [.regs] m (ethFrameRx p fr m) := by
  unfold ethFrameRx
  split
  · exact Within.refl _ _
  · extract_lets m1
    split
    · exact (inc_within _ _).after <| (inc_within _ _).after <| .refl _ _
    · split
      · exact (inc_within _ _).after <| (inc_within _ _).after <| .refl _ _
      · split
        · exact (inc_within _ _).after <| (inc_within _ _).after <| .refl _ _
        · split
          · exact (inc_within _ _).after <| (inc_within _ _).after <| .refl _ _
          · exact (inc_within _ _).after <| (inc_within _ _).after <| .refl _ _

theorem synFill_within (d : Fin 4) (line : ℕ) (m : Mach) : Within [.cache, .draws] m (synFill d line m) := by
  unfold synFill
  split
  · exact Within.refl _ _
  · extract_lets k l
    split
    rename_i x v m1 heq
    extract_lets kept
    refine (onCache_within _ _).after <| ?_
    have hm1 : Within [.cache, .draws] m m1 := by
      refine Within.snd heq ?_
      split
      · exact Within.refl _ _
      · exact (drawNat_within _).mono
    exact hm1.mono

theorem synAsk_within (d : Fin 4) (lines : List ℕ) (m : Mach) : Within [.regs, .cache, .draws] m (synAsk d lines m).2 := by
  unfold synAsk
  extract_lets absent m1
  split
  · exact (addTo_within _ _ _).after <| (addTo_within _ _ _).after <| .refl _ _
  · refine Within.foldl_snd (fun s x => ?_) ?_
    · split
      rename_i x1 v m11 heq
      exact (synFill_within _ _ _).after <| (Within.snd heq (hubRead_within _ _ _ _)).after <| .refl _ _
    · exact (addTo_within _ _ _).after <| (addTo_within _ _ _).after <| .refl _ _

theorem popWork_within (f : Fin 8) (k : Work) (e : Fin 72) (n : ℕ) (m : Mach) : Within [.led] m (popWork f k e n m) := by
  unfold popWork
  split
  · exact Within.refl _ _
  · exact (onLed_within _ _).mono

theorem sendSpike_within (f : Fin 8) (tn : ℕ) (epoch : ℕ) (role : ℕ) (e : Fin 72) (a : Arrival) (m : Mach) : Within [.eng, .pops, .spikes, .fn] m (sendSpike f tn epoch role e a m) := by
  unfold sendSpike
  split
  · exact (arrive_within _ _ _ _ _ _).mono
  · refine Within.after (b := m) (Within.of_onlyIn (l := [.spikes]) fun p hp => by cases p <;> first | exact absurd (by decide) hp | rfl) ?_
    exact Within.refl _ _

theorem expandList_within (tn : ℕ) (epoch : ℕ) (e : Fin 72) (im : Image) (r : PopRec) (p : Pop) (sigma : ℤ) (n : ℕ) (m : Mach) : Within [.regs, .tick, .eng, .pops, .spikes, .jnl, .led, .fn, .cache, .draws] m (expandList tn epoch e im r p sigma n m) := by
  unfold expandList
  split
  · exact Within.refl _ _
  · extract_lets ptr nblk base
    split
    rename_i x v m1 heq
    split
    rename_i x1 v1 m11 heq1
    extract_lets m3
    have hm3 : Within [.regs, .tick, .eng, .pops, .spikes, .jnl, .led, .fn, .cache, .draws] m m3 := by
      unfold m3
      split
      · exact (Within.snd heq1 (synAsk_within _ _ _)).after <| (Within.snd heq (synAsk_within _ _ _)).after <| .refl _ _
      · exact (popWork_within _ _ _ _ _).after <| (Within.snd heq1 (synAsk_within _ _ _)).after <| (Within.snd heq (synAsk_within _ _ _)).after <| .refl _ _
    refine Within.loop (fun x2 t => ?_) ?_
    · split
      · exact (ueHit_within _ _).mono
      · extract_lets b hdr
        refine Within.loop (fun x3 t1 => ?_) ?_
        · extract_lets u1
          exact (sendSpike_within _ _ _ _ _ _ _).after <| (popWork_within _ _ _ _ _).after <| (onPop_within _ _ _).after <| .refl _ _
        · exact Within.refl _ _
    · exact hm3.mono

theorem expandTiles_within (tn : ℕ) (epoch : ℕ) (e : Fin 72) (im : Image) (p : Pop) (sigma : ℤ) (spikes : List ℕ) (m : Mach) : Within [.eng, .pops, .spikes, .fn] m (expandTiles tn epoch e im p sigma spikes m) := by
  unfold expandTiles
  refine Within.loop (fun x t => ?_) ?_
  · extract_lets rel
    refine Within.loop (fun x1 t1 => ?_) ?_
    · extract_lets mask
      exact (sendSpike_within _ _ _ _ _ _ _).mono
    · exact Within.refl _ _
  · exact Within.refl _ _

theorem extMeasCmd_within (h : CmdHdr) (ts : ℤ) (md : ℤ) (cd : ℤ) (var : ℕ) (cid : ℕ) (cls : ℕ) (clsValid : Bool) (spawn : Bool) (m : Mach) : Within [.regs, .fus, .jnl, .sleep, .fn, .out] m (extMeasCmd h ts md cd var cid cls clsValid spawn m) := by
  unfold extMeasCmd
  refine command_loop (fun c t => ?_) (fun c t u => ?_) ?_
  · extract_lets x
    exact (inc_within _ _).after <| (onFus_within _ _).after <| .refl _ _
  · extract_lets x
    exact Within.refl _ _
  · exact Within.refl _ _

theorem extendRun_within (p : Fin 16) (k : ℕ) (causes : ℕ) (packets : ℕ) (m : Mach) : Within [.fus] m (extendRun p k causes packets m) := by
  unfold extendRun
  exact (onFus_within _ _).mono

theorem openPacket_within (p : Fin 16) (m : Mach) : Within [.regs, .tick, .port, .fe, .led] m (openPacket p m) := by
  unfold openPacket
  extract_lets x d
  split
  · exact Within.refl _ _
  · split
    · exact Within.refl _ _
    · extract_lets n take
      split
      · exact (onPort_within _ _ _).after <| (debit_within _ _ _ _ _ _).after <| .refl _ _
      · split
        · exact (dropBurst_within _ _).mono
        · split
          · exact (onPort_within _ _ _).after <| (debit_within _ _ _ _ _ _).after <| .refl _ _
          · exact (dropBurst_within _ _).after <| (onFe_within _ _ _).after <| (inc_within _ _).after <| .refl _ _

theorem tapWord_within (p : Fin 16) (w : EvWord) (m : Mach) : Within [.regs, .led, .fn, .draws, .out] m (tapWord p w m) := by
  unfold tapWord
  extract_lets f t seen m1
  split
  · split
    · exact (onFn_within _ _ _).mono
    · split
      rename_i x v m11 heq
      split
      · extract_lets m3
        split
        · exact (tapFlush_within _ _).after <| (onFn_within _ _ _).after <| (debitNj_within _ _ _).after <| (Within.snd heq (drawNat_within _)).after <| (onFn_within _ _ _).after <| .refl _ _
        · exact (onFn_within _ _ _).after <| (debitNj_within _ _ _).after <| (Within.snd heq (drawNat_within _)).after <| (onFn_within _ _ _).after <| .refl _ _
      · exact (onFn_within _ _ _).after <| (inc_within _ _).after <| (Within.snd heq (drawNat_within _)).after <| (onFn_within _ _ _).after <| .refl _ _
  · exact Within.refl _ _

theorem takeWord_within {p : Fin 16} {m m1 : Mach} {w : EvWord} (h : m.takeWord p = some (w, m1)) : Within [.regs, .port, .led, .fn, .draws, .out] m m1 := by
  unfold takeWord at h
  split at h
  · cases h
  · split at h
    · cases h
    · obtain ⟨-, rfl⟩ := Prod.mk.inj (Option.some.inj h)
      exact (tapWord_within _ _ _).after <| (inc_within _ _).after <| (evalFc_within _ _).after (onPort_within _ _ _).mono

theorem firstEvent_within (p : Fin 16) (s : ℤ) (m : Mach) : Within [.fe] m (firstEvent p s m) := by
  unfold firstEvent
  extract_lets f past
  split
  · split
    · exact (onFe_within _ _ _).mono
    · exact (onFe_within _ _ _).mono
  · exact Within.refl _ _

theorem judgeEvent_within (p : Fin 16) (w : EvWord) (m : Mach) : Within [.regs, .tick, .fe] m (judgeEvent p w m) := by
  unfold judgeEvent
  extract_lets s tn h m3
  split
  · exact (onFe_within _ _ _).after <| (inc_within _ _).after <| (firstEvent_within _ _ _).after <| .refl _ _
  · exact (filterEvent_within _ _ _).after <| (firstEvent_within _ _ _).after <| .refl _ _

theorem feEvent_within (p : Fin 16) (m : Mach) : Within [.regs, .tick, .port, .fe, .led, .fn, .draws, .out] m (feEvent p m) := by
  unfold feEvent
  split
  · exact Within.refl _ _
  · extract_lets m1
    have hm1 : Within [.regs, .tick, .port, .fe, .led, .fn, .draws, .out] m m1 :=
      (openPacket_within _ _).after <| (askBurst_within _ _).after (dueSweep_within _ _).mono
    clear_value m1
    split
    · exact hm1
    · rename_i h
      have hw := takeWord_within h
      split
      · exact (learnEvent_within _ _ _ _).after <| (enterEvent_within _ _ _).after <| hw.after hm1
      · exact (judgeEvent_within _ _ _).after <| (enterEvent_within _ _ _).after <| hw.after hm1

theorem feed_within (p : Fin 16) (bytes : List Byte) (m : Mach) : Within [.regs, .tick, .port, .sleep] m (feed p bytes m) := by
  unfold feed
  split
  · exact Within.refl _ _
  · extract_lets c all
    split
    extract_lets m1
    exact Within.loop (fun x t => (decodeWord_within _ _ _).mono) ((onPort_within _ _ _).mono)

theorem fenceCmd_within (h : CmdHdr) (m : Mach) : Within [.regs, .jnl, .sleep, .fn, .out] m (fenceCmd h m) := by
  unfold fenceCmd
  exact command_loop (fun c t => (onFn_within _ _ _).mono) (fun c t u => (fencesDone_within _ _).mono) (Within.refl _ _)

theorem finalCommitDone_within (m : Mach) : Within [.regs, .jnl] m (finalCommitDone m) := by
  unfold finalCommitDone
  split
  · split
    · exact (onJnl_within _ _).after <| (set1_within _ _).after <| .refl _ _
    · exact Within.refl _ _
  · exact Within.refl _ _

theorem firePosition_within (m : Mach) : Within [.regs, .time, .tick, .jnl, .cache] m (firePosition m) := by
  unfold firePosition
  split
  · exact Within.refl _ _
  · exact (fireBatch_within _ _).mono

theorem fitLost_within (p : Fin 16) (m : Mach) : Within [.regs, .time, .tick, .port, .enc, .jnl, .cache] m (fitLost p m) := by
  unfold fitLost
  extract_lets f s m1 m2
  split
  · exact (health_within _ _ _ _).after <| (inc_within _ _).after <| (fitOff_within _ _).after <| (runTo_within _ _).after <| .refl _ _
  · exact Within.refl _ _

theorem fitRateRead_within (p : Fin 16) (m : Mach) : Within [.regs, .out] m (fitRateRead p m) := by
  unfold fitRateRead
  extract_lets f m1
  exact (emit_within _ _).after <| (put64_within _ _ _ _).after <| (put64_within _ _ _ _).after <| (wr_within _ _ _).after <| .refl _ _

theorem flagged_within (flag : Fld) (count : Fld) (m : Mach) : Within [.regs] m (flagged flag count m) := by
  unfold flagged
  exact (inc_within _ _).after <| (set1_within _ _).after <| .refl _ _

theorem flaggedAt_within (e : Fin 72) (touches : ℕ) (m : Mach) : Within [.eng, .draws] m (flaggedAt e touches m).2 := by
  unfold flaggedAt
  split
  · exact Within.refl _ _
  · extract_lets groups
    split
    rename_i x v m1 heq
    extract_lets g
    split
    · exact (Within.snd heq (drawNat_within _)).mono
    · exact (onEng_within).after <| (Within.snd heq (drawNat_within _)).after <| .refl _ _

theorem flrComplete_within (f : Fin 8) (m : Mach) : Within [.fn] m (flrComplete f m) := by
  unfold flrComplete
  extract_lets x
  split
  · exact (onFn_within _ _ _).mono
  · exact Within.refl _ _

theorem flrWedge_within (f : Fin 8) (m : Mach) : Within [.regs, .time, .tick, .enc, .jnl, .fn, .cache, .out] m (flrWedge f m) := by
  unfold flrWedge
  split
  · split
    · exact Within.refl _ _
    · exact (errEvent_within _ _).after <| (onFn_within _ _ _).after <| (runToElapsed_within _ _).after <| .refl _ _
  · exact Within.refl _ _

theorem flushApply_within (p : Fin 16) (m : Mach) : Within [.regs, .tick, .port, .jnl, .fn, .out] m (flushApply p m) := by
  unfold flushApply
  extract_lets x
  split
  · exact (flushNow_within _ _).mono
  · exact Within.refl _ _

theorem startGroup_within (g : Group) (m : Mach) : Within [.regs, .tick, .jnl, .nvs, .cache, .out] m (startGroup g m) := by
  unfold startGroup
  extract_lets n u hit m1
  split
  · split
    · exact Within.refl _ _
    · exact (health_within _ _ _ _).after <| (onNvs_within _ _).after <| .refl _ _
  · exact (nvmeIssue_within _ _).after <| (onJnl_within _ _).after <| (onNvs_within _ _).after <| .refl _ _

theorem formGroup_within (m : Mach) : Within [.regs, .time, .tick, .enc, .jnl, .nvs, .cache, .out] m (formGroup m) := by
  unfold formGroup
  split
  · exact Within.refl _ _
  · extract_lets l
    split
    · split
      · exact (startGroup_within _ _).mono
      · split
        · exact (startGroup_within _ _).mono
        · exact Within.refl _ _
    · exact Within.refl _ _
    · clear_value l
      split
      · exact Within.refl _ _
      · extract_lets m1
        have hm1 : Within [.regs, .time, .tick, .enc, .jnl, .nvs, .cache, .out] m m1 := by
          unfold m1
          split
          · exact Within.refl _ _
          · exact (runTo_within _ _).mono
        exact (startGroup_within _ _).after <| hm1.mono

theorem noteLate_within (l : Fin 4) (x : LinkMsg) (r : ℕ) (cid : ℕ) (m : Mach) : Within [.regs, .tick, .jnl, .link, .cache] m (noteLate l x r cid m) := by
  unfold noteLate
  split
  · extract_lets t
    split
    · exact (inc_within _ _).mono
    · exact (health_within _ _ _ _).after <| (onLink_within _ _ _).after <| (inc_within _ _).after <| .refl _ _
  · exact Within.refl _ _

theorem replyOffer_within (l : Fin 4) (f : ℕ) (tn : ℕ) (cid : ℕ) (status : ℕ) (own : ℕ) (m : Mach) : Within [.link] m (replyOffer l f tn cid status own m) := by
  unfold replyOffer
  extract_lets m1
  have hm1 : Within [.link] m m1 := by
    unfold m1
    split
    · exact (onLink_within _ _ _).mono
    · exact Within.refl _ _
  exact (sendMsg_within _ _ _ _ _ _ _ _).after <| hm1.mono

theorem takeOffer_within (l : Fin 4) (x : LinkMsg) (r : ℕ) (tv : ℤ) (per : ℤ) (m : Mach) : Within [.regs, .tick, .fus, .jnl, .link, .cache] m (takeOffer l x r tv per m) := by
  unfold takeOffer
  extract_lets x1 c cid m1 m2
  split
  · exact (replyOffer_within _ _ _ _ _ _ _).after <| (noteLate_within _ _ _ _ _).after <| (inc_within _ _).after <| (freeMsg_within _ _ _).after <| .refl _ _
  · split
    · exact (replyOffer_within _ _ _ _ _ _ _).after <| (noteLate_within _ _ _ _ _).after <| (inc_within _ _).after <| (freeMsg_within _ _ _).after <| .refl _ _
    · split
      · exact (replyOffer_within _ _ _ _ _ _ _).after <| (inc_within _ _).after <| (noteLate_within _ _ _ _ _).after <| (inc_within _ _).after <| (freeMsg_within _ _ _).after <| .refl _ _
      · split
        · exact (replyOffer_within _ _ _ _ _ _ _).after <| (inc_within _ _).after <| (noteLate_within _ _ _ _ _).after <| (inc_within _ _).after <| (freeMsg_within _ _ _).after <| .refl _ _
        · extract_lets q near m3
          have hm3 : Within [.regs, .tick, .fus, .jnl, .link, .cache] m m3 := by
            unfold m3
            exact Within.loop (fun x2 t => (dropTrack_within _ _).mono) ((noteLate_within _ _ _ _ _).after <| (inc_within _ _).after <| (freeMsg_within _ _ _).after <| .refl _ _)
          split
          · exact (replyOffer_within _ _ _ _ _ _ _).after <| hm3.mono
          · split
            · exact (replyOffer_within _ _ _ _ _ _ _).after <| (setTrack_within _ _ _).after <| hm3.mono
            · exact (replyOffer_within _ _ _ _ _ _ _).after <| (inc_within _ _).after <| hm3.mono

theorem takeOffers_within (n : ℕ) (tv : ℤ) (per : ℤ) (m : Mach) : Within [.regs, .tick, .fus, .jnl, .link, .cache] m (takeOffers n tv per m) := by
  unfold takeOffers
  refine Within.loop (fun x t => ?_) ?_
  · extract_lets mine l0
    exact Within.loop (fun x1 t1 => (takeOffer_within _ _ _ _ _ _).mono) ((onLink_within _ _ _).mono)
  · exact Within.refl _ _

theorem takeReply_within (l : Fin 4) (x : LinkMsg) (r : ℕ) (m : Mach) : Within [.regs, .tick, .fus, .jnl, .link, .cache] m (takeReply l x r m) := by
  unfold takeReply
  extract_lets cid m1 ack
  exact (onFus_within _ _).after <| (noteLate_within _ _ _ _ _).after <| (freeMsg_within _ _ _).after <| .refl _ _

theorem takeReplies_within (n : ℕ) (m : Mach) : Within [.regs, .tick, .fus, .jnl, .link, .cache] m (takeReplies n m) := by
  unfold takeReplies
  refine Within.loop (fun x t => ?_) ?_
  · extract_lets mine l0
    exact Within.loop (fun x1 t1 => (takeReply_within _ _ _ _).mono) ((onLink_within _ _ _).mono)
  · exact Within.refl _ _

theorem measure_within (n : ℕ) (tv : ℤ) (mdv : ℤ) (p : Fin 16) (c : Curd) (m : Mach) : Within [.regs] m (measure n tv mdv p c m).2 := by
  unfold measure
  extract_lets hom flow tm dt x y off
  split
  rename_i x1 em m1 heq
  split
  · have hm1 : Within [.regs] m m1 := by
      refine Within.snd heq ?_
      split
      · exact Within.refl _ _
      · split
        · rename_i x2 v t heq1
          exact (Within.snd heq1 (mdAsk_within _ _ _)).mono
        · rename_i x2 fst t x1 heq1
          exact (Within.snd heq1 (mdAsk_within _ _ _)).mono
    exact hm1.mono
  · split
    · have hm1 : Within [.regs] m m1 := by
        refine Within.snd heq ?_
        split
        · exact Within.refl _ _
        · split
          · rename_i x2 v t heq1
            exact (Within.snd heq1 (mdAsk_within _ _ _)).mono
          · rename_i x2 fst t x1 heq1
            exact (Within.snd heq1 (mdAsk_within _ _ _)).mono
      exact hm1.mono
    · extract_lets g bm bc stamps cd
      have hm1 : Within [.regs] m m1 := by
        refine Within.snd heq ?_
        split
        · exact Within.refl _ _
        · split
          · rename_i x2 v t heq1
            exact (Within.snd heq1 (mdAsk_within _ _ _)).mono
          · rename_i x2 fst t x1 heq1
            exact (Within.snd heq1 (mdAsk_within _ _ _)).mono
      exact hm1.mono

theorem measureAll_within (n : ℕ) (tv : ℤ) (mdv : Option ℤ) (m : Mach) : Within [.regs, .tick] m (measureAll n tv mdv m).2 := by
  unfold measureAll
  refine Within.foldl_snd (fun s x => ?_) ?_
  · extract_lets t
    split
    · exact (addBad_within _ _ _ _).after <| (inc_within _ _).after <| (inc_within _ _).after <| .refl _ _
    · split
      · rename_i x1 y u heq
        exact (Within.snd heq (measure_within _ _ _ _ _ _)).after <| (inc_within _ _).after <| .refl _ _
      · rename_i x1 u heq
        exact (inc_within _ _).after <| (Within.snd heq (measure_within _ _ _ _ _ _)).after <| (inc_within _ _).after <| .refl _ _
      · rename_i x1 u heq
        exact (addBad_within _ _ _ _).after <| (inc_within _ _).after <| (Within.snd heq (measure_within _ _ _ _ _ _)).after <| (inc_within _ _).after <| .refl _ _
  · exact Within.refl _ _

theorem reportNoMd_within (a : TickAcct) (m : Mach) : Within [.regs, .tick, .jnl, .cache] m (reportNoMd a m) := by
  unfold reportNoMd
  extract_lets m1
  have hm1 : Within [.regs, .tick, .jnl, .cache] m m1 := by
    unfold m1
    exact Within.loop (fun x t => (addBad_within _ _ _ _).mono) ((set1_within _ _).mono)
  exact (health_within _ _ _ _).after <| hm1.mono

theorem takeExt_within (tv : ℤ) (m : Mach) : Within [.fus, .jnl, .fn, .out] m (takeExt tv m).2 := by
  unfold takeExt
  extract_lets now here m1
  exact Within.loop (fun x t => (done_within _ _ _ _ _ _ _ _).mono) ((onFus_within _ _).mono)

theorem leaveAll_within (x : FuseCtx) (s : FuseOut × Mach) : Within [.regs, .fus, .draws] s.2 (leaveAll x s).2.2 := by
  unfold leaveAll
  generalize s.2.fus.store = l
  suffices h : ∀ r : List (Nat × Track × Pred) × FuseOut × Mach, Within [.regs, .fus, .draws] s.2 r.2.2 → Within [.regs, .fus, .draws] s.2
      (l.foldl (fun (r : List (Nat × Track × Pred) × FuseOut × Mach) e =>
        let q := r.2.2.predOf x.tv x.per e.2
        if x.late then (r.1 ++ [(e.1, e.2, q)], r.2)
        else
          match r.2.2.leaveOf x e.2 q with
          | (some why, t) => (r.1, retire x e.1 t q why r.2)
          | (none, t) => (r.1 ++ [(e.1, t, q)], r.2)) r).2.2 from h _ (Within.refl _ _)
  induction l with
  | nil => exact fun r hr => hr
  | cons e l ih =>
    intro r hr
    refine ih _ ?_
    dsimp only
    split
    · exact hr
    · split
      · exact (retire_within _ _ _ _ _ _).after hr
      · exact hr

theorem solveBlocks_within (late : Bool) (ms : List Meas) (bs : List (List GPair)) (i : Nat) (s : Solved × Mach) :
    Within [.regs] s.2 (solveBlocks late ms bs i s).2 := by
  induction bs generalizing i s with
  | nil => exact Within.refl _ _
  | cons b r ih =>
    unfold solveBlocks
    refine (?_ : Within [.regs] s.2 _).trans (ih (i + 1) _)
    dsimp only
    split
    · exact Within.refl _ _
    · split
      · exact (inc_within _ _).mono
      · split
        · exact Within.refl _ _
        · exact (inc_within _ _).mono

theorem spawn_within (x : FuseCtx) (i : Nat) (y : Meas) (s : FuseOut × Mach) : Within [.regs, .tick, .fus] s.2 (spawn x i y s).2 := by
  unfold spawn
  dsimp only
  split
  · exact (inc_within _ _).mono
  · split
    · exact Within.refl _ _
    · split
      · dsimp only
        split
        · exact (inc_within _ _).mono
        · exact (addBad_within _ _ _ _).after (inc_within _ _).mono
      · rename_i k _
        have h1 : ∀ f v, Within [.regs, .tick, .fus] s.2 (((s.2.onFus f).setTrack k v).inc R.FUS_SPAWNED) :=
          fun f v => (inc_within _ _).after <| (setTrack_within _ _ _).after (onFus_within _ _).mono
        dsimp only
        split
        · exact (inc_within _ _).after (h1 _ _)
        · exact h1 _ _

theorem writeStep3_within (f : Fin 8) (tn : ℕ) (tValid : ℤ) (popEnc : Fin 4) (b : Body) (flags : ℕ) (m : Mach) : Within [.regs, .time, .tick, .jnl, .sleep, .cache] m (writeStep3 f tn tValid popEnc b flags m) := by
  unfold writeStep3
  split
  · rename_i x n m1 heq
    exact (applyRules_within _ _ _ _ _ _ _).after <| (Within.snd heq (write_within _ _ _ _)).after <| .refl _ _
  · rename_i x m1 heq
    exact (Within.snd heq (write_within _ _ _ _)).mono

theorem writeCurds_within (x : FuseCtx) (ms : List Meas) (cids : List (ℕ × ℕ × Bool)) (m : Mach) : Within [.regs, .tick, .jnl, .cache] m (writeCurds x ms cids m) := by
  unfold writeCurds
  refine Within.loop (fun x1 t => ?_) ?_
  · extract_lets f i y got b flags
    split
    · exact Within.refl _ _
    · split
      · exact (inc_within _ _).mono
      · split
        · rename_i x2 n m1 heq
          exact (onJnl_within _ _).after <| (Within.snd heq (write_within _ _ _ _)).after <| .refl _ _
        · rename_i x2 m1 heq
          exact (Within.snd heq (write_within _ _ _ _)).mono
  · exact Within.refl _ _

theorem sendOffer_within (l : Fin 4) (tn : ℕ) (tv : ℤ) (k : ℕ) (t : Track) (m : Mach) : Within [.regs, .fus, .link] m (sendOffer l tn tv k t m) := by
  unfold sendOffer
  exact (inc_within _ _).after <| (setTrack_within _ _ _).after <| (sendMsg_within _ _ _ _ _ _ _ _).after <| .refl _ _

theorem offerAll_within (x : FuseCtx) (preds : List (ℕ × Pred)) (m : Mach) : Within [.regs, .fus, .link] m (offerAll x preds m) := by
  unfold offerAll
  refine Within.loop (fun x1 t => ?_) ?_
  · split
    · split
      · exact Within.refl _ _
      · split
        · split
          · exact Within.refl _ _
          · exact (sendOffer_within _ _ _ _ _ _).mono
        · exact Within.refl _ _
    · exact Within.refl _ _
  · exact Within.refl _ _

theorem sendCurds_within (n : ℕ) (l : List (Curd × LocalCurd)) (m : Mach) : Within [.regs, .link] m (sendCurds n l m) := by
  unfold sendCurds
  refine Within.loop (fun x t => ?_) ?_
  · extract_lets want es lv
    split
    · exact Within.loop (fun x1 t1 => (inc_within _ _).after <| (sendMsg_within _ _ _ _ _ _ _ _).after <| .refl _ _) (Within.refl _ _)
    · exact Within.refl _ _
  · exact Within.refl _ _

theorem pairLocal_within (n : ℕ) (m : Mach) : Within [.regs, .fus] m (pairLocal n m) := by
  unfold pairLocal
  refine Within.loop (fun x t => ?_) ?_
  · split
    · extract_lets side
      exact (addPairs_within _ _ _).mono
    · exact Within.refl _ _
  · exact Within.refl _ _

theorem fuse_within (x : FuseCtx) (m : Mach) : Within [.regs, .time, .tick, .fus, .jnl, .led, .sleep, .fn, .link, .cache, .draws, .out] m (fuse x m) := by
  unfold fuse
  extract_lets n m0
  have hm0 : Within [.regs, .time, .tick, .fus, .jnl, .led, .sleep, .fn, .link, .cache, .draws, .out] m m0 := (onJnl_within _ _).after <| (takeOffers_within _ _ _ _).after (takeReplies_within _ _).mono
  clear_value m0
  split
  rename_i ms0 ma heqa
  have hma : Within [.regs, .time, .tick, .fus, .jnl, .led, .sleep, .fn, .link, .cache, .draws, .out] m ma := by
    refine Within.snd heqa ?_
    split
    · exact hm0
    · exact (measureAll_within _ _ _ _).after hm0
  clear heqa
  extract_lets m1
  have hm1 : Within [.regs, .time, .tick, .fus, .jnl, .led, .sleep, .fn, .link, .cache, .draws, .out] m m1 := by
    unfold m1
    split
    · exact (reportNoMd_within _ _).after hma
    · exact hma
  clear_value m1
  split
  rename_i exts m2 heq2
  have hm2 : Within [.regs, .time, .tick, .fus, .jnl, .led, .sleep, .fn, .link, .cache, .draws, .out] m m2 := (Within.snd heq2 (takeExt_within _ _)).after hm1
  clear heq2
  extract_lets ms
  split
  rename_i stay o1 m3 heq3
  have hm3 : Within [.regs, .time, .tick, .fus, .jnl, .led, .sleep, .fn, .link, .cache, .draws, .out] m m3 := (Within.snd_snd heq3 (leaveAll_within x ({}, m2))).after hm2
  clear heq3
  extract_lets pairs awaits
  split
  rename_i bs cut heqb
  extract_lets m4
  have hm4 : Within [.regs, .time, .tick, .fus, .jnl, .led, .sleep, .fn, .link, .cache, .draws, .out] m m4 := by
    unfold m4
    split
    · exact hm3
    · exact (addTo_within _ _ _).after <| (addTo_within _ _ _).after hm3
  clear_value m4
  split
  rename_i sol m5 heq5
  have hm5 : Within [.regs, .time, .tick, .fus, .jnl, .led, .sleep, .fn, .link, .cache, .draws, .out] m m5 := (Within.snd heq5 (solveBlocks_within _ _ _ _ _)).after hm4
  clear heq5
  extract_lets m6 free
  have hm6 : Within [.regs, .time, .tick, .fus, .jnl, .led, .sleep, .fn, .link, .cache, .draws, .out] m m6 := by
    unfold m6
    split
    · exact hm5
    · exact (debit_within _ _ _ _ _ _).after hm5
  clear_value m6
  split
  rename_i o2 m7 heq7
  have hm7 : Within [.regs, .time, .tick, .fus, .jnl, .led, .sleep, .fn, .link, .cache, .draws, .out] m m7 :=
    Within.snd heq7 (Within.foldl_snd (fun s y => (spawn_within _ _ _ _).mono) hm6)
  clear heq7
  extract_lets boxes x7 fate
  split
  rename_i o3 m8 heq8
  have hm8 : Within [.regs, .time, .tick, .fus, .jnl, .led, .sleep, .fn, .link, .cache, .draws, .out] m m8 :=
    Within.snd heq8 (Within.foldl_snd (fun s e => (applyFate_within _ _ _ _ _ _ _).mono) hm7)
  clear heq8
  extract_lets m9 m10 m11 acked m12 m13 m14 locals m15
  have hm11 : Within [.regs, .time, .tick, .fus, .jnl, .led, .sleep, .fn, .link, .cache, .draws, .out] m m11 :=
    (onAcct_within _ _ _).after <| (writeCurds_within _ _ _ _).after <| Within.loop (fun r t => (writeStep3_within _ _ _ _ _ _ _).mono) hm8
  have hm12 : Within [.regs, .time, .tick, .fus, .jnl, .led, .sleep, .fn, .link, .cache, .draws, .out] m m12 := Within.loop (fun e t => (inc_within _ _).after (dropTrack_within _ _).mono) hm11
  have hm13 : Within [.regs, .time, .tick, .fus, .jnl, .led, .sleep, .fn, .link, .cache, .draws, .out] m m13 := by
    unfold m13
    split
    · exact hm12
    · exact (offerAll_within _ _ _).after hm12
  have hm14 : Within [.regs, .time, .tick, .fus, .jnl, .led, .sleep, .fn, .link, .cache, .draws, .out] m m14 := Within.loop (fun e t => (done_within _ _ _ _ _ _ _ _).mono) hm13
  have hm15 : Within [.regs, .time, .tick, .fus, .jnl, .led, .sleep, .fn, .link, .cache, .draws, .out] m m15 := by
    unfold m15
    split
    · exact (sendCurds_within _ _ _).after <| (pairLocal_within _ _).after <| (onFus_within _ _).after hm14
    · exact hm14
  exact (onFus_within _ _).after <| (onAcct_within _ _ _).after hm15

theorem passTick_within (x : FuseCtx) (m : Mach) : Within [.regs, .tick, .fus, .jnl, .fn, .cache, .out] m (passTick x m) := by
  unfold passTick
  split
  rename_i x1 exts m2 heq
  extract_lets m21 m3
  have hm3 : Within [.regs, .tick, .fus, .jnl, .fn, .cache, .out] m m3 := by
    unfold m3
    exact Within.loop (fun x2 t => (done_within _ _ _ _ _ _ _ _).mono) ((writeCurds_within _ _ _ _).after <| (Within.snd heq (takeExt_within _ _)).after <| (onJnl_within _ _).after <| .refl _ _)
  exact (onAcct_within _ _ _).after <| hm3.mono

theorem fuseLate_within (a : TickAcct) (m : Mach) : Within [.regs, .time, .tick, .fus, .jnl, .led, .sleep, .fn, .link, .cache, .draws, .out] m (fuseLate a m) := by
  unfold fuseLate
  extract_lets tv
  split
  · exact (passTick_within _ _).mono
  · split
    · rename_i x v m1 heq
      exact (fuse_within _ _).after <| (Within.snd heq (mdAsk_within _ _ _)).after <| .refl _ _
    · rename_i x m1 heq
      exact (fuse_within _ _).after <| (Within.snd heq (mdAsk_within _ _ _)).after <| .refl _ _
    · rename_i x miss m1 heq
      exact (fuse_within _ _).after <| (Within.snd heq (mdAsk_within _ _ _)).after <| .refl _ _

theorem fusionTick_within (m : Mach) : Within [.regs, .time, .tick, .fus, .jnl, .led, .sleep, .fn, .link, .cache, .draws, .out] m (fusionTick m) := by
  unfold fusionTick
  split
  · exact Within.refl _ _
  · split
    · exact Within.refl _ _
    · extract_lets tv
      split
      · exact (passTick_within _ _).mono
      · split
        · rename_i x snd heq
          exact Within.refl _ _
        · rename_i x v m1 heq
          split
          · exact Within.refl _ _
          · exact (fuse_within _ _).after <| (Within.snd heq (mdAsk_within _ _ _)).after <| .refl _ _
        · rename_i x miss m1 heq
          exact (fuse_within _ _).after <| (Within.snd heq (mdAsk_within _ _ _)).after <| .refl _ _

theorem mdThen_within (t : ℤ) (m : Mach) : Within [.regs] m (mdThen t m).2 := by
  unfold mdThen
  split
  · rename_i x v t1 heq
    exact (Within.snd heq (mdAsk_within _ _ _)).mono
  · rename_i x fst t1 x1 heq
    exact (Within.snd heq (mdAsk_within _ _ _)).mono

theorem takeMdStart_within (p : Fin 16) (t : ℤ) (m : Mach) : Within [.regs, .fus] m (takeMdStart p t m) := by
  unfold takeMdStart
  split
  rename_i x em m1 heq
  exact (onFus_within _ _).after <| (Within.snd heq (mdThen_within _ _)).after <| .refl _ _

theorem writeGap_within (p : Fin 16) (k2 : ℤ) (tEnd : ℤ) (isOpen : Bool) (m : Mach) : Within [.regs, .tick, .fus, .jnl, .cache] m (writeGap p k2 tEnd isOpen m) := by
  unfold writeGap
  split
  · exact Within.refl _ _
  · split
    rename_i x em m1 heq
    extract_lets from_ to_ b m2
    exact (write'_within _ _ _ _).after <| (onFus_within _ _).after <| (Within.snd heq (mdThen_within _ _)).after <| .refl _ _

theorem gapPort_within (a : TickAcct) (p : Fin 16) (m : Mach) : Within [.regs, .tick, .fus, .jnl, .cache] m (gapPort a p m) := by
  unfold gapPort
  extract_lets n tEnd m1 m2 m3
  have hm1 : Within [.regs, .tick, .fus, .jnl, .cache] m m1 := by
    unfold m1
    split
    · exact (takeMdStart_within _ _ _).after <| (writeGap_within _ _ _ _ _).after <| .refl _ _
    · exact Within.refl _ _
  have hm2 : Within [.regs, .tick, .fus, .jnl, .cache] m m2 := by
    unfold m2
    split
    · split
      · exact (extendRun_within _ _ _ _ _).after <| hm1.mono
      · exact hm1.mono
    · exact hm1.mono
  split
  · split
    · exact hm1.mono
    · exact (onFus_within _ _).after <| (writeGap_within _ _ _ _ _).after <| hm1.mono
  · split
    · exact (takeMdStart_within _ _ _).after <| (writeGap_within _ _ _ _ _).after <| hm2.mono
    · split
      · split
        · exact (writeGap_within _ _ _ _ _).after <| (extendRun_within _ _ _ _ _).after <| hm2.mono
        · exact (extendRun_within _ _ _ _ _).after <| hm2.mono
      · exact (extendRun_within _ _ _ _ _).after <| hm2.mono

theorem gapAll_within (a : TickAcct) (m : Mach) : Within [.regs, .tick, .fus, .jnl, .cache] m (gapAll a m) := by
  unfold gapAll
  split
  · refine Within.loop (fun x t => ?_) ?_
    · split
      · exact (extendRun_within _ _ _ _ _).mono
      · exact Within.refl _ _
    · exact Within.refl _ _
  · exact Within.loop (fun x t => (gapPort_within _ _ _).mono) (Within.refl _ _)

theorem groupDurable_within (m : Mach) : Within [.regs, .jnl, .nvs] m (groupDurable m) := by
  unfold groupDurable
  split
  · exact Within.refl _ _
  · split
    · exact Within.refl _ _
    · extract_lets m1 m2
      exact (freeSlots_within _).after <| (inc_within _ _).after <| (onJnl_within _ _).after <| (onNvs_within _ _).after <| .refl _ _

theorem gseqRead_within (m : Mach) : Within [.regs, .out] m (gseqRead m) := by
  unfold gseqRead
  extract_lets m1
  exact (emit_within _ _).after <| (put64_within _ _ _ _).after <| .refl _ _

theorem handoffGaps_within (a : TickAcct) (m : Mach) : Within [.regs, .tick, .jnl, .cache, .draws] m (handoffGaps a m) := by
  unfold handoffGaps
  refine Within.loop (fun x t => ?_) ?_
  · split
    rename_i x1 md t2 heq
    split
    rename_i x2 md1 t21 heq1
    split
    rename_i x3 md2 t22 heq2
    split
    rename_i x4 md3 t23 heq3
    exact (write'_within _ _ _ _).after <| (Within.snd heq3 (drawInt_within _)).after <| (Within.snd heq2 (drawInt_within _)).after <| (Within.snd heq1 (drawInt_within _)).after <| (Within.snd heq (drawInt_within _)).after <| .refl _ _
  · exact Within.refl _ _

theorem headerIn_within (p : Fin 16) (m : Mach) : Within [.regs, .port] m (headerIn p m) := by
  unfold headerIn
  exact (evalFc_within _ _).after <| (onPort_within _ _ _).after <| .refl _ _

theorem holdEnd_within (b : BootInfo) (m : Mach) : Within [.chip, .regs, .time, .tick, .enc, .jnl, .nvs, .rst, .cache, .draws, .out] m (holdEnd b m) := by
  unfold holdEnd
  split
  · exact Within.refl _ _
  · exact (bringUp_within _ _).mono
  · exact (bringUp_within _ _).after <| (runToElapsed_within _ _).after <| .refl _ _

theorem holdTimeout_within (m : Mach) : Within [.regs, .time, .tick, .enc, .jnl, .cache] m (holdTimeout m) := by
  unfold holdTimeout
  split
  · exact (enterHoldover_within _ _).after <| (runToElapsed_within _ _).after <| .refl _ _
  · exact Within.refl _ _

theorem holdupSample_within (mv : ℕ) (m : Mach) : Within [.regs, .time, .tick, .enc, .jnl, .cache] m (holdupSample mv m) := by
  unfold holdupSample
  extract_lets m1 v vmin e
  exact (put_within _ _ _).after <| (put_within _ _ _).after <| (runTo_within _ _).after <| .refl _ _

theorem homRead_within (p : Fin 16) (m : Mach) : Within [.regs, .out] m (homRead p m) := by
  unfold homRead
  extract_lets h m1 m2
  have hm1 : Within [.regs, .out] m m1 := by
    unfold m1
    exact Within.loop (fun x t => (wr_within _ _ _).mono) (Within.refl _ _)
  exact (emit_within _ _).after <| (put_within _ _ _).after <| (put_within _ _ _).after <| (put_within _ _ _).after <| hm1.mono

theorem hopReply_within (p : Fin 2) (d : Fin 8) (mac : List Byte) (m : Mach) : Within [.regs, .tick, .jnl, .net, .cache] m (hopReply p d mac m) := by
  unfold hopReply
  split
  · exact Within.refl _ _
  · extract_lets m1
    split
    · exact (judgeDest_within _ _).after <| (onDest_within _ _ _).after <| (ethArrived_within _ _ _).after <| .refl _ _
    · exact (ethArrived_within _ _ _).mono

theorem hostCmdReset_within (m : Mach) : Within everyPart m (hostCmdReset m) := by
  unfold hostCmdReset
  split
  · exact (warmReset_within _ _ _).after <| (runToElapsed_within _ _).after <| .refl _ _
  · exact Within.refl _ _

theorem i3cAddress_within (a : ℕ) (m : Mach) : Within [.rst] m (i3cAddress a m) := by
  unfold i3cAddress
  split
  · exact (onRst_within _ _).mono
  · exact Within.refl _ _

theorem identified_within (lbaSize : ℕ) (units : ℕ) (serial : ℕ) (plain : Bool) (m : Mach) : Within [.regs, .nvs, .out] m (identified lbaSize units serial plain m) := by
  unfold identified
  extract_lets n
  split
  · exact (storeFault_within _ _).mono
  · split
    · exact (storeFault_within _ _).mono
    · exact (nvmeIssue_within _ _).after <| (onNvs_within _ _).after <| .refl _ _

theorem idle_within (m : Mach) : Within [.regs, .time, .tick, .enc, .jnl, .cache] m (idle m) := by
  unfold idle
  exact (runIncs_within _ _).mono

theorem vibFeed_within (i : Fin 4) (k : Fin 8) (x : Sample) (m : Mach) : Within [.fus] m (vibFeed i k x m) := by
  unfold vibFeed
  refine Within.loop (fun x1 t => ?_) ?_
  · split
    · extract_lets lk step
      exact (onFus_within _ _).mono
    · exact Within.refl _ _
  · exact Within.refl _ _

theorem imuFeed_within (i : Fin 4) (vals : List ℤ) (stamp : ℤ) (fill : Bool) (m : Mach) : Within [.regs, .imu, .fus] m (imuFeed i vals stamp fill m) := by
  unfold imuFeed
  refine Within.loop (fun x t => ?_) ?_
  · split
    · split
      extract_lets t0 t1
      have ht1 : Within [.regs, .imu, .fus] t t1 := by
        unfold t1
        split
        · exact (vibFeed_within _ _ _ _).after <| (onImu_within _ _ _).after <| .refl _ _
        · exact (onImu_within _ _ _).mono
      split
      · exact ht1.mono
      · exact (set1_within _ _).after <| (addTo_within _ _ _).after <| ht1.mono
    · exact Within.refl _ _
  · exact Within.refl _ _

theorem imuDone_within (i : Fin 4) (bytes : List Byte) (m : Mach) : Within [.regs, .imu, .fus] m (imuDone i bytes m) := by
  unfold imuDone
  extract_lets x kept vals m1 m2
  have hm2 : Within [.regs, .imu, .fus] m m2 := by
    unfold m2
    exact Within.loop (fun x1 t => (wr_within _ _ _).mono) ((inc_within _ _).after <| (onImu_within _ _ _).after <| .refl _ _)
  split
  · exact Within.refl _ _
  · exact Within.loop (fun x1 t => (imuFeed_within _ _ _ _ _).mono) ((imuFeed_within _ _ _ _ _).after <| hm2.mono)

theorem imuDrdy_within (i : Fin 4) (rising : Bool) (m : Mach) : Within [.regs, .imu, .out] m (imuDrdy i rising m) := by
  unfold imuDrdy
  split
  · exact Within.refl _ _
  · extract_lets stamp m1
    split
    · exact (inc_within _ _).after <| (onImu_within _ _ _).after <| (onImu_within _ _ _).after <| .refl _ _
    · exact (emit_within _ _).after <| (onImu_within _ _ _).after <| (onImu_within _ _ _).after <| .refl _ _

theorem imuOutRead_within (i : Fin 4) (m : Mach) : Within [.regs, .out] m (imuOutRead i m) := by
  unfold imuOutRead
  extract_lets m1 m2
  have hm1 : Within [.regs, .out] m m1 := by
    unfold m1
    exact Within.loop (fun x t => (wr_within _ _ _).mono) (Within.refl _ _)
  exact (emit_within _ _).after <| (put64_within _ _ _ _).after <| hm1.mono

theorem imuTimeout_within (i : Fin 4) (m : Mach) : Within [.regs, .time, .tick, .enc, .imu, .fus, .jnl, .cache] m (imuTimeout i m) := by
  unfold imuTimeout
  split
  · exact Within.refl _ _
  · extract_lets due m1 m2
    exact (health_within _ _ _ _).after <| (vibZero_within _ _).after <| (set1_within _ _).after <| (inc_within _ _).after <| (onImu_within _ _ _).after <| (runToElapsed_within _ _).after <| .refl _ _

theorem issueWaiting_within (n : ℕ) (p : Fin 16) (index : ℕ) (m : Mach) : Within [.regs, .tick, .fe, .eng, .heldDesc, .led] m (issueWaiting n p index m) := by
  unfold issueWaiting
  split
  · split
    · exact (issue_within _ _).after <| (onCurd_within _ _ _ _ _).after <| .refl _ _
    · exact Within.refl _ _
  · exact Within.refl _ _

theorem jtag_within (ir : BitVec 4) (trst : Bool) (m : Mach) : Within [.rst] m (jtag ir trst m) := by
  unfold jtag
  split
  · exact (onRst_within _ _).mono
  · exact (onRst_within _ _).mono

theorem judgeSkew_within (l : Fin 4) (theta : ℤ) (m : Mach) : Within [.regs, .tick, .jnl, .link, .cache] m (judgeSkew l theta m) := by
  unfold judgeSkew
  extract_lets guard x
  split
  · exact (health_within _ _ _ _).after <| (onLink_within _ _ _).after <| .refl _ _
  · split
    · exact (onLink_within _ _ _).mono
    · exact Within.refl _ _

theorem learnDone_within (p : Fin 16) (m : Mach) : Within [.regs, .fe] m (learnDone p m) := by
  unfold learnDone
  extract_lets m1
  split
  · exact (onFe_within _ _ _).after <| (set1_within _ _).after <| .refl _ _
  · exact (clr_within _ _).after <| (onFe_within _ _ _).after <| (set1_within _ _).after <| .refl _ _

theorem learnEnd_within (p : Fin 16) (m : Mach) : Within [.regs, .time, .tick, .fe, .enc, .jnl, .dram, .cache, .ueLines] m (learnEnd p m) := by
  unfold learnEnd
  split
  · extract_lets m1 rate hot kept base w bytes m2 m3
    have hm3 : Within [.regs, .time, .tick, .fe, .enc, .jnl, .dram, .cache, .ueLines] m m3 := by
      unfold m3
      split
      · exact (set1_within _ _).after <| (put_within _ _ _).after <| (dramPut_within _ _ _).after <| (runTo_within _ _).after <| .refl _ _
      · exact (put_within _ _ _).after <| (dramPut_within _ _ _).after <| (runTo_within _ _).after <| .refl _ _
    exact (onFe_within _ _ _).after <| (zeroSurface_within _ _).after <| hm3.mono
  · exact Within.refl _ _

theorem linkPairing_within (l : Fin 4) (m : Mach) : Within [.regs, .time, .tick, .enc, .fus, .jnl, .link, .cache] m (linkPairing l m) := by
  unfold linkPairing
  split
  · exact Within.refl _ _
  · extract_lets m1 m2
    have hm2 : Within [.regs, .time, .tick, .enc, .fus, .jnl, .link, .cache] m m2 := by
      unfold m2
      refine Within.loop (fun x t => ?_) ?_
      · split
        · extract_lets la lb
          exact (addPairs_within _ _ _).mono
        · exact Within.refl _ _
      · exact (runTo_within _ _).mono
    exact (onFus_within _ _).after <| (onLink_within _ _ _).after <| hm2.mono

theorem resendAll_within (l : Fin 4) (m : Mach) : Within [.regs, .link, .out] m (resendAll l m) := by
  unfold resendAll
  extract_lets kept m1
  exact Within.loop (fun x t => (sendKept_within _ _ _).mono) ((inc_within _ _).after <| (onLink_within _ _ _).after <| .refl _ _)

theorem linkUp_within (l : Fin 4) (f : TrainFrame) (m : Mach) : Within [.regs, .tick, .jnl, .link, .cache, .out] m (linkUp l f m) := by
  unfold linkUp
  extract_lets x level m1 m2 m3
  have hm1 : Within [.regs, .tick, .jnl, .link, .cache, .out] m m1 := by
    unfold m1
    split
    · exact (onLink_within _ _ _).after <| (ackTo_within _ _ _).after <| (onLink_within _ _ _).after <| .refl _ _
    · exact (onLink_within _ _ _).mono
  split
  · exact (resendAll_within _ _).after <| (health_within _ _ _ _).after <| (setLinkState_within _ _ _).after <| (onLink_within _ _ _).after <| hm1.mono
  · exact (health_within _ _ _ _).after <| (setLinkState_within _ _ _).after <| (onLink_within _ _ _).after <| hm1.mono

theorem loadCopyDone_within (f : Fin 8) (m : Mach) : Within [.regs, .tick, .pops, .images, .jnl, .fn, .dram, .cache, .ueLines, .out] m (loadCopyDone f m) := by
  unfold loadCopyDone
  split
  · exact Within.refl _ _
  · extract_lets m0 reject im x
    split
    · exact (cplWrite_within _ _ _).after <| (inc_within _ _).after <| (onFn_within _ _ _).after <| .refl _ _
    · split
      · exact (cplWrite_within _ _ _).after <| (inc_within _ _).after <| (onFn_within _ _ _).after <| .refl _ _
      · split
        · exact (cplWrite_within _ _ _).after <| (inc_within _ _).after <| (onFn_within _ _ _).after <| .refl _ _
        · extract_lets m1 m2 m3
          have hm1 : Within [.regs, .tick, .pops, .images, .jnl, .fn, .dram, .cache, .ueLines, .out] m m1 := by
            unfold m1
            have hx : Within [.regs, .tick, .pops, .images, .jnl, .fn, .dram, .cache, .ueLines, .out] m x := by
              exact (dramPut_within _ _ _).after <| (onFn_within _ _ _).after <| .refl _ _
            clear_value x
            refine Within.after (b := x) (Within.of_onlyIn (l := [.pops, .images]) fun p hp => by cases p <;> first | exact absurd (by decide) hp | rfl) ?_
            exact hx.mono
          split
          · exact (pend_within _ _).after <| (cplWrite_within _ _ _).after <| (onFn_within _ _ _).after <| hm1.mono
          · exact (done_within _ _ _ _ _ _ _ _).after <| (activate_within _ _ _ _).after <| (cplWrite_within _ _ _).after <| (onFn_within _ _ _).after <| hm1.mono

theorem loadGraph_within (h : CmdHdr) (image : List Byte) (len : ℕ) (dst : ℕ) (replaces : Option ℕ) (m : Mach) : Within [.regs, .jnl, .sleep, .fn, .out] m (loadGraph h image len dst replaces m) := by
  unfold loadGraph
  split
  · exact Within.refl _ _
  · extract_lets cseq m1
    split
    · exact (cplWrite_within _ _ _).after <| (inc_within _ _).after <| (fetch_within _ _).after <| .refl _ _
    · exact (onFn_within _ _ _).after <| (shadow_within _ _).after <| (fetch_within _ _).after <| .refl _ _

theorem startRx_within (p : Fin 16) (h : Csi2Header) (m : Mach) : Within [.port] m (startRx p h m) := by
  unfold startRx
  exact (onPort_within _ _ _).mono

theorem raw8_within (p : Fin 16) (payload : List Byte) (crcOk : Bool) (m : Mach) : Within [.regs] m (raw8 p payload crcOk m) := by
  unfold raw8
  split
  · extract_lets b m1
    have hm1 : Within [.regs] m m1 := by
      unfold m1
      exact Within.loop (fun x t => (wr_within _ _ _).mono) (Within.refl _ _)
    exact (inc_within _ _).after <| (put_within _ _ _).after <| hm1.mono
  · exact (inc_within _ _).mono

theorem longPacket_within (p : Fin 16) (h : Csi2Header) (payload : List Byte) (crcOk : Bool) (ovf : Bool) (m : Mach) : Within [.regs, .tick, .port, .jnl, .sleep, .fn, .out] m (longPacket p h payload crcOk ovf m) := by
  unfold longPacket
  extract_lets m1 x m_1 m1_1 m1_2 data m2
  have hm1_2 : Within [.regs, .tick, .port, .jnl, .sleep, .fn, .out] m m1_2 := by
    unfold m1_2
    refine (inc_within _ _).after <| ?_
    split
    · exact (inc_within _ _).after <| (headerIn_within _ _).after <| (atBoundary_within _ _).after <| .refl _ _
    · exact (headerIn_within _ _).after <| (atBoundary_within _ _).after <| .refl _ _
  split
  · exact (atBoundary_within _ _).mono
  · split
    · split
      · exact (inc_within _ _).after <| (headerIn_within _ _).after <| (atBoundary_within _ _).after <| .refl _ _
      · exact (lostRaw_within _ _).after <| (inc_within _ _).after <| (headerIn_within _ _).after <| (atBoundary_within _ _).after <| .refl _ _
    · split
      · exact (lostRaw_within _ _).after <| (inc_within _ _).after <| (headerIn_within _ _).after <| (atBoundary_within _ _).after <| .refl _ _
      · split
        · exact (inc_within _ _).after <| hm1_2.mono
        · split
          · split
            · exact (inc_within _ _).after <| hm1_2.mono
            · split
              · exact (onPort_within _ _ _).after <| (startRx_within _ _ _).after <| hm1_2.mono
              · exact (raw8_within _ _ _ _).after <| hm1_2.mono
          · split
            · split
              · exact (feed_within _ _ _).after <| (startRx_within _ _ _).after <| hm1_2.mono
              · split
                · exact (dropRx_within _ _ _).after <| (feed_within _ _ _).after <| (startRx_within _ _ _).after <| hm1_2.mono
                · split
                  · exact (feed_within _ _ _).after <| (startRx_within _ _ _).after <| hm1_2.mono
                  · exact (endRx_within _ _ _).after <| (feed_within _ _ _).after <| (startRx_within _ _ _).after <| hm1_2.mono
            · exact (inc_within _ _).after <| hm1_2.mono

theorem loseCopies_within (m : Mach) : Within [.regs, .tick, .jnl, .cache] m (loseCopies m) := by
  unfold loseCopies
  refine Within.loop (fun x t => ?_) ?_
  · split
    · exact (loseCopy_within _ _).mono
    · exact Within.refl _ _
  · exact Within.refl _ _

theorem loseDie_within (d : Fin 4) (why : ℕ) (m : Mach) : Within [.regs, .tick, .fe, .eng, .tleq, .tle, .heldDesc, .pops, .jnl, .led, .rst, .cache] m (loseDie d why m) := by
  unfold loseDie
  split
  · exact Within.refl _ _
  · extract_lets m1 m2 m3 m4
    have hm4 : Within [.regs, .tick, .fe, .eng, .tleq, .tle, .heldDesc, .pops, .jnl, .led, .rst, .cache] m m4 := by
      unfold m4
      exact Within.loop (fun x t => (onPopsOf_within _ _ _).after <| (onEng_within).after <| .refl _ _) ((dropDieWork_within _ _).after <| (loseCopy_within _ _).after <| (health_within _ _ _ _).after <| (publish_within _ _).after <| (inc_within _ _).after <| (onDie_within _ _ _).after <| .refl _ _)
    split
    · exact (onRst_within _ _).after <| hm4.mono
    · exact hm4.mono

theorem loseEarly_within (l : List JRec) (m : Mach) : Within [.regs, .tick, .jnl, .cache] m (loseEarly l m) := by
  unfold loseEarly
  extract_lets streams m1
  exact Within.loop (fun x t => (health_within _ _ _ _).mono) ((syncDelivery_within _).after <| (onJnl_within _ _).after <| (addTo_within _ _ _).after <| .refl _ _)

theorem taken_within (h : CmdHdr) (owes : Bool) (m : Mach) : Within [.regs, .sleep, .fn] m (taken h owes m) := by
  unfold taken
  split
  · exact (onFn_within _ _ _).after <| (fetch_within _ _).after <| .refl _ _
  · exact (fetch_within _ _).mono

theorem mapPended_within (h : CmdHdr) (es : List (ℕ × ℕ × ℕ)) (m : Mach) : Within [.regs, .tick, .sleep, .fn] m (mapPended h es m) := by
  unfold mapPended
  exact (pend_within _ _).after <| (onFn_within _ _ _).after <| (taken_within _ _ _).after <| .refl _ _

theorem mapRoles_within (h : CmdHdr) (table : List Byte) (m : Mach) : Within [.regs, .tick, .eng, .jnl, .sleep, .fn, .out] m (mapRoles h table m) := by
  unfold mapRoles
  extract_lets es binds
  refine command_loop (fun c t => ?_) (fun c t u => ?_) ?_
  · extract_lets eff epoch ims t1 t2
    have ht2 : Within [.regs, .tick, .eng, .jnl, .sleep, .fn, .out] t t2 := by
      unfold t2
      refine Within.loop (fun x t3 => ?_) ?_
      · extract_lets e
        split
        · exact Within.refl _ _
        · split
          · exact (beginLoad_within _ _ _).mono
          · exact Within.refl _ _
      · exact (pend_within _ _).after <| (onFn_within _ _ _).after <| .refl _ _
    exact ht2.mono
  · extract_lets eff epoch ims t1 t2
    exact Within.refl _ _
  · exact Within.refl _ _

theorem mbCal_within (m : Mach) : Within [.regs, .mgt, .mgtSci, .draws, .out] m (mbCal m) := by
  unfold mbCal
  split
  · exact Within.refl _ _
  · extract_lets s
    exact (mbServe_within _ _ _).mono

theorem mbFpt_within (m : Mach) : Within [.regs, .mgt, .mgtSci, .out] m (mbFpt m) := by
  unfold mbFpt
  split
  · exact Within.refl _ _
  · exact (mbReply_within _ _ _ _).mono

theorem mbFwStage_within (sigOk : Bool) (antiRollback : ℕ) (m : Mach) : Within [.regs, .mgt, .mgtSci, .rst, .draws, .out] m (mbFwStage sigOk antiRollback m) := by
  unfold mbFwStage
  split
  · exact Within.refl _ _
  · split
    · exact (mbServe_within _ _ _).after <| (onRst_within _ _).after <| .refl _ _
    · exact (mbServe_within _ _ _).after <| (inc_within _ _).after <| .refl _ _

theorem mbLog_within (entries : List ℤ) (m : Mach) : Within [.regs, .mgt, .mgtSci, .draws, .out] m (mbLog entries m) := by
  unfold mbLog
  split
  · exact Within.refl _ _
  · exact (mbServe_within _ _ _).mono

theorem mbSci_within (m : Mach) : Within [.regs, .port, .jnl, .fn, .mgt, .mgtSci, .draws, .out] m (mbSci m) := by
  unfold mbSci
  split
  · exact Within.refl _ _
  · extract_lets b p wlen
    split
    · exact (mbServe_within _ _ _).mono
    · refine (sciStart_within _ _ _ _ _ _).after <| (sciPut_within _ _ _).after <| ?_
      refine Within.after (b := m) (Within.of_onlyIn (l := [.mgtSci]) fun p hp => by cases p <;> first | exact absurd (by decide) hp | rfl) ?_
      exact Within.refl _ _

theorem mbTelemetry_within (m : Mach) : Within [.regs, .mgt, .mgtSci, .draws, .out] m (mbTelemetry m) := by
  unfold mbTelemetry
  split
  · exact Within.refl _ _
  · exact (mbServe_within _ _ _).mono

theorem mbUnlock_within (sigOk : Bool) (serial : ℕ) (nonce : ℕ) (m : Mach) : Within [.regs, .mgt, .mgtSci, .rst, .draws, .out] m (mbUnlock sigOk serial nonce m) := by
  unfold mbUnlock
  split
  · exact Within.refl _ _
  · split
    · exact (mbServe_within _ _ _).after <| (inc_within _ _).after <| (onRst_within _ _).after <| .refl _ _
    · exact (mbServe_within _ _ _).after <| (inc_within _ _).after <| (onRst_within _ _).after <| .refl _ _

theorem mbVersion_within (m : Mach) : Within [.regs, .mgt, .mgtSci, .draws, .out] m (mbVersion m) := by
  unfold mbVersion
  split
  · exact Within.refl _ _
  · split
    rename_i x v m1 heq
    exact (mbServe_within _ _ _).after <| (Within.snd heq (drawNat_within _)).after <| .refl _ _

theorem mdQuery_within (n : Fin 4) (t : ℤ) (m : Mach) : Within [.regs, .time, .tick, .enc, .jnl, .cache, .out] m (mdQuery n t m) := by
  unfold mdQuery
  extract_lets wait
  split
  · rename_i x snd heq
    refine (Within.snd heq (mdAsk_within _ _ _)).after <| ?_
    split
    · exact (runTo_within _ _).mono
    · exact Within.refl _ _
  · rename_i x miss m1 heq
    refine (emit_within _ _).after <| (Within.snd heq (mdAsk_within _ _ _)).after <| ?_
    split
    · exact (runTo_within _ _).mono
    · exact Within.refl _ _
  · rename_i x md m1 heq
    refine (emit_within _ _).after <| (Within.snd heq (mdAsk_within _ _ _)).after <| ?_
    split
    · exact (runTo_within _ _).mono
    · exact Within.refl _ _

theorem mgtWdog_within (m : Mach) : Within everyPart m (mgtWdog m) := by
  unfold mgtWdog
  split
  · exact Within.refl _ _
  · exact (warmReset_within _ _ _).mono

theorem mirrorBack_within (copy : Fin 4) (m : Mach) : Within [.regs, .tick, .jnl, .cache] m (mirrorBack copy m) := by
  unfold mirrorBack
  split
  · exact Within.refl _ _
  · exact (health_within _ _ _ _).after <| (onJnl_within _ _).after <| .refl _ _

theorem modTimer_within (f : Fin 8) (v : Fin 6) (m : Mach) : Within [.regs, .time, .tick, .enc, .jnl, .fn, .cache, .out] m (modTimer f v m) := by
  unfold modTimer
  split
  · exact (modSend_within _ _ _).after <| (runToElapsed_within _ _).after <| .refl _ _
  · exact Within.refl _ _

theorem movePops_within (n : ℕ) (m : Mach) : Within [.eng, .pops] m (movePops n m) := by
  unfold movePops
  refine Within.loop (fun x t => ?_) ?_
  · extract_lets roles
    split
    · exact Within.refl _ _
    · split
      · extract_lets ea eb tiles data mine arr t1
        split
        · exact Within.refl _ _
        · split
          · exact (onPop_within _ _ _).mono
          · split
            · exact (onEng_within).after <| (onEng_within).after <| (onEng_within).after <| .refl _ _
            · exact Within.loop (fun x1 t2 => (sramPut_within _ _ _ _).mono) ((onEng_within).after <| (onEng_within).after <| .refl _ _)
      · exact Within.refl _ _
  · exact Within.refl _ _

theorem replayOrRetrain_within (l : Fin 4) (m : Mach) : Within [.regs, .fus, .link, .out] m (replayOrRetrain l m) := by
  unfold replayOrRetrain
  split
  · exact (retrain_within _ _).mono
  · exact (resendAll_within _ _).mono

theorem nakRx_within (l : Fin 4) (seq : ℕ) (ack : ℕ) (cred : List ℕ) (m : Mach) : Within [.regs, .fus, .link, .out] m (nakRx l seq ack cred m) := by
  unfold nakRx
  split
  · exact Within.refl _ _
  · extract_lets m1
    split
    · exact (takeCredits_within _ _ _).after <| (ackTo_within _ _ _).after <| (ackTo_within _ _ _).after <| (inc_within _ _).after <| .refl _ _
    · exact (replayOrRetrain_within _ _).after <| (takeCredits_within _ _ _).after <| (ackTo_within _ _ _).after <| (ackTo_within _ _ _).after <| (inc_within _ _).after <| .refl _ _

theorem neighborSolicitation_within (p : Fin 2) (target : List Byte) (m : Mach) : Within [.regs, .out] m (neighborSolicitation p target m) := by
  unfold neighborSolicitation
  split
  · exact Within.refl _ _
  · extract_lets m1
    split
    · exact (ethSend_within _ _ _).after <| (ethArrived_within _ _ _).after <| .refl _ _
    · exact (ethArrived_within _ _ _).mono

theorem newEpoch_within (m : Mach) : Within [.jnl] m (newEpoch m) := by
  unfold newEpoch
  exact (syncDelivery_within _).after <| (onJnl_within _ _).after <| .refl _ _

theorem nonceRead_within (m : Mach) : Within [.regs, .out] m (nonceRead m) := by
  unfold nonceRead
  exact (emit_within _ _).after <| (wr_within _ _ _).after <| .refl _ _

theorem storeUp_within (valid : Bool) (m : Mach) : Within [.regs, .tick, .jnl, .nvs, .cache, .out] m (storeUp valid m) := by
  unfold storeUp
  extract_lets other m1 m2 m3
  have hm2 : Within [.regs, .tick, .jnl, .nvs, .cache, .out] m m2 := by
    unfold m2
    split
    · exact (health_within _ _ _ _).after <| (onNvs_within _ _).after <| .refl _ _
    · exact (onNvs_within _ _).mono
  have hm3 : Within [.regs, .tick, .jnl, .nvs, .cache, .out] m m3 := by
    unfold m3
    split
    · exact (loseEarly_within _ _).after <| hm2.mono
    · exact hm2.mono
  split
  · exact (nvmeIssue_within _ _).after <| (onNvs_within _ _).after <| hm3.mono
  · exact hm3.mono

theorem sbDone_within (m : Mach) : Within [.nvs] m (sbDone m) := by
  unfold sbDone
  exact (onNvs_within _ _).mono

theorem readBackDone_within (f : Fin 8) (cls : ℕ) (count : ℕ) (ok : Bool) (m : Mach) : Within [.regs, .tick, .jnl, .nvs, .cache] m (readBackDone f cls count ok m) := by
  unfold readBackDone
  extract_lets m1 mine grp
  split
  · exact (onJnl_within _ _).after <| (inc_within _ _).after <| (inc_within _ _).after <| (onNvs_within _ _).after <| .refl _ _
  · exact (loseEarly_within _ _).after <| (inc_within _ _).after <| (onNvs_within _ _).after <| .refl _ _

theorem nvmeFailed_within (m : Mach) : Within [.regs, .tick, .jnl, .nvs, .cache] m (nvmeFailed m) := by
  unfold nvmeFailed
  split
  · exact (onNvs_within _ _).mono
  · exact (health_within _ _ _ _).after <| (storeFault_within _ _).after <| .refl _ _

theorem nvmeDone_within (reply : NvmeReply) (m : Mach) : Within [.regs, .tick, .jnl, .nvs, .cache, .out] m (nvmeDone reply m) := by
  unfold nvmeDone
  split
  · exact Within.refl _ _
  · split
    · exact Within.refl _ _
    · exact (nvmeIssue_within _ _).mono
    · exact (storeFault_within _ _).mono
    · exact (nvmeIssue_within _ _).mono
    · exact (storeFault_within _ _).mono
    · exact (identified_within _ _ _ _ _).mono
    · exact (nvmeIssue_within _ _).mono
    · exact (storeUp_within _ _).mono
    · exact (nvmeIssue_within _ _).after <| (inc_within _ _).after <| .refl _ _
    · exact (onNvs_within _ _).after <| (inc_within _ _).after <| .refl _ _
    · exact (nvmeIssue_within _ _).after <| (inc_within _ _).after <| .refl _ _
    · exact (sbDone_within _).after <| (inc_within _ _).after <| .refl _ _
    · exact (readBackDone_within _ _ _ _ _).mono
    · exact (nvmeFailed_within _).mono
    · exact Within.refl _ _

theorem nvmeRetry_within (m : Mach) : Within [.regs, .time, .tick, .enc, .jnl, .nvs, .cache, .out] m (nvmeRetry m) := by
  unfold nvmeRetry
  split
  · split
    · exact Within.refl _ _
    · extract_lets m1 m2
      split
      · exact (inc_within _ _).after <| (inc_within _ _).after <| (emit_within _ _).after <| (onNvs_within _ _).after <| (runToElapsed_within _ _).after <| .refl _ _
      · exact (inc_within _ _).after <| (inc_within _ _).after <| (emit_within _ _).after <| (onNvs_within _ _).after <| (runToElapsed_within _ _).after <| .refl _ _
      · exact (inc_within _ _).after <| (emit_within _ _).after <| (onNvs_within _ _).after <| (runToElapsed_within _ _).after <| .refl _ _
  · exact Within.refl _ _

theorem nvmeTimeout_within (m : Mach) : Within [.regs, .time, .tick, .enc, .jnl, .nvs, .cache] m (nvmeTimeout m) := by
  unfold nvmeTimeout
  split
  · exact Within.refl _ _
  · split
    · exact Within.refl _ _
    · exact (storeFault_within _ _).mono
    · exact (storeFault_within _ _).mono
    · exact (nvmeFailed_within _).after <| (runToElapsed_within _ _).after <| .refl _ _

theorem offAccess_within (off : ℕ) (m : Mach) : Within [.regs, .out] m (offAccess off m) := by
  unfold offAccess
  extract_lets m1
  have hm1 : Within [.regs, .out] m m1 := by
    unfold m1
    split
    · exact Within.refl _ _
    · exact (put_within _ _ _).mono
  exact (errEvent_within _ _).after <| (set1_within _ _).after <| hm1.mono

theorem offBlockAccess_within (off : ℕ) (write : Bool) (m : Mach) : Within [.regs, .out] m (offBlockAccess off write m) := by
  unfold offBlockAccess
  split
  · exact Within.refl _ _
  · split
    · extract_lets m1
      split
      · exact (offAccess_within _ _).mono
      · exact (emit_within _ _).after <| (offAccess_within _ _).after <| .refl _ _
    · exact Within.refl _ _

theorem offerRx_within (l : Fin 4) (m : Mach) : Within [.regs, .tick, .fus, .jnl, .link, .cache] m (offerRx l m) := by
  unfold offerRx
  split
  · rename_i x snd heq
    exact Within.refl _ _
  · rename_i x x1 m1 heq
    extract_lets cid
    split
    · exact (takeOffer_within _ _ _ _ _ _).after <| (Within.snd heq (takeMsg_within _ _ _)).after <| .refl _ _
    · exact Within.refl _ _

theorem ofsRead_within (l : Fin 4) (m : Mach) : Within [.regs, .out] m (ofsRead l m) := by
  unfold ofsRead
  split
  extract_lets v
  exact (emit_within _ _).after <| (wr_within _ _ _).after <| (wr_within _ _ _).after <| .refl _ _

theorem overLanes_loop {a m : Mach} {p : Fin 16} {receive : Mach → Mach} (h : ∀ t, Within everyPart t (receive t)) (hm : Within everyPart a m) :
    Within everyPart a (overLanes p receive m) := by
  unfold overLanes
  extract_lets m1
  have hm1 : Within everyPart a m1 := by
    unfold m1
    split
    · exact (stir_within _ _ _).after hm
    · exact hm
  split
  · exact hm1.trans (h m1)
  · exact hm1

theorem overrun_within (a : TickAcct) (m : Mach) : Within [.regs, .time, .tick, .fe, .eng, .tleq, .tle, .heldDesc, .pops, .spikes, .fus, .jnl, .led, .sleep, .fn, .link, .cache, .draws, .out] m (overrun a m) := by
  unfold overrun
  extract_lets left m1 m2 m3
  have hm2 : Within [.regs, .time, .tick, .fe, .eng, .tleq, .tle, .heldDesc, .pops, .spikes, .fus, .jnl, .led, .sleep, .fn, .link, .cache, .draws, .out] m m2 := by
    unfold m2
    split
    · exact (dropClasses_within _ _).mono
    · exact (fuseLate_within _ _).after <| (dropClasses_within _ _).after <| .refl _ _
  split
  · refine (onAcct_within _ _ _).after <| ?_
    exact Within.loop (fun x t => (addBad_within _ _ _ _).mono) ((dropPhases_within _ _).after <| hm2.mono)
  · exact (dropPhases_within _ _).after <| hm2.mono

theorem packetTimeout_within (p : Fin 16) (m : Mach) : Within [.regs, .time, .tick, .port, .enc, .jnl, .cache] m (packetTimeout p m) := by
  unfold packetTimeout
  split
  · exact Within.refl _ _
  · extract_lets m1
    split
    · exact (onPort_within _ _ _).after <| (inc_within _ _).after <| (runToElapsed_within _ _).after <| .refl _ _
    · refine (commitRx_within _ _ _).after <| ?_
      split
      · exact (inc_within _ _).after <| (runToElapsed_within _ _).after <| .refl _ _
      · exact (inc_within _ _).after <| (inc_within _ _).after <| (runToElapsed_within _ _).after <| .refl _ _

theorem patchCut_within (p : Fin 16) (m : Mach) : Within [.regs, .time, .tick, .fe, .eng, .heldDesc, .patchNext, .enc, .jnl, .led, .dram, .cache, .ueLines] m (patchCut p m) := by
  unfold patchCut
  split
  · exact Within.refl _ _
  · split
    · exact Within.refl _ _
    · extract_lets tEnd m1 d i addr m2 m3
      have hm3 : Within [.regs, .time, .tick, .fe, .eng, .heldDesc, .patchNext, .enc, .jnl, .led, .dram, .cache, .ueLines] m m3 := by
        unfold m3
        have hm2 : Within [.regs, .time, .tick, .fe, .eng, .heldDesc, .patchNext, .enc, .jnl, .led, .dram, .cache, .ueLines] m m2 := by
          exact (dramPut_within _ _ _).after <| (dueSweep_within _ _).after <| (runTo_within _ _).after <| .refl _ _
        clear_value m2
        refine Within.after (b := m2) (Within.of_onlyIn (l := [.patchNext]) fun p hp => by cases p <;> first | exact absurd (by decide) hp | rfl) ?_
        exact hm2.mono
      exact (issueWaiting_within _ _ _ _).after <| (inc_within _ _).after <| (onCurd_within _ _ _ _ _).after <| hm3.mono

theorem pinReset_within (perst : Bool) (m : Mach) : Within everyPart m (pinReset perst m) := by
  unfold pinReset
  extract_lets code
  split
  · exact Within.refl _ _
  · split
    · exact (warmReset_within _ _ _).mono
    · exact (onSleep_within _ _).after <| (warmReset_within _ _ _).after <| (recordWake_within _ _ _).after <| .refl _ _

theorem pkgResetCmd_within (h : CmdHdr) (m : Mach) : Within [.regs, .jnl, .sleep, .fn, .rst, .out] m (pkgResetCmd h m) := by
  unfold pkgResetCmd
  refine command_loop (fun c t => ?_) (fun c t u => ?_) ?_
  · dsimp only
    exact (onRst_within _ _).mono
  · exact Within.refl _ _
  · exact Within.refl _ _

theorem popStep_within (tn i : Nat) (p : Pop) (m : Mach) : Within [.regs, .eng, .pops] m (popStep tn i p m).2 := by
  unfold popStep
  split
  · split
    · exact Within.refl _ _
    · rename_i h
      have hm := askMark_within h
      split
      · exact (startPop_within _ _ _ _ _ _).after hm.mono
      · exact (onPop_within _ _ _).after hm.mono
  · exact Within.refl _ _

theorem touchOne_within (e : Fin 72) (im : Image) (r : PopRec) (p : Pop) (tn : ℕ) (i : ℕ) (n : ℕ) (edge : Bool) (forced : Bool) (input : Option ℤ) (m : Mach) : Within [.eng, .pops, .draws] m (touchOne e im r p tn i n edge forced input m).2 := by
  unfold touchOne
  split
  · exact Within.refl _ _
  · extract_lets x d
    split
    extract_lets x1 m1
    have hm1 : Within [.eng, .pops, .draws] m m1 := by
      unfold m1
      have hx1 : Within [.eng, .pops, .draws] m x1 := by
        exact (putNeuron_within _ _ _ _ _).mono
      clear_value x1
      refine Within.after (b := x1) (Within.of_onlyIn (l := [.draws]) fun p hp => by cases p <;> first | exact absurd (by decide) hp | rfl) ?_
      exact hx1.mono
    exact (onPop_within _ _ _).after <| hm1.mono

theorem popTouches_within (tn : ℕ) (i : ℕ) (p : Pop) (stepped : Bool) (m : Mach) : Within [.regs, .eng, .pops, .led, .draws] m (popTouches tn i p stepped m).2 := by
  unfold popTouches
  split
  · extract_lets isDue due edge ins clocks
    split
    extract_lets ns m1 m2
    have hm2 : Within [.regs, .eng, .pops, .led, .draws] m m2 := by
      unfold m2
      refine (popWork_within _ _ _ _ _).after <| (addTo_within _ _ _).after <| ?_
      have hm1 : Within [.regs, .eng, .pops, .led, .draws] m m1 := by
        exact (onPop_within _ _ _).after <| (onEng_within).after <| .refl _ _
      clear_value m1
      refine Within.after (b := m1) (Within.of_onlyIn (l := [.draws]) fun p hp => by cases p <;> first | exact absurd (by decide) hp | rfl) ?_
      exact hm1.mono
    split
    rename_i x flag m3 heq
    extract_lets m4 at_
    have hm4 : Within [.regs, .eng, .pops, .led, .draws] m m4 := by
      unfold m4
      split
      · split
        · exact (onPop_within _ _ _).after <| (Within.snd heq (flaggedAt_within _ _ _)).after <| hm2.mono
        · exact (Within.snd heq (flaggedAt_within _ _ _)).after <| hm2.mono
      · exact (Within.snd heq (flaggedAt_within _ _ _)).after <| hm2.mono
    split
    rename_i x1 sp m5 heq1
    refine (popWork_within _ _ _ _ _).after <| ?_
    have hm5 : Within [.regs, .eng, .pops, .led, .draws] m m5 := by
      refine Within.snd heq1 ?_
      refine Within.foldl_snd (fun s x2 => ?_) ?_
      · extract_lets mine inp
        split
        rename_i x3 fst m11 heq2
        exact (Within.snd heq2 (touchOne_within _ _ _ _ _ _ _ _ _ _ _)).mono
      · exact hm4.mono
    exact hm5.mono
  · exact Within.refl _ _

theorem popSpikes_within (tn : ℕ) (p : Pop) (spikes : List ℕ) (m : Mach) : Within [.regs, .tick, .eng, .pops, .spikes, .jnl, .led, .fn, .cache, .draws] m (popSpikes tn p spikes m) := by
  unfold popSpikes
  split
  · exact Within.refl _ _
  · split
    · extract_lets epoch m1
      have hm1 : Within [.regs, .tick, .eng, .pops, .spikes, .jnl, .led, .fn, .cache, .draws] m m1 := by
        unfold m1
        exact Within.loop (fun x t => (expandList_within _ _ _ _ _ _ _ _ _).mono) (Within.refl _ _)
      exact (expandTiles_within _ _ _ _ _ _ _ _).after <| hm1.mono
    · exact Within.refl _ _

theorem runPhase_within (f : Fin 8) (tn : ℕ) (i : ℕ) (m : Mach) : Within [.regs, .tick, .eng, .pops, .spikes, .jnl, .led, .fn, .cache, .draws] m (runPhase f tn i m) := by
  unfold runPhase
  extract_lets ps
  split
  rename_i x st m1 heq
  split
  rename_i x1 sp m2 heq1
  refine Within.loop (fun x2 t => ?_) ?_
  · exact (popSpikes_within _ _ _ _).mono
  · have hm2 : Within [.regs, .tick, .eng, .pops, .spikes, .jnl, .led, .fn, .cache, .draws] m m2 := by
      refine Within.snd heq1 ?_
      refine Within.foldl_snd (fun s x2 => ?_) ?_
      · split
        rename_i x3 sp1 m5 heq2
        exact (Within.snd heq2 (popTouches_within _ _ _ _ _)).mono
      · have hm1 : Within [.regs, .tick, .eng, .pops, .spikes, .jnl, .led, .fn, .cache, .draws] m m1 := by
          refine Within.snd heq ?_
          refine Within.foldl_snd (fun s x2 => ?_) ?_
          · split
            · split
              rename_i x3 fst m11 heq2
              exact (Within.snd heq2 (popStep_within _ _ _ _)).mono
            · split
              · exact (lostPhase_within _ _ _ _).mono
              · exact Within.refl _ _
          · exact Within.refl _ _
        exact hm1.mono
    exact hm2.mono

theorem popPhase_within (f : Fin 8) (m : Mach) : Within [.regs, .tick, .eng, .pops, .spikes, .jnl, .led, .fn, .cache, .draws] m (popPhase f m) := by
  unfold popPhase
  split
  · exact Within.refl _ _
  · extract_lets m0 m1
    split
    · exact Within.refl _ _
    · split
      · exact (abandonPop_within _ _ _ _).after <| (runPhase_within _ _ _ _).after <| (settleFn_within _ _ _).after <| .refl _ _
      · split
        · exact (endPopTick_within _ _ _).after <| (runPhase_within _ _ _ _).after <| (settleFn_within _ _ _).after <| .refl _ _
        · exact (onFn_within _ _ _).after <| (runPhase_within _ _ _ _).after <| (settleFn_within _ _ _).after <| .refl _ _

theorem portDisableCmd_within (h : CmdHdr) (p : Fin 16) (m : Mach) : Within [.regs, .port, .jnl, .sleep, .fn, .out] m (portDisableCmd h p m) := by
  unfold portDisableCmd
  exact command_loop (fun c t => (disablePort_within _ _).mono) (fun c t u => Within.refl _ _) (Within.refl _ _)

theorem portEnableCmd_within (h : CmdHdr) (p : Fin 16) (m : Mach) : Within [.regs, .port, .fe, .jnl, .sleep, .fn, .out] m (portEnableCmd h p m) := by
  unfold portEnableCmd
  refine command_loop (fun c t => ?_) (fun c t u => ?_) ?_
  · split
    · exact Within.refl _ _
    · exact (enablePort_within _ _).mono
  · exact Within.refl _ _
  · exact Within.refl _ _

theorem portFlushCmd_within (h : CmdHdr) (p : Fin 16) (m : Mach) : Within [.regs, .port, .jnl, .sleep, .fn, .out] m (portFlushCmd h p m) := by
  unfold portFlushCmd
  exact command_loop (fun c t => (onPort_within _ _ _).mono) (fun c t u => Within.refl _ _) (Within.refl _ _)

theorem portSci_within (h : CmdHdr) (p : Fin 16) (addr : ℕ) (rlen : ℕ) (data : List Byte) (m : Mach) : Within [.regs, .port, .jnl, .sleep, .fn, .mgt, .mgtSci, .draws, .out] m (portSci h p addr rlen data m) := by
  unfold portSci
  exact command_loop (fun c t => (sciPut_within _ _ _).mono) (fun c t u => (sciStart_within _ _ _ _ _ _).mono) (Within.refl _ _)

theorem portStop_within (p : Fin 16) (m : Mach) : Within [.regs, .port] m (portStop p m) := by
  unfold portStop
  extract_lets x
  split
  · exact (stopPort_within _ _).mono
  · exact Within.refl _ _

theorem portWrites_within (h : CmdHdr) (p : Fin 16) (count : Nat) (pairs : List (Nat × Word)) (m : Mach) :
    Within [.chip, .regs, .time, .tick, .port, .fe, .eng, .tleq, .tle, .heldDesc, .pops, .spikes, .enc, .imu, .fus, .jnl, .nvs, .led, .lvl, .sleep, .fn, .own, .mgt, .mgtSci, .net, .link, .rst, .cache, .draws, .out] m (portWrites h p count pairs m) := by
  unfold portWrites
  refine command_loop (fun c t => ?_) (fun c t u => Within.refl _ _) (Within.refl _ _)
  dsimp only
  split
  · rename_i hok
    exact (applyPairs_within hok).mono
  · exact Within.refl _ _

theorem powerFail_within (m : Mach) : Within [.regs, .time, .tick, .fe, .eng, .tleq, .tle, .heldDesc, .jnl, .led, .lvl, .fn, .cache, .draws] m (powerFail m) := by
  unfold powerFail
  split
  · exact Within.refl _ _
  · split
    · exact (onJnl_within _ _).mono
    · extract_lets m1 m2
      have hm2 : Within [.regs, .time, .tick, .fe, .eng, .tleq, .tle, .heldDesc, .jnl, .led, .lvl, .fn, .cache, .draws] m m2 := by
        unfold m2
        exact Within.loop (fun x t => (emergency_within _ _ _ _).mono) ((actionsLow_within _).after <| (onJnl_within _ _).after <| .refl _ _)
      exact (inc_within _ _).after <| (onTick_within _ _).after <| hm2.mono

theorem powerOn_within (m : Mach) : Within everyPart m m.powerOn := by
  refine (put_within _ _ _).after (?_ : Within everyPart m _)
  exact
    ⟨fun p hp => by cases p <;> simp [everyPart] at hp,
      fun _ => ⟨rfl, rfl, (by decide +kernel : ∀ e : Fin 72, Mem.wf (({} : Mach).eng.get e).sram = true)⟩,
      fun _ => (by decide +kernel : ∀ d : Fin 4, (({} : Mach).lvl.get d).freq ≤ (({} : Mach).lvl.get d).volt)⟩

theorem ppsIn_within (m : Mach) : Within [.regs, .time, .tick, .jnl, .cache, .draws] m (ppsIn m) := by
  unfold ppsIn
  extract_lets se u
  split
  · exact (servoSample_within _ _ _).mono
  · exact Within.refl _ _

theorem ppsOut_within (m : Mach) : Within [.regs, .time, .tick, .enc, .jnl, .cache] m (ppsOut m) := by
  unfold ppsOut
  split
  · extract_lets d
    exact (ppsFire_within _ _).after <| (runTo_within _ _).after <| .refl _ _
  · exact Within.refl _ _

theorem ppsOutEnd_within (m : Mach) : Within [.regs, .time, .tick, .enc, .jnl, .cache] m (ppsOutEnd m) := by
  unfold ppsOutEnd
  split
  · exact (onTime_within _ _).after <| (runToElapsed_within _ _).after <| .refl _ _
  · exact Within.refl _ _

theorem prefetch_within (e : Fin 72) (sid : ℕ) (m : Mach) : Within [.regs, .tick, .fe, .eng, .tleq, .tle, .heldDesc, .jnl, .led, .cache] m (prefetch e sid m) := by
  unfold prefetch
  split
  · exact Within.refl _ _
  · split
    · split
      · split
        · exact (fetchElement_within _ _ _ _).mono
        · exact Within.refl _ _
      · exact Within.refl _ _
    · exact Within.refl _ _

theorem ptpFailover_within (m : Mach) : Within [.regs, .tick, .jnl, .net, .cache] m (ptpFailover m) := by
  unfold ptpFailover
  extract_lets m1
  split
  · exact (health_within _ _ _ _).after <| (inc_within _ _).after <| (onNet_within _ _).after <| (onNet_within _ _).after <| .refl _ _
  · exact (onNet_within _ _).mono

theorem ptpQueue_within (p : Fin 2) (fr : PtpFrame) (m : Mach) : Within [.regs, .net] m (ptpQueue p fr m) := by
  unfold ptpQueue
  split
  · exact (set1_within _ _).after <| (inc_within _ _).after <| .refl _ _
  · extract_lets ev e
    exact (inc_within _ _).after <| (onNet_within _ _).after <| .refl _ _

theorem ptpFrameRx_within (p : Fin 2) (fr : PtpFrame) (m : Mach) : Within [.regs, .time, .tick, .jnl, .net, .cache, .draws, .out] m (ptpFrameRx p fr m) := by
  unfold ptpFrameRx
  split
  · exact Within.refl _ _
  · extract_lets t full m1
    split
    · exact (clockTakes_within _ _ _ _).after <| (ptpQueue_within _ _ _).after <| (ethArrived_within _ _ _).after <| .refl _ _
    · exact (ptpQueue_within _ _ _).after <| (ethArrived_within _ _ _).after <| .refl _ _

theorem ptpTsRead_within (m : Mach) : Within [.regs, .out] m (ptpTsRead m) := by
  unfold ptpTsRead
  extract_lets v
  exact (emit_within _ _).after <| (wr_within _ _ _).after <| .refl _ _

theorem ptpTxDone_within (m : Mach) : Within [.regs, .net, .out] m (ptpTxDone m) := by
  unfold ptpTxDone
  split
  · exact Within.refl _ _
  · extract_lets p len b m1 stamp
    split
    · exact (put_within _ _ _).after <| (onNet_within _ _).after <| (set1_within _ _).after <| (clr_within _ _).after <| .refl _ _
    · split
      · exact (put_within _ _ _).after <| (onNet_within _ _).after <| (set1_within _ _).after <| (clr_within _ _).after <| .refl _ _
      · split
        · exact (put_within _ _ _).after <| (onNet_within _ _).after <| (set1_within _ _).after <| (clr_within _ _).after <| .refl _ _
        · extract_lets out m2
          split
          · exact (inc_within _ _).after <| (ethSend_within _ _ _).after <| (put_within _ _ _).after <| (onNet_within _ _).after <| (set1_within _ _).after <| (clr_within _ _).after <| .refl _ _
          · exact (onNet_within _ _).after <| (inc_within _ _).after <| (ethSend_within _ _ _).after <| (put_within _ _ _).after <| (onNet_within _ _).after <| (set1_within _ _).after <| (clr_within _ _).after <| .refl _ _

theorem pwrFailReturn_within (m : Mach) : Within [.jnl] m (pwrFailReturn m) := by
  unfold pwrFailReturn
  exact (onJnl_within _ _).mono

theorem queryCmd_within (h : CmdHdr) (item : ℕ) (arg : ℕ) (dst : ℕ) (len : ℕ) (m : Mach) : Within [.regs, .jnl, .sleep, .fn, .draws, .out] m (queryCmd h item arg dst len m) := by
  unfold queryCmd
  refine command_loop (fun c t => ?_) (fun c t u => ?_) ?_
  · split
    · extract_lets c1
      exact (emit_within _ _).mono
    · split
      rename_i x v m1 heq
      exact (emit_within _ _).after <| (Within.snd heq (drawNat_within _)).after <| .refl _ _
  · split
    · extract_lets c1
      exact Within.refl _ _
    · split
      rename_i x v m1 heq
      exact Within.refl _ _
  · exact Within.refl _ _

theorem ratio_within (a : ℤ) (b : ℤ) (m : Mach) : Within [.draws] m (ratio a b m).2 := by
  unfold ratio
  split
  · exact (drawInt_within _).mono
  · exact Within.refl _ _

theorem reportFails_within (compute : Bool) (d : Fin 4) (old : DiePlan) (m : Mach) : Within [.regs, .tick, .jnl, .cache] m (reportFails compute d old m) := by
  unfold reportFails
  extract_lets new m1 m2 e tl m3 other
  have hm1 : Within [.regs, .tick, .jnl, .cache] m m1 := by
    unfold m1
    exact Within.loop (fun x t => (health_within _ _ _ _).mono) (Within.refl _ _)
  have hm2 : Within [.regs, .tick, .jnl, .cache] m m2 := by
    unfold m2
    exact Within.loop (fun x t => (health_within _ _ _ _).mono) (hm1.mono)
  have hm3 : Within [.regs, .tick, .jnl, .cache] m m3 := by
    unfold m3
    exact Within.loop (fun x t => (health_within _ _ _ _).mono) (hm2.mono)
  split
  · exact Within.refl _ _
  · split
    · exact hm2.mono
    · exact Within.loop (fun x t => (health_within _ _ _ _).mono) (hm3.mono)

theorem reportRoles_within (old : Vector DiePlan 4) (m : Mach) : Within [.regs, .tick, .jnl, .cache] m (reportRoles old m) := by
  unfold reportRoles
  exact Within.loop (fun x t => Within.loop (fun x1 t1 => (health_within _ _ _ _).mono) (Within.refl _ _)) (Within.refl _ _)

theorem readyCompute_within (b : BootInfo) (m : Mach) : Within [.regs, .time, .tick, .port, .fe, .eng, .jnl, .lvl, .rst, .cache, .draws, .out] m (readyCompute b m) := by
  unfold readyCompute
  split
  · exact Within.refl _ _
  · extract_lets old m1 m2 m3 m4
    have hm4 : Within [.regs, .time, .tick, .port, .fe, .eng, .jnl, .lvl, .rst, .cache, .draws, .out] m m4 := by
      unfold m4
      exact Within.loop (fun x t => (reportFails_within _ _ _ _).mono) ((declareReady_within _ _ _).after <| (loseCopies_within _).after <| (loadBound_within _).after <| (restartPorts_within _).after <| (onRst_within _ _).after <| .refl _ _)
    exact (releasePads_within _ _).after <| (reportRoles_within _ _).after <| hm4.mono

theorem restoreJournal_within (bad : List ℕ) (m : Mach) : Within [.regs, .tick, .jnl, .cache] m (restoreJournal bad m) := by
  unfold restoreJournal
  extract_lets log recs top
  split
  · extract_lets m1
    split
    · extract_lets pos back m2 m3
      have hm3 : Within [.regs, .tick, .jnl, .cache] m m3 := by
        unfold m3
        exact Within.loop (fun x t => (missAction_within _ _ _).mono) ((onJnl_within _ _).after <| (onJnl_within _ _).after <| .refl _ _)
      exact (health_within _ _ _ _).after <| hm3.mono
    · exact (health_within _ _ _ _).after <| (syncDelivery_within _).after <| (onJnl_within _ _).after <| (onJnl_within _ _).after <| .refl _ _
  · exact (newEpoch_within _).mono

theorem setFixedLoad_within (m : Mach) : Within [.regs, .draws] m (setFixedLoad m) := by
  unfold setFixedLoad
  split
  rename_i x v m1 heq
  exact (put_within _ _ _).after <| (Within.snd heq (drawNat_within _)).after <| .refl _ _

theorem readyBringUp_within (b : BootInfo) (m : Mach) : Within [.regs, .time, .tick, .jnl, .lvl, .rst, .cache, .draws, .out] m (readyBringUp b m) := by
  unfold readyBringUp
  split
  · exact Within.refl _ _
  · extract_lets old m1 m2 m3 m4 m5 m6 m7
    have hm2 : Within [.regs, .time, .tick, .jnl, .lvl, .rst, .cache, .draws, .out] m m2 := by
      unfold m2
      split
      · exact (restoreJournal_within _ _).after <| (onRst_within _ _).after <| .refl _ _
      · exact (onRst_within _ _).mono
    have hm5 : Within [.regs, .time, .tick, .jnl, .lvl, .rst, .cache, .draws, .out] m m5 := by
      unfold m5
      exact Within.loop (fun x t => (reportFails_within _ _ _ _).mono) ((declareReady_within _ _ _).after <| (setFixedLoad_within _).after <| (loseCopies_within _).after <| hm2.mono)
    have hm6 : Within [.regs, .time, .tick, .jnl, .lvl, .rst, .cache, .draws, .out] m m6 := by
      unfold m6
      split
      · exact (health_within _ _ _ _).after <| hm5.mono
      · exact hm5.mono
    exact (onRst_within _ _).after <| (judgeHeld_within _ _).after <| (releasePads_within _ _).after <| hm6.mono

theorem readyAny_within (b : BootInfo) (m : Mach) : Within [.regs, .time, .tick, .port, .fe, .eng, .jnl, .lvl, .rst, .cache, .draws, .out] m (readyAny b m) := by
  unfold readyAny
  split
  · exact (readyCompute_within _ _).mono
  · exact (readyBringUp_within _ _).mono

theorem recoverExpired_within (m : Mach) : Within everyPart m (recoverExpired m) := by
  unfold recoverExpired
  split
  · exact (warmReset_within _ _ _).after <| (runToElapsed_within _ _).after <| .refl _ _
  · exact Within.refl _ _

theorem refreshHops_within (m : Mach) : Within [.regs, .time, .tick, .enc, .jnl, .net, .cache, .out] m (refreshHops m) := by
  unfold refreshHops
  extract_lets m1
  exact Within.loop (fun x t => (askHops_within _ _).mono) ((onNet_within _ _).after <| (runToElapsed_within _ _).after <| .refl _ _)

theorem unmapped_within (f : Fin 8) (off : ℕ) (m : Mach) : Within [.regs, .out] m (unmapped f off m) := by
  unfold unmapped
  extract_lets m1 m2
  have hm2 : Within [.regs, .out] m m2 := by
    unfold m2
    split
    · exact (errEvent_within _ _).after <| (set1_within _ _).after <| .refl _ _
    · exact (put_within _ _ _).after <| (errEvent_within _ _).after <| (set1_within _ _).after <| .refl _ _
  split
  · exact (set1_within _ _).after <| hm2.mono
  · exact (errEvent_within _ _).after <| (set1_within _ _).after <| .refl _ _

theorem registerWrite_within (f : Fin 8) (off : ℕ) (val : Word) (be : BitVec 4) (m : Mach) : Within [.chip, .regs, .time, .tick, .port, .fe, .eng, .tleq, .tle, .heldDesc, .pops, .spikes, .enc, .imu, .fus, .jnl, .nvs, .led, .lvl, .sleep, .fn, .own, .mgt, .mgtSci, .net, .link, .rst, .cache, .draws, .out] m (registerWrite f off val be m) := by
  unfold registerWrite
  split
  · exact Within.refl _ _
  · split
    · split
      · exact Within.refl _ _
      · exact (unmapped_within _ _ _).mono
    · split
      · exact Within.refl _ _
      · split
        · exact (offAccess_within _ _).mono
        · exact (writeIn_within _ _).mono

theorem reinitRetry_within (m : Mach) : Within [.regs, .time, .tick, .enc, .jnl, .nvs, .cache, .out] m (reinitRetry m) := by
  unfold reinitRetry
  split
  · exact (storeInit_within _).after <| (runToElapsed_within _ _).after <| .refl _ _
  · exact Within.refl _ _

theorem repeatOffers_within (m : Mach) : Within [.regs, .fus, .link] m (repeatOffers m) := by
  unfold repeatOffers
  refine Within.loop (fun x t => ?_) ?_
  · split
    · extract_lets l
      split
      · exact (sendOffer_within _ _ _ _ _ _).mono
      · exact Within.refl _ _
    · exact Within.refl _ _
  · exact Within.refl _ _

theorem replayTmo_within (l : Fin 4) (m : Mach) : Within [.regs, .time, .tick, .enc, .fus, .jnl, .link, .cache, .out] m (replayTmo l m) := by
  unfold replayTmo
  extract_lets x
  split
  · exact (replayOrRetrain_within _ _).after <| (runToElapsed_within _ _).after <| .refl _ _
  · exact Within.refl _ _

theorem replyRx_within (l : Fin 4) (m : Mach) : Within [.regs, .tick, .fus, .jnl, .link, .cache] m (replyRx l m) := by
  unfold replyRx
  split
  · rename_i x snd heq
    exact Within.refl _ _
  · rename_i x x1 m1 heq
    extract_lets early
    split
    · exact Within.refl _ _
    · exact (takeReply_within _ _ _ _).after <| (Within.snd heq (takeMsg_within _ _ _)).after <| .refl _ _

theorem resetOutRelease_within (m : Mach) : Within [.regs, .time, .tick, .enc, .jnl, .rst, .cache] m (resetOutRelease m) := by
  unfold resetOutRelease
  split
  · extract_lets ms
    exact (onRst_within _ _).after <| (runToElapsed_within _ _).after <| .refl _ _
  · exact Within.refl _ _

theorem resumeClass_within (f : Fin 8) (c : Fin 4) (found : SlotHdr) (m : Mach) : Within [.regs, .jnl, .fn] m (resumeClass f c found m) := by
  unfold resumeClass
  extract_lets r d m1 m2 m3
  split
  · split
    · exact (freeSlots_within _).after <| (inc_within _ _).after <| (advanceDelivery_within _ _ _ _ _).after <| (onRing_within _ _ _ _).after <| (onJnl_within _ _).after <| (onFn_within _ _ _).after <| .refl _ _
    · exact (onFn_within _ _ _).mono
  · exact (onDelivery_within _ _ _ _).after <| (onRing_within _ _ _ _).after <| (onFn_within _ _ _).after <| .refl _ _

theorem roleLoadDone_within (e : Fin 72) (m : Mach) : Within [.regs, .eng, .jnl, .fn, .cache, .out] m (roleLoadDone e m) := by
  unfold roleLoadDone
  split
  · exact (mapsDone_within _).after <| (endLoad_within _ _).after <| .refl _ _
  · exact Within.refl _ _

theorem rptDiscardCmd_within (h : CmdHdr) (mask : ℕ) (m : Mach) : Within [.regs, .jnl, .sleep, .fn, .out] m (rptDiscardCmd h mask m) := by
  unfold rptDiscardCmd
  refine command_loop (fun c t => ?_) (fun c t u => ?_) ?_
  · extract_lets cs mine n t1 t2
    have ht2 : Within [.regs, .jnl, .sleep, .fn, .out] t t2 := by
      unfold t2
      exact Within.loop (fun x t3 => (onDelivery_within _ _ _ _).mono) ((onJnl_within _ _).mono)
    exact (freeSlots_within _).after <| (onFn_within _ _ _).after <| ht2.mono
  · extract_lets cs mine n t1 t2
    exact Within.refl _ _
  · exact Within.refl _ _

theorem rptResumeCmd_within (h : CmdHdr) (mask : ℕ) (slots : List SlotHdr) (m : Mach) : Within [.regs, .jnl, .sleep, .fn, .out] m (rptResumeCmd h mask slots m) := by
  unfold rptResumeCmd
  refine command_loop (fun c t => ?_) (fun c t u => ?_) ?_
  · refine Within.loop (fun x t1 => ?_) ?_
    · split
      · exact (resumeClass_within _ _ _ _).mono
      · exact Within.refl _ _
    · exact Within.refl _ _
  · exact Within.refl _ _
  · exact Within.refl _ _

theorem rrtAck_within (d : Fin 8) (a : RrtAckPkt) (m : Mach) : Within [.regs, .tick, .jnl, .net, .cache] m (rrtAck d a m) := by
  unfold rrtAck
  split
  · exact Within.refl _ _
  · extract_lets m1 s m2 m3
    have hm3 : Within [.regs, .tick, .jnl, .net, .cache] m m3 := by
      unfold m3
      split
      · exact (onDest_within _ _ _).after <| (inc_within _ _).after <| (ethArrived_within _ _ _).after <| .refl _ _
      · exact (inc_within _ _).after <| (ethArrived_within _ _ _).after <| .refl _ _
    split
    · exact (ethArrived_within _ _ _).mono
    · split
      · exact (authFail_within _ _).after <| (ethArrived_within _ _ _).after <| .refl _ _
      · split
        · exact (inc_within _ _).after <| hm3.mono
        · split
          · exact (ackAdvance_within _ _ _ _).after <| hm3.mono
          · exact hm3.mono

theorem sendData_within (d : Fin 8) (s : Fin 32) (p : Fin 2) (first : ℕ) (last : ℕ) (resend : Bool) (m : Mach) : Within [.regs, .net, .cache, .draws, .out] m (sendData d s p first last resend m) := by
  unfold sendData
  extract_lets n m1 m2 m3
  have hm2 : Within [.regs, .net, .cache, .draws, .out] m m2 := by
    unfold m2
    split
    · exact (inc_within _ _).after <| (inc_within _ _).after <| (addTo_within _ _ _).after <| (inc_within _ _).after <| (onDest_within _ _ _).after <| .refl _ _
    · exact (inc_within _ _).after <| (addTo_within _ _ _).after <| (inc_within _ _).after <| (onDest_within _ _ _).after <| .refl _ _
  have hm3 : Within [.regs, .net, .cache, .draws, .out] m m3 := by
    unfold m3
    exact Within.loop (fun x t => (readSlot_within _ _).mono) (hm2.mono)
  exact (emit_within _ _).after <| hm3.mono

theorem rrtProbe_within (d : Fin 8) (m : Mach) : Within [.regs, .time, .tick, .enc, .jnl, .net, .cache, .draws, .out] m (rrtProbe d m) := by
  unfold rrtProbe
  extract_lets x m0 m1 p
  split
  · exact Within.refl _ _
  · split
    · exact (onDest_within _ _ _).after <| (runToElapsed_within _ _).after <| .refl _ _
    · split
      · exact (sendData_within _ _ _ _ _ _ _).after <| (onDest_within _ _ _).after <| (runToElapsed_within _ _).after <| .refl _ _
      · split
        · exact (countSent_within _ _ _ _ _).after <| (sendData_within _ _ _ _ _ _ _).after <| (setFlight_within _ _ _ _).after <| (onDest_within _ _ _).after <| (runToElapsed_within _ _).after <| .refl _ _
        · exact (onDest_within _ _ _).after <| (runToElapsed_within _ _).after <| .refl _ _

theorem rrtResend_within (d : Fin 8) (s : Fin 32) (m : Mach) : Within [.regs, .time, .tick, .enc, .jnl, .nvs, .net, .cache, .draws, .out] m (rrtResend d s m) := by
  unfold rrtResend
  split
  · exact Within.refl _ _
  · split
    · exact Within.refl _ _
    · split
      · split
        · exact (nvmeIssue_within _ _).mono
        · exact Within.refl _ _
      · extract_lets m1 l base
        split
        · exact (runToElapsed_within _ _).mono
        · extract_lets m2 m3 m4
          have hm2 : Within [.regs, .time, .tick, .enc, .jnl, .nvs, .net, .cache, .draws, .out] m m2 := by
            unfold m2
            exact Within.loop (fun x t => (sendData_within _ _ _ _ _ _ _).mono) ((runToElapsed_within _ _).mono)
          split
          · split
            · exact (onDest_within _ _ _).after <| (setFlight_within _ _ _ _).after <| hm2.mono
            · exact (destFallback_within _ _).after <| (destDown_within _ _).after <| (onDest_within _ _ _).after <| (setFlight_within _ _ _ _).after <| hm2.mono
          · exact (onDest_within _ _ _).after <| (setFlight_within _ _ _ _).after <| hm2.mono

theorem rrtSend_within (d : Fin 8) (s : Fin 32) (m : Mach) : Within [.regs, .tick, .nvs, .net, .cache, .draws, .out] m (rrtSend d s m) := by
  unfold rrtSend
  split
  · exact Within.refl _ _
  · split
    · split
      · exact Within.refl _ _
      · split
        · exact (nvmeIssue_within _ _).mono
        · split
          · exact Within.refl _ _
          · exact (countSent_within _ _ _ _ _).after <| (sendData_within _ _ _ _ _ _ _).after <| (setFlight_within _ _ _ _).after <| .refl _ _
    · exact Within.refl _ _

theorem rsnRead_within (f : Fin 8) (c : Fin 4) (m : Mach) : Within [.regs, .out] m (rsnRead f c m) := by
  unfold rsnRead
  extract_lets v m1
  exact (emit_within _ _).after <| (put64_within _ _ _ _).after <| .refl _ _

theorem ruleSet_within (h : CmdHdr) (first : ℕ) (count : ℕ) (rules : List Byte) (m : Mach) : Within [.regs, .tick, .jnl, .sleep, .fn, .out] m (ruleSet h first count rules m) := by
  unfold ruleSet
  extract_lets rs
  refine command_loop (fun c t => ?_) (fun c t u => ?_) ?_
  · extract_lets e
    exact (pend_within _ _).mono
  · extract_lets e
    exact Within.refl _ _
  · exact Within.refl _ _

theorem s2Entry_within (m : Mach) : Within [.tick, .sleep] m (s2Entry m) := by
  unfold s2Entry
  extract_lets idle
  split
  · exact (stopTicks_within _).mono
  · exact Within.refl _ _

theorem sleepLinks_within (m : Mach) : Within [.regs, .tick, .fus, .jnl, .net, .link, .cache, .out] m (sleepLinks m) := by
  unfold sleepLinks
  extract_lets m1
  have hm1 : Within [.regs, .tick, .fus, .jnl, .net, .link, .cache, .out] m m1 := by
    unfold m1
    split
    · exact Within.refl _ _
    · exact Within.loop (fun x t => (ethLink_within _ _ _).mono) (Within.refl _ _)
  split
  · exact hm1.mono
  · exact Within.loop (fun x t => (refuseCheck_within _ _).after <| (setLinkState_within _ _ _).after <| .refl _ _) (hm1.mono)

theorem s2PowerDown_within (m : Mach) : Within [.regs, .time, .tick, .port, .fe, .eng, .tleq, .tle, .heldDesc, .pops, .spikes, .enc, .fus, .jnl, .led, .lvl, .sleep, .fn, .net, .link, .cache, .out] m (s2PowerDown m) := by
  unfold s2PowerDown
  split
  · split
    · exact Within.refl _ _
    · split
      · exact (abandonEntry_within _).mono
      · extract_lets m1 m2
        have hm1 : Within [.regs, .time, .tick, .port, .fe, .eng, .tleq, .tle, .heldDesc, .pops, .spikes, .enc, .fus, .jnl, .led, .lvl, .sleep, .fn, .net, .link, .cache, .out] m m1 := by
          unfold m1
          split
          · exact Within.refl _ _
          · exact (runToElapsed_within _ _).mono
        exact (inc_within _ _).after <| (onSleep_within _ _).after <| (sleepLinks_within _).after <| (scDrop_within _ _).after <| (clearCompute_within _).after <| (flushVats_within _ _).after <| (abandonWork_within _).after <| hm1.mono
  · exact Within.refl _ _

theorem s3Entry_within (m : Mach) : Within [.regs, .time, .tick, .fe, .eng, .tleq, .tle, .heldDesc, .pops, .spikes, .enc, .jnl, .led, .lvl, .sleep, .fn, .rst, .cache, .out] m (s3Entry m) := by
  unfold s3Entry
  extract_lets idle m1 m2
  have hm1 : Within [.regs, .time, .tick, .fe, .eng, .tleq, .tle, .heldDesc, .pops, .spikes, .enc, .jnl, .led, .lvl, .sleep, .fn, .rst, .cache, .out] m m1 := by
    unfold m1
    split
    · split
      · exact (s3Ask_within _).after <| (runToElapsed_within _ _).after <| .refl _ _
      · exact Within.refl _ _
    · exact Within.refl _ _
  split
  · exact (inc_within _ _).after <| (onSleep_within _ _).after <| (onRst_within _ _).after <| (clearCompute_within _).after <| (abandonWork_within _).after <| (cancelPending_within _ _).after <| hm1.mono
  · exact hm1.mono

theorem sbIncomplete_within (m : Mach) : Within [.regs] m (sbIncomplete m) := by
  unfold sbIncomplete
  exact (inc_within _ _).after <| (set1_within _ _).after <| .refl _ _

theorem sbLast_within (code : ℕ) (m : Mach) : Within [.regs] m (sbLast code m) := by
  unfold sbLast
  exact (put_within _ _ _).mono

theorem sbWrite_loop {l : List Part} {a m : Mach} {code : Nat} {pecOk stop : Bool} {f : Mach → Mach} (h : ∀ t, Within l t (f t))
    (hm : Within l a m) (hs : ∀ p ∈ [Part.regs, .rst], p ∈ l := by decide +kernel) : Within l a (sbWrite code pecOk stop f m) := by
  have sub : ∀ k : List Part, (∀ p ∈ k, p ∈ [Part.regs, .rst]) → ∀ p ∈ k, p ∈ l := fun k hk p hp => hs p (hk p hp)
  have last : Within l a (m.sbLast code) := (sbLast_within _ _).after hm (sub _ (by decide))
  unfold sbWrite
  extract_lets m1
  split
  · exact (sbIncomplete_within _).after last (sub _ (by decide))
  · split
    · exact (inc_within _ _).after ((set1_within _ _).after last (sub _ (by decide))) (sub _ (by decide))
    · exact last.trans (h m1)

theorem sbTaken_within (code : ℕ) (m : Mach) : Within [.regs] m (sbTaken code m) := by
  unfold sbTaken
  exact (inc_within _ _).after <| (sbLast_within _ _).after <| .refl _ _

theorem sbLoadData_within (bytes : List Byte) (pecOk : Bool) (stop : Bool) (m : Mach) : Within [.regs, .rst] m (sbLoadData bytes pecOk stop m) := by
  unfold sbLoadData
  refine sbWrite_loop (fun t => ?_) ?_
  · split
    · exact (onRst_within _ _).after <| (sbTaken_within _ _).after <| .refl _ _
    · exact (sbIncomplete_within _).mono
  · exact Within.refl _ _

theorem sbLoadEnd_within (pecOk : Bool) (stop : Bool) (ok : Bool) (m : Mach) : Within [.chip, .regs, .rst, .draws] m (sbLoadEnd pecOk stop ok m) := by
  unfold sbLoadEnd
  refine sbWrite_loop (fun t => ?_) ?_
  · split
    · exact (imageLoaded_within _ _).after <| (sbTaken_within _ _).after <| .refl _ _
    · exact (sbIncomplete_within _).mono
  · exact Within.refl _ _

theorem sbReset_within (key : ℕ) (pecOk : Bool) (stop : Bool) (m : Mach) : Within everyPart m (sbReset key pecOk stop m) := by
  unfold sbReset
  refine sbWrite_loop (fun t => ?_) ?_
  · split
    · exact (warmReset_within _ _ _).after <| (inc_within _ _).after <| (sbTaken_within _ _).after <| .refl _ _
    · exact (inc_within _ _).after <| (set1_within _ _).after <| .refl _ _
  · exact Within.refl _ _

theorem sbStatus_within (m : Mach) : Within [.regs, .out] m (sbStatus m) := by
  unfold sbStatus
  exact (emit_within _ _).after <| (sbTaken_within _ _).after <| .refl _ _

theorem sciTimeout_within (p : Fin 16) (m : Mach) : Within [.regs, .time, .tick, .port, .enc, .jnl, .fn, .mgt, .mgtSci, .cache, .draws, .out] m (sciTimeout p m) := by
  unfold sciTimeout
  split
  · exact (sciEnd_within _ _ _ _).after <| (emit_within _ _).after <| (runToElapsed_within _ _).after <| .refl _ _
  · exact Within.refl _ _

theorem servoStep_within (m : Mach) : Within [.regs, .time, .tick, .port, .fe, .eng, .tleq, .tle, .heldDesc, .pops, .spikes, .images, .enc, .fus, .jnl, .led, .lvl, .sleep, .fn, .link, .cache, .draws, .out] m (servoStep m) := by
  unfold servoStep
  split
  · exact Within.refl _ _
  · extract_lets m1 would taken
    split
    · exact (onServo_within _ _).after <| (onServo_within _ _).after <| .refl _ _
    · exact (applyStep_within _ _ _ _).after <| (onServo_within _ _).after <| .refl _ _

theorem setCap_within (h : CmdHdr) (cap : ℕ) (m : Mach) : Within [.regs, .jnl, .sleep, .fn, .out] m (setCap h cap m) := by
  unfold setCap
  exact command_loop (fun c t => (put_within _ _ _).mono) (fun c t u => Within.refl _ _) (Within.refl _ _)

theorem setLimit_within (h : CmdHdr) (mask : ℕ) (level : ℕ) (m : Mach) : Within [.regs, .jnl, .lvl, .sleep, .fn, .out] m (setLimit h mask level m) := by
  unfold setLimit
  exact command_loop (fun c t => Within.loop (fun x t1 => (onLvl_within).mono) (Within.refl _ _)) (fun c t u => Within.refl _ _) (Within.refl _ _)

theorem setQualityCmd_within (h : CmdHdr) (q : ℕ) (m : Mach) : Within [.regs, .tick, .jnl, .sleep, .fn, .out] m (setQualityCmd h q m) := by
  unfold setQualityCmd
  refine command_loop (fun c t => ?_) (fun c t u => ?_) ?_
  · extract_lets e
    exact (pend_within _ _).mono
  · extract_lets e
    exact Within.refl _ _
  · exact Within.refl _ _

theorem setTickChange_within (h : CmdHdr) (period : ℕ) (m : Mach) : Within [.regs, .tick, .jnl, .sleep, .fn, .out] m (setTickChange h period m) := by
  unfold setTickChange
  refine command_loop (fun c t => ?_) (fun c t u => ?_) ?_
  · extract_lets e
    exact (pend_within _ _).mono
  · extract_lets e
    exact Within.refl _ _
  · exact Within.refl _ _

theorem setTickLoad_within (h : CmdHdr) (period : ℕ) (origin : ℤ) (m : Mach) : Within [.regs, .tick, .jnl, .sleep, .fn, .out] m (setTickLoad h period origin m) := by
  unfold setTickLoad
  refine command_loop (fun c t => ?_) (fun c t u => ?_) ?_
  · extract_lets o
    exact (pend_within _ _).mono
  · extract_lets o
    exact Within.refl _ _
  · exact Within.refl _ _

theorem shortPacket_within (p : Fin 16) (h : Csi2Header) (m : Mach) : Within [.regs, .tick, .port, .jnl, .fn, .out] m (shortPacket p h m) := by
  unfold shortPacket
  extract_lets m1 x m_1 m1_1
  have hm1_1 : Within [.regs, .tick, .port, .jnl, .fn, .out] m m1_1 := by
    unfold m1_1
    split
    · exact (inc_within _ _).after <| (headerIn_within _ _).after <| (atBoundary_within _ _).after <| .refl _ _
    · exact (headerIn_within _ _).after <| (atBoundary_within _ _).after <| .refl _ _
  split
  · exact (atBoundary_within _ _).mono
  · split
    · exact (headerIn_within _ _).after <| (atBoundary_within _ _).after <| .refl _ _
    · split
      · exact (lostRaw_within _ _).after <| (inc_within _ _).after <| (headerIn_within _ _).after <| (atBoundary_within _ _).after <| .refl _ _
      · split
        · exact (inc_within _ _).after <| hm1_1.mono
        · split
          · exact (inc_within _ _).after <| hm1_1.mono
          · exact (inc_within _ _).after <| hm1_1.mono

theorem skippedTicks_within (f : Fin 8) (a : TickAcct) (m : Mach) : Within [.draws] m (skippedTicks f a m).2 := by
  unfold skippedTicks
  split
  · split
    · exact Within.refl _ _
    · exact (drawNat_within _).mono
  · exact (drawNat_within _).mono

theorem slewEnd_within (m : Mach) : Within [.regs, .time, .tick, .enc, .jnl, .cache] m (slewEnd m) := by
  unfold slewEnd
  split
  · exact Within.refl _ _
  · extract_lets m1
    exact (timeStatus_within _ _ _ _ _ _ _).after <| (onTime_within _ _).after <| (runToElapsed_within _ _).after <| .refl _ _

theorem snnOne_within (n : ℕ) (tv : ℤ) (p : Pop) (m : Mach) : Within [.regs, .time, .tick, .pops, .jnl, .sleep, .cache] m (snnOne n tv p m) := by
  unfold snnOne
  split
  · exact Within.refl _ _
  · extract_lets logs out more m1
    have hm1 : Within [.regs, .time, .tick, .pops, .jnl, .sleep, .cache] m m1 := by
      unfold m1
      refine Within.loop (fun x t => ?_) ?_
      · extract_lets b
        exact (writeStep3_within _ _ _ _ _ _ _).mono
      · exact Within.refl _ _
    exact (onPop_within _ _ _).after <| hm1.mono

theorem snnAll_within (n : ℕ) (tv : ℤ) (m : Mach) : Within [.regs, .time, .tick, .pops, .jnl, .sleep, .cache] m (snnAll n tv m) := by
  unfold snnAll
  exact Within.loop (fun x t => Within.loop (fun x1 t1 => (snnOne_within _ _ _ _).mono) (Within.refl _ _)) (Within.refl _ _)

theorem srvLastRead_within (m : Mach) : Within [.regs, .out] m (srvLastRead m) := by
  unfold srvLastRead
  extract_lets v m1
  exact (emit_within _ _).after <| (wr_within _ _ _).after <| (wr_within _ _ _).after <| .refl _ _

theorem stagedDue_within (s : Staged) (m : Mach) : Within [.regs, .time, .tick, .enc, .jnl, .cache] m (stagedDue s m).1 := by
  unfold stagedDue
  extract_lets m1
  have hm1 : Within [.regs, .time, .tick, .enc, .jnl, .cache] m m1 := by
    unfold m1
    split
    · exact (runIncs_within _ _).mono
    · exact Within.refl _ _
  exact hm1.mono

theorem stagedApply_within (m : Mach) : Within [.regs, .time, .tick, .port, .fe, .eng, .tleq, .tle, .heldDesc, .pops, .spikes, .images, .enc, .fus, .jnl, .led, .lvl, .sleep, .fn, .link, .cache, .draws, .out] m (stagedApply m) := by
  unfold stagedApply
  split
  · exact Within.refl _ _
  · split
    rename_i x m1 would heq
    extract_lets m2 count n drop m3 m3_1 m4
    have hm3_1 : Within [.regs, .time, .tick, .port, .fe, .eng, .tleq, .tle, .heldDesc, .pops, .spikes, .images, .enc, .fus, .jnl, .led, .lvl, .sleep, .fn, .link, .cache, .draws, .out] m m3_1 := by
      unfold m3_1
      split
      · exact (onServo_within _ _).after <| (onTime_within _ _).after <| (Within.fst heq (stagedDue_within _ _)).after <| .refl _ _
      · exact (onTime_within _ _).after <| (Within.fst heq (stagedDue_within _ _)).after <| .refl _ _
    split
    · exact (set1_within _ _).after <| (runIncs_within _ _).after <| (onTime_within _ _).after <| (Within.fst heq (stagedDue_within _ _)).after <| .refl _ _
    · split
      · exact (timeStatus_within _ _ _ _ _ _ _).after <| (inc_within _ _).after <| (set1_within _ _).after <| (runIncs_within _ _).after <| (onTime_within _ _).after <| (Within.fst heq (stagedDue_within _ _)).after <| .refl _ _
      · split
        · exact (onServo_within _ _).after <| (applyStep_within _ _ _ _).after <| hm3_1.mono
        · exact (applyStep_within _ _ _ _).after <| hm3_1.mono

theorem summaryFor_within (f : Fin 8) (a : TickAcct) (m : Mach) : Within [.regs, .tick, .jnl, .cache, .draws] m (summaryFor f a m) := by
  unfold summaryFor
  extract_lets rep
  split
  rename_i x v m1 heq
  split
  · rename_i x1 n m11 heq1
    exact (onTick_within _ _).after <| (Within.snd heq1 (write_within _ _ _ _)).after <| (Within.snd heq (skippedTicks_within _ _ _)).after <| .refl _ _
  · rename_i x1 m11 heq1
    exact (Within.snd heq1 (write_within _ _ _ _)).after <| (Within.snd heq (skippedTicks_within _ _ _)).after <| .refl _ _

theorem superblock_within (m : Mach) : Within [.regs, .time, .tick, .enc, .jnl, .nvs, .cache, .out] m (superblock m) := by
  unfold superblock
  split
  · refine (nvmeIssue_within _ _).after <| ?_
    split
    · exact Within.refl _ _
    · exact (runToElapsed_within _ _).mono
  · exact Within.refl _ _

theorem supplyFault_within (rail : ℕ) (m : Mach) : Within everyPart m (supplyFault rail m) := by
  unfold supplyFault
  split
  · exact (warmReset_within _ _ _).mono
  · exact Within.refl _ _

theorem syncEdge_within (p : Fin 16) (m : Mach) : Within [.regs, .time, .tick, .port, .enc, .jnl, .cache] m (syncEdge p m) := by
  unfold syncEdge
  split
  · extract_lets d
    exact (syncFire_within _ _ _).after <| (runTo_within _ _).after <| .refl _ _
  · exact Within.refl _ _

theorem syncPulseEnd_within (p : Fin 16) (m : Mach) : Within [.regs, .time, .tick, .port, .enc, .jnl, .cache] m (syncPulseEnd p m) := by
  unfold syncPulseEnd
  split
  · exact (onPort_within _ _ _).after <| (runToElapsed_within _ _).after <| .refl _ _
  · exact Within.refl _ _

theorem tLastRead_within (m : Mach) : Within [.regs, .out] m (tLastRead m) := by
  unfold tLastRead
  extract_lets m1
  exact (emit_within _ _).after <| (put64_within _ _ _ _).after <| .refl _ _

theorem tapConfigCmd_within (h : CmdHdr) (mask : ℕ) (shift : ℕ) (en : Bool) (m : Mach) : Within [.regs, .jnl, .sleep, .fn, .out] m (tapConfigCmd h mask shift en m) := by
  unfold tapConfigCmd
  exact command_loop (fun c t => (onFn_within _ _ _).mono) (fun c t u => Within.refl _ _) (Within.refl _ _)

theorem telemetry_within (g : Fin 6) (mw : Option ℕ) (m : Mach) : Within [.regs, .tick, .jnl, .led, .cache, .draws] m (telemetry g mw m) := by
  unfold telemetry
  split
  · exact Within.refl _ _
  · split
    · split
      rename_i x v m1 heq
      extract_lets old
      split
      rename_i x1 md t2 heq1
      split
      rename_i x2 v1 m11 heq2
      extract_lets s new
      exact (onLed_within _ _).after <| (put_within _ _ _).after <| (Within.snd heq2 (clampK_within _ _ _ _)).after <| (Within.snd heq1 (ratio_within _ _ _)).after <| (Within.snd heq (drawNat_within _)).after <| .refl _ _
    · extract_lets n m1
      split
      · exact (health_within _ _ _ _).after <| (set1_within _ _).after <| (onLed_within _ _).after <| (onLed_within _ _).after <| (inc_within _ _).after <| .refl _ _
      · exact (onLed_within _ _).after <| (inc_within _ _).after <| .refl _ _

theorem throttleDie_within (d : Fin 4) (m : Mach) : Within [.regs, .tick, .fe, .eng, .tleq, .tle, .heldDesc, .jnl, .led, .lvl, .fn, .cache, .draws] m (throttleDie d m) := by
  unfold throttleDie
  extract_lets f m1 m2
  split
  · exact (onLvl_within).mono
  · exact (health_within _ _ _ _).after <| (inc_within _ _).after <| (onLvl_within).after <| (emergency_within _ _ _ _).after <| .refl _ _

theorem thermal_within (s : Fin 24) (reading : ℤ) (m : Mach) : Within [.regs, .tick, .fe, .eng, .tleq, .tle, .heldDesc, .jnl, .led, .lvl, .fn, .cache, .draws] m (thermal s reading m) := by
  unfold thermal
  extract_lets m1 m2
  have hm2 : Within [.regs, .tick, .fe, .eng, .tleq, .tle, .heldDesc, .jnl, .led, .lvl, .fn, .cache, .draws] m m2 := by
    unfold m2
    split
    · exact Within.loop (fun x t => (onLvl_within).mono) ((put_within _ _ _).mono)
    · exact (put_within _ _ _).mono
  split
  · exact Within.loop (fun x t => (throttleDie_within _ _).mono) (hm2.mono)
  · exact hm2.mono

theorem thermalRepeat_within (s : Fin 24) (reading : ℤ) (m : Mach) : Within [.regs, .time, .tick, .fe, .eng, .tleq, .tle, .heldDesc, .enc, .jnl, .led, .lvl, .fn, .cache, .draws] m (thermalRepeat s reading m) := by
  unfold thermalRepeat
  extract_lets from_
  exact (thermal_within _ _ _).after <| (runToElapsed_within _ _).after <| .refl _ _

theorem thermalTrip_within (s : Fin 24) (m : Mach) : Within everyPart m (thermalTrip s m) := by
  unfold thermalTrip
  split
  · exact Within.refl _ _
  · exact (onRst_within _ _).after <| (warmReset_within _ _ _).after <| (put_within _ _ _).after <| .refl _ _

theorem tickBoundary_within (m : Mach) : Within [.regs, .time, .tick, .port, .fe, .eng, .tleq, .tle, .heldDesc, .pops, .spikes, .images, .enc, .fus, .jnl, .led, .lvl, .sleep, .fn, .link, .cache, .draws, .out] m (tickBoundary m) := by
  unfold tickBoundary
  extract_lets k b plain m1
  have hm1 : Within [.regs, .time, .tick, .port, .fe, .eng, .tleq, .tle, .heldDesc, .pops, .spikes, .images, .enc, .fus, .jnl, .led, .lvl, .sleep, .fn, .link, .cache, .draws, .out] m m1 := by
    unfold m1
    split
    · extract_lets j
      split
      · exact (beginTick_within _ _ _ _ _ _).after <| (applyLoad_within _ _ _).after <| (runTo_within _ _).after <| .refl _ _
      · exact (beginTick_within _ _ _ _ _ _).after <| (applyPeriod_within _ _).after <| (runTo_within _ _).after <| .refl _ _
    · exact (beginTick_within _ _ _ _ _ _).after <| (applyPeriod_within _ _).after <| (runTo_within _ _).after <| .refl _ _
  exact (servoStep_within _).after <| hm1.mono

theorem writeSummary_within (a : TickAcct) (m : Mach) : Within [.regs, .tick, .jnl, .cache, .draws] m (writeSummary a m) := by
  unfold writeSummary
  refine (onTick_within _ _).after <| ?_
  exact Within.loop (fun x t => (summaryFor_within _ _ _).mono) (Within.refl _ _)

theorem tickDeadline_within (m : Mach) : Within [.regs, .time, .tick, .fe, .eng, .tleq, .tle, .heldDesc, .pops, .spikes, .images, .fus, .jnl, .led, .sleep, .fn, .link, .cache, .draws, .out] m (tickDeadline m) := by
  unfold tickDeadline
  split
  · exact Within.refl _ _
  · extract_lets n before m1 m2 m3 m4 m5
    have hm1 : Within [.regs, .time, .tick, .fe, .eng, .tleq, .tle, .heldDesc, .pops, .spikes, .images, .fus, .jnl, .led, .sleep, .fn, .link, .cache, .draws, .out] m m1 := by
      unfold m1
      split
      · exact (overrun_within _ _).mono
      · exact Within.refl _ _
    have hm3 : Within [.regs, .time, .tick, .fe, .eng, .tleq, .tle, .heldDesc, .pops, .spikes, .images, .fus, .jnl, .led, .sleep, .fn, .link, .cache, .draws, .out] m m3 := by
      unfold m3
      split
      · exact (snnAll_within _ _ _).after <| (movePops_within _ _).after <| hm1.mono
      · exact (movePops_within _ _).after <| hm1.mono
    have hm5 : Within [.regs, .time, .tick, .fe, .eng, .tleq, .tle, .heldDesc, .pops, .spikes, .images, .fus, .jnl, .led, .sleep, .fn, .link, .cache, .draws, .out] m m5 := by
      unfold m5
      split
      · exact (writeSummary_within _ _).after <| (gapAll_within _ _).after <| (handoffGaps_within _ _).after <| hm3.mono
      · exact (gapAll_within _ _).after <| (handoffGaps_within _ _).after <| hm3.mono
    exact (releaseRecs_within _ _).after <| (dropTick_within _ _).after <| hm5.mono

theorem tickWdog_within (m : Mach) : Within everyPart m (tickWdog m) := by
  unfold tickWdog
  split
  · exact (warmReset_within _ _ _).mono
  · exact Within.refl _ _

theorem tlRise_within (d : Fin 4) (m : Mach) : Within [.regs, .time, .tick, .enc, .jnl, .lvl, .cache, .draws] m (tlRise d m) := by
  unfold tlRise
  extract_lets l top m1 m2
  have hm2 : Within [.regs, .time, .tick, .enc, .jnl, .lvl, .cache, .draws] m m2 := by
    unfold m2
    refine Within.loop (fun x t => ?_) ?_
    · split
      · exact Within.refl _ _
      · split
        rename_i x1 v m11 heq
        exact (put_within _ _ _).after <| (Within.snd heq (drawNat_within _)).after <| .refl _ _
    · exact (runToElapsed_within _ _).mono
  split
  · exact Within.refl _ _
  · exact (onLvl_within).after <| hm2.mono

theorem tleDone_within (d : Fin 4) (t : Fin 2) (m : Mach) : Within [.regs, .tick, .fe, .eng, .tleq, .tle, .heldDesc, .jnl, .led, .fn, .cache, .draws] m (tleDone d t m) := by
  unfold tleDone
  extract_lets i m1
  have hm1 : Within [.regs, .tick, .fe, .eng, .tleq, .tle, .heldDesc, .jnl, .led, .fn, .cache, .draws] m m1 := by
    unfold m1
    refine Within.after (b := m) (Within.of_onlyIn (l := [.tle]) fun p hp => by cases p <;> first | exact absurd (by decide) hp | rfl) ?_
    exact Within.refl _ _
  split
  · exact Within.refl _ _
  · split
    · exact hm1.mono
    · extract_lets e
      split
      · exact hm1.mono
      · split
        rename_i x sats fst m11 heq
        extract_lets m3
        have hm3 : Within [.regs, .tick, .fe, .eng, .tleq, .tle, .heldDesc, .jnl, .led, .fn, .cache, .draws] m m3 := by
          unfold m3
          refine (addTo_within _ _ _).after <| (addTo_within _ _ _).after <| (inc_within _ _).after <| ?_
          have hm11 : Within [.regs, .tick, .fe, .eng, .tleq, .tle, .heldDesc, .jnl, .led, .fn, .cache, .draws] m m11 := by
            refine Within.snd_snd heq ?_
            exact (layerStep_within _ _).after <| hm1.mono
          exact hm11.mono
        refine (advance_within _ _ _).after <| ?_
        split
        · exact hm3.mono
        · exact (set1_within _ _).after <| hm3.mono

theorem tleStart_within (d : Fin 4) (m : Mach) : Within [.tleq, .tle, .cache] m (tleStart d m) := by
  unfold tleStart
  split
  · exact Within.refl _ _
  · extract_lets free x
    clear_value free
    split
    · extract_lets i
      refine Within.after (b := m) (Within.of_onlyIn (l := [.tleq, .tle, .cache]) fun p hp => by cases p <;> first | exact absurd (by decide) hp | rfl) ?_
      exact Within.refl _ _
    · exact Within.refl _ _

theorem trainRx_within (l : Fin 4) (f : TrainFrame) (m : Mach) : Within [.regs, .tick, .jnl, .link, .cache, .out] m (trainRx l f m) := by
  unfold trainRx
  split
  · exact Within.refl _ _
  · extract_lets x n m1
    split
    · exact (setLinkState_within _ _ _).after <| (onLink_within _ _ _).after <| (inc_within _ _).after <| .refl _ _
    · split
      · split
        · exact (setLinkState_within _ _ _).after <| (onLink_within _ _ _).after <| (inc_within _ _).after <| .refl _ _
        · exact (health_within _ _ _ _).after <| (set1_within _ _).after <| (setLinkState_within _ _ _).after <| (onLink_within _ _ _).after <| (inc_within _ _).after <| .refl _ _
      · exact (linkUp_within _ _ _).after <| (setLinkState_within _ _ _).after <| (onLink_within _ _ _).after <| (inc_within _ _).after <| .refl _ _

theorem trainSend_within (l : Fin 4) (m : Mach) : Within [.regs, .time, .tick, .enc, .jnl, .link, .cache, .out] m (trainSend l m) := by
  unfold trainSend
  split
  · exact Within.refl _ _
  · extract_lets m1 m2
    have hm1 : Within [.regs, .time, .tick, .enc, .jnl, .link, .cache, .out] m m1 := by
      unfold m1
      split
      · exact (runToElapsed_within _ _).mono
      · exact Within.refl _ _
    exact (emit_within _ _).after <| (inc_within _ _).after <| (setLinkState_within _ _ _).after <| (onLink_within _ _ _).after <| hm1.mono

theorem trainTimeout_within (l : Fin 4) (m : Mach) : Within [.regs, .time, .tick, .enc, .jnl, .link, .cache] m (trainTimeout l m) := by
  unfold trainTimeout
  split
  · exact Within.refl _ _
  · extract_lets m1 m2
    exact (health_within _ _ _ _).after <| (setLinkState_within _ _ _).after <| (onLink_within _ _ _).after <| (runToElapsed_within _ _).after <| .refl _ _

theorem trigIn_within (k : Fin 4) (rise : Bool) (m : Mach) : Within [.regs, .time] m (trigIn k rise m) := by
  unfold trigIn
  extract_lets e stamp
  split
  · split
    · exact (onTime_within _ _).mono
    · exact (inc_within _ _).after <| (set1_within _ _).after <| .refl _ _
  · exact Within.refl _ _

theorem trigInRead_within (k : Fin 4) (m : Mach) : Within [.regs, .time, .draws, .out] m (trigInRead k m) := by
  unfold trigInRead
  split
  · split
    rename_i x v m1 heq
    exact (emit_within _ _).after <| (Within.snd heq (drawNat_within _)).after <| .refl _ _
  · extract_lets hi m1
    exact (emit_within _ _).after <| (wr_within _ _ _).after <| (onTime_within _ _).after <| .refl _ _

theorem trigPosition_within (o : Fin 8) (m : Mach) : Within [.time] m (trigPosition o m) := by
  unfold trigPosition
  extract_lets t
  split
  · exact (onTrig_within _ _ _).mono
  · exact Within.refl _ _

theorem trigPulseEnd_within (o : Fin 8) (m : Mach) : Within [.regs, .time, .tick, .enc, .jnl, .cache] m (trigPulseEnd o m) := by
  unfold trigPulseEnd
  split
  · exact (onTrig_within _ _ _).after <| (runToElapsed_within _ _).after <| .refl _ _
  · exact Within.refl _ _

theorem trigStart_within (o : Fin 8) (m : Mach) : Within [.regs, .time, .tick, .enc, .jnl, .cache] m (trigStart o m) := by
  unfold trigStart
  extract_lets mode t m1
  split
  · exact (onTrig_within _ _ _).after <| (runTo_within _ _).after <| .refl _ _
  · exact Within.refl _ _

theorem ttRx_within (l : Fin 4) (m : Mach) : Within [.regs, .time, .tick, .fus, .jnl, .link, .cache, .draws] m (ttRx l m) := by
  unfold ttRx
  split
  · rename_i x snd heq
    exact Within.refl _ _
  · rename_i x x1 m1 heq
    extract_lets t4 t3 t1 t2 m2 theta d loop m3
    split
    · exact (inc_within _ _).after <| (onLink_within _ _ _).after <| (inc_within _ _).after <| (freeMsg_within _ _ _).after <| (Within.snd heq (takeMsg_within _ _ _)).after <| .refl _ _
    · refine (refuseCheck_within _ _).after <| ?_
      split
      · exact (servoSample_within _ _ _).after <| (judgeSkew_within _ _ _).after <| (onLink_within _ _ _).after <| (onLink_within _ _ _).after <| (inc_within _ _).after <| (freeMsg_within _ _ _).after <| (Within.snd heq (takeMsg_within _ _ _)).after <| .refl _ _
      · exact (judgeSkew_within _ _ _).after <| (onLink_within _ _ _).after <| (onLink_within _ _ _).after <| (inc_within _ _).after <| (freeMsg_within _ _ _).after <| (Within.snd heq (takeMsg_within _ _ _)).after <| .refl _ _

theorem ttSend_within (l : Fin 4) (m : Mach) : Within [.regs, .time, .tick, .enc, .jnl, .link, .cache] m (ttSend l m) := by
  unfold ttSend
  extract_lets next at_ m1 x tail
  split
  exact (sendMsg_within _ _ _ _ _ _ _ _).after <| (applyLinkStaged_within _ _).after <| (onLink_within _ _ _).after <| (runTo_within _ _).after <| .refl _ _

theorem ueAddrRead_within (d : Fin 4) (m : Mach) : Within [.regs, .out] m (ueAddrRead d m) := by
  unfold ueAddrRead
  exact (emit_within _ _).after <| (wr_within _ _ _).after <| .refl _ _

theorem unloadGraph_within (h : CmdHdr) (slot : ℕ) (m : Mach) : Within [.regs, .tick, .jnl, .sleep, .fn, .out] m (unloadGraph h slot m) := by
  unfold unloadGraph
  refine command_loop (fun c t => ?_) (fun c t u => ?_) ?_
  · extract_lets e
    exact (pend_within _ _).mono
  · extract_lets e
    exact Within.refl _ _
  · exact Within.refl _ _

theorem unmappedAccess_within (f : Fin 8) (off : ℕ) (write : Bool) (m : Mach) : Within [.regs, .out] m (unmappedAccess f off write m) := by
  unfold unmappedAccess
  split
  · exact Within.refl _ _
  · split
    · exact Within.refl _ _
    · extract_lets m1
      split
      · exact (unmapped_within _ _ _).mono
      · exact (emit_within _ _).after <| (unmapped_within _ _ _).after <| .refl _ _

theorem vfClear_within (m : Mach) : Within [.regs, .tick, .jnl, .fn, .own, .out] m (vfClear m) := by
  unfold vfClear
  refine (vfReturn_within _).after <| ?_
  exact Within.loop (fun x t => (flrStart_within _ _).mono) (Within.refl _ _)

theorem wakeTRead_within (m : Mach) : Within [.regs, .out] m (wakeTRead m) := by
  unfold wakeTRead
  extract_lets m1
  exact (emit_within _ _).after <| (put64_within _ _ _ _).after <| .refl _ _

theorem zeroDram_within (lo hi : Nat) (m : Mach) : Within [.dram, .cache, .ueLines] m (m.zeroDram lo hi) :=
  Within.after (b := { m with dram := Tab.clearRange m.dram lo hi })
    (Within.of_onlyIn (l := [.cache, .ueLines]) fun p hp => by cases p <;> first | exact absurd (by decide) hp | rfl)
    ((dram_within (Mem.wf_clearRange m.dram lo hi)).mono)

theorem washUnit_within (w : Wash) (m : Mach) : Within [.regs, .time, .tick, .port, .fe, .eng, .fus, .net, .dram, .cache, .ueLines] m (washUnit w m) := by
  unfold washUnit
  extract_lets u p m1 m2 old m3 a k
  have hm3 : Within [.regs, .time, .tick, .port, .fe, .eng, .fus, .net, .dram, .cache, .ueLines] m m3 := by
    unfold m3
    have hm2 : Within [.regs, .time, .tick, .port, .fe, .eng, .fus, .net, .dram, .cache, .ueLines] m m2 := by
      exact (resetRegs_within _ _ _ _).after <| (resetRegs_within _ _ _ _).after <| (resetRegs_within _ _ _ _).after <| (discardVat_within _ _ _).after <| .refl _ _
    clear_value m2
    refine Within.after (b := m2) (Within.of_onlyIn (l := [.port, .fe]) fun p hp => by cases p <;> first | exact absurd (by decide) hp | rfl) ?_
    exact hm2.mono
  split
  · exact (onFus_within _ _).after <| hm3.mono
  · exact (onEng_within).after <| (resetRegs_within _ _ _ _).after <| .refl _ _
  · exact (zeroDram_within _ _ _).mono
  · exact (onFus_within _ _).mono
  · exact (resetRegs_within _ _ _ _).mono
  · exact (onTrig_within _ _ _).after <| (resetRegs_within _ _ _ _).after <| .refl _ _
  · exact (onDest_within _ _ _).after <| (resetRegs_within _ _ _ _).after <| (resetRegs_within _ _ _ _).after <| .refl _ _
  · exact (zeroDram_within _ _ _).mono
  · exact Within.refl _ _

theorem washDone_within (kind : ℕ) (unit : ℕ) (m : Mach) : Within [.regs, .time, .tick, .port, .fe, .eng, .fus, .jnl, .fn, .own, .net, .dram, .cache, .ueLines, .out] m (washDone kind unit m) := by
  unfold washDone
  split
  · exact Within.refl _ _
  · extract_lets m1
    split
    · exact (assignDone_within _ _ _).after <| (onOwn_within _ _).after <| (washUnit_within _ _).after <| .refl _ _
    · exact (onOwn_within _ _).after <| (washUnit_within _ _).after <| .refl _ _

theorem washQueryCmd_within (h : CmdHdr) (m : Mach) : Within [.regs, .jnl, .sleep, .fn, .out] m (washQueryCmd h m) := by
  unfold washQueryCmd
  refine command_loop (fun c t => ?_) (fun c t u => ?_) ?_
  · extract_lets l
    exact Within.refl _ _
  · extract_lets l
    exact Within.refl _ _
  · exact Within.refl _ _

theorem zeroDone_within (p : Fin 16) (m : Mach) : Within [.regs, .fe] m (zeroDone p m) := by
  unfold zeroDone
  split
  · extract_lets m1
    split
    · exact (learnDone_within _ _).after <| (onFe_within _ _ _).after <| (applyHot_within _ _).after <| .refl _ _
    · exact (onFe_within _ _ _).after <| (applyHot_within _ _).after <| .refl _ _
  · exact Within.refl _ _

end Mach

end Sys2Proof.Machine

namespace Sys2Proof.Machine

set_option Elab.async false

/-- Every part is among all of them. -/
theorem mem_everyPart (p : Part) : p ∈ everyPart := by cases p <;> decide

theorem Within.every {l : List Part} {a b : Mach} (h : Within l a b) : Within everyPart a b := h.mono fun p _ => mem_everyPart p

/-- A wake source that stirs the package under a condition. -/
theorem stirIf_within (p : Prop) [Decidable p] (source unit : Nat) (m : Mach) : Within everyPart m (if p then m.stir source unit else m) := by
  split
  · exact Mach.stir_within _ _ _
  · exact Within.refl _ _

/-- Every command keeps the memories canonical and no frequency above its voltage. -/
theorem exec_within (c : Instr) (s : State) : ∃ t : State, exec c s = .next t ∧ Within everyPart s.toMach t.toMach := by
  cases c with
  | tickBoundary => exact ⟨_, rfl, (Mach.tickBoundary_within _).every⟩
  | curdGridClose => exact ⟨_, rfl, (Mach.closeGrid_within _).every⟩
  | admission => exact ⟨_, rfl, (Mach.admission_within _).every⟩
  | patchCut => exact ⟨_, rfl, (Mach.patchCut_within _ _).every⟩
  | tickDeadline => exact ⟨_, rfl, (Mach.tickDeadline_within _).every⟩
  | tickWdog => exact ⟨_, rfl, (Mach.tickWdog_within _).every⟩
  | csi2LongPacket => exact ⟨_, rfl, Mach.overLanes_loop (fun _ => (Mach.longPacket_within _ _ _ _ _ _).every) (Within.refl _ _)⟩
  | csi2Raw8Packet => exact ⟨_, rfl, Mach.overLanes_loop (fun _ => (Mach.longPacket_within _ _ _ _ _ _).every) (Within.refl _ _)⟩
  | csi2ShortPacket => exact ⟨_, rfl, Mach.overLanes_loop (fun _ => (Mach.shortPacket_within _ _ _).every) (Within.refl _ _)⟩
  | packetTimeout => exact ⟨_, rfl, (Mach.packetTimeout_within _ _).every⟩
  | syncEdge => exact ⟨_, rfl, (Mach.syncEdge_within _ _).every⟩
  | syncPulseEnd => exact ⟨_, rfl, (Mach.syncPulseEnd_within _ _).every⟩
  | fitLost => exact ⟨_, rfl, (Mach.fitLost_within _ _).every⟩
  | flushApply => exact ⟨_, rfl, (Mach.flushApply_within _ _).every⟩
  | portStop => exact ⟨_, rfl, (Mach.portStop_within _ _).every⟩
  | ingCtrlEn => exact ⟨_, rfl, (Mach.ctrlEn_within _ _).every⟩
  | ingCtrlDisable => exact ⟨_, rfl, (Mach.disablePort_within _ _).every⟩
  | ingCtrlFlush => exact ⟨_, rfl, (Mach.flushAsk_within _ _).every⟩
  | sciGo => exact ⟨_, rfl, (Mach.sciGo_within _ _ _ _ _ _).every⟩
  | sciTransferDone => exact ⟨_, rfl, (Mach.sciEnd_within _ _ _ _).every⟩
  | sciTimeout => exact ⟨_, rfl, (Mach.sciTimeout_within _ _).every⟩
  | ingFitRateRead => exact ⟨_, rfl, (Mach.fitRateRead_within _ _).every⟩
  | feEvent => exact ⟨_, rfl, (Mach.feEvent_within _ _).every⟩
  | agerSweepStart => exact ⟨_, rfl, (Mach.agerStart_within _ _).every⟩
  | agerSweepEnd => exact ⟨_, rfl, (Mach.agerEnd_within _ _).every⟩
  | surfaceZeroDone => exact ⟨_, rfl, (Mach.zeroDone_within _ _).every⟩
  | feCtrlLearn => exact ⟨_, rfl, (Mach.learnAsk_within _ _).every⟩
  | feCtrlHotApply => exact ⟨_, rfl, (Mach.hotAsk_within _ _).every⟩
  | learnEnd => exact ⟨_, rfl, (Mach.learnEnd_within _ _).every⟩
  | descriptorStart => exact ⟨_, rfl, (Mach.descStart_within _ _).every⟩
  | descriptorComplete => exact ⟨_, rfl, (Mach.descComplete_within _ _).every⟩
  | tleRequestStart => exact ⟨_, rfl, (Mach.tleStart_within _ _).every⟩
  | tleRequestDone => exact ⟨_, rfl, (Mach.tleDone_within _ _ _).every⟩
  | edgeError => exact ⟨_, rfl, (Mach.edgeError_within _ _ _).every⟩
  | engSrst => exact ⟨_, rfl, (Mach.engSrst_within _ _).every⟩
  | engResetDone => exact ⟨_, rfl, (Mach.engResetDone_within _ _).every⟩
  | engTripClear => exact ⟨_, rfl, (Mach.tripClear_within _ _).every⟩
  | populationPhase => exact ⟨_, rfl, (Mach.popPhase_within _ _).every⟩
  | spikeMessage => exact ⟨_, rfl, (Mach.spikeMessage_within _ _).every⟩
  | roleLoadDone => exact ⟨_, rfl, (Mach.roleLoadDone_within _ _).every⟩
  | streamPrefetch => exact ⟨_, rfl, (Mach.prefetch_within _ _ _).every⟩
  | encCountEdge => exact ⟨_, rfl, (Mach.encEdge_within _ _ _ _).every⟩
  | encIndex => exact ⟨_, rfl, (Mach.encIndex_within _ _ _).every⟩
  | encCapture => exact ⟨_, rfl, (Mach.encCapture_within _).every⟩
  | mdQueryAnswer => exact ⟨_, rfl, (Mach.mdQuery_within _ _ _).every⟩
  | motEncEn => exact ⟨_, rfl, (Mach.encEn_within _ _ _).every⟩
  | motEncRebase => exact ⟨_, rfl, (Mach.onEnc_within _ _ _).every⟩
  | motEncRescale => exact ⟨_, rfl, (Mach.onEnc_within _ _ _).every⟩
  | motEncPosRead => exact ⟨_, rfl, (Mach.encPosRead_within _ _).every⟩
  | motEncIdxRead => exact ⟨_, rfl, (Mach.encIdxRead_within _ _).every⟩
  | imuDrdy => exact ⟨_, rfl, (Mach.imuDrdy_within _ _ _).every⟩
  | imuTransferDone => exact ⟨_, rfl, (Mach.imuDone_within _ _ _).every⟩
  | imuTimeout => exact ⟨_, rfl, (Mach.imuTimeout_within _ _).every⟩
  | motImuEn => exact ⟨_, rfl, (Mach.imuEn_within _ _ _).every⟩
  | motImuOutRead => exact ⟨_, rfl, (Mach.imuOutRead_within _ _).every⟩
  | fusionTick => exact ⟨_, rfl, (Mach.fusionTick_within _).every⟩
  | hoOfferRepeat => exact ⟨_, rfl, (Mach.repeatOffers_within _).every⟩
  | calIntervalEnd => exact ⟨_, rfl, (Mach.calInterval_within _).every⟩
  | calSolveDone => exact ⟨_, rfl, (Mach.calSolveDone_within _).every⟩
  | fusPHRead => exact ⟨_, rfl, (Mach.homRead_within _ _).every⟩
  | reportDelivery => exact ⟨_, rfl, (Mach.deliver_within _ _ _).every⟩
  | commitGroupForm => exact ⟨_, rfl, (Mach.formGroup_within _).every⟩
  | commitGroupDurable => exact ⟨_, rfl, (Mach.groupDurable_within _).every⟩
  | holdupSample => exact ⟨_, rfl, (Mach.holdupSample_within _ _).every⟩
  | powerFail => exact ⟨_, rfl, (Mach.powerFail_within _).every⟩
  | finalCommitDone => exact ⟨_, rfl, (Mach.finalCommitDone_within _).every⟩
  | pwrRecoverExpired => exact ⟨_, rfl, (Mach.recoverExpired_within _).every⟩
  | actionTriggerTime => exact ⟨_, rfl, (Mach.fireTime_within _).every⟩
  | actionTriggerPosition => exact ⟨_, rfl, (Mach.firePosition_within _).every⟩
  | actionPulseEnd => exact ⟨_, rfl, (Mach.actionEnd_within _ _).every⟩
  | actCtrlEn => exact ⟨_, rfl, (Mach.actEn_within _ _).every⟩
  | jnlFRsnRead => exact ⟨_, rfl, (Mach.rsnRead_within _ _ _).every⟩
  | pmbusTelemetry => exact ⟨_, rfl, (Mach.telemetry_within _ _ _).every⟩
  | avsVoltageReached => exact ⟨_, rfl, (Mach.avsReached_within _ _).every⟩
  | avsTimeout => exact ⟨_, rfl, (Mach.avsTimeout_within _ _).every⟩
  | clkManualWrite => exact ⟨_, rfl, (Mach.clkManual_within _ _ _).every⟩
  | droopDetected => exact ⟨_, rfl, (Mach.droop_within _ _).every⟩
  | droopRecovered => exact ⟨_, rfl, (Mach.droopEnd_within _ _).every⟩
  | thermalThrottle => exact ⟨_, rfl, (Mach.thermal_within _ _ _).every⟩
  | throttleRepeat => exact ⟨_, rfl, (Mach.thermalRepeat_within _ _ _).every⟩
  | thermalTlRise => exact ⟨_, rfl, (Mach.tlRise_within _ _).every⟩
  | thermalTrip => exact ⟨_, rfl, (Mach.thermalTrip_within _ _).every⟩
  | s2Entry => exact ⟨_, rfl, (Mach.s2Entry_within _).every⟩
  | s2PowerDown => exact ⟨_, rfl, (Mach.s2PowerDown_within _).every⟩
  | s3Entry => exact ⟨_, rfl, (Mach.s3Entry_within _).every⟩
  | pwrSleepGoS3 => exact ⟨_, rfl, (Mach.goS3_within _).every⟩
  | wake => exact ⟨_, rfl, (Mach.wake_within _ _ _).every⟩
  | pwrWakeTRead => exact ⟨_, rfl, (Mach.wakeTRead_within _).every⟩
  | timSnap => exact ⟨_, rfl, (Mach.timSnap_within _ _).every⟩
  | stagedStepGo => exact ⟨_, rfl, (Mach.stagedGo_within _ _ _ _).every⟩
  | stagedStepCancel => exact ⟨_, rfl, (Mach.stagedCancel_within _).every⟩
  | stagedStepApply => exact ⟨_, rfl, (Mach.stagedApply_within _).every⟩
  | servoOffsetWrite => exact ⟨_, rfl, (Mach.servoOffset_within _ _).every⟩
  | servoEnWrite => exact ⟨_, rfl, (Mach.servoEn_within _ _).every⟩
  | ppsInEdge => exact ⟨_, rfl, (Mach.ppsIn_within _).every⟩
  | holdoverTimeout => exact ⟨_, rfl, (Mach.holdTimeout_within _).every⟩
  | slewEnd => exact ⟨_, rfl, (Mach.slewEnd_within _).every⟩
  | timSrvLastRead => exact ⟨_, rfl, (Mach.srvLastRead_within _).every⟩
  | trigOutCtrlWrite => exact ⟨_, rfl, (Mach.trigCtrl_within _ _ _).every⟩
  | trigOutPulseStart => exact ⟨_, rfl, (Mach.trigStart_within _ _).every⟩
  | trigOutPositionPulse => exact ⟨_, rfl, (Mach.trigPosition_within _ _).every⟩
  | trigOutPulseEnd => exact ⟨_, rfl, (Mach.trigPulseEnd_within _ _).every⟩
  | ppsOutPulse => exact ⟨_, rfl, (Mach.ppsOut_within _).every⟩
  | ppsOutPulseEnd => exact ⟨_, rfl, (Mach.ppsOutEnd_within _).every⟩
  | trigInEdge => exact ⟨_, rfl, (Mach.trigIn_within _ _ _).every⟩
  | trigInFifoRead => exact ⟨_, rfl, (Mach.trigInRead_within _ _).every⟩
  | ethFrameRx => exact ⟨_, rfl, (Mach.ethFrameRx_within _ _ _).after (stirIf_within _ _ _ _)⟩
  | arpRequest => exact ⟨_, rfl, (Mach.arpRequest_within _ _ _ _).every⟩
  | arpReply => exact ⟨_, rfl, (Mach.hopReply_within _ _ _ _).every⟩
  | neighborSolicitation => exact ⟨_, rfl, (Mach.neighborSolicitation_within _ _ _).every⟩
  | icmpEchoRequest => exact ⟨_, rfl, (Mach.echoRequest_within _ _ _ _).every⟩
  | nextHopRefresh => exact ⟨_, rfl, (Mach.refreshHops_within _).every⟩
  | ptpFrameRx => exact ⟨_, rfl, (Mach.ptpFrameRx_within _ _ _).every⟩
  | ptpTxGo => exact ⟨_, rfl, (Mach.ptpTxGo_within _ _ _).every⟩
  | ptpTxDone => exact ⟨_, rfl, (Mach.ptpTxDone_within _).every⟩
  | ptpRxPop => exact ⟨_, rfl, (Mach.ptpPop_within _ _).every⟩
  | ptpTxTsRead => exact ⟨_, rfl, (Mach.ptpTsRead_within _).every⟩
  | ptpFailover => exact ⟨_, rfl, (Mach.ptpFailover_within _).every⟩
  | ethLinkChange => exact ⟨_, rfl, (Mach.ethLink_within _ _ _).every⟩
  | rrtDataSend => exact ⟨_, rfl, (Mach.rrtSend_within _ _ _).every⟩
  | rrtResend => exact ⟨_, rfl, (Mach.rrtResend_within _ _ _).every⟩
  | rrtAck => exact ⟨_, rfl, (Mach.rrtAck_within _ _ _).after (stirIf_within _ _ _ _)⟩
  | rrtFbProbe => exact ⟨_, rfl, (Mach.rrtProbe_within _ _).every⟩
  | rrtDestDisable => exact ⟨_, rfl, (Mach.destDisable_within _ _).every⟩
  | rrtDAckRead => exact ⟨_, rfl, (Mach.destAckRead_within _ _).every⟩
  | fence => exact ⟨_, rfl, (Mach.fenceCmd_within _ _).every⟩
  | query => exact ⟨_, rfl, (Mach.queryCmd_within _ _ _ _ _ _).every⟩
  | loadGraph => exact ⟨_, rfl, (Mach.loadGraph_within _ _ _ _ _ _).every⟩
  | unloadGraph => exact ⟨_, rfl, (Mach.unloadGraph_within _ _ _).every⟩
  | mapRoles => exact ⟨_, rfl, (Mach.mapRoles_within _ _ _).every⟩
  | portConfigWrites => exact ⟨_, rfl, (Mach.portWrites_within _ _ _ _ _).every⟩
  | portConfigSci => exact ⟨_, rfl, (Mach.portSci_within _ _ _ _ _ _).every⟩
  | portEnable => exact ⟨_, rfl, (Mach.portEnableCmd_within _ _ _).every⟩
  | portDisable => exact ⟨_, rfl, (Mach.portDisableCmd_within _ _ _).every⟩
  | portFlush => exact ⟨_, rfl, (Mach.portFlushCmd_within _ _ _).every⟩
  | setTickChange => exact ⟨_, rfl, (Mach.setTickChange_within _ _ _).every⟩
  | setTickLoad => exact ⟨_, rfl, (Mach.setTickLoad_within _ _ _ _).every⟩
  | setQuality => exact ⟨_, rfl, (Mach.setQualityCmd_within _ _ _).every⟩
  | setEnergyCap => exact ⟨_, rfl, (Mach.setCap_within _ _ _).every⟩
  | setPlLimit => exact ⟨_, rfl, (Mach.setLimit_within _ _ _ _).every⟩
  | calibSet => exact ⟨_, rfl, (Mach.calibSet_within _ _ _ _).every⟩
  | calibLock => exact ⟨_, rfl, (Mach.calibLock_within _ _ _ _).every⟩
  | actionAdd => exact ⟨_, rfl, (Mach.actionAdd_within _ _ _ _ _ _ _ _).every⟩
  | actionCancel => exact ⟨_, rfl, (Mach.actionCancel_within _ _ _).every⟩
  | ruleSet => exact ⟨_, rfl, (Mach.ruleSet_within _ _ _ _ _).every⟩
  | extMeas => exact ⟨_, rfl, (Mach.extMeasCmd_within _ _ _ _ _ _ _ _ _ _).every⟩
  | tapConfig => exact ⟨_, rfl, (Mach.tapConfigCmd_within _ _ _ _ _).every⟩
  | assign => exact ⟨_, rfl, (Mach.assignCmd_within _ _ _ _ _ _).every⟩
  | washDone => exact ⟨_, rfl, (Mach.washDone_within _ _ _).every⟩
  | washQuery => exact ⟨_, rfl, (Mach.washQueryCmd_within _ _).every⟩
  | rptResume => exact ⟨_, rfl, (Mach.rptResumeCmd_within _ _ _ _).every⟩
  | rptDiscard => exact ⟨_, rfl, (Mach.rptDiscardCmd_within _ _ _).every⟩
  | pkgReset => exact ⟨_, rfl, (Mach.pkgResetCmd_within _ _).every⟩
  | doorbell => exact ⟨_, rfl, (Mach.doorbell_within _ _ _ _ _).after (Mach.stir_within _ _ _).every⟩
  | ringEnable => exact ⟨_, rfl, (Mach.ringEnable_within _ _ _ _).every⟩
  | msixModerationTimer => exact ⟨_, rfl, (Mach.modTimer_within _ _ _).every⟩
  | hifFCseqRead => exact ⟨_, rfl, (Mach.cseqRead_within _ _).every⟩
  | flr => exact ⟨_, rfl, (Mach.flr_within _ _).after (Mach.stir_within _ _ _).every⟩
  | flrComplete => exact ⟨_, rfl, (Mach.flrComplete_within _ _).every⟩
  | flrWedgeTimeout => exact ⟨_, rfl, (Mach.flrWedge_within _ _).every⟩
  | vfEnableClear => exact ⟨_, rfl, (Mach.vfClear_within _).after (Mach.stir_within _ _ _).every⟩
  | unmappedAccess => exact ⟨_, rfl, (Mach.unmappedAccess_within _ _ _ _).every⟩
  | offBlockAccess => exact ⟨_, rfl, (Mach.offBlockAccess_within _ _ _).every⟩
  | registerWrite => exact ⟨_, rfl, (Mach.registerWrite_within _ _ _ _ _).every⟩
  | mailboxGo => exact ⟨_, rfl, (Mach.mailboxGo_within _).every⟩
  | version => exact ⟨_, rfl, (Mach.mbVersion_within _).every⟩
  | fptCopy => exact ⟨_, rfl, (Mach.mbFpt_within _).every⟩
  | telemetry => exact ⟨_, rfl, (Mach.mbTelemetry_within _).every⟩
  | fwStage => exact ⟨_, rfl, (Mach.mbFwStage_within _ _ _).every⟩
  | logRead => exact ⟨_, rfl, (Mach.mbLog_within _ _).every⟩
  | calStatus => exact ⟨_, rfl, (Mach.mbCal_within _).every⟩
  | mailboxSci => exact ⟨_, rfl, (Mach.mbSci_within _).every⟩
  | debugUnlock => exact ⟨_, rfl, (Mach.mbUnlock_within _ _ _ _).every⟩
  | mgtWdog => exact ⟨_, rfl, (Mach.mgtWdog_within _).every⟩
  | linkEnable => exact ⟨_, rfl, (Mach.linkEnable_within _ _ _).every⟩
  | linkRetrain => exact ⟨_, rfl, (Mach.retrain_within _ _).every⟩
  | linkLockLoss => exact ⟨_, rfl, (Mach.retrain_within _ _).every⟩
  | trainFrameSend => exact ⟨_, rfl, (Mach.trainSend_within _ _).every⟩
  | train => exact ⟨_, rfl, (Mach.trainRx_within _ _ _).every⟩
  | linkTrainTimeout => exact ⟨_, rfl, (Mach.trainTimeout_within _ _).every⟩
  | dataFrameSend => exact ⟨_, rfl, (Mach.dataSend_within _ _).every⟩
  | data => exact ⟨_, rfl, (Mach.dataRx_within _ _ _ _ _ _).after (stirIf_within _ _ _ _)⟩
  | nak => exact ⟨_, rfl, (Mach.nakRx_within _ _ _ _ _).every⟩
  | credit => exact ⟨_, rfl, (Mach.creditRx_within _ _ _ _).every⟩
  | creditFrameSend => exact ⟨_, rfl, (Mach.creditSend_within _ _).every⟩
  | replayTimeout => exact ⟨_, rfl, (Mach.replayTmo_within _ _).every⟩
  | ttSend => exact ⟨_, rfl, (Mach.ttSend_within _ _).every⟩
  | tt => exact ⟨_, rfl, (Mach.ttRx_within _ _).every⟩
  | advertSend => exact ⟨_, rfl, (Mach.advertSend_within _ _).every⟩
  | advert => exact ⟨_, rfl, (Mach.advertRx_within _ _).every⟩
  | hoOffer => exact ⟨_, rfl, (Mach.offerRx_within _ _).every⟩
  | hoReply => exact ⟨_, rfl, (Mach.replyRx_within _ _).every⟩
  | curds => exact ⟨_, rfl, (Mach.curdsRx_within _ _).every⟩
  | linkPairing => exact ⟨_, rfl, (Mach.linkPairing_within _ _).every⟩
  | lnkOfsRead => exact ⟨_, rfl, (Mach.ofsRead_within _ _).every⟩
  | powerOnReset => exact ⟨_, rfl, (Mach.powerOn_within _).every⟩
  | warmResetStart => exact ⟨_, rfl, (Mach.pinReset_within _ _).every⟩
  | endpointReset => exact ⟨_, rfl, (Mach.endpointReset_within _).every⟩
  | supplyFault => exact ⟨_, rfl, (Mach.supplyFault_within _ _).every⟩
  | resetHoldEnd => exact ⟨_, rfl, (Mach.holdEnd_within _ _).every⟩
  | bootGo => exact ⟨_, rfl, (Mach.bootGo_within _ _).every⟩
  | ready => exact ⟨_, rfl, (Mach.readyAny_within _ _).every⟩
  | computeReset => exact ⟨_, rfl, (Mach.computeStart_within _).every⟩
  | blockReset => exact ⟨_, rfl, (Mach.blockGo_within _ _ _).every⟩
  | blockResetIdle => exact ⟨_, rfl, (Mach.blockIdle_within _).every⟩
  | blockResetTimeout => exact ⟨_, rfl, (Mach.blockTimeout_within _ _).every⟩
  | iocRelease => exact ⟨_, rfl, (Mach.releasePads_within _ _).every⟩
  | rstTLastRead => exact ⟨_, rfl, (Mach.tLastRead_within _).every⟩
  | status => exact ⟨_, rfl, (Mach.sbStatus_within _).after (Mach.stir_within _ _ _).every⟩
  | loadData => exact ⟨_, rfl, (Mach.sbLoadData_within _ _ _ _).after (Mach.stir_within _ _ _).every⟩
  | loadEnd => exact ⟨_, rfl, (Mach.sbLoadEnd_within _ _ _ _).after (Mach.stir_within _ _ _).every⟩
  | sidebandReset => exact ⟨_, rfl, (Mach.sbReset_within _ _ _ _).after (Mach.stir_within _ _ _).every⟩
  | dieLost => exact ⟨_, rfl, (Mach.loseDie_within _ _ _).every⟩
  | autoComputeReset => exact ⟨_, rfl, (Mach.autoCompute_within _).every⟩
  | secRelock => exact ⟨_, rfl, (Mach.secRelock_within _).every⟩
  | secNonceRead => exact ⟨_, rfl, (Mach.nonceRead_within _).every⟩
  | memRegWrite => exact ⟨_, rfl, (Mach.memReg_within _ _ _ _).every⟩
  | dramUe => exact ⟨_, rfl, (Mach.dramUe_within _ _ _ _).every⟩
  | dramScrub => exact ⟨_, rfl, (Mach.dramScrub_within _ _ _ _).every⟩
  | memUeAddrRead => exact ⟨_, rfl, (Mach.ueAddrRead_within _ _).every⟩
  | nvsReinit => exact ⟨_, rfl, (Mach.storeInit_within _).every⟩
  | nvsReinitRetry => exact ⟨_, rfl, (Mach.reinitRetry_within _).every⟩
  | nvmeCompletion => exact ⟨_, rfl, (Mach.nvmeDone_within _ _).every⟩
  | nvmeTimeout => exact ⟨_, rfl, (Mach.nvmeTimeout_within _).every⟩
  | nvmeRetry => exact ⟨_, rfl, (Mach.nvmeRetry_within _).every⟩
  | superblockWrite => exact ⟨_, rfl, (Mach.superblock_within _).every⟩
  | nvsGseqRead => exact ⟨_, rfl, (Mach.gseqRead_within _).every⟩
  | loadGraphCopyDone => exact ⟨_, rfl, (Mach.loadCopyDone_within _ _).every⟩
  | mirrorBack => exact ⟨_, rfl, (Mach.mirrorBack_within _ _).every⟩
  | pwrFailNReturn => exact ⟨_, rfl, (Mach.pwrFailReturn_within _).every⟩
  | resetOutNRelease => exact ⟨_, rfl, (Mach.resetOutRelease_within _).every⟩
  | hostCmdReset => exact ⟨_, rfl, (Mach.hostCmdReset_within _).every⟩
  | sidebandBusTimeout => exact ⟨_, rfl, (Mach.sbIncomplete_within _).after (Mach.stir_within _ _ _).every⟩
  | i3cDynamicAddressAssignment => exact ⟨_, rfl, (Mach.i3cAddress_within _ _).every⟩
  | delayReqSend => exact ⟨_, rfl, (Mach.delayReqSend_within _ _).every⟩
  | jtagInstruction => exact ⟨_, rfl, (Mach.jtag_within _ _ _).every⟩

/-- Every step keeps the memories canonical and no frequency above its voltage. -/
theorem step_within {s t : State} (h : step s = .next t) : Within everyPart s.toMach t.toMach := by
  unfold step at h
  split at h
  · rename_i c rest _
    obtain ⟨u, hu, hw⟩ := exec_within c { s with pending := rest }
    rw [hu] at h
    cases h
    exact hw
  · cases h
    exact (Mach.idle_within _).mono

/-- Settles O3: each function of the model keeps the canonical form, and a step is one of them (`step_within`). -/
theorem memoriesStayCanonical : Obligations.MemoriesStayCanonical := by
  unfold Obligations.MemoriesStayCanonical
  exact fun _ _ hc hs => (step_within hs).canonical hc

/-- Settles O4: each function of the model that sets a level keeps the frequency at or below the voltage (`step_within`). -/
theorem frequencyNeverAboveVoltage : Obligations.FrequencyNeverAboveVoltage := by
  unfold Obligations.FrequencyNeverAboveVoltage
  exact fun _ _ hl hs => (step_within hs).levels hl

end Sys2Proof.Machine

namespace Sys2Proof.Machine

set_option Elab.async false

/-! ## Reading the layer of parts -/

/-- A part outside the list is as before. -/
theorem Within.keeps {l : List Part} {a b : Mach} (h : Within l a b) (p : Part) (hp : p ∉ l := by decide) : p.same a b := h.parts p hp

/-- The parts of a step, in a longer list. -/
theorem Within.only {k l : List Part} {a b : Mach} (h : Within k a b) (hs : ∀ p ∈ k, p ∈ l := by decide +kernel) : OnlyIn l a b := h.parts.mono hs

namespace Mach

/-- Two fields share no bit: they stand in different words, or one lies above the other. -/
def Apart (f e : Fld) : Prop := e.a ≠ f.a ∨ (f.lo ≤ f.hi ∧ f.hi < 32 ∧ e.lo ≤ e.hi ∧ (f.hi < e.lo ∨ e.hi < f.lo))

theorem g_put_apart {f e : Fld} (m : Mach) (v : Nat) (h : Apart f e) : (m.put f v).g e = m.g e := by
  by_cases ha : e.a = f.a
  · obtain ⟨h1, h2, h3, h4 | h4⟩ := h.resolve_left (fun hn => hn ha)
    · exact g_put_above m f e v ha h1 h2 h4
    · exact g_put_below m f e v ha h1 h2 h3 h4
  · exact g_put_ne m f e v ha

theorem g_set1_apart {f e : Fld} (m : Mach) (h : Apart f e) : (m.set1 f).g e = m.g e := g_put_apart m 1 h
theorem g_clr_apart {f e : Fld} (m : Mach) (h : Apart f e) : (m.clr f).g e = m.g e := g_put_apart m 0 h
theorem g_inc_apart {f e : Fld} (m : Mach) (h : Apart f e) : (m.inc f).g e = m.g e := g_put_apart m _ h

/-- A value that fits its field is what the field then holds. -/
theorem g_put_fits {f : Fld} {v : Nat} (m : Mach) (h : f.lo ≤ f.hi ∧ f.hi < 32) (hv : v < 2 ^ (f.hi + 1 - f.lo)) : (m.put f v).g f = v :=
  (g_put_self m f v h.1 h.2).trans (Nat.mod_eq_of_lt hv)

theorem g_inc_ne (m : Mach) (f e : Fld) (h : e.a ≠ f.a) : (m.inc f).g e = m.g e := g_put_ne m f e _ h
theorem g_set1_ne (m : Mach) (f e : Fld) (h : e.a ≠ f.a) : (m.set1 f).g e = m.g e := g_put_ne m f e _ h

/-! ## Encoders: edges and wakes (R198, R201, R327) -/

theorem onEnc_get_self (m : Mach) (n : Fin 4) (f : Encoder → Encoder) : (m.onEnc n f).enc.get n = f (m.enc.get n) := by
  rw [onEnc_enc, vmod_get_self]

theorem onEnc_get_ne (m : Mach) {n k : Fin 4} (f : Encoder → Encoder) (h : k ≠ n) : (m.onEnc n f).enc.get k = m.enc.get k := by
  rw [onEnc_enc, vmod_get_ne _ _ h]

/-- The lines of an encoder, as an edge leaves them. -/
def linesTo (n : Fin 4) (a b : Bool) (m : Mach) : Mach := m.onEnc n fun x => { x with a := a, b := b }

/-- The count moves by d, stamped (R198). -/
def countBy (n : Fin 4) (d : Int) (m : Mach) : Mach := m.onEnc n fun x => { x with count := x.count + d, e := m.encStamp n }

section
variable (n : Fin 4) (a b : Bool) (m : Mach)

/-- The levels after SWAP. -/
def lineA : Bool := if m.on (R.MOT_ENC_CTRL_SWAP n) then b else a
def lineB : Bool := if m.on (R.MOT_ENC_CTRL_SWAP n) then a else b

theorem encEdge_eq :
    encEdge n a b m =
      if !m.on (R.MOT_ENC_CTRL_EN n) || m.sleep.state == 3 then m.linesTo n (m.lineA n a b) (m.lineB n a b)
      else
        match quadStep (m.enc.get n).a (m.enc.get n).b (m.lineA n a b) (m.lineB n a b) with
        | some d => ((((m.linesTo n (m.lineA n a b) (m.lineB n a b)).onEnc n fun x =>
            { x with count := x.count + d, e := m.encStamp n }).markReached n).markTrig n).encWake n
        | none =>
          if (m.enc.get n).a ≠ m.lineA n a b ∧ (m.enc.get n).b ≠ m.lineB n a b then
            (((m.linesTo n (m.lineA n a b) (m.lineB n a b)).inc (R.MOT_ENC_QERR n)).set1 (R.MOT_ENC_STAT_QERR n)).health H.qerr (.encoder n) []
          else m.linesTo n (m.lineA n a b) (m.lineB n a b) := by
  unfold encEdge lineA lineB linesTo
  by_cases h : m.on (R.MOT_ENC_CTRL_SWAP n) = true
  · simp only [h, if_true] <;> rfl
  · simp only [h] <;> rfl

end

theorem quadStep_same (a b : Bool) : quadStep a b a b = none := by cases a <;> cases b <;> rfl

theorem quadStep_one {a b a' b' : Bool} (h : (a' ≠ a ∧ b' = b) ∨ (a' = a ∧ b' ≠ b)) :
    quadStep a b a' b' = some (if a' ≠ a then (if a' = b then -1 else 1) else (if b' = a then 1 else -1)) := by
  revert h; cases a <;> cases b <;> cases a' <;> cases b' <;> decide

theorem quadStep_both {a b a' b' : Bool} (ha : a' ≠ a) (hb : b' ≠ b) : quadStep a b a' b' = none := by
  revert ha hb; cases a <;> cases b <;> cases a' <;> cases b' <;> decide

/-- A wake without a reset leaves every encoder as it is. -/
theorem wake_enc {source unit : Nat} {m : Mach} (h2 : source ≠ 2) (h3 : m.sleep.state ≠ 3) : (m.wake source unit).enc = m.enc := by
  unfold wake
  rw [if_neg h3, if_neg h2]
  by_cases he : m.sleep.state = 0 ∧ m.sleep.entering.isSome ∧ !m.sleep.goS3 ∧ 1 ≤ source ∧ source ≤ 7 ∧ m.wakeUnitOk source unit
  · rw [if_pos he]
    exact (abandonEntry_within m).keeps .enc
  · rw [if_neg he]
    by_cases hn : !wakesFrom source m.sleep.state || !m.wakeUnitOk source unit
    · rw [if_pos hn]
    · rw [if_neg hn]
      exact ((wakeS2_within _).keeps .enc).trans ((recordWake_within source unit m).keeps .enc)

/-- Encoder motion outside S3 wakes from S2 at most, so no encoder changes. -/
theorem encWake_enc (n : Fin 4) (m : Mach) (h : m.sleep.state ≠ 3) : (m.encWake n).enc = m.enc := by
  unfold encWake
  split
  · rfl
  · split
    · exact onSleep_enc m _
    · exact wake_enc (by decide) h

theorem encWake_calm (n : Fin 4) (m : Mach)
    (h : m.on (R.MOT_ENC_CTRL_WAKE_EN n) = false ∨ (m.sleep.state = 0 ∧ m.sleep.entering = none)) : OnlyIn [.sleep] m (m.encWake n) := by
  unfold encWake
  by_cases hw : m.on (R.MOT_ENC_CTRL_WAKE_EN n) = true
  · obtain ⟨hs, he⟩ := h.resolve_left (by simp [hw])
    rw [if_neg (by simp [hw]), if_pos ⟨hs, by simp [he]⟩]
    exact OnlyIn.onSleep m _
  · rw [if_pos (by simpa using hw)]
    exact OnlyIn.refl _ m

theorem wakeUnitOk_encoder {n : Fin 4} {m : Mach} (he : m.on (R.MOT_ENC_CTRL_EN n) = true) (hw : m.on (R.MOT_ENC_CTRL_WAKE_EN n) = true) :
    m.wakeUnitOk 6 n = true := by
  simp [wakeUnitOk, he, hw, n.2]

theorem encWake_wakes {n : Fin 4} {m : Mach} (he : m.on (R.MOT_ENC_CTRL_EN n) = true) (hw : m.on (R.MOT_ENC_CTRL_WAKE_EN n) = true)
    (hs : m.sleep.state = 2) : (m.encWake n).sleep.state = 0 := by
  unfold encWake wake
  rw [if_neg (by simp [hw]), if_neg (by simp [hs]), if_neg (by simp [hs]), if_neg (by simp [wakeUnitOk_encoder he hw, wakesFrom, hs])]
  extract_lets m1
  rw [if_neg (by simp [hs]), if_neg (by decide)]
  exact congrArg Sleep.state ((wakeS2_restarted m1).parts .sleep (by decide))

theorem encWake_abandons {n : Fin 4} {m : Mach} (he : m.on (R.MOT_ENC_CTRL_EN n) = true) (hw : m.on (R.MOT_ENC_CTRL_WAKE_EN n) = true)
    (hs : m.sleep.state = 0) (hg : m.sleep.goS3 = false) : (m.encWake n).sleep.entering = none := by
  unfold encWake
  rw [if_neg (by simp [hw])]
  split
  · case isTrue h => simpa using h.2
  · case isFalse h =>
    unfold wake
    rw [if_pos ⟨hs, by simpa [hs, Option.isSome_iff_ne_none] using h, by simp [hg], by decide, by decide, wakeUnitOk_encoder he hw⟩]
    rfl

/-- A counted edge: the state before the wake that it may be. -/
def counted (n : Fin 4) (a b : Bool) (d : Int) (m : Mach) : Mach :=
  (((m.linesTo n a b).onEnc n fun x => { x with count := x.count + d, e := m.encStamp n }).markReached n).markTrig n

section
variable (n : Fin 4) (a b : Bool) (d : Int) (m : Mach)

theorem counted_within : Within [.enc, .jnl, .time] m (m.counted n a b d) :=
  (markTrig_within _ _).after <| (markReached_within _ _).after <| (onEnc_within _ _ _).after <| (onEnc_within _ _ _).after <| .refl _ _

theorem counted_enc : (m.counted n a b d).enc =
    ((m.linesTo n a b).onEnc n fun x => { x with count := x.count + d, e := m.encStamp n }).enc :=
  ((markTrig_within _ _).keeps .enc).trans ((markReached_within _ _).keeps .enc)

theorem counted_get_self : (m.counted n a b d).enc.get n =
    { m.enc.get n with a := a, b := b, count := (m.enc.get n).count + d, e := m.encStamp n } := by
  rw [counted_enc, onEnc_get_self, linesTo, onEnc_get_self]

theorem counted_get_ne {k : Fin 4} (h : k ≠ n) : (m.counted n a b d).enc.get k = m.enc.get k := by
  rw [counted_enc, onEnc_get_ne _ _ h, linesTo, onEnc_get_ne _ _ h]

theorem counted_on (f : Fld) : (m.counted n a b d).on f = m.on f := by
  unfold on g rd; rw [(counted_within n a b d m).keeps .regs]

end

theorem encEdge_still {n : Fin 4} {a b : Bool} {m : Mach}
    (h : m.on (R.MOT_ENC_CTRL_EN n) = false ∨ m.sleep.state = 3 ∨ (m.lineA n a b = (m.enc.get n).a ∧ m.lineB n a b = (m.enc.get n).b)) :
    encEdge n a b m = m.linesTo n (m.lineA n a b) (m.lineB n a b) := by
  rw [encEdge_eq]
  rcases h with h | h | ⟨ha, hb⟩
  · rw [if_pos (by simp [h])]
  · rw [if_pos (by simp [h])]
  · split
    · rfl
    · rw [ha, hb, quadStep_same]
      simp

theorem encEdge_counts {n : Fin 4} {a b : Bool} {d : Int} {m : Mach} (he : m.on (R.MOT_ENC_CTRL_EN n) = true) (hs : m.sleep.state ≠ 3)
    (hd : quadStep (m.enc.get n).a (m.enc.get n).b (m.lineA n a b) (m.lineB n a b) = some d) :
    encEdge n a b m = (m.counted n (m.lineA n a b) (m.lineB n a b) d).encWake n := by
  rw [encEdge_eq, if_neg (by simp [he, hs]), hd]; rfl

/-- Both lines changed in one sample: the error is counted, set and reported (R198). -/
def quadError (n : Fin 4) (a b : Bool) (m : Mach) : Mach :=
  (((m.linesTo n a b).inc (R.MOT_ENC_QERR n)).set1 (R.MOT_ENC_STAT_QERR n)).health H.qerr (.encoder n) []

theorem encEdge_errs {n : Fin 4} {a b : Bool} {m : Mach} (he : m.on (R.MOT_ENC_CTRL_EN n) = true) (hs : m.sleep.state ≠ 3)
    (ha : m.lineA n a b ≠ (m.enc.get n).a) (hb : m.lineB n a b ≠ (m.enc.get n).b) :
    encEdge n a b m = m.quadError n (m.lineA n a b) (m.lineB n a b) := by
  rw [encEdge_eq, if_neg (by simp [he, hs]), quadStep_both ha hb]
  simp only [ne_eq, ha.symm, hb.symm, not_false_eq_true, and_self, if_true]
  rfl

section
variable (n : Fin 4) (a b : Bool) (m : Mach)

theorem quadError_within : Within [.enc, .jnl, .regs, .tick, .cache] m (m.quadError n a b) :=
  (health_within _ _ _ _).after <| (set1_within _ _).after <| (inc_within _ _).after <| (onEnc_within _ _ _).after <| .refl _ _

theorem quadError_enc : (m.quadError n a b).enc = (m.linesTo n a b).enc := (health_within _ _ _ _).keeps .enc

theorem quadError_qerr : (m.quadError n a b).g (R.MOT_ENC_QERR n) = (m.g (R.MOT_ENC_QERR n) + 1) % 2 ^ 32 := by
  unfold quadError
  rw [(health_recOnly _ _ _ _).g _ (by simp only [R.MOT_ENC_QERR]; omega), g_set1_ne _ _ _ (by simp only [R.MOT_ENC_QERR, R.MOT_ENC_STAT_QERR]; omega),
    g_inc_word _ _ rfl rfl]
  rfl

theorem quadError_stat : (m.quadError n a b).g (R.MOT_ENC_STAT_QERR n) = 1 := by
  unfold quadError
  rw [(health_recOnly _ _ _ _).g _ (by simp only [R.MOT_ENC_STAT_QERR]; omega), g_set1 _ _ rfl (by simp only [R.MOT_ENC_STAT_QERR]; decide)]

end

/-! ## Encoders: index and capture (R199, R200) -/

theorem encIndex_idle {n : Fin 4} {r : Bool} {m : Mach}
    (h : m.on (R.MOT_ENC_CTRL_EN n) = false ∨ m.sleep.state = 3 ∨ r = m.on (R.MOT_ENC_CTRL_IDX_POL n)) : encIndex n r m = m := by
  unfold encIndex
  rw [if_pos (by rcases h with h | h | h <;> simp [h])]

/-- An index taken, before IDX_COUNT and a possible IDX_ERR. -/
def indexed (n : Fin 4) (m : Mach) : Mach :=
  m.onEnc n fun x => { x with
    idx := some ((m.enc.get n).count, m.encStamp n)
    idxLog := x.idxLog ++ [(m.encStamp n, (m.acct? m.tick.tn).bind fun a => if a.joins && decide (m.encStamp n < a.start) then some a.tn else none)] }

theorem encIndex_taken {n : Fin 4} {r : Bool} {m : Mach} (he : m.on (R.MOT_ENC_CTRL_EN n) = true) (hs : m.sleep.state ≠ 3)
    (hr : r ≠ m.on (R.MOT_ENC_CTRL_IDX_POL n)) :
    encIndex n r m = (m.indexed n).inc (R.MOT_ENC_IDX_COUNT n) ∨
      encIndex n r m = ((m.indexed n).inc (R.MOT_ENC_IDX_COUNT n)).inc (R.MOT_ENC_IDX_ERR n) := by
  unfold encIndex
  rw [if_neg (by simp [he, hs, hr])]
  extract_lets e per stamp joined bad m1
  clear_value bad
  cases bad
  · exact .inl rfl
  · exact .inr rfl

theorem trimCaps_head (room : Nat) (h : 0 < room) (c : Capture) (r : List Capture) :
    ∃ x ∈ (trimCaps room (c :: r)).head?, x.last = c.last ∧ x.p = c.p ∧ x.e = c.e := by
  obtain ⟨k, rfl⟩ := Nat.exists_eq_succ_of_ne_zero h.ne'
  rw [trimCaps.eq_3 _ _ _ (by omega)]
  split
  · exact ⟨c, rfl, rfl, rfl, rfl⟩
  · exact ⟨_, rfl, rfl, rfl, rfl⟩

end Mach

/-- The newest capture holds the count and stamp of the encoder at its instant. -/
theorem Encoder.capture_head (first last : Int) (mark : Option (Int × Int)) (e : Encoder) :
    ∃ c ∈ (e.capture first last mark).caps.head?, c.last = last ∧ c.p = e.count ∧ c.e = e.e := by
  unfold Encoder.capture
  dsimp only
  split
  · exact Mach.trimCaps_head 4096 (by decide) _ _
  · rename_i h r _
    split
    · case isTrue hm =>
      obtain ⟨x, hx, hl, hp, he⟩ := Mach.trimCaps_head 4096 (by decide) { h with last := last } r
      exact ⟨x, hx, hl, hp.trans hm.2.1, he.trans hm.2.2.1⟩
    · exact Mach.trimCaps_head 4096 (by decide) _ _

namespace Mach

/-- A staged REBASE or RESCALE keeps the captures. -/
theorem applyValueSet_caps (n k : Fin 4) (s : Int) (m : Mach) : ((m.applyValueSet n s).enc.get k).caps = (m.enc.get k).caps := by
  have h : ∀ base cpm, ((m.onEnc n fun e => e.rebased s base cpm).enc.get k).caps = (m.enc.get k).caps := fun base cpm => by
    rw [onEnc_enc, vmod_get]
    split
    · subst k; rfl
    · rfl
  unfold applyValueSet
  dsimp only
  split
  · rw [show _ = _ from (markReached_within _ _).keeps .enc, show _ = _ from (encoderLost_within _ _).keeps .enc, h]
  · split
    · rw [show _ = _ from (markReached_within _ _).keeps .enc, h]
    · rfl

/-- One encoder of a capture takes its count and stamp, and no other encoder's captures change. -/
theorem captureOne_caps (n k : Fin 4) (first last : Int) (mark : Option (Int × Int)) (m : Mach) :
    (((m.onEnc n fun e => e.capture first last mark).applyValueSet n first).enc.get k).caps =
      if k = n then ((m.enc.get n).capture first last mark).caps else (m.enc.get k).caps := by
  rw [applyValueSet_caps, onEnc_enc, vmod_get]
  split
  · subst k; rfl
  · rfl

/-- The state after an encoder's capture: its newest capture has the given instant, count and stamp. -/
def Captured (k : Fin 4) (last p e : Int) (m : Mach) : Prop :=
  ∃ c ∈ (m.enc.get k).caps.head?, c.last = last ∧ c.p = p ∧ c.e = e

theorem captureOne_clockOnly (n : Fin 4) (first last : Int) (mark : Option (Int × Int)) (m : Mach) :
    ClockOnly m ((m.onEnc n fun e => e.capture first last mark).applyValueSet n first) :=
  (ClockOnly.onEnc m n _ fun e => capture_same e first last mark).trans (applyValueSet_clockOnly n first _)

/-- A capture of the encoders in a list captures each of them. -/
theorem captureList_captured {k : Fin 4} {first last p e : Int} {mark : Option (Int × Int)} (xs : List (Fin 4)) :
    ∀ m : Mach, (m.enc.get k).count = p → (m.enc.get k).e = e → (k ∈ xs ∨ m.Captured k last p e) →
      (forEach xs (fun (n : Fin 4) t => (t.onEnc n fun x => x.capture first last mark).applyValueSet n first) m).Captured k last p e := by
  induction xs with
  | nil => exact fun m _ _ h => h.resolve_left (by simp)
  | cons n r ih =>
    intro m hp he h
    obtain ⟨hc, -, -, hs⟩ := (captureOne_clockOnly n first last mark m).count k
    refine ih _ (hc.trans hp) (hs.trans he) ?_
    unfold Captured
    rw [captureOne_caps]
    by_cases hk : k = n
    · subst hk
      rw [if_pos rfl]
      obtain ⟨c, hc, h1, h2, h3⟩ := Encoder.capture_head first last mark (m.enc.get k)
      exact .inr ⟨c, hc, h1, h2.trans hp, h3.trans he⟩
    · rw [if_neg hk]
      exact h.imp_left fun h => by simpa [hk] using h

theorem captureAll_captured {k : Fin 4} {m : Mach} (first last : Int) (mark : Option (Int × Int)) (h : m.on (R.MOT_ENC_CTRL_EN k) = true) :
    (m.captureAll first last mark).Captured k last (m.enc.get k).count (m.enc.get k).e :=
  captureList_captured _ m rfl rfl (.inl (by simpa using h))

/-- Running past a whole microsecond captures there (R199). -/
theorem runTo_captured {k : Fin 4} {t : Int} {m : Mach} (h : m.on (R.MOT_ENC_CTRL_EN k) = true) (ht : (m.time.n.fdiv 1000 + 1) * 1000 ≤ t) :
    (m.runTo t).Captured k ((m.runTo t).time.n.fdiv 1000 * 1000) (m.enc.get k).count (m.enc.get k).e := by
  have hr := runTo_reaches m t
  revert hr
  unfold runTo runIncs
  extract_lets m1 first last
  split
  · case isTrue hl =>
    intro hr
    simp only [last, first, Int.fdiv_eq_ediv_of_nonneg _ (show (0 : Int) ≤ 1000 by norm_num)] at hl ht
    omega
  · intro _
    rw [(captureAll_count first last none m1).1]
    exact captureAll_captured first last none h

end Mach

/-! ## O6 and O7 -/

section
variable (s : State) (n : Fin 4) (a b : Bool)

theorem encEdge_idleLines
    (h : s.on (R.MOT_ENC_CTRL_EN n) = false ∨ s.sleep.state = 3 ∨ (s.lineA n a b = (s.enc.get n).a ∧ s.lineB n a b = (s.enc.get n).b)) :
    Does (.encCountEdge n a b) s fun t =>
      t.enc.get n = { s.enc.get n with a := s.lineA n a b, b := s.lineB n a b } ∧ (∀ k, k ≠ n → t.enc.get k = s.enc.get k) ∧
      OnlyIn [.enc] s.toMach t :=
  does_of_act rfl (Mach.encEdge_still h) ⟨Mach.onEnc_get_self _ _ _, fun _ hk => Mach.onEnc_get_ne _ _ hk, OnlyIn.onEnc _ _ _⟩

theorem encEdge_moves (he : s.on (R.MOT_ENC_CTRL_EN n) = true) (hs : s.sleep.state ≠ 3)
    (h : (s.lineA n a b ≠ (s.enc.get n).a ∧ s.lineB n a b = (s.enc.get n).b) ∨ (s.lineA n a b = (s.enc.get n).a ∧ s.lineB n a b ≠ (s.enc.get n).b)) :
    Does (.encCountEdge n a b) s fun t =>
      (t.enc.get n).count = (s.enc.get n).count + (if s.lineA n a b ≠ (s.enc.get n).a then (if s.lineA n a b = (s.enc.get n).b then -1 else 1)
        else (if s.lineB n a b = (s.enc.get n).a then 1 else -1)) ∧
      (t.enc.get n).a = s.lineA n a b ∧ (t.enc.get n).b = s.lineB n a b ∧ (t.enc.get n).e = s.encStamp n ∧
      (∀ k, k ≠ n → t.enc.get k = s.enc.get k) ∧
      (s.on (R.MOT_ENC_CTRL_WAKE_EN n) = false ∨ (s.sleep.state = 0 ∧ s.sleep.entering = none) →
        OnlyIn [.enc, .jnl, .time, .sleep] s.toMach t) ∧
      (s.on (R.MOT_ENC_CTRL_WAKE_EN n) = true → s.sleep.state = 2 → t.sleep.state = 0) ∧
      (s.on (R.MOT_ENC_CTRL_WAKE_EN n) = true → s.sleep.state = 0 → s.sleep.goS3 = false → t.sleep.entering = none) := by
  refine does_of_act rfl (Mach.encEdge_counts he hs (Mach.quadStep_one h)) ?_
  set d : Int := if s.lineA n a b ≠ (s.enc.get n).a then _ else _
  set c := s.counted n (s.lineA n a b) (s.lineB n a b) d with hc
  have hsleep : c.sleep = s.sleep := (Mach.counted_within _ _ _ _ _).keeps .sleep
  have henc : (c.encWake n).enc = c.enc := Mach.encWake_enc n c (by rw [hsleep]; exact hs)
  have hon : ∀ f, c.on f = s.on f := Mach.counted_on n _ _ d s.toMach
  rw [henc, Mach.counted_get_self]
  refine ⟨rfl, rfl, rfl, rfl, fun k hk => Mach.counted_get_ne n _ _ d s.toMach hk, fun h => ?_, fun hw h2 => ?_, fun hw h0 hg => ?_⟩
  · have hcalm := Mach.encWake_calm n c (by rw [hon, hsleep]; exact h)
    exact ((Mach.counted_within n _ _ d s.toMach).parts.append hcalm).mono (by decide)
  · exact Mach.encWake_wakes ((hon _).trans he) ((hon _).trans hw) (by rw [hsleep]; exact h2)
  · exact Mach.encWake_abandons ((hon _).trans he) ((hon _).trans hw) (by rw [hsleep]; exact h0) (by rw [hsleep]; exact hg)

theorem encEdge_errors (he : s.on (R.MOT_ENC_CTRL_EN n) = true) (hs : s.sleep.state ≠ 3)
    (ha : s.lineA n a b ≠ (s.enc.get n).a) (hb : s.lineB n a b ≠ (s.enc.get n).b) :
    Does (.encCountEdge n a b) s fun t =>
      (t.enc.get n).count = (s.enc.get n).count ∧ (t.enc.get n).a = s.lineA n a b ∧ (t.enc.get n).b = s.lineB n a b ∧
      (t.enc.get n).e = (s.enc.get n).e ∧
      t.g (R.MOT_ENC_QERR n) = (s.g (R.MOT_ENC_QERR n) + 1) % 2 ^ 32 ∧ t.g (R.MOT_ENC_STAT_QERR n) = 1 ∧
      (∀ k, k ≠ n → t.enc.get k = s.enc.get k) ∧ OnlyIn [.enc, .jnl, .regs, .tick, .cache] s.toMach t := by
  refine does_of_act rfl (Mach.encEdge_errs he hs ha hb) ?_
  rw [Mach.quadError_enc, Mach.linesTo, Mach.onEnc_get_self]
  exact ⟨rfl, rfl, rfl, rfl, Mach.quadError_qerr _ _ _ _, Mach.quadError_stat _ _ _ _, fun _ hk => Mach.onEnc_get_ne _ _ hk,
    (Mach.quadError_within _ _ _ _).parts⟩

theorem encIndex_takes (r : Bool) (he : s.on (R.MOT_ENC_CTRL_EN n) = true) (hs : s.sleep.state ≠ 3) (hr : r ≠ s.on (R.MOT_ENC_CTRL_IDX_POL n)) :
    Does (.encIndex ⟨n, r⟩) s fun t =>
      (t.enc.get n).count = (s.enc.get n).count ∧ (t.enc.get n).idx = some ((s.enc.get n).count, s.encStamp n) ∧
      t.g (R.MOT_ENC_IDX_COUNT n) = (s.g (R.MOT_ENC_IDX_COUNT n) + 1) % 2 ^ 32 ∧
      (∀ k, k ≠ n → t.enc.get k = s.enc.get k) ∧ OnlyIn [.enc, .regs] s.toMach t := by
  refine does_of_act (f := Mach.encIndex n r) rfl rfl ?_
  have hi : (Mach.encIndex n r s.toMach).enc = (s.indexed n).enc ∧
      (Mach.encIndex n r s.toMach).g (R.MOT_ENC_IDX_COUNT n) = (s.g (R.MOT_ENC_IDX_COUNT n) + 1) % 2 ^ 32 := by
    have hg : ((s.indexed n).inc (R.MOT_ENC_IDX_COUNT n)).g (R.MOT_ENC_IDX_COUNT n) = (s.g (R.MOT_ENC_IDX_COUNT n) + 1) % 2 ^ 32 :=
      Mach.g_inc_word _ _ rfl rfl
    rcases Mach.encIndex_taken he hs hr with h | h <;> rw [h]
    · exact ⟨rfl, hg⟩
    · exact ⟨rfl, (Mach.g_inc_ne _ _ _ (by simp only [R.MOT_ENC_IDX_COUNT, R.MOT_ENC_IDX_ERR]; omega)).trans hg⟩
  rw [hi.1, hi.2, Mach.indexed, Mach.onEnc_get_self]
  exact ⟨rfl, rfl, rfl, fun _ hk => Mach.onEnc_get_ne _ _ hk, (Mach.encIndex_within _ _ _).only⟩

end

/-- Settles O6. -/
theorem encoderEdgesIndexAndCapture : Obligations.EncoderEdgesIndexAndCapture := by
  unfold Obligations.EncoderEdgesIndexAndCapture
  refine ⟨fun s n a b => ⟨encEdge_idleLines s n a b, fun he hs => ⟨encEdge_moves s n a b he hs, encEdge_errors s n a b he hs⟩⟩,
    fun s n r => ⟨fun h => idles_of_act (f := Mach.encIndex n r) rfl (Mach.encIndex_idle h), encIndex_takes s n r, ?_⟩⟩
  exact does_of_act (f := Mach.encCapture) rfl rfl
    ⟨Mach.runTo_reaches _ _, fun he => Mach.runTo_captured he le_rfl, (Mach.encCapture_within _).only⟩

namespace Mach

/-- What the action unit loses of an encoder touches only its own registers. -/
theorem encoderLost_g (n k : Fin 4) (m : Mach) : (m.encoderLost n).g (R.MOT_ENC_CTRL_EN k) = m.g (R.MOT_ENC_CTRL_EN k) := by
  unfold g
  rw [(encoderLost_actOnly n m).regs _ (by simp only [R.MOT_ENC_CTRL_EN]; omega)]

end Mach

/-- EN from 0 to 1: the register, the encoder's new values, and what the action unit loses. -/
theorem motEncEn_enables (s : State) (n : Fin 4) (h : s.on (R.MOT_ENC_CTRL_EN n) = false) :
    Does (.motEncEn n true) s fun t =>
      (t.enc.get n).count = 0 ∧ (t.enc.get n).e = s.time.n ∧ (t.enc.get n).old = none ∧ (t.enc.get n).caps = [] ∧
      (t.enc.get n).set = { cb := 0, base := s.stagedMdb n, cpm := s.stagedCpm n, from? := none } ∧
      t.g (R.MOT_ENC_CTRL_EN n) = 1 ∧ OnlyIn [.enc, .regs, .jnl, .tick, .time, .cache] s.toMach t := by
  refine does_of_act (f := Mach.encEn n true) rfl rfl ?_
  have hen : Mach.encEn n true s.toMach = Mach.encoderLost n ((s.put (R.MOT_ENC_CTRL_EN n) 1).onEnc n fun x =>
      { x with count := 0, e := s.time.n, enabledAt := some s.time.n, caps := [],
               set := { cb := 0, base := s.stagedMdb n, cpm := s.stagedCpm n, from? := none },
               old := none }) := by
    unfold Mach.encEn
    simp only [h, Bool.not_false, and_self, if_true]
    rfl
  have henc : (Mach.encEn n true s.toMach).enc = _ := (congrArg Mach.enc hen).trans ((Mach.encoderLost_within n _).keeps .enc)
  refine ⟨?_, ?_, ?_, ?_, ?_, ?_, (Mach.encEn_within _ _ _).only⟩
  · rw [henc, Mach.onEnc_get_self]
  · rw [henc, Mach.onEnc_get_self]
  · rw [henc, Mach.onEnc_get_self]
  · rw [henc, Mach.onEnc_get_self]
  · rw [henc, Mach.onEnc_get_self]
  · rw [hen, Mach.encoderLost_g, Mach.onEnc_g, Mach.g_put_self _ _ _ le_rfl (by simp only [R.MOT_ENC_CTRL_EN]; omega)]
    rfl

/-- EN written 0: the register, and what the action unit loses of an encoder that was enabled. -/
theorem motEncEn_disables (s : State) (n : Fin 4) :
    Does (.motEncEn n false) s fun t =>
      t.g (R.MOT_ENC_CTRL_EN n) = 0 ∧ t.enc = s.enc ∧ OnlyIn [.regs, .jnl, .tick, .time, .cache] s.toMach t := by
  have hg : (s.put (R.MOT_ENC_CTRL_EN n) 0).g (R.MOT_ENC_CTRL_EN n) = 0 :=
    Mach.g_put_self _ _ _ le_rfl (by simp only [R.MOT_ENC_CTRL_EN]; omega)
  have hw : Mach.encEn n false s.toMach = (s.put (R.MOT_ENC_CTRL_EN n) 0).encoderLost n ∨
      Mach.encEn n false s.toMach = s.put (R.MOT_ENC_CTRL_EN n) 0 := by
    unfold Mach.encEn
    cases s.on (R.MOT_ENC_CTRL_EN n)
    · exact .inr rfl
    · exact .inl rfl
  refine does_of_act (f := Mach.encEn n false) rfl rfl ?_
  rcases hw with h | h <;> rw [h]
  · exact ⟨(Mach.encoderLost_g n _ _).trans hg, (Mach.encoderLost_within n _).keeps .enc,
      ((Mach.encoderLost_within n _).after (l := [.regs, .jnl, .tick, .time, .cache]) (Mach.put_within _ _ _).mono).parts⟩
  · exact ⟨hg, rfl, (Mach.put_within _ _ _).only⟩

/-- Settles O7. -/
theorem encoderEnableAndValueSet : Obligations.EncoderEnableAndValueSet := by
  unfold Obligations.EncoderEnableAndValueSet
  intro s n
  refine ⟨motEncEn_enables s n, motEncEn_disables s n, ?_, ?_⟩
  · exact does_of_act (f := fun m => m.onEnc n fun x => { x with pendRebase := true }) rfl rfl
      ⟨Mach.onEnc_get_self _ _ _, fun _ hk => Mach.onEnc_get_ne _ _ hk, OnlyIn.onEnc _ _ _⟩
  · exact does_of_act (f := fun m => m.onEnc n fun x => { x with pendRescale := true }) rfl rfl
      ⟨Mach.onEnc_get_self _ _ _, fun _ hk => Mach.onEnc_get_ne _ _ hk, OnlyIn.onEnc _ _ _⟩

end Sys2Proof.Machine

namespace Sys2Proof.Machine

set_option Elab.async false

namespace Mach

/-! ## IMU ports (R207, R208, R211) -/

theorem onImu_get_self (m : Mach) (n : Fin 4) (f : Imu → Imu) : (m.onImu n f).imu.get n = f (m.imu.get n) := by
  rw [onImu_imu, vmod_get_self]

theorem onImu_get_ne (m : Mach) {n k : Fin 4} (f : Imu → Imu) (h : k ≠ n) : (m.onImu n f).imu.get k = m.imu.get k := by
  rw [onImu_imu, vmod_get_ne _ _ h]

section
variable {i : Fin 4} {r : Bool} {m : Mach}

theorem imuDrdy_idle (h : m.on (R.MOT_IMU_CTRL_EN i) = false ∨ r = m.on (R.MOT_IMU_CTRL_DRDY_POL i)) : imuDrdy i r m = m := by
  unfold imuDrdy
  rw [if_pos (by rcases h with h | h <;> simp [h])]

/-- The stamp of a DRDY edge accepted now (R208). -/
def drdyStamp (m : Mach) (i : Fin 4) : Int := m.time.n.fdiv 10 * 10 + m.gi (R.MOT_IMU_TIM_DRDY_COMP i)

theorem imuDrdy_edge (he : m.on (R.MOT_IMU_CTRL_EN i) = true) (hr : r ≠ m.on (R.MOT_IMU_CTRL_DRDY_POL i)) :
    imuDrdy i r m =
      if (m.imu.get i).busy then
        ((m.onImu i fun x => { x with lastDrdy := some m.elapsed }).onImu i fun x => { x with missed := x.missed ++ [m.drdyStamp i] }).inc
          (R.MOT_IMU_DRDY_OVR i)
      else
        ((m.onImu i fun x => { x with lastDrdy := some m.elapsed }).onImu i fun x => { x with busy := true, stamp := m.drdyStamp i }).emit
          (.spi i (m.g (R.MOT_IMU_CTRL_SPI_MODE i)) (m.sckDiv i) (m.imuCmd i) (m.g (R.MOT_IMU_XFER_RD_LEN i))) := by
  unfold imuDrdy
  rw [if_neg (by simp [he, hr])]
  rfl

end

/-- What decoding a sample keeps: the port's transfer, and its count of samples. -/
def FedOnly (i : Fin 4) (a b : Mach) : Prop :=
  (b.imu.get i).busy = (a.imu.get i).busy ∧ (b.imu.get i).missed = (a.imu.get i).missed ∧ b.g (R.MOT_IMU_SAMPLES i) = a.g (R.MOT_IMU_SAMPLES i)

theorem FedOnly.trans {i : Fin 4} {a b c : Mach} (h1 : FedOnly i a b) (h2 : FedOnly i b c) : FedOnly i a c :=
  ⟨h2.1.trans h1.1, h2.2.1.trans h1.2.1, h2.2.2.trans h1.2.2⟩

theorem FedOnly.of_parts {i : Fin 4} {l : List Part} {a b : Mach} (h : Within l a b) (hi : Part.imu ∉ l := by decide) (hr : Part.regs ∉ l := by decide) :
    FedOnly i a b := by
  have himu : b.imu = a.imu := h.parts .imu hi
  have hregs : b.regs = a.regs := h.parts .regs hr
  unfold FedOnly g rd
  rw [himu, hregs]
  exact ⟨rfl, rfl, rfl⟩

theorem FedOnly.put {i : Fin 4} {a b : Mach} (h : FedOnly i a b) (f : Fld) (v : Nat) (hf : f.a ≠ (R.MOT_IMU_SAMPLES i).a) : FedOnly i a (b.put f v) :=
  h.trans ⟨rfl, rfl, g_put_ne _ _ _ _ hf.symm⟩

theorem imuFeed_fedOnly (i : Fin 4) (vals : List Int) (stamp : Int) (fill : Bool) (m : Mach) : FedOnly i m (imuFeed i vals stamp fill m) := by
  unfold imuFeed
  refine forEach_keeps (FedOnly i m) _ _ (fun k t ht => ?_) m ⟨rfl, rfl, rfl⟩
  dsimp only
  split
  · generalize ((t.imu.get i).chans.get k).feed _ _ _ _ = fed
    obtain ⟨c, sats, out⟩ := fed
    have h0 : FedOnly i t (t.onImu i fun x => { x with chans := vput x.chans k c }) := by
      unfold FedOnly
      rw [onImu_get_self]
      exact ⟨rfl, rfl, rfl⟩
    have h1 : FedOnly i m (match out with
        | some y => (t.onImu i fun x => { x with chans := vput x.chans k c }).vibFeed i k y
        | none => t.onImu i fun x => { x with chans := vput x.chans k c }) := by
      cases out with
      | none => exact ht.trans h0
      | some y => exact (ht.trans h0).trans (.of_parts (vibFeed_within i k y _))
    dsimp only
    split
    · exact h1
    · exact (h1.put (R.MOT_IMU_SAT i) _ (by simp only [R.MOT_IMU_SAT, R.MOT_IMU_SAMPLES]; omega)).put (R.MOT_IMU_STAT_SAT i) _
        (by simp only [R.MOT_IMU_STAT_SAT, R.MOT_IMU_SAMPLES]; omega)
  · exact ht

/-- The four RAW words are not the count of samples. -/
theorem imuRaw_fedOnly (i : Fin 4) (w : Nat → Word) (m : Mach) :
    FedOnly i m (forEach (List.range 4) (fun k t => t.wr (R.MOT_IMU_RAW_A i k) (w k)) m) := by
  have key : ∀ xs : List Nat, (∀ k ∈ xs, k < 4) → ∀ t, FedOnly i m t → FedOnly i m (forEach xs (fun k t => t.wr (R.MOT_IMU_RAW_A i k) (w k)) t) := by
    intro xs
    induction xs with
    | nil => exact fun _ _ h => h
    | cons k r ih =>
      intro hk t h
      have hlt := hk k (by simp)
      refine ih (fun j hj => hk j (by simp [hj])) _ (h.trans ⟨rfl, rfl, ?_⟩)
      unfold g
      rw [rd_wr_ne _ _ (by simp only [R.MOT_IMU_SAMPLES, R.MOT_IMU_RAW_A]; omega)]
  exact key _ (fun k hk => by simpa using hk) m ⟨rfl, rfl, rfl⟩

/-- A transfer that ends: the port is idle, its missed edges are used, and the sample counts. -/
theorem imuDone_ends {i : Fin 4} {bytes : List Byte} {m : Mach} (h : (m.imu.get i).busy = true) :
    ((imuDone i bytes m).imu.get i).busy = false ∧ ((imuDone i bytes m).imu.get i).missed = [] ∧
      (imuDone i bytes m).g (R.MOT_IMU_SAMPLES i) = (m.g (R.MOT_IMU_SAMPLES i) + 1) % 2 ^ 32 := by
  unfold imuDone
  extract_lets x kept vals m1 m2
  rw [if_neg (by simp [x, h])]
  have h1 : (m1.imu.get i).busy = false ∧ (m1.imu.get i).missed = [] := by
    show ((m.onImu i _).imu.get i).busy = _ ∧ ((m.onImu i _).imu.get i).missed = _
    rw [onImu_get_self]
    exact ⟨rfl, rfl⟩
  have hg : m1.g (R.MOT_IMU_SAMPLES i) = (m.g (R.MOT_IMU_SAMPLES i) + 1) % 2 ^ 32 := g_inc_word _ _ rfl rfl
  obtain ⟨hb, hm, hs⟩ : FedOnly i m1 (forEach x.missed (fun s t => t.imuFeed i vals s true) (m2.imuFeed i vals x.stamp false)) :=
    ((imuRaw_fedOnly i _ m1).trans (imuFeed_fedOnly i vals x.stamp false m2)).trans
      (forEach_keeps (FedOnly i _) _ _ (fun s t ht => ht.trans (imuFeed_fedOnly i vals s true t)) _ ⟨rfl, rfl, rfl⟩)
  exact ⟨hb.trans h1.1, hm.trans h1.2, hs.trans hg⟩

/-- A timeout: the filters are empty, TMO counts and its bit is set. -/
theorem imuTimeout_empties {i : Fin 4} {m : Mach} (h : m.on (R.MOT_IMU_CTRL_EN i) = true) :
    ((imuTimeout i m).imu.get i).chans = Vector.replicate 8 {} ∧ (imuTimeout i m).g (R.MOT_IMU_STAT_TMO i) = 1 ∧
      (imuTimeout i m).g (R.MOT_IMU_TMO i) = (m.g (R.MOT_IMU_TMO i) + 1) % 2 ^ 32 ∧
      ∀ k, k ≠ i → (imuTimeout i m).imu.get k = m.imu.get k := by
  unfold imuTimeout
  rw [if_neg (by simp [h])]
  extract_lets due m1 m2
  have himu : ((m2.vibZero i).health H.imuTmo (.imu i) []).imu = m2.imu :=
    ((health_within _ _ _ _).keeps .imu).trans ((vibZero_within i m2).keeps .imu)
  have hg : ∀ f : Fld, ¬ (0x1E0000 ≤ f.a ∧ f.a < 0x200000) → ((m2.vibZero i).health H.imuTmo (.imu i) []).g f = m2.g f := fun f hf => by
    rw [(health_recOnly _ _ _ _).g f hf]
    unfold g rd
    rw [show (m2.vibZero i).regs = m2.regs from (vibZero_within i m2).keeps .regs]
  have hc := runToElapsed_clockOnly due m
  rw [himu, hg _ (by simp only [R.MOT_IMU_STAT_TMO]; omega), hg _ (by simp only [R.MOT_IMU_TMO]; omega)]
  refine ⟨?_, g_set1 _ _ rfl (by simp only [R.MOT_IMU_STAT_TMO]; omega), ?_, fun k hk => ?_⟩
  · show ((m1.onImu i _).imu.get i).chans = _
    rw [onImu_get_self]
  · rw [g_set1_ne _ _ _ (by simp only [R.MOT_IMU_TMO, R.MOT_IMU_STAT_TMO]; omega), g_inc_word _ _ rfl rfl]
    show (m1.g _ + 1) % _ = _
    rw [hc.g _ (by simp only [R.MOT_IMU_TMO]; omega)]
  · show (m1.onImu i _).imu.get k = _
    rw [onImu_get_ne _ _ hk, show m1.imu = m.imu from hc.parts .imu (by decide)]

/-- The shapes of a transfer that EN refuses (R207). -/
def imuIllegal (m : Mach) (n : Fin 4) : Prop :=
  m.g (R.MOT_IMU_XFER_RD_LEN n) < m.g (R.MOT_IMU_XFER_SKIP n) + 2 ∨
    (m.g (R.MOT_IMU_XFER_RD_LEN n) - m.g (R.MOT_IMU_XFER_SKIP n)) % 2 = 1 ∨
    16 < m.g (R.MOT_IMU_XFER_RD_LEN n) - m.g (R.MOT_IMU_XFER_SKIP n) ∨ 8 < m.g (R.MOT_IMU_XFER_CMD_LEN n)

theorem imuEn_of_illegal {i : Fin 4} {m : Mach} (h : m.imuIllegal i) : imuEn i true m = m.set1 (R.MOT_IMU_STAT_CFG_WR i) := by
  unfold imuEn
  rw [if_neg (by simp)]
  extract_lets rd skip
  rw [if_pos]
  exact h

theorem imuEn_of_legal {i : Fin 4} {m : Mach} (h : ¬ m.imuIllegal i) :
    imuEn i true m = ((m.set1 (R.MOT_IMU_CTRL_EN i)).vibZero i).onImu i fun _ => { lastDrdy := some m.elapsed } := by
  unfold imuEn
  rw [if_neg (by simp)]
  extract_lets rd skip
  rw [if_neg]
  exact h

end Mach

/-- A DRDY edge of the selected direction on an idle port starts its transfer. -/
theorem imuDrdy_starts {s : State} {n : Fin 4} {r : Bool} (he : s.on (R.MOT_IMU_CTRL_EN n) = true) (hr : r ≠ s.on (R.MOT_IMU_CTRL_DRDY_POL n))
    (hb : (s.imu.get n).busy = false) :
    Does (.imuDrdy ⟨n, r⟩) s fun t =>
      (t.imu.get n).busy = true ∧ (t.imu.get n).stamp = s.drdyStamp n ∧ (t.imu.get n).chans = (s.imu.get n).chans ∧
      t.out = .spi n (s.g (R.MOT_IMU_CTRL_SPI_MODE n)) (max 29 (s.g (R.MOT_IMU_CTRL_SCK_DIV n))) (s.imuCmd n) (s.g (R.MOT_IMU_XFER_RD_LEN n)) :: s.out ∧
      (∀ k, k ≠ n → t.imu.get k = s.imu.get k) ∧ OnlyIn [.imu, .out] s.toMach t := by
  refine does_of_act rfl ((Mach.imuDrdy_edge he hr).trans (if_neg (by simp [hb]))) ?_
  rw [Mach.emit_imu, Mach.onImu_get_self, Mach.onImu_get_self]
  exact ⟨rfl, rfl, rfl, rfl, fun k hk => by rw [Mach.onImu_get_ne _ _ hk, Mach.onImu_get_ne _ _ hk],
    ((Mach.emit_within _ _).after (l := [.imu, .out]) ((Mach.onImu_within _ _ _).after ((Mach.onImu_within _ _ _).mono))).parts⟩

/-- A DRDY edge while a transfer runs is a missed sample. -/
theorem imuDrdy_misses {s : State} {n : Fin 4} {r : Bool} (he : s.on (R.MOT_IMU_CTRL_EN n) = true) (hr : r ≠ s.on (R.MOT_IMU_CTRL_DRDY_POL n))
    (hb : (s.imu.get n).busy = true) :
    Does (.imuDrdy ⟨n, r⟩) s fun t =>
      (t.imu.get n).missed = (s.imu.get n).missed ++ [s.drdyStamp n] ∧ (t.imu.get n).busy = true ∧
      t.g (R.MOT_IMU_DRDY_OVR n) = (s.g (R.MOT_IMU_DRDY_OVR n) + 1) % 2 ^ 32 ∧ OnlyIn [.imu, .regs] s.toMach t := by
  refine does_of_act rfl ((Mach.imuDrdy_edge he hr).trans (if_pos hb)) ?_
  rw [Mach.inc_imu, Mach.onImu_get_self, Mach.onImu_get_self]
  exact ⟨rfl, hb, Mach.g_inc_word _ _ rfl rfl,
    ((Mach.inc_within _ _).after (l := [.imu, .regs]) ((Mach.onImu_within _ _ _).after ((Mach.onImu_within _ _ _).mono))).parts⟩

section
variable (s : State) (n : Fin 4)

theorem imuEn_refuses (h : s.imuIllegal n) :
    Does (.motImuEn n true) s fun t =>
      t.g (R.MOT_IMU_STAT_CFG_WR n) = 1 ∧ t.g (R.MOT_IMU_CTRL_EN n) = s.g (R.MOT_IMU_CTRL_EN n) ∧ OnlyIn [.regs] s.toMach t := by
  exact does_of_act (f := Mach.imuEn n true) rfl (Mach.imuEn_of_illegal h) ⟨Mach.g_set1 _ _ rfl (by simp only [R.MOT_IMU_STAT_CFG_WR]; omega),
    Mach.g_set1_ne _ _ _ (by simp only [R.MOT_IMU_CTRL_EN, R.MOT_IMU_STAT_CFG_WR]; omega), OnlyIn.set1 _ _⟩

theorem imuEn_enables (h : ¬ s.imuIllegal n) :
    Does (.motImuEn n true) s fun t =>
      t.g (R.MOT_IMU_CTRL_EN n) = 1 ∧ (t.imu.get n).chans = Vector.replicate 8 {} ∧ (t.imu.get n).busy = false ∧
      OnlyIn [.regs, .imu, .fus] s.toMach t := by
  refine does_of_act (f := Mach.imuEn n true) rfl (Mach.imuEn_of_legal h) ?_
  rw [Mach.onImu_get_self]
  refine ⟨?_, rfl, rfl, ((Mach.onImu_within _ _ _).after (l := [.regs, .imu, .fus]) ((Mach.vibZero_within _ _).after ((Mach.set1_within _ _).mono))).parts⟩
  show ((s.set1 (R.MOT_IMU_CTRL_EN n)).vibZero n).g _ = 1
  unfold Mach.g Mach.rd
  rw [show ((s.set1 (R.MOT_IMU_CTRL_EN n)).vibZero n).regs = _ from (Mach.vibZero_within _ _).keeps .regs]
  exact Mach.g_set1 _ _ rfl (by simp only [R.MOT_IMU_CTRL_EN]; omega)

theorem imuEn_disables :
    Does (.motImuEn n false) s fun t => t.g (R.MOT_IMU_CTRL_EN n) = 0 ∧ (t.imu.get n).busy = false ∧ OnlyIn [.regs, .imu] s.toMach t := by
  refine does_of_act (f := Mach.imuEn n false) (t := (s.clr (R.MOT_IMU_CTRL_EN n)).onImu n fun x => { x with busy := false, missed := [] }) rfl rfl ?_
  rw [Mach.onImu_get_self]
  exact ⟨(Mach.onImu_g _ _ _ _).trans (Mach.g_clr _ _ le_rfl (by simp only [R.MOT_IMU_CTRL_EN]; omega)), rfl,
    ((Mach.onImu_within _ _ _).after (l := [.regs, .imu]) ((Mach.clr_within _ _).mono)).parts⟩

end

/-- Settles O9. -/
theorem imuPortCommands : Obligations.ImuPortCommands := by
  unfold Obligations.ImuPortCommands
  intro s n bytes r stamp rdLen skip illegal
  have hill : illegal = true ↔ s.imuIllegal n := by simp only [illegal, decide_eq_true_eq]; rfl
  refine ⟨fun h => idles_of_act (f := Mach.imuDrdy n r) rfl (Mach.imuDrdy_idle h), imuDrdy_starts, imuDrdy_misses, fun h => ?_, fun h => ?_,
    fun h => imuEn_refuses s n (hill.1 h), fun h => imuEn_enables s n (fun hi => by simp [hill.2 hi] at h), imuEn_disables s n⟩
  · obtain ⟨hb, hm, hs⟩ := Mach.imuDone_ends (bytes := bytes) h
    exact does_of_act (f := Mach.imuDone n bytes) rfl rfl ⟨hb, hm, hs, (Mach.imuDone_within _ _ _).only⟩
  · exact does_of_act (f := Mach.imuTimeout n) rfl rfl (Mach.imuTimeout_empties h)

end Sys2Proof.Machine

namespace Sys2Proof.Machine

set_option Elab.async false

namespace Mach

/-! ## Ports and their settings in force (R85) -/

theorem onPort_get_self (m : Mach) (p : Fin 16) (f : Port → Port) : (m.onPort p f).port.get p = f (m.port.get p) := by
  rw [onPort_port, vmod_get_self]

theorem onPort_get_ne (m : Mach) {p q : Fin 16} (f : Port → Port) (h : q ≠ p) : (m.onPort p f).port.get q = m.port.get q := by
  rw [onPort_port, vmod_get_ne _ _ h]

theorem forEach_wr_rd (l : Tab Word) {a b : Mach} {off : Nat} (h : b.rd off = a.rd off) :
    (forEach l (fun e t => t.wr e.1 e.2) b).rd off = (forEach l (fun e t => t.wr e.1 e.2) a).rd off := by
  unfold forEach
  induction l generalizing a b with
  | nil => exact h
  | cons e r ih => exact ih (by rw [rd_wr, rd_wr, h])

/-- The settings in force depend on the port's saved words and the registers alone. -/
theorem settings_g {a b : Mach} {p : Fin 16} {f : Fld} (hp : (b.port.get p).inForce = (a.port.get p).inForce) (h : b.rd f.a = a.rd f.a) :
    (b.settings p).g f = (a.settings p).g f := by
  unfold g settings
  rw [hp, forEach_wr_rd _ h]

theorem settings_g_of_clock {a b : Mach} (h : ClockOnly a b) (p : Fin 16) (f : Fld) (hf : ¬ (0x1E0000 ≤ f.a ∧ f.a < 0x200000)) :
    (b.settings p).g f = (a.settings p).g f :=
  settings_g (by rw [show b.port = a.port from h.parts .port (by decide)]) (h.regs _ hf)

theorem g64_put64_ne (m : Mach) {lo hi l h : Nat} (v : Int) (hl : l ≠ lo ∧ l ≠ hi) (hh : h ≠ lo ∧ h ≠ hi) :
    (m.put64 lo hi v).g64 l h = m.g64 l h := by
  unfold g64
  rw [rd_put64_ne m v hl.1 hl.2, rd_put64_ne m v hh.1 hh.2]

/-! ## Sync edges and the fit (R71 to R74) -/

theorem syncEdge_idle {p : Fin 16} {m : Mach} (h : m.on (R.ING_CTRL_SYNC_EN p) = false ∨ (m.settings p).syncOk p = false) : syncEdge p m = m := by
  unfold syncEdge
  rw [if_neg (by rcases h with h | h <;> simp [h])]

theorem syncEdge_fires {p : Fin 16} {m : Mach} (h : m.on (R.ING_CTRL_SYNC_EN p) = true) (hok : (m.settings p).syncOk p = true) :
    syncEdge p m = (m.runTo (m.syncDue p)).syncFire p (m.syncDue p) := by
  unfold syncEdge
  rw [if_pos (by simp [h, hok])]

/-- The edge that is driven, seen from the port. -/
theorem syncFire_port (p : Fin 16) (d : Int) (m : Mach) :
    ∃ older, (m.syncFire p d).port.get p =
      { m.port.get p with
        edges := { s := m.time.n + (m.settings p).gi (R.ING_SYNC_WIN_SYNC_COMP p), t := m.elapsed, used := false } :: older
        syncLast := some d
        syncUntil := some (m.elapsed + (m.settings p).g (R.ING_SYNC_CFG_SYNC_WIDTH p) * 1000) } := by
  unfold syncFire
  rw [onPort_get_self]
  exact ⟨_, rfl⟩

theorem syncPulseEnd_idle {p : Fin 16} {m : Mach} (h : (m.port.get p).syncUntil = none) : syncPulseEnd p m = m := by
  unfold syncPulseEnd; rw [h]

theorem syncPulseEnd_ends {p : Fin 16} {u : Int} {m : Mach} (h : (m.port.get p).syncUntil = some u) :
    syncPulseEnd p m = (m.runToElapsed u).onPort p fun x => { x with syncUntil := none } := by
  unfold syncPulseEnd; rw [h]

theorem fitLost_idle {p : Fin 16} {m : Mach} (h : (m.port.get p).fit.valid = false) : fitLost p m = m := by
  unfold fitLost
  rw [if_neg (by simp [h])]

/-- The instant at which a fit runs out (R73). -/
def fitEnd (p : Fin 16) (m : Mach) : Int :=
  (m.port.get p).fit.sa + (m.settings p).g (R.ING_SYNC_CFG_FIT_HOLD p) * (m.settings p).g (R.ING_SYNC_PER p) * 1000

theorem fitLost_loses {p : Fin 16} {m : Mach} (h : (m.port.get p).fit.valid = true) :
    fitLost p m = (((m.runTo (m.fitEnd p)).fitOff p).inc (R.ING_SYNC_LOST p)).health H.syncLost (.port p) [] := by
  unfold fitLost
  rw [if_pos h]
  rfl

/-- Elapsed time reaches the instant it runs to. -/
theorem runToElapsed_reaches (m : Mach) (t : Int) : t ≤ (m.runToElapsed t).elapsed := by
  have h := runTo_reaches m (t + m.time.stepSum)
  have hs : (m.runTo (t + m.time.stepSum)).time.stepSum = m.time.stepSum := by
    rw [(runTo_clockOnly _ m).time]
  show t ≤ (m.runTo (t + m.time.stepSum)).time.n - (m.runTo (t + m.time.stepSum)).time.stepSum
  omega

end Mach

section
variable (s : State) (p : Fin 16)

theorem syncEdge_drives (h : s.on (R.ING_CTRL_SYNC_EN p) = true) (hok : (s.settings p).syncOk p = true) :
    Does (.syncEdge p) s fun t =>
      s.syncDue p ≤ t.time.n ∧ (t.port.get p).syncLast = some (s.syncDue p) ∧
      (∃ e ∈ (t.port.get p).edges.head?, e.s = t.time.n + (s.settings p).gi (R.ING_SYNC_WIN_SYNC_COMP p) ∧ e.t = t.elapsed ∧ e.used = false) ∧
      (t.port.get p).syncUntil = some (t.elapsed + (s.settings p).g (R.ING_SYNC_CFG_SYNC_WIDTH p) * 1000) ∧
      (∀ q, q ≠ p → t.port.get q = s.port.get q) ∧ OnlyIn [.port, .time, .enc, .jnl, .regs, .tick, .cache] s.toMach t := by
  set m1 := s.runTo (s.syncDue p) with hm1
  have hc : ClockOnly s.toMach m1 := Mach.runTo_clockOnly _ _
  have hport : m1.port = s.port := hc.parts .port (by decide)
  have hcomp : (m1.settings p).g (R.ING_SYNC_WIN_SYNC_COMP p) = (s.settings p).g (R.ING_SYNC_WIN_SYNC_COMP p) :=
    Mach.settings_g_of_clock hc p _ (by simp only [R.ING_SYNC_WIN_SYNC_COMP]; omega)
  have hwidth : (m1.settings p).g (R.ING_SYNC_CFG_SYNC_WIDTH p) = (s.settings p).g (R.ING_SYNC_CFG_SYNC_WIDTH p) :=
    Mach.settings_g_of_clock hc p _ (by simp only [R.ING_SYNC_CFG_SYNC_WIDTH]; omega)
  obtain ⟨older, hf⟩ := Mach.syncFire_port p (s.syncDue p) m1
  refine does_of_act (f := Mach.syncEdge p) rfl (Mach.syncEdge_fires h hok) ?_
  rw [hf, hwidth]
  refine ⟨Mach.runTo_reaches _ _, rfl, ⟨_, rfl, ?_, rfl, rfl⟩, rfl, fun q hq => ?_, ?_⟩
  · unfold Mach.gi
    rw [hcomp]
    rfl
  · rw [← hport]
    exact Mach.onPort_get_ne _ _ hq
  · rw [← Mach.syncEdge_fires h hok]
    exact (Mach.syncEdge_within p _).only

theorem fitLost_ends (h : (s.port.get p).fit.valid = true) :
    Does (.fitLost p) s fun t =>
      (t.port.get p).fit = { (s.port.get p).fit with valid := false, prev := none } ∧
      (s.port.get p).fit.sa + (s.settings p).g (R.ING_SYNC_CFG_FIT_HOLD p) * (s.settings p).g (R.ING_SYNC_PER p) * 1000 ≤ t.time.n ∧
      t.g (R.ING_SYNC_LOST p) = (s.g (R.ING_SYNC_LOST p) + 1) % 2 ^ 32 ∧
      OnlyIn [.port, .time, .enc, .jnl, .regs, .tick, .cache] s.toMach t := by
  refine does_of_act (f := Mach.fitLost p) rfl rfl ⟨?_, ?_, ?_, (Mach.fitLost_within p _).only⟩ <;> rw [Mach.fitLost_loses h]
  · rw [show Mach.port _ = _ from (Mach.health_within _ _ _ _).keeps .port]
    show ((Mach.fitOff p _).port.get p).fit = _
    unfold Mach.fitOff
    rw [Mach.onPort_get_self, show Mach.port _ = _ from (Mach.runTo_clockOnly _ s.toMach).parts .port (by decide)]
  · rw [show Mach.time _ = _ from (Mach.health_within _ _ _ _).keeps .time]
    exact Mach.runTo_reaches _ _
  · rw [(Mach.health_recOnly _ _ _ _).g _ (by simp only [R.ING_SYNC_LOST]; omega), Mach.g_inc_word _ _ rfl rfl]
    show (Mach.g (s.runTo _) _ + 1) % _ = _
    rw [(Mach.runTo_clockOnly _ _).g _ (by simp only [R.ING_SYNC_LOST]; omega)]

theorem fitRateRead_latches :
    Does (.ingFitRateRead p) s fun t =>
      t.g64 (R.ING_FIT_SA_LO_A p) (R.ING_FIT_SA_HI_A p) = toBits 64 (s.port.get p).fit.sa ∧
      t.g64 (R.ING_FIT_UA_LO_A p) (R.ING_FIT_UA_HI_A p) = toBits 64 (s.port.get p).fit.ua ∧
      t.rd (R.ING_FIT_RATE_A p) = BitVec.ofNat 32 (toBits 32 (s.port.get p).fit.r) ∧ OnlyIn [.regs, .out] s.toMach t := by
  refine does_of_act (f := Mach.fitRateRead p) rfl rfl ⟨?_, ?_, ?_, (Mach.fitRateRead_within p _).only⟩ <;> unfold Mach.fitRateRead <;> dsimp only
  · refine (Mach.g64_put64_ne _ _ ?_ ?_).trans (Mach.g64_put64 _ _ ?_) <;>
      simp only [R.ING_FIT_SA_LO_A, R.ING_FIT_SA_HI_A, R.ING_FIT_UA_LO_A, R.ING_FIT_UA_HI_A] <;> omega
  · exact Mach.g64_put64 _ _ (by simp only [R.ING_FIT_UA_LO_A, R.ING_FIT_UA_HI_A]; omega)
  · rw [Mach.emit_rd, Mach.rd_put64_ne, Mach.rd_put64_ne, Mach.rd_wr_self]
    all_goals
      simp only [R.ING_FIT_RATE_A, R.ING_FIT_SA_LO_A, R.ING_FIT_SA_HI_A, R.ING_FIT_UA_LO_A, R.ING_FIT_UA_HI_A]; omega

end

/-- Settles O12. -/
theorem syncEdgesAndFit : Obligations.SyncEdgesAndFit := by
  unfold Obligations.SyncEdgesAndFit
  intro s p x now
  refine ⟨fun h => idles_of_act (f := Mach.syncEdge p) rfl (Mach.syncEdge_idle h),
    fun h => idles_of_act (f := Mach.syncPulseEnd p) rfl (Mach.syncPulseEnd_idle h),
    fun h => idles_of_act (f := Mach.fitLost p) rfl (Mach.fitLost_idle h), syncEdge_drives s p, fun u hu => ?_, fitLost_ends s p,
    fitRateRead_latches s p⟩
  refine does_of_act (f := Mach.syncPulseEnd p) rfl (Mach.syncPulseEnd_ends hu) ⟨Mach.runToElapsed_reaches _ _, ?_, ?_⟩
  · rw [Mach.onPort_get_self, show Mach.port _ = _ from (Mach.runToElapsed_clockOnly _ s.toMach).parts .port (by decide)]
  · rw [← Mach.syncPulseEnd_ends hu]
    exact (Mach.syncPulseEnd_within p _).only

end Sys2Proof.Machine

namespace Sys2Proof.Machine

set_option Elab.async false

namespace Mach

/-! ## Enable, disable, flush and stop of an ingest port (R82, R83, R85) -/

theorem onFe_get_self (m : Mach) (p : Fin 16) (f : Fe → Fe) : (m.onFe p f).fe.get p = f (m.fe.get p) := by
  rw [onFe_fe, vmod_get_self]

theorem onFe_get_ne (m : Mach) {p q : Fin 16} (f : Fe → Fe) (h : q ≠ p) : (m.onFe p f).fe.get q = m.fe.get q := by
  rw [onFe_fe, vmod_get_ne _ _ h]

/-- Flow control as the watermarks in force judge it (R82). -/
def fcOf (p : Fin 16) (m : Mach) : Bool :=
  if (m.settings p).g (R.ING_WM_HWM p) ≤ fillOf (m.port.get p) then true
  else if fillOf (m.port.get p) ≤ (m.settings p).g (R.ING_WM_LWM p) then false
  else (m.port.get p).wmFc

theorem evalFc_eq (p : Fin 16) (m : Mach) : m.evalFc p = m ∨ m.evalFc p = m.onPort p fun x => { x with wmFc := m.fcOf p } := by
  unfold evalFc fcOf
  dsimp only
  split
  · exact .inr rfl
  · split
    · exact .inr rfl
    · exact .inl rfl

theorem evalFc_onlyIn (p : Fin 16) (m : Mach) : OnlyIn [.port] m (m.evalFc p) := by
  rcases evalFc_eq p m with h | h <;> rw [h]
  · exact OnlyIn.refl _ _
  · exact (onPort_within _ _ _).parts

theorem evalFc_port (p : Fin 16) (m : Mach) : (m.evalFc p).port.get p = { m.port.get p with wmFc := m.fcOf p } := by
  unfold evalFc fcOf
  dsimp only
  split
  · rw [onPort_get_self]
  · split
    · rw [onPort_get_self]
    · rfl

theorem evalFc_g (p : Fin 16) (m : Mach) (f : Fld) : (m.evalFc p).g f = m.g f := by
  unfold g rd; rw [show (m.evalFc p).regs = m.regs from evalFc_onlyIn p m .regs (by decide)]

/-- A port without saved words has the registers in force. -/
theorem settings_of_none {p : Fin 16} {m : Mach} (h : (m.port.get p).inForce = []) : m.settings p = m := by
  unfold settings; rw [h]; rfl

theorem stopPort_port (p : Fin 16) (m : Mach) : (m.stopPort p).port.get p = { m.headerPort p with running := false, stopReq := false } := by
  unfold stopPort
  rw [evalFc_port]
  unfold fcOf
  rw [settings_of_none (by rw [onPort_get_self]), onPort_get_self]
  rfl

theorem portStop_idle {p : Fin 16} {m : Mach} (h : (m.port.get p).stopReq = false ∨ (m.port.get p).rx ≠ none) : portStop p m = m := by
  unfold portStop
  dsimp only
  rw [if_neg]
  rcases h with h | h
  · simp [h]
  · cases hr : (m.port.get p).rx with
    | none => exact absurd hr h
    | some r => simp

theorem portStop_stops {p : Fin 16} {m : Mach} (h : (m.port.get p).stopReq = true) (hr : (m.port.get p).rx = none) : portStop p m = m.stopPort p := by
  unfold portStop
  dsimp only
  rw [if_pos (by simp [h, hr])]

theorem flushApply_idle {p : Fin 16} {m : Mach} (h : (m.port.get p).flushPend = false ∨ (m.port.get p).rx ≠ none) : flushApply p m = m := by
  unfold flushApply
  dsimp only
  rw [if_neg]
  rcases h with h | h
  · simp [h]
  · cases hr : (m.port.get p).rx with
    | none => exact absurd hr h
    | some r => simp

theorem flushApply_flushes {p : Fin 16} {m : Mach} (h : (m.port.get p).flushPend = true) (hr : (m.port.get p).rx = none) :
    flushApply p m = m.flushNow p := by
  unfold flushApply
  dsimp only
  rw [if_pos (by simp [h, hr])]

/-- The flushed port and its counter, before the account of the packets and the completions. -/
def emptied (p : Fin 16) (m : Mach) : Mach :=
  (m.onPort p fun y => { y with vat := [], flushPend := false, flushOwed := [] }).addTo (R.ING_FLUSHED p) (m.port.get p).vat.length

theorem flushNow_within_emptied (p : Fin 16) (m : Mach) :
    ∃ m2, Within [.tick] (m.emptied p) m2 ∧ Within [.jnl, .fn, .out] (m2.evalFc p) (m.flushNow p) :=
  ⟨_, Within.loop (fun k t => lostPacket_within p k t) (Within.refl _ _), Within.loop (fun o t => (done_within _ _ _ _ _ _ _ t).mono) (Within.refl _ _)⟩

theorem flushNow_flushed (p : Fin 16) (m : Mach) :
    ((m.flushNow p).port.get p).vat = [] ∧ ((m.flushNow p).port.get p).flushPend = false ∧
      ((m.flushNow p).port.get p).reading = (m.port.get p).reading ∧
      (m.flushNow p).g (R.ING_FLUSHED p) = (m.g (R.ING_FLUSHED p) + (m.port.get p).vat.length) % 2 ^ 32 := by
  obtain ⟨m2, h2, h3⟩ := flushNow_within_emptied p m
  have hport : (m.flushNow p).port = (m2.evalFc p).port := h3.keeps .port
  have hp2 : m2.port = (m.emptied p).port := h2.keeps .port
  have he : (m.emptied p).port.get p = { m.port.get p with vat := [], flushPend := false, flushOwed := [] } := onPort_get_self m p _
  have hr3 : (m.flushNow p).regs = (m2.evalFc p).regs := h3.keeps .regs
  have hr2 : m2.regs = (m.emptied p).regs := h2.keeps .regs
  have hg : (m.flushNow p).g (R.ING_FLUSHED p) = (m.emptied p).g (R.ING_FLUSHED p) := by
    have h1 := evalFc_g p m2 (R.ING_FLUSHED p)
    unfold g rd at h1 ⊢
    rw [hr3, h1, hr2]
  rw [hport, evalFc_port, hp2, he, hg]
  exact ⟨rfl, rfl, rfl, g_put_self _ _ _ (by simp only [R.ING_FLUSHED]; omega) (by simp only [R.ING_FLUSHED]; omega)⟩

theorem ctrlEn_idle {p : Fin 16} {m : Mach} (h : m.on (R.ING_CTRL_EN p) = true) : ctrlEn p m = m := by
  unfold ctrlEn; rw [if_pos h]

theorem ctrlEn_refuses {p : Fin 16} {m : Mach} (h : m.on (R.ING_CTRL_EN p) = false) (hj : m.enableReject p ≠ none) :
    ctrlEn p m = m.set1 (R.ING_STAT_EN_ERR p) := by
  unfold ctrlEn
  rw [if_neg (by simp [h]), if_pos (Option.isSome_iff_ne_none.2 hj)]

theorem ctrlEn_enables {p : Fin 16} {m : Mach} (h : m.on (R.ING_CTRL_EN p) = false) (hj : m.enableReject p = none) : ctrlEn p m = m.enablePort p := by
  unfold ctrlEn
  rw [if_neg (by simp [h]), if_neg (by simp [hj])]

theorem enablePort_port (p : Fin 16) (m : Mach) :
    (m.enablePort p).port.get p =
      { m.port.get p with
        running := true, stopReq := false, failed := false, fresh := true, dec := Vector.replicate 16 {}
        rx := (m.port.get p).rx.map fun r => { r with dec := {} }
        fit := { (m.port.get p).fit with valid := false, prev := none } } := by
  unfold enablePort fitOff zeroSurface
  dsimp only
  rw [onFe_port, onFe_port, onPort_get_self, onPort_get_self]
  rfl

theorem enablePort_fe (p : Fin 16) (m : Mach) :
    (m.enablePort p).fe.get p =
      { m.fe.get p with
        surf := [], flk := [], grids := [], zeroing := true, warming := true, tauW := none, held := none
        sweep := (m.time.n.fdiv 2000).fdiv 16384, sweeping := false } := by
  unfold enablePort fitOff zeroSurface
  dsimp only
  rw [onFe_get_self, onFe_get_self]
  rfl

theorem disablePort_port (p : Fin 16) (m : Mach) :
    (m.disablePort p).port.get p = { m.port.get p with stopReq := (m.port.get p).running || (m.port.get p).stopReq } := by
  unfold disablePort
  by_cases h : (m.port.get p).running = true
  · rw [if_pos h, onPort_get_self, h]; rfl
  · rw [if_neg h, Bool.eq_false_iff.2 h, Bool.false_or]; rfl

theorem disablePort_regs (p : Fin 16) (m : Mach) : (m.disablePort p).regs = (m.clr (R.ING_CTRL_EN p)).regs := by
  unfold disablePort
  dsimp only
  split <;> rfl

/-- A word write leaves the other words. -/
theorem RegsBut.put (m : Mach) (f : Fld) (v : Nat) : RegsBut [f.a] m (m.put f v) := fun _ h => rd_put_ne m f v (by simpa using h)

theorem RegsBut.of_regs {l : List Nat} {a b c : Mach} (h : RegsBut l a b) (hr : c.regs = b.regs) : RegsBut l a c := fun off ho => by
  rw [← h off ho]; unfold rd; rw [hr]

theorem g_of_regs {a b : Mach} (h : b.regs = a.regs) (f : Fld) : b.g f = a.g f := by unfold g rd; rw [h]

end Mach

section
variable (s : State) (p : Fin 16)

theorem ctrlEn_starts (h : s.on (R.ING_CTRL_EN p) = false) (hj : s.enableReject p = none) :
    Does (.ingCtrlEn p) s fun t =>
      t.g (R.ING_CTRL_EN p) = 1 ∧ (t.port.get p).running = true ∧ (t.port.get p).dec = Vector.replicate 16 {} ∧
      (t.port.get p).fit.valid = false ∧ (t.fe.get p).zeroing = true ∧ (t.fe.get p).surf = [] ∧
      RegsBut [(R.ING_CTRL_EN p).a] s.toMach t ∧ (∀ q, q ≠ p → t.port.get q = s.port.get q ∧ t.fe.get q = s.fe.get q) ∧
      OnlyIn [.regs, .port, .fe] s.toMach t := by
  refine does_of_act (f := Mach.ctrlEn p) rfl (Mach.ctrlEn_enables h hj) ?_
  have hregs : (s.enablePort p).regs = (s.set1 (R.ING_CTRL_EN p)).regs := rfl
  rw [Mach.enablePort_port, Mach.enablePort_fe]
  refine ⟨(Mach.g_of_regs hregs _).trans (Mach.g_set1 _ _ rfl (by simp only [R.ING_CTRL_EN]; omega)), rfl, rfl, rfl, rfl, rfl,
    Mach.RegsBut.of_regs (Mach.RegsBut.put _ _ _) hregs, fun q hq => ⟨?_, ?_⟩, (Mach.enablePort_within _ _).parts⟩
  · exact (Mach.onPort_get_ne _ _ hq).trans (Mach.onPort_get_ne _ _ hq)
  · exact (Mach.onFe_get_ne _ _ hq).trans (Mach.onFe_get_ne _ _ hq)

theorem disablePort_disables :
    Does (.ingCtrlDisable p) s fun t =>
      t.g (R.ING_CTRL_EN p) = 0 ∧ t.port.get p = { s.port.get p with stopReq := (s.port.get p).running || (s.port.get p).stopReq } ∧
      RegsBut [(R.ING_CTRL_EN p).a] s.toMach t ∧ OnlyIn [.regs, .port] s.toMach t := by
  refine does_of_act (f := Mach.disablePort p) rfl rfl ⟨?_, Mach.disablePort_port _ _,
    Mach.RegsBut.of_regs (Mach.RegsBut.put _ _ _) (Mach.disablePort_regs _ _), (Mach.disablePort_within _ _).parts⟩
  exact (Mach.g_of_regs (Mach.disablePort_regs _ _) _).trans
    (Mach.g_clr _ _ (by simp only [R.ING_CTRL_EN]; omega) (by simp only [R.ING_CTRL_EN]; omega))

end

/-- Settles O13. -/
theorem portEnableDisableFlush : Obligations.PortEnableDisableFlush := by
  unfold Obligations.PortEnableDisableFlush
  intro s p x
  refine ⟨fun h => idles_of_act (f := Mach.ctrlEn p) rfl (Mach.ctrlEn_idle h),
    fun h => idles_of_act (f := Mach.flushApply p) rfl (Mach.flushApply_idle h),
    fun h => idles_of_act (f := Mach.portStop p) rfl (Mach.portStop_idle h), ctrlEn_starts s p, fun h hj => ?_, disablePort_disables s p,
    ?_, fun h hr => ?_, fun h hr => ?_⟩
  · exact does_of_act (f := Mach.ctrlEn p) rfl (Mach.ctrlEn_refuses h hj)
      ⟨Mach.g_set1 _ _ rfl (by simp only [R.ING_STAT_EN_ERR]; omega), Mach.RegsBut.put _ _ _, OnlyIn.set1 _ _⟩
  · exact does_of_act (f := Mach.flushAsk p) rfl rfl ⟨Mach.onPort_get_self _ _ _, (Mach.onPort_within _ _ _).parts⟩
  · exact does_of_act (f := Mach.flushApply p) rfl (Mach.flushApply_flushes h hr) (Mach.flushNow_flushed p _)
  · refine does_of_act (f := Mach.portStop p) rfl (Mach.portStop_stops h hr) ⟨Mach.stopPort_port p _, ?_⟩
    exact ((Mach.onPort_within p _ s.toMach).parts.append (Mach.evalFc_onlyIn p _)).mono (by decide)

end Sys2Proof.Machine

namespace Sys2Proof.Machine

set_option Elab.async false

/-! ## Little-endian bytes -/

theorem leN_lt (b : List Byte) (i n : Nat) : leN b i n < 256 ^ n := by
  induction n generalizing i with
  | zero => exact Nat.one_pos
  | succ n ih =>
    have h := ih (i + 1)
    have hb : byteAt b i < 256 := by unfold byteAt; exact BitVec.isLt _
    unfold leN
    rw [pow_succ]
    omega

/-- The bytes of a number read from a list are those bytes. -/
theorem bytesOf_leN {b : List Byte} {i n : Nat} (h : i + n ≤ b.length) : bytesOf n (leN b i n) = (b.drop i).take n := by
  induction n generalizing i with
  | zero => rfl
  | succ n ih =>
    have hi : i < b.length := by omega
    have hb : byteAt b i < 256 := by unfold byteAt; exact BitVec.isLt _
    rw [List.drop_eq_getElem_cons hi, List.take_succ_cons, ← ih (by omega)]
    rw [show leN b i (n + 1) = byteAt b i + 256 * leN b (i + 1) n from rfl]
    show BitVec.ofNat 8 (byteAt b i + 256 * leN b (i + 1) n) :: bytesOf n ((byteAt b i + 256 * leN b (i + 1) n) / 256) = _
    rw [show (byteAt b i + 256 * leN b (i + 1) n) / 256 = leN b (i + 1) n by omega]
    congr 1
    apply BitVec.eq_of_toNat_eq
    rw [BitVec.toNat_ofNat, show (byteAt b i + 256 * leN b (i + 1) n) % 2 ^ 8 = byteAt b i by omega]
    simp [byteAt, List.getElem?_eq_getElem hi]

/-- The words of a list of bytes, as bytes again. -/
theorem words_bytes {b : List Byte} (k : Nat) (h : 4 * k ≤ b.length) :
    ((List.range k).flatMap fun j => bytesOf 4 (leN b (4 * j) 4)) = b.take (4 * k) := by
  induction k with
  | zero => simp
  | succ k ih =>
    rw [List.range_succ, List.flatMap_append, ih (by omega), List.flatMap_singleton, bytesOf_leN (by omega), ← List.take_add]
    rfl

namespace Mach

/-! ## The mailbox answers (R390): registers -/

theorem mbAnswer_regsBut (status : Nat) (values : List Int) (len : Nat) (m : Mach) : RegsBut [R.MGT_MB_DONE.a] m (m.mbAnswer status values len) := by
  unfold mbAnswer
  split
  · exact RegsBut.refl _ _
  · exact RegsBut.put _ R.MGT_MB_DONE _

theorem mbDrain_regsBut (n : Nat) (m : Mach) : RegsBut [R.MGT_MB_DONE.a] m (mbDrain n m) := by
  induction n generalizing m with
  | zero => exact RegsBut.refl _ _
  | succ n ih =>
    unfold mbDrain
    split
    · split
      · exact (mbAnswer_regsBut _ _ _ _).trans (ih _)
      · exact RegsBut.refl _ _
    · exact RegsBut.refl _ _

theorem mbReply_regsBut (status : Nat) (values : List Int) (len : Nat) (m : Mach) : RegsBut [R.MGT_MB_DONE.a] m (m.mbReply status values len) :=
  (mbAnswer_regsBut _ _ _ _).trans (mbDrain_regsBut _ _)

theorem mbServe_regsBut (status : Nat) (values : List Int) (m : Mach) : RegsBut [R.MGT_MB_DONE.a] m (m.mbServe status values) := by
  unfold mbServe
  split
  · exact mbReply_regsBut _ _ _ _
  · exact mbReply_regsBut _ _ _ _

/-! ## The sensor control interface (R62, R63) -/

theorem wrEach_rd_ne (w : Nat → Word) (a : Nat → Nat) (ks : List Nat) {off : Nat} (h : ∀ k ∈ ks, off ≠ a k) (m : Mach) :
    (forEach ks (fun k t => t.wr (a k) (w k)) m).rd off = m.rd off := by
  induction ks generalizing m with
  | nil => rfl
  | cons k r ih =>
    refine (ih (fun j hj => h j (by simp [hj])) _).trans ?_
    exact rd_wr_ne _ _ (h k (by simp))

theorem wrEach_rd (w : Nat → Word) {a : Nat → Nat} (ha : Function.Injective a) (ks : List Nat) {k : Nat} (h : k ∈ ks) (m : Mach) :
    (forEach ks (fun k t => t.wr (a k) (w k)) m).rd (a k) = w k := by
  induction ks generalizing m with
  | nil => simp at h
  | cons j r ih =>
    by_cases hr : k ∈ r
    · exact ih hr _
    · obtain rfl : k = j := (List.mem_cons.1 h).resolve_right hr
      refine (wrEach_rd_ne w a r (fun i hi hai => hr (by rwa [ha hai])) _).trans ?_
      exact rd_wr_self _ _ _

theorem sciBuf_congr {a b : Mach} {p : Nat} (h : ∀ k < 8, b.rd (R.ING_SCI_BUF_A p k) = a.rd (R.ING_SCI_BUF_A p k)) : b.sciBuf p = a.sciBuf p := by
  unfold sciBuf
  rw [List.flatMap_def, List.flatMap_def]
  congr 1
  exact List.map_congr_left fun k hk => by rw [h k (by simpa using hk)]

theorem sciBuf_length (p : Nat) (m : Mach) : (m.sciBuf p).length = 32 := by
  unfold sciBuf
  rw [flatMap_length _ _ 4 fun k _ => bytesOf_length _ _]
  simp

/-- The buffer after bytes are put at its start. -/
theorem sciBuf_sciPut (p : Nat) (b : List Byte) (m : Mach) :
    (m.sciPut p b).sciBuf p = b.take 32 ++ (m.sciBuf p).drop (b.take 32).length := by
  unfold sciPut
  extract_lets all
  have hlen : all.length = 32 := by
    simp only [all, List.length_append, List.length_drop, sciBuf_length]
    have : (b.take 32).length ≤ 32 := List.length_take_le _ _
    omega
  have hinj : Function.Injective (R.ING_SCI_BUF_A p) := fun i j h => by simp only [R.ING_SCI_BUF_A] at h; omega
  calc (forEach (List.range 8) (fun k t => t.wr (R.ING_SCI_BUF_A p k) (BitVec.ofNat 32 (leN all (4 * k) 4))) m).sciBuf p
      = (List.range 8).flatMap fun k => bytesOf 4 (leN all (4 * k) 4) := by
        unfold sciBuf
        rw [List.flatMap_def, List.flatMap_def]
        congr 1
        refine List.map_congr_left fun k hk => ?_
        rw [wrEach_rd _ hinj _ hk, BitVec.toNat_ofNat, Nat.mod_eq_of_lt]
        exact (leN_lt all (4 * k) 4).trans_eq (by norm_num)
    _ = all := by rw [words_bytes 8 (by omega), List.take_of_length_le (by omega)]

/-- The state that a running transfer leaves when it ends, before whom it answers. -/
def sciEnded (p : Fin 16) (result : Nat) (got : List Byte) (m : Mach) : Mach :=
  let m1 := ((m.onPort p fun x => { x with sci := none }).put (R.ING_SCI_STAT_RESULT p) result).clr (R.ING_SCI_CMD_GO p)
  if result = 0 then m1.sciPut p got else m1

theorem sciEnd_idle {p : Fin 16} {result : Nat} {data : List Byte} {m : Mach} (h : (m.port.get p).sci = none) : sciEnd p result data m = m := by
  unfold sciEnd; rw [h]

theorem sciEnd_eq {p : Fin 16} {result : Nat} {data : List Byte} {run : SciRun} {m : Mach} (h : (m.port.get p).sci = some run) :
    ∃ m2, m2 = m.sciEnded p result (if result = 0 then data.take run.rlen else []) ∧ sciEnd p result data m =
      match run.who with
      | .cmd f ctag cseq => m2.done f 0x20 ctag cseq 0 result (if result = 0 then data.take run.rlen else [])
      | .mgt => if m2.mgtSci = some p then
          m2.mbServe 0 ((result : Int) :: (if result = 0 then data.take run.rlen else []).map fun b => (b.toNat : Int)) else m2
      | .host => m2 := by
  refine ⟨_, rfl, ?_⟩
  unfold sciEnd
  rw [h]
  obtain ⟨who, startEl, rlen⟩ := run
  cases who <;> rfl

section
variable (p : Fin 16) (result : Nat) (got : List Byte) (m : Mach)

theorem sciEnded_within : Within [.regs, .port] m (m.sciEnded p result got) := by
  unfold sciEnded
  extract_lets m1
  have h1 : Within [.regs, .port] m m1 := (clr_within _ _).after <| (put_within _ _ _).after <| (onPort_within _ _ _).mono
  split
  · exact (sciPut_within _ _ _).after h1
  · exact h1

theorem sciEnded_port : (m.sciEnded p result got).port = (m.onPort p fun x => { x with sci := none }).port := by
  unfold sciEnded
  dsimp only
  by_cases h : result = 0
  · rw [if_pos h, show Mach.port _ = _ from (sciPut_within _ _ _).keeps .port, clr_port, put_port]
  · rw [if_neg h, clr_port, put_port]

theorem sciEnded_sci : ((m.sciEnded p result got).port.get p).sci = none := by
  rw [sciEnded_port, onPort_get_self]

theorem sciEnded_result (h : result < 8) : (m.sciEnded p result got).g (R.ING_SCI_STAT_RESULT p) = result := by
  unfold sciEnded
  extract_lets m1
  have h1 : m1.g (R.ING_SCI_STAT_RESULT p) = result := by
    refine (g_put_ne _ _ _ _ (by simp only [R.ING_SCI_STAT_RESULT, R.ING_SCI_CMD_GO]; omega)).trans ?_
    exact (g_put_self _ _ _ (by simp only [R.ING_SCI_STAT_RESULT]; omega) (by simp only [R.ING_SCI_STAT_RESULT]; omega)).trans (Nat.mod_eq_of_lt h)
  split
  · unfold g sciPut
    rw [wrEach_rd_ne _ _ _ fun k _ => by simp only [R.ING_SCI_STAT_RESULT, R.ING_SCI_BUF_A]; omega]
    exact h1
  · exact h1

/-- The buffer keeps its bytes unless the transfer succeeds. -/
theorem sciEnded_buf : (m.sciEnded p result got).sciBuf p = if result = 0 then got.take 32 ++ (m.sciBuf p).drop (got.take 32).length else m.sciBuf p := by
  unfold sciEnded
  extract_lets m1
  have h1 : m1.sciBuf p = m.sciBuf p := sciBuf_congr fun k hk => by
    show (clr _ (put _ _ (onPort _ _ _))).rd _ = _
    refine (rd_put_ne _ _ _ (by simp only [R.ING_SCI_CMD_GO, R.ING_SCI_BUF_A]; omega)).trans ?_
    exact rd_put_ne _ _ _ (by simp only [R.ING_SCI_STAT_RESULT, R.ING_SCI_BUF_A]; omega)
  split
  · rw [sciBuf_sciPut, h1]
  · exact h1

end

/-- A transfer that ends leaves the port without one, and its result, whoever asked for it. -/
theorem sciEnd_ends {p : Fin 16} {result : Nat} {data : List Byte} {m : Mach} (h : (m.port.get p).sci ≠ none) (hr : result < 8) :
    ((sciEnd p result data m).port.get p).sci = none ∧ (sciEnd p result data m).g (R.ING_SCI_STAT_RESULT p) = result := by
  obtain ⟨run, hrun⟩ := Option.ne_none_iff_exists'.1 h
  obtain ⟨m2, hm2, he⟩ := sciEnd_eq (result := result) (data := data) hrun
  have hs : (m2.port.get p).sci = none := by rw [hm2]; exact sciEnded_sci _ _ _ _
  have hg : m2.g (R.ING_SCI_STAT_RESULT p) = result := by rw [hm2]; exact sciEnded_result _ _ _ _ hr
  rw [he]
  split
  · rw [show Mach.port _ = _ from (done_within _ _ _ _ _ _ _ m2).keeps .port, g_of_regs ((done_within _ _ _ _ _ _ _ m2).keeps .regs)]
    exact ⟨hs, hg⟩
  · split
    · refine ⟨by rw [show Mach.port _ = _ from (mbServe_within _ _ m2).keeps .port]; exact hs, ?_⟩
      unfold g
      rw [mbServe_regsBut _ _ m2 _ (by simp only [R.ING_SCI_STAT_RESULT, R.MGT_MB_DONE, List.mem_singleton]; omega)]
      exact hg
    · exact ⟨hs, hg⟩
  · exact ⟨hs, hg⟩

/-- Nobody but the waiting buffer is answered: the host started it, or the mailbox waits for no transfer of this port. -/
theorem sciEnd_quiet {p : Fin 16} {result : Nat} {data : List Byte} {run : SciRun} {m : Mach} (h : (m.port.get p).sci = some run)
    (hq : run.who = .host ∨ run.who = .mgt ∧ m.mgtSci ≠ some p) :
    sciEnd p result data m = m.sciEnded p result (if result = 0 then data.take run.rlen else []) := by
  obtain ⟨m2, hm2, he⟩ := sciEnd_eq (result := result) (data := data) h
  rw [he, ← hm2]
  rcases hq with hq | ⟨hq, hn⟩
  · rw [hq]
  · rw [hq]
    have h2 : m2.mgtSci = m.mgtSci := by rw [hm2]; exact (sciEnded_within _ _ _ _).keeps .mgtSci
    exact if_neg (by rw [h2]; exact hn)

/-! ### A GO (R62, R63) -/

/-- The party holds the grant of a port's interface. -/
def sciGranted (p : Fin 16) (who : Party) (m : Mach) : Bool := m.on (R.ING_SCI_CFG_OWNER p) == (who == .mgt)

def sciBy (who : Party) : SciBy := match who with | .host => .host | .mgt => .mgt

/-- The command words of a transfer and the transfer itself, before its shape is judged. -/
def sciBegun (p : Fin 16) (who : Party) (addr wlen rlen : Nat) (m : Mach) : Mach :=
  ((((m.put (R.ING_SCI_CMD_ADDR p) addr).put (R.ING_SCI_CMD_WLEN p) wlen).put (R.ING_SCI_CMD_RLEN p) rlen).set1 (R.ING_SCI_CMD_GO p)).onPort p
    fun x => { x with sci := some { who := sciBy who, startEl := m.elapsed, rlen := rlen } }

section
variable {p : Fin 16} {who : Party} {addr wlen rlen : Nat} {m : Mach}

theorem sciGo_notGranted (h : m.sciGranted p who = false) : sciGo p who addr wlen rlen m = m.set1 (R.ING_SCI_STAT_OWN_ERR p) :=
  if_pos (by unfold sciGranted at h; simp [h])

theorem sciGo_lost (h : m.sciGranted p who = true) (hs : (m.port.get p).sci ≠ none) :
    sciGo p who addr wlen rlen m = m.set1 (R.ING_SCI_STAT_CMD_LOST p) :=
  (if_neg (by unfold sciGranted at h; simp [h])).trans (if_pos (Option.isSome_iff_ne_none.2 hs))

theorem sciGo_starts (h : m.sciGranted p who = true) (hs : (m.port.get p).sci = none) :
    sciGo p who addr wlen rlen m = m.sciStart p (sciBy who) addr wlen rlen :=
  (if_neg (by unfold sciGranted at h; simp [h])).trans (if_neg (by simp [hs]))

theorem sciStart_eq (p : Fin 16) (who : Party) (addr wlen rlen : Nat) (m : Mach) :
    m.sciStart p (sciBy who) addr wlen rlen =
      let m2 := m.sciBegun p who addr wlen rlen
      if 32 < wlen ∨ 32 < rlen then m2.sciEnd p 3 []
      else if m2.sciMode p = 0 ∨ 4 < m2.sciMode p then m2.drawNat.2.sciEnd p (1 + m2.drawNat.1 % 4) []
      else m2.emit (.sci p.1 (m2.sciMode p) addr ((m2.sciBuf p).take wlen) rlen) := rfl

theorem sciBegun_sci : ((m.sciBegun p who addr wlen rlen).port.get p).sci = some { who := sciBy who, startEl := m.elapsed, rlen := rlen } := by
  unfold sciBegun; rw [onPort_get_self]

theorem sciBegun_rd {off : Nat} (h : off ≠ (R.ING_SCI_CMD_GO p).a) : (m.sciBegun p who addr wlen rlen).rd off = m.rd off := by
  unfold sciBegun
  rw [onPort_rd]
  have ha : ∀ f : Fld, f.a = (R.ING_SCI_CMD_GO p).a → off ≠ f.a := fun f hf => by rw [hf]; exact h
  refine (rd_put_ne _ _ _ h).trans ((rd_put_ne _ _ _ (ha (R.ING_SCI_CMD_RLEN p) rfl)).trans ?_)
  exact (rd_put_ne _ _ _ (ha (R.ING_SCI_CMD_WLEN p) rfl)).trans (rd_put_ne _ _ _ (ha (R.ING_SCI_CMD_ADDR p) rfl))

theorem sciBegun_mode : (m.sciBegun p who addr wlen rlen).sciMode p = m.sciMode p := by
  unfold sciMode g
  rw [sciBegun_rd (by simp only [R.ING_SCI_CFG_MODE, R.ING_SCI_CMD_GO]; omega)]

theorem sciBegun_buf : (m.sciBegun p who addr wlen rlen).sciBuf p = m.sciBuf p :=
  sciBuf_congr fun k _ => sciBegun_rd (by simp only [R.ING_SCI_BUF_A, R.ING_SCI_CMD_GO]; omega)

/-- The fields of the command word do not overlap. -/
theorem sciBegun_fields (ha : addr < 128) (hw : wlen < 64) (hr : rlen < 64) :
    (m.sciBegun p who addr wlen rlen).g (R.ING_SCI_CMD_ADDR p) = addr ∧ (m.sciBegun p who addr wlen rlen).g (R.ING_SCI_CMD_WLEN p) = wlen ∧
      (m.sciBegun p who addr wlen rlen).g (R.ING_SCI_CMD_RLEN p) = rlen := by
  have hga : Apart (R.ING_SCI_CMD_GO p) (R.ING_SCI_CMD_ADDR p) := by simp only [Apart, R.ING_SCI_CMD_GO, R.ING_SCI_CMD_ADDR]; omega
  have hra : Apart (R.ING_SCI_CMD_RLEN p) (R.ING_SCI_CMD_ADDR p) := by simp only [Apart, R.ING_SCI_CMD_RLEN, R.ING_SCI_CMD_ADDR]; omega
  have hwa : Apart (R.ING_SCI_CMD_WLEN p) (R.ING_SCI_CMD_ADDR p) := by simp only [Apart, R.ING_SCI_CMD_WLEN, R.ING_SCI_CMD_ADDR]; omega
  have hgw : Apart (R.ING_SCI_CMD_GO p) (R.ING_SCI_CMD_WLEN p) := by simp only [Apart, R.ING_SCI_CMD_GO, R.ING_SCI_CMD_WLEN]; omega
  have hrw : Apart (R.ING_SCI_CMD_RLEN p) (R.ING_SCI_CMD_WLEN p) := by simp only [Apart, R.ING_SCI_CMD_RLEN, R.ING_SCI_CMD_WLEN]; omega
  have hgr : Apart (R.ING_SCI_CMD_GO p) (R.ING_SCI_CMD_RLEN p) := by simp only [Apart, R.ING_SCI_CMD_GO, R.ING_SCI_CMD_RLEN]; omega
  unfold sciBegun
  rw [onPort_g, onPort_g, onPort_g, g_set1_apart _ hga, g_set1_apart _ hgw, g_set1_apart _ hgr, g_put_apart _ _ hra, g_put_apart _ _ hrw,
    g_put_apart _ _ hwa]
  refine ⟨g_put_fits _ ?_ ?_, g_put_fits _ ?_ ?_, g_put_fits _ ?_ ?_⟩ <;>
    simp only [R.ING_SCI_CMD_ADDR, R.ING_SCI_CMD_WLEN, R.ING_SCI_CMD_RLEN] <;> omega

theorem sciBegun_within : Within [.regs, .port] m (m.sciBegun p who addr wlen rlen) :=
  (onPort_within _ _ _).after <| (set1_within _ _).after <| (put_within _ _ _).after <| (put_within _ _ _).after <| (put_within _ _ _).mono

end

end Mach

section
variable {s : State} {p : Fin 16} {who : Party} {addr wlen rlen : Nat}

theorem sciGo_runs (hg : s.sciGranted p who = true) (hs : (s.port.get p).sci = none) (ha : addr < 128) (hw : wlen ≤ 32) (hr : rlen ≤ 32)
    (hm0 : s.sciMode p ≠ 0) (hm4 : s.sciMode p ≤ 4) :
    Does (.sciGo p who addr wlen rlen) s fun t =>
      (t.port.get p).sci = some { who := Mach.sciBy who, startEl := s.elapsed, rlen := rlen } ∧
      t.g (R.ING_SCI_CMD_ADDR p) = addr ∧ t.g (R.ING_SCI_CMD_WLEN p) = wlen ∧ t.g (R.ING_SCI_CMD_RLEN p) = rlen ∧
      t.out = .sci p.1 (s.sciMode p) addr ((s.sciBuf p).take wlen) rlen :: s.out ∧ OnlyIn [.regs, .port, .out] s.toMach t := by
  refine does_of_act (f := Mach.sciGo p who addr wlen rlen) rfl (Mach.sciGo_starts hg hs) ?_
  rw [Mach.sciStart_eq]
  dsimp only
  rw [if_neg (by omega), Mach.sciBegun_mode, Mach.sciBegun_buf, if_neg (by omega)]
  obtain ⟨h1, h2, h3⟩ := Mach.sciBegun_fields (m := s.toMach) (p := p) (who := who) ha (hw.trans_lt (by decide)) (hr.trans_lt (by decide))
  have ho : (s.sciBegun p who addr wlen rlen).out = s.out := Mach.sciBegun_within.keeps .out
  rw [Mach.emit_port, Mach.emit_g, Mach.emit_g, Mach.emit_g, Mach.emit_out, ho]
  exact ⟨Mach.sciBegun_sci, h1, h2, h3, rfl, ((Mach.emit_within _ _).after (l := [.regs, .port, .out]) Mach.sciBegun_within.mono).parts⟩

/-- The host asked, or the mailbox waits for no transfer of this port. -/
theorem sciBy_quiet (hq : who = .host ∨ s.mgtSci ≠ some p) : Mach.sciBy who = .host ∨ Mach.sciBy who = .mgt ∧ s.mgtSci ≠ some p := by
  cases who with
  | host => exact .inl rfl
  | mgt => exact .inr ⟨rfl, hq.resolve_left (by decide)⟩

theorem sciGo_off (hg : s.sciGranted p who = true) (hs : (s.port.get p).sci = none) (hq : who = .host ∨ s.mgtSci ≠ some p) (hw : wlen ≤ 32)
    (hr : rlen ≤ 32) (hm : s.sciMode p = 0 ∨ 4 < s.sciMode p) :
    Does (.sciGo p who addr wlen rlen) s fun t =>
      (t.port.get p).sci = none ∧ t.g (R.ING_SCI_STAT_RESULT p) ≠ 0 ∧ t.out = s.out ∧ OnlyIn [.regs, .port, .draws] s.toMach t := by
  refine does_of_act (f := Mach.sciGo p who addr wlen rlen) rfl (Mach.sciGo_starts hg hs) ?_
  rw [Mach.sciStart_eq]
  dsimp only
  rw [if_neg (by omega), Mach.sciBegun_mode, if_pos hm]
  set m2 := s.sciBegun p who addr wlen rlen
  have hb : Within [.regs, .port] s.toMach m2 := Mach.sciBegun_within
  have hm2 : m2.drawNat.2.mgtSci = s.mgtSci := ((Mach.drawNat_within m2).keeps .mgtSci).trans (hb.keeps .mgtSci)
  have hsci : (m2.drawNat.2.port.get p).sci = some { who := Mach.sciBy who, startEl := s.elapsed, rlen := rlen } := by
    rw [show m2.drawNat.2.port = m2.port from (Mach.drawNat_within m2).keeps .port]
    exact Mach.sciBegun_sci
  rw [Mach.sciEnd_quiet hsci (by rw [hm2]; exact sciBy_quiet hq)]
  have hw : Within [.regs, .port, .draws] s.toMach (m2.drawNat.2.sciEnded p (1 + m2.drawNat.1 % 4)
      (if 1 + m2.drawNat.1 % 4 = 0 then ([] : List Byte).take rlen else [])) :=
    (Mach.sciEnded_within _ _ _ _).after ((Mach.drawNat_within m2).after hb.mono)
  refine ⟨Mach.sciEnded_sci _ _ _ _, ?_, hw.keeps .out, hw.parts⟩
  rw [Mach.sciEnded_result _ _ _ _ (by omega)]
  omega

theorem sciGo_tooLong (hg : s.sciGranted p who = true) (hs : (s.port.get p).sci = none) (hq : who = .host ∨ s.mgtSci ≠ some p)
    (hl : 32 < wlen ∨ 32 < rlen) :
    Does (.sciGo p who addr wlen rlen) s fun t =>
      (t.port.get p).sci = none ∧ t.g (R.ING_SCI_STAT_RESULT p) = 3 ∧ t.out = s.out ∧ OnlyIn [.regs, .port] s.toMach t := by
  refine does_of_act (f := Mach.sciGo p who addr wlen rlen) rfl (Mach.sciGo_starts hg hs) ?_
  rw [Mach.sciStart_eq]
  dsimp only
  rw [if_pos hl]
  set m2 := s.sciBegun p who addr wlen rlen
  have hb : Within [.regs, .port] s.toMach m2 := Mach.sciBegun_within
  have hm2 : m2.mgtSci = s.mgtSci := hb.keeps .mgtSci
  rw [Mach.sciEnd_quiet Mach.sciBegun_sci (by rw [hm2]; exact sciBy_quiet hq)]
  have hw := (Mach.sciEnded_within p 3 (if 3 = 0 then ([] : List Byte).take rlen else []) m2).after hb
  exact ⟨Mach.sciEnded_sci _ _ _ _, Mach.sciEnded_result _ _ _ _ (by decide), hw.keeps .out, hw.parts⟩

theorem sciEnd_ofHost {result : Nat} {got : List Byte} {run : SciRun} (hrun : (s.port.get p).sci = some run) (hh : run.who = .host) (hr : result < 8) :
    Does (.sciTransferDone p result got) s fun t =>
      (t.port.get p).sci = none ∧ t.g (R.ING_SCI_STAT_RESULT p) = result ∧
      (result = 0 → (got.take run.rlen).length ≤ 32 → (t.sciBuf p).take (got.take run.rlen).length = got.take run.rlen) ∧
      (result ≠ 0 → t.sciBuf p = s.sciBuf p) ∧ OnlyIn [.regs, .port] s.toMach t := by
  refine does_of_act (f := Mach.sciEnd p result got) rfl (Mach.sciEnd_quiet hrun (.inl hh)) ?_
  refine ⟨Mach.sciEnded_sci _ _ _ _, Mach.sciEnded_result _ _ _ _ hr, fun h0 hl => ?_, fun h0 => ?_, (Mach.sciEnded_within _ _ _ _).parts⟩
  · rw [Mach.sciEnded_buf, if_pos h0, if_pos h0, List.take_of_length_le hl, List.take_left]
  · rw [Mach.sciEnded_buf, if_neg h0]

theorem sciTimeout_ofHost {run : SciRun} (hrun : (s.port.get p).sci = some run) (hh : run.who = .host) :
    Does (.sciTimeout p) s fun t =>
      (t.port.get p).sci = none ∧ t.g (R.ING_SCI_STAT_RESULT p) = 4 ∧ t.out = .sciRecover p.1 :: s.out ∧
      run.startEl + 25000000 ≤ t.elapsed ∧ OnlyIn [.regs, .port, .out, .time, .enc, .jnl, .tick, .cache] s.toMach t := by
  set m1 := s.runToElapsed (run.startEl + 25000001) with hm1
  have hc : ClockOnly s.toMach m1 := Mach.runToElapsed_clockOnly _ _
  have hsci : ((m1.emit (.sciRecover p.1)).port.get p).sci = some run := by
    rw [Mach.emit_port, show m1.port = s.port from hc.parts .port (by decide)]; exact hrun
  have he : Mach.sciTimeout p s.toMach = (m1.emit (.sciRecover p.1)).sciEnded p 4 (if 4 = 0 then ([] : List Byte).take run.rlen else []) := by
    unfold Mach.sciTimeout
    rw [hrun]
    exact Mach.sciEnd_quiet hsci (.inl hh)
  have hw := Mach.sciEnded_within p 4 (if 4 = 0 then ([] : List Byte).take run.rlen else []) (m1.emit (.sciRecover p.1))
  refine does_of_act rfl he ⟨Mach.sciEnded_sci _ _ _ _, Mach.sciEnded_result _ _ _ _ (by decide), ?_, ?_, ?_⟩
  · rw [show Mach.out _ = _ from hw.keeps .out, Mach.emit_out, show m1.out = s.out from hc.parts .out (by decide)]
  · have hr := Mach.runToElapsed_reaches s.toMach (run.startEl + 25000001)
    unfold Mach.elapsed at hr ⊢
    rw [show Mach.time _ = _ from hw.keeps .time]
    exact le_trans (by omega) hr
  · exact ((hc.parts.append (OnlyIn.emit _ _)).append hw.parts).mono (by decide)

end

/-- Settles O14. -/
theorem sensorControlTransfers : Obligations.SensorControlTransfers := by
  unfold Obligations.SensorControlTransfers
  intro s p who addr wlen rlen result got x granted quiet
  refine ⟨fun h => ?_, fun h hs => ?_, fun hg hs ha hw hr h0 h4 => ?_, sciGo_off, fun h => ⟨?_, ?_⟩, fun h hr => ?_, sciGo_tooLong,
    fun run hrun hh hr => sciEnd_ofHost hrun hh hr, fun run hrun hh => sciTimeout_ofHost hrun hh⟩
  · exact does_of_act (f := Mach.sciGo p who addr wlen rlen) rfl (Mach.sciGo_notGranted h)
      ⟨Mach.g_set1 _ _ rfl (by simp only [R.ING_SCI_STAT_OWN_ERR]; omega), Mach.RegsBut.put _ _ _, OnlyIn.set1 _ _⟩
  · exact does_of_act (f := Mach.sciGo p who addr wlen rlen) rfl (Mach.sciGo_lost h hs)
      ⟨Mach.g_set1 _ _ rfl (by simp only [R.ING_SCI_STAT_CMD_LOST]; omega), Mach.RegsBut.put _ _ _, OnlyIn.set1 _ _⟩
  · exact sciGo_runs hg hs ha hw hr h0 h4
  · exact idles_of_act (f := Mach.sciEnd p result got) rfl (Mach.sciEnd_idle h)
  · refine idles_of_act (f := Mach.sciTimeout p) rfl ?_
    unfold Mach.sciTimeout
    rw [show (s.port.get p).sci = none from h]
  · exact does_of_act (f := Mach.sciEnd p result got) rfl rfl (Mach.sciEnd_ends h hr)

end Sys2Proof.Machine

namespace Sys2Proof.Machine

set_option Elab.async false

namespace Mach

theorem onTrig_get_self (m : Mach) (o : Fin 8) (f : TrigOut → TrigOut) : (m.onTrig o f).time.trigOut.get o = f (m.time.trigOut.get o) := by
  show (vmod m.time.trigOut o f).get o = _
  rw [vmod_get_self]

theorem onTrig_get_ne (m : Mach) {o k : Fin 8} (f : TrigOut → TrigOut) (h : k ≠ o) : (m.onTrig o f).time.trigOut.get k = m.time.trigOut.get k := by
  show (vmod m.time.trigOut o f).get k = _
  rw [vmod_get_ne _ _ h]

end Mach

/-! ## What running the counter keeps of the trigger outputs -/

/-- No trigger output changes but for the end of its action pulse. -/
def PulsesOnly (a b : Mach) : Prop :=
  ∀ o : Fin 8, b.time.trigOut.get o = { a.time.trigOut.get o with actUntil := (b.time.trigOut.get o).actUntil }

namespace PulsesOnly

theorem refl (a : Mach) : PulsesOnly a a := fun _ => rfl

theorem trans {a b c : Mach} (h1 : PulsesOnly a b) (h2 : PulsesOnly b c) : PulsesOnly a c := fun o => by rw [h2 o, h1 o]

theorem of_outputs {a b : Mach} (h : b.time.trigOut = a.time.trigOut) : PulsesOnly a b := fun o => by rw [h]

theorem of_within {l : List Part} {a b : Mach} (h : Within l a b) (ht : Part.time ∉ l := by decide) : PulsesOnly a b :=
  of_outputs (by rw [show b.time = a.time from h.parts .time ht])

theorem forEach {α : Type} (xs : List α) (f : α → Mach → Mach) (h : ∀ x m, PulsesOnly m (f x m)) (m : Mach) : PulsesOnly m (forEach xs f m) :=
  forEach_keeps (PulsesOnly m) xs f (fun x t ht => ht.trans (h x t)) m (refl m)

theorem onActUntil (m : Mach) (o : Fin 8) (u : TrigOut → Option Int) : PulsesOnly m (m.onTrig o fun t => { t with actUntil := u t }) := fun k => by
  by_cases h : k = o
  · subst k
    rw [Mach.onTrig_get_self]
  · rw [Mach.onTrig_get_ne m _ h]

end PulsesOnly

namespace Mach

theorem fireAction_pulsesOnly (late also : Bool) (a : Action) (m : Mach) : PulsesOnly m (m.fireAction late also a) := by
  unfold fireAction
  split
  · exact .of_within (missAction_within _ a m)
  · extract_lets ovl stop m0 m1 m2 m3
    have h0 : PulsesOnly m m0 := by
      unfold m0
      split
      · exact .of_outputs rfl
      · exact .refl m
    have h1 : PulsesOnly m m1 := h0.trans (PulsesOnly.onActUntil m0 a.out _)
    have hw : Within [.regs, .tick, .jnl, .cache] m1 m3 := (inc_within _ _).after <| (dropAction_within _ _).after <| (write'_within _ _ _ _).mono
    split
    · exact h1.trans (.of_within ((inc_within _ _).after hw))
    · exact h1.trans (.of_within hw)

theorem lateAction_pulsesOnly (c : MissCause) (a : Action) (m : Mach) : PulsesOnly m (m.lateAction c a) := by
  unfold lateAction
  split
  · exact .of_outputs rfl
  · split
    · exact fireAction_pulsesOnly _ _ a m
    · exact .of_within (missAction_within _ a m)

theorem encoderLost_pulsesOnly (n : Fin 4) (m : Mach) : PulsesOnly m (m.encoderLost n) :=
  PulsesOnly.forEach _ _ (fun (e : Nat × Action) t => lateAction_pulsesOnly _ e.2 t) m

theorem applyValueSet_pulsesOnly (n : Fin 4) (s : Int) (m : Mach) : PulsesOnly m (m.applyValueSet n s) := by
  unfold applyValueSet
  dsimp only
  split
  · exact ((PulsesOnly.of_within (onEnc_within n _ m)).trans (encoderLost_pulsesOnly n _)).trans (.of_within (markReached_within n _))
  · split
    · exact (PulsesOnly.of_within (onEnc_within n _ m)).trans (.of_within (markReached_within n _))
    · exact .refl m

theorem captureAll_pulsesOnly (first last : Int) (mark : Option (Int × Int)) (m : Mach) : PulsesOnly m (m.captureAll first last mark) :=
  PulsesOnly.forEach _ _ (fun n t => (PulsesOnly.of_within (onEnc_within n _ t)).trans (applyValueSet_pulsesOnly n first _)) m

theorem runIncs_pulsesOnly (k : Nat) (m : Mach) : PulsesOnly m (m.runIncs k) := by
  have h : PulsesOnly m (m.tickClock k) := .of_outputs rfl
  unfold runIncs
  extract_lets m1 first last
  split
  · exact h
  · exact h.trans (captureAll_pulsesOnly _ _ _ _)

theorem runTo_pulsesOnly (t : Int) (m : Mach) : PulsesOnly m (m.runTo t) := runIncs_pulsesOnly _ m
theorem runToElapsed_pulsesOnly (t : Int) (m : Mach) : PulsesOnly m (m.runToElapsed t) := runIncs_pulsesOnly _ m

/-! ## Trigger outputs (R343, R344) -/

/-- The next instant of a period lies ahead and a whole number of periods from the start. -/
theorem nextPeriodic_spec (start : Int) {period : Int} (now : Int) (h : 0 < period) :
    now < nextPeriodic start period now ∧ (nextPeriodic start period now - start) % period = 0 := by
  unfold nextPeriodic
  split
  · case isTrue hn => exact ⟨hn, by simp⟩
  · case isFalse hn =>
    have h1 := Int.mul_fdiv_add_fmod (now - start) period
    have h2 := Int.fmod_lt_of_pos (now - start) h
    refine ⟨?_, ?_⟩
    · have h3 : ((now - start).fdiv period + 1) * period = period * (now - start).fdiv period + period := by ring
      omega
    · rw [add_sub_cancel_left, Int.mul_emod_left]

/-- The output disarmed, with the values taken at the write. -/
def trigIdle (o : Fin 8) (m : Mach) : Mach :=
  m.onTrig o fun t => { t with armed := false, reached := false, highUntil := none, actUntil := none, width := m.g (R.TIM_TO_WIDTH o),
                               period := m.g (R.TIM_TO_PERIOD o), posPer := m.g (R.TIM_TO_POSPER o) }

theorem trigIdle_get (o : Fin 8) (m : Mach) : (m.trigIdle o).time.trigOut.get o =
    { m.time.trigOut.get o with
      armed := false, reached := false, highUntil := none, actUntil := none, width := m.g (R.TIM_TO_WIDTH o)
      period := m.g (R.TIM_TO_PERIOD o), posPer := m.g (R.TIM_TO_POSPER o) } := onTrig_get_self m o _

/-- The output can be armed in the mode that its control word holds (R343). -/
def armOk (o : Fin 8) (m : Mach) : Prop :=
  (m.g (R.TIM_TO_CTRL_MODE o) = 1 ∧ m.time.n < m.gi64 (R.TIM_TO_START_LO_A o) (R.TIM_TO_START_HI_A o)) ∨
    (m.g (R.TIM_TO_CTRL_MODE o) = 2 ∧ 8 ≤ m.g (R.TIM_TO_WIDTH o) ∧ m.g (R.TIM_TO_WIDTH o) < m.g (R.TIM_TO_PERIOD o)) ∨
    m.g (R.TIM_TO_CTRL_MODE o) = 3

/-- What arming writes into the output, where it can be armed. -/
def armedBy (o : Fin 8) (m : Mach) (t : TrigOut) : TrigOut :=
  if m.g (R.TIM_TO_CTRL_MODE o) = 3 then { t with armed := true, pos := m.gi64 (R.TIM_TO_POS_LO_A o) (R.TIM_TO_POS_HI_A o) }
  else { t with
    armed := true
    next := if m.g (R.TIM_TO_CTRL_MODE o) = 1 then m.gi64 (R.TIM_TO_START_LO_A o) (R.TIM_TO_START_HI_A o)
      else nextPeriodic (m.gi64 (R.TIM_TO_START_LO_A o) (R.TIM_TO_START_HI_A o)) (m.g (R.TIM_TO_PERIOD o)) m.time.n }

theorem armTrig_ok {o : Fin 8} {m : Mach} (h : m.armOk o) : armTrig o m = (m.trigIdle o).onTrig o (m.armedBy o) := by
  unfold armOk at h
  unfold armTrig armedBy trigIdle
  generalize m.g (R.TIM_TO_CTRL_MODE o) = mode at h ⊢
  generalize m.gi64 (R.TIM_TO_START_LO_A o) (R.TIM_TO_START_HI_A o) = start at h ⊢
  generalize m.g (R.TIM_TO_WIDTH o) = width at h ⊢
  generalize m.g (R.TIM_TO_PERIOD o) = period at h ⊢
  generalize m.gi64 (R.TIM_TO_POS_LO_A o) (R.TIM_TO_POS_HI_A o) = pos
  generalize m.g (R.TIM_TO_POSPER o) = posPer
  rcases h with ⟨rfl, hs⟩ | ⟨rfl, hw⟩ | rfl
  · simp only [if_neg (not_le.2 hs), if_neg (show ¬ (1 : Nat) = 3 by decide), if_true]
  · simp only [if_pos hw, if_neg (show ¬ (2 : Nat) = 3 by decide), if_neg (show ¬ (2 : Nat) = 1 by decide)]
  · simp only [if_true]

theorem armTrig_notOk {o : Fin 8} {m : Mach} (h : ¬ m.armOk o) :
    armTrig o m = if m.g (R.TIM_TO_CTRL_MODE o) = 1 ∨ m.g (R.TIM_TO_CTRL_MODE o) = 2 then (m.trigIdle o).set1 (R.TIM_TO_CTRL_LATE o) else m.trigIdle o := by
  unfold armOk at h
  unfold armTrig trigIdle
  generalize m.g (R.TIM_TO_CTRL_MODE o) = mode at h ⊢
  generalize m.gi64 (R.TIM_TO_START_LO_A o) (R.TIM_TO_START_HI_A o) = start at h ⊢
  generalize m.g (R.TIM_TO_WIDTH o) = width at h ⊢
  generalize m.g (R.TIM_TO_PERIOD o) = period at h ⊢
  by_cases h1 : mode = 1
  · subst h1
    rw [if_pos (.inl rfl)]
    exact if_pos (not_lt.1 fun hs => h (.inl ⟨rfl, hs⟩))
  by_cases h2 : mode = 2
  · subst h2
    rw [if_pos (.inr rfl)]
    exact if_neg fun hw => h (.inr (.inl ⟨rfl, hw⟩))
  rw [if_neg (by simp [h1, h2])]
  split
  · exact absurd rfl h1
  · exact absurd rfl h2
  · exact absurd (.inr (.inr rfl)) h
  · rfl

/-! ### A write of the control word -/

/-- The control word after the write, before the output is armed. -/
def ctrlWord (o : Fin 8) (val : Word) (m : Mach) : Mach :=
  ((((if bitN val.toNat 31 then m.clr (R.TIM_TO_CTRL_LATE o) else m).put (R.TIM_TO_CTRL_ENC o) (bitsN val.toNat 7 6)).put
    (R.TIM_TO_CTRL_LEVEL o) (bitsN val.toNat 5 5)).put (R.TIM_TO_CTRL_POL o) (bitsN val.toNat 4 4)).put (R.TIM_TO_CTRL_MODE o) (bitsN val.toNat 2 0)

theorem trigCtrl_eq (o : Fin 8) (val : Word) (m : Mach) : m.trigCtrl o val = (m.ctrlWord o val).armTrig o := rfl

section
variable (o : Fin 8) (val : Word) (m : Mach)

theorem ctrlWord_within : Within [.regs] m (m.ctrlWord o val) := by
  unfold ctrlWord
  refine (put_within _ _ _).after <| (put_within _ _ _).after <| (put_within _ _ _).after <| (put_within _ _ _).after ?_
  split
  · exact clr_within _ _
  · exact Within.refl _ _

theorem ctrlWord_regsBut : RegsBut [(R.TIM_TO_CTRL_MODE o).a] m (m.ctrlWord o val) := fun off h => by
  have hne : ∀ f : Fld, f.a = (R.TIM_TO_CTRL_MODE o).a → off ≠ f.a := fun f hf => by rw [hf]; simpa using h
  unfold ctrlWord
  rw [rd_put_ne _ _ _ (hne _ rfl), rd_put_ne _ _ _ (hne (R.TIM_TO_CTRL_POL o) rfl), rd_put_ne _ _ _ (hne (R.TIM_TO_CTRL_LEVEL o) rfl),
    rd_put_ne _ _ _ (hne (R.TIM_TO_CTRL_ENC o) rfl)]
  split
  · exact rd_put_ne _ _ _ (hne (R.TIM_TO_CTRL_LATE o) rfl)
  · rfl

theorem bitsN_fits (v hi lo : Nat) : bitsN v hi lo < 2 ^ (hi + 1 - lo) := bitsN_lt v hi lo

theorem ctrlWord_mode : (m.ctrlWord o val).g (R.TIM_TO_CTRL_MODE o) = bitsN val.toNat 2 0 :=
  g_put_fits _ (by simp only [R.TIM_TO_CTRL_MODE]; omega) (bitsN_lt _ _ _)

theorem ctrlWord_enc : (m.ctrlWord o val).g (R.TIM_TO_CTRL_ENC o) = bitsN val.toNat 7 6 := by
  have h1 : Apart (R.TIM_TO_CTRL_MODE o) (R.TIM_TO_CTRL_ENC o) := by simp only [Apart, R.TIM_TO_CTRL_MODE, R.TIM_TO_CTRL_ENC]; omega
  have h2 : Apart (R.TIM_TO_CTRL_POL o) (R.TIM_TO_CTRL_ENC o) := by simp only [Apart, R.TIM_TO_CTRL_POL, R.TIM_TO_CTRL_ENC]; omega
  have h3 : Apart (R.TIM_TO_CTRL_LEVEL o) (R.TIM_TO_CTRL_ENC o) := by simp only [Apart, R.TIM_TO_CTRL_LEVEL, R.TIM_TO_CTRL_ENC]; omega
  unfold ctrlWord
  rw [g_put_apart _ _ h1, g_put_apart _ _ h2, g_put_apart _ _ h3]
  exact g_put_fits _ (by simp only [R.TIM_TO_CTRL_ENC]; omega) (bitsN_lt _ _ _)

/-- The registers that arming reads, other than the control word's, are those before the write. -/
theorem ctrlWord_rd {off : Nat} (h : off ≠ (R.TIM_TO_CTRL_MODE o).a) : (m.ctrlWord o val).rd off = m.rd off :=
  ctrlWord_regsBut o val m off (by simpa using h)

theorem ctrlWord_width : (m.ctrlWord o val).g (R.TIM_TO_WIDTH o) = m.g (R.TIM_TO_WIDTH o) := by
  unfold g; rw [ctrlWord_rd o val m (by simp only [R.TIM_TO_WIDTH, R.TIM_TO_CTRL_MODE]; omega)]

theorem ctrlWord_period : (m.ctrlWord o val).g (R.TIM_TO_PERIOD o) = m.g (R.TIM_TO_PERIOD o) := by
  unfold g; rw [ctrlWord_rd o val m (by simp only [R.TIM_TO_PERIOD, R.TIM_TO_CTRL_MODE]; omega)]

theorem ctrlWord_posPer : (m.ctrlWord o val).g (R.TIM_TO_POSPER o) = m.g (R.TIM_TO_POSPER o) := by
  unfold g; rw [ctrlWord_rd o val m (by simp only [R.TIM_TO_POSPER, R.TIM_TO_CTRL_MODE]; omega)]

theorem ctrlWord_start :
    (m.ctrlWord o val).gi64 (R.TIM_TO_START_LO_A o) (R.TIM_TO_START_HI_A o) = m.gi64 (R.TIM_TO_START_LO_A o) (R.TIM_TO_START_HI_A o) := by
  unfold gi64 g64
  rw [ctrlWord_rd o val m (by simp only [R.TIM_TO_START_LO_A, R.TIM_TO_CTRL_MODE]; omega),
    ctrlWord_rd o val m (by simp only [R.TIM_TO_START_HI_A, R.TIM_TO_CTRL_MODE]; omega)]

theorem ctrlWord_pos :
    (m.ctrlWord o val).gi64 (R.TIM_TO_POS_LO_A o) (R.TIM_TO_POS_HI_A o) = m.gi64 (R.TIM_TO_POS_LO_A o) (R.TIM_TO_POS_HI_A o) := by
  unfold gi64 g64
  rw [ctrlWord_rd o val m (by simp only [R.TIM_TO_POS_LO_A, R.TIM_TO_CTRL_MODE]; omega),
    ctrlWord_rd o val m (by simp only [R.TIM_TO_POS_HI_A, R.TIM_TO_CTRL_MODE]; omega)]

end

/-- A pulse that starts: the clock has reached the instant, and the output waits for its next one (R343). -/
theorem trigStart_idle {o : Fin 8} {m : Mach}
    (h : ¬ ((m.time.trigOut.get o).armed = true ∧ (m.g (R.TIM_TO_CTRL_MODE o) = 1 ∨ m.g (R.TIM_TO_CTRL_MODE o) = 2))) : trigStart o m = m := if_neg h

theorem trigStart_starts {o : Fin 8} {m : Mach}
    (h : (m.time.trigOut.get o).armed = true ∧ (m.g (R.TIM_TO_CTRL_MODE o) = 1 ∨ m.g (R.TIM_TO_CTRL_MODE o) = 2)) :
    trigStart o m = (m.runTo (m.time.trigOut.get o).next).onTrig o fun x =>
      { x with highUntil := some ((m.runTo (m.time.trigOut.get o).next).elapsed + x.width), armed := m.g (R.TIM_TO_CTRL_MODE o) == 2
               next := if m.g (R.TIM_TO_CTRL_MODE o) = 2 then nextPeriodic x.next x.period (m.runTo (m.time.trigOut.get o).next).time.n else x.next } :=
  if_pos h

theorem trigPosition_idle {o : Fin 8} {m : Mach}
    (h : ¬ ((m.time.trigOut.get o).armed = true ∧ m.g (R.TIM_TO_CTRL_MODE o) = 3 ∧ (m.time.trigOut.get o).reached = true)) : trigPosition o m = m :=
  if_neg fun ⟨h1, h2, h3⟩ => h ⟨h2, h1, h3⟩

theorem trigPosition_pulses {o : Fin 8} {m : Mach}
    (h : (m.time.trigOut.get o).armed = true ∧ m.g (R.TIM_TO_CTRL_MODE o) = 3 ∧ (m.time.trigOut.get o).reached = true) :
    trigPosition o m = m.onTrig o fun x =>
      { x with highUntil := some (m.elapsed + x.width), armed := x.posPer != 0, reached := false, pos := x.pos + x.posPer } :=
  if_pos ⟨h.2.1, h.1, h.2.2⟩

theorem trigPulseEnd_idle {o : Fin 8} {m : Mach} (h : (m.time.trigOut.get o).highUntil = none) : trigPulseEnd o m = m := by
  unfold trigPulseEnd; rw [h]

theorem trigPulseEnd_ends {o : Fin 8} {u : Int} {m : Mach} (h : (m.time.trigOut.get o).highUntil = some u) :
    trigPulseEnd o m = (m.runToElapsed u).onTrig o fun x => { x with highUntil := none } := by
  unfold trigPulseEnd; rw [h]

/-! ## PPS_OUT (R345) -/

theorem ppsOut_idle {m : Mach} (h : m.on R.TIM_CTRL_PPS_EN = false) : ppsOut m = m := if_neg (by simp [h])

theorem ppsOut_fires {m : Mach} (h : m.on R.TIM_CTRL_PPS_EN = true) : ppsOut m = (m.runTo m.ppsDue).ppsFire m.ppsDue := if_pos h

theorem ppsOutEnd_idle {m : Mach} (h : m.time.ppsUntil = none) : ppsOutEnd m = m := by unfold ppsOutEnd; rw [h]

theorem ppsOutEnd_ends {u : Int} {m : Mach} (h : m.time.ppsUntil = some u) : ppsOutEnd m = (m.runToElapsed u).onTime fun t => { t with ppsUntil := none } := by
  unfold ppsOutEnd; rw [h]

/-- The instant of the next pulse: not past, after the last one, and the offset after a whole second. -/
theorem ppsDue_spec (m : Mach) : m.time.n ≤ m.ppsDue ∧ (m.ppsDue - m.gi R.TIM_PPS_OFS) % 1000000000 = 0 ∧ ∀ l ∈ m.time.ppsLast, l < m.ppsDue := by
  have key : ∀ lo ofs : Int, lo ≤ lo + (ofs.fmod 1000000000 - lo).fmod 1000000000 ∧
      (lo + (ofs.fmod 1000000000 - lo).fmod 1000000000 - ofs) % 1000000000 = 0 := fun lo ofs => by
    rw [Int.fmod_eq_emod_of_nonneg _ (by norm_num), Int.fmod_eq_emod_of_nonneg _ (by norm_num)]
    omega
  unfold ppsDue
  dsimp only
  cases m.time.ppsLast with
  | none =>
    obtain ⟨h1, h2⟩ := key m.time.n (m.gi R.TIM_PPS_OFS)
    exact ⟨h1, h2, by simp⟩
  | some l =>
    obtain ⟨h1, h2⟩ := key (max m.time.n (l + 1)) (m.gi R.TIM_PPS_OFS)
    refine ⟨(le_max_left _ _).trans h1, h2, fun x hx => ?_⟩
    obtain rfl : l = x := by simpa using hx
    exact lt_of_lt_of_le (by omega) ((le_max_right _ _).trans h1)

theorem atLeast1_pos (v : Nat) : 0 < atLeast1 v := by unfold atLeast1; split <;> omega

end Mach
end Sys2Proof.Machine

namespace Sys2Proof.Machine

set_option Elab.async false

namespace Mach

/-! ## What arming leaves in the output and in its control word -/

/-- The fields of an output that every write of the control word sets (R344). -/
def WrittenOut (o : Fin 8) (m : Mach) (y : TrigOut) : Prop :=
  y.highUntil = none ∧ y.actUntil = none ∧ y.reached = false ∧ y.width = m.g (R.TIM_TO_WIDTH o) ∧ y.period = m.g (R.TIM_TO_PERIOD o) ∧
    y.posPer = m.g (R.TIM_TO_POSPER o)

/-- The instant or position that an armed output waits for. -/
def WaitsFor (o : Fin 8) (m : Mach) (y : TrigOut) : Prop :=
  (m.g (R.TIM_TO_CTRL_MODE o) = 1 → y.next = m.gi64 (R.TIM_TO_START_LO_A o) (R.TIM_TO_START_HI_A o)) ∧
    (m.g (R.TIM_TO_CTRL_MODE o) = 2 → m.time.n < y.next ∧
      (y.next - m.gi64 (R.TIM_TO_START_LO_A o) (R.TIM_TO_START_HI_A o)) % (m.g (R.TIM_TO_PERIOD o) : Int) = 0) ∧
    (m.g (R.TIM_TO_CTRL_MODE o) = 3 → y.pos = m.gi64 (R.TIM_TO_POS_LO_A o) (R.TIM_TO_POS_HI_A o))

section
variable {o : Fin 8} {m : Mach}

theorem armTrig_ok_get (h : m.armOk o) : (armTrig o m).time.trigOut.get o = m.armedBy o ((m.trigIdle o).time.trigOut.get o) := by
  rw [armTrig_ok h, onTrig_get_self]

theorem armedBy_written (y : TrigOut) (h : m.WrittenOut o y) : m.WrittenOut o (m.armedBy o y) := by
  unfold armedBy
  split
  · exact h
  · exact h

theorem armedBy_armed (y : TrigOut) : (m.armedBy o y).armed = true := by
  unfold armedBy
  split <;> rfl

theorem armedBy_waits (h : m.armOk o) (y : TrigOut) : m.WaitsFor o (m.armedBy o y) := by
  unfold WaitsFor armedBy
  refine ⟨fun h1 => ?_, fun h2 => ?_, fun h3 => ?_⟩
  · rw [if_neg (by omega), if_pos h1]
  · have hp : (0 : Int) < m.g (R.TIM_TO_PERIOD o) := by
      rcases h with ⟨h1, -⟩ | ⟨-, -, hw⟩ | h3 <;> omega
    rw [if_neg (by omega), if_neg (by omega)]
    exact nextPeriodic_spec _ _ hp
  · rw [if_pos h3]

theorem trigIdle_written : m.WrittenOut o ((m.trigIdle o).time.trigOut.get o) := by
  rw [trigIdle_get]
  exact ⟨rfl, rfl, rfl, rfl, rfl, rfl⟩

theorem armTrig_notOk_time (h : ¬ m.armOk o) : (armTrig o m).time = (m.trigIdle o).time := by
  rw [armTrig_notOk h]
  split
  · rw [set1_time]
  · rfl

theorem armTrig_written : m.WrittenOut o ((armTrig o m).time.trigOut.get o) := by
  by_cases h : m.armOk o
  · rw [armTrig_ok_get h]
    exact armedBy_written _ trigIdle_written
  · rw [armTrig_notOk_time h]
    exact trigIdle_written

theorem armTrig_armed (h : m.armOk o) : ((armTrig o m).time.trigOut.get o).armed = true := by
  rw [armTrig_ok_get h]
  exact armedBy_armed _

theorem armTrig_disarmed (h : ¬ m.armOk o) : ((armTrig o m).time.trigOut.get o).armed = false := by
  rw [armTrig_notOk_time h, trigIdle_get]

theorem armTrig_waits (h : m.armOk o) : m.WaitsFor o ((armTrig o m).time.trigOut.get o) := by
  rw [armTrig_ok_get h]
  exact armedBy_waits h _

theorem armTrig_get_ne {k : Fin 8} (h : k ≠ o) : (armTrig o m).time.trigOut.get k = m.time.trigOut.get k := by
  have hi : (m.trigIdle o).time.trigOut.get k = m.time.trigOut.get k := onTrig_get_ne m _ h
  by_cases hok : m.armOk o
  · rw [armTrig_ok hok, onTrig_get_ne _ _ h, hi]
  · rw [armTrig_notOk_time hok, hi]

theorem armTrig_n : (armTrig o m).time.n = m.time.n := by
  by_cases h : m.armOk o
  · rw [armTrig_ok h]; rfl
  · rw [armTrig_notOk_time h]; rfl

/-- Arming touches the control word's LATE bit at most. -/
theorem armTrig_regs : (armTrig o m).regs = m.regs ∨ (armTrig o m).regs = (m.set1 (R.TIM_TO_CTRL_LATE o)).regs := by
  by_cases h : m.armOk o
  · rw [armTrig_ok h]
    exact .inl (by rw [onTrig_regs]; rfl)
  · rw [armTrig_notOk h]
    split
    · exact .inr rfl
    · exact .inl rfl

theorem armTrig_g {f : Fld} (h : Apart (R.TIM_TO_CTRL_LATE o) f) : (armTrig o m).g f = m.g f := by
  rcases armTrig_regs (o := o) (m := m) with hr | hr
  · exact g_of_regs hr f
  · exact (g_of_regs hr f).trans (g_set1_apart m h)

theorem armTrig_regsBut : RegsBut [(R.TIM_TO_CTRL_MODE o).a] m (armTrig o m) := by
  rcases armTrig_regs (o := o) (m := m) with hr | hr
  · exact RegsBut.of_regs (RegsBut.refl _ m) hr
  · exact RegsBut.of_regs (RegsBut.put m (R.TIM_TO_CTRL_LATE o) 1) hr

theorem armTrig_late (h : ¬ m.armOk o) (hm : m.g (R.TIM_TO_CTRL_MODE o) = 1 ∨ m.g (R.TIM_TO_CTRL_MODE o) = 2) :
    (armTrig o m).g (R.TIM_TO_CTRL_LATE o) = 1 := by
  rw [armTrig_notOk h, if_pos hm]
  exact g_set1 _ _ rfl (by simp only [R.TIM_TO_CTRL_LATE]; omega)

end

end Mach

section
variable (s : State) (o : Fin 8) (val : Word)

/-- The modes that can be armed, from the written word and the registers before it. -/
theorem ctrlWord_armOk :
    (s.ctrlWord o val).armOk o ↔
      (bitsN val.toNat 2 0 = 1 ∧ s.time.n < s.gi64 (R.TIM_TO_START_LO_A o) (R.TIM_TO_START_HI_A o)) ∨
      (bitsN val.toNat 2 0 = 2 ∧ 8 ≤ s.g (R.TIM_TO_WIDTH o) ∧ s.g (R.TIM_TO_WIDTH o) < s.g (R.TIM_TO_PERIOD o)) ∨ bitsN val.toNat 2 0 = 3 := by
  unfold Mach.armOk
  rw [Mach.ctrlWord_mode, Mach.ctrlWord_start, Mach.ctrlWord_width, Mach.ctrlWord_period,
    show (s.ctrlWord o val).time = s.time from (Mach.ctrlWord_within o val _).keeps .time]

theorem trigCtrl_writes :
    let mode := bitsN val.toNat 2 0
    let start := s.gi64 (R.TIM_TO_START_LO_A o) (R.TIM_TO_START_HI_A o)
    let ok := (mode = 1 ∧ s.time.n < start) ∨ (mode = 2 ∧ 8 ≤ s.g (R.TIM_TO_WIDTH o) ∧ s.g (R.TIM_TO_WIDTH o) < s.g (R.TIM_TO_PERIOD o)) ∨ mode = 3
    Does (.trigOutCtrlWrite o val) s fun t =>
      let y := t.time.trigOut.get o
      y.highUntil = none ∧ y.actUntil = none ∧ y.reached = false ∧ y.width = s.g (R.TIM_TO_WIDTH o) ∧ y.period = s.g (R.TIM_TO_PERIOD o) ∧
      y.posPer = s.g (R.TIM_TO_POSPER o) ∧
      t.g (R.TIM_TO_CTRL_MODE o) = mode ∧ t.g (R.TIM_TO_CTRL_ENC o) = bitsN val.toNat 7 6 ∧
      (ok → y.armed = true) ∧ (¬ ok → y.armed = false) ∧ (¬ ok → mode = 1 ∨ mode = 2 → t.g (R.TIM_TO_CTRL_LATE o) = 1) ∧
      (mode = 1 → ok → y.next = start) ∧
      (mode = 2 → ok → s.time.n < y.next ∧ (y.next - start) % (s.g (R.TIM_TO_PERIOD o) : Int) = 0) ∧
      (mode = 3 → y.pos = s.gi64 (R.TIM_TO_POS_LO_A o) (R.TIM_TO_POS_HI_A o)) ∧
      (∀ k, k ≠ o → t.time.trigOut.get k = s.time.trigOut.get k) ∧ t.time.n = s.time.n ∧
      RegsBut [(R.TIM_TO_CTRL_MODE o).a] s.toMach t ∧ OnlyIn [.regs, .time] s.toMach t := by
  intro mode start ok
  refine does_of_act (f := Mach.trigCtrl o val) rfl (Mach.trigCtrl_eq o val s.toMach) ?_
  set w := s.ctrlWord o val with hw
  have hok : w.armOk o ↔ ok := ctrlWord_armOk s o val
  have hmode : w.g (R.TIM_TO_CTRL_MODE o) = mode := Mach.ctrlWord_mode o val _
  have htime : w.time = s.time := (Mach.ctrlWord_within o val _).keeps .time
  have hwritten := Mach.armTrig_written (o := o) (m := w)
  rw [Mach.WrittenOut, Mach.ctrlWord_width, Mach.ctrlWord_period, Mach.ctrlWord_posPer] at hwritten
  obtain ⟨h1, h2, h3, h4, h5, h6⟩ := hwritten
  have hwaits : ok → (mode = 1 → _) ∧ (mode = 2 → _) ∧ (mode = 3 → _) := fun h => by
    have := Mach.armTrig_waits (hok.2 h)
    rwa [Mach.WaitsFor, hmode, Mach.ctrlWord_start, Mach.ctrlWord_pos, Mach.ctrlWord_period, htime] at this
  refine ⟨h1, h2, h3, h4, h5, h6, ?_, ?_, fun h => Mach.armTrig_armed (hok.2 h), fun h => Mach.armTrig_disarmed fun h' => h (hok.1 h'),
    fun h hm => Mach.armTrig_late (fun h' => h (hok.1 h')) (by rw [hmode]; exact hm), fun hm h => (hwaits h).1 hm, fun hm h => (hwaits h).2.1 hm,
    fun hm => (hwaits (.inr (.inr hm))).2.2 hm, fun k hk => by rw [Mach.armTrig_get_ne hk, htime], by rw [Mach.armTrig_n, htime],
    (Mach.ctrlWord_regsBut o val _).trans Mach.armTrig_regsBut, (Mach.trigCtrl_within o val _).parts⟩
  · rw [Mach.armTrig_g (by simp only [Mach.Apart, R.TIM_TO_CTRL_LATE, R.TIM_TO_CTRL_MODE]; omega), hmode]
  · rw [Mach.armTrig_g (by simp only [Mach.Apart, R.TIM_TO_CTRL_LATE, R.TIM_TO_CTRL_ENC]; omega)]
    exact Mach.ctrlWord_enc o val _

theorem trigStart_pulses (h : (s.time.trigOut.get o).armed = true ∧ (s.g (R.TIM_TO_CTRL_MODE o) = 1 ∨ s.g (R.TIM_TO_CTRL_MODE o) = 2)) :
    let x := s.time.trigOut.get o
    Does (.trigOutPulseStart o) s fun t =>
      let y := t.time.trigOut.get o
      x.next ≤ t.time.n ∧ y.highUntil = some (t.elapsed + x.width) ∧ (s.g (R.TIM_TO_CTRL_MODE o) = 1 → y.armed = false) ∧
      (s.g (R.TIM_TO_CTRL_MODE o) = 2 → y.armed = true ∧ (0 < x.period → t.time.n < y.next ∧ (y.next - x.next) % (x.period : Int) = 0)) ∧
      RegsOutside 0x1E0000 0x200000 s.toMach t ∧ OnlyIn [.regs, .time, .tick, .enc, .jnl, .cache] s.toMach t := by
  intro x
  have hwithin := (Mach.trigStart_within o s.toMach).parts
  rw [Mach.trigStart_starts h] at hwithin
  refine does_of_act (f := Mach.trigStart o) rfl (Mach.trigStart_starts h) ?_
  set m1 := s.runTo x.next with hm1
  have hx : m1.time.trigOut.get o = { x with actUntil := (m1.time.trigOut.get o).actUntil } := Mach.runTo_pulsesOnly _ _ o
  rw [Mach.onTrig_get_self, hx]
  refine ⟨Mach.runTo_reaches _ _, rfl, fun h1 => ?_, fun h2 => ⟨?_, fun hp => ?_⟩, fun off ho => ?_, hwithin⟩
  · simp [h1]
  · simp [h2]
  · dsimp only
    rw [if_pos h2]
    exact Mach.nextPeriodic_spec _ _ (by omega)
  · rw [Mach.onTrig_rd]
    exact (Mach.runTo_clockOnly _ _).regs off (by omega)

theorem trigPosition_does
    (h : (s.time.trigOut.get o).armed = true ∧ s.g (R.TIM_TO_CTRL_MODE o) = 3 ∧ (s.time.trigOut.get o).reached = true) :
    let x := s.time.trigOut.get o
    Does (.trigOutPositionPulse o) s fun t =>
      let y := t.time.trigOut.get o
      y.highUntil = some (s.elapsed + x.width) ∧ y.reached = false ∧ y.pos = x.pos + x.posPer ∧ (x.posPer = 0 → y.armed = false) ∧
      (x.posPer ≠ 0 → y.armed = true) ∧ (∀ k, k ≠ o → t.time.trigOut.get k = s.time.trigOut.get k) ∧ t.time.n = s.time.n ∧ OnlyIn [.time] s.toMach t := by
  intro x
  refine does_of_act (f := Mach.trigPosition o) rfl (Mach.trigPosition_pulses h) ?_
  rw [Mach.onTrig_get_self]
  exact ⟨rfl, rfl, rfl, fun h0 => by simpa using h0, fun h0 => by simpa using h0, fun k hk => Mach.onTrig_get_ne _ _ hk, rfl,
    (Mach.onTrig_within _ _ _).parts⟩

theorem trigPulseEnd_does {u : Int} (hu : (s.time.trigOut.get o).highUntil = some u) :
    Does (.trigOutPulseEnd o) s fun t =>
      u ≤ t.elapsed ∧ (t.time.trigOut.get o).highUntil = none ∧ (t.time.trigOut.get o).armed = (s.time.trigOut.get o).armed ∧
      OnlyIn [.regs, .time, .tick, .enc, .jnl, .cache] s.toMach t := by
  have hwithin := (Mach.trigPulseEnd_within o s.toMach).parts
  rw [Mach.trigPulseEnd_ends hu] at hwithin
  refine does_of_act (f := Mach.trigPulseEnd o) rfl (Mach.trigPulseEnd_ends hu) ?_
  rw [Mach.onTrig_get_self, Mach.runToElapsed_pulsesOnly u s.toMach o]
  exact ⟨Mach.runToElapsed_reaches _ _, rfl, rfl, hwithin⟩

theorem ppsOut_does (h : s.on R.TIM_CTRL_PPS_EN = true) :
    Does .ppsOutPulse s fun t =>
      (∃ d ∈ t.time.ppsLast, s.time.n ≤ d ∧ d ≤ t.time.n ∧ (d - s.gi R.TIM_PPS_OFS) % 1000000000 = 0 ∧ (∀ l ∈ s.time.ppsLast, l < d)) ∧
      t.time.ppsUntil = some (t.elapsed + atLeast1 (s.g R.TIM_PPS_WIDTH) * 1000) ∧
      (s.on R.TIM_CTRL_PPS_GATE = true → s.time.quality ≠ .locked → t.ppsLevel = false) ∧
      (s.on R.TIM_CTRL_PPS_GATE = false ∨ s.time.quality = .locked → t.ppsLevel = true) ∧
      OnlyIn [.regs, .time, .tick, .enc, .jnl, .cache] s.toMach t := by
  have hwithin := (Mach.ppsOut_within s.toMach).parts
  rw [Mach.ppsOut_fires h] at hwithin
  refine does_of_act (f := Mach.ppsOut) rfl (Mach.ppsOut_fires h) ?_
  obtain ⟨hn, hofs, hl⟩ := Mach.ppsDue_spec s.toMach
  set d := s.ppsDue
  have hc : ClockOnly s.toMach (s.runTo d) := Mach.runTo_clockOnly _ _
  have hw : (s.runTo d).g R.TIM_PPS_WIDTH = s.g R.TIM_PPS_WIDTH := hc.g _ (by decide)
  have hgate : ((s.runTo d).ppsFire d).ppsGated = (s.on R.TIM_CTRL_PPS_GATE && s.time.quality != .locked) := by
    unfold Mach.ppsGated
    have hon : ((s.runTo d).ppsFire d).on R.TIM_CTRL_PPS_GATE = s.on R.TIM_CTRL_PPS_GATE :=
      (Mach.onTime_on _ _ _).trans (hc.on _ (by decide))
    have hq : ((s.runTo d).ppsFire d).time.quality = s.time.quality := by
      show (s.runTo d).time.quality = _
      rw [hc.time]
    rw [hon, hq]
  have huntil : ((s.runTo d).ppsFire d).time.ppsUntil = some ((s.runTo d).elapsed + atLeast1 (s.g R.TIM_PPS_WIDTH) * 1000) := by
    rw [← hw]; rfl
  have hlevel : ((s.runTo d).ppsFire d).ppsLevel = !((s.runTo d).ppsFire d).ppsGated := by
    unfold Mach.ppsLevel
    rw [huntil]
    have hp := Mach.atLeast1_pos (s.g R.TIM_PPS_WIDTH)
    have he : ((s.runTo d).ppsFire d).elapsed = (s.runTo d).elapsed := rfl
    dsimp only
    rw [he, decide_eq_true (by omega), Bool.true_and]
  refine ⟨⟨d, rfl, hn, Mach.runTo_reaches _ _, hofs, hl⟩, huntil, fun hg hq => ?_, fun hg => ?_, hwithin⟩
  · rw [hlevel, hgate, hg]
    simpa using hq
  · rw [hlevel, hgate]
    rcases hg with hg | hg <;> simp [hg]

theorem ppsOutEnd_does {u : Int} (hu : s.time.ppsUntil = some u) :
    Does .ppsOutPulseEnd s fun t =>
      u ≤ t.elapsed ∧ t.time.ppsUntil = none ∧ t.time.ppsLast = s.time.ppsLast ∧ OnlyIn [.regs, .time, .tick, .enc, .jnl, .cache] s.toMach t := by
  have hwithin := (Mach.ppsOutEnd_within s.toMach).parts
  rw [Mach.ppsOutEnd_ends hu] at hwithin
  refine does_of_act (f := Mach.ppsOutEnd) rfl (Mach.ppsOutEnd_ends hu) ⟨Mach.runToElapsed_reaches _ _, rfl, ?_, hwithin⟩
  show (s.runToElapsed u).time.ppsLast = _
  rw [(Mach.runToElapsed_clockOnly u s.toMach).time]

end

/-- Settles O39. -/
theorem triggerOutputsFollowTheirMode : Obligations.TriggerOutputsFollowTheirMode := by
  unfold Obligations.TriggerOutputsFollowTheirMode
  intro s o val x mode start width period ok held runs hits
  exact ⟨trigCtrl_writes s o val, fun h => idles_of_act (f := Mach.trigStart o) rfl (Mach.trigStart_idle h), trigStart_pulses s o,
    fun h => idles_of_act (f := Mach.trigPosition o) rfl (Mach.trigPosition_idle h), trigPosition_does s o,
    fun h => idles_of_act (f := Mach.trigPulseEnd o) rfl (Mach.trigPulseEnd_idle h), fun u hu => trigPulseEnd_does s o hu,
    fun h => idles_of_act (f := Mach.ppsOut) rfl (Mach.ppsOut_idle h), ppsOut_does s,
    fun h => idles_of_act (f := Mach.ppsOutEnd) rfl (Mach.ppsOutEnd_idle h), fun u hu => ppsOutEnd_does s hu⟩

/-! ## Trigger inputs (R346) -/

namespace Mach

/-- EDGE selects an edge of this direction. -/
def edgeSel (k : Fin 4) (rise : Bool) (m : Mach) : Prop :=
  m.g (R.TIM_TI_CFG_EDGE k) = 3 ∨ (m.g (R.TIM_TI_CFG_EDGE k) = 1 ∧ rise = true) ∨ (m.g (R.TIM_TI_CFG_EDGE k) = 2 ∧ rise = false)

/-- The stamp of an edge accepted now. -/
def edgeStamp (k : Fin 4) (m : Mach) : Int := m.incsAgo (m.g (R.TIM_TI_CFG_FILT k)) + m.gi (R.TIM_TI_CFG_COMP k)

section
variable {k : Fin 4} {rise : Bool} {m : Mach}

theorem edgeSel_iff :
    m.edgeSel k rise ↔ ((m.g (R.TIM_TI_CFG_EDGE k) == 3) || (m.g (R.TIM_TI_CFG_EDGE k) == 1 && rise) || (m.g (R.TIM_TI_CFG_EDGE k) == 2 && !rise)) = true := by
  unfold edgeSel
  generalize m.g (R.TIM_TI_CFG_EDGE k) = e
  cases rise <;> simp

theorem trigIn_idle (h : ¬ m.edgeSel k rise) : trigIn k rise m = m := if_neg fun h' => h (edgeSel_iff.2 h')

theorem trigIn_selected (h : m.edgeSel k rise) :
    trigIn k rise m =
      if (m.time.trigIn.get k).fifo.length < 16 then
        m.onTime fun t => { t with trigIn := vmod t.trigIn k fun x => { x with fifo := x.fifo ++ [(m.edgeStamp k, rise)] } }
      else (m.set1 (R.TIM_TI_STAT_OVF k)).inc R.TIM_TI_OVF := if_pos (edgeSel_iff.1 h)

end

end Mach

section
variable {s : State} {k : Fin 4} {rise : Bool}

theorem trigIn_queues (h : s.edgeSel k rise) (hl : (s.time.trigIn.get k).fifo.length < 16) :
    Does (.trigInEdge k rise) s fun t =>
      (t.time.trigIn.get k).fifo = (s.time.trigIn.get k).fifo ++ [(s.edgeStamp k, rise)] ∧
      (∀ j, j ≠ k → t.time.trigIn.get j = s.time.trigIn.get j) ∧ t.time = { s.time with trigIn := t.time.trigIn } ∧ OnlyIn [.time] s.toMach t := by
  refine does_of_act (f := Mach.trigIn k rise) rfl ((Mach.trigIn_selected h).trans (if_pos hl)) ?_
  rw [Mach.onTime_time]
  exact ⟨by rw [vmod_get_self], fun j hj => vmod_get_ne _ _ hj, rfl, (Mach.onTime_within _ _).parts⟩

theorem trigIn_overflows (h : s.edgeSel k rise) (hl : 16 ≤ (s.time.trigIn.get k).fifo.length) :
    Does (.trigInEdge k rise) s fun t =>
      t.g (R.TIM_TI_STAT_OVF k) = 1 ∧ t.g R.TIM_TI_OVF = (s.g R.TIM_TI_OVF + 1) % 2 ^ 32 ∧
      RegsBut [(R.TIM_TI_STAT_OVF k).a, R.TIM_TI_OVF.a] s.toMach t ∧ OnlyIn [.regs] s.toMach t := by
  refine does_of_act (f := Mach.trigIn k rise) rfl ((Mach.trigIn_selected h).trans (if_neg (by omega))) ?_
  have hne : (R.TIM_TI_STAT_OVF k).a ≠ R.TIM_TI_OVF.a := by simp only [R.TIM_TI_STAT_OVF, R.TIM_TI_OVF]; omega
  refine ⟨?_, ?_, fun off ho => ?_, ((Mach.inc_within _ _).after (Mach.set1_within _ _)).parts⟩
  · rw [Mach.g_inc_ne _ _ _ hne]
    exact Mach.g_set1 _ _ rfl (by simp only [R.TIM_TI_STAT_OVF]; omega)
  · rw [Mach.g_inc_word _ _ rfl rfl, Mach.g_set1_ne _ _ _ hne.symm]
  · simp only [List.mem_cons, List.not_mem_nil, or_false, not_or] at ho
    exact (Mach.rd_put_ne _ R.TIM_TI_OVF _ ho.2).trans (Mach.rd_put_ne _ (R.TIM_TI_STAT_OVF k) 1 ho.1)

theorem trigInRead_empty (h : (s.time.trigIn.get k).fifo = []) :
    Does (.trigInFifoRead k) s fun t =>
      t.out.length = s.out.length + 1 ∧ t.draws = s.draws + 1 ∧ OnlyIn [.draws, .out] s.toMach t := by
  have he : Mach.trigInRead k s.toMach = s.drawNat.2.emit (.readValue (R.TIM_TI_LO_A k) (BitVec.ofNat 32 s.drawNat.1)) := by
    unfold Mach.trigInRead; rw [h]
  refine does_of_act (f := Mach.trigInRead k) rfl he ⟨?_, rfl, ?_⟩
  · rw [Mach.emit_out, List.length_cons, show s.drawNat.2.out = s.out from (Mach.drawNat_within _).keeps .out]
  · exact ((Mach.emit_within _ _).after (l := [.draws, .out]) (Mach.drawNat_within s.toMach).mono).parts

theorem trigInRead_takes {h : Int × Bool} (hq : h ∈ (s.time.trigIn.get k).fifo.head?) :
    Does (.trigInFifoRead k) s fun t =>
      (t.time.trigIn.get k).fifo = (s.time.trigIn.get k).fifo.tail ∧ t.rd (R.TIM_TI_HI_A k) = BitVec.ofNat 32 (toBits 64 h.1 / 2 ^ 32) ∧
      t.out = .readValue (R.TIM_TI_LO_A k) (BitVec.ofNat 32 (toBits 64 h.1)) :: s.out ∧
      (∀ j, j ≠ k → t.time.trigIn.get j = s.time.trigIn.get j) ∧
      RegsBut [R.TIM_TI_HI_A k] s.toMach t ∧ OnlyIn [.regs, .time, .out] s.toMach t := by
  obtain ⟨r, hr⟩ : ∃ r, (s.time.trigIn.get k).fifo = h :: r := by
    cases hf : (s.time.trigIn.get k).fifo with
    | nil => simp [hf] at hq
    | cons a r => simp [hf] at hq; exact ⟨r, by rw [hq]⟩
  obtain ⟨t, b⟩ := h
  have he : Mach.trigInRead k s.toMach =
      ((s.onTime fun u => { u with trigIn := vmod u.trigIn k fun x => { x with fifo := r, latchHi := BitVec.ofNat 32 (toBits 64 t / 2 ^ 32) } }).wr
        (R.TIM_TI_HI_A k) (BitVec.ofNat 32 (toBits 64 t / 2 ^ 32))).emit (.readValue (R.TIM_TI_LO_A k) (BitVec.ofNat 32 (toBits 64 t))) := by
    unfold Mach.trigInRead; rw [hr]
  refine does_of_act (f := Mach.trigInRead k) rfl he ?_
  rw [Mach.emit_time, Mach.wr_time, Mach.onTime_time, Mach.emit_rd, Mach.rd_wr_self, Mach.emit_out, Mach.wr_out, Mach.onTime_out]
  refine ⟨by rw [vmod_get_self, hr]; rfl, rfl, rfl, fun j hj => vmod_get_ne _ _ hj, fun off ho => ?_, ?_⟩
  · rw [Mach.emit_rd, Mach.rd_wr_ne _ _ (by simpa using ho), Mach.onTime_rd]
  · exact ((Mach.emit_within _ _).after (l := [.regs, .time, .out]) ((Mach.wr_within _ _ _).after (Mach.onTime_within _ _).mono)).parts

end

/-- Settles O40. -/
theorem triggerInputsQueueStamps : Obligations.TriggerInputsQueueStamps := by
  unfold Obligations.TriggerInputsQueueStamps
  intro s k rise q e sel stamp
  exact ⟨fun h => idles_of_act (f := Mach.trigIn k rise) rfl (Mach.trigIn_idle h), trigIn_queues, trigIn_overflows, trigInRead_empty,
    fun h hq => trigInRead_takes hq⟩

end Sys2Proof.Machine

namespace Sys2Proof.Machine

set_option Elab.async false

namespace Mach

/-! ## Calibration intervals (R249, R252) -/

theorem elapsed_of_time {a b : Mach} (h : b.time = a.time) : b.elapsed = a.elapsed := by unfold elapsed; rw [h]

/-- The state at the end of the interval, with the next one begun. -/
def intervalEnd (m : Mach) : Mach := (m.runToElapsed m.calDue).onFus fun u => { u with calFrom := m.calDue }

theorem intervalEnd_fus (m : Mach) : m.intervalEnd.fus = { m.fus with calFrom := m.calDue } := by
  show { (m.runToElapsed m.calDue).fus with calFrom := m.calDue } = _
  rw [show (m.runToElapsed m.calDue).fus = m.fus from (runToElapsed_clockOnly _ m).parts .fus (by decide)]

theorem intervalEnd_elapsed (m : Mach) : m.calDue ≤ m.intervalEnd.elapsed := runToElapsed_reaches m m.calDue

theorem intervalEnd_g (m : Mach) {f : Fld} (h : ¬ (0x1E0000 ≤ f.a ∧ f.a < 0x200000)) : m.intervalEnd.g f = m.g f :=
  (onFus_g _ _ _).trans ((runToElapsed_clockOnly _ m).g f h)

theorem calInterval_idle {m : Mach} (h : m.on R.FUS_CTRL_CAL_EN = false) : calInterval m = m := if_pos (by simp [h])

theorem calInterval_hands {m : Mach} (h : m.on R.FUS_CTRL_CAL_EN = true) (hs : m.fus.solving = none) :
    calInterval m = (m.intervalEnd.onFus fun u => { u with solving := some m.fus.sums }).clearSums := by
  unfold calInterval
  rw [if_neg (by simp [h])]
  extract_lets m1 sums w
  have hf : m1.fus = { m.fus with calFrom := m.calDue } := intervalEnd_fus m
  rw [if_pos (by rw [hf]; simp [hs]), show sums = m.fus.sums by simp only [sums, hf]]
  rfl

/-- The sums that wait behind a solve that runs. -/
def waitSums (m : Mach) : Vector CalSum 16 :=
  match m.fus.waiting with | some v => Vector.zipWith addSums v m.fus.sums | none => m.fus.sums

theorem calInterval_defers {m : Mach} (h : m.on R.FUS_CTRL_CAL_EN = true) (hs : m.fus.solving ≠ none) :
    calInterval m =
      (((m.intervalEnd.onFus fun u => { u with waiting := some m.waitSums }).inc R.FUS_CAL_DEFER).set1 R.FUS_STAT_CAL_DEFER).clearSums := by
  unfold calInterval
  rw [if_neg (by simp [h])]
  extract_lets m1 sums w
  have hf : m1.fus = { m.fus with calFrom := m.calDue } := intervalEnd_fus m
  have hw : w = m.waitSums := by simp only [w, sums, waitSums, hf] <;> rfl
  rw [if_neg (by rw [hf]; simpa using hs), hw]
  rfl

/-! ## The end of a solve (R249, R250) -/

/-- A solve only adds corrections that apply two ticks on, of ports that are no fixed reference. -/
structure Corrects (a b : Mach) : Prop where
  fus : b.fus = { a.fus with installs := b.fus.installs }
  fresh : ∀ c ∈ b.fus.installs, c ∈ a.fus.installs ∨ (c.tnEff = a.tick.tn + 2 ∧ a.calFixed c.port = false)

theorem Corrects.of_fus {a b c : Mach} (h : Corrects a b) (hf : c.fus = b.fus) : Corrects a c :=
  ⟨by rw [hf]; exact h.fus, fun x hx => h.fresh x (by rwa [hf] at hx)⟩

theorem Corrects.of_within {l : List Part} {a b c : Mach} (h : Corrects a b) (hw : Within l b c) (hf : Part.fus ∉ l := by decide) : Corrects a c :=
  h.of_fus (hw.parts .fus hf)

theorem Corrects.install {a b : Mach} (h : Corrects a b) {c : CalInst} (ht : c.tnEff = a.tick.tn + 2) (hp : a.calFixed c.port = false) :
    Corrects a (b.onFus fun u => { u with installs := u.installs ++ [c] }) := by
  refine ⟨?_, fun x hx => ?_⟩
  · rw [onFus_fus]
    exact (congrArg (fun u : Fusion => { u with installs := b.fus.installs ++ [c] }) h.fus)
  · rw [onFus_fus] at hx
    rcases List.mem_append.1 hx with hx | hx
    · exact h.fresh x hx
    · obtain rfl := List.mem_singleton.1 hx
      exact .inr ⟨ht, hp⟩

theorem forEach_mem {α σ : Type} (P : σ → Prop) (xs : List α) (f : α → σ → σ) (h : ∀ x ∈ xs, ∀ s, P s → P (f x s)) (s : σ) (hs : P s) :
    P (forEach xs f s) := by
  unfold forEach
  induction xs generalizing s with
  | nil => exact hs
  | cons x r ih => exact ih (fun y hy => h y (by simp [hy])) _ (h x (by simp) s hs)

theorem solveCal_corrects (sums : Vector CalSum 16) (m : Mach) : Corrects m (solveCal sums m) := by
  unfold solveCal
  extract_lets es fixed remote reach us pairs ds lim
  refine forEach_mem (Corrects m) _ _ (fun x hx t ht => ?_) m ⟨rfl, fun c hc => .inl hc⟩
  have hfree : m.calFixed x.1 = false := by
    have hus : x.1 ∈ us := (List.of_mem_zip hx).1
    simp only [us, fixed, List.mem_filter, List.mem_range, Bool.and_eq_true, Bool.not_eq_true', List.contains_eq_mem, decide_eq_false_iff_not] at hus
    obtain ⟨h16, -, hn⟩ := hus
    exact Bool.eq_false_iff.2 fun h => hn ⟨h16, h⟩
  split
  rename_i cd t1 h1
  split
  rename_i md t2 h2
  have hw : Within [.draws] t t2 := (Within.snd h2 (roundDelta_within _ _)).after (Within.snd h1 (roundDelta_within _ _))
  have h : Corrects m t2 := ht.of_within hw
  split
  · exact h
  · split
    · exact h.of_within (inc_within _ _)
    · split
      · exact h.of_within ((health_within _ _ _ _).after (l := [.regs, .tick, .jnl, .cache]) (inc_within _ _).mono)
      · exact h.install rfl hfree

theorem calSolveDone_idle {m : Mach} (h : m.fus.solving = none) : calSolveDone m = m := by unfold calSolveDone; rw [h]

theorem calSolveDone_ends {m : Mach} {sums : Vector CalSum 16} (h : m.fus.solving = some sums) :
    calSolveDone m = (m.solveCal sums).onFus fun u => { u with solving := u.waiting, waiting := none, calStale := u.waitStale, waitStale := [] } := by
  unfold calSolveDone; rw [h]

/-! ## A read of a homography (R253) -/

theorem forEach_map {α β σ : Type} (xs : List α) (g : α → β) (f : β → σ → σ) (s : σ) : forEach (xs.map g) f s = forEach xs (fun x => f (g x)) s := by
  unfold forEach; rw [List.foldl_map]

theorem homWords_indexed (h : Hom) :
    ((homWords h).mapIdx fun k w => (k, w)) = (List.range 18).map fun k => (k, toBits 64 (h.at_ (k / 2)) / 2 ^ (32 * (k % 2)) % 2 ^ 32) := by
  unfold homWords
  refine List.ext_getElem (by simp) fun i h1 h2 => by simp

/-- The words of the set, written, before the version word. -/
def homLatched (p : Fin 16) (h : Hom) (m : Mach) : Mach :=
  forEach (List.range 18) (fun k t => t.wr (R.FUS_P_H_A p k) (BitVec.ofNat 32 (toBits 64 (h.at_ (k / 2)) / 2 ^ (32 * (k % 2)) % 2 ^ 32))) m

/-- The version word. -/
def homVersion (p : Fin 16) (h : Hom) (locked : Bool) (m : Mach) : Mach :=
  ((m.put (R.FUS_P_HVER_SRC p) h.online.toNat).put (R.FUS_P_HVER_LOCKED p) locked.toNat).put (R.FUS_P_HVER_VERSION p) h.version

theorem homRead_eq (p : Fin 16) (m : Mach) :
    ∃ m2, m2 = (m.homLatched p ((m.fus.homs.get p).at_ m.tick.tn)).homVersion p ((m.fus.homs.get p).at_ m.tick.tn) (bitN (m.g R.FUS_CAL_LOCK) p) ∧
      homRead p m = m2.emit (.readValue (R.FUS_P_H_A p 0) (m2.rd (R.FUS_P_H_A p 0))) := by
  refine ⟨_, rfl, ?_⟩
  unfold homRead
  dsimp only
  rw [homWords_indexed, forEach_map]
  rfl

section
variable (p : Fin 16) (h : Hom) (m : Mach)

theorem homVersion_rd (locked : Bool) {off : Nat} (ho : off ≠ (R.FUS_P_HVER_SRC p).a) : (m.homVersion p h locked).rd off = m.rd off := by
  unfold homVersion
  rw [rd_put_ne, rd_put_ne, rd_put_ne]
  · exact ho
  · exact ho
  · exact ho

theorem homLatched_rd {k : Nat} (hk : k < 18) :
    ((m.homLatched p h).rd (R.FUS_P_H_A p k)).toNat = toBits 64 (h.at_ (k / 2)) / 2 ^ (32 * (k % 2)) % 2 ^ 32 := by
  unfold homLatched
  rw [wrEach_rd _ (fun i j hij => by simp only [R.FUS_P_H_A] at hij; omega) _ (List.mem_range.2 hk), BitVec.toNat_ofNat, Nat.mod_mod]

theorem homVersion_version (locked : Bool) : (m.homVersion p h locked).g (R.FUS_P_HVER_VERSION p) = h.version % 2 ^ 16 :=
  g_put_self _ _ _ (by simp only [R.FUS_P_HVER_VERSION]; omega) (by simp only [R.FUS_P_HVER_VERSION]; omega)

theorem homVersion_src (locked : Bool) : (m.homVersion p h locked).g (R.FUS_P_HVER_SRC p) = h.online.toNat := by
  have h1 : Apart (R.FUS_P_HVER_VERSION p) (R.FUS_P_HVER_SRC p) := by simp only [Apart, R.FUS_P_HVER_VERSION, R.FUS_P_HVER_SRC]; omega
  have h2 : Apart (R.FUS_P_HVER_LOCKED p) (R.FUS_P_HVER_SRC p) := by simp only [Apart, R.FUS_P_HVER_LOCKED, R.FUS_P_HVER_SRC]; omega
  unfold homVersion
  rw [g_put_apart _ _ h1, g_put_apart _ _ h2]
  refine g_put_fits _ (by simp only [R.FUS_P_HVER_SRC]; omega) ?_
  simp only [R.FUS_P_HVER_SRC]
  exact Bool.toNat_lt _

end

end Mach

section
variable (s : State)

theorem calInterval_handsOver (h : s.on R.FUS_CTRL_CAL_EN = true) (hs : s.fus.solving = none) :
    Does .calIntervalEnd s fun t =>
      t.fus = { s.fus with solving := some s.fus.sums, sums := Vector.replicate 16 {}, calFrom := s.calDue } ∧ s.calDue ≤ t.elapsed ∧
      OnlyIn [.fus, .time, .enc, .jnl, .regs, .tick, .cache] s.toMach t := by
  have hwithin : OnlyIn [.fus, .time, .enc, .jnl, .regs, .tick, .cache] s.toMach (Mach.calInterval s.toMach) := (Mach.calInterval_within _).only
  refine does_of_act (f := Mach.calInterval) rfl rfl ⟨?_, ?_, hwithin⟩ <;> rw [Mach.calInterval_hands h hs]
  · rw [Mach.clearSums, Mach.onFus_fus, Mach.onFus_fus, Mach.intervalEnd_fus]
  · rw [Mach.elapsed_of_time (a := s.intervalEnd) (by rw [Mach.clearSums, Mach.onFus_time, Mach.onFus_time])]
    exact Mach.intervalEnd_elapsed s.toMach

theorem calInterval_waits (h : s.on R.FUS_CTRL_CAL_EN = true) (hs : s.fus.solving ≠ none) :
    Does .calIntervalEnd s fun t =>
      t.fus.solving = s.fus.solving ∧ t.fus.sums = Vector.replicate 16 {} ∧
      (s.fus.waiting = none → t.fus.waiting = some s.fus.sums) ∧
      (∀ w ∈ s.fus.waiting, ∃ w' ∈ t.fus.waiting, ∀ i : Fin 16, (w'.get i).n = (w.get i).n + (s.fus.sums.get i).n ∧
        (w'.get i).sCd = (w.get i).sCd + (s.fus.sums.get i).sCd ∧ (w'.get i).sMd = (w.get i).sMd + (s.fus.sums.get i).sMd) ∧
      t.g R.FUS_CAL_DEFER = (s.g R.FUS_CAL_DEFER + 1) % 2 ^ 32 ∧ t.g R.FUS_STAT_CAL_DEFER = 1 ∧ t.fus.store = s.fus.store ∧
      s.calDue ≤ t.elapsed ∧ OnlyIn [.fus, .time, .enc, .jnl, .regs, .tick, .cache] s.toMach t := by
  have hwithin : OnlyIn [.fus, .time, .enc, .jnl, .regs, .tick, .cache] s.toMach (Mach.calInterval s.toMach) := (Mach.calInterval_within _).only
  rw [Mach.calInterval_defers h hs] at hwithin
  refine does_of_act (f := Mach.calInterval) rfl (Mach.calInterval_defers h hs) ?_
  have hf : ((((s.intervalEnd.onFus fun u => { u with waiting := some s.waitSums }).inc R.FUS_CAL_DEFER).set1 R.FUS_STAT_CAL_DEFER).clearSums).fus =
      { s.fus with calFrom := s.calDue, waiting := some s.waitSums, sums := Vector.replicate 16 {} } := by
    rw [Mach.clearSums, Mach.onFus_fus, Mach.set1_fus, Mach.inc_fus, Mach.onFus_fus, Mach.intervalEnd_fus]
  have hg : ∀ f, ((((s.intervalEnd.onFus fun u => { u with waiting := some s.waitSums }).inc R.FUS_CAL_DEFER).set1 R.FUS_STAT_CAL_DEFER).clearSums).g f =
      (((s.intervalEnd.onFus fun u => { u with waiting := some s.waitSums }).inc R.FUS_CAL_DEFER).set1 R.FUS_STAT_CAL_DEFER).g f :=
    fun f => Mach.onFus_g _ _ _
  rw [hf, hg, hg]
  refine ⟨rfl, rfl, fun hw => ?_, fun w hw => ⟨_, rfl, fun i => ?_⟩, ?_, ?_, rfl, ?_, hwithin⟩
  · simp only [Mach.waitSums, hw]
  · have hv : s.waitSums = Vector.zipWith Mach.addSums w s.fus.sums := by
      unfold Mach.waitSums
      rw [show s.fus.waiting = some w from hw]
    rw [hv]
    rw [Vector.get_eq_getElem, Vector.getElem_zipWith]
    exact ⟨rfl, rfl, rfl⟩
  · rw [Mach.g_set1_ne _ _ _ (by decide), Mach.g_inc_word _ _ rfl rfl, Mach.onFus_g, Mach.intervalEnd_g _ (by decide)]
  · exact Mach.g_set1 _ _ rfl (by decide)
  · rw [Mach.elapsed_of_time (a := s.intervalEnd) (by rw [Mach.clearSums, Mach.onFus_time, Mach.set1_time, Mach.inc_time, Mach.onFus_time])]
    exact Mach.intervalEnd_elapsed s.toMach

theorem calSolveDone_does (h : s.fus.solving ≠ none) :
    Does .calSolveDone s fun t =>
      t.fus.solving = s.fus.waiting ∧ t.fus.waiting = none ∧ t.fus.store = s.fus.store ∧ t.fus.homs = s.fus.homs ∧ t.fus.sums = s.fus.sums ∧
      (∀ c ∈ t.fus.installs, c ∈ s.fus.installs ∨ (c.tnEff = s.tick.tn + 2 ∧ s.calFixed c.port = false)) ∧
      OnlyIn [.regs, .tick, .fus, .jnl, .cache, .draws] s.toMach t := by
  obtain ⟨sums, hs⟩ := Option.ne_none_iff_exists'.1 h
  have hwithin := (Mach.calSolveDone_within s.toMach).parts
  rw [Mach.calSolveDone_ends hs] at hwithin
  obtain ⟨hf, hi⟩ := Mach.solveCal_corrects sums s.toMach
  refine does_of_act (f := Mach.calSolveDone) rfl (Mach.calSolveDone_ends hs) ?_
  rw [Mach.onFus_fus, hf]
  exact ⟨rfl, rfl, rfl, rfl, rfl, hi, hwithin⟩

theorem homRead_latches (p : Fin 16) :
    let h := (s.fus.homs.get p).at_ s.tick.tn
    Does (.fusPHRead p) s fun t =>
      (∀ k : Fin 18, (t.rd (R.FUS_P_H_A p k)).toNat = toBits 64 (h.at_ (k.1 / 2)) / 2 ^ (32 * (k.1 % 2)) % 2 ^ 32) ∧
      t.g (R.FUS_P_HVER_VERSION p) = h.version % 2 ^ 16 ∧ t.g (R.FUS_P_HVER_SRC p) = h.online.toNat ∧
      t.out.length = s.out.length + 1 ∧ OnlyIn [.regs, .out] s.toMach t := by
  intro h
  obtain ⟨m2, hm2, he⟩ := Mach.homRead_eq p s.toMach
  have hwithin := (Mach.homRead_within p s.toMach).parts
  rw [he] at hwithin
  refine does_of_act (f := Mach.homRead p) rfl he ⟨fun k => ?_, ?_, ?_, ?_, hwithin⟩
  · rw [Mach.emit_rd, hm2, Mach.homVersion_rd _ _ _ _ (by simp only [R.FUS_P_H_A, R.FUS_P_HVER_SRC]; omega)]
    exact Mach.homLatched_rd p _ _ k.2
  · rw [Mach.emit_g, hm2]
    exact Mach.homVersion_version p _ _ _
  · rw [Mach.emit_g, hm2]
    exact Mach.homVersion_src p _ _ _
  · have ho : m2.out = s.out := by
      rw [hm2]
      have h1 : Within [.regs] s.toMach (s.homLatched p h) := Within.loop (fun _ _ => Mach.wr_within _ _ _) (Within.refl _ _)
      have h2 : Within [.regs] s.toMach ((s.homLatched p h).homVersion p h (bitN (s.g R.FUS_CAL_LOCK) p)) :=
        (Mach.put_within _ _ _).after <| (Mach.put_within _ _ _).after <| (Mach.put_within _ _ _).after h1
      exact h2.keeps .out
    rw [Mach.emit_out, List.length_cons, ho]

end

/-- Settles O28. -/
theorem calibrationIntervals : Obligations.CalibrationIntervals := by
  unfold Obligations.CalibrationIntervals
  intro s p u
  exact ⟨fun h => idles_of_act (f := Mach.calInterval) rfl (Mach.calInterval_idle h), calInterval_handsOver s, calInterval_waits s,
    fun h => idles_of_act (f := Mach.calSolveDone) rfl (Mach.calSolveDone_idle h), calSolveDone_does s, homRead_latches s p⟩

end Sys2Proof.Machine

namespace Sys2Proof.Machine

set_option Elab.async false

/-! ## What writing a record leaves alone

Records are written by almost every operation, and at a capture of the encoders too. A record changes the counters of the journal and of the
action unit, and never the commit group, the numbering of groups or the final commit. -/

/-- The counters that records and resolved actions change (R271 to R273, R290). -/
def logRegs : List Nat :=
  [R.JNL_SLOT_FREED_EARLY.a, R.JNL_REFUSED_P0.a, R.JNL_REFUSED_P1.a, R.JNL_REFUSED_P2.a, R.JNL_REFUSED_P3.a, R.JNL_MIRROR_ERR.a, R.JNL_ADMITTED.a,
   R.ACT_CANCELLED.a, R.ACT_MISSED.a, R.ACT_FIRED.a, R.ACT_FIRED_LATE.a, R.ACT_OVERLAP.a]

/-- The journal's side towards the store: the commit group, its numbering, and the final commit. -/
def storeSide (j : Journal) : Option Group × Nat × Option PfPhase × Nat × Bool × Option Int :=
  (j.group, j.gseq, j.pf, j.pfFirst, j.pfLow, j.recoverFrom)

/-- What records and resolved actions leave alone. -/
structure Logged (a b : Mach) : Prop where
  regs : RegsBut logRegs a b
  store : storeSide b.jnl = storeSide a.jnl

namespace Logged

variable {a b c : Mach}

theorem refl (a : Mach) : Logged a a := ⟨fun _ _ => rfl, rfl⟩

theorem trans (h1 : Logged a b) (h2 : Logged b c) : Logged a c := ⟨fun _ h => (h2.regs _ h).trans (h1.regs _ h), h2.store.trans h1.store⟩

theorem of_within {l : List Part} (h : Within l a b) (hr : Part.regs ∉ l := by decide) (hj : Part.jnl ∉ l := by decide) : Logged a b :=
  ⟨fun _ _ => by unfold Mach.rd; rw [h.parts .regs hr], by rw [h.parts .jnl hj]⟩

theorem onJnl (m : Mach) {u : Journal → Journal} (h : ∀ j, storeSide (u j) = storeSide j := by intro j; rfl) : Logged m (m.onJnl u) :=
  ⟨fun _ _ => rfl, h m.jnl⟩

theorem onTrig (m : Mach) (o : Fin 8) (u : TrigOut → TrigOut) : Logged m (m.onTrig o u) := ⟨fun _ _ => rfl, rfl⟩

theorem onEnc (m : Mach) (n : Fin 4) (u : Encoder → Encoder) : Logged m (m.onEnc n u) := ⟨fun _ _ => rfl, rfl⟩

theorem put (m : Mach) {f : Fld} (v : Nat) (h : f.a ∈ logRegs) : Logged m (m.put f v) :=
  ⟨fun _ ho => Mach.rd_put_ne m f v fun e => ho (e ▸ h), rfl⟩

theorem inc (m : Mach) {f : Fld} (h : f.a ∈ logRegs) : Logged m (m.inc f) := put m _ h

theorem loop {α : Type} {xs : List α} {f : α → Mach → Mach} (h : ∀ x t, Logged t (f x t)) (hm : Logged a b) : Logged a (forEach xs f b) :=
  forEach_keeps (Logged a) xs f (fun x t ht => ht.trans (h x t)) b hm

theorem g (h : Logged a b) {f : Fld} (hf : f.a ∉ logRegs) : b.g f = a.g f := by unfold Mach.g; rw [h.regs _ hf]

theorem group (h : Logged a b) : b.jnl.group = a.jnl.group := congrArg Prod.fst h.store
theorem gseq (h : Logged a b) : b.jnl.gseq = a.jnl.gseq := congrArg (fun x => x.2.1) h.store
theorem pf (h : Logged a b) : b.jnl.pf = a.jnl.pf := congrArg (fun x => x.2.2.1) h.store
theorem pfFirst (h : Logged a b) : b.jnl.pfFirst = a.jnl.pfFirst := congrArg (fun x => x.2.2.2.1) h.store
theorem pfLow (h : Logged a b) : b.jnl.pfLow = a.jnl.pfLow := congrArg (fun x => x.2.2.2.2.1) h.store
theorem recoverFrom (h : Logged a b) : b.jnl.recoverFrom = a.jnl.recoverFrom := congrArg (fun x => x.2.2.2.2.2) h.store

end Logged

namespace Mach

/-! ### Records -/

section
variable (m : Mach)

theorem freeEarly_logged (bank : Nat) : Logged m (m.freeEarly bank).2 := by
  unfold freeEarly
  split
  · exact (Logged.onJnl m).trans (.inc _ (by decide))
  · exact .refl m

theorem countRefused_logged (cls : Nat) : Logged m (m.countRefused cls) := by
  unfold countRefused
  refine (Logged.inc m ?_).trans ⟨fun _ _ => rfl, rfl⟩
  split <;> decide

theorem writeCopies_logged (bank : Nat) : Logged m (m.writeCopies bank) := by
  unfold writeCopies
  refine .loop (fun d t => ?_) (.refl m)
  have h : Logged t ((t.addTo R.JNL_MIRROR_ERR (min (t.jnl.failNext.get d) 2)).onJnl fun j => { j with failNext := vput j.failNext d 0 }) :=
    (Logged.put t _ (by decide)).trans (.onJnl _)
  dsimp only
  split
  · exact h
  · exact h.trans (.onJnl _)

theorem recordWritten_logged (p : Nat → Bool) (u : Journal → Journal) (h : ∀ j, storeSide (u j) = storeSide j) :
    Logged m (((m.scDrop p).onJnl u).inc R.JNL_ADMITTED) :=
  ((Logged.of_within (onCache_within _ _)).trans (.onJnl _ h)).trans (.inc _ (by decide))

theorem admitRec_logged (f : Fin 8) (b : Body) (flags : Nat) : Logged m (m.admitRec f b flags).2 := by
  unfold admitRec
  dsimp only
  have e : Logged m (if bankSlots < m.bankUsed (m.g (R.JNL_F_CFG_BANK f)) + (1 + m.reserveOf b (m.classOf f b) / 64) then
      m.freeEarly (m.g (R.JNL_F_CFG_BANK f)) else (false, m)).2 := by
    split
    · exact freeEarly_logged m _
    · exact .refl m
  split
  · exact .refl m
  · generalize (if bankSlots < m.bankUsed (m.g (R.JNL_F_CFG_BANK f)) + (1 + m.reserveOf b (m.classOf f b) / 64) then
      m.freeEarly (m.g (R.JNL_F_CFG_BANK f)) else (false, m)).2 = m1 at e ⊢
    split
    · exact countRefused_logged m _
    · split
      · exact e.trans (countRefused_logged _ _)
      · split
        · exact e.trans (countRefused_logged _ _)
        · have w := e.trans (writeCopies_logged m1 (m.g (R.JNL_F_CFG_BANK f)))
          split
          · exact w.trans (countRefused_logged _ _)
          · exact w.trans (recordWritten_logged _ _ _ fun _ => rfl)

theorem admitAll_logged (b : Body) (flags : Nat) : Logged m (m.admitAll b flags) := .loop (fun f t => admitRec_logged t f b flags) (.refl m)

theorem onceHealth_logged (h : HCode) (u : HUnit) (n : Nat) : Logged m (m.onceHealth h u n) := by
  unfold onceHealth
  split
  · exact .refl m
  · exact (Logged.onJnl m).trans (admitAll_logged _ _ _)

theorem afterRefusal_logged (cls : Nat) (why : Option Refused) : Logged m (m.afterRefusal cls why) := by
  unfold afterRefusal
  split
  · exact onceHealth_logged m _ _ _
  · split
    · exact .refl m
    · exact onceHealth_logged m _ _ _
  · exact .refl m

theorem syncDelivery_logged : Logged m m.syncDelivery := by
  have hr : m.syncDelivery.regs = m.regs := by unfold syncDelivery; rw [onJnl_regs]
  refine ⟨fun _ _ => by unfold rd; rw [hr], ?_⟩
  unfold storeSide syncDelivery
  rw [onJnl_jnl]

theorem sayLost_logged : Logged m m.sayLost := by
  unfold sayLost
  refine .loop (fun d t => ?_) (.refl m)
  have h : Logged t ((t.onJnl fun j => { j with unsaid := j.unsaid.filter (· != d) }).admitAll
      (t.healthBody H.mirrorLost (.die d) (t.related H.mirrorLost (.die d)) [d.1 % 2]) 0) := (Logged.onJnl t).trans (admitAll_logged _ _ _)
  dsimp only
  split
  · exact (h.trans (.onJnl _)).trans (syncDelivery_logged _)
  · exact h

/-- A record leaves the journal's side towards the store, and every register but its counters. -/
theorem write_logged (f : Fin 8) (b : Body) (flags : Nat) : Logged m (m.write f b flags).2 := by
  unfold write
  have h := admitRec_logged m f b flags
  split
  · rename_i n m1 heq
    rw [heq] at h
    exact h.trans (sayLost_logged _)
  · rename_i w m1 heq
    rw [heq] at h
    exact (h.trans (afterRefusal_logged _ _ _)).trans (sayLost_logged _)

theorem writeAll_logged (b : Body) (flags : Nat) : Logged m (m.writeAll b flags) := .loop (fun f t => write_logged t f b flags) (.refl m)

theorem health_logged (h : HCode) (u : HUnit) (d : List Nat) : Logged m (m.health h u d) := writeAll_logged m _ _

/-! ### Resolved actions and captures -/

theorem missAction_logged (c : MissCause) (a : Action) : Logged m (m.missAction c a) := by
  unfold missAction
  refine ((write_logged m _ _ _).trans (.onJnl _)).trans (.inc _ ?_)
  split <;> decide

theorem fireAction_logged (late also : Bool) (a : Action) : Logged m (m.fireAction late also a) := by
  unfold fireAction
  split
  · exact missAction_logged m _ a
  · dsimp only
    have h0 : Logged m (if m.actionHigh a.out then m.markMerged a.out else m) := by
      split
      · exact .onJnl m
      · exact .refl m
    generalize (if m.actionHigh a.out then m.markMerged a.out else m) = m0 at h0 ⊢
    have h : ∀ f B, Logged m ((((m0.onTrig a.out f).write' a.fn B 0).dropAction a).inc (if late then R.ACT_FIRED_LATE else R.ACT_FIRED)) :=
      fun f B => (((h0.trans (.onTrig m0 a.out f)).trans (write_logged _ a.fn B 0)).trans (.onJnl _)).trans (.inc _ (by cases late <;> decide))
    split
    · exact (h _ _).trans (.inc _ (by decide))
    · exact h _ _

theorem lateAction_logged (c : MissCause) (a : Action) : Logged m (m.lateAction c a) := by
  unfold lateAction
  split
  · exact .onJnl m
  · split
    · exact fireAction_logged m _ _ a
    · exact missAction_logged m _ a

theorem applyValueSet_logged (n : Fin 4) (s : Int) : Logged m (m.applyValueSet n s) := by
  have base : ∀ b c, Logged m (m.onEnc n fun e => e.rebased s b c) := fun b c => .onEnc m n _
  unfold applyValueSet
  dsimp only
  split
  · exact ((base _ _).trans (.loop (fun (e : Nat × Action) t => lateAction_logged t _ e.2) (.refl _))).trans (.onJnl _)
  · split
    · exact (base _ _).trans (.onJnl _)
    · exact .refl m

theorem captureAll_logged (first last : Int) (mark : Option (Int × Int)) : Logged m (m.captureAll first last mark) := by
  unfold captureAll
  exact .loop (fun n t => (Logged.onEnc t n _).trans (applyValueSet_logged _ n first)) (.refl m)

/-- Running the counter leaves the journal's side towards the store. -/
theorem runIncs_logged (k : Nat) : Logged m (m.runIncs k) := by
  have h : Logged m (m.tickClock k) := ⟨fun _ _ => rfl, rfl⟩
  unfold runIncs
  dsimp only
  split
  · exact h
  · exact h.trans (captureAll_logged _ _ _ _)

theorem runTo_logged (t : Int) : Logged m (m.runTo t) := runIncs_logged m _

theorem runToElapsed_logged (t : Int) : Logged m (m.runToElapsed t) := runIncs_logged m _

end
end Mach
end Sys2Proof.Machine

namespace Sys2Proof.Machine

set_option Elab.async false

/-! ## What the work of the engines leaves alone

Besides the engines' own block an engine changes the counters of the memory, of the caches and of the journal's records. -/

/-- A register that the work of an engine does not reach. -/
def engSpares (off : Nat) : Prop := off < 0x180000 ∨ (0x1E0000 ≤ off ∧ off < 0x200000 ∧ off ∉ logRegs)

/-- Every register that the engines' work does not reach reads as before, and the journal's side towards the store is the same. -/
structure EngKept (a b : Mach) : Prop where
  regs : ∀ off, engSpares off → b.rd off = a.rd off
  store : storeSide b.jnl = storeSide a.jnl

theorem logRegs_block {off : Nat} (h : off ∈ logRegs) : 0x1E0000 ≤ off ∧ off < 0x200000 := by
  unfold logRegs at h
  simp only [List.mem_cons, List.not_mem_nil, or_false] at h
  rcases h with rfl | rfl | rfl | rfl | rfl | rfl | rfl | rfl | rfl | rfl | rfl | rfl <;> decide

namespace EngKept

variable {a b c : Mach}

theorem refl (a : Mach) : EngKept a a := ⟨fun _ _ => rfl, rfl⟩

theorem trans (h1 : EngKept a b) (h2 : EngKept b c) : EngKept a c := ⟨fun _ h => (h2.regs _ h).trans (h1.regs _ h), h2.store.trans h1.store⟩

theorem of_logged (h : Logged a b) : EngKept a b :=
  ⟨fun off ho => h.regs off fun hl => ho.elim (fun hlt => absurd (logRegs_block hl).1 (by omega)) fun hn => hn.2.2 hl, h.store⟩

theorem of_regs (h : b.regs = a.regs) (hj : b.jnl = a.jnl) : EngKept a b := ⟨fun off _ => by unfold Mach.rd; rw [h], by rw [hj]⟩

theorem of_within {l : List Part} (h : Within l a b) (hr : Part.regs ∉ l := by decide) (hj : Part.jnl ∉ l := by decide) : EngKept a b :=
  of_regs (h.parts .regs hr) (h.parts .jnl hj)

theorem wr (m : Mach) {off : Nat} (w : Word) (h : 0x180000 ≤ off ∧ (off < 0x1E0000 ∨ 0x200000 ≤ off)) : EngKept m (m.wr off w) :=
  ⟨fun _ ho => Mach.rd_wr_ne _ _ (by rcases ho with ho | ⟨h1, h2, -⟩ <;> omega), rfl⟩

theorem put (m : Mach) {f : Fld} (v : Nat) (h : 0x180000 ≤ f.a ∧ (f.a < 0x1E0000 ∨ 0x200000 ≤ f.a)) : EngKept m (m.put f v) := wr m _ h

theorem loop {α : Type} {xs : List α} {f : α → Mach → Mach} (h : ∀ x t, EngKept t (f x t)) (hm : EngKept a b) : EngKept a (forEach xs f b) :=
  forEach_keeps (EngKept a) xs f (fun x t ht => ht.trans (h x t)) b hm

theorem g (h : EngKept a b) {f : Fld} (hf : engSpares f.a) : b.g f = a.g f := by unfold Mach.g; rw [h.regs _ hf]

end EngKept

namespace Mach

/-! ### Engines -/

section
variable (e : Fin 72) (m : Mach)

theorem abandonDesc_engKept (d : Desc) : EngKept m (m.abandonDesc e d) := by
  unfold abandonDesc
  refine (EngKept.put m _ ?_).trans ((EngKept.put _ 1 ?_).trans (.of_within (classLost_within d _)))
  · simp only [R.ENG_DESC_ABANDON]; omega
  · simp only [R.ENG_ERR_ABANDON]; omega

theorem endQueued_engKept {one : Desc → Mach → Mach} (h : ∀ d t, EngKept t (one d t)) (which : Desc → Bool) :
    EngKept m (m.endQueued one e which) := by
  unfold endQueued
  extract_lets x m3
  have h3 : EngKept m m3 := .loop h (.of_regs (onEng_regs _ _ _) (onEng_jnl _ _ _))
  clear_value m3
  split
  · rename_i r _
    split
    · have h4 := h3.trans (.of_within (closeWork_within e r.desc m3))
      have h5 := h4.trans (.of_regs (onEng_regs _ e fun y => { y with run := none }) (onEng_jnl _ e fun y => { y with run := none }))
      exact (h5.trans (.of_within (dropLayers_within (fun q => q.eng == e.1) _))).trans (h _ _)
    · exact h3
  · exact h3

theorem endDescs_engKept {one : Desc → Mach → Mach} (h : ∀ d t, EngKept t (one d t)) (which : Desc → Bool) :
    EngKept m (m.endDescs one e which) := by
  unfold endDescs
  extract_lets held m1
  have h1 : EngKept m m1 := .of_regs rfl rfl
  exact (EngKept.loop h (h1.trans (endQueued_engKept e m1 h which))).trans (.of_within (pumpHeld_within e _))

theorem abandonEng_engKept (which : Desc → Bool) : EngKept m (m.abandonEng e which) := endDescs_engKept e m (fun d t => abandonDesc_engKept e t d) which

theorem scRead_engKept (line : Nat) : EngKept m (m.scRead line) := by
  unfold scRead
  extract_lets l new
  exact (EngKept.of_regs (onCache_regs m _) (onCache_jnl m _)).trans (.put _ _ (by split <;> decide))

theorem hubRead_engKept (d a n : Nat) : EngKept m (m.hubRead d a n).2 := by
  unfold hubRead
  have key : ∀ (ls : List Nat) (s : Nat × Mach), EngKept m s.2 → EngKept m (ls.foldl (fun (s : Nat × Mach) l =>
      if s.2.dieAt (64 * l) = d then (s.1 + 1, s.2) else (s.1 + (!s.2.scHas l).toNat, s.2.scRead l)) s).2 := by
    intro ls
    induction ls with
    | nil => exact fun _ h => h
    | cons l r ih =>
      intro s hs
      refine ih _ ?_
      dsimp only
      split
      · exact hs
      · exact hs.trans (scRead_engKept s.2 l)
  exact key _ _ (.refl _)

theorem ueHit_engKept (a : Nat) : EngKept m (m.ueHit a) := by
  unfold ueHit
  extract_lets d
  refine (EngKept.put m _ ?_).trans ((EngKept.put _ a ?_).trans ((EngKept.wr _ _ ?_).trans (.of_logged (health_logged _ _ _ _))))
  · simp only [R.MEM_UE]; omega
  · simp only [R.MEM_UE_ADDR_LO]; omega
  · unfold ueHigh; omega

theorem fetchElement_engKept (im : Image) (r : StreamRec) : EngKept m (m.fetchElement e im r) := by
  unfold fetchElement
  split
  · exact .refl _
  · split
    · exact .refl _
    · extract_lets at_
      split
      · exact (ueHit_engKept m _).trans (abandonEng_engKept e _ _)
      · exact (hubRead_engKept m _ _ _).trans ((EngKept.of_within (sramPut_within e _ _ _)).trans (.of_regs (onEng_regs _ _ _) (onEng_jnl _ _ _)))

theorem takeElements_engKept (im : Image) (r : StreamRec) (n : Nat) : EngKept m (m.takeElements e im r n).2 := by
  induction n generalizing m with
  | zero => exact .refl _
  | succ n ih =>
    unfold takeElements
    split
    · exact .refl _
    · split
      · exact .refl _
      · extract_lets m1 b m2
        have h1 : EngKept m m1 := by
          unfold m1
          split
          · exact .refl _
          · exact (EngKept.of_regs (onFn_regs m _ _) (onFn_jnl m _ _)).trans (fetchElement_engKept e _ im r)
        exact (h1.trans (.of_regs (onEng_regs _ _ _) (onEng_jnl _ _ _))).trans (ih m2)

theorem layerStep_engKept : EngKept m (m.layerStep e).2.2 := by
  unfold layerStep
  split
  · exact .refl _
  · split
    · exact .refl _
    · split
      · exact .refl _
      · extract_lets strm
        split
        rename_i wmem wbase m1 heq
        have h1 : EngKept m m1 := by
          clear_value strm
          split at heq
          · obtain ⟨-, -, rfl⟩ := heq
            exact takeElements_engKept e m _ _ _
          · obtain ⟨-, -, rfl⟩ := heq
            exact .refl _
        split
        · exact h1
        · extract_lets edge o x1 m2 m3
          have hx : EngKept m x1 := h1.trans (.of_within (sramPut_within e _ _ _))
          clear_value x1
          have h3 : EngKept m m3 := hx.trans (.of_regs rfl rfl)
          refine h3.trans ((EngKept.put _ _ ?_).trans (.put _ _ ?_))
          · simp only [R.ENG_PASSES]; omega
          · simp only [R.ENG_ROWS_SKIPPED]; omega

theorem runLayer_engKept : EngKept m (m.runLayer e) := by
  unfold runLayer
  split
  rename_i sats _ m1 heq
  have h1 : EngKept m m1 := by
    have h := layerStep_engKept e m
    rwa [heq] at h
  split
  · exact h1
  · refine h1.trans ((EngKept.put _ _ ?_).trans (.put _ 1 ?_))
    · simp only [R.ENG_SAT_COUNT]; omega
    · simp only [R.ENG_ERR_SAT]; omega

theorem runSome_engKept (n : Nat) : EngKept m (m.runSome e n) := by
  induction n generalizing m with
  | zero => exact .refl _
  | succ n ih =>
    unfold runSome
    split
    · exact .refl _
    · split
      · exact (runLayer_engKept e m).trans (ih _)
      · exact .refl _

theorem settleRun_engKept : EngKept m (m.settleRun e) := by
  unfold settleRun
  split
  · exact .refl _
  · split
    · exact .refl _
    · exact ((EngKept.of_within (drawNat_within m)).trans (runSome_engKept e _ _)).trans (.of_regs (onEng_regs _ _ _) (onEng_jnl _ _ _))

end

theorem setEdge_engKept (d : Fin 4) (edge : Bool) (m : Mach) : EngKept m (m.setEdge d edge) := by
  unfold setEdge
  split
  · exact .refl _
  · exact (EngKept.loop (fun e t => settleRun_engKept e t) (.refl m)).trans (.of_regs (onLvl_regs _ _ _) (onLvl_jnl _ _ _))

/-! ### Levels of the dies -/

theorem onLvl_get_self (m : Mach) (d : Fin 4) (f : DieLevel → DieLevel) : (m.onLvl d f).lvl.get d = f (m.lvl.get d) := by
  rw [onLvl_lvl, vmod_get_self]

theorem onLvl_get_ne (m : Mach) {d k : Fin 4} (f : DieLevel → DieLevel) (h : k ≠ d) : (m.onLvl d f).lvl.get k = m.lvl.get k := by
  rw [onLvl_lvl, vmod_get_ne _ _ h]

theorem setEdge_of_same {d : Fin 4} {edge : Bool} {m : Mach} (h : (m.lvl.get d).edge = edge) : m.setEdge d edge = m := if_pos h

/-- Only the die's own edge flag changes. -/
theorem setEdge_lvl (d : Fin 4) (edge : Bool) (m : Mach) :
    (m.setEdge d edge).lvl.get d = { m.lvl.get d with edge := edge } ∧ ∀ k, k ≠ d → (m.setEdge d edge).lvl.get k = m.lvl.get k := by
  unfold setEdge
  split
  · case isTrue h => exact ⟨by rw [← h], fun _ _ => rfl⟩
  · have hl : (forEach ((List.finRange 72).filter fun (e : Fin 72) => dieOfEng e == d) settleRun m).lvl = m.lvl :=
      (Within.loop (fun e t => settleRun_within e t) (Within.refl _ m)).keeps .lvl
    rw [onLvl_get_self, hl]
    exact ⟨rfl, fun k hk => by rw [onLvl_get_ne _ _ hk, hl]⟩

end Mach
end Sys2Proof.Machine

namespace Sys2Proof.Machine

set_option Elab.async false

namespace Mach

/-! ## PMBus telemetry (R311, R312) -/

section
variable (g : Fin 6) (m : Mach)

theorem telemetry_idle (mw : Option Nat) (h : m.on (R.PWR_R_CFG_PMB_EN g) = false) : telemetry g mw m = m := if_pos (by simp [h])

/-- The gain moves towards a target within its range, so it stays there. -/
theorem gain_bounds {old target : Int} {k : Nat} (ho : 8192 ≤ old ∧ old ≤ 32768) (ht : 8192 ≤ target ∧ target ≤ 32768) :
    8192 ≤ old + (target - old).fdiv (2 ^ k) ∧ old + (target - old).fdiv (2 ^ k) ≤ 32768 := by
  have hk : (1 : Int) ≤ 2 ^ k := one_le_pow₀ (by norm_num)
  rw [Int.fdiv_eq_ediv_of_nonneg _ (by omega)]
  rcases le_total 0 (target - old) with h | h
  · have h1 := Int.ediv_nonneg h (show (0 : Int) ≤ 2 ^ k by omega)
    have h2 := Int.ediv_le_self (2 ^ k : Int) h
    omega
  · have h1 : (target - old) / 2 ^ k ≤ 0 := Int.ediv_nonpos_of_nonpos_of_neg h (by omega)
    have h2 : target - old ≤ (target - old) / 2 ^ k := by
      rw [Int.le_ediv_iff_mul_le (by omega)]
      nlinarith
    omega

theorem clampI_bounds {v lo hi : Int} (h : lo ≤ hi) : lo ≤ clampI v lo hi ∧ clampI v lo hi ≤ hi := by
  unfold clampI
  split
  · omega
  · split <;> omega

theorem clampK_value (lo hi v : Int) : (m.clampK lo hi v).1 = (clampI v lo hi).toNat := by
  unfold clampK
  dsimp only
  split <;> rfl

/-- A clamp is counted and reported: the account of the groups stays but for the instant of the report. -/
theorem clampK_led (lo hi v : Int) : ∃ c, (m.clampK lo hi v).2.led = { m.led with clampAt := c } := by
  have hq : ∀ b : Bool, ∃ c, (bif b then ((m.inc R.PWR_K_CLAMP).set1 R.PWR_STAT_K_CLAMP).onLed (fun l =>
      { l with clampAt := some ((m.inc R.PWR_K_CLAMP).set1 R.PWR_STAT_K_CLAMP).elapsed }) |>.health H.ledgerClamp .package []
      else (m.inc R.PWR_K_CLAMP).set1 R.PWR_STAT_K_CLAMP).led = { m.led with clampAt := c } := by
    intro b
    cases b
    · exact ⟨m.led.clampAt, (set1_led _ _).trans (inc_led _ _)⟩
    · refine ⟨some ((m.inc R.PWR_K_CLAMP).set1 R.PWR_STAT_K_CLAMP).elapsed, ((health_within _ _ _ _).keeps .led).trans ?_⟩
      rw [onLed_led, set1_led, inc_led]
  unfold clampK
  dsimp only
  split
  · exact ⟨_, rfl⟩
  · have h := hq (match ((m.inc R.PWR_K_CLAMP).set1 R.PWR_STAT_K_CLAMP).led.clampAt with
      | some c8 => decide (10000000 ≤ ((m.inc R.PWR_K_CLAMP).set1 R.PWR_STAT_K_CLAMP).elapsed - c8)
      | none => true)
    rwa [cond_eq_ite] at h



/-- The state after the reading has been judged, and the target that it gives. -/
def judged (p : Nat) : Nat × Mach :=
  (m.drawNat.2.ratio (16384 * ((p : Int) * 10000)) m.drawNat.1).2.clampK 8192 32768 (m.drawNat.2.ratio (16384 * ((p : Int) * 10000)) m.drawNat.1).1

theorem judged_target (p : Nat) : 8192 ≤ ((m.judged p).1 : Int) ∧ ((m.judged p).1 : Int) ≤ 32768 := by
  unfold judged
  rw [clampK_value]
  have h := clampI_bounds (v := (m.drawNat.2.ratio (16384 * ((p : Int) * 10000)) m.drawNat.1).1) (show (8192 : Int) ≤ 32768 by norm_num)
  omega

theorem judged_led (p : Nat) : ∃ c, (m.judged p).2.led = { m.led with clampAt := c } := by
  have h := clampK_led (m.drawNat.2.ratio (16384 * ((p : Int) * 10000)) m.drawNat.1).2 8192 32768
    (m.drawNat.2.ratio (16384 * ((p : Int) * 10000)) m.drawNat.1).1
  rwa [show (m.drawNat.2.ratio _ m.drawNat.1).2.led = m.led from
    ((ratio_within _ _ _).keeps .led).trans ((drawNat_within m).keeps .led)] at h

theorem telemetry_reads {p : Nat} (h : m.on (R.PWR_R_CFG_PMB_EN g) = true) :
    ∃ k : Nat, telemetry g (some p) m = ((m.judged p).2.put (R.PWR_R_P g) p).onLed fun l =>
      { l with gNext := vput l.gNext g (some ((m.g (R.PWR_R_K_G g) : Int) + (((m.judged p).1 : Int) - m.g (R.PWR_R_K_G g)).fdiv (2 ^ k)).toNat)
               pmbFails := vput l.pmbFails g 0, frozen := vput l.frozen g false } := by
  refine ⟨min ((m.judged p).2.g R.PWR_CTRL_G_SHIFT) 8, ?_⟩
  unfold telemetry
  rw [if_neg (by simp [h])]
  rfl

/-- A failed reading, counted. -/
def pmbMissed : Mach := (m.inc R.PWR_PMB_ERR).onLed fun l => { l with pmbFails := vput l.pmbFails g (m.led.pmbFails.get g + 1) }

theorem telemetry_fails (h : m.on (R.PWR_R_CFG_PMB_EN g) = true) :
    telemetry g none m =
      if m.led.pmbFails.get g = 2 then
        (((m.pmbMissed g).onLed fun l => { l with frozen := vput l.frozen g true }).set1 R.PWR_STAT_PMB_FAIL).health H.pmbusFail .package [g.1]
      else m.pmbMissed g := by
  unfold telemetry
  rw [if_neg (by simp [h])]
  dsimp only
  by_cases h2 : m.led.pmbFails.get g = 2
  · rw [if_pos h2, if_pos (by omega)]; rfl
  · rw [if_neg h2, if_neg (by omega)]; rfl

end

theorem vput_get_ne {α : Type} {n : Nat} (v : Vector α n) {i j : Fin n} (a : α) (h : j ≠ i) : (vput v i a).get j = v.get j := by
  rw [vput_get, if_neg h]

end Mach

section
variable (s : State) (g : Fin 6)

theorem telemetry_takes (mw : Nat) (h : s.on (R.PWR_R_CFG_PMB_EN g) = true) :
    Does (.pmbusTelemetry g (some mw)) s fun t =>
      t.g (R.PWR_R_P g) = mw % 2 ^ 32 ∧ t.led.pmbFails.get g = 0 ∧ t.led.frozen.get g = false ∧
      (∃ n ∈ t.led.gNext.get g, 8192 ≤ s.g (R.PWR_R_K_G g) → s.g (R.PWR_R_K_G g) ≤ 32768 → 8192 ≤ n ∧ n ≤ 32768) ∧
      (∀ k : Fin 6, k ≠ g → t.led.gNext.get k = s.led.gNext.get k ∧ t.led.pmbFails.get k = s.led.pmbFails.get k) ∧
      OnlyIn [.regs, .tick, .jnl, .led, .cache, .draws] s.toMach t := by
  obtain ⟨k, hk⟩ := Mach.telemetry_reads g s.toMach (p := mw) h
  have hwithin := (Mach.telemetry_within g (some mw) s.toMach).parts
  rw [hk] at hwithin
  refine does_of_act (f := Mach.telemetry g (some mw)) rfl hk ?_
  obtain ⟨c, hc⟩ := Mach.judged_led s.toMach mw
  rw [Mach.onLed_g, Mach.onLed_led, Mach.put_led, hc]
  dsimp only
  refine ⟨Mach.g_put_self _ _ _ ?_ ?_, by rw [vput_get_self], by rw [vput_get_self], ⟨_, by rw [vput_get_self]; rfl, fun h1 h2 => ?_⟩,
    fun j hj => ⟨Mach.vput_get_ne _ _ hj, Mach.vput_get_ne _ _ hj⟩, hwithin⟩
  · simp only [R.PWR_R_P]; omega
  · simp only [R.PWR_R_P]; omega
  · have hb := Mach.gain_bounds (old := s.g (R.PWR_R_K_G g)) (k := k) ⟨by omega, by omega⟩ (Mach.judged_target s.toMach mw)
    omega

theorem telemetry_misses (h : s.on (R.PWR_R_CFG_PMB_EN g) = true) :
    Does (.pmbusTelemetry g none) s fun t =>
      t.led.pmbFails.get g = s.led.pmbFails.get g + 1 ∧ t.g R.PWR_PMB_ERR = (s.g R.PWR_PMB_ERR + 1) % 2 ^ 32 ∧ t.led.gNext = s.led.gNext ∧
      (s.led.pmbFails.get g = 2 → t.led.frozen.get g = true ∧ t.g R.PWR_STAT_PMB_FAIL = 1) ∧
      (s.led.pmbFails.get g ≠ 2 → t.led.frozen = s.led.frozen ∧ RegsBut [R.PWR_PMB_ERR.a] s.toMach t ∧ t.jnl = s.jnl) ∧
      OnlyIn [.regs, .tick, .jnl, .led, .cache] s.toMach t := by
  have hl : (s.pmbMissed g).led = { s.led with pmbFails := vput s.led.pmbFails g (s.led.pmbFails.get g + 1) } := rfl
  have hg : (s.pmbMissed g).g R.PWR_PMB_ERR = (s.g R.PWR_PMB_ERR + 1) % 2 ^ 32 := (Mach.onLed_g _ _ _).trans (Mach.g_inc_word _ _ rfl rfl)
  have hw : Within [.regs, .led] s.toMach (s.pmbMissed g) := (Mach.onLed_within _ _).after (Mach.inc_within _ _).mono
  refine does_of_act (f := Mach.telemetry g none) rfl (Mach.telemetry_fails g s.toMach h) ?_
  by_cases h2 : s.led.pmbFails.get g = 2
  · rw [if_pos h2]
    set t0 := ((s.pmbMissed g).onLed fun l => { l with frozen := vput l.frozen g true }).set1 R.PWR_STAT_PMB_FAIL with ht0
    have hled : (t0.health H.pmbusFail .package [g.1]).led = { (s.pmbMissed g).led with frozen := vput (s.pmbMissed g).led.frozen g true } :=
      ((Mach.health_within _ _ _ _).keeps .led).trans (by rw [ht0, Mach.set1_led, Mach.onLed_led])
    have hreg : ∀ f : Fld, ¬ (0x1E0000 ≤ f.a ∧ f.a < 0x200000) → (t0.health H.pmbusFail .package [g.1]).g f = t0.g f := fun f hf =>
      (Mach.health_recOnly _ _ _ _).g f hf
    rw [hled, hl, hreg _ (by decide), hreg _ (by decide)]
    refine ⟨by rw [vput_get_self], ?_, rfl, fun _ => ⟨by rw [vput_get_self], Mach.g_set1 _ _ rfl (by decide)⟩, fun hn => absurd h2 hn, ?_⟩
    · rw [ht0, Mach.g_set1_ne _ _ _ (by decide), Mach.onLed_g, hg]
    · exact ((Mach.health_within _ _ _ _).after (l := [.regs, .tick, .jnl, .led, .cache])
        ((Mach.set1_within _ _).after ((Mach.onLed_within _ _).after hw.mono))).parts
  · rw [if_neg h2, hl, hg]
    exact ⟨by rw [vput_get_self], rfl, rfl, fun hn => absurd hn h2, fun _ => ⟨rfl, Mach.RegsBut.put _ R.PWR_PMB_ERR _, hw.keeps .jnl⟩, hw.only⟩

end

namespace Mach

theorem onLvl_lvlOnly (m : Mach) (d : Fin 4) (f : DieLevel → DieLevel) : OnlyIn [.lvl] m (m.onLvl d f) := fun p hp => by
  cases p <;> simp_all [Part.same]

/-! ## A raise of the level (R316) -/

section
variable {d : Fin 4} {m : Mach}

theorem avsReached_idle (h : (m.lvl.get d).raising = none) : avsReached d m = m := by unfold avsReached; rw [h]
theorem avsTimeout_idle (h : (m.lvl.get d).raising = none) : avsTimeout d m = m := by unfold avsTimeout; rw [h]

theorem avsReached_switches {x : Nat × Bool} (h : (m.lvl.get d).raising = some x) :
    avsReached d m = ((m.runToElapsed ((m.lvl.get d).avsAt + m.g R.CLK_AVS_PL_SETTLE * 1000)).setEdge d x.2).onLvl d fun l =>
      { l with freq := x.1, volt := x.1, voltEdge := x.2, raising := none } := by
  unfold avsReached; rw [h]

/-- The dies after a raise that timed out: this one is blocked, the others stay blocked while AVS_FAIL stands. -/
def raiseLost (d : Fin 4) (m0 : Mach) : Mach :=
  ({ m0 with lvl := m0.lvl.map fun x => { x with blocked := x.blocked && m0.on R.PWR_STAT_AVS_FAIL } } : Mach).onLvl d fun x =>
    { x with raising := none, blocked := true }

theorem avsTimeout_fails {x : Nat × Bool} (h : (m.lvl.get d).raising = some x) :
    avsTimeout d m = (((raiseLost d (m.runToElapsed ((m.lvl.get d).avsAt + m.g R.CLK_AVS_AVS_TMO * 1000))).emit
      (.avs d.1 (m.lvl.get d).volt (m.lvl.get d).voltEdge)).set1 R.PWR_STAT_AVS_FAIL).health H.avsFail (.die d.1) [] := by
  unfold avsTimeout; rw [h]; rfl

theorem raiseLost_get (d k : Fin 4) (m : Mach) : (m.raiseLost d).lvl.get k =
    if k = d then { m.lvl.get d with raising := none, blocked := true }
    else { m.lvl.get k with blocked := (m.lvl.get k).blocked && m.on R.PWR_STAT_AVS_FAIL } := by
  unfold raiseLost
  rw [onLvl_lvl, vmod_get]
  split
  · rw [Vector.get_eq_getElem, Vector.getElem_map]
    rfl
  · rw [Vector.get_eq_getElem, Vector.getElem_map]
    rfl

end

/-! ## Manual levels (R318) -/

/-- A manual level that breaks the order, or that the edge variant refuses. -/
def manualBad (d : Fin 4) (f u : Nat) (e : Bool) (m : Mach) : Bool :=
  decide (7 < f) || decide (7 < u) || decide (u < f) || decide ((m.lvl.get d).volt < f) || decide (u < (m.lvl.get d).freq) ||
    (e && !m.edgeElig d u m.tick.tn)

/-- The level fields of a word written to CLK_D_CTRL. -/
def wordMan (val : Word) : Bool := bitN val.toNat 31
def wordFreq (val : Word) : Nat := bitsN val.toNat 27 24
def wordVolt (val : Word) : Nat := bitsN val.toNat 23 20
def wordEdge (val : Word) : Bool := bitN val.toNat 19 && decide (2 ≤ wordVolt val)

theorem clkManual_eq (d : Fin 4) (val : Word) (m : Mach) :
    clkManual d val m =
      if wordMan val && !m.manualOk d then m.set1 (R.CLK_D_STAT_CFG_WR d)
      else if decide (wordVolt val < wordFreq val) || wordMan val && (decide (7 < wordFreq val) || decide (7 < wordVolt val) ||
          decide ((m.lvl.get d).volt < wordFreq val) || decide (wordVolt val < (m.lvl.get d).freq) ||
          (wordEdge val && wordFreq val == wordVolt val && !m.edgeElig d (wordVolt val) m.tick.tn)) then m.set1 R.PWR_STAT_PL_SEQ_ERR
      else if wordMan val then
        (((m.wr (R.CLK_D_CTRL_A d) (val &&& 0x8FF8FFFF#32)).setEdge d (wordEdge val && wordFreq val == wordVolt val)).onLvl d fun x =>
          { x with freq := wordFreq val, volt := wordVolt val, voltEdge := wordEdge val, raising := none }).emit (.avs d.1 (wordVolt val) (wordEdge val))
      else m.wr (R.CLK_D_CTRL_A d) (val &&& 0x8FF8FFFF#32) := rfl

end Mach

section
variable (s : State) (d : Fin 4)

theorem avsReached_does {x : Nat × Bool} (h : (s.lvl.get d).raising = some x) :
    let l := s.lvl.get d
    Does (.avsVoltageReached d) s fun t =>
      l.avsAt + s.g R.CLK_AVS_PL_SETTLE * 1000 ≤ t.elapsed ∧
      t.lvl.get d = { l with freq := x.1, volt := x.1, voltEdge := x.2, edge := x.2, raising := none } ∧
      (∀ k, k ≠ d → t.lvl.get k = s.lvl.get k) ∧
      (l.edge = x.2 → RegsOutside 0x1E0000 0x200000 s.toMach t ∧ OnlyIn [.regs, .time, .tick, .enc, .jnl, .lvl, .cache] s.toMach t) ∧
      OnlyIn [.regs, .time, .tick, .fe, .eng, .tleq, .tle, .heldDesc, .enc, .jnl, .led, .lvl, .fn, .cache, .draws] s.toMach t := by
  intro l
  have hwithin := (Mach.avsReached_within d s.toMach).parts
  rw [Mach.avsReached_switches h] at hwithin
  refine does_of_act (f := Mach.avsReached d) rfl (Mach.avsReached_switches h) ?_
  set m1 := s.runToElapsed (l.avsAt + s.g R.CLK_AVS_PL_SETTLE * 1000) with hm1
  have hc : ClockOnly s.toMach m1 := Mach.runToElapsed_clockOnly _ _
  have hlvl : m1.lvl = s.lvl := hc.parts .lvl (by decide)
  obtain ⟨hd, hk⟩ := Mach.setEdge_lvl d x.2 m1
  refine ⟨?_, ?_, fun k hk' => ?_, fun he => ?_, hwithin⟩
  · rw [Mach.elapsed_of_time (a := m1) (by rw [Mach.onLvl_time]; exact (Mach.setEdge_within d x.2 m1).keeps .time)]
    exact Mach.runToElapsed_reaches _ _
  · rw [Mach.onLvl_get_self, hd, hlvl]
  · rw [Mach.onLvl_get_ne _ _ hk', hk k hk', hlvl]
  · rw [Mach.setEdge_of_same (by rw [hlvl]; exact he)]
    exact ⟨fun off ho => hc.regs off (by omega), (hc.parts.append (Mach.onLvl_lvlOnly m1 d _)).mono (by decide)⟩

theorem avsTimeout_does {x : Nat × Bool} (h : (s.lvl.get d).raising = some x) :
    let l := s.lvl.get d
    Does (.avsTimeout d) s fun t =>
      l.avsAt + s.g R.CLK_AVS_AVS_TMO * 1000 ≤ t.elapsed ∧ t.lvl.get d = { l with raising := none, blocked := true } ∧
      (∀ k, k ≠ d → t.lvl.get k = { s.lvl.get k with blocked := (s.lvl.get k).blocked && s.on R.PWR_STAT_AVS_FAIL }) ∧
      t.g R.PWR_STAT_AVS_FAIL = 1 ∧ t.out = .avs d.1 l.volt l.voltEdge :: s.out ∧
      OnlyIn [.regs, .time, .tick, .enc, .jnl, .lvl, .cache, .out] s.toMach t := by
  intro l
  have hwithin := (Mach.avsTimeout_within d s.toMach).parts
  rw [Mach.avsTimeout_fails h] at hwithin
  refine does_of_act (f := Mach.avsTimeout d) rfl (Mach.avsTimeout_fails h) ?_
  set m0 := s.runToElapsed (l.avsAt + s.g R.CLK_AVS_AVS_TMO * 1000) with hm0
  have hc : ClockOnly s.toMach m0 := Mach.runToElapsed_clockOnly _ _
  have hl0 : m0.lvl = s.lvl := hc.parts .lvl (by decide)
  set t0 := ((m0.raiseLost d).emit (.avs d.1 l.volt l.voltEdge)).set1 R.PWR_STAT_AVS_FAIL with ht0
  have hw := Mach.health_within H.avsFail (.die d.1) [] t0
  have hlvl : (t0.health H.avsFail (.die d.1) []).lvl = (m0.raiseLost d).lvl :=
    (hw.keeps .lvl : (t0.health H.avsFail (.die d.1) []).lvl = t0.lvl).trans (by rw [ht0, Mach.set1_lvl, Mach.emit_lvl])
  have hon : m0.on R.PWR_STAT_AVS_FAIL = s.on R.PWR_STAT_AVS_FAIL := hc.on _ (by decide)
  rw [hlvl]
  refine ⟨?_, ?_, fun k hk => ?_, ?_, ?_, hwithin⟩
  · have ht : (t0.health H.avsFail (.die d.1) []).time = m0.time := (hw.keeps .time : _ = t0.time).trans (by rw [ht0, Mach.set1_time, Mach.emit_time]; rfl)
    rw [Mach.elapsed_of_time ht]
    exact Mach.runToElapsed_reaches _ _
  · rw [Mach.raiseLost_get, if_pos rfl, hl0]
  · rw [Mach.raiseLost_get, if_neg hk, hl0, hon]
  · rw [(Mach.health_recOnly _ _ _ _).g _ (by decide)]
    exact Mach.g_set1 _ _ rfl (by decide)
  · rw [show Mach.out _ = t0.out from hw.keeps .out, ht0, Mach.set1_out, Mach.emit_out]
    rw [show (m0.raiseLost d).out = s.out from hc.parts .out (by decide)]

variable (val : Word)

theorem clkManual_inUse (hm : Mach.wordMan val = true) (ho : s.manualOk d = false) :
    Does (.clkManualWrite d val) s fun t =>
      t.g (R.CLK_D_STAT_CFG_WR d) = 1 ∧ RegsBut [(R.CLK_D_STAT_CFG_WR d).a] s.toMach t ∧ OnlyIn [.regs] s.toMach t :=
  does_of_act (f := Mach.clkManual d val) rfl ((Mach.clkManual_eq d val s.toMach).trans (if_pos (by simp [hm, ho])))
    ⟨Mach.g_set1 _ _ rfl (by simp only [R.CLK_D_STAT_CFG_WR]; omega), Mach.RegsBut.put _ _ _, OnlyIn.set1 _ _⟩

/-- A write that breaks the order of frequency and voltage only sets its error. -/
theorem clkManual_badOrder (hx : Mach.clkManual d val s.toMach = s.set1 R.PWR_STAT_PL_SEQ_ERR) :
    Does (.clkManualWrite d val) s fun t =>
      t.g R.PWR_STAT_PL_SEQ_ERR = 1 ∧ RegsBut [R.PWR_STAT_PL_SEQ_ERR.a] s.toMach t ∧ OnlyIn [.regs] s.toMach t :=
  does_of_act (f := Mach.clkManual d val) rfl hx ⟨Mach.g_set1 _ _ rfl (by decide), Mach.RegsBut.put _ _ _, OnlyIn.set1 _ _⟩

/-- A manual level in order is set, with the voltage of the write going out. -/
theorem clkManual_sets (hm : Mach.wordMan val = true) (ho : s.manualOk d = true)
    (hb : Mach.manualBad d (Mach.wordFreq val) (Mach.wordVolt val) (Mach.wordEdge val && Mach.wordFreq val == Mach.wordVolt val) s.toMach = false) :
    Does (.clkManualWrite d val) s fun t =>
      (t.lvl.get d).freq = Mach.wordFreq val ∧ (t.lvl.get d).volt = Mach.wordVolt val ∧ (t.lvl.get d).raising = none ∧
      (t.lvl.get d).edge = (Mach.wordEdge val && Mach.wordFreq val == Mach.wordVolt val) ∧
      t.rd (R.CLK_D_CTRL_A d) = val &&& 0x8FF8FFFF#32 ∧ (∀ k, k ≠ d → t.lvl.get k = s.lvl.get k) ∧
      ((s.lvl.get d).edge = (Mach.wordEdge val && Mach.wordFreq val == Mach.wordVolt val) →
        RegsBut [R.CLK_D_CTRL_A d] s.toMach t ∧ OnlyIn [.regs, .lvl, .out] s.toMach t) ∧
      OnlyIn [.regs, .tick, .fe, .eng, .tleq, .tle, .heldDesc, .jnl, .led, .lvl, .fn, .cache, .draws, .out] s.toMach t := by
  have hx := Mach.clkManual_eq d val s.toMach
  unfold Mach.manualBad at hb
  simp only [Bool.or_eq_false_iff] at hb
  obtain ⟨⟨⟨⟨⟨hf, hu⟩, hfu⟩, hvf⟩, hufr⟩, he⟩ := hb
  rw [if_neg (by simp [ho]), if_neg (by simp only [hf, hu, hfu, hvf, hufr, he]; simp), if_pos hm] at hx
  have hwithin := (Mach.clkManual_within d val s.toMach).parts
  rw [hx] at hwithin
  refine does_of_act (f := Mach.clkManual d val) rfl hx ?_
  generalize (Mach.wordEdge val && Mach.wordFreq val == Mach.wordVolt val) = edge at hwithin ⊢
  set m1 := s.wr (R.CLK_D_CTRL_A d) (val &&& 0x8FF8FFFF#32) with hm1
  have hl : m1.lvl = s.lvl := rfl
  obtain ⟨hd, hk⟩ := Mach.setEdge_lvl d edge m1
  rw [Mach.emit_lvl, Mach.onLvl_get_self, hd]
  refine ⟨rfl, rfl, rfl, rfl, ?_, fun k hk' => ?_, fun hs => ?_, hwithin⟩
  · rw [Mach.emit_rd, Mach.onLvl_rd, (Mach.setEdge_engKept d edge m1).regs _ (.inl (by simp only [R.CLK_D_CTRL_A]; omega)), hm1]
    exact Mach.rd_wr_self _ _ _
  · rw [Mach.onLvl_get_ne _ _ hk', hk k hk', hl]
  · rw [Mach.setEdge_of_same (by rw [hl]; exact hs)]
    exact ⟨fun off h => Mach.rd_wr_ne s.toMach _ (by simpa using h), (((OnlyIn.wr _ _ _).append (Mach.onLvl_lvlOnly m1 d _)).append (OnlyIn.emit _ _)).mono (by decide)⟩

theorem clkManual_kept (hm : Mach.wordMan val = false) (h : Mach.wordFreq val ≤ Mach.wordVolt val) :
    Does (.clkManualWrite d val) s fun t =>
      t.rd (R.CLK_D_CTRL_A d) = val &&& 0x8FF8FFFF#32 ∧ RegsBut [R.CLK_D_CTRL_A d] s.toMach t ∧ OnlyIn [.regs] s.toMach t := by
  have hx := Mach.clkManual_eq d val s.toMach
  rw [if_neg (by simp [hm]), if_neg (by simp [hm, h]), if_neg (by simp [hm])] at hx
  exact does_of_act (f := Mach.clkManual d val) rfl hx
    ⟨Mach.rd_wr_self _ _ _, fun off h => Mach.rd_wr_ne _ _ (by simpa using h), OnlyIn.wr _ _ _⟩

end

/-- Settles O34: the gain moves within its range, a raise switches the clock after the settling time, a manual write keeps the order. -/
theorem levelChangesKeepOrder : Obligations.LevelChangesKeepOrder := by
  intro s g mw d val
  refine ⟨fun h => ⟨idles_of_act (f := Mach.telemetry g (some mw)) rfl (Mach.telemetry_idle g s.toMach _ h),
      idles_of_act (f := Mach.telemetry g none) rfl (Mach.telemetry_idle g s.toMach _ h)⟩,
    fun h => ⟨telemetry_takes s g mw h, telemetry_misses s g h⟩,
    fun h => ⟨idles_of_act (f := Mach.avsReached d) rfl (Mach.avsReached_idle h), idles_of_act (f := Mach.avsTimeout d) rfl (Mach.avsTimeout_idle h)⟩,
    fun x hx => ⟨avsReached_does s d hx, avsTimeout_does s d hx⟩,
    fun hm ho => clkManual_inUse s d val hm ho,
    fun hm ho hb => clkManual_badOrder s d val ?_,
    fun hm ho hb => clkManual_sets s d val hm ho hb,
    fun hm h => clkManual_badOrder s d val ?_,
    fun hm h => clkManual_kept s d val hm h⟩
  · refine (Mach.clkManual_eq d val s.toMach).trans ((if_neg (by simp [ho])).trans (if_pos ?_))
    have hm' : Mach.wordMan val = true := hm
    have hb' : Mach.manualBad d (Mach.wordFreq val) (Mach.wordVolt val) (Mach.wordEdge val && Mach.wordFreq val == Mach.wordVolt val) s.toMach = true := hb
    unfold Mach.manualBad at hb'
    rw [hm', Bool.true_and]
    simp only [Bool.or_eq_true] at hb' ⊢
    tauto
  · have hm' : Mach.wordMan val = false := hm
    have hlt : Mach.wordVolt val < Mach.wordFreq val := h
    exact (Mach.clkManual_eq d val s.toMach).trans ((if_neg (by simp [hm'])).trans (if_pos (by simp [hlt])))

end Sys2Proof.Machine

namespace Sys2Proof.Machine

set_option Elab.async false

namespace Mach

/-- The counter never runs backward. -/
theorem runTo_forward (m : Mach) (t : Int) : m.time.n ≤ (m.runTo t).time.n := by
  by_cases h : t ≤ m.time.n
  · have hr := runTo_reaches m m.time.n
    unfold runTo at hr ⊢
    rwa [incsTo_past m _ le_rfl, ← incsTo_past m t h] at hr
  · exact (le_of_not_ge h).trans (runTo_reaches m t)

theorem runToElapsed_forward (m : Mach) (t : Int) : m.elapsed ≤ (m.runToElapsed t).elapsed := by
  have h := runTo_forward m (t + m.time.stepSum)
  have hs : (m.runToElapsed t).time.stepSum = m.time.stepSum := by rw [(runToElapsed_clockOnly t m).time]
  unfold elapsed
  rw [hs]
  exact Int.sub_le_sub_right h _

/-! ## Droop (R320) -/

section
variable {d : Fin 4} {m : Mach}

theorem droop_again (h : (m.lvl.get d).stretch ≠ none) : droop d m = m := by
  obtain ⟨x, hx⟩ := Option.ne_none_iff_exists'.mp h
  unfold droop
  rw [hx]

theorem droop_first (h : (m.lvl.get d).stretch = none) :
    droop d m = (m.onLvl d fun x => { x with stretch := some m.elapsed }).inc (R.CLK_D_DROOP_EVENTS d) := by
  unfold droop
  rw [h]

theorem droopEnd_idle (h : (m.lvl.get d).stretch = none) : droopEnd d m = m := by unfold droopEnd; rw [h]

/-- The clock at full speed again, with the length of the stretch added up. -/
def droopLifted (d : Fin 4) (t0 : Int) (m1 : Mach) : Mach :=
  (m1.onLvl d fun x => { x with stretch := none }).addTo (R.CLK_D_DROOP_NS d) (m1.elapsed - t0).toNat

/-- The shortest stretch: DROOP_MIN cycles of the clock. -/
def stretchMin (d : Fin 4) (m : Mach) : Nat :=
  (m.g (R.CLK_D_CTRL_DROOP_MIN d) * 2000000 + plKhz (m.lvl.get d).freq - 1) / plKhz (m.lvl.get d).freq

theorem droopEnd_ends {t0 : Int} (h : (m.lvl.get d).stretch = some t0) :
    let m1 := m.runToElapsed (t0 + m.stretchMin d)
    droopEnd d m = if (m1.droopLifted d t0).g R.CLK_DROOP_LONG * 1000 < (m1.elapsed - t0).toNat then
        ((m1.droopLifted d t0).inc (R.CLK_D_DROOP_LONG d)).health H.droopLong (.die d.1) []
      else m1.droopLifted d t0 := by
  unfold droopEnd
  rw [h]
  rfl

/-- A long stretch is only counted and reported further. -/
theorem droopEnd_reports {t0 : Int} (h : (m.lvl.get d).stretch = some t0) :
    (droopEnd d m).time = (m.runToElapsed (t0 + m.stretchMin d)).time ∧
    (droopEnd d m).lvl = ((m.runToElapsed (t0 + m.stretchMin d)).droopLifted d t0).lvl ∧
    (droopEnd d m).g (R.CLK_D_DROOP_NS d) = ((m.runToElapsed (t0 + m.stretchMin d)).droopLifted d t0).g (R.CLK_D_DROOP_NS d) := by
  rw [droopEnd_ends h]
  generalize m.runToElapsed (t0 + m.stretchMin d) = m1
  set m2 := m1.droopLifted d t0 with hm2
  have htime : m2.time = m1.time := by rw [hm2]; unfold droopLifted addTo; rw [put_time, onLvl_time]
  by_cases hl : m2.g R.CLK_DROOP_LONG * 1000 < (m1.elapsed - t0).toNat
  · have hw := health_within H.droopLong (.die d.1) [] (m2.inc (R.CLK_D_DROOP_LONG d))
    rw [if_pos hl, (health_recOnly _ _ _ _).g _ (by simp only [R.CLK_D_DROOP_NS]; omega),
      g_inc_ne _ _ _ (by simp only [R.CLK_D_DROOP_NS, R.CLK_D_DROOP_LONG]; omega)]
    exact ⟨(hw.keeps .time).trans ((inc_time _ _).trans htime), (hw.keeps .lvl).trans (inc_lvl _ _), rfl⟩
  · rw [if_neg hl]
    exact ⟨htime, rfl, rfl⟩

end

/-! ## Temperature (R321) -/

section
variable {g : DieLevel → DieLevel} {P : Mach → Prop} {f : Fin 4 → Mach → Mach}

/-- One change of each die of a list, made die by die. -/
theorem forEach_dies (h : ∀ d t, P t → P (f d t) ∧ (f d t).lvl.get d = g (t.lvl.get d) ∧ ∀ k, k ≠ d → (f d t).lvl.get k = t.lvl.get k)
    {xs : List (Fin 4)} (hn : xs.Nodup) {m : Mach} (hm : P m) :
    P (forEach xs f m) ∧ ∀ j, (forEach xs f m).lvl.get j = if j ∈ xs then g (m.lvl.get j) else m.lvl.get j := by
  unfold forEach
  induction xs generalizing m with
  | nil => exact ⟨hm, fun j => by simp⟩
  | cons d r ih =>
    obtain ⟨hd, hr⟩ := List.nodup_cons.mp hn
    obtain ⟨hp, hs, hk⟩ := h d m hm
    obtain ⟨hP, hj⟩ := ih hr hp
    refine ⟨hP, fun j => ?_⟩
    rw [List.foldl_cons, hj]
    by_cases hjd : j = d
    · subst hjd
      simp [hd, hs]
    · simp [hjd, hk j hjd]

end

theorem sensorDies_nodup (k : Fin 24) : (sensorDies k).Nodup := by
  unfold sensorDies
  split
  · exact List.nodup_singleton _
  · exact List.nodup_finRange 4

/-- One throttle step of a die's level at an instant. -/
def throttled (now : Int) (l : DieLevel) : DieLevel :=
  if l.freq = 0 then { l with tl := 0, tlFrom := now }
  else { l with edge := false, freq := min l.freq (l.freq - 1), emerg := true, raising := none, tl := l.freq - 1, tlFrom := now }

theorem emergency_lvl (d : Fin 4) (target : Nat) (m : Mach) :
    (m.emergency d target none).lvl.get d =
      { m.lvl.get d with edge := false, freq := min (m.lvl.get d).freq target, emerg := true, raising := none } ∧
    ∀ k, k ≠ d → (m.emergency d target none).lvl.get k = m.lvl.get k := by
  obtain ⟨hd, hk⟩ := setEdge_lvl d false m
  unfold emergency
  rw [inc_lvl, onLvl_get_self, hd]
  exact ⟨rfl, fun k h => (onLvl_get_ne _ _ h).trans (hk k h)⟩

section
variable (d : Fin 4) (m : Mach)

/-- The step down of a die above PL0. -/
def throttleStep : Mach :=
  ((m.emergency d ((m.lvl.get d).freq - 1) none).onLvl d fun x => { x with tl := (m.lvl.get d).freq - 1, tlFrom := m.elapsed }).inc
    R.THM_THROTTLE_EVENTS

theorem throttleDie_eq : m.throttleDie d =
    if (m.lvl.get d).freq = 0 then m.onLvl d fun x => { x with tl := 0, tlFrom := m.elapsed }
    else (m.throttleStep d).health H.throttle (.die d.1) [] := rfl

theorem throttleDie_lvl : (m.throttleDie d).lvl.get d = throttled m.elapsed (m.lvl.get d) ∧
    ∀ k, k ≠ d → (m.throttleDie d).lvl.get k = m.lvl.get k := by
  rw [throttleDie_eq]
  unfold throttled
  by_cases h : (m.lvl.get d).freq = 0
  · rw [if_pos h, if_pos h, onLvl_get_self]
    exact ⟨rfl, fun k hk => onLvl_get_ne _ _ hk⟩
  · have hl : ((m.throttleStep d).health H.throttle (.die d.1) []).lvl = (m.throttleStep d).lvl := (health_within _ _ _ _).keeps .lvl
    obtain ⟨he, hk⟩ := emergency_lvl d ((m.lvl.get d).freq - 1) m
    rw [if_neg h, if_neg h, hl]
    unfold throttleStep
    rw [inc_lvl, onLvl_get_self, he]
    exact ⟨rfl, fun k hk' => (onLvl_get_ne _ _ hk').trans (hk k hk')⟩

theorem throttleDie_time : (m.throttleDie d).time = m.time := (throttleDie_within d m).keeps .time

/-- A throttle step leaves the readings of the sensors. -/
theorem throttleDie_sensor (k : Fin 24) : (m.throttleDie d).g (R.THM_S k) = m.g (R.THM_S k) := by
  have ha : (R.THM_S k).a < 0xD00A0 := by simp only [R.THM_S]; omega
  have hb : 0xD0040 ≤ (R.THM_S k).a := by simp only [R.THM_S]; omega
  generalize R.THM_S k = fd at ha hb ⊢
  rw [throttleDie_eq]
  by_cases h : (m.lvl.get d).freq = 0
  · rw [if_pos h, onLvl_g]
  · rw [if_neg h, (health_recOnly _ _ _ _).g _ (by omega)]
    unfold throttleStep emergency
    rw [g_inc_ne _ _ _ (by simp only [R.THM_THROTTLE_EVENTS]; omega), onLvl_g, g_inc_ne _ _ _ (by simp only [R.PWR_EMERG]; omega), onLvl_g,
      (setEdge_engKept d false m).g (.inl (by omega))]

/-- Without an edge variant in force a throttle step reaches no engine. -/
theorem throttleDie_plain (h : (m.lvl.get d).edge = false) : OnlyIn [.regs, .tick, .jnl, .lvl, .cache] m (m.throttleDie d) := by
  rw [throttleDie_eq]
  by_cases hf : (m.lvl.get d).freq = 0
  · rw [if_pos hf]
    exact (onLvl_lvlOnly _ _ _).mono (by decide)
  · rw [if_neg hf]
    unfold throttleStep emergency
    rw [setEdge_of_same h]
    exact (((((onLvl_lvlOnly _ _ _).append (OnlyIn.inc _ _)).append (onLvl_lvlOnly _ _ _)).append (OnlyIn.inc _ _)).append
      (health_within _ _ _ _).parts).mono (by decide)

end

theorem throttled_edge (now : Int) (l : DieLevel) (h : l.edge = false) : (throttled now l).edge = false := by
  unfold throttled
  split
  · exact h
  · rfl

section
variable (k : Fin 24) (reading : Int) (m : Mach)

/-- The state with the reading in its register. -/
def sensed : Mach := m.put (R.THM_S k) (toBits 16 reading)

/-- Every die that the sensor acts on is noted as not cool. -/
def warmed (k : Fin 24) (m : Mach) : Mach := forEach (sensorDies k) (fun d t => t.onLvl d fun l => { l with warmAt := m.elapsed }) m

theorem sensed_g : (m.sensed k reading).g (R.THM_S k) = toBits 16 reading :=
  g_put_fits _ (by simp only [R.THM_S]; omega) (by simpa only [R.THM_S] using toBits_lt 16 reading)

theorem sensed_sensor : (m.sensed k reading).sensor k = toSigned 16 (toBits 16 reading) := by
  unfold sensor gi
  rw [sensed_g]
  rfl

theorem sensed_g_ne {f : Fld} (h : f.a < 0xD0040) : (m.sensed k reading).g f = m.g f := by
  refine g_put_ne _ _ _ _ ?_
  simp only [R.THM_S]
  omega

theorem sensed_throttleAt : (m.sensed k reading).throttleAt = m.throttleAt := by
  unfold throttleAt
  rw [sensed_g_ne _ _ _ (by decide)]

theorem warmed_within : Within [.lvl] m (m.warmed k) := Within.loop (fun x t => (onLvl_within).mono) (.refl _ _)

theorem warmed_lvl (j : Fin 4) : (m.warmed k).lvl.get j = if j ∈ sensorDies k then { m.lvl.get j with warmAt := m.elapsed } else m.lvl.get j :=
  (forEach_dies (P := fun _ => True) (g := fun l => { l with warmAt := m.elapsed })
    (fun _ _ _ => ⟨trivial, onLvl_get_self _ _ _, fun _ hk => onLvl_get_ne _ _ hk⟩) (sensorDies_nodup k) trivial).2 j

/-- The reading and its note, before any throttle step. -/
def noted : Mach := if (m.throttleAt - m.g R.THM_CTRL_HYST) * 256 ≤ toSigned 16 (toBits 16 reading) then (m.sensed k reading).warmed k else m.sensed k reading

theorem noted_within : Within [.regs, .lvl] m (m.noted k reading) := by
  unfold noted
  split
  · exact (warmed_within _ _).after (put_within _ _ _).mono
  · exact (put_within _ _ _).mono

theorem noted_regs : (m.noted k reading).regs = (m.sensed k reading).regs := by
  unfold noted
  split
  · exact (warmed_within _ _).keeps .regs
  · rfl

theorem thermal_eq : m.thermal k reading =
    if m.throttleAt * 256 ≤ toSigned 16 (toBits 16 reading) then forEach (sensorDies k) (fun d t => t.throttleDie d) (m.noted k reading) else m.noted k reading := by
  have hn : (if ((m.sensed k reading).throttleAt - (m.sensed k reading).g R.THM_CTRL_HYST) * 256 ≤ (m.sensed k reading).sensor k then
      (m.sensed k reading).warmed k else m.sensed k reading) = m.noted k reading := by
    unfold noted
    rw [sensed_throttleAt, sensed_g_ne _ _ _ (by decide), sensed_sensor]
  have hg : ∀ f, (m.noted k reading).g f = (m.sensed k reading).g f := g_of_regs (noted_regs k reading m)
  have ht : (m.noted k reading).throttleAt = m.throttleAt := by
    rw [← sensed_throttleAt k reading m]; unfold throttleAt; rw [hg]
  have hs : (m.noted k reading).sensor k = toSigned 16 (toBits 16 reading) := by
    rw [← sensed_sensor k reading m]; unfold sensor gi; rw [hg]
  have key : ∀ x : Mach, x = m.noted k reading →
      (if x.throttleAt * 256 ≤ x.sensor k then forEach (sensorDies k) (fun d t => t.throttleDie d) x else x) =
        if m.throttleAt * 256 ≤ toSigned 16 (toBits 16 reading) then forEach (sensorDies k) (fun d t => t.throttleDie d) (m.noted k reading) else m.noted k reading := by
    rintro x rfl
    rw [ht, hs]
  exact key _ hn

theorem noted_lvl (j : Fin 4) : (m.noted k reading).lvl.get j =
    if (m.throttleAt - m.g R.THM_CTRL_HYST) * 256 ≤ toSigned 16 (toBits 16 reading) ∧ j ∈ sensorDies k then
      { m.lvl.get j with warmAt := m.elapsed } else m.lvl.get j := by
  unfold noted
  have hl : (m.sensed k reading).lvl = m.lvl := put_lvl _ _ _
  have he : (m.sensed k reading).elapsed = m.elapsed := elapsed_of_time (put_time _ _ _)
  by_cases h : (m.throttleAt - m.g R.THM_CTRL_HYST) * 256 ≤ toSigned 16 (toBits 16 reading)
  · rw [if_pos h, warmed_lvl, hl, he]
    simp [h]
  · rw [if_neg h, hl, if_neg (fun hn => h hn.1)]

/-- What a throttle step leaves of the state it started from: the time, the readings and, without an edge variant, every engine. -/
structure ThrottleKept (k : Fin 24) (a b : Mach) : Prop where
  time : b.time = a.time
  sensor : b.g (R.THM_S k) = a.g (R.THM_S k)
  plain : (∀ j : Fin 4, (a.lvl.get j).edge = false) →
    (∀ j : Fin 4, (b.lvl.get j).edge = false) ∧ OnlyIn [.regs, .tick, .jnl, .lvl, .cache] a b

theorem ThrottleKept.step {a b : Mach} (h : ThrottleKept k a b) (d : Fin 4) : ThrottleKept k a (b.throttleDie d) := by
  obtain ⟨hd, hk⟩ := throttleDie_lvl d b
  refine ⟨(throttleDie_time d b).trans h.time, (throttleDie_sensor d b k).trans h.sensor, fun hp => ?_⟩
  obtain ⟨he, hw⟩ := h.plain hp
  refine ⟨fun j => ?_, hw.trans (throttleDie_plain d b (he d))⟩
  by_cases hj : j = d
  · rw [hj, hd]
    exact throttled_edge _ _ (he d)
  · rw [hk j hj]
    exact he j

theorem throttleAll_spec (a : Mach) :
    ThrottleKept k a (forEach (sensorDies k) (fun d t => t.throttleDie d) a) ∧
    ∀ j, (forEach (sensorDies k) (fun d t => t.throttleDie d) a).lvl.get j =
      if j ∈ sensorDies k then throttled a.elapsed (a.lvl.get j) else a.lvl.get j := by
  refine forEach_dies (P := ThrottleKept k a) (fun d t ht => ⟨ht.step k d, ?_⟩) (sensorDies_nodup k)
    ⟨rfl, rfl, fun hp => ⟨hp, OnlyIn.refl _ _⟩⟩
  rw [← elapsed_of_time ht.time]
  exact throttleDie_lvl d t

end

/-- What a step down leaves of a die's level. -/
theorem throttled_noted (now : Int) (l : DieLevel) (w : Int) :
    let x := throttled now { l with warmAt := w }
    x.freq = l.freq - 1 ∧ x.tl = l.freq - 1 ∧ x.volt = l.volt ∧ x.tlFrom = now ∧ (l.freq ≠ 0 → x.emerg = true) := by
  unfold throttled
  by_cases h : l.freq = 0
  · simp [h]
  · simp [h]

section
variable {k : Fin 24} {reading : Int} {m : Mach}

theorem thermal_cool (h : ¬ m.throttleAt * 256 ≤ toSigned 16 (toBits 16 reading)) : m.thermal k reading = m.noted k reading := by
  rw [thermal_eq, if_neg h]

/-- A reading at THROTTLE or above steps every die of the sensor down, and no other. -/
theorem thermal_hot (h : m.throttleAt * 256 ≤ toSigned 16 (toBits 16 reading)) :
    let t := m.thermal k reading
    ((∀ j ∈ sensorDies k, (t.lvl.get j).freq = (m.lvl.get j).freq - 1 ∧ (t.lvl.get j).tl = (m.lvl.get j).freq - 1 ∧
      (t.lvl.get j).volt = (m.lvl.get j).volt ∧ (t.lvl.get j).tlFrom = t.elapsed ∧ ((m.lvl.get j).freq ≠ 0 → (t.lvl.get j).emerg = true)) ∧
    ∀ j : Fin 4, j ∉ sensorDies k → t.lvl.get j = m.lvl.get j) ∧
    t.g (R.THM_S k) = toBits 16 reading ∧ t.time = m.time ∧
    ((∀ j : Fin 4, (m.lvl.get j).edge = false) → OnlyIn [.regs, .tick, .jnl, .lvl, .cache] m t) := by
  intro t
  have ht : t = forEach (sensorDies k) (fun d t => t.throttleDie d) (m.noted k reading) := by
    unfold t; rw [thermal_eq, if_pos h]
  have hw := noted_within k reading m
  obtain ⟨⟨htime, hs, hp⟩, hl⟩ := throttleAll_spec k (m.noted k reading)
  rw [← ht] at htime hs hp hl
  have ht2 : t.time = m.time := htime.trans (hw.keeps .time)
  have hel : (m.noted k reading).elapsed = t.elapsed := (elapsed_of_time htime).symm
  have hwarm : (m.throttleAt - m.g R.THM_CTRL_HYST) * 256 ≤ toSigned 16 (toBits 16 reading) := by omega
  refine ⟨⟨fun j hj => ?_, fun j hj => ?_⟩, ?_, ht2, fun hedge => ?_⟩
  · rw [hl j, if_pos hj, noted_lvl, if_pos ⟨hwarm, hj⟩, hel]
    exact throttled_noted _ _ _
  · rw [hl j, if_neg hj, noted_lvl, if_neg (fun hn => hj hn.2)]
  · rw [hs, g_of_regs (noted_regs k reading m), sensed_g]
  · refine (hw.only.trans (c := t) (hp fun j => ?_).2).mono (by decide)
    rw [noted_lvl]
    split
    · exact hedge j
    · exact hedge j

/-- The latest of the dies' last steps. -/
def lastStep (k : Fin 24) (m : Mach) : Int := (sensorDies k).foldl (fun b d => max b (m.lvl.get d).tlFrom) 0

theorem le_foldl_max {α : Type} (f : α → Int) (xs : List α) (b : Int) : b ≤ xs.foldl (fun b x => max b (f x)) b ∧
    ∀ x ∈ xs, f x ≤ xs.foldl (fun b x => max b (f x)) b := by
  induction xs generalizing b with
  | nil => simp
  | cons y r ih =>
    obtain ⟨h1, h2⟩ := ih (max b (f y))
    refine ⟨(le_max_left _ _).trans h1, fun x hx => ?_⟩
    rcases List.mem_cons.mp hx with rfl | hx
    · exact (le_max_right _ _).trans h1
    · exact h2 x hx

theorem thermalRepeat_eq : m.thermalRepeat k reading =
    (m.runToElapsed (m.lastStep k + atLeast1 (m.g R.THM_CTRL_REPEAT) * 1000)).thermal k reading := rfl

/-- One rise of the thermal limit at an instant. -/
def risenBase (d : Fin 4) (m : Mach) : Mach :=
  let top : Int := (m.throttleAt - m.g R.THM_CTRL_HYST) * 256
  forEach (sensorsOf d ++ sensorsOf 4) (fun (s : Nat) t =>
      if t.sensor s < top then t else t.drawNat.2.put (R.THM_S s) (toBits 16 (top - 1 - (t.drawNat.1 % 32768 : Nat))))
    (m.runToElapsed (max (m.lvl.get d).tlFrom (m.lvl.get d).warmAt + atLeast1 (m.g R.THM_RISE) * 1000000))

theorem tlRise_eq (d : Fin 4) : m.tlRise d =
    if 7 ≤ (m.lvl.get d).tl then m else (m.risenBase d).onLvl d fun x => { x with tl := x.tl + 1, tlFrom := (m.risenBase d).elapsed } := rfl

/-- The readings are the only thing that moves with the time. -/
theorem risenBase_within (d : Fin 4) :
    Within [.regs, .draws] (m.runToElapsed (max (m.lvl.get d).tlFrom (m.lvl.get d).warmAt + atLeast1 (m.g R.THM_RISE) * 1000000)) (m.risenBase d) := by
  unfold risenBase
  refine Within.loop (fun s t => ?_) (.refl _ _)
  split
  · exact .refl _ _
  · exact (put_within _ _ _).after ((drawNat_within t).mono)

end

end Mach

/-- Settles O35: a droop's stretch is measured, a hot sensor steps its dies down, the limit rises level by level. -/
theorem droopAndThrottle : Obligations.DroopAndThrottle := by
  intro s d k reading l hot warm plain stepped
  refine ⟨fun h => idles_of_act (f := Mach.droop d) rfl (Mach.droop_again h), fun h => ?_,
    fun h => idles_of_act (f := Mach.droopEnd d) rfl (Mach.droopEnd_idle h), fun t0 h => ?_, fun h => ?_, fun h => ⟨?_, ?_⟩,
    fun h => idles_of_act (f := Mach.tlRise d) rfl (Mach.tlRise_eq d |>.trans (if_pos h)), fun h => ?_⟩
  · refine does_of_act (f := Mach.droop d) rfl (Mach.droop_first h) ⟨?_, fun j hj => ?_, ?_, ?_, ?_⟩
    · rw [Mach.inc_lvl, Mach.onLvl_get_self]
    · rw [Mach.inc_lvl, Mach.onLvl_get_ne _ _ hj]
    · rw [Mach.g_inc_word _ _ rfl rfl, Mach.onLvl_g]
    · exact Mach.RegsBut.put (s.onLvl d fun x => { x with stretch := some s.elapsed }) _ _
    · exact ((Mach.onLvl_lvlOnly _ _ _).append (OnlyIn.inc _ _)).mono (by decide)
  · have hwithin := (Mach.droopEnd_within d s.toMach).parts
    refine does_of_act (f := Mach.droopEnd d) rfl rfl ?_
    obtain ⟨htime, hlvl, hg⟩ := Mach.droopEnd_reports (m := s.toMach) h
    set m1 := s.runToElapsed (t0 + s.stretchMin d) with hm1
    have hc : ClockOnly s.toMach m1 := Mach.runToElapsed_clockOnly _ _
    have hl : m1.lvl = s.lvl := hc.parts .lvl (by decide)
    rw [hlvl, Mach.elapsed_of_time htime, hg]
    unfold Mach.droopLifted Mach.addTo
    rw [Mach.put_lvl, Mach.onLvl_get_self, hl]
    refine ⟨rfl, fun j hj => ?_, Mach.runToElapsed_forward _ _, ?_, ?_, hwithin⟩
    · rw [Mach.onLvl_get_ne _ _ hj, hl]
    · have hr := Mach.runToElapsed_reaches s.toMach (t0 + s.stretchMin d)
      rw [← hm1] at hr
      omega
    · rw [Mach.g_put_self _ _ _ (by simp only [R.CLK_D_DROOP_NS]; omega) (by simp only [R.CLK_D_DROOP_NS]; omega), Mach.onLvl_g,
        hc.g _ (by simp only [R.CLK_D_DROOP_NS]; omega)]
      rfl
  · refine does_of_act (f := Mach.thermal k reading) rfl (Mach.thermal_cool h) ⟨?_, ?_, fun hw => ?_, fun hw j hj => ?_, fun j hj => ?_,
      (Mach.noted_within k reading s.toMach).only⟩
    · rw [Mach.g_of_regs (Mach.noted_regs k reading s.toMach)]
      exact Mach.sensed_g _ _ _
    · exact Mach.RegsBut.of_regs (Mach.RegsBut.put s.toMach (R.THM_S k) _) (Mach.noted_regs k reading s.toMach)
    · refine Vector.ext fun i hi => ?_
      have := Mach.noted_lvl k reading s.toMach ⟨i, hi⟩
      rwa [if_neg (fun hn => hw hn.1)] at this
    · rw [Mach.noted_lvl, if_pos ⟨hw, hj⟩]
    · rw [Mach.noted_lvl, if_neg (fun hn => hj hn.2)]
  · obtain ⟨hs, hg, -, hp⟩ := Mach.thermal_hot (k := k) (m := s.toMach) h
    exact does_of_act (f := Mach.thermal k reading) rfl rfl ⟨hs, hg, hp, (Mach.thermal_within k reading s.toMach).parts⟩
  · have hc : ClockOnly s.toMach (s.runToElapsed (s.lastStep k + atLeast1 (s.g R.THM_CTRL_REPEAT) * 1000)) := Mach.runToElapsed_clockOnly _ _
    have hr := Mach.runToElapsed_reaches s.toMach (s.lastStep k + atLeast1 (s.g R.THM_CTRL_REPEAT) * 1000)
    have hwithin := (Mach.thermalRepeat_within k reading s.toMach).parts
    refine does_of_act (f := Mach.thermalRepeat k reading) rfl (Mach.thermalRepeat_eq (m := s.toMach)) ?_
    rw [Mach.thermalRepeat_eq] at hwithin
    set m1 := s.runToElapsed (s.lastStep k + atLeast1 (s.g R.THM_CTRL_REPEAT) * 1000) with hm1
    have hl : m1.lvl = s.lvl := hc.parts .lvl (by decide)
    have hth : m1.throttleAt = s.throttleAt := by unfold Mach.throttleAt; rw [hc.g _ (by decide)]
    obtain ⟨hs, -, htime, hp⟩ := Mach.thermal_hot (k := k) (m := m1) (by rw [hth]; exact h)
    rw [hl] at hs hp
    refine ⟨hs, fun j hj => ?_, fun he => (hc.parts.append (hp he)).mono (by decide), hwithin⟩
    · rw [Mach.elapsed_of_time htime]
      have := (Mach.le_foldl_max (fun d => (s.lvl.get d).tlFrom) (Mach.sensorDies k) 0).2 j hj
      have hd : (s.lvl.get j).tlFrom ≤ s.lastStep k := this
      omega
  · have hx := Mach.tlRise_eq (m := s.toMach) d
    have hlt : ¬ 7 ≤ (s.lvl.get d).tl := not_le.mpr h
    rw [if_neg hlt] at hx
    have hwithin := (Mach.tlRise_within d s.toMach).parts
    rw [hx] at hwithin
    refine does_of_act (f := Mach.tlRise d) rfl hx ?_
    have hb := Mach.risenBase_within (m := s.toMach) d
    have hr := Mach.runToElapsed_reaches s.toMach (max (s.lvl.get d).tlFrom (s.lvl.get d).warmAt + atLeast1 (s.g R.THM_RISE) * 1000000)
    have hc := Mach.runToElapsed_clockOnly (max (s.lvl.get d).tlFrom (s.lvl.get d).warmAt + atLeast1 (s.g R.THM_RISE) * 1000000) s.toMach
    have hlvl : (s.risenBase d).lvl = s.lvl := (hb.keeps .lvl).trans (hc.parts .lvl (by decide))
    have hel := Mach.elapsed_of_time (hb.keeps .time)
    rw [hel] at hwithin
    rw [Mach.onLvl_get_self, hlvl, Mach.elapsed_of_time (Mach.onLvl_time _ _ _), hel]
    refine ⟨rfl, le_trans ?_ hr, le_trans ?_ hr, fun j hj => by rw [Mach.onLvl_get_ne _ _ hj, hlvl], hwithin⟩
    · exact Int.add_le_add_right (le_max_left _ _) _
    · exact Int.add_le_add_right (le_max_right _ _) _

end Sys2Proof.Machine

namespace Sys2Proof.Machine

set_option Elab.async false

/-! ## Records written while the counter runs

At a capture with a REBASE pending, the position entries of that encoder are missed, and each miss is a record (R199, R291). So a command that
runs the counter over a whole microsecond may write to the journal. -/

/-- What a command does holds of the state that its operation answers. -/
theorem of_does_act {c : Instr} {s : State} {f : Mach → Mach} {P : Mach → Prop} (hx : exec c s = s.act f) (h : Does c s P) : P (f s.toMach) := by
  obtain ⟨t, ht, -, hP⟩ := h
  rw [hx, State.act_eq, Host.Outcome.next.injEq] at ht
  rwa [← ht] at hP

/-- A position entry of encoder 0 that waits. -/
def positionEntry : Action :=
  { gen := 0, slot := 0, out := 0, kind := true, enc := 0, fire := false, origClass := 0, fn := 0, width := 1, trigger := 0, origRsn := 0, cid := 0,
    rule := 0 }

/-- An awake package in which encoder 0 rebases at the next capture, a position entry waits for it, and vector 3 of function 2 is moderated. -/
def rebasePending : State :=
  Test.st ((((Test.up.put (R.MOT_ENC_CTRL_EN 0) 1).onEnc 0 fun e => { e with pendRebase := true }).onJnl fun j =>
    { j with actions := [(0, positionEntry)] }).onFn 2 fun x => { x with mods := vput x.mods 3 { n := 2, since := some 1000 } })

theorem modTimer_rebasePending : (rebasePending.toMach.modTimer 2 3).jnl.recs ≠ rebasePending.jnl.recs := by decide +kernel

/-- Refutes O51: the moderation timer runs the counter, and at a capture with a REBASE pending the missed entry's record joins the journal. -/
theorem not_doorbellsAndRings : ¬ Obligations.DoorbellsAndRings := by
  intro h
  obtain ⟨-, -, -, -, -, hmod, -⟩ := h rebasePending 2 0 0 true ⟨false, 0, {}⟩ 3
  obtain ⟨-, -, -, -, -, hrecs, -⟩ := of_does_act (f := Mach.modTimer 2 3) rfl (hmod 1000 (by decide +kernel))
  exact modTimer_rebasePending hrecs

end Sys2Proof.Machine

namespace Sys2Proof.Machine

set_option Elab.async false

/-! ## A step of the clock that begins a tick

A step past the next boundary begins a tick (R335, R341), and a tick's beginning writes every staged word of the hub's blocks to the offset
that is kept with it. The model keeps these offsets as plain numbers. -/

/-- A step to one second. -/
def stepToOne : Staged := { adj := false, v := 1, ns := 0, at? := none, force := false }

/-- The step to one second is armed, and a staged word of the hub stands at the offset of TIM_STEPS. -/
def stagedOverSteps : State :=
  Test.st ((Test.up.onFus fun u => { u with staged := [(R.TIM_STEPS.a, 5#32)] }).onTime fun t => { t with staged := some stepToOne })

theorem stagedApply_stagedOverSteps : stagedOverSteps.toMach.stagedApply.g R.TIM_STEPS = 5 := by decide +kernel

/-- Refutes O37: the step begins a tick, and where a word is staged at the offset of TIM_STEPS, that word is what TIM_STEPS then reads,
not one more than before. -/
theorem not_stagedStepApplies : ¬ Obligations.StagedStepApplies := by
  intro h
  obtain ⟨-, -, -, -, -, -, hst, -⟩ := h stagedOverSteps false false false 0
  obtain ⟨-, -, -, hdo⟩ := hst stepToOne (by decide +kernel)
  obtain ⟨-, -, -, -, -, -, hg, -⟩ := of_does_act (f := Mach.stagedApply) rfl (hdo (by decide +kernel) (by decide +kernel))
  rw [stagedApply_stagedOverSteps] at hg
  exact absurd hg (by decide +kernel)

end Sys2Proof.Machine

namespace Sys2Proof.Machine

set_option Elab.async false

/-! ## Bytes written in a row -/

/-- The memory after a run of bytes was written from an address on. -/
def Mem.writes (b : List Byte) (a : Nat) (m : Mem) : Mem := (b.foldl (fun (s : Nat × Mem) v => (s.1 + 1, Mem.write s.2 s.1 v)) (a, m)).2

theorem Mem.read_writes (b : List Byte) (a : Nat) (m : Mem) (x : Nat) :
    Mem.read (Mem.writes b a m) x = if h : a ≤ x ∧ x - a < b.length then b[x - a]'h.2 else Mem.read m x := by
  induction b generalizing a m with
  | nil => simp [Mem.writes]
  | cons v r ih =>
    have hstep : Mem.writes (v :: r) a m = Mem.writes r (a + 1) (Mem.write m a v) := rfl
    rw [hstep, ih, Mem.read_write]
    by_cases hx : x = a
    · subst hx
      simp
    · by_cases hin : a + 1 ≤ x ∧ x - (a + 1) < r.length
      · have hin' : a ≤ x ∧ x - a < (v :: r).length := by simp only [List.length_cons]; omega
        rw [dif_pos hin, dif_pos hin']
        simp only [show x - a = x - (a + 1) + 1 by omega, List.getElem_cons_succ]
      · have hin' : ¬ (a ≤ x ∧ x - a < (v :: r).length) := by simp only [List.length_cons]; omega
        rw [dif_neg hin, dif_neg hin', if_neg hx]

theorem Mem.read_writes_outside {b : List Byte} {a x : Nat} (m : Mem) (h : x < a ∨ a + b.length ≤ x) : Mem.read (Mem.writes b a m) x = Mem.read m x := by
  rw [Mem.read_writes, dif_neg (by omega)]

/-- What was written reads back. -/
theorem Mem.reads_writes (b : List Byte) (a : Nat) (m : Mem) : (List.range b.length).map (fun i => Mem.read (Mem.writes b a m) (a + i)) = b := by
  refine List.ext_getElem (by simp) fun i h1 h2 => ?_
  rw [List.getElem_map, List.getElem_range, Mem.read_writes, dif_pos (by omega)]
  simp only [Nat.add_sub_cancel_left]

theorem Mem.reads_writes_of_length {b : List Byte} {n : Nat} (h : b.length = n) (a : Nat) (m : Mem) :
    (List.range n).map (fun i => Mem.read (Mem.writes b a m) (a + i)) = b := h ▸ Mem.reads_writes b a m

namespace Mach

theorem RegsBut.inc (m : Mach) (f : Fld) : RegsBut [f.a] m (m.inc f) := RegsBut.put m f (m.g f + 1)

/-! ## Engines -/

theorem vmod_vmod {α : Type} {n : Nat} (v : Vector α n) (i : Fin n) (f g : α → α) : vmod (vmod v i f) i g = vmod v i fun x => g (f x) := by
  refine Vector.ext fun j hj => ?_
  have h := vmod_get (vmod v i f) i ⟨j, hj⟩ g
  rw [vmod_get_self, vmod_get v i ⟨j, hj⟩ f] at h
  refine Eq.trans h (Eq.trans ?_ (vmod_get v i ⟨j, hj⟩ fun x => g (f x)).symm)
  split <;> rfl

section
variable (m : Mach) (e : Fin 72) (f : Engine → Engine)

theorem onEng_get_self : (m.onEng e f).eng.get e = f (m.eng.get e) := by rw [onEng_eng, vmod_get_self]

theorem onEng_get_ne {e' : Fin 72} (h : e' ≠ e) : (m.onEng e f).eng.get e' = m.eng.get e' := by rw [onEng_eng, vmod_get_ne _ _ h]

theorem onEng_onlyIn : OnlyIn [.eng] m (m.onEng e f) := fun p hp => by cases p <;> simp_all [Part.same]

theorem onEng_same (h : f (m.eng.get e) = m.eng.get e) : m.onEng e f = m := by
  have hk : ∀ j, (vmod m.eng e f).get j = m.eng.get j := fun j => by
    rw [vmod_get]
    split
    · case isTrue hj => rw [hj, h]
    · rfl
  have hv : vmod m.eng e f = m.eng := Vector.ext fun i hi => hk ⟨i, hi⟩
  unfold onEng
  rw [hv]

end

section
variable {m : Mach} {e : Fin 72}

theorem pumpHeld_eq : m.pumpHeld e =
    if (m.eng.get e).inReset then m
    else
      ({ m with heldDesc := (m.heldDesc.filter fun h => h.1 != e.1) ++
          (m.heldDesc.filter fun h => h.1 == e.1).drop (64 - (m.eng.get e).queue.length) } : Mach).onEng e fun y =>
        { y with queue := y.queue ++ ((m.heldDesc.filter fun h => h.1 == e.1).take (64 - (m.eng.get e).queue.length)).map Prod.snd } := rfl

/-- The queue takes what is held for its engine, up to 64 in all. -/
theorem pumpHeld_eng (h : (m.eng.get e).inReset = false) : (m.pumpHeld e).eng.get e =
    { m.eng.get e with queue := (m.eng.get e).queue ++ ((m.heldDesc.filter fun h => h.1 == e.1).take (64 - (m.eng.get e).queue.length)).map Prod.snd } := by
  rw [pumpHeld_eq, if_neg (by simp [h])]
  exact onEng_get_self _ _ _

theorem pumpHeld_eng_ne {e' : Fin 72} (h : e' ≠ e) : (m.pumpHeld e).eng.get e' = m.eng.get e' := by
  rw [pumpHeld_eq]
  split
  · rfl
  · exact onEng_get_ne _ _ _ h

/-- With nothing held for the engine its queue stays. -/
theorem pumpHeld_none (h : ∀ x ∈ m.heldDesc, x.1 ≠ e.1) : m.pumpHeld e = m := by
  rw [pumpHeld_eq]
  split
  · rfl
  · have hall : (m.heldDesc.filter fun x => x.1 != e.1) = m.heldDesc := List.filter_eq_self.2 fun x hx => by simpa using h x hx
    have hnone : (m.heldDesc.filter fun x => x.1 == e.1) = [] := List.filter_eq_nil_iff.2 fun x hx => by simpa using h x hx
    simp only [hall, hnone, List.drop_nil, List.take_nil, List.map_nil, List.append_nil]
    exact onEng_same m e _ rfl

/-- Only the queue of an engine moves when it is filled up. -/
theorem pumpHeld_kept (m : Mach) (e : Fin 72) :
    ((m.pumpHeld e).eng.get e).run = (m.eng.get e).run ∧ ((m.pumpHeld e).eng.get e).sram = (m.eng.get e).sram ∧
    ((m.pumpHeld e).eng.get e).inReset = (m.eng.get e).inReset ∧ ((m.pumpHeld e).eng.get e).loading = (m.eng.get e).loading ∧
    ∃ l, ((m.pumpHeld e).eng.get e).queue = (m.eng.get e).queue ++ l := by
  by_cases h : (m.eng.get e).inReset = true
  · rw [show m.pumpHeld e = m from if_pos h]
    exact ⟨rfl, rfl, rfl, rfl, [], by simp⟩
  · rw [pumpHeld_eng (by simpa using h)]
    exact ⟨rfl, rfl, rfl, rfl, _, rfl⟩

theorem engReady_congr {a b : Mach} (hr : (b.eng.get e).inReset = (a.eng.get e).inReset) (hl : (b.eng.get e).loading = (a.eng.get e).loading)
    (hrst : b.rst = a.rst) : b.engReady e = a.engReady e := by
  unfold engReady engGood dieLost
  dsimp only
  rw [hr, hl, hrst]

theorem pumpHeld_engReady : (m.pumpHeld e).engReady e = m.engReady e := by
  obtain ⟨-, -, hr, hl, -⟩ := pumpHeld_kept m e
  exact engReady_congr hr hl ((pumpHeld_within e m).keeps .rst)

/-- A patch written into an engine's SRAM. -/
theorem sramPut_sram (m : Mach) (e : Fin 72) {a : Nat} {b : List Byte} (h : a + b.length ≤ localTop) :
    (m.sramPut e a b) = m.onEng e fun x => { x with sram := Mem.writes b a x.sram } := by
  have hb : b.take (localTop - a) = b := List.take_of_length_le (by omega)
  unfold sramPut
  rw [hb]
  rfl

end

theorem dramGet_length (m : Mach) (a n : Nat) : (m.dramGet a n).length = n := by unfold dramGet; simp

section
variable (m : Mach) (e : Fin 72) (b : List Byte) (a : Nat) (r : Run)

/-- The engine with bytes written to its SRAM, running. -/
def loadedRun : Mach := m.onEng e fun y => { y with sram := Mem.writes b a y.sram, run := some r }

theorem loadedRun_get : (m.loadedRun e b a r).eng.get e = { m.eng.get e with sram := Mem.writes b a (m.eng.get e).sram, run := some r } :=
  onEng_get_self _ _ _

theorem loadedRun_sramGet {n : Nat} (h : b.length = n) : (m.loadedRun e b a r).sramGet e a n = b := by
  unfold sramGet
  rw [loadedRun_get]
  exact Mem.reads_writes_of_length h _ _

theorem loadedRun_sram_outside {n x : Nat} (h : b.length = n) (hx : x < a ∨ a + n ≤ x) :
    Mem.read ((m.loadedRun e b a r).eng.get e).sram x = Mem.read (m.eng.get e).sram x := by
  rw [loadedRun_get]
  exact Mem.read_writes_outside _ (by rw [h]; exact hx)

theorem loadedRun_run : ((m.loadedRun e b a r).eng.get e).run = some r := by rw [loadedRun_get]

theorem loadedRun_get_ne {e' : Fin 72} (h : e' ≠ e) : (m.loadedRun e b a r).eng.get e' = m.eng.get e' := onEng_get_ne _ _ _ h

theorem loadedRun_onlyIn : OnlyIn [.eng] m (m.loadedRun e b a r) := onEng_onlyIn _ _ _

end

/-! ## A descriptor starts (R134) -/

section
variable {m : Mach} {e : Fin 72} {d : Desc} {rest : List Desc}

theorem descStart_idle (hh : ∀ x ∈ m.heldDesc, x.1 ≠ e.1) (h : m.engReady e = false ∨ (m.eng.get e).run.isSome = true ∨ (m.eng.get e).queue = []) :
    descStart e m = m := by
  unfold descStart
  dsimp only
  rw [pumpHeld_none hh]
  by_cases hc : (!m.engReady e || (m.eng.get e).run.isSome) = true
  · rw [if_pos hc]
  · rw [if_neg hc]
    simp only [Bool.or_eq_true, Bool.not_eq_true', not_or, Bool.not_eq_false] at hc
    rw [(h.resolve_left (by simp [hc.1])).resolve_left (by simpa using hc.2)]

/-- The state in which the descriptor in front has left the queue. -/
def unqueued (e : Fin 72) (m : Mach) : Mach := ((m.pumpHeld e).onEng e fun y => { y with queue := y.queue.tail }).pumpHeld e

/-- The run of a descriptor at its first layer. -/
def firstRun (d : Desc) (i : Image × RoleRec) : Run :=
  { desc := { d with bytes := if d.loadIn then 2048 else 0, input := [] }, layer := d.lFirst, waitTle := false,
    streams := (i.1.streamsOf i.2).map fun s => { sid := s.sid, fetched := 0, used := 0 } }

theorem descStart_eq (hq : (m.eng.get e).queue = d :: rest) (hr : m.engReady e = true) (hrun : (m.eng.get e).run = none) :
    descStart e m = match decide ((m.unqueued e).engOf d.fn d.epoch d.role = some e), (m.unqueued e).descImage d with
      | true, some i =>
        let inA := match i.1.layers[d.lFirst]? with | some l => l.inA | none => 0
        let m2 := if d.loadIn then (m.unqueued e).sramPut e inA ((m.unqueued e).dramGet d.inAddr 2048) else (m.unqueued e).sramPut e inA d.input
        (m2.onEng e fun y => { y with run := some (firstRun d i) }).advance e 257
      | _, _ => (m.unqueued e).descStale e d := by
  obtain ⟨hprun, -, -, -, l, hpq⟩ := pumpHeld_kept m e
  have hq' : ((m.pumpHeld e).eng.get e).queue = d :: (rest ++ l) := by rw [hpq, hq]; rfl
  have hu : ((m.pumpHeld e).onEng e fun y => { y with queue := rest ++ l }).pumpHeld e = m.unqueued e := by
    unfold unqueued
    refine congrArg (pumpHeld e) ?_
    unfold onEng
    have hv : vmod (m.pumpHeld e).eng e (fun y => { y with queue := rest ++ l }) = vmod (m.pumpHeld e).eng e fun y => { y with queue := y.queue.tail } := by
      unfold vmod
      dsimp only
      rw [hq', List.tail_cons]
    rw [hv]
  unfold descStart
  dsimp only
  rw [pumpHeld_engReady, hr, hprun, hrun, hq']
  rw [if_neg (by decide)]
  dsimp only
  rw [hu]
  rcases decide ((m.unqueued e).engOf d.fn d.epoch d.role = some e) with _ | _ <;> rcases (m.unqueued e).descImage d with _ | ⟨im, rec⟩ <;> rfl

theorem unqueued_within : Within [.eng, .heldDesc] m (m.unqueued e) :=
  (pumpHeld_within e _).after ((onEng_within).after (pumpHeld_within e m).mono)

theorem unqueued_kept (hrun : (m.eng.get e).run = none) :
    ((m.unqueued e).eng.get e).run = none ∧ ((m.unqueued e).eng.get e).sram = (m.eng.get e).sram ∧
    ∀ e', e' ≠ e → (m.unqueued e).eng.get e' = m.eng.get e' := by
  obtain ⟨h1, h2, -⟩ := pumpHeld_kept m e
  unfold unqueued
  obtain ⟨h3, h4, -⟩ := pumpHeld_kept ((m.pumpHeld e).onEng e fun y => { y with queue := y.queue.tail }) e
  rw [h3, h4, onEng_get_self]
  exact ⟨h1.trans hrun, h2, fun e' h => (pumpHeld_eng_ne h).trans ((onEng_get_ne _ _ _ h).trans (pumpHeld_eng_ne h))⟩

theorem engOf_congr {a b : Mach} (h : b.fn = a.fn) (ht : b.tick = a.tick) (f : Fin 8) (k r : Nat) : b.engOf f k r = a.engOf f k r := by
  unfold engOf mapOfEpoch
  rw [h, ht]

theorem descImage_congr {a b : Mach} (h : b.images = a.images) (d : Desc) : b.descImage d = a.descImage d := by
  unfold descImage
  rw [h]

theorem unqueued_engOf (f : Fin 8) (k r : Nat) : (m.unqueued e).engOf f k r = m.engOf f k r := engOf_congr (unqueued_within.keeps .fn) (unqueued_within.keeps .tick) f k r

theorem unqueued_descImage : (m.unqueued e).descImage d = m.descImage d := descImage_congr (unqueued_within.keeps .images) d

theorem descStart_stale (hq : (m.eng.get e).queue = d :: rest) (hr : m.engReady e = true) (hrun : (m.eng.get e).run = none)
    (h : m.engOf d.fn d.epoch d.role ≠ some e ∨ m.descImage d = none) : descStart e m = (m.unqueued e).descStale e d := by
  rw [descStart_eq hq hr hrun, unqueued_engOf, unqueued_descImage]
  rcases h with h | h
  · rw [decide_eq_false h]
  · rw [h]
    split
    · case h_1 heq => exact absurd heq (by simp)
    · rfl

/-- No layer ahead is thin: the run stands at its layer. -/
theorem advance_plain {r : Run} {i : Image × RoleRec} (n : Nat) (hrun : (m.eng.get e).run = some r) (hi : m.descImage r.desc = some i)
    (h : ((i.1.layers.drop r.layer).take (r.desc.lLast + 1 - r.layer)).any isThin = false) : m.advance e n = m := by
  cases n with
  | zero => rfl
  | succ n =>
    unfold advance
    rw [hrun]
    dsimp only
    rw [hi]
    dsimp only
    rw [if_pos (by simp [h])]

theorem descStart_starts {i : Image × RoleRec} {l : LayerRec} (hq : (m.eng.get e).queue = d :: rest) (hr : m.engReady e = true)
    (hrun : (m.eng.get e).run = none) (hi : m.descImage d = some i) (hl : i.1.layers[d.lFirst]? = some l)
    (ho : m.engOf d.fn d.epoch d.role = some e) (hin : d.loadIn = true) (htop : l.inA + 2048 ≤ localTop)
    (hthin : ((i.1.layers.drop d.lFirst).take (d.lLast + 1 - d.lFirst)).any isThin = false) :
    descStart e m = (m.unqueued e).loadedRun e (m.dramGet d.inAddr 2048) l.inA (firstRun d i) := by
  have hd : (m.unqueued e).dramGet d.inAddr 2048 = m.dramGet d.inAddr 2048 := by unfold dramGet; rw [unqueued_within.keeps .dram]
  have hlen : (m.dramGet d.inAddr 2048).length = 2048 := dramGet_length _ _ _
  rw [descStart_eq hq hr hrun, unqueued_engOf, unqueued_descImage, hi, decide_eq_true ho]
  dsimp only
  rw [hl, if_pos hin, hd]
  dsimp only
  rw [sramPut_sram _ _ (by rw [hlen]; exact htop)]
  have hrun1 : ((((m.unqueued e).onEng e fun x => { x with sram := Mem.writes (m.dramGet d.inAddr 2048) l.inA x.sram }).onEng e fun y =>
      { y with run := some (firstRun d i) }).eng.get e).run = some (firstRun d i) := by rw [onEng_get_self]
  rw [advance_plain 257 hrun1 (i := i) (unqueued_descImage.trans hi) hthin]
  unfold loadedRun onEng
  rw [vmod_vmod]

end

/-! ## A descriptor ends (R134, R135) -/

section
variable {m : Mach} {e : Fin 72} {r : Run} {i : Image × RoleRec} {l : LayerRec}

theorem runRest_done (n : Nat) (hrun : (m.eng.get e).run = some r) (h : r.desc.lLast < r.layer) : m.runRest e n = m := by
  cases n with
  | zero => rfl
  | succ n =>
    unfold runRest
    rw [hrun]
    dsimp only
    rw [if_neg (by omega)]

/-- The engine, free again, with its descriptor counted. -/
def descCounted (e : Fin 72) (d : Desc) (m : Mach) : Mach :=
  (((m.closeWork e d).2.onEng e fun y => { y with run := none }).inc (R.ENG_DESC_DONE e))

/-- The account of a descriptor that has ended. -/
def descCredit (d : Desc) (t : Mach) : Mach := (t.debitNj .class_ (d.used - d.est)).spend d.tn (d.used - d.est)

/-- An ended descriptor's account is of the ledger and the tick alone. -/
theorem descCredit_within (d : Desc) (t : Mach) : Within [.tick, .led] t (descCredit d t) :=
  (spend_within _ _ _).after (debitNj_within _ _ _).mono

/-- The descriptor of a run with the result's bytes in its account. -/
def resultDesc (r : Run) : Desc := { r.desc with bytes := r.desc.bytes + 32 }

/-- A result, in DRAM and at its curd. -/
def resultPut (out : Nat) (b : List Byte) (p : Fin 16) (n ix : Nat) (sc : List Int × Bool × Bool) (d : Desc) (m : Mach) : Mach :=
  descCredit d ((m.dramPut out b).onCurd p n ix fun c => { c with score := some sc })

theorem descComplete_result (hrun : (m.eng.get e).run = some r) (hi : m.descImage r.desc = some i) (hl : i.1.layers[r.desc.lLast]? = some l)
    (ht : r.waitTle = false) (hr : m.engReady e = true) (hlast : r.desc.lLast < r.layer) (hres : r.desc.result = true) :
    descComplete e m = (m.descCounted e (resultDesc r)).resultPut r.desc.outAddr
      (resultBytes (m.closeWork e (resultDesc r)).1 (scoresAt ((m.descCounted e (resultDesc r)).eng.get e).sram l.inA) e)
      (Fin.ofNat 16 r.desc.port) r.desc.tn r.desc.index
      (scoresAt ((m.descCounted e (resultDesc r)).eng.get e).sram l.inA, r.desc.edge, r.desc.replayed) (m.closeWork e (resultDesc r)).1 := by
  unfold descComplete
  rw [hrun]
  dsimp only
  rw [if_neg (by simp [ht, hr]), runRest_done 257 hrun hlast, hrun, hi]
  dsimp only
  rw [hl, if_pos hres]
  dsimp only
  rw [if_pos (by exact hres)]
  rfl

theorem resultBytes_length (d : Desc) {sc : List Int} (h : sc.length = 16) (n : Nat) : (resultBytes d sc n).length = 32 := by
  unfold resultBytes
  simp [bytesOf, h]

theorem scoresAt_length (mem : Mem) (a : Nat) : (scoresAt mem a).length = 16 := by unfold scoresAt; simp

theorem resultBytes_congr {a b : Desc} (h : a.tn = b.tn ∧ a.port = b.port ∧ a.index = b.index ∧ a.sat = b.sat ∧ a.replayed = b.replayed ∧
    a.edge = b.edge ∧ a.epoch = b.epoch ∧ a.image = b.image) (sc : List Int) (n : Nat) : resultBytes a sc n = resultBytes b sc n := by
  obtain ⟨h1, h2, h3, h4, h5, h6, h7, h8⟩ := h
  unfold resultBytes
  rw [h1, h2, h3, h4, h5, h6, h7, h8]

theorem dramPut_dram (a : Nat) (b : List Byte) (m : Mach) : (m.dramPut a b).dram = Mem.writes b a m.dram := rfl

section
variable (out : Nat) (b : List Byte) (p : Fin 16) (n ix : Nat) (sc : List Int × Bool × Bool) (d : Desc) (m : Mach)

theorem resultPut_within : Within [.dram, .cache, .ueLines, .fe, .tick, .led] m (m.resultPut out b p n ix sc d) :=
  (descCredit_within d _).after ((onCurd_within _ _ _ _ _).after (dramPut_within out b m).mono)

theorem resultPut_dram : (m.resultPut out b p n ix sc d).dram = Mem.writes b out m.dram := by
  unfold resultPut
  rw [(descCredit_within d _).keeps .dram, (onCurd_within _ _ _ _ _).keeps .dram, dramPut_dram]

theorem resultPut_score {c : Curd} (hc : c ∈ ((m.resultPut out b p n ix sc d).fe.get p).curds) (hn : c.tn = n) (hi : c.index = ix) : c.score = some sc := by
  unfold resultPut at hc
  rw [(descCredit_within d _).keeps .fe] at hc
  unfold onCurd at hc
  rw [onFe_get_self] at hc
  obtain ⟨c0, -, rfl⟩ := List.mem_map.1 hc
  by_cases h0 : c0.tn = n ∧ c0.index = ix
  · rw [if_pos h0]
  · rw [if_neg h0] at hn hi
    exact absurd ⟨hn, hi⟩ h0

end

theorem descCounted_eng (d : Desc) : ((m.descCounted e d).eng.get e) = { m.eng.get e with run := none } := by
  unfold descCounted
  rw [inc_eng, onEng_get_self, (closeWork_within e d m).keeps .eng]


theorem descCounted_within (d : Desc) : Within [.led, .eng, .regs] m (m.descCounted e d) :=
  (inc_within _ _).after ((onEng_within).after (closeWork_within e d m).mono)

theorem descCounted_regs (d : Desc) : RegsBut [(R.ENG_DESC_DONE e).a] m (m.descCounted e d) := fun off ho => by
  have hr : ((m.closeWork e d).2.onEng e fun y => { y with run := none }).regs = m.regs := (onEng_regs _ _ _).trans ((closeWork_within e d m).keeps .regs)
  refine (RegsBut.inc ((m.closeWork e d).2.onEng e fun y => { y with run := none }) (R.ENG_DESC_DONE e) off ho).trans ?_
  unfold rd
  rw [hr]

theorem descCounted_done (d : Desc) : (m.descCounted e d).g (R.ENG_DESC_DONE e) = (m.g (R.ENG_DESC_DONE e) + 1) % 2 ^ 32 := by
  unfold descCounted
  rw [g_inc_word _ _ rfl rfl, onEng_g, g_of_regs ((closeWork_within e d m).keeps .regs)]

end

/-! ## An engine's reset (R137) -/

section
variable {m : Mach} {e : Fin 72}

theorem abandonDesc_eng (d : Desc) : (m.abandonDesc e d).eng = m.eng := (abandonDesc_within e d m).keeps .eng

/-- The descriptors of a queue that end, each with its account. -/
def queueEnded (one : Desc → Mach → Mach) (e : Fin 72) (which : Desc → Bool) (m : Mach) : Mach :=
  forEach ((m.eng.get e).queue.filter which) one (m.onEng e fun y => { y with queue := y.queue.filter fun d => !which d })

/-- The thin layers of a run, gone from the queues and dropped where they run. -/
def layersDropped (mine : TleReq → Bool) (m : Mach) : Mach :=
  { m with tleq := m.tleq.map fun q => q.filter fun r => !mine r,
           tle := m.tle.map fun q => q.map fun r => if mine r then { r with dropped := true } else r }

/-- The running descriptor that ends, with its layers at the thin-layer engines. -/
def runEnded (one : Desc → Mach → Mach) (e : Fin 72) (r : Run) (m : Mach) : Mach :=
  one (m.closeWork e r.desc).1 (layersDropped (fun q => q.eng == e.1) ((m.closeWork e r.desc).2.onEng e fun y => { y with run := none }))

theorem endQueued_eq (one : Desc → Mach → Mach) (which : Desc → Bool) : m.endQueued one e which =
    match (m.eng.get e).run with
    | some r => if which r.desc then runEnded one e r (queueEnded one e which m) else queueEnded one e which m
    | none => queueEnded one e which m := by
  unfold endQueued
  dsimp only
  cases (m.eng.get e).run <;> rfl

theorem queueEnded_eng : (queueEnded (abandonDesc e) e (fun _ => true) m).eng = (m.onEng e fun y => { y with queue := [] }).eng := by
  have h : (queueEnded (abandonDesc e) e (fun _ => true) m).eng = (m.onEng e fun y => { y with queue := y.queue.filter fun _ => !true }).eng :=
    (Within.loop (fun d t => abandonDesc_within e d t) (Within.refl _ _)).keeps .eng
  rw [h]
  simp

theorem runEnded_eng (r : Run) : (runEnded (abandonDesc e) e r m).eng = (m.onEng e fun y => { y with run := none }).eng := by
  unfold runEnded
  rw [abandonDesc_eng, show ∀ t : Mach, (layersDropped (fun q => q.eng == e.1) t).eng = t.eng from fun _ => rfl, onEng_eng, onEng_eng,
    show (m.closeWork e r.desc).2.eng = m.eng from (closeWork_within e r.desc m).keeps .eng]

/-- Every descriptor of the engine is gone, the other engines as they were. -/
theorem abandonQueued_all : ((m.abandonQueued e fun _ => true).eng.get e).queue = [] ∧ ((m.abandonQueued e fun _ => true).eng.get e).run = none ∧
    ∀ e', e' ≠ e → (m.abandonQueued e fun _ => true).eng.get e' = m.eng.get e' := by
  unfold abandonQueued
  rw [endQueued_eq]
  cases hr : (m.eng.get e).run with
  | none =>
    dsimp only
    rw [queueEnded_eng, onEng_get_self]
    exact ⟨rfl, hr, fun e' h => onEng_get_ne _ _ _ h⟩
  | some r =>
    dsimp only
    rw [if_pos rfl, runEnded_eng, onEng_get_self, queueEnded_eng, onEng_get_self]
    exact ⟨rfl, rfl, fun e' h => by rw [onEng_get_ne _ _ _ h, queueEnded_eng, onEng_get_ne _ _ _ h]⟩

theorem engReset_eq (h : (m.eng.get e).inReset = false) : m.engReset e =
    ((m.abandonQueued e fun _ => true).onEng e fun x => { x with inReset := true, sram := [], arrivals := [] }).onPopsOf e fun p =>
      { p with restart := true } := if_neg (by simp [h])

theorem engResetDone_eq (h : (m.eng.get e).inReset = true) : engResetDone e m = (m.onEng e fun x => { x with inReset := false }).pumpHeld e := if_pos h

end
end Mach

section
variable (s : State) (e : Fin 72)

/-- A stale descriptor is dropped and counted. -/
theorem descriptorStart_stale {d : Desc} {rest : List Desc} (hq : (s.eng.get e).queue = d :: rest) (hr : s.engReady e = true)
    (hrun : (s.eng.get e).run = none) (h : s.engOf d.fn d.epoch d.role ≠ some e ∨ s.descImage d = none) :
    Does (.descriptorStart e) s fun t =>
      t.g (R.ENG_DESC_STALE e) = (s.g (R.ENG_DESC_STALE e) + 1) % 2 ^ 32 ∧ t.g (R.ENG_ERR_STALE e) = 1 ∧
      (t.eng.get e).run = none ∧ (t.eng.get e).sram = (s.eng.get e).sram ∧ OnlyIn [.regs, .tick, .fe, .eng, .heldDesc, .led] s.toMach t := by
  obtain ⟨hurun, husram, hune⟩ := Mach.unqueued_kept (m := s.toMach) hrun
  have huw := Mach.unqueued_within (m := s.toMach) (e := e)
  have hx := Mach.descStart_stale hq hr hrun h
  have hwithin := (Mach.descStale_within e d (s.unqueued e)).after (l := [.regs, .tick, .fe, .eng, .heldDesc, .led]) huw.mono
  have heng := (Mach.descStale_within e d (s.unqueued e)).keeps .eng
  have hreg : ∀ f, ((s.unqueued e).descStale e d).g f = (((s.unqueued e).inc (R.ENG_DESC_STALE e)).set1 (R.ENG_ERR_STALE e)).g f := fun f =>
    Mach.g_of_regs ((Mach.classLost_within d _).keeps .regs) f
  refine does_of_act (f := Mach.descStart e) rfl hx ?_
  rw [hreg, hreg, heng, Mach.g_set1_ne _ _ _ (by simp only [R.ENG_DESC_STALE, R.ENG_ERR_STALE]; omega), Mach.g_inc_word _ _ rfl rfl,
    Mach.g_of_regs (huw.keeps .regs)]
  exact ⟨rfl, Mach.g_set1 _ _ (by simp only [R.ENG_ERR_STALE]) (by simp only [R.ENG_ERR_STALE]; omega), hurun, husram, hwithin.parts⟩

/-- A live descriptor without thin layers starts at its first layer, on its patch. -/
theorem descriptorStart_starts {d : Desc} {rest : List Desc} {i : Image × RoleRec} {l : LayerRec} (a : Nat) (hq : (s.eng.get e).queue = d :: rest)
    (hr : s.engReady e = true) (hrun : (s.eng.get e).run = none) (hi : s.descImage d = some i) (hl : i.1.layers[d.lFirst]? = some l)
    (ho : s.engOf d.fn d.epoch d.role = some e) (hin : d.loadIn = true) (htop : l.inA + 2048 ≤ localTop)
    (hthin : ((i.1.layers.drop d.lFirst).take (d.lLast + 1 - d.lFirst)).any Mach.isThin = false) :
    Does (.descriptorStart e) s fun t =>
      (∃ r ∈ (t.eng.get e).run, r.layer = d.lFirst ∧ r.waitTle = false ∧ r.desc.outAddr = d.outAddr ∧ r.desc.tn = d.tn) ∧
      t.sramGet e l.inA 2048 = s.dramGet d.inAddr 2048 ∧
      (a < l.inA ∨ l.inA + 2048 ≤ a → Mem.read (t.eng.get e).sram a = Mem.read (s.eng.get e).sram a) ∧
      (∀ e', e' ≠ e → t.eng.get e' = s.eng.get e') ∧ OnlyIn [.eng, .heldDesc] s.toMach t := by
  obtain ⟨hurun, husram, hune⟩ := Mach.unqueued_kept (m := s.toMach) hrun
  have huw := Mach.unqueued_within (m := s.toMach) (e := e)
  have hx := Mach.descStart_starts hq hr hrun hi hl ho hin htop hthin
  have hlen : (s.dramGet d.inAddr 2048).length = 2048 := Mach.dramGet_length _ _ _
  refine does_of_act (f := Mach.descStart e) rfl hx ⟨⟨Mach.firstRun d i, Mach.loadedRun_run _ _ _ _ _, rfl, rfl, rfl, rfl⟩,
    Mach.loadedRun_sramGet _ _ _ _ _ hlen, fun ha => (Mach.loadedRun_sram_outside _ _ _ _ _ hlen ha).trans (by rw [husram]),
    fun e' h => (Mach.loadedRun_get_ne _ _ _ _ _ h).trans (hune e' h), (huw.parts.append (Mach.loadedRun_onlyIn _ _ _ _ _)).mono (by decide)⟩

/-- The end of a descriptor with a result writes it to DRAM and to its curd. -/
theorem descriptorComplete_writes {r : Run} {i : Image × RoleRec} {l : LayerRec} (a : Nat) (hrun : (s.eng.get e).run = some r)
    (hi : s.descImage r.desc = some i) (hl : i.1.layers[r.desc.lLast]? = some l) (ht : r.waitTle = false) (hr : s.engReady e = true)
    (hlast : r.desc.lLast < r.layer) (hres : r.desc.result = true) :
    let x := s.eng.get e
    Does (.descriptorComplete e) s fun t =>
      t.g (R.ENG_DESC_DONE e) = (s.g (R.ENG_DESC_DONE e) + 1) % 2 ^ 32 ∧ (t.eng.get e).run = none ∧
      t.dramGet r.desc.outAddr 32 = resultBytes r.desc (scoresAt x.sram l.inA) e ∧
      (a < r.desc.outAddr ∨ r.desc.outAddr + 32 ≤ a → Mem.read t.dram a = Mem.read s.dram a) ∧
      (∀ c ∈ (t.fe.get (Fin.ofNat 16 r.desc.port)).curds, c.tn = r.desc.tn → c.index = r.desc.index →
        c.score = some (scoresAt x.sram l.inA, r.desc.edge, r.desc.replayed)) ∧
      RegsBut [(R.ENG_DESC_DONE e).a] s.toMach t ∧ OnlyIn [.regs, .tick, .fe, .eng, .led, .dram, .cache, .ueLines] s.toMach t := by
  intro x
  have hx := Mach.descComplete_result hrun hi hl ht hr hlast hres
  have heng : (s.descCounted e (Mach.resultDesc r)).eng.get e = { x with run := none } := Mach.descCounted_eng _
  have hbytes : ∀ sc, resultBytes (s.closeWork e (Mach.resultDesc r)).1 sc e = resultBytes r.desc sc e := fun sc =>
    Mach.resultBytes_congr ⟨rfl, rfl, rfl, rfl, rfl, rfl, rfl, rfl⟩ _ _
  have hlen : (resultBytes r.desc (scoresAt x.sram l.inA) e).length = 32 := Mach.resultBytes_length _ (Mach.scoresAt_length _ _) _
  rw [hbytes, heng] at hx
  have hw := Mach.descCounted_within (m := s.toMach) (e := e) (Mach.resultDesc r)
  have hp := Mach.resultPut_within r.desc.outAddr (resultBytes r.desc (scoresAt x.sram l.inA) e) (Fin.ofNat 16 r.desc.port) r.desc.tn r.desc.index
    (scoresAt x.sram l.inA, r.desc.edge, r.desc.replayed) (s.closeWork e (Mach.resultDesc r)).1 (s.descCounted e (Mach.resultDesc r))
  have hregs := hp.keeps .regs
  refine does_of_act (f := Mach.descComplete e) rfl hx ⟨?_, ?_, ?_, fun ha => ?_, fun c hc => Mach.resultPut_score _ _ _ _ _ _ _ _ hc, ?_, ?_⟩
  · rw [Mach.g_of_regs hregs, Mach.descCounted_done]
  · rw [hp.keeps .eng, heng]
  · unfold Mach.dramGet
    rw [Mach.resultPut_dram]
    exact Mem.reads_writes_of_length hlen _ _
  · rw [Mach.resultPut_dram, Mem.read_writes_outside _ (by rw [hlen]; exact ha), hw.keeps .dram]
  · exact Mach.RegsBut.of_regs (Mach.descCounted_regs _) hregs
  · exact (hw.parts.append hp.parts).mono (by decide)

theorem engSrst_empties (hg : s.engGood e = true) (hs : s.sleep.state ≤ 1) (hr : (s.eng.get e).inReset = false) :
    Does (.engSrst e) s fun t =>
      (t.eng.get e).inReset = true ∧ (t.eng.get e).sram = [] ∧ (t.eng.get e).arrivals = [] ∧ (t.eng.get e).queue = [] ∧
      (t.eng.get e).run = none ∧ (∀ e', e' ≠ e → t.eng.get e' = s.eng.get e') ∧
      OnlyIn [.regs, .tick, .fe, .eng, .tleq, .tle, .pops, .led] s.toMach t := by
  have hx : Mach.engSrst e s.toMach = _ := (if_pos (by simp [hg, hs])).trans (Mach.engReset_eq hr)
  obtain ⟨hq, hrun, hne⟩ := Mach.abandonQueued_all (m := s.toMach) (e := e)
  have hwithin := (Mach.engSrst_within e s.toMach).parts
  rw [hx] at hwithin
  refine does_of_act (f := Mach.engSrst e) rfl hx ?_
  unfold Mach.onPopsOf at hwithin ⊢
  dsimp only at hwithin ⊢
  rw [Mach.onEng_get_self]
  exact ⟨rfl, rfl, rfl, hq, hrun, fun e' h => (Mach.onEng_get_ne _ _ _ h).trans (hne e' h), hwithin⟩

theorem engResetDone_fills (hr : (s.eng.get e).inReset = true) :
    let x := s.eng.get e
    Does (.engResetDone e) s fun t =>
      (t.eng.get e).inReset = false ∧
      (t.eng.get e).queue = x.queue ++ ((s.heldDesc.filter fun h => h.1 == e.1).take (64 - x.queue.length)).map Prod.snd ∧
      (t.eng.get e).sram = x.sram ∧ (∀ e', e' ≠ e → t.eng.get e' = s.eng.get e') ∧ OnlyIn [.eng, .heldDesc] s.toMach t := by
  intro x
  have hx := Mach.engResetDone_eq hr
  have hwithin := (Mach.engResetDone_within e s.toMach).parts
  rw [hx] at hwithin
  refine does_of_act (f := Mach.engResetDone e) rfl hx ?_
  have h0 : ((s.onEng e fun x => { x with inReset := false }).eng.get e) = { x with inReset := false } := Mach.onEng_get_self _ _ _
  rw [Mach.pumpHeld_eng (by rw [h0]), h0]
  exact ⟨rfl, rfl, rfl, fun e' h => (Mach.pumpHeld_eng_ne h).trans (Mach.onEng_get_ne _ _ _ h), hwithin⟩

end

/-- Settles O23: the descriptor in front starts with its patch or is dropped as stale, a result is written where the descriptor says, and a
reset leaves the engine empty. -/
theorem descriptorLifecycle : Obligations.DescriptorLifecycle := by
  intro s e a x
  refine ⟨fun hh h => idles_of_act (f := Mach.descStart e) rfl (Mach.descStart_idle hh h), fun d hd hr hrun => ?_,
    fun r hrun i hi l hl ht hr hlast hres => descriptorComplete_writes s e a hrun hi hl ht hr hlast hres,
    fun h => idles_of_act (f := Mach.engSrst e) rfl (if_neg ?_), fun hg hs hr => engSrst_empties s e hg hs hr, fun hr => engResetDone_fills s e hr⟩
  · obtain ⟨rest, hq⟩ := List.head?_eq_some_iff.1 hd
    exact ⟨fun h => descriptorStart_stale s e hq hr hrun h,
      fun i hi l hl ho hin htop hthin => descriptorStart_starts s e a hq hr hrun hi hl ho hin htop hthin⟩
  · rcases h with h | h
    · simp [h]
    · simp only [Bool.and_eq_true, decide_eq_true_eq, not_and]
      intro _
      exact not_le.mpr h

end Sys2Proof.Machine

namespace Sys2Proof.Machine

set_option Elab.async false

namespace Mach

/-! ## Commands to the store (R453 to R460) -/

section
variable {m : Mach}

theorem onNvs_onlyIn (m : Mach) (f : Store → Store) : OnlyIn [.nvs] m (m.onNvs f) := fun p hp => by cases p <;> simp_all [Part.same]

theorem RegsBut.of_onNvs (m : Mach) (f : Store → Store) {l : List Nat} {a : Mach} (h : RegsBut l a m) : RegsBut l a (m.onNvs f) := RegsBut.of_regs h (onNvs_regs _ _)

/-- A command on its way to the store. -/
theorem nvmeIssue_spec (op : NvmeOp) (m : Mach) :
    (m.nvmeIssue op).nvs = { m.nvs with op := some op, tries := 0, retryWait := false, opAt := m.elapsed } ∧
    (m.nvmeIssue op).out = .nvme op (m.nvmeData op) :: m.out ∧ (m.nvmeIssue op).regs = m.regs ∧ OnlyIn [.nvs, .out] m (m.nvmeIssue op) :=
  ⟨rfl, rfl, rfl, ((onNvs_onlyIn _ _).append (OnlyIn.emit _ _)).mono (by decide)⟩

theorem nvmeData_congr {a b : Mach} (hj : b.jnl = a.jnl) (ht : b.time = a.time) (op : NvmeOp) : b.nvmeData op = a.nvmeData op := by
  unfold nvmeData snapshotData
  rw [hj, ht]

theorem nvmeIssue_data (op : NvmeOp) (m : Mach) : (m.nvmeIssue op).nvmeData op = m.nvmeData op := nvmeData_congr rfl rfl op

theorem storeInit_on (h : m.on R.NVS_CTRL_EN = true) : storeInit m =
    (m.onNvs fun n => { n with state := 1, why := 0, lbaFirst := m.g64 R.NVS_LBA_FIRST_LO_A R.NVS_LBA_FIRST_HI_A,
                               lbaCount := m.g64 R.NVS_LBA_COUNT_LO_A R.NVS_LBA_COUNT_HI_A, nsid := m.g R.NVS_NSID }).nvmeIssue (.bringUp 1) := if_pos h

theorem storeInit_off (h : m.on R.NVS_CTRL_EN = false) :
    storeInit m = m.onNvs fun n => { n with state := 0, why := 0, op := none, retryWait := false } := if_neg (by simp [h])

theorem storeInit_state (m : Mach) : (storeInit m).nvs.state = (m.on R.NVS_CTRL_EN).toNat := by
  cases h : m.on R.NVS_CTRL_EN with
  | true => rw [storeInit_on h]; rfl
  | false => rw [storeInit_off h]; rfl

/-- A fault stops the command and counts. -/
theorem storeFault_spec (why : Nat) (m : Mach) :
    let t := m.storeFault why
    (t.nvs.state = 3 ∧ t.nvs.why = why ∧ t.nvs.op = none ∧ t.nvs.log = m.nvs.log) ∧ t.g R.NVS_FAULTS = (m.g R.NVS_FAULTS + 1) % 2 ^ 32 ∧
    OnlyIn [.regs, .nvs] m t := by
  unfold storeFault
  dsimp only
  rw [inc_nvs, onNvs_nvs, g_inc_word _ _ rfl rfl, onNvs_g]
  exact ⟨⟨rfl, rfl, rfl, rfl⟩, rfl, ((onNvs_onlyIn _ _).append (OnlyIn.inc _ _)).mono (by decide)⟩

theorem nvmeFailed_waits (h : m.nvs.tries < 3) : m.nvmeFailed = m.onNvs fun n => { n with retryWait := true, opAt := m.elapsed } := if_pos h

theorem nvmeFailed_faults (h : 3 ≤ m.nvs.tries) : m.nvmeFailed = (m.storeFault 5).health H.storeFault .store [] := if_neg (by omega)

section
variable {op : NvmeOp} (hw : m.nvs.retryWait = false) (hop : m.nvs.op = some op)
include hw hop

/-- An error outside the first two steps of the bring-up. -/
theorem nvmeDone_error (h : ∀ k ∈ [1, 2], op ≠ .bringUp k) : nvmeDone .error m = m.nvmeFailed := by
  unfold nvmeDone
  rw [if_neg (by simp [hw]), hop]
  match op with
  | .bringUp 1 => exact absurd rfl (h 1 (by simp))
  | .bringUp 2 => exact absurd rfl (h 2 (by simp))
  | .bringUp 0 | .bringUp 3 | .bringUp 4 | .bringUp 5 | .bringUp (_ + 6) => rfl
  | .groupWrite | .groupFlush | .sbWrite | .sbFlush | .readBack .. => rfl

theorem nvmeTimeout_other (h : ∀ k ∈ [1, 2], op ≠ .bringUp k) :
    nvmeTimeout m = (m.runToElapsed (m.nvs.opAt + atLeast1 (m.g R.NVS_TMO) * 1000000)).nvmeFailed := by
  unfold nvmeTimeout
  rw [if_neg (by simp [hw]), hop]
  split
  · case h_1 heq => exact absurd heq (by simp)
  · case h_2 heq => exact absurd (Option.some.inj heq) (h 1 (by simp))
  · case h_3 heq => exact absurd (Option.some.inj heq) (h 2 (by simp))
  · rfl

end

/-- The retry of a command, at its time. -/
def retried (op : NvmeOp) (m1 : Mach) : Mach :=
  ((m1.onNvs fun n => { n with tries := n.tries + 1, retryWait := false, opAt := m1.elapsed }).emit (.nvme op (m1.nvmeData op))).inc R.NVS_RETRIES

/-- A commit group's command is counted as a retry of the commit too. -/
theorem nvmeRetry_eq {op : NvmeOp} (hw : m.nvs.retryWait = true) (hop : m.nvs.op = some op) :
    let t := retried op (m.runToElapsed (m.nvs.opAt + retryDelay m.nvs.tries * 1000000))
    nvmeRetry m = t ∨ nvmeRetry m = t.inc R.JNL_COMMIT_RETRY := by
  unfold nvmeRetry
  rw [hop]
  dsimp only
  rw [if_neg (by simp [hw])]
  split
  · exact .inr rfl
  · exact .inr rfl
  · exact .inl rfl

theorem nvmeDone_idle (reply : NvmeReply) (h : m.nvs.retryWait = true ∨ m.nvs.op = none) : nvmeDone reply m = m := by
  unfold nvmeDone
  split
  · rfl
  · next hw => rw [h.resolve_left hw]

theorem nvmeTimeout_idle (h : m.nvs.retryWait = true ∨ m.nvs.op = none) : nvmeTimeout m = m := by
  unfold nvmeTimeout
  split
  · rfl
  · next hw => rw [h.resolve_left hw]

theorem nvmeRetry_idle (h : m.nvs.retryWait = false ∨ m.nvs.op = none) : nvmeRetry m = m := by
  unfold nvmeRetry
  split
  · next heq => exact if_pos (by simp [h.resolve_right (by simp [heq])])
  · rfl

theorem nvmeDone_bringUp (hw : m.nvs.retryWait = false) (hop : m.nvs.op = some (.bringUp 1)) : nvmeDone .ok m = m.nvmeIssue (.bringUp 2) := by
  unfold nvmeDone
  rw [if_neg (by simp [hw]), hop]
  rfl

/-- The first two steps of the bring-up fault at once. -/
theorem bringUp_fault {k : Nat} (hw : m.nvs.retryWait = false) (hop : m.nvs.op = some (.bringUp k)) (hk : k ∈ [1, 2]) :
    nvmeDone .error m = m.storeFault k ∧ nvmeTimeout m = m.storeFault k := by
  unfold nvmeDone nvmeTimeout
  rw [if_neg (by simp [hw]), if_neg (by simp [hw]), hop]
  rcases List.mem_pair.mp hk with rfl | rfl
  · exact ⟨rfl, rfl⟩
  · exact ⟨rfl, rfl⟩

/-- When the superblock is written (R456). -/
def superblockTime (m : Mach) : Mach := if 1024 ≤ m.nvs.sbGroups then m else m.runToElapsed (m.nvs.sbAt + 10000000000)

theorem superblockTime_spec (m : Mach) :
    m.superblockTime.nvs = m.nvs ∧ (m.nvs.sbGroups < 1024 → m.nvs.sbAt + 10000000000 ≤ m.superblockTime.elapsed) := by
  unfold superblockTime
  split
  · exact ⟨rfl, fun h => absurd h (by omega)⟩
  · exact ⟨(runToElapsed_clockOnly _ m).parts .nvs (by decide), fun _ => runToElapsed_reaches _ _⟩

end
end Mach

section
variable (s : State)

theorem toBits_natCast (w n : Nat) : toBits w (n : Int) = n % 2 ^ w := by
  unfold toBits
  norm_cast

theorem ofNat_mod_two_pow {w k n : Nat} (h : w ≤ k) : BitVec.ofNat w (n % 2 ^ k) = BitVec.ofNat w n :=
  BitVec.eq_of_toNat_eq (by simp [Nat.mod_mod_of_dvd _ (pow_dvd_pow 2 h)])

/-- A read that latches a value of two words answers its low word. -/
theorem latched_read {c : Instr} {f : Mach → Mach} {lo hi : Nat} (v : Int) (h : lo ≠ hi) (hx : exec c s = s.act f)
    (hf : f s.toMach = (s.put64 lo hi v).emit (.readValue lo ((s.put64 lo hi v).rd lo))) :
    Does c s fun t => t.g64 lo hi = toBits 64 v ∧ t.out = .readValue lo (BitVec.ofNat 32 (toBits 64 v)) :: s.out ∧
      RegsBut [lo, hi] s.toMach t ∧ OnlyIn [.regs, .out] s.toMach t := by
  refine does_of_act hx hf ⟨?_, ?_, fun off ho => ?_, ?_⟩
  · exact Mach.g64_put64 s.toMach v h
  · rw [Mach.rd_put64_lo _ _ h]
    rfl
  · simp only [List.mem_cons, List.not_mem_nil, or_false, not_or] at ho
    rw [Mach.emit_rd, Mach.rd_put64_ne _ _ ho.1 ho.2]
  · exact ((Mach.put64_within lo hi v s.toMach).parts.append (OnlyIn.emit _ _)).mono (by decide)

/-- A fault of the bring-up. -/
theorem bringUp_fails {c : Instr} {f : Mach → Mach} (k : Nat) (hx : exec c s = s.act f) (hf : f s.toMach = s.storeFault k) :
    Does c s fun t => (t.nvs.state = 3 ∧ t.nvs.why = k ∧ t.nvs.op = none ∧ t.nvs.log = s.nvs.log) ∧ OnlyIn [.regs, .nvs] s.toMach t := by
  obtain ⟨h1, -, h2⟩ := Mach.storeFault_spec k s.toMach
  exact does_of_act hx hf ⟨h1, h2⟩

/-- A command that is issued at once. -/
theorem issues_at_once {c : Instr} {f : Mach → Mach} (op : NvmeOp) (hx : exec c s = s.act f) (hf : f s.toMach = s.nvmeIssue op) :
    Does c s fun t => (t.nvs.op = some op ∧ t.nvs.tries = 0 ∧ t.nvs.retryWait = false ∧ t.out.head? = some (.nvme op (t.nvmeData op))) ∧
      OnlyIn [.nvs, .out] s.toMach t := by
  obtain ⟨h1, h2, -, h4⟩ := Mach.nvmeIssue_spec op s.toMach
  refine does_of_act hx hf ⟨?_, h4⟩
  rw [h1, h2, Mach.nvmeIssue_data]
  exact ⟨rfl, rfl, rfl, rfl⟩

theorem nvsReinit_on (h : s.on R.NVS_CTRL_EN = true) :
    Does .nvsReinit s fun t => t.nvs.state = 1 ∧
      (t.nvs.op = some (.bringUp 1) ∧ t.nvs.tries = 0 ∧ t.nvs.retryWait = false ∧ t.out.head? = some (.nvme (.bringUp 1) (t.nvmeData (.bringUp 1)))) ∧
      t.nvs.lbaFirst = s.g64 R.NVS_LBA_FIRST_LO_A R.NVS_LBA_FIRST_HI_A ∧ t.nvs.lbaCount = s.g64 R.NVS_LBA_COUNT_LO_A R.NVS_LBA_COUNT_HI_A ∧
      t.nvs.log = s.nvs.log ∧ OnlyIn [.nvs, .out] s.toMach t := by
  have hwithin := (Mach.storeInit_within s.toMach).parts
  have hx := Mach.storeInit_on (m := s.toMach) h
  rw [hx] at hwithin
  exact does_of_act (f := Mach.storeInit) rfl hx ⟨rfl, ⟨rfl, rfl, rfl, rfl⟩, rfl, rfl, rfl, hwithin⟩

theorem nvsReinitRetry_faulted (h : s.nvs.state = 3) :
    Does .nvsReinitRetry s fun t => s.nvs.opAt + 10000000000 ≤ t.elapsed ∧ t.nvs.state = (s.on R.NVS_CTRL_EN).toNat ∧
      OnlyIn [.regs, .time, .tick, .enc, .jnl, .nvs, .cache, .out] s.toMach t := by
  have hx : Mach.reinitRetry s.toMach = (s.runToElapsed (s.nvs.opAt + 10000000000)).storeInit := if_pos h
  have hwithin := (Mach.reinitRetry_within s.toMach).parts
  rw [hx] at hwithin
  refine does_of_act (f := Mach.reinitRetry) rfl hx ⟨?_, ?_, hwithin⟩
  · rw [Mach.elapsed_of_time ((Mach.storeInit_within _).keeps .time)]
    exact Mach.runToElapsed_reaches _ _
  · rw [Mach.storeInit_state, (Mach.runToElapsed_clockOnly _ s.toMach).on _ (by decide)]

theorem groupWrite_done (hw : s.nvs.retryWait = false) (hop : s.nvs.op = some .groupWrite) :
    Does (.nvmeCompletion .ok) s fun t =>
      (t.nvs.op = some .groupFlush ∧ t.nvs.tries = 0 ∧ t.nvs.retryWait = false ∧ t.out.head? = some (.nvme .groupFlush (t.nvmeData .groupFlush))) ∧
      t.g R.NVS_WRITES = (s.g R.NVS_WRITES + 1) % 2 ^ 32 ∧ RegsBut [R.NVS_WRITES.a] s.toMach t ∧ OnlyIn [.regs, .nvs, .out] s.toMach t := by
  have hx : Mach.nvmeDone .ok s.toMach = (s.inc R.NVS_WRITES).nvmeIssue .groupFlush := by
    unfold Mach.nvmeDone
    rw [if_neg (by simp [hw]), hop]
  obtain ⟨h1, h2, h3, h4⟩ := Mach.nvmeIssue_spec .groupFlush (s.inc R.NVS_WRITES)
  refine does_of_act (f := Mach.nvmeDone .ok) rfl hx ?_
  rw [h1, h2, Mach.nvmeIssue_data, Mach.g_of_regs h3, Mach.g_inc_word _ _ rfl rfl]
  exact ⟨⟨rfl, rfl, rfl, rfl⟩, rfl, Mach.RegsBut.of_regs (Mach.RegsBut.inc s.toMach _) h3, ((OnlyIn.inc _ _).append h4).mono (by decide)⟩

theorem groupFlush_done (hw : s.nvs.retryWait = false) (hop : s.nvs.op = some .groupFlush) :
    Does (.nvmeCompletion .ok) s fun t =>
      t.nvs.op = none ∧ t.nvs.flushed = true ∧ t.g R.NVS_FLUSHES = (s.g R.NVS_FLUSHES + 1) % 2 ^ 32 ∧ RegsBut [R.NVS_FLUSHES.a] s.toMach t ∧
      OnlyIn [.regs, .nvs] s.toMach t := by
  have hx : Mach.nvmeDone .ok s.toMach = (s.inc R.NVS_FLUSHES).onNvs fun n => { n with op := none, flushed := true } := by
    unfold Mach.nvmeDone
    rw [if_neg (by simp [hw]), hop]
  refine does_of_act (f := Mach.nvmeDone .ok) rfl hx ⟨rfl, rfl, ?_, Mach.RegsBut.of_onNvs _ _ (Mach.RegsBut.inc s.toMach _),
    ((OnlyIn.inc _ _).append (Mach.onNvs_onlyIn _ _)).mono (by decide)⟩
  rw [Mach.onNvs_g, Mach.g_inc_word _ _ rfl rfl]

variable {op : NvmeOp}

theorem command_waits (hw : s.nvs.retryWait = false) (hop : s.nvs.op = some op) (hk : ∀ k ∈ [1, 2], op ≠ .bringUp k) (ht : s.nvs.tries < 3) :
    let waits := fun (t : Mach) => t.nvs.op = some op ∧ t.nvs.retryWait = true ∧ t.nvs.tries = s.nvs.tries ∧ t.nvs.state = s.nvs.state
    Does (.nvmeCompletion .error) s (fun t => waits t ∧ OnlyIn [.nvs] s.toMach t) ∧
    Does .nvmeTimeout s (fun t => waits t ∧ s.nvs.opAt + atLeast1 (s.g R.NVS_TMO) * 1000000 ≤ t.elapsed ∧
      OnlyIn [.regs, .time, .tick, .enc, .jnl, .nvs, .cache] s.toMach t) := by
  refine ⟨does_of_act (f := Mach.nvmeDone .error) rfl ((Mach.nvmeDone_error hw hop hk).trans (Mach.nvmeFailed_waits ht))
    ⟨⟨hop, rfl, rfl, rfl⟩, Mach.onNvs_onlyIn _ _⟩, ?_⟩
  have hc := Mach.runToElapsed_clockOnly (s.nvs.opAt + atLeast1 (s.g R.NVS_TMO) * 1000000) s.toMach
  have hn := hc.parts .nvs (by decide)
  have hr := Mach.runToElapsed_reaches s.toMach (s.nvs.opAt + atLeast1 (s.g R.NVS_TMO) * 1000000)
  have hx := Mach.nvmeTimeout_other hw hop hk
  generalize s.runToElapsed (s.nvs.opAt + atLeast1 (s.g R.NVS_TMO) * 1000000) = m1 at hc hn hr hx
  have hn' : m1.nvs = s.nvs := hn
  refine does_of_act (f := Mach.nvmeTimeout) rfl (hx.trans (Mach.nvmeFailed_waits (by rw [hn']; exact ht))) ?_
  dsimp only
  rw [Mach.onNvs_nvs, hn']
  exact ⟨⟨hop, rfl, rfl, rfl⟩, hr, (hc.parts.append (Mach.onNvs_onlyIn _ _)).mono (by decide)⟩

theorem command_faults (hw : s.nvs.retryWait = false) (hop : s.nvs.op = some op) (hk : ∀ k ∈ [1, 2], op ≠ .bringUp k) (ht : 3 ≤ s.nvs.tries) :
    Does (.nvmeCompletion .error) s (fun t => (t.nvs.state = 3 ∧ t.nvs.why = 5 ∧ t.nvs.op = none ∧ t.nvs.log = s.nvs.log) ∧
      t.g R.NVS_FAULTS = (s.g R.NVS_FAULTS + 1) % 2 ^ 32 ∧ OnlyIn [.regs, .tick, .jnl, .nvs, .cache] s.toMach t) := by
  obtain ⟨h1, h2, h3⟩ := Mach.storeFault_spec 5 s.toMach
  have hh := Mach.health_within H.storeFault .store [] (s.storeFault 5)
  refine does_of_act (f := Mach.nvmeDone .error) rfl ((Mach.nvmeDone_error hw hop hk).trans (Mach.nvmeFailed_faults ht)) ?_
  rw [hh.keeps .nvs, (Mach.health_recOnly _ _ _ _).g _ (by decide)]
  exact ⟨h1, h2, (h3.append hh.parts).mono (by decide)⟩

theorem nvmeRetry_issues (hw : s.nvs.retryWait = true) (hop : s.nvs.op = some op) :
    Does .nvmeRetry s fun t =>
      s.nvs.opAt + (if s.nvs.tries = 0 then 1 else if s.nvs.tries = 1 then 10 else 100) * 1000000 ≤ t.elapsed ∧ t.nvs.op = some op ∧
      t.nvs.tries = s.nvs.tries + 1 ∧ t.nvs.retryWait = false ∧ t.out = .nvme op (t.nvmeData op) :: s.out ∧
      t.g R.NVS_RETRIES = (s.g R.NVS_RETRIES + 1) % 2 ^ 32 ∧ OnlyIn [.regs, .time, .tick, .enc, .jnl, .nvs, .cache, .out] s.toMach t := by
  have hd : Mach.retryDelay s.nvs.tries = if s.nvs.tries = 0 then 1 else if s.nvs.tries = 1 then 10 else 100 := by
    rcases s.nvs.tries with _ | _ | n
    · rfl
    · rfl
    · simp [Mach.retryDelay]
  have hwithin := (Mach.nvmeRetry_within s.toMach).parts
  have hx := Mach.nvmeRetry_eq (m := s.toMach) hw hop
  dsimp only at hx
  rw [hd] at hx
  have hc := Mach.runToElapsed_clockOnly (s.nvs.opAt + (if s.nvs.tries = 0 then 1 else if s.nvs.tries = 1 then 10 else 100) * 1000000) s.toMach
  have hr := Mach.runToElapsed_reaches s.toMach (s.nvs.opAt + (if s.nvs.tries = 0 then 1 else if s.nvs.tries = 1 then 10 else 100) * 1000000)
  generalize s.runToElapsed (s.nvs.opAt + (if s.nvs.tries = 0 then 1 else if s.nvs.tries = 1 then 10 else 100) * 1000000) = m1 at hc hr hx
  have hn : m1.nvs = s.nvs := hc.parts .nvs (by decide)
  have ho : m1.out = s.out := hc.parts .out (by decide)
  have hg : (Mach.retried op m1).g R.NVS_RETRIES = (s.g R.NVS_RETRIES + 1) % 2 ^ 32 := by
    unfold Mach.retried
    rw [Mach.g_inc_word _ _ rfl rfl, Mach.emit_g, Mach.onNvs_g, hc.g _ (by decide)]
  have hnv : (Mach.retried op m1).nvs = { s.nvs with tries := s.nvs.tries + 1, retryWait := false, opAt := m1.elapsed } := by
    unfold Mach.retried
    rw [Mach.inc_nvs, Mach.emit_nvs, Mach.onNvs_nvs, hn]
  have hout : (Mach.retried op m1).out = .nvme op (m1.nvmeData op) :: s.out := by
    unfold Mach.retried
    rw [Mach.inc_out, Mach.emit_out, Mach.onNvs_out, ho]
  have hdata : (Mach.retried op m1).nvmeData op = m1.nvmeData op := Mach.nvmeData_congr rfl rfl op
  rcases hx with hx | hx
  · rw [hx] at hwithin
    refine does_of_act (f := Mach.nvmeRetry) rfl hx ?_
    rw [hnv, hdata]
    exact ⟨hr, hop, rfl, rfl, hout, hg, hwithin⟩
  · rw [hx] at hwithin
    have hdata' : ((Mach.retried op m1).inc R.JNL_COMMIT_RETRY).nvmeData op = m1.nvmeData op := Mach.nvmeData_congr rfl rfl op
    have hg' : ((Mach.retried op m1).inc R.JNL_COMMIT_RETRY).g R.NVS_RETRIES = (s.g R.NVS_RETRIES + 1) % 2 ^ 32 :=
      (Mach.g_inc_ne (Mach.retried op m1) _ _ (by decide)).trans hg
    refine does_of_act (f := Mach.nvmeRetry) rfl hx ?_
    rw [Mach.inc_nvs, Mach.inc_out, hnv, hdata']
    exact ⟨hr, hop, rfl, rfl, hout, hg', hwithin⟩

theorem bringUp_faults (hw : s.nvs.retryWait = false) (hop : s.nvs.op = some op) (k : Nat) (hk : k ∈ [1, 2]) (h : op = .bringUp k) :
    Does (.nvmeCompletion .error) s (fun t => (t.nvs.state = 3 ∧ t.nvs.why = k ∧ t.nvs.op = none ∧ t.nvs.log = s.nvs.log) ∧ OnlyIn [.regs, .nvs] s.toMach t) ∧
    Does .nvmeTimeout s (fun t => (t.nvs.state = 3 ∧ t.nvs.why = k ∧ t.nvs.op = none ∧ t.nvs.log = s.nvs.log) ∧ OnlyIn [.regs, .nvs] s.toMach t) := by
  subst h
  obtain ⟨hd, ht⟩ := Mach.bringUp_fault hw hop hk
  exact ⟨bringUp_fails s k (f := Mach.nvmeDone .error) rfl hd, bringUp_fails s k (f := Mach.nvmeTimeout) rfl ht⟩

theorem superblockWrite_due (hs : s.nvs.state = 2 ∨ s.nvs.state = 4) (hop : s.nvs.op = none) :
    Does .superblockWrite s fun t =>
      (t.nvs.op = some .sbWrite ∧ t.nvs.tries = 0 ∧ t.nvs.retryWait = false ∧ t.out.head? = some (.nvme .sbWrite (t.nvmeData .sbWrite))) ∧
      (s.nvs.sbGroups < 1024 → s.nvs.sbAt + 10000000000 ≤ t.elapsed) ∧ t.nvs.log = s.nvs.log ∧
      OnlyIn [.regs, .time, .tick, .enc, .jnl, .nvs, .cache, .out] s.toMach t := by
  have hx : Mach.superblock s.toMach = (s.toMach.superblockTime).nvmeIssue .sbWrite := if_pos ⟨hs, hop⟩
  have hwithin := (Mach.superblock_within s.toMach).parts
  obtain ⟨hn, ht⟩ := Mach.superblockTime_spec s.toMach
  rw [hx] at hwithin
  generalize s.toMach.superblockTime = m1 at hx hwithin hn ht
  obtain ⟨h1, h2, h3, h4⟩ := Mach.nvmeIssue_spec .sbWrite m1
  refine does_of_act (f := Mach.superblock) rfl hx ⟨?_, fun h => ?_, ?_, hwithin⟩
  · rw [h1, h2, Mach.nvmeIssue_data]
    exact ⟨rfl, rfl, rfl, rfl⟩
  · rw [Mach.elapsed_of_time (h4 .time (by decide))]
    exact ht h
  · rw [h1, hn]

theorem nvsGseqRead_latches :
    Does .nvsGseqRead s fun t =>
      t.g64 R.NVS_GSEQ_LO_A R.NVS_GSEQ_HI_A = s.nvs.lastGseq % 2 ^ 64 ∧ t.out = .readValue R.NVS_GSEQ_LO_A (BitVec.ofNat 32 s.nvs.lastGseq) :: s.out ∧
      RegsBut [R.NVS_GSEQ_LO_A, R.NVS_GSEQ_HI_A] s.toMach t ∧ OnlyIn [.regs, .out] s.toMach t := by
  obtain ⟨t, ht, hp, hg, hout, hr, ho⟩ := latched_read s (c := .nvsGseqRead) (f := Mach.gseqRead) (s.nvs.lastGseq : Int) (by decide) rfl rfl
  refine ⟨t, ht, hp, hg.trans (toBits_natCast 64 _), ?_, hr, ho⟩
  rw [hout, toBits_natCast, ofNat_mod_two_pow (by decide)]

theorem nvsReinit_leaves (h : s.on R.NVS_CTRL_EN = false) :
    Does .nvsReinit s fun t => t.nvs.state = 0 ∧ t.nvs.op = none ∧ t.nvs.log = s.nvs.log ∧ OnlyIn [.nvs] s.toMach t :=
  does_of_act (f := Mach.storeInit) rfl (Mach.storeInit_off (m := s.toMach) h) ⟨rfl, rfl, rfl, Mach.onNvs_onlyIn _ _⟩

end

/-- Settles O33. -/
theorem storeCommandsAndRetries : Obligations.StoreCommandsAndRetries := by
  intro s reply
  refine ⟨nvsReinit_leaves s, nvsReinit_on s, fun h => idles_of_act (f := Mach.reinitRetry) rfl (if_neg h), nvsReinitRetry_faulted s,
    fun h => ⟨idles_of_act (f := Mach.nvmeDone reply) rfl (Mach.nvmeDone_idle reply h), idles_of_act (f := Mach.nvmeTimeout) rfl (Mach.nvmeTimeout_idle h)⟩,
    fun hw op hop => ⟨fun h => issues_at_once s (f := Mach.nvmeDone .ok) _ rfl (Mach.nvmeDone_bringUp hw (h ▸ hop)),
      fun _ k hk h => bringUp_faults s hw hop k hk h, fun h => groupWrite_done s hw (h ▸ hop), fun h => groupFlush_done s hw (h ▸ hop),
      fun hk ht => command_waits s hw hop hk ht, fun hk ht => command_faults s hw hop hk ht⟩,
    fun h => idles_of_act (f := Mach.nvmeRetry) rfl (Mach.nvmeRetry_idle h), fun hw op hop => nvmeRetry_issues s hw hop,
    fun h => idles_of_act (f := Mach.superblock) rfl (if_neg ?_), superblockWrite_due s, nvsGseqRead_latches s⟩
  rintro ⟨hs, hop⟩
  rcases h with ⟨h2, h4⟩ | h
  · rcases hs with hs | hs
    · exact h2 hs
    · exact h4 hs
  · exact h hop
end Sys2Proof.Machine

namespace Sys2Proof.Machine

set_option Elab.async false

namespace Mach

/-! ## Commit groups (R275 to R280) -/

section
variable {m : Mach}

/-- The log without the groups that a group of n units at u overwrites. -/
def logKept (m : Mach) (g : Group) : List (Nat × Group) := m.nvs.log.filter fun e => !overlaps (m.placeGroup g.units) g.units e.1 e.2.units

/-- Some group in the way of g is still needed. -/
def logHit (m : Mach) (g : Group) : Bool := m.nvs.log.any fun e => overlaps (m.placeGroup g.units) g.units e.1 e.2.units && m.groupLive e.2

theorem startGroup_free {g : Group} (h : m.logHit g = false) : startGroup g m =
    ((m.onNvs fun x => { x with state := 2, unit := m.placeGroup g.units, flushed := false, log := m.logKept g }).onJnl
      fun j => { j with gseq := g.gseq, group := some g }).nvmeIssue .groupWrite := if_neg (Bool.eq_false_iff.mp h)

theorem startGroup_hit {g : Group} (h : m.logHit g = true) : startGroup g m =
    if m.nvs.state = 4 then m else (m.onNvs fun x => { x with state := 4 }).health H.storeFull .store [] := if_pos h

theorem logKept_live {g : Group} (h : m.logHit g = false) {e : Nat × Group} (he : e ∈ m.nvs.log) (hl : m.groupLive e.2 = true) : e ∈ m.logKept g := by
  have := List.any_eq_false.mp h e he
  exact List.mem_filter.mpr ⟨he, by simpa [hl] using this⟩

/-- A group in the way keeps the new one from starting, and the store reads FULL. -/
theorem startGroup_full {g : Group} (h : m.logHit g = true) :
    (startGroup g m).jnl.group = m.jnl.group ∧ (startGroup g m).nvs.state = 4 ∧ (startGroup g m).nvs.log = m.nvs.log ∧
    OnlyIn [.regs, .tick, .jnl, .nvs, .cache] m (startGroup g m) := by
  rw [startGroup_hit h]
  split
  · next hs => exact ⟨rfl, hs, rfl, .refl _ _⟩
  · have hh := health_within H.storeFull .store [] (m.onNvs fun x => { x with state := 4 })
    refine ⟨(health_logged _ _ _ _).group, ?_, ?_, ((onNvs_onlyIn _ _).append hh.parts).mono (by decide)⟩
    · rw [hh.keeps .nvs]; rfl
    · rw [hh.keeps .nvs]; rfl

theorem startGroup_time (g : Group) (m : Mach) : (startGroup g m).time = m.time := (startGroup_within g m).keeps .time

theorem canCommit_group (h : m.canCommit = true) : m.jnl.group = none := by
  simp only [canCommit, Bool.and_eq_true, Option.isNone_iff_eq_none] at h
  exact h.1.2

/-- The group that is formed without waiting (R276, R280). -/
def groupNow (m : Mach) : Option Group :=
  match m.jnl.pf with
  | some (.committing parts) =>
    if m.toCommit ≠ [] then some (m.newGroup (m.toCommit.take 1016) 0) else if parts < 3 then some (m.newGroup [] (parts + 1)) else none
  | some .done => none
  | none => if 1016 ≤ m.toCommit.length then some (m.newGroup (m.toCommit.take 1016) 0) else none

theorem groupNow_full {g : Group} (hp : m.jnl.pf = none) (h : m.groupNow = some g) : 1016 ≤ m.toCommit.length ∧ m.newGroup (m.toCommit.take 1016) 0 = g := by
  unfold groupNow at h
  rw [hp] at h
  obtain ⟨hl, hg⟩ := Option.ite_none_right_eq_some.mp h
  exact ⟨hl, Option.some.inj hg⟩

theorem groupNow_committing {g : Group} {parts : Nat} (hp : m.jnl.pf = some (.committing parts)) (h : m.groupNow = some g) :
    m.toCommit ≠ [] ∧ m.newGroup (m.toCommit.take 1016) 0 = g ∨ m.toCommit = [] ∧ parts < 3 ∧ m.newGroup [] (parts + 1) = g := by
  unfold groupNow at h
  rw [hp] at h
  by_cases hl : m.toCommit = []
  · obtain ⟨hlt, hg⟩ := Option.ite_none_right_eq_some.mp ((if_neg (not_not.mpr hl)).symm.trans h)
    exact .inr ⟨hl, hlt, Option.some.inj hg⟩
  · exact .inl ⟨hl, Option.some.inj ((if_pos hl).symm.trans h)⟩

theorem groupNow_done (hp : m.jnl.pf = some .done) : m.groupNow = none := by
  unfold groupNow
  rw [hp]

theorem groupNow_gseq {g : Group} (h : m.groupNow = some g) : g.gseq = m.jnl.gseq + 1 := by
  rcases hp : m.jnl.pf with _ | (parts | _)
  · rw [← (groupNow_full hp h).2]
    rfl
  · rcases groupNow_committing hp h with ⟨-, rfl⟩ | ⟨-, -, rfl⟩
    · rfl
    · rfl
  · rw [groupNow_done hp] at h
    cases h

theorem formGroup_of_not (h : m.canCommit = false) : formGroup m = m := if_pos (by simp [h])

theorem formGroup_can (h : m.canCommit = true) : formGroup m =
    match m.jnl.pf with
    | some (.committing parts) =>
      if !m.toCommit.isEmpty then m.startGroup (m.newGroup (m.toCommit.take 1016) 0)
      else if parts < 3 then m.startGroup (m.newGroup [] (parts + 1)) else m
    | some .done => m
    | none =>
      match m.toCommit with
      | [] => m
      | r :: _ =>
        let m1 := if 1016 ≤ m.toCommit.length then m else m.runTo (r.at_ + m.g R.JNL_COMMIT_MAX_AGE * 1000)
        m1.startGroup (m1.newGroup (m.toCommit.take 1016) 0) := if_neg (by simp [h])

theorem formGroup_now {g : Group} (hc : m.canCommit = true) (h : m.groupNow = some g) : formGroup m = startGroup g m := by
  rw [formGroup_can hc]
  rcases hp : m.jnl.pf with _ | (parts | _)
  · obtain ⟨hl, rfl⟩ := groupNow_full hp h
    rcases hq : m.toCommit with _ | ⟨r, l⟩
    · rw [hq] at hl
      exact absurd hl (by decide)
    · rw [hq] at hl
      simp only [if_pos hl]
  · rcases groupNow_committing hp h with ⟨hl, rfl⟩ | ⟨hl, hlt, rfl⟩
    · exact if_pos (by simp [hl])
    · exact (if_neg (by simp [hl])).trans (if_pos hlt)
  · rw [groupNow_done hp] at h
    cases h

theorem formGroup_none (hn : m.groupNow = none) (h : m.jnl.pf ≠ none ∨ m.toCommit = []) : formGroup m = m := by
  cases hc : m.canCommit with
  | false => exact formGroup_of_not hc
  | true =>
  rw [formGroup_can hc]
  rcases hp : m.jnl.pf with _ | (parts | _)
  · rw [h.resolve_left (not_not.mpr hp)]
  · unfold groupNow at hn
    rw [hp] at hn
    by_cases hl : m.toCommit = []
    · exact (if_neg (by simp [hl])).trans (if_neg fun hlt => by simp [hl, hlt] at hn)
    · simp [hl] at hn
  · rfl

theorem formGroup_aged {r : JRec} {l : List JRec} (hc : m.canCommit = true) (hp : m.jnl.pf = none) (hl : m.toCommit = r :: l) (hlt : m.toCommit.length < 1016) :
    formGroup m = (m.runTo (r.at_ + m.g R.JNL_COMMIT_MAX_AGE * 1000)).startGroup
      ((m.runTo (r.at_ + m.g R.JNL_COMMIT_MAX_AGE * 1000)).newGroup (m.toCommit.take 1016) 0) := by
  rw [hl] at hlt
  rw [formGroup_can hc, hp, hl]
  simp only [if_neg (Nat.not_le.mpr hlt)]

end

/-! ## A group becomes durable (R277) -/

section
variable {m : Mach} {g : Group}

/-- The records with those of the group g marked committed. -/
def committedRecs (m : Mach) (g : Group) : List JRec := m.jnl.recs.map fun r => if g.recs.any (JRec.same r) then { r with committed := true } else r

/-- The store's log takes the group g. -/
def groupLogged (m : Mach) (g : Group) : Mach := m.onNvs fun n =>
  { n with flushed := false, log := n.log ++ [(n.unit, g)], unit := n.unit + g.units, sbGroups := n.sbGroups + 1,
           lastGseq := g.gseq, snap := if g.final then some m.snapshotData else n.snap }

theorem groupDurable_idle (h : m.jnl.group = none ∨ m.nvs.flushed = false) : groupDurable m = m := by
  unfold groupDurable
  split
  · rfl
  · next heq => exact if_pos (by simp [h.resolve_left (by simp [heq])])

/-- A snapshot group that is durable moves the final commit on (R280). -/
def pfAfter (m : Mach) (g : Group) : Option PfPhase :=
  match m.jnl.pf with
  | some (.committing p) => some (.committing (if 0 < g.snapshot then g.snapshot else p))
  | o => o

theorem groupDurable_flushed (hf : m.nvs.flushed = true) (hg : m.jnl.group = some g) : groupDurable m =
    (((m.groupLogged g).onJnl fun j => { j with group := none, recs := m.committedRecs g, pf := m.pfAfter g }).inc R.JNL_COMMITS).freeSlots := by
  unfold groupDurable
  rw [hg]
  exact if_neg (by simp [hf])

theorem same_self (r : JRec) : r.same r = true := by simp [JRec.same]

theorem freeSlots_recs_mem {x : JRec} (h : x ∈ m.freeSlots.jnl.recs) : x ∈ m.jnl.recs := List.mem_of_mem_filter h

theorem committedRecs_mem {x : JRec} (h : x ∈ m.committedRecs g) :
    (g.recs.any (JRec.same x) = true → x.committed = true) ∧
    (x ∈ m.jnl.recs ∨ ∃ y ∈ m.jnl.recs, g.recs.any (JRec.same y) = true ∧ x = { y with committed := true }) := by
  obtain ⟨y, hy, rfl⟩ := List.mem_map.mp h
  split
  · next hs => exact ⟨fun _ => rfl, .inr ⟨y, hy, hs, rfl⟩⟩
  · next hs => exact ⟨fun hx => absurd hx hs, .inl hy⟩

end
end Mach

section
variable (s : State)

theorem commitGroupForm_now {g : Group} (hc : s.canCommit = true) (h : s.toMach.groupNow = some g) :
    (s.toMach.logHit g = false → Does .commitGroupForm s fun t =>
      t.jnl.group = some g ∧ t.jnl.gseq = s.jnl.gseq + 1 ∧ t.jnl.recs = s.jnl.recs ∧ t.nvs.op = some .groupWrite ∧
      t.nvs.unit = s.placeGroup g.units ∧ t.nvs.state = 2 ∧ (∀ e ∈ s.nvs.log, s.groupLive e.2 = true → e ∈ t.nvs.log) ∧
      OnlyIn [.jnl, .nvs, .out] s.toMach t) ∧
    (s.toMach.logHit g = true → Does .commitGroupForm s fun t =>
      t.jnl.group = none ∧ t.nvs.state = 4 ∧ t.nvs.log = s.nvs.log ∧ OnlyIn [.regs, .tick, .jnl, .nvs, .cache] s.toMach t) := by
  have hx := Mach.formGroup_now hc h
  refine ⟨fun hh => ?_, fun hh => ?_⟩
  · have hk := fun e he => Mach.logKept_live (m := s.toMach) hh (e := e) he
    refine does_of_act (f := Mach.formGroup) rfl (hx.trans (Mach.startGroup_free hh))
      ⟨rfl, Mach.groupNow_gseq h, rfl, rfl, rfl, rfl, hk, ?_⟩
    exact ((Mach.onNvs_onlyIn _ _).append ((OnlyIn.onJnl _ _).append (Mach.nvmeIssue_spec _ _).2.2.2)).mono (by decide)
  · obtain ⟨h1, h2, h3, h4⟩ := Mach.startGroup_full (m := s.toMach) hh
    exact does_of_act (f := Mach.formGroup) rfl hx ⟨h1.trans (Mach.canCommit_group hc), h2, h3, h4⟩

theorem commitGroupForm_aged {r : JRec} (hc : s.canCommit = true) (hp : s.jnl.pf = none) (hlt : s.toCommit.length < 1016) (hr : r ∈ s.toCommit.head?) :
    Does .commitGroupForm s fun t =>
      r.at_ + s.g R.JNL_COMMIT_MAX_AGE * 1000 ≤ t.time.n ∧ (t.jnl.group = none → t.nvs.state = 4) ∧
      (∀ g ∈ t.jnl.group, g.snapshot = 0 ∧ ∃ r' ∈ g.recs.head?, r'.same r = true) ∧
      OnlyIn [.regs, .time, .tick, .enc, .jnl, .nvs, .cache, .out] s.toMach t := by
  obtain ⟨l, hl⟩ := List.head?_eq_some_iff.mp hr
  have hwithin := (Mach.formGroup_within s.toMach).parts
  have hx := Mach.formGroup_aged (m := s.toMach) hc hp hl hlt
  rw [hx] at hwithin
  have hreach := Mach.runTo_reaches s.toMach (r.at_ + s.g R.JNL_COMMIT_MAX_AGE * 1000)
  have hlog := Mach.runTo_logged s.toMach (r.at_ + s.g R.JNL_COMMIT_MAX_AGE * 1000)
  generalize s.toMach.runTo (r.at_ + s.g R.JNL_COMMIT_MAX_AGE * 1000) = m1 at hx hwithin hreach hlog
  have hgr : m1.jnl.group = none := hlog.group.trans (Mach.canCommit_group hc)
  refine does_of_act (f := Mach.formGroup) rfl hx ⟨?_, ?_, ?_, hwithin⟩
  · rw [Mach.startGroup_time]
    exact hreach
  · cases hh : m1.logHit (m1.newGroup (s.toCommit.take 1016) 0) with
    | true => exact fun _ => (Mach.startGroup_full hh).2.1
    | false =>
      rw [Mach.startGroup_free hh]
      intro h
      cases h
  · cases hh : m1.logHit (m1.newGroup (s.toCommit.take 1016) 0) with
    | true =>
      rw [(Mach.startGroup_full hh).1, hgr]
      intro g hg
      cases hg
    | false =>
      rw [Mach.startGroup_free hh]
      intro g hg
      cases hg
      exact ⟨rfl, r, by rw [hl]; rfl, Mach.same_self r⟩

theorem commitGroupDurable_flushed {g : Group} (hf : s.nvs.flushed = true) (hg : s.jnl.group = some g) :
    Does .commitGroupDurable s fun t =>
      t.jnl.group = none ∧ t.nvs.flushed = false ∧ t.nvs.log = s.nvs.log ++ [(s.nvs.unit, g)] ∧ t.nvs.unit = s.nvs.unit + g.units ∧
      t.nvs.lastGseq = g.gseq ∧ (g.final = true → t.nvs.snap = some s.snapshotData) ∧ (g.final = false → t.nvs.snap = s.nvs.snap) ∧
      (∀ x ∈ t.jnl.recs, g.recs.any (JRec.same x) = true → x.committed = true) ∧
      (∀ x ∈ t.jnl.recs, x ∈ s.jnl.recs ∨ ∃ y ∈ s.jnl.recs, g.recs.any (JRec.same y) = true ∧ x = { y with committed := true }) ∧
      t.g R.JNL_COMMITS = (s.g R.JNL_COMMITS + 1) % 2 ^ 32 ∧ RegsBut [R.JNL_COMMITS.a] s.toMach t ∧ OnlyIn [.regs, .jnl, .nvs] s.toMach t := by
  have hwithin := (Mach.groupDurable_within s.toMach).parts
  have hx := Mach.groupDurable_flushed (m := s.toMach) hf hg
  rw [hx] at hwithin
  refine does_of_act (f := Mach.groupDurable) rfl hx ⟨rfl, rfl, rfl, rfl, rfl, ?_, ?_, ?_, ?_, ?_, ?_, hwithin⟩
  · intro h
    exact if_pos h
  · intro h
    exact if_neg (by simp [h])
  · exact fun x hx => (Mach.committedRecs_mem (Mach.freeSlots_recs_mem hx)).1
  · exact fun x hx => (Mach.committedRecs_mem (Mach.freeSlots_recs_mem hx)).2
  · exact Mach.g_inc_word _ R.JNL_COMMITS rfl rfl
  · exact Mach.RegsBut.of_regs (Mach.RegsBut.inc _ _) rfl

end

/-- Settles O30. -/
theorem groupsFormAndBecomeDurable : Obligations.GroupsFormAndBecomeDurable := by
  intro s
  exact ⟨fun h => idles_of_act (f := Mach.formGroup) rfl (Mach.formGroup_of_not h), fun hn h => idles_of_act (f := Mach.formGroup) rfl (Mach.formGroup_none hn h),
    fun hc g hg => commitGroupForm_now s hc hg, fun hc hp hl r hr => commitGroupForm_aged s hc hp hl hr,
    fun h => idles_of_act (f := Mach.groupDurable) rfl (Mach.groupDurable_idle h), fun hf g hg => commitGroupDurable_flushed s hf hg⟩

end Sys2Proof.Machine

namespace Sys2Proof.Machine

set_option Elab.async false

/-- A loop reaches every element of its list. -/
theorem forEach_reaches {α σ : Type} (Q : α → σ → Prop) (xs : List α) (f : α → σ → σ) (h : ∀ x s, Q x (f x s)) (hk : ∀ x y s, Q y s → Q y (f x s)) (s : σ) :
    ∀ x ∈ xs, Q x (forEach xs f s) := by
  induction xs generalizing s with
  | nil => exact fun x hx => absurd hx (by simp)
  | cons y r ih =>
    intro x hx
    rcases List.mem_cons.mp hx with rfl | hx
    · exact forEach_keeps (Q x) r f (fun z t => hk z x t) _ (h x s)
    · exact ih _ x hx

namespace Mach

/-! ## The hold-up sample (R281) -/

section
variable (mv : Nat) (m : Mach)

/-- The voltage of a sample. -/
def holdupV (m : Mach) : Nat := (rnd ((min mv 1200 : Nat) * m.g R.JNL_HU_DIV) (2 ^ 24)).toNat

/-- The energy of a sample. -/
def holdupE (m : Mach) : Nat :=
  if holdupV mv m ≤ m.g R.JNL_HU_VMIN then 0
  else m.g R.JNL_HU_C * (holdupV mv m * holdupV mv m - m.g R.JNL_HU_VMIN * m.g R.JNL_HU_VMIN) / 2000000

def holdupTaken (m : Mach) : Mach := (m.put R.JNL_HU_V (satN (holdupV mv m) (2 ^ 32 - 1))).put R.JNL_HU_E (satN (holdupE mv m) (2 ^ 32 - 1))

theorem holdupSample_eq : holdupSample mv m = (m.runTo ((m.time.n.fdiv 10000 + 1) * 10000)).holdupTaken mv := rfl

theorem satN_eq_min (v top : Nat) : satN v top = min v top := by
  unfold satN
  split <;> omega

theorem holdupTaken_g : (m.holdupTaken mv).g R.JNL_HU_V = min (holdupV mv m) (2 ^ 32 - 1) ∧ (m.holdupTaken mv).g R.JNL_HU_E = min (holdupE mv m) (2 ^ 32 - 1) := by
  unfold holdupTaken
  rw [satN_eq_min, satN_eq_min]
  constructor
  · rw [g_put_ne _ _ _ _ (by decide), g_put_fits _ (by decide) (by simp only [R.JNL_HU_V]; omega)]
  · rw [g_put_fits _ (by decide) (by simp only [R.JNL_HU_E]; omega)]

theorem holdupTaken_time : (m.holdupTaken mv).time = m.time := by
  unfold holdupTaken
  rw [put_time, put_time]

theorem holdupTaken_rd {off : Nat} (h : off < 0x1E0000 ∨ 0x200000 ≤ off) : (m.holdupTaken mv).rd off = m.rd off := by
  have h1 : off ≠ R.JNL_HU_V.a := by simp only [R.JNL_HU_V]; omega
  have h2 : off ≠ R.JNL_HU_E.a := by simp only [R.JNL_HU_E]; omega
  exact (rd_put_ne _ _ _ h2).trans (rd_put_ne _ _ _ h1)

/-! ## A power failure (R280) -/

end

section
variable (m : Mach)

theorem actionsLow_spec :
    (∀ o : Fin 8, ((actionsLow m).time.trigOut.get o).actUntil = none) ∧ (actionsLow m).time.n = m.time.n := by
  unfold actionsLow
  refine ⟨fun o => forEach_reaches (fun (o : Fin 8) (t : Mach) => (t.time.trigOut.get o).actUntil = none) _ _ (fun x t => ?_) (fun x y t h => ?_) m o (List.mem_finRange o),
    forEach_keeps (fun t : Mach => t.time.n = m.time.n) _ _ (fun o t (h : t.time.n = m.time.n) => ?_) m rfl⟩
  · rw [onTrig_get_self]
  · by_cases hxy : y = x
    · rw [hxy, onTrig_get_self]
    · rw [onTrig_get_ne _ _ hxy]
      exact h
  · exact h

/-- A die's level after an emergency to PL0. -/
def toLevel0 (l : DieLevel) : DieLevel := { l with edge := false, freq := min l.freq 0, emerg := true, raising := none }

/-- Every die goes to PL0 at once. -/
def allEmergency (m : Mach) : Mach := forEach (List.finRange 4) (fun (d : Fin 4) t => t.emergency d 0 none) m

theorem allEmergency_lvl (d : Fin 4) : (allEmergency m).lvl.get d = toLevel0 (m.lvl.get d) :=
  ((forEach_dies (P := fun _ => True) (g := toLevel0) (fun d t _ => ⟨trivial, emergency_lvl d 0 t⟩) (List.nodup_finRange 4) trivial).2 d).trans
    (if_pos (List.mem_finRange d))

theorem allEmergency_within : Within [.regs, .tick, .fe, .eng, .tleq, .tle, .heldDesc, .jnl, .led, .lvl, .fn, .cache, .draws] m (allEmergency m) :=
  Within.loop (fun d t => emergency_within d 0 none t) (.refl _ m)

/-- What the emergencies leave alone: the store's side, and every register but their count that the engines' work spares. -/
def EmergKept (a b : Mach) : Prop := (∀ off, engSpares off → off ≠ R.PWR_EMERG.a → b.rd off = a.rd off) ∧ storeSide b.jnl = storeSide a.jnl

theorem onLvl_onlyIn (d : Fin 4) (f : DieLevel → DieLevel) (m : Mach) : OnlyIn [.lvl] m (m.onLvl d f) := fun p hp => by cases p <;> simp_all [Part.same]

theorem emergency_kept (d : Fin 4) (target : Nat) (trip : Option Nat) : EmergKept m (m.emergency d target trip) := by
  have h := setEdge_engKept d false m
  unfold emergency
  refine ⟨fun off ho hne => ?_, h.store⟩
  exact (rd_put_ne _ _ _ hne).trans (h.regs off ho)

theorem allEmergency_kept : EmergKept m (allEmergency m) :=
  forEach_keeps (EmergKept m) _ _ (fun d t ht => by
    have h := emergency_kept t d 0 none
    exact ⟨fun off ho hne => (h.1 off ho hne).trans (ht.1 off ho hne), h.2.trans ht.2⟩) m ⟨fun _ _ _ => rfl, rfl⟩

/-- Without edge variants an emergency only lowers levels and counts. -/
def LevelsOnly (a b : Mach) : Prop := (∀ d : Fin 4, (b.lvl.get d).edge = false) ∧ RegsBut [R.PWR_EMERG.a] a b ∧ OnlyIn [.regs, .lvl] a b

theorem allEmergency_levelsOnly (h : ∀ d : Fin 4, (m.lvl.get d).edge = false) : LevelsOnly m (allEmergency m) := by
  refine forEach_keeps (LevelsOnly m) _ _ (fun d t ht => ?_) m ⟨h, fun _ _ => rfl, .refl _ _⟩
  obtain ⟨he, hr, ho⟩ := ht
  obtain ⟨hd, hk⟩ := emergency_lvl d 0 t
  refine ⟨fun k => ?_, ?_, ?_⟩
  · by_cases hkd : k = d
    · rw [hkd, hd]
    · rw [hk k hkd]
      exact he k
  · unfold emergency
    rw [setEdge_of_same (he d)]
    exact hr.trans (RegsBut.inc _ _)
  · unfold emergency
    rw [setEdge_of_same (he d)]
    exact (ho.append ((Mach.onLvl_onlyIn d _ _).append (OnlyIn.inc _ _))).mono (by decide)

/-- The journal at a power failure. -/
def failing (j : Journal) : Journal := { j with pf := some (.committing 0), pfFirst := j.gseq + 1, pfLow := true, recoverFrom := none }

theorem finalCommitDone_idle {m : Mach} (h : m.jnl.pf = none ∨ m.jnl.pf = some .done ∨ m.finalDone = false) : finalCommitDone m = m := by
  unfold finalCommitDone
  split
  · next hq => exact if_neg (by simpa [hq] using h)
  · rfl

/-- A power failure before the dies go to PL0: the final commit starts and the action outputs are low. -/
def failed : Mach := actionsLow (m.onJnl failing)

theorem powerFail_first (hh : m.rst.hold ≠ some .por) (hp : m.jnl.pf = none) :
    powerFail m = ((allEmergency (failed m)).onTick fun t => { t with wdogArmed := false, wdogCount := 0 }).inc R.JNL_PF_COUNT := by
  unfold powerFail
  rw [if_neg hh, if_neg (by simp [hp])]
  rfl

theorem failed_spec :
    (failed m).jnl = failing m.jnl ∧ (failed m).lvl = m.lvl ∧ (failed m).regs = m.regs ∧ OnlyIn [.time, .jnl] m (failed m) := by
  have h := actionsLow_within (m.onJnl failing)
  exact ⟨h.keeps .jnl, h.keeps .lvl, h.keeps .regs, ((OnlyIn.onJnl _ _).append h.parts).mono (by decide)⟩

end
end Mach

section
variable (s : State) (mv : Nat)

theorem holdupSample_forms :
    Does (.holdupSample mv) s fun t =>
      (s.time.n.fdiv 10000 + 1) * 10000 ≤ t.time.n ∧ t.g R.JNL_HU_V = min (Mach.holdupV mv s.toMach) (2 ^ 32 - 1) ∧
      t.g R.JNL_HU_E = min (Mach.holdupE mv s.toMach) (2 ^ 32 - 1) ∧
      RegsOutside 0x1E0000 0x200000 s.toMach t ∧ OnlyIn [.regs, .time, .tick, .enc, .jnl, .cache] s.toMach t := by
  have hwithin := (Mach.holdupSample_within mv s.toMach).parts
  rw [Mach.holdupSample_eq] at hwithin
  have hreach := Mach.runTo_reaches s.toMach ((s.time.n.fdiv 10000 + 1) * 10000)
  have hlog := Mach.runTo_logged s.toMach ((s.time.n.fdiv 10000 + 1) * 10000)
  have hc := Mach.runTo_clockOnly ((s.time.n.fdiv 10000 + 1) * 10000) s.toMach
  have hx := Mach.holdupSample_eq mv s.toMach
  generalize s.toMach.runTo ((s.time.n.fdiv 10000 + 1) * 10000) = m1 at hx hwithin hreach hlog hc
  have hv : Mach.holdupV mv m1 = Mach.holdupV mv s.toMach := by
    unfold Mach.holdupV
    rw [hlog.g (by decide)]
  have he : Mach.holdupE mv m1 = Mach.holdupE mv s.toMach := by
    unfold Mach.holdupE
    rw [hv, hlog.g (by decide), hlog.g (by decide)]
  obtain ⟨h1, h2⟩ := Mach.holdupTaken_g mv m1
  refine does_of_act (f := Mach.holdupSample mv) rfl hx ⟨?_, h1.trans (by rw [hv]), h2.trans (by rw [he]), fun off ho => ?_, hwithin⟩
  · rw [Mach.holdupTaken_time]
    exact hreach
  · exact (Mach.holdupTaken_rd mv m1 (by omega)).trans (hc.regs off (by omega))

theorem powerFail_again (hh : s.rst.hold ≠ some .por) (hp : s.jnl.pf ≠ none) :
    Does .powerFail s fun t => t.jnl = { s.jnl with pfLow := true, recoverFrom := none } ∧ OnlyIn [.jnl] s.toMach t :=
  does_of_act (f := Mach.powerFail) rfl ((if_neg hh).trans (if_pos (Option.isSome_iff_ne_none.mpr hp))) ⟨rfl, OnlyIn.onJnl _ _⟩

theorem powerFail_starts (hh : s.rst.hold ≠ some .por) (hp : s.jnl.pf = none) :
    Does .powerFail s fun t =>
      t.jnl.pf = some (.committing 0) ∧ t.jnl.pfFirst = s.jnl.gseq + 1 ∧ t.jnl.pfLow = true ∧ t.jnl.recoverFrom = none ∧
      (∀ d : Fin 4, (t.lvl.get d).freq = 0 ∧ (t.lvl.get d).emerg = true ∧ (t.lvl.get d).volt = (s.lvl.get d).volt) ∧
      (∀ o : Fin 8, (t.time.trigOut.get o).actUntil = none) ∧ t.time.n = s.time.n ∧ t.tick.wdogArmed = false ∧
      t.g R.JNL_PF_COUNT = (s.g R.JNL_PF_COUNT + 1) % 2 ^ 32 ∧
      ((∀ d : Fin 4, (s.lvl.get d).edge = false) →
        t.jnl = { s.jnl with pf := some (.committing 0), pfFirst := s.jnl.gseq + 1, pfLow := true, recoverFrom := none } ∧
        RegsBut [R.JNL_PF_COUNT.a, R.PWR_EMERG.a] s.toMach t ∧ OnlyIn [.regs, .time, .tick, .jnl, .lvl] s.toMach t) ∧
      OnlyIn [.regs, .time, .tick, .fe, .eng, .tleq, .tle, .heldDesc, .jnl, .led, .lvl, .fn, .cache, .draws] s.toMach t := by
  have hwithin := (Mach.powerFail_within s.toMach).parts
  have hx := Mach.powerFail_first s.toMach hh hp
  rw [hx] at hwithin
  obtain ⟨hj, hl, hr, ho⟩ := Mach.failed_spec s.toMach
  obtain ⟨hact, hn⟩ := Mach.actionsLow_spec (s.toMach.onJnl Mach.failing)
  obtain ⟨hkr, hks⟩ := Mach.allEmergency_kept (Mach.failed s.toMach)
  have ht : (Mach.allEmergency (Mach.failed s.toMach)).time = (Mach.failed s.toMach).time := (Mach.allEmergency_within _).keeps .time
  have hlvl := Mach.allEmergency_lvl (Mach.failed s.toMach)
  have hstill := Mach.allEmergency_levelsOnly (Mach.failed s.toMach)
  have hside : storeSide (Mach.allEmergency (Mach.failed s.toMach)).jnl = storeSide (Mach.failing s.jnl) := hks.trans (congrArg storeSide hj)
  generalize Mach.allEmergency (Mach.failed s.toMach) = m1 at *
  have hjnl : storeSide ((m1.onTick fun t => { t with wdogArmed := false, wdogCount := 0 }).inc R.JNL_PF_COUNT).jnl = storeSide (Mach.failing s.jnl) := hside
  have htime : ((m1.onTick fun t => { t with wdogArmed := false, wdogCount := 0 }).inc R.JNL_PF_COUNT).time = (Mach.failed s.toMach).time := ht
  refine does_of_act (f := Mach.powerFail) rfl hx ⟨congrArg (fun x => x.2.2.1) hjnl, congrArg (fun x => x.2.2.2.1) hjnl, congrArg (fun x => x.2.2.2.2.1) hjnl,
    congrArg (fun x => x.2.2.2.2.2) hjnl, ?_, ?_, ?_, rfl, ?_, ?_, hwithin⟩
  · intro d
    rw [Mach.inc_lvl, Mach.onTick_lvl, hlvl d, hl]
    exact ⟨Nat.min_zero _, rfl, rfl⟩
  · rw [htime]
    exact hact
  · rw [htime]
    exact hn
  · rw [Mach.g_inc_word _ _ rfl rfl, Mach.onTick_g]
    have : m1.g R.JNL_PF_COUNT = s.g R.JNL_PF_COUNT := by
      unfold Mach.g
      rw [hkr _ (.inr (by decide)) (by decide)]
      unfold Mach.rd
      rw [hr]
    rw [this]
  · intro he
    obtain ⟨-, hregs, honly⟩ := hstill (by rw [hl]; exact he)
    refine ⟨?_, ?_, ?_⟩
    · exact (honly .jnl (by decide)).trans hj
    · intro off ho
      simp only [List.mem_cons, List.not_mem_nil, or_false, not_or] at ho
      refine (Mach.rd_put_ne _ _ _ ho.1).trans ((hregs off (by simpa using ho.2)).trans ?_)
      unfold Mach.rd
      rw [hr]
    · exact (ho.append (honly.append ((OnlyIn.onTick _ _).append (OnlyIn.inc _ _)))).mono (by decide)

theorem finalCommitDone_done (hp : s.jnl.pf ≠ none) (hd : s.jnl.pf ≠ some .done) (hf : s.finalDone = true) :
    Does .finalCommitDone s fun t =>
      t.jnl = { s.jnl with pf := some .done, recoverFrom := if s.jnl.pfLow then none else some s.elapsed } ∧
      t.g R.JNL_STAT_FINAL_DONE = 1 ∧ RegsBut [R.JNL_STAT_FINAL_DONE.a] s.toMach t ∧ OnlyIn [.regs, .jnl] s.toMach t := by
  have hx : Mach.finalCommitDone s.toMach =
      (s.set1 R.JNL_STAT_FINAL_DONE).onJnl fun j => { j with pf := some .done, recoverFrom := if j.pfLow then none else some s.elapsed } := by
    rcases hq : s.jnl.pf with _ | (p | _)
    · exact absurd hq hp
    · unfold Mach.finalCommitDone
      rw [hq]
      exact if_pos hf
    · exact absurd hq hd
  refine does_of_act (f := Mach.finalCommitDone) rfl hx ⟨rfl, ?_, ?_, ((Mach.set1_within _ _).parts.append (OnlyIn.onJnl _ _)).mono (by decide)⟩
  · exact Mach.g_set1 s.toMach _ rfl (by decide)
  · exact Mach.RegsBut.of_regs (Mach.RegsBut.put s.toMach R.JNL_STAT_FINAL_DONE 1) rfl

theorem pwrFailNReturn_counts :
    Does .pwrFailNReturn s fun t =>
      t.jnl.pfLow = false ∧ t.jnl.pf = s.jnl.pf ∧ t.jnl.recs = s.jnl.recs ∧
      (s.jnl.pf = some .done → s.jnl.recoverFrom = none → t.jnl.recoverFrom = some s.elapsed) ∧
      (s.jnl.pf ≠ some .done ∨ s.jnl.recoverFrom ≠ none → t.jnl.recoverFrom = s.jnl.recoverFrom) ∧ OnlyIn [.jnl] s.toMach t := by
  refine does_of_act (f := Mach.pwrFailReturn) rfl rfl ⟨rfl, rfl, rfl, fun h1 h2 => ?_, fun h => ?_, OnlyIn.onJnl _ _⟩
  · unfold Mach.pwrFailReturn
    dsimp only [Mach.onJnl]
    rw [h1, h2]
  · unfold Mach.pwrFailReturn
    dsimp only [Mach.onJnl]
    split
    · next h1 h2 => exact absurd h (by simp [h1, h2])
    · rfl

end

/-- Settles O31. -/
theorem holdupAndFinalCommit : Obligations.HoldupAndFinalCommit := by
  intro s mv
  refine ⟨?_, fun h => idles_of_act (f := Mach.powerFail) rfl (if_pos h), fun hh => ⟨powerFail_again s hh, powerFail_starts s hh⟩,
    fun h => idles_of_act (f := Mach.finalCommitDone) rfl (Mach.finalCommitDone_idle h), finalCommitDone_done s, pwrFailNReturn_counts s⟩

  obtain ⟨t, ht, hp, hreach, hv, he, hr, ho⟩ := holdupSample_forms s mv
  refine ⟨t, ht, hp, hreach, hv, he.trans ?_, hr, ho⟩
  unfold Mach.holdupE
  split
  · next h => exact (Nat.zero_min _).trans (if_pos h).symm
  · next h => exact (if_neg h).symm

end Sys2Proof.Machine

namespace Sys2Proof.Machine

set_option Elab.async false

/-- Of the clock, only the quality and the instant of the last clamp message differ; registers differ in TIM_STAT and the journal's blocks. -/
structure StatusOnly (a b : Mach) : Prop where
  time : b.time = { a.time with quality := b.time.quality, servo := { a.time.servo with clampAt := b.time.servo.clampAt } }
  regs : ∀ off, ¬ (0x1E0000 ≤ off ∧ off < 0x200000) → off ≠ R.TIM_STAT_CLAMP.a → b.rd off = a.rd off

namespace StatusOnly

variable {a b c : Mach}

theorem refl (a : Mach) : StatusOnly a a := ⟨rfl, fun _ _ _ => rfl⟩

theorem trans (h1 : StatusOnly a b) (h2 : StatusOnly b c) : StatusOnly a c :=
  ⟨by rw [h2.time, h1.time], fun off h hs => (h2.regs off h hs).trans (h1.regs off h hs)⟩

theorem of_recOnly (h : RecOnly a b) : StatusOnly a b := by
  have ht : b.time = a.time := h.parts .time (by decide)
  exact ⟨by rw [ht], fun off ho _ => h.regs off ho⟩

theorem g (h : StatusOnly a b) (f : Fld) (hf : ¬ (0x1E0000 ≤ f.a ∧ f.a < 0x200000)) (hs : f.a ≠ R.TIM_STAT_CLAMP.a) : b.g f = a.g f := by
  unfold Mach.g; rw [h.regs _ hf hs]

theorem n (h : StatusOnly a b) : b.time.n = a.time.n := by rw [h.time]
theorem y (h : StatusOnly a b) : b.time.y = a.time.y := by rw [h.time]
theorem holdFrom (h : StatusOnly a b) : b.time.holdFrom = a.time.holdFrom := by rw [h.time]
theorem servo (h : StatusOnly a b) : b.time.servo = { a.time.servo with clampAt := b.time.servo.clampAt } := by rw [h.time]

end StatusOnly

namespace Mach

section
variable (m : Mach)

theorem setQuality_status (q : Quality) : StatusOnly m (m.setQuality q) := by
  unfold setQuality
  split
  · exact .refl m
  · have h : StatusOnly m (m.onTime fun t => { t with quality := q }) := ⟨rfl, fun _ _ _ => rfl⟩
    exact h.trans (.of_recOnly (timeStatus_recOnly ..))

theorem setQuality_quality (q : Quality) : (m.setQuality q).time.quality = q := by
  unfold setQuality
  split
  · next h => exact h
  · exact congrArg TimeUnit.quality ((timeStatus_recOnly ..).parts .time (by decide))

theorem servoClamped_status : StatusOnly m m.servoClamped := by
  have hset : StatusOnly m (m.set1 R.TIM_STAT_CLAMP) := ⟨rfl, fun _ _ hs => rd_put_ne _ _ _ hs⟩
  unfold servoClamped
  extract_lets m1 fresh
  split
  · have h : StatusOnly m1 (m1.onServo fun v => { v with clampAt := some m1.elapsed }) := ⟨rfl, fun _ _ _ => rfl⟩
    exact (hset.trans h).trans (.of_recOnly (health_recOnly ..))
  · exact hset

end

/-! ## The PI law (R338) -/

section
variable (theta delta : Int) (m : Mach)

def servoR : Int := clampI (rnd (theta * 1000000000) delta) (-1000000) 1000000
def servoI (m : Mach) : Int := clampI (m.time.servo.integ - rnd ((m.g R.TIM_SRV_KI_KI : Int) * servoR theta delta) 65536) (-1000000) 1000000
def servoY (m : Mach) : Int := clampI (servoI theta delta m - rnd ((m.g R.TIM_SRV_KP_KP : Int) * servoR theta delta) 65536) (-1000000) 1000000
def servoAvg (m : Mach) : Int :=
  m.time.servo.yAvg + (servoY theta delta m - m.time.servo.yAvg).fdiv (2 ^ m.g R.TIM_SRV_HOLD_AVG_SHIFT)
def servoRun (m : Mach) : Nat := if theta.natAbs ≤ m.g R.TIM_SRV_LOCK_LOCK_NS then m.time.servo.lockRun + 1 else 0

/-- A sample applied to the PI servo, before the clamp and the lock are told. -/
def applied (m : Mach) : Mach := m.onTime fun t =>
  { t with y := servoY theta delta m,
           servo := { t.servo with integ := servoI theta delta m, yAvg := servoAvg theta delta m, lockRun := servoRun theta m, returning := false } }

theorem applySample_status : StatusOnly (applied theta delta m) (applySample theta delta m) := by
  unfold applySample
  extract_lets v r i raw y avg inLock run m1 m2
  have h1 : StatusOnly (applied theta delta m) m1 := .refl m1
  have h2 : StatusOnly (applied theta delta m) m2 := by
    unfold m2
    split
    · exact h1
    · exact h1.trans (servoClamped_status m1)
  clear_value m2
  split
  · exact h2.trans (setQuality_status m2 .locked)
  · exact h2

/-- The start of a slew, before it is told. -/
def slewing (m0 : Mach) (ys endsAt yHold : Int) : Mach := (m0.onTime fun t =>
    { t with y := ys, servo := { t.servo with slew := some { endsAt := endsAt, yHold := yHold }, returning := false } }).inc R.TIM_SLEWS

theorem startSlew_status : ∃ (m0 : Mach) (ys endsAt : Int), m0.time = m.time ∧ m0.regs = m.regs ∧ RecOnly (slewing m0 ys endsAt m.time.y) (startSlew theta m) := by
  unfold startSlew
  extract_lets yHold sgn ys gap
  split
  next free m0 heq =>
  extract_lets dur m1
  have hm : m0.time = m.time ∧ m0.regs = m.regs := by
    rw [show m0 = (if gap = 0 then m.drawNat else (0, m)).2 from (congrArg Prod.snd heq).symm]
    split
    · exact ⟨rfl, rfl⟩
    · exact ⟨rfl, rfl⟩
  exact ⟨m0, ys, m.elapsed + dur, hm.1, hm.2, timeStatus_recOnly ..⟩

/-- A holdover entered, before the quality is told. -/
def holding (spikes : Bool) (m : Mach) : Mach := (m.onTime fun t =>
    { t with y := m.time.servo.yAvg,
             servo := { t.servo with integ := if spikes then t.servo.integ else m.time.servo.yAvg, returning := true, lockRun := 0, spikeRun := 0 } }).inc
    R.TIM_HOLDOVERS

theorem enterHoldover_status (spikes : Bool) : StatusOnly (holding spikes m) (enterHoldover spikes m) := setQuality_status _ _

end

/-! ## What a sample leaves (R336 to R341) -/

/-- The sample taken last and its instants. -/
def Sampled (x at_ held n : Int) (k : Nat) (t : Mach) : Prop :=
  t.time.servo.lastTheta = x ∧ t.time.servo.lastAt = some at_ ∧ t.time.holdFrom = held ∧ t.time.n = n ∧ t.g R.TIM_SAMPLES = k

section
variable {x at_ held n : Int} {k : Nat} {a b : Mach}

theorem Sampled.status (h : Sampled x at_ held n k a) (hs : StatusOnly a b) : Sampled x at_ held n k b := by
  obtain ⟨h1, h2, h3, h4, h5⟩ := h
  refine ⟨?_, ?_, hs.holdFrom.trans h3, hs.n.trans h4, (hs.g _ (by decide) (by decide)).trans h5⟩
  · rw [hs.servo]; exact h1
  · rw [hs.servo]; exact h2

theorem Sampled.inc {f : Fld} (h : Sampled x at_ held n k a) (hf : R.TIM_SAMPLES.a ≠ f.a) : Sampled x at_ held n k (a.inc f) := by
  obtain ⟨h1, h2, h3, h4, h5⟩ := h
  exact ⟨h1, h2, h3, h4, (g_inc_ne _ _ _ hf).trans h5⟩

theorem Sampled.of_eq (h : Sampled x at_ held n k a) (ht : b.time = a.time) (hr : b.regs = a.regs) : Sampled x at_ held n k b := by
  obtain ⟨h1, h2, h3, h4, h5⟩ := h
  exact ⟨ht ▸ h1, ht ▸ h2, ht ▸ h3, ht ▸ h4, (g_of_regs hr _).trans h5⟩

theorem Sampled.applySample (theta delta : Int) (h : Sampled x at_ held n k a) : Sampled x at_ held n k (applySample theta delta a) :=
  Sampled.status (a := applied theta delta a) h (applySample_status theta delta a)

theorem Sampled.startSlew (theta : Int) (h : Sampled x at_ held n k a) : Sampled x at_ held n k (startSlew theta a) := by
  obtain ⟨m0, ys, endsAt, ht, hr, hs⟩ := startSlew_status theta a
  have h0 := h.of_eq ht hr
  have h1 : Sampled x at_ held n k (slewing m0 ys endsAt a.time.y) := Sampled.inc (a := m0.onTime _) h0 (by decide)
  exact h1.status (.of_recOnly hs)

theorem Sampled.returningSample (theta delta : Int) (h : Sampled x at_ held n k a) : Sampled x at_ held n k (returningSample theta delta a) := by
  unfold Mach.returningSample
  extract_lets slewMax
  split
  · exact h.applySample theta delta
  split
  · exact h.startSlew theta
  split
  · exact h
  · exact ((h.inc (by decide)).status (.of_recOnly (timeStatus_recOnly ..))).startSlew theta

theorem Sampled.enterHoldover (spikes : Bool) (h : Sampled x at_ held n k a) : Sampled x at_ held n k (enterHoldover spikes a) := by
  have h1 : Sampled x at_ held n k (holding spikes a) := Sampled.inc (a := a.onTime _) h (by decide)
  exact h1.status (enterHoldover_status a spikes)

end

section
variable (x at_ : Int) (m : Mach)

/-- The sample taken, before the servo acts on it. -/
def sampledAt (m : Mach) : Mach :=
  (m.onTime fun t => { t with holdFrom := m.elapsed, servo := { t.servo with lastAt := some at_, lastTheta := x } }).inc R.TIM_SAMPLES

/-- The interval that the sample is judged over. -/
def servoDelta (m : Mach) : Int := match m.time.servo.lastAt with | some a => max 100000 (at_ - a) | none => 100000

theorem sampledAt_g (f : Fld) (h : f.a ≠ R.TIM_SAMPLES.a) : (sampledAt x at_ m).g f = m.g f := g_inc_ne _ _ _ h

theorem sampledAt_sampled : Sampled x at_ m.elapsed m.time.n ((m.g R.TIM_SAMPLES + 1) % 2 ^ 32) (sampledAt x at_ m) :=
  ⟨rfl, rfl, rfl, rfl, g_inc_word _ _ rfl rfl⟩

theorem servoSample_on (h : m.servoOff = false) : servoSample x at_ m =
    if !(sampledAt x at_ m).on R.TIM_SRV_CFG_EN || m.time.servo.slew.isSome || m.time.servo.stepNext.isSome then sampledAt x at_ m
    else if (sampledAt x at_ m).time.quality = .locked ∧ (sampledAt x at_ m).g R.TIM_SRV_SPIKE_SPIKE_NS < x.natAbs then
      if m.time.servo.spikeRun < (sampledAt x at_ m).g R.TIM_SRV_SPIKE_SPIKE_N then
        ((sampledAt x at_ m).onServo fun w => { w with spikeRun := w.spikeRun + 1 }).inc R.TIM_SPIKES
      else ((sampledAt x at_ m).enterHoldover true).returningSample x (servoDelta at_ m)
    else if m.time.servo.returning then ((sampledAt x at_ m).onServo fun w => { w with spikeRun := 0 }).returningSample x (servoDelta at_ m)
      else ((sampledAt x at_ m).onServo fun w => { w with spikeRun := 0 }).applySample x (servoDelta at_ m) := if_neg (by simp [h])

/-- The servo is off, slews, or has decided a step. -/
def ServoRests (m : Mach) : Prop := m.on R.TIM_SRV_CFG_EN = false ∨ m.time.servo.slew ≠ none ∨ m.time.servo.stepNext ≠ none

def ServoRuns (m : Mach) : Prop := m.on R.TIM_SRV_CFG_EN = true ∧ m.time.servo.slew = none ∧ m.time.servo.stepNext = none

theorem sampledAt_on : (sampledAt x at_ m).on R.TIM_SRV_CFG_EN = m.on R.TIM_SRV_CFG_EN := by
  unfold Mach.on
  rw [sampledAt_g _ _ _ _ (by decide)]

variable {x at_ m}

theorem servoSample_rests (h : m.servoOff = false) (ha : m.ServoRests) : servoSample x at_ m = sampledAt x at_ m := by
  rw [servoSample_on x at_ m h, sampledAt_on]
  refine if_pos ?_
  rcases ha with ha | ha | ha
  · simp [ha]
  · simp [Option.isSome_iff_ne_none.mpr ha]
  · simp [Option.isSome_iff_ne_none.mpr ha]

theorem servoSample_runs (h : m.servoOff = false) (ha : m.ServoRuns) : servoSample x at_ m =
    if m.time.quality = .locked ∧ m.g R.TIM_SRV_SPIKE_SPIKE_NS < x.natAbs then
      if m.time.servo.spikeRun < m.g R.TIM_SRV_SPIKE_SPIKE_N then
        ((sampledAt x at_ m).onServo fun w => { w with spikeRun := w.spikeRun + 1 }).inc R.TIM_SPIKES
      else ((sampledAt x at_ m).enterHoldover true).returningSample x (servoDelta at_ m)
    else if m.time.servo.returning then ((sampledAt x at_ m).onServo fun w => { w with spikeRun := 0 }).returningSample x (servoDelta at_ m)
      else ((sampledAt x at_ m).onServo fun w => { w with spikeRun := 0 }).applySample x (servoDelta at_ m) := by
  obtain ⟨h1, h2, h3⟩ := ha
  rw [servoSample_on x at_ m h, sampledAt_on, sampledAt_g _ _ _ _ (by decide), sampledAt_g _ _ _ _ (by decide)]
  exact if_neg (by simp [h1, h2, h3])

theorem servoRests_or_runs (m : Mach) : m.ServoRests ∨ m.ServoRuns := by
  by_cases h1 : m.on R.TIM_SRV_CFG_EN = true
  · by_cases h2 : m.time.servo.slew = none
    · by_cases h3 : m.time.servo.stepNext = none
      · exact .inr ⟨h1, h2, h3⟩
      · exact .inl (.inr (.inr h3))
    · exact .inl (.inr (.inl h2))
  · exact .inl (.inl (Bool.eq_false_iff.mpr h1))

/-- Every sample that is taken restarts the holdover timer and is counted. -/
theorem servoSample_sampled (h : m.servoOff = false) :
    Sampled x at_ m.elapsed m.time.n ((m.g R.TIM_SAMPLES + 1) % 2 ^ 32) (servoSample x at_ m) := by
  have h0 := sampledAt_sampled x at_ m
  rcases servoRests_or_runs m with ha | ha
  · rw [servoSample_rests h ha]
    exact h0
  · have hz : Sampled x at_ m.elapsed m.time.n ((m.g R.TIM_SAMPLES + 1) % 2 ^ 32) ((sampledAt x at_ m).onServo fun w => { w with spikeRun := 0 }) := h0
    rw [servoSample_runs h ha]
    split
    · split
      · exact Sampled.inc (a := (sampledAt x at_ m).onServo _) h0 (by decide)
      · exact (h0.enterHoldover true).returningSample x _
    · split
      · exact hz.returningSample x _
      · exact hz.applySample x _

end

/-- A sample taken that ends a run of spikes. -/
def sampledPlain (x at_ : Int) (m : Mach) : Mach := (sampledAt x at_ m).onServo fun w => { w with spikeRun := 0 }

theorem sampledPlain_g (x at_ : Int) (m : Mach) (f : Fld) (h : f.a ≠ R.TIM_SAMPLES.a) : (sampledPlain x at_ m).g f = m.g f := sampledAt_g x at_ m f h

/-- The PI law reads nothing that taking the sample changed. -/
theorem servo_sampledPlain (x at_ d : Int) (m : Mach) :
    servoI x d (sampledPlain x at_ m) = servoI x d m ∧ servoY x d (sampledPlain x at_ m) = servoY x d m ∧
    servoAvg x d (sampledPlain x at_ m) = servoAvg x d m ∧ servoRun x (sampledPlain x at_ m) = servoRun x m := by
  have hi : servoI x d (sampledPlain x at_ m) = servoI x d m := by
    unfold servoI
    rw [sampledPlain_g _ _ _ _ (by decide)]
    rfl
  have hy : servoY x d (sampledPlain x at_ m) = servoY x d m := by
    unfold servoY
    rw [hi, sampledPlain_g _ _ _ _ (by decide)]
  refine ⟨hi, hy, ?_, ?_⟩
  · unfold servoAvg
    rw [hy, sampledPlain_g _ _ _ _ (by decide)]
    rfl
  · unfold servoRun
    rw [sampledPlain_g _ _ _ _ (by decide)]
    rfl

theorem applySample_spec (x d : Int) (m : Mach) :
    (applySample x d m).time.y = servoY x d m ∧ (applySample x d m).time.servo.integ = servoI x d m ∧
    (applySample x d m).time.servo.yAvg = servoAvg x d m ∧ (applySample x d m).time.servo.lockRun = servoRun x m := by
  have h := applySample_status x d m
  rw [h.y, h.servo]
  exact ⟨rfl, rfl, rfl, rfl⟩

/-- What the PI law makes of a sample (R338), the lock run included. -/
theorem servoSample_plain {x at_ : Int} {m : Mach} (h : m.servoOff = false) (ha : m.ServoRuns) (hr : m.time.servo.returning = false)
    (hq : m.time.quality ≠ .locked ∨ x.natAbs ≤ m.g R.TIM_SRV_SPIKE_SPIKE_NS) :
    (servoSample x at_ m).time.y = servoY x (servoDelta at_ m) m ∧ (servoSample x at_ m).time.servo.integ = servoI x (servoDelta at_ m) m ∧
    (servoSample x at_ m).time.servo.yAvg = servoAvg x (servoDelta at_ m) m ∧ (servoSample x at_ m).time.servo.lockRun = servoRun x m := by
  have hx : servoSample x at_ m = applySample x (servoDelta at_ m) (sampledPlain x at_ m) := by
    rw [servoSample_runs h ha, if_neg (fun hl => hq.elim (fun h => h hl.1) (fun h => absurd hl.2 (Nat.not_lt.mpr h))), if_neg (by simp [hr])]
    rfl
  obtain ⟨h1, h2, h3, h4⟩ := applySample_spec x (servoDelta at_ m) (sampledPlain x at_ m)
  obtain ⟨e1, e2, e3, e4⟩ := servo_sampledPlain x at_ (servoDelta at_ m) m
  rw [hx]
  exact ⟨h1.trans e2, h2.trans e1, h3.trans e3, h4.trans e4⟩

theorem servoSample_spike {x at_ : Int} {m : Mach} (h : m.servoOff = false) (ha : m.ServoRuns) (hq : m.time.quality = .locked)
    (hx : m.g R.TIM_SRV_SPIKE_SPIKE_NS < x.natAbs) (hn : m.time.servo.spikeRun < m.g R.TIM_SRV_SPIKE_SPIKE_N) :
    (servoSample x at_ m).time.y = m.time.y ∧ (servoSample x at_ m).time.quality = .locked ∧
    (servoSample x at_ m).time.servo.spikeRun = m.time.servo.spikeRun + 1 ∧ (servoSample x at_ m).g R.TIM_SPIKES = (m.g R.TIM_SPIKES + 1) % 2 ^ 32 := by
  rw [servoSample_runs h ha, if_pos ⟨hq, hx⟩, if_pos hn]
  refine ⟨rfl, hq, rfl, ?_⟩
  rw [g_inc_word _ _ rfl rfl]
  exact congrArg (fun k => (k + 1) % 2 ^ 32) (sampledAt_g x at_ m _ (by decide))

theorem startSlew_spec (x : Int) (m : Mach) :
    (∃ w ∈ (startSlew x m).time.servo.slew, w.yHold = m.time.y) ∧ (startSlew x m).time.quality = m.time.quality ∧
    (startSlew x m).g R.TIM_SLEWS = (m.g R.TIM_SLEWS + 1) % 2 ^ 32 := by
  obtain ⟨m0, ys, endsAt, ht, hr, hs⟩ := startSlew_status x m
  have htime : (startSlew x m).time = (slewing m0 ys endsAt m.time.y).time := hs.parts .time (by decide)
  rw [htime, hs.g _ (by decide)]
  refine ⟨⟨_, rfl, rfl⟩, ?_, ?_⟩
  · change m0.time.quality = m.time.quality
    rw [ht]
  · unfold slewing
    rw [g_inc_word _ _ rfl rfl, onTime_g, g_of_regs hr]

section
variable {x d : Int} {m : Mach}

theorem returningSample_slews (h : ¬ x.natAbs ≤ m.g R.TIM_SRV_LOCK_LOCK_NS) (hs : x.natAbs ≤ m.g R.TIM_SRV_SLEWMAX_SLEW_MAX) :
    returningSample x d m = startSlew x m := by
  unfold returningSample
  rw [if_neg h]
  exact if_pos (by exact_mod_cast hs)

theorem returningSample_steps (h : ¬ x.natAbs ≤ m.g R.TIM_SRV_LOCK_LOCK_NS) (hs : ¬ x.natAbs ≤ m.g R.TIM_SRV_SLEWMAX_SLEW_MAX)
    (hd : x < 0 ∨ x ≤ m.tick.period * 500 ∨ m.on R.TIM_SRV_CFG_FORCE = true) :
    returningSample x d m = m.onServo fun v => { v with stepNext := some (-x), returning := false } := by
  unfold returningSample
  rw [if_neg h]
  exact (if_neg (by exact_mod_cast hs)).trans (if_pos hd)

end

theorem servoSample_returning {x at_ : Int} {m : Mach} (h : m.servoOff = false) (ha : m.ServoRuns) (hq : m.time.quality ≠ .locked)
    (hr : m.time.servo.returning = true) (hl : m.g R.TIM_SRV_LOCK_LOCK_NS < x.natAbs) :
    (x.natAbs ≤ m.g R.TIM_SRV_SLEWMAX_SLEW_MAX → (∃ w ∈ (servoSample x at_ m).time.servo.slew, w.yHold = m.time.y) ∧
      (servoSample x at_ m).time.quality = m.time.quality ∧ (servoSample x at_ m).g R.TIM_SLEWS = (m.g R.TIM_SLEWS + 1) % 2 ^ 32) ∧
    (m.g R.TIM_SRV_SLEWMAX_SLEW_MAX < x.natAbs → x < 0 ∨ x ≤ m.tick.period * 500 ∨ m.on R.TIM_SRV_CFG_FORCE = true →
      (servoSample x at_ m).time.servo.stepNext = some (-x) ∧ (servoSample x at_ m).time.y = m.time.y ∧ (servoSample x at_ m).time.quality = m.time.quality) := by
  have hx : servoSample x at_ m = returningSample x (servoDelta at_ m) (sampledPlain x at_ m) := by
    rw [servoSample_runs h ha, if_neg (fun hl => hq hl.1), if_pos hr]
    rfl
  have hg := sampledPlain_g x at_ m
  have hns : ¬ x.natAbs ≤ (sampledPlain x at_ m).g R.TIM_SRV_LOCK_LOCK_NS := by rw [hg _ (by decide)]; omega
  have hforce : (sampledPlain x at_ m).on R.TIM_SRV_CFG_FORCE = m.on R.TIM_SRV_CFG_FORCE := by
    unfold Mach.on
    rw [hg _ (by decide)]
  rw [hx]
  refine ⟨fun hs => ?_, fun hs hd => ?_⟩
  · rw [returningSample_slews hns (by rw [hg _ (by decide)]; omega)]
    obtain ⟨h1, h2, h3⟩ := startSlew_spec x (sampledPlain x at_ m)
    exact ⟨h1, h2, h3.trans (by rw [hg _ (by decide)])⟩
  · rw [returningSample_steps hns (by rw [hg _ (by decide)]; omega) (by rw [hforce]; exact hd)]
    exact ⟨rfl, rfl, rfl⟩

/-- What a sample leaves, in each state of the servo (R336 to R341). -/
def SampleTaken (m : Mach) (x at_ : Int) (t : Mach) : Prop :=
  let v := m.time.servo
  let d : Int := match v.lastAt with | some a => max 100000 (at_ - a) | none => 100000
  let r := clampI (rnd (x * 1000000000) d) (-1000000) 1000000
  let i := clampI (v.integ - rnd ((m.g R.TIM_SRV_KI_KI : Int) * r) 65536) (-1000000) 1000000
  let y := clampI (i - rnd ((m.g R.TIM_SRV_KP_KP : Int) * r) 65536) (-1000000) 1000000
  t.time.servo.lastTheta = x ∧ t.time.servo.lastAt = some at_ ∧ t.time.holdFrom = m.elapsed ∧ t.time.n = m.time.n ∧
  t.g R.TIM_SAMPLES = (m.g R.TIM_SAMPLES + 1) % 2 ^ 32 ∧ (ServoRests m → t.time.y = m.time.y ∧ t.time.quality = m.time.quality) ∧
  (ServoRuns m ∧ v.returning = false ∧ (m.time.quality ≠ .locked ∨ x.natAbs ≤ m.g R.TIM_SRV_SPIKE_SPIKE_NS) →
    t.time.y = y ∧ t.time.servo.integ = i ∧ t.time.servo.yAvg = v.yAvg + (y - v.yAvg).fdiv (2 ^ m.g R.TIM_SRV_HOLD_AVG_SHIFT) ∧
    t.time.servo.lockRun = if x.natAbs ≤ m.g R.TIM_SRV_LOCK_LOCK_NS then v.lockRun + 1 else 0) ∧
  (ServoRuns m → m.time.quality = .locked → m.g R.TIM_SRV_SPIKE_SPIKE_NS < x.natAbs → v.spikeRun < m.g R.TIM_SRV_SPIKE_SPIKE_N →
    t.time.y = m.time.y ∧ t.time.quality = .locked ∧ t.time.servo.spikeRun = v.spikeRun + 1 ∧ t.g R.TIM_SPIKES = (m.g R.TIM_SPIKES + 1) % 2 ^ 32) ∧
  (ServoRuns m → m.time.quality ≠ .locked → v.returning = true → m.g R.TIM_SRV_LOCK_LOCK_NS < x.natAbs →
    (x.natAbs ≤ m.g R.TIM_SRV_SLEWMAX_SLEW_MAX → (∃ w ∈ t.time.servo.slew, w.yHold = m.time.y) ∧ t.time.quality = m.time.quality ∧
      t.g R.TIM_SLEWS = (m.g R.TIM_SLEWS + 1) % 2 ^ 32) ∧
    (m.g R.TIM_SRV_SLEWMAX_SLEW_MAX < x.natAbs → x < 0 ∨ x ≤ m.tick.period * 500 ∨ m.on R.TIM_SRV_CFG_FORCE = true →
      t.time.servo.stepNext = some (-x) ∧ t.time.y = m.time.y ∧ t.time.quality = m.time.quality))

theorem servoSample_taken (x at_ : Int) (m : Mach) (h : m.servoOff = false) : SampleTaken m x at_ (servoSample x at_ m) := by
  obtain ⟨h1, h2, h3, h4, h5⟩ := servoSample_sampled (x := x) (at_ := at_) h
  refine ⟨h1, h2, h3, h4, h5, fun ha => ?_, fun ⟨ha, hr, hq⟩ => servoSample_plain h ha hr hq, fun ha hq hx hn => servoSample_spike h ha hq hx hn,
    fun ha hq hr hl => servoSample_returning h ha hq hr hl⟩
  rw [servoSample_rests h ha]
  exact ⟨rfl, rfl⟩

theorem enterHoldover_spec (spikes : Bool) (m : Mach) :
    let t := enterHoldover spikes m
    t.time.quality = .holdover ∧ t.time.y = m.time.servo.yAvg ∧ t.time.servo.integ = (if spikes then m.time.servo.integ else m.time.servo.yAvg) ∧
    t.time.servo.returning = true ∧ t.g R.TIM_HOLDOVERS = (m.g R.TIM_HOLDOVERS + 1) % 2 ^ 32 ∧ t.time.n = m.time.n ∧ t.time.stepSum = m.time.stepSum := by
  intro t
  have h : StatusOnly (holding spikes m) t := enterHoldover_status m spikes
  have hq : t.time.quality = .holdover := setQuality_quality _ _
  have ht := h.time
  rw [hq] at ht
  refine ⟨hq, h.y, ?_, ?_, ?_, h.n, ?_⟩
  · rw [ht]; rfl
  · rw [ht]; rfl
  · rw [h.g _ (by decide) (by decide)]
    exact g_inc_word _ _ rfl rfl
  · rw [ht]; rfl

section
variable {m : Mach}

theorem holdTimeout_idle (h : m.servoOff = true ∨ (m.time.quality ≠ .locked ∧ m.time.quality ≠ .stepped)) : holdTimeout m = m :=
  if_neg (by
    rcases h with h | ⟨h1, h2⟩
    · simp [h]
    · simp [h1, h2])

theorem slewEnd_none (h : m.time.servo.slew = none) : slewEnd m = m := by
  unfold slewEnd
  rw [h]

/-- The end of a slew, at its instant. -/
def slewEnded (w : Slew) (m1 : Mach) : Mach :=
  let m2 := m1.onTime fun t => { t with y := w.yHold, servo := { t.servo with integ := w.yHold, slew := none } }
  m2.timeStatus m2.time.servo.lastTheta m2.time.quality m2.time.quality m2.srvSource 3 0

theorem slewEnd_some {w : Slew} (h : m.time.servo.slew = some w) : slewEnd m = slewEnded w (m.runToElapsed w.endsAt) := by
  unfold slewEnd
  rw [h]
  rfl

theorem slewEnded_recOnly (w : Slew) (m1 : Mach) :
    RecOnly (m1.onTime fun t => { t with y := w.yHold, servo := { t.servo with integ := w.yHold, slew := none } }) (slewEnded w m1) :=
  timeStatus_recOnly ..

end
end Mach

section
variable (s : State)

theorem servoOffsetWrite_lost (hi : Word) (h : s.g R.TIM_SRV_CFG_SRC ≠ 0) :
    Does (.servoOffsetWrite hi) s fun t =>
      t.g R.TIM_STAT_SAMPLE_LOST = 1 ∧ RegsBut [R.TIM_STAT_SAMPLE_LOST.a] s.toMach t ∧ OnlyIn [.regs] s.toMach t :=
  does_of_act (f := Mach.servoOffset hi) rfl (if_neg h)
    ⟨Mach.g_set1 s.toMach _ rfl (by decide), Mach.RegsBut.put s.toMach _ 1, (Mach.set1_within _ s.toMach).parts⟩

theorem servoOffset_sample (hi : Word) (h : s.g R.TIM_SRV_CFG_SRC = 0) :
    Mach.servoOffset hi s.toMach = Mach.servoSample (toSigned 64 ((s.rd R.TIM_SRV_OFS_LO_A).toNat + hi.toNat * 2 ^ 32)) s.time.n s.toMach := if_pos h

theorem takes_sample {c : Instr} {f : Mach → Mach} (x at_ : Int) (hx : exec c s = s.act f) (hf : f s.toMach = Mach.servoSample x at_ s.toMach)
    (h : s.servoOff = false) :
    Does c s fun t => Mach.SampleTaken s.toMach x at_ t ∧ OnlyIn [.regs, .time, .tick, .jnl, .cache, .draws] s.toMach t :=
  does_of_act hx hf ⟨Mach.servoSample_taken x at_ s.toMach h, (Mach.servoSample_within x at_ s.toMach).parts⟩

theorem servoSample_off (x at_ : Int) (m : Mach) (h : m.servoOff = true) : Mach.servoSample x at_ m = m := if_pos h

theorem ppsInEdge_idle (h : s.g R.TIM_SRV_CFG_SRC ≠ 2 ∨ s.servoOff = true) : Mach.ppsIn s.toMach = s.toMach := by
  unfold Mach.ppsIn
  dsimp only
  split
  · next h2 => exact servoSample_off _ _ _ (h.resolve_left (not_not.mpr h2))
  · rfl

theorem servoEnWrite_on :
    Does (.servoEnWrite true) s fun t => t.g R.TIM_SRV_CFG_EN = 1 ∧ RegsBut [R.TIM_SRV_CFG_EN.a] s.toMach t ∧ OnlyIn [.regs] s.toMach t :=
  does_of_act (f := Mach.servoEn true) rfl rfl
    ⟨Mach.g_put_self s.toMach _ 1 (by decide) (by decide), Mach.RegsBut.put s.toMach _ 1, OnlyIn.put s.toMach _ 1⟩

theorem servoEnWrite_off :
    Does (.servoEnWrite false) s fun t =>
      t.g R.TIM_SRV_CFG_EN = 0 ∧ t.time.quality = .free ∧ t.time.y = s.time.y ∧ t.time.n = s.time.n ∧ OnlyIn [.regs, .time, .tick, .jnl, .cache] s.toMach t := by
  have hs := Mach.setQuality_status ((s.toMach.put R.TIM_SRV_CFG_EN 0).onServo fun v => { v with returning := true, lockRun := 0, spikeRun := 0 }) .free
  refine does_of_act (f := Mach.servoEn false) rfl rfl ⟨?_, Mach.setQuality_quality _ _, hs.y, hs.n, (Mach.servoEn_within false s.toMach).parts⟩
  exact (hs.g _ (by decide) (by decide)).trans (Mach.g_put_self s.toMach _ 0 (by decide) (by decide))

theorem holdoverTimeout_enters (ho : s.servoOff = false) (hq : s.time.quality = .locked ∨ s.time.quality = .stepped) :
    Does .holdoverTimeout s fun t =>
      s.time.holdFrom + atLeast1 (s.g R.TIM_SRV_HOLD_HOLD_TIMEOUT) * 1000000 ≤ t.elapsed ∧ t.time.quality = .holdover ∧ t.time.y = s.time.servo.yAvg ∧
      t.time.servo.integ = s.time.servo.yAvg ∧ t.time.servo.returning = true ∧ t.g R.TIM_HOLDOVERS = (s.g R.TIM_HOLDOVERS + 1) % 2 ^ 32 ∧
      OnlyIn [.regs, .time, .tick, .enc, .jnl, .cache] s.toMach t := by
  have hwithin := (Mach.holdTimeout_within s.toMach).parts
  have hx : Mach.holdTimeout s.toMach =
      (s.toMach.runToElapsed (s.time.holdFrom + atLeast1 (s.g R.TIM_SRV_HOLD_HOLD_TIMEOUT) * 1000000)).enterHoldover false :=
    if_pos (by rcases hq with hq | hq <;> simp [ho, hq])
  rw [hx] at hwithin
  have hc := Mach.runToElapsed_clockOnly (s.time.holdFrom + atLeast1 (s.g R.TIM_SRV_HOLD_HOLD_TIMEOUT) * 1000000) s.toMach
  have hr := Mach.runToElapsed_reaches s.toMach (s.time.holdFrom + atLeast1 (s.g R.TIM_SRV_HOLD_HOLD_TIMEOUT) * 1000000)
  generalize s.toMach.runToElapsed (s.time.holdFrom + atLeast1 (s.g R.TIM_SRV_HOLD_HOLD_TIMEOUT) * 1000000) = m1 at hx hwithin hc hr
  have hservo : m1.time.servo = s.time.servo := by rw [hc.time]
  obtain ⟨h1, h2, h3, h4, h5, h6, h7⟩ := Mach.enterHoldover_spec false m1
  refine does_of_act (f := Mach.holdTimeout) rfl hx ⟨?_, h1, h2.trans (by rw [hservo]), h3.trans (by rw [hservo]; rfl), h4, ?_, hwithin⟩
  · unfold Mach.elapsed at hr ⊢
    rw [h6, h7]
    exact hr
  · rw [h5, hc.g _ (by decide)]

theorem slewEnd_ends {w : Slew} (hw : s.time.servo.slew = some w) :
    Does .slewEnd s fun t =>
      w.endsAt ≤ t.elapsed ∧ t.time.y = w.yHold ∧ t.time.servo.integ = w.yHold ∧ t.time.servo.slew = none ∧ t.time.quality = s.time.quality ∧
      OnlyIn [.regs, .time, .tick, .enc, .jnl, .cache] s.toMach t := by
  have hwithin := (Mach.slewEnd_within s.toMach).parts
  have hx := Mach.slewEnd_some (m := s.toMach) hw
  rw [hx] at hwithin
  have hc := Mach.runToElapsed_clockOnly w.endsAt s.toMach
  have hr := Mach.runToElapsed_reaches s.toMach w.endsAt
  generalize s.toMach.runToElapsed w.endsAt = m1 at hx hwithin hc hr
  have hq : m1.time.quality = s.time.quality := by rw [hc.time]
  have htime : (Mach.slewEnded w m1).time = { m1.time with y := w.yHold, servo := { m1.time.servo with integ := w.yHold, slew := none } } :=
    (Mach.slewEnded_recOnly w m1).parts .time (by decide)
  refine does_of_act (f := Mach.slewEnd) rfl hx ⟨?_, ?_, ?_, ?_, ?_, hwithin⟩
  · unfold Mach.elapsed at hr ⊢
    rw [htime]
    exact hr
  · rw [htime]
  · rw [htime]
  · rw [htime]
  · rw [htime]
    exact hq

theorem timSrvLastRead_latches :
    Does .timSrvLastRead s fun t =>
      t.g64 R.TIM_SRV_LAST_LO_A R.TIM_SRV_LAST_HI_A = toBits 64 s.time.servo.lastTheta ∧
      t.out = .readValue R.TIM_SRV_LAST_LO_A (BitVec.ofNat 32 (toBits 64 s.time.servo.lastTheta)) :: s.out ∧
      RegsBut [R.TIM_SRV_LAST_LO_A, R.TIM_SRV_LAST_HI_A] s.toMach t ∧ OnlyIn [.regs, .out] s.toMach t :=
  latched_read s (f := Mach.srvLastRead) s.time.servo.lastTheta (by decide) rfl rfl

end

/-- Settles O38. -/
theorem servoDisciplinesTheClock : Obligations.ServoDisciplinesTheClock := by
  intro s hi
  refine ⟨servoOffsetWrite_lost s hi, fun hs ho => idles_of_act (f := Mach.servoOffset hi) rfl ((servoOffset_sample s hi hs).trans (servoSample_off _ _ _ ho)),
    fun hs ho => takes_sample s (f := Mach.servoOffset hi) _ _ rfl (servoOffset_sample s hi hs) ho,
    fun h => idles_of_act (f := Mach.ppsIn) rfl (ppsInEdge_idle s h), fun hs ho => takes_sample s (f := Mach.ppsIn) _ _ rfl (if_pos hs) ho,
    servoEnWrite_on s, servoEnWrite_off s, fun h => idles_of_act (f := Mach.holdTimeout) rfl (Mach.holdTimeout_idle h), holdoverTimeout_enters s,
    fun h => idles_of_act (f := Mach.slewEnd) rfl (Mach.slewEnd_none h), fun w hw => slewEnd_ends s hw, timSrvLastRead_latches s⟩

end Sys2Proof.Machine

namespace Sys2Proof.Machine

set_option Elab.async false

/-! ## The running tick and the clock

Most functions of the model leave the number and the start of the running tick, the list of the accounts, and the clock alone: `Paced`. -/

/-- What names an account: its tick, its ends, and whether it produces work. -/
def acctKey (a : TickAcct) : Nat × Int × Option Int × Int × Bool × Bool := (a.tn, a.start, a.tEnd, a.graceFrom, a.works, a.jump)

/-- The tick unit without the accounts, the watchdog and the counts of the summaries. -/
def pacedTick (t : TickUnit) : TickUnit :=
  { t with accts := [], refusedCarry := Vector.replicate 8 0, wdogArmed := false, wdogCount := 0, lastSum := Vector.replicate 8 none }

/-- The clock without the trigger outputs. -/
def pacedTime (t : TimeUnit) : TimeUnit := { t with trigOut := Vector.replicate 8 {} }

/-- The running tick, the accounts' names and the clock. -/
def Mach.pace (m : Mach) : TickUnit × List (Nat × Int × Option Int × Int × Bool × Bool) × TimeUnit :=
  (pacedTick m.tick, m.tick.accts.map acctKey, pacedTime m.time)

/-- The running tick, the accounts' names and the clock are the same. -/
structure Paced (a b : Mach) : Prop where
  pace : b.pace = a.pace

namespace Paced

variable {a b c : Mach}

theorem refl (a : Mach) : Paced a a := ⟨rfl⟩

theorem trans (h1 : Paced a b) (h2 : Paced b c) : Paced a c := ⟨h2.pace.trans h1.pace⟩

theorem after (h2 : Paced b c) (h1 : Paced a b) : Paced a c := h1.trans h2

theorem of_parts (ht : b.tick = a.tick) (hn : b.time = a.time) : Paced a b := by
  refine ⟨?_⟩
  unfold Mach.pace
  rw [ht, hn]

theorem of_within {l : List Part} (h : Within l a b) (ht : Part.tick ∉ l := by decide) (hn : Part.time ∉ l := by decide) : Paced a b :=
  of_parts (h.parts .tick ht) (h.parts .time hn)

theorem of_eq (a b : Mach) (ht : b.tick = a.tick := by rfl) (hn : b.time = a.time := by rfl) : Paced a b := of_parts ht hn

theorem of_actOnly (h : ActOnly a b) : Paced a b := by
  refine ⟨?_⟩
  unfold Mach.pace
  rw [h.tick, h.time]
  rfl

theorem of_recOnly (h : RecOnly a b) : Paced a b := of_actOnly (.ofRec h)

theorem loop {α : Type} {xs : List α} {f : α → Mach → Mach} {m : Mach} (h : ∀ x t, Paced t (f x t)) (hm : Paced a m) : Paced a (forEach xs f m) :=
  forEach_keeps (Paced a) xs f (fun x t ht => ht.trans (h x t)) m hm

theorem foldl {α : Type} {m : Mach} {xs : List α} {f : Mach → α → Mach} (h : ∀ t x, Paced t (f t x)) (hm : Paced a m) : Paced a (xs.foldl f m) := by
  induction xs generalizing m with
  | nil => exact hm
  | cons x r ih => exact ih (hm.trans (h m x))

/-- The second component of a pair that is known. -/
theorem snd {α : Type} {p : α × Mach} {x : α} (he : p = (x, c)) (h : Paced b p.2) : Paced b c := by
  rwa [he] at h

/-- The third component of a triple that is known. -/
theorem snd_snd {α β : Type} {p : α × β × Mach} {x : α} {y : β} (he : p = (x, y, c)) (h : Paced b p.2.2) : Paced b c := by
  rwa [he] at h

/-- The first component of a pair that is known. -/
theorem fst {α : Type} {p : Mach × α} {x : α} (he : p = (c, x)) (h : Paced b p.1) : Paced b c := by
  rwa [he] at h

/-- A fold that carries a value beside the package. -/
theorem foldl_snd {α β : Type} {i : β × Mach} {xs : List α} {f : β × Mach → α → β × Mach} (h : ∀ s x, Paced s.2 (f s x).2) (hi : Paced a i.2) :
    Paced a (xs.foldl f i).2 := by
  induction xs generalizing i with
  | nil => exact hi
  | cons x r ih => exact ih (hi.trans (h i x))

/-- A fold that carries a value behind the package. -/
theorem foldl_fst {α β : Type} {i : Mach × β} {xs : List α} {f : Mach × β → α → Mach × β} (h : ∀ s x, Paced s.1 (f s x).1) (hi : Paced a i.1) :
    Paced a (xs.foldl f i).1 := by
  induction xs generalizing i with
  | nil => exact hi
  | cons x r ih => exact ih (hi.trans (h i x))

theorem tick (h : Paced a b) : pacedTick b.tick = pacedTick a.tick := congrArg Prod.fst h.pace
theorem time (h : Paced a b) : pacedTime b.time = pacedTime a.time := congrArg (fun x => x.2.2) h.pace
theorem keys (h : Paced a b) : b.tick.accts.map acctKey = a.tick.accts.map acctKey := congrArg (fun x => x.2.1) h.pace
theorem tn (h : Paced a b) : b.tick.tn = a.tick.tn := (congrArg TickUnit.tn h.tick :)
theorem start (h : Paced a b) : b.tick.start = a.tick.start := (congrArg TickUnit.start h.tick :)
theorem lastDone (h : Paced a b) : b.tick.lastDone = a.tick.lastDone := (congrArg TickUnit.lastDone h.tick :)
theorem n (h : Paced a b) : b.time.n = a.time.n := (congrArg TimeUnit.n h.time :)
theorem stepSum (h : Paced a b) : b.time.stepSum = a.time.stepSum := (congrArg TimeUnit.stepSum h.time :)

theorem elapsed (h : Paced a b) : b.elapsed = a.elapsed := by
  unfold Mach.elapsed
  rw [h.n, h.stepSum]

theorem accts_length (h : Paced a b) : b.tick.accts.length = a.tick.accts.length := by
  simpa using congrArg List.length h.keys

/-- An account of the first package is one of the second, by its tick. -/
theorem acct?_isSome (h : Paced a b) (n : Nat) : (b.acct? n).isSome = (a.acct? n).isSome := by
  have hk : ∀ m : Mach, (m.acct? n).isSome = (m.tick.accts.map acctKey).any fun k => k.1 == n := fun m => by
    unfold Mach.acct?
    rw [List.any_map, List.isSome_find?]
    rfl
  rw [hk, hk, h.keys]

end Paced

/-- Of the tick unit only the counts of refused records differ, and the clock is the same. -/
structure Recorded (a b : Mach) : Prop where
  tick : b.tick = { a.tick with refusedCarry := b.tick.refusedCarry }
  time : b.time = a.time

namespace Recorded

variable {a b c : Mach}

theorem refl (a : Mach) : Recorded a a := ⟨rfl, rfl⟩

theorem after (h2 : Recorded b c) (h1 : Recorded a b) : Recorded a c := ⟨by rw [h2.tick, h1.tick], h2.time.trans h1.time⟩

theorem of_within {l : List Part} (h : Within l a b) (ht : Part.tick ∉ l := by decide) (hn : Part.time ∉ l := by decide) : Recorded a b := by
  have hk : b.tick = a.tick := h.parts .tick ht
  exact ⟨by rw [hk], h.parts .time hn⟩

theorem of_recOnly (h : RecOnly a b) : Recorded a b := ⟨h.tick, h.parts .time (by decide)⟩

theorem loop {α : Type} {xs : List α} {f : α → Mach → Mach} {m : Mach} (h : ∀ x t, Recorded t (f x t)) (hm : Recorded a m) : Recorded a (forEach xs f m) :=
  forEach_keeps (Recorded a) xs f (fun x t ht => (h x t).after ht) m hm

theorem snd {α : Type} {p : α × Mach} {x : α} (he : p = (x, c)) (h : Recorded b p.2) : Recorded b c := by
  rwa [he] at h

theorem wdogCount (h : Recorded a b) : b.tick.wdogCount = a.tick.wdogCount := by rw [h.tick]
theorem lastSum (h : Recorded a b) : b.tick.lastSum = a.tick.lastSum := by rw [h.tick]

end Recorded

theorem Paced.of_recorded {a b : Mach} (h : Recorded a b) : Paced a b := by
  refine ⟨?_⟩
  unfold Mach.pace
  rw [h.tick, h.time]
  rfl

namespace Mach

/-! ### Records of missed ticks -/

theorem write'_recorded (f : Fin 8) (b : Body) (flags : Nat) (m : Mach) : Recorded m (m.write' f b flags) := .of_recOnly (write'_recOnly f b flags m)

theorem writeGap_recorded (p : Fin 16) (k2 : ℤ) (tEnd : ℤ) (isOpen : Bool) (m : Mach) : Recorded m (writeGap p k2 tEnd isOpen m) := by
  unfold writeGap
  split
  · exact Recorded.refl _
  · split
    rename_i x em m1 heq
    extract_lets from_ to_ b m2
    exact (write'_recorded _ _ _ _).after <| (Recorded.of_within (onFus_within _ _)).after <| (Recorded.snd heq (Recorded.of_within (mdThen_within _ _))).after <| .refl _

theorem gapPort_recorded (a : TickAcct) (p : Fin 16) (m : Mach) : Recorded m (gapPort a p m) := by
  unfold gapPort
  extract_lets n tEnd m1 m2 m3
  have hm1 : Recorded m m1 := by
    unfold m1
    split
    · exact (Recorded.of_within (takeMdStart_within _ _ _)).after <| (writeGap_recorded _ _ _ _ _).after <| .refl _
    · exact Recorded.refl _
  have hm2 : Recorded m m2 := by
    unfold m2
    split
    · split
      · exact (Recorded.of_within (extendRun_within _ _ _ _ _)).after <| hm1
      · exact hm1
    · exact hm1
  split
  · split
    · exact hm1
    · exact (Recorded.of_within (onFus_within _ _)).after <| (writeGap_recorded _ _ _ _ _).after <| hm1
  · split
    · exact (Recorded.of_within (takeMdStart_within _ _ _)).after <| (writeGap_recorded _ _ _ _ _).after <| hm2
    · split
      · split
        · exact (writeGap_recorded _ _ _ _ _).after <| (Recorded.of_within (extendRun_within _ _ _ _ _)).after <| hm2
        · exact (Recorded.of_within (extendRun_within _ _ _ _ _)).after <| hm2
      · exact (Recorded.of_within (extendRun_within _ _ _ _ _)).after <| hm2

theorem gapAll_recorded (a : TickAcct) (m : Mach) : Recorded m (gapAll a m) := by
  unfold gapAll
  split
  · refine Recorded.loop (fun x t => ?_) ?_
    · split
      · exact (Recorded.of_within (extendRun_within _ _ _ _ _))
      · exact Recorded.refl _
    · exact Recorded.refl _
  · exact Recorded.loop (fun x t => (gapPort_recorded _ _ _)) (Recorded.refl _)

theorem handoffGaps_recorded (a : TickAcct) (m : Mach) : Recorded m (handoffGaps a m) := by
  unfold handoffGaps
  refine Recorded.loop (fun x t => ?_) ?_
  · split
    rename_i x1 md t2 heq
    split
    rename_i x2 md1 t21 heq1
    split
    rename_i x3 md2 t22 heq2
    split
    rename_i x4 md3 t23 heq3
    exact (write'_recorded _ _ _ _).after <| (Recorded.snd heq3 (Recorded.of_within (drawInt_within _))).after <| (Recorded.snd heq2 (Recorded.of_within (drawInt_within _))).after <| (Recorded.snd heq1 (Recorded.of_within (drawInt_within _))).after <| (Recorded.snd heq (Recorded.of_within (drawInt_within _))).after <| .refl _
  · exact Recorded.refl _

theorem onTime_paced {m : Mach} {f : TimeUnit → TimeUnit} (h : ∀ t, pacedTime (f t) = pacedTime t := by intro t; rfl) : Paced m (m.onTime f) := by
  refine ⟨?_⟩
  unfold pace
  rw [onTime_tick, onTime_time, h]

theorem onTrig_paced {m : Mach} {o : Fin 8} {f : TrigOut → TrigOut} : Paced m (m.onTrig o f) := ⟨rfl⟩

theorem onTick_paced {m : Mach} {f : TickUnit → TickUnit} (h : ∀ t, pacedTick (f t) = pacedTick t := by intro t; rfl)
    (hk : ∀ t, (f t).accts = t.accts := by intro t; rfl) : Paced m (m.onTick f) := by
  refine ⟨?_⟩
  unfold pace
  rw [onTick_tick, onTick_time, h, hk]

theorem onAcct_paced {m : Mach} {n : Nat} {f : TickAcct → TickAcct} (h : ∀ a, acctKey (f a) = acctKey a := by intro a; rfl) : Paced m (m.onAcct n f) := by
  have hk : ((m.onAcct n f).tick.accts).map acctKey = m.tick.accts.map acctKey := by
    unfold onAcct
    rw [List.map_map]
    refine List.map_congr_left fun a _ => ?_
    dsimp only [Function.comp]
    split
    · exact h a
    · rfl
  refine ⟨?_⟩
  unfold pace
  rw [hk]
  rfl

theorem onEng_paced {m : Mach} {e : Fin 72} {f : Engine → Engine} : Paced m (m.onEng e f) := .of_parts rfl rfl
theorem onLvl_paced {m : Mach} {d : Fin 4} {f : DieLevel → DieLevel} : Paced m (m.onLvl d f) := .of_parts rfl rfl

/-! ### The functions that leave the running tick and the clock alone -/

theorem endQueued_pacedLoop {a m : Mach} {one : Desc → Mach → Mach} {e : Fin 72} {which : Desc → Bool} (h : ∀ d t, Paced t (one d t)) (hm : Paced a m) :
    Paced a (endQueued one e which m) := by
  unfold endQueued
  extract_lets x m3
  have hm3 : Paced a m3 := Paced.loop h (hm.trans onEng_paced)
  clear_value m3
  split
  · rename_i r _
    split
    · have hm4 : Paced a (m3.closeWork e r.desc).2 := (Paced.of_within (closeWork_within e r.desc m3)).after hm3
      exact (h _ _).after ((Paced.of_within (dropLayers_within _ _)).after (onEng_paced.after hm4))
    · exact hm3
  · exact hm3

theorem endDescs_pacedLoop {a m : Mach} {one : Desc → Mach → Mach} {e : Fin 72} {which : Desc → Bool} (h : ∀ d t, Paced t (one d t)) (hm : Paced a m) :
    Paced a (endDescs one e which m) := by
  unfold endDescs
  extract_lets held m1
  have hm1 : Paced a m1 := Paced.trans hm (.of_eq _ _)
  exact (Paced.of_within (pumpHeld_within _ _)).after (Paced.loop h (endQueued_pacedLoop h hm1))

theorem spend_paced (tn : ℕ) (c : ℤ) (m : Mach) : Paced m (spend tn c m) := by
  unfold spend
  exact (onAcct_paced)

theorem addBad_paced (tn : Nat) (p : Nat) (cause : Nat) (m : Mach) : Paced m (addBad tn p cause m) :=
  onAcct_paced fun a => by split <;> rfl

theorem classLost_paced (d : Desc) (m : Mach) : Paced m (classLost d m) := by
  unfold classLost
  extract_lets m1
  exact (Paced.of_within (onCurd_within _ _ _ _ _)).after <| (addBad_paced _ _ _ _).after <| (onAcct_paced).after <| (spend_paced _ _ _).after <| (Paced.of_within (debitNj_within _ _ _)).after <| .refl _

theorem abandonDesc_paced (e : Fin 72) (d : Desc) (m : Mach) : Paced m (abandonDesc e d m) := by
  unfold abandonDesc
  exact (classLost_paced _ _).after <| (Paced.of_within (set1_within _ _)).after <| (Paced.of_within (inc_within _ _)).after <| .refl _

theorem abandonEng_paced (e : Fin 72) (which : Desc → Bool) (m : Mach) : Paced m (abandonEng e which m) := by
  unfold abandonEng
  exact endDescs_pacedLoop (fun d t => (abandonDesc_paced _ _ _)) (Paced.refl _)

theorem refuseCurd_paced (n : ℕ) (p : Fin 16) (c : Curd) (m : Mach) : Paced m (refuseCurd n p c m) := by
  unfold refuseCurd
  extract_lets m1
  have hm1 : Paced m m1 := by
    unfold m1
    split
    · exact (spend_paced _ _ _).after <| (Paced.of_within (debitNj_within _ _ _)).after <| .refl _
    · exact Paced.refl _
  exact (Paced.of_within (onCurd_within _ _ _ _ _)).after <| (addBad_paced _ _ _ _).after <| (onAcct_paced).after <| hm1

theorem armWdog_paced (m : Mach) : Paced m m.armWdog := onTick_paced

theorem abandonEntry_paced (m : Mach) : Paced m (abandonEntry m) := by
  unfold abandonEntry
  exact (armWdog_paced _).after <| (Paced.of_within (onSleep_within _ _)).after <| .refl _

theorem endPopTick_paced (f : Fin 8) (tn : ℕ) (m : Mach) : Paced m (endPopTick f tn m) := by
  unfold endPopTick
  extract_lets est work act m1
  have hm1 : Paced m m1 := by
    unfold m1
    exact Paced.loop (fun x t => (Paced.of_within (rawWork_within _ _ _ _))) ((spend_paced _ _ _).after <| (Paced.of_within (debitNj_within _ _ _)).after <| .refl _)
  exact (Paced.of_within (onFn_within _ _ _)).after <| (Paced.of_within (onLed_within _ _)).after <| hm1

theorem abandonPop_paced (f : Fin 8) (tn : ℕ) (i : ℕ) (m : Mach) : Paced m (abandonPop f tn i m) := by
  unfold abandonPop
  exact (endPopTick_paced _ _ _).after <| (Paced.of_within (lostPhases_within _ _ _ _)).after <| (Paced.of_within (drainSpikes_within _ _)).after <| .refl _

theorem countRefused_paced (cls : ℕ) (m : Mach) : Paced m (countRefused cls m) := by
  unfold countRefused
  extract_lets f
  exact (onTick_paced).after <| (Paced.of_within (inc_within _ _)).after <| .refl _

theorem admitRec_paced (f : Fin 8) (b : Body) (flags : ℕ) (m : Mach) : Paced m (admitRec f b flags m).2 := by
  unfold admitRec
  split
  · exact Paced.refl _
  · extract_lets cls bank slotNeed s
    split
    rename_i x fst m1 heq
    split
    · exact (countRefused_paced _ _)
    · split
      · refine (countRefused_paced _ _).after <| ?_
        have hm1 : Paced m m1 := by
          refine Paced.snd heq ?_
          split
          · exact (Paced.of_within (freeEarly_within _ _))
          · exact Paced.refl _
        exact hm1
      · split
        · refine (countRefused_paced _ _).after <| ?_
          have hm1 : Paced m m1 := by
            refine Paced.snd heq ?_
            split
            · exact (Paced.of_within (freeEarly_within _ _))
            · exact Paced.refl _
          exact hm1
        · extract_lets m2 copies n slot r m3
          have hm2 : Paced m m2 := by
            unfold m2
            refine (Paced.of_within (writeCopies_within _ _)).after <| ?_
            have hm1 : Paced m m1 := by
              refine Paced.snd heq ?_
              split
              · exact (Paced.of_within (freeEarly_within _ _))
              · exact Paced.refl _
            exact hm1
          split
          · exact (countRefused_paced _ _).after <| hm2
          · exact (Paced.of_within (inc_within _ _)).after <| (Paced.of_within (onJnl_within _ _)).after <| (Paced.of_within (scDrop_within _ _)).after <| hm2

theorem admitAll_paced (b : Body) (flags : ℕ) (m : Mach) : Paced m (admitAll b flags m) := by
  unfold admitAll
  exact Paced.loop (fun x t => (admitRec_paced _ _ _ _)) (Paced.refl _)

theorem sayLost_paced (m : Mach) : Paced m (sayLost m) := by
  unfold sayLost
  refine Paced.loop (fun x t => ?_) ?_
  · extract_lets t1 bank
    split
    · exact (Paced.of_within (syncDelivery_within _)).after <| (Paced.of_within (onJnl_within _ _)).after <| (admitAll_paced _ _ _).after <| (Paced.of_within (onJnl_within _ _)).after <| .refl _
    · exact (admitAll_paced _ _ _).after <| (Paced.of_within (onJnl_within _ _)).after <| .refl _
  · exact Paced.refl _

theorem onceHealth_paced (h : HCode) (u : HUnit) (n : Nat) (m : Mach) : Paced m (m.onceHealth h u n) := .of_recOnly (onceHealth_recOnly h u n m)

theorem afterRefusal_paced (cls : ℕ) (why : Option Refused) (m : Mach) : Paced m (afterRefusal cls why m) := by
  unfold afterRefusal
  split
  · exact (onceHealth_paced _ _ _ _)
  · split
    · exact Paced.refl _
    · exact (onceHealth_paced _ _ _ _)
  · exact Paced.refl _

theorem write_paced (f : Fin 8) (b : Body) (flags : Nat) (m : Mach) : Paced m (m.write f b flags).2 := .of_recOnly (write_recOnly f b flags m)

theorem write'_paced (f : Fin 8) (b : Body) (flags : Nat) (m : Mach) : Paced m (m.write' f b flags) := .of_recOnly (write'_recOnly f b flags m)

theorem missAction_paced (c : MissCause) (a : Action) (m : Mach) : Paced m (m.missAction c a) := .of_actOnly (missAction_actOnly c a m)

theorem fireAction_paced (late also : Bool) (a : Action) (m : Mach) : Paced m (m.fireAction late also a) := .of_actOnly (fireAction_actOnly late also a m)

theorem lateAction_paced (c : MissCause) (a : Action) (m : Mach) : Paced m (m.lateAction c a) := .of_actOnly (lateAction_actOnly c a m)

theorem keepAwake_paced (m : Mach) : Paced m (keepAwake m) := by
  unfold keepAwake
  split
  · exact (abandonEntry_paced _)
  · exact Paced.refl _

theorem programAction_paced (a : Action) (m : Mach) : Paced m (programAction a m).2 := by
  unfold programAction
  extract_lets slot gen a' m1
  split
  · exact (lateAction_paced _ _ _).after <| (keepAwake_paced _).after <| (Paced.of_within (onJnl_within _ _)).after <| .refl _
  · exact (keepAwake_paced _).after <| (Paced.of_within (onJnl_within _ _)).after <| .refl _

theorem admitPop_paced (f : Fin 8) (n : ℕ) (m : Mach) : Paced m (admitPop f n m) := by
  unfold admitPop
  extract_lets c
  exact (Paced.of_within (onLed_within _ _)).after <| (Paced.of_within (onFn_within _ _ _)).after <| (spend_paced _ _ _).after <| (Paced.of_within (debitNj_within _ _ _)).after <| .refl _

theorem admitPops_paced (n : Nat) (m : Mach) : Paced m (admitPops n m).2 := by
  have skip : ∀ (f : Fin 8) (t : Mach), Paced t (t.lostPhases f n 0) := fun f t => (Paced.of_within (lostPhases_within f n 0 t))
  have take : ∀ (f : Fin 8) (t : Mach), Paced t (t.admitPop f n) := fun f t => (admitPop_paced f n t)
  unfold admitPops
  refine Paced.foldl_snd (fun s f => ?_) (Paced.refl _)
  split
  · dsimp only
    exact skip f s.2
  · split
    · exact take f s.2
    · dsimp only
      exact (skip f _).after (Paced.of_within (inc_within _ _))

theorem descStale_paced (e : Fin 72) (d : Desc) (m : Mach) : Paced m (descStale e d m) := by
  unfold descStale
  exact (classLost_paced _ _).after <| (Paced.of_within (set1_within _ _)).after <| (Paced.of_within (inc_within _ _)).after <| .refl _

theorem issue_paced (d : Desc) (m : Mach) : Paced m (issue d m) := by
  unfold issue
  split
  · exact (descStale_paced _ _ _)
  · split
    · exact (descStale_paced _ _ _)
    · extract_lets x
      split
      · refine Paced.after (b := m) (Paced.of_eq _ _) ?_
        exact Paced.refl _
      · exact (onEng_paced)

theorem admitCurd_paced (it : Item) (n : ℕ) (p : Fin 16) (c : Curd) (slot : ℕ) (im : Image) (m : Mach) : Paced m (admitCurd it n p c slot im m) := by
  unfold admitCurd
  extract_lets est m1
  split
  · exact (issue_paced _ _).after <| (Paced.of_within (onCurd_within _ _ _ _ _)).after <| (spend_paced _ _ _).after <| (Paced.of_within (debitNj_within _ _ _)).after <| .refl _
  · exact (Paced.of_within (onCurd_within _ _ _ _ _)).after <| (spend_paced _ _ _).after <| (Paced.of_within (debitNj_within _ _ _)).after <| .refl _

theorem admitCurds_paced (it : Item) (shed : Fld) (n : ℕ) (open_ : Bool) (l : List (Fin 16 × Curd × ℕ × Image)) (m : Mach) : Paced m (admitCurds it shed n open_ l m) := by
  unfold admitCurds
  refine Paced.foldl_snd (fun s x => ?_) ?_
  · split
    · exact (refuseCurd_paced _ _ _ _)
    · extract_lets est
      split
      · exact (admitCurd_paced _ _ _ _ _ _ _)
      · exact (refuseCurd_paced _ _ _ _).after <| (Paced.of_within (inc_within _ _)).after <| .refl _
  · exact Paced.refl _

theorem admitCal_paced (n : ℕ) (m : Mach) : Paced m (admitCal n m) := by
  unfold admitCal
  split
  · exact Paced.refl _
  · split
    rename_i x v m1 heq
    split
    · exact (onAcct_paced).after <| (spend_paced _ _ _).after <| (Paced.of_within (debitNj_within _ _ _)).after <| (Paced.snd heq (Paced.of_within (drawNat_within _))).after <| .refl _
    · exact (Paced.of_within (inc_within _ _)).after <| (Paced.snd heq (Paced.of_within (drawNat_within _))).after <| .refl _

theorem writeAll_paced (b : Body) (flags : Nat) (m : Mach) : Paced m (m.writeAll b flags) := .of_recOnly (writeAll_recOnly b flags m)

theorem health_paced (h : HCode) (u : HUnit) (d : List Nat) (m : Mach) : Paced m (m.health h u d) := .of_recOnly (health_recOnly h u d m)

theorem retire_paced (x : FuseCtx) (k : Nat) (t : Track) (q : Pred) (why : Leave) (s : FuseOut × Mach) :
    Paced s.2 (retire x k t q why s).2 :=
  (Paced.of_within (inc_within _ _)).after <| (Paced.of_within (dropTrack_within _ _)).after (Paced.of_within (kinAge'_within _ _ _ _))

theorem applyFate_paced (x : FuseCtx) (ms : List Meas) (k : Nat) (t : Track) (q : Pred) (fate : Fate) (s : FuseOut × Mach) :
    Paced s.2 (applyFate x ms k t q fate s).2 := by
  unfold applyFate
  cases fate with
  | stay => exact (Paced.of_within (setTrack_within _ _ _))
  | upd i =>
    dsimp only
    split
    · exact (Paced.of_within (setTrack_within _ _ _))
    · have h0 : ∀ v, Paced s.2 ((s.2.setTrack k v).inc R.FUS_ASSIGNED) :=
        fun v => (Paced.of_within (inc_within _ _)).after (Paced.of_within (setTrack_within _ _ _))
      have h1 : ∀ v b, Paced s.2
          (if b = true then ((s.2.setTrack k v).inc R.FUS_ASSIGNED).inc R.FUS_VIB_STALE else (s.2.setTrack k v).inc R.FUS_ASSIGNED) := by
        intro v b
        split
        · exact (Paced.of_within (inc_within _ _)).after (h0 v)
        · exact h0 v
      have h2 : ∀ v b c f, Paced s.2
          (if c = true then
            ((if b = true then ((s.2.setTrack k v).inc R.FUS_ASSIGNED).inc R.FUS_VIB_STALE
              else (s.2.setTrack k v).inc R.FUS_ASSIGNED).inc R.FUS_CONFIRMED).onFus f
          else
            if b = true then ((s.2.setTrack k v).inc R.FUS_ASSIGNED).inc R.FUS_VIB_STALE else (s.2.setTrack k v).inc R.FUS_ASSIGNED) := by
        intro v b c f
        split
        · exact (Paced.of_within (onFus_within _ _)).after <| (Paced.of_within (inc_within _ _)).after (h1 v b)
        · exact h1 v b
      exact h2 _ _ _ _
  | kin r38 =>
    dsimp only
    have hm0 : Paced s.2 (kinAge' x.tv x.md.isSome t.c.port s.2).2 := (Paced.of_within (kinAge'_within _ _ _ _))
    generalize kinAge' x.tv x.md.isSome t.c.port s.2 = r at hm0 ⊢
    obtain ⟨⟨age, stale⟩, m0⟩ := r
    have h1 : ∀ v, Paced s.2 ((m0.setTrack k v).inc R.FUS_KINEMATIC) :=
      fun v => (Paced.of_within (inc_within _ _)).after <| (Paced.of_within (setTrack_within _ _ _)).after hm0
    have h2 : ∀ v, Paced s.2
        (if stale = true then ((m0.setTrack k v).inc R.FUS_KINEMATIC).inc R.FUS_VIB_STALE else (m0.setTrack k v).inc R.FUS_KINEMATIC) := by
      intro v
      split
      · exact (Paced.of_within (inc_within _ _)).after (h1 v)
      · exact h1 v
    dsimp only
    split
    · exact (onAcct_paced).after (h2 _)
    · exact h2 _
  | miss =>
    dsimp only
    split
    · split
      · exact (Paced.of_within (inc_within _ _)).after (Paced.of_within (dropTrack_within _ _))
      · exact (Paced.of_within (setTrack_within _ _ _))
    · split
      · exact (Paced.of_within (setTrack_within _ _ _))
      · split
        · exact (Paced.of_within (setTrack_within _ _ _))
        · split
          · exact (Paced.of_within (setTrack_within _ _ _))
          · exact (retire_paced _ _ _ _ _ _)

theorem applyRules_paced (f : Fin 8) (tn : ℕ) (tValid : ℤ) (popEnc : Fin 4) (b : Body) (count : ℕ) (m : Mach) : Paced m (applyRules f tn tValid popEnc b count m) := by
  unfold applyRules
  extract_lets rules m1
  split
  · exact Paced.refl _
  · split
    · exact Paced.refl _
    · split
      · exact Paced.refl _
      · split
        extract_lets a
        split
        · exact (Paced.of_within (inc_within _ _)).after <| (write'_paced _ _ _ _).after <| (Paced.of_within (inc_within _ _)).after <| .refl _
        · split
          · exact (Paced.of_within (inc_within _ _)).after <| (write'_paced _ _ _ _).after <| (Paced.of_within (inc_within _ _)).after <| .refl _
          · split
            · exact (Paced.of_within (inc_within _ _)).after <| (write'_paced _ _ _ _).after <| (Paced.of_within (inc_within _ _)).after <| .refl _
            · exact (programAction_paced _ _).after <| (Paced.of_within (inc_within _ _)).after <| .refl _

theorem debit_paced (it : Item) (k : Work) (d : Fin 4) (n : ℕ) (tn : ℕ) (m : Mach) : Paced m (debit it k d n tn m) := by
  unfold debit
  extract_lets c
  exact (Paced.of_within (rawWork_within _ _ _ _)).after <| (spend_paced _ _ _).after <| (Paced.of_within (debitNj_within _ _ _)).after <| .refl _

theorem dropClasses_paced (a : TickAcct) (m : Mach) : Paced m (dropClasses a m) := by
  unfold dropClasses
  extract_lets m1 m2
  have hm1 : Paced m m1 := by
    unfold m1
    exact Paced.loop (fun x t => (abandonEng_paced _ _ _)) ((Paced.of_within (dropTleReqs_within _ _)))
  have hm2 : Paced m m2 := by
    unfold m2
    exact Paced.loop (fun x t => (refuseCurd_paced _ _ _ _)) (hm1)
  split
  · exact hm2
  · exact Paced.loop (fun x t => (refuseCurd_paced _ _ _ _)) (hm2)

theorem dropPhases_paced (a : TickAcct) (m : Mach) : Paced m (dropPhases a m) := by
  unfold dropPhases
  extract_lets m1
  have hm1 : Paced m m1 := by
    unfold m1
    refine Paced.loop (fun x t => ?_) ?_
    · split
      · split
        · exact (abandonPop_paced _ _ _ _)
        · exact Paced.refl _
      · exact Paced.refl _
    · exact Paced.refl _
  split
  · exact hm1
  · exact Paced.loop (fun x t => (Paced.of_within (lostPhases_within _ _ _ _))) (hm1)

theorem noteLate_paced (l : Fin 4) (x : LinkMsg) (r : ℕ) (cid : ℕ) (m : Mach) : Paced m (noteLate l x r cid m) := by
  unfold noteLate
  split
  · extract_lets t
    split
    · exact (Paced.of_within (inc_within _ _))
    · exact (health_paced _ _ _ _).after <| (Paced.of_within (onLink_within _ _ _)).after <| (Paced.of_within (inc_within _ _)).after <| .refl _
  · exact Paced.refl _

theorem takeOffer_paced (l : Fin 4) (x : LinkMsg) (r : ℕ) (tv : ℤ) (per : ℤ) (m : Mach) : Paced m (takeOffer l x r tv per m) := by
  unfold takeOffer
  extract_lets x1 c cid m1 m2
  split
  · exact (Paced.of_within (replyOffer_within _ _ _ _ _ _ _)).after <| (noteLate_paced _ _ _ _ _).after <| (Paced.of_within (inc_within _ _)).after <| (Paced.of_within (freeMsg_within _ _ _)).after <| .refl _
  · split
    · exact (Paced.of_within (replyOffer_within _ _ _ _ _ _ _)).after <| (noteLate_paced _ _ _ _ _).after <| (Paced.of_within (inc_within _ _)).after <| (Paced.of_within (freeMsg_within _ _ _)).after <| .refl _
    · split
      · exact (Paced.of_within (replyOffer_within _ _ _ _ _ _ _)).after <| (Paced.of_within (inc_within _ _)).after <| (noteLate_paced _ _ _ _ _).after <| (Paced.of_within (inc_within _ _)).after <| (Paced.of_within (freeMsg_within _ _ _)).after <| .refl _
      · split
        · exact (Paced.of_within (replyOffer_within _ _ _ _ _ _ _)).after <| (Paced.of_within (inc_within _ _)).after <| (noteLate_paced _ _ _ _ _).after <| (Paced.of_within (inc_within _ _)).after <| (Paced.of_within (freeMsg_within _ _ _)).after <| .refl _
        · extract_lets q near m3
          have hm3 : Paced m m3 := by
            unfold m3
            exact Paced.loop (fun x2 t => (Paced.of_within (dropTrack_within _ _))) ((noteLate_paced _ _ _ _ _).after <| (Paced.of_within (inc_within _ _)).after <| (Paced.of_within (freeMsg_within _ _ _)).after <| .refl _)
          split
          · exact (Paced.of_within (replyOffer_within _ _ _ _ _ _ _)).after <| hm3
          · split
            · exact (Paced.of_within (replyOffer_within _ _ _ _ _ _ _)).after <| (Paced.of_within (setTrack_within _ _ _)).after <| hm3
            · exact (Paced.of_within (replyOffer_within _ _ _ _ _ _ _)).after <| (Paced.of_within (inc_within _ _)).after <| hm3

theorem takeOffers_paced (n : ℕ) (tv : ℤ) (per : ℤ) (m : Mach) : Paced m (takeOffers n tv per m) := by
  unfold takeOffers
  refine Paced.loop (fun x t => ?_) ?_
  · extract_lets mine l0
    exact Paced.loop (fun x1 t1 => (takeOffer_paced _ _ _ _ _ _)) ((Paced.of_within (onLink_within _ _ _)))
  · exact Paced.refl _

theorem takeReply_paced (l : Fin 4) (x : LinkMsg) (r : ℕ) (m : Mach) : Paced m (takeReply l x r m) := by
  unfold takeReply
  extract_lets cid m1 ack
  exact (Paced.of_within (onFus_within _ _)).after <| (noteLate_paced _ _ _ _ _).after <| (Paced.of_within (freeMsg_within _ _ _)).after <| .refl _

theorem takeReplies_paced (n : ℕ) (m : Mach) : Paced m (takeReplies n m) := by
  unfold takeReplies
  refine Paced.loop (fun x t => ?_) ?_
  · extract_lets mine l0
    exact Paced.loop (fun x1 t1 => (takeReply_paced _ _ _ _)) ((Paced.of_within (onLink_within _ _ _)))
  · exact Paced.refl _

theorem measureAll_paced (n : ℕ) (tv : ℤ) (mdv : Option ℤ) (m : Mach) : Paced m (measureAll n tv mdv m).2 := by
  unfold measureAll
  refine Paced.foldl_snd (fun s x => ?_) ?_
  · extract_lets t
    split
    · exact (addBad_paced _ _ _ _).after <| (Paced.of_within (inc_within _ _)).after <| (Paced.of_within (inc_within _ _)).after <| .refl _
    · split
      · rename_i x1 y u heq
        exact (Paced.snd heq (Paced.of_within (measure_within _ _ _ _ _ _))).after <| (Paced.of_within (inc_within _ _)).after <| .refl _
      · rename_i x1 u heq
        exact (Paced.of_within (inc_within _ _)).after <| (Paced.snd heq (Paced.of_within (measure_within _ _ _ _ _ _))).after <| (Paced.of_within (inc_within _ _)).after <| .refl _
      · rename_i x1 u heq
        exact (addBad_paced _ _ _ _).after <| (Paced.of_within (inc_within _ _)).after <| (Paced.snd heq (Paced.of_within (measure_within _ _ _ _ _ _))).after <| (Paced.of_within (inc_within _ _)).after <| .refl _
  · exact Paced.refl _

theorem reportNoMd_paced (a : TickAcct) (m : Mach) : Paced m (reportNoMd a m) := by
  unfold reportNoMd
  extract_lets m1
  have hm1 : Paced m m1 := by
    unfold m1
    exact Paced.loop (fun x t => (addBad_paced _ _ _ _)) ((Paced.of_within (set1_within _ _)))
  exact (health_paced _ _ _ _).after <| hm1

theorem leaveAll_paced (x : FuseCtx) (s : FuseOut × Mach) : Paced s.2 (leaveAll x s).2.2 := by
  unfold leaveAll
  generalize s.2.fus.store = l
  suffices h : ∀ r : List (Nat × Track × Pred) × FuseOut × Mach, Paced s.2 r.2.2 → Paced s.2
      (l.foldl (fun (r : List (Nat × Track × Pred) × FuseOut × Mach) e =>
        let q := r.2.2.predOf x.tv x.per e.2
        if x.late then (r.1 ++ [(e.1, e.2, q)], r.2)
        else
          match r.2.2.leaveOf x e.2 q with
          | (some why, t) => (r.1, retire x e.1 t q why r.2)
          | (none, t) => (r.1 ++ [(e.1, t, q)], r.2)) r).2.2 from h _ (Paced.refl _)
  induction l with
  | nil => exact fun r hr => hr
  | cons e l ih =>
    intro r hr
    refine ih _ ?_
    dsimp only
    split
    · exact hr
    · split
      · exact (retire_paced _ _ _ _ _ _).after hr
      · exact hr

theorem solveBlocks_paced (late : Bool) (ms : List Meas) (bs : List (List GPair)) (i : Nat) (s : Solved × Mach) :
    Paced s.2 (solveBlocks late ms bs i s).2 := by
  induction bs generalizing i s with
  | nil => exact Paced.refl _
  | cons b r ih =>
    unfold solveBlocks
    refine (?_ : Paced s.2 _).trans (ih (i + 1) _)
    dsimp only
    split
    · exact Paced.refl _
    · split
      · exact (Paced.of_within (inc_within _ _))
      · split
        · exact Paced.refl _
        · exact (Paced.of_within (inc_within _ _))

theorem spawn_paced (x : FuseCtx) (i : Nat) (y : Meas) (s : FuseOut × Mach) : Paced s.2 (spawn x i y s).2 := by
  unfold spawn
  dsimp only
  split
  · exact (Paced.of_within (inc_within _ _))
  · split
    · exact Paced.refl _
    · split
      · dsimp only
        split
        · exact (Paced.of_within (inc_within _ _))
        · exact (addBad_paced _ _ _ _).after (Paced.of_within (inc_within _ _))
      · rename_i k _
        have h1 : ∀ f v, Paced s.2 (((s.2.onFus f).setTrack k v).inc R.FUS_SPAWNED) :=
          fun f v => (Paced.of_within (inc_within _ _)).after <| (Paced.of_within (setTrack_within _ _ _)).after (Paced.of_within (onFus_within _ _))
        dsimp only
        split
        · exact (Paced.of_within (inc_within _ _)).after (h1 _ _)
        · exact h1 _ _

theorem writeStep3_paced (f : Fin 8) (tn : ℕ) (tValid : ℤ) (popEnc : Fin 4) (b : Body) (flags : ℕ) (m : Mach) : Paced m (writeStep3 f tn tValid popEnc b flags m) := by
  unfold writeStep3
  split
  · rename_i x n m1 heq
    exact (applyRules_paced _ _ _ _ _ _ _).after <| (Paced.snd heq (write_paced _ _ _ _)).after <| .refl _
  · rename_i x m1 heq
    exact (Paced.snd heq (write_paced _ _ _ _))

theorem writeCurds_paced (x : FuseCtx) (ms : List Meas) (cids : List (ℕ × ℕ × Bool)) (m : Mach) : Paced m (writeCurds x ms cids m) := by
  unfold writeCurds
  refine Paced.loop (fun x1 t => ?_) ?_
  · extract_lets f i y got b flags
    split
    · exact Paced.refl _
    · split
      · exact (Paced.of_within (inc_within _ _))
      · split
        · rename_i x2 n m1 heq
          exact (Paced.of_within (onJnl_within _ _)).after <| (Paced.snd heq (write_paced _ _ _ _)).after <| .refl _
        · rename_i x2 m1 heq
          exact (Paced.snd heq (write_paced _ _ _ _))
  · exact Paced.refl _

theorem fuse_paced (x : FuseCtx) (m : Mach) : Paced m (fuse x m) := by
  unfold fuse
  extract_lets n m0
  have hm0 : Paced m m0 := (Paced.of_within (onJnl_within _ _)).after <| (takeOffers_paced _ _ _ _).after (takeReplies_paced _ _)
  clear_value m0
  split
  rename_i ms0 ma heqa
  have hma : Paced m ma := by
    refine Paced.snd heqa ?_
    split
    · exact hm0
    · exact (measureAll_paced _ _ _ _).after hm0
  clear heqa
  extract_lets m1
  have hm1 : Paced m m1 := by
    unfold m1
    split
    · exact (reportNoMd_paced _ _).after hma
    · exact hma
  clear_value m1
  split
  rename_i exts m2 heq2
  have hm2 : Paced m m2 := (Paced.snd heq2 (Paced.of_within (takeExt_within _ _))).after hm1
  clear heq2
  extract_lets ms
  split
  rename_i stay o1 m3 heq3
  have hm3 : Paced m m3 := (Paced.snd_snd heq3 (leaveAll_paced x ({}, m2))).after hm2
  clear heq3
  extract_lets pairs awaits
  split
  rename_i bs cut heqb
  extract_lets m4
  have hm4 : Paced m m4 := by
    unfold m4
    split
    · exact hm3
    · exact (Paced.of_within (addTo_within _ _ _)).after <| (Paced.of_within (addTo_within _ _ _)).after hm3
  clear_value m4
  split
  rename_i sol m5 heq5
  have hm5 : Paced m m5 := (Paced.snd heq5 (solveBlocks_paced _ _ _ _ _)).after hm4
  clear heq5
  extract_lets m6 free
  have hm6 : Paced m m6 := by
    unfold m6
    split
    · exact hm5
    · exact (debit_paced _ _ _ _ _ _).after hm5
  clear_value m6
  split
  rename_i o2 m7 heq7
  have hm7 : Paced m m7 :=
    Paced.snd heq7 (Paced.foldl_snd (fun s y => (spawn_paced _ _ _ _)) hm6)
  clear heq7
  extract_lets boxes x7 fate
  split
  rename_i o3 m8 heq8
  have hm8 : Paced m m8 :=
    Paced.snd heq8 (Paced.foldl_snd (fun s e => (applyFate_paced _ _ _ _ _ _ _)) hm7)
  clear heq8
  extract_lets m9 m10 m11 acked m12 m13 m14 locals m15
  have hm11 : Paced m m11 :=
    (onAcct_paced).after <| (writeCurds_paced _ _ _ _).after <| Paced.loop (fun r t => (writeStep3_paced _ _ _ _ _ _ _)) hm8
  have hm12 : Paced m m12 := Paced.loop (fun e t => (Paced.of_within (inc_within _ _)).after (Paced.of_within (dropTrack_within _ _))) hm11
  have hm13 : Paced m m13 := by
    unfold m13
    split
    · exact hm12
    · exact (Paced.of_within (offerAll_within _ _ _)).after hm12
  have hm14 : Paced m m14 := Paced.loop (fun e t => (Paced.of_within (done_within _ _ _ _ _ _ _ _))) hm13
  have hm15 : Paced m m15 := by
    unfold m15
    split
    · exact (Paced.of_within (sendCurds_within _ _ _)).after <| (Paced.of_within (pairLocal_within _ _)).after <| (Paced.of_within (onFus_within _ _)).after hm14
    · exact hm14
  exact (Paced.of_within (onFus_within _ _)).after <| (onAcct_paced).after hm15

theorem passTick_paced (x : FuseCtx) (m : Mach) : Paced m (passTick x m) := by
  unfold passTick
  split
  rename_i x1 exts m2 heq
  extract_lets m21 m3
  have hm3 : Paced m m3 := by
    unfold m3
    exact Paced.loop (fun x2 t => (Paced.of_within (done_within _ _ _ _ _ _ _ _))) ((writeCurds_paced _ _ _ _).after <| (Paced.snd heq (Paced.of_within (takeExt_within _ _))).after <| (Paced.of_within (onJnl_within _ _)).after <| .refl _)
  exact (onAcct_paced).after <| hm3

theorem fuseLate_paced (a : TickAcct) (m : Mach) : Paced m (fuseLate a m) := by
  unfold fuseLate
  extract_lets tv
  split
  · exact (passTick_paced _ _)
  · split
    · rename_i x v m1 heq
      exact (fuse_paced _ _).after <| (Paced.snd heq (Paced.of_within (mdAsk_within _ _ _))).after <| .refl _
    · rename_i x m1 heq
      exact (fuse_paced _ _).after <| (Paced.snd heq (Paced.of_within (mdAsk_within _ _ _))).after <| .refl _
    · rename_i x miss m1 heq
      exact (fuse_paced _ _).after <| (Paced.snd heq (Paced.of_within (mdAsk_within _ _ _))).after <| .refl _

theorem writeGap_paced (p : Fin 16) (k2 : ℤ) (tEnd : ℤ) (isOpen : Bool) (m : Mach) : Paced m (writeGap p k2 tEnd isOpen m) := .of_recorded (writeGap_recorded _ _ _ _ _)

theorem gapPort_paced (a : TickAcct) (p : Fin 16) (m : Mach) : Paced m (gapPort a p m) := .of_recorded (gapPort_recorded _ _ _)

theorem gapAll_paced (a : TickAcct) (m : Mach) : Paced m (gapAll a m) := .of_recorded (gapAll_recorded _ _)

theorem handoffGaps_paced (a : TickAcct) (m : Mach) : Paced m (handoffGaps a m) := .of_recorded (handoffGaps_recorded _ _)

theorem overrun_paced (a : TickAcct) (m : Mach) : Paced m (overrun a m) := by
  unfold overrun
  extract_lets left m1 m2 m3
  have hm2 : Paced m m2 := by
    unfold m2
    split
    · exact (dropClasses_paced _ _)
    · exact (fuseLate_paced _ _).after <| (dropClasses_paced _ _).after <| .refl _
  split
  · refine (onAcct_paced).after <| ?_
    exact Paced.loop (fun x t => (addBad_paced _ _ _ _)) ((dropPhases_paced _ _).after <| hm2)
  · exact (dropPhases_paced _ _).after <| hm2

theorem snnOne_paced (n : ℕ) (tv : ℤ) (p : Pop) (m : Mach) : Paced m (snnOne n tv p m) := by
  unfold snnOne
  split
  · exact Paced.refl _
  · extract_lets logs out more m1
    have hm1 : Paced m m1 := by
      unfold m1
      refine Paced.loop (fun x t => ?_) ?_
      · extract_lets b
        exact (writeStep3_paced _ _ _ _ _ _ _)
      · exact Paced.refl _
    exact (Paced.of_within (onPop_within _ _ _)).after <| hm1

theorem snnAll_paced (n : ℕ) (tv : ℤ) (m : Mach) : Paced m (snnAll n tv m) := by
  unfold snnAll
  exact Paced.loop (fun x t => Paced.loop (fun x1 t1 => (snnOne_paced _ _ _ _)) (Paced.refl _)) (Paced.refl _)

theorem summaryFor_paced (f : Fin 8) (a : TickAcct) (m : Mach) : Paced m (summaryFor f a m) := by
  unfold summaryFor
  extract_lets rep
  split
  rename_i x v m1 heq
  split
  · rename_i x1 n m11 heq1
    exact (onTick_paced).after <| (Paced.snd heq1 (write_paced _ _ _ _)).after <| (Paced.snd heq (Paced.of_within (skippedTicks_within _ _ _))).after <| .refl _
  · rename_i x1 m11 heq1
    exact (Paced.snd heq1 (write_paced _ _ _ _)).after <| (Paced.snd heq (Paced.of_within (skippedTicks_within _ _ _))).after <| .refl _

theorem writeSummary_paced (a : TickAcct) (m : Mach) : Paced m (writeSummary a m) := by
  unfold writeSummary
  refine (onTick_paced).after <| ?_
  exact Paced.loop (fun x t => (summaryFor_paced _ _ _)) (Paced.refl _)

end Mach
end Sys2Proof.Machine

namespace Sys2Proof.Machine

set_option Elab.async false

namespace Mach

/-! ## The deadline of a tick (R54, R55) -/

section
variable (m : Mach) (a : TickAcct)

/-- The work that a deadline leaves to do, from the overrun to the gap records. -/
def deadlineWork (b : TickAcct) : Mach :=
  let m1 := if a.works then m.overrun a else m
  let m2 := m1.movePops (b.tn - 1)
  let m3 := if a.works then m2.snnAll a.tn (a.tEnd.getD 0) else m2
  (m3.handoffGaps ((m3.acct? a.tn).getD a)).gapAll ((m3.acct? a.tn).getD a)

/-- The same with the summary of a tick that produces work. -/
def deadlineSummed (b : TickAcct) : Mach :=
  if a.works then (m.deadlineWork a b).writeSummary (((m.deadlineWork a b).acct? a.tn).getD a) else m.deadlineWork a b

/-- A record that was written at the deadline itself. -/
def writtenSince (m : Mach) (r : JRec) : Bool := decide (m.jnl.next.get (stream r.fn (Fin.ofNat 4 r.cls)) ≤ r.count)

theorem tickDeadline_some {b : TickAcct} (h : m.dueDeadline = some (a, b)) :
    tickDeadline m = ((m.deadlineSummed a b).dropTick a.tn).releaseRecs m.writtenSince := by
  unfold tickDeadline
  rw [h]
  rfl

theorem tickDeadline_none (h : m.dueDeadline = none) : tickDeadline m = m := by
  unfold tickDeadline
  rw [h]

variable (b : TickAcct)

theorem deadlineWork_paced : Paced m (m.deadlineWork a b) := by
  unfold deadlineWork
  extract_lets m1 m2 m3
  have h1 : Paced m m1 := by
    unfold m1
    split
    · exact overrun_paced a m
    · exact .refl m
  have h2 : Paced m m2 := (Paced.of_within (movePops_within (b.tn - 1) m1)).after h1
  have h3 : Paced m m3 := by
    unfold m3
    split
    · exact (snnAll_paced _ _ _).after h2
    · exact h2
  exact (gapAll_paced _ _).after ((handoffGaps_paced _ _).after h3)

theorem deadlineSummed_paced : Paced m (m.deadlineSummed a b) := by
  unfold deadlineSummed
  split
  · exact (writeSummary_paced _ _).after (deadlineWork_paced m a b)
  · exact deadlineWork_paced m a b

/-- A tick without work leaves the counts of the summaries and the watchdog. -/
theorem deadlineSummed_recorded (h : a.works = false) : Recorded m (m.deadlineSummed a b) := by
  have hw : m.deadlineWork a b = ((m.movePops (b.tn - 1)).handoffGaps (((m.movePops (b.tn - 1)).acct? a.tn).getD a)).gapAll
      (((m.movePops (b.tn - 1)).acct? a.tn).getD a) := by
    unfold deadlineWork
    rw [h]
    rfl
  unfold deadlineSummed
  rw [if_neg (by simp [h]), hw]
  exact (gapAll_recorded _ _).after ((handoffGaps_recorded _ _).after (.of_within (movePops_within _ _)))

theorem deadlineSummed_wdogCount (h : a.works = true) : (m.deadlineSummed a b).tick.wdogCount = 0 := by
  unfold deadlineSummed
  rw [if_pos h]
  rfl

/-- The account, the curds and the grids of a tick go. -/
theorem dropTick_spec (n : Nat) :
    (m.dropTick n).tick = { m.tick with accts := m.tick.accts.dropLast, lastDone := some n } ∧
    (∀ p, ((m.dropTick n).fe.get p).curds = ((m.fe.get p).curds.filter fun c => c.tn != n) ∧
      ((m.dropTick n).fe.get p).grids = ((m.fe.get p).grids.filter fun g => g.tn != n)) ∧ (m.dropTick n).time = m.time := by
  unfold dropTick
  extract_lets m1 m2
  have h := freeDue_within (n + 2) m2
  refine ⟨h.keeps .tick, fun p => ?_, h.keeps .time⟩
  have hf : (m2.freeDue (n + 2)).fe.get p = m2.fe.get p := congrArg (·.get p) (h.keeps .fe)
  have hm : m2.fe.get p = { m1.fe.get p with curds := (m1.fe.get p).curds.filter fun c => c.tn != n,
                                             grids := (m1.fe.get p).grids.filter fun g => g.tn != n } := Vector.getElem_map ..
  rw [hf, hm]
  exact ⟨rfl, rfl⟩

end

theorem dueDeadline_accts {m : Mach} {x : TickAcct × TickAcct} (h : m.dueDeadline = some x) : m.tick.accts ≠ [] := by
  intro hn
  unfold dueDeadline at h
  rw [hn] at h
  cases h

end Mach

section
variable (s : State)

theorem tickDeadline_drops {x : TickAcct × TickAcct} (hx : s.dueDeadline = some x) :
    Does .tickDeadline s fun t =>
      t.tick.lastDone = some x.1.tn ∧ t.tick.accts.length + 1 = s.tick.accts.length ∧
      (∀ p, (∀ c ∈ (t.fe.get p).curds, c.tn ≠ x.1.tn) ∧ (∀ g ∈ (t.fe.get p).grids, g.tn ≠ x.1.tn)) ∧
      (x.1.works = true → t.tick.wdogCount = 0) ∧
      (x.1.works = false → t.tick.wdogCount = s.tick.wdogCount ∧ t.tick.lastSum = s.tick.lastSum) ∧
      t.tick.tn = s.tick.tn ∧ t.tick.start = s.tick.start ∧ t.time.n = s.time.n ∧
      OnlyIn [.regs, .time, .tick, .fe, .eng, .tleq, .tle, .heldDesc, .pops, .spikes, .images, .fus, .jnl, .led, .sleep, .fn, .link, .cache, .draws,
        .out] s.toMach t := by
  obtain ⟨a, b⟩ := x
  have hf := Mach.tickDeadline_some s.toMach a hx
  have hwithin := (Mach.tickDeadline_within s.toMach).parts
  have hp := Mach.deadlineSummed_paced s.toMach a b
  have hw := Mach.deadlineSummed_wdogCount s.toMach a b
  have hr := Mach.deadlineSummed_recorded s.toMach a b
  rw [hf] at hwithin
  generalize s.toMach.deadlineSummed a b = m5 at hf hwithin hp hw hr
  obtain ⟨ht, hd, hn⟩ := Mach.dropTick_spec m5 a.tn
  have hlen : s.tick.accts.length ≠ 0 := fun h => Mach.dueDeadline_accts hx (List.length_eq_zero_iff.mp h)
  have htick : ((m5.dropTick a.tn).releaseRecs s.toMach.writtenSince).tick = { m5.tick with accts := m5.tick.accts.dropLast, lastDone := some a.tn } := ht
  refine does_of_act (f := Mach.tickDeadline) rfl hf ⟨?_, ?_, fun q => ?_, fun h => ?_, fun h => ?_, ?_, ?_, ?_, hwithin⟩
  · rw [htick]
  · rw [htick, List.length_dropLast, hp.accts_length]
    exact Nat.sub_add_cancel (Nat.pos_of_ne_zero hlen)
  · obtain ⟨hc, hg⟩ := hd q
    refine ⟨fun c hm => ?_, fun g hm => ?_⟩
    · simpa using (List.mem_filter.mp (hc ▸ hm : c ∈ (m5.fe.get q).curds.filter fun c => c.tn != a.tn)).2
    · simpa using (List.mem_filter.mp (hg ▸ hm : g ∈ (m5.fe.get q).grids.filter fun g => g.tn != a.tn)).2
  · rw [htick]
    exact hw h
  · rw [htick]
    exact ⟨(hr h).wdogCount, (hr h).lastSum⟩
  · rw [htick]
    exact hp.tn
  · rw [htick]
    exact hp.start
  · exact (congrArg (fun u : TimeUnit => u.n) hn).trans hp.n

end

/-- Settles O22. -/
theorem deadlineDropsTheTick : Obligations.DeadlineDropsTheTick := by
  intro s
  exact ⟨fun h => idles_of_act (f := Mach.tickDeadline) rfl (Mach.tickDeadline_none s.toMach h), fun x hx => tickDeadline_drops s hx⟩

end Sys2Proof.Machine

namespace Sys2Proof.Machine

set_option Elab.async false

namespace Mach

/-! ## The fusion of a tick (R219 to R234) -/

section
variable {m : Mach} {n : Nat}

/-- An account that an update reached. -/
theorem acct?_onAcct {f : TickAcct → TickAcct} {b : TickAcct} (h : (m.onAcct n f).acct? n = some b) : ∃ a, b = f a ∨ b.tn ≠ n := by
  unfold acct? onAcct at h
  obtain ⟨a, -, rfl⟩ := List.mem_map.mp (List.mem_of_find?_eq_some h)
  by_cases ha : a.tn = n
  · exact ⟨a, .inl (if_pos ha)⟩
  · exact ⟨a, .inr (by rw [if_neg ha]; exact ha)⟩

theorem acct?_tn {b : TickAcct} (h : m.acct? n = some b) : b.tn = n := by
  simpa using List.find?_some h

/-- An account that was updated is there, with what the update gives every account. -/
theorem acct?_marked {f : TickAcct → TickAcct} (P : TickAcct → Prop) (hk : ∀ a, acctKey (f a) = acctKey a) (hf : ∀ a, P (f a))
    (hs : (m.acct? n).isSome = true) : ∃ b ∈ (m.onAcct n f).acct? n, P b := by
  have hp : Paced m (m.onAcct n f) := onAcct_paced hk
  obtain ⟨b, hb⟩ := Option.isSome_iff_exists.mp ((hp.acct?_isSome n).trans hs)
  refine ⟨b, hb, ?_⟩
  obtain ⟨a, rfl | h⟩ := acct?_onAcct hb
  · exact hf a
  · exact absurd (acct?_tn hb) h

/-- The account that was marked fused is there, and fused. -/
theorem acct?_fused (hs : (m.acct? n).isSome = true) : ∃ b ∈ (m.onAcct n fun a => { a with fused := true }).acct? n, b.fused = true :=
  acct?_marked (fun b => b.fused = true) (fun _ => rfl) (fun _ => rfl) hs

end

theorem fuse_marks (x : FuseCtx) (m : Mach) : ∃ (m15 : Mach) (g : Fusion → Fusion), fuse x m = (m15.onAcct x.tn fun a => { a with fused := true }).onFus g := by
  unfold fuse
  extract_lets n m0
  split
  extract_lets m1
  split
  extract_lets ms
  split
  extract_lets pairs awaits
  split
  extract_lets m4
  split
  extract_lets m6 free
  split
  extract_lets boxes x7 fate
  split
  extract_lets m9 m10 m11 acked m12 m13 m14 locals m15
  exact ⟨m15, _, rfl⟩

theorem fuse_fused (x : FuseCtx) (m : Mach) (hs : (m.acct? x.tn).isSome = true) : ∃ b ∈ (fuse x m).acct? x.tn, b.fused = true := by
  have hp := fuse_paced x m
  obtain ⟨m15, g, h⟩ := fuse_marks x m
  rw [h] at hp ⊢
  have hk : Paced m15 ((m15.onAcct x.tn fun a => { a with fused := true }).onFus g) := (Paced.of_within (onFus_within _ _)).after onAcct_paced
  exact acct?_fused (m := m15) (by rw [← hk.acct?_isSome, hp.acct?_isSome, hs])

section
variable {m : Mach} {a : TickAcct}

theorem nextFuse_mem (h : m.nextFuse = some a) : a ∈ m.tick.accts := List.mem_of_mem_filter (List.mem_of_getLast? h)

theorem nextFuse_acct? (h : m.nextFuse = some a) : (m.acct? a.tn).isSome = true := by
  unfold acct?
  rw [List.isSome_find?]
  exact List.any_eq_true.mpr ⟨a, nextFuse_mem h, by simp⟩

theorem fusionTick_none (h : m.nextFuse = none) : fusionTick m = m := by
  unfold fusionTick
  rw [h]

theorem fusionTick_waits (h : m.nextFuse = some a) (hw : m.working = false ∨ a.gridClosed = false ∨ a.admitted = false ∨ m.classPending a.tn = true) :
    fusionTick m = m := by
  unfold fusionTick
  rw [h]
  refine if_pos ?_
  rcases hw with hw | hw | hw | hw
  · simp [hw]
  · simp [hw]
  · simp [hw]
  · exact .inr (.inr (.inr hw))

/-- A tick is ready to be fused. -/
structure FuseReady (m : Mach) (a : TickAcct) : Prop where
  next : m.nextFuse = some a
  works : m.working = true
  closed : a.gridClosed = true
  admitted : a.admitted = true
  classed : m.classPending a.tn = false

variable (hr : FuseReady m a)
include hr

theorem fusionTick_ready : fusionTick m =
    if !m.on R.FUS_CTRL_EN then m.passTick { a := a, tv := a.tEnd.getD 0, md := none, late := false }
    else match m.mdAsk m.webEnc (a.tEnd.getD 0) with
      | (.notYet, _) => m
      | (.ok v, m1) => if m1.curdMdWaits a.tn then m else m1.fuse { a := a, tv := a.tEnd.getD 0, md := some v, late := false }
      | (.invalid _, m1) => m1.fuse { a := a, tv := a.tEnd.getD 0, md := none, late := false, noMd := true } := by
  obtain ⟨h, hw, hc, ha, hp⟩ := hr
  unfold fusionTick
  rw [h]
  exact if_neg (by simp [hw, hc, ha, hp])

theorem fusionTick_off (he : m.on R.FUS_CTRL_EN = false) :
    fusionTick m = m.passTick { a := a, tv := a.tEnd.getD 0, md := none, late := false } := by
  rw [fusionTick_ready hr, if_pos (by simp [he])]

variable (he : m.on R.FUS_CTRL_EN = true)
include he

theorem fusionTick_notYet (h : m.mdAt m.webEnc (a.tEnd.getD 0) = .notYet) : fusionTick m = m := by
  have hk : m.mdAsk m.webEnc (a.tEnd.getD 0) = (.notYet, m) := by
    unfold mdAsk
    rw [h]
  rw [fusionTick_ready hr, if_neg (by simp [he]), hk]

theorem fusionTick_ok {v : Int} (h : m.mdAt m.webEnc (a.tEnd.getD 0) = .ok v) :
    fusionTick m = if m.curdMdWaits a.tn then m else m.fuse { a := a, tv := a.tEnd.getD 0, md := some v, late := false } := by
  have hk : m.mdAsk m.webEnc (a.tEnd.getD 0) = (.ok v, m) := by
    unfold mdAsk
    rw [h]
  rw [fusionTick_ready hr, if_neg (by simp [he]), hk]

theorem fusionTick_invalid {b : Bool} (h : m.mdAt m.webEnc (a.tEnd.getD 0) = .invalid b) :
    fusionTick m = (m.mdAsk m.webEnc (a.tEnd.getD 0)).2.fuse { a := a, tv := a.tEnd.getD 0, md := none, late := false, noMd := true } := by
  rw [fusionTick_ready hr, if_neg (by simp [he])]
  have hk : (m.mdAsk m.webEnc (a.tEnd.getD 0)).1 = .invalid b := by
    unfold mdAsk
    rw [h]
    cases b
    · rfl
    · rfl
  split
  · next heq => rw [heq] at hk; cases hk
  · next heq => rw [heq] at hk; cases hk
  · next heq => rw [heq]

/-- A tick that is fused is marked so. -/
theorem fusionTick_fuses (hn : m.mdAt m.webEnc (a.tEnd.getD 0) ≠ .notYet)
    (hc : ∀ v, m.mdAt m.webEnc (a.tEnd.getD 0) = .ok v → m.curdMdWaits a.tn = false) :
    (∃ b ∈ (fusionTick m).acct? a.tn, b.fused = true) ∧ Paced m (fusionTick m) := by
  have hs := nextFuse_acct? hr.next
  cases hm : m.mdAt m.webEnc (a.tEnd.getD 0) with
  | notYet => exact absurd hm hn
  | ok v =>
    rw [fusionTick_ok hr he hm, if_neg (by simp [hc v hm])]
    exact ⟨fuse_fused _ m hs, fuse_paced _ m⟩
  | invalid b =>
    have hk : Paced m (m.mdAsk m.webEnc (a.tEnd.getD 0)).2 := .of_within (mdAsk_within _ _ _)
    rw [fusionTick_invalid hr he hm]
    exact ⟨fuse_fused _ _ ((hk.acct?_isSome _).trans hs), (fuse_paced _ _).after hk⟩

end

/-! ## Fusion disabled (R219) -/

section
variable (x : FuseCtx) (m : Mach)

/-- The external measurements of a tick are taken off the list; no comet changes. -/
theorem takeExt_fus (tv : Int) : (m.takeExt tv).2.fus.store = m.fus.store ∧ (m.takeExt tv).2.fus.serial = m.fus.serial := by
  have h : ∀ (l : List ExtWait) (t : Mach), (forEach l (fun x t => t.done x.fn 0x60 x.ctag x.cseq St.state 0 []) t).fus = t.fus := fun l t =>
    (Within.loop (l := [.jnl, .fn, .out]) (fun x t => done_within _ _ _ _ _ _ _ t) (.refl _ t)).keeps .fus
  unfold takeExt
  dsimp only
  rw [h]
  exact ⟨rfl, rfl⟩

/-- A tick that passes while fusion is disabled, before its account is marked. -/
def passed : Mach :=
  let e := (m.onJnl fun j => { j with curdRecs := Vector.replicate 8 0 }).takeExt x.tv
  forEach e.1 (fun e t => t.done e.fn 0x60 e.ctag e.cseq 0 0 []) (e.2.writeCurds x [] [])

theorem passTick_eq : passTick x m = (passed x m).onAcct x.tn fun b => { b with fused := true } := rfl

theorem passed_fus : (passed x m).fus.store = m.fus.store ∧ (passed x m).fus.serial = m.fus.serial := by
  have h := takeExt_fus (m.onJnl fun j => { j with curdRecs := Vector.replicate 8 0 }) x.tv
  unfold passed
  extract_lets e
  have hw := (writeCurds_within x [] [] e.2).keeps .fus
  have hl : (forEach e.1 (fun e t => t.done e.fn 0x60 e.ctag e.cseq 0 0 []) (e.2.writeCurds x [] [])).fus = (e.2.writeCurds x [] []).fus :=
    (Within.loop (l := [.jnl, .fn, .out]) (fun x t => done_within _ _ _ _ _ _ _ t) (.refl _ _)).keeps .fus
  rw [hl, hw]
  exact h

/-- A tick that passes while fusion is disabled changes no comet. -/
theorem passTick_spec (hs : (m.acct? x.tn).isSome = true) :
    (∃ b ∈ (passTick x m).acct? x.tn, b.fused = true) ∧ (passTick x m).fus.store = m.fus.store ∧ (passTick x m).fus.serial = m.fus.serial := by
  have hp := passTick_paced x m
  rw [passTick_eq] at hp ⊢
  have hk : Paced (passed x m) ((passed x m).onAcct x.tn fun b => { b with fused := true }) := onAcct_paced
  exact ⟨acct?_fused (by rw [← hk.acct?_isSome, hp.acct?_isSome, hs]), passed_fus x m⟩

end

/-! ## Offers sent again (R245) -/

theorem repeatOffers_none (m : Mach) (h : m.fus.store.all (fun (e : Nat × Track) => e.2.offer.isNone) = true) : repeatOffers m = m := by
  unfold repeatOffers
  refine forEach_mem (fun t => t = m) _ _ (fun e he t ht => ?_) m rfl
  have := List.all_eq_true.mp h e he
  rw [Option.isNone_iff_eq_none.mp this]
  exact ht

theorem repeatOffers_one {m : Mach} {e : Nat × Track} {o : Nat × Nat × Bool} (hs : m.fus.store = [e]) (ho : e.2.offer = some o) (hp : e.2.c.hoPend = true) (ha : e.2.acked = false)
    (ht : o.2.1 + 1 + atLeast1 (m.g R.FUS_HO_HO_TMO) ≤ m.tick.tn) (hr : m.hoRefuse (Fin.ofNat 4 o.1) = false) :
    repeatOffers m = m.sendOffer (Fin.ofNat 4 o.1) (m.tick.tn - 1) m.tick.start e.1 e.2 := by
  unfold repeatOffers
  rw [hs]
  unfold forEach
  rw [List.foldl_cons, List.foldl_nil]
  dsimp only
  rw [ho]
  refine if_pos ?_
  rw [hr, hp, ha, decide_eq_true ht]
  rfl

/-- A message is queued on its own link. -/
theorem sendMsg_link (l : Fin 4) (mtype fmt func count tn : Nat) (body : List Byte) (m : Mach) :
    ∀ j, j ≠ l → (m.sendMsg l mtype fmt func count tn body).link.get j = m.link.get j := by
  intro j hj
  unfold sendMsg
  split
  · rw [onLink_link]
    exact vmod_get_ne _ _ hj
  · rfl

/-- An offer that is sent. -/
theorem sendOffer_spec (l : Fin 4) (tn : Nat) (tv : Int) (k : Nat) (e : Track) (m : Mach) :
    let t := m.sendOffer l tn tv k e
    t.fus.store = Tab.put m.fus.store k { e with c := { e.c with hoPend := true }, offer := some (l, tn, true) } ∧
    t.g (R.LNK_HO_OFFER_TX l) = (m.g (R.LNK_HO_OFFER_TX l) + 1) % 2 ^ 32 ∧ (∀ j, j ≠ l → t.link.get j = m.link.get j) := by
  have hw := sendMsg_within l mtOffer 1 e.fn 0 tn (offerBody tv e.c) m
  have hl := sendMsg_link l mtOffer 1 e.fn 0 tn (offerBody tv e.c) m
  intro t
  unfold t sendOffer
  generalize m.sendMsg l mtOffer 1 e.fn 0 tn (offerBody tv e.c) = m1 at hw hl
  refine ⟨?_, ?_, hl⟩
  · have hf : m1.fus = m.fus := hw.keeps .fus
    exact congrArg (fun u : Fusion => Tab.put u.store k { e with c := { e.c with hoPend := true }, offer := some (l.1, tn, true) }) hf
  · rw [g_inc_word _ _ rfl rfl]
    exact congrArg (fun j => (j + 1) % 2 ^ 32) (g_of_regs (hw.keeps .regs) _)

end Mach

section
variable (s : State) {a : TickAcct}

theorem fusionTick_marks (hr : Mach.FuseReady s.toMach a) (he : s.on R.FUS_CTRL_EN = true) (hn : s.mdAt s.webEnc (a.tEnd.getD 0) ≠ .notYet)
    (hc : ∀ v, s.mdAt s.webEnc (a.tEnd.getD 0) = .ok v → s.curdMdWaits a.tn = false) :
    Does .fusionTick s fun t =>
      (∃ b ∈ t.acct? a.tn, b.fused = true) ∧ t.tick.tn = s.tick.tn ∧ t.time.n = s.time.n ∧
      OnlyIn [.regs, .time, .tick, .fus, .jnl, .led, .sleep, .fn, .link, .cache, .draws, .out] s.toMach t := by
  obtain ⟨hf, hp⟩ := Mach.fusionTick_fuses hr he hn hc
  exact does_of_act (f := Mach.fusionTick) rfl rfl ⟨hf, hp.tn, hp.n, (Mach.fusionTick_within s.toMach).parts⟩

theorem fusionTick_passes (hr : Mach.FuseReady s.toMach a) (he : s.on R.FUS_CTRL_EN = false) :
    Does .fusionTick s fun t =>
      (∃ b ∈ t.acct? a.tn, b.fused = true) ∧ t.fus.store = s.fus.store ∧ t.fus.serial = s.fus.serial ∧
      OnlyIn [.regs, .tick, .fus, .jnl, .fn, .cache, .out] s.toMach t := by
  obtain ⟨h1, h2, h3⟩ := Mach.passTick_spec { a := a, tv := a.tEnd.getD 0, md := none, late := false } s.toMach (Mach.nextFuse_acct? hr.next)
  exact does_of_act (f := Mach.fusionTick) rfl (Mach.fusionTick_off hr he) ⟨h1, h2, h3, (Mach.passTick_within _ s.toMach).parts⟩

theorem hoOfferRepeat_sends {e : Nat × Track} {o : Nat × Nat × Bool} (hs : s.fus.store = [e]) (ho : e.2.offer = some o) (hp : e.2.c.hoPend = true)
    (ha : e.2.acked = false) (ht : o.2.1 + 1 + atLeast1 (s.g R.FUS_HO_HO_TMO) ≤ s.tick.tn) (hr : s.hoRefuse (Fin.ofNat 4 o.1) = false) :
    Does .hoOfferRepeat s fun t =>
      (∃ e' ∈ t.fus.store.find e.1, e'.offer = some ((Fin.ofNat 4 o.1).1, s.tick.tn - 1, true) ∧ e'.c.md = e.2.c.md ∧ e'.fn = e.2.fn) ∧
      t.g (R.LNK_HO_OFFER_TX (Fin.ofNat 4 o.1)) = (s.g (R.LNK_HO_OFFER_TX (Fin.ofNat 4 o.1)) + 1) % 2 ^ 32 ∧
      (∀ k, k ≠ Fin.ofNat 4 o.1 → t.link.get k = s.link.get k) ∧ OnlyIn [.regs, .fus, .link] s.toMach t := by
  obtain ⟨h1, h2, h3⟩ := Mach.sendOffer_spec (Fin.ofNat 4 o.1) (s.tick.tn - 1) s.tick.start e.1 e.2 s.toMach
  refine does_of_act (f := Mach.repeatOffers) rfl (Mach.repeatOffers_one hs ho hp ha ht hr) ⟨?_, h2, h3, (Mach.sendOffer_within ..).parts⟩
  have hput : ∀ v : Track, Tab.put [e] e.1 v = [(e.1, v)] := fun v => by
    unfold Tab.put
    rw [if_neg (lt_irrefl _), if_pos rfl]
  rw [h1, hs, hput]
  have hfind : ∀ v : Track, Tab.find [(e.1, v)] e.1 = some v := fun v => by simp [Tab.find]
  exact ⟨_, hfind _, rfl, rfl, rfl⟩

end

/-- Settles O27. -/
theorem fusionWaitsAndFinishes : Obligations.FusionWaitsAndFinishes := by
  intro s
  refine ⟨fun h => idles_of_act (f := Mach.fusionTick) rfl (Mach.fusionTick_none h), fun a h =>
    ⟨fun hw => idles_of_act (f := Mach.fusionTick) rfl (Mach.fusionTick_waits h hw), fun hw hc ha hp => ?_⟩,
    fun h => idles_of_act (f := Mach.repeatOffers) rfl (Mach.repeatOffers_none s.toMach h), fun e _ o ho => ?_⟩
  · have hr : Mach.FuseReady s.toMach a := ⟨h, hw, hc, ha, hp⟩
    exact ⟨fun he hn => idles_of_act (f := Mach.fusionTick) rfl (Mach.fusionTick_notYet hr he hn),
      fun he v hv hk => idles_of_act (f := Mach.fusionTick) rfl ((Mach.fusionTick_ok hr he hv).trans (if_pos hk)),
      fun he hn hk => fusionTick_marks s hr he hn hk, fusionTick_passes s hr⟩
  · exact fun hs hp ha ht hr => hoOfferRepeat_sends s hs ho hp ha ht hr

end Sys2Proof.Machine

namespace Sys2Proof.Machine

set_option Elab.async false

/-! ## Admission settles curds (R312, R313) -/

/-- Every curd of the port with this tick and index is admitted or abandoned. -/
def Settled (p : Fin 16) (n i : Nat) (m : Mach) : Prop := ∀ c ∈ (m.fe.get p).curds, c.tn = n → c.index = i → c.admitted = true ∨ c.abandoned = true

/-- What is settled stays so. -/
structure Settles (a b : Mach) : Prop where
  keep : ∀ p n i, Settled p n i a → Settled p n i b

namespace Settles

variable {a b c : Mach}

theorem refl (a : Mach) : Settles a a := ⟨fun _ _ _ h => h⟩

theorem after (h2 : Settles b c) (h1 : Settles a b) : Settles a c := ⟨fun p n i h => h2.keep p n i (h1.keep p n i h)⟩

theorem of_within {l : List Part} (h : Within l a b) (hf : Part.fe ∉ l := by decide) : Settles a b := by
  have hfe : b.fe = a.fe := h.parts .fe hf
  refine ⟨fun p n i hs => ?_⟩
  unfold Settled
  rw [hfe]
  exact hs

end Settles

namespace Mach

section
variable {m : Mach} {p : Fin 16} {n i : Nat} {f : Curd → Curd}

theorem onCurd_curds (q : Fin 16) : ((m.onCurd p n i f).fe.get q).curds =
    if q = p then (m.fe.get p).curds.map fun c => if c.tn = n ∧ c.index = i then f c else c else (m.fe.get q).curds := by
  unfold onCurd
  rw [onFe_fe]
  split
  · next h => rw [h, vmod_get_self]
  · next h => rw [vmod_get_ne _ _ h]

/-- An update that marks every curd it reaches settles them and keeps what was settled. -/
theorem onCurd_settles (hf : ∀ c, (f c).admitted = true ∨ (f c).abandoned = true) :
    Settles m (m.onCurd p n i f) ∧ Settled p n i (m.onCurd p n i f) := by
  refine ⟨⟨fun q k j hs c hc hn hi => ?_⟩, fun c hc hn hi => ?_⟩
  · rw [onCurd_curds] at hc
    split at hc
    · next hq =>
      subst hq
      obtain ⟨c', hc', rfl⟩ := List.mem_map.mp hc
      split
      · exact hf c'
      · next h => rw [if_neg h] at hn hi; exact hs c' hc' hn hi
    · exact hs c hc hn hi
  · rw [onCurd_curds, if_pos rfl] at hc
    obtain ⟨c', hc', rfl⟩ := List.mem_map.mp hc
    split
    · exact hf c'
    · next h => rw [if_neg h] at hn hi; exact absurd ⟨hn, hi⟩ h

end

section
variable (m : Mach)

theorem classLost_settles (d : Desc) : Settles m (m.classLost d) := by
  unfold classLost
  extract_lets m1
  have h1 : Settles m m1 := (Settles.of_within (spend_within _ _ _)).after (.of_within (debitNj_within _ _ _))
  exact (onCurd_settles (f := fun c => { c with abandoned := true }) fun _ => .inr rfl).1.after <| (Settles.of_within (addBad_within _ _ _ _)).after <|
    (Settles.of_within (onAcct_within _ _ _)).after h1

theorem descStale_settles (e : Fin 72) (d : Desc) : Settles m (m.descStale e d) :=
  (classLost_settles _ d).after <| (Settles.of_within (set1_within _ _)).after (.of_within (inc_within _ _))

theorem issue_settles (d : Desc) : Settles m (m.issue d) := by
  unfold issue
  split
  · exact descStale_settles m _ d
  · split
    · exact descStale_settles m _ d
    · dsimp only
      split
      · exact ⟨fun _ _ _ h => h⟩
      · exact .of_within onEng_within

theorem refuseCurd_settles (n : Nat) (p : Fin 16) (c : Curd) : Settles m (m.refuseCurd n p c) ∧ Settled p n c.index (m.refuseCurd n p c) := by
  unfold refuseCurd
  extract_lets m1
  have h1 : Settles m m1 := by
    unfold m1
    split
    · exact (Settles.of_within (spend_within _ _ _)).after (.of_within (debitNj_within _ _ _))
    · exact .refl m
  have h2 := (Settles.of_within (addBad_within n p.1 3 (m1.onAcct n fun a => { a with abandoned := a.abandoned + 1 }))).after
    ((Settles.of_within (onAcct_within _ _ _)).after h1)
  obtain ⟨h3, h4⟩ := onCurd_settles (m := (m1.onAcct n fun a => { a with abandoned := a.abandoned + 1 }).addBad n p.1 3) (p := p) (n := n) (i := c.index)
    (f := fun k => { k with abandoned := true, waiting := none }) fun _ => .inr rfl
  exact ⟨h3.after h2, h4⟩

theorem admitCurd_settles (it : Item) (n : Nat) (p : Fin 16) (c : Curd) (slot : Nat) (im : Image) :
    Settles m (m.admitCurd it n p c slot im) ∧ Settled p n c.index (m.admitCurd it n p c slot im) := by
  unfold admitCurd
  extract_lets est m1
  obtain ⟨h3, h4⟩ := onCurd_settles (m := (m.debitNj it est).spend n est) (p := p) (n := n) (i := c.index)
    (f := fun k => { k with admitted := true, waiting := if c.patch then none else some est }) fun _ => .inl rfl
  have h1 : Settles m m1 := h3.after ((Settles.of_within (spend_within _ _ _)).after (.of_within (debitNj_within _ _ _)))
  split
  · have h5 := issue_settles m1 (m.clsDesc n p c slot im est)
    exact ⟨h5.after h1, h5.keep _ _ _ h4⟩
  · exact ⟨h1, h4⟩

/-- One round of the admission of curds. -/
def admitStep (it : Item) (shed : Fld) (n : Nat) (s : Bool × Mach) (x : Fin 16 × Curd × Nat × Image) : Bool × Mach :=
  if !s.1 then (false, s.2.refuseCurd n x.1 x.2.1)
  else
    let est := s.2.classEst x.2.2.2 ((s.2.clsChoice n x.2.2.2).elim x.2.2.2.clsRole (·.1)) (s.2.clsDie n x.2.2.2)
    if s.2.affords it est then (true, s.2.admitCurd it n x.1 x.2.1 x.2.2.1 x.2.2.2)
    else (false, (s.2.inc shed).refuseCurd n x.1 x.2.1)

theorem admitCurds_eq (it : Item) (shed : Fld) (n : Nat) (open_ : Bool) (l : List (Fin 16 × Curd × Nat × Image)) :
    admitCurds it shed n open_ l m = (l.foldl (admitStep it shed n) (open_, m)).2 := rfl

theorem admitStep_settles (it : Item) (shed : Fld) (n : Nat) (s : Bool × Mach) (x : Fin 16 × Curd × Nat × Image) :
    Settles s.2 (admitStep it shed n s x).2 ∧ Settled x.1 n x.2.1.index (admitStep it shed n s x).2 := by
  unfold admitStep
  split
  · exact refuseCurd_settles s.2 n x.1 x.2.1
  · extract_lets est
    split
    · exact admitCurd_settles s.2 it n x.1 x.2.1 x.2.2.1 x.2.2.2
    · obtain ⟨h1, h2⟩ := refuseCurd_settles (s.2.inc shed) n x.1 x.2.1
      exact ⟨h1.after (.of_within (inc_within _ _)), h2⟩

/-- Every curd of the list is settled. -/
theorem admitCurds_settles (it : Item) (shed : Fld) (n : Nat) (open_ : Bool) (l : List (Fin 16 × Curd × Nat × Image)) :
    Settles m (admitCurds it shed n open_ l m) ∧ ∀ x ∈ l, Settled x.1 n x.2.1.index (admitCurds it shed n open_ l m) := by
  rw [admitCurds_eq]
  suffices h : ∀ s : Bool × Mach, Settles s.2 (l.foldl (admitStep it shed n) s).2 ∧
      ∀ x ∈ l, Settled x.1 n x.2.1.index (l.foldl (admitStep it shed n) s).2 from h (open_, m)
  induction l with
  | nil => exact fun s => ⟨.refl _, fun x hx => absurd hx (by simp)⟩
  | cons y r ih =>
    intro s
    obtain ⟨h1, h2⟩ := admitStep_settles it shed n s y
    obtain ⟨h3, h4⟩ := ih (admitStep it shed n s y)
    refine ⟨h3.after h1, fun x hx => ?_⟩
    rcases List.mem_cons.mp hx with rfl | hx
    · exact h3.keep _ _ _ h2
    · exact h4 x hx

end

/-! ## The admission of a tick (R310 to R313) -/

section
variable {m : Mach} {a : TickAcct}

theorem nextAdmit_acct? (h : m.nextAdmit = some a) : (m.acct? a.tn).isSome = true := by
  unfold acct?
  rw [List.isSome_find?]
  exact List.any_eq_true.mpr ⟨a, List.mem_of_mem_filter (List.mem_of_getLast? h), by simp⟩

theorem admission_none (h : m.nextAdmit = none) : admission m = m := by
  unfold admission
  rw [h]

theorem admission_waits (h : m.nextAdmit = some a) (hw : m.working = false ∨ a.gridClosed = false ∨ m.earlierLeft a.tn = true) : admission m = m := by
  unfold admission
  rw [h]
  refine if_pos ?_
  rcases hw with hw | hw | hw
  · simp [hw]
  · simp [hw]
  · exact .inr (.inr hw)

/-- The admission of curds, of calibration and of populations at the instant. -/
def admitted (a : TickAcct) (m1 : Mach) : Mach :=
  let l := m1.scorable a.tn
  let ks := l.map fun x => (x, m1.known a x.1 x.2.1)
  let r := m1.admitPops a.tn
  let m3 := r.2.admitCurds .class_ R.PWR_SHED_CLASS a.tn r.1 ((ks.filter fun x => !x.2).map Prod.fst)
  (m3.admitCurds .known R.PWR_SHED_KNOWN a.tn true ((ks.filter fun x => x.2).map Prod.fst)).admitCal a.tn

theorem admission_runs (h : m.nextAdmit = some a) (hw : m.working = true) (hg : a.gridClosed = true) (he : m.earlierLeft a.tn = false) :
    admission m = (admitted a (m.runTo (a.graceFrom + 12000))).onAcct a.tn fun b => { b with admitted := true } := by
  unfold admission
  rw [h]
  exact if_neg (by simp [hw, hg, he])

theorem admitted_settled (a : TickAcct) (m1 : Mach) : ∀ x ∈ m1.scorable a.tn, Settled x.1 a.tn x.2.1.index (admitted a m1) := by
  intro x hx
  unfold admitted
  extract_lets l ks r m3
  have hc : ∀ t : Mach, Settles t (t.admitCal a.tn) := fun t => .of_within (admitCal_within _ _)
  have hk : (x, m1.known a x.1 x.2.1) ∈ ks := List.mem_map_of_mem hx
  cases hkn : m1.known a x.1 x.2.1 with
  | false =>
    rw [hkn] at hk
    have h3 : Settled x.1 a.tn x.2.1.index m3 := (admitCurds_settles _ _ _ _ _ _).2 x (List.mem_map.mpr ⟨_, List.mem_filter.mpr ⟨hk, rfl⟩, rfl⟩)
    exact (hc _).keep _ _ _ ((admitCurds_settles m3 _ _ _ _ _).1.keep _ _ _ h3)
  | true =>
    rw [hkn] at hk
    exact (hc _).keep _ _ _ ((admitCurds_settles m3 _ _ _ _ _).2 x (List.mem_map.mpr ⟨_, List.mem_filter.mpr ⟨hk, rfl⟩, rfl⟩))

theorem admitted_paced (a : TickAcct) (m1 : Mach) : Paced m1 (admitted a m1) :=
  (admitCal_paced _ _).after <| (admitCurds_paced _ _ _ _ _ _).after <| (admitCurds_paced _ _ _ _ _ _).after (admitPops_paced _ _)

/-- Running the counter changes no curd and no image. -/
theorem runTo_scorable (t : Int) (n : Nat) : (m.runTo t).scorable n = m.scorable n := by
  have h := (runTo_clockOnly t m).parts
  have hf : (m.runTo t).fe = m.fe := h .fe (by decide)
  have ho : (m.runTo t).own = m.own := h .own (by decide)
  have hi : (m.runTo t).images = m.images := h .images (by decide)
  unfold scorable curdsOfTick imageOfPort
  rw [hf, ho, hi]

end
end Mach

section
variable (s : State) {a : TickAcct}

theorem admission_admits (h : s.nextAdmit = some a) (hw : s.working = true) (hg : a.gridClosed = true) (he : s.earlierLeft a.tn = false) :
    Does .admission s fun t =>
      a.graceFrom + 12000 ≤ t.time.n ∧ (∃ b ∈ t.acct? a.tn, b.admitted = true) ∧
      (∀ x ∈ s.scorable a.tn, ∀ c ∈ (t.fe.get x.1).curds, c.tn = a.tn → c.index = x.2.1.index → c.admitted = true ∨ c.abandoned = true) ∧
      OnlyIn [.regs, .time, .tick, .fe, .eng, .heldDesc, .pops, .enc, .jnl, .led, .fn, .cache, .draws] s.toMach t := by
  have hx := Mach.admission_runs (m := s.toMach) h hw hg he
  have hwithin := (Mach.admission_within s.toMach).parts
  rw [hx] at hwithin
  have hsc := Mach.runTo_scorable (m := s.toMach) (a.graceFrom + 12000) a.tn
  have hreach := Mach.runTo_reaches s.toMach (a.graceFrom + 12000)
  have hc := Mach.runTo_clockOnly (a.graceFrom + 12000) s.toMach
  generalize s.toMach.runTo (a.graceFrom + 12000) = m1 at hx hwithin hsc hreach hc
  have hp := Mach.admitted_paced a m1
  have hset := Mach.admitted_settled a m1
  generalize Mach.admitted a m1 = m2 at hx hwithin hp hset
  have hs : (m2.acct? a.tn).isSome = true := by
    rw [hp.acct?_isSome]
    have : m1.acct? a.tn = s.acct? a.tn := by
      unfold Mach.acct?
      rw [hc.tick]
    rw [this]
    exact Mach.nextAdmit_acct? h
  refine does_of_act (f := Mach.admission) rfl hx ⟨?_, ?_, ?_, hwithin⟩
  · exact hreach.trans_eq hp.n.symm
  · exact Mach.acct?_marked (fun b => b.admitted = true) (fun _ => rfl) (fun _ => rfl) hs
  · intro x hm
    exact hset x (hsc ▸ hm)

end

/-- Settles O21. -/
theorem admissionSettlesEveryCurd : Obligations.AdmissionSettlesEveryCurd := by
  intro s
  exact ⟨fun h => idles_of_act (f := Mach.admission) rfl (Mach.admission_none h),
    fun a h => ⟨fun hw => idles_of_act (f := Mach.admission) rfl (Mach.admission_waits h hw), fun hw hg he => admission_admits s h hw hg he⟩⟩

end Sys2Proof.Machine

namespace Sys2Proof.Machine

set_option Elab.async false

/-! ## What follows the opening of a tick

After the account of a tick is open the functions of the boundary leave its number, its start, the accounts' names and the clock alone;
changes that wait only fall away, and no port begins to hold packets back: `Begun`. -/

/-- The tick unit without the accounts, the changes that wait, the watchdog and the counts of the summaries. -/
def begunTick (t : TickUnit) : TickUnit := { pacedTick t with pending := [] }

structure Begun (a b : Mach) : Prop where
  tick : begunTick b.tick = begunTick a.tick
  keys : b.tick.accts.map acctKey = a.tick.accts.map acctKey
  time : pacedTime b.time = pacedTime a.time
  pending : ∀ c ∈ b.tick.pending, c ∈ a.tick.pending
  held : ∀ p : Fin 16, (b.fe.get p).normHeld = true → (a.fe.get p).normHeld = true

namespace Begun

variable {a b c : Mach}

theorem refl (a : Mach) : Begun a a := ⟨rfl, rfl, rfl, fun _ h => h, fun _ h => h⟩

theorem trans (h1 : Begun a b) (h2 : Begun b c) : Begun a c :=
  ⟨h2.tick.trans h1.tick, h2.keys.trans h1.keys, h2.time.trans h1.time, fun x h => h1.pending x (h2.pending x h), fun p h => h1.held p (h2.held p h)⟩

theorem after (h2 : Begun b c) (h1 : Begun a b) : Begun a c := h1.trans h2

theorem of_parts (ht : b.tick = a.tick) (hn : b.time = a.time) (hf : b.fe = a.fe) : Begun a b :=
  ⟨by rw [ht], by rw [ht], by rw [hn], fun c h => by rwa [ht] at h, fun p h => by rwa [hf] at h⟩

theorem of_within {l : List Part} (h : Within l a b) (ht : Part.tick ∉ l := by decide) (hn : Part.time ∉ l := by decide) (hf : Part.fe ∉ l := by decide) :
    Begun a b := of_parts (h.parts .tick ht) (h.parts .time hn) (h.parts .fe hf)

theorem of_eq (a b : Mach) (ht : b.tick = a.tick := by rfl) (hn : b.time = a.time := by rfl) (hf : b.fe = a.fe := by rfl) : Begun a b := of_parts ht hn hf

theorem of_actOnly (h : ActOnly a b) : Begun a b := by
  have hf : b.fe = a.fe := h.parts .fe (by decide)
  refine ⟨?_, ?_, ?_, fun c hc => ?_, fun p hp => ?_⟩
  · rw [h.tick]; rfl
  · rw [h.tick]
  · rw [h.time]; rfl
  · rwa [h.tick] at hc
  · rwa [hf] at hp

theorem of_recOnly (h : RecOnly a b) : Begun a b := of_actOnly (.ofRec h)

theorem loop {α : Type} {xs : List α} {f : α → Mach → Mach} {m : Mach} (h : ∀ x t, Begun t (f x t)) (hm : Begun a m) : Begun a (forEach xs f m) :=
  forEach_keeps (Begun a) xs f (fun x t ht => ht.trans (h x t)) m hm

theorem foldl {α : Type} {m : Mach} {xs : List α} {f : Mach → α → Mach} (h : ∀ t x, Begun t (f t x)) (hm : Begun a m) : Begun a (xs.foldl f m) := by
  induction xs generalizing m with
  | nil => exact hm
  | cons x r ih => exact ih (hm.trans (h m x))

/-- The second component of a pair that is known. -/
theorem snd {α : Type} {p : α × Mach} {x : α} (he : p = (x, c)) (h : Begun b p.2) : Begun b c := by
  rwa [he] at h

/-- The third component of a triple that is known. -/
theorem snd_snd {α β : Type} {p : α × β × Mach} {x : α} {y : β} (he : p = (x, y, c)) (h : Begun b p.2.2) : Begun b c := by
  rwa [he] at h

/-- The first component of a pair that is known. -/
theorem fst {α : Type} {p : Mach × α} {x : α} (he : p = (c, x)) (h : Begun b p.1) : Begun b c := by
  rwa [he] at h

/-- A fold that carries a value beside the package. -/
theorem foldl_snd {α β : Type} {i : β × Mach} {xs : List α} {f : β × Mach → α → β × Mach} (h : ∀ s x, Begun s.2 (f s x).2) (hi : Begun a i.2) :
    Begun a (xs.foldl f i).2 := by
  induction xs generalizing i with
  | nil => exact hi
  | cons x r ih => exact ih (hi.trans (h i x))

/-- A fold that carries a value behind the package. -/
theorem foldl_fst {α β : Type} {i : Mach × β} {xs : List α} {f : Mach × β → α → Mach × β} (h : ∀ s x, Begun s.1 (f s x).1) (hi : Begun a i.1) :
    Begun a (xs.foldl f i).1 := by
  induction xs generalizing i with
  | nil => exact hi
  | cons x r ih => exact ih (hi.trans (h i x))

theorem tn (h : Begun a b) : b.tick.tn = a.tick.tn := (congrArg TickUnit.tn h.tick :)
theorem start (h : Begun a b) : b.tick.start = a.tick.start := (congrArg TickUnit.start h.tick :)
theorem origin (h : Begun a b) : b.tick.origin = a.tick.origin := (congrArg TickUnit.origin h.tick :)
theorem period (h : Begun a b) : b.tick.period = a.tick.period := (congrArg TickUnit.period h.tick :)
theorem jumpNext (h : Begun a b) : b.tick.jumpNext = a.tick.jumpNext := (congrArg TickUnit.jumpNext h.tick :)
theorem n (h : Begun a b) : b.time.n = a.time.n := (congrArg TimeUnit.n h.time :)
theorem servo (h : Begun a b) : b.time.servo = a.time.servo := (congrArg TimeUnit.servo h.time :)

end Begun

namespace Mach

theorem onTrig_begun {m : Mach} {o : Fin 8} {f : TrigOut → TrigOut} : Begun m (m.onTrig o f) := ⟨rfl, rfl, rfl, fun _ h => h, fun _ h => h⟩

theorem onTick_begun {m : Mach} {f : TickUnit → TickUnit} (h : ∀ t, begunTick (f t) = begunTick t := by intro t; rfl)
    (hk : ∀ t, (f t).accts = t.accts := by intro t; rfl) (hp : ∀ t, ∀ c ∈ (f t).pending, c ∈ t.pending := by intro t c h; exact h) : Begun m (m.onTick f) :=
  ⟨h m.tick, congrArg (List.map acctKey) (hk m.tick), rfl, hp m.tick, fun _ h => h⟩

theorem onAcct_begun {m : Mach} {n : Nat} {f : TickAcct → TickAcct} (h : ∀ a, acctKey (f a) = acctKey a := by intro a; rfl) : Begun m (m.onAcct n f) :=
  ⟨rfl, (onAcct_paced h).keys, rfl, fun _ h => h, fun _ h => h⟩

theorem onFe_begun {m : Mach} {p : Fin 16} {f : Fe → Fe} (h : ∀ x, (f x).normHeld = true → x.normHeld = true := by intro x h; exact h) :
    Begun m (m.onFe p f) := by
  refine ⟨rfl, rfl, rfl, fun _ h => h, fun q hq => ?_⟩
  by_cases hpq : q = p
  · rw [hpq, onFe_get_self] at hq
    exact hpq ▸ h _ hq
  · rwa [onFe_get_ne _ _ hpq] at hq

theorem onEng_begun {m : Mach} {e : Fin 72} {f : Engine → Engine} : Begun m (m.onEng e f) := .of_parts rfl rfl rfl
theorem onLvl_begun {m : Mach} {d : Fin 4} {f : DieLevel → DieLevel} : Begun m (m.onLvl d f) := .of_parts rfl rfl rfl

/-! ### The functions of the boundary -/

theorem endQueued_begunLoop {a m : Mach} {one : Desc → Mach → Mach} {e : Fin 72} {which : Desc → Bool} (h : ∀ d t, Begun t (one d t)) (hm : Begun a m) :
    Begun a (endQueued one e which m) := by
  unfold endQueued
  extract_lets x m3
  have hm3 : Begun a m3 := Begun.loop h (hm.trans onEng_begun)
  clear_value m3
  split
  · rename_i r _
    split
    · have hm4 : Begun a (m3.closeWork e r.desc).2 := (Begun.of_within (closeWork_within e r.desc m3)).after hm3
      exact (h _ _).after ((Begun.of_within (dropLayers_within _ _)).after (onEng_begun.after hm4))
    · exact hm3
  · exact hm3

theorem endDescs_begunLoop {a m : Mach} {one : Desc → Mach → Mach} {e : Fin 72} {which : Desc → Bool} (h : ∀ d t, Begun t (one d t)) (hm : Begun a m) :
    Begun a (endDescs one e which m) := by
  unfold endDescs
  extract_lets held m1
  have hm1 : Begun a m1 := Begun.trans hm (.of_eq _ _)
  exact (Begun.of_within (pumpHeld_within _ _)).after (Begun.loop h (endQueued_begunLoop h hm1))

theorem spend_begun (tn : ℕ) (c : ℤ) (m : Mach) : Begun m (spend tn c m) := by
  unfold spend
  exact (onAcct_begun)

theorem onCurd_begun (p : Fin 16) (tn : ℕ) (index : ℕ) (f : Curd → Curd) (m : Mach) : Begun m (onCurd p tn index f m) := by
  unfold onCurd
  exact (onFe_begun)

theorem addBad_begun (tn : Nat) (p : Nat) (cause : Nat) (m : Mach) : Begun m (addBad tn p cause m) :=
  onAcct_begun fun a => by split <;> rfl

theorem classLost_begun (d : Desc) (m : Mach) : Begun m (classLost d m) := by
  unfold classLost
  extract_lets m1
  exact (onCurd_begun _ _ _ _ _).after <| (addBad_begun _ _ _ _).after <| (onAcct_begun).after <| (spend_begun _ _ _).after <| (Begun.of_within (debitNj_within _ _ _)).after <| .refl _

theorem abandonDesc_begun (e : Fin 72) (d : Desc) (m : Mach) : Begun m (abandonDesc e d m) := by
  unfold abandonDesc
  exact (classLost_begun _ _).after <| (Begun.of_within (set1_within _ _)).after <| (Begun.of_within (inc_within _ _)).after <| .refl _

theorem abandonEng_begun (e : Fin 72) (which : Desc → Bool) (m : Mach) : Begun m (abandonEng e which m) := by
  unfold abandonEng
  exact endDescs_begunLoop (fun d t => (abandonDesc_begun _ _ _)) (Begun.refl _)

theorem armWdog_begun (m : Mach) : Begun m m.armWdog := onTick_begun

theorem abandonEntry_begun (m : Mach) : Begun m (abandonEntry m) := by
  unfold abandonEntry
  exact (armWdog_begun _).after <| (Begun.of_within (onSleep_within _ _)).after <| .refl _

theorem endPopTick_begun (f : Fin 8) (tn : ℕ) (m : Mach) : Begun m (endPopTick f tn m) := by
  unfold endPopTick
  extract_lets est work act m1
  have hm1 : Begun m m1 := by
    unfold m1
    exact Begun.loop (fun x t => (Begun.of_within (rawWork_within _ _ _ _))) ((spend_begun _ _ _).after <| (Begun.of_within (debitNj_within _ _ _)).after <| .refl _)
  exact (Begun.of_within (onFn_within _ _ _)).after <| (Begun.of_within (onLed_within _ _)).after <| hm1

theorem abandonPop_begun (f : Fin 8) (tn : ℕ) (i : ℕ) (m : Mach) : Begun m (abandonPop f tn i m) := by
  unfold abandonPop
  exact (endPopTick_begun _ _ _).after <| (Begun.of_within (lostPhases_within _ _ _ _)).after <| (Begun.of_within (drainSpikes_within _ _)).after <| .refl _

theorem countRefused_begun (cls : ℕ) (m : Mach) : Begun m (countRefused cls m) := by
  unfold countRefused
  extract_lets f
  exact (onTick_begun).after <| (Begun.of_within (inc_within _ _)).after <| .refl _

theorem admitRec_begun (f : Fin 8) (b : Body) (flags : ℕ) (m : Mach) : Begun m (admitRec f b flags m).2 := by
  unfold admitRec
  split
  · exact Begun.refl _
  · extract_lets cls bank slotNeed s
    split
    rename_i x fst m1 heq
    split
    · exact (countRefused_begun _ _)
    · split
      · refine (countRefused_begun _ _).after <| ?_
        have hm1 : Begun m m1 := by
          refine Begun.snd heq ?_
          split
          · exact (Begun.of_within (freeEarly_within _ _))
          · exact Begun.refl _
        exact hm1
      · split
        · refine (countRefused_begun _ _).after <| ?_
          have hm1 : Begun m m1 := by
            refine Begun.snd heq ?_
            split
            · exact (Begun.of_within (freeEarly_within _ _))
            · exact Begun.refl _
          exact hm1
        · extract_lets m2 copies n slot r m3
          have hm2 : Begun m m2 := by
            unfold m2
            refine (Begun.of_within (writeCopies_within _ _)).after <| ?_
            have hm1 : Begun m m1 := by
              refine Begun.snd heq ?_
              split
              · exact (Begun.of_within (freeEarly_within _ _))
              · exact Begun.refl _
            exact hm1
          split
          · exact (countRefused_begun _ _).after <| hm2
          · exact (Begun.of_within (inc_within _ _)).after <| (Begun.of_within (onJnl_within _ _)).after <| (Begun.of_within (scDrop_within _ _)).after <| hm2

theorem admitAll_begun (b : Body) (flags : ℕ) (m : Mach) : Begun m (admitAll b flags m) := by
  unfold admitAll
  exact Begun.loop (fun x t => (admitRec_begun _ _ _ _)) (Begun.refl _)

theorem sayLost_begun (m : Mach) : Begun m (sayLost m) := by
  unfold sayLost
  refine Begun.loop (fun x t => ?_) ?_
  · extract_lets t1 bank
    split
    · exact (Begun.of_within (syncDelivery_within _)).after <| (Begun.of_within (onJnl_within _ _)).after <| (admitAll_begun _ _ _).after <| (Begun.of_within (onJnl_within _ _)).after <| .refl _
    · exact (admitAll_begun _ _ _).after <| (Begun.of_within (onJnl_within _ _)).after <| .refl _
  · exact Begun.refl _

theorem onceHealth_begun (h : HCode) (u : HUnit) (n : Nat) (m : Mach) : Begun m (m.onceHealth h u n) := .of_recOnly (onceHealth_recOnly h u n m)

theorem afterRefusal_begun (cls : ℕ) (why : Option Refused) (m : Mach) : Begun m (afterRefusal cls why m) := by
  unfold afterRefusal
  split
  · exact (onceHealth_begun _ _ _ _)
  · split
    · exact Begun.refl _
    · exact (onceHealth_begun _ _ _ _)
  · exact Begun.refl _

theorem write_begun (f : Fin 8) (b : Body) (flags : Nat) (m : Mach) : Begun m (m.write f b flags).2 := .of_recOnly (write_recOnly f b flags m)

theorem write'_begun (f : Fin 8) (b : Body) (flags : Nat) (m : Mach) : Begun m (m.write' f b flags) := .of_recOnly (write'_recOnly f b flags m)

theorem missAction_begun (c : MissCause) (a : Action) (m : Mach) : Begun m (m.missAction c a) := .of_actOnly (missAction_actOnly c a m)

theorem fireAction_begun (late also : Bool) (a : Action) (m : Mach) : Begun m (m.fireAction late also a) := .of_actOnly (fireAction_actOnly late also a m)

theorem lateAction_begun (c : MissCause) (a : Action) (m : Mach) : Begun m (m.lateAction c a) := .of_actOnly (lateAction_actOnly c a m)

theorem writeAll_begun (b : Body) (flags : Nat) (m : Mach) : Begun m (m.writeAll b flags) := .of_recOnly (writeAll_recOnly b flags m)

theorem health_begun (h : HCode) (u : HUnit) (d : List Nat) (m : Mach) : Begun m (m.health h u d) := .of_recOnly (health_recOnly h u d m)

theorem ueHit_begun (a : ℕ) (m : Mach) : Begun m (ueHit a m) := by
  unfold ueHit
  extract_lets d
  exact (health_begun _ _ _ _).after <| (Begun.of_within (wr_within _ _ _)).after <| (Begun.of_within (put_within _ _ _)).after <| (Begun.of_within (inc_within _ _)).after <| .refl _

theorem fetchElement_begun (e : Fin 72) (im : Image) (s : StreamRec) (m : Mach) : Begun m (fetchElement e im s m) := by
  unfold fetchElement
  split
  · exact Begun.refl _
  · split
    · exact Begun.refl _
    · extract_lets at_ m1
      split
      · exact (abandonEng_begun _ _ _).after <| (ueHit_begun _ _).after <| .refl _
      · exact (onEng_begun).after <| (Begun.of_within (sramPut_within _ _ _ _)).after <| (Begun.of_within (hubRead_within _ _ _ _)).after <| .refl _

theorem takeElements_begun (e : Fin 72) (im : Image) (s : StreamRec) (n : Nat) (m : Mach) : Begun m (takeElements e im s n m).2 := by
  induction n generalizing m with
  | zero => exact Begun.refl _
  | succ n ih =>
    unfold takeElements
    split
    · exact Begun.refl _
    · split
      · exact Begun.refl _
      · extract_lets m1 b m2
        have hm1 : Begun m m1 := by
          unfold m1
          split
          · exact Begun.refl _
          · exact (fetchElement_begun _ _ _ _).after (Begun.of_within (onFn_within _ _ _))
        exact (ih _).after <| (onEng_begun (e := e)).after hm1

theorem layerStep_begun (e : Fin 72) (m : Mach) : Begun m (layerStep e m).2.2 := by
  unfold layerStep
  split
  · exact Begun.refl _
  · split
    · exact Begun.refl _
    · split
      · exact Begun.refl _
      · extract_lets strm
        split
        rename_i x wmem wbase m1 heq
        split
        · have hm1 : Begun m m1 := by
            refine Begun.snd_snd heq ?_
            clear_value strm
            split
            · extract_lets n
              split
              rename_i x1 rest m3 heq1
              exact (Begun.snd heq1 (takeElements_begun _ _ _ _ _))
            · exact Begun.refl _
          exact hm1
        · extract_lets edge o x1 m2 m3
          have hx1 : Begun m x1 := by
            unfold x1
            refine (Begun.of_within (sramPut_within _ _ _ _)).after <| ?_
            have hm1 : Begun m m1 := by
              refine Begun.snd_snd heq ?_
              clear_value strm
              split
              · extract_lets n
                split
                rename_i x2 rest m31 heq1
                exact (Begun.snd heq1 (takeElements_begun _ _ _ _ _))
              · exact Begun.refl _
            exact hm1
          have hm2 : Begun m m2 := by
            unfold m2
            have hx11 : Begun m x1 := by
              exact hx1
            clear_value x1
            refine Begun.after (b := x1) (Begun.of_eq _ _) ?_
            exact hx1
          exact (Begun.of_within (addTo_within _ _ _)).after <| (Begun.of_within (addTo_within _ _ _)).after <| (onEng_begun).after <| hm2

theorem runLayer_begun (e : Fin 72) (m : Mach) : Begun m (runLayer e m) := by
  unfold runLayer
  split
  rename_i x sats fst m1 heq
  split
  · have hm1 : Begun m m1 := by
      refine Begun.snd_snd heq ?_
      exact (layerStep_begun _ _)
    exact hm1
  · refine (Begun.of_within (set1_within _ _)).after <| (Begun.of_within (addTo_within _ _ _)).after <| ?_
    have hm1 : Begun m m1 := by
      refine Begun.snd_snd heq ?_
      exact (layerStep_begun _ _)
    exact hm1

theorem putCode_begun (p : Fin 16) (pol : Bool) (x : ℕ) (y : ℕ) (code : ℕ) (m : Mach) : Begun m (putCode p pol x y code m) := by
  unfold putCode
  extract_lets i c v
  exact (onFe_begun)

theorem onRunning_begun {f : TickAcct → TickAcct} {m : Mach} (h : ∀ a, acctKey (f a) = acctKey a := by intro a; rfl) : Begun m (onRunning f m) :=
  onAcct_begun h

theorem runSome_begun (e : Fin 72) (n : Nat) (m : Mach) : Begun m (runSome e n m) := by
  induction n generalizing m with
  | zero => exact Begun.refl _
  | succ n ih =>
    unfold runSome
    split
    · exact Begun.refl _
    · split
      · exact (ih _).after (runLayer_begun _ _)
      · exact Begun.refl _

theorem settleRun_begun (e : Fin 72) (m : Mach) : Begun m (settleRun e m) := by
  unfold settleRun
  split
  · exact Begun.refl _
  · split
    · exact Begun.refl _
    · split
      rename_i x v m1 heq
      extract_lets m2 part
      exact (onEng_begun).after <| (runSome_begun _ _ _).after <| (Begun.snd heq (Begun.of_within (drawNat_within _))).after <| .refl _

theorem setEdge_begun (d : Fin 4) (edge : Bool) (m : Mach) : Begun m (setEdge d edge m) := by
  unfold setEdge
  split
  · exact Begun.refl _
  · refine (onLvl_begun).after <| ?_
    exact Begun.loop (fun x t => (settleRun_begun _ _)) (Begun.refl _)

theorem installHom_begun (k : ℕ) (p : Fin 16) (h : Hom) (tnEff : ℕ) (dCd : ℤ) (dMd : ℤ) (pairs : ℕ) (m : Mach) : Begun m (installHom k p h tnEff dCd dMd pairs m) := by
  unfold installHom
  extract_lets old m1
  exact (write'_begun _ _ _ _).after <| (Begun.of_within (onFus_within _ _)).after <| .refl _

theorem applyCalChange_begun (k : ℕ) (p : Pending) (m : Mach) : Begun m (applyCalChange k p m) := by
  unfold applyCalChange
  split
  · refine (Begun.of_within (donePending_within _ _ _)).after <| ?_
    exact Begun.loop (fun x t => (installHom_begun _ _ _ _ _ _ _ _).after <| (Begun.of_within (dropSums_within _ _)).after <| (Begun.of_within (dropInstalls_within _ _)).after <| .refl _) (Begun.refl _)
  · refine (Begun.of_within (donePending_within _ _ _)).after <| ?_
    refine Begun.loop (fun x t => ?_) ?_
    · extract_lets now bit
      exact (Begun.of_within (put_within _ _ _)).after <| (Begun.of_within (dropInstalls_within _ _)).after <| .refl _
    · exact Begun.refl _
  · exact Begun.refl _

theorem eachDue_begunLoop {a m : Mach} {due : List Pending} {kind : Nat} {f : Pending → Mach → Mach} (h : ∀ p t, Begun t (f p t)) (hm : Begun a m) :
    Begun a (eachDue due kind f m) :=
  Begun.loop (fun _ _ => Begun.loop h (Begun.refl _)) hm

theorem installOnline_begun (k : ℕ) (i : CalInst) (m : Mach) : Begun m (installOnline k i m) := by
  unfold installOnline
  extract_lets p h raw
  split
  rename_i x es m1 heq
  refine (Begun.of_within (inc_within _ _)).after <| (installHom_begun _ _ _ _ _ _ _ _).after <| ?_
  have hm1 : Begun m m1 := by
    refine Begun.snd heq ?_
    refine Begun.foldl_snd (fun s x1 => ?_) ?_
    · split
      rename_i x2 md t2 heq1
      exact (Begun.snd heq1 (Begun.of_within (fit64_within _ _)))
    · exact Begun.refl _
  exact hm1

theorem installsDue_begun (k : ℕ) (m : Mach) : Begun m (installsDue k m) := by
  unfold installsDue
  extract_lets due
  exact Begun.loop (fun x t => (installOnline_begun _ _ _)) ((Begun.of_within (onFus_within _ _)))

/-- Changes that fall due leave the list. -/
theorem dropPending_begun (m : Mach) (keep : Pending → Bool) : Begun m (m.onTick fun t => { t with pending := t.pending.filter keep }) :=
  onTick_begun (hp := fun _ _ h => List.mem_of_mem_filter h)

theorem applyDue_begun (k : Nat) (m : Mach) : Begun m (applyDue k m) := by
  unfold applyDue
  extract_lets isDue due m1 m2 m3
  have hm1 : Begun m m1 := dropPending_begun m _
  have hm2 : Begun m m2 := eachDue_begunLoop (fun p t => .of_within (applyMapChange_within _ _ t)) (eachDue_begunLoop (fun p t => .of_within (applyGraphChange_within _ _ t)) hm1)
  have hm3 : Begun m m3 := (installsDue_begun _ _).after (eachDue_begunLoop (fun p t => applyCalChange_begun _ _ _) hm2)
  exact eachDue_begunLoop (fun p t => .of_within (applyQualityChange_within _ _ t)) (eachDue_begunLoop (fun p t => .of_within (applyRuleChange_within _ _ t)) hm3)

theorem applyHot_begun (p : Fin 16) (m : Mach) : Begun m (applyHot p m) := by
  unfold applyHot
  extract_lets base n
  refine Begun.loop (fun x t => ?_) ?_
  · extract_lets e x1 y
    split
    · exact (putCode_begun _ _ _ _ _ _)
    · exact Begun.refl _
  · exact Begun.refl _

theorem cancelPending_begun (which : Pending → Bool) (m : Mach) : Begun m (cancelPending which m) :=
  Begun.loop (fun _ t => Begun.of_within (donePending_within _ _ t)) (dropPending_begun m _)

theorem applyStagedFe_begun (p : Fin 16) (m : Mach) : Begun m (applyStagedFe p m) := by
  unfold applyStagedFe
  extract_lets st
  refine Begun.loop (fun x t => ?_) ?_
  · split
    · exact (Begun.of_within (wr_within _ _ _))
    · exact (Begun.of_within (set1_within _ _))
  · exact (onFe_begun)

theorem sleepBoundary_begun (m : Mach) : Begun m (sleepBoundary m) := by
  unfold sleepBoundary
  split
  · split
    · exact (abandonEntry_begun _)
    · split
      · exact (health_begun _ _ _ _).after <| (Begun.of_within (onSleep_within _ _)).after <| .refl _
      · exact Begun.refl _
  · split
    · exact (health_begun _ _ _ _).after <| (armWdog_begun _).after <| (Begun.of_within (onSleep_within _ _)).after <| .refl _
    · exact Begun.refl _

theorem flrBoundary_begun (f : Fin 8) (k : ℕ) (m : Mach) : Begun m (flrBoundary f k m) := by
  unfold flrBoundary
  extract_lets m0 m1 m2 m3 n
  have hm0 : Begun m m0 := by
    unfold m0
    exact Begun.loop (fun x t => (abandonEng_begun _ _ _)) (Begun.refl _)
  have hm1 : Begun m m1 := by
    unfold m1
    split
    · exact (abandonPop_begun _ _ _ _).after <| hm0
    · exact hm0
  have hm2 : Begun m m2 := by
    unfold m2
    have hm11 : Begun m m1 := by
      exact hm1
    clear_value m1
    refine Begun.after (b := m1) (Begun.of_eq _ _) ?_
    exact hm1
  exact (Begun.of_within (addTo_within _ _ _)).after <| (Begun.of_within (onFus_within _ _)).after <| (Begun.of_within (onFn_within _ _ _)).after <| hm2

theorem learnEvent_begun (p : Fin 16) (l : Learn) (w : EvWord) (m : Mach) : Begun m (learnEvent p l w m) := by
  unfold learnEvent
  extract_lets s inside i
  split
  · exact (onFe_begun)
  · exact Begun.refl _

/-- The port holds no normal packets back from the boundary on (R88). -/
theorem feBoundary_opens (k : Nat) (start : Int) (p : Fin 16) (m : Mach) :
    ∃ m1 : Mach, Begun m m1 ∧ (m1.fe.get p).normHeld = false ∧ Begun m1 (feBoundary k start p m) := by
  unfold feBoundary
  extract_lets m0 m1 m2 f m3
  have hm0 : Begun m m0 := by
    unfold m0
    split
    · exact Begun.refl _
    · exact applyStagedFe_begun _ _
  have hm1 : Begun m m1 := (onFe_begun fun _ h => by cases h).after hm0
  have hoff : (m1.fe.get p).normHeld = false := by
    unfold m1
    rw [onFe_get_self]
  have hm2 : Begun m1 m2 := by
    unfold m2
    split
    · exact (onFe_begun).after (applyHot_begun _ _)
    · exact Begun.refl _
  refine ⟨m1, hm1, hoff, ?_⟩
  split
  · split
    · exact (onFe_begun).after hm2
    · exact hm2
  · split
    · split
      · exact (learnEvent_begun _ _ _ _).after ((onFe_begun).after hm2)
      · exact (onFe_begun).after hm2
    · split
      · split
        · exact (onFe_begun).after hm2
        · exact hm2
      · exact hm2

theorem feBoundary_begun (k : Nat) (start : Int) (p : Fin 16) (m : Mach) : Begun m (feBoundary k start p m) := by
  obtain ⟨m1, h1, -, h2⟩ := feBoundary_opens k start p m
  exact h2.after h1

theorem closeEnergy_begun (n : ℕ) (m : Mach) : Begun m (closeEnergy n m) := by
  unfold closeEnergy
  split
  rename_i x v m1 heq
  extract_lets l
  exact (onAcct_begun).after <| (Begun.snd heq (Begun.of_within (drawNat_within _))).after <| .refl _

theorem clampK_begun (lo : ℤ) (hi : ℤ) (v : ℤ) (m : Mach) : Begun m (clampK lo hi v m).2 := by
  unfold clampK
  extract_lets c m1 fresh
  split
  · exact Begun.refl _
  · split
    · exact (health_begun _ _ _ _).after <| (Begun.of_within (onLed_within _ _)).after <| (Begun.of_within (set1_within _ _)).after <| (Begun.of_within (inc_within _ _)).after <| .refl _
    · exact (Begun.of_within (set1_within _ _)).after <| (Begun.of_within (inc_within _ _)).after <| .refl _

theorem updateK_begun (g : Fin 6) (m : Mach) : Begun m (updateK g m) := by
  unfold updateK
  extract_lets raw
  split
  · exact Begun.refl _
  · split
    rename_i x v m1 heq
    extract_lets k
    split
    rename_i x1 v1 m11 heq1
    exact (Begun.of_within (put_within _ _ _)).after <| (Begun.snd heq1 (clampK_begun _ _ _ _)).after <| (Begun.snd heq (Begun.of_within (drawNat_within _))).after <| .refl _

theorem judgeWindow_begun (m : Mach) : Begun m (judgeWindow m) := by
  unfold judgeWindow
  extract_lets broke run good m1 m2 m3
  have hm2 : Begun m m2 := by
    unfold m2
    split
    · exact (Begun.of_within (inc_within _ _)).after <| (Begun.of_within (onLed_within _ _)).after <| .refl _
    · exact (Begun.of_within (onLed_within _ _))
  have hm3 : Begun m m3 := by
    unfold m3
    split
    · exact (health_begun _ _ _ _).after <| (Begun.of_within (ledgerDown_within _)).after <| (Begun.of_within (onLed_within _ _)).after <| hm2
    · exact hm2
  split
  · exact (Begun.of_within (ledgerUp_within _)).after <| (Begun.of_within (onLed_within _ _)).after <| hm3
  · exact hm3

theorem leaveEdge_begun (d : Fin 4) (m : Mach) : Begun m (leaveEdge d m) := by
  unfold leaveEdge
  split
  · exact (onLvl_begun).after <| (setEdge_begun _ _ _).after <| .refl _
  · exact Begun.refl _

theorem changeLevel_begun (d : Fin 4) (level : ℕ) (edge : Bool) (m : Mach) : Begun m (changeLevel d level edge m) := by
  unfold changeLevel
  extract_lets l m1
  have hm1 : Begun m m1 := by
    unfold m1
    split
    · exact Begun.refl _
    · exact (leaveEdge_begun _ _)
  split
  · exact (onLvl_begun).after <| (setEdge_begun _ _ _).after <| .refl _
  · split
    · exact (Begun.of_within (emit_within _ _)).after <| (onLvl_begun).after <| (setEdge_begun _ _ _).after <| .refl _
    · split
      · exact hm1
      · exact (Begun.of_within (emit_within _ _)).after <| (onLvl_begun).after <| hm1

theorem levelAt_begun (k : ℕ) (d : Fin 4) (m : Mach) : Begun m (levelAt k d m) := by
  unfold levelAt
  extract_lets l0 m1 l
  split
  · exact (Begun.of_within (holdAt_within _ _))
  · split
    · split
      · exact (Begun.of_within (holdAt_within _ _))
      · exact (leaveEdge_begun _ _).after <| (Begun.of_within (holdAt_within _ _)).after <| .refl _
    · split
      · exact (changeLevel_begun _ _ _ _).after <| (Begun.of_within (holdAt_within _ _)).after <| .refl _
      · exact (changeLevel_begun _ _ _ _).after <| (Begun.of_within (holdAt_within _ _)).after <| .refl _
      · exact (changeLevel_begun _ _ _ _).after <| (Begun.of_within (holdAt_within _ _)).after <| .refl _

theorem ledgerBoundary_begun (k : ℕ) (m : Mach) : Begun m (ledgerBoundary k m) := by
  unfold ledgerBoundary
  extract_lets m1 old m2 new
  have hm1 : Begun m m1 := by
    unfold m1
    exact Begun.loop (fun x t => (Begun.of_within (applyG_within _ _)).after <| (updateK_begun _ _).after <| .refl _) (Begun.refl _)
  refine (Begun.of_within (openWindow_within _)).after <| (Begun.of_within (putLedger_within _ _)).after <| ?_
  exact Begun.loop (fun x t => (levelAt_begun _ _ _)) ((Begun.of_within (putLedger_within _ _)).after <| (Begun.of_within (applyStagedPwr_within _)).after <| (judgeWindow_begun _).after <| hm1)

theorem debit_begun (it : Item) (k : Work) (d : Fin 4) (n : ℕ) (tn : ℕ) (m : Mach) : Begun m (debit it k d n tn m) := by
  unfold debit
  extract_lets c
  exact (Begun.of_within (rawWork_within _ _ _ _)).after <| (spend_begun _ _ _).after <| (Begun.of_within (debitNj_within _ _ _)).after <| .refl _

theorem neuronSweep_begun (n : ℕ) (m : Mach) : Begun m (neuronSweep n m) := by
  unfold neuronSweep
  extract_lets held first
  refine Begun.loop (fun x t => ?_) ?_
  · split
    · extract_lets before base mine
      refine Begun.loop (fun x1 t1 => ?_) ?_
      · extract_lets x2 edge d
        split
        extract_lets z x3
        have hx3 : Begun t1 x3 := by
          exact (Begun.of_within (putNeuron_within _ _ _ _ _))
        clear_value x3
        refine Begun.after (b := x3) (Begun.of_eq _ _) ?_
        exact hx3
      · split
        · exact Begun.refl _
        · exact (debit_begun _ _ _ _ _ _)
    · exact Begun.refl _
  · exact Begun.refl _

theorem openPorts_begun (m : Mach) : Begun m (openPorts m) := onRunning_begun

end Mach
end Sys2Proof.Machine

namespace Sys2Proof.Machine

set_option Elab.async false

namespace Mach

/-! ## The next tick begins (R31, R45, R51) -/

section
variable {m : Mach} {n : Nat}

/-- The account of a tick after its own update. -/
theorem acct?_onAcct_self {f : TickAcct → TickAcct} (hf : ∀ a, (f a).tn = a.tn) : (m.onAcct n f).acct? n = (m.acct? n).map f := by
  unfold acct? onAcct
  dsimp only
  induction m.tick.accts with
  | nil => rfl
  | cons a r ih =>
    by_cases h : a.tn = n
    · rw [List.map_cons, if_pos h, List.find?_cons_of_pos (by simp [hf, h]), List.find?_cons_of_pos (by simp [h])]
      rfl
    · rw [List.map_cons, if_neg h, List.find?_cons_of_neg (by simp [h]), List.find?_cons_of_neg (by simp [h])]
      exact ih

/-- The names of the accounts settle which account is found. -/
theorem acct?_key (m : Mach) (n : Nat) : (m.acct? n).map acctKey = (m.tick.accts.map acctKey).find? fun k => k.1 == n := by
  rw [List.find?_map]
  rfl

end

theorem acct?_begun {a b : Mach} (h : Begun a b) (n : Nat) : (b.acct? n).map acctKey = (a.acct? n).map acctKey := by
  rw [acct?_key, acct?_key, h.keys]

section
variable (m : Mach) (k : Nat) (start tEnd lenEnd : Int) (stepped : Bool)

/-- The tick's account is closed and the next one opened. -/
def opened : Mach := ((m.closeTick tEnd lenEnd start).sleepBoundary).openAcct k start stepped

theorem releaseRecs_all (m : Mach) : ∀ r ∈ (m.releaseRecs fun _ => true).jnl.recs, r.released = true := by
  intro r hr
  obtain ⟨r', -, rfl⟩ := List.mem_map.mp hr
  split
  · rfl
  · next h => simpa using h

/-- What the boundary leaves once the account is open: no port holds packets back, and every record is released. -/
theorem beginTick_spec :
    Begun (opened m k start tEnd lenEnd stepped) (m.beginTick k start tEnd lenEnd stepped) ∧
    (∀ p : Fin 16, ((m.beginTick k start tEnd lenEnd stepped).fe.get p).normHeld = false) ∧
    ∀ r ∈ (m.beginTick k start tEnd lenEnd stepped).jnl.recs, r.released = true := by
  unfold beginTick
  extract_lets n awake m1 m2 m3 m4 m5 m6 m7 m8 m9 m10
  have h1 : Begun (opened m k start tEnd lenEnd stepped) m1 := .of_within (onJnl_within _ _)
  clear_value m1
  have h2 : Begun m1 m2 := .loop (fun f t => flrBoundary_begun f k t) (.refl _)
  clear_value m2
  have h3 : Begun m2 m3 := by
    unfold m3
    split
    · exact (Begun.of_within (loadsAt_within _ _)).after (applyDue_begun _ _)
    · exact .refl _
  clear_value m3
  have h4 : Begun m3 m4 := .loop (fun p t => feBoundary_begun k start p t) (.refl _)
  have hoff : ∀ p : Fin 16, (m4.fe.get p).normHeld = false := fun p =>
    forEach_reaches (fun (p : Fin 16) (t : Mach) => (t.fe.get p).normHeld = false) _ _ (fun p t => by
      obtain ⟨u, -, hu, hb⟩ := feBoundary_opens k start p t
      exact Bool.eq_false_iff.mpr fun h => Bool.eq_false_iff.mp hu (hb.held p h))
      (fun p q t hq => Bool.eq_false_iff.mpr fun h => Bool.eq_false_iff.mp hq ((feBoundary_begun k start p t).held q h)) m3 p (List.mem_finRange p)
  clear_value m4
  have h5 : Begun m4 m5 := (Begun.of_within (mapsDone_within _)).after (.of_within (applyStagedHub_within _))
  clear_value m5
  have h6 : Begun m5 m6 := by
    unfold m6
    split
    · exact (closeEnergy_begun _ _).after (ledgerBoundary_begun _ _)
    · exact .loop (fun d t => Begun.of_within (holdAt_within d t)) (.of_within (applyStagedPwr_within _))
  clear_value m6
  have h7 : Begun m6 m7 := by
    unfold m7
    split
    · exact neuronSweep_begun _ _
    · exact .refl _
  clear_value m7
  have h8 : Begun m7 m8 := .loop (fun f t => Begun.of_within (tapFlush_within f t)) (.refl _)
  clear_value m8
  have h9 : Begun m8 m9 := .loop (fun l t => Begun.of_within (refuseCheck_within l t)) ((openPorts_begun _).after (Begun.of_within (releaseHeld_within _ _)))
  clear_value m9
  have h10 : Begun m9 m10 := onTick_begun
  clear_value m10
  have hlast : Begun m10 (m10.releaseRecs fun _ => true) := .of_within (releaseRecs_within _ _)
  have hfrom4 : Begun m4 (m10.releaseRecs fun _ => true) := hlast.after (h10.after (h9.after (h8.after (h7.after (h6.after h5)))))
  refine ⟨hfrom4.after (h4.after (h3.after (h2.after h1))), fun p => Bool.eq_false_iff.mpr fun h => Bool.eq_false_iff.mp (hoff p) (hfrom4.held p h), fun r hr => ?_⟩
  exact releaseRecs_all m10 r hr

/-- The tick that opens. -/
theorem opened_spec :
    let t := opened m k start tEnd lenEnd stepped
    t.tick.tn = k ∧ t.tick.start = start ∧ t.tick.jumpNext = false ∧ t.tick.origin = m.tick.origin ∧ t.tick.period = m.tick.period ∧
    (∀ c ∈ t.tick.pending, c ∈ m.tick.pending) ∧ t.time.n = m.time.n ∧ t.time.servo = m.time.servo ∧
    (∃ a r, t.tick.accts = a :: r ∧ a.tn = k ∧ a.start = start ∧ a.tEnd = none ∧ a.jump = m.tick.jumpNext) ∧
    ∀ n, n ≠ k → (t.acct? n).map acctKey = ((m.closeTick tEnd lenEnd start).acct? n).map acctKey := by
  intro t
  have hs : Begun (m.closeTick tEnd lenEnd start) (m.closeTick tEnd lenEnd start).sleepBoundary := sleepBoundary_begun _
  refine ⟨rfl, rfl, rfl, hs.origin, hs.period, hs.pending, hs.n, hs.servo, ⟨_, _, rfl, rfl, rfl, rfl, hs.jumpNext⟩, fun n hn => ?_⟩
  rw [← acct?_begun hs n]
  have : t.acct? n = ((m.closeTick tEnd lenEnd start).sleepBoundary).acct? n := by
    unfold t opened acct? openAcct
    exact List.find?_cons_of_neg (by simpa using fun h => hn h.symm)
  rw [this]

/-- What a boundary leaves of the tick unit, the records and the ports. -/
theorem beginTick_facts :
    let t := m.beginTick k start tEnd lenEnd stepped
    t.tick.tn = k ∧ t.tick.start = start ∧ t.tick.jumpNext = false ∧ t.tick.origin = m.tick.origin ∧ t.tick.period = m.tick.period ∧
    (∀ c ∈ t.tick.pending, c ∈ m.tick.pending) ∧ t.time.n = m.time.n ∧ t.time.servo = m.time.servo ∧
    (∃ a ∈ t.tick.accts.head?, a.tn = k ∧ a.start = start ∧ a.tEnd = none ∧ a.jump = m.tick.jumpNext) ∧
    (∀ n, n ≠ k → (t.acct? n).map acctKey = ((m.closeTick tEnd lenEnd start).acct? n).map acctKey) := by
  obtain ⟨hb, -, -⟩ := beginTick_spec m k start tEnd lenEnd stepped
  obtain ⟨h1, h2, h3, h4, h5, h6, h7, h8, ⟨a, r, ha, ha1, ha2, ha3, ha4⟩, h10⟩ := opened_spec m k start tEnd lenEnd stepped
  intro t
  have hb' : Begun (opened m k start tEnd lenEnd stepped) t := hb
  refine ⟨hb'.tn.trans h1, hb'.start.trans h2, hb'.jumpNext.trans h3, hb'.origin.trans h4, hb'.period.trans h5, fun c hc => h6 c (hb'.pending c hc), hb'.n.trans h7,
    hb'.servo.trans h8, ?_, fun n hn => (acct?_begun hb' n).trans (h10 n hn)⟩
  have hk := hb'.keys
  rw [ha, List.map_cons] at hk
  rcases ht : t.tick.accts with _ | ⟨a', r'⟩
  · rw [ht] at hk
    cases hk
  · rw [ht, List.map_cons] at hk
    obtain ⟨he, -⟩ := List.cons.inj hk
    refine ⟨a', rfl, ?_, ?_, ?_, ?_⟩
    · exact (congrArg Prod.fst he).trans ha1
    · exact (congrArg (fun x => x.2.1) he).trans ha2
    · exact (congrArg (fun x => x.2.2.1) he).trans ha3
    · exact (congrArg (fun x => x.2.2.2.2.2) he).trans ha4

/-- The running tick's account ends at the boundary. -/
theorem closeTick_acct? {a : TickAcct} (h : m.acct? m.tick.tn = some a) :
    ∃ a', (m.closeTick tEnd lenEnd start).acct? m.tick.tn = some a' ∧ a'.start = a.start ∧ a'.tEnd = some tEnd := by
  obtain ⟨f, hf, hk⟩ : ∃ f, m.closeTick tEnd lenEnd start = m.onAcct m.tick.tn f ∧ ∀ a, (f a).tn = a.tn ∧ (f a).start = a.start ∧ (f a).tEnd = some tEnd :=
    ⟨_, rfl, fun _ => ⟨rfl, rfl, rfl⟩⟩
  refine ⟨f a, ?_, (hk a).2.1, (hk a).2.2⟩
  rw [hf, acct?_onAcct_self fun a => (hk a).1, h]
  rfl

end

/-! ## Changes of the period and loads that fall due (R49, R50) -/

section
variable {m : Mach}

/-- Of the tick unit and the clock only origin and period differ. -/
def PeriodOnly (a b : Mach) : Prop := b.tick = { a.tick with origin := b.tick.origin, period := b.tick.period } ∧ b.time = a.time

/-- The changes of the period that stay. -/
def later (k : Nat) (p : Pending) : Bool := !(match p.change with | .tickChange _ => decide (p.tnEff ≤ k) | _ => false)

theorem applyPeriod_periodOnly (k : Nat) (m : Mach) :
    PeriodOnly (m.onTick fun t => { t with pending := t.pending.filter (later k) }) (m.applyPeriod k) := by
  unfold applyPeriod
  extract_lets isDue due m1
  refine forEach_keeps (PeriodOnly m1) _ _ (fun p t ht => ?_) m1 ⟨rfl, rfl⟩
  obtain ⟨h1, h2⟩ := ht
  split
  · next q _ =>
    have hw := donePending_within p 0 (t.onTick fun u => { u with origin := changedOrigin u.origin u.period p.tnEff q, period := q })
    refine ⟨?_, ?_⟩
    · rw [hw.keeps .tick, onTick_tick, h1]
    · exact (hw.keeps .time).trans h2
  · exact ⟨h1, h2⟩

theorem later_lt {k : Nat} {c : Pending} {q : Nat} (h : later k c = true) (hc : c.change = .tickChange q) : k < c.tnEff := by
  unfold later at h
  rw [hc] at h
  simpa using h

theorem pendingLoad_none {c : Pending} (h : m.pendingLoad = none) (hc : c ∈ m.tick.pending) (hk : changeKind c.change = 0) : ∃ q, c.change = .tickChange q := by
  unfold pendingLoad at h
  have := List.findSome?_eq_none_iff.mp h c hc
  cases hch : c.change <;> simp_all [changeKind]

/-- The boundary of the values in force, with no load that waits. -/
theorem tickBoundary_plain (hl : m.pendingLoad = none) (hs : m.time.servo.stepNext = none) :
    m.tickBoundary = ((m.runTo (m.bnd (m.tick.tn + 1))).applyPeriod (m.tick.tn + 1)).beginTick (m.tick.tn + 1) (m.bnd (m.tick.tn + 1))
      (m.bnd (m.tick.tn + 1)) (m.bnd (m.tick.tn + 1)) false := by
  have hc := runTo_clockOnly (m.bnd (m.tick.tn + 1)) m
  have hp := applyPeriod_periodOnly (m.tick.tn + 1) (m.runTo (m.bnd (m.tick.tn + 1)))
  rw [tickBoundary_eq_of_noLoad hl rfl rfl]
  refine servoStep_of_none ?_
  obtain ⟨-, -, -, -, -, -, -, h8, -⟩ := beginTick_facts ((m.runTo (m.bnd (m.tick.tn + 1))).applyPeriod (m.tick.tn + 1)) (m.tick.tn + 1)
    (m.bnd (m.tick.tn + 1)) (m.bnd (m.tick.tn + 1)) (m.bnd (m.tick.tn + 1)) false
  rw [h8, hp.2, onTick_time, hc.time]
  exact hs

/-- The tick unit after a load (R50). -/
theorem applyLoad_spec (l : LoadDue) (j : Nat) (m : Mach) :
    (m.applyLoad l j).tick.origin = l.origin ∧ (m.applyLoad l j).tick.period = l.period ∧ (m.applyLoad l j).tick.jumpNext = true ∧
    (m.applyLoad l j).tick.pending = [] ∧ (m.applyLoad l j).time = m.time := by
  unfold applyLoad
  extract_lets m1
  have hb := cancelPending_begun (· != l.p) m1
  have ht : (m1.cancelPending (· != l.p)).time = m.time := (cancelPending_within (· != l.p) m1).keeps .time
  have hd := donePending_within l.p 0 ((m1.cancelPending (· != l.p)).onTick fun t => { t with pending := [] })
  rw [hd.keeps .tick, hd.keeps .time]
  exact ⟨hb.origin, hb.period, hb.jumpNext, rfl, ht⟩

/-- The boundary of a load that comes first. -/
theorem tickBoundary_load {l : LoadDue} (hl : m.pendingLoad = some l) (hb : l.b ≤ m.bnd (m.tick.tn + 1)) (hs : m.time.servo.stepNext = none) :
    m.tickBoundary = ((m.runTo l.b).applyLoad l (toBits 48 ((l.b - l.origin).fdiv (l.period * 1000)))).beginTick
      (toBits 48 ((l.b - l.origin).fdiv (l.period * 1000))) l.b l.b l.b false := by
  have hc := runTo_clockOnly l.b m
  obtain ⟨-, -, -, -, h5⟩ := applyLoad_spec l (toBits 48 ((l.b - l.origin).fdiv (l.period * 1000))) (m.runTo l.b)
  obtain ⟨-, -, -, -, -, -, -, h8, -⟩ := beginTick_facts ((m.runTo l.b).applyLoad l (toBits 48 ((l.b - l.origin).fdiv (l.period * 1000))))
    (toBits 48 ((l.b - l.origin).fdiv (l.period * 1000))) l.b l.b l.b false
  unfold tickBoundary
  rw [hl]
  dsimp only
  rw [if_pos hb]
  refine servoStep_of_none ?_
  rw [h8, h5, hc.time]
  exact hs

end
end Mach

section
variable (s : State)

theorem tickBoundary_begins (hl : s.pendingLoad = none) (hs : s.time.servo.stepNext = none) :
    Does .tickBoundary s fun t =>
      t.tick.tn = s.tick.tn + 1 ∧ t.tick.start = s.bnd (s.tick.tn + 1) ∧ s.bnd (s.tick.tn + 1) ≤ t.time.n ∧ t.tick.jumpNext = false ∧
      (∃ a ∈ t.tick.accts.head?, a.tn = s.tick.tn + 1 ∧ a.start = s.bnd (s.tick.tn + 1) ∧ a.tEnd = none) ∧
      (∀ a ∈ s.acct? s.tick.tn, ∃ a' ∈ t.acct? s.tick.tn, a'.start = a.start ∧ a'.tEnd = some (s.bnd (s.tick.tn + 1))) ∧
      (∀ r ∈ t.jnl.recs, r.released = true) ∧ (∀ p, (t.fe.get p).normHeld = false) ∧
      (∀ c ∈ t.tick.pending, Mach.changeKind c.change = 0 → s.tick.tn + 1 < c.tnEff) ∧
      OnlyIn [.regs, .time, .tick, .port, .fe, .eng, .tleq, .tle, .heldDesc, .pops, .spikes, .images, .enc, .fus, .jnl, .led, .lvl, .sleep, .fn,
        .link, .cache, .draws, .out] s.toMach t := by
  have hx := Mach.tickBoundary_plain (m := s.toMach) hl hs
  have hwithin := (Mach.tickBoundary_within s.toMach).parts
  rw [hx] at hwithin
  have hreach := Mach.runTo_reaches s.toMach (s.bnd (s.tick.tn + 1))
  have hc := Mach.runTo_clockOnly (s.bnd (s.tick.tn + 1)) s.toMach
  generalize s.toMach.runTo (s.bnd (s.tick.tn + 1)) = m1 at hx hwithin hreach hc
  have hp := Mach.applyPeriod_periodOnly (s.tick.tn + 1) m1
  generalize m1.applyPeriod (s.tick.tn + 1) = m2 at hx hwithin hp
  obtain ⟨hp1, hp2⟩ := hp
  have htick : m2.tick = { s.tick with origin := m2.tick.origin, period := m2.tick.period, refusedCarry := m1.tick.refusedCarry,
                                       pending := s.tick.pending.filter (Mach.later (s.tick.tn + 1)) } := by
    rw [hp1, Mach.onTick_tick, hc.tick]
  obtain ⟨h1, h2, h3, -, -, h6, h7, -, ⟨a, ha, ha1, ha2, ha3, -⟩, h10⟩ :=
    Mach.beginTick_facts m2 (s.tick.tn + 1) (s.bnd (s.tick.tn + 1)) (s.bnd (s.tick.tn + 1)) (s.bnd (s.tick.tn + 1)) false
  obtain ⟨-, hheld, hrecs⟩ := Mach.beginTick_spec m2 (s.tick.tn + 1) (s.bnd (s.tick.tn + 1)) (s.bnd (s.tick.tn + 1)) (s.bnd (s.tick.tn + 1)) false
  refine does_of_act (f := Mach.tickBoundary) rfl hx ⟨h1, h2, ?_, h3, ⟨a, ha, ha1, ha2, ha3⟩, fun c hcc => ?_, hrecs, hheld, fun c hcc hk => ?_, hwithin⟩
  · rw [h7, hp2]
    exact hreach
  · have hacct : m2.acct? m2.tick.tn = some c := by
      unfold Mach.acct?
      rw [htick]
      exact hcc
    have htn : m2.tick.tn = s.tick.tn := by rw [htick]
    obtain ⟨a', ha', hs', he'⟩ := Mach.closeTick_acct? m2 (s.bnd (s.tick.tn + 1)) (s.bnd (s.tick.tn + 1)) (s.bnd (s.tick.tn + 1)) hacct
    have hk := h10 s.tick.tn (by omega)
    rw [htn] at ha'
    rw [ha'] at hk
    obtain ⟨a'', ha'', he⟩ := Option.map_eq_some_iff.mp hk
    exact ⟨a'', ha'', (congrArg (fun x => x.2.1) he).trans hs', (congrArg (fun x => x.2.2.1) he).trans he'⟩
  · have hm := h6 c hcc
    rw [htick] at hm
    obtain ⟨hm1, hm2⟩ := List.mem_filter.mp hm
    obtain ⟨q, hq⟩ := Mach.pendingLoad_none hl hm1 hk
    exact Mach.later_lt hm2 hq

theorem tickBoundary_loads {l : Mach.LoadDue} (hl : s.pendingLoad = some l) (hb : l.b ≤ s.bnd (s.tick.tn + 1)) (hs : s.time.servo.stepNext = none) :
    Does .tickBoundary s fun t =>
      t.tick.origin = l.origin ∧ t.tick.period = l.period ∧ t.tick.tn = toBits 48 ((l.b - l.origin).fdiv (l.period * 1000)) ∧
      t.tick.start = l.b ∧ l.b ≤ t.time.n ∧ t.tick.pending = [] ∧ (∃ a ∈ t.tick.accts.head?, a.jump = true ∧ a.start = l.b) := by
  have hx := Mach.tickBoundary_load (m := s.toMach) hl hb hs
  have hreach := Mach.runTo_reaches s.toMach l.b
  generalize s.toMach.runTo l.b = m1 at hx hreach
  obtain ⟨hl1, hl2, hl3, hl4, hl5⟩ := Mach.applyLoad_spec l (toBits 48 ((l.b - l.origin).fdiv (l.period * 1000))) m1
  generalize m1.applyLoad l (toBits 48 ((l.b - l.origin).fdiv (l.period * 1000))) = m2 at hx hl1 hl2 hl3 hl4 hl5
  obtain ⟨h1, h2, -, h4, h5, h6, h7, -, ⟨a, ha, -, ha2, -, ha4⟩, -⟩ :=
    Mach.beginTick_facts m2 (toBits 48 ((l.b - l.origin).fdiv (l.period * 1000))) l.b l.b l.b false
  refine does_of_act (f := Mach.tickBoundary) rfl hx ⟨h4.trans hl1, h5.trans hl2, h1, h2, ?_, ?_, a, ha, ha4.trans hl3, ha2⟩
  · rw [h7, hl5]
    exact hreach
  · refine List.eq_nil_iff_forall_not_mem.mpr fun c hc => ?_
    have := h6 c hc
    rw [hl4] at this
    exact absurd this (by simp)

end

/-- Settles O19. -/
theorem boundaryBeginsNextTick : Obligations.BoundaryBeginsNextTick :=
  ⟨fun s hl hs => tickBoundary_begins s hl hs, fun s _ hl hb hs => tickBoundary_loads s hl hb hs⟩

end Sys2Proof.Machine

namespace Sys2Proof.Machine

set_option Elab.async false

/-! ## Records that cost a journal copy

A record is written to both copies of its bank (R271). A copy whose write fails three times is unreachable from then on, and when both copies
of a bank are gone while it holds records not yet delivered, the epoch rises and every stream counts from 1 again (R256, R272). So each
command that writes a record may lose a copy on a die that it does not name, or begin a new epoch. -/

/-- The next three writes to the journal copy on a die fail. -/
def copyFails (d : Fin 4) (m : Mach) : Mach := m.onJnl fun j => { j with failNext := vput j.failNext d 3 }

/-- A record of bank 0 that no host ring has yet. -/
def undelivered : JRec :=
  { fn := 0, cls := 1, count := 1, epoch := 0, body := Test.up.healthBody H.linkUp (.link 0) 0 [], mirrorLost := false, flags := 0,
    tq := .locked, pkg := 0, at_ := 0, bank := 0 }

/-- A package with mirrored journals in which die 2 has no copy and the next writes to die 0 fail. -/
def oneCopyFails : State :=
  Test.st ((copyFails 0 (Test.up.put R.JNL_CTRL_MIRROR_EN 1)).onJnl fun j => { j with copies := vput j.copies 2 false })

/-- A locked package with mirrored journals in which the next writes to both copies of bank 0 fail while a record waits there. -/
def bothCopiesFail : State :=
  Test.st (((copyFails 0 (copyFails 2 (Test.up.put R.JNL_CTRL_MIRROR_EN 1))).onTime fun t => { t with quality := .locked }).onJnl fun j =>
    { j with recs := [undelivered] })

theorem mirrorBack_oneCopyFails : (oneCopyFails.toMach.mirrorBack 2).jnl.copies.get 0 = false := by decide +kernel

theorem loseDie_oneCopyFails : (oneCopyFails.toMach.loseDie 1 1).jnl.copies.get 0 = false := by decide +kernel

theorem mgtWdog_bothCopiesFail : bothCopiesFail.toMach.mgtWdog.jnl.epoch = 1 := by decide +kernel

/-- Refutes O60: the record that says that the copy on die 2 is back is itself written, and where its writes to die 0 fail, die 0 loses its
copy. -/
theorem not_regionSettingsAndMemoryErrors : ¬ Obligations.RegionSettingsAndMemoryErrors := by
  intro h
  obtain ⟨-, -, -, -, -, -, -, -, -, hback⟩ := h oneCopyFails 2 0 0 0 0 0 false
  obtain ⟨-, hothers, -⟩ := of_does_act (f := Mach.mirrorBack 2) rfl (hback (by decide +kernel) (by decide +kernel))
  exact absurd ((hothers 0 (by decide)).symm.trans mirrorBack_oneCopyFails) (by decide +kernel)

/-- Refutes O58: the record of the loss of die 1 is written to bank 0, and where its writes to die 0 fail, die 0 loses its copy as well. -/
theorem not_computeAndBlockResets : ¬ Obligations.ComputeAndBlockResets := by
  intro h
  obtain ⟨-, -, -, -, -, -, -, hlost, -⟩ := h oneCopyFails 0 0 0 1 1
  obtain ⟨-, -, -, -, -, -, -, hothers, -⟩ :=
    of_does_act (f := Mach.loseDie 1 1) rfl (hlost (by decide +kernel) (by decide +kernel) (by decide) (by decide))
  exact absurd ((hothers 0 (by decide)).2.symm.trans loseDie_oneCopyFails) (by decide +kernel)

/-- Refutes O56: the warm reset takes the quality from LOCKED to HOLDOVER, and the TIME_STATUS record of that is lost with both copies of its
bank, so that the epoch rises. -/
theorem not_warmResetsKeepWhatTheyMust : ¬ Obligations.WarmResetsKeepWhatTheyMust := by
  intro h
  obtain ⟨-, -, -, -, -, -, -, -, -, -, -, hwdog, -⟩ := h bothCopiesFail 0 0 0
  have hwarmed : Warmed 0x06 bothCopiesFail.toMach bothCopiesFail.toMach.mgtWdog := of_does_act (f := Mach.mgtWdog) rfl (hwdog (by decide +kernel))
  obtain ⟨-, -, -, -, -, -, -, -, -, -, -, -, -, -, -, -, -, -, -, -, -, -, -, -, -, -, -, -, -, hepoch, -⟩ := hwarmed
  exact absurd (hepoch.symm.trans mgtWdog_bothCopiesFail) (by decide +kernel)

end Sys2Proof.Machine

namespace Sys2Proof.Machine

set_option Elab.async false

/-! ## Link ports that the statements do not foresee

A port's state and its level are fields of their own in the model: nothing ties STATE to the reset that holds the package, and nothing
bounds the level that a TT names in its format. -/

/-- A frame that is kept for replay. -/
def keptFrame : LinkFrame := { vl := 1, som := true, eom := true, seq := 5, payload := [] }

/-- A package in power-on reset in which port 0 is still UP, with one frame kept and more replays behind it than REPLAY_MAX. -/
def upInReset : State :=
  Test.st (((Test.up.put (R.LNK_CTRL_EN 0) 1).onLink 0 fun x => { x with state := 2, replays := 300, replay := [(keptFrame, 0)] }).onRst fun r =>
    { r with hold := some .por })

/-- Port 0 is UP at level 16. -/
def upAtLevel16 : State := Test.st (Test.up.onLink 0 fun x => { x with state := 2, level := 16 })

theorem nakRx_upInReset : ((upInReset.toMach.nakRx 0 1000 1000 []).link.get 0).state = 2 := by decide +kernel

/-- Refutes O54: a NAK on a port that is UP in a package reset finds the replays used up, and the retraining that is due does not start while
the reset holds. -/
theorem not_linkDataIsDeliveredInSequence : ¬ Obligations.LinkDataIsDeliveredInSequence := by
  intro h
  obtain ⟨-, -, -, hup, -⟩ := h upInReset 0 keptFrame true 1000 1000 []
  obtain ⟨-, -, -, -, ⟨-, hnak⟩, -⟩ := hup (by decide +kernel)
  obtain ⟨-, -, ⟨hretrain, -⟩, -⟩ := of_does_act (f := Mach.nakRx 0 1000 1000 []) rfl (hnak (by decide +kernel))
  obtain ⟨hstate, -⟩ := hretrain (by decide +kernel)
  exact absurd (nakRx_upInReset.symm.trans (hstate (by decide +kernel))) (by decide)

theorem byteAt_lt (b : List Byte) (i : Nat) : byteAt b i < 256 := BitVec.isLt _

/-- Refutes O55: a byte does not hold sixteen times the level of a port that is UP at level 16. -/
theorem not_linkMessagesAreTaken : ¬ Obligations.LinkMessagesAreTaken := by
  intro h
  obtain ⟨htt, -⟩ := h upAtLevel16 0
  obtain ⟨-, -, -, hsent, -⟩ := of_does_act (f := Mach.ttSend 0) rfl htt
  obtain ⟨g, -, -, -, -, -, -, hfmt, -⟩ := hsent (by decide +kernel)
  exact absurd (hfmt ▸ byteAt_lt g.payload 1) (by decide +kernel)

end Sys2Proof.Machine

namespace Sys2Proof.Machine

set_option Elab.async false

namespace Mach

/-! ## The registers that a servo sample leaves (R336 to R341) -/

/-- Only registers of the time unit, of the journal and of the action table change. -/
structure ServoRegs (a b : Mach) : Prop where
  regs : ∀ off, ¬ (0x1E0000 ≤ off ∧ off < 0x200000) → ¬ (0x40000 ≤ off ∧ off < 0x50000) → b.rd off = a.rd off

namespace ServoRegs

variable {a b c : Mach}

theorem trans (h1 : ServoRegs a b) (h2 : ServoRegs b c) : ServoRegs a c := ⟨fun off ho ht => (h2.regs off ho ht).trans (h1.regs off ho ht)⟩

theorem of_regs (h : b.regs = a.regs) : ServoRegs a b := ⟨fun _ _ _ => by unfold rd; rw [h]⟩

theorem of_statusOnly (h : StatusOnly a b) : ServoRegs a b := ⟨fun off ho ht => h.regs off ho fun he => ht (he ▸ by decide)⟩

theorem inc (m : Mach) {f : Fld} (h : 0x40000 ≤ f.a ∧ f.a < 0x50000) : ServoRegs m (m.inc f) := ⟨fun _ _ ht => rd_put_ne m f _ fun he => ht (he ▸ h)⟩

theorem set1 (m : Mach) {f : Fld} (h : 0x40000 ≤ f.a ∧ f.a < 0x50000) : ServoRegs m (m.set1 f) := ⟨fun _ _ ht => rd_put_ne m f _ fun he => ht (he ▸ h)⟩

end ServoRegs

theorem applySample_servoRegs (x d : Int) (m : Mach) : ServoRegs m (applySample x d m) :=
  (ServoRegs.of_regs (a := m) (b := applied x d m) rfl).trans (.of_statusOnly (applySample_status x d m))

theorem startSlew_servoRegs (x : Int) (m : Mach) : ServoRegs m (startSlew x m) := by
  obtain ⟨m0, ys, endsAt, -, hregs, hrec⟩ := startSlew_status x m
  have h1 : ServoRegs m (slewing m0 ys endsAt m.time.y) :=
    (ServoRegs.of_regs (a := m) (b := m0.onTime _) hregs).trans (.inc _ (by decide))
  exact h1.trans (.of_statusOnly (.of_recOnly hrec))

theorem enterHoldover_servoRegs (spikes : Bool) (m : Mach) : ServoRegs m (enterHoldover spikes m) := by
  have h1 : ServoRegs m (holding spikes m) := (ServoRegs.of_regs (a := m) (b := m.onTime _) rfl).trans (.inc _ (by decide))
  exact h1.trans (.of_statusOnly (enterHoldover_status m spikes))

theorem returningSample_servoRegs (x d : Int) (m : Mach) : ServoRegs m (returningSample x d m) := by
  unfold returningSample
  extract_lets slewMax
  split
  · exact applySample_servoRegs x d m
  · split
    · exact startSlew_servoRegs x m
    · split
      · exact .of_regs rfl
      · exact ((ServoRegs.inc m (f := R.TIM_STEP_REFUSED) (by decide)).trans (.of_statusOnly (.of_recOnly (timeStatus_recOnly ..)))).trans (startSlew_servoRegs x _)

theorem servoSample_servoRegs (x at_ : Int) (m : Mach) : ServoRegs m (servoSample x at_ m) := by
  cases hoff : m.servoOff
  case true => rw [servoSample_off x at_ m hoff]; exact .of_regs rfl
  case false =>
    have hs : ServoRegs m (sampledAt x at_ m) := (ServoRegs.of_regs (a := m) (b := m.onTime _) rfl).trans (.inc _ (by decide))
    have hz : ServoRegs m ((sampledAt x at_ m).onServo fun w => { w with spikeRun := 0 }) := hs.trans (.of_regs rfl)
    rw [servoSample_on x at_ m hoff]
    split
    · exact hs
    · split
      · split
        · have hsp : ServoRegs m ((sampledAt x at_ m).onServo fun w => { w with spikeRun := w.spikeRun + 1 }) := hs.trans (.of_regs rfl)
          exact hsp.trans (.inc _ (by decide))
        · exact (hs.trans (enterHoldover_servoRegs true _)).trans (returningSample_servoRegs x _ _)
      · split
        · exact hz.trans (returningSample_servoRegs x _ _)
        · exact hz.trans (applySample_servoRegs x _ _)

/-! ## What the management core's clock leaves of the PTP queue (R352) -/

/-- Of the network only the clock changes, and no frame counts as received. -/
structure ClockTaken (a b : Mach) : Prop where
  net : b.net = { a.net with clock := b.net.clock }
  regs : ∀ off ∈ [R.PTP_RX_EVENT.a, R.PTP_RX_GEN.a], b.rd off = a.rd off

namespace ClockTaken

variable {a b c : Mach}

theorem refl (a : Mach) : ClockTaken a a := ⟨rfl, fun _ _ => rfl⟩

theorem trans (h1 : ClockTaken a b) (h2 : ClockTaken b c) : ClockTaken a c :=
  ⟨by rw [h2.net, h1.net], fun off h => (h2.regs off h).trans (h1.regs off h)⟩

theorem onClock (f : PtpClock → PtpClock) (m : Mach) : ClockTaken m (m.onClock f) := ⟨rfl, fun _ _ => rfl⟩

theorem inc (m : Mach) {f : Fld} (h : f.a ∉ [R.PTP_RX_EVENT.a, R.PTP_RX_GEN.a]) : ClockTaken m (m.inc f) :=
  ⟨rfl, fun _ ho => rd_put_ne m f _ fun he => h (he ▸ ho)⟩

theorem of_servoRegs (hn : b.net = a.net) (h : ServoRegs a b) : ClockTaken a b :=
  ⟨by rw [hn], fun off ho => h.regs off (by simp only [List.mem_cons, List.not_mem_nil, or_false] at ho; rcases ho with rfl | rfl <;> decide)
    (by simp only [List.mem_cons, List.not_mem_nil, or_false] at ho; rcases ho with rfl | rfl <;> decide)⟩

theorem g (h : ClockTaken a b) {f : Fld} (hf : f.a ∈ [R.PTP_RX_EVENT.a, R.PTP_RX_GEN.a]) : b.g f = a.g f := by
  unfold Mach.g
  rw [h.regs f.a hf]

end ClockTaken

theorem submitSample_clockTaken (x : Int) (m : Mach) : ClockTaken m (submitSample x m) := by
  refine .of_servoRegs ((submitSample_within x m).parts .net (by decide)) ?_
  unfold submitSample
  split
  · exact servoSample_servoRegs x _ m
  · exact .set1 m (by decide)

theorem syncComplete_clockTaken (t1 t2 corr : Int) (m : Mach) : ClockTaken m (syncComplete t1 t2 corr m) := by
  unfold syncComplete
  extract_lets m1
  have h1 : ClockTaken m m1 := .onClock _ m
  have h2 : ClockTaken m1 m1.drawNat.2 := ⟨rfl, fun _ _ => rfl⟩
  exact (h1.trans h2).trans (submitSample_clockTaken _ _)

theorem ethSend_clockTaken (p : Fin 2) (x : EthTx) (m : Mach) : ClockTaken m (m.ethSend p x) :=
  (⟨rfl, fun _ _ => rfl⟩ : ClockTaken m (m.emit (.eth p.1 x))).trans (.inc _ (by simp [R.ETH_TX_FRAMES, R.PTP_RX_EVENT, R.PTP_RX_GEN]; omega))

theorem clockTakes_clockTaken (p : Fin 2) (fr : PtpFrame) (t : Int) (m : Mach) : ClockTaken m (clockTakes p fr t m) := by
  unfold clockTakes
  extract_lets c fromMaster
  split
  case h_1 =>
    extract_lets take
    split
    · exact .onClock _ m
    · exact .refl m
  case h_2 =>
    split
    · exact .refl m
    · split
      · exact .onClock _ m
      · exact syncComplete_clockTaken _ _ _ m
  case h_3 =>
    split
    · split
      · exact syncComplete_clockTaken _ _ _ m
      · exact .refl m
    · exact .refl m
  case h_4 =>
    split
    · split
      · exact .onClock _ m
      · exact .refl m
    · exact .refl m
  case h_5 => exact (ethSend_clockTaken p _ m).trans (.inc _ (by decide))
  case h_6 =>
    split
    · exact .onClock _ m
    · exact .refl m
  case h_7 =>
    split
    · split
      · exact .onClock _ m
      · exact .refl m
    · exact .refl m
  case h_8 => exact .refl m
  case h_9 => exact .refl m

end Mach

end Sys2Proof.Machine

namespace Sys2Proof.Machine

set_option Elab.async false

/-! ## Frames and counters (R347, R361) -/

theorem RegsBut.mono {l l' : List Nat} {a b : Mach} (h : RegsBut l a b) (hl : l ⊆ l') : RegsBut l' a b := fun off ho => h off fun hm => ho (hl hm)

namespace Mach

section
variable (p : Fin 2) (f : Fld) (m : Mach)

theorem ethArrived_frames (h : f.a ≠ (R.ETH_RX_FRAMES p).a) :
    (m.ethArrived p f).g (R.ETH_RX_FRAMES p) = (m.g (R.ETH_RX_FRAMES p) + 1) % 2 ^ 32 :=
  (g_inc_ne _ f _ h.symm).trans (g_inc_word m _ rfl rfl)

theorem ethArrived_kind (h : f.a ≠ (R.ETH_RX_FRAMES p).a) (hh : f.hi = 31) (hl : f.lo = 0) :
    (m.ethArrived p f).g f = (m.g f + 1) % 2 ^ 32 := by
  unfold ethArrived
  rw [g_inc_word _ f hh hl, g_inc_ne _ _ f h]

theorem ethArrived_g (e : Fld) (h : e.a ≠ (R.ETH_RX_FRAMES p).a) (hf : e.a ≠ f.a) : (m.ethArrived p f).g e = m.g e :=
  (g_inc_ne _ f e hf).trans (g_inc_ne m _ e h)

theorem ethArrived_regsBut : RegsBut [(R.ETH_RX_FRAMES p).a, f.a] m (m.ethArrived p f) :=
  RegsBut.trans (RegsBut.mono (RegsBut.inc m (R.ETH_RX_FRAMES p)) (by simp)) (RegsBut.mono (RegsBut.inc _ f) (by simp))

theorem ethArrived_onlyIn : OnlyIn [.regs] m (m.ethArrived p f) := (ethArrived_within p f m).parts

end

/-! ## The PTP queue (R349, R351) -/

/-- The entry that a received PTP frame makes. -/
def ptpEntryOf (p : Fin 2) (fr : PtpFrame) (m : Mach) : PtpEntry :=
  { stamp := if ptpEvent fr.msgType then m.time.n + m.gi (R.ETH_TS_COMP_RX_COMP p) else 0, len := fr.len, vlan := fr.vlan,
    trunc := decide (240 < fr.len), event := ptpEvent fr.msgType, port := p.1, bytes := sliceB fr.bytes 0 (min 240 fr.len) }

/-- The counter of the frames of a kind. -/
def ptpCounter (fr : PtpFrame) : Fld := if ptpEvent fr.msgType then R.PTP_RX_EVENT else R.PTP_RX_GEN

theorem ptpCounter_mem (fr : PtpFrame) : (ptpCounter fr).a ∈ [R.PTP_RX_EVENT.a, R.PTP_RX_GEN.a] := by
  unfold ptpCounter
  split <;> decide

theorem ptpCounter_word (fr : PtpFrame) : (ptpCounter fr).hi = 31 ∧ (ptpCounter fr).lo = 0 := by
  unfold ptpCounter
  split <;> decide

/-- A PTP frame in the queue. -/
def ptpQueued (p : Fin 2) (fr : PtpFrame) (m : Mach) : Mach :=
  ((m.ethArrived p (R.ETH_PTP p)).onNet fun n => { n with rxq := n.rxq ++ [m.ptpEntryOf p fr] }).inc (ptpCounter fr)

section
variable {m : Mach} {p : Fin 2} {fr : PtpFrame}

theorem ethArrived_gi (p : Fin 2) (m : Mach) : (m.ethArrived p (R.ETH_PTP p)).gi (R.ETH_TS_COMP_RX_COMP p) = m.gi (R.ETH_TS_COMP_RX_COMP p) := by
  unfold gi
  rw [ethArrived_g _ _ _ _ (by simp only [R.ETH_TS_COMP_RX_COMP, R.ETH_RX_FRAMES]; omega) (by simp only [R.ETH_TS_COMP_RX_COMP, R.ETH_PTP]; omega)]

theorem ptpFrameRx_down (h : m.ethUp p = false) : ptpFrameRx p fr m = m := if_pos (by simp [h])

theorem ptpQueue_full (h : 32 ≤ m.net.rxq.length) :
    ptpQueue p fr (m.ethArrived p (R.ETH_PTP p)) = ((m.ethArrived p (R.ETH_PTP p)).inc R.PTP_RX_DROP).set1 R.PTP_RX_STAT_OVF := if_pos h

theorem ptpQueue_room (h : ¬ 32 ≤ m.net.rxq.length) : ptpQueue p fr (m.ethArrived p (R.ETH_PTP p)) = ptpQueued p fr m := by
  unfold ptpQueue ptpQueued ptpEntryOf
  rw [ethArrived_gi]
  exact if_neg h

theorem ptpFrameRx_full (hup : m.ethUp p = true) (h : 32 ≤ m.net.rxq.length) :
    ptpFrameRx p fr m = ((m.ethArrived p (R.ETH_PTP p)).inc R.PTP_RX_DROP).set1 R.PTP_RX_STAT_OVF := by
  unfold ptpFrameRx
  rw [if_neg (by simp [hup])]
  simp only [h, decide_true, Bool.not_true, Bool.false_and, Bool.false_eq_true, if_false]
  exact ptpQueue_full h

theorem ptpFrameRx_room (hup : m.ethUp p = true) (h : ¬ 32 ≤ m.net.rxq.length) :
    ClockTaken (ptpQueued p fr m) (ptpFrameRx p fr m) ∧ (m.clockOn p = false → ptpFrameRx p fr m = ptpQueued p fr m) := by
  have hon : (ptpQueued p fr m).clockOn p = m.clockOn p := by
    have hg : ∀ f : Fld, f.a = 0x50000 → (ptpQueued p fr m).g f = m.g f := fun f hf => by
      have hne : f.a ≠ (ptpCounter fr).a := by
        rw [hf]
        unfold ptpCounter
        split <;> decide
      refine (g_inc_ne _ _ f hne).trans ?_
      exact ethArrived_g p _ m f (by rw [hf]; simp only [R.ETH_RX_FRAMES]; omega) (by rw [hf]; simp only [R.ETH_PTP]; omega)
    have hnet : (ptpQueued p fr m).net.ptpMgt = m.net.ptpMgt := rfl
    unfold clockOn on
    rw [hnet, hg _ (by split <;> rfl)]
  unfold ptpFrameRx
  rw [if_neg (by simp [hup])]
  extract_lets t full m1
  have hm1 : m1 = ptpQueued p fr m := ptpQueue_room h
  rw [hm1]
  split
  next hc =>
    refine ⟨clockTakes_clockTaken p fr t _, fun ho => ?_⟩
    rw [hon, ho] at hc
    simp at hc
  next => exact ⟨.refl _, fun _ => rfl⟩

theorem ptpQueued_net : (ptpQueued p fr m).net = { m.net with rxq := m.net.rxq ++ [m.ptpEntryOf p fr] } := rfl

theorem ptpQueued_counter : (ptpQueued p fr m).g (ptpCounter fr) = (m.g (ptpCounter fr) + 1) % 2 ^ 32 := by
  have ha := ptpCounter_mem fr
  have hne : ∀ k, 0x60000 ≤ k → (ptpCounter fr).a ≠ k := fun k hk he => by
    rw [he] at ha
    simp only [R.PTP_RX_EVENT, R.PTP_RX_GEN, List.mem_cons, List.not_mem_nil, or_false] at ha
    omega
  refine (g_inc_word _ _ (ptpCounter_word fr).1 (ptpCounter_word fr).2).trans ?_
  have h := ethArrived_g p (R.ETH_PTP p) m (ptpCounter fr) (hne _ (by simp only [R.ETH_RX_FRAMES]; omega)) (hne _ (by simp only [R.ETH_PTP]; omega))
  exact congrArg (fun k => (k + 1) % 2 ^ 32) h

theorem ptpQueued_onlyIn : OnlyIn [.regs, .net] m (ptpQueued p fr m) :=
  (((ethArrived_onlyIn p _ m).append (onNet_within _ _).parts).append (OnlyIn.inc _ _)).mono (by decide)

end

/-! ## Sending a PTP frame (R350, R351) -/

section
variable {m : Mach} {who : Party} {cmd : Word}

/-- The word that PTP_TX_CMD keeps. -/
def txCmdWord (v : Nat) : Word := BitVec.ofNat 32 (bitsN v 27 26 * 2 ^ 26 + bitsN v 25 25 * 2 ^ 25 + bitsN v 10 0)

theorem ptpOwns_iff : (m.ptpOwns who = true) = ((who == .mgt) = m.net.ptpMgt) := by simp [ptpOwns]

theorem ptpPop_alien (h : m.ptpOwns who = false) : ptpPop who m = m.set1 R.PTP_STAT_OWN_ERR := if_pos (by simp [h])

theorem ptpPop_own (h : m.ptpOwns who = true) : ptpPop who m =
    match m.net.rxq with | [] => m | _ :: r => m.onNet fun n => { n with rxq := r, rxHead := (n.rxHead + 1) % 32 } := if_neg (by simp [h])

theorem ptpTxGo_alien (h : m.ptpOwns who = false) : ptpTxGo who cmd m =
    if m.net.tx.isNone then (m.set1 R.PTP_STAT_OWN_ERR).put R.PTP_TX_STAT_ERR 4 else m.set1 R.PTP_STAT_OWN_ERR := if_pos (by simp [h])

theorem ptpTxGo_busy (h : m.ptpOwns who = true) (ht : m.net.tx ≠ none) : ptpTxGo who cmd m = m :=
  (if_neg (by simp [h])).trans (if_pos (Option.isSome_iff_ne_none.mpr ht))

theorem ptpTxGo_idle (h : m.ptpOwns who = true) (ht : m.net.tx = none) : ptpTxGo who cmd m =
    if bitN cmd.toNat 31 then
      (((m.wr R.PTP_TX_CMD_A (txCmdWord cmd.toNat)).set1 R.PTP_TX_CMD_GO).put R.PTP_TX_STAT_ERR 0).onNet fun n =>
        { n with tx := some (bitsN cmd.toNat 27 26, bitsN cmd.toNat 25 25) }
    else m.wr R.PTP_TX_CMD_A (txCmdWord cmd.toNat) := (if_neg (by simp [h])).trans (if_neg (by simp [ht]))

/-- The length that a command names stands in PTP_TX_CMD. -/
theorem txCmdWord_len (v : Nat) : (m.wr R.PTP_TX_CMD_A (txCmdWord v)).g R.PTP_TX_CMD_LEN = bitsN v 10 0 := by
  unfold g
  rw [show R.PTP_TX_CMD_LEN.a = R.PTP_TX_CMD_A from rfl, rd_wr_self]
  simp only [txCmdWord, bitsN, R.PTP_TX_CMD_LEN, BitVec.toNat_ofNat]
  omega

theorem txCmd_regsBut (v : Nat) : RegsBut [R.PTP_TX_CMD_A, R.PTP_TX_STAT_ERR.a] m (m.wr R.PTP_TX_CMD_A (txCmdWord v)) :=
  fun _ ho => rd_wr_ne m _ fun he => ho (he ▸ by simp)

end

/-! ## What a transmission leaves (R350) -/

theorem onNet_gi (u : Net → Net) (m : Mach) (f : Fld) : (m.onNet u).gi f = m.gi f := rfl

/-- The registers of a transmission that has ended. -/
def txOver (m : Mach) : Mach := (m.clr R.PTP_TX_CMD_GO).set1 R.PTP_TX_STAT_DONE

/-- A transmission that has ended. -/
def txEnded (m : Mach) : Mach := (txOver m).onNet fun n => { n with tx := none }

section
variable (m : Mach)

theorem txOver_g {f : Fld} (h1 : f.a ≠ R.PTP_TX_CMD_GO.a) (h2 : f.a ≠ R.PTP_TX_STAT_DONE.a) : (txOver m).g f = m.g f :=
  (g_set1_ne (m.clr R.PTP_TX_CMD_GO) _ f h2).trans (g_put_ne m _ _ _ h1)

theorem txOver_net : (txOver m).net = m.net := (set1_net (m.clr R.PTP_TX_CMD_GO) _).trans (put_net m _ _)

theorem txOver_time : (txOver m).time = m.time := (put_time (m.clr R.PTP_TX_CMD_GO) _ _).trans (put_time m _ _)

theorem txOver_out : (txOver m).out = m.out := (put_out (m.clr R.PTP_TX_CMD_GO) _ _).trans (put_out m _ _)

theorem txEnded_g {f : Fld} (h1 : f.a ≠ R.PTP_TX_CMD_GO.a) (h2 : f.a ≠ R.PTP_TX_STAT_DONE.a) : (txEnded m).g f = m.g f := by
  rw [txEnded, onNet_g, txOver_g m h1 h2]

theorem txEnded_go : (txEnded m).g R.PTP_TX_CMD_GO = 0 := by
  rw [txEnded, onNet_g, txOver, g_set1_ne _ _ _ (by decide), g_clr m _ (by decide) (by decide)]

theorem txEnded_done : (txEnded m).g R.PTP_TX_STAT_DONE = 1 := by
  rw [txEnded, onNet_g, txOver, g_set1 _ _ rfl (by decide)]

theorem txEnded_net : (txEnded m).net = { m.net with tx := none } := by
  rw [txEnded, ← txOver_net m]
  rfl

theorem txEnded_time : (txEnded m).time = m.time := by
  rw [txEnded, onNet_time, txOver_time]

theorem txEnded_out : (txEnded m).out = m.out := by
  rw [txEnded, onNet_out, txOver_out]

theorem txEnded_onlyIn : OnlyIn [.regs, .net] m (txEnded m) :=
  (((OnlyIn.put m _ _).append (OnlyIn.set1 (m.clr R.PTP_TX_CMD_GO) _)).append (onNet_within _ (txOver m)).parts).mono (by decide)

theorem txEnded_ethUp (p : Fin 2) : (txEnded m).ethUp p = m.ethUp p := by
  unfold ethUp on
  rw [txEnded_net, txEnded_g m (by simp only [R.ETH_CTRL_EN, R.PTP_TX_CMD_GO]; omega) (by simp only [R.ETH_CTRL_EN, R.PTP_TX_STAT_DONE]; omega)]

theorem txEnded_stamp (p : Fin 2) : (txEnded m).time.n + (txEnded m).gi (R.ETH_TS_COMP_TX_COMP p) = m.time.n + m.gi (R.ETH_TS_COMP_TX_COMP p) := by
  unfold gi
  rw [txEnded_time, txEnded_g m (by simp only [R.ETH_TS_COMP_TX_COMP, R.PTP_TX_CMD_GO]; omega) (by simp only [R.ETH_TS_COMP_TX_COMP, R.PTP_TX_STAT_DONE]; omega)]

/-- A transmission that has ended with a code. -/
def txCoded (e : Nat) (m : Mach) : Mach := (txEnded m).put R.PTP_TX_STAT_ERR e

theorem txCoded_go (e : Nat) : (txCoded e m).g R.PTP_TX_CMD_GO = 0 := by
  rw [txCoded, g_put_ne _ _ _ _ (by decide), txEnded_go]

theorem txCoded_done (e : Nat) : (txCoded e m).g R.PTP_TX_STAT_DONE = 1 := by
  rw [txCoded, g_put_apart _ _ (.inr ⟨by decide, by decide, by decide, by decide⟩), txEnded_done]

theorem txCoded_err {e : Nat} (he : e < 8) : (txCoded e m).g R.PTP_TX_STAT_ERR = e := g_put_fits _ (by decide) he

theorem txCoded_net (e : Nat) : (txCoded e m).net = { m.net with tx := none } := by rw [txCoded, put_net, txEnded_net]

theorem txCoded_out (e : Nat) : (txCoded e m).out = m.out := by rw [txCoded, put_out, txEnded_out]

theorem txCoded_onlyIn (e : Nat) : OnlyIn [.regs, .net] m (txCoded e m) := ((txEnded_onlyIn m).append (OnlyIn.put _ _ _)).mono (by decide)

/-- A frame that departs. -/
def txSent (q : Fin 2) (mode : Nat) (b : List Byte) (m : Mach) : Mach := ((txCoded 0 m).ethSend q (.ptp mode b)).inc R.PTP_TX

section
variable (q : Fin 2) (mode : Nat) (b : List Byte)

theorem txFrames_ne {k : Nat} (h : k < 0x60000) : k ≠ (R.ETH_TX_FRAMES q).a := by simp only [R.ETH_TX_FRAMES]; omega

theorem ethSent_net (x : EthTx) (m : Mach) : ((m.ethSend q x).inc R.PTP_TX).net = m.net := (inc_net _ _).trans (inc_net (m.emit _) _)

theorem ethSent_out (x : EthTx) (m : Mach) : ((m.ethSend q x).inc R.PTP_TX).out = .eth q.1 x :: m.out := (inc_out _ _).trans (inc_out (m.emit _) _)

theorem ethSent_count (x : EthTx) (m : Mach) : ((m.ethSend q x).inc R.PTP_TX).g R.PTP_TX = (m.g R.PTP_TX + 1) % 2 ^ 32 := by
  rw [g_inc_word _ _ rfl rfl, ethSend, g_inc_ne _ _ _ (txFrames_ne q (by decide)), emit_g]

theorem ethSend_time (x : EthTx) (m : Mach) : (m.ethSend q x).time = m.time := inc_time (m.emit _) _

theorem ethSent_stamp (x : EthTx) (m : Mach) (p : Fin 2) : ((m.ethSend q x).inc R.PTP_TX).gi (R.ETH_TS_COMP_TX_COMP p) = m.gi (R.ETH_TS_COMP_TX_COMP p) := by
  unfold gi
  rw [g_inc_ne _ _ _ (by simp only [R.ETH_TS_COMP_TX_COMP, R.PTP_TX]; omega), ethSend,
    g_inc_ne _ _ _ (by simp only [R.ETH_TS_COMP_TX_COMP, R.ETH_TX_FRAMES]; omega), emit_g]

theorem txSent_g {f : Fld} (h1 : f.a ≠ (R.ETH_TX_FRAMES q).a) (h2 : f.a ≠ R.PTP_TX.a) : (txSent q mode b m).g f = (txCoded 0 m).g f := by
  rw [txSent, g_inc_ne _ _ _ h2, ethSend, g_inc_ne _ _ _ h1, emit_g]

theorem txSent_go : (txSent q mode b m).g R.PTP_TX_CMD_GO = 0 := (txSent_g m q mode b (txFrames_ne q (by decide)) (by decide)).trans (txCoded_go m 0)

theorem txSent_done : (txSent q mode b m).g R.PTP_TX_STAT_DONE = 1 := (txSent_g m q mode b (txFrames_ne q (by decide)) (by decide)).trans (txCoded_done m 0)

theorem txSent_err : (txSent q mode b m).g R.PTP_TX_STAT_ERR = 0 :=
  (txSent_g m q mode b (txFrames_ne q (by decide)) (by decide)).trans (txCoded_err m (by decide))

theorem txSent_count : (txSent q mode b m).g R.PTP_TX = (m.g R.PTP_TX + 1) % 2 ^ 32 := by
  rw [txSent, ethSent_count, txCoded, g_put_ne _ _ _ _ (by decide), txEnded_g m (by decide) (by decide)]

theorem txSent_net : (txSent q mode b m).net = { m.net with tx := none } := by
  rw [txSent, ethSent_net, txCoded_net]

theorem txSent_out : (txSent q mode b m).out = .eth q.1 (.ptp mode b) :: m.out := by
  rw [txSent, ethSent_out, txCoded_out]

theorem txSent_onlyIn : OnlyIn [.regs, .net, .out] m (txSent q mode b m) :=
  (((txCoded_onlyIn m 0).append (ethSend_within _ _ _).parts).append (OnlyIn.inc _ _)).mono (by decide)

end

end

/-! ## The end of a transmission, case by case (R350) -/

section
variable {m : Mach} {x : Nat × Nat}

/-- The code of a transmission of len bytes on port q. -/
def txCode (q : Fin 2) (len : Nat) (hdr : Option (Nat × Option (Nat × Nat))) (m : Mach) : Nat :=
  if len < 60 ∨ 1518 < len then 2 else if hdr = none then 1 else if m.ethUp q = false then 3 else 0

theorem txCode_lt {q : Fin 2} {len : Nat} {hdr : Option (Nat × Option (Nat × Nat))} : txCode q len hdr m < 8 := by
  unfold txCode
  split_ifs <;> decide

theorem ptpTxDone_none (h : m.net.tx = none) : ptpTxDone m = m := by
  unfold ptpTxDone
  rw [h]

theorem txEnded_eq (m : Mach) : (((m.clr R.PTP_TX_CMD_GO).set1 R.PTP_TX_STAT_DONE).onNet fun n => { n with tx := none }) = txEnded m := rfl

/-- A transmission that cannot depart ends with its code. -/
theorem ptpTxDone_failed (h : m.net.tx = some x)
    (he : txCode (Fin.ofNat 2 x.2) (m.g R.PTP_TX_CMD_LEN) (ptpHeader (m.txFrame (m.g R.PTP_TX_CMD_LEN))) m ≠ 0) :
    ptpTxDone m = txCoded (txCode (Fin.ofNat 2 x.2) (m.g R.PTP_TX_CMD_LEN) (ptpHeader (m.txFrame (m.g R.PTP_TX_CMD_LEN))) m) m := by
  obtain ⟨mode, port⟩ := x
  unfold ptpTxDone
  unfold txCode at he ⊢
  rw [h]
  dsimp only
  rw [txEnded_eq]
  split
  next hl => rfl
  next hl =>
    rw [if_neg hl] at he
    split
    next hn => rw [if_pos hn]; rfl
    next hdr ip hs =>
      rw [hs, if_neg (Option.some_ne_none _)] at he ⊢
      have hup : m.ethUp (Fin.ofNat 2 port) = false := by
        by_contra hc
        exact he (if_neg hc)
      rw [if_pos hup]
      rw [txEnded_ethUp, hup]
      rfl

/-- A frame that may depart is sent, and its stamp is kept but in mode 0. -/
theorem ptpTxDone_sent (h : m.net.tx = some x)
    (he : txCode (Fin.ofNat 2 x.2) (m.g R.PTP_TX_CMD_LEN) (ptpHeader (m.txFrame (m.g R.PTP_TX_CMD_LEN))) m = 0) :
    ∃ b, ptpTxDone m = if x.1 = 0 then txSent (Fin.ofNat 2 x.2) x.1 b m
      else (txSent (Fin.ofNat 2 x.2) x.1 b m).onNet fun n => { n with txStamp := m.time.n + m.gi (R.ETH_TS_COMP_TX_COMP (Fin.ofNat 2 x.2)) } := by
  obtain ⟨mode, port⟩ := x
  unfold txCode at he
  split at he
  · cases he
  next hl =>
  split at he
  · cases he
  next hn =>
  split at he
  · cases he
  next hup =>
  obtain ⟨⟨hdr, ip⟩, hs⟩ := Option.ne_none_iff_exists'.mp hn
  have hup1 : (txEnded m).ethUp (Fin.ofNat 2 port) = true := by
    rw [txEnded_ethUp]
    exact Bool.not_eq_false _ ▸ hup
  unfold ptpTxDone
  rw [h]
  dsimp only
  rw [txEnded_eq, if_neg hl, hs]
  dsimp only
  rw [hup1, txEnded_stamp, if_neg (by decide)]
  exact ⟨_, rfl⟩

end

end Mach

/-! ## The clauses of O42 -/

section
variable (s : State)

theorem ptpFrameRx_clauses (p : Fin 2) (fr : PtpFrame) :
    (s.ethUp p = false → Idles (.ptpFrameRx p fr) s) ∧
    (s.ethUp p = true → 32 ≤ s.net.rxq.length → Does (.ptpFrameRx p fr) s fun t =>
      t.g R.PTP_RX_DROP = (s.g R.PTP_RX_DROP + 1) % 2 ^ 32 ∧ t.g R.PTP_RX_STAT_OVF = 1 ∧ OnlyIn [.regs] s.toMach t) ∧
    (s.ethUp p = true → ¬ 32 ≤ s.net.rxq.length → Does (.ptpFrameRx p fr) s fun t =>
      t.net.rxq = s.net.rxq ++ [s.ptpEntryOf p fr] ∧ t.net.rxHead = s.net.rxHead ∧ t.net.dests = s.net.dests ∧
      t.g (Mach.ptpCounter fr) = (s.g (Mach.ptpCounter fr) + 1) % 2 ^ 32 ∧
      (s.clockOn p = false → t.net.clock = s.net.clock ∧ OnlyIn [.regs, .net] s.toMach t) ∧
      OnlyIn [.regs, .time, .tick, .jnl, .net, .cache, .draws, .out] s.toMach t) := by
  refine ⟨fun h => idles_of_act (f := Mach.ptpFrameRx p fr) rfl (Mach.ptpFrameRx_down h), fun h hf => ?_, fun h hf => ?_⟩
  · refine does_of_act (f := Mach.ptpFrameRx p fr) rfl (Mach.ptpFrameRx_full h hf) ⟨?_, Mach.g_set1 _ _ rfl (by decide), ?_⟩
    · have hdrop := Mach.ethArrived_g p (R.ETH_PTP p) s.toMach R.PTP_RX_DROP (by simp only [R.PTP_RX_DROP, R.ETH_RX_FRAMES]; omega)
        (by simp only [R.PTP_RX_DROP, R.ETH_PTP]; omega)
      rw [Mach.g_set1_ne _ _ _ (by decide), Mach.g_inc_word _ _ rfl rfl, hdrop]
    · exact (((Mach.ethArrived_onlyIn p _ s.toMach).append (OnlyIn.inc _ _)).append (OnlyIn.set1 _ _)).mono (by decide)
  · obtain ⟨htaken, hoff⟩ := Mach.ptpFrameRx_room (m := s.toMach) (fr := fr) h hf
    have hnet := htaken.net
    rw [Mach.ptpQueued_net] at hnet
    refine does_of_act (f := Mach.ptpFrameRx p fr) rfl rfl
      ⟨by rw [hnet], by rw [hnet], by rw [hnet], ?_, fun ho => ?_, (Mach.ptpFrameRx_within p fr s.toMach).parts⟩
    · rw [← Mach.ptpQueued_counter (m := s.toMach) (p := p)]
      exact congrArg (fun w : Word => bitsN w.toNat _ _) (htaken.regs _ (Mach.ptpCounter_mem fr))
    · rw [hoff ho]
      exact ⟨by rw [Mach.ptpQueued_net], Mach.ptpQueued_onlyIn⟩

theorem ptp_alien (who : Party) (cmd : Word) (h : s.ptpOwns who = false) :
    Does (.ptpRxPop who) s (fun t => t.g R.PTP_STAT_OWN_ERR = 1 ∧ RegsBut [R.PTP_STAT_OWN_ERR.a] s.toMach t ∧ OnlyIn [.regs] s.toMach t) ∧
      Does (.ptpTxGo who cmd) s (fun t => t.g R.PTP_STAT_OWN_ERR = 1 ∧ (s.net.tx = none → t.g R.PTP_TX_STAT_ERR = 4) ∧
        RegsBut [R.PTP_STAT_OWN_ERR.a, R.PTP_TX_STAT_ERR.a] s.toMach t ∧ OnlyIn [.regs] s.toMach t) := by
  have hown : (s.set1 R.PTP_STAT_OWN_ERR).g R.PTP_STAT_OWN_ERR = 1 := Mach.g_set1 _ _ rfl (by decide)
  have hbut : RegsBut [R.PTP_STAT_OWN_ERR.a] s.toMach (s.set1 R.PTP_STAT_OWN_ERR) := Mach.RegsBut.put _ _ _
  refine ⟨does_of_act (f := Mach.ptpPop who) rfl (Mach.ptpPop_alien h) ⟨hown, hbut, OnlyIn.set1 _ _⟩, ?_⟩
  have hx := Mach.ptpTxGo_alien (cmd := cmd) h
  by_cases ht : s.net.tx = none
  · rw [if_pos (by rw [ht]; rfl)] at hx
    refine does_of_act (f := Mach.ptpTxGo who cmd) rfl hx ⟨?_, fun _ => Mach.g_put_fits _ (by decide) (by decide), ?_, ?_⟩
    · exact (Mach.g_put_ne _ _ _ _ (by decide)).trans hown
    · exact (hbut.mono (by decide)).trans ((Mach.RegsBut.put _ _ _).mono (by decide))
    · exact (OnlyIn.set1 _ _).append (OnlyIn.put _ _ _) |>.mono (by decide)
  · rw [if_neg (by simpa using ht)] at hx
    exact does_of_act (f := Mach.ptpTxGo who cmd) rfl hx ⟨hown, fun h0 => absurd h0 ht, hbut.mono (by decide), OnlyIn.set1 _ _⟩

theorem ptp_own (who : Party) (cmd : Word) (h : s.ptpOwns who = true) :
    (s.net.rxq = [] → Idles (.ptpRxPop who) s) ∧
      (s.net.rxq ≠ [] → Does (.ptpRxPop who) s fun t =>
        t.net = { s.net with rxq := s.net.rxq.tail, rxHead := (s.net.rxHead + 1) % 32 } ∧ OnlyIn [.net] s.toMach t) ∧
      (s.net.tx ≠ none → Idles (.ptpTxGo who cmd) s) ∧
      (s.net.tx = none → Does (.ptpTxGo who cmd) s fun t =>
        t.g R.PTP_TX_CMD_LEN = bitsN cmd.toNat 10 0 ∧ (bitN cmd.toNat 31 = false → t.net = s.net) ∧
        (bitN cmd.toNat 31 = true → t.net = { s.net with tx := some (bitsN cmd.toNat 27 26, bitsN cmd.toNat 25 25) } ∧ t.g R.PTP_TX_CMD_GO = 1 ∧
          t.g R.PTP_TX_STAT_ERR = 0) ∧
        RegsBut [R.PTP_TX_CMD_A, R.PTP_TX_STAT_ERR.a] s.toMach t ∧ OnlyIn [.regs, .net] s.toMach t) := by
  have hpop := Mach.ptpPop_own (m := s.toMach) h
  refine ⟨fun hq => ?_, fun hq => ?_, fun ht => idles_of_act (f := Mach.ptpTxGo who cmd) rfl (Mach.ptpTxGo_busy h ht), fun ht => ?_⟩
  · rw [hq] at hpop
    exact idles_of_act (f := Mach.ptpPop who) rfl hpop
  · obtain ⟨e, r, hr⟩ := List.exists_cons_of_ne_nil hq
    rw [hr] at hpop ⊢
    exact does_of_act (f := Mach.ptpPop who) rfl hpop ⟨rfl, (Mach.onNet_within _ _).parts⟩
  · have hx := Mach.ptpTxGo_idle (cmd := cmd) h ht
    have hlen := Mach.txCmdWord_len (m := s.toMach) cmd.toNat
    have hbut := Mach.txCmd_regsBut (m := s.toMach) cmd.toNat
    have hwr := (Mach.wr_within R.PTP_TX_CMD_A (Mach.txCmdWord cmd.toNat) s.toMach).parts
    generalize s.toMach.wr R.PTP_TX_CMD_A (Mach.txCmdWord cmd.toNat) = m1 at hx hlen hbut hwr
    have hnet1 : m1.net = s.net := hwr .net (by decide)
    cases hgo : bitN cmd.toNat 31
    case false =>
      rw [hgo, if_neg (by decide)] at hx
      exact does_of_act (f := Mach.ptpTxGo who cmd) rfl hx ⟨hlen, fun _ => hnet1, fun h0 => absurd h0 (by decide), hbut, hwr.mono (by decide)⟩
    case true =>
      rw [hgo, if_pos rfl] at hx
      refine does_of_act (f := Mach.ptpTxGo who cmd) rfl hx ⟨?_, fun h0 => absurd h0 (by decide), fun _ => ⟨?_, ?_, ?_⟩, ?_, ?_⟩
      · rw [Mach.onNet_g, Mach.g_put_ne _ _ _ _ (by decide), Mach.g_set1_apart m1 (.inr ⟨by decide, by decide, by decide, by decide⟩), hlen]
      · rw [Mach.onNet_net, Mach.put_net, Mach.set1_net, hnet1]
      · rw [Mach.onNet_g, Mach.g_put_ne _ _ _ _ (by decide), Mach.g_set1 m1 _ rfl (by decide)]
      · rw [Mach.onNet_g, Mach.g_put_fits _ (by decide) (by decide)]
      · have hgo1 : RegsBut [R.PTP_TX_CMD_A, R.PTP_TX_STAT_ERR.a] m1 (m1.set1 R.PTP_TX_CMD_GO) := (Mach.RegsBut.put m1 R.PTP_TX_CMD_GO 1).mono (by decide)
        have herr := Mach.RegsBut.put (m1.set1 R.PTP_TX_CMD_GO) R.PTP_TX_STAT_ERR 0
        exact Mach.RegsBut.of_regs ((hbut.trans hgo1).trans (herr.mono (by decide))) (Mach.onNet_regs _ _)
      · exact (((hwr.append (OnlyIn.set1 m1 _)).append (OnlyIn.put _ _ _)).append (Mach.onNet_within _ _).parts).mono (by decide)

/-- What a transmission that ends leaves. -/
theorem ptpTxDone_ends {x : Nat × Nat} {err : Nat} (h : s.net.tx = some x)
    (he : err = Mach.txCode (Fin.ofNat 2 x.2) (s.g R.PTP_TX_CMD_LEN) (Mach.ptpHeader (s.txFrame (s.g R.PTP_TX_CMD_LEN))) s.toMach) :
    Does .ptpTxDone s fun t =>
      t.net.tx = none ∧ t.g R.PTP_TX_CMD_GO = 0 ∧ t.g R.PTP_TX_STAT_DONE = 1 ∧ t.g R.PTP_TX_STAT_ERR = err ∧
      (err ≠ 0 → t.out = s.out ∧ t.net = { s.net with tx := none }) ∧
      (err = 0 → t.out.length = s.out.length + 1 ∧ t.g R.PTP_TX = (s.g R.PTP_TX + 1) % 2 ^ 32 ∧
        t.net.txStamp = if x.1 = 0 then s.net.txStamp else s.time.n + s.gi (R.ETH_TS_COMP_TX_COMP (Fin.ofNat 2 x.2))) ∧
      OnlyIn [.regs, .net, .out] s.toMach t := by
  have hlt : err < 8 := he ▸ Mach.txCode_lt
  by_cases h0 : err = 0
  · obtain ⟨b, hb⟩ := Mach.ptpTxDone_sent (m := s.toMach) h (he.symm.trans h0)
    have hwithin := (Mach.ptpTxDone_within s.toMach).parts
    rw [hb] at hwithin
    subst h0
    have hgo := Mach.txSent_go s.toMach (Fin.ofNat 2 x.2) x.1 b
    have hdone := Mach.txSent_done s.toMach (Fin.ofNat 2 x.2) x.1 b
    have herr := Mach.txSent_err s.toMach (Fin.ofNat 2 x.2) x.1 b
    have hcount := Mach.txSent_count s.toMach (Fin.ofNat 2 x.2) x.1 b
    by_cases hm : x.1 = 0
    · rw [if_pos hm] at hb hwithin
      refine does_of_act (f := Mach.ptpTxDone) rfl hb ⟨by rw [Mach.txSent_net], hgo, hdone, herr,
        fun h1 => absurd rfl h1, fun _ => ⟨?_, hcount, by rw [Mach.txSent_net, if_pos hm]⟩, hwithin⟩
      rw [Mach.txSent_out, List.length_cons]
    · rw [if_neg hm] at hb hwithin
      refine does_of_act (f := Mach.ptpTxDone) rfl hb ⟨by rw [Mach.onNet_net, Mach.txSent_net], ?_, ?_, ?_, fun h1 => absurd rfl h1, fun _ => ⟨?_, ?_, ?_⟩, hwithin⟩
      · rw [Mach.onNet_g, hgo]
      · rw [Mach.onNet_g, hdone]
      · rw [Mach.onNet_g, herr]
      · rw [Mach.onNet_out, Mach.txSent_out, List.length_cons]
      · rw [Mach.onNet_g, hcount]
      · rw [Mach.onNet_net, if_neg hm]
  · have hx := Mach.ptpTxDone_failed (m := s.toMach) h (he ▸ h0)
    rw [← he] at hx
    exact does_of_act (f := Mach.ptpTxDone) rfl hx ⟨by rw [Mach.txCoded_net], Mach.txCoded_go _ _, Mach.txCoded_done _ _, Mach.txCoded_err _ hlt,
      fun _ => ⟨Mach.txCoded_out _ _, Mach.txCoded_net _ _⟩, fun h1 => absurd h1 h0, (Mach.txCoded_onlyIn _ _).mono (by decide)⟩

theorem ptpTxTsRead_latches :
    Does .ptpTxTsRead s (fun t =>
      t.rd R.PTP_TX_TS_HI_A = BitVec.ofNat 32 (toBits 64 s.net.txStamp / 2 ^ 32) ∧
      t.out = .readValue R.PTP_TX_TS_LO_A (BitVec.ofNat 32 (toBits 64 s.net.txStamp)) :: s.out ∧ RegsBut [R.PTP_TX_TS_HI_A] s.toMach t ∧
      OnlyIn [.regs, .out] s.toMach t) := by
  refine does_of_act (f := Mach.ptpTsRead) rfl rfl ⟨Mach.rd_wr_self _ _ _, rfl, fun off ho => ?_, ?_⟩
  · exact Mach.rd_wr_ne _ _ fun he => ho (he ▸ by simp)
  · exact ((Mach.wr_within _ _ _).parts.append (OnlyIn.emit _ _)).mono (by decide)

theorem ptpFailover_takes :
    Does .ptpFailover s (fun t =>
      t.net.pcieDown = true ∧ (s.on R.PTP_CTRL_FAILOVER = true → s.on R.PTP_CTRL_OWNER = false → t.net.ptpMgt = true) ∧
      (s.on R.PTP_CTRL_FAILOVER = false ∨ s.on R.PTP_CTRL_OWNER = true → t.net.ptpMgt = s.net.ptpMgt ∧ OnlyIn [.net] s.toMach t) ∧
      t.net.rxq = s.net.rxq ∧ OnlyIn [.regs, .tick, .jnl, .net, .cache] s.toMach t) := by
  have hwithin := (Mach.ptpFailover_within s.toMach).parts
  have hdef : s.toMach.ptpFailover = if s.on R.PTP_CTRL_FAILOVER && !s.on R.PTP_CTRL_OWNER && !s.net.ptpMgt then
      (((s.toMach.onNet fun n => { n with pcieDown := true }).onNet fun n => { n with ptpMgt := true }).inc R.PTP_FAILOVERS).health H.ptpFailover .package []
    else s.toMach.onNet fun n => { n with pcieDown := true } := rfl
  split at hdef
  next hc =>
    obtain ⟨⟨hf, ho⟩, hm⟩ : (s.on R.PTP_CTRL_FAILOVER = true ∧ s.on R.PTP_CTRL_OWNER = false) ∧ s.net.ptpMgt = false := by simpa using hc
    have hnet : s.toMach.ptpFailover.net = { s.net with pcieDown := true, ptpMgt := true } := by
      rw [hdef]
      exact ((Mach.health_within _ _ _ _).parts .net (by decide)).trans (Mach.inc_net _ _)
    refine does_of_act (f := Mach.ptpFailover) rfl rfl ⟨by rw [hnet], fun _ _ => by rw [hnet], fun h => ?_, by rw [hnet], hwithin⟩
    rcases h with h | h
    · exact absurd (hf.symm.trans h) (by decide)
    · exact absurd (ho.symm.trans h) (by decide)
  next hc =>
    refine does_of_act (f := Mach.ptpFailover) rfl hdef ⟨rfl, fun hf ho => ?_, fun _ => ⟨rfl, (Mach.onNet_within _ _).parts⟩, rfl, hdef ▸ hwithin⟩
    rw [hf, ho] at hc
    simpa using hc

theorem delayReqSend_sends (p : Fin 2) (h : (s.clockOn p && s.ethUp p && (s.peerDelay || s.net.clock.master.isSome)) = true) :
    Does (.delayReqSend p) s fun t =>
      t.out = .eth p.1 (.delayReq s.peerDelay s.ptpTransport (s.g R.PTP_CTRL_DOMAIN)) :: s.out ∧
      t.net.clock = { s.net.clock with reqAt := some (s.time.n + s.gi (R.ETH_TS_COMP_TX_COMP p)), resp := none } ∧
      t.g R.PTP_TX = (s.g R.PTP_TX + 1) % 2 ^ 32 ∧ OnlyIn [.regs, .net, .out] s.toMach t := by
  have hwithin := (Mach.delayReqSend_within p s.toMach).parts
  have hdef : s.toMach.delayReqSend p = ((s.toMach.ethSend p (.delayReq s.peerDelay s.ptpTransport (s.g R.PTP_CTRL_DOMAIN))).inc R.PTP_TX).onClock fun c =>
      { c with reqAt := some (s.time.n + s.gi (R.ETH_TS_COMP_TX_COMP p)), resp := none } := by
    unfold Mach.delayReqSend
    rw [if_pos h]
    dsimp only
    rw [Mach.inc_time, Mach.ethSent_stamp, Mach.ethSend_time]
  rw [hdef] at hwithin
  have hout := Mach.ethSent_out p (.delayReq s.peerDelay s.ptpTransport (s.g R.PTP_CTRL_DOMAIN)) s.toMach
  have hnet := Mach.ethSent_net p (.delayReq s.peerDelay s.ptpTransport (s.g R.PTP_CTRL_DOMAIN)) s.toMach
  have hcount := Mach.ethSent_count p (.delayReq s.peerDelay s.ptpTransport (s.g R.PTP_CTRL_DOMAIN)) s.toMach
  generalize (s.toMach.ethSend p (.delayReq s.peerDelay s.ptpTransport (s.g R.PTP_CTRL_DOMAIN))).inc R.PTP_TX = m1 at *
  refine does_of_act (f := Mach.delayReqSend p) rfl hdef ⟨hout, ?_, hcount, hwithin⟩
  rw [← hnet]
  rfl

end

/-- Settles O42. -/
theorem ptpQueueAndSending : Obligations.PtpQueueAndSending := by
  intro s p fr who cmd
  obtain ⟨h1, h2, h3⟩ := ptpFrameRx_clauses s p fr
  refine ⟨h1, h2, h3, fun h => ptp_alien s who cmd (by simpa [Mach.ptpOwns] using h), fun h => ptp_own s who cmd (by simpa [Mach.ptpOwns] using h),
    fun h => idles_of_act (f := Mach.ptpTxDone) rfl (Mach.ptpTxDone_none h), fun x hx => ptpTxDone_ends s hx rfl,
    ptpTxTsRead_latches s, ptpFailover_takes s, fun h => idles_of_act (f := Mach.delayReqSend p) rfl (if_neg ?_), delayReqSend_sends s p⟩
  rw [h]
  decide

end Sys2Proof.Machine

namespace Sys2Proof.Machine

set_option Elab.async false

/-! ## A wake source that no reset follows (R327) -/

/-- Every register below the AON island's end reads as before. -/
def LowKept (a b : Mach) : Prop := ∀ off, off < 0x0D0000 → b.rd off = a.rd off

namespace LowKept

theorem refl (a : Mach) : LowKept a a := fun _ _ => rfl

theorem trans {a b c : Mach} (h1 : LowKept a b) (h2 : LowKept b c) : LowKept a c := fun off h => (h2 off h).trans (h1 off h)

theorem of_regs {a b : Mach} (h : b.regs = a.regs) : LowKept a b := fun off _ => by
  unfold Mach.rd
  rw [h]

theorem put (m : Mach) (f : Fld) (v : Nat) (h : 0x0D0000 ≤ f.a) : LowKept m (m.put f v) := fun off ho =>
  Mach.rd_put_ne m f v (by omega)

theorem forEach {α : Type} (xs : List α) (f : α → Mach → Mach) (h : ∀ x m, LowKept m (f x m)) (m : Mach) : LowKept m (forEach xs f m) :=
  forEach_keeps (LowKept m) xs f (fun x t ht => ht.trans (h x t)) m (refl m)

theorem g {a b : Mach} (h : LowKept a b) (f : Fld) (hf : f.a < 0x0D0000) : b.g f = a.g f := by
  unfold Mach.g
  rw [h _ hf]

end LowKept

namespace Mach

theorem restartPort_lowKept (p : Fin 16) (m : Mach) : LowKept m (m.restartPort p) := .of_regs rfl

theorem restartPorts_lowKept (m : Mach) : LowKept m m.restartPorts := by
  refine LowKept.forEach _ _ (fun p t => ?_) m
  split
  · exact (LowKept.put t (R.ING_CTRL_EN p) 0 (by simp only [R.ING_CTRL_EN]; omega)).trans (.of_regs (onPort_regs _ p _))
  · exact restartPort_lowKept p t

theorem loadBound_lowKept (m : Mach) : LowKept m m.loadBound := by
  refine LowKept.forEach _ _ (fun e t => ?_) m
  split
  · split
    · exact .of_regs (onEng_regs t e _)
    · exact .refl t
  · exact .refl t

theorem setLinkState_lowKept (l : Fin 4) (st : Nat) (m : Mach) : LowKept m (m.setLinkState l st) := by
  unfold setLinkState
  split
  · exact .refl m
  · exact (LowKept.of_regs (onLink_regs m l _)).trans (.put _ (R.LNK_STAT_CHG l) 1 (by simp only [R.LNK_STAT_CHG]; omega))

theorem refuseCheck_regs (l : Fin 4) (m : Mach) : (m.refuseCheck l).regs = m.regs := by
  unfold refuseCheck
  split
  · exact onFus_regs _ _
  · rfl

theorem startTraining_lowKept (l : Fin 4) (m : Mach) : LowKept m (m.startTraining l) := by
  unfold startTraining
  exact ((LowKept.of_regs (onLink_regs m l _)).trans (setLinkState_lowKept l 1 _)).trans (.of_regs (refuseCheck_regs l _))

theorem wakeS2_lowKept (m : Mach) : LowKept m m.wakeS2 := by
  unfold wakeS2
  extract_lets m1 m2
  have h2 : LowKept m m2 := ((LowKept.of_regs (onSleep_regs m _)).trans (restartPorts_lowKept m1)).trans (loadBound_lowKept _)
  split
  · exact h2
  · exact h2.trans (LowKept.forEach _ _ (fun l t => startTraining_lowKept l t) m2)

end Mach

/-- What an arriving command finds once it has acted as a wake source. -/
structure Roused (source : Nat) (a b : Mach) : Prop where
  low : ∀ off, off < 0x0D0000 → off ≠ R.PWR_WAKE_LAST_SOURCE.a → b.rd off = a.rd off
  calm : a.Awake ∨ a.sleep.state = 3 → b = a
  woken : a.sleep.state = 2 → b.sleep.state = 0 ∧ b.sleep.waking = true ∧ b.g R.PWR_WAKE_LAST_SOURCE = source
  parts : OnlyIn [.regs, .tick, .port, .fe, .eng, .fus, .sleep, .link] a b
  pending : b.tick.pending = a.tick.pending

namespace Roused

variable {source : Nat} {a b : Mach}

theorem refl (h2 : a.sleep.state ≠ 2) : Roused source a a := ⟨fun _ _ _ => rfl, fun _ => rfl, fun h => absurd h h2, OnlyIn.refl _ _, rfl⟩

theorem abandonEntry (h : a.sleep.state = 0) (he : a.sleep.entering ≠ none) : Roused source a a.abandonEntry := by
  have hp := Mach.abandonEntry_onlyIn a
  refine ⟨fun off _ _ => ?_, fun ha => ?_, fun h2 => absurd (h.symm.trans h2) (by decide), hp.mono (by decide), rfl⟩
  · unfold Mach.rd
    rw [show a.abandonEntry.regs = a.regs from hp .regs (by decide)]
  · rcases ha with ha | ha
    · exact absurd ha.2 he
    · exact absurd (h.symm.trans ha) (by decide)

theorem wakeS2 (unit : Nat) (hs : source < 2 ^ 8) (h : a.sleep.state = 2) : Roused source a (a.recordWake source unit).wakeS2 := by
  have hr := Mach.wakeS2_restarted (a.recordWake source unit)
  have hlow := Mach.wakeS2_lowKept (a.recordWake source unit)
  have hsleep := (hr.parts .sleep (by decide)).trans (Mach.onSleep_sleep _ _)
  refine ⟨fun off hlt hne => (hlow off hlt).trans (Mach.recordWake_rd source unit a hne), fun ha => ?_, fun _ => ⟨?_, ?_, ?_⟩, ?_, ?_⟩
  · rcases ha with ha | ha
    · exact absurd (ha.1.symm.trans h) (by decide)
    · exact absurd (ha.symm.trans h) (by decide)
  · rw [hsleep]
  · rw [hsleep]
  · exact (LowKept.g hlow R.PWR_WAKE_LAST_SOURCE (by decide)).trans (Mach.recordWake_source unit a hs)
  · exact (((Mach.recordWake_onlyIn source unit a).append (OnlyIn.onSleep _ _)).append hr.parts).mono (by decide)
  · have hrec : (a.recordWake source unit).tick = a.tick := Mach.recordWake_onlyIn source unit a .tick (by decide)
    have htick := hr.parts .tick (by decide)
    rw [Part.same, Mach.onSleep_tick, hrec] at htick
    rw [htick]

/-- What the command itself then changes is stirred with the wake. -/
theorem stirred {l : List Part} {c : Mach} (h : Roused source a b) (hc : OnlyIn l b c) (hl : Part.sleep ∉ l) : Stirred l a c := by
  refine ⟨fun ha => h.calm ha ▸ hc, fun h2 => ?_, h.parts.append hc⟩
  rw [show c.sleep = b.sleep from hc .sleep hl]
  exact ⟨(h.woken h2).1, (h.woken h2).2.1⟩

end Roused

namespace Mach

/-- A source that wakes from S2 alone. -/
theorem stir_roused (source unit : Nat) (m : Mach) (hs : source ∈ [3, 4, 5, 7]) : Roused source m (m.stir source unit) := by
  have hok : m.wakeUnitOk source unit = true := by
    unfold wakeUnitOk
    have : source ≠ 6 := by rintro rfl; simp at hs
    simp [this]
  have hw3 : wakesFrom source 3 = false := by
    simp only [List.mem_cons, List.not_mem_nil, or_false] at hs
    rcases hs with rfl | rfl | rfl | rfl <;> rfl
  have hw2 : wakesFrom source 2 = true := by
    simp only [List.mem_cons, List.not_mem_nil, or_false] at hs
    rcases hs with rfl | rfl | rfl | rfl <;> rfl
  have hne2 : source ≠ 2 := by rintro rfl; simp at hs
  have hlt : source < 2 ^ 8 := by
    simp only [List.mem_cons, List.not_mem_nil, or_false] at hs
    omega
  unfold stir
  split
  next h => exact .refl (by simp [h.1])
  next =>
    unfold wake
    split
    next h => exact .abandonEntry h.1 (Option.isSome_iff_ne_none.1 h.2.1)
    next =>
      by_cases h2 : m.sleep.state = 2
      · rw [if_neg (by simp [h2, hw2, hok])]
        extract_lets m1
        rw [if_neg (show ¬ m.sleep.state = 3 by omega)]
        exact .wakeS2 unit hlt h2
      · have hno : wakesFrom source m.sleep.state = false := by
          by_cases h3 : m.sleep.state = 3
          · rw [h3, hw3]
          · simp [wakesFrom, h2, h3]
        rw [if_pos (by simp [hno])]
        exact .refl h2

end Mach

end Sys2Proof.Machine

namespace Sys2Proof.Machine

set_option Elab.async false

/-- A loop that keeps P reaches every element of its list. -/
theorem forEach_reaches_of {α σ : Type} (P : σ → Prop) (Q : α → σ → Prop) (xs : List α) (f : α → σ → σ) (hP : ∀ x s, P s → P (f x s))
    (h : ∀ x s, P s → Q x (f x s)) (hk : ∀ x y s, P s → Q y s → Q y (f x s)) (s : σ) (hs : P s) : ∀ x ∈ xs, Q x (forEach xs f s) := by
  induction xs generalizing s with
  | nil => exact fun x hx => absurd hx (by simp)
  | cons y r ih =>
    intro x hx
    rcases List.mem_cons.mp hx with rfl | hx
    · exact (forEach_keeps (fun t => P t ∧ Q x t) r f (fun z t ht => ⟨hP z t ht.1, hk z x t ht.1 ht.2⟩) _ ⟨hP x s hs, h x s hs⟩).2
    · exact ih _ (hP y s hs) x hx

/-! ## A destination that is judged (R354, R358) -/

/-- Only the state of destination d and its counters change, apart from records; a destination that is down stays down, and its hops stay. -/
structure DestJudged (d : Fin 8) (a b : Mach) : Prop where
  parts : OnlyIn [.regs, .tick, .jnl, .net, .cache] a b
  net : b.net = { a.net with dests := b.net.dests }
  others : ∀ k, k ≠ d → b.net.dests.get k = a.net.dests.get k
  hops : (b.net.dests.get d).hops = (a.net.dests.get d).hops
  down : (a.net.dests.get d).down = true → (b.net.dests.get d).down = true
  regs : ∀ off, off < 0x064118 ∨ (0x064120 ≤ off ∧ off < 0x1E0000) → b.rd off = a.rd off

namespace DestJudged

variable {d : Fin 8} {a b c : Mach}

theorem refl (a : Mach) : DestJudged d a a := ⟨OnlyIn.refl _ _, rfl, fun _ _ => rfl, rfl, id, fun _ _ => rfl⟩

theorem trans (h1 : DestJudged d a b) (h2 : DestJudged d b c) : DestJudged d a c :=
  ⟨h1.parts.trans h2.parts, by rw [h2.net, h1.net], fun k hk => (h2.others k hk).trans (h1.others k hk), h2.hops.trans h1.hops,
    fun h => h2.down (h1.down h), fun off ho => (h2.regs off ho).trans (h1.regs off ho)⟩

theorem of_recOnly (h : RecOnly a b) : DestJudged d a b := by
  have hnet : b.net = a.net := h.parts .net (by decide)
  exact ⟨h.parts.mono (by decide), by rw [hnet], fun _ _ => by rw [hnet], by rw [hnet], by rw [hnet]; exact id, fun off ho => h.regs off (by omega)⟩

theorem inc (m : Mach) (f : Fld) (h : 0x064118 ≤ f.a ∧ f.a < 0x064120) : DestJudged d m (m.inc f) :=
  ⟨(OnlyIn.inc m f).mono (by decide), by rw [Mach.inc_net], fun _ _ => by rw [Mach.inc_net], by rw [Mach.inc_net], by rw [Mach.inc_net]; exact id,
    fun off ho => Mach.rd_put_ne m f _ (by omega)⟩

theorem onDest (m : Mach) (u : RrtDest → RrtDest) (hh : ∀ x, (u x).hops = x.hops) (hd : ∀ x, x.down = true → (u x).down = true) :
    DestJudged d m (m.onDest d u) := by
  have hself : (m.onDest d u).net.dests.get d = u (m.net.dests.get d) := vmod_get_self _ d u
  refine ⟨?_, rfl, fun k hk => vmod_get_ne _ u hk, ?_, fun h => ?_, fun _ _ => rfl⟩
  · exact (Mach.onDest_within d u m).parts.mono (by decide)
  · rw [hself, hh]
  · rw [hself]
    exact hd _ h

/-- A field that judging leaves. -/
theorem g (h : DestJudged d a b) (f : Fld) (hf : f.a < 0x064118 ∨ (0x064120 ≤ f.a ∧ f.a < 0x1E0000)) : b.g f = a.g f := by
  unfold Mach.g
  rw [h.regs _ hf]

end DestJudged

namespace Mach

section
variable (d : Fin 8) (m : Mach)

theorem destDown_judged : DestJudged d m (m.destDown d) := by
  unfold destDown
  split
  · exact .refl m
  · refine DestJudged.trans ?_ (.of_recOnly (health_recOnly _ _ _ _))
    refine DestJudged.trans ?_ (.inc _ R.RRT_DEST_DOWN (by decide))
    exact .onDest m _ (fun _ => rfl) fun _ _ => rfl

theorem destDown_down : ((m.destDown d).net.dests.get d).down = true := by
  unfold destDown
  split
  next h => exact h
  next =>
    refine (DestJudged.of_recOnly (health_recOnly ..)).down ((DestJudged.inc _ R.RRT_DEST_DOWN (by decide)).down ?_)
    exact congrArg RrtDest.down (vmod_get_self m.net.dests d _)

theorem destFallback_judged : DestJudged d m (m.destFallback d) := by
  unfold destFallback
  extract_lets x
  split
  · refine DestJudged.trans ?_ (.of_recOnly (health_recOnly _ _ _ _))
    refine DestJudged.trans ?_ (.inc _ R.RRT_FB_SWITCH (by decide))
    exact .onDest m _ (fun _ => rfl) fun _ h => h
  · exact .refl m

theorem judgeDest_judged : DestJudged d m (m.judgeDest d) := by
  unfold judgeDest
  split
  · exact .refl m
  · extract_lets m1 m2
    have h1 : DestJudged d m m1 := by
      simp only [m1]
      split
      · exact .onDest m _ (fun _ => rfl) fun _ h => h
      · exact .refl m
    have h2 : DestJudged d m1 m2 := by
      simp only [m2]
      split
      · exact destDown_judged d m1
      · exact .refl m1
    exact (h1.trans h2).trans (destFallback_judged d m2)

end

theorem judgeDest_down {d : Fin 8} {m : Mach} (hen : m.on (R.RRT_D_CTRL_EN d) = true) (hfb : m.on (R.RRT_D_CTRL_FB_EN d) = false)
    (hlink : m.net.link.get (m.destPort d) = false) : ((m.judgeDest d).net.dests.get d).down = true := by
  unfold judgeDest
  rw [if_neg (by simp [hen])]
  extract_lets m1 m2
  have hoff : (m1.net.dests.get d).onFb = false ∧ m1.net.link = m.net.link ∧ m1.regs = m.regs := by
    simp only [m1]
    split
    next => exact ⟨congrArg RrtDest.onFb (vmod_get_self m.net.dests d _), rfl, rfl⟩
    next h => exact ⟨by simpa [fbUsable, hfb] using h, rfl, rfl⟩
  clear_value m1
  obtain ⟨hon, hl, hr⟩ := hoff
  have hport : m1.destPort d = m.destPort d := by
    unfold destPort
    rw [g_of_regs hr]
  have hno : m1.hopUsable d (m1.destPort d) = false := by
    unfold hopUsable ethUp
    rw [hport, hl, hlink]
    simp
  have h2 : (m2.net.dests.get d).down = true := by
    simp only [m2]
    rw [if_pos (by simp [hno, hon])]
    exact destDown_down d m1
  exact (destFallback_judged d m2).down h2

/-! ## A next hop is asked for (R354) -/

/-- Requests are sent: only the count of sent frames and the frames themselves change. -/
structure Asked (a b : Mach) : Prop where
  parts : OnlyIn [.regs, .out] a b
  regs : ∀ off, off ≠ (R.ETH_TX_FRAMES 0).a → off ≠ (R.ETH_TX_FRAMES 1).a → b.rd off = a.rd off
  out : ∀ x ∈ a.out, x ∈ b.out

namespace Asked

variable {a b c : Mach}

theorem refl (a : Mach) : Asked a a := ⟨OnlyIn.refl _ _, fun _ _ _ => rfl, fun _ h => h⟩

theorem trans (h1 : Asked a b) (h2 : Asked b c) : Asked a c :=
  ⟨h1.parts.trans h2.parts, fun off h0 h1' => (h2.regs off h0 h1').trans (h1.regs off h0 h1'), fun x h => h2.out x (h1.out x h)⟩

theorem ethSend (p : Fin 2) (x : EthTx) (m : Mach) : Asked m (m.ethSend p x) := by
  refine ⟨(ethSend_within p x m).parts, fun off h0 h1 => ?_, fun y hy => ?_⟩
  · have hne : off ≠ (R.ETH_TX_FRAMES p).a := by
      fin_cases p
      · exact h0
      · exact h1
    exact rd_put_ne (m.emit (.eth p.1 x)) _ _ hne
  · unfold Mach.ethSend
    rw [inc_out, emit_out]
    exact List.mem_cons_of_mem _ hy

theorem forEach {α : Type} (xs : List α) (f : α → Mach → Mach) (h : ∀ x m, Asked m (f x m)) (m : Mach) : Asked m (forEach xs f m) :=
  forEach_keeps (Asked m) xs f (fun x t ht => ht.trans (h x t)) m (refl m)

theorem g (h : Asked a b) (f : Fld) (hf : f.a ≠ (R.ETH_TX_FRAMES 0).a ∧ f.a ≠ (R.ETH_TX_FRAMES 1).a) : b.g f = a.g f := by
  unfold Mach.g
  rw [h.regs _ hf.1 hf.2]

theorem net (h : Asked a b) : b.net = a.net := h.parts .net (by decide)

end Asked

theorem askHops_asked (d : Fin 8) (m : Mach) : Asked m (m.askHops d) := by
  unfold askHops
  split
  · exact .refl m
  · exact .forEach _ _ (fun p t => .ethSend p _ t) m

/-- The registers of stations and destinations, but the counts of sent frames. -/
def StationKept (a b : Mach) : Prop := ∀ off, off < 0x1E0000 → off ≠ (R.ETH_TX_FRAMES 0).a → off ≠ (R.ETH_TX_FRAMES 1).a → b.rd off = a.rd off

theorem Asked.kept {a b : Mach} (h : Asked a b) : StationKept a b := fun off _ h0 h1 => h.regs off h0 h1

theorem StationKept.g {a b : Mach} (h : StationKept a b) (f : Fld) (hf : f.a < 0x1E0000 ∧ f.a ≠ (R.ETH_TX_FRAMES 0).a ∧ f.a ≠ (R.ETH_TX_FRAMES 1).a) :
    b.g f = a.g f := by
  unfold Mach.g
  rw [h _ hf.1 hf.2.1 hf.2.2]

/-- A query reads those registers alone. -/
theorem hopQuery_congr {a b : Mach} (h : StationKept a b) (d : Fin 8) (p : Fin 2) : b.hopQuery d p = a.hopQuery d p := by
  have hg : ∀ f : Fld, f.a < 0x060100 ∨ (0x064200 ≤ f.a ∧ f.a < 0x064400) ∨ (0x068000 ≤ f.a ∧ f.a < 0x068100) → b.g f = a.g f := fun f hf =>
    h.g f (by simp only [R.ETH_TX_FRAMES]; omega)
  have hrd : ∀ off, off < 0x060100 ∨ (0x064200 ≤ off ∧ off < 0x064400) ∨ (0x068000 ≤ off ∧ off < 0x068100) → b.rd off = a.rd off := fun off ho =>
    h off (by omega) (by simp only [R.ETH_TX_FRAMES]; omega) (by simp only [R.ETH_TX_FRAMES]; omega)
  have hon : ∀ f : Fld, f.a < 0x060100 ∨ (0x064200 ≤ f.a ∧ f.a < 0x064400) ∨ (0x068000 ≤ f.a ∧ f.a < 0x068100) → b.on f = a.on f := fun f hf => by
    unfold on
    rw [hg f hf]
  have hwords : ∀ w : Nat → Nat, (∀ k < 4, w k < 0x060100 ∨ (0x064200 ≤ w k ∧ w k < 0x064400) ∨ (0x068000 ≤ w k ∧ w k < 0x068100)) →
      ((List.range 4).flatMap fun k => bytesOf 4 (b.rd (w k)).toNat) = (List.range 4).flatMap fun k => bytesOf 4 (a.rd (w k)).toNat := fun w hw =>
    List.flatMap_congr fun k hk => by rw [hrd _ (hw k (List.mem_range.mp hk))]
  have hip : b.destIp6 d = a.destIp6 d := hwords _ fun k hk => by simp only [R.RRT_D_IP_A]; omega
  have hglobal : b.globalIp6 p = a.globalIp6 p := by
    unfold globalIp6
    rw [hon _ (by simp only [R.ETH_IP6_CFG]; omega), hwords _ fun k hk => by simp only [R.ETH_IP6_A]; omega]
  unfold hopQuery
  rw [hon (R.RRT_D_CTRL_V6 d) (by simp only [R.RRT_D_CTRL_V6]; omega), hip, hglobal, hg (R.ETH_IP6_CFG p) (by simp only [R.ETH_IP6_CFG]; omega),
    hwords _ fun k hk => by simp only [R.ETH_IP6_GW_A]; omega, hrd (R.RRT_D_IP_A d 0) (by simp only [R.RRT_D_IP_A]; omega),
    hg (R.ETH_IP4 p) (by simp only [R.ETH_IP4]; omega), hg (R.ETH_IP4_CFG p) (by simp only [R.ETH_IP4_CFG]; omega),
    hg (R.ETH_IP4_GW p) (by simp only [R.ETH_IP4_GW]; omega)]

/-- A destination whose port is up is asked for there. -/
theorem askHops_asks {d : Fin 8} {m : Mach} (hen : m.on (R.RRT_D_CTRL_EN d) = true) (hst : m.on (R.RRT_D_CTRL_STATIC d) = false)
    (hup : m.ethUp (m.destPort d) = true) : .eth (m.destPort d).1 (m.hopQuery d (m.destPort d)) ∈ (m.askHops d).out := by
  unfold askHops
  rw [if_neg (by simp [hen, hst])]
  extract_lets ports
  refine forEach_reaches_of (fun t => Asked m t) (fun p t => .eth p.1 (m.hopQuery d p) ∈ t.out) _ _ (fun p t ht => ht.trans (.ethSend p _ t)) (fun p t ht => ?_)
    (fun p q t _ hq => (Asked.ethSend p _ t).out _ hq) m (.refl m) _ ?_
  · rw [ethSend, inc_out, emit_out, hopQuery_congr ht.kept]
    exact List.mem_cons_self
  · refine List.mem_filter.mpr ⟨?_, hup⟩
    simp only [ports]
    split <;> simp

end Mach

end Sys2Proof.Machine

namespace Sys2Proof.Machine

set_option Elab.async false

namespace Mach

/-! ## Arrived frames and answers -/

/-- The field of a counter of received frames, in the order of the statistics block. -/
def RxKind (p : Fin 2) (c : Fld) : Prop := c.hi = 31 ∧ c.lo = 0 ∧ c.a ≠ (R.ETH_RX_FRAMES p).a ∧ c.a ≠ (R.ETH_TX_FRAMES p).a ∧ (0x60000 ≤ c.a ∧ c.a < 0x0D0000)

/-- The counters of frames are counters of their own words. -/
theorem rxKind_of_offset {p : Fin 2} {k : Nat} (h : k ∈ [0x60104, 0x60108, 0x6010C, 0x60110, 0x60118, 0x6011C, 0x60120, 0x60124, 0x60128]) :
    RxKind p ⟨k + p * 0x8000, 31, 0⟩ := by
  simp only [List.mem_cons, List.not_mem_nil, or_false] at h
  refine ⟨rfl, rfl, ?_, ?_, ?_, ?_⟩ <;> simp only [R.ETH_RX_FRAMES, R.ETH_TX_FRAMES] <;> omega

/-- The counter of an accepted frame. -/
theorem rxCounter_kind {p : Fin 2} {fr : EthFrame} {m : Mach} : RxKind p ((m.rxCounter p fr).getD (R.ETH_RX_DROP p)) := by
  have hdrop : RxKind p (R.ETH_RX_DROP p) := rxKind_of_offset (by decide)
  have harp : RxKind p (R.ETH_ARP p) := rxKind_of_offset (by decide)
  have hndp : RxKind p (R.ETH_NDP p) := rxKind_of_offset (by decide)
  have hicmp : RxKind p (R.ETH_ICMP p) := rxKind_of_offset (by decide)
  have hptp : RxKind p (R.ETH_PTP p) := rxKind_of_offset (by decide)
  have hrrt : RxKind p (R.ETH_RRT_RX p) := rxKind_of_offset (by decide)
  unfold rxCounter
  extract_lets mine
  split
  · exact harp
  · split
    · exact hndp
    · exact hdrop
  · split
    · exact hicmp
    · exact hdrop
  · split
    · exact hptp
    · exact hdrop
  · split
    · exact hptp
    · split
      · exact hrrt
      · exact hdrop
  · exact hdrop
  · exact hdrop
  · exact hdrop

section
variable {p : Fin 2} {c : Fld} {m : Mach}

theorem ethArrived_seen (h : RxKind p c) : (m.ethArrived p c).g (R.ETH_RX_FRAMES p) = (m.g (R.ETH_RX_FRAMES p) + 1) % 2 ^ 32 ∧
    (m.ethArrived p c).g c = (m.g c + 1) % 2 ^ 32 :=
  ⟨ethArrived_frames p c m h.2.2.1, ethArrived_kind p c m h.2.2.1 h.1 h.2.1⟩

theorem ethArrived_quiet : RegsBut [(R.ETH_RX_FRAMES p).a, c.a] m (m.ethArrived p c) ∧ OnlyIn [.regs] m (m.ethArrived p c) :=
  ⟨ethArrived_regsBut p c m, ethArrived_onlyIn p c m⟩

/-- An answer to a frame that arrived. -/
theorem answered_spec (h : RxKind p c) (x : EthTx) :
    (((m.ethArrived p c).ethSend p x).g (R.ETH_RX_FRAMES p) = (m.g (R.ETH_RX_FRAMES p) + 1) % 2 ^ 32 ∧
        ((m.ethArrived p c).ethSend p x).g c = (m.g c + 1) % 2 ^ 32) ∧
      (((m.ethArrived p c).ethSend p x).out = .eth p.1 x :: m.out ∧
        ((m.ethArrived p c).ethSend p x).g (R.ETH_TX_FRAMES p) = (m.g (R.ETH_TX_FRAMES p) + 1) % 2 ^ 32) ∧
      OnlyIn [.regs, .out] m ((m.ethArrived p c).ethSend p x) := by
  obtain ⟨h1, h2⟩ := ethArrived_seen (m := m) h
  obtain ⟨-, -, -, htx, -⟩ := h
  have hparts := ethArrived_onlyIn p c m
  have hframes : (m.ethArrived p c).g (R.ETH_TX_FRAMES p) = m.g (R.ETH_TX_FRAMES p) :=
    ethArrived_g p c m _ (by simp only [R.ETH_TX_FRAMES, R.ETH_RX_FRAMES]; omega) htx.symm
  have hout : (m.ethArrived p c).out = m.out := hparts .out (by decide)
  generalize m.ethArrived p c = m1 at *
  refine ⟨⟨?_, ?_⟩, ⟨?_, ?_⟩, (hparts.append (ethSend_within p x m1).parts).mono (by decide)⟩
  · rw [ethSend, g_inc_ne _ _ _ (by simp only [R.ETH_TX_FRAMES, R.ETH_RX_FRAMES]; omega), emit_g, h1]
  · rw [ethSend, g_inc_ne _ _ _ htx, emit_g, h2]
  · rw [ethSend, inc_out, emit_out, hout]
  · rw [ethSend, g_inc_word _ _ rfl rfl, emit_g, hframes]

/-! ## A frame by its kind (R347) -/

/-- The counter of a frame. -/
def frameKind (p : Fin 2) (fr : EthFrame) (m : Mach) : Fld :=
  if fr.fcsOk = false then R.ETH_RX_FCS p
  else if 1522 < fr.len then R.ETH_RX_OVERSIZE p
  else if fr.body = .pause then R.ETH_RX_PAUSE p
  else if fr.len < 64 ∨ fr.unsupported = true ∨ m.vlanOk p fr.tags = false then R.ETH_RX_DROP p
  else (m.rxCounter p fr).getD (R.ETH_RX_DROP p)

variable {fr : EthFrame}

theorem frameKind_kind : RxKind p (m.frameKind p fr) := by
  unfold frameKind
  split_ifs
  · exact rxKind_of_offset (k := 0x60104) (by decide)
  · exact rxKind_of_offset (k := 0x60108) (by decide)
  · exact rxKind_of_offset (k := 0x6010C) (by decide)
  · exact rxKind_of_offset (k := 0x60110) (by decide)
  · exact rxCounter_kind

theorem frameKind_ne_wake (m : Mach) (p : Fin 2) (fr : EthFrame) : R.PWR_WAKE_LAST_SOURCE.a ≠ (m.frameKind p fr).a := by
  obtain ⟨-, -, -, -, h, -⟩ := frameKind_kind (m := m) (p := p) (fr := fr)
  rw [R.PWR_WAKE_LAST_SOURCE]
  dsimp only
  omega

/-- The settings that tell frames apart: those of the port, and the RRT port. -/
theorem frameKind_congr {a b : Mach} (h : ∀ f : Fld, (0x60000 ≤ f.a ∧ f.a < 0x60100) ∨ (0x64000 ≤ f.a ∧ f.a < 0x64100) ∨ (0x68000 ≤ f.a ∧ f.a < 0x68100) → b.g f = a.g f) :
    b.vlanOk p fr.tags = a.vlanOk p fr.tags ∧ b.rxCounter p fr = a.rxCounter p fr := by
  have hudp : b.g R.RRT_CFG_UDP_PORT = a.g R.RRT_CFG_UDP_PORT := h _ (by decide)
  refine ⟨?_, ?_⟩
  · unfold vlanOk on
    rw [h (R.ETH_CTRL_RX_UNTAG p) (by simp only [R.ETH_CTRL_RX_UNTAG]; omega), h (R.ETH_VLAN_VID p) (by simp only [R.ETH_VLAN_VID]; omega)]
  · unfold rxCounter
    rw [hudp]

theorem ethFrameRx_up (h : m.ethUp p = true) : ethFrameRx p fr m = m.ethArrived p (m.frameKind p fr) := by
  obtain ⟨hv, hc⟩ := frameKind_congr (p := p) (fr := fr) (a := m) (b := m.inc (R.ETH_RX_FRAMES p)) fun f hf =>
    g_inc_ne m _ f (by simp only [R.ETH_RX_FRAMES]; omega)
  unfold ethFrameRx
  rw [if_neg (by simp [h])]
  dsimp only
  rw [hv, hc]
  unfold frameKind
  simp only [Bool.not_eq_true']
  split_ifs <;> rfl

theorem ethFrameRx_down (h : m.ethUp p = false) : ethFrameRx p fr m = m := if_pos (by simp [h])

end

end Mach

/-! ## The clauses of O41 -/

section
variable (s : State) (p : Fin 2)

theorem ethFrameRx_counts (fr : EthFrame) (h : s.ethUp p = true) :
    Does (.ethFrameRx p fr) s (fun t =>
      (t.g (R.ETH_RX_FRAMES p) = (s.g (R.ETH_RX_FRAMES p) + 1) % 2 ^ 32 ∧ t.g (s.frameKind p fr) = (s.g (s.frameKind p fr) + 1) % 2 ^ 32) ∧
      (s.Awake ∨ s.rrtFrame p fr = false → RegsBut [(R.ETH_RX_FRAMES p).a, (s.frameKind p fr).a] s.toMach t ∧ OnlyIn [.regs] s.toMach t) ∧
      (s.rrtFrame p fr = true → Stirred [.regs] s.toMach t ∧ (s.sleep.state = 2 → t.g R.PWR_WAKE_LAST_SOURCE = 4))) := by
  have hk : Mach.RxKind p (s.frameKind p fr) := Mach.frameKind_kind
  cases hr : s.rrtFrame p fr
  case false =>
    have hx : (fun m : Mach => (if m.rrtFrame p fr then m.stir 4 p.1 else m).ethFrameRx p fr) s.toMach = s.ethArrived p (s.frameKind p fr) := by
      dsimp only
      rw [hr]
      exact Mach.ethFrameRx_up h
    exact does_of_act (f := fun m => (if m.rrtFrame p fr then m.stir 4 p.1 else m).ethFrameRx p fr) rfl hx
      ⟨Mach.ethArrived_seen hk, fun _ => Mach.ethArrived_quiet, fun h0 => absurd h0 (by decide)⟩
  case true =>
    have hw := Mach.stir_roused 4 p.1 s.toMach (by decide)
    have hx : (fun m : Mach => (if m.rrtFrame p fr then m.stir 4 p.1 else m).ethFrameRx p fr) s.toMach = (s.stir 4 p.1).ethFrameRx p fr := by
      dsimp only
      rw [if_pos hr]
    generalize s.stir 4 p.1 = m1 at hw hx
    have hg : ∀ f : Fld, f.a < 0x0D0000 → f.a ≠ R.PWR_WAKE_LAST_SOURCE.a → m1.g f = s.g f := fun f hf hne => by
      unfold Mach.g
      rw [hw.low _ hf hne]
    obtain ⟨hv, hc⟩ := Mach.frameKind_congr (p := p) (fr := fr) (a := s.toMach) (b := m1) fun f hf =>
      hg f (by omega) (by simp only [R.PWR_WAKE_LAST_SOURCE]; omega)
    have hkind : m1.frameKind p fr = s.frameKind p fr := by
      unfold Mach.frameKind
      rw [hv, hc]
    have hup : m1.ethUp p = true := by
      have hlink : m1.net = s.net := hw.parts .net (by decide)
      unfold Mach.ethUp Mach.on at h ⊢
      rw [hlink, hg _ (by simp only [R.ETH_CTRL_EN]; omega) (by simp only [R.ETH_CTRL_EN, R.PWR_WAKE_LAST_SOURCE]; omega)]
      exact h
    rw [Mach.ethFrameRx_up hup, hkind] at hx
    obtain ⟨h1, h2⟩ := Mach.ethArrived_seen (m := m1) hk
    obtain ⟨hbut, hregs⟩ := Mach.ethArrived_quiet (p := p) (c := s.frameKind p fr) (m := m1)
    have hsrc := Mach.ethArrived_g p (s.frameKind p fr) m1 R.PWR_WAKE_LAST_SOURCE (by simp only [R.PWR_WAKE_LAST_SOURCE, R.ETH_RX_FRAMES]; omega)
      (Mach.frameKind_ne_wake s.toMach p fr)
    have hsleep : (m1.ethArrived p (s.frameKind p fr)).sleep = m1.sleep := hregs .sleep (by decide)
    refine does_of_act (f := fun m => (if m.rrtFrame p fr then m.stir 4 p.1 else m).ethFrameRx p fr) rfl hx ⟨⟨h1.trans ?_, h2.trans ?_⟩, fun ha => ?_,
      fun _ => ⟨⟨fun ha => ?_, fun h2s => ?_, ?_⟩, fun h2s => ?_⟩⟩
    · rw [hg _ (by simp only [R.ETH_RX_FRAMES]; omega) (by simp only [R.ETH_RX_FRAMES, R.PWR_WAKE_LAST_SOURCE]; omega)]
    · rw [hg _ hk.2.2.2.2.2 (Mach.frameKind_ne_wake s.toMach p fr).symm]
    · rw [hw.calm (.inl (ha.resolve_right (by decide)))] at hbut hregs ⊢
      exact ⟨hbut, hregs⟩
    · rw [hw.calm ha] at hregs ⊢
      exact hregs
    · rw [hsleep]
      exact ⟨(hw.woken h2s).1, (hw.woken h2s).2.1⟩
    · exact (hw.parts.append hregs).mono (by decide)
    · exact hsrc.trans (hw.woken h2s).2.2

/-- A request that finds its port up is seen, and answered where it concerns the station. -/
theorem quiet_seen {c : Fld} {i : Instr} {f : Mach → Mach} (hx : exec i s = s.act f) (hk : Mach.RxKind p c) (hf : f s.toMach = s.ethArrived p c) :
    Does i s fun t => (t.g (R.ETH_RX_FRAMES p) = (s.g (R.ETH_RX_FRAMES p) + 1) % 2 ^ 32 ∧ t.g c = (s.g c + 1) % 2 ^ 32) ∧
      RegsBut [(R.ETH_RX_FRAMES p).a, c.a] s.toMach t ∧ OnlyIn [.regs] s.toMach t :=
  does_of_act hx hf ⟨Mach.ethArrived_seen hk, Mach.ethArrived_quiet⟩

theorem answered_seen {c : Fld} {i : Instr} {f : Mach → Mach} (x : EthTx) (hx : exec i s = s.act f) (hk : Mach.RxKind p c)
    (hf : f s.toMach = (s.ethArrived p c).ethSend p x) :
    Does i s fun t => (t.g (R.ETH_RX_FRAMES p) = (s.g (R.ETH_RX_FRAMES p) + 1) % 2 ^ 32 ∧ t.g c = (s.g c + 1) % 2 ^ 32) ∧
      (t.out = .eth p.1 x :: s.out ∧ t.g (R.ETH_TX_FRAMES p) = (s.g (R.ETH_TX_FRAMES p) + 1) % 2 ^ 32) ∧ OnlyIn [.regs, .out] s.toMach t :=
  does_of_act hx hf (Mach.answered_spec hk x)

end

namespace Mach

section
variable {p : Fin 2} {m : Mach}

/-- The destinations in their order, each asked for. -/
def hopsAsked (m : Mach) : Mach := forEach (List.finRange 8) (fun (d : Fin 8) t => t.askHops d) (m.onNet fun n => { n with refreshAt := m.elapsed })

theorem hopsAsked_asked (m : Mach) : Asked (m.onNet fun n => { n with refreshAt := m.elapsed }) (hopsAsked m) :=
  .forEach _ _ (fun d t => askHops_asked d t) _

theorem hopsAsked_asks {d : Fin 8} {m : Mach} (hen : m.on (R.RRT_D_CTRL_EN d) = true) (hst : m.on (R.RRT_D_CTRL_STATIC d) = false)
    (hup : m.ethUp (m.destPort d) = true) : .eth (m.destPort d).1 (m.hopQuery d (m.destPort d)) ∈ (hopsAsked m).out := by
  refine forEach_reaches_of (fun t => StationKept m t ∧ t.net.link = m.net.link)
    (fun (k : Fin 8) t => m.on (R.RRT_D_CTRL_EN k) = true → m.on (R.RRT_D_CTRL_STATIC k) = false → m.ethUp (m.destPort k) = true →
      .eth (m.destPort k).1 (m.hopQuery k (m.destPort k)) ∈ t.out) (List.finRange 8) _ (fun k t ht => ?_) (fun k t ht he hs hu => ?_)
    (fun k j t _ h he hs hu => (askHops_asked k t).out _ (h he hs hu)) (m.onNet fun n => { n with refreshAt := m.elapsed })
    ⟨fun _ _ _ _ => rfl, rfl⟩ d (List.mem_finRange d) hen hst hup
  · obtain ⟨hkept, hl⟩ := ht
    exact ⟨fun off h1 h2 h3 => ((askHops_asked k t).kept off h1 h2 h3).trans (hkept off h1 h2 h3), by rw [(askHops_asked k t).net, hl]⟩
  · obtain ⟨hkept, hl⟩ := ht
    have hg : ∀ f : Fld, (0x64200 ≤ f.a ∧ f.a < 0x64400) ∨ f.a = 0x60000 ∨ f.a = 0x68000 → t.g f = m.g f := fun f hf =>
      hkept.g f (by simp only [R.ETH_TX_FRAMES]; omega)
    have hport : t.destPort k = m.destPort k := by
      unfold destPort
      rw [hg _ (by simp only [R.RRT_D_CTRL_PORT]; omega)]
    have hctl : ∀ f : Fld, 0x64200 ≤ f.a ∧ f.a < 0x64400 → t.on f = m.on f := fun f hf => by
      unfold on
      rw [hg f (.inl hf)]
    have hupt : t.ethUp (t.destPort k) = true := by
      rw [hport]
      unfold ethUp on at hu ⊢
      rw [hl, hg _ (by simp only [R.ETH_CTRL_EN]; omega)]
      exact hu
    have h := askHops_asks (d := k) (m := t) ((hctl _ (by simp only [R.RRT_D_CTRL_EN]; omega)).trans he) ((hctl _ (by simp only [R.RRT_D_CTRL_STATIC]; omega)).trans hs) hupt
    rwa [hport, hopQuery_congr hkept] at h

/-! ## A change of a port's link (R348, R354) -/

/-- Station registers outside the counters of destinations and of frames sent. -/
def StationMostKept (a b : Mach) : Prop :=
  ∀ off, off < 0x1E0000 → (off < 0x064118 ∨ 0x064120 ≤ off) → off ≠ (R.ETH_TX_FRAMES 0).a → off ≠ (R.ETH_TX_FRAMES 1).a → b.rd off = a.rd off

theorem StationMostKept.g {a b : Mach} (h : StationMostKept a b) (f : Fld)
    (hf : f.a < 0x1E0000 ∧ (f.a < 0x064118 ∨ 0x064120 ≤ f.a) ∧ f.a ≠ 0x60114 ∧ f.a ≠ 0x68114) : b.g f = a.g f := by
  unfold Mach.g
  rw [h _ hf.1 hf.2.1 hf.2.2.1 hf.2.2.2]

/-- A port's new link level, shown and reported. -/
def linkTo (p : Fin 2) (up : Bool) (m : Mach) : Mach :=
  ((m.onNet fun n => { n with link := vput n.link p up }).set1 (R.ETH_STAT_LINK_CHG p)).health H.ethLink (.eth p) []

theorem linkTo_spec (m : Mach) (p : Fin 2) (up : Bool) : (linkTo p up m).net = { m.net with link := vput m.net.link p up } ∧
    (linkTo p up m).g (R.ETH_STAT_LINK_CHG p) = 1 ∧ ∀ off, 0x64000 ≤ off ∧ off < 0x68000 → (linkTo p up m).rd off = m.rd off := by
  have hrec := health_recOnly H.ethLink (.eth p) [] ((m.onNet fun n => { n with link := vput n.link p up }).set1 (R.ETH_STAT_LINK_CHG p))
  refine ⟨?_, ?_, fun off ho => ?_⟩
  · exact (hrec.parts .net (by decide)).trans (set1_net (m.onNet _) _)
  · rw [linkTo, hrec.g _ (by simp only [R.ETH_STAT_LINK_CHG]; omega), g_set1 _ _ rfl (by simp only [R.ETH_STAT_LINK_CHG]; decide)]
  · rw [linkTo, hrec.regs _ (by omega)]
    exact rd_put_ne (m.onNet _) _ _ (by simp only [R.ETH_STAT_LINK_CHG]; omega)

/-- The destinations in their order, asked for where the port came up, and judged. -/
def destsJudged (up : Bool) (m : Mach) : Mach := forEach (List.finRange 8) (fun (d : Fin 8) t => (if up then t.askHops d else t).judgeDest d) m

section
variable (up : Bool)

/-- What one destination's turn leaves. -/
theorem destTurn_spec (d : Fin 8) (t : Mach) :
    ((if up then t.askHops d else t).judgeDest d).net = { t.net with dests := ((if up then t.askHops d else t).judgeDest d).net.dests } ∧
      StationMostKept t ((if up then t.askHops d else t).judgeDest d) := by
  have h : Asked t (if up then t.askHops d else t) := by
    split
    · exact askHops_asked d t
    · exact .refl t
  generalize (if up then t.askHops d else t) = t1 at *
  have hj := judgeDest_judged d t1
  refine ⟨by rw [← h.net]; exact hj.net, fun off h1 h2 h3 h4 => ?_⟩
  rw [hj.regs off (by omega), h.regs off h3 h4]

theorem destsJudged_spec (m : Mach) : (destsJudged up m).net = { m.net with dests := (destsJudged up m).net.dests } ∧ StationMostKept m (destsJudged up m) := by
  refine forEach_keeps (fun t => t.net = { m.net with dests := t.net.dests } ∧ StationMostKept m t) (List.finRange 8) _ (fun d t ht => ?_) m
    ⟨rfl, fun _ _ _ _ _ => rfl⟩
  obtain ⟨hn, hr⟩ := ht
  obtain ⟨hn1, hr1⟩ := destTurn_spec up d t
  exact ⟨by rw [hn1, hn], fun off h1 h2 h3 h4 => (hr1 off h1 h2 h3 h4).trans (hr off h1 h2 h3 h4)⟩

/-- A destination that has lost its only port is down. -/
theorem destsJudged_down {d : Fin 8} {m : Mach} (hen : m.on (R.RRT_D_CTRL_EN d) = true) (hfb : m.on (R.RRT_D_CTRL_FB_EN d) = false)
    (hlink : m.net.link.get (m.destPort d) = false) : ((destsJudged false m).net.dests.get d).down = true := by
  refine forEach_reaches_of (fun t => t.net = { m.net with dests := t.net.dests } ∧ StationMostKept m t)
    (fun (k : Fin 8) t => m.on (R.RRT_D_CTRL_EN k) = true → m.on (R.RRT_D_CTRL_FB_EN k) = false → m.net.link.get (m.destPort k) = false → (t.net.dests.get k).down = true)
    (List.finRange 8) _ (fun k t ht => ?_) (fun k t ht he hf hn => ?_) (fun k j t _ h he hf hn => ?_) m ⟨rfl, fun _ _ _ _ _ => rfl⟩ d (List.mem_finRange d) hen hfb hlink
  · obtain ⟨hn, hr⟩ := ht
    obtain ⟨hn1, hr1⟩ := destTurn_spec false k t
    exact ⟨by rw [hn1, hn], fun off h1 h2 h3 h4 => (hr1 off h1 h2 h3 h4).trans (hr off h1 h2 h3 h4)⟩
  · obtain ⟨hnet, hr⟩ := ht
    have hg : ∀ f : Fld, 0x64200 ≤ f.a ∧ f.a < 0x64400 → t.g f = m.g f := fun f hf => hr.g f (by omega)
    refine judgeDest_down ?_ ?_ ?_
    · unfold on at he ⊢
      rw [if_neg (by decide), hg _ (by simp only [R.RRT_D_CTRL_EN]; omega)]
      exact he
    · unfold on at hf ⊢
      rw [if_neg (by decide), hg _ (by simp only [R.RRT_D_CTRL_FB_EN]; omega)]
      exact hf
    · rw [if_neg (by decide), hnet, show t.destPort k = m.destPort k by unfold destPort; rw [hg _ (by simp only [R.RRT_D_CTRL_PORT]; omega)]]
      exact hn
  · have hdown := h he hf hn
    rw [if_neg (by decide)]
    by_cases hkj : j = k
    · subst hkj
      exact (judgeDest_judged j t).down hdown
    · rw [(judgeDest_judged k t).others j hkj]
      exact hdown

end

/-- A reply's hop at the destination that takes it. -/
def hopTaken (p : Fin 2) (d : Fin 8) (mac : List Byte) (m : Mach) : Mach :=
  if m.on (R.RRT_D_CTRL_EN d) && !m.on (R.RRT_D_CTRL_STATIC d) then (m.onDest d fun x => { x with hops := vput x.hops p (some (sliceB mac 0 6)) }).judgeDest d
  else m

/-- The addresses of a station read as before a frame that arrived. -/
theorem ethArrived_station {c : Fld} (hc : 0x60100 ≤ c.a ∧ c.a < 0x64000 ∨ 0x68100 ≤ c.a) :
    (m.ethArrived p c).g (R.ETH_IP4 p) = m.g (R.ETH_IP4 p) ∧ (m.ethArrived p c).ethMac p = m.ethMac p ∧
      (m.ethArrived p c).linkLocal p = m.linkLocal p ∧ (m.ethArrived p c).globalIp6 p = m.globalIp6 p := by
  have hrd : ∀ off, off < 0x60100 ∨ (0x68000 ≤ off ∧ off < 0x68100) → (m.ethArrived p c).rd off = m.rd off := fun off ho =>
    ethArrived_regsBut p c m off (by simp only [R.ETH_RX_FRAMES, List.mem_cons, List.not_mem_nil, or_false]; omega)
  have hg : ∀ f : Fld, f.a < 0x60100 ∨ (0x68000 ≤ f.a ∧ f.a < 0x68100) → (m.ethArrived p c).g f = m.g f := fun f hf => by
    unfold g
    rw [hrd _ hf]
  have hmac : (m.ethArrived p c).ethMac p = m.ethMac p := by
    unfold ethMac
    rw [hg _ (by simp only [R.ETH_MAC_LO]; omega), hg _ (by simp only [R.ETH_MAC_HI]; omega)]
  refine ⟨hg _ (by simp only [R.ETH_IP4]; omega), hmac, ?_, ?_⟩
  · unfold linkLocal
    rw [hmac]
  · unfold globalIp6 on
    rw [hg _ (by simp only [R.ETH_IP6_CFG]; omega)]
    refine if_congr Iff.rfl (congrArg some (List.flatMap_congr fun k hk => ?_)) rfl
    rw [hrd _ (by have := List.mem_range.mp hk; simp only [R.ETH_IP6_A]; omega)]

end

end Mach

section
variable (s : State) (p : Fin 2)

theorem requests_down (ip : BitVec 32) (mac : List Byte) (v6 : Bool) (n : Nat) (d : Fin 8) (fr : EthFrame) (h : s.ethUp p = false) :
    Idles (.ethFrameRx p fr) s ∧ Idles (.arpRequest p ip mac) s ∧ Idles (.arpReply p d mac) s ∧ Idles (.neighborSolicitation p mac) s ∧
      Idles (.icmpEchoRequest p v6 n) s := by
  have hr : s.rrtFrame p fr = false := by
    unfold Mach.rrtFrame
    rw [h]
    rfl
  have hd : (!s.ethUp p) = true := by simp [h]
  refine ⟨idles_of_act (f := fun m => (if m.rrtFrame p fr then m.stir 4 p.1 else m).ethFrameRx p fr) rfl ?_,
    idles_of_act (f := Mach.arpRequest p ip mac) rfl (if_pos hd), idles_of_act (f := Mach.hopReply p d mac) rfl (if_pos hd),
    idles_of_act (f := Mach.neighborSolicitation p mac) rfl (if_pos hd), idles_of_act (f := Mach.echoRequest p v6 n) rfl (if_pos hd)⟩
  rw [hr]
  exact Mach.ethFrameRx_down h

theorem arpRequest_answers (ip : BitVec 32) (mac : List Byte) (h : s.ethUp p = true) :
    (ip.toNat = s.g (R.ETH_IP4 p) → Does (.arpRequest p ip mac) s fun t =>
      (t.g (R.ETH_RX_FRAMES p) = (s.g (R.ETH_RX_FRAMES p) + 1) % 2 ^ 32 ∧ t.g (R.ETH_ARP p) = (s.g (R.ETH_ARP p) + 1) % 2 ^ 32) ∧
      (t.out = .eth p.1 (.arpReply (s.ethMac p) ip mac) :: s.out ∧ t.g (R.ETH_TX_FRAMES p) = (s.g (R.ETH_TX_FRAMES p) + 1) % 2 ^ 32) ∧
      OnlyIn [.regs, .out] s.toMach t) ∧
    (ip.toNat ≠ s.g (R.ETH_IP4 p) → Does (.arpRequest p ip mac) s fun t =>
      (t.g (R.ETH_RX_FRAMES p) = (s.g (R.ETH_RX_FRAMES p) + 1) % 2 ^ 32 ∧ t.g (R.ETH_ARP p) = (s.g (R.ETH_ARP p) + 1) % 2 ^ 32) ∧
      RegsBut [(R.ETH_RX_FRAMES p).a, (R.ETH_ARP p).a] s.toMach t ∧ OnlyIn [.regs] s.toMach t) := by
  have hk : Mach.RxKind p (R.ETH_ARP p) := Mach.rxKind_of_offset (k := 0x60118) (by decide)
  obtain ⟨hip, hmac, -, -⟩ := Mach.ethArrived_station (m := s.toMach) (p := p) (c := R.ETH_ARP p) (by simp only [R.ETH_ARP]; omega)
  have hdef : s.arpRequest p ip mac = if ip.toNat = s.g (R.ETH_IP4 p) then (s.ethArrived p (R.ETH_ARP p)).ethSend p (.arpReply (s.ethMac p) ip mac)
      else s.ethArrived p (R.ETH_ARP p) := by
    unfold Mach.arpRequest
    rw [if_neg (by simp [h])]
    dsimp only
    rw [hip, hmac]
  exact ⟨fun hq => answered_seen s p _ (f := Mach.arpRequest p ip mac) rfl hk (hdef.trans (if_pos hq)),
    fun hq => quiet_seen s p (f := Mach.arpRequest p ip mac) rfl hk (hdef.trans (if_neg hq))⟩

theorem neighborSolicitation_answers (mac : List Byte) (h : s.ethUp p = true) :
    (mac = s.linkLocal p ∨ s.globalIp6 p = some mac → Does (.neighborSolicitation p mac) s fun t =>
      (t.g (R.ETH_RX_FRAMES p) = (s.g (R.ETH_RX_FRAMES p) + 1) % 2 ^ 32 ∧ t.g (R.ETH_NDP p) = (s.g (R.ETH_NDP p) + 1) % 2 ^ 32) ∧
      (t.out = .eth p.1 (.neighborAdvertisement mac (s.ethMac p)) :: s.out ∧ t.g (R.ETH_TX_FRAMES p) = (s.g (R.ETH_TX_FRAMES p) + 1) % 2 ^ 32) ∧
      OnlyIn [.regs, .out] s.toMach t) ∧
    (mac ≠ s.linkLocal p → s.globalIp6 p ≠ some mac → Does (.neighborSolicitation p mac) s fun t =>
      (t.g (R.ETH_RX_FRAMES p) = (s.g (R.ETH_RX_FRAMES p) + 1) % 2 ^ 32 ∧ t.g (R.ETH_NDP p) = (s.g (R.ETH_NDP p) + 1) % 2 ^ 32) ∧
      RegsBut [(R.ETH_RX_FRAMES p).a, (R.ETH_NDP p).a] s.toMach t ∧ OnlyIn [.regs] s.toMach t) := by
  have hk : Mach.RxKind p (R.ETH_NDP p) := Mach.rxKind_of_offset (k := 0x6011C) (by decide)
  obtain ⟨-, hmac, hll, hgl⟩ := Mach.ethArrived_station (m := s.toMach) (p := p) (c := R.ETH_NDP p) (by simp only [R.ETH_NDP]; omega)
  have hdef : s.neighborSolicitation p mac = if mac = s.linkLocal p ∨ s.globalIp6 p = some mac then
      (s.ethArrived p (R.ETH_NDP p)).ethSend p (.neighborAdvertisement mac (s.ethMac p)) else s.ethArrived p (R.ETH_NDP p) := by
    unfold Mach.neighborSolicitation
    rw [if_neg (by simp [h])]
    dsimp only
    rw [hmac, hll, hgl]
  exact ⟨fun hq => answered_seen s p _ (f := Mach.neighborSolicitation p mac) rfl hk (hdef.trans (if_pos hq)),
    fun h1 h2 => quiet_seen s p (f := Mach.neighborSolicitation p mac) rfl hk (hdef.trans (if_neg (not_or.mpr ⟨h1, h2⟩)))⟩

theorem icmpEchoRequest_answers (v6 : Bool) (n : Nat) (h : s.ethUp p = true) :
    (n ≤ 1472 → Does (.icmpEchoRequest p v6 n) s fun t =>
      (t.g (R.ETH_RX_FRAMES p) = (s.g (R.ETH_RX_FRAMES p) + 1) % 2 ^ 32 ∧ t.g (R.ETH_ICMP p) = (s.g (R.ETH_ICMP p) + 1) % 2 ^ 32) ∧
      (t.out = .eth p.1 (.echoReply v6 n) :: s.out ∧ t.g (R.ETH_TX_FRAMES p) = (s.g (R.ETH_TX_FRAMES p) + 1) % 2 ^ 32) ∧
      OnlyIn [.regs, .out] s.toMach t) ∧
    (1472 < n → Does (.icmpEchoRequest p v6 n) s fun t =>
      (t.g (R.ETH_RX_FRAMES p) = (s.g (R.ETH_RX_FRAMES p) + 1) % 2 ^ 32 ∧ t.g (R.ETH_RX_DROP p) = (s.g (R.ETH_RX_DROP p) + 1) % 2 ^ 32) ∧
      RegsBut [(R.ETH_RX_FRAMES p).a, (R.ETH_RX_DROP p).a] s.toMach t ∧ OnlyIn [.regs] s.toMach t) := by
  have hdef : s.echoRequest p v6 n = if n ≤ 1472 then (s.ethArrived p (R.ETH_ICMP p)).ethSend p (.echoReply v6 n) else s.ethArrived p (R.ETH_RX_DROP p) :=
    if_neg (by simp [h])
  exact ⟨fun hq => answered_seen s p _ (f := Mach.echoRequest p v6 n) rfl (Mach.rxKind_of_offset (k := 0x60120) (by decide)) (hdef.trans (if_pos hq)),
    fun hq => quiet_seen s p (f := Mach.echoRequest p v6 n) rfl (Mach.rxKind_of_offset (k := 0x60110) (by decide)) (hdef.trans (if_neg (by omega)))⟩

/-- A reply stores the hop of its destination. -/
theorem arpReply_stores (d : Fin 8) (mac : List Byte) (h : s.ethUp p = true) :
    Does (.arpReply p d mac) s (fun t =>
      (t.g (R.ETH_RX_FRAMES p) = (s.g (R.ETH_RX_FRAMES p) + 1) % 2 ^ 32 ∧
        t.g (if s.on (R.RRT_D_CTRL_V6 d) then R.ETH_NDP p else R.ETH_ARP p) = (s.g (if s.on (R.RRT_D_CTRL_V6 d) then R.ETH_NDP p else R.ETH_ARP p) + 1) % 2 ^ 32) ∧
      (s.on (R.RRT_D_CTRL_EN d) = true → s.on (R.RRT_D_CTRL_STATIC d) = false →
        (t.net.dests.get d).hops = vput (s.net.dests.get d).hops p (some (sliceB mac 0 6))) ∧
      (s.on (R.RRT_D_CTRL_EN d) = false ∨ s.on (R.RRT_D_CTRL_STATIC d) = true → t.net = s.net ∧ t.jnl = s.jnl) ∧
      (∀ k, k ≠ d → t.net.dests.get k = s.net.dests.get k) ∧ OnlyIn [.regs, .tick, .jnl, .net, .cache] s.toMach t) := by
  have hdef : s.hopReply p d mac = (s.ethArrived p (if s.on (R.RRT_D_CTRL_V6 d) then R.ETH_NDP p else R.ETH_ARP p)).hopTaken p d mac := if_neg (by simp [h])
  have hk : Mach.RxKind p (if s.on (R.RRT_D_CTRL_V6 d) then R.ETH_NDP p else R.ETH_ARP p) := by
    split
    · exact Mach.rxKind_of_offset (k := 0x6011C) (by decide)
    · exact Mach.rxKind_of_offset (k := 0x60118) (by decide)
  have hlow : (if s.on (R.RRT_D_CTRL_V6 d) then R.ETH_NDP p else R.ETH_ARP p).a < 0x064118 ∨ 0x068100 ≤ (if s.on (R.RRT_D_CTRL_V6 d) then R.ETH_NDP p else R.ETH_ARP p).a := by
    split <;> simp only [R.ETH_NDP, R.ETH_ARP] <;> omega
  generalize (if s.on (R.RRT_D_CTRL_V6 d) then R.ETH_NDP p else R.ETH_ARP p) = c at *
  obtain ⟨h1, h2⟩ := Mach.ethArrived_seen (m := s.toMach) hk
  have hparts := Mach.ethArrived_onlyIn p c s.toMach
  have hctl : ∀ f : Fld, 0x64200 ≤ f.a ∧ f.a < 0x64400 → (s.ethArrived p c).on f = s.on f := fun f hf => by
    unfold Mach.on
    rw [Mach.ethArrived_g p c s.toMach f (by simp only [R.ETH_RX_FRAMES]; omega) (by omega)]
  have hen := hctl (R.RRT_D_CTRL_EN d) (by simp only [R.RRT_D_CTRL_EN]; omega)
  have hst := hctl (R.RRT_D_CTRL_STATIC d) (by simp only [R.RRT_D_CTRL_STATIC]; omega)
  have hnet : (s.ethArrived p c).net = s.net := hparts .net (by decide)
  have hjnl : (s.ethArrived p c).jnl = s.jnl := hparts .jnl (by decide)
  unfold Mach.hopTaken at hdef
  rw [hen, hst] at hdef
  generalize s.ethArrived p c = m1 at *
  split at hdef
  next hc =>
    simp only [Bool.and_eq_true, Bool.not_eq_true'] at hc
    have hj := Mach.judgeDest_judged d (m1.onDest d fun x => { x with hops := vput x.hops p (some (sliceB mac 0 6)) })
    have hself : ((m1.onDest d fun x => { x with hops := vput x.hops p (some (sliceB mac 0 6)) }).net.dests.get d).hops =
        vput (s.net.dests.get d).hops p (some (sliceB mac 0 6)) := by
      rw [← hnet]
      exact congrArg RrtDest.hops (vmod_get_self m1.net.dests d _)
    have hne : ∀ k, k ≠ d → (m1.onDest d fun x => { x with hops := vput x.hops p (some (sliceB mac 0 6)) }).net.dests.get k = s.net.dests.get k := fun k hk => by
      rw [← hnet]
      exact vmod_get_ne _ _ hk
    have hdest : OnlyIn [.net] m1 (m1.onDest d fun x => { x with hops := vput x.hops p (some (sliceB mac 0 6)) }) := (Mach.onDest_within _ _ _).parts
    have hregs : (m1.onDest d fun x => { x with hops := vput x.hops p (some (sliceB mac 0 6)) }).regs = m1.regs := rfl
    generalize (m1.onDest d fun x => { x with hops := vput x.hops p (some (sliceB mac 0 6)) }) = m2 at *
    refine does_of_act (f := Mach.hopReply p d mac) rfl hdef ⟨⟨?_, ?_⟩, fun _ _ => hj.hops.trans hself, fun ho => ?_, fun k hk => (hj.others k hk).trans (hne k hk),
      ((hparts.append hdest).append hj.parts).mono (by decide)⟩
    · rw [hj.g _ (by simp only [R.ETH_RX_FRAMES]; omega), Mach.g_of_regs hregs, h1]
    · rw [hj.g _ (by have := hk.2.2.2.2; omega), Mach.g_of_regs hregs, h2]
    · rcases ho with ho | ho
      · exact absurd (hc.1.symm.trans ho) (by decide)
      · exact absurd (hc.2.symm.trans ho) (by decide)
  next hc =>
    refine does_of_act (f := Mach.hopReply p d mac) rfl hdef ⟨⟨h1, h2⟩, fun he ho => ?_, fun _ => ⟨hnet, hjnl⟩, fun k _ => by rw [hnet], hparts.mono (by decide)⟩
    exact absurd (by rw [he, ho]; rfl) hc

/-- Every 60 s the hops are asked for again. -/
theorem nextHopRefresh_asks (d : Fin 8) :
    Does .nextHopRefresh s (fun t =>
      t.net = { s.net with refreshAt := t.elapsed } ∧ s.net.refreshAt + 60000000000 ≤ t.elapsed ∧
      (s.on (R.RRT_D_CTRL_EN d) = true → s.on (R.RRT_D_CTRL_STATIC d) = false → s.ethUp (s.destPort d) = true →
        .eth (s.destPort d).1 (s.hopQuery d (s.destPort d)) ∈ t.out) ∧
      OnlyIn [.regs, .time, .tick, .enc, .jnl, .net, .cache, .out] s.toMach t) := by
  have hwithin := (Mach.refreshHops_within s.toMach).parts
  have hreach := Mach.runToElapsed_reaches s.toMach (s.net.refreshAt + 60000000000)
  have hclock := Mach.runToElapsed_clockOnly (s.net.refreshAt + 60000000000) s.toMach
  have hdef : s.refreshHops = Mach.hopsAsked (s.runToElapsed (s.net.refreshAt + 60000000000)) := rfl
  rw [hdef] at hwithin
  generalize s.runToElapsed (s.net.refreshAt + 60000000000) = m1 at *
  have hasked := Mach.hopsAsked_asked m1
  have hnet1 : m1.net = s.net := hclock.parts .net (by decide)
  have hel : (Mach.hopsAsked m1).elapsed = m1.elapsed := by
    have htime : (Mach.hopsAsked m1).time = m1.time := hasked.parts .time (by decide)
    unfold Mach.elapsed
    rw [htime]
  refine does_of_act (f := Mach.refreshHops) rfl hdef ⟨?_, by rw [hel]; exact hreach, fun hen hst hup => ?_, hwithin⟩
  · rw [hasked.net, hel, ← hnet1]
    rfl
  · have hg : ∀ f : Fld, f.a < 0x1E0000 → m1.g f = s.g f := fun f hf => hclock.g f (by omega)
    have hport : m1.destPort d = s.destPort d := by
      unfold Mach.destPort
      rw [hg _ (by simp only [R.RRT_D_CTRL_PORT]; omega)]
    have hon : ∀ f : Fld, f.a < 0x1E0000 → m1.on f = s.on f := fun f hf => by
      unfold Mach.on
      rw [hg f hf]
    have hup1 : m1.ethUp (m1.destPort d) = true := by
      rw [hport]
      unfold Mach.ethUp at hup ⊢
      rw [hnet1, hon _ (by simp only [R.ETH_CTRL_EN]; omega)]
      exact hup
    have h := Mach.hopsAsked_asks (d := d) (m := m1) ((hon _ (by simp only [R.RRT_D_CTRL_EN]; omega)).trans hen)
      ((hon _ (by simp only [R.RRT_D_CTRL_STATIC]; omega)).trans hst) hup1
    rwa [hport, Mach.hopQuery_congr (a := s.toMach) fun off ho _ _ => hclock.regs off (by omega)] at h

/-- A link change is shown, and an enabled destination that loses its only port is down. -/
theorem ethLinkChange_judges (d : Fin 8) (up : Bool) (hl : s.net.link.get p ≠ up) (hen : up = false ∨ s.on (R.ETH_CTRL_EN p) = true) :
    Does (.ethLinkChange p up) s fun t =>
      t.net.link.get p = up ∧ (∀ k, k ≠ p → t.net.link.get k = s.net.link.get k) ∧ t.g (R.ETH_STAT_LINK_CHG p) = 1 ∧
      (up = false → s.on (R.RRT_D_CTRL_EN d) = true → s.destPort d = p → s.on (R.RRT_D_CTRL_FB_EN d) = false → (t.net.dests.get d).down = true) ∧
      t.net.rxq = s.net.rxq ∧ OnlyIn [.regs, .tick, .jnl, .net, .cache, .out] s.toMach t := by
  have hwithin := (Mach.ethLink_within p up s.toMach).parts
  have hdef : s.ethLink p up = Mach.destsJudged up (s.linkTo p up) := if_neg ?_
  · rw [hdef] at hwithin
    obtain ⟨hnet, hchg, hkept⟩ := Mach.linkTo_spec s.toMach p up
    have hj := Mach.destsJudged_spec up (s.linkTo p up)
    generalize s.linkTo p up = m1 at *
    obtain ⟨hn, hr⟩ := hj
    refine does_of_act (f := Mach.ethLink p up) rfl hdef ⟨?_, fun k hk => ?_, ?_, fun hu he hp hf => ?_, ?_, hwithin⟩
    · rw [hn, hnet]
      exact vput_get_self _ p up
    · rw [hn, hnet]
      exact Mach.vput_get_ne _ _ hk
    · rw [← hchg]
      exact Mach.StationMostKept.g hr _ (by simp only [R.ETH_STAT_LINK_CHG]; omega)
    · subst hu
      have hon : ∀ f : Fld, 0x64200 ≤ f.a ∧ f.a < 0x64400 → m1.on f = s.on f := fun f hf => by
        unfold Mach.on Mach.g
        rw [hkept _ (by omega)]
      have hport : m1.destPort d = p := by
        rw [← hp]
        unfold Mach.destPort Mach.g
        rw [hkept _ (by simp only [R.RRT_D_CTRL_PORT]; omega)]
      refine Mach.destsJudged_down (d := d) ((hon _ (by simp only [R.RRT_D_CTRL_EN]; omega)).trans he) ((hon _ (by simp only [R.RRT_D_CTRL_FB_EN]; omega)).trans hf) ?_
      rw [hport, hnet]
      exact vput_get_self _ p false
    · rw [hn, hnet]
  · rcases hen with rfl | he
    · simp at hl
      simp [hl]
    · simp [hl, he]

end

/-- Settles O41. -/
theorem stationsAnswerTheirSubset : Obligations.StationsAnswerTheirSubset := by
  intro s p fr ip mac v6 n d up
  refine ⟨fun h => requests_down s p ip mac v6 n d fr h, fun h => ?_, nextHopRefresh_asks s d, fun h => ?_, fun h1 h2 => ethLinkChange_judges s p d up h1 h2⟩
  · obtain ⟨h1, h2⟩ := arpRequest_answers s p ip mac h
    obtain ⟨h3, h4⟩ := neighborSolicitation_answers s p mac h
    obtain ⟨h5, h6⟩ := icmpEchoRequest_answers s p v6 n h
    exact ⟨ethFrameRx_counts s p fr h, h1, h2, h3, h4, h5, h6, arpReply_stores s p d mac h⟩
  · refine idles_of_act (f := Mach.ethLink p up) rfl (if_pos ?_)
    rcases h with h | ⟨h1, h2⟩
    · simp [h]
    · simp [h1, h2]

end Sys2Proof.Machine

namespace Sys2Proof

/-- A table finds what is put at a key. -/
theorem Tab.find_put_self {α : Type} (t : Tab α) (k : Nat) (v : α) : Tab.find (t.put k v) k = some v := by
  induction t with
  | nil => simp [put, find]
  | cons e r ih =>
    obtain ⟨j, w⟩ := e
    unfold put
    split
    · simp [find]
    · split
      · simp [find]
      next hj =>
        unfold find at ih ⊢
        rw [List.find?_cons_of_neg (by simpa using hj)]
        exact ih

/-- A change of the values that keeps the keys changes what is found. -/
theorem Tab.find_map {α : Type} (t : Tab α) (g : Nat × α → Nat × α) (hg : ∀ e, (g e).1 = e.1) (k : Nat) :
    Tab.find (t.map g) k = (List.find? (fun e : Nat × α => e.1 == k) t).map fun e => (g e).2 := by
  unfold find
  rw [List.find?_map, Option.map_map]
  congr 1
  exact congrArg (fun p => List.find? p t) (funext fun e => by simp [hg])

end Sys2Proof

namespace Sys2Proof.Machine

set_option Elab.async false

/-! ## A completion that ends a command (R385) -/

/-- Completions of function f are written and its lists of open commands and fences change; outputs are only added. -/
structure EndOnly (f : Fin 8) (a b : Mach) : Prop where
  parts : OnlyIn [.jnl, .fn, .out] a b
  jnl : b.jnl = { a.jnl with delivery := b.jnl.delivery }
  others : ∀ g : Fin 8, g ≠ f → b.fn.get g = a.fn.get g
  own : b.fn.get f = { a.fn.get f with rings := (b.fn.get f).rings, mods := (b.fn.get f).mods, owed := (b.fn.get f).owed,
                                       openCmds := (b.fn.get f).openCmds, fences := (b.fn.get f).fences }
  rings : ∀ r : Fin 7, r ≠ 1 → (b.fn.get f).rings.get r = (a.fn.get f).rings.get r
  out : ∀ o ∈ a.out, o ∈ b.out

namespace EndOnly

variable {f : Fin 8} {a b c : Mach}

theorem refl (a : Mach) : EndOnly f a a := ⟨OnlyIn.refl _ _, rfl, fun _ _ => rfl, rfl, fun _ _ => rfl, fun _ h => h⟩

theorem trans (h1 : EndOnly f a b) (h2 : EndOnly f b c) : EndOnly f a c :=
  ⟨h1.parts.trans h2.parts, by rw [h2.jnl, h1.jnl], fun g hg => (h2.others g hg).trans (h1.others g hg), by rw [h2.own, h1.own],
    fun r hr => (h2.rings r hr).trans (h1.rings r hr), fun o h => h2.out o (h1.out o h)⟩

theorem of_cplOnly (h : CplOnly f a b) : EndOnly f a b := ⟨h.parts, h.jnl, h.others, by rw [h.own], h.rings, h.out⟩

theorem onFn (m : Mach) (u : Func → Func) (hu : ∀ x, u x = { x with openCmds := (u x).openCmds, fences := (u x).fences }) : EndOnly f m (m.onFn f u) := by
  refine ⟨(OnlyIn.onFn m f u).mono (by decide), rfl, fun g hg => vmod_get_ne _ _ hg, ?_, fun r _ => ?_, fun _ h => h⟩
  · rw [Mach.onFn_fn, vmod_get_self, hu]
  · rw [Mach.onFn_fn, vmod_get_self, hu]

theorem load (h : EndOnly f a b) : (b.fn.get f).load = (a.fn.get f).load := by rw [h.own]

end EndOnly

namespace Mach

theorem doneOne_endOnly (f : Fin 8) (e : Cpl) (m : Mach) : EndOnly f m (m.doneOne f e) :=
  (EndOnly.onFn m (fun x => { x with openCmds := x.openCmds.filter (· != e.cseq) }) fun _ => rfl).trans (.of_cplOnly (cplWrite_cplOnly f e _))

theorem fencesDone_endOnly (f : Fin 8) (m : Mach) : EndOnly f m (m.fencesDone f) := by
  refine forEach_keeps (EndOnly f m) _ _ (fun q t ht => ht.trans ?_) _ (.refl _)
  split
  · exact .refl t
  · exact (doneOne_endOnly f _ t).trans (.onFn _ (fun x => { x with fences := x.fences.filter (· != q) }) fun _ => rfl)

theorem done_endOnly (f : Fin 8) (op ctag cseq result d10 : Nat) (data : List Byte) (m : Mach) : EndOnly f m (m.done f op ctag cseq result d10 data) := by
  unfold done
  exact (doneOne_endOnly f _ m).trans (fencesDone_endOnly f _)

/-! ## An image's copy is done (R186, R187) -/

/-- The copy of function f has ended. -/
def copyEnded (f : Fin 8) (m : Mach) : Mach := m.onFn f fun x => { x with load := none }

/-- The rejection of a copied image. -/
def copyRejected (f : Fin 8) (j : LoadJob) (code : Nat) (m : Mach) : Mach :=
  ((copyEnded f m).inc R.HIF_CMD_REJECTED).cplWrite f { op := 0x10, ctag := j.ctag, status := code, result := 0, cseq := j.cseq }

/-- The population records of an image in a slot. -/
def popsOf (f : Fin 8) (slot : Nat) (im : Image) : List Pop :=
  im.pops.mapIdx fun i (r : PopRec) => ({ fn := f, slot := slot, recIdx := i, role := r.role, pop := r.pop } : Pop)

/-- An image in its slot, its populations behind the others, its bytes in DRAM. -/
def imagePlaced (f : Fin 8) (j : LoadJob) (im : Image) (slot : Nat) (m : Mach) : Mach :=
  { (copyEnded f m).dramPut j.dst j.bytes with images := Tab.put m.images slot im, pops := m.pops ++ popsOf f slot im }

/-- The image is placed and its first completion written. -/
def imageAccepted (f : Fin 8) (j : LoadJob) (im : Image) (slot : Nat) (m : Mach) : Mach :=
  ((imagePlaced f j im slot m).onFn f fun x => { x with reroute := 0, routeDrop := 0, openCmds := x.openCmds ++ [j.cseq] }).cplWrite f
    { op := 0x10, ctag := j.ctag, status := 0, result := 0, cseq := j.cseq, d10 := slot, d18 := j.tnEff }

section
variable {f : Fin 8} {j : LoadJob} {m : Mach}

theorem copyRejected_spec (code : Nat) :
    ((copyRejected f j code m).fn.get f).load = none ∧ (copyRejected f j code m).images = m.images ∧ (copyRejected f j code m).dram = m.dram ∧
      (copyRejected f j code m).g R.HIF_CMD_REJECTED = (m.g R.HIF_CMD_REJECTED + 1) % 2 ^ 32 ∧
      OnlyIn [.regs, .jnl, .fn, .out] m (copyRejected f j code m) := by
  have h := cplWrite_cplOnly f { op := 0x10, ctag := j.ctag, status := code, result := 0, cseq := j.cseq } ((copyEnded f m).inc R.HIF_CMD_REJECTED)
  have hparts := ((OnlyIn.onFn m f fun x => { x with load := none }).append (OnlyIn.inc (copyEnded f m) R.HIF_CMD_REJECTED)).append h.parts
  refine ⟨?_, hparts .images (by decide), hparts .dram (by decide), ?_, hparts.mono (by decide)⟩
  · have hload : ((copyEnded f m).fn.get f).load = none := congrArg Func.load (vmod_get_self m.fn f _)
    unfold copyRejected
    rw [h.own]
    exact hload
  · unfold copyRejected
    rw [h.g, g_inc_word _ _ rfl rfl]
    rfl

theorem copyEnded_ring : (copyEnded f m).ring f 1 = m.ring f 1 := by
  rw [ring, copyEnded, onFn_fn, vmod_get_self]
  rfl

/-- The completion goes out at the CPL ring's place (R371). -/
theorem cplWrite_emits_at {a b : Mach} (e : Cpl) (hregs : b.regs = a.regs) (hring : b.ring f 1 = a.ring f 1) (h : a.ringEn f 1 = true) :
    Out.cpl f ((a.ring f 1).count % a.ringSize f 1) (phaseOf (a.ringSize f 1) (a.ring f 1).count) e (e.bytes (phaseOf (a.ringSize f 1) (a.ring f 1).count)) ∈
      (b.cplWrite f e).out := by
  have hsize : b.ringSize f 1 = a.ringSize f 1 := by
    unfold ringSize
    rw [g_of_regs hregs]
  have hen : b.ringEn f 1 = true := by
    unfold ringEn on at h ⊢
    rw [g_of_regs hregs]
    exact h
  have hout := cplWrite_emits e hen
  rw [hring, hsize] at hout
  exact hout

theorem copyRejected_emits {code : Nat} (h : m.ringEn f 1 = true) :
    Out.cpl f ((m.ring f 1).count % m.ringSize f 1) (phaseOf (m.ringSize f 1) (m.ring f 1).count)
      { op := 0x10, ctag := j.ctag, status := code, result := 0, cseq := j.cseq, d10 := 0, d18 := 0 }
      (Cpl.bytes { op := 0x10, ctag := j.ctag, status := code, result := 0, cseq := j.cseq, d10 := 0, d18 := 0 }
        (phaseOf (m.ringSize f 1) (m.ring f 1).count)) ∈ (copyRejected f j code m).out := by
  have hset : ∀ a : Mach, ((copyEnded f a).inc R.HIF_CMD_REJECTED).ring f 1 = a.ring f 1 ∧
      ((copyEnded f a).inc R.HIF_CMD_REJECTED).g (R.HIF_F_RING_CFG_SZ f 1) = a.g (R.HIF_F_RING_CFG_SZ f 1) ∧
      ((copyEnded f a).inc R.HIF_CMD_REJECTED).g (R.HIF_F_RING_CFG_EN f 1) = a.g (R.HIF_F_RING_CFG_EN f 1) := fun a =>
    ⟨(congrArg (fun x : Vector Func 8 => (x.get f).rings.get 1) (inc_fn (copyEnded f a) _)).trans copyEnded_ring,
      g_inc_ne (copyEnded f a) _ (R.HIF_F_RING_CFG_SZ f 1) (by simp only [R.HIF_F_RING_CFG_SZ, R.HIF_CMD_REJECTED, fnPage]; split <;> omega),
      g_inc_ne (copyEnded f a) _ (R.HIF_F_RING_CFG_EN f 1) (by simp only [R.HIF_F_RING_CFG_EN, R.HIF_CMD_REJECTED, fnPage]; split <;> omega)⟩
  obtain ⟨hring, hsz, hen⟩ := hset m
  have hsize : ((copyEnded f m).inc R.HIF_CMD_REJECTED).ringSize f 1 = m.ringSize f 1 := by
    unfold ringSize
    exact congrArg (2 ^ ·) hsz
  have hon : ((copyEnded f m).inc R.HIF_CMD_REJECTED).ringEn f 1 = true := by
    unfold ringEn on at h ⊢
    rw [← h]
    exact congrArg (· != 0) hen
  have hout := cplWrite_emits (f := f) { op := 0x10, ctag := j.ctag, status := code, result := 0, cseq := j.cseq } hon
  rw [hring, hsize] at hout
  exact hout

variable {im : Image} {slot : Nat}

theorem imagePlaced_dram : (imagePlaced f j im slot m).dram = (m.dramPut j.dst j.bytes).dram := by
  rw [dramPut_dram]
  exact dramPut_dram j.dst j.bytes (copyEnded f m)

theorem imagePlaced_regs : (imagePlaced f j im slot m).regs = m.regs := by
  have h : ((copyEnded f m).dramPut j.dst j.bytes).regs = (copyEnded f m).regs := (dramPut_within j.dst j.bytes _).keeps .regs
  exact h

theorem imagePlaced_tick : (imagePlaced f j im slot m).tick = m.tick := by
  have h : ((copyEnded f m).dramPut j.dst j.bytes).tick = (copyEnded f m).tick := (dramPut_within j.dst j.bytes _).keeps .tick
  exact h

theorem imagePlaced_fn : (imagePlaced f j im slot m).fn = (copyEnded f m).fn := by
  have h : ((copyEnded f m).dramPut j.dst j.bytes).fn = (copyEnded f m).fn := (dramPut_within j.dst j.bytes _).keeps .fn
  exact h

theorem imageAccepted_spec :
    (imageAccepted f j im slot m).images = Tab.put m.images slot im ∧ ((imageAccepted f j im slot m).fn.get f).load = none ∧
      (imageAccepted f j im slot m).dram = (m.dramPut j.dst j.bytes).dram ∧ (imageAccepted f j im slot m).pops.length = m.pops.length + im.pops.length ∧
      (imageAccepted f j im slot m).tick = m.tick := by
  have h := cplWrite_cplOnly f { op := 0x10, ctag := j.ctag, status := 0, result := 0, cseq := j.cseq, d10 := slot, d18 := j.tnEff }
    ((imagePlaced f j im slot m).onFn f fun x => { x with reroute := 0, routeDrop := 0, openCmds := x.openCmds ++ [j.cseq] })
  refine ⟨h.parts .images (by decide), ?_, (h.parts .dram (by decide)).trans (imagePlaced_dram (im := im) (slot := slot)), ?_,
    h.tick.trans (imagePlaced_tick (f := f) (j := j) (im := im) (slot := slot))⟩
  · unfold imageAccepted
    rw [h.own, onFn_fn, vmod_get_self]
    rw [imagePlaced_fn, copyEnded, onFn_fn, vmod_get_self]
  · refine (congrArg List.length (h.parts .pops (by decide))).trans ?_
    change (m.pops ++ popsOf f slot im).length = _
    rw [List.length_append, popsOf, List.length_mapIdx]

/-- The first completion reports the slot and the tick. -/
theorem imageAccepted_emits (h : m.ringEn f 1 = true) :
    Out.cpl f ((m.ring f 1).count % m.ringSize f 1) (phaseOf (m.ringSize f 1) (m.ring f 1).count)
      { op := 0x10, ctag := j.ctag, status := 0, result := 0, cseq := j.cseq, d10 := slot, d18 := j.tnEff }
      (Cpl.bytes { op := 0x10, ctag := j.ctag, status := 0, result := 0, cseq := j.cseq, d10 := slot, d18 := j.tnEff }
        (phaseOf (m.ringSize f 1) (m.ring f 1).count)) ∈ (imageAccepted f j im slot m).out := by
  refine cplWrite_emits_at _ (imagePlaced_regs (f := f) (j := j) (im := im) (slot := slot)) ?_ h
  rw [← copyEnded_ring (f := f) (m := m), ring, ring, onFn_fn, vmod_get_self, imagePlaced_fn]

/-- What an activation makes of a slot. -/
def activated (slot : Nat) (replaces : Option Nat) (k : Nat) (e : Nat × Image) : Nat × Image :=
  if e.1 = slot then (e.1, { e.2 with activeFrom := some k }) else if replaces = some e.1 then (e.1, { e.2 with activeTo := some k }) else e

theorem activate_images {k : Nat} {replaces : Option Nat} (h : m.images.find slot = some im) :
    (m.activate slot replaces k).images = m.images.map (activated slot replaces k) := by
  unfold activate
  rw [h]
  exact (applyFeSets_within im { m with images := m.images.map (activated slot replaces k) }).keeps .images

theorem activated_key (slot : Nat) (replaces : Option Nat) (k : Nat) (e : Nat × Image) : (activated slot replaces k e).1 = e.1 := by
  unfold activated
  split_ifs <;> rfl

/-- An image that becomes active at once. -/
theorem activate_find {k : Nat} {replaces : Option Nat} (h : m.images.find slot = some im) :
    (m.activate slot replaces k).images.find slot = some { im with activeFrom := some k } := by
  rw [activate_images h, Tab.find_map _ _ (activated_key slot replaces k)]
  obtain ⟨e, he, rfl⟩ := Option.map_eq_some_iff.mp h
  have hkey : e.1 = slot := by simpa using List.find?_some he
  rw [he, Option.map_some, activated, if_pos hkey]

end

end Mach

/-! ## The clauses of O47 -/

section
variable (s : State) (f : Fin 8) (j : LoadJob) (hj : (s.fn.get f).load = some j)
include hj

theorem loadCopyDone_bad (hok : imageOk s.gradeId s.gradePl j.bytes = false) : s.loadCopyDone f = s.copyRejected f j 0x10 := by
  unfold Mach.loadCopyDone
  rw [hj]
  exact if_pos (by simp [hok])

variable (hok : imageOk s.gradeId s.gradePl j.bytes = true)
include hok

theorem loadCopyDone_clash
    (hc : ((s.imagesAt f j.tnEff).any fun x => some x.1 != j.replaces && Mach.claims (parseImage f j.dst j.bytes) x.2) = true) :
    s.loadCopyDone f = s.copyRejected f j 0x13 := by
  unfold Mach.loadCopyDone
  rw [hj]
  exact (if_neg (by simp [hok])).trans (if_pos hc)

variable (hc : ((s.imagesAt f j.tnEff).any fun x => some x.1 != j.replaces && Mach.claims (parseImage f j.dst j.bytes) x.2) = false)
include hc

/-- An image without clash finds a slot or none. -/
theorem loadCopyDone_fits : s.loadCopyDone f = match s.freeSlotNo with
    | none => s.copyRejected f j 0x15
    | some slot =>
      if (s.imageAccepted f j (parseImage f j.dst j.bytes) slot).tick.tn < j.tnEff then
        (s.imageAccepted f j (parseImage f j.dst j.bytes) slot).pend
          { fn := f, op := 0x10, ctag := j.ctag, cseq := j.cseq, tnEff := j.tnEff, change := .loadGraph slot j.replaces }
      else ((s.imageAccepted f j (parseImage f j.dst j.bytes) slot).activate slot j.replaces
        (s.imageAccepted f j (parseImage f j.dst j.bytes) slot).tick.tn).done f 0x10 j.ctag j.cseq 0 0 [] := by
  unfold Mach.loadCopyDone
  rw [hj]
  exact (if_neg (by simp [hok])).trans (if_neg (by rw [Bool.not_eq_true]; exact hc))

/-- An image that fits stands in the lowest free slot. -/
theorem loadCopyDone_places {slot : Nat} (hs : s.freeSlotNo = some slot) :
    Does (.loadGraphCopyDone f) s fun t =>
      s.images.find slot = none ∧ (t.fn.get f).load = none ∧
      (∃ x ∈ t.images.find slot, x.fn = f ∧ x.imageId = (parseImage f j.dst j.bytes).imageId ∧ x.dst = j.dst ∧ x.layers = (parseImage f j.dst j.bytes).layers ∧
        (s.tick.tn < j.tnEff → x.activeFrom = none) ∧ (j.tnEff ≤ s.tick.tn → x.activeFrom = some s.tick.tn)) ∧
      t.dram = (s.dramPut j.dst j.bytes).dram ∧ t.pops.length = s.pops.length + (parseImage f j.dst j.bytes).pops.length ∧
      (s.ringEn f 1 = true → Out.cpl f ((s.ring f 1).count % s.ringSize f 1) (Mach.phaseOf (s.ringSize f 1) (s.ring f 1).count)
        { op := 0x10, ctag := j.ctag, status := 0, result := 0, cseq := j.cseq, d10 := slot, d18 := j.tnEff }
        (Cpl.bytes { op := 0x10, ctag := j.ctag, status := 0, result := 0, cseq := j.cseq, d10 := slot, d18 := j.tnEff }
          (Mach.phaseOf (s.ringSize f 1) (s.ring f 1).count)) ∈ t.out) ∧
      (s.tick.tn < j.tnEff → t.tick.pending.length = s.tick.pending.length + 1) ∧
      t.tick.tn = s.tick.tn ∧ t.eng = s.eng ∧ OnlyIn [.regs, .tick, .images, .pops, .jnl, .fn, .dram, .cache, .ueLines, .out] s.toMach t := by
  have hfree : s.images.find slot = none := by
    have h := List.find?_some hs
    simpa using h
  have hdef := loadCopyDone_fits s f j hj hok hc
  have hwithin := (Mach.loadCopyDone_within f s.toMach).parts
  rw [hs] at hdef
  obtain ⟨himages, hload, hdram, hpops, htick⟩ := Mach.imageAccepted_spec (f := f) (j := j) (m := s.toMach) (im := parseImage f j.dst j.bytes) (slot := slot)
  have hout := Mach.imageAccepted_emits (f := f) (j := j) (m := s.toMach) (im := parseImage f j.dst j.bytes) (slot := slot)
  have hfind : (s.imageAccepted f j (parseImage f j.dst j.bytes) slot).images.find slot = some (parseImage f j.dst j.bytes) := by
    rw [himages]
    exact Tab.find_put_self _ _ _
  dsimp only at hdef
  generalize s.imageAccepted f j (parseImage f j.dst j.bytes) slot = m1 at *
  rw [htick] at hdef
  have heng : (s.loadCopyDone f).eng = s.eng := hwithin .eng (by decide)
  have hparts : OnlyIn [.regs, .tick, .images, .pops, .jnl, .fn, .dram, .cache, .ueLines, .out] s.toMach (s.loadCopyDone f) := hwithin.mono (by decide)
  by_cases hlt : s.tick.tn < j.tnEff
  · rw [if_pos hlt] at hdef
    rw [hdef] at heng hparts
    refine does_of_act (f := Mach.loadCopyDone f) rfl hdef ⟨hfree, hload, ⟨parseImage f j.dst j.bytes, hfind, rfl, rfl, rfl, rfl, fun _ => rfl, fun h => by omega⟩,
      hdram, hpops, hout, fun _ => ?_, ?_, heng, hparts⟩
    · rw [Mach.pend, Mach.onTick_tick, List.length_append, htick]
      rfl
    · rw [Mach.pend, Mach.onTick_tick, htick]
  · rw [if_neg hlt] at hdef
    rw [hdef] at heng hparts
    have hact := Mach.activate_find (k := s.tick.tn) (replaces := j.replaces) hfind
    have hkeep := Mach.activate_within slot j.replaces s.tick.tn m1
    generalize m1.activate slot j.replaces s.tick.tn = m2 at *
    have hend := Mach.done_endOnly f 0x10 j.ctag j.cseq 0 0 [] m2
    have hfn : m2.fn = m1.fn := hkeep.keeps .fn
    have htick2 : (m2.done f 0x10 j.ctag j.cseq 0 0 []).tick = s.tick := (hend.parts .tick (by decide)).trans ((hkeep.keeps .tick).trans htick)
    have him2 : (m2.done f 0x10 j.ctag j.cseq 0 0 []).images = m2.images := hend.parts .images (by decide)
    refine does_of_act (f := Mach.loadCopyDone f) rfl hdef ⟨hfree, by rw [hend.load, hfn, hload], ⟨{ parseImage f j.dst j.bytes with activeFrom := some s.tick.tn }, by rw [him2]; exact hact, rfl, rfl, rfl, rfl,
        fun h => absurd h hlt, fun _ => rfl⟩,
      ?_, ?_, fun h => hend.out _ ?_, fun h => absurd h hlt, by rw [htick2], heng, hparts⟩
    · exact (hend.parts .dram (by decide)).trans ((hkeep.keeps .dram).trans hdram)
    · exact (congrArg List.length ((hend.parts .pops (by decide)).trans (hkeep.keeps .pops))).trans hpops
    · rw [show m2.out = m1.out from hkeep.keeps .out]
      exact hout h

end

section
variable (s : State) (f : Fin 8) (j : LoadJob)

/-- A rejected image is completed with its code and leaves nothing. -/
theorem loadCopyDone_rejects (code : Nat) (h : s.loadCopyDone f = s.copyRejected f j code) :
    Does (.loadGraphCopyDone f) s fun t =>
      (t.fn.get f).load = none ∧ t.images = s.images ∧ t.dram = s.dram ∧ t.g R.HIF_CMD_REJECTED = (s.g R.HIF_CMD_REJECTED + 1) % 2 ^ 32 ∧
      (s.ringEn f 1 = true → Out.cpl f ((s.ring f 1).count % s.ringSize f 1) (Mach.phaseOf (s.ringSize f 1) (s.ring f 1).count)
        { op := 0x10, ctag := j.ctag, status := code, result := 0, cseq := j.cseq, d10 := 0, d18 := 0 }
        (Cpl.bytes { op := 0x10, ctag := j.ctag, status := code, result := 0, cseq := j.cseq, d10 := 0, d18 := 0 }
          (Mach.phaseOf (s.ringSize f 1) (s.ring f 1).count)) ∈ t.out) ∧ OnlyIn [.regs, .jnl, .fn, .out] s.toMach t := by
  obtain ⟨h1, h2, h3, h4, h5⟩ := Mach.copyRejected_spec (f := f) (j := j) (m := s.toMach) code
  exact does_of_act (f := Mach.loadCopyDone f) rfl h ⟨h1, h2, h3, h4, fun hen => Mach.copyRejected_emits hen, h5⟩

end

/-- Settles O47. -/
theorem loadedImageTakesItsSlot : Obligations.LoadedImageTakesItsSlot := by
  intro s f
  refine ⟨fun h => idles_of_act (f := Mach.loadCopyDone f) rfl ?_, fun j hj => ⟨fun hok => ?_, fun hok hc => ?_, fun hok hc hs => ?_, fun hok hc slot hs => ?_⟩⟩
  · unfold Mach.loadCopyDone
    rw [h]
  · exact loadCopyDone_rejects s f j 0x10 (loadCopyDone_bad s f j hj hok)
  · exact loadCopyDone_rejects s f j 0x13 (loadCopyDone_clash s f j hj hok hc)
  · have h := loadCopyDone_fits s f j hj hok hc
    rw [hs] at h
    exact loadCopyDone_rejects s f j 0x15 h
  · exact loadCopyDone_places s f j hj hok hc hs

end Sys2Proof.Machine

namespace Sys2Proof.Machine

set_option Elab.async false

namespace Mach

/-! ## The mailbox's queue (R390) -/

/-- A request's code is one of the services. -/
def KnownCode (k : Nat) : Prop := 1 ≤ k ∧ k ≤ 8

/-- Request x has been answered, at the head of a queue with rest behind it, and vector 7 sent. -/
def Answered (x : MgtReq) (rest : List MgtReq) (status : Nat) (values : List Int) (a b : Mach) : Prop :=
  (∃ n, n ≤ x.rlen ∧ (values = [] → n = 0) ∧ .mgtResp x.resp x.code x.tag status values (respHeader x.code x.tag status n) ∈ b.out) ∧ .msix 0 7 ∈ b.out ∧
    b.mgt <:+ rest ∧ ((∀ y ∈ rest.head?, KnownCode y.code) → b.mgt = rest ∧ b.g R.MGT_MB_DONE = (a.g R.MGT_MB_DONE + 1) % 2 ^ 32) ∧ b.mgtSci = none

section
variable {x : MgtReq} {rest : List MgtReq} {m : Mach} (status len : Nat) (values : List Int)

theorem mbAnswer_out (h : m.mgt = x :: rest) :
    (m.mbAnswer status values len).out = .msix 0 7 :: .mgtResp x.resp x.code x.tag status values (respHeader x.code x.tag status len) :: m.out := by
  unfold mbAnswer
  rw [h]
  rfl

theorem mbAnswer_mgt (h : m.mgt = x :: rest) : (m.mbAnswer status values len).mgt = rest := by
  unfold mbAnswer
  rw [h]
  rfl

theorem mbAnswer_mgtSci (h : m.mgt = x :: rest) : (m.mbAnswer status values len).mgtSci = none := by
  unfold mbAnswer
  rw [h]
  rfl

theorem mbAnswer_count (h : m.mgt = x :: rest) : (m.mbAnswer status values len).g R.MGT_MB_DONE = (m.g R.MGT_MB_DONE + 1) % 2 ^ 32 := by
  unfold mbAnswer
  rw [h]
  dsimp only
  rw [msix, emit_g, g_inc_word _ _ rfl rfl, emit_g]
  rfl

end

/-- A queue whose head is a service's waits. -/
theorem mbDrain_known {m : Mach} (n : Nat) (h : ∀ y ∈ m.mgt.head?, KnownCode y.code) : mbDrain n m = m := by
  cases n with
  | zero => rfl
  | succ n =>
    unfold mbDrain
    split
    next q r hq =>
      have hk := h q (by rw [hq]; rfl)
      exact if_neg (by unfold KnownCode at hk; omega)
    next => rfl

/-- Draining answers requests at the queue's head and adds outputs. -/
theorem mbDrain_spec (n : Nat) (m : Mach) : (mbDrain n m).mgt <:+ m.mgt ∧ (∀ o ∈ m.out, o ∈ (mbDrain n m).out) ∧ (m.mgtSci = none → (mbDrain n m).mgtSci = none) := by
  induction n generalizing m with
  | zero => exact ⟨List.suffix_refl _, fun _ h => h, id⟩
  | succ n ih =>
    unfold mbDrain
    split
    next q r hq =>
      split
      · obtain ⟨h1, h2, h3⟩ := ih (m.mbAnswer St.format [] 0)
        rw [mbAnswer_mgt _ _ _ hq] at h1
        refine ⟨h1.trans (hq ▸ List.suffix_cons q r), fun o ho => h2 o ?_, fun _ => h3 (mbAnswer_mgtSci _ _ _ hq)⟩
        rw [mbAnswer_out _ _ _ hq]
        exact List.mem_cons_of_mem _ (List.mem_cons_of_mem _ ho)
      · exact ⟨List.suffix_refl _, fun _ h => h, id⟩
    next => exact ⟨List.suffix_refl _, fun _ h => h, id⟩

section
variable {x : MgtReq} {rest : List MgtReq} {a m : Mach} {status : Nat} {values : List Int}

theorem mbReply_answered {len : Nat} (h : m.mgt = x :: rest) (ha : m.g R.MGT_MB_DONE = a.g R.MGT_MB_DONE) (hlen : len ≤ x.rlen)
    (h0 : values = [] → len = 0) : Answered x rest status values a (m.mbReply status values len) := by
  obtain ⟨h1, h2, h3⟩ := mbDrain_spec 64 (m.mbAnswer status values len)
  rw [mbAnswer_out _ _ _ h] at h2
  rw [mbAnswer_mgt _ _ _ h] at h1
  refine ⟨⟨len, hlen, h0, h2 _ (List.mem_cons_of_mem _ List.mem_cons_self)⟩, h2 _ List.mem_cons_self, h1, fun hk => ?_, h3 (mbAnswer_mgtSci _ _ _ h)⟩
  have heq : m.mbReply status values len = m.mbAnswer status values len := mbDrain_known 64 (by rw [mbAnswer_mgt _ _ _ h]; exact hk)
  rw [heq]
  exact ⟨mbAnswer_mgt _ _ _ h, by rw [mbAnswer_count _ _ _ h, ha]⟩

theorem mbServe_answered (h : m.mgt = x :: rest) (ha : m.g R.MGT_MB_DONE = a.g R.MGT_MB_DONE) : Answered x rest status values a (m.mbServe status values) := by
  unfold mbServe
  split
  next he =>
    obtain rfl := List.isEmpty_iff.mp he
    exact mbReply_answered h ha (Nat.zero_le _) fun _ => rfl
  next he =>
    have hroom : m.mbRoom = x.rlen := by
      unfold mbRoom
      rw [h]
    refine mbReply_answered (m := { m with draws := m.draws + 1 }) h ha ?_ fun hv => absurd (hv ▸ rfl) he
    rw [hroom]
    exact Nat.lt_succ_iff.mp (Nat.mod_lt _ (Nat.succ_pos _))

end

/-- The head of the queue that a service answers. -/
theorem mbHead_some {m : Mach} {code : Nat} {x : MgtReq} (h : m.mbHead code = some x) : m.mgt = x :: m.mgt.tail ∧ x.code = code ∧ m.mgtSci = none := by
  unfold mbHead at h
  split at h
  next q r hq =>
    split at h
    next hc =>
      obtain rfl := Option.some.inj h
      rw [hq]
      exact ⟨rfl, hc.1, Option.isNone_iff_eq_none.mp hc.2⟩
    next => cases h
  next => cases h

end Mach

end Sys2Proof.Machine

namespace Sys2Proof.Machine

set_option Elab.async false

namespace Mach

/-! ## The mailbox's own transfers (R62, R390) -/

/-- The bytes to write stand in the port's buffer, and the mailbox owes the transfer's answer. -/
def sciAsked (p : Fin 16) (b : List Byte) (m : Mach) : Mach := { m with mgtSci := some p }.sciPut p b

section
variable (p : Fin 16) (b : List Byte) (m : Mach)

theorem sciAsked_within : Within [.regs, .mgtSci] m (sciAsked p b m) :=
  
  (sciPut_within _ _ _).after (Within.of_onlyIn (l := [.mgtSci]) fun q hq => by cases q <;> simp_all [Part.same]).mono

theorem sciAsked_mgtSci : (sciAsked p b m).mgtSci = some p := (sciPut_within p b { m with mgtSci := some p }).keeps .mgtSci

theorem sciPut_rd_ne {off : Nat} (h : ∀ k < 8, off ≠ R.ING_SCI_BUF_A p k) : (m.sciPut p b).rd off = m.rd off := by
  unfold sciPut
  exact wrEach_rd_ne _ _ _ (fun k hk => h k (List.mem_range.mp hk)) _

theorem sciAsked_rd {off : Nat} (h : ∀ k < 8, off ≠ R.ING_SCI_BUF_A p k) : (sciAsked p b m).rd off = m.rd off := sciPut_rd_ne p b { m with mgtSci := some p } h

theorem sciAsked_mode : (sciAsked p b m).sciMode p = m.sciMode p := by
  unfold sciMode g
  rw [sciAsked_rd _ _ _ fun k hk => by simp only [R.ING_SCI_CFG_MODE, R.ING_SCI_BUF_A]; omega]

/-- The count of answers reads as before a transfer's begin and end. -/
theorem sciBegun_count (addr wlen rlen : Nat) : ((sciAsked p b m).sciBegun p .mgt addr wlen rlen).g R.MGT_MB_DONE = m.g R.MGT_MB_DONE := by
  unfold g
  rw [sciBegun_rd (by simp only [R.MGT_MB_DONE, R.ING_SCI_CMD_GO]; omega), sciAsked_rd _ _ _ fun k hk => by simp only [R.MGT_MB_DONE, R.ING_SCI_BUF_A]; omega]

theorem sciEnded_rd {result : Nat} {got : List Byte} {off : Nat} (h : ∀ k < 8, off ≠ R.ING_SCI_BUF_A p k) (h1 : off ≠ (R.ING_SCI_STAT_RESULT p).a)
    (h2 : off ≠ (R.ING_SCI_CMD_GO p).a) : (m.sciEnded p result got).rd off = m.rd off := by
  have hclr : (((m.onPort p fun x => { x with sci := none }).put (R.ING_SCI_STAT_RESULT p) result).clr (R.ING_SCI_CMD_GO p)).rd off = m.rd off :=
    (rd_put_ne _ _ _ h2).trans (rd_put_ne (m.onPort p _) _ _ h1)
  unfold sciEnded
  dsimp only
  split
  · rw [sciPut_rd_ne _ _ _ h, hclr]
  · exact hclr

/-- A transfer of the mailbox that ends at once answers its request with the result. -/
theorem sciEnd_answers {x : MgtReq} {rest : List MgtReq} {a m : Mach} {run : SciRun} {result : Nat} (hr : result ≠ 0) (hrun : (m.port.get p).sci = some run)
    (hw : run.who = .mgt) (hs : m.mgtSci = some p) (hq : m.mgt = x :: rest) (hc : m.g R.MGT_MB_DONE = a.g R.MGT_MB_DONE) :
    Answered x rest 0 [(result : Int)] a (m.sciEnd p result []) ∧ ((m.sciEnd p result []).port.get p).sci = none ∧
      (∀ k : Fin 16, k ≠ p → (m.sciEnd p result []).port.get k = m.port.get k) ∧ OnlyIn [.regs, .port, .mgt, .mgtSci, .draws, .out] m (m.sciEnd p result []) := by
  obtain ⟨m2, hm2, he⟩ := sciEnd_eq (p := p) (result := result) (data := []) hrun
  rw [if_neg hr] at hm2
  rw [if_neg hr, hw] at he
  have hk : Within [.regs, .port] m m2 := hm2 ▸ sciEnded_within p result [] m
  have hport : m2.port = (m.onPort p fun x => { x with sci := none }).port := hm2 ▸ sciEnded_port p result [] m
  have hs2 : m2.mgtSci = some p := (hk.keeps .mgtSci).trans hs
  have hc2 : m2.g R.MGT_MB_DONE = a.g R.MGT_MB_DONE := by
    rw [← hc, hm2]
    unfold g
    rw [sciEnded_rd _ _ (fun k hk => by simp only [R.MGT_MB_DONE, R.ING_SCI_BUF_A]; omega) (by simp only [R.MGT_MB_DONE, R.ING_SCI_STAT_RESULT]; omega)
      (by simp only [R.MGT_MB_DONE, R.ING_SCI_CMD_GO]; omega)]
  have hsv := mbServe_within 0 [(result : Int)] m2
  have he2 : m.sciEnd p result [] = m2.mbServe 0 [(result : Int)] := he.trans (if_pos hs2)
  have hp : (m2.mbServe 0 [(result : Int)]).port = (m.onPort p fun x => { x with sci := none }).port := (hsv.keeps .port).trans hport
  rw [he2]
  refine ⟨mbServe_answered ((hk.keeps .mgt).trans hq) hc2, ?_, fun k hne => ?_, (hk.parts.append hsv.parts).mono (by decide)⟩
  · rw [hp, onPort_get_self]
  · rw [hp, onPort_get_ne _ _ hne]

end

end Mach

/-! ## The clauses of O52 -/

section
variable (s : State)

theorem mailboxGo_full (h : 64 ≤ s.mgt.length) :
    Does .mailboxGo s fun t => t.g R.MGT_MB_RES_RESULT = 0x12 ∧ t.g R.MGT_MB_BUSY = (s.g R.MGT_MB_BUSY + 1) % 2 ^ 32 ∧
      RegsBut [R.MGT_MB_RES_RESULT.a, R.MGT_MB_BUSY.a] s.toMach t ∧ OnlyIn [.regs] s.toMach t := by
  have hput : (s.put R.MGT_MB_RES_RESULT St.busy).g R.MGT_MB_RES_RESULT = 0x12 := Mach.g_put_fits _ (by decide) (by decide)
  have hbusy : (s.put R.MGT_MB_RES_RESULT St.busy).g R.MGT_MB_BUSY = s.g R.MGT_MB_BUSY := Mach.g_put_ne _ _ _ _ (by decide)
  have hbut : RegsBut [R.MGT_MB_RES_RESULT.a, R.MGT_MB_BUSY.a] s.toMach (s.put R.MGT_MB_RES_RESULT St.busy) := (Mach.RegsBut.put _ _ _).mono (by decide)
  have hparts : OnlyIn [.regs] s.toMach (s.put R.MGT_MB_RES_RESULT St.busy) := OnlyIn.put _ _ _
  have hdef : s.mailboxGo = (s.put R.MGT_MB_RES_RESULT St.busy).inc R.MGT_MB_BUSY := if_pos h
  generalize s.put R.MGT_MB_RES_RESULT St.busy = m1 at *
  refine does_of_act (f := Mach.mailboxGo) rfl hdef ⟨?_, ?_, hbut.trans ((Mach.RegsBut.inc m1 _).mono (by decide)), (hparts.append (OnlyIn.inc m1 _)).mono (by decide)⟩
  · rw [Mach.g_inc_ne _ _ _ (by decide), hput]
  · rw [Mach.g_inc_word _ _ rfl rfl, hbusy]

/-- A request joins the queue. -/
def queued (m : Mach) : Mach := { m with mgt := m.mgt ++ [m.mbRequest] }.put R.MGT_MB_RES_RESULT 0

theorem queued_spec (m : Mach) : (queued m).mgt = m.mgt ++ [m.mbRequest] ∧ (queued m).g R.MGT_MB_RES_RESULT = 0 ∧
    RegsBut [R.MGT_MB_RES_RESULT.a] m (queued m) ∧ OnlyIn [.regs, .mgt] m (queued m) := by
  refine ⟨?_, Mach.g_put_fits _ (by decide) (by decide), fun off ho => ?_, ?_⟩
  · exact (Mach.put_within _ _ _).keeps .mgt
  · exact Mach.rd_put_ne { m with mgt := m.mgt ++ [m.mbRequest] } _ _ (by simpa using ho)
  · have h0 : OnlyIn [.mgt] m { m with mgt := m.mgt ++ [m.mbRequest] } := fun q hq => by cases q <;> simp_all [Part.same]
    exact (h0.append (OnlyIn.put _ _ _)).mono (by decide)

theorem mailboxGo_queues (h : s.mgt.length < 64) (hk : ∀ y ∈ (s.mgt ++ [s.mbRequest]).head?, Mach.KnownCode y.code) :
    Does .mailboxGo s fun t => t.mgt = s.mgt ++ [s.mbRequest] ∧ t.g R.MGT_MB_RES_RESULT = 0 ∧ RegsBut [R.MGT_MB_RES_RESULT.a] s.toMach t ∧
      OnlyIn [.regs, .mgt] s.toMach t := by
  have hspec := queued_spec s.toMach
  have hdef : s.mailboxGo = Mach.mbDrain 64 (queued s.toMach) := if_neg (by omega)
  generalize queued s.toMach = m1 at *
  rw [Mach.mbDrain_known 64 (by rw [hspec.1]; exact hk)] at hdef
  exact does_of_act (f := Mach.mailboxGo) rfl hdef hspec

theorem mailboxGo_unknown (h : s.mgt = []) (hk : ¬ Mach.KnownCode s.mbRequest.code) :
    Does .mailboxGo s fun t => t.mgt = [] ∧ t.g R.MGT_MB_RES_RESULT = 0 ∧
      .mgtResp s.mbRequest.resp s.mbRequest.code s.mbRequest.tag 0x10 [] (respHeader s.mbRequest.code s.mbRequest.tag 0x10 0) ∈ t.out ∧
      .msix 0 7 ∈ t.out ∧ OnlyIn [.regs, .mgt, .mgtSci, .out] s.toMach t := by
  obtain ⟨hq, hres, -, hparts⟩ := queued_spec s.toMach
  rw [h, List.nil_append] at hq
  have hdef : s.mailboxGo = Mach.mbDrain 64 (queued s.toMach) := if_neg (by rw [h]; decide)
  generalize queued s.toMach = m1 at *
  have hdrain : Mach.mbDrain 64 m1 = m1.mbAnswer 0x10 [] 0 := by
    have hstep : Mach.mbDrain 64 m1 = Mach.mbDrain 63 (m1.mbAnswer St.format [] 0) := by
      rw [Mach.mbDrain, hq]
      exact if_pos (by unfold Mach.KnownCode at hk; omega)
    rw [hstep]
    refine Mach.mbDrain_known 63 fun y hy => ?_
    rw [Mach.mbAnswer_mgt _ _ _ hq] at hy
    cases hy
  rw [hdrain] at hdef
  have hout := Mach.mbAnswer_out 0x10 0 [] hq
  refine does_of_act (f := Mach.mailboxGo) rfl hdef ⟨Mach.mbAnswer_mgt _ _ _ hq, ?_, ?_, ?_, ?_⟩
  · refine Eq.trans ?_ hres
    unfold Mach.g
    rw [Mach.mbAnswer_regsBut 0x10 [] 0 m1 _ (by decide)]
  · rw [hout]
    exact List.mem_cons_of_mem _ List.mem_cons_self
  · rw [hout]
    exact List.mem_cons_self
  · exact (hparts.append (Mach.mbAnswer_within 0x10 [] 0 m1).parts).mono (by decide)

theorem services_idle (sigOk : Bool) (anti serial nonce : Nat) (entries : List Int) :
    ∀ x ∈ ([(1, .version), (2, .fptCopy), (3, .telemetry), (4, .fwStage sigOk anti), (5, .logRead entries), (6, .calStatus), (7, .mailboxSci),
      (8, .debugUnlock sigOk serial nonce)] : List (Nat × Instr)), s.mbHead x.1 = none → Idles x.2 s := by
  intro x hx h
  simp only [List.mem_cons, List.not_mem_nil, or_false] at hx
  rcases hx with rfl | rfl | rfl | rfl | rfl | rfl | rfl | rfl
  · exact idles_of_act (f := Mach.mbVersion) rfl (by unfold Mach.mbVersion; rw [h])
  · exact idles_of_act (f := Mach.mbFpt) rfl (by unfold Mach.mbFpt; rw [h])
  · exact idles_of_act (f := Mach.mbTelemetry) rfl (by unfold Mach.mbTelemetry; rw [h])
  · exact idles_of_act (f := Mach.mbFwStage sigOk anti) rfl (by unfold Mach.mbFwStage; rw [h])
  · exact idles_of_act (f := Mach.mbLog entries) rfl (by unfold Mach.mbLog; rw [h])
  · exact idles_of_act (f := Mach.mbCal) rfl (by unfold Mach.mbCal; rw [h])
  · exact idles_of_act (f := Mach.mbSci) rfl (by unfold Mach.mbSci; rw [h])
  · exact idles_of_act (f := Mach.mbUnlock sigOk serial nonce) rfl (by unfold Mach.mbUnlock; rw [h])

/-- A service answers on a state in which only registers and the reset unit have changed. -/
theorem serve_answers {c : Instr} {f : Mach → Mach} {m : Mach} {x : MgtReq} {rest : List MgtReq} {l : List Part} {ls : List Nat} (status : Nat) (values : List Int)
    (hx : exec c s = s.act f) (hf : f s.toMach = m.mbServe status values) (hq : m.mgt = x :: rest) (hm : OnlyIn l s.toMach m)
    (hr : RegsBut ls s.toMach m) (hl : R.MGT_MB_DONE.a ∉ ls) :
    Does c s fun t => Mach.Answered x rest status values s.toMach t ∧ RegsBut ([R.MGT_MB_DONE.a] ++ ls) s.toMach t ∧
      OnlyIn (l ++ [.regs, .mgt, .mgtSci, .draws, .out]) s.toMach t ∧ t.rst = m.rst ∧ ∀ off ∈ ls, t.rd off = m.rd off := by
  have hc : m.g R.MGT_MB_DONE = s.g R.MGT_MB_DONE := by
    unfold Mach.g
    rw [hr _ hl]
  refine does_of_act hx hf ⟨Mach.mbServe_answered hq hc, ?_, hm.append (Mach.mbServe_within status values m).parts,
    (Mach.mbServe_within status values m).keeps .rst, fun off ho => ?_⟩
  · exact (hr.mono (List.subset_append_right _ _)).trans ((Mach.mbServe_regsBut status values m).mono (List.subset_append_left _ _))
  · exact Mach.mbServe_regsBut status values m off (by rw [List.mem_singleton]; rintro rfl; exact hl ho)

theorem version_answers {x : MgtReq} (h : s.mbHead 1 = some x) :
    Does .version s fun t => Mach.Answered x s.mgt.tail 0 [(s.chip.fwVer : Int), Config.freeNat s.draws, s.chip.katVer] s.toMach t ∧
      RegsBut [R.MGT_MB_DONE.a] s.toMach t ∧ OnlyIn [.regs, .mgt, .mgtSci, .draws, .out] s.toMach t := by
  have hdef : s.mbVersion = Mach.mbServe 0 [(s.chip.fwVer : Int), Config.freeNat s.draws, s.chip.katVer] { s.toMach with draws := s.draws + 1 } := by
    unfold Mach.mbVersion
    rw [h]
    rfl
  have hparts := (Mach.mbVersion_within s.toMach).parts
  rw [hdef] at hparts
  exact does_of_act (f := Mach.mbVersion) rfl hdef ⟨Mach.mbServe_answered (Mach.mbHead_some h).1 rfl,
    Mach.mbServe_regsBut _ _ { s.toMach with draws := s.draws + 1 }, hparts⟩

theorem fptCopy_answers {x : MgtReq} (h : s.mbHead 2 = some x) :
    Does .fptCopy s fun t => Mach.Answered x s.mgt.tail 0 ((s.fptBytes.take x.rlen).map fun b => (b.toNat : Int)) s.toMach t ∧
      RegsBut [R.MGT_MB_DONE.a] s.toMach t ∧ OnlyIn [.regs, .mgt, .mgtSci, .draws, .out] s.toMach t := by
  obtain ⟨hq, -, -⟩ := Mach.mbHead_some h
  have hroom : s.mbRoom = x.rlen := by
    unfold Mach.mbRoom
    rw [hq]
  have hdef : s.mbFpt = s.mbReply 0 ((s.fptBytes.take x.rlen).map fun b => (b.toNat : Int)) (min s.fptBytes.length x.rlen) := by
    unfold Mach.mbFpt Mach.mbBytes
    rw [h, hroom]
  refine does_of_act (f := Mach.mbFpt) rfl hdef ⟨Mach.mbReply_answered hq rfl (Nat.min_le_right _ _) fun hv => ?_, Mach.mbReply_regsBut _ _ _ _,
    (Mach.mbReply_within _ _ _ _).parts.mono (by decide)⟩
  have hlen := congrArg List.length hv
  rw [List.length_map, List.length_take, List.length_nil] at hlen
  omega

/-- A service that reads the state alone. -/
theorem plain_answers {c : Instr} {f : Mach → Mach} {code : Nat} {x : MgtReq} (values : List Int) (status : Nat) (h : s.mbHead code = some x)
    (hx : exec c s = s.act f) (hf : f s.toMach = s.mbServe status values) :
    Does c s fun t => Mach.Answered x s.mgt.tail status values s.toMach t ∧ RegsBut [R.MGT_MB_DONE.a] s.toMach t ∧
      OnlyIn [.regs, .mgt, .mgtSci, .draws, .out] s.toMach t :=
  does_of_act hx hf ⟨Mach.mbServe_answered (Mach.mbHead_some h).1 rfl, Mach.mbServe_regsBut _ _ _, (Mach.mbServe_within _ _ _).parts⟩

theorem fwStage_answers {x : MgtReq} (sigOk : Bool) (anti : Nat) (h : s.mbHead 4 = some x) :
    (sigOk = true ∧ s.chip.rollback ≤ anti → Does (.fwStage sigOk anti) s fun t =>
      Mach.Answered x s.mgt.tail 0 [] s.toMach t ∧ t.rst = { s.rst with fwStaged := true } ∧ RegsBut ([R.MGT_MB_DONE.a] ++ []) s.toMach t ∧
        OnlyIn [.regs, .mgt, .mgtSci, .rst, .draws, .out] s.toMach t) ∧
    (sigOk = false ∨ anti < s.chip.rollback → Does (.fwStage sigOk anti) s fun t =>
      Mach.Answered x s.mgt.tail 0x13 [] s.toMach t ∧ t.g R.SEC_FW_VERIFY_FAIL = (s.g R.SEC_FW_VERIFY_FAIL + 1) % 2 ^ 32 ∧
        RegsBut ([R.MGT_MB_DONE.a] ++ [R.SEC_FW_VERIFY_FAIL.a]) s.toMach t ∧ OnlyIn [.regs, .mgt, .mgtSci, .draws, .out] s.toMach t) := by
  obtain ⟨hq, -, -⟩ := Mach.mbHead_some h
  have hdef : s.mbFwStage sigOk anti = if sigOk && decide (s.chip.rollback ≤ anti) then (s.onRst fun r => { r with fwStaged := true }).mbServe 0 []
      else (s.inc R.SEC_FW_VERIFY_FAIL).mbServe 0x13 [] := by
    unfold Mach.mbFwStage
    rw [h]
    rfl
  refine ⟨fun ⟨h1, h2⟩ => ?_, fun hbad => ?_⟩
  · rw [if_pos (by simp [h1, h2])] at hdef
    obtain ⟨t, ht, hp, ha, hr, ho, hrst, -⟩ := serve_answers s (ls := []) 0 [] (c := .fwStage sigOk anti) (f := Mach.mbFwStage sigOk anti) rfl hdef hq (OnlyIn.onRst _ _)
      (fun _ _ => rfl) (by simp)
    exact ⟨t, ht, hp, ha, hrst, hr, ho.mono (by decide)⟩
  · rw [if_neg (by rcases hbad with h1 | h1 <;> simp [h1])] at hdef
    obtain ⟨t, ht, hp, ha, hr, ho, -, hrd⟩ := serve_answers s 0x13 [] (c := .fwStage sigOk anti) (f := Mach.mbFwStage sigOk anti) rfl hdef hq (OnlyIn.inc _ _)
      (Mach.RegsBut.inc _ _) (by decide)
    refine ⟨t, ht, hp, ha, ?_, hr, ho.mono (by decide)⟩
    rw [← Mach.g_inc_word s.toMach R.SEC_FW_VERIFY_FAIL rfl rfl]
    unfold Mach.g
    rw [hrd _ (by simp)]

theorem debugUnlock_answers {x : MgtReq} (sigOk : Bool) (serial nonce : Nat) (h : s.mbHead 8 = some x) :
    ((sigOk && serial == s.chip.serial && nonce == s.nonceNow) = true → Does (.debugUnlock sigOk serial nonce) s fun t =>
      Mach.Answered x s.mgt.tail 0 [] s.toMach t ∧ t.rst = { s.rst with unlocked := true } ∧ t.g R.SEC_UNLOCK_OK = (s.g R.SEC_UNLOCK_OK + 1) % 2 ^ 32 ∧
        RegsBut ([R.MGT_MB_DONE.a] ++ [R.SEC_UNLOCK_OK.a]) s.toMach t ∧ OnlyIn [.regs, .mgt, .mgtSci, .rst, .draws, .out] s.toMach t) ∧
    ((sigOk && serial == s.chip.serial && nonce == s.nonceNow) = false → Does (.debugUnlock sigOk serial nonce) s fun t =>
      Mach.Answered x s.mgt.tail 0x13 [] s.toMach t ∧ t.rst = { s.rst with nonce := s.rst.nonce + 1 } ∧
        t.g R.SEC_UNLOCK_FAIL = (s.g R.SEC_UNLOCK_FAIL + 1) % 2 ^ 32 ∧
        RegsBut ([R.MGT_MB_DONE.a] ++ [R.SEC_UNLOCK_FAIL.a]) s.toMach t ∧ OnlyIn [.regs, .mgt, .mgtSci, .rst, .draws, .out] s.toMach t) := by
  obtain ⟨hq, -, -⟩ := Mach.mbHead_some h
  have hdef : s.mbUnlock sigOk serial nonce = if sigOk && serial == s.chip.serial && nonce == s.nonceNow then
      ((s.onRst fun r => { r with unlocked := true }).inc R.SEC_UNLOCK_OK).mbServe 0 []
      else ((s.onRst fun r => { r with nonce := r.nonce + 1 }).inc R.SEC_UNLOCK_FAIL).mbServe 0x13 [] := by
    unfold Mach.mbUnlock
    rw [h]
    rfl
  refine ⟨fun hok => ?_, fun hok => ?_⟩
  · rw [if_pos hok] at hdef
    have hrst : ((s.onRst fun r => { r with unlocked := true }).inc R.SEC_UNLOCK_OK).rst = { s.rst with unlocked := true } := Mach.inc_rst (s.onRst _) _
    have hcount := Mach.g_inc_word (s.onRst fun r => { r with unlocked := true }) R.SEC_UNLOCK_OK rfl rfl
    obtain ⟨t, ht, hp, ha, hr, ho, hrst', hrd⟩ := serve_answers s 0 [] (c := .debugUnlock sigOk serial nonce) (f := Mach.mbUnlock sigOk serial nonce) rfl hdef
      (rest := s.mgt.tail) (x := x) (((Mach.inc_within _ _).keeps .mgt).trans hq) ((OnlyIn.onRst _ _).append (OnlyIn.inc (s.onRst _) _))
      (Mach.RegsBut.inc (s.onRst _) _) (by decide)
    refine ⟨t, ht, hp, ha, hrst'.trans hrst, (congrArg (fun w : Word => bitsN w.toNat _ _) (hrd _ (by simp))).trans hcount, hr, ho.mono (by decide)⟩
  · rw [if_neg (by simpa using hok)] at hdef
    have hrst : ((s.onRst fun r => { r with nonce := r.nonce + 1 }).inc R.SEC_UNLOCK_FAIL).rst = { s.rst with nonce := s.rst.nonce + 1 } := Mach.inc_rst (s.onRst _) _
    have hcount := Mach.g_inc_word (s.onRst fun r => { r with nonce := r.nonce + 1 }) R.SEC_UNLOCK_FAIL rfl rfl
    obtain ⟨t, ht, hp, ha, hr, ho, hrst', hrd⟩ := serve_answers s 0x13 [] (c := .debugUnlock sigOk serial nonce) (f := Mach.mbUnlock sigOk serial nonce) rfl hdef
      (rest := s.mgt.tail) (x := x) (((Mach.inc_within _ _).keeps .mgt).trans hq) ((OnlyIn.onRst _ _).append (OnlyIn.inc (s.onRst _) _))
      (Mach.RegsBut.inc (s.onRst _) _) (by decide)
    refine ⟨t, ht, hp, ha, hrst'.trans hrst, (congrArg (fun w : Word => bitsN w.toNat _ _) (hrd _ (by simp))).trans hcount, hr, ho.mono (by decide)⟩

end

/-! ### MAILBOX_SCI -/

/-- The bytes of a request's arguments, and what they ask of a port. -/
def sciArgs (x : MgtReq) : List Byte := x.args.flatMap fun (w : BitVec 32) => bytesOf 4 w.toNat

section
variable (s : State) {x : MgtReq} (h : s.mbHead 7 = some x)
include h

theorem mbSci_eq : s.mbSci =
    if !s.on (R.ING_SCI_CFG_OWNER (Fin.ofNat 16 (byteAt (sciArgs x) 0))) || (s.port.get (Fin.ofNat 16 (byteAt (sciArgs x) 0))).sci.isSome then s.mbServe 0x13 []
    else (s.sciAsked (Fin.ofNat 16 (byteAt (sciArgs x) 0)) (sliceB (sciArgs x) 8 (min 32 (byteAt (sciArgs x) 3 % 64)))).sciStart (Fin.ofNat 16 (byteAt (sciArgs x) 0)) (Mach.sciBy .mgt)
      (byteAt (sciArgs x) 2 % 128) (byteAt (sciArgs x) 3 % 64) (byteAt (sciArgs x) 4 % 64) := by
  unfold Mach.mbSci
  rw [h]
  rfl

variable (p : Fin 16) (hp : p = Fin.ofNat 16 (byteAt (sciArgs x) 0))
include hp

theorem mailboxSci_busy (hf : (s.on (R.ING_SCI_CFG_OWNER p) && (s.port.get p).sci.isNone) = false) :
    Does .mailboxSci s fun t => Mach.Answered x s.mgt.tail 0x13 [] s.toMach t ∧ RegsBut [R.MGT_MB_DONE.a] s.toMach t ∧
      OnlyIn [.regs, .mgt, .mgtSci, .draws, .out] s.toMach t := by
  refine plain_answers s [] 0x13 h (f := Mach.mbSci) rfl ((mbSci_eq s h).trans (if_pos ?_))
  rw [← hp]
  revert hf
  cases s.on (R.ING_SCI_CFG_OWNER p) <;> cases (s.port.get p).sci <;> simp

variable (wlen rlen : Nat) (hwl : wlen = byteAt (sciArgs x) 3 % 64) (hrl : rlen = byteAt (sciArgs x) 4 % 64)
include hwl hrl

/-- A free port begins the transfer. -/
theorem mbSci_begins (hf : (s.on (R.ING_SCI_CFG_OWNER p) && (s.port.get p).sci.isNone) = true) :
    ∃ m2 : Mach, m2 = (s.sciAsked p (sliceB (sciArgs x) 8 (min 32 wlen))).sciBegun p .mgt (byteAt (sciArgs x) 2 % 128) wlen rlen ∧ s.mbSci =
      if 32 < wlen ∨ 32 < rlen then m2.sciEnd p 3 []
      else if s.sciMode p = 0 ∨ 4 < s.sciMode p then m2.drawNat.2.sciEnd p (1 + m2.drawNat.1 % 4) []
      else m2.emit (.sci p.1 (s.sciMode p) (byteAt (sciArgs x) 2 % 128) ((m2.sciBuf p).take wlen) rlen) := by
  obtain ⟨hown, hnone⟩ := Bool.and_eq_true_iff.mp hf
  refine ⟨_, rfl, ?_⟩
  have he := mbSci_eq s h
  rw [← hp, ← hwl, ← hrl, if_neg (by rw [hown]; simpa using hnone), Mach.sciStart_eq] at he
  dsimp only at he
  rw [Mach.sciBegun_mode, Mach.sciAsked_mode] at he
  exact he

omit h hp hwl hrl in
theorem sciBuf_emit (o : Out) (m : Mach) : (m.emit o).sciBuf p = m.sciBuf p := rfl

omit h hp hwl hrl in
/-- What the port and the queue hold once the transfer has begun. -/
theorem mbSci_begun {m2 : Mach} (hm2 : m2 = (s.sciAsked p (sliceB (sciArgs x) 8 (min 32 wlen))).sciBegun p .mgt (byteAt (sciArgs x) 2 % 128) wlen rlen) :
    (m2.port.get p).sci = some { who := .mgt, startEl := s.elapsed, rlen := rlen } ∧ (∀ k : Fin 16, k ≠ p → m2.port.get k = s.port.get k) ∧
      m2.mgtSci = some p ∧ m2.mgt = s.mgt ∧ m2.g R.MGT_MB_DONE = s.g R.MGT_MB_DONE ∧ OnlyIn [.regs, .port, .mgtSci] s.toMach m2 := by
  have hask := Mach.sciAsked_within p (sliceB (sciArgs x) 8 (min 32 wlen)) s.toMach
  have hcount := Mach.sciBegun_count p (sliceB (sciArgs x) 8 (min 32 wlen)) s.toMach (byteAt (sciArgs x) 2 % 128) wlen rlen
  have hsci := Mach.sciAsked_mgtSci p (sliceB (sciArgs x) 8 (min 32 wlen)) s.toMach
  rw [← hm2] at hcount
  generalize s.sciAsked p (sliceB (sciArgs x) 8 (min 32 wlen)) = m1 at *
  have hbeg : Within [.regs, .port] m1 m2 := hm2 ▸ Mach.sciBegun_within
  refine ⟨?_, fun k hk => ?_, (hbeg.keeps .mgtSci).trans hsci, (hbeg.keeps .mgt).trans (hask.keeps .mgt), hcount, (hask.parts.append hbeg.parts).mono (by decide)⟩
  · have hel : m1.elapsed = s.elapsed := by
      unfold Mach.elapsed
      rw [show m1.time = s.time from hask.keeps .time]
    rw [hm2, Mach.sciBegun_sci, hel]
    rfl
  · rw [hm2, Mach.sciBegun, Mach.onPort_get_ne _ _ hk, Mach.set1_port, Mach.put_port, Mach.put_port, Mach.put_port]
    exact congrArg (fun v : Vector Port 16 => v.get k) (hask.keeps .port)

theorem mailboxSci_tooLong (hf : (s.on (R.ING_SCI_CFG_OWNER p) && (s.port.get p).sci.isNone) = true) (hl : 32 < wlen ∨ 32 < rlen) :
    Does .mailboxSci s fun t => Mach.Answered x s.mgt.tail 0 [3] s.toMach t ∧ (t.port.get p).sci = none ∧
      (∀ k : Fin 16, k ≠ p → t.port.get k = s.port.get k) ∧ OnlyIn [.regs, .port, .mgt, .mgtSci, .draws, .out] s.toMach t := by
  obtain ⟨m2, hm2, he⟩ := mbSci_begins s h p hp wlen rlen hwl hrl hf
  obtain ⟨hrun, hports, hsci, hmgt, hcount, hparts⟩ := mbSci_begun s p wlen rlen hm2
  obtain ⟨h1, h2, h3, h4⟩ := Mach.sciEnd_answers p (a := s.toMach) (result := 3) (by decide) hrun rfl hsci (hmgt.trans (Mach.mbHead_some h).1) hcount
  exact does_of_act (f := Mach.mbSci) rfl (he.trans (if_pos hl)) ⟨h1, h2, fun k hk => (h3 k hk).trans (hports k hk), (hparts.append h4).mono (by decide)⟩

theorem mailboxSci_off (hf : (s.on (R.ING_SCI_CFG_OWNER p) && (s.port.get p).sci.isNone) = true) (hw : wlen ≤ 32) (hr : rlen ≤ 32)
    (hm : s.sciMode p = 0 ∨ 4 < s.sciMode p) :
    Does .mailboxSci s fun t => (∃ r : Nat, 1 ≤ r ∧ r ≤ 4 ∧ Mach.Answered x s.mgt.tail 0 [(r : Int)] s.toMach t) ∧ (t.port.get p).sci = none ∧
      (∀ k : Fin 16, k ≠ p → t.port.get k = s.port.get k) ∧ OnlyIn [.regs, .port, .mgt, .mgtSci, .draws, .out] s.toMach t := by
  obtain ⟨m2, hm2, he⟩ := mbSci_begins s h p hp wlen rlen hwl hrl hf
  obtain ⟨hrun, hports, hsci, hmgt, hcount, hparts⟩ := mbSci_begun s p wlen rlen hm2
  rw [if_neg (by omega), if_pos hm] at he
  obtain ⟨h1, h2, h3, h4⟩ := Mach.sciEnd_answers p (a := s.toMach) (m := m2.drawNat.2) (result := 1 + m2.drawNat.1 % 4) (by omega) hrun rfl hsci
    (hmgt.trans (Mach.mbHead_some h).1) hcount
  exact does_of_act (f := Mach.mbSci) rfl he ⟨⟨1 + m2.drawNat.1 % 4, by omega, by omega, h1⟩, h2, fun k hk => (h3 k hk).trans (hports k hk),
    ((hparts.append (Mach.drawNat_within m2).parts).append h4).mono (by decide)⟩

theorem mailboxSci_runs (hf : (s.on (R.ING_SCI_CFG_OWNER p) && (s.port.get p).sci.isNone) = true) (hw : wlen ≤ 32) (hr : rlen ≤ 32)
    (hm1 : 1 ≤ s.sciMode p) (hm4 : s.sciMode p ≤ 4) :
    Does .mailboxSci s fun t => t.mgt = s.mgt ∧ t.mgtSci = some p ∧ (t.port.get p).sci = some { who := .mgt, startEl := s.elapsed, rlen := rlen } ∧
      t.out.head? = some (.sci p.1 (s.sciMode p) (byteAt (sciArgs x) 2 % 128) (t.sciBuf p |>.take wlen) rlen) ∧
      (∀ k : Fin 16, k ≠ p → t.port.get k = s.port.get k) ∧ OnlyIn [.regs, .port, .mgtSci, .out] s.toMach t := by
  obtain ⟨m2, hm2, he⟩ := mbSci_begins s h p hp wlen rlen hwl hrl hf
  obtain ⟨hrun, hports, hsci, hmgt, -, hparts⟩ := mbSci_begun s p wlen rlen hm2
  rw [if_neg (by omega), if_neg (by omega)] at he
  exact does_of_act (f := Mach.mbSci) rfl he ⟨hmgt, hsci, hrun, by rw [Mach.emit_out, List.head?_cons, sciBuf_emit], hports, (hparts.append (OnlyIn.emit _ _)).mono (by decide)⟩

end

/-- Settles O52. -/
theorem mailboxServesInOrder : Obligations.MailboxServesInOrder := by
  intro s sigOk anti serial nonce entries
  refine ⟨mailboxGo_full s, fun h => ⟨mailboxGo_queues s h, mailboxGo_unknown s⟩, services_idle s sigOk anti serial nonce entries, fun x h => version_answers s h,
    fun x h => fptCopy_answers s h, fun x h => plain_answers s _ 0 h (f := Mach.mbTelemetry) rfl ?_, fun x h => fwStage_answers s sigOk anti h,
    fun x h => plain_answers s entries 0 h (f := Mach.mbLog entries) rfl ?_, fun x h => plain_answers s _ 0 h (f := Mach.mbCal) rfl ?_,
    fun x h => ⟨mailboxSci_busy s h _ rfl, mailboxSci_off s h _ rfl _ _ rfl rfl, mailboxSci_runs s h _ rfl _ _ rfl rfl,
      mailboxSci_tooLong s h _ rfl _ _ rfl rfl⟩,
    fun x h => debugUnlock_answers s sigOk serial nonce h, does_of_act (f := Mach.secRelock) rfl rfl ⟨rfl, OnlyIn.onRst _ _⟩,
    does_of_act (f := Mach.nonceRead) rfl rfl ⟨Mach.rd_wr_self _ _ _, rfl, fun off ho => ?_, ?_⟩⟩
  · unfold Mach.mbTelemetry
    rw [h]
  · unfold Mach.mbLog
    rw [h]
  · unfold Mach.mbCal
    rw [h]
  · exact Mach.rd_wr_ne _ _ fun he => ho (he ▸ by simp)
  · exact ((Mach.wr_within _ _ _).parts.append (OnlyIn.emit _ _)).mono (by decide)

end Sys2Proof.Machine

namespace Sys2Proof.Machine

set_option Elab.async false

theorem any_congr_mem {α : Type} {l : List α} {p q : α → Bool} (h : ∀ x ∈ l, p x = q x) : l.any p = l.any q := by
  rw [Bool.eq_iff_iff, List.any_eq_true, List.any_eq_true]
  exact exists_congr fun x => and_congr_right fun hx => by rw [h x hx]

namespace Mach

/-! ## The checks of ASSIGN read the state before the fetch (R367) -/

theorem fetch_fe (f : Fin 8) (m : Mach) : (m.fetch f).fe = m.fe := fetch_onlyIn f m .fe (by decide)

theorem fetch_fus (f : Fin 8) (m : Mach) : (m.fetch f).fus = m.fus := fetch_onlyIn f m .fus (by decide)

theorem fetch_mapsOf (f : Fin 8) (m : Mach) (p : Nat) : (m.fetch f).mapsOf p = m.mapsOf p := by
  have hn : ∀ vc, (m.fetch f).vcNibble p vc = m.vcNibble p vc := fun vc => by
    unfold vcNibble
    rw [fetch_regsBut f m _ (by simp only [R.ING_VCMAP_A, R.HIF_CMD_FETCHED, List.mem_singleton]; omega)]
  have ho : ∀ vc, (m.fetch f).vcOn p vc = m.vcOn p vc := fun vc => by
    unfold vcOn
    rw [hn, fetch_on m _ (by simp only [R.ING_PHY_VCX_EN, R.HIF_CMD_FETCHED]; omega)]
  unfold mapsOf
  rw [funext ho, funext hn]

theorem fetch_mapInUse (f : Fin 8) (m : Mach) (k : Nat) : (m.fetch f).mapInUse k = m.mapInUse k := by
  have h : (fun p => (m.fetch f).on (R.ING_CTRL_EN p) && ((m.fetch f).mapsOf p).contains k) = fun p => m.on (R.ING_CTRL_EN p) && (m.mapsOf p).contains k :=
    funext fun p => by rw [fetch_mapsOf, fetch_on m _ (by simp only [R.ING_CTRL_EN, R.HIF_CMD_FETCHED]; omega)]
  unfold mapInUse
  rw [h]

theorem assignState_fetch {f : Fin 8} {m : Mach} {kind u : Nat} {to_ : Fin 8} (h : kind = 6 → u < 8) :
    (m.fetch f).assignState kind u to_ = m.assignState kind u to_ := by
  unfold assignState
  split
  · rw [fetch_on m _ (by simp only [R.ING_CTRL_EN, R.HIF_CMD_FETCHED]; omega), fetch_fe, fetch_images, fetch_tick]
  · have hany := congrArg (List.any · id) (fetch_fn_map f m
      (fun x => x.roles.cur.binds.any (fun b => b.2 == u) || (decide (m.tick.tn < x.roles.eff + 1) && x.roles.prev.binds.any fun b => b.2 == u)) fun _ _ _ => rfl)
    simp only [List.any_map, Function.id_comp] at hany
    unfold engBound
    rw [fetch_tick, hany]
  · unfold granResident
    rw [fetch_images]
  · rw [fetch_fus]
  · rw [fetch_mapInUse]
  · rw [fetch_jnl]
  · rw [fetch_on m _ (by have := h rfl; simp only [R.RRT_D_CTRL_EN, R.HIF_CMD_FETCHED]; omega)]
  · rfl

theorem fetch_ownerOf (f : Fin 8) (m : Mach) (kind : Nat) : (m.fetch f).ownerOf kind = m.ownerOf kind := by
  funext u
  unfold ownerOf granOwner
  rw [fetch_own]

theorem unitsOf_lt {first count u : Nat} : u ∈ unitsOf first count ↔ first ≤ u ∧ u < first + count := by
  unfold unitsOf
  simp only [List.mem_map, List.mem_range]
  exact ⟨fun ⟨k, hk, he⟩ => by omega, fun ⟨h1, h2⟩ => ⟨u - first, by omega, by omega⟩⟩

theorem assignJudge_fetch (f : Fin 8) (m : Mach) (kind first count : Nat) (to_ : Fin 8) :
    (m.fetch f).assignJudge kind first count to_ = m.assignJudge kind first count to_ := by
  have hwedged : ∀ g : Fin 8, ((m.fetch f).fn.get g).wedged = (m.fn.get g).wedged := fun g => fetch_fn_get f g m Func.wedged fun _ _ _ => rfl
  have hgran : (m.fetch f).granOwner = m.granOwner := funext fun u => by
    unfold granOwner
    rw [fetch_own]
  have hwash : ∀ k, (m.fetch f).washing k = m.washing k := fun k => funext fun u => by
    unfold washing
    rw [fetch_own]
  have hgw : (m.fetch f).granWashing = m.granWashing := funext fun u => by
    unfold granWashing
    rw [hwash, hwash]
  unfold assignJudge
  simp only [fetch_fus, fetch_own, fetch_ownerOf, hwedged, hgran, hwash, hgw]
  by_cases hbad : 7 < kind ∨ count = 0 ∨ kindUnits kind < first + count
  · rw [if_pos hbad, if_pos hbad]
  · rw [if_neg hbad, if_neg hbad]
    have hstate : ∀ u ∈ (if kind = 3 then (m.fus.store.map (·.1)).filter (fun k => decide (first ≤ k) && decide (k < first + count)) else unitsOf first count),
        (m.fetch f).assignState kind u to_ = m.assignState kind u to_ := fun u hu => assignState_fetch fun hk => by
      subst hk
      rw [if_neg (by decide), unitsOf_lt] at hu
      have : kindUnits 6 = 8 := rfl
      omega
    rw [any_congr_mem hstate]

/-- What an ASSIGN that passes its checks names. -/
theorem assignJudge_none {m : Mach} {kind first count : Nat} {to_ : Fin 8} (h : m.assignJudge kind first count to_ = none) :
    kind ≤ 7 ∧ (kind = 2 → ∀ u ∈ unitsOf first count, m.granOwner u ≠ none) := by
  unfold assignJudge at h
  extract_lets us others owners at h
  split at h
  · cases h
  next h1 =>
  split at h
  · cases h
  next h2 =>
  refine ⟨by omega, fun hk u hu hn => h2 ⟨hk, List.any_eq_true.mpr ⟨u, ?_, by rw [hn]; rfl⟩⟩⟩
  simp only [us, hk]
  exact hu

/-! ## Units change owner (R367, R368) -/

section
variable {m : Mach} {kind u : Nat} {f : Fin 8}

theorem setOwner_ownerOf_self (h3 : kind ≠ 3) (h7 : kind ≤ 7) (hg : kind = 2 → m.granOwner u ≠ none) : (m.setOwner kind u f).ownerOf kind u = some f := by
  have hcases : kind = 0 ∨ kind = 1 ∨ kind = 2 ∨ kind = 4 ∨ kind = 5 ∨ kind = 6 ∨ kind = 7 := by omega
  rcases hcases with rfl | rfl | rfl | rfl | rfl | rfl | rfl
  · exact congrArg some (vput_get_self m.own.port _ f)
  · exact congrArg some (vput_get_self m.own.eng _ f)
  · have h := hg rfl
    unfold granOwner at h
    unfold ownerOf granOwner
    by_cases hs : systemRegion (u / 512) = true
    · rw [if_pos hs] at h
      exact absurd rfl h
    · rw [if_neg hs]
      exact congrArg some (Tab.get_set_self (fun _ => (0 : Fin 8)) m.own.gran u f)
  · exact congrArg some (vput_get_self m.own.fmap _ f)
  · exact congrArg some (vput_get_self m.own.trig _ f)
  · exact congrArg some (vput_get_self m.own.rrt _ f)
  · rfl

/-- What function f owns of a record of owners. -/
structure Holds (f : Fin 8) (v : Nat) (a b : Owners) : Prop where
  port : vat a.port v = f → vat b.port v = f
  eng : vat a.eng v = f → vat b.eng v = f
  gran : Tab.get (fun _ => (0 : Fin 8)) a.gran v = f → Tab.get (fun _ => (0 : Fin 8)) b.gran v = f
  fmap : vat a.fmap v = f → vat b.fmap v = f
  trig : vat a.trig v = f → vat b.trig v = f
  rrt : vat a.rrt v = f → vat b.rrt v = f
  tick : a.tick = f → b.tick = f
  part : b.part = a.part

theorem vat_vput {n : Nat} [NeZero n] (x : Vector (Fin 8) n) (i : Fin n) (v : Nat) (f : Fin 8) (h : vat x v = f) : vat (vput x i f) v = f := by
  unfold vat at h ⊢
  rw [vput_get]
  split
  · rfl
  · exact h

/-- What function f owns stays its own when f takes another unit. -/
theorem setOwner_holds (m : Mach) (kind u : Nat) (f : Fin 8) (v : Nat) : Holds f v m.own (m.setOwner kind u f).own := by
  unfold setOwner
  rw [onOwn_own]
  split
  · exact ⟨vat_vput _ _ v f, id, id, id, id, id, id, rfl⟩
  · exact ⟨id, vat_vput _ _ v f, id, id, id, id, id, rfl⟩
  · refine ⟨id, id, fun h => ?_, id, id, id, id, rfl⟩
    rw [Tab.get_set]
    split
    · rfl
    · exact h
  · exact ⟨id, id, id, vat_vput _ _ v f, id, id, id, rfl⟩
  · exact ⟨id, id, id, id, vat_vput _ _ v f, id, id, rfl⟩
  · exact ⟨id, id, id, id, id, vat_vput _ _ v f, id, rfl⟩
  · exact ⟨id, id, id, id, id, id, fun _ => rfl, rfl⟩
  · exact ⟨id, id, id, id, id, id, id, rfl⟩

theorem setOwner_washes (m : Mach) (kind u : Nat) (f : Fin 8) : (m.setOwner kind u f).own.washes = m.own.washes := by
  unfold setOwner
  rw [onOwn_own]
  split <;> rfl

theorem setOwner_gran (m : Mach) {kind : Nat} (u : Nat) (f : Fin 8) (h : kind ≠ 2) : (m.setOwner kind u f).own.gran = m.own.gran := by
  unfold setOwner
  rw [onOwn_own]
  split
  case h_3 => exact absurd rfl h
  all_goals rfl

theorem Holds.refl (v : Nat) (a : Owners) : Holds f v a a := ⟨id, id, id, id, id, id, id, rfl⟩

theorem Holds.trans {v : Nat} {a b c : Owners} (h1 : Holds f v a b) (h2 : Holds f v b c) : Holds f v a c :=
  ⟨h2.port ∘ h1.port, h2.eng ∘ h1.eng, h2.gran ∘ h1.gran, h2.fmap ∘ h1.fmap, h2.trig ∘ h1.trig, h2.rrt ∘ h1.rrt, h2.tick ∘ h1.tick,
    h2.part.trans h1.part⟩

theorem Holds.ownerOf {v k : Nat} {a b : Mach} (h : Holds f v a.own b.own) (ho : a.ownerOf k v = some f) : b.ownerOf k v = some f := by
  unfold Mach.ownerOf at ho ⊢
  split at ho
  · exact congrArg some (h.port (Option.some.inj ho))
  · exact congrArg some (h.eng (Option.some.inj ho))
  · unfold granOwner at ho ⊢
    split at ho
    · cases ho
    next hs =>
      rw [if_neg hs]
      exact congrArg some (h.gran (Option.some.inj ho))
  · rw [h.part]
    exact ho
  · exact congrArg some (h.fmap (Option.some.inj ho))
  · exact congrArg some (h.trig (Option.some.inj ho))
  · exact congrArg some (h.rrt (Option.some.inj ho))
  · exact congrArg some (h.tick (Option.some.inj ho))

/-- The units of a list move to function f. -/
def setOwners (kind : Nat) (us : List Nat) (f : Fin 8) (m : Mach) : Mach := forEach us (fun u t => t.setOwner kind u f) m

theorem setOwners_holds (m : Mach) (kind : Nat) (us : List Nat) (f : Fin 8) (v : Nat) : Holds f v m.own (m.setOwners kind us f).own :=
  forEach_keeps (fun t => Holds f v m.own t.own) us _ (fun u t h => h.trans (setOwner_holds t kind u f v)) m (.refl v _)

theorem setOwners_washes (m : Mach) (kind : Nat) (us : List Nat) (f : Fin 8) : (m.setOwners kind us f).own.washes = m.own.washes :=
  forEach_keeps (fun t => t.own.washes = m.own.washes) us _ (fun u t h => (setOwner_washes t kind u f).trans h) m rfl

theorem setOwners_gran (m : Mach) {kind : Nat} (us : List Nat) (f : Fin 8) (h : kind ≠ 2) : (m.setOwners kind us f).own.gran = m.own.gran :=
  forEach_keeps (fun t => t.own.gran = m.own.gran) us _ (fun u t ht => (setOwner_gran t u f h).trans ht) m rfl

theorem granOwner_none_iff {a : Mach} {g : Nat} : a.granOwner g = none ↔ systemRegion (g / 512) = true := by
  unfold granOwner
  split <;> simp_all

theorem setOwners_owns {us : List Nat} (h3 : kind ≠ 3) (h7 : kind ≤ 7) (hg : kind = 2 → ∀ u ∈ us, systemRegion (u / 512) = false) :
    ∀ u ∈ us, (m.setOwners kind us f).ownerOf kind u = some f := by
  have h : ∀ u ∈ us, (kind = 2 → systemRegion (u / 512) = false) → (m.setOwners kind us f).ownerOf kind u = some f :=
    forEach_reaches (fun u t => (kind = 2 → systemRegion (u / 512) = false) → t.ownerOf kind u = some f) us _ ?_ ?_ m
  · exact fun u hu => h u hu fun hk => hg hk u hu
  · exact fun u t hs => setOwner_ownerOf_self h3 h7 fun hk => by rw [Ne, granOwner_none_iff, hs hk]; decide
  · exact fun u v t ht hs => (setOwner_holds t kind u f v).ownerOf (ht hs)

/-- The units that a move takes from another owner. -/
def movedUnits (kind first count : Nat) (to_ : Fin 8) (m : Mach) : List Nat := (unitsOf first count).filter fun u => m.ownerOf kind u != some to_

/-- The washes of moved units. -/
def movedWashes (kind first count : Nat) (to_ : Fin 8) (owed : Option (Nat × Nat)) (m : Mach) : List Wash :=
  if kind = 7 then [] else (m.movedUnits kind first count to_).map fun u => { kind := kind, unit := u, owed := owed }

/-- A move of units other than comet slots. -/
theorem moveUnits_own {first count : Nat} {to_ : Fin 8} {owed : Option (Nat × Nat)} (h3 : kind ≠ 3) :
    (m.moveUnits kind first count to_ owed).own =
      { (m.setOwners kind (m.movedUnits kind first count to_) to_).own with washes := m.own.washes ++ m.movedWashes kind first count to_ owed } := by
  have hw := setOwners_washes m kind (m.movedUnits kind first count to_) to_
  have hact : ∀ a : Mach, (if kind = 5 then a.actFollow else a).own = a.own := fun a => by
    split
    · exact (actFollow_within a).keeps .own
    · rfl
  unfold moveUnits
  rw [if_neg h3]
  extract_lets us m1 m2
  rw [hact]
  simp only [m2, movedWashes]
  split
  · rw [List.append_nil, ← hw]
    rfl
  · rw [← hw]
    rfl

theorem Holds.of_washes {v : Nat} {a b : Owners} {w : List Wash} (h : Holds f v a b) : Holds f v a { b with washes := w } :=
  ⟨h.port, h.eng, h.gran, h.fmap, h.trig, h.rrt, h.tick, h.part⟩

variable {first count : Nat} {to_ : Fin 8} {owed : Option (Nat × Nat)}

theorem moveUnits_holds (h3 : kind ≠ 3) (v : Nat) : Holds to_ v m.own (m.moveUnits kind first count to_ owed).own := by
  rw [moveUnits_own h3]
  exact (setOwners_holds m kind _ to_ v).of_washes

/-- Every named unit belongs to its new owner. -/
theorem moveUnits_owns (h3 : kind ≠ 3) (h7 : kind ≤ 7) (hg : kind = 2 → ∀ u ∈ unitsOf first count, systemRegion (u / 512) = false) :
    ∀ u ∈ unitsOf first count, (m.moveUnits kind first count to_ owed).ownerOf kind u = some to_ := by
  intro u hu
  by_cases ho : m.ownerOf kind u = some to_
  · exact (moveUnits_holds h3 u).ownerOf ho
  · have hmem : u ∈ m.movedUnits kind first count to_ := List.mem_filter.mpr ⟨hu, by simpa using ho⟩
    have hown := setOwners_owns (m := m) (f := to_) h3 h7 (fun hk v hv => hg hk v (List.mem_filter.mp hv).1) u hmem
    have heq : (m.moveUnits kind first count to_ owed).ownerOf kind u = (m.setOwners kind (m.movedUnits kind first count to_) to_).ownerOf kind u := by
      unfold ownerOf granOwner
      rw [moveUnits_own h3]
    exact heq.trans hown

/-! ### Comet slots (R367) -/

/-- What is left of a partition lies outside the range that another takes. -/
theorem cutPart_outside {p : Nat × Nat} {u : Nat} (h1 : first ≤ u) (h2 : u < first + count) :
    ¬ (((cutPart p first count).getD (0, 0)).1 ≤ u ∧ u < ((cutPart p first count).getD (0, 0)).1 + ((cutPart p first count).getD (0, 0)).2) := by
  unfold cutPart
  dsimp only
  split_ifs <;> simp only [Option.getD_some, Option.getD_none] <;> omega

/-- The parts of a range that lay outside a partition are washed. -/
theorem outsidePart_covers {p : Nat × Nat} {u : Nat} (h1 : first ≤ u) (h2 : u < first + count) (ho : ¬ (p.1 ≤ u ∧ u < p.1 + p.2)) :
    ∃ r ∈ outsidePart p first count, r.1 ≤ u ∧ u < r.1 + r.2 := by
  unfold outsidePart
  extract_lets e low high
  have hlow : u < p.1 ∨ p.2 = 0 → low.1 ≤ u ∧ u < low.1 + low.2 := fun h => by
    simp only [low, e]
    split <;> dsimp only <;> omega
  have hhigh : ¬ (u < p.1 ∨ p.2 = 0) → high.1 ≤ u ∧ u < high.1 + high.2 := fun h => by
    simp only [high, e]
    split <;> dsimp only <;> omega
  by_cases h : u < p.1 ∨ p.2 = 0
  · have hl := hlow h
    exact ⟨low, List.mem_filter.mpr ⟨by simp, by simp; omega⟩, hl⟩
  · have hl := hhigh h
    exact ⟨high, List.mem_filter.mpr ⟨by simp, by simp; omega⟩, hl⟩

/-- A move of comet slots. -/
theorem moveSlots_own : (m.moveUnits 3 first count to_ owed).own =
    { m.own with
      part := Vector.ofFn (fun (f : Fin 8) => if f = to_ then (first, count) else (cutPart (m.own.part.get f) first count).getD (0, 0)),
      washes := m.own.washes ++ (outsidePart (m.own.part.get to_) first count).map fun r => { kind := 3, unit := r.1, count := r.2, owed := owed } } := by
  unfold moveUnits
  rw [if_pos rfl]
  exact (partFollow_within _).keeps .own

theorem ofFn_get8 {α : Type} (f : Fin 8 → α) (i : Fin 8) : (Vector.ofFn f).get i = f i := by
  simp only [Vector.get, Vector.toArray_ofFn, Array.getElem_ofFn]
  rfl

theorem moveSlots_owns : ∀ u ∈ unitsOf first count, (m.moveUnits 3 first count to_ owed).ownerOf 3 u = some to_ := by
  intro u hu
  obtain ⟨h1, h2⟩ := unitsOf_lt.mp hu
  have hpred : (fun f : Fin 8 => decide (((m.moveUnits 3 first count to_ owed).own.part.get f).1 ≤ u) &&
      decide (u < ((m.moveUnits 3 first count to_ owed).own.part.get f).1 + ((m.moveUnits 3 first count to_ owed).own.part.get f).2)) = fun f => f == to_ := by
    funext f
    rw [moveSlots_own]
    dsimp only
    rw [ofFn_get8]
    by_cases hf : f = to_
    · simp [hf, h1, h2]
    · rw [if_neg hf]
      have hout := cutPart_outside (p := m.own.part.get f) h1 h2
      simp only [hf, beq_eq_false_iff_ne.mpr, ne_eq, not_false_eq_true]
      rw [← Bool.decide_and, decide_eq_false_iff_not]
      exact hout
  unfold ownerOf
  rw [hpred]
  fin_cases to_ <;> rfl

end

end Mach

namespace Mach

/-! ### The registers that follow the owners (R368) -/

/-- Every register but those that follow the owners reads as before. -/
def PagesKept (a b : Mach) : Prop := ∀ off, off < 0x1D0000 ∨ 0x1F0000 ≤ off → b.rd off = a.rd off

theorem PagesKept.trans {a b c : Mach} (h1 : PagesKept a b) (h2 : PagesKept b c) : PagesKept a c := fun off ho => (h2 off ho).trans (h1 off ho)

theorem PagesKept.g {a b : Mach} (h : PagesKept a b) (f : Fld) (hf : f.a < 0x1D0000 ∨ 0x1F0000 ≤ f.a) : b.g f = a.g f := by
  unfold Mach.g
  rw [h _ hf]

theorem partFollow_kept (m : Mach) : PagesKept m m.partFollow := by
  refine forEach_keeps (PagesKept m) _ _ (fun f t ht => ht.trans fun off ho => ?_) m fun _ _ => rfl
  rw [rd_put_ne _ _ _ (by simp only [R.FUS_F_PART_SLOT_FIRST]; omega), rd_put_ne _ _ _ (by simp only [R.FUS_F_PART_SLOT_COUNT]; omega)]

theorem actFollow_kept (m : Mach) : PagesKept m m.actFollow :=
  forEach_keeps (PagesKept m) _ _ (fun f t ht => ht.trans fun off ho => rd_put_ne _ _ _ (by simp only [R.ACT_F_OUT_OUT_MASK]; omega)) m fun _ _ => rfl

theorem setOwners_regs (m : Mach) (kind : Nat) (us : List Nat) (f : Fin 8) : (m.setOwners kind us f).regs = m.regs :=
  forEach_keeps (fun t => t.regs = m.regs) us (fun u t => t.setOwner kind u f) (fun _ _ h => h) m rfl

theorem moveUnits_kept (kind first count : Nat) (to_ : Fin 8) (owed : Option (Nat × Nat)) (m : Mach) : PagesKept m (m.moveUnits kind first count to_ owed) := by
  unfold moveUnits
  split
  · exact partFollow_kept (m.onOwn _)
  · extract_lets us m1 m2
    have h1 : PagesKept m m2 := fun off _ => by
      have hr : m2.regs = m.regs := by
        simp only [m2]
        split
        · exact setOwners_regs m kind us to_
        · exact setOwners_regs m kind us to_
      unfold rd
      rw [hr]
    split
    · exact h1.trans (actFollow_kept m2)
    · exact h1

end Mach

/-! ## ASSIGN (R367) -/

section
variable (s : State) (h : CmdHdr) (kind : Nat) (dest : Fin 8) (first count : Nat)

theorem assign_rejects (hf : s.fetchable h.fn = true) (hp : s.preCheck h 0x80 = none) :
    ∀ code ∈ s.assignJudge kind first count dest, Rejects (.assign h kind dest first count) h 0x80 code s := by
  intro code hc
  refine command_rejects (s := s) (op := 0x80) rfl hf ?_
  rw [hp, Mach.assignJudge_fetch]
  exact hc

/-- What an ASSIGN that passes its checks makes of the owners. -/
theorem assigned_own {m : Mach} (owed : Nat × Nat) (hown : m.own = s.own) (hj : s.assignJudge kind first count dest = none) :
    (∀ u ∈ Mach.unitsOf first count, (m.moveUnits kind first count dest (some owed)).ownerOf kind u = some dest) ∧
    (kind ≠ 7 → kind ≠ 3 → ∀ u ∈ Mach.unitsOf first count, s.ownerOf kind u ≠ some dest →
      ({ kind := kind, unit := u, owed := some owed } : Wash) ∈ (m.moveUnits kind first count dest (some owed)).own.washes) ∧
    (kind = 3 → ∀ u ∈ Mach.unitsOf first count, ¬ ((s.own.part.get dest).1 ≤ u ∧ u < (s.own.part.get dest).1 + (s.own.part.get dest).2) →
      ∃ w ∈ (m.moveUnits kind first count dest (some owed)).own.washes, w.kind = 3 ∧ w.unit ≤ u ∧ u < w.unit + w.count ∧ w.owed = some owed) ∧
    (∀ w ∈ s.own.washes, w ∈ (m.moveUnits kind first count dest (some owed)).own.washes) := by
  obtain ⟨h7, hgran⟩ := Mach.assignJudge_none hj
  by_cases h3 : kind = 3
  · subst h3
    refine ⟨Mach.moveSlots_owns, fun _ h => absurd rfl h, fun _ u hu ho => ?_, fun w hw => ?_⟩
    · obtain ⟨h1, h2⟩ := Mach.unitsOf_lt.mp hu
      obtain ⟨r, hr, hr1, hr2⟩ := Mach.outsidePart_covers h1 h2 ho
      rw [Mach.moveSlots_own, hown]
      exact ⟨_, List.mem_append_right _ (List.mem_map.mpr ⟨r, hr, rfl⟩), rfl, hr1, hr2, rfl⟩
    · rw [Mach.moveSlots_own, hown]
      exact List.mem_append_left _ hw
  · refine ⟨Mach.moveUnits_owns h3 h7 fun hk u hu => ?_, fun hk _ u hu ho => ?_, fun hk => absurd hk h3, fun w hw => ?_⟩
    · have hne := hgran hk u hu
      rw [Ne, Mach.granOwner_none_iff, Bool.not_eq_true] at hne
      exact hne
    · rw [Mach.moveUnits_own h3]
      refine List.mem_append_right _ ?_
      unfold Mach.movedWashes Mach.movedUnits
      rw [if_neg hk]
      refine List.mem_map.mpr ⟨u, List.mem_filter.mpr ⟨hu, ?_⟩, rfl⟩
      have heq : m.ownerOf kind u = s.ownerOf kind u := by
        unfold Mach.ownerOf Mach.granOwner
        rw [hown]
      simpa [heq] using ho
    · rw [Mach.moveUnits_own h3, hown]
      exact List.mem_append_left _ hw

/-- A completion that ends a command of function 0 leaves what a fetch changed. -/
theorem Fetches.of_endOnly {h : CmdHdr} {f : Fin 8} {a b t : Mach} (hb : Fetches h a b) (ht : EndOnly f b t) : Fetches h a t := by
  have hfn : (t.fn.get h.fn).cseq = (b.fn.get h.fn).cseq ∧ (t.fn.get h.fn).rings.get 0 = (b.fn.get h.fn).rings.get 0 := by
    by_cases hf : h.fn = f
    · rw [hf]
      exact ⟨by rw [ht.own], ht.rings 0 (by decide)⟩
    · rw [ht.others h.fn hf]
      exact ⟨rfl, rfl⟩
  obtain ⟨h1, h2, h3⟩ := hb
  have hregs : t.regs = b.regs := ht.parts .regs (by decide)
  refine ⟨?_, by rw [hfn.1, h2], by rw [Mach.g_of_regs hregs, h3]⟩
  rw [← h1]
  exact congrArg Ring.count hfn.2

/-- An effect that leaves the function's page, the command unit's counters, its rings and its CSEQ. -/
theorem Fetched.effect_kept {f : Fin 8} {a b c : Mach} (h : Fetched f a b) (hr : Mach.PagesKept b c) (hf : c.fn = b.fn) : Fetched f a c := by
  have ring : ∀ r, c.ring f r = b.ring f r := fun r => by unfold Mach.ring; rw [hf]
  have hpage : fnPage f < 0x100000 ∨ 0x1000000 ≤ fnPage f := by unfold fnPage; split <;> omega
  refine ⟨by rw [ring]; exact h.head, by rw [hf]; exact h.cseq, by rw [hr.g _ (by decide)]; exact h.fetched, (ring 1).trans h.cpl, ?_, ?_⟩
  · rw [← h.cplEn]
    unfold Mach.ringEn Mach.on
    rw [hr.g _ (by simp only [R.HIF_F_RING_CFG_EN]; omega)]
  · rw [← h.cplSize]
    unfold Mach.ringSize
    rw [hr.g _ (by simp only [R.HIF_F_RING_CFG_SZ]; omega)]

theorem assignDone_endOnly (cseq ctag : Nat) (m : Mach) : EndOnly 0 m (m.assignDone cseq ctag) := by
  unfold Mach.assignDone
  split
  · exact .refl m
  · exact Mach.done_endOnly 0 0x80 ctag cseq 0 0 [] m

theorem assign_accepts (hf : s.fetchable h.fn = true) (hp : s.preCheck h 0x80 = none) (hj : s.assignJudge kind first count dest = none) :
    Accepts (.assign h kind dest first count) h 0x80 0 0 s fun t =>
      (∀ u ∈ Mach.unitsOf first count, t.ownerOf kind u = some dest) ∧
      (kind ≠ 7 → kind ≠ 3 → ∀ u ∈ Mach.unitsOf first count, s.ownerOf kind u ≠ some dest →
        ({ kind := kind, unit := u, owed := some ((s.fn.get h.fn).cseq, h.ctag) } : Wash) ∈ t.own.washes) ∧
      (kind = 3 → ∀ u ∈ Mach.unitsOf first count, ¬ ((s.own.part.get dest).1 ≤ u ∧ u < (s.own.part.get dest).1 + (s.own.part.get dest).2) →
        ∃ w ∈ t.own.washes, w.kind = 3 ∧ w.unit ≤ u ∧ u < w.unit + w.count ∧ w.owed = some ((s.fn.get h.fn).cseq, h.ctag)) ∧
      (∀ w ∈ s.own.washes, w ∈ t.own.washes) ∧ t.dram = s.dram ∧ t.port = s.port ∧ t.eng = s.eng ∧ OnlyIn [.regs, .jnl, .sleep, .fn, .own, .out] s.toMach t := by
  have htaken : (s.taken h true).own = s.own := Mach.taken_onlyIn h true s.toMach .own (by decide)
  have hown := assigned_own s kind dest first count ((s.fn.get h.fn).cseq, h.ctag) htaken hj
  have hwithin := Mach.moveUnits_within kind first count dest (some ((s.fn.get h.fn).cseq, h.ctag)) (s.taken h true)
  have hfetched := (Mach.taken_fetched h true s.toMach).effect_kept
    (Mach.moveUnits_kept kind first count dest (some ((s.fn.get h.fn).cseq, h.ctag)) (s.taken h true)) (hwithin.keeps .fn)
  have hrej : ((s.taken h true).moveUnits kind first count dest (some ((s.fn.get h.fn).cseq, h.ctag))).g R.HIF_CMD_REJECTED = s.g R.HIF_CMD_REJECTED :=
    (Mach.PagesKept.g (Mach.moveUnits_kept kind first count dest _ (s.taken h true)) _ (by decide)).trans (Mach.taken_g h true _ R.HIF_CMD_REJECTED (by decide))
  have hparts := (Mach.assignCmd_within h kind dest first count s.toMach).parts
  have hdef := Mach.command_accepted (op := 0x80) (owes := true) (judge := fun t => t.assignJudge kind first count dest)
    (accept := fun cseq t => { m := t.moveUnits kind first count dest (some (cseq, h.ctag)), after := fun u => u.assignDone cseq h.ctag })
    hf hp ((Mach.assignJudge_fetch h.fn s.toMach kind first count dest).trans hj)
  change s.assignCmd h kind dest first count = _ at hdef
  dsimp only at hdef
  rw [hdef] at hparts
  have hcpl := Mach.cplWrite_cplOnly h.fn (s.firstCpl h 0x80 St.accepted 0 0) ((s.taken h true).moveUnits kind first count dest (some ((s.fn.get h.fn).cseq, h.ctag)))
  have hmem := hfetched.cplOf_mem (Mach.ringEn_of_fetchable hf) 0x80 St.accepted 0 0
  generalize (s.taken h true).moveUnits kind first count dest (some ((s.fn.get h.fn).cseq, h.ctag)) = m1 at *
  have hfet := hfetched.fetches hcpl
  generalize m1.cplWrite h.fn (s.firstCpl h 0x80 St.accepted 0 0) = m2 at *
  have hend := assignDone_endOnly (s.fn.get h.fn).cseq h.ctag m2
  have howns : (m2.assignDone (s.fn.get h.fn).cseq h.ctag).own = m1.own := (hend.parts .own (by decide)).trans (hcpl.parts .own (by decide))
  have howner : ∀ u, (m2.assignDone (s.fn.get h.fn).cseq h.ctag).ownerOf kind u = m1.ownerOf kind u := fun u => by
    unfold Mach.ownerOf Mach.granOwner
    rw [howns]
  have hdram := hparts .dram (by decide)
  have hport := hparts .port (by decide)
  have heng := hparts .eng (by decide)
  refine does_of_act (f := Mach.assignCmd h kind dest first count) rfl hdef ⟨hfet.of_endOnly hend, hend.out _ hmem, ?_, ?_, ?_, ?_, ?_, hdram, hport, heng, hparts.mono (by decide)⟩
  · rw [Mach.g_of_regs (hend.parts .regs (by decide)), hcpl.g, hrej]
  · exact fun u hu => (howner u).trans (hown.1 u hu)
  · rw [howns]
    exact hown.2.1
  · rw [howns]
    exact hown.2.2.1
  · rw [howns]
    exact hown.2.2.2

end

end Sys2Proof.Machine

namespace Sys2Proof.Machine

set_option Elab.async false

namespace Mach

/-! ## What a wash leaves (R369) -/

/-- A vat that is discarded leaves the port's control interface and its flush. -/
theorem discardVat_port (p : Fin 16) (m : Mach) :
    ((m.discardVat p true).port.get p).sci = (m.port.get p).sci ∧ ((m.discardVat p true).port.get p).flushPend = (m.port.get p).flushPend ∧
      ((m.discardVat p true).port.get p).flushOwed = (m.port.get p).flushOwed := by
  unfold discardVat
  extract_lets x m1 inRead committed m2 m3 m4
  rw [if_neg (by decide), evalFc_port]
  have h4 : m4.port = m1.port := by
    have h3 : Within [.regs, .tick] m1 m3 := Within.loop (fun k t => (lostPacket_within p k t).mono) (addTo_within _ _ m1).mono
    simp only [m4]
    split
    · split
      · exact h3.keeps .port
      · exact ((lostRaw_within p m3).keeps .port).trans (h3.keeps .port)
    · exact h3.keeps .port
  rw [h4]
  simp only [m1, onPort_get_self, and_self]

section
variable {w : Wash} {m : Mach}

/-- A port is as after reset, but for its control interface and a pending flush. -/
theorem washUnit_port (hk : w.kind = 0) :
    (let x := m.port.get (Fin.ofNat 16 w.unit);
      (m.washUnit w).port.get (Fin.ofNat 16 w.unit) = { sci := x.sci, flushPend := x.flushPend, flushOwed := x.flushOwed }) ∧
      (m.washUnit w).fe.get (Fin.ofNat 16 w.unit) = {} ∧ ((m.washUnit w).fus.homs.get (Fin.ofNat 16 w.unit)).cur = {} := by
  obtain ⟨h1, h2, h3⟩ := discardVat_port (Fin.ofNat 16 w.unit) m
  dsimp only
  rw [← h1, ← h2, ← h3]
  unfold washUnit
  rw [hk]
  dsimp only
  exact ⟨vput_get_self _ _ _, vput_get_self _ _ _, congrArg Versioned.cur (vput_get_self _ _ _)⟩

/-- A wash of any other unit than a granule or a region leaves DRAM. -/
theorem washUnit_dram (h2 : w.kind ≠ 2) (h8 : w.kind ≠ 8) : (m.washUnit w).dram = m.dram := by
  unfold washUnit
  extract_lets u
  split
  · have h := (discardVat_within (Fin.ofNat 16 u) true m).keeps .dram
    exact h
  · rfl
  next h => exact absurd h h2
  · rfl
  · rfl
  · rfl
  · rfl
  next h => exact absurd h h8
  · rfl

/-- A wash takes no time. -/
theorem washUnit_time : (m.washUnit w).time.n = m.time.n := by
  unfold washUnit
  extract_lets u
  split
  · have h := (discardVat_within (Fin.ofNat 16 u) true m).keeps .time
    exact congrArg (fun t => t.n) h
  all_goals rfl

theorem washUnit_eng (hk : w.kind = 1) :
    (m.washUnit w).eng.get (Fin.ofNat 72 w.unit) = { m.eng.get (Fin.ofNat 72 w.unit) with sram := [], holds := none } := by
  unfold washUnit
  rw [hk]
  exact vmod_get_self _ _ _

theorem washUnit_granule (hk : w.kind = 2) : (m.washUnit w).dram = Tab.clearRange m.dram (w.unit * 2 ^ 21) ((w.unit + 1) * 2 ^ 21) := by
  unfold washUnit
  rw [hk]
  rfl

theorem washUnit_region (hk : w.kind = 8) : (m.washUnit w).dram = Tab.clearRange m.dram (w.unit * 2 ^ 30) ((w.unit + 1) * 2 ^ 30) := by
  unfold washUnit
  rw [hk]
  rfl

theorem washUnit_slots (hk : w.kind = 3) : (m.washUnit w).fus.store = Tab.clearRange m.fus.store w.unit (w.unit + w.count) := by
  unfold washUnit
  rw [hk]
  rfl

theorem washUnit_trig (hk : w.kind = 5) : (m.washUnit w).time.trigOut.get (Fin.ofNat 8 w.unit) = {} := by
  unfold washUnit
  rw [hk]
  exact vmod_get_self _ _ _

theorem washUnit_dest (hk : w.kind = 6) : (m.washUnit w).net.dests.get (Fin.ofNat 8 w.unit) = {} := by
  unfold washUnit
  rw [hk]
  exact vmod_get_self _ _ _

end

/-- The washes of a unit are over. -/
def washOver (kind unit : Nat) (m : Mach) : Mach := m.onOwn fun o => { o with washes := o.washes.filter fun x => !(x.kind == kind && x.unit == unit) }

/-- A wash that is done leaves its unit washed; beside it only the completion of the ASSIGN is written. -/
theorem washDone_spec {kind unit : Nat} {w : Wash} {m : Mach} (h : m.own.washes.find? (fun w => w.kind == kind && w.unit == unit) = some w) :
    EndOnly 0 (washOver kind unit (m.washUnit w)) (m.washDone kind unit) := by
  unfold washDone
  rw [h]
  dsimp only
  split
  · exact assignDone_endOnly _ _ _
  · exact .refl _

end Mach

section
variable (s : State) (kind unit : Nat)

theorem washDone_idle (h : s.own.washes.any (fun w => w.kind == kind && w.unit == unit) = false) : Idles (.washDone kind unit) s := by
  refine idles_of_act (f := Mach.washDone kind unit) rfl ?_
  unfold Mach.washDone
  rw [List.find?_eq_none.mpr]
  rw [List.any_eq_false] at h
  exact h

theorem washDone_washes {w : Wash} (h : s.own.washes.find? (fun w => w.kind == kind && w.unit == unit) = some w) :
    Does (.washDone kind unit) s fun t =>
      t.own.washes.any (fun w => w.kind == kind && w.unit == unit) = false ∧
      (kind = 0 → (let x := s.port.get (Fin.ofNat 16 unit)
        t.port.get (Fin.ofNat 16 unit) = { sci := x.sci, flushPend := x.flushPend, flushOwed := x.flushOwed }) ∧ t.fe.get (Fin.ofNat 16 unit) = {} ∧
          (t.fus.homs.get (Fin.ofNat 16 unit)).cur = {}) ∧
      (kind = 1 → t.eng.get (Fin.ofNat 72 unit) = { s.eng.get (Fin.ofNat 72 unit) with sram := [], holds := none }) ∧
      (kind = 5 → t.time.trigOut.get (Fin.ofNat 8 unit) = {}) ∧
      (kind = 6 → t.net.dests.get (Fin.ofNat 8 unit) = {}) ∧
      (kind = 3 → ∀ e ∈ t.fus.store, e.1 < unit ∨ unit + w.count ≤ e.1) ∧
      (kind = 2 → t.dram = Tab.clearRange s.dram (unit * 2 ^ 21) ((unit + 1) * 2 ^ 21)) ∧
      (kind = 8 → t.dram = Tab.clearRange s.dram (unit * 2 ^ 30) ((unit + 1) * 2 ^ 30)) ∧
      (kind ≠ 2 → kind ≠ 8 → t.dram = s.dram) ∧ t.own = { s.own with washes := t.own.washes } ∧ t.time.n = s.time.n ∧
      OnlyIn [.regs, .time, .tick, .port, .fe, .eng, .fus, .jnl, .fn, .own, .net, .dram, .cache, .ueLines, .out] s.toMach t := by
  have hend := (Mach.washDone_spec h).parts
  have hparts := (Mach.washDone_within kind unit s.toMach).parts
  obtain ⟨hk, hu⟩ : w.kind = kind ∧ w.unit = unit := by simpa using List.find?_some h
  subst hk hu
  have hown : (s.washUnit w).own = s.own := (Mach.washUnit_within w s.toMach).keeps .own
  have howns : (s.washDone w.kind w.unit).own = { s.own with washes := s.own.washes.filter fun x => !(x.kind == w.kind && x.unit == w.unit) } := by
    rw [← hown]
    exact hend .own (by decide)
  have hport : (s.washDone w.kind w.unit).port = (s.washUnit w).port := hend .port (by decide)
  have hfe : (s.washDone w.kind w.unit).fe = (s.washUnit w).fe := hend .fe (by decide)
  have hfus : (s.washDone w.kind w.unit).fus = (s.washUnit w).fus := hend .fus (by decide)
  have heng : (s.washDone w.kind w.unit).eng = (s.washUnit w).eng := hend .eng (by decide)
  have htime : (s.washDone w.kind w.unit).time = (s.washUnit w).time := hend .time (by decide)
  have hnet : (s.washDone w.kind w.unit).net = (s.washUnit w).net := hend .net (by decide)
  have hdram : (s.washDone w.kind w.unit).dram = (s.washUnit w).dram := hend .dram (by decide)
  refine does_of_act (f := Mach.washDone w.kind w.unit) rfl rfl ⟨?_, fun hk => ?_, fun hk => ?_, fun hk => ?_, fun hk => ?_, fun hk e he => ?_, fun hk => ?_, fun hk => ?_,
    fun h2 h8 => ?_, by rw [howns], ?_, hparts.mono (by decide)⟩
  · rw [howns, List.any_eq_false]
    intro x hx
    simpa [imp_iff_not_or] using (List.mem_filter.mp hx).2
  · rw [hport, hfe, hfus]
    exact Mach.washUnit_port hk
  · rw [heng]
    exact Mach.washUnit_eng hk
  · rw [htime]
    exact Mach.washUnit_trig hk
  · rw [hnet]
    exact Mach.washUnit_dest hk
  · rw [hfus, Mach.washUnit_slots hk] at he
    have h2 := (List.mem_filter.mp he).2
    simp only [Bool.not_eq_true', Bool.and_eq_false_iff, decide_eq_false_iff_not] at h2
    omega
  · rw [hdram, Mach.washUnit_granule hk]
  · rw [hdram, Mach.washUnit_region hk]
  · rw [hdram, Mach.washUnit_dram h2 h8]
  · rw [htime, Mach.washUnit_time]

end

end Sys2Proof.Machine

namespace Sys2Proof.Machine

set_option Elab.async false

namespace Mach

/-! ## A function-level reset (R386, R387) -/

/-- Function g's reset has begun at instant el: its rings are stopped and its changes cancelled. -/
structure Stopped (g : Fin 8) (el : Int) (t : Mach) : Prop where
  busy : (t.fn.get g).flrBusy = true
  edge : (t.fn.get g).flrEdge = true
  at_ : (t.fn.get g).flrAt = some el
  rings : ∀ r : Fin 7, t.ringEn g r = false
  pending : ∀ p ∈ t.tick.pending, p.fn ≠ g

/-- Changes that are cancelled are answered, and nothing else is. -/
theorem cancelPending_spec (f : Fin 8) (m : Mach) :
    EndOnly f (m.onTick fun t => { t with pending := t.pending.filter fun p => !(p.fn == f) }) (m.cancelPending fun p => p.fn == f) := by
  refine forEach_mem (EndOnly f _) _ _ (fun q hq t ht => ht.trans ?_) _ (.refl _)
  have hf : q.fn = f := by simpa using (List.mem_filter.mp hq).2
  unfold donePending
  rw [hf]
  exact done_endOnly f _ _ _ _ _ _ t

section
variable (f : Fin 8) (m : Mach)

/-- The rings' enables and the moderation of a function are the registers that stop with it. -/
theorem stopRings_rd {off : Nat} (h : off < fnPage f ∨ fnPage f + 0x300 ≤ off) : (m.stopRings f).rd off = m.rd off := by
  unfold stopRings
  extract_lets m1 m2
  have h2 : m2.rd off = m.rd off := forEach_keeps (fun t => t.rd off = m.rd off) _ _
    (fun r t ht => (rd_put_ne t _ _ (by simp only [R.HIF_F_RING_CFG_EN]; omega)).trans ht) m1 rfl
  exact forEach_keeps (fun t => t.rd off = m.rd off) _ _ (fun (v : Fin 6) t ht => (rd_wr_ne t (regReset (R.HIF_F_MOD_A f v)) (show off ≠ R.HIF_F_MOD_A f v by simp only [R.HIF_F_MOD_A]; omega)).trans ht) m2 h2

theorem stopRings_off (r : Fin 7) : (m.stopRings f).ringEn f r = false := by
  unfold stopRings
  extract_lets m1 m2
  have h2 : m2.g (R.HIF_F_RING_CFG_EN f r) = 0 := by
    refine forEach_reaches (fun (r : Fin 7) t => t.g (R.HIF_F_RING_CFG_EN f r) = 0) (List.finRange 7) _ (fun r t => ?_) (fun r k t ht => ?_) m1 r (List.mem_finRange r)
    · exact g_clr t _ (by simp only [R.HIF_F_RING_CFG_EN]; decide) (by simp only [R.HIF_F_RING_CFG_EN]; decide)
    · by_cases hk : k = r
      · rw [hk]
        exact g_clr t _ (by simp only [R.HIF_F_RING_CFG_EN]; decide) (by simp only [R.HIF_F_RING_CFG_EN]; decide)
      · have hne : k.1 ≠ r.1 := fun h => hk (Fin.ext h)
        exact (g_put_ne t _ _ _ (by simp only [R.HIF_F_RING_CFG_EN]; omega)).trans ht
  have h3 : ∀ t : Mach, t.g (R.HIF_F_RING_CFG_EN f r) = 0 → t.ringEn f r = false := fun t ht => by
    unfold ringEn on
    rw [ht]
    rfl
  refine h3 _ (forEach_keeps (fun t => t.g (R.HIF_F_RING_CFG_EN f r) = 0) _ _ (fun v t ht => ?_) m2 h2)
  rw [← ht]
  unfold g
  rw [rd_wr_ne t _ (by simp only [R.HIF_F_RING_CFG_EN, R.HIF_F_MOD_A]; omega)]

/-- The state in which a function's reset has stopped its rings. -/
def flrStopped (f : Fin 8) (m : Mach) : Mach := (m.stopRings f).onFn f fun x => { x with flrBusy := true, flrAt := some m.elapsed, flrEdge := true }

theorem flrStart_eq (h : (m.fn.get f).flrBusy = false) : m.flrStart f = ((m.flrStopped f).cancelPending fun p => p.fn == f).inc R.HIF_FLR_COUNT := by
  unfold flrStart
  rw [if_neg (by simp [h])]
  rfl

theorem flrStart_busy (h : (m.fn.get f).flrBusy = true) : m.flrStart f = m := if_pos h

theorem flrStopped_within : Within [.regs, .fn] m (m.flrStopped f) := (onFn_within _ _ _).after (stopRings_within f m).mono

theorem flrStopped_fn_ne {g : Fin 8} (h : g ≠ f) : (m.flrStopped f).fn.get g = m.fn.get g := by
  unfold flrStopped
  rw [onFn_fn, vmod_get_ne _ _ h]
  unfold stopRings
  extract_lets m1 m2
  have h2 : Within [.regs] m1 (forEach (List.finRange 6) (fun (v : Fin 6) t => t.wr (R.HIF_F_MOD_A f v) (regReset (R.HIF_F_MOD_A f v))) m2) :=
    .loop (fun v t => wr_within _ _ t) (.loop (fun r t => clr_within _ t) (.refl _ _))
  rw [show Mach.fn _ = _ from h2.keeps .fn]
  exact vmod_get_ne _ _ h

theorem flrStopped_tick : (m.flrStopped f).tick = m.tick := Within.keeps (flrStopped_within f m) .tick (by decide)

/-- What is left once the changes are cancelled: nothing of the function's, and everything else. -/
theorem cancelled_tick : (m.cancelPending fun p => p.fn == f).tick.pending = m.tick.pending.filter fun p => !(p.fn == f) := by
  have ht := (cancelPending_spec f m).parts .tick (by decide)
  rw [Part.same, onTick_tick] at ht
  rw [ht]

theorem cancelled_regs : (m.cancelPending fun p => p.fn == f).regs = m.regs := by
  have ht := (cancelPending_spec f m).parts .regs (by decide)
  rw [Part.same, onTick_regs] at ht
  exact ht

theorem cancelled_fn_ne {g : Fin 8} (h : g ≠ f) : (m.cancelPending fun p => p.fn == f).fn.get g = m.fn.get g := by
  rw [(cancelPending_spec f m).others g h, onTick_fn]

theorem cancelled_fn {x : Func} (hx : m.fn.get f = x) :
    ((m.cancelPending fun p => p.fn == f).fn.get f).flrBusy = x.flrBusy ∧ ((m.cancelPending fun p => p.fn == f).fn.get f).flrEdge = x.flrEdge ∧
      ((m.cancelPending fun p => p.fn == f).fn.get f).flrAt = x.flrAt := by
  rw [(cancelPending_spec f m).own, onTick_fn, hx]
  exact ⟨rfl, rfl, rfl⟩

theorem inc_rd_ne (m : Mach) {f : Fld} {off : Nat} (h : off ≠ f.a) : (m.inc f).rd off = m.rd off := rd_put_ne m f _ h

/-- What a function's reset leaves behind. -/
structure ResetBegun (f : Fin 8) (a b : Mach) : Prop where
  stopped : (a.fn.get f).flrBusy = false → Stopped f a.elapsed b
  busy : (b.fn.get f).flrBusy = true
  count : (a.fn.get f).flrBusy = false → b.g R.HIF_FLR_COUNT = (a.g R.HIF_FLR_COUNT + 1) % 2 ^ 32
  others : ∀ g, g ≠ f → b.fn.get g = a.fn.get g
  shrinks : ∀ p ∈ b.tick.pending, p ∈ a.tick.pending
  keeps : ∀ p ∈ a.tick.pending, p.fn ≠ f → p ∈ b.tick.pending
  pages : ∀ off, off ≠ R.HIF_FLR_COUNT.a → off < fnPage f ∨ fnPage f + 0x300 ≤ off → b.rd off = a.rd off
  parts : OnlyIn [.regs, .tick, .jnl, .fn, .out] a b

theorem flrStart_begun : ResetBegun f m (m.flrStart f) := by
  have hparts := (flrStart_within f m).parts
  by_cases hb : (m.fn.get f).flrBusy = true
  · rw [flrStart_busy f m hb] at hparts ⊢
    exact ⟨fun h => absurd (hb.symm.trans h) (by decide), hb, fun h => absurd (hb.symm.trans h) (by decide), fun _ _ => rfl, fun _ h => h, fun _ h _ => h,
      fun _ _ _ => rfl, hparts⟩
  · have hf : (m.fn.get f).flrBusy = false := by simpa using hb
    rw [flrStart_eq f m hf] at hparts ⊢
    have hself : ((m.flrStopped f).fn.get f).flrBusy = true ∧ ((m.flrStopped f).fn.get f).flrEdge = true ∧ ((m.flrStopped f).fn.get f).flrAt = some m.elapsed := by
      unfold flrStopped
      rw [onFn_fn, vmod_get_self]
      exact ⟨rfl, rfl, rfl⟩
    have hne := fun g (h : g ≠ f) => flrStopped_fn_ne f m h
    have hoff : ∀ r, (m.flrStopped f).ringEn f r = false := fun r => by
      unfold flrStopped ringEn
      rw [onFn_on]
      exact stopRings_off f m r
    have hrd : ∀ off, off < fnPage f ∨ fnPage f + 0x300 ≤ off → (m.flrStopped f).rd off = m.rd off := fun off ho => by
      unfold flrStopped
      rw [onFn_rd, stopRings_rd f m ho]
    have htick := flrStopped_tick f m
    generalize m.flrStopped f = m1 at *
    have hregs := cancelled_regs f m1
    have hpend := cancelled_tick f m1
    rw [htick] at hpend
    have hothers : ∀ g, g ≠ f → (m1.cancelPending fun p => p.fn == f).fn.get g = m.fn.get g := fun g hg => (cancelled_fn_ne f m1 hg).trans (hne g hg)
    have hown := cancelled_fn f m1 rfl
    rw [hself.1, hself.2.1, hself.2.2] at hown
    generalize (m1.cancelPending fun p => p.fn == f) = m2 at *
    have hmem : ∀ p, p ∈ m2.tick.pending ↔ p ∈ m.tick.pending ∧ p.fn ≠ f := fun p => by simp [hpend]
    have hpage := fnPage_ge f
    have hrd2 : ∀ off, off ≠ R.HIF_FLR_COUNT.a → (m2.inc R.HIF_FLR_COUNT).rd off = m1.rd off := fun off ho => by
      rw [inc_rd_ne m2 ho]
      unfold rd
      rw [hregs]
    have hfn : (m2.inc R.HIF_FLR_COUNT).fn = m2.fn := inc_fn m2 _
    have htk : (m2.inc R.HIF_FLR_COUNT).tick = m2.tick := inc_tick m2 _
    refine ⟨fun _ => ⟨by rw [hfn]; exact hown.1, by rw [hfn]; exact hown.2.1, by rw [hfn]; exact hown.2.2, fun r => ?_, fun p hp => ((hmem p).mp (htk ▸ hp)).2⟩,
      by rw [hfn]; exact hown.1, fun _ => ?_, by rw [hfn]; exact hothers, fun p hp => ((hmem p).mp (htk ▸ hp)).1,
      fun p hp hpf => htk ▸ (hmem p).mpr ⟨hp, hpf⟩, fun off ho hop => (hrd2 off ho).trans (hrd off hop), hparts⟩
    · rw [← hoff r]
      unfold ringEn on g
      rw [hrd2 _ (by simp only [R.HIF_F_RING_CFG_EN, R.HIF_FLR_COUNT]; omega)]
    · rw [g_inc_word _ _ rfl rfl, g_of_regs hregs]
      unfold g
      rw [hrd _ (by simp only [R.HIF_FLR_COUNT]; omega)]

end

/-- A reset that has begun stays so while another function's begins. -/
theorem Stopped.kept {g f : Fin 8} {el : Int} {a b : Mach} (h : Stopped g el a) (hb : ResetBegun f a b) (hne : g ≠ f) : Stopped g el b := by
  obtain ⟨h1, h2, h3, h4, h5⟩ := h
  refine ⟨by rw [hb.others g hne]; exact h1, by rw [hb.others g hne]; exact h2, by rw [hb.others g hne]; exact h3, fun r => ?_, fun p hp => h5 p (hb.shrinks p hp)⟩
  have hgf : g.1 ≠ f.1 := fun he => hne (Fin.ext he)
  have hpg := fnPage_ge g
  rw [← h4 r]
  unfold ringEn on Mach.g
  rw [hb.pages _ (by simp only [R.HIF_F_RING_CFG_EN, R.HIF_FLR_COUNT]; omega) ?_]
  simp only [R.HIF_F_RING_CFG_EN, fnPage]
  split <;> split <;> omega

/-- The resets of a list of functions begin, one after another. -/
def flrStarts (fs : List (Fin 8)) (m : Mach) : Mach := forEach fs (fun g t => t.flrStart g) m

/-- How the resets stand, while they begin. -/
def Stopping (a t : Mach) : Prop := ∀ g : Fin 8, ((a.fn.get g).flrBusy = false → (t.fn.get g).flrBusy = false ∨ Stopped g a.elapsed t) ∧
  ((a.fn.get g).flrBusy = true → (t.fn.get g).flrBusy = true)

theorem Stopping.begins {a t : Mach} (h : Stopping a t) (hel : t.elapsed = a.elapsed) (f : Fin 8) : Stopping a (t.flrStart f) := by
  intro g
  have hb := flrStart_begun f t
  by_cases hg : g = f
  · subst hg
    refine ⟨fun hf => ?_, fun _ => hb.busy⟩
    cases ht : (t.fn.get g).flrBusy
    · exact .inr (hel ▸ hb.stopped ht)
    · rw [flrStart_busy g t ht]
      exact (h g).1 hf
  · obtain ⟨h1, h2⟩ := h g
    rw [hb.others g hg]
    exact ⟨fun hf => (h1 hf).imp id fun hs => hs.kept hb hg, h2⟩

theorem flrStarts_spec (fs : List (Fin 8)) (m : Mach) :
    (∀ g ∈ fs, ((flrStarts fs m).fn.get g).flrBusy = true ∧ ((m.fn.get g).flrBusy = false → Stopped g m.elapsed (flrStarts fs m))) ∧
      (∀ g, g ∉ fs → (flrStarts fs m).fn.get g = m.fn.get g) ∧ OnlyIn [.regs, .tick, .jnl, .fn, .out] m (flrStarts fs m) := by
  have hel : ∀ (f : Fin 8) (t : Mach), (t.flrStart f).elapsed = t.elapsed := fun f t => by
    unfold elapsed
    rw [(flrStart_begun f t).parts .time (by decide)]
  refine ⟨?_, fun g hg => ?_, ?_⟩
  · refine forEach_reaches_of (fun t => t.elapsed = m.elapsed ∧ Stopping m t)
      (fun g t => (t.fn.get g).flrBusy = true ∧ ((m.fn.get g).flrBusy = false → Stopped g m.elapsed t)) fs _ (fun f t ht => ?_) (fun g t ht => ?_)
      (fun f g t ht hq => ?_) m ⟨rfl, fun g => ⟨.inl, id⟩⟩
    · exact ⟨(hel f t).trans ht.1, ht.2.begins ht.1 f⟩
    · have hb := flrStart_begun g t
      refine ⟨hb.busy, fun hf => (((ht.2.begins ht.1 g) g).1 hf).resolve_left ?_⟩
      rw [hb.busy]
      decide
    · have hb := flrStart_begun f t
      by_cases hg : g = f
      · subst hg
        rw [flrStart_busy g t hq.1]
        exact hq
      · exact ⟨by rw [hb.others g hg]; exact hq.1, fun hf => (hq.2 hf).kept hb hg⟩
  · exact forEach_mem (fun t => t.fn.get g = m.fn.get g) fs _ (fun f hf t ht => ((flrStart_begun f t).others g fun he => hg (he ▸ hf)).trans ht) m rfl
  · exact forEach_keeps (fun t => OnlyIn [.regs, .tick, .jnl, .fn, .out] m t) fs _ (fun f t ht => ht.trans (flrStart_begun f t).parts) m (OnlyIn.refl _ _)

end Mach

end Sys2Proof.Machine

namespace Sys2Proof.Machine

set_option Elab.async false

/-- A loop over members that each reach their own fact, and keep the others', reaches them all. -/
theorem forEach_reaches_mem {α σ : Type} (Q : α → σ → Prop) (xs : List α) (f : α → σ → σ) (h : ∀ x ∈ xs, ∀ s, Q x (f x s))
    (hk : ∀ x ∈ xs, ∀ y s, Q y s → Q y (f x s)) (s : σ) : ∀ x ∈ xs, Q x (forEach xs f s) := by
  induction xs generalizing s with
  | nil => exact fun x hx => absurd hx (by simp)
  | cons y r ih =>
    intro x hx
    rcases List.mem_cons.mp hx with rfl | hx
    · exact Mach.forEach_mem (Q x) r f (fun z hz t => hk z (by simp [hz]) x t) _ (h x (by simp) s)
    · exact ih (fun z hz => h z (by simp [hz])) (fun z hz => hk z (by simp [hz])) _ x hx

namespace Mach

/-! ## The VFs' resources return to FN0 (R366) -/

/-- FN0 owns every unit but the granules that are not in the table g0, which it owned before. -/
structure PfOwns (g0 : List (Nat × Fin 8)) (t : Mach) : Prop where
  port : ∀ p : Fin 16, t.own.port.get p = 0
  eng : ∀ e : Fin 72, t.own.eng.get e = 0
  fmap : ∀ k : Fin 8, t.own.fmap.get k = 0
  trig : ∀ o : Fin 8, t.own.trig.get o = 0
  rrt : ∀ d : Fin 8, t.own.rrt.get d = 0
  tick : t.own.tick = 0
  gran : ∀ e ∈ g0, t.granOwner e.1 = some 0 ∨ t.granOwner e.1 = none
  part : t.own.part.get 0 = (0, 16384)

/-- The units of the VFs that no table lists. -/
def vfUnits (m : Mach) : Mach := forEach [0, 1, 4, 5, 6, 7] (fun k t => t.moveUnits k 0 (kindUnits k) 0 none) m

/-- The granules of the VFs. -/
def vfGranules (gs : List Nat) (m : Mach) : Mach := forEach gs (fun g t => t.moveUnits 2 g 1 0 none) m

theorem vfReturn_eq (m : Mach) : m.vfReturn = (m.vfUnits.vfGranules (m.vfUnits.own.gran.map (·.1))).moveUnits 3 0 16384 0 none := by
  simp only [vfReturn, vfUnits, vfGranules]

variable (m : Mach)

theorem mem_vfKinds {k : Nat} (h : k ∈ [0, 1, 4, 5, 6, 7]) : k ≠ 2 ∧ k ≠ 3 ∧ k ≤ 7 := by
  simp only [List.mem_cons, List.not_mem_nil, or_false] at h
  omega

theorem vfUnits_owns : ∀ k ∈ [0, 1, 4, 5, 6, 7], ∀ u < kindUnits k, m.vfUnits.ownerOf k u = some 0 := by
  refine forEach_reaches_mem (fun k t => ∀ u < kindUnits k, t.ownerOf k u = some 0) _ _ (fun k hk t u hu => ?_) (fun k hk j t ht u hu => ?_) m
  · obtain ⟨h2, h3, h7⟩ := mem_vfKinds hk
    exact moveUnits_owns h3 h7 (fun h => absurd h h2) u (unitsOf_lt.mpr ⟨by omega, by omega⟩)
  · exact (moveUnits_holds (mem_vfKinds hk).2.1 u).ownerOf (ht u hu)

theorem vfUnits_gran : m.vfUnits.own.gran = m.own.gran := by
  refine forEach_mem (fun t => t.own.gran = m.own.gran) _ _ (fun k hk t ht => ?_) m rfl
  obtain ⟨h2, h3, -⟩ := mem_vfKinds hk
  rw [← ht, moveUnits_own h3]
  exact setOwners_gran t _ 0 h2

theorem vfGranules_holds (gs : List Nat) (v : Nat) : Holds 0 v m.own (m.vfGranules gs).own :=
  forEach_keeps (fun t => Holds 0 v m.own t.own) gs _ (fun _ t ht => ht.trans (moveUnits_holds (by decide) v)) m (.refl v _)

theorem vfGranules_owns (gs : List Nat) : ∀ g ∈ gs, (m.vfGranules gs).granOwner g = some 0 ∨ (m.vfGranules gs).granOwner g = none := by
  have h : ∀ g ∈ gs, systemRegion (g / 512) = false → (m.vfGranules gs).ownerOf 2 g = some 0 := by
    refine forEach_reaches (fun g t => systemRegion (g / 512) = false → t.ownerOf 2 g = some 0) gs _ (fun g t hg => ?_) (fun x g t ht hg => ?_) m
    · refine moveUnits_owns (by decide) (by decide) (fun _ u hu => ?_) g (unitsOf_lt.mpr ⟨by omega, by omega⟩)
      obtain ⟨h1, h2⟩ := unitsOf_lt.mp hu
      rwa [show u = g by omega]
    · exact (moveUnits_holds (by decide) g).ownerOf (ht hg)
  intro g hg
  cases hs : systemRegion (g / 512)
  · exact .inl (h g hg hs)
  · exact .inr (granOwner_none_iff.mpr hs)

theorem vfReturn_owns : PfOwns m.own.gran m.vfReturn := by
  have hunits := vfUnits_owns m
  have hgran := vfGranules_owns m.vfUnits (m.vfUnits.own.gran.map (·.1))
  have hholds := vfGranules_holds m.vfUnits (m.vfUnits.own.gran.map (·.1))
  rw [vfReturn_eq]
  rw [vfUnits_gran] at hgran hholds ⊢
  generalize m.vfUnits.vfGranules _ = m2 at *
  have hown := moveSlots_own (m := m2) (first := 0) (count := 16384) (to_ := 0) (owed := none)
  have howner : ∀ k ∈ [0, 1, 4, 5, 6, 7], ∀ u < kindUnits k, m2.ownerOf k u = some 0 := fun k hk u hu => (hholds u).ownerOf (hunits k hk u hu)
  have hvat : ∀ {n : Nat} [NeZero n] (x : Vector (Fin 8) n) (i : Fin n), some (vat x i.1) = some 0 → x.get i = 0 := fun {n} _ x i h => by
    have h2 := Option.some.inj h
    unfold vat at h2
    rwa [Fin.ofNat_eq_cast, Fin.cast_val_eq_self] at h2
  refine ⟨fun p => ?_, fun e => ?_, fun k => ?_, fun o => ?_, fun d => ?_, ?_, fun e he => ?_, ?_⟩
  · rw [hown]
    exact hvat _ p (howner 0 (by decide) p.1 p.2)
  · rw [hown]
    exact hvat _ e (howner 1 (by decide) e.1 e.2)
  · rw [hown]
    exact hvat _ k (howner 4 (by decide) k.1 k.2)
  · rw [hown]
    exact hvat _ o (howner 5 (by decide) o.1 o.2)
  · rw [hown]
    exact hvat _ d (howner 6 (by decide) d.1 d.2)
  · rw [hown]
    exact Option.some.inj (howner 7 (by decide) 0 (by decide))
  · have h := hgran e.1 (List.mem_map_of_mem he)
    unfold granOwner at h ⊢
    rw [hown]
    exact h
  · rw [hown]
    dsimp only
    rw [ofFn_get8, if_pos rfl]

theorem vfReturn_kept : PagesKept m m.vfReturn := by
  rw [vfReturn_eq]
  refine PagesKept.trans (PagesKept.trans (b := m.vfUnits) ?_ ?_) (moveUnits_kept 3 0 16384 0 none _)
  · exact forEach_keeps (fun t => PagesKept m t) _ _ (fun k t ht => ht.trans (moveUnits_kept k 0 (kindUnits k) 0 none t)) m fun _ _ => rfl
  · exact forEach_keeps (fun t => PagesKept m.vfUnits t) _ _ (fun g t ht => ht.trans (moveUnits_kept 2 g 1 0 none t)) _ fun _ _ => rfl

theorem Stopped.vfReturn {g : Fin 8} {el : Int} {a : Mach} (h : Stopped g el a) : Stopped g el a.vfReturn := by
  obtain ⟨h1, h2, h3, h4, h5⟩ := h
  have hw := vfReturn_within a
  have hfn : a.vfReturn.fn = a.fn := hw.keeps .fn
  have htick : a.vfReturn.tick = a.tick := hw.keeps .tick
  refine ⟨by rw [hfn]; exact h1, by rw [hfn]; exact h2, by rw [hfn]; exact h3, fun r => ?_, by rw [htick]; exact h5⟩
  rw [← h4 r]
  unfold ringEn on
  rw [(vfReturn_kept a).g _ (by simp only [R.HIF_F_RING_CFG_EN, fnPage]; split <;> omega)]

/-- The functions of a list reset, and the VFs' resources return. -/
theorem flrStarts_vfReturn (fs : List (Fin 8)) :
    (∀ g ∈ fs, ((m.flrStarts fs).vfReturn.fn.get g).flrBusy = true ∧ ((m.fn.get g).flrBusy = false → Stopped g m.elapsed (m.flrStarts fs).vfReturn)) ∧
      (∀ g, g ∉ fs → (m.flrStarts fs).vfReturn.fn.get g = m.fn.get g) ∧ PfOwns m.own.gran (m.flrStarts fs).vfReturn ∧
      OnlyIn [.regs, .tick, .jnl, .fn, .own, .out] m (m.flrStarts fs).vfReturn := by
  obtain ⟨h1, h2, h3⟩ := flrStarts_spec fs m
  have hw := vfReturn_within (m.flrStarts fs)
  have hfn : (m.flrStarts fs).vfReturn.fn = (m.flrStarts fs).fn := hw.keeps .fn
  have hown : (m.flrStarts fs).own = m.own := h3 .own (by decide)
  refine ⟨fun g hg => ⟨?_, fun hf => ((h1 g hg).2 hf).vfReturn⟩, fun g hg => ?_, hown ▸ vfReturn_owns _, (h3.append hw.parts).mono (by decide)⟩
  · rw [hfn]
    exact (h1 g hg).1
  · rw [hfn]
    exact h2 g hg

end Mach

end Sys2Proof.Machine

namespace Sys2Proof.Machine

set_option Elab.async false

namespace Mach

/-! ## The commands of a function-level reset (R366, R386, R387) -/

section
variable (f : Fin 8) {s : State}

/-- A command acts on what the wake leaves; what it does to these parts is as if the package had been awake. -/
theorem stir3_fn (m : Mach) : (m.stir 3 0).fn = m.fn := (stir_roused 3 0 m (by decide)).parts .fn (by decide)

theorem stir3_own (m : Mach) : (m.stir 3 0).own = m.own := (stir_roused 3 0 m (by decide)).parts .own (by decide)

theorem stir3_elapsed (m : Mach) : (m.stir 3 0).elapsed = m.elapsed := by
  unfold elapsed
  rw [show (m.stir 3 0).time = m.time from (stir_roused 3 0 m (by decide)).parts .time (by decide)]

/-- The reset of a VF that has begun changes nothing. -/
theorem flr_busy (h0 : f ≠ 0) (h : (s.fn.get f).flrBusy = true) :
    (s.Awake ∨ s.sleep.state = 3 → Idles (.flr f) s) ∧ Does (.flr f) s fun t => t.fn = s.fn ∧ t.own = s.own ∧ Stirred [] s.toMach t := by
  have hr := stir_roused 3 0 s.toMach (by decide)
  have hf : (s.toMach.stir 3 0).flr f = s.toMach.stir 3 0 := by
    unfold flr
    rw [if_neg h0, flrStart_busy f _ (by rw [stir3_fn]; exact h)]
  exact ⟨fun hc => idles_of_act (f := fun m => (m.stir 3 0).flr f) rfl (hf.trans (hr.calm hc)),
    does_of_act (f := fun m => (m.stir 3 0).flr f) rfl hf ⟨stir3_fn _, stir3_own _, hr.stirred (OnlyIn.refl _ _) (by decide)⟩⟩

/-- The reset of a VF begins. -/
theorem flr_begins (h0 : f ≠ 0) (h : (s.fn.get f).flrBusy = false) : Does (.flr f) s fun t =>
    Stopped f s.elapsed t ∧ t.g R.HIF_FLR_COUNT = (s.g R.HIF_FLR_COUNT + 1) % 2 ^ 32 ∧ (∀ g : Fin 8, g ≠ f → t.fn.get g = s.fn.get g) ∧ t.own = s.own ∧
      (∀ p ∈ s.tick.pending, p.fn ≠ f → p ∈ t.tick.pending) ∧ Stirred [.regs, .tick, .jnl, .fn, .out] s.toMach t := by
  have hr := stir_roused 3 0 s.toMach (by decide)
  have hb := flrStart_begun f (s.toMach.stir 3 0)
  have hfree : ((s.toMach.stir 3 0).fn.get f).flrBusy = false := by
    rw [stir3_fn]
    exact h
  have hf : (s.toMach.stir 3 0).flr f = (s.toMach.stir 3 0).flrStart f := if_neg h0
  have hcount := hb.count hfree
  have hstop := hb.stopped hfree
  have hlow : (s.toMach.stir 3 0).g R.HIF_FLR_COUNT = s.g R.HIF_FLR_COUNT := by
    unfold g
    rw [hr.low _ (by decide) (by decide)]
  rw [hlow] at hcount
  rw [stir3_elapsed] at hstop
  refine does_of_act (f := fun m => (m.stir 3 0).flr f) rfl hf ⟨hstop, hcount, fun g hg => ?_, ?_, fun p hp hpf => ?_, hr.stirred hb.parts (by decide)⟩
  · rw [hb.others g hg, stir3_fn]
  · rw [show ((s.toMach.stir 3 0).flrStart f).own = (s.toMach.stir 3 0).own from hb.parts .own (by decide), stir3_own]
  · exact hb.keeps p (hr.pending ▸ hp) hpf

/-- The reset of a list of functions as the package is woken. -/
theorem stirred_resets (fs : List (Fin 8)) (m : Mach) :
    (∀ g ∈ fs, (((m.stir 3 0).flrStarts fs).vfReturn.fn.get g).flrBusy = true ∧
        ((m.fn.get g).flrBusy = false → Stopped g m.elapsed ((m.stir 3 0).flrStarts fs).vfReturn)) ∧
      (∀ g, g ∉ fs → ((m.stir 3 0).flrStarts fs).vfReturn.fn.get g = m.fn.get g) ∧ PfOwns m.own.gran ((m.stir 3 0).flrStarts fs).vfReturn ∧
      Stirred [.regs, .tick, .jnl, .fn, .own, .out] m ((m.stir 3 0).flrStarts fs).vfReturn := by
  have hr := stir_roused 3 0 m (by decide)
  obtain ⟨h1, h2, h3, h4⟩ := flrStarts_vfReturn (m.stir 3 0) fs
  rw [stir3_own] at h3
  rw [stir3_fn, stir3_elapsed] at h1
  rw [stir3_fn] at h2
  exact ⟨h1, h2, h3, hr.stirred h4 (by decide)⟩

theorem flr_pf : Does (.flr 0) s fun t =>
    (∀ g : Fin 8, (t.fn.get g).flrBusy = true ∧ ((s.fn.get g).flrBusy = false → Stopped g s.elapsed t)) ∧ PfOwns s.own.gran t ∧
      Stirred [.regs, .tick, .jnl, .fn, .own, .out] s.toMach t := by
  obtain ⟨h1, -, h3, h4⟩ := stirred_resets (List.finRange 8) s.toMach
  exact does_of_act (f := fun m => (m.stir 3 0).flr 0) rfl (if_pos rfl) ⟨fun g => h1 g (List.mem_finRange g), h3, h4⟩

theorem vfClear_clears : Does .vfEnableClear s fun t =>
    (∀ g : Fin 8, g ≠ 0 → (t.fn.get g).flrBusy = true ∧ ((s.fn.get g).flrBusy = false → Stopped g s.elapsed t)) ∧
      (t.fn.get 0).flrBusy = (s.fn.get 0).flrBusy ∧ PfOwns s.own.gran t ∧ Stirred [.regs, .tick, .jnl, .fn, .own, .out] s.toMach t := by
  obtain ⟨h1, h2, h3, h4⟩ := stirred_resets ((List.finRange 8).filter fun (g : Fin 8) => g != 0) s.toMach
  refine does_of_act (f := fun m => (m.stir 3 0).vfClear) rfl rfl ⟨fun g hg => h1 g (by simp [hg]), ?_, h3, h4⟩
  have h := h2 0 (by simp)
  exact congrArg Func.flrBusy h

/-- Step 4 of R386 waits for the boundary. -/
theorem flrComplete_waits (h : (s.fn.get f).flrBusy = false ∨ (s.fn.get f).flrEdge = true) : Idles (.flrComplete f) s := by
  refine idles_of_act (f := flrComplete f) rfl (if_neg ?_)
  rcases h with h | h <;> simp [h]

theorem flrComplete_ends (hb : (s.fn.get f).flrBusy = true) (he : (s.fn.get f).flrEdge = false) : Does (.flrComplete f) s fun t =>
    t.fn.get f = { s.fn.get f with flrBusy := false, flrAt := none } ∧ (∀ g : Fin 8, g ≠ f → t.fn.get g = s.fn.get g) ∧ OnlyIn [.fn] s.toMach t := by
  have hf : flrComplete f s.toMach = s.toMach.onFn f fun x => { x with flrBusy := false, flrAt := none } := if_pos (by simp [hb, he])
  have hp := (flrComplete_within f s.toMach).parts
  rw [hf] at hp
  exact does_of_act (f := flrComplete f) rfl hf ⟨by rw [onFn_fn, vmod_get_self], fun g hg => by rw [onFn_fn, vmod_get_ne _ _ hg], hp⟩

/-- Only a reset that lasts 90 ms wedges its function. -/
theorem flrWedge_idle (h : (s.fn.get f).flrBusy = false ∨ (s.fn.get f).flrAt = none ∨ (s.fn.get f).wedged = true) : Idles (.flrWedgeTimeout f) s := by
  refine idles_of_act (f := flrWedge f) rfl ?_
  unfold flrWedge
  split
  next t hb ha =>
    rcases h with h | h | h
    · exact absurd (hb.symm.trans h) (by decide)
    · exact absurd (ha.symm.trans h) (by simp)
    · rw [if_pos h]
  next => rfl

theorem flrWedge_wedges (hb : (s.fn.get f).flrBusy = true) (hw : (s.fn.get f).wedged = false) {t0 : Int} (ha : (s.fn.get f).flrAt = some t0) :
    Does (.flrWedgeTimeout f) s fun t => t0 + 90000000 ≤ t.elapsed ∧ t.fn.get f = { s.fn.get f with wedged := true } ∧ t.out.head? = some (.msix 0 6) ∧
      OnlyIn [.regs, .time, .tick, .enc, .jnl, .fn, .cache, .out] s.toMach t := by
  have hf : flrWedge f s.toMach = ((s.toMach.runToElapsed (t0 + 90000000)).onFn f fun x => { x with wedged := true }).errEvent 0 := by
    unfold flrWedge
    rw [hb, ha]
    exact if_neg (by simp [hw])
  have hp := (flrWedge_within f s.toMach).parts
  rw [hf] at hp
  have hreach := runToElapsed_reaches s.toMach (t0 + 90000000)
  have hfn := (runToElapsed_clockOnly (t0 + 90000000) s.toMach).parts .fn (by decide)
  rw [Part.same] at hfn
  refine does_of_act (f := flrWedge f) rfl hf ⟨?_, ?_, rfl, hp⟩
  · unfold errEvent msix elapsed
    rw [emit_time, onFn_time]
    exact hreach
  · unfold errEvent msix
    rw [emit_fn, onFn_fn, vmod_get_self, hfn]

end

end Mach

/-- Settles O49: each kind of unit takes its owner in one update that the rest of an ASSIGN keeps; the resets of a list of functions begin one after
another, each keeping those before it, and the return of the VFs' resources touches no ring. -/
theorem ownershipMovesWithAWash : Obligations.OwnershipMovesWithAWash := by
  unfold Obligations.OwnershipMovesWithAWash
  intro s h kind dest first count unit f stopped allPf
  have hstop : ∀ (g : Fin 8) (t : Mach), ((t.fn.get g).flrBusy = true ∧ ((s.fn.get g).flrBusy = false → Mach.Stopped g s.elapsed t)) → stopped g t :=
    fun g t ht => ⟨ht.1, fun hf => ⟨(ht.2 hf).edge, (ht.2 hf).at_, (ht.2 hf).rings, (ht.2 hf).pending⟩⟩
  have hpf : ∀ t, Mach.PfOwns s.own.gran t → allPf t := fun t ht => ⟨ht.port, ht.eng, ht.fmap, ht.trig, ht.rrt, ht.tick, ht.gran, ht.part⟩
  refine ⟨fun hfe hpre => ⟨assign_rejects s h kind dest first count hfe hpre, assign_accepts s h kind dest first count hfe hpre⟩, washDone_idle s kind unit,
    fun w hw => washDone_washes s kind unit hw, fun h0 hb => Mach.flr_busy f h0 hb,
    fun h0 hb => (Mach.flr_begins f h0 hb).imp fun t ht => ⟨hstop f t ⟨ht.1.busy, fun _ => ht.1⟩, ht.2⟩,
    Mach.flr_pf.imp fun t ht => ⟨fun g => hstop g t (ht.1 g), hpf t ht.2.1, ht.2.2⟩,
    Mach.vfClear_clears.imp fun t ht => ⟨fun g hg => hstop g t (ht.1 g hg), ht.2.1, hpf t ht.2.2.1, ht.2.2.2⟩,
    Mach.flrComplete_waits f, Mach.flrComplete_ends f, Mach.flrWedge_idle f, fun hb hw t0 ha => Mach.flrWedge_wedges f hb hw ha⟩

end Sys2Proof.Machine

namespace Sys2Proof.Machine

set_option Elab.async false

namespace Mach

/-! ## The training of a line link (R393, R394) -/

/-- A field written with what it holds leaves its register as it was. -/
theorem rd_put_g (m : Mach) (f : Fld) (off : Nat) : (m.put f (m.g f)).rd off = m.rd off := by
  by_cases ho : off = f.a
  · subst ho
    unfold put
    rw [rd_wr_self]
    apply BitVec.eq_of_toNat_eq
    rw [BitVec.toNat_ofNat]
    have hlt : m.g f < 2 ^ (f.hi + 1 - f.lo) := by
      unfold g bitsN
      exact Nat.mod_lt _ (by positivity)
    have hle : bitsN (m.rd f.a).toNat f.hi f.lo * 2 ^ f.lo ≤ (m.rd f.a).toNat := by
      unfold bitsN
      exact (Nat.mul_le_mul_right _ (Nat.mod_le _ _)).trans (Nat.div_mul_le_self _ _)
    rw [Nat.mod_eq_of_lt hlt]
    unfold g
    rw [Nat.sub_add_cancel hle, Nat.mod_eq_of_lt (m.rd f.a).isLt]
  · exact rd_put_ne m f _ ho

section
variable (l : Fin 4) (m : Mach)

theorem onLink_get_self (u : Link → Link) : (m.onLink l u).link.get l = u (m.link.get l) := by rw [onLink_link, vmod_get_self]

theorem onLink_get_ne (u : Link → Link) {k : Fin 4} (h : k ≠ l) : (m.onLink l u).link.get k = m.link.get k := by rw [onLink_link, vmod_get_ne _ _ h]

/-! ### STATE -/

variable (st : Nat)

theorem setLinkState_get : (m.setLinkState l st).link.get l = { m.link.get l with state := st } := by
  unfold setLinkState
  split
  next h => rw [← h]
  next => exact onLink_get_self l m _

theorem setLinkState_others {k : Fin 4} (h : k ≠ l) : (m.setLinkState l st).link.get k = m.link.get k := by
  unfold setLinkState
  split
  · rfl
  · exact onLink_get_ne l m _ h

theorem setLinkState_regs : RegsBut [(R.LNK_STAT_CHG l).a] m (m.setLinkState l st) := by
  unfold setLinkState
  split
  · exact .refl _ _
  · exact RegsBut.put (m.onLink l fun x => { x with state := st }) (R.LNK_STAT_CHG l) 1

variable {st} in
theorem setLinkState_chg (h : (m.link.get l).state ≠ st) : (m.setLinkState l st).g (R.LNK_STAT_CHG l) = 1 := by
  unfold setLinkState
  rw [if_neg h]
  exact g_set1 _ _ rfl (by simp only [R.LNK_STAT_CHG]; decide)

theorem setLinkState_parts : OnlyIn [.regs, .link] m (m.setLinkState l st) := (setLinkState_within l st m).parts

/-! ### The start of a training -/

/-- A port whose training starts at instant el. -/
def trainingLink (el : Int) (x : Link) : Link := { x with locked := false, trained := 0, peerTrain := none, trainSent := none, trainFrom := el, state := 1 }

theorem refuseCheck_link : (m.refuseCheck l).link = m.link := by
  unfold refuseCheck
  split
  · exact onFus_link _ _
  · rfl

theorem startTraining_get : (m.startTraining l).link.get l = trainingLink m.elapsed (m.link.get l) := by
  unfold startTraining
  rw [refuseCheck_link, setLinkState_get, onLink_get_self]
  rfl

theorem startTraining_others {k : Fin 4} (h : k ≠ l) : (m.startTraining l).link.get k = m.link.get k := by
  unfold startTraining
  rw [refuseCheck_link, setLinkState_others _ _ _ h, onLink_get_ne _ _ _ h]

theorem startTraining_regs : RegsBut [(R.LNK_STAT_CHG l).a] m (m.startTraining l) := by
  unfold startTraining
  exact RegsBut.of_regs (setLinkState_regs l (m.onLink l _) 1) (refuseCheck_regs l _)

theorem startTraining_chg (h : (m.link.get l).state ≠ 1) : (m.startTraining l).g (R.LNK_STAT_CHG l) = 1 := by
  unfold startTraining
  rw [g_of_regs (refuseCheck_regs l _)]
  exact setLinkState_chg l _ (by rw [onLink_get_self]; exact h)

end

end Mach

/-- Port l trains from now on, with its sequences and its frames kept. -/
structure TrainingStarts (l : Fin 4) (a b : Mach) : Prop where
  own : b.link.get l = Mach.trainingLink a.elapsed (a.link.get l)
  others : ∀ k : Fin 4, k ≠ l → b.link.get k = a.link.get k

namespace Mach

section
variable (l : Fin 4) (en : Bool) {s : State}

theorem linkEnable_off (h : s.linksOff = true) : Idles (.linkEnable l en) s :=
  idles_of_act (f := linkEnable l en) rfl (if_pos h)

/-- With the ports on, a write of EN. -/
theorem linkEnable_on (m : Mach) (h : m.linksOff = false) : linkEnable l en m =
    (if en && !m.on (R.LNK_CTRL_EN l) then (m.put (R.LNK_CTRL_EN l) en.toNat).startTraining l
      else if !en && m.on (R.LNK_CTRL_EN l) then ((m.put (R.LNK_CTRL_EN l) en.toNat).setLinkState l 0).refuseCheck l
      else m.put (R.LNK_CTRL_EN l) en.toNat) := if_neg (by simp [h])

/-- The enable is one bit. -/
theorem linkEn_g (m : Mach) : m.g (R.LNK_CTRL_EN l) = (m.on (R.LNK_CTRL_EN l)).toNat := by
  have hlt : m.g (R.LNK_CTRL_EN l) < 2 := Nat.mod_lt _ (by simp only [R.LNK_CTRL_EN]; decide)
  unfold on
  interval_cases m.g (R.LNK_CTRL_EN l) <;> rfl

theorem linkEnable_same (h : s.linksOff = false) (hw : s.on (R.LNK_CTRL_EN l) = en) : Does (.linkEnable l en) s fun t =>
    t.link = s.link ∧ t.fus = s.fus ∧ RegsBut [] s.toMach t ∧ OnlyIn [.regs] s.toMach t := by
  have hf : linkEnable l en s.toMach = s.put (R.LNK_CTRL_EN l) (s.g (R.LNK_CTRL_EN l)) := by
    rw [linkEnable_on l en s.toMach h, hw, linkEn_g, hw]
    cases en <;> rfl
  exact does_of_act (f := linkEnable l en) rfl hf ⟨put_link _ _ _, put_fus _ _ _, fun off _ => rd_put_g _ _ off,
    OnlyIn.put _ _ _⟩

theorem put_elapsed (m : Mach) (f : Fld) (v : Nat) : (m.put f v).elapsed = m.elapsed := by
  unfold elapsed
  rw [put_time]

theorem startTraining_starts (m m0 : Mach) (hl : m.link = m0.link) (he : m.elapsed = m0.elapsed) : TrainingStarts l m0 (m.startTraining l) :=
  ⟨by rw [startTraining_get, hl, he], fun k h => by rw [startTraining_others l m h, hl]⟩

theorem linkEnable_starts (h : s.linksOff = false) (hw : s.on (R.LNK_CTRL_EN l) = false) : Does (.linkEnable l true) s fun t =>
    TrainingStarts l s.toMach t ∧ t.g (R.LNK_CTRL_EN l) = 1 ∧ RegsBut [(R.LNK_CTRL_EN l).a, (R.LNK_STAT_CHG l).a] s.toMach t ∧
      OnlyIn [.regs, .fus, .link] s.toMach t := by
  have hf : linkEnable l true s.toMach = (s.put (R.LNK_CTRL_EN l) 1).startTraining l := by
    rw [linkEnable_on l true s.toMach h, hw]
    rfl
  have hp := (linkEnable_within l true s.toMach).parts
  rw [hf] at hp
  have hregs := startTraining_regs l (s.put (R.LNK_CTRL_EN l) 1)
  refine does_of_act (f := linkEnable l true) rfl hf ⟨startTraining_starts l _ _ (put_link _ _ _) (put_elapsed _ _ _), ?_, ?_, hp⟩
  · unfold g
    rw [hregs _ (by simp only [R.LNK_CTRL_EN, R.LNK_STAT_CHG, List.mem_singleton]; omega)]
    exact g_set1 s.toMach (R.LNK_CTRL_EN l) rfl (by simp only [R.LNK_CTRL_EN]; decide)
  · exact ((RegsBut.put _ _ _).mono (by simp)).trans (hregs.mono (by simp))

theorem linkEnable_stops (h : s.linksOff = false) (hw : s.on (R.LNK_CTRL_EN l) = true) : Does (.linkEnable l false) s fun t =>
    (t.link.get l) = { s.link.get l with state := 0 } ∧ t.g (R.LNK_CTRL_EN l) = 0 ∧ ((s.link.get l).state ≠ 0 → t.g (R.LNK_STAT_CHG l) = 1) ∧
      (∀ k : Fin 4, k ≠ l → t.link.get k = s.link.get k) ∧
      RegsBut [(R.LNK_CTRL_EN l).a, (R.LNK_STAT_CHG l).a] s.toMach t ∧ OnlyIn [.regs, .fus, .link] s.toMach t := by
  have hf : linkEnable l false s.toMach = ((s.put (R.LNK_CTRL_EN l) 0).setLinkState l 0).refuseCheck l := by
    rw [linkEnable_on l false s.toMach h, hw]
    rfl
  have hp := (linkEnable_within l false s.toMach).parts
  rw [hf] at hp
  have hregs := RegsBut.of_regs (setLinkState_regs l (s.put (R.LNK_CTRL_EN l) 0) 0) (refuseCheck_regs l _)
  refine does_of_act (f := linkEnable l false) rfl hf ⟨?_, ?_, fun hs => ?_, fun k hk => ?_, ?_, hp⟩
  · rw [refuseCheck_link, setLinkState_get, put_link]
  · unfold g
    rw [hregs _ (by simp only [R.LNK_CTRL_EN, R.LNK_STAT_CHG, List.mem_singleton]; omega)]
    exact g_clr s.toMach (R.LNK_CTRL_EN l) (by simp only [R.LNK_CTRL_EN]; decide) (by simp only [R.LNK_CTRL_EN]; decide)
  · rw [g_of_regs (refuseCheck_regs l _)]
    exact setLinkState_chg l _ (by rw [put_link]; exact hs)
  · rw [refuseCheck_link, setLinkState_others _ _ _ hk, put_link]
  · exact ((RegsBut.put _ _ _).mono (by simp)).trans (hregs.mono (by simp))

theorem retrain_idle (m : Mach) (h : m.on (R.LNK_CTRL_EN l) = false ∨ m.linksOff = true) : m.retrain l = m := by
  refine if_neg ?_
  rcases h with h | h <;> simp [h]

theorem retrain_starts (m : Mach) (h : m.on (R.LNK_CTRL_EN l) = true) (ho : m.linksOff = false) :
    TrainingStarts l m (m.retrain l) ∧ (m.retrain l).g (R.LNK_RETRAINS l) = (m.g (R.LNK_RETRAINS l) + 1) % 2 ^ 32 ∧
      ((m.link.get l).state ≠ 1 → (m.retrain l).g (R.LNK_STAT_CHG l) = 1) ∧ RegsBut [(R.LNK_RETRAINS l).a, (R.LNK_STAT_CHG l).a] m (m.retrain l) ∧
      OnlyIn [.regs, .fus, .link] m (m.retrain l) := by
  have hf : m.retrain l = (m.inc (R.LNK_RETRAINS l)).startTraining l := if_pos (by simp [h, ho])
  have hp := (retrain_within l m).parts
  rw [hf] at hp ⊢
  have hregs := startTraining_regs l (m.inc (R.LNK_RETRAINS l))
  refine ⟨startTraining_starts l _ _ (inc_link _ _) (put_elapsed _ _ _), ?_, fun hs => ?_, ?_, hp⟩
  · rw [← g_inc_word m (R.LNK_RETRAINS l) rfl rfl]
    unfold g
    rw [hregs _ (by simp only [R.LNK_RETRAINS, R.LNK_STAT_CHG, List.mem_singleton]; omega)]
  · exact startTraining_chg l _ (by rw [inc_link]; exact hs)
  · exact ((RegsBut.inc _ _).mono (by simp)).trans (hregs.mono (by simp))

end

end Mach

end Sys2Proof.Machine

namespace Sys2Proof.Machine

set_option Elab.async false

namespace Mach

section
variable (l : Fin 4) (m : Mach)

theorem setLinkState_time (st : Nat) : (m.setLinkState l st).time = m.time := setLinkState_parts l m st .time (by decide)

theorem setLinkState_elapsed (st : Nat) : (m.setLinkState l st).elapsed = m.elapsed := by
  unfold elapsed
  rw [setLinkState_time]

theorem setLinkState_g (st : Nat) (f : Fld) (h : f.a ≠ (R.LNK_STAT_CHG l).a) : (m.setLinkState l st).g f = m.g f := by
  unfold g
  rw [setLinkState_regs l m st _ (by simpa using h)]

/-! ### A TRAIN frame is sent -/

/-- The port as it sends a frame at instant el. -/
def sentLink (el : Int) (x : Link) : Link := { x with locked := true, trainSent := some el, state := 1 }

/-- The state in which the next frame is due. -/
def trainDue : Mach :=
  match (m.link.get l).trainSent with
  | some t => m.runToElapsed (t + 10000)
  | none => m

theorem trainDue_clockOnly : ClockOnly m (m.trainDue l) := by
  unfold trainDue
  split
  · exact runToElapsed_clockOnly _ m
  · exact .refl m

theorem trainDue_link : (m.trainDue l).link = m.link := (trainDue_clockOnly l m).parts .link (by decide)

theorem trainDue_reaches (t0 : Int) (h : (m.link.get l).trainSent = some t0) : t0 + 10000 ≤ (m.trainDue l).elapsed := by
  unfold trainDue
  rw [h]
  exact runToElapsed_reaches m _

theorem trainDue_now (h : (m.link.get l).trainSent = none) : m.trainDue l = m := by
  unfold trainDue
  rw [h]

/-- The state in which the frame leaves. -/
def trainReady : Mach := ((m.trainDue l).onLink l fun x => { x with locked := true, trainSent := some (m.trainDue l).elapsed }).setLinkState l 1

theorem trainReady_get : (m.trainReady l).link.get l = sentLink (m.trainDue l).elapsed (m.link.get l) := by
  unfold trainReady
  rw [setLinkState_get, onLink_get_self, trainDue_link]
  rfl

theorem trainReady_others {k : Fin 4} (h : k ≠ l) : (m.trainReady l).link.get k = m.link.get k := by
  unfold trainReady
  rw [setLinkState_others _ _ _ h, onLink_get_ne _ _ _ h, trainDue_link]

theorem trainReady_elapsed : (m.trainReady l).elapsed = (m.trainDue l).elapsed := by
  unfold trainReady
  rw [setLinkState_elapsed]
  rfl

theorem trainReady_g (f : Fld) (h : f.a ≠ (R.LNK_STAT_CHG l).a) (hf : ¬ (0x1E0000 ≤ f.a ∧ f.a < 0x200000)) : (m.trainReady l).g f = m.g f := by
  unfold trainReady
  rw [setLinkState_g _ _ _ _ h, onLink_g, (trainDue_clockOnly l m).g f hf]

theorem trainSend_eq (h : m.training l = true) :
    m.trainSend l = ((m.trainReady l).inc (R.LNK_FRAMES_TX l)).emit (.link l (.train ((m.trainReady l).trainFrame l)) []) := by
  unfold trainSend
  rw [if_neg (by simp [h])]
  rfl

theorem trainFrame_ready : (m.trainReady l).trainFrame l =
    { levelMax := min 2 (m.g (R.LNK_CTRL_LEVEL_MAX l)), levelMin := 1, credits := [4, 32, 64, 8], pkg := m.g R.FUS_CTRL_PKG_ID,
      resume := (m.link.get l).resume, expect := (m.link.get l).rxSeq } := by
  unfold trainFrame myLevel
  rw [trainReady_get, trainReady_g l m _ (by simp only [R.LNK_CTRL_LEVEL_MAX, R.LNK_STAT_CHG]; omega) (by simp only [R.LNK_CTRL_LEVEL_MAX]; omega),
    trainReady_g l m _ (by simp only [R.FUS_CTRL_PKG_ID, R.LNK_STAT_CHG]; omega) (by decide)]
  rfl

end

section
variable (l : Fin 4) {s : State}

theorem trainSend_sends (h : s.training l = true) : Does (.trainFrameSend l) s fun t =>
    (∀ t0 ∈ (s.link.get l).trainSent, t0 + 10000 ≤ t.elapsed) ∧ ((s.link.get l).trainSent = none → t.time = s.time) ∧
      (t.link.get l).trainSent = some t.elapsed ∧ (t.link.get l).state = 1 ∧ (t.link.get l).locked = true ∧
      t.g (R.LNK_FRAMES_TX l) = (s.g (R.LNK_FRAMES_TX l) + 1) % 2 ^ 32 ∧
      t.out.head? = some (.link l (.train { levelMax := min 2 (s.g (R.LNK_CTRL_LEVEL_MAX l)), levelMin := 1, credits := [4, 32, 64, 8],
                                            pkg := s.g R.FUS_CTRL_PKG_ID, resume := (s.link.get l).resume, expect := (s.link.get l).rxSeq }) []) ∧
      (∀ k : Fin 4, k ≠ l → t.link.get k = s.link.get k) ∧ OnlyIn [.regs, .time, .tick, .enc, .jnl, .link, .cache, .out] s.toMach t := by
  have hf := trainSend_eq l s.toMach h
  have hp := (trainSend_within l s.toMach).parts
  rw [hf] at hp
  have hel : (((s.trainReady l).inc (R.LNK_FRAMES_TX l)).emit (.link l (.train ((s.trainReady l).trainFrame l)) [])).elapsed = (s.trainDue l).elapsed := by
    rw [← trainReady_elapsed l s.toMach]
    unfold elapsed
    rw [emit_time, inc_time]
  have hlink : (((s.trainReady l).inc (R.LNK_FRAMES_TX l)).emit (.link l (.train ((s.trainReady l).trainFrame l)) [])).link = (s.trainReady l).link := by
    rw [emit_link, inc_link]
  refine does_of_act (f := trainSend l) rfl hf ⟨fun t0 ht => ?_, fun hn => ?_, ?_, ?_, ?_, ?_, ?_, fun k hk => ?_, hp⟩
  · rw [hel]
    exact trainDue_reaches l s.toMach t0 ht
  · rw [emit_time, inc_time]
    unfold trainReady
    rw [setLinkState_time, onLink_time, trainDue_now l s.toMach hn]
  · rw [hel, hlink, trainReady_get]
    rfl
  · rw [hlink, trainReady_get]
    rfl
  · rw [hlink, trainReady_get]
    rfl
  · rw [emit_g, g_inc_word _ _ rfl rfl, trainReady_g l s.toMach _ (by simp only [R.LNK_FRAMES_TX, R.LNK_STAT_CHG]; omega)
      (by simp only [R.LNK_FRAMES_TX]; omega)]
  · rw [emit_out, List.head?_cons, trainFrame_ready]
  · rw [hlink, trainReady_others l s.toMach hk]

end

/-! ### A TRAIN frame arrives -/

section
variable (l : Fin 4) (f : TrainFrame) (m : Mach)

/-- How many frames alike have come, with this one. -/
def trainCount : Nat := if (m.link.get l).peerTrain = some f then (m.link.get l).trained + 1 else 1

/-- The port as it has taken a frame. -/
def heardLink (n : Nat) (f : TrainFrame) (x : Link) : Link := { x with locked := true, trained := n, peerTrain := some f, state := 1 }

/-- The state in which a frame has been taken. -/
def trainHeard : Mach :=
  ((m.inc (R.LNK_FRAMES_RX l)).onLink l fun k => { k with locked := true, trained := m.trainCount l f, peerTrain := some f }).setLinkState l 1

theorem trainHeard_get : (m.trainHeard l f).link.get l = heardLink (m.trainCount l f) f (m.link.get l) := by
  unfold trainHeard
  rw [setLinkState_get, onLink_get_self, inc_link]
  rfl

theorem trainHeard_others {k : Fin 4} (h : k ≠ l) : (m.trainHeard l f).link.get k = m.link.get k := by
  unfold trainHeard
  rw [setLinkState_others _ _ _ h, onLink_get_ne _ _ _ h, inc_link]

theorem trainHeard_parts : OnlyIn [.regs, .link] m (m.trainHeard l f) := by
  unfold trainHeard
  exact (((OnlyIn.inc _ _).append (onLink_within l _ _).parts).append (setLinkState_parts l _ 1)).mono (by decide)

theorem trainHeard_count : (m.trainHeard l f).g (R.LNK_FRAMES_RX l) = (m.g (R.LNK_FRAMES_RX l) + 1) % 2 ^ 32 := by
  unfold trainHeard
  rw [setLinkState_g _ _ _ _ (by simp only [R.LNK_FRAMES_RX, R.LNK_STAT_CHG]; omega), onLink_g, g_inc_word _ _ rfl rfl]

theorem trainHeard_g (e : Fld) (h : e.a ≠ (R.LNK_STAT_CHG l).a) (hr : e.a ≠ (R.LNK_FRAMES_RX l).a) : (m.trainHeard l f).g e = m.g e := by
  unfold trainHeard
  rw [setLinkState_g _ _ _ _ h, onLink_g, g_inc_ne _ _ _ hr]

theorem trainRx_eq (h : m.training l = true) : m.trainRx l f =
    (if m.trainCount l f < 3 then m.trainHeard l f
      else if f.levelMax = 0 then
        if (m.trainHeard l f).on (R.LNK_STAT_LEVEL_ERR l) then m.trainHeard l f
        else ((m.trainHeard l f).set1 (R.LNK_STAT_LEVEL_ERR l)).health H.linkLevel (.link l) []
      else (m.trainHeard l f).linkUp l f) := by
  unfold trainRx
  rw [if_neg (by simp [h])]
  rfl

/-- What every taken frame brings. -/
structure Heard (l : Fin 4) (a b : Mach) : Prop where
  count : b.g (R.LNK_FRAMES_RX l) = (a.g (R.LNK_FRAMES_RX l) + 1) % 2 ^ 32
  others : ∀ k : Fin 4, k ≠ l → b.link.get k = a.link.get k
  time : b.time = a.time

theorem trainHeard_heard : Heard l m (m.trainHeard l f) :=
  ⟨trainHeard_count l f m, fun _ h => trainHeard_others l f m h, trainHeard_parts l f m .time (by decide)⟩

/-- What follows a taken frame without moving its counter, the clock or another port. -/
theorem Heard.then {l : Fin 4} {a b c : Mach} (h : Heard l a b) (hg : c.g (R.LNK_FRAMES_RX l) = b.g (R.LNK_FRAMES_RX l))
    (ho : ∀ k : Fin 4, k ≠ l → c.link.get k = b.link.get k) (ht : c.time = b.time) : Heard l a c :=
  ⟨hg.trans h.count, fun k hk => (ho k hk).trans (h.others k hk), ht.trans h.time⟩

/-! ### Kept frames are sent again -/

/-- What the repetition of kept frames leaves of a port, with the sequences they carry. -/
structure Resent (l : Fin 4) (ks : List Nat) (a b : Mach) : Prop where
  own : b.link.get l = { a.link.get l with owesAck := (b.link.get l).owesAck, owed := (b.link.get l).owed, quietFrom := (b.link.get l).quietFrom,
                                           replay := (b.link.get l).replay, ttSent := (b.link.get l).ttSent }
  others : ∀ k : Fin 4, k ≠ l → b.link.get k = a.link.get k
  kept : (∀ k ∈ (a.link.get l).replay, k.1.seq ∈ ks) → ∀ k ∈ (b.link.get l).replay, k.1.seq ∈ ks
  regs : RegsBut [(R.LNK_FRAMES_TX l).a] a b

namespace Resent

variable {l : Fin 4} {ks : List Nat} {a b c : Mach}

theorem refl (a : Mach) : Resent l ks a a := ⟨rfl, fun _ _ => rfl, id, .refl _ _⟩

theorem trans (h1 : Resent l ks a b) (h2 : Resent l ks b c) : Resent l ks a c :=
  ⟨by rw [h2.own, h1.own], fun k h => (h2.others k h).trans (h1.others k h), h2.kept ∘ h1.kept, h1.regs.trans h2.regs⟩

/-- An update of the port that keeps all but these fields. -/
theorem onLink (m : Mach) (u : Link → Link)
    (hu : ∀ x, u x = { x with owesAck := (u x).owesAck, owed := (u x).owed, quietFrom := (u x).quietFrom, replay := (u x).replay, ttSent := (u x).ttSent })
    (hk : (∀ k ∈ (m.link.get l).replay, k.1.seq ∈ ks) → ∀ k ∈ (u (m.link.get l)).replay, k.1.seq ∈ ks) : Resent l ks m (m.onLink l u) := by
  refine ⟨?_, fun k h => onLink_get_ne l m u h, ?_, RegsBut.of_regs (.refl _ _) (onLink_regs m l u)⟩
  · rw [onLink_get_self]
    exact hu _
  · rw [onLink_get_self]
    exact hk

theorem of_link (hl : b.link = a.link) (hr : RegsBut [(R.LNK_FRAMES_TX l).a] a b) : Resent l ks a b :=
  ⟨by rw [hl], fun k _ => by rw [hl], by rw [hl]; exact id, hr⟩

end Resent

theorem stampTt_seq (fr : LinkFrame) : (m.stampTt l fr).1.seq = fr.seq := by
  unfold stampTt
  split <;> rfl

theorem stampTt_resent (fr : LinkFrame) (ks : List Nat) : Resent l ks m (m.stampTt l fr).2 := by
  unfold stampTt
  split
  · exact Resent.onLink m _ (fun _ => rfl) id
  · exact .refl m

theorem linkSend_resent (mk : Nat → List Nat → LinkTx) (ks : List Nat) : Resent l ks m (m.linkSend l mk) := by
  unfold linkSend
  extract_lets x tx m1
  have h1 : Resent l ks m m1 := .of_link (by rw [inc_link, emit_link])
    ((RegsBut.of_regs (.refl _ m) (emit_regs m _)).trans (RegsBut.inc _ _))
  exact h1.trans (Resent.onLink m1 _ (fun _ => rfl) id)

theorem sendKept_resent (fr : LinkFrame) (ks : List Nat) (hk : fr.seq ∈ ks) : Resent l ks m (m.sendKept l fr) := by
  have h1 := stampTt_resent l m fr ks
  have hseq := stampTt_seq l m fr
  unfold sendKept
  generalize m.stampTt l fr = p at *
  obtain ⟨g, m1⟩ := p
  dsimp only at *
  refine (h1.trans (linkSend_resent l m1 _ ks)).trans (Resent.onLink _ _ (fun _ => rfl) fun h k hkm => ?_)
  rcases List.mem_append.mp hkm with hkm | hkm
  · exact h k hkm
  · rw [List.mem_singleton.mp hkm]
    exact hseq ▸ hk

/-- A port whose kept frames are about to be repeated. -/
def replayed (x : Link) : Link := { x with replay := [], replays := x.replays + 1 }

theorem resendAll_resent :
    Resent l ((m.link.get l).replay.map fun e => e.1.seq) ((m.onLink l replayed).inc (R.LNK_REPLAYS l)) (m.resendAll l) := by
  unfold resendAll
  refine forEach_mem (Resent l _ _) _ _ (fun fr hfr t ht => ht.trans (sendKept_resent l t fr _ ?_)) _ (.refl _)
  obtain ⟨e, he, rfl⟩ := List.mem_map.mp hfr
  exact List.mem_map_of_mem he

end

end Mach

end Sys2Proof.Machine

namespace Sys2Proof.Machine

set_option Elab.async false

namespace Mach

/-! ### A port goes UP (R393, R394) -/

/-- The frames that an acknowledgement of a sequence leaves. -/
def ackedLink (seq : Nat) (x : Link) : Link :=
  match x.replay.findIdx? fun f => f.1.seq == seq % 65536 with
  | some i => { x with replay := x.replay.drop (i + 1), replays := 0 }
  | none => x

theorem ackedLink_keeps (seq : Nat) (x : Link) : ackedLink seq x = { x with replay := (ackedLink seq x).replay, replays := (ackedLink seq x).replays } := by
  unfold ackedLink
  split <;> rfl

theorem ackedLink_replay (seq : Nat) (x : Link) : (ackedLink seq x).replay ⊆ x.replay := by
  unfold ackedLink
  split
  · exact List.drop_subset _ _
  · exact fun _ h => h

/-- Both sides resume: the peer's EXPECT acknowledges, and what is left is repeated once. -/
def resumedLink (f : TrainFrame) (x : Link) : Link := { ackedLink (f.expect + 65535) { x with replays := 0 } with replays := 0 }

/-- The sequences begin again, with the peer's buffers as credits. -/
def restartedLink (f : TrainFrame) (x : Link) : Link :=
  { x with txSeq := 0, rxSeq := 0, replay := [], replays := 0, owed := Vector.replicate 4 0, owesAck := false,
           rxPart := Vector.replicate 4 ([], 0), sendq := x.sendq.map dropTorn,
           rxMsgs := x.rxMsgs.map (fun (y : LinkMsg) => { y with frames := 0 }), held := x.held.map (fun (y : LinkMsg) => { y with frames := 0 }),
           credits := Vector.ofFn fun (v : Fin 4) => (f.credits[v.1]?).getD 0 }

/-- The sequence state with which a port goes UP. -/
def joinedLink (f : TrainFrame) (x : Link) : Link := if x.resume && f.resume then resumedLink f x else restartedLink f x

/-- A port UP at a level since instant el. -/
def raisedLink (level : Nat) (el : Int) (x : Link) : Link :=
  { x with level := level, resume := true, naked := false, trained := 0, peerTrain := none, theta := none, quietFrom := el, advertised := none, state := 2 }

theorem health_link (h : HCode) (u : HUnit) (d : List Nat) (m : Mach) : (m.health h u d).link = m.link :=
  (health_recOnly h u d m).parts .link (by decide)

section
variable (l : Fin 4) (f : TrainFrame) (m : Mach)

/-- The state in which the port has taken up its sequences again. -/
def linkJoined : Mach :=
  if (m.link.get l).resume && f.resume then
    ((m.onLink l fun k => { k with replays := 0 }).ackTo l (f.expect + 65535)).onLink l fun k => { k with replays := 0 }
  else m.onLink l (restartedLink f)

/-- The state in which the port is UP, before kept frames are repeated. -/
def linkRaised : Mach :=
  (((m.linkJoined l f).onLink l fun k =>
    { k with level := min (m.myLevel l) f.levelMax, resume := true, naked := false, trained := 0, peerTrain := none, theta := none,
             quietFrom := (m.linkJoined l f).elapsed, advertised := none }).setLinkState l 2).health H.linkUp (.link l) []

theorem linkUp_eq : m.linkUp l f =
    (if (m.link.get l).resume && f.resume && !((m.linkRaised l f).link.get l).replay.isEmpty then (m.linkRaised l f).resendAll l else m.linkRaised l f) := rfl

theorem linkJoined_get : (m.linkJoined l f).link.get l = joinedLink f (m.link.get l) := by
  unfold linkJoined joinedLink
  split
  · unfold ackTo
    rw [onLink_get_self, onLink_get_self, onLink_get_self]
    rfl
  · rw [onLink_get_self]

theorem linkJoined_others {k : Fin 4} (h : k ≠ l) : (m.linkJoined l f).link.get k = m.link.get k := by
  unfold linkJoined
  split
  · unfold ackTo
    rw [onLink_get_ne _ _ _ h, onLink_get_ne _ _ _ h, onLink_get_ne _ _ _ h]
  · rw [onLink_get_ne _ _ _ h]

theorem linkJoined_within : Within [.link] m (m.linkJoined l f) := by
  unfold linkJoined
  split
  · exact (onLink_within l _ _).after <| (ackTo_within l _ _).after <| (onLink_within l _ _).after <| .refl _ _
  · exact onLink_within l _ _

theorem linkJoined_regs : (m.linkJoined l f).regs = m.regs := (linkJoined_within l f m).keeps .regs

/-- The registers that going UP writes, apart from the journal's. -/
theorem linkRaised_get : (m.linkRaised l f).link.get l = raisedLink (min (m.myLevel l) f.levelMax) m.elapsed (joinedLink f (m.link.get l)) := by
  have hel : (m.linkJoined l f).elapsed = m.elapsed := by
    unfold elapsed
    rw [show (m.linkJoined l f).time = m.time from (linkJoined_within l f m).keeps .time]
  unfold linkRaised
  rw [health_link, setLinkState_get, onLink_get_self, linkJoined_get, hel]
  rfl

theorem linkRaised_others {k : Fin 4} (h : k ≠ l) : (m.linkRaised l f).link.get k = m.link.get k := by
  unfold linkRaised
  rw [health_link, setLinkState_others _ _ _ h, onLink_get_ne _ _ _ h, linkJoined_others l f m h]

theorem linkRaised_chg (h : (m.link.get l).state ≠ 2) : (m.linkRaised l f).g (R.LNK_STAT_CHG l) = 1 := by
  have hs : ((m.linkJoined l f).link.get l).state = (m.link.get l).state := by
    rw [linkJoined_get]
    unfold joinedLink
    split
    · unfold resumedLink
      rw [ackedLink_keeps]
    · rfl
  unfold linkRaised
  rw [(health_recOnly _ _ _ _).g (R.LNK_STAT_CHG l) (by simp only [R.LNK_STAT_CHG]; omega)]
  exact setLinkState_chg l _ (by rw [onLink_get_self]; exact hs ▸ h)

theorem linkRaised_g (e : Fld) (hc : e.a ≠ (R.LNK_STAT_CHG l).a) (hj : ¬ (0x1E0000 ≤ e.a ∧ e.a < 0x200000)) : (m.linkRaised l f).g e = m.g e := by
  unfold linkRaised
  rw [(health_recOnly _ _ _ _).g e hj, setLinkState_g _ _ _ _ hc, onLink_g, g_of_regs (linkJoined_regs l f m)]

theorem linkRaised_parts : OnlyIn [.regs, .tick, .jnl, .link, .cache] m (m.linkRaised l f) := by
  unfold linkRaised
  exact ((((linkJoined_within l f m).parts.append (onLink_within l _ _).parts).append (setLinkState_parts l _ 2)).append (health_recOnly _ _ _ _).parts).mono
    (by decide)

/-! ### What a port that goes UP has (R393) -/

/-- The outcome of going UP. -/
structure Risen (l : Fin 4) (f : TrainFrame) (a b : Mach) : Prop where
  state : (b.link.get l).state = 2
  level : (b.link.get l).level = min (min 2 (a.g (R.LNK_CTRL_LEVEL_MAX l))) f.levelMax
  resume : (b.link.get l).resume = true
  theta : (b.link.get l).theta = none
  replays : (b.link.get l).replays ≤ 1
  resumed : (a.link.get l).resume = true ∧ f.resume = true → (b.link.get l).txSeq = (a.link.get l).txSeq ∧ (b.link.get l).rxSeq = (a.link.get l).rxSeq ∧
    (b.link.get l).sendq = (a.link.get l).sendq ∧ (b.link.get l).credits = (a.link.get l).credits ∧
    (∀ k ∈ (b.link.get l).replay, k.1.seq ∈ (a.link.get l).replay.map fun (e : LinkFrame × Int) => e.1.seq)
  restarted : (a.link.get l).resume = false ∨ f.resume = false → (b.link.get l).txSeq = 0 ∧ (b.link.get l).rxSeq = 0 ∧ (b.link.get l).replay = [] ∧
    (∀ v : Fin 4, (b.link.get l).credits.get v = (f.credits[v.1]?).getD 0) ∧ b.out = a.out
  others : ∀ k : Fin 4, k ≠ l → b.link.get k = a.link.get k

theorem joinedLink_restarted {x : Link} (h : x.resume = false ∨ f.resume = false) : joinedLink f x = restartedLink f x := by
  refine if_neg ?_
  rcases h with h | h <;> simp [h]

theorem joinedLink_resumed {x : Link} (h : x.resume = true ∧ f.resume = true) : joinedLink f x =
    { x with replay := (joinedLink f x).replay, replays := 0 } := by
  have hj : joinedLink f x = resumedLink f x := if_pos (by simp [h])
  rw [hj]
  unfold resumedLink
  rw [ackedLink_keeps]

theorem joinedLink_replays (x : Link) : (joinedLink f x).replays = 0 := by
  unfold joinedLink
  split <;> rfl

theorem joinedLink_replay (x : Link) : (joinedLink f x).replay ⊆ x.replay := by
  unfold joinedLink
  split
  · exact ackedLink_replay (f.expect + 65535) { x with replays := 0 }
  · exact List.nil_subset _

theorem ofFn_get4 {α : Type} (f : Fin 4 → α) (i : Fin 4) : (Vector.ofFn f).get i = f i := by
  simp only [Vector.get, Vector.toArray_ofFn, Array.getElem_ofFn]
  rfl

theorem linkRaised_risen : Risen l f m (m.linkRaised l f) := by
  have hout : (m.linkRaised l f).out = m.out := linkRaised_parts l f m .out (by decide)
  have hget := linkRaised_get l f m
  refine ⟨by rw [hget]; rfl, by rw [hget]; rfl, by rw [hget]; rfl, by rw [hget]; rfl, ?_, fun h => ?_, fun h => ?_, fun k hk => linkRaised_others l f m hk⟩
  · rw [hget]
    exact (joinedLink_replays f _).le.trans (by decide)
  · have hj := joinedLink_resumed f h
    have hsub := joinedLink_replay f (m.link.get l)
    rw [hget]
    refine ⟨(congrArg Link.txSeq hj :), (congrArg Link.rxSeq hj :), (congrArg Link.sendq hj :), (congrArg Link.credits hj :), fun k hk => ?_⟩
    exact List.mem_map_of_mem (hsub hk)
  · have hj := joinedLink_restarted f h
    rw [hget, hj]
    exact ⟨rfl, rfl, rfl, fun v => ofFn_get4 _ v, hout⟩

/-- The repetition of the kept frames keeps the rest. -/
theorem Risen.resendAll {l : Fin 4} {f : TrainFrame} {a b : Mach} (hr : Risen l f a b) (h0 : (b.link.get l).replays = 0)
    (h : (a.link.get l).resume = true ∧ f.resume = true) : Risen l f a (b.resendAll l) := by
  obtain ⟨hown, hothers, hkept, -⟩ := resendAll_resent l b
  obtain ⟨htx, hrx, hsq, hcr, hseq⟩ := hr.resumed h
  have hothers2 : ∀ k : Fin 4, k ≠ l → (b.resendAll l).link.get k = a.link.get k := fun k hk => by
    rw [hothers k hk, inc_link, onLink_get_ne _ _ _ hk, hr.others k hk]
  rw [inc_link, onLink_get_self] at hown hkept
  have hk2 := hkept fun _ hn => absurd hn (by simp [replayed])
  clear hkept hothers
  generalize b.resendAll l = c at *
  generalize hx : b.link.get l = x at *
  have hle : (c.link.get l).replays = x.replays + 1 := by rw [hown]; rfl
  refine ⟨by rw [hown]; exact hx ▸ hr.state, by rw [hown]; exact hx ▸ hr.level, by rw [hown]; exact hx ▸ hr.resume, by rw [hown]; exact hx ▸ hr.theta,
    by omega, fun _ => ?_, fun h2 => ?_, hothers2⟩
  · refine ⟨by rw [hown]; exact htx, by rw [hown]; exact hrx, by rw [hown]; exact hsq, by rw [hown]; exact hcr, fun k hk => ?_⟩
    obtain ⟨e, he, hek⟩ := List.mem_map.mp (hk2 k hk)
    exact hek ▸ hseq e he
  · rcases h2 with h2 | h2
    · exact absurd (h.1.symm.trans h2) (by decide)
    · exact absurd (h.2.symm.trans h2) (by decide)

theorem linkUp_risen : Risen l f m (m.linkUp l f) := by
  rw [linkUp_eq]
  split
  next h =>
    simp only [Bool.and_eq_true] at h
    refine (linkRaised_risen l f m).resendAll ?_ h.1
    rw [linkRaised_get]
    exact joinedLink_replays f _
  next => exact linkRaised_risen l f m

/-- A register of the port that going UP does not write. -/
theorem linkUp_g (e : Fld) (he : e.a ≠ (R.LNK_FRAMES_TX l).a ∧ e.a ≠ (R.LNK_REPLAYS l).a) : (m.linkUp l f).g e = (m.linkRaised l f).g e := by
  rw [linkUp_eq]
  split
  · unfold g
    rw [(resendAll_resent l (m.linkRaised l f)).regs _ (by simpa using he.1), inc_rd_ne _ he.2, onLink_rd]
  · rfl

end

end Mach

end Sys2Proof.Machine

namespace Sys2Proof.Machine

set_option Elab.async false

namespace Mach

section
variable (l : Fin 4) (f : TrainFrame) {s : State}

/-! ### The commands of a training (R393) -/

/-- A port that does not train takes no part. -/
theorem training_idle (h : s.training l = false) : Idles (.trainFrameSend l) s ∧ Idles (.train l f) s ∧ Idles (.linkTrainTimeout l) s :=
  ⟨idles_of_act (f := trainSend l) rfl (if_pos (by simp [h])), idles_of_act (f := trainRx l f) rfl (if_pos (by simp [h])),
    idles_of_act (f := trainTimeout l) rfl (if_pos (by simp [h]))⟩

theorem trainRx_waits (h : s.training l = true) (hn : s.toMach.trainCount l f < 3) : Does (.train l f) s fun t =>
    Heard l s.toMach t ∧ (t.link.get l) = heardLink (s.toMach.trainCount l f) f (s.link.get l) ∧ t.jnl = s.jnl ∧ OnlyIn [.regs, .link] s.toMach t := by
  have hf : trainRx l f s.toMach = s.toMach.trainHeard l f := by rw [trainRx_eq l f s.toMach h, if_pos hn]
  exact does_of_act (f := trainRx l f) rfl hf
    ⟨trainHeard_heard l f _, trainHeard_get l f _, trainHeard_parts l f s.toMach .jnl (by decide), trainHeard_parts l f _⟩

/-- A peer without a usable level sets LEVEL_ERR. -/
theorem trainRx_level (h : s.training l = true) (hn : 3 ≤ s.toMach.trainCount l f) (hl : f.levelMax = 0) : Does (.train l f) s fun t =>
    Heard l s.toMach t ∧ (t.link.get l).state = 1 ∧ t.g (R.LNK_STAT_LEVEL_ERR l) = 1 ∧ OnlyIn [.regs, .tick, .jnl, .link, .cache] s.toMach t := by
  have hheard := trainHeard_heard l f s.toMach
  have hparts := trainHeard_parts l f s.toMach
  have hstate : ((s.toMach.trainHeard l f).link.get l).state = 1 := by
    rw [trainHeard_get]
    rfl
  by_cases he : (s.toMach.trainHeard l f).on (R.LNK_STAT_LEVEL_ERR l) = true
  · have hf : trainRx l f s.toMach = s.toMach.trainHeard l f := by rw [trainRx_eq l f s.toMach h, if_neg (by omega), if_pos hl, if_pos he]
    refine does_of_act (f := trainRx l f) rfl hf ⟨hheard, hstate, ?_, hparts.mono (by decide)⟩
    have hlt : (s.toMach.trainHeard l f).g (R.LNK_STAT_LEVEL_ERR l) < 2 := Nat.mod_lt _ (by simp only [R.LNK_STAT_LEVEL_ERR]; decide)
    have hne : (s.toMach.trainHeard l f).g (R.LNK_STAT_LEVEL_ERR l) ≠ 0 := by simpa [on] using he
    omega
  · have hf : trainRx l f s.toMach = ((s.toMach.trainHeard l f).set1 (R.LNK_STAT_LEVEL_ERR l)).health H.linkLevel (.link l) [] := by
      rw [trainRx_eq l f s.toMach h, if_neg (by omega), if_pos hl, if_neg he]
    have hrec := health_recOnly H.linkLevel (.link l) [] ((s.toMach.trainHeard l f).set1 (R.LNK_STAT_LEVEL_ERR l))
    have hlink : (((s.toMach.trainHeard l f).set1 (R.LNK_STAT_LEVEL_ERR l)).health H.linkLevel (.link l) []).link = (s.toMach.trainHeard l f).link := by
      rw [health_link, set1_link]
    refine does_of_act (f := trainRx l f) rfl hf ⟨hheard.then ?_ (fun k _ => by rw [hlink]) ?_, by rw [hlink]; exact hstate, ?_, ?_⟩
    · rw [hrec.g _ (by simp only [R.LNK_FRAMES_RX]; omega), g_set1_ne _ _ _ (by simp only [R.LNK_FRAMES_RX, R.LNK_STAT_LEVEL_ERR]; omega)]
    · rw [show Mach.time _ = _ from hrec.parts .time (by decide), set1_time]
    · rw [hrec.g _ (by simp only [R.LNK_STAT_LEVEL_ERR]; omega)]
      exact g_set1 _ _ rfl (by simp only [R.LNK_STAT_LEVEL_ERR]; decide)
    · exact ((hparts.append (OnlyIn.set1 _ _)).append hrec.parts).mono (by decide)

/-- The third frame alike of a peer with a level brings the port up. -/
theorem trainRx_up (h : s.training l = true) (hn : 3 ≤ s.toMach.trainCount l f) (hl : f.levelMax ≠ 0) : Does (.train l f) s fun t =>
    Heard l s.toMach t ∧ Risen l f (s.toMach.trainHeard l f) t ∧ t.g (R.LNK_STAT_CHG l) = 1 ∧ OnlyIn [.regs, .tick, .jnl, .link, .cache, .out] s.toMach t := by
  have hf : trainRx l f s.toMach = (s.toMach.trainHeard l f).linkUp l f := by rw [trainRx_eq l f s.toMach h, if_neg (by omega), if_neg hl]
  have hrisen := linkUp_risen l f (s.toMach.trainHeard l f)
  have hwithin := (linkUp_within l f (s.toMach.trainHeard l f)).parts
  have hstate : ((s.toMach.trainHeard l f).link.get l).state = 1 := by
    rw [trainHeard_get]
    rfl
  refine does_of_act (f := trainRx l f) rfl hf ⟨(trainHeard_heard l f _).then ?_ hrisen.others (hwithin .time (by decide)), hrisen, ?_,
    ((trainHeard_parts l f _).append hwithin).mono (by decide)⟩
  · rw [linkUp_g l f _ _ ⟨by simp only [R.LNK_FRAMES_RX, R.LNK_FRAMES_TX]; omega, by simp only [R.LNK_FRAMES_RX, R.LNK_REPLAYS]; omega⟩,
      linkRaised_g _ _ _ _ (by simp only [R.LNK_FRAMES_RX, R.LNK_STAT_CHG]; omega) (by simp only [R.LNK_FRAMES_RX]; omega)]
  · rw [linkUp_g l f _ _ ⟨by simp only [R.LNK_STAT_CHG, R.LNK_FRAMES_TX]; omega, by simp only [R.LNK_STAT_CHG, R.LNK_REPLAYS]; omega⟩]
    exact linkRaised_chg l f _ (by rw [hstate]; decide)

/-- A port that is given up at instant el. -/
def givenUp (el : Int) (x : Link) : Link :=
  { x with replay := [], resume := false, locked := false, trained := 0, peerTrain := none, trainSent := none, trainFrom := el, state := 0 }

/-- LINK_TMO ms without step 3. -/
theorem trainTimeout_downs (h : s.training l = true) : Does (.linkTrainTimeout l) s fun t =>
    (s.link.get l).trainFrom + atLeast1 (s.g (R.LNK_REPLAY_LINK_TMO l)) * 1000000 ≤ t.elapsed ∧
      (∃ el, t.link.get l = givenUp el (s.link.get l)) ∧ (∀ k : Fin 4, k ≠ l → t.link.get k = s.link.get k) ∧
      OnlyIn [.regs, .time, .tick, .enc, .jnl, .link, .cache] s.toMach t := by
  have hp := (trainTimeout_within l s.toMach).parts
  have hreach := runToElapsed_reaches s.toMach ((s.link.get l).trainFrom + atLeast1 (s.g (R.LNK_REPLAY_LINK_TMO l)) * 1000000)
  have hrun : (s.toMach.runToElapsed ((s.link.get l).trainFrom + atLeast1 (s.g (R.LNK_REPLAY_LINK_TMO l)) * 1000000)).link = s.link :=
    (runToElapsed_clockOnly _ s.toMach).parts .link (by decide)
  refine does_of_act (f := trainTimeout l) rfl (if_neg (by simp [h])) ?_
  unfold trainTimeout at hp
  rw [if_neg (by simp [h])] at hp
  dsimp only at hp ⊢
  generalize s.toMach.runToElapsed _ = m1 at *
  have hlink : ∀ u, ((((m1.onLink l u).setLinkState l 0).health H.linkDown (.link l) []).link) = ((m1.onLink l u).setLinkState l 0).link :=
    fun u => health_link _ _ _ _
  refine ⟨?_, ⟨m1.elapsed, ?_⟩, fun k hk => ?_, hp⟩
  · have ht : ∀ u, (((m1.onLink l u).setLinkState l 0).health H.linkDown (.link l) []).elapsed = m1.elapsed := fun u => by
      unfold elapsed
      rw [show Mach.time _ = _ from (health_recOnly _ _ _ _).parts .time (by decide), setLinkState_time, onLink_time]
    rw [ht]
    exact hreach
  · rw [hlink, setLinkState_get, onLink_get_self, hrun]
    rfl
  · rw [hlink, setLinkState_others _ _ _ hk, onLink_get_ne _ _ _ hk, hrun]

end

end Mach

/-- Settles O53: what a port holds is followed through STATE, the sequences that are resumed or restarted and the frames that are repeated. -/
theorem linkTraining : Obligations.LinkTraining := by
  unfold Obligations.LinkTraining
  intro s l en f x was trains others starts n mine rx off
  have hst : ∀ t, TrainingStarts l s.toMach t → starts t := fun t h => by
    obtain ⟨hown, ho⟩ := h
    refine ⟨?_, ?_, ?_, ?_, ?_, ?_, ?_, ?_, ?_, ho⟩ <;> rw [hown] <;> rfl
  have hrx : ∀ t, Mach.Heard l s.toMach t → rx t := fun t h => ⟨h.count, h.others, h.time⟩
  have hretrain : was = true → off = false → ∀ c : Instr, exec c s = s.act (Mach.retrain l) → Does c s fun t =>
      starts t ∧ t.g (R.LNK_RETRAINS l) = (s.g (R.LNK_RETRAINS l) + 1) % 2 ^ 32 ∧ (x.state ≠ 1 → t.g (R.LNK_STAT_CHG l) = 1) ∧
      RegsBut [(R.LNK_RETRAINS l).a, (R.LNK_STAT_CHG l).a] s.toMach t ∧ OnlyIn [.regs, .fus, .link] s.toMach t := fun hw ho c hc => by
    have hr := Mach.retrain_starts l s.toMach hw ho
    exact does_of_act (f := Mach.retrain l) hc rfl ⟨hst _ hr.1, hr.2⟩
  refine ⟨Mach.linkEnable_off l en, Mach.linkEnable_same l en, fun ho hw he => ?_, fun ho hw he => ?_, fun h => ?_, fun hw ho c hc => ?_, Mach.training_idle l f,
    fun ht => ⟨Mach.trainSend_sends l ht, fun hn => ?_, fun hn hl => ?_, fun hn hl => ?_, ?_⟩⟩
  · subst he
    exact (Mach.linkEnable_starts l ho hw).imp fun t h => ⟨hst t h.1, h.2⟩
  · subst he
    exact Mach.linkEnable_stops l ho hw
  · exact ⟨idles_of_act (f := Mach.retrain l) rfl (Mach.retrain_idle l s.toMach h), idles_of_act (f := Mach.retrain l) rfl (Mach.retrain_idle l s.toMach h)⟩
  · simp only [List.mem_cons, List.not_mem_nil, or_false] at hc
    rcases hc with rfl | rfl
    · exact hretrain hw ho _ rfl
    · exact hretrain hw ho _ rfl
  · exact (Mach.trainRx_waits l f ht hn).imp fun t h => ⟨hrx t h.1, h.2⟩
  · exact (Mach.trainRx_level l f ht hn hl).imp fun t h => ⟨hrx t h.1, h.2⟩
  · refine (Mach.trainRx_up l f ht hn hl).imp fun t h => ?_
    obtain ⟨hheard, hr, hchg, hparts⟩ := h
    have hget := Mach.trainHeard_get l f s.toMach
    have hout : (s.toMach.trainHeard l f).out = s.out := Mach.trainHeard_parts l f s.toMach .out (by decide)
    have hresumed := hr.resumed
    have hrestarted := hr.restarted
    rw [hget] at hresumed hrestarted
    rw [hout] at hrestarted
    refine ⟨hrx t hheard, hr.state, ?_, hr.resume, hchg, hr.theta, hr.replays, fun h => ?_, hrestarted, hparts⟩
    · rw [hr.level, Mach.trainHeard_g l f s.toMach _ (by simp only [R.LNK_CTRL_LEVEL_MAX, R.LNK_STAT_CHG]; omega)
        (by simp only [R.LNK_CTRL_LEVEL_MAX, R.LNK_FRAMES_RX]; omega)]
    · exact hresumed h
  · refine (Mach.trainTimeout_downs l ht).imp fun t h => ?_
    obtain ⟨hel, ⟨el, hown⟩, ho, hparts⟩ := h
    refine ⟨hel, ?_, ?_, ?_, ?_, ho, hparts⟩ <;> rw [hown] <;> rfl

end Sys2Proof.Machine

namespace Sys2Proof.Machine

set_option Elab.async false

/-! ## What a record leaves of the action table (R271, R286) -/

/-- A record is written: the action table, its generations and the final commit stay, and so does every register outside the journal's block. -/
structure Written (a b : Mach) : Prop where
  actions : b.jnl.actions = a.jnl.actions
  gens : b.jnl.gens = a.jnl.gens
  pf : b.jnl.pf = a.jnl.pf
  regs : ∀ off, ¬ (0x1F0000 ≤ off ∧ off < 0x200000) → b.rd off = a.rd off

namespace Written

theorem refl (a : Mach) : Written a a := ⟨rfl, rfl, rfl, fun _ _ => rfl⟩

theorem trans {a b c : Mach} (h1 : Written a b) (h2 : Written b c) : Written a c :=
  ⟨h2.actions.trans h1.actions, h2.gens.trans h1.gens, h2.pf.trans h1.pf, fun off h => (h2.regs off h).trans (h1.regs off h)⟩

theorem forEach {α : Type} (xs : List α) (f : α → Mach → Mach) (h : ∀ x m, Written m (f x m)) (m : Mach) : Written m (forEach xs f m) :=
  Mach.forEach_mem (Written m) xs f (fun x _ t ht => ht.trans (h x t)) m (refl m)

theorem onJnl (m : Mach) (f : Journal → Journal) (h : ∀ j, (f j).actions = j.actions ∧ (f j).gens = j.gens ∧ (f j).pf = j.pf := by exact fun _ => ⟨rfl, rfl, rfl⟩) : Written m (m.onJnl f) :=
  ⟨(h m.jnl).1, (h m.jnl).2.1, (h m.jnl).2.2, fun _ _ => rfl⟩

theorem scDrop (m : Mach) (p : Nat → Bool) : Written m (m.scDrop p) := ⟨rfl, rfl, rfl, fun _ _ => rfl⟩

theorem onTick (m : Mach) (f : TickUnit → TickUnit) : Written m (m.onTick f) := ⟨rfl, rfl, rfl, fun _ _ => rfl⟩

theorem put (m : Mach) (f : Fld) (v : Nat) (h : 0x1F0000 ≤ f.a ∧ f.a < 0x200000) : Written m (m.put f v) :=
  ⟨rfl, rfl, rfl, fun _ ho => Mach.rd_put_ne m f v fun e => ho (e ▸ h)⟩

theorem inc (m : Mach) (f : Fld) (h : 0x1F0000 ≤ f.a ∧ f.a < 0x200000) : Written m (m.inc f) := put m f _ h

/-- An update of the journal with a count of it. -/
theorem counted (m : Mach) (u : Journal → Journal) (f : Fld) (hf : 0x1F0000 ≤ f.a ∧ f.a < 0x200000)
    (h : ∀ j, (u j).actions = j.actions ∧ (u j).gens = j.gens ∧ (u j).pf = j.pf := by exact fun _ => ⟨rfl, rfl, rfl⟩) : Written m ((m.onJnl u).inc f) :=
  (onJnl m u h).trans (inc _ f hf)

theorem g {a b : Mach} (h : Written a b) (f : Fld) (hf : ¬ (0x1F0000 ≤ f.a ∧ f.a < 0x200000)) : b.g f = a.g f := by
  unfold Mach.g
  rw [h.regs _ hf]

theorem frozen {a b : Mach} (h : Written a b) : b.tableFrozen = a.tableFrozen := by
  unfold Mach.tableFrozen Mach.on
  rw [h.pf, h.g _ (by decide)]

end Written

namespace Mach

theorem freeEarly_written (bank : Nat) (m : Mach) : Written m (m.freeEarly bank).2 := by
  unfold freeEarly
  split
  · exact .counted m _ _ (by decide)
  · exact .refl m

theorem countRefused_written (cls : Nat) (m : Mach) : Written m (m.countRefused cls) := by
  unfold countRefused
  exact (Written.put m _ _ (by split <;> decide)).trans (.onTick _ _)

theorem writeCopies_written (bank : Nat) (m : Mach) : Written m (m.writeCopies bank) := by
  refine Written.forEach _ _ (fun d t => ?_) m
  have h : Written t ((t.addTo R.JNL_MIRROR_ERR (min (t.jnl.failNext.get d) 2)).onJnl fun j => { j with failNext := vput j.failNext d 0 }) :=
    (Written.put t R.JNL_MIRROR_ERR _ (by decide)).trans (.onJnl _ _)
  dsimp only
  split
  · exact h
  · exact h.trans (.onJnl _ _)

theorem admitRec_written (f : Fin 8) (b : Body) (flags : Nat) (m : Mach) : Written m (m.admitRec f b flags).2 := by
  unfold admitRec
  dsimp only
  have e : Written m (if bankSlots < m.bankUsed (m.g (R.JNL_F_CFG_BANK f)) + (1 + m.reserveOf b (m.classOf f b) / 64) then
      m.freeEarly (m.g (R.JNL_F_CFG_BANK f)) else (false, m)).2 := by
    split
    · exact freeEarly_written _ m
    · exact .refl m
  split
  · exact .refl m
  generalize (if bankSlots < m.bankUsed (m.g (R.JNL_F_CFG_BANK f)) + (1 + m.reserveOf b (m.classOf f b) / 64) then
    m.freeEarly (m.g (R.JNL_F_CFG_BANK f)) else (false, m)).2 = m1 at e ⊢
  split
  · exact countRefused_written _ m
  split
  · exact e.trans (countRefused_written _ _)
  split
  · exact e.trans (countRefused_written _ _)
  have w := e.trans (writeCopies_written (m.g (R.JNL_F_CFG_BANK f)) m1)
  split
  · exact w.trans (countRefused_written _ _)
  · exact w.trans ((Written.scDrop _ _).trans <| .counted _ _ _ (by decide))

theorem admitAll_written (b : Body) (flags : Nat) (m : Mach) : Written m (m.admitAll b flags) :=
  .forEach _ _ (fun f t => admitRec_written f b flags t) m

theorem onceHealth_written (h : HCode) (u : HUnit) (n : Nat) (m : Mach) : Written m (m.onceHealth h u n) := by
  unfold onceHealth
  split
  · exact .refl m
  · exact (Written.onJnl m _).trans (admitAll_written _ _ _)

theorem afterRefusal_written (cls : Nat) (why : Option Refused) (m : Mach) : Written m (m.afterRefusal cls why) := by
  unfold afterRefusal
  split
  · exact onceHealth_written _ _ _ m
  · split
    · exact .refl m
    · exact onceHealth_written _ _ _ m
  · exact .refl m

theorem sayLost_written (m : Mach) : Written m m.sayLost := by
  refine Written.forEach _ _ (fun d t => ?_) m
  have h := (Written.onJnl t (fun j => { j with unsaid := j.unsaid.filter (· != d) })).trans
    (admitAll_written (t.healthBody H.mirrorLost (.die d) (t.related H.mirrorLost (.die d)) [d.1 % 2]) 0 _)
  dsimp only
  split
  · exact (h.trans (.onJnl _ _)).trans (.onJnl _ _)
  · exact h

theorem write'_written (f : Fin 8) (b : Body) (flags : Nat) (m : Mach) : Written m (m.write' f b flags) := by
  unfold write' write
  have h := admitRec_written f b flags m
  split
  next n m1 heq =>
    rw [heq] at h
    exact h.trans (sayLost_written _)
  next w m1 heq =>
    rw [heq] at h
    exact (h.trans (afterRefusal_written _ _ _)).trans (sayLost_written _)

theorem health_written (h : HCode) (u : HUnit) (d : List Nat) (m : Mach) : Written m (m.health h u d) :=
  .forEach _ _ (fun f t => write'_written f _ _ t) m

/-! ### An entry that leaves the table (R286 to R291) -/

theorem missAction_actions (c : MissCause) (a : Action) (m : Mach) : (m.missAction c a).jnl.actions = Tab.erase m.jnl.actions a.slot := by
  have h := (write'_written a.fn (m.actionBody true a.id a false false c.code) 0 m).actions
  unfold missAction dropAction
  rw [inc_jnl, onJnl_jnl]
  exact congrArg (Tab.erase · a.slot) h

theorem missAction_counts (c : MissCause) (a : Action) (m : Mach) :
    (m.missAction c a).g (if c = .cancelled then R.ACT_CANCELLED else R.ACT_MISSED) =
      (m.g (if c = .cancelled then R.ACT_CANCELLED else R.ACT_MISSED) + 1) % 2 ^ 32 := by
  have h := write'_written a.fn (m.actionBody true a.id a false false c.code) 0 m
  unfold missAction dropAction
  rw [g_inc_word _ _ (by split <;> rfl) (by split <;> rfl), onJnl_g, h.g _ (by split <;> decide)]

theorem fireAction_actions (late also : Bool) (a : Action) (m : Mach) : (m.fireAction late also a).jnl.actions = Tab.erase m.jnl.actions a.slot := by
  unfold fireAction
  split
  · exact missAction_actions _ a m
  extract_lets ovl stop m0 m1 m2 m3
  have h0 : m0.jnl.actions = m.jnl.actions := by
    unfold m0 markMerged
    split
    · rw [onJnl_jnl]
    · rfl
  have h1 : m1.jnl.actions = m.jnl.actions := by
    unfold m1
    rw [onTrig_jnl, h0]
  have h2 : m2.jnl.actions = Tab.erase m.jnl.actions a.slot := by
    unfold m2 dropAction
    rw [onJnl_jnl]
    exact congrArg (Tab.erase · a.slot) ((write'_written _ _ _ m1).actions.trans h1)
  have h3 : m3.jnl.actions = Tab.erase m.jnl.actions a.slot := by
    unfold m3
    rw [inc_jnl, h2]
  split
  · rw [inc_jnl, h3]
  · exact h3

end Mach

theorem find_erase_self {α : Type} (t : Tab α) (k : Nat) : Tab.find (Tab.erase t k) k = none := by
  unfold Tab.find Tab.erase
  rw [List.find?_eq_none.mpr]
  · rfl
  · intro x hx
    simpa using (List.mem_filter.mp hx).2

theorem find_erase_ne {α : Type} (t : Tab α) {k j : Nat} (h : j ≠ k) : Tab.find (Tab.erase t k) j = Tab.find t j := by
  unfold Tab.find Tab.erase
  rw [List.find?_filter]
  congr 2
  funext e
  by_cases he : e.1 = j
  · simp [he, h]
  · simp [he]

namespace Mach

/-- A late entry has left its slot, or waits there with its cause. -/
theorem lateAction_find (c : MissCause) (a : Action) (m : Mach) :
    ∀ e ∈ Tab.find (m.lateAction c a).jnl.actions a.slot, e.lateBy = some (a.lateBy.getD c) := by
  intro e he
  unfold lateAction at he
  split at he
  · rw [onJnl_jnl] at he
    dsimp only at he
    rw [Tab.find_put_self] at he
    rw [← Option.some.inj he]
  · split at he
    · rw [fireAction_actions, find_erase_self] at he
      cases he
    · rw [missAction_actions, find_erase_self] at he
      cases he

end Mach

end Sys2Proof.Machine

namespace Sys2Proof.Machine

set_option Elab.async false

/-! ## Commands that act at acceptance (R379, R380) -/

/-- The registers of function f's page and of the command unit stay, and so do its CMD and CPL rings and its CSEQ. -/
structure HostKept (f : Fin 8) (a b : Mach) : Prop where
  regs : ∀ off, (0x80000 ≤ off ∧ off < 0x90000) ∨ (0x1000000 ≤ off ∧ off < 0x2000000) → b.rd off = a.rd off
  cmd : (b.fn.get f).rings.get 0 = (a.fn.get f).rings.get 0
  cpl : (b.fn.get f).rings.get 1 = (a.fn.get f).rings.get 1
  cseq : (b.fn.get f).cseq = (a.fn.get f).cseq

namespace HostKept

variable {f : Fin 8} {a b c : Mach}

theorem refl (a : Mach) : HostKept f a a := ⟨fun _ _ => rfl, rfl, rfl, rfl⟩

theorem trans (h1 : HostKept f a b) (h2 : HostKept f b c) : HostKept f a c :=
  ⟨fun off h => (h2.regs off h).trans (h1.regs off h), h2.cmd.trans h1.cmd, h2.cpl.trans h1.cpl, h2.cseq.trans h1.cseq⟩

theorem of_fn (hr : ∀ off, (0x80000 ≤ off ∧ off < 0x90000) ∨ (0x1000000 ≤ off ∧ off < 0x2000000) → b.rd off = a.rd off) (hf : b.fn = a.fn) :
    HostKept f a b := ⟨hr, by rw [hf], by rw [hf], by rw [hf]⟩

theorem of_regs (hr : b.regs = a.regs) (hf : b.fn = a.fn) : HostKept f a b :=
  of_fn (fun off _ => by unfold Mach.rd; rw [hr]) hf

theorem put (m : Mach) (e : Fld) (v : Nat) (h : e.a < 0x80000 ∨ (0x90000 ≤ e.a ∧ e.a < 0x1000000)) : HostKept f m (m.put e v) :=
  of_fn (fun off ho => Mach.rd_put_ne m e v (by omega)) (Mach.put_fn m e v)

theorem onFn (m : Mach) (u : Func → Func) (h : ∀ x, (u x).rings.get 0 = x.rings.get 0 ∧ (u x).rings.get 1 = x.rings.get 1 ∧ (u x).cseq = x.cseq) :
    HostKept f m (m.onFn f u) := by
  refine ⟨fun off _ => Mach.onFn_rd m f u off, ?_, ?_, ?_⟩ <;> rw [Mach.onFn_fn, vmod_get_self]
  · exact (h _).1
  · exact (h _).2.1
  · exact (h _).2.2

theorem g (h : HostKept f a b) (e : Fld) (he : (0x80000 ≤ e.a ∧ e.a < 0x90000) ∨ (0x1000000 ≤ e.a ∧ e.a < 0x2000000)) : b.g e = a.g e := by
  unfold Mach.g
  rw [h.regs _ he]

end HostKept

/-- An effect on other registers and other rings leaves the fetch as it was. -/
theorem Fetched.hostKept {f : Fin 8} {a b c : Mach} (h : Fetched f a b) (hk : HostKept f b c) : Fetched f a c := by
  have hpage : fnPage f = 0x81000 ∨ (0x1000000 ≤ fnPage f ∧ fnPage f < 0x1080000) := by
    unfold fnPage
    split <;> omega
  refine ⟨?_, hk.cseq.trans h.cseq, (hk.g _ (by decide)).trans h.fetched, hk.cpl.trans h.cpl, ?_, ?_⟩
  · rw [← h.head]
    exact congrArg Ring.count hk.cmd
  · rw [← h.cplEn]
    unfold Mach.ringEn Mach.on
    rw [hk.g _ (by simp only [R.HIF_F_RING_CFG_EN]; omega)]
  · rw [← h.cplSize]
    unfold Mach.ringSize
    rw [hk.g _ (by simp only [R.HIF_F_RING_CFG_SZ]; omega)]

section
variable {c : Instr} {h : CmdHdr} {op : Nat} {owes : Bool} {judge : Mach → Option Nat} {accept : Nat → Mach → Mach.Accept} {s : State} {a : Mach.Accept}
  {P : Mach → Prop} (hx : exec c s = s.act (Mach.command h op owes judge accept)) (hf : s.fetchable h.fn = true) (hp : s.preCheck h op = none)
  (hj : judge (s.fetch h.fn) = none) (ha : accept (s.fn.get h.fn).cseq (s.taken h owes) = a) (hk : HostKept h.fn (s.taken h owes) a.m)

include hx hf hp hj ha hk

/-- An accepted command whose effect leaves the command unit alone, and that may end commands of its function afterwards. -/
theorem effect_accepts (hend : ∀ t, EndOnly h.fn t (a.after t)) (hP : ∀ t, CplOnly h.fn a.m t → P (a.after t)) : Accepts c h op a.d10 a.d18 s P := by
  have hb := (Mach.taken_fetched h owes s.toMach).hostKept hk
  have hr : a.m.g R.HIF_CMD_REJECTED = s.g R.HIF_CMD_REJECTED :=
    (hk.g _ (by decide)).trans (Mach.taken_g h owes s.toMach R.HIF_CMD_REJECTED (by decide))
  have ht := Mach.cplWrite_cplOnly h.fn (s.firstCpl h op St.accepted a.d10 a.d18) a.m
  have he := hend (a.m.cplWrite h.fn (s.firstCpl h op St.accepted a.d10 a.d18))
  exact does_of_act hx (by rw [Mach.command_accepted hf hp hj, ha])
    ⟨(hb.fetches ht).of_endOnly he, he.out _ (hb.cplOf_mem (Mach.ringEn_of_fetchable hf) op St.accepted _ _),
      (Mach.g_of_regs (he.parts .regs (by decide)) _).trans ((ht.g _).trans hr), hP _ ht⟩

/-- The same where nothing follows the first completion. -/
theorem plain_accepts (hafter : a.after = id) (hP : ∀ t, CplOnly h.fn a.m t → P t) : Accepts c h op a.d10 a.d18 s P :=
  effect_accepts hx hf hp hj ha hk (fun t => by rw [hafter]; exact .refl t) fun t ht => by rw [hafter]; exact hP t ht

end

/-- A command that changes only its own ring and its own function. -/
def Quiet (a b : Mach) : Prop := RegsBut [R.HIF_CMD_FETCHED.a] a b ∧ OnlyIn [.regs, .jnl, .sleep, .fn, .out] a b

section
variable {h : CmdHdr} {owes : Bool} {a b t : Mach}

/-- What an effect and its completion leave of the registers. -/
theorem taken_cplOnly_regs {l : List Nat} (hr : RegsBut l (a.taken h owes) b) (ht : CplOnly h.fn b t) : RegsBut (R.HIF_CMD_FETCHED.a :: l) a t :=
  Mach.RegsBut.of_regs (((Mach.taken_regsBut h owes a).mono (by simp)).trans (hr.mono (by simp))) (ht.parts .regs (by decide))

/-- What they leave of the package. -/
theorem taken_cplOnly_parts {l : List Part} (hb : OnlyIn l (a.taken h owes) b) (ht : CplOnly h.fn b t) :
    OnlyIn ([.regs, .sleep, .fn] ++ l ++ [.jnl, .fn, .out]) a t :=
  ((Mach.taken_onlyIn h owes a).append hb).append ht.parts

theorem taken_quiet (hr : b.regs = (a.taken h owes).regs) (hb : OnlyIn [.jnl, .fn, .out] (a.taken h owes) b) (ht : CplOnly h.fn b t) : Quiet a t :=
  ⟨taken_cplOnly_regs (l := []) (Mach.RegsBut.of_regs (.refl _ _) hr) ht, (taken_cplOnly_parts hb ht).mono (by decide)⟩

theorem taken_open (ht : CplOnly h.fn b t) (hb : (b.fn.get h.fn).openCmds = ((a.taken h true).fn.get h.fn).openCmds) :
    (t.fn.get h.fn).openCmds = (a.fn.get h.fn).openCmds ++ [(a.fn.get h.fn).cseq] := by
  rw [ht.own]
  exact hb.trans (congrArg Func.openCmds (Mach.taken_fn_self h a))

end

/-! ### SET_ENERGY_CAP and SET_PL_LIMIT (R305, R315) -/

section
variable {s : State} (h : CmdHdr)

theorem fetch_gradeCap : (s.fetch h.fn).gradeCap = s.gradeCap := by
  unfold Mach.gradeCap
  rw [show (s.fetch h.fn).chip = s.chip from Mach.fetch_onlyIn h.fn s.toMach .chip (by decide)]

theorem fetch_gradePl : (s.fetch h.fn).gradePl = s.gradePl := by
  unfold Mach.gradePl
  rw [show (s.fetch h.fn).chip = s.chip from Mach.fetch_onlyIn h.fn s.toMach .chip (by decide)]

theorem gradeCap_le (m : Mach) : m.gradeCap ≤ 40000 := by
  unfold Mach.gradeCap
  split <;> decide

variable (cap mask level : Nat) (hf : s.fetchable h.fn = true)

include hf

theorem setCap_rejects (hp : s.preCheck h 0x32 = none) (hc : cap < 8000 ∨ s.gradeCap < cap) : Rejects (.setEnergyCap h cap) h 0x32 0x10 s := by
  refine command_rejects (s := s) (op := 0x32) rfl hf ?_
  rw [hp, fetch_gradeCap, if_pos hc]
  rfl

theorem setCap_accepts (hp : s.preCheck h 0x32 = none) (h1 : 8000 ≤ cap) (h2 : cap ≤ s.gradeCap) : Accepts (.setEnergyCap h cap) h 0x32 0 0 s fun t =>
    t.g R.PWR_CAP = cap ∧ RegsBut [R.HIF_CMD_FETCHED.a, R.PWR_CAP.a] s.toMach t ∧ OnlyIn [.regs, .jnl, .sleep, .fn, .out] s.toMach t := by
  have hle := gradeCap_le s.toMach
  refine plain_accepts (a := { m := (s.taken h false).put R.PWR_CAP cap }) rfl hf hp ?_ rfl (.put _ _ _ (by decide)) rfl fun t ht => ⟨?_, ?_, ?_⟩
  · rw [fetch_gradeCap]
    exact if_neg (by omega)
  · rw [ht.g]
    exact Mach.g_put_fits _ (by decide) (by simp only [R.PWR_CAP]; omega)
  · exact taken_cplOnly_regs (Mach.RegsBut.put _ _ _) ht
  · exact (taken_cplOnly_parts (OnlyIn.put _ _ _) ht).mono (by decide)

theorem setLimit_rejects (hp : s.preCheck h 0x33 = none) (hc : s.gradePl < level) : Rejects (.setPlLimit h mask level) h 0x33 0x10 s := by
  refine command_rejects (s := s) (op := 0x33) rfl hf ?_
  rw [hp, fetch_gradePl, if_pos hc]
  rfl

omit hf in
/-- The dies of a list take a limit at the next boundary. -/
def limitDies (level : Nat) (ds : List (Fin 4)) (m : Mach) : Mach := forEach ds (fun d u => u.onLvl d fun l => { l with limitNext := some level }) m

omit hf in
theorem limitDies_lvl (ds : List (Fin 4)) (m : Mach) (d : Fin 4) :
    (limitDies level ds m).lvl.get d = if d ∈ ds then { m.lvl.get d with limitNext := some level } else m.lvl.get d := by
  induction ds generalizing m with
  | nil => simp [limitDies, forEach]
  | cons x r ih =>
    have hstep : limitDies level (x :: r) m = limitDies level r (m.onLvl x fun l => { l with limitNext := some level }) := rfl
    rw [hstep, ih, Mach.onLvl_lvl]
    by_cases hx : d = x
    · subst hx
      rw [vmod_get_self]
      simp
    · rw [vmod_get_ne _ _ hx]
      simp [hx]

omit hf in
theorem limitDies_parts (ds : List (Fin 4)) (m : Mach) : OnlyIn [.lvl] m (limitDies level ds m) :=
  OnlyIn.forEach _ _ (fun d t => Mach.onLvl_lvlOnly t d _) m

theorem setLimit_accepts (hp : s.preCheck h 0x33 = none) (hl : level ≤ s.gradePl) : Accepts (.setPlLimit h mask level) h 0x33 0 0 s fun t =>
    (∀ d : Fin 4, t.lvl.get d = if bitN mask d.1 then { s.lvl.get d with limitNext := some level } else s.lvl.get d) ∧
      RegsBut [R.HIF_CMD_FETCHED.a] s.toMach t ∧ OnlyIn [.regs, .lvl, .jnl, .sleep, .fn, .out] s.toMach t := by
  have hw := limitDies_parts level ((List.finRange 4).filter fun (d : Fin 4) => bitN mask d.1) (s.taken h false)
  refine plain_accepts (a := { m := limitDies level ((List.finRange 4).filter fun (d : Fin 4) => bitN mask d.1) (s.taken h false) }) rfl hf hp ?_ rfl ?_ rfl
    fun t ht => ⟨fun d => ?_, ?_, ?_⟩
  · rw [fetch_gradePl]
    exact if_neg (by omega)
  · exact .of_regs (hw .regs (by decide)) (hw .fn (by decide))
  · have hs : (s.taken h false).lvl = s.lvl := Mach.taken_onlyIn h false s.toMach .lvl (by decide)
    rw [show t.lvl = _ from ht.parts .lvl (by decide), limitDies_lvl, hs]
    simp
  · exact taken_cplOnly_regs (l := []) (Mach.RegsBut.of_regs (.refl _ _) (hw .regs (by decide))) ht
  · exact (taken_cplOnly_parts hw ht).mono (by decide)

end

end Sys2Proof.Machine

namespace Sys2Proof.Machine

set_option Elab.async false

section
variable {s : State} (h : CmdHdr)

/-! ### EXT_MEAS (R223) -/

variable (ts md cd : Int) (var cid cls : Nat) (clsValid spawn : Bool)

theorem fetch_time (f : Fin 8) (m : Mach) : (m.fetch f).time = m.time := Mach.fetch_onlyIn f m .time (by decide)

theorem extJudge_fetch : (if var = 0 then some St.format
      else if ts + 1000 * ((s.fetch h.fn).g (R.FUS_F_EXT h.fn) : Int) < (s.fetch h.fn).time.n then some St.late else none) =
    (if var = 0 then some St.format else if ts + 1000 * (s.g (R.FUS_F_EXT h.fn) : Int) < s.time.n then some St.late else none) := by
  rw [Mach.fetch_g _ _ (by simp only [R.FUS_F_EXT, R.HIF_CMD_FETCHED]; omega), fetch_time]

variable (hf : s.fetchable h.fn = true) (hp : s.preCheck h 0x60 = none)

include hf hp

theorem extMeas_format (hv : var = 0) : Rejects (.extMeas h ts md cd var cid cls clsValid spawn) h 0x60 0x10 s := by
  refine command_rejects (s := s) (op := 0x60) rfl hf ?_
  rw [hp, extJudge_fetch, if_pos hv]
  rfl

theorem extMeas_late (hv : var ≠ 0) (hl : ts + 1000 * (s.g (R.FUS_F_EXT h.fn) : Int) < s.time.n) :
    Rejects (.extMeas h ts md cd var cid cls clsValid spawn) h 0x60 0x14 s := by
  refine command_rejects (s := s) (op := 0x60) rfl hf ?_
  rw [hp, extJudge_fetch, if_neg hv, if_pos hl]
  rfl

omit hf hp in
/-- The measurement that waits. -/
def waitingExt (cseq : Nat) (m : Mach) : ExtWait :=
  { fn := h.fn, ctag := h.ctag, cseq := cseq, ts := ts, md := md, cd := cd, var := var, cid := cid,
    cls := if clsValid then some cls else none, spawn := spawn, late := if m.extLate ts then some m.time.n else none }

omit hf hp in
/-- A measurement joins those that wait, and is counted. -/
def extTaken (x : ExtWait) (m : Mach) : Mach := (m.onFus fun u => { u with ext := u.ext ++ [x] }).inc R.FUS_EXT_IN

theorem extMeas_accepts (hv : var ≠ 0) (hl : ¬ ts + 1000 * (s.g (R.FUS_F_EXT h.fn) : Int) < s.time.n) :
    Accepts (.extMeas h ts md cd var cid cls clsValid spawn) h 0x60 0 0 s fun t =>
      (∃ e ∈ t.fus.ext.getLast?, t.fus.ext = s.fus.ext ++ [e] ∧ e.fn = h.fn ∧ e.cseq = (s.fn.get h.fn).cseq ∧ e.ts = ts ∧ e.md = md ∧ e.cd = cd ∧
        e.var = var ∧ e.cid = cid ∧ e.cls = (if clsValid then some cls else none) ∧ e.spawn = spawn) ∧
      t.fus.store = s.fus.store ∧ (t.fn.get h.fn).openCmds = (s.fn.get h.fn).openCmds ++ [(s.fn.get h.fn).cseq] ∧
      t.g R.FUS_EXT_IN = (s.g R.FUS_EXT_IN + 1) % 2 ^ 32 ∧ OnlyIn [.regs, .fus, .jnl, .sleep, .fn, .out] s.toMach t := by
  have hs : (s.taken h true).fus = s.fus := Mach.taken_onlyIn h true s.toMach .fus (by decide)
  have hg := Mach.taken_g h true s.toMach R.FUS_EXT_IN (by decide)
  have hopen : ∀ u, (((s.taken h true).onFus u).inc R.FUS_EXT_IN).fn = (s.taken h true).fn := fun u => by rw [Mach.inc_fn, Mach.onFus_fn]
  have hk : ∀ u, HostKept h.fn (s.taken h true) (((s.taken h true).onFus u).inc R.FUS_EXT_IN) := fun u =>
    (HostKept.of_regs (Mach.onFus_regs _ u) (Mach.onFus_fn _ u)).trans (.put _ _ _ (by decide))
  have hparts : ∀ u, OnlyIn [.fus, .regs] (s.taken h true) (((s.taken h true).onFus u).inc R.FUS_EXT_IN) := fun u =>
    ((Mach.onFus_within u _).parts.append (OnlyIn.inc _ _)).mono (by decide)
  refine plain_accepts
    (a := { m := extTaken (waitingExt h ts md cd var cid cls clsValid spawn (s.fn.get h.fn).cseq (s.taken h true)) (s.taken h true) }) rfl hf hp ?_ rfl (hk _) rfl
    fun t ht => ?_
  · refine (extJudge_fetch h ts var).trans ?_
    rw [if_neg hv, if_neg hl]
  · have hfus : t.fus = _ := ht.parts .fus (by decide)
    unfold extTaken at hfus
    rw [Mach.inc_fus, Mach.onFus_fus, hs] at hfus
    refine ⟨⟨waitingExt h ts md cd var cid cls clsValid spawn (s.fn.get h.fn).cseq (s.taken h true), ?_, ?_, rfl, rfl, rfl, rfl, rfl, rfl, rfl, rfl, rfl⟩, ?_, ?_, ?_, ?_⟩
    · rw [hfus]
      exact List.getLast?_concat
    · rw [hfus]
    · rw [hfus]
    · exact taken_open ht (congrArg (fun x => (x.get h.fn).openCmds) (hopen _))
    · rw [ht.g]
      unfold extTaken
      rw [Mach.g_inc_word _ _ rfl rfl, Mach.onFus_g, hg]
    · exact (taken_cplOnly_parts (hparts _) ht).mono (by decide)

end

/-! ### QUERY (R380) -/

section
variable {s : State} (h : CmdHdr) (item arg dst len : Nat)

/-- Why a query is refused. -/
def queryBad (s : State) (h : CmdHdr) (item arg : Nat) : Option Nat :=
  if item = 0 ∨ 8 < item then some 0x10
  else if item = 8 ∧ ¬ ((s.own.part.get h.fn).1 ≤ arg ∧ arg < (s.own.part.get h.fn).1 + (s.own.part.get h.fn).2) then some 0x11 else none

theorem taken_queryBytes : (s.taken h false).queryBytes h.fn item arg = s.queryBytes h.fn item arg := by
  have hp := Mach.taken_onlyIn h false s.toMach
  have hr : (s.taken h false).rst = s.rst := hp .rst (by decide)
  have hj : (s.taken h false).jnl = s.jnl := hp .jnl (by decide)
  have hu : (s.taken h false).fus = s.fus := hp .fus (by decide)
  unfold Mach.queryBytes Mach.fptBytes
  rw [hr, hj, hu]

variable (hf : s.fetchable h.fn = true) (hp : s.preCheck h 0x02 = none)

include hf hp

theorem query_rejects : ∀ code ∈ queryBad s h item arg, Rejects (.query h item arg dst len) h 0x02 code s := by
  intro code hc
  refine command_rejects (s := s) (op := 0x02) rfl hf ?_
  rw [hp, Mach.fetch_own]
  exact hc

/-- An item whose bytes the spec lays out. -/
theorem query_answers (hq : queryBad s h item arg = none) {b : List Byte} (hb : s.queryBytes h.fn item arg = some b) :
    Accepts (.query h item arg dst len) h 0x02 (min len b.length) 0 s fun t =>
      .query h.fn dst item ((b.take len).map fun y => (y.toNat : Int)) ∈ t.out ∧ Quiet s.toMach t := by
  rw [← List.length_take]
  refine plain_accepts (a := { m := (s.taken h false).emit (.query h.fn dst item ((b.take len).map fun y => (y.toNat : Int))), d10 := (b.take len).length }) rfl hf hp
    ?_ ?_ (.of_regs (Mach.emit_regs _ _) (Mach.emit_fn _ _)) rfl fun t ht => ⟨?_, ?_⟩
  · rw [Mach.fetch_own]
    exact hq
  · rw [taken_queryBytes, hb]
  · exact ht.out _ (List.mem_cons_self ..)
  · exact taken_quiet (Mach.emit_regs _ _) ((OnlyIn.emit _ _).mono (by decide)) ht

/-- An item whose layout is not stated. -/
theorem query_open (hq : queryBad s h item arg = none) (hb : s.queryBytes h.fn item arg = none) :
    Accepts (.query h item arg dst len) h 0x02 (Config.freeNat s.draws % (len + 1)) 0 s fun t =>
      RegsBut [R.HIF_CMD_FETCHED.a] s.toMach t ∧ OnlyIn [.regs, .jnl, .sleep, .fn, .draws, .out] s.toMach t := by
  have hd : (s.taken h false).draws = s.draws := Mach.taken_onlyIn h false s.toMach .draws (by decide)
  have hw := (Mach.drawNat_within (s.taken h false)).parts
  refine plain_accepts (a := { m := (s.taken h false).drawNat.2.emit (.query h.fn dst item ((s.taken h false).drawNat.2.queryValues h.fn item arg)),
                               d10 := Config.freeNat s.draws % (len + 1) }) rfl hf hp
    ?_ ?_ ?_ rfl fun t ht => ⟨?_, ?_⟩
  · rw [Mach.fetch_own]
    exact hq
  · rw [taken_queryBytes, hb, ← hd]
    rfl
  · exact .of_regs (by rw [Mach.emit_regs]; rfl) (by rw [Mach.emit_fn]; rfl)
  · exact taken_cplOnly_regs (l := []) (Mach.RegsBut.of_regs (.refl _ _) (by rw [Mach.emit_regs]; rfl)) ht
  · exact (taken_cplOnly_parts (hw.append (OnlyIn.emit _ _)) ht).mono (by decide)

end

/-! ### FENCE (R379) -/

section
variable {s : State} (h : CmdHdr)

/-- The function with the fence behind the others. -/
def fenced (h : CmdHdr) (cseq : Nat) (m : Mach) : Mach := m.onFn h.fn fun x => { x with fences := x.fences ++ [(h.ctag, cseq)] }

/-- A fence with no earlier command open ends at once. -/
theorem fencesDone_one {f : Fin 8} {m : Mach} {q : Nat × Nat} (ho : (m.fn.get f).openCmds = [q.2]) (hfe : (m.fn.get f).fences = [q]) :
    ((m.fencesDone f).fn.get f).openCmds = [] ∧ ((m.fencesDone f).fn.get f).fences = [] := by
  have hone : m.fencesDone f = (m.doneOne f { op := 0x01, ctag := q.1, status := St.done, result := 0, cseq := q.2 }).onFn f fun x =>
      { x with fences := x.fences.filter (· != q) } := by
    unfold Mach.fencesDone
    rw [hfe]
    exact if_neg (by rw [ho]; simp)
  have hc := Mach.cplWrite_cplOnly f { op := 0x01, ctag := q.1, status := St.done, result := 0, cseq := q.2 }
    (m.onFn f fun x => { x with openCmds := x.openCmds.filter (· != q.2) })
  have hd : ((m.doneOne f { op := 0x01, ctag := q.1, status := St.done, result := 0, cseq := q.2 }).fn.get f).openCmds = [] ∧
      ((m.doneOne f { op := 0x01, ctag := q.1, status := St.done, result := 0, cseq := q.2 }).fn.get f).fences = [q] := by
    unfold Mach.doneOne
    rw [hc.own, Mach.onFn_fn, vmod_get_self]
    exact ⟨by dsimp only; rw [ho]; simp, hfe⟩
  rw [hone, Mach.onFn_fn, vmod_get_self]
  exact ⟨hd.1, by dsimp only; rw [hd.2]; simp⟩

/-- A fence behind an open command waits. -/
theorem fencesDone_waits {f : Fin 8} {m : Mach} {q : Nat × Nat} (ho : (m.fn.get f).openCmds.any (fun c => decide (c < q.2)) = true)
    (hfe : (m.fn.get f).fences = [q]) : m.fencesDone f = m := by
  unfold Mach.fencesDone
  rw [hfe]
  exact if_pos ho

theorem fence_accepts (hf : s.fetchable h.fn = true) (hp : s.preCheck h 0x01 = none) : Accepts (.fence h) h 0x01 0 0 s fun t =>
    ((s.fn.get h.fn).openCmds = [] → (s.fn.get h.fn).fences = [] → (t.fn.get h.fn).openCmds = [] ∧ (t.fn.get h.fn).fences = []) ∧
      ((s.fn.get h.fn).openCmds.any (fun c => decide (c < (s.fn.get h.fn).cseq)) = true → (s.fn.get h.fn).fences = [] →
        (t.fn.get h.fn).openCmds = (s.fn.get h.fn).openCmds ++ [(s.fn.get h.fn).cseq] ∧ (t.fn.get h.fn).fences = [(h.ctag, (s.fn.get h.fn).cseq)]) ∧
      Quiet s.toMach t := by
  have htk := Mach.taken_fn_self h s.toMach
  have hfs := Mach.fetch_fn_self h.fn s.toMach
  refine effect_accepts (a := { m := fenced h (s.fn.get h.fn).cseq (s.taken h true), after := fun u => u.fencesDone h.fn }) rfl hf hp rfl rfl
    (.onFn _ _ fun _ => ⟨rfl, rfl, rfl⟩) (Mach.fencesDone_endOnly h.fn) fun t ht => ?_
  have hopen : (t.fn.get h.fn).openCmds = (s.fn.get h.fn).openCmds ++ [(s.fn.get h.fn).cseq] := by
    refine taken_open ht ?_
    unfold fenced
    rw [Mach.onFn_fn, vmod_get_self]
  have hfences : (t.fn.get h.fn).fences = (s.fn.get h.fn).fences ++ [(h.ctag, (s.fn.get h.fn).cseq)] := by
    rw [ht.own]
    unfold fenced
    rw [Mach.onFn_fn, vmod_get_self, htk, hfs]
  have hquiet : Quiet s.toMach t := taken_quiet (Mach.onFn_regs _ _ _) ((OnlyIn.onFn _ _ _).mono (by decide)) ht
  have hend := Mach.fencesDone_endOnly h.fn t
  dsimp only
  refine ⟨fun ho hfe => ?_, fun ho hfe => ?_, Mach.RegsBut.of_regs hquiet.1 (hend.parts .regs (by decide)), (hquiet.2.append hend.parts).mono (by decide)⟩
  · rw [ho] at hopen
    rw [hfe] at hfences
    exact fencesDone_one (q := (h.ctag, (s.fn.get h.fn).cseq)) hopen hfences
  · rw [hfe] at hfences
    rw [fencesDone_waits (q := (h.ctag, (s.fn.get h.fn).cseq)) (by rw [hopen, List.any_append, ho]; rfl) hfences]
    exact ⟨hopen, hfences⟩

/-! ### WASH_QUERY and PKG_RESET (R380, R384) -/

theorem washQuery_accepts (hf : s.fetchable h.fn = true) (hp : s.preCheck h 0x81 = none) :
    Accepts (.washQuery h) h 0x81 (((s.own.washes.filter fun (w : Wash) => s.washOwner w == some h.fn).map (·.count)).sum)
      (((s.own.washes.filter fun (w : Wash) => s.washOwner w == some h.fn).filter fun (w : Wash) => w.kind == 2).length * 2 ^ 21) s fun t =>
      (t.fn.get h.fn).openCmds = (s.fn.get h.fn).openCmds ∧ Quiet s.toMach t := by
  have hown : (s.taken h false).own = s.own := Mach.taken_onlyIn h false s.toMach .own (by decide)
  have hwo : ∀ w : Wash, (s.taken h false).washOwner w = s.washOwner w := fun w => by
    unfold Mach.washOwner Mach.ownerOf Mach.granOwner
    rw [hown]
  refine plain_accepts (a := { m := s.taken h false, d10 := ((s.own.washes.filter fun (w : Wash) => s.washOwner w == some h.fn).map (·.count)).sum,
                               d18 := ((s.own.washes.filter fun (w : Wash) => s.washOwner w == some h.fn).filter fun (w : Wash) => w.kind == 2).length * 2 ^ 21 })
    rfl hf hp rfl ?_ (.refl _) rfl fun t ht => ⟨?_, ?_⟩
  · simp only [hown, hwo]
    rfl
  · rw [ht.own]
    have hopen := congrArg Func.openCmds (Mach.fetch_fn_self h.fn s.toMach)
    exact hopen
  · exact taken_quiet (h := h) (owes := false) rfl (OnlyIn.refl _ _) ht

/-- PKG_RESET waits for its 10 us. -/
def resetAsked (m : Mach) : Mach := m.onRst fun r => { r with pkgReset := some m.elapsed }

theorem resetAsked_parts (m : Mach) : OnlyIn [.rst] m (resetAsked m) := OnlyIn.onRst _ _

theorem pkgReset_accepts (hf : s.fetchable h.fn = true) (hp : s.preCheck h 0xF0 = none) : Accepts (.pkgReset h) h 0xF0 0 0 s fun t =>
    t.rst = { s.rst with pkgReset := some s.elapsed } ∧ RegsBut [R.HIF_CMD_FETCHED.a] s.toMach t ∧
      OnlyIn [.regs, .jnl, .sleep, .fn, .rst, .out] s.toMach t := by
  have hr : (s.taken h false).rst = s.rst := Mach.taken_onlyIn h false s.toMach .rst (by decide)
  have he : (s.taken h false).elapsed = s.elapsed := by
    unfold Mach.elapsed
    rw [Mach.taken_time]
  refine plain_accepts (a := { m := resetAsked (s.taken h false) }) rfl hf hp rfl rfl
    (.of_regs (Mach.onRst_regs _ _) (Mach.onRst_fn _ _)) rfl fun t ht => ⟨?_, ?_, ?_⟩
  · rw [show t.rst = _ from ht.parts .rst (by decide)]
    unfold resetAsked
    rw [Mach.onRst_rst, hr, he]
  · exact taken_cplOnly_regs (h := h) (owes := false) (l := []) (Mach.RegsBut.of_regs (.refl _ _) (resetAsked_parts _ .regs (by decide))) ht
  · exact (taken_cplOnly_parts (h := h) (owes := false) (resetAsked_parts _) ht).mono (by decide)

end

end Sys2Proof.Machine

namespace Sys2Proof.Machine

set_option Elab.async false

/-! ### ACTION_ADD (R292) -/

section
variable {s : State} (h : CmdHdr) (out : Fin 8) (position : Bool) (enc : Fin 4) (fire : Bool) (width : Nat) (trigger : Int)

/-- Why an entry is refused. -/
def addBad (s : State) (h : CmdHdr) (out : Fin 8) (position : Bool) (enc : Fin 4) (width : Nat) : Option Nat :=
  if bitN (s.g (R.ACT_F_OUT_OUT_MASK h.fn)) out.1 = false then some 0x11
  else if (s.washing kindTrig out.1 || s.tableFrozen) = true then some 0x12
  else if width = 0 ∨ 65535 < width ∨ (position = true ∧ s.on (R.MOT_ENC_CTRL_EN enc) = false) then some 0x10
  else if 4096 ≤ s.jnl.actions.length then some 0x15 else none

/-- The entry that is programmed. -/
def addedAction (s : State) (h : CmdHdr) (out : Fin 8) (position : Bool) (enc : Fin 4) (fire : Bool) (width : Nat) (trigger : Int) : Action :=
  { gen := Tab.get (fun _ => 0) s.jnl.gens (Mach.freeSlotFrom s.jnl.actions 0) + 1, slot := Mach.freeSlotFrom s.jnl.actions 0, out := out, kind := position,
    enc := enc, fire := fire, origClass := 0, fn := h.fn, width := width, trigger := trigger, origRsn := 0, cid := 0, rule := 0x3F }

/-- The same before it has a slot. -/
def newAction (h : CmdHdr) (out : Fin 8) (position : Bool) (enc : Fin 4) (fire : Bool) (width : Nat) (trigger : Int) : Action :=
  { gen := 0, slot := 0, out := out, kind := position, enc := enc, fire := fire, origClass := 0, fn := h.fn, width := width,
    trigger := trigger, origRsn := 0, cid := 0, rule := 0x3F }

theorem frozen_fetch (f : Fin 8) (m : Mach) : (m.fetch f).tableFrozen = m.tableFrozen := by
  unfold Mach.tableFrozen
  rw [Mach.fetch_on _ _ (by decide), Mach.fetch_jnl]

theorem addJudge_fetch : (if !bitN ((s.fetch h.fn).g (R.ACT_F_OUT_OUT_MASK h.fn)) out.1 then some St.owner
      else if (s.fetch h.fn).washing kindTrig out.1 || (s.fetch h.fn).tableFrozen then some St.busy
      else if width = 0 ∨ 65535 < width ∨ (position ∧ !(s.fetch h.fn).on (R.MOT_ENC_CTRL_EN enc)) then some St.format
      else if 4096 ≤ (s.fetch h.fn).actionsInUse then some St.nospace else none) = addBad s h out position enc width := by
  have hw : (s.fetch h.fn).washing kindTrig out.1 = s.washing kindTrig out.1 := by
    unfold Mach.washing
    rw [Mach.fetch_own]
  unfold Mach.actionsInUse addBad
  rw [Mach.fetch_g _ _ (by simp only [R.ACT_F_OUT_OUT_MASK, R.HIF_CMD_FETCHED]; omega), hw, frozen_fetch,
    Mach.fetch_on _ _ (by simp only [R.MOT_ENC_CTRL_EN, R.HIF_CMD_FETCHED]; omega), Mach.fetch_jnl]
  simp only [Bool.not_eq_true']
  rfl

theorem actionAdd_rejects (hf : s.fetchable h.fn = true) (hp : s.preCheck h 0x50 = none) :
    ∀ code ∈ addBad s h out position enc width, Rejects (.actionAdd h out position enc fire width trigger) h 0x50 code s := by
  intro code hc
  refine command_rejects (s := s) (op := 0x50) rfl hf ?_
  rw [hp, addJudge_fetch]
  exact hc

/-- The entry stands in the lowest free slot, and an entry to S2 is given up (R325). -/
def programmed (a : Action) (m : Mach) : Mach :=
  (m.onJnl fun j => { j with gens := Tab.put j.gens a.slot a.gen, actions := Tab.put j.actions a.slot a }).keepAwake

theorem programmed_within (a : Action) (m : Mach) : OnlyIn [.jnl, .tick, .sleep] m (programmed a m) := by
  unfold programmed Mach.keepAwake
  split
  · exact ((OnlyIn.onJnl m _).append (Mach.abandonEntry_within _).parts).mono (by decide)
  · exact (OnlyIn.onJnl m _).mono (by decide)

theorem programmed_jnl (a : Action) (m : Mach) :
    (programmed a m).jnl = { m.jnl with gens := Tab.put m.jnl.gens a.slot a.gen, actions := Tab.put m.jnl.actions a.slot a } := by
  unfold programmed Mach.keepAwake
  split
  · rw [(Mach.abandonEntry_within _).keeps .jnl, Mach.onJnl_jnl]
  · rfl

theorem programmed_awake (a : Action) (m : Mach) (h1 : m.sleep.stepAt ≠ none) (h2 : m.sleep.goS3 = false) : (programmed a m).sleep.entering = none := by
  unfold programmed Mach.keepAwake
  rw [if_pos]
  · rfl
  · rw [Mach.onJnl_sleep, h2, Option.isSome_iff_ne_none.mpr h1]
    rfl

/-- Whether an entry is late is read from the clock, the encoder and the leads alone (R290). -/
theorem lateNow_congr {a b : Mach} (x : Action) (ht : b.time.n = a.time.n) (he : b.enc = a.enc) (hr : ∀ f : Fld, f.a ≠ R.HIF_CMD_FETCHED.a → b.g f = a.g f) :
    b.lateNow x = a.lateNow x := by
  unfold Mach.lateNow Mach.liveMd Mach.mdValid Mach.on
  rw [ht, he, hr (R.MOT_ENC_CTRL_EN x.enc) (by simp only [R.MOT_ENC_CTRL_EN, R.HIF_CMD_FETCHED]; omega),
    hr (R.MOT_ENC_CTRL_MD_NEG x.enc) (by simp only [R.MOT_ENC_CTRL_MD_NEG, R.HIF_CMD_FETCHED]; omega), hr R.ACT_LEAD_POS_LEAD (by decide),
    hr R.ACT_LEAD_T_LEAD (by decide)]

theorem programAction_eq {m : Mach} (hj : m.jnl = s.jnl) (hl : (programmed (addedAction s h out position enc fire width trigger) m).lateNow
      (addedAction s h out position enc fire width trigger) = s.lateNow (addedAction s h out position enc fire width trigger)) :
    m.programAction (newAction h out position enc fire width trigger) =
      ((addedAction s h out position enc fire width trigger).id,
        if s.lateNow (addedAction s h out position enc fire width trigger) then
          (programmed (addedAction s h out position enc fire width trigger) m).lateAction .late (addedAction s h out position enc fire width trigger)
        else programmed (addedAction s h out position enc fire width trigger) m) := by
  rw [← hl]
  unfold addedAction
  rw [← hj]
  rfl

theorem ActOnly.hostKept {f : Fin 8} {a b : Mach} (h : ActOnly a b) : HostKept f a b :=
  .of_fn (fun off _ => h.regs off (by omega)) (h.parts .fn (by decide))

theorem actionAdd_accepts (hf : s.fetchable h.fn = true) (hp : s.preCheck h 0x50 = none) (hbad : addBad s h out position enc width = none) :
    Accepts (.actionAdd h out position enc fire width trigger) h 0x50 (addedAction s h out position enc fire width trigger).id 0 s fun t =>
      (s.lateNow (addedAction s h out position enc fire width trigger) = false →
        t.jnl.actions = Tab.put s.jnl.actions (Mach.freeSlotFrom s.jnl.actions 0) (addedAction s h out position enc fire width trigger) ∧
        t.jnl.recs = s.jnl.recs ∧ t.time = s.time) ∧
      (s.lateNow (addedAction s h out position enc fire width trigger) = true →
        ∀ e ∈ Tab.find t.jnl.actions (Mach.freeSlotFrom s.jnl.actions 0), e.lateBy = some .late) ∧
      (s.sleep.stepAt ≠ none → s.sleep.goS3 = false → t.sleep.entering = none) ∧
      OnlyIn [.regs, .time, .tick, .jnl, .sleep, .fn, .cache, .out] s.toMach t := by
  have hj : (s.taken h false).jnl = s.jnl := Mach.taken_onlyIn h false s.toMach .jnl (by decide)
  have henc : (s.taken h false).enc = s.enc := Mach.taken_onlyIn h false s.toMach .enc (by decide)
  have hsl : (s.taken h false).sleep = { s.sleep with idleFrom := s.elapsed } := Mach.fetch_sleep h.fn s.toMach
  generalize hx : addedAction s h out position enc fire width trigger = x
  have hslot : x.slot = Mach.freeSlotFrom s.jnl.actions 0 := by
    rw [← hx]
    rfl
  have hlate0 : x.lateBy = none := by
    rw [← hx]
    rfl
  have hpw := programmed_within x (s.taken h false)
  have hpj := programmed_jnl x (s.taken h false)
  rw [hj] at hpj
  have haw := programmed_awake x (s.taken h false)
  rw [hsl] at haw
  have hl : (programmed x (s.taken h false)).lateNow x = s.lateNow x := by
    refine lateNow_congr x ?_ ?_ fun e he => ?_
    · rw [show (programmed x (s.taken h false)).time = (s.taken h false).time from hpw .time (by decide), Mach.taken_time]
    · rw [show (programmed x (s.taken h false)).enc = (s.taken h false).enc from hpw .enc (by decide), henc]
    · rw [Mach.g_of_regs (hpw .regs (by decide)), Mach.taken_g _ _ _ _ he]
  have hprog := programAction_eq (s := s) h out position enc fire width trigger hj (by rw [hx]; exact hl)
  rw [hx] at hprog
  have hact : ActOnly (programmed x (s.taken h false))
      (if s.lateNow x then (programmed x (s.taken h false)).lateAction .late x else programmed x (s.taken h false)) := by
    split
    · exact Mach.lateAction_actOnly _ _ _
    · exact .refl _
  have htime : (programmed x (s.taken h false)).time = s.time := (hpw .time (by decide)).trans (Mach.taken_time h false s.toMach)
  have hlate := Mach.lateAction_find .late x (programmed x (s.taken h false))
  rw [hslot, hlate0] at hlate
  have hk : HostKept h.fn (s.taken h false) (programmed x (s.taken h false)) := .of_regs (hpw .regs (by decide)) (hpw .fn (by decide))
  refine plain_accepts (a := { m := (if s.lateNow x then (programmed x (s.taken h false)).lateAction .late x else programmed x (s.taken h false)), d10 := x.id })
    rfl hf hp ?_ ?_ (hk.trans hact.hostKept) rfl fun t ht => ?_
  · exact (addJudge_fetch h out position enc width).trans hbad
  · exact congrArg (fun p : Nat × Mach => ({ m := p.2, d10 := p.1 } : Mach.Accept)) hprog
  · generalize programmed x (s.taken h false) = m1 at *
    dsimp only at ht
    refine ⟨fun hno => ?_, fun hyes => ?_, fun h1 h2 => ?_, ?_⟩
    · rw [hno] at ht
      have htj : t.jnl = { m1.jnl with delivery := t.jnl.delivery } := ht.jnl
      have htt : t.time = m1.time := ht.parts .time (by decide)
      refine ⟨?_, ?_, htt.trans htime⟩
      · rw [htj, hpj, hslot]
      · rw [htj, hpj]
    · rw [hyes] at ht
      have htj := ht.jnl
      rw [if_pos rfl] at htj
      rw [htj]
      exact hlate
    · rw [show t.sleep = _ from ht.parts .sleep (by decide), show Mach.sleep _ = _ from hact.parts .sleep (by decide)]
      exact haw h1 h2
    · exact (taken_cplOnly_parts (hpw.append hact.parts) ht).mono (by decide)

end

end Sys2Proof.Machine

namespace Sys2Proof.Machine

set_option Elab.async false

/-! ### ACTION_CANCEL (R292) -/

section
variable {s : State} (h : CmdHdr) (id : Nat)

/-- The entry that an ID names. -/
def namedAction (m : Mach) (id : Nat) : Option Action := (m.jnl.actions.find? fun e => e.2.id == id).map (·.2)

theorem namedAction_congr {a b : Mach} (hj : b.jnl = a.jnl) : namedAction b id = namedAction a id := by
  unfold namedAction
  rw [hj]

/-- Why a cancellation is refused. -/
def cancelBad (m : Mach) (h : CmdHdr) (id : Nat) : Option Nat :=
  match namedAction m id with
  | some a => if a.fn ≠ h.fn then some St.owner else if m.tableFrozen then some St.busy else none
  | none => some St.state

/-- The entry that an ID names is cancelled. -/
def cancelNamed (id : Nat) (m : Mach) : Mach :=
  match namedAction m id with
  | some a => m.missAction .cancelled a
  | none => m

theorem actionCancel_eq : Mach.actionCancel h id = Mach.command h 0x51 false (fun t => cancelBad t h id) (fun _ t => { m := cancelNamed id t }) := rfl

theorem cancelBad_fetch : cancelBad (s.fetch h.fn) h id = cancelBad s.toMach h id := by
  unfold cancelBad
  rw [namedAction_congr id (Mach.fetch_jnl h.fn s.toMach), frozen_fetch]

variable (hf : s.fetchable h.fn = true) (hp : s.preCheck h 0x51 = none)

include hf hp

theorem actionCancel_rejects {code : Nat} (hc : cancelBad s.toMach h id = some code) : Rejects (.actionCancel h id) h 0x51 code s := by
  refine command_rejects (s := s) (op := 0x51) (congrArg s.act (actionCancel_eq h id)) hf ?_
  rw [hp]
  exact (cancelBad_fetch h id).trans hc

theorem actionCancel_accepts {a : Action} (ha : namedAction s.toMach id = some a) (hc : cancelBad s.toMach h id = none) :
    Accepts (.actionCancel h id) h 0x51 0 0 s fun t =>
      t.jnl.actions = Tab.erase s.jnl.actions a.slot ∧ t.g R.ACT_CANCELLED = (s.g R.ACT_CANCELLED + 1) % 2 ^ 32 ∧ t.time = s.time ∧
        OnlyIn [.regs, .tick, .jnl, .sleep, .fn, .cache, .out] s.toMach t := by
  have hj : (s.taken h false).jnl = s.jnl := Mach.taken_onlyIn h false s.toMach .jnl (by decide)
  have hacts := Mach.missAction_actions .cancelled a (s.taken h false)
  have hcount := Mach.missAction_counts .cancelled a (s.taken h false)
  rw [if_pos rfl, Mach.taken_g _ _ _ _ (by decide)] at hcount
  rw [hj] at hacts
  have hact := Mach.missAction_actOnly .cancelled a (s.taken h false)
  have hw := (Mach.missAction_within .cancelled a (s.taken h false)).parts
  refine plain_accepts (a := { m := (s.taken h false).missAction .cancelled a }) (congrArg s.act (actionCancel_eq h id)) hf hp ((cancelBad_fetch h id).trans hc) ?_ hact.hostKept rfl fun t ht => ?_
  · have hn : namedAction (s.taken h false) id = some a := (namedAction_congr id hj).trans ha
    unfold cancelNamed
    rw [hn]
  · refine ⟨?_, ?_, ?_, (taken_cplOnly_parts hw ht).mono (by decide)⟩
    · rw [ht.jnl]
      exact hacts
    · rw [ht.g]
      exact hcount
    · rw [show t.time = _ from ht.parts .time (by decide), show Mach.time _ = _ from hw .time (by decide), Mach.taken_time]

end

/-! ### RPT_RESUME (R284, R388) -/

/-- Class c of function f is resumed: it is no longer retained. -/
structure Resumed (f : Fin 8) (c : Fin 4) (a b : Mach) : Prop where
  retained : ∀ k, (b.fn.get f).retained.contains k = ((a.fn.get f).retained.contains k && k != c.1)
  others : ∀ g : Fin 8, g ≠ f → b.fn.get g = a.fn.get g
  host : HostKept f a b
  parts : OnlyIn [.regs, .jnl, .fn] a b

theorem contains_filter_ne (l : List Nat) (c k : Nat) : (l.filter (· != c)).contains k = (l.contains k && k != c) := by
  rw [Bool.eq_iff_iff]
  simp [List.mem_filter]

section
variable (f : Fin 8) (c : Fin 4) (m : Mach)

/-- An update of the function that keeps its CMD and CPL rings, its CSEQ and what it retains. -/
theorem Resumed.onFn {a : Mach} {f : Fin 8} {c : Fin 4} (h : Resumed f c a m) (u : Func → Func)
    (hu : ∀ x, (u x).rings.get 0 = x.rings.get 0 ∧ (u x).rings.get 1 = x.rings.get 1 ∧ (u x).cseq = x.cseq) (hr : ∀ x, (u x).retained = x.retained) :
    Resumed f c a (m.onFn f u) := by
  refine ⟨fun k => ?_, fun g hg => ?_, h.host.trans (.onFn m u hu), (h.parts.append (OnlyIn.onFn m f u)).mono (by decide)⟩
  · rw [Mach.onFn_fn, vmod_get_self, hr, h.retained]
  · rw [Mach.onFn_fn, vmod_get_ne _ _ hg, h.others g hg]

/-- An update elsewhere. -/
theorem Resumed.step {a : Mach} {f : Fin 8} {c : Fin 4} {b : Mach} (h : Resumed f c a m) (hf : b.fn = m.fn) (hk : HostKept f m b) (hp : OnlyIn [.regs, .jnl] m b) :
    Resumed f c a b :=
  ⟨fun k => by rw [hf, h.retained], fun g hg => by rw [hf, h.others g hg], h.host.trans hk, (h.parts.append hp).mono (by decide)⟩

theorem Resumed.onJnl {a : Mach} {f : Fin 8} {c : Fin 4} (h : Resumed f c a m) (u : Journal → Journal) : Resumed f c a (m.onJnl u) :=
  h.step m (Mach.onJnl_fn m u) (.of_regs (Mach.onJnl_regs m u) (Mach.onJnl_fn m u)) ((OnlyIn.onJnl m u).mono (by decide))

theorem unretained_resumed : Resumed f c m (m.onFn f fun x => { x with retained := x.retained.filter (· != c.1) }) := by
  refine ⟨fun k => ?_, fun g hg => ?_, .onFn m _ fun _ => ⟨rfl, rfl, rfl⟩, (OnlyIn.onFn m f _).mono (by decide)⟩
  · rw [Mach.onFn_fn, vmod_get_self]
    exact contains_filter_ne _ _ _
  · rw [Mach.onFn_fn, vmod_get_ne _ _ hg]

/-- A report ring is neither CMD nor CPL. -/
theorem rptRing_rings (u : Ring → Ring) (x : Func) :
    (vmod x.rings (rptRing c) u).get 0 = x.rings.get 0 ∧ (vmod x.rings (rptRing c) u).get 1 = x.rings.get 1 := by
  have h0 : (0 : Fin 7) ≠ rptRing c := fun h => by
    have hv : (0 : Nat) = 2 + c.1 := congrArg Fin.val h
    omega
  have h1 : (1 : Fin 7) ≠ rptRing c := fun h => by
    have hv : (1 : Nat) = 2 + c.1 := congrArg Fin.val h
    omega
  exact ⟨vmod_get_ne _ _ h0, vmod_get_ne _ _ h1⟩

theorem Resumed.onRing {a : Mach} {f : Fin 8} {c : Fin 4} (h : Resumed f c a m) (u : Ring → Ring) : Resumed f c a (m.onRing f (rptRing c) u) :=
  h.onFn m (fun x => { x with rings := vmod x.rings (rptRing c) u }) (fun x => ⟨(rptRing_rings c u x).1, (rptRing_rings c u x).2, rfl⟩) fun _ => rfl

theorem resumeClass_resumed (found : SlotHdr) : Resumed f c m (m.resumeClass f c found) := by
  unfold Mach.resumeClass
  extract_lets r d m1 m2 m3
  have h1 : Resumed f c m m1 := unretained_resumed f c m
  split
  · split
    · have h3 : Resumed f c m m3 := (h1.onJnl m1 _).onRing m2 _
      have h4 : Resumed f c m (m3.advanceDelivery f (rptDelivery c) r (m3.nextRsn f c)) := by
        unfold Mach.advanceDelivery Mach.onDelivery
        exact h3.onJnl m3 _
      have h5 := h4.step _ (Mach.inc_fn _ R.JNL_RECONCILED) (.put _ R.JNL_RECONCILED _ (by decide)) ((OnlyIn.inc _ _).mono (by decide))
      unfold Mach.freeSlots
      exact h5.onJnl _ _
    · exact h1
  · unfold Mach.onDelivery
    exact (h1.onRing m1 _).onJnl _ _

end

/-- One class of a mask: it is resumed where it is retained. -/
def resumeOne (f : Fin 8) (slots : List SlotHdr) (c : Fin 4 × Nat) (m : Mach) : Mach :=
  if (m.fn.get f).retained.contains c.1.1 then m.resumeClass f c.1 ((slots[c.2]?).getD {}) else m

theorem resumeOne_resumed (f : Fin 8) (slots : List SlotHdr) (c : Fin 4 × Nat) (m : Mach) : Resumed f c.1 m (resumeOne f slots c m) := by
  unfold resumeOne
  split
  · exact resumeClass_resumed f c.1 m _
  next hno =>
    refine ⟨fun k => ?_, fun _ _ => rfl, .refl m, OnlyIn.refl _ _⟩
    by_cases hk : k = c.1.1
    · rw [hk]
      simpa using hno
    · simp [hk]

/-- The classes of a list are resumed. -/
theorem resumeAll_spec (f : Fin 8) (slots : List SlotHdr) (cs : List (Fin 4 × Nat)) (m : Mach) :
    (∀ k, ((forEach cs (resumeOne f slots) m).fn.get f).retained.contains k = ((m.fn.get f).retained.contains k && !(cs.map fun c => c.1.1).contains k)) ∧
      (∀ g : Fin 8, g ≠ f → (forEach cs (resumeOne f slots) m).fn.get g = m.fn.get g) ∧ HostKept f m (forEach cs (resumeOne f slots) m) ∧
      OnlyIn [.regs, .jnl, .fn] m (forEach cs (resumeOne f slots) m) := by
  induction cs generalizing m with
  | nil => exact ⟨fun k => by simp [forEach], fun _ _ => rfl, .refl m, OnlyIn.refl _ _⟩
  | cons c r ih =>
    have h1 := resumeOne_resumed f slots c m
    obtain ⟨h2, h3, h4, h5⟩ := ih (resumeOne f slots c m)
    refine ⟨fun k => (h2 k).trans ?_, fun g hg => (h3 g hg).trans (h1.others g hg), h1.host.trans h4, h1.parts.trans h5⟩
    rw [h1.retained, List.map_cons, List.contains_cons, Bool.not_or, ← Bool.and_assoc]
    rfl

section
variable {s : State} (h : CmdHdr) (mask : Nat) (slots : List SlotHdr) (hf : s.fetchable h.fn = true)

theorem ringEn_fetch (f : Fin 8) (r : Fin 7) (m : Mach) : (m.fetch f).ringEn f r = m.ringEn f r := by
  have hpage := Mach.fnPage_ge f
  unfold Mach.ringEn
  rw [Mach.fetch_on _ _ (by simp only [R.HIF_F_RING_CFG_EN, R.HIF_CMD_FETCHED]; omega)]

include hf

theorem rptResume_rejects (hp : s.preCheck h 0x90 = none) (hb : (Mach.classesOf mask).any (fun (c : Fin 4) => !s.ringEn h.fn (rptRing c)) = true) :
    Rejects (.rptResume h mask slots) h 0x90 0x13 s := by
  refine command_rejects (s := s) (op := 0x90) rfl hf ?_
  simp only [hp, ringEn_fetch, hb]
  rfl

theorem rptResume_accepts (hp : s.preCheck h 0x90 = none) (hb : (Mach.classesOf mask).any (fun (c : Fin 4) => !s.ringEn h.fn (rptRing c)) = false) :
    Accepts (.rptResume h mask slots) h 0x90 0 0 s fun t =>
      (∀ c : Fin 4, (t.fn.get h.fn).retained.contains c.1 = ((s.fn.get h.fn).retained.contains c.1 && !bitN mask c.1)) ∧
      (∀ g : Fin 8, g ≠ h.fn → t.fn.get g = s.fn.get g) ∧ OnlyIn [.regs, .jnl, .sleep, .fn, .out] s.toMach t := by
  obtain ⟨h1, h2, h3, h4⟩ := resumeAll_spec h.fn slots (Mach.classesOf mask).zipIdx (s.taken h false)
  have hret : ((s.taken h false).fn.get h.fn).retained = (s.fn.get h.fn).retained := by
    have hself := congrArg Func.retained (Mach.fetch_fn_self h.fn s.toMach)
    exact hself
  have hmap : (Mach.classesOf mask).zipIdx.map (fun c => c.1.1) = (Mach.classesOf mask).map (·.1) := by
    have hz := congrArg (List.map fun c : Fin 4 => c.1) (List.zipIdx_map_fst 0 (Mach.classesOf mask))
    rwa [List.map_map] at hz
  have hmem : ∀ c : Fin 4, ((Mach.classesOf mask).map (·.1)).contains c.1 = bitN mask c.1 := fun c => by
    rw [Bool.eq_iff_iff, List.contains_iff_mem]
    constructor
    · intro hm
      obtain ⟨d, hd, he⟩ := List.mem_map.mp hm
      have hb2 := (List.mem_filter.mp hd).2
      rwa [← he]
    · intro hb2
      exact List.mem_map_of_mem (List.mem_filter.mpr ⟨List.mem_finRange c, hb2⟩)
  refine plain_accepts (a := { m := forEach (Mach.classesOf mask).zipIdx (resumeOne h.fn slots) (s.taken h false) }) rfl hf hp ?_ rfl h3 rfl
    fun t ht => ⟨fun c => ?_, fun g hg => ?_, (taken_cplOnly_parts h4 ht).mono (by decide)⟩
  · simp only [ringEn_fetch, hb]
    rfl
  · rw [ht.own]
    refine (h1 c.1).trans ?_
    rw [hret, hmap, hmem]
  · rw [ht.others g hg]
    exact (h2 g hg).trans (Mach.fetch_fn_other _ hg)

end

end Sys2Proof.Machine

namespace Sys2Proof.Machine

set_option Elab.async false

/-! ### RPT_DISCARD (R388) -/

/-- A record that a discard gives up. -/
def givesUp (f : Fin 8) (cs : List Nat) (r : JRec) : Bool := r.fn == f && cs.contains r.cls && !r.hostDone

/-- The classes of a mask that a function retains. -/
def retainedOf (f : Fin 8) (mask : Nat) (m : Mach) : List Nat := (m.fn.get f).retained.filter fun c => bitN mask c

/-- The records of these classes count as delivered, and their streams go on behind them. -/
def recsGivenUp (f : Fin 8) (cs : List Nat) (m : Mach) : Mach :=
  forEach ((List.finRange 4).filter fun (c : Fin 4) => cs.contains c.1) (fun (c : Fin 4) u =>
    u.onDelivery f (rptDelivery c) fun d => { d with next := u.nextRsn f c })
    (m.onJnl fun j => { j with recs := j.recs.map fun r => if givesUp f cs r then { r with hostDone := true } else r })

/-- The discard of the classes of a mask. -/
def discarded (f : Fin 8) (mask : Nat) (m : Mach) : Mach :=
  ((recsGivenUp f (retainedOf f mask m) m).onFn f fun x => { x with retained := x.retained.filter fun c => !bitN mask c }).freeSlots

theorem rptDiscardCmd_eq (h : CmdHdr) (mask : Nat) : Mach.rptDiscardCmd h mask = Mach.command h 0x91 false (fun _ => none) (fun _ t =>
    { m := discarded h.fn mask t, d10 := (t.jnl.recs.filter (givesUp h.fn (retainedOf h.fn mask t))).length }) := rfl

section
variable (f : Fin 8) (cs : List Nat) (mask : Nat) (m : Mach)

theorem recsGivenUp_parts : OnlyIn [.jnl] m (recsGivenUp f cs m) := by
  unfold recsGivenUp
  exact (OnlyIn.onJnl m _).trans (OnlyIn.forEach _ _ (fun c t => OnlyIn.onJnl t _) _)

theorem recsGivenUp_recs : (recsGivenUp f cs m).jnl.recs = m.jnl.recs.map fun r => if givesUp f cs r then { r with hostDone := true } else r := by
  unfold recsGivenUp
  refine Mach.forEach_mem (fun (t : Mach) => t.jnl.recs = m.jnl.recs.map fun r => if givesUp f cs r then { r with hostDone := true } else r) _ _
    (fun c _ t h => ?_) _ ?_
  · exact h
  · rfl

theorem discarded_parts : OnlyIn [.jnl, .fn] m (discarded f mask m) := by
  unfold discarded Mach.freeSlots
  exact (((recsGivenUp_parts f _ m).append (OnlyIn.onFn _ f _)).append (OnlyIn.onJnl _ _)).mono (by decide)

theorem discarded_fn : (discarded f mask m).fn = vmod m.fn f fun x => { x with retained := x.retained.filter fun c => !bitN mask c } := by
  unfold discarded Mach.freeSlots
  rw [Mach.onJnl_fn, Mach.onFn_fn, show (recsGivenUp f (retainedOf f mask m) m).fn = m.fn from recsGivenUp_parts f _ m .fn (by decide)]

theorem contains_filter (l : List Nat) (p : Nat → Bool) (k : Nat) : (l.filter p).contains k = (l.contains k && p k) := by
  rw [Bool.eq_iff_iff]
  simp [List.mem_filter]

theorem discarded_recs : ∀ r ∈ (discarded f mask m).jnl.recs, r.fn = f → (m.fn.get f).retained.contains r.cls = true → bitN mask r.cls = true → r.hostDone = true := by
  intro r hr hf hc hb
  have hmem := Mach.freeSlots_recs_mem hr
  rw [Mach.onFn_jnl, recsGivenUp_recs] at hmem
  obtain ⟨r0, -, rfl⟩ := List.mem_map.mp hmem
  by_cases hg : givesUp f (retainedOf f mask m) r0 = true
  · rw [if_pos hg]
  · rw [if_neg hg] at hf hc hb ⊢
    unfold givesUp retainedOf at hg
    rw [contains_filter, hc, hb, hf] at hg
    simpa using hg

end

section
variable {s : State} (h : CmdHdr) (mask : Nat)

theorem rptDiscard_accepts (hf : s.fetchable h.fn = true) (hp : s.preCheck h 0x91 = none) :
    Accepts (.rptDiscard h mask) h 0x91
      (s.jnl.recs.filter fun (r : JRec) => r.fn == h.fn && (s.fn.get h.fn).retained.contains r.cls && bitN mask r.cls && !r.hostDone).length 0 s fun t =>
      (∀ r ∈ t.jnl.recs, r.fn = h.fn → (s.fn.get h.fn).retained.contains r.cls = true → bitN mask r.cls = true → r.hostDone = true) ∧
      (∀ k ∈ (s.fn.get h.fn).retained, (t.fn.get h.fn).retained.contains k = !bitN mask k) ∧ Quiet s.toMach t := by
  have hj : (s.taken h false).jnl = s.jnl := Mach.taken_onlyIn h false s.toMach .jnl (by decide)
  have hret : ((s.taken h false).fn.get h.fn).retained = (s.fn.get h.fn).retained := by
    have hself := congrArg Func.retained (Mach.fetch_fn_self h.fn s.toMach)
    exact hself
  have hrecs := discarded_recs h.fn mask (s.taken h false)
  rw [hret] at hrecs
  have hparts := discarded_parts h.fn mask (s.taken h false)
  have hfn := discarded_fn h.fn mask (s.taken h false)
  have hregs : (discarded h.fn mask (s.taken h false)).regs = (s.taken h false).regs := hparts .regs (by decide)
  have hk : HostKept h.fn (s.taken h false) (discarded h.fn mask (s.taken h false)) := by
    refine ⟨fun off _ => by unfold Mach.rd; rw [hregs], ?_, ?_, ?_⟩ <;> rw [hfn, vmod_get_self]
  have hgone : (s.taken h false).jnl.recs.filter (givesUp h.fn (retainedOf h.fn mask (s.taken h false))) =
      s.jnl.recs.filter fun (r : JRec) => r.fn == h.fn && (s.fn.get h.fn).retained.contains r.cls && bitN mask r.cls && !r.hostDone := by
    rw [hj]
    congr 1
    funext r
    unfold givesUp retainedOf
    rw [contains_filter, hret, ← Bool.and_assoc]
  refine plain_accepts (a := { m := discarded h.fn mask (s.taken h false), d10 :=
      (s.jnl.recs.filter fun (r : JRec) => r.fn == h.fn && (s.fn.get h.fn).retained.contains r.cls && bitN mask r.cls && !r.hostDone).length })
    (congrArg s.act (rptDiscardCmd_eq h mask)) hf hp rfl ?_ hk rfl fun t ht => ⟨?_, fun k hk => ?_, ?_⟩
  · rw [hgone]
  · rw [ht.jnl]
    exact hrecs
  · rw [ht.own]
    dsimp only
    rw [hfn, vmod_get_self]
    dsimp only
    rw [hret, contains_filter, List.contains_iff_mem.mpr hk, Bool.true_and]
  · exact taken_quiet (h := h) (owes := false) hregs (hparts.mono (by decide)) ht

end

/-- Settles O48: each command's effect keeps the command unit and the CMD and CPL rings, so that its completion stands beside it. -/
theorem immediateCommandsComplete : Obligations.ImmediateCommandsComplete := by
  unfold Obligations.ImmediateCommandsComplete
  intro s h cap mask level out position enc fire width trigger id ts md cd var cid cls clsValid spawn item arg dst len slots f x isOpen quiet add slot act
    qBad washes late hf
  refine ⟨fun hp => ⟨setCap_rejects h cap hf hp, setCap_accepts h cap hf hp⟩, fun hp => ⟨setLimit_rejects h mask level hf hp, setLimit_accepts h mask level hf hp⟩,
    fun hp => ⟨actionAdd_rejects h out position enc fire width trigger hf hp, actionAdd_accepts h out position enc fire width trigger hf hp⟩,
    fun hp => ⟨fun e he => ?_, fun hnone => ?_⟩,
    fun hp => ⟨extMeas_format h ts md cd var cid cls clsValid spawn hf hp, extMeas_late h ts md cd var cid cls clsValid spawn hf hp,
      extMeas_accepts h ts md cd var cid cls clsValid spawn hf hp⟩,
    fun hp => ⟨query_rejects h item arg dst len hf hp, fun hq => ⟨fun b hb => query_answers h item arg dst len hf hp hq hb, query_open h item arg dst len hf hp hq⟩⟩,
    fence_accepts h hf, washQuery_accepts h hf, fun hp => ⟨rptResume_rejects h mask slots hf hp, rptResume_accepts h mask slots hf hp⟩,
    rptDiscard_accepts h mask hf, pkgReset_accepts h hf⟩
  · have hn : namedAction s.toMach id = some e.2 := by
      unfold namedAction
      rw [he]
      rfl
    have hbad : cancelBad s.toMach h id = if e.2.fn ≠ h.fn then some St.owner else if s.tableFrozen then some St.busy else none := by
      unfold cancelBad
      rw [hn]
    exact ⟨fun ho => actionCancel_rejects h id hf hp (hbad.trans (if_pos ho)),
      fun ho hfr => actionCancel_rejects h id hf hp (by rw [hbad, if_neg (not_not.mpr ho), if_pos hfr]; rfl),
      fun ho hfr => actionCancel_accepts h id hf hp hn (by rw [hbad, if_neg (not_not.mpr ho), if_neg (by simp [hfr])])⟩
  · refine actionCancel_rejects h id hf hp ?_
    unfold cancelBad namedAction
    rw [hnone]
    rfl

end Sys2Proof.Machine

namespace Sys2Proof.Machine

set_option Elab.async false

namespace Mach

/-! ## Accesses that reach no register (R28, R389) -/

section
variable (f : Fin 8) (off : Nat)

/-- What an access of an unmapped offset leaves. -/
structure UnmappedSeen (f : Fin 8) (off : Nat) (a b : Mach) : Prop where
  stat : b.g (R.HIF_F_STAT_UNMAPPED f) = 1
  sent : .msix f 6 ∈ b.out
  latched : f = 0 → b.g R.HIF_ERR_UNMAPPED = 1 ∧ b.g R.HIF_ERR_ADDR_OFFSET = if a.on R.HIF_ERR_UNMAPPED = true then a.g R.HIF_ERR_ADDR_OFFSET else off / 4 * 4
  regs : RegsBut (if f = 0 then [(R.HIF_F_STAT_UNMAPPED f).a, R.HIF_ERR_UNMAPPED.a, R.HIF_ERR_ADDR_OFFSET.a] else [(R.HIF_F_STAT_UNMAPPED f).a]) a b
  parts : OnlyIn [.regs, .out] a b

/-- The function's own mark of it. -/
def unmappedMark (f : Fin 8) (m : Mach) : Mach := (m.set1 (R.HIF_F_STAT_UNMAPPED f)).errEvent f

variable (m : Mach)

theorem unmappedMark_regs : (m.unmappedMark f).regs = (m.set1 (R.HIF_F_STAT_UNMAPPED f)).regs := emit_regs _ _

theorem unmappedMark_stat : (m.unmappedMark f).g (R.HIF_F_STAT_UNMAPPED f) = 1 := by
  rw [g_of_regs (unmappedMark_regs f m)]
  exact g_set1 _ _ rfl (by simp only [R.HIF_F_STAT_UNMAPPED]; decide)

theorem unmappedMark_regsBut : RegsBut [(R.HIF_F_STAT_UNMAPPED f).a] m (m.unmappedMark f) :=
  RegsBut.of_regs (RegsBut.put m (R.HIF_F_STAT_UNMAPPED f) 1) (unmappedMark_regs f m)

theorem unmappedMark_g (e : Fld) (h : e.a < 0x81000) : (m.unmappedMark f).g e = m.g e := by
  have hpage := fnPage_ge f
  unfold g
  rw [unmappedMark_regsBut f m _ (by simp only [R.HIF_F_STAT_UNMAPPED, List.mem_singleton]; omega)]

theorem unmappedMark_parts : OnlyIn [.regs, .out] m (m.unmappedMark f) := ((OnlyIn.set1 m _).append (OnlyIn.emit _ _)).mono (by decide)

/-- A VF's access shows in its own page. -/
theorem unmapped_vf (h : f ≠ 0) : UnmappedSeen f off m (m.unmapped f off) := by
  have hf : m.unmapped f off = m.unmappedMark f := if_neg h
  rw [hf]
  exact ⟨unmappedMark_stat f m, List.mem_cons_self .., fun h0 => absurd h0 h, by rw [if_neg h]; exact unmappedMark_regsBut f m, unmappedMark_parts f m⟩

/-- The PF's first unmapped offset is latched. -/
def offsetLatched (off : Nat) (m : Mach) : Mach :=
  if m.on R.HIF_ERR_UNMAPPED then m.unmappedMark 0 else (m.unmappedMark 0).put R.HIF_ERR_ADDR_OFFSET (off / 4 * 4)

theorem unmapped_pf (h : off / 4 * 4 < 0x1000000) : UnmappedSeen 0 off m (m.unmapped 0 off) := by
  have hf : m.unmapped 0 off = (m.offsetLatched off).set1 R.HIF_ERR_UNMAPPED := rfl
  have hl : RegsBut [R.HIF_ERR_ADDR_OFFSET.a] (m.unmappedMark 0) (m.offsetLatched off) ∧ OnlyIn [.regs] (m.unmappedMark 0) (m.offsetLatched off) ∧
      (m.offsetLatched off).out = (m.unmappedMark 0).out ∧
      (m.offsetLatched off).g R.HIF_ERR_ADDR_OFFSET = if m.on R.HIF_ERR_UNMAPPED = true then m.g R.HIF_ERR_ADDR_OFFSET else off / 4 * 4 := by
    unfold offsetLatched
    split
    · exact ⟨.refl _ _, OnlyIn.refl _ _, rfl, unmappedMark_g 0 m _ (by decide)⟩
    · exact ⟨RegsBut.put _ _ _, OnlyIn.put _ _ _, put_out _ _ _, g_put_fits _ (by decide) (by simp only [R.HIF_ERR_ADDR_OFFSET]; omega)⟩
  obtain ⟨hr, hp, ho, hg⟩ := hl
  have hmark := unmappedMark_regsBut 0 m
  have hregs : RegsBut [(R.HIF_F_STAT_UNMAPPED 0).a, R.HIF_ERR_UNMAPPED.a, R.HIF_ERR_ADDR_OFFSET.a] m ((m.offsetLatched off).set1 R.HIF_ERR_UNMAPPED) :=
    ((hmark.mono (by simp)).trans (hr.mono (by simp))).trans ((RegsBut.put _ R.HIF_ERR_UNMAPPED 1).mono (by simp))
  rw [hf]
  refine ⟨?_, ?_, fun _ => ⟨g_set1 _ _ rfl (by decide), ?_⟩, hregs, (((unmappedMark_parts 0 m).append hp).append (OnlyIn.set1 _ _)).mono (by decide)⟩
  · rw [g_set1_ne _ _ _ (by decide)]
    unfold g
    rw [hr _ (by decide)]
    exact unmappedMark_stat 0 m
  · rw [set1_out, ho]
    exact List.mem_cons_self ..
  · rw [g_set1_ne _ _ _ (by decide), hg]

theorem unmapped_seen {k : Nat} (h : barKey f off = some k) : UnmappedSeen f off m (m.unmapped f off) := by
  by_cases hf : f = 0
  · subst hf
    refine unmapped_pf off m ?_
    unfold barKey at h
    rw [if_pos rfl] at h
    by_contra hno
    rw [if_neg hno] at h
    cases h
  · exact unmapped_vf f off m hf

/-- What an access of a switched-off block leaves. -/
structure OffSeen (off : Nat) (a b : Mach) : Prop where
  stat : b.g R.HIF_ERR_OFF_ACCESS = 1
  block : b.g R.HIF_ERR_BLOCK = if a.on R.HIF_ERR_OFF_ACCESS = true then a.g R.HIF_ERR_BLOCK else off / 4096 % 4096
  sent : .msix 0 6 ∈ b.out
  regs : RegsBut [R.HIF_ERR_OFF_ACCESS.a, R.HIF_ERR_BLOCK.a] a b
  parts : OnlyIn [.regs, .out] a b

/-- The first block is latched. -/
def blockLatched (off : Nat) (m : Mach) : Mach := if m.on R.HIF_ERR_OFF_ACCESS then m else m.put R.HIF_ERR_BLOCK (off / 4096 % 4096)

theorem offAccess_seen : OffSeen off m (m.offAccess off) := by
  have hf : m.offAccess off = ((m.blockLatched off).set1 R.HIF_ERR_OFF_ACCESS).errEvent 0 := rfl
  have hl : RegsBut [R.HIF_ERR_BLOCK.a] m (m.blockLatched off) ∧ OnlyIn [.regs] m (m.blockLatched off) ∧
      (m.blockLatched off).g R.HIF_ERR_BLOCK = if m.on R.HIF_ERR_OFF_ACCESS = true then m.g R.HIF_ERR_BLOCK else off / 4096 % 4096 := by
    unfold blockLatched
    split
    · exact ⟨.refl _ _, OnlyIn.refl _ _, rfl⟩
    · exact ⟨RegsBut.put _ _ _, OnlyIn.put _ _ _, g_put_fits _ (by decide) (by simp only [R.HIF_ERR_BLOCK]; omega)⟩
  obtain ⟨hr, hp, hg⟩ := hl
  have hregs : (m.offAccess off).regs = ((m.blockLatched off).set1 R.HIF_ERR_OFF_ACCESS).regs := emit_regs _ _
  refine ⟨?_, ?_, List.mem_cons_self .., ?_, ?_⟩
  · rw [g_of_regs hregs]
    exact g_set1 _ _ rfl (by decide)
  · rw [g_of_regs hregs, g_set1_apart _ (.inr ⟨by decide, by decide, by decide, by decide⟩), hg]
  · exact RegsBut.of_regs ((hr.mono (by simp)).trans ((RegsBut.put _ R.HIF_ERR_OFF_ACCESS 1).mono (by simp))) hregs
  · rw [hf]
    exact ((hp.append (OnlyIn.set1 _ _)).append (OnlyIn.emit _ _)).mono (by decide)

end

/-! ## A write by field type (R9) -/

theorem regPlace_key {k : Nat} {x : RegPlace} (h : regPlace k = some x) : x.key = k := by
  unfold regPlace at h
  obtain ⟨b, -, hb⟩ := List.exists_of_findSome?_eq_some h
  obtain ⟨y, -, hy⟩ := Option.map_eq_some_iff.mp hb
  rw [← hy]

section
variable (w : RegWr) (m : Mach)

/-- The bits of a word after a write by field type. -/
theorem plainWrite_bits (i : Fin 32) : ((m.plainWrite 0 w).rd w.at_.key).getLsbD i.1 =
    if w.msk.getLsbD i.1 && (BitVec.ofNat 32 w.at_.row.w1c : Word).getLsbD i.1 && w.v.getLsbD i.1 then false
    else if w.msk.getLsbD i.1 && (BitVec.ofNat 32 (w.at_.row.rw ||| w.at_.row.rws) : Word).getLsbD i.1 then w.v.getLsbD i.1
    else (m.rd w.at_.key).getLsbD i.1 := by
  have hi : i.1 < 32 := i.2
  unfold plainWrite RegWr.rwMask
  extract_lets keep old mask clear
  rw [rd_wr_self]
  have hkeep : (~~~keep).getLsbD i.1 = true := by
    rw [BitVec.getLsbD_not]
    simp [keep, hi]
  have hmask : mask.getLsbD i.1 = ((BitVec.ofNat 32 (w.at_.row.rw ||| w.at_.row.rws) : Word).getLsbD i.1 && w.msk.getLsbD i.1) := by
    rw [BitVec.getLsbD_and, hkeep, Bool.and_true, BitVec.getLsbD_and]
  have hclear : clear.getLsbD i.1 = ((BitVec.ofNat 32 w.at_.row.w1c : Word).getLsbD i.1 && w.v.getLsbD i.1 && w.msk.getLsbD i.1) := by
    rw [BitVec.getLsbD_and, hkeep, Bool.and_true, BitVec.getLsbD_and, BitVec.getLsbD_and]
  rw [BitVec.getLsbD_and, BitVec.getLsbD_or, BitVec.getLsbD_and, BitVec.getLsbD_and, BitVec.getLsbD_not, BitVec.getLsbD_not, hmask, hclear]
  generalize (BitVec.ofNat 32 (w.at_.row.rw ||| w.at_.row.rws) : Word).getLsbD i.1 = a
  generalize (BitVec.ofNat 32 w.at_.row.w1c : Word).getLsbD i.1 = b
  generalize w.msk.getLsbD i.1 = c
  generalize w.v.getLsbD i.1 = d
  generalize old.getLsbD i.1 = e
  simp only [hi, decide_true, Bool.true_and]
  revert a b c d e
  decide

theorem plainWrite_regsBut (own : Nat) : RegsBut [w.at_.key] m (m.plainWrite own w) := fun off h => rd_wr_ne m _ (by simpa using h)

theorem plainWrite_parts (own : Nat) : OnlyIn [.regs] m (m.plainWrite own w) := OnlyIn.wr m _ _

theorem holdWrite_spec : (m.holdWrite w).rd w.at_.key = (w.v &&& w.msk &&& BitVec.ofNat 32 w.at_.row.wo) ∧ RegsBut [w.at_.key] m (m.holdWrite w) ∧
    OnlyIn [.regs] m (m.holdWrite w) :=
  ⟨rd_wr_self m _ _, fun off h => rd_wr_ne m _ (by simpa using h), OnlyIn.wr m _ _⟩

/-! ### A setting of a port (R85) -/

variable (p : Fin 16)

/-- The state in which the value in force is kept and the word is written. -/
def settingWritten : Mach := (m.keepSetting p w.at_.key).plainWrite 0 w

theorem keepSetting_regs (key : Nat) : (m.keepSetting p key).regs = m.regs := (keepSetting_within p key m).keeps .regs

theorem keepSetting_port (key : Nat) : ((m.port.get p).running = true →
      ((m.keepSetting p key).port.get p).inForce.find key = some (((m.port.get p).inForce.find key).getD (m.rd key)) ∧
        ((m.keepSetting p key).port.get p).wmFc = (m.port.get p).wmFc) ∧
    ((m.port.get p).running = false → (m.keepSetting p key).port.get p = m.port.get p) ∧
    (∀ q : Fin 16, q ≠ p → (m.keepSetting p key).port.get q = m.port.get q) := by
  unfold keepSetting
  split
  next h =>
    refine ⟨fun _ => ?_, fun hr => absurd (h.1.symm.trans hr) (by decide), fun q hq => onPort_get_ne _ _ hq⟩
    rw [onPort_get_self, Option.isNone_iff_eq_none.mp h.2]
    exact ⟨Tab.find_put_self _ _ _, rfl⟩
  next h =>
    refine ⟨fun hr => ⟨?_, rfl⟩, fun _ => rfl, fun _ _ => rfl⟩
    obtain ⟨v, hv⟩ : ∃ v, (m.port.get p).inForce.find key = some v := by
      refine Option.ne_none_iff_exists'.mp fun hnone => h ⟨hr, ?_⟩
      rw [hnone]
      rfl
    rw [hv]
    rfl

/-- What the write of a setting makes of its word and of its port. -/
theorem ingSetting_writes (fixed : Bool) (h : ¬ (fixed = true ∧ m.on (R.ING_CTRL_EN p) = true)) :
    (m.ingSetting p fixed w).regs = (m.plainWrite 0 w).regs ∧
    ((m.port.get p).running = true → ((m.ingSetting p fixed w).port.get p).inForce.find w.at_.key =
      some (((m.port.get p).inForce.find w.at_.key).getD (m.rd w.at_.key)) ∧ ((m.ingSetting p fixed w).port.get p).wmFc = (m.port.get p).wmFc) ∧
    ((m.port.get p).running = false → ((m.ingSetting p fixed w).port.get p).inForce = (m.port.get p).inForce) ∧
    (∀ q : Fin 16, q ≠ p → (m.ingSetting p fixed w).port.get q = m.port.get q) ∧ OnlyIn [.regs, .port] m (m.ingSetting p fixed w) := by
  obtain ⟨hrun, hidle, hothers⟩ := keepSetting_port m p w.at_.key
  have hregs : ((m.keepSetting p w.at_.key).plainWrite 0 w).regs = (m.plainWrite 0 w).regs := by
    unfold plainWrite wr rd
    rw [keepSetting_regs]
  have hparts := ((keepSetting_within p w.at_.key m).parts.append (plainWrite_parts w (m.keepSetting p w.at_.key) 0))
  have hport : ((m.keepSetting p w.at_.key).plainWrite 0 w).port = (m.keepSetting p w.at_.key).port := plainWrite_parts w _ 0 .port (by decide)
  have hf : m.ingSetting p fixed w = if (m.port.get p).running then (m.keepSetting p w.at_.key).plainWrite 0 w
      else ((m.keepSetting p w.at_.key).plainWrite 0 w).evalFc p := by
    unfold ingSetting
    rw [if_neg (by simpa using h)]
  rw [hf]
  split
  next hr =>
    refine ⟨hregs, fun _ => ?_, fun hn => absurd (hr.symm.trans hn) (by decide), fun q hq => ?_, hparts.mono (by decide)⟩
    · rw [hport]
      exact hrun hr
    · rw [hport]
      exact hothers q hq
  next hr =>
    have he := evalFc_onlyIn p ((m.keepSetting p w.at_.key).plainWrite 0 w)
    have hn : (m.port.get p).running = false := by simpa using hr
    refine ⟨(he .regs (by decide)).trans hregs, fun hy => absurd (hy.symm.trans hn) (by decide), fun _ => ?_, fun q hq => ?_, (hparts.append he).mono (by decide)⟩
    · rw [evalFc_port, hport]
      exact (congrArg Port.inForce (hidle hn) :)
    · rcases evalFc_eq p ((m.keepSetting p w.at_.key).plainWrite 0 w) with h1 | h1
      · rw [h1, hport, hothers q hq]
      · rw [h1, onPort_get_ne _ _ hq, hport, hothers q hq]

end

end Mach

end Sys2Proof.Machine

namespace Sys2Proof.Machine

set_option Elab.async false

namespace Mach

/-! ## Where a write leads (R9) -/

/-- The registers that the statement names as those with no rule of their own. -/
def plainPlace (x : RegPlace) (setting : Bool) : Bool :=
  [0x20100, 0x20200, 0x40300, 0x80000, 0x82000, 0xD0000, 0x120800, 0x180800, 0x1C4000, 0x208000, 0x400000].contains x.base ||
    (x.base == 0x10000 && x.row.off != 0 && x.row.off != 0x30) || (x.base == 0x20000 && decide (0x40 ≤ x.row.off) && x.row.off != 0x300) ||
    (x.base == 0 && x.row.off != 0x2C) || (x.base == 0x100000 && !setting && x.row.off != 0 && x.row.off != 0x304 && x.row.off != 0x320)

/-- The settings that do not change while the port is enabled. -/
def fixedSetting (x : RegPlace) : Bool := x.base == 0x100000 && [0xC, 0x10, 0x14, 0x1C].contains x.row.off

/-- The settings of a port. -/
def portSetting (x : RegPlace) : Bool := x.base == 0x100000 && [0xC, 0x10, 0x14, 0x1C, 0x20, 0x24, 0x28, 0x2C, 0x30, 0x34].contains x.row.off

section
variable (w : RegWr) (m : Mach)

theorem ingWrite_setting (h : portSetting w.at_ = true) : m.writeIn w = m.ingSetting (Fin.ofNat 16 w.at_.unit) (fixedSetting w.at_) w := by
  unfold portSetting at h
  simp only [Bool.and_eq_true, beq_iff_eq, List.contains_iff_mem] at h
  obtain ⟨hb, ho⟩ := h
  have hw : m.writeIn w = m.ingWrite w := by
    unfold writeIn
    rw [hb]
    rfl
  rw [hw]
  unfold ingWrite fixedSetting
  rw [hb]
  simp only [List.mem_cons, List.not_mem_nil, or_false] at ho
  rcases ho with ho | ho | ho | ho | ho | ho | ho | ho | ho | ho <;> rw [ho] <;> rfl

theorem ingWrite_plain (h0 : w.at_.row.off ≠ 0) (hgo : w.at_.row.off ≠ 0x304) (hd : w.at_.row.off ≠ 0x320) (hb : w.at_.base = 0x100000)
    (hs : portSetting w.at_ = false) : m.ingWrite w = m.plainWrite 0 w := by
  unfold portSetting at hs
  simp only [hb, beq_self_eq_true, Bool.true_and, List.contains_eq_mem, decide_eq_false_iff_not, List.mem_cons, List.not_mem_nil, or_false, not_or] at hs
  unfold ingWrite
  split <;> simp_all

theorem writeIn_plain (h : plainPlace w.at_ (portSetting w.at_) = true) : m.writeIn w = m.plainWrite 0 w := by
  unfold plainPlace at h
  simp only [Bool.or_eq_true, Bool.and_eq_true, beq_iff_eq, bne_iff_ne, decide_eq_true_eq, Bool.not_eq_true', List.contains_iff_mem] at h
  rcases h with (((hb | ⟨⟨hb, h0⟩, h1⟩) | ⟨⟨hb, h0⟩, h1⟩) | ⟨hb, h0⟩) | ⟨⟨⟨⟨hb, hs⟩, h0⟩, hgo⟩, hd⟩
  · simp only [List.mem_cons, List.not_mem_nil, or_false] at hb
    unfold writeIn
    rcases hb with hb | hb | hb | hb | hb | hb | hb | hb | hb | hb | hb <;> rw [hb] <;> rfl
  · unfold writeIn rstWrite
    rw [hb]
    dsimp only
    split <;> simp_all
  · unfold writeIn pwrWrite
    rw [hb]
    dsimp only
    rw [if_neg (by omega), if_neg h1]
    rfl
  · unfold writeIn glbWrite
    rw [hb]
    exact if_neg h0
  · have hw : m.writeIn w = m.ingWrite w := by
      unfold writeIn
      rw [hb]
      rfl
    rw [hw, ingWrite_plain w m h0 hgo hd hb hs]

theorem writeIn_hold (hb : w.at_.base = 0x64000 ∨ w.at_.base = 0xC0000) (hwo : w.at_.row.wo ≠ 0) : m.writeIn w = m.holdWrite w := by
  unfold writeIn rrtWrite sbiWrite
  rcases hb with hb | hb <;> rw [hb] <;> exact if_pos hwo

theorem writeIn_bootGo (hb : w.at_.base = 0) (ho : w.at_.row.off = 0x2C) :
    m.writeIn w = if w.one 0 then m.drawNat.2.bootGo (m.drawNat.1 % 2 == 1) else m := by
  unfold writeIn glbWrite
  rw [hb]
  exact if_pos ho

theorem writeIn_fus (hb : w.at_.base ∈ [0x1D0000, 0x1D1000, 0x1D112C, 0x1D1800, 0x1D4000]) : m.writeIn w = m.fusWrite w := by
  simp only [List.mem_cons, List.not_mem_nil, or_false] at hb
  unfold writeIn
  rcases hb with hb | hb | hb | hb | hb <;> rw [hb] <;> rfl

/-- A staged register keeps its value: the write waits in its unit. -/
theorem writeIn_staged (part : Part) (o : Nat) (hz : (w.at_.base, part, o) ∈ ([(0x140000, .fe, 8), (0x1D0000, .fus, 0), (0x1D1000, .fus, 0), (0x1D112C, .fus, 0),
      (0x1D1800, .fus, 0), (0x1D4000, .fus, 0), (0x1F0100, .jnl, 0), (0x240000, .link, 8)] : List (Nat × Part × Nat))) (ho : o ≤ w.at_.row.off)
    (hrw : w.at_.row.rw ≠ 0) : OnlyIn [part] m (m.writeIn w) := by
  have hfus : OnlyIn [.fus] m (m.fusWrite w) := by
    unfold fusWrite
    rw [if_neg hrw]
    exact (onFus_within _ m).parts
  simp only [List.mem_cons, List.not_mem_nil, or_false, Prod.mk.injEq] at hz
  rcases hz with ⟨hb, rfl, rfl⟩ | ⟨hb, rfl, rfl⟩ | ⟨hb, rfl, rfl⟩ | ⟨hb, rfl, rfl⟩ | ⟨hb, rfl, rfl⟩ | ⟨hb, rfl, rfl⟩ | ⟨hb, rfl, rfl⟩ | ⟨hb, rfl, rfl⟩
  · rw [show m.writeIn w = m.feWrite w by unfold writeIn; rw [hb]; rfl]
    unfold feWrite
    split
    · omega
    · omega
    · rw [if_neg hrw]
      exact (onFe_within _ _ m).parts
  · rw [writeIn_fus w m (by simp [hb])]
    exact hfus
  · rw [writeIn_fus w m (by simp [hb])]
    exact hfus
  · rw [writeIn_fus w m (by simp [hb])]
    exact hfus
  · rw [writeIn_fus w m (by simp [hb])]
    exact hfus
  · rw [writeIn_fus w m (by simp [hb])]
    exact hfus
  · rw [show m.writeIn w = m.jnlFnWrite w by unfold writeIn; rw [hb]; rfl]
    unfold jnlFnWrite
    rw [if_neg hrw]
    exact OnlyIn.onJnl m _
  · rw [show m.writeIn w = m.lnkWrite w by unfold writeIn; rw [hb]; rfl]
    unfold lnkWrite
    split
    · omega
    · omega
    · rw [if_neg hrw]
      exact (onLink_within _ _ m).parts

end

end Mach

end Sys2Proof.Machine

namespace Sys2Proof.Machine

set_option Elab.async false

namespace Mach

/-! ## BOOT_GO by a register write (R423, R442) -/

theorem imageLoaded_judged (ok : Bool) (m : Mach) : (m.imageLoaded ok).rst.fwVerified = true ∨ (m.imageLoaded ok).rst.bootErr = 4 := by
  rw [imageLoaded_rst]
  cases ok
  · exact .inr rfl
  · exact .inl rfl

/-- The image that waits is judged; where none waits only the free choice is drawn. -/
theorem bootGo_drawn (m : Mach) (b : Bool) :
    (m.romWaits 1 = true → (m.drawNat.2.bootGo b).rst.fwVerified = true ∨ (m.drawNat.2.bootGo b).rst.bootErr = 4) ∧
      (m.romWaits 1 = false → (m.drawNat.2.bootGo b).rst = m.rst ∧ OnlyIn [.draws] m (m.drawNat.2.bootGo b)) ∧
      OnlyIn [.chip, .regs, .rst, .draws] m (m.drawNat.2.bootGo b) := by
  have hrom : m.drawNat.2.romWaits 1 = m.romWaits 1 := rfl
  have hd := (drawNat_within m).parts
  refine ⟨fun h => ?_, fun h => ?_, (hd.append (bootGo_within b _).parts).mono (by decide)⟩
  · unfold bootGo
    rw [if_pos (hrom.trans h)]
    exact imageLoaded_judged _ _
  · unfold bootGo
    rw [if_neg (by rw [hrom, h]; decide)]
    exact ⟨rfl, hd.mono (by decide)⟩

end Mach

/-- The least bit of a word lies in its first byte. -/
theorem byteMask_zero (be : BitVec 4) : (byteMask be).getLsbD 0 = be.getLsbD 0 := by
  revert be
  decide

section
variable {s : State} (f : Fin 8) (off : Nat) (val : Word) (be : BitVec 4) (w : Bool)

/-- The write of one word of a mapped register. -/
def wordWrite (x : RegPlace) (val : Word) (be : BitVec 4) : RegWr := { at_ := x, v := val, msk := byteMask be }

variable {k : Nat} {x : RegPlace}

theorem registerWrite_mapped (hk : barKey f off = some k) (hx : regPlace k = some x) (hbe : be ≠ 0) (m : Mach) :
    m.registerWrite f off val be = if m.placeOff x then m.offAccess off else m.writeIn (wordWrite x val be) := by
  unfold Mach.registerWrite
  rw [hk]
  dsimp only
  rw [hx]
  exact if_neg hbe

theorem registerWrite_unmapped (hk : barKey f off = some k) (hx : regPlace k = none) (hbe : be ≠ 0) (m : Mach) :
    m.registerWrite f off val be = m.unmapped f off := by
  unfold Mach.registerWrite
  rw [hk]
  dsimp only
  rw [hx]
  exact if_neg hbe

theorem registerWrite_outside (hk : barKey f off = none) (m : Mach) : m.registerWrite f off val be = m := by
  unfold Mach.registerWrite
  rw [hk]

theorem registerWrite_none (m : Mach) : m.registerWrite f off val 0 = m := by
  unfold Mach.registerWrite
  split
  · rfl
  · split
    · exact if_pos rfl
    · exact if_pos rfl

theorem unmappedAccess_outside (hk : barKey f off = none) (m : Mach) : m.unmappedAccess f off w = m := by
  unfold Mach.unmappedAccess
  rw [hk]

theorem unmappedAccess_mapped (hk : barKey f off = some k) (hx : regPlace k = some x) (m : Mach) : m.unmappedAccess f off w = m := by
  unfold Mach.unmappedAccess
  rw [hk]
  dsimp only
  rw [hx]

theorem unmappedAccess_unmapped (hk : barKey f off = some k) (hx : regPlace k = none) (m : Mach) :
    m.unmappedAccess f off w = if w then m.unmapped f off else (m.unmapped f off).emit (.readValue k 0) := by
  unfold Mach.unmappedAccess
  rw [hk]
  dsimp only
  rw [hx]

theorem offBlockAccess_mapped (hk : barKey 0 off = some k) (hx : regPlace k = some x) (m : Mach) :
    m.offBlockAccess off w = if m.placeOff x then (if w then m.offAccess off else (m.offAccess off).emit (.readValue x.key 0x0FF0DEAD#32)) else m := by
  have hp : barPlace 0 off = some x := by
    unfold barPlace
    rw [hk]
    exact hx
  unfold Mach.offBlockAccess
  rw [hp]

/-- An answer to a read changes nothing but the outputs. -/
theorem Mach.UnmappedSeen.emit {a b : Mach} {f : Fin 8} {off : Nat} (h : Mach.UnmappedSeen f off a b) (o : Out) : Mach.UnmappedSeen f off a (b.emit o) :=
  ⟨h.stat, List.mem_cons_of_mem _ h.sent, h.latched, Mach.RegsBut.of_regs h.regs (Mach.emit_regs b o), (h.parts.append (OnlyIn.emit b o)).mono (by decide)⟩

theorem Mach.OffSeen.emit {a b : Mach} {off : Nat} (h : Mach.OffSeen off a b) (o : Out) : Mach.OffSeen off a (b.emit o) :=
  ⟨h.stat, h.block, List.mem_cons_of_mem _ h.sent, Mach.RegsBut.of_regs h.regs (Mach.emit_regs b o), (h.parts.append (OnlyIn.emit b o)).mono (by decide)⟩

theorem unmappedAccess_seen (hk : barKey f off = some k) (hx : regPlace k = none) : Does (.unmappedAccess f off w) s (Mach.UnmappedSeen f off s.toMach) := by
  have hs := Mach.unmapped_seen f off s.toMach hk
  refine does_of_act (f := Mach.unmappedAccess f off w) rfl (unmappedAccess_unmapped f off w hk hx s.toMach) ?_
  split
  · exact hs
  · exact hs.emit _

theorem offBlockAccess_seen (hk : barKey 0 off = some k) (hx : regPlace k = some x) (ho : s.placeOff x = true) :
    Does (.offBlockAccess off w) s (Mach.OffSeen off s.toMach) := by
  have hs := Mach.offAccess_seen off s.toMach
  refine does_of_act (f := Mach.offBlockAccess off w) rfl ((offBlockAccess_mapped off w hk hx s.toMach).trans (if_pos ho)) ?_
  split
  · exact hs
  · exact hs.emit _

/-- A write that a register takes is judged where it stands. -/
theorem registerWrite_does {P : Mach → Prop} (hk : barKey f off = some k) (hx : regPlace k = some x) (hbe : be ≠ 0) (ho : s.placeOff x = false)
    (h : P (s.writeIn (wordWrite x val be))) : Does (.registerWrite f off val be) s P :=
  does_of_act (f := Mach.registerWrite f off val be) rfl ((registerWrite_mapped f off val be hk hx hbe s.toMach).trans (if_neg (by simp [ho]))) h

end

/-- Settles O50: a write is led to its register's own rule, and by field type each bit is followed through the two masks. -/
theorem registerAccessesFollowTheirFields : Obligations.RegisterAccessesFollowTheirFields := by
  unfold Obligations.RegisterAccessesFollowTheirFields
  intro s f off val be w key unmapped isOff
  have hun : ∀ t, Mach.UnmappedSeen f off s.toMach t → unmapped t := fun t h => ⟨h.stat, h.sent, h.latched, h.regs, h.parts⟩
  have hoff : ∀ t, Mach.OffSeen off s.toMach t → isOff t := fun t h => ⟨h.stat, h.block, h.sent, h.regs, h.parts⟩
  refine ⟨fun hk => ⟨idles_of_act (f := Mach.registerWrite f off val be) rfl (registerWrite_outside f off val be hk s.toMach),
      idles_of_act (f := Mach.unmappedAccess f off w) rfl (unmappedAccess_outside f off w hk s.toMach)⟩, fun hb => ?_, fun hbe => ?_, fun k hk => ⟨fun hx => ?_, fun x hx => ?_⟩⟩
  · refine idles_of_act (f := Mach.offBlockAccess off w) rfl ?_
    unfold Mach.offBlockAccess
    rw [hb]
  · rw [hbe]
    exact idles_of_act (f := Mach.registerWrite f off val 0) rfl (registerWrite_none f off val s.toMach)
  · have hnone : regPlace k = none := Option.isNone_iff_eq_none.mp hx
    refine ⟨fun hbe => does_of_act (f := Mach.registerWrite f off val be) rfl (registerWrite_unmapped f off val be hk hnone hbe s.toMach)
      (hun _ (Mach.unmapped_seen f off s.toMach hk)), (unmappedAccess_seen f off w hk hnone).imp hun, fun hw => ?_⟩
    refine does_of_act (f := Mach.unmappedAccess f off w) rfl (unmappedAccess_unmapped f off w hk hnone s.toMach) ?_
    rw [hw]
    exact List.mem_cons_self ..
  · intro hit o rw_ w1c port fixed setting bits plain staged
    have hkey : x.key = k := Mach.regPlace_key hx
    subst hkey
    have hdoes := fun {P : Mach → Prop} (hbe : be ≠ 0) (ho : s.placeOff x = false) (h : P (s.writeIn (wordWrite x val be))) =>
      registerWrite_does (s := s) f off val be hk hx hbe ho h
    refine ⟨idles_of_act (f := Mach.unmappedAccess f off w) rfl (unmappedAccess_mapped f off w hk hx s.toMach),
      fun ho hbe => does_of_act (f := Mach.registerWrite f off val be) rfl ((registerWrite_mapped f off val be hk hx hbe s.toMach).trans (if_pos ho))
        (hoff _ (Mach.offAccess_seen off s.toMach)), fun hf ho => ?_, fun hf ho => ?_, fun ho hbe hp => ?_, fun ho hbe hs hfix => ?_, fun ho hbe hb hwo => ?_,
      fun ho hbe hb hoo => ⟨fun hno => ?_, fun h1 h2 => ?_⟩, fun z hz ho hbe hb hlo hrw => ?_, fun ho hbe hfix hen => ?_⟩
    · subst hf
      refine ⟨(offBlockAccess_seen off w hk hx ho).imp hoff, fun hw => ?_⟩
      refine does_of_act (f := Mach.offBlockAccess off w) rfl ((offBlockAccess_mapped off w hk hx s.toMach).trans (if_pos ho)) ?_
      rw [hw]
      exact List.mem_cons_self ..
    · subst hf
      exact idles_of_act (f := Mach.offBlockAccess off w) rfl ((offBlockAccess_mapped off w hk hx s.toMach).trans (if_neg (by simp [ho])))
    · refine hdoes hbe ho ?_
      rw [Mach.writeIn_plain (wordWrite x val be) s.toMach hp]
      exact ⟨Mach.plainWrite_bits (wordWrite x val be) s.toMach, Mach.plainWrite_regsBut (wordWrite x val be) s.toMach 0, Mach.plainWrite_parts (wordWrite x val be) s.toMach 0⟩
    · refine hdoes hbe ho ?_
      rw [Mach.ingWrite_setting (wordWrite x val be) s.toMach hs]
      obtain ⟨hregs, hrun, hidle, hothers, hparts⟩ := Mach.ingSetting_writes (wordWrite x val be) s.toMach port fixed hfix
      have hrd : ∀ a, (s.ingSetting port fixed (wordWrite x val be)).rd a = (s.plainWrite 0 (wordWrite x val be)).rd a := fun a => by
        unfold Mach.rd
        rw [hregs]
      exact ⟨fun i => (congrArg (fun b : Word => b.getLsbD i.1) (hrd x.key)).trans (Mach.plainWrite_bits (wordWrite x val be) s.toMach i), hrun, hidle, hothers,
        fun a ha => (hrd a).trans (Mach.plainWrite_regsBut (wordWrite x val be) s.toMach 0 a ha), hparts⟩
    · refine hdoes hbe ho ?_
      rw [Mach.writeIn_hold (wordWrite x val be) s.toMach hb hwo]
      exact Mach.holdWrite_spec (wordWrite x val be) s.toMach
    · by_cases hbe0 : (wordWrite x val be).one 0 = true
      · unfold wordWrite RegWr.one at hbe0
        rw [BitVec.getLsbD_and, byteMask_zero, Bool.and_eq_true] at hbe0
        rcases hno with h | h
        · exact absurd (hbe0.1.symm.trans h) (by decide)
        · exact absurd (hbe0.2.symm.trans h) (by decide)
      · refine idles_of_act (f := Mach.registerWrite f off val be) rfl ((registerWrite_mapped f off val be hk hx hbe s.toMach).trans ?_)
        rw [if_neg (by simp [ho]), Mach.writeIn_bootGo (wordWrite x val be) s.toMach hb hoo, if_neg hbe0]
    · refine hdoes hbe ho ?_
      have hone : (wordWrite x val be).one 0 = true := by
        unfold wordWrite RegWr.one
        rw [BitVec.getLsbD_and, byteMask_zero, h1, h2]
        rfl
      rw [Mach.writeIn_bootGo (wordWrite x val be) s.toMach hb hoo, if_pos hone]
      exact Mach.bootGo_drawn s.toMach _
    · refine hdoes hbe ho (Mach.writeIn_staged (wordWrite x val be) s.toMach z.2.1 z.2.2 ?_ hlo hrw)
      rw [show ((wordWrite x val be).at_.base, z.2.1, z.2.2) = z from by rw [show (wordWrite x val be).at_.base = z.1 from hb]]
      exact hz
    · refine hdoes hbe ho ?_
      have hset : Mach.portSetting x = true := by
        have hfix2 : Mach.fixedSetting x = true := hfix
        unfold Mach.fixedSetting at hfix2
        unfold Mach.portSetting
        simp only [Bool.and_eq_true, beq_iff_eq, List.contains_iff_mem, List.mem_cons, List.not_mem_nil, or_false] at hfix2 ⊢
        omega
      have hset1 : s.ingSetting port fixed (wordWrite x val be) = s.set1 (R.ING_STAT_CFG_WR port) := if_pos (by rw [hfix, hen]; rfl)
      rw [Mach.ingWrite_setting (wordWrite x val be) s.toMach hset, show s.ingSetting (Fin.ofNat 16 (wordWrite x val be).at_.unit)
        (Mach.fixedSetting (wordWrite x val be).at_) (wordWrite x val be) = s.set1 (R.ING_STAT_CFG_WR port) from hset1]
      exact ⟨Mach.g_set1 s.toMach _ rfl (by simp only [R.ING_STAT_CFG_WR]; decide), Mach.RegsBut.put s.toMach (R.ING_STAT_CFG_WR port) 1, OnlyIn.set1 s.toMach _⟩

end Sys2Proof.Machine

namespace Sys2Proof.Machine

set_option Elab.async false

namespace Mach

/-! ## The end of a reset's hold: straps, verification and release (R416, R418 to R423) -/

/-- The machine at step 1: the hold has ended and the straps are taken, anew where the reset is one that samples them. -/
def strapped (b : BootInfo) (m : Mach) : Mach :=
  (if m.rst.hold = some .por ∨ m.rst.hold = some (.warm Cause.resetN) then m.takeStraps b else m).onRst fun r =>
    { r with hold := none, outFrom := some m.elapsed, thermLow := false, stage := 1, fromPor := r.fromPor || r.hold == some .por }

theorem bringUp_eq (b : BootInfo) (m : Mach) :
    m.bringUp b =
      if (m.strapped b).chip.testMode then (m.strapped b).haltAt 2 5
      else if (m.strapped b).chip.bootSel = 3 ∨ (m.strapped b).chip.clkMode = 3 then (m.strapped b).haltAt 2 1
      else if (m.strapped b).chip.bootSel = 0 then
        (if ((m.strapped b).verifyBanks b).1 then ((m.strapped b).verifyBanks b).2.release b else ((m.strapped b).verifyBanks b).2.haltAt 2 2)
      else (m.strapped b).release b := rfl

theorem strapped_parts (b : BootInfo) (m : Mach) : OnlyIn [.chip, .rst] m (m.strapped b) := by
  unfold strapped
  split
  · exact (((takeStraps_within b m).parts.append (onRst_within _ _).parts)).mono (by decide)
  · exact (OnlyIn.onRst m _).mono (by decide)

theorem strapped_rst (b : BootInfo) (m : Mach) : (m.strapped b).rst =
    { m.rst with hold := none, outFrom := some m.elapsed, thermLow := false, stage := 1, fromPor := m.rst.fromPor || m.rst.hold == some .por } := by
  unfold strapped
  split <;> rfl

theorem strapped_chip (b : BootInfo) (m : Mach) :
    (m.strapped b).chip.bootSel = (if m.rst.hold = some .por ∨ m.rst.hold = some (.warm Cause.resetN) then b.bootSel % 4 else m.chip.bootSel) ∧
    (m.strapped b).chip.clkMode = (if m.rst.hold = some .por ∨ m.rst.hold = some (.warm Cause.resetN) then b.clkMode % 4 else m.chip.clkMode) ∧
    (m.strapped b).chip.testMode = (if m.rst.hold = some .por ∨ m.rst.hold = some (.warm Cause.resetN) then b.testMode else m.chip.testMode) := by
  unfold strapped
  split <;> exact ⟨rfl, rfl, rfl⟩

/-- Bring-up goes on: the hold's end, READY and the straps stay. -/
structure BootKept (a b : Mach) : Prop where
  hold : b.rst.hold = a.rst.hold
  out : b.rst.outFrom = a.rst.outFrom
  ready : b.rst.ready = a.rst.ready
  sel : b.chip.bootSel = a.chip.bootSel
  clk : b.chip.clkMode = a.chip.clkMode
  test : b.chip.testMode = a.chip.testMode

theorem BootKept.trans {a b c : Mach} (h1 : BootKept a b) (h2 : BootKept b c) : BootKept a c :=
  ⟨h2.hold.trans h1.hold, h2.out.trans h1.out, h2.ready.trans h1.ready, h2.sel.trans h1.sel, h2.clk.trans h1.clk, h2.test.trans h1.test⟩

theorem fallback_set (m : Mach) : ((m.set1 R.GLB_STAT_FW_FALLBACK).onRst fun r => { r with fwVerified := true }).g R.GLB_STAT_FW_FALLBACK = 1 := by
  rw [onRst_g]
  exact g_set1 m R.GLB_STAT_FW_FALLBACK rfl (by decide)

/-- The ROM's choice of a bank, before its verdict (R420). -/
theorem verifyBanks_cases (b : BootInfo) (m : Mach) :
    (m.verifyBanks b).1 = (b.fwOk || b.fwOtherOk) ∧ BootKept m (m.verifyBanks b).2 ∧ (m.verifyBanks b).2.rst.dies = m.rst.dies ∧
      ((m.verifyBanks b).1 = true → (m.verifyBanks b).2.rst.fwVerified = true ∧ (b.fwOk = false → (m.verifyBanks b).2.g R.GLB_STAT_FW_FALLBACK = 1)) := by
  unfold verifyBanks
  extract_lets m0 m1
  have h0 : BootKept m m0 ∧ m0.rst.dies = m.rst.dies := by
    unfold m0
    split <;> exact ⟨⟨rfl, rfl, rfl, rfl, rfl, rfl⟩, rfl⟩
  obtain ⟨hk, hd⟩ := h0
  cases hok : b.fwOk with
  | true =>
    rw [if_pos rfl]
    exact ⟨rfl, hk.trans ⟨rfl, rfl, rfl, rfl, rfl, rfl⟩, hd, fun _ => ⟨rfl, fun h => absurd h (by decide)⟩⟩
  | false =>
    rw [if_neg (by decide)]
    cases hoth : b.fwOtherOk with
    | true =>
      rw [if_pos rfl]
      exact ⟨rfl, hk.trans ⟨rfl, rfl, rfl, rfl, rfl, rfl⟩, hd, fun _ => ⟨rfl, fun _ => fallback_set m1.otherBank⟩⟩
    | false =>
      rw [if_neg (by decide)]
      exact ⟨rfl, hk.trans ⟨rfl, rfl, rfl, rfl, rfl, rfl⟩, hd, fun h => absurd (show (false : Bool) = true from h) (by decide)⟩

/-- The release of the dies (R421, R422). -/
theorem release_spec (b : BootInfo) (m : Mach) :
    BootKept m (m.release b) ∧
    (b.pllOk = false → (m.release b).rst.stage = 3 ∧ (m.release b).rst.bootErr = 3 ∧ (m.release b).rst.dies = m.rst.dies) ∧
    (b.pllOk = true → (m.release b).rst.stage = 9 ∧ (m.release b).rst.scGood = b.scGood ∧ (m.release b).rst.fwVerified = m.rst.fwVerified ∧
      (m.chip.bootSel = 0 → (m.release b).regs = m.regs) ∧ (m.chip.bootSel ≠ 0 → (m.release b).g R.GLB_BOOT_STAT = 1) ∧
      (∀ d : Fin 4, ((m.release b).rst.dies.get d).lost = !(b.dies.get d).trained ∧
        ((m.release b).rst.dies.get d).why = if (b.dies.get d).trained then 0 else (b.dies.get d).why) ∧
      (m.release b).nvs.state = if (m.release b).on R.NVS_CTRL_EN = true then 1 else 0) := by
  unfold release
  cases hpll : b.pllOk with
  | false => exact ⟨⟨rfl, rfl, rfl, rfl, rfl, rfl⟩, fun _ => ⟨rfl, rfl, rfl⟩, fun h => absurd h (by decide)⟩
  | true =>
    rw [if_neg (by decide)]
    extract_lets m1 m2
    have h1 : m1.chip = m.chip := rfl
    have hm2 : m2.rst = m1.rst ∧ m2.chip = m.chip ∧ (m.chip.bootSel = 0 → m2.regs = m.regs) ∧ (m.chip.bootSel ≠ 0 → m2.g R.GLB_BOOT_STAT = 1) := by
      unfold m2
      split
      · exact ⟨rfl, rfl, fun _ => rfl, fun h => absurd (h1 ▸ ‹m1.chip.bootSel = 0›) h⟩
      · exact ⟨rfl, rfl, fun h => absurd (h1 ▸ h) ‹¬ m1.chip.bootSel = 0›, fun _ => g_put_fits m1 (f := R.GLB_BOOT_STAT) ⟨by decide, by decide⟩ (by decide)⟩
    obtain ⟨hr, hc, hsame, hstat⟩ := hm2
    have hs := (storeInit_within m2).parts
    have hregs : m2.storeInit.regs = m2.regs := hs .regs (by decide)
    have hrst : m2.storeInit.rst = m1.rst := (hs .rst (by decide)).trans hr
    have hchip : m2.storeInit.chip = m.chip := (hs .chip (by decide)).trans hc
    refine ⟨⟨by rw [hrst]; rfl, by rw [hrst]; rfl, by rw [hrst]; rfl, by rw [hchip], by rw [hchip], by rw [hchip]⟩, fun h => absurd h (by decide), fun _ => ?_⟩
    refine ⟨by rw [hrst]; rfl, by rw [hrst]; rfl, by rw [hrst]; rfl, fun h => hregs.trans (hsame h), fun h => (g_of_regs hregs _).trans (hstat h), fun d => ?_, ?_⟩
    · rw [hrst]
      have hdie : m1.rst.dies.get d = { (m.rst.dies.get d) with lost := !(b.dies.get d).trained, why := if (b.dies.get d).trained then 0 else (b.dies.get d).why } :=
        ofFn_get4 _ d
      rw [hdie]
      exact ⟨rfl, rfl⟩
    · rw [storeInit_state, Bool.toNat, show m2.storeInit.on R.NVS_CTRL_EN = m2.on R.NVS_CTRL_EN from by unfold on; rw [g_of_regs hregs]]
      cases m2.on R.NVS_CTRL_EN <;> rfl

/-- What the end of a hold does to the machine at the hold's last instant. -/
theorem bringUp_kept (b : BootInfo) (m : Mach) : BootKept (m.strapped b) (m.bringUp b) := by
  have hk : ∀ u : Mach, ∀ st e, BootKept u (u.haltAt st e) := fun u st e => ⟨rfl, rfl, rfl, rfl, rfl, rfl⟩
  obtain ⟨-, hv, -⟩ := verifyBanks_cases b (m.strapped b)
  rw [bringUp_eq]
  split
  · exact hk _ _ _
  · split
    · exact hk _ _ _
    · split
      · split
        · exact hv.trans (release_spec b _).1
        · exact hv.trans (hk _ _ _)
      · exact (release_spec b _).1

/-- A hold's end is the bring-up of the machine at the instant where the hold is over (R418). -/
theorem holdEnd_bringUp (b : BootInfo) (m : Mach) (h : m.rst.hold ≠ none) :
    ∃ u : Mach, m.holdEnd b = u.bringUp b ∧ u.rst = m.rst ∧ u.chip = m.chip ∧ (m.rst.hold = some .por → u.time = m.time) ∧
      (∀ c, c < 32 → m.rst.hold = some (.warm c) → m.rst.holdAt + m.holdLength c ≤ u.elapsed) := by
  unfold holdEnd
  match hh : m.rst.hold with
  | none => exact absurd hh h
  | some .por => exact ⟨m, rfl, rfl, rfl, fun _ => rfl, fun c _ hc => absurd (Option.some.inj hc) (by simp)⟩
  | some (.warm c) =>
    have hp := (runToElapsed_clockOnly (m.rst.holdAt + m.holdLength c) m).parts
    refine ⟨m.runToElapsed (m.rst.holdAt + m.holdLength c), rfl, hp .rst (by decide), hp .chip (by decide),
      fun hc => absurd (Option.some.inj hc) (by simp), fun c' _ hc => ?_⟩
    have hcc : c = c' := Hold.warm.inj (Option.some.inj hc)
    rw [← hcc]
    exact runToElapsed_reaches m _

/-- The end of a hold, whatever follows: no hold, RESET_OUT_N counts from here, and the straps are those taken. -/
structure HoldEnded (b : BootInfo) (m t : Mach) : Prop where
  hold : t.rst.hold = none
  out : t.rst.outFrom = some t.elapsed
  ready : t.rst.ready = m.rst.ready
  sel : t.chip.bootSel = if m.rst.hold = some .por ∨ m.rst.hold = some (.warm Cause.resetN) then b.bootSel % 4 else m.chip.bootSel
  clk : t.chip.clkMode = if m.rst.hold = some .por ∨ m.rst.hold = some (.warm Cause.resetN) then b.clkMode % 4 else m.chip.clkMode
  test : t.chip.testMode = if m.rst.hold = some .por ∨ m.rst.hold = some (.warm Cause.resetN) then b.testMode else m.chip.testMode

theorem bringUp_ended (b : BootInfo) (m : Mach) : HoldEnded b m (m.bringUp b) := by
  obtain ⟨hh, ho, hr, hs, hc, ht⟩ := bringUp_kept b m
  have ht0 : (m.bringUp b).time = m.time := (bringUp_within b m).parts .time (by decide)
  have hel : (m.bringUp b).elapsed = m.elapsed := by unfold elapsed; rw [ht0]
  obtain ⟨h1, h2, h3⟩ := strapped_chip b m
  have hrst := strapped_rst b m
  exact ⟨by rw [hh, hrst], by rw [ho, hrst, hel], by rw [hr, hrst], hs.trans h1, hc.trans h2, ht.trans h3⟩

/-- Where a bring-up halts and where it goes on (R418 to R422), by the straps that are in force. -/
theorem bringUp_outcome (b : BootInfo) (m : Mach) :
    let sel := (m.strapped b).chip.bootSel
    let clk := (m.strapped b).chip.clkMode
    let test := (m.strapped b).chip.testMode
    let fails := !b.fwOk && !b.fwOtherOk
    let t := m.bringUp b
    (test = true → t.rst.stage = 2 ∧ t.rst.bootErr = 5 ∧ t.rst.dies = m.rst.dies) ∧
    (test = false → sel = 3 ∨ clk = 3 → t.rst.stage = 2 ∧ t.rst.bootErr = 1 ∧ t.rst.dies = m.rst.dies) ∧
    (test = false → sel = 0 → clk ≠ 3 → fails = true → t.rst.stage = 2 ∧ t.rst.bootErr = 2 ∧ t.rst.dies = m.rst.dies) ∧
    (test = false → sel ≠ 3 → clk ≠ 3 → ¬ (sel = 0 ∧ fails = true) → b.pllOk = false → t.rst.stage = 3 ∧ t.rst.bootErr = 3 ∧ t.rst.dies = m.rst.dies) ∧
    (test = false → sel ≠ 3 → clk ≠ 3 → ¬ (sel = 0 ∧ fails = true) → b.pllOk = true →
      t.rst.stage = 9 ∧ t.rst.scGood = b.scGood ∧ (sel = 0 → t.rst.fwVerified = true ∧ (b.fwOk = false → t.g R.GLB_STAT_FW_FALLBACK = 1)) ∧
      (sel ≠ 0 → t.rst.fwVerified = m.rst.fwVerified ∧ t.g R.GLB_BOOT_STAT = 1) ∧
      (∀ d : Fin 4, (t.rst.dies.get d).lost = !(b.dies.get d).trained ∧ (t.rst.dies.get d).why = if (b.dies.get d).trained then 0 else (b.dies.get d).why) ∧
      t.nvs.state = if t.on R.NVS_CTRL_EN = true then 1 else 0) := by
  intro sel clk test fails t
  have hd : (m.strapped b).rst.dies = m.rst.dies := by rw [strapped_rst]
  have hfw : (m.strapped b).rst.fwVerified = m.rst.fwVerified := by rw [strapped_rst]
  obtain ⟨hok, hkept, hvd, hver⟩ := verifyBanks_cases b (m.strapped b)
  have hnot : fails = true ↔ (b.fwOk || b.fwOtherOk) = false := by
    unfold fails
    cases b.fwOk <;> cases b.fwOtherOk <;> decide
  have e := bringUp_eq b m
  -- where nothing halts before the release, the dies are released from the machine with its firmware judged
  have hrel : test = false → sel ≠ 3 → clk ≠ 3 → ¬ (sel = 0 ∧ fails = true) → ∃ u : Mach, t = u.release b ∧ u.rst.dies = m.rst.dies ∧
      u.chip.bootSel = sel ∧ (sel = 0 → u.rst.fwVerified = true ∧ (b.fwOk = false → u.g R.GLB_STAT_FW_FALLBACK = 1)) ∧
      (sel ≠ 0 → u.rst.fwVerified = m.rst.fwVerified) := by
    intro h hs hc hf
    have e1 := e.trans ((if_neg (by rw [show (m.strapped b).chip.testMode = false from h]; decide)).trans (if_neg fun x => x.elim hs hc))
    by_cases h0 : sel = 0
    · have hv : ((m.strapped b).verifyBanks b).1 = true := by
        rw [hok]
        exact Bool.eq_true_of_not_eq_false fun hx => hf ⟨h0, hnot.2 hx⟩
      exact ⟨_, e1.trans ((if_pos h0).trans (if_pos hv)), hvd.trans hd, hkept.sel, fun _ => hver hv, fun hx => absurd h0 hx⟩
    · exact ⟨_, e1.trans (if_neg h0), hd, rfl, fun hx => absurd hx h0, fun _ => hfw⟩
  refine ⟨fun h => ?_, fun h hs => ?_, fun h hs hc hf => ?_, fun h hs hc hf hp => ?_, fun h hs hc hf hp => ?_⟩
  · have et : t = (m.strapped b).haltAt 2 5 := e.trans (if_pos h)
    rw [et]
    exact ⟨rfl, rfl, hd⟩
  · have et : t = (m.strapped b).haltAt 2 1 := e.trans ((if_neg (by rw [show (m.strapped b).chip.testMode = false from h]; decide)).trans (if_pos hs))
    rw [et]
    exact ⟨rfl, rfl, hd⟩
  · have et : t = ((m.strapped b).verifyBanks b).2.haltAt 2 2 := by
      have h3 : ¬ (sel = 3 ∨ clk = 3) := fun x => x.elim (fun h3 => by omega) hc
      refine e.trans ((if_neg (by rw [show (m.strapped b).chip.testMode = false from h]; decide)).trans ((if_neg h3).trans ((if_pos hs).trans (if_neg ?_))))
      rw [hok, hnot.1 hf]
      decide
    rw [et]
    exact ⟨rfl, rfl, hvd.trans hd⟩
  · obtain ⟨u, et, hud, -⟩ := hrel h hs hc hf
    rw [et]
    obtain ⟨h1, h2, h3⟩ := (release_spec b u).2.1 hp
    exact ⟨h1, h2, h3.trans hud⟩
  · obtain ⟨u, et, -, husel, hu0, hun⟩ := hrel h hs hc hf
    rw [et]
    obtain ⟨hst, hsc, hfv, hregs, hstat, hdies, hnvs⟩ := (release_spec b u).2.2 hp
    refine ⟨hst, hsc, fun h0 => ?_, fun h0 => ⟨hfv.trans (hun h0), hstat (fun hx => h0 (husel.symm.trans hx))⟩, hdies, hnvs⟩
    obtain ⟨h1, h2⟩ := hu0 h0
    exact ⟨hfv.trans h1, fun hok => (g_of_regs (hregs (husel.trans h0)) _).trans (h2 hok)⟩

end Mach

end Sys2Proof.Machine

namespace Sys2Proof.Machine

set_option Elab.async false

/-! ## What records leave of the streams' counts (R267, R275) -/

/-- Records are written: a final commit's state stays, and each stream's next count only rises within its epoch. -/
structure Onward (a b : Mach) : Prop where
  pf : b.jnl.pf = a.jnl.pf
  epoch : a.jnl.epoch ≤ b.jnl.epoch
  next : b.jnl.epoch = a.jnl.epoch → ∀ i : Fin 32, a.jnl.next.get i ≤ b.jnl.next.get i

namespace Onward

theorem refl (a : Mach) : Onward a a := ⟨rfl, Nat.le_refl _, fun _ _ => Nat.le_refl _⟩

theorem trans {a b c : Mach} (h1 : Onward a b) (h2 : Onward b c) : Onward a c := by
  obtain ⟨p1, e1, n1⟩ := h1
  obtain ⟨p2, e2, n2⟩ := h2
  exact ⟨p2.trans p1, e1.trans e2, fun he i => (n1 (by omega) i).trans (n2 (by omega) i)⟩

theorem forEach {α : Type} (xs : List α) (f : α → Mach → Mach) (h : ∀ x m, Onward m (f x m)) (m : Mach) : Onward m (forEach xs f m) :=
  Mach.forEach_mem (Onward m) xs f (fun x _ t ht => ht.trans (h x t)) m (refl m)

/-- What leaves the journal's counts, its epoch and the final commit as they are. -/
theorem of_eq {a b : Mach} (hp : b.jnl.pf = a.jnl.pf) (he : b.jnl.epoch = a.jnl.epoch) (hn : b.jnl.next = a.jnl.next) : Onward a b :=
  ⟨hp, he.ge, fun _ i => by rw [hn]⟩

theorem of_jnl {a b : Mach} (h : b.jnl = a.jnl) : Onward a b := of_eq (by rw [h]) (by rw [h]) (by rw [h])

theorem onJnl (m : Mach) (f : Journal → Journal) (h : ∀ j, (f j).pf = j.pf ∧ (f j).epoch = j.epoch ∧ (f j).next = j.next := by exact fun _ => ⟨rfl, rfl, rfl⟩) :
    Onward m (m.onJnl f) :=
  of_eq (h m.jnl).1 (h m.jnl).2.1 (h m.jnl).2.2

/-- A new epoch restarts the counts. -/
theorem renewed (m : Mach) (f : Journal → Journal) (h : ∀ j, (f j).pf = j.pf ∧ (f j).epoch = j.epoch + 1 := by exact fun _ => ⟨rfl, rfl⟩) : Onward m (m.onJnl f) := by
  have he : (m.onJnl f).jnl.epoch = m.jnl.epoch + 1 := (h m.jnl).2
  exact ⟨(h m.jnl).1, by omega, fun hx => absurd hx (by omega)⟩

/-- A stream takes its next count. -/
theorem counted (m : Mach) (f : Journal → Journal) (s : Fin 32)
    (h : (f m.jnl).pf = m.jnl.pf ∧ (f m.jnl).epoch = m.jnl.epoch ∧ (f m.jnl).next = vput m.jnl.next s (m.jnl.next.get s + 1)) : Onward m (m.onJnl f) := by
  obtain ⟨hp, he, hn⟩ := h
  refine ⟨hp, Nat.le_of_eq he.symm, fun _ i => ?_⟩
  rw [Mach.onJnl_jnl, hn]
  by_cases hi : i = s
  · rw [hi, vput_get_self]
    omega
  · rw [Mach.vput_get_ne _ _ hi]

end Onward

namespace Mach

theorem freeEarly_onward (bank : Nat) (m : Mach) : Onward m (m.freeEarly bank).2 := by
  unfold freeEarly
  split
  · exact .of_eq rfl rfl rfl
  · exact .refl m

theorem countRefused_onward (cls : Nat) (m : Mach) : Onward m (m.countRefused cls) := .of_jnl rfl

theorem writeCopies_onward (bank : Nat) (m : Mach) : Onward m (m.writeCopies bank) := by
  refine Onward.forEach _ _ (fun d t => ?_) m
  dsimp only
  split
  · exact .of_eq rfl rfl rfl
  · exact .of_eq rfl rfl rfl

theorem admitRec_onward (f : Fin 8) (b : Body) (flags : Nat) (m : Mach) : Onward m (m.admitRec f b flags).2 := by
  unfold admitRec
  dsimp only
  have e : Onward m (if bankSlots < m.bankUsed (m.g (R.JNL_F_CFG_BANK f)) + (1 + m.reserveOf b (m.classOf f b) / 64) then
      m.freeEarly (m.g (R.JNL_F_CFG_BANK f)) else (false, m)).2 := by
    split
    · exact freeEarly_onward _ m
    · exact .refl m
  split
  · exact .refl m
  generalize (if bankSlots < m.bankUsed (m.g (R.JNL_F_CFG_BANK f)) + (1 + m.reserveOf b (m.classOf f b) / 64) then
    m.freeEarly (m.g (R.JNL_F_CFG_BANK f)) else (false, m)).2 = m1 at e ⊢
  split
  · exact countRefused_onward _ m
  split
  · exact e.trans (countRefused_onward _ _)
  split
  · exact e.trans (countRefused_onward _ _)
  have w := e.trans (writeCopies_onward (m.g (R.JNL_F_CFG_BANK f)) m1)
  split
  · exact w.trans (countRefused_onward _ _)
  generalize m1.writeCopies (m.g (R.JNL_F_CFG_BANK f)) = m2 at w ⊢
  refine w.trans (Onward.trans (b := (m2.scDrop _).onJnl _) ?_ (.of_jnl (inc_jnl _ _)))
  exact Onward.trans (b := m2.scDrop _) (.of_jnl rfl) (.counted _ _ (stream f (m.classOf f b)) ⟨rfl, rfl, rfl⟩)

theorem admitAll_onward (b : Body) (flags : Nat) (m : Mach) : Onward m (m.admitAll b flags) :=
  .forEach _ _ (fun f t => admitRec_onward f b flags t) m

theorem onceHealth_onward (h : HCode) (u : HUnit) (n : Nat) (m : Mach) : Onward m (m.onceHealth h u n) := by
  unfold onceHealth
  split
  · exact .refl m
  · exact (Onward.onJnl m _).trans (admitAll_onward _ _ _)

theorem afterRefusal_onward (cls : Nat) (why : Option Refused) (m : Mach) : Onward m (m.afterRefusal cls why) := by
  unfold afterRefusal
  split
  · exact onceHealth_onward _ _ _ m
  · split
    · exact .refl m
    · exact onceHealth_onward _ _ _ m
  · exact .refl m

theorem sayLost_onward (m : Mach) : Onward m m.sayLost := by
  refine Onward.forEach _ _ (fun d t => ?_) m
  have h := (Onward.onJnl t (fun j => { j with unsaid := j.unsaid.filter (· != d) })).trans
    (admitAll_onward (t.healthBody H.mirrorLost (.die d) (t.related H.mirrorLost (.die d)) [d.1 % 2]) 0 _)
  dsimp only
  split
  · exact (h.trans (.renewed _ _)).trans (.onJnl _ _)
  · exact h

theorem write'_onward (f : Fin 8) (b : Body) (flags : Nat) (m : Mach) : Onward m (m.write' f b flags) := by
  unfold write' write
  have h := admitRec_onward f b flags m
  split
  next n m1 heq =>
    rw [heq] at h
    exact h.trans (sayLost_onward _)
  next w m1 heq =>
    rw [heq] at h
    exact (h.trans (afterRefusal_onward _ _ _)).trans (sayLost_onward _)

theorem health_onward (h : HCode) (u : HUnit) (d : List Nat) (m : Mach) : Onward m (m.health h u d) :=
  .forEach _ _ (fun f t => write'_onward f _ _ t) m

theorem missAction_onward (c : MissCause) (a : Action) (m : Mach) : Onward m (m.missAction c a) := by
  unfold missAction dropAction
  exact ((write'_onward _ _ _ m).trans (.onJnl _ _)).trans (.of_jnl (inc_jnl _ _))

theorem fireAction_onward (late also : Bool) (a : Action) (m : Mach) : Onward m (m.fireAction late also a) := by
  unfold fireAction
  split
  · exact missAction_onward _ a m
  extract_lets ovl stop m0 m1 m2 m3
  have h0 : Onward m m0 := by
    unfold m0 markMerged
    split
    · exact .onJnl m _
    · exact .refl m
  have h1 : Onward m m1 := h0.trans (.of_jnl rfl)
  have h2 : Onward m m2 := (h1.trans (write'_onward _ _ _ m1)).trans (.onJnl _ _)
  have h3 : Onward m m3 := h2.trans (.of_jnl (inc_jnl _ _))
  split
  · exact h3.trans (.of_jnl (inc_jnl _ _))
  · exact h3

theorem lateAction_onward (c : MissCause) (a : Action) (m : Mach) : Onward m (m.lateAction c a) := by
  unfold lateAction
  split
  · exact .onJnl m _
  · split
    · exact fireAction_onward _ _ a m
    · exact missAction_onward _ a m

theorem fireHeldLate_onward (m : Mach) : Onward m m.fireHeldLate := by
  unfold fireHeldLate
  split
  · exact .refl m
  · exact .forEach _ _ (fun _ t => lateAction_onward _ _ t) m

theorem judgeHeld_onward (all : Bool) (m : Mach) : Onward m (m.judgeHeld all) := .forEach _ _ (fun _ t => lateAction_onward _ _ t) m

theorem judgeHeld_actOnly (all : Bool) (m : Mach) : ActOnly m (m.judgeHeld all) := .forEach _ _ (fun _ t => lateAction_actOnly _ _ t) m

theorem releasePads_onward (mask : BitVec 5) (m : Mach) : Onward m (m.releasePads mask) := by
  rw [releasePads_eq]
  exact Onward.trans (b := m.onRst (padsReleased mask)) (.of_jnl rfl) (fireHeldLate_onward _)

end Mach

/-! ## Records alone: health entries and lost copies -/

/-- Only records have been written. -/
structure Said (a b : Mach) : Prop where
  said : RecOnly a b
  onward : Onward a b

namespace Said

theorem refl (a : Mach) : Said a a := ⟨.refl a, .refl a⟩

theorem trans {a b c : Mach} (h1 : Said a b) (h2 : Said b c) : Said a c := ⟨h1.said.trans h2.said, h1.onward.trans h2.onward⟩

theorem forEach {α : Type} (xs : List α) (f : α → Mach → Mach) (h : ∀ x m, Said m (f x m)) (m : Mach) : Said m (forEach xs f m) :=
  Mach.forEach_mem (Said m) xs f (fun x _ t ht => ht.trans (h x t)) m (refl m)

theorem health (h : HCode) (u : HUnit) (d : List Nat) (m : Mach) : Said m (m.health h u d) := ⟨Mach.health_recOnly h u d m, Mach.health_onward h u d m⟩

theorem pf {a b : Mach} (h : Said a b) : b.jnl.pf = a.jnl.pf := h.onward.pf
theorem rst {a b : Mach} (h : Said a b) : b.rst = a.rst := h.said.parts .rst (by decide)
theorem time {a b : Mach} (h : Said a b) : b.time = a.time := h.said.parts .time (by decide)

end Said

namespace Mach

theorem loseCopies_said (m : Mach) : Said m m.loseCopies := by
  refine Said.forEach _ _ (fun d t => ?_) m
  unfold loseCopy
  split
  · split
    · exact Said.trans (b := t.onJnl _) ⟨.onJnl _ _, .onJnl _ _⟩ ⟨sayLost_recOnly _, sayLost_onward _⟩
    · exact .refl t
  · exact .refl t

theorem reportFails_said (compute : Bool) (d : Fin 4) (old : DiePlan) (m : Mach) : Said m (m.reportFails compute d old) := by
  unfold reportFails
  extract_lets new m1 m2 e tl m3 other
  have h1 : Said m m1 := .forEach _ _ (fun _ _ => .health _ _ _ _) m
  have h2 : Said m m2 := h1.trans (.forEach _ _ (fun _ _ => .health _ _ _ _) m1)
  have h3 : Said m m3 := h2.trans (.forEach _ _ (fun _ _ => .health _ _ _ _) m2)
  split
  · exact .refl m
  · split
    · exact h2
    · exact h3.trans (.forEach _ _ (fun _ _ => .health _ _ _ _) m3)

theorem reportRoles_said (old : Vector DiePlan 4) (m : Mach) : Said m (m.reportRoles old) :=
  .forEach _ _ (fun _ t => .forEach _ _ (fun _ _ => .health _ _ _ _) t) m

end Mach

end Sys2Proof.Machine

namespace Sys2Proof.Machine

set_option Elab.async false

namespace Mach

/-! ## READY (R436, R441, R286, R430) -/

/-- The plan that the dies' self-test leaves. -/
def planned (b : BootInfo) (m : Mach) : Vector DiePlan 4 := Vector.ofFn fun (d : Fin 4) => planOf (m.rst.dies.get d) (b.dies.get d)

theorem planned_get (b : BootInfo) (m : Mach) (d : Fin 4) :
    ((m.planned b).get d).lost = !(b.dies.get d).trained ∧
      ((b.dies.get d).trained = true → ((m.planned b).get d).engGood = (b.dies.get d).engGood &&& (m.rst.dies.get d).engPresent) := by
  unfold planned planOf
  rw [ofFn_get4]
  cases (b.dies.get d).trained with
  | true => exact ⟨rfl, fun _ => rfl⟩
  | false => exact ⟨rfl, fun h => absurd h (by decide)⟩

/-- READY has been declared: the reset unit publishes its plan, and the tick watchdog is armed at 0. -/
structure Declared (cause : Nat) (m t : Mach) : Prop where
  ready : t.rst.ready = true
  compute : t.rst.compute = none
  gen : t.rst.gen = m.rst.gen + 1
  cause : t.rst.fptCause = cause
  dies : t.rst.dies = m.rst.dies
  sc : t.rst.scGood = m.rst.scGood
  armed : t.tick.wdogArmed = m.jnl.pf.isNone
  count : t.tick.wdogCount = 0

/-- What the declaration leaves beside. -/
structure DeclaredKeeps (m t : Mach) : Prop where
  held : t.rst.held = m.rst.held
  fromPor : t.rst.fromPor = m.rst.fromPor
  onward : Onward m t
  regs : ∀ off, ¬ (0x1E0000 ≤ off ∧ off < 0x200000) → t.rd off = m.rd off

/-- Every die's energy ledger starts again at its ceiling. -/
def refilled (m : Mach) : Mach := forEach (List.finRange 4) (fun (d : Fin 4) t => t.onLvl d fun l => { l with ledger := t.levelCeiling d }) m

theorem refilled_parts (m : Mach) : OnlyIn [.lvl] m m.refilled := by
  unfold refilled
  refine OnlyIn.forEach _ _ (fun d t => ?_) m
  exact (onLvl_within (by exact fun _ h => h)).parts

theorem declareReady_spec (cause steps : Nat) (m : Mach) : Declared cause m (m.declareReady cause steps) ∧ DeclaredKeeps m (m.declareReady cause steps) := by
  unfold declareReady
  extract_lets m1 m2
  have h2 : m2.rst = m1.rst ∧ m2.jnl = m.jnl ∧ m2.regs = m.regs := by
    have hp : OnlyIn [.out] m1 m2 := by
      unfold m2
      split
      · exact ((emit_within _ m1).parts.append (msix_within 0 6 _).parts).mono (by decide)
      · exact .refl _ _
    exact ⟨hp .rst (by decide), (hp .jnl (by decide)).trans rfl, (hp .regs (by decide)).trans rfl⟩
  obtain ⟨hr2, hj2, hg2⟩ := h2
  clear_value m2
  have hd := (drawList_within steps m2).parts
  rcases hdl : m2.drawList steps with ⟨lens, m3⟩
  rw [hdl] at hd
  dsimp only at hd ⊢
  have hr3 : m3.rst = m1.rst := (hd .rst (by decide)).trans hr2
  have hj3 : m3.jnl = m.jnl := (hd .jnl (by decide)).trans hj2
  have hg3 : m3.regs = m.regs := (hd .regs (by decide)).trans hg2
  have h4 : Said m3 (m3.health H.resetDone .package (cause :: lens)) := .health _ _ _ _
  generalize m3.health H.resetDone .package (cause :: lens) = m4 at h4 ⊢
  have ht := refilled_parts m4.armWdog
  show Declared cause m m4.armWdog.refilled ∧ DeclaredKeeps m m4.armWdog.refilled
  generalize m4.armWdog.refilled = t at ht ⊢
  have hrt : t.rst = m1.rst := (ht .rst (by decide)).trans (h4.rst.trans hr3)
  have htt : t.tick = m4.armWdog.tick := ht .tick (by decide)
  have hjt : t.jnl = m4.jnl := ht .jnl (by decide)
  refine ⟨⟨by rw [hrt]; rfl, by rw [hrt]; rfl, by rw [hrt]; rfl, by rw [hrt]; rfl, by rw [hrt]; rfl, by rw [hrt]; rfl, ?_, by rw [htt]; rfl⟩,
    by rw [hrt]; rfl, by rw [hrt]; rfl, (Onward.of_jnl hj3).trans (h4.onward.trans (.of_jnl hjt)), fun off ho => ?_⟩
  · rw [htt, ← hj3, ← h4.pf]
    rfl
  · rw [rd, show t.regs = m4.regs from ht .regs (by decide)]
    exact (h4.said.regs off ho).trans (by rw [rd, hg3]; rfl)

/-- READY stands over what follows its declaration: the watchdog, the plan and the generation stay. -/
structure ReadyKept (a b : Mach) : Prop where
  ready : b.rst.ready = a.rst.ready
  compute : b.rst.compute = a.rst.compute
  gen : b.rst.gen = a.rst.gen
  cause : b.rst.fptCause = a.rst.fptCause
  dies : b.rst.dies = a.rst.dies
  sc : b.rst.scGood = a.rst.scGood
  armed : b.tick.wdogArmed = a.tick.wdogArmed
  count : b.tick.wdogCount = a.tick.wdogCount

namespace ReadyKept

theorem trans {a b c : Mach} (h1 : ReadyKept a b) (h2 : ReadyKept b c) : ReadyKept a c := by
  obtain ⟨a1, a2, a3, a4, a5, a6, a7, a8⟩ := h1
  obtain ⟨b1, b2, b3, b4, b5, b6, b7, b8⟩ := h2
  exact ⟨b1.trans a1, b2.trans a2, b3.trans a3, b4.trans a4, b5.trans a5, b6.trans a6, b7.trans a7, b8.trans a8⟩

theorem of_actOnly {a b : Mach} (h : ActOnly a b) : ReadyKept a b := by
  have hr : b.rst = a.rst := h.parts .rst (by decide)
  exact ⟨by rw [hr], by rw [hr], by rw [hr], by rw [hr], by rw [hr], by rw [hr], by rw [h.tick], by rw [h.tick]⟩

theorem of_said {a b : Mach} (h : Said a b) : ReadyKept a b := of_actOnly (.ofRec h.said)

/-- An update of the reset unit that touches neither READY nor the floor plan. -/
theorem onRst (m : Mach) (f : ResetUnit → ResetUnit)
    (h : ∀ r, (f r).ready = r.ready ∧ (f r).compute = r.compute ∧ (f r).gen = r.gen ∧ (f r).fptCause = r.fptCause ∧ (f r).dies = r.dies ∧ (f r).scGood = r.scGood := by
      exact fun _ => ⟨rfl, rfl, rfl, rfl, rfl, rfl⟩) : ReadyKept m (m.onRst f) := by
  obtain ⟨h1, h2, h3, h4, h5, h6⟩ := h m.rst
  exact ⟨h1, h2, h3, h4, h5, h6, rfl, rfl⟩

theorem releasePads (mask : BitVec 5) (m : Mach) : ReadyKept m (m.releasePads mask) := by
  rw [releasePads_eq]
  exact (onRst m (padsReleased mask)).trans (of_actOnly (fireHeldLate_actOnly _))

end ReadyKept

theorem Declared.kept {c : Nat} {m a b : Mach} (h : Declared c m a) (k : ReadyKept a b) : Declared c m b := by
  obtain ⟨a1, a2, a3, a4, a5, a6, a7, a8⟩ := h
  obtain ⟨b1, b2, b3, b4, b5, b6, b7, b8⟩ := k
  exact ⟨b1.trans a1, b2.trans a2, b3.trans a3, b4.trans a4, b5.trans a5, b6.trans a6, b7.trans a7, b8.trans a8⟩

/-- Restoring the journal only writes records and the journal: a final commit under way stays (R275). -/
theorem restoreJournal_actOnly (bad : List Nat) (m : Mach) : ActOnly m (m.restoreJournal bad) ∧ (m.restoreJournal bad).jnl.pf = m.jnl.pf := by
  unfold restoreJournal
  extract_lets log recs top
  split
  · extract_lets m1
    have h1 : ActOnly m m1 := .onJnl m _
    have p1 : m1.jnl.pf = m.jnl.pf := rfl
    clear_value m1
    split
    · extract_lets pos back m2 m3
      have h2 : ActOnly m m2 := h1.trans (.onJnl m1 _)
      have p2 : m2.jnl.pf = m1.jnl.pf := by unfold m2; rw [onJnl_jnl]
      clear_value m2
      have h3 : ActOnly m2 m3 := .forEach _ _ (fun _ t => missAction_actOnly _ _ t) m2
      have o3 : Onward m2 m3 := .forEach _ _ (fun _ t => missAction_onward _ _ t) m2
      exact ⟨(h2.trans h3).trans (.ofRec (health_recOnly _ _ _ _)), (health_onward _ _ _ m3).pf.trans (o3.pf.trans (p2.trans p1))⟩
    · have h2 : ActOnly m1 (m1.onJnl fun j => { j with next := Vector.ofFn (fun (i : Fin 32) => top i.1 + 1) }).syncDelivery :=
        (ActOnly.onJnl m1 _).trans (.onJnl _ _)
      have p2 : (m1.onJnl fun j => { j with next := Vector.ofFn (fun (i : Fin 32) => top i.1 + 1) }).syncDelivery.jnl.pf = m1.jnl.pf := by
        rw [syncDelivery, onJnl_jnl, onJnl_jnl]
      generalize (m1.onJnl fun j => { j with next := Vector.ofFn (fun (i : Fin 32) => top i.1 + 1) }).syncDelivery = m2 at h2 p2 ⊢
      exact ⟨(h1.trans h2).trans (.ofRec (health_recOnly _ _ _ _)), (health_onward _ _ _ m2).pf.trans (p2.trans p1)⟩
  · unfold newEpoch syncDelivery
    exact ⟨(ActOnly.onJnl m _).trans (.onJnl _ _), by rw [onJnl_jnl, onJnl_jnl]⟩

/-- The bring-up at its last step: the plan is taken, and after a power-on the journal restored. -/
def plannedReady (b : BootInfo) (m : Mach) : Mach :=
  let m1 := m.onRst fun r => { r with dies := Vector.ofFn fun (d : Fin 4) => planOf (r.dies.get d) (b.dies.get d), scGood := b.scGood }
  if m1.rst.fromPor then m1.restoreJournal b.badGroups else m1

theorem plannedReady_spec (b : BootInfo) (m : Mach) :
    (m.plannedReady b).rst = { m.rst with dies := m.planned b, scGood := b.scGood } ∧ (m.plannedReady b).jnl.pf = m.jnl.pf ∧
      (m.rst.fromPor = false → (m.plannedReady b).jnl = m.jnl) ∧
      (∀ off, ¬ (0x1E0000 ≤ off ∧ off < 0x200000) → (m.plannedReady b).rd off = m.rd off) := by
  unfold plannedReady
  extract_lets m1
  have hr : m1.rst = { m.rst with dies := m.planned b, scGood := b.scGood } := rfl
  split
  next hp =>
    obtain ⟨ha, hpf⟩ := restoreJournal_actOnly b.badGroups m1
    exact ⟨(ha.parts .rst (by decide)).trans hr, hpf, fun h => absurd (h.symm.trans (show m.rst.fromPor = true from hp)) (by decide), fun off ho => ha.regs off ho⟩
  next => exact ⟨hr, rfl, fun _ => rfl, fun _ _ => rfl⟩

/-- What stands at READY at the end of a bring-up, beside the declaration itself. -/
structure UpKeeps (m t : Mach) : Prop where
  fromPor : t.rst.fromPor = false
  held : t.rst.held = m.rst.held &&& ~~~(BitVec.ofNat 5 (m.g R.IOC_CFG_AUTO_REL))
  onward : m.rst.fromPor = false → Onward m t

theorem setFixedLoad_kept (m : Mach) : OnlyIn [.regs, .draws] m m.setFixedLoad ∧ m.setFixedLoad.g R.IOC_CFG_AUTO_REL = m.g R.IOC_CFG_AUTO_REL :=
  ⟨(setFixedLoad_within m).parts.mono (by decide), g_put_ne m.drawNat.2 R.PWR_PFIX R.IOC_CFG_AUTO_REL _ (by decide)⟩

/-- READY at the end of a bring-up (R436). -/
theorem readyBringUp_spec (b : BootInfo) (m : Mach)
    (h : (m.rst.ready || m.rst.hold.isSome || m.rst.compute.isSome || m.rst.stage != 9 || !m.rst.fwVerified || m.nvs.state == 1) = false) :
    Declared m.rst.cause (m.plannedReady b) (m.readyBringUp b) ∧ UpKeeps m (m.readyBringUp b) := by
  obtain ⟨hr2, hp2, hj2, hg2⟩ := plannedReady_spec b m
  unfold readyBringUp
  rw [if_neg (by rw [h]; decide)]
  extract_lets old m1 m2 m3 m4 m5 m6 m7
  have e2 : m2 = m.plannedReady b := rfl
  rw [← e2] at hr2 hp2 hj2 hg2 ⊢
  clear_value m2
  have hlc := loseCopies_said m2
  obtain ⟨hfl, hfg⟩ := setFixedLoad_kept m2.loseCopies
  have hr3 : m3.rst = m2.rst := (hfl .rst (by decide)).trans hlc.rst
  have o3 : Onward m2 m3 := hlc.onward.trans (.of_jnl (hfl .jnl (by decide)))
  have hauto3 : m3.g R.IOC_CFG_AUTO_REL = m.g R.IOC_CFG_AUTO_REL :=
    hfg.trans ((hlc.said.g _ (by decide)).trans (by unfold g; rw [hg2 _ (by decide)]))
  clear_value m3
  have hcause : m3.rst.cause = m.rst.cause := by rw [hr3, hr2]
  obtain ⟨hd4, hk4⟩ := declareReady_spec m3.rst.cause 9 m3
  have hm4 : Declared m.rst.cause m2 m4 := by
    obtain ⟨a1, a2, a3, a4, a5, a6, a7, a8⟩ := hd4
    exact ⟨a1, a2, by rw [← hr3]; exact a3, hcause ▸ a4, a5.trans (by rw [hr3]), a6.trans (by rw [hr3]), by rw [← o3.pf]; exact a7, a8⟩
  have hk4 : DeclaredKeeps m3 m4 := hk4
  clear_value m4
  have h5 : Said m4 m5 := .forEach _ _ (fun d t => reportFails_said false d _ t) m4
  have h6 : Said m5 m6 := by
    unfold m6
    split
    · exact .health _ _ _ _
    · exact .refl m5
  clear_value m5 m6
  have h46 := h5.trans h6
  have hauto : m6.g R.IOC_CFG_AUTO_REL = m.g R.IOC_CFG_AUTO_REL :=
    (h46.said.g _ (by decide)).trans (Eq.trans (by unfold g; rw [hk4.regs _ (by decide)]) hauto3)
  have hr7 : m7.rst = padsReleased (BitVec.ofNat 5 (m6.g R.IOC_CFG_AUTO_REL)) m6.rst := releasePads_rst _ m6
  have h7 : ReadyKept m6 m7 := .releasePads _ m6
  have o7 : Onward m6 m7 := releasePads_onward _ m6
  clear_value m7
  have h8 := judgeHeld_actOnly true m7
  have o8 := judgeHeld_onward true m7
  generalize m7.judgeHeld true = m8 at h8 o8 ⊢
  have hr8 : m8.rst = m7.rst := h8.parts .rst (by decide)
  refine ⟨(((hm4.kept (.of_said h46)).kept h7).kept (.of_actOnly h8)).kept (.onRst m8 _), rfl, ?_, fun hp => ?_⟩
  · show m8.rst.held = _
    rw [hr8, hr7, hauto]
    show m6.rst.held &&& _ = _
    rw [h46.rst, hk4.held, hr3, hr2]
  · exact (Onward.of_jnl (hj2 hp)).trans (o3.trans (hk4.onward.trans (h46.onward.trans (o7.trans (o8.trans (.of_jnl rfl))))))

end Mach

end Sys2Proof.Machine

namespace Sys2Proof.Machine

set_option Elab.async false

namespace Mach

/-! ## READY at the end of a compute reset (R427, R436) -/

/-- How a port stands once the compute side is back: an enabled one receives with its surface being zeroed, one that lost its EN has failed. -/
def BackUp (p : Fin 16) (t : Mach) : Prop :=
  (t.on (R.ING_CTRL_EN p) = true → (t.port.get p).running = true ∧ (t.fe.get p).surf = [] ∧ (t.fe.get p).zeroing = true ∧ (t.fe.get p).warming = true) ∧
  (t.on (R.ING_CTRL_EN p) = false → (t.port.get p).running = false ∧ (t.port.get p).failed = true)

/-- What port p is restarted with, alone. -/
def restartOne (p : Fin 16) (t : Mach) : Mach :=
  if t.enableState p then (t.clr (R.ING_CTRL_EN p)).onPort p fun x => { x with running := false, stopReq := false, failed := true }
  else t.restartPort p

theorem restartPorts_eq (m : Mach) : m.restartPorts = forEach ((List.finRange 16).filter fun (p : Fin 16) => m.on (R.ING_CTRL_EN p)) restartOne m := rfl

theorem portEn_ne {p q : Fin 16} (h : p ≠ q) : (R.ING_CTRL_EN p).a ≠ (R.ING_CTRL_EN q).a := by
  have : p.1 ≠ q.1 := fun e => h (Fin.ext e)
  simp only [R.ING_CTRL_EN]
  omega

/-- A field of no port's control register stays over a restart. -/
theorem restartOne_g (p : Fin 16) (f : Fld) (h : f.a ≠ (R.ING_CTRL_EN p).a) (t : Mach) : (t.restartOne p).g f = t.g f := by
  unfold restartOne
  split
  · rw [onPort_g]
    exact g_put_ne t _ _ _ h
  · exact g_of_regs ((restartPort_within p t).parts .regs (by decide)) f

theorem restartPort_back (p : Fin 16) (t : Mach) :
    ((t.restartPort p).port.get p).running = true ∧ ((t.restartPort p).fe.get p).surf = [] ∧ ((t.restartPort p).fe.get p).zeroing = true ∧
      ((t.restartPort p).fe.get p).warming = true := by
  unfold restartPort zeroSurface fitOff
  dsimp only
  rw [onFe_port, onFe_port, onPort_get_self, onPort_get_self, onFe_get_self, onFe_get_self]
  exact ⟨rfl, rfl, rfl, rfl⟩

theorem restartPort_ne {p q : Fin 16} (h : p ≠ q) (t : Mach) :
    (t.restartPort q).port.get p = t.port.get p ∧ (t.restartPort q).fe.get p = t.fe.get p := by
  unfold restartPort zeroSurface fitOff
  dsimp only
  rw [onFe_port, onFe_port, onPort_get_ne _ _ h, onPort_get_ne _ _ h, onFe_get_ne _ _ h, onFe_get_ne _ _ h, onPort_fe, onPort_fe]
  exact ⟨rfl, rfl⟩

theorem restartOne_ne {p q : Fin 16} (h : p ≠ q) (t : Mach) :
    (t.restartOne q).port.get p = t.port.get p ∧ (t.restartOne q).fe.get p = t.fe.get p ∧ (t.restartOne q).on (R.ING_CTRL_EN p) = t.on (R.ING_CTRL_EN p) := by
  have hg : (t.restartOne q).on (R.ING_CTRL_EN p) = t.on (R.ING_CTRL_EN p) := by
    unfold on
    rw [restartOne_g q _ (portEn_ne h)]
  refine ⟨?_, ?_, hg⟩
  · unfold restartOne
    split
    · rw [onPort_get_ne _ _ h]
      rfl
    · exact (restartPort_ne h t).1
  · unfold restartOne
    split
    · rfl
    · exact (restartPort_ne h t).2

/-- A restarted port that was enabled is back up. -/
theorem restartOne_back (p : Fin 16) (t : Mach) (hen : t.on (R.ING_CTRL_EN p) = true) : BackUp p (t.restartOne p) := by
  unfold restartOne
  split
  · have hoff : ((t.clr (R.ING_CTRL_EN p)).onPort p fun x => { x with running := false, stopReq := false, failed := true }).on (R.ING_CTRL_EN p) = false := by
      unfold on
      rw [onPort_g, g_clr t _ (by simp only [R.ING_CTRL_EN]; omega) (by simp only [R.ING_CTRL_EN]; omega)]
      rfl
    refine ⟨fun h => absurd (hoff.symm.trans h) (by decide), fun _ => ?_⟩
    rw [onPort_get_self]
    exact ⟨rfl, rfl⟩
  · refine ⟨fun _ => restartPort_back p t, fun h => ?_⟩
    have he : (t.restartPort p).on (R.ING_CTRL_EN p) = t.on (R.ING_CTRL_EN p) := by
      unfold on
      rw [g_of_regs ((restartPort_within p t).parts .regs (by decide))]
    exact absurd (hen.symm.trans (he.symm.trans h)) (by decide)

theorem BackUp.of_eq {p : Fin 16} {a b : Mach} (h : BackUp p a) (hp : b.port.get p = a.port.get p) (hf : b.fe.get p = a.fe.get p)
    (he : b.on (R.ING_CTRL_EN p) = a.on (R.ING_CTRL_EN p)) : BackUp p b := by
  unfold BackUp at h ⊢
  rwa [hp, hf, he]

theorem restartAll_back (p : Fin 16) (l : List (Fin 16)) (hnd : l.Nodup) (hp : p ∈ l) (t : Mach) (hen : t.on (R.ING_CTRL_EN p) = true) :
    BackUp p (forEach l restartOne t) := by
  induction l generalizing t with
  | nil => exact absurd hp (by simp)
  | cons q r ih =>
    obtain ⟨hq, hr⟩ := List.nodup_cons.mp hnd
    by_cases hpq : p = q
    · subst hpq
      refine forEach_mem (BackUp p) r restartOne (fun x hx u hu => ?_) _ (restartOne_back p t hen)
      obtain ⟨h1, h2, h3⟩ := restartOne_ne (fun e => hq (e ▸ hx) : p ≠ x) u
      exact hu.of_eq h1 h2 h3
    · exact ih hr ((List.mem_cons.mp hp).resolve_left hpq) _ ((restartOne_ne hpq t).2.2.trans hen)

/-- Every port that was enabled is back up after the restart of the ports. -/
theorem restartPorts_back (m : Mach) (p : Fin 16) (hen : m.on (R.ING_CTRL_EN p) = true) : BackUp p m.restartPorts := by
  rw [restartPorts_eq]
  exact restartAll_back p _ ((List.nodup_finRange 16).filter _) (List.mem_filter.mpr ⟨List.mem_finRange p, hen⟩) m hen

theorem restartPorts_g (m : Mach) (f : Fld) (h : ∀ p : Fin 16, f.a ≠ (R.ING_CTRL_EN p).a) : m.restartPorts.g f = m.g f := by
  rw [restartPorts_eq]
  exact forEach_mem (fun t : Mach => t.g f = m.g f) _ restartOne (fun x _ t ht => (restartOne_g x f (h x) t).trans ht) m rfl

/-- The machine with its dies' plan taken. -/
def withPlan (b : BootInfo) (m : Mach) : Mach := m.onRst fun r => { r with dies := m.planned b }

/-- The compute side at the end of its reset, before READY: plan, ports, the roles' engines and the journal's copies. -/
theorem readyCompute_spec (b : BootInfo) (m : Mach) (h : m.rst.compute.isSome = true) :
    Declared 0x10 (m.withPlan b) (m.readyCompute b) ∧
      (m.readyCompute b).rst.held = m.rst.held &&& ~~~(BitVec.ofNat 5 (m.g R.IOC_CFG_AUTO_REL)) ∧
      ∀ p : Fin 16, m.on (R.ING_CTRL_EN p) = true → BackUp p (m.readyCompute b) := by
  unfold readyCompute
  rw [if_neg (by simp [Option.isNone_iff_eq_none, Option.isSome_iff_ne_none.mp h])]
  extract_lets old m1 m2 m3 m4
  have hr1 : m1.rst = (m.withPlan b).rst := rfl
  have hj1 : m1.jnl = m.jnl := rfl
  have hg1 : ∀ f, m1.g f = m.g f := fun _ => rfl
  clear_value m1
  have hp := (restartPorts_within m1).parts
  have hl := (loadBound_within m1.restartPorts).parts
  have hs : Said m1.restartPorts.loadBound m2 := loseCopies_said _
  have hback : ∀ p : Fin 16, m.on (R.ING_CTRL_EN p) = true → BackUp p m2 := fun p hen => by
    refine (restartPorts_back m1 p (by unfold on; rw [hg1]; exact hen)).of_eq ?_ ?_ ?_
    · rw [show m2.port = m1.restartPorts.loadBound.port from hs.said.parts .port (by decide), show m1.restartPorts.loadBound.port = m1.restartPorts.port from hl .port (by decide)]
    · rw [show m2.fe = m1.restartPorts.loadBound.fe from hs.said.parts .fe (by decide), show m1.restartPorts.loadBound.fe = m1.restartPorts.fe from hl .fe (by decide)]
    · unfold on
      rw [hs.said.g _ (by simp only [R.ING_CTRL_EN]; omega), g_of_regs (hl .regs (by decide))]
  have hr2 : m2.rst = m1.rst := hs.rst.trans ((hl .rst (by decide)).trans (hp .rst (by decide)))
  have hpf2 : m2.jnl.pf = m.jnl.pf := hs.pf.trans (by rw [show m1.restartPorts.loadBound.jnl = m1.restartPorts.jnl from hl .jnl (by decide), show m1.restartPorts.jnl = m1.jnl from hp .jnl (by decide), hj1])
  have hauto2 : m2.g R.IOC_CFG_AUTO_REL = m.g R.IOC_CFG_AUTO_REL := by
    rw [hs.said.g _ (by decide), g_of_regs (hl .regs (by decide)), restartPorts_g m1 _ (fun p => by simp only [R.ING_CTRL_EN, R.IOC_CFG_AUTO_REL]; omega), hg1]
  clear_value m2
  obtain ⟨hd3, hk3⟩ := declareReady_spec Cause.compute 8 m2
  have hw3 := (declareReady_within Cause.compute 8 m2).parts
  have hm3 : Declared 0x10 (m.withPlan b) m3 := by
    obtain ⟨a1, a2, a3, a4, a5, a6, a7, a8⟩ := hd3
    exact ⟨a1, a2, a3.trans (by rw [hr2, hr1]), a4, a5.trans (by rw [hr2, hr1]), a6.trans (by rw [hr2, hr1]), a7.trans (by rw [hpf2]; rfl), a8⟩
  have hk3 : DeclaredKeeps m2 m3 := hk3
  have hw3 : OnlyIn [.regs, .tick, .jnl, .lvl, .rst, .cache, .draws, .out] m2 m3 := hw3
  clear_value m3
  have h4 : Said m3 m4 := .forEach _ _ (fun d t => reportFails_said true d _ t) m3
  clear_value m4
  have h5 := reportRoles_said old m4
  generalize m4.reportRoles old = m5 at h5 ⊢
  have h35 := h4.trans h5
  have hauto4 : m4.g R.IOC_CFG_AUTO_REL = m.g R.IOC_CFG_AUTO_REL :=
    (h4.said.g _ (by decide)).trans (Eq.trans (by unfold g; rw [hk3.regs _ (by decide)]) hauto2)
  rw [hauto4]
  have h6 : ReadyKept m5 (m5.releasePads (BitVec.ofNat 5 (m.g R.IOC_CFG_AUTO_REL))) := .releasePads _ m5
  refine ⟨(hm3.kept (.of_said h35)).kept h6, ?_, fun p hen => (hback p hen).of_eq ?_ ?_ ?_⟩
  · rw [releasePads_rst]
    show m5.rst.held &&& _ = _
    rw [h35.rst, hk3.held, hr2, hr1]
    rfl
  · have hq := (releasePads_within (BitVec.ofNat 5 (m.g R.IOC_CFG_AUTO_REL)) m5).parts
    rw [hq .port (by decide), show m5.port = m3.port from h35.said.parts .port (by decide), show m3.port = m2.port from hw3 .port (by decide)]
  · have hq := (releasePads_within (BitVec.ofNat 5 (m.g R.IOC_CFG_AUTO_REL)) m5).parts
    rw [hq .fe (by decide), show m5.fe = m3.fe from h35.said.parts .fe (by decide), show m3.fe = m2.fe from hw3 .fe (by decide)]
  · have hen : 0x100000 ≤ (R.ING_CTRL_EN p).a ∧ (R.ING_CTRL_EN p).a < 0x110000 := by simp only [R.ING_CTRL_EN]; omega
    have h3 : m3.on (R.ING_CTRL_EN p) = m2.on (R.ING_CTRL_EN p) := by
      unfold on g
      rw [hk3.regs _ (by omega)]
    have h6 : (m5.releasePads (BitVec.ofNat 5 (m.g R.IOC_CFG_AUTO_REL))).on (R.ING_CTRL_EN p) = m5.on (R.ING_CTRL_EN p) := by
      rw [releasePads_eq]
      unfold on g
      rw [(fireHeldLate_actOnly _).regs _ (by omega), onRst_rd]
    rw [h6, h35.said.on _ (by omega), h3]

end Mach

end Sys2Proof.Machine

namespace Sys2Proof.Machine

set_option Elab.async false

namespace Mach

/-- How a hold ended, with the straps as the statement names them. -/
def EndedAs (sel clk : Nat) (test : Bool) (m t : Mach) : Prop :=
  t.rst.hold = none ∧ t.rst.outFrom = some t.elapsed ∧ t.rst.ready = m.rst.ready ∧ t.chip.bootSel = sel ∧ t.chip.clkMode = clk ∧ t.chip.testMode = test ∧
    (m.rst.hold = some .por → t.time = m.time) ∧ (∀ c, c < 32 → m.rst.hold = some (.warm c) → m.rst.holdAt + m.holdLength c ≤ t.elapsed) ∧
    OnlyIn [.chip, .regs, .time, .tick, .enc, .jnl, .nvs, .rst, .cache, .draws, .out] m t

theorem holdEnd_ended (b : BootInfo) (m : Mach) (h : m.rst.hold ≠ none) :
    ∃ u : Mach, m.holdEnd b = u.bringUp b ∧ u.rst = m.rst ∧
      EndedAs (u.strapped b).chip.bootSel (u.strapped b).chip.clkMode (u.strapped b).chip.testMode m (m.holdEnd b) ∧
      ∀ fresh : Bool, fresh = decide (m.rst.hold = some .por ∨ m.rst.hold = some (.warm 0x02)) →
        (u.strapped b).chip.bootSel = (if fresh then b.bootSel % 4 else m.chip.bootSel) ∧
        (u.strapped b).chip.clkMode = (if fresh then b.clkMode % 4 else m.chip.clkMode) ∧
        (u.strapped b).chip.testMode = (if fresh then b.testMode else m.chip.testMode) := by
  obtain ⟨u, he, hr, hc, htime, hlen⟩ := holdEnd_bringUp b m h
  have hk := bringUp_ended b u
  obtain ⟨h1, h2, h3⟩ := strapped_chip b u
  have ht0 : (u.bringUp b).time = u.time := (bringUp_within b u).parts .time (by decide)
  have hel : (u.bringUp b).elapsed = u.elapsed := by unfold elapsed; rw [ht0]
  refine ⟨u, he, hr, ?_, fun fresh hf => ?_⟩
  · have hp := (holdEnd_within b m).parts
    rw [he] at hp ⊢
    exact ⟨hk.hold, hk.out, hk.ready.trans (by rw [hr]), hk.sel.trans h1.symm, hk.clk.trans h2.symm, hk.test.trans h3.symm, fun hpor => ht0.trans (htime hpor),
      fun c hc hw => hel ▸ hlen c hc hw, hp⟩
  · rw [hr] at h1 h2 h3
    rw [hc] at h1 h2 h3
    rw [h1, h2, h3, hf]
    simp only [decide_eq_true_eq]
    exact ⟨rfl, rfl, rfl⟩

/-- What a judged image leaves (R423). -/
theorem imageLoaded_spec (ok : Bool) (m : Mach) :
    (m.imageLoaded ok).rst = (if ok then { m.rst with fwVerified := true, bootErr := 0, sbImage := [] } else { m.rst with bootErr := 4, sbImage := [] }) ∧
      (m.imageLoaded ok).g R.GLB_BOOT_STAT = (if ok then 0 else 3) ∧
      (ok = false → (m.imageLoaded ok).g R.SEC_FW_VERIFY_FAIL = (m.g R.SEC_FW_VERIFY_FAIL + 1) % 2 ^ 32 ∧ (m.imageLoaded ok).chip = m.chip) ∧
      (ok = true → (m.imageLoaded ok).chip = { m.chip with fwVer := Config.freeNat m.draws }) ∧
      RegsBut [R.GLB_BOOT_STAT.a, R.SEC_FW_VERIFY_FAIL.a] m (m.imageLoaded ok) ∧ OnlyIn [.chip, .regs, .rst, .draws] m (m.imageLoaded ok) := by
  refine ⟨imageLoaded_rst ok m, imageLoaded_bootStat ok m, fun h => ?_, fun h => ?_, fun off ho => ?_, imageLoaded_onlyIn ok m⟩
  · subst h
    exact ⟨imageLoaded_fails m, rfl⟩
  · subst h
    rfl
  · simp only [List.mem_cons, List.not_mem_nil, or_false, not_or] at ho
    exact imageLoaded_rd ok m ho.1 ho.2

theorem resetOutRelease_spec (m : Mach) {t0 : Int} (h : m.rst.outFrom = some t0) :
    t0 + (if m.g R.RST_CFG_RST_OUT_MIN = 0 then 1 else min (m.g R.RST_CFG_RST_OUT_MIN) 100 : Nat) * 1000000 ≤ m.resetOutRelease.elapsed ∧
      m.resetOutRelease.rst = { m.rst with outLow := false, outFrom := none } ∧
      OnlyIn [.regs, .time, .tick, .enc, .jnl, .rst, .cache] m m.resetOutRelease := by
  have e : m.resetOutRelease = (m.runToElapsed (t0 + (if m.g R.RST_CFG_RST_OUT_MIN = 0 then 1 else min (m.g R.RST_CFG_RST_OUT_MIN) 100 : Nat) * 1000000)).onRst
      fun r => { r with outLow := false, outFrom := none } := by
    unfold resetOutRelease
    rw [h]
  rw [e]
  generalize t0 + _ = due
  have hp := (runToElapsed_clockOnly due m).parts
  refine ⟨runToElapsed_reaches m due, ?_, (hp.append (OnlyIn.onRst _ _)).mono (by decide)⟩
  rw [onRst_rst, show (m.runToElapsed due).rst = m.rst from hp .rst (by decide)]

end Mach

/-- Settles O57: a hold ends in the straps' verdict, the ROM's and the PLL's, in that order; BOOT_GO judges an image where the ROM waits for one; READY
declares the plan and arms the watchdog, and what follows it writes records and releases pads only. -/
theorem bringUpReachesReady : Obligations.BringUpReachesReady := by
  unfold Obligations.BringUpReachesReady
  intro s b ok fresh bootSel clkMode test fails ended halts loaded waits compute mayReady isReady
  have hsel : compute = false → s.readyAny b = s.readyBringUp b := fun h => if_neg (by rw [show s.rst.compute.isSome = false from h]; decide)
  refine ⟨fun h => ?_, fun h => ?_, fun h => ?_, fun h => ?_, fun hc h => ?_, fun hc h => ?_, fun hc => ?_, fun h => ?_, fun t0 h => ?_⟩
  · exact idles_of_act (f := Mach.holdEnd b) rfl (by unfold Mach.holdEnd; rw [h])
  · obtain ⟨u, he, hr, hend, hstr⟩ := Mach.holdEnd_ended b s.toMach h
    obtain ⟨hs1, hs2, hs3⟩ := hstr fresh rfl
    obtain ⟨o1, o2, o3, o4, o5⟩ := Mach.bringUp_outcome b u
    rw [hs1, hs2, hs3] at hend
    simp only [hs1, hs2, hs3, ← he, hr] at o1 o2 o3 o4 o5
    have hdo : ∀ P : Mach → Prop, P (s.holdEnd b) → Does (.resetHoldEnd b) s P := fun P hP => does_of_act (f := Mach.holdEnd b) rfl rfl hP
    exact ⟨fun h1 => hdo _ ⟨hend, o1 h1⟩, fun h1 h2 => hdo _ ⟨hend, o2 h1 h2⟩, fun h1 h2 h3 h4 => hdo _ ⟨hend, o3 h1 h2 h3 h4⟩,
      fun h1 h2 h3 h4 h5 => hdo _ ⟨hend, o4 h1 h2 h3 h4 h5⟩, fun h1 h2 h3 h4 h5 => hdo _ ⟨hend, o5 h1 h2 h3 h4 h5⟩⟩
  · exact idles_of_act (f := Mach.bootGo ok) rfl (if_neg (by rw [show s.romWaits 1 = false from h]; decide))
  · exact does_of_act (f := Mach.bootGo ok) rfl (if_pos h) (Mach.imageLoaded_spec ok s.toMach)
  · refine idles_of_act (f := Mach.readyAny b) rfl ((hsel hc).trans (if_pos ?_))
    have h : (!s.rst.ready && s.rst.hold.isNone && s.rst.stage == 9 && s.rst.fwVerified && s.nvs.state != 1) = false := h
    have hnone : s.rst.compute = none := Option.not_isSome_iff_eq_none.mp (by rw [show s.rst.compute.isSome = false from hc]; decide)
    revert h
    rw [hnone]
    cases s.rst.ready <;> cases s.rst.hold <;> cases s.rst.fwVerified <;> simp <;> omega
  · have h : (!s.rst.ready && s.rst.hold.isNone && s.rst.stage == 9 && s.rst.fwVerified && s.nvs.state != 1) = true := h
    have hcond : (s.rst.ready || s.rst.hold.isSome || s.rst.compute.isSome || s.rst.stage != 9 || !s.rst.fwVerified || s.nvs.state == 1) = false := by
      have hnone : s.rst.compute.isSome = false := hc
      rw [hnone]
      revert h
      cases s.rst.ready <;> cases s.rst.hold <;> cases s.rst.fwVerified <;> simp
    obtain ⟨hd, hk⟩ := Mach.readyBringUp_spec b s.toMach hcond
    obtain ⟨hr2, hp2, -, -⟩ := Mach.plannedReady_spec b s.toMach
    refine does_of_act (f := Mach.readyAny b) rfl (hsel hc) ?_
    refine ⟨⟨hd.ready, hd.compute, hd.gen.trans (by rw [hr2]), hd.armed.trans (by rw [hp2]), hd.count, fun d => ?_⟩, hd.cause, hk.fromPor, hk.held,
      hd.sc.trans (by rw [hr2]), fun hp => ⟨by simp, fun i => ?_⟩, (Mach.readyBringUp_within b s.toMach).parts⟩
    · rw [hd.dies, hr2]
      exact Mach.planned_get b s.toMach d
    · have ho := hk.onward hp
      rcases Nat.lt_or_eq_of_le ho.epoch with hlt | heq
      · exact .inr hlt
      · exact .inl (ho.next heq.symm i)
  · obtain ⟨hd, hheld, hback⟩ := Mach.readyCompute_spec b s.toMach hc
    refine does_of_act (f := Mach.readyAny b) rfl (if_pos hc) ?_
    refine ⟨⟨hd.ready, hd.compute, hd.gen, hd.armed, hd.count, fun d => ?_⟩, hd.cause, hheld, fun p h1 h2 => (hback p h1).1 h2,
      fun p h1 h2 => (hback p h1).2 h2, (Mach.readyCompute_within b s.toMach).parts⟩
    rw [hd.dies]
    exact Mach.planned_get b s.toMach d
  · exact idles_of_act (f := Mach.resetOutRelease) rfl (by unfold Mach.resetOutRelease; rw [h])
  · exact does_of_act (f := Mach.resetOutRelease) rfl rfl (Mach.resetOutRelease_spec s.toMach h)

end Sys2Proof.Machine

namespace Sys2Proof.Machine

set_option Elab.async false

namespace Mach

/-! ## The filters of a front end (R93, R99 to R114) -/

/-- What a word's way through the filters of port p leaves: other ports' front ends, the sweep, the held event, what learning and a zeroing set,
the curds, and every register but the counts of its end. -/
structure Filtered (p : Fin 16) (a b : Mach) : Prop where
  parts : OnlyIn [.fe, .regs, .tick] a b
  others : ∀ q, q ≠ p → b.fe.get q = a.fe.get q
  sweep : (b.fe.get p).sweep = (a.fe.get p).sweep
  sweeping : (b.fe.get p).sweeping = (a.fe.get p).sweeping
  held : (b.fe.get p).held = (a.fe.get p).held
  events : b.g (R.FE_EVENTS p) = a.g (R.FE_EVENTS p)

namespace Filtered
variable {p : Fin 16} {a b c : Mach}

theorem refl (a : Mach) : Filtered p a a := ⟨.refl _ _, fun _ _ => rfl, rfl, rfl, rfl, rfl⟩

theorem trans (h1 : Filtered p a b) (h2 : Filtered p b c) : Filtered p a c :=
  ⟨h1.parts.trans h2.parts, fun q hq => (h2.others q hq).trans (h1.others q hq), h2.sweep.trans h1.sweep, h2.sweeping.trans h1.sweeping,
    h2.held.trans h1.held, h2.events.trans h1.events⟩

/-- An update of the port's own front end that keeps the sweep and the held event. -/
theorem onFe (m : Mach) (f : Fe → Fe) (h : ∀ x, (f x).sweep = x.sweep ∧ (f x).sweeping = x.sweeping ∧ (f x).held = x.held := by exact fun _ => ⟨rfl, rfl, rfl⟩) :
    Filtered p m (m.onFe p f) := by
  obtain ⟨h1, h2, h3⟩ := h (m.fe.get p)
  refine ⟨(onFe_within p f m).parts.mono (by decide), fun q hq => onFe_get_ne m f hq, ?_, ?_, ?_, onFe_g _ _ _ _⟩
  · rw [onFe_get_self, h1]
  · rw [onFe_get_self, h2]
  · rw [onFe_get_self, h3]

/-- A count beside the events of the port. -/
theorem inc (m : Mach) (f : Fld) (h : (R.FE_EVENTS p).a ≠ f.a) : Filtered p m (m.inc f) :=
  ⟨(OnlyIn.inc m f).mono (by decide), fun _ _ => rfl, rfl, rfl, rfl, g_inc_ne m f _ h⟩

theorem onAcct (m : Mach) (tn : Nat) (f : TickAcct → TickAcct) : Filtered p m (m.onAcct tn f) :=
  ⟨(onAcct_within tn f m).parts.mono (by decide), fun _ _ => rfl, rfl, rfl, rfl, rfl⟩

end Filtered

/-- The write of a cell changes the surface alone. -/
theorem putCode_eq (p : Fin 16) (pol : Bool) (x y code : Nat) (m : Mach) :
    ∃ s : Tab Word → Tab Word, m.putCode p pol x y code = m.onFe p fun f => { f with surf := s f.surf } := ⟨fun t => Tab.set _ t _ _, rfl⟩

theorem putCode_filtered (p : Fin 16) (pol : Bool) (x y code : Nat) (m : Mach) : Filtered p m (m.putCode p pol x y code) := by
  obtain ⟨s, e⟩ := putCode_eq p pol x y code m
  rw [e]
  exact .onFe m _

theorem surfWrite_filtered (p : Fin 16) (pol : Bool) (x y : Nat) (tau : Int) (m : Mach) : Filtered p m (m.surfWrite p pol x y tau) := by
  unfold surfWrite
  split
  · exact .refl m
  · split
    · split
      · exact putCode_filtered _ _ _ _ _ m
      · exact .refl m
    · exact putCode_filtered _ _ _ _ _ m

theorem whey_filtered {p : Fin 16} (c : Fld) (tn : Nat) (m : Mach) (h : (R.FE_EVENTS p).a ≠ c.a) : Filtered p m (m.whey c tn) := by
  unfold whey
  exact (Filtered.inc m c h).trans (.onAcct _ _ _)

/-- A count that is taken only in one case. -/
theorem Filtered.incIf {p : Fin 16} (m : Mach) (c : Bool) (f : Fld) (h : (R.FE_EVENTS p).a ≠ f.a) : Filtered p m (if c then m.inc f else m) := by
  split
  · exact .inc m f h
  · exact .refl m

theorem countEvent_filtered (p : Fin 16) (h : HeldEv) (m : Mach) : Filtered p m (m.countEvent p h) := by
  unfold countEvent
  extract_lets w tau q
  split
  split
  extract_lets m1 m2 m3 m4
  have h1 : Filtered p m m1 := .incIf m _ _ (by simp only [R.FE_EVENTS, R.FE_CORNERS]; omega)
  have h2 : Filtered p m1 m2 := .incIf m1 _ _ (by simp only [R.FE_EVENTS, R.FE_CORNER_EXACT]; omega)
  have h3 : Filtered p m2 m3 := .incIf m2 _ _ (by simp only [R.FE_EVENTS, R.FE_FLOW_VALID]; omega)
  have h4 : Filtered p m3 m4 := .incIf m3 _ _ (by simp only [R.FE_EVENTS, R.FE_FLOW_EXACT]; omega)
  exact (h1.trans (h2.trans (h3.trans h4))).trans (.onFe m4 _)

theorem filterEvent_filtered (p : Fin 16) (h : HeldEv) (m : Mach) : Filtered p m (m.filterEvent p h) := by
  unfold filterEvent
  extract_lets w tau m1 i
  have h1 : Filtered p m m1 := by
    unfold m1
    split
    · exact surfWrite_filtered _ _ _ _ _ m
    · exact .refl m
  clear_value m1
  split
  · exact whey_filtered _ _ m (by simp only [R.FE_EVENTS, R.FE_WHEY_HOT]; omega)
  split
  · exact whey_filtered _ _ m (by simp only [R.FE_EVENTS, R.FE_WHEY_REF]; omega)
  split
  · exact h1.trans ((Filtered.inc m1 _ (by simp only [R.FE_EVENTS, R.FE_STRAGGLERS]; omega)).trans (.onAcct _ _ _))
  split
  · exact h1.trans (whey_filtered _ _ m1 (by simp only [R.FE_EVENTS, R.FE_WHEY_BA]; omega))
  split
  extract_lets m2
  have h2 : Filtered p m m2 := h1.trans (.onFe m1 _)
  clear_value m2
  split
  · exact h2.trans (whey_filtered _ _ m2 (by simp only [R.FE_EVENTS, R.FE_WHEY_FLK]; omega))
  split
  · exact h2
  · exact h2.trans (countEvent_filtered p h m2)

/-! ## A sweep of the surface (R93) -/

theorem tagOf_eq (e : Int) : tagOf e = (e % 3).toNat + 1 := by
  unfold tagOf
  rw [Int.fmod_eq_emod_of_nonneg e (by decide)]

/-- A swept cell: a half with the tag of the epoch that ends is 0, the other halves are as before. -/
theorem sweepCell_toNat (e : Int) (w : Word) :
    (sweepCell e w).toNat = (if w.toNat % 65536 / 16384 = tagOf (e + 1) then 0 else w.toNat % 65536) +
      (if w.toNat / 65536 / 16384 = tagOf (e + 1) then 0 else w.toNat / 65536) * 65536 := by
  have hw := w.isLt
  unfold sweepCell
  dsimp only
  rw [BitVec.toNat_ofNat, Nat.mod_eq_of_lt]
  split <;> split <;> omega

/-- The surface after a sweep. -/
def swept (e : Int) (surf : Tab Word) : Tab Word := surf.filterMap fun c => if sweepCell e c.2 = 0 then none else some (c.1, sweepCell e c.2)

theorem mem_swept {e : Int} {surf : Tab Word} {c : Nat × Word} (h : c ∈ surf) {v : Word} (hv : sweepCell e c.2 = v) (h0 : v ≠ 0) : (c.1, v) ∈ swept e surf :=
  List.mem_filterMap.mpr ⟨c, h, by rw [hv, if_neg h0]⟩

theorem swept_tags {e : Int} {surf : Tab Word} {c : Nat × Word} (h : c ∈ swept e surf) :
    c.2.toNat % 65536 / 16384 ≠ tagOf (e + 1) ∧ c.2.toNat / 65536 / 16384 ≠ tagOf (e + 1) := by
  obtain ⟨d, -, hd⟩ := List.mem_filterMap.mp h
  split at hd
  · cases hd
  · have hc : (d.1, sweepCell e d.2) = c := Option.some.inj hd
    rw [← hc]
    have hs := sweepCell_toNat e d.2
    have ht : 1 ≤ tagOf (e + 1) := by unfold tagOf; omega
    have hw := d.2.isLt
    dsimp only
    rw [hs]
    constructor <;> (split <;> split <;> omega)

theorem sweepCell_keeps {e : Int} {w : Word} (hl : w.toNat % 65536 / 16384 ≠ tagOf (e + 1)) (hh : w.toNat / 65536 / 16384 ≠ tagOf (e + 1)) : sweepCell e w = w := by
  apply BitVec.eq_of_toNat_eq
  rw [sweepCell_toNat, if_neg hl, if_neg hh]
  omega

theorem sweepCell_low {e : Int} {w : Word} (hl : w.toNat % 65536 / 16384 = tagOf (e + 1)) (hh : w.toNat / 65536 / 16384 ≠ tagOf (e + 1)) :
    sweepCell e w = BitVec.ofNat 32 (w.toNat / 65536 * 65536) := by
  have hw := w.isLt
  apply BitVec.eq_of_toNat_eq
  rw [sweepCell_toNat, if_pos hl, if_neg hh, BitVec.toNat_ofNat, Nat.mod_eq_of_lt (show w.toNat / 65536 * 65536 < 2 ^ 32 by omega)]
  omega

theorem sweepCell_high {e : Int} {w : Word} (hh : w.toNat / 65536 / 16384 = tagOf (e + 1)) (hl : w.toNat % 65536 / 16384 ≠ tagOf (e + 1)) :
    sweepCell e w = BitVec.ofNat 32 (w.toNat % 65536) := by
  have hw := w.isLt
  apply BitVec.eq_of_toNat_eq
  rw [sweepCell_toNat, if_neg hl, if_pos hh, BitVec.toNat_ofNat, Nat.mod_eq_of_lt (show w.toNat % 65536 < 2 ^ 32 by omega)]
  omega

theorem ofNat_ne_zero {n : Nat} (h0 : n ≠ 0) (h : n < 2 ^ 32) : BitVec.ofNat 32 n ≠ 0 := by
  intro e
  have := congrArg BitVec.toNat e
  rw [BitVec.toNat_ofNat, Nat.mod_eq_of_lt h] at this
  exact h0 this

theorem startSweep_fe (p : Fin 16) (e : Int) (m : Mach) :
    (m.startSweep p e).fe.get p = { m.fe.get p with sweep := e, sweeping := true, surf := swept e (m.fe.get p).surf } := onFe_get_self m p _

/-- The start of the ager's sweep is the sweep of the epoch that is due, at this instant or at the epoch's first. -/
theorem agerStart_sweeps {p : Fin 16} {m : Mach} (h : m.on (R.ING_CTRL_EN p) = true) (hl : (m.fe.get p).learning = none) :
    ∃ u : Mach, m.agerStart p = u.startSweep p (if (m.fe.get p).sweep < epochOf (tauOf m.time.n) then epochOf (tauOf m.time.n) else epochOf (tauOf m.time.n) + 1) ∧
      OnlyIn [.time, .enc, .jnl, .regs, .tick, .cache] m u := by
  unfold agerStart
  rw [if_pos (by rw [h, hl]; rfl)]
  dsimp only
  split
  · exact ⟨m, rfl, .refl _ _⟩
  · exact ⟨_, rfl, (runTo_within _ m).parts.mono (by decide)⟩

end Mach

end Sys2Proof.Machine

namespace Sys2Proof.Machine

set_option Elab.async false

namespace Mach

/-! ## Zeroing, the hot list and learning (R94 to R98) -/

/-- The hot list writes cells of the port's surface and nothing else. -/
theorem applyHot_surf (p : Fin 16) (m : Mach) :
    OnlyIn [.fe] m (m.applyHot p) ∧ (∀ q, q ≠ p → (m.applyHot p).fe.get q = m.fe.get q) ∧
      ∃ s : Tab Word, (m.applyHot p).fe.get p = { m.fe.get p with surf := s } := by
  unfold applyHot
  refine forEach_mem (fun t : Mach => OnlyIn [.fe] m t ∧ (∀ q, q ≠ p → t.fe.get q = m.fe.get q) ∧ ∃ s : Tab Word, t.fe.get p = { m.fe.get p with surf := s })
    _ _ (fun k _ t ht => ?_) m ⟨.refl _ _, fun _ _ => rfl, _, rfl⟩
  obtain ⟨hp, ho, s, hs⟩ := ht
  dsimp only
  split
  next =>
    obtain ⟨u, e⟩ := putCode_eq p false (bitsN (leN ((List.range 4).map fun i => Mem.read t.dram (m.g64 (R.FE_HOT_BASE_LO_A p) (R.FE_HOT_BASE_HI_A p) + 4 * k + i)) 0 4) 11 0)
      (bitsN (leN ((List.range 4).map fun i => Mem.read t.dram (m.g64 (R.FE_HOT_BASE_LO_A p) (R.FE_HOT_BASE_HI_A p) + 4 * k + i)) 0 4) 27 16) 1 t
    rw [e]
    refine ⟨hp.trans ((onFe_within _ _ t).parts.mono (by decide)), fun q hq => (onFe_get_ne t _ hq).trans (ho q hq), u (t.fe.get p).surf, ?_⟩
    rw [onFe_get_self, hs]
  next => exact ⟨hp, ho, s, hs⟩

/-- The machine after the hot list, with the port out of its zeroing and at the start of warm-up. -/
def zeroed (p : Fin 16) (m : Mach) : Mach := (m.applyHot p).onFe p fun x => { x with zeroing := false, warming := true, tauW := none }

theorem zeroed_spec (p : Fin 16) (m : Mach) :
    OnlyIn [.fe] m (m.zeroed p) ∧ (∀ q, q ≠ p → (m.zeroed p).fe.get q = m.fe.get q) ∧
      (m.zeroed p).fe.get p = { m.fe.get p with surf := ((m.applyHot p).fe.get p).surf, zeroing := false, warming := true, tauW := none } := by
  obtain ⟨hp, ho, s, hs⟩ := applyHot_surf p m
  unfold zeroed
  refine ⟨hp.trans ((onFe_within _ _ _).parts.mono (by decide)), fun q hq => (onFe_get_ne _ _ hq).trans (ho q hq), ?_⟩
  rw [onFe_get_self, hs]

theorem zeroDone_eq {p : Fin 16} {m : Mach} (h : (m.fe.get p).zeroing = true) :
    m.zeroDone p = if (m.fe.get p).learned then (m.zeroed p).learnDone p else m.zeroed p := if_pos h

theorem learnDone_spec (p : Fin 16) (m : Mach) :
    OnlyIn [.fe, .regs] m (m.learnDone p) ∧ (∀ q, q ≠ p → (m.learnDone p).fe.get q = m.fe.get q) ∧
      (m.learnDone p).fe.get p = { m.fe.get p with learned := false } ∧ (m.learnDone p).g (R.FE_STAT_LEARN_DONE p) = 1 ∧
      ((m.fe.get p).learnReq = false → (m.learnDone p).g (R.FE_CTRL_LEARN p) = 0) := by
  unfold learnDone
  extract_lets m1
  have hp : OnlyIn [.fe, .regs] m m1 := ((OnlyIn.set1 m _).append (onFe_within p _ _).parts).mono (by decide)
  have ho : ∀ q, q ≠ p → m1.fe.get q = m.fe.get q := fun q hq => onFe_get_ne _ _ hq
  have hs : m1.fe.get p = { m.fe.get p with learned := false } := onFe_get_self _ p _
  have hd : m1.g (R.FE_STAT_LEARN_DONE p) = 1 := (onFe_g _ _ _ _).trans (g_set1 m _ rfl (by simp only [R.FE_STAT_LEARN_DONE]; omega))
  clear_value m1
  split
  next hr => exact ⟨hp, ho, hs, hd, fun h => absurd (h.symm.trans hr) (by decide)⟩
  next =>
    refine ⟨(hp.trans ((OnlyIn.put m1 _ 0).mono (by decide))), ho, hs, ?_, fun _ => g_clr m1 _ (by simp only [R.FE_CTRL_LEARN]; omega) (by simp only [R.FE_CTRL_LEARN]; omega)⟩
    exact (g_put_ne m1 _ _ 0 (by simp only [R.FE_STAT_LEARN_DONE, R.FE_CTRL_LEARN]; omega)).trans hd

/-- What the end of a zeroing leaves (R94, R98). -/
theorem zeroDone_spec {p : Fin 16} {m : Mach} (h : (m.fe.get p).zeroing = true) :
    let t := m.zeroDone p
    (t.fe.get p).zeroing = false ∧ (t.fe.get p).warming = true ∧ (t.fe.get p).tauW = none ∧ (t.fe.get p).surf = ((m.applyHot p).fe.get p).surf ∧
      (∀ q, q ≠ p → t.fe.get q = m.fe.get q) ∧ ((m.fe.get p).learned = false → OnlyIn [.fe] m t) ∧
      ((m.fe.get p).learned = true → t.g (R.FE_STAT_LEARN_DONE p) = 1 ∧ ((m.fe.get p).learnReq = false → t.g (R.FE_CTRL_LEARN p) = 0) ∧
        (t.fe.get p).learned = false ∧ OnlyIn [.fe, .regs] m t) := by
  obtain ⟨hp, ho, hs⟩ := zeroed_spec p m
  obtain ⟨lp, lo, ls, ld, lr⟩ := learnDone_spec p (m.zeroed p)
  dsimp only
  rw [zeroDone_eq h]
  split
  next hl =>
    rw [ls, hs]
    refine ⟨rfl, rfl, rfl, rfl, fun q hq => (lo q hq).trans (ho q hq), fun hf => absurd (hf.symm.trans hl) (by decide), fun _ => ⟨ld, fun hr => lr ?_, rfl, (hp.mono (by decide)).trans lp⟩⟩
    rw [hs]
    exact hr
  next hl =>
    rw [hs]
    exact ⟨rfl, rfl, rfl, rfl, ho, fun _ => hp, fun ht => absurd ht hl⟩

theorem learnAsk_spec (p : Fin 16) (m : Mach) :
    (m.learnAsk p).g (R.FE_CTRL_LEARN p) = 1 ∧ (m.learnAsk p).fe.get p = { m.fe.get p with learnReq := true } ∧
      RegsBut [(R.FE_CTRL_LEARN p).a] m (m.learnAsk p) ∧ OnlyIn [.fe, .regs] m (m.learnAsk p) := by
  unfold learnAsk
  have h1 := g_set1 m (R.FE_CTRL_LEARN p) rfl (by simp only [R.FE_CTRL_LEARN]; omega)
  have h2 := OnlyIn.set1 m (R.FE_CTRL_LEARN p)
  have h3 : RegsBut [(R.FE_CTRL_LEARN p).a] m (m.set1 (R.FE_CTRL_LEARN p)) := fun off ho => rd_put_ne m _ 1 (by simpa using ho)
  have h4 : (m.set1 (R.FE_CTRL_LEARN p)).fe = m.fe := rfl
  generalize m.set1 (R.FE_CTRL_LEARN p) = m1 at *
  rw [onFe_g, onFe_get_self, h4]
  exact ⟨h1, rfl, h3, (h2.append (onFe_within p _ m1).parts).mono (by decide)⟩

/-- The pixels above the learned rate, in the order of their cells (R98). -/
def hotPixels (p : Fin 16) (span : Int) (m : Mach) : List Nat :=
  ((m.cellsUp p).filter fun c => decide ((m.g (R.FE_HOT_RATE p) : Int) * span < (c.2.toNat : Int) * 1000000000)).map (·.1)

/-- The machine with the kept pixels listed in DRAM and counted. -/
def listed (p : Fin 16) (hot : List Nat) (m : Mach) : Mach :=
  let kept := hot.take (m.g (R.FE_HOT_CNT_HOT_MAX p))
  let m2 := (m.dramPut (m.g64 (R.FE_HOT_BASE_LO_A p) (R.FE_HOT_BASE_HI_A p)) (kept.flatMap fun i => bytesOf 4 (i / m.feWidth p * 65536 + i % m.feWidth p))).put
    (R.FE_HOT_CNT_HOT_COUNT p) kept.length
  if kept.length < hot.length then m2.set1 (R.FE_STAT_HOT_OVF p) else m2

theorem listed_fe (p : Fin 16) (hot : List Nat) (m : Mach) : (m.listed p hot).fe = m.fe := by
  unfold listed
  dsimp only
  split <;> rfl

theorem listed_learn (p : Fin 16) (hot : List Nat) (m : Mach) : (m.listed p hot).g (R.FE_CTRL_LEARN p) = m.g (R.FE_CTRL_LEARN p) := by
  have hd : ∀ a b, (m.dramPut a b).g (R.FE_CTRL_LEARN p) = m.g (R.FE_CTRL_LEARN p) := fun a b => g_of_regs ((dramPut_within a b m).parts .regs (by decide)) _
  have hc : (R.FE_CTRL_LEARN p).a ≠ (R.FE_HOT_CNT_HOT_COUNT p).a := by simp only [R.FE_CTRL_LEARN, R.FE_HOT_CNT_HOT_COUNT]; omega
  unfold listed
  dsimp only
  split
  · rw [g_set1_ne _ _ _ (by simp only [R.FE_CTRL_LEARN, R.FE_STAT_HOT_OVF]; omega), g_put_ne _ _ _ _ hc, hd]
  · rw [g_put_ne _ _ _ _ hc, hd]

theorem listed_counts (p : Fin 16) (hot : List Nat) (m : Mach) :
    (m.listed p hot).g (R.FE_HOT_CNT_HOT_COUNT p) = (hot.take (m.g (R.FE_HOT_CNT_HOT_MAX p))).length % 2 ^ 13 ∧
      ((hot.take (m.g (R.FE_HOT_CNT_HOT_MAX p))).length < hot.length → (m.listed p hot).g (R.FE_STAT_HOT_OVF p) = 1) := by
  have hself : ∀ (u : Mach) v, (u.put (R.FE_HOT_CNT_HOT_COUNT p) v).g (R.FE_HOT_CNT_HOT_COUNT p) = v % 2 ^ 13 := fun u v =>
    g_put_self u _ v (by simp only [R.FE_HOT_CNT_HOT_COUNT]; omega) (by simp only [R.FE_HOT_CNT_HOT_COUNT]; omega)
  unfold listed
  dsimp only
  split
  next h =>
    refine ⟨?_, fun _ => g_set1 _ _ rfl (by simp only [R.FE_STAT_HOT_OVF]; omega)⟩
    rw [g_set1_ne _ _ _ (by simp only [R.FE_HOT_CNT_HOT_COUNT, R.FE_STAT_HOT_OVF]; omega), hself]
  next h => exact ⟨hself _ _, fun hx => absurd hx h⟩

theorem learnEnd_eq {p : Fin 16} {m : Mach} {l : Learn} {e : Int} (hl : (m.fe.get p).learning = some l) (he : l.be = some e) :
    m.learnEnd p = (((m.runTo (e + 5000)).listed p ((m.runTo (e + 5000)).hotPixels p (e - l.bs))).zeroSurface p).onFe p fun x =>
      { x with learning := none, learned := true,
               sweep := epochOf (tauOf ((m.runTo (e + 5000)).listed p ((m.runTo (e + 5000)).hotPixels p (e - l.bs))).time.n), sweeping := false } := by
  obtain ⟨bs, be⟩ := l
  have he : be = some e := he
  subst he
  unfold learnEnd
  rw [hl]
  rfl

/-- Nothing of learning moves while the counter runs to the end of the wait. -/
theorem runTo_hotPixels (p : Fin 16) (span t : Int) (m : Mach) :
    (m.runTo t).hotPixels p span = m.hotPixels p span ∧ (m.runTo t).g (R.FE_HOT_CNT_HOT_MAX p) = m.g (R.FE_HOT_CNT_HOT_MAX p) ∧
      (m.runTo t).g (R.FE_CTRL_LEARN p) = m.g (R.FE_CTRL_LEARN p) := by
  have hc := runTo_clockOnly t m
  have hfe : (m.runTo t).fe = m.fe := hc.parts .fe (by decide)
  refine ⟨?_, hc.g _ (by simp only [R.FE_HOT_CNT_HOT_MAX]; omega), hc.g _ (by simp only [R.FE_CTRL_LEARN]; omega)⟩
  have hbank : ∀ b, (m.runTo t).bankOf p b = m.bankOf p b := fun b => by
    unfold bankOf
    rw [hc.regs _ (by simp only [R.FE_D_BANKS0_A]; omega)]
  unfold hotPixels cellsUp
  simp only [hfe, hbank, hc.g (R.FE_HOT_RATE p) (by simp only [R.FE_HOT_RATE]; omega)]

/-- What the end of learning leaves (R98). -/
theorem learnEnd_spec {p : Fin 16} {m : Mach} {l : Learn} {e : Int} (hl : (m.fe.get p).learning = some l) (he : l.be = some e) :
    let hot := m.hotPixels p (e - l.bs)
    let kept := hot.take (m.g (R.FE_HOT_CNT_HOT_MAX p))
    let t := m.learnEnd p
    t.g (R.FE_HOT_CNT_HOT_COUNT p) = kept.length % 2 ^ 13 ∧ (kept.length < hot.length → t.g (R.FE_STAT_HOT_OVF p) = 1) ∧ e + 5000 ≤ t.time.n ∧
      t.g (R.FE_CTRL_LEARN p) = m.g (R.FE_CTRL_LEARN p) ∧ (t.fe.get p).learning = none ∧ (t.fe.get p).learned = true ∧
      (t.fe.get p).zeroing = true ∧ (t.fe.get p).surf = [] ∧ (∀ q, q ≠ p → t.fe.get q = m.fe.get q) ∧
      OnlyIn [.fe, .regs, .dram, .ueLines, .cache, .time, .enc, .jnl, .tick] m t := by
  have hw := (learnEnd_within p m).parts
  obtain ⟨hh, hmax, hlearn⟩ := runTo_hotPixels p (e - l.bs) (e + 5000) m
  have hfe : (m.runTo (e + 5000)).fe = m.fe := (runTo_clockOnly _ m).parts .fe (by decide)
  have hn := runTo_reaches m (e + 5000)
  dsimp only
  rw [learnEnd_eq hl he] at hw ⊢
  rw [hh] at hw ⊢
  generalize m.runTo (e + 5000) = m1 at *
  have htime : (m1.listed p (m.hotPixels p (e - l.bs))).time = m1.time := by
    unfold listed
    dsimp only
    split <;> rfl
  obtain ⟨hcount, hovf⟩ := listed_counts p (m.hotPixels p (e - l.bs)) m1
  have hll := listed_learn p (m.hotPixels p (e - l.bs)) m1
  have hlf := listed_fe p (m.hotPixels p (e - l.bs)) m1
  rw [hmax] at hcount hovf
  generalize m1.listed p (m.hotPixels p (e - l.bs)) = m3 at *
  unfold zeroSurface
  rw [onFe_g, onFe_g, onFe_g, onFe_g, onFe_g, onFe_g, onFe_get_self, onFe_get_self]
  refine ⟨hcount, hovf, ?_, hll.trans hlearn, rfl, rfl, rfl, rfl, fun q hq => ?_, hw.mono (by decide)⟩
  · show e + 5000 ≤ m3.time.n
    rw [htime]
    exact hn
  · rw [onFe_get_ne _ _ hq, onFe_get_ne _ _ hq, hlf, hfe]

end Mach

/-- Settles O17: a sweep drops the halves of one tag, a zeroing applies the hot list, and the end of learning lists the pixels above the rate. -/
theorem surfacesAreSweptZeroedAndLearned : Obligations.SurfacesAreSweptZeroedAndLearned := by
  unfold Obligations.SurfacesAreSweptZeroedAndLearned
  refine ⟨fun s p => ?_, fun s p => ?_⟩
  · intro f e0 e gone
    have hgone : gone = tagOf (e + 1) := (Mach.tagOf_eq (e + 1)).symm
    refine ⟨fun h => ?_, fun h hl => ?_, fun h => ?_, fun h hh => ?_⟩
    · refine idles_of_act (f := Mach.agerStart p) rfl (if_neg fun hx => ?_)
      rw [Bool.and_eq_true, Option.isNone_iff_eq_none] at hx
      exact h.elim (fun h1 => absurd (h1.symm.trans hx.1) (by decide)) (fun h1 => h1 hx.2)
    · obtain ⟨u, hu, hp⟩ := Mach.agerStart_sweeps h hl
      have hfe : u.fe = s.fe := hp .fe (by decide)
      have hu : s.agerStart p = u.startSweep p e := hu
      have hself := Mach.startSweep_fe p e u
      rw [hfe] at hself
      refine does_of_act (f := Mach.agerStart p) rfl hu ?_
      rw [hself, hgone]
      refine ⟨rfl, rfl, fun c hc => Mach.swept_tags hc, fun c hc h0 h1 h2 => Mach.mem_swept hc (Mach.sweepCell_keeps h1 h2) h0,
        fun c hc h1 h2 h0 => Mach.mem_swept hc (Mach.sweepCell_low h1 h2) (Mach.ofNat_ne_zero (by omega) (by have := c.2.isLt; omega)),
        fun c hc h1 h2 h0 => Mach.mem_swept hc (Mach.sweepCell_high h1 h2) (Mach.ofNat_ne_zero h0 (by omega)), fun q hq => ?_,
        ((hp.append (Mach.startSweep_within p e u).parts).mono (by decide))⟩
      unfold Mach.startSweep
      rw [Mach.onFe_get_ne _ _ hq, hfe]
    · have he : s.agerEnd p = s.onFe p fun x => { x with sweeping := false, held := none } := by
        unfold Mach.agerEnd
        rw [show (s.fe.get p).held = none from h]
      refine does_of_act (f := Mach.agerEnd p) rfl he ⟨?_, fun q hq => Mach.onFe_get_ne _ _ hq, (Mach.onFe_within _ _ _).parts⟩
      rw [Mach.onFe_get_self, ← show (s.fe.get p).held = none from h]
    · have he : s.agerEnd p = (s.onFe p fun x => { x with sweeping := false, held := none }).filterEvent p h := by
        unfold Mach.agerEnd
        rw [show (s.fe.get p).held = some h from hh]
      have hf := Mach.filterEvent_filtered p h (s.onFe p fun x => { x with sweeping := false, held := none })
      refine does_of_act (f := Mach.agerEnd p) rfl he ⟨hf.sweeping.trans ?_, hf.held.trans ?_, ((Mach.onFe_within _ _ _).parts.append hf.parts).mono (by decide)⟩
      · rw [Mach.onFe_get_self]
      · rw [Mach.onFe_get_self]
  · intro f
    refine ⟨fun h => ?_, fun h => ?_, fun h => does_of_act (f := Mach.zeroDone p) rfl rfl (Mach.zeroDone_spec h), ?_, ?_, fun l hl be hb => ?_⟩
    · exact idles_of_act (f := Mach.zeroDone p) rfl (if_neg (by rw [show (s.fe.get p).zeroing = false from h]; decide))
    · refine idles_of_act (f := Mach.learnEnd p) rfl ?_
      unfold Mach.learnEnd
      match hl : (s.fe.get p).learning with
      | none => rfl
      | some { bs := bs, be := none } => rfl
      | some { bs := bs, be := some e } => exact absurd h (by rw [show f.learning = _ from hl]; simp)
    · exact does_of_act (f := Mach.learnAsk p) rfl rfl (Mach.learnAsk_spec p s.toMach)
    · exact does_of_act (f := Mach.hotAsk p) rfl rfl ⟨Mach.onFe_get_self s.toMach p _, (Mach.onFe_within p _ s.toMach).parts⟩
    · exact does_of_act (f := Mach.learnEnd p) rfl rfl (Mach.learnEnd_spec hl hb)

end Sys2Proof.Machine

namespace Sys2Proof.Machine

set_option Elab.async false

namespace Mach

/-! ## One word of the packet in read (R55, R80, R33) -/

theorem grantFrom_words (fuel n : Nat) (l : List VatPacket) : (grantFrom fuel n l).1.map (·.words) = l.map (·.words) := by
  induction fuel generalizing n l with
  | zero => rfl
  | succ fuel ih =>
    cases n with
    | zero => rfl
    | succ n =>
      simp only [grantFrom]
      split
      · rfl
      next i _ =>
        rw [ih]
        refine List.ext_getElem (by simp) fun k h1 h2 => ?_
        rw [List.getElem_map, List.getElem_map, List.getElem_modify]
        split <;> rfl

/-- A grant by bursts: while words are granted nothing moves, else one free value gives the next grant. -/
theorem askBurst_spec {p : Fin 16} {m : Mach} (h : (m.port.get p).reading.isSome) :
    ((m.askBurst p).port.get p).reading = (m.port.get p).reading ∧ ((m.askBurst p).port.get p).vat.map (·.words) = (m.port.get p).vat.map (·.words) ∧
      (∀ q, q ≠ p → (m.askBurst p).port.get q = m.port.get q) ∧ OnlyIn [.port, .draws] m (m.askBurst p) ∧
      ((m.port.get p).burst ≠ 0 → m.askBurst p = m) ∧
      ((m.port.get p).burst = 0 → ((m.askBurst p).port.get p).burst ≤ 256 ∧ (m.askBurst p).draws = m.draws + 1) := by
  have hw := (askBurst_within p m).parts
  unfold askBurst at hw ⊢
  dsimp only at hw ⊢
  split
  next hb => exact ⟨rfl, rfl, fun _ _ => rfl, .refl _ _, fun _ => rfl, fun h0 => absurd h0 hb.1⟩
  next hb =>
    rw [if_neg hb] at hw
    rw [onPort_get_self]
    refine ⟨rfl, ?_, fun q hq => onPort_get_ne _ _ hq, hw.mono (by decide), fun h0 => absurd ⟨h0, .inl h⟩ hb, fun _ => ⟨?_, rfl⟩⟩
    · dsimp only
      rw [grantFrom_words, List.map_map]
      rfl
    · dsimp only
      omega

theorem openPacket_idle {p : Fin 16} {m : Mach} (h : (m.port.get p).reading.isSome) : m.openPacket p = m := if_pos h

theorem tapWord_idle {p : Fin 16} {m : Mach} (w : EvWord) (h : (m.fn.get (m.own.port.get p)).tap.en = false) : m.tapWord p w = m := by
  unfold tapWord
  dsimp only
  rw [if_neg (by rw [h]; simp)]

theorem evalFc_get_ne {p q : Fin 16} (m : Mach) (h : q ≠ p) : (m.evalFc p).port.get q = m.port.get q := by
  unfold evalFc
  dsimp only
  split
  · exact onPort_get_ne m _ h
  · split
    · exact onPort_get_ne m _ h
    · rfl

/-- The machine after one word of packet r has left the port's reader. -/
def wordRead (p : Fin 16) (r : VatRead) (m : Mach) : Mach :=
  (((m.askBurst p).onPort p fun x =>
    { x with burst := x.burst - 1, reading := if r.pos + 1 < r.words.length then some { r with pos := r.pos + 1 } else none }).evalFc p).inc (R.FE_EVENTS p)

/-- What the read of a word leaves. -/
structure ReadOne (p : Fin 16) (r : VatRead) (a b : Mach) : Prop where
  parts : OnlyIn [.port, .regs, .draws] a b
  reading : (b.port.get p).reading = if r.pos + 1 < r.words.length then some { r with pos := r.pos + 1 } else none
  words : (b.port.get p).vat.map (·.words) = (a.port.get p).vat.map (·.words)
  others : ∀ q, q ≠ p → b.port.get q = a.port.get q
  counts : b.g (R.FE_EVENTS p) = (a.g (R.FE_EVENTS p) + 1) % 2 ^ 32
  regs : RegsBut [(R.FE_EVENTS p).a] a b
  granted : (a.port.get p).burst ≠ 0 → (b.port.get p).burst = (a.port.get p).burst - 1 ∧ (b.port.get p).vat = (a.port.get p).vat ∧ b.draws = a.draws
  grant : (a.port.get p).burst = 0 → (b.port.get p).burst < 256 ∧ b.draws = a.draws + 1

theorem wordRead_readOne {p : Fin 16} {r : VatRead} {m : Mach} (h : (m.port.get p).reading = some r) : ReadOne p r m (m.wordRead p r) := by
  obtain ⟨hr, hv, ho, hp, hsame, hnew⟩ := askBurst_spec (m := m) (p := p) (by rw [h]; rfl)
  unfold wordRead
  generalize m.askBurst p = m1 at *
  have hp2 := hp.append (onPort_within p (fun x =>
    { x with burst := x.burst - 1, reading := if r.pos + 1 < r.words.length then some { r with pos := r.pos + 1 } else none }) m1).parts
  have hs2 := onPort_get_self m1 p (fun x =>
    { x with burst := x.burst - 1, reading := if r.pos + 1 < r.words.length then some { r with pos := r.pos + 1 } else none })
  have ho2 : ∀ q, q ≠ p → (m1.onPort p fun x =>
    { x with burst := x.burst - 1, reading := if r.pos + 1 < r.words.length then some { r with pos := r.pos + 1 } else none }).port.get q = m.port.get q :=
    fun q hq => (onPort_get_ne m1 _ hq).trans (ho q hq)
  have hd2 : (m1.onPort p fun x =>
    { x with burst := x.burst - 1, reading := if r.pos + 1 < r.words.length then some { r with pos := r.pos + 1 } else none }).draws = m1.draws :=
    (onPort_within p _ m1).parts .draws (by decide)
  generalize (m1.onPort p fun x =>
    { x with burst := x.burst - 1, reading := if r.pos + 1 < r.words.length then some { r with pos := r.pos + 1 } else none }) = m2 at *
  have hp3 := (hp2.append (evalFc_onlyIn p m2)).mono (show _ ⊆ [Part.port, Part.draws] by decide)
  have hs3 := evalFc_port p m2
  have ho3 : ∀ q, q ≠ p → (m2.evalFc p).port.get q = m.port.get q := fun q hq => (evalFc_get_ne m2 hq).trans (ho2 q hq)
  have hd3 : (m2.evalFc p).draws = m1.draws := (evalFc_onlyIn p m2 .draws (by decide)).trans hd2
  generalize m2.evalFc p = m3 at *
  rw [hs2] at hs3
  have hregs : m3.regs = m.regs := hp3 .regs (by decide)
  refine ⟨(hp3.append (OnlyIn.inc m3 _)).mono (by decide), ?_, ?_, fun q hq => ho3 q hq, ?_, ?_, fun h0 => ?_, fun h0 => ?_⟩
  · rw [inc_port, hs3]
  · rw [inc_port, hs3]
    exact hv
  · rw [g_inc_word _ _ rfl rfl, g_of_regs hregs]
  · exact fun off hoff => (rd_put_ne m3 _ _ (by simpa using hoff)).trans (by rw [rd, hregs]; rfl)
  · rw [inc_port, hs3, inc_draws, hd3, hsame h0]
    exact ⟨rfl, rfl, rfl⟩
  · obtain ⟨hb, hd⟩ := hnew h0
    rw [inc_port, hs3, inc_draws, hd3]
    refine ⟨?_, hd⟩
    dsimp only
    omega

end Mach

end Sys2Proof.Machine

namespace Sys2Proof.Machine

set_option Elab.async false

namespace Mach

/-! ## A word's way into the front end (R33, R35, R36, R98, R114) -/

/-- What any way of a word through the front end of port p leaves. -/
structure Entered (p : Fin 16) (a b : Mach) : Prop where
  parts : OnlyIn [.fe, .regs, .tick] a b
  others : ∀ q, q ≠ p → b.fe.get q = a.fe.get q
  events : b.g (R.FE_EVENTS p) = a.g (R.FE_EVENTS p)

theorem Entered.of_filtered {p : Fin 16} {a b : Mach} (h : Filtered p a b) : Entered p a b := ⟨h.parts, h.others, h.events⟩

theorem Entered.trans {p : Fin 16} {a b c : Mach} (h1 : Entered p a b) (h2 : Entered p b c) : Entered p a c :=
  ⟨h1.parts.trans h2.parts, fun q hq => (h2.others q hq).trans (h1.others q hq), h2.events.trans h1.events⟩

theorem enterEvent_filtered (p : Fin 16) (w : EvWord) (m : Mach) : Filtered p m (m.enterEvent p w) := by
  unfold enterEvent
  dsimp only
  split
  · exact (Filtered.onAcct m _ _).trans ((Filtered.inc _ _ (by simp only [R.FE_EVENTS, R.FE_EARLY]; omega)).trans (.onAcct _ _ _))
  · exact .onAcct m _ _

/-- A word of the running tick or before is not early. -/
theorem enterEvent_due {p : Fin 16} {w : EvWord} {m : Mach} (h : m.extend w.t32 < m.tickEnd) :
    m.enterEvent p w = m.onAcct (m.tickOf (m.extend w.t32)).toNat fun a => { a with events := a.events + 1 } := if_neg (by omega)

theorem learnEvent_filtered (p : Fin 16) (l : Learn) (w : EvWord) (m : Mach) : Filtered p m (m.learnEvent p l w) := by
  unfold learnEvent
  dsimp only
  split
  · exact .onFe m _
  · exact .refl m

/-- A word counted during learning changes the surface alone. -/
theorem learnEvent_counts (p : Fin 16) (l : Learn) (w : EvWord) (m : Mach) :
    OnlyIn [.fe] m (m.learnEvent p l w) ∧ ((m.learnEvent p l w).fe.get p).curds = (m.fe.get p).curds ∧
      ((m.learnEvent p l w).fe.get p).grids = (m.fe.get p).grids := by
  unfold learnEvent
  dsimp only
  split
  · rw [onFe_get_self]
    exact ⟨(onFe_within p _ m).parts, rfl, rfl⟩
  · exact ⟨.refl _ _, rfl, rfl⟩

/-- The first event after a zeroing sets the warm-up's instant and nothing else. -/
theorem firstEvent_spec (p : Fin 16) (s : Int) (m : Mach) :
    Filtered p m (m.firstEvent p s) ∧ OnlyIn [.fe] m (m.firstEvent p s) ∧ ((m.firstEvent p s).fe.get p).surf = (m.fe.get p).surf ∧
      ((m.firstEvent p s).fe.get p).flk = (m.fe.get p).flk ∧ ((m.firstEvent p s).fe.get p).grids = (m.fe.get p).grids := by
  have hp := (firstEvent_within p s m).parts
  unfold firstEvent at hp ⊢
  dsimp only at hp ⊢
  split
  · split
    · refine ⟨.onFe m _, (onFe_within p _ m).parts, ?_⟩
      rw [onFe_get_self]
      exact ⟨rfl, rfl, rfl⟩
    · refine ⟨.onFe m _, (onFe_within p _ m).parts, ?_⟩
      rw [onFe_get_self]
      exact ⟨rfl, rfl, rfl⟩
  · exact ⟨.refl m, .refl _ _, rfl, rfl, rfl⟩

theorem judgeEvent_entered (p : Fin 16) (w : EvWord) (m : Mach) : Entered p m (m.judgeEvent p w) := by
  unfold judgeEvent
  extract_lets s tn h m3
  have h3 : Filtered p m m3 := (firstEvent_spec p s m).1
  clear_value m3
  split
  · have hi : Filtered p m3 (m3.inc (R.FE_AGER_EARLY p)) := .inc m3 _ (by simp only [R.FE_EVENTS, R.FE_AGER_EARLY]; omega)
    generalize m3.inc (R.FE_AGER_EARLY p) = m4 at hi ⊢
    have hf : Entered p m4 (m4.onFe p fun x => { x with held := some h }) :=
      ⟨(onFe_within p _ m4).parts.mono (by decide), fun q hq => onFe_get_ne m4 _ hq, onFe_g _ _ _ _⟩
    exact (Entered.of_filtered (h3.trans hi)).trans hf
  · exact .of_filtered (h3.trans (filterEvent_filtered p h m3))

/-- Without a sweep under way a word goes on to the filters. -/
theorem judgeEvent_filters {p : Fin 16} {m : Mach} (w : EvWord) (h : (m.fe.get p).sweeping = false) :
    m.judgeEvent p w = (m.firstEvent p (m.extend w.t32)).filterEvent p
      { w := w, s := m.extend w.t32, tn := (m.tickOf (m.extend w.t32)).toNat, strag := !m.gridOpen (m.tickOf (m.extend w.t32)).toNat } :=
  if_neg fun hx => absurd ((firstEvent_spec p (m.extend w.t32) m).1.sweeping.symm.trans hx.1) (by rw [h]; decide)

/-- What the cells of a surface read as depends on the surface, the banks and the geometry alone. -/
theorem cellOf_congr {p : Fin 16} {a b : Mach} (hs : (b.fe.get p).surf = (a.fe.get p).surf) (hr : RegsBut [(R.FE_EVENTS p).a] a b) (x y : Nat) :
    b.cellOf p x y = a.cellOf p x y ∧ b.feWidth p = a.feWidth p ∧ b.feHeight p = a.feHeight p := by
  have hw : b.feWidth p = a.feWidth p := by
    unfold feWidth g
    rw [hr _ (by simp only [List.mem_singleton, R.ING_GEOM_WIDTH, R.FE_EVENTS]; omega)]
  have hh : b.feHeight p = a.feHeight p := by
    unfold feHeight g
    rw [hr _ (by simp only [List.mem_singleton, R.ING_GEOM_HEIGHT, R.FE_EVENTS]; omega)]
  have hb : ∀ i, b.cellPlace p i = a.cellPlace p i := fun i => by
    unfold cellPlace bankOf
    rw [hr _ (by simp only [List.mem_singleton, R.FE_D_BANKS0_A, R.FE_EVENTS]; omega)]
  refine ⟨?_, hw, hh⟩
  unfold cellOf
  rw [hs, hb, hw]

theorem isHot_congr {p : Fin 16} {a b : Mach} (hs : (b.fe.get p).surf = (a.fe.get p).surf) (hr : RegsBut [(R.FE_EVENTS p).a] a b) (x y : Nat) :
    b.isHot p x y = a.isHot p x y := by
  unfold isHot
  rw [(cellOf_congr hs hr x y).1]

theorem refrWhey_congr {p : Fin 16} {a b : Mach} (hs : (b.fe.get p).surf = (a.fe.get p).surf) (hr : RegsBut [(R.FE_EVENTS p).a] a b) (x y : Nat) (tau : Int) :
    b.refrWhey p x y tau = a.refrWhey p x y tau := by
  have hc : ∀ pol, b.codeAt p pol x y = a.codeAt p pol x y := fun pol => by
    obtain ⟨h1, h2, h3⟩ := cellOf_congr hs hr (x : Int).toNat (y : Int).toNat
    unfold codeAt
    rw [h1, h2, h3]
  have hg : b.g (R.FE_FILT_REFRACT p) = a.g (R.FE_FILT_REFRACT p) := by
    unfold g
    rw [hr _ (by simp only [List.mem_singleton, R.FE_FILT_REFRACT, R.FE_EVENTS]; omega)]
  unfold refrWhey
  simp only [hc, hg]

/-- The tick of a stamp and the stamp itself are read from the tick and the time alone. -/
theorem tickOf_congr {a b : Mach} (ht : b.tick = a.tick) (hn : b.time = a.time) (w : EvWord) :
    b.extend w.t32 = a.extend w.t32 ∧ b.tickEnd = a.tickEnd ∧ ∀ s, b.tickOf s = a.tickOf s := by
  have he : b.tickEnd = a.tickEnd := by unfold tickEnd bnd; rw [ht]
  refine ⟨by unfold extend; rw [hn], he, fun s => ?_⟩
  unfold tickOf acct? tnAt
  rw [he, ht]

theorem onAcct_tick_congr {a b : Mach} (h : b.tick = a.tick) (n : Nat) (f : TickAcct → TickAcct) : (b.onAcct n f).tick = (a.onAcct n f).tick := by
  unfold onAcct
  dsimp only
  rw [h]

/-- A word that is whey counts under its reason and in its tick, and leaves the front end as it was. -/
theorem whey_spec (c : Fld) (tn : Nat) (m : Mach) (hw : c.hi = 31 ∧ c.lo = 0) :
    (m.whey c tn).g c = (m.g c + 1) % 2 ^ 32 ∧ RegsBut [c.a] m (m.whey c tn) ∧ (m.whey c tn).fe = m.fe :=
  ⟨(g_inc_word m c hw.1 hw.2 :), fun off ho => rd_put_ne m c _ (by simpa using ho), rfl⟩

/-- The filters end a hot pixel's word, and then a refractory one. -/
theorem filterEvent_hot {p : Fin 16} {h : HeldEv} {m : Mach} (he : m.on (R.FE_CTRL_HOT_EN p) = true) (hh : m.isHot p h.w.x h.w.y = true) :
    m.filterEvent p h = m.whey (R.FE_WHEY_HOT p) h.tn := if_pos (by rw [he, hh]; rfl)

theorem filterEvent_refr {p : Fin 16} {h : HeldEv} {m : Mach} (he : m.on (R.FE_CTRL_HOT_EN p) = false) (hr : m.on (R.FE_CTRL_REF_EN p) = true)
    (hh : m.refrWhey p h.w.x h.w.y (tauOf h.s) = true) : m.filterEvent p h = m.whey (R.FE_WHEY_REF p) h.tn :=
  (if_neg (by rw [he]; simp)).trans (if_pos (by rw [hr, hh]; rfl))

/-- What a word of the running tick that ends as whey leaves, after its read. -/
theorem judged_whey {p : Fin 16} {w : EvWord} {c : Fld} {m : Mach} (hdue : m.extend w.t32 < m.tickEnd) (hsw : (m.fe.get p).sweeping = false)
    (hc : c.hi = 31 ∧ c.lo = 0)
    (hf : ∀ t : Mach, (t.fe.get p).surf = (m.fe.get p).surf → t.regs = m.regs → ∀ h : HeldEv, h.w = w → h.s = m.extend w.t32 → t.filterEvent p h = t.whey c h.tn) :
    let t := (m.enterEvent p w).judgeEvent p w
    t.g c = (m.g c + 1) % 2 ^ 32 ∧ RegsBut [c.a] m t ∧ (t.fe.get p).surf = (m.fe.get p).surf ∧ (t.fe.get p).flk = (m.fe.get p).flk ∧
      (t.fe.get p).grids = (m.fe.get p).grids := by
  have hext : (m.enterEvent p w).extend w.t32 = m.extend w.t32 := by
    rw [enterEvent_due hdue]
    rfl
  have hfe : (m.enterEvent p w).fe = m.fe := (enterEvent_within p w m).parts .fe (by decide)
  have hregs : (m.enterEvent p w).regs = m.regs := by
    rw [enterEvent_due hdue]
    rfl
  dsimp only
  rw [judgeEvent_filters w (by rw [hfe, hsw])]
  generalize m.enterEvent p w = m1 at *
  obtain ⟨-, h1, h2, h3, h4⟩ := firstEvent_spec p (m1.extend w.t32) m1
  have hr3 : (m1.firstEvent p (m1.extend w.t32)).regs = m.regs := (h1 .regs (by decide)).trans hregs
  rw [hfe] at h2 h3 h4
  generalize m1.firstEvent p (m1.extend w.t32) = m3 at *
  rw [hf m3 h2 hr3 _ rfl hext]
  obtain ⟨w1, w2, w3⟩ := whey_spec c (m1.tickOf (m1.extend w.t32)).toNat m3 hc
  rw [w3]
  exact ⟨w1.trans (by rw [g_of_regs hr3]), fun off ho => (w2 off ho).trans (by rw [rd, hr3]; rfl), h2, h3, h4⟩

/-- FE_EVENT with a packet in read takes its next word (R55, R80). -/
theorem feEvent_word {p : Fin 16} {m : Mach} {r : VatRead} {w : EvWord} (hr : (m.port.get p).reading = some r) (hw : r.words[r.pos]? = some w)
    (hrun : m.feRuns p = true) (hsweep : epochOf (tauOf m.time.n) ≤ (m.fe.get p).sweep) (htap : (m.fn.get (m.own.port.get p)).tap.en = false) :
    (∀ l, ((m.wordRead p r).fe.get p).learning = some l → m.feEvent p = ((m.wordRead p r).enterEvent p w).learnEvent p l w) ∧
      (((m.wordRead p r).fe.get p).learning = none → m.feEvent p = ((m.wordRead p r).enterEvent p w).judgeEvent p w) := by
  have hsome : (m.port.get p).reading.isSome := by rw [hr]; rfl
  have hds : m.dueSweep p = m := if_neg (by rw [decide_eq_false (by omega)]; simp)
  have hask := askBurst_spec hsome
  have hopen : (m.askBurst p).openPacket p = m.askBurst p := openPacket_idle (by rw [hask.1]; exact hsome)
  have htake : (m.askBurst p).takeWord p = some (w, m.wordRead p r) := by
    unfold takeWord
    rw [hask.1, hr]
    dsimp only
    rw [hw]
    dsimp only
    have hp := (wordRead_readOne hr).parts
    rw [show (((m.askBurst p).onPort p fun x =>
      { x with burst := x.burst - 1, reading := if r.pos + 1 < r.words.length then some { r with pos := r.pos + 1 } else none }).evalFc p).inc (R.FE_EVENTS p) =
        m.wordRead p r from rfl, tapWord_idle w (by rw [hp .fn (by decide), hp .own (by decide)]; exact htap)]
  unfold feEvent
  rw [if_neg (by rw [hrun]; decide), hds, hopen]
  dsimp only
  rw [htake]
  dsimp only
  refine ⟨fun l hl => ?_, fun hl => ?_⟩
  · rw [hl]
  · rw [hl]

end Mach

/-- Settles O16: with a packet in read the word's read, its count and its way through the front end follow one after the other, and only the filters end it. -/
theorem eventReadsOneWord : Obligations.EventReadsOneWord := by
  unfold Obligations.EventReadsOneWord
  intro s p x f
  refine ⟨fun h => idles_of_act (f := Mach.feEvent p) rfl (if_pos (by rw [h]; rfl)), fun r hr w hw hrun hsweep htap _ _ => ?_⟩
  obtain ⟨hlearn, hjudge⟩ := Mach.feEvent_word hr hw hrun hsweep htap
  have hread := Mach.wordRead_readOne (m := s.toMach) (p := p) hr
  have hfe : (s.wordRead p r).fe = s.fe := hread.parts .fe (by decide)
  have htick : (s.wordRead p r).tick = s.tick := hread.parts .tick (by decide)
  obtain ⟨hext, hend, htn⟩ := Mach.tickOf_congr htick (hread.parts .time (by decide)) w
  have hon : ∀ fl : Fld, fl.a ≠ (R.FE_EVENTS p).a → (s.wordRead p r).g fl = s.g fl := fun fl hne => by
    unfold Mach.g
    rw [hread.regs _ (by simpa using hne)]
  rw [hfe] at hlearn hjudge
  generalize s.wordRead p r = m2 at *
  refine ⟨?_, fun l hl hdue => ?_, fun hl hsw hen hh hdue => ?_, fun hl hsw hen hre hh hdue => ?_⟩
  · have hen : Mach.Entered p m2 (s.feEvent p) := by
      cases hl : (s.fe.get p).learning with
      | some l =>
        rw [hlearn l hl]
        exact .of_filtered ((Mach.enterEvent_filtered p w m2).trans (Mach.learnEvent_filtered _ _ _ _))
      | none =>
        rw [hjudge hl]
        exact (Mach.Entered.of_filtered (Mach.enterEvent_filtered p w m2)).trans (Mach.judgeEvent_entered _ _ _)
    generalize hu : s.feEvent p = u at *
    have hport : u.port = m2.port := hen.parts .port (by decide)
    have hdraws : u.draws = m2.draws := hen.parts .draws (by decide)
    refine does_of_act (f := Mach.feEvent p) rfl hu ⟨?_, ?_, hen.events.trans hread.counts, fun hb => ?_, fun hb => ?_, fun q hq => ⟨?_, ?_⟩,
      (hread.parts.append hen.parts).mono (by decide)⟩
    · rw [hport, hread.reading]
    · rw [hport, hread.words]
    · rw [hport, hdraws]
      exact hread.granted hb
    · rw [hport, hdraws]
      exact hread.grant hb
    · rw [hport, hread.others q hq]
    · rw [hen.others q hq, hfe]
  · have he : s.feEvent p = (m2.enterEvent p w).learnEvent p l w := hlearn l hl
    have hdue2 : m2.extend w.t32 < m2.tickEnd := by rw [hext, hend]; exact hdue
    obtain ⟨lp, lc, lg⟩ := Mach.learnEvent_counts p l w (m2.enterEvent p w)
    rw [Mach.enterEvent_due hdue2, htn, hext] at he lp lc lg
    refine does_of_act (f := Mach.feEvent p) rfl he ⟨fun off ho => ?_, lc.trans ?_, lg.trans ?_, (lp .tick (by decide)).trans ?_⟩
    · rw [Mach.rd, lp .regs (by decide)]
      exact hread.regs off ho
    · show (m2.fe.get p).curds = _
      rw [hfe]
    · show (m2.fe.get p).grids = _
      rw [hfe]
    · exact Mach.onAcct_tick_congr htick _ _
  · have he : s.feEvent p = (m2.enterEvent p w).judgeEvent p w := hjudge hl
    have hfilt : ∀ t : Mach, (t.fe.get p).surf = (m2.fe.get p).surf → t.regs = m2.regs → ∀ h : HeldEv, h.w = w → h.s = m2.extend w.t32 → t.filterEvent p h = t.whey (R.FE_WHEY_HOT p) h.tn := fun t hs hg h hwe _ => by
      have hr : RegsBut [(R.FE_EVENTS p).a] s.toMach t := fun off ho => Eq.trans (by rw [Mach.rd, hg]; rfl) (hread.regs off ho)
      refine Mach.filterEvent_hot ?_ ?_
      · unfold Mach.on
        rw [Mach.g_of_regs hg, hon _ (by simp only [R.FE_CTRL_HOT_EN, R.FE_EVENTS]; omega)]
        exact hen
      · rw [hwe, Mach.isHot_congr (hs.trans (by rw [hfe])) hr]
        exact hh
    obtain ⟨c1, c2, c3, c4, c5⟩ := Mach.judged_whey (p := p) (w := w) (c := R.FE_WHEY_HOT p) (m := m2) (by rw [hext, hend]; exact hdue) (by rw [hfe]; exact hsw) ⟨rfl, rfl⟩ hfilt
    rw [hfe] at c3 c4 c5
    refine does_of_act (f := Mach.feEvent p) rfl he ⟨c1.trans (by rw [hon _ (by simp only [R.FE_WHEY_HOT, R.FE_EVENTS]; omega)]), fun off ho => ?_, c3, c4, c5⟩
    simp only [List.mem_cons, List.not_mem_nil, or_false, not_or] at ho
    exact (c2 off (by simpa using ho.2)).trans (hread.regs off (by simpa using ho.1))
  · have he : s.feEvent p = (m2.enterEvent p w).judgeEvent p w := hjudge hl
    have hfilt : ∀ t : Mach, (t.fe.get p).surf = (m2.fe.get p).surf → t.regs = m2.regs → ∀ h : HeldEv, h.w = w → h.s = m2.extend w.t32 → t.filterEvent p h = t.whey (R.FE_WHEY_REF p) h.tn := fun t hs hg h hwe hse => by
      have hr : RegsBut [(R.FE_EVENTS p).a] s.toMach t := fun off ho => Eq.trans (by rw [Mach.rd, hg]; rfl) (hread.regs off ho)
      refine Mach.filterEvent_refr ?_ ?_ ?_
      · unfold Mach.on
        rw [Mach.g_of_regs hg, hon _ (by simp only [R.FE_CTRL_HOT_EN, R.FE_EVENTS]; omega)]
        exact hen
      · unfold Mach.on
        rw [Mach.g_of_regs hg, hon _ (by simp only [R.FE_CTRL_REF_EN, R.FE_EVENTS]; omega)]
        exact hre
      · rw [hwe, hse, hext, Mach.refrWhey_congr (hs.trans (by rw [hfe])) hr]
        exact hh
    obtain ⟨c1, c2, c3, c4, c5⟩ := Mach.judged_whey (p := p) (w := w) (c := R.FE_WHEY_REF p) (m := m2) (by rw [hext, hend]; exact hdue) (by rw [hfe]; exact hsw) ⟨rfl, rfl⟩ hfilt
    rw [hfe] at c3 c4 c5
    refine does_of_act (f := Mach.feEvent p) rfl he ⟨c1.trans (by rw [hon _ (by simp only [R.FE_WHEY_REF, R.FE_EVENTS]; omega)]), fun off ho => ?_, c3, c4, c5⟩
    simp only [List.mem_cons, List.not_mem_nil, or_false, not_or] at ho
    exact (c2 off (by simpa using ho.2)).trans (hread.regs off (by simpa using ho.1))

end Sys2Proof.Machine

namespace Sys2Proof.Machine

set_option Elab.async false

/-! ## Two curds of one name (R113) -/

/-- A curd of tick 0 and index 0 on port 5 whose patch is still to be cut. -/
def uncutCurd : Curd :=
  ⟨0, 5, 0, false, false, false, false, false, 1, 0, 0, 15, 15, 0, 0, 1, 0, 0, 0, 0, 0, 0, 0, 0, 0, 0, false, false, none, none⟩

/-- Port 5 holds two curds of the same tick and index: the first, an overflow curd, waits with its descriptors for a patch; the second is the one to cut. -/
def twinCurds : State :=
  Test.st (((Test.eng7 [] none).onFe 5 fun x => { x with curds := [{ uncutCurd with overflow := true, waiting := some 5 }, uncutCurd] }).onTick fun t =>
    { t with accts := [{ tn := 0, start := 0, tEnd := some 0, graceFrom := -12000, works := true }] })

theorem twinCurds_cut : ((twinCurds.patchCut 5).eng.get 7).queue.length = 1 := by decide +kernel

theorem twinCurds_before : (twinCurds.eng.get 7).queue.length = 0 ∧
    (twinCurds.fe.get 5).curds.find? (fun (c : Curd) => !c.overflow && !c.patch && !c.abandoned) = some uncutCurd ∧ (twinCurds.acct? 0).isSome = true := by
  decide +kernel

/-- Refutes O18: a cut whose own curd waits for nothing still issues the descriptors of another curd of the same tick and index, so an engine's queue changes. -/
theorem not_gridsFormCurdsAndPatches : ¬ Obligations.GridsFormCurdsAndPatches := by
  unfold Obligations.GridsFormCurdsAndPatches
  rintro ⟨-, h⟩
  obtain ⟨hbefore, hfind, hacct⟩ := twinCurds_before
  have hd := (h twinCurds 5 0).2 uncutCurd hfind (Option.isSome_iff_ne_none.mp hacct)
  obtain ⟨-, -, -, -, -, -, hwait, -⟩ := of_does_act (f := Mach.patchCut 5) rfl hd
  have heng : (twinCurds.patchCut 5).eng = twinCurds.eng := (hwait rfl).2 .eng (by decide)
  have hcut := twinCurds_cut
  rw [heng, hbefore] at hcut
  exact absurd hcut (by decide)

end Sys2Proof.Machine

namespace Sys2Proof.Machine

set_option Elab.async false

/-! ## Reception of a packet: what decoding leaves (R65 to R81) -/

/-- Port p still receives the same packet, or has dropped it, and its decoder's channels are as before. -/
structure Decoding (p : Fin 16) (a b : Mach) : Prop where
  dec : (b.port.get p).dec = (a.port.get p).dec
  hdr : ∀ r' ∈ (b.port.get p).rx, ∃ r ∈ (a.port.get p).rx, r'.hdr = r.hdr

namespace Decoding
variable {p : Fin 16} {a b c : Mach}

theorem refl (a : Mach) : Decoding p a a := ⟨rfl, fun r h => ⟨r, h, rfl⟩⟩

theorem trans (h1 : Decoding p a b) (h2 : Decoding p b c) : Decoding p a c := by
  refine ⟨h2.dec.trans h1.dec, fun r hr => ?_⟩
  obtain ⟨r1, m1, e1⟩ := h2.hdr r hr
  obtain ⟨r0, m0, e0⟩ := h1.hdr r1 m1
  exact ⟨r0, m0, e1.trans e0⟩

theorem of_port (h : b.port.get p = a.port.get p) : Decoding p a b := ⟨by rw [h], fun r hr => ⟨r, h ▸ hr, rfl⟩⟩

theorem of_within {l : List Part} (h : Within l a b) (hl : Part.port ∉ l := by decide) : Decoding p a b := of_port (by rw [h.parts .port hl])

theorem forEach {α : Type} (xs : List α) (f : α → Mach → Mach) (h : ∀ x m, Decoding p m (f x m)) (m : Mach) : Decoding p m (forEach xs f m) :=
  Mach.forEach_mem (Decoding p m) xs f (fun x _ t ht => ht.trans (h x t)) m (refl m)

theorem inc (m : Mach) (f : Fld) : Decoding p m (m.inc f) := of_port rfl

/-- An update of the packet in reception that keeps its header. -/
theorem onRx (m : Mach) (f : Rx → Rx) (h : ∀ r, (f r).hdr = r.hdr := by exact fun _ => rfl) : Decoding p m (m.onPort p fun x => { x with rx := x.rx.map f }) := by
  refine ⟨by rw [Mach.onPort_get_self], fun r hr => ?_⟩
  rw [Mach.onPort_get_self] at hr
  obtain ⟨r0, h0, e⟩ := Option.map_eq_some_iff.mp hr
  exact ⟨r0, h0, by rw [← e, h]⟩

/-- An update of the port that keeps the packet in reception and the decoder. -/
theorem onPort (m : Mach) (f : Port → Port) (h : ∀ x, (f x).dec = x.dec ∧ (f x).rx = x.rx := by exact fun _ => ⟨rfl, rfl⟩) : Decoding p m (m.onPort p f) := by
  obtain ⟨h1, h2⟩ := h (m.port.get p)
  refine ⟨by rw [Mach.onPort_get_self, h1], fun r hr => ⟨r, ?_, rfl⟩⟩
  rwa [Mach.onPort_get_self, h2] at hr

end Decoding

namespace Mach

theorem evalFc_decoding (p : Fin 16) (m : Mach) : Decoding p m (m.evalFc p) := by
  rcases evalFc_eq p m with h | h <;> rw [h]
  · exact .refl m
  · exact .onPort m _

theorem dropRx_decoding (p : Fin 16) (c : Fld) (m : Mach) : Decoding p m (m.dropRx p c) := by
  unfold dropRx
  have h1 : Decoding p m (m.onPort p fun x => { x with rx := none }) := ⟨by rw [onPort_get_self], fun r hr => by rw [onPort_get_self] at hr; cases hr⟩
  exact h1.trans ((Decoding.inc _ c).trans ((Decoding.of_within (onAcct_within _ _ _)).trans (evalFc_decoding p _)))

theorem needBlock_decoding (p : Fin 16) (n : Nat) (m : Mach) : Decoding p m (m.needBlock p n) := by
  induction n generalizing m with
  | zero => exact dropRx_decoding p _ m
  | succ n ih =>
    unfold needBlock
    dsimp only
    split
    · exact .refl m
    split
    · exact dropRx_decoding p _ m
    split
    · exact .refl m
    split
    · exact dropRx_decoding p _ m
    split
    · exact dropRx_decoding p _ m
    next k rest _ =>
      have h1 : Decoding p m (m.onPort p fun y => { y with vat := rest }) := .onPort m _
      exact (h1.trans ((Decoding.inc _ _).trans (.of_within (lostPacket_within p k _)))).trans (ih _)

theorem putWord_decoding (p : Fin 16) (w : EvWord) (m : Mach) : Decoding p m (m.putWord p w) := by
  unfold putWord
  extract_lets m1
  have h1 : Decoding p m m1 := .onRx m _
  clear_value m1
  split
  · exact h1
  extract_lets fresh m2 m3
  have h2 : Decoding p m m2 := by
    unfold m2
    split
    · exact h1.trans (needBlock_decoding p _ m1)
    · exact h1
  have h3 : Decoding p m2 m3 := (Decoding.onRx m2 _).trans ((Decoding.inc _ _).trans (.of_within (touchIdle_within _)))
  split
  · exact h2
  split
  · exact (h2.trans h3).trans (evalFc_decoding p m3)
  · exact h2.trans h3

theorem emitEv_decoding (p : Fin 16) (unit x y : Nat) (pol : Bool) (stc : Nat) (m : Mach) : Decoding p m (m.emitEv p unit x y pol stc) := by
  unfold emitEv
  split
  · exact .refl m
  extract_lets s w
  split
  · exact .inc m _
  split
  exact putWord_decoding p _ m

theorem setDec_decoding (p : Fin 16) (f : DecState → DecState) (m : Mach) : Decoding p m (m.setDec p f) := .onRx m _

theorem decodeWord_decoding (p : Fin 16) (w : Nat) (m : Mach) : Decoding p m (m.decodeWord p w) := by
  unfold decodeWord
  split
  · exact .refl m
  extract_lets c e a b cc d s y x0 m1 m1'
  have h1 : Decoding p m m1 := by
    unfold m1
    exact .forEach _ _ (fun _ t => emitEv_decoding p _ _ _ _ _ t) m
  split
  · exact .inc m _
  split
  · split
    · exact .inc m _
    · exact .refl m
  · exact setDec_decoding p _ m
  · exact setDec_decoding p _ m
  · exact setDec_decoding p _ m
  · exact (setDec_decoding p _ m).trans (emitEv_decoding p _ _ _ _ _ _)
  · split
    · exact h1.trans (setDec_decoding p _ _)
    · exact h1
  · split
    · exact (setDec_decoding p _ m).trans (.onRx _ _)
    · exact (setDec_decoding p _ m).trans (.inc _ _)
  · exact .refl m

theorem feed_decoding (p : Fin 16) (bytes : List Byte) (m : Mach) : Decoding p m (m.feed p bytes) := by
  unfold feed
  split
  · exact .refl m
  next r hr =>
    dsimp only
    refine Decoding.trans (b := m.onPort p fun x => { x with rx := some { r with carry := _, got := r.got + bytes.length } }) ?_
      (.forEach _ _ (fun w t => decodeWord_decoding p w t) _)
    refine ⟨by rw [onPort_get_self], fun r' hr' => ⟨r, hr, ?_⟩⟩
    rw [onPort_get_self] at hr'
    rw [← Option.some.inj hr']

/-! ### Commit and drop -/

/-- A marker takes an edge and updates the fit: the packet, the vat and the decoder stay, and only its own counts move. -/
structure Marked (p : Fin 16) (a b : Mach) : Prop where
  rx : (b.port.get p).rx = (a.port.get p).rx
  vat : (b.port.get p).vat = (a.port.get p).vat
  dec : (b.port.get p).dec = (a.port.get p).dec
  regs : RegsBut [(R.ING_SYNC_UNPAIRED p).a, (R.ING_SYNC_BAD p).a] a b
  time : b.time = a.time

namespace Marked
variable {p : Fin 16} {a b c : Mach}

theorem refl (a : Mach) : Marked p a a := ⟨rfl, rfl, rfl, fun _ _ => rfl, rfl⟩

theorem trans (h1 : Marked p a b) (h2 : Marked p b c) : Marked p a c :=
  ⟨h2.rx.trans h1.rx, h2.vat.trans h1.vat, h2.dec.trans h1.dec, h1.regs.trans h2.regs, h2.time.trans h1.time⟩

theorem onPort (m : Mach) (f : Port → Port) (h : ∀ x, (f x).rx = x.rx ∧ (f x).vat = x.vat ∧ (f x).dec = x.dec := by exact fun _ => ⟨rfl, rfl, rfl⟩) :
    Marked p m (m.onPort p f) := by
  obtain ⟨h1, h2, h3⟩ := h (m.port.get p)
  exact ⟨by rw [onPort_get_self, h1], by rw [onPort_get_self, h2], by rw [onPort_get_self, h3], fun _ _ => rfl, rfl⟩

theorem inc (m : Mach) (f : Fld) (h : f.a ∈ [(R.ING_SYNC_UNPAIRED p).a, (R.ING_SYNC_BAD p).a]) : Marked p m (m.inc f) :=
  ⟨rfl, rfl, rfl, fun _ ho => rd_put_ne m f _ fun e => ho (e ▸ h), rfl⟩

end Marked

theorem fitPair_marked (p : Fin 16) (u s : Int) (m : Mach) : Marked p m (m.fitPair p u s) := by
  unfold fitPair
  split
  · exact .refl m
  extract_lets f m1
  have h1 : Marked p m m1 := .onPort m _
  clear_value m1
  split
  · exact h1
  split
  · exact (h1.trans (.onPort m1 _)).trans (.inc _ _ (by simp))
  extract_lets r r'
  split
  · exact h1.trans (.inc _ _ (by simp))
  · exact h1.trans (.onPort m1 _)

theorem marker_marked (p : Fin 16) (el u : Int) (m : Mach) : Marked p m (m.marker p el u) := by
  unfold marker
  dsimp only
  split
  · exact .inc m _ (by simp)
  split
  · exact .refl m
  split
  · exact .inc m _ (by simp)
  · exact (Marked.onPort m _).trans (fitPair_marked p _ _ _)

/-- The words of a committed packet. -/
def committedWords (trunc : Bool) (r : Rx) : List EvWord := r.events.reverse.map fun w => if trunc then { w with unchecked := true } else w

/-- What a commit leaves of the port and of the registers (R79, R84). -/
theorem commitRx_spec {p : Fin 16} {trunc : Bool} {m : Mach} {r : Rx} (h : (m.port.get p).rx = some r) :
    ((m.commitRx p trunc).port.get p).rx = none ∧
      ((m.commitRx p trunc).port.get p).vat = (if r.events = [] then (m.port.get p).vat
        else (m.port.get p).vat ++ [{ roi := r.roi, trunc := trunc, words := committedWords trunc r }]) ∧
      ((m.commitRx p trunc).port.get p).dec.get (Fin.ofNat 16 r.hdr.vc) = r.dec ∧
      RegsBut [(R.ING_SYNC_UNPAIRED p).a, (R.ING_SYNC_BAD p).a] m (m.commitRx p trunc) ∧ (m.commitRx p trunc).time = m.time := by
  have e : m.commitRx p trunc = forEach r.markers (fun u t => t.marker p r.headerEl u) (m.onPort p fun x =>
      { x with rx := none, dec := x.dec.set (r.hdr.vc % 16) r.dec (Nat.mod_lt _ (by decide)),
               vat := if (committedWords trunc r).isEmpty then x.vat else x.vat ++ [{ roi := r.roi, trunc := trunc, words := committedWords trunc r }] }) := by
    unfold commitRx
    rw [h]
    rfl
  rw [e]
  have hm := forEach_mem (fun t : Mach => Marked p (m.onPort p fun x =>
      { x with rx := none, dec := x.dec.set (r.hdr.vc % 16) r.dec (Nat.mod_lt _ (by decide)),
               vat := if (committedWords trunc r).isEmpty then x.vat else x.vat ++ [{ roi := r.roi, trunc := trunc, words := committedWords trunc r }] }) t)
    r.markers (fun u t => t.marker p r.headerEl u) (fun u _ t ht => ht.trans (marker_marked p r.headerEl u t)) _ (.refl _)
  obtain ⟨h1, h2, h3, h4, h5⟩ := hm
  refine ⟨h1.trans (by rw [onPort_get_self]), h2.trans ?_, ?_, fun off ho => (h4 off ho).trans (by rw [onPort_rd]), h5.trans rfl⟩
  · rw [onPort_get_self]
    dsimp only
    unfold committedWords
    by_cases he : r.events = []
    · rw [he]
      rfl
    · rw [if_neg he, if_neg (by simp [he])]
  · rw [h3, onPort_get_self]
    exact Vector.getElem_set_self ..

theorem dropRx_spec (p : Fin 16) (c : Fld) (m : Mach) :
    ((m.dropRx p c).port.get p).rx = none ∧ ((m.dropRx p c).port.get p).vat = (m.port.get p).vat ∧ ((m.dropRx p c).port.get p).dec = (m.port.get p).dec ∧
      (m.dropRx p c).g c = ((m.onPort p fun x => { x with rx := none }).inc c).g c := by
  unfold dropRx lostRaw dropIn
  rw [evalFc_port, evalFc_g]
  have hp : ∀ (u : Mach) n f, (u.onAcct n f).port = u.port := fun _ _ _ => rfl
  rw [hp, inc_port, onPort_get_self]
  exact ⟨rfl, rfl, rfl, rfl⟩

end Mach

end Sys2Proof.Machine

namespace Sys2Proof.Machine

set_option Elab.async false

/-! ## Sensor time (R69) -/

/-- Replacing the low bits of the sensor time; with LOW_CARRY a value below the present one carries into the bits above. -/
theorem setLow_spec (c : FmCfg) (v n : Nat) (d : DecState) (hv : v < 2 ^ n) (hd : d.stc + 2 ^ n < 2 ^ 64) :
    (setLow c v n d).stc % 2 ^ n = v ∧
      (c.lowCarry = true → d.stc ≤ (setLow c v n d).stc ∧ (setLow c v n d).stc < d.stc + 2 ^ n) ∧
      (c.lowCarry = false → (setLow c v n d).stc / 2 ^ n = d.stc / 2 ^ n) ∧ (setLow c v n d).ybase = d.ybase ∧ (setLow c v n d).xbase = d.xbase := by
  have hpos : 0 < 2 ^ n := Nat.two_pow_pos n
  have hdm := Nat.div_add_mod d.stc (2 ^ n)
  have hlt := Nat.mod_lt d.stc hpos
  have hlow : ∀ q, (q / 2 ^ n * 2 ^ n + v) % 2 ^ n = v ∧ (q / 2 ^ n * 2 ^ n + v) / 2 ^ n = q / 2 ^ n := fun q => by
    rw [Nat.mul_comm, Nat.mul_add_mod, Nat.mod_eq_of_lt hv, Nat.mul_add_div hpos, Nat.div_eq_of_lt hv]
    exact ⟨rfl, rfl⟩
  unfold setLow
  dsimp only
  split
  next hc =>
    obtain ⟨hcarry, hless⟩ := hc
    rw [Nat.mod_eq_of_lt hd]
    refine ⟨(hlow _).1, fun _ => ?_, fun h => absurd (hcarry.symm.trans h) (by decide), rfl, rfl⟩
    rw [Nat.add_div_right _ hpos, Nat.succ_mul, Nat.mul_comm]
    omega
  next hc =>
    refine ⟨(hlow _).1, fun h => ?_, fun _ => (hlow _).2, rfl, rfl⟩
    have hge : d.stc % 2 ^ n ≤ v := Nat.not_lt.mp fun hx => hc ⟨h, hx⟩
    rw [Nat.mul_comm]
    omega

namespace Mach

/-! ## Long packets and their time-out (R58 to R60, R79, R84) -/

theorem headerIn_port (p : Fin 16) (m : Mach) : (m.headerIn p).port.get p = m.headerPort p := by
  unfold headerIn
  rw [evalFc_port]
  unfold fcOf
  rw [settings_of_none (by rw [onPort_get_self]), onPort_get_self]
  rfl

theorem headerIn_parts (p : Fin 16) (m : Mach) : OnlyIn [.port] m (m.headerIn p) := by
  unfold headerIn
  exact ((onPort_within p _ m).parts.append (evalFc_onlyIn p _)).mono (by decide)

/-- Over the lanes of an awake package a packet is received and nothing else. -/
theorem overLanes_awake {p : Fin 16} {f : Mach → Mach} {m : Mach} (h : m.sleep.state = 0 ∧ m.sleep.entering = none) : overLanes p f m = f m := by
  have hst : (if m.on (R.ING_CTRL_EN p) then m.stir 5 p.1 else m) = m := by
    split
    · exact if_pos ⟨h.1, by rw [h.2]; rfl⟩
    · rfl
  unfold overLanes
  rw [hst, if_pos h.1]

theorem atBoundary_settled {p : Fin 16} {m : Mach} (h : (m.port.get p).flushPend = false ∧ (m.port.get p).stopReq = false) : m.atBoundary p = m := by
  unfold atBoundary
  dsimp only
  rw [h.1, h.2]
  split <;> rfl

theorem longPacket_idle {p : Fin 16} {h : Csi2Header} {payload : List Byte} {crc ovf : Bool} {m : Mach}
    (hs : (m.port.get p).flushPend = false ∧ (m.port.get p).stopReq = false) (hi : (m.port.get p).running = false ∨ (m.port.get p).rx ≠ none) :
    m.longPacket p h payload crc ovf = m := by
  unfold longPacket
  rw [atBoundary_settled hs]
  refine if_pos ?_
  rcases hi with hi | hi
  · rw [hi]
    rfl
  · rw [Option.isSome_iff_ne_none.mpr hi, Bool.or_true]

/-- The machine that decodes a packet, once its payload has come. -/
def decoded (p : Fin 16) (h : Csi2Header) (payload : List Byte) (m : Mach) : Mach :=
  (((m.headerIn p).inc (R.ING_RX_PKTS p)).startRx p h).feed p payload

/-- A complete packet of an event type ends with its CRC's verdict, unless its decoding dropped it. -/
theorem longPacket_decodes {p : Fin 16} {h : Csi2Header} {payload : List Byte} {crc : Bool} {m : Mach}
    (hs : (m.port.get p).flushPend = false ∧ (m.port.get p).stopReq = false) (hrun : (m.port.get p).running = true) (hrx : (m.port.get p).rx = none)
    (hready : m.rst.ready = true) (hecc : h.ecc = .ok) (hvc : m.vcOn p h.vc = true) (hlo : 0x30 ≤ h.dt) (hhi : h.dt ≤ 0x37)
    (hdt : bitN (m.g (R.ING_DT_DT_EN p)) (h.dt - 0x30) = true) (hlen : payload.length = h.wc) (hr : ((m.decoded p h payload).port.get p).rx ≠ none) :
    m.longPacket p h payload crc false = (m.decoded p h payload).endRx p crc := by
  have hp := headerIn_parts p m
  have hrst : (m.headerIn p).rst = m.rst := hp .rst (by decide)
  have hg : ∀ f : Fld, f.a ≠ (R.ING_RX_PKTS p).a → ((m.headerIn p).inc (R.ING_RX_PKTS p)).g f = m.g f := fun f hf =>
    (g_inc_ne _ _ _ hf).trans (g_of_regs (hp .regs (by decide)) f)
  have hvc1 : ((m.headerIn p).inc (R.ING_RX_PKTS p)).vcOn p h.vc = m.vcOn p h.vc := by
    have hmap : ∀ k, ((m.headerIn p).inc (R.ING_RX_PKTS p)).rd (R.ING_VCMAP_A p (k % 2)) = m.rd (R.ING_VCMAP_A p (k % 2)) := fun k =>
      (rd_put_ne _ _ _ (by simp only [R.ING_VCMAP_A, R.ING_RX_PKTS]; omega)).trans (by rw [rd, hp .regs (by decide)]; rfl)
    unfold vcOn vcNibble on
    rw [hmap, hg _ (by simp only [R.ING_PHY_VCX_EN, R.ING_RX_PKTS]; omega)]
  unfold longPacket
  rw [atBoundary_settled hs]
  dsimp only
  have hcorr : (if h.ecc = .corrected then (m.headerIn p).inc (R.ING_HDR_CORR p) else m.headerIn p) = m.headerIn p := if_neg (by rw [hecc]; decide)
  rw [if_neg (by rw [hrun, hrx]; decide), if_neg (by rw [hrst, hready]; decide), hcorr, if_neg (by rw [hecc]; decide)]
  have h1 := hg (R.ING_DT_DT_EN p) (by simp only [R.ING_DT_DT_EN, R.ING_RX_PKTS]; omega)
  unfold decoded at hr ⊢
  generalize (m.headerIn p).inc (R.ING_RX_PKTS p) = m1 at *
  rw [if_neg (by rw [hvc1, hvc]; decide), if_neg (by omega), if_pos ⟨hlo, hhi, by rw [h1]; exact hdt⟩, List.take_of_length_le (Nat.le_of_eq hlen),
    if_neg (by rw [Option.isNone_iff_eq_none]; exact hr), if_neg (by decide), if_neg (by omega)]

/-- Bytes left over at the end of a packet count (R65). -/
def tailed (p : Fin 16) (r : Rx) (m : Mach) : Mach := if r.carry.isEmpty then m else m.inc (R.ING_TAIL p)

theorem tailed_spec (p : Fin 16) (r : Rx) (m : Mach) :
    (m.tailed p r).port = m.port ∧ (m.tailed p r).time = m.time ∧ ∀ f : Fld, f.a ≠ (R.ING_TAIL p).a → (m.tailed p r).g f = m.g f := by
  unfold tailed
  split
  · exact ⟨rfl, rfl, fun _ _ => rfl⟩
  · exact ⟨rfl, rfl, fun f hf => g_inc_ne m _ f hf⟩

theorem endRx_eq {p : Fin 16} {m : Mach} {r : Rx} (h : (m.port.get p).rx = some r) :
    m.endRx p true = (m.tailed p r).commitRx p false ∧ m.endRx p false = (m.tailed p r).dropRx p (R.ING_CRC_BAD p) := by
  unfold endRx
  rw [h]
  exact ⟨rfl, rfl⟩

/-- What the end of a decoded packet leaves, by its CRC's verdict (R60, R79). -/
theorem endRx_spec {p : Fin 16} {m : Mach} {r : Rx} (h : (m.port.get p).rx = some r) :
    (((m.endRx p true).port.get p).rx = none ∧
      ((m.endRx p true).port.get p).vat = (if r.events = [] then (m.port.get p).vat
        else (m.port.get p).vat ++ [{ roi := r.roi, trunc := false, words := r.events.reverse }]) ∧
      ((m.endRx p true).port.get p).dec.get (Fin.ofNat 16 r.hdr.vc) = r.dec) ∧
    (((m.endRx p false).port.get p).rx = none ∧ ((m.endRx p false).port.get p).vat = (m.port.get p).vat ∧
      ((m.endRx p false).port.get p).dec = (m.port.get p).dec ∧ (m.endRx p false).g (R.ING_CRC_BAD p) = (m.g (R.ING_CRC_BAD p) + 1) % 2 ^ 32) := by
  obtain ⟨e1, e2⟩ := endRx_eq h
  obtain ⟨hp, -, hg⟩ := tailed_spec p r m
  rw [e1, e2]
  generalize m.tailed p r = m1 at *
  obtain ⟨c1, c2, c3, -, -⟩ := commitRx_spec (p := p) (trunc := false) (m := m1) (by rw [hp]; exact h)
  obtain ⟨d1, d2, d3, d4⟩ := dropRx_spec p (R.ING_CRC_BAD p) m1
  rw [hp] at c2 d2 d3
  refine ⟨⟨c1, c2.trans ?_, c3⟩, d1, d2, d3, d4.trans ?_⟩
  · unfold committedWords
    simp
  · rw [g_inc_word _ _ rfl rfl, onPort_g, hg _ (by simp only [R.ING_CRC_BAD, R.ING_TAIL]; omega)]

/-- The clock has run to a packet's time-out, and the packet counts as truncated. -/
def timedOut (p : Fin 16) (r : Rx) (m : Mach) : Mach :=
  (m.runToElapsed (r.headerEl + (m.settings p).g (R.ING_TMO_PKT_TIMEOUT p) * 1000)).inc (R.ING_TRUNC p)

theorem timedOut_spec (p : Fin 16) (r : Rx) (m : Mach) :
    (m.timedOut p r).port = m.port ∧ (m.timedOut p r).g (R.ING_TRUNC p) = (m.g (R.ING_TRUNC p) + 1) % 2 ^ 32 ∧
      r.headerEl + (m.settings p).g (R.ING_TMO_PKT_TIMEOUT p) * 1000 ≤ (m.timedOut p r).elapsed ∧
      (∀ off, off ≠ (R.ING_TRUNC p).a → off < 0x1E0000 ∨ 0x200000 ≤ off → (m.timedOut p r).rd off = m.rd off) ∧
      OnlyIn [.regs, .time, .enc, .jnl, .tick, .cache] m (m.timedOut p r) := by
  unfold timedOut
  generalize r.headerEl + (m.settings p).g (R.ING_TMO_PKT_TIMEOUT p) * 1000 = due
  have hc := runToElapsed_clockOnly due m
  refine ⟨(inc_port _ _).trans (hc.parts .port (by decide)), ?_, runToElapsed_reaches m due, fun off hne ho => ?_, (hc.parts.append (OnlyIn.inc _ _)).mono (by decide)⟩
  · rw [g_inc_word _ _ rfl rfl, hc.g _ (by simp only [R.ING_TRUNC]; omega)]
  · exact (rd_put_ne _ _ _ hne).trans (hc.regs off (by omega))

theorem packetTimeout_eq {p : Fin 16} {m : Mach} {r : Rx} (h : (m.port.get p).rx = some r) :
    m.packetTimeout p = if r.hdr.dt = 0x2A then (m.timedOut p r).onPort p fun x => { x with rx := none }
      else ((m.timedOut p r).tailed p r).commitRx p true := by
  unfold packetTimeout
  rw [h]
  rfl

/-- The time-out of a decoded packet commits its words unchecked (R84). -/
theorem packetTimeout_commits {p : Fin 16} {m : Mach} {r : Rx} (h : (m.port.get p).rx = some r) (hdt : r.hdr.dt ≠ 0x2A) :
    ((m.packetTimeout p).port.get p).rx = none ∧
      ((m.packetTimeout p).port.get p).vat = (if r.events = [] then (m.port.get p).vat
        else (m.port.get p).vat ++ [{ roi := r.roi, trunc := true, words := r.events.reverse.map fun w => { w with unchecked := true } }]) ∧
      r.headerEl + (m.settings p).g (R.ING_TMO_PKT_TIMEOUT p) * 1000 ≤ (m.packetTimeout p).elapsed ∧
      (m.packetTimeout p).g (R.ING_TRUNC p) = (m.g (R.ING_TRUNC p) + 1) % 2 ^ 32 := by
  obtain ⟨hp, hg, hel, -, -⟩ := timedOut_spec p r m
  rw [packetTimeout_eq h, if_neg hdt]
  generalize m.timedOut p r = m1 at *
  obtain ⟨hp2, ht2, hg2⟩ := tailed_spec p r m1
  have hg2 := hg2 (R.ING_TRUNC p) (by simp only [R.ING_TRUNC, R.ING_TAIL]; omega)
  generalize m1.tailed p r = m2 at *
  obtain ⟨c1, c2, -, c4, c5⟩ := commitRx_spec (p := p) (trunc := true) (m := m2) (by rw [hp2, hp]; exact h)
  rw [hp2, hp] at c2
  refine ⟨c1, c2, ?_, ?_⟩
  · unfold elapsed at hel ⊢
    rw [c5, ht2]
    exact hel
  · unfold g
    rw [c4 _ (by simp only [List.mem_cons, List.not_mem_nil, or_false, R.ING_TRUNC, R.ING_SYNC_UNPAIRED, R.ING_SYNC_BAD]; omega)]
    exact hg2.trans hg

theorem longPacket_unready {p : Fin 16} {h : Csi2Header} {payload : List Byte} {crc ovf : Bool} {m : Mach}
    (hs : (m.port.get p).flushPend = false ∧ (m.port.get p).stopReq = false) (hrun : (m.port.get p).running = true) (hrx : (m.port.get p).rx = none)
    (hready : m.rst.ready = false) :
    m.longPacket p h payload crc ovf = if h.dt = 0x2A then (m.headerIn p).inc (R.ING_FLUSHED p) else ((m.headerIn p).inc (R.ING_FLUSHED p)).lostRaw p := by
  have hrst : (m.headerIn p).rst = m.rst := headerIn_parts p m .rst (by decide)
  unfold longPacket
  rw [atBoundary_settled hs]
  dsimp only
  rw [if_neg (by rw [hrun, hrx]; decide), if_pos (by rw [hrst, hready]; rfl)]

/-- A packet that comes before READY is only counted. -/
theorem longPacket_flushed {p : Fin 16} {h : Csi2Header} {payload : List Byte} {crc ovf : Bool} {m : Mach}
    (hs : (m.port.get p).flushPend = false ∧ (m.port.get p).stopReq = false) (hrun : (m.port.get p).running = true) (hrx : (m.port.get p).rx = none)
    (hready : m.rst.ready = false) :
    let t := m.longPacket p h payload crc ovf
    t.g (R.ING_FLUSHED p) = (m.g (R.ING_FLUSHED p) + 1) % 2 ^ 32 ∧ RegsBut [(R.ING_FLUSHED p).a] m t ∧ t.port.get p = m.headerPort p ∧
      OnlyIn [.regs, .tick, .port] m t := by
  have hp := headerIn_parts p m
  have hport := headerIn_port p m
  dsimp only
  rw [longPacket_unready hs hrun hrx hready]
  have hregs : (m.headerIn p).regs = m.regs := hp .regs (by decide)
  generalize m.headerIn p = m1 at *
  have h2 : (m1.inc (R.ING_FLUSHED p)).g (R.ING_FLUSHED p) = (m.g (R.ING_FLUSHED p) + 1) % 2 ^ 32 := by rw [g_inc_word _ _ rfl rfl, g_of_regs hregs]
  have h3 : RegsBut [(R.ING_FLUSHED p).a] m (m1.inc (R.ING_FLUSHED p)) := fun off ho => (rd_put_ne m1 _ _ (by simpa using ho)).trans (by rw [rd, hregs]; rfl)
  have h4 := (hp.append (OnlyIn.inc m1 (R.ING_FLUSHED p))).mono (show _ ⊆ [Part.regs, .tick, .port] by decide)
  split
  · exact ⟨h2, h3, hport, h4⟩
  · exact ⟨h2, h3, hport, (h4.append (onAcct_within _ _ _).parts).mono (by decide)⟩

end Mach

/-- Settles O11: decoding leaves the port's decoder and the packet's header until the packet's end commits or drops it, and a time-out commits it unchecked. -/
theorem decodedPacketsAndSensorTime : Obligations.DecodedPacketsAndSensorTime := by
  unfold Obligations.DecodedPacketsAndSensorTime
  refine ⟨?_, fun c v n d hv _ hd => setLow_spec c v n d hv hd⟩
  intro s p h payload x m2 vat2 settled awake due
  have hexec : ∀ crc, awake → exec (.csi2LongPacket p h payload crc false) s = s.act (Mach.longPacket p h payload crc false) := fun crc ha => by
    show s.act (Mach.overLanes p (Mach.longPacket p h payload crc false)) = _
    rw [State.act_eq, State.act_eq, Mach.overLanes_awake ha]
  refine ⟨fun ha hs hi => idles_of_act (hexec true ha) (Mach.longPacket_idle hs hi), fun ha hrun hrx hs hready => ?_, fun hrx => ?_, fun r hr hdt => ?_,
    fun ha hrun hrx hf hstop hready hecc hvlt hvc hlo hhi hdt hlen r hr => ?_, fun r hr hdt => ?_⟩
  · exact does_of_act (hexec true ha) rfl (Mach.longPacket_flushed hs hrun hrx hready)
  · exact idles_of_act (f := Mach.packetTimeout p) rfl (by unfold Mach.packetTimeout; rw [show (s.port.get p).rx = none from hrx])
  · obtain ⟨hp, hg, hel, hrd, hparts⟩ := Mach.timedOut_spec p r s.toMach
    refine does_of_act (f := Mach.packetTimeout p) rfl ((Mach.packetTimeout_eq hr).trans (if_pos hdt)) ⟨?_, hg, hel, hrd, ?_⟩
    · rw [Mach.onPort_get_self, hp]
    · exact (hparts.append (Mach.onPort_within p _ _).parts).mono (by decide)
  · have hr : (m2.port.get p).rx = some r := hr
    have hdec := Mach.feed_decoding p payload (((s.headerIn p).inc (R.ING_RX_PKTS p)).startRx p h)
    have hstart : ∀ u : Mach, ∀ r0 ∈ ((u.startRx p h).port.get p).rx, r0.hdr = h := fun u r0 h0 => by
      unfold Mach.startRx at h0
      rw [Mach.onPort_get_self] at h0
      rw [← Option.some.inj h0]
    have hsdec : ((((s.headerIn p).inc (R.ING_RX_PKTS p)).startRx p h).port.get p).dec = x.dec := by
      unfold Mach.startRx
      rw [Mach.onPort_get_self, Mach.inc_port, Mach.headerIn_port]
      rfl
    obtain ⟨r0, h0, e0⟩ := hdec.hdr r hr
    have hhdr : r.hdr = h := e0.trans (hstart _ r0 h0)
    have hne : ((s.decoded p h payload).port.get p).rx ≠ none := fun hx => absurd (hr.symm.trans hx) (by simp)
    have heq : ∀ crc, s.longPacket p h payload crc false = m2.endRx p crc := fun crc =>
      Mach.longPacket_decodes ⟨hf, hstop⟩ hrun hrx hready hecc hvc hlo hhi hdt hlen hne
    obtain ⟨⟨g1, g2, g3⟩, b1, b2, b3, b4⟩ := Mach.endRx_spec hr
    rw [hhdr] at g3
    exact ⟨does_of_act (hexec true ha) (heq true) ⟨g1, g2, g3⟩, does_of_act (hexec false ha) (heq false) ⟨b1, b2, b3.trans (hdec.dec.trans hsdec), b4⟩⟩
  · exact does_of_act (f := Mach.packetTimeout p) rfl rfl (Mach.packetTimeout_commits hr hdt)

end Sys2Proof.Machine

namespace Sys2Proof.Machine

set_option Elab.async false

/-! ## A stream whose elements another die stores (R443, R446) -/

/-- Engine 7 of die 0 runs a descriptor whose image, and with it the elements of stream 2, lies in the memory of die 1. -/
def farStream : State :=
  Test.st { Test.eng7 [] (some (Test.run14 1 0)) with images := [(0, { Test.image14 with blob := 20 * 2 ^ 30 })] }

/-- The run of engine 7. -/
def farRun : Run := Test.run14 1 0

theorem farStream_meets :
    (farStream.eng.get 7).run = some farRun ∧
      farStream.descImage farRun.desc = some ({ Test.image14 with blob := 20 * 2 ^ 30 }, Test.role14) ∧
      farRun.streams.find? (fun (p : StreamPos) => p.sid == 2) = some { sid := 2, fetched := 0, used := 0 } ∧
      (({ Test.image14 with blob := 20 * 2 ^ 30 } : Image).streamsOf Test.role14).find? (fun (q : StreamRec) => q.sid == 2) =
        some { base := 4, sid := 2, depth := 2, stride := 3, len := 8, count := 5, ring := 3000 } ∧
      farStream.ueIn (20 * 2 ^ 30 + 4) 8 = none := by decide +kernel

theorem farStream_counts : (farStream.prefetch 7 2).g R.MSC_MISS = 1 ∧ farStream.g R.MSC_MISS = 0 := by decide +kernel

/-- Refutes O24: a prefetch of an element that another die stores is a read of the system cache, which counts in MSC_HIT or MSC_MISS, so a register changes. -/
theorem not_thinLayersEdgeAndPrefetch : ¬ Obligations.ThinLayersEdgeAndPrefetch := by
  unfold Obligations.ThinLayersEdgeAndPrefetch
  intro h
  obtain ⟨hrun, himg, hpos, hst, hue⟩ := farStream_meets
  obtain ⟨hafter, hbefore⟩ := farStream_counts
  obtain ⟨-, -, -, -, -, -, -, hfetch⟩ := h farStream 7 0 0 false 2
  have hdo := (hfetch farRun hrun _ himg _ hpos _ hst).2 (by decide) hue (by decide)
  obtain ⟨-, -, -, hparts⟩ := of_does_act (f := Mach.prefetch 7 2) rfl hdo
  have hregs : (farStream.prefetch 7 2).regs = farStream.regs := hparts .regs (by decide)
  rw [Mach.g_of_regs hregs, hbefore] at hafter
  exact absurd hafter (by decide)

end Sys2Proof.Machine

namespace Sys2Proof.Machine

set_option Elab.async false

/-! ## Uncorrectable errors over a phase of a population (R156, R449) -/

/-- No line fails that did not, and without a failing line no error is counted. -/
structure UeKept (a b : Mach) : Prop where
  lines : b.ueLines = a.ueLines
  count : a.ueLines = [] → ∀ d < 4, b.g (R.MEM_UE d) = a.g (R.MEM_UE d)

namespace UeKept
variable {a b c : Mach}

theorem refl (a : Mach) : UeKept a a := ⟨rfl, fun _ _ _ => rfl⟩

theorem trans (h1 : UeKept a b) (h2 : UeKept b c) : UeKept a c :=
  ⟨h2.lines.trans h1.lines, fun h d hd => (h2.count (h1.lines.trans h) d hd).trans (h1.count h d hd)⟩

theorem of_within {l : List Part} (h : Within l a b) (hr : Part.regs ∉ l := by decide) (hu : Part.ueLines ∉ l := by decide) : UeKept a b :=
  ⟨h.parts .ueLines hu, fun _ _ _ => Mach.g_of_regs (h.parts .regs hr) _⟩

theorem forEach {α : Type} (xs : List α) (f : α → Mach → Mach) (h : ∀ x m, UeKept m (f x m)) (m : Mach) : UeKept m (forEach xs f m) :=
  Mach.forEach_mem (UeKept m) xs f (fun x _ t ht => ht.trans (h x t)) m (refl m)

theorem foldl_snd {α β : Type} (xs : List α) (f : β × Mach → α → β × Mach) (h : ∀ s x, UeKept s.2 (f s x).2) (s : β × Mach) : UeKept s.2 (xs.foldl f s).2 := by
  induction xs generalizing s with
  | nil => exact refl _
  | cons x r ih => exact (h s x).trans (ih _)

theorem snd {β : Type} {p : β × Mach} {x : β} (he : p = (x, c)) (h : UeKept b p.2) : UeKept b c := by
  rw [he] at h
  exact h

/-- A write of a field of no error counter. -/
theorem put (m : Mach) (f : Fld) (v : Nat) (h : ∀ d, (R.MEM_UE d).a ≠ f.a) : UeKept m (m.put f v) := ⟨rfl, fun _ d _ => Mach.g_put_ne m f _ v (h d)⟩

theorem count_eq (h : UeKept a b) (h0 : a.ueLines = []) : b.ueCount = a.ueCount := by
  unfold Mach.ueCount
  exact congrArg List.sum (List.map_congr_left fun d hd => h.count h0 d (List.mem_range.mp hd))

end UeKept

namespace Mach

theorem mdAsk_ueKept (n : Fin 4) (t : Int) (m : Mach) : UeKept m (m.mdAsk n t).2 := by
  unfold mdAsk
  split
  · exact (UeKept.put m _ _ fun d => by simp only [R.MEM_UE, R.MOT_ENC_HIST_MISS]; omega).trans
      (.put _ _ _ fun d => by simp only [R.MEM_UE, R.MOT_ENC_STAT_HIST_MISS]; omega)
  · exact .refl m

theorem askMark_ueKept {r : PopRec} {t : Int} {m m1 : Mach} {v : Option Int} (h : m.askMark r t = some (v, m1)) : UeKept m m1 := by
  have ask := mdAsk_ueKept (Fin.ofNat 4 r.enc) t m
  unfold askMark at h
  split at h
  · obtain ⟨-, rfl⟩ := Prod.mk.inj (Option.some.inj h)
    exact .refl _
  · split at h
    · cases h
    all_goals
      rename_i heq
      obtain ⟨-, rfl⟩ := Prod.mk.inj (Option.some.inj h)
      exact .snd heq ask

theorem settleOwed_ueKept (tn : Nat) (p : Pop) (l : List Int) (m : Mach) : UeKept m (m.settleOwed tn p l) := by
  induction l generalizing m with
  | nil => exact .of_within (onPop_within p _ m)
  | cons t r ih =>
    unfold settleOwed
    split
    · split
      · exact .of_within (onPop_within p _ m)
      next h => exact ((askMark_ueKept h).trans (.of_within (lostStep_within _ _ _ _ _ _ _))).trans (ih _)
    · exact .refl m

theorem settleFn_ueKept (f : Fin 8) (tn : Nat) (m : Mach) : UeKept m (m.settleFn f tn) :=
  .forEach _ _ (fun p t => settleOwed_ueKept tn p p.owed t) m

theorem lostPhase_ueKept (tn i : Nat) (p : Pop) (m : Mach) : UeKept m (m.lostPhase tn i p) := by
  unfold lostPhase
  split
  · exact .refl m
  extract_lets m1 q owe
  have h1 : UeKept m m1 := .of_within (onPop_within p _ m)
  have h2 : UeKept m owe := h1.trans (.of_within (onPop_within p _ m1))
  split
  · exact h2
  · split
    · exact h2
    next h => exact (h1.trans (askMark_ueKept h)).trans (.of_within (lostStep_within _ _ _ _ _ _ _))

theorem popStep_ueKept (tn i : Nat) (p : Pop) (m : Mach) : UeKept m (m.popStep tn i p).2 := by
  unfold popStep
  split
  · split
    · exact .refl m
    next h =>
      split
      · exact (askMark_ueKept h).trans (.of_within (startPop_within _ _ _ _ _ _))
      · exact (askMark_ueKept h).trans (.of_within (onPop_within _ _ _))
  · exact .refl m

theorem passes_ueKept (e : Fin 72) (clocks draws : Nat) (m : Mach) : UeKept m (addTo (R.ENG_PASSES e) clocks { m with draws := draws }) :=
  UeKept.trans (b := { m with draws := draws }) ⟨rfl, fun _ _ _ => rfl⟩ (.put _ _ _ fun d => by simp only [R.MEM_UE, R.ENG_PASSES]; omega)

theorem popTouches_ueKept (tn i : Nat) (p : Pop) (stepped : Bool) (m : Mach) : UeKept m (m.popTouches tn i p stepped).2 := by
  unfold popTouches
  split
  next q im r e _ _ _ =>
    extract_lets isDue due edge ins clocks
    split
    extract_lets ns m1 m2
    have h1 : UeKept m m1 := (UeKept.of_within (l := [.eng]) (onEng_within)).trans (.of_within (onPop_within _ _ _))
    have h2 : UeKept m1 m2 := by
      unfold m2
      refine UeKept.trans (passes_ueKept e clocks _ m1) (.of_within (popWork_within _ _ _ _ _))
    split
    rename_i flag m3 heq
    extract_lets m4 at_
    have h3 : UeKept m2 m3 := .snd heq (.of_within (flaggedAt_within _ _ _))
    have h4 : UeKept m3 m4 := by
      unfold m4
      split
      · split
        · exact .of_within (onPop_within _ _ _)
        · exact .refl m3
      · exact .refl m3
    split
    rename_i sp m5 heq1
    have h5 : UeKept m4 m5 := .snd heq1 <| UeKept.foldl_snd _ _ (fun s x => by
      dsimp only
      exact .of_within (touchOne_within _ _ _ _ _ _ _ _ _ _ _)) ([], m4)
    exact (h1.trans (h2.trans (h3.trans (h4.trans h5)))).trans (.of_within (popWork_within _ _ _ _ _))
  next => exact .refl m

theorem hubRead_ueKept (d a n : Nat) (m : Mach) : UeKept m (m.hubRead d a n).2 := by
  refine UeKept.foldl_snd _ _ (fun s l => ?_) (0, m)
  split
  · exact .refl _
  · unfold scRead
    refine UeKept.trans (b := s.2.onCache _) (.of_within (onCache_within _ _)) (.put _ _ _ fun d => ?_)
    split <;> simp only [R.MEM_UE, R.MSC_HIT, R.MSC_MISS] <;> omega

theorem synAsk_ueKept (d : Fin 4) (lines : List Nat) (m : Mach) : UeKept m (m.synAsk d lines).2 := by
  unfold synAsk
  extract_lets absent m1
  have h1 : UeKept m m1 := (UeKept.put m _ _ fun d => by simp only [R.MEM_UE, R.MEM_SC_HIT]; omega).trans
    (.put _ _ _ fun d => by simp only [R.MEM_UE, R.MEM_SC_MISS]; omega)
  split
  · exact h1
  · refine h1.trans (UeKept.foldl_snd _ _ (fun s l => ?_) (0, m1))
    exact (hubRead_ueKept _ _ _ _).trans (.of_within (synFill_within _ _ _))

/-- A read of resident bytes meets no error where no line fails. -/
theorem expandList_ueKept (tn epoch : Nat) (e : Fin 72) (im : Image) (r : PopRec) (p : Pop) (sigma : Int) (n : Nat) (m : Mach) :
    UeKept m (m.expandList tn epoch e im r p sigma n) := by
  unfold expandList
  split
  · exact .refl m
  extract_lets ptr nblk base
  split
  rename_i k1 m1 heq
  split
  rename_i k2 m2 heq2
  extract_lets m3
  have h2 : UeKept m m2 := (UeKept.snd heq (synAsk_ueKept _ _ _)).trans (.snd heq2 (synAsk_ueKept _ _ _))
  have h3 : UeKept m m3 := by
    unfold m3
    split
    · exact h2
    · exact h2.trans (.of_within (popWork_within _ _ _ _ _))
  refine h3.trans (.forEach _ _ (fun k t => ?_) m3)
  split
  next a ha =>
    have hu : t.ueLines ≠ [] := fun h0 => by
      unfold ueIn at ha
      rw [h0] at ha
      cases ha
    exact ⟨(ueHit_within a t).parts .ueLines (by decide), fun h0 => absurd h0 hu⟩
  · exact .forEach _ _ (fun x u => UeKept.of_within (l := [.eng, .pops, .spikes, .fn, .led])
      ((sendSpike_within _ _ _ _ _ _ _).after <| (popWork_within _ _ _ _ _).after <| (onPop_within _ _ _).after <| .refl _ _)) t

theorem popSpikes_ueKept (tn : Nat) (p : Pop) (spikes : List Nat) (m : Mach) : UeKept m (m.popSpikes tn p spikes) := by
  unfold popSpikes
  split
  · exact .refl m
  split
  · extract_lets epoch m1
    have h1 : UeKept m m1 := .forEach _ _ (fun n t => expandList_ueKept _ _ _ _ _ _ _ n t) m
    exact h1.trans (.of_within (expandTiles_within _ _ _ _ _ _ _ _))
  · exact .refl m

/-- A phase of a function's populations counts no error where no line fails. -/
theorem runPhase_ueKept (f : Fin 8) (tn i : Nat) (m : Mach) : UeKept m (m.runPhase f tn i) := by
  unfold runPhase
  extract_lets ps
  split
  rename_i st m1 heq
  split
  rename_i sp m2 heq1
  have h1 : UeKept m m1 := .snd heq <| UeKept.foldl_snd _ _ (fun s p => by
    dsimp only
    split
    · exact popStep_ueKept _ _ _ _
    · split
      · exact lostPhase_ueKept _ _ _ _
      · exact .refl _) ([], m)
  have h2 : UeKept m1 m2 := .snd heq1 <| UeKept.foldl_snd _ _ (fun s x => by
    dsimp only
    exact popTouches_ueKept _ _ _ _ _) ([], m1)
  exact (h1.trans h2).trans (.forEach _ _ (fun x t => popSpikes_ueKept _ _ _ t) m2)

end Mach

end Sys2Proof.Machine

namespace Sys2Proof.Machine

set_option Elab.async false

/-! ## A touch of a neuron (R151 to R154) -/

theorem leak_zero (p : PsetRec) (edge : Bool) (fresh : Nat → Nat) (v : Int) : leak p edge fresh 0 v = v := by
  unfold leak
  refine List.foldlRecOn (motive := fun w => w = v) _ _ rfl fun w hw j _ => ?_
  dsimp only
  rw [if_neg (fun h => absurd h.1 (by simp [bitN])), hw]

/-- A forced touch sets the neuron whatever its input, and spikes unless one has spiked it at this instant already. -/
theorem touch_forced (p : PsetRec) (edge : Bool) (fresh : Nat → Nat) (s : Int) (input : Option Int) (x : Neuron) :
    touch p edge fresh s true input x =
      ({ x with last := toBits 16 s, v := 0, refEnd := toBits 16 (s + p.ref) }, !(x.last == toBits 16 s && x.refEnd == toBits 16 (s + p.ref))) := rfl

/-- A touch inside the refractory time adds nothing. -/
theorem touch_refractory {p : PsetRec} {edge : Bool} {fresh : Nat → Nat} {s : Int} {input : Option Int} {x : Neuron}
    (h : toSigned 16 (toBits 16 (s - x.refEnd)) ≤ 0) :
    touch p edge fresh s false input x = ({ x with last := toBits 16 s, v := leak p edge fresh (toBits 16 (s - x.last)) x.v }, false) := by
  unfold touch
  dsimp only
  rw [if_neg (by decide), if_pos h]

/-- A spike leaves the instant and the end of the refractory time. -/
theorem touch_spike {p : PsetRec} {edge : Bool} {fresh : Nat → Nat} {s : Int} {input : Option Int} {x : Neuron}
    (h : (touch p edge fresh s false input x).2 = true) :
    (touch p edge fresh s false input x).1.last = toBits 16 s ∧ (touch p edge fresh s false input x).1.refEnd = toBits 16 (s + p.ref) := by
  unfold touch at h ⊢
  dsimp only at h ⊢
  rw [if_neg (by decide)] at h ⊢
  split at h
  · cases h
  next hr =>
    rw [if_neg hr]
    cases input with
    | none => cases h
    | some i =>
      dsimp only at h ⊢
      split at h
      next ht =>
        rw [if_pos ht]
        exact ⟨rfl, rfl⟩
      · cases h

theorem toBits_sub_toBits (s : Int) : toBits 16 (s - (toBits 16 s : Nat)) = 0 := by
  unfold toBits
  omega

/-- The end of a refractory time below 2^15 lies ahead at the instant of its spike. -/
theorem refEnd_ahead (s : Int) (r : Nat) (h : r < 32768) : toSigned 16 (toBits 16 (s - (toBits 16 (s + r) : Nat))) ≤ 0 := by
  unfold toSigned toBits
  norm_num
  split <;> omega

namespace Mach

/-! ## Phases of a population (R156, R304) -/

theorem popPhase_waits {f : Fin 8} {m : Mach} {t0 : PopTick} (h : (m.fn.get f).popTick = some t0)
    (hw : m.spikes.any (·.fn == f) = true ∨ m.popsLoading f t0.tn = true ∨ (m.settleFn f t0.tn).marksWait f t0.tn t0.phase = true) : m.popPhase f = m := by
  unfold popPhase
  rw [h]
  refine if_pos ?_
  rw [Bool.or_eq_true, Bool.or_eq_true]
  tauto

theorem popPhase_runs {f : Fin 8} {m : Mach} {t0 : PopTick} (h : (m.fn.get f).popTick = some t0) (hs : m.spikes.any (·.fn == f) = false)
    (hl : m.popsLoading f t0.tn = false) (hm : (m.settleFn f t0.tn).marksWait f t0.tn t0.phase = false) (hu : m.ueLines = []) :
    m.popPhase f = if 15 ≤ t0.phase then ((m.settleFn f t0.tn).runPhase f t0.tn t0.phase).endPopTick f t0.tn
      else ((m.settleFn f t0.tn).runPhase f t0.tn t0.phase).onFn f fun x => { x with popTick := some { t0 with phase := t0.phase + 1 } } := by
  have hue : ((m.settleFn f t0.tn).runPhase f t0.tn t0.phase).ueCount = m.ueCount :=
    ((settleFn_ueKept f t0.tn m).trans (runPhase_ueKept f t0.tn t0.phase _)).count_eq hu
  unfold popPhase
  rw [h]
  dsimp only
  rw [if_neg (by rw [hs, hl, hm]; decide), if_neg (fun hx => hx hue)]

theorem endPopTick_spec (f : Fin 8) (tn : Nat) (m : Mach) :
    ((m.endPopTick f tn).fn.get f).popTick = none ∧ ((m.endPopTick f tn).led.popLast.get f).isSome = true ∧ (m.endPopTick f tn).led.popWork.get f = [] ∧
      (m.endPopTick f tn).led.popEst.get f = 0 := by
  unfold endPopTick
  dsimp only
  rw [onFn_led, onLed_led]
  dsimp only
  rw [vput_get_self, vput_get_self, vput_get_self, onFn_fn, vmod_get_self]
  exact ⟨rfl, rfl, rfl, rfl⟩

/-! ## Spike messages (R165) -/

theorem spikeMessage_spikes {f : Fin 8} {m : Mach} {x : SpikeMsg} (h : m.spikes.find? (·.fn == f) = some x) : (m.spikeMessage f).spikes = m.spikes.erase x := by
  have hk : ∀ (b : Bool) (e : Fin 72) (t : Mach), (if b then t.routeDrop f else t.arrive f m.heldTick x.role e x.arr).spikes = t.spikes := fun b e t => by
    split
    · rfl
    · exact (arrive_within _ _ _ _ _ t).parts .spikes (by decide)
  unfold spikeMessage
  rw [h]
  dsimp only
  split
  · rfl
  · split
    · rfl
    · split
      · exact hk _ _ _
      · exact (hk _ _ _).trans rfl

theorem spikeMessage_dropped {f : Fin 8} {m : Mach} {x : SpikeMsg} (h : m.spikes.find? (·.fn == f) = some x)
    (hd : ((m.routerMap f x.epoch).bind fun r => RoleMap.engine r x.role) = none ∨ m.roleEng f m.heldTick x.role = none) :
    m.spikeMessage f = ({ m with spikes := m.spikes.erase x } : Mach).routeDrop f := by
  have hmap : ((m.routerMap f x.epoch).bind fun r => (RoleMap.engine r x.role).map (Fin.ofNat 72)) =
      ((m.routerMap f x.epoch).bind fun r => RoleMap.engine r x.role).map (Fin.ofNat 72) := by
    cases m.routerMap f x.epoch <;> rfl
  unfold spikeMessage
  rw [h]
  dsimp only
  rw [hmap]
  cases he : ((m.routerMap f x.epoch).bind fun r => RoleMap.engine r x.role) with
  | none => rfl
  | some e =>
    have hr : m.roleEng f m.heldTick x.role = none := hd.resolve_left (by rw [he]; simp)
    dsimp only [Option.map_some]
    rw [hr]

theorem routeDrop_spec (f : Fin 8) (m : Mach) (l : List SpikeMsg) :
    ((({ m with spikes := l } : Mach).routeDrop f).fn.get f).routeDrop = ((m.fn.get f).routeDrop + 1) % 2 ^ 32 ∧
      OnlyIn [.spikes, .fn] m (({ m with spikes := l } : Mach).routeDrop f) := by
  unfold routeDrop
  refine ⟨?_, ?_⟩
  · rw [onFn_fn, vmod_get_self]
  · have h1 : OnlyIn [.spikes] m { m with spikes := l } := fun p hp => by cases p <;> simp_all <;> rfl
    exact (h1.append (onFn_within f _ _).parts).mono (by decide)

/-! ## The end of a role's load (R161, R189) -/

/-- A machine whose engine has dropped its SRAM and holds the role it wanted. -/
def roleHeld (e : Fin 72) (m : Mach) : Mach := m.onEng e fun y => { y with sram := [], loading := false, want := none, holds := y.want, incoming := [] }

/-- A load of one INIT record is one copy into an empty SRAM. -/
theorem endLoad_single {e : Fin 72} {m : Mach} {w : Fin 8 × Nat × Nat} {im : Image} {rec : RoleRec} {i : InitRec} (hl : (m.eng.get e).loading = true)
    (hin : (m.eng.get e).incoming = []) (hw : (m.eng.get e).want = some w) (him : m.images.find w.2.2 = some im) (hrec : im.sourceOf w.2.1 = some rec)
    (hi : im.initsOf rec = [i]) :
    m.endLoad e = ((m.roleHeld e).hubRead (dieOfEng e).1 (im.blob + i.blob) i.len).2.sramPut e i.loc (m.dramGet (im.blob + i.blob) i.len) := by
  obtain ⟨f, r, slot⟩ := w
  unfold endLoad
  dsimp only at him hrec ⊢
  rw [if_neg (by rw [hl]; decide), hw, hin]
  dsimp only
  rw [him]
  dsimp only
  rw [hrec]
  dsimp only
  rw [hi]
  rfl

theorem endLoad_spec {e : Fin 72} {m : Mach} {w : Fin 8 × Nat × Nat} {im : Image} {rec : RoleRec} {i : InitRec} (hl : (m.eng.get e).loading = true)
    (hin : (m.eng.get e).incoming = []) (hw : (m.eng.get e).want = some w) (him : m.images.find w.2.2 = some im) (hrec : im.sourceOf w.2.1 = some rec)
    (hi : im.initsOf rec = [i]) (htop : i.loc + i.len ≤ localTop) :
    (m.endLoad e).eng.get e = { m.eng.get e with sram := Mem.writes (m.dramGet (im.blob + i.blob) i.len) i.loc [], loading := false, want := none, holds := some w, incoming := [] } ∧
      ∀ e', e' ≠ e → (m.endLoad e).eng.get e' = m.eng.get e' := by
  have hlen := dramGet_length m (im.blob + i.blob) i.len
  have heng := (hubRead_within (dieOfEng e).1 (im.blob + i.blob) i.len (m.roleHeld e)).parts .eng (by decide)
  have hself : (m.roleHeld e).eng.get e = { m.eng.get e with sram := [], loading := false, want := none, holds := (m.eng.get e).want, incoming := [] } := onEng_get_self _ _ _
  have hother : ∀ e', e' ≠ e → (m.roleHeld e).eng.get e' = m.eng.get e' := fun e' h => onEng_get_ne _ _ _ h
  rw [endLoad_single hl hin hw him hrec hi, sramPut_sram _ _ (by rw [hlen]; exact htop)]
  generalize ((m.roleHeld e).hubRead (dieOfEng e).1 (im.blob + i.blob) i.len).2 = u at *
  have heng : u.eng = (m.roleHeld e).eng := heng
  refine ⟨?_, fun e' h => ?_⟩
  · rw [onEng_get_self, heng, hself, hw]
  · rw [onEng_get_ne _ _ _ h, heng, hother e' h]

end Mach

/-- Settles O25: the touches are computed case by case, a phase counts no error where no line fails, a message without an engine is dropped, and a load
is one copy into an empty SRAM. -/
theorem neuronsPhasesAndLoads : Obligations.NeuronsPhasesAndLoads := by
  unfold Obligations.NeuronsPhasesAndLoads
  intro s f e ps edge at_ n inp inp' a fresh y z
  refine ⟨?_, fun hz href => ?_, fun h => ?_, fun t0 h => ⟨fun hw => ?_, fun hs hl hm hu => ?_⟩, fun h => ?_, fun m hm => ⟨?_, fun hd => ?_⟩, fun h => ?_,
    fun hl hin w hw im him rec hrec i hi hone htop => ?_⟩
  · refine ⟨rfl, rfl, rfl, rfl, fun h => ?_, ?_⟩
    · show (!(n.last == toBits 16 at_ && n.refEnd == toBits 16 (at_ + ps.ref))) = true
      rw [Bool.not_eq_true', Bool.and_eq_false_iff]
      exact h.imp (fun h1 => beq_eq_false_iff_ne.mpr h1) fun h1 => beq_eq_false_iff_ne.mpr h1
    · show (!(toBits 16 at_ == toBits 16 at_ && toBits 16 (at_ + ps.ref) == toBits 16 (at_ + ps.ref))) = false
      rw [beq_self_eq_true, beq_self_eq_true]
      rfl
  · obtain ⟨hlast, hre⟩ := touch_spike hz
    have hr : toSigned 16 (toBits 16 (at_ - z.1.refEnd)) ≤ 0 := by
      rw [show z.1.refEnd = toBits 16 (at_ + ps.ref) from hre]
      exact refEnd_ahead at_ ps.ref href
    rw [touch_refractory hr, show z.1.last = toBits 16 at_ from hlast, toBits_sub_toBits, leak_zero]
    exact ⟨rfl, rfl⟩
  · exact idles_of_act (f := Mach.popPhase f) rfl (by unfold Mach.popPhase; rw [h])
  · exact idles_of_act (f := Mach.popPhase f) rfl (Mach.popPhase_waits h hw)
  · have he := Mach.popPhase_runs h hs hl hm hu
    have hp := (Mach.popPhase_within f s.toMach).parts
    refine does_of_act (f := Mach.popPhase f) rfl rfl ⟨?_, fun h15 => ?_, hp.mono (by decide)⟩
    · rw [he]
      by_cases h15 : 15 ≤ t0.phase
      · rw [if_pos h15, if_neg (by omega)]
        exact (Mach.endPopTick_spec f t0.tn _).1
      · rw [if_neg h15, if_pos (by omega), Mach.onFn_fn, vmod_get_self]
    · rw [he, if_pos h15]
      exact (Mach.endPopTick_spec f t0.tn _).2
  · exact idles_of_act (f := Mach.spikeMessage f) rfl (by unfold Mach.spikeMessage; rw [h])
  · exact does_of_act (f := Mach.spikeMessage f) rfl rfl ⟨Mach.spikeMessage_spikes hm, (Mach.spikeMessage_within f s.toMach).parts⟩
  · exact does_of_act (f := Mach.spikeMessage f) rfl (Mach.spikeMessage_dropped hm hd) (Mach.routeDrop_spec f s.toMach _)
  · exact idles_of_act (f := Mach.roleLoadDone e) rfl (if_neg (by rw [h]; decide))
  · have hinit : im.initsOf rec = [i] := by
      obtain ⟨x, hx⟩ := List.length_eq_one_iff.mp hone
      rw [hx] at hi ⊢
      rw [Option.some.inj hi]
    obtain ⟨hself, hother⟩ := Mach.endLoad_spec hl hin hw him hrec hinit htop
    have hlen := Mach.dramGet_length s.toMach (im.blob + i.blob) i.len
    have heng : ∀ u : Mach, u.mapsDone.eng = u.eng := fun u => (Mach.mapsDone_within u).parts .eng (by decide)
    have hget : ((s.endLoad e).mapsDone.eng.get e) = _ := (congrArg (fun v => v.get e) (heng _)).trans hself
    refine does_of_act (f := Mach.roleLoadDone e) rfl (if_pos hl) ⟨?_, ?_, ?_, fun ha => ?_, fun e' h => ?_,
      (((Mach.endLoad_within e s.toMach).parts.append (Mach.mapsDone_within _).parts)).mono (by decide)⟩
    · rw [hget]
    · rw [hget]
    · unfold Mach.sramGet
      rw [hget]
      exact Mem.reads_writes_of_length hlen _ _
    · rw [hget]
      exact (Mem.read_writes_outside _ (by rw [hlen]; exact ha)).trans rfl
    · rw [heng, hother e' h]

end Sys2Proof.Machine

namespace Sys2Proof.Machine

set_option Elab.async false

/-! ## What the action unit leaves of its own control (R271, R286, R287) -/

/-- The action unit keeps ACT_CTRL and whether a final commit has begun. -/
structure Manned (a b : Mach) : Prop where
  ctrl : b.rd R.ACT_CTRL_EN.a = a.rd R.ACT_CTRL_EN.a
  pf : b.jnl.pf = a.jnl.pf

namespace Manned

theorem refl (a : Mach) : Manned a a := ⟨rfl, rfl⟩

theorem trans {a b c : Mach} (h1 : Manned a b) (h2 : Manned b c) : Manned a c := ⟨h2.ctrl.trans h1.ctrl, h2.pf.trans h1.pf⟩

theorem of_written {a b : Mach} (h : Written a b) : Manned a b := ⟨h.regs _ (by decide), h.pf⟩

theorem onJnl (m : Mach) (f : Journal → Journal) (h : ∀ j, (f j).pf = j.pf := by exact fun _ => rfl) : Manned m (m.onJnl f) := ⟨rfl, h m.jnl⟩

theorem onTrig (m : Mach) (o : Fin 8) (f : TrigOut → TrigOut) : Manned m (m.onTrig o f) := ⟨rfl, rfl⟩

theorem onEnc (m : Mach) (n : Fin 4) (f : Encoder → Encoder) : Manned m (m.onEnc n f) := ⟨rfl, rfl⟩

theorem inc (m : Mach) (f : Fld) (h : R.ACT_CTRL_EN.a ≠ f.a) : Manned m (m.inc f) := ⟨Mach.rd_put_ne m f _ h, rfl⟩

theorem forEach {α : Type} (xs : List α) (f : α → Mach → Mach) (h : ∀ x m, Manned m (f x m)) (m : Mach) : Manned m (forEach xs f m) :=
  Mach.forEach_mem (Manned m) xs f (fun x _ t ht => ht.trans (h x t)) m (refl m)

theorem g {a b : Mach} (h : Manned a b) : b.g R.ACT_CTRL_EN = a.g R.ACT_CTRL_EN := by
  unfold Mach.g
  rw [h.ctrl]

/-- Whether the unit fires does not change while a package reset neither starts nor ends. -/
theorem runs {a b : Mach} (h : Manned a b) (hr : b.rst = a.rst) : b.actionsRun = a.actionsRun := by
  unfold Mach.actionsRun Mach.on
  rw [h.g, h.pf, hr]

end Manned

namespace Mach

theorem missAction_manned (c : MissCause) (a : Action) (m : Mach) : Manned m (m.missAction c a) := by
  unfold missAction
  exact ((Manned.of_written (write'_written _ _ _ m)).trans (.onJnl _ _)).trans (.inc _ _ (by split <;> decide))

theorem markMerged_manned (o : Fin 8) (m : Mach) : Manned m (m.markMerged o) := .onJnl m _

theorem fireAction_manned (late also : Bool) (a : Action) (m : Mach) : Manned m (m.fireAction late also a) := by
  unfold fireAction
  split
  · exact missAction_manned _ a m
  extract_lets ovl stop m0 m1 m2 m3
  have h0 : Manned m m0 := by
    unfold m0
    split
    · exact markMerged_manned _ m
    · exact .refl m
  have h3 : Manned m m3 :=
    (((h0.trans (.onTrig _ _ _)).trans (.of_written (write'_written _ _ _ m1))).trans (.onJnl _ _)).trans (.inc _ _ (by split <;> decide))
  split
  · exact h3.trans (.inc _ _ (by decide))
  · exact h3

theorem lateAction_manned (c : MissCause) (a : Action) (m : Mach) : Manned m (m.lateAction c a) := by
  unfold lateAction
  split
  · exact .onJnl m _
  · split
    · exact fireAction_manned _ _ a m
    · exact missAction_manned _ a m

theorem encoderLost_manned (n : Fin 4) (m : Mach) : Manned m (m.encoderLost n) :=
  .forEach _ _ (fun e t => lateAction_manned _ (e : Nat × Action).2 t) m

theorem markReached_manned (n : Fin 4) (m : Mach) : Manned m (m.markReached n) := .onJnl m _

theorem applyValueSet_manned (n : Fin 4) (s : Int) (m : Mach) : Manned m (m.applyValueSet n s) := by
  unfold applyValueSet
  dsimp only
  split
  · exact ((Manned.onEnc m n _).trans (encoderLost_manned n _)).trans (markReached_manned n _)
  · split
    · exact (Manned.onEnc m n _).trans (markReached_manned n _)
    · exact .refl m

theorem runTo_manned (x : Int) (m : Mach) : Manned m (m.runTo x) := by
  have h : Manned m (m.tickClock (m.incsTo x)) := ⟨rfl, rfl⟩
  unfold runTo runIncs
  dsimp only
  split
  · exact h
  · exact h.trans (.forEach _ _ (fun n t => (Manned.onEnc t n _).trans (applyValueSet_manned n _ _)) _)

theorem fireHeldLate_manned (m : Mach) : Manned m m.fireHeldLate := by
  unfold fireHeldLate
  split
  · exact .refl m
  · exact .forEach _ _ (fun e t => lateAction_manned _ (e : Nat × Action).2 t) m

theorem judgeHeld_manned (b : Bool) (m : Mach) : Manned m (m.judgeHeld b) :=
  .forEach _ _ (fun e t => lateAction_manned _ (e : Nat × Action).2 t) m

end Mach

/-! ## An entry of the action table leaves it or waits there with its cause (R286, R290) -/

theorem Tab.find_put_ne {α : Type} (t : Tab α) {k j : Nat} (v : α) (h : j ≠ k) : Tab.find (t.put k v) j = Tab.find t j := by
  have hk : (k == j) = false := by simpa using h.symm
  unfold Tab.find
  induction t with
  | nil => simp [Tab.put, hk]
  | cons e r ih =>
    obtain ⟨i, w⟩ := e
    unfold Tab.put
    split
    · simp [hk]
    · split
      next hi => subst hi; simp [hk]
      next => 
        by_cases hj : i = j
        · simp [hj]
        · simpa [List.find?_cons, hj] using ih

theorem Tab.mem_put_of_ne {α : Type} {t : Tab α} {k j : Nat} {x : α} (v : α) (h : j ≠ k) (hx : (j, x) ∈ t) : (j, x) ∈ t.put k v := by
  induction t with
  | nil => cases hx
  | cons e r ih =>
    obtain ⟨i, w⟩ := e
    unfold Tab.put
    split
    · exact List.mem_cons_of_mem _ hx
    · split
      next hi =>
        rcases List.mem_cons.mp hx with he | he
        · exact absurd ((Prod.mk.inj he).1.trans hi) h
        · exact List.mem_cons_of_mem _ he
      next =>
        rcases List.mem_cons.mp hx with he | he
        · exact he ▸ List.mem_cons_self
        · exact List.mem_cons_of_mem _ (ih he)

/-- The table after entry `a` is resolved: its slot is free, or holds the entry with the cause it waits for. -/
def Leaves (a : Action) (l l' : Tab Action) : Prop :=
  l' = Tab.erase l a.slot ∨ ∃ c, l' = Tab.put l a.slot { a with lateBy := some c }

/-- Nothing that could still fire stands at slot `k`. -/
def Mach.Vacated (k : Nat) (t : Mach) : Prop := ∀ x ∈ Tab.find t.jnl.actions k, x.lateBy ≠ none

/-- Slot `k` is vacated, or an entry of that slot for which `P` holds still waits. -/
def Mach.Awaits (k : Nat) (P : Action → Prop) (t : Mach) : Prop :=
  t.Vacated k ∨ ∃ x, (k, x) ∈ t.jnl.actions ∧ x.slot = k ∧ P x

namespace Leaves

variable {a : Action} {m t : Mach} {k : Nat}

theorem vacates (h : Leaves a m.jnl.actions t.jnl.actions) : t.Vacated a.slot := by
  intro x hx
  rcases h with h | ⟨c, h⟩
  · rw [h, find_erase_self] at hx
    cases hx
  · rw [h, Tab.find_put_self] at hx
    rw [← Option.some.inj hx]
    exact Option.some_ne_none c

theorem find_ne (h : Leaves a m.jnl.actions t.jnl.actions) (hk : k ≠ a.slot) : Tab.find t.jnl.actions k = Tab.find m.jnl.actions k := by
  rcases h with h | ⟨c, h⟩
  · rw [h, find_erase_ne _ hk]
  · rw [h, Tab.find_put_ne _ _ hk]

theorem keeps_vacated (h : Leaves a m.jnl.actions t.jnl.actions) (hv : m.Vacated k) : t.Vacated k := by
  by_cases hk : k = a.slot
  · exact hk ▸ h.vacates
  · intro x hx
    rw [h.find_ne hk] at hx
    exact hv x hx

theorem mem_ne {x : Action} (h : Leaves a m.jnl.actions t.jnl.actions) (hk : k ≠ a.slot) (hx : (k, x) ∈ m.jnl.actions) : (k, x) ∈ t.jnl.actions := by
  rcases h with h | ⟨c, h⟩
  · rw [h]
    exact List.mem_filter.mpr ⟨hx, by simpa using hk⟩
  · rw [h]
    exact Tab.mem_put_of_ne _ hk hx

theorem awaits {P : Action → Prop} (h : Leaves a m.jnl.actions t.jnl.actions) (ha : m.Awaits k P) : t.Awaits k P := by
  by_cases hk : k = a.slot
  · exact .inl (hk ▸ h.vacates)
  · rcases ha with hv | ⟨x, hx, hs, hp⟩
    · exact .inl (h.keeps_vacated hv)
    · exact .inr ⟨x, h.mem_ne hk hx, hs, hp⟩

end Leaves

namespace Mach

theorem fireAction_leaves (late also : Bool) (a : Action) (m : Mach) : Leaves a m.jnl.actions (m.fireAction late also a).jnl.actions :=
  .inl (fireAction_actions late also a m)

theorem lateAction_leaves (c : MissCause) (a : Action) (m : Mach) : Leaves a m.jnl.actions (m.lateAction c a).jnl.actions := by
  unfold lateAction
  split
  · exact .inr ⟨_, rfl⟩
  · split
    · exact fireAction_leaves _ _ a m
    · exact .inl (missAction_actions _ a m)

/-! ### A batch resolves each of its entries (R291) -/

theorem mem_insertAction {x y : Action} {l : List Action} : x ∈ insertAction y l ↔ x = y ∨ x ∈ l := by
  induction l with
  | nil => simp [insertAction]
  | cons z r ih =>
    unfold insertAction
    split
    · simp
    · simp only [List.mem_cons, ih]
      tauto

theorem mem_sortActions {x : Action} {l : List Action} : x ∈ sortActions l ↔ x ∈ l := by
  have h : ∀ acc, x ∈ l.foldl (fun acc y => insertAction y acc) acc ↔ x ∈ l ∨ x ∈ acc := by
    induction l with
    | nil => simp
    | cons y r ih =>
      intro acc
      rw [List.foldl_cons, ih, mem_insertAction, List.mem_cons]
      tauto
  simpa [sortActions] using h []

theorem fireBatch_step_leaves (l : List Action) (a : Action) (t : Mach) :
    Leaves a t.jnl.actions (if t.trigHeld then t.lateAction .reset a
      else t.fireAction false (decide (1 < (l.filter fun b => b.out == a.out).length)) a).jnl.actions := by
  split
  · exact lateAction_leaves _ a t
  · exact fireAction_leaves _ _ a t

theorem fireBatch_vacates (l : List Action) (m : Mach) {a : Action} (ha : a ∈ l) : (m.fireBatch l).Vacated a.slot :=
  forEach_reaches (fun (a : Action) t => t.Vacated a.slot) _ _ (fun a t => (fireBatch_step_leaves l a t).vacates)
    (fun a _ t hv => (fireBatch_step_leaves l a t).keeps_vacated hv) m a (mem_sortActions.mpr ha)

theorem fireBatch_keeps_vacated (l : List Action) (m : Mach) {k : Nat} (h : m.Vacated k) : (m.fireBatch l).Vacated k :=
  forEach_mem (Vacated k) _ _ (fun a _ t hv => (fireBatch_step_leaves l a t).keeps_vacated hv) m h

/-- A batch of the entries of the table that satisfy `p` vacates the slot of each of them. -/
theorem fireBatch_awaited (p : Action → Bool) (m : Mach) {k : Nat} (h : m.Awaits k fun x => p x = true) :
    (m.fireBatch ((m.jnl.actions.filter fun e => p e.2).map (·.2))).Vacated k := by
  rcases h with hv | ⟨x, hx, hs, hp⟩
  · exact fireBatch_keeps_vacated _ m hv
  · rw [← hs]
    exact fireBatch_vacates _ m (List.mem_map.mpr ⟨(k, x), List.mem_filter.mpr ⟨hx, hp⟩, rfl⟩)

/-! ### An entry with a time trigger waits through captures (R289, R290) -/

/-- A property of entries that reaching a position does not change. -/
def Blind (P : Action → Prop) : Prop := ∀ x r, P x → P { x with reached := r }

theorem markReached_awaits {P : Action → Prop} (hP : Blind P) (n : Fin 4) {k : Nat} {m : Mach} (h : m.Awaits k P) : (m.markReached n).Awaits k P := by
  unfold markReached
  rcases h with hv | ⟨x, hx, hs, hp⟩
  · refine .inl fun y hy => ?_
    rw [onJnl_jnl] at hy
    dsimp only at hy
    rw [Tab.find_map _ _ (fun e => by split <;> rfl)] at hy
    obtain ⟨z, hz, rfl⟩ := Option.mem_map.mp hy
    have hn := hv z.2 (Option.mem_map.mpr ⟨z, hz, rfl⟩)
    split <;> exact hn
  · refine .inr ?_
    rw [onJnl_jnl]
    have hm := List.mem_map_of_mem (f := fun e : Nat × Action => if e.2.enc = n ∧ m.posReached e.2 then (e.1, { e.2 with reached := true }) else e) hx
    by_cases hc : x.enc = n ∧ m.posReached x
    · rw [if_pos hc] at hm
      exact ⟨_, hm, hs, hP x true hp⟩
    · rw [if_neg hc] at hm
      exact ⟨x, hm, hs, hp⟩

theorem encoderLost_awaits {P : Action → Prop} (n : Fin 4) {k : Nat} {m : Mach} (h : m.Awaits k P) : (m.encoderLost n).Awaits k P :=
  forEach_mem (Awaits k P) _ _ (fun e _ t ht => (lateAction_leaves _ (e : Nat × Action).2 t).awaits ht) m h

theorem applyValueSet_awaits {P : Action → Prop} (hP : Blind P) (n : Fin 4) (s : Int) {k : Nat} {m : Mach} (h : m.Awaits k P) :
    (m.applyValueSet n s).Awaits k P := by
  have he : ∀ f, (m.onEnc n f).Awaits k P := fun _ => h
  unfold applyValueSet
  dsimp only
  split
  · exact markReached_awaits hP n (encoderLost_awaits n (he _))
  · split
    · exact markReached_awaits hP n (he _)
    · exact h

theorem runTo_awaits {P : Action → Prop} (hP : Blind P) (x : Int) {k : Nat} {m : Mach} (h : m.Awaits k P) : (m.runTo x).Awaits k P := by
  have h0 : (m.tickClock (m.incsTo x)).Awaits k P := h
  unfold runTo runIncs
  dsimp only
  split
  · exact h0
  · exact forEach_mem (Awaits k P) _ _ (fun n _ t (ht : t.Awaits k P) => applyValueSet_awaits hP n _ (m := t.onEnc n _) ht) _ h0

/-! ### A lone time entry stays alone through captures (R289) -/

/-- The table holds `a` alone, and the registers and the outputs are those of `m`. -/
structure Lone (a : Action) (m t : Mach) : Prop where
  actions : ∃ r, t.jnl.actions = [(a.slot, { a with reached := r })]
  regs : t.regs = m.regs
  out : t.time.trigOut = m.time.trigOut

theorem Lone.markReached {a : Action} {m t : Mach} (h : Lone a m t) (n : Fin 4) : Lone a m (t.markReached n) := by
  obtain ⟨r, hr⟩ := h.actions
  refine ⟨?_, h.regs, h.out⟩
  unfold Mach.markReached
  rw [onJnl_jnl, hr, List.map_singleton]
  split
  · exact ⟨true, rfl⟩
  · exact ⟨r, rfl⟩

/-- An encoder that loses its position costs a time entry nothing. -/
theorem Lone.encoderLost {a : Action} {m t : Mach} (h : Lone a m t) (ha : a.kind = false) (n : Fin 4) : Lone a m (t.encoderLost n) := by
  obtain ⟨r, hr⟩ := h.actions
  have he : t.encoderLost n = t := by
    unfold Mach.encoderLost
    rw [hr, List.filter_cons_of_neg (by simp [ha]), List.filter_nil]
    rfl
  exact he.symm ▸ h

theorem Lone.onEnc {a : Action} {m t : Mach} (h : Lone a m t) (n : Fin 4) (f : Encoder → Encoder) : Lone a m (t.onEnc n f) := ⟨h.actions, h.regs, h.out⟩

theorem Lone.applyValueSet {a : Action} {m t : Mach} (h : Lone a m t) (ha : a.kind = false) (n : Fin 4) (s : Int) : Lone a m (t.applyValueSet n s) := by
  unfold Mach.applyValueSet
  dsimp only
  split
  · exact ((h.onEnc n _).encoderLost ha n).markReached n
  · split
    · exact (h.onEnc n _).markReached n
    · exact h

theorem runTo_lone {a : Action} {m : Mach} (h : m.jnl.actions = [(a.slot, a)]) (ha : a.kind = false) (x : Int) : Lone a m (m.runTo x) := by
  have h0 : Lone a m (m.tickClock (m.incsTo x)) := ⟨⟨a.reached, h⟩, rfl, rfl⟩
  unfold runTo runIncs
  dsimp only
  split
  · exact h0
  · exact forEach_mem (Lone a m) _ _ (fun n _ t ht => (ht.onEnc n _).applyValueSet ha n _) _ h0

end Mach

end Sys2Proof.Machine

namespace Sys2Proof.Machine

set_option Elab.async false

namespace Mach

/-! ## How one entry resolves (R286, R289) -/

/-- What an entry that fires alone leaves: an empty table, a pulse of its width and one more entry fired. -/
structure Pulsed (a : Action) (m t : Mach) : Prop where
  actions : t.jnl.actions = []
  high : ∃ u ∈ (t.time.trigOut.get a.out).actUntil, t.elapsed + a.width * 1000 ≤ u
  fired : t.g R.ACT_FIRED = (m.g R.ACT_FIRED + 1) % 2 ^ 32
  missed : t.g R.ACT_MISSED = m.g R.ACT_MISSED

/-- What an entry that misses alone leaves: an empty table, the outputs as they were and one more entry missed. -/
structure Missed (m t : Mach) : Prop where
  actions : t.jnl.actions = []
  out : t.time.trigOut = m.time.trigOut
  missed : t.g R.ACT_MISSED = (m.g R.ACT_MISSED + 1) % 2 ^ 32
  fired : t.g R.ACT_FIRED = m.g R.ACT_FIRED

theorem erase_lone (a : Action) (r : Bool) : Tab.erase [(a.slot, { a with reached := r })] a.slot = [] := by
  simp [Tab.erase]

theorem g_of_written {a b : Mach} (h : Written a b) {f : Fld} (hf : ¬ (0x1F0000 ≤ f.a ∧ f.a < 0x200000) := by decide) : b.g f = a.g f := h.g f hf

/-- A missed entry pulses nothing. -/
theorem missAction_trigOut (c : MissCause) (a : Action) (m : Mach) : (m.missAction c a).time.trigOut = m.time.trigOut := by
  have h : (m.write' a.fn (m.actionBody true a.id a false false c.code) 0).time = m.time := (write'_within _ _ _ m).keeps .time
  unfold missAction dropAction
  rw [inc_time, onJnl_time, h]

theorem missAction_mode_counts (a : Action) (m : Mach) :
    (m.missAction .outputMode a).g R.ACT_MISSED = (m.g R.ACT_MISSED + 1) % 2 ^ 32 ∧ (m.missAction .outputMode a).g R.ACT_FIRED = m.g R.ACT_FIRED := by
  refine ⟨by simpa using missAction_counts .outputMode a m, ?_⟩
  have h := write'_written a.fn (m.actionBody true a.id a false false MissCause.outputMode.code) 0 m
  have hd : ∀ x : Mach, (dropAction a x).g R.ACT_FIRED = x.g R.ACT_FIRED := fun _ => rfl
  exact (g_inc_ne _ _ _ (by decide)).trans ((hd _).trans (h.g _ (by decide)))

/-- An entry that fires in time raises its output for its width and counts. -/
theorem fireAction_pulses (also : Bool) (a : Action) (m : Mach) (h : m.actionMode a.out = true) :
    (∃ u ∈ ((m.fireAction false also a).time.trigOut.get a.out).actUntil, m.elapsed + a.width * 1000 ≤ u) ∧
    (m.fireAction false also a).g R.ACT_FIRED = (m.g R.ACT_FIRED + 1) % 2 ^ 32 ∧
    (m.fireAction false also a).g R.ACT_MISSED = m.g R.ACT_MISSED := by
  unfold fireAction
  rw [if_neg (by simp [h])]
  extract_lets ovl stop m0 m1 m2 m3
  have hr0 : m0.regs = m.regs := by unfold m0 markMerged; split <;> rfl
  have hw := write'_written a.fn (m1.actionBody false a.id a false ovl 0) 0 m1
  have hg2 : ∀ f : Fld, ¬ (0x1F0000 ≤ f.a ∧ f.a < 0x200000) → m2.g f = m.g f := fun f hf => by
    unfold m2 dropAction
    rw [onJnl_g, hw.g f hf]
    unfold m1
    rw [onTrig_g]
    exact g_of_regs hr0 f
  have ht2 : m2.time = m1.time := by
    unfold m2 dropAction
    rw [onJnl_time]
    exact (write'_within _ _ _ m1).keeps .time
  have hu : ∃ u ∈ (m2.time.trigOut.get a.out).actUntil, m.elapsed + a.width * 1000 ≤ u := by
    rw [ht2]
    unfold m1
    rw [onTrig_get_self]
    refine ⟨_, rfl, ?_⟩
    split
    · split
      · exact le_max_right _ _
      · exact le_rfl
    · exact le_rfl
  have h3 : m3.time = m2.time ∧ m3.g R.ACT_FIRED = (m.g R.ACT_FIRED + 1) % 2 ^ 32 ∧ m3.g R.ACT_MISSED = m.g R.ACT_MISSED := by
    unfold m3
    rw [if_neg (by decide), g_inc_word _ _ rfl rfl, g_inc_ne _ _ _ (by decide), hg2 _ (by decide), hg2 _ (by decide)]
    exact ⟨inc_time _ _, rfl, rfl⟩
  obtain ⟨ht3, hf3, hm3⟩ := h3
  split
  · exact ⟨by rw [inc_time, ht3]; exact hu, (g_inc_ne m3 _ _ (by decide)).trans hf3, (g_inc_ne m3 _ _ (by decide)).trans hm3⟩
  · rw [ht3]
    exact ⟨hu, hf3, hm3⟩

/-- The instant stays while the unit fires. -/
theorem elapsed_of_actOnly {a b : Mach} (h : ActOnly a b) : b.elapsed = a.elapsed := by
  unfold elapsed
  rw [h.time]

theorem fireBatch_single (a : Action) {m : Mach} (h : m.trigHeld = false) : m.fireBatch [a] = m.fireAction false false a := by
  have h1 : decide (1 < ([a].filter fun b => b.out == a.out).length) = false := by simp
  show (if m.trigHeld then m.lateAction .reset a else m.fireAction false _ a) = _
  rw [h, h1]
  rfl

/-- A lone entry that is due fires where its output is in action-table mode, and misses in any other. -/
theorem Lone.resolves {a : Action} {m t : Mach} (hl : Lone a m t) (h : t.trigHeld = false) {r : Bool}
    (hr : t.jnl.actions = [(a.slot, { a with reached := r })]) :
    (m.actionMode a.out = true → Pulsed a m (t.fireBatch [{ a with reached := r }])) ∧
    (m.actionMode a.out = false → Missed m (t.fireBatch [{ a with reached := r }])) := by
  have hg : ∀ f, t.g f = m.g f := g_of_regs hl.regs
  have hm : t.actionMode a.out = m.actionMode a.out := by unfold actionMode; rw [hg]
  have he : (t.fireAction false false { a with reached := r }).jnl.actions = [] := by
    rw [fireAction_actions, hr, erase_lone]
  rw [fireBatch_single _ h]
  refine ⟨fun hmode => ?_, fun hmode => ?_⟩
  · obtain ⟨hu, hf, hn⟩ := fireAction_pulses false { a with reached := r } t (hm.trans hmode)
    exact ⟨he, by rw [elapsed_of_actOnly (fireAction_actOnly _ _ _ t)]; exact hu, by rw [hf, hg], by rw [hn, hg]⟩
  · have hx : t.fireAction false false { a with reached := r } = t.missAction .outputMode { a with reached := r } := by
      unfold fireAction
      exact if_pos (by simp [hm.trans hmode])
    obtain ⟨hn, hf⟩ := missAction_mode_counts { a with reached := r } t
    rw [hx] at he ⊢
    exact ⟨he, (missAction_trigOut _ _ t).trans hl.out, by rw [hn, hg], by rw [hf, hg]⟩

/-! ### The time trigger (R289) -/

section
variable {s : Mach} {t0 : Int}

theorem nextTimeTrigger_single (a : Action) (ha : s.jnl.actions = [(a.slot, a)]) (h : s.nextTimeTrigger = some t0) :
    a.kind = false ∧ a.lateBy = none ∧ a.trigger = t0 := by
  unfold nextTimeTrigger at h
  rw [ha] at h
  by_cases hc : (!a.kind && a.lateBy.isNone) = true
  · rw [List.filter_cons_of_pos (by exact hc)] at h
    simp only [Bool.and_eq_true, Bool.not_eq_true', Option.isNone_iff_eq_none] at hc
    exact ⟨hc.1, hc.2, by simpa using h⟩
  · rw [List.filter_cons_of_neg (by exact hc)] at h
    simp at h

/-- An entry is a time entry whose trigger has come and which waits. -/
def dueAt (n : Int) (x : Action) : Bool := !x.kind && x.lateBy.isNone && decide (x.trigger ≤ n)

theorem dueAt_blind (n : Int) : Blind fun x => dueAt n x = true := fun _ _ h => h

theorem fireTime_idle (h : s.nextTimeTrigger = none) : s.fireTime = s := by
  unfold fireTime
  rw [h]

theorem fireTime_held (h : s.nextTimeTrigger = some t0) (hr : s.actionsRun = false) : s.fireTime = s.runTo t0 := by
  have h1 : (s.runTo t0).actionsRun = false := ((runTo_manned t0 s).runs ((runTo_within t0 s).keeps .rst)).trans hr
  unfold fireTime
  rw [h]
  exact if_pos (by rw [h1]; rfl)

theorem fireTime_fires (h : s.nextTimeTrigger = some t0) (hr : s.actionsRun = true) :
    s.fireTime = (s.runTo t0).fireBatch (((s.runTo t0).jnl.actions.filter fun e => dueAt (s.runTo t0).time.n e.2).map (·.2)) := by
  have h1 : (s.runTo t0).actionsRun = true := ((runTo_manned t0 s).runs ((runTo_within t0 s).keeps .rst)).trans hr
  unfold fireTime
  rw [h]
  exact if_neg (by rw [h1]; decide)

theorem fireTime_n (h : s.nextTimeTrigger = some t0) : s.fireTime.time.n = (s.runTo t0).time.n := by
  cases hr : s.actionsRun with
  | false => rw [fireTime_held h hr]
  | true => rw [fireTime_fires h hr, (fireBatch_actOnly _ _).time]

theorem fireTime_vacates (h : s.nextTimeTrigger = some t0) (hr : s.actionsRun = true) {e : Nat × Action} (he : e ∈ s.jnl.actions)
    (hs : e.2.slot = e.1) (hk : e.2.kind = false) (hl : e.2.lateBy = none) (ht : e.2.trigger ≤ s.fireTime.time.n) : s.fireTime.Vacated e.1 := by
  rw [fireTime_n h] at ht
  rw [fireTime_fires h hr]
  refine fireBatch_awaited _ _ (runTo_awaits (dueAt_blind _) t0 (.inr ⟨e.2, he, hs, ?_⟩))
  simp [dueAt, hk, hl, ht]

theorem fireTime_lone {a : Action} (h : s.nextTimeTrigger = some t0) (hr : s.actionsRun = true) (ha : s.jnl.actions = [(a.slot, a)])
    (hh : s.trigHeld = false) :
    (s.actionMode a.out = true → Pulsed a s s.fireTime) ∧ (s.actionMode a.out = false → Missed s s.fireTime) := by
  obtain ⟨hk, hl, ht⟩ := nextTimeTrigger_single a ha h
  have hone := runTo_lone ha hk t0
  obtain ⟨r, hact⟩ := hone.actions
  have hd : dueAt (s.runTo t0).time.n { a with reached := r } = true := by
    simp [dueAt, hk, hl, ht, runTo_reaches s t0]
  have hheld : (s.runTo t0).trigHeld = false := by
    unfold trigHeld
    rw [(runTo_within t0 s).keeps .rst]
    exact hh
  rw [fireTime_fires h hr]
  have hf : ((s.runTo t0).jnl.actions.filter fun e => dueAt (s.runTo t0).time.n e.2).map (·.2) = [{ a with reached := r }] := by
    rw [hact, List.filter_cons_of_pos (by exact hd)]
    rfl
  rw [hf]
  exact hone.resolves hheld hact

/-! ### The position trigger (R289) -/

/-- An entry is a position entry whose trigger was reached and which waits. -/
def metPosition (x : Action) : Bool := x.kind && x.reached && x.lateBy.isNone

theorem firePosition_idle (hr : s.actionsRun = false) : s.firePosition = s := by
  unfold firePosition
  exact if_pos (by rw [hr]; rfl)

theorem firePosition_fires (hr : s.actionsRun = true) : s.firePosition = s.fireBatch ((s.jnl.actions.filter fun e => metPosition e.2).map (·.2)) := by
  unfold firePosition
  exact if_neg (by rw [hr]; decide)

theorem firePosition_vacates (hr : s.actionsRun = true) {e : Nat × Action} (he : e ∈ s.jnl.actions)
    (hs : e.2.slot = e.1) (hk : e.2.kind = true) (hm : e.2.reached = true) (hl : e.2.lateBy = none) : s.firePosition.Vacated e.1 := by
  rw [firePosition_fires hr]
  exact fireBatch_awaited _ _ (.inr ⟨e.2, he, hs, by simp [metPosition, hk, hm, hl]⟩)

theorem firePosition_lone {a : Action} (hr : s.actionsRun = true) (ha : s.jnl.actions = [(a.slot, a)]) (hk : a.kind = true)
    (hm : a.reached = true) (hl : a.lateBy = none) (hh : s.trigHeld = false) :
    (s.actionMode a.out = true → Pulsed a s s.firePosition) ∧ (s.actionMode a.out = false → Missed s s.firePosition) := by
  rw [firePosition_fires hr]
  have hf : (s.jnl.actions.filter fun e => metPosition e.2).map (·.2) = [{ a with reached := a.reached }] := by
    rw [ha, List.filter_cons_of_pos (by simp [metPosition, hk, hm, hl])]
    rfl
  rw [hf]
  exact Lone.resolves ⟨⟨a.reached, ha⟩, rfl, rfl⟩ hh ha

end

/-! ### The end of a pulse and ACT_CTRL (R286, R287) -/

theorem actionEnd_idle {o : Fin 8} {m : Mach} (h : (m.time.trigOut.get o).actUntil = none) : m.actionEnd o = m := by
  unfold actionEnd
  rw [h]

theorem actionEnd_ends {o : Fin 8} {m : Mach} {u : Int} (h : (m.time.trigOut.get o).actUntil = some u) :
    m.actionEnd o = (m.runToElapsed u).onTrig o fun x => { x with actUntil := none } := by
  unfold actionEnd
  rw [h]

theorem actionEnd_low {o : Fin 8} {m : Mach} {u : Int} (h : (m.time.trigOut.get o).actUntil = some u) :
    u ≤ (m.actionEnd o).elapsed ∧ ((m.actionEnd o).time.trigOut.get o).actUntil = none := by
  rw [actionEnd_ends h, onTrig_get_self]
  exact ⟨runToElapsed_reaches m u, rfl⟩

theorem actEn_off (m : Mach) : m.actEn false = (m.put R.ACT_CTRL_EN 0).actionsLow := rfl

theorem actEn_on_idle {m : Mach} (h : m.on R.ACT_CTRL_EN = true) : m.actEn true = m.put R.ACT_CTRL_EN 1 := by
  unfold actEn
  rw [if_neg (by decide), if_pos (by rw [h]; rfl)]
  rfl

theorem actionsLow_regs (m : Mach) : m.actionsLow.regs = m.regs := by
  unfold actionsLow
  refine forEach_mem (fun t => t.regs = m.regs) _ _ (fun _ _ t h => ?_) m rfl
  exact h

theorem actionsLow_n (m : Mach) : m.actionsLow.time.n = m.time.n := by
  unfold actionsLow
  refine forEach_mem (fun t => t.time.n = m.time.n) _ _ (fun _ _ t h => ?_) m rfl
  exact h

theorem actionsLow_low (m : Mach) (k : Fin 8) : (m.actionsLow.time.trigOut.get k).actUntil = none := by
  refine forEach_reaches (fun (k : Fin 8) t => (t.time.trigOut.get k).actUntil = none) _ _ (fun o t => ?_) (fun o k t h => ?_) m k (List.mem_finRange k)
  · rw [onTrig_get_self]
  · by_cases hk : k = o
    · rw [hk, onTrig_get_self]
    · rw [onTrig_get_ne _ _ hk]
      exact h

theorem actEn_off_within (m : Mach) : Within [.regs, .time] m (m.actEn false) :=
  (actionsLow_within _).after (l := [.regs, .time]) (put_within _ _ _).mono

theorem actEn_sets (m : Mach) : (m.actEn true).g R.ACT_CTRL_EN = 1 := by
  have h1 : (m.put R.ACT_CTRL_EN true.toNat).g R.ACT_CTRL_EN = 1 := g_put_self _ _ _ (by decide) (by decide)
  unfold actEn
  dsimp only
  rw [if_neg (by decide)]
  split
  · exact h1
  · exact (((fireHeldLate_manned _).trans (judgeHeld_manned _ _)).g).trans h1

/-! ### The read of a stream's next RSN (R270) -/

/-- A read of two latched words: the value stands in them and its low word is answered. -/
def readPair (lo hi : Nat) (v : Int) (m : Mach) : Mach := (m.put64 lo hi v).emit (.readValue lo ((m.put64 lo hi v).rd lo))

theorem rsnRead_eq (f : Fin 8) (c : Fin 4) (m : Mach) :
    m.rsnRead f c = m.readPair (R.JNL_F_RSN_A f (2 * c.1)) (R.JNL_F_RSN_A f (2 * c.1 + 1)) ((m.jnl.epoch * 2 ^ 48 + m.jnl.next.get (stream f c) : Nat)) := rfl

theorem readPair_value {lo hi : Nat} (h : lo ≠ hi) (v : Nat) (m : Mach) :
    (m.readPair lo hi v).g64 lo hi = v % 2 ^ 64 ∧ (m.readPair lo hi v).out = .readValue lo (BitVec.ofNat 32 v) :: m.out := by
  refine ⟨(g64_put64 m v h).trans (toBits_natCast 64 v), ?_⟩
  unfold readPair
  rw [emit_out, rd_put64_lo m v h, toBits_natCast]
  refine congrArg (· :: m.out) (congrArg (Out.readValue lo) (BitVec.eq_of_toNat_eq ?_))
  rw [BitVec.toNat_ofNat, BitVec.toNat_ofNat, Nat.mod_mod_of_dvd _ (by decide)]

theorem readPair_regsBut (lo hi : Nat) (v : Int) (m : Mach) : RegsBut [lo, hi] m (m.readPair lo hi v) := by
  intro off ho
  simp only [List.mem_cons, List.not_mem_nil, or_false, not_or] at ho
  exact rd_put64_ne m v ho.1 ho.2

theorem rsn_words_ne (f : Fin 8) (c : Fin 4) : R.JNL_F_RSN_A f (2 * c.1) ≠ R.JNL_F_RSN_A f (2 * c.1 + 1) := by
  unfold R.JNL_F_RSN_A
  omega

end Mach

/-- Settles O32. -/
theorem actionsResolveAtTheirTrigger : Obligations.ActionsResolveAtTheirTrigger := by
  unfold Obligations.ActionsResolveAtTheirTrigger
  intro s o f c a fires misses
  have hp : ∀ t, Mach.Pulsed a s.toMach t → fires t := fun _ h => ⟨h.actions, h.high, h.fired, h.missed⟩
  have hm : ∀ t, Mach.Missed s.toMach t → misses t := fun _ h => ⟨h.actions, h.out, h.missed, h.fired⟩
  refine ⟨fun h => idles_of_act (f := Mach.fireTime) rfl (Mach.fireTime_idle h), fun t0 h => ?_,
    fun h => idles_of_act (f := Mach.firePosition) rfl (Mach.firePosition_idle h), fun h => ?_,
    fun h => idles_of_act (f := Mach.actionEnd o) rfl (Mach.actionEnd_idle h), fun u h => ?_, ?_, ?_, ?_⟩
  · refine does_of_act (f := Mach.fireTime) rfl rfl ⟨?_, fun hr e he hs hk hl ht => Mach.fireTime_vacates h hr he hs hk hl ht, fun hr ha hh => ?_,
      (Mach.fireTime_within _).parts⟩
    · rw [Mach.fireTime_n h]
      exact Mach.runTo_reaches _ _
    · exact (Mach.fireTime_lone h hr ha hh).imp (fun i x => hp _ (i x)) (fun i x => hm _ (i x))
  · exact does_of_act (f := Mach.firePosition) rfl rfl ⟨fun e he hs hk hd hl => Mach.firePosition_vacates h he hs hk hd hl,
      fun ha hk hd hl hh => (Mach.firePosition_lone h ha hk hd hl hh).imp (fun i x => hp _ (i x)) (fun i x => hm _ (i x)),
      (Mach.firePosition_within _).parts⟩
  · obtain ⟨hu, hl⟩ := Mach.actionEnd_low h
    exact does_of_act (f := Mach.actionEnd o) rfl rfl ⟨hu, hl, (Mach.actionEnd_within _ _).parts⟩
  · refine does_of_act (f := Mach.actEn false) rfl (Mach.actEn_off _) ⟨?_, Mach.actionsLow_low _, Mach.actionsLow_n _,
      Mach.RegsBut.of_regs (Mach.RegsBut.put _ _ _) (Mach.actionsLow_regs _), (Mach.actEn_off_within _).parts⟩
    exact (Mach.g_of_regs (Mach.actionsLow_regs _) _).trans (Mach.g_put_self _ _ _ (by decide) (by decide))
  · refine does_of_act (f := Mach.actEn true) rfl rfl ⟨Mach.actEn_sets _, fun h => ?_, (Mach.actEn_within _ _).parts⟩
    rw [Mach.actEn_on_idle h]
    exact ⟨rfl, rfl⟩
  · have hw := (Mach.rsnRead_within f c s.toMach).parts
    rw [Mach.rsnRead_eq] at hw
    obtain ⟨hv, ho⟩ := Mach.readPair_value (Mach.rsn_words_ne f c) (s.jnl.epoch * 2 ^ 48 + s.jnl.next.get (Mach.stream f c)) s.toMach
    exact does_of_act (f := Mach.rsnRead f c) rfl (Mach.rsnRead_eq f c _) ⟨hv, ho, Mach.readPair_regsBut _ _ _ _, hw⟩

end Sys2Proof.Machine

namespace Sys2Proof.Machine

set_option Elab.async false

namespace Mach

/-! ## What a path reads of the state (R353 to R356) -/

section
variable {a b : Mach} {d : Fin 8}

theorem waitingFor_congr (hj : b.jnl = a.jnl) (s : Fin 32) : b.waitingFor d s = a.waitingFor d s := by
  unfold waitingFor
  rw [hj]

theorem baseOf_congr (hj : b.jnl = a.jnl) (hb : (b.net.dests.get d).base = (a.net.dests.get d).base) (s : Fin 32) : b.baseOf d s = a.baseOf d s := by
  unfold baseOf
  rw [waitingFor_congr hj, hj, hb]

theorem flightOf_congr (hj : b.jnl = a.jnl) (hb : (b.net.dests.get d).base = (a.net.dests.get d).base)
    (hf : (b.net.dests.get d).flight = (a.net.dests.get d).flight) (s : Fin 32) : b.flightOf d s = a.flightOf d s := by
  unfold flightOf
  rw [baseOf_congr hj hb, hf]

theorem topSent_congr (hj : b.jnl = a.jnl) (hb : (b.net.dests.get d).base = (a.net.dests.get d).base)
    (hf : (b.net.dests.get d).flight = (a.net.dests.get d).flight) (s : Fin 32) : b.topSent d s = a.topSent d s := by
  unfold topSent
  rw [flightOf_congr hj hb hf, baseOf_congr hj hb]

/-- The bytes of a datagram come from the registers, the journal, the time and the destination. -/
theorem dataBytes_congr (hr : b.regs = a.regs) (hj : b.jnl = a.jnl) (ht : b.time = a.time) (hn : b.net = a.net) (s : Fin 32) (x y : Nat) :
    b.dataBytes d s x y = a.dataBytes d s x y := by
  have hkey : ∀ k, b.rrtKey k = a.rrtKey k := fun k => by
    unfold rrtKey rd
    rw [hr]
  unfold dataBytes recsFrom on
  rw [g_of_regs hr, g_of_regs hr, g_of_regs hr, hj, ht, hn]
  simp only [hkey]

end

/-- Which port a destination's datagrams take depends on the network and the control registers alone. -/
theorem txPort_congr {a b : Mach} (hn : b.net = a.net) (hr : ∀ off, off < 0x0D0000 → b.rd off = a.rd off) (d : Fin 8) : b.txPort d = a.txPort d := by
  have hg : ∀ f : Fld, f.a < 0x0D0000 → b.g f = a.g f := fun f hf => by
    unfold g
    rw [hr _ hf]
  have hport : b.destPort d = a.destPort d := by
    unfold destPort
    rw [hg _ (by simp only [R.RRT_D_CTRL_PORT]; omega)]
  have hup : ∀ p, b.ethUp p = a.ethUp p := fun p => by
    unfold ethUp on
    rw [hn, hg _ (by simp only [R.ETH_CTRL_EN]; omega)]
  have hknown : ∀ p, b.hopKnown d p = a.hopKnown d p := fun p => by
    unfold hopKnown on
    rw [hn, hg _ (by simp only [R.RRT_D_CTRL_STATIC]; omega)]
  unfold txPort otherPort hopUsable
  rw [hn, hport, hup, hknown, hg (R.RRT_D_CTRL_PORT d) (by simp only [R.RRT_D_CTRL_PORT]; omega)]

/-! ## What a journal record costs that is read (R269, R415) -/

theorem scRead_rd (line : Nat) (m : Mach) {off : Nat} (h : off < 0x208000) : (m.scRead line).rd off = m.rd off := by
  have hd : ∀ (m : Mach) (f), (m.onCache f).rd off = m.rd off := fun _ _ => rfl
  unfold scRead inc addTo
  dsimp only
  rw [rd_put_ne _ _ _ (by split <;> simp only [R.MSC_HIT, R.MSC_MISS] <;> omega), hd]

theorem readSlot_rd (r : JRec) (m : Mach) {off : Nat} (h : off < 0x208000) : (m.readSlot r).rd off = m.rd off := by
  have hd : (m.drawNat).2.rd off = m.rd off := rfl
  unfold readSlot
  split
  · rfl
  · dsimp only
    rw [scRead_rd _ _ h]
    split
    · rw [scRead_rd _ _ h, hd]
    · exact hd

theorem readSlots_rd (l : List JRec) (m : Mach) {off : Nat} (h : off < 0x208000) : (forEach l (fun r t => t.readSlot r) m).rd off = m.rd off :=
  forEach_mem (fun t => t.rd off = m.rd off) _ _ (fun r _ t ht => (readSlot_rd r t h).trans ht) m rfl

theorem readSlots_within (l : List JRec) (m : Mach) : Within [.regs, .cache, .draws] m (forEach l (fun r t => t.readSlot r) m) :=
  Within.loop (fun _ _ => (readSlot_within _ _).mono) (.refl _ _)

/-! ## One datagram (R354) -/

/-- The machine once a datagram has been counted. -/
def dgCounted (d : Fin 8) (p : Fin 2) (n : Nat) (resend : Bool) (m : Mach) : Mach :=
  let m1 := (((m.onDest d fun x => { x with dseq := (x.dseq + 1) % 2 ^ 32 }).inc R.RRT_DG_TX).addTo R.RRT_REC_TX n).inc (R.ETH_TX_FRAMES p)
  if resend then m1.inc R.RRT_DG_RESENT else m1

section
variable (d : Fin 8) (s : Fin 32) (p : Fin 2) (first last n : Nat) (resend : Bool) (m : Mach)

theorem sendData_eq : m.sendData d s p first last resend =
    (forEach ((m.dgCounted d p (last + 1 - first) resend).recsFrom s first last) (fun r t => t.readSlot r) (m.dgCounted d p (last + 1 - first) resend)).emit
      (.rrt p.1 d.1 s.1 first (last + 1 - first)
        ((forEach ((m.dgCounted d p (last + 1 - first) resend).recsFrom s first last) (fun r t => t.readSlot r) (m.dgCounted d p (last + 1 - first) resend)).net.dests.get d).dseq
        (forEach ((m.dgCounted d p (last + 1 - first) resend).recsFrom s first last) (fun r t => t.readSlot r) (m.dgCounted d p (last + 1 - first) resend)).time.n resend
        ((forEach ((m.dgCounted d p (last + 1 - first) resend).recsFrom s first last) (fun r t => t.readSlot r) (m.dgCounted d p (last + 1 - first) resend)).dataBytes d s first last)) := rfl

theorem dgCounted_net : (m.dgCounted d p n resend).net = (m.onDest d fun x => { x with dseq := (x.dseq + 1) % 2 ^ 32 }).net := by
  unfold dgCounted addTo
  dsimp only
  split
  · rw [inc_net, inc_net, put_net, inc_net]
  · rw [inc_net, put_net, inc_net]

theorem dgCounted_out : (m.dgCounted d p n resend).out = m.out := by
  unfold dgCounted addTo
  dsimp only
  split <;> rfl

/-- A register that counting datagrams leaves. -/
theorem dgCounted_rd {off : Nat} (h : ¬ (0x64100 ≤ off ∧ off < 0x6410C) ∧ off ≠ 0x60114 ∧ off ≠ 0x68114) : (m.dgCounted d p n resend).rd off = m.rd off := by
  have he : off ≠ (R.ETH_TX_FRAMES p).a := by simp only [R.ETH_TX_FRAMES]; omega
  have h1 : ((((m.onDest d fun x => { x with dseq := (x.dseq + 1) % 2 ^ 32 }).inc R.RRT_DG_TX).addTo R.RRT_REC_TX n).inc (R.ETH_TX_FRAMES p)).rd off = m.rd off := by
    unfold inc addTo
    rw [rd_put_ne _ _ _ he, rd_put_ne _ _ _ (by simp only [R.RRT_REC_TX]; omega), rd_put_ne _ _ _ (by simp only [R.RRT_DG_TX]; omega)]
    rfl
  unfold dgCounted
  dsimp only
  split
  · rw [inc, addTo, rd_put_ne _ _ _ (by simp only [R.RRT_DG_RESENT]; omega)]
    exact h1
  · exact h1

theorem dgCounted_tx : (m.dgCounted d p n resend).g R.RRT_DG_TX = (m.g R.RRT_DG_TX + 1) % 2 ^ 32 := by
  have he : R.RRT_DG_TX.a ≠ (R.ETH_TX_FRAMES p).a := by simp only [R.ETH_TX_FRAMES, R.RRT_DG_TX]; omega
  have h1 : ((((m.onDest d fun x => { x with dseq := (x.dseq + 1) % 2 ^ 32 }).inc R.RRT_DG_TX).addTo R.RRT_REC_TX n).inc (R.ETH_TX_FRAMES p)).g R.RRT_DG_TX =
      (m.g R.RRT_DG_TX + 1) % 2 ^ 32 := by
    rw [g_inc_ne _ _ _ he]
    unfold addTo
    rw [g_put_ne _ _ _ _ (by decide), g_inc_word _ _ rfl rfl]
    rfl
  unfold dgCounted
  dsimp only
  split
  · rw [g_inc_ne _ _ _ (by decide)]
    exact h1
  · exact h1

/-- What one datagram changes: its sequence number, its counters and what left. -/
structure Sent (a b : Mach) : Prop where
  parts : OnlyIn [.regs, .net, .cache, .draws, .out] a b
  net : b.net = (a.onDest d fun x => { x with dseq := (x.dseq + 1) % 2 ^ 32 }).net
  regs : ∀ off, off < 0x208000 → ¬ (0x64100 ≤ off ∧ off < 0x6410C) ∧ off ≠ 0x60114 ∧ off ≠ 0x68114 → b.rd off = a.rd off
  tx : b.g R.RRT_DG_TX = (a.g R.RRT_DG_TX + 1) % 2 ^ 32

theorem sendData_sent : Sent d m (m.sendData d s p first last resend) := by
  have hp := (sendData_within d s p first last resend m).parts
  have hn := dgCounted_net d p (last + 1 - first) resend m
  have hr := fun off h => dgCounted_rd d p (last + 1 - first) resend m (off := off) h
  have ht := dgCounted_tx d p (last + 1 - first) resend m
  rw [sendData_eq] at hp ⊢
  generalize m.dgCounted d p (last + 1 - first) resend = m1 at *
  have hs := fun off h => readSlots_rd (m1.recsFrom s first last) m1 (off := off) h
  have hk : (forEach (m1.recsFrom s first last) (fun r t => t.readSlot r) m1).net = m1.net := (readSlots_within _ m1).keeps .net
  generalize forEach (m1.recsFrom s first last) (fun r t => t.readSlot r) m1 = m2 at *
  refine ⟨hp, by rw [emit_net, hk, hn], fun off hlt ho => by rw [emit_rd, hs off hlt, hr off ho], ?_⟩
  rw [emit_g, ← ht]
  unfold g
  rw [hs _ (by decide)]

theorem sendData_out : (m.sendData d s p first last resend).out =
    .rrt p.1 d.1 s.1 first (last + 1 - first) (((m.net.dests.get d).dseq + 1) % 2 ^ 32) m.time.n resend
      ((m.sendData d s p first last resend).dataBytes d s first last) :: m.out := by
  have hn := dgCounted_net d p (last + 1 - first) resend m
  have ho := dgCounted_out d p (last + 1 - first) resend m
  have htime : (m.dgCounted d p (last + 1 - first) resend).time = m.time := by
    unfold dgCounted addTo
    dsimp only
    split <;> rfl
  rw [sendData_eq]
  generalize m.dgCounted d p (last + 1 - first) resend = m1 at *
  have hk := readSlots_within (m1.recsFrom s first last) m1
  generalize forEach (m1.recsFrom s first last) (fun r t => t.readSlot r) m1 = m2 at *
  have hdseq : (m2.net.dests.get d).dseq = ((m.net.dests.get d).dseq + 1) % 2 ^ 32 := by
    rw [show m2.net = m1.net from hk.keeps .net, hn]
    exact congrArg RrtDest.dseq (vmod_get_self m.net.dests d _)
  rw [emit_out, hdseq, show m2.time = m1.time from hk.keeps .time, htime, show m2.out = m1.out from hk.keeps .out, ho]
  exact congrArg (· :: m.out) (congrArg _ (dataBytes_congr rfl rfl rfl rfl s first last).symm)

end

namespace Sent

variable {d : Fin 8} {a b : Mach}

theorem own (h : Sent d a b) : b.net.dests.get d = { a.net.dests.get d with dseq := ((a.net.dests.get d).dseq + 1) % 2 ^ 32 } := by
  rw [h.net]
  exact vmod_get_self _ d _

theorem others (h : Sent d a b) {k : Fin 8} (hk : k ≠ d) : b.net.dests.get k = a.net.dests.get k := by
  rw [h.net]
  exact vmod_get_ne _ _ hk

end Sent

end Mach

end Sys2Proof.Machine

namespace Sys2Proof.Machine

set_option Elab.async false

namespace Mach

/-! ## The record that a destination is sent next (R353, R355) -/

section
variable {d : Fin 8} {k : Fin 32} {m : Mach} {r : JRec}

/-- The record a destination is sent next of a stream, in the window of a destination that has a port. -/
theorem rrtHead_spec (h : m.rrtHead d k = some r) :
    m.on (R.RRT_D_CTRL_EN d) = true ∧ (m.txPort d).isSome = true ∧ (m.waitingFor d k).find? (fun r => decide (m.topSent d k < rsnOf r)) = some r ∧
    r.released = true ∧ rsnOf r ≤ m.baseOf d k + 65536 := by
  unfold rrtHead at h
  split at h
  · cases h
  next hc =>
    simp only [Bool.or_eq_true, Bool.not_eq_true', not_or, Bool.not_eq_false, Option.isNone_iff_eq_none] at hc
    split at h
    next y hy =>
      split at h
      next hw =>
        obtain rfl := Option.some.inj h
        simp only [Bool.and_eq_true, decide_eq_true_eq] at hw
        exact ⟨hc.1, Option.isSome_iff_ne_none.mpr hc.2, hy, hw.1.1, hw.1.2⟩
      · cases h
    · cases h

theorem rrtHead_mem (h : m.rrtHead d k = some r) : r ∈ m.jnl.recs ∧ r.dests.contains d.1 = true := by
  obtain ⟨-, -, hf, -, -⟩ := rrtHead_spec h
  have hm := List.mem_of_find?_eq_some hf
  unfold waitingFor at hm
  obtain ⟨hr, hs⟩ := List.mem_filter.mp hm
  exact ⟨hr, (Bool.and_eq_true _ _ ▸ hs).2⟩

theorem topSent_lt_head (h : m.rrtHead d k = some r) : m.topSent d k < rsnOf r := by
  obtain ⟨-, -, hf, -, -⟩ := rrtHead_spec h
  simpa using List.find?_some hf

/-- Every datagram in flight ends above the base, and so does the highest RSN sent. -/
theorem baseOf_le_topSent : m.baseOf d k ≤ m.topSent d k := by
  unfold topSent
  split
  next x hx =>
    have := (List.mem_filter.mp (List.mem_of_getLast? hx)).2
    exact le_of_lt (by simpa using this)
  next => exact le_rfl

end

/-! ### The records of one datagram (R355) -/

/-- The last of consecutive records. -/
theorem runOf_getLast {n : Nat} {q e : JRec} {l : List JRec} (h : e ∈ (runOf n (some q) l).getLast?) : e ∈ l ∧ rsnOf e ≤ rsnOf q + n := by
  induction l generalizing n q with
  | nil => cases n <;> cases h
  | cons r l ih =>
    cases n with
    | zero => cases h
    | succ n =>
      unfold runOf at h
      dsimp only at h
      split at h
      next hc =>
        simp only [Bool.and_eq_true, beq_iff_eq] at hc
        have hnext := hc.1.1
        cases hl : (runOf n (some r) l).getLast? with
        | none =>
          rw [List.getLast?_eq_none_iff.mp hl] at h
          obtain rfl : r = e := by simpa using h
          exact ⟨List.mem_cons_self, by omega⟩
        | some x =>
          rw [List.getLast?_cons, hl] at h
          obtain rfl : x = e := by simpa using h
          obtain ⟨hm, hle⟩ := ih (Option.mem_def.mpr hl)
          exact ⟨List.mem_cons_of_mem _ hm, by omega⟩
      next => cases h

theorem runOf_getLast_cons {n : Nat} {r e : JRec} {l : List JRec} (h : e ∈ (runOf n none (r :: l)).getLast?) :
    e ∈ r :: l ∧ rsnOf e + 1 ≤ rsnOf r + n := by
  cases n with
  | zero => cases h
  | succ n =>
    unfold runOf at h
    dsimp only at h
    split at h
    next =>
      cases hl : (runOf n (some r) l).getLast? with
      | none =>
        rw [List.getLast?_eq_none_iff.mp hl] at h
        obtain rfl : r = e := by simpa using h
        exact ⟨List.mem_cons_self, by omega⟩
      | some x =>
        rw [List.getLast?_cons, hl] at h
        obtain rfl : x = e := by simpa using h
        obtain ⟨hm, hle⟩ := runOf_getLast (Option.mem_def.mpr hl)
        exact ⟨List.mem_cons_of_mem _ hm, by omega⟩
    next => cases h

/-- Where every element that satisfies `q` satisfies `p`, the first that satisfies `p` heads the list of those that satisfy `q`, if it does. -/
theorem filter_eq_cons_of_find? {α : Type} {l : List α} {p q : α → Bool} {x : α} (h : l.find? p = some x) (hx : q x = true)
    (hq : ∀ y, q y = true → p y = true) : ∃ r, l.filter q = x :: r := by
  obtain ⟨-, as, bs, rfl, ha⟩ := List.find?_eq_some_iff_append.mp h
  refine ⟨bs.filter q, ?_⟩
  have hnil : as.filter q = [] := List.filter_eq_nil_iff.mpr fun y hy hqy => by simpa [hq y hqy] using ha y hy
  rw [List.filter_append, hnil, List.filter_cons_of_pos hx, List.nil_append]

/-- The records of the datagram that starts at `r`. -/
def dgRecs (d : Fin 8) (k : Fin 32) (r : JRec) (m : Mach) : List JRec :=
  runOf m.maxRec none ((m.waitingFor d k).filter fun y => decide (rsnOf r ≤ rsnOf y) && decide (rsnOf y ≤ m.baseOf d k + 65536))

theorem dgRecs_last {d : Fin 8} {k : Fin 32} {m : Mach} {r e : JRec} (h : m.rrtHead d k = some r) (he : e ∈ (m.dgRecs d k r).getLast?) :
    rsnOf r ≤ rsnOf e ∧ rsnOf e ≤ m.baseOf d k + 65536 ∧ rsnOf e + 1 - rsnOf r ≤ m.maxRec := by
  obtain ⟨-, -, hf, -, hw⟩ := rrtHead_spec h
  have htop := topSent_lt_head h
  obtain ⟨l, hl⟩ := filter_eq_cons_of_find? (q := fun y => decide (rsnOf r ≤ rsnOf y) && decide (rsnOf y ≤ m.baseOf d k + 65536)) hf (by simp [hw])
    (fun y hy => by simp only [Bool.and_eq_true, decide_eq_true_eq] at hy ⊢; omega)
  unfold dgRecs at he
  rw [hl] at he
  obtain ⟨hm, hle⟩ := runOf_getLast_cons he
  rw [← hl] at hm
  have hq := (List.mem_filter.mp hm).2
  simp only [Bool.and_eq_true, decide_eq_true_eq] at hq
  exact ⟨hq.1, hq.2, by omega⟩

/-! ### The branches of RRT_DATA_SEND (R355) -/

section
variable {d : Fin 8} {k : Fin 32} {m : Mach} {r y e : JRec} {p : Fin 2}

theorem rrtSend_stopped (h : m.rrtRuns = false) : m.rrtSend d k = m := if_pos (by rw [h]; rfl)

theorem rrtSend_unheaded (h : m.rrtHead d k = none ∨ m.rrtNext = none) : m.rrtSend d k = m := by
  unfold rrtSend
  split
  · rfl
  · split
    next h1 h2 =>
      rcases h with h | h
      · rw [h] at h1
        cases h1
      · rw [h] at h2
        cases h2
    next => rfl

theorem rrtSend_waits (hr : m.rrtHead d k = some r) (hy : m.rrtNext = some y) (h : r.same y = false) : m.rrtSend d k = m := by
  unfold rrtSend
  split
  · rfl
  · split
    next h1 h2 =>
      rw [hr] at h1
      rw [hy] at h2
      cases h1
      cases h2
      exact if_pos (by rw [h]; rfl)
    next => rfl

theorem rrtSend_reads (hrun : m.rrtRuns = true) (hr : m.rrtHead d k = some r) (hy : m.rrtNext = some y) (h : r.same y = true) (he : r.early = true) :
    m.rrtSend d k = m.nvmeIssue (.readBack r.fn r.cls r.count) := by
  obtain ⟨p, hp⟩ := Option.isSome_iff_exists.mp (rrtHead_spec hr).2.1
  unfold rrtSend
  rw [if_neg (by simp [hrun]), hp, hr, hy]
  dsimp only
  rw [if_neg (by simp [h]), if_pos he]

/-- The flight list with one more datagram. -/
def flightAnd (d : Fin 8) (k : Fin 32) (r e : JRec) (m : Mach) : List RrtFlight := m.flightOf d k ++ [{ first := rsnOf r, last := rsnOf e, t := m.elapsed }]

theorem rrtSend_sends (hrun : m.rrtRuns = true) (hr : m.rrtHead d k = some r) (hy : m.rrtNext = some y) (h : r.same y = true) (he : r.early = false)
    (hlast : (m.dgRecs d k r).getLast? = some e) (hp : m.txPort d = some p) :
    m.rrtSend d k = ((m.setFlight d k (m.flightAnd d k r e)).sendData d k p (rsnOf r) (rsnOf e) false).countSent d k (rsnOf r) (rsnOf e) := by
  unfold dgRecs at hlast
  unfold rrtSend
  rw [if_neg (by simp [hrun]), hp, hr, hy]
  dsimp only
  rw [if_neg (by simp [h]), if_neg (by simp [he]), hlast]
  rfl

end

/-! ### What a first sending leaves (R355) -/

section
variable {d : Fin 8} {k : Fin 32} {m : Mach} {l : List RrtFlight}

theorem setFlight_own (h : l ≠ []) : (m.setFlight d k l).net.dests.get d = { m.net.dests.get d with flight := (m.net.dests.get d).flight.put k.1 l } := by
  have hl : l.isEmpty = false := by cases l <;> [exact absurd rfl h; rfl]
  refine (vmod_get_self m.net.dests d _).trans ?_
  rw [hl]
  rfl

theorem setFlight_others {j : Fin 8} (hj : j ≠ d) : (m.setFlight d k l).net.dests.get j = m.net.dests.get j := vmod_get_ne _ _ hj

/-- What a datagram sent for the first time leaves. -/
structure FirstSent (d : Fin 8) (k : Fin 32) (l : List RrtFlight) (a b : Mach) : Prop where
  own : b.net.dests.get d = { a.net.dests.get d with flight := (a.net.dests.get d).flight.put k.1 l, dseq := ((a.net.dests.get d).dseq + 1) % 2 ^ 32 }
  others : ∀ j, j ≠ d → b.net.dests.get j = a.net.dests.get j
  jnl : b.jnl = a.jnl
  time : b.time = a.time
  tx : b.g R.RRT_DG_TX = (a.g R.RRT_DG_TX + 1) % 2 ^ 32
  parts : OnlyIn [.regs, .tick, .net, .cache, .draws, .out] a b

variable (d k m l) in
theorem firstSent (h : l ≠ []) (p : Fin 2) (first last : Nat) :
    FirstSent d k l m (((m.setFlight d k l).sendData d k p first last false).countSent d k first last) ∧
    (((m.setFlight d k l).sendData d k p first last false).countSent d k first last).out =
      .rrt p.1 d.1 k.1 first (last + 1 - first) (((m.net.dests.get d).dseq + 1) % 2 ^ 32) m.time.n false
        ((((m.setFlight d k l).sendData d k p first last false).countSent d k first last).dataBytes d k first last) :: m.out := by
  have hset : OnlyIn [.net] m (m.setFlight d k l) := (setFlight_within d k l m).parts
  have hown := setFlight_own (m := m) (d := d) (k := k) h
  have hoth := fun j (hj : j ≠ d) => setFlight_others (m := m) (k := k) (l := l) hj
  have htx : (m.setFlight d k l).g R.RRT_DG_TX = m.g R.RRT_DG_TX := rfl
  generalize m.setFlight d k l = m1 at *
  have hs := sendData_sent d k p first last false m1
  have ho := sendData_out d k p first last false m1
  generalize m1.sendData d k p first last false = m2 at *
  have hc := countSent_within d k first last m2
  generalize m2.countSent d k first last = m3 at *
  have hnet : m3.net = m2.net := hc.keeps .net
  have hregs : m3.regs = m2.regs := hc.keeps .regs
  have hjnl : m3.jnl = m2.jnl := hc.keeps .jnl
  have htime : m3.time = m2.time := hc.keeps .time
  have hout : m3.out = m2.out := hc.keeps .out
  have hdseq : (m1.net.dests.get d).dseq = (m.net.dests.get d).dseq := by rw [hown]
  refine ⟨⟨by rw [hnet, hs.own, hown], fun j hj => by rw [hnet, hs.others hj, hoth j hj], ?_, ?_, ?_, ((hset.append hs.parts).append hc.parts).mono (by decide)⟩, ?_⟩
  · rw [hjnl, show m2.jnl = m1.jnl from hs.parts .jnl (by decide)]
    exact hset .jnl (by decide)
  · rw [htime, show m2.time = m1.time from hs.parts .time (by decide)]
    exact hset .time (by decide)
  · rw [g_of_regs hregs, hs.tx, htx]
  · rw [hout, ho, hdseq, dataBytes_congr hregs hjnl htime hnet, show m1.time = m.time from hset .time (by decide), show m1.out = m.out from hset .out (by decide)]

/-- The highest RSN sent is then that of the datagram, and the base stays. -/
theorem FirstSent.window {t : Mach} {x : RrtFlight} (h : FirstSent d k (m.flightOf d k ++ [x]) m t) (hx : m.baseOf d k < x.last) :
    t.topSent d k = x.last ∧ t.baseOf d k = m.baseOf d k := by
  have hb : t.baseOf d k = m.baseOf d k := baseOf_congr h.jnl (by rw [h.own]) k
  refine ⟨?_, hb⟩
  have hf : t.flightOf d k = m.flightOf d k ++ [x] := by
    have hfind : (t.net.dests.get d).flight.find k.1 = some (m.flightOf d k ++ [x]) := by
      rw [h.own]
      exact Tab.find_put_self _ _ _
    unfold flightOf at hfind ⊢
    rw [hfind, hb]
    dsimp only [Option.getD_some]
    rw [List.filter_append, List.filter_filter, List.filter_cons_of_pos (by simpa using hx), List.filter_nil]
    simp only [Bool.and_self]
  unfold topSent
  rw [hf, List.getLast?_concat]

end

end Mach

end Sys2Proof.Machine

namespace Sys2Proof.Machine

set_option Elab.async false

namespace Mach

/-! ## Sending again keeps a path (R355, R359) -/

/-- Datagrams leave on a path: its port, its base and its judgement stay, and so do the other destinations. -/
structure PathKept (d : Fin 8) (a b : Mach) : Prop where
  parts : OnlyIn [.regs, .tick, .net, .cache, .draws, .out] a b
  others : ∀ j, j ≠ d → b.net.dests.get j = a.net.dests.get j
  down : (b.net.dests.get d).down = (a.net.dests.get d).down
  onFb : (b.net.dests.get d).onFb = (a.net.dests.get d).onFb
  probeAt : (b.net.dests.get d).probeAt = (a.net.dests.get d).probeAt
  resends : (b.net.dests.get d).resends = (a.net.dests.get d).resends
  cfg : b.g R.RRT_CFG2_DOWN_N = a.g R.RRT_CFG2_DOWN_N

namespace PathKept

variable {d : Fin 8} {a b c : Mach}

theorem refl (a : Mach) : PathKept d a a := ⟨OnlyIn.refl _ _, fun _ _ => rfl, rfl, rfl, rfl, rfl, rfl⟩

theorem trans (h1 : PathKept d a b) (h2 : PathKept d b c) : PathKept d a c :=
  ⟨h1.parts.trans h2.parts, fun j hj => (h2.others j hj).trans (h1.others j hj), h2.down.trans h1.down, h2.onFb.trans h1.onFb,
    h2.probeAt.trans h1.probeAt, h2.resends.trans h1.resends, h2.cfg.trans h1.cfg⟩

theorem elapsed (h : PathKept d a b) : b.elapsed = a.elapsed := by
  unfold Mach.elapsed
  rw [show b.time = a.time from h.parts .time (by decide)]

theorem forEach {α : Type} (xs : List α) (f : α → Mach → Mach) (h : ∀ x m, PathKept d m (f x m)) (m : Mach) : PathKept d m (forEach xs f m) :=
  Mach.forEach_mem (PathKept d m) xs f (fun x _ t ht => ht.trans (h x t)) m (refl m)

theorem sendData (s : Fin 32) (p : Fin 2) (first last : Nat) (resend : Bool) (m : Mach) : PathKept d m (m.sendData d s p first last resend) := by
  have hs := sendData_sent d s p first last resend m
  refine ⟨hs.parts.mono (by decide), fun j hj => hs.others hj, ?_, ?_, ?_, ?_, ?_⟩
  iterate 4 rw [hs.own]
  unfold Mach.g
  rw [hs.regs _ (by decide) (by decide)]

theorem onDest (m : Mach) (u : RrtDest → RrtDest)
    (h : ∀ x, (u x).down = x.down ∧ (u x).onFb = x.onFb ∧ (u x).probeAt = x.probeAt ∧ (u x).resends = x.resends) : PathKept d m (m.onDest d u) := by
  have hself : (m.onDest d u).net.dests.get d = u (m.net.dests.get d) := vmod_get_self _ d u
  obtain ⟨h1, h2, h3, h4⟩ := h (m.net.dests.get d)
  exact ⟨(onDest_within d u m).parts.mono (by decide), fun j hj => vmod_get_ne _ u hj, by rw [hself, h1], by rw [hself, h2], by rw [hself, h3], by rw [hself, h4], rfl⟩

theorem setFlight (s : Fin 32) (l : List RrtFlight) (m : Mach) : PathKept d m (m.setFlight d s l) := onDest m _ fun _ => ⟨rfl, rfl, rfl, rfl⟩

theorem countSent (s : Fin 32) (first last : Nat) (m : Mach) : PathKept d m (m.countSent d s first last) := by
  have h := countSent_within d s first last m
  have hn : (m.countSent d s first last).net = m.net := h.keeps .net
  exact ⟨h.parts.mono (by decide), fun _ _ => by rw [hn], by rw [hn], by rw [hn], by rw [hn], by rw [hn], g_of_regs (h.keeps .regs) _⟩

end PathKept

/-! ### RRT_RESEND (R355, R359) -/

/-- Everything in flight of a stream is sent again from the base on, and counts as one more resend. -/
def resentAll (d : Fin 8) (k : Fin 32) (p : Fin 2) (m : Mach) : Mach :=
  let m2 := forEach (m.flightOf d k) (fun (y : RrtFlight) t => t.sendData d k p (max y.first (m.baseOf d k + 1)) y.last true) m
  (m2.setFlight d k ((m.flightOf d k).map fun y => { y with first := max y.first (m.baseOf d k + 1), t := m2.elapsed })).onDest d
    fun y => { y with resends := y.resends + 1 }

/-- DOWN_N resends make the destination DOWN. -/
def resendJudged (d : Fin 8) (m : Mach) : Mach :=
  if atLeast1 (m.g R.RRT_CFG2_DOWN_N) ≤ (m.net.dests.get d).resends then
    if (m.net.dests.get d).down then m else (m.destDown d).destFallback d
  else m

section
variable {d : Fin 8} {k : Fin 32} {m : Mach} {y : RrtFlight} {r : JRec} {p : Fin 2}

theorem rrtResend_stopped (h : (m.rrtRuns && m.on (R.RRT_D_CTRL_EN d) && (m.txPort d).isSome) = false) : m.rrtResend d k = m := by
  refine if_pos ?_
  cases h1 : m.rrtRuns with
  | false => rfl
  | true =>
    cases h2 : m.on (R.RRT_D_CTRL_EN d) with
    | false => rfl
    | true => cases h3 : m.txPort d <;> simp_all

theorem able_iff (h : (m.rrtRuns && m.on (R.RRT_D_CTRL_EN d) && (m.txPort d).isSome) = true) :
    (!m.rrtRuns || !m.on (R.RRT_D_CTRL_EN d) || (m.txPort d).isNone) = false := by
  simp only [Bool.and_eq_true] at h
  obtain ⟨⟨h1, h2⟩, h3⟩ := h
  rw [h1, h2, ← Option.not_isSome, h3]
  rfl

theorem rrtResend_idle (h : m.flightOf d k = []) : m.rrtResend d k = m := by
  unfold rrtResend
  rw [h]
  dsimp only
  split <;> rfl

/-- The record of a resend that was freed early and has to be read back. -/
def resendGone (d : Fin 8) (k : Fin 32) (y : RrtFlight) (m : Mach) : Option JRec :=
  (m.recsFrom k y.first (m.topSent d k)).find? fun r => r.early && r.dests.contains d.1

theorem rrtResend_reads (ha : (m.rrtRuns && m.on (R.RRT_D_CTRL_EN d) && (m.txPort d).isSome) = true) (hy : (m.flightOf d k).head? = some y)
    (hr : m.resendGone d k y = some r) : m.rrtResend d k = if m.storeIdle then m.nvmeIssue (.readBack r.fn r.cls r.count) else m := by
  obtain ⟨l, hl⟩ : ∃ l, m.flightOf d k = y :: l := List.head?_eq_some_iff.mp hy
  unfold resendGone at hr
  unfold rrtResend
  rw [if_neg (by rw [able_iff ha]; decide), hl]
  dsimp only
  rw [hr]

theorem rrtResend_sends (ha : (m.rrtRuns && m.on (R.RRT_D_CTRL_EN d) && (m.txPort d).isSome) = true) (hy : (m.flightOf d k).head? = some y)
    (hr : m.resendGone d k y = none) : ∃ p, m.txPort d = some p ∧
      m.rrtResend d k = ((m.runToElapsed (y.t + max 100 (m.g R.RRT_CFG_RESEND) * 1000)).resentAll d k p).resendJudged d := by
  obtain ⟨l, hl⟩ : ∃ l, m.flightOf d k = y :: l := List.head?_eq_some_iff.mp hy
  obtain ⟨p, hp⟩ := Option.isSome_iff_exists.mp (Bool.and_eq_true _ _ ▸ ha).2
  refine ⟨p, hp, ?_⟩
  have hc := runToElapsed_clockOnly (y.t + max 100 (m.g R.RRT_CFG_RESEND) * 1000) m
  have hp1 : (m.runToElapsed (y.t + max 100 (m.g R.RRT_CFG_RESEND) * 1000)).txPort d = some p :=
    (txPort_congr (hc.parts .net (by decide)) (fun off h => hc.regs off (by omega)) d).trans hp
  unfold resendGone at hr
  unfold rrtResend
  rw [if_neg (by rw [able_iff ha]; decide), hl]
  dsimp only
  rw [hr]
  dsimp only
  rw [hp1]
  rfl

theorem resentAll_spec (d : Fin 8) (k : Fin 32) (p : Fin 2) (m : Mach) :
    OnlyIn [.regs, .tick, .net, .cache, .draws, .out] m (m.resentAll d k p) ∧ (∀ j, j ≠ d → (m.resentAll d k p).net.dests.get j = m.net.dests.get j) ∧
    ((m.resentAll d k p).net.dests.get d).down = (m.net.dests.get d).down ∧
    ((m.resentAll d k p).net.dests.get d).resends = (m.net.dests.get d).resends + 1 ∧
    (m.resentAll d k p).g R.RRT_CFG2_DOWN_N = m.g R.RRT_CFG2_DOWN_N := by
  unfold resentAll
  extract_lets m2
  have h : PathKept d m (m2.setFlight d k ((m.flightOf d k).map fun y => { y with first := max y.first (m.baseOf d k + 1), t := m2.elapsed })) :=
    (PathKept.forEach _ _ (fun y t => .sendData k p _ _ true t) m).trans (.setFlight k _ m2)
  generalize m2.setFlight d k ((m.flightOf d k).map fun y => { y with first := max y.first (m.baseOf d k + 1), t := m2.elapsed }) = m3 at *
  have hself : (m3.onDest d fun y => { y with resends := y.resends + 1 }).net.dests.get d = { m3.net.dests.get d with resends := (m3.net.dests.get d).resends + 1 } :=
    vmod_get_self m3.net.dests d _
  refine ⟨(h.parts.append (onDest_within d _ m3).parts).mono (by decide), fun j hj => (vmod_get_ne _ _ hj).trans (h.others j hj), ?_, ?_, h.cfg⟩
  · rw [hself, ← h.down]
  · rw [hself, ← h.resends]

theorem resendJudged_spec (d : Fin 8) (m : Mach) :
    OnlyIn [.regs, .tick, .jnl, .net, .cache] m (m.resendJudged d) ∧ (∀ j, j ≠ d → (m.resendJudged d).net.dests.get j = m.net.dests.get j) ∧
    (atLeast1 (m.g R.RRT_CFG2_DOWN_N) ≤ (m.net.dests.get d).resends → ((m.resendJudged d).net.dests.get d).down = true) ∧
    ((m.net.dests.get d).resends < atLeast1 (m.g R.RRT_CFG2_DOWN_N) → m.resendJudged d = m) := by
  unfold resendJudged
  split
  next hn =>
    split
    next hd => exact ⟨OnlyIn.refl _ _, fun _ _ => rfl, fun _ => hd, fun _ => rfl⟩
    next =>
      have hf := destFallback_judged d (m.destDown d)
      have hj := (destDown_judged d m).trans hf
      exact ⟨hj.parts, hj.others, fun _ => hf.down (destDown_down d m), fun h => absurd hn (by omega)⟩
  next hn => exact ⟨OnlyIn.refl _ _, fun _ _ => rfl, fun h => absurd h hn, fun _ => rfl⟩

/-! ### RRT_FB_PROBE (R359) -/

/-- What the probe sends, once its time has come. -/
def probeSent (d : Fin 8) (m : Mach) : Mach :=
  if !m.hopUsable d (m.destPort d) then m
  else
    match m.oldestFlight d with
    | some (s, y) => m.sendData d s (m.destPort d) (max y.first (m.baseOf d s + 1)) y.last true
    | none =>
      match m.firstDatagram d with
      | some (s, a, b) => ((m.setFlight d s [{ first := a, last := b, t := m.elapsed }]).sendData d s (m.destPort d) a b false).countSent d s a b
      | none => m

theorem probeSent_kept (d : Fin 8) (m : Mach) : PathKept d m (m.probeSent d) := by
  unfold probeSent
  split
  · exact .refl m
  · split
    · exact .sendData _ _ _ _ _ m
    · split
      · exact ((PathKept.setFlight _ _ m).trans (.sendData _ _ _ _ _ _)).trans (.countSent _ _ _ _)
      · exact .refl m

theorem rrtProbe_idle (h : m.rrtRuns = false ∨ m.on (R.RRT_D_CTRL_EN d) = false ∨ ((m.net.dests.get d).onFb = false ∧ (m.net.dests.get d).down = false)) :
    m.rrtProbe d = m := by
  refine if_pos ?_
  rcases h with h | h | ⟨h1, h2⟩
  · simp [h]
  · simp [h]
  · simp [h1, h2]

/-- The instant of the next probe. -/
def probeDue (d : Fin 8) (m : Mach) : Int := (m.net.dests.get d).probeAt + atLeast1 (m.g R.RRT_CFG2_FB_PROBE) * 1000000

theorem rrtProbe_probes (h1 : m.rrtRuns = true) (h2 : m.on (R.RRT_D_CTRL_EN d) = true) (h3 : (m.net.dests.get d).onFb = true ∨ (m.net.dests.get d).down = true) :
    m.rrtProbe d = ((m.runToElapsed (m.probeDue d)).onDest d fun y => { y with probeAt := (m.runToElapsed (m.probeDue d)).elapsed }).probeSent d :=
  if_neg (by rcases h3 with h3 | h3 <;> simp [h1, h2, h3])

theorem rrtProbe_spec (h1 : m.rrtRuns = true) (h2 : m.on (R.RRT_D_CTRL_EN d) = true) (h3 : (m.net.dests.get d).onFb = true ∨ (m.net.dests.get d).down = true) :
    m.probeDue d ≤ (m.rrtProbe d).elapsed ∧ ((m.rrtProbe d).net.dests.get d).probeAt = (m.rrtProbe d).elapsed ∧
    (∀ j, j ≠ d → (m.rrtProbe d).net.dests.get j = m.net.dests.get j) ∧
    ((m.rrtProbe d).net.dests.get d).down = (m.net.dests.get d).down ∧ ((m.rrtProbe d).net.dests.get d).onFb = (m.net.dests.get d).onFb := by
  rw [rrtProbe_probes h1 h2 h3]
  have hreach := runToElapsed_reaches m (m.probeDue d)
  have hnet : (m.runToElapsed (m.probeDue d)).net = m.net := (runToElapsed_clockOnly (m.probeDue d) m).parts .net (by decide)
  generalize m.runToElapsed (m.probeDue d) = m0 at *
  have hself : (m0.onDest d fun y => { y with probeAt := m0.elapsed }).net.dests.get d = { m.net.dests.get d with probeAt := m0.elapsed } := by
    rw [← hnet]
    exact vmod_get_self m0.net.dests d _
  have hne : ∀ j, j ≠ d → (m0.onDest d fun y => { y with probeAt := m0.elapsed }).net.dests.get j = m.net.dests.get j := fun j hj => by
    rw [← hnet]
    exact vmod_get_ne _ _ hj
  have he : (m0.onDest d fun y => { y with probeAt := m0.elapsed }).elapsed = m0.elapsed := rfl
  generalize (m0.onDest d fun y => { y with probeAt := m0.elapsed }) = m1 at *
  have hk := probeSent_kept d m1
  rw [hk.elapsed, he]
  exact ⟨hreach, by rw [hk.probeAt, hself], fun j hj => (hk.others j hj).trans (hne j hj), by rw [hk.down, hself], by rw [hk.onFb, hself]⟩

end

/-! ### RRT_DEST_DISABLE and the read of the base (R356, R360) -/

section
variable (d : Fin 8) (m : Mach)

/-- A destination is disabled and n records are counted as dropped. -/
def destCleared (d : Fin 8) (n : Nat) (m : Mach) : Mach := (m.clr (R.RRT_D_CTRL_EN d)).addTo R.RRT_DEST_DROP n

/-- A destination is taken from the lists of the records, before slots are freed. -/
def destForgotten (d : Fin 8) (m : Mach) : Mach :=
  (m.onJnl fun j => { j with recs := j.recs.map fun r => { r with dests := r.dests.filter (· != d.1) } }).onDest d fun x => { dseq := x.dseq }

theorem destDisable_eq : m.destDisable d = ((m.destCleared d (m.jnl.recs.filter fun r => r.dests.contains d.1).length).destForgotten d).freeSlots := rfl

theorem not_mem_filter_ne (n : Nat) (l : List Nat) : (l.filter (· != n)).contains n = false := by
  rw [List.contains_eq_mem]
  simp

theorem destCleared_spec (n : Nat) :
    (m.destCleared d n).g (R.RRT_D_CTRL_EN d) = 0 ∧ (m.destCleared d n).g R.RRT_DEST_DROP = (m.g R.RRT_DEST_DROP + n) % 2 ^ 32 ∧
    RegsBut [(R.RRT_D_CTRL_EN d).a, R.RRT_DEST_DROP.a] m (m.destCleared d n) ∧ OnlyIn [.regs] m (m.destCleared d n) := by
  have hne : (R.RRT_D_CTRL_EN d).a ≠ R.RRT_DEST_DROP.a := by simp only [R.RRT_D_CTRL_EN, R.RRT_DEST_DROP]; omega
  unfold destCleared addTo clr
  refine ⟨?_, ?_, fun off ho => ?_, (OnlyIn.put _ _ _).trans (OnlyIn.put _ _ _)⟩
  · rw [g_put_ne _ _ _ _ hne]
    exact g_put_self _ _ _ (by simp only [R.RRT_D_CTRL_EN]; omega) (by simp only [R.RRT_D_CTRL_EN]; omega)
  · rw [g_put_self _ _ _ (by decide) (by decide), g_put_ne _ _ _ _ hne.symm]
    rfl
  · simp only [List.mem_cons, List.not_mem_nil, or_false, not_or] at ho
    rw [rd_put_ne _ _ _ ho.2]
    exact rd_put_ne _ _ _ ho.1

theorem destForgotten_spec :
    (m.destForgotten d).net.dests.get d = { dseq := (m.net.dests.get d).dseq } ∧ (∀ j, j ≠ d → (m.destForgotten d).net.dests.get j = m.net.dests.get j) ∧
    (∀ r ∈ (m.destForgotten d).jnl.recs, r.dests.contains d.1 = false) ∧ (m.destForgotten d).regs = m.regs := by
  refine ⟨vmod_get_self m.net.dests d _, fun j hj => vmod_get_ne _ _ hj, fun r hr => ?_, rfl⟩
  obtain ⟨y, -, rfl⟩ := List.mem_map.mp hr
  exact not_mem_filter_ne d.1 y.dests

/-- Every record is dropped from a destination that is disabled, and counted. -/
theorem destDisable_spec :
    (m.destDisable d).g (R.RRT_D_CTRL_EN d) = 0 ∧ (m.destDisable d).net.dests.get d = { dseq := (m.net.dests.get d).dseq } ∧
    (∀ j, j ≠ d → (m.destDisable d).net.dests.get j = m.net.dests.get j) ∧ (∀ r ∈ (m.destDisable d).jnl.recs, r.dests.contains d.1 = false) ∧
    (m.destDisable d).g R.RRT_DEST_DROP = (m.g R.RRT_DEST_DROP + (m.jnl.recs.filter fun r => r.dests.contains d.1).length) % 2 ^ 32 ∧
    RegsBut [(R.RRT_D_CTRL_EN d).a, R.RRT_DEST_DROP.a] m (m.destDisable d) := by
  rw [destDisable_eq]
  generalize (m.jnl.recs.filter fun r => r.dests.contains d.1).length = n
  obtain ⟨hen, hdrop, hbut, hparts⟩ := destCleared_spec d m n
  have hnet : (m.destCleared d n).net = m.net := hparts .net (by decide)
  generalize m.destCleared d n = m1 at *
  obtain ⟨hown, hoth, hrecs, hregs⟩ := destForgotten_spec d m1
  have hfree := fun r (h : r ∈ (m1.destForgotten d).freeSlots.jnl.recs) => freeSlots_recs_mem h
  have hr2 : (m1.destForgotten d).freeSlots.regs = m1.regs := hregs
  have hn2 : (m1.destForgotten d).freeSlots.net = (m1.destForgotten d).net := rfl
  generalize (m1.destForgotten d).freeSlots = m2 at *
  exact ⟨by rw [g_of_regs hr2, hen], by rw [hn2, hown, hnet], fun j hj => by rw [hn2, hoth j hj, hnet], fun r hr => hrecs r (hfree r hr),
    by rw [g_of_regs hr2, hdrop], RegsBut.of_regs hbut hr2⟩

end

/-- A read of a latched high word and an answered low one. -/
def latchHi (hi lo v : Nat) (m : Mach) : Mach := (m.wr hi (BitVec.ofNat 32 (v / 2 ^ 32))).emit (.readValue lo (BitVec.ofNat 32 v))

theorem latchHi_spec (hi lo v : Nat) (m : Mach) :
    (m.latchHi hi lo v).rd hi = BitVec.ofNat 32 (v / 2 ^ 32) ∧ (m.latchHi hi lo v).out = .readValue lo (BitVec.ofNat 32 v) :: m.out ∧
    RegsBut [hi] m (m.latchHi hi lo v) :=
  ⟨rd_wr_self _ _ _, rfl, fun _ ho => rd_wr_ne m _ (by simpa using ho)⟩

theorem destAckRead_eq (d : Fin 8) (m : Mach) :
    m.destAckRead d = m.latchHi (R.RRT_D_ACK_HI_A d) (R.RRT_D_ACK_LO_A d) (m.baseOf d (Fin.ofNat 32 (m.g (R.RRT_D_SEL d)))) := by
  unfold destAckRead latchHi
  rfl

end Mach

end Sys2Proof.Machine

namespace Sys2Proof.Machine

set_option Elab.async false

namespace Mach

/-! ## RRT_ACK (R356, R358, R359) -/

/-- What an acknowledgement of a destination has done to the records: those it covers no longer wait for it. -/
def ackCovered (d : Fin 8) (s : Fin 32) (rsn : Nat) (r : JRec) : JRec :=
  if 4 * r.fn.1 + r.cls = s.1 ∧ rsnOf r ≤ rsn then { r with dests := r.dests.filter (· != d.1) } else r

section
variable {d : Fin 8} {s : Fin 32} {m : Mach}

/-- An acknowledgement within what was sent moves the base and frees the records up to it. -/
theorem ackAdvance_spec (rsn : Nat) :
    (∀ r ∈ (m.ackAdvance d s rsn).jnl.recs, ∃ y ∈ m.jnl.recs, r = ackCovered d s rsn y) ∧
    ((m.ackAdvance d s rsn).net.dests.get d).down = false ∧ ((m.ackAdvance d s rsn).net.dests.get d).resends = 0 ∧
    ((m.ackAdvance d s rsn).net.dests.get d).base.find s.1 = some rsn ∧
    (∀ j, j ≠ d → (m.ackAdvance d s rsn).net.dests.get j = m.net.dests.get j) := by
  unfold ackAdvance
  extract_lets fl m1 m2
  have hjnl : ∀ r, r ∈ m2.jnl.recs → ∃ y ∈ m.jnl.recs, r = ackCovered d s rsn y := fun r hr => by
    obtain ⟨y, hy, rfl⟩ := List.mem_map.mp hr
    exact ⟨y, hy, rfl⟩
  have hown : m2.net.dests.get d = { m.net.dests.get d with base := (m.net.dests.get d).base.put s.1 rsn, resends := 0, down := false } :=
    vmod_get_self m.net.dests d _
  have hoth : ∀ j, j ≠ d → m2.net.dests.get j = m.net.dests.get j := fun j hj => vmod_get_ne _ _ hj
  clear_value m2
  have hset : ∀ l, ((m2.setFlight d s l).net.dests.get d).down = false ∧ ((m2.setFlight d s l).net.dests.get d).resends = 0 ∧
      ((m2.setFlight d s l).net.dests.get d).base.find s.1 = some rsn ∧ (m2.setFlight d s l).jnl = m2.jnl ∧
      ∀ j, j ≠ d → (m2.setFlight d s l).net.dests.get j = m2.net.dests.get j := fun l => by
    have hself : (m2.setFlight d s l).net.dests.get d = { m2.net.dests.get d with
        flight := if l.isEmpty then (m2.net.dests.get d).flight.erase s else (m2.net.dests.get d).flight.put s l } := vmod_get_self m2.net.dests d _
    rw [hself, hown]
    exact ⟨rfl, rfl, Tab.find_put_self _ _ _, rfl, fun j hj => setFlight_others hj⟩
  obtain ⟨h1, h2, h3, h4, h5⟩ := hset (fl.map fun x => { x with first := max x.first (rsn + 1) })
  generalize m2.setFlight d s (fl.map fun x => { x with first := max x.first (rsn + 1) }) = m3 at *
  have hnet : m3.freeSlots.net = m3.net := rfl
  rw [hnet]
  exact ⟨fun r hr => hjnl r (h4 ▸ freeSlots_recs_mem hr), h1, h2, h3, fun j hj => (h5 j hj).trans (hoth j hj)⟩

theorem ackAuthentic_congr {a b : Mach} (h : ∀ off, 0x64200 ≤ off ∧ off < 0x64500 → b.rd off = a.rd off) (x : RrtAckPkt) :
    b.ackAuthentic d x = a.ackAuthentic d x := by
  have hg : ∀ f : Fld, 0x64200 ≤ f.a ∧ f.a < 0x64500 → b.g f = a.g f := fun f hf => by
    unfold g
    rw [h _ hf]
  have hkey : b.rrtKey (a.g (R.RRT_D_CTRL_KEY d)) = a.rrtKey (a.g (R.RRT_D_CTRL_KEY d)) := by
    have hk : a.g (R.RRT_D_CTRL_KEY d) < 8 := by
      have := Nat.mod_lt ((a.rd (R.RRT_D_CTRL_KEY d).a).toNat / 2 ^ 24) (show 0 < 8 by decide)
      simpa [g, bitsN, R.RRT_D_CTRL_KEY] using this
    unfold rrtKey
    exact List.flatMap_congr fun w hw => by rw [h _ (by have := List.mem_range.mp hw; simp only [R.RRT_KEY_A]; omega)]
  unfold ackAuthentic on
  rw [hg _ (by simp only [R.RRT_D_CTRL_AUTH]; omega), hg (R.RRT_D_CTRL_KEY d) (by simp only [R.RRT_D_CTRL_KEY]; omega), hkey]

theorem authFail_spec (p : Fin 2) (m : Mach) :
    (m.authFail p).g R.RRT_AUTH_FAIL = (m.g R.RRT_AUTH_FAIL + 1) % 2 ^ 32 ∧ (m.authFail p).net.dests = m.net.dests := by
  have h1 : (m.inc R.RRT_AUTH_FAIL).g R.RRT_AUTH_FAIL = (m.g R.RRT_AUTH_FAIL + 1) % 2 ^ 32 := g_inc_word _ _ rfl rfl
  unfold authFail
  extract_lets m1 fresh
  split
  · have hr := health_recOnly H.rrtAuthFail (.eth p) [] (m1.onNet fun n => { n with authAt := some m1.elapsed })
    have hn := hr.parts .net (by decide)
    exact ⟨(hr.g _ (by decide)).trans h1, congrArg (fun x => x.dests) hn⟩
  · exact ⟨h1, rfl⟩

/-- The machine that has taken an authentic acknowledgement, before its RSN counts. -/
def ackTaken (d : Fin 8) (a : RrtAckPkt) (m : Mach) : Mach :=
  if a.port = (m.inc R.RRT_ACK_RX).destPort d then (m.inc R.RRT_ACK_RX).onDest d fun x => { x with onFb := false } else m.inc R.RRT_ACK_RX

/-- What its RSN then does. -/
def ackJudged (d : Fin 8) (s : Fin 32) (rsn : Nat) (m : Mach) : Mach :=
  if m.topSent d s < rsn then m.inc R.RRT_ACK_BAD else if m.baseOf d s < rsn then m.ackAdvance d s rsn else m

theorem rrtAck_down {a : RrtAckPkt} (h : m.ethUp a.port = false) : m.rrtAck d a = m := if_pos (by rw [h]; rfl)

theorem rrtAck_foreign {a : RrtAckPkt} (h : m.ethUp a.port = true)
    (ha : a.srcOk = false ∨ (m.ethArrived a.port (R.ETH_RRT_RX a.port)).on (R.RRT_D_CTRL_EN d) = false) :
    m.rrtAck d a = m.ethArrived a.port (R.ETH_RRT_RX a.port) := by
  unfold rrtAck
  rw [if_neg (by simp [h])]
  exact if_pos (by rcases ha with ha | ha <;> simp [ha])

theorem rrtAck_forged {a : RrtAckPkt} (h : m.ethUp a.port = true) (h1 : a.srcOk = true)
    (h2 : (m.ethArrived a.port (R.ETH_RRT_RX a.port)).on (R.RRT_D_CTRL_EN d) = true)
    (h3 : (m.ethArrived a.port (R.ETH_RRT_RX a.port)).ackAuthentic d a = false) :
    m.rrtAck d a = (m.ethArrived a.port (R.ETH_RRT_RX a.port)).authFail a.port := by
  unfold rrtAck
  rw [if_neg (by simp [h])]
  dsimp only
  rw [if_neg (by simp [h1, h2]), if_pos (by simp [h3])]

theorem rrtAck_taken {a : RrtAckPkt} (h : m.ethUp a.port = true) (h1 : a.srcOk = true)
    (h2 : (m.ethArrived a.port (R.ETH_RRT_RX a.port)).on (R.RRT_D_CTRL_EN d) = true)
    (h3 : (m.ethArrived a.port (R.ETH_RRT_RX a.port)).ackAuthentic d a = true) :
    m.rrtAck d a = ((m.ethArrived a.port (R.ETH_RRT_RX a.port)).ackTaken d a).ackJudged d (stream a.fn a.cls) a.rsn := by
  unfold rrtAck
  rw [if_neg (by simp [h])]
  dsimp only
  rw [if_neg (by simp [h1, h2]), if_neg (by simp [h3])]
  rfl

theorem ackTaken_spec (a : RrtAckPkt) :
    (m.ackTaken d a).g R.RRT_ACK_RX = (m.g R.RRT_ACK_RX + 1) % 2 ^ 32 ∧ (m.ackTaken d a).g R.RRT_ACK_BAD = m.g R.RRT_ACK_BAD ∧
    (m.ackTaken d a).jnl = m.jnl ∧ (∀ j, j ≠ d → (m.ackTaken d a).net.dests.get j = m.net.dests.get j) ∧
    ((m.ackTaken d a).net.dests.get d).base = (m.net.dests.get d).base ∧ ((m.ackTaken d a).net.dests.get d).flight = (m.net.dests.get d).flight ∧
    OnlyIn [.regs, .net] m (m.ackTaken d a) := by
  have hrx : (m.inc R.RRT_ACK_RX).g R.RRT_ACK_RX = (m.g R.RRT_ACK_RX + 1) % 2 ^ 32 := g_inc_word _ _ rfl rfl
  have hbad : (m.inc R.RRT_ACK_RX).g R.RRT_ACK_BAD = m.g R.RRT_ACK_BAD := g_inc_ne _ _ _ (by decide)
  have hp : OnlyIn [.regs] m (m.inc R.RRT_ACK_RX) := OnlyIn.inc _ _
  have hnet : (m.inc R.RRT_ACK_RX).net = m.net := rfl
  have hjnl : (m.inc R.RRT_ACK_RX).jnl = m.jnl := rfl
  unfold ackTaken
  generalize m.inc R.RRT_ACK_RX = m1 at *
  split
  · have hself : (m1.onDest d fun x => { x with onFb := false }).net.dests.get d = { m1.net.dests.get d with onFb := false } := vmod_get_self m1.net.dests d _
    refine ⟨hrx, hbad, hjnl, fun j hj => ?_, by rw [hself, hnet], by rw [hself, hnet], (hp.append (onDest_within d _ m1).parts).mono (by decide)⟩
    rw [← hnet]
    exact vmod_get_ne _ _ hj
  · exact ⟨hrx, hbad, hjnl, fun j _ => by rw [hnet], by rw [hnet], by rw [hnet], hp.mono (by decide)⟩

/-- What an authentic acknowledgement leaves, by where its RSN lies. -/
structure AckDone (d : Fin 8) (s : Fin 32) (rsn : Nat) (a b : Mach) : Prop where
  rx : b.g R.RRT_ACK_RX = (a.g R.RRT_ACK_RX + 1) % 2 ^ 32
  others : ∀ j, j ≠ d → b.net.dests.get j = a.net.dests.get j
  bad : a.topSent d s < rsn → b.g R.RRT_ACK_BAD = (a.g R.RRT_ACK_BAD + 1) % 2 ^ 32 ∧ b.jnl = a.jnl ∧ (b.net.dests.get d).base = (a.net.dests.get d).base
  old : rsn ≤ a.topSent d s → rsn ≤ a.baseOf d s → b.jnl = a.jnl ∧ (b.net.dests.get d).base = (a.net.dests.get d).base
  advance : rsn ≤ a.topSent d s → a.baseOf d s < rsn → (∀ r ∈ b.jnl.recs, ∃ y ∈ a.jnl.recs, r = ackCovered d s rsn y) ∧
    (b.net.dests.get d).down = false ∧ (b.net.dests.get d).resends = 0 ∧ (b.net.dests.get d).base.find s.1 = some rsn
  parts : OnlyIn [.regs, .jnl, .net] a b

theorem ackDone (a : RrtAckPkt) (rsn : Nat) : AckDone d s rsn m ((m.ackTaken d a).ackJudged d s rsn) := by
  obtain ⟨hrx, hbad, hjnl, hoth, hbase, hflight, hp⟩ := ackTaken_spec (m := m) (d := d) a
  have htop := topSent_congr hjnl hbase hflight s
  have hb := baseOf_congr hjnl hbase s
  unfold ackJudged
  rw [htop, hb]
  generalize m.ackTaken d a = m1 at *
  split
  next h =>
    refine ⟨?_, fun j hj => hoth j hj, fun _ => ⟨?_, hjnl, hbase⟩, fun h' _ => absurd h (by omega), fun h' _ => absurd h (by omega),
      (hp.append (OnlyIn.inc _ _)).mono (by decide)⟩
    · rw [g_inc_ne _ _ _ (by decide), hrx]
    · rw [g_inc_word _ _ rfl rfl, hbad]
  next h =>
    split
    next h2 =>
      obtain ⟨hr, hd, hn, hf, ho⟩ := ackAdvance_spec (d := d) (s := s) (m := m1) rsn
      have hw := ackAdvance_within d s rsn m1
      refine ⟨by rw [g_of_regs (hw.keeps .regs), hrx], fun j hj => (ho j hj).trans (hoth j hj), fun h' => absurd h' h, fun _ h' => absurd h2 (by omega),
        fun _ _ => ⟨by rw [← hjnl]; exact hr, hd, hn, hf⟩, (hp.append hw.parts).mono (by decide)⟩
    next h2 =>
      exact ⟨hrx, hoth, fun h' => absurd h' h, fun _ _ => ⟨hjnl, hbase⟩, fun _ h' => absurd h' h2, hp.mono (by decide)⟩

end

/-- What an acknowledgement that arrived finds: the path and its registers as before. -/
structure AckSeen (d : Fin 8) (a : RrtAckPkt) (m t : Mach) : Prop where
  rx : t.g (R.ETH_RRT_RX a.port) = (m.g (R.ETH_RRT_RX a.port) + 1) % 2 ^ 32
  net : t.net = m.net
  jnl : t.jnl = m.jnl
  regs : ∀ off, 0x64100 ≤ off ∧ off < 0x64500 → t.rd off = m.rd off

theorem ackSeen (d : Fin 8) (a : RrtAckPkt) (m : Mach) :
    AckSeen d a m ((m.stir 4 a.port).ethArrived a.port (R.ETH_RRT_RX a.port)) := by
  have hk : RxKind a.port (R.ETH_RRT_RX a.port) := rxKind_of_offset (k := 0x60128) (by decide)
  have hw := stir_roused 4 a.port m (by decide)
  generalize m.stir 4 a.port = m0 at *
  obtain ⟨hbut, hparts⟩ := ethArrived_quiet (p := a.port) (c := R.ETH_RRT_RX a.port) (m := m0)
  have hrx := (ethArrived_seen (m := m0) hk).2
  have hg : m0.g (R.ETH_RRT_RX a.port) = m.g (R.ETH_RRT_RX a.port) := by
    unfold g
    rw [hw.low _ (by simp only [R.ETH_RRT_RX]; omega) (by simp only [R.ETH_RRT_RX, R.PWR_WAKE_LAST_SOURCE]; omega)]
  refine ⟨hrx.trans (by rw [hg]), (hparts .net (by decide)).trans (hw.parts .net (by decide)), (hparts .jnl (by decide)).trans (hw.parts .jnl (by decide)),
    fun off h => ?_⟩
  rw [hbut off (by simp only [R.ETH_RRT_RX, R.ETH_RX_FRAMES, List.mem_cons, List.not_mem_nil, or_false]; omega)]
  exact hw.low off (by omega) (by simp only [R.PWR_WAKE_LAST_SOURCE]; omega)

theorem AckSeen.g {d : Fin 8} {a : RrtAckPkt} {m t : Mach} (h : AckSeen d a m t) (f : Fld) (hf : 0x64100 ≤ f.a ∧ f.a < 0x64500) : t.g f = m.g f := by
  unfold Mach.g
  rw [h.regs _ hf]

end Mach

section
variable {s : State} {d : Fin 8} {k : Fin 32} {a : RrtAckPkt}

/-- Nothing leaves while the stream's head is not the reader's next. -/
theorem rrtDataSend_waits (h : ∀ r y, s.rrtRuns = true → s.rrtHead d k = some r → s.rrtNext = some y → r.same y = false) : Idles (.rrtDataSend d k) s := by
  refine idles_of_act (f := Mach.rrtSend d k) rfl ?_
  cases hrun : s.rrtRuns with
  | false => exact Mach.rrtSend_stopped hrun
  | true =>
    cases hr : s.rrtHead d k with
    | none => exact Mach.rrtSend_unheaded (.inl hr)
    | some r =>
      cases hy : s.rrtNext with
      | none => exact Mach.rrtSend_unheaded (.inr hy)
      | some y =>
        exact Mach.rrtSend_waits hr hy (h r y hrun hr hy)

theorem rrt_unable (h : (s.rrtRuns && s.on (R.RRT_D_CTRL_EN d) && (s.txPort d).isSome) = false) : Idles (.rrtDataSend d k) s ∧ Idles (.rrtResend d k) s := by
  refine ⟨idles_of_act (f := Mach.rrtSend d k) rfl ?_, idles_of_act (f := Mach.rrtResend d k) rfl (Mach.rrtResend_stopped h)⟩
  cases hrun : s.rrtRuns with
  | false => exact Mach.rrtSend_stopped hrun
  | true =>
    cases hr : s.rrtHead d k with
    | none => exact Mach.rrtSend_unheaded (.inl hr)
    | some r =>
      obtain ⟨hen, hp, -⟩ := Mach.rrtHead_spec hr
      rw [hrun, hen, hp] at h
      exact absurd h (by decide)

variable (s d) in
theorem rrtDestDisable_drops :
    Does (.rrtDestDisable d) s (fun t =>
      t.g (R.RRT_D_CTRL_EN d) = 0 ∧ t.net.dests.get d = { dseq := (s.net.dests.get d).dseq } ∧ (∀ j, j ≠ d → t.net.dests.get j = s.net.dests.get j) ∧
      (∀ r ∈ t.jnl.recs, r.dests.contains d.1 = false) ∧
      t.g R.RRT_DEST_DROP = (s.g R.RRT_DEST_DROP + (s.jnl.recs.filter fun r => r.dests.contains d.1).length) % 2 ^ 32 ∧
      RegsBut [(R.RRT_D_CTRL_EN d).a, R.RRT_DEST_DROP.a] s.toMach t ∧ OnlyIn [.regs, .jnl, .net] s.toMach t) := by
  obtain ⟨h1, h2, h3, h4, h5, h6⟩ := Mach.destDisable_spec d s.toMach
  exact does_of_act (f := Mach.destDisable d) rfl rfl ⟨h1, h2, h3, h4, h5, h6, (Mach.destDisable_within d s.toMach).parts⟩

variable (s d) in
theorem rrtDAckRead_answers :
    Does (.rrtDAckRead d) s (fun t =>
      let v := s.baseOf d (Fin.ofNat 32 (s.g (R.RRT_D_SEL d)))
      t.rd (R.RRT_D_ACK_HI_A d) = BitVec.ofNat 32 (v / 2 ^ 32) ∧ t.out = .readValue (R.RRT_D_ACK_LO_A d) (BitVec.ofNat 32 v) :: s.out ∧
      RegsBut [R.RRT_D_ACK_HI_A d] s.toMach t ∧ OnlyIn [.regs, .out] s.toMach t) := by
  have hw := (Mach.destAckRead_within d s.toMach).parts
  rw [Mach.destAckRead_eq] at hw
  obtain ⟨h1, h2, h3⟩ := Mach.latchHi_spec (R.RRT_D_ACK_HI_A d) (R.RRT_D_ACK_LO_A d) (s.baseOf d (Fin.ofNat 32 (s.g (R.RRT_D_SEL d)))) s.toMach
  exact does_of_act (f := Mach.destAckRead d) rfl (Mach.destAckRead_eq d s.toMach) ⟨h1, h2, h3, hw⟩

end

end Sys2Proof.Machine

namespace Sys2Proof.Machine

set_option Elab.async false

section
variable {s : State} {d : Fin 8} {k : Fin 32}

/-! ## RRT_ACK on a port that is up (R356, R358) -/

section
variable {a : RrtAckPkt}

/-- The machine in which the acknowledgement has arrived. -/
def Mach.ackHere (a : RrtAckPkt) (m : Mach) : Mach := (m.stir 4 a.port).ethArrived a.port (R.ETH_RRT_RX a.port)

theorem ackHere_stirred {l : List Part} {t : Mach} (h : OnlyIn l (s.toMach.ackHere a) t) (hr : Part.regs ∈ l) (hl : Part.sleep ∉ l) : Stirred l s.toMach t := by
  refine (Mach.stir_roused 4 a.port s.toMach (by decide)).stirred (c := t) ?_ hl
  have hp : OnlyIn l (s.toMach.stir 4 a.port) (s.toMach.ackHere a) := (Mach.ethArrived_onlyIn _ _ _).mono (by simpa using hr)
  exact hp.trans h

/-- An acknowledgement on a port that is up, by what its checks find. -/
theorem rrtAck_up (h : s.ethUp a.port = true) :
    (a.srcOk = false ∨ s.on (R.RRT_D_CTRL_EN d) = false →
      (if s.ethUp a.port then s.stir 4 a.port else s.toMach).rrtAck d a = s.toMach.ackHere a) ∧
    (a.srcOk = true → s.on (R.RRT_D_CTRL_EN d) = true → s.ackAuthentic d a = false →
      (if s.ethUp a.port then s.stir 4 a.port else s.toMach).rrtAck d a = (s.toMach.ackHere a).authFail a.port) ∧
    (a.srcOk = true → s.on (R.RRT_D_CTRL_EN d) = true → s.ackAuthentic d a = true →
      (if s.ethUp a.port then s.stir 4 a.port else s.toMach).rrtAck d a =
        ((s.toMach.ackHere a).ackTaken d a).ackJudged d (Mach.stream a.fn a.cls) a.rsn) := by
  have hw := Mach.stir_roused 4 a.port s.toMach (by decide)
  have hs := Mach.ackSeen d a s.toMach
  have hup : (s.toMach.stir 4 a.port).ethUp a.port = true := by
    have hlink : (s.toMach.stir 4 a.port).net = s.net := hw.parts .net (by decide)
    unfold Mach.ethUp Mach.on Mach.g at h ⊢
    rw [hlink, hw.low _ (by simp only [R.ETH_CTRL_EN]; omega) (by simp only [R.ETH_CTRL_EN, R.PWR_WAKE_LAST_SOURCE]; omega)]
    exact h
  have hen : (s.toMach.ackHere a).on (R.RRT_D_CTRL_EN d) = s.on (R.RRT_D_CTRL_EN d) := by
    unfold Mach.on
    rw [Mach.ackHere, hs.g _ (by simp only [R.RRT_D_CTRL_EN]; omega)]
  have hau : (s.toMach.ackHere a).ackAuthentic d a = s.ackAuthentic d a :=
    Mach.ackAuthentic_congr (fun off ho => hs.regs off (by omega)) a
  rw [if_pos h]
  exact ⟨fun h1 => Mach.rrtAck_foreign hup (h1.imp id hen.trans), fun h1 h2 h3 => Mach.rrtAck_forged hup h1 (hen.trans h2) (hau.trans h3),
    fun h1 h2 h3 => Mach.rrtAck_taken hup h1 (hen.trans h2) (hau.trans h3)⟩

theorem rrtAck_checked (h : s.ethUp a.port = true) :
    let ks := Mach.stream a.fn a.cls
    (a.srcOk = false ∨ s.on (R.RRT_D_CTRL_EN d) = false → Does (.rrtAck d a) s fun t =>
      t.g (R.ETH_RRT_RX a.port) = (s.g (R.ETH_RRT_RX a.port) + 1) % 2 ^ 32 ∧ t.jnl = s.jnl ∧ t.net = s.net ∧ Stirred [.regs] s.toMach t) ∧
    (a.srcOk = true → s.on (R.RRT_D_CTRL_EN d) = true → s.ackAuthentic d a = false → Does (.rrtAck d a) s fun t =>
      t.g R.RRT_AUTH_FAIL = (s.g R.RRT_AUTH_FAIL + 1) % 2 ^ 32 ∧ t.net.dests = s.net.dests ∧ Stirred [.regs, .tick, .jnl, .net, .cache] s.toMach t) ∧
    (a.srcOk = true → s.on (R.RRT_D_CTRL_EN d) = true → s.ackAuthentic d a = true → Does (.rrtAck d a) s fun t =>
      t.g R.RRT_ACK_RX = (s.g R.RRT_ACK_RX + 1) % 2 ^ 32 ∧ (∀ j, j ≠ d → t.net.dests.get j = s.net.dests.get j) ∧
      (s.topSent d ks < a.rsn → t.g R.RRT_ACK_BAD = (s.g R.RRT_ACK_BAD + 1) % 2 ^ 32 ∧ t.jnl = s.jnl ∧
        (t.net.dests.get d).base = (s.net.dests.get d).base) ∧
      (a.rsn ≤ s.topSent d ks → a.rsn ≤ s.baseOf d ks → t.jnl = s.jnl ∧ (t.net.dests.get d).base = (s.net.dests.get d).base) ∧
      (a.rsn ≤ s.topSent d ks → s.baseOf d ks < a.rsn →
        (∀ r ∈ t.jnl.recs, 4 * r.fn.1 + r.cls = ks.1 → Mach.rsnOf r ≤ a.rsn → r.dests.contains d.1 = false) ∧
        (t.net.dests.get d).down = false ∧ (t.net.dests.get d).resends = 0 ∧ (t.net.dests.get d).base.find ks.1 = some a.rsn ∧
        (∀ r ∈ t.jnl.recs, r ∈ s.jnl.recs ∨ ∃ y ∈ s.jnl.recs, r = { y with dests := y.dests.filter (· != d.1) })) ∧
      Stirred [.regs, .jnl, .net] s.toMach t) := by
  intro ks
  obtain ⟨hforeign, hforged, htaken⟩ := rrtAck_up (s := s) (d := d) (a := a) h
  have hs : Mach.AckSeen d a s.toMach (s.toMach.ackHere a) := Mach.ackSeen d a s.toMach
  have hst := fun l t => ackHere_stirred (s := s) (a := a) (l := l) (t := t)
  generalize s.toMach.ackHere a = m at *
  refine ⟨fun h1 => ?_, fun h1 h2 h3 => ?_, fun h1 h2 h3 => ?_⟩
  · exact does_of_act (f := fun m => (if m.ethUp a.port then m.stir 4 a.port else m).rrtAck d a) rfl (hforeign h1)
      ⟨hs.rx, hs.jnl, hs.net, hst _ _ (OnlyIn.refl _ _) (by decide) (by decide)⟩
  · obtain ⟨hf, hn⟩ := Mach.authFail_spec a.port m
    exact does_of_act (f := fun m => (if m.ethUp a.port then m.stir 4 a.port else m).rrtAck d a) rfl (hforged h1 h2 h3)
      ⟨by rw [hf, hs.g _ (by decide)], by rw [hn, hs.net], hst _ _ (Mach.authFail_within _ _).parts (by decide) (by decide)⟩
  · have hd := Mach.ackDone (d := d) (s := ks) (m := m) a a.rsn
    have htop : m.topSent d ks = s.topSent d ks := Mach.topSent_congr hs.jnl (by rw [hs.net]) (by rw [hs.net]) ks
    have hbase : m.baseOf d ks = s.baseOf d ks := Mach.baseOf_congr hs.jnl (by rw [hs.net]) ks
    refine does_of_act (f := fun m => (if m.ethUp a.port then m.stir 4 a.port else m).rrtAck d a) rfl (htaken h1 h2 h3)
      ⟨by rw [hd.rx, hs.g _ (by decide)], fun j hj => by rw [hd.others j hj, hs.net], fun ht => ?_, fun ht hb => ?_, fun ht hb => ?_,
        hst _ _ hd.parts (by decide) (by decide)⟩
    · obtain ⟨hb, hj, hx⟩ := hd.bad (by rw [htop]; exact ht)
      exact ⟨by rw [hb, hs.g _ (by decide)], hj.trans hs.jnl, by rw [hx, hs.net]⟩
    · obtain ⟨hj, hx⟩ := hd.old (by rw [htop]; exact ht) (by rw [hbase]; exact hb)
      exact ⟨hj.trans hs.jnl, by rw [hx, hs.net]⟩
    · obtain ⟨hr, hdn, hre, hbs⟩ := hd.advance (by rw [htop]; exact ht) (by rw [hbase]; exact hb)
      rw [hs.jnl] at hr
      refine ⟨fun r hm hk hle => ?_, hdn, hre, hbs, fun r hm => ?_⟩
      · obtain ⟨y, -, rfl⟩ := hr r hm
        unfold Mach.ackCovered at hk hle ⊢
        split
        next => exact Mach.not_mem_filter_ne d.1 y.dests
        next hc =>
          rw [if_neg hc] at hk hle
          exact absurd ⟨hk, hle⟩ hc
      · obtain ⟨y, hy, rfl⟩ := hr r hm
        unfold Mach.ackCovered
        split
        · exact .inr ⟨y, hy, rfl⟩
        · exact .inl hy

end

/-! ## RRT_DATA_SEND and RRT_RESEND (R355, R359) -/

theorem rrtDataSend_reads {r y : JRec} (hrun : s.rrtRuns = true) (hr : s.rrtHead d k = some r) (hy : s.rrtNext = some y) (h : r.same y = true)
    (he : r.early = true) : Does (.rrtDataSend d k) s fun t =>
      t.nvs.op = some (.readBack r.fn r.cls r.count) ∧ t.net = s.net ∧ t.jnl = s.jnl ∧ OnlyIn [.nvs, .out] s.toMach t := by
  have hw := Mach.nvmeIssue_within (.readBack r.fn r.cls r.count) s.toMach
  exact does_of_act (f := Mach.rrtSend d k) rfl (Mach.rrtSend_reads hrun hr hy h he) ⟨rfl, hw.keeps .net, hw.keeps .jnl, hw.parts⟩

theorem rrtDataSend_sends {r y e : JRec} {p : Fin 2} (hrun : s.rrtRuns = true) (hr : s.rrtHead d k = some r) (hy : s.rrtNext = some y)
    (h : r.same y = true) (he : r.early = false) (hlast : (s.dgRecs d k r).getLast? = some e) (hp : s.txPort d = some p) :
    Does (.rrtDataSend d k) s fun t =>
      let n := Mach.rsnOf e + 1 - Mach.rsnOf r
      n ≤ s.maxRec ∧ Mach.rsnOf e ≤ s.baseOf d k + 65536 ∧
      t.out = .rrt p.1 d.1 k.1 (Mach.rsnOf r) n (((s.net.dests.get d).dseq + 1) % 2 ^ 32) s.time.n false
        (t.dataBytes d k (Mach.rsnOf r) (Mach.rsnOf e)) :: s.out ∧
      (t.net.dests.get d).dseq = ((s.net.dests.get d).dseq + 1) % 2 ^ 32 ∧ t.topSent d k = Mach.rsnOf e ∧ t.baseOf d k = s.baseOf d k ∧
      (∀ j, j ≠ d → t.net.dests.get j = s.net.dests.get j) ∧
      t.g R.RRT_DG_TX = (s.g R.RRT_DG_TX + 1) % 2 ^ 32 ∧ t.jnl = s.jnl ∧ OnlyIn [.regs, .tick, .net, .cache, .draws, .out] s.toMach t := by
  obtain ⟨hge, hwin, hmax⟩ := Mach.dgRecs_last hr hlast
  have hbase : s.baseOf d k < Mach.rsnOf e := lt_of_le_of_lt Mach.baseOf_le_topSent (lt_of_lt_of_le (Mach.topSent_lt_head hr) hge)
  obtain ⟨hs, ho⟩ := Mach.firstSent d k s.toMach (s.flightAnd d k r e) (by simp [Mach.flightAnd]) p (Mach.rsnOf r) (Mach.rsnOf e)
  have hx := Mach.rrtSend_sends hrun hr hy h he hlast hp
  generalize ((s.toMach.setFlight d k (s.flightAnd d k r e)).sendData d k p (Mach.rsnOf r) (Mach.rsnOf e) false).countSent d k (Mach.rsnOf r) (Mach.rsnOf e) = t at *
  obtain ⟨htop, hb⟩ := Mach.FirstSent.window hs hbase
  exact does_of_act (f := Mach.rrtSend d k) rfl hx ⟨hmax, hwin, ho, by rw [hs.own], htop, hb, hs.others, hs.tx, hs.jnl, hs.parts⟩

theorem rrtResend_reads_back {y : RrtFlight} {r : JRec} (ha : (s.rrtRuns && s.on (R.RRT_D_CTRL_EN d) && (s.txPort d).isSome) = true)
    (hy : (s.flightOf d k).head? = some y) (hr : s.resendGone d k y = some r) :
    (s.storeIdle = false → Idles (.rrtResend d k) s) ∧
    (s.storeIdle = true → Does (.rrtResend d k) s fun t =>
      t.nvs.op = some (.readBack r.fn r.cls r.count) ∧ t.net = s.net ∧ t.jnl = s.jnl ∧ OnlyIn [.nvs, .out] s.toMach t) := by
  have hx := Mach.rrtResend_reads ha hy hr
  have hw := Mach.nvmeIssue_within (.readBack r.fn r.cls r.count) s.toMach
  exact ⟨fun hi => idles_of_act (f := Mach.rrtResend d k) rfl (hx.trans (if_neg (by simp [hi]))),
    fun hi => does_of_act (f := Mach.rrtResend d k) rfl (hx.trans (if_pos hi)) ⟨rfl, hw.keeps .net, hw.keeps .jnl, hw.parts⟩⟩

theorem rrtResend_again {y : RrtFlight} (ha : (s.rrtRuns && s.on (R.RRT_D_CTRL_EN d) && (s.txPort d).isSome) = true)
    (hy : (s.flightOf d k).head? = some y) (hr : s.resendGone d k y = none) :
    Does (.rrtResend d k) s fun t =>
      y.t + max 100 (s.g R.RRT_CFG_RESEND) * 1000 ≤ t.elapsed ∧ (∀ j, j ≠ d → t.net.dests.get j = s.net.dests.get j) ∧
      (atLeast1 (s.g R.RRT_CFG2_DOWN_N) ≤ (s.net.dests.get d).resends + 1 → (t.net.dests.get d).down = true) ∧
      ((s.net.dests.get d).resends + 1 < atLeast1 (s.g R.RRT_CFG2_DOWN_N) →
        (t.net.dests.get d).resends = (s.net.dests.get d).resends + 1 ∧ (t.net.dests.get d).down = (s.net.dests.get d).down) ∧
      OnlyIn [.regs, .time, .tick, .enc, .jnl, .net, .cache, .draws, .out] s.toMach t := by
  obtain ⟨p, -, hx⟩ := Mach.rrtResend_sends ha hy hr
  have hreach := Mach.runToElapsed_reaches s.toMach (y.t + max 100 (s.g R.RRT_CFG_RESEND) * 1000)
  have hc := Mach.runToElapsed_clockOnly (y.t + max 100 (s.g R.RRT_CFG_RESEND) * 1000) s.toMach
  generalize s.toMach.runToElapsed (y.t + max 100 (s.g R.RRT_CFG_RESEND) * 1000) = m1 at *
  have hnet : m1.net = s.net := hc.parts .net (by decide)
  obtain ⟨h1, h2, h3, h4, h5⟩ := Mach.resentAll_spec d k p m1
  generalize m1.resentAll d k p = m2 at *
  obtain ⟨j1, j2, j3, j4⟩ := Mach.resendJudged_spec d m2
  rw [h4, h5, hc.g _ (by decide), hnet] at j3 j4
  have htime : (m2.resendJudged d).elapsed = m1.elapsed := by
    unfold Mach.elapsed
    rw [show (m2.resendJudged d).time = m2.time from j1 .time (by decide), show m2.time = m1.time from h1 .time (by decide)]
  refine does_of_act (f := Mach.rrtResend d k) rfl hx ⟨by rw [htime]; exact hreach, fun j hj => by rw [j2 j hj, h2 j hj, hnet], j3, fun hlt => ?_,
    ((hc.parts.append h1).append j1).mono (by decide)⟩
  rw [j4 hlt, h4, h3, hnet]
  exact ⟨rfl, rfl⟩

end

/-- Settles O43. -/
theorem rrtDeliversInWindow : Obligations.RrtDeliversInWindow := by
  unfold Obligations.RrtDeliversInWindow
  intro s d k a x base head turn able others ks
  have hturn : turn = true → ∀ r ∈ head, ∃ y, s.rrtRuns = true ∧ s.rrtNext = some y ∧ r.same y = true := fun ht r hr => by
    have hh : s.rrtHead d k = some r := hr
    simp only [turn, head, hh, Bool.and_eq_true] at ht
    cases hy : s.rrtNext with
    | none =>
      rw [hy] at ht
      exact absurd ht.2 Bool.false_ne_true
    | some y =>
      rw [hy] at ht
      exact ⟨y, ht.1, rfl, ht.2⟩
  refine ⟨fun h => rrt_unable h, fun h => ?_, fun r hr => ?_, fun ht r hr he => ?_, fun ht r hr he e hl p hp => ?_,
    fun h => idles_of_act (f := Mach.rrtResend d k) rfl (Mach.rrtResend_idle h), fun h y hy => ⟨fun r hr => rrtResend_reads_back h hy hr,
      fun hr => rrtResend_again h hy hr⟩, fun h => ?_, fun h => rrtAck_checked h,
    fun h => idles_of_act (f := Mach.rrtProbe d) rfl (Mach.rrtProbe_idle h), fun h1 h2 h3 => ?_, rrtDestDisable_drops s d, rrtDAckRead_answers s d⟩
  · refine rrtDataSend_waits fun r y hrun hr hy => ?_
    simpa [turn, head, hrun, hr, hy] using h
  · obtain ⟨hm, hc⟩ := Mach.rrtHead_mem hr
    obtain ⟨-, -, -, hrel, hw⟩ := Mach.rrtHead_spec hr
    exact ⟨hm, hc, hrel, Mach.topSent_lt_head hr, hw⟩
  · obtain ⟨y, hrun, hy, hs⟩ := hturn ht r hr
    exact rrtDataSend_reads hrun hr hy hs he
  · obtain ⟨y, hrun, hy, hs⟩ := hturn ht r hr
    exact rrtDataSend_sends hrun hr hy hs he hl hp
  · refine idles_of_act (f := fun m => (if m.ethUp a.port then m.stir 4 a.port else m).rrtAck d a) rfl ?_
    have hn : (if s.ethUp a.port then s.toMach.stir 4 a.port else s.toMach) = s.toMach := if_neg (by simp [h])
    exact (congrArg (Mach.rrtAck d a) hn).trans (Mach.rrtAck_down h)
  · obtain ⟨h4, h5, h6, h7, h8⟩ := Mach.rrtProbe_spec h1 h2 h3
    exact does_of_act (f := Mach.rrtProbe d) rfl rfl ⟨h4, h5, h6, h7, h8, (Mach.rrtProbe_within d s.toMach).parts⟩

end Sys2Proof.Machine

namespace Sys2Proof.Machine

set_option Elab.async false

/-! ## What a power-down leaves of the AON registers and of the running tick (R325, R326) -/

theorem LowKept.of_within {l : List Part} {a b : Mach} (h : Within l a b) (hr : Part.regs ∉ l := by decide) : LowKept a b := .of_regs (h.parts .regs hr)

namespace Mach

/-! ### Work that is abandoned -/

theorem abandonEng_lowKept (e : Fin 72) (which : Desc → Bool) (m : Mach) : LowKept m (m.abandonEng e which) := fun off ho =>
  (abandonEng_engKept e m which).regs off (.inl (by omega))

theorem mdAsk_lowKept (n : Fin 4) (t : Int) (m : Mach) : LowKept m (m.mdAsk n t).2 := by
  unfold mdAsk
  split
  · exact (LowKept.put m _ _ (by simp only [R.MOT_ENC_HIST_MISS]; omega)).trans (.put _ _ _ (by simp only [R.MOT_ENC_STAT_HIST_MISS]; omega))
  · exact .refl m

theorem askMark_lowKept {r : PopRec} {t : Int} {m m1 : Mach} {v : Option Int} (h : m.askMark r t = some (v, m1)) : LowKept m m1 := by
  have ask := mdAsk_lowKept (Fin.ofNat 4 r.enc) t m
  unfold askMark at h
  split at h
  · obtain ⟨-, rfl⟩ := Prod.mk.inj (Option.some.inj h)
    exact .refl _
  · split at h
    · cases h
    all_goals
      rename_i heq
      obtain ⟨-, rfl⟩ := Prod.mk.inj (Option.some.inj h)
      rw [heq] at ask
      exact ask

theorem settleOwed_lowKept (tn : Nat) (p : Pop) (l : List Int) (m : Mach) : LowKept m (m.settleOwed tn p l) := by
  induction l generalizing m with
  | nil => exact .of_within (onPop_within p _ m)
  | cons t r ih =>
    unfold settleOwed
    split
    · split
      · exact .of_within (onPop_within p _ m)
      next h => exact ((askMark_lowKept h).trans (.of_within (lostStep_within _ _ _ _ _ _ _))).trans (ih _)
    · exact .refl m

theorem lostPhase_lowKept (tn i : Nat) (p : Pop) (m : Mach) : LowKept m (m.lostPhase tn i p) := by
  unfold lostPhase
  split
  · exact .refl m
  extract_lets m1 q owe
  have h1 : LowKept m m1 := .of_within (onPop_within p _ m)
  have h2 : LowKept m owe := h1.trans (.of_within (onPop_within p _ m1))
  split
  · exact h2
  · split
    · exact h2
    next h => exact (h1.trans (askMark_lowKept h)).trans (.of_within (lostStep_within _ _ _ _ _ _ _))

theorem lostPhases_lowKept (f : Fin 8) (tn i : Nat) (m : Mach) : LowKept m (m.lostPhases f tn i) := by
  unfold lostPhases
  refine LowKept.trans (b := m.settleFn f tn) (.forEach _ _ (fun p t => settleOwed_lowKept tn p p.owed t) m) (.forEach _ _ (fun k t => ?_) _)
  refine .forEach _ _ (fun p u => ?_) t
  split
  · exact lostPhase_lowKept _ _ _ u
  · exact .refl u

theorem abandonPop_lowKept (f : Fin 8) (tn i : Nat) (m : Mach) : LowKept m (m.abandonPop f tn i) :=
  ((LowKept.of_within (drainSpikes_within f m)).trans (lostPhases_lowKept f tn i _)).trans (.of_within (endPopTick_within f tn _))

/-- The function's tick of populations, if one is under way, is abandoned. -/
def popTickEnded (f : Fin 8) (m : Mach) : Mach :=
  match (m.fn.get f).popTick with
  | some k => m.abandonPop f k.tn k.phase
  | none => m

/-- The spikes under way are dropped, once the engines' work is. -/
def spikesDropped (m : Mach) : Mach := forEach m.spikes (fun s t => t.routeDrop s.fn) { m with spikes := [] }

theorem abandonWork_eq (m : Mach) :
    m.abandonWork = (forEach (List.finRange 8) (fun (f : Fin 8) t => t.popTickEnded f)
      (forEach (List.finRange 72) (fun (e : Fin 72) t => t.abandonEng e fun _ => true) m).spikesDropped).onTick fun t =>
        { t with accts := t.accts.map fun a => { a with works := false } } := rfl

theorem popTickEnded_lowKept (f : Fin 8) (m : Mach) : LowKept m (m.popTickEnded f) := by
  unfold popTickEnded
  split
  · exact abandonPop_lowKept f _ _ m
  · exact .refl m

theorem popTickEnded_tickValues (f : Fin 8) (m : Mach) : (m.popTickEnded f).tickValues = m.tickValues := by
  unfold popTickEnded
  split
  · exact abandonPop_tickValues _ _ _ _
  · rfl

theorem spikesDropped_lowKept (m : Mach) : LowKept m m.spikesDropped :=
  (LowKept.of_regs (a := m) (b := { m with spikes := [] }) rfl).trans (.forEach _ _ (fun (s : SpikeMsg) t => .of_within (routeDrop_within s.fn t)) _)

theorem spikesDropped_tickValues (m : Mach) : m.spikesDropped.tickValues = m.tickValues := by
  have h := forEach_tickValues { m with spikes := [] } m.spikes (fun (s : SpikeMsg) t => t.routeDrop s.fn) fun s t => routeDrop_tickValues t s.fn
  exact h.trans (spikes_tickValues m [])

theorem abandonWork_lowKept (m : Mach) : LowKept m m.abandonWork := by
  rw [abandonWork_eq]
  have h0 : LowKept m (forEach (List.finRange 72) (fun (e : Fin 72) t => t.abandonEng e fun _ => true) m) :=
    .forEach _ _ (fun e t => abandonEng_lowKept e _ t) m
  generalize forEach (List.finRange 72) (fun (e : Fin 72) t => t.abandonEng e fun _ => true) m = m0 at *
  have h1 := LowKept.forEach (List.finRange 8) (fun (f : Fin 8) t => t.popTickEnded f) (fun f t => popTickEnded_lowKept f t) m0.spikesDropped
  generalize forEach (List.finRange 8) (fun (f : Fin 8) t => t.popTickEnded f) m0.spikesDropped = m1 at *
  exact ((h0.trans (spikesDropped_lowKept m0)).trans h1).trans (.of_regs (onTick_regs _ _))

theorem abandonWork_tickValues (m : Mach) : m.abandonWork.tickValues = m.tickValues := by
  rw [abandonWork_eq]
  have h0 := forEach_tickValues m (List.finRange 72) (fun (e : Fin 72) t => t.abandonEng e fun _ => true) fun e t => abandonEng_tickValues _ _ _
  generalize forEach (List.finRange 72) (fun (e : Fin 72) t => t.abandonEng e fun _ => true) m = m0 at *
  have h1 := forEach_tickValues m0.spikesDropped (List.finRange 8) (fun (f : Fin 8) t => t.popTickEnded f) fun f t => popTickEnded_tickValues f t
  generalize forEach (List.finRange 8) (fun (f : Fin 8) t => t.popTickEnded f) m0.spikesDropped = m1 at *
  have h2 : ∀ (x : Mach) (u : TickUnit → List TickAcct), (x.onTick fun t => { t with accts := u t }).tickValues = x.tickValues := fun _ _ => rfl
  rw [h2, h1, spikesDropped_tickValues, h0]

/-! ### Vats that are flushed -/

theorem lostPacket_tickValues (p : Fin 16) (k : VatPacket) (m : Mach) : (m.lostPacket p k).tickValues = m.tickValues :=
  forEach_tickValues _ _ _ fun _ t => onAcct_tickValues t _ _

/-- Only what a discarded vat's port shows and counts changes. -/
theorem flushNow_lowKept (p : Fin 16) (m : Mach) : LowKept m (m.flushNow p) := by
  unfold flushNow
  extract_lets x m1 m2
  have h1 : LowKept m m1 := LowKept.trans (b := m.onPort p _) (.of_regs rfl) (.put _ _ _ (by simp only [R.ING_FLUSHED]; omega))
  have h2 : LowKept m1 m2 := .forEach _ _ (fun k t => .of_within (lostPacket_within p k t)) m1
  have h3 : LowKept m2 (m2.evalFc p) := .of_regs (evalFc_onlyIn p m2 .regs (by decide))
  exact ((h1.trans h2).trans h3).trans (.forEach _ _ (fun o t => .of_within (done_within _ _ _ _ _ _ _ t)) _)

theorem flushNow_tickValues (p : Fin 16) (m : Mach) : (m.flushNow p).tickValues = m.tickValues := by
  unfold flushNow
  extract_lets x m1 m2
  have h1 : m1.tickValues = m.tickValues := addTo_tickValues _ _ _
  have h2 : m2.tickValues = m1.tickValues := forEach_tickValues m1 _ _ fun k t => lostPacket_tickValues p k t
  have h3 : (m2.evalFc p).tickValues = m2.tickValues := tickValues_of_onlyIn (evalFc_onlyIn p m2) (by decide) (by decide)
  exact (forEach_tickValues _ _ _ fun o t => done_tickValues _ _ _ _ _ _ _ _).trans (h3.trans (h2.trans h1))

/-- A vat that is discarded uncounted changes its port alone. -/
theorem discardVat_uncounted (p : Fin 16) (m : Mach) : OnlyIn [.port] m (m.discardVat p false) ∧
    ((m.discardVat p false).port.get p).vat = [] ∧ ((m.discardVat p false).port.get p).reading = none ∧
    ∀ q, q ≠ p → (m.discardVat p false).port.get q = m.port.get q := by
  unfold discardVat
  extract_lets x m1
  rw [if_pos (by decide)]
  have h1 : m1.port.get p = { m.port.get p with vat := [], reading := none, rx := none, burst := 0, dec := Vector.replicate 16 {} } := onPort_get_self m p _
  refine ⟨((onPort_within p _ m).parts.append (evalFc_onlyIn p m1)).mono (by decide), by rw [evalFc_port, h1], by rw [evalFc_port, h1], fun q hq => ?_⟩
  rcases evalFc_eq p m1 with h | h <;> rw [h]
  · exact onPort_get_ne m _ hq
  · exact (onPort_get_ne m1 _ hq).trans (onPort_get_ne m _ hq)

/-- One port's vat is flushed on the way to sleep. -/
def vatFlushed (p : Fin 16) (m : Mach) : Mach :=
  (((if (m.port.get p).flushPend then m.flushNow p else m).discardVat p false).onPort p fun x => { x with wmFc := false }).fitOff p

theorem flushVats_eq (m : Mach) : m.flushVats false = forEach (List.finRange 16) (fun (p : Fin 16) t => t.vatFlushed p) m := rfl

/-- The vat of a port is empty and no packet of it is in read. -/
def VatEmpty (p : Fin 16) (m : Mach) : Prop := (m.port.get p).vat = [] ∧ (m.port.get p).reading = none

theorem flushNow_others (p : Fin 16) (m : Mach) {q : Fin 16} (hq : q ≠ p) : (m.flushNow p).port.get q = m.port.get q := by
  obtain ⟨m2, h2, h3⟩ := flushNow_within_emptied p m
  have hport : (m.flushNow p).port = (m2.evalFc p).port := h3.keeps .port
  have hp2 : m2.port = (m.emptied p).port := h2.keeps .port
  have he : (m.emptied p).port.get q = m.port.get q := onPort_get_ne m _ hq
  rw [hport]
  rcases evalFc_eq p m2 with h | h <;> rw [h]
  · rw [hp2, he]
  · rw [onPort_get_ne m2 _ hq, hp2, he]

theorem vatFlushed_spec (p : Fin 16) (m : Mach) : LowKept m (m.vatFlushed p) ∧ (m.vatFlushed p).tickValues = m.tickValues ∧ (m.vatFlushed p).VatEmpty p ∧
    ∀ q, q ≠ p → m.VatEmpty q → (m.vatFlushed p).VatEmpty q := by
  unfold vatFlushed fitOff
  have h0 : LowKept m (if (m.port.get p).flushPend then m.flushNow p else m) ∧
      (if (m.port.get p).flushPend then m.flushNow p else m).tickValues = m.tickValues ∧
      ∀ q, q ≠ p → (if (m.port.get p).flushPend then m.flushNow p else m).port.get q = m.port.get q := by
    split
    · exact ⟨flushNow_lowKept p m, flushNow_tickValues p m, fun q hq => flushNow_others p m hq⟩
    · exact ⟨.refl m, rfl, fun _ _ => rfl⟩
  generalize (if (m.port.get p).flushPend then m.flushNow p else m) = m1 at *
  obtain ⟨hl, ht, ho⟩ := h0
  obtain ⟨d1, d2, d3, d4⟩ := discardVat_uncounted p m1
  have hr2 : LowKept m1 (m1.discardVat p false) := .of_regs (d1 .regs (by decide))
  have ht2 : (m1.discardVat p false).tickValues = m1.tickValues := tickValues_of_onlyIn d1 (by decide) (by decide)
  generalize m1.discardVat p false = m2 at *
  refine ⟨(hl.trans hr2).trans (.of_regs rfl), (show _ = m2.tickValues from rfl).trans (ht2.trans ht), ?_, fun q hq he => ?_⟩
  · unfold VatEmpty
    rw [onPort_get_self, onPort_get_self]
    exact ⟨d2, d3⟩
  · unfold VatEmpty at he ⊢
    rw [onPort_get_ne _ _ hq, onPort_get_ne _ _ hq, d4 q hq, ho q hq]
    exact he

theorem flushVats_spec (m : Mach) : LowKept m (m.flushVats false) ∧ (m.flushVats false).tickValues = m.tickValues ∧ ∀ p, (m.flushVats false).VatEmpty p := by
  rw [flushVats_eq]
  refine ⟨.forEach _ _ (fun p t => (vatFlushed_spec p t).1) m, forEach_tickValues _ _ _ fun p t => (vatFlushed_spec p t).2.1, fun p => ?_⟩
  refine forEach_reaches (fun p t => VatEmpty p t) _ _ (fun p t => (vatFlushed_spec p t).2.2.1) (fun p q t h => ?_) m p (List.mem_finRange p)
  by_cases hq : q = p
  · exact hq ▸ (vatFlushed_spec p t).2.2.1
  · exact (vatFlushed_spec p t).2.2.2 q hq h

end Mach

end Sys2Proof.Machine

namespace Sys2Proof.Machine

set_option Elab.async false

namespace Mach

/-! ## The links that sleep turns off (R323) -/

/-- The registers of power, clock and reset, and the running tick, stay. -/
structure Dozing (a b : Mach) : Prop where
  regs : ∀ off, off < 0x060000 → b.rd off = a.rd off
  ticks : b.tickValues = a.tickValues

namespace Dozing

variable {a b c : Mach}

theorem refl (a : Mach) : Dozing a a := ⟨fun _ _ => rfl, rfl⟩

theorem trans (h1 : Dozing a b) (h2 : Dozing b c) : Dozing a c := ⟨fun off h => (h2.regs off h).trans (h1.regs off h), h2.ticks.trans h1.ticks⟩

theorem of_recOnly (h : RecOnly a b) : Dozing a b := ⟨fun off ho => h.regs off (by omega), tickValues_of_recOnly h⟩

theorem of_clockOnly (h : ClockOnly a b) : Dozing a b := ⟨fun off ho => h.regs off (by omega), tickValues_of_clockOnly h⟩

theorem of_lowKept (h : LowKept a b) (ht : b.tickValues = a.tickValues) : Dozing a b := ⟨fun off ho => h off (by omega), ht⟩

theorem of_within {l : List Part} (h : Within l a b) (hr : Part.regs ∉ l := by decide) (ht : Part.tick ∉ l := by decide) (hs : Part.time ∉ l := by decide) :
    Dozing a b := of_lowKept (.of_within h hr) (tickValues_of_onlyIn h.parts ht hs)

theorem put (m : Mach) (f : Fld) (v : Nat) (h : 0x060000 ≤ f.a) : Dozing m (m.put f v) := ⟨fun off ho => rd_put_ne m f v (by omega), put_tickValues m f v⟩

theorem inc (m : Mach) (f : Fld) (h : 0x060000 ≤ f.a) : Dozing m (m.inc f) := put m f _ h

theorem forEach {α : Type} (xs : List α) (f : α → Mach → Mach) (h : ∀ x m, Dozing m (f x m)) (m : Mach) : Dozing m (forEach xs f m) :=
  Mach.forEach_mem (Dozing m) xs f (fun x _ t ht => ht.trans (h x t)) m (refl m)

theorem g (h : Dozing a b) (f : Fld) (hf : f.a < 0x060000) : b.g f = a.g f := by
  unfold Mach.g
  rw [h.regs _ hf]

theorem tn (h : Dozing a b) : b.tick.tn = a.tick.tn := congrArg (fun x => x.tn) h.ticks

end Dozing

theorem destDown_dozing (d : Fin 8) (m : Mach) : Dozing m (m.destDown d) := by
  unfold destDown
  split
  · exact .refl m
  · exact ((Dozing.of_within (onDest_within d _ m)).trans (.inc _ R.RRT_DEST_DOWN (by decide))).trans (.of_recOnly (health_recOnly _ _ _ _))

theorem destFallback_dozing (d : Fin 8) (m : Mach) : Dozing m (m.destFallback d) := by
  unfold destFallback
  extract_lets x
  split
  · exact ((Dozing.of_within (onDest_within d _ m)).trans (.inc _ R.RRT_FB_SWITCH (by decide))).trans (.of_recOnly (health_recOnly _ _ _ _))
  · exact .refl m

theorem judgeDest_dozing (d : Fin 8) (m : Mach) : Dozing m (m.judgeDest d) := by
  unfold judgeDest
  split
  · exact .refl m
  · extract_lets m1 m2
    have h1 : Dozing m m1 := by
      unfold m1
      split
      · exact .of_within (onDest_within d _ m)
      · exact .refl m
    have h2 : Dozing m1 m2 := by
      unfold m2
      split
      · exact destDown_dozing d m1
      · exact .refl m1
    exact (h1.trans h2).trans (destFallback_dozing d m2)

/-- An Ethernet port that goes down is reported, and its destinations are judged. -/
theorem ethLink_down_dozing (p : Fin 2) (m : Mach) : Dozing m (m.ethLink p false) := by
  unfold ethLink
  split
  · exact .refl m
  · extract_lets m1
    have h1 : Dozing m m1 := ((Dozing.of_within (onNet_within _ m)).trans (.put _ (R.ETH_STAT_LINK_CHG p) 1 (by simp only [R.ETH_STAT_LINK_CHG]; omega))).trans
      (.of_recOnly (health_recOnly _ _ _ _))
    exact h1.trans (.forEach _ _ (fun d t => judgeDest_dozing d t) m1)

theorem setLinkState_dozing (l : Fin 4) (st : Nat) (m : Mach) : Dozing m (m.setLinkState l st) := by
  unfold setLinkState
  split
  · exact .refl m
  · exact (Dozing.of_within (onLink_within l _ m)).trans (.put _ (R.LNK_STAT_CHG l) 1 (by simp only [R.LNK_STAT_CHG]; omega))

theorem sleepLinks_dozing (m : Mach) : Dozing m m.sleepLinks := by
  unfold sleepLinks
  extract_lets m1
  have h1 : Dozing m m1 := by
    unfold m1
    split
    · exact .refl m
    · exact .forEach _ _ (fun p t => ethLink_down_dozing p t) m
  split
  · exact h1
  · exact h1.trans (.forEach _ _ (fun l t => (setLinkState_dozing l 0 t).trans (.of_within (refuseCheck_within l _))) m1)

/-! ## The compute side that is cleared (R325 step 4, R326) -/

/-- Engines, spikes and held descriptors are empty and every die is at PL0. -/
structure Cleared (t : Mach) : Prop where
  eng : ∀ e : Fin 72, t.eng.get e = {}
  lvl : ∀ d : Fin 4, (t.lvl.get d).freq = 0 ∧ (t.lvl.get d).volt = 0
  spikes : t.spikes = []
  held : t.heldDesc = []

theorem clearCompute_cleared (m : Mach) : m.clearCompute.Cleared :=
  ⟨fun e => by simp [clearCompute, Vector.get], fun d => by simp [clearCompute, Vector.get], rfl, rfl⟩

theorem Cleared.of_parts {a b : Mach} (h : a.Cleared) {l : List Part} (hp : OnlyIn l a b) (he : Part.eng ∉ l := by decide) (hl : Part.lvl ∉ l := by decide)
    (hs : Part.spikes ∉ l := by decide) (hh : Part.heldDesc ∉ l := by decide) : b.Cleared := by
  obtain ⟨h1, h2, h3, h4⟩ := h
  exact ⟨by rw [show b.eng = a.eng from hp .eng he]; exact h1, by rw [show b.lvl = a.lvl from hp .lvl hl]; exact h2,
    (show b.spikes = a.spikes from hp .spikes hs).trans h3, (show b.heldDesc = a.heldDesc from hp .heldDesc hh).trans h4⟩

theorem clearCompute_dozing (m : Mach) : Dozing m m.clearCompute := .of_within (clearCompute_within m)

/-- Everything that S2 turns off, before STATE reads 2. -/
def dozed (m : Mach) : Mach := (((m.abandonWork.flushVats false).clearCompute.scDrop fun _ => true)).sleepLinks

theorem dozed_spec (m : Mach) : Dozing m m.dozed ∧ m.dozed.Cleared ∧ ∀ p, m.dozed.VatEmpty p := by
  unfold dozed
  have hw : Dozing m m.abandonWork := .of_lowKept (abandonWork_lowKept m) (abandonWork_tickValues m)
  generalize m.abandonWork = m1 at *
  obtain ⟨hl, ht, hv⟩ := flushVats_spec m1
  have hf : Dozing m1 (m1.flushVats false) := .of_lowKept hl ht
  generalize m1.flushVats false = m2 at *
  have hc := clearCompute_cleared m2
  have hd := clearCompute_dozing m2
  have hcp : m2.clearCompute.port = m2.port := (clearCompute_within m2).keeps .port
  generalize m2.clearCompute = m3 at *
  have hs := scDrop_within (fun _ => true) m3
  have hsd : Dozing m3 (m3.scDrop fun _ => true) := .of_within hs
  have hsp : (m3.scDrop fun _ => true).port = m3.port := hs.keeps .port
  have hsc : (m3.scDrop fun _ => true).Cleared := hc.of_parts hs.parts
  generalize (m3.scDrop fun _ => true) = m4 at *
  have hk := sleepLinks_within m4
  have hkp : m4.sleepLinks.port = m4.port := hk.keeps .port
  refine ⟨(((hw.trans hf).trans hd).trans hsd).trans (sleepLinks_dozing m4), hsc.of_parts hk.parts, fun p => ?_⟩
  unfold VatEmpty
  rw [hkp, hsp, hcp]
  exact hv p

end Mach

end Sys2Proof.Machine

namespace Sys2Proof.Machine

set_option Elab.async false

namespace Mach

/-! ## The steps to S2 (R325) -/

section
variable {m : Mach} {t0 : Int}

/-- The idle conditions of S2 have held and a boundary is here. -/
def sleepDue (m : Mach) : Prop :=
  m.working = true ∧ (m.g R.PWR_SLEEP_IDLE_S2 : Int) ≠ 0 ∧ m.jnl.actions = [] ∧
    m.sleep.idleFrom + (m.g R.PWR_SLEEP_IDLE_S2 : Int) * 1000000000 ≤ m.elapsed ∧ m.time.n < m.tick.start + 8

theorem sleepDue_iff : (m.working && (m.g R.PWR_SLEEP_IDLE_S2 : Int) != 0 && m.jnl.actions.isEmpty &&
    decide (m.sleep.idleFrom + (m.g R.PWR_SLEEP_IDLE_S2 : Int) * 1000000000 ≤ m.elapsed) && decide (m.time.n < m.tick.start + 8)) = true ↔ m.sleepDue := by
  simp only [sleepDue, Bool.and_eq_true, bne_iff_ne, List.isEmpty_iff, decide_eq_true_eq, and_assoc]

theorem s2Entry_idle (h : ¬ m.sleepDue) : m.s2Entry = m := by
  rw [← sleepDue_iff] at h
  exact if_neg h

theorem s2Entry_enters (h : m.sleepDue) : m.s2Entry = m.stopTicks := by
  rw [← sleepDue_iff] at h
  exact if_pos h

/-- Ticks that run stop producing work and the watchdog is disarmed. -/
theorem stopTicks_spec (m : Mach) : m.stopTicks.sleep = { m.sleep with entering := some m.tick.tn, stepAt := none } ∧ m.stopTicks.tick.wdogArmed = false ∧
    m.stopTicks.tick.tn = m.tick.tn ∧ ∀ a ∈ m.stopTicks.tick.accts, a.tn = m.tick.tn → a.works = false := by
  refine ⟨rfl, rfl, rfl, fun a ha htn => ?_⟩
  obtain ⟨y, -, rfl⟩ := List.mem_map.mp ha
  by_cases hy : y.tn = m.tick.tn
  · simp [hy]
  · simp only [hy, if_false] at htn

theorem abandonEntry_spec (m : Mach) : m.abandonEntry.sleep = { m.sleep with entering := none, stepAt := none } ∧
    m.abandonEntry.tick.wdogArmed = m.jnl.pf.isNone := ⟨rfl, rfl⟩

theorem s2PowerDown_idle (h : m.sleep.entering = none ∨ m.sleep.stepAt = none ∨ m.sleep.goS3 = true) : m.s2PowerDown = m := by
  unfold s2PowerDown
  split
  next he ht =>
    rcases h with h | h | h
    · rw [h] at he
      cases he
    · rw [h] at ht
      cases ht
    · exact if_pos h
  next => rfl

theorem s2PowerDown_abandons (he : m.sleep.entering ≠ none) (hg : m.sleep.goS3 = false) (ht : m.sleep.stepAt = some t0) (ha : m.jnl.actions ≠ []) :
    m.s2PowerDown = m.abandonEntry := by
  obtain ⟨k, hk⟩ := Option.ne_none_iff_exists'.mp he
  unfold s2PowerDown
  rw [hk, ht]
  dsimp only
  rw [if_neg (by simp [hg]), if_pos (by simp [ha])]

/-- The machine that powers down, when its last records are committed or have had their time. -/
def dozeFrom (t0 : Int) (m : Mach) : Mach := if m.allCommitted then m else m.runToElapsed (t0 + 100000000)

/-- A machine that is off reads S2. -/
def asleepFrom (e : Int) (m : Mach) : Mach :=
  (m.onSleep fun s => { s with state := 2, entering := none, stepAt := none, s2At := some e }).inc R.PWR_S2_ENTRY

theorem s2PowerDown_dozes (he : m.sleep.entering ≠ none) (hg : m.sleep.goS3 = false) (ht : m.sleep.stepAt = some t0) (ha : m.jnl.actions = []) :
    m.s2PowerDown = (m.dozeFrom t0).dozed.asleepFrom (m.dozeFrom t0).elapsed := by
  obtain ⟨k, hk⟩ := Option.ne_none_iff_exists'.mp he
  unfold s2PowerDown
  rw [hk, ht]
  dsimp only
  rw [if_neg (by simp [hg]), if_neg (by simp [ha])]
  rfl

theorem dozeFrom_spec (t0 : Int) (m : Mach) : Dozing m (m.dozeFrom t0) ∧ (m.dozeFrom t0).dram = m.dram ∧ (m.dozeFrom t0).time.y = m.time.y ∧
    (m.allCommitted = false → t0 + 100000000 ≤ (m.dozeFrom t0).elapsed) := by
  unfold dozeFrom
  split
  next h => exact ⟨.refl m, rfl, rfl, fun hf => absurd (h.symm.trans hf) (by decide)⟩
  next =>
    have hc := runToElapsed_clockOnly (t0 + 100000000) m
    exact ⟨.of_clockOnly hc, hc.parts .dram (by decide), by rw [hc.time], fun _ => runToElapsed_reaches m _⟩

theorem asleepFrom_spec (e : Int) (m : Mach) : (m.asleepFrom e).sleep.state = 2 ∧ (m.asleepFrom e).sleep.entering = none ∧
    (m.asleepFrom e).g R.PWR_S2_ENTRY = (m.g R.PWR_S2_ENTRY + 1) % 2 ^ 32 ∧ (m.asleepFrom e).time = m.time ∧ (m.asleepFrom e).tick = m.tick ∧
    OnlyIn [.sleep, .regs] m (m.asleepFrom e) :=
  ⟨rfl, rfl, g_inc_word _ _ rfl rfl, rfl, rfl, ((onSleep_within _ m).parts.append (OnlyIn.inc _ _)).mono (by decide)⟩

theorem dozed_within (m : Mach) : Within [.regs, .tick, .port, .fe, .eng, .tleq, .tle, .heldDesc, .pops, .spikes, .fus, .jnl, .led, .lvl, .fn, .net, .link,
    .cache, .out] m m.dozed :=
  (sleepLinks_within _).after <| (scDrop_within _ _).after <| (clearCompute_within _).after <| (flushVats_within _ _).after <| (abandonWork_within _).after <| .refl _ _

/-- A machine that has powered down: what is off, what was waited for, and what stays. -/
structure PoweredDown (t0 : Int) (m t : Mach) : Prop where
  state : t.sleep.state = 2
  entering : t.sleep.entering = none
  cleared : t.Cleared
  waited : m.allCommitted = false → t0 + 100000000 ≤ t.elapsed
  vats : ∀ p, t.VatEmpty p
  count : t.g R.PWR_S2_ENTRY = (m.g R.PWR_S2_ENTRY + 1) % 2 ^ 32
  dram : t.dram = m.dram
  rate : t.time.y = m.time.y
  tn : t.tick.tn = m.tick.tn

theorem poweredDown (t0 : Int) (m : Mach) : PoweredDown t0 m ((m.dozeFrom t0).dozed.asleepFrom (m.dozeFrom t0).elapsed) := by
  obtain ⟨f1, f2, f3, f4⟩ := dozeFrom_spec t0 m
  generalize m.dozeFrom t0 = m1 at *
  obtain ⟨d1, d2, d3⟩ := dozed_spec m1
  have hw := dozed_within m1
  have htime : m1.dozed.time = m1.time := hw.keeps .time
  have hdram : m1.dozed.dram = m1.dram := hw.keeps .dram
  generalize m1.dozed = m2 at *
  obtain ⟨a1, a2, a3, a4, a5, a6⟩ := asleepFrom_spec m1.elapsed m2
  generalize m2.asleepFrom m1.elapsed = m3 at *
  have hport : m3.port = m2.port := a6 .port (by decide)
  refine ⟨a1, a2, d2.of_parts a6, fun h => ?_, fun p => ?_, ?_, (a6 .dram (by decide)).trans (hdram.trans f2), ?_, ?_⟩
  · have he : m3.elapsed = m1.elapsed := by
      unfold elapsed
      rw [a4, htime]
    rw [he]
    exact f4 h
  · unfold VatEmpty
    rw [hport]
    exact d3 p
  · rw [a3, d1.g _ (by decide), f1.g _ (by decide)]
  · rw [a4, htime, f3]
  · rw [a5, d1.tn, f1.tn]

/-! ## The way to S3 (R326) -/

/-- The machine that is powered off for S3. -/
def poweredOff (m : Mach) : Mach :=
  ((((m.cancelPending (fun _ => true)).abandonWork.clearCompute).onRst fun r => { r with compute := none }).onSleep fun s =>
    { s with state := 3, entering := none, stepAt := none, s2At := none, goS3 := false }).inc R.PWR_S3_ENTRY

/-- S3 is entered once it was asked for and nothing is left to commit. -/
def offIfCommitted (m : Mach) : Mach := if m.sleep.goS3 && m.allCommitted then m.poweredOff else m

theorem s3Entry_asked (h : m.sleep.goS3 = true) : m.s3Entry = m.offIfCommitted := by
  unfold s3Entry
  rw [h]
  rfl

theorem s3Entry_idle (h : m.sleep.goS3 = false) (h2 : m.sleep.state ≠ 2 ∨ (m.g R.PWR_IDLE3 : Int) = 0 ∨ m.sleep.s2At = none) : m.s3Entry = m := by
  have hn : ∀ x : Mach, x.sleep.goS3 = false → x.offIfCommitted = x := fun x hx => if_neg (by simp [hx])
  unfold s3Entry
  rw [h]
  cases ha : m.sleep.s2At with
  | none => exact hn m h
  | some t =>
    have hm : (if m.sleep.state = 2 ∧ (m.g R.PWR_IDLE3 : Int) ≠ 0 then (m.runToElapsed (t + (m.g R.PWR_IDLE3 : Int) * 1000000000)).s3Ask else m) = m := by
      refine if_neg fun hc => ?_
      rcases h2 with h2 | h2 | h2
      · exact h2 hc.1
      · exact hc.2 h2
      · rw [ha] at h2
        cases h2
    dsimp only
    rw [hm]
    exact hn m h

theorem s3Entry_expires (h : m.sleep.goS3 = false) (h2 : m.sleep.state = 2) (h3 : (m.g R.PWR_IDLE3 : Int) ≠ 0) (ht : m.sleep.s2At = some t0) :
    m.s3Entry = ((m.runToElapsed (t0 + (m.g R.PWR_IDLE3 : Int) * 1000000000)).s3Ask).offIfCommitted := by
  unfold s3Entry
  rw [h, ht]
  have hm : (if m.sleep.state = 2 ∧ (m.g R.PWR_IDLE3 : Int) ≠ 0 then (m.runToElapsed (t0 + (m.g R.PWR_IDLE3 : Int) * 1000000000)).s3Ask else m) =
      (m.runToElapsed (t0 + (m.g R.PWR_IDLE3 : Int) * 1000000000)).s3Ask := if_pos ⟨h2, h3⟩
  dsimp only
  rw [hm]
  rfl

theorem cancelAll_pending (m : Mach) : (m.cancelPending (fun _ => true)).tick.pending = [] := by
  have h0 : (m.onTick fun t => { t with pending := t.pending.filter fun _ => !true }).tick.pending = [] := List.filter_eq_nil_iff.mpr fun _ _ => by simp
  refine forEach_mem (fun t : Mach => t.tick.pending = []) _ (fun (q : Pending) t => t.donePending q St.state) (fun q _ t ht => ?_) _ h0
  unfold donePending
  rw [show (t.done q.fn q.op q.ctag q.cseq St.state 0 []).tick = t.tick from (done_within _ _ _ _ _ _ _ t).keeps .tick]
  exact ht

theorem pending_of_begun {a b : Mach} (h : Begun a b) (ha : a.tick.pending = []) : b.tick.pending = [] :=
  List.eq_nil_iff_forall_not_mem.mpr fun c hc => by
    have hm := h.pending c hc
    rw [ha] at hm
    cases hm

theorem popTickEnded_pending (f : Fin 8) (m : Mach) (h : m.tick.pending = []) : (m.popTickEnded f).tick.pending = [] := by
  unfold popTickEnded
  split
  · exact pending_of_begun (abandonPop_begun f _ _ m) h
  · exact h

theorem spikesDropped_tick (m : Mach) : m.spikesDropped.tick = m.tick :=
  forEach_mem (fun t : Mach => t.tick = m.tick) m.spikes (fun s t => t.routeDrop s.fn) (fun s _ t ht => ((routeDrop_within s.fn t).keeps .tick).trans ht)
    { m with spikes := [] } rfl

/-- Abandoned work adds no change that waits. -/
theorem abandonWork_pending (m : Mach) (h : m.tick.pending = []) : m.abandonWork.tick.pending = [] := by
  have h0 := forEach_mem (fun t : Mach => t.tick.pending = []) (List.finRange 72) (fun (e : Fin 72) t => t.abandonEng e fun _ => true)
    (fun e _ t ht => pending_of_begun (abandonEng_begun e _ t) ht) m h
  rw [abandonWork_eq, onTick_tick]
  generalize forEach (List.finRange 72) (fun (e : Fin 72) t => t.abandonEng e fun _ => true) m = m0 at *
  rw [← spikesDropped_tick m0] at h0
  have h1 := forEach_mem (fun t : Mach => t.tick.pending = []) (List.finRange 8) (fun (f : Fin 8) t => t.popTickEnded f)
    (fun f _ t ht => popTickEnded_pending f t ht) m0.spikesDropped h0
  generalize forEach (List.finRange 8) (fun (f : Fin 8) t => t.popTickEnded f) m0.spikesDropped = m1 at *
  exact h1

end

end Mach

end Sys2Proof.Machine

namespace Sys2Proof.Machine

set_option Elab.async false

namespace Mach

/-! ## S3 (R326) -/

/-- A machine that has powered off for S3. -/
structure PoweredOff (m t : Mach) : Prop where
  state : t.sleep.state = 3
  asked : t.sleep.goS3 = false
  cleared : t.Cleared
  count : t.g R.PWR_S3_ENTRY = (m.g R.PWR_S3_ENTRY + 1) % 2 ^ 32
  time : t.time = m.time
  dram : t.dram = m.dram
  pending : t.tick.pending = []
  parts : OnlyIn [.regs, .tick, .fe, .eng, .tleq, .tle, .heldDesc, .pops, .spikes, .jnl, .led, .lvl, .sleep, .fn, .rst, .cache, .out] m t

/-- The compute side is off for S3, before STATE reads 3. -/
def haltedForS3 (m : Mach) : Mach := ((m.cancelPending (fun _ => true)).abandonWork.clearCompute).onRst fun r => { r with compute := none }

theorem haltedForS3_within (m : Mach) : Within [.regs, .tick, .fe, .eng, .tleq, .tle, .heldDesc, .pops, .spikes, .jnl, .led, .lvl, .fn, .rst, .cache, .out] m
    m.haltedForS3 :=
  (onRst_within _ _).after <| (clearCompute_within _).after <| (abandonWork_within _).after <| (cancelPending_within _ _).after <| .refl _ _

theorem haltedForS3_spec (m : Mach) : m.haltedForS3.Cleared ∧ m.haltedForS3.tick.pending = [] ∧ m.haltedForS3.g R.PWR_S3_ENTRY = m.g R.PWR_S3_ENTRY := by
  unfold haltedForS3
  have h1 := cancelAll_pending m
  have r1 : (m.cancelPending (fun _ => true)).regs = m.regs := (cancelPending_within _ m).keeps .regs
  generalize m.cancelPending (fun _ => true) = m1 at *
  have h2 := abandonWork_pending m1 h1
  have r2 := abandonWork_lowKept m1
  generalize m1.abandonWork = m2 at *
  have h3 : m2.clearCompute.tick = m2.tick := (clearCompute_within m2).keeps .tick
  have r3 : m2.clearCompute.regs = m2.regs := (clearCompute_within m2).keeps .regs
  have hc := clearCompute_cleared m2
  generalize m2.clearCompute = m3 at *
  refine ⟨hc.of_parts (onRst_within _ m3).parts, by rw [onRst_tick, h3, h2], ?_⟩
  rw [onRst_g, g_of_regs r3, r2.g _ (by decide), g_of_regs r1]

theorem poweredOff_spec (m : Mach) : PoweredOff m m.poweredOff := by
  have hw := haltedForS3_within m
  obtain ⟨hc, hp, hg⟩ := haltedForS3_spec m
  have he : m.poweredOff = (m.haltedForS3.onSleep fun s => { s with state := 3, entering := none, stepAt := none, s2At := none, goS3 := false }).inc R.PWR_S3_ENTRY := rfl
  rw [he]
  have htime : m.haltedForS3.time = m.time := hw.keeps .time
  have hdram : m.haltedForS3.dram = m.dram := hw.keeps .dram
  have hparts := hw.parts
  generalize m.haltedForS3 = m1 at *
  have ho : OnlyIn [.sleep, .regs] m1 ((m1.onSleep fun s => { s with state := 3, entering := none, stepAt := none, s2At := none, goS3 := false }).inc R.PWR_S3_ENTRY) :=
    ((onSleep_within _ m1).parts.append (OnlyIn.inc _ _)).mono (by decide)
  refine ⟨rfl, rfl, hc.of_parts ho, ?_, htime, hdram, hp, (hparts.append ho).mono (by decide)⟩
  rw [g_inc_word _ _ rfl rfl, onSleep_g, hg]

theorem s3Ask_spec (m : Mach) : m.s3Ask.sleep = { m.sleep with goS3 := true } ∧ m.s3Ask.time = m.time ∧ m.s3Ask.tick.tn = m.tick.tn := by
  unfold s3Ask
  split
  next h => exact ⟨by rw [← h], rfl, rfl⟩
  next =>
    have hr := health_recOnly H.sleep .package [3] (m.onSleep fun s => { s with goS3 := true })
    exact ⟨hr.parts .sleep (by decide), hr.parts .time (by decide), by rw [hr.tick]; rfl⟩

/-- S2 that has lasted IDLE_S3 asks for S3, and enters it once nothing is left to commit. -/
theorem s3Entry_expired {m : Mach} {t0 : Int} (h : m.sleep.goS3 = false) (h2 : m.sleep.state = 2) (h3 : (m.g R.PWR_IDLE3 : Int) ≠ 0) (ht : m.sleep.s2At = some t0) :
    t0 + (m.g R.PWR_IDLE3 : Int) * 1000000000 ≤ m.s3Entry.elapsed ∧
      (m.s3Entry.sleep.state = 3 ∨ (m.s3Entry.sleep.state = 2 ∧ m.s3Entry.sleep.goS3 = true)) := by
  rw [s3Entry_expires h h2 h3 ht]
  have hreach := runToElapsed_reaches m (t0 + (m.g R.PWR_IDLE3 : Int) * 1000000000)
  have hs : (m.runToElapsed (t0 + (m.g R.PWR_IDLE3 : Int) * 1000000000)).sleep = m.sleep := (runToElapsed_clockOnly _ m).parts .sleep (by decide)
  generalize m.runToElapsed (t0 + (m.g R.PWR_IDLE3 : Int) * 1000000000) = m1 at *
  obtain ⟨a1, a2, -⟩ := s3Ask_spec m1
  have he : m1.s3Ask.elapsed = m1.elapsed := by
    unfold elapsed
    rw [a2]
  generalize m1.s3Ask = m2 at *
  unfold offIfCommitted
  split
  · have hp := poweredOff_spec m2
    refine ⟨?_, .inl hp.state⟩
    have : m2.poweredOff.elapsed = m2.elapsed := by
      unfold elapsed
      rw [hp.time]
    rw [this, he]
    exact hreach
  · exact ⟨he.symm ▸ hreach, .inr ⟨by rw [a1, ← h2, ← hs], by rw [a1]⟩⟩

theorem goS3_idle {m : Mach} (h : m.rst.hold.isSome = true ∨ m.inWarm = true ∨ m.sleep.state = 3) : m.goS3 = m :=
  if_pos (by rcases h with h | h | h <;> simp [h])

theorem goS3_asks {m : Mach} (h1 : m.rst.hold = none) (h2 : m.inWarm = false) (h3 : m.sleep.state ≠ 3) :
    m.goS3.sleep.goS3 = true ∧ m.goS3.sleep.state = m.sleep.state ∧
      (m.sleep.state ≠ 2 → m.goS3.sleep.entering = some m.tick.tn ∧ m.goS3.tick.wdogArmed = false) := by
  obtain ⟨a1, -, a3⟩ := s3Ask_spec m
  unfold goS3
  rw [if_neg (by simp [h1, h2, h3])]
  split
  next hs => exact ⟨by rw [a1], by rw [a1], fun hn => absurd hs hn⟩
  next =>
    obtain ⟨b1, b2, -, -⟩ := stopTicks_spec m.s3Ask
    exact ⟨by rw [b1, a1], by rw [b1, a1], fun _ => ⟨by rw [b1, a3], b2⟩⟩

/-! ## A wake from S2 (R327) -/

/-- A port is off, or its surface is being zeroed. -/
def Restarting (p : Fin 16) (m : Mach) : Prop := m.on (R.ING_CTRL_EN p) = false ∨ (m.fe.get p).zeroing = true

theorem restartPorts_restarting {p : Fin 16} {m : Mach} (h : m.on (R.ING_CTRL_EN p) = true) : m.restartPorts.Restarting p := by
  cases he : m.restartPorts.on (R.ING_CTRL_EN p) with
  | false => exact .inl he
  | true =>
    obtain ⟨-, -, hz, -⟩ := (restartPorts_back m p h).1 he
    exact .inr hz

theorem portEn_ne_linkChg (p : Fin 16) (l : Fin 4) : (R.ING_CTRL_EN p).a ≠ (R.LNK_STAT_CHG l).a := by
  simp only [R.ING_CTRL_EN, R.LNK_STAT_CHG]
  omega

theorem startTraining_restarting {p : Fin 16} {m : Mach} (l : Fin 4) (h : m.Restarting p) : (m.startTraining l).Restarting p := by
  have hfe : (m.startTraining l).fe = m.fe := (startTraining_within l m).keeps .fe
  have hg : (m.startTraining l).g (R.ING_CTRL_EN p) = m.g (R.ING_CTRL_EN p) := by
    have hr := startTraining_regs l m (R.ING_CTRL_EN p).a fun hm => portEn_ne_linkChg p l (List.mem_singleton.mp hm)
    unfold g
    rw [hr]
  unfold Restarting on at h ⊢
  rw [hg, hfe]
  exact h

theorem wakeS2_restarting {p : Fin 16} {m : Mach} (h : m.on (R.ING_CTRL_EN p) = true) : m.wakeS2.Restarting p := by
  unfold wakeS2
  extract_lets m1 m2
  have h1 : m1.restartPorts.Restarting p := restartPorts_restarting (m := m1) h
  have h2 : m2.Restarting p := by
    unfold m2
    have hw := loadBound_within m1.restartPorts
    generalize m1.restartPorts = m3 at *
    unfold Restarting on at h1 ⊢
    rw [g_of_regs (hw.keeps .regs), show m3.loadBound.fe = m3.fe from hw.keeps .fe]
    exact h1
  clear_value m2
  split
  · exact h2
  · exact forEach_mem (Restarting p) _ _ (fun l _ t ht => startTraining_restarting l ht) m2 h2

end Mach

end Sys2Proof.Machine

namespace Sys2Proof.Machine

set_option Elab.async false

namespace Mach

/-! ## The branches of a wake (R327) -/

/-- A source that abandons an entry to S2. -/
def Abandons (source unit : Nat) (m : Mach) : Prop :=
  m.sleep.state = 0 ∧ m.sleep.entering ≠ none ∧ m.sleep.goS3 = false ∧ 1 ≤ source ∧ source ≤ 7 ∧ m.wakeUnitOk source unit = true

section
variable {source unit : Nat} {m : Mach}

theorem wake_abandons (h : m.Abandons source unit) : m.wake source unit = m.abandonEntry := by
  obtain ⟨h1, h2, h3, h4, h5, h6⟩ := h
  exact if_pos ⟨h1, Option.isSome_iff_ne_none.mpr h2, by simp [h3], h4, h5, h6⟩

/-- A source that abandons no entry wakes, or does nothing. -/
theorem wake_eq (h : ¬ m.Abandons source unit) :
    m.wake source unit = if !wakesFrom source m.sleep.state || !m.wakeUnitOk source unit then m
      else if m.sleep.state = 3 then (m.recordWake source unit).wakeS3 (if source = 2 then Cause.resetN else Cause.wakeS3)
      else if source = 2 then ((m.recordWake source unit).warmReset Cause.resetN 0).onSleep fun s => { s with waking := true }
      else (m.recordWake source unit).wakeS2 :=
  if_neg fun hc => h ⟨hc.1, Option.isSome_iff_ne_none.mp hc.2.1, by simpa using hc.2.2.1, hc.2.2.2.1, hc.2.2.2.2.1, hc.2.2.2.2.2⟩

theorem wakesFrom_no (h : (m.sleep.state ≠ 2 ∧ m.sleep.state ≠ 3) ∨ source = 0 ∨ 7 < source ∨ (m.sleep.state = 3 ∧ source ≠ 1 ∧ source ≠ 2)) :
    wakesFrom source m.sleep.state = false := by
  unfold wakesFrom
  split
  next h2 =>
    rcases h with ⟨h, -⟩ | h | h | ⟨h, -⟩
    · exact absurd h2 h
    · simp [h]
    · simp [h]
    · exact absurd (h2.symm.trans h) (by decide)
  next h2 =>
    rcases h with ⟨-, h⟩ | h | h | ⟨-, h, h'⟩
    · simp [h]
    · simp [h]
    · simp [show source ≠ 1 by omega, show source ≠ 2 by omega]
    · simp [h, h']

theorem wake_idle (h : ¬ m.Abandons source unit) (hn : (m.sleep.state ≠ 2 ∧ m.sleep.state ≠ 3) ∨ source = 0 ∨ 7 < source ∨ m.wakeUnitOk source unit = false ∨
    (m.sleep.state = 3 ∧ source ≠ 1 ∧ source ≠ 2)) : m.wake source unit = m := by
  rw [wake_eq h]
  refine if_pos ?_
  rcases hn with h1 | h1 | h1 | h1 | h1
  · simp [wakesFrom_no (.inl h1)]
  · simp [wakesFrom_no (m := m) (.inr (.inl h1))]
  · simp [wakesFrom_no (m := m) (.inr (.inr (.inl h1)))]
  · simp [h1]
  · simp [wakesFrom_no (.inr (.inr (.inr h1)))]

theorem not_abandons (h : m.sleep.state ≠ 0) : ¬ m.Abandons source unit := fun hc => h hc.1

theorem wake_s2 (h : m.sleep.state = 2) (h1 : 1 ≤ source) (h7 : source ≤ 7) (h2 : source ≠ 2) (hu : m.wakeUnitOk source unit = true) :
    m.wake source unit = (m.recordWake source unit).wakeS2 := by
  rw [wake_eq (not_abandons (by omega)), if_neg (by simp [wakesFrom, h, h1, h7, hu]), if_neg (by omega), if_neg h2]

/-- How a reset that wakes is left: from S3 with the encoders discontinuous. -/
theorem wake_resets (h : m.sleep.state = 2 ∧ source = 2 ∨ m.sleep.state = 3 ∧ (source = 1 ∨ source = 2)) :
    m.wake source unit = if m.sleep.state = 3 then (m.recordWake source unit).wakeS3 (if source = 2 then Cause.resetN else Cause.wakeS3)
      else ((m.recordWake source unit).warmReset Cause.resetN 0).onSleep fun s => { s with waking := true } := by
  have hu : m.wakeUnitOk source unit = true := by
    unfold wakeUnitOk
    rcases h with ⟨-, h⟩ | ⟨-, h | h⟩ <;> simp [h]
  have hs : m.sleep.state ≠ 0 := by rcases h with ⟨h, -⟩ | ⟨h, -⟩ <;> omega
  have hw : wakesFrom source m.sleep.state = true := by
    unfold wakesFrom
    rcases h with ⟨h, h'⟩ | ⟨h, h' | h'⟩ <;> simp [h, h']
  rw [wake_eq (not_abandons hs), if_neg (by simp [hw, hu])]
  split
  · rfl
  next h3 => exact if_pos (by rcases h with ⟨-, h⟩ | ⟨h, -⟩ <;> [exact h; exact absurd h h3])

/-! ### The wake's record (R328) -/

theorem recordWake_fields (source unit : Nat) (m : Mach) (hs : source < 2 ^ 8) (h2 : m.sleep.state = 2) :
    (m.recordWake source unit).g R.PWR_WAKE_LAST_SOURCE = source ∧ (m.recordWake source unit).g R.PWR_WAKE_LAST_FROM = 2 ∧
    (m.recordWake source unit).g R.PWR_WAKE_LAST_UNIT = unit % 2 ^ 8 ∧ (m.recordWake source unit).sleep = { m.sleep with wakeT := m.time.n } := by
  refine ⟨recordWake_source unit m hs, ?_, ?_, ?_⟩
  · unfold recordWake
    rw [onSleep_g, g_put_apart _ _ (by unfold Apart; decide), g_put_apart _ _ (by unfold Apart; decide), g_put_self _ _ _ (by decide) (by decide), h2]
    rfl
  · unfold recordWake
    rw [onSleep_g, g_put_apart _ _ (by unfold Apart; decide), g_put_self _ _ _ (by decide) (by decide)]
    rfl
  · unfold recordWake
    rw [onSleep_sleep, put_sleep, put_sleep, put_sleep]

end

/-! ## What a package warm reset keeps (R410 to R413) -/

theorem writeAll_written (b : Body) (flags : Nat) (m : Mach) : Written m (m.writeAll b flags) :=
  .forEach _ _ (fun f t => write'_written f b flags t) m

/-- A change of quality writes its record and leaves the time and the action table. -/
theorem setQuality_kept (q : Quality) (m : Mach) : (m.setQuality q).time = { m.time with quality := q } ∧ (m.setQuality q).jnl.actions = m.jnl.actions := by
  unfold setQuality
  split
  next h => exact ⟨by rw [← h], rfl⟩
  next =>
    unfold timeStatus
    refine ⟨(writeAll_within _ _ _).keeps .time, ?_⟩
    exact (writeAll_written _ _ (m.onTime fun t => { t with quality := q })).actions

/-- Records and action table stay while rings stop and open commands end. -/
def RecsKept (a b : Mach) : Prop := b.jnl.recs = a.jnl.recs ∧ b.jnl.actions = a.jnl.actions

theorem RecsKept.of_endOnly {f : Fin 8} {a b : Mach} (h : EndOnly f a b) : RecsKept a b := by
  unfold RecsKept
  rw [h.jnl]
  exact ⟨rfl, rfl⟩

theorem endOwed_kept (f : Fin 8) (m : Mach) : RecsKept m (m.endOwed f) := by
  unfold endOwed
  have h := forEach_mem (EndOnly f m) ((m.owedCmds f).filter fun o => (m.fn.get f).openCmds.contains o.2.2)
    (fun o t => t.doneOne f { op := o.1, ctag := o.2.1, status := St.done, result := St.state, cseq := o.2.2 })
    (fun o _ t ht => ht.trans (doneOne_endOnly f _ t)) m (.refl m)
  exact .of_endOnly (h.trans (fencesDone_endOnly f _))

/-- Every function's rings stop and its open commands end. -/
def ringsEnded (m : Mach) : Mach := forEach (List.finRange 8) (fun (f : Fin 8) t => (t.stopRings f).endOwed f) m

theorem ringsEnded_within (m : Mach) : Within [.regs, .fn, .jnl, .out] m m.ringsEnded :=
  Within.loop (fun f t => ((endOwed_within f _).after (l := [.regs, .fn, .jnl, .out]) (stopRings_within f t).mono)) (.refl _ _)

theorem ringsEnded_kept (m : Mach) : RecsKept m m.ringsEnded := by
  refine forEach_mem (RecsKept m) _ _ (fun f _ t ht => ?_) m ⟨rfl, rfl⟩
  have hj : (t.stopRings f).jnl = t.jnl := (stopRings_within f t).keeps .jnl
  obtain ⟨h1, h2⟩ := endOwed_kept f (t.stopRings f)
  exact ⟨h1.trans ((congrArg Journal.recs hj).trans ht.1), h2.trans ((congrArg Journal.actions hj).trans ht.2)⟩

/-- A reset that begins: its cause, the sleep state left, and what survives. -/
structure WarmBegun (code : Nat) (m t : Mach) : Prop where
  hold : t.rst.hold = some (.warm code)
  sleep : t.sleep.state = 0
  wakeT : t.sleep.wakeT = m.sleep.wakeT
  dram : t.dram = m.dram
  recs : m.time.quality = .free ∨ m.time.quality = .holdover → t.jnl.recs = m.jnl.recs
  actions : t.jnl.actions = m.jnl.actions
  n : t.time.n = m.time.n

/-- The machine whose pads are latched, whose cause is noted and whose clock has left LOCKED. -/
def warmLatched (code detail : Nat) (m : Mach) : Mach :=
  let m0 := m.latchPads.recordCause code detail
  if m0.time.quality = .locked ∨ m0.time.quality = .stepped then m0.setQuality .holdover else m0

/-- What a warm reset clears, and its mark. -/
def warmCleared (code : Nat) (e : Int) (cap : Nat) (m : Mach) : Mach := ((m.warmClear.onRst (warmUnit code e)).put R.PWR_CAP cap).inc R.RST_WARM_COUNT

theorem warmReset_eq {m : Mach} (code detail : Nat) (h : m.rst.hold ≠ some .por) :
    m.warmReset code detail = (m.warmLatched code detail).ringsEnded.warmCleared code m.elapsed m.gradeCap := by
  unfold warmReset
  rw [if_neg h]
  rfl

theorem warmLatched_spec (code detail : Nat) (m : Mach) :
    (m.warmLatched code detail).time.n = m.time.n ∧ (m.warmLatched code detail).sleep = m.sleep ∧ (m.warmLatched code detail).dram = m.dram ∧
    (m.warmLatched code detail).jnl.actions = m.jnl.actions ∧
    (m.time.quality = .free ∨ m.time.quality = .holdover → (m.warmLatched code detail).jnl = m.jnl) := by
  unfold warmLatched
  have hw : Within [.regs, .rst, .draws] m (m.latchPads.recordCause code detail) :=
    (recordCause_within code detail _).after (l := [.regs, .rst, .draws]) (latchPads_within m).mono
  extract_lets m0
  have ht : m0.time = m.time := hw.keeps .time
  have hs : m0.sleep = m.sleep := hw.keeps .sleep
  have hd : m0.dram = m.dram := hw.keeps .dram
  have hj : m0.jnl = m.jnl := hw.keeps .jnl
  clear_value m0
  split
  next hq =>
    have hk := setQuality_within .holdover m0
    obtain ⟨h1, h2⟩ := setQuality_kept .holdover m0
    refine ⟨by rw [h1, ht], (hk.keeps .sleep).trans hs, (hk.keeps .dram).trans hd, by rw [h2, hj], fun hf => ?_⟩
    rw [ht] at hq
    rcases hf with hf | hf <;> rw [hf] at hq <;> rcases hq with hq | hq <;> cases hq
  next => exact ⟨by rw [ht], hs, hd, by rw [hj], fun _ => hj⟩

theorem warmCleared_spec (code : Nat) (e : Int) (cap : Nat) (m : Mach) :
    (m.warmCleared code e cap).rst.hold = some (.warm code) ∧ (m.warmCleared code e cap).sleep.state = 0 ∧
    (m.warmCleared code e cap).sleep.wakeT = m.sleep.wakeT ∧ (m.warmCleared code e cap).dram = m.dram ∧
    (m.warmCleared code e cap).jnl.recs = m.jnl.recs ∧ (m.warmCleared code e cap).jnl.actions = m.jnl.actions ∧
    (m.warmCleared code e cap).time.n = m.time.n := by
  unfold warmCleared
  rw [inc_rst, put_rst, onRst_rst, inc_sleep, put_sleep, onRst_sleep, inc_dram, put_dram, onRst_dram, inc_jnl, put_jnl, onRst_jnl, inc_time, put_time, onRst_time]
  exact ⟨rfl, rfl, rfl, rfl, rfl, rfl, rfl⟩

theorem warmBegun {m : Mach} (code detail : Nat) (h : m.rst.hold ≠ some .por) : WarmBegun code m (m.warmReset code detail) := by
  rw [warmReset_eq code detail h]
  obtain ⟨h1, h2, h3, h4, h5⟩ := warmLatched_spec code detail m
  generalize m.warmLatched code detail = m1 at *
  have hw := ringsEnded_within m1
  obtain ⟨k1, k2⟩ := ringsEnded_kept m1
  have kt : m1.ringsEnded.time = m1.time := hw.keeps .time
  have ks : m1.ringsEnded.sleep = m1.sleep := hw.keeps .sleep
  have kd : m1.ringsEnded.dram = m1.dram := hw.keeps .dram
  generalize m1.ringsEnded = m2 at *
  obtain ⟨c1, c2, c3, c4, c5, c6, c7⟩ := warmCleared_spec code m.elapsed m.gradeCap m2
  exact ⟨c1, c2, by rw [c3, ks, h2], by rw [c4, kd, h3], fun hq => by rw [c5, k1, h5 hq], by rw [c6, k2, h4], by rw [c7, kt, h1]⟩

/-! ### A wake that resets (R201, R327) -/

/-- A wake by a reset, as it leaves the machine. -/
structure WokenByReset (code : Nat) (m t : Mach) : Prop where
  hold : t.rst.hold = some (.warm code)
  sleep : t.sleep.state = 0
  waking : t.sleep.waking = true
  wakeT : t.sleep.wakeT = m.time.n
  dram : t.dram = m.dram
  recs : m.time.quality = .free ∨ m.time.quality = .holdover → t.jnl.recs = m.jnl.recs
  actions : t.jnl.actions = m.jnl.actions
  n : t.time.n = m.time.n

/-- The machine in a reset that shows the wake. -/
def wakingReset (code : Nat) (m : Mach) : Mach := (m.warmReset code 0).onSleep fun s => { s with waking := true }

theorem wakingReset_spec (code source unit : Nat) (m : Mach) (h : m.rst.hold ≠ some .por) :
    WokenByReset code m ((m.recordWake source unit).wakingReset code) := by
  have hw := recordWake_within source unit m
  have hrst : (m.recordWake source unit).rst = m.rst := hw.keeps .rst
  have htime : (m.recordWake source unit).time = m.time := hw.keeps .time
  have hdram : (m.recordWake source unit).dram = m.dram := hw.keeps .dram
  have hjnl : (m.recordWake source unit).jnl = m.jnl := hw.keeps .jnl
  have hs : (m.recordWake source unit).sleep.wakeT = m.time.n := by
    unfold recordWake
    rw [onSleep_sleep]
  generalize m.recordWake source unit = m1 at *
  obtain ⟨b1, b2, b3, b4, b5, b6, b7⟩ := warmBegun (m := m1) code 0 (by rw [hrst]; exact h)
  unfold wakingReset
  generalize m1.warmReset code 0 = m2 at *
  have ho : (m2.onSleep fun s => { s with waking := true }).sleep = { m2.sleep with waking := true } := rfl
  exact ⟨b1, by rw [ho, ← b2], by rw [ho], by rw [ho, ← hs, ← b3], b4.trans hdram, fun hq => by
    rw [htime, hjnl] at b5
    exact b5 hq, b6.trans (by rw [hjnl]), b7.trans (by rw [htime])⟩

/-- Encoders that were enabled are discontinuous after S3. -/
def discontinued (l : List (Fin 4)) (m : Mach) : Mach := forEach l (fun (n : Fin 4) t => t.set1 (R.MOT_ENC_STAT_DISCONT n)) m

theorem wakeS3_eq (code : Nat) (m : Mach) :
    m.wakeS3 code = (m.wakingReset code).discontinued ((List.finRange 4).filter fun (n : Fin 4) => m.on (R.MOT_ENC_CTRL_EN n)) := rfl

theorem discontinued_within (l : List (Fin 4)) (m : Mach) : Within [.regs] m (m.discontinued l) := Within.loop (fun _ t => (set1_within _ t).mono) (.refl _ _)

theorem set1_discont (n : Fin 4) (m : Mach) : (m.set1 (R.MOT_ENC_STAT_DISCONT n)).g (R.MOT_ENC_STAT_DISCONT n) = 1 :=
  g_set1 m _ rfl (by simp only [R.MOT_ENC_STAT_DISCONT]; omega)

theorem discont_ne {n k : Fin 4} (h : n ≠ k) : (R.MOT_ENC_STAT_DISCONT n).a ≠ (R.MOT_ENC_STAT_DISCONT k).a := by
  have : n.1 ≠ k.1 := fun e => h (Fin.ext e)
  simp only [R.MOT_ENC_STAT_DISCONT]
  omega

theorem discontinued_set {l : List (Fin 4)} {n : Fin 4} (h : n ∈ l) (m : Mach) : (m.discontinued l).g (R.MOT_ENC_STAT_DISCONT n) = 1 := by
  refine forEach_reaches (fun (n : Fin 4) (t : Mach) => t.g (R.MOT_ENC_STAT_DISCONT n) = 1) _ _ (fun n t => set1_discont n t) (fun k n t ht => ?_) m n h
  by_cases hk : n = k
  · exact hk ▸ set1_discont n t
  · exact (g_set1_ne t _ _ (discont_ne hk)).trans ht

end Mach

end Sys2Proof.Machine

namespace Sys2Proof.Machine

set_option Elab.async false

section
variable {s : State} {source unit : Nat}

theorem s2PowerDown_sleeps {t0 : Int} (he : s.sleep.entering ≠ none) (hg : s.sleep.goS3 = false) (ht : s.sleep.stepAt = some t0) (ha : s.jnl.actions = []) :
    Does .s2PowerDown s fun t =>
      t.sleep.state = 2 ∧ t.sleep.entering = none ∧
      ((∀ e : Fin 72, t.eng.get e = {}) ∧ (∀ d : Fin 4, (t.lvl.get d).freq = 0 ∧ (t.lvl.get d).volt = 0) ∧ t.spikes = [] ∧ t.heldDesc = []) ∧
      (s.allCommitted = false → t0 + 100000000 ≤ t.elapsed) ∧
      (∀ p : Fin 16, (t.port.get p).vat = [] ∧ (t.port.get p).reading = none) ∧ t.g R.PWR_S2_ENTRY = (s.g R.PWR_S2_ENTRY + 1) % 2 ^ 32 ∧
      t.dram = s.dram ∧ t.time.y = s.time.y ∧ t.tick.tn = s.tick.tn ∧
      OnlyIn [.regs, .time, .tick, .port, .fe, .eng, .tleq, .tle, .heldDesc, .pops, .spikes, .enc, .fus, .jnl, .led, .lvl, .sleep, .fn, .net, .link, .cache,
        .out] s.toMach t := by
  have hw := (Mach.s2PowerDown_within s.toMach).parts
  have hx := Mach.s2PowerDown_dozes he hg ht ha
  rw [hx] at hw
  have hp := Mach.poweredDown t0 s.toMach
  exact does_of_act (f := Mach.s2PowerDown) rfl hx ⟨hp.state, hp.entering, ⟨hp.cleared.eng, hp.cleared.lvl, hp.cleared.spikes, hp.cleared.held⟩, hp.waited, hp.vats, hp.count,
    hp.dram, hp.rate, hp.tn, hw⟩

theorem s3Entry_powers_off (h : s.sleep.goS3 = true) (hc : s.allCommitted = true) :
    Does .s3Entry s fun t =>
      t.sleep.state = 3 ∧ t.sleep.goS3 = false ∧
      ((∀ e : Fin 72, t.eng.get e = {}) ∧ (∀ d : Fin 4, (t.lvl.get d).freq = 0 ∧ (t.lvl.get d).volt = 0) ∧ t.spikes = [] ∧ t.heldDesc = []) ∧
      t.g R.PWR_S3_ENTRY = (s.g R.PWR_S3_ENTRY + 1) % 2 ^ 32 ∧ t.time = s.time ∧ t.dram = s.dram ∧ t.tick.pending = [] ∧
      OnlyIn [.regs, .tick, .fe, .eng, .tleq, .tle, .heldDesc, .pops, .spikes, .jnl, .led, .lvl, .sleep, .fn, .rst, .cache, .out] s.toMach t := by
  have hp := Mach.poweredOff_spec s.toMach
  have hx : s.s3Entry = s.poweredOff := (Mach.s3Entry_asked h).trans (if_pos (by simp [h, hc]))
  exact does_of_act (f := Mach.s3Entry) rfl hx ⟨hp.state, hp.asked, ⟨hp.cleared.eng, hp.cleared.lvl, hp.cleared.spikes, hp.cleared.held⟩, hp.count, hp.time, hp.dram,
    hp.pending, hp.parts⟩

theorem s3Entry_waits (h : s.sleep.goS3 = true) (hc : s.allCommitted = false) : Idles .s3Entry s :=
  idles_of_act (f := Mach.s3Entry) rfl ((Mach.s3Entry_asked h).trans (if_neg (by simp [hc])))

theorem wake_leaves_s2 (h : s.sleep.state = 2) (h1 : 1 ≤ source) (h7 : source ≤ 7) (h2 : source ≠ 2) (hu : s.wakeUnitOk source unit = true) :
    Does (.wake source unit) s fun t =>
      t.sleep.state = 0 ∧ t.sleep.waking = true ∧ t.sleep.goS3 = false ∧ t.sleep.wakeT = s.time.n ∧ t.g R.PWR_WAKE_LAST_SOURCE = source ∧
      t.g R.PWR_WAKE_LAST_FROM = 2 ∧ t.g R.PWR_WAKE_LAST_UNIT = unit % 2 ^ 8 ∧
      (∀ p : Fin 16, s.on (R.ING_CTRL_EN p) = true → t.on (R.ING_CTRL_EN p) = false ∨ (t.fe.get p).zeroing = true) ∧
      OnlyIn [.regs, .tick, .port, .fe, .eng, .fus, .jnl, .sleep, .link, .draws, .out] s.toMach t := by
  have hx := Mach.wake_s2 h h1 h7 h2 hu
  obtain ⟨r1, r2, r3, r4⟩ := Mach.recordWake_fields source unit s.toMach (by omega) h
  have hw := (Mach.wakeS2_within (s.toMach.recordWake source unit)).parts
  have hrec := (Mach.recordWake_within source unit s.toMach).parts
  have hlow := Mach.wakeS2_lowKept (s.toMach.recordWake source unit)
  have hres := fun p => Mach.wakeS2_restarting (m := s.toMach.recordWake source unit) (p := p)
  have hen : ∀ p : Fin 16, (s.toMach.recordWake source unit).on (R.ING_CTRL_EN p) = s.on (R.ING_CTRL_EN p) := fun p => by
    unfold Mach.on Mach.g
    rw [Mach.recordWake_rd source unit s.toMach (by simp only [R.ING_CTRL_EN, R.PWR_WAKE_LAST_SOURCE]; omega)]
  have hsleep := (Mach.wakeS2_restarted (s.toMach.recordWake source unit)).parts .sleep (by decide)
  generalize s.toMach.recordWake source unit = m1 at *
  have hs : m1.wakeS2.sleep = { m1.sleep with state := 0, s2At := none, goS3 := false, waking := true, idleFrom := m1.elapsed } := hsleep
  generalize m1.wakeS2 = t at *
  exact does_of_act (f := Mach.wake source unit) rfl hx ⟨by rw [hs], by rw [hs], by rw [hs], by rw [hs, r4], (hlow.g _ (by decide)).trans r1,
    (hlow.g _ (by decide)).trans r2, (hlow.g _ (by decide)).trans r3, fun p hp => hres p ((hen p).trans hp), (hrec.append hw).mono (by decide)⟩

theorem wake_by_reset (h : s.sleep.state = 2 ∧ source = 2 ∨ s.sleep.state = 3 ∧ (source = 1 ∨ source = 2)) (hp : s.rst.hold ≠ some .por) :
    Does (.wake source unit) s fun t =>
      t.rst.hold = some (.warm (if source = 2 then Cause.resetN else Cause.wakeS3)) ∧ t.sleep.state = 0 ∧ t.sleep.waking = true ∧
      t.sleep.wakeT = s.time.n ∧ t.dram = s.dram ∧ (s.time.quality = .free ∨ s.time.quality = .holdover → t.jnl.recs = s.jnl.recs) ∧
      t.jnl.actions = s.jnl.actions ∧ t.time.n = s.time.n ∧
      (s.sleep.state = 3 → ∀ n : Fin 4, s.on (R.MOT_ENC_CTRL_EN n) = true → t.g (R.MOT_ENC_STAT_DISCONT n) = 1) := by
  have hx := Mach.wake_resets (unit := unit) h
  by_cases h3 : s.sleep.state = 3
  · rw [if_pos h3, Mach.wakeS3_eq] at hx
    have hr := Mach.wakingReset_spec (if source = 2 then Cause.resetN else Cause.wakeS3) source unit s.toMach hp
    have hl : ∀ n : Fin 4, s.on (R.MOT_ENC_CTRL_EN n) = true →
        n ∈ (List.finRange 4).filter fun (n : Fin 4) => (s.toMach.recordWake source unit).on (R.MOT_ENC_CTRL_EN n) := fun n hn => by
      refine List.mem_filter.mpr ⟨List.mem_finRange n, ?_⟩
      have hrd := Mach.recordWake_rd source unit s.toMach (off := (R.MOT_ENC_CTRL_EN n).a) (by simp only [R.MOT_ENC_CTRL_EN, R.PWR_WAKE_LAST_SOURCE]; omega)
      unfold Mach.on Mach.g at hn ⊢
      rw [hrd]
      exact hn
    generalize ((List.finRange 4).filter fun (n : Fin 4) => (s.toMach.recordWake source unit).on (R.MOT_ENC_CTRL_EN n)) = l at *
    generalize (s.toMach.recordWake source unit).wakingReset (if source = 2 then Cause.resetN else Cause.wakeS3) = m at *
    have hw := Mach.discontinued_within l m
    have hset := fun n hn => Mach.discontinued_set (l := l) (n := n) hn m
    have hrst : (m.discontinued l).rst = m.rst := hw.keeps .rst
    have hsl : (m.discontinued l).sleep = m.sleep := hw.keeps .sleep
    have hj : (m.discontinued l).jnl = m.jnl := hw.keeps .jnl
    have ht : (m.discontinued l).time = m.time := hw.keeps .time
    have hd : (m.discontinued l).dram = m.dram := hw.keeps .dram
    exact does_of_act (f := Mach.wake source unit) rfl hx ⟨by rw [hrst]; exact hr.hold, by rw [hsl]; exact hr.sleep, by rw [hsl]; exact hr.waking, by rw [hsl]; exact hr.wakeT,
      hd.trans hr.dram, fun hq => by rw [hj]; exact hr.recs hq, by rw [hj]; exact hr.actions, by rw [ht]; exact hr.n, fun _ n hn => hset n (hl n hn)⟩
  · have h2 : source = 2 := (h.resolve_right fun hc => h3 hc.1).2
    rw [if_neg h3] at hx
    have hr := Mach.wakingReset_spec Cause.resetN source unit s.toMach hp
    exact does_of_act (f := Mach.wake source unit) rfl hx ⟨by rw [if_pos h2]; exact hr.hold, hr.sleep, hr.waking, hr.wakeT, hr.dram, hr.recs, hr.actions, hr.n,
      fun hc => absurd hc h3⟩

theorem wakeTRead_answers :
    Does .pwrWakeTRead s (fun t =>
      t.g64 R.PWR_WAKE_T_LO_A R.PWR_WAKE_T_HI_A = toBits 64 s.sleep.wakeT ∧
      t.out = .readValue R.PWR_WAKE_T_LO_A (BitVec.ofNat 32 (toBits 64 s.sleep.wakeT)) :: s.out ∧
      RegsBut [R.PWR_WAKE_T_LO_A, R.PWR_WAKE_T_HI_A] s.toMach t ∧ OnlyIn [.regs, .out] s.toMach t) := by
  have hx : s.wakeTRead = s.readPair R.PWR_WAKE_T_LO_A R.PWR_WAKE_T_HI_A s.sleep.wakeT := rfl
  have hw := (Mach.wakeTRead_within s.toMach).parts
  rw [hx] at hw
  refine does_of_act (f := Mach.wakeTRead) rfl hx ⟨Mach.g64_put64 s.toMach _ (by decide), ?_, Mach.readPair_regsBut _ _ _ _, hw⟩
  unfold Mach.readPair
  rw [Mach.emit_out, Mach.rd_put64_lo s.toMach _ (by decide), Mach.put64_out]

end

/-- Settles O36. -/
theorem sleepAndWake : Obligations.SleepAndWake := by
  unfold Obligations.SleepAndWake
  intro s source unit z idle2 idle3 due off abandons
  refine ⟨fun h => idles_of_act (f := Mach.s2Entry) rfl (Mach.s2Entry_idle h), fun h => ?_, fun h => idles_of_act (f := Mach.s2PowerDown) rfl (Mach.s2PowerDown_idle h),
    fun he hg t0 ht => ⟨fun ha => ?_, fun ha => s2PowerDown_sleeps he hg ht ha⟩, fun hg h => idles_of_act (f := Mach.s3Entry) rfl (Mach.s3Entry_idle hg h),
    s3Entry_waits, s3Entry_powers_off, fun hg h2 h3 t0 ht => does_of_act (f := Mach.s3Entry) rfl rfl (Mach.s3Entry_expired hg h2 h3 ht),
    fun h => idles_of_act (f := Mach.goS3) rfl (Mach.goS3_idle h), fun h1 h2 h3 => ?_, fun h => ?_, fun ha h => idles_of_act (f := Mach.wake source unit) rfl (Mach.wake_idle ha h),
    fun h h1 h7 h2 hu => wake_leaves_s2 h h1 h7 h2 hu, fun h hp => wake_by_reset h hp, wakeTRead_answers⟩
  · obtain ⟨h1, h2, h3, h4⟩ := Mach.stopTicks_spec s.toMach
    exact does_of_act (f := Mach.s2Entry) rfl (Mach.s2Entry_enters h) ⟨h1, h2, h3, h4, (Mach.stopTicks_within s.toMach).parts⟩
  · exact does_of_act (f := Mach.s2PowerDown) rfl (Mach.s2PowerDown_abandons he hg ht ha) ⟨rfl, rfl, (Mach.abandonEntry_within s.toMach).parts⟩
  · obtain ⟨h4, h5, h6⟩ := Mach.goS3_asks h1 h2 h3
    exact does_of_act (f := Mach.goS3) rfl rfl ⟨h4, h5, h6, (Mach.goS3_within s.toMach).parts⟩
  · exact does_of_act (f := Mach.wake source unit) rfl (Mach.wake_abandons h) ⟨rfl, rfl, (Mach.abandonEntry_within s.toMach).parts⟩

end Sys2Proof.Machine

namespace Sys2Proof.Machine

set_option Elab.async false

/-! ## What a fetch leaves alike (R376)

PORT_CONFIG judges its pairs on the state after the fetch, and the obligation speaks of the state before it: the two differ in the
command unit only, and nothing that a port's configuration reads or writes sees a difference there. -/

theorem OnlyIn.symm {l : List Part} {a b : Mach} (h : OnlyIn l a b) : OnlyIn l b a := fun q hq => by
  have := h q hq
  cases q <;> exact Eq.symm this

namespace Mach

/-- Two states that differ in the functions' command units at most: the count of fetched commands, the rings and the idle time. -/
structure Alike (a b : Mach) : Prop where
  regs : RegsBut [R.HIF_CMD_FETCHED.a] a b
  parts : OnlyIn [.regs, .sleep, .fn] a b

theorem taken_alike (h : CmdHdr) (owes : Bool) (m : Mach) : Alike m (m.taken h owes) := ⟨taken_regsBut h owes m, taken_onlyIn h owes m⟩

theorem fetch_alike (f : Fin 8) (m : Mach) : Alike m (m.fetch f) := ⟨fetch_regsBut f m, fetch_onlyIn f m⟩

namespace Alike

variable {a b a' b' : Mach}

/-! ### What reads the same -/

section
variable (h : Alike a b)
include h

theorem rd {off : Nat} (ho : off ≠ R.HIF_CMD_FETCHED.a := by simp only [R.HIF_CMD_FETCHED]; omega) : b.rd off = a.rd off :=
  h.regs off (by simpa using ho)

theorem g {e : Fld} (ho : e.a ≠ R.HIF_CMD_FETCHED.a) : b.g e = a.g e := by
  unfold Mach.g
  rw [h.rd ho]

theorem on {e : Fld} (ho : e.a ≠ R.HIF_CMD_FETCHED.a) : b.on e = a.on e := by
  unfold Mach.on
  rw [h.g ho]

theorem port : b.port = a.port := h.parts .port (by decide)
theorem fe : b.fe = a.fe := h.parts .fe (by decide)
theorem own : b.own = a.own := h.parts .own (by decide)
theorem rst : b.rst = a.rst := h.parts .rst (by decide)

/-- A field of a port. -/
theorem ingG {e : Fld} (ho : 0x100000 ≤ e.a) : b.g e = a.g e := h.g (by simp only [R.HIF_CMD_FETCHED]; omega)

theorem ingOn {e : Fld} (ho : 0x100000 ≤ e.a) : b.on e = a.on e := h.on (by simp only [R.HIF_CMD_FETCHED]; omega)

theorem ctrlOn (p : Nat) : b.on (R.ING_CTRL_EN p) = a.on (R.ING_CTRL_EN p) := h.ingOn (by simp only [R.ING_CTRL_EN]; omega)

theorem vcNibble (p vc : Nat) : b.vcNibble p vc = a.vcNibble p vc := by
  unfold Mach.vcNibble
  rw [h.rd (by simp only [R.ING_VCMAP_A, R.HIF_CMD_FETCHED]; omega)]

theorem vcOn (p vc : Nat) : b.vcOn p vc = a.vcOn p vc := by
  unfold Mach.vcOn
  rw [h.vcNibble, h.ingOn (by simp only [R.ING_PHY_VCX_EN]; omega)]

theorem mapsOf (p : Nat) : b.mapsOf p = a.mapsOf p := by
  unfold Mach.mapsOf
  rw [funext (h.vcOn p), funext (h.vcNibble p)]

theorem mapInUse (k : Nat) : b.mapInUse k = a.mapInUse k := by
  have he : (fun p => b.on (R.ING_CTRL_EN p) && (b.mapsOf p).contains k) = fun p => a.on (R.ING_CTRL_EN p) && (a.mapsOf p).contains k :=
    funext fun p => by rw [h.mapsOf, h.ctrlOn]
  unfold Mach.mapInUse
  rw [he]

theorem fmCfg (k : Nat) : b.fmCfg k = a.fmCfg k := by
  unfold Mach.fmCfg
  rw [h.ingG (e := R.FMAP_CFG_WSIZE k) (by simp only [R.FMAP_CFG_WSIZE]; omega), h.ingG (e := R.FMAP_CFG_TYPE_POS k) (by simp only [R.FMAP_CFG_TYPE_POS]; omega),
    h.ingG (e := R.FMAP_CFG_HSHIFT k) (by simp only [R.FMAP_CFG_HSHIFT]; omega), h.ingOn (e := R.FMAP_CFG_LOW_CARRY k) (by simp only [R.FMAP_CFG_LOW_CARRY]; omega),
    h.ingOn (e := R.FMAP_CFG_BSWAP k) (by simp only [R.FMAP_CFG_BSWAP]; omega), h.ingG (e := R.FMAP_UNIT k) (by simp only [R.FMAP_UNIT]; omega)]

theorem pipeOf (p : Nat) : b.pipeOf p = a.pipeOf p := by
  unfold Mach.pipeOf
  rw [h.rd (by simp only [R.FE_D_PIPE_A, R.HIF_CMD_FETCHED]; omega)]

theorem bankOf (p k : Nat) : b.bankOf p k = a.bankOf p k := by
  unfold Mach.bankOf
  rw [h.rd (by simp only [R.FE_D_BANKS0_A, R.HIF_CMD_FETCHED]; omega)]

theorem banksOf (p : Nat) : b.banksOf p = a.banksOf p := by
  unfold Mach.banksOf
  rw [funext (h.bankOf p)]

theorem syncOk (p : Nat) : b.syncOk p = a.syncOk p := by
  unfold Mach.syncOk
  rw [h.ingG (e := R.ING_SYNC_PER p) (by simp only [R.ING_SYNC_PER]; omega), h.ingG (e := R.ING_SYNC_CFG_SYNC_WIDTH p) (by simp only [R.ING_SYNC_CFG_SYNC_WIDTH]; omega),
    h.ingG (e := R.ING_SYNC_PHASE p) (by simp only [R.ING_SYNC_PHASE]; omega)]

theorem rangesOk (p : Nat) : b.rangesOk p = a.rangesOk p := by
  unfold Mach.rangesOk
  rw [h.ingG (e := R.ING_GEOM_WIDTH p) (by simp only [R.ING_GEOM_WIDTH]; omega), h.ingG (e := R.ING_GEOM_HEIGHT p) (by simp only [R.ING_GEOM_HEIGHT]; omega),
    h.ingOn (e := R.ING_CTRL_SYNC_EN p) (by simp only [R.ING_CTRL_SYNC_EN]; omega),
    h.ingG (e := R.ING_SYNC_CFG_SYNC_WIDTH p) (by simp only [R.ING_SYNC_CFG_SYNC_WIDTH]; omega),
    h.ingG (e := R.ING_SYNC_CFG_FIT_HOLD p) (by simp only [R.ING_SYNC_CFG_FIT_HOLD]; omega)]

theorem enableFormat (p : Nat) : b.enableFormat p = a.enableFormat p := by
  unfold Mach.enableFormat
  simp only [h.ctrlOn, h.mapsOf, h.fmCfg, h.pipeOf, h.banksOf, h.syncOk, h.rangesOk]
  rw [h.ingG (e := R.ING_PHY_LANES p) (by simp only [R.ING_PHY_LANES]; omega), h.ingG (e := R.ING_WM_HWM p) (by simp only [R.ING_WM_HWM]; omega),
    h.ingG (e := R.ING_TMO_PKT_TIMEOUT p) (by simp only [R.ING_TMO_PKT_TIMEOUT]; omega),
    h.ingOn (e := R.ING_CTRL_SYNC_EN p) (by simp only [R.ING_CTRL_SYNC_EN]; omega),
    h.ingG (e := R.ING_GEOM_WIDTH p) (by simp only [R.ING_GEOM_WIDTH]; omega), h.ingG (e := R.ING_GEOM_HEIGHT p) (by simp only [R.ING_GEOM_HEIGHT]; omega),
    h.ingG (e := R.ING_WM_LWM p) (by simp only [R.ING_WM_LWM]; omega)]

theorem enableReject (p : Nat) : b.enableReject p = a.enableReject p := by
  unfold Mach.enableReject Mach.enableState
  rw [h.enableFormat, h.rst, h.pipeOf, h.banksOf]

theorem portJudge (f : Fin 8) (p : Fin 16) : b.portJudge f p = a.portJudge f p := by
  unfold Mach.portJudge Mach.washing
  rw [h.own]

end

/-! ### What keeps two states alike -/

/-- The same change of the same parts. -/
theorem step {l : List Part} (h : Alike a b) (ha : OnlyIn l a a') (hb : OnlyIn l b b') (hl : ∀ q ∈ l, q ≠ .regs → q.same a' b')
    (hr : RegsBut [R.HIF_CMD_FETCHED.a] a' b') : Alike a' b' := by
  refine ⟨hr, fun q hq => ?_⟩
  by_cases hql : q ∈ l
  · exact hl q hql fun e => hq (by simp [e])
  · have h3 := (ha.symm.append h.parts).append hb
    have hn : q ∉ l ++ [.regs, .sleep, .fn] ++ l := by simpa [hql] using hq
    exact h3 q hn

/-- The same change of parts that hold no register. -/
theorem stepParts {l : List Part} (h : Alike a b) (ha : OnlyIn l a a') (hb : OnlyIn l b b') (hl : ∀ q ∈ l, q.same a' b') (hn : Part.regs ∉ l) : Alike a' b' := by
  refine h.step ha hb (fun q hq _ => hl q hq) fun off ho => ?_
  have e1 : a'.rd off = a.rd off := by
    unfold Mach.rd
    rw [show a'.regs = a.regs from ha .regs hn]
  have e2 : b'.rd off = b.rd off := by
    unfold Mach.rd
    rw [show b'.regs = b.regs from hb .regs hn]
  rw [e1, e2, h.regs off ho]

theorem wr (h : Alike a b) (k : Nat) (v : Word) : Alike (a.wr k v) (b.wr k v) := by
  refine h.step (OnlyIn.wr a k v) (OnlyIn.wr b k v) (fun q hq hne => absurd (List.mem_singleton.mp hq) hne) fun off ho => ?_
  by_cases hk : off = k
  · rw [hk, rd_wr_self, rd_wr_self]
  · rw [rd_wr_ne _ _ hk, rd_wr_ne _ _ hk, h.regs off ho]

theorem put (h : Alike a b) {e : Fld} (he : e.a ≠ R.HIF_CMD_FETCHED.a) (v : Nat) : Alike (a.put e v) (b.put e v) := by
  unfold Mach.put
  rw [h.rd he]
  exact h.wr _ _

theorem onPort (h : Alike a b) (p : Fin 16) (u : Port → Port) : Alike (a.onPort p u) (b.onPort p u) := by
  refine h.stepParts (onPort_within p u a).parts (onPort_within p u b).parts (fun q hq => ?_) (by decide)
  rw [List.mem_singleton.mp hq]
  exact congrArg (vmod · p u) h.port

theorem onFe (h : Alike a b) (p : Fin 16) (u : Fe → Fe) : Alike (a.onFe p u) (b.onFe p u) := by
  refine h.stepParts (onFe_within p u a).parts (onFe_within p u b).parts (fun q hq => ?_) (by decide)
  rw [List.mem_singleton.mp hq]
  exact congrArg (vmod · p u) h.fe

theorem onFus (h : Alike a b) (u : Fusion → Fusion) : Alike (a.onFus u) (b.onFus u) := by
  refine h.stepParts (onFus_within u a).parts (onFus_within u b).parts (fun q hq => ?_) (by decide)
  rw [List.mem_singleton.mp hq]
  exact congrArg u (h.parts .fus (by decide))

theorem emit (h : Alike a b) (o : Out) : Alike (a.emit o) (b.emit o) := by
  refine h.stepParts (OnlyIn.emit a o) (OnlyIn.emit b o) (fun q hq => ?_) (by decide)
  rw [List.mem_singleton.mp hq]
  exact congrArg (o :: ·) (h.parts .out (by decide))

theorem draws (h : Alike a b) : b.draws = a.draws := h.parts .draws (by decide)

theorem drawn (h : Alike a b) : Alike a.drawNat.2 b.drawNat.2 := by
  refine h.stepParts (drawNat_within a).parts (drawNat_within b).parts (fun q hq => ?_) (by decide)
  rw [List.mem_singleton.mp hq]
  exact congrArg (· + 1) h.draws

theorem forEach {α : Type} (xs : List α) {f : α → Mach → Mach} (hf : ∀ x a b, Alike a b → Alike (f x a) (f x b)) (h : Alike a b) :
    Alike (Machine.forEach xs f a) (Machine.forEach xs f b) := by
  induction xs generalizing a b with
  | nil => exact h
  | cons x r ih => exact ih (hf x a b h)

theorem settings (h : Alike a b) (p : Fin 16) : Alike (a.settings p) (b.settings p) := by
  unfold Mach.settings
  rw [h.port]
  exact h.forEach _ fun e _ _ hab => hab.wr e.1 e.2

end Alike

end Mach

end Sys2Proof.Machine

namespace Sys2Proof.Machine

set_option Elab.async false

/-! ## Writes that stay within a port's settings (R83) -/

namespace Mach

/-- Nothing outside the front half of the register map, the other ports and front ends, and the functions' records changes. -/
structure Inside (p : Fin 16) (a b : Mach) : Prop where
  low : ∀ off, off < 0x100000 ∨ 0x200000 ≤ off → b.rd off = a.rd off
  others : ∀ q : Fin 16, q ≠ p → b.port.get q = a.port.get q ∧ b.fe.get q = a.fe.get q
  fn : b.fn = a.fn

theorem Inside.refl (p : Fin 16) (a : Mach) : Inside p a a := ⟨fun _ _ => rfl, fun _ _ => ⟨rfl, rfl⟩, rfl⟩

theorem Inside.trans {p : Fin 16} {a b c : Mach} (h1 : Inside p a b) (h2 : Inside p b c) : Inside p a c :=
  ⟨fun off h => (h2.low off h).trans (h1.low off h),
    fun q hq => ⟨(h2.others q hq).1.trans (h1.others q hq).1, (h2.others q hq).2.trans (h1.others q hq).2⟩, h2.fn.trans h1.fn⟩

theorem Inside.of_parts {p : Fin 16} {l : List Part} {a b : Mach} (h : OnlyIn l a b)
    (hl : Part.regs ∉ l ∧ Part.port ∉ l ∧ Part.fe ∉ l ∧ Part.fn ∉ l) : Inside p a b := by
  obtain ⟨hr, hp, hf, hn⟩ := hl
  have ep : b.port = a.port := h .port hp
  have ef : b.fe = a.fe := h .fe hf
  refine ⟨fun off _ => ?_, fun q _ => by rw [ep, ef]; exact ⟨rfl, rfl⟩, h .fn hn⟩
  unfold Mach.rd
  rw [show b.regs = a.regs from h .regs hr]

/-- An operation on a port's settings: it stays within them, and does the same to two states that differ in the command unit only. -/
structure Local (p : Fin 16) (f : Mach → Mach) : Prop where
  inside : ∀ m, Inside p m (f m)
  alike : ∀ {a b}, Alike a b → Alike (f a) (f b)

namespace Local

variable {p : Fin 16} {f k : Mach → Mach}

theorem id (p : Fin 16) : Local p fun m => m := ⟨fun m => .refl p m, fun h => h⟩

theorem after (hk : Local p k) (hf : Local p f) : Local p fun m => k (f m) :=
  ⟨fun m => (hf.inside m).trans (hk.inside _), fun h => hk.alike (hf.alike h)⟩

/-- An operation that depends on a value which reads the same. -/
theorem with_ {α : Type} {v : Mach → α} {f : α → Mach → Mach} (hv : ∀ {a b}, Alike a b → v b = v a) (hf : ∀ x, Local p (f x)) : Local p fun m => f (v m) m :=
  ⟨fun m => (hf (v m)).inside m, fun {a b} h => by
    show Alike (f (v a) a) (f (v b) b)
    rw [hv h]
    exact (hf (v a)).alike h⟩

theorem ite {c : Mach → Prop} [∀ m, Decidable (c m)] (hc : ∀ {a b}, Alike a b → (c b ↔ c a)) (hf : Local p f) (hk : Local p k) :
    Local p fun m => if c m then f m else k m := by
  refine ⟨fun m => ?_, fun {a b} h => ?_⟩
  · split
    · exact hf.inside m
    · exact hk.inside m
  · by_cases ha : c a
    · rw [if_pos ha, if_pos ((hc h).mpr ha)]
      exact hf.alike h
    · rw [if_neg ha, if_neg fun hb => ha ((hc h).mp hb)]
      exact hk.alike h

theorem iteB {c : Mach → Bool} (hc : ∀ {a b}, Alike a b → c b = c a) (hf : Local p f) (hk : Local p k) : Local p fun m => if c m then f m else k m :=
  ite (fun h => by rw [hc h]) hf hk

/-- A choice that the operation's argument makes. -/
theorem choice (c : Prop) [Decidable c] (hf : Local p f) (hk : Local p k) : Local p fun m => if c then f m else k m :=
  ite (c := fun _ => c) (fun _ => Iff.rfl) hf hk

/-! ### The state's operations -/

theorem wr {a : Nat} (v : Word) (ha : 0x100000 ≤ a ∧ a < 0x200000) : Local p fun m => m.wr a v := by
  refine ⟨fun m => ⟨fun off h => rd_wr_ne m _ (by omega), fun _ _ => ⟨rfl, rfl⟩, rfl⟩, fun h => h.wr a v⟩

theorem put {e : Fld} (v : Nat) (he : 0x100000 ≤ e.a ∧ e.a < 0x200000) : Local p (Mach.put e v) :=
  ⟨fun m => ⟨fun off h => rd_put_ne m e v (by omega), fun _ _ => ⟨rfl, rfl⟩, rfl⟩, fun h => h.put (by simp only [R.HIF_CMD_FETCHED]; omega) v⟩

theorem set1 {e : Fld} (he : 0x100000 ≤ e.a ∧ e.a < 0x200000) : Local p (Mach.set1 e) := put 1 he

theorem clr {e : Fld} (he : 0x100000 ≤ e.a ∧ e.a < 0x200000) : Local p (Mach.clr e) := put 0 he

theorem onPort (u : Port → Port) : Local p (Mach.onPort p u) :=
  ⟨fun m => ⟨fun off _ => onPort_rd m p u off, fun _ hq => ⟨onPort_get_ne _ _ hq, rfl⟩, rfl⟩, fun h => h.onPort p u⟩

theorem onFe (u : Fe → Fe) : Local p (Mach.onFe p u) :=
  ⟨fun _ => ⟨fun _ _ => rfl, fun _ hq => ⟨rfl, onFe_get_ne _ _ hq⟩, rfl⟩, fun h => h.onFe p u⟩

theorem onFus (u : Fusion → Fusion) : Local p (Mach.onFus u) := ⟨fun m => .of_parts (onFus_within u m).parts (by decide), fun h => h.onFus u⟩

theorem emit (o : Out) : Local p (Mach.emit o) := ⟨fun m => .of_parts (OnlyIn.emit m o) (by decide), fun h => h.emit o⟩

theorem drawn : Local p fun m => m.drawNat.2 := ⟨fun m => .of_parts (drawNat_within m).parts (by decide), fun h => h.drawn⟩

theorem forEach {α : Type} {f : α → Mach → Mach} (xs : List α) (hf : ∀ x ∈ xs, Local p (f x)) : Local p (Machine.forEach xs f) := by
  induction xs with
  | nil => exact .id p
  | cons x r ih => exact (ih fun y hy => hf y (List.mem_cons_of_mem _ hy)).after (hf x List.mem_cons_self)

end Local

end Mach

end Sys2Proof.Machine

namespace Sys2Proof.Machine

set_option Elab.async false

/-! ## Where the windows of a port lie in the register map (R83, R441)

Blocks repeat: an offset is the base, a multiple of each stride, and a place within the span of the rows. Two windows meet only where
such places do. -/

/-- A block of registers without its rows: how often it repeats, at which distance, and how far its rows reach. -/
structure Shape where
  base : Nat
  n : Nat
  stride : Nat
  n2 : Nat
  stride2 : Nat
  span : Nat
deriving DecidableEq

/-- How far the rows of a block reach. -/
def rowsTop (rows : List RegRow) : Nat := (rows.map fun w => w.off + w.st * w.cnt + 1).foldr max 0

def RegBlock.shape (b : RegBlock) : Shape :=
  { base := b.base, n := b.n, stride := b.stride, n2 := b.n2, stride2 := b.stride2, span := rowsTop b.rows }

/-- An offset within a shape, with the unit it belongs to. -/
def Shape.Holds (z : Shape) (key unit : Nat) : Prop :=
  ∃ i j r, i < z.n ∧ j < z.n2 ∧ r < z.span ∧ key = z.base + i * z.stride + j * z.stride2 + r ∧ unit = i * z.n2 + j

/-- The end of what a shape reaches. -/
def Shape.top (z : Shape) : Nat := z.base + (z.n - 1) * z.stride + (z.n2 - 1) * z.stride2 + z.span

theorem Shape.Holds.bounds {z : Shape} {key unit : Nat} (h : z.Holds key unit) : z.base ≤ key ∧ key < z.top := by
  obtain ⟨i, j, r, hi, hj, hr, rfl, -⟩ := h
  have h1 : i * z.stride ≤ (z.n - 1) * z.stride := Nat.mul_le_mul_right _ (by omega)
  have h2 : j * z.stride2 ≤ (z.n2 - 1) * z.stride2 := Nat.mul_le_mul_right _ (by omega)
  unfold Shape.top
  omega

theorem rowsTop_mem {rows : List RegRow} {w : RegRow} (h : w ∈ rows) : w.off + w.st * w.cnt < rowsTop rows := by
  induction rows with
  | nil => simp at h
  | cons x r ih =>
    have hc : rowsTop (x :: r) = max (x.off + x.st * x.cnt + 1) (rowsTop r) := rfl
    rcases List.mem_cons.mp h with rfl | hm
    · omega
    · have := ih hm
      omega

/-- A place that a row repeats to lies below its end. -/
theorem row_reaches {off st cnt r : Nat} (h1 : off ≤ r) (h2 : (r - off) % st = 0) (h3 : (r - off) / st < cnt) : r ≤ off + st * cnt := by
  have hd := Nat.div_add_mod (r - off) st
  have hm : st * ((r - off) / st) ≤ st * cnt := Nat.mul_le_mul_left _ h3.le
  omega

theorem lookup_holds {b : RegBlock} {key : Nat} {y : RegRow × Nat × Nat} (h : b.lookup key = some y) : b.shape.Holds key y.2.1 := by
  unfold RegBlock.lookup at h
  split at h
  · exact absurd h (by simp)
  next hb =>
    extract_lets rel i rel1 j r at h
    split at h
    next hij =>
      split at h
      next w hw =>
        obtain rfl := Option.some.inj h
        have hrow := List.find?_some hw
        simp only [Bool.and_eq_true, decide_eq_true_eq, beq_iff_eq] at hrow
        refine ⟨i, j, r, hij.1, hij.2, ?_, ?_, rfl⟩
        · exact (row_reaches hrow.1.1 hrow.1.2 hrow.2).trans_lt (rowsTop_mem (List.mem_of_find?_eq_some hw))
        · have e1 : b.stride * i + rel1 = rel := Nat.div_add_mod rel b.stride
          have e2 : b.stride2 * j + r = rel1 := Nat.div_add_mod rel1 b.stride2
          show key = b.base + i * b.stride + j * b.stride2 + r
          rw [Nat.mul_comm i, Nat.mul_comm j]
          omega
      · exact absurd h (by simp)
    · exact absurd h (by simp)

/-- The shapes that meet a range of offsets. -/
def shapesIn (lo hi : Nat) : List Shape := (RegMap.blocks.map RegBlock.shape).filter fun z => decide (z.base < hi) && decide (lo < z.top)

theorem regPlace_shape {key lo hi : Nat} {x : RegPlace} (h : regPlace key = some x) (hl : lo ≤ key) (hh : key < hi) :
    ∃ z ∈ shapesIn lo hi, z.Holds key x.unit ∧ x.base = z.base := by
  unfold regPlace at h
  obtain ⟨b, hb, hx⟩ := List.exists_of_findSome?_eq_some h
  obtain ⟨y, hy, rfl⟩ := Option.map_eq_some_iff.mp hx
  have hz := lookup_holds hy
  obtain ⟨h1, h2⟩ := hz.bounds
  refine ⟨b.shape, List.mem_filter.mpr ⟨List.mem_map_of_mem hb, ?_⟩, hz, rfl⟩
  simp only [Bool.and_eq_true, decide_eq_true_eq]
  exact ⟨h1.trans_lt hh, hl.trans_lt h2⟩

theorem shapesIn_ing : shapesIn 0x100000 0x110000 = [⟨0x100000, 16, 0x1000, 1, 0x1000000, 833⟩] := by decide +kernel

theorem shapesIn_fe : shapesIn 0x140000 0x180000 = [⟨0x140000, 4, 0x10000, 4, 0x2000, 189⟩, ⟨0x148000, 4, 0x10000, 1, 0x1000000, 37⟩] := by decide +kernel

theorem shapesIn_fusPort : shapesIn 0x1D4000 0x1D5000 = [⟨0x1D4000, 16, 0x100, 1, 0x1000000, 137⟩] := by decide +kernel

theorem shapesIn_fmap : shapesIn 0x120000 0x120800 = [⟨0x120000, 8, 0x100, 1, 0x1000000, 197⟩] := by decide +kernel

section
variable {p : Fin 16} {o : Nat} {x : RegPlace}

theorem regPlace_ing (ho : o < 0x1000) (h : regPlace (0x100000 + p.1 * 0x1000 + o) = some x) : x.base = 0x100000 ∧ x.unit = p.1 := by
  obtain ⟨z, hz, ⟨i, j, r, hi, hj, hr, hk, hu⟩, hb⟩ := regPlace_shape (lo := 0x100000) (hi := 0x110000) h (by omega) (by omega)
  rw [shapesIn_ing, List.mem_singleton] at hz
  subst hz
  refine ⟨hb, ?_⟩
  dsimp only at hi hj hr hk hu
  omega

theorem regPlace_fe (ho : o < 0x1000) (h : regPlace (0x140000 + p.1 / 4 * 0x10000 + p.1 % 4 * 0x2000 + o) = some x) :
    x.base = 0x140000 ∧ x.unit = p.1 := by
  obtain ⟨z, hz, ⟨i, j, r, hi, hj, hr, hk, hu⟩, hb⟩ := regPlace_shape (lo := 0x140000) (hi := 0x180000) h (by omega) (by omega)
  rw [shapesIn_fe] at hz
  rcases List.mem_cons.mp hz with rfl | hz
  · refine ⟨hb, ?_⟩
    dsimp only at hi hj hr hk hu
    omega
  · obtain rfl := List.mem_singleton.mp hz
    dsimp only at hi hj hr hk hu
    omega

theorem regPlace_fusPort (ho : o < 0x100) (h : regPlace (0x1D4000 + p.1 * 0x100 + o) = some x) : x.base = 0x1D4000 := by
  obtain ⟨z, hz, -, hb⟩ := regPlace_shape (lo := 0x1D4000) (hi := 0x1D5000) h (by omega) (by omega)
  rw [shapesIn_fusPort, List.mem_singleton] at hz
  subst hz
  exact hb

theorem regPlace_fmap (ho : o < 0x800) (h : regPlace (0x120000 + o) = some x) : x.base = 0x120000 := by
  obtain ⟨z, hz, -, hb⟩ := regPlace_shape (lo := 0x120000) (hi := 0x120800) h (by omega) (by omega)
  rw [shapesIn_fmap, List.mem_singleton] at hz
  subst hz
  exact hb

end

namespace Mach

/-- A place that a port's window names: of the port itself, of the fusion engine's settings, or of a format map. -/
structure InWindow (p : Fin 16) (x : RegPlace) : Prop where
  key : 0x100000 ≤ x.key ∧ x.key < 0x200000
  base : (x.base = 0x100000 ∧ x.unit = p.1) ∨ (x.base = 0x140000 ∧ x.unit = p.1) ∨ x.base = 0x1D4000 ∨ x.base = 0x120000

theorem portPlace_inWindow {m : Mach} {f : Fin 8} {p : Fin 16} {off : Nat} {x : RegPlace} (h : m.portPlace f p off = some x) : InWindow p x := by
  unfold portPlace at h
  split at h
  · exact absurd h (by simp)
  split at h
  next ho => exact ⟨by rw [regPlace_key h]; omega, .inl (regPlace_ing ho h)⟩
  split at h
  next h1 h2 => exact ⟨by rw [regPlace_key h]; omega, .inr (.inl (regPlace_fe (by omega) h))⟩
  split at h
  next h1 h2 h3 => exact ⟨by rw [regPlace_key h]; omega, .inr (.inr (.inl (regPlace_fusPort (by omega) h)))⟩
  split at h
  next h1 h2 h3 h4 =>
    split at h
    · exact ⟨by rw [regPlace_key h]; omega, .inr (.inr (.inr (regPlace_fmap (by omega) h)))⟩
    · exact absurd h (by simp)
  · exact absurd h (by simp)

end Mach

end Sys2Proof.Machine

namespace Sys2Proof.Machine

set_option Elab.async false

/-! ## A register write through a port's window stays within the port (R83, R85) -/

namespace Mach

/-- The command words of a transfer and the transfer itself, for any party, before its shape is judged (R62). -/
def sciBegunBy (p : Fin 16) (who : SciBy) (addr wlen rlen : Nat) (m : Mach) : Mach :=
  ((((m.put (R.ING_SCI_CMD_ADDR p) addr).put (R.ING_SCI_CMD_WLEN p) wlen).put (R.ING_SCI_CMD_RLEN p) rlen).set1 (R.ING_SCI_CMD_GO p)).onPort p
    fun x => { x with sci := some { who := who, startEl := m.elapsed, rlen := rlen } }

/-- The host's transfer after it began: it ends at once where its lengths or the mode are off, and else goes out. -/
theorem sciStart_host (p : Fin 16) (addr wlen rlen : Nat) (m : Mach) :
    m.sciStart p .host addr wlen rlen =
      if 32 < wlen ∨ 32 < rlen then (m.sciBegun p .host addr wlen rlen).sciEnded p 3 []
      else if m.sciMode p = 0 ∨ 4 < m.sciMode p then
        (m.sciBegun p .host addr wlen rlen).drawNat.2.sciEnded p (1 + (m.sciBegun p .host addr wlen rlen).drawNat.1 % 4) []
      else (m.sciBegun p .host addr wlen rlen).emit (.sci p.1 (m.sciMode p) addr ((m.sciBuf p).take wlen) rlen) := by
  refine (sciStart_eq p .host addr wlen rlen m).trans ?_
  dsimp only
  rw [sciBegun_mode, sciBegun_buf, sciEnd_quiet (result := 3) (data := []) sciBegun_sci (.inl rfl)]
  have hs : ((m.sciBegun p .host addr wlen rlen).drawNat.2.port.get p).sci = some { who := sciBy .host, startEl := m.elapsed, rlen := rlen } := by
    rw [show (m.sciBegun p .host addr wlen rlen).drawNat.2.port = _ from (drawNat_within _).keeps .port]
    exact sciBegun_sci
  rw [sciEnd_quiet (data := []) hs (.inl rfl)]
  simp

namespace Alike

variable {a b : Mach} (h : Alike a b)
include h

theorem elapsed : b.elapsed = a.elapsed := by
  unfold Mach.elapsed
  rw [show b.time = a.time from h.parts .time (by decide)]

theorem time : b.time = a.time := h.parts .time (by decide)

theorem sciMode (p : Nat) : b.sciMode p = a.sciMode p := by
  unfold Mach.sciMode
  rw [h.ingG (by simp only [R.ING_SCI_CFG_MODE]; omega)]

theorem sciBuf (p : Nat) : b.sciBuf p = a.sciBuf p := sciBuf_congr fun k _ => h.rd (by simp only [R.ING_SCI_BUF_A, R.HIF_CMD_FETCHED]; omega)

theorem stageIn (t : Tab Word) (w : RegWr) (hk : 0x100000 ≤ w.at_.key) : b.stageIn t w = a.stageIn t w := by
  unfold Mach.stageIn
  rw [h.rd (by simp only [R.HIF_CMD_FETCHED]; omega)]

theorem plainWrite (own : Nat) (w : RegWr) (hk : 0x100000 ≤ w.at_.key) : Alike (a.plainWrite own w) (b.plainWrite own w) := by
  unfold Mach.plainWrite
  rw [h.rd (by simp only [R.HIF_CMD_FETCHED]; omega)]
  exact h.wr _ _

end Alike

namespace Local

variable (p : Fin 16)

theorem plainWrite (own : Nat) {w : RegWr} (hk : 0x100000 ≤ w.at_.key ∧ w.at_.key < 0x200000) : Local p fun m => m.plainWrite own w :=
  ⟨fun m => ⟨fun off h => plainWrite_regsBut w m own off (by simp only [List.mem_singleton]; omega), fun _ _ => ⟨rfl, rfl⟩, rfl⟩,
    fun h => h.plainWrite own w hk.1⟩

theorem fitOff : Local p (Mach.fitOff p) := onPort _

theorem flushAsk : Local p (Mach.flushAsk p) := onPort _

theorem disablePort : Local p (Mach.disablePort p) :=
  iteB (c := fun m => (m.port.get p).running) (fun h => by rw [h.port])
    ((onPort _).after (clr (by simp only [R.ING_CTRL_EN]; omega))) (clr (by simp only [R.ING_CTRL_EN]; omega))

theorem zeroSurface : Local p (Mach.zeroSurface p) := onFe _

theorem enablePort : Local p (Mach.enablePort p) :=
  with_ (v := fun m => (m.time.n.fdiv 2000).fdiv 16384)
    (f := fun t m => (((m.set1 (R.ING_CTRL_EN p)).onPort p fun x =>
      { x with running := true, stopReq := false, failed := false, fresh := true, dec := Vector.replicate 16 {}
               rx := x.rx.map fun r => { r with dec := {} } }).fitOff p |>.zeroSurface p).onFe p fun x => { x with sweep := t, sweeping := false })
    (fun h => by rw [h.time]) fun _ =>
    (onFe _).after <| (zeroSurface p).after <| (fitOff p).after <| (onPort _).after <| set1 (by simp only [R.ING_CTRL_EN]; omega)

theorem ctrlEn : Local p (Mach.ctrlEn p) :=
  iteB (fun h => h.ctrlOn p) (.id p) <|
    iteB (fun h => by rw [h.enableReject p]) (set1 (by simp only [R.ING_STAT_EN_ERR]; omega)) (enablePort p)

theorem evalFc : Local p (Mach.evalFc p) :=
  ite (c := fun m => (m.settings p).g (R.ING_WM_HWM p) ≤ fillOf (m.port.get p))
    (fun h => by rw [(h.settings p).ingG (e := R.ING_WM_HWM p) (by simp only [R.ING_WM_HWM]; omega), h.port]) (onPort _) <|
    ite (c := fun m => fillOf (m.port.get p) ≤ (m.settings p).g (R.ING_WM_LWM p))
      (fun h => by rw [(h.settings p).ingG (e := R.ING_WM_LWM p) (by simp only [R.ING_WM_LWM]; omega), h.port]) (onPort _) (.id p)

theorem keepSetting {key : Nat} (hk : 0x100000 ≤ key) : Local p (Mach.keepSetting p key) :=
  ite (c := fun m => (m.port.get p).running ∧ ((m.port.get p).inForce.find key).isNone) (fun h => by rw [h.port])
    (with_ (v := fun m => m.rd key) (fun h => h.rd (by simp only [R.HIF_CMD_FETCHED]; omega)) fun v =>
      onPort fun x => { x with inForce := x.inForce.put key v }) (.id p)

theorem ingSetting (fixed : Bool) {w : RegWr} (hk : 0x100000 ≤ w.at_.key ∧ w.at_.key < 0x200000) : Local p (Mach.ingSetting p fixed w) :=
  have hset := (plainWrite p 0 hk).after (keepSetting p hk.1)
  iteB (c := fun m => fixed && m.on (R.ING_CTRL_EN p)) (fun h => by rw [h.ctrlOn p]) (set1 (by simp only [R.ING_STAT_CFG_WR]; omega)) <|
    iteB (c := fun m => (m.port.get p).running) (fun h => by rw [h.port]) hset ((evalFc p).after hset)

theorem sciBegunBy (who : SciBy) (addr wlen rlen : Nat) : Local p (Mach.sciBegunBy p who addr wlen rlen) :=
  with_ (v := Mach.elapsed)
    (f := fun t m => ((((m.put (R.ING_SCI_CMD_ADDR p) addr).put (R.ING_SCI_CMD_WLEN p) wlen).put (R.ING_SCI_CMD_RLEN p) rlen).set1
      (R.ING_SCI_CMD_GO p)).onPort p fun x => { x with sci := some { who := who, startEl := t, rlen := rlen } }) (fun h => h.elapsed) fun _ =>
    (onPort _).after <| (set1 (by simp only [R.ING_SCI_CMD_GO]; omega)).after <| (put _ (by simp only [R.ING_SCI_CMD_RLEN]; omega)).after <|
      (put _ (by simp only [R.ING_SCI_CMD_WLEN]; omega)).after <| put _ (by simp only [R.ING_SCI_CMD_ADDR]; omega)

theorem sciPut (b : List Byte) : Local p (Mach.sciPut p b) :=
  with_ (v := fun m => b.take 32 ++ (m.sciBuf p).drop (b.take 32).length)
    (f := fun all m => Machine.forEach (List.range 8) (fun k t => t.wr (R.ING_SCI_BUF_A p k) (BitVec.ofNat 32 (leN all (4 * k) 4))) m)
    (fun h => by rw [h.sciBuf]) fun _ => forEach _ fun k hk => wr _ (by
      have := List.mem_range.mp hk
      simp only [R.ING_SCI_BUF_A]
      omega)

theorem sciEnded (result : Nat) (h0 : result ≠ 0) : Local p (Mach.sciEnded p result []) := by
  have h : Mach.sciEnded p result [] = fun m => ((m.onPort p fun x => { x with sci := none }).put (R.ING_SCI_STAT_RESULT p) result).clr (R.ING_SCI_CMD_GO p) :=
    funext fun m => if_neg h0
  rw [h]
  exact (clr (by simp only [R.ING_SCI_CMD_GO]; omega)).after <| (put _ (by simp only [R.ING_SCI_STAT_RESULT]; omega)).after <| onPort _

theorem sciStart (addr wlen rlen : Nat) : Local p (Mach.sciStart p .host addr wlen rlen) := by
  have hb : Local p (Mach.sciBegun p .host addr wlen rlen) := sciBegunBy p .host addr wlen rlen
  rw [funext (sciStart_host p addr wlen rlen)]
  refine choice _ ((sciEnded p 3 (by decide)).after hb) (ite (fun h => by rw [h.sciMode]) ?_ ?_)
  · have hd : Local p fun m => m.drawNat.2.sciEnded p (1 + m.drawNat.1 % 4) [] :=
      with_ (v := fun m => m.drawNat.1) (fun h => congrArg Config.freeNat h.draws) fun v => (sciEnded p (1 + v % 4) (by omega)).after drawn
    exact hd.after hb
  · exact with_ (v := fun m => Out.sci p.1 (m.sciMode p) addr ((m.sciBuf p).take wlen) rlen)
      (f := fun o m => (m.sciBegun p .host addr wlen rlen).emit o) (fun h => by rw [h.sciMode, h.sciBuf]) fun o => (emit o).after hb

theorem sciGo (addr wlen rlen : Nat) : Local p (Mach.sciGo p .host addr wlen rlen) :=
  iteB (c := fun m => !(m.on (R.ING_SCI_CFG_OWNER p) == (Party.host == .mgt))) (fun h => by rw [h.ingOn (by simp only [R.ING_SCI_CFG_OWNER]; omega)])
    (set1 (by simp only [R.ING_SCI_STAT_OWN_ERR]; omega)) <|
    iteB (c := fun m => (m.port.get p).sci.isSome) (fun h => by rw [h.port]) (set1 (by simp only [R.ING_SCI_STAT_CMD_LOST]; omega)) (sciStart p addr wlen rlen)

end Local

end Mach

end Sys2Proof.Machine

namespace Sys2Proof.Machine

set_option Elab.async false

/-! ## PORT_CONFIG WRITES: the pairs are judged and applied in order (R83, R379) -/

namespace Mach

/-- A port's control word written, its flush asked for and its fit forgotten where the sync edges are off, before EN is looked at. -/
def ctrlWritten (p : Fin 16) (w : RegWr) (m : Mach) : Mach :=
  let m1 := (m.plainWrite 1 w).onOne w 1 (Mach.flushAsk p)
  if m1.on (R.ING_CTRL_SYNC_EN p) then m1 else m1.fitOff p

namespace Local

variable {p : Fin 16} {w : RegWr} (hk : 0x100000 ≤ w.at_.key ∧ w.at_.key < 0x200000)

theorem onOne {f : Mach → Mach} (k : Nat) (hf : Local p f) : Local p (Mach.onOne w k f) := choice _ hf (.id p)

include hk

theorem ctrlWritten : Local p (Mach.ctrlWritten p w) :=
  have h : Local p fun m => (m.plainWrite 1 w).onOne w 1 (Mach.flushAsk p) := (onOne 1 (flushAsk p)).after (plainWrite p 1 hk)
  (iteB (c := fun m => m.on (R.ING_CTRL_SYNC_EN p)) (fun h => h.ingOn (by simp only [R.ING_CTRL_SYNC_EN]; omega)) (.id p) (fitOff p)).after h

variable (hu : Fin.ofNat 16 w.at_.unit = p)
include hu

theorem ingWrite_ctrl (ho : w.at_.row.off = 0) : Local p (Mach.ingWrite w) := by
  have h2 := ctrlWritten (p := p) hk
  unfold Mach.ingWrite
  rw [ho, hu]
  refine choice _ h2 (choice _ ?_ ?_)
  · exact (iteB (c := fun m => m.on (R.ING_CTRL_EN p)) (fun h => h.ctrlOn p) (disablePort p) (.id p)).after h2
  · exact iteB (c := fun m => !m.on (R.ING_CTRL_EN p) && ((m.ctrlWritten p w).enableReject p).isSome)
      (fun h => by rw [h.ctrlOn p, (h2.alike h).enableReject p]) (set1 (by simp only [R.ING_STAT_EN_ERR]; omega)) ((ctrlEn p).after h2)

theorem ingWrite_sciCmd (ho : w.at_.row.off = 0x304) : Local p (Mach.ingWrite w) := by
  unfold Mach.ingWrite
  rw [ho, hu]
  refine choice _ ?_ ?_
  · exact with_ (v := fun m => (w.over_ (m.rd w.at_.key)).toNat) (f := fun n m => m.sciGo p .host (bitsN n 22 16) (bitsN n 13 8) (bitsN n 5 0))
      (fun h => by rw [h.rd]) fun n => sciGo p _ _ _
  · exact iteB (c := fun m => m.on (R.ING_SCI_CFG_OWNER p)) (fun h => h.ingOn (by simp only [R.ING_SCI_CFG_OWNER]; omega))
      (set1 (by simp only [R.ING_SCI_STAT_OWN_ERR]; omega)) (plainWrite p 0 hk)

theorem ingWrite_sciBuf (ho : w.at_.row.off = 0x320) : Local p (Mach.ingWrite w) := by
  unfold Mach.ingWrite
  rw [ho, hu]
  exact iteB (c := fun m => m.on (R.ING_SCI_CFG_OWNER p)) (fun h => h.ingOn (by simp only [R.ING_SCI_CFG_OWNER]; omega))
    (set1 (by simp only [R.ING_SCI_STAT_OWN_ERR]; omega)) (plainWrite p 0 hk)

/-- A write to a word of the port. -/
theorem writeIn_ing (hb : w.at_.base = 0x100000) : Local p fun m => m.writeIn w := by
  have hw : (fun m : Mach => m.writeIn w) = Mach.ingWrite w := funext fun m => by
    unfold Mach.writeIn
    rw [hb]
    rfl
  by_cases hs : portSetting w.at_ = true
  · rw [funext fun m => ingWrite_setting w m hs, hu]
    exact ingSetting p _ hk
  rw [hw]
  by_cases h0 : w.at_.row.off = 0
  · exact ingWrite_ctrl hk hu h0
  by_cases hgo : w.at_.row.off = 0x304
  · exact ingWrite_sciCmd hk hu hgo
  by_cases hd : w.at_.row.off = 0x320
  · exact ingWrite_sciBuf hk hu hd
  · rw [funext fun m => ingWrite_plain w m h0 hgo hd hb (by simpa using hs)]
    exact plainWrite p 0 hk

omit hu in
/-- A word staged for the front end's next boundary. -/
theorem stageFe : Local p fun m => m.onFe p fun x => { x with staged := m.stageIn x.staged w } :=
  with_ (v := fun m => m.rd w.at_.key)
    (f := fun v m => m.onFe p fun x => { x with staged := x.staged.put w.at_.key (w.value ((x.staged.find w.at_.key).getD v)) })
    (fun h => h.rd (by simp only [R.HIF_CMD_FETCHED]; omega)) fun _ => onFe _

/-- A write to a word of the port's front end. -/
theorem writeIn_fe (hb : w.at_.base = 0x140000) : Local p fun m => m.writeIn w := by
  have hw : (fun m : Mach => m.writeIn w) = Mach.feWrite w := funext fun m => by
    unfold Mach.writeIn
    rw [hb]
    rfl
  have hst := stageFe (p := p) hk
  rw [hw]
  unfold Mach.feWrite
  rw [hu]
  by_cases h0 : w.at_.row.off = 0
  · rw [h0]
    exact (onOne 4 (onFe _)).after <| (onOne 5 ((onFe _).after (set1 (by subst hu; simp only [R.FE_CTRL_LEARN]; omega)))).after hst
  by_cases h4 : w.at_.row.off = 4
  · rw [h4]
    exact plainWrite p 0 hk
  · split
    · contradiction
    · contradiction
    · exact choice _ (.id p) hst

omit hu

/-- A write to a setting of the fusion engine. -/
theorem writeIn_fus (hb : w.at_.base = 0x1D4000) : Local p fun m => m.writeIn w := by
  rw [funext fun m => Mach.writeIn_fus w m (by rw [hb]; decide)]
  exact choice _ (plainWrite p 0 hk) <|
    with_ (v := fun m => m.rd w.at_.key)
      (f := fun v m => m.onFus fun u => { u with staged := u.staged.put w.at_.key (w.value ((u.staged.find w.at_.key).getD v)) })
      (fun h => h.rd (by simp only [R.HIF_CMD_FETCHED]; omega)) fun _ => onFus _

/-- A write to a format map. -/
theorem writeIn_fmap (hb : w.at_.base = 0x120000) : Local p fun m => m.writeIn w := by
  have hw : (fun m : Mach => m.writeIn w) = Mach.fmapWrite w := funext fun m => by
    unfold Mach.writeIn
    rw [hb]
    rfl
  rw [hw]
  exact iteB (c := fun m => m.mapInUse w.at_.unit) (fun h => h.mapInUse _) ((put _ (by decide)).after (set1 (by decide))) (plainWrite p 0 hk)

end Local

theorem InWindow.writeIn {p : Fin 16} {w : RegWr} (h : InWindow p w.at_) : Local p fun m => m.writeIn w := by
  obtain ⟨hk, hb⟩ := h
  have hu (he : w.at_.unit = p.1) : Fin.ofNat 16 w.at_.unit = p := by
    rw [he]
    exact Fin.ext (Nat.mod_eq_of_lt p.2)
  rcases hb with ⟨hb, he⟩ | ⟨hb, he⟩ | hb | hb
  · exact Local.writeIn_ing hk (hu he) hb
  · exact Local.writeIn_fe hk (hu he) hb
  · exact Local.writeIn_fus hk hb
  · exact Local.writeIn_fmap hk hb

end Mach

end Sys2Proof.Machine

namespace Sys2Proof.Machine

set_option Elab.async false

/-! ## The pairs of PORT_CONFIG WRITES, before and after the fetch (R376, R379) -/

namespace Mach

section
variable {m : Mach} {f : Fin 8} {p : Fin 16} {off : Nat} {v : Word} {l : List (Nat × Word)} {x : RegPlace} {c : Nat}

/-- The write of a pair: all four bytes. -/
def pairWrite (x : RegPlace) (v : Word) : RegWr := { at_ := x, v := v, msk := 0xFFFFFFFF#32 }

theorem applyPairs_outside (hx : m.portPlace f p off = none) : applyPairs f p ((off, v) :: l) m = .error St.format := by
  rw [applyPairs, hx]

theorem applyPairs_refused (hx : m.portPlace f p off = some x) (hj : m.pairJudge p x v = some c) : applyPairs f p ((off, v) :: l) m = .error c := by
  rw [applyPairs, hx]
  dsimp only
  rw [hj]

theorem applyPairs_taken (hx : m.portPlace f p off = some x) (hj : m.pairJudge p x v = none) :
    applyPairs f p ((off, v) :: l) m = applyPairs f p l (m.writeIn (pairWrite x v)) := by
  rw [applyPairs, hx]
  dsimp only
  rw [hj]
  rfl

end

namespace Alike

variable {a b : Mach}

theorem portPlace (h : Alike a b) (f : Fin 8) (p : Fin 16) (off : Nat) : b.portPlace f p off = a.portPlace f p off := by
  unfold Mach.portPlace
  rw [h.own]

theorem pairJudge (h : Alike a b) (p : Fin 16) {x : RegPlace} (hx : InWindow p x) (v : Word) : b.pairJudge p x v = a.pairJudge p x v := by
  have hw := h.plainWrite 1 { at_ := x, v := v, msk := 0xFFFFFFFF#32 } hx.key.1
  unfold Mach.pairJudge
  rw [h.ingOn (e := R.ING_SCI_CFG_OWNER p) (by simp only [R.ING_SCI_CFG_OWNER]; omega), h.ctrlOn p, h.mapInUse]
  dsimp only
  rw [hw.enableReject]

end Alike

variable {a b : Mach} {f : Fin 8} {p : Fin 16}

/-- Two states that differ in the command unit only refuse the same pairs, and take the same pairs to such states again. -/
theorem applyPairs_alike (l : List (Nat × Word)) (h : Alike a b) :
    (∀ c, applyPairs f p l a = .error c → applyPairs f p l b = .error c) ∧
    (∀ u, applyPairs f p l a = .ok u → ∃ t, applyPairs f p l b = .ok t ∧ Alike u t ∧ Inside p b t) := by
  induction l generalizing a b with
  | nil =>
    refine ⟨fun c hc => absurd hc (by simp [applyPairs]), fun u hu => ⟨b, rfl, ?_, .refl p b⟩⟩
    obtain rfl : a = u := Except.ok.inj hu
    exact h
  | cons e r ih =>
    obtain ⟨off, v⟩ := e
    cases hx : a.portPlace f p off with
    | none =>
      rw [applyPairs_outside hx, applyPairs_outside ((h.portPlace f p off).trans hx)]
      exact ⟨fun c hc => hc, fun u hu => absurd hu (by simp)⟩
    | some x =>
      have hin := portPlace_inWindow hx
      have hxb := (h.portPlace f p off).trans hx
      have hjb := h.pairJudge p hin v
      cases hj : a.pairJudge p x v with
      | some c =>
        rw [applyPairs_refused hx hj, applyPairs_refused hxb (hjb.trans hj)]
        exact ⟨fun c hc => hc, fun u hu => absurd hu (by simp)⟩
      | none =>
        have hl := InWindow.writeIn (p := p) (w := pairWrite x v) hin
        rw [applyPairs_taken hx hj, applyPairs_taken hxb (hjb.trans hj)]
        obtain ⟨herr, hok⟩ := ih (hl.alike h)
        refine ⟨herr, fun u hu => ?_⟩
        obtain ⟨t, ht, hal, hins⟩ := hok u hu
        exact ⟨t, ht, hal, (hl.inside b).trans hins⟩

theorem pairsReject_of_error {n c : Nat} {pairs : List (Nat × Word)} (hn : n ≤ 1024) (h : applyPairs f p (pairs.take n) a = .error c) :
    pairsReject f p n pairs a = some c := by
  unfold pairsReject
  rw [if_neg (by omega), h]

theorem pairsReject_of_ok {n : Nat} {u : Mach} {pairs : List (Nat × Word)} (hn : n ≤ 1024) (h : applyPairs f p (pairs.take n) a = .ok u) :
    pairsReject f p n pairs a = none := by
  unfold pairsReject
  rw [if_neg (by omega), h]

theorem Alike.pairsReject (h : Alike a b) (n : Nat) (pairs : List (Nat × Word)) : pairsReject f p n pairs b = pairsReject f p n pairs a := by
  by_cases hn : 1024 < n
  · unfold Mach.pairsReject
    rw [if_pos hn, if_pos hn]
  obtain ⟨herr, hok⟩ := applyPairs_alike (f := f) (p := p) (pairs.take n) h
  cases hr : applyPairs f p (pairs.take n) a with
  | error c => rw [pairsReject_of_error (by omega) hr, pairsReject_of_error (by omega) (herr c hr)]
  | ok u =>
    obtain ⟨t, ht, -, -⟩ := hok u hr
    rw [pairsReject_of_ok (by omega) hr, pairsReject_of_ok (by omega) ht]

theorem pairsReject_none {n : Nat} {pairs : List (Nat × Word)} (h : pairsReject f p n pairs a = none) : ∃ u, applyPairs f p (pairs.take n) a = .ok u := by
  have hn : n ≤ 1024 := by
    by_contra hn
    unfold pairsReject at h
    rw [if_pos (by omega)] at h
    exact absurd h (by simp)
  cases hr : applyPairs f p (pairs.take n) a with
  | error c => exact absurd ((pairsReject_of_error hn hr).symm.trans h) (by simp)
  | ok u => exact ⟨u, rfl⟩

theorem Inside.hostKept (h : Inside p a b) (g : Fin 8) : HostKept g a b := .of_fn (fun off ho => h.low off (by omega)) h.fn

/-- The state that the pairs of an accepted command make. -/
def pairsTaken (f : Fin 8) (p : Fin 16) (l : List (Nat × Word)) (m : Mach) : Mach :=
  match applyPairs f p l m with
  | .ok u => u
  | .error _ => m

theorem pairsTaken_of_ok {l : List (Nat × Word)} {u : Mach} (h : applyPairs f p l a = .ok u) : pairsTaken f p l a = u := by
  unfold pairsTaken
  rw [h]

end Mach

section
variable {s : State} {h : CmdHdr} {p : Fin 16}

/-- A command whose own checks refuse it (R378). -/
theorem judged_rejects {c : Instr} {op code : Nat} {owes : Bool} {judge : Mach → Option Nat} {accept : Nat → Mach → Mach.Accept}
    (hx : exec c s = s.act (Mach.command h op owes judge accept)) (hf : s.fetchable h.fn = true) (hp : s.preCheck h op = none)
    (hj : judge (s.fetch h.fn) = some code) : Rejects c h op code s := by
  refine command_rejects hx hf ?_
  rw [hp, hj]
  rfl

end

section
variable {s : State} {h : CmdHdr} {p : Fin 16} {n : Nat} {pairs : List (Nat × BitVec 32)} (hf : s.fetchable h.fn = true) (hp : s.preCheck h 0x20 = none)
include hf hp

theorem portWrites_rejects {code : Nat} (hj : (s.portJudge h.fn p).or (Mach.pairsReject h.fn p n pairs s.toMach) = some code) :
    Rejects (.portConfigWrites h p n pairs) h 0x20 code s := by
  have ha := Mach.fetch_alike h.fn s.toMach
  refine judged_rejects rfl hf hp ?_
  rw [ha.portJudge, ha.pairsReject]
  exact hj

theorem portWrites_accepts (hj : s.portJudge h.fn p = none) (hr : Mach.pairsReject h.fn p n pairs s.toMach = none) :
    Accepts (.portConfigWrites h p n pairs) h 0x20 0 0 s fun t =>
      (∀ u ∈ (Mach.applyPairs h.fn p (pairs.take n) s.toMach).toOption, RegsBut [R.HIF_CMD_FETCHED.a] u t ∧ t.port = u.port ∧ t.fe = u.fe ∧ t.fus = u.fus) ∧
        (∀ q : Fin 16, q ≠ p → t.port.get q = s.port.get q ∧ t.fe.get q = s.fe.get q) ∧
        (t.fn.get h.fn).openCmds = (s.fn.get h.fn).openCmds := by
  have ha := Mach.fetch_alike h.fn s.toMach
  have ht0 := Mach.taken_alike h false s.toMach
  obtain ⟨u, hu⟩ := Mach.pairsReject_none hr
  obtain ⟨v, hv, hal, hin⟩ := (Mach.applyPairs_alike (f := h.fn) (p := p) (pairs.take n) ht0).2 u hu
  refine plain_accepts (a := { m := v }) rfl hf hp ?_ ?_ (hin.hostKept h.fn) rfl fun t ht => ⟨fun u' hu' => ?_, fun q hq => ?_, ?_⟩
  · rw [ha.portJudge, ha.pairsReject, hj, hr]
    rfl
  · exact congrArg (fun m : Mach => ({ m := m } : Mach.Accept)) (Mach.pairsTaken_of_ok hv)
  · rw [hu] at hu'
    obtain rfl : u = u' := Option.some.inj hu'
    exact ⟨Mach.RegsBut.of_regs hal.regs (ht.parts .regs (by decide)), (ht.parts .port (by decide)).trans hal.port,
      (ht.parts .fe (by decide)).trans hal.fe, (ht.parts .fus (by decide)).trans (hal.parts .fus (by decide))⟩
  · rw [show t.port = v.port from ht.parts .port (by decide), show t.fe = v.fe from ht.parts .fe (by decide), (hin.others q hq).1, (hin.others q hq).2,
      ht0.port, ht0.fe]
    exact ⟨rfl, rfl⟩
  · have ho : (t.fn.get h.fn).openCmds = (v.fn.get h.fn).openCmds := by rw [ht.own]
    rw [ho, hin.fn]
    exact Mach.fetch_fn_get h.fn h.fn s.toMach Func.openCmds fun _ _ _ => rfl

end

end Sys2Proof.Machine

namespace Sys2Proof.Machine

set_option Elab.async false

/-! ## PORT_CONFIG SCI: the command starts a transfer that owes its DONE (R62, R63, R379) -/

namespace Mach

section
variable {p : Fin 16} {who : SciBy} {addr wlen rlen : Nat} {m : Mach}

theorem sciBegunBy_within : Within [.regs, .port] m (m.sciBegunBy p who addr wlen rlen) :=
  (onPort_within _ _ _).after <| (set1_within _ _).after <| (put_within _ _ _).after <| (put_within _ _ _).after <| (put_within _ _ _).mono

theorem sciBegunBy_sci : ((m.sciBegunBy p who addr wlen rlen).port.get p).sci = some { who := who, startEl := m.elapsed, rlen := rlen } := by
  unfold sciBegunBy
  rw [onPort_get_self]

theorem sciBegunBy_rd {off : Nat} (h : off ≠ (R.ING_SCI_CMD_GO p).a) : (m.sciBegunBy p who addr wlen rlen).rd off = m.rd off := by
  have ha : ∀ e : Fld, e.a = (R.ING_SCI_CMD_GO p).a → off ≠ e.a := fun e he => by rw [he]; exact h
  unfold sciBegunBy
  rw [onPort_rd]
  exact (rd_put_ne _ _ _ h).trans ((rd_put_ne _ _ _ (ha (R.ING_SCI_CMD_RLEN p) rfl)).trans
    ((rd_put_ne _ _ _ (ha (R.ING_SCI_CMD_WLEN p) rfl)).trans (rd_put_ne _ _ _ (ha (R.ING_SCI_CMD_ADDR p) rfl))))

theorem sciBegunBy_mode : (m.sciBegunBy p who addr wlen rlen).sciMode p = m.sciMode p := by
  unfold sciMode g
  rw [sciBegunBy_rd (by simp only [R.ING_SCI_CFG_MODE, R.ING_SCI_CMD_GO]; omega)]

theorem sciBegunBy_buf : (m.sciBegunBy p who addr wlen rlen).sciBuf p = m.sciBuf p :=
  sciBuf_congr fun k _ => sciBegunBy_rd (by simp only [R.ING_SCI_BUF_A, R.ING_SCI_CMD_GO]; omega)

theorem sciPut_mode (b : List Byte) : (m.sciPut p b).sciMode p = m.sciMode p := by
  have h : (m.sciPut p b).rd (R.ING_SCI_CFG_MODE p).a = m.rd (R.ING_SCI_CFG_MODE p).a :=
    wrEach_rd_ne _ (R.ING_SCI_BUF_A p) (List.range 8) (fun k _ => by simp only [R.ING_SCI_CFG_MODE, R.ING_SCI_BUF_A]; omega) m
  unfold sciMode g
  rw [h]

end

section
variable {p : Fin 16} {f : Fin 8} {ctag cseq addr wlen rlen : Nat} {m : Mach}

/-- A command's transfer that ends answers its command. -/
theorem sciEnd_cmd {result : Nat} {run : SciRun} (hrun : (m.port.get p).sci = some run) (hw : run.who = .cmd f ctag cseq) :
    m.sciEnd p result [] = (m.sciEnded p result []).done f 0x20 ctag cseq 0 result [] := by
  obtain ⟨m2, hm2, he⟩ := sciEnd_eq (result := result) (data := []) hrun
  rw [he, hw, hm2]
  simp

theorem sciStart_long (hl : 32 < wlen ∨ 32 < rlen) : m.sciStart p (.cmd f ctag cseq) addr wlen rlen =
    ((m.sciBegunBy p (.cmd f ctag cseq) addr wlen rlen).sciEnded p 3 []).done f 0x20 ctag cseq 0 3 [] := by
  have hf : m.sciStart p (.cmd f ctag cseq) addr wlen rlen = (m.sciBegunBy p (.cmd f ctag cseq) addr wlen rlen).sciEnd p 3 [] := if_pos hl
  rw [hf]
  exact sciEnd_cmd sciBegunBy_sci rfl

/-- The state in which a transfer of a mode that is off has drawn its result. -/
def sciDrawn (p : Fin 16) (who : SciBy) (addr wlen rlen : Nat) (m : Mach) : Mach := (m.sciBegunBy p who addr wlen rlen).drawNat.2

theorem sciDrawn_within {who : SciBy} : Within [.regs, .port, .draws] m (m.sciDrawn p who addr wlen rlen) :=
  (drawNat_within _).after sciBegunBy_within.mono

/-- The result that is drawn. -/
def drawnResult (m : Mach) : Nat := 1 + Config.freeNat m.draws % 4

theorem drawnResult_bounds (m : Mach) : 1 ≤ m.drawnResult ∧ m.drawnResult ≤ 4 := by
  unfold drawnResult
  omega

theorem sciStart_off (hw : wlen ≤ 32) (hr : rlen ≤ 32) (hm : m.sciMode p = 0 ∨ 4 < m.sciMode p) : m.sciStart p (.cmd f ctag cseq) addr wlen rlen =
    ((m.sciDrawn p (.cmd f ctag cseq) addr wlen rlen).sciEnded p m.drawnResult []).done f 0x20 ctag cseq 0 m.drawnResult [] := by
  have hb : (m.sciBegunBy p (.cmd f ctag cseq) addr wlen rlen).drawNat.1 = Config.freeNat m.draws :=
    congrArg Config.freeNat (sciBegunBy_within.keeps .draws)
  have hs : ((m.sciDrawn p (.cmd f ctag cseq) addr wlen rlen).port.get p).sci = some { who := .cmd f ctag cseq, startEl := m.elapsed, rlen := rlen } := by
    have hp : (m.sciDrawn p (.cmd f ctag cseq) addr wlen rlen).port = (m.sciBegunBy p (.cmd f ctag cseq) addr wlen rlen).port := (drawNat_within _).keeps .port
    rw [hp]
    exact sciBegunBy_sci
  have hf : m.sciStart p (.cmd f ctag cseq) addr wlen rlen =
      (m.sciDrawn p (.cmd f ctag cseq) addr wlen rlen).sciEnd p (1 + (m.sciBegunBy p (.cmd f ctag cseq) addr wlen rlen).drawNat.1 % 4) [] :=
    (if_neg (by omega)).trans (if_pos (by rw [← sciBegunBy_mode (who := .cmd f ctag cseq) (addr := addr) (wlen := wlen) (rlen := rlen)] at hm; exact hm))
  rw [hf, hb]
  exact sciEnd_cmd hs rfl

theorem sciStart_runs (hw : wlen ≤ 32) (hr : rlen ≤ 32) (h1 : 1 ≤ m.sciMode p) (h4 : m.sciMode p ≤ 4) {who : SciBy} :
    m.sciStart p who addr wlen rlen = (m.sciBegunBy p who addr wlen rlen).emit (.sci p.1 (m.sciMode p) addr ((m.sciBuf p).take wlen) rlen) := by
  have hm := sciBegunBy_mode (m := m) (p := p) (who := who) (addr := addr) (wlen := wlen) (rlen := rlen)
  have hb := sciBegunBy_buf (m := m) (p := p) (who := who) (addr := addr) (wlen := wlen) (rlen := rlen)
  have hn : ¬ ((m.sciBegunBy p who addr wlen rlen).sciMode p = 0 ∨ 4 < (m.sciBegunBy p who addr wlen rlen).sciMode p) := by
    rw [hm]
    omega
  have hf : m.sciStart p who addr wlen rlen = (m.sciBegunBy p who addr wlen rlen).emit
      (.sci p.1 ((m.sciBegunBy p who addr wlen rlen).sciMode p) addr (((m.sciBegunBy p who addr wlen rlen).sciBuf p).take wlen) rlen) :=
    (if_neg (by omega)).trans (if_neg hn)
  rw [hf, hm, hb]

end

end Mach

/-! ### An accepted command whose effect goes on after its first completion -/

/-- What runs after the first completion: a change of the port's own words, then at most the end of a command. -/
def Trails (f : Fin 8) (p : Fin 16) (a b : Mach) : Prop := ∃ x, Mach.Inside p a x ∧ (∀ o ∈ a.out, o ∈ x.out) ∧ EndOnly f x b

theorem Fetches.of_inside {h : CmdHdr} {p : Fin 16} {a b x : Mach} (hb : Fetches h a b) (hx : Mach.Inside p b x) : Fetches h a x := by
  obtain ⟨h1, h2, h3⟩ := hb
  refine ⟨?_, ?_, ?_⟩
  · unfold Mach.ring at h1 ⊢
    rw [hx.fn]
    exact h1
  · rw [hx.fn]
    exact h2
  · unfold Mach.g at h3 ⊢
    rw [hx.low _ (by decide)]
    exact h3

section
variable {c : Instr} {h : CmdHdr} {op : Nat} {owes : Bool} {judge : Mach → Option Nat} {accept : Nat → Mach → Mach.Accept} {s : State} {a : Mach.Accept}
  {P : Mach → Prop} {p : Fin 16} (hx : exec c s = s.act (Mach.command h op owes judge accept)) (hf : s.fetchable h.fn = true)
  (hp : s.preCheck h op = none) (hj : judge (s.fetch h.fn) = none) (ha : accept (s.fn.get h.fn).cseq (s.taken h owes) = a)
  (hk : HostKept h.fn (s.taken h owes) a.m)

include hx hf hp hj ha hk

theorem trailing_accepts (htr : ∀ t, CplOnly h.fn a.m t → Trails h.fn p t (a.after t)) (hP : ∀ t, CplOnly h.fn a.m t → P (a.after t)) :
    Accepts c h op a.d10 a.d18 s P := by
  have hb := (Mach.taken_fetched h owes s.toMach).hostKept hk
  have hr : a.m.g R.HIF_CMD_REJECTED = s.g R.HIF_CMD_REJECTED :=
    (hk.g _ (by decide)).trans (Mach.taken_g h owes s.toMach R.HIF_CMD_REJECTED (by decide))
  have ht := Mach.cplWrite_cplOnly h.fn (s.firstCpl h op St.accepted a.d10 a.d18) a.m
  obtain ⟨x, hin, hout, he⟩ := htr _ ht
  have hxr : x.g R.HIF_CMD_REJECTED = s.g R.HIF_CMD_REJECTED := by
    refine Eq.trans ?_ ((ht.g _).trans hr)
    unfold Mach.g
    rw [hin.low _ (by decide)]
  exact does_of_act hx (by rw [Mach.command_accepted hf hp hj, ha])
    ⟨((hb.fetches ht).of_inside hin).of_endOnly he,
      he.out _ (hout _ (hb.cplOf_mem (Mach.ringEn_of_fetchable hf) op St.accepted _ _)),
      (Mach.g_of_regs (he.parts .regs (by decide)) _).trans hxr, hP _ ht⟩

end

section
variable {s : State} {h : CmdHdr} {p : Fin 16} {addr rlen : Nat} {bytes : List Byte}

/-- The own checks of PORT_CONFIG SCI read the same after the fetch. -/
def sciJudge (f : Fin 8) (p : Fin 16) (t : Mach) : Option Nat :=
  (t.portJudge f p).or (if t.on (R.ING_SCI_CFG_OWNER p) || (t.port.get p).sci.isSome then some St.state else none)

theorem sciJudge_alike {f : Fin 8} {a b : Mach} (ha : Mach.Alike a b) : sciJudge f p b = sciJudge f p a := by
  unfold sciJudge
  rw [ha.portJudge, ha.port, ha.ingOn (e := R.ING_SCI_CFG_OWNER p) (by simp only [R.ING_SCI_CFG_OWNER]; omega)]

theorem sciJudge_owner {f : Fin 8} {a : Mach} {code : Nat} (hj : a.portJudge f p = some code) : sciJudge f p a = some code := by
  unfold sciJudge
  rw [hj]
  rfl

theorem sciJudge_state {f : Fin 8} {a : Mach} (hj : a.portJudge f p = none) (h : a.on (R.ING_SCI_CFG_OWNER p) = true ∨ (a.port.get p).sci ≠ none) :
    sciJudge f p a = some 0x13 := by
  unfold sciJudge
  rw [hj, if_pos]
  · rfl
  · rcases h with h | h
    · rw [h]
      rfl
    · rw [Option.isSome_iff_ne_none.mpr h, Bool.or_true]

theorem sciJudge_none {f : Fin 8} {a : Mach} (hj : a.portJudge f p = none) (ho : a.on (R.ING_SCI_CFG_OWNER p) = false) (hs : (a.port.get p).sci = none) :
    sciJudge f p a = none := by
  unfold sciJudge
  rw [hj, ho, hs]
  rfl

variable (hf : s.fetchable h.fn = true) (hp : s.preCheck h 0x20 = none)
include hf hp

theorem portSci_rejects {code : Nat} (hj : sciJudge h.fn p s.toMach = some code) : Rejects (.portConfigSci h p addr rlen bytes) h 0x20 code s :=
  judged_rejects (judge := sciJudge h.fn p) rfl hf hp ((sciJudge_alike (Mach.fetch_alike h.fn s.toMach)).trans hj)

end

/-- The state on which a command's transfer starts: the command is taken, its bytes lie in the buffer, its first completion is out. -/
structure SciReady (s : State) (h : CmdHdr) (p : Fin 16) (bytes : List Byte) (t : Mach) : Prop where
  cpl : CplOnly h.fn ((s.taken h true).sciPut p bytes) t

namespace SciReady

variable {s : State} {h : CmdHdr} {p : Fin 16} {bytes : List Byte} {t : Mach} (ht : SciReady s h p bytes t)
include ht

theorem elapsed : t.elapsed = s.elapsed := by
  have h1 : t.time = ((s.taken h true).sciPut p bytes).time := ht.cpl.parts .time (by decide)
  have h2 : ((s.taken h true).sciPut p bytes).time = (s.taken h true).time := (Mach.sciPut_within p.1 bytes _).keeps .time
  have h3 : (s.taken h true).time = s.time := Mach.taken_onlyIn h true s.toMach .time (by decide)
  unfold Mach.elapsed
  rw [h1, h2, h3]

theorem mode : t.sciMode p = s.sciMode p := by
  have h1 : t.sciMode p = ((s.taken h true).sciPut p bytes).sciMode p := ht.cpl.g _
  rw [h1, Mach.sciPut_mode, (Mach.taken_alike h true s.toMach).sciMode]

theorem buf (hl : bytes.length ≤ 32) : (t.sciBuf p).take bytes.length = bytes := by
  have h1 : t.sciBuf p = ((s.taken h true).sciPut p bytes).sciBuf p := Mach.sciBuf_congr fun k _ => ht.cpl.rd _
  rw [h1, Mach.sciBuf_sciPut, List.take_of_length_le hl, List.take_left']
  rfl

theorem others : ∀ q : Fin 16, q ≠ p → t.port.get q = s.port.get q ∧ t.fe.get q = s.fe.get q := fun q _ => by
  have hal := Mach.taken_alike h true s.toMach
  have hw := Mach.sciPut_within p.1 bytes (s.taken h true)
  rw [show t.port = _ from ht.cpl.parts .port (by decide), show t.fe = _ from ht.cpl.parts .fe (by decide),
    show ((s.taken h true).sciPut p bytes).port = _ from hw.keeps .port, show ((s.taken h true).sciPut p bytes).fe = _ from hw.keeps .fe, hal.port, hal.fe]
  exact ⟨rfl, rfl⟩

theorem parts : OnlyIn [.regs, .jnl, .sleep, .fn, .out] s.toMach t :=
  (taken_cplOnly_parts (Mach.sciPut_within p.1 bytes _).parts ht.cpl).mono (by decide)

theorem isOpen : (t.fn.get h.fn).openCmds = (s.fn.get h.fn).openCmds ++ [(s.fn.get h.fn).cseq] := by
  refine taken_open ht.cpl ?_
  rw [show ((s.taken h true).sciPut p bytes).fn = _ from (Mach.sciPut_within p.1 bytes _).keeps .fn]

end SciReady

end Sys2Proof.Machine

namespace Sys2Proof.Machine

set_option Elab.async false

/-! ## Accepted port commands (R379) -/

section
variable {s : State} {h : CmdHdr} {p : Fin 16} {addr rlen : Nat} {bytes : List Byte} {t : Mach}

/-- The state in which a command's transfer has ended at once, before its command is answered. -/
theorem ended_leaves {r : Nat} {d t1 : Mach} (ht : SciReady s h p bytes t) (hin : Mach.Inside p t (d.sciEnded p r [])) (hr : r < 8)
    (he : EndOnly h.fn (d.sciEnded p r []) t1) : (t1.port.get p).sci = none ∧ t1.g (R.ING_SCI_STAT_RESULT p) = r ∧
      ∀ q : Fin 16, q ≠ p → t1.port.get q = s.port.get q ∧ t1.fe.get q = s.fe.get q := by
  have hport : t1.port = (d.sciEnded p r []).port := he.parts .port (by decide)
  have hfe : t1.fe = (d.sciEnded p r []).fe := he.parts .fe (by decide)
  refine ⟨?_, ?_, fun q hq => ?_⟩
  · rw [hport]
    exact Mach.sciEnded_sci _ _ _ _
  · rw [Mach.g_of_regs (he.parts .regs (by decide))]
    exact Mach.sciEnded_result _ _ _ _ hr
  · rw [hport, hfe, (hin.others q hq).1, (hin.others q hq).2]
    exact ht.others q hq

variable (hf : s.fetchable h.fn = true) (hp : s.preCheck h 0x20 = none) (hj : sciJudge h.fn p s.toMach = none)
include hf hp hj

/-- PORT_CONFIG SCI whose own checks pass: what follows its first completion settles what it does. -/
theorem portSci_accepts {P : Mach → Prop}
    (hP : ∀ t, SciReady s h p bytes t → Trails h.fn p t (t.sciStart p (.cmd h.fn h.ctag (s.fn.get h.fn).cseq) addr bytes.length rlen) ∧
      P (t.sciStart p (.cmd h.fn h.ctag (s.fn.get h.fn).cseq) addr bytes.length rlen)) :
    Accepts (.portConfigSci h p addr rlen bytes) h 0x20 0 0 s P :=
  trailing_accepts (p := p) (judge := sciJudge h.fn p)
    (a := { m := (s.taken h true).sciPut p bytes, after := fun u => u.sciStart p (.cmd h.fn h.ctag (s.fn.get h.fn).cseq) addr bytes.length rlen })
    rfl hf hp ((sciJudge_alike (Mach.fetch_alike h.fn s.toMach)).trans hj) rfl
    (((Mach.Local.sciPut p bytes).inside _).hostKept h.fn) (fun t ht => (hP t ⟨ht⟩).1) fun t ht => (hP t ⟨ht⟩).2

theorem portSci_long (hl : 32 < bytes.length ∨ 32 < rlen) : Accepts (.portConfigSci h p addr rlen bytes) h 0x20 0 0 s fun t =>
    (t.port.get p).sci = none ∧ t.g (R.ING_SCI_STAT_RESULT p) = 3 ∧ (∀ q : Fin 16, q ≠ p → t.port.get q = s.port.get q ∧ t.fe.get q = s.fe.get q) ∧
      OnlyIn [.regs, .port, .jnl, .sleep, .fn, .out] s.toMach t := by
  refine portSci_accepts hf hp hj fun t ht => ?_
  rw [Mach.sciStart_long hl]
  have hb := Mach.sciBegunBy_within (m := t) (p := p) (who := .cmd h.fn h.ctag (s.fn.get h.fn).cseq) (addr := addr) (wlen := bytes.length) (rlen := rlen)
  have hbin := (Mach.Local.sciBegunBy p (.cmd h.fn h.ctag (s.fn.get h.fn).cseq) addr bytes.length rlen).inside t
  generalize t.sciBegunBy p (.cmd h.fn h.ctag (s.fn.get h.fn).cseq) addr bytes.length rlen = d at hb hbin ⊢
  have hin := hbin.trans ((Mach.Local.sciEnded p 3 (by decide)).inside d)
  have hw := (Mach.sciEnded_within p 3 [] d).after hb
  have he := Mach.done_endOnly h.fn 0x20 h.ctag (s.fn.get h.fn).cseq 0 3 [] (d.sciEnded p 3 [])
  obtain ⟨h1, h2, h3⟩ := ended_leaves ht hin (by decide) he
  refine ⟨⟨_, hin, fun o ho => ?_, he⟩, h1, h2, h3, ((ht.parts.append hw.parts).append he.parts).mono (by decide)⟩
  rw [show (d.sciEnded p 3 []).out = t.out from hw.keeps .out]
  exact ho

theorem portSci_off (hl : bytes.length ≤ 32) (hr : rlen ≤ 32) (hm : s.sciMode p = 0 ∨ 4 < s.sciMode p) :
    Accepts (.portConfigSci h p addr rlen bytes) h 0x20 0 0 s fun t =>
      (t.port.get p).sci = none ∧ 1 ≤ t.g (R.ING_SCI_STAT_RESULT p) ∧ t.g (R.ING_SCI_STAT_RESULT p) ≤ 4 ∧
        (∀ q : Fin 16, q ≠ p → t.port.get q = s.port.get q ∧ t.fe.get q = s.fe.get q) ∧
        OnlyIn [.regs, .port, .jnl, .sleep, .fn, .draws, .out] s.toMach t := by
  refine portSci_accepts hf hp hj fun t ht => ?_
  rw [Mach.sciStart_off hl hr (by rw [ht.mode]; exact hm)]
  have hb := Mach.sciDrawn_within (m := t) (p := p) (who := .cmd h.fn h.ctag (s.fn.get h.fn).cseq) (addr := addr) (wlen := bytes.length) (rlen := rlen)
  have hbin := (Mach.Local.drawn.after (Mach.Local.sciBegunBy p (.cmd h.fn h.ctag (s.fn.get h.fn).cseq) addr bytes.length rlen)).inside t
  change Mach.Inside p t (t.sciDrawn p (.cmd h.fn h.ctag (s.fn.get h.fn).cseq) addr bytes.length rlen) at hbin
  obtain ⟨hr1, hr4⟩ := t.drawnResult_bounds
  generalize t.sciDrawn p (.cmd h.fn h.ctag (s.fn.get h.fn).cseq) addr bytes.length rlen = d at hb hbin ⊢
  generalize t.drawnResult = r at hr1 hr4 ⊢
  have hin := hbin.trans ((Mach.Local.sciEnded p r (by omega)).inside d)
  have hw := (Mach.sciEnded_within p r [] d).after hb
  have he := Mach.done_endOnly h.fn 0x20 h.ctag (s.fn.get h.fn).cseq 0 r [] (d.sciEnded p r [])
  obtain ⟨h1, h2, h3⟩ := ended_leaves ht hin (by omega) he
  refine ⟨⟨_, hin, fun o ho => ?_, he⟩, h1, by rw [h2]; exact hr1, by rw [h2]; exact hr4, h3, ((ht.parts.append hw.parts).append he.parts).mono (by decide)⟩
  rw [show (d.sciEnded p r []).out = t.out from hw.keeps .out]
  exact ho

theorem portSci_runs (hl : bytes.length ≤ 32) (hr : rlen ≤ 32) (h1 : 1 ≤ s.sciMode p) (h4 : s.sciMode p ≤ 4) :
    Accepts (.portConfigSci h p addr rlen bytes) h 0x20 0 0 s fun t =>
      ((t.port.get p).sci = some { who := .cmd h.fn h.ctag (s.fn.get h.fn).cseq, startEl := s.elapsed, rlen := rlen } ∧
        t.out.head? = some (.sci p.1 (s.sciMode p) addr bytes rlen) ∧
        (t.fn.get h.fn).openCmds = (s.fn.get h.fn).openCmds ++ [(s.fn.get h.fn).cseq]) ∧
        (∀ q : Fin 16, q ≠ p → t.port.get q = s.port.get q ∧ t.fe.get q = s.fe.get q) ∧
        OnlyIn [.regs, .port, .jnl, .sleep, .fn, .out] s.toMach t := by
  refine portSci_accepts hf hp hj fun t ht => ?_
  rw [Mach.sciStart_runs hl hr (by rw [ht.mode]; exact h1) (by rw [ht.mode]; exact h4), ht.mode, ht.buf hl]
  have hb := Mach.sciBegunBy_within (m := t) (p := p) (who := .cmd h.fn h.ctag (s.fn.get h.fn).cseq) (addr := addr) (wlen := bytes.length) (rlen := rlen)
  have hbin := (Mach.Local.sciBegunBy p (.cmd h.fn h.ctag (s.fn.get h.fn).cseq) addr bytes.length rlen).inside t
  have hs := Mach.sciBegunBy_sci (m := t) (p := p) (who := .cmd h.fn h.ctag (s.fn.get h.fn).cseq) (addr := addr) (wlen := bytes.length) (rlen := rlen)
  generalize t.sciBegunBy p (.cmd h.fn h.ctag (s.fn.get h.fn).cseq) addr bytes.length rlen = d at hb hbin hs ⊢
  have hin := hbin.trans ((Mach.Local.emit (.sci p.1 (s.sciMode p) addr bytes rlen)).inside d)
  refine ⟨⟨_, hin, fun o ho => ?_, .refl _⟩, ⟨?_, rfl, ?_⟩, fun q hq => ?_, ((ht.parts.append hb.parts).append (OnlyIn.emit _ _)).mono (by decide)⟩
  · rw [Mach.emit_out, show d.out = t.out from hb.keeps .out]
    exact List.mem_cons_of_mem _ ho
  · rw [Mach.emit_port, hs, ht.elapsed]
  · rw [hin.fn]
    exact ht.isOpen
  · rw [(hin.others q hq).1, (hin.others q hq).2]
    exact ht.others q hq

end

/-! ### PORT_ENABLE, PORT_DISABLE, PORT_FLUSH and TAP_CONFIG -/

section
variable {s : State} {h : CmdHdr} {p : Fin 16} (hf : s.fetchable h.fn = true)

omit hf in
/-- The own checks of PORT_ENABLE. -/
theorem enableJudge_fetch : ((s.fetch h.fn).portJudge h.fn p).or ((s.fetch h.fn).enableReject p) = (s.portJudge h.fn p).or (s.enableReject p) := by
  have ha := Mach.fetch_alike h.fn s.toMach
  rw [ha.portJudge, ha.enableReject]

omit hf in
/-- What a port command leaves of the other ports. -/
theorem others_of_inside {b t : Mach} {owes : Bool} (hin : Mach.Inside p (s.taken h owes) b) (ht : CplOnly h.fn b t) :
    ∀ q : Fin 16, q ≠ p → t.port.get q = s.port.get q ∧ t.fe.get q = s.fe.get q := fun q hq => by
  have hal := Mach.taken_alike h owes s.toMach
  rw [show t.port = b.port from ht.parts .port (by decide), show t.fe = b.fe from ht.parts .fe (by decide), (hin.others q hq).1, (hin.others q hq).2, hal.port,
    hal.fe]
  exact ⟨rfl, rfl⟩

omit hf in
/-- A command that owes no DONE leaves the open list. -/
theorem same_of_inside {b t : Mach} (hin : Mach.Inside p (s.taken h false) b) (ht : CplOnly h.fn b t) :
    (t.fn.get h.fn).openCmds = (s.fn.get h.fn).openCmds := by
  have ho : (t.fn.get h.fn).openCmds = (b.fn.get h.fn).openCmds := by rw [ht.own]
  rw [ho, hin.fn]
  exact Mach.fetch_fn_get h.fn h.fn s.toMach Func.openCmds fun _ _ _ => rfl

include hf

theorem portEnable_rejects {code : Nat} (hp : s.preCheck h 0x21 = none) (hj : (s.portJudge h.fn p).or (s.enableReject p) = some code) :
    Rejects (.portEnable h p) h 0x21 code s := judged_rejects rfl hf hp (enableJudge_fetch.trans hj)

theorem portEnable_idle (hp : s.preCheck h 0x21 = none) (hj : s.portJudge h.fn p = none) (hr : s.enableReject p = none)
    (hen : s.on (R.ING_CTRL_EN p) = true) : Accepts (.portEnable h p) h 0x21 0 0 s fun t =>
      t.port = s.port ∧ t.fe = s.fe ∧ RegsBut [R.HIF_CMD_FETCHED.a] s.toMach t ∧ OnlyIn [.regs, .jnl, .sleep, .fn, .out] s.toMach t := by
  have hal := Mach.taken_alike h false s.toMach
  have hon : (s.taken h false).on (R.ING_CTRL_EN p) = true := (hal.ctrlOn p).trans hen
  refine plain_accepts (a := { m := s.taken h false }) rfl hf hp (enableJudge_fetch.trans (by rw [hj, hr]; rfl)) (by rw [if_pos hon]) (.refl _) rfl
    fun t ht => ?_
  obtain ⟨hreg, hparts⟩ := taken_quiet (h := h) (owes := false) (a := s.toMach) (b := s.taken h false) rfl (.refl _ _) ht
  exact ⟨(ht.parts .port (by decide)).trans hal.port, (ht.parts .fe (by decide)).trans hal.fe, hreg, hparts⟩

theorem portEnable_starts (hp : s.preCheck h 0x21 = none) (hj : s.portJudge h.fn p = none) (hr : s.enableReject p = none)
    (hen : s.on (R.ING_CTRL_EN p) = false) : Accepts (.portEnable h p) h 0x21 0 0 s fun t =>
      t.g (R.ING_CTRL_EN p) = 1 ∧ (t.port.get p).running = true ∧ (t.port.get p).stopReq = false ∧ (t.port.get p).fit.valid = false ∧
      (t.port.get p).vat = (s.port.get p).vat ∧ (t.fe.get p).surf = [] ∧ (t.fe.get p).zeroing = true ∧ (t.fe.get p).warming = true ∧
      (∀ q : Fin 16, q ≠ p → t.port.get q = s.port.get q ∧ t.fe.get q = s.fe.get q) ∧ (t.fn.get h.fn).openCmds = (s.fn.get h.fn).openCmds ∧
      RegsBut [R.HIF_CMD_FETCHED.a, (R.ING_CTRL_EN p).a] s.toMach t ∧ OnlyIn [.regs, .port, .fe, .jnl, .sleep, .fn, .out] s.toMach t := by
  have hal := Mach.taken_alike h false s.toMach
  have hoff : ¬ (s.taken h false).on (R.ING_CTRL_EN p) = true := by
    rw [hal.ctrlOn p, hen]
    exact Bool.false_ne_true
  have hin := (Mach.Local.enablePort p).inside (s.taken h false)
  have hport := Mach.enablePort_port p (s.taken h false)
  have hfe := Mach.enablePort_fe p (s.taken h false)
  have hregs : ((s.taken h false).enablePort p).regs = ((s.taken h false).set1 (R.ING_CTRL_EN p)).regs := rfl
  refine plain_accepts (a := { m := (s.taken h false).enablePort p }) rfl hf hp (enableJudge_fetch.trans (by rw [hj, hr]; rfl)) (by rw [if_neg hoff])
    (hin.hostKept h.fn) rfl fun t ht => ?_
  have htp : t.port.get p = _ := (congrArg (·.get p) (ht.parts .port (by decide))).trans hport
  have htf : t.fe.get p = _ := (congrArg (·.get p) (ht.parts .fe (by decide))).trans hfe
  rw [htp, htf, hal.port]
  refine ⟨?_, rfl, rfl, rfl, rfl, rfl, rfl, rfl, others_of_inside hin ht, same_of_inside hin ht, ?_, ?_⟩
  · rw [ht.g, Mach.g_of_regs hregs]
    exact Mach.g_set1 _ _ rfl (by simp only [R.ING_CTRL_EN]; omega)
  · exact taken_cplOnly_regs (Mach.RegsBut.of_regs (Mach.RegsBut.put _ _ _) hregs) ht
  · exact (taken_cplOnly_parts (Mach.enablePort_within _ _).parts ht).mono (by decide)

theorem portDisable_rejects {code : Nat} (hp : s.preCheck h 0x21 = none) (hj : s.portJudge h.fn p = some code) :
    Rejects (.portDisable h p) h 0x21 code s := judged_rejects rfl hf hp (((Mach.fetch_alike h.fn s.toMach).portJudge h.fn p).trans hj)

theorem portDisable_accepts (hp : s.preCheck h 0x21 = none) (hj : s.portJudge h.fn p = none) : Accepts (.portDisable h p) h 0x21 0 0 s fun t =>
    t.g (R.ING_CTRL_EN p) = 0 ∧ (t.port.get p).running = (s.port.get p).running ∧ ((s.port.get p).running = true → (t.port.get p).stopReq = true) ∧
      (t.port.get p).vat = (s.port.get p).vat ∧ (∀ q : Fin 16, q ≠ p → t.port.get q = s.port.get q ∧ t.fe.get q = s.fe.get q) ∧
      (t.fn.get h.fn).openCmds = (s.fn.get h.fn).openCmds ∧ RegsBut [R.HIF_CMD_FETCHED.a, (R.ING_CTRL_EN p).a] s.toMach t ∧
      OnlyIn [.regs, .port, .jnl, .sleep, .fn, .out] s.toMach t := by
  have hal := Mach.taken_alike h false s.toMach
  have hin := (Mach.Local.disablePort p).inside (s.taken h false)
  refine plain_accepts (a := { m := (s.taken h false).disablePort p }) rfl hf hp (((Mach.fetch_alike h.fn s.toMach).portJudge h.fn p).trans hj) rfl
    (hin.hostKept h.fn) rfl fun t ht => ?_
  have htp : t.port.get p = _ := (congrArg (·.get p) (ht.parts .port (by decide))).trans (Mach.disablePort_port p (s.taken h false))
  rw [htp, hal.port]
  refine ⟨?_, rfl, fun hrun => by rw [hrun]; rfl, rfl, others_of_inside hin ht, same_of_inside hin ht, ?_, ?_⟩
  · rw [ht.g, Mach.g_of_regs (Mach.disablePort_regs _ _)]
    exact Mach.g_clr _ _ (by simp only [R.ING_CTRL_EN]; omega) (by simp only [R.ING_CTRL_EN]; omega)
  · exact taken_cplOnly_regs (Mach.RegsBut.of_regs (Mach.RegsBut.put _ _ _) (Mach.disablePort_regs _ _)) ht
  · exact (taken_cplOnly_parts (Mach.disablePort_within _ _).parts ht).mono (by decide)

theorem portFlush_rejects {code : Nat} (hp : s.preCheck h 0x22 = none) (hj : s.portJudge h.fn p = some code) :
    Rejects (.portFlush h p) h 0x22 code s := judged_rejects rfl hf hp (((Mach.fetch_alike h.fn s.toMach).portJudge h.fn p).trans hj)

omit hf in
/-- A flush that its command waits for. -/
def flushOwed (e : Fin 8 × Nat × Nat) (x : Port) : Port := { x with flushPend := true, flushOwed := x.flushOwed ++ [e] }

theorem portFlush_accepts (hp : s.preCheck h 0x22 = none) (hj : s.portJudge h.fn p = none) : Accepts (.portFlush h p) h 0x22 0 0 s fun t =>
    t.port.get p = flushOwed (h.fn, h.ctag, (s.fn.get h.fn).cseq) (s.port.get p) ∧
      (t.fn.get h.fn).openCmds = (s.fn.get h.fn).openCmds ++ [(s.fn.get h.fn).cseq] ∧
      (∀ q : Fin 16, q ≠ p → t.port.get q = s.port.get q ∧ t.fe.get q = s.fe.get q) ∧ RegsBut [R.HIF_CMD_FETCHED.a] s.toMach t ∧
      OnlyIn [.regs, .port, .jnl, .sleep, .fn, .out] s.toMach t := by
  have hal := Mach.taken_alike h true s.toMach
  have hin := (Mach.Local.onPort (p := p) (flushOwed (h.fn, h.ctag, (s.fn.get h.fn).cseq))).inside (s.taken h true)
  have hw := Mach.onPort_within p (flushOwed (h.fn, h.ctag, (s.fn.get h.fn).cseq)) (s.taken h true)
  refine plain_accepts (a := { m := (s.taken h true).onPort p (flushOwed (h.fn, h.ctag, (s.fn.get h.fn).cseq)) }) rfl hf hp
    (((Mach.fetch_alike h.fn s.toMach).portJudge h.fn p).trans hj) rfl (hin.hostKept h.fn) rfl fun t ht => ⟨?_, ?_, others_of_inside hin ht, ?_, ?_⟩
  · rw [show t.port = _ from ht.parts .port (by decide), Mach.onPort_get_self, hal.port]
  · exact taken_open ht (by rw [hin.fn])
  · exact taken_cplOnly_regs (l := []) (Mach.RegsBut.of_regs (.refl _ _) (hw.keeps .regs)) ht
  · exact (taken_cplOnly_parts hw.parts ht).mono (by decide)

omit hf in
/-- A function's tap set anew, with what it has kept. -/
def tapSet (mask shift : Nat) (en : Bool) (x : Func) : Func := { x with tap := { x.tap with en := en, mask := mask, shift := shift % 32, seen := 0 } }

theorem tapConfig_accepts {mask shift : Nat} {en : Bool} (hp : s.preCheck h 0x70 = none) : Accepts (.tapConfig h mask shift en) h 0x70 0 0 s fun t =>
    (t.fn.get h.fn).tap.en = en ∧ (t.fn.get h.fn).tap.shift = shift % 32 ∧ (t.fn.get h.fn).tap.seen = 0 ∧ (t.fn.get h.fn).tap.mask = mask ∧
      (t.fn.get h.fn).tap.buf = (s.fn.get h.fn).tap.buf ∧ (t.fn.get h.fn).openCmds = (s.fn.get h.fn).openCmds ∧
      (∀ g : Fin 8, g ≠ h.fn → t.fn.get g = s.fn.get g) ∧ RegsBut [R.HIF_CMD_FETCHED.a] s.toMach t ∧
      OnlyIn [.regs, .jnl, .sleep, .fn, .out] s.toMach t := by
  have hget : ((s.taken h false).onFn h.fn (tapSet mask shift en)).fn.get h.fn = tapSet mask shift en ((s.taken h false).fn.get h.fn) := by
    rw [Mach.onFn_fn, vmod_get_self]
  refine plain_accepts (a := { m := (s.taken h false).onFn h.fn (tapSet mask shift en) }) rfl hf hp rfl rfl (.onFn _ _ fun _ => ⟨rfl, rfl, rfl⟩) rfl
    fun t ht => ?_
  obtain ⟨hreg, hparts⟩ := taken_quiet (h := h) (owes := false) (a := s.toMach) (b := (s.taken h false).onFn h.fn (tapSet mask shift en)) rfl
    ((OnlyIn.onFn _ _ _).mono (by decide)) ht
  have htap : (t.fn.get h.fn).tap = (tapSet mask shift en ((s.taken h false).fn.get h.fn)).tap := by rw [ht.own, hget]
  have hopen : (t.fn.get h.fn).openCmds = ((s.taken h false).fn.get h.fn).openCmds := by
    rw [ht.own, hget]
    rfl
  have hbuf : ((s.taken h false).fn.get h.fn).tap.buf = (s.fn.get h.fn).tap.buf := Mach.fetch_fn_get h.fn h.fn s.toMach (·.tap.buf) fun _ _ _ => rfl
  have hsame : ((s.taken h false).fn.get h.fn).openCmds = (s.fn.get h.fn).openCmds :=
    Mach.fetch_fn_get h.fn h.fn s.toMach Func.openCmds fun _ _ _ => rfl
  rw [htap]
  refine ⟨rfl, rfl, rfl, rfl, hbuf, hopen.trans hsame, fun g hg => ?_, hreg, hparts⟩
  rw [ht.others g hg, Mach.onFn_fn, vmod_get_ne _ _ hg]
  exact Mach.fetch_fn_other _ hg

end

/-- An accepted command meets what follows from what it meets. -/
theorem Accepts.imp {c : Instr} {h : CmdHdr} {op d10 d18 : Nat} {s : State} {P Q : Mach → Prop} (ha : Accepts c h op d10 d18 s P) (hi : ∀ t, P t → Q t) :
    Accepts c h op d10 d18 s Q := by
  obtain ⟨t, hx, hpend, hfet, hcpl, hrej, hP⟩ := ha
  exact ⟨t, hx, hpend, hfet, hcpl, hrej, hi _ hP⟩

/-- Settles O45: PORT_CONFIG WRITES by comparing the pairs before and after the fetch, which differ in the command unit only. -/
theorem portCommandsComplete : Obligations.PortCommandsComplete := by
  unfold Obligations.PortCommandsComplete
  intro s h p n pairs addr rlen bytes mask shift en f cseq others isOpen same judge mode hf
  refine ⟨fun hp => ⟨fun code hc => ⟨?_, ?_⟩, fun hj => ⟨fun code hc => ?_, portWrites_accepts hf hp hj, fun hst => ?_, fun ho hs hl hr => ?_,
    fun ho hs hl => ?_⟩⟩, fun hp => ⟨fun code hc => ⟨?_, portDisable_rejects hf hp hc⟩, fun hj => ⟨fun code hc => ?_, fun hr =>
      ⟨portEnable_idle hf hp hj hr, portEnable_starts hf hp hj hr⟩, portDisable_accepts hf hp hj⟩⟩,
    fun hp => ⟨fun code hc => portFlush_rejects hf hp hc, fun hj => portFlush_accepts hf hp hj⟩, tapConfig_accepts hf⟩
  · exact portWrites_rejects hf hp (by rw [show s.portJudge h.fn p = some code from hc]; rfl)
  · exact portSci_rejects hf hp (sciJudge_owner hc)
  · exact portWrites_rejects hf hp (by rw [show s.portJudge h.fn p = none from hj]; exact hc)
  · exact portSci_rejects hf hp (sciJudge_state hj hst)
  · have hn := sciJudge_none hj ho hs
    by_cases hm : s.sciMode p = 0 ∨ 4 < s.sciMode p
    · refine (portSci_off hf hp hn hl hr hm).imp fun t ht => ?_
      obtain ⟨hsci, h1, h4, hoth, hparts⟩ := ht
      exact ⟨fun _ => ⟨hsci, h1, h4⟩, fun h1 h4 => absurd hm (not_or.mpr ⟨by omega, by omega⟩), hoth, hparts⟩
    · obtain ⟨hm0, hm4⟩ := not_or.mp hm
      refine (portSci_runs hf hp hn hl hr (by omega) (by omega)).imp fun t ht => ?_
      obtain ⟨hrun, hoth, hparts⟩ := ht
      exact ⟨fun hoff => absurd hoff hm, fun _ _ => hrun, hoth, hparts.mono (by decide)⟩
  · exact portSci_long hf hp (sciJudge_none hj ho hs) hl
  · exact portEnable_rejects hf hp (by rw [show s.portJudge h.fn p = some code from hc]; rfl)
  · exact portEnable_rejects hf hp (by rw [show s.portJudge h.fn p = none from hj]; exact hc)

end Sys2Proof.Machine
